-- ==== Sys2Proof/Word.lean ====
section
/-!
DEFINITION. The word types of the G2 and their plainest arithmetic (R5, R6).
-/

namespace Sys2Proof

/-- A byte of memory or of a frame. -/
abbrev Byte := BitVec 8

/-- A 32-bit field (R6). -/
abbrev W32 := BitVec 32

/-- A Col register (R7). -/
abbrev W64 := BitVec 64

end Sys2Proof
end

