-- ==== Sys2Proof/Syntax.lean ====
section
/-!
DEFINITION. The commands and events of the G2: one constructor of `Instr` for each row of the table of
operations and events. An operand is what the sender of the command, or the world outside the part, supplies:
a descriptor, a frame as received, a sensor reading, the outcome of an optical measurement.
-/

namespace Sys2Proof

/-- The two control ports (R202). -/
inductive Port where
  | cp0 | cp1
  deriving DecidableEq, Repr

/-- The two flanks: die 0 and die 1 (R14). -/
inductive Flank where
  | north | south
  deriving DecidableEq, Repr

/-- The two command queues (R244). -/
inductive Queue where
  | normal | urgent
  deriving DecidableEq, Repr

/-- Fault classes, Table 17-2 (R450). -/
inductive FClass where
  | c | d | u | x
  deriving DecidableEq, Repr

/-- Enforcement domains, Table 15-4 (R423). -/
inductive Domain where
  | north | south | package
  deriving DecidableEq, Repr

/-- The four engines of a core (R55). -/
inductive Engine where
  | t | v | m | p
  deriving DecidableEq, Repr

/-- Masters of the lock and mailbox blocks, Table 9-6 (R238). -/
inductive Master where
  | firmware | cp0 | cp1 | guest | north | south
  deriving DecidableEq, Repr

/-- A mailbox channel: host channel 0–23 or guest channel G0–G3 (R223). -/
inductive MbxChan where
  | host (n : Nat)
  | guest (g : Nat)
  deriving DecidableEq, Repr

/-- The port whose copy of a host frame is acted on, and the frame's SECURE attribute (R218, R219). -/
structure Access where
  port : Port
  secure : Bool
  deriving DecidableEq, Repr

/-- A control-port frame, Table 8-1 (R205). -/
structure Frame where
  seq : BitVec 32
  type : BitVec 8
  fflags : BitVec 8
  length : BitVec 16
  refSeq : BitVec 32
  arg : BitVec 16
  reserved : BitVec 16
  address : BitVec 64
  credit : BitVec 32
  crc : BitVec 32
  payload : List Byte
  deriving DecidableEq, Repr

/-- A command descriptor as read from a ring, Table 10-2 (R247), with the ring it was read from (R246).
`reserved` tells whether a reserved field was not zero. -/
structure Descriptor where
  queue : Queue
  secure : Bool
  hseq : BitVec 32
  opcode : BitVec 16
  fence : Bool
  silent : Bool
  target : BitVec 32
  argLen : BitVec 32
  argAddr : BitVec 64
  resAddr : BitVec 64
  resLen : BitVec 32
  imm0 : BitVec 64
  imm1 : BitVec 64
  reserved : Bool
  deriving DecidableEq, Repr

/-- The ring configuration registers, Table 10-1 (R244). -/
inductive RingReg where
  | nqBase | nqSize | uqBase | uqSize | cqBase | cqSize | ctrl
  deriving DecidableEq, Repr

/-- What a source reports to the fault collector (R449–R453). -/
structure FaultInput where
  source : BitVec 16
  cls : FClass
  syndrome : BitVec 64
  resumed : Option (BitVec 32)
  forced : Bool
  deriving DecidableEq, Repr

/-- The ten storage formats, Table 5-1 (R119), numbered 1 to 10 in this order. -/
inductive Fmt where
  | fp32 | bf16 | fp16 | e4m3 | e5m2 | e3m2 | e2m3 | e2m1 | int8 | int4
  deriving DecidableEq, Repr

/-- A work item as the firmware places it, Table 3-6 (R69): its header but WI_SEQ, which the queue's sent total gives, and
the operands of its cluster program, bytes 32–127. -/
structure WorkItem where
  graph : BitVec 32
  opIndex : BitVec 32
  flags : BitVec 16
  coreMask : BitVec 16
  program : BitVec 64
  tag : BitVec 32
  wait : BitVec 32
  operands : BitVec 768
  deriving DecidableEq, Repr

/-- The sync counter an engine operation waits on (R70). -/
structure SyncRef where
  cluster : Bool
  index : Nat
  deriving DecidableEq, Repr

/-- The sync counter an engine operation signals at retirement (R70). -/
inductive Signal where
  | none
  | core (i : Nat)
  | cluster (i : Nat)
  | remote (phys : Nat) (i : Nat)
  deriving DecidableEq, Repr

/-- What one lane of the V engine computes (R58, R129, R130, R150). -/
inductive VFn where
  | add | sub | mul | fma | max | min | abs | neg | relu | copy
  | clamp (lo hi : BitVec 32)
  | recip | sqrt | rsqrt | exp2 | log2 | sin | cos | tanh | erf
  | cmp (mode : Nat) | sel
  | rsum | rmax | rmin | argmax
  /-- the input scale of R92: the largest finite magnitude, 1.0 where that is zero or none is finite -/
  | rscale
  /-- TOP_K along the lanes: the k largest or smallest elements, or their indices (R129, R150) -/
  | topk (k : Nat) (largest index : Bool)
  | iadd | isub | imul | iand | ior | ixor | ishl | ishr
  deriving DecidableEq, Repr

/-- A source of a vector operation in the local store; loads at or past `limit` bytes are outside the operand
(R157). `scale` is the address of the block scales of a block-scaled format (R124). -/
structure VSrc where
  addr : Nat
  fmt : Fmt
  scale : Nat
  limit : Option Nat
  deriving DecidableEq, Repr

/-- The destination of a vector operation (R58, R131–R133). -/
structure VDst where
  addr : Nat
  fmt : Fmt
  scale : Nat
  limit : Option Nat
  stochastic : Bool
  sat : Bool
  deriving DecidableEq, Repr

/-- A location the M engine moves from or to (R59). -/
inductive Loc where
  | store (addr : Nat)
  | cluster (exposed : Nat) (off : Nat)
  | local (addr : Nat)
  | global (pkg : Nat) (addr : Nat)
  deriving DecidableEq, Repr

/-- An operand of a kernel invocation (R155, R157): where its storage lies, the bytes of its element array, the offset of its
scale array, and the extent of its block axis, 0 where it has none. -/
structure KOperand where
  base : Loc
  bytes : Nat
  scaleAt : Nat
  row : Nat
  deriving DecidableEq, Repr

/-- What one engine operation does (R57–R59, Table 4-2). -/
inductive OpBody where
  | tMac (fa fb : Fmt) (k a b sa sb tile : Nat) (init : Option (Nat × Fmt))
  /-- four real tile products of complex operands; real and imaginary accumulators in adjacent tiles (R57, R138) -/
  | tComplex (fa fb : Fmt) (k ar ai br bi sar sai sbr sbi tile : Nat) (conj : Bool)
  | tStore (tile dst : Nat)
  | vec (fn : VFn) (srcs : List VSrc) (dst : VDst) (n : Nat)
  /-- a radix-4 butterfly on 16 complex FP32 points, with a twiddle for each (R58, R138) -/
  | butterfly (re im wre wim ore oim : Nat) (inverse : Bool)
  | move (src dst : Loc) (dims : List (Nat × Nat × Nat)) (elt : Nat)
  | gather (table dst : Loc) (idx n elt extent : Nat) (scatter : Bool)
  /-- one invocation of a kernel, lowered to V and M operations (R155–R157, log 108) -/
  | kern (code : List (BitVec 64)) (grid : List Nat) (lane : Nat) (operands : List KOperand)
      (stochastic sat : Bool) (scratch : Nat)
  | pFill (slot w src : Nat) (sw : BitVec 32)
  | pRun (slot w : Nat) (signed : Bool) (g windows input : Nat) (infmt : Fmt) (stride sx out : Nat)
      (outfmt : Fmt)
  deriving DecidableEq, Repr

/-- One entry of an engine queue (R64, R70). `fallback` are the T operations to which the cluster program lowers a photonic
operation while no P engine of the cluster is in service (R79). -/
structure EngOp where
  wi : BitVec 32
  wait : Option (SyncRef × BitVec 32)
  signal : Signal
  body : OpBody
  fallback : List OpBody
  deriving DecidableEq, Repr

/-- The queues of Table 3-5 (R64). -/
inductive QueueRef where
  | cluster (p : Nat)
  | engine (p c : Nat) (e : Engine)
  | completion (f : Flank)
  | remoteSync (p : Nat)
  deriving DecidableEq, Repr

/-- What a pitch check of a bank measured (R109): rings that failed the tone test and the reference product. -/
structure BankCheck where
  failedRings : List Nat
  referenceOk : Bool
  relockTimeout : Bool
  deriving DecidableEq, Repr

/-- What a receive channel measured over a 1 s interval (R304): symbols corrected, symbol errors and symbols
received, and uncorrectable codewords. -/
structure ErrorInterval where
  corrected : Nat
  symbolErrors : Nat
  symbols : Nat
  uncorrectable : Nat
  toneFailed : Bool
  deriving DecidableEq, Repr

/-- The fields of CHECK_REPORT, Table 12-3 (R319). -/
structure CheckReport where
  ch : Nat
  errors : List Nat
  spacing : List Nat
  bias : Int
  drive : Int
  deriving DecidableEq, Repr

/-- What a lane pitch check ended with (R309): bit errors and bits of the 50–58 µs phase, whether a ring
failed its tone test, and whether its walk ended in FAILED. -/
structure LaneCheck where
  errors : Nat
  bits : Nat
  toneFailed : Bool
  walkFailed : Bool
  deriving DecidableEq, Repr

/-- What the training blocks of one locked receive channel say, and the tone its drop ring demodulates (Table 12-5, R330);
`marker`: MARKER was found on the polarity of its lock. -/
structure Heard where
  ch : Nat
  marker : Bool
  lane : Nat
  channel : Nat
  slot : BitVec 48
  tone : Nat
  deriving DecidableEq, Repr

/-- What an end sees when it meets the exit condition of its training state (R306, R327–R331): verified transmit rings or
receive rings, fenced channels whose pitch check passed, locked channels, what each says, and the far end's words: MAP,
NONCE, CAP, WIDTH, NEG_DONE, ACTIVE_AT (0 until named), ECHO and ECHO_AGE. -/
structure TrainInput where
  verified : List Nat
  checked : List Nat
  locked : List Nat
  heard : List Heard
  farMap : List Nat
  farNonce : BitVec 64
  farCap : BitVec 64
  farWidth : Nat
  farNegDone : Bool
  farActiveAt : BitVec 48
  echo : BitVec 48
  echoAge : Nat
  deriving DecidableEq, Repr

/-- A flit as received, Table 13-2 (R343). -/
structure Flit where
  lseq : BitVec 32
  lack : BitVec 32
  gseq : BitVec 32
  type : BitVec 8
  lflags : BitVec 8
  detours : BitVec 8
  pause : BitVec 8
  dst : BitVec 32
  src : BitVec 32
  tag : BitVec 32
  len : BitVec 16
  payload : List Byte
  crc : BitVec 32
  deriving DecidableEq, Repr

/-- Firmware messages on VC3 (R344): loan requests (R196), their return (R197), START confirmation (R162). -/
inductive SysMsg where
  | loanRequest (bytes : Nat)
  | loanReturn (window : Nat)
  | startConfirm (bundleId : BitVec 128) (crc : BitVec 32)
  | other (word : BitVec 64)
  deriving DecidableEq, Repr

/-- WIDTH_REQ and WIDTH_ACK (R359): width code, excluded channels, switch slot. -/
structure WidthMsg where
  width : Nat
  exclude : List Nat
  slot : BitVec 48
  deriving DecidableEq, Repr

/-- A collective contribution or result (R369). -/
structure CollMsg where
  coll : Nat
  chunk : Nat
  op : Nat
  weight : Nat
  elems : List (BitVec 32)
  poison : Bool
  deriving DecidableEq, Repr

/-- TIME_SYNC as received (R373): candidate, hops, the sender's timebase and stamps of the last exchange. -/
structure TimeMsg where
  priority : Nat
  master : Nat
  hops : Nat
  sent : Nat
  received : Nat
  echoSent : Nat
  echoReceived : Nat
  deriving DecidableEq, Repr

/-- A Verweust slot as received (R381, R382). -/
structure D2dSlot where
  v : Bool
  k : Bool
  p : Bool
  a : Bool
  flit : BitVec 256
  crc : BitVec 16
  deriving DecidableEq, Repr

/-- What a module link-up saw (R387–R389): the far end's capability words, its ID (of a seam module, the flank it
comes from) and the wires of each direction that failed or passed their tests. -/
structure LinkUpInput where
  caps : List (BitVec 32)
  from_ : Flank
  design : BitVec 16
  stepping : BitVec 8
  badWires : List (Nat × Nat)
  goodWires : List (Nat × Nat)
  deriving DecidableEq, Repr

/-- A guest transaction header, Table 14-7 (R402); `zero` tells that the zero fields are zero. -/
structure GuestReq where
  opcode : BitVec 8
  tag : BitVec 8
  len : BitVec 4
  addr : BitVec 40
  mask : BitVec 32
  zero : Bool
  deriving DecidableEq, Repr

/-- What the rail sense inputs have measured over the trailing 1 ms, in W: VDD_N and VDD_S, the flank compute share, and
every other rail but VGST (R420). -/
structure PowerReading where
  compute : Nat
  rest : Nat
  deriving DecidableEq, Repr

/-- Who a DRAM access is for (R176, R195, R201). -/
inductive Requester where
  | cluster (p : Nat)
  | host
  | peer (pkg : Nat)
  | guest
  | firmware
  deriving DecidableEq, Repr

/-- What the decoder finds in one codeword, and the bank and row of its channel that hold it (R179, R188, R190). -/
structure BadSymbols where
  count : Nat
  pos1 : Nat
  pos2 : Nat
  pattern : Bool
  bank : Nat
  row : Nat
  deriving DecidableEq, Repr

/-- A BULK_READ frame, and the lines of DRAM that the decoder finds bad (R188, R207). -/
structure FrameRead where
  frame : Frame
  bad : List (Nat × BadSymbols)
  deriving DecidableEq, Repr

/-- A guest READ, and the lines of DRAM that the decoder finds bad (R188, R402). -/
structure GuestRead where
  req : GuestReq
  bad : List (Nat × BadSymbols)
  deriving DecidableEq, Repr

/-- The length of a peer's read, and the lines of DRAM that the decoder finds bad (R188, R367). -/
structure SpanRead where
  bytes : Nat
  bad : List (Nat × BadSymbols)
  deriving DecidableEq, Repr

/-- An engine whose next operation starts, and the lines of DRAM that the decoder finds bad (R70, R188). -/
structure EngineRead where
  engine : Engine
  bad : List (Nat × BadSymbols)
  deriving DecidableEq, Repr

/-- Who accesses a mailbox, and whether the frame of a port carries SECURE (R12, R223). -/
structure MbxAccess where
  master : Master
  secure : Bool
  deriving DecidableEq, Repr

/-- Who drains a mailbox, and the other W1C bits it writes (R226, R229). -/
structure MbxDrain where
  master : Master
  secure : Bool
  bits : BitVec 64
  deriving DecidableEq, Repr

/-- A request to the home directory, Table 7-5 (R184). -/
inductive DirReq where
  | remoteRead
  | remoteReadForWrite
  | remoteWriteBack (data : List Byte) (poison : Byte)
  | localRead
  | localWrite (data : List (Option Byte)) (poison : Byte)
  deriving DecidableEq, Repr

/-- The power-good inputs of Table 19-1 (R490). -/
inductive PowerGood where
  | aon | io | col | mem | core | ll | las | gst
  deriving DecidableEq, Repr

/-- The pins the Col looks at when it would leave reset (R491, R499). -/
structure ResetPins where
  powerGood : Bool
  refclkOk : Bool
  bootHold : Bool
  deriving DecidableEq, Repr

/-- One firmware slot as the boot ROM finds it (R478). -/
structure SlotCheck where
  keyOk : Bool
  sigOk : Bool
  securityVersion : BitVec 32
  fwVersion : BitVec 32
  hash : BitVec 256
  deriving DecidableEq, Repr

/-- The three firmware slots at boot (R478). -/
structure BootImages where
  a : SlotCheck
  b : SlotCheck
  r : SlotCheck
  deriving DecidableEq, Repr

/-- What NVM load reads that may be amiss (R436, R437, R481): the bytes of both copies of a calibration record, by kind and
instance; another record by name with a bad copy, where `both` tells that both copies are bad; a kind whose hash
mismatched (R438). Calibration records that are not listed are read as the factory wrote them. -/
inductive BadRecord where
  | calibration (kind inst : Nat) (copy0 copy1 : List (BitVec 8))
  | service (name : Nat) (both : Bool)
  | calHash (kind : Nat)
  deriving DecidableEq, Repr

/-- An ID message that a module's end received (R54, Table 14-3): of a seam module, from which flank; the design
code and the stepping. -/
structure ModuleId where
  mod : Nat
  from_ : Flank
  design : BitVec 16
  stepping : BitVec 8
  deriving DecidableEq, Repr

/-- What the Col sees as the Verweust groups come up (R53, R54, R394, R498): on which Col groups a flank answers, and the
IDs the far ends report; a module that is not named reports what its position requires (log 93). -/
structure StrapInput where
  north : Bool
  south : Bool
  ids : List ModuleId
  deriving DecidableEq, Repr

/-- What laser warm-up found of one laser (R443, R498). -/
structure LaserCheck where
  inst : Nat
  failed : Bool
  ratioOff : Bool
  frequencyOff : Bool
  deriving DecidableEq, Repr

/-- What ring lock found of one ring (R444, R498): of a bank (physical cluster, core) or of a channel side. -/
inductive RingCheck where
  | bank (p c ring : Nat) (walkFailed disagrees : Bool)
  | channel (inst : Nat) (walkFailed disagrees : Bool)
  deriving DecidableEq, Repr

/-- What DEVICE_WAKE finds on the way to READY (R270): failed clusters and cores, and rings. -/
structure WakeReport where
  selfTest : List (Nat × Option Nat)
  rings : List RingCheck
  deriving DecidableEq, Repr

/-- A debug token (R488); `sigOk` is the outcome of the signature check by Kwanuko's key. -/
structure DebugToken where
  version : BitVec 16
  kind : BitVec 16
  serial : BitVec 128
  challenge : BitVec 256
  scope : BitVec 4
  sigOk : Bool
  deriving DecidableEq, Repr

/-- Standard JTAG instructions (R487). -/
inductive JtagInstr where
  | bypass | idcode | samplePreload | extest | clamp | highz
  deriving DecidableEq, Repr

/-- Where light arrives (R327, R534). -/
inductive LightTarget where
  | link (n : Nat)
  | port (p : Port)
  deriving DecidableEq, Repr

/-- The commands and events: one constructor for each row of the table of operations and events. -/
inductive Instr where
  /-- DEVICE_INFO (R272) -/
  | deviceInfo (d : Descriptor)
  /-- DEVICE_STANDBY (R270) -/
  | deviceStandby (d : Descriptor)
  /-- DEVICE_WAKE (R270) -/
  | deviceWake (d : Descriptor) (w : WakeReport)
  /-- DEVICE_RESET (R493) -/
  | deviceReset (d : Descriptor)
  /-- DEVICE_LIMIT (R271) -/
  | deviceLimit (d : Descriptor)
  /-- DEVICE_WATCHDOG (R275) -/
  | deviceWatchdog (d : Descriptor)
  /-- MEM_SET_MODE (R186) -/
  | memSetMode (d : Descriptor)
  /-- MEM_LEND (R196) -/
  | memLend (d : Descriptor)
  /-- MEM_LEND_LIMIT (R196) -/
  | memLendLimit (d : Descriptor)
  /-- MEM_RECLAIM (R197) -/
  | memReclaim (d : Descriptor)
  /-- LOAD_BUNDLE (R144) -/
  | loadBundle (d : Descriptor)
  /-- VERIFY_BUNDLE (R144) -/
  | verifyBundle (d : Descriptor)
  /-- PLACE (R161) -/
  | place (d : Descriptor)
  /-- START (R165) -/
  | start (d : Descriptor)
  /-- PAUSE (R269) -/
  | pause (d : Descriptor)
  /-- RESUME (R269) -/
  | resume (d : Descriptor)
  /-- ABORT (R269) -/
  | abort (d : Descriptor)
  /-- UNLOAD (R166) -/
  | unload (d : Descriptor)
  /-- FAB_STATUS (R377) -/
  | fabStatus (d : Descriptor)
  /-- FAB_CONFIG (R376) -/
  | fabConfig (d : Descriptor)
  /-- FAB_LINK_CTRL (R362) -/
  | fabLinkCtrl (d : Descriptor)
  /-- COUNTERS_ENABLE (R463) -/
  | countersEnable (d : Descriptor)
  /-- COUNTERS_READ (R467) -/
  | countersRead (d : Descriptor)
  /-- CAIRN_ARM (R468) -/
  | cairnArm (d : Descriptor)
  /-- CAIRN_TAKE (R468) -/
  | cairnTake (d : Descriptor)
  /-- CAIRN_READ (R476) -/
  | cairnRead (d : Descriptor)
  /-- FAULT_READ (R458) -/
  | faultRead (d : Descriptor)
  /-- FAULT_CLEAR (R459) -/
  | faultClear (d : Descriptor)
  /-- FAULT_FORCE (R460) -/
  | faultForce (d : Descriptor)
  /-- ACK_SLOWDOWN (R274) -/
  | ackSlowdown (d : Descriptor)
  /-- ATTEST (R485) -/
  | attest (d : Descriptor)
  /-- CLAIM_OWNER (R486) -/
  | claimOwner (d : Descriptor)
  /-- FW_UPDATE (R480) -/
  | fwUpdate (d : Descriptor)
  /-- HOST_FRAME_RECEIVE (R212) -/
  | hostFrameReceive (p : Port) (f : Frame)
  /-- SKEW_LIMIT_EXPIRY (R218) -/
  | skewLimitExpiry (seq : BitVec 32)
  /-- REG_READ (R207) -/
  | regRead (p : Port) (f : Frame)
  /-- REG_WRITE (R207) -/
  | regWrite (p : Port) (f : Frame)
  /-- BULK_WRITE (R207) -/
  | bulkWrite (p : Port) (f : Frame)
  /-- BULK_READ (R207) -/
  | bulkRead (p : Port) (r : FrameRead)
  /-- MBOX_POST (R208) -/
  | mboxPost (p : Port) (f : Frame)
  /-- RESYNC (R220) -/
  | resync (p : Port) (f : Frame)
  /-- HOST_CREDIT_FRAME (R214) -/
  | hostCreditFrame (p : Port) (f : Frame)
  /-- GAP_TIMER_EXPIRY (R213) -/
  | gapTimerExpiry
  /-- CREDIT_FRAME_TIMER (R214) -/
  | creditFrameTimer
  /-- HOST_WINDOW_ACCESS (R221) -/
  | hostWindowAccess (cluster : Nat) (write : Bool) (off : Nat) (data : List (BitVec 8))
  /-- HWIN_RESPONSE (R221) -/
  | hwinResponse (p : Port) (f : Frame)
  /-- HWIN_RETRY_TIMER (R221) -/
  | hwinRetryTimer (seq : BitVec 32)
  /-- PORT_LOCK_LOSS (R204) -/
  | portLockLoss (p : Port)
  /-- PORT_ACTIVE (R204) -/
  | portActive (p : Port)
  /-- PORT_STABLE_TIMER (R217) -/
  | portStableTimer (p : Port)
  /-- MAILBOX_WRITE (R225) -/
  | mailboxWrite (m : MbxAccess) (ch : MbxChan) (w : BitVec 64)
  /-- MAILBOX_DRAIN (R226): a write to the status word with IN_FULL set, and the other W1C bits that `m` brings -/
  | mailboxDrain (m : MbxDrain) (ch : MbxChan)
  /-- FIRMWARE_MAILBOX_POST (R231) -/
  | firmwareMailboxPost (ch : MbxChan) (w : Option (BitVec 64))
  /-- DB_FW_RING_CHANNEL (R233) -/
  | dbFwRingChannel (n : Nat) (a : Access)
  /-- COMMAND_RING (R245) -/
  | commandRing (a : Access)
  /-- DB_FW_RING_HOST_EPOCH (R508) -/
  | dbFwRingHostEpoch (a : Access)
  /-- DB_HOST_EPOCH_WRITE (R237) -/
  | dbHostEpochWrite (v : BitVec 64) (a : Access)
  /-- DB_HOST_MASK_WRITE (R233) -/
  | dbHostMaskWrite (v : BitVec 64) (a : Access)
  /-- DB_GUEST_RING (R233) -/
  | dbGuestRing (v : BitVec 64)
  /-- FIRMWARE_DOORBELL_HANDLE (R235) -/
  | firmwareDoorbellHandle
  /-- LK_LOCK_READ (R240) -/
  | lkLockRead (m : Master) (k : Nat) (secure : Bool)
  /-- LK_LOCK_WRITE (R241) -/
  | lkLockWrite (m : Master) (k : Nat) (v : BitVec 64) (secure : Bool)
  /-- FLT_FORCE_WRITE (R460) -/
  | fltForceWrite (v : BitVec 64) (a : Access)
  /-- FENCE_NOW (R407) -/
  | fenceNow (a : Access)
  /-- CRN_CTRL_TAKE (R514) -/
  | crnCtrlTake (a : Access)
  /-- SYN_CQ_CONSUMED_WRITE (R516) -/
  | synCqConsumedWrite (v : BitVec 64)
  /-- RING_CONFIG_WRITE (R515) -/
  | ringConfigWrite (r : RingReg) (v : BitVec 64) (a : Access)
  /-- TH_THROTTLE_WRITE (R511) -/
  | thThrottleWrite (v : BitVec 64) (a : Access)
  /-- TH_GRACE_WRITE (R511) -/
  | thGraceWrite (v : BitVec 64) (a : Access)
  /-- CP_SKEW_LIMIT_WRITE (R513) -/
  | cpSkewLimitWrite (v : BitVec 64) (a : Access)
  /-- REGISTER_WRITE (R8) -/
  | registerWrite (addr : BitVec 40) (v : BitVec 64) (a : Access)
  /-- MANAGEMENT_READ (R530) -/
  | managementRead (addr : BitVec 40)
  /-- ANNOUNCEMENT (R250) -/
  | announcement (ch : Nat)
  /-- DESCRIPTOR_TAKE (R251) -/
  | descriptorTake (q : Queue)
  /-- COMMAND_BEGIN (R253) -/
  | commandBegin (q : Queue)
  /-- COMPLETION_POST (R255) -/
  | completionPost
  /-- WATCHDOG_EXPIRY (R275) -/
  | watchdogExpiry
  /-- EXECUTION_BEGIN (R268) -/
  | executionBegin (h : BitVec 32)
  /-- EXECUTION_END (R262) -/
  | executionEnd (h : BitVec 32)
  /-- PAUSE_COMPLETE (R269) -/
  | pauseComplete (h : BitVec 32)
  /-- ABORT_COMPLETE (R269) -/
  | abortComplete (h : BitVec 32)
  /-- DEADLINE_EXPIRY (R163) -/
  | deadlineExpiry (h : BitVec 32)
  /-- PEER_START_TIMEOUT (R162) -/
  | peerStartTimeout (h : BitVec 32) (peer : Nat)
  /-- RECV_TIMEOUT (R150) -/
  | recvTimeout (h : BitVec 32) (op : Nat)
  /-- LENDER_TIMEOUT (R170) -/
  | lenderTimeout (pkg : Nat)
  /-- THERMAL_NOTICE_REPEAT (R274) -/
  | thermalNoticeRepeat (dom : Domain)
  /-- FAULT_EVENT (R452) -/
  | faultEvent (e : FaultInput)
  /-- CAIRN_TRIGGER (R469) -/
  | cairnTrigger (code : Nat) (detail : BitVec 32)
  /-- STALL_TIMER (R469) -/
  | stallTimer (p : Nat)
  /-- CAIRN_HOLD_COMPLETE (R470) -/
  | cairnHoldComplete
  /-- CAIRN_RELEASE (R471) -/
  | cairnRelease
  /-- WORK_ITEM_PLACE (R64) -/
  | workItemPlace (x : Nat) (w : WorkItem)
  /-- WORK_ITEM_TAKE (R69) -/
  | workItemTake (p : Nat)
  /-- ENGINE_OP_ISSUE (R71) -/
  | engineOpIssue (p : Nat) (c : Nat) (e : Engine) (op : EngOp)
  /-- ENGINE_OP_START (R70) -/
  | engineOpStart (p : Nat) (c : Nat) (e : EngineRead)
  /-- ENGINE_OP_RETIRE (R70) -/
  | engineOpRetire (p : Nat) (c : Nat) (e : Engine)
  /-- WORK_ITEM_COMPLETE (R75) -/
  | workItemComplete (p : Nat) (seq : BitVec 32)
  /-- REMOTE_SYNC_INCREMENT (R70) -/
  | remoteSyncIncrement (p : Nat)
  /-- CREDIT_UPDATE (R65) -/
  | creditUpdate (q : QueueRef)
  /-- CLUSTER_POWER_GATE (R74) -/
  | clusterPowerGate (p : Nat)
  /-- CLUSTER_WAKE (R74) -/
  | clusterWake (p : Nat)
  /-- CORE_FAILURE (R77) -/
  | coreFailure (p : Nat) (c : Nat)
  /-- CLUSTER_FAILURE (R80) -/
  | clusterFailure (p : Nat)
  /-- P_FILL_COMPLETE (R98) -/
  | pFillComplete (p : Nat) (c : Nat)
  /-- P_RUN_RETIRE (R99) -/
  | pRunRetire (p : Nat) (c : Nat)
  /-- BANK_PITCH_CHECK_START (R107) -/
  | bankPitchCheckStart (p : Nat) (c : Nat)
  /-- BANK_CHECK_URGENT (R108) -/
  | bankCheckUrgent (p : Nat) (c : Nat)
  /-- BANK_PITCH_CHECK_END (R109) -/
  | bankPitchCheckEnd (p : Nat) (c : Nat) (r : BankCheck)
  /-- BANK_RETUNE_WAVE (R104) -/
  | bankRetuneWave (f : Flank)
  /-- BANK_RETUNE_DONE (R104) -/
  | bankRetuneDone (p : Nat) (c : Nat) (failed : List Nat)
  /-- BANK_OUT_OF_RANGE (R106) -/
  | bankOutOfRange (p : Nat) (c : Nat)
  /-- BANK_BACK_IN_RANGE (R106) -/
  | bankBackInRange (p : Nat) (c : Nat)
  /-- BANK_OVERHEAT (R106) -/
  | bankOverheat (p : Nat) (c : Nat)
  /-- BANK_WALK_IDENTIFY (R112) -/
  | bankWalkIdentify (p : Nat) (c : Nat) (r : Nat) (strongest : Nat)
  /-- BANK_WALK_ORDER (R112) -/
  | bankWalkOrder (p : Nat) (c : Nat) (r : Nat)
  /-- BANK_WALK_STEP (R112) -/
  | bankWalkStep (p : Nat) (c : Nat) (r : Nat)
  /-- BANK_WALK_VERIFY (R112) -/
  | bankWalkVerify (p : Nat) (c : Nat) (r : Nat) (pass : Bool)
  /-- BANK_WALK_TIMEOUT (R112) -/
  | bankWalkTimeout (p : Nat) (c : Nat) (r : Nat)
  /-- COMB_SPARE_POINT (R113) -/
  | combSparePoint (inst : Nat)
  /-- COMB_PAUSE_REQUEST (R113) -/
  | combPauseRequest (chip : Nat) (k : Nat)
  /-- COMB_HANDOVER_PAUSE (R113) -/
  | combHandoverPause (chip : Nat) (k : Nat) (failing : List (Nat × Nat))
  /-- COMB_LINE_FAILURE (R114) -/
  | combLineFailure (inst : Nat)
  /-- COMB_CHIPLET_FAILURE (R116) -/
  | combChipletFailure (chip : Nat)
  /-- LASER_SAMPLE (R293) -/
  | laserSample (inst : Nat) (bias : Nat) (output : Nat)
  /-- LASER_FAILURE (R303) -/
  | laserFailure (inst : Nat)
  /-- LASER_BAND_CHANGE (R294) -/
  | laserBandChange (chip : Nat)
  /-- LINK_LASER_SPARE_POINT (R301) -/
  | linkLaserSparePoint (inst : Nat)
  /-- LINK_SPARE_SWITCH (R301) -/
  | linkSpareSwitch (n : Nat) (k : Nat)
  /-- LINK_SPARE_VERIFIED (R301) -/
  | linkSpareVerified (link : Nat) (k : Nat) (ok : Bool)
  /-- PORT_LASER_SWITCH (R312) -/
  | portLaserSwitch (p : Port)
  /-- LANE_MOVE (R297) -/
  | laneMove (link : Nat) (lane : Nat) (a : Nat) (b : Nat) (slot : BitVec 48)
  /-- LANE_MOVE_ACK (R297) -/
  | laneMoveAck (link : Nat) (lane : Nat) (slot : BitVec 48)
  /-- LANE_MOVE_TIMEOUT (R297) -/
  | laneMoveTimeout (link : Nat) (lane : Nat)
  /-- LANE_LOSS_TIMEOUT (R298) -/
  | laneLossTimeout (link : Nat) (lane : Nat)
  /-- LANE_RETIRE (R300) -/
  | laneRetire (link : Nat) (ch : Nat) (dark : Bool)
  /-- CHANNEL_ERROR_INTERVAL (R304) -/
  | channelErrorInterval (inst : Nat) (e : ErrorInterval)
  /-- LANE_CHECK_DUE (R307) -/
  | laneCheckDue (inst : Nat)
  /-- CHECK_START (R307) -/
  | checkStart (link : Nat) (ch : Nat)
  /-- CHECK_REPORT (R319) -/
  | checkReport (link : Nat) (r : CheckReport)
  /-- CHECK_RESULT (R309) -/
  | checkResult (inst : Nat) (r : LaneCheck)
  /-- CHIPLET_WALK_IDENTIFY (R291) -/
  | chipletWalkIdentify (inst : Nat) (strongest : Nat)
  /-- CHIPLET_WALK_ORDER (R291) -/
  | chipletWalkOrder (inst : Nat)
  /-- CHIPLET_WALK_STEP (R291) -/
  | chipletWalkStep (inst : Nat)
  /-- CHIPLET_WALK_VERIFY (R291) -/
  | chipletWalkVerify (inst : Nat) (pass : Bool)
  /-- CHIPLET_WALK_TIMEOUT (R291) -/
  | chipletWalkTimeout (inst : Nat)
  /-- CODEWORD_SLOT (R322) -/
  | codewordSlot (link : Nat)
  /-- CODEWORD_RECEIVE (R316) -/
  | codewordReceive (inst : Nat) (gap : Nat) (w : List (BitVec 10))
  /-- CHANNEL_LOCK (R326) -/
  | channelLock (inst : Nat) (inverted : Bool)
  /-- CHANNEL_LOCK_LOSS (R326) -/
  | channelLockLoss (inst : Nat)
  /-- TRAINING_ADVANCE (R327) -/
  | trainingAdvance (link : Nat) (x : TrainInput)
  /-- TRAINING_TIMEOUT (R332) -/
  | trainingTimeout (link : Nat)
  /-- BIVOUAC_EXIT_TIMER (R332) -/
  | bivouacExitTimer (link : Nat)
  /-- ACTIVE_AT_REACHED (R328) -/
  | activeAtReached (link : Nat) (tx : Bool)
  /-- NO_PEER_TIMER (R327) -/
  | noPeerTimer (link : Nat)
  /-- LANE_RETRAIN (R333) -/
  | laneRetrain (link : Nat) (slot : Option (BitVec 48))
  /-- SLEEP (R334) -/
  | sleep (link : Nat) (tx : Bool) (slot : BitVec 48)
  /-- WAKE (R335) -/
  | wake (link : Nat) (tx : Bool) (slot : BitVec 48)
  /-- BEACON (R334) -/
  | beacon (link : Nat) (ch : Nat) (slot : BitVec 48)
  /-- BEACON_MISS (R335) -/
  | beaconMiss (link : Nat) (ch : Nat)
  /-- TEST_START (R337) -/
  | testStart (inst : Nat) (pattern : Nat)
  /-- TEST_END (R337) -/
  | testEnd (inst : Nat)
  /-- LANE_TEST_DURATION_END (R339) -/
  | laneTestDurationEnd (link : Nat)
  /-- FLIT_RECEIVE (R346) -/
  | flitReceive (link : Nat) (f : Flit)
  /-- IDLE_ACK_TIMER (R347) -/
  | idleAckTimer (link : Nat)
  /-- REPLAY_TIMER (R348) -/
  | replayTimer (link : Nat)
  /-- E2E_CREDIT (R352) -/
  | e2eCredit (pkg : Nat) (vc : Nat) (close : Bool) (total : BitVec 32)
  /-- E2E_CREDIT_TIMER (R352) -/
  | e2eCreditTimer (pkg : Nat) (vc : Nat)
  /-- CREDIT_REQ (R353) -/
  | creditReq (pkg : Nat) (vc : Nat)
  /-- CREDIT_RETRY_TIMER (R353) -/
  | creditRetryTimer (pkg : Nat) (vc : Nat)
  /-- ENTRY_IDLE_CLOSE (R353) -/
  | entryIdleClose (pkg : Nat) (vc : Nat)
  /-- CLOSE_ACK (R353) -/
  | closeAck (pkg : Nat) (vc : Nat) (total : BitVec 32)
  /-- PEER_READ_REQ (R367) -/
  | peerReadReq (pkg : Nat) (tag : BitVec 32) (addr : BitVec 64) (r : SpanRead)
  /-- PEER_WRITE_REQ (R367) -/
  | peerWriteReq (pkg : Nat) (tag : BitVec 32) (addr : BitVec 64) (data : List (BitVec 8))
  /-- SEND_DATA (R150) -/
  | sendData (pkg : Nat) (tag : BitVec 32) (off : Nat) (data : List (BitVec 8)) (poison : Bool)
  /-- FABRIC_RESPONSE (R367) -/
  | fabricResponse (tag : BitVec 32) (status : BitVec 8) (data : List (BitVec 8)) (poison : Bool)
  /-- SYS_MESSAGE (R196) -/
  | sysMessage (pkg : Nat) (tag : BitVec 32) (m : SysMsg)
  /-- FABRIC_REQUEST_TIMEOUT (R368) -/
  | fabricRequestTimeout (tag : BitVec 32)
  /-- WIDTH_REQ (R359) -/
  | widthReq (link : Nat) (r : WidthMsg)
  /-- WIDTH_ACK (R359) -/
  | widthAck (link : Nat) (r : WidthMsg)
  /-- WIDTH_SWITCH (R359) -/
  | widthSwitch (link : Nat)
  /-- LINK_LEAVES_ACTIVE (R357) -/
  | linkLeavesActive (link : Nat)
  /-- COLL_CONTRIB (R370) -/
  | collContrib (f : Flank) (g : Nat) (m : CollMsg)
  /-- COLL_RESULT (R370) -/
  | collResult (f : Flank) (m : CollMsg)
  /-- REDUCTION_SLOT_TIMEOUT (R372) -/
  | reductionSlotTimeout (f : Flank) (coll : Nat) (chunk : Nat)
  /-- TIME_SYNC_SEND (R373) -/
  | timeSyncSend
  /-- TIME_SYNC (R374) -/
  | timeSync (link : Nat) (m : TimeMsg)
  /-- TIME_HOLDOVER (R373) -/
  | timeHoldover
  /-- TIMEBASE_UPDATE (R409) -/
  | timebaseUpdate (elapsed : Nat)
  /-- D2D_SLOT_RECEIVE (R384) -/
  | d2dSlotReceive (m : Nat) (d : Nat) (x : D2dSlot)
  /-- D2D_ACK_WORD (R383) -/
  | d2dAckWord (m : Nat) (d : Nat) (w : BitVec 16)
  /-- D2D_RETRY_TIMER (R384) -/
  | d2dRetryTimer (m : Nat) (d : Nat)
  /-- SIDEBAND_MESSAGE (R386) -/
  | sidebandMessage (m : Nat) (w : BitVec 64)
  /-- SIDEBAND_RETRY_TIMER (R386) -/
  | sidebandRetryTimer (m : Nat) (seq : BitVec 8)
  /-- MODULE_LINK_UP (R387) -/
  | moduleLinkUp (m : Nat) (x : LinkUpInput)
  /-- MODULE_RETRAIN (R390) -/
  | moduleRetrain (m : Nat) (d : Nat) (errs : List (Nat × Nat))
  /-- RECALIBRATION_TIMER (R390) -/
  | recalibrationTimer (m : Nat)
  /-- CLOCK_LOST (R397) -/
  | clockLost (m : Nat)
  /-- WEIGHT_CHANGE (R393) -/
  | weightChange (g : Nat)
  /-- EMPTY_SLOT_INSERT (R447) -/
  | emptySlotInsert (m : Nat) (d : Nat)
  /-- GUEST_READ (R402) -/
  | guestRead (r : GuestRead)
  /-- GUEST_WRITE (R402) -/
  | guestWrite (r : GuestReq) (data : List (BitVec 8)) (bad : BitVec 8)
  /-- RESET_REQ (R400) -/
  | resetReq
  /-- TEMP (R401) -/
  | temp (temp : Int) (power : Nat)
  /-- GUEST_TEMP_TIMEOUT (R401) -/
  | guestTempTimeout
  /-- GUEST_FENCE (R406) -/
  | guestFence
  /-- DRAM_READ (R188) -/
  | dramRead (a : Nat) (r : Requester) (b : BadSymbols)
  /-- DRAM_WRITE (R188) -/
  | dramWrite (a : Nat) (data : List (Option (BitVec 8))) (poison : BitVec 8)
  /-- DIRECTORY_REQUEST (R184) -/
  | directoryRequest (a : Nat) (r : DirReq)
  /-- RECALL_ANSWER (R184) -/
  | recallAnswer (a : Nat) (held : Bool) (data : List (BitVec 8)) (poison : BitVec 8)
  /-- REFRESH (R193) -/
  | refresh (stack : Nat) (ch : Nat) (bank : Nat) (postpone : Bool)
  /-- REFRESH_BAND_CHANGE (R192) -/
  | refreshBandChange (stack : Nat)
  /-- SCRUB_READ (R194) -/
  | scrubRead (stack : Nat) (b : BadSymbols) (row : Nat × Nat × Nat)
  /-- ROW_REPAIR (R190) -/
  | rowRepair (stack : Nat) (ch : Nat) (bank : Nat) (row : Nat)
  /-- CHANNEL_FAILURE (R191) -/
  | channelFailure (stack : Nat) (ch : Nat) (phy : Bool)
  /-- LOST_MEMORY_REWRITE (R199) -/
  | lostMemoryRewrite
  /-- SENSOR_SAMPLE (R413) -/
  | sensorSample (j : Nat) (reading : Int)
  /-- GRACE_EXPIRY (R424) -/
  | graceExpiry (dom : Domain)
  /-- ENFORCEMENT_GRID (R426) -/
  | enforcementGrid (dom : Domain)
  /-- THERMAL_RELEASE (R425) -/
  | thermalRelease (dom : Domain)
  /-- RELEASE_RAMP_TIMER (R425) -/
  | releaseRampTimer
  /-- BAND4_NOM_HOLD_END (R419) -/
  | band4NomHoldEnd (f : Flank)
  /-- THERMAL_SHUTDOWN (R429) -/
  | thermalShutdown
  /-- POWER_LIMITER_TICK (R421) -/
  | powerLimiterTick (x : PowerReading)
  /-- LIMITER_HELD (R422) -/
  | limiterHeld
  /-- RAIL_MOVE_DONE (R418) -/
  | railMoveDone (f : Flank)
  /-- RAIL_MOVE_FAILURE (R526) -/
  | railMoveFailure (f : Flank)
  /-- RCTL_ALERT (R526) -/
  | rctlAlert
  /-- FLANK_RAIL_OUT_OF_RANGE (R526) -/
  | flankRailOutOfRange (f : Flank)
  /-- REFCLK_LOSS (R528) -/
  | refclkLoss
  /-- POWER_GOOD_LOSS (R492) -/
  | powerGoodLoss (pg : PowerGood)
  /-- PACKAGE_RESET (R491) -/
  | packageReset (low : Nat) (pins : ResetPins)
  /-- COL_RESET (R494) -/
  | colReset
  /-- FLANK_SOFT_RESET (R495) -/
  | flankSoftReset (f : Flank)
  /-- FLANK_HARD_RESET (R496) -/
  | flankHardReset (f : Flank)
  /-- FLANK_LOSS (R39) -/
  | flankLoss (f : Flank)
  /-- COL_BOOT (R478) -/
  | colBoot (x : BootImages)
  /-- NVM_LOAD (R437) -/
  | nvmLoad (bad : List BadRecord)
  /-- AGREEMENT_CHECK (R442) -/
  | agreementCheck (readings : List (Nat × Int))
  /-- VERWEUST_LINKS_STEP (R498) -/
  | verweustLinksStep (straps : StrapInput)
  /-- MEMORY_TRAINING (R498) -/
  | memoryTraining (failed : List Nat)
  /-- LASER_WARM_UP (R441) -/
  | laserWarmUp (bad : List LaserCheck)
  /-- PRE_HEAT (R501) -/
  | preHeat
  /-- PRE_HEAT_CHIPLET_READY (R501) -/
  | preHeatChipletReady (pos : BitVec 8)
  /-- PRE_HEAT_TIMEOUT (R501) -/
  | preHeatTimeout
  /-- RING_LOCK (R444) -/
  | ringLock (bad : List RingCheck)
  /-- CLUSTER_SELF_TEST (R83) -/
  | clusterSelfTest (bad : List (Nat × Option Nat))
  /-- FABRIC_TRAINING (R499) -/
  | fabricTraining
  /-- BOTTOM_TREE_READY (R483) -/
  | bottomTreeReady
  /-- DBG_CHALLENGE (R488) -/
  | dbgChallenge
  /-- DBG_TOKEN (R488) -/
  | dbgToken (t : DebugToken)
  /-- BOUNDARY_SCAN (R487) -/
  | boundaryScan (ins : JtagInstr) (pins : BitVec 32)
  /-- SYS_RESP (R353) -/
  | sysResp (pkg : Nat) (tag : BitVec 32) (status : BitVec 8)
  /-- INVALIDATE_ACK (R184) -/
  | invalidateAck (a : Nat)
  /-- RECALL_REQUEST (R184) -/
  | recallRequest (a : Nat) (inval : Bool)
  /-- FW_STAGED (R480) -/
  | fwStaged
  /-- LIGHT_ARRIVAL (R327) -/
  | lightArrival (who : LightTarget)
  /-- RING_LOCK_LOSS (R290) -/
  | ringLockLoss (inst : Nat) (verified : Bool)
  deriving DecidableEq, Repr

end Sys2Proof
end

