-- ==== Sys2Proof/Decode.lean ====
section
/-!
DEFINITION. The decoder of words. The table of operations and events gives no row any bits, so no word spells a
command: commands reach the block as rows with their operands, never as encoded words.
-/

namespace Sys2Proof

/-- The command a word of `nbits` bits spells: none, as no row of the table has bits. -/
def decodeTableWord (_nbits _w : Nat) : Option Instr := none

end Sys2Proof
end

