-- ==== Sys2Proof/Machine/Tab.lean ====
section
/-!
DEFINITION. Sparse tables in one canonical form: a list of (key, value) pairs with strictly rising keys and no
entry equal to what an unlisted key reads as. Memory and every large array of units of the G2 is held so.
-/

namespace Sys2Proof.Machine

/-- A sparse table: strictly rising keys, no entry that holds the value of an unlisted key. -/
abbrev Tab (α : Type) := List (Nat × α)

/-- The value at a key; an unlisted key reads as `d`. -/
def tget {α : Type} (d : α) : Tab α → Nat → α
  | [], _ => d
  | (k', v) :: t, k => if k = k' then v else tget d t k

/-- Removes every entry whose key is in a range, so that it reads as an unlisted key. -/
def tclear {α : Type} (t : Tab α) (p : Nat → Bool) : Tab α := t.filter fun e => !p e.1

/-- Writes an entry at a key, in the order of the keys. -/
def tput {α : Type} : Tab α → Nat → α → Tab α
  | [], k, v => [(k, v)]
  | (k', v') :: t, k, v =>
    if k < k' then (k, v) :: (k', v') :: t
    else if k = k' then (k, v) :: t
    else (k', v') :: tput t k v

/-- Writes a key, keeping the canonical form: writing `d` removes the entry. -/
def tset {α : Type} [DecidableEq α] (d : α) (t : Tab α) (k : Nat) (v : α) : Tab α :=
  if v = d then tclear t fun k' => k' = k else tput t k v

/-- Changes the value at a key by a function. -/
def tmod {α : Type} [DecidableEq α] (d : α) (t : Tab α) (k : Nat) (f : α → α) : Tab α :=
  tset d t k (f (tget d t k))

/-- Whether every key of the table is above `lo` and rising, and no entry holds `d`. -/
def tabWfFrom {α : Type} [DecidableEq α] (d : α) : Option Nat → Tab α → Bool
  | _, [] => true
  | lo, (k, v) :: t =>
    (match lo with
      | none => true
      | some l => decide (l < k)) && decide (v ≠ d) && tabWfFrom d (some k) t

/-- The canonical form of a table. -/
def tabWf {α : Type} [DecidableEq α] (d : α) (t : Tab α) : Bool := tabWfFrom d none t

/-- A set of numbers in ascending order without repeats: insertion. -/
def setInsert (n : Nat) : List Nat → List Nat
  | [] => [n]
  | m :: t => if n < m then n :: m :: t else if n = m then m :: t else m :: setInsert n t

/-- Puts an element in a sorted list, before the first that it may precede. -/
def sortPut {α : Type} (le : α → α → Bool) (x : α) : List α → List α
  | [] => [x]
  | y :: t => if le x y then x :: y :: t else y :: sortPut le x t

/-- A list in the order of `le`; equals keep their order. -/
def sortBy {α : Type} (le : α → α → Bool) (l : List α) : List α := l.foldr (sortPut le) []

/-- Removal from a set of numbers. -/
def setErase (n : Nat) (l : List Nat) : List Nat := l.filter fun m => m != n

end Sys2Proof.Machine
end

