-- ==== Sys2Proof/Machine/Bytes.lean ====
section
/-!
DEFINITION. Byte strings, check words and ranges: little-endian fields (R6), the CRCs the spec names, sets of
numbers held as ranges, saturating and modular counts.
-/

namespace Sys2Proof.Machine

/-! ## Little-endian fields (R6) -/

/-- The `n` low bytes of a number, least significant first. -/
def leBytes : Nat → Nat → List Byte
  | 0, _ => []
  | n + 1, v => BitVec.ofNat 8 v :: leBytes n (v / 256)

/-- The number that bytes spell, least significant first. -/
def leNat : List Byte → Nat
  | [] => 0
  | b :: t => b.toNat + 256 * leNat t

/-- The field of `n` bytes at an offset. -/
def field (bs : List Byte) (off n : Nat) : Nat := leNat ((bs.drop off).take n)

/-- `n` zero bytes. -/
def zeros (n : Nat) : List Byte := List.replicate n 0

/-- A byte string of a fixed length: cut, or filled with zeros. -/
def padTo (n : Nat) (bs : List Byte) : List Byte := bs.take n ++ zeros (n - bs.length)

/-- Bytes from `b` up of a register layout: fields as (lowest bit, width, value). -/
def packFields (fs : List (Nat × Nat × Nat)) : Nat :=
  fs.foldl (fun acc f => acc + (f.2.2 % 2 ^ f.2.1) * 2 ^ f.1) 0

/-- 1 for true. -/
def bit (b : Bool) : Nat := if b then 1 else 0

/-- Bit `i` of a number. -/
def bitOf (n i : Nat) : Bool := (n / 2 ^ i) % 2 = 1

/-- Bits [hi:lo] of a number. -/
def bitsOf (n hi lo : Nat) : Nat := (n / 2 ^ lo) % 2 ^ (hi + 1 - lo)

/-- A mask with the bits of a list set. -/
def maskOf (l : List Nat) : Nat := l.foldl (fun acc i => acc ||| 2 ^ i) 0

/-- Two's complement of a signed number at a width. -/
def signed (w : Nat) (i : Int) : Nat := (i % (2 : Int) ^ w).toNat

/-- The signed number a two's complement field holds. -/
def toSigned (w n : Nat) : Int := if n < 2 ^ (w - 1) then n else (n : Int) - (2 : Int) ^ w

/-- A count that saturates at a width. -/
def satInc (w n : Nat) : Nat := if n + 1 < 2 ^ w then n + 1 else 2 ^ w - 1

/-- Serial-number arithmetic on 32 bits: `a` lies 1 to 2^31 − 1 above `b` (R252). -/
def above (a b : BitVec 32) : Bool := 0 < (a - b).toNat && (a - b).toNat < 2 ^ 31

/-- `a` has reached `b` by serial-number arithmetic on 32 bits (R70). -/
def reached (a b : BitVec 32) : Bool := (a - b).toNat < 2 ^ 31

/-! ## Check words -/

/-- One bit of a reflected CRC. -/
def crcBit (poly c : Nat) : Nat := if c % 2 = 1 then (c / 2) ^^^ poly else c / 2

/-- One byte of a reflected CRC. -/
def crcByte (poly c : Nat) (b : Byte) : Nat :=
  let c0 := c ^^^ b.toNat
  crcBit poly (crcBit poly (crcBit poly (crcBit poly (crcBit poly (crcBit poly (crcBit poly (crcBit poly c0)))))))

/-- A reflected CRC of 32 bits with all ones before and after. -/
def crc32With (poly : Nat) (bs : List Byte) : BitVec 32 :=
  BitVec.ofNat 32 ((bs.foldl (crcByte poly) 0xFFFFFFFF) ^^^ 0xFFFFFFFF)

/-- CRC-32C (Castagnoli), as R205, R247, R254, R141 and R436 name it. -/
def crc32c (bs : List Byte) : BitVec 32 := crc32With 0x82F63B78 bs

/-! ## Sets held as ranges -/

/-- Ascending disjoint ranges [lo, hi) that do not touch. -/
abbrev RangeSet := List (Nat × Nat)

/-- Whether a number lies in a set of ranges. -/
def rmem (x : Nat) (r : RangeSet) : Bool := r.any fun p => p.1 ≤ x && x < p.2

/-- Removes [lo, hi); an empty span removes nothing. -/
def rsub (lo hi : Nat) : RangeSet → RangeSet
  | [] => []
  | (a, b) :: t =>
    if hi ≤ lo then (a, b) :: t else
    let left := if a < min b lo then [(a, min b lo)] else []
    let right := if max a hi < b then [(max a hi, b)] else []
    left ++ right ++ rsub lo hi t

/-- Adds [lo, hi), merging the ranges it overlaps or touches. -/
def radd (lo hi : Nat) : RangeSet → RangeSet
  | [] => if lo < hi then [(lo, hi)] else []
  | (a, b) :: t =>
    if hi ≤ lo then (a, b) :: t
    else if hi < a then (lo, hi) :: (a, b) :: t
    else if b < lo then (a, b) :: radd lo hi t
    else radd (min a lo) (max b hi) t

/-- Whether [lo, hi) meets the set. -/
def rmeets (lo hi : Nat) (r : RangeSet) : Bool := r.any fun p => p.1 < hi && lo < p.2

/-- The canonical form of a set of ranges: each not empty, and each above the end of the one before. -/
def rwfFrom : Option Nat → RangeSet → Bool
  | _, [] => true
  | lo, (a, b) :: t =>
    (match lo with
      | none => true
      | some l => decide (l < a)) && decide (a < b) && rwfFrom (some b) t

/-- The canonical form of a set of ranges. -/
def rwf (r : RangeSet) : Bool := rwfFrom none r

/-- Whether two spans (base, size) overlap. -/
def overlaps (a b : Nat × Nat) : Bool := a.1 < b.1 + b.2 && b.1 < a.1 + a.2

/-! ## Lists -/

/-- The first index below `n` at which `p` holds. -/
def firstIdx (p : Nat → Bool) (n : Nat) : Option Nat := (List.range n).find? p

/-- Indices of the set bits of a mask below `n`. -/
def bitsSet (m n : Nat) : List Nat := (List.range n).filter fun i => bitOf m i

/-- The median of integers, the lower of the two middle values for an even count. -/
def median (l : List Int) : Int :=
  ((sortBy (fun a b => a ≤ b) l).getD ((l.length - 1) / 2) 0)

/-- ceil(a / b). -/
def ceilDiv (a b : Nat) : Nat := (a + b - 1) / b

/-- The integer nearest to `n / d`, ties to even. -/
def roundDiv (n d : Nat) : Nat :=
  let q := n / d
  let r := n % d
  if 2 * r < d then q else if d < 2 * r then q + 1 else q + q % 2

/-! ## HSS signatures (R172, R477)

The layout and the type codes are those of RFC 8554, which R172 names (log 107). -/

/-- The big-endian number in `n` bytes at an offset. -/
def beField (bs : List Byte) (off n : Nat) : Nat := ((bs.drop off).take n).foldl (fun m b => 256 * m + b.toNat) 0

/-- Hash chains of an LMOTS parameter set, LMOTS_SHA256_N32_W1 to W8, by its type code. -/
def otsChains (ty : Nat) : Option Nat :=
  if ty = 1 then some 265 else if ty = 2 then some 133 else if ty = 3 then some 67 else if ty = 4 then some 34 else none

/-- Height of an LMS tree, LMS_SHA256_M32_H5 to H25, by its type code. -/
def lmsHeight (ty : Nat) : Option Nat := if 5 ≤ ty && ty ≤ 9 then some (5 * (ty - 4)) else none

/-- Length of the LMS signature that begins some bytes; none where its parameter set is not accepted. -/
def lmsLength (bs : List Byte) : Option Nat :=
  (otsChains (beField bs 4 4)).bind fun p => (lmsHeight (beField bs (40 + 32 * p) 4)).map fun h => 44 + 32 * (p + h)

/-- Length of `n` signed public keys and the last signature. -/
def hssLevels : Nat → List Byte → Option Nat
  | 0, bs => lmsLength bs
  | n + 1, bs => (lmsLength bs).bind fun k =>
    if (lmsHeight (beField bs k 4)).isSome && (otsChains (beField bs (k + 4) 4)).isSome then
      (hssLevels n (bs.drop (k + 56))).map (k + 56 + ·)
    else none

/-- Length of the HSS signature that begins some bytes; none where R172 does not accept its parameter set. -/
def hssLength (bs : List Byte) : Option Nat :=
  if beField bs 0 4 < 3 then (hssLevels (beField bs 0 4) (bs.drop 4)).map (4 + ·) else none

/-- Whether a number is a power of two. -/
def isPow2 (n : Nat) : Bool := n != 0 && 2 ^ Nat.log2 n = n

end Sys2Proof.Machine
end

