-- ==== Sys2Proof/Config.lean ====
section
/-!
DEFINITION. What the spec leaves open. Every constant here is opaque: no proof can see a value of it, so a
theorem about the model holds for every choice. A free value is applied to the operands it depends on or to the
counter `State.free`, which a step that uses one advances.
-/

namespace Sys2Proof.Config

/-- A 32-bit value the spec leaves open (log 3): the n-th one used. -/
opaque free32 : Nat → BitVec 32

/-- A 64-bit value the spec leaves open (log 3). -/
opaque free64 : Nat → BitVec 64

/-- A 256-bit value of the entropy source (log 3; R477, R488). -/
opaque free256 : Nat → BitVec 256

/-- A natural number the spec leaves open (log 3), such as a choice among several. -/
opaque freeNat : Nat → Nat

/-- A byte of host memory behind the host window (log 4; R221): the n-th one read. -/
opaque hostByte : Nat → Nat → BitVec 8

/-- The FP32 result of a transcendental of Table 5-3 where R130 bounds it without fixing it (log 5). -/
opaque transcendental : VFn → BitVec 32 → BitVec 32

/-- The analogue error of one P engine output, in converter codes before rounding (log 6; R101). -/
opaque photonicError : Nat → Int

/-- The correction of a ring's heater that a pitch check applies (log 101; R103, R107): ring, check. -/
opaque heaterTrim : Nat → Nat → Int

/-- The modulator bias of a bank's line (log 101; R89, R103): bank and line, band, check. -/
opaque modulatorBias : Nat → Nat → Nat → Int

/-- The integrator offset trim of a bank's column (log 101; R89, R103): bank and column, band, check. -/
opaque integratorTrim : Nat → Nat → Nat → Int

/-- The 16-bit draw of stochastic rounding (log 7; R132): graph handle seed, lane, draw number. -/
opaque stochasticDraw : Nat → Nat → BitVec 16

/-- The syndrome of a credit fault (log 95; R66): it names the queue and its granted and sent totals. -/
opaque creditSyndrome : QueueRef → BitVec 32 → BitVec 32 → BitVec 64

/-- The outcome of an HSS signature check (log 8; R172, R477): key, message, signature. -/
opaque hssVerify : List (BitVec 8) → List (BitVec 8) → List (BitVec 8) → Bool

/-- The HSS signature the identity key makes with a leaf (log 8; R483): leaf, message. -/
opaque hssSign : Nat → List (BitVec 8) → List (BitVec 8)

/-- Kwanuko's root public key (log 8; R477), 60 bytes. -/
opaque vendorKey : List (BitVec 8)

/-- SHA-256 (log 8; R477). -/
opaque sha256 : List (BitVec 8) → BitVec 256

/-- The public key a firmware image carries (log 8; R478): the spec gives the image no layout. -/
opaque imageKey : List (BitVec 8) → List (BitVec 8)

/-- Whether a firmware image's signature verifies (log 8; R478). -/
opaque imageSigned : List (BitVec 8) → Bool

/-- The SECURITY_VERSION of a firmware image (log 8; R478). -/
opaque imageSecurity : List (BitVec 8) → BitVec 32

/-- The firmware version of an image (log 8; R478). -/
opaque imageVersion : List (BitVec 8) → BitVec 32

/-- The hash over the records of a calibration KIND that no longer agree with the factory's (log 9; R438): kind, boot
count. -/
opaque calHash : Nat → Nat → BitVec 256

/-- What the factory wrote into the identity record of this part (log 9; R482), by byte: read for the fields of Table 18-3
that neither the table nor the ordering code fixes. -/
opaque identityByte : Nat → BitVec 8

/-- The design code that a position requires (log 93; R54): the spec gives no values. -/
opaque designCode : Nat → BitVec 16

/-- The unpublished rule by which the firmware places an unnamed operator (log 10; R161): the operator. -/
opaque placementChoice : Nat → Nat → Nat

/-- The cluster memory an operator's cluster program and buffers need (log 10; R167). -/
opaque clusterMemoryNeed : BitVec 32 → Nat → Nat

/-- The calibrated heater value of a ring and the heater change for one channel step (R112, R291): ring, band. -/
opaque heaterCal : Nat → Nat → Int

/-- The heater change for one channel step (R112, R291): ring, band. -/
opaque heaterStep : Nat → Nat → Int

/-- A receive channel's trims as its calibration record holds them, per band (R325): channel side, band, and 0 peaking,
1 integrator gain, 2 integrator offset, 3 to 5 the lower, middle and upper threshold. -/
opaque receiveTrim : Nat → Nat → Nat → Int

/-- Sampling offset of a Verweust module direction as its calibration record holds it for a band, in 1/32 UI (Table 16-1,
R390): module × 2 + direction, band. -/
opaque samplingOffset : Nat → Nat → Int

/-- Deskew of a physical wire as the record of its module direction holds it, in 1/32 UI (Table 16-1, R387): module × 2 +
direction, wire 0–72. -/
opaque deskew : Nat → Nat → Int

/-- Kwanuko's 11-bit JEP106 manufacturer code in the IDCODE (R487). -/
opaque jep106 : BitVec 11

end Sys2Proof.Config
end

