-- ==== Sys2Proof/Machine/Parts.lean ====
section
/-!
DEFINITION. The parts of the state of the G2 that the host side sees, as plain data.
A field's docstring gives, in this order and parted by semicolons: what it is; its width; the rule of spec/ that
names it; its reset value. "log n" names notes/assumptions/n.md.
-/

namespace Sys2Proof.Machine

/-! ## Small enumerations -/

/-- Device states, codes 1 to 8 of Table 10-8b (R265). -/
inductive DevState where
  | booting | standby | ready | loaded | running | paused | faulted | haltedThermal
  deriving DecidableEq, Repr

/-- Graph states, Table 10-8a (R264). -/
inductive GraphState where
  | loaded | placed | running | paused | stale
  deriving DecidableEq, Repr

/-- Operating points (R17). -/
inductive Point where
  | low | nom | high
  deriving DecidableEq, Repr

/-- Control port states (R204). -/
inductive PortPhase where
  | down | training | active
  deriving DecidableEq, Repr

/-- Completion status codes 0x00 to 0x0F in order, Table 10-5 (R257). -/
inductive Status where
  | ok | partialDone | wrongState | badArgument | noFit | aborted | busy | full | denied | unitFenced
  | timeout | integrity | notSupported | stillActive | duplicate | keyExhausted
  deriving DecidableEq, Repr

/-- Cairn controller states (R468). -/
inductive CairnState where
  | disarmed | armed | taking | taken
  deriving DecidableEq, Repr

/-- Training states of a link end, Table 12-4 (R327). -/
inductive Train where
  | dark | bivouac | light | send | align | map | negotiate | active
  deriving DecidableEq, Repr

/-- Bank states, Table 4-11 (R118). -/
inductive BankState where
  | inService | check | relock | retune | lightPause | outOfRange | darkLine | fenced
  deriving DecidableEq, Repr

/-- Channel states, Table 11-12 (R311). -/
inductive ChanState where
  | data | spare | moving | check | relock | warming | dark | fenced
  deriving DecidableEq, Repr

/-- Laser fade states, Table 11-9 (R296). -/
inductive Fade where
  | ok | warn | sparePoint | failed
  deriving DecidableEq, Repr

/-- States of a wrong-lock walk, Tables 4-8 and 11-5 (R112, R291). -/
inductive WalkState where
  | idle | identify | order | step | verify | lockedOk | failed
  deriving DecidableEq, Repr

/-- Service states of a Verweust module (R380, R387, R397). -/
inductive ModState where
  | down | active | retrain | clockLost | out
  deriving DecidableEq, Repr

/-- Wait reasons of an engine, codes 0x0 to 0xD, Table 3-7 (R72). -/
inductive Wait where
  | running | fenced | paused | gated | throttled | light | weights | coreSync | clusterSync | memory | remote
  | credit | store | idle
  deriving DecidableEq, Repr

/-- The parts a reset or a loss reaches for a flank (R39, R495, R496). -/
inductive FlankPhase where
  | inService | softReset | hardReset | lost | fenced
  deriving DecidableEq, Repr

/-- What the G2 sends: one entry of the log of outputs (model's own, log 2). -/
inductive Output where
  | frame (f : Frame)
  | reply (st : Status) (data : BitVec 64)
  | flit (link : Nat) (f : Flit)
  | message (dst : Nat) (type : BitVec 8) (tag : BitVec 32) (fields : List Nat) (data : List Byte)
  | codeword (link ch : Nat) (w : List (BitVec 10))
  | slot (m d : Nat) (empty : Bool)
  | ack (m d : Nat) (w : BitVec 16)
  | line (a kind : Nat) (data : List Byte) (poison : Byte)
  | sideband (m : Nat) (w : BitVec 64)
  | rail (f : Flank) (mv : Nat)
  | management (status : BitVec 8) (data : BitVec 64) (pec : BitVec 8)
  | jtag (i : Nat) (data : BitVec 256)
  | guest (opcode tag : BitVec 8) (st : Status) (data : List Byte) (poison : List Bool)
  | lock (m : Master) (k : Nat) (w : BitVec 64)
  deriving DecidableEq, Repr

/-! ## The part, its pins and its clock -/

/-- What the ordering code and the identity record fix for a part (R2, R482). -/
structure Part where
  /-- X grade; 1 bit; R2; DESIGN CHOICE false (log 9) -/
  gradeX : Bool := false
  /-- guest code of a -Gnnn part; 10 bits or none; R2, R4; DESIGN CHOICE none (log 9) -/
  guest : Option (BitVec 10) := none
  /-- VGST nominal in mV; 10 bits; R521; DESIGN CHOICE 0 (log 9) -/
  vgst : BitVec 10 := 0
  /-- serial number, 16 characters; 128 bits; R482; DESIGN CHOICE 0 (log 9) -/
  serial : BitVec 128 := 0
  /-- whether both copies of the identity record are bad; 1 bit; R482; DESIGN CHOICE false (log 9) -/
  identityBad : Bool := false
  /-- strap of the die on the North flank's place; 1 bit; R53; 0 -/
  strapN : BitVec 1 := 0
  /-- strap of the die on the South flank's place; 1 bit; R53; 1 -/
  strapS : BitVec 1 := 1
  deriving DecidableEq, Repr

/-- Pins the G2 sees or drives (R529). -/
structure Pins where
  /-- RST_N; 1 bit; R491; 1 (released) -/
  rstN : Bool := true
  /-- BOOT_HOLD sampled at the release of RST_N; 1 bit; R499; DESIGN CHOICE 0 (log 12) -/
  bootHold : Bool := false
  /-- power-good inputs that are low; list of inputs; R490; none low (R491) -/
  pgLow : List PowerGood := []
  /-- the reference is in tolerance; 1 bit; R528; 1 (R491) -/
  refclk : Bool := true
  /-- GST_RST_N driven by the Col; 1 bit; R400, Table 14-10; 0 (IN_RESET reads 1) -/
  gstRstN : Bool := false
  /-- MGMT_ADDR[1:0] straps; 2 bits; R530; DESIGN CHOICE 0 (log 12) -/
  mgmtAddr : BitVec 2 := 0
  /-- RCTL_ALERT_N; 1 bit; R526; DESIGN CHOICE 1, no alert (log 12) -/
  rctlAlertN : Bool := true
  deriving DecidableEq, Repr

/-- The package timebase and the fabric's time discipline (R373–R375, R408–R409). -/
structure Clock where
  /-- timebase in ns; 64 bits; R408; 0 -/
  now : Nat := 0
  /-- TM_STATUS STATE: 0 FREE, 1 LOCKED, 2 HOLDOVER, 3 MASTER; 2 bits; Table 20-19; 0 -/
  state : Nat := 0
  /-- TM_STATUS STEPPED; 1 bit; R375; 0 -/
  stepped : Bool := false
  /-- the timebase has locked to a parent since the package reset; 1 bit; R375; 0 -/
  locked : Bool := false
  /-- hops to the master; 8 bits; R373; 0 -/
  hops : Nat := 0
  /-- TIME_PRIORITY in force; 8 bits; R373; 255 -/
  priority : Nat := 255
  /-- package id of the master; 20 bits; Table 20-19; 0 -/
  master : Nat := 0
  /-- priority of the master adopted; 8 bits; R373; 255 -/
  masterPriority : Nat := 255
  /-- link of the parent; 5 bits or none; R373; none -/
  parent : Option Nat := none
  /-- estimated offset to the parent in 0.1 ns; 32 bits signed; R374; 0 -/
  offset : Int := 0
  /-- slew still owed to the parent in 0.1 ns; signed; R375; 0 -/
  slew : Int := 0
  /-- timebase when the master was last heard of; 64 bits; R373; 0 -/
  heard : Nat := 0
  /-- timebase when TIME_SYNC was last sent; 64 bits; R373; 0 -/
  sentAt : Nat := 0
  /-- send and receive stamps of the last TIME_SYNC of each link; 2 × 64 bits per link; R373; none -/
  stamps : Tab (Nat × Nat) := []
  /-- replica counters of the stamping regions as last corrected; 64 bits; R409; 0 -/
  replica : Nat := 0
  /-- timebase at the release of RST_N, from which ELAPSED_MS counts; 64 bits; R500, R507; 0 -/
  released : Nat := 0
  deriving DecidableEq, Repr

/-- An accepted command with its acceptance time (R252). -/
structure Accepted where
  desc : Descriptor
  tAccept : Nat
  /-- its place in the order of acceptance over both queues -/
  order : Nat := 0
  deriving DecidableEq, Repr

/-- Boot, firmware images and bring-up (R478–R480, R498–R502). -/
structure Boot where
  /-- boot progress STEP; 8 bits; R500; 0 at RST_N, 1 once Col boot runs (R507) -/
  step : Nat := 1
  /-- boot progress ERROR; 8 bits; R500; 0 -/
  error : BitVec 8 := 0
  /-- ELAPSED_MS as held when STEP reached 0x0B; 32 bits or still counting; Table 20-5; counting -/
  held : Option (BitVec 32) := none
  /-- boot count N, as kept in the NVM; 32 bits; R444; DESIGN CHOICE 0 (log 9) -/
  count : BitVec 32 := 0
  /-- boot selector, false A and true B; 1 bit; R478; DESIGN CHOICE A (log 9) -/
  selector : Bool := false
  /-- slots recorded as failed; A, B, R; R478; none -/
  slotFailed : List Nat := []
  /-- slot that booted: 0 A, 1 B, 2 R; R478; none -/
  running : Option Nat := none
  /-- version of the running image, ID_FW; 32 bits; Table 20-3; 0 -/
  fwVersion : BitVec 32 := 0
  /-- interface version, ID_FW; 16 bits; Table 20-3; 0 -/
  ifVersion : BitVec 16 := 0
  /-- SHA-256 of the running image; 256 bits; R478; 0 -/
  fwHash : BitVec 256 := 0
  /-- SHA-256 of the image the next boot takes; 256 bits; R485; 0 -/
  nextHash : BitVec 256 := 0
  /-- SECURITY_VERSION of the running image; 32 bits; R479; 0 -/
  imageSecurity : BitVec 32 := 0
  /-- FALLBACK: a working slot failed at boot; 1 bit; R480; 0 -/
  fallback : Bool := false
  /-- pre-heat is running; 1 bit; R501; 0 -/
  preheat : Bool := false
  /-- timebase at which pre-heat started; 64 bits; R501; 0 -/
  preheatAt : Nat := 0
  /-- laser, optical and port chiplets still below −20 °C, by position code; R501; none -/
  cold : List Nat := []
  /-- a flank step of bring-up has been left to DEVICE_WAKE; 1 bit; R499; 0 -/
  wakeOwed : Bool := false
  /-- write of an FW_UPDATE image in progress: slot, image, command; R480; none -/
  update : Option (Nat × SlotCheck × Accepted) := none
  /-- the Col is restarting (frames are not acted on); 1 bit; R494; 0 -/
  colRestart : Bool := false
  /-- the Col is held in reset: shutdown latch set, a power good or the reference missing; 1 bit; R491; 0 -/
  colHeld : Bool := false
  /-- the working slots did not pass and slot R runs; 1 bit; R478; 0 -/
  recovery : Bool := false
  /-- device state to return to after a Col reset was STANDBY; 1 bit; R494; 0 -/
  wasStandby : Bool := false
  deriving DecidableEq, Repr

/-! ## Faults -/

/-- An open fault record, Table 17-4 (R456). -/
structure FaultRec where
  group : BitVec 16 := 0
  cls : FClass := .c
  escalated : Bool := false
  forced : Bool := false
  holdsFirst : Bool := false
  count : Nat := 0
  sourceFirst : BitVec 16 := 0
  sourceLast : BitVec 16 := 0
  pauseUs : BitVec 32 := 0
  tFirst : Nat := 0
  tLast : Nat := 0
  synFirst : BitVec 64 := 0
  synLast : BitVec 64 := 0
  lastFlags : BitVec 8 := 0
  deriving DecidableEq, Repr

/-- A history entry or the FIRST record, Table 17-5 (R457). -/
structure HistEntry where
  source : BitVec 16 := 0
  flags : BitVec 8 := 0
  index : Nat := 0
  pauseUs : BitVec 32 := 0
  time : Nat := 0
  syndrome : BitVec 64 := 0
  count : Nat := 0
  deriving DecidableEq, Repr

/-- The fault collector (R451–R461). -/
structure Faults where
  /-- open records by index; 256 records; R452; none open -/
  records : Tab (Option FaultRec) := []
  /-- FIRST record; 32 bytes or empty; R453; empty -/
  first : Option HistEntry := none
  /-- history slots 0–15; 16 × 32 bytes; R454, R509; zero -/
  hist : Tab HistEntry := []
  /-- history entries overwritten; 16 bits saturating; R454; 0 -/
  lost : Nat := 0
  /-- events entered, modulo 2^16 in FLT_SUMMARY; R457; 0 -/
  entered : Nat := 0
  /-- events of classes C, D, U and X since package reset; 4 × 32 bits saturating; R458; 0 -/
  classes : Tab Nat := []
  /-- fence list: source id × 16 + core number, ascending; R458; empty -/
  fenced : List Nat := []
  /-- units, keyed as the fence list, whose next data item a forced class D event poisons; R460; none -/
  poisonNext : List Nat := []
  /-- units of the fence list that a forced event fenced, until the next package reset; R460; none -/
  forcedUnits : List Nat := []
  deriving DecidableEq, Repr

/-! ## Signalling: mailboxes, doorbells, locks, ports -/

/-- One side's flags of a channel, Table 9-2 (R229). -/
structure MbxSide where
  cross : Bool := false
  acked : Bool := false
  aborted : Bool := false
  posts : BitVec 8 := 0
  drains : BitVec 8 := 0
  deriving DecidableEq, Repr

/-- A channel: `out` goes to the firmware, `inn` comes from it, as the other party sees it (R223). -/
structure Channel where
  outWord : BitVec 64 := 0
  outFull : Bool := false
  innWord : BitVec 64 := 0
  innFull : Bool := false
  /-- the other party's status word -/
  party : MbxSide := {}
  /-- the firmware's mirror -/
  fw : MbxSide := {}
  /-- words the firmware holds for this channel, at most 16 (R231) -/
  queue : List (BitVec 64) := []
  /-- the mailbox towards the firmware held a word when its receiver reset (R236) -/
  heldAtReset : Bool := false
  deriving DecidableEq, Repr

/-- Mailboxes (R223–R231). -/
structure Mailboxes where
  /-- host channels 0–23; 24 × 2 × 64 bits and status; R223; empty, zero -/
  host : Tab Channel := []
  /-- guest channels G0–G3; 4 × 2 × 64 bits and status; R223; empty, zero -/
  guest : Tab Channel := []
  /-- mailboxes inbound to the firmware are closed by a Col reset; 1 bit; R236; 0 -/
  fwReset : Bool := false
  /-- mailboxes inbound to the guest are closed by its reset; 1 bit; R236; 0 -/
  guestReset : Bool := false
  deriving DecidableEq, Repr

/-- Doorbells (R233–R237). -/
structure Doorbells where
  /-- DB_HOST_STATUS; 32 bits; R233; 0 -/
  hostStatus : BitVec 32 := 0
  /-- DB_HOST_MASK; 32 bits; R233; 0 -/
  hostMask : BitVec 32 := 0
  /-- DB_FW_STATUS; 27 bits; R233; 0 -/
  fwStatus : BitVec 32 := 0
  /-- the firmware's own mask; 32 bits; R233; DESIGN CHOICE 0 (log 13) -/
  fwMask : BitVec 32 := 0
  /-- DB_HOST_EPOCH; 64 bits; R237; 0 -/
  epoch : BitVec 64 := 0
  /-- DB_HOST_EPOCH as the firmware last handled it; 64 bits; R508; 0 -/
  epochSeen : BitVec 64 := 0
  /-- guest channel doorbells rung by the firmware, and bit 4 ABORT; 5 bits; R233, Table 14-3; 0 -/
  guest : BitVec 32 := 0
  deriving DecidableEq, Repr

/-- A lock, Table 9-7 (R240). -/
structure Lock where
  owner : BitVec 8 := 0
  releasedByReset : Bool := false
  deriving DecidableEq, Repr

/-- One control port (R204, R217, R312). -/
structure PortState where
  phase : PortPhase := .down
  activeAt : Nat := 0
  stable : Bool := false
  fenced : Bool := false
  spareWarm : Bool := false
  spareUsed : Bool := false
  /-- blocks of frames that wait for codeword slots on the port's lane (R202, R320) -/
  stream : List (Bool × List Byte) := []
  /-- blocks of a frame that the port's lane has received so far, each with its error mark (R202, R317) -/
  received : List (Bool × List Byte) := []
  deriving DecidableEq, Repr

/-- A host frame held in the receive slots (R213, R218). -/
structure HeldFrame where
  port : Port
  frame : Frame
  /-- when the first copy arrived -/
  at_ : Nat
  /-- held for the preferred copy until this time (R218) -/
  skewUntil : Option Nat
  deriving DecidableEq, Repr

/-- An accepted SEQ (R212, R216, R218): the first copy's acceptance time, and the FRAME_CRC and port of the copy that
counts. -/
structure AcceptedSeq where
  seq : BitVec 32
  at_ : Nat
  crc : BitVec 32
  port : Port
  deriving DecidableEq, Repr

/-- A kept response (R216): the request's SEQ, the response, the first copy's acceptance time, and the
FRAME_CRC and port of the copy acted on. -/
structure Kept where
  seq : BitVec 32
  resp : Option Frame
  acceptedAt : Nat
  crc : BitVec 32
  port : Port
  deriving DecidableEq, Repr

/-- An HWIN request awaiting its answer (R221). -/
structure HwinReq where
  /-- the G2's number of the request, whatever SEQ its frames take (R221) -/
  tag : BitVec 32
  seq : BitVec 32
  cluster : Nat
  write : Bool
  off : Nat
  data : List Byte
  sentAt : Nat
  attempts : Nat
  deriving DecidableEq, Repr

/-- Control ports and Belay delivery (R204–R222). -/
structure Ports where
  /-- CP0; state, stable, fenced; R204; DOWN -/
  cp0 : PortState := {}
  /-- CP1; state, stable, fenced; R204; DOWN -/
  cp1 : PortState := {}
  /-- preferred port; none, CP0 or CP1; R217; none -/
  preferred : Option Port := none
  /-- SKEW_NS; 14 bits; R218, Table 20-20; 1,000 -/
  skew : Nat := 1000
  /-- highest host SEQ accepted; 32 bits or none; R212; none (ACCEPTED reads 0) -/
  highest : Option (BitVec 32) := none
  /-- SEQs accepted among the 4,096 at and below the highest, with the copy that counts; R212, R218; empty -/
  accepted : List AcceptedSeq := []
  /-- RESYNC held for the preferred copy; R218, R220; none -/
  resync : Option HeldFrame := none
  /-- SEQ of the last host frame acted on; 32 bits; R213; 0 -/
  acted : BitVec 32 := 0
  /-- accepted frames in the 512 receive slots; R214; empty -/
  slots : List HeldFrame := []
  /-- CREDIT_TOTAL, the G2's grant; 32 bits; R214, Table 20-20; 0 -/
  credit : BitVec 32 := 0
  /-- CREDIT_TOTAL as the last frame carried it; 32 bits; R214; 0 -/
  creditSent : BitVec 32 := 0
  /-- the first grant, of the 512 receive slots, has been made; 1 bit; R214 (log 19); 0 -/
  credited : Bool := false
  /-- timebase at which CREDIT_TOTAL last changed; 64 bits; R214; 0 -/
  creditAt : Nat := 0
  /-- host requests accepted; 32 bits; R475; 0 -/
  requests : BitVec 32 := 0
  /-- NEXT_SEQ, SEQ of the G2's next frame; 32 bits; Table 20-20; 0 -/
  devSeq : BitVec 32 := 0
  /-- kept responses, newest first, at most 256; R216; empty -/
  kept : List Kept := []
  /-- CP_DISCARDS: BAD_CRC, STALE, AHEAD, UNKEPT at 0–3; 16 bits each saturating; Table 20-20; 0 -/
  discards : Tab Nat := []
  /-- CP_EVENTS: GAPS, DIFFERING, HWIN_FAILED, NO_SLOT at 0–3; 16 bits each saturating; Table 20-20; 0 -/
  events : Tab Nat := []
  /-- timebase at which a gap was first seen, and of its last EVENT; R213; none -/
  gap : Option (Nat × Option Nat) := none
  /-- host's CREDIT_TOTAL for HWIN requests; 32 bits; R215; 0 -/
  hostCredit : BitVec 32 := 0
  /-- HWIN requests issued; 32 bits; R215; 0 -/
  hwinSent : BitVec 32 := 0
  /-- HWIN requests outstanding; R221; none -/
  hwin : List HwinReq := []
  /-- HWIN requests that wait for the host's credit, oldest first; R215; none -/
  hwinWait : List HwinReq := []
  /-- number of the next HWIN request; 32 bits; R221; 0 -/
  hwinTag : BitVec 32 := 0
  deriving DecidableEq, Repr

/-! ## Command interface -/

/-- A completion ring entry, Table 10-4 (R254), as the firmware makes it. -/
structure Entry where
  hseq : BitVec 32
  dseq : BitVec 32
  notice : Bool
  status : Status
  source : BitVec 8
  devState : BitVec 8
  code : BitVec 16
  graphState : BitVec 8
  tAccept : Nat
  tDone : Nat
  warnings : BitVec 32
  detail : BitVec 32
  resultWritten : BitVec 32
  detail2 : BitVec 64
  fwEpoch : BitVec 32
  silent : Bool
  deriving DecidableEq, Repr

/-- One command ring as the firmware holds it (R244–R252). -/
structure CmdRing where
  base : BitVec 64 := 0
  size : BitVec 64 := 0
  /-- the firmware has enabled the ring (R245) -/
  enabled : Bool := false
  ptotal : BitVec 32 := 0
  ctotal : BitVec 32 := 0
  accepted : BitVec 32 := 0
  /-- accepted and not begun, in order (R253) -/
  waiting : List Accepted := []
  /-- begun and not completed (R253) -/
  begun : List Accepted := []
  deriving DecidableEq, Repr

/-- A ring configuration as the firmware last took it (R245). -/
structure RingSetup where
  nqBase : Nat := 0
  nqSize : Nat := 0
  uqBase : Nat := 0
  uqSize : Nat := 0
  cqBase : Nat := 0
  cqSize : Nat := 0
  ctrl : BitVec 64 := 0
  deriving DecidableEq, Repr

/-- Rings, SYNC record, watchdog (R244–R278). -/
structure Cmds where
  /-- normal command ring: SYN_NQ_BASE, SIZE, ACCEPTED, CTOTAL; 40 + 17 + 32 + 32 bits; R244, R276; 0 -/
  nq : CmdRing := {}
  /-- urgent command ring: SYN_UQ_BASE, SIZE, ACCEPTED, CTOTAL; 40 + 17 + 32 + 32 bits; R244, R276; 0 -/
  uq : CmdRing := {}
  /-- SYN_CQ_BASE; 40 bits; R244; 0 -/
  cqBase : BitVec 64 := 0
  /-- SYN_CQ_SIZE; 17 bits; R244; 0 -/
  cqSize : BitVec 64 := 0
  /-- the firmware has enabled the completion ring; 1 bit; R245; 0 -/
  cqEnabled : Bool := false
  /-- SYN_RING_CTRL as written; 64 bits; R244, R515; 0 -/
  ctrl : BitVec 64 := 0
  /-- ring configuration as taken at the last COMMAND_RING: three bases and sizes, SYN_RING_CTRL; 3 × 57 + 64 bits; R245; 0 -/
  taken : RingSetup := {}
  /-- SYN_GEN; 64 bits; R277; 0 -/
  gen : BitVec 64 := 0
  /-- SYN_DSEQ_POSTED; 32 bits; R255; 0 -/
  posted : BitVec 32 := 0
  /-- SYN_CQ_CONSUMED; 32 bits; R276; 0 -/
  consumed : BitVec 32 := 0
  /-- SYN_FW_EPOCH; 64 bits; R278; 0 -/
  fwEpoch : BitVec 64 := 0
  /-- last DSEQ made; 32 bits; R475; 0 -/
  made : BitVec 32 := 0
  /-- commands accepted over both queues, for FENCE; model's own (log 1); 0 -/
  orders : Nat := 0
  /-- entries held by the firmware until the ring has room; up to 4,096; R255; empty -/
  held : List Entry := []
  /-- watchdog interval in ms, 0 off; 64 bits; R275; 0 -/
  wdInterval : BitVec 64 := 0
  /-- watchdog action: pause all; 1 bit; R275; 0 -/
  wdPause : Bool := false
  /-- timebase of the host's last activity; 64 bits; R275; 0 -/
  wdSince : Nat := 0
  /-- the watchdog has fired in this silent spell; 1 bit; R275; 0 -/
  wdFired : Bool := false
  deriving DecidableEq, Repr

/-- Device-wide state (R261, R462, R271). -/
structure Dev where
  /-- device state; 4 bits; R261; BOOTING -/
  state : DevState := .booting
  /-- DEGRADED; 1 bit; R462; 0 -/
  degraded : Bool := false
  /-- highest operating point of DEVICE_LIMIT; 2 bits; R271; PRESUMED NOM (log 14) -/
  maxPoint : Point := .nom
  /-- power limit in W; 16 bits; R271, Table 20-15; 2,400 -/
  limitW : Nat := 2400
  /-- phase of North; R39, R493; in service -/
  north : FlankPhase := .inService
  /-- phase of South; R39, R493; in service -/
  south : FlankPhase := .inService
  /-- DEVICE_RESET commands of a flank waiting for its return; R495, R496; none -/
  resetWait : List (Flank × Accepted) := []
  /-- DEVICE_WAKE in progress with the step it has reached: 7, 8 or 9; R270; none -/
  waking : Option (Accepted × Nat) := none
  /-- COL reset command to complete after FW_RESTART; R278; none -/
  colWait : Option Accepted := none
  deriving DecidableEq, Repr

end Sys2Proof.Machine
end

