-- ==== Sys2Proof/Machine/Units.lean ====
section
/-!
DEFINITION. The parts of the state that compute, hold graphs and hold memory, as plain data.
A field's docstring gives: what it is; its width; the rule of spec/ that names it; its reset value.
-/

namespace Sys2Proof.Machine

/-- A set of numbers as ascending disjoint ranges [lo, hi) that do not touch. -/
abbrev Ranges := RangeSet

/-! ## Memory -/

/-- A loan window (R195). -/
structure Loan where
  base : Nat
  size : Nat
  /-- one borrower, or none for any package -/
  borrower : Option Nat
  write : Bool
  /-- opened on a peer's request (R196) -/
  granted : Bool
  /-- a placed graph on the borrower uses it (R197) -/
  inUse : Bool
  deriving DecidableEq, Repr

/-- A line of the other flank in a remote-line cache (R183, R184). -/
structure RlcLine where
  /-- the cache holds the only current copy (DIR M) -/
  dirty : Bool
  /-- its 64 bytes -/
  data : List Byte
  /-- its POISON bits -/
  poison : Byte
  deriving DecidableEq, Repr

/-- A directory request that waits for a recall or an invalidation (R184). -/
structure Recall where
  line : Nat
  inval : Bool
  req : DirReq
  /-- a write-back reached the home first: the answer is discarded -/
  answered : Bool
  /-- the other flank has answered "not held" ahead of its write-back -/
  notHeld : Bool
  deriving DecidableEq, Repr

/-- DRAM, on-die memories, loans and coherence (R175–R200). -/
structure MemSys where
  /-- DRAM bytes by local address; 768 GiB; R175; nothing listed, unlisted reads 0 (R199: lost lines are rewritten, log 15) -/
  dram : Tab Byte := []
  /-- poisoned 8-byte granules of DRAM, POISON of every line; 1 bit each; R180; all poisoned (R199) -/
  poison : Ranges := [(0, 103079215104)]
  /-- cluster memory bytes, physical cluster × 4 MiB + offset; 660 × 4 MiB; R55; DESIGN CHOICE 0 (log 15) -/
  cm : Tab Byte := []
  /-- poisoned 64-bit words of cluster memory; 1 bit each; R189; none (log 15) -/
  cmPoison : Ranges := []
  /-- local store bytes, (physical cluster × 16 + core) × 256 KiB + offset; 10,560 × 256 KiB; R55; DESIGN CHOICE 0 (log 15) -/
  ls : Tab Byte := []
  /-- poisoned 64-bit words of local stores; 1 bit each; R189; none (log 15) -/
  lsPoison : Ranges := []
  /-- memory training has ended, so STACKS, DRAM_GIB, MODE, CACHE and CRN_BASE are valid; 1 bit; Table 20-4; 0 -/
  trained : Bool := false
  /-- stacks in the interleave, ID_MEMORY STACKS; 8 stacks; R187; all eight (log 9) -/
  inService : List Nat := [0, 1, 2, 3, 4, 5, 6, 7]
  /-- stacks that failed since they were interleaved; 8 bits; R187, R191; none -/
  failed : List Nat := []
  /-- stacks that failed in service, left out of the interleave from the next package reset on; 8 bits; R37, R187, R191; DESIGN CHOICE none (log 92) -/
  dropped : List Nat := []
  /-- stacks whose lines are lost and not yet rewritten; 8 bits; R199; none -/
  lost : List Nat := []
  /-- home mode in force, ID_MEMORY MODE; 1 bit; R186; 0 spread -/
  home : Bool := false
  /-- remote-line cache size in force, ID_MEMORY CACHE; 2 bits; R183; 0 -/
  cache : Nat := 0
  /-- memory configuration record, MODE_NEXT; 1 bit (NVM); R186; 0 spread -/
  homeNext : Bool := false
  /-- memory configuration record, CACHE_NEXT; 2 bits (NVM); R186; DESIGN CHOICE 0 (log 9) -/
  cacheNext : Nat := 0
  /-- DIR of each line: 0 I, 1 S, 2 M; 2 bits a line; R180, R184; I -/
  dir : Tab Nat := []
  /-- recalls and invalidations outstanding at the home; R184; none -/
  recalls : List Recall := []
  /-- lines held in the remote-line cache of the flank that is not their home, by line; 16 to 128 MiB a flank; R183, R184; none -/
  rlc : Tab (Option RlcLine) := []
  /-- the lines of the lost stacks have been rewritten since the loss; 1 bit; R199; 0 -/
  swept : Bool := false
  /-- the 64 loan windows; R195; none open -/
  windows : Tab (Option Loan) := []
  /-- lending limit in bytes; 64 bits; R196; 0 -/
  lendLimit : Nat := 0
  /-- DRAM held for command and completion rings the firmware has enabled; R245; none -/
  ringHeld : List (Nat × Nat) := []
  deriving DecidableEq, Repr

/-- Row repair, refresh, scrub and channel failure of the stack controllers (R190–R194). -/
structure StackCtl where
  /-- spare rows used of each bank (stack, channel, bank), memory repair record; 4 bits each (NVM); R190; DESIGN CHOICE 0 (log 9) -/
  spares : Tab Nat := []
  /-- rows repaired, memory repair record; NVM; R190; DESIGN CHOICE none (log 9) -/
  repaired : List (Nat × Nat × Nat × Nat) := []
  /-- rows (stack, channel, bank, row) waiting for repair at their bank's next refresh slot; R190; none -/
  repairDue : List (Nat × Nat × Nat × Nat) := []
  /-- rows corrected on the previous and the present scrub pass of each stack; R190; none -/
  scrubRows : Tab (List (Nat × Nat × Nat) × List (Nat × Nat × Nat)) := []
  /-- times of uncorrectable lines of each channel within the last 1 s; R191; none -/
  uncorrectable : Tab (List Nat) := []
  /-- channels fenced by R191; 256 bits; none -/
  channelsFailed : List Nat := []
  /-- refresh band of each stack less 1; 2 bits; R192; 0 (band 1) -/
  band : Tab Nat := []
  /-- after a rise of the band: timebase of the crossing and the banks that have caught up, by stack; R192; none -/
  rise : Tab (Option (Nat × List Nat)) := []
  /-- refresh commands postponed of each bank; 4 bits; R193; 0 -/
  postponed : Tab Nat := []
  /-- banks whose refresh is urgent; R193; none -/
  refreshUrgent : List Nat := []
  /-- lines scrubbed in the pass of each stack; R194; 0 -/
  scrubAt : Tab Nat := []
  /-- timebase at which the scrub pass of each stack began; 64 bits; R194; 0 -/
  scrubBegan : Tab Nat := []
  /-- stacks whose scrub is urgent; 8 bits; R194; none -/
  scrubUrgent : List Nat := []
  deriving DecidableEq, Repr

/-! ## Event counters -/

/-- What an auto-reset zeroed: when, the 16 counters of the cluster, the 8 of each of its cores, and where their interval
began (R465, R466). -/
structure PreReset where
  at_ : Nat
  cluster : List Nat
  cores : List (List Nat)
  since : Nat
  deriving DecidableEq, Repr

/-- Event counters and their settings (R463–R467). -/
structure Counts where
  /-- kinds enabled on a flank: kind × 2 + flank, kinds 0 clusters, 1 cores, 2 links, 3 stacks; R463; none -/
  enabled : List Nat := []
  /-- auto-reset set; 1 bit; R463; 0 -/
  autoReset : Bool := false
  /-- cluster counters, physical index × 16 + index; 660 × 16 × 48 bits; R85; 0 -/
  clusters : Tab Nat := []
  /-- core counters, (physical index × 16 + core) × 8 + index; 10,560 × 8 × 48 bits; R85; 0 -/
  cores : Tab Nat := []
  /-- link counters, link × 12 + index; 32 × 12 × 48 bits; R378; 0 -/
  links : Tab Nat := []
  /-- stack counters, stack × 8 + index; 8 × 8 × 48 bits; R201; 0 -/
  stackCtrs : Tab Nat := []
  /-- T_INTERVAL of the units of each kind; 64 bits; R467; 0 -/
  since : Tab Nat := []
  /-- T_INTERVAL of a cluster and its cores after an auto-reset; 64 bits; R465; 0 -/
  sinceCluster : Tab Nat := []
  /-- what the last auto-reset of a cluster zeroed, for a sample in the same handshake, by physical index; R466; none -/
  preReset : Tab (Option PreReset) := []
  /-- units that paused since their last sample, with the pause in µs plus 1, by source id; R467; none -/
  paused : Tab Nat := []
  deriving DecidableEq, Repr

/-! ## Clusters, cores and engines -/

/-- The counter pair of a queue at both ends (R29, R64). The granted totals count from the queue's depth. -/
structure QCtr where
  pSent : BitVec 32
  pGranted : BitVec 32
  cGranted : BitVec 32
  cReceived : BitVec 32
  deriving DecidableEq, Repr

/-- A queue just cleared at both ends: nothing sent, one grant of its depth (R68, log 16). -/
def QCtr.fresh (depth : Nat) : QCtr := ⟨0, BitVec.ofNat 32 depth, BitVec.ofNat 32 depth, 0⟩

/-- A weight set in a staging slot of a P engine (R97). -/
structure WSet where
  w : Nat
  codes : List Int
  sw : BitVec 32
  poison : Bool
  deriving DecidableEq, Repr

/-- A request of an M engine that awaits a response (R73, Cairn +0x200). -/
structure MReq where
  tag : BitVec 32
  addr : Nat
  bytes : Nat
  at_ : Nat
  remote : Bool
  write : Bool
  /-- where the bytes of a read go -/
  dst : Loc
  deriving DecidableEq, Repr

/-- The operation an engine executes (R63, R73). -/
structure Running where
  since : Nat
  /-- some operand was poisoned (R75) -/
  poisonIn : Bool
  /-- some output was written poisoned (R75) -/
  poisonOut : Bool
  /-- warnings for the work item (R94, R134, R147, R157) -/
  warn : BitVec 32
  requests : List MReq
  /-- complete, its result held for lack of a credit (R72) -/
  held : Bool := false
  deriving DecidableEq, Repr

/-- One engine: its queue and the operation in progress (R64, R70). The P engine runs a second stream for P_FILL. -/
structure EngineSt where
  /-- engine queue, 32 operations, the one in progress at its place; R64; empty -/
  q : List EngOp := []
  /-- granted and sent totals of the engine queue; 4 × 32 bits; R64; fresh (R68) -/
  ctr : QCtr := QCtr.fresh 32
  /-- operation in progress (P: the P_RUN); R70; none -/
  run : Option Running := none
  /-- P_FILL in progress; R98; none -/
  fill : Option Running := none
  /-- the sequencer holds an operation for want of an issue token; R62; no -/
  throttled : Bool := false
  /-- the next operation has been counted in SYNC_WAITS; R85; no -/
  waited : Bool := false
  /-- the next P_FILL has been counted in SYNC_WAITS; R85; no -/
  fillWaited : Bool := false
  deriving DecidableEq, Repr

/-- A core (Table 3-2). -/
structure CoreSt where
  /-- T engine; R57; idle -/
  t : EngineSt := {}
  /-- V engine; R58; idle -/
  v : EngineSt := {}
  /-- M engine; R59; idle -/
  m : EngineSt := {}
  /-- P engine; R98; idle -/
  p : EngineSt := {}
  /-- core sync counters; 16 × 32 bits; R55, R70; 0 (R68) -/
  sync : Tab (BitVec 32) := []
  /-- T accumulator file, tile × 64 + element; 4,096 × 32 bits; R55; DESIGN CHOICE 0 (log 15) -/
  acc : Tab (BitVec 32) := []
  /-- poisoned accumulators; R75; none -/
  accPoison : List Nat := []
  /-- staging slots of the P engine; 3 × 12 KiB; R97; empty (lost at any reset of the flank) -/
  slots : Tab (Option WSet) := []
  deriving DecidableEq, Repr

/-- A work item in a cluster queue or working set (R69). -/
structure WorkSt where
  seq : BitVec 32
  item : WorkItem
  /-- engine operations issued and not retired -/
  pending : Nat
  /-- some operation has been issued -/
  issued : Bool
  poisoned : Bool
  warn : BitVec 32
  /-- the final phase has begun: only peer sends are issued from here on (R76) -/
  final : Bool
  /-- peer sends issued and not acknowledged (R77) -/
  owed : Nat
  /-- operations still to be issued: those taken back from a P engine that is out, and the T operations that photonic ones
  fell back to (R79, R106, R114) -/
  fall : List EngOp
  deriving DecidableEq, Repr

/-- A cluster (Table 3-1). -/
structure ClusterSt where
  /-- cluster queue; 256 work items; R64; empty -/
  q : List WorkSt := []
  /-- granted and sent totals of the cluster queue; 4 × 32 bits; R64; fresh (R68) -/
  qc : QCtr := QCtr.fresh 256
  /-- working set; R76; empty -/
  set : List WorkSt := []
  /-- cluster sync counters; 32 × 32 bits; R55, R70; 0 (R68) -/
  sync : Tab (BitVec 32) := []
  /-- remote sync queue, counter indices; 64 messages; R64; empty -/
  rq : List Nat := []
  /-- granted and sent totals of the remote sync queue; 4 × 32 bits; R64; fresh (R68) -/
  rc : QCtr := QCtr.fresh 64
  /-- tokens spent from the issue-token bucket; R62; 0 (full) -/
  spent : Nat := 0
  /-- timebase at which the bucket was last refilled; 64 bits; R62; 0 -/
  filledAt : Nat := 0
  /-- cores power-gated; 1 bit; R74; 0 -/
  gated : Bool := false
  /-- timebase at which the cluster last became idle, or was gated; 64 bits; R74; 0 -/
  idleAt : Nat := 0
  /-- length in µs of the gated interval to report with the first event; R35, R74; none -/
  resumed : Option (BitVec 32) := none
  /-- timebase of the last retirement of an engine operation; 64 bits; R469; 0 -/
  retiredAt : Nat := 0
  /-- the firmware holds the cluster queue closed; R68; no -/
  closed : Bool := false
  /-- queues of this cluster whose producer found a credit fault; R66; none -/
  creditFaults : List QueueRef := []
  deriving DecidableEq, Repr

/-- A completion a cluster sequencer posts to its flank's queue (R64, R69, R75). -/
structure WiDone where
  cluster : Nat
  seq : BitVec 32
  graph : BitVec 32
  op : BitVec 32
  tag : BitVec 32
  poisoned : Bool
  warn : BitVec 32
  deriving DecidableEq, Repr

/-- Flank compute (R55–R83). -/
structure Compute where
  /-- clusters by physical index; 660; R55 -/
  clusters : Tab ClusterSt := []
  /-- cores by physical index × 16 + core; 10,560; R55 -/
  cores : Tab CoreSt := []
  /-- remap table: the physical index + 1 that serves an exposed id, 0 for the factory assignment; 640 entries (NVM); R81; DESIGN CHOICE no factory defects (log 9) -/
  remap : Tab Nat := []
  /-- exposed ids whose cluster failed and is not yet bound to a spare; 640 bits; R83; none -/
  unbound : List Nat := []
  /-- spares that have been used or found bad; R82; none -/
  sparesGone : List Nat := []
  /-- North flank completion queue; 4,096 completions; R64; empty -/
  doneN : List WiDone := []
  /-- totals of the North flank completion queue; 4 × 32 bits; R64; fresh -/
  doneNc : QCtr := QCtr.fresh 4096
  /-- South flank completion queue; 4,096 completions; R64; empty -/
  doneS : List WiDone := []
  /-- totals of the South flank completion queue; 4 × 32 bits; R64; fresh -/
  doneSc : QCtr := QCtr.fresh 4096
  /-- on-die words that could not be corrected within the last 1 s, for the repeat rule: source × 2^20 + word, and time; chapter 3, R189; none -/
  words : List (Nat × Nat) := []
  /-- next tag of a global request; 32 bits; R368; 0 -/
  nextTag : BitVec 32 := 0
  deriving DecidableEq, Repr

/-! ## Banks -/

/-- A wrong-lock walk of a ring (R112, R291). -/
structure Walk where
  state : WalkState := .idle
  /-- heater value, 10 bits -/
  heater : Int := 0
  /-- channel found by IDENTIFY -/
  found : Nat := 0
  steps : Nat := 0
  orders : Nat := 0
  /-- timebase at the start of the walk -/
  began : Nat := 0
  deriving DecidableEq, Repr

/-- Why the rings of a bank walk: for a pitch check, a retune or a laser hand-over (R104, R109, R113). -/
inductive RelockFor where
  | check | retune | handover
  deriving DecidableEq, Repr

/-- A P bank (R103–R118). -/
structure Bank where
  /-- STATE; 4 bits; R118; IN_SERVICE once ring lock has passed -/
  state : BankState := .inService
  /-- SETPOINT_BAND; 2 bits; R103, R118; 0 (band 1, R501) -/
  band : Nat := 0
  /-- DARK_LINE_K; 5 bits; R118; 0 -/
  darkLine : Nat := 0
  /-- LAST_RESULT; 1 bit; R118; 0 -/
  relocked : Bool := false
  /-- timebase of the last completed check or retune, from which CHECK_AGE counts; 64 bits; R107; 0 -/
  checkedAt : Nat := 0
  /-- timebase at which the check, retune or pause in progress began; 64 bits; R107, R109; 0 -/
  began : Nat := 0
  /-- RELOCKS; 16 bits saturating; R118; 0 -/
  relocks : Nat := 0
  /-- CHECKS; 16 bits; R118; 0 -/
  checks : Nat := 0
  /-- timebase at which the RELOCK of the check in progress began; 64 bits or none; R109; none -/
  relockAt : Option Nat := none
  /-- why the failing rings walk; R104, R109, R113; check -/
  relockFor : RelockFor := .check
  /-- state that the bank enters at its engine's next boundary: RETUNE, LIGHT_PAUSE or OUT_OF_RANGE; R104, R106, R113; none -/
  claim : Option BankState := none
  /-- heater values that walks have left other than calibrated, by ring; 10 bits each; R103, R112; none -/
  heat : Tab (Option Int) := []
  /-- the check whose corrections of heaters, modulator biases and integrator trims hold, 0 for the calibrated trims of the setpoint; R103, R107; 0 -/
  trims : Nat := 0
  /-- a pitch check has been promoted to urgent; 1 bit; R108; 0 -/
  urgent : Bool := false
  /-- the heater is off by R106; 1 bit; 0 -/
  heaterOff : Bool := false
  /-- walks of the failing rings; R112; none -/
  walks : Tab Walk := []
  deriving DecidableEq, Repr

/-- The P banks and the retunes of each flank (R103–R116). -/
structure Banks where
  /-- banks by physical index × 16 + core; 10,560; R118 -/
  bank : Tab Bank := []
  /-- retune in progress of each flank: wave + 1, and the band it started with; R104, R105; none -/
  wave : Tab (Option (Nat × Nat)) := []
  /-- band each flank's banks are to reach; 2 bits; R104; 0 -/
  target : Tab Nat := []
  /-- dark lines of each array, chiplet × 4 + array; R115; none -/
  dark : Tab (List Nat) := []
  /-- array that each comb chiplet's spare serves + 1, chiplet × 32 + line; R113; none (0) -/
  spare : Tab Nat := []
  /-- hand-overs in progress, chiplet × 32 + line: array and the time they began; R113; none -/
  handover : Tab (Option (Nat × Nat)) := []
  /-- the pause has been requested, chiplet × 32 + line; R113; none -/
  pauseWanted : List Nat := []
  /-- timebase at which every engine of the array had paused for a hand-over, chiplet × 32 + line; R113; none -/
  paused : Tab (Option Nat) := []
  /-- comb chiplets fenced; 4 bits; R116; none -/
  chipFenced : List Nat := []
  /-- banks fenced with a SUSPECT calibration record; R445; none -/
  suspect : List Nat := []
  deriving DecidableEq, Repr

/-! ## Graphs -/

/-- A tensor descriptor, Table 6-5 (R145). -/
structure Tensor where
  format : Nat
  rank : Nat
  kind : Nat
  axis : Nat
  tflags : Nat
  bucketSet : Nat
  dims : List Nat
  constOff : Nat
  storage : Nat
  deriving DecidableEq, Repr

/-- An operator record, Table 6-6 (R148). -/
structure Operator where
  opcode : Nat
  nIn : Nat
  nOut : Nat
  kernel : Nat
  oflags : Nat
  tolMode : Nat
  tolRange : Nat
  tolError : Nat
  tolZero : Bool
  ins : List Nat
  outs : List Nat
  attrs : List Nat
  deriving DecidableEq, Repr

/-- A kernel, Table 6-9 (R154). -/
structure Kernel where
  nIn : Nat
  nOut : Nat
  gridRank : Nat
  nV : Nat
  nS : Nat
  grid : List Nat
  scratch : Nat
  code : List (BitVec 64)
  deriving DecidableEq, Repr

/-- A group definition (R160). -/
structure Group where
  number : Nat
  isPackage : Bool
  members : List Nat
  deriving DecidableEq, Repr

/-- A placement hint (R160). -/
structure Hint where
  first : Nat
  last : Nat
  kind : Nat
  require_ : Bool
  target : Nat
  deriving DecidableEq, Repr

/-- A bucket set (R158). -/
structure BucketSet where
  vars : Nat
  rows : List (List Nat)
  deriving DecidableEq, Repr

/-- An operator eligible for the P engines: its index, weight sets, W and g, whether its inputs are signed, and the s_w of
its weight sets (R93, R96, R153, R167). -/
structure Photonic where
  op : Nat
  sets : Nat
  w : Nat
  g : Nat
  signed : Bool
  scales : List (BitVec 32)
  deriving DecidableEq, Repr

/-- A bundle as the firmware has parsed it (R140–R169). -/
structure Bundle where
  id : BitVec 128 := 0
  crc : BitVec 32 := 0
  tensors : List Tensor := []
  operators : List Operator := []
  kernels : List Kernel := []
  kernelBytes : Nat := 0
  groups : List Group := []
  hints : List Hint := []
  buckets : List BucketSet := []
  policy : Nat := 0
  pShort : Bool := false
  lenders : List (Nat × Nat) := []
  hostLimit : Nat := 0
  deadline : Nat := 0
  priority : Nat := 0
  peerWaitMs : Nat := 0
  constOff : Nat := 0
  constSize : Nat := 0
  hasShapes : Bool := false
  /-- operators eligible for the P engines (R153, R167) -/
  eligible : List Photonic := []
  deriving DecidableEq, Repr

/-- A part of a split request: kind (0 cluster, 1 flank, 2 package, 3 output tensor), id, cause (R260). -/
structure PartFail where
  kind : Nat
  id : Nat
  cause : Nat
  deriving DecidableEq, Repr

/-- An execution or a pending execution (R165, R268). -/
structure Execution where
  cmd : Accepted
  bindings : List (Nat × Nat × Nat)
  shapes : List Nat
  begun : Bool
  /-- work items placed for it and not yet completed, by exposed cluster and sequence -/
  work : List (Nat × BitVec 32)
  /-- every work item placed for it, by exposed cluster, sequence and operator (R148) -/
  items : List (Nat × BitVec 32 × Nat) := []
  failed : List PartFail
  poisoned : List Nat
  warn : BitVec 32
  deadlinePassed : Bool
  /-- peers that have not yet confirmed the start (R162), and those that mismatched -/
  peersOpen : List Nat
  peersBad : List Nat
  deriving DecidableEq, Repr

/-- A graph slot (R164, R264). -/
structure Graph where
  /-- generation count of the slot; 26 bits; R164; 0 -/
  gen : Nat := 0
  /-- graph state, none when the slot is free; 3 bits; R264; free -/
  state : Option GraphState := none
  /-- memory of the graph is lost: STALE once no execution runs; 1 bit; R200; 0 -/
  lost : Bool := false
  /-- the bundle as parsed; R164 -/
  b : Bundle := {}
  /-- address of the constants and whether they are adopted in place; R164 -/
  constants : Nat × Bool := (0, false)
  /-- DRAM held by the load (constants, state tensors, kernel images); R167 -/
  loadHeld : List (Nat × Nat) := []
  /-- DRAM held by the placement (intermediates, weight code images); R167 -/
  placeHeld : List (Nat × Nat) := []
  /-- placement: exposed clusters of each operator; R161 -/
  placed : Tab (List Nat) := []
  /-- operators of the placement that run on P engines; R153, R171 -/
  photonic : List Nat := []
  /-- cluster memory held on each exposed cluster; R167 -/
  cmHeld : Tab Nat := []
  /-- P weight slots held on each exposed cluster; R167 -/
  pHeld : Tab Nat := []
  /-- bytes spilled to the host window; R170 -/
  hostSpill : Nat := 0
  /-- loans from peers: lender, window, size; R170 -/
  loans : List (Nat × Nat × Nat) := []
  /-- part of the host spill and number of the loans that belong to the load; R170 -/
  loadSpill : Nat × Nat := (0, 0)
  /-- tensors that spilled: index, and address in the host window or at a lender; R170; none -/
  spilled : List (Nat × Nat) := []
  /-- packages named by hints; R162 -/
  peers : List Nat := []
  /-- the running execution; R268 -/
  running : Option Execution := none
  /-- pending executions; at most 4; R268 -/
  pending : List Execution := []
  /-- PAUSEs and ABORTs in progress: the command, none for the watchdog's, and whether it aborts; R269, R275; none -/
  ending : List (Option Accepted × Bool) := []
  deriving DecidableEq, Repr

/-- A LOAD_BUNDLE or PLACE that waits for lenders of DRAM (R170). -/
structure FitWait where
  cmd : Accepted
  /-- LOAD_BUNDLE, else PLACE -/
  load : Bool
  b : Bundle
  /-- constants to copy -/
  consts : List Byte
  /-- address of constants adopted in place -/
  adopted : Option Nat
  /-- hints and groups that came with PLACE -/
  hints : List Hint
  groups : List Group
  /-- lenders not yet asked: package and limit in MiB -/
  lenders : List (Nat × Nat)
  /-- lender asked: package, bytes, time and tag -/
  asked : Option (Nat × Nat × Nat × BitVec 32)
  /-- a lender refused or did not answer -/
  refused : Bool
  /-- loans given so far: lender, window, bytes -/
  loans : List (Nat × Nat × Nat)
  /-- global addresses of those loans -/
  bases : List Nat := []
  deriving DecidableEq, Repr

/-- The graph table and long graph commands (R164, R170). -/
structure Graphs where
  /-- graph slots; 64; R164; all free, generation 0 -/
  slot : Tab Graph := []
  /-- handles whose PAUSE or ABORT belongs to a command with "all", with that command; R269; none -/
  allCmd : List (Accepted × List Nat) := []
  /-- LOAD_BUNDLE and PLACE commands that wait for a lender; R170; none -/
  fits : List FitWait := []
  deriving DecidableEq, Repr

/-! ## Cairn -/

/-- The Cairn controller (R468–R476, Table 20-22). -/
structure Cairn where
  /-- STATE; 2 bits; R468; DISARMED -/
  state : CairnState := .disarmed
  /-- TRIGGER of the last take; 3 bits; R469; 0 -/
  trigger : Nat := 0
  /-- BYTES; 27 bits; R473; 0 -/
  bytes : Nat := 0
  /-- MISSED; 16 bits saturating (32 in the header); R472; 0 -/
  missed : Nat := 0
  /-- TRIGGERS armed; 5 bits; R469; 0 -/
  armed : Nat := 0
  /-- STALL_MS; 16 bits; R469; 0 -/
  stallMs : Nat := 0
  /-- TRIGGERS_SEEN of the take; 32 bits; R474; 0 -/
  seen : Nat := 0
  /-- T_TRIGGER; 64 bits; R474; 0 -/
  tTrigger : Nat := 0
  /-- T_FROZEN; 64 bits; R474; 0 until the hold is complete -/
  tFrozen : Option Nat := none
  /-- TRIGGER_DETAIL; 32 bits; R474; 0 -/
  detail : BitVec 32 := 0
  /-- device state and DEGRADED at the trigger; 8 bits; R474; 0 -/
  devState : BitVec 8 := 0
  /-- engine wait reasons latched by the hold, (p × 16 + c) × 4 + engine: code + 1; R471; none -/
  waits : Tab Nat := []
  /-- commands that complete after CAIRN_DONE; R468; none -/
  waiting : List Accepted := []
  /-- work path frozen; 1 bit; R470; 0 -/
  frozen : Bool := false
  /-- the area is reserved; 1 bit; R468; 0 -/
  area : Bool := false
  /-- a class X event came during TAKING and FAULTED follows the take; 1 bit; R472; 0 -/
  xDue : Bool := false
  deriving DecidableEq, Repr

end Sys2Proof.Machine
end

