-- ==== Sys2Proof/Machine/Care.lean ====
section
/-!
DEFINITION. The parts of the state that hold temperature, power, security and the non-volatile records, as plain
data. A field's docstring gives: what it is; its width; the rule of spec/ that names it; its reset value.
-/

namespace Sys2Proof.Machine

/-! ## Temperature and power -/

/-- A management sensor (R412–R414), readings in 1/16 °C. -/
structure Sensor where
  /-- last sample; 16 bits signed; R413, R512; DESIGN CHOICE 0 (log 17) -/
  reading : Int := 0
  /-- a sample has been taken since the package reset; 1 bit; R414; 0 -/
  sampled : Bool := false
  /-- excluded until the next package reset; 1 bit; R414; 0 -/
  excluded : Bool := false
  /-- sampled at 16 kHz; 1 bit; R413; 0 -/
  fast : Bool := false
  /-- timebase at which a condition for 16 kHz last held; 64 bits; R413; 0 -/
  fastAt : Nat := 0
  /-- timebase of the last sample; 64 bits; R413; 0 -/
  at_ : Nat := 0
  /-- the previous sample read 125 °C or more: its reading; R429; none -/
  trip : Option Int := none
  deriving DecidableEq, Repr

/-- The slow-down request of an enforcement domain (R423–R426). -/
structure Request where
  /-- latest request id; 32 bits; Table 20-16; 0 -/
  id : BitVec 32 := 0
  /-- OPEN; 1 bit; Table 20-16; 0 -/
  opened : Bool := false
  /-- ENFORCING; 1 bit; Table 20-16; 0 -/
  enforcing : Bool := false
  /-- ACKED; 1 bit; Table 20-16; 0 -/
  acked : Bool := false
  /-- sensor that opened it; 10 bits; R424; 0 -/
  sensor : Nat := 0
  /-- reading that opened it; 16 bits; R424; 0 -/
  reading : Int := 0
  /-- grace period of the request in ms; 10 bits; R424, R511; 0 -/
  grace : Nat := 0
  /-- timebase at which it opened; 64 bits; R424; 0 -/
  openedAt : Nat := 0
  /-- the grace period has ended; 1 bit; R424; 0 -/
  graceOver : Bool := false
  /-- timebase of the last notice; 64 bits; R274; 0 -/
  noticeAt : Nat := 0
  /-- timebase of the first enforcement step; 64 bits; R426; 0 -/
  gridAt : Nat := 0
  /-- grid points passed; R426; 0 -/
  gridN : Nat := 0
  /-- timebase since which every sensor of the domain reads below the release level; R425; none -/
  coolSince : Option Nat := none
  /-- enforcement step of North under this domain; 4 bits; Table 15-5; 0 -/
  stepN : Nat := 0
  /-- enforcement step of South under this domain; 4 bits; Table 15-5; 0 -/
  stepS : Nat := 0
  deriving DecidableEq, Repr

/-- The operating point and rate of a flank (R418, R419, Table 20-16). -/
structure FlankPower where
  /-- operating point in force, N_POINT; 2 bits; R418, Table 20-16; NOM -/
  point : Point := .nom
  /-- point the rail is moving to; R418; none -/
  moving : Option Point := none
  /-- timebase at which the move began; 64 bits; R526; 0 -/
  movedAt : Nat := 0
  /-- issue-token rate in force, N_RATE; 5 bits; R419, Table 20-16; 16 -/
  rate : Nat := 16
  /-- light-layer band less 1, N_BAND; 2 bits; Table 20-16; 0 -/
  band : Nat := 0
  /-- timebase at which the band domain last moved to band 4; R419; none -/
  band4At : Option Nat := none
  /-- releases still raise this flank by the limiter's pace from this point; R425; none -/
  ramp : Option (Point × Nat) := none
  /-- timebase of the last release ramp step; 64 bits; R425; 0 -/
  rampAt : Nat := 0
  /-- held by STOP; 1 bit; R427; 0 -/
  stopped : Bool := false
  /-- timebase at which STOP began; 64 bits; R410; 0 -/
  stoppedAt : Nat := 0
  deriving DecidableEq, Repr

/-- Thermal and power manager (R408–R430, Tables 20-14 to 20-18). -/
structure Thermal where
  /-- sensors by number; 1,024 × 16 bits; R412; as `Sensor` -/
  sensor : Tab Sensor := []
  /-- TH_THROTTLE THRESHOLD in °C; 8 bits; Table 20-15; 110 -/
  threshold : Nat := 110
  /-- TH_GRACE GRACE_MS; 10 bits; Table 20-15; 20 -/
  graceMs : Nat := 20
  /-- North request; Table 20-16 -/
  reqN : Request := {}
  /-- South request; Table 20-16 -/
  reqS : Request := {}
  /-- Package request; Table 20-16 -/
  reqP : Request := {}
  /-- last request id given; 32 bits; R424; 0 -/
  lastId : BitVec 32 := 0
  /-- ids of requests that have been released; R274; none -/
  released : List (BitVec 32) := []
  /-- North operating point; Table 20-16 -/
  north : FlankPower := {}
  /-- South operating point; Table 20-16 -/
  south : FlankPower := {}
  /-- TH_POWER MEAN_W; 16 bits; R420; 0 -/
  meanW : Nat := 0
  /-- TH_POWER POINT, highest point the limiter allows; 2 bits; R421; NOM (1) -/
  limPoint : Point := .nom
  /-- TH_POWER RATE; 5 bits; R421; 16 -/
  limRate : Nat := 16
  /-- times of the rail moves that failed within the last 1 s; R526; none -/
  railFails : List Nat := []
  /-- both flanks are held at the last confirmed point until the next Col reset; R526; no -/
  railHeld : Bool := false
  /-- timebase of the limiter's last change; 64 bits; R421; none -/
  limAt : Option Nat := none
  /-- timebase of the limiter's last lowering of a point; R421; none -/
  lowerAt : Option Nat := none
  /-- timebase since which r is held below 16 at LOW; R422; none -/
  lowSince : Option Nat := none
  /-- TH_POWER LOW_HELD; 1 bit; R422; 0 -/
  lowHeld : Bool := false
  /-- bands of stacks, laser chiplets, optical chiplets and modules less 1, domain codes 0–7, 16–27, 32–39, 64 on; 2 bits; R415; 0 -/
  bands : Tab Nat := []
  /-- laser chiplets (LL0–LL7: 0–7, CL0–CL3: 8–11) at their laser zone limit; R428; none -/
  zoneOff : List Nat := []
  /-- TH_URGENT_COUNT: P_CHECK, LANE_CHECK, D2D_RECAL, SCRUB, REFRESH at 0–4; 5 × 12 bits saturating; Table 20-17; 0 -/
  urgent : Tab Nat := []
  /-- shutdown record: sensor, two readings, T_TRIP, latched on VAON; 10 + 16 + 16 + 64 bits; R430; not latched -/
  latched : Option (Nat × Int × Int × Nat) := none
  /-- a sensor has read 125 °C or more twice and shutdown is due; R429; none -/
  tripDue : Option (Nat × Int × Int) := none
  /-- parts fenced because every sensor of theirs is excluded, by source id; R414; none -/
  partsFenced : List Nat := []
  deriving DecidableEq, Repr

/-! ## Security -/

/-- The security engine and its records (R477–R489). -/
structure Sec where
  /-- owner key, or none when UNOWNED; 60 bytes (NVM); R486; DESIGN CHOICE none (log 9) -/
  ownerKey : Option (List Byte) := none
  /-- OWNER_POLICY; 32 bits (NVM); R486; 0b10 (UNOWNED) -/
  policy : BitVec 32 := 2
  /-- OWNER_COUNTER; 32 bits (NVM); R486; DESIGN CHOICE 0 (log 9) -/
  ownerCounter : BitVec 32 := 0
  /-- security version counter; 32 bits (NVM); R479; DESIGN CHOICE 0 (log 9) -/
  version : BitVec 32 := 0
  /-- LEAF_RESERVED; 26 bits (NVM); R483; DESIGN CHOICE 0 (log 9) -/
  reserved : Nat := 0
  /-- next leaf to sign with; 26 bits; R483; LEAF_RESERVED -/
  nextLeaf : Nat := 0
  /-- bottom trees generated; 11 bits; R483; DESIGN CHOICE 1 (log 9) -/
  trees : Nat := 1
  /-- timebase of the last signed quote; R484; none -/
  quotedAt : Option Nat := none
  /-- LEAVES_LOW has been reported; 1 bit; R484; 0 -/
  leavesLow : Bool := false
  /-- debug challenge; 256 bits; R488; drawn at package reset, DESIGN CHOICE 0 in the reset state (log 7) -/
  challenge : BitVec 256 := 0
  /-- tokens refused since the package reset; 4 bits; R488; 0 -/
  refused : Nat := 0
  /-- SCOPE unlocked; 4 bits; R488; 0 -/
  unlocked : BitVec 4 := 0
  /-- DEBUG_UNLOCKED; 1 bit; R488; 0 -/
  debug : Bool := false
  /-- CAL_HASH kinds that mismatched at the last reset; 5 bits; R438; none -/
  hashBad : List Nat := []
  /-- calibration status list: SUSPECT records, KIND × 4096 + INSTANCE; NVM; R445; DESIGN CHOICE none (log 9) -/
  suspect : List Nat := []
  /-- calibration records unusable because both copies are bad, KIND × 4096 + INSTANCE; R437; none -/
  unusable : List Nat := []
  /-- service records lost in both copies, which take their factory default; R481; none -/
  defaulted : List Nat := []
  /-- JTAG instruction register; R487; DESIGN CHOICE BYPASS (log 12) -/
  jtag : JtagInstr := .bypass
  /-- boundary scan cells driven by EXTEST and CLAMP; 32 bits; R487; DESIGN CHOICE 0 (log 12) -/
  scan : BitVec 32 := 0
  deriving DecidableEq, Repr

end Sys2Proof.Machine
end

