-- ==== Sys2Proof/Machine/Net.lean ====
section
/-!
DEFINITION. The parts of the state that hold lasers, optical channels, links, the fabric router, the Verweust modules
and the guest site, as plain data. A field's docstring gives: what it is; its width; the rule of spec/ that names it;
its reset value.
-/

namespace Sys2Proof.Machine

/-! ## Lasers (R292–R296) -/

/-- A laser (R293). Biases are in units of 0.1 mA and outputs in units of 0.1 % of P0. -/
structure Laser where
  /-- FADE, latched until the package reset; 2 bits; R295, R296; OK -/
  fade : Fade := .ok
  /-- LIT; 1 bit; R296, R538; 0 -/
  lit : Bool := false
  /-- band of the bias table in use less 1; 2 bits; R294, R296; 0 -/
  band : Nat := 0
  /-- samples of the last 100 ms, newest first: bias and output; R293; none -/
  samples : List (Nat × Nat) := []
  /-- LIT_HOURS; 16 bits saturating (NVM); R296; DESIGN CHOICE 0 (log 9) -/
  hours : Nat := 0
  /-- timebase from which the next lit hour counts; 64 bits; R296; 0 -/
  litAt : Nat := 0
  deriving DecidableEq, Repr

/-- A link laser hand-over in progress (R301). -/
structure Handover where
  /-- timebase at which the SPARE point or failure came -/
  began : Nat
  /-- the primary has been turned off -/
  primaryOff : Bool
  /-- links whose move is not yet acknowledged -/
  waiting : List Nat
  /-- the spare lights the path -/
  switched : Bool
  deriving DecidableEq, Repr

/-- The lasers of the package (R292). -/
structure Lasers where
  /-- lasers by instance; 940; R292 -/
  laser : Tab Laser := []
  /-- link laser wavelengths whose spare is in use, LL × 18 + k (laser spare map, NVM); R295; DESIGN CHOICE none (log 9) -/
  spareIn : List Nat := []
  /-- lasers recorded at SPARE_POINT or FAILED (laser spare map, NVM); R295; DESIGN CHOICE none (log 9) -/
  worn : List Nat := []
  /-- hand-overs in progress, by LL × 18 + k; R301; none -/
  handover : Tab (Option Handover) := []
  /-- hand-overs that wait for one of the two places of their chiplet, LL × 18 + k; R302; none -/
  queued : List Nat := []
  /-- wavelengths with no laser left, LL × 18 + k; R302, R303; none -/
  gone : List Nat := []
  /-- bands of the laser chiplets' tables by chiplet: LL0–7, CL 8–11, port 12; 2 bits; R294; 0 -/
  chipBand : Tab Nat := []
  deriving DecidableEq, Repr

/-! ## Channels and links -/

/-- The pattern checker, generator and injector of a channel (R337, R338). -/
structure Checker where
  /-- BITS; 40 bits saturating; Table 12-9; 0 -/
  bits : Nat := 0
  /-- errors in the lower, middle and upper eyes; Table 12-9; 0 -/
  lower : Nat := 0
  middle : Nat := 0
  upper : Nat := 0
  /-- RESERVED_SEEN; 1 bit; Table 12-9; 0 -/
  reserved : Bool := false
  /-- a test runs with this pattern; R337; none -/
  pattern : Option Nat := none
  /-- half period of SQUARE; R337; 0 -/
  half : Nat := 0
  /-- test codewords sent or checked since TEST_START; R337; 0 -/
  pos : Nat := 0
  /-- the place in the pattern: a checker's once found, a generator's once the pattern runs; 31 bits; R337; none -/
  place : Option Nat := none
  /-- register of the PRBS31 generator, which is never reseeded; 31 bits; R337; none before its first use -/
  gen : Option Nat := none
  /-- injection mode (0 off, 1 RATE, 2 BURST), n or k, first symbol; at a receiver 1 while INJECTING is set; R338; off -/
  inject : Nat × Nat × Nat := (0, 0, 0)
  deriving DecidableEq, Repr

/-- The trims of a receive channel: peaking in steps of 0.5 dB (5 bits), integrator gain (8 bits) and offset (8 bits,
signed), and the lower, middle and upper decision threshold (8 bits each) (R325, Table 16-4). -/
structure RxTrims where
  peaking : Int
  gain : Int
  offset : Int
  lower : Int
  middle : Int
  upper : Int
  deriving DecidableEq, Repr

/-- One side of a channel, keyed by the instance of R305. -/
structure Chan where
  /-- STATE; 4 bits; R311; DESIGN CHOICE SPARE before training (log 21); FENCED and DARK kept in the link record (R306) -/
  state : ChanState := .spare
  /-- LANE; 5 bits; R311; none -/
  lane : Option Nat := none
  /-- LAST_RESULT; 2 bits; R311; 3, none since reset -/
  last : Nat := 3
  /-- timebase of the last completed check, from which CHECK_AGE counts; 64 bits; R307; 0 -/
  checkedAt : Nat := 0
  /-- timebase at which the check in progress began; 64 bits; R307; 0 -/
  began : Nat := 0
  /-- CORRECTED; 16 bits saturating; R311; 0 -/
  corrected : Nat := 0
  /-- MOVES; 8 bits; R311; 0 -/
  moves : Nat := 0
  /-- PROMOTIONS; 8 bits; R311; 0 -/
  promotions : Nat := 0
  /-- consecutive 1 s intervals with an uncorrectable codeword; R304; 0 -/
  badIntervals : Nat := 0
  /-- the last check was MARGINAL: the next is due after 2.5 s; R309; 0 -/
  marginal : Bool := false
  /-- the check has been promoted to urgent; 1 bit; R308; 0 -/
  urgent : Bool := false
  /-- the receive channel is locked; 1 bit; R326; 0 -/
  locked : Bool := false
  /-- the polarity it locked with is inverted; 1 bit; R326; 0 -/
  inverted : Bool := false
  /-- of the last 64 codewords, newest first, which were bad; R326; none -/
  bad : List Bool := []
  /-- beacons missed in a row; R335; 0 -/
  missed : Nat := 0
  /-- the walk of its ring; R291; idle -/
  walk : Walk := {}
  /-- generator, checker and injector; R337; idle -/
  checker : Checker := {}
  /-- lane blocks waiting for an extra filler: type and 31 bytes; R322; none -/
  blocks : List (Nat × List Byte) := []
  /-- owed data codewords of the lane, oldest first, each ten blocks (control flag, payload); R322; none -/
  owed : List (List (Bool × List Byte)) := []
  /-- the last codeword received was a training codeword; 1 bit; R333; 0 -/
  training : Bool := false
  /-- slot of the last codeword received on the channel, and this end's slot at its arrival; 2 × 48 bits; R329, R330; 0 -/
  heard : Nat × Nat := (0, 0)
  /-- modulator bias and drive trims set by CHECK_REPORT, in trim steps from the calibration record; R307, R319; 0 -/
  bias : Int := 0
  drive : Int := 0
  /-- receive trims that checks have corrected, by band; the record's stand for a band that is not listed; R325, R439;
  none -/
  rxTrims : Tab (Option RxTrims) := []
  /-- heater value at which a walk left the ring, and the band it holds for; 10 bits; R291; none, the record's -/
  heat : Option (Nat × Int) := none
  /-- codewords decoded, symbols corrected and codewords uncorrectable in the 1 s interval under way; R304, R311, R317; 0 -/
  counted : Nat × Nat × Nat := (0, 0, 0)
  deriving DecidableEq, Repr

/-- A lane move of the transmit direction (R297, R298). -/
structure LaneMove where
  lane : Nat
  a : Nat
  b : Nat
  slot : Nat
  attempts : Nat
  immediate : Bool
  /-- why: 0 a laser, 1 a check, 2 LANE_RETIRE -/
  why : Nat
  deriving DecidableEq, Repr

/-- A width change in progress (R359). -/
structure WidthChange where
  width : Nat
  exclude : List Nat
  slot : Nat
  /-- this end asked for it -/
  mine : Bool
  /-- both ends have agreed -/
  agreed : Bool
  /-- channels of the far end's direction that the far end excludes -/
  far : List Nat
  deriving DecidableEq, Repr

/-- One link end (R327–R362). -/
structure LinkSt where
  /-- training state; 3 bits; R327; DARK (R340) -/
  st : Train := .dark
  /-- timebase of entry to that state; 64 bits; R327; 0 -/
  stAt : Nat := 0
  /-- the transmit direction is ACTIVE; 1 bit; R328; 0 -/
  txActive : Bool := false
  /-- the receive direction is ACTIVE; 1 bit; R328; 0 -/
  rxActive : Bool := false
  /-- ACTIVE_AT of each direction, named and not reached; 48 bits; R328; none -/
  txAt : Option Nat := none
  rxAt : Option Nat := none
  /-- agreed width 16, 12 or 8; R331; down -/
  width : Option Nat := none
  /-- SLOT of the transmit direction; 48 bits; R321; 0 -/
  slot : Nat := 0
  /-- SLOT last received; 48 bits; R330; 0 -/
  rxSlot : Nat := 0
  /-- the link has entered SEND since the package reset; 1 bit; R321; 0 -/
  sent : Bool := false
  /-- own training nonce; 64 bits; R329; 0 -/
  nonce : BitVec 64 := 0
  /-- far end's capability word; 64 bits; R331; 0 -/
  farCap : BitVec 64 := 0
  /-- far end's nonce; 64 bits; R331; 0 -/
  farNonce : BitVec 64 := 0
  /-- LEADER; 1 bit; R331; 0 -/
  leader : Bool := false
  /-- LOOPED; 1 bit; R331; 0 -/
  looped : Bool := false
  /-- light has arrived since the entry to SEND; 1 bit; R327; 0 -/
  light : Bool := false
  /-- NO_PEER; 1 bit; R327; 0 -/
  noPeer : Bool := false
  /-- MISWIRED; 1 bit; R342; 0 -/
  miswired : Bool := false
  /-- REVERSED; 1 bit; R330; 0 -/
  reversed : Bool := false
  /-- DISABLED; 1 bit (link record, NVM); R362; DESIGN CHOICE 0 (log 9) -/
  disabled : Bool := false
  /-- returns to SEND in a row; R332; 0 -/
  returns : Nat := 0
  /-- bivouacs in a row; R332; 0 -/
  bivouacs : Nat := 0
  /-- in BIVOUAC until this time, when R332 sent it there; R332; none -/
  bivouacTill : Option Nat := none
  /-- RTT_NS; 32 bits; R331; 0 -/
  rtt : Nat := 0
  /-- the round trip has been measured; R331; 0 -/
  rttKnown : Bool := false
  /-- transmit rings verified and receive channels accepted, as bit masks; 18 bits each; R327; 0 -/
  txWorking : List Nat := []
  rxUsable : List Nat := []
  /-- the transmit direction sleeps; the receive direction sleeps; R334; 0 -/
  txSleep : Bool := false
  rxSleep : Bool := false
  /-- slots at which the receive direction falls asleep and wakes; R334, R335; none -/
  rxSleepAt : Option Nat := none
  rxWakeAt : Option Nat := none
  /-- NEG_DONE is set; 1 bit; R328; 0 -/
  negDone : Bool := false
  /-- slots at which SLEEP and WAKE take effect; R334, R335; none -/
  sleepAt : Option Nat := none
  wakeAt : Option Nat := none
  /-- RETRAIN names this slot; R333; none -/
  retrainAt : Option Nat := none
  /-- a retrain has been asked by this end; R361; 0 -/
  retrainMine : Bool := false
  /-- next LSEQ to send; 32 bits; R346; 0 -/
  lseq : BitVec 32 := 0
  /-- next LSEQ expected; 32 bits; R346; 0 -/
  expect : BitVec 32 := 0
  /-- replay buffer, oldest first; 8,192 flits; R349; empty -/
  replay : List Flit := []
  /-- timebase at which LACK last advanced or the buffer was last empty; R348; 0 -/
  lackAt : Nat := 0
  /-- go-back-N replays in a row without LACK advancing; R348; 0 -/
  replays : Nat := 0
  /-- timebase at which LACK was last carried to the far end; R347; 0 -/
  ackAt : Nat := 0
  /-- REPLAY_REQ goes with the next reverse flit; R347; 0 -/
  replayReq : Bool := false
  /-- a gap has been reported, and when; R347; none -/
  gapAt : Option Nat := none
  /-- timebase since which some PAUSE bit received has been set; 64 bits; R378; 0 -/
  pausedAt : Nat := 0
  /-- PAUSE as last received; 8 bits; R350; 0 -/
  pauseIn : BitVec 8 := 0
  /-- flits that have landed and wait for an output queue; 4 MiB; R350; empty -/
  landing : List Flit := []
  /-- flits chosen for this link and not yet placed; R355; empty -/
  queue : List Flit := []
  /-- link stream blocks not yet sent: control flag and payload; R283, R345; empty -/
  stream : List (Bool × List Byte) := []
  /-- stripe position of the next stream block; R283; 0 -/
  stripe : Nat := 0
  /-- last symbol level of each lane, by channel; R324; 0 -/
  lastSym : Tab Nat := []
  /-- blocks received of each lane and not yet merged, with their error mark; R322, R323; empty -/
  rxLanes : Tab (List (Bool × Bool × List Byte)) := []
  /-- stripe position of the next stream block to merge; R283; 0 -/
  rxStripe : Nat := 0
  /-- data blocks received, in stream order, towards the next flit, with their error marks; R317, R345; empty -/
  rxBlocks : List (Bool × List Byte) := []
  /-- slot of the last codeword taken of each data lane; 48 bits or none; R298, R323; none -/
  rxLaneAt : Tab (Option Nat) := []
  /-- width change in progress; R359; none -/
  change : Option WidthChange := none
  /-- channels of this end that width changes have excluded; R359; none -/
  excluded : List Nat := []
  /-- lane moves of the transmit direction in progress; R297; none -/
  moves : List LaneMove := []
  /-- moves the receive direction has been told of: lane, channel b, slot; R297; none -/
  rxMoves : List (Nat × Nat × Nat) := []
  /-- timebase at which a lane was lost with no LANE_MOVE seen, by lane; R298; none -/
  lost : Tab (Option Nat) := []
  /-- lane test: pattern, half period, channels, end time; R339; none -/
  test : Option (Nat × Nat × Nat × Nat) := none
  deriving DecidableEq, Repr

/-! ## The fabric router -/

/-- An end-to-end credit entry (R352, R353). -/
structure CreditEntry where
  granted : BitVec 32 := 0
  sent : BitVec 32 := 0
  /-- total last carried by a CREDIT flit; its time -/
  told : BitVec 32 := 0
  toldAt : Nat := 0
  /-- flits consumed at the destination -/
  consumed : BitVec 32 := 0
  /-- timebase of the last flit -/
  usedAt : Nat := 0
  /-- the destination closes the entry -/
  closing : Bool := false
  /-- sent total of the source's CLOSE_ACK -/
  closeAt : Option (BitVec 32) := none
  deriving DecidableEq, Repr

/-- A credit request not yet answered (R353). -/
structure CreditAsk where
  tag : BitVec 32
  began : Nat
  /-- timebase of the BUSY answer -/
  askedAt : Nat
  waitUs : Nat
  /-- answered with BUSY -/
  refused : Bool
  deriving DecidableEq, Repr

/-- A request of this package that awaits its response (R367, R368). -/
structure FabReq where
  tag : BitVec 32
  dst : Nat
  write : Bool
  addr : Nat
  bytes : Nat
  sentAt : Nat
  /-- link that carried the request, if it left the package -/
  link : Option Nat
  /-- requesting engine (physical cluster, core), or the firmware -/
  engine : Option (Nat × Nat)
  /-- purpose of a firmware message: 0 loan request, 1 loan return, 2 START confirmation, 3 other; slot or graph -/
  purpose : Nat
  slot : Nat
  deriving DecidableEq, Repr

/-- A reduction slot (R370). -/
structure RedSlot where
  op : Nat
  weight : Nat
  elems : List (BitVec 32)
  poison : Bool
  began : Nat
  /-- branches (groups) that sent contributions; 12 stands for this package -/
  branches : List Nat
  /-- the reduced contribution has gone towards the root -/
  forwarded : Bool
  deriving DecidableEq, Repr

/-- An entry of a router's reduction table (R369). -/
structure RedEntry where
  /-- member packages of the group -/
  members : List Nat
  root : Nat
  /-- REDUCE_SCATTER: each chunk has its owner as root -/
  scatter : Bool
  /-- graph slot and output tensor it serves -/
  graph : Nat
  tensor : Nat
  deriving DecidableEq, Repr

/-- The fabric record and the routers (R340–R372). -/
structure Fab where
  /-- package id; 20 bits (fabric record, NVM); R340; 0 -/
  id : Nat := 0
  /-- extents E_0 to E_4; 5 × 5 bits (NVM); R340; all 1 -/
  extent : List Nat := [1, 1, 1, 1, 1]
  /-- spur table: endpoint, host package, 0 F30 or 1 F31; up to 64 (NVM); R376; empty -/
  spurs : List (Nat × Nat × Nat) := []
  /-- REQUEST_TIMEOUT_US; 20 bits (NVM); R368; 2,000 -/
  timeoutUs : Nat := 2000
  /-- REPLAY_TIMER_US, 0 for automatic; 16 bits (NVM); R349; 0 -/
  replayUs : Nat := 0
  /-- TIME_PRIORITY of the fabric record; 8 bits (NVM); R373, R376; 255 -/
  timePriority : Nat := 255
  /-- FAB_CONFIG has been received; 1 bit (NVM); R358; 0 -/
  configured : Bool := false
  /-- next GSEQ of each group; 12 × 32 bits; R356; 0 -/
  gseq : Tab Nat := []
  /-- next GSEQ each group window delivers; 12 × 32 bits; R356; 0 -/
  gnext : Tab Nat := []
  /-- flits each group window holds out of order; R356; none -/
  window : Tab (List Flit) := []
  /-- flits entered into each output queue, group × 8 + VC; 32 bits; R475; 0 -/
  outIn : Tab Nat := []
  /-- output queues, group × 8 + VC; 64 KiB each; R351; empty -/
  outq : Tab (List Flit) := []
  /-- source entries, package × 8 + VC; 4,096 per VC; R353; none -/
  src : Tab (Option CreditEntry) := []
  /-- destination entries, package × 8 + VC; 4,096 per VC; R353; none -/
  dst : Tab (Option CreditEntry) := []
  /-- credit requests out, package × 8 + VC; R353; none -/
  asks : Tab (Option CreditAsk) := []
  /-- flits waiting for end-to-end credit; R352; none -/
  waiting : List Flit := []
  /-- requests out; R368; none -/
  reqs : List FabReq := []
  /-- VC3 flits waiting for one of four places to their destination; R354; none -/
  sysWaiting : List Flit := []
  /-- reduction tables of the routers by COLL_ID; R369; none -/
  tables : Tab (Option RedEntry) := []
  /-- reduction slots, (flank × 2^16 + COLL_ID) × 2^32 + CHUNK; 4,096 a flank; R370; free -/
  slots : Tab (Option RedSlot) := []
  /-- SEND data that has arrived, by package × 2^32 + tag: bytes by offset; R150; none -/
  received : Tab (Tab (Option Byte)) := []
  /-- SENDs with a poisoned part, package × 2^32 + tag; R150; none -/
  receivedBad : List Nat := []
  /-- flits discarded: late responses, reserved types, unroutable, too many detours at 0–3; R344, R363, R365, R368; 0 -/
  counts : Tab Nat := []
  deriving DecidableEq, Repr

/-! ## Verweust modules (R379–R397) -/

/-- One direction of a module, its transmitter and its receiver (R379). Direction 0 is the one in which the end with
the lower position code receives (R473). -/
structure D2dDir where
  /-- repair map; 8 entries of a wire 0–72 (NVM); R380; DESIGN CHOICE none (log 9) -/
  repair : List Nat := []
  /-- half width until the package reset; 1 bit; R392; 0 -/
  half : Bool := false
  /-- out of service for want of its calibration record; 1 bit; Table 16-1; 0 -/
  noRecord : Bool := false
  /-- wires with an error in the last retrain test; R391; none -/
  suspect : List Nat := []
  /-- sequence of the next flit to send; 7 bits; R383; 0 -/
  seq : BitVec 7 := 0
  /-- sequence the receiver expects next; 7 bits; R383; 0 -/
  expect : BitVec 7 := 0
  /-- flits of the replay in progress still to be sent; R384; 0 -/
  left : Nat := 0
  /-- retry buffer: flits sent and not acknowledged, oldest first (flit, poison); 128 flits; R384; empty -/
  retry : List (BitVec 256 × Bool) := []
  /-- timebase at which ACK_SEQ last advanced; R384; 0 -/
  ackAt : Nat := 0
  /-- replays in a row without an advance; R384; 0 -/
  replays : Nat := 0
  /-- a slot was bad: flits are discarded until a replay begins, NAK goes with the next word; R384; 0 -/
  nak : Bool := false
  /-- flits received in order and merged; model's own count; 64 bits; R393; 0 -/
  merged : Nat := 0
  /-- slot counter; 32 bits; R381; 0 -/
  slot : BitVec 32 := 0
  /-- timebase since which a correction waits for an empty slot; R447; none -/
  emptyDue : Option Nat := none
  /-- band (less 1) whose sampling offset set is applied, and the offset where a retrain has corrected it, in 1/32 UI; 4 bits
  signed; R390, Table 16-4; the record's of band 0 -/
  sampling : Nat × Option Int := (0, none)
  /-- deskew trims that a retrain has corrected, by physical wire, in 1/32 UI; 73 × 6 bits signed; R390, Table 16-4; none, the
  record's -/
  deskew : Tab (Option Int) := []
  deriving DecidableEq, Repr

/-- A sideband message waiting for its SB_ACK (R386). -/
structure SbWait where
  word : BitVec 64
  seq : BitVec 8
  sentAt : Nat
  attempts : Nat
  deriving DecidableEq, Repr

/-- A Verweust module (R379). -/
structure Module where
  /-- service state; R387; DOWN until link-up -/
  state : ModState := .down
  /-- direction 0; R379 -/
  rx : D2dDir := {}
  /-- direction 1; R379 -/
  tx : D2dDir := {}
  /-- poison agreed by both ends; 1 bit; R389; 0 -/
  poison : Bool := false
  /-- ID last received that was acted on: of a seam module the flank it came from, design code, stepping; 24 bits; R54; none -/
  id : Option (Flank × BitVec 16 × BitVec 8) := none
  /-- agreed rate in Gbit/s: 32, 16 or 8; R379, R389; 32 -/
  rate : Nat := 32
  /-- agreed retry depth; 8 bits; R389; 128 -/
  depth : Nat := 128
  /-- agreed tags outstanding; 9 bits; R389; 256 -/
  tags : Nat := 256
  /-- timebase of the last retrain; 64 bits; R390; 0 -/
  recalAt : Nat := 0
  /-- recalibration has been promoted to urgent; 1 bit; R390; 0 -/
  urgent : Bool := false
  /-- timebase at which the retrain in progress ends; R390; none -/
  retrainTill : Option Nat := none
  /-- next SEQ of the sideband; 8 bits; R386; 0 -/
  sbSeq : BitVec 8 := 0
  /-- sideband messages unanswered; R386; none -/
  sbWait : List SbWait := []
  /-- sideband messages of reserved type or bad check dropped; 16 bits; R386; 0 -/
  sbDropped : Nat := 0
  deriving DecidableEq, Repr

/-- The Verweust groups (R393). -/
structure D2d where
  /-- modules by instance; 141; R396 -/
  modu : Tab Module := []
  /-- striping weights in force, module by module; R393; 0 -/
  weight : Tab Nat := []
  /-- weight change named by the transmitter and not yet reached, by group: flit count; R393; none -/
  changeAt : Tab (Option Nat) := []
  /-- group flit counts; R393; 0 -/
  flits : Tab Nat := []
  deriving DecidableEq, Repr

/-! ## The guest site (R399–R407) -/

/-- The guest firewall and what the Col holds of the guest (R400–R407). -/
structure Guest where
  /-- GFW_CTRL FENCE_ON_VIOLATION; 1 bit; Table 14-9; 1 -/
  fenceOn : Bool := true
  /-- GFW_STATUS FENCED; 1 bit; Table 14-10; 0 -/
  fenced : Bool := false
  /-- GFW_STATUS VIOLATIONS; 32 bits saturating; Table 14-10; 0 -/
  violations : Nat := 0
  /-- GFW_RATE RATE_GBPS; 16 bits; Table 14-11; 0 -/
  rate : Nat := 0
  /-- GFW_RATE BURST_KIB; 16 bits; Table 14-11; 64 -/
  burst : Nat := 64
  /-- GFW_VIOL_ADDR; 40 bits; Table 14-12; 0 -/
  violAddr : Nat := 0
  /-- GFW_VIOL_INFO; 20 bits; Table 14-12; 0 -/
  violInfo : Nat := 0
  /-- GFW_WIN_BASEn; 16 × 28 bits; Table 14-13; 0 -/
  base : Tab Nat := []
  /-- GFW_WIN_ATTRn; 16 × 32 bits; Table 14-13; 0 -/
  attr : Tab Nat := []
  /-- last TEMP: temperature in 1/16 °C, power in 0.25 W; R386, R401; 0 -/
  temp : Int := 0
  power : Nat := 0
  /-- timebase of the last TEMP; 64 bits; R401; 0 -/
  tempAt : Nat := 0
  /-- consecutive TEMP messages above 60 W; R401; 0 -/
  overRuns : Nat := 0
  deriving DecidableEq, Repr

end Sys2Proof.Machine
end

