-- ==== Sys2Proof/Machine/State.lean ====
section
/-!
DEFINITION. The state of the G2 as plain data, the reasons a step can stop, and the state right after reset.
A field's docstring gives: what it is; its width; the rule of spec/ that names it; its reset value.
-/

namespace Sys2Proof.Machine

/-- The state of one G2 and the queue of commands and events that wait for it. -/
structure State where
  /-- what the ordering code fixes; Table 0-1; R2; log 9 -/
  part : Part := {}
  /-- pins; R529 -/
  pins : Pins := {}
  /-- the package timebase and time discipline; R408 -/
  clock : Clock := {}
  /-- boot and bring-up; R498 -/
  boot : Boot := {}
  /-- device-wide state; R261 -/
  dev : Dev := {}
  /-- the fault collector; R449 -/
  faults : Faults := {}
  /-- mailboxes; R223 -/
  mbx : Mailboxes := {}
  /-- doorbells; R233 -/
  db : Doorbells := {}
  /-- locks LK_LOCK0–63; 64 × 9 bits; R240; free, RELEASED_BY_RESET 0 -/
  locks : Tab Lock := []
  /-- control ports; R204 -/
  ports : Ports := {}
  /-- the command interface; R244 -/
  cmds : Cmds := {}
  /-- loaded graphs; R164 -/
  graphs : Graphs := {}
  /-- memory; R175 -/
  mem : MemSys := {}
  /-- stack controllers; R190 -/
  stk : StackCtl := {}
  /-- event counters; R463 -/
  counts : Counts := {}
  /-- flank compute; R55 -/
  comp : Compute := {}
  /-- P banks; R118 -/
  banks : Banks := {}
  /-- Cairn; R468 -/
  cairn : Cairn := {}
  /-- temperature and power; R412 -/
  therm : Thermal := {}
  /-- lasers; R292 -/
  las : Lasers := {}
  /-- channel sides by instance, link × 36 + side × 18 + channel; 1,152; R305 -/
  chans : Tab Chan := []
  /-- link ends F0–F31; 32; R327 -/
  links : Tab LinkSt := []
  /-- the fabric record and routers; R340 -/
  fab : Fab := {}
  /-- Verweust modules; R379 -/
  d2d : D2d := {}
  /-- the guest site; R399 -/
  guest : Guest := {}
  /-- security engine; R477 -/
  sec : Sec := {}
  /-- what the G2 has sent, oldest first; model's own (log 2); empty -/
  out : List Output := []
  /-- free values used so far; model's own (log 3); DESIGN CHOICE 0 -/
  free : Nat := 0
  /-- commands and events that wait, first in, first out; model's own (log 1); empty -/
  pending : List Instr := []
  deriving DecidableEq, Repr

/-- Reasons for a fault: none. Every row of the table has an effect in every state. -/
inductive Fault where
  deriving DecidableEq, Repr

/-- Reasons for a refusal. -/
inductive Refusal where
  /-- Raised by the dispatch alone, for a row that has no meaning yet; safe: the machine stops. -/
  | notModelled (mnemonic : String)
  deriving DecidableEq, Repr

/-- The G2 as a package reset leaves it at the moment the Col leaves reset (R491, R11), with nothing in the queue. -/
def State.reset : State := {}

end Sys2Proof.Machine
end

