-- ==== Sys2Proof/Machine/Ops.lean ====
section
/-!
DEFINITION. The shared operations on the Col side of the G2: outputs, frames, doorbells and EVENT frames,
completion entries and notices, the SYNC record, device state, fence list, the Cairn trigger, the fault collector
and DEGRADED.
-/

namespace Sys2Proof.Machine

/-- The outcome type of every meaning. -/
abbrev Step := Host.Outcome State Fault Refusal

/-! ## Time -/

/-- One nanosecond of the timebase passes with nothing else (R408, log 1). -/
def idleTick (s : State) : State := { s with clock := { s.clock with now := s.clock.now + 1 } }

/-! ## Outputs and free values -/

/-- Appends what the G2 sends to the log of outputs (log 2). -/
def emit (o : Output) (s : State) : State := { s with out := s.out ++ [o] }

/-- Takes the next free value number (log 3). -/
def useFree (s : State) : Nat × State := (s.free, { s with free := s.free + 1 })

/-! ## Codes -/

/-- Device state codes, Table 10-8b (R265). -/
def DevState.code : DevState → Nat
  | .booting => 1 | .standby => 2 | .ready => 3 | .loaded => 4 | .running => 5 | .paused => 6 | .faulted => 7
  | .haltedThermal => 8

/-- Graph state codes, Table 10-8a (R264). -/
def GraphState.code : GraphState → Nat
  | .loaded => 1 | .placed => 2 | .running => 3 | .paused => 4 | .stale => 5

/-- Status codes, Table 10-5 (R257). -/
def Status.code : Status → Nat
  | .ok => 0 | .partialDone => 1 | .wrongState => 2 | .badArgument => 3 | .noFit => 4 | .aborted => 5 | .busy => 6
  | .full => 7 | .denied => 8 | .unitFenced => 9 | .timeout => 10 | .integrity => 11 | .notSupported => 12
  | .stillActive => 13 | .duplicate => 14 | .keyExhausted => 15

/-- Class codes, Table 17-2 (R450). -/
def classCode : FClass → Nat
  | .c => 0 | .d => 1 | .u => 2 | .x => 3

/-- The class a code names. -/
def classOfCode (n : Nat) : FClass :=
  if n % 4 = 0 then .c else if n % 4 = 1 then .d else if n % 4 = 2 then .u else .x

/-- Operating point codes, Table 20-15. -/
def Point.code : Point → Nat
  | .low => 0 | .nom => 1 | .high => 2

/-- The point a code names; 3 is taken as HIGH's successor does not exist, so callers refuse it first. -/
def Point.ofCode (n : Nat) : Point := if n = 0 then .low else if n = 1 then .nom else .high

/-- Flank number: North 0, South 1 (R14). -/
def flankNum : Flank → Nat
  | .north => 0 | .south => 1

/-- The flank of a number. -/
def flankOfNum (n : Nat) : Flank := if n % 2 = 0 then .north else .south

/-- The flank of a physical cluster index (R41). -/
def flankOf (p : Nat) : Flank := if p < 330 then .north else .south

/-- Cairn states, Table 20-22. -/
def CairnState.code : CairnState → Nat
  | .disarmed => 0 | .armed => 1 | .taking => 2 | .taken => 3

/-- Whether the firmware runs: an image has booted, the Col is not restarting and the device is not halted. -/
def fwRuns (s : State) : Bool :=
  s.boot.running.isSome && !s.boot.colRestart && s.dev.state != .haltedThermal

/-- Graphs loaded, 0–64 (R272). -/
def graphsLoaded (s : State) : Nat := (s.graphs.slot.filter fun e => e.2.state.isSome).length

/-! ## Control ports: the state of a port, frames out -/

/-- One control port. -/
def portSt (p : Port) (s : State) : PortState := match p with
  | .cp0 => s.ports.cp0
  | .cp1 => s.ports.cp1

/-- Replaces one control port. -/
def setPort (p : Port) (x : PortState) (s : State) : State := match p with
  | .cp0 => { s with ports := { s.ports with cp0 := x } }
  | .cp1 => { s with ports := { s.ports with cp1 := x } }

/-- Whether some control port is ACTIVE. -/
def anyActive (s : State) : Bool := s.ports.cp0.phase = .active || s.ports.cp1.phase = .active

/-- The bytes of a frame with FRAME_CRC taken as zero, Table 8-1 (R205). -/
def frameBytes (f : Frame) : List Byte :=
  leBytes 4 f.seq.toNat ++ leBytes 1 f.type.toNat ++ leBytes 1 f.fflags.toNat ++ leBytes 2 f.length.toNat ++
  leBytes 4 f.refSeq.toNat ++ leBytes 2 f.arg.toNat ++ leBytes 2 f.reserved.toNat ++
  leBytes 8 f.address.toNat ++ leBytes 4 f.credit.toNat ++ zeros 4 ++ f.payload

/-- The FRAME_CRC of a frame (R205). -/
def frameCrc (f : Frame) : BitVec 32 := crc32c (frameBytes f)

/-- A frame the G2 sends, before its SEQ, CREDIT_TOTAL and FRAME_CRC are put in. -/
def mkFrame (type : Nat) (secure : Bool) (refSeq : BitVec 32) (arg address : Nat) (payload : List Byte) : Frame :=
  { seq := 0, type := BitVec.ofNat 8 type, fflags := BitVec.ofNat 8 (bit secure),
    length := BitVec.ofNat 16 payload.length, refSeq := refSeq, arg := BitVec.ofNat 16 arg, reserved := 0,
    address := BitVec.ofNat 64 address, credit := 0, crc := 0, payload := payload }

/-- A frame with its SEQ, the G2's CREDIT_TOTAL and its check word. -/
def sealFrame (f : Frame) (seq : BitVec 32) (s : State) : Frame :=
  let g := { f with seq := seq, credit := s.ports.credit }
  { g with crc := frameCrc g }

/-- Cuts bytes into blocks of 32, the last filled up with zeros (R314). -/
def cutBlocks : Nat → List Byte → List (List Byte)
  | 0, _ => []
  | _ + 1, [] => []
  | k + 1, bs => padTo 32 bs :: cutBlocks k (bs.drop 32)

/-- The blocks of a frame on a port's lane: START, data blocks with the bytes of Table 8-1, END (R319, log 111). -/
def frameBlocks (f : Frame) : List (Bool × List Byte) :=
  let bytes := (frameBytes f).take 28 ++ leBytes 4 f.crc.toNat ++ f.payload
  [(true, padTo 32 [0x02])] ++ (cutBlocks bytes.length bytes).map (fun b => (false, b)) ++ [(true, padTo 32 [0x03])]

/-- The blocks of a frame join the stream of a port's lane while the port is ACTIVE. -/
def onPort (f : Frame) (x : PortState) : PortState :=
  if x.phase = .active then { x with stream := x.stream ++ frameBlocks f } else x

/-- Puts a frame on every ACTIVE port with identical bytes (R215); with none ACTIVE it is lost (R222). -/
def outFrame (f : Frame) (s : State) : State :=
  if anyActive s then
    emit (.frame f) { s with ports := { s.ports with cp0 := onPort f s.ports.cp0, cp1 := onPort f s.ports.cp1 } }
  else s

/-- The CREDIT_TOTAL that a frame sent now leaves as carried: with no port ACTIVE nothing carries it (R214). -/
def carried (s : State) : BitVec 32 := if anyActive s then s.ports.credit else s.ports.creditSent

/-- Sends a frame with the next SEQ of the G2 (R211, R215); CREDIT_TOTAL goes with it (R214). -/
def sendFrame (f : Frame) (s : State) : State :=
  let g := sealFrame f s.ports.devSeq s
  outFrame g { s with ports := { s.ports with devSeq := s.ports.devSeq + 1, creditSent := carried s } }

/-- Sends a CREDIT frame, whose SEQ is the last SEQ sent (R205, R214). -/
def sendCredit (s : State) : State :=
  let g := sealFrame (mkFrame 8 false 0 0 0 []) (s.ports.devSeq - 1) s
  outFrame g { s with ports := { s.ports with creditSent := carried s } }

/-- Adds one to a saturating 16-bit count held by index. -/
def bump16 (t : Tab Nat) (i : Nat) : Tab Nat := tmod 0 t i (satInc 16)

/-! ## Doorbells (R233) and EVENT frames (R209) -/

/-- Host doorbell bits that only secure frames see: 12–23 and 30 (R234). -/
def secureBits : BitVec 32 := 0x40FFF000

/-- Sends an EVENT frame of kind DOORBELL that reports newly set bits (R209). -/
def sendDoorbellEvent (newly : BitVec 32) (s : State) : State :=
  let all := s.db.hostStatus
  let secure := ((newly ||| all) &&& secureBits) != 0
  sendFrame (mkFrame 6 secure 0 0 0
    (leBytes 4 newly.toNat ++ leBytes 4 all.toNat ++ leBytes 8 s.clock.now ++ zeros 16)) s

/-- Sends an EVENT frame of kind GAP that names the missing SEQ (R209, R213). -/
def sendGapEvent (missing : BitVec 32) (s : State) : State :=
  let all := s.db.hostStatus
  let secure := (all &&& secureBits) != 0
  sendFrame (mkFrame 6 secure 0 0 0
    (zeros 4 ++ leBytes 4 all.toNat ++ leBytes 8 s.clock.now ++ leBytes 1 1 ++ zeros 3 ++
      leBytes 4 missing.toNat ++ zeros 8)) s

/-- Sets host doorbell bits; newly set unmasked bits are reported by an EVENT frame (R233, R209). -/
def ringHost (bits : BitVec 32) (s : State) : State :=
  let newly := bits &&& ~~~ s.db.hostStatus
  let s1 := { s with db := { s.db with hostStatus := s.db.hostStatus ||| bits } }
  if newly &&& ~~~ s.db.hostMask = 0 then s1 else sendDoorbellEvent (newly &&& ~~~ s.db.hostMask) s1

/-- Sets one host doorbell bit. -/
def ringBit (i : Nat) (s : State) : State := ringHost (1 <<< i) s

/-- Sets firmware doorbell bits (R233). -/
def ringFw (bits : BitVec 32) (s : State) : State :=
  { s with db := { s.db with fwStatus := s.db.fwStatus ||| bits } }

/-! ## SYNC record, completion entries and notices -/

/-- The two changes of SYN_GEN around a change of the SYNC record (R277). -/
def touchSync (s : State) : State := { s with cmds := { s.cmds with gen := s.cmds.gen + 2 } }

/-- The ring of a queue. -/
def ringOf (q : Queue) (s : State) : CmdRing := match q with
  | .normal => s.cmds.nq
  | .urgent => s.cmds.uq

/-- Replaces the ring of a queue. -/
def setRing (q : Queue) (r : CmdRing) (s : State) : State := match q with
  | .normal => { s with cmds := { s.cmds with nq := r } }
  | .urgent => { s with cmds := { s.cmds with uq := r } }

/-- COMPLETED of a queue: the highest h such that every accepted command at or below h has completed (R276). -/
def CmdRing.completed (r : CmdRing) : BitVec 32 :=
  match r.begun ++ r.waiting with
  | [] => r.accepted
  | a :: t => (t.foldl (fun m b => if above m b.desc.hseq then b.desc.hseq else m) a.desc.hseq) - 1

/-- Queue number: 0 normal, 1 urgent (R249). -/
def queueNum : Queue → Nat
  | .normal => 0 | .urgent => 1

/-- DEV_STATE of an entry: state code and DEGRADED (R254). -/
def devByte (s : State) : BitVec 8 := BitVec.ofNat 8 (s.dev.state.code + 16 * bit s.dev.degraded)

/-- What a command's completion carries (R254). -/
structure Res where
  st : Status := .ok
  warn : BitVec 32 := 0
  detail : BitVec 32 := 0
  written : BitVec 32 := 0
  detail2 : BitVec 64 := 0
  graph : Nat := 0
  deriving DecidableEq, Repr

/-- Appends an entry to those the firmware holds, with the next DSEQ (R255). -/
def pushEntry (e : Entry) (s : State) : State :=
  let d := s.cmds.made + 1
  { s with cmds := { s.cmds with made := d, held := s.cmds.held ++ [{ e with dseq := d }] } }

/-- SPILL_HOST_SLOW where a command's target is a graph with data in the host window: every completion of the graph carries it
(R170, R174). -/
def graphWarn (d : Descriptor) (s : State) : BitVec 32 :=
  let g := tget {} s.graphs.slot (d.target.toNat % 64)
  if d.opcode.toNat / 256 = 3 && d.target != 0xFFFFFFFF && g.state.isSome && g.gen = d.target.toNat / 64 && 0 < g.hostSpill
  then 0x40 else 0

/-- The completion entry of a command (R254). -/
def completionOf (a : Accepted) (r : Res) (s : State) : Entry :=
  { hseq := a.desc.hseq, dseq := 0, notice := false, status := r.st,
    source := BitVec.ofNat 8 (queueNum a.desc.queue + 2 * bit a.desc.secure), devState := devByte s,
    code := a.desc.opcode, graphState := BitVec.ofNat 8 r.graph, tAccept := a.tAccept, tDone := s.clock.now,
    warnings := r.warn ||| graphWarn a.desc s, detail := r.detail, resultWritten := r.written, detail2 := r.detail2,
    fwEpoch := s.cmds.fwEpoch.setWidth 32, silent := a.desc.silent }

/-- The first of a list of commands that is not the given one is kept; the given one goes once. -/
def dropCmd (a : Accepted) (l : List Accepted) : List Accepted := l.erase a

/-- Ends an accepted command with one completion (R254); COMPLETED follows (R276). -/
def finish (a : Accepted) (r : Res) (s : State) : State :=
  let ring := ringOf a.desc.queue s
  let ring' := { ring with begun := dropCmd a ring.begun, waiting := dropCmd a ring.waiting }
  let s1 := pushEntry (completionOf a r s) (setRing a.desc.queue ring' s)
  if ring'.completed = ring.completed then s1 else touchSync s1

/-- The host doorbell bit of a notice code, Table 10-11. -/
def noticeBit (code : Nat) : Nat :=
  if code = 1 ∨ code = 2 then 24 else if code = 3 then 25 else if code = 6 then 26 else if code = 8 then 28 else 31

/-- Posts a notice without its doorbell bit (R273). -/
def noticeEntry (code : Nat) (detail : BitVec 32) (detail2 : BitVec 64) (s : State) : State :=
  pushEntry
    { hseq := 0, dseq := 0, notice := true, status := .ok, source := 0, devState := devByte s,
      code := BitVec.ofNat 16 code, graphState := 0, tAccept := s.clock.now, tDone := s.clock.now, warnings := 0,
      detail := detail, resultWritten := 0, detail2 := detail2, fwEpoch := s.cmds.fwEpoch.setWidth 32,
      silent := false } s

/-- Posts a notice and sets its doorbell bit, where the firmware runs (R273, R256). -/
def notice (code : Nat) (detail : BitVec 32) (detail2 : BitVec 64) (s : State) : State :=
  if fwRuns s then ringBit (noticeBit code) (noticeEntry code detail detail2 s) else s

/-- Changes the device state, with its STATE_CHANGE notice (R261, R273). -/
def setDev (d : DevState) (s : State) : State :=
  if s.dev.state = d then s
  else
    let old := s.dev.state.code
    let s1 := touchSync { s with dev := { s.dev with state := d } }
    notice 4 (BitVec.ofNat 32 d.code) (BitVec.ofNat 64 old) s1

/-! ## Fence list (R458) -/

/-- The key of a fenced unit: source id × 16 + core number for cores and banks. -/
def fenceKey (src core : Nat) : Nat := src * 16 + core

/-- Whether a unit is on the fence list. -/
def isFenced (src core : Nat) (s : State) : Bool := s.faults.fenced.contains (fenceKey src core)

/-- Puts a unit on the fence list. -/
def fenceAdd (src core : Nat) (s : State) : State :=
  { s with faults := { s.faults with fenced := setInsert (fenceKey src core) s.faults.fenced } }

/-- Takes a unit off the fence list: it has returned to service. -/
def fenceDrop (src core : Nat) (s : State) : State :=
  { s with faults := { s.faults with fenced := setErase (fenceKey src core) s.faults.fenced } }

/-- Whether a forced class D event makes a unit poison the next data item it delivers (R460). -/
def forcedD (src core : Nat) (s : State) : Bool := s.faults.poisonNext.contains (fenceKey src core)

/-- The poisoned data item has been delivered. -/
def forcedDone (src core : Nat) (s : State) : State :=
  { s with faults := { s.faults with poisonNext := setErase (fenceKey src core) s.faults.poisonNext } }

/-- Units of a type on the fence list. -/
def fencedOfType (ty : Nat) (s : State) : List Nat := s.faults.fenced.filter fun k => k / 65536 = ty

/-- Whether a physical cluster is in service: not fenced and its flank in service (R80, R39). -/
def flankPhase (f : Flank) (s : State) : FlankPhase := match f with
  | .north => s.dev.north
  | .south => s.dev.south

/-- Replaces the phase of a flank. -/
def setFlank (f : Flank) (x : FlankPhase) (s : State) : State := match f with
  | .north => { s with dev := { s.dev with north := x } }
  | .south => { s with dev := { s.dev with south := x } }

/-! ## Cairn triggers (R469, R472) -/

/-- Whether a trigger code is selected: the command and the register always, the others by CAIRN_ARM. -/
def cairnSelected (code : Nat) (s : State) : Bool :=
  code < 2 || (2 ≤ code && code < 7 && bitOf s.cairn.armed (code - 2))

/-- A take starts: the trigger is recorded and the hold goes out (R471, Table 17-10). -/
def cairnStart (code : Nat) (detail : BitVec 32) (s : State) : State :=
  { s with cairn := { s.cairn with
      state := .taking, trigger := code, seen := 2 ^ code, missed := 0, bytes := 0, tTrigger := s.clock.now,
      tFrozen := none, detail := detail, devState := devByte s, frozen := true, area := true, waits := [] } }

/-- A trigger fires (R472). -/
def cairnFire (code : Nat) (detail : BitVec 32) (s : State) : State :=
  if cairnSelected code s then
    match s.cairn.state with
    | .disarmed => s
    | .armed => cairnStart code detail s
    | .taking =>
      match s.cairn.tFrozen with
      | none => { s with cairn := { s.cairn with seen := s.cairn.seen ||| 2 ^ code } }
      | some _ => { s with cairn := { s.cairn with missed := satInc 32 s.cairn.missed } }
    | .taken => { s with cairn := { s.cairn with missed := satInc 32 s.cairn.missed } }
  else s

/-! ## Source ids (R449, R451) -/

/-- Whether a source id names an existing instance of a unit type (R449, R458). -/
def sourceExists (src : Nat) : Bool :=
  let i := src % 4096
  match src / 4096 with
  | 1 => i < 660 | 2 => i < 660 | 3 => i < 660 | 4 => i < 256 | 5 => i < 8 | 6 => i < 141 | 7 => i < 1152
  | 8 => i < 32 | 9 => i < 8 | 10 => i < 0x124 || (0x200 ≤ i && i < 0x480) | 11 => i < 2 | 12 => i = 0
  | 13 => i < 2 | 14 => i ≤ 10 | _ => false

/-- Whether a source id names the guest or a guest module (R4). -/
def namesGuest (src : Nat) : Bool := src = 0xC000 || (0x6088 ≤ src && src ≤ 0x608B)

/-- The check of a source id that a command or FLT_FORCE names (R458, R4). -/
def sourceCheck (src : Nat) (s : State) : Option Status :=
  if !sourceExists src then some .badArgument
  else if namesGuest src && s.part.guest.isNone then some .notSupported
  else none

/-- Module group of a Verweust module instance, Table 17-3. -/
def moduleGroup (i : Nat) : Nat :=
  if i < 64 then i / 8 else if i < 128 then 8 + (i - 64) / 8 else if i < 132 then 16 else if i < 136 then 17
  else if i < 140 then 18 else 19

/-- The chiplet group of a laser instance, Table 17-3. -/
def laserGroup (i : Nat) : Nat := if i < 0x120 then i / 36 else if i < 0x200 then 12 else 8 + (i - 0x200) / 160

/-- The group key of a source id (R451). -/
def groupKey (src : Nat) : Nat :=
  let i := src % 4096
  match src / 4096 with
  | 4 => 0x4000 + i / 32
  | 6 => 0x6000 + moduleGroup i
  | 7 => 0x7000 + i / 36
  | 10 => 0xA000 + laserGroup i
  | _ => src

/-- Whether a fence of this type is per core (R458). -/
def perCore (src : Nat) : Bool := src / 4096 = 1 || src / 4096 = 3

/-- The core number of the unit a fault names (R84, R117). -/
def coreOf (src : Nat) (syn : BitVec 64) : Nat := if perCore src then syn.toNat % 16 else 0

/-! ## DEGRADED (R462) -/

/-- Conditions of Table 17-7 that stand in the fence list: a core, a P bank, a Verweust module, an optical chiplet,
a laser chiplet, a stack, a flank or the port chiplet. -/
def fenceDegrades (s : State) : Bool :=
  s.faults.fenced.any fun k =>
    let src := k / 16
    src / 4096 = 1 || src / 4096 = 3 || (src / 4096 = 6 && !namesGuest src) || src / 4096 = 9 ||
      src / 4096 = 5 || src / 4096 = 11 || src = 0xE001

/-- Group of a link, Table 13-1 (R341). -/
def linkGroup (n : Nat) : Nat := if n < 30 then n % 10 else n - 20

/-- Flank of a link: F0–F15 North, F16–F31 South. -/
def linkFlank (n : Nat) : Flank := if n < 16 then .north else .south

/-- A link end. -/
def linkGet (n : Nat) (s : State) : LinkSt := tget {} s.links n

/-- Replaces a link end. -/
def linkSet (n : Nat) (x : LinkSt) (s : State) : State := { s with links := tset {} s.links n x }

/-- A channel side. -/
def chanSide (i : Nat) (s : State) : Chan := tget {} s.chans i

/-- Replaces a channel side. -/
def setChan (i : Nat) (c : Chan) (s : State) : State := { s with chans := tset {} s.chans i c }

/-- A Verweust module. -/
def modGet (m : Nat) (s : State) : Module := tget {} s.d2d.modu m

/-- Replaces a Verweust module. -/
def modSet (m : Nat) (x : Module) (s : State) : State :=
  { s with d2d := { s.d2d with modu := tset {} s.d2d.modu m x } }

/-- Extent of a dimension (R340). -/
def extentOf (k : Nat) (s : State) : Nat := s.fab.extent.getD k 1

/-- Whether the fabric configuration gives a link a use: a torus link of a dimension with extent above 1, or a spur
link that the spur table names for this package (R340, R358). -/
def linkNamed (n : Nat) (s : State) : Bool :=
  s.fab.configured &&
    (if n < 30 then 1 < extentOf (n % 10 / 2) s else s.fab.spurs.any fun e => e.2.1 = s.fab.id && e.2.2 = n - 30)

/-- Whether a link is configured (R358). -/
def linkConfigured (n : Nat) (s : State) : Bool := linkNamed n s && !(linkGet n s).disabled

/-- Whether a link is in its group: both directions ACTIVE (R355). -/
def linkUp (n : Nat) (s : State) : Bool := (linkGet n s).txActive && (linkGet n s).rxActive

/-- Links that are configured and down, or that run below width 16 (R288, R358). -/
def linksDegrade (s : State) : Bool :=
  (List.range 32).any fun n => linkConfigured n s && (!linkUp n s || (linkGet n s).width != some 16)

/-- Modules at half width or out of service, the guest's aside (R392, R397). -/
def modulesDegrade (s : State) : Bool :=
  s.d2d.modu.any fun e => !(136 ≤ e.1 && e.1 < 140) &&
    (e.2.rx.half || e.2.tx.half || e.2.state = .out || e.2.state = .clockLost)

/-- The conditions of Table 17-7. -/
def unitsDegrade (s : State) : Bool :=
  fenceDegrades s || s.banks.dark.any (fun e => e.2 != []) || s.comp.unbound != [] || s.mem.failed != [] ||
    (s.mem.trained && s.mem.inService.length != 8) || s.banks.chipFenced != [] || s.therm.zoneOff != [] ||
    s.therm.partsFenced != [] || s.dev.north != .inService || s.dev.south != .inService || linksDegrade s ||
    modulesDegrade s

/-- Sets or clears DEGRADED by Table 17-7 and posts DEGRADED_CHANGE at a change (R462). -/
def refreshDegraded (s : State) : State :=
  let now := unitsDegrade s
  if now = s.dev.degraded then s
  else
    let s1 := touchSync { s with dev := { s.dev with degraded := now } }
    notice 5 (BitVec.ofNat 32 (bit now)) (BitVec.ofNat 64 s.faults.fenced.length) s1

/-! ## The fault collector (R451–R455) -/

/-- The open record of a group key, searched over all 256 indices. -/
def recordOf (key : Nat) (s : State) : Option (Nat × FaultRec) :=
  (s.faults.records.find? fun e => match e.2 with
    | some r => r.group.toNat = key
    | none => false).bind fun e => e.2.map fun r => (e.1, r)

/-- The open record at an index. -/
def recordAt (i : Nat) (s : State) : Option FaultRec := tget none s.faults.records i

/-- Where an event goes: the open record of its group, else the lowest free index of 0–254, else the overflow
record 255 (R452). -/
def recordFor (key : Nat) (s : State) : Nat × Nat × Option FaultRec :=
  match recordOf key s with
  | some (i, r) => (i, key, some r)
  | none =>
    match firstIdx (fun i => (recordAt i s).isNone) 255 with
    | some i => (i, key, none)
    | none => (255, 0xFFFF, recordAt 255 s)

/-- Flags of a history entry, Table 17-5. -/
def histFlags (e : FaultInput) (merged escalated : Bool) : BitVec 8 :=
  BitVec.ofNat 8 ((classCode e.cls) + 4 * bit (merged && !escalated) + 8 * bit escalated + 16 * bit e.forced +
    32 * bit e.resumed.isSome)

/-- The record after an event that merges into it or opens it (R452). -/
def recordAfter (e : FaultInput) (group : Nat) (old : Option FaultRec) (flags : BitVec 8) (now : Nat) : FaultRec :=
  match old with
  | none =>
    { group := BitVec.ofNat 16 group, cls := e.cls, escalated := false, forced := e.forced, holdsFirst := false,
      count := 1, sourceFirst := e.source, sourceLast := e.source, pauseUs := e.resumed.getD 0, tFirst := now,
      tLast := now, synFirst := e.syndrome, synLast := e.syndrome, lastFlags := flags }
  | some r =>
    { r with
      cls := if (classCode r.cls) < (classCode e.cls) then e.cls else r.cls
      escalated := r.escalated || decide ((classCode r.cls) < (classCode e.cls))
      forced := r.forced || e.forced
      count := satInc 32 r.count
      sourceLast := e.source
      pauseUs := e.resumed.getD 0
      tLast := now
      synLast := e.syndrome
      lastFlags := flags }

/-- Whether an event escalates the record it merges into. -/
def escalates (e : FaultInput) (old : Option FaultRec) : Bool := match old with
  | none => false
  | some r => (classCode r.cls) < (classCode e.cls)

/-- Enters an event into the records, FIRST, the history and the counts (R452–R454, R509). -/
def collect (e : FaultInput) (s : State) : State :=
  let (i, group, old) := recordFor (groupKey e.source.toNat) s
  let esc := escalates e old
  let flags := histFlags e old.isSome esc
  let r := recordAfter e group old flags s.clock.now
  let h : HistEntry := ⟨e.source, flags, i, e.resumed.getD 0, s.clock.now, e.syndrome, r.count⟩
  let first := s.faults.first.isNone
  let f := s.faults
  { s with faults := { f with
      records := tset none f.records i (some { r with holdsFirst := r.holdsFirst || first })
      first := if first then some h else f.first
      hist := tset {} f.hist (f.entered % 16) h
      lost := if f.entered < 16 then f.lost else satInc 16 f.lost
      entered := f.entered + 1
      classes := tmod 0 f.classes (classCode e.cls) (satInc 32) } }

/-- Whether an event opens or escalates a record (R455). -/
def reports (e : FaultInput) (s : State) : Bool :=
  let (_, _, old) := recordFor (groupKey e.source.toNat) s
  old.isNone || escalates e old

/-- The FAULT notice and host doorbell bit 25 of an event (R455): the bit even where no notice can be posted. -/
def faultNotice (e : FaultInput) (i : Nat) (first : Bool) (s : State) : State :=
  let s1 := ringBit 25 s
  if fwRuns s && s.dev.state != .faulted then
    noticeEntry 3 (BitVec.ofNat 32 (e.source.toNat + (classCode e.cls) * 65536))
      (BitVec.ofNat 64 (i + 256 * bit first)) s1
  else s1

/-- The events of class U that fire FAULT_U and of class X that fire FAULT_X (Table 17-9). -/
def faultTriggers (e : FaultInput) (rep : Bool) (s : State) : State :=
  match e.cls with
  | .u => if rep then cairnFire 3 (e.source.setWidth 32) s else s
  | .x => cairnFire 4 (e.source.setWidth 32) s
  | _ => s

/-! ## FAULTED (R263) -/

/-- A graph whose executions have ended without a completion of their own: it returns to PLACED. -/
def dropExecutions (g : Graph) : Graph :=
  { g with
    state := g.state.map fun st => match st with
      | .running => .placed
      | .paused => .placed
      | x => x
    running := none, pending := [], ending := [] }

/-- Ends every execution and every command in progress with ABORTED and enters FAULTED (R263). -/
def enterFaulted (s : State) : State :=
  if s.dev.state = .faulted ∨ s.dev.state = .haltedThermal then s
  else if s.cairn.state = .taking then { s with cairn := { s.cairn with xDue := true } }
  else
    let cmds := s.cmds.nq.begun ++ s.cmds.uq.begun
    let s1 := { s with
      graphs := { s.graphs with slot := s.graphs.slot.map fun e => (e.1, dropExecutions e.2), allCmd := [], fits := [] }
      cairn := { s.cairn with waiting := [] }
      dev := { s.dev with resetWait := [], colWait := none, waking := none }
      boot := { s.boot with update := none } }
    let s2 := if fwRuns s then cmds.foldl (fun t a => finish a { st := .aborted } t) s1 else s1
    setDev .faulted s2

/-! ## Reporting a fault -/

/-- A source reports an event: records, notice, Cairn triggers; class U fences the unit; class X ends in FAULTED
(R450–R455). What else the fencing of a unit brings is the work of the unit's own operation. -/
def report (e : FaultInput) (s : State) : State :=
  let rep := reports e s
  let (i, _, _) := recordFor (groupKey e.source.toNat) s
  let first := s.faults.first.isNone
  let s1 := collect e s
  let s2 := if rep then faultNotice e i first s1 else s1
  let s3 := faultTriggers e rep s2
  match e.cls with
  | .c => s3
  | .d => s3
  | .u => refreshDegraded (fenceAdd e.source.toNat (coreOf e.source.toNat e.syndrome) s3)
  | .x => enterFaulted s3

/-- An event of a class with a syndrome, not forced and not RESUMED. -/
def evt (src : Nat) (cls : FClass) (syn : Nat) : FaultInput :=
  ⟨BitVec.ofNat 16 src, cls, BitVec.ofNat 64 syn, none, false⟩

/-- A class C event. -/
def faultC (src syn : Nat) (s : State) : State := report (evt src .c syn) s

/-- A class D event. -/
def faultD (src syn : Nat) (s : State) : State := report (evt src .d syn) s

/-- A class U event: its unit is fenced. -/
def faultU (src syn : Nat) (s : State) : State := report (evt src .u syn) s

/-- A class U event whose unit stays in service (a module at half width, R392). -/
def faultUKept (src syn : Nat) (s : State) : State :=
  let e := evt src .u syn
  let rep := reports e s
  let (i, _, _) := recordFor (groupKey src) s
  let first := s.faults.first.isNone
  let s1 := collect e s
  let s2 := if rep then faultNotice e i first s1 else s1
  refreshDegraded (faultTriggers e rep s2)

/-- A class X event: the device enters FAULTED. -/
def faultX (src syn : Nat) (s : State) : State := report (evt src .x syn) s

/-- A class C event whose syndrome the spec does not give: a free value (log 3). -/
def faultCOpen (src : Nat) (s : State) : State :=
  let (n, s1) := useFree s
  faultC src (Config.free64 n).toNat s1

/-- A class D event whose syndrome the spec does not give: a free value (log 3). -/
def faultDOpen (src : Nat) (s : State) : State :=
  let (n, s1) := useFree s
  faultD src (Config.free64 n).toNat s1

/-- A class U event whose syndrome the spec does not give: a free value (log 3). -/
def faultUOpen (src : Nat) (s : State) : State :=
  let (n, s1) := useFree s
  faultU src (Config.free64 n).toNat s1

/-- A class X event whose syndrome the spec does not give: a free value (log 3). -/
def faultXOpen (src : Nat) (s : State) : State :=
  let (n, s1) := useFree s
  faultX src (Config.free64 n).toNat s1

/-- A security event: class C against 0xE003 with its reason, and host doorbell bit 30 (R489). -/
def securityEvent (reason : Nat) (s : State) : State := ringBit 30 (faultC 0xE003 reason s)

/-! ## Event counters (R463, R464) -/

/-- Whether the counters of a kind on a flank are enabled: kinds 0 clusters, 1 cores, 2 links, 3 stacks. -/
def counting (kind : Nat) (f : Flank) (s : State) : Bool := s.counts.enabled.contains (kind * 2 + flankNum f)

/-- A 48-bit count plus n (R464). -/
def add48 (t : Tab Nat) (k n : Nat) : Tab Nat := tmod 0 t k fun v => (v + n) % 2 ^ 48

/-- Counts n events of cluster counter i (Table 3-8), while enabled and not frozen. -/
def countCluster (p i n : Nat) (s : State) : State :=
  if counting 0 (flankOf p) s && !s.cairn.frozen then
    { s with counts := { s.counts with clusters := add48 s.counts.clusters (p * 16 + i) n } }
  else s

/-- Counts n events of core counter i (Table 3-9), while enabled and not frozen. -/
def countCore (p c i n : Nat) (s : State) : State :=
  if counting 1 (flankOf p) s && !s.cairn.frozen then
    { s with counts := { s.counts with cores := add48 s.counts.cores ((p * 16 + c) * 8 + i) n } }
  else s

/-- Counts n events of link counter i (Table 13-8), while enabled. -/
def countLink (l i n : Nat) (s : State) : State :=
  if counting 2 (if l < 16 then .north else .south) s then
    { s with counts := { s.counts with links := add48 s.counts.links (l * 12 + i) n } }
  else s

/-- Counts n events of stack counter i (Table 7-10), while enabled. -/
def countStack (k i n : Nat) (s : State) : State :=
  if counting 3 (if k < 4 then .north else .south) s then
    { s with counts := { s.counts with stackCtrs := add48 s.counts.stackCtrs (k * 8 + i) n } }
  else s

/-- A promotion to urgent in the package totals of TH_URGENT_COUNT (R432). -/
def promote (i : Nat) (s : State) : State :=
  { s with therm := { s.therm with urgent := tmod 0 s.therm.urgent i (satInc 12) } }

/-! ## Directions of a Verweust module -/

/-- One direction of a module. -/
def Module.dir (x : Module) (d : Nat) : D2dDir := if d = 0 then x.rx else x.tx

/-- Replaces one direction. -/
def Module.setDir (x : Module) (d : Nat) (y : D2dDir) : Module := if d = 0 then { x with rx := y } else { x with tx := y }

/-- A direction of a module. -/
def dirGet (m d : Nat) (s : State) : D2dDir := (modGet m s).dir d

/-- Replaces a direction of a module. -/
def putDir (m d : Nat) (y : D2dDir) (s : State) : State := modSet m ((modGet m s).setDir d y) s

/-! ## Sideband words (R386) -/

/-- One bit of the CRC-8 x^8 + x^2 + x + 1. -/
def crc8Bit (c : Nat) (b : Bool) : Nat :=
  let x := c * 2 % 256
  if (decide (128 ≤ c)) != b then x ^^^ 0x07 else x

/-- The CRC-8 over the low n bits of a word, bit 0 first (R383, log 28). -/
def crc8 (n w : Nat) : Nat := ((List.range n).map (bitOf w)).foldl crc8Bit 0

/-- A sideband message with its SEQ and check. -/
def sbWord (type index data seq : Nat) : BitVec 64 :=
  let w := packFields [(0, 8, type), (8, 8, index), (16, 32, data), (48, 8, seq)]
  BitVec.ofNat 64 (w + crc8 56 w * 2 ^ 56)

/-- Sends a sideband message, kept until its SB_ACK; an SB_ACK itself is not kept. -/
def sbSend (m type index data : Nat) (s : State) : State :=
  let x := modGet m s
  let w := sbWord type index data x.sbSeq.toNat
  let wait := if type = 0 then x.sbWait else x.sbWait ++ [⟨w, x.sbSeq, s.clock.now, 1⟩]
  emit (.sideband m w) (modSet m { x with sbSeq := x.sbSeq + 1, sbWait := wait } s)

end Sys2Proof.Machine
end

