-- ==== Sys2Proof/Machine/Signals.lean ====
section
/-!
DEFINITION. Mailboxes, doorbells and locks (chapter 9): the small signalling hardware of the Col.
-/

namespace Sys2Proof.Machine

/-! ## Channels (R223–R231) -/

/-- Whether a channel exists: host channels 0–23 and guest channels G0–G3 of a part with a guest (R223, R4). -/
def chanExists (ch : MbxChan) (s : State) : Bool := match ch with
  | .host n => n < 24
  | .guest g => g < 4 && s.part.guest.isSome

/-- A channel. -/
def chanGet (ch : MbxChan) (s : State) : Channel := match ch with
  | .host n => tget {} s.mbx.host n
  | .guest g => tget {} s.mbx.guest g

/-- Replaces a channel. -/
def chanSet (ch : MbxChan) (c : Channel) (s : State) : State := match ch with
  | .host n => { s with mbx := { s.mbx with host := tset {} s.mbx.host n c } }
  | .guest g => { s with mbx := { s.mbx with guest := tset {} s.mbx.guest g c } }

/-- Whether the other party of the channel is in reset, so that mailboxes inbound to it read FULL (R236). -/
def partyInReset (ch : MbxChan) (s : State) : Bool := match ch with
  | .host _ => false
  | .guest _ => s.mbx.guestReset

/-- OUT_FULL of the party's status word: while the firmware resets, every mailbox inbound to it reads 1 (R236). -/
def partyOutFull (ch : MbxChan) (s : State) : Bool := (chanGet ch s).outFull || s.mbx.fwReset

/-- OUT_FULL of the firmware's mirror. -/
def fwOutFull (ch : MbxChan) (s : State) : Bool := (chanGet ch s).innFull || partyInReset ch s

/-- CROSS in the status words of both sides, when both mailboxes are FULL (R230). -/
def markCross (c : Channel) : Channel :=
  if c.outFull && c.innFull then
    { c with party := { c.party with cross := true }, fw := { c.fw with cross := true } }
  else c

/-- The channel after the party has stored a word in its empty outbound mailbox (R225, R230). -/
def storeOut (w : BitVec 64) (c : Channel) : Channel :=
  markCross { c with outWord := w, outFull := true, party := { c.party with posts := c.party.posts + 1 } }

/-- The channel after the firmware has stored a word in its empty mailbox towards the party (R225, R230). -/
def storeInn (w : BitVec 64) (c : Channel) : Channel :=
  markCross { c with innWord := w, innFull := true, fw := { c.fw with posts := c.fw.posts + 1 } }

/-- A post by the host or guest: stored, or refused with FULL (R225). -/
def partyPost (ch : MbxChan) (w : BitVec 64) (s : State) : Status × State :=
  if partyOutFull ch s then (.full, s) else (.ok, chanSet ch (storeOut w (chanGet ch s)) s)

/-- Rings a doorbell bit of the guest, G0–G3 or 4 ABORT: where a guest is fitted and its group is up, the Col tells it with a
DOORBELL message, on the group's first module (R228, R236, Table 14-3, log 118). -/
def ringGuest (b : Nat) (s : State) : State :=
  let s1 := { s with db := { s.db with guest := s.db.guest ||| (1 <<< b) } }
  if s.part.guest.isSome && (modGet 136 s).state = .active then sbSend 136 0x04 0 (2 ^ b) s1 else s1

/-- The doorbell towards the party of a channel: host bit n, or the guest's channel bit (R233). -/
def ringParty (ch : MbxChan) (s : State) : State := match ch with
  | .host n => ringBit n s
  | .guest g => ringGuest g s

/-- A post by the firmware: stored with its doorbell bit, or refused with FULL (R225, R233). -/
def fwPost (ch : MbxChan) (w : BitVec 64) (s : State) : Status × State :=
  if fwOutFull ch s then (.full, s) else (.ok, ringParty ch (chanSet ch (storeInn w (chanGet ch s)) s))

/-- The party drains its inbound mailbox: FULL clears at both ends, ACKED at the firmware (R226). -/
def partyDrain (ch : MbxChan) (s : State) : State :=
  let c := chanGet ch s
  if c.innFull then
    chanSet ch { c with innFull := false, fw := { c.fw with acked := true },
                        party := { c.party with drains := c.party.drains + 1 } } s
  else s

/-- The firmware drains a mailbox: FULL clears, ACKED at the party, and for a host mailbox doorbell bit n (R226). -/
def fwDrain (ch : MbxChan) (s : State) : State :=
  let c := chanGet ch s
  if c.outFull then
    let s1 := chanSet ch { c with outFull := false, party := { c.party with acked := true },
                                  fw := { c.fw with drains := c.fw.drains + 1 } } s
    match ch with
    | .host n => ringBit n s1
    | .guest _ => s1
  else s

/-- A status word, Table 9-2 (R229). -/
def statusWord (outFull innFull : Bool) (x : MbxSide) (secure : Bool) : BitVec 64 :=
  BitVec.ofNat 64 (packFields [(0, 1, bit outFull), (1, 1, bit innFull), (2, 1, bit x.cross), (3, 1, bit x.acked),
    (4, 1, bit x.aborted), (5, 1, bit secure), (8, 8, x.posts.toNat), (16, 8, x.drains.toNat)])

/-- Whether a channel is secure: 12–23 (R223). -/
def chanSecure (ch : MbxChan) : Bool := match ch with
  | .host n => 12 ≤ n && n < 24
  | .guest _ => false

/-- MB_STATUSn or MB_GSTATUSg as its party reads it. -/
def partyStatus (ch : MbxChan) (s : State) : BitVec 64 :=
  statusWord (partyOutFull ch s) (chanGet ch s).innFull (chanGet ch s).party (chanSecure ch)

/-- The W1C bits of a side's status word that are not the drain. -/
def clearSide (v : BitVec 64) (x : MbxSide) : MbxSide :=
  { x with cross := x.cross && !v.getLsbD 2, acked := x.acked && !v.getLsbD 3, aborted := x.aborted && !v.getLsbD 4 }

/-- A write to the firmware's mirror of a status word (R226, R229). -/
def fwStatusWrite (ch : MbxChan) (v : BitVec 64) (s : State) : State :=
  let s1 := if v.getLsbD 1 then fwDrain ch s else s
  let c := chanGet ch s1
  chanSet ch { c with fw := clearSide v c.fw } s1

/-- A write to MB_STATUSn or MB_GSTATUSg by its party (R226, Table 9-2). -/
def partyStatusWrite (ch : MbxChan) (v : BitVec 64) (s : State) : State :=
  let s1 := if v.getLsbD 1 then partyDrain ch s else s
  let c := chanGet ch s1
  chanSet ch { c with party := clearSide v c.party } s1

/-- Whether a master is a control port, to which the secure rules apply (R12). -/
def isPort : Master → Bool
  | .cp0 => true
  | .cp1 => true
  | _ => false

/-- The fault source of the port a master stands for: 0xD000 or 0xD001 (R12). -/
def portSource : Port → Nat
  | .cp0 => 0xD000
  | .cp1 => 0xD001

/-- The port a master stands for. -/
def masterPort : Master → Port
  | .cp1 => .cp1
  | _ => .cp0

/-- The class C fault of a refusal for want of SECURE (R12): address, frame TYPE and channel. -/
def secureFault (p : Port) (addr type chan : Nat) (s : State) : State :=
  faultC (portSource p) (addr % 2 ^ 40 + type * 2 ^ 40 + chan * 2 ^ 48) s

/-- The channels that a master reaches (R223, R224). -/
def masterReaches (m : Master) (ch : MbxChan) : Bool := match m, ch with
  | .firmware, _ => true
  | .cp0, .host _ => true
  | .cp1, .host _ => true
  | .guest, .guest _ => true
  | _, _ => false

/-- Whether the firmware is there to access a mailbox: it runs and no Cairn freeze holds it. -/
def fwReaches (s : State) : Bool := fwRuns s && !s.cairn.frozen

/-- Address of a register of a host channel: 0 outbound data, 1 inbound data, 2 status (Table 20-6). -/
def mbxAddr (ch : MbxChan) (k : Nat) : Nat := match ch with
  | .host n => 0xFF00010000 + 0x20 * n + 8 * k
  | .guest g => 0xFF00010400 + 0x20 * g + 8 * k

/-- An access of a master to a register of a channel is turned away: DENIED, and for a frame without SECURE at a secure
channel the fault of R12 (R223, R224). -/
def mbxRefuse (m : Master) (ch : MbxChan) (k : Nat) (s : State) : State :=
  emit (.reply .denied 0)
    (if chanSecure ch && isPort m then secureFault (masterPort m) (mbxAddr ch k) 2 0 s else s)

/-- Whether a master may access a channel (R223, R224). -/
def mbxOpen (m : Master) (ch : MbxChan) (secure : Bool) (s : State) : Bool :=
  chanExists ch s && masterReaches m ch && (secure || !chanSecure ch || !isPort m)

/-- MAILBOX_WRITE: a write to an outbound data register by a master that reaches the channel; any other master, and a
frame without SECURE at channels 12–23, is refused with DENIED (R12, R224, R225). -/
def execMailboxWrite (m : MbxAccess) (ch : MbxChan) (w : BitVec 64) (s : State) : Step :=
  if m.master = .firmware ∧ fwReaches s = false then .next s
  else if !mbxOpen m.master ch m.secure s then .next (mbxRefuse m.master ch 0 s)
  else
    let r := if m.master = .firmware then fwPost ch w s else partyPost ch w s
    .next (emit (.reply r.1 0) r.2)

/-- MAILBOX_DRAIN: a receiver writes 1 to IN_FULL of its status word, with other W1C bits of it (R226, R229). -/
def execMailboxDrain (m : MbxDrain) (ch : MbxChan) (s : State) : Step :=
  if m.master = .firmware ∧ fwReaches s = false then .next s
  else if !mbxOpen m.master ch m.secure s then .next (mbxRefuse m.master ch 2 s)
  else .next (if m.master = .firmware then fwStatusWrite ch (m.bits ||| 2) s else partyStatusWrite ch (m.bits ||| 2) s)

/-- FIRMWARE_MAILBOX_POST: the firmware posts a word, or, with none given, the oldest word it holds for the
channel; behind a FULL mailbox it holds up to 16 words in order (R231). -/
def execFirmwareMailboxPost (ch : MbxChan) (w : Option (BitVec 64)) (s : State) : Step :=
  if !chanExists ch s || !fwRuns s || s.cairn.frozen then .next s
  else
    let c := chanGet ch s
    match w, c.queue with
    | none, [] => .next s
    | none, x :: t =>
      if fwOutFull ch s then .next s else .next (fwPost ch x (chanSet ch { c with queue := t } s)).2
    | some x, q =>
      if fwOutFull ch s || q != [] then
        if q.length < 16 then .next (chanSet ch { c with queue := q ++ [x] } s) else .next s
      else .next (fwPost ch x s).2

/-! ## Doorbell registers (R233, R234, R508) -/

/-- Bits of DB_FW_RING that a frame without SECURE cannot ring: 12–23 and 25 (R508). -/
def fwSecureBits : BitVec 64 := 0x2FFF000

/-- A write to DB_FW_RING: a 1 in a reserved bit refuses the whole write (Table 20-10); the secure bits of a frame
without SECURE are left out without a fault (R508). -/
def fwRingWrite (v : BitVec 64) (secure : Bool) (s : State) : Status × State :=
  if v >>> 26 != 0 then (.badArgument, s)
  else
    let bits := if secure then v else v &&& ~~~ fwSecureBits
    (.ok, ringFw (bits.setWidth 32) s)

/-- A write to DB_HOST_STATUS: W1C, secure bits only for secure frames (R234). -/
def hostStatusWrite (v : BitVec 64) (secure : Bool) (s : State) : State :=
  let m := if secure then v.setWidth 32 else v.setWidth 32 &&& ~~~ secureBits
  { s with db := { s.db with hostStatus := s.db.hostStatus &&& ~~~ m } }

/-- A write to DB_HOST_MASK (R233, R234): a bit that becomes unmasked while it is set counts as newly set. -/
def hostMaskWrite (v : BitVec 64) (secure : Bool) (s : State) : State :=
  let m := if secure then v.setWidth 32
           else (v.setWidth 32 &&& ~~~ secureBits) ||| (s.db.hostMask &&& secureBits)
  let newly := s.db.hostStatus &&& s.db.hostMask &&& ~~~ m
  let s1 := { s with db := { s.db with hostMask := m } }
  if newly = 0 then s1 else sendDoorbellEvent newly s1

/-- DB_FW_RING_CHANNEL: a write of 1 to bit n of DB_FW_RING (R233). -/
def execDbFwRingChannel (n : Nat) (a : Access) (s : State) : Step :=
  let r := fwRingWrite (BitVec.ofNat 64 (2 ^ n)) a.secure s
  .next (emit (.reply r.1 0) r.2)

/-- DB_FW_RING_HOST_EPOCH: a write of 1 to bit 25 of DB_FW_RING (R508). -/
def execDbFwRingHostEpoch (a : Access) (s : State) : Step :=
  let r := fwRingWrite (BitVec.ofNat 64 (2 ^ 25)) a.secure s
  .next (emit (.reply r.1 0) r.2)

/-- DB_HOST_MASK_WRITE (R233). -/
def execDbHostMaskWrite (v : BitVec 64) (a : Access) (s : State) : Step :=
  .next (emit (.reply .ok 0) (hostMaskWrite v a.secure s))

/-- DB_GUEST_RING: the guest's write sets firmware doorbell bit 26 (R233); the register is the guest's alone, so on
a part without a guest nothing reaches it. -/
def execDbGuestRing (v : BitVec 64) (s : State) : Step :=
  if s.part.guest.isSome && v.getLsbD 0 then .next (ringFw (1 <<< 26) s) else .next s

/-! ## Resets of a party (R236, R237) -/

/-- Clears the mailbox inbound to the firmware as its reset begins; the flag tells that it held a word. The words that the
firmware held for the channel are lost with it (R231, R494). -/
def clearOut (c : Channel) : Channel := { c with outFull := false, heldAtReset := c.outFull, queue := [] }

/-- Clears the mailbox inbound to the party. -/
def clearInn (c : Channel) : Channel :=
  { c with innFull := false, fw := if c.innFull then { c.fw with aborted := true } else c.fw }

/-- ABORTED at the sender of every mailbox that held a word at the firmware's reset. -/
def abortOut (c : Channel) : Channel :=
  { c with party := if c.heldAtReset then { c.party with aborted := true } else c.party, heldAtReset := false }

/-- Applies a change to every channel of a table, keeping its form. -/
def mapChans (f : Channel → Channel) (t : Tab Channel) : Tab Channel :=
  (t.map fun e => (e.1, f e.2)).filter fun e => e.2 != {}

/-- The firmware's reset begins: host-to-firmware and guest-to-firmware mailboxes are cleared and read FULL at their
senders (R236). -/
def mbxFwResetBegin (s : State) : State :=
  { s with mbx := { s.mbx with
      host := mapChans clearOut s.mbx.host, guest := mapChans clearOut s.mbx.guest, fwReset := true } }

/-- The restarted firmware brings the mailboxes back: ABORTED, host doorbell bit 26 and the guest's abort doorbell
(Table 9-5). -/
def mbxFwResetEnd (s : State) : State :=
  let s1 := { s with
    mbx := { s.mbx with
      host := mapChans abortOut s.mbx.host, guest := mapChans abortOut s.mbx.guest, fwReset := false } }
  ringBit 26 (if s.part.guest.isSome then ringGuest 4 s1 else s1)

/-- The host mailboxes at a host restart: firmware-to-host mailboxes cleared, ABORTED in the firmware's mirror
(Table 9-5). -/
def mbxHostReset (s : State) : State := { s with mbx := { s.mbx with host := mapChans clearInn s.mbx.host } }

/-- The guest's reset or fence begins: firmware-to-guest mailboxes are cleared (Table 9-5). -/
def mbxGuestResetBegin (s : State) : State :=
  { s with mbx := { s.mbx with guest := mapChans clearInn s.mbx.guest, guestReset := true } }

/-- The guest's reset or fence is complete: the firmware is told by its doorbell bit 26 (Table 9-5). -/
def mbxGuestResetEnd (s : State) : State :=
  ringFw (1 <<< 26) { s with mbx := { s.mbx with guestReset := false } }

/-! ## Locks (R238–R243) -/

/-- Master ids, Table 9-6. -/
def masterId : Master → BitVec 8
  | .firmware => 1 | .cp0 => 2 | .cp1 => 3 | .guest => 4 | .north => 5 | .south => 6

/-- The master of a host frame (R238). -/
def portMaster : Port → Master
  | .cp0 => .cp0
  | .cp1 => .cp1

/-- The word a read returns, Table 9-7. -/
def lockWord (owner : BitVec 8) (reader : Master) (released : Bool) : BitVec 64 :=
  BitVec.ofNat 64 (owner.toNat + 256 * (masterId reader).toNat + 65536 * bit released)

/-- A read of LK_LOCKk: acquires a free lock for the reader, or reports the holder (R240, R242). -/
def lockRead (m : Master) (k : Nat) (s : State) : BitVec 64 × State :=
  let l := tget {} s.locks k
  if l.owner = 0 then
    (lockWord 0 m l.releasedByReset, { s with locks := tset {} s.locks k ⟨masterId m, false⟩ })
  else (lockWord l.owner m l.releasedByReset, s)

/-- A read of LK_PEEKk (R240). -/
def lockPeek (m : Master) (k : Nat) (s : State) : BitVec 64 :=
  let l := tget {} s.locks k
  lockWord l.owner m l.releasedByReset

/-- The syndrome of an ignored write (R241). -/
def lockSyndrome (k : Nat) (v : BitVec 64) (owner : BitVec 8) (m : Master) : Nat :=
  k + 256 * (v.toNat % 256) + 65536 * owner.toNat + 16777216 * (masterId m).toNat

/-- A write to LK_LOCKk: the holder's id releases it, any other write is ignored with a class C fault (R241). -/
def lockWrite (m : Master) (k : Nat) (v : BitVec 64) (s : State) : State :=
  let l := tget {} s.locks k
  if l.owner ≠ 0 ∧ v.setWidth 8 = l.owner then { s with locks := tset {} s.locks k {} }
  else faultC 0xE004 (lockSyndrome k v l.owner m) s

/-- A reset of a holder releases every lock it holds with RELEASED_BY_RESET (R242). -/
def releaseLocks (ids : List (BitVec 8)) (s : State) : State :=
  { s with locks := s.locks.map fun e => if ids.contains e.2.owner then (e.1, ⟨0, true⟩) else e }

/-- Address of LK_LOCKk (Table 20-11). -/
def lockAddr (k : Nat) : Nat := 0xFF00030000 + 8 * k

/-- Permission bits of the enabled windows that hold a span whole (Table 14-13). -/
def guestWindows (a n : Nat) (s : State) : List Nat :=
  ((List.range 16).filter fun i =>
    let base := tget 0 s.guest.base i
    let at_ := tget 0 s.guest.attr i
    at_ % 8 != 0 && base ≤ a && a + n ≤ base + (at_ / 4096 + 1) * 4096).map fun i => tget 0 s.guest.attr i % 8

/-- Whether a guest firewall window grants the guest a plain read or write of a lock (R243, Table 14-13). -/
def lockGranted (k : Nat) (write : Bool) (s : State) : Bool :=
  (guestWindows (lockAddr k) 8 s).any fun p => p < 4 && bitOf p (bit write)

/-- Whether an access to LK_LOCKk is turned away: locks 48–63 need SECURE from a port and are not the guest's; the guest
needs a firewall window for the others (R243, R404). -/
def lockDenied (m : Master) (k : Nat) (write secure : Bool) (s : State) : Bool :=
  (48 ≤ k && ((isPort m && !secure) || m = .guest)) || (m = .guest && !lockGranted k write s)

/-- LK_LOCK_READ (R240, R243). -/
def execLkLockRead (m : Master) (k : Nat) (secure : Bool) (s : State) : Step :=
  if 64 ≤ k then .next (emit (.reply .badArgument 0) s)
  else if lockDenied m k false secure s then
    .next (emit (.reply .denied 0) (if isPort m then secureFault (masterPort m) (lockAddr k) 1 0 s else s))
  else
    let r := lockRead m k s
    .next (emit (.lock m k r.1) r.2)

/-- LK_LOCK_WRITE (R241, R243). -/
def execLkLockWrite (m : Master) (k : Nat) (v : BitVec 64) (secure : Bool) (s : State) : Step :=
  if 64 ≤ k then .next (emit (.reply .badArgument 0) s)
  else if lockDenied m k true secure s then
    .next (emit (.reply .denied 0) (if isPort m then secureFault (masterPort m) (lockAddr k) 2 0 s else s))
  else .next (emit (.reply .ok 0) (lockWrite m k v s))

/-! ## Host restart (R237) -/

/-- A write of DB_HOST_EPOCH: a new value sets firmware doorbell bit 25, clears the firmware-to-host mailboxes and
releases the host's locks; the value already held has no effect (R237). It restarts the watchdog (R275). -/
def hostEpochWrite (v : BitVec 64) (s : State) : State :=
  let s0 := { s with cmds := { s.cmds with wdSince := s.clock.now, wdFired := false } }
  if v = s.db.epoch then s0
  else
    let s1 := mbxHostReset { s0 with db := { s0.db with epoch := v } }
    releaseLocks [2, 3] (ringFw (1 <<< 25) s1)

/-- DB_HOST_EPOCH_WRITE: the register is secure (R237, R12). -/
def execDbHostEpochWrite (v : BitVec 64) (a : Access) (s : State) : Step :=
  if a.secure then .next (emit (.reply .ok 0) (hostEpochWrite v s))
  else .next (emit (.reply .denied 0) (secureFault a.port 0xFF00020020 2 0 s))

end Sys2Proof.Machine
end

