-- ==== Sys2Proof/Machine/Mem.lean ====
section
/-!
DEFINITION. The local address map (R175), the interleave (R181, R182, R187), and reads and writes of DRAM, cluster
memory and local stores with their poison (R180, R188, R189).
-/

namespace Sys2Proof.Machine

/-! ## Address map (R175) -/

/-- 96 GiB, the size of one stack. -/
def stackBytes : Nat := 96 * 2 ^ 30

/-- Top of DRAM: 96 GiB for each stack in the interleave (R187). -/
def topOfDram (s : State) : Nat := stackBytes * s.mem.inService.length

/-- Base of the Cairn area: the top of DRAM less 256 MiB (R175). -/
def cairnBase (s : State) : Nat := topOfDram s - 2 ^ 28

/-- Whether a SPILL_HOST loan exists (R176, R221). -/
def hostLoan (s : State) : Bool := s.graphs.slot.any fun e => 0 < e.2.hostSpill

/-- What a local address reaches (Table 7-1). -/
inductive Place where
  | dram (a : Nat)
  | cm (exposed off : Nat)
  | ls (exposed core off : Nat)
  | hwin (off : Nat)
  | reg (a : Nat)
  | unmapped
  deriving DecidableEq, Repr

/-- Decodes a local address (R175, R176). -/
def place (a : Nat) (s : State) : Place :=
  if a < topOfDram s then .dram a
  else if 0xC000000000 ≤ a ∧ a < 0xC0A0000000 then .cm ((a - 0xC000000000) / 2 ^ 22) (a % 2 ^ 22)
  else if 0xC100000000 ≤ a ∧ a < 0xC1A0000000 then
    .ls ((a - 0xC100000000) / 2 ^ 22) (a % 2 ^ 22 / 2 ^ 18) (a % 2 ^ 18)
  else if 0xE000000000 ≤ a ∧ a < 0xF000000000 then (if hostLoan s then .hwin (a - 0xE000000000) else .unmapped)
  else if 0xFF00000000 ≤ a ∧ a < 0xFF000D0000 then .reg a
  else .unmapped

/-- The end of the window an address lies in; 0 where it is unmapped. -/
def placeEnd (a : Nat) (s : State) : Nat := match place a s with
  | .dram _ => topOfDram s
  | .cm _ _ => 0xC0A0000000
  | .ls _ _ _ => 0xC1A0000000
  | .hwin _ => 0xF000000000
  | .reg _ => 0xFF000D0000
  | .unmapped => 0

/-- Whether a span lies in DRAM or in the host window and does not cross the end of its region (R259). -/
def argRegion (a n : Nat) (s : State) : Bool := match place a s with
  | .dram _ => a + n ≤ topOfDram s
  | .hwin _ => a + n ≤ 0xF000000000
  | _ => false

/-! ## The remap table (R81) -/

/-- The physical cluster an exposed id is bound to: the factory assignment unless the remap table says otherwise. -/
def physOf (e : Nat) (s : State) : Nat :=
  let v := tget 0 s.comp.remap e
  if v = 0 then (e / 320) * 330 + e % 320 else v - 1

/-- Exposed cluster that a physical cluster serves, if any. -/
def exposedOf (p : Nat) (s : State) : Option Nat := firstIdx (fun e => physOf e s = p) 640

/-- Whether a physical cluster is out of service: fenced, or its flank not in service. -/
def clusterOut (p : Nat) (s : State) : Bool :=
  isFenced (0x2000 + p) 0 s || flankPhase (flankOf p) s = .lost || flankPhase (flankOf p) s = .fenced

/-- Whether an exposed cluster is fenced: the cluster serving it is out of service, or no spare took it (R14). -/
def exposedFenced (e : Nat) (s : State) : Bool := s.comp.unbound.contains e || clusterOut (physOf e s) s

/-! ## Interleave (R181, R182, R187) -/

/-- XOR of `w`-bit fields of a number, from its lowest bits up. -/
def xorFold (w : Nat) : Nat → Nat → Nat
  | 0, _ => 0
  | k + 1, x => (x % 2 ^ w) ^^^ xorFold w k (x / 2 ^ w)

/-- Stacks of a flank in the interleave, ascending. -/
def flankStacks (f : Flank) (s : State) : List Nat :=
  s.mem.inService.filter fun k => match f with
    | .north => k < 4
    | .south => 4 ≤ k

/-- Flank that owns a DRAM address in home mode (R182). -/
def homeFlank (a : Nat) (s : State) : Flank :=
  if a < stackBytes * (flankStacks .north s).length then .north else .south

/-- The stack and stack-local address of a DRAM address (R181, R182, R187). -/
def stackOf (a : Nat) (s : State) : Nat × Nat :=
  let list := if s.mem.home then flankStacks (homeFlank a s) s else s.mem.inService
  let o := if s.mem.home && homeFlank a s = .south then a - stackBytes * (flankStacks .north s).length else a
  if !s.mem.home && list.length = 8 then (list.getD (xorFold 3 10 (o / 1024)) 0, (o / 8192) * 1024 + o % 1024)
  else if s.mem.home && list.length = 4 then
    (list.getD (xorFold 2 15 (o / 1024)) 0, (o / 4096) * 1024 + o % 1024)
  else (list.getD ((o / 1024) % list.length) 0, (o / 1024 / list.length) * 1024 + o % 1024)

/-- Channel of a stack-local address (R181). -/
def channelOf (l : Nat) : Nat := (l / 256 % 32) ^^^ (l / 8192 % 32)

/-- Whether an access to a DRAM address reaches no stack in service: failed, or lost and not yet rewritten
(R187, R199). -/
def stackDown (a : Nat) (s : State) : Bool :=
  let k := (stackOf a s).1
  s.mem.failed.contains k || s.mem.lost.contains k

/-- A stack fails in service: its lines are poisoned until the next package reset, which leaves it out (R187, R191, log 92). -/
def stackGone (k : Nat) (s : State) : State :=
  { s with mem := { s.mem with failed := setInsert k s.mem.failed, dropped := setInsert k s.mem.dropped } }

/-! ## DRAM (R180, R188) -/

/-- A DRAM byte as stored. -/
def dramByte (a : Nat) (s : State) : Byte := tget 0 s.mem.dram a

/-- Whether a DRAM byte is delivered poisoned. -/
def dramBad (a : Nat) (s : State) : Bool := rmem (a / 8) s.mem.poison || stackDown a s

/-- Stores one byte in DRAM; an access to a stack that is down is lost. -/
def dramPut (a : Nat) (b : Byte) (s : State) : State :=
  if stackDown a s then s else { s with mem := { s.mem with dram := tset 0 s.mem.dram a b } }

/-- Stores bytes from an address up. -/
def dramPutAll : Nat → List Byte → State → State
  | _, [], s => s
  | a, b :: t, s => dramPutAll (a + 1) t (dramPut a b s)

/-- Lines of DRAM that a span touches. -/
def spanLines (a n : Nat) : List Nat :=
  (List.range (if n = 0 then 0 else (a + n - 1) / 64 - a / 64 + 1)).map fun i => (a / 64 + i) * 64

/-- The granules of [lo, hi) that lie in stacks which take a write. -/
def cleanUp (lo hi : Nat) (s : State) (r : RangeSet) : RangeSet :=
  if s.mem.failed = [] && s.mem.lost = [] then rsub lo hi r
  else (spanLines (lo * 8) ((hi - lo) * 8)).foldl (fun acc l =>
    if stackDown l s then acc else rsub (max lo (l / 8)) (min hi (l / 8 + 8)) acc) r

/-- Clears the poison of every 8-byte granule wholly inside [a, a + n); a stack that is down takes no write. -/
def dramClean (a n : Nat) (s : State) : State :=
  { s with mem := { s.mem with poison := cleanUp ((a + 7) / 8) ((a + n) / 8) s s.mem.poison } }

/-- Poisons every granule that [a, a + n) touches. -/
def dramTaint (a n : Nat) (s : State) : State :=
  if n = 0 then s else { s with mem := { s.mem with poison := radd (a / 8) ((a + n + 7) / 8) s.mem.poison } }

/-! ## Lines, the directory and the remote-line caches (R180, R183–R185) -/

/-- Reads bytes of DRAM as stored. -/
def dramReadBytes (a n : Nat) (s : State) : List Byte := (List.range n).map fun i => dramByte (a + i) s

/-- POISON of the line at a DRAM address (R180). -/
def linePoison (a : Nat) (s : State) : Byte :=
  BitVec.ofNat 8 (maskOf ((List.range 8).filter fun g => dramBad (a / 64 * 64 + 8 * g) s))

/-- The 64 bytes of the line at a DRAM address. -/
def lineData (a : Nat) (s : State) : List Byte := dramReadBytes (a / 64 * 64) 64 s

/-- Writes the bytes given of a line; a granule is poisoned when its POISON bit is set, and clean again once written
whole (R188). -/
def writeLine (a : Nat) (data : List (Option Byte)) (poison : Byte) (s : State) : State :=
  let b := a / 64 * 64
  let s1 := (List.range 64).foldl (fun t i => match data.getD i none with
    | some v => dramPut (b + i) v t
    | none => t) s
  (List.range 8).foldl (fun t g =>
    let cells := (List.range 8).map fun i => data.getD (8 * g + i) none
    if poison.getLsbD g then dramTaint (b + 8 * g) 8 t
    else if cells.all Option.isSome then dramClean (b + 8 * g) 8 t else t) s1

/-- DIR of a line: 0 I, 1 S, 2 M. -/
def dirOf (a : Nat) (s : State) : Nat := tget 0 s.mem.dir (a / 64)

/-- Sets DIR of a line. -/
def dirSet (a d : Nat) (s : State) : State := { s with mem := { s.mem with dir := tset 0 s.mem.dir (a / 64) d } }

/-- The copy of a line that the remote-line cache of the other flank holds. -/
def cacheGet (a : Nat) (s : State) : Option RlcLine := tget none s.mem.rlc (a / 64)

/-- Replaces the copy of a line that the other flank's remote-line cache holds. -/
def cacheSet (a : Nat) (v : Option RlcLine) (s : State) : State :=
  { s with mem := { s.mem with rlc := tset none s.mem.rlc (a / 64) v } }

/-- A cached line, clean. -/
def RlcLine.clean (x : RlcLine) : RlcLine := { x with dirty := false }

/-- What the other flank holds dirty of a line is written at its home. -/
def writeBack (a : Nat) (s : State) : State := match cacheGet a s with
  | some x => if x.dirty then countStack (stackOf a s).1 1 1 (writeLine a (x.data.map some) x.poison s) else s
  | none => s

/-- A local read brings a line in M home: the other flank keeps a clean copy, DIR reads S (Table 7-5). -/
def recallLine (a : Nat) (s : State) : State :=
  if s.mem.home && dirOf a s = 2 then
    cacheSet a ((cacheGet a s).map RlcLine.clean) (dirSet a 1 (writeBack a s))
  else s

/-- A write leaves no copy of a line on the other flank: what it held dirty has come home first, DIR reads I
(Table 7-5, R185). -/
def claimLine (a : Nat) (s : State) : State :=
  if s.mem.home && (dirOf a s != 0 || (cacheGet a s).isSome) then cacheSet a none (dirSet a 0 (writeBack a s)) else s

/-- Local reads of the lines of a span. -/
def recallLines (a n : Nat) (s : State) : State :=
  if s.mem.home && s.mem.dir != [] then (spanLines a n).foldl (fun t l => recallLine l t) s else s

/-- Writes of the lines of a span. -/
def claimLines (a n : Nat) (s : State) : State :=
  if s.mem.home && (s.mem.dir != [] || s.mem.rlc != []) then (spanLines a n).foldl (fun t l => claimLine l t) s else s

/-- Lines that a remote-line cache holds at most: 16 MiB doubled by each code of CACHE (R183). -/
def cacheLines (s : State) : Nat := 2 ^ (18 + s.mem.cache)

/-- The lines that a flank's remote-line cache holds: those whose home is the other flank. -/
def cachedOn (f : Flank) (s : State) : List Nat :=
  (s.mem.rlc.filter fun e => homeFlank (e.1 * 64) s != f).map (·.1 * 64)

/-- A line leaves a cache: written back and I when dirty, silently when clean (R184). -/
def evictLine (a : Nat) (s : State) : State :=
  if (cacheGet a s).any (·.dirty) then cacheSet a none (dirSet a 0 (writeBack a s)) else cacheSet a none s

/-- Room for a line in a flank's cache. Which line leaves is a free choice; none need leave while the cache has room
(log 94). -/
def makeRoom (f : Flank) (s : State) : State :=
  let ls := cachedOn f s
  if ls = [] then s
  else
    let k := Config.freeNat s.free
    let s1 := { s with free := s.free + 1 }
    if cacheLines s ≤ ls.length then evictLine (ls.getD (k % ls.length) 0) s1
    else match ls[k % (ls.length + 1)]? with
      | some l => evictLine l s1
      | none => s1

/-- A remote read, or a remote read for write: the line goes to the other flank's cache, DIR reads S or M (Table 7-5). -/
def fetchLine (a : Nat) (forWrite : Bool) (s : State) : State :=
  let s1 := makeRoom (if homeFlank a s = .north then .south else .north) s
  cacheSet a (some ⟨forWrite, lineData a s1, linePoison a s1⟩) (dirSet a (if forWrite then 2 else 1) s1)

/-- A DRAM byte as a read of it finds it: from the cache that holds the only current copy, else from its home. -/
def viewByte (a : Nat) (s : State) : Byte := match cacheGet a s with
  | some x => if x.dirty then x.data.getD (a % 64) 0 else dramByte a s
  | none => dramByte a s

/-- Whether a read of a DRAM byte finds it poisoned. -/
def viewBad (a : Nat) (s : State) : Bool := match cacheGet a s with
  | some x => if x.dirty then x.poison.getLsbD (a % 64 / 8) else dramBad a s
  | none => dramBad a s

/-- Reads bytes of DRAM as a read of them finds them. -/
def viewBytes (a n : Nat) (s : State) : List Byte := (List.range n).map fun i => viewByte (a + i) s

/-- Writes clean bytes to DRAM. -/
def dramWriteBytes (a : Nat) (bs : List Byte) (s : State) : State :=
  dramClean a bs.length (dramPutAll a bs (claimLines a bs.length s))

/-- Zeroes a span: its lines are in no cache and read I. -/
def zeroSpan (a n : Nat) (s : State) : State :=
  dramClean a n { s with mem := { s.mem with
    dram := tclear s.mem.dram fun k => a ≤ k && k < a + n
    rlc := tclear s.mem.rlc fun l => a ≤ l * 64 && l * 64 < a + n
    dir := tclear s.mem.dir fun l => a ≤ l * 64 && l * 64 < a + n } }

/-! ## Decoding a line read (R179, R188, R190, R191) -/

/-- Flank of a stack. -/
def stackFlank (k : Nat) : Flank := if k < 4 then .north else .south

/-- The syndrome of a stack-channel fault (R179). -/
def stackSyndrome (l : Nat) (b : BadSymbols) (bad : Bool) (kind : Nat) : Nat :=
  let found := if b.pattern || 4 < b.count then 0 else b.count
  packFields [(0, 37, l / 64 * 64), (37, 7, if 1 ≤ found then b.pos1 else 0x7F), (44, 7, if 2 ≤ found then b.pos2 else 0x7F),
    (51, 3, found), (54, 1, bit bad), (55, 2, kind)]

/-- Whether the decoder cannot correct (R188). -/
def badLine (b : BadSymbols) : Bool := b.pattern || 3 ≤ b.count

/-- Key of a stack channel. -/
def chanKey (k ch : Nat) : Nat := k * 32 + ch

/-- A row is due for repair at its bank's next refresh slot (R190). -/
def rowDue (k ch bank row : Nat) (s : State) : State :=
  if s.stk.repairDue.contains (k, ch, bank, row) then s
  else { s with stk := { s.stk with repairDue := s.stk.repairDue ++ [(k, ch, bank, row)] } }

/-- An uncorrectable line: poisoned, rewritten with zeros, its row due for repair, and counted towards the failure of its
channel (R188, R190, R191). -/
def lineLost (a k ch syn : Nat) (b : BadSymbols) (s : State) : State :=
  let s1 := rowDue k ch b.bank b.row (writeLine a (List.replicate 64 (some 0)) 0xFF s)
  let old := (tget [] s1.stk.uncorrectable (chanKey k ch)).filter fun t => s1.clock.now < t + 1000000000
  let s2 := { s1 with stk := { s1.stk with
    uncorrectable := tset [] s1.stk.uncorrectable (chanKey k ch) (s1.clock.now :: old) } }
  countStack k 5 1 (faultD (0x4000 + chanKey k ch) syn s2)

/-- What decoding a line read does (Table 7-7). -/
def decodeLine (a k l kind : Nat) (b : BadSymbols) (s : State) : State :=
  let ch := channelOf l
  if badLine b then lineLost a k ch (stackSyndrome l b true kind) b s
  else if 0 < b.count then countStack k 4 1 (faultC (0x4000 + chanKey k ch) (stackSyndrome l b false kind) s)
  else s

/-- Counts of a read by its requester (R201). -/
def countLineRead (k : Nat) (r : Requester) (s : State) : State :=
  let s1 := countStack k 0 1 s
  match r with
  | .cluster p => if flankOf p = stackFlank k then s1 else countStack k 2 1 s1
  | .peer _ => countStack k 3 1 s1
  | _ => s1

/-- What the decoder finds in the lines that an access names bad; the first mention of a line counts. -/
def foundIn (a : Nat) (bad : List (Nat × BadSymbols)) : Option BadSymbols :=
  (bad.find? fun e => e.1 / 64 = a / 64).map (·.2)

/-- One line is read from its stack: counted, and decoded (R188, R201). -/
def readLine (a : Nat) (r : Requester) (bad : List (Nat × BadSymbols)) (s : State) : State :=
  let (k, l) := stackOf a s
  let s1 := countLineRead k r s
  match foundIn a bad with
  | some b => if stackDown a s then s1 else decodeLine a k l 0 b s1
  | none => s1

/-- The lines of a span are read at their homes by the host, a peer, the guest or the firmware (R184, R188, R201). -/
def readLines (a n : Nat) (r : Requester) (bad : List (Nat × BadSymbols)) (s : State) : State :=
  (spanLines a n).foldl (fun t l => readLine l r bad t) (recallLines a n s)

/-- A cluster reads a line: at its home, or, homed on the other flank in home mode, through its own flank's cache (R22,
R183, R184). -/
def clusterReads (p a : Nat) (bad : List (Nat × BadSymbols)) (s : State) : State :=
  if s.mem.home && homeFlank a s != flankOf p then
    if (cacheGet a s).isSome || stackDown a s then s else fetchLine a false (readLine a (.cluster p) bad s)
  else readLine a (.cluster p) bad (recallLine a s)

/-! ## On-die memories (R189) -/

/-- Key of a byte of cluster memory. -/
def cmKey (p off : Nat) : Nat := p * 2 ^ 22 + off

/-- Key of a byte of a local store. -/
def lsKey (p c off : Nat) : Nat := (p * 16 + c) * 2 ^ 18 + off

/-- Bytes of the remote-line cache slice of each cluster (Table 7-4). -/
def sliceBytes (s : State) : Nat :=
  if s.mem.home then
    (if s.mem.cache = 0 then 52 else if s.mem.cache = 1 then 104 else if s.mem.cache = 2 then 208 else 412) * 1024
  else 0

/-- Whether a cluster memory offset lies in the slice, from the top of the cluster memory (R183). -/
def inSlice (off : Nat) (s : State) : Bool := 2 ^ 22 - sliceBytes s ≤ off

/-- Stores one byte of cluster memory. -/
def cmPut (k : Nat) (b : Byte) (s : State) : State := { s with mem := { s.mem with cm := tset 0 s.mem.cm k b } }

/-- Stores one byte of a local store. -/
def lsPut (k : Nat) (b : Byte) (s : State) : State := { s with mem := { s.mem with ls := tset 0 s.mem.ls k b } }

/-- Stores bytes of cluster memory and sets or clears the poison of the words they cover whole. -/
def cmWrite (k : Nat) (bs : List Byte) (s : State) : State :=
  let s1 := ((List.range bs.length).zip bs).foldl (fun t e => cmPut (k + e.1) e.2 t) s
  { s1 with mem := { s1.mem with cmPoison := rsub ((k + 7) / 8) ((k + bs.length) / 8) s1.mem.cmPoison } }

/-- Stores bytes of a local store and clears the poison of the words they cover whole. -/
def lsWrite (k : Nat) (bs : List Byte) (s : State) : State :=
  let s1 := ((List.range bs.length).zip bs).foldl (fun t e => lsPut (k + e.1) e.2 t) s
  { s1 with mem := { s1.mem with lsPoison := rsub ((k + 7) / 8) ((k + bs.length) / 8) s1.mem.lsPoison } }

/-- Poisons the words of cluster memory that a span touches. -/
def cmTaint (k n : Nat) (s : State) : State :=
  if n = 0 then s else { s with mem := { s.mem with cmPoison := radd (k / 8) ((k + n + 7) / 8) s.mem.cmPoison } }

/-- Poisons the words of a local store that a span touches. -/
def lsTaint (k n : Nat) (s : State) : State :=
  if n = 0 then s else { s with mem := { s.mem with lsPoison := radd (k / 8) ((k + n + 7) / 8) s.mem.lsPoison } }

/-- A byte of any local memory and whether it is poisoned. -/
def peekByte (a : Nat) (s : State) : Byte × Bool := match place a s with
  | .dram x => (viewByte x s, viewBad x s)
  | .cm e off =>
    let k := cmKey (physOf e s) off
    (tget 0 s.mem.cm k, rmem (k / 8) s.mem.cmPoison || inSlice off s)
  | .ls e c off =>
    let k := lsKey (physOf e s) c off
    (tget 0 s.mem.ls k, rmem (k / 8) s.mem.lsPoison)
  | _ => (0, true)

/-! ## The host window (R221) -/

/-- Whether the host's credits allow an HWIN request: its CREDIT_TOTAL lies above the requests issued (R29, R215). -/
def hwinCredit (s : State) : Bool := above s.ports.hostCredit s.ports.hwinSent

/-- Issues an HWIN request with the next SEQ and keeps it until it is answered (R221, R215). -/
def hwinIssue (q : HwinReq) (s : State) : State :=
  let f := if q.write then mkFrame 0x0A false 0 0 q.off q.data else mkFrame 0x09 false 0 q.data.length q.off []
  let r := { q with seq := s.ports.devSeq, sentAt := s.clock.now, attempts := q.attempts + 1 }
  sendFrame f { s with ports := { s.ports with hwin := s.ports.hwin ++ [r], hwinSent := s.ports.hwinSent + 1 } }

/-- Issues an HWIN request when the host's credits allow it and none waits before it; else it waits (R215). -/
def hwinTry (q : HwinReq) (s : State) : State :=
  if hwinCredit s && s.ports.hwinWait = [] then hwinIssue q s
  else { s with ports := { s.ports with hwinWait := s.ports.hwinWait ++ [q] } }

/-- Issues waiting HWIN requests, oldest first, while credits last. -/
def hwinPump : Nat → State → State
  | 0, s => s
  | n + 1, s => match s.ports.hwinWait with
    | q :: t => if hwinCredit s then hwinPump n (hwinIssue q { s with ports := { s.ports with hwinWait := t } }) else s
    | [] => s

/-- Bytes filled up to a multiple of 8, as LENGTH and ARG ask (Table 8-1): what is added is what the host holds there
(log 111). -/
def fillEight (off : Nat) (bs : List Byte) (s : State) : List Byte :=
  bs ++ (List.range (ceilDiv bs.length 8 * 8 - bs.length)).map fun i => Config.hostByte s.free (off + bs.length + i)

/-- A new HWIN request of an engine or of the firmware. -/
def hwinSend (cluster : Nat) (write : Bool) (off : Nat) (data : List Byte) (s : State) : State :=
  hwinTry ⟨s.ports.hwinTag, 0, cluster, write, off, fillEight off data s, s.clock.now, 0⟩
    { s with ports := { s.ports with hwinTag := s.ports.hwinTag + 1 } }

/-- Number standing for the firmware as the requester of a host-window access. -/
def fwRequester : Nat := 0xFFFF

/-- Cuts bytes into pieces of at most `k + 1`. -/
def chunks (k : Nat) : Nat → List Byte → List (List Byte)
  | 0, _ => []
  | _ + 1, [] => []
  | f + 1, bs => bs.take (k + 1) :: chunks k f (bs.drop (k + 1))

/-- The firmware writes bytes to the host window, in pieces of at most 4,064 (Table 8-2). -/
def hostWrite (off : Nat) (bs : List Byte) (s : State) : State :=
  ((chunks 4063 (bs.length + 1) bs).foldl
    (fun (t : Nat × State) piece => (t.1 + piece.length, hwinSend fwRequester true t.1 piece t.2)) (off, s)).2

/-! ## The firmware's accesses -/

/-- Bytes the firmware reads at a local address: DRAM as stored, or host memory as the host answers (log 4). -/
def fwRead (a n : Nat) (s : State) : List Byte := match place a s with
  | .hwin off => (List.range n).map fun i => Config.hostByte s.free (off + i)
  | _ => viewBytes a n s

/-- Bytes the firmware writes at a local address in DRAM or the host window. -/
def fwWrite (a : Nat) (bs : List Byte) (s : State) : State := match place a s with
  | .hwin off => hostWrite off bs s
  | .dram _ => dramWriteBytes a bs s
  | _ => s

/-! ## DRAM in use (R167, R178, R196, R245) -/

/-- Spans of DRAM held by loaded graphs. -/
def graphSpans (s : State) : List (Nat × Nat) := s.graphs.slot.flatMap fun e => e.2.loadHeld ++ e.2.placeHeld

/-- Spans of DRAM held by open loan windows. -/
def loanSpans (s : State) : List (Nat × Nat) :=
  s.mem.windows.filterMap fun e => e.2.map fun w => (w.base, w.size)

/-- The Cairn area, while Cairn reserves it (R468). -/
def cairnSpans (s : State) : List (Nat × Nat) := if s.cairn.area then [(cairnBase s, 2 ^ 28)] else []

/-- Every span the allocator must leave alone. -/
def heldSpans (s : State) : List (Nat × Nat) := graphSpans s ++ loanSpans s ++ s.mem.ringHeld ++ cairnSpans s

/-- DRAM that a set of held spans covers. -/
def heldSet (s : State) : RangeSet := (heldSpans s).foldl (fun r p => radd p.1 (p.1 + p.2) r) []

/-- Bytes of DRAM not held by graphs, loans, rings or the Cairn area (Table 10-10a). -/
def dramFree (s : State) : Nat := topOfDram s - (heldSet s).foldl (fun n p => n + (p.2 - p.1)) 0

/-- The lowest address, from `from_` up, at which `n` bytes are free, aligned to 4 KiB: graph DRAM is allocated
upward from address 0 (R178). -/
def allocAt (n : Nat) : Nat → RangeSet → Nat → Option Nat
  | from_, [], top => if from_ + n ≤ top then some from_ else none
  | from_, (a, b) :: t, top =>
    if from_ + n ≤ a then some from_ else allocAt n (ceilDiv (max from_ b) 4096 * 4096) t top

/-- Allocates `n` bytes of graph DRAM. -/
def allocDram (n : Nat) (s : State) : Option Nat := allocAt n 0 (heldSet s) (topOfDram s)

end Sys2Proof.Machine
end

