-- ==== Sys2Proof/Machine/CmdFlow.lean ====
section
/-!
DEFINITION. The command interface (chapter 10): ring configuration, announcements, the checks of a descriptor, the
catalogue and its legality, results, and the posting of completions.
-/

namespace Sys2Proof.Machine

/-! ## Ring configuration (R244, R245, R515) -/

/-- Number of a ring in a RING_ERROR notice. -/
inductive RingName where
  | normal | urgent | completion
  deriving DecidableEq, Repr

/-- Its code in a RING_ERROR notice. -/
def RingName.code : RingName → Nat
  | .normal => 0 | .urgent => 1 | .completion => 2

/-- Base address and entries of a ring as configured. -/
def ringConf (r : RingName) (s : State) : Nat × Nat := match r with
  | .normal => (s.cmds.nq.base.toNat, s.cmds.nq.size.toNat)
  | .urgent => (s.cmds.uq.base.toNat, s.cmds.uq.size.toNat)
  | .completion => (s.cmds.cqBase.toNat, s.cmds.cqSize.toNat)

/-- The enable bit of a ring in SYN_RING_CTRL. -/
def ringBitSet (r : RingName) (s : State) : Bool := s.cmds.ctrl.getLsbD r.code

/-- NQ_SECURE or UQ_SECURE of a SYN_RING_CTRL. -/
def ctrlSecure (c : BitVec 64) (q : Queue) : Bool := c.getLsbD (3 + queueNum q)

/-- NQ_CHANNEL or UQ_CHANNEL of a SYN_RING_CTRL. -/
def ctrlChannel (c : BitVec 64) (q : Queue) : Nat := bitsOf c.toNat (15 + 8 * queueNum q) (8 + 8 * queueNum q)

/-- Whether a command ring is secure, as the firmware took it (R245). -/
def ringSecure (q : Queue) (s : State) : Bool := ctrlSecure s.cmds.taken.ctrl q

/-- Announcement channel of a command ring, as the firmware took it (R245). -/
def ringChannel (q : Queue) (s : State) : Nat := ctrlChannel s.cmds.taken.ctrl q

/-- The ring name of a queue. -/
def queueRing : Queue → RingName
  | .normal => .normal
  | .urgent => .urgent

/-- Base address and entries of a ring, as the firmware took them (R245). -/
def ringTaken (r : RingName) (s : State) : Nat × Nat := match r with
  | .normal => (s.cmds.taken.nqBase, s.cmds.taken.nqSize)
  | .urgent => (s.cmds.taken.uqBase, s.cmds.taken.uqSize)
  | .completion => (s.cmds.taken.cqBase, s.cmds.taken.cqSize)

/-- The span of a ring in DRAM. -/
def ringSpan (r : RingName) (s : State) : Nat × Nat := ((ringConf r s).1, 64 * (ringConf r s).2)

/-- Whether the channel of a command ring is allowed for its SECURE setting (R245). -/
def ringChannelOk (q : Queue) (s : State) : Bool :=
  let n := ctrlChannel s.cmds.ctrl q
  if ctrlSecure s.cmds.ctrl q then 12 ≤ n && n ≤ 23 else n ≤ 11

/-- The first failing check of a ring, as a reason of Table 10-11a (R244, R245). -/
def ringFault (r : RingName) (s : State) : Option Nat :=
  let (base, n) := ringConf r s
  let span := ringSpan r s
  let others := [RingName.normal, .urgent, .completion].filter fun o => o != r && ringBitSet o s
  if !(isPow2 n && 64 ≤ n && n ≤ 65536) then some 1
  else if base % 4096 != 0 || !(base + 64 * n ≤ topOfDram s) || overlaps span (cairnBase s, 2 ^ 28) then some 2
  else if (r = .normal && !ringChannelOk .normal s) || (r = .urgent && !ringChannelOk .urgent s) then some 3
  else if others.any (fun o => overlaps span (ringSpan o s)) || (graphSpans s).any (overlaps span) ||
      (loanSpans s).any (overlaps span) then some 4
  else none

/-- A RING_ERROR notice (Table 10-11). -/
def ringError (r : RingName) (reason : Nat) (s : State) : State :=
  notice 0xA (BitVec.ofNat 32 r.code) (BitVec.ofNat 64 reason) s

/-- Records whether the firmware has enabled a ring. -/
def ringEnable (r : RingName) (on : Bool) (s : State) : State := match r with
  | .normal => { s with cmds := { s.cmds with nq := { s.cmds.nq with enabled := on } } }
  | .urgent => { s with cmds := { s.cmds with uq := { s.cmds.uq with enabled := on } } }
  | .completion => { s with cmds := { s.cmds with cqEnabled := on } }

/-- The firmware takes one ring's configuration: enabled and reserved when it passes, disabled with RING_ERROR when
it fails, disabled when its bit is 0 (R245). -/
def ringTake (r : RingName) (s : State) : State :=
  if !ringBitSet r s then ringEnable r false s
  else match ringFault r s with
    | none => ringEnable r true { s with mem := { s.mem with ringHeld := s.mem.ringHeld ++ [ringSpan r s] } }
    | some reason => ringError r reason (ringEnable r false s)

/-- The configuration registers as they stand. -/
def ringSetup (s : State) : RingSetup :=
  let c := s.cmds
  ⟨c.nq.base.toNat, c.nq.size.toNat, c.uq.base.toNat, c.uq.size.toNat, c.cqBase.toNat, c.cqSize.toNat, c.ctrl⟩

/-- The firmware takes the configuration of the three rings (R245): what it holds stands until the next COMMAND_RING,
whatever is written to the registers before it. -/
def takeRings (s : State) : State :=
  ringTake .completion (ringTake .urgent (ringTake .normal
    { s with mem := { s.mem with ringHeld := [] }, cmds := { s.cmds with taken := ringSetup s } }))

/-- Whether the firmware can act on host work: it runs, has come out of BOOTING and is not held by Cairn. -/
def fwActs (s : State) : Bool := fwRuns s && s.dev.state != .booting && !s.cairn.frozen

/-- COMMAND_RING: the doorbell bit is set, and the firmware, where it can act, takes the configuration (R245). -/
def execCommandRing (a : Access) (s : State) : Step :=
  let r := fwRingWrite (BitVec.ofNat 64 (2 ^ 24)) a.secure s
  let s1 := emit (.reply r.1 0) r.2
  if fwActs s then .next (takeRings { s1 with db := { s1.db with fwStatus := s1.db.fwStatus &&& ~~~ (0x1000000 : BitVec 32) } })
  else .next s1

/-- Fields of a base register, Table 20-24. -/
def baseField (v : BitVec 64) : BitVec 64 := v &&& 0xFFFFFFF000

/-- Fields of a size register. -/
def sizeField (v : BitVec 64) : BitVec 64 := v &&& 0x1FFFF

/-- Fields of SYN_RING_CTRL. -/
def ctrlField (v : BitVec 64) : BitVec 64 := v &&& 0xFFFF1F

/-- A write to a ring configuration register: stored, or ignored for BASE and SIZE of a ring whose enable bit reads
1 (R515). -/
def ringConfigWrite (r : RingReg) (v : BitVec 64) (s : State) : State :=
  let c := s.cmds
  match r with
  | .nqBase => if ringBitSet .normal s then s else { s with cmds := { c with nq := { c.nq with base := baseField v } } }
  | .nqSize => if ringBitSet .normal s then s else { s with cmds := { c with nq := { c.nq with size := sizeField v } } }
  | .uqBase => if ringBitSet .urgent s then s else { s with cmds := { c with uq := { c.uq with base := baseField v } } }
  | .uqSize => if ringBitSet .urgent s then s else { s with cmds := { c with uq := { c.uq with size := sizeField v } } }
  | .cqBase => if ringBitSet .completion s then s else { s with cmds := { c with cqBase := baseField v } }
  | .cqSize => if ringBitSet .completion s then s else { s with cmds := { c with cqSize := sizeField v } }
  | .ctrl => { s with cmds := { c with ctrl := ctrlField v } }

/-- Offset of a ring register in the SYN_ block (Table 20-23). -/
def ringRegOff : RingReg → Nat
  | .nqBase => 0x00 | .nqSize => 0x08 | .uqBase => 0x10 | .uqSize => 0x18 | .cqBase => 0x20 | .cqSize => 0x28
  | .ctrl => 0x30

/-- RING_CONFIG_WRITE: the SYN_ configuration registers are secure (R245, R12). -/
def execRingConfigWrite (r : RingReg) (v : BitVec 64) (a : Access) (s : State) : Step :=
  if a.secure then .next (emit (.reply .ok 0) (ringConfigWrite r v s))
  else .next (emit (.reply .denied 0) (secureFault a.port (0xFF000C0000 + ringRegOff r) 2 0 s))

/-- A write to SYN_CQ_CONSUMED: refused ahead of SYN_DSEQ_POSTED, else taken; it restarts the watchdog (R516). -/
def cqConsumedWrite (v : BitVec 64) (s : State) : Status × State :=
  let d : BitVec 32 := v.setWidth 32
  if above d s.cmds.posted then (.badArgument, s)
  else (.ok, { s with cmds := { s.cmds with consumed := d, wdSince := s.clock.now, wdFired := false } })

/-- SYN_CQ_CONSUMED_WRITE (R516). -/
def execSynCqConsumedWrite (v : BitVec 64) (s : State) : Step :=
  let r := cqConsumedWrite v s
  .next (emit (.reply r.1 0) r.2)

/-! ## Announcements (R249, R250) -/

/-- The command rings enabled on a channel. -/
def ringsOn (ch : Nat) (s : State) : List Queue :=
  [Queue.normal, .urgent].filter fun q => (ringOf q s).enabled && ringChannel q s = ch

/-- Acts on a drained announcement word of a queue's channel (R250). -/
def announce (q : Queue) (ch : Nat) (w : BitVec 64) (s : State) : State :=
  let s0 := { s with cmds := { s.cmds with wdSince := s.clock.now, wdFired := false } }
  let named : Queue := if w.getLsbD 32 then .urgent else .normal
  let total : BitVec 32 := w.setWidth 32
  if w >>> 33 != 0 then ringError (queueRing q) 7 s0
  else if !(ringsOn ch s).contains named then ringError (queueRing q) 6 s0
  else
    let r := ringOf named s0
    if above r.ctotal total then s0
    else if (ringTaken (queueRing named) s0).2 < (total - r.ctotal).toNat then ringError (queueRing named) 5 s0
    else setRing named { r with ptotal := total } s0

/-- The firmware drains a host channel and acts on the word if the channel announces a ring (R250, R231). -/
def takeAnnouncement (ch : Nat) (s : State) : State :=
  let c := tget {} s.mbx.host ch
  if !c.outFull then s
  else
    let s1 := fwDrain (.host ch) s
    match ringsOn ch s with
    | [] => s1
    | q :: _ => announce q ch c.outWord s1

/-- ANNOUNCEMENT: the firmware drains an announcement word (R250). -/
def execAnnouncement (ch : Nat) (s : State) : Step :=
  if ch < 24 && fwActs s then .next (takeAnnouncement ch s) else .next s

/-! ## The catalogue (R267) and legality (R266) -/

/-- A row of Table 10-10: opcode, urgent queue allowed, secure command required. -/
structure CmdInfo where
  code : Nat
  urgent : Bool
  secure : Bool
  deriving DecidableEq, Repr

/-- Table 10-10. Every command is allowed on the normal queue. -/
def catalogue : List CmdInfo :=
  [⟨0x0101, true, false⟩, ⟨0x0102, false, false⟩, ⟨0x0103, false, false⟩, ⟨0x0104, true, true⟩,
   ⟨0x0105, false, false⟩, ⟨0x0106, false, false⟩, ⟨0x0201, false, true⟩, ⟨0x0202, false, false⟩,
   ⟨0x0203, false, false⟩, ⟨0x0204, true, false⟩, ⟨0x0301, false, false⟩, ⟨0x0302, false, false⟩,
   ⟨0x0303, false, false⟩, ⟨0x0304, false, false⟩, ⟨0x0305, true, false⟩, ⟨0x0306, true, false⟩,
   ⟨0x0307, true, false⟩, ⟨0x0308, false, false⟩, ⟨0x0401, true, false⟩, ⟨0x0402, false, true⟩,
   ⟨0x0403, true, false⟩] ++
  [⟨0x0501, false, false⟩, ⟨0x0502, true, false⟩, ⟨0x0503, true, true⟩, ⟨0x0504, true, false⟩,
   ⟨0x0505, true, false⟩, ⟨0x0601, true, false⟩, ⟨0x0602, true, false⟩, ⟨0x0603, false, true⟩,
   ⟨0x0701, true, false⟩, ⟨0x0801, false, false⟩, ⟨0x0802, false, true⟩, ⟨0x0803, false, true⟩]

/-- The row of an opcode. -/
def cmdInfo (op : Nat) : Option CmdInfo := catalogue.find? fun c => c.code = op

/-- The device states of Table 10-9, left to right. -/
def stateColumn : DevState → Option Nat
  | .standby => some 0 | .ready => some 1 | .loaded => some 2 | .running => some 3 | .paused => some 4
  | .faulted => some 5 | .booting => none | .haltedThermal => none

/-- The columns of Table 10-9 in which a command is legal. -/
def legalColumns (op : Nat) : List Nat :=
  if op = 0x0101 ∨ op = 0x0601 ∨ op = 0x0602 ∨ op = 0x0502 ∨ op = 0x0505 ∨ op = 0x0401 ∨ op = 0x0801 ∨ op = 0x0104
  then [0, 1, 2, 3, 4, 5]
  else if op = 0x0102 then [1]
  else if op = 0x0103 then [0]
  else if op = 0x0105 ∨ op = 0x0106 ∨ op = 0x0701 ∨ op = 0x0403 ∨ op / 256 = 2 then [0, 1, 2, 3, 4]
  else if op = 0x0301 ∨ op = 0x0302 ∨ op = 0x0501 ∨ op = 0x0503 ∨ op = 0x0603 then [1, 2, 3, 4]
  else if op = 0x0303 ∨ op = 0x0304 ∨ op = 0x0308 then [2, 3, 4]
  else if op = 0x0305 then [3]
  else if op = 0x0306 ∨ op = 0x0307 then [3, 4]
  else if op = 0x0504 then [1, 2, 3, 4, 5]
  else if op = 0x0402 ∨ op = 0x0802 then [0, 1]
  else if op = 0x0803 then [0, 1, 5]
  else []

/-- Whether a command is legal in the device state (Table 10-9); DEVICE_RESET in FAULTED only of kind COL. -/
def legalNow (d : Descriptor) (s : State) : Bool :=
  match stateColumn s.dev.state with
  | none => false
  | some c => (legalColumns d.opcode.toNat).contains c &&
      !(d.opcode = 0x0104 && s.dev.state = .faulted && d.imm0.toNat % 16 != 1)

/-! ## Descriptor checks (R251, R259) -/

/-- Whether the opcode takes its bundle from a global address as well (R164). -/
def sourceGlobal (d : Descriptor) : Bool :=
  (d.opcode = 0x0301 || d.opcode = 0x0302) && d.argAddr.toNat / 2 ^ 40 != 0 && d.argAddr.toNat / 2 ^ 60 = 0

/-- Addresses and lengths valid (R259). -/
def addrsOk (d : Descriptor) (s : State) : Bool :=
  let a := d.argAddr.toNat
  let r := d.resAddr.toNat
  (if d.argLen = 0 then a = 0
   else a != 0 && (argRegion a d.argLen.toNat s || sourceGlobal d)) &&
  (if r = 0 then d.resLen = 0 else argRegion r d.resLen.toNat s)

/-- Checks 3 to 5 of Table 10-3: the status of the first that fails. -/
def checks345 (d : Descriptor) (s : State) : Option Status :=
  match cmdInfo d.opcode.toNat with
  | none => some .notSupported
  | some c =>
    if d.reserved || (d.queue = .urgent && !c.urgent) || !addrsOk d s then some .badArgument
    else if c.secure && !d.secure then some .denied
    else none

/-- The bytes of a descriptor as a Descriptor, Table 10-2 (R247). -/
def parseDescriptor (q : Queue) (secure : Bool) (b : List Byte) : Descriptor :=
  let fl := field b 6 1
  { queue := q, secure := secure, hseq := BitVec.ofNat 32 (field b 0 4), opcode := BitVec.ofNat 16 (field b 4 2),
    fence := bitOf fl 0, silent := bitOf fl 1, target := BitVec.ofNat 32 (field b 8 4),
    argLen := BitVec.ofNat 32 (field b 12 4), argAddr := BitVec.ofNat 64 (field b 16 8),
    resAddr := BitVec.ofNat 64 (field b 24 8), resLen := BitVec.ofNat 32 (field b 32 4),
    imm0 := BitVec.ofNat 64 (field b 40 8), imm1 := BitVec.ofNat 64 (field b 48 8),
    reserved := fl / 4 != 0 || field b 7 1 != 0 || field b 36 4 != 0 || field b 56 4 != 0 }

/-- Whether a queue has a descriptor the firmware has not taken. -/
def available (q : Queue) (s : State) : Bool :=
  let r := ringOf q s
  r.enabled && r.ctotal != r.ptotal

/-- The next descriptor's bytes: entry CTOTAL mod size (R248). -/
def nextDescriptor (q : Queue) (s : State) : List Byte :=
  let c := ringTaken (queueRing q) s
  fwRead (c.1 + 64 * ((ringOf q s).ctotal.toNat % c.2)) 64 s

/-- Takes a descriptor through checks 1 to 5 (R251, R252): a bad CRC or a duplicate ends without acceptance; a check
3 to 5 that fails ends the accepted command; else it waits to begin. -/
def takeDescriptor (q : Queue) (b : List Byte) (s : State) : State :=
  let r := ringOf q s
  let d := parseDescriptor q (ringSecure q s) b
  let s1 := touchSync (setRing q { r with ctotal := r.ctotal + 1 } s)
  let a : Accepted := ⟨d, s.clock.now, s.cmds.orders⟩
  if crc32c (b.take 60) ≠ BitVec.ofNat 32 (field b 60 4) then finish a { st := .integrity } s1
  else if !above d.hseq r.accepted then finish a { st := .duplicate } s1
  else
    let r2 := { (ringOf q s1) with accepted := d.hseq }
    match checks345 d s with
    | some st => finish a { st := st } (touchSync (setRing q r2 s1))
    | none =>
      let s2 := touchSync (setRing q { r2 with waiting := r2.waiting ++ [a] } s1)
      { s2 with cmds := { s2.cmds with orders := s2.cmds.orders + 1 } }

/-- DESCRIPTOR_TAKE: the firmware takes one descriptor of a queue, an urgent one always before a normal one, and
none while 4,096 entries are held (R251, R253, R255). -/
def execDescriptorTake (q : Queue) (s : State) : Step :=
  if !fwActs s || !available q s || (q = .normal && available .urgent s) || 4096 ≤ s.cmds.held.length then .next s
  else .next (takeDescriptor q (nextDescriptor q s) s)

/-- Whether a FENCE lets a command begin: every earlier accepted command of both queues has completed (R247). -/
def fenceMet (a : Accepted) (s : State) : Bool :=
  !a.desc.fence ||
    (s.cmds.nq.begun ++ s.cmds.uq.begun ++ s.cmds.nq.waiting ++ s.cmds.uq.waiting).all fun b => a.order ≤ b.order

/-- Moves the oldest waiting command of a queue to those begun. -/
def moveBegun (q : Queue) (a : Accepted) (s : State) : State :=
  let r := ringOf q s
  setRing q { r with waiting := r.waiting.tail, begun := r.begun ++ [a] } s

/-! ## Results (R259) -/

/-- Ends a command that writes result data, or with BAD_ARGUMENT and the bytes needed when RESULT_LEN is short. -/
def finishWith (a : Accepted) (r : Res) (bytes : List Byte) (s : State) : State :=
  if a.desc.resLen.toNat < bytes.length then
    finish a { r with st := .badArgument, detail := BitVec.ofNat 32 bytes.length, warn := 0, detail2 := 0 } s
  else
    finish a { r with written := BitVec.ofNat 32 bytes.length } (fwWrite a.desc.resAddr.toNat bytes s)

/-- The argument block of a command; reading host memory uses a free value (log 4). -/
def argBytes (d : Descriptor) (s : State) : List Byte × State :=
  (fwRead d.argAddr.toNat d.argLen.toNat s,
   match place d.argAddr.toNat s with
    | .hwin _ => { s with free := s.free + 1 }
    | _ => s)

/-! ## Posting (R254–R256) -/

/-- The 64 bytes of an entry, Table 10-4 (R254). -/
def entryBytes (e : Entry) : List Byte :=
  let body := leBytes 4 e.hseq.toNat ++ leBytes 4 e.dseq.toNat ++ leBytes 1 (bit e.notice) ++
    leBytes 1 e.status.code ++ leBytes 1 e.source.toNat ++ leBytes 1 e.devState.toNat ++ leBytes 2 e.code.toNat ++
    leBytes 1 e.graphState.toNat ++ zeros 1 ++ leBytes 8 e.tAccept ++ leBytes 8 e.tDone ++
    leBytes 4 e.warnings.toNat ++ leBytes 4 e.detail.toNat ++ leBytes 4 e.resultWritten.toNat ++ zeros 4 ++
    leBytes 8 e.detail2.toNat ++ leBytes 4 e.fwEpoch.toNat
  body ++ leBytes 4 (crc32c body).toNat

/-- Whether the completion ring has room for an entry (R255). -/
def ringRoom (e : Entry) (s : State) : Bool :=
  s.cmds.cqEnabled && (e.dseq - s.cmds.consumed).toNat ≤ (ringTaken .completion s).2

/-- Writes an entry to the completion ring and advances SYN_DSEQ_POSTED (R255); a completion sets bit 27 unless the
command was SILENT (R256). -/
def postEntry (e : Entry) (rest : List Entry) (s : State) : State :=
  let at_ := (ringTaken .completion s).1 + 64 * (e.dseq.toNat % (ringTaken .completion s).2)
  let s1 := fwWrite at_ (entryBytes e) s
  let s2 := touchSync { s1 with cmds := { s1.cmds with held := rest, posted := e.dseq } }
  if e.notice || e.silent then s2 else ringBit 27 s2

/-- COMPLETION_POST: the firmware posts the oldest entry it holds once the ring has room (R255). -/
def execCompletionPost (s : State) : Step :=
  if !fwRuns s || s.cairn.frozen then .next s
  else match s.cmds.held with
    | [] => .next s
    | e :: rest => if ringRoom e s then .next (postEntry e rest s) else .next s

end Sys2Proof.Machine
end

