-- ==== Sys2Proof/Machine/Frames.lean ====
section
/-!
DEFINITION. Control ports and Belay delivery (chapter 8): acceptance of host frames, held copies, responses and
retransmission, gaps, credits, resynchronisation, the host window, and the states of the ports.
-/

namespace Sys2Proof.Machine

/-! ## Ports (R204, R217) -/

/-- The preferred port: CP0 whenever it is stable, CP1 when CP0 is not stable and CP1 is ACTIVE, else an ACTIVE CP0;
none while neither is ACTIVE (R217). -/
def preferredNow (s : State) : Option Port :=
  let p := s.ports
  if p.cp0.phase = .active ∧ p.cp0.stable then some .cp0
  else if p.cp1.phase = .active then some .cp1
  else if p.cp0.phase = .active then some .cp0
  else none

/-- Whether a frame is the host's response to an HWIN request, which takes no slot (R214). -/
def isHwinResp (f : Frame) : Bool := f.type = 0x89 || f.type = 0x8A

/-- Request frames in the receive slots. -/
def slotsUsed (s : State) : Nat := (s.ports.slots.filter fun h => !isHwinResp h.frame).length

/-- Handles a RESYNC: frames behind a gap are discarded with credits granted, the record and the kept responses are
cleared, its SEQ is the highest accepted, and the response carries the SEQ of the G2's next frame and its
CREDIT_TOTAL (R220). -/
def doResync (h : HeldFrame) (s : State) : State :=
  let f := h.frame
  let n := slotsUsed s
  let s1 := { s with ports := { s.ports with
    slots := [], accepted := [⟨f.seq, h.at_, f.crc, h.port⟩], highest := some f.seq, kept := [], acted := f.seq
    gap := none, resync := none
    credit := s.ports.credit + BitVec.ofNat 32 n + 1, creditAt := s.clock.now, requests := s.ports.requests + 1 } }
  let resp := mkFrame 0x87 (f.fflags.getLsbD 0) f.seq 0 0
    (leBytes 4 (s1.ports.devSeq + 1).toNat ++ leBytes 4 s1.ports.credit.toNat)
  let sealed := sealFrame resp s1.ports.devSeq s1
  let s2 := sendFrame resp s1
  { s2 with ports := { s2.ports with kept := [⟨f.seq, some sealed, h.at_, f.crc, h.port⟩] } }

/-- A held RESYNC that waits no longer is acted on (R218, R220). -/
def settleResync (s : State) : State := match s.ports.resync with
  | some h => if h.skewUntil = none then doResync h s else s
  | none => s

/-- A held copy waits no longer once its own port is preferred or no port is (R218). -/
def released (pref : Option Port) (h : HeldFrame) : HeldFrame :=
  if some h.port = pref ∨ pref = none then { h with skewUntil := none } else h

/-- Releases the held copies that the preference as it now is lets go (R218). -/
def settleHeld (s : State) : State :=
  settleResync { s with ports := { s.ports with
    slots := s.ports.slots.map (released s.ports.preferred), resync := s.ports.resync.map (released s.ports.preferred) } }

/-- Moves preference where R217 moves it, with PORT_CHANGE. -/
def repref (s : State) : State :=
  let p := preferredNow s
  if p = s.ports.preferred then s else settleHeld (ringBit 29 { s with ports := { s.ports with preferred := p } })

/-- Grants the 512 receive slots at the first arrival of a port at ACTIVE after a package reset (R214, log 19). -/
def firstCredit (s : State) : State :=
  if s.ports.credited then s
  else sendCredit { s with ports := { s.ports with credit := 512, credited := true, creditAt := s.clock.now } }

/-- On a return from both ports down, one EVENT reports every set unmasked bit (R222). -/
def returnEvent (s : State) : State :=
  let bits := s.db.hostStatus &&& ~~~ s.db.hostMask
  if bits = 0 then s else sendDoorbellEvent bits s

/-- A port arrives at ACTIVE (R204). -/
def portUp (p : Port) (s : State) : State :=
  let was := anyActive s
  let x := portSt p s
  let s1 := setPort p { x with phase := .active, activeAt := s.clock.now, stable := false } s
  let s2 := if !s1.ports.credited then firstCredit s1 else if !was then returnEvent s1 else s1
  ringBit 29 (faultCOpen (portSource p) (repref s2))

/-- A port falls from ACTIVE to DOWN (R204); a port that was not ACTIVE changes without a record. -/
def portDown (p : Port) (s : State) : State :=
  let x := portSt p s
  let s1 := setPort p { x with phase := .down, stable := false, stream := [], received := [] } s
  if x.phase = .active then ringBit 29 (faultCOpen (portSource p) (repref s1)) else s1

/-- Number under which a port's lane is held among the links: 32 for CP0, 33 for CP1 (R202). -/
def portLink : Port → Nat
  | .cp0 => 32
  | .cp1 => 33

/-- A port begins to train: its lane is in LIGHT, with no wait for the host (R202, R204, R327). -/
def portTrains (p : Port) (s : State) : State :=
  let l := linkGet (portLink p) s
  setPort p { portSt p s with phase := .training }
    (linkSet (portLink p) { l with
      st := .light, stAt := s.clock.now, negDone := false, txActive := false, rxActive := false, txAt := none
      rxAt := none, stream := [], rxLanes := [], rxBlocks := [], rxLaneAt := [] } s)

/-- Channel side of a port's lane: 0x480 + 2p + d (Table 16-1). -/
def portChan (p : Port) (rx : Bool) : Nat := 1152 + 2 * (portLink p - 32) + bit rx

/-- A channel side of a port's lane carries its data lane. -/
def portCarries (i : Nat) (s : State) : State :=
  setChan i { chanSide i s with lane := some 0, state := .data, owed := [] } s

/-- A port whose lane agreed in NEGOTIATE comes to ACTIVE in both directions (R203, R204, R328). -/
def portJoins (p : Port) (s : State) : State :=
  let l := linkGet (portLink p) s
  portUp p (portCarries (portChan p true) (portCarries (portChan p false) (linkSet (portLink p) { l with
    st := .active, stAt := s.clock.now, txActive := true, rxActive := true, txAt := none, rxAt := none
    returns := 0, bivouacs := 0, rxStripe := 0 } s)))

/-- PORT_ACTIVE: a control port whose lane accepted the far end in NEGOTIATE completes its training (R203, R204). -/
def execPortActive (p : Port) (s : State) : Step :=
  let x := portSt p s
  if x.phase = .training && !x.fenced && s.dev.state != .haltedThermal && (linkGet (portLink p) s).negDone then
    .next (portJoins p s)
  else .next s

/-- PORT_LOCK_LOSS: a port loses lock and goes DOWN (R204). -/
def execPortLockLoss (p : Port) (s : State) : Step :=
  if (portSt p s).phase = .down then .next s else .next (portDown p s)

/-- PORT_STABLE_TIMER: ACTIVE for 100 ms with no loss of lock makes a port stable (R204, R217). -/
def execPortStableTimer (p : Port) (s : State) : Step :=
  let x := portSt p s
  if x.phase = .active && !x.stable && x.activeAt + 100000000 ≤ s.clock.now then
    .next (repref (setPort p { x with stable := true } s))
  else .next s

/-! ## Sequence numbers (R212) -/

/-- Where a host SEQ stands against the highest accepted. -/
inductive SeqClass where
  | noSequence | duplicate | stale | ahead | fresh
  deriving DecidableEq, Repr

/-- Sorts a SEQ by R212. -/
def classify (seq : BitVec 32) (s : State) : SeqClass :=
  match s.ports.highest with
  | none => .noSequence
  | some h =>
    if above seq h then (if (seq - h).toNat ≤ 4096 then .fresh else .ahead)
    else if (h - seq).toNat ≤ 4095 then (if s.ports.accepted.any fun x => x.seq = seq then .duplicate else .fresh)
    else .stale

/-- Puts a SEQ, with its first copy, into the record of accepted numbers and drops those that leave the window. -/
def recordSeq (p : Port) (f : Frame) (s : State) : State :=
  let h := match s.ports.highest with
    | some h => if above f.seq h then f.seq else h
    | none => f.seq
  { s with ports := { s.ports with
      highest := some h
      accepted := (⟨f.seq, s.clock.now, f.crc, p⟩ :: s.ports.accepted).filter fun x => (h - x.seq).toNat ≤ 4095 } }

/-- Counts a discarded frame in CP_DISCARDS: BAD_CRC 0, STALE 1, AHEAD 2, UNKEPT 3. -/
def discard (i : Nat) (s : State) : State :=
  { s with ports := { s.ports with discards := bump16 s.ports.discards i } }

/-- Counts in CP_EVENTS: GAPS 0, DIFFERING 1, HWIN_FAILED 2, NO_SLOT 3. -/
def portEvent (i : Nat) (s : State) : State :=
  { s with ports := { s.ports with events := bump16 s.ports.events i } }

/-- Whether some accepted SEQ lies above the next to act on while that one is missing (R213). -/
def gapOpen (s : State) : Bool :=
  let nxt := s.ports.acted + 1
  !(s.ports.slots.any fun h => h.frame.seq = nxt) && s.ports.slots.any fun h => above h.frame.seq nxt

/-- When the first of the frames that wait behind the missing SEQ was accepted (R213). -/
def gapSince (s : State) : Nat :=
  ((s.ports.slots.filter fun h => above h.frame.seq (s.ports.acted + 1)).map (·.at_)).foldl min s.clock.now

/-- Starts or ends the gap timer, which runs from the acceptance of a later SEQ (R213). -/
def trackGap (s : State) : State :=
  { s with ports := { s.ports with
      gap := if gapOpen s then (match s.ports.gap with
               | none => some (gapSince s, none)
               | g => g)
             else none } }

/-! ## Copies (R216, R218) -/

/-- The syndrome of a differing pair (R218). -/
def differSyndrome (seq crcActed crcOther : BitVec 32) : Nat :=
  seq.toNat + (crcActed.toNat % 65536) * 2 ^ 32 + (crcOther.toNat % 65536) * 2 ^ 48

/-- Records a differing pair against the port whose copy was not acted on (R218). -/
def differing (loser : Port) (seq crcActed crcOther : BitVec 32) (s : State) : State :=
  faultC (portSource loser) (differSyndrome seq crcActed crcOther) (portEvent 1 s)

/-- Whether two copies differ apart from FRAME_CRC, which covers every other byte. -/
def copiesDiffer (f g : Frame) : Bool := f.crc != g.crc

/-- The kept response of a SEQ (R216). -/
def keptOf (seq : BitVec 32) (s : State) : Option Kept := s.ports.kept.find? fun k => k.seq = seq

/-- The record of an accepted SEQ. -/
def acceptedOf (seq : BitVec 32) (s : State) : Option AcceptedSeq := s.ports.accepted.find? fun x => x.seq = seq

/-- The copy that counts of an accepted SEQ becomes another one (R218). -/
def recountCopy (p : Port) (f : Frame) (s : State) : State :=
  { s with ports := { s.ports with
      accepted := s.ports.accepted.map fun x => if x.seq = f.seq then { x with crc := f.crc, port := p } else x } }

/-- A second copy while the first is held: within the skew limit the preferred port's copy wins (R218). -/
def secondCopy (p : Port) (f : Frame) (h : HeldFrame) (s : State) : State :=
  if p = h.port then s
  else
    let wins := some p = s.ports.preferred && (match h.skewUntil with
      | some t => s.clock.now ≤ t
      | none => false)
    if wins then
      let s1 := recountCopy p f { s with ports := { s.ports with
        slots := s.ports.slots.map fun x => if x.frame.seq = f.seq then ⟨p, f, x.at_, none⟩ else x } }
      if copiesDiffer f h.frame then differing h.port f.seq f.crc h.frame.crc s1 else s1
    else if copiesDiffer f h.frame then differing p f.seq h.frame.crc f.crc s else s

/-- A copy that comes after the act, of which a differing one from the other port is recorded (R218). -/
def lateCopy (p : Port) (f : Frame) (x : AcceptedSeq) (s : State) : State :=
  if p ≠ x.port ∧ f.crc ≠ x.crc then differing p f.seq x.crc f.crc s else s

/-- A request that the host sends again more than 100 µs after its first copy: its response goes out again if it is still
kept, else the duplicate is counted (R216). -/
def sentAgain (f : Frame) (x : AcceptedSeq) (s : State) : State :=
  if isHwinResp f ∨ s.clock.now ≤ x.at_ + 100000 then s
  else match (keptOf f.seq s).bind (·.resp) with
    | some r => outFrame r s
    | none => discard 3 s

/-- A duplicate SEQ: a second copy of a held frame, a copy after the act, or a host retransmission (R212, R216, R218). -/
def duplicateFrame (p : Port) (f : Frame) (s : State) : State :=
  match s.ports.slots.find? fun h => h.frame.seq = f.seq with
  | some h => secondCopy p f h s
  | none => match acceptedOf f.seq s with
    | some x => sentAgain f x (lateCopy p f x s)
    | none => s

/-! ## RESYNC (R220) -/

/-- Whether a RESYNC's SEQ was accepted as that RESYNC: its second copy is a duplicate (R220). -/
def resyncSeen (f : Frame) (s : State) : Bool := match keptOf f.seq s with
  | some k => match k.resp with
    | some r => r.type = 0x87
    | none => false
  | none => false

/-- Whether a frame meets the limits of its type (R206, Table 8-2): reserved fields, LENGTH, ADDRESS and ARG. -/
def frameWellFormed (f : Frame) : Bool :=
  let len := f.length.toNat
  let a := f.address.toNat
  f.fflags.toNat < 2 && f.reserved = 0 && len = f.payload.length && len ≤ 4064 && len % 8 = 0 &&
  (if f.type = 0x01 then len = 0 && a % 8 = 0 && f.refSeq = 0 && f.arg = 0
   else if f.type = 0x02 then len = 8 && a % 8 = 0 && f.refSeq = 0 && f.arg = 0
   else if f.type = 0x03 then 8 ≤ len && a % 8 = 0 && f.refSeq = 0 && f.arg = 0
   else if f.type = 0x04 then
     len = 0 && a % 8 = 0 && f.refSeq = 0 && 8 ≤ f.arg.toNat && f.arg.toNat ≤ 4064 && f.arg.toNat % 8 = 0
   else if f.type = 0x05 then len = 16 && a = 0 && f.refSeq = 0 && f.arg = 0
   else if f.type = 0x07 then len = 0 && a = 0 && f.refSeq = 0 && f.arg = 0
   else if f.type = 0x08 then len = 0 && a = 0 && f.refSeq = 0 && f.arg = 0
   else false)

/-- A RESYNC that breaks the limits of its type is answered with BAD_ARGUMENT, with its credit, and nothing else
(R206, R214). -/
def badResync (f : Frame) (s : State) : State :=
  sendFrame (mkFrame 0x87 (f.fflags.getLsbD 0) f.seq Status.badArgument.code 0 [])
    { s with ports := { s.ports with credit := s.ports.credit + 1, creditAt := s.clock.now } }

/-- Whether a first copy from a port is held for the preferred one: both ports are ACTIVE and the port is not the
preferred one (R218). -/
def copyHeld (p : Port) (s : State) : Bool :=
  s.ports.cp0.phase = .active && s.ports.cp1.phase = .active && s.ports.preferred != some p

/-- A first copy of a frame, with the end of its wait. -/
def firstCopy (p : Port) (f : Frame) (s : State) : HeldFrame :=
  ⟨p, f, s.clock.now, if copyHeld p s then some (s.clock.now + s.ports.skew) else none⟩

/-- The second copy of a RESYNC that is held: the preferred one is acted on within the skew limit (R218). -/
def secondResync (p : Port) (f : Frame) (h : HeldFrame) (s : State) : State :=
  if p = h.port then s
  else if some p = s.ports.preferred ∧ s.clock.now ≤ h.skewUntil.getD 0 then
    let s1 := doResync ⟨p, f, h.at_, none⟩ s
    if copiesDiffer f h.frame then differing h.port f.seq f.crc h.frame.crc s1 else s1
  else if copiesDiffer f h.frame then differing p f.seq h.frame.crc f.crc s else s

/-- A RESYNC as it arrives, whatever its SEQ; a later one takes the place of one that is held (R218, R220). -/
def resyncArrives (p : Port) (f : Frame) (s : State) : State :=
  if !frameWellFormed f then badResync f s
  else if resyncSeen f s then duplicateFrame p f s
  else match s.ports.resync.filter fun h => h.frame.seq = f.seq with
    | some h => secondResync p f h s
    | none => settleResync { s with ports := { s.ports with resync := some (firstCopy p f s) } }

/-! ## Acceptance (R206, R212, R214) -/

/-- A frame that is accepted: its SEQ is recorded and it takes a slot, held for the preferred copy while both ports
are ACTIVE and it came on the other one (R218). -/
def acceptFrame (p : Port) (f : Frame) (s : State) : State :=
  let s1 := recordSeq p f s
  trackGap { s1 with ports := { s1.ports with
    slots := s1.ports.slots ++ [firstCopy p f s]
    requests := if isHwinResp f then s1.ports.requests else s1.ports.requests + 1 } }

/-- The host's cumulative grant for HWIN requests, carried by every frame that the G2 takes; requests that waited for it
go out (R205, R215). -/
def takeHostCredit (f : Frame) (s : State) : State :=
  if above f.credit s.ports.hostCredit then
    hwinPump s.ports.hwinWait.length { s with ports := { s.ports with hostCredit := f.credit } }
  else s

/-- A CREDIT frame that breaks the limits of its type is answered with BAD_ARGUMENT (R206). -/
def badCredit (f : Frame) (s : State) : State :=
  sendFrame (mkFrame 0x88 (f.fflags.getLsbD 0) f.seq Status.badArgument.code 0 []) s

/-- Whether a port can hear the host: ACTIVE, with the Col in service. -/
def hears (p : Port) (s : State) : Bool :=
  (portSt p s).phase = .active && !s.boot.colRestart && s.dev.state != .haltedThermal

/-- A copy of a host frame arrives on a port: check word, CREDIT, RESYNC, then its SEQ (R206, R212, R214, R220). -/
def hostFrame (p : Port) (f : Frame) (s : State) : State :=
  if f.crc ≠ frameCrc f ∨ f.length.toNat ≠ f.payload.length then discard 0 s
  else
    if f.type = 0x07 then resyncArrives p f (takeHostCredit f s)
    else if s.ports.highest = none then discard 2 s
    else if f.type = 0x08 then (if frameWellFormed f then takeHostCredit f s else badCredit f s)
    else match classify f.seq s with
      | .noSequence => discard 2 s
      | .stale => discard 1 s
      | .ahead => discard 2 s
      | .duplicate => duplicateFrame p f s
      | .fresh => if !isHwinResp f && 512 ≤ slotsUsed s then portEvent 3 s else acceptFrame p f (takeHostCredit f s)

/-- HOST_FRAME_RECEIVE (R206, R212–R218). -/
def execHostFrameReceive (p : Port) (f : Frame) (s : State) : Step :=
  if hears p s then .next (hostFrame p f s) else .next s

/-- RESYNC (R220). -/
def execResync (p : Port) (f : Frame) (s : State) : Step :=
  if hears p s && f.type = 0x07 then .next (hostFrame p f s) else .next s

/-- HOST_CREDIT_FRAME: the host's CREDIT frame (R214, R215). -/
def execHostCreditFrame (p : Port) (f : Frame) (s : State) : Step :=
  if hears p s && f.type = 0x08 then .next (hostFrame p f s) else .next s

/-- The held copy of a SEQ whose skew limit has passed waits no longer. -/
def skewOver (seq : BitVec 32) (now : Nat) (h : HeldFrame) : HeldFrame := match h.skewUntil with
  | some t => if h.frame.seq = seq ∧ t ≤ now then { h with skewUntil := none } else h
  | none => h

/-- SKEW_LIMIT_EXPIRY: the held copy of a SEQ waits no longer (R218). -/
def execSkewLimitExpiry (seq : BitVec 32) (s : State) : Step :=
  .next (settleResync { s with ports := { s.ports with
    slots := s.ports.slots.map (skewOver seq s.clock.now), resync := s.ports.resync.map (skewOver seq s.clock.now) } })

/-- GAP_TIMER_EXPIRY: 50 µs after a later SEQ was accepted, and every 1 ms while the gap lasts, the G2 names the
missing SEQ (R213). -/
def execGapTimerExpiry (s : State) : Step :=
  match s.ports.gap with
  | none => .next s
  | some (began, last) =>
    let due := match last with
      | none => began + 50000 ≤ s.clock.now
      | some t => t + 1000000 ≤ s.clock.now
    if due && gapOpen s then
      .next (sendGapEvent (s.ports.acted + 1)
        (portEvent 0 { s with ports := { s.ports with gap := some (began, some s.clock.now) } }))
    else .next s

/-- CREDIT_FRAME_TIMER: the total has changed and no other frame has carried it for 1 µs (R214). -/
def execCreditFrameTimer (s : State) : Step :=
  if s.ports.credit ≠ s.ports.creditSent ∧ s.ports.creditAt + 1000 ≤ s.clock.now ∧ anyActive s = true then
    .next (sendCredit s)
  else .next s

/-! ## Acting on frames in SEQ order (R213) -/

/-- The frame the G2 acts on next: the next SEQ, in a slot and no longer held for the preferred copy. -/
def nextFrame (s : State) : Option HeldFrame :=
  s.ports.slots.find? fun h => h.frame.seq = s.ports.acted + 1 ∧ h.skewUntil = none

/-- Whether the given frame is the one to act on now. -/
def isNext (f : Frame) (s : State) : Option HeldFrame :=
  match nextFrame s with
  | some h => if h.frame = f then some h else none
  | none => none

/-- The frame has been acted on: it leaves its slot. -/
def acted (f : Frame) (s : State) : State :=
  trackGap { s with ports := { s.ports with
    slots := s.ports.slots.filter fun h => h.frame.seq != f.seq, acted := f.seq } }

/-- Answers a request: the slot is granted again and the response kept among the last 256 (R210, R214, R216). -/
def answer (h : HeldFrame) (st : Status) (payload : List Byte) (s : State) : State :=
  let f := h.frame
  let s1 := { s with ports := { s.ports with credit := s.ports.credit + 1, creditAt := s.clock.now } }
  let resp := mkFrame (f.type.toNat ||| 0x80) (f.fflags.getLsbD 0) f.seq st.code 0 payload
  let sealed := sealFrame resp s1.ports.devSeq s1
  let s2 := sendFrame resp (acted f s1)
  { s2 with ports := { s2.ports with
      kept := (⟨f.seq, some sealed, h.at_, f.crc, h.port⟩ :: s2.ports.kept).take 256 } }

/-- Whether a host frame's TYPE is a request of Table 8-2 that a row of its own acts on, or a host response. -/
def knownType (f : Frame) : Bool := [0x01, 0x02, 0x03, 0x04, 0x05, 0x89, 0x8A].contains f.type.toNat

/-- A frame that is not of the row's own type: with a TYPE that Table 8-2 does not give the host, it is answered with
BAD_ARGUMENT by whichever row comes to it (R206, log 111). -/
def otherType (h : HeldFrame) (s : State) : Step :=
  if knownType h.frame then .next s else .next (answer h .badArgument [] s)

/-- The access of a frame: the port acted on and its SECURE (R218, R219). -/
def accessOf (h : HeldFrame) : Access := ⟨h.port, h.frame.fflags.getLsbD 0⟩

/-! ## MBOX_POST (R208) -/

/-- The effect of an MBOX_POST that meets the table's limits. -/
def mboxPost (h : HeldFrame) (s : State) : Status × State :=
  let b := h.frame.payload
  let n := field b 0 1
  let flag := field b 1 1
  let w : BitVec 64 := BitVec.ofNat 64 (field b 8 8)
  let a := accessOf h
  if 24 ≤ n ∨ 1 < flag ∨ field b 2 6 ≠ 0 then (.badArgument, s)
  else if 12 ≤ n ∧ !a.secure then (.denied, secureFault a.port h.frame.address.toNat 5 n s)
  else
    let r := partyPost (.host n) w s
    if r.1 = .ok ∧ flag = 1 then (.ok, ringFw (1 <<< n) r.2) else r

/-- MBOX_POST: the frame, when it is the next to act on (R208). -/
def execMboxPost (_p : Port) (f : Frame) (s : State) : Step :=
  match isNext f s with
  | none => .next s
  | some h =>
    if f.type ≠ 0x05 then otherType h s
    else if !frameWellFormed f then .next (answer h .badArgument [] s)
    else
      let r := mboxPost h s
      .next (answer h r.1 [] r.2)

/-! ## The host window (R221) -/

/-- The port a failed host-window access is recorded against: the preferred one, or CP0 (R221). -/
def hwinPort (s : State) : Port := s.ports.preferred.getD .cp0

/-- An access to the host window fails: class D, the read is poisoned or the write dropped (R221). -/
def hwinFail (s : State) : State := faultDOpen (portSource (hwinPort s)) (portEvent 2 s)

/-- HOST_WINDOW_ACCESS: an engine's access to the host window, while a SPILL_HOST loan exists (R221); without one the
window is unmapped (R176). -/
def execHostWindowAccess (cluster : Nat) (write : Bool) (off : Nat) (data : List (BitVec 8)) (s : State) : Step :=
  if !hostLoan s || 2 ^ 36 < off + data.length then .next (faultDOpen (0x2000 + cluster % 660) s)
  else if !anyActive s then .next (hwinFail s)
  else .next (hwinSend cluster write off data s)

/-- Takes an outstanding HWIN request off the list. -/
def dropHwin (seq : BitVec 32) (s : State) : State :=
  { s with ports := { s.ports with hwin := s.ports.hwin.filter fun q => q.seq != seq } }

end Sys2Proof.Machine
end

