-- ==== Sys2Proof/Machine/Clusters.lean ====
section
/-!
DEFINITION. Clusters, cores and engine queues (chapter 3): credits, wait reasons, issue tokens, power gating, the
failure of cores and clusters, and remapping.
-/

namespace Sys2Proof.Machine

/-! ## Access -/

/-- A cluster. -/
def clusterGet (p : Nat) (s : State) : ClusterSt := tget {} s.comp.clusters p

/-- Replaces a cluster. -/
def clusterSet (p : Nat) (x : ClusterSt) (s : State) : State :=
  { s with comp := { s.comp with clusters := tset {} s.comp.clusters p x } }

/-- Key of a core. -/
def coreKey (p c : Nat) : Nat := p * 16 + c

/-- A core. -/
def coreGet (p c : Nat) (s : State) : CoreSt := tget {} s.comp.cores (coreKey p c)

/-- Replaces a core. -/
def coreSet (p c : Nat) (x : CoreSt) (s : State) : State :=
  { s with comp := { s.comp with cores := tset {} s.comp.cores (coreKey p c) x } }

/-- An engine of a core. -/
def CoreSt.eng (x : CoreSt) : Engine → EngineSt
  | .t => x.t | .v => x.v | .m => x.m | .p => x.p

/-- Replaces an engine of a core. -/
def CoreSt.setEng (x : CoreSt) (e : Engine) (y : EngineSt) : CoreSt := match e with
  | .t => { x with t := y } | .v => { x with v := y } | .m => { x with m := y } | .p => { x with p := y }

/-- An engine. -/
def engGet (p c : Nat) (e : Engine) (s : State) : EngineSt := (coreGet p c s).eng e

/-- Replaces an engine. -/
def engSet (p c : Nat) (e : Engine) (y : EngineSt) (s : State) : State :=
  coreSet p c ((coreGet p c s).setEng e y) s

/-- The four engines. -/
def engines : List Engine := [.t, .v, .m, .p]

/-- Number of an engine: T 0, V 1, M 2, P 3. -/
def engNum : Engine → Nat
  | .t => 0 | .v => 1 | .m => 2 | .p => 3

/-- A bank. -/
def bankGet (p c : Nat) (s : State) : Bank := tget {} s.banks.bank (coreKey p c)

/-- Replaces a bank. -/
def bankSet (p c : Nat) (b : Bank) (s : State) : State :=
  { s with banks := { s.banks with bank := tset {} s.banks.bank (coreKey p c) b } }

/-- Whether a core is fenced. -/
def coreFenced (p c : Nat) (s : State) : Bool := isFenced (0x1000 + p) c s

/-- The comb chiplet that lights a cluster: columns 0–10 or 11–21 of its flank (R45). -/
def combChip (p : Nat) : Nat := 2 * (p / 330) + (if p % 330 % 22 < 11 then 0 else 1)

/-- The array of the chiplet that lights a cluster, Table 4-1 (R86). -/
def combArray (p : Nat) : Nat := p % 330 / 22 / 4

/-- Whether a P bank is fenced: itself, or with the comb chiplet that lights it (R116). -/
def bankFenced (p c : Nat) (s : State) : Bool :=
  isFenced (0x3000 + p) c s || (bankGet p c s).state = .fenced

/-- Whether some bank of a cluster is in a pitch check (R107). -/
def checkRunning (p : Nat) (s : State) : Bool :=
  (List.range 16).any fun c => (bankGet p c s).state = .check || (bankGet p c s).state = .relock

/-- Whether some bank is in a pitch check: a pause or a freeze that reaches its engine waits for the check's end (R110). -/
def checkAnywhere (s : State) : Bool :=
  s.banks.bank.any fun e => e.2.state = .check || e.2.state = .relock

/-- A bank enters the state that has claimed it, once its engine is at a boundary: a check in progress is abandoned, its
age kept (R100, R104, R106, R110, R113). -/
def bankEnter (p c : Nat) (st : BankState) (s : State) : State :=
  bankSet p c { bankGet p c s with state := st, claim := none, began := s.clock.now, walks := [], relockAt := none } s

/-- At the boundary of a P engine, what has claimed its bank takes it. -/
def bankBoundary (p c : Nat) (s : State) : State :=
  if (engGet p c .p s).run.isSome then s
  else match (bankGet p c s).claim with
    | some st => bankEnter p c st s
    | none => s

/-- Claims a bank for a state, at once where its engine is at a boundary (R100). -/
def bankClaim (p c : Nat) (st : BankState) (s : State) : State :=
  bankBoundary p c (bankSet p c { bankGet p c s with claim := some st } s)

/-- Whether a P engine computes: in service, or in dark-line mode (R115), and the device not in STANDBY (R270). -/
def bankServes (p c : Nat) (s : State) : Bool :=
  s.dev.state != .standby && !bankFenced p c s && !coreFenced p c s &&
    ((bankGet p c s).state = .inService || (bankGet p c s).state = .darkLine)

/-- Whether a physical cluster exists. -/
def clusterIdx (p : Nat) : Bool := p < 660

/-- Power record of a flank. -/
def flankPower (f : Flank) (s : State) : FlankPower := match f with
  | .north => s.therm.north
  | .south => s.therm.south

/-- Whether a cluster can work: in service, awake, not held by PAUSE, STOP, Cairn or a flank reset. -/
def clusterLive (p : Nat) (s : State) : Bool :=
  clusterIdx p && !clusterOut p s && flankPhase (flankOf p) s = .inService && !(clusterGet p s).gated &&
    !(flankPower (flankOf p) s).stopped && !s.cairn.frozen && s.dev.state != .haltedThermal

/-! ## Graph handles (R164) -/

/-- A graph slot. -/
def slotGet (i : Nat) (s : State) : Graph := tget {} s.graphs.slot i

/-- Replaces a graph slot. -/
def slotSet (i : Nat) (g : Graph) (s : State) : State :=
  { s with graphs := { s.graphs with slot := tset {} s.graphs.slot i g } }

/-- The slot and graph of a handle: slot at [5:0], generation at [31:6]; none when stale or free (R164). -/
def graphAt (h : BitVec 32) (s : State) : Option (Nat × Graph) :=
  let i := h.toNat % 64
  let g := slotGet i s
  if g.state.isSome && g.gen = h.toNat / 64 then some (i, g) else none

/-- The handle of a slot. -/
def handleOf (i : Nat) (g : Graph) : BitVec 32 := BitVec.ofNat 32 (g.gen * 64 + i)

/-- Whether a graph's engines are held: it is paused, or a PAUSE of it has begun (R73, R269). -/
def graphHeld (h : BitVec 32) (s : State) : Bool := match graphAt h s with
  | some (_, g) => g.state = some .paused || g.ending.any fun e => !e.2
  | none => false

/-- Whether PAUSE of its graph holds an operation (R73). -/
def opHeld (p : Nat) (op : EngOp) (s : State) : Bool :=
  match (clusterGet p s).set.find? fun w => w.seq = op.wi with
  | some w => graphHeld w.item.graph s
  | none => false

/-- An operation that no PAUSE holds. -/
def unheld (p : Nat) (s : State) (op : Option EngOp) : Option EngOp := op.filter fun o => !opHeld p o s

/-! ## Credits (R29, R64–R67) -/

/-- The producer's available credit. -/
def QCtr.avail (q : QCtr) : Nat := (q.pGranted - q.pSent).toNat

/-- One entry goes from producer to consumer. -/
def QCtr.send (q : QCtr) : QCtr := { q with pSent := q.pSent + 1, cReceived := q.cReceived + 1 }

/-- The consumer grants credits. -/
def QCtr.grant (q : QCtr) (n : Nat) : QCtr := { q with cGranted := q.cGranted + BitVec.ofNat 32 n }

/-- The update reaches the producer (R65). -/
def QCtr.update (q : QCtr) : QCtr := { q with pGranted := q.cGranted }

/-! ## Sync counters (R70) -/

/-- Whether the counter an operation waits on has reached its value, by serial-number arithmetic. -/
def waitMet (p c : Nat) (w : Option (SyncRef × BitVec 32)) (s : State) : Bool := match w with
  | none => true
  | some (r, v) =>
    if r.cluster then reached (tget 0 (clusterGet p s).sync r.index) v
    else reached (tget 0 (coreGet p c s).sync r.index) v

/-- Increments a core sync counter. -/
def bumpCoreSync (p c i : Nat) (s : State) : State :=
  let x := coreGet p c s
  coreSet p c { x with sync := tmod 0 x.sync i (· + 1) } s

/-- Increments a cluster sync counter. -/
def bumpClusterSync (p i : Nat) (s : State) : State :=
  let x := clusterGet p s
  clusterSet p { x with sync := tmod 0 x.sync i (· + 1) } s

/-- Whether a work item's WAIT is met: modulo 2^24 on the low bits of the counter (Table 3-6). -/
def workWaitMet (p : Nat) (w : WorkItem) (s : State) : Bool :=
  let i := w.wait.toNat % 256
  if i = 0xFF then true
  else
    let v := w.wait.toNat / 256
    let n := (tget 0 (clusterGet p s).sync i).toNat % 2 ^ 24
    (n + 2 ^ 24 - v) % 2 ^ 24 < 2 ^ 23

/-! ## Issue tokens (R62) -/

/-- A sensor. -/
def sensorGet (j : Nat) (s : State) : Sensor := tget {} s.therm.sensor j

/-- Whether a sensor counts: sampled and not excluded. -/
def sensorLive (j : Nat) (s : State) : Bool := (sensorGet j s).sampled && !(sensorGet j s).excluded

/-- The hottest of some sensors. -/
def hottest (js : List Nat) (s : State) : Option Int :=
  (js.filter fun j => sensorLive j s).foldl (fun m j => match m with
    | none => some (sensorGet j s).reading
    | some v => some (max v (sensorGet j s).reading)) none

/-- Table 3-4: junction temperature in °C and guaranteed steps per microsecond at LOW, NOM and HIGH (R16, R60). -/
def rateRows : List (Int × Nat × Nat × Nat) :=
  [(65, 1550, 2000, 2300), (75, 1511, 1950, 2243), (85, 1473, 1900, 2185), (95, 1434, 1850, 2128), (105, 1395, 1800, 2070),
    (110, 1376, 1775, 2041), (115, 1356, 1750, 2012), (125, 1317, 1700, 1955)]

/-- A column of Table 3-4. -/
def rateAt (pt : Point) (r : Int × Nat × Nat × Nat) : Nat := match pt with
  | .low => r.2.1
  | .nom => r.2.2.1
  | .high => r.2.2.2

/-- The guaranteed rate at a temperature in 1/16 °C, in 1/160 of a step per microsecond: linear between the rows, level
outside them (R60). -/
def rateOver (pt : Point) (x : Int) : List (Int × Nat × Nat × Nat) → Nat
  | [] => 0
  | [a] => 160 * rateAt pt a
  | a :: b :: t =>
    if x ≤ 16 * a.1 then 160 * rateAt pt a
    else if x ≤ 16 * b.1 then
      160 * rateAt pt a - (rateAt pt a - rateAt pt b) * (x - 16 * a.1).toNat * (10 / (b.1 - a.1).toNat)
    else rateOver pt x (b :: t)

/-- The point whose rate holds: the lower of the two while the rail moves (R61). -/
def ratePoint (x : FlankPower) : Point := match x.moving with
  | some q => if q.code ≤ x.point.code then q else x.point
  | none => x.point

/-- The step rate of a flank, in 1/160 of a step per microsecond: the guaranteed value at its hottest cluster sensor; the
first row before any is sampled (R60, log 97). -/
def fabricRate (f : Flank) (s : State) : Nat :=
  let pt := ratePoint (flankPower f s)
  match hottest ((List.range 330).map (flankNum f * 330 + ·)) s with
  | some x => rateOver pt x rateRows
  | none => rateOver pt 0 rateRows

/-- Tokens refilled in a microsecond, × 160: r/16 of what the 16 T and 16 V engines would consume (R62, log 97). -/
def refill160 (f : Flank) (s : State) : Nat := 2 * fabricRate f s * (flankPower f s).rate

/-- Depth of the bucket: 1 µs of refill or 3,840 tokens, whichever is larger. -/
def bucketDepth (f : Flank) (s : State) : Nat := max (refill160 f s / 160) 3840

/-- Tokens spent and not yet refilled. -/
def tokensSpent (p : Nat) (s : State) : Nat :=
  let x := clusterGet p s
  x.spent - refill160 (flankOf p) s * (s.clock.now - x.filledAt) / 160000

/-- Where a change alters the refill of a flank, its buckets are first filled at the refill that held (R62). -/
def settleTokens (old s : State) : State :=
  [Flank.north, Flank.south].foldl (fun t f =>
    if refill160 f old = refill160 f s then t
    else old.comp.clusters.foldl (fun u e =>
      if flankOf e.1 = f && e.2.spent != 0
      then clusterSet e.1 { clusterGet e.1 u with spent := tokensSpent e.1 old, filledAt := s.clock.now } u else u) t) s

/-- Replaces the power record of a flank. -/
def setFlankPower (f : Flank) (x : FlankPower) (s : State) : State :=
  settleTokens s (match f with
    | .north => { s with therm := { s.therm with north := x } }
    | .south => { s with therm := { s.therm with south := x } })

/-- Replaces a sensor. -/
def sensorSet (j : Nat) (x : Sensor) (s : State) : State :=
  settleTokens s { s with therm := { s.therm with sensor := tset {} s.therm.sensor j x } }

/-- Whether the bucket holds a cost; at r = 16 it never limits issue. -/
def tokensFor (p cost : Nat) (s : State) : Bool :=
  (flankPower (flankOf p) s).rate = 16 || cost + tokensSpent p s ≤ bucketDepth (flankOf p) s

/-- Spends tokens. -/
def spendTokens (p cost : Nat) (s : State) : State :=
  let x := clusterGet p s
  let n := if (flankPower (flankOf p) s).rate = 16 then 0 else tokensSpent p s + cost
  clusterSet p { x with spent := n, filledAt := s.clock.now } s

/-! ## Wait reasons (R72) -/

/-- Code of a wait reason, Table 3-7. -/
def Wait.code : Wait → Nat
  | .running => 0 | .fenced => 1 | .paused => 2 | .gated => 3 | .throttled => 4 | .light => 5 | .weights => 6
  | .coreSync => 7 | .clusterSync => 8 | .memory => 9 | .remote => 10 | .credit => 11 | .store => 12 | .idle => 13

/-- Whether an operation is a P_FILL. -/
def isFill (op : EngOp) : Bool := match op.body with
  | .pFill _ _ _ _ => true
  | _ => false

/-- The slot a P operation names. -/
def slotOf (op : EngOp) : Option Nat := match op.body with
  | .pFill k _ _ _ => some k
  | .pRun k _ _ _ _ _ _ _ _ _ _ => some k
  | _ => none

/-- The next P_RUN of a queue and the operations before it. -/
def splitRun : List EngOp → Option (List EngOp × EngOp)
  | [] => none
  | op :: t => if isFill op then (splitRun t).map fun r => (op :: r.1, r.2) else some ([], op)

/-- The next P_FILL of a queue and the operations before it. -/
def splitFill : List EngOp → Option (List EngOp × EngOp)
  | [] => none
  | op :: t => if isFill op then some ([], op) else (splitFill t).map fun r => (op :: r.1, r.2)

/-- Whether a P_RUN waits for an earlier P_FILL of its slot (R98). -/
def weightsWanted (q : List EngOp) : Bool := match splitRun q with
  | some (before, op) => before.any fun o => slotOf o = slotOf op
  | none => false

/-- The operation that heads an engine's stream: the P engine's P_RUN stream, its fills where that is empty, any other
engine's queue. -/
def headOp (e : Engine) (x : EngineSt) : Option EngOp := match e with
  | .p => (splitRun x.q).elim x.q.head? fun r => some r.2
  | _ => x.q.head?

/-- Whether the operation that heads an engine's stream is in progress. -/
def headRuns (e : Engine) (x : EngineSt) : Bool :=
  if e = .p && (splitRun x.q).isNone then x.fill.isSome else x.run.isSome

/-- Whether a cluster serves the placement of a graph that a PAUSE holds (R73). -/
def pausedHere (p : Nat) (s : State) : Bool :=
  s.graphs.slot.any fun e => (e.2.state = some .paused || e.2.ending.any fun x => !x.2) &&
    e.2.placed.any fun x => x.2.any fun y => physOf y s = p

/-- Whether the signal of an operation can be applied now: a remote increment needs a credit (R64). -/
def signalReady (g : Signal) (s : State) : Bool := match g with
  | .remote q _ => clusterOut q s || 0 < (clusterGet q s).rc.avail
  | _ => true

/-- An engine's wait reason: the lowest-numbered code that applies, other than RUNNING (R72). -/
def waitReason (p c : Nat) (e : Engine) (s : State) : Wait :=
  let x := engGet p c e s
  let cl := clusterGet p s
  let reqs := match x.run with
    | some r => r.requests
    | none => []
  let unmet : Option Bool := match headOp e x with
    | some op => if headRuns e x || waitMet p c op.wait s then none else op.wait.map (·.1.cluster)
    | none => none
  let idle := x.q = [] && x.run.isNone && x.fill.isNone
  if clusterOut p s || coreFenced p c s || (e = .p && bankFenced p c s) then .fenced
  else if s.cairn.frozen || (match headOp e x with
    | some op => opHeld p op s
    | none => pausedHere p s) then .paused
  else if cl.gated then .gated
  else if x.throttled && (e = .t || e = .v) then .throttled
  else if e = .p && !bankServes p c s then .light
  else if e = .p && x.run.isNone && weightsWanted x.q then .weights
  else if unmet = some false then .coreSync
  else if unmet = some true then .clusterSync
  else if reqs.any (fun r => !r.remote) then .memory
  else if reqs != [] then .remote
  else if x.run.any (·.held) || x.fill.any (·.held) then .credit
  else if idle then .idle
  else .running

/-! ## Power gating (R74, R410) -/

/-- Whether a cluster has nothing to do: queue, working set and engine queues empty, nothing in progress. -/
def clusterIdle (p : Nat) (s : State) : Bool :=
  let x := clusterGet p s
  x.q = [] && x.set = [] && x.rq = [] &&
    (List.range 16).all fun c => engines.all fun e =>
      (engGet p c e s).q = [] && (engGet p c e s).run.isNone && (engGet p c e s).fill.isNone

/-- Gates a cluster; each core counts an entry to power-gating. -/
def gateCluster (p : Nat) (s : State) : State :=
  let s1 := clusterSet p { clusterGet p s with gated := true, idleAt := s.clock.now } s
  (List.range 16).foldl (fun t c => countCore p c 7 1 t) s1

/-- Whether an engine of a cluster has an operation in progress, or a bank of it its pitch check. -/
def clusterBusy (p : Nat) (s : State) : Bool :=
  (List.range 16).any fun c => (bankGet p c s).state = .check ||
    engines.any fun e => (engGet p c e s).run.isSome || (engGet p c e s).fill.isSome

/-- At STOP a cluster gates once every operation in progress has ended, with no wait (R427). -/
def stopGate (p : Nat) (s : State) : State :=
  if (flankPower (flankOf p) s).stopped && !clusterOut p s && !(clusterGet p s).gated && !clusterBusy p s
  then gateCluster p s else s

/-- A pause length in microseconds, saturating (R410). -/
def pauseUs (from_ now : Nat) : BitVec 32 := BitVec.ofNat 32 (min ((now - from_) / 1000) 0xFFFFFFFF)

/-- Wakes a cluster: its first event carries RESUMED and the length of the gated interval (R74). -/
def wakeCluster (p : Nat) (s : State) : State :=
  let x := clusterGet p s
  if x.gated then
    let us := pauseUs x.idleAt s.clock.now
    let s1 := clusterSet p { x with gated := false, resumed := some us, idleAt := s.clock.now } s
    { s1 with counts := { s1.counts with
        paused := tset 0 (tset 0 s1.counts.paused (0x1000 + p) (us.toNat + 1)) (0x2000 + p) (us.toNat + 1) } }
  else s

/-- The RESUMED of a cluster's next event, taken once. -/
def takeResumed (p : Nat) (s : State) : Option (BitVec 32) × State :=
  let x := clusterGet p s
  (x.resumed, if x.resumed.isSome then clusterSet p { x with resumed := none } s else s)

/-- A cluster or core event with the RESUMED of its region (R35). -/
def reportFrom (p : Nat) (e : FaultInput) (s : State) : State :=
  let (r, s1) := takeResumed p s
  report { e with resumed := r } s1

/-! ## Executions touched by a failure (R38, R80) -/

/-- Tensors that some tensors reach through the operators of a graph, in as many passes as there are operators. -/
def downstream (ops : List Operator) : Nat → List Nat → List Nat
  | 0, ts => ts
  | k + 1, ts =>
    let more := (ops.filter fun o => o.ins.any ts.contains).flatMap (·.outs)
    if more.all ts.contains then ts else downstream ops k (more.foldl (fun l t => setInsert t l) ts)

/-- Output tensors that depend on what a graph computes on an exposed cluster, through its intermediates too (R75, R80). -/
def outputsOn (g : Graph) (e : Nat) : List Nat :=
  (downstream g.b.operators g.b.operators.length
      ((g.placed.filter fun x => x.2.contains e).flatMap fun x => ((g.b.operators[x.1]?).map (·.outs)).getD [])).filter
    fun t => ((g.b.tensors[t]?).map (·.kind)) = some 1

/-- Adds a failed part once. -/
def addPart (f : PartFail) (l : List PartFail) : List PartFail :=
  if l.any fun x => x.kind = f.kind && x.id = f.id then l else l ++ [f]

/-- Adds poisoned outputs, in ascending order and once. -/
def addPoisoned (ts : List Nat) (l : List Nat) : List Nat := ts.foldl (fun acc t => setInsert t acc) l

/-- The work items of an execution on an exposed cluster end at once; a cluster of its placement is a failed part, for the
execution keeps its mapping until it ends (R80, R83). -/
def failPart (g : Graph) (e cause : Nat) (x : Execution) : Execution :=
  if x.begun && g.placed.any fun w => w.2.contains e then
    { x with work := x.work.filter fun w => w.1 != e, failed := addPart ⟨0, e, cause⟩ x.failed
             poisoned := addPoisoned (outputsOn g e) x.poisoned }
  else x

/-- Applies a change to the running execution of every graph. -/
def mapRunning (f : Graph → Execution → Execution) (s : State) : State :=
  { s with graphs := { s.graphs with slot := s.graphs.slot.map fun e =>
      (e.1, { e.2 with running := e.2.running.map (f e.2) }) } }

/-! ## Failure of cores and clusters (R77–R83) -/

/-- Discards the queued operations of an engine, granting a credit for each (R67). -/
def discardEngine (x : EngineSt) : EngineSt :=
  { x with q := [], ctr := x.ctr.grant x.q.length, run := none, fill := none, throttled := false, waited := false,
           fillWaited := false }

/-- The operations a core holds, by work item. -/
def coreItems (x : CoreSt) : List (BitVec 32) := (x.t.q ++ x.v.q ++ x.m.q ++ x.p.q).map (·.wi)

/-- A core with its queued operations discarded and its staged weights lost. -/
def discardCore (x : CoreSt) : CoreSt :=
  { x with t := discardEngine x.t, v := discardEngine x.v, m := discardEngine x.m, p := discardEngine x.p, slots := [] }

/-- An engine without the operations of some work items, granting a credit for each (R67). -/
def withoutItems (wis : List (BitVec 32)) (e : Engine) (x : EngineSt) : EngineSt :=
  let gone (op : Option EngOp) : Bool := op.any fun o => wis.contains o.wi
  let q := x.q.filter fun o => !wis.contains o.wi
  { x with
    q := q, ctr := x.ctr.grant (x.q.length - q.length)
    run := if gone (if e = .p then (splitRun x.q).map (·.2) else x.q.head?) then none else x.run
    fill := if gone ((splitFill x.q).map (·.2)) then none else x.fill }

/-- A core without the operations of some work items. -/
def coreWithout (wis : List (BitVec 32)) (x : CoreSt) : CoreSt :=
  { x with t := withoutItems wis .t x.t, v := withoutItems wis .v x.v, m := withoutItems wis .m x.m, p := withoutItems wis .p x.p }

/-- A work item that runs again as a whole (R77). -/
def WorkSt.again (w : WorkSt) : WorkSt :=
  { w with issued := false, pending := 0, poisoned := false, warn := 0, fall := [] }

/-- Empties the queues of a core. Every work item that had an operation there runs again as a whole, so that what it has on
the other cores is discarded too; one in its final phase still owes the sends not acknowledged (R67, R77). -/
def dropCore (p c : Nat) (s : State) : State :=
  let x := coreGet p c s
  let held := coreItems x
  let s1 := coreSet p c (discardCore x) s
  let cl := clusterGet p s1
  let whole := (cl.set.filter fun w => !w.final && held.contains w.seq).map (·.seq)
  let s2 := if whole = [] then s1
    else (List.range 16).foldl (fun t k => coreSet p k (coreWithout whole (coreGet p k t)) t) s1
  let after (w : WorkSt) : WorkSt :=
    if whole.contains w.seq then w.again
    else if w.final then { w with pending := w.pending - held.count w.seq } else w
  clusterSet p { cl with set := cl.set.map after } s2

/-- Empties a cluster's queues with credits granted; its exposed id waits for a spare. -/
def dropCluster (p : Nat) (s : State) : State :=
  let x := clusterGet p s
  let s1 := clusterSet p { x with q := [], qc := x.qc.grant x.q.length, set := [], rq := [],
                                  rc := x.rc.grant x.rq.length } s
  let s2 := (List.range 16).foldl (fun t c => coreSet p c (discardCore (coreGet p c t)) t) s1
  match exposedOf p s with
  | none => s2
  | some e =>
    mapRunning (fun g x => failPart g e (Status.unitFenced.code) x)
      { s2 with comp := { s2.comp with unbound := setInsert e s2.comp.unbound } }

/-- A cluster that is fenced stops serving: what R80 says beside its class U fault. -/
def fenceCluster (p : Nat) (s : State) : State :=
  refreshDegraded (dropCluster p { s with comp := { s.comp with sparesGone := setInsert p s.comp.sparesGone } })

/-- A cluster fails: class U against it, its work ends, its id waits for a spare (R80). A gated one has woken, so that its
event carries RESUMED (R35). -/
def failClusterWith (p syn : Nat) (s : State) : State :=
  if isFenced (0x2000 + p) 0 s then s else fenceCluster p (reportFrom p (evt (0x2000 + p) .u syn) (wakeCluster p s))

/-- A cluster fails, with a syndrome the spec does not give. -/
def failCluster (p : Nat) (s : State) : State :=
  let (n, s1) := useFree s
  failClusterWith p (Config.free64 n).toNat s1

/-- Fenced cores of a cluster (R78). -/
def fencedCores (p : Nat) (s : State) : Nat := ((List.range 16).filter fun c => coreFenced p c s).length

/-- What the fencing of a core brings: its operations are discarded and re-run elsewhere; the fourth fails the
cluster (R77, R78). -/
def fenceCore (p c : Nat) (s : State) : State :=
  let s1 := dropCore p c s
  if 4 ≤ fencedCores p s1 then failCluster p s1 else s1

/-- CORE_FAILURE (R77). -/
def execCoreFailure (p c : Nat) (s : State) : Step :=
  if !clusterIdx p || 16 ≤ c || coreFenced p c s || isFenced (0x2000 + p) 0 s then .next s
  else .next (fenceCore p c (reportFrom p (evt (0x1000 + p) .u c) (wakeCluster p s)))

/-- CLUSTER_FAILURE (R80). -/
def execClusterFailure (p : Nat) (s : State) : Step :=
  if clusterIdx p then .next (failCluster p s) else .next s

/-! ## Remapping (R82, R83) -/

/-- Distance of two physical clusters of a flank in the mesh. -/
def meshDistance (p q : Nat) : Nat :=
  let a := p % 330
  let b := q % 330
  (max (a % 22) (b % 22) - min (a % 22) (b % 22)) + (max (a / 22) (b / 22) - min (a / 22) (b / 22))

/-- Spare clusters left on a flank: physical clusters that serve no exposed id, are in service and were never bound
or found bad. -/
def sparesOf (f : Flank) (s : State) : List Nat :=
  ((List.range 330).map fun i => flankNum f * 330 + i).filter fun p =>
    !clusterOut p s && !s.comp.sparesGone.contains p && (exposedOf p s).isNone

/-- The nearest spare; a tie goes to the lower physical index (R82). -/
def nearestSpare (p : Nat) (l : List Nat) : Option Nat :=
  l.foldl (fun best q => match best with
    | none => some q
    | some b => if meshDistance p q < meshDistance p b then some q else some b) none

/-- Binds an unbound exposed id to a spare of its flank; with none left it stays fenced (R82). -/
def bindSpare (e : Nat) (s : State) : State :=
  if !s.comp.unbound.contains e then s
  else
    let old := physOf e s
    match nearestSpare old (sparesOf (flankOf old) s) with
    | none => s
    | some q =>
      { s with comp := { s.comp with
          remap := tset 0 s.comp.remap e (q + 1), unbound := setErase e s.comp.unbound
          sparesGone := setInsert q s.comp.sparesGone } }

/-- Whether an exposed id is reported fenced with no spare to take it (R83). -/
def hardFenced (e : Nat) (s : State) : Bool :=
  s.comp.unbound.contains e && (sparesOf (flankOf (physOf e s)) s) = [] ||
    (!s.comp.unbound.contains e && clusterOut (physOf e s) s)

end Sys2Proof.Machine
end

