-- ==== Sys2Proof/Machine/Reals.lean ====
section
/-!
DEFINITION. Elementary functions in fixed point, to far more digits than FP32 holds: the values about which Table 5-3 bounds
the transcendental results of the V engine (R130). A fixed-point number x stands for x / 2^256.
-/

namespace Sys2Proof.Machine

/-- One. -/
def fxOne : Int := 2 ^ 256

/-- Product. -/
def fxMul (a b : Int) : Int := a * b / 2 ^ 256

/-- The natural logarithm of 2. -/
def fxLn2 : Int := 80260960185991308862233904206310070533990667611589946606122867505419956976171

/-- Twice π. -/
def fxTwoPi : Int := 727543153783532648560469885555459725306786754656784859917544302235877788932370

/-- Two over the square root of π. -/
def fxTwoOverRootPi : Int := 130657381209852114387528029350014196574164286124850014242073919076264802271585

/-- Sum of n terms of a series: from the first term, each next one by its number. -/
def fxSeries (n : Nat) (first : Int) (next : Nat → Int → Int) : Int :=
  ((List.range n).foldl (fun (a : Int × Int) k => (a.1 + a.2, next k a.2)) (0, first)).1

/-- e^r for 0 ≤ r < 1. -/
def fxExpFrac (r : Int) : Int := fxSeries 70 fxOne fun k t => fxMul t r / (k + 1)

/-- 2^x as a fixed-point number from 1 up to 2 and a power of two. -/
def fxExp2 (x : Int) : Int × Int := (fxExpFrac (fxMul (x % 2 ^ 256) fxLn2), x / 2 ^ 256)

/-- A fixed-point number times a power of two. -/
def fxShift (x k : Int) : Int := match k with
  | .ofNat n => x * 2 ^ n
  | .negSucc n => x / 2 ^ (n + 1)

/-- log2 of m × 2^e, for m > 0. -/
def fxLog2 (m : Nat) (e : Int) : Int :=
  let l := Nat.log2 m
  let z := ((m : Int) - 2 ^ l) * 2 ^ 256 / (m + 2 ^ l)
  let zz := fxMul z z
  let ln := 2 * ((List.range 100).foldl (fun (a : Int × Int) k => (a.1 + a.2 / (2 * k + 1), fxMul a.2 zz)) (0, z)).1
  (l + e) * 2 ^ 256 + ln * 2 ^ 256 / fxLn2

/-- sin x. -/
def fxSin (x : Int) : Int :=
  let r := x % fxTwoPi
  let rr := fxMul r r
  fxSeries 90 r fun k t => -(fxMul t rr) / ((2 * k + 2) * (2 * k + 3))

/-- cos x. -/
def fxCos (x : Int) : Int :=
  let r := x % fxTwoPi
  let rr := fxMul r r
  fxSeries 90 fxOne fun k t => -(fxMul t rr) / ((2 * k + 1) * (2 * k + 2))

/-- tanh x for 0 ≤ x ≤ 32. -/
def fxTanh (x : Int) : Int :=
  let (m, n) := fxExp2 (2 * x * 2 ^ 256 / fxLn2)
  let e := fxShift m n
  (e - fxOne) * 2 ^ 256 / (e + fxOne)

/-- erf x for 0 ≤ x ≤ 8. -/
def fxErf (x : Int) : Int :=
  let xx := fxMul x x
  let s := ((List.range 280).foldl (fun (a : Int × Int) k =>
    (a.1 + a.2 / (2 * k + 1), -(fxMul a.2 xx) / (k + 1))) (0, x)).1
  fxMul s fxTwoOverRootPi

end Sys2Proof.Machine
end

