-- ==== Sys2Proof/Machine/Formats.lean ====
section
/-!
DEFINITION. Number formats and arithmetic (chapter 5): encodings, exact dyadic values, rounding, block scaling, and
the operations of one lane of the V engine.
-/

namespace Sys2Proof.Machine

/-! ## Values -/

/-- An exact value: NaN, an infinity, or (−1)^neg × m × 2^e, with signed zero. -/
inductive Num where
  | nan
  | inf (neg : Bool)
  | fin (neg : Bool) (m : Nat) (e : Int)
  deriving DecidableEq, Repr

/-- +0. -/
def Num.zero : Num := .fin false 0 0

/-- Whether a value is zero of either sign. -/
def Num.isZero : Num → Bool
  | .fin _ 0 _ => true
  | _ => false

/-- Whether a value is finite. -/
def Num.isFin : Num → Bool
  | .fin _ _ _ => true
  | _ => false

/-- Whether a value is NaN. -/
def Num.isNan : Num → Bool
  | .nan => true
  | _ => false

/-- m × 2^k for a shift that may be negative, towards zero. -/
def scaleNat (m : Nat) (k : Int) : Nat := match k with
  | .ofNat n => m * 2 ^ n
  | .negSucc n => m / 2 ^ (n + 1)

/-- The value as an integer in units of 2^q, exact when q is at or below its exponent. -/
def Num.units (q : Int) : Num → Int
  | .fin neg m e => if neg then -(scaleNat m (e - q) : Int) else scaleNat m (e - q)
  | _ => 0

/-- The value of an integer in units of 2^q. -/
def Num.ofInt (i q : Int) : Num := .fin (decide (i < 0)) i.natAbs q

/-- Exact product; zero times an infinity is NaN (R127, R129). -/
def Num.mul : Num → Num → Num
  | .nan, _ => .nan
  | _, .nan => .nan
  | .inf a, .inf b => .inf (a != b)
  | .inf a, .fin b m _ => if m = 0 then .nan else .inf (a != b)
  | .fin a m _, .inf b => if m = 0 then .nan else .inf (a != b)
  | .fin a m e, .fin b n f => .fin (a != b) (m * n) (e + f)

/-- Negation. -/
def Num.neg : Num → Num
  | .nan => .nan
  | .inf a => .inf (!a)
  | .fin a m e => .fin (!a) m e

/-- Absolute value. -/
def Num.abs : Num → Num
  | .nan => .nan
  | .inf _ => .inf false
  | .fin _ m e => .fin false m e

/-- Exact sum; opposite infinities give NaN; an exact zero is −0 only from two zeros of negative sign (R129). -/
def Num.add : Num → Num → Num
  | .nan, _ => .nan
  | _, .nan => .nan
  | .inf a, .inf b => if a = b then .inf a else .nan
  | .inf a, .fin _ _ _ => .inf a
  | .fin _ _ _, .inf b => .inf b
  | .fin a m e, .fin b n f =>
    let q := min e f
    let i := Num.units q (.fin a m e) + Num.units q (.fin b n f)
    if i = 0 then .fin (a && b && m == 0 && n == 0) 0 0 else Num.ofInt i q

/-- Exact sum of a list. -/
def numSum (x : Num) (l : List Num) : Num := l.foldl Num.add x

/-- Whether a < b for numbers that are not NaN; −0 counts as below +0 when `tot` is set. -/
def Num.lt (tot : Bool) : Num → Num → Bool
  | .nan, _ => false
  | _, .nan => false
  | .inf a, .inf b => a && !b
  | .inf a, .fin _ _ _ => a
  | .fin _ _ _, .inf b => !b
  | .fin a m e, .fin b n f =>
    let q := min e f
    let i := Num.units q (.fin a m e)
    let j := Num.units q (.fin b n f)
    i < j || (tot && i == 0 && j == 0 && a && !b)

/-- Equality of numbers by value. -/
def Num.eqv (x y : Num) : Bool := !x.isNan && !y.isNan && !Num.lt false x y && !Num.lt false y x

/-! ## Encodings (R120, Table 5-2) -/

/-- A floating encoding: exponent bits, mantissa bits, bias, largest finite magnitude code, code of infinity and
canonical NaN where the format has them. -/
structure Enc where
  eb : Nat
  mb : Nat
  bias : Nat
  maxc : Nat
  infc : Option Nat
  nanc : Option Nat
  deriving DecidableEq, Repr

/-- The floating encodings; integer formats have none. -/
def encOf : Fmt → Option Enc
  | .fp32 => some ⟨8, 23, 127, 0x7F7FFFFF, some 0x7F800000, some 0x7FC00000⟩
  | .bf16 => some ⟨8, 7, 127, 0x7F7F, some 0x7F80, some 0x7FC0⟩
  | .fp16 => some ⟨5, 10, 15, 0x7BFF, some 0x7C00, some 0x7E00⟩
  | .e4m3 => some ⟨4, 3, 7, 0x7E, none, some 0x7F⟩
  | .e5m2 => some ⟨5, 2, 15, 0x7B, some 0x7C, some 0x7E⟩
  | .e3m2 => some ⟨3, 2, 3, 0x1F, none, none⟩
  | .e2m3 => some ⟨2, 3, 1, 0x1F, none, none⟩
  | .e2m1 => some ⟨2, 1, 1, 0x7, none, none⟩
  | .int8 => none
  | .int4 => none

/-- Bits of an element (Table 5-1). -/
def fmtBits : Fmt → Nat
  | .fp32 => 32 | .bf16 => 16 | .fp16 => 16 | .e4m3 => 8 | .e5m2 => 8 | .e3m2 => 6 | .e2m3 => 6 | .e2m1 => 4
  | .int8 => 8 | .int4 => 4

/-- The formats with an E8M0 scale for each block of 32 (R123). -/
def blockScaled : Fmt → Bool
  | .e4m3 => true | .e5m2 => true | .e3m2 => true | .e2m3 => true | .e2m1 => true | .int4 => true
  | .fp32 => false | .bf16 => false | .fp16 => false | .int8 => false

/-- Number of a format, Table 5-1. -/
def fmtNum : Fmt → Nat
  | .fp32 => 1 | .bf16 => 2 | .fp16 => 3 | .e4m3 => 4 | .e5m2 => 5 | .e3m2 => 6 | .e2m3 => 7 | .e2m1 => 8
  | .int8 => 9 | .int4 => 10

/-- The storage formats in the order of Table 5-1. -/
def allFmts : List Fmt := [.fp32, .bf16, .fp16, .e4m3, .e5m2, .e3m2, .e2m3, .e2m1, .int8, .int4]

/-- The format of a number 1 to 10. -/
def fmtOf (n : Nat) : Option Fmt := if n = 0 then none else allFmts[n - 1]?

/-- Decodes a code of a floating encoding: e all ones is special where the format has an infinity; a format with a
NaN and no infinity (E4M3) has it at the top code. -/
def decodeEnc (f : Enc) (w : Nat) : Num :=
  let neg := bitOf w (f.eb + f.mb)
  let mag := w % 2 ^ (f.eb + f.mb)
  let m := mag % 2 ^ f.mb
  let ex := mag / 2 ^ f.mb
  if f.maxc < mag then (if some mag = f.infc then .inf neg else .nan)
  else if ex = 0 then .fin neg m (1 - (f.bias : Int) - f.mb)
  else .fin neg (2 ^ f.mb + m) ((ex : Int) - f.bias - f.mb)

/-- Decodes an element code without its block scale. -/
def decodeElt (f : Fmt) (w : Nat) : Num := match encOf f with
  | some e => decodeEnc e w
  | none => Num.ofInt (toSigned (fmtBits f) w) 0

/-- An FP32 word as a value. -/
def ofF32 (w : BitVec 32) : Num := match encOf .fp32 with
  | some e => decodeEnc e w.toNat
  | none => .nan

/-- The value of a scale code; 0xFF is NaN (R123). -/
def scaleNum (k : Nat) : Num := if k = 255 then .nan else .fin false 1 ((k : Int) - 127)

/-! ## Rounding (R131–R133) -/

/-- Magnitude in units of the destination's step at that magnitude: its floor code, and the remainder over the step
as a fraction (numerator, denominator). The code counts steps from zero, so that neighbours differ by 1. -/
def floorCode (f : Enc) (m : Nat) (e : Int) : Nat × Nat × Nat :=
  if m = 0 then (0, 0, 1)
  else
    let qmin : Int := 1 - (f.bias : Int) - f.mb
    let qe : Int := max ((Nat.log2 m : Int) + e - f.mb) qmin
    let base := (qe - qmin).toNat * 2 ^ f.mb
    match e - qe with
    | .ofNat k => (base + m * 2 ^ k, 0, 1)
    | .negSucc k => (base + m / 2 ^ (k + 1), m % 2 ^ (k + 1), 2 ^ (k + 1))

/-- Nearest-even magnitude code, without bound. -/
def nearCode (f : Enc) (m : Nat) (e : Int) : Nat :=
  let (c, r, d) := floorCode f m e
  if 2 * r < d then c else if d < 2 * r then c + 1 else c + c % 2

/-- How a conversion rounds: to nearest even, or stochastically with a 16-bit draw (R131, R132). -/
inductive Rnd where
  | near
  | draw (r : BitVec 16)
  deriving DecidableEq, Repr

/-- Rounded magnitude code, without bound; above the largest finite value nearest even holds (R132). -/
def roundCode (f : Enc) (rnd : Rnd) (m : Nat) (e : Int) : Nat := match rnd with
  | .near => nearCode f m e
  | .draw r =>
    let (c, x, d) := floorCode f m e
    if f.maxc < c || (c = f.maxc && x != 0) then nearCode f m e
    else if r.toNat < x * 65536 / d then c + 1 else c

/-- The result of a conversion: a code, with the warnings it raises (R134). -/
structure Conv where
  code : Nat
  clamped : Bool
  nanZero : Bool
  deriving DecidableEq, Repr

/-- Puts the sign in its place. -/
def signCode (f : Enc) (neg : Bool) (c : Nat) : Nat := c + bit neg * 2 ^ (f.eb + f.mb)

/-- Conversion into a floating format, Table 5-4 (R133). -/
def encodeNum (f : Enc) (rnd : Rnd) (sat : Bool) (x : Num) : Conv := match x with
  | .nan => ⟨f.nanc.getD 0, false, false⟩
  | .inf neg =>
    match f.infc with
    | some c => if sat then ⟨signCode f neg f.maxc, true, false⟩ else ⟨signCode f neg c, false, false⟩
    | none => ⟨signCode f neg f.maxc, true, false⟩
  | .fin neg m e =>
    let c := roundCode f rnd m e
    if c ≤ f.maxc then ⟨signCode f neg c, false, false⟩
    else match f.infc with
      | some i => if sat then ⟨signCode f neg f.maxc, true, false⟩ else ⟨signCode f neg i, false, false⟩
      | none => ⟨signCode f neg f.maxc, true, false⟩

/-- |m × 2^e| rounded to an integer. -/
def roundMag (rnd : Rnd) (m : Nat) (e : Int) : Nat := match e with
  | .ofNat k => m * 2 ^ k
  | .negSucc k =>
    let d := 2 ^ (k + 1)
    match rnd with
    | .near => roundDiv m d
    | .draw r => if r.toNat < (m % d) * 65536 / d then m / d + 1 else m / d

/-- Conversion into INT8 or INT4, which saturates (Table 5-4). -/
def encodeInt (w : Nat) (rnd : Rnd) (x : Num) : Conv :=
  let above (lim m : Nat) (e : Int) : Bool := match e with
    | .ofNat k => decide (lim < m * 2 ^ k)
    | .negSucc k => decide (lim * 2 ^ (k + 1) < m)
  match x with
  | .nan => ⟨0, false, true⟩
  | .inf neg => ⟨if neg then 2 ^ (w - 1) else 2 ^ (w - 1) - 1, true, false⟩
  | .fin neg m e =>
    let lim := if neg then 2 ^ (w - 1) else 2 ^ (w - 1) - 1
    let r := roundMag (if above lim m e then .near else rnd) m e
    let c := min r lim
    ⟨if neg then (2 ^ w - c) % 2 ^ w else c, decide (lim < r), false⟩

/-- Conversion into an element format, block scale aside. -/
def encodeElt (f : Fmt) (rnd : Rnd) (sat : Bool) (x : Num) : Conv := match encOf f with
  | some e => encodeNum e rnd sat x
  | none => encodeInt (fmtBits f) rnd x

/-- An exact value rounded to FP32, nearest even (R127, R129). -/
def toF32 (x : Num) : BitVec 32 := BitVec.ofNat 32 (encodeElt .fp32 .near false x).code

/-- The canonical NaN of FP32 (R121). -/
def nan32 : BitVec 32 := 0x7FC00000

/-! ## Block scaling on write (R125, R126) -/

/-- Exponent of the largest finite value of an element format. -/
def emaxOf : Fmt → Int
  | .e4m3 => 8 | .e5m2 => 15 | .e3m2 => 4 | .e2m3 => 2 | .e2m1 => 2 | .int4 => 2
  | .fp32 => 0 | .bf16 => 0 | .fp16 => 0 | .int8 => 0

/-- floor(log2 |x|) of a finite value that is not zero. -/
def expOf : Num → Option Int
  | .fin _ m e => if m = 0 then none else some ((Nat.log2 m : Int) + e)
  | _ => none

/-- The scale exponent of a block (R125). -/
def blockExp (f : Fmt) (xs : List Num) : Int :=
  let best := xs.foldl (fun (acc : Option Int) x => match expOf x, acc with
    | some k, some b => some (max k b)
    | some k, none => some k
    | none, b => b) none
  match best with
  | none => 0
  | some k => max (-127) (min 127 (k - emaxOf f))

/-- Whether a NaN in the block makes its scale 0xFF (R126): the formats with no NaN. -/
def nanScales : Fmt → Bool
  | .e3m2 => true | .e2m3 => true | .e2m1 => true | .int4 => true
  | .fp32 => false | .bf16 => false | .fp16 => false | .e4m3 => false | .e5m2 => false | .int8 => false

/-- Scale code and element conversions of a block as the V engine writes it. -/
def encodeBlock (f : Fmt) (rnds : List Rnd) (sat : Bool) (xs : List Num) : Nat × List Conv :=
  if nanScales f && xs.any Num.isNan then (255, xs.map fun _ => ⟨0, false, false⟩)
  else
    let e := blockExp f xs
    ((e + 127).toNat, (xs.zip rnds).map fun p => encodeElt f p.2 sat (Num.mul p.1 (.fin false 1 (-e))))

/-! ## Storage of elements (R124, R146) -/

/-- The bit offset of element n of an array. -/
def eltBit (f : Fmt) (n : Nat) : Nat := n * fmtBits f

/-- First byte and last byte of element n. -/
def eltBytes (f : Fmt) (n : Nat) : Nat × Nat := (eltBit f n / 8, (eltBit f n + fmtBits f - 1) / 8)

/-- Reads a local store byte and whether it is poisoned. -/
def lsByte (p c a : Nat) (s : State) : Byte × Bool :=
  let k := lsKey p c (a % 2 ^ 18)
  (tget 0 s.mem.ls k, rmem (k / 8) s.mem.lsPoison)

/-- Reads `n` bytes of a local store as a number, with whether any is poisoned. -/
def lsNat (p c a n : Nat) (s : State) : Nat × Bool :=
  let bs := (List.range n).map fun i => lsByte p c (a + i) s
  (leNat (bs.map (·.1)), bs.any (·.2))

/-- Code of element n of an array at an address of the local store, with its poison. -/
def eltCode (p c a : Nat) (f : Fmt) (n : Nat) (s : State) : Nat × Bool :=
  let (lo, hi) := eltBytes f n
  let (w, bad) := lsNat p c (a + lo) (hi - lo + 1) s
  (w / 2 ^ (eltBit f n % 8) % 2 ^ fmtBits f, bad)

/-- Element n as read, block scale applied, with its poison. -/
def eltNum (p c a scale : Nat) (f : Fmt) (n : Nat) (s : State) : Num × Bool :=
  let (w, bad) := eltCode p c a f n s
  if blockScaled f then
    let (k, bad2) := lsByte p c (scale + n / 32) s
    (Num.mul (decodeElt f w) (scaleNum k.toNat), bad || bad2)
  else (decodeElt f w, bad)

/-- Packs element codes of a width into bytes, low bits first. -/
def packCodes (w : Nat) (codes : List Nat) : List Byte :=
  let n := (codes.foldr (fun c acc => c + acc * 2 ^ w) 0)
  leBytes ((codes.length * w + 7) / 8) n

/-! ## Lanes of the V engine (R129, R130) -/

/-- IEEE 754-2019 maximum (R129). -/
def numMax (x y : Num) : Num := if x.isNan || y.isNan then .nan else if Num.lt true x y then y else x

/-- IEEE 754-2019 minimum (R129). -/
def numMin (x y : Num) : Num := if x.isNan || y.isNan then .nan else if Num.lt true x y then x else y

/-- COMPARE modes (Table 6-8): 0 eq, 1 ne, 2 lt, 3 le, 4 gt, 5 ge. -/
def numCmp (mode : Nat) (x y : Num) : Bool := match mode with
  | 0 => Num.eqv x y
  | 1 => !Num.eqv x y
  | 2 => Num.lt false x y
  | 3 => Num.lt false x y || Num.eqv x y
  | 4 => Num.lt false y x
  | _ => Num.lt false y x || Num.eqv x y

/-- Integer square root with `k` result bits, by bits from the top. -/
def isqrt (n : Nat) : Nat → Nat → Nat
  | 0, r => r
  | k + 1, r => let t := r + 2 ^ k; isqrt n k (if t * t ≤ n then t else r)

/-- The correctly rounded square root (Table 5-3): a root of 60 bits and a sticky bit. -/
def sqrtNum : Num → Num
  | .nan => .nan
  | .inf neg => if neg then .nan else .inf false
  | .fin neg m e =>
    if m = 0 then .fin neg 0 0
    else if neg then .nan
    else
      let sh := 120 + (e % 2).toNat
      let n := m * 2 ^ sh
      let r := isqrt n (Nat.log2 n / 2 + 1) 0
      .fin false (2 * r + bit (r * r != n)) ((e - sh) / 2 - 1)

/-- 1 / (m × 2^e) to 64 bits and a sticky bit. -/
def recipNum (m : Nat) (e : Int) : Num :=
  let k := Nat.log2 m + 64
  let q := 2 ^ k / m
  .fin false (2 * q + bit (2 ^ k % m != 0)) (-e - k - 1)

/-- A magnitude within one ulp of a positive exact value: the neighbour below or above, chosen by a free bit; the
code itself where the value is exact. -/
def withinUlp (up : Bool) (neg : Bool) (x : Num) : BitVec 32 := match x, encOf .fp32 with
  | .fin _ m e, some f =>
    let (c, r, _) := floorCode f m e
    let c2 := if r = 0 then c else if up then c + 1 else c
    BitVec.ofNat 32 (signCode f neg (if f.maxc < c2 then 0x7F800000 else c2))
  | _, _ => nan32

/-- The FP32 magnitude codes, ordered and signed: the largest at or below m × 2^e with a sign, and the smallest at or above. -/
def ordFloor (x e : Int) : Int := match encOf .fp32 with
  | some f =>
    let (c, r, _) := floorCode f x.natAbs e
    max (-f.maxc) (min f.maxc (if 0 ≤ x then (c : Int) else -((c + (if r = 0 then 0 else 1) : Nat) : Int)))
  | none => 0

/-- The smallest FP32 value at or above, as an ordered code. -/
def ordCeil (x e : Int) : Int := -(ordFloor (-x) e)

/-- A free choice among the FP32 values within some ulp of v × 2^q, or within 2^−a of it where that is wider (R130). -/
def anyWithin (v q : Int) (ulps : Nat) (a : Option Nat) (free : Nat) : BitVec 32 :=
  let ulp : Int := max ((Nat.log2 v.natAbs : Int) + q) (-126) - 23
  let e0 : Int := min q (min ulp (a.elim ulp fun k => -(k : Int)))
  let at_ (x k : Int) : Int := x * 2 ^ (k - e0).toNat
  let b := max (at_ ulps ulp) (a.elim 0 fun k => at_ 1 (-(k : Int)))
  let lo := ordCeil (at_ v q - b) e0
  let hi := ordFloor (at_ v q + b) e0
  let c := lo + (free % ((hi - lo).toNat + 1) : Nat)
  BitVec.ofNat 32 (c.natAbs + (if c < 0 then 2 ^ 31 else 0))

/-- The fixed-point number of a finite value. -/
def fxOf (neg : Bool) (m : Nat) (e : Int) : Int := (if neg then -1 else 1) * fxShift m (e + 256)

/-- The sign of a value, on a fixed-point number. -/
def fxSigned (neg : Bool) (x : Int) : Int := if neg then -x else x

/-- exp2, log2, sine, cosine, tanh and erf of a finite value: any result within the bounds of Table 5-3 (log 5). -/
def bounded (fn : VFn) (neg : Bool) (m : Nat) (e : Int) (free : Nat) : BitVec 32 :=
  let x := fxOf neg m e
  let big := decide (2 ^ 16 * fxOne < x.natAbs)
  match fn with
  | .exp2 =>
    if x < -1000 * fxOne then anyWithin 0 0 2 none free
    else let (v, n) := fxExp2 x; anyWithin v (n - 256) 2 none free
  | .log2 => anyWithin (fxLog2 m e) (-256) 2 none free
  | .sin => anyWithin (fxSin x) (-256) (if big then 0 else 2) (some (if big then 12 else 22)) free
  | .cos => anyWithin (fxCos x) (-256) (if big then 0 else 2) (some (if big then 12 else 22)) free
  | .tanh => anyWithin (fxSigned neg (if 32 * fxOne < x.natAbs then fxOne else fxTanh x.natAbs)) (-256) 2 (some 24) free
  | _ => anyWithin (fxSigned neg (if 8 * fxOne < x.natAbs then fxOne else fxErf x.natAbs)) (-256) 2 (some 24) free

/-- A transcendental of Table 5-3: special cases as the table gives, else a free value within its bound (log 5). -/
def transcend (fn : VFn) (w : BitVec 32) : BitVec 32 :=
  let x := ofF32 w
  let free := Config.transcendental fn w
  match x with
  | .nan => nan32
  | .inf neg =>
    match fn with
    | .recip => toF32 (.fin neg 0 0)
    | .rsqrt => if neg then nan32 else 0
    | .exp2 => if neg then 0 else toF32 (.inf false)
    | .log2 => if neg then nan32 else toF32 (.inf false)
    | .sin => nan32
    | .cos => nan32
    | .tanh => toF32 (.fin neg 1 0)
    | .erf => toF32 (.fin neg 1 0)
    | .sqrt => toF32 (sqrtNum x)
    | _ => free
  | .fin neg m e =>
    match fn with
    | .sqrt => toF32 (sqrtNum x)
    | .recip => if m = 0 then toF32 (.inf neg) else withinUlp (free.getLsbD 0) neg (recipNum m e)
    | .rsqrt =>
      if m = 0 then toF32 (.inf neg)
      else if neg then nan32
      else match sqrtNum (recipNum m e) with
        | .fin _ a b => withinUlp (free.getLsbD 0) false (.fin false a b)
        | _ => nan32
    | .exp2 => if m != 0 && !neg && 128 ≤ (scaleNat m e) then toF32 (.inf false) else bounded fn neg m e free.toNat
    | .log2 => if m = 0 then toF32 (.inf true) else if neg then nan32 else bounded fn neg m e free.toNat
    | _ => bounded fn neg m e free.toNat

/-- A value as an INT32: exact for integers in range, rounded to nearest even otherwise; outside the range or not a
number the spec gives no result, and a free value stands (log 20). -/
def toI32 (free : BitVec 32) (x : Num) : BitVec 32 := match x with
  | .fin neg m e =>
    let r := roundMag .near m e
    if neg then (if r ≤ 2 ^ 31 then BitVec.ofInt 32 (-(r : Int)) else free)
    else if r < 2 ^ 31 then BitVec.ofNat 32 r else free
  | _ => free

/-- INT32 operations, which wrap (R122); a shift outside 0–31 has no stated result: a free value (log 20). -/
def intOp (fn : VFn) (free a b : BitVec 32) : BitVec 32 := match fn with
  | .iadd => a + b
  | .isub => a - b
  | .imul => a * b
  | .iand => a &&& b
  | .ior => a ||| b
  | .ixor => a ^^^ b
  | .ishl => if b.toNat < 32 then a <<< b.toNat else free
  | .ishr => if b.toNat < 32 then a.sshiftRight b.toNat else free
  | _ => free

/-- Whether a function is one on INT32. -/
def isInt : VFn → Bool
  | .iadd => true | .isub => true | .imul => true | .iand => true | .ior => true | .ixor => true
  | .ishl => true | .ishr => true
  | _ => false

/-- What one lane computes from its operands, in FP32 with one rounding (R129), or in INT32. -/
def laneNum (fn : VFn) (free : BitVec 32) (xs : List Num) : Num :=
  let a := xs.getD 0 Num.zero
  let b := xs.getD 1 Num.zero
  let c := xs.getD 2 Num.zero
  let fl (x : Num) : Num := ofF32 (toF32 x)
  match fn with
  | .add => fl (a.add b)
  | .sub => fl (a.add b.neg)
  | .mul => fl (a.mul b)
  | .fma => fl ((a.mul b).add c)
  | .max => numMax a b
  | .min => numMin a b
  | .abs => a.abs
  | .neg => a.neg
  | .relu => numMax a Num.zero
  | .copy => a
  | .clamp lo hi => numMin (numMax a (ofF32 lo)) (ofF32 hi)
  | .cmp mode => if numCmp mode a b then .fin false 1 0 else Num.zero
  | .sel => if a.isZero then c else b
  | .recip | .sqrt | .rsqrt | .exp2 | .log2 | .sin | .cos | .tanh | .erf => ofF32 (transcend fn (toF32 a))
  | .iadd | .isub | .imul | .iand | .ior | .ixor | .ishl | .ishr =>
    Num.ofInt (intOp fn free (toI32 free a) (toI32 free b)).toInt 0
  | .rsum | .rmax | .rmin | .argmax | .rscale | .topk _ _ _ => a

/-- A list in an order that a free number chooses (R139: the order of a reduction is not defined). -/
def anyOrder {α : Type} : Nat → Nat → List α → List α
  | 0, _, l => l
  | k + 1, n, l =>
    let i := n % l.length
    match l[i]? with
    | some x => x :: anyOrder k (n / l.length) (l.eraseIdx i)
    | none => l

/-- Sums neighbours, each sum rounded to FP32. -/
def pairUp : List Num → List Num
  | a :: b :: t => ofF32 (toF32 (a.add b)) :: pairUp t
  | l => l

/-- A reduction tree of k levels. -/
def treeSum : Nat → List Num → List Num
  | 0, l => l
  | k + 1, l => treeSum k (pairUp l)

/-- The sum of a reduction, in a free order over a tree of FP32 additions (R58, R139). -/
def reduceSum (n : Nat) (l : List Num) : Num :=
  (treeSum (Nat.log2 l.length + 1) (anyOrder l.length n l)).getD 0 Num.zero

/-- Whether y is taken over x by ARGMAX: a NaN is larger than every number; the lower index wins a tie (R129). -/
def argAbove (x y : Num) : Bool := match x.isNan, y.isNan with
  | true, _ => false
  | false, true => true
  | false, false => Num.lt false x y

/-- Index of the largest element. -/
def argmaxOf (l : List Num) : Nat :=
  match l with
  | [] => 0
  | x :: t => (t.foldl (fun (acc : Nat × Num × Nat) y =>
      let (best, bx, i) := acc
      if argAbove bx y then (i, y, i + 1) else (best, bx, i + 1)) (0, x, 1)).1

/-- The elements of a list with their indices in the order TOP_K takes them: a NaN is larger than every number; of equal
values the lower index comes first (R129). -/
def topInsert (largest : Bool) (x : Num × Nat) : List (Num × Nat) → List (Num × Nat)
  | [] => [x]
  | y :: t =>
    if (if largest then argAbove y.1 x.1 else argAbove x.1 y.1) then x :: y :: t else y :: topInsert largest x t

/-- The first k elements in TOP_K's order, or their indices (R129, R150). -/
def topOf (k : Nat) (largest index : Bool) (l : List Num) : List Num :=
  ((((l.zip (List.range l.length)).foldl (fun acc x => topInsert largest x acc) []).take k)).map fun x =>
    if index then Num.ofInt x.2 0 else x.1

/-- The input scale of R92: the largest finite magnitude; 1.0 where that is zero or no element is finite. -/
def scaleOf (l : List Num) : Num :=
  let m := ((l.filter Num.isFin).map Num.abs).foldl numMax Num.zero
  if m.isZero then .fin false 1 0 else m

/-- A reduction of all lanes to one value; an empty list has none and gives +0. -/
def reduceNum (fn : VFn) (n : Nat) (l : List Num) : Num := match fn with
  | .rsum => reduceSum n l
  | .rmax => (l.tail).foldl numMax (l.getD 0 Num.zero)
  | .rmin => (l.tail).foldl numMin (l.getD 0 Num.zero)
  | .rscale => scaleOf l
  | _ => Num.ofInt (argmaxOf l) 0

/-- Whether a function reduces all lanes to one value. -/
def isReduce : VFn → Bool
  | .rsum => true | .rmax => true | .rmin => true | .argmax => true | .rscale => true
  | _ => false

/-- The elements that a vector operation over n elements writes. -/
def outCount (fn : VFn) (n : Nat) : Nat := match fn with
  | .topk k _ _ => min k n
  | _ => if isReduce fn then 1 else n

end Sys2Proof.Machine
end

