-- ==== Sys2Proof/Machine/Fabric.lean ====
section
/-!
DEFINITION. The sending side of the fabric (chapter 13): flits, the link layer's sequence and replay, direction
groups, routing, end-to-end credits and the requests of this package.
-/

namespace Sys2Proof.Machine

/-! ## Flits (R343, R344) -/

/-- Bytes 0–251 of a flit, Table 13-2 (R343). -/
def flitBytes (f : Flit) : List Byte :=
  leBytes 4 f.lseq.toNat ++ leBytes 4 f.lack.toNat ++ leBytes 4 f.gseq.toNat ++ leBytes 1 f.type.toNat ++
  leBytes 1 f.lflags.toNat ++ leBytes 1 f.detours.toNat ++ leBytes 1 f.pause.toNat ++ leBytes 4 f.dst.toNat ++
  leBytes 4 f.src.toNat ++ leBytes 4 f.tag.toNat ++ leBytes 2 f.len.toNat ++ zeros 2 ++ padTo 220 f.payload

/-- FLIT_CRC: the CRC-32 of IEEE 802.3 (R343). -/
def flitCrc (f : Flit) : BitVec 32 := crc32With 0xEDB88320 (flitBytes f)

/-- The VC of a flit: LFLAGS [2:0]. -/
def flitVc (f : Flit) : Nat := f.lflags.toNat % 8

/-- Replaces the VC of a flit. -/
def flitSetVc (v : Nat) (f : Flit) : Flit := { f with lflags := BitVec.ofNat 8 (f.lflags.toNat / 8 * 8 + v % 8) }

/-- A flit before its link fields are put in. -/
def mkFlit (type vc dst src : Nat) (tag : BitVec 32) (poison : Bool) (payload : List Byte) : Flit :=
  { lseq := 0, lack := 0, gseq := 0, type := BitVec.ofNat 8 type, lflags := BitVec.ofNat 8 (vc + 32 * bit poison),
    detours := 0, pause := 0, dst := BitVec.ofNat 32 dst, src := BitVec.ofNat 32 src, tag := tag,
    len := BitVec.ofNat 16 payload.length, payload := payload, crc := 0 }

/-- Whether a flit type is unsequenced (R344). -/
def flitUnsequenced (f : Flit) : Bool := f.type = 0x00 || f.type = 0x03

/-- Whether a flit type is link-local (R344). -/
def flitLocal (f : Flit) : Bool := f.type.toNat ≤ 3

/-- Whether a flit type is one of Table 13-3. -/
def flitKnown (f : Flit) : Bool :=
  [0x00, 0x01, 0x02, 0x03, 0x10, 0x11, 0x12, 0x18, 0x19, 0x1A, 0x1B, 0x1C, 0x20, 0x21, 0x30, 0x31].contains f.type.toNat

/-! ## Packages and directions (R340, R341, R363) -/

/-- Coordinate k of a package id. -/
def coord (k id : Nat) : Nat := id / 16 ^ k % 16

/-- Whether a package id is a torus position: every coordinate below its extent. -/
def inTorus (id : Nat) (s : State) : Bool := (List.range 5).all fun k => coord k id < extentOf k s

/-- The spur entry of an endpoint. -/
def spurOf (id : Nat) (s : State) : Option (Nat × Nat × Nat) := s.fab.spurs.find? fun e => e.1 = id

/-- Links of a group. -/
def groupLinks (g : Nat) : List Nat := (List.range 32).filter fun n => linkGroup n = g

/-- Links of a group in service. -/
def groupIn (g : Nat) (s : State) : List Nat := (groupLinks g).filter fun n => linkUp n s

/-- Whether a group has a link in service. -/
def groupUp (g : Nat) (s : State) : Bool := groupIn g s != []

/-- The group that reduces the distance in dimension k, none when it is zero (R363). -/
def dimGroup (k a b e : Nat) : Option Nat :=
  let d := (b + e - a) % e
  if d = 0 then none else if 2 * d ≤ e then some (2 * k) else some (2 * k + 1)

/-- Links of the group and, where E_k is 2, of its sibling group of the dimension (R364). -/
def siblingLinks (g : Nat) (s : State) : List Nat :=
  if g < 10 && extentOf (g / 2) s = 2 then groupIn (g / 2 * 2) s ++ groupIn (g / 2 * 2 + 1) s else groupIn g s

/-- First dimension in an order whose distance is not zero, with its group. -/
def firstDim (order : List Nat) (own dst : Nat) (s : State) : Option (Nat × Nat) :=
  (order.filterMap fun k => (dimGroup k (coord k own) (coord k dst) (extentOf k s)).map fun g => (k, g)).head?

/-- Where a flit goes next. -/
inductive Route where
  | here
  | group (g : Nat) (f : Flit)
  | unroutable
  | discard (link : Nat)
  deriving DecidableEq, Repr

/-- The detour group of a flit blocked in dimension k (R365). -/
def detourGroup (k : Nat) (s : State) : Option Nat :=
  ([0, 1, 2, 3, 4].filter fun j => j != k && 1 < extentOf j s).findSome? fun j =>
    if siblingLinks (2 * j) s != [] then some (2 * j)
    else if siblingLinks (2 * j + 1) s != [] then some (2 * j + 1) else none

/-- The lowest link of a group. -/
def lowestLink (g : Nat) : Nat := (groupLinks g).headD 0

/-- The router's choice for a torus destination (R363–R365). -/
def routeTorus (start : Nat) (dst : Nat) (f : Flit) (s : State) : Route :=
  let esc := 4 ≤ flitVc f
  let order := if esc then (List.range 5).map fun i => (start + i) % 5 else [0, 1, 2, 3, 4]
  match firstDim order s.fab.id dst s with
  | none => .here
  | some (k, g) =>
    if siblingLinks g s != [] then .group g f
    else if 3 ≤ f.detours.toNat % 4 then .discard (lowestLink g)
    else match detourGroup k s with
      | none => .discard (lowestLink g)
      | some j => .group j (flitSetVc (flitVc f % 4 + 4) { f with detours := f.detours + 1 })

/-- The router's choice for a flit; `start` is the dimension an escape flit from elsewhere was blocked in, which the
flit does not carry (log 22). -/
def route (start : Nat) (f : Flit) (s : State) : Route :=
  let dst := f.dst.toNat % 2 ^ 20
  if dst = s.fab.id then .here
  else match spurOf dst s with
    | some (_, host, k) =>
      if host = s.fab.id then (if groupUp (10 + k) s then .group (10 + k) f else .discard (30 + k))
      else routeTorus start host f s
    | none => if inTorus dst s then routeTorus start dst f s else .unroutable

/-! ## The link layer (R346–R349) -/

/-- REPLAY_TIMER_US in force (R349). -/
def replayTimer (n : Nat) (s : State) : Nat :=
  let l := linkGet n s
  if s.fab.replayUs != 0 then s.fab.replayUs
  else if l.rttKnown then max 4 (min 8 (ceilDiv (l.rtt + 3000) 1000)) else 8

/-- Bytes held in a landing buffer. -/
def landingBytes (l : LinkSt) : Nat := 256 * l.landing.length

/-- Bytes of one VC in a landing buffer. -/
def landingVc (v : Nat) (l : LinkSt) : Nat := 256 * (l.landing.filter fun f => flitVc f = v).length

/-- PAUSE of the reverse flits (R350). -/
def pauseOut (l : LinkSt) : BitVec 8 :=
  if 4194304 - landingBytes l < 2359296 then 0xFF
  else BitVec.ofNat 8 (maskOf ((List.range 8).filter fun v => 524288 ≤ landingVc v l))

/-- A flit with the link's fields: LSEQ, LACK, REPLAY_REQ, PAUSE and FLIT_CRC. -/
def linkFlit (n : Nat) (f : Flit) (s : State) : Flit :=
  let l := linkGet n s
  let g := { f with
    lseq := l.lseq, lack := l.expect - 1, pause := pauseOut l
    lflags := BitVec.ofNat 8 (f.lflags.toNat % 16 + 16 * bit l.replayReq + f.lflags.toNat / 32 * 32) }
  { g with crc := flitCrc g }

/-- The eight data blocks of a flit (R345). -/
def flitBlocks (f : Flit) : List (Bool × List Byte) :=
  (chunks 31 9 (flitBytes f ++ leBytes 4 f.crc.toNat)).map fun b => (false, b)

/-- Sets POISON in a routed flit when a forced class D event of one of these sources asks for it (R460). -/
def forcedFlit (srcs : List Nat) (f : Flit) (s : State) : Flit × State :=
  if flitLocal f then (f, s)
  else match srcs.find? fun src => forcedD src 0 s with
    | some src => ({ f with lflags := f.lflags ||| 0x20 }, forcedDone src 0 s)
    | none => (f, s)

/-- Puts a flit on the link: unsequenced flits leave no trace; a sequenced one takes an LSEQ and is kept (R346, R348). -/
def placeFlit (n : Nat) (f0 : Flit) (s0 : State) : State :=
  let (f, s) := forcedFlit ((0x8000 + n) :: (List.range 18).map (0x7000 + n * 36 + ·)) f0 s0
  let g := linkFlit n f s
  let l := linkGet n s
  let seq := !flitUnsequenced f
  let s1 := linkSet n { l with
    lseq := if seq then l.lseq + 1 else l.lseq
    replay := if seq then l.replay ++ [g] else l.replay
    lackAt := if seq && l.replay = [] then s.clock.now else l.lackAt
    ackAt := s.clock.now, replayReq := false, stream := l.stream ++ flitBlocks g } s
  let s2 := emit (.flit n g) s1
  if seq then (let s3 := countLink n 0 1 s2; if 4 ≤ flitVc f then countLink n 9 1 s3 else s3) else s2

/-- Whether a link can take a new routed flit of a VC now; it takes none from the switch slot of a width change until the
switch is done (R349, R350, R355, R359). -/
def linkTakes (n v : Nat) (s : State) : Bool :=
  let l := linkGet n s
  linkUp n s && l.replay.length < 8192 && !l.pauseIn.getLsbD v && !l.change.any fun w => w.agreed && w.slot ≤ l.slot

/-- Bytes queued for a link; the other flank's links count 4 KiB fuller (R355). -/
def linkLoad (home : Flank) (n : Nat) (s : State) : Nat :=
  32 * (linkGet n s).stream.length + (if linkFlank n = home then 0 else 4096)

/-- The home router's flank of a group: that of its lowest-numbered link in service (R341). -/
def groupHome (g : Nat) (s : State) : Flank := linkFlank ((groupIn g s).headD (lowestLink g))

/-- The link of a list that takes the next flit of a group: the fewest queued bytes, a tie to the lower number (R355). -/
def pickOf (ns : List Nat) (g : Nat) (s : State) : Option Nat :=
  ns.foldl (fun best n => match best with
    | none => some n
    | some b =>
      if linkLoad (groupHome g s) n s < linkLoad (groupHome g s) b s ||
          (linkLoad (groupHome g s) n s = linkLoad (groupHome g s) b s && n < b)
      then some n else some b) none

/-- The link that takes the next flit of a group, or of its sibling group where E_k is 2 (R355, R364). -/
def pickLink (g : Nat) (s : State) : Option Nat := pickOf (siblingLinks g s) g s

/-- Sends an IDLE_ACK (R347). -/
def sendIdleAck (n : Nat) (s : State) : State := placeFlit n (mkFlit 0x00 0 0 s.fab.id 0 false []) s

/-! ## Output queues (R351, R356) -/

/-- Key of a group's queue of a VC. -/
def outKey (g v : Nat) : Nat := g * 8 + v

/-- Room of an output queue in flits. -/
def outRoom (g v : Nat) (s : State) : Nat := 256 - (tget [] s.fab.outq (outKey g v)).length

/-- Replaces an output queue. -/
def outSet (g v : Nat) (q : List Flit) (s : State) : State :=
  { s with fab := { s.fab with outq := tset [] s.fab.outq (outKey g v) q } }

/-- Places the head of an output queue, with the group's next GSEQ, on the link the router picks. -/
def outPump (g v : Nat) : Nat → State → State
  | 0, s => s
  | k + 1, s =>
    match tget [] s.fab.outq (outKey g v), pickLink g s with
    | f :: q, some n =>
      if linkTakes n v s then
        let lg := linkGroup n
        let seq := tget 0 s.fab.gseq lg
        let s1 := { s with fab := { s.fab with gseq := tset 0 s.fab.gseq lg ((seq + 1) % 2 ^ 32) } }
        outPump g v k (placeFlit n { f with gseq := BitVec.ofNat 32 seq } (outSet g v q s1))
      else s
    | _, _ => s

/-- Moves what it can from every output queue of a group. -/
def groupPump (g : Nat) (s : State) : State :=
  (List.range 8).foldl (fun t v => outPump g v (tget [] t.fab.outq (outKey g v)).length t) s

/-- What became of a flit given to the router. -/
inductive Routed where
  | here (f : Flit)
  | gone (s : State)
  | full
  | refused (s : State)
  deriving DecidableEq, Repr

/-- Adds one to a count of discarded flits. -/
def fabCount (i : Nat) (s : State) : State := { s with fab := { s.fab with counts := tmod 0 s.fab.counts i (· + 1) } }

/-- A dimension number an escape flit from elsewhere began in: a free value (log 22). -/
def escapeStart (f : Flit) (s : State) : Nat := if 4 ≤ flitVc f then Config.freeNat s.free % 5 else 0

/-- Routes a flit into an output queue; `ring` tells the group it came in on, so that a flit that stays in its ring
needs room for one and any other for two (R351). -/
def routeFlit (ring : Option Nat) (f : Flit) (s : State) : Routed :=
  match route (escapeStart f s) f s with
  | .here => .here f
  | .unroutable => .refused (fabCount 2 s)
  | .discard n => .gone (faultDOpen (0x8000 + n) (fabCount 3 s))
  | .group g h =>
    let need := if ring = some (g - g % 2 + (1 - g % 2)) && flitVc h = flitVc f then 1 else 2
    if outRoom g (flitVc h) s < need then .full
    else
      let s0 := if 4 ≤ flitVc f then { s with free := s.free + 1 } else s
      let s1 := { s0 with fab := { s0.fab with
        outIn := tmod 0 s0.fab.outIn (outKey g (flitVc h)) fun n => (n + 1) % 2 ^ 32 } }
      .gone (groupPump g (outSet g (flitVc h) (tget [] s.fab.outq (outKey g (flitVc h)) ++ [h]) s1))

/-! ## End-to-end credits (R352–R354) -/

/-- Key of a credit entry. -/
def entryKey (pkg vc : Nat) : Nat := pkg * 8 + vc

/-- Entries of a VC in a table. -/
def entriesOf (vc : Nat) (t : Tab (Option CreditEntry)) : Nat :=
  (t.filter fun e => e.1 % 8 = vc && e.2.isSome).length

/-- VC3 flits outstanding to a package: sent and not answered (R354). -/
def sysOut (pkg : Nat) (s : State) : Nat :=
  (s.fab.reqs.filter fun r => r.dst = pkg && r.engine.isNone && !(s.fab.sysWaiting.any fun f => f.tag = r.tag)).length +
    (s.fab.asks.filter fun e => e.1 / 8 = pkg && (e.2.any fun k => !k.refused)).length

/-- Puts a flit of this package into the fabric, holding it where its queue is full. -/
def launch (f : Flit) (s : State) : State := match routeFlit none f s with
  | .gone t => t
  | .refused t => t
  | .here _ => s
  | .full => { s with fab := { s.fab with waiting := s.fab.waiting ++ [f] } }

/-- Sends CREDIT_REQ on VC3, with a tag of its own (R353). -/
def askCredit (pkg vc : Nat) (s : State) : State :=
  let tag := s.comp.nextTag
  launch (mkFlit 0x31 3 pkg s.fab.id tag false (leBytes 1 vc))
    { s with
      comp := { s.comp with nextTag := tag + 1 }
      fab := { s.fab with asks := tset none s.fab.asks (entryKey pkg vc) (some ⟨tag, s.clock.now, s.clock.now, 10, false⟩) } }

/-- Whether a source entry has a credit to spend. -/
def canSend (pkg vc : Nat) (s : State) : Bool := match tget none s.fab.src (entryKey pkg vc) with
  | some e => e.granted != e.sent && !e.closing
  | none => false

/-- Spends a credit. -/
def spendCredit (pkg vc : Nat) (s : State) : State := match tget none s.fab.src (entryKey pkg vc) with
  | some e =>
    { s with fab := { s.fab with src := tset none s.fab.src (entryKey pkg vc)
                                  (some { e with sent := e.sent + 1, usedAt := s.clock.now }) } }
  | none => s

/-- Sends a routed flit of this package: VC0 and VC2 under end-to-end credit, which is asked for where no entry is
open and a place in the table is free; VC1 and VC3 without (R352–R354). -/
def sendFlit (f : Flit) (s : State) : State :=
  let pkg := f.dst.toNat % 2 ^ 20
  let vc := flitVc f
  if vc = 0 || vc = 2 then
    if canSend pkg vc s then
      (match routeFlit none f s with
        | .full => { s with fab := { s.fab with waiting := s.fab.waiting ++ [f] } }
        | _ => launch f (spendCredit pkg vc s))
    else
      let s1 := { s with fab := { s.fab with waiting := s.fab.waiting ++ [f] } }
      if (tget none s.fab.src (entryKey pkg vc)).isNone && (tget none s.fab.asks (entryKey pkg vc)).isNone &&
          entriesOf vc s.fab.src < 4096 && sysOut pkg s < 4
      then askCredit pkg vc s1 else s1
  else launch f s

/-- Whether a waiting flit is a request of an M engine that a PAUSE or a freeze holds: it issues no request until it is
released (R73, R470). -/
def flitHeld (f : Flit) (s : State) : Bool :=
  (f.type = 0x10 || f.type = 0x11) && s.fab.reqs.any fun r => r.tag = f.tag && r.engine.any fun x =>
    s.cairn.frozen || (engGet x.1 x.2 .m s).q.head?.any fun op => opHeld x.1 op s

/-- Tries the waiting flits again, in order. -/
def retryWaiting (s : State) : State :=
  s.fab.waiting.foldl (fun t f =>
    if flitHeld f t then { t with fab := { t.fab with waiting := t.fab.waiting ++ [f] } } else sendFlit f t)
    { s with fab := { s.fab with waiting := [] } }

/-! ## Requests of this package (R367, R368) -/

/-- Link that carries the next flit to a package. -/
def carrier (pkg : Nat) (s : State) : Option Nat :=
  match route 0 (mkFlit 0x10 0 pkg s.fab.id 0 false []) s with
  | .group g _ => pickLink g s
  | _ => none

/-- Sends a request and remembers it. -/
def sendReq (r : FabReq) (f : Flit) (s : State) : State :=
  sendFlit f { s with fab := { s.fab with reqs := s.fab.reqs ++ [r] }, comp := { s.comp with nextTag := r.tag + 1 } }

/-- Whether a package can be reached: a torus position or a spur endpoint. -/
def reachable (pkg : Nat) (s : State) : Bool := inTorus pkg s || (spurOf pkg s).isSome

/-- A firmware message on VC3: at most four are outstanding to one destination (R344, R354). -/
def sendSys (pkg purpose slot : Nat) (payload : List Byte) (s : State) : State :=
  let tag := s.comp.nextTag
  let r : FabReq := ⟨tag, pkg, false, 0, 0, s.clock.now, carrier pkg s, none, purpose, slot⟩
  let f := mkFlit 0x30 3 pkg s.fab.id tag false payload
  if sysOut pkg s < 4 then sendReq r f s
  else { s with fab := { s.fab with reqs := s.fab.reqs ++ [r], sysWaiting := s.fab.sysWaiting ++ [f] }
                comp := { s.comp with nextTag := tag + 1 } }

/-- Sends what may go now: VC3 flits with a place to their destination, then the flits that wait for credit or room. -/
def fabricRetry (s : State) : State :=
  let s1 := s.fab.sysWaiting.foldl (fun t f =>
    if sysOut (f.dst.toNat % 2 ^ 20) t < 4 then
      launch f { t with fab := { t.fab with sysWaiting := t.fab.sysWaiting.filter fun g => g.tag != f.tag } }
    else t) s
  retryWaiting s1

/-- The bytes of a firmware message: its kind and fields. The spec names the messages and gives no layout (log 23). -/
def sysBytes : SysMsg → List Byte
  | .loanRequest n => leBytes 1 0 ++ leBytes 8 n
  | .loanReturn w => leBytes 1 1 ++ leBytes 1 w
  | .startConfirm b c => leBytes 1 2 ++ leBytes 16 b.toNat ++ leBytes 4 c.toNat
  | .other w => leBytes 1 3 ++ leBytes 8 w.toNat

/-- The message that bytes spell. -/
def sysOf (b : List Byte) : SysMsg := match field b 0 1 with
  | 0 => .loanRequest (field b 1 8)
  | 1 => .loanReturn (field b 1 1)
  | 2 => .startConfirm (BitVec.ofNat 128 (field b 1 16)) (BitVec.ofNat 32 (field b 17 4))
  | _ => .other (BitVec.ofNat 64 (field b 1 8))

/-- A response to a peer's request (R344, R367). -/
def respond (type pkg : Nat) (tag : BitVec 32) (st : Status) (poison : Bool) (data : List Byte) (s : State) : State :=
  launch (mkFlit type 1 pkg s.fab.id tag poison (leBytes 1 st.code ++ (if data = [] then [] else zeros 15 ++ data))) s

/-! ## A link leaves ACTIVE (R357, R358) -/

/-- Sends unacknowledged flits on another link of the group, in LSEQ order, with XFER set and their GSEQ (R357). -/
def transfer (n : Nat) (fs : List Flit) (s : State) : State :=
  fs.foldl (fun t f =>
    if flitLocal f then t
    else match pickOf (groupIn (linkGroup n) t) (linkGroup n) t with
      | some m => countLink n 6 1 (placeFlit m { f with lflags := f.lflags ||| 8 } t)
      | none => t) s

/-- Restarts a group's GSEQ and window (R358). -/
def groupRestart (g : Nat) (s : State) : State :=
  { s with fab := { s.fab with gseq := tset 0 s.fab.gseq g 0, gnext := tset 0 s.fab.gnext g 0,
                                window := tset [] s.fab.window g [] } }

/-- Flits queued for a group that has no link left take the escape route (R358). -/
def groupEscape (g : Nat) (s : State) : State :=
  (List.range 8).foldl (fun t v =>
    let q := tget [] t.fab.outq (outKey g v)
    q.foldl (fun u f => launch f u) (outSet g v [] t)) s

/-- What a link's end of service does to the link layer and its group (R357, R358). -/
def linkLeaves (n : Nat) (s : State) : State :=
  let l := linkGet n s
  let was := linkUp n s
  let s1 := linkSet n { l with
    txActive := false, rxActive := false, txAt := none, rxAt := none, lseq := 0, expect := 0, replay := []
    replays := 0, replayReq := false, gapAt := none, pauseIn := 0, stream := [], stripe := 0, rxBlocks := []
    change := none, txSleep := false, rxSleep := false, sleepAt := none, wakeAt := none, moves := [], rxMoves := []
    rxLaneAt := [], lost := [] } s
  if !was then s1
  else if groupUp (linkGroup n) s1 then refreshDegraded (transfer n l.replay s1)
  else refreshDegraded (groupEscape (linkGroup n) (groupRestart (linkGroup n) s1))

end Sys2Proof.Machine
end

