-- ==== Sys2Proof/Machine/Kernel.lean ====
section
/-!
DEFINITION. The Jartal kernel form (R155–R157): what one invocation of a kernel computes. Control depends on grid indices and
immediates only, so that an invocation is a pure function of what its loads read. The roles of the register fields are those
of logs 34 and 108.
-/

namespace Sys2Proof.Machine

/-- Fields of an instruction (R155). -/
def kField (w : BitVec 64) (hi lo : Nat) : Nat := bitsOf w.toNat hi lo

/-- One element with whether it is poisoned. -/
abbrev Lane := Num × Bool

/-- What an invocation is given: its operands' bytes with their poison, their shapes, OFLAGS, its scratch bytes, and the free
values it may use. -/
structure KEnv where
  byte : Nat → Nat → Byte × Bool
  operands : List KOperand
  stochastic : Bool
  sat : Bool
  scratch : Nat
  free : Nat

/-- An invocation under way: registers, scratch, the elements it has loaded and stored by operand, first element and format,
and what its completion will report. -/
structure KRun where
  v : Tab (Option (List Lane)) := []
  sc : Tab (BitVec 32) := []
  scratch : Tab (Option (Byte × Bool)) := []
  loads : List (Nat × Nat × Nat × Fmt) := []
  stores : List (Nat × Nat × Fmt × List Lane) := []
  range : Bool := false
  warn : BitVec 32 := 0
  steps : Nat := 0
  done : Bool := false
  deriving DecidableEq, Repr

/-- Storage position of an element: rows of a block-scaled format are padded to whole blocks (R124, R146). -/
def kPos (o : KOperand) (f : Fmt) (e : Nat) : Nat :=
  if blockScaled f && o.row != 0 then e / o.row * (ceilDiv o.row 32 * 32) + e % o.row else e

/-- Whether an element lies outside its operand's storage (R157). -/
def kOutside (o : KOperand) (f : Fmt) (e : Nat) : Bool := decide (o.bytes ≤ (eltBytes f (kPos o f e)).2)

/-- An element of an operand, widened; poisoned where it lies outside (R155, R157). -/
def kElt (env : KEnv) (op : Nat) (f : Fmt) (e : Nat) : Lane := match env.operands[op]? with
  | none => (Num.zero, true)
  | some o =>
    if kOutside o f e then (Num.zero, true)
    else
      let i := kPos o f e
      let (lo, hi) := eltBytes f i
      let bs := (List.range (hi - lo + 1)).map fun k => env.byte op (lo + k)
      let x := decodeElt f (leNat (bs.map (·.1)) / 2 ^ (eltBit f i % 8) % 2 ^ fmtBits f)
      let bad := bs.any (·.2)
      if blockScaled f then
        let k := env.byte op (o.scaleAt + i / 32)
        (Num.mul x (scaleNum k.1.toNat), bad || k.2)
      else (x, bad)

/-- Lanes of a vector register. -/
def KRun.vec (k : KRun) (r : Nat) : List Lane := (tget none k.v r).getD (List.replicate 64 (Num.zero, false))

/-- Writes a vector register. -/
def KRun.put (k : KRun) (r : Nat) (x : List Lane) : KRun := { k with v := tset none k.v r (some x) }

/-- A scalar register. -/
def KRun.scalar (k : KRun) (r : Nat) : BitVec 32 := tget 0 k.sc r

/-- Writes a scalar register. -/
def KRun.setScalar (k : KRun) (r : Nat) (x : BitVec 32) : KRun := { k with sc := tset 0 k.sc r x }

/-- The arithmetic of an opcode on FP32 lanes, where a V engine function gives it (R129, R130). -/
def kFn (op mode : Nat) : Option VFn :=
  if op = 0x01 then some .add else if op = 0x02 then some .sub else if op = 0x03 then some .mul
  else if op = 0x04 then some .fma else if op = 0x06 then some .min else if op = 0x07 then some .max
  else if op = 0x08 then some .abs else if op = 0x09 then some .neg else if op = 0x10 then some .recip
  else if op = 0x11 then some .sqrt else if op = 0x12 then some .rsqrt else if op = 0x13 then some .exp2
  else if op = 0x14 then some .log2 else if op = 0x15 then some .sin else if op = 0x16 then some .cos
  else if op = 0x17 then some .tanh else if op = 0x18 then some .erf else if op = 0x20 then some (.cmp mode)
  else if op = 0x21 then some .sel else none

/-- One FP32 lane; DIV is a reciprocal and a multiplication, as the operator DIV is (R150). -/
def kFloat (op mode : Nat) (xs : List Num) : Num := match kFn op mode with
  | some fn => laneNum fn 0 xs
  | none => laneNum .mul 0 [xs.getD 0 Num.zero, laneNum .recip 0 [xs.getD 1 Num.zero]]

/-- One INT32 lane; what the type has no stated meaning for is a free value (log 108). -/
def kInt (op mode : Nat) (free : BitVec 32) (xs : List Num) : Num :=
  let a := toI32 free (xs.getD 0 Num.zero)
  let b := toI32 free (xs.getD 1 Num.zero)
  let c := toI32 free (xs.getD 2 Num.zero)
  let v : BitVec 32 :=
    if op = 0x01 then a + b else if op = 0x02 then a - b else if op = 0x03 then a * b else if op = 0x04 then a * b + c
    else if op = 0x06 then (if b.toInt < a.toInt then b else a) else if op = 0x07 then (if a.toInt < b.toInt then b else a)
    else if op = 0x08 then (if a = 0x80000000 then free else BitVec.ofNat 32 a.toInt.natAbs)
    else if op = 0x09 then 0 - a
    else if op = 0x20 then (if numCmp mode (Num.ofInt a.toInt 0) (Num.ofInt b.toInt 0) then 1 else 0)
    else if op = 0x21 then (if a = 0 then c else b)
    else free
  Num.ofInt v.toInt 0

/-- Steps of the V engine for a register of 64 lanes (R58). -/
def kSteps (op : Nat) : Nat := if 0x10 ≤ op && op ≤ 0x18 then 4 else if op < 0x60 then 1 else 0

/-- Lane by lane on up to three registers. -/
def kLanes (env : KEnv) (op ty mode : Nat) (rs : List Nat) (k : KRun) : List Lane :=
  (List.range 64).map fun l =>
    let xs := rs.map fun r => (k.vec r).getD l (Num.zero, false)
    let free := Config.free32 (env.free + 64 * k.steps + l)
    (if ty = 1 then kFloat op mode (xs.map (·.1)) else kInt op mode free (xs.map (·.1)), xs.any (·.2))

/-- How lane `l` rounds into a format. -/
def kRound (draw : Bool) (env : KEnv) (k : KRun) (l : Nat) : Rnd :=
  if draw then .draw (Config.stochasticDraw (env.free + k.steps) l) else .near

/-- CVT: each lane through a memory format and back; a block-scaled one by blocks of 32 lanes (R125, R155). -/
def kConvert (env : KEnv) (f : Fmt) (draw : Bool) (xs : List Lane) (k : KRun) : List Lane × BitVec 32 :=
  let flags (l : List Conv) : BitVec 32 :=
    l.foldl (fun w c => w ||| BitVec.ofNat 32 (2 * bit c.clamped + 4 * bit c.nanZero)) 0
  if blockScaled f then
    let half (b : Nat) := encodeBlock f ((List.range 32).map fun i => kRound draw env k (32 * b + i)) env.sat
      (((xs.drop (32 * b)).take 32).map (·.1))
    let back (b : Nat) := (half b).2.map fun c => Num.mul (decodeElt f c.code) (scaleNum (half b).1)
    ((back 0 ++ back 1).zip (xs.map (·.2)), flags ((half 0).2 ++ (half 1).2))
  else
    let cs := ((List.range xs.length).zip xs).map fun q => (encodeElt f (kRound draw env k q.1) env.sat q.2.1, q.2.2)
    (cs.map fun c => (decodeElt f c.1.code, c.2), flags (cs.map (·.1)))

/-- LD and LDX: the elements of an input that the lanes name; none named, or one outside, is poisoned (R157). -/
def kLoad (env : KEnv) (op d : Nat) (f : Fmt) (idx : List (Option Nat × Bool)) (k : KRun) : KRun :=
  let at_ (x : Option Nat × Bool) : Lane := match x.1 with
    | some e => let y := kElt env op f e; (y.1, y.2 || x.2)
    | none => (Num.zero, true)
  let out (x : Option Nat × Bool) : Bool := match x.1, env.operands[op]? with
    | some e, some o => kOutside o f e
    | _, _ => true
  { k.put d (idx.map at_) with
    range := k.range || idx.any out
    loads := k.loads ++ idx.filterMap fun x => x.1.map fun e => (op, e, 1, f) }

/-- The element a lane names: a whole number that is not negative. -/
def laneIndex (x : Lane) : Option Nat × Bool := match x.1 with
  | .fin neg m e =>
    if neg && m != 0 then (none, x.2)
    else (match e with
      | .ofNat q => (some (m * 2 ^ q), x.2)
      | .negSucc q => if m % 2 ^ (q + 1) = 0 then (some (m / 2 ^ (q + 1)), x.2) else (none, x.2))
  | _ => (none, x.2)

/-- LDS: 64 elements of scratch; scratch that nothing has written holds free values, and what lies outside it is poisoned
(log 108). -/
def kScratchLoad (env : KEnv) (d : Nat) (f : Fmt) (e0 : Nat) (k : KRun) : KRun :=
  let byte (i : Nat) : Byte × Bool := (tget none k.scratch i).getD (BitVec.ofNat 8 (Config.freeNat (env.free + i)), false)
  let lane (e : Nat) : Lane :=
    let (lo, hi) := eltBytes f e
    if env.scratch ≤ hi then (Num.zero, true)
    else
      let bs := (List.range (hi - lo + 1)).map fun j => byte (lo + j)
      (decodeElt f (leNat (bs.map (·.1)) / 2 ^ (eltBit f e % 8) % 2 ^ fmtBits f), bs.any (·.2))
  k.put d ((List.range 64).map fun l => lane (e0 + l))

/-- STS: 64 elements into scratch, each by its own bits; what lies outside is dropped (log 108). -/
def kScratchStore (env : KEnv) (f : Fmt) (e0 : Nat) (xs : List Lane) (k : KRun) : KRun :=
  let step (t : Tab (Option (Byte × Bool))) (q : Nat × Lane) : Tab (Option (Byte × Bool)) :=
    let e := e0 + q.1
    let (lo, hi) := eltBytes f e
    if env.scratch ≤ hi then t
    else
      let sh := eltBit f e % 8
      let n := hi - lo + 1
      let old := leNat ((List.range n).map fun j => ((tget none t (lo + j)).getD (0, false)).1)
      let code := (encodeElt f (kRound env.stochastic env k q.1) env.sat q.2.1).code
      let new := old - old / 2 ^ sh % 2 ^ fmtBits f * 2 ^ sh + code * 2 ^ sh
      (List.range n).foldl (fun u j =>
        tset none u (lo + j) (some (BitVec.ofNat 8 (new / 256 ^ j), q.2.2))) t
  { k with scratch := ((List.range xs.length).zip xs).foldl step k.scratch }

/-- RSUM, RMAX and RMIN: 64 lanes to lane 0; the other lanes of the destination have no stated value (log 108). -/
def kReduce (env : KEnv) (op ty d : Nat) (xs : List Lane) (k : KRun) : KRun :=
  let vals := xs.map (·.1)
  let free (l : Nat) : Num := let w := Config.free32 (env.free + 64 * k.steps + l)
    if ty = 1 then ofF32 w else Num.ofInt w.toInt 0
  let r : Num :=
    if ty != 1 then
      vals.tail.foldl (fun a b => kInt (if op = 0x50 then 0x01 else if op = 0x51 then 0x07 else 0x06) 0 0 [a, b])
        (vals.headD Num.zero)
    else reduceNum (if op = 0x50 then .rsum else if op = 0x51 then .rmax else .rmin) (Config.freeNat (env.free + k.steps)) vals
  k.put d ((List.range 64).map fun l => if l = 0 then (r, xs.any (·.2)) else (free l, false))

/-- The arithmetic of scalars: INT32, wrapping; SLDI loads IMM, not sign-extended (log 108). -/
def kScalarOp (op mode imm : Nat) (a b : BitVec 32) : BitVec 32 :=
  if op = 0x60 then a + b else if op = 0x61 then a * b else if op = 0x62 then a
  else if op = 0x63 then (if numCmp mode (Num.ofInt a.toInt 0) (Num.ofInt b.toInt 0) then 1 else 0)
  else BitVec.ofNat 32 imm

/-- One instruction other than control. -/
def kExec (env : KEnv) (w : BitVec 64) (k : KRun) : KRun :=
  let op := kField w 7 0
  let ty := kField w 11 8
  let d := kField w 17 12
  let a := kField w 23 18
  let b := kField w 29 24
  let c := kField w 35 30
  let mode := kField w 39 36
  let imm := kField w 63 40
  let f := (fmtOf ty).getD .fp32
  let first := (k.scalar a).toNat
  let lin := (List.range 64).map fun l => (some (first + l), false)
  let r : KRun :=
    if op = 0x00 then k
    else if op < 0x30 then k.put d (kLanes env op ty mode [a, b, c] k)
    else if op = 0x30 then
      let x := kConvert env f (mode % 2 = 1) (k.vec a) k
      { k.put d x.1 with warn := k.warn ||| x.2 }
    else if op = 0x40 then kLoad env (imm % 8) d f lin k
    else if op = 0x41 then { k with stores := k.stores ++ [(imm % 8, first, f, k.vec b)] }
    else if op = 0x42 then kScratchLoad env d f first k
    else if op = 0x43 then kScratchStore env f first (k.vec b) k
    else if op = 0x44 then kLoad env (imm % 8) d f ((k.vec a).map laneIndex) k
    else if op < 0x60 then kReduce env op ty d (k.vec a) k
    else if op < 0x70 then k.setScalar d (kScalarOp op mode imm (k.scalar a) (k.scalar b))
    else if op = 0x75 then { k with done := true }
    else k
  { r with steps := k.steps + kSteps op }

/-- Cuts code at the end of the control structure it lies in: its first part up to ELSE, its second, and what follows. -/
def kSplit : Nat → Nat → Bool → List (BitVec 64) → List (BitVec 64) × List (BitVec 64) × List (BitVec 64)
  | 0, _, _, l => (l, [], [])
  | _ + 1, _, _, [] => ([], [], [])
  | n + 1, depth, second, w :: t =>
    let op := kField w 7 0
    let opens := op = 0x70 || op = 0x72
    let closes := op = 0x71 || op = 0x74
    if closes && depth = 0 then ([], [], t)
    else if op = 0x73 && depth = 0 then kSplit n depth true t
    else
      let r := kSplit n (if opens then depth + 1 else if closes then depth - 1 else depth) second t
      if second then (r.1, w :: r.2.1, r.2.2) else (w :: r.1, r.2.1, r.2.2)

/-- Runs code whose control structures an inner function runs. -/
def kBlock (env : KEnv) (inner : List (BitVec 64) → KRun → KRun) : Nat → List (BitVec 64) → KRun → KRun
  | 0, _, k => k
  | _ + 1, [], k => k
  | n + 1, w :: t, k =>
    if k.done then k
    else
      let op := kField w 7 0
      let a := k.scalar (kField w 23 18)
      if op = 0x70 then
        let x := kSplit (t.length + 1) 0 false t
        let count := if kField w 36 36 = 0 then kField w 63 40 else a.toNat
        kBlock env inner n x.2.2 (Nat.repeat (fun y => if y.done then y else inner x.1 y) count k)
      else if op = 0x72 then
        let x := kSplit (t.length + 1) 0 false t
        kBlock env inner n x.2.2 (inner (if a = 0 then x.2.1 else x.1) k)
      else kBlock env inner n t (kExec env w k)

/-- Runs code with control structures up to a depth. -/
def kCode (env : KEnv) : Nat → List (BitVec 64) → KRun → KRun
  | 0, _, k => k
  | d + 1, l, k => kBlock env (kCode env d) l.length l k

/-- One invocation: s0–s2 hold its grid index, s3 holds 64 × its lane base; it ends at RET (R155, R156). -/
def kInvoke (env : KEnv) (code : List (BitVec 64)) (grid : List Nat) (lane : Nat) : KRun :=
  let entry := grid.take 3 ++ List.replicate (3 - grid.length) 0 ++ [64 * lane]
  let sc := ((List.range 4).zip entry).foldl (fun t e => tset 0 t e.1 (BitVec.ofNat 32 e.2)) []
  kCode env 5 code { sc := sc }

/-- Steps of one invocation on the V engine: control does not depend on data. -/
def kLength (code : List (BitVec 64)) (grid : List Nat) (lane : Nat) : Nat :=
  (kInvoke ⟨fun _ _ => (0, false), [], false, false, 0, 0⟩ code grid lane).steps

end Sys2Proof.Machine
end

