-- ==== Sys2Proof/Machine/Engines.lean ====
section
/-!
DEFINITION. What one engine operation does: the T, V, M and P engines (R56–R59, R89–R101, R119–R139, R147, R157).
-/

namespace Sys2Proof.Machine

/-- What an operation has done so far: the state, whether an operand was poisoned, whether an output was written
poisoned, the warnings of Table 10-6 it raises, and the lines of DRAM that its reads find bad. -/
structure Eff where
  s : State
  upset : List (Nat × BadSymbols) := []
  inBad : Bool := false
  outBad : Bool := false
  warn : BitVec 32 := 0
  deriving DecidableEq, Repr

/-- Adds warnings. -/
def Eff.warns (e : Eff) (w : BitVec 32) : Eff := { e with warn := e.warn ||| w }

/-- Adds whether operands and outputs were poisoned. -/
def Eff.taint (e : Eff) (i o : Bool) : Eff := { e with inBad := e.inBad || i, outBad := e.outBad || o }

/-! ## Local store access -/

/-- Writes bytes to a core's local store; bytes beyond its 256 KiB reach nothing. -/
def storeBytes (p c a : Nat) (bs : List Byte) (s : State) : State :=
  let off := a % 2 ^ 18
  lsWrite (lsKey p c off) (bs.take (2 ^ 18 - off)) s

/-- Poisons bytes of a core's local store. -/
def storeTaint (p c a n : Nat) (s : State) : State :=
  let off := a % 2 ^ 18
  lsTaint (lsKey p c off) (min n (2 ^ 18 - off)) s

/-- Writes element codes of a width from an address up, then poisons the elements marked bad. -/
def storeElts (p c a : Nat) (f : Fmt) (codes : List (Nat × Bool)) (s : State) : State :=
  let s1 := storeBytes p c a (packCodes (fmtBits f) (codes.map (·.1))) s
  ((List.range codes.length).zip codes).foldl (fun t e =>
    if e.2.2 then
      let (lo, hi) := eltBytes f e.1
      storeTaint p c (a + lo) (hi - lo + 1) t
    else t) s1

/-! ## The T engine (R56, R57, R127) -/

/-- Elements along K whose products are summed exactly before one rounding: a block of 32 where either operand is
block-scaled, else the step of the wider class (R127, Table 3-3). -/
def tGroup (fa fb : Fmt) : Nat :=
  if blockScaled fa || blockScaled fb then 32
  else if fa = .fp32 || fb = .fp32 then 1
  else if fa = .int8 && fb = .int8 then 4
  else 2

/-- Elements of a row of a tile operand as stored: K innermost, block-scaled rows padded to whole blocks (log 24). -/
def tRow (f : Fmt) (k : Nat) : Nat := if blockScaled f then ceilDiv k 32 * 32 else k

/-- One accumulator after the products along K, in ascending order (R127, R128). -/
def tAcc (g : Nat) : Nat → Num → List Num → Num
  | 0, acc, _ => acc
  | _, acc, [] => acc
  | fuel + 1, acc, l => tAcc g fuel (ofF32 (toF32 (numSum acc (l.take g)))) (l.drop g)

/-- Multiply-accumulates per step of a format's class (Table 3-3). -/
def classMacs : Fmt → Nat
  | .e2m1 => 512 | .int4 => 512
  | .e3m2 => 256 | .e2m3 => 256 | .e4m3 => 256 | .e5m2 => 256 | .int8 => 256
  | .bf16 => 128 | .fp16 => 128
  | .fp32 => 32

/-- Width of the T engine: that of the wider operand's class (R56). -/
def tWidth (fa fb : Fmt) : Nat := min (classMacs fa) (classMacs fb)

/-- Key of an accumulator. -/
def accKey (tile e : Nat) : Nat := tile % 64 * 64 + e

/-- Writes one accumulator. -/
def accPut (p c k : Nat) (v : BitVec 32) (bad : Bool) (s : State) : State :=
  let x := coreGet p c s
  coreSet p c { x with acc := tset 0 x.acc k v
                       accPoison := if bad then setInsert k x.accPoison else setErase k x.accPoison } s

/-- The value an accumulator starts from: as it stands, or the bias widened to FP32 (R537). -/
def accStart (p c tile e : Nat) (init : Option (Nat × Fmt)) (s : State) : Num × Bool := match init with
  | none => (ofF32 (tget 0 (coreGet p c s).acc (accKey tile e)), (coreGet p c s).accPoison.contains (accKey tile e))
  | some (a, f) => eltNum p c a 0 f e s

/-- C ← C + A × B on one tile of 8 × 8, or C − A × B (R57). -/
def tProduct (p c : Nat) (minus : Bool) (fa fb : Fmt) (k a b sa sb tile : Nat) (init : Option (Nat × Fmt)) (s : State) :
    Eff :=
  (List.range 64).foldl (fun eff e =>
    let prods := (List.range k).map fun q =>
      let x := eltNum p c a sa fa (e / 8 * tRow fa k + q) s
      let y := eltNum p c b sb fb (e % 8 * tRow fb k + q) s
      (if minus then (Num.mul x.1 y.1).neg else Num.mul x.1 y.1, x.2 || y.2)
    let st := accStart p c tile e init s
    let bad := st.2 || prods.any (·.2)
    let v := tAcc (tGroup fa fb) k st.1 (prods.map (·.1))
    ({ eff with s := accPut p c (accKey tile e) (toF32 v) bad eff.s } : Eff).taint bad bad) { s := s }

/-- C ← C + A × B on one tile of 8 × 8 (R57). -/
def tMac (p c : Nat) (fa fb : Fmt) (k a b sa sb tile : Nat) (init : Option (Nat × Fmt)) (s : State) : Eff :=
  tProduct p c false fa fb k a b sa sb tile init s

/-- What one operation does after another. -/
def Eff.andThen (e : Eff) (f : State → Eff) : Eff :=
  let r := f e.s
  { e with s := r.s, inBad := e.inBad || r.inBad, outBad := e.outBad || r.outBad, warn := e.warn ||| r.warn }

/-- A complex tile product: four real ones, the real part in a tile and the imaginary part in the next (R57, R138). -/
def tComplex (p c : Nat) (fa fb : Fmt) (k ar ai br bi sar sai sbr sbi tile : Nat) (conj : Bool) (s : State) : Eff :=
  (((tProduct p c false fa fb k ar br sar sbr tile none s).andThen
    (tProduct p c (!conj) fa fb k ai bi sai sbi tile none)).andThen
    (tProduct p c conj fa fb k ar bi sar sbi (tile + 1) none)).andThen
    (tProduct p c false fa fb k ai br sai sbr (tile + 1) none)

/-- Writes a tile of FP32 accumulators to the local store. -/
def tStore (p c tile dst : Nat) (s : State) : Eff :=
  let x := coreGet p c s
  let codes := (List.range 64).map fun e =>
    ((tget 0 x.acc (accKey tile e)).toNat, x.accPoison.contains (accKey tile e))
  let bad := codes.any (·.2)
  ({ s := storeElts p c dst .fp32 codes s } : Eff).taint bad bad

/-! ## The V engine (R58, R129–R135, R157) -/

/-- One operand element, widened to FP32 (R135); outside its operand it is poisoned (R157). -/
def vOperand (p c i : Nat) (src : VSrc) (s : State) : Num × Bool × Bool :=
  let out := match src.limit with
    | some l => decide (l ≤ (eltBytes src.fmt i).2)
    | none => false
  if out then (Num.zero, true, true)
  else
    let (x, bad) := eltNum p c src.addr src.scale src.fmt i s
    (ofF32 (toF32 x), bad, false)

/-- How element i of an output rounds: a draw of the lane's generator where the operator asks for it (R131, R132). -/
def vRound (d : VDst) (free i : Nat) : Rnd :=
  if d.stochastic then .draw (Config.stochasticDraw free i) else .near

/-- Warnings of a conversion (R134). -/
def convWarn (c : Conv) : BitVec 32 := BitVec.ofNat 32 (2 * bit c.clamped + 4 * bit c.nanZero)

/-- Elements of an output that lie inside its operand (R157). -/
def fitCount (f : Fmt) (limit : Option Nat) (n : Nat) : Nat := match limit with
  | none => n
  | some l => ((List.range n).filter fun i => (eltBytes f i).2 < l).length

/-- Writes elements of a format that is not block-scaled; an element outside the operand is dropped, and with it the flags
of its conversion (R134, R157). -/
def vPlain (p c : Nat) (d : VDst) (xs : List (Num × Bool)) (free : Nat) (e : Eff) : Eff :=
  let convs := ((List.range xs.length).zip xs).map fun q => (encodeElt d.fmt (vRound d free q.1) d.sat q.2.1, q.2.2)
  let keep := fitCount d.fmt d.limit xs.length
  let w := (convs.take keep).foldl (fun acc q => acc ||| convWarn q.1) 0
  let s1 := storeElts p c d.addr d.fmt ((convs.take keep).map fun q => (q.1.code, q.2)) e.s
  (({ e with s := s1 }.warns w).warns (if keep < xs.length then 16 else 0)).taint false
    ((convs.take keep).any (·.2))

/-- Writes one block: its scale byte and 32 element codes, the padding of code zero (R124–R126); poison of one
element reaches the scale and so the block (R75). -/
def vBlock (p c : Nat) (d : VDst) (b : Nat) (xs : List (Num × Bool)) (free : Nat) (e : Eff) : Eff :=
  let bad := xs.any (·.2)
  let (k, convs) := encodeBlock d.fmt ((List.range xs.length).map fun i => vRound d free (32 * b + i)) d.sat
    (xs.map (·.1))
  let codes := convs.map (·.code) ++ List.replicate (32 - convs.length) 0
  let w := convs.foldl (fun acc q => acc ||| convWarn q) 0
  let at_ := d.addr + 4 * fmtBits d.fmt * b
  let inside := match d.limit with
    | some l => decide (4 * fmtBits d.fmt * (b + 1) ≤ l)
    | none => true
  if inside then
    let s1 := storeElts p c at_ d.fmt (codes.map fun x => (x, bad)) e.s
    let s2 := storeBytes p c (d.scale + b) [BitVec.ofNat 8 k] s1
    ({ e with s := if bad then storeTaint p c (d.scale + b) 1 s2 else s2 }.warns w).taint false bad
  else e.warns 16

/-- Cuts a list into pieces of 32. -/
def blocksOf {α : Type} : Nat → List α → List (List α)
  | 0, _ => []
  | _ + 1, [] => []
  | f + 1, l => l.take 32 :: blocksOf f (l.drop 32)

/-- Writes an output (R125, R131, R133). -/
def vOut (p c : Nat) (d : VDst) (xs : List (Num × Bool)) (e : Eff) : Eff :=
  let free := e.s.free
  let e1 : Eff := { e with s := { e.s with free := free + 1 } }
  if blockScaled d.fmt then
    let bs := blocksOf (xs.length + 1) xs
    ((List.range bs.length).zip bs).foldl (fun acc q => vBlock p c d q.1 q.2 free acc) e1
  else vPlain p c d xs free e1

/-- A vector operation over n elements, or a reduction of them to one (R58, R129, R130). -/
def vecOp (p c : Nat) (fn : VFn) (srcs : List VSrc) (d : VDst) (n : Nat) (s : State) : Eff :=
  let lanes := (List.range n).map fun i => srcs.map fun src => vOperand p c i src s
  let range := lanes.any fun l => l.any fun x => x.2.2
  let bads := lanes.map fun l => l.any fun x => x.2.1
  let vals := ((List.range n).zip lanes).map fun q =>
    laneNum fn (Config.free32 (s.free + 1 + q.1)) (q.2.map (·.1))
  let outs := match fn with
    | .topk k largest index => (topOf k largest index vals).map fun x => (x, bads.any id)
    | _ => if isReduce fn then [(reduceNum fn (Config.freeNat s.free) vals, bads.any id)] else vals.zip bads
  let e : Eff := { s := { s with free := s.free + 1 + n } }
  (vOut p c d outs (e.warns (if range then 16 else 0))).taint (bads.any id) false

/-- A complex number in FP32. -/
abbrev Cplx := Num × Num

/-- x rounded to FP32. -/
def fl32 (x : Num) : Num := ofF32 (toF32 x)

/-- The sum of two complex numbers, or their difference. -/
def cplxAdd (minus : Bool) (x y : Cplx) : Cplx :=
  if minus then (fl32 (x.1.add y.1.neg), fl32 (x.2.add y.2.neg)) else (fl32 (x.1.add y.1), fl32 (x.2.add y.2))

/-- The product of two complex numbers: in each part one product, then a fused multiply-add (log 105). -/
def cplxMul (x y : Cplx) : Cplx :=
  (fl32 ((x.2.neg.mul y.2).add (fl32 (x.1.mul y.1))), fl32 ((x.2.mul y.1).add (fl32 (x.1.mul y.2))))

/-- A complex number times −i, or i for the inverse transform. -/
def cplxTurn (inverse : Bool) (x : Cplx) : Cplx := if inverse then (x.2.neg, x.1) else (x.2, x.1.neg)

/-- The four outputs of a radix-4 butterfly. -/
def radix4 (inverse : Bool) (x0 x1 x2 x3 : Cplx) : List Cplx :=
  let t0 := cplxAdd false x0 x2
  let t1 := cplxAdd true x0 x2
  let t2 := cplxAdd false x1 x3
  let t3 := cplxTurn inverse (cplxAdd true x1 x3)
  [cplxAdd false t0 t2, cplxAdd false t1 t3, cplxAdd true t0 t2, cplxAdd true t1 t3]

/-- A radix-4 butterfly pass on 16 complex points: points j, j + 4, j + 8 and j + 12, each times its twiddle, give the
outputs in the same places (R58, R138, log 105). -/
def butterflyOp (p c re im wre wim ore oim : Nat) (inverse : Bool) (s : State) : Eff :=
  let rd (a i : Nat) : Num × Bool := eltNum p c a 0 .fp32 i s
  let pt (i : Nat) : Cplx := cplxMul ((rd re i).1, (rd im i).1) ((rd wre i).1, (rd wim i).1)
  let bad (j : Nat) : Bool := (List.range 4).any fun k =>
    (rd re (j + 4 * k)).2 || (rd im (j + 4 * k)).2 || (rd wre (j + 4 * k)).2 || (rd wim (j + 4 * k)).2
  let ys := (List.range 4).map fun j => radix4 inverse (pt j) (pt (j + 4)) (pt (j + 8)) (pt (j + 12))
  let out (i : Nat) : Cplx := (ys.getD (i % 4) []).getD (i / 4) (Num.zero, Num.zero)
  let codes (part : Cplx → Num) := (List.range 16).map fun i => ((toF32 (part (out i))).toNat, bad (i % 4))
  let any := (List.range 4).any bad
  ({ s := storeElts p c oim .fp32 (codes (·.2)) (storeElts p c ore .fp32 (codes (·.1)) s) } : Eff).taint any any

/-! ## The P engine (R89–R101) -/

/-- A weight code: 6-bit two's complement, 0b10_0000 read as −31 (R93, R136). -/
def weightCode (w : Nat) : Int := if w % 64 = 32 then -31 else toSigned 6 (w % 64)

/-- P_FILL: reads W slices of packed codes, with their poison (R97). A slice's 1,024 codes lie line by line, the column
running fastest: the spec gives only four codes in three bytes (log 103). -/
def pFillSet (p c w src : Nat) (sw : BitVec 32) (s : State) : WSet :=
  let bs := (List.range (768 * w)).map fun i => lsByte p c (src + i) s
  let n := leNat (bs.map (·.1))
  { w := w, codes := (List.range (1024 * w)).map fun i => weightCode (n / 64 ^ i), sw := sw
    poison := bs.any (·.2) }

/-- Whether a P operation keeps the limits of R98; W outside 1–16 and g above 7 are no values of Table 4-2 and count as
breaking them (log 113). -/
def pLimits (op : OpBody) : Bool := match op with
  | .pFill slot w _ _ => slot < 3 && 1 ≤ w && w ≤ 16
  | .pRun slot w sg g windows _ _ _ _ _ _ => slot < 3 && 1 ≤ w && w ≤ 16 && g < 8 && windows * w * (1 + bit sg) ≤ 4096
  | _ => true

/-- Symbols a P_RUN integrates (R96, Table 3-9). -/
def pSymbols (op : OpBody) : Nat := match op with
  | .pRun _ w sg _ windows _ _ _ _ _ _ => windows * w * (1 + bit sg)
  | _ => 0

/-- An input code as a signed magnitude (R92); unsigned operations present zero for sign 1 (R96, R145). -/
def inputCode (sg : Bool) (x : Num) (m : Nat) (e : Int) : Int := match x with
  | .fin neg a f =>
    let q := min f e
    let num := scaleNat (a * 63) (f - q)
    let den := scaleNat m (e - q)
    let mag := min 63 (roundDiv num den)
    if neg then (if sg then -(mag : Int) else 0) else mag
  | _ => 0

/-- Converter code of a column and whether it saturated (R89, R91, R94). `t` is the sum of products of codes: S is
t / (63 × 31). An unsaturated code is any within the error of R101: |c × F/128 − S| ≤ 2^−5 × F, that is |c − 128 S/F| ≤ 4
(R137, log 6). -/
def convert (w g : Nat) (t err : Int) : Int × Bool :=
  if 1953 * 32 * w < t.natAbs * 2 ^ g then (if t < 0 then -128 else 127, true)
  else
    let n := t * 4 * 2 ^ g
    let d : Int := 1953 * w
    let lo := -(-n / d) - 4
    let hi := n / d + 4
    (max (-128) (min 127 (lo + err % (hi - lo + 1))), false)

/-- The output of a code: c × W × 2^−(g+2) × s, rounded once (R95). -/
def pOutput (c : Int) (w g : Nat) (sx sw : BitVec 32) : Num :=
  Num.mul (Num.ofInt (c * w) (-(g : Int) - 2)) (ofF32 (toF32 (Num.mul (ofF32 sx) (ofF32 sw))))

/-- One window: the outputs of its 32 columns with their poison, and whether any saturated (R89–R96). -/
def pWindow (p c : Nat) (set : WSet) (sg : Bool) (g input stride r : Nat) (infmt : Fmt) (sx : BitVec 32) (s : State) :
    List (Num × Bool) × Bool :=
  let xs := (List.range (32 * set.w)).map fun i => eltNum p c (input + r * stride) 0 infmt i s
  let bad := set.poison || xs.any (·.2)
  if xs.any fun x => !x.1.isFin then (List.replicate 32 (.nan, bad), false)
  else match ofF32 sx with
    | .fin false m e =>
      if m = 0 then
        ((List.range 32).map fun j => (ofF32 (Config.free32 (s.free + 32 * r + j)), bad), false)
      else
        let codes := xs.map fun x => inputCode sg x.1 m e
        let outs := (List.range 32).map fun j =>
          let t := ((List.range codes.length).zip codes).foldl
            (fun (acc : Int) q => acc + q.2 * set.codes.getD (q.1 * 32 + j) 0) 0
          convert set.w g t (Config.photonicError (s.free + 32 * r + j))
        (outs.map fun o => (pOutput o.1 set.w g sx set.sw, bad), outs.any (·.2))
    | _ => ((List.range 32).map fun j => (ofF32 (Config.free32 (s.free + 32 * r + j)), bad), false)

/-- P_RUN: the windows of an operation, written when it retires (R99). An input scale that is not a positive number
gives no stated result: the outputs are free values (log 25). The outputs of successive windows lie one after the other
and the row stride counts bytes; a slot with no staged set gives poisoned outputs; a W other than the set's runs over the
set's codes (log 113). -/
def pRunAll (p c slot w : Nat) (sg : Bool) (g windows input : Nat) (infmt : Fmt) (stride sxAt out : Nat)
    (outfmt : Fmt) (s : State) : Eff :=
  let set := (tget none (coreGet p c s).slots slot).getD ⟨w, [], 0, true⟩
  let (sx, sxBad) := lsNat p c sxAt 4 s
  let rows := (List.range windows).map fun r =>
    pWindow p c { set with w := w, poison := set.poison || sxBad } sg g input stride r infmt (BitVec.ofNat 32 sx) s
  let sat := rows.any (·.2)
  let vals := rows.flatMap (·.1)
  let codes := vals.map fun v => ((encodeElt outfmt .near false v.1).code, v.2)
  let bad := codes.any (·.2)
  let s1 := storeElts p c out outfmt codes { s with free := s.free + 32 * windows + 1 }
  (({ s := s1 } : Eff).warns (if sat then 1 else 0)).taint bad bad

/-! ## Lengths (R56, R58, R59, R63) -/

/-- Whether a function is one of the transcendentals, which run at 16 lanes a step (R58). -/
def slowFn : VFn → Bool
  | .recip => true | .sqrt => true | .rsqrt => true | .exp2 => true | .log2 => true | .sin => true | .cos => true
  | .tanh => true | .erf => true
  | _ => false

/-- Length of a T or V operation in steps (Table 3-3, R58). The store of a tile counts one step (log 96). -/
def opSteps (b : OpBody) : Nat := match b with
  | .tMac fa fb k _ _ _ _ _ _ => ceilDiv (64 * k) (tWidth fa fb)
  | .tComplex fa fb k _ _ _ _ _ _ _ _ _ _ => 4 * ceilDiv (64 * k) (tWidth fa fb)
  | .tStore _ _ => 1
  | .vec fn _ _ n => if slowFn fn then ceilDiv n 16 else ceilDiv n 64
  | .butterfly _ _ _ _ _ _ _ => 6
  | .kern code grid lane _ _ _ _ => kLength code grid lane
  | _ => 0

/-! ## The M engine (R59, R147, R176, R185) -/

/-- A location some bytes further on. -/
def locAdd (l : Loc) (k : Nat) : Loc := match l with
  | .store a => .store (a + k)
  | .cluster x o => .cluster x (o + k)
  | .local a => .local (a + k)
  | .global g a => .global g (a + k)

/-- A location with its own package's global addresses served locally (R23). -/
def locHome (l : Loc) (s : State) : Loc := match l with
  | .global g a => if g = s.fab.id then .local a else .global g a
  | x => x

/-- The graph of the work item whose operation an M engine executes. -/
def moverGraph (p c : Nat) (s : State) : Option (Nat × Graph) :=
  ((engGet p c .m s).q.head?.bind fun op => (clusterGet p s).set.find? fun w => w.seq = op.wi).bind fun w =>
    graphAt w.item.graph s

/-- Whether an exposed cluster is out of reach for an M engine's operation: fenced, or failed under the execution that the
operation belongs to, which keeps its mapping (R80, R83). -/
def outFor (p c x : Nat) (s : State) : Bool :=
  exposedFenced x s || (moverGraph p c s).any fun g => g.2.running.any fun r =>
    r.failed.any fun f => f.kind = 0 && f.id = x

/-- A byte of a location inside the package, whether it is poisoned, and whether the access is unmapped (R176). -/
def locByte (p c : Nat) (l : Loc) (s : State) : Byte × Bool × Bool := match l with
  | .store a => let r := lsByte p c a s; (r.1, r.2, false)
  | .cluster x o =>
    let k := cmKey (physOf x s) (o % 2 ^ 22)
    (tget 0 s.mem.cm k, rmem (k / 8) s.mem.cmPoison || inSlice (o % 2 ^ 22) s || outFor p c x s, false)
  | .local a =>
    (match place a s with
      | .dram x => (viewByte x s, viewBad x s, false)
      | .cm x o =>
        let k := cmKey (physOf x s) o
        (tget 0 s.mem.cm k, rmem (k / 8) s.mem.cmPoison || inSlice o s || outFor p c x s, false)
      | .ls x q o =>
        let k := lsKey (physOf x s) q o
        (tget 0 s.mem.ls k, rmem (k / 8) s.mem.lsPoison || outFor p c x s, false)
      | .hwin _ => (0, true, false)
      | .reg _ => (0, true, true)
      | .unmapped => (0, true, true))
  | .global _ _ => (0, true, false)

/-- Lines that a write of DRAM counts, one each (R201). -/
def countWrites (a n : Nat) (s : State) : State :=
  if n = 0 then s else (spanLines a n).foldl (fun t l => if stackDown l t then t else countStack (stackOf l t).1 1 1 t) s

/-- Writes bytes, with the poison of each, at a location inside the package; dropped where nothing is mapped, where
the unit is fenced, and in a slice of the remote-line cache. -/
def locWrite (p c : Nat) (l : Loc) (bs : List (Byte × Bool)) (s : State) : State :=
  let raw := bs.map (·.1)
  let marks := ((List.range bs.length).zip bs).filterMap fun e => if e.2.2 then some e.1 else none
  match l with
  | .store a => marks.foldl (fun t i => storeTaint p c (a + i) 1 t) (storeBytes p c a raw s)
  | .cluster x o =>
    if outFor p c x s || inSlice (o + bs.length - 1) s then s
    else
      let k := cmKey (physOf x s) (o % 2 ^ 22)
      marks.foldl (fun t i => cmTaint (k + i) 1 t) (cmWrite k raw s)
  | .local a =>
    (match place a s with
      | .dram x => marks.foldl (fun t i => dramTaint (x + i) 1 t) (countWrites x bs.length (dramWriteBytes x raw s))
      | .cm x o =>
        if outFor p c x s || inSlice (o + bs.length - 1) s then s
        else
          let k := cmKey (physOf x s) o
          marks.foldl (fun t i => cmTaint (k + i) 1 t) (cmWrite k raw s)
      | .ls x q o =>
        if outFor p c x s then s
        else
          let k := lsKey (physOf x s) q o
          marks.foldl (fun t i => lsTaint (k + i) 1 t) (lsWrite k raw s)
      | _ => s)
  | .global _ _ => s

/-- Whether a location is unmapped for an engine (R176). -/
def locUnmapped (l : Loc) (s : State) : Bool := match l with
  | .local a => (match place a s with
    | .reg _ => true
    | .unmapped => true
    | _ => false)
  | _ => false

/-- The kind of a location for the counters: 0 own store, 1 cluster memory, 2 DRAM, 3 other. -/
def locKind (l : Loc) (s : State) : Nat := match l with
  | .store _ => 0
  | .cluster _ _ => 1
  | .local a => (match place a s with
    | .dram _ => 2
    | .cm _ _ => 1
    | _ => 3)
  | .global _ _ => 3

/-- Addresses at which a region of Table 7-1 begins or ends, ascending. -/
def regionEdges (s : State) : List Nat :=
  [topOfDram s, 0xC000000000, 0xC0A0000000, 0xC100000000, 0xC1A0000000, 0xE000000000, 0xF000000000, 0xFF00000000,
    0xFF000D0000]

/-- A span of a location cut where it passes from one region to the next: offset and length of each piece. -/
def locPieces (l : Loc) (n : Nat) (s : State) : List (Nat × Nat) := match l with
  | .local a =>
    let cuts := 0 :: ((regionEdges s).filter fun e => a < e && e < a + n).map (· - a) ++ [n]
    ((cuts.zip (cuts.drop 1)).map fun q => (q.1, q.2 - q.1)).filter fun q => q.2 != 0
  | _ => [(0, n)]

/-- Whether bytes at a location cross the seam for a cluster (Table 3-8). -/
def locSeam (p : Nat) (l : Loc) (s : State) : Bool := match l with
  | .store _ => false
  | .cluster x _ => flankOf (physOf x s) != flankOf p
  | .local a => (match place a s with
    | .dram x => decide ((stackOf x s).1 < 4) != decide (flankOf p = .north)
    | .cm x _ => flankOf (physOf x s) != flankOf p
    | .ls x _ _ => flankOf (physOf x s) != flankOf p
    | _ => false)
  | .global _ _ => false

/-- Counts a read of bytes by a cluster from a location (R85). Memory of another cluster counts at the cluster that reads
it (log 98). -/
def countRead (p n : Nat) (l : Loc) (s : State) : State :=
  let u := ceilDiv n 64
  let k := locKind l s
  let s1 := if k = 1 then countCluster p 4 u s else if k = 2 then countCluster p 9 u s else s
  let s2 := if k = 0 then s1 else countCluster p 7 u s1
  if locSeam p l s then countCluster p 8 u s2 else s2

/-- Counts bytes of a cluster's traffic with a peer: the mesh port, and the seam where the link is the other flank's (R85,
log 98). -/
def countPeer (p n ctr : Nat) (link : Option Nat) (s : State) : State :=
  let u := ceilDiv n 64
  let s1 := countCluster p ctr u s
  if link.any fun k => linkFlank k != flankOf p then countCluster p 8 u s1 else s1

/-- Counts a write of bytes by a cluster to a location (R85, log 98). -/
def countWrite (p n : Nat) (l : Loc) (s : State) : State :=
  let u := ceilDiv n 64
  let k := locKind l s
  let s1 := if k = 1 then countCluster p 5 u s else if k = 2 then countCluster p 10 u s else s
  let s2 := if k = 0 then s1 else countCluster p 6 u s1
  if locSeam p l s then countCluster p 8 u s2 else s2

/-- Adds a request to the operation an M engine executes. -/
def addMReq (p c : Nat) (r : MReq) (s : State) : State :=
  let x := engGet p c .m s
  engSet p c .m { x with run := x.run.map fun q => { q with requests := q.requests ++ [r] } } s

/-- Data cut into pieces of at most 192 bytes, each of one poison state by granules of 8 (R343, R344). -/
def sendPieces : Nat → Nat → List (Byte × Bool) → List (Nat × List Byte × Bool)
  | 0, _, _ => []
  | _ + 1, _, [] => []
  | fuel + 1, off, l =>
    let bad := (l.take 8).any (·.2)
    let rec run (k : Nat) (m : List (Byte × Bool)) : Nat := match k, m with
      | 0, _ => 0
      | _, [] => 0
      | k + 1, m => if (m.take 8).any (·.2) = bad then 8 + run k (m.drop 8) else 0
    let n := min l.length (run 24 l)
    (off, (l.take n).map (·.1), bad) :: sendPieces fuel (off + n) (l.drop n)

/-- Sends the writes of data to a peer (R23, R367). -/
def peerWrites (p c g a : Nat) (bs : List (Byte × Bool)) (s : State) : State :=
  (sendPieces (bs.length + 1) 0 bs).foldl (fun t q =>
    let tag := t.comp.nextTag
    let f := mkFlit 0x11 0 g t.fab.id tag q.2.2
      (leBytes 8 (a + q.1) ++ leBytes 2 q.2.1.length ++ zeros 6 ++ q.2.1)
    let r : FabReq := ⟨tag, g, true, a + q.1, q.2.1.length, t.clock.now, carrier g t, some (p, c), 0, 0⟩
    sendReq r f (countPeer p q.2.1.length 6 r.link
      (addMReq p c ⟨tag, a + q.1, q.2.1.length, t.clock.now, true, true, .store 0⟩ t))) s

/-- Sends the firmware's own writes of data to a peer (R23, R38, R164, R367). -/
def fwPeerWrites (g a : Nat) (bs : List (Byte × Bool)) (s : State) : State :=
  (sendPieces (bs.length + 1) 0 bs).foldl (fun t q =>
    let tag := t.comp.nextTag
    let f := mkFlit 0x11 0 g t.fab.id tag q.2.2
      (leBytes 8 (a + q.1) ++ leBytes 2 q.2.1.length ++ zeros 6 ++ q.2.1)
    sendReq ⟨tag, g, true, a + q.1, q.2.1.length, t.clock.now, carrier g t, none, 3, 0⟩ f t) s

/-- Sends the reads of a span of a peer (R23, R367). -/
def peerReads (p c g a n : Nat) (dst : Loc) (s : State) : State :=
  (List.range (ceilDiv n 192)).foldl (fun t i =>
    let tag := t.comp.nextTag
    let off := 192 * i
    let k := min 192 (n - off)
    let f := mkFlit 0x10 0 g t.fab.id tag false (leBytes 8 (a + off) ++ leBytes 2 (ceilDiv k 8 * 8))
    let r : FabReq := ⟨tag, g, false, a + off, k, t.clock.now, carrier g t, some (p, c), 0, 0⟩
    sendReq r f (addMReq p c ⟨tag, a + off, k, t.clock.now, true, false, locAdd dst off⟩ t)) s

/-- The host-window offset of a location, if it lies there. -/
def locHwin (l : Loc) (s : State) : Option Nat := match l with
  | .local a => (match place a s with
    | .hwin off => some off
    | _ => none)
  | _ => none

/-- Sends the accesses of a span of the host window, in pieces of at most 4,064 bytes (R221, Table 8-2). -/
def hwinPieces (p c : Nat) (write : Bool) (off : Nat) (bs : List Byte) (dst : Loc) (s : State) : State :=
  (List.range (ceilDiv bs.length 4064)).foldl (fun t i =>
    let piece := (bs.drop (4064 * i)).take 4064
    let tag := t.ports.hwinTag
    hwinSend p write (off + 4064 * i) piece <| countCluster p (if write then 6 else 7) (ceilDiv piece.length 64)
      (addMReq p c ⟨tag, off + 4064 * i, piece.length, t.clock.now, false, write, locAdd dst (4064 * i)⟩ t)) s

/-- Writes data an M engine holds to a location in one region: dropped with a class D fault against the cluster where
nothing is mapped (R176). -/
def mWritePiece (p c : Nat) (dst : Loc) (bs : List (Byte × Bool)) (s : State) : State := match dst with
  | .global g a =>
    if reachable g s then peerWrites p c g a bs s
    else faultDOpen (0x2000 + p) (fabCount 2 s)
  | d => match locHwin d s with
    | some off => if anyActive s then hwinPieces p c true off (bs.map (·.1)) d s else hwinFail s
    | none => if locUnmapped d s then faultDOpen (0x2000 + p) s else countWrite p bs.length d (locWrite p c d bs s)

/-- Writes data an M engine holds to a location anywhere, region by region. -/
def mWrite (p c : Nat) (dst : Loc) (bs : List (Byte × Bool)) (s : State) : State :=
  let d := locHome dst s
  (locPieces d bs.length s).foldl (fun t q => mWritePiece p c (locAdd d q.1) ((bs.drop q.1).take q.2) t) s

/-- The lines of DRAM that an M engine's read of a location touches are read (R22, R183–R185, R188, R201). -/
def locRead (p : Nat) (l : Loc) (n : Nat) (found : List (Nat × BadSymbols)) (s : State) : State := match l with
  | .local a => (match place a s with
    | .dram x => (spanLines x n).foldl (fun t k => clusterReads p k found t) s
    | _ => s)
  | _ => s

/-- Moves n bytes out of one region (R59). A peer or the host answers later; what it reads is written then. -/
def mMovePiece (p c : Nat) (src dst : Loc) (n : Nat) (bad : Bool) (e : Eff) : Eff := match src with
  | .global g a =>
    if reachable g e.s then { e with s := peerReads p c g a n dst e.s }
    else
      { e with s := faultDOpen (0x2000 + p) (fabCount 2 (mWrite p c dst (List.replicate n (0, true)) e.s))
               inBad := true, outBad := true }
  | l => match locHwin l e.s with
    | some off =>
      if anyActive e.s then { e with s := hwinPieces p c false off (zeros n) dst e.s }
      else { e with s := hwinFail (mWrite p c dst (List.replicate n (0, true)) e.s), inBad := true, outBad := true }
    | none =>
      let s1 := locRead p l n e.upset e.s
      let bs := (List.range n).map fun i => let r := locByte p c (locAdd l i) s1; (r.1, r.2.1 || bad)
      let tainted := bs.any (·.2)
      let s2 := if locUnmapped l s1 then faultDOpen (0x2000 + p) s1 else countRead p n l s1
      ({ e with s := mWrite p c dst bs s2 }).taint tainted tainted

/-- Moves n bytes between two locations, region by region of the source (R59, R176). -/
def mMove (p c : Nat) (src dst : Loc) (n : Nat) (bad : Bool) (e : Eff) : Eff :=
  let l := locHome src e.s
  (locPieces l n e.s).foldl (fun t q => mMovePiece p c (locAdd l q.1) (locAdd dst q.1) q.2 bad t) e

/-- The element offsets of a strided move, outermost dimension first. -/
def strided : List (Nat × Nat × Nat) → List (Nat × Nat)
  | [] => [(0, 0)]
  | (n, a, b) :: t => (List.range n).flatMap fun i => (strided t).map fun q => (q.1 + i * a, q.2 + i * b)

/-- A strided move (R59). -/
def mStrided (p c : Nat) (src dst : Loc) (dims : List (Nat × Nat × Nat)) (elt : Nat) (found : List (Nat × BadSymbols))
    (s : State) : Eff :=
  (strided dims).foldl (fun e q => mMove p c (locAdd src q.1) (locAdd dst q.2) elt false e) { s := s, upset := found }

/-- An index: an FP32 integer below the extent (R147). -/
def indexOf (w : BitVec 32) (extent : Nat) : Option Nat := match ofF32 w with
  | .fin neg m e =>
    if neg && m != 0 then none
    else if e < 0 && m % 2 ^ e.natAbs != 0 then none
    else if scaleNat m e < min extent (2 ^ 24) then some (scaleNat m e) else none
  | _ => none

/-- A gather or scatter by an index list held in the local store; an index out of range poisons the element read or
drops the element written, and sets INDEX_RANGE (R59, R147). -/
def mGather (p c : Nat) (table dst : Loc) (idx n elt extent : Nat) (scatter : Bool) (found : List (Nat × BadSymbols))
    (s : State) : Eff :=
  (List.range n).foldl (fun e i =>
    let (w, bad) := lsNat p c (idx + 4 * i) 4 s
    match indexOf (BitVec.ofNat 32 w) extent with
    | some k =>
      if scatter then mMove p c (locAdd table (elt * i)) (locAdd dst (elt * k)) elt bad e
      else mMove p c (locAdd table (elt * k)) (locAdd dst (elt * i)) elt bad e
    | none =>
      if scatter then e.warns 8
      else ({ e with s := mWrite p c (locAdd dst (elt * i)) (List.replicate elt (0, true)) e.s }.warns 8).taint bad true)
    { s := s, upset := found }

/-! ## Kernels (R155–R157) -/

/-- Writes one element of an operand by its own bits (R155). -/
def kPutElt (p c : Nat) (o : KOperand) (f : Fmt) (i code : Nat) (bad : Bool) (s : State) : State :=
  let (lo, hi) := eltBytes f i
  let n := hi - lo + 1
  let l := locHome (locAdd o.base lo) s
  let old := (List.range n).map fun j => locByte p c (locAdd l j) s
  let sh := eltBit f i % 8
  let w := leNat (old.map (·.1))
  let new := w - w / 2 ^ sh % 2 ^ fmtBits f * 2 ^ sh + code * 2 ^ sh
  locWrite p c l ((leBytes n new).map fun b => (b, bad)) s

/-- ST into a format that is not block-scaled: 64 lanes rounded by OFLAGS; a lane outside is dropped (R131, R133, R157). -/
def kStorePlain (p c : Nat) (env : KEnv) (o : KOperand) (f : Fmt) (nth e0 : Nat) (xs : List Lane) (e : Eff) : Eff :=
  ((List.range xs.length).zip xs).foldl (fun t q =>
    if kOutside o f (e0 + q.1) then t.warns 16
    else
      let r : Rnd := if env.stochastic then .draw (Config.stochasticDraw (env.free + nth) q.1) else .near
      let v := encodeElt f r env.sat q.2.1
      ({ t with s := kPutElt p c o f (e0 + q.1) v.code q.2.2 t.s }.warns (convWarn v)).taint false q.2.2) e

/-- ST into a block-scaled format: each block that a lane falls in is scaled anew over its lanes and what else it holds
(R125, R126). -/
def kStoreBlocks (p c : Nat) (env : KEnv) (op : Nat) (o : KOperand) (f : Fmt) (nth e0 : Nat) (xs : List Lane) (e : Eff) : Eff :=
  let row := if o.row = 0 then 2 ^ 31 else o.row
  let inside := (List.range xs.length).filter fun l => !kOutside o f (e0 + l)
  let e1 := if inside.length < xs.length then e.warns 16 else e
  let blocks := (inside.map fun l => ((e0 + l) / row, (e0 + l) % row / 32)).eraseDups
  blocks.foldl (fun t b =>
    let first := b.1 * row + 32 * b.2
    let n := min 32 (row - 32 * b.2)
    let vals := (List.range n).map fun i =>
      if e0 ≤ first + i && first + i < e0 + xs.length then xs.getD (first + i - e0) (Num.zero, false)
      else kElt env op f (first + i)
    let r (i : Nat) : Rnd := if env.stochastic then .draw (Config.stochasticDraw (env.free + nth) (32 * b.2 + i)) else .near
    let enc := encodeBlock f ((List.range n).map r) env.sat (vals.map (·.1))
    let bad := vals.any (·.2)
    let s1 := ((List.range n).zip enc.2).foldl (fun u q => kPutElt p c o f (kPos o f (first + q.1)) q.2.code bad u) t.s
    let at_ := locHome (locAdd o.base (o.scaleAt + kPos o f first / 32)) s1
    ({ t with s := locWrite p c at_ [(BitVec.ofNat 8 enc.1, bad)] s1 }.warns
      (enc.2.foldl (fun w q => w ||| convWarn q) 0)).taint false bad) e1

/-- One invocation of a kernel: its loads, its lanes, then its stores, since it reads nothing that it writes (R76). -/
def kernOp (p c : Nat) (code : List (BitVec 64)) (grid : List Nat) (lane : Nat) (operands : List KOperand)
    (stochastic sat : Bool) (scratch : Nat) (found : List (Nat × BadSymbols)) (s : State) : Eff :=
  let env (t : State) : KEnv :=
    { byte := fun k i => match operands[k]? with
        | some o => let r := locByte p c (locHome (locAdd o.base i) t) t; (r.1, r.2.1)
        | none => (0, true)
      operands := operands, stochastic := stochastic, sat := sat, scratch := scratch, free := s.free }
  let s1 := (kInvoke (env s) code grid lane).loads.foldl (fun t x => match operands[x.1]? with
    | some o =>
      let b := eltBytes x.2.2.2 (kPos o x.2.2.2 x.2.1)
      let l := locHome (locAdd o.base b.1) t
      countRead p (b.2 + 1 - b.1) l (locRead p l (b.2 + 1 - b.1) found t)
    | none => t) s
  let r := kInvoke (env s1) code grid lane
  let bad := r.loads.any fun x => (kElt (env s1) x.1 x.2.2.2 x.2.1).2
  let e : Eff := (({ s := { s1 with free := s1.free + 64 * r.steps + 65600 } } : Eff).warns
    (r.warn ||| (if r.range then 16 else 0))).taint bad false
  ((List.range r.stores.length).zip r.stores).foldl (fun t q => match operands[q.2.1]? with
    | some o =>
      if blockScaled q.2.2.2.1 then kStoreBlocks p c (env t.s) q.2.1 o q.2.2.2.1 q.1 q.2.2.1 q.2.2.2.2 t
      else kStorePlain p c (env t.s) o q.2.2.2.1 q.1 q.2.2.1 q.2.2.2.2 t
    | none => t) e

/-- Bytes an M operation moves (R63). -/
def mBytes (b : OpBody) : Nat := match b with
  | .move _ _ dims elt => (dims.foldl (fun n d => n * d.1) 1) * elt
  | .gather _ _ _ n elt _ _ => n * elt
  | _ => 0

/-! ## The whole operation -/

/-- What an operation does when it starts; a P_RUN's outputs and a P_FILL's slot come at its end. -/
def opEffect (p c : Nat) (b : OpBody) (found : List (Nat × BadSymbols)) (s : State) : Eff := match b with
  | .tMac fa fb k a bb sa sb tile init => tMac p c fa fb k a bb sa sb tile init s
  | .tComplex fa fb k ar ai br bi sar sai sbr sbi tile conj => tComplex p c fa fb k ar ai br bi sar sai sbr sbi tile conj s
  | .tStore tile dst => tStore p c tile dst s
  | .vec fn srcs d n => vecOp p c fn srcs d n s
  | .butterfly re im wre wim ore oim inverse => butterflyOp p c re im wre wim ore oim inverse s
  | .move src dst dims elt => mStrided p c src dst dims elt found s
  | .gather t d idx n elt extent sc => mGather p c t d idx n elt extent sc found s
  | .kern code grid lane operands stochastic sat scratch =>
    kernOp p c code grid lane operands stochastic sat scratch found s
  | .pFill _ _ _ _ => { s := s }
  | .pRun _ _ _ _ _ _ _ _ _ _ _ => { s := s }

/-- The engine a body belongs to. -/
def bodyEngine : OpBody → Engine
  | .tMac _ _ _ _ _ _ _ _ _ => .t
  | .tComplex _ _ _ _ _ _ _ _ _ _ _ _ _ => .t
  | .tStore _ _ => .t
  | .vec _ _ _ _ => .v
  | .butterfly _ _ _ _ _ _ _ => .v
  | .move _ _ _ _ => .m
  | .gather _ _ _ _ _ _ _ => .m
  | .kern _ _ _ _ _ _ _ => .v
  | .pFill _ _ _ _ => .p
  | .pRun _ _ _ _ _ _ _ _ _ _ _ => .p

/-! ## Answers to M engines (R59, R221, R367) -/

/-- Whether a request is the one of a tag, on the fabric or in the host window. -/
def mreqIs (remote : Bool) (tag : BitVec 32) (r : MReq) : Bool := r.remote = remote && r.tag = tag

/-- The core whose M engine holds a request. -/
def mreqCore (remote : Bool) (tag : BitVec 32) (s : State) : Option (Nat × Nat × MReq) :=
  s.comp.cores.findSome? fun e =>
    (e.2.m.run.bind fun q => q.requests.find? (mreqIs remote tag)).map fun r => (e.1 / 16, e.1 % 16, r)

/-- A peer's part of the execution that an M engine works for has failed, with a cause of Table 10-7 (R38, R197, R260). -/
def peerPartFails (p c pkg cause : Nat) (s : State) : State := match moverGraph p c s with
  | some (i, g) =>
    slotSet i { g with running := g.running.map fun r => { r with failed := addPart ⟨2, pkg, cause⟩ r.failed } } s
  | none => s

/-- Ends a request of an M engine: data, or none when the write is done or dropped; poison with no data. -/
def mreqEnd (remote : Bool) (tag : BitVec 32) (data : List Byte) (bad : Bool) (s : State) : State :=
  match mreqCore remote tag s with
  | none => s
  | some (p, c, r) =>
    let x := engGet p c .m s
    let s1 := engSet p c .m { x with run := x.run.map fun q =>
      { q with requests := q.requests.filter fun y => !mreqIs remote tag y
               poisonIn := q.poisonIn || (bad && !r.write)
               poisonOut := q.poisonOut || (bad && !r.write) } } s
    if r.write then s1
    else mWrite p c r.dst (if bad then List.replicate r.bytes (0, true)
      else (padTo r.bytes data).map fun b => (b, false)) s1

/-- HWIN_RESPONSE: the host's answer, in SEQ order like every host frame; any status but OK is a failure
(R210, R221). -/
def execHwinResponse (_p : Port) (f : Frame) (s : State) : Step :=
  match isNext f s with
  | none => .next s
  | some _ =>
    if !isHwinResp f then .next s
    else
      let s1 := acted f s
      match s1.ports.hwin.find? fun q => q.seq = f.refSeq with
      | none => .next s1
      | some q =>
        let s2 := dropHwin q.seq s1
        if f.arg.toNat % 256 = 0 then .next (mreqEnd false q.tag f.payload false s2)
        else .next (hwinFail (mreqEnd false q.tag [] true s2))

/-- With no port ACTIVE the requests that wait for credit fail at once (R221). -/
def failWaiting (s : State) : State :=
  s.ports.hwinWait.foldl (fun t q => hwinFail (mreqEnd false q.tag [] true t))
    { s with ports := { s.ports with hwinWait := [] } }

/-- HWIN_RETRY_TIMER: a request unanswered after 100 µs is sent again with a new SEQ once the host's credits allow it, up
to three times; then it fails (R215, R221). -/
def execHwinRetryTimer (seq : BitVec 32) (s0 : State) : Step :=
  let s := if anyActive s0 then s0 else failWaiting s0
  match s.ports.hwin.find? fun q => q.seq = seq with
  | none => .next s
  | some q =>
    if s.clock.now < q.sentAt + 100000 then .next s
    else if q.attempts < 4 ∧ anyActive s = true then .next (hwinTry q (dropHwin seq s))
    else .next (hwinFail (mreqEnd false q.tag [] true (dropHwin seq s)))

end Sys2Proof.Machine
end

