-- ==== Sys2Proof/Machine/Tensors.lean ====
section
/-!
DEFINITION. Shapes and storage of tensors, the buckets of an execution, the operands of kernels, and what a RECV waits for
(R145, R146, R150, R151, R154, R158, R159).
-/

namespace Sys2Proof.Machine

/-- The next multiple of 64. -/
def up64 (n : Nat) : Nat := ceilDiv n 64 * 64

/-- TFLAGS: complex, unsigned, spillable, index. -/
def Tensor.complex (t : Tensor) : Bool := bitOf t.tflags 0

/-- The spillable flag. -/
def Tensor.spillable (t : Tensor) : Bool := bitOf t.tflags 2

/-- The index flag. -/
def Tensor.index (t : Tensor) : Bool := bitOf t.tflags 3

/-- Extents with each variable at a value: by set and variable. -/
def dimsWith (val : Nat → Nat → Nat) (t : Tensor) : List Nat :=
  t.dims.map fun d => if d < 2 ^ 31 then d else val t.bucketSet (d % 256)

/-- The product of extents. -/
def prod (l : List Nat) : Nat := l.foldl (· * ·) 1

/-- Block axis of a tensor with a shape: the innermost unless it names one. -/
def blockAxis (t : Tensor) (n : Nat) : Nat := if t.axis = 0xFF then n - 1 else t.axis

/-- Blocks of a block-scaled tensor with a shape. -/
def blockCount (t : Tensor) (dims : List Nat) : Nat :=
  let ax := blockAxis t dims.length
  prod (dims.eraseIdx ax) * ceilDiv (dims.getD ax 1) 32

/-- Bytes of the element array of one part of a tensor (R124, R146). -/
def eltArray (t : Tensor) (dims : List Nat) : Nat := match fmtOf t.format with
  | none => 0
  | some f => if blockScaled f then blockCount t dims * (4 * fmtBits f) else ceilDiv (prod dims * fmtBits f) 8

/-- Bytes of one part of a tensor's storage: element array, padding and scale array (R124, R146). -/
def partBytes (t : Tensor) (dims : List Nat) : Nat := match fmtOf t.format with
  | none => 0
  | some f => if blockScaled f then up64 (eltArray t dims) + blockCount t dims else eltArray t dims

/-- Bytes of a tensor's whole storage with a shape (R146). -/
def storageBytes (t : Tensor) (dims : List Nat) : Nat :=
  let p := partBytes t dims
  if t.complex then up64 p + p else p

/-- The largest value of a variable over the buckets of its set (R158). -/
def largestVar (l : List BucketSet) (set v : Nat) : Nat :=
  ((l[set]?).map fun b => b.rows.foldl (fun m r => max m (r.getD v 0)) 0).getD 0

/-- The shape of a tensor with every variable at its largest value. -/
def largestDims (sets : List BucketSet) (t : Tensor) : List Nat := dimsWith (largestVar sets) t

/-- Attribute `k`. -/
def Operator.attr (o : Operator) (k : Nat) : Nat := o.attrs.getD k 0

/-- Attribute `k` as a flag. -/
def Operator.flag (o : Operator) (k : Nat) : Bool := o.attr k = 1

/-- Actual values of the shape variables, set by set. -/
def shapeRows (b : Bundle) (vals : List Nat) : List (List Nat) :=
  (b.buckets.foldl (fun (acc : List Nat × List (List Nat)) k => (acc.1.drop k.vars, acc.2 ++ [acc.1.take k.vars]))
    (vals, [])).2

/-- The bucket of a set that covers the actual values with the smallest product, the lower index on a tie (R159). -/
def chooseBucket (k : BucketSet) (row : List Nat) : Option (List Nat) :=
  k.rows.foldl (fun best r =>
    if (r.zip row).all fun e => e.2 ≤ e.1 then
      (match best with
        | none => some r
        | some x => if prod r < prod x then some r else best)
    else best) none

/-- The buckets chosen, one for each set; none where a value is zero or no bucket covers them (R159). -/
def chooseBuckets (b : Bundle) (rows : List (List Nat)) : Option (List (List Nat)) :=
  if rows.any fun r => r.any (· = 0) then none
  else ((b.buckets.zip rows).map fun e => chooseBucket e.1 e.2).mapM id

/-- The value of a variable of a set in a list of rows. -/
def rowValue (rows : List (List Nat)) (set v : Nat) : Nat := (rows.getD set []).getD v 0

/-- The tensor whose bucket set names the grid variables of a kernel: the operator's first output (log 108). -/
def gridTensor (ts : List Tensor) (o : Operator) : Option Tensor := (o.outs[0]?).bind (ts[·]?)

/-- Extents of a kernel's grid, its variables taking the values they have for that tensor (R154, R158). -/
def gridOf (ts : List Tensor) (dims : Tensor → List Nat) (o : Operator) (k : Kernel) : List Nat :=
  match gridTensor ts o with
  | some t => dims { t with dims := k.grid.take k.gridRank }
  | none => k.grid.take k.gridRank

/-- Extents of a tensor in an execution: its actual ones (R159). -/
def actualDims (b : Bundle) (x : Execution) (t : Tensor) : List Nat :=
  dimsWith (rowValue (if b.hasShapes then shapeRows b x.shapes else [])) t

/-- Whether an operand of a kernel invocation is a tensor with a shape, wherever it lies (R155, R157). -/
def operandIs (o : KOperand) (t : Tensor) (dims : List Nat) : Bool :=
  o.bytes = eltArray t dims && o.scaleAt = up64 (eltArray t dims) &&
    o.row = (match fmtOf t.format with
      | some f => if blockScaled f then dims.getD (blockAxis t dims.length) 1 else 0
      | none => 0)

/-- Bytes of the output of a RECV, and of the operand of a SEND: the storage of the tensor with its actual extents (R150,
R151, R159). -/
def recvSize (b : Bundle) (x : Execution) (t : Nat) : Nat := match b.tensors[t]? with
  | none => 0
  | some d => storageBytes d (actualDims b x d)

/-- Key of the SEND that a RECV names: PEER and TAG. -/
def recvKey (o : Operator) : Nat := o.attr 0 % 2 ^ 20 * 2 ^ 32 + o.attr 1 % 2 ^ 32

/-- RECV operators that this package places, by index. -/
def recvOps (g : Graph) : List Nat :=
  (List.range g.b.operators.length).filter fun i => ((g.b.operators[i]?).map (·.opcode)) = some 0x66 && tget [] g.placed i != []

/-- The output tensor of an operator. -/
def outOf (g : Graph) (op : Nat) : Nat := (((g.b.operators[op]?).map (·.outs)).getD []).headD 0

/-- Whether every byte of a RECV has arrived. -/
def recvWhole (g : Graph) (x : Execution) (op : Nat) (s : State) : Bool := match g.b.operators[op]? with
  | some o => recvSize g.b x (outOf g op) ≤ (tget [] s.fab.received (recvKey o)).length
  | none => true

/-- Whether a RECV's SEND is longer than its output: a mismatch of shapes (R151). -/
def recvLong (g : Graph) (x : Execution) (op : Nat) (s : State) : Bool := match g.b.operators[op]? with
  | some o => (tget [] s.fab.received (recvKey o)).any fun e => recvSize g.b x (outOf g op) ≤ e.1
  | none => false

/-- Whether a RECV's SEND came with poison. -/
def recvBad (g : Graph) (op : Nat) (s : State) : Bool := match g.b.operators[op]? with
  | some o => s.fab.receivedBad.contains (recvKey o)
  | none => false

/-- Whether a RECV has passed its limit: the execution's deadline, or 1 s where none is declared (R150). -/
def recvLate (g : Graph) (x : Execution) (s : State) : Bool :=
  x.cmd.tAccept + (if g.b.deadline = 0 then 1000000000 else g.b.deadline) ≤ s.clock.now

/-! ## The order of operators (R148, R163) -/

/-- Whether a tensor is a state tensor. -/
def isStateTensor (b : Bundle) (t : Nat) : Bool := ((b.tensors[t]?).map (·.kind)) = some 4

/-- Whether operator `i` waits for operator `j`: `j` makes what `i` reads, or comes first in the records of two that write one
tensor or share a state tensor (R148, log 109). -/
def waitsFor (b : Bundle) (i j : Nat) : Bool := match b.operators[i]?, b.operators[j]? with
  | some o, some q =>
    i != j && (q.outs.any (fun t => o.ins.contains t && (!isStateTensor b t || j < i)) ||
      (j < i && (q.outs.any o.outs.contains || q.ins.any fun t => isStateTensor b t && o.outs.contains t)))
  | _, _ => false

/-- Whether an operator of an execution has finished: a RECV when its SEND is whole or its limit has passed, any other when
it has run and none of its work items is outstanding, or when every cluster of its placement has failed. -/
def opFinished (g : Graph) (x : Execution) (op : Nat) (s : State) : Bool :=
  if (recvOps g).contains op then recvWhole g x op s || recvLate g x s
  else
    (x.items.any (fun t => t.2.2 = op) || (tget [] g.placed op).all fun e => x.failed.any fun f => f.kind = 0 && f.id = e) &&
      !(x.items.any fun t => t.2.2 = op && x.work.contains (t.1, t.2.1))

/-- Whether every operator of this package that an operator waits for has finished (R148). -/
def opReady (g : Graph) (x : Execution) (op : Nat) (s : State) : Bool :=
  (List.range g.b.operators.length).all fun j => !waitsFor g.b op j || tget [] g.placed j = [] || opFinished g x j s

/-- Whether an operator could start now: ready, and with no work item of this execution yet. -/
def opDue (g : Graph) (x : Execution) (op : Nat) (s : State) : Bool :=
  tget [] g.placed op != [] && !(recvOps g).contains op && !(x.items.any fun t => t.2.2 = op) && opReady g x op s

/-- Whether an operator gives way to one of its own graph: of two that could start, placed alike, the earlier record goes
first (R148). -/
def laterRecord (g : Graph) (x : Execution) (op : Nat) (s : State) : Bool :=
  opDue g x op s && (List.range op).any fun j =>
    opDue g x j s && tget [] g.placed j = tget [] g.placed op && g.photonic.contains j = g.photonic.contains op

/-- Whether a deadline graph that runs has an operator that could start on an exposed cluster (R163). -/
def deadlineWaits (e : Nat) (s : State) : Bool := s.graphs.slot.any fun y =>
  y.2.b.priority = 1 && y.2.state = some .running && y.2.ending = [] && y.2.running.any fun x =>
    x.begun && (List.range y.2.b.operators.length).any fun j => (tget [] y.2.placed j).contains e && opDue y.2 x j s

/-- Whether every operator that this package places has finished (R165). -/
def opsFinished (g : Graph) (x : Execution) (s : State) : Bool :=
  (List.range g.b.operators.length).all fun j => tget [] g.placed j = [] || opFinished g x j s

end Sys2Proof.Machine
end

