-- ==== Sys2Proof/Machine/Work.lean ====
section
/-!
DEFINITION. The work path (chapter 3): work items, engine operations, their start and retirement, credits, remote sync
and power gating.
-/

namespace Sys2Proof.Machine

/-! ## Completions reach the firmware (R64, R75) -/

/-- Output tensors of an operator. -/
def opOutputs (g : Graph) (op : Nat) : List Nat :=
  (((g.b.operators[op]?).map (·.outs)).getD []).filter fun t => ((g.b.tensors[t]?).map (·.kind)) = some 1

/-- Adds what a completion says to the execution it belongs to. -/
def noteDone (d : WiDone) (op : Nat) (x : Nat) (g : Graph) : Graph :=
  { g with running := g.running.map fun r =>
      if r.work.contains (x, d.seq) then
        { r with work := r.work.filter fun w => w != (x, d.seq), warn := r.warn ||| d.warn,
                 poisoned := if d.poisoned then addPoisoned (opOutputs g op) r.poisoned else r.poisoned }
      else r }

/-- The firmware reads one completion: it knows the operator of the work item it placed. -/
def readDone (d : WiDone) (s : State) : State := match graphAt d.graph s, exposedOf d.cluster s with
  | some (i, g), some x => slotSet i (noteDone d d.op.toNat x g) s
  | _, _ => s

/-- The firmware reads every completion of a flank, granting a credit for each (R64). -/
def fwReadDone (f : Flank) (s : State) : State := match f with
  | .north =>
    s.comp.doneN.foldl (fun t d => readDone d t)
      { s with comp := { s.comp with doneN := [], doneNc := s.comp.doneNc.grant s.comp.doneN.length } }
  | .south =>
    s.comp.doneS.foldl (fun t d => readDone d t)
      { s with comp := { s.comp with doneS := [], doneSc := s.comp.doneSc.grant s.comp.doneS.length } }

/-- The completion queue's totals of a flank. -/
def doneCtr (f : Flank) (s : State) : QCtr := match f with
  | .north => s.comp.doneNc
  | .south => s.comp.doneSc

/-- Posts a completion to the flank's queue. -/
def postDone (d : WiDone) (s : State) : State := match flankOf d.cluster with
  | .north => { s with comp := { s.comp with doneN := s.comp.doneN ++ [d], doneNc := s.comp.doneNc.send } }
  | .south => { s with comp := { s.comp with doneS := s.comp.doneS ++ [d], doneSc := s.comp.doneSc.send } }

/-! ## Work items (R64, R69, R71, R75, R102) -/

/-- The work item as the firmware writes it: always restartable; photonic only for an eligible operator (R69, R102). -/
def sealItem (g : Graph) (w : WorkItem) : WorkItem :=
  { w with flags := (w.flags &&& 0xA) ||| 1 ||| (if g.photonic.contains w.opIndex.toNat then w.flags &&& 4 else 0) }

/-- Whether the firmware may place a work item on an exposed cluster now: a credit (R64, R66, R68), the operators that its
operator waits for (R148), the order of records and deadline graphs first (R148, R163). -/
def mayPlace (x : Nat) (w : WorkItem) (s : State) : Bool :=
  let c := clusterGet (physOf x s) s
  fwActs s && x < 640 && !exposedFenced x s && flankPhase (flankOf (physOf x s)) s = .inService && !c.closed &&
    c.creditFaults = [] && 0 < c.qc.avail && c.qc.avail ≤ 256 &&
    match graphAt w.graph s with
    | some (_, g) =>
      g.state = some .running && (tget [] g.placed w.opIndex.toNat).contains x &&
        (match g.running with
          | some r =>
            r.begun && opReady g r w.opIndex.toNat s && !laterRecord g r w.opIndex.toNat s &&
              (g.b.priority = 1 || !deadlineWaits x s) && !r.failed.any fun f => f.kind = 0 && f.id = x
          | none => false)
    | none => false

/-- WORK_ITEM_PLACE: the firmware places a work item of a running execution in a cluster queue against a credit
(R64, R69, R102). WI_SEQ is the sent total before it counts this work item (log 99). -/
def execWorkItemPlace (x : Nat) (w : WorkItem) (s : State) : Step :=
  if !mayPlace x w s then .next s
  else match graphAt w.graph s with
    | none => .next s
    | some (i, g) =>
      let p := physOf x s
      let c := clusterGet p s
      let it : WorkSt := ⟨c.qc.pSent, sealItem g w, 0, false, false, 0, false, 0, []⟩
      let s1 := clusterSet p { c with q := c.q ++ [it], qc := c.qc.send } s
      .next (slotSet i { g with running := g.running.map fun r =>
        { r with work := r.work ++ [(x, it.seq)], items := r.items ++ [(x, it.seq, w.opIndex.toNat)] } } s1)

/-- WORK_ITEM_TAKE: the sequencer takes the next work item into its working set and returns its credit (R64, R69). -/
def execWorkItemTake (p : Nat) (s : State) : Step :=
  let c := clusterGet p s
  if !clusterLive p s then .next s
  else match c.q with
    | [] => .next s
    | w :: rest =>
      if graphHeld w.item.graph s then .next s else .next (clusterSet p { c with q := rest, set := c.set ++ [w], qc := c.qc.grant 1 } s)

/-- The work item of the working set with a sequence number. -/
def itemOf (p : Nat) (seq : BitVec 32) (s : State) : Option WorkSt := (clusterGet p s).set.find? fun w => w.seq = seq

/-- Changes a work item of the working set. -/
def modItem (p : Nat) (seq : BitVec 32) (f : WorkSt → WorkSt) (s : State) : State :=
  let c := clusterGet p s
  clusterSet p { c with set := c.set.map fun w => if w.seq = seq then f w else w } s

/-! ## Issue (R62–R64, R71, R79) -/

/-- Steps that an operation takes from the issue tokens: a kernel invocation is cut into operations of at most 3,840 steps,
of which the first pays (R62, R63, log 108). -/
def tokenSteps (b : OpBody) : Nat := match b with
  | .kern _ _ _ _ _ _ _ => min 3840 (opSteps b)
  | _ => opSteps b

/-- Whether what an operation does keeps the length limits of R63; a strided move has at most four dimensions (R59). -/
def bodyLengthOk (b : OpBody) : Bool := match b with
  | .move _ _ dims _ => dims.length ≤ 4 && mBytes b ≤ 65536
  | .gather _ _ _ _ _ _ _ => mBytes b ≤ 65536
  | .kern _ _ _ _ _ _ _ => true
  | _ => opSteps b ≤ 3840

/-- Whether an operation keeps the limits of R63; what a photonic operation falls back to are T operations that do (R79). -/
def opLengthOk (op : EngOp) : Bool :=
  bodyLengthOk op.body && op.fallback.all fun b => bodyEngine b = .t && bodyLengthOk b

/-- Whether an operation sends to a peer package (R76). -/
def isSend (op : EngOp) (s : State) : Bool := match op.body with
  | .move _ d _ _ => (match locHome d s with
    | .global _ _ => true
    | _ => false)
  | .gather _ d _ _ _ _ _ => (match locHome d s with
    | .global _ _ => true
    | _ => false)
  | _ => false

/-- Whether an operation may be issued in the phase its work item has reached: peer sends only in a final phase, once every
other operation of the item has retired, and from then on nothing else (R76). -/
def phaseOk (w : WorkSt) (op : EngOp) (s : State) : Bool :=
  if isSend op s then w.item.flags.getLsbD 1 && (w.final || (w.pending = 0 && w.fall = [])) else !w.final

/-- Whether a P operation is the one the firmware lowers its operator to: W and g of R153, signed unless the input tensor
is declared unsigned, s_w of one of its weight sets, formats of R92 and R95 (R93, R94, R96, R153). -/
def photonicOk (w : WorkItem) (b : OpBody) (s : State) : Bool :=
  match (graphAt w.graph s).bind fun g => g.2.b.eligible.find? fun e => e.op = w.opIndex.toNat with
  | none => false
  | some e => match b with
    | .pFill _ n _ sw => n = e.w && e.scales.contains sw
    | .pRun _ n sg g _ _ infmt _ _ _ outfmt =>
      n = e.w && g = e.g && sg = e.signed && [Fmt.fp32, .bf16, .fp16].contains infmt && [Fmt.fp32, .bf16].contains outfmt
    | _ => true

/-- Whether a location is one that an operation answers at once: neither a peer's nor in the host window. -/
def locAtHand (l : Loc) (s : State) : Bool := match locHome l s with
  | .global _ _ => false
  | x => (locHwin x s).isNone

/-- Whether an operation converts as its operator's ROUNDING and SAT ask, for a format narrower than FP32, and whether a
kernel invocation is one of its CUSTOM operator: the code, a point of the grid, and the operands with their actual extents
(R149, R154, R155, R159). -/
def flagsOk (w : WorkItem) (b : OpBody) (s : State) : Bool :=
  match (graphAt w.graph s).map (·.2) with
  | none => true
  | some g => match g.b.operators[w.opIndex.toNat]?, g.running with
    | some o, some x => (match b with
      | .vec _ _ d _ => d.fmt = .fp32 || (d.stochastic = bitOf o.oflags 0 && d.sat = bitOf o.oflags 1)
      | .kern code grid _ operands st sa scratch => (match g.b.kernels[o.kernel]? with
        | some k =>
          let ts := (o.ins ++ o.outs).filterMap (g.b.tensors[·]?)
          let dims := actualDims g.b x
          o.opcode = 0x70 && code = k.code && scratch = k.scratch && st = bitOf o.oflags 0 && sa = bitOf o.oflags 1 &&
            grid.length = k.gridRank && (grid.zip (gridOf g.b.tensors dims o k)).all (fun q => q.1 < q.2) &&
            operands.length = ts.length && (operands.zip ts).all (fun q => operandIs q.1 q.2 (dims q.2)) &&
            operands.all fun q => locAtHand q.base s
        | none => false)
      | _ => true)
    | _, _ => true

/-- Whether the sequencer may issue an operation of a work item to a core now, credits and tokens aside. -/
def mayIssue (p c : Nat) (e : Engine) (op : EngOp) (s : State) : Bool :=
  clusterLive p s && c < 16 && !coreFenced p c s && !opHeld p op s && opLengthOk op &&
    bodyEngine op.body = e &&
    match itemOf p op.wi s with
    | some w => w.item.coreMask.getLsbD c && workWaitMet p w.item s && (e != .p || (w.item.flags.getLsbD 2 && photonicOk w.item op.body s && (isFill op || op.fallback != []))) &&
      phaseOk w op s && flagsOk w.item op.body s
    | none => false

/-- What the issue of an operation does to its work item: a send opens the final phase and is owed until acknowledged, a
lost one once only; a T operation that a photonic one fell back to is owed no longer (R76, R77, R79). -/
def issued (op : EngOp) (send : Bool) (w : WorkSt) : WorkSt :=
  { w with issued := true, pending := w.pending + 1, final := w.final || send,
           owed := if send then max w.owed (w.pending + 1) else w.owed, fall := w.fall.erase op }

/-- Puts an operation in an engine queue against a credit; with none free the attempt is a credit stall. -/
def issueTo (p c : Nat) (e : Engine) (op : EngOp) (s : State) : State :=
  let x := engGet p c e s
  if x.ctr.avail = 0 || 32 < x.ctr.avail then countCluster p 2 1 s
  else
    let s1 := engSet p c e { x with q := x.q ++ [op], ctr := x.ctr.send, throttled := false } s
    countCluster p 1 1 (modItem p op.wi (issued op (isSend op s)) s1)

/-- Cores that a work item may use (Table 3-6). -/
def itemCores (p : Nat) (wi : BitVec 32) (s : State) : List Nat :=
  (List.range 16).filter fun k => (itemOf p wi s).any fun w => w.item.coreMask.getLsbD k

/-- The lowest other core of the work item whose P engine serves (R79, log 100). -/
def otherBank (p c : Nat) (wi : BitVec 32) (s : State) : Option Nat :=
  (itemCores p wi s).find? fun k => k != c && bankServes p k s

/-- The T operations that a photonic operation falls back to: the first carries its wait, the last its signal (R79). -/
def fallbackOps (op : EngOp) : List EngOp :=
  let n := op.fallback.length
  ((List.range n).zip op.fallback).map fun q =>
    ⟨op.wi, if q.1 = 0 then op.wait else none, if q.1 + 1 = n then op.signal else .none, q.2, []⟩

/-- A photonic operation runs on the T engines: its work item owes the T operations, which the sequencer issues as it issues
any other (R71, R79, R102). A P_FILL then loads nothing. -/
def fallBack (p : Nat) (op : EngOp) (s : State) : State :=
  countCluster p 12 1 (modItem p op.wi (fun w => { w with warn := w.warn ||| 0x200, fall := w.fall ++ fallbackOps op }) s)

/-- ENGINE_OP_ISSUE: the sequencer issues one operation (R71). T and V operations need issue tokens (R62). A photonic
operation goes to another core's P engine while its own is out, and falls back to the T engines while none serves
(R79). -/
def execEngineOpIssue (p c : Nat) (e : Engine) (op : EngOp) (s : State) : Step :=
  if !mayIssue p c e op s then .next s
  else match e with
    | .p =>
      if bankServes p c s then .next (issueTo p c .p op s)
      else match otherBank p c op.wi s with
        | some k => .next (countCluster p 11 1 (issueTo p k .p op s))
        | none => .next (fallBack p op s)
    | .m => .next (issueTo p c .m op s)
    | _ =>
      let x := engGet p c e s
      if x.ctr.avail = 0 then .next (issueTo p c e op s)
      else if tokensFor p (tokenSteps op.body) s then .next (issueTo p c e op (spendTokens p (tokenSteps op.body) s))
      else .next (countCluster p 3 1 (engSet p c e { x with throttled := true } s))

/-! ## Start (R70, R73, R98) -/

/-- A fresh operation in progress. -/
def running (s : State) : Running := { since := s.clock.now, poisonIn := false, poisonOut := false, warn := 0, requests := [] }

/-- Whether an engine may start work: its cluster lives and its core is in service. -/
def mayStart (p c : Nat) (s : State) : Bool :=
  clusterLive p s && c < 16 && !coreFenced p c s

/-- Where the outputs of an operation go in its local store: offset and bytes; none for what writes elsewhere. -/
def outSpan (b : OpBody) : Option (Nat × Nat) := match b with
  | .tStore _ dst => some (dst, 256)
  | .vec fn _ d n => some (d.addr, ceilDiv (outCount fn n * fmtBits d.fmt) 8)
  | .butterfly _ _ _ _ ore _ _ => some (ore, 64)
  | .pRun _ _ _ _ windows _ _ _ _ out outfmt => some (out, ceilDiv (32 * windows * fmtBits outfmt) 8)
  | _ => none

/-- The unit that a forced class D event has told to poison its next engine output: the core, its cluster, or for a
P_RUN its bank (R460). -/
def forcedUnit (p c : Nat) (b : OpBody) (s : State) : Option (Nat × Nat) :=
  if forcedD (0x1000 + p) c s then some (0x1000 + p, c)
  else if forcedD (0x2000 + p) 0 s then some (0x2000 + p, 0)
  else if bodyEngine b = .p && forcedD (0x3000 + p) c s then some (0x3000 + p, c) else none

/-- Poisons an engine output that a forced class D event asks for (R460). -/
def forcedOut (p c : Nat) (b : OpBody) (e : Eff) : Eff := match outSpan b, forcedUnit p c b e.s with
  | some (off, n), some (src, core) => { e with s := lsTaint (lsKey p c off) n (forcedDone src core e.s), outBad := true }
  | _, _ => e

/-- Starts the head of a T, V or M queue, or counts the wait of it once (R70, R85); `found` are the lines of DRAM that its
reads find bad. -/
def startHead (p c : Nat) (e : Engine) (found : List (Nat × BadSymbols)) (s : State) : State :=
  let x := engGet p c e s
  match x.q, x.run with
  | op :: _, none =>
    if opHeld p op s then s
    else if !waitMet p c op.wait s then
      (if x.waited then s else countCore p c 5 1 (engSet p c e { x with waited := true } s))
    else
      let s1 := engSet p c e { x with run := some (running s), waited := false } s
      let eff := forcedOut p c op.body (opEffect p c op.body found s1)
      let y := engGet p c e eff.s
      engSet p c e { y with run := y.run.map fun r =>
        { r with poisonIn := r.poisonIn || eff.inBad, poisonOut := r.poisonOut || eff.outBad,
                 warn := r.warn ||| eff.warn } } eff.s
  | _, _ => s

/-- Whether the next P_RUN can start: no earlier P_FILL of its slot is left (R98). -/
def runReady (x : EngineSt) : Option EngOp := match splitRun x.q with
  | some (before, op) => if before.any fun o => slotOf o = slotOf op then none else some op
  | none => none

/-- Whether the next P_FILL can start: no earlier P_RUN of its slot is left (R98). -/
def fillReady (x : EngineSt) : Option EngOp := match splitFill x.q with
  | some (before, op) => if before.any fun o => slotOf o = slotOf op then none else some op
  | none => none

/-- Starts a P_RUN, or counts the wait of it once; one that breaks a limit of R98 is a class U fault against the cluster. -/
def startRun (p c : Nat) (op : EngOp) (s : State) : State :=
  let x := engGet p c .p s
  if !pLimits op.body then failCluster p s
  else if waitMet p c op.wait s then engSet p c .p { x with run := some (running s), waited := false } s
  else if x.waited then s else countCore p c 5 1 (engSet p c .p { x with waited := true } s)

/-- Starts a P_FILL, or counts the wait of it once; one that breaks a limit of R98 is a class U fault against the cluster. -/
def startFill (p c : Nat) (op : EngOp) (s : State) : State :=
  let x := engGet p c .p s
  if !pLimits op.body then failCluster p s
  else if waitMet p c op.wait s then engSet p c .p { x with fill := some (running s), fillWaited := false } s
  else if x.fillWaited then s else countCore p c 5 1 (engSet p c .p { x with fillWaited := true } s)

/-- Starts the P engine's next P_RUN; where that cannot start, its next P_FILL (R98). An urgent pitch check comes before any
P_RUN that waits (R108). -/
def startP (p c : Nat) (s : State) : State :=
  let x := engGet p c .p s
  let fill := if x.fill.isNone then unheld p s (fillReady x) else none
  let b := bankGet p c s
  let mayRun := bankServes p c s && b.claim.isNone && (!b.urgent || checkRunning p s)
  match (if x.run.isNone && mayRun then unheld p s (runReady x) else none) with
  | some op =>
    let s1 := startRun p c op s
    if waitMet p c op.wait s || !pLimits op.body then s1 else fill.elim s1 fun o => startFill p c o s1
  | none => fill.elim s fun o => startFill p c o s

/-- ENGINE_OP_START (R70). -/
def execEngineOpStart (p c : Nat) (e : EngineRead) (s : State) : Step :=
  if !mayStart p c s then .next s
  else if e.engine = .p then .next (startP p c s) else .next (startHead p c e.engine e.bad s)

/-! ## Retirement (R70, R75, R85, R99) -/

/-- Applies a signal (R70). -/
def signal (p c : Nat) (g : Signal) (s : State) : State := match g with
  | .none => s
  | .core i => bumpCoreSync p c (i % 16) s
  | .cluster i => bumpClusterSync p (i % 32) s
  | .remote q i =>
    if clusterOut q s then s
    else
      let x := clusterGet q s
      clusterSet q { x with rq := x.rq ++ [i % 32], rc := x.rc.send } s

/-- Symbols a P_RUN integrates on its bank: in dark-line mode the K dimension is mapped onto the 31 lit lines, every product
still formed, at 31/32 of the rate (R115). -/
def runSymbols (p c : Nat) (b : OpBody) (s : State) : Nat :=
  if (bankGet p c s).state = .darkLine then ceilDiv (32 * pSymbols b) 31 else pSymbols b

/-- Steps and bytes of a retired operation, counted on its core (R85). -/
def countRetired (p c : Nat) (e : Engine) (op : EngOp) (s : State) : State :=
  let s1 := countCore p c 4 1 s
  match e with
  | .t => countCore p c 0 (opSteps op.body) s1
  | .v => countCore p c 1 (opSteps op.body) s1
  | .m => countCore p c 2 (ceilDiv (mBytes op.body) 64) s1
  | .p => countCore p c 3 (runSymbols p c op.body s) s1

/-- The end of an operation: credit, signal, counters, and what its work item learns (R64, R70, R75). -/
def retire (p c : Nat) (e : Engine) (op : EngOp) (r : Running) (s : State) : State :=
  let s1 := countRetired p c e op (signal p c op.signal s)
  let s2 := if r.poisonIn then countCluster p 13 1 s1 else s1
  let s3 := modItem p op.wi (fun w =>
    { w with pending := w.pending - 1, owed := if w.final then w.owed - 1 else w.owed,
             poisoned := w.poisoned || r.poisonOut,
             warn := w.warn ||| r.warn ||| (if r.poisonIn then 0x80 else 0) }) s2
  let x := clusterGet p s3
  stopGate p (clusterSet p { x with retiredAt := s.clock.now, idleAt := s.clock.now } s3)

/-- Retires the head of a T, V or M queue; an M operation once its requests are answered (R63, R73). -/
def retireHead (p c : Nat) (e : Engine) (s : State) : State :=
  let x := engGet p c e s
  match x.q, x.run with
  | op :: rest, some r =>
    if r.requests != [] then s
    else if !signalReady op.signal s then engSet p c e { x with run := some { r with held := true } } s
    else retire p c e op r (engSet p c e { x with q := rest, run := none, ctr := x.ctr.grant 1 } s)
  | _, _ => s

/-- Retires the P_RUN in progress once its windows, 20 ns of pipeline and 150 ns are over: writes its outputs (R99). Its
inputs and s_x are read then (log 104). Loss of light takes a P_RUN away before it retires (R114), so that one in progress
has had good light throughout. The engine is then at a boundary, where a claim on its bank takes effect (R100). -/
def retireRun (p c : Nat) (s : State) : State :=
  let x := engGet p c .p s
  match splitRun x.q, x.run with
  | some (before, op), some r =>
    (match op.body with
      | .pRun slot w sg g windows input infmt stride sx out outfmt =>
        if s.clock.now < r.since + ceilDiv (runSymbols p c op.body s) 2 + 170 || bankFenced p c s then s
        else if !signalReady op.signal s then engSet p c .p { x with run := some { r with held := true } } s
        else
          let after := x.q.drop (before.length + 1)
          let s1 := engSet p c .p { x with q := before ++ after, run := none, ctr := x.ctr.grant 1 } s
          let eff := forcedOut p c op.body (pRunAll p c slot w sg g windows input infmt stride sx out outfmt s1)
          bankBoundary p c (retire p c .p op { r with poisonIn := eff.inBad, poisonOut := eff.outBad, warn := eff.warn } eff.s)
      | _ => s)
  | _, _ => s

/-- P_RUN_RETIRE (R99). -/
def execPRunRetire (p : Nat) (c : Nat) (s : State) : Step :=
  if clusterIdx p && c < 16 && !s.cairn.frozen then .next (retireRun p c s) else .next s

/-- ENGINE_OP_RETIRE (R70). -/
def execEngineOpRetire (p c : Nat) (e : Engine) (s : State) : Step :=
  if !clusterIdx p || 16 ≤ c || clusterOut p s || s.cairn.frozen then .next s
  else if e = .p then .next (retireRun p c s) else .next (retireHead p c e s)

/-- Ends the P_FILL in progress: the slot holds the set, and the fill's credit and signal follow (R97, R98). One that has
taken longer than 4 × W ns is a class U fault against the cluster (R98). -/
def fillDone (p c : Nat) (s : State) : State :=
  let x := coreGet p c s
  match splitFill x.p.q, x.p.fill with
  | some (before, op), some r =>
    (match op.body with
      | .pFill slot w src sw =>
        if r.since + 4 * w < s.clock.now && !r.held then failCluster p s
        else if !signalReady op.signal s then engSet p c .p { x.p with fill := some { r with held := true } } s
        else
          let set := pFillSet p c w src sw s
          let after := x.p.q.drop (before.length + 1)
          let s1 := coreSet p c { x with slots := tset none x.slots slot (some set),
                                         p := { x.p with q := before ++ after, fill := none, ctr := x.p.ctr.grant 1 } } s
          retire p c .p op { r with poisonIn := set.poison } s1
      | _ => s)
  | _, _ => s

/-- P_FILL_COMPLETE (R97, R98). -/
def execPFillComplete (p : Nat) (c : Nat) (s : State) : Step :=
  if clusterIdx p && c < 16 && !s.cairn.frozen then .next (fillDone p c s) else .next s

/-! ## Remote sync and credits (R65, R66, R70) -/

/-- REMOTE_SYNC_INCREMENT: the sequencer applies the oldest increment and returns its credit (R64, R70). -/
def execRemoteSyncIncrement (p : Nat) (s : State) : Step :=
  let x := clusterGet p s
  match x.rq with
  | [] => .next s
  | i :: rest =>
    if !clusterIdx p || clusterOut p s || s.cairn.frozen then .next s
    else .next (bumpClusterSync p i (clusterSet p { x with rq := rest, rc := x.rc.grant 1 } s))

/-- A producer that finds more credit than the queue is deep: nothing more is placed there, and the consumer's cluster
fails (R66). -/
def creditFault (p : Nat) (q : QueueRef) (k : QCtr) (s : State) : State :=
  let x := clusterGet p s
  failClusterWith p (Config.creditSyndrome q k.pGranted k.pSent).toNat
    (clusterSet p { x with creditFaults := x.creditFaults ++ [q] } s)

/-- The update of a flank's completion queue. Its consumer is the firmware in the Col, so that its credit fault is a class U
event of the Col's sequencers and fences no cluster (R66, log 95). -/
def doneUpdate (f : Flank) (s : State) : State :=
  let k := (doneCtr f s).update
  let s1 := match f with
    | .north => { s with comp := { s.comp with doneNc := k } }
    | .south => { s with comp := { s.comp with doneSc := k } }
  if 4096 < k.avail && (doneCtr f s).avail ≤ 4096
  then faultUKept 0xE000 (Config.creditSyndrome (.completion f) k.pGranted k.pSent).toNat s1 else s1

/-- CREDIT_UPDATE: the consumer's granted total reaches the producer; the firmware reads its completions before it
grants them (R64–R66). -/
def execCreditUpdate (q : QueueRef) (s : State) : Step :=
  match q with
  | .cluster p =>
    let x := clusterGet p s
    let c := x.qc.update
    let s1 := clusterSet p { x with qc := c } s
    if !clusterIdx p || !fwRuns s then .next s
    else if 256 < c.avail then .next (creditFault p q c s1) else .next s1
  | .engine p c e =>
    let x := engGet p c e s
    let k := x.ctr.update
    let s1 := engSet p c e { x with ctr := k } s
    if !clusterIdx p || 16 ≤ c then .next s
    else if 32 < k.avail then .next (creditFault p q k s1) else .next s1
  | .completion f => .next (doneUpdate f (if fwActs s then fwReadDone f s else s))
  | .remoteSync p =>
    let x := clusterGet p s
    let c := x.rc.update
    let s1 := clusterSet p { x with rc := c } s
    if !clusterIdx p then .next s
    else if 64 < c.avail then .next (creditFault p q c s1) else .next s1

/-! ## Power gating (R74) -/

/-- CLUSTER_POWER_GATE: a cluster idle for 100 µs gates its cores (R74). -/
def execClusterPowerGate (p : Nat) (s : State) : Step :=
  let x := clusterGet p s
  if !clusterIdx p || clusterOut p s || x.gated || !clusterIdle p s || s.clock.now < x.idleAt + 100000 then .next s
  else .next (gateCluster p s)

/-- Whether something wakes a gated cluster: a work item, a remote increment, or an urgent or due bank check (R74). -/
def wakeWanted (p : Nat) (s : State) : Bool :=
  (clusterGet p s).q != [] || (clusterGet p s).rq != [] ||
    (List.range 16).any fun c => (bankGet p c s).urgent || (bankGet p c s).checkedAt + 100000000 ≤ s.clock.now

/-- CLUSTER_WAKE: a gated cluster with new work wakes (R74). -/
def execClusterWake (p : Nat) (s : State) : Step :=
  if clusterIdx p && !clusterOut p s && wakeWanted p s && !(flankPower (flankOf p) s).stopped &&
      s.dev.state != .standby then
    .next (wakeCluster p s)
  else .next s

end Sys2Proof.Machine
end

