-- ==== Sys2Proof/Machine/BankOps.lean ====
section
/-!
DEFINITION. P banks and comb lasers (chapter 4): pitch checks, retunes, wrong-lock walks, hand-overs and failures of
the light path.
-/

namespace Sys2Proof.Machine

/-! ## Lasers -/

/-- A laser. -/
def laserGet (i : Nat) (s : State) : Laser := tget {} s.las.laser i

/-- Replaces a laser. -/
def laserSet (i : Nat) (x : Laser) (s : State) : State := { s with las := { s.las with laser := tset {} s.las.laser i x } }

/-- Nanoseconds of an hour. -/
def hourNs : Nat := 3600000000000

/-- A laser with its lit hours brought up to now (R296). -/
def laserHours (now : Nat) (x : Laser) : Laser :=
  if x.lit then { x with hours := min 65535 (x.hours + (now - x.litAt) / hourNs),
                         litAt := x.litAt + (now - x.litAt) / hourNs * hourNs } else x

/-- Lights a laser. -/
def laserOn (i : Nat) (s : State) : State :=
  let x := laserGet i s
  if x.lit then s else laserSet i { x with lit := true, litAt := s.clock.now, samples := [] } s

/-- Turns a laser off. -/
def laserOff (i : Nat) (s : State) : State :=
  let x := laserHours s.clock.now (laserGet i s)
  laserSet i { x with lit := false, samples := [] } s

/-- Records a laser in the laser spare map, at its SPARE point or failed (R295). -/
def laserWorn (i : Nat) (f : Fade) (s : State) : State :=
  let s1 := laserSet i { laserGet i s with fade := f } s
  { s1 with las := { s1.las with worn := setInsert i s1.las.worn } }

/-- Instance of the primary for line k of array a (R88). -/
def combPrimary (chip a k : Nat) : Nat := 0x200 + chip * 160 + a * 32 + k

/-- Instance of the spare for line k (R88). -/
def combSpare (chip k : Nat) : Nat := 0x200 + chip * 160 + 128 + k

/-- Whether an instance is a comb laser. -/
def isComb (i : Nat) : Bool := 0x200 ≤ i && i < 0x480

/-! ## Banks -/

/-- Clusters of a comb chiplet's array. -/
def arrayClusters (chip a : Nat) : List Nat := (List.range 660).filter fun p => combChip p = chip && combArray p = a

/-- Applies a change to every bank of an array. -/
def mapArray (chip a : Nat) (f : Nat → Nat → State → State) (s : State) : State :=
  (arrayClusters chip a).foldl (fun t p => (List.range 16).foldl (fun u c => f p c u) t) s

/-- Operations of a P engine removed by a condition: each grants a credit, and its work item owes it, to another P engine
or, fallen back, to the T engines (R79, R106, R114). -/
def dropPOps (p c : Nat) (keep : EngOp → Bool) (back : Bool) (s : State) : State :=
  let x := engGet p c .p s
  let gone := x.q.filter fun o => !keep o
  let runGone := match splitRun x.q with
    | some (_, op) => !keep op
    | none => true
  let fillGone := match splitFill x.q with
    | some (_, op) => !keep op
    | none => true
  let s1 := engSet p c .p { x with q := x.q.filter keep, ctr := x.ctr.grant gone.length,
                                   run := if runGone then none else x.run,
                                   fill := if fillGone then none else x.fill } s
  bankBoundary p c (gone.foldl (fun t o =>
    let u := modItem p o.wi (fun w => { w with pending := w.pending - 1 }) t
    if back then fallBack p o u else modItem p o.wi (fun w => { w with fall := w.fall ++ [o] }) u) s1)

/-- Everything a P engine holds is lost with its bank: queue and staged sets (R79, R97). -/
def dropBank (p c : Nat) (s : State) : State :=
  let s1 := dropPOps p c (fun _ => false) false s
  coreSet p c { coreGet p c s1 with slots := [] } s1

/-- What the fencing of a bank brings beside its fault (R97, R109). -/
def fenceBank (p c : Nat) (s : State) : State :=
  let s1 := dropBank p c s
  bankSet p c { bankGet p c s1 with state := .fenced, walks := [], urgent := false, claim := none, relockAt := none } s1

/-- A bank is fenced with a class U fault against it; the core number stands in the syndrome (R109, R117). -/
def failBank (p c : Nat) (s : State) : State :=
  if bankFenced p c s then s else fenceBank p c (reportFrom p (evt (0x3000 + p) .u c) s)

/-- Dark lines of the array that lights a cluster. -/
def darkOf (p : Nat) (s : State) : List Nat := tget [] s.banks.dark (combChip p * 4 + combArray p)

/-- The state a bank serves in: dark-line mode while its array has a dark line (R115). -/
def serving (p : Nat) (s : State) (b : Bank) : Bank := match darkOf p s with
  | k :: _ => { b with state := .darkLine, darkLine := k }
  | [] => { b with state := .inService, darkLine := 0 }

/-- Whether a P engine is at an operation boundary: no P_RUN in progress (R100). -/
def atBoundary (p c : Nat) (s : State) : Bool := (engGet p c .p s).run.isNone

/-- Whether the P_RUN stream of an engine is empty. -/
def runsEmpty (p c : Nat) (s : State) : Bool := (splitRun (engGet p c .p s).q).isNone

/-- Whether another P engine of the cluster serves with room in its queue (R107). -/
def otherRoom (p c : Nat) (s : State) : Bool :=
  (List.range 16).any fun k => k != c && bankServes p k s && (engGet p k .p s).q.length < 32

/-- BANK_PITCH_CHECK_START: a due check starts at an operation boundary when the stream is empty or another engine can
take the work, or at once when urgent; one at a time in a cluster (R107, R108). A gated cluster wakes (R74). -/
def execBankPitchCheckStart (p c : Nat) (s : State) : Step :=
  let b := bankGet p c s
  if !clusterIdx p || 16 ≤ c || clusterOut p s || !bankServes p c s || b.claim.isSome || checkRunning p s || !atBoundary p c s ||
      s.cairn.frozen || s.dev.state = .haltedThermal ||
      s.clock.now < b.checkedAt + 100000000 || !(b.urgent || runsEmpty p c s || otherRoom p c s)
  then .next s
  else .next (bankSet p c { b with state := .check, began := s.clock.now } (wakeCluster p s))

/-- BANK_CHECK_URGENT: a check not started 400 ms after the last becomes urgent and is counted (R108, R432). -/
def execBankCheckUrgent (p c : Nat) (s : State) : Step :=
  let b := bankGet p c s
  if !clusterIdx p || 16 ≤ c || clusterOut p s || bankFenced p c s || b.urgent || b.state = .check || b.state = .relock ||
      s.clock.now < b.checkedAt + 400000000
  then .next s
  else .next (promote 0 (countCluster p 15 1 (bankSet p c { b with urgent := true } (wakeCluster p s))))

/-- Line of a ring of a bank: modulator ring i has index i, weight ring (i, j) index 32 + 32 j + i (R444). -/
def ringLine (r : Nat) : Nat := r % 32

/-- The number of a bank's ring among the heaters (R444). -/
def bankRing (p c r : Nat) : Nat := coreKey p c * 1056 + r

/-- Setpoint of a bank's island in °C (R103). -/
def Bank.setpoint (b : Bank) : Nat := [62, 82, 102, 120].getD b.band 0

/-- The heater value of a ring: where a walk left it, else the calibrated one of the setpoint with the last check's
correction (R103, R107, R112). -/
def heaterNow (ring r : Nat) (b : Bank) : Int := match tget none b.heat r with
  | some h => h
  | none => Config.heaterCal ring b.band + (if b.trims = 0 then 0 else Config.heaterTrim ring b.trims)

/-- The modulator bias of line i of a bank: that of its setpoint, as the last check corrected it (R103, R107). -/
def biasNow (p c i : Nat) (b : Bank) : Int := Config.modulatorBias (coreKey p c * 32 + i) b.band b.trims

/-- The integrator offset trim of column j of a bank: that of its setpoint, as the last check corrected it (R103, R107). -/
def integratorNow (p c j : Nat) (b : Bank) : Int := Config.integratorTrim (coreKey p c * 32 + j) b.band b.trims

/-- Puts failing rings into the walk; all of them walk at once (R112). The time of a RELOCK counts on through the repeats of
its check (R109). -/
def startWalks (p c : Nat) (rings : List Nat) (why : RelockFor) (s : State) : State :=
  let b := bankGet p c s
  let w (r : Nat) : Walk := { state := .identify, heater := heaterNow (bankRing p c r) r b, began := s.clock.now }
  bankSet p c { b with state := .relock, began := s.clock.now, relockAt := some (b.relockAt.getD s.clock.now),
                       relockFor := why, walks := rings.foldl (fun t r => tset {} t r (w r)) b.walks } s

/-- A bank is back in service after its walks: the rings that moved count as relocked (R118). -/
def walksOver (p : Nat) (s : State) (b : Bank) : Bank :=
  serving p s { b with relocks := min 65535 (b.relocks + b.walks.length), walks := [], relockAt := none }

/-- A check that passes: corrected trims are applied; after a RELOCK with a class C fault (R107, R109). A cluster at STOP
gates again (R427). -/
def checkPass (p c : Nat) (s : State) : State :=
  let b := bankGet p c s
  let again := b.walks != []
  let b1 := walksOver p s { b with checkedAt := s.clock.now, checks := (b.checks + 1) % 65536, urgent := false,
                                   relocked := again, trims := s.free + 1 }
  let s1 := bankSet p c b1 { s with free := s.free + 1 }
  stopGate p (if again then reportFrom p (evt (0x3000 + p) .c c) s1 else s1)

/-- BANK_PITCH_CHECK_END: PASS, RELOCK or FAIL (R109). -/
def execBankPitchCheckEnd (p c : Nat) (r : BankCheck) (s : State) : Step :=
  let b := bankGet p c s
  if !clusterIdx p || 16 ≤ c || clusterOut p s || bankFenced p c s then .next s
  else if b.state = .relock then
    (if r.relockTimeout && b.relockFor = .check && b.relockAt.any fun t => t + 5000000 ≤ s.clock.now
      then .next (failBank p c s) else .next s)
  else if b.state != .check || s.clock.now < b.began + 25000 then .next s
  else if r.failedRings != [] then .next (startWalks p c r.failedRings .check s)
  else if r.referenceOk then .next (checkPass p c s)
  else .next (stopGate p (failBank p c s))

/-! ## Retunes (R103–R105) -/

/-- Clusters of a flank in service. -/
def flankClusters (f : Flank) (s : State) : List Nat :=
  (List.range 660).filter fun p => flankOf p = f && !clusterOut p s

/-- Whether a bank is to be retuned to a band. -/
def retunable (p c band : Nat) (s : State) : Bool :=
  !bankFenced p c s && !coreFenced p c s && (bankGet p c s).band != band

/-- Whether a bank is being retuned, or is to be at its next boundary, or walks the rings that a retune found off. -/
def inRetune (p c : Nat) (s : State) : Bool :=
  let b := bankGet p c s
  !bankFenced p c s && (b.state = .retune || b.claim = some .retune || (b.state = .relock && b.relockFor = .retune))

/-- Starts wave c of a flank towards a band: the banks of core c that are not there yet, each at its next boundary; a
cluster that has none retunes early a bank that is out of range (R104–R106). -/
def startWave (f : Flank) (c band : Nat) (s : State) : State :=
  let s1 := (flankClusters f s).foldl (fun t p =>
    if retunable p c band t then bankClaim p c .retune t
    else match firstIdx (fun k => (bankGet p k t).state = .outOfRange && retunable p k band t) 16 with
      | some k => bankClaim p k .retune t
      | none => t) s
  { s1 with banks := { s1.banks with wave := tset none s1.banks.wave (flankNum f) (some (c, band)) } }

/-- The lowest core from `c` up with a bank to retune. -/
def nextWave (f : Flank) (c band : Nat) (s : State) : Option Nat :=
  firstIdx (fun k => c ≤ k && (flankClusters f s).any fun p => retunable p k band s) 16

/-- Whether no wave runs on a flank: every bank of the last is back in service or fenced. -/
def waveOver (f : Flank) (s : State) : Bool :=
  (flankClusters f s).all fun p => (List.range 16).all fun c => !inRetune p c s

/-- Whether a laser hand-over has asked the engines of a flank to pause (R113). -/
def pauseAsked (f : Flank) (s : State) : Bool := s.banks.pauseWanted.any fun k => k / 64 = flankNum f

/-- BANK_RETUNE_WAVE: the next wave of a flank's retune, or wave 0 again when the band has changed (R104, R105). None starts
during the pause of a hand-over (log 102). -/
def execBankRetuneWave (f : Flank) (s : State) : Step :=
  let target := tget 0 s.banks.target (flankNum f)
  if flankPhase f s != .inService || pauseAsked f s then .next s
  else match tget none s.banks.wave (flankNum f) with
    | none =>
      (match nextWave f 0 target s with
        | some c => .next (startWave f c target s)
        | none => .next s)
    | some (c, band) =>
      if !waveOver f s then .next s
      else match nextWave f (if band = target then c + 1 else 0) target s with
        | some k => .next (startWave f k target s)
        | none => .next { s with banks := { s.banks with wave := tset none s.banks.wave (flankNum f) none } }

/-- A retune that has ended counts as a check of its bank (R104, R110). -/
def retuned (p c : Nat) (s : State) : State :=
  let b := bankGet p c s
  bankSet p c (walksOver p s { b with checkedAt := s.clock.now, checks := (b.checks + 1) % 65536, urgent := false,
                                      relocked := b.walks != [] }) s

/-- BANK_RETUNE_DONE: the island has settled, the trims of the new band are applied and every ring is verified by tone; the
rings that fail go through the walk, else the bank is back in service (R104). -/
def execBankRetuneDone (p c : Nat) (failed : List Nat) (s : State) : Step :=
  let b := bankGet p c s
  if !clusterIdx p || 16 ≤ c || b.state != .retune || clusterOut p s || bankFenced p c s then .next s
  else
    let band := match tget none s.banks.wave (flankNum (flankOf p)) with
      | some (_, x) => x
      | none => tget 0 s.banks.target (flankNum (flankOf p))
    let s1 := bankSet p c { b with band := band, heat := [], trims := 0 } s
    .next (if failed = [] then retuned p c s1 else startWalks p c failed .retune s1)

/-! ## Range and overheating (R106) -/

/-- BANK_OUT_OF_RANGE: the bank stops at its next boundary; in a retune of its flank that has not reached it, it is retuned
early, in the current wave, where no other bank of its cluster is (R104, R106). -/
def execBankOutOfRange (p c : Nat) (s : State) : Step :=
  if clusterIdx p && c < 16 && bankServes p c s && (bankGet p c s).claim.isNone then
    let early := match tget none s.banks.wave (flankNum (flankOf p)) with
      | some (_, band) => retunable p c band s && !((List.range 16).any fun k => inRetune p k s)
      | none => false
    .next (bankClaim p c (if early then .retune else .outOfRange) s)
  else .next s

/-- BANK_BACK_IN_RANGE: back within 0.5 °C for 100 µs, the bank resumes (R106). -/
def execBankBackInRange (p c : Nat) (s : State) : Step :=
  let b := bankGet p c s
  if clusterIdx p && c < 16 && b.state = .outOfRange && b.began + 100000 ≤ s.clock.now then
    .next (bankSet p c (serving p s b) s)
  else if clusterIdx p && c < 16 && b.claim = some .outOfRange then .next (bankSet p c { b with claim := none } s)
  else .next s

/-- BANK_OVERHEAT: heater off and the bank fenced at once; its operations run elsewhere (R106). -/
def execBankOverheat (p c : Nat) (s : State) : Step :=
  if clusterIdx p && c < 16 && !clusterOut p s then
    let s1 := failBank p c s
    .next (bankSet p c { bankGet p c s1 with heaterOff := true } s1)
  else .next s

/-! ## The wrong-lock walk (R112, R291) -/

/-- Limits of a walk: channel steps of the free spectral range, steps allowed. -/
structure WalkRule where
  fsr : Nat
  maxSteps : Nat
  deriving DecidableEq, Repr

/-- Light-layer rings (R112). -/
def bankRule : WalkRule := ⟨36, 40⟩

/-- Chiplet rings (R291). -/
def chipletRule : WalkRule := ⟨22, 30⟩

/-- Heater value of a ring of line i on line j: h_cal(i) + (i − j) × Δh. -/
def heaterAt (ring band i j : Nat) : Int :=
  Config.heaterCal ring band + ((i : Int) - j) * Config.heaterStep ring band

/-- Moves the heater; leaving the 10-bit range fails the walk. -/
def walkHeat (w : Walk) (h : Int) (next : WalkState) : Walk :=
  if h < 0 || 1023 < h then { w with state := .failed } else { w with heater := h, state := next }

/-- IDENTIFY ends: the strongest tone is line j (Tables 4-8, 11-5). -/
def walkIdentify (rule : WalkRule) (ring band i j : Nat) (w : Walk) : Walk :=
  if w.state != .identify then w
  else
    let d := w.heater - heaterAt ring band i j
    if (rule.fsr / 2 : Nat) * Config.heaterStep ring band < d.natAbs then { w with state := .order, found := j }
    else if j = i then { w with state := .lockedOk, found := j }
    else { w with state := .step, found := j }

/-- ORDER ends. -/
def walkOrder (rule : WalkRule) (ring band i : Nat) (w : Walk) : Walk :=
  if w.state != .order then w
  else
    let step := (rule.fsr : Int) * Config.heaterStep ring band
    let h := if heaterAt ring band i w.found < w.heater then w.heater - step else w.heater + step
    walkHeat { w with orders := w.orders + 1 } h .identify

/-- STEP ends. -/
def walkStep (ring band i : Nat) (w : Walk) : Walk :=
  if w.state != .step then w
  else
    let d := Config.heaterStep ring band
    walkHeat { w with steps := w.steps + 1 } (if i < w.found then w.heater + d else w.heater - d) .verify

/-- VERIFY ends. -/
def walkVerify (pass : Bool) (w : Walk) : Walk :=
  if w.state != .verify then w else { w with state := if pass then .lockedOk else .identify }

/-- Whether the walk is over its limits: 5 ms, its steps, or three orders, each counted as reached (R112, R291,
log 113). -/
def walkOver (rule : WalkRule) (now : Nat) (w : Walk) : Bool :=
  w.state != .idle && w.state != .lockedOk && w.state != .failed &&
    (w.began + 5000000 ≤ now || rule.maxSteps ≤ w.steps || 3 ≤ w.orders)

/-- What ends a state of a walk: FAILED once the walk is over its limits, from any state (R112, R291). -/
def walkEvent (rule : WalkRule) (now : Nat) (f : Walk → Walk) (w : Walk) : Walk :=
  if walkOver rule now w then { w with state := .failed } else f w

/-- What a walk's new state does to its bank: a failed ring fails the bank; once every ring is locked the check is repeated,
the retune has ended, or the bank returns to service (R104, R109, R113). -/
def walkDone (p c r : Nat) (w : Walk) (s : State) : State :=
  let b := bankGet p c s
  let b1 := { b with walks := tset {} b.walks r w, heat := tset none b.heat r (some w.heater) }
  let s1 := bankSet p c b1 s
  if w.state = .failed then failBank p c s1
  else if b1.walks.all (fun e => e.2.state = .lockedOk) && b.state = .relock then
    (match b.relockFor with
      | .check => bankSet p c { b1 with state := .check, began := s.clock.now } s
      | .retune => retuned p c s1
      | .handover => bankSet p c (walksOver p s1 b1) s1)
  else s1

/-- Whether a ring of a bank walks. -/
def walking (p c r : Nat) (s : State) : Bool :=
  clusterIdx p && c < 16 && !bankFenced p c s && (tget {} (bankGet p c s).walks r).state != .idle

/-- BANK_WALK_IDENTIFY (R112). -/
def execBankWalkIdentify (p c r strongest : Nat) (s : State) : Step :=
  if !walking p c r s then .next s
  else
    let b := bankGet p c s
    .next (walkDone p c r (walkEvent bankRule s.clock.now (walkIdentify bankRule (bankRing p c r) b.band (ringLine r) strongest)
      (tget {} b.walks r)) s)

/-- BANK_WALK_ORDER (R112). -/
def execBankWalkOrder (p c r : Nat) (s : State) : Step :=
  if !walking p c r s then .next s
  else
    let b := bankGet p c s
    .next (walkDone p c r (walkEvent bankRule s.clock.now (walkOrder bankRule (bankRing p c r) b.band (ringLine r))
      (tget {} b.walks r)) s)

/-- BANK_WALK_STEP (R112). -/
def execBankWalkStep (p c r : Nat) (s : State) : Step :=
  if !walking p c r s then .next s
  else
    let b := bankGet p c s
    .next (walkDone p c r (walkEvent bankRule s.clock.now (walkStep (bankRing p c r) b.band (ringLine r))
      (tget {} b.walks r)) s)

/-- BANK_WALK_VERIFY (R112). -/
def execBankWalkVerify (p c r : Nat) (pass : Bool) (s : State) : Step :=
  if !walking p c r s then .next s
  else .next (walkDone p c r (walkEvent bankRule s.clock.now (walkVerify pass) (tget {} (bankGet p c s).walks r)) s)

/-- BANK_WALK_TIMEOUT: the walk ends in FAILED and the bank is fenced (R109, R112). -/
def execBankWalkTimeout (p c r : Nat) (s : State) : Step :=
  let w := tget {} (bankGet p c s).walks r
  if walking p c r s && walkOver bankRule s.clock.now w then
    .next (walkDone p c r { w with state := .failed } s)
  else .next s

/-! ## Comb lasers (R113–R116) -/

/-- Key of a line of a chiplet. -/
def lineKey (chip k : Nat) : Nat := chip * 32 + k

/-- Whether the spare for a line is free: serving no array, in no hand-over, and not worn (R113). -/
def spareFree (chip k : Nat) (s : State) : Bool :=
  tget 0 s.banks.spare (lineKey chip k) = 0 && (tget none s.banks.handover (lineKey chip k)).isNone &&
    !s.las.worn.contains (combSpare chip k)

/-- Starts bringing the spare up for an array (Table 4-9, row 0). -/
def startHandover (chip a k : Nat) (s : State) : State :=
  laserOn (combSpare chip k) { s with banks := { s.banks with
    handover := tset none s.banks.handover (lineKey chip k) (some (a, s.clock.now)) } }

/-- Puts an array in dark-line mode with line k. A second line whose spare is not free fences every bank of the array
(R115); one whose spare is free is dark too until the spare has been brought up (log 102). -/
def enterDark (chip a k : Nat) (spare : Bool) (s : State) : State :=
  let key := chip * 4 + a
  let dark := tget [] s.banks.dark key
  if dark.contains k then s
  else if dark != [] && !spare then mapArray chip a failBank s
  else
    let s1 := { s with banks := { s.banks with dark := tset [] s.banks.dark key (dark ++ [k]) } }
    refreshDegraded (mapArray chip a (fun p c t =>
      if (bankGet p c t).state = .inService && !bankFenced p c t then bankSet p c (serving p t (bankGet p c t)) t
      else t) s1)

/-- Chiplet, array and line of a comb instance: array 4 for a spare. -/
def combOf (inst : Nat) : Nat × Nat × Nat := ((inst - 0x200) / 160, (inst - 0x200) % 160 / 32, (inst - 0x200) % 32)

/-- The array that a comb laser lights, if any: a primary its own, unless a spare has taken it over; a spare the one it
serves. -/
def combLights (inst : Nat) (s : State) : Option Nat :=
  let (chip, a, k) := combOf inst
  let served := tget 0 s.banks.spare (lineKey chip k)
  if a < 4 then (if served = a + 1 then none else some a) else (if served = 0 then none else some (served - 1))

/-- Keys of the cores of an array whose P engine holds something. -/
def arrayCores (chip a : Nat) (s : State) : List Nat :=
  (s.comp.cores.filter fun e => combChip (e.1 / 16) = chip && combArray (e.1 / 16) = a && e.2.p.q != []).map (·.1)

/-- Discards every P_RUN of an array that has not retired; the sequencers run them on the T engines (R114). -/
def discardRuns (chip a : Nat) (s : State) : State :=
  (arrayCores chip a s).foldl (fun t k => dropPOps (k / 16) (k % 16) isFill true t) s

/-- COMB_SPARE_POINT: the chiplet reserves and warms the spare, with a class C fault; with the spare taken the line goes
dark, and what has not retired on its light is discarded (R99, R113, R115). -/
def combSparePoint (inst : Nat) (s : State) : State :=
  let (chip, a, k) := combOf inst
  let s1 := laserWorn inst .sparePoint s
  match combLights inst s with
  | none => faultCOpen (0xA000 + inst) s1
  | some b =>
    if a < 4 && spareFree chip k s then startHandover chip a k (faultCOpen (0xA000 + inst) s1)
    else enterDark chip b k false (discardRuns chip b (laserOff inst (faultUOpen (0xA000 + inst) s1)))

/-- COMB_SPARE_POINT (R113). -/
def execCombSparePoint (inst : Nat) (s : State) : Step :=
  let x := laserGet inst s
  if isComb inst && x.fade != .sparePoint && x.fade != .failed then .next (combSparePoint inst s) else .next s

/-- COMB_PAUSE_REQUEST: 30 ms after, once no retune wave runs, the array's engines are asked to pause (R113). -/
def execCombPauseRequest (chip k : Nat) (s : State) : Step :=
  match tget none s.banks.handover (lineKey chip k) with
  | none => .next s
  | some (a, t0) =>
    if 4 ≤ chip || 32 ≤ k || s.clock.now < t0 + 30000000 || s.banks.pauseWanted.contains (lineKey chip k) ||
        !waveOver (flankOfNum (chip / 2)) s
    then .next s
    else
      let s1 := mapArray chip a (fun p c t =>
        let b := bankGet p c t
        if !bankFenced p c t && (b.state = .inService || b.state = .darkLine || b.state = .check || b.state = .relock) then
          bankClaim p c .lightPause t
        else t) s
      .next { s1 with banks := { s1.banks with pauseWanted := setInsert (lineKey chip k) s1.banks.pauseWanted } }

/-- The spare takes a line over: switched into the array, the primary off (Table 4-9). -/
def spareIn (chip a k : Nat) (s : State) : State :=
  laserOff (combPrimary chip a k) { s with banks := { s.banks with
    spare := tset 0 s.banks.spare (lineKey chip k) (a + 1),
    paused := tset none s.banks.paused (lineKey chip k) (some s.clock.now),
    dark := tset [] s.banks.dark (chip * 4 + a) ((tget [] s.banks.dark (chip * 4 + a)).erase k) } }

/-- The pause of a hand-over ends: the array's engines are back in service, a bank that failed its verification once its
ring has walked (Table 4-9, R113). -/
def pauseOver (chip a k : Nat) (failing : List (Nat × Nat)) (s : State) : State :=
  let s1 := { s with banks := { s.banks with
    handover := tset none s.banks.handover (lineKey chip k) none
    paused := tset none s.banks.paused (lineKey chip k) none
    pauseWanted := setErase (lineKey chip k) s.banks.pauseWanted } }
  let s2 := mapArray chip a (fun p c t =>
    let b := bankGet p c t
    if b.state = .lightPause || b.state = .darkLine then bankSet p c (serving p t b) t else t) s1
  let mine := failing.filter fun q => combChip (q.1 / 16) = chip && combArray (q.1 / 16) = a &&
    !bankFenced (q.1 / 16) (q.1 % 16) s2
  refreshDegraded (mine.foldl (fun t q => startWalks (q.1 / 16) (q.1 % 16) [q.2] .handover t) s2)

/-- COMB_HANDOVER_PAUSE: with every engine of the array at its boundary the spare takes the line over; 20 µs later the
engines are back in service; `failing` are the rings, by bank, that failed their verification (R113). -/
def execCombHandoverPause (chip k : Nat) (failing : List (Nat × Nat)) (s : State) : Step :=
  match tget none s.banks.handover (lineKey chip k) with
  | none => .next s
  | some (a, _) =>
    if !s.banks.pauseWanted.contains (lineKey chip k) then .next s
    else match tget none s.banks.paused (lineKey chip k) with
      | some t => if s.clock.now < t + 20000 then .next s else .next (pauseOver chip a k failing s)
      | none =>
        if (arrayCores chip a s).any (fun x => !atBoundary (x / 16) (x % 16) s) then .next s
        else .next (refreshDegraded (spareIn chip a k s))

/-- What a failed comb line brings beside its fault: off, its array's runs discarded, dark-line mode, and the spare
started if free (R114). -/
def combLineLost (inst : Nat) (s : State) : State :=
  let (chip, a, k) := combOf inst
  let lit := combLights inst s
  let s1 := laserOff inst (laserWorn inst .failed s)
  match lit with
  | none => s1
  | some b =>
    let free := a < 4 && spareFree chip k s1
    let s2 := enterDark chip b k free (discardRuns chip b s1)
    if free then startHandover chip b k s2 else s2

/-- A comb line fails: class U, and what R114 says. -/
def combLineFail (inst : Nat) (s : State) : State := combLineLost inst (faultUOpen (0xA000 + inst) s)

/-- COMB_LINE_FAILURE (R114). -/
def execCombLineFailure (inst : Nat) (s : State) : Step :=
  if isComb inst && (laserGet inst s).fade != .failed then .next (combLineFail inst s) else .next s

/-- The keys of the fence list for the banks that a comb chiplet lights. -/
def chipBankKeys (chip : Nat) : List Nat :=
  (List.range 10560).filterMap fun k => if combChip (k / 16) = chip then some (fenceKey (0x3000 + k / 16) (k % 16)) else none

/-- The 2,640 banks that a comb chiplet lights are fenced, each on the fence list; what their engines hold is owed elsewhere,
and their weight slots leave the fit check (R116). -/
def fenceChipBanks (chip : Nat) (s : State) : State :=
  let new := (chipBankKeys chip).filter fun k => !s.faults.fenced.contains k
  let s1 := { s with faults := { s.faults with fenced := sortBy (fun a b => a ≤ b) (s.faults.fenced ++ new) } }
  let keys := (s1.comp.cores.map (·.1)).filter fun k => combChip (k / 16) = chip
  let s2 := keys.foldl (fun t k => dropBank (k / 16) (k % 16) t) s1
  { s2 with banks := { s2.banks with chipFenced := setInsert chip s2.banks.chipFenced } }

/-- A whole comb chiplet is lost: a class U fault against each lit laser, its banks fenced, DEGRADED (R116). -/
def combChipFail (chip : Nat) (s : State) : State :=
  if s.banks.chipFenced.contains chip then s
  else
    let lits := (List.range 160).filter fun i => (laserGet (0x200 + chip * 160 + i) s).lit
    let s1 := lits.foldl (fun t i => faultUOpen (0xA000 + 0x200 + chip * 160 + i) (laserOff (0x200 + chip * 160 + i) t)) s
    refreshDegraded (fenceChipBanks chip s1)

/-- COMB_CHIPLET_FAILURE (R116). -/
def execCombChipletFailure (chip : Nat) (s : State) : Step :=
  if chip < 4 then .next (combChipFail chip s) else .next s

end Sys2Proof.Machine
end

