-- ==== Sys2Proof/Machine/Credits.lean ====
section
/-!
DEFINITION. End-to-end credits of the fabric: entries at the source and at the destination (R352–R354).
-/

namespace Sys2Proof.Machine

/-- Whether a VC is credited (R352). -/
def credited (vc : Nat) : Bool := vc = 0 || vc = 2

/-- A destination entry. -/
def dstEntry (pkg vc : Nat) (s : State) : Option CreditEntry := tget none s.fab.dst (entryKey pkg vc)

/-- Replaces a destination entry. -/
def dstSet (pkg vc : Nat) (e : Option CreditEntry) (s : State) : State :=
  { s with fab := { s.fab with dst := tset none s.fab.dst (entryKey pkg vc) e } }

/-- Replaces a source entry. -/
def srcSet (pkg vc : Nat) (e : Option CreditEntry) (s : State) : State :=
  { s with fab := { s.fab with src := tset none s.fab.src (entryKey pkg vc) e } }

/-- Replaces a credit request. -/
def askSet (pkg vc : Nat) (e : Option CreditAsk) (s : State) : State :=
  { s with fab := { s.fab with asks := tset none s.fab.asks (entryKey pkg vc) e } }

/-- Sends the whole granted total of an entry; a flit that finds its queue full leaves the total untold, and
E2E_CREDIT_TIMER sends it (R352). -/
def tellCredit (pkg vc : Nat) (s : State) : State := match dstEntry pkg vc s with
  | none => s
  | some e =>
    match routeFlit none (mkFlit 0x1A 1 pkg s.fab.id 0 false
        (leBytes 1 vc ++ leBytes 1 (bit e.closing) ++ zeros 2 ++ leBytes 4 e.granted.toNat)) s with
    | .full => s
    | .here _ => s
    | .gone t => dstSet pkg vc (some { e with told := e.granted, toldAt := s.clock.now }) t
    | .refused t => dstSet pkg vc (some { e with told := e.granted, toldAt := s.clock.now }) t

/-- Frees a closed entry once it has consumed what the source sent (R353). -/
def freeClosed (pkg vc : Nat) (s : State) : State := match dstEntry pkg vc s with
  | some e => if e.closing && e.closeAt = some e.consumed then dstSet pkg vc none s else s
  | none => s

/-- The destination consumes a flit: the granted total rises by one and goes to the source (R352). -/
def consumed (pkg vc : Nat) (s : State) : State := match dstEntry pkg vc s with
  | none => s
  | some e =>
    let e1 := { e with consumed := e.consumed + 1, usedAt := s.clock.now,
                       granted := if e.closing then e.granted else e.granted + 1 }
    let s1 := dstSet pkg vc (some e1) s
    if e.closing then freeClosed pkg vc s1 else tellCredit pkg vc s1

/-- CREDIT_REQ at the destination: an entry opens with 64 credits, or SYS_RESP says BUSY where the table is full or the
entry is still closing (R353). -/
def creditReq (pkg vc : Nat) (tag : BitVec 32) (s : State) : State :=
  if !credited vc then s
  else match dstEntry pkg vc s with
    | some e => if e.closing then respond 0x1C pkg tag .busy false [] s else tellCredit pkg vc s
    | none =>
      if 4096 ≤ entriesOf vc s.fab.dst then respond 0x1C pkg tag .busy false [] s
      else tellCredit pkg vc (dstSet pkg vc (some { granted := 64, usedAt := s.clock.now }) s)

/-- CREDIT at the source: it opens the entry that was asked for, raises the granted total, or closes the entry with
CLOSE_ACK (R352, R353). -/
def creditArrives (pkg vc : Nat) (close : Bool) (total : BitVec 32) (s : State) : State :=
  let k := entryKey pkg vc
  match tget none s.fab.src k, tget none s.fab.asks k with
  | some e, _ =>
    if close then
      fabricRetry (launch (mkFlit 0x1B 1 pkg s.fab.id 0 false (leBytes 1 vc ++ zeros 3 ++ leBytes 4 e.sent.toNat))
        (srcSet pkg vc none s))
    else fabricRetry (srcSet pkg vc (some { e with granted := if above total e.granted then total else e.granted }) s)
  | none, some _ =>
    if close then s
    else fabricRetry (askSet pkg vc none (srcSet pkg vc (some { granted := total, usedAt := s.clock.now }) s))
  | none, none => s

/-- CLOSE_ACK at the destination: the entry goes once it has consumed the source's sent total (R353). -/
def closeAcked (pkg vc : Nat) (total : BitVec 32) (s : State) : State := match dstEntry pkg vc s with
  | some e => if e.closing then freeClosed pkg vc (dstSet pkg vc (some { e with closeAt := some total }) s) else s
  | none => s

/-- SYS_RESP to a CREDIT_REQ: BUSY starts the wait for the retry; another status ends the request (R353, R354). -/
def askAnswered (k : Nat) (a : CreditAsk) (busy : Bool) (s : State) : State :=
  askSet (k / 8) (k % 8) (if busy then some { a with askedAt := s.clock.now, refused := true } else none) s

/-- E2E_CREDIT (R352). -/
def execE2eCredit (pkg vc : Nat) (close : Bool) (total : BitVec 32) (s : State) : Step :=
  .next (if credited vc then creditArrives (pkg % 2 ^ 20) vc close total s else s)

/-- E2E_CREDIT_TIMER: a granted total that has differed from the last total sent for 1 µs is sent (R352). -/
def execE2eCreditTimer (pkg vc : Nat) (s : State) : Step := match dstEntry pkg vc s with
  | some e => if e.granted != e.told && e.toldAt + 1000 ≤ s.clock.now then .next (tellCredit pkg vc s) else .next s
  | none => .next s

/-- CREDIT_REQ (R353). -/
def execCreditReq (pkg vc : Nat) (s : State) : Step := .next (creditReq (pkg % 2 ^ 20) vc 0 s)

/-- CREDIT_RETRY_TIMER: a refused source asks again after its wait, which doubles from 10 µs up to 1 ms, until the fabric
request timeout (R353, R368). -/
def execCreditRetryTimer (pkg vc : Nat) (s : State) : Step :=
  match tget none s.fab.asks (entryKey pkg vc) with
  | none => .next s
  | some a =>
    if !a.refused || s.clock.now < a.askedAt + 1000 * a.waitUs then .next s
    else if a.began + 1000 * s.fab.timeoutUs ≤ s.clock.now then .next (askSet pkg vc none s)
    else if 4 ≤ sysOut pkg s then .next s
    else
      let s1 := askCredit pkg vc s
      .next (match tget none s1.fab.asks (entryKey pkg vc) with
        | some b => askSet pkg vc (some { b with began := a.began, waitUs := min (2 * a.waitUs) 1000 }) s1
        | none => s1)

/-- ENTRY_IDLE_CLOSE: a destination closes an entry idle for 10 ms (R353). -/
def execEntryIdleClose (pkg vc : Nat) (s : State) : Step := match dstEntry pkg vc s with
  | some e =>
    if e.closing || s.clock.now < e.usedAt + 10000000 then .next s
    else .next (tellCredit pkg vc (dstSet pkg vc (some { e with closing := true }) s))
  | none => .next s

/-- CLOSE_ACK (R353). -/
def execCloseAck (pkg vc : Nat) (total : BitVec 32) (s : State) : Step := .next (closeAcked (pkg % 2 ^ 20) vc total s)

end Sys2Proof.Machine
end

