-- ==== Sys2Proof/Machine/LaneOps.lean ====
section
/-!
DEFINITION. Optical chiplets and lasers (chapter 11): lane moves, hand-overs and failures of lasers, channel faults,
pitch checks and the walks of chiplet rings.
-/

namespace Sys2Proof.Machine

/-! ## Channels and lanes (R286, R287, R305) -/

/-- Instance of the transmit side of channel k of a link, or of a control port's one channel (Table 16-1, R202). -/
def txi (n k : Nat) : Nat := if n < 32 then n * 36 + k else 1152 + 2 * (n - 32)

/-- Instance of the receive side of channel k of a link, or of a control port's one channel. -/
def rxi (n k : Nat) : Nat := if n < 32 then n * 36 + 18 + k else 1153 + 2 * (n - 32)

/-- Link of a channel instance. -/
def instLink (i : Nat) : Nat := if i < 1152 then i / 36 else 32 + (i - 1152) / 2

/-- Channel number of an instance. -/
def instCh (i : Nat) : Nat := if i < 1152 then i % 18 else 0

/-- Whether an instance is a receive side. -/
def instRx (i : Nat) : Bool := if i < 1152 then i / 18 % 2 = 1 else i % 2 = 1

/-- The 18 channel numbers. -/
def chNums : List Nat := List.range 18

/-- The channel numbers of a link: a control port has the one of λ00 (R202). -/
def linkChans (n : Nat) : List Nat := if n < 32 then chNums else [0]

/-- The channels that a training state needs: eight, or the one of a control port (Table 12-4, R202). -/
def trainNeed (n : Nat) : Nat := if n < 32 then 8 else 1

/-- Link width in force; 16 before one is agreed, and 1 of a control port (R202). -/
def widthOf (n : Nat) (s : State) : Nat := if n < 32 then (linkGet n s).width.getD 16 else 1

/-- Width of Table 11-3 for a count of working channels (R288). -/
def widthFor (c : Nat) : Option Nat := if 16 ≤ c then some 16 else if 13 ≤ c then some 12 else if 8 ≤ c then some 8 else none

/-- Width code: 2 for 16, 1 for 12, 0 for 8 (Table 12-5). -/
def widthCode (w : Nat) : Nat := if w = 16 then 2 else if w = 12 then 1 else 0

/-- The width a code names. -/
def codeWidth (c : Nat) : Nat := if c = 2 then 16 else if c = 1 then 12 else 8

/-- Whether a channel side bound to a lane carries traffic or stands ready to. -/
def chanBound (c : Chan) : Bool := c.lane.isSome && c.state != .dark && c.state != .fenced && c.state != .warming

/-- Transmit channels that are lit and not fenced (R286). -/
def txLit (n : Nat) (s : State) : List Nat :=
  chNums.filter fun k =>
    let c := chanSide (txi n k) s
    c.state != .dark && c.state != .fenced && c.state != .warming

/-- Channels of the transmit direction that carry codewords. -/
def txBound (n : Nat) (s : State) : List Nat := (linkChans n).filter fun k => chanBound (chanSide (txi n k) s)

/-- Transmit channel that holds a lane. -/
def laneTx (n lane : Nat) (s : State) : Option Nat := (linkChans n).find? fun k => (chanSide (txi n k) s).lane = some lane

/-- Receive channel that holds a lane. -/
def laneRx (n lane : Nat) (s : State) : Option Nat := (linkChans n).find? fun k => (chanSide (rxi n k) s).lane = some lane

/-- The free spare channel of the transmit direction with the lowest number: bound to a spare lane, SPARE, and held by
no move or check (R299). -/
def freeSpare (n : Nat) (s : State) : Option Nat :=
  chNums.find? fun k =>
    let c := chanSide (txi n k) s
    c.state = .spare && (match c.lane with
      | some x => widthOf n s ≤ x
      | none => false)

/-- The channel of a spare lane that a pitch check holds, not in RELOCK (R302, R310). -/
def checkedSpare (n : Nat) (s : State) : Option Nat :=
  chNums.find? fun k =>
    let c := chanSide (txi n k) s
    c.state = .check && (match c.lane with
      | some x => widthOf n s ≤ x
      | none => false)

/-- A fault of a class against a channel side: the lane bound to it in syndrome bits [4:0]; the spec gives no other
bit (R305, log 3). -/
def laneFault (cls : FClass) (i : Nat) (s : State) : State :=
  let (n, s1) := useFree s
  let lane := ((chanSide i s).lane.getD 31) % 32
  report (evt (0x7000 + i) cls (lane + 32 * ((Config.free64 n).toNat / 32))) s1

/-! ## Lane control blocks (R319, R322) -/

/-- The 31 bytes after the type of a lane block. -/
def blockBody (bs : List Byte) : List Byte := padTo 31 bs

/-- Queues a lane block on channels of the transmit direction; an extra filler carries it (R322). -/
def sendBlocks (n : Nat) (ks : List Nat) (ty : Nat) (body : List Byte) (s : State) : State :=
  ks.foldl (fun t k =>
    let c := chanSide (txi n k) t
    setChan (txi n k) { c with blocks := c.blocks ++ [(ty, blockBody body)] } t) s

/-- Wakes a sleeping transmit direction: WAKE on every lane, naming the first slot at or after 185 ns (R335). -/
def wakeTx (n : Nat) (s : State) : State :=
  let l := linkGet n s
  if (l.txSleep || l.sleepAt.isSome) && l.wakeAt.isNone then
    let at_ := match l.sleepAt with
      | some x => max x (l.slot + 15)
      | none => l.slot + 15
    sendBlocks n (txBound n s) 0x05 (leBytes 6 at_) (linkSet n { l with wakeAt := some at_ } s)
  else s

/-! ## Lane moves (R297, R298) -/

/-- Starts a move of a lane from channel a to channel b: planned 1,024 slots ahead, immediate eight (R297, R298).
Why: 0 a laser, 1 a check, 2 LANE_RETIRE. -/
def startMove (n lane a b : Nat) (immediate : Bool) (why : Nat) (s0 : State) : State :=
  let s := wakeTx n s0
  let l := linkGet n s
  let slot := max l.slot (l.wakeAt.getD 0) + (if immediate then 8 else 1024)
  let s1 := linkSet n { l with moves := l.moves ++ [⟨lane, a, b, slot, 1, immediate, why⟩] } s
  let ca := chanSide (txi n a) s1
  let s2 := setChan (txi n a) { ca with state := if ca.state = .data then .moving else ca.state } s1
  let s3 := setChan (txi n b) { chanSide (txi n b) s2 with state := .moving } s2
  let ks := (txBound n s3).filter fun k => !(immediate && k = a)
  sendBlocks n ks 0x10 (leBytes 1 lane ++ leBytes 1 a ++ leBytes 1 b ++ leBytes 6 slot) s3

/-! ## The use of link lasers (R538) -/

/-- Whether a link has a use for its lasers. -/
def usesLight (n : Nat) (s : State) : Bool :=
  let l := linkGet n s
  (l.st != .dark && l.st != .bivouac) || l.test.isSome

/-- Key of a wavelength of a link-laser chiplet. -/
def waveKey (ll k : Nat) : Nat := ll * 18 + k

/-- Instance of the link laser that the selector routes for a wavelength. -/
def pathLaser (ll k : Nat) (s : State) : Nat :=
  ll * 36 + k + (if s.las.spareIn.contains (waveKey ll k) then 18 else 0)

/-- Whether the path of a wavelength may be lit now. -/
def pathUsable (ll k : Nat) (s : State) : Bool :=
  !s.las.gone.contains (waveKey ll k) && (laserGet (pathLaser ll k s) s).fade != .failed &&
    !s.therm.zoneOff.contains ll &&
    (match tget none s.las.handover (waveKey ll k) with
      | some h => !h.primaryOff || h.switched
      | none => true)

/-- Lights or unlights the path lasers of a link-laser chiplet by the use of its four links (R538). -/
def lightChiplet (ll : Nat) (s : State) : State :=
  let used := [0, 1, 2, 3].any fun i => usesLight (ll * 4 + i) s
  chNums.foldl (fun t k =>
    if used then (if pathUsable ll k t then laserOn (pathLaser ll k t) t else t)
    else laserOff (pathLaser ll k t) t) s

/-! ## Hand-overs of link lasers (R301–R303) -/

/-- State of a channel whose laser is out: WARMING while a spare comes, DARK when none does (R302, R303). -/
def outState (ll k : Nat) (s : State) : ChanState := if s.las.gone.contains (waveKey ll k) then .dark else .warming

/-- Puts a transmit channel out of light. -/
def putOut (n k : Nat) (s : State) : State :=
  let c := chanSide (txi n k) s
  if c.state = .fenced then s else setChan (txi n k) { c with state := outState (n / 4) k s, urgent := false } s

/-- Replaces a hand-over. -/
def setHandover (ll k : Nat) (h : Option Handover) (s : State) : State :=
  { s with las := { s.las with handover := tset none s.las.handover (waveKey ll k) h } }

/-- The last acknowledgement has come: the primary goes off, and a wavelength with no laser left is done (R301, R302). -/
def settleHandover (ll k : Nat) (s : State) : State :=
  match tget none s.las.handover (waveKey ll k) with
  | none => s
  | some h =>
    if h.waiting != [] then s
    else
      let gone := s.las.gone.contains (waveKey ll k)
      let s1 := if h.primaryOff then s else laserOff (pathLaser ll k s) s
      setHandover ll k (if gone then none else some { h with primaryOff := true }) s1

/-- A link is done with a wavelength: its channel goes out, and the hand-over waits for one link fewer (R301). -/
def linkFreed (n k : Nat) (s : State) : State :=
  let ll := n / 4
  match tget none s.las.handover (waveKey ll k) with
  | none => s
  | some h => settleHandover ll k (setHandover ll k (some { h with waiting := h.waiting.erase n }) (putOut n k s))

/-- A link leaves service: its end stops, and the hand-overs that waited for it wait no longer; it takes up the new laser at
its next training (R302). -/
def leaveLink (n : Nat) (s : State) : State :=
  chNums.foldl (fun t k =>
    match tget none t.las.handover (waveKey (n / 4) k) with
    | some h => if h.waiting.contains n then linkFreed n k t else t
    | none => t) (linkLeaves n s)

/-! ## Width changes (R299, R359) -/

/-- Payload of WIDTH_REQ and WIDTH_ACK (Table 13-3). -/
def widthPayload (w : WidthChange) : List Byte :=
  leBytes 1 (widthCode w.width) ++ zeros 3 ++ leBytes 4 (maskOf w.exclude) ++ leBytes 6 w.slot

/-- Transmit channels in CHECK or RELOCK, which can carry no data across a width change: the end excludes them with the
channel to be freed (R299, R359, log 117). -/
def heldBack (n : Nat) (s : State) : List Nat :=
  chNums.filter fun k =>
    let c := chanSide (txi n k) s
    c.state = .check || c.state = .relock

/-- The next width of Table 11-3, when the direction has channels for it once some are excluded. -/
def nextWidth (n : Nat) (exclude : List Nat) (s : State) : Option Nat :=
  let left := ((txLit n s).filter fun k => !exclude.contains k && !(linkGet n s).excluded.contains k).length
  let next := if widthOf n s = 16 then 12 else 8
  match widthFor left with
  | none => none
  | some w => some (min w next)

/-- A link goes DARK with a class U fault against it: too few channels are left (Tables 11-3, 12-4). -/
def linkDark (n : Nat) (s : State) : State :=
  let s1 := leaveLink n s
  lightChiplet (n / 4) (refreshDegraded (faultUOpen (0x8000 + n)
    (linkSet n { linkGet n s1 with st := .dark, stAt := s1.clock.now, width := none, test := none } s1)))

/-- Asks for the next narrower width, excluding a channel of this end's transmit direction (R299, R359). -/
def askWidth (n k : Nat) (s0 : State) : State :=
  let s := wakeTx n s0
  let l := linkGet n s
  match l.change with
  | some w => linkSet n { l with change := some { w with exclude := setInsert k w.exclude } } s
  | none =>
    let out := setInsert k (heldBack n s)
    match nextWidth n out s with
    | none => linkDark n s
    | some w =>
      let c : WidthChange := ⟨w, out, l.slot + 256, true, false, []⟩
      placeFlit n (mkFlit 0x01 0 0 s.fab.id 0 false (widthPayload c)) (linkSet n { l with change := some c } s)

/-- Modules of a group. -/
def groupModules (g : Nat) : List Nat := (List.range 141).filter fun m => moduleGroup m = g

/-- Capacity of a direction of a module in GB/s; a retrain does not lower it, and a module not yet up counts as whole. -/
def dirCapacity (m d : Nat) (s : State) : Nat :=
  let x := modGet m s
  if x.state = .out || x.state = .clockLost || (x.dir d).noRecord then 0 else if (x.dir d).half then 128 else 256

/-- Capacity of a group in GB/s: the smaller direction governs (R394). -/
def groupCapacity (g : Nat) (s : State) : Nat :=
  min ((groupModules g).map fun m => dirCapacity m 0 s).sum ((groupModules g).map fun m => dirCapacity m 1 s).sum

/-- Widths of the four links of a chiplet after narrowing to a capacity: the highest-numbered link first, one step at
a time, and only then the next (R395). A link that is down needs nothing. -/
def narrow (c : Nat) : List Nat → List Nat → List Nat
  | [], done => done
  | w :: lower, done =>
    let rest := (lower.sum + done.sum) * 25
    let w' := if w = 16 && c < rest + 400 then (if c < rest + 300 then 8 else 12)
              else if w = 12 && c < rest + 300 then 8 else w
    narrow c lower (w' :: done)

/-- Asks for a narrower width of a link with no channel excluded (R359, R395). -/
def narrowLink (n w : Nat) (s0 : State) : State :=
  if !linkUp n s0 || widthOf n s0 ≤ w then s0
  else
    let s := wakeTx n s0
    let l := linkGet n s
    match l.change with
    | some _ => s
    | none =>
      let c : WidthChange := ⟨w, [], l.slot + 256, true, false, []⟩
      placeFlit n (mkFlit 0x01 0 0 s.fab.id 0 false (widthPayload c)) (linkSet n { l with change := some c } s)

/-- Narrows the links of an optical chiplet to its group's capacity (R395). -/
def narrowOptical (n : Nat) (s : State) : State :=
  let w := fun i => if linkUp (n * 4 + i) s then widthOf (n * 4 + i) s else 0
  let want := narrow (groupCapacity (8 + n) s) [w 3, w 2, w 1, w 0] []
  ((List.range 4).zip want).foldl (fun t e => narrowLink (n * 4 + e.1) e.2 t) s

/-- Asks for a retrain: RETRAIN on every working channel, naming a slot at least 64 ahead (R333, R361). -/
def askRetrain (n : Nat) (s : State) : State :=
  let l := linkGet n s
  if l.st != .active || l.retrainAt.isSome then s
  else
    let at_ := l.slot + 128
    sendBlocks n (txBound n s) 0x07 (leBytes 6 at_)
      (linkSet n { l with retrainAt := some at_, retrainMine := true, change := none } s)

/-! ## Training states of a link end -/

/-- A link end enters a training state: the stream stops where it ran, and the chiplet's lasers follow (R327, R538). -/
def enterTrain (n : Nat) (st : Train) (s : State) : State :=
  let s1 := if st = .active then s else leaveLink n s
  let l := linkGet n s1
  lightChiplet (n / 4) (linkSet n { l with st := st, stAt := s1.clock.now,
                                           width := if st = .active then l.width else none,
                                           retrainAt := none, retrainMine := false, test := none } s1)

/-- A fresh training nonce is drawn (R329). -/
def freshNonce (n : Nat) (s : State) : State :=
  let (k, s1) := useFree s
  linkSet n { linkGet n s1 with nonce := Config.free64 k } s1

/-- A link end enters SEND (R329, R333). -/
def enterSend (n : Nat) (s : State) : State :=
  let s1 := freshNonce n (enterTrain n .send s)
  linkSet n { linkGet n s1 with sent := true, noPeer := false, light := false, negDone := false } s1

/-! ## Covers of channels, and the start of hand-overs (R299–R303, R310) -/

/-- Moves what a link carries on a transmit channel off it: by a move to a free spare lane, else by a width change. While a
check holds the spare lane nothing starts yet, save that the failure of a laser abandons the check, whose age runs on, and
takes its channel (R299, R302, R310). -/
def coverChannel (n k : Nat) (immediate : Bool) (why : Nat) (s : State) : State :=
  match (chanSide (txi n k) s).lane with
  | none => s
  | some lane =>
    match freeSpare n s with
    | some b => startMove n lane k b immediate why s
    | none =>
      match checkedSpare n s with
      | none => askWidth n k s
      | some b =>
        if !immediate then s
        else if why = 0 then startMove n lane k b true why (setChan (txi n b) { chanSide (txi n b) s with state := .spare } s)
        else askWidth n k s

/-- Whether a link carries a data lane on a transmit channel. -/
def carriesData (n k : Nat) (s : State) : Bool :=
  let c := chanSide (txi n k) s
  linkUp n s && (c.state = .data || c.state = .moving) && (match c.lane with
    | some x => x < widthOf n s
    | none => false)

/-- Frees a wavelength on one link: a data lane moves away, any other channel goes out at once (R301). -/
def freeOn (n k : Nat) (immediate : Bool) (s : State) : State :=
  if carriesData n k s then coverChannel n k immediate 0 s else putOut n k s

/-- The links of a chiplet that still carry data on a wavelength. -/
def carriers (ll k : Nat) (s : State) : List Nat := ([0, 1, 2, 3].map (ll * 4 + ·)).filter fun n => carriesData n k s

/-- Hand-overs in progress on a chiplet (R302). -/
def handovers (ll : Nat) (s : State) : Nat := (s.las.handover.filter fun e => e.1 / 18 = ll && e.2.isSome).length

/-- Begins a hand-over, or the end of a wavelength with no laser left (R301–R303). -/
def beginHandover (ll k : Nat) (failed : Bool) (s : State) : State :=
  let wait := carriers ll k s
  let s1 := setHandover ll k (some ⟨s.clock.now, failed, wait, false⟩) s
  let s2 := if s.las.gone.contains (waveKey ll k) then s1 else laserOn (ll * 36 + 18 + k) s1
  settleHandover ll k ((List.range 4).foldl (fun t i => freeOn (ll * 4 + i) k failed t) s2)

/-- Whether a further hand-over waits: two run on the chiplet, or one does and a link that carries data on the wavelength
has no free spare lane for another (R302). -/
def handoverWaits (ll k : Nat) (s : State) : Bool :=
  2 ≤ handovers ll s || (handovers ll s = 1 && (carriers ll k s).any fun n => (freeSpare n s).isNone)

/-- A hand-over starts, or waits its turn on the chiplet (R302). -/
def wantHandover (ll k : Nat) (failed : Bool) (s : State) : State :=
  if !failed && handoverWaits ll k s then
    { s with las := { s.las with queued := s.las.queued ++ [waveKey ll k] } }
  else beginHandover ll k failed s

/-- The next hand-over that waits on a chiplet starts. -/
def nextHandover (ll : Nat) (s : State) : State :=
  match s.las.queued.find? fun q => q / 18 = ll with
  | none => s
  | some q =>
    if handoverWaits ll (q % 18) s then s
    else beginHandover ll (q % 18) false { s with las := { s.las with queued := s.las.queued.erase q } }

/-- Whether the spare for a wavelength can still be brought in: it is not in use and not worn. -/
def linkSpareLeft (ll k : Nat) (s : State) : Bool :=
  !s.las.spareIn.contains (waveKey ll k) && !s.las.worn.contains (ll * 36 + 18 + k) &&
    (tget none s.las.handover (waveKey ll k)).isNone

/-- Records that a wavelength has no laser left (R302). -/
def markGone (ll k : Nat) (s : State) : State :=
  { s with las := { s.las with gone := setInsert (waveKey ll k) s.las.gone } }

/-- A link laser reaches its SPARE point (R301, R302). -/
def linkSparePoint (inst : Nat) (s : State) : State :=
  let ll := inst / 36
  let k := inst % 18
  let s1 := faultCOpen (0xA000 + inst) (laserWorn inst .sparePoint s)
  if pathLaser ll k s != inst || (tget none s.las.handover (waveKey ll k)).isSome then s1
  else if linkSpareLeft ll k s1 then wantHandover ll k false s1
  else beginHandover ll k false (markGone ll k s1)

/-- Ends a hand-over whose spare failed before it lit the path: with the primary off the wavelength is gone, else the
primary serves on (R303). -/
def spareLost (ll k : Nat) (h : Handover) (s : State) : State :=
  let s1 := setHandover ll k none s
  if h.primaryOff then
    let s2 := markGone ll k s1
    (List.range 4).foldl (fun t i => if (chanSide (txi (ll * 4 + i) k) t).state = .warming then putOut (ll * 4 + i) k t else t) s2
  else
    (List.range 4).foldl (fun t i =>
      let c := chanSide (txi (ll * 4 + i) k) t
      if c.state = .warming then setChan (txi (ll * 4 + i) k) { c with state := .spare } t else t) s1

/-- What a failed link laser brings beside its fault: off, immediate moves of every data lane on its wavelength, and the
spare brought in (R298, R303, R310). -/
def linkLaserLost (inst : Nat) (s : State) : State :=
  let ll := inst / 36
  let k := inst % 18
  let selected := pathLaser ll k s = inst
  let s1 := laserOff inst (laserWorn inst .failed s)
  match tget none s.las.handover (waveKey ll k) with
  | some h =>
    if selected && (!h.primaryOff || h.switched) then
      let s2 := if h.switched then markGone ll k s1 else s1
      beginHandover ll k true s2
    else if inst = ll * 36 + 18 + k then spareLost ll k h s1
    else s1
  | none =>
    if !selected then s1
    else if linkSpareLeft ll k s1 then wantHandover ll k true s1
    else beginHandover ll k true (markGone ll k s1)

/-- A link laser fails: class U, and what R303 says. -/
def linkLaserFail (inst : Nat) (s : State) : State := linkLaserLost inst (faultUOpen (0xA000 + inst) s)

/-- A whole link-laser chiplet is out: a class U fault against each lit laser, its four links down (R303, R428). -/
def linkChipletOut (ll : Nat) (s : State) : State :=
  let lits := (List.range 36).filter fun i => (laserGet (ll * 36 + i) s).lit
  let s1 := lits.foldl (fun t i => faultUOpen (0xA000 + ll * 36 + i) (laserOff (ll * 36 + i) t)) s
  (List.range 4).foldl (fun t i =>
    if usesLight (ll * 4 + i) t then
      let u := leaveLink (ll * 4 + i) t
      refreshDegraded (linkSet (ll * 4 + i) { linkGet (ll * 4 + i) u with st := .dark, stAt := u.clock.now, width := none } u)
    else t) s1

/-! ## Port lasers (R312) -/

/-- Instance of the laser that lights a port. -/
def portLaser (p : Port) (s : State) : Nat :=
  let i := match p with
    | .cp0 => 0
    | .cp1 => 1
  0x120 + i + (if (portSt p s).spareUsed then 2 else 0)

/-- Instance of the spare laser of a port. -/
def portSpare : Port → Nat
  | .cp0 => 0x122
  | .cp1 => 0x123

/-- The port a port laser belongs to. -/
def portOfLaser (inst : Nat) : Port := if inst % 2 = 0 then .cp0 else .cp1

/-- The other port. -/
def otherPort : Port → Port
  | .cp0 => .cp1
  | .cp1 => .cp0

/-- A control port stays DOWN until the next package reset. -/
def portOut (p : Port) (s : State) : State :=
  let s1 := portDown p s
  setPort p { portSt p s1 with phase := .down, fenced := true } s1

/-- A port with no laser left stays DOWN with a class U fault against it (R312). -/
def portDead (p : Port) (s : State) : State := portOut p (faultUOpen (portSource p) s)

/-- A port laser reaches its SPARE point: its spare warms into the dump monitor; with the spare in use or worn the
port stays DOWN (R312). -/
def portSparePoint (inst : Nat) (s : State) : State :=
  let p := portOfLaser inst
  let s1 := faultCOpen (0xA000 + inst) (laserWorn inst .sparePoint s)
  if portLaser p s != inst then s1
  else if inst < 0x122 && !s1.las.worn.contains (portSpare p) then
    setPort p { portSt p s1 with spareWarm := true } (laserOn (portSpare p) s1)
  else portDead p (laserOff inst s1)

/-- What a failed port laser brings beside its fault: the port goes DOWN at once and the spare is brought in without
waiting (R312). -/
def portLaserLost (inst : Nat) (s : State) : State :=
  let p := portOfLaser inst
  let s1 := laserOff inst (laserWorn inst .failed s)
  if portLaser p s != inst then s1
  else if inst < 0x122 && !s1.las.worn.contains (portSpare p) then
    let s2 := laserOn (portSpare p) (portDown p s1)
    portTrains p (setPort p { portSt p s2 with spareUsed := true, spareWarm := false } s2)
  else portDead p s1

/-- A port laser fails: class U, and what R312 says. -/
def portLaserFail (inst : Nat) (s : State) : State := portLaserLost inst (faultUOpen (0xA000 + inst) s)

/-- PORT_LASER_SWITCH: the spare has warmed 30 ms and the other port is stable: the port goes DOWN and retrains on its
spare (R312). -/
def execPortLaserSwitch (p : Port) (s : State) : Step :=
  let x := portSt p s
  let o := portSt (otherPort p) s
  if !x.spareWarm || x.spareUsed || !o.stable || o.phase != .active || s.clock.now < o.activeAt + 100000000 ||
      s.clock.now < (laserGet (portSpare p) s).litAt + 30000000
  then .next s
  else
    let s1 := laserOff (portLaser p s) (portDown p s)
    .next (portTrains p (setPort p { portSt p s1 with spareUsed := true, spareWarm := false } s1))

/-! ## Laser samples (R293–R296) -/

/-- Bias limits of Table 11-7 in 0.1 mA by band less 1. -/
def biasLimit (inst band : Nat) : Nat :=
  if isComb inst then [600, 700, 800, 900].getD band 900 else [900, 1000, 1150, 1300].getD band 1300

/-- 100 ms mean bias of the samples at hand. -/
def meanBias (x : Laser) : Nat := (x.samples.map (·.1)).sum / max 1 x.samples.length

/-- 100 ms mean output. -/
def meanOutput (x : Laser) : Nat := (x.samples.map (·.2)).sum / max 1 x.samples.length

/-- Chiplet of a laser among the laser chiplets: LL0–7, CL 8–11, port 12. -/
def laserChip (inst : Nat) : Nat := if inst < 0x120 then inst / 36 else if isComb inst then 8 + (inst - 0x200) / 160 else 12

/-- Whether an instance is a laser (Table 11-6). -/
def isLaser (inst : Nat) : Bool := inst < 0x124 || isComb inst

/-- A laser reaches its SPARE point. -/
def sparePoint (inst : Nat) (s : State) : State :=
  if isComb inst then combSparePoint inst s else if inst < 0x120 then linkSparePoint inst s else portSparePoint inst s

/-- A laser fails. -/
def laserFail (inst : Nat) (s : State) : State :=
  if isComb inst then combLineFail inst s else if inst < 0x120 then linkLaserFail inst s else portLaserFail inst s

/-- Judges a lit laser by its means (Table 11-8). -/
def judgeLaser (inst : Nat) (s : State) : State :=
  let x := laserGet inst s
  let lim := biasLimit inst x.band
  let b := meanBias x
  if x.fade = .sparePoint || x.fade = .failed || x.samples = [] then s
  else if 95 * lim ≤ 100 * b || (meanOutput x < 800 && lim ≤ b) then sparePoint inst s
  else if 80 * lim ≤ 100 * b && x.fade = .ok then
    faultCOpen (0xA000 + inst) (laserSet inst { x with fade := .warn } s)
  else s

/-- LASER_SAMPLE: a lit laser's bias in 0.1 mA and output in 0.1 % of P0 (R293, R295). -/
def execLaserSample (inst bias output : Nat) (s : State) : Step :=
  let x := laserHours s.clock.now (laserGet inst s)
  if !isLaser inst || !x.lit || x.fade = .failed then .next s
  else
    let s1 := laserSet inst { x with samples := ((bias, output) :: x.samples).take 100 } s
    .next (if output < 500 then laserFail inst s1 else judgeLaser inst s1)

/-- LASER_FAILURE: a lit laser's light vanishes (R303, R312, R114). -/
def execLaserFailure (inst : Nat) (s : State) : Step :=
  let x := laserGet inst s
  if isLaser inst && x.lit && x.fade != .failed then .next (laserFail inst s) else .next s

/-- Lasers of a chiplet. -/
def chipLasers (chip : Nat) : List Nat :=
  if chip < 8 then (List.range 36).map (chip * 36 + ·)
  else if chip < 12 then (List.range 160).map (0x200 + (chip - 8) * 160 + ·)
  else [0x120, 0x121, 0x122, 0x123]

/-- LASER_BAND_CHANGE: every laser of the chiplet moves to the bias table of the chiplet's band, and is judged by the
new limit (R294, R295). -/
def execLaserBandChange (chip : Nat) (s : State) : Step :=
  let b := tget 0 s.therm.bands (16 + chip)
  if 13 ≤ chip || tget 0 s.las.chipBand chip = b then .next s
  else
    let s1 := { s with las := { s.las with chipBand := tset 0 s.las.chipBand chip b } }
    let s2 := (chipLasers chip).foldl (fun t i => laserSet i { laserGet i t with band := b } t) s1
    .next ((chipLasers chip).foldl (fun t i => if (laserGet i t).lit then judgeLaser i t else t) s2)

/-- LINK_LASER_SPARE_POINT (R301). -/
def execLinkLaserSparePoint (inst : Nat) (s : State) : Step :=
  let x := laserGet inst s
  if inst < 0x120 && x.lit && x.fade != .sparePoint && x.fade != .failed then .next (linkSparePoint inst s) else .next s

/-- LINK_SPARE_SWITCH: 30 ms after, with the primary off, the selector routes the spare in (R301, Table 11-10). -/
def execLinkSpareSwitch (n k : Nat) (s : State) : Step :=
  match tget none s.las.handover (waveKey n k) with
  | none => .next s
  | some h =>
    if 8 ≤ n || 18 ≤ k || !h.primaryOff || h.switched || s.clock.now < h.began + 30000000 ||
        s.las.gone.contains (waveKey n k)
    then .next s
    else
      let s1 := setHandover n k (some { h with switched := true })
        { s with las := { s.las with spareIn := setInsert (waveKey n k) s.las.spareIn } }
      let s2 := (List.range 4).foldl (fun t i =>
        let c := chanSide (txi (n * 4 + i) k) t
        if c.state = .warming && !linkUp (n * 4 + i) t then
          setChan (txi (n * 4 + i) k) { c with state := .spare, lane := none } t
        else t) s1
      let left := (List.range 4).any fun i => (chanSide (txi (n * 4 + i) k) s2).state = .warming
      .next (if left then s2 else nextHandover n (setHandover n k none s2))

/-! ## Pitch checks (R307–R310) -/

/-- A channel side enters CHECK. -/
def enterCheck (i : Nat) (s : State) : State :=
  setChan i { chanSide i s with state := .check, began := s.clock.now } s

/-- The transmitting end starts a check on a free channel: CHECK_START on it (R307). -/
def startCheck (n k : Nat) (s : State) : State :=
  sendBlocks n [k] 0x13 (zeros 1 ++ leBytes 1 k) (enterCheck (txi n k) s)

/-- LINK_SPARE_VERIFIED: a channel on the new spare is SPARE, or goes through a pitch check; the hand-over ends with
the last (R301). -/
def execLinkSpareVerified (link k : Nat) (ok : Bool) (s : State) : Step :=
  let ll := link / 4
  match tget none s.las.handover (waveKey ll k) with
  | none => .next s
  | some h =>
    let c := chanSide (txi link k) s
    if 32 ≤ link || 18 ≤ k || !h.switched || c.state != .warming then .next s
    else
      let s1 := if ok then setChan (txi link k) { c with state := .spare } s else startCheck link k s
      let left := (List.range 4).any fun i => (chanSide (txi (ll * 4 + i) k) s1).state = .warming
      .next (if left then s1 else nextHandover ll (setHandover ll k none s1))

/-- Whether a direction has a check in progress. -/
def dirChecking (n : Nat) (s : State) : Bool :=
  chNums.any fun k => (chanSide (txi n k) s).state = .check || (chanSide (txi n k) s).state = .relock

/-- Whether a hand-over of the link's chiplet is in progress. -/
def dirHandover (n : Nat) (s : State) : Bool := s.las.handover.any fun e => e.1 / 18 = n / 4 && e.2.isSome

/-- Time after which a channel's next check is due: 10 s, or 2.5 s after a MARGINAL one (R307, R309). -/
def checkDue (c : Chan) : Nat := c.checkedAt + (if c.marginal then 2500000000 else 10000000000)

/-- Starts the check of a due channel, with a move where it carries data (R307, R308). -/
def beginCheck (n k : Nat) (urgent : Bool) (s0 : State) : State :=
  let s := if urgent then wakeTx n s0 else s0
  let c := chanSide (txi n k) s
  match c.lane with
  | none => s
  | some lane =>
    if widthOf n s ≤ lane then (if c.state = .spare then startCheck n k s else s)
    else match freeSpare n s with
      | some b => startMove n lane k b false 1 s
      | none => if urgent && 8 < widthOf n s && (linkGet n s).change.isNone then askWidth n k s else s

/-- LANE_CHECK_DUE: a transmit channel 10 s after its last check starts one when its direction is free; after 40 s it
is urgent and goes ahead of what waits, but in a Cairn freeze waits for its end (R307, R308, R335, R432, R433). -/
def execLaneCheckDue (inst : Nat) (s : State) : Step :=
  let n := instLink inst
  let c := chanSide inst s
  let l := linkGet n s
  if 1152 ≤ inst || instRx inst || !linkUp n s || s.clock.now < checkDue c ||
      !(c.state = .data || c.state = .spare)
  then .next s
  else
    let urgent := c.checkedAt + 40000000000 ≤ s.clock.now
    let s1 := if urgent && !c.urgent then
        promote 1 (setChan inst { c with urgent := true, promotions := (c.promotions + 1) % 256 } s)
      else s
    if dirChecking n s || l.moves != [] || l.change.isSome || (!urgent && (dirHandover n s || l.txSleep)) ||
        (urgent && s.cairn.frozen) then .next s1
    else .next (beginCheck n (instCh inst) urgent s1)

/-- CHECK_START: the receive channel enters CHECK with the far end's transmit channel (R307). -/
def checkStarts (n k : Nat) (s : State) : State :=
  let c := chanSide (rxi n k) s
  if c.state = .fenced || c.state = .dark then s else enterCheck (rxi n k) s

/-- CHECK_START (R307). -/
def execCheckStart (link ch : Nat) (s : State) : Step :=
  if link < 32 && ch < 18 && (linkGet link s).rxActive then .next (checkStarts link ch s) else .next s

/-- CHECK_REPORT: the transmitting end sets its modulator trims (R307, R319). -/
def checkReports (n : Nat) (r : CheckReport) (s : State) : State :=
  let c := chanSide (txi n r.ch) s
  if c.state = .check then setChan (txi n r.ch) { c with bias := c.bias + r.bias, drive := c.drive + r.drive } s else s

/-- CHECK_REPORT (R319). -/
def execCheckReport (link : Nat) (r : CheckReport) (s : State) : Step :=
  if link < 32 && r.ch < 18 then .next (checkReports link r s) else .next s

/-- A channel side fails for good: class U fence, and it works no longer (R305). -/
def fenceChan (i : Nat) (s : State) : State :=
  let s1 := laneFault .u i s
  setChan i { chanSide i s1 with state := .fenced, urgent := false, walk := {} } s1

/-- Hand-overs that waited for a check on a link go on (R302). -/
def resumeHandovers (n : Nat) (s : State) : State :=
  let ll := n / 4
  (s.las.handover.filter fun e => e.1 / 18 = ll).foldl (fun t e =>
    match e.2 with
    | some h =>
      if h.waiting.contains n && !(linkGet n t).moves.any (fun m => m.a = e.1 % 18) && carriesData n (e.1 % 18) t then
        coverChannel n (e.1 % 18) false 0 t
      else t
    | none => t) s

/-- Band of the chiplet of a channel, less 1: of an optical chiplet, or of the port chiplet. -/
def chipBandOf (i : Nat) (s : State) : Nat := tget 0 s.therm.bands (if i < 1152 then 32 + instLink i / 4 else 28)

/-- The trims in force of a receive channel: what a check has corrected for the band of its chiplet, else the calibration
record's (R325). -/
def rxTrimsOf (i : Nat) (s : State) : RxTrims :=
  let b := chipBandOf i s
  let r := Config.receiveTrim i b
  (tget none (chanSide i s).rxTrims b).getD ⟨r 0, r 1, r 2, r 3, r 4, r 5⟩

/-- The trims that the receiving end of a check sets for the band: by how much they change the spec does not say, so they
are free within the converters' ranges (R307, R325, Table 16-4, log 112). -/
def correctTrims (i : Nat) (s : State) : State :=
  if !instRx i then s
  else
    let (n, s1) := useFree s
    let v := fun k w => bitsOf (Config.free64 n).toNat (8 * k + w - 1) (8 * k)
    let t : RxTrims := ⟨min (v 0 5) 24, v 1 8, toSigned 8 (v 2 8), v 3 8, v 4 8, v 5 8⟩
    let c := chanSide i s1
    setChan i { c with rxTrims := tset none c.rxTrims (chipBandOf i s1) (some t) } s1

/-- A check of a side has passed: age restarts, the channel is a spare lane's again (R307, R309). -/
def checkPassed (i : Nat) (marginal : Bool) (s0 : State) : State :=
  let s := correctTrims i s0
  let c := chanSide i s
  let relocked := c.walk.state = .lockedOk
  let s1 := if marginal || relocked then laneFault .c i s else s
  let c1 := chanSide i s1
  setChan i { c1 with state := .spare, checkedAt := s1.clock.now, marginal := marginal, urgent := false,
                      last := if marginal then 1 else if relocked then 2 else 0, walk := {} } s1

/-- Number of a chiplet ring among the heaters. -/
def chipRing (i : Nat) : Nat := 20000000 + i

/-- Heater value of the ring of a channel side: where a walk left it in this band, else the calibrated one (R290, R291). -/
def chipHeater (i : Nat) (s : State) : Int :=
  let b := chipBandOf i s
  match (chanSide i s).heat with
  | some (x, h) => if x = b then h else Config.heaterCal (chipRing i) b
  | none => Config.heaterCal (chipRing i) b

/-- A walk of the ring of a channel side begins (R290, R291). -/
def chipWalk (i : Nat) (s : State) : Walk := { state := .identify, heater := chipHeater i s, began := s.clock.now }

/-- What a pitch check ended with, at one side of a channel (R309); hand-overs that waited for it go on, without waiting for a
walk (R302). -/
def checkEnds (i : Nat) (r : LaneCheck) (s : State) : State :=
  resumeHandovers (instLink i)
    (if r.walkFailed then fenceChan i s
     else if r.toneFailed then setChan i { chanSide i s with state := .relock, walk := chipWalk i s } s
     else if r.errors * 100000 ≤ r.bits then checkPassed i false s
     else if r.errors * 100000 ≤ r.bits * 24 then checkPassed i true s
     else fenceChan i s)

/-- Code of a check's end in a CHECK_RESULT block: 0 PASS, 1 MARGINAL, 2 RELOCK, 3 FAIL (Table 12-3). -/
def checkCode (r : LaneCheck) : Nat :=
  if r.walkFailed then 3 else if r.toneFailed then 2
  else if r.errors * 100000 ≤ r.bits then 0 else if r.errors * 100000 ≤ r.bits * 24 then 1 else 3

/-- The receiving end's measurements at 44 µs of a check whose rings passed their tone: CHECK_REPORT; what it measured, and by
how much the trims are to change, no row brings, so that its bytes 4 to 23 are free (R307, R319, log 85). -/
def reportCheck (i : Nat) (s : State) : State :=
  let n := instLink i
  let v := fun k => leBytes 8 (Config.free64 (s.free + k)).toNat
  sendBlocks n (txBound n s) 0x14 (zeros 1 ++ leBytes 1 (instCh i) ++ zeros 1 ++ (v 0 ++ v 1 ++ v 2).take 20)
    { s with free := s.free + 3 }

/-- The receiving end tells the transmitting end what the check measured and ended with: CHECK_REPORT, unless a ring failed
its tone, and CHECK_RESULT on its own transmit direction (R307, R319). -/
def tellCheck (i : Nat) (r : LaneCheck) (s : State) : State :=
  let n := instLink i
  if instRx i then
    let s1 := if r.walkFailed || r.toneFailed then s else reportCheck i s
    sendBlocks n (txBound n s1) 0x15 (zeros 1 ++ leBytes 1 (instCh i) ++ leBytes 1 (checkCode r)) s1
  else s

/-- CHECK_RESULT: 60 µs after its start a check ends (R309); a failed channel may cost the link its width (R288). -/
def execCheckResult (inst : Nat) (r : LaneCheck) (s : State) : Step :=
  let c := chanSide inst s
  if 1152 ≤ inst || c.state != .check || s.clock.now < c.began + 60000 then .next s
  else .next (checkEnds inst r (tellCheck inst r s))

/-! ## Walks of chiplet rings (R291) -/

/-- What a walk's new state does to its channel: LOCKED_OK repeats the check, FAILED fences the channel (R305, R309). -/
def chipWalkDone (i : Nat) (w : Walk) (s : State) : State :=
  let c := { chanSide i s with heat := some (chipBandOf i s, w.heater) }
  let s1 := setChan i { c with walk := w } s
  if w.state = .failed then fenceChan i s1
  else if w.state = .lockedOk && c.state = .relock then setChan i { c with walk := w, state := .check, began := s.clock.now } s1
  else if w.state = .lockedOk then setChan i { c with walk := {} } s1
  else s1

/-- Whether the ring of a channel side walks. -/
def chipWalking (i : Nat) (s : State) : Bool := i < 1152 && (chanSide i s).walk.state != .idle

/-- CHIPLET_WALK_IDENTIFY (R291). -/
def execChipletWalkIdentify (inst strongest : Nat) (s : State) : Step :=
  if !chipWalking inst s then .next s
  else .next (chipWalkDone inst
    (walkEvent chipletRule s.clock.now (walkIdentify chipletRule (chipRing inst) (chipBandOf inst s) (instCh inst) strongest)
      (chanSide inst s).walk) s)

/-- CHIPLET_WALK_ORDER (R291). -/
def execChipletWalkOrder (inst : Nat) (s : State) : Step :=
  if !chipWalking inst s then .next s
  else .next (chipWalkDone inst
    (walkEvent chipletRule s.clock.now (walkOrder chipletRule (chipRing inst) (chipBandOf inst s) (instCh inst))
      (chanSide inst s).walk) s)

/-- CHIPLET_WALK_STEP (R291). -/
def execChipletWalkStep (inst : Nat) (s : State) : Step :=
  if !chipWalking inst s then .next s
  else .next (chipWalkDone inst
    (walkEvent chipletRule s.clock.now (walkStep (chipRing inst) (chipBandOf inst s) (instCh inst))
      (chanSide inst s).walk) s)

/-- CHIPLET_WALK_VERIFY (R291). -/
def execChipletWalkVerify (inst : Nat) (pass : Bool) (s : State) : Step :=
  if !chipWalking inst s then .next s
  else .next (chipWalkDone inst (walkEvent chipletRule s.clock.now (walkVerify pass) (chanSide inst s).walk) s)

/-- CHIPLET_WALK_TIMEOUT: over its limits the walk ends FAILED and the channel is fenced (R291, R305). -/
def execChipletWalkTimeout (inst : Nat) (s : State) : Step :=
  let w := (chanSide inst s).walk
  if chipWalking inst s && walkOver chipletRule s.clock.now w then .next (chipWalkDone inst { w with state := .failed } s)
  else .next s

/-! ## Moves and retirements as events (R297, R298, R300, R304) -/

/-- Counts a move on a channel side. -/
def countMove (i : Nat) (s : State) : State :=
  let c := chanSide i s
  setChan i { c with moves := (c.moves + 1) % 256 } s

/-- The receiving end takes a lane from its new channel and answers LANE_MOVE_ACK (R297). -/
def laneMoves (n lane a b slot : Nat) (s : State) : State :=
  let old := (chanSide (rxi n b) s).lane
  let s1 := setChan (rxi n a) { chanSide (rxi n a) s with lane := old, state := .spare } s
  let s2 := setChan (rxi n b) { chanSide (rxi n b) s1 with
    lane := some lane, state := if lane < widthOf n s then .data else .spare } s1
  let s3 := countMove (rxi n a) (countMove (rxi n b) s2)
  let l := linkGet n s3
  sendBlocks n (txBound n s3) 0x11 (leBytes 1 lane ++ zeros 2 ++ leBytes 6 slot)
    (linkSet n { l with rxMoves := l.rxMoves.filter fun m => m.1 != lane, lost := tset none l.lost lane none } s3)

/-- LANE_MOVE: the receiving end acts on the first valid copy (R297, R298). -/
def execLaneMove (link lane a b : Nat) (slot : BitVec 48) (s : State) : Step :=
  if 32 ≤ link || 18 ≤ lane || 18 ≤ a || 18 ≤ b || a = b || !(linkGet link s).rxActive ||
      (chanSide (rxi link a) s).lane != some lane || slot.toNat < (linkGet link s).rxSlot
  then .next s
  else .next (laneMoves link lane a b slot.toNat s)

/-- What a completed move leaves its old channel in (R301, R300, R307). -/
def afterMove (n : Nat) (m : LaneMove) (s : State) : State :=
  if m.why = 0 then linkFreed n m.a s
  else if m.why = 1 then startCheck n m.a s
  else startCheck n m.a s

/-- The acknowledged move: the two lane map entries swap (R287, R297). -/
def moveAcked (n : Nat) (m : LaneMove) (s : State) : State :=
  let l := linkGet n s
  let s1 := linkSet n { l with moves := l.moves.erase m } s
  let old := (chanSide (txi n m.b) s1).lane
  let s2 := setChan (txi n m.a) { chanSide (txi n m.a) s1 with lane := old, state := .spare, owed := [] } s1
  let s3 := setChan (txi n m.b) { chanSide (txi n m.b) s2 with lane := some m.lane, state := .data } s2
  afterMove n m (countMove (txi n m.a) (countMove (txi n m.b) s3))

/-- LANE_MOVE_ACK (R297). -/
def execLaneMoveAck (link lane : Nat) (slot : BitVec 48) (s : State) : Step :=
  match (linkGet link s).moves.find? fun m => m.lane = lane && m.slot = slot.toNat with
  | some m => if link < 32 then .next (moveAcked link m s) else .next s
  | none => .next s

/-- A move is abandoned: the spare is free again and the channel is covered as with no free spare lane (R297, R299). -/
def moveAbandoned (n : Nat) (m : LaneMove) (s : State) : State :=
  let l := linkGet n s
  let s1 := linkSet n { l with moves := l.moves.erase m } s
  let s2 := setChan (txi n m.b) { chanSide (txi n m.b) s1 with state := .spare } s1
  let s3 := setChan (txi n m.a) { chanSide (txi n m.a) s2 with state := .data } s2
  askWidth n m.a s3

/-- LANE_MOVE_TIMEOUT: 200 µs after N with no acknowledgement the block goes out again with a new N, and after three
attempts the move is abandoned (R297). -/
def execLaneMoveTimeout (link lane : Nat) (s : State) : Step :=
  let l := linkGet link s
  match l.moves.find? fun m => m.lane = lane with
  | none => .next s
  | some m =>
    if 32 ≤ link || l.slot < m.slot + 15625 then .next s
    else if 3 ≤ m.attempts then .next (moveAbandoned link m s)
    else
      let m2 := { m with slot := l.slot + (if m.immediate then 8 else 1024), attempts := m.attempts + 1 }
      let s1 := linkSet link { l with moves := l.moves.map fun x => if x = m then m2 else x } s
      let ks := (txBound link s1).filter fun k => !(m.immediate && k = m.a)
      .next (sendBlocks link ks 0x10 (leBytes 1 m.lane ++ leBytes 1 m.a ++ leBytes 1 m.b ++ leBytes 6 m2.slot) s1)

/-- LANE_LOSS_TIMEOUT: a receiving end that lost a lane 2 µs ago and saw no LANE_MOVE asks for a retrain (R298). -/
def execLaneLossTimeout (link lane : Nat) (s : State) : Step :=
  match tget none (linkGet link s).lost lane with
  | some t0 =>
    if link < 32 && t0 + 2000 ≤ s.clock.now then
      let l := linkGet link s
      .next (askRetrain link (linkSet link { l with lost := tset none l.lost lane none } s))
    else .next s
  | none => .next s

/-- The transmitting end moves a lane off a channel the far end has judged unfit and holds the channel in CHECK (R300). -/
def retireChan (n k : Nat) (dark : Bool) (s : State) : State :=
  let c := chanSide (txi n k) s
  if c.state = .data then coverChannel n k dark 2 s
  else if c.state = .spare then startCheck n k s
  else s

/-- LANE_RETIRE (R300). -/
def execLaneRetire (link ch : Nat) (dark : Bool) (s : State) : Step :=
  if link < 32 && ch < 18 && linkUp link s then .next (retireChan link ch dark s) else .next s

/-- The receiving end judges a channel unfit: class C, and LANE_RETIRE on its own transmit direction (R300, R304); not while
the far end injects errors (R338). -/
def judgeUnfit (i : Nat) (dark : Bool) (s : State) : State :=
  let n := instLink i
  if (chanSide i s).checker.inject.1 != 0 then s
  else
    let s1 := laneFault .c i s
    sendBlocks n (txBound n s1) 0x12 (zeros 1 ++ leBytes 1 (instCh i) ++ leBytes 1 (bit dark)) s1

/-- CHANNEL_ERROR_INTERVAL: a 1 s interval of a receive channel ends; the codewords that CODEWORD_RECEIVE has brought in it
count beside those of the operand (R304, R311, R317, log 114). -/
def execChannelErrorInterval (inst : Nat) (e : ErrorInterval) (s : State) : Step :=
  let c := chanSide inst s
  if 1152 ≤ inst || !instRx inst || !(linkGet (instLink inst) s).rxActive then .next s
  else
    let (words, fixed, lost) := c.counted
    let runs := if 0 < e.uncorrectable + lost then c.badIntervals + 1 else 0
    let s1 := setChan inst { c with corrected := min 65535 (e.corrected + fixed), badIntervals := runs, counted := (0, 0, 0) } s
    let unfit := (e.symbols + 272 * words) * 24 < (e.symbolErrors + fixed + 8 * lost) * 10000 || 3 ≤ runs || e.toneFailed
    .next (if unfit && (c.state = .data || c.state = .spare) then judgeUnfit inst false s1 else s1)

/-- RING_LOCK_LOSS: a ring that lost lock has reacquired it; verified by tone it serves on, else it walks, and a
receive channel is unfit (R290, R304). -/
def execRingLockLoss (inst : Nat) (verified : Bool) (s : State) : Step :=
  let c := chanSide inst s
  if 1152 ≤ inst || verified || c.state = .fenced || c.state = .dark || c.state = .warming then .next s
  else
    let w := chipWalk inst s
    let s1 := if instRx inst then judgeUnfit inst false s
      else if c.state = .data then coverChannel (instLink inst) (instCh inst) true 1 s else s
    .next (setChan inst { chanSide inst s1 with walk := w, state := if instRx inst || c.state = .data then (chanSide inst s1).state else .relock } s1)

end Sys2Proof.Machine
end

