-- ==== Sys2Proof/Machine/LanePhy.lean ====
section
/-!
DEFINITION. Line coding of a lane (chapter 12): blocks, the Reed–Solomon code, the scrambler, control and training
blocks, the run-length limit, error injection and the pattern checker.
-/

namespace Sys2Proof.Machine

/-- A block: control flag and 32 payload bytes (R314). -/
abbrev Block := Bool × List Byte

/-! ## GF(2^10) and RS(272,258) (R316) -/

/-- Multiplication by α in GF(2^10) with x^10 + x^3 + 1. -/
def gfX (a : Nat) : Nat := if 512 ≤ a then (a * 2 - 1024) ^^^ 9 else a * 2

/-- Multiplication in GF(2^10), over the low bits of the second factor. -/
def gfMulN : Nat → Nat → Nat → Nat
  | 0, _, _ => 0
  | n + 1, a, b => (if b % 2 = 1 then a else 0) ^^^ gfMulN n (gfX a) (b / 2)

/-- Multiplication in GF(2^10). -/
def gfMul (a b : Nat) : Nat := gfMulN 10 a b

/-- α^n. -/
def gfPow : Nat → Nat
  | 0 => 1
  | n + 1 => gfX (gfPow n)

/-- The inverse of a non-zero element: a^1022, as the product of a^2, a^4, … a^512. -/
def gfInv (a : Nat) : Nat :=
  ((List.range 9).foldl (fun (p : Nat × Nat) _ => (gfMul p.1 p.1, gfMul p.2 (gfMul p.1 p.1))) (a, 1)).2

/-- Value of a polynomial, highest coefficient first. -/
def gfEval (p : List Nat) (x : Nat) : Nat := p.foldl (fun acc c => gfMul acc x ^^^ c) 0

/-- g(x) = (x − α^0) … (x − α^13), highest coefficient first. -/
def rsGen : List Nat :=
  (List.range 14).foldl (fun g i => List.zipWith (· ^^^ ·) (g ++ [0]) (0 :: g.map (gfMul (gfPow i)))) [1]

/-- One step of the division by g(x). -/
def rsStep (g rem : List Nat) (m : Nat) : List Nat :=
  let fb := m ^^^ rem.headD 0
  List.zipWith (fun r c => r ^^^ gfMul fb c) (rem.drop 1 ++ [0]) (g.drop 1)

/-- The 14 parity symbols of 258 data symbols, symbol 13 first. -/
def rsParity (d : List Nat) : List Nat := d.foldl (rsStep rsGen) (List.replicate 14 0)

/-- The 14 syndromes of a received word. -/
def rsSyndromes (r : List Nat) : List Nat := (List.range 14).map fun i => gfEval r (gfPow i)

/-- Coefficient-wise sum, lowest coefficient first. -/
def polyAdd : List Nat → List Nat → List Nat
  | [], q => q
  | p, [] => p
  | a :: p, b :: q => (a ^^^ b) :: polyAdd p q

/-- State of the Berlekamp–Massey recursion: locator, previous locator, its discrepancy, length, shift. -/
structure Bm where
  lam : List Nat
  prev : List Nat
  disc : Nat
  len : Nat
  shift : Nat

/-- One Berlekamp–Massey step. -/
def bmStep (syn : List Nat) (b : Bm) (n : Nat) : Bm :=
  let d := (List.range (b.len + 1)).foldl (fun acc i => acc ^^^ gfMul (b.lam.getD i 0) (syn.getD (n - i) 0)) 0
  if d = 0 then { b with shift := b.shift + 1 }
  else
    let q := gfMul d (gfInv b.disc)
    let adj := List.replicate b.shift 0 ++ b.prev.map (gfMul q)
    if 2 * b.len ≤ n then ⟨polyAdd b.lam adj, b.lam, d, n + 1 - b.len, 1⟩
    else { b with lam := polyAdd b.lam adj, shift := b.shift + 1 }

/-- Error locator and its length. -/
def rsLocator (syn : List Nat) : List Nat × Nat :=
  let b := (List.range 14).foldl (bmStep syn) ⟨[1], [1], 1, 0, 1⟩
  (b.lam, b.len)

/-- Value of a polynomial, lowest coefficient first. -/
def polyAt (p : List Nat) (x : Nat) : Nat := gfEval p.reverse x

/-- Formal derivative, lowest coefficient first. -/
def polyDeriv (p : List Nat) : List Nat := (p.drop 1).mapIdx fun i c => if i % 2 = 0 then c else 0

/-- The error evaluator, lowest coefficient first: S(x) Λ(x) mod x^14. -/
def rsEvaluator (syn lam : List Nat) : List Nat :=
  (List.range 14).map fun n => (List.range (n + 1)).foldl (fun acc i => acc ^^^ gfMul (lam.getD i 0) (syn.getD (n - i) 0)) 0

/-- Corrects up to 7 bad symbols: the word and how many were corrected, or none (R316). -/
def rsDecode (r : List Nat) : Option (List Nat × Nat) :=
  let syn := rsSyndromes r
  if syn.all (· = 0) then some (r, 0)
  else
    let (lam, len) := rsLocator syn
    let om := rsEvaluator syn lam
    let dl := polyDeriv lam
    let fixed := (List.range 272).map fun k =>
      let x := gfPow (271 - k)
      let xi := gfInv x
      if polyAt lam xi = 0 then (true, r.getD k 0 ^^^ gfMul x (gfMul (polyAt om xi) (gfInv (polyAt dl xi))))
      else (false, r.getD k 0)
    let out := fixed.map (·.2)
    if 7 < len || (fixed.filter (·.1)).length != len || !(rsSyndromes out).all (· = 0) then none else some (out, len)

/-! ## The scrambler (R318) -/

/-- One step: the next state and the bit. -/
def scrStep (s : Nat) : Nat × Bool :=
  let o := bitOf s 30 ^^ bitOf s 27
  ((s * 2) % 2 ^ 31 + bit o, o)

/-- State after n steps. -/
def scrRun : Nat → Nat → Nat
  | 0, s => s
  | n + 1, s => scrRun n (scrStep s).1

/-- The next n bits. -/
def scrBits : Nat → Nat → List Bool
  | 0, _ => []
  | n + 1, s => (scrStep s).2 :: scrBits n (scrStep s).1

/-- Seed at a slot that is a multiple of 4,096. -/
def scrSeed (slot : Nat) : Nat :=
  let s := (slot / 4096 % 2 ^ 31) ^^^ 0x5A5A5A5A
  if s = 0 then 1 else s

/-- The 2,560 bits of a slot. -/
def scrSlot (slot : Nat) : List Bool := scrBits 2560 (scrRun (2560 * (slot % 4096)) (scrSeed slot))

/-! ## Codewords (R314, R315) -/

/-- Payload bits of a block, each byte least significant bit first. -/
def payloadBits (p : List Byte) : List Bool := (padTo 32 p).flatMap fun b => (List.range 8).map fun i => b.getLsbD i

/-- Bytes of payload bits. -/
def bitsBytes : Nat → List Bool → List Byte
  | 0, _ => []
  | n + 1, bs =>
    BitVec.ofNat 8 (maskOf ((List.range 8).filter fun i => bs.getD i false)) :: bitsBytes n (bs.drop 8)

/-- The bits of a block with its scrambler bits. -/
def blockBits (b : Block) (scr : List Bool) : List Bool :=
  b.1 :: (!b.1) :: List.zipWith (· ^^ ·) (payloadBits b.2) scr

/-- Data bits of ten blocks. -/
def codeBits : List Block → List Bool → List Bool
  | [], _ => []
  | b :: t, scr => blockBits b (scr.take 256) ++ codeBits t (scr.drop 256)

/-- Ten-bit symbols, most significant bit first. -/
def bitsSyms : Nat → List Bool → List Nat
  | 0, _ => []
  | n + 1, bs => maskOf ((List.range 10).filter fun i => bs.getD (9 - i) false) :: bitsSyms n (bs.drop 10)

/-- Bits of symbols. -/
def symsBits (l : List Nat) : List Bool := l.flatMap fun v => (List.range 10).map fun i => bitOf v (9 - i)

/-- Encodes ten blocks; the scrambler bits are all false where the blocks are unscrambled (R315, R316, R318). -/
def encodeCw (bs : List Block) (scr : List Bool) : List Nat :=
  let d := bitsSyms 258 (codeBits bs scr)
  d ++ rsParity d

/-- No scrambling. -/
def plain : List Bool := List.replicate 2560 false

/-- Level of a pair of bits (Table 12-1). -/
def level (a b : Bool) : Nat := if a then (if b then 2 else 3) else (if b then 1 else 0)

/-- The 1,360 line symbols of a codeword (R313). -/
def levels (l : List Nat) : List Nat :=
  l.flatMap fun v => (List.range 5).map fun i => level (bitOf v (9 - 2 * i)) (bitOf v (8 - 2 * i))

/-- Longest run of one level, from the last level of the codeword before (R324). -/
def longestRun (prev : Nat) (l : List Nat) : Nat :=
  (l.foldl (fun (p : Nat × Nat × Nat) v =>
    let r := if v = p.1 then p.2.1 + 1 else 1
    (v, r, max p.2.2 r)) (prev, 1, 1)).2.2

/-- Whether a codeword obeys the run-length limit. -/
def runOk (prev : Nat) (w : List Nat) : Bool := longestRun prev (levels w) ≤ 64

/-- Header of block b of a received word: none where it is invalid. -/
def headerOf (bits : List Bool) (b : Nat) : Option Bool :=
  let x := bits.getD (258 * b) false
  if x = bits.getD (258 * b + 1) false then none else some x

/-- The ten blocks of data bits, descrambled, or none with an invalid header. -/
def bitsBlocks (bits scr : List Bool) : Option (List Block) :=
  (List.range 10).mapM fun b => (headerOf bits b).map fun h =>
    (h, bitsBytes 32 (List.zipWith (· ^^ ·) ((bits.drop (258 * b + 2)).take 256) (scr.drop (256 * b))))

/-! ## Control blocks (R319, R320) -/

/-- A control block of a type. -/
def ctlBlock (ty : Nat) (body : List Byte) : Block := (true, BitVec.ofNat 8 ty :: padTo 31 body)

/-- The IDLE block. -/
def idleBlock : Block := ctlBlock 0x00 []

/-- The START block (R345). -/
def startBlock (lseq : BitVec 32) : Block := ctlBlock 0x02 (leBytes 4 lseq.toNat)

/-- The END block. -/
def endBlock : Block := ctlBlock 0x03 []

/-- PAD values in the order tried (R324). -/
def padValues : List Nat := [0, 0x3333333333333333, 0x9696969696969696, 0xCCCCCCCCCCCCCCCC]

/-- The FILLER block (Table 12-3). -/
def fillerBlock (slot : Nat) (injecting : Bool) (pad : Nat) : Block :=
  ctlBlock 0x01 (leBytes 6 slot ++ leBytes 1 (bit injecting) ++ leBytes 8 pad)

/-- Ten blocks of a filler codeword: lane blocks first, FILLER blocks in the other positions (R322). -/
def fillerBlocks (lane : List (Nat × List Byte)) (slot : Nat) (injecting : Bool) (pad : Nat) : List Block :=
  (lane.map fun b => ctlBlock b.1 b.2) ++ List.replicate (10 - lane.length) (fillerBlock slot injecting pad)

/-- The filler codeword with the first PAD that complies (R324). -/
def fillerWord (lane : List (Nat × List Byte)) (slot : Nat) (injecting : Bool) (prev : Nat) (scr : List Bool) : List Nat :=
  let words := padValues.map fun p => encodeCw (fillerBlocks lane slot injecting p) scr
  (words.find? (runOk prev)).getD (words.getLastD [])

/-! ## Training blocks (R329) -/

/-- Training words T0 to T9 as fields. -/
structure TrainWords where
  lane : Nat
  channel : Nat
  tstate : Nat
  mapped : Bool
  negDone : Bool
  looped : Bool
  slot : Nat
  nonce : Nat
  cap : Nat
  map : List Nat
  width : Nat
  echo : Nat
  echoAge : Nat
  activeAt : Nat
  rxLocked : Nat
  rxUsable : Nat
  deriving DecidableEq, Repr

/-- The ten words (Table 12-5). -/
def trainWords (t : TrainWords) : List Nat :=
  [packFields [(0, 32, 0x474E5254), (32, 5, t.lane), (37, 5, t.channel), (42, 3, t.tstate), (45, 1, bit t.mapped),
    (46, 1, bit t.negDone), (47, 1, bit t.looped)],
   t.slot % 2 ^ 48, t.nonce, t.cap,
   packFields ((List.range 12).map fun i => (5 * i, 5, t.map.getD i 31)),
   packFields (((List.range 6).map fun i => (5 * i, 5, t.map.getD (12 + i) 31)) ++ [(30, 4, t.width)]),
   packFields [(0, 48, t.echo), (48, 16, t.echoAge)], t.activeAt % 2 ^ 48,
   packFields [(0, 18, t.rxLocked), (18, 18, t.rxUsable)], 0]

/-- The four words of a training block: T(2b), ~T(2b), T(2b + 1), ~T(2b + 1). -/
def trainBlock (ws : List Nat) (b : Nat) : Block :=
  let a := ws.getD (2 * b) 0
  let c := ws.getD (2 * b + 1) 0
  (true, leBytes 8 a ++ leBytes 8 (2 ^ 64 - 1 - a) ++ leBytes 8 c ++ leBytes 8 (2 ^ 64 - 1 - c))

/-- The ten blocks of a training codeword. -/
def trainBlocks (t : TrainWords) : List Block :=
  let b := (List.range 5).map (trainBlock (trainWords t))
  b ++ b

/-- The two words of a training block whose words match their complements. -/
def blockWords (b : Block) : Option (Nat × Nat) :=
  let w := fun i => field b.2 (8 * i) 8
  if b.1 && w 0 + w 1 = 2 ^ 64 - 1 && w 2 + w 3 = 2 ^ 64 - 1 then some (w 0, w 2) else none

/-- Training words of a received codeword: each pair from the first block accepted, MARKER correct (R329). -/
def readTraining (bs : List Block) : Option TrainWords :=
  let pairs := (List.range 5).map fun b =>
    match blockWords (bs.getD b idleBlock) with
    | some p => some p
    | none => blockWords (bs.getD (b + 5) idleBlock)
  match pairs with
  | [some (t0, t1), some (t2, t3), some (t4, t5), some (t6, t7), some (t8, _)] =>
    if t0 % 2 ^ 32 = 0x474E5254 then
      some ⟨bitsOf t0 36 32, bitsOf t0 41 37, bitsOf t0 44 42, bitOf t0 45, bitOf t0 46, bitOf t0 47, t1 % 2 ^ 48, t2, t3,
        ((List.range 12).map fun i => bitsOf t4 (5 * i + 4) (5 * i)) ++ (List.range 6).map fun i => bitsOf t5 (5 * i + 4) (5 * i),
        bitsOf t5 33 30, t6 % 2 ^ 48, t6 / 2 ^ 48, t7 % 2 ^ 48, bitsOf t8 17 0, bitsOf t8 35 18⟩
    else none
  | _ => none

/-! ## Error injection (R338) -/

/-- Flips the first bit of the symbol's line symbol i. -/
def flipSym (v i : Nat) : Nat := v ^^^ 2 ^ (9 - 2 * i)

/-- Injects errors after the encoder: RATE one line symbol in 2^n, BURST the first line symbol of k RS symbols. The spec
does not fix which symbol of 2^n RATE takes (log 3). -/
def inject (inst slot : Nat) (x : Nat × Nat × Nat) (w : List Nat) : List Nat :=
  if x.1 = 1 then
    w.mapIdx fun i v => (List.range 5).foldl (fun u j =>
      if (slot * 1360 + 5 * i + j) % 2 ^ x.2.1 = Config.freeNat inst % 2 ^ x.2.1 then flipSym u j else u) v
  else if x.1 = 2 then w.mapIdx fun i v => if x.2.2 ≤ i && i < x.2.2 + x.2.1 then flipSym v 0 else v
  else w

/-! ## Test patterns (R337) -/

/-- Feedback bit of a pattern generator: PRBS31 or PRBS13. -/
def prbsBit (pattern s : Nat) : Bool :=
  if pattern = 1 then bitOf s 30 ^^ bitOf s 27 else ((bitOf s 12 ^^ bitOf s 11) ^^ (bitOf s 1 ^^ bitOf s 0))

/-- Width of the pattern's register. -/
def prbsWidth (pattern : Nat) : Nat := if pattern = 1 then 31 else 13

/-- The next n bits of a pattern and the state after them. -/
def prbsRun (pattern : Nat) : Nat → Nat → List Bool → List Bool × Nat
  | 0, s, acc => (acc.reverse, s)
  | n + 1, s, acc =>
    let o := prbsBit pattern s
    prbsRun pattern n ((s * 2) % 2 ^ prbsWidth pattern + bit o) (o :: acc)

/-- Payload bits of test codeword number `pos` of SQUARE with half period h. -/
def squareBits (h pos : Nat) : List Bool :=
  (List.range 1280).flatMap fun i => [(pos * 1280 + i) / max 1 h % 2 = 1, false]

/-- Ten data blocks of 2,560 payload bits. -/
def testBlocks (bits : List Bool) : List Block := (List.range 10).map fun b => (false, bitsBytes 32 (bits.drop (256 * b)))

/-- Payload bits of a received word, headers left out. -/
def rawPayload (bits : List Bool) : List Bool := (List.range 10).flatMap fun b => (bits.drop (258 * b + 2)).take 256

/-- Adds the errors of one line symbol to the eyes between the level expected and the level seen. -/
def eyeErrors (c : Checker) (e r : Nat) : Checker :=
  let lo := min e r
  let hi := max e r
  { c with lower := if lo ≤ 0 && 0 < hi then c.lower + 1 else c.lower
           middle := if lo ≤ 1 && 1 < hi then c.middle + 1 else c.middle
           upper := if lo ≤ 2 && 2 < hi then c.upper + 1 else c.upper }

/-- Compares payload bits pair by pair. -/
def eyeCount : List Bool → List Bool → Checker → Checker
  | a :: b :: t, x :: y :: u, c => eyeCount t u (eyeErrors c (level a b) (level x y))
  | _, _, c => c

/-- The checker takes one test codeword: it finds its place from the first bits seen, then counts (R337). -/
def checkerTakes (bits : List Bool) (c : Checker) : Checker :=
  let c1 := { c with bits := c.bits + 2560, pos := c.pos + 1 }
  match c.pattern with
  | some 3 => eyeCount (squareBits c.half c.pos) bits c1
  | some p =>
    let w := prbsWidth p
    let (start, skip) := match c.place with
      | some s => (s, 0)
      | none => (maskOf ((List.range w).filter fun i => bits.getD (w - 1 - i) false), w)
    let (exp, s') := prbsRun p (2560 - skip) start []
    eyeCount (bits.take skip ++ exp) bits { c1 with place := some s' }
  | none => c1

end Sys2Proof.Machine
end

