-- ==== Sys2Proof/Machine/PortLane.lean ====
section
/-!
DEFINITION. The lanes of the control ports (R202, R203): training with the frame capability word, and the frames that the
lanes carry. Links 32 and 33 hold the lanes of CP0 and CP1, each of one channel.
-/

namespace Sys2Proof.Machine

/-! ## The lane (R202, R203) -/

/-- The port whose lane a link number stands for. -/
def lanePort (n : Nat) : Port := if n = 32 then .cp0 else .cp1

/-- The frame capability word of a port (Table 8-4). -/
def portCap (n : Nat) (s : State) : Nat :=
  packFields [(0, 4, 1), (4, 4, 2), (12, 1, 1), (16, 8, 1), (24, 1, 1), (25, 1, n - 32), (32, 20, s.fab.id)]

/-- The lane of a port enters a training state. -/
def portState (n : Nat) (st : Train) (s : State) : State :=
  linkSet n { linkGet n s with st := st, stAt := s.clock.now } s

/-- The lane of a port enters SEND with a fresh nonce and lane map entry 0 (R202, R327, R332). -/
def portSend (n : Nat) (s : State) : State :=
  let s1 := freshNonce n (portState n .send s)
  setChan (txi n 0) { chanSide (txi n 0) s1 with lane := some 0, owed := [] }
    (linkSet n { linkGet n s1 with sent := true, light := false, negDone := false, txWorking := [0], rxUsable := [] } s1)

/-- NEGOTIATE, ALIGN or MAP of a port ends without success: SEND with a fresh nonce; after three returns in a row BIVOUAC
for 100 ms with the port DOWN (R332, log 111). -/
def portReturns (n : Nat) (s : State) : State :=
  let l := linkGet n s
  if l.returns < 3 then portSend n (linkSet n { l with returns := l.returns + 1 } s)
  else
    setPort (lanePort n) { portSt (lanePort n) s with phase := .down }
      (linkSet n { l with st := .bivouac, stAt := s.clock.now, returns := 0, negDone := false,
                          bivouacTill := some (s.clock.now + 100000000) } s)

/-- NEGOTIATE of a port exchanges the nonce and the frame capability word alone: the far end must send ROLE 3 and
FRAME_VERSION 1; any other is a class C fault and counts as a timeout (R203). -/
def portNegotiate (n : Nat) (x : TrainInput) (s : State) : State :=
  let l := linkGet n s
  if bitsOf x.farCap.toNat 7 4 = 3 && bitsOf x.farCap.toNat 23 16 = 1 then
    linkSet n { l with farNonce := x.farNonce, farCap := x.farCap, negDone := true } s
  else portReturns n (faultC (portSource (lanePort n)) x.farCap.toNat s)

/-- Once both ends have set NEG_DONE an end names ACTIVE_AT, and takes the slot that the far end has named (R328). -/
def nameActive (n : Nat) (x : TrainInput) (s : State) : State :=
  let l := linkGet n s
  if !l.negDone || !x.farNegDone then s
  else
    linkSet n { l with
      txAt := if l.txAt.isNone && !l.txActive then some (l.slot + 256) else l.txAt
      rxAt := if l.rxAt.isNone && !l.rxActive && x.farActiveAt != 0 then some x.farActiveAt.toNat else l.rxAt } s

/-- A port's lane meets the exit condition of its training state, with one channel in place of eight (Table 12-4, R202). -/
def portAdvance (n : Nat) (x : TrainInput) (s : State) : State :=
  let q := portSt (lanePort n) s
  let l := linkGet n s
  if q.phase != .training || q.fenced then s
  else match l.st with
    | .light => if x.verified.contains 0 then portSend n s else s
    | .send =>
      if x.verified.contains 0 then portState n .align (linkSet n { l with light := true } s) else s
    | .align =>
      if x.locked.contains 0 || (chanSide (rxi n 0) s).locked then
        portState n .map (setChan (rxi n 0) { chanSide (rxi n 0) s with locked := true } s)
      else s
    | .map =>
      if x.heard.any fun h => h.ch = 0 && h.marker && h.lane = 0 && h.channel = 0 && h.tone = 0 then
        portState n .negotiate (setChan (rxi n 0) { chanSide (rxi n 0) s with lane := some 0 }
          (linkSet n { l with rxUsable := [0] } s))
      else s
    | .negotiate => nameActive n x (if l.negDone then s else portNegotiate n x s)
    | .dark => s
    | .bivouac => s
    | .active => s

/-- The 10 ms of a training state of a port have passed (Table 12-4, R332): a transmit ring that never verifies leaves the
port without its lane. -/
def portTimeout (n : Nat) (s : State) : State :=
  let l := linkGet n s
  if (portSt (lanePort n) s).phase != .training then s
  else if l.st = .light then portDead (lanePort n) s
  else if l.st = .align || l.st = .map || (l.st = .negotiate && !l.txActive && !l.rxActive) then portReturns n s
  else s

/-- The 100 ms of a port's BIVOUAC are over: its lane goes to LIGHT (R332). -/
def portLeavesBivouac (n : Nat) (s : State) : State :=
  let l := linkGet n s
  match l.bivouacTill with
  | some t =>
    if l.st = .bivouac && t ≤ s.clock.now && !(portSt (lanePort n) s).fenced then
      portTrains (lanePort n) (linkSet n { l with bivouacTill := none } s)
    else s
  | none => s

/-- The slot that one direction of a port was to become ACTIVE at has come; with both the port is ACTIVE (R204, R328). -/
def portDirection (n : Nat) (tx : Bool) (s : State) : State :=
  let l := linkGet n s
  let s1 := if tx then linkSet n { l with txActive := true, txAt := none, slot := max l.slot (l.txAt.getD 0) } s
    else linkSet n { l with rxActive := true, rxAt := none, rxSlot := max l.rxSlot (l.rxAt.getD 0) } s
  if (portSt (lanePort n) s).phase = .training && linkUp n s1 then portJoins (lanePort n) s1 else s1

/-- A port's end sees RETRAIN or training codewords: the port falls, and its lane enters SEND at once (R204, R333). -/
def portRetrains (n : Nat) (s : State) : State :=
  if (portSt (lanePort n) s).phase = .active then portSend n (portTrains (lanePort n) (portDown (lanePort n) s)) else s

/-! ## Frames on the lane (R205, R319, R320) -/

/-- The frame that received bytes spell; one with an error mark fails its check (R206, R317). -/
def frameOf (bs : List (Bool × List Byte)) : Frame :=
  let p := bs.flatMap (·.2)
  let f : Frame := {
    seq := BitVec.ofNat 32 (field p 0 4), type := BitVec.ofNat 8 (field p 4 1), fflags := BitVec.ofNat 8 (field p 5 1)
    length := BitVec.ofNat 16 (field p 6 2), refSeq := BitVec.ofNat 32 (field p 8 4), arg := BitVec.ofNat 16 (field p 12 2)
    reserved := BitVec.ofNat 16 (field p 14 2), address := BitVec.ofNat 64 (field p 16 8)
    credit := BitVec.ofNat 32 (field p 24 4), crc := BitVec.ofNat 32 (field p 28 4)
    payload := (p.drop 32).take (field p 6 2) }
  if bs.any (·.1) then { f with crc := frameCrc f + 1 } else f

/-- Takes one element of a port's stream: START opens a frame, data blocks fill it, END closes it and the frame arrives;
other control blocks are no part of it (Table 12-3, R320). -/
def portTake (n : Nat) (b : Bool × Bool × List Byte) (s : State) : State :=
  let p := lanePort n
  let x := portSt p s
  if !b.1 then (if x.received = [] then s else setPort p { x with received := x.received ++ [b.2] } s)
  else if b.2.1 then s
  else if field b.2.2 0 1 = 0x02 then setPort p { x with received := [(false, [])] } s
  else if field b.2.2 0 1 = 0x03 && x.received != [] then
    let s1 := setPort p { x with received := [] } s
    if hears p s1 then hostFrame p (frameOf x.received) s1 else s1
  else s

end Sys2Proof.Machine
end

