-- ==== Sys2Proof/Machine/LaneTx.lean ====
section
/-!
DEFINITION. Codeword slots, training, width changes, retrains, low-power states and lane tests of a link end
(chapters 12 and 13).
-/

namespace Sys2Proof.Machine

/-! ## What each lane sends in a slot (R321–R324) -/

/-- The capability word of a link of this package (Table 12-6). -/
def capWord (n : Nat) (s : State) : Nat :=
  if 32 ≤ n then portCap n s
  else packFields [(0, 4, 1), (4, 4, if n < 30 then 0 else 1), (8, 3, 7), (11, 1, 1), (12, 1, 1), (32, 20, s.fab.id)]

/-- Channels of the lane map, by lane (T4, T5). -/
def mapChannels (n : Nat) (s : State) : List Nat := chNums.map fun i => (laneTx n i s).getD 31

/-- The width this end proposes: for its own working channels and those it accepts (R331). -/
def proposal (n : Nat) (s : State) : Option Nat :=
  widthFor (min (linkGet n s).txWorking.length (linkGet n s).rxUsable.length)

/-- The training words of a channel (Table 12-5). -/
def trainOf (n k : Nat) (s : State) : TrainWords :=
  let l := linkGet n s
  let rx := chanSide (rxi n k) s
  { lane := (chanSide (txi n k) s).lane.getD 31, channel := k, tstate := match l.st with
      | .dark => 0 | .bivouac => 1 | .light => 2 | .send => 3 | .align => 4 | .map => 5 | .negotiate => 6 | .active => 7
    mapped := l.st = .negotiate || l.st = .active, negDone := l.negDone, looped := l.looped, slot := l.slot
    nonce := l.nonce.toNat, cap := capWord n s, map := mapChannels n s
    width := widthCode ((proposal n s).getD 8), echo := rx.heard.1, echoAge := min (l.slot - rx.heard.2) 65535
    activeAt := l.txAt.getD 0
    rxLocked := maskOf ((linkChans n).filter fun j => (chanSide (rxi n j) s).locked), rxUsable := maskOf l.rxUsable }

/-- Sends one codeword on a channel, errors injected after the encoder (R338). -/
def sendWord (n k : Nat) (w : List Nat) (s : State) : State :=
  let l := linkGet n s
  let c := chanSide (txi n k) s
  let v := inject (txi n k) l.slot c.checker.inject w
  emit (.codeword n k (v.map (BitVec.ofNat 10)))
    (linkSet n { l with lastSym := tset 0 l.lastSym k ((levels w).getLastD 0) } s)

/-- Sends a filler codeword with up to ten of the channel's lane blocks (R322). -/
def sendFiller (n k : Nat) (scr : List Bool) (s : State) : State :=
  let l := linkGet n s
  let c := chanSide (txi n k) s
  let w := fillerWord (c.blocks.take 10) l.slot (c.checker.inject.1 != 0) (tget 0 l.lastSym k) scr
  sendWord n k w (setChan (txi n k) { c with blocks := c.blocks.drop 10 } s)

/-- Whether a channel takes its share of the stream: it holds a data lane. -/
def isHome (n k : Nat) (s : State) : Bool :=
  let c := chanSide (txi n k) s
  (c.state = .data || c.state = .moving) && (match c.lane with
    | some x => x < widthOf n s
    | none => false)

/-- Data channels that owe, with their share of the slot's stream added (R322). -/
def addShares (n : Nat) (s : State) : State :=
  let l := linkGet n s
  let w := widthOf n s
  let homes := (linkChans n).filter fun k => isHome n k s
  let hold := homes.any fun k => 8 ≤ (chanSide (txi n k) s).owed.length
  if hold || l.slot % 2048 = 2047 || l.stream = [] then s
  else
    let now := l.stream.take (10 * w)
    let chunk := now ++ List.replicate (10 * w - now.length) idleBlock
    homes.foldl (fun t k =>
      let c := chanSide (txi n k) t
      let lane := c.lane.getD 0
      let share := (List.range 10).map fun i => chunk.getD (i * w + lane) idleBlock
      setChan (txi n k) { c with owed := c.owed ++ [share] } t)
      (linkSet n { l with stream := l.stream.drop (10 * w) } s)

/-- What a data channel sends: its oldest owed data, or none for a filler: when nothing is owed, or to carry lane blocks
outside scheduled and held slots (R322). -/
def lanePlan (n k : Nat) (s : State) : Option (List Block) :=
  let c := chanSide (txi n k) s
  let sched := (linkGet n s).slot % 2048 = 2047
  let hold := 8 ≤ c.owed.length
  if c.blocks != [] && !sched && !hold then none else c.owed.head?

/-- The data channel whose lane a channel repeats for a move: from 64 slots before N, or from N for an immediate move
(R297, R298). -/
def repeats (n k : Nat) (s : State) : Option Nat :=
  let l := linkGet n s
  (l.moves.find? fun m => m.b = k && (if m.immediate then m.slot ≤ l.slot else m.slot ≤ l.slot + 64)).map fun m => m.a

/-- Whether a channel is dark because an immediate move takes its lane off it. -/
def leftDark (n k : Nat) (s : State) : Bool := (linkGet n s).moves.any fun m => m.a = k && m.immediate

/-- Sends one data codeword, or a filler where it would break the run-length limit (R324). -/
def sendData (n k : Nat) (bs : List Block) (scr : List Bool) (s : State) : State :=
  let w := encodeCw bs scr
  if runOk (tget 0 (linkGet n s).lastSym k) w then sendWord n k w s else sendFiller n k scr s

/-- Register of the generator of a pattern: PRBS31 runs on from run to run, PRBS13 within a run. What it holds first the spec
does not say, save that it is not all zeros, at which the pattern would stand still: a free value (R337, log 3). -/
def genPlace (pattern : Nat) (c : Checker) (free : Nat) : Nat :=
  match (if pattern = 1 then c.gen else c.place) with
  | some x => x
  | none =>
    let v := (Config.free64 free).toNat % 2 ^ prbsWidth pattern
    if v = 0 then 1 else v

/-- Sends one codeword of test blocks (R337). -/
def sendTest (n k pattern half : Nat) (s : State) : State :=
  let c := chanSide (txi n k) s
  let l := linkGet n s
  let s1 := setChan (txi n k) { c with checker := { c.checker with pos := c.checker.pos + 1 } } s
  if pattern = 3 then sendWord n k (encodeCw (testBlocks (squareBits half c.checker.pos)) plain) s1
  else
    let (f, s2) := useFree s
    let (bits, at_) := prbsRun pattern 2560 (genPlace pattern c.checker f) []
    let w := encodeCw (testBlocks bits) plain
    let k1 := { c.checker with pos := c.checker.pos + 1, place := some at_, gen := if pattern = 1 then some at_ else c.checker.gen }
    if runOk (tget 0 l.lastSym k) w then sendWord n k w (setChan (txi n k) { c with checker := k1 } s2)
    else sendFiller n k (scrSlot l.slot) s2

/-- Whether a data codeword of a lane can go out within the run-length limit on its channel. -/
def planFits (n k : Nat) (bs : List Block) (scr : List Bool) (s : State) : Bool :=
  runOk (tget 0 (linkGet n s).lastSym k) (encodeCw bs scr)

/-- Whether a pitch check that began at a time runs its PRBS31 now: 8–44 µs and 50–58 µs after (Table 11-11b). -/
def checkRuns (now began : Nat) : Bool :=
  let t := now - began
  (8000 ≤ t && t < 44000) || (50000 ≤ t && t < 58000)

/-- The codeword of a channel under a pitch check: runs of PRBS31 framed by TEST_START and TEST_END, idle between them
(Table 11-11b, R337). -/
def checkSlot (n k : Nat) (scr : List Bool) (sched : Bool) (s : State) : State :=
  let c := chanSide (txi n k) s
  let runs := checkRuns s.clock.now c.began
  if runs != c.checker.pattern.isSome then
    sendFiller n k scr (setChan (txi n k) { c with
      blocks := c.blocks ++ [(if runs then 0x20 else 0x21, blockBody (if runs then leBytes 1 1 else []))]
      checker := { c.checker with pattern := if runs then some 1 else none, place := none } } s)
  else if c.blocks != [] || sched then sendFiller n k scr s
  else if runs then sendTest n k 1 0 s
  else sendData n k (List.replicate 10 idleBlock) scr s

/-- One channel's codeword of an ACTIVE direction that is awake; `s0` is the state at the start of the slot. -/
def chanSlot (n : Nat) (scr : List Bool) (s0 : State) (s : State) (k : Nat) : State :=
  let c := chanSide (txi n k) s
  let sched := (linkGet n s0).slot % 2048 = 2047
  if leftDark n k s0 then s
  else if c.state = .check then checkSlot n k scr sched s
  else if isHome n k s0 && (repeats n k s0).isNone then
    match lanePlan n k s0 with
    | none => sendFiller n k scr s
    | some bs =>
      if planFits n k bs scr s0 then
        sendWord n k (encodeCw bs scr) (setChan (txi n k) { c with owed := c.owed.drop 1 } s)
      else sendFiller n k scr s
  else match repeats n k s0 with
    | some a =>
      match lanePlan n a s0 with
      | some bs => if planFits n a bs scr s0 then sendData n k bs scr s else sendFiller n k scr s
      | none => sendFiller n k scr s
    | none =>
      if c.blocks != [] || sched then sendFiller n k scr s else sendData n k (List.replicate 10 idleBlock) scr s

/-- A data lane that an immediate move has taken off its channel consumes its owed data as the new channel sends it. -/
def immediateOwed (n : Nat) (s0 s : State) : State :=
  (linkGet n s0).moves.foldl (fun t m =>
    if m.immediate && m.slot ≤ (linkGet n s0).slot && (lanePlan n m.a s0).isSome then
      let c := chanSide (txi n m.a) t
      setChan (txi n m.a) { c with owed := c.owed.drop 1 } t
    else t) s

/-- The channels that send codewords: those bound to a lane, and those under a check (R307, R322). -/
def txSends (n : Nat) (s : State) : List Nat :=
  (linkChans n).filter fun k => chanBound (chanSide (txi n k) s) || (chanSide (txi n k) s).state = .check

/-- The slot of an ACTIVE direction (R322, R334). -/
def activeSlot (n : Nat) (s0 : State) : State :=
  let l0 := linkGet n s0
  let s := if (l0.txSleep || l0.sleepAt.isSome) && l0.stream != [] then wakeTx n s0 else s0
  let l := linkGet n s
  let scr := scrSlot l.slot
  let awake := !l.txSleep || (match l.wakeAt with
    | some x => x ≤ l.slot
    | none => false)
  if awake then
    let s1 := if l.txSleep then linkSet n { l with txSleep := false, sleepAt := none, wakeAt := none } s else s
    let s2 := addShares n s1
    immediateOwed n s2 ((txSends n s2).foldl (chanSlot n scr s2) s2)
  else if (l.slot - l.sleepAt.getD 0) % 256 = 0 || (txBound n s).any (fun k => (chanSide (txi n k) s).blocks != []) then
    let beacon := (l.slot - l.sleepAt.getD 0) % 256 = 0
    (txBound n s).foldl (fun t k =>
      let c := chanSide (txi n k) t
      sendFiller n k scr (if beacon then
        setChan (txi n k) { c with blocks := (0x06, blockBody (leBytes 6 l.slot)) :: c.blocks } t else t)) s
  else s

/-- The slot of a direction that trains: training codewords on every working channel (R327, R329). -/
def trainSlot (n : Nat) (s : State) : State :=
  (linkGet n s).txWorking.foldl (fun t k => sendWord n k (encodeCw (trainBlocks (trainOf n k s)) plain) t) s

/-- The slot of a link under a lane test (R339). -/
def testSlot (n pattern half mask : Nat) (s : State) : State :=
  let scr := scrSlot (linkGet n s).slot
  (bitsSet mask 18).foldl (fun t k =>
    if (chanSide (txi n k) t).blocks != [] || (linkGet n s).slot % 2048 = 2047 then sendFiller n k scr t
    else sendTest n k pattern half t) s

/-- Advances the slot counter (R321); a retrain of this end begins at its slot (R333). -/
def nextSlot (n : Nat) (s : State) : State :=
  let l := linkGet n s
  let s1 := linkSet n { l with slot := (l.slot + 1) % 2 ^ 48 } s
  match l.retrainAt with
  | some x => if x ≤ l.slot + 1 && l.st = .active then enterSend n s1 else s1
  | none => s1

/-- The slot of a control port's lane: frames join its stream in ACTIVE, training codewords go out while it trains, and a
port that is DOWN only counts the slot (R202, R321, R322). -/
def portSlot (n : Nat) (s : State) : State :=
  let l := linkGet n s
  let p := lanePort n
  let x := portSt p s
  if !l.sent then s
  else if x.phase = .active || (x.phase = .training && l.txActive) then
    nextSlot n (activeSlot n (linkSet n { l with stream := l.stream ++ x.stream } (setPort p { x with stream := [] } s)))
  else if x.phase = .training && (l.st = .send || l.st = .align || l.st = .map || l.st = .negotiate) then
    nextSlot n (trainSlot n s)
  else nextSlot n s

/-- CODEWORD_SLOT: every lane of the direction sends one codeword (R321, R322). A link that has never entered SEND and
runs no test counts no slot. -/
def execCodewordSlot (link : Nat) (s : State) : Step :=
  let l := linkGet link s
  if 34 ≤ link then .next s
  else if 32 ≤ link then .next (portSlot link s)
  else match l.test with
    | some (p, h, mask, _) => .next (nextSlot link (testSlot link p h mask s))
    | none =>
      if !l.sent then .next s
      else if l.txActive then .next (nextSlot link (activeSlot link s))
      else if l.st = .send || l.st = .align || l.st = .map || l.st = .negotiate then
        .next (nextSlot link (trainSlot link s))
      else .next (nextSlot link s)

/-! ## Lock and training (R326–R332) -/

/-- CHANNEL_LOCK: a hunting receive channel locks (R326). -/
def execChannelLock (inst : Nat) (inverted : Bool) (s : State) : Step :=
  let c := chanSide inst s
  let l := linkGet (instLink inst) s
  let hunts := l.st = .align || l.st = .map || l.st = .negotiate || l.st = .active || l.test.isSome
  if 1156 ≤ inst || !instRx inst || c.locked || !hunts || c.state = .dark || c.state = .fenced then .next s
  else .next (setChan inst { c with locked := true, inverted := inverted, bad := [], missed := 0 } s)

/-- Channels of the receive direction that hold a lane and are locked. -/
def lockedLanes (n : Nat) (s : State) : Nat :=
  (chNums.filter fun k => (chanSide (rxi n k) s).locked && (chanSide (rxi n k) s).lane.isSome).length

/-- A receive channel loses lock: it hunts again, is unfit in ACTIVE, and the link retrains when too few remain
(R304, R326, R333). -/
def lockLost (inst : Nat) (s : State) : State :=
  let n := instLink inst
  let c := chanSide inst s
  let s1 := setChan inst { c with locked := false, bad := [] } s
  let l := linkGet n s1
  if 32 ≤ n then (if (portSt (lanePort n) s1).phase = .active then portDown (lanePort n) s1 else s1)
  else if l.st != .active || !l.rxActive then s1
  else
    let s2 := match c.lane with
      | some x => if x < widthOf n s then linkSet n { l with lost := tset none l.lost x (some s.clock.now) } s1 else s1
      | none => s1
    let s3 := judgeUnfit inst false s2
    if lockedLanes n s3 < widthOf n s3 then askRetrain n s3 else s3

/-- CHANNEL_LOCK_LOSS: suspended while the direction sleeps (R326, R334). -/
def execChannelLockLoss (inst : Nat) (s : State) : Step :=
  if 1156 ≤ inst || !(chanSide inst s).locked || (linkGet (instLink inst) s).rxSleep then .next s
  else .next (lockLost inst s)

/-- Binds lanes 0, 1, 2 and up to channels in ascending order; every other channel holds none (R286). -/
def bindLanes (side : Nat → Nat) (ks : List Nat) (s : State) : State :=
  chNums.foldl (fun t k =>
    let c := chanSide (side k) t
    setChan (side k) { c with lane := if ks.contains k then some (ks.idxOf k) else none, owed := [] } t) s

/-- Puts bound channels into DATA or SPARE by the width (R287). -/
def settleStates (side : Nat → Nat) (w : Nat) (s : State) : State :=
  chNums.foldl (fun t k =>
    let c := chanSide (side k) t
    match c.lane with
    | some x => setChan (side k) { c with state := if x < w then .data else .spare } t
    | none => t) s

/-- Whether the far end's word names the expected neighbour (R342). -/
def neighbourOk (n : Nat) (cap : BitVec 64) (s : State) : Bool :=
  let role := bitsOf cap.toNat 7 4
  let id := bitsOf cap.toNat 51 32
  if n < 30 then
    let g := n % 10
    let k := g / 2
    let e := extentOf k s
    let want := if g % 2 = 0 then (coord k s.fab.id + 1) % e else (coord k s.fab.id + e - 1) % e
    role = 0 && id = s.fab.id - coord k s.fab.id * 16 ^ k + want * 16 ^ k
  else
    (role = 1 || role = 4) &&
      (s.fab.spurs.any fun p => p.2.1 = s.fab.id && p.2.2 = n - 30 && p.1 = id)

/-- The width two ends agree on: the smaller proposal that both support (R331). -/
def agreeWidth (mine far : Nat) (cap : BitVec 64) : Option Nat :=
  [16, 12, 8].find? fun w => w ≤ min mine far && cap.getLsbD (8 + widthCode w)

/-- Goes to BIVOUAC and stays there until FAB_LINK_CTRL or a new FAB_CONFIG (R331, R342). -/
def holdBivouac (n : Nat) (s : State) : State :=
  let s1 := enterTrain n .bivouac s
  linkSet n { linkGet n s1 with bivouacTill := none } s1

/-- The round trip in ns by a slot that the far end returns: slots between, less those it waited at the far end, of 12.8 ns
each; a part of a ns is dropped (R331, log 115). -/
def roundTrip (slot : Nat) (x : TrainInput) : Nat := (slot - x.echo.toNat - x.echoAge) * 64 / 5

/-- NEGOTIATE: loopback, neighbour, width, leader and round trip; NEG_DONE is set (R328, R331, R342, R349). -/
def negotiate (n : Nat) (x : TrainInput) (s : State) : State :=
  let l := linkGet n s
  let nonce := x.farNonce
  let cap := x.farCap
  let farId := bitsOf cap.toNat 51 32
  let s1 := linkSet n { l with farNonce := nonce, farCap := cap } s
  if nonce = l.nonce && farId = s.fab.id then
    let s2 := holdBivouac n (faultCOpen (0x8000 + n) s1)
    linkSet n { linkGet n s2 with looped := true } s2
  else if !neighbourOk n cap s then
    let s2 := holdBivouac n (faultUOpen (0x8000 + n) s1)
    linkSet n { linkGet n s2 with miswired := true } s2
  else match (proposal n s1).bind fun w => agreeWidth w (codeWidth x.farWidth) cap with
    | none => linkDark n s1
    | some w =>
      linkSet n { linkGet n s1 with
        negDone := true, width := some w, rtt := roundTrip l.slot x, rttKnown := true
        leader := nonce.toNat < l.nonce.toNat || (nonce = l.nonce && farId < s.fab.id) } s1

/-! ## MAP (R330) -/

/-- The middle of a list of slots; of an even number of them the upper of the two (log 115). -/
def medianOf (l : List Nat) : Nat := (sortBy (fun a b => a ≤ b) l).getD (l.length / 2) 0

/-- Whether the training blocks of a channel let it be mapped: MARKER found, its slot at most 8 from the median of the
others, LANE and CHANNEL agreeing with the map, and CHANNEL with the tone its drop ring demodulates (R330). -/
def heardFits (x : TrainInput) (h : Heard) : Bool :=
  let others := (x.heard.filter fun o => o.ch != h.ch).map fun o => o.slot.toNat
  let m := medianOf others
  h.marker && h.channel = h.ch && h.tone = h.ch && h.lane < 18 && x.farMap.getD h.lane 31 = h.channel &&
    (others = [] || (h.slot.toNat ≤ m + 8 && m ≤ h.slot.toNat + 8))

/-- The channels mapped, each with its lane (R330). -/
def mappedOf (x : TrainInput) : List (Nat × Nat) := (x.heard.filter (heardFits x)).map fun h => (h.ch, h.lane)

/-- A fenced channel side whose one pitch check of this training has passed is restored (R306, log 116). -/
def restoreChan (i : Nat) (s : State) : State :=
  let c := chanSide i s
  if c.state = .fenced then fenceDrop (0x7000 + i) 0 (setChan i { c with state := .spare } s) else s

/-- Channels of a receive direction expected to take part. -/
def rxExpected (n : Nat) (s : State) : List Nat :=
  chNums.filter fun k => (chanSide (rxi n k) s).state != .dark && (chanSide (rxi n k) s).state != .fenced

/-- Class C against each receive channel left out of training (R304, R327). -/
def leaveOut (n : Nat) (kept : List Nat) (s : State) : State :=
  (rxExpected n s).foldl (fun t k => if kept.contains k then t else laneFault .c (rxi n k) t) s

/-- Whether lanes run in descending channel order: lane reversal (R330). -/
def isReversed (m : List (Nat × Nat)) : Bool :=
  2 ≤ m.length && m.all fun p => m.all fun q => !(p.1 < q.1) || q.2 < p.2

/-- A link end meets the exit condition of its state (Table 12-4). -/
def advance (n : Nat) (x : TrainInput) (s : State) : State :=
  let l := linkGet n s
  match l.st with
  | .dark => s
  | .bivouac =>
    if l.bivouacTill.isSome || l.looped || l.miswired || !linkConfigured n s then s else enterTrain n .light s
  | .light =>
    let out := fun k => (chanSide (txi n k) s).state = .dark || (chanSide (txi n k) s).state = .warming ||
      (chanSide (txi n k) s).state = .fenced
    let s1 := chNums.foldl (fun t k =>
      if x.checked.contains k && x.verified.contains k && pathUsable (n / 4) k t then restoreChan (txi n k) t else t) s
    let work := (txLit n s1).filter x.verified.contains
    if chNums.all (fun k => x.verified.contains k || out k) && 8 ≤ work.length then
      let s2 := enterSend n s1
      linkSet n { linkGet n s2 with txWorking := work, excluded := [] } s2
    else s1
  | .send => if 8 ≤ x.verified.length then enterTrain n .align (linkSet n { l with light := true } s) else s
  | .align =>
    let locked := chNums.filter fun k => x.locked.contains k || (chanSide (rxi n k) s).locked
    if 8 ≤ locked.length then
      let s1 := leaveOut n locked (enterTrain n .map s)
      let s2 := locked.foldl (fun t k => setChan (rxi n k) { chanSide (rxi n k) t with locked := true } t) s1
      bindLanes (txi n) (linkGet n s2).txWorking s2
    else s
  | .map =>
    let sr := chNums.foldl (fun t k => if x.checked.contains k then restoreChan (rxi n k) t else t) s
    let mapped := (mappedOf x).filter fun p => (chanSide (rxi n p.1) sr).state != .fenced
    if 8 ≤ mapped.length then
      let ks := chNums.filter fun k => mapped.any fun p => p.1 = k
      let s1 := leaveOut n ks (enterTrain n .negotiate sr)
      let s2 := chNums.foldl (fun t k =>
        let c := chanSide (rxi n k) t
        setChan (rxi n k) { c with lane := (mapped.find? fun p => p.1 = k).map (·.2) } t) s1
      linkSet n { linkGet n s2 with rxUsable := ks, reversed := isReversed mapped } s2
    else s
  | .negotiate => nameActive n x (if l.negDone then s else negotiate n x s)
  | .active => s

/-- TRAINING_ADVANCE; links 32 and 33 stand for the lanes of CP0 and CP1 (R202, R203, R327). -/
def execTrainingAdvance (link : Nat) (x : TrainInput) (s : State) : Step :=
  if s.dev.state = .haltedThermal then .next s
  else if link < 32 then .next (advance link x s)
  else if link < 34 then .next (portAdvance link x s)
  else .next s

/-- TRAINING_TIMEOUT: 10 ms after entry LIGHT goes DARK; ALIGN, MAP and NEGOTIATE return to SEND, after three returns
bivouac, and after three bivouacs go DARK (R332, log 27). -/
def execTrainingTimeout (link : Nat) (s : State) : Step :=
  let l := linkGet link s
  if 34 ≤ link || s.clock.now < l.stAt + 10000000 then .next s
  else if 32 ≤ link then .next (portTimeout link s)
  else if l.st = .light then .next (linkDark link s)
  else if l.st = .align || l.st = .map || (l.st = .negotiate && !l.txActive && !l.rxActive) then
    if l.returns < 3 then
      let s1 := enterSend link s
      .next (linkSet link { linkGet link s1 with returns := l.returns + 1 } s1)
    else if l.bivouacs < 3 then
      let s1 := enterTrain link .bivouac s
      .next (linkSet link { linkGet link s1 with returns := 0, bivouacs := l.bivouacs + 1,
                                                 bivouacTill := some (s.clock.now + 100000000) } s1)
    else .next (linkDark link s)
  else .next s

/-- BIVOUAC_EXIT_TIMER: the 100 ms are over and the end goes to LIGHT (R332). -/
def execBivouacExitTimer (link : Nat) (s : State) : Step :=
  let l := linkGet link s
  if link = 32 || link = 33 then .next (portLeavesBivouac link s)
  else match l.bivouacTill with
  | some t =>
    if link < 32 && l.st = .bivouac && t ≤ s.clock.now then
      .next (enterTrain link .light (linkSet link { l with bivouacTill := none } s))
    else .next s
  | none => .next s

/-- A link joins its group once both directions are ACTIVE (R328, R355, R358); where its chiplet's Verweust group cannot
carry the width it trained at, it is narrowed again (R395). -/
def joinGroup (n : Nat) (wasUp : Bool) (s : State) : State :=
  if !linkUp n s then s
  else
    let l := linkGet n s
    let s1 := linkSet n { l with st := .active, stAt := s.clock.now, returns := 0, bivouacs := 0 } s
    let s2 := fenceDrop (0x8000 + n) 0 (if wasUp then s1 else groupRestart (linkGroup n) s1)
    let s3 := groupPump (linkGroup n) (refreshDegraded s2)
    if groupCapacity (8 + n / 4) s3 < 1600 then narrowOptical (n / 4) s3 else s3

/-- ACTIVE_AT_REACHED: the slot a direction was to become ACTIVE at has come (R328, R345, R346). -/
def execActiveAtReached (link : Nat) (tx : Bool) (s : State) : Step :=
  let l := linkGet link s
  let up := groupUp (linkGroup link) s
  if 34 ≤ link then .next s
  else if 32 ≤ link then
    .next (if (if tx then l.txAt.isSome else l.rxAt.isSome) then portDirection link tx s else s)
  else if tx then
    match l.txAt with
    | none => .next s
    | some a =>
      let s1 := linkSet link { l with txActive := true, txAt := none, slot := max l.slot a, lseq := 0, replay := [],
                                      lackAt := s.clock.now, ackAt := s.clock.now, stream := [startBlock 0], stripe := 0 } s
      .next (joinGroup link up (settleStates (txi link) (widthOf link s1) s1))
  else
    match l.rxAt with
    | none => .next s
    | some a =>
      let s1 := linkSet link { l with rxActive := true, rxAt := none, rxSlot := max l.rxSlot a, expect := 0, rxLanes := [],
                                      rxStripe := 0, rxBlocks := [], rxLaneAt := [], lost := [] } s
      .next (joinGroup link up (settleStates (rxi link) (widthOf link s1) s1))

/-- NO_PEER_TIMER: 2 s in SEND with no receive light (R327). -/
def execNoPeerTimer (link : Nat) (s : State) : Step :=
  let l := linkGet link s
  if link < 32 && l.st = .send && !l.light && l.stAt + 2000000000 ≤ s.clock.now then
    .next (linkSet link { l with noPeer := true } s)
  else .next s

/-- LIGHT_ARRIVAL: light reaches a link in SEND, or a port that is DOWN, which trains again (R204, R327, R534). -/
def execLightArrival (who : LightTarget) (s : State) : Step :=
  match who with
  | .link n =>
    let l := linkGet n s
    if n < 32 && l.st = .send then .next (linkSet n { l with light := true, noPeer := false } s) else .next s
  | .port p =>
    let x := portSt p s
    if x.phase = .down && !x.fenced && (linkGet (portLink p) s).st != .bivouac && s.dev.state != .haltedThermal && (laserGet (portLaser p s) s).fade != .failed then
      .next (portTrains p s)
    else .next s

/-- A RETRAIN block has come or training codewords have: SEND at once, save that a leader with a request of its own keeps
it (R333, R361). -/
def retrainSeen (n : Nat) (block : Bool) (s : State) : State :=
  let l := linkGet n s
  if 32 ≤ n then portRetrains n s
  else if block && l.retrainMine && l.leader then s else enterSend n s

/-- LANE_RETRAIN (R333). -/
def execLaneRetrain (link : Nat) (slot : Option (BitVec 48)) (s : State) : Step :=
  if link < 34 && (linkGet link s).st = .active then .next (retrainSeen link slot.isSome s) else .next s

/-- LINK_LEAVES_ACTIVE: a link in service leaves it, its flits traverse, and its end returns to SEND (R327, R357). -/
def execLinkLeavesActive (link : Nat) (s : State) : Step :=
  if link < 32 && ((linkGet link s).txActive || (linkGet link s).rxActive) then .next (enterSend link s) else .next s

/-! ## Low power (R334, R335) -/

/-- Announces TX-sleep: END, and SLEEP on every lane naming the slot (R334, R345). -/
def announceSleep (n slot : Nat) (s : State) : State :=
  let l := linkGet n s
  sendBlocks n (txBound n s) 0x04 (leBytes 6 slot) (linkSet n { l with sleepAt := some slot, stream := [endBlock] } s)

/-- SLEEP: a direction is told to sleep at a slot at least 16 ahead, or that slot has come. Stream data that came
meanwhile cancels it (R334, R335). -/
def execSleep (link : Nat) (tx : Bool) (slot : BitVec 48) (s : State) : Step :=
  let l := linkGet link s
  if 32 ≤ link then .next s
  else if tx then
    if !l.txActive || l.txSleep then .next s
    else match l.sleepAt with
      | none => if l.stream = [] && l.moves = [] && l.slot + 16 ≤ slot.toNat then .next (announceSleep link slot.toNat s) else .next s
      | some a =>
        if slot.toNat != a || l.wakeAt.isSome then .next s
        else if l.stream != [] then .next (wakeTx link s)
        else .next (linkSet link { l with txSleep := true, slot := max l.slot a } s)
  else if l.rxActive then .next (linkSet link { l with rxSleep := true, rxSleepAt := some slot.toNat, rxSlot := max l.rxSlot slot.toNat } s)
  else .next s

/-- WAKE: the named slot has come and full codewords resume (R335). -/
def execWake (link : Nat) (tx : Bool) (slot : BitVec 48) (s : State) : Step :=
  let l := linkGet link s
  if 32 ≤ link then .next s
  else if tx then
    match l.wakeAt with
    | some a =>
      if slot.toNat = a then
        .next (linkSet link { l with txSleep := false, sleepAt := none, wakeAt := none, slot := max l.slot a } s)
      else .next s
    | none => .next s
  else if l.rxSleep then
    .next (linkSet link { l with rxSleep := false, rxSleepAt := none, rxWakeAt := none, rxSlot := max l.rxSlot slot.toNat } s)
  else .next s

/-- A beacon of the right slot clears the count of missed ones (R334). -/
def beaconSeen (n k slot : Nat) (s : State) : State :=
  let l := linkGet n s
  let c := chanSide (rxi n k) s
  if l.rxSleep && (slot - l.rxSleepAt.getD 0) % 256 = 0 then
    setChan (rxi n k) { c with missed := 0, heard := (slot, l.slot) } (linkSet n { l with rxSlot := max l.rxSlot slot } s)
  else s

/-- BEACON (R334). -/
def execBeacon (link ch : Nat) (slot : BitVec 48) (s : State) : Step :=
  if link < 32 && ch < 18 then .next (beaconSeen link ch slot.toNat s) else .next s

/-- BEACON_MISS: four beacons in a row missed: the channel is out of lock and hunts when WAKE arrives (R335). -/
def execBeaconMiss (link ch : Nat) (s : State) : Step :=
  let c := chanSide (rxi link ch) s
  if link < 32 && ch < 18 && (linkGet link s).rxSleep && c.locked then
    .next (setChan (rxi link ch) { c with locked := false, missed := 4 } s)
  else .next s

/-! ## Tests (R337, R339) -/

/-- A test run begins on a channel side: its checker or generator starts afresh. -/
def testStarts (i pattern : Nat) (s : State) : State :=
  let c := chanSide i s
  if pattern = 0 || 4 ≤ pattern then s
  else setChan i { c with checker := { c.checker with bits := 0, lower := 0, middle := 0, upper := 0, pos := 0, place := none,
                                                       pattern := some pattern } } s

/-- TEST_START (R337). -/
def execTestStart (inst pattern : Nat) (s : State) : Step :=
  if inst < 1156 then .next (testStarts inst pattern s) else .next s

/-- A test run ends on a channel side. -/
def testEnds (i : Nat) (s : State) : State :=
  let c := chanSide i s
  setChan i { c with checker := { c.checker with pattern := none } } s

/-- TEST_END (R337). -/
def execTestEnd (inst : Nat) (s : State) : Step := if inst < 1156 then .next (testEnds inst s) else .next s

/-- Starts a lane test: the link's lasers come on, the rings lock, and the pattern runs with no training (R339). -/
def startTest (n pattern half mask until_ : Nat) (s : State) : State :=
  let s1 := enterTrain n .light s
  let s2 := linkSet n { linkGet n s1 with test := some (pattern, half, mask, until_) } s1
  let s3 := (bitsSet mask 18).foldl (fun t k =>
    let u := testStarts (txi n k) pattern (testStarts (rxi n k) pattern t)
    let c := chanSide (rxi n k) u
    setChan (rxi n k) { c with checker := { c.checker with half := half } } u) s2
  sendBlocks n (bitsSet mask 18) 0x20 (leBytes 1 pattern) (lightChiplet (n / 4) s3)

/-- LANE_TEST_DURATION_END: TEST_END closes the run on every channel, the test stops and the link returns to BIVOUAC (R337,
R339, R538). -/
def execLaneTestDurationEnd (link : Nat) (s : State) : Step :=
  match (linkGet link s).test with
  | some (_, _, mask, t) =>
    if link < 32 && t ≤ s.clock.now then
      let s1 := (bitsSet mask 18).foldl (fun u k => testEnds (txi link k) (testEnds (rxi link k) u)) s
      let scr := scrSlot (linkGet link s).slot
      let s2 := (bitsSet mask 18).foldl (fun u k => sendFiller link k scr (sendBlocks link [k] 0x21 [] u)) s1
      .next (enterTrain link .bivouac (nextSlot link s2))
    else .next s
  | none => .next s

/-! ## Width changes (R359, R360) -/

/-- Sends WIDTH_ACK for the outcome. -/
def sendWidthAck (n : Nat) (w : WidthChange) (s : State) : State :=
  placeFlit n (mkFlit 0x02 0 0 s.fab.id 0 false (widthPayload w)) s

/-- The outcome of a WIDTH_REQ: the smaller of the request and what this direction can reach; against a request of this
end's own the smaller width wins, with the leader's slot on equal widths (R359, R360). -/
def widthOutcome (n : Nat) (r : WidthMsg) (s : State) : Option WidthChange :=
  let l := linkGet n s
  match l.change with
  | some m =>
    let w := min r.width m.width
    some ⟨w, m.exclude, if r.width < m.width then r.slot.toNat else if m.width < r.width then m.slot
      else if l.leader then m.slot else r.slot.toNat, m.mine, true, r.exclude⟩
  | none =>
    let out := heldBack n s
    (widthFor ((txLit n s).filter fun k => !out.contains k && !l.excluded.contains k).length).map fun own =>
      ⟨min (min r.width own) (widthOf n s), out, r.slot.toNat, false, true, r.exclude⟩

/-- A WIDTH_REQ arrives (R359). -/
def widthAsked (n : Nat) (r : WidthMsg) (s : State) : State :=
  match widthOutcome n r s with
  | none => linkDark n s
  | some w => sendWidthAck n w (linkSet n { linkGet n s with change := some w } s)

/-- WIDTH_REQ (R359). -/
def execWidthReq (link : Nat) (r : WidthMsg) (s : State) : Step :=
  if link < 32 && linkUp link s then .next (widthAsked link r s) else .next s

/-- A WIDTH_ACK arrives: the change and its slot are fixed (R359). -/
def widthAnswered (n : Nat) (r : WidthMsg) (s : State) : State :=
  let l := linkGet n s
  match l.change with
  | some m =>
    if m.mine && !m.agreed then
      linkSet n { l with change := some { m with width := r.width, slot := r.slot.toNat, agreed := true, far := r.exclude } } s
    else s
  | none => s

/-- WIDTH_ACK (R359). -/
def execWidthAck (link : Nat) (r : WidthMsg) (s : State) : Step :=
  if link < 32 then .next (widthAnswered link r s) else .next s

/-- What an excluded channel does next: a hand-over lets it go out, else its check begins (R299, R300, R301, R308). -/
def afterExclusion (n k : Nat) (s : State) : State :=
  match tget none s.las.handover (waveKey (n / 4) k) with
  | some h => if h.waiting.contains n then linkFreed n k s else startCheck n k s
  | none => if (chanSide (txi n k) s).state = .data then startCheck n k s else s

/-- The switch slot has come: END, lane maps rebound, START, and the stream resumes (R359). -/
def switchWidth (n : Nat) (w : WidthChange) (s : State) : State :=
  let l := linkGet n s
  let out := w.exclude.foldl (fun acc k => setInsert k acc) l.excluded
  let s1 := linkSet n { l with
    slot := max l.slot w.slot, width := some w.width, change := none, excluded := out
    rxUsable := l.rxUsable.filter fun k => !w.far.contains k, stripe := 0
    stream := l.stream ++ [endBlock, startBlock l.lseq], moves := [], rxLanes := [], rxStripe := 0, rxBlocks := []
    rxLaneAt := [] } s
  let s2 := bindLanes (txi n) ((txLit n s1).filter fun k => !out.contains k) s1
  let s3 := bindLanes (rxi n) (linkGet n s2).rxUsable s2
  let s4 := w.exclude.foldl (fun t k => afterExclusion n k t) s3
  let s5 := settleStates (rxi n) w.width (settleStates (txi n) w.width s4)
  groupPump (linkGroup n) (refreshDegraded (countLink n 11 1 s5))

/-- WIDTH_SWITCH (R359). -/
def execWidthSwitch (link : Nat) (s : State) : Step :=
  match (linkGet link s).change with
  | some w => if link < 32 && w.agreed then .next (switchWidth link w s) else .next s
  | none => .next s

end Sys2Proof.Machine
end

