-- ==== Sys2Proof/Machine/Lines.lean ====
section
/-!
DEFINITION. Lines of DRAM at the stack controllers (chapter 7): reads with their symbol ECC, writes, refresh, scrub,
row repair, channel failure, the directory of home mode, and the rewriting of lost memory.
-/

namespace Sys2Proof.Machine

/-! ## Lines -/

/-- A line leaves a controller: kind 0 to its requester, 1 to 3 an answer to a recall (line, acknowledgement, not held),
4 and 5 a recall and an invalidation on their way. -/
def sendLine (a kind : Nat) (s : State) : State := emit (.line (a / 64 * 64) kind (lineData a s) (linePoison a s)) s

/-- The stack channel, or the stack, that a forced class D event has told to poison the next line it delivers. -/
def forcedChan (k ch : Nat) (s : State) : Option Nat :=
  if forcedD (0x4000 + chanKey k ch) 0 s then some (0x4000 + chanKey k ch)
  else if forcedD (0x5000 + k) 0 s then some (0x5000 + k) else none

/-- Delivers a line to a requester; a forced class D event of its channel poisons what is delivered and leaves the stored
line as it is (R460). -/
def deliverLine (a k ch : Nat) (s : State) : State := match forcedChan k ch s with
  | some src => emit (.line (a / 64 * 64) 0 (lineData a s) 0xFF) (forcedDone src 0 s)
  | none => sendLine a 0 s

/-- A read outside DRAM: an engine's is poisoned with a class D fault against its cluster, the host's is refused (R176). -/
def readOutside (a : Nat) (r : Requester) (s : State) : State := match r with
  | .cluster p => emit (.line a 0 (zeros 64) 0xFF) (faultDOpen (0x2000 + p) s)
  | .peer _ => emit (.reply .badArgument 0) s
  | .host => emit (.reply .badArgument 0) s
  | _ => s

/-- Key of a bank of a stack channel. -/
def bankKey (k ch bank : Nat) : Nat := chanKey k ch * 1024 + bank

/-- Whether a bank's rows are behind the interval of a band that has risen, so that its refresh goes ahead of other traffic
(R192). -/
def rowsBehind (k ch bank : Nat) (s : State) : Bool := match tget none s.stk.rise k with
  | some (_, caught) => !caught.contains (bankKey k ch bank)
  | none => false

/-- DRAM_READ (R188); a bank whose rows are behind after a rise of the band serves no traffic (R192). -/
def execDramRead (a : Nat) (r : Requester) (b : BadSymbols) (s : State) : Step :=
  if topOfDram s ≤ a then .next (readOutside a r s)
  else if stackDown a s then
    .next (if r = .host && s.mem.lost.contains (stackOf a s).1 then emit (.reply .busy 0) s else sendLine a 0 s)
  else
    let (k, l) := stackOf a s
    if rowsBehind k (channelOf l) b.bank s then .next s
    else .next (deliverLine a k (channelOf l) (decodeLine a k l 0 b (countLineRead k r (recallLine a s))))

/-- DRAM_WRITE: a line is written, or merged, with its POISON bits (R188); a write to a stack that is down is lost. -/
def execDramWrite (a : Nat) (data : List (Option (BitVec 8))) (poison : BitVec 8) (s : State) : Step :=
  if topOfDram s ≤ a || stackDown a s then .next s
  else .next (countStack (stackOf a s).1 1 1 (writeLine a data poison (claimLine a s)))

/-! ## The directory of home mode (R184) -/

/-- Merges a local write's bytes into the line. -/
def dirWrite (a : Nat) (q : DirReq) (s : State) : State := match q with
  | .localWrite data poison => countStack (stackOf a s).1 1 1 (writeLine a data poison s)
  | _ => s

/-- A request that must wait for the other flank. -/
def dirWait (a : Nat) (inval : Bool) (q : DirReq) (s : State) : State :=
  { s with mem := { s.mem with recalls := s.mem.recalls ++ [⟨a / 64, inval, q, false, false⟩] } }

/-- The first request outstanding or waiting for a line. -/
def dirHead (a : Nat) (s : State) : Option Recall := s.mem.recalls.find? fun r => r.line = a / 64

/-- Counts a line read for the other flank (R201). -/
def countSeam (a : Nat) (s : State) : State := countStack (stackOf a s).1 0 1 (countStack (stackOf a s).1 2 1 s)

/-- Handles one request by DIR (Table 7-5). -/
def dirHandle (a : Nat) (q : DirReq) (s : State) : State :=
  let d := dirOf a s
  match q with
  | .remoteRead => if d = 2 then s else sendLine a 0 (fetchLine a false (countSeam a s))
  | .remoteReadForWrite => if d = 2 then s else sendLine a 0 (fetchLine a true (countSeam a s))
  | .remoteWriteBack data poison =>
    if d = 2 then cacheSet a none (dirSet a 0 (countStack (stackOf a s).1 1 1 (writeLine a (data.map some) poison s))) else s
  | .localRead => if d = 2 then sendLine a 4 (dirWait a false q s) else sendLine a 0 (countStack (stackOf a s).1 0 1 s)
  | .localWrite _ _ =>
    if d = 0 then dirWrite a q s else if d = 1 then sendLine a 5 (dirWait a true q s) else sendLine a 4 (dirWait a true q s)

/-- Takes the first entry of a line off the list. -/
def dropHead (line : Nat) : List Recall → List Recall
  | [] => []
  | r :: t => if r.line = line then t else r :: dropHead line t

/-- Handles the requests that waited behind a finished one, in order, up to the next that must wait. -/
def dirResume (a : Nat) : Nat → State → State
  | 0, s => s
  | k + 1, s =>
    match dirHead a s with
    | none => s
    | some r =>
      if r.answered then s
      else
        let s1 := dirHandle a r.req { s with mem := { s.mem with recalls := dropHead (a / 64) s.mem.recalls } }
        if (s1.mem.recalls.any fun x => x.line = a / 64 && x.req = r.req) && dirOf a s1 != 0 then s1 else dirResume a k s1

/-- The active request of a line has its answer: a read is served with DIR S, a write merged with DIR I (Table 7-5). -/
def dirServe (a : Nat) (r : Recall) (s : State) : State := match r.req with
  | .localWrite _ _ => cacheSet a none (dirSet a 0 (dirWrite a r.req s))
  | _ => sendLine a 0 (countStack (stackOf a s).1 0 1
      (cacheSet a (some ⟨false, lineData a s, linePoison a s⟩) (dirSet a 1 s)))

/-- DIRECTORY_REQUEST: the home flank handles requests to a line one at a time, in order of arrival; a write-back during
a recall is its answer (R184). -/
def execDirectoryRequest (a : Nat) (r : DirReq) (s : State) : Step :=
  if !s.mem.home || topOfDram s ≤ a || stackDown a s then .next s
  else match dirHead a s, r with
    | some h, .remoteWriteBack data poison =>
      if h.answered || dirOf a s != 2 then .next s
      else
        let s1 := countStack (stackOf a s).1 1 1 (writeLine a (data.map some) poison s)
        let s2 := dirServe a h { s1 with mem := { s1.mem with recalls := dropHead (a / 64) s1.mem.recalls } }
        let s3 := cacheSet a none (if h.inval then s2 else dirSet a 0 s2)
        let mark := { h with answered := true }
        if h.notHeld then .next (dirResume a s3.mem.recalls.length s3)
        else .next { s3 with mem := { s3.mem with recalls := mark :: s3.mem.recalls } }
    | some _, q => .next (dirWait a false q s)
    | none, q => .next (dirHandle a q s)

/-- RECALL_ANSWER: the other flank's answer to a recall (R184). -/
def execRecallAnswer (a : Nat) (held : Bool) (data : List (BitVec 8)) (poison : BitVec 8) (s : State) : Step :=
  match dirHead a s with
  | none => .next s
  | some h =>
    if !s.mem.home then .next s
    else if h.answered then
      let s1 := { s with mem := { s.mem with recalls := dropHead (a / 64) s.mem.recalls } }
      .next (dirResume a s1.mem.recalls.length s1)
    else if dirOf a s != 2 then .next s
    else if !held then
      .next { s with mem := { s.mem with recalls := { h with notHeld := true } :: dropHead (a / 64) s.mem.recalls } }
    else
      let s1 := countStack (stackOf a s).1 1 1 (writeLine a (data.map some) poison s)
      let s2 := dirServe a h { s1 with mem := { s1.mem with recalls := dropHead (a / 64) s1.mem.recalls } }
      .next (dirResume a s2.mem.recalls.length s2)

/-- INVALIDATE_ACK: the home writes the line and DIR reads I (R184). -/
def execInvalidateAck (a : Nat) (s : State) : Step :=
  match dirHead a s with
  | none => .next s
  | some h =>
    if !s.mem.home || h.answered || !h.inval || dirOf a s != 1 then .next s
    else
      let s1 := dirServe a h { s with mem := { s.mem with recalls := dropHead (a / 64) s.mem.recalls } }
      .next (dirResume a s1.mem.recalls.length s1)

/-- RECALL_REQUEST: the other flank's cache answers with the line, an acknowledgement or "not held"; it keeps a clean copy
unless the line is invalidated (R184). -/
def execRecallRequest (a : Nat) (inval : Bool) (s : State) : Step :=
  if !s.mem.home || topOfDram s ≤ a then .next s
  else match cacheGet a s with
    | some x =>
      let s1 := cacheSet a (if inval then none else some x.clean) s
      .next (emit (.line (a / 64 * 64) (if x.dirty then 1 else 2) x.data x.poison) s1)
    | none => .next (sendLine a (if inval && dirOf a s != 2 then 2 else 3) s)

/-! ## Refresh (R192, R193) -/

/-- Whether a stack is refreshed and scrubbed: its flank's memory region keeps its clock, and VDDM and VDDQ_M are in range
(R193, R194). -/
def refreshRuns (stack : Nat) (s : State) : Bool :=
  stack < 8 && flankPhase (stackFlank stack) s != .lost && !s.pins.pgLow.contains .mem

/-- A bank has caught up with the interval of a risen band (R192). -/
def caughtUp (stack key : Nat) (s : State) : State := match tget none s.stk.rise stack with
  | some (t, l) => { s with stk := { s.stk with rise := tset none s.stk.rise stack (some (t, setInsert key l)) } }
  | none => s

/-- REFRESH: a bank's refresh command is postponed, or issued; the eighth postponed makes it urgent (R193, R201, R432). A bank
that is behind after a rise of the band is refreshed ahead of other traffic (R192). -/
def execRefresh (stack ch bank : Nat) (postpone : Bool) (s : State) : Step :=
  if 32 ≤ ch || 1024 ≤ bank || !refreshRuns stack s then .next s
  else
    let key := bankKey stack ch bank
    let n := tget 0 s.stk.postponed key
    if postpone && !s.stk.refreshUrgent.contains key && !rowsBehind stack ch bank s then
      let s1 := countStack stack 6 1 { s with stk := { s.stk with postponed := tset 0 s.stk.postponed key (n + 1) } }
      if n + 1 = 8 then
        .next (promote 4 (countStack stack 7 1
          { s1 with stk := { s1.stk with refreshUrgent := setInsert key s1.stk.refreshUrgent } }))
      else .next s1
    else
      .next (caughtUp stack key { s with stk := { s.stk with
        postponed := tset 0 s.stk.postponed key (n - 1)
        refreshUrgent := if n ≤ 1 then setErase key s.stk.refreshUrgent else s.stk.refreshUrgent } })

/-- Row interval in ms of a band less 1: 1× below 75 °C, 2× from 75 °C, 4× from 95 °C (Table 7-8). -/
def rowInterval (band : Nat) : Nat := if band < 2 then 32 else if band = 2 then 16 else 8

/-- REFRESH_BAND_CHANGE: the stack refreshes at the rate of its band (R192, R416). On a rise to a shorter interval every bank
is behind until it has been refreshed; the catching up ends with the first interval. -/
def execRefreshBandChange (stack : Nat) (s : State) : Step :=
  if stack < 8 then
    let old := tget 0 s.stk.band stack
    let new := tget 0 s.therm.bands stack
    let due := match tget none s.stk.rise stack with
      | some (t, l) => if t + rowInterval old * 1000000 ≤ s.clock.now then none else some (t, l)
      | none => none
    .next { s with stk := { s.stk with
      band := tset 0 s.stk.band stack new
      rise := tset none s.stk.rise stack (if rowInterval new < rowInterval old then some (s.clock.now, []) else due) } }
  else .next s

/-! ## Scrub and repair (R190, R194) -/

/-- Lines of a stack. -/
def stackLines : Nat := stackBytes / 64

/-- 24 hours in ns. -/
def dayNs : Nat := 86400000000000

/-- How far a scrub is behind its schedule, in ns (R194). -/
def scrubBehind (k : Nat) (s : State) : Nat :=
  (s.clock.now - tget 0 s.stk.scrubBegan k) - tget 0 s.stk.scrubAt k * dayNs / stackLines

/-- The DRAM address that a stack serves at a stack-local address. -/
def addrOf (k l : Nat) (s : State) : Option Nat :=
  let n := if s.mem.home then (flankStacks (stackFlank k) s).length else s.mem.inService.length
  let base := if s.mem.home && stackFlank k = .south then stackBytes * (flankStacks .north s).length else 0
  ((List.range n).map fun x => base + (l / 1024 * n + x) * 1024 + l % 1024).find? fun a => stackOf a s = (k, l)

/-- A row corrected on two consecutive passes is due for repair (R190). -/
def scrubRow (k : Nat) (row : Nat × Nat × Nat) (s : State) : State :=
  let p := tget ([], []) s.stk.scrubRows k
  let s1 := { s with stk := { s.stk with
    scrubRows := tset ([], []) s.stk.scrubRows k (p.1, if p.2.contains row then p.2 else p.2 ++ [row]) } }
  if p.1.contains row then rowDue k row.1 row.2.1 row.2.2 s1 else s1

/-- The scrub moves on; at the end of the stack a new pass begins. -/
def scrubNext (k : Nat) (s : State) : State :=
  let n := tget 0 s.stk.scrubAt k + 1
  if n < stackLines then { s with stk := { s.stk with scrubAt := tset 0 s.stk.scrubAt k n } }
  else
    let p := tget ([], []) s.stk.scrubRows k
    { s with stk := { s.stk with
      scrubAt := tset 0 s.stk.scrubAt k 0, scrubBegan := tset 0 s.stk.scrubBegan k s.clock.now
      scrubRows := tset ([], []) s.stk.scrubRows k (p.2, []) } }

/-- Urgent at 2 h behind, until less than 1 h behind (R194). -/
def scrubPromote (k : Nat) (s : State) : State :=
  let behind := scrubBehind k s
  if 7200000000000 ≤ behind && !s.stk.scrubUrgent.contains k then
    promote 3 (countStack k 7 1 { s with stk := { s.stk with scrubUrgent := setInsert k s.stk.scrubUrgent } })
  else if behind < 3600000000000 then { s with stk := { s.stk with scrubUrgent := setErase k s.stk.scrubUrgent } }
  else s

/-- The next line of a stack's pass is decoded (R188, R194). -/
def scrubDecode (stack : Nat) (b : BadSymbols) (s : State) : State :=
  match addrOf stack (tget 0 s.stk.scrubAt stack * 64) s with
  | some a => decodeLine a stack (tget 0 s.stk.scrubAt stack * 64) 1 b s
  | none => s

/-- What the line found means for the repair of its row (R190). -/
def scrubMark (stack : Nat) (b : BadSymbols) (row : Nat × Nat × Nat) (s : State) : State :=
  if badLine b then rowDue stack row.1 row.2.1 row.2.2 s
  else if 0 < b.count then scrubRow stack row s else s

/-- SCRUB_READ: the stack's next line is read, corrected and written back, while the stack is refreshed (R188, R190, R194). -/
def execScrubRead (stack : Nat) (b : BadSymbols) (row : Nat × Nat × Nat) (s : State) : Step :=
  if !s.mem.inService.contains stack || s.mem.failed.contains stack || s.mem.lost.contains stack || !refreshRuns stack s ||
      s.dev.state = .haltedThermal
  then .next s
  else .next (scrubNext stack (scrubMark stack b row (scrubDecode stack b (scrubPromote stack s))))

/-- ROW_REPAIR: at a refresh slot of its bank a row that is due is copied to a spare of the bank, while one is left; with none
left it stays in use (R190). -/
def execRowRepair (stack ch bank row : Nat) (s : State) : Step :=
  let key := bankKey stack ch bank
  let n := tget 0 s.stk.spares key
  if 32 ≤ ch || 1024 ≤ bank || !refreshRuns stack s || !s.stk.repairDue.contains (stack, ch, bank, row) then .next s
  else if 8 ≤ n then
    .next { s with stk := { s.stk with repairDue := s.stk.repairDue.filter fun d => d != (stack, ch, bank, row) } }
  else
    .next { s with stk := { s.stk with
      spares := tset 0 s.stk.spares key (n + 1)
      repaired := s.stk.repaired ++ [(stack, ch, bank, row)]
      repairDue := s.stk.repairDue.filter fun d => d != (stack, ch, bank, row) } }

/-! ## Channel failure and lost memory (R191, R199) -/

/-- A stack fails with one of its channels, and is left out from the next package reset on (R187, R191, log 92). -/
def failStack (k ch : Nat) (phy : Bool) (s : State) : State :=
  let s1 := { s with
    mem := { s.mem with failed := setInsert k s.mem.failed, dropped := setInsert k s.mem.dropped }
    stk := { s.stk with channelsFailed := setInsert (chanKey k ch) s.stk.channelsFailed } }
  refreshDegraded (faultU (0x4000 + chanKey k ch) ((if phy then 3 else 2) * 2 ^ 55) s1)

/-- CHANNEL_FAILURE: by more than 16 uncorrectable lines within 1 s, or a PHY that fails to retrain (R191). -/
def execChannelFailure (stack ch : Nat) (phy : Bool) (s : State) : Step :=
  let seen := (tget [] s.stk.uncorrectable (chanKey stack ch)).filter fun t => s.clock.now < t + 1000000000
  if 8 ≤ stack || 32 ≤ ch || s.stk.channelsFailed.contains (chanKey stack ch) || !(phy || 16 < seen.length) then .next s
  else .next (failStack stack ch phy s)

/-- The DRAM range whose stacks are lost: all of it, or in home mode one flank's range. -/
def lostRange (s : State) : Nat × Nat :=
  let cut := stackBytes * (flankStacks .north s).length
  let n := s.mem.lost.any (· < 4)
  let so := s.mem.lost.any (4 ≤ ·)
  if !s.mem.home || (n && so) then (0, topOfDram s) else if n then (0, cut) else (cut, topOfDram s)

/-- Whether a lost stack is back in service: its flank is, and its supplies are in range (R199). -/
def stackBack (k : Nat) (s : State) : Bool :=
  (flankPhase (stackFlank k) s = .inService || flankPhase (stackFlank k) s = .softReset) && !s.pins.pgLow.contains .mem

/-- Every line of the lost stacks is rewritten with POISON 0xFF, once for each loss: what a stack that comes back later holds
has been rewritten with the rest, and nothing reaches it in between (R199). -/
def sweepLost (s : State) : State :=
  if s.mem.swept then s
  else
    let (lo, hi) := lostRange s
    { s with mem := { s.mem with
      dram := tclear s.mem.dram fun a => lo ≤ a && a < hi
      poison := radd (lo / 8) (hi / 8) s.mem.poison
      dir := tclear s.mem.dir fun x => lo ≤ x * 64 && x * 64 < hi } }

/-- LOST_MEMORY_REWRITE: the lines of the lost stacks are rewritten with POISON 0xFF, and access is allowed again to those
stacks that are back in service (R199). -/
def execLostMemoryRewrite (s : State) : Step :=
  let out := s.mem.lost.filter fun k => !stackBack k s
  if out = s.mem.lost then .next s
  else
    let s1 := sweepLost s
    .next { s1 with mem := { s1.mem with lost := out, swept := out != [] } }

end Sys2Proof.Machine
end

