-- ==== Sys2Proof/Machine/Flanks.lean ====
section
/-!
DEFINITION. What takes a flank out of service brings: its compute, memory, links and modules (R39, R199, R200, R397).
-/

namespace Sys2Proof.Machine

/-- The other flank. -/
def otherFlank : Flank → Flank
  | .north => .south
  | .south => .north

/-- Source id of a flank (R414). -/
def flankSource (f : Flank) : Nat := 0xB000 + flankNum f

/-- Exposed clusters of a flank in a graph's placement. -/
def placedOn (g : Graph) (f : Flank) : List Nat :=
  (g.placed.flatMap (·.2)).foldl (fun acc e => if e / 320 = flankNum f then setInsert e acc else acc) []

/-- The parts of an execution on a flank fail: the flank and each of its clusters in the placement (R495). -/
def failFlank (g : Graph) (f : Flank) (cause : Nat) (x : Execution) : Execution :=
  let es := placedOn g f
  if es = [] then x
  else
    let parts := es.foldl (fun l e => addPart ⟨0, e, cause⟩ l) (addPart ⟨1, flankNum f, cause⟩ x.failed)
    { x with work := x.work.filter fun w => w.1 / 320 != flankNum f, failed := parts
             poisoned := es.foldl (fun l e => addPoisoned (outputsOn g e) l) x.poisoned }

/-- Whether a key of clusters (per `m` entries a cluster) lies on a flank. -/
def onFlank (f : Flank) (m key : Nat) : Bool := flankOf (key / m) = f

/-- Clusters, cores, engines and staged weights of a flank restart; its queues are empty with their counters at zero
(R68, R493). -/
def restartCompute (f : Flank) (s : State) : State :=
  let c := s.comp
  { s with
    fab := { s.fab with reqs := s.fab.reqs.filter fun r => match r.engine with
      | some (p, _) => flankOf p != f
      | none => true }
    ports := { s.ports with
      hwin := s.ports.hwin.filter fun h => !(h.cluster < 660 && flankOf h.cluster = f)
      hwinWait := s.ports.hwinWait.filter fun h => !(h.cluster < 660 && flankOf h.cluster = f) }
    comp := { c with
      clusters := tclear c.clusters (onFlank f 1), cores := tclear c.cores (onFlank f 16)
      doneN := if f = .north then [] else c.doneN, doneNc := if f = .north then QCtr.fresh 4096 else c.doneNc
      doneS := if f = .south then [] else c.doneS, doneSc := if f = .south then QCtr.fresh 4096 else c.doneSc }
    mem := { s.mem with
      cm := tclear s.mem.cm (onFlank f (2 ^ 22)), ls := tclear s.mem.ls (onFlank f (2 ^ 22))
      cmPoison := rsub (flankNum f * 330 * 2 ^ 19) ((flankNum f + 1) * 330 * 2 ^ 19) s.mem.cmPoison
      lsPoison := rsub (flankNum f * 330 * 2 ^ 19) ((flankNum f + 1) * 330 * 2 ^ 19) s.mem.lsPoison } }

/-- A Col reset clears the firmware's ends of its queues; every cluster queue stays closed until the flank's ends are
cleared as well (R68). -/
def clearFirmwareEnds (s : State) : State :=
  let c := s.comp
  let shut := (List.range 660).map fun p =>
    (p, { clusterGet p s with closed := true, qc := { (clusterGet p s).qc with pSent := 0, pGranted := 256 } })
  { s with comp := { c with
      clusters := shut
      doneN := [], doneNc := { c.doneNc with cGranted := 4096, cReceived := 0 }
      doneS := [], doneSc := { c.doneSc with cGranted := 4096, cReceived := 0 } } }

/-- Graphs with memory in a lost range become STALE, at once or when their execution has ended (R200). -/
def markStale (lo hi : Nat) (s : State) : State :=
  { s with graphs := { s.graphs with slot := s.graphs.slot.map fun e =>
      if e.2.state.isSome && (e.2.loadHeld ++ e.2.placeHeld).any (fun p => 0 < p.2 && p.1 < hi && lo < p.1 + p.2) then
        (e.1, { e.2 with lost := true, state := if e.2.running.isSome then e.2.state else some .stale })
      else e } }

/-- The requests that wait for the other flank are answered when a flank is lost: at a home that is left, with the line
poisoned where the lost flank held it; at a lost home a read gets poison and a write is lost (R39). -/
def answerWaiting (f : Flank) (s : State) : State :=
  s.mem.recalls.foldl (fun t r =>
    let a := r.line * 64
    if r.answered then t
    else match r.req with
      | .localRead => if homeFlank a t = f then emit (.line a 0 (zeros 64) 0xFF) t else sendLine a 0 t
      | .localWrite _ _ => if homeFlank a t = f then t else dirWrite a r.req t
      | .remoteWriteBack _ _ => t
      | _ => if homeFlank a t = f then emit (.line a 0 (zeros 64) 0xFF) t else t)
    { s with mem := { s.mem with recalls := [] } }

/-- Stacks are lost (R199): accesses wait for their rewriting, both remote-line caches are emptied, lines the lost flank
held as M are poisoned at home, and requests that wait are answered with poison (R39). -/
def loseMemory (f : Flank) (s : State) : State :=
  let ks := if s.mem.home then flankStacks f s else s.mem.inService
  let s1 := { s with mem := { s.mem with
    lost := ks.foldl (fun acc k => setInsert k acc) s.mem.lost, rlc := [], swept := false } }
  let held := s1.mem.dir.filter fun e => e.2 = 2 && homeFlank (e.1 * 64) s1 != f
  let s2 := held.foldl (fun t e => dramTaint (e.1 * 64) 64 (dirSet (e.1 * 64) 0 t)) s1
  let s3 := answerWaiting f s2
  markStale (lostRange s3).1 (lostRange s3).2 s3

/-- A link goes down with its chiplet or flank, with no fault of its own (R37). -/
def linkDown (n : Nat) (s : State) : State :=
  let s1 := leaveLink n s
  lightChiplet (n / 4)
    (refreshDegraded (linkSet n { linkGet n s1 with st := .dark, stAt := s1.clock.now, width := none, test := none } s1))

/-- Links of a flank. -/
def flankLinks (f : Flank) : List Nat := (List.range 16).map (flankNum f * 16 + ·)

/-- Verweust modules of a flank: seam, optical, Col (R396). -/
def flankModules (f : Flank) : List Nat :=
  List.range 64 ++ (List.range 32).map (64 + flankNum f * 32 + ·) ++ (List.range 4).map (128 + flankNum f * 4 + ·)

/-- A module sees no clock: out of service with its retry state gone (R397). -/
def moduleClockLost (m : Nat) (s : State) : State :=
  let x := modGet m s
  if x.state = .out || x.state = .down then s
  else modSet m { x with state := .clockLost, rx := { x.rx with retry := [], nak := false, replays := 0 },
                         tx := { x.tx with retry := [], nak := false, replays := 0 }, retrainTill := none } s

/-- A flank leaves service: its executions' parts fail, its memory is lost, its links and modules go down, its locks are
released, and DEGRADED is set; with the other flank out as well the device is FAULTED (R39, R242, R492). -/
def flankOut (f : Flank) (ph : FlankPhase) (s : State) : State :=
  let was := flankPhase f s
  let s1 := mapRunning (fun g x => failFlank g f Status.unitFenced.code x) (setFlank f ph s)
  if was = .lost || was = .fenced || was = .hardReset then refreshDegraded (setFlank f ph s)
  else
    let s2 := loseMemory f (restartCompute f s1)
    let s3 := (flankLinks f).foldl (fun t n => linkDown n t) s2
    let s4 := (flankModules f).foldl (fun t m => moduleClockLost m t) s3
    let s5 := refreshDegraded (releaseLocks [if f = .north then 5 else 6] s4)
    let o := flankPhase (otherFlank f) s
    if ph != .hardReset && (o = .lost || o = .fenced) then enterFaulted s5 else s5

/-- FLANK_LOSS: the other dies see no clock from a flank (R39). -/
def execFlankLoss (f : Flank) (s : State) : Step :=
  if flankPhase f s = .lost || flankPhase f s = .fenced then .next s else .next (flankOut f .lost s)

/-- A flank is fenced with a class U fault against it (R394, R414, R526). -/
def fenceFlank (f : Flank) (s : State) : State :=
  if flankPhase f s = .fenced then s else flankOut f .fenced (faultUOpen (flankSource f) s)

end Sys2Proof.Machine
end

