-- ==== Sys2Proof/Machine/Heat.lean ====
section
/-!
DEFINITION. Temperature and power (chapter 15): sensors, bands, operating points, the power limiter, slow-down requests,
enforcement, shutdown, and the rails and reference of chapter 21.
-/

namespace Sys2Proof.Machine

/-! ## Operating points (R418, R419) -/

/-- The next point down. -/
def Point.down : Point → Point
  | .low => .low
  | .nom => .low
  | .high => .nom

/-- The next point up. -/
def Point.up : Point → Point
  | .low => .nom
  | .nom => .high
  | .high => .high

/-- The lower of two points. -/
def Point.lower (a b : Point) : Point := if a.code ≤ b.code then a else b

/-- The open request state of a domain. -/
def reqOf (d : Domain) (s : State) : Request := match d with
  | .north => s.therm.reqN
  | .south => s.therm.reqS
  | .package => s.therm.reqP

/-- Replaces the request state of a domain. -/
def setReq (d : Domain) (r : Request) (s : State) : State := match d with
  | .north => { s with therm := { s.therm with reqN := r } }
  | .south => { s with therm := { s.therm with reqS := r } }
  | .package => { s with therm := { s.therm with reqP := r } }

/-- Flanks that a domain enforces (Table 15-4). -/
def domFlanks : Domain → List Flank
  | .north => [.north]
  | .south => [.south]
  | .package => [.north, .south]

/-- Enforcement step of a flank under one domain. -/
def stepUnder (d : Domain) (f : Flank) (s : State) : Nat := match f with
  | .north => (reqOf d s).stepN
  | .south => (reqOf d s).stepS

/-- Sets the step of a flank under one domain. -/
def setStep (d : Domain) (f : Flank) (n : Nat) (s : State) : State :=
  let r := reqOf d s
  setReq d (match f with
    | .north => { r with stepN := n }
    | .south => { r with stepS := n }) s

/-- The domain of a flank. -/
def flankDomain : Flank → Domain
  | .north => .north
  | .south => .south

/-- Enforcement step in force on a flank: the more severe of its own domain's and the Package domain's (R426). -/
def flankStep (f : Flank) (s : State) : Nat := max (stepUnder (flankDomain f) f s) (stepUnder .package f s)

/-- The point a step allows (Table 15-5). -/
def stepPoint (n : Nat) : Point := if n = 0 then .high else if n = 1 then .nom else .low

/-- The rate a step allows (Table 15-5). -/
def stepRate (n : Nat) : Nat :=
  if n < 3 then 16 else if n = 3 then 12 else if n = 4 then 8 else if n = 5 then 4 else if n = 6 then 2 else 1

/-- Whether a flank is held at NOM after its band domain moved to band 4 (R419). -/
def heldNom (f : Flank) (s : State) : Bool := (flankPower f s).band4At.isSome

/-- The point allowed by every source but the ramp of a release (R419). -/
def allowedPoint (f : Flank) (s : State) : Point :=
  let p := Point.lower (Point.lower s.dev.maxPoint s.therm.limPoint) (stepPoint (flankStep f s))
  if heldNom f s then Point.lower p .nom else p

/-- The rate allowed by every source but the ramp (R419). -/
def allowedRate (f : Flank) (s : State) : Nat := min s.therm.limRate (stepRate (flankStep f s))

/-- The point a flank is to reach. -/
def wantedPoint (f : Flank) (s : State) : Point := match (flankPower f s).ramp with
  | some (p, _) => Point.lower p (allowedPoint f s)
  | none => allowedPoint f s

/-- The rate in force. -/
def wantedRate (f : Flank) (s : State) : Nat := match (flankPower f s).ramp with
  | some (_, r) => min r (allowedRate f s)
  | none => allowedRate f s

/-- Requests the next point on the way over the rail control interface, one point at a time (R418, R526). -/
def moveRail (f : Flank) (s : State) : State :=
  let x := flankPower f s
  let want := wantedPoint f s
  if s.therm.railHeld || x.moving.isSome || want = x.point || !fwRuns s then s
  else
    let next := if want.code < x.point.code then x.point.down else x.point.up
    emit (.rail f next.code) (setFlankPower f { x with moving := some next, movedAt := s.clock.now } s)

/-- Clusters of a flank. -/
def allClusters (f : Flank) : List Nat := (List.range 330).map (flankNum f * 330 + ·)

/-- STOP is entered or left: clusters gate as their operations end, or wake with RESUMED owed (R410, R427). -/
def applyStop (f : Flank) (s : State) : State :=
  let x := flankPower f s
  let stop := flankStep f s = 8
  if stop = x.stopped then s
  else if stop then
    (allClusters f).foldl (fun t p => stopGate p t)
      (setFlankPower f { x with stopped := true, stoppedAt := s.clock.now } s)
  else
    (allClusters f).foldl (fun t p => if clusterOut p t then t else wakeCluster p t) (setFlankPower f { x with stopped := false } s)

/-- A flank takes the rate and starts towards the point that its limits allow (R419). -/
def applyLimits (f : Flank) (s : State) : State :=
  let s1 := applyStop f s
  moveRail f (setFlankPower f { flankPower f s1 with rate := wantedRate f s1 } s1)

/-- Both flanks. -/
def applyBoth (s : State) : State := applyLimits .south (applyLimits .north s)

/-- RAIL_MOVE_DONE: the rail reads within 10 mV of the target (R418). -/
def execRailMoveDone (f : Flank) (s : State) : Step :=
  let x := flankPower f s
  match x.moving with
  | none => .next s
  | some p => .next (moveRail f (setFlankPower f { x with point := p, moving := none } s))

/-- RAIL_MOVE_FAILURE: class C, the previous point again; after three within 1 s both flanks are held (R526). -/
def execRailMoveFailure (f : Flank) (s : State) : Step :=
  let x := flankPower f s
  match x.moving with
  | none => .next s
  | some _ =>
    let fails := s.clock.now :: s.therm.railFails.filter fun t => s.clock.now < t + 1000000000
    let held := 3 ≤ fails.length
    let s1 := faultCOpen 0xE007 { s with therm := { s.therm with railFails := fails, railHeld := s.therm.railHeld || held } }
    if held then
      let y := flankPower .north s1
      let s2 := setFlankPower .north { y with moving := none } s1
      let z := flankPower .south s2
      .next (emit (.rail f x.point.code) (setFlankPower .south { z with moving := none } s2))
    else .next (emit (.rail f x.point.code) (setFlankPower f { x with moving := some x.point, movedAt := s1.clock.now } s1))

/-- RCTL_ALERT: recorded as a rail move that failed (R526). -/
def execRctlAlert (s : State) : Step :=
  .next (faultCOpen 0xE007 { s with pins := { s.pins with rctlAlertN := false } })

/-- FLANK_RAIL_OUT_OF_RANGE: the flank is fenced with a class U fault (R526). -/
def execFlankRailOutOfRange (f : Flank) (s : State) : Step := .next (fenceFlank f s)

/-! ## The power limiter (R420–R422) -/

/-- Whether the limiter holds r below 16 at LOW. -/
def lowHolding (s : State) : Bool := s.therm.limPoint = .low && s.therm.limRate < 16

/-- Notes since when the limiter holds r below 16 at LOW (R422). -/
def trackLow (s : State) : State :=
  if lowHolding s then
    { s with therm := { s.therm with lowSince := some (s.therm.lowSince.getD s.clock.now) } }
  else { s with therm := { s.therm with lowSince := none, lowHeld := false } }

/-- Whether the limiter may lower a point again: once per 1 ms (R421). -/
def mayLower (s : State) : Bool := match s.therm.lowerAt with
  | some t => t + 1000000 ≤ s.clock.now
  | none => true

/-- Whether 10 ms have passed since the limiter's last change. -/
def mayRaise (s : State) : Bool := match s.therm.limAt with
  | some t => t + 10000000 ≤ s.clock.now
  | none => true

/-- The highest point of the two flanks. -/
def topPoint (s : State) : Point :=
  if s.therm.north.point.code < s.therm.south.point.code then s.therm.south.point else s.therm.north.point

/-- Records a change of the limiter. -/
def limChange (p : Point) (r : Nat) (s : State) : State :=
  applyBoth { s with therm := { s.therm with limPoint := p, limRate := r, limAt := some s.clock.now } }

/-- Step rate × V² of a point, in the units of Table 3-4's first row and of 0.05 V (R16, R421, log 11). -/
def pointWork : Point → Nat
  | .low => 1550 * (13 * 13)
  | .nom => 2000 * (15 * 15)
  | .high => 2300 * (17 * 17)

/-- Whether the power predicted at the next point up keeps the target: the flank compute share scales by step rate × V², and
every other rail and the guest's allowance stay (R421, log 11). -/
def roomAbove (compute rest : Nat) (p : Point) (s : State) : Bool :=
  compute * pointWork p.up + (rest + 60 + 60) * pointWork p ≤ s.dev.limitW * pointWork p

/-- What the limiter does about a mean: down a point above the target, r down by 2 at LOW; r up by 2, then up a point, with
100 W to spare under the target (R421). -/
def limiterMove (compute rest : Nat) (s : State) : State :=
  let watts := compute + rest + 60
  let l := s.dev.limitW
  let t := s.therm
  if l < watts + 60 then
    if (topPoint s).code != 0 then
      if t.limPoint != .low && mayLower s then
        let s1 := limChange (Point.lower t.limPoint (topPoint s)).down t.limRate s
        { s1 with therm := { s1.therm with lowerAt := some s.clock.now } }
      else s
    else limChange t.limPoint (max 1 (t.limRate - 2)) s
  else if watts + 160 ≤ l && mayRaise s then
    if t.limRate < 16 then limChange t.limPoint (min 16 (t.limRate + 2)) s
    else if t.limPoint != .high && roomAbove compute rest t.limPoint s then limChange t.limPoint.up t.limRate s
    else s
  else s

/-- POWER_LIMITER_TICK: the limiter acts on the trailing 1 ms mean of package power: what the rail sense inputs of VDD_N and
VDD_S, the flank compute share, and those of every other rail but VGST have measured, and 60 W for the guest (R420, R421). -/
def execPowerLimiterTick (x : PowerReading) (s : State) : Step :=
  .next (trackLow (limiterMove x.compute x.rest { s with therm := { s.therm with meanW := x.compute + x.rest + 60 } }))

/-- LIMITER_HELD: r held below 16 at LOW for 1 s; one notice each time LOW_HELD becomes set (R422). -/
def execLimiterHeld (s : State) : Step :=
  match s.therm.lowSince with
  | some t =>
    if t + 1000000000 ≤ s.clock.now && !s.therm.lowHeld then
      .next (notice 0xB (BitVec.ofNat 32 s.therm.meanW) (BitVec.ofNat 64 s.dev.limitW)
        { s with therm := { s.therm with lowHeld := true } })
    else .next s
  | none => .next s

/-! ## Sensors and bands (R412–R415) -/

/-- A run of sensors. -/
def sensors (lo n : Nat) : List Nat := (List.range n).map (lo + ·)

/-- The part a sensor that is not a cluster's stands for: its source id and all its sensors (R414). -/
def partOf (j : Nat) : Nat × List Nat :=
  if j < 778 then (0xB000, sensors 660 118) else if j < 896 then (0xB001, sensors 778 118)
  else if j < 960 then (0x5000 + (j - 896) / 8, sensors (896 + (j - 896) / 8 * 8) 8)
  else if j < 992 then (0x9000 + (j - 960) / 4, sensors (960 + (j - 960) / 4 * 4) 4)
  else if j < 1000 then (0xA000 + (j - 992) * 36, [j])
  else if j < 1008 then (0xA200 + (j - 1000) / 2 * 160, sensors (1000 + (j - 1000) / 2 * 2) 2)
  else if j < 1020 then (0xE000, sensors 1008 12) else (0xE001, sensors 1020 4)

/-- Enforcement domain of a sensor (Table 15-4). -/
def sensorDomain (j : Nat) : Option Domain :=
  if j < 330 then some .north else if j < 660 then some .south else if j < 778 then some .north
  else if j < 896 then some .south else if j < 928 then some .north else if j < 960 then some .south
  else if j < 976 then some .north else if j < 992 then some .south else if j < 1008 then none
  else if j < 1024 then some .package else none

/-- Sensors of an enforcement domain. -/
def domainSensors : Domain → List Nat
  | .north => sensors 0 330 ++ sensors 660 118 ++ sensors 896 32 ++ sensors 960 16
  | .south => sensors 330 330 ++ sensors 778 118 ++ sensors 928 32 ++ sensors 976 16
  | .package => sensors 1008 16

/-- The band after a reading, less 1: entered at 55, 75 and 95 °C, left 3 °C below (R415). -/
def bandAfter (old : Nat) (r : Int) : Nat :=
  let up := if 95 * 16 ≤ r then 3 else if 75 * 16 ≤ r then 2 else if 55 * 16 ≤ r then 1 else 0
  let stay := if 92 * 16 ≤ r then 3 else if 72 * 16 ≤ r then 2 else if 52 * 16 ≤ r then 1 else 0
  if old ≤ up then up else min old stay

/-- Sensors of the hotter-end rule of a Verweust module (Table 15-2). -/
def moduleSensors (m : Nat) : List Nat :=
  if m < 64 then sensors 660 118 ++ sensors 778 118
  else if m < 128 then
    sensors (if (m - 64) / 8 < 4 then 660 else 778) 118 ++ sensors (960 + (m - 64) / 8 * 4) 4
  else if m < 136 then sensors (if m < 132 then 660 else 778) 118 ++ sensors 1008 12
  else if m < 140 then sensors 1008 12
  else sensors 1008 16

/-- Domains held in `bands` that a sensor belongs to, with their sensors. -/
def sensorBands (j : Nat) : List (Nat × List Nat) :=
  let mods := (List.range 141).filter fun m => (moduleSensors m).contains j
  (if 896 ≤ j && j < 992 || 992 ≤ j then
    (if j < 960 then [((j - 896) / 8, (partOf j).2)]
     else if j < 992 then [(32 + (j - 960) / 4, (partOf j).2)]
     else if j < 1000 then [(16 + (j - 992), (partOf j).2)]
     else if j < 1008 then [(24 + (j - 1000) / 2, (partOf j).2)]
     else if j < 1020 then [] else [(28, (partOf j).2)])
   else []) ++ mods.map fun m => (64 + m, moduleSensors m)

/-- The band domain of a flank's light layer is evaluated (R104, R415, R419). -/
def lightBand (f : Flank) (s : State) : State :=
  let x := flankPower f s
  match hottest (sensors (flankNum f * 330) 330) s with
  | none => s
  | some r =>
    let b := bandAfter x.band r
    if b = x.band then s
    else
      let s1 := setFlankPower f { x with band := b, band4At := if b = 3 then some s.clock.now else x.band4At } s
      applyLimits f { s1 with banks := { s1.banks with target := tset 0 s1.banks.target (flankNum f) b } }

/-- A module's sampling offsets wait for its next empty slot in each direction; a further change supersedes one that still
waits (R390, R447). -/
def emptyWanted (m : Nat) (s : State) : State :=
  let x := modGet m s
  let due := fun (y : D2dDir) => { y with emptyDue := some (y.emptyDue.getD s.clock.now) }
  modSet m { x with rx := due x.rx, tx := due x.tx } s

/-- Every band domain of a sensor is evaluated at its sample. -/
def evalBands (j : Nat) (s : State) : State :=
  let s1 := if j < 660 then lightBand (flankOf j) s else s
  (sensorBands j).foldl (fun t d =>
    match hottest d.2 t with
    | none => t
    | some r =>
      let was := tget 0 t.therm.bands d.1
      let now := bandAfter was r
      let u := { t with therm := { t.therm with bands := tset 0 t.therm.bands d.1 now } }
      if now != was && 64 ≤ d.1 then emptyWanted (d.1 - 64) u else u) s1

/-! ## Laser zones (R428) -/

/-- A laser chiplet is turned off: its lasers dark with a class U fault each that was lit, or one against its first
primary; its links down, or its banks fenced (R303, R116). -/
def chipletOff (chip : Nat) (s : State) : State :=
  if s.therm.zoneOff.contains chip then s
  else
    let first := if chip < 8 then chip * 36 else 0x200 + (chip - 8) * 160
    let lit := (chipLasers chip).any fun i => (laserGet i s).lit
    let s1 := if lit then s else faultUOpen (0xA000 + first) s
    let s2 := if chip < 8 then linkChipletOut chip s1 else combChipFail (chip - 8) s1
    refreshDegraded { s2 with therm := { s2.therm with zoneOff := setInsert chip s2.therm.zoneOff } }

/-! ## Implausible sensors (R414) -/

/-- A part all of whose sensors are excluded is fenced. -/
def fencePart (src : Nat) (s : State) : State :=
  let s1 := { s with therm := { s.therm with partsFenced := setInsert src s.therm.partsFenced } }
  if src / 4096 = 5 then
    refreshDegraded (stackGone (src % 4096) (faultUOpen src s1))
  else if src / 4096 = 9 then
    (List.range 4).foldl (fun t i => linkDown (src % 4096 * 4 + i) t) (faultUOpen src s1)
  else if src / 4096 = 10 then
    let i := src % 4096
    chipletOff (if i < 0x120 then i / 36 else 8 + (i - 0x200) / 160) (faultUOpen src s1)
  else if src / 4096 = 11 then fenceFlank (flankOfNum (src % 2)) s1
  else faultXOpen src s1

/-- A sensor reads implausibly: it is excluded; a cluster's fails its cluster, another's part has a class C fault, and
a part with no sensor left is fenced. -/
def excludeSensor (j : Nat) (reading : Int) (s : State) : State :=
  let s1 := sensorSet j { sensorGet j s with excluded := true, reading := reading, sampled := true, at_ := s.clock.now } s
  if j < 660 then failCluster j s1
  else
    let (src, js) := partOf j
    let s2 := faultC src j s1
    if js.all (fun k => (sensorGet k s2).excluded) && !s2.therm.partsFenced.contains src then fencePart src s2 else s2

/-- Whether a reading is implausible (R414). -/
def implausible (x : Sensor) (r : Int) : Bool :=
  r < -55 * 16 || 150 * 16 < r || (x.sampled && 320 < (r - x.reading).natAbs)

/-! ## Slow-down requests (R423–R427) -/

/-- The throttle threshold in 1/16 °C. -/
def thr16 (s : State) : Int := (s.therm.threshold : Int) * 16

/-- Posts THERMAL_REQUEST for a domain (R274). -/
def requestNotice (d : Domain) (s : State) : State :=
  let r := reqOf d s
  let s1 := notice 1 r.id (BitVec.ofNat 64 (r.sensor + 65536 * signed 16 r.reading + 2 ^ 32 * r.grace)) s
  setReq d { reqOf d s1 with noticeAt := s1.clock.now } s1

/-- Opens a request (R424). -/
def openRequest (d : Domain) (j : Nat) (reading : Int) (s : State) : State :=
  let id := s.therm.lastId + 1
  let s1 := { s with therm := { s.therm with lastId := id } }
  requestNotice d (setReq d { id := id, opened := true, sensor := j, reading := reading, grace := s.therm.graceMs,
                              openedAt := s.clock.now } s1)

/-- The first step above `n` that a flank does not already satisfy (R426). -/
def nextStep (f : Flank) (n : Nat) (s : State) : Nat :=
  let x := flankPower f s
  let p := (match x.moving with
    | some q => q
    | none => x.point).code
  let sat := fun k => k < 8 && p ≤ (stepPoint k).code && x.rate ≤ stepRate k
  ((List.range 9).find? fun k => n < k && !sat k).getD 8

/-- Every flank of a domain takes its next step. -/
def stepDown (d : Domain) (s : State) : State :=
  (domFlanks d).foldl (fun t f => applyLimits f
    (let u := setFlankPower f { flankPower f t with ramp := none } t
     setStep d f (nextStep f (stepUnder d f u) u) u)) s

/-- Enforcement starts: the first step at once (R426). -/
def startEnforce (d : Domain) (s : State) : State :=
  let r := reqOf d s
  stepDown d (setReq d { r with enforcing := true, graceOver := true, gridAt := s.clock.now, gridN := 0 } s)

/-- A sample against the throttle threshold of its domain (R423–R425). -/
def judgeDomain (d : Domain) (j : Nat) (reading : Int) (s : State) : State :=
  let r := reqOf d s
  let s1 :=
    if reading < thr16 s then s
    else if !r.opened then openRequest d j reading s
    else if r.graceOver && !r.enforcing then startEnforce d s
    else s
  let q := reqOf d s1
  let cool := match hottest (domainSensors d) s1 with
    | some v => decide (v < thr16 s1 - 80)
    | none => false
  setReq d { q with coolSince := if cool then some (q.coolSince.getD s1.clock.now) else none } s1

/-- SENSOR_SAMPLE: plausibility, sampling rate, bands, laser zones, throttle threshold and trip (R413–R429). -/
def execSensorSample (j : Nat) (reading : Int) (s : State) : Step :=
  let x := sensorGet j s
  if 1024 ≤ j || x.excluded || s.dev.state = .haltedThermal then .next s
  else if implausible x reading then .next (excludeSensor j reading s)
  else
    let fast := decide (thr16 s - 128 ≤ reading) || decide (117 * 16 ≤ reading) || (x.sampled && decide (64 ≤ reading - x.reading))
    let hot := decide (125 * 16 ≤ reading)
    let y : Sensor := { x with
      reading := reading, sampled := true, at_ := s.clock.now
      fast := fast || (x.fast && s.clock.now < x.fastAt + 100000000), fastAt := if fast then s.clock.now else x.fastAt
      trip := if hot then some reading else none }
    let s1 := sensorSet j y s
    let s2 := match x.trip with
      | some r1 => if hot && s1.therm.tripDue.isNone then { s1 with therm := { s1.therm with tripDue := some (j, r1, reading) } } else s1
      | none => s1
    let s3 := evalBands j s2
    let s4 := if 992 ≤ j && j < 1008 && decide (115 * 16 ≤ reading) then
        chipletOff (if j < 1000 then j - 992 else 8 + (j - 1000) / 2) s3 else s3
    .next (match sensorDomain j with
      | some d => judgeDomain d j reading s4
      | none => s4)

/-- Whether a domain's hottest sensor is at the threshold. -/
def domainHot (d : Domain) (s : State) : Bool := match hottest (domainSensors d) s with
  | some v => decide (thr16 s ≤ v)
  | none => false

/-- GRACE_EXPIRY: at the end of the grace period enforcement starts if the domain is still at the threshold (R424). -/
def execGraceExpiry (dom : Domain) (s : State) : Step :=
  let r := reqOf dom s
  if !r.opened || r.graceOver || s.clock.now < r.openedAt + r.grace * 1000000 then .next s
  else
    let s1 := setReq dom { r with graceOver := true } s
    .next (if domainHot dom s1 then startEnforce dom s1 else s1)

/-- ENFORCEMENT_GRID: at each 5 ms grid point a domain still at the threshold takes one further step (R426). -/
def execEnforcementGrid (dom : Domain) (s : State) : Step :=
  let r := reqOf dom s
  if !r.enforcing || s.clock.now < r.gridAt + (r.gridN + 1) * 5000000 then .next s
  else
    let s1 := setReq dom { r with gridN := r.gridN + 1 } s
    .next (if domainHot dom s1 then stepDown dom s1 else s1)

/-- The ramp of a release takes one step: r first, then the point, until nothing is left (R421, R425). -/
def rampStep (f : Flank) (s : State) : State :=
  let x := flankPower f s
  match x.ramp with
  | none => s
  | some (p, r) =>
    let next : Point × Nat := if r < min 16 (allowedRate f s) then (p, min 16 (r + 2)) else (p.up, r)
    let done := (allowedPoint f s).code ≤ next.1.code && allowedRate f s ≤ next.2
    applyLimits f (setFlankPower f { x with ramp := if done then none else some next, rampAt := s.clock.now } s)

/-- THERMAL_RELEASE: 100 ms below the threshold less 5 °C: enforcement ends, and the flanks are raised by the limiter's
pace (R425). -/
def execThermalRelease (dom : Domain) (s : State) : Step :=
  let r := reqOf dom s
  match r.coolSince with
  | none => .next s
  | some t =>
    if !r.opened || s.clock.now < t + 100000000 then .next s
    else
      let s1 := notice 2 r.id 0 s
      let s2 := { s1 with therm := { s1.therm with released := s1.therm.released ++ [r.id] } }
      let held := (domFlanks dom).filter fun f => stepUnder dom f s2 != 0
      let s3 := held.foldl (fun u f =>
        setFlankPower f { flankPower f u with ramp := some ((flankPower f u).point, (flankPower f u).rate) } u) s2
      let s4 := setReq dom { reqOf dom s3 with opened := false, enforcing := false, stepN := 0, stepS := 0 } s3
      .next (held.foldl (fun u f => rampStep f u) s4)

/-- RELEASE_RAMP_TIMER: each 10 ms the flanks being raised take one step (R425). -/
def execReleaseRampTimer (s : State) : Step :=
  .next ([Flank.north, .south].foldl (fun t f =>
    if (flankPower f t).ramp.isSome && (flankPower f t).rampAt + 10000000 ≤ t.clock.now then rampStep f t else t) s)

/-- BAND4_NOM_HOLD_END: 1 s after the move to band 4 (R419). -/
def execBand4NomHoldEnd (f : Flank) (s : State) : Step :=
  let x := flankPower f s
  match x.band4At with
  | some t =>
    if t + 1000000000 ≤ s.clock.now then .next (applyLimits f (setFlankPower f { x with band4At := none } s)) else .next s
  | none => .next s

/-- THERMAL_NOTICE_REPEAT: an open request not acknowledged is posted again each 100 ms (R274). -/
def execThermalNoticeRepeat (dom : Domain) (s : State) : Step :=
  let r := reqOf dom s
  if r.opened && !r.acked && r.noticeAt + 100000000 ≤ s.clock.now then .next (requestNotice dom s) else .next s

/-! ## Dark lasers, shutdown and lost supplies (R429, R430, R492, R528) -/

/-- Every laser goes dark: lasers that are lit, by instance. -/
def litLasers (s : State) : List Nat := (s.las.laser.filter fun e => e.2.lit).map (·.1)

/-- Turns every laser off: links down, ports DOWN, every P_RUN that has not retired discarded (R99). -/
def allDark (s : State) : State :=
  let s0 := (List.range 16).foldl (fun t i => discardRuns (i / 4) (i % 4) t) s
  let s1 := (litLasers s0).foldl (fun t i => laserOff i t) s0
  let s2 := (List.range 32).foldl (fun t n => if (linkGet n t).st = .dark then t else linkDown n t) s1
  portDown .cp1 (portDown .cp0 s2)

/-- THERMAL_SHUTDOWN: two samples at 125 °C or more: the record is latched, everything goes dark, HALTED_THERMAL (R429,
R430). -/
def execThermalShutdown (s : State) : Step :=
  match s.therm.tripDue with
  | none => .next s
  | some (j, r1, r2) =>
    if s.dev.state = .haltedThermal then .next s
    else
      let s1 := { s with
        therm := { s.therm with latched := some (j, r1, r2, s.clock.now), tripDue := none }
        pins := { s.pins with gstRstN := false }
        dev := { s.dev with state := .haltedThermal }
        cairn := if s.cairn.state = .taking then { seen := s.cairn.seen } else s.cairn }
      .next (allDark s1)

/-- REFCLK_LOSS: class X against 0xE006, every laser off, refresh stopped and all DRAM lost (R528). -/
def execRefclkLoss (s : State) : Step :=
  if !s.pins.refclk || !s.pins.rstN then .next s
  else
    let s1 := faultXOpen 0xE006 { s with pins := { s.pins with refclk := false } }
    .next (loseMemory .south (loseMemory .north (allDark s1)))

end Sys2Proof.Machine
end

