-- ==== Sys2Proof/Machine/D2d.lean ====
section
/-!
DEFINITION. Verweust modules and groups (chapter 14): slots, retry, the sideband, link-up, retrain, repair, half width,
group minima and the loss of a far die. Direction 0 of a module is the one in which the end with the lower position
code receives.
-/

namespace Sys2Proof.Machine

/-! ## The ends of a module -/

/-- Position codes of the two ends of a module, the lower first (Table 2-5). -/
def modEnds (m : Nat) : Nat × Nat :=
  if m < 64 then (0x10, 0x11) else if m < 128 then (0x10 + (m - 64) / 32, 0x30 + (m - 64) / 8)
  else if m < 132 then (0x00, 0x10) else if m < 136 then (0x00, 0x11) else if m < 140 then (0x00, 0x02) else (0x00, 0x01)

/-- The end that receives in a direction. -/
def receiverEnd (m d : Nat) : Nat := if d = 0 then (modEnds m).1 else (modEnds m).2

/-- The syndrome of a module fault: the end that reports, which receives, and the wire or 0x7F (R396, log 29). -/
def modSyndrome (m d wire : Nat) : Nat := receiverEnd m d + wire * 512

/-- Source id of a module (R396). -/
def modSource (m : Nat) : Nat := 0x6000 + m

/-! ## Slots (R381, R382, R384) -/

/-- One bit of the CRC-16 (R381). -/
def crc16Bit (c : Nat) (b : Bool) : Nat :=
  let x := c * 2 % 65536
  if (decide (32768 ≤ c)) != b then x ^^^ 0x1021 else x

/-- The CRC-16 of a slot: V, K and P, then f[0] to f[255] (R381). -/
def slotCrc (x : D2dSlot) : BitVec 16 :=
  BitVec.ofNat 16 (([x.v, x.k, x.p] ++ (List.range 256).map fun i => x.flit.getLsbD i).foldl crc16Bit 0xFFFF)

/-- Whether the retry buffers of a module let a retrain go on: both empty, or a buffer that eight replays could not move
(R384, R390). -/
def retrainReady (x : Module) : Bool := (x.rx.retry = [] || 8 ≤ x.rx.replays) && (x.tx.retry = [] || 8 ≤ x.tx.replays)

/-- Whether a module carries slots: in service, or quiescing for a retrain with flits unacknowledged (R390). -/
def carriesSlots (x : Module) : Bool := x.state = .active || (x.state = .retrain && !retrainReady x)

/-- Flits the transmitter may hold unacknowledged: RETRY_DEPTH − 1 (R384). -/
def retryRoom (m d : Nat) (s : State) : Bool := (dirGet m d s).retry.length + 1 < (modGet m s).depth

/-- The sequence number of the flit in a slot: the next of a replay in progress, else the next new one. -/
def slotSeq (y : D2dDir) : BitVec 7 := y.seq - BitVec.ofNat 7 y.left

/-- The transmitter has sent a flit: one of its replay, or a new one that it keeps (R384). -/
def flitSent (now : Nat) (x : D2dSlot) (y : D2dDir) : D2dDir :=
  if 0 < y.left then { y with left := y.left - 1 }
  else { y with seq := y.seq + 1, retry := y.retry ++ [(x.flit, x.p)], ackAt := if y.retry = [] then now else y.ackAt }

/-- Band, less 1, of the domain of a module (R415). -/
def moduleBand (m : Nat) (s : State) : Nat := tget 0 s.therm.bands (64 + m)

/-- The sampling offset in force of a module direction, and its deskew of a wire, in 1/32 UI (R390, R439). -/
def samplingNow (m d : Nat) (s : State) : Int :=
  (dirGet m d s).sampling.2.getD (Config.samplingOffset (2 * m + d) (dirGet m d s).sampling.1)

/-- The deskew in force of a physical wire of a module direction. -/
def deskewNow (m d wire : Nat) (s : State) : Int :=
  (tget none (dirGet m d s).deskew wire).getD (Config.deskew (2 * m + d) wire)

/-- An empty slot passes: a pending correction takes effect, which is the sampling offset set of the module's band (R390,
R447). -/
def emptyPasses (m : Nat) (y : D2dDir) (s : State) : D2dDir :=
  if y.emptyDue.isSome then { y with emptyDue := none, sampling := (moduleBand m s, none) } else y

/-- The trims that a retrain applies: by how much it corrects them the spec does not say, so they are free within the ranges
of Table 16-4 (R390, log 112). -/
def retrainTrims (m d : Nat) (s : State) : State :=
  let v := Config.freeNat s.free
  let y := dirGet m d s
  putDir m d { y with
    sampling := (moduleBand m s, some (toSigned 4 (bitsOf v 3 0)))
    deskew := (List.range 73).map fun w => (w, some (toSigned 6 (bitsOf v (6 * w + 9) (6 * w + 4)))) } { s with free := s.free + 1 }

/-- A direction that links up starts again from its record, with the offsets of the module's band (R387, R439). -/
def recordTrims (m : Nat) (y : D2dDir) (s : State) : D2dDir := { y with sampling := (moduleBand m s, none), deskew := [] }

/-- Adds one to a group's flit count (R393). -/
def groupFlit (m : Nat) (s : State) : State :=
  { s with d2d := { s.d2d with flits := tmod 0 s.d2d.flits (moduleGroup m) (· + 1) } }

/-- The acknowledgement word of a direction's receiver: ACK_SEQ, NAK and their CRC-8 (R383). -/
def ackWord (y : D2dDir) : BitVec 16 :=
  let low := (y.expect - 1).toNat + 128 * bit y.nak
  BitVec.ofNat 16 (low + 256 * crc8 8 low)

/-- At every slot of a direction whose counter is a multiple of 16, a new acknowledgement word of the other direction begins in
its A bits (R383). -/
def ackBegins (m d : Nat) (s : State) : State :=
  if (dirGet m d s).slot.toNat % 16 = 0 then emit (.ack m (1 - d) (ackWord (dirGet m (1 - d) s))) s else s

/-- The receiver takes one slot: a bad one, and every later flit until a replay begins, is discarded with NAK; a good
flit in sequence is accepted (R384). -/
def slotTaken (m d : Nat) (x0 : D2dSlot) (s0 : State) : State :=
  let forced := forcedD (modSource m) 0 s0 && x0.v
  let x := { x0 with p := x0.p || forced }
  let s := if forced then forcedDone (modSource m) 0 s0 else s0
  let y := dirGet m d s
  let good := slotCrc x0 = x0.crc
  let carries := x.v && (0 < y.left || ((modGet m s).state = .active && retryRoom m d s))
  let sent := if carries then flitSent s.clock.now x y else y
  let z := if x.v then { sent with slot := y.slot + 1 } else emptyPasses m { sent with slot := y.slot + 1 } s
  if !good then putDir m d { z with nak := true } s
  else if carries && !x.k && !y.nak && slotSeq y = y.expect then
    groupFlit m (putDir m d { z with expect := y.expect + 1, merged := y.merged + 1 } s)
  else putDir m d z s

/-- D2D_SLOT_RECEIVE (R381, R384). -/
def execD2dSlotReceive (m d : Nat) (x : D2dSlot) (s : State) : Step :=
  if 141 ≤ m || 2 ≤ d || !carriesSlots (modGet m s) || (dirGet m d s).noRecord then .next s
  else .next (slotTaken m d x (ackBegins m d s))

/-! ## Group capacity and weights (R393–R395) -/

/-- Weight a module should have: 2, 1 at half width, 0 out of service or in a retrain (R393). -/
def wantedWeight (m : Nat) (s : State) : Nat :=
  let x := modGet m s
  if x.state != .active || x.rx.noRecord || x.tx.noRecord then 0 else if x.rx.half || x.tx.half then 1 else 2

/-- A group takes its wanted weights. -/
def setWeights (g : Nat) (s : State) : State :=
  (groupModules g).foldl (fun t m => { t with d2d := { t.d2d with weight := tset 0 t.d2d.weight m (wantedWeight m t) } }) s

/-- The transmitter names a flit count for new weights, 256 ahead; a group that carries nothing takes them at once
(R393). -/
def restripe (g : Nat) (s : State) : State :=
  let ms := groupModules g
  if ms.all fun m => tget 0 s.d2d.weight m = wantedWeight m s then
    { s with d2d := { s.d2d with changeAt := tset none s.d2d.changeAt g none } }
  else if ms.all fun m => tget 0 s.d2d.weight m = 0 then setWeights g s
  else { s with d2d := { s.d2d with changeAt := tset none s.d2d.changeAt g (some (tget 0 s.d2d.flits g + 256)) } }

/-- WEIGHT_CHANGE: the named group flit count has come (R393). -/
def execWeightChange (g : Nat) (s : State) : Step :=
  match tget none s.d2d.changeAt g with
  | none => .next s
  | some n =>
    if tget 0 s.d2d.flits g < n then .next s
    else .next (setWeights g { s with d2d := { s.d2d with changeAt := tset none s.d2d.changeAt g none } })

/-! ## The guest is fenced (R406) -/

/-- What the fencing of the guest brings: FENCE goes out, its reset is asserted, its modules go down, its locks and
mailboxes are reset (R406). -/
def guestOut (s : State) : State :=
  if s.part.guest.isNone || s.guest.fenced then s
  else
    let s1 := { s with guest := { s.guest with fenced := true }, pins := { s.pins with gstRstN := false } }
    let s2 := emit (.sideband 136 (sbWord 0x09 0 0 (modGet 136 s1).sbSeq.toNat)) s1
    let s3 := (groupModules 18).foldl (fun t m => modSet m { modGet m t with state := .down } t) s2
    releaseLocks [4] (mbxGuestResetEnd (mbxGuestResetBegin s3))

/-- The guest is fenced, with a class U fault against it (R406). -/
def fenceGuest (s : State) : State :=
  if s.part.guest.isNone || s.guest.fenced then s else faultUOpen 0xC000 (guestOut s)

/-- GUEST_FENCE (R406). -/
def execGuestFence (s : State) : Step := .next (fenceGuest s)

/-! ## What a group does below its needs (R394, R395) -/

/-- Healthy exposed clusters of a flank. -/
def healthyExposed (f : Flank) (s : State) : Nat :=
  ((List.range 320).filter fun i => !exposedFenced (flankNum f * 320 + i) s).length

/-- The flank that a failed seam group costs: the one with fewer healthy exposed clusters, South on a tie. -/
def seamLoser (s : State) : Flank := if healthyExposed .north s < healthyExposed .south s then .north else .south

/-- An optical chiplet is fenced: class U against it, its four links down (R394). -/
def fenceOptical (n : Nat) (s : State) : State :=
  if isFenced (0x9000 + n) 0 s then s
  else (List.range 4).foldl (fun t i => linkDown (n * 4 + i) t) (faultUOpen (0x9000 + n) s)

/-- Both control ports stay down. -/
def portsOut (s : State) : State := portOut .cp1 (portOut .cp0 s)

/-- The port chiplet is fenced: both control ports stay down (R394). -/
def fencePorts (s : State) : State := if isFenced 0xE001 0 s then s else portsOut (faultUOpen 0xE001 s)

/-- Judges a group by its capacity (Table 14-6). -/
def judgeGroup (g : Nat) (s : State) : State :=
  let c := groupCapacity g s
  if g < 8 then
    (if c < 512 && s.dev.north = .inService && s.dev.south = .inService then fenceFlank (seamLoser s) s else s)
  else if g < 16 then
    (if c < 800 then fenceOptical (g - 8) s else if c < 1600 then narrowOptical (g - 8) s else s)
  else if g < 18 then (if c < 128 then fenceFlank (flankOfNum (g - 16)) s else s)
  else if g = 18 then (if c < 128 then fenceGuest s else s)
  else if c < 128 then fencePorts s else s

/-- A module's service has changed: its group restripes and is judged, and DEGRADED follows. -/
def moduleChanged (m : Nat) (s : State) : State :=
  refreshDegraded (judgeGroup (moduleGroup m) (restripe (moduleGroup m) s))

/-- A module is out of service with a class U fault against it (R389, R386, R392). -/
def moduleOut (m d wire : Nat) (s : State) : State :=
  moduleChanged m (faultU (modSource m) (modSyndrome m d wire) (modSet m { modGet m s with state := .out } s))

/-! ## Sideband messages unanswered (R386) -/

/-- SIDEBAND_RETRY_TIMER: a message unanswered for 10 µs is repeated; after eight attempts the module is out (R386). -/
def execSidebandRetryTimer (m : Nat) (seq : BitVec 8) (s : State) : Step :=
  let x := modGet m s
  match x.sbWait.find? fun w => w.seq = seq with
  | none => .next s
  | some w =>
    if 141 ≤ m || s.clock.now < w.sentAt + 10000 then .next s
    else if w.attempts < 8 then
      .next (emit (.sideband m w.word) (modSet m { x with sbWait := x.sbWait.map fun y =>
        if y.seq = seq then { y with sentAt := s.clock.now, attempts := y.attempts + 1 } else y } s))
    else .next (moduleOut m 0 0x7F (modSet m { x with sbWait := x.sbWait.filter fun y => y.seq != seq } s))

/-! ## Retry (R383, R384) -/

/-- Starts a retrain of 2 µs: the group stops striping to the module, and what the module's transmitters hold is
acknowledged before it ends (R390, R393). -/
def startRetrain (m : Nat) (s : State) : State :=
  let x := modGet m s
  if x.state != .active then s
  else restripe (moduleGroup m) (modSet m { x with state := .retrain, retrainTill := some (s.clock.now + 2000) } s)

/-- This end asks for a retrain: the far end is told by RETRAIN (R390). -/
def callRetrain (m : Nat) (s : State) : State :=
  if (modGet m s).state = .active then startRetrain m (sbSend m 0x06 0 0 s) else s

/-- The transmitter replays every flit it holds; the eighth replay in a row without an advance retrains the module. -/
def replay (m d : Nat) (s : State) : State :=
  let y := dirGet m d s
  let n := y.replays + 1
  let s1 := putDir m d { y with left := y.retry.length, replays := n, nak := false, ackAt := s.clock.now } s
  if 8 ≤ n then callRetrain m s1 else s1

/-- D2D_ACK_WORD: ACK_SEQ frees the retry buffer, NAK replays; a word with a bad check is ignored (R383, R384). -/
def execD2dAckWord (m d : Nat) (w : BitVec 16) (s : State) : Step :=
  let y := dirGet m d s
  if 141 ≤ m || 2 ≤ d || !carriesSlots (modGet m s) || crc8 8 (w.toNat % 256) != w.toNat / 256 then .next s
  else
    let first := y.seq - BitVec.ofNat 7 y.retry.length
    let n := ((w.setWidth 7) - first + 1).toNat
    let k := if n ≤ y.retry.length then n else 0
    let s1 := if k = 0 then s else putDir m d { y with
      retry := y.retry.drop k, left := min y.left (y.retry.length - k), ackAt := s.clock.now, replays := 0 } s
    .next (if w.getLsbD 7 then replay m d s1 else s1)

/-- D2D_RETRY_TIMER: ACK_SEQ has not advanced for 32 ns, or 64 ns at half width, with flits unacknowledged (R384). -/
def execD2dRetryTimer (m d : Nat) (s : State) : Step :=
  let y := dirGet m d s
  if 141 ≤ m || 2 ≤ d || !carriesSlots (modGet m s) || y.retry = [] ||
      s.clock.now < y.ackAt + (if y.half then 64 else 32)
  then .next s
  else .next (replay m d s)

/-- EMPTY_SLOT_INSERT: a correction has waited 1 µs for an empty slot and the transmitter inserts one (R447). -/
def execEmptySlotInsert (m d : Nat) (s : State) : Step :=
  let y := dirGet m d s
  match y.emptyDue with
  | none => .next s
  | some t =>
    if 141 ≤ m || 2 ≤ d || (modGet m s).state != .active || s.clock.now < t + 1000 then .next s
    else .next (emit (.slot m d true) (putDir m d (emptyPasses m { y with slot := y.slot + 1 } s) s))

/-! ## Repair and retrain (R390–R392) -/

/-- A direction at the end of a retrain or link-up: slot counter and sequence from 0, at half width where more wires are mapped
than there are spares (R380); flits not acknowledged go again. -/
def restartDir (y : D2dDir) : D2dDir :=
  { y with half := y.half || 4 < y.repair.length, seq := BitVec.ofNat 7 y.retry.length, expect := 0, left := y.retry.length, nak := false, replays := 0, slot := 0 }

/-- Wires that a retrain test adds to the map: four errors, or errors in two tests in a row (R391). -/
def wiresToMap (y : D2dDir) (errs : List (Nat × Nat)) : List Nat :=
  ((errs.filter fun e => e.1 < 73 && !y.repair.contains e.1 && (4 ≤ e.2 || (1 ≤ e.2 && y.suspect.contains e.1))).map (·.1)).dedup

/-- Adds a wire to the repair map: REPAIR to the transmitter and a class C fault (R391). -/
def mapWire (m d wire : Nat) (s : State) : State :=
  let y := dirGet m d s
  let s1 := putDir m d { y with repair := setInsert wire y.repair } s
  faultC (modSource m) (modSyndrome m d wire) (sbSend m 0x05 (y.repair.length % 8) (wire + 128) s1)

/-- Takes a wire off the repair map at link-up, with a record (R391). -/
def unmapWire (m d wire : Nat) (s : State) : State :=
  let y := dirGet m d s
  if y.repair.contains wire then
    faultC (modSource m) (modSyndrome m d wire)
      (sbSend m 0x05 0 wire (putDir m d { y with repair := setErase wire y.repair } s))
  else s

/-- The width of a direction after its map has changed: half width beyond four mapped wires (R392). -/
def fitWidth (m d wire : Nat) (s : State) : State :=
  let y := dirGet m d s
  if y.half || y.repair.length ≤ 4 then s
  else faultUKept (modSource m) (modSyndrome m d wire) (putDir m d { y with half := true } s)

/-- Whether a direction has fewer healthy wires than half width needs (R380). -/
def tooFewWires (m d : Nat) (s : State) : Bool := 38 < (dirGet m d s).repair.length

/-- MODULE_RETRAIN: the wires of one direction are tested, the repair map is applied and the module is back (R390–R392).
A retrain of the background ends 2 µs after it began. -/
def moduleRetrained (m d : Nat) (errs : List (Nat × Nat)) (s : State) : State :=
  let y := dirGet m d s
  let new := wiresToMap y errs
  let s1 := putDir m d { y with suspect := (errs.filter fun e => 1 ≤ e.2 && e.1 < 73).map (·.1) } s
  let s2 := new.foldl (fun t w => fitWidth m d w (mapWire m d w t)) s1
  if tooFewWires m d s2 then moduleOut m d (new.headD 0x7F) s2
  else
    let s3 := retrainTrims m 1 (retrainTrims m 0 s2)
    let x := modGet m s3
    moduleChanged m (modSet m { x with
      state := .active, retrainTill := none, recalAt := s.clock.now, urgent := false
      rx := restartDir x.rx, tx := restartDir x.tx } s3)

/-- MODULE_RETRAIN (R390–R392). -/
def execModuleRetrain (m d : Nat) (errs : List (Nat × Nat)) (s : State) : Step :=
  let x := modGet m s
  let due := match x.retrainTill with
    | some t => decide (t ≤ s.clock.now)
    | none => true
  if 141 ≤ m || 2 ≤ d || !(x.state = .active || x.state = .retrain) || !due || !retrainReady x then .next s
  else .next (moduleRetrained m d errs s)

/-- Whether a retrain would leave an optical group short of what its links in service need (R395). -/
def retrainShort (m : Nat) (s : State) : Bool :=
  let g := moduleGroup m
  8 ≤ g && g < 16 &&
    groupCapacity g s < max (dirCapacity m 0 s) (dirCapacity m 1 s) +
      ((List.range 4).map fun i => if linkUp ((g - 8) * 4 + i) s then widthOf ((g - 8) * 4 + i) s * 25 else 0).sum

/-- RECALIBRATION_TIMER: each second, deferred while it would leave the group short, urgent at 4 s; one that is urgent in a
Cairn freeze runs when the freeze ends (R390, R395, R432, R433). -/
def execRecalibrationTimer (m : Nat) (s : State) : Step :=
  let x := modGet m s
  if 141 ≤ m || x.state != .active || s.clock.now < x.recalAt + 1000000000 || s.dev.state = .haltedThermal then .next s
  else if x.recalAt + 4000000000 ≤ s.clock.now then
    let s1 := if x.urgent then s else promote 2 (modSet m { x with urgent := true } s)
    .next (if s.cairn.frozen then s1 else callRetrain m s1)
  else if retrainShort m s then .next s
  else .next (callRetrain m s)

/-! ## Link-up (R54, R387–R389) -/

/-- A field of a capability word. -/
def capField (caps : List (BitVec 32)) (i hi lo : Nat) : Nat := bitsOf ((caps.getD i 0).toNat) hi lo

/-- The flank that a recorded ID names. -/
def idFlank (x : Option (Flank × BitVec 16 × BitVec 8)) : Flank := match x with
  | some (f, _, _) => f
  | none => .south

/-- The position code of the die at a module's far end as the Col sees it (Table 2-5): of a seam module, the flank that
reports. -/
def positionOf (m : Nat) (f : Flank) : Nat :=
  let g := moduleGroup m
  if g < 8 then 0x10 + flankNum f else if g < 16 then 0x30 + (g - 8) else if g < 18 then 0x10 + (g - 16)
  else if g = 18 then 0x02 else 0x01

/-- Design code that the position at a module's far end requires: for the guest the nnn of the ordering code, for the
others a value the spec does not give (R54, log 93). -/
def requiredDesign (m : Nat) (f : Flank) (s : State) : BitVec 16 :=
  if moduleGroup m = 18 then (s.part.guest.getD 0).setWidth 16 else Config.designCode (positionOf m f)

/-- Whether a recorded ID has another design code than its position requires; the stepping decides nothing (R54). -/
def wrongDesign (m : Nat) (x : Option (Flank × BitVec 16 × BitVec 8)) (s : State) : Bool := match x with
  | some (f, d, _) => d != requiredDesign m f s
  | none => false

/-- A chiplet of the wrong design is fenced as a unit, its position code in the fault record (R54): of a seam module, the
flank whose end reported the code (log 93). -/
def fenceDesign (m : Nat) (side : Flank) (s : State) : State :=
  let g := moduleGroup m
  if g < 8 then
    (if flankPhase side s = .fenced then s else flankOut side .fenced (faultU (flankSource side) (positionOf m side) s))
  else if g < 16 then
    let n := g - 8
    if isFenced (0x9000 + n) 0 s then s
    else (List.range 4).foldl (fun t i => linkDown (n * 4 + i) t) (faultU (0x9000 + n) (0x30 + n) s)
  else if g < 18 then
    let f := flankOfNum (g - 16)
    if flankPhase f s = .fenced then s else flankOut f .fenced (faultU (flankSource f) (0x10 + flankNum f) s)
  else if g = 18 then (if s.part.guest.isNone || s.guest.fenced then s else faultU 0xC000 0x02 (guestOut s))
  else if isFenced 0xE001 0 s then s
  else
    let s1 := portDown .cp1 (portDown .cp0 (faultU 0xE001 0x01 s))
    setPort .cp1 { portSt .cp1 s1 with fenced := true } (setPort .cp0 { portSt .cp0 s1 with fenced := true } s1)

/-- The module runs at the intersection of the two ends' capabilities (R389). -/
def linkUpWith (m : Nat) (x : LinkUpInput) (s : State) : State :=
  let full := bitOf (capField x.caps 2 0 0) 0
  let half := bitOf (capField x.caps 2 1 1) 0
  let depth := min 128 (capField x.caps 3 15 8)
  if (!full && !half) || depth < 16 then moduleOut m 0 0x7F s
  else
    let y := modGet m s
    let s1 := modSet m { y with
      depth := depth, tags := min 256 (capField x.caps 6 8 0), poison := bitOf (capField x.caps 3 0 0) 0
      rate := if bitOf (capField x.caps 2 10 10) 0 then 32 else if bitOf (capField x.caps 2 9 9) 0 then 16 else 8
      rx := { y.rx with half := y.rx.half || !full, retry := [] }
      tx := { y.tx with half := y.tx.half || !full, retry := [] } } s
    let s2 := x.goodWires.foldl (fun t w => if w.1 < 2 then unmapWire m w.1 w.2 t else t) s1
    let s3 := x.badWires.foldl (fun t w =>
      if w.1 < 2 && w.2 < 73 && !(dirGet m w.1 t).repair.contains w.2 then fitWidth m w.1 w.2 (mapWire m w.1 w.2 t) else t) s2
    if tooFewWires m 0 s3 || tooFewWires m 1 s3 then moduleOut m 0 0x7F s3
    else
      let z := modGet m s3
      moduleChanged m (fenceDrop (modSource m) 0 (modSet m { z with
        state := .active, recalAt := s.clock.now
        rx := recordTrims m (restartDir z.rx) s3, tx := recordTrims m (restartDir z.tx) s3 } s3))

/-- The capability words of the Col's end of the guest group (Table 14-4, log 31). -/
def colCaps : List Nat :=
  [0x100 + (Config.designCode 0x00).toNat * 2 ^ 16, 0x41, 0x703, 0x8001, 0x2, 0, 0x80100, 0]

/-- The Col sends a guest module its ID and its capability words at link-up (R387, R388). -/
def tellCaps (m : Nat) (s : State) : State :=
  if moduleGroup m != 18 then s
  else
    let q := (modGet m s).sbSeq.toNat
    let words := sbWord 0x01 0 ((Config.designCode 0x00).toNat + 0xB0 * 2 ^ 16) q ::
      (List.range 8).map fun i => sbWord 0x02 i (colCaps.getD i 0) ((q + 1 + i) % 256)
    words.foldl (fun t w => emit (.sideband m w) t) (modSet m { modGet m s with sbSeq := (modGet m s).sbSeq + 9 } s)

/-- Whether the group of a module is powered: the guest's only with a guest fitted, out of reset and not fenced. -/
def modPowered (m : Nat) (s : State) : Bool :=
  moduleGroup m != 18 || (s.part.guest.isSome && s.pins.gstRstN && !s.guest.fenced)

/-- Whether the bring-up of both flanks has been stopped, so that no group of theirs comes up (R53, R394). -/
def flanksStopped (m : Nat) (s : State) : Bool :=
  moduleGroup m < 18 && (s.boot.error = 0x82 || s.boot.error = 0x83)

/-- MODULE_LINK_UP: ID and CAP exchange, wire tests and ACTIVE (R54, R387, R389, R391). A guest that answers on a part
without one keeps the group down and is a fault against the guest. -/
def execModuleLinkUp (m : Nat) (x : LinkUpInput) (s : State) : Step :=
  let y := modGet m s
  if 141 ≤ m then .next s
  else if moduleGroup m = 18 && s.part.guest.isNone then .next (faultUOpen 0xC000 s)
  else if !modPowered m s || !(y.state = .down || y.state = .clockLost) || s.dev.state = .haltedThermal ||
      flanksStopped m s then .next s
  else
    let s1 := tellCaps m (modSet m { y with id := some (x.from_, x.design, x.stepping) } s)
    if x.design != requiredDesign m x.from_ s then .next (fenceDesign m x.from_ s1)
    else .next (linkUpWith m x s1)

/-! ## Loss of a far die (R397) -/

/-- Whether no module of a list sees a clock any more. -/
def noClock (ms : List Nat) (s : State) : Bool :=
  ms.all fun k => (modGet k s).state = .clockLost || (modGet k s).state = .out

/-- The flank that a module's loss leaves without any clock (R397). -/
def lostFlank (m : Nat) (s : State) : Option Flank :=
  [Flank.north, .south].find? fun f => (flankModules f).contains m && noClock (flankModules f) s

/-- CLOCK_LOST: the module is out of service; with every module of a die it is the die that is lost (R39, R397, R406). -/
def execClockLost (m : Nat) (s : State) : Step :=
  let x := modGet m s
  if 141 ≤ m || !(x.state = .active || x.state = .retrain) then .next s
  else
    let s1 := moduleClockLost m s
    match lostFlank m s1 with
    | some f => .next (flankOut f .lost s1)
    | none =>
      if moduleGroup m = 18 && noClock (groupModules 18) s1 then .next (fenceGuest s1)
      else .next (moduleChanged m (faultU (modSource m) (modSyndrome m 0 0x7F) s1))

/-! ## The guest's reset and readings (R400, R401) -/

/-- Pulses GST_RST_N for 10 µs after the guest's mailboxes and locks are cleared; its group comes up again by link-up
(R400). -/
def resetGuest (s : State) : State :=
  if s.part.guest.isNone || s.guest.fenced || !s.pins.gstRstN then s
  else
    let s1 := releaseLocks [4] (mbxGuestResetEnd (mbxGuestResetBegin s))
    let s2 := (groupModules 18).foldl (fun t m =>
      let x := modGet m t
      if x.state = .out then t
      else modSet m { x with state := .down, rx := { x.rx with retry := [] }, tx := { x.tx with retry := [] } } t) s1
    setWeights 18 { s2 with guest := { s2.guest with overRuns := 0, tempAt := s2.clock.now } }

/-- RESET_REQ (R400). -/
def execResetReq (s : State) : Step := .next (resetGuest s)

/-- A TEMP message: fenced at 125 °C, or over 60 W in ten in a row (R401). -/
def guestTemp (temp : Int) (power : Nat) (s : State) : State :=
  if s.part.guest.isNone || s.guest.fenced then s
  else
    let n := if 240 < power then s.guest.overRuns + 1 else 0
    let s1 := { s with guest := { s.guest with temp := temp, power := power, tempAt := s.clock.now, overRuns := n } }
    if decide (2000 ≤ temp) || 10 ≤ n then fenceGuest s1 else s1

/-- TEMP (R401): temperature in 1/16 °C and power in 0.25 W. -/
def execTemp (temp : Int) (power : Nat) (s : State) : Step := .next (guestTemp temp power s)

/-- GUEST_TEMP_TIMEOUT: no TEMP for 10 ms while the guest group is up (R401). -/
def execGuestTempTimeout (s : State) : Step :=
  if (groupModules 18).any (fun m => (modGet m s).state = .active) && s.guest.tempAt + 10000000 ≤ s.clock.now then
    .next (fenceGuest s)
  else .next s

/-- REPAIR from the far receiver: a wire added is a class C fault and may cost the full width; one is removed only while the
module is not in service (R391, R392). -/
def repairTold (m wire : Nat) (add : Bool) (s : State) : State :=
  let y := dirGet m 1 s
  if 73 ≤ wire || y.repair.contains wire = add || (!add && (modGet m s).state = .active) then s
  else
    let s1 := faultC (modSource m) (modSyndrome m 1 wire)
      (putDir m 1 { y with repair := if add then setInsert wire y.repair else setErase wire y.repair } s)
    let s2 := fitWidth m 1 wire s1
    if tooFewWires m 1 s2 then moduleOut m 1 wire s2 else refreshDegraded s2

/-- Acts on a sideband message of a known type (Table 14-3). -/
def sbActs (m type data : Nat) (s : State) : State :=
  if type = 0x03 then (if moduleGroup m = 18 then guestTemp (toSigned 16 (data % 65536)) (data / 65536) s else s)
  else if type = 0x05 then repairTold m (data % 128) (bitOf data 7) s
  else if type = 0x06 then startRetrain m s
  else if type = 0x08 then (if moduleGroup m = 18 then resetGuest s else s)
  else if 0x09 < type then
    (let x := modGet m s
     modSet m { x with sbDropped := x.sbDropped + 1 } s)
  else s

/-- SIDEBAND_MESSAGE: checked, answered with SB_ACK and acted on (R386). -/
def execSidebandMessage (m : Nat) (w : BitVec 64) (s : State) : Step :=
  let v := w.toNat
  let type := v % 256
  let x := modGet m s
  if 141 ≤ m || !modPowered m s || crc8 56 (v % 2 ^ 56) != v / 2 ^ 56 then .next s
  else if type = 0 then
    .next (modSet m { x with sbWait := x.sbWait.filter fun y => y.seq.toNat != bitsOf v 15 8 } s)
  else .next (sbActs m type (bitsOf v 47 16) (sbSend m 0 (bitsOf v 55 48) 0 s))

end Sys2Proof.Machine
end

