-- ==== Sys2Proof/Machine/Bundle.lean ====
section
/-!
DEFINITION. Graph bundles (chapter 6): the container, its tensors, operators, kernels, bucket sets and placement
entries, and checks 1 to 9 of Table 6-4.
-/

namespace Sys2Proof.Machine

/-- The outcome of a bundle check: a value, or the status and the failing index (R144). -/
abbrev Chk (α : Type) := Except (Status × Nat) α

/-- A check that a condition holds, else BAD_ARGUMENT at an index. -/
def need (c : Bool) (i : Nat) : Chk Unit := if c then .ok () else .error (.badArgument, i)

/-- A check whose failure names a section (R144). -/
def atIndex {α : Type} (i : Nat) (c : Chk α) : Chk α := match c with
  | .ok x => .ok x
  | .error (st, _) => .error (st, i)

/-- Applies a check to each element with its index, gathering the values. -/
def checkEach {α β : Type} (f : Nat → α → Chk β) : Nat → List α → Chk (List β)
  | _, [] => .ok []
  | i, x :: t => match f i x, checkEach f (i + 1) t with
    | .ok y, .ok ys => .ok (y :: ys)
    | .error e, _ => .error e
    | _, .error e => .error e

/-- Whether a span of bytes is all zero. -/
def zeroAt (bs : List Byte) (off n : Nat) : Bool := ((bs.drop off).take n).all fun b => b = 0

/-! ## Container (R140–R143) -/

/-- A section table entry, Table 6-2 (R142). -/
structure Sect where
  type : Nat
  must : Bool
  off : Nat
  size : Nat
  count : Nat
  /-- reserved bits and bytes are zero -/
  clean : Bool
  deriving DecidableEq, Repr

/-- Section table entry `i`. -/
def sectAt (bs : List Byte) (i : Nat) : Sect :=
  let o := 64 + 32 * i
  ⟨field bs o 4, bitOf (field bs (o + 4) 4) 0, field bs (o + 8) 8, field bs (o + 16) 8, field bs (o + 24) 4,
   field bs (o + 4) 4 / 2 = 0 && zeroAt bs (o + 28) 4⟩

/-- The section table, at most 16 entries. -/
def sects (bs : List Byte) : List Sect := (List.range (min (field bs 12 4) 16)).map (sectAt bs)

/-- The first section of a type. -/
def sectOf (ty : Nat) (l : List Sect) : Option Sect := l.find? fun x => x.type = ty

/-- Whether a section type is one of Table 6-3. -/
def sectListed (ty : Nat) : Bool := (1 ≤ ty && ty ≤ 8) || ty = 0x0F

/-- The bytes of a section. -/
def sectBytes (bs : List Byte) (x : Sect) : List Byte := (bs.drop x.off).take x.size

/-- End of the bytes that BUNDLE_CRC and the signature cover (R141, R172). -/
def signedEnd (bs : List Byte) : Nat := match sectOf 0x0F (sects bs) with
  | some x => x.off
  | none => field bs 16 8

/-- BUNDLE_CRC as it must read, with its own field taken as zero (R141). -/
def bundleCrc (bs : List Byte) : BitVec 32 := crc32c (bs.take 36 ++ zeros 4 ++ (bs.take (signedEnd bs)).drop 40)

/-- Check 1: MAGIC, HEADER_SIZE and TOTAL_SIZE within the source region. -/
def checkHeader (bs : List Byte) : Chk Unit :=
  need (field bs 0 4 = 0x4247544A && field bs 8 4 = 64 && 64 ≤ field bs 16 8 && field bs 16 8 ≤ bs.length) 0

/-- Check 2: BUNDLE_CRC. -/
def checkCrc (bs : List Byte) : Chk Unit :=
  if bundleCrc bs = BitVec.ofNat 32 (field bs 36 4) then .ok () else .error (.integrity, 0)

/-- Index of a section in the table. -/
def sectIndex (ty : Nat) (l : List Sect) : Nat := (l.findIdx? fun x => x.type = ty).getD 0

/-- Checks 3 and 4: a signature that is present is valid, of a parameter set that is accepted; the owner policy may require
one (R172, R486). -/
def checkSignature (bs : List Byte) (s : State) : Chk Unit := match sectOf 0x0F (sects bs) with
  | some x =>
    if (hssLength (sectBytes bs x)).any fun n => n ≤ (sectBytes bs x).length &&
        Config.hssVerify (s.sec.ownerKey.getD Config.vendorKey) (bs.take x.off) ((sectBytes bs x).take n) then .ok ()
    else .error (.integrity, sectIndex 0x0F (sects bs))
  | none => if s.sec.policy.getLsbD 0 then .error (.denied, 0) else .ok ()

/-- Check 5: versions and section types (R143, R173). -/
def checkVersions (bs : List Byte) : Chk Unit :=
  if field bs 4 2 / 256 ≠ 1 || field bs 6 2 ≠ 0x0200 then .error (.notSupported, 0)
  else match (sects bs).findIdx? fun x => !sectListed x.type && x.must with
    | some i => .error (.notSupported, i)
    | none => .ok ()

/-- Whether SIZE and COUNT of a section agree with its entry size (R143); KERNELS and SHAPES are judged as they are
read, the SIZE of a SIGNATURE with its bytes. -/
def sectSizeOk (x : Sect) : Bool :=
  if x.type = 1 then x.size = x.count * 64
  else if x.type = 2 then x.size = x.count * 128
  else if x.type = 3 then x.count = 0
  else if x.type = 5 then x.size = x.count * 32
  else if x.type = 6 then x.count = 1 && x.size = 64
  else if x.type = 8 then x.count = 1 && x.size = 32
  else if x.type = 0x0F then x.count = 1
  else true

/-- The section table part of check 6 (R140–R143). -/
def checkTable (bs : List Byte) : Chk Unit := do
  let n := field bs 12 4
  let total := field bs 16 8
  let l := sects bs
  need (2 ≤ n && n ≤ 16 && field bs 24 8 = 64 && zeroAt bs 56 8 && field bs 32 4 / 2 = 0 &&
    bitOf (field bs 32 4) 0 = (sectOf 0x0F l).isSome) 0
  let _ ← checkEach (fun i x =>
    need (x.clean && x.off % 64 = 0 && 64 + 32 * n ≤ x.off && x.off + x.size ≤ total && sectSizeOk x &&
      (x.type != 3 || x.off % 4096 = 0) && (x.type != 0x0F || hssLength (sectBytes bs x) = some x.size) &&
      ((List.range i).all fun j => !overlaps (x.off, x.size) ((sectAt bs j).off, (sectAt bs j).size)) &&
      (!sectListed x.type || ((List.range i).all fun j => (sectAt bs j).type != x.type)) &&
      (x.type != 0x0F || (x.off + x.size = total && l.all fun y => y.off ≤ x.off))) i) 0 l
  need ((sectOf 1 l).isSome && (sectOf 2 l).isSome) 0

/-! ## Bucket sets (R158) -/

/-- The bucket sets of a SHAPES section: count, position. -/
def parseShapes : Nat → Nat → List Byte → Option (List BucketSet)
  | 0, _, bs => if bs = [] then some [] else none
  | k + 1, i, bs =>
    let v := field bs 0 1
    let n := field bs 1 1
    let rows := (List.range n).map fun r => (List.range 8).map fun c => field bs (16 + 32 * r + 4 * c) 4
    if 1 ≤ v && v ≤ 8 && 1 ≤ n && n ≤ 16 && zeroAt bs 2 14 && 16 + 32 * n ≤ bs.length &&
        rows.all (fun r => (List.range 8).all fun c =>
          if c < v then 1 ≤ r.getD c 0 && r.getD c 0 < 2 ^ 31 else r.getD c 0 = 0)
    then (parseShapes k (i + 1) (bs.drop (16 + 32 * n))).map fun t => ⟨v, rows.map (·.take v)⟩ :: t
    else none

/-! ## Tensors (R145–R147) -/

/-- The tensor descriptor at the start of bytes, with its extents as they stand. -/
def parseTensor (bs : List Byte) : Tensor :=
  { format := field bs 0 1, rank := field bs 1 1, kind := field bs 2 1, axis := field bs 3 1, tflags := field bs 4 2
    bucketSet := field bs 6 2, dims := (List.range (min (field bs 1 1) 6)).map fun k => field bs (8 + 4 * k) 4
    constOff := field bs 32 8, storage := field bs 40 8 }

/-- Check 6 of a descriptor: reserved fields, extents above RANK, shape variables. -/
def tensorFormed (sets : List BucketSet) (bs : List Byte) : Bool :=
  let t := parseTensor bs
  t.rank ≤ 6 && t.kind ≤ 4 && t.tflags < 16 && zeroAt bs 48 16 && zeroAt bs (8 + 4 * t.rank) (24 - 4 * t.rank) &&
    (t.bucketSet = 0xFFFF || t.bucketSet < sets.length) &&
    t.dims.all fun d => d < 2 ^ 31 ||
      (d % 2 ^ 31 < 256 && d % 256 < ((sets[t.bucketSet]?).map (·.vars)).getD 0)

/-- Check 7 of a tensor: format, block axis, index format, extents, storage and place in CONSTANTS. -/
def tensorOk (sets : List BucketSet) (constSize : Nat) (t : Tensor) : Bool :=
  let dims := largestDims sets t
  (match fmtOf t.format with
    | none => false
    | some f => if blockScaled f then t.axis = 0xFF || t.axis < t.rank else t.axis = 0xFF) &&
  (!t.index || t.format = 1) && t.dims.all (fun d => d != 0) && t.storage = storageBytes t dims &&
  (if t.kind = 2 then t.constOff % 64 = 0 && t.constOff + t.storage ≤ constSize else t.constOff = 0)

/-! ## Operators (R148–R151, R537) -/

/-- The operator record at the start of bytes. -/
def parseOperator (bs : List Byte) : Operator :=
  { opcode := field bs 0 2, nIn := field bs 2 1, nOut := field bs 3 1, kernel := field bs 4 2, oflags := field bs 6 2
    tolMode := field bs 8 1, tolRange := field bs 14 2, tolError := field bs 12 2, tolZero := zeroAt bs 8 8
    ins := (List.range (min (field bs 2 1) 8)).map fun k => field bs (16 + 4 * k) 4
    outs := (List.range (min (field bs 3 1) 4)).map fun k => field bs (48 + 4 * k) 4
    attrs := (List.range 16).map fun k => field bs (64 + 4 * k) 4 }

/-- A row of Table 6-8: code, inputs from and to, outputs from and to, attributes, whether marked P. -/
structure OpRow where
  code : Nat
  in0 : Nat
  in1 : Nat
  out0 : Nat
  out1 : Nat
  attrs : Nat
  p : Bool
  deriving DecidableEq, Repr

/-- Rows of one shape for a range of codes. -/
def opRows (lo n ins outs attrs : Nat) : List OpRow :=
  (List.range n).map fun i => ⟨lo + i, ins, ins, outs, outs, attrs, false⟩

/-- Table 6-8. -/
def opTable : List OpRow :=
  [⟨0x01, 2, 3, 1, 1, 2, true⟩, ⟨0x02, 2, 3, 1, 1, 2, true⟩, ⟨0x03, 2, 3, 1, 1, 5, true⟩, ⟨0x04, 2, 3, 1, 1, 9, true⟩,
   ⟨0x05, 3, 4, 1, 1, 4, false⟩, ⟨0x06, 2, 2, 1, 1, 0, false⟩, ⟨0x10, 1, 1, 1, 1, 1, false⟩, ⟨0x11, 1, 1, 1, 1, 1, false⟩,
   ⟨0x12, 3, 3, 1, 1, 2, false⟩, ⟨0x13, 2, 2, 1, 1, 2, false⟩, ⟨0x14, 1, 1, 1, 1, 1, false⟩] ++
  opRows 0x15 9 1 1 0 ++ opRows 0x20 7 2 1 0 ++
  [⟨0x27, 3, 3, 1, 1, 0, false⟩, ⟨0x28, 2, 2, 1, 1, 1, false⟩, ⟨0x29, 1, 1, 1, 1, 2, false⟩, ⟨0x2A, 1, 1, 1, 1, 0, false⟩,
   ⟨0x2B, 1, 1, 1, 1, 0, false⟩, ⟨0x2C, 1, 1, 1, 1, 0, false⟩, ⟨0x2D, 3, 3, 1, 1, 0, false⟩] ++
  opRows 0x30 4 1 1 2 ++
  [⟨0x34, 1, 1, 1, 1, 1, false⟩, ⟨0x35, 1, 1, 1, 1, 2, false⟩, ⟨0x40, 1, 1, 1, 1, 0, false⟩, ⟨0x41, 1, 1, 1, 1, 1, false⟩,
   ⟨0x42, 1, 8, 1, 1, 1, false⟩, ⟨0x43, 1, 1, 1, 4, 1, false⟩, ⟨0x44, 1, 1, 1, 1, 3, false⟩, ⟨0x45, 1, 1, 1, 1, 4, false⟩,
   ⟨0x46, 2, 2, 1, 1, 1, false⟩, ⟨0x47, 3, 3, 1, 1, 2, false⟩, ⟨0x48, 1, 1, 2, 2, 3, false⟩, ⟨0x49, 1, 1, 1, 1, 0, false⟩,
   ⟨0x4A, 1, 1, 1, 1, 0, false⟩, ⟨0x50, 1, 1, 1, 1, 3, false⟩, ⟨0x51, 2, 2, 1, 1, 1, false⟩, ⟨0x52, 1, 1, 1, 1, 0, false⟩,
   ⟨0x53, 1, 1, 1, 1, 0, false⟩, ⟨0x54, 2, 2, 1, 1, 3, true⟩] ++
  [⟨0x60, 1, 1, 1, 1, 2, false⟩, ⟨0x61, 1, 1, 1, 1, 2, false⟩, ⟨0x62, 1, 1, 1, 1, 3, false⟩, ⟨0x63, 1, 1, 1, 1, 2, false⟩,
   ⟨0x64, 1, 1, 1, 1, 2, false⟩, ⟨0x65, 1, 1, 0, 0, 2, false⟩, ⟨0x66, 0, 0, 1, 1, 2, false⟩, ⟨0x70, 0, 8, 1, 4, 16, false⟩]

/-- The row of an opcode. -/
def opRow (op : Nat) : Option OpRow := opTable.find? fun r => r.code = op

/-- Check 6 of a record: reserved flags, the kernel field, unused places. -/
def operatorFormed (bs : List Byte) : Bool :=
  let o := parseOperator bs
  o.nIn ≤ 8 && o.nOut ≤ 4 && o.oflags < 4 && (o.opcode = 0x70 || o.kernel = 0xFFFF) &&
    ((List.range 8).all fun k => k < o.nIn || field bs (16 + 4 * k) 4 = 0xFFFFFFFF) &&
    ((List.range 4).all fun k => k < o.nOut || field bs (48 + 4 * k) 4 = 0xFFFFFFFF) &&
    (match opRow o.opcode with
      | some r => if r.p then zeroAt bs 9 3 && o.tolMode ≤ 1 else o.tolZero
      | none => true)

/-- Slots that hold a flag or an enumerated attribute, with the highest value each takes (R149, Table 6-8). -/
def attrMax (op : Nat) : List (Nat × Nat) :=
  if op = 0x01 || op = 0x02 then [(0, 1), (1, 1)]
  else if op = 0x54 then [(0, 1), (1, 1), (2, 1)]
  else if op = 0x05 then [(3, 1)]
  else if op = 0x14 then [(0, 1)]
  else if op = 0x28 then [(0, 5)]
  else if 0x30 ≤ op && op ≤ 0x33 then [(1, 1)]
  else if op = 0x35 then [(1, 1)]
  else if op = 0x47 then [(1, 1)]
  else if op = 0x48 then [(2, 1)]
  else if op = 0x50 then [(1, 1), (2, 2)]
  else if op = 0x51 then [(0, 1)]
  else if op = 0x60 || op = 0x62 then [(0, 2)]
  else []

/-- Attributes in range and unused slots zero (R149). -/
def attrsOk (o : Operator) (r : OpRow) : Bool :=
  (attrMax o.opcode).all (fun e => o.attr e.1 ≤ e.2) && (List.range 16).all fun k => k < r.attrs || o.attr k = 0

/-- The broadcast of two shapes, aligned from the innermost dimension (R151). -/
def bcastRev : List Nat → List Nat → Option (List Nat)
  | [], b => some b
  | a, [] => some a
  | x :: a, y :: b =>
    if x = y || x = 1 || y = 1 then (bcastRev a b).map fun t => max x y :: t else none

/-- The broadcast of two shapes. -/
def bcast (a b : List Nat) : Option (List Nat) := (bcastRev a.reverse b.reverse).map (·.reverse)

/-- The broadcast of several shapes. -/
def bcastAll (l : List (List Nat)) : Option (List Nat) :=
  l.foldl (fun acc x => acc.bind fun a => bcast a x) (some [])

/-- Whether a shape broadcasts to another. -/
def bcastTo (a b : List Nat) : Bool := bcast a b = some b

/-- The product of two matrices after their transpositions. -/
def matMul (ta tb : Bool) (a b : List Nat) : Option (List Nat) := match a, b with
  | [a0, a1], [b0, b1] =>
    let (m, k) := if ta then (a1, a0) else (a0, a1)
    let (k', n) := if tb then (b1, b0) else (b0, b1)
    if k = k' then some [m, n] else none
  | _, _ => none

/-- The same on the two innermost dimensions, the outer ones broadcast. -/
def batchMul (ta tb : Bool) (a b : List Nat) : Option (List Nat) :=
  if a.length < 2 || b.length < 2 then none
  else match matMul ta tb (a.drop (a.length - 2)) (b.drop (b.length - 2)),
      bcast (a.take (a.length - 2)) (b.take (b.length - 2)) with
    | some c, some o => some (o ++ c)
    | _, _ => none

/-- The extent of one convolved dimension, none where the kernel does not fit. -/
def convOut (l k padL padR dil stride : Nat) : Option Nat :=
  if stride = 0 || k = 0 || l + padL + padR < dil * (k - 1) + 1 then none
  else some ((l + padL + padR - dil * (k - 1) - 1) / stride + 1)

/-- The shape of a convolution's output. -/
def convShape (o : Operator) (x w : List Nat) : Option (List Nat) := match x, w with
  | [n, ci, l], [co, cg, k] =>
    let g := o.attr 4
    if o.opcode = 0x03 && g != 0 && ci % g = 0 && co % g = 0 && cg = ci / g then
      (convOut l k (o.attr 1) (o.attr 2) (o.attr 3) (o.attr 0)).map fun y => [n, co, y]
    else none
  | [n, ci, h, v], [co, cg, kh, kw] =>
    let g := o.attr 8
    if o.opcode = 0x04 && g != 0 && ci % g = 0 && co % g = 0 && cg = ci / g then
      match convOut h kh (o.attr 2) (o.attr 3) (o.attr 6) (o.attr 0),
          convOut v kw (o.attr 4) (o.attr 5) (o.attr 7) (o.attr 1) with
      | some a, some b => some [n, co, a, b]
      | _, _ => none
    else none
  | _, _ => none

/-- Whether an attention's operands agree (Table 6-8a). -/
def attnOk (o : Operator) (q k v : List Nat) (mask : Option (List Nat)) : Bool := match q, k, v with
  | [b, sq, e], [b', skv, ek], [b'', skv', ev] =>
    let h := o.attr 0
    let kv := o.attr 1
    h != 0 && kv != 0 && h % kv = 0 && e % h = 0 && b = b' && b = b'' && skv = skv' && ek = kv * (e / h) && ev = ek &&
      (match mask with
        | some m => bcastTo m [b, h, sq, skv]
        | none => true)
  | _, _, _ => false

/-- Whether an axis list names axes of a shape only. -/
def axesOk (mask : Nat) (sh : List Nat) : Bool := mask < 2 ^ sh.length

/-- A shape with the axes of a list removed, or kept with extent 1. -/
def reduceShape (mask : Nat) (keep : Bool) (sh : List Nat) : List Nat :=
  ((List.range sh.length).zip sh).filterMap fun e =>
    if bitOf mask e.1 then (if keep then some 1 else none) else some e.2

/-- Dimension a of the output is dimension PERM[a] of x. -/
def permuted (perm : Nat) (sh : List Nat) : Option (List Nat) :=
  let idx := (List.range sh.length).map fun a => perm / 16 ^ a % 16
  if idx.all (· < sh.length) && (List.range sh.length).all idx.contains && perm < 16 ^ sh.length then
    some (idx.map fun k => sh.getD k 0)
  else none

/-- A shape with one extent replaced. -/
def withExtent (sh : List Nat) (ax e : Nat) : List Nat := sh.set ax e

/-- GATHER: dimension AXIS replaced by the dimensions of i. -/
def gatherShape (x i : List Nat) (ax : Nat) : List Nat := x.take ax ++ i ++ x.drop (ax + 1)

/-- Codes whose output has the shape of x (Table 6-8a). -/
def sameShape (op : Nat) : Bool :=
  op = 0x10 || op = 0x11 || (0x14 ≤ op && op ≤ 0x1D) || (0x29 ≤ op && op ≤ 0x2C) || op = 0x35 || op = 0x4A ||
    op = 0x50 || op = 0x52 || op = 0x53 || op = 0x60 || op = 0x63

/-- Codes whose output has the broadcast of all inputs. -/
def bcastOp (op : Nat) : Bool := (0x20 ≤ op && op ≤ 0x28) || op = 0x2D || op = 0x51

/-- The axis slot of the operators that name one, which must lie below the rank of x. -/
def axisSlot (op : Nat) : Option Nat :=
  if op = 0x10 || op = 0x11 || op = 0x34 || op = 0x35 || (0x42 ≤ op && op ≤ 0x47) || op = 0x50 || op = 0x61 || op = 0x64
  then some 0
  else if op = 0x48 || op = 0x62 then some 1
  else none

/-- The shape rules of Table 6-8a over input and declared output shapes; `group` gives the size of a package group. -/
def shapesOk (group : Nat → Nat) (o : Operator) (xs ys : List (List Nat)) : Bool :=
  let op := o.opcode
  let x := xs.getD 0 []
  let x1 := xs.getD 1 []
  let y := ys.getD 0 []
  let ax := ((axisSlot op).map o.attr).getD 0
  let e := x.getD ax 0
  ((axisSlot op).isNone || ax < x.length) &&
  (if op = 0x01 then
    (match matMul (o.flag 0) (o.flag 1) x x1 with
      | some c => y = c && (xs.drop 2).all fun b => bcastTo b c
      | none => false)
  else if op = 0x02 || op = 0x54 then
    (match batchMul (o.flag 0) (o.flag 1) x x1 with
      | some c => y = c && (xs.drop 2).all fun b => bcastTo b c
      | none => false)
  else if op = 0x03 || op = 0x04 then
    (match convShape o x x1 with
      | some c => y = c
      | none => false)
  else if op = 0x05 then y = x && attnOk o x x1 (xs.getD 2 []) (xs[3]?)
  else if op = 0x06 then x.length = 2 && y = x1 ++ [x.getD 1 0]
  else if sameShape op then y = x && (op != 0x50 || (isPow2 e && 4 ≤ e && e ≤ 2 ^ 20))
  else if op = 0x12 || op = 0x13 then y = x && axesOk (o.attr 0) x && (xs.drop 1).all fun b => bcastTo b x
  else if bcastOp op then bcastAll xs = some y
  else if 0x30 ≤ op && op ≤ 0x33 then axesOk (o.attr 0) x && y = reduceShape (o.attr 0) (o.flag 1) x
  else if op = 0x34 then y = x.eraseIdx ax
  else if op = 0x48 then
    o.attr 0 ≤ e && ys.all fun z => z = withExtent x ax (o.attr 0)
  else if op = 0x40 then prod y = prod x
  else if op = 0x41 then permuted (o.attr 0) x = some y
  else if op = 0x42 then
    xs.all (fun z => z.length = x.length && withExtent z ax 0 = withExtent x ax 0) &&
      y = withExtent x ax (xs.foldl (fun n z => n + z.getD ax 0) 0)
  else if op = 0x43 then
    ys.all (fun z => z.length = x.length && withExtent z ax 0 = withExtent x ax 0) &&
      ys.foldl (fun n z => n + z.getD ax 0) 0 = e
  else if op = 0x44 then o.attr 1 < e && 1 ≤ o.attr 2 && y = withExtent x ax (ceilDiv (e - o.attr 1) (o.attr 2))
  else if op = 0x45 then y = withExtent x ax (e + o.attr 1 + o.attr 2)
  else if op = 0x46 then y = gatherShape x x1 ax
  else if op = 0x47 then y = x && xs.getD 2 [] = gatherShape x x1 ax
  else if op = 0x49 then bcastTo x y
  else if op = 0x61 then group (o.attr 1) != 0 && y = withExtent x ax (e * group (o.attr 1))
  else if op = 0x62 then
    group (o.attr 2) != 0 && e % group (o.attr 2) = 0 && y = withExtent x ax (e / group (o.attr 2))
  else if op = 0x64 then group (o.attr 1) != 0 && e % group (o.attr 1) = 0 && y = x
  else true) &&
  (!(op = 0x60 || op = 0x63) || group (o.attr 1) != 0)

/-- Whether a format number is INT8 or INT4. -/
def intFormat (n : Nat) : Bool := n = 9 || n = 10

/-- Whether a format number is one a product writes, or a bias takes (R150, R537). -/
def wideFormat (n : Nat) : Bool := n = 1 || n = 2 || n = 3

/-- Whether a block-scaled operand's block axis is the K axis `k` of its shape (R128). -/
def blockOn (t : Tensor) (n k : Nat) : Bool :=
  match fmtOf t.format with
  | some f => !blockScaled f || blockAxis t n = k
  | none => false

/-- The K axes of the two operands of a product: matrices by their transposition, convolutions the channel axis
(log 35). -/
def kAxes (o : Operator) (na nb : Nat) : Nat × Nat :=
  if o.opcode = 0x03 || o.opcode = 0x04 then (1, 1)
  else (if o.flag 0 then na - 2 else na - 1, if o.flag 1 then nb - 1 else nb - 2)

/-- The format rules of an operator (R56, R128, R147, R150, R537). -/
def formatsOk (o : Operator) (xs ys : List Tensor) (dims : Tensor → List Nat) : Bool :=
  let op := o.opcode
  let x := xs[0]?
  let w := xs[1]?
  let y := ys[0]?
  match opRow op with
  | none => false
  | some r =>
    if r.p then
      (match x, w, y with
        | some a, some b, some c =>
          let k := kAxes o (dims a).length (dims b).length
          intFormat a.format = intFormat b.format && wideFormat c.format &&
            blockOn a (dims a).length k.1 && blockOn b (dims b).length k.2 &&
            (xs.drop 2).all (fun t => wideFormat t.format) &&
            (op != 0x54 || (a.complex && b.complex && c.complex))
        | _, _, _ => false)
    else if op = 0x05 then
      (match x, w, xs[2]?, y with
        | some q, some k, some v, some c =>
          intFormat q.format = intFormat k.format && intFormat k.format = intFormat v.format && wideFormat c.format &&
            blockOn q 3 2 && blockOn k 3 2 && blockOn v 3 1
        | _, _, _, _ => false)
    else if op = 0x06 || op = 0x46 || op = 0x47 then (w.map (·.index)).getD false
    else if op = 0x34 then (y.map (·.index)).getD false
    else if op = 0x48 then ((ys[1]?).map (·.index)).getD false
    else if op = 0x40 then (x.map (·.format)) = (y.map (·.format))
    else if op = 0x50 || op = 0x51 || op = 0x52 then
      xs.all (fun t => t.complex) && ys.all fun t => t.complex
    else if op = 0x53 then xs.all (fun t => t.complex) && ys.all fun t => !t.complex
    else true

/-- Whether a kernel's grid covers the outputs of its operator, with 64 lanes at each of its points (R151, log 108). -/
def gridCovers (ts : List Tensor) (dims : Tensor → List Nat) (o : Operator) (k : Kernel) : Bool :=
  o.outs.all fun i => ((ts[i]?).map fun t => prod (dims t)).getD 0 ≤ 64 * prod (gridOf ts dims o k)

/-- Whether the variables of a kernel's grid are ones of the bucket set it takes them from (R154). -/
def gridVarsOk (ts : List Tensor) (sets : List BucketSet) (o : Operator) (k : Kernel) : Bool :=
  (k.grid.take k.gridRank).all fun d => d < 2 ^ 31 ||
    (gridTensor ts o).any fun t => d % 256 < ((sets[t.bucketSet]?).map (·.vars)).getD 0

/-- Check 7 of an operator. -/
def operatorOk (ts : List Tensor) (ks : List Kernel) (sets : List BucketSet) (group : Nat → Nat)
    (dims : Tensor → List Nat) (o : Operator) : Bool :=
  let xs := o.ins.filterMap fun i => ts[i]?
  let ys := o.outs.filterMap fun i => ts[i]?
  match opRow o.opcode with
  | none => false
  | some r =>
    r.in0 ≤ o.nIn && o.nIn ≤ r.in1 && r.out0 ≤ o.nOut && o.nOut ≤ r.out1 && o.ins.all (· < ts.length) &&
      o.outs.all (· < ts.length) && attrsOk o r && ys.all (fun t => t.kind != 0 && t.kind != 2) &&
      (o.opcode != 0x70 || (match ks[o.kernel]? with
        | some k => k.nIn = o.nIn && k.nOut = o.nOut && gridVarsOk ts sets o k && gridCovers ts dims o k
        | none => false)) &&
      (o.tolMode = 0 || (1 ≤ o.tolRange && o.tolRange ≤ 0x3F80 && 1 ≤ o.tolError && o.tolError ≤ 0x3F80)) &&
      formatsOk o xs ys dims && shapesOk group o (xs.map dims) (ys.map dims)

/-! ## Kernels (R154–R156) -/

/-- Whether an opcode is one of Table 6-10. -/
def kKnown (op : Nat) : Bool :=
  op ≤ 0x09 || (0x10 ≤ op && op ≤ 0x18) || op = 0x20 || op = 0x21 || op = 0x30 || (0x40 ≤ op && op ≤ 0x44) ||
    (0x50 ≤ op && op ≤ 0x52) || (0x60 ≤ op && op ≤ 0x64) || (0x70 ≤ op && op ≤ 0x75)

/-- Whether an opcode's TYPE names a memory format: loads, stores and conversions. -/
def kMemory (op : Nat) : Bool := op = 0x30 || (0x40 ≤ op && op ≤ 0x44)

/-- Whether an opcode's TYPE names an arithmetic type. -/
def kArith (op : Nat) : Bool :=
  (0x01 ≤ op && op ≤ 0x09) || (0x10 ≤ op && op ≤ 0x18) || op = 0x20 || op = 0x21 || (0x50 ≤ op && op ≤ 0x52)

/-- Whether TYPE is one the opcode takes (R155). -/
def kTypeOk (op ty : Nat) : Bool :=
  if kMemory op then 1 ≤ ty && ty ≤ 10 else if kArith op then ty = 1 || ty = 0xF else true

/-- The kernel at the start of bytes. -/
def parseKernel (bs : List Byte) : Kernel :=
  { nIn := field bs 2 1, nOut := field bs 3 1, gridRank := field bs 4 1, nV := field bs 5 1, nS := field bs 6 1
    grid := (List.range 3).map fun k => field bs (8 + 4 * k) 4, scratch := field bs 20 4
    code := (List.range (field bs 24 4)).map fun k => BitVec.ofNat 64 (field bs (64 + 8 * k) 8) }

/-- Check 6 of a kernel: a variable of its grid is one of some bucket set (R154). -/
def kernelFormed (sets : List BucketSet) (bs : List Byte) : Bool :=
  let k := parseKernel bs
  field bs 0 2 = 0x0100 && k.nIn ≤ 8 && 1 ≤ k.nOut && k.nOut ≤ 4 && 1 ≤ k.gridRank && k.gridRank ≤ 3 && 1 ≤ k.nV &&
    k.nV ≤ 64 && 4 ≤ k.nS && k.nS ≤ 16 && zeroAt bs 7 1 && k.scratch ≤ 65536 && 1 ≤ field bs 24 4 &&
    field bs 24 4 ≤ 4096 && zeroAt bs 28 36 && 64 + 8 * field bs 24 4 ≤ bs.length &&
    ((k.grid.take k.gridRank).all fun d =>
      (d < 2 ^ 31 && d != 0) || (2 ^ 31 ≤ d && d % 2 ^ 31 < 256 && sets.any fun b => d % 256 < b.vars)) &&
    k.code.all fun w => kKnown (kField w 7 0) && kTypeOk (kField w 7 0) (kField w 11 8)

/-- The kernels of a section: SIZE ends at the last instruction of the last kernel (R143, R154). -/
def parseKernels (sets : List BucketSet) : Nat → Nat → List Byte → Chk (List Kernel)
  | 0, i, bs => if bs = [] then .ok [] else .error (.badArgument, i)
  | n + 1, i, bs =>
    if !kernelFormed sets bs then .error (.badArgument, i)
    else
      let k := parseKernel bs
      let end_ := 64 + 8 * k.code.length
      let next := if n = 0 then end_ else up64 end_
      match parseKernels sets n (i + 1) (bs.drop next) with
      | .ok t => .ok (k :: t)
      | .error e => .error e

/-- What every path to an instruction has written: vector registers, scalars, and the scalars derived from extents,
variables and immediates only (R156). -/
structure KKnown where
  v : List Nat
  sc : List Nat
  derived : List Nat
  deriving DecidableEq, Repr

/-- What two paths that meet have both written. -/
def KKnown.meet (a b : KKnown) : KKnown :=
  ⟨a.v.filter b.v.contains, a.sc.filter b.sc.contains, a.derived.filter b.derived.contains⟩

/-- An open control structure: a LOOP or an IF, whether its body surely runs, what was known at its start, and after an
ELSE what the first branch knew. -/
structure KFrame where
  loop : Bool
  sure : Bool
  entry : KKnown
  first : Option KKnown
  deriving DecidableEq, Repr

/-- What the type check knows at one instruction (R156): the type of each vector register, what has been written, and the
open control structures, innermost first. -/
structure KState where
  types : Tab (Option Nat)
  known : KKnown
  stack : List KFrame
  deriving DecidableEq, Repr

/-- Arithmetic type a memory format widens to: FP32 (1) or INT32 (15) (R58). -/
def kWiden (ty : Nat) : Nat := if intFormat ty then 15 else 1

/-- Whether vector registers have been written, with the given type. -/
def kReads (k : KState) (rs : List Nat) (ty : Nat) : Bool :=
  rs.all fun r => k.known.v.contains r && tget none k.types r = some ty

/-- Writes a vector register with a type, unless it holds the other. -/
def kWrites (nV r ty : Nat) (k : KState) : Option KState :=
  if r < nV && (tget none k.types r = none || tget none k.types r = some ty) then
    some { k with types := tset none k.types r (some ty), known := { k.known with v := setInsert r k.known.v } }
  else none

/-- Writes a scalar register. -/
def kScalar (nS r : Nat) (der : Bool) (k : KState) : Option KState :=
  if r < nS then some { k with known := { k.known with
    sc := setInsert r k.known.sc
    derived := if der then setInsert r k.known.derived else setErase r k.known.derived } }
  else none

/-- Opens a control structure, at most four deep (R156). -/
def kOpen (loop sure : Bool) (k : KState) : Option KState :=
  if k.stack.length < 4 then some { k with stack := ⟨loop, sure, k.known, none⟩ :: k.stack } else none

/-- ELSE, ENDLOOP and ENDIF: one ELSE to an IF; what is known after a structure is what each way through it has written. -/
def kControl (op : Nat) (k : KState) : Option KState := match k.stack with
  | [] => none
  | f :: t =>
    if op = 0x73 then
      (if f.loop || f.first.isSome then none
       else some { k with known := f.entry, stack := { f with first := some k.known } :: t })
    else if op = 0x71 then
      (if f.loop then some { k with known := if f.sure then k.known else k.known.meet f.entry, stack := t } else none)
    else if f.loop then none
    else some { k with known := k.known.meet (f.first.getD f.entry), stack := t }

/-- One instruction of the type check; the roles of the register fields beyond R155's words are presumed (log 34). -/
def kStep (x : Kernel) (w : BitVec 64) (k : KState) : Option KState :=
  let op := kField w 7 0
  let ty := kField w 11 8
  let d := kField w 17 12
  let a := kField w 23 18
  let b := kField w 29 24
  let c := kField w 35 30
  let mode := kField w 39 36
  let opnd := kField w 42 40
  let from_ (rs : List Nat) := if kReads k rs ty then kWrites x.nV d ty k else none
  let scal (rs : List Nat) :=
    if rs.all k.known.sc.contains then kScalar x.nS d (rs.all k.known.derived.contains) k else none
  let vec (r : Nat) : Bool := k.known.v.contains r
  let sca (r : Nat) : Bool := k.known.sc.contains r
  if op = 0x00 || op = 0x75 then some k
  else if op = 0x04 then from_ [a, b, c]
  else if op = 0x08 || op = 0x09 || (0x10 ≤ op && op ≤ 0x18) || (0x50 ≤ op && op ≤ 0x52) then from_ [a]
  else if op ≤ 0x07 || op = 0x20 then from_ [a, b]
  else if op = 0x21 then from_ [a, b, c]
  else if op = 0x30 then (if vec a then kWrites x.nV d (kWiden ty) k else none)
  else if op = 0x40 then (if opnd < x.nIn && sca a then kWrites x.nV d (kWiden ty) k else none)
  else if op = 0x44 then (if opnd < x.nIn && vec a then kWrites x.nV d (kWiden ty) k else none)
  else if op = 0x41 then
    (if x.nIn ≤ opnd && opnd < x.nIn + x.nOut && sca a && kReads k [b] (kWiden ty) then some k else none)
  else if op = 0x42 then (if sca a then kWrites x.nV d (kWiden ty) k else none)
  else if op = 0x43 then (if sca a && kReads k [b] (kWiden ty) then some k else none)
  else if op = 0x60 || op = 0x61 || op = 0x63 then scal [a, b]
  else if op = 0x62 then scal [a]
  else if op = 0x64 then kScalar x.nS d true k
  else if op = 0x70 then
    (if mode % 2 = 0 || (sca a && k.known.derived.contains a) then
      kOpen true (mode % 2 = 0 && kField w 63 40 != 0) k else none)
  else if op = 0x72 then (if sca a then kOpen false false k else none)
  else kControl op k

/-- Check 8: the type check of a kernel (R156); s0–s3 are written at entry. -/
def kernelOk (x : Kernel) : Bool :=
  match x.code.foldl (fun k w => k.bind (kStep x w)) (some ⟨[], ⟨[], [0, 1, 2, 3], []⟩, []⟩) with
  | some k => k.stack = []
  | none => false

/-! ## Placement entries (R160, R161) -/

/-- Member ids of an entry: twelve cluster ids or six package ids. -/
def entryIds (pkg : Bool) (bs : List Byte) : List Nat :=
  if pkg then (List.range 6).map fun k => field bs (8 + 4 * k) 4
  else (List.range 12).map fun k => field bs (8 + 2 * k) 2

/-- Whether a member id is in range. -/
def memberOk (pkg : Bool) (n : Nat) : Bool := if pkg then n < 2 ^ 20 else n < 640

/-- What reading the entries has gathered: groups, hints and members still missing of the last group. -/
structure PlaceRead where
  groups : List Group
  hints : List Hint
  left : Nat
  deriving DecidableEq, Repr

/-- Takes the next members of a group from an entry. -/
def takeMembers (bs : List Byte) (g : Group) (left : Nat) : Option (Group × Nat) :=
  let ids := entryIds g.isPackage bs
  let n := min left ids.length
  if (ids.take n).all (memberOk g.isPackage) && (ids.drop n).all (· = 0) then
    some ({ g with members := g.members ++ ids.take n }, left - n)
  else none

/-- One placement entry (R160). `known` holds the groups a hint may name. -/
def placeEntry (known : List Group) (nOps : Nat) (bs : List Byte) (r : PlaceRead) : Option PlaceRead :=
  let kind := field bs 0 1
  if kind = 1 then
    let ty := field bs 2 1
    let n := field bs 4 2
    if r.left = 0 && field bs 1 1 < 64 && ty ≤ 1 && zeroAt bs 3 1 && 1 ≤ n && zeroAt bs 6 2 &&
        r.groups.all (fun g => g.number != field bs 1 1) then
      (takeMembers bs ⟨field bs 1 1, ty = 1, []⟩ n).map fun x => { r with groups := r.groups ++ [x.1], left := x.2 }
    else none
  else if kind = 2 then
    match r.groups.getLast? with
    | some g =>
      if r.left != 0 && field bs 1 1 = g.number && zeroAt bs 2 6 then
        (takeMembers bs g r.left).map fun x => { r with groups := r.groups.dropLast ++ [x.1], left := x.2 }
      else none
    | none => none
  else if kind = 3 then
    let h : Hint := ⟨field bs 4 4, field bs 8 4, field bs 12 1, field bs 13 1 = 1, field bs 16 4⟩
    let clusterGroup := known.any fun g => g.number = h.target && !g.isPackage
    if r.left = 0 && zeroAt bs 1 3 && zeroAt bs 14 2 && zeroAt bs 20 12 && field bs 13 1 ≤ 1 && h.first ≤ h.last &&
        h.last < nOps &&
        (if h.kind = 0 then clusterGroup else if h.kind = 1 then h.target ≤ 1 else h.kind = 2 && h.target < 2 ^ 20) then
      some { r with hints := r.hints ++ [h] }
    else none
  else none

/-- Groups that entries define, before or after the hint that names one. -/
def definedGroups (bs : List Byte) : List Group :=
  (List.range (bs.length / 32)).filterMap fun i =>
    let e := (bs.drop (32 * i)).take 32
    if field e 0 1 = 1 then some ⟨field e 1 1, field e 2 1 = 1, []⟩ else none

/-- The placement entries of a section or of PLACE; a hint names one of their groups or one that is `known`. -/
def parsePlacement (known : List Group) (nOps : Nat) (bs : List Byte) : Chk (List Group × List Hint) :=
  let n := bs.length / 32
  let r := (List.range n).foldl (fun (acc : Except Nat PlaceRead) i => match acc with
    | .ok p => match placeEntry (known ++ definedGroups bs) nOps ((bs.drop (32 * i)).take 32) p with
      | some q => .ok q
      | none => .error i
    | .error e => .error e) (.ok ⟨[], [], 0⟩)
  match r with
  | .ok p => if p.left = 0 && bs.length % 32 = 0 then .ok (p.groups, p.hints) else .error (.badArgument, n)
  | .error i => .error (.badArgument, i)

/-- Members of a group by number, the last list first in the search. -/
def groupMembers (l : List Group) (n : Nat) : List Nat := ((l.find? fun g => g.number = n).map (·.members)).getD []

/-- Whether a require hint names a unit that is fenced with no spare to take it (R161). -/
def hintFenced (groups : List Group) (h : Hint) (s : State) : Bool :=
  h.require_ &&
    (if h.kind = 0 then (groupMembers groups h.target).any fun e => hardFenced e s
     else if h.kind = 1 then
       (flankPhase (flankOfNum h.target) s = .lost || flankPhase (flankOfNum h.target) s = .fenced)
     else false)

/-- The first require hint that names a fenced unit. -/
def fencedHint (groups : List Group) (hints : List Hint) (s : State) : Chk Unit :=
  match hints.findIdx? fun h => hintFenced groups h s with
  | some i => .error (.unitFenced, i)
  | none => .ok ()

/-! ## Photonic eligibility (R152, R153, R167) -/

/-- The value of a positive BF16 code in units of 2^-133. -/
def bf16Units (c : Nat) : Nat := if c / 128 = 0 then c % 128 else (128 + c % 128) * 2 ^ (c / 128 - 1)

/-- Range shift g: the floor of log2(1/ρ), at most 7 (R153). -/
def rangeShift (rho : Nat) : Nat :=
  ((List.range 8).filter fun g => bf16Units rho * 2 ^ g ≤ 2 ^ 133).foldl max 0

/-- Dot-product length and output columns of a product (R153, R167). -/
def dotShape (o : Operator) (b : List Nat) : Nat × Nat :=
  if o.opcode = 0x03 || o.opcode = 0x04 then (prod (b.drop 1), b.getD 0 1)
  else
    let r := b.getD (b.length - 2) 1
    let c := b.getD (b.length - 1) 1
    if o.flag 1 then (c, r) else (r, c)

/-- Window length W and chunks n of a dot product. -/
def windowOf (k : Nat) : Nat × Nat :=
  let w := min 16 (ceilDiv k 32)
  (w, ceilDiv k (32 * w))

/-- Whether ε meets the bound of R153: both sides times 10,000 × K × 2^(5+g) × 2^133. -/
def toleranceMet (k rho eps : Nat) : Bool :=
  let g := rangeShift rho
  let (w, n) := windowOf k
  242 * k * 2 ^ 133 * 2 ^ (5 + g) + 10000 * n * 32 * w * 2 ^ 133 ≤ bf16Units eps * 10000 * k * 2 ^ (5 + g)

/-- Code of element `i` of an element array. -/
def codeAt (f : Fmt) (bs : List Byte) (i : Nat) : Nat :=
  let b := eltBytes f i
  leNat ((bs.drop b.1).take (b.2 + 1 - b.1)) / 2 ^ (eltBit f i % 8) % 2 ^ fmtBits f

/-- Whether a weight is finite once widened to FP32 (R93, R135). -/
def finiteWeight (x : Num) : Bool := (ofF32 (toF32 x)).isFin

/-- Whether every weight of one part of a constant is finite. -/
def partFinite (f : Fmt) (blocks n : Nat) (bs : List Byte) : Bool :=
  if blockScaled f then
    let scaleAt := up64 (blocks * (4 * fmtBits f))
    (List.range blocks).all fun k => (List.range 32).all fun i =>
      finiteWeight ((decodeElt f (codeAt f bs (k * 32 + i))).mul (scaleNum (field bs (scaleAt + k) 1)))
  else (List.range n).all fun i => finiteWeight (decodeElt f (codeAt f bs i))

/-- Whether every weight of a constant tensor is finite. -/
def weightsFinite (t : Tensor) (dims : List Nat) (bs : List Byte) : Bool := match fmtOf t.format with
  | none => false
  | some f =>
    let ax := blockAxis t dims.length
    let blocks := prod (dims.eraseIdx ax) * ceilDiv (dims.getD ax 1) 32
    let one := partBytes t dims
    partFinite f blocks (prod dims) bs && (!t.complex || partFinite f blocks (prod dims) (bs.drop (up64 one)))

/-- Weight sets and window length of an eligible operator; none when it is not eligible (R153, R167). -/
def eligibleOp (ts : List Tensor) (dims : Tensor → List Nat) (consts : List Byte) (o : Operator) : Option (Nat × Nat) :=
  match opRow o.opcode, (o.ins[0]?).bind (ts[·]?), (o.ins[1]?).bind (ts[·]?), (o.outs[0]?).bind (ts[·]?) with
  | some r, some x, some w, some y =>
    let (k, n) := dotShape o (dims w)
    if r.p && o.tolMode = 1 && k != 0 && toleranceMet k o.tolRange o.tolError && w.kind = 2 && wideFormat x.format &&
        (y.format = 1 || y.format = 2) && weightsFinite w (dims w) ((consts.drop w.constOff).take w.storage) then
      some ((windowOf k).2 * ceilDiv n 32, (windowOf k).1)
    else none
  | _, _, _, _ => none

/-- A weight of an operand of a product: of its matrix or convolution, row `n` of output columns, element `k` of the dot
product; its place in storage by R146, its block scale applied. -/
def weightNum (o : Operator) (t : Tensor) (f : Fmt) (dims : List Nat) (bs : List Byte) (mtx n k : Nat) : Num :=
  let (kk, nn) := dotShape o dims
  if blockScaled f then
    let e := dims.getD (blockAxis t dims.length) 1
    let rest := kk / max e 1
    let row := (mtx * nn + n) * rest + k % rest
    let per := ceilDiv e 32
    let scaleAt := up64 (prod (dims.eraseIdx (blockAxis t dims.length)) * per * (4 * fmtBits f))
    (decodeElt f (codeAt f bs (row * (32 * per) + k / rest))).mul (scaleNum (field bs (scaleAt + row * per + k / rest / 32) 1))
  else
    let i := if o.opcode = 0x03 || o.opcode = 0x04 || o.flag 1 then n * kk + k else k * nn + n
    decodeElt f (codeAt f bs (mtx * kk * nn + i))

/-- The weights of set (chunk a, columns b), slice by slice, line by line, column by column; zero outside the operand
(R90, R93, log 103). -/
def weightsOfSet (o : Operator) (t : Tensor) (f : Fmt) (dims : List Nat) (bs : List Byte) (mtx a b w : Nat) : List Num :=
  let (kk, nn) := dotShape o dims
  (List.range (32 * w * 32)).map fun i =>
    let k := 32 * w * a + i / 32
    let n := 32 * b + i % 32
    if k < kk && n < nn then weightNum o t f dims bs mtx n k else Num.zero

/-- s_w of a weight set: its largest magnitude, 1.0 where every weight is zero (R93). -/
def setScale (l : List Num) : BitVec 32 := toF32 (scaleOf l)

/-- The 6-bit code of a weight: round(w / s_w × 31), to nearest even (R93). -/
def weightCodeOf (sw : BitVec 32) (x : Num) : Nat := match ofF32 sw, x with
  | .fin _ m e, .fin neg a f =>
    let q := min f e
    let mag := min 31 (roundDiv (scaleNat (a * 31) (f - q)) (scaleNat m (e - q)))
    if neg then (64 - mag) % 64 else mag
  | _, _ => 0

/-- The weight sets of an eligible operator, in the order of their images: matrix, chunk of K, columns; of a complex operand
the real part first (log 103). -/
def weightSets (o : Operator) (t : Tensor) (dims : List Nat) (bs : List Byte) : List (List Num) := match fmtOf t.format with
  | none => []
  | some f =>
    let (k, n) := dotShape o dims
    let (w, chunks) := windowOf k
    let mats := prod dims / max 1 (k * n)
    let part (p : List Byte) : List (List Num) := (List.range mats).flatMap fun m => (List.range chunks).flatMap fun a =>
      (List.range (ceilDiv n 32)).map fun b => weightsOfSet o t f dims p m a b w
    part bs ++ (if t.complex then part (bs.drop (up64 (partBytes t dims))) else [])

/-- The packed image of a weight set: four codes in three bytes (R93). -/
def setImage (l : List Num) : List Byte := packCodes 6 (l.map (weightCodeOf (setScale l)))

/-- Shapes of a tensor in each bucket of its set (R158). -/
def bucketShapes (sets : List BucketSet) (t : Tensor) : List (List Nat) := match sets[t.bucketSet]? with
  | some b => b.rows.map fun r => dimsWith (fun _ v => r.getD v 0) t
  | none => [t.dims]

/-- Weight sets of an eligible operator in the bucket that needs most (R153, R158, R167). -/
def setsNeed (sets : List BucketSet) (o : Operator) (t : Tensor) : Nat :=
  ((bucketShapes sets t).map fun d =>
    let (k, n) := dotShape o d
    (windowOf k).2 * ceilDiv n 32).foldl max 0

/-- What the firmware derives for an eligible operator (R93, R94, R96, R153). -/
def photonicOf (sets : List BucketSet) (ts : List Tensor) (consts : List Byte) (i : Nat) (o : Operator) :
    Option Photonic :=
  let dims := largestDims sets
  (eligibleOp ts dims consts o).bind fun x => (o.ins[1]?).bind (ts[·]?) |>.map fun t =>
    { op := i, sets := setsNeed sets o t, w := x.2, g := rangeShift o.tolRange
      signed := !(((o.ins[0]?).bind (ts[·]?)).any fun y => bitOf y.tflags 1)
      scales := (weightSets o t (dims t) ((consts.drop t.constOff).take t.storage)).map setScale }

/-! ## The whole bundle -/

/-- FIT_POLICY as read (R169). -/
def fitFormed (bs : List Byte) : Bool :=
  let n := field bs 2 1
  field bs 0 1 ≤ 2 && field bs 1 1 ≤ 1 && n ≤ 6 && zeroAt bs 3 5 && zeroAt bs (16 + 8 * n) (48 - 8 * n)

/-- EXECUTION as read (R163). -/
def execFormed (bs : List Byte) : Bool := field bs 8 1 ≤ 1 && zeroAt bs 9 3 && zeroAt bs 16 16

/-- The 64, 128 or 32-byte entries of a section. -/
def entries (n : Nat) (bs : List Byte) : List (List Byte) := chunks (n - 1) bs.length bs

/-- Package group sizes as the placement entries declare them, for the collectives of check 7. -/
def packageGroup (bs : List Byte) (n : Nat) : Nat :=
  match (entries 32 bs).find? fun e => field e 0 1 = 1 && field e 1 1 = n && field e 2 1 = 1 with
  | some e => field e 4 2
  | none => 0

/-- The bytes of a section, or none of them when it is absent. -/
def sectionBytes (bs : List Byte) (ty : Nat) : List Byte := ((sectOf ty (sects bs)).map (sectBytes bs)).getD []

/-- COUNT of a section, 0 when it is absent. -/
def sectionCount (bs : List Byte) (ty : Nat) : Nat := ((sectOf ty (sects bs)).map (·.count)).getD 0

/-- Check 6 of the tensors, operators, kernels, bucket sets and records. -/
def checkFormed (bs : List Byte) : Chk Bundle := do
  checkTable bs
  let l := sects bs
  let sets ← (match parseShapes (sectionCount bs 7) 0 (sectionBytes bs 7) with
    | some x => .ok x
    | none => .error (.badArgument, sectIndex 7 l))
  let tensors ← checkEach (fun i e => do need (tensorFormed sets e) i; return parseTensor e) 0
    (entries 64 (sectionBytes bs 1))
  let operators ← checkEach (fun i e => do
    if (opRow (parseOperator e).opcode).isNone then .error (.notSupported, i)
    need (operatorFormed e) i
    return parseOperator e) 0 (entries 128 (sectionBytes bs 2))
  let kernels ← parseKernels sets (sectionCount bs 4) 0 (sectionBytes bs 4)
  let fit := sectionBytes bs 6
  let run := sectionBytes bs 8
  need (fit = [] || fitFormed fit) (sectIndex 6 l)
  need (run = [] || execFormed run) (sectIndex 8 l)
  return { id := BitVec.ofNat 128 (field bs 40 16), crc := BitVec.ofNat 32 (field bs 36 4), tensors := tensors,
           operators := operators, kernels := kernels, kernelBytes := (sectionBytes bs 4).length, buckets := sets,
           policy := field fit 0 1, pShort := field fit 1 1 = 1,
           lenders := (List.range (field fit 2 1)).map fun k => (field fit (16 + 8 * k) 4, field fit (20 + 8 * k) 4),
           hostLimit := field fit 8 8, deadline := field run 0 8, priority := field run 8 1,
           peerWaitMs := field run 12 4, constOff := ((sectOf 3 l).map (·.off)).getD 0,
           constSize := (sectionBytes bs 3).length, hasShapes := (sectOf 7 l).isSome }

/-- Checks 7 to 9, and what the fit check needs. -/
def checkMeaning (bs : List Byte) (b : Bundle) (s : State) : Chk Bundle := do
  let dims := largestDims b.buckets
  let _ ← checkEach (fun i t => need (tensorOk b.buckets b.constSize t) i) 0 b.tensors
  let _ ← checkEach (fun i o => need (operatorOk b.tensors b.kernels b.buckets (packageGroup (sectionBytes bs 5)) dims o) i)
    0 b.operators
  let _ ← checkEach (fun i k => need (kernelOk k) i) 0 b.kernels
  let (groups, hints) ← atIndex (sectIndex 5 (sects bs)) (parsePlacement [] b.operators.length (sectionBytes bs 5))
  atIndex (sectIndex 5 (sects bs)) (fencedHint groups hints s)
  let consts := sectionBytes bs 3
  let el := ((List.range b.operators.length).zip b.operators).filterMap fun e =>
    photonicOf b.buckets b.tensors consts e.1 e.2
  return { b with groups := groups, hints := hints, eligible := el }

/-- Checks 1 to 9 of Table 6-4 in order (R144). -/
def checkBundle (src : List Byte) (s : State) : Chk Bundle := do
  checkHeader src
  let bs := src.take (field src 16 8)
  checkCrc bs
  checkSignature bs s
  checkVersions bs
  let b ← checkFormed bs
  checkMeaning bs b s

end Sys2Proof.Machine
end

