-- ==== Sys2Proof/Machine/Fit.lean ====
section
/-!
DEFINITION. The fit check, spill and the commands LOAD_BUNDLE, VERIFY_BUNDLE, PLACE and UNLOAD (R161–R171).
-/

namespace Sys2Proof.Machine

/-! ## DRAM by spans (R167, R178) -/

/-- Free DRAM, from address 0 up. -/
def freeRanges (s : State) : RangeSet := (heldSet s).foldl (fun r p => rsub p.1 p.2 r) [(0, topOfDram s)]

/-- Bytes of a set of ranges. -/
def rangeBytes (r : RangeSet) : Nat := r.foldl (fun n p => n + (p.2 - p.1)) 0

/-- The lowest free spans that give `n` bytes. -/
def takeSpans : Nat → RangeSet → List (Nat × Nat)
  | _, [] => []
  | n, (a, b) :: t => if n = 0 then [] else if n ≤ b - a then [(a, n)] else (a, b - a) :: takeSpans (n - (b - a)) t

/-- The first `n` bytes of a list of spans, and the rest. -/
def splitSpans : Nat → List (Nat × Nat) → List (Nat × Nat) × List (Nat × Nat)
  | _, [] => ([], [])
  | n, (a, k) :: t =>
    if n = 0 then ([], (a, k) :: t)
    else if n < k then ([(a, n)], (a + n, k - n) :: t)
    else let r := splitSpans (n - k) t; ((a, k) :: r.1, r.2)

/-- Writes bytes over spans in order. -/
def writeSpans : List (Nat × Nat) → List Byte → State → State
  | [], _, s => s
  | (a, k) :: t, bs, s => writeSpans t (bs.drop k) (dramWriteBytes a (bs.take k) s)

/-- Zeroes spans. -/
def zeroSpans (l : List (Nat × Nat)) (s : State) : State := l.foldl (fun t p => zeroSpan p.1 p.2 t) s

/-- Zeroes what of the spans lies in stacks in service; the others take no write. -/
def zeroStates (l : List (Nat × Nat)) (s : State) : State :=
  if s.mem.failed = [] && s.mem.lost = [] then zeroSpans l s
  else l.foldl (fun t p => dramWriteBytes p.1 (zeros p.2) t) s

/-! ## Need and spill (R167, R170) -/

/-- DRAM of the load: constants unless adopted, state tensors and kernel images. -/
def loadNeed (b : Bundle) (adopted : Bool) : Nat :=
  (if adopted then 0 else b.constSize) + ((b.tensors.filter (·.kind = 4)).map (·.storage)).foldl (· + ·) 0 + b.kernelBytes

/-- Kinds of tensors whose DRAM is allocated at a moment: at the load state tensors, and constants unless they are adopted;
at PLACE intermediates (R167). -/
def spillKinds (w : FitWait) : List Nat := if !w.load then [3] else if w.adopted.isSome then [4] else [2, 4]

/-- Tensors that may spill, in the order they do: descending STORAGE_BYTES, the lower index first (R170). -/
def spillable (w : FitWait) : List (Nat × Tensor) :=
  sortBy (fun x y => decide (y.2.storage ≤ x.2.storage))
    (((List.range w.b.tensors.length).zip w.b.tensors).filter fun e => (spillKinds w).contains e.2.kind && e.2.spillable)

/-- What a spill comes to: its bytes, the shortfall that remains, and the tensors that go. -/
structure Spill where
  used : Nat
  left : Nat
  which : List Nat
  deriving DecidableEq, Repr

/-- Takes tensors whole, in order, until the shortfall is covered; under a limit, one that does not fit is passed over. -/
def chooseSpill (limit : Option Nat) : Spill → List (Nat × Tensor) → Spill
  | x, [] => x
  | x, t :: l =>
    if x.left = 0 || limit.any (· < x.used + t.2.storage) then chooseSpill limit x l
    else chooseSpill limit ⟨x.used + t.2.storage, x.left - t.2.storage, x.which ++ [t.1]⟩ l

/-- The spill of a fit, its room limited or not (R170). -/
def spillPlan (w : FitWait) (limit : Option Nat) (needed free : Nat) : Spill :=
  chooseSpill limit ⟨0, needed - free, []⟩ (spillable w)

/-- Numbers of a fit report, Table 6-11. -/
structure Fit where
  dramNeed : Nat
  dramFree : Nat
  dramShort : Nat
  spill : Nat
  refused : Bool
  pNeed : Nat
  pFree : Nat
  pShort : Nat
  cm : List (Nat × Nat)
  deriving DecidableEq, Repr

/-- The cluster most short of cluster memory, the lower id on a tie. -/
def worstCm (l : List (Nat × Nat)) : Nat × Nat := l.foldl (fun w x => if w.2 < x.2 then x else w) (0, 0)

/-- The bytes of a fit report (R168). -/
def fitBytes (f : Fit) : List Byte :=
  let flags := bit (f.dramShort != 0) + 2 * bit (f.cm != []) + 4 * bit (f.pShort != 0) + 8 * bit (f.spill != 0) +
    16 * bit f.refused
  leBytes 2 0x0100 ++ leBytes 2 flags ++ leBytes 4 f.cm.length ++ leBytes 8 f.dramNeed ++ leBytes 8 f.dramFree ++
    leBytes 8 f.dramShort ++ leBytes 8 f.spill ++ leBytes 4 f.pNeed ++ leBytes 4 f.pFree ++ leBytes 4 f.pShort ++
    leBytes 4 (worstCm f.cm).2 ++ leBytes 2 (worstCm f.cm).1 ++ zeros 6 ++
    f.cm.flatMap fun x => leBytes 2 x.1 ++ zeros 2 ++ leBytes 4 x.2

/-- Weight sets of the eligible operators of a bundle. -/
def slotNeed (b : Bundle) : Nat := (b.eligible.map (·.sets)).foldl (· + ·) 0

/-! ## Lenders (R170) -/

/-- Bytes lent so far. -/
def lentBytes (w : FitWait) : Nat := (w.loans.map fun l => l.2.2).foldl (· + ·) 0

/-- Returns loans to their lenders over VC3 (R197). -/
def returnLoans (l : List (Nat × Nat × Nat)) (s : State) : State :=
  l.foldl (fun t x => sendSys x.1 0 0 (sysBytes (.loanReturn x.2.1)) t) s

/-- Asks the next lender for what is missing, up to its limit (R170). -/
def askLender (w : FitWait) (missing : Nat) (s : State) : State := match w.lenders with
  | [] => s
  | (pkg, mib) :: t =>
    let n := min (mib * 2 ^ 20) missing
    let tag := s.comp.nextTag
    sendSys pkg 0 0 (sysBytes (.loanRequest n))
      { s with graphs := { s.graphs with fits := s.graphs.fits ++
          [{ w with lenders := t, asked := some (pkg % 2 ^ 20, n, s.clock.now, tag) }] } }

/-- What a fit comes to: it fits with a spill, it needs a lender for what is missing, or it is short by what remains. -/
inductive FitVerdict where
  | fits (x : Spill)
  | ask (missing left : Nat)
  | short (n : Nat)
  deriving DecidableEq, Repr

/-- Judges DRAM need against DRAM free, the host window and the loans at hand (R170). -/
def judgeFit (w : FitWait) (needed free : Nat) : FitVerdict :=
  let short := needed - free
  if short = 0 || w.b.policy = 0 then (if short = 0 then .fits ⟨0, 0, []⟩ else .short short)
  else if w.b.policy = 2 then
    let x := spillPlan w (some w.b.hostLimit) needed free
    if x.left = 0 then .fits x else .short x.left
  else
    let all := spillPlan w none needed free
    let x := spillPlan w (some (lentBytes w)) needed free
    if all.left != 0 then .short all.left
    else if x.left = 0 then .fits x
    else if w.lenders = [] then .short x.left
    else .ask (all.used - lentBytes w) x.left

/-- VERIFY_BUNDLE asks no lender: it judges as if each lent up to its limit (R168, log 110). -/
def verifyFit (w : FitWait) (needed free : Nat) : FitVerdict :=
  judgeFit { w with lenders := [], loans := w.b.lenders.map fun l => (l.1, 0, l.2 * 2 ^ 20) } needed free

/-- Where the next tensor spills to in the host window: the lowest place, 64-byte aligned, that no other holds (log 110). -/
def hostPlace (held : List (Nat × Nat)) (n : Nat) : Nat :=
  let free := ((0 :: held.map fun h => up64 (h.1 + h.2)).filter fun a => !held.any fun h => overlaps (a, n) h)
  free.foldl min (free.headD 0)

/-- Spans of the host window that spilled tensors hold. -/
def hostSpans (s : State) : List (Nat × Nat) := s.graphs.slot.flatMap fun e => e.2.spilled.filterMap fun x =>
  if 0xE000000000 ≤ x.2 && x.2 < 0xF000000000 then
    some (x.2 - 0xE000000000, ((e.2.b.tensors[x.1]?).map (·.storage)).getD 0)
  else none

/-- Addresses of spilled tensors: in the host window, or one after the other in the loans. -/
def spillAddrs (w : FitWait) (which : List Nat) (s : State) : List (Nat × Nat) :=
  let size (i : Nat) : Nat := ((w.b.tensors[i]?).map (·.storage)).getD 0
  if w.b.policy = 2 then
    (which.foldl (fun (acc : List (Nat × Nat) × List (Nat × Nat)) i =>
      let a := hostPlace acc.1 (size i)
      (acc.1 ++ [(a, size i)], acc.2 ++ [(i, 0xE000000000 + a)])) (hostSpans s, [])).2
  else
    (which.foldl (fun (acc : List (Nat × Nat) × List (Nat × Nat)) i =>
      ((splitSpans (size i) acc.1).2, acc.2 ++ [(i, (acc.1.headD (0, 0)).1)]))
      (w.bases.zip (w.loans.map fun l => l.2.2), [])).2

/-- Writes bytes over spans at peers, in order. -/
def writeLent : List (Nat × Nat) → List Byte → State → State
  | [], _, s => s
  | (a, k) :: t, bs, s =>
    writeLent t (bs.drop k) (fwPeerWrites (a / 2 ^ 40 % 2 ^ 20) (a % 2 ^ 40) ((bs.take k).map fun b => (b, false)) s)

/-- The spans of the loans from a global address up. -/
def lentFrom (a : Nat) : List (Nat × Nat) → List (Nat × Nat)
  | [] => []
  | (b, n) :: t => if b ≤ a && a < b + n then (a, b + n - a) :: t else lentFrom a t

/-- The data of a spilled tensor goes out at the load: a constant's bytes, or zeros for a state tensor in the host window; a
lender has zeroed its loan (R145, R164, R170, R196). -/
def spillData (w : FitWait) (consts : List Byte) (e : Nat × Nat) (s : State) : State := match w.b.tensors[e.1]? with
  | none => s
  | some t =>
    let data := if t.kind = 2 then (consts.drop t.constOff).take t.storage else zeros t.storage
    if w.b.policy = 2 then hostWrite (e.2 - 0xE000000000) data s
    else if t.kind = 2 then writeLent (lentFrom e.2 (w.bases.zip (w.loans.map fun l => l.2.2))) data s
    else s

/-- The constants without those that spilled. -/
def constCut (b : Bundle) (which : List Nat) (consts : List Byte) : List Byte :=
  (sortBy (fun x y => decide (y.constOff ≤ x.constOff)) ((which.filterMap (b.tensors[·]?)).filter fun t => t.kind = 2)).foldl
    (fun l t => l.take t.constOff ++ l.drop (t.constOff + t.storage)) consts

/-! ## LOAD_BUNDLE and VERIFY_BUNDLE (R144, R164, R168) -/

/-- The bytes of the source region: local memory as the firmware reads it, host memory or a peer's memory as a free
value (log 4). -/
def sourceBytes (d : Descriptor) (s : State) : List Byte × State :=
  let a := d.argAddr.toNat
  let n := d.argLen.toNat
  if a / 2 ^ 40 = 0 || a / 2 ^ 40 % 2 ^ 20 = s.fab.id then
    (match place (a % 2 ^ 40) s with
      | .dram x => (viewBytes x n s, s)
      | _ => ((List.range n).map fun i => Config.hostByte s.free i, { s with free := s.free + 1 }))
  else ((List.range n).map fun i => Config.hostByte s.free i, { s with free := s.free + 1 })

/-- Address of constants the firmware adopts in place: a local DRAM source aligned to 4,096 bytes (R164). -/
def adoptedAt (d : Descriptor) (b : Bundle) (s : State) : Option Nat :=
  let a := d.argAddr.toNat
  let local_ := if a / 2 ^ 40 % 2 ^ 20 = s.fab.id then a % 2 ^ 40 else a
  match place local_ s with
  | .dram x => if x % 4096 = 0 && local_ = x && b.constSize != 0 then some (x + b.constOff) else none
  | _ => none

/-- The fit report of a load. -/
def loadFit (w : FitWait) (short spill : Nat) (s : State) : Fit :=
  ⟨loadNeed w.b w.adopted.isSome, rangeBytes (freeRanges s), short, spill, w.refused && short != 0, slotNeed w.b, 0, 0, []⟩

/-- The lowest free graph slot. -/
def freeSlot (s : State) : Option Nat := firstIdx (fun i => (slotGet i s).state.isNone) 64

/-- Derives the device state from the graphs, in the states of Table 10-8 that follow them (R262). -/
def deriveDev (s : State) : State :=
  if s.dev.state = .booting || s.dev.state = .standby || s.dev.state = .faulted || s.dev.state = .haltedThermal then s
  else
    let gs := s.graphs.slot.map (·.2)
    let loaded := gs.any fun g => g.state.isSome
    let running := gs.any fun g => g.state = some .running && g.running.isSome
    let paused := gs.any fun g => g.state = some .paused
    let st : DevState := if running then .running else if paused then .paused else if loaded then .loaded else .ready
    let s1 := if graphsLoaded s = 0 && s.dev.state = .ready then s else touchSync s
    setDev st s1

/-- A command ends with a status and the report where the command offers room for it. -/
def endLoad (a : Accepted) (r : Res) (f : Fit) (s : State) : State :=
  if a.desc.resLen = 0 then finish a r s else finishWith a r (fitBytes f) s

/-- Keeps a load: the graph takes the slot, its memory and its loans. State tensors start at zero, those that spilled as well
(R145). -/
def keepLoad (w : FitWait) (i : Nat) (x : Spill) (s : State) : State :=
  let g := slotGet i s
  let spill := x.used
  let total := loadNeed w.b w.adopted.isSome - spill
  let spans := takeSpans total (freeRanges s)
  let consts := constCut w.b x.which w.consts
  let r := splitSpans consts.length spans
  let away := spillAddrs w x.which s
  let s0 := away.foldl (fun t e => spillData w w.consts e t) s
  let s1 := zeroStates (splitSpans (total - consts.length - w.b.kernelBytes) r.2).1 (writeSpans r.1 consts s0)
  let held := spans ++ (match w.adopted with
    | some x => [(x, w.b.constSize)]
    | none => [])
  slotSet i { g with
    state := some .loaded, lost := false, b := w.b
    constants := (w.adopted.getD ((spans.headD (0, 0)).1), w.adopted.isSome), loadHeld := held, placeHeld := []
    placed := [], photonic := [], cmHeld := [], pHeld := [], hostSpill := if w.b.policy = 2 then spill else 0
    loans := w.loans, loadSpill := (if w.b.policy = 2 then spill else 0, w.loans.length), spilled := away, peers := []
    running := none, pending := [], ending := [] } s1

/-- Checks 10 and 11 of a load, and its end (R144, R167, R170). -/
def tryLoad (w : FitWait) (s : State) : State :=
  match freeSlot s with
  | none => returnLoans w.loans (finish w.cmd { st := .full } s)
  | some i =>
    match judgeFit w (loadNeed w.b w.adopted.isSome) (rangeBytes (freeRanges s)) with
    | .ask n _ => askLender w n s
    | .short n => returnLoans w.loans (endLoad w.cmd { st := .noFit } (loadFit w n 0 s) s)
    | .fits x =>
      let f := loadFit w 0 x.used s
      if w.cmd.desc.resLen != 0 && w.cmd.desc.resLen.toNat < (fitBytes f).length then
        returnLoans w.loans (endLoad w.cmd {} f s)
      else
        let s1 := deriveDev (keepLoad w i x s)
        let warn : BitVec 32 := if w.b.policy = 2 && x.used != 0 then 0x40 else 0
        endLoad w.cmd { detail := handleOf i (slotGet i s1), graph := 1, warn := warn } f s1

/-- LOAD_BUNDLE once begun (R144, R164). -/
def beginLoad (a : Accepted) (s : State) : State :=
  let (bs, s1) := sourceBytes a.desc s
  match checkBundle bs s1 with
  | .error (st, i) => finish a { st := st, detail := BitVec.ofNat 32 i } s1
  | .ok b =>
    let ad := adoptedAt a.desc b s1
    let consts := if ad.isSome then [] else (bs.drop b.constOff).take b.constSize
    tryLoad ⟨a, true, b, consts, ad, [], [], b.lenders, none, false, [], []⟩ s1

/-- VERIFY_BUNDLE once begun: the same checks, nothing allocated and no lender asked (R144, R168). -/
def beginVerify (a : Accepted) (s : State) : State :=
  let (bs, s1) := sourceBytes a.desc s
  match checkBundle bs s1 with
  | .error (st, i) => finish a { st := st, detail := BitVec.ofNat 32 i } s1
  | .ok b =>
    let w : FitWait := ⟨a, true, b, [], adoptedAt a.desc b s1, [], [], [], none, false, [], []⟩
    match verifyFit w (loadNeed b w.adopted.isSome) (rangeBytes (freeRanges s1)) with
    | .fits x => finishWith a {} (fitBytes (loadFit w 0 x.used s1)) s1
    | .ask _ n => finishWith a { st := .noFit } (fitBytes (loadFit w n 0 s1)) s1
    | .short n => finishWith a { st := .noFit } (fitBytes (loadFit w n 0 s1)) s1

/-! ## Placement (R161, R162, R167, R171) -/

/-- The last hint of a list that covers an operator. -/
def lastHint (l : List Hint) (op : Nat) : Option Hint := (l.filter fun h => h.first ≤ op && op ≤ h.last).getLast?

/-- The hint that decides for an operator: PLACE's own over the bundle's (R161). -/
def hintOf (w : FitWait) (op : Nat) : Option Hint := match lastHint w.hints op with
  | some h => some h
  | none => lastHint w.b.hints op

/-- Packages that hints name. -/
def namedPackages (w : FitWait) : List Nat :=
  ((List.range w.b.operators.length).filterMap fun op => (hintOf w op).bind fun h =>
    if h.kind = 2 then some h.target else none).foldl (fun l p => setInsert p l) []

/-- Whether this package places an operator (R162). -/
def placesHere (w : FitWait) (op : Nat) (s : State) : Bool :=
  let named := namedPackages w
  match hintOf w op with
  | some h => if h.kind = 2 then h.target = s.fab.id else named = [] || named.head? = some s.fab.id
  | none => named = [] || named.head? = some s.fab.id

/-- Cluster memory other graphs hold on an exposed cluster. -/
def cmUsed (i x : Nat) (s : State) : Nat :=
  (s.graphs.slot.filter fun e => e.1 != i).foldl (fun n e => n + tget 0 e.2.cmHeld x) 0

/-- P weight slots other graphs hold on an exposed cluster. -/
def pUsed (i x : Nat) (s : State) : Nat :=
  (s.graphs.slot.filter fun e => e.1 != i).foldl (fun n e => n + tget 0 e.2.pHeld x) 0

/-- Cluster memory of an exposed cluster that a graph in slot `i` may use. -/
def cmFree (i x : Nat) (s : State) : Nat := 2 ^ 22 - sliceBytes s - cmUsed i x s

/-- P weight slots of an exposed cluster that a graph in slot `i` may use: three per engine in service. -/
def pFreeOn (i x : Nat) (s : State) : Nat :=
  3 * ((List.range 16).filter fun c => bankServes (physOf x s) c s).length - pUsed i x s

/-- Exposed ids that may be named: not reported fenced. -/
def healthyIds (s : State) : List Nat := (List.range 640).filter fun x => !hardFenced x s

/-- Clusters the firmware's own rule gives an operator, from those it may use (log 10). -/
def ownChoice (op : Nat) (l : List Nat) : List Nat :=
  if l = [] then []
  else ((List.range (Config.placementChoice op 0 % 640 + 1)).map fun k =>
    l.getD (Config.placementChoice op (k + 1) % l.length) 0).foldl (fun acc x => setInsert x acc) []

/-- Clusters a hint names. -/
def hintClusters (w : FitWait) (h : Hint) : List Nat :=
  if h.kind = 0 then groupMembers (w.groups ++ w.b.groups) h.target
  else if h.kind = 1 then (List.range 320).map fun k => h.target % 2 * 320 + k
  else []

/-- Weight sets of an operator of a bundle, 0 where it is not eligible. -/
def setsFor (b : Bundle) (op : Nat) : Nat := ((b.eligible.find? fun e => e.op = op).map (·.sets)).getD 0

/-- Clusters of one operator (R161), with the cluster memory and P slots that earlier operators of the placement take: a
require hint exactly; a prefer hint where its clusters have room; else the firmware's rule. A slot shortfall makes no prefer
hint unmet where P_SHORT leaves the operator on the T engines (R171). -/
def clustersFor (w : FitWait) (i : Nat) (h : BitVec 32) (op : Nat) (cm : Tab Nat) (slots : Nat) (s : State) : List Nat :=
  let room (x : Nat) : Bool := tget 0 cm x + Config.clusterMemoryNeed h op ≤ cmFree i x s
  let roomy := (healthyIds s).filter room
  let own := ownChoice op (if roomy = [] then healthyIds s else roomy)
  match hintOf w op with
  | none => own
  | some k =>
    if k.kind = 2 then own
    else if k.require_ then (hintClusters w k).filter fun x => k.kind = 0 || !hardFenced x s
    else
      let l := (hintClusters w k).filter fun x => !hardFenced x s && room x
      let free := (l.map fun x => pFreeOn i x s).foldl (· + ·) 0
      if l = [] || (!w.b.pShort && free < slots + setsFor w.b op) then own else l

/-- A placement: clusters of each operator, photonic operators with their sets and W, cluster memory and P slots. -/
structure Plan where
  placed : Tab (List Nat)
  photonic : List Photonic
  cm : Tab Nat
  deriving DecidableEq, Repr

/-- The placement of every operator of this package. -/
def planOf (w : FitWait) (i : Nat) (h : BitVec 32) (s : State) : Plan :=
  let (placed, cm, _) := ((List.range w.b.operators.length).filter fun op => placesHere w op s).foldl
    (fun (acc : Tab (List Nat) × Tab Nat × Nat) op =>
      let l := clustersFor w i h op acc.2.1 acc.2.2 s
      (tset [] acc.1 op l, l.foldl (fun u x => tmod 0 u x (· + Config.clusterMemoryNeed h op)) acc.2.1,
        acc.2.2 + setsFor w.b op)) ([], [], 0)
  ⟨placed, w.b.eligible.filter fun e => tget [] placed e.op != [], cm⟩

/-- Clusters short of cluster memory, with the bytes missing, ascending. -/
def cmShorts (i : Nat) (p : Plan) (s : State) : List (Nat × Nat) :=
  p.cm.filterMap fun e => if cmFree i e.1 s < e.2 then some (e.1, e.2 - cmFree i e.1 s) else none

/-- Clusters that hold photonic operators. -/
def photonicClusters (p : Plan) : List Nat :=
  (p.photonic.flatMap fun e => tget [] p.placed e.op).foldl (fun l x => setInsert x l) []

/-- Weight sets of a list of photonic operators. -/
def setsOf (l : List Photonic) : Nat := (l.map (·.sets)).foldl (· + ·) 0

/-- Free P weight slots on the clusters of a placement. -/
def pFreeOf (i : Nat) (p : Plan) (s : State) : Nat := (photonicClusters p).foldl (fun n x => n + pFreeOn i x s) 0

/-- Leaves operators on the T engines, in descending order of slot need, until the rest fits (R171). -/
def dropPhotonic (free : Nat) : List Photonic → List Photonic
  | [] => []
  | e :: t => if setsOf (e :: t) ≤ free then e :: t else dropPhotonic free t

/-- The photonic operators kept: all, or under P_SHORT 1 those whose slots fit. -/
def keptPhotonic (w : FitWait) (i : Nat) (p : Plan) (s : State) : List Photonic :=
  if w.b.pShort then
    dropPhotonic (pFreeOf i p s) (sortBy (fun x y => decide (y.sets ≤ x.sets)) p.photonic)
  else p.photonic

/-- Hands the weight sets out over the clusters, each up to its free slots, ascending. -/
def spreadSlots : Nat → List (Nat × Nat) → Tab Nat
  | _, [] => []
  | n, (x, f) :: t => if n = 0 then [] else if min n f = 0 then spreadSlots n t else (x, min n f) :: spreadSlots (n - min n f) t

/-- DRAM of a placement: intermediate tensors, and W × 768 bytes for each weight set kept (R93, R167). -/
def placeNeed (b : Bundle) (kept : List Photonic) : Nat :=
  ((b.tensors.filter (·.kind = 3)).map (·.storage)).foldl (· + ·) 0 + (kept.map fun e => e.sets * e.w * 768).foldl (· + ·) 0

/-- A graph with its placement's reservations counted as free (R161). -/
def unplaced (g : Graph) : Graph :=
  { g with placeHeld := [], placed := [], photonic := [], cmHeld := [], pHeld := [], peers := [],
           hostSpill := g.loadSpill.1, loans := g.loans.take g.loadSpill.2
           spilled := g.spilled.filter fun e => ((g.b.tensors[e.1]?).map (·.kind)) != some 3 }

/-- Constants of a graph that spilled. -/
def constsAway (g : Graph) : List Nat :=
  (g.spilled.map (·.1)).filter fun i => ((g.b.tensors[i]?).map (·.kind)) = some 2

/-- Bytes that lie before a constant among those that did not spill. -/
def constPos (g : Graph) (t : Tensor) : Nat :=
  t.constOff - (((constsAway g).filterMap (g.b.tensors[·]?)).filter fun x => x.constOff < t.constOff).foldl
    (fun n x => n + x.storage) 0

/-- The pieces of DRAM that hold the bytes of a loaded graph from a position up. -/
def loadSpans (g : Graph) (pos n : Nat) : List (Nat × Nat) := (splitSpans n (splitSpans pos g.loadHeld).2).1

/-- Where a tensor lies that the load has placed: pieces of local memory; none where it went to a lender, or is no constant
and no state tensor. State tensors follow the constants in index order (R164, R165, log 110). -/
def loadedAt (g : Graph) (i : Nat) : List (Nat × Nat) := match g.b.tensors[i]?, g.spilled.find? fun e => e.1 = i with
  | some t, some e => if e.2 < 2 ^ 40 then [(e.2, t.storage)] else []
  | some t, none =>
    if t.kind = 2 then
      (if g.constants.2 then [(g.constants.1 + t.constOff, t.storage)] else loadSpans g (constPos g t) t.storage)
    else if t.kind = 4 then
      let consts := if g.constants.2 then 0
        else g.b.constSize - ((constsAway g).filterMap (g.b.tensors[·]?)).foldl (fun n x => n + x.storage) 0
      let before := ((List.range i).filter fun k => ((g.b.tensors[k]?).map (·.kind)) = some 4 &&
        !(g.spilled.any fun e => e.1 = k)).foldl (fun n k => n + ((g.b.tensors[k]?).map (·.storage)).getD 0) 0
      loadSpans g (consts + before) t.storage
    else []
  | none, _ => []

/-- The bytes of a tensor that the load has placed, as local memory and the host give them (log 4). -/
def loadedBytes (g : Graph) (i : Nat) (s : State) : List Byte := (loadedAt g i).flatMap fun p => fwRead p.1 p.2 s

/-- The packed weight sets of a photonic operator, from its constants (R93). -/
def imagesOf (g : Graph) (s : State) (e : Photonic) : List Byte :=
  match g.b.operators[e.op]? with
  | some o => (match (o.ins[1]?).bind (g.b.tensors[·]?) with
    | some t =>
      ((weightSets o t (largestDims g.b.buckets t) (loadedBytes g (o.ins.getD 1 0) s)).take e.sets).flatMap setImage
    | none => [])
  | none => []

/-- Keeps a placement: its reservations, and the weight code images at the end of its DRAM (R93, R161, R167). -/
def keepPlace (w : FitWait) (i : Nat) (x : Spill) (p : Plan) (kept : List Photonic) (s : State) : State :=
  let g := slotGet i s
  let spill := x.used
  let spans := takeSpans (placeNeed w.b kept - spill) (freeRanges s)
  let peers := (namedPackages w).filter fun k => k != s.fab.id
  let images := kept.flatMap (imagesOf g s)
  let room := (spans.map (·.2)).foldl (· + ·) 0 - images.length
  writeSpans (splitSpans room spans).2 images <| slotSet i { g with
    state := some .placed, placeHeld := spans, placed := p.placed, photonic := (kept.map (·.op)).foldl (fun l x => setInsert x l) []
    cmHeld := p.cm, pHeld := spreadSlots (setsOf kept) ((photonicClusters p).map fun x => (x, pFreeOn i x s))
    hostSpill := g.hostSpill + (if w.b.policy = 2 then spill else 0), loans := g.loans ++ w.loans
    spilled := g.spilled ++ spillAddrs w x.which s, peers := peers } s

/-- The warning SPILL_HOST_SLOW of a graph with data in the host window (R170). -/
def spillWarn (g : Graph) : BitVec 32 := if 0 < g.hostSpill then 0x40 else 0

/-- PLACE of a graph in slot `i`: the fit of every resource and its end (R161, R167–R171). -/
def tryPlace (w : FitWait) (s : State) : State := match graphAt w.cmd.desc.target s with
  | none => returnLoans w.loans (finish w.cmd { st := .badArgument } s)
  | some (i, g) =>
    let code := (g.state.map GraphState.code).getD 0
    if g.state != some .loaded && g.state != some .placed then
      returnLoans w.loans (finish w.cmd { st := .wrongState, graph := code } s)
    else
      let s0 := slotSet i (unplaced g) s
      let p := planOf w i w.cmd.desc.target s0
      let kept := keptPhotonic w i p s0
      let free := pFreeOf i p s0
      let need_ := setsOf p.photonic
      let cm := cmShorts i p s0
      let fit (short spill : Nat) : Fit :=
        ⟨placeNeed w.b kept, rangeBytes (freeRanges s0), short, spill, w.refused && short != 0, need_, free,
         need_ - free, cm⟩
      let pBad := !w.b.pShort && free < need_
      match judgeFit w (placeNeed w.b kept) (rangeBytes (freeRanges s0)) with
      | .short n => returnLoans w.loans (finishWith w.cmd { st := .noFit, graph := code } (fitBytes (fit n 0)) s)
      | .ask n left =>
        if pBad || cm != [] then
          returnLoans w.loans (finishWith w.cmd { st := .noFit, graph := code } (fitBytes (fit left 0)) s)
        else askLender w n s
      | .fits x =>
        if pBad || cm != [] || w.cmd.desc.resLen.toNat < (fitBytes (fit 0 x.used)).length then
          returnLoans w.loans (finishWith w.cmd { st := .noFit, graph := code } (fitBytes (fit 0 0)) s)
        else
          let s1 := keepPlace w i x p kept s0
          finishWith w.cmd { graph := 2, warn := spillWarn (slotGet i s1) } (fitBytes (fit 0 x.used))
            (returnLoans (g.loans.drop g.loadSpill.2) s1)

/-- PLACE once begun: its own entries, then the placement (R160, R161). -/
def beginPlace (a : Accepted) (s : State) : State := match graphAt a.desc.target s with
  | none => finish a { st := .badArgument } s
  | some (_, g) =>
    if g.state != some .loaded && g.state != some .placed then
      finish a { st := .wrongState, graph := (g.state.map GraphState.code).getD 0 } s
    else
    let (bs, s1) := argBytes a.desc s
    match parsePlacement g.b.groups g.b.operators.length bs with
    | .error (st, i) => finish a { st := st, detail := BitVec.ofNat 32 i, graph := (g.state.map GraphState.code).getD 0 } s1
    | .ok (groups, hints) =>
      let w : FitWait := ⟨a, false, g.b, [], none, hints, groups, g.b.lenders, none, false, [], []⟩
      let used := (List.range g.b.operators.length).filterMap (hintOf w)
      match fencedHint (groups ++ g.b.groups) used s1 with
      | .error (st, i) =>
        finish a { st := st, detail := BitVec.ofNat 32 i, graph := (g.state.map GraphState.code).getD 0 } s1
      | .ok _ => tryPlace w s1

/-- The fit in progress goes on after a lender's answer or silence. -/
def resumeFit (w : FitWait) (s : State) : State := if w.load then tryLoad w s else tryPlace w s

/-- Takes a fit in progress out of those that wait. -/
def dropFit (w : FitWait) (s : State) : State :=
  { s with graphs := { s.graphs with fits := s.graphs.fits.filter fun x => x.cmd != w.cmd } }

/-- LENDER_TIMEOUT: a lender that has not answered within 10 ms is skipped (R170). -/
def execLenderTimeout (pkg : Nat) (s : State) : Step :=
  match s.graphs.fits.find? fun w => match w.asked with
    | some (p, _, at_, _) => p = pkg && at_ + 10000000 ≤ s.clock.now
    | none => false with
  | some w => if fwActs s then .next (resumeFit { w with asked := none, refused := true } (dropFit w s)) else .next s
  | none => .next s

/-- A lender's answer: granted with OK, refused with any other status (R170, R196). -/
def lenderAnswers (tag : BitVec 32) (ok : Bool) (window : Option (Nat × Nat)) (s : State) : State :=
  match s.graphs.fits.find? fun w => match w.asked with
    | some (_, _, _, t) => t = tag
    | none => false with
  | some w =>
    (match w.asked with
      | some (p, n, _, _) =>
        if ok then
          let (k, s1) := useFree s
          let at_ := window.getD (Config.freeNat k % 64, Config.freeNat k % 2 ^ 36)
          resumeFit { w with asked := none, loans := w.loans ++ [(p, at_.1, n)], bases := w.bases ++ [p * 2 ^ 40 + at_.2 % 2 ^ 40] }
            (dropFit w s1)
        else resumeFit { w with asked := none, refused := true } (dropFit w s)
      | none => s)
  | none => s

/-! ## UNLOAD (R166) -/

/-- UNLOAD once begun, legal in LOADED, PLACED and STALE (R264, R166): everything goes in one step, and loans return. -/
def beginUnload (a : Accepted) (s : State) : State := match graphAt a.desc.target s with
  | none => finish a { st := .badArgument } s
  | some (i, g) =>
    if g.state = some .running || g.state = some .paused then
      finish a { st := .wrongState, graph := (g.state.map GraphState.code).getD 0 } s
    else
      let s1 := slotSet i { gen := (g.gen + 1) % 2 ^ 26 } s
      finish a { warn := spillWarn g } (deriveDev (returnLoans g.loans s1))

end Sys2Proof.Machine
end

