-- ==== Sys2Proof/Machine/Graphs.lean ====
section
/-!
DEFINITION. Executions of graphs (chapters 6 and 10): START and its checks, the beginning and end of an execution,
PAUSE, RESUME and ABORT, deadlines and peers.
-/

namespace Sys2Proof.Machine

/-- State code of a graph for a completion. -/
def graphCode (g : Graph) : Nat := (g.state.map GraphState.code).getD 0

/-! ## START (R158, R159, R162, R165, R268) -/

/-- Indices of the tensors a binding table lists: inputs, outputs and states, in index order (R165). -/
def boundTensors (b : Bundle) : List Nat :=
  (List.range b.tensors.length).filter fun i => match b.tensors[i]? with
    | some t => t.kind = 0 || t.kind = 1 || t.kind = 4
    | none => false

/-- The binding table as tensor, address and length. -/
def bindingsOf (b : Bundle) (bs : List Byte) : List (Nat × Nat × Nat) :=
  let ts := boundTensors b
  ((List.range ts.length).zip ts).map fun e => (e.2, field bs (16 * e.1) 8, field bs (16 * e.1 + 8) 8)

/-- Number of shape variables over all sets. -/
def shapeCount (b : Bundle) : Nat := (b.buckets.map (·.vars)).foldl (· + ·) 0

/-- Package group sizes of a graph. -/
def groupSize (b : Bundle) (n : Nat) : Nat :=
  ((b.groups.find? fun g => g.number = n && g.isPackage).map (·.members.length)).getD 0

/-- Whether actual values keep the shape rules of R151. -/
def actualShapesOk (b : Bundle) (rows : List (List Nat)) : Bool :=
  let dims := dimsWith (rowValue rows)
  b.operators.all fun o =>
    shapesOk (groupSize b) o ((o.ins.filterMap (b.tensors[·]?)).map dims) ((o.outs.filterMap (b.tensors[·]?)).map dims)

/-- Whether a binding entry is long enough, or zero for a state tensor (R165). -/
def bindingOk (b : Bundle) (rows : List (List Nat)) (e : Nat × Nat × Nat) : Bool := match b.tensors[e.1]? with
  | some t => if t.kind = 4 then e.2.1 = 0 && e.2.2 = 0 else storageBytes t (dimsWith (rowValue rows) t) ≤ e.2.2
  | none => false

/-- Exposed clusters of a placement. -/
def placedIds (g : Graph) : List Nat := (g.placed.flatMap (·.2)).foldl (fun l x => setInsert x l) []

/-- Binds every unbound id of a placement to a spare (R82, R83). -/
def bindPlaced (g : Graph) (s : State) : State := (placedIds g).foldl (fun t x => bindSpare x t) s

/-- Whether some id of a placement needs a remap. -/
def remapOwed (g : Graph) (s : State) : Bool := (placedIds g).any s.comp.unbound.contains

/-- START executions a graph can still take: four pending beside the one that runs (R268). -/
def startRoom (g : Graph) : Bool := g.pending.length < (if g.running.isSome then 4 else 5)

/-- The argument checks of START: the values, the bindings, and both with no side effect (R159, R165). -/
def startArgs (d : Descriptor) (b : Bundle) (s : State) : Option (List (Nat × Nat × Nat) × List (List Nat)) :=
  let n := (boundTensors b).length
  let imm := d.imm0.toNat
  let vals := (List.range (shapeCount b)).map fun k => field (fwRead imm (4 * shapeCount b) s) (4 * k) 4
  let rows := if b.hasShapes then shapeRows b vals else []
  if d.argLen.toNat != 16 * n || (b.hasShapes != (imm != 0)) || (b.hasShapes && !argRegion imm (4 * shapeCount b) s)
  then none
  else match chooseBuckets b rows with
    | none => none
    | some bucket =>
      let binds := bindingsOf b (fwRead d.argAddr.toNat d.argLen.toNat s)
      if actualShapesOk b rows && binds.all (bindingOk b bucket) then some (binds, rows) else none

/-- Sends the confirmation of a START to every peer of the placement (R162). -/
def confirmPeers (g : Graph) (i : Nat) (s : State) : State :=
  g.peers.foldl (fun t p => sendSys p 2 i (sysBytes (.startConfirm g.b.id g.b.crc)) t) s

/-- START once begun. A remap takes place once every peer of the placement has confirmed (R83, R162). -/
def beginStart (a : Accepted) (s : State) : State := match graphAt a.desc.target s with
  | none => finish a { st := .badArgument } s
  | some (i, g) =>
    if g.state = some .stale || g.lost then finish a { st := .integrity, graph := graphCode g } s
    else if g.state != some .placed && g.state != some .running then
      finish a { st := .wrongState, graph := graphCode g } s
    else
      let s0 := { s with free := s.free + 1 }
      match startArgs a.desc g.b s with
      | none => finish a { st := .badArgument, graph := graphCode g } s0
      | some (binds, rows) =>
        let s1 := bindPlaced g s0  -- what the remap table becomes where no peer holds the START up
        if (placedIds g).any fun x => exposedFenced x s1 then
          finish a { st := .unitFenced, graph := graphCode g } s0
        else if !startRoom g then finish a { st := .full, graph := graphCode g } s0
        else
          let x : Execution :=
            { cmd := a, bindings := binds, shapes := rows.flatten, begun := false, work := [], failed := [], poisoned := []
              warn := spillWarn g ||| (if remapOwed g s then 0x100 else 0), deadlinePassed := false, peersOpen := g.peers
              peersBad := [] }
          let s2 := if g.peers = [] then refreshDegraded s1 else s0
          deriveDev (confirmPeers g i (slotSet i { slotGet i s2 with state := some .running, pending := g.pending ++ [x] } s2))

/-! ## Collectives (R369) -/

/-- The next package on the dimension-ordered route. -/
def nextPackage (a b : Nat) (s : State) : Nat :=
  match firstDim [0, 1, 2, 3, 4] a b s with
  | none => b
  | some (k, g) =>
    let e := extentOf k s
    let c := coord k a
    let c' := if g % 2 = 0 then (c + 1) % e else (c + e - 1) % e
    a - c * 16 ^ k + c' * 16 ^ k

/-- Packages on the route from one to another, both ends included. -/
def routePackages (b : Nat) (s : State) : Nat → Nat → List Nat
  | 0, a => [a]
  | n + 1, a => if a = b then [a] else a :: routePackages b s n (nextPackage a b s)

/-- Root of a chunk: for REDUCE_SCATTER its owner (log 36). -/
def chunkRoot (e : RedEntry) (chunk : Nat) : Nat :=
  if e.scatter then e.members.getD (chunk % e.members.length) e.root else e.root

/-- Leaf contributions expected at this package on the routes to the root of a chunk (R369). -/
def expectedHere (e : RedEntry) (chunk : Nat) (s : State) : Nat :=
  (e.members.filter fun m => (routePackages (chunkRoot e chunk) s 80 m).contains s.fab.id).length

/-- Whether an operator is a collective. -/
def isCollective (op : Nat) : Bool := 0x60 ≤ op && op ≤ 0x64

/-- The group of a collective: its attribute slot by Table 6-8. -/
def collectiveGroup (o : Operator) : Nat := if o.opcode = 0x62 then o.attr 2 else o.attr 1

/-- COLL_ID of operator `op` of the graph in slot `i` (log 36). -/
def collId (i op : Nat) : Nat := (i * 1024 + op) % 65536

/-- The reduction tables that the firmware programs for a graph at its start. -/
def programTables (i : Nat) (g : Graph) (s : State) : State :=
  ((List.range g.b.operators.length).zip g.b.operators).foldl (fun t e =>
    if isCollective e.2.opcode then
      let m := groupMembers g.b.groups (collectiveGroup e.2)
      let low := m.foldl min (m.headD 0)
      let r : RedEntry := ⟨m, if e.2.opcode = 0x63 then e.2.attr 0 else low, e.2.opcode = 0x62, i, e.2.outs.headD 0⟩
      { t with fab := { t.fab with tables := tset none t.fab.tables (collId i e.1) (some r) } }
    else t) s

/-! ## SEND and RECV (R150, R151) -/

/-- Tensors that depend on some tensors of a bundle, with those (R38). -/
def reachTensors (b : Bundle) : Nat → List Nat → List Nat
  | 0, ts => ts
  | k + 1, ts => reachTensors b k (b.operators.foldl (fun acc o =>
      if o.ins.any acc.contains then addPoisoned o.outs acc else acc) ts)

/-- Output tensors of a bundle that depend on some tensors. -/
def reachOutputs (b : Bundle) (ts : List Nat) : List Nat :=
  (reachTensors b b.operators.length ts).filter fun t => ((b.tensors[t]?).map (·.kind)) = some 1

/-- Poisons what depends on an operator's output. -/
def taintOp (op : Nat) (g : Graph) (x : Execution) : Execution :=
  { x with poisoned := addPoisoned (reachOutputs g.b [outOf g op]) x.poisoned }

/-- Where the address of a binding lies: local, a peer's, or this package's own global address, served locally
(R23, R165). -/
def boundLoc (a : Nat) (s : State) : Loc :=
  locHome (if a < 2 ^ 40 then .local a else .global (a / 2 ^ 40 % 2 ^ 20) (a % 2 ^ 40)) s

/-- The firmware writes bytes from a bound address up, wherever that lies (R165). -/
def boundWrite (a : Nat) (bs : List Byte) (s : State) : State := match boundLoc a s with
  | .global g b => if reachable g s then fwPeerWrites g b (bs.map fun x => (x, false)) s else fabCount 2 s
  | l => (locPieces l bs.length s).foldl (fun t q =>
      let at_ := locAdd l q.1
      let piece := (bs.drop q.1).take q.2
      match locHwin at_ t with
      | some off => if anyActive t then hostWrite off piece t else hwinFail t
      | none => locWrite fwRequester 0 at_ (piece.map fun x => (x, false)) t) s

/-- Poisons `n` bytes of one region of local memory; the host window carries no poison (Table 8-2, log 37). -/
def taintPiece (a n : Nat) (s : State) : State := match place a s with
  | .dram x => dramTaint x n s
  | .cm x o => (List.range (n / 2 ^ 22 + 2)).foldl (fun t k =>
      let lo := max o (k * 2 ^ 22)
      let hi := min (o + n) ((k + 1) * 2 ^ 22)
      if lo < hi then cmTaint (cmKey (physOf (x + k) t) (lo % 2 ^ 22)) (hi - lo) t else t) s
  | .ls x q o => (List.range (n / 2 ^ 18 + 2)).foldl (fun t k =>
      let lo := max o (k * 2 ^ 18)
      let hi := min (o + n) ((k + 1) * 2 ^ 18)
      if lo < hi then lsTaint (lsKey (physOf (x + (q + k) / 16) t) ((q + k) % 16) (lo % 2 ^ 18)) (hi - lo) t else t) s
  | _ => s

/-- Poisons the bytes from a bound address up: a peer's by writes with POISON (R38, R165). -/
def boundTaint (a n : Nat) (s : State) : State := match boundLoc a s with
  | .global g b => if reachable g s then fwPeerWrites g b (List.replicate n (0, true)) s else fabCount 2 s
  | .local b => (locPieces (.local b) n s).foldl (fun t q => taintPiece (b + q.1) q.2 t) s
  | _ => s

/-- The RECV operators of a graph that a SEND concerns: all of them at the start of an execution. -/
def recvsOf (g : Graph) (key : Option Nat) : List Nat :=
  (recvOps g).filter fun op => key.all fun k => (g.b.operators[op]?).any fun o => recvKey o = k

/-- Matches the SENDs that have arrived to the RECVs of the running execution of a graph, or one of them: once whole, its bytes
go to the bound output; poison and a mismatch poison what depends on it (R150, R151). -/
def matchRecv (i : Nat) (key : Option Nat) (s : State) : State :=
  let g := slotGet i s
  match g.running with
  | none => s
  | some x =>
    (recvsOf g key).foldl (fun t op => match g.b.operators[op]?, x.bindings.find? fun b => b.1 = outOf g op with
      | some o, some b =>
        if recvWhole g x op t then
          boundWrite b.2.1 (((tget [] t.fab.received (recvKey o)).filter fun e => e.1 < min b.2.2 (recvSize g.b x (outOf g op))).map
            fun e => e.2.getD 0) t
        else t
      | _, _ => t)
      (slotSet i { g with running := some ((recvOps g).foldl (fun y op =>
        if recvBad g op s || recvLong g x op s then taintOp op g y else y) x) } s)

/-- RECV_TIMEOUT: a RECV whose SEND has not arrived by its limit poisons its output (R150). -/
def execRecvTimeout (h : BitVec 32) (op : Nat) (s : State) : Step := match graphAt h s with
  | none => .next s
  | some (i, g) => match g.running with
    | some x =>
      if !(recvOps g).contains op || !recvLate g x s || recvWhole g x op s then .next s
      else .next (slotSet i { g with running := some (taintOp op g x) } s)
    | none => .next s

/-- Bytes of local memory from an address up, with their poison; those of the host window are free values (log 4). -/
def bytesFrom (a n : Nat) (s : State) : List (Byte × Bool) := (List.range n).map fun k =>
  match locHwin (.local (a + k)) s with
  | some off => (Config.hostByte s.free off, false)
  | none => let r := locByte fwRequester 0 (.local (a + k)) s; (r.1, r.2.1)

/-- Bytes of a tensor of the running execution, with their poison: a tensor bound in this package, a constant or a state
tensor as stored; one bound at a peer, and one that the firmware put where nothing states, are free values (log 50). -/
def tensorBytes (g : Graph) (x : Execution) (i n : Nat) (s : State) : List (Byte × Bool) × State :=
  let s1 := { s with free := s.free + 1 }
  let free := (List.range n).map fun k => (Config.hostByte s.free k, false)
  match (g.b.tensors[i]?).map (·.kind), x.bindings.find? fun b => b.1 = i with
  | some 4, _ => (if loadedAt g i = [] then free else ((loadedAt g i).flatMap fun p => bytesFrom p.1 p.2 s).take n, s1)
  | some 2, _ => (if loadedAt g i = [] then free else ((loadedAt g i).flatMap fun p => bytesFrom p.1 p.2 s).take n, s1)
  | some _, some b => (match boundLoc b.2.1 s with
      | .local a => (bytesFrom a n s, s1)
      | _ => (free, s1))
  | some _, none => (free, s1)
  | none, _ => ([], s)

/-- Keeps the data of a SEND under its sender and tag, and matches it to a RECV that runs (R150). -/
def takeSend (pkg tag off : Nat) (data : List Byte) (poison : Bool) (s : State) : State :=
  let key := pkg * 2 ^ 32 + tag
  let whole := ((List.range data.length).zip data).foldl (fun t e => tset none t (off + e.1) (some e.2))
    (tget [] s.fab.received key)
  let s1 := { s with fab := { s.fab with
    received := tset [] s.fab.received key whole
    receivedBad := if poison then setInsert key s.fab.receivedBad else s.fab.receivedBad } }
  (List.range 64).foldl (fun t i => matchRecv i (some key) t) s1

/-- The SEND_DATA flits of a tensor; one to this package itself never leaves it (R23, R150, R344). -/
def sendTensor (peer tag : Nat) (bs : List (Byte × Bool)) (s : State) : State :=
  (sendPieces (bs.length + 1) 0 bs).foldl (fun t q =>
    if peer = t.fab.id then takeSend peer tag q.1 q.2.1 q.2.2 t
    else sendFlit (mkFlit 0x12 0 peer t.fab.id t.comp.nextTag q.2.2
      (leBytes 4 tag ++ leBytes 8 q.1 ++ zeros 4 ++ q.2.1)) { t with comp := { t.comp with nextTag := t.comp.nextTag + 1 } }) s

/-- What the completion of a work item of a SEND sends: its operand to PEER under TAG (R150, log 50). -/
def sendOut (w : WorkItem) (s : State) : State := match graphAt w.graph s with
  | some (_, g) => match g.running, g.b.operators[w.opIndex.toNat]? with
    | some x, some o =>
      if o.opcode != 0x65 then s
      else
        let i := o.ins.headD 0
        let (bs, s1) := tensorBytes g x i (recvSize g.b x i) s
        sendTensor (o.attr 0 % 2 ^ 20) (o.attr 1 % 2 ^ 32) bs s1
    | _, _ => s
  | none => s

/-! ## The beginning and the end of an execution -/

/-- The counters of a cluster as an auto-reset finds them; those of a reset in the same handshake stand (R466). -/
def beforeReset (p : Nat) (s : State) : PreReset :=
  let now : PreReset :=
    ⟨s.clock.now, (List.range 16).map fun k => tget 0 s.counts.clusters (p * 16 + k),
     (List.range 16).map (fun c => (List.range 8).map fun k => tget 0 s.counts.cores ((p * 16 + c) * 8 + k)),
     max (tget 0 s.counts.since (flankNum (flankOf p))) (tget 0 s.counts.sinceCluster p)⟩
  match tget none s.counts.preReset p with
  | some x => if x.at_ = s.clock.now then x else now
  | none => now

/-- Zeroes the cluster and core counters of a placement, where auto-reset is set (R465). -/
def autoReset (g : Graph) (s : State) : State :=
  if !s.counts.autoReset then s
  else
    let ps := (placedIds g).map fun x => physOf x s
    { s with counts := { s.counts with
        clusters := tclear s.counts.clusters fun k => ps.contains (k / 16)
        cores := tclear s.counts.cores fun k => ps.contains (k / 128)
        preReset := ps.foldl (fun t p => tset none t p (some (beforeReset p s))) s.counts.preReset
        sinceCluster := ps.foldl (fun t p => tset 0 t p s.clock.now) s.counts.sinceCluster } }

/-- EXECUTION_BEGIN: the oldest pending execution of a graph runs once those ahead of it have ended and its peers have
confirmed (R268, R162, R465). -/
def execExecutionBegin (h : BitVec 32) (s : State) : Step := match graphAt h s with
  | none => .next s
  | some (i, g) => match g.running, g.pending with
    | none, x :: rest =>
      if g.state != some .running || x.peersOpen != [] || x.peersBad != [] || !fwActs s || graphHeld h s then .next s
      else
        let s1 := slotSet i { g with running := some { x with begun := true }, pending := rest } s
        .next (matchRecv i none (deriveDev (programTables i g (autoReset g s1))))
    | _, _ => .next s

/-- One entry of the per-part table, Table 10-7 (R260). -/
def partEntry (kind id cause : Nat) (failed : Bool) : List Byte :=
  leBytes 1 kind ++ leBytes 1 (bit failed) ++ leBytes 1 cause ++ zeros 1 ++ leBytes 4 id

/-- Parts of an execution that completed: clusters of the placement and peers. -/
def goodParts (g : Graph) (x : Execution) : List (Nat × Nat) :=
  ((placedIds g).map fun e => (0, e)) ++ (g.peers.map fun p => (2, p)) |>.filter fun k =>
    !x.failed.any fun f => f.kind = k.1 && f.id = k.2

/-- The per-part table in full (R260). -/
def partTable (g : Graph) (x : Execution) : List (List Byte) :=
  ((sortBy (fun a b => decide (a.id ≤ b.id)) x.failed).map fun f => partEntry f.kind f.id f.cause true) ++
  (x.poisoned.map fun t => partEntry 3 t 0 false) ++ (goodParts g x).map fun k => partEntry k.1 k.2 0 false

/-- The per-part table cut after the last whole entry that fits (R260). -/
def partBytes260 (g : Graph) (x : Execution) (room : Nat) : List Byte :=
  let es := partTable g x
  let n := min es.length ((room - 16) / 8)
  if room < 16 then []
  else leBytes 2 0x0100 ++ leBytes 2 (bit (n < es.length)) ++ leBytes 4 es.length ++ leBytes 4 x.failed.length ++
    leBytes 4 x.poisoned.length ++ (es.take n).flatten

/-- Poisons the outputs of failed parts in the memory the host bound (R38, R165; log 37). -/
def taintOutputs (x : Execution) (s : State) : State :=
  x.bindings.foldl (fun t b => if x.poisoned.contains b.1 then boundTaint b.2.1 b.2.2 t else t) s

/-- The state a graph returns to when its running execution has ended. -/
def afterRun (g : Graph) : GraphState := if g.lost then .stale else if g.pending = [] then .placed else .running

/-- Ends the pending executions of a graph whose memory is lost (R200). -/
def endStale (i : Nat) (s : State) : State :=
  let g := slotGet i s
  if g.lost then
    g.pending.foldl (fun t x => finish x.cmd { st := .integrity, graph := 5 } t) (slotSet i { g with pending := [] } s)
  else s

/-- Completes the running execution: OK, or PARTIAL with its table where a part failed or an output is poisoned
(R38, R165, R260, R372). -/
def endExecution (i : Nat) (g : Graph) (x : Execution) (s : State) : State :=
  let g1 := { g with running := none, state := some (afterRun g) }
  let s1 := deriveDev (endStale i (slotSet i g1 (taintOutputs x s)))
  let res : Res := { warn := x.warn ||| (if x.deadlinePassed then 0x20 else 0), graph := graphCode (slotGet i s1) }
  if x.failed = [] && x.poisoned = [] then finish x.cmd res s1
  else
    let bs := if x.cmd.desc.resAddr = 0 then [] else partBytes260 g x x.cmd.desc.resLen.toNat
    finish x.cmd { res with st := .partialDone, written := BitVec.ofNat 32 bs.length }
      (fwWrite x.cmd.desc.resAddr.toNat bs s1)

/-- The execution as its end finds it: a RECV still short after its limit has poisoned its output. -/
def lateRecvs (g : Graph) (x : Execution) (s : State) : Execution :=
  (recvOps g).foldl (fun y op => if recvWhole g x op s then y else taintOp op g y) x

/-- Forgets the SENDs that the RECVs of an execution have matched. -/
def dropReceived (g : Graph) (s : State) : State :=
  let keys := (recvOps g).filterMap fun op => (g.b.operators[op]?).map recvKey
  { s with fab := { s.fab with received := tclear s.fab.received keys.contains
                               receivedBad := s.fab.receivedBad.filter fun k => !keys.contains k } }

/-- Whether a collective of the graph in a slot waits for its result: a router of this package holds a slot of it (R370). -/
def collWaits (i : Nat) (g : Graph) (s : State) : Bool := s.fab.slots.any fun e =>
  (List.range g.b.operators.length).any fun op => collId i op = e.1 / 2 ^ 32 % 2 ^ 16 &&
    (g.b.operators[op]?).any fun o => isCollective o.opcode

/-- EXECUTION_END: every operator that this package places has run, every work item of the running execution has completed,
every RECV has its SEND, or has passed its limit, and no collective waits for its result (R148, R150, R165, R268). -/
def execExecutionEnd (h : BitVec 32) (s : State) : Step :=
  let s0 := if fwActs s then fwReadDone .south (fwReadDone .north s) else s
  match graphAt h s0 with
  | none => .next s0
  | some (i, g) => match g.running with
    | some x =>
      if !fwActs s0 || g.state != some .running || !x.begun || x.work != [] || !opsFinished g x s0 || collWaits i g s0
      then .next s0
      else
        let late := x.deadlinePassed || (g.b.deadline != 0 && x.cmd.tAccept + g.b.deadline < s0.clock.now)
        .next (endExecution i g (lateRecvs g { x with deadlinePassed := late } s0) (dropReceived g s0))
    | none => .next s0

/-! ## Deadlines and peers -/

/-- DEADLINE_EXPIRY: the running execution passes its DEADLINE_NS (R163, Table 17-9). -/
def execDeadlineExpiry (h : BitVec 32) (s : State) : Step := match graphAt h s with
  | none => .next s
  | some (i, g) => match g.running with
    | some x =>
      if g.b.deadline = 0 || x.deadlinePassed || s.clock.now ≤ x.cmd.tAccept + g.b.deadline || !fwRuns s then .next s
      else .next (cairnFire 5 h (slotSet i { g with running := some { x with deadlinePassed := true } } s))
    | none => .next s

/-- Ends a pending START that its peers do not let run, with no side effect (R162). -/
def endPending (i : Nat) (x : Execution) (st : Status) (s : State) : State :=
  let g := slotGet i s
  let rest := g.pending.filter fun y => y.cmd != x.cmd
  let g1 := { g with pending := rest,
                     state := if g.running.isNone && rest = [] && g.state = some .running then some .placed else g.state }
  finish x.cmd { st := st, graph := graphCode g1 } (deriveDev (slotSet i g1 s))

/-- PEER_START_TIMEOUT: a peer has not started within PEER_WAIT_MS, 100 ms by default (R162, R163). -/
def execPeerStartTimeout (h : BitVec 32) (peer : Nat) (s : State) : Step := match graphAt h s with
  | none => .next s
  | some (i, g) =>
    let wait := (if g.b.peerWaitMs = 0 then 100 else g.b.peerWaitMs) * 1000000
    match g.pending.find? fun x => x.peersOpen.contains peer && x.cmd.tAccept + wait ≤ s.clock.now with
    | some x => if fwActs s then .next (endPending i x .timeout s) else .next s
    | none => .next s

/-- A START whose peers have all confirmed: the ids of its placement take their spares, or the START ends with UNIT_FENCED
(R83, R162). -/
def startConfirmedAll (i : Nat) (x : Execution) (s : State) : State :=
  let g := slotGet i s
  let s1 := bindPlaced g s
  if (placedIds g).any fun e => exposedFenced e s1 then endPending i x .unitFenced s
  else refreshDegraded (slotSet i { g with pending := g.pending.map fun y =>
    if y.cmd = x.cmd then { y with warn := y.warn ||| (if remapOwed g s then 0x100 else 0) } else y } s1)

/-- A peer's answer to a START confirmation: it goes on, or the START ends with INTEGRITY (R162). -/
def peerConfirms (i peer : Nat) (ok : Bool) (s : State) : State :=
  let g := slotGet i s
  match g.pending.find? fun x => x.peersOpen.contains peer with
  | none => s
  | some x =>
    if ok then
      let left := x.peersOpen.filter (· != peer)
      let s1 := slotSet i { g with pending := g.pending.map fun y =>
        if y.cmd = x.cmd then { y with peersOpen := left } else y } s
      if left = [] then startConfirmedAll i x s1 else s1
    else endPending i x .integrity s

/-! ## PAUSE, RESUME, ABORT (R269) -/

/-- TARGET "all". -/
def targetAll (d : Descriptor) : Bool := d.target = 0xFFFFFFFF

/-- Handles of the graphs in one of some states. -/
def handlesIn (p : GraphState → Bool) (s : State) : List (BitVec 32) :=
  s.graphs.slot.filterMap fun e => match e.2.state with
    | some st => if p st then some (handleOf e.1 e.2) else none
    | none => none

/-- A PAUSE or ABORT begins on a graph, for a command or for the watchdog. -/
def startEnding (a : Option Accepted) (abort : Bool) (h : BitVec 32) (s : State) : State := match graphAt h s with
  | some (i, g) => slotSet i { g with ending := g.ending ++ [(a, abort)] } s
  | none => s

/-- Records a command with "all" and the graphs it waits for. -/
def noteAll (a : Accepted) (hs : List (BitVec 32)) (s : State) : State :=
  { s with graphs := { s.graphs with allCmd := s.graphs.allCmd ++ [(a, hs.map BitVec.toNat)] } }

/-- A graph that a command waited for is done; the command completes with the last one. -/
def endingDone (a : Option Accepted) (h : BitVec 32) (res : Res) (s : State) : State := match a with
  | none => s
  | some c =>
    if targetAll c.desc then
      match s.graphs.allCmd.find? fun e => e.1 = c with
      | some (_, hs) =>
        let left := hs.filter (· != h.toNat)
        let others := s.graphs.allCmd.filter fun e => e.1 != c
        if left = [] then finish c {} { s with graphs := { s.graphs with allCmd := others } }
        else { s with graphs := { s.graphs with allCmd := others ++ [(c, left)] } }
      | none => s
    else finish c res s

/-- Operations of a graph that an engine queue holds. -/
def ofGraph (c : ClusterSt) (h : BitVec 32) (op : EngOp) : Bool :=
  c.set.any fun w => w.seq = op.wi && w.item.graph = h

/-- Operations of an engine that are in progress. -/
def inProgress (e : Engine) (x : EngineSt) : List EngOp := match e with
  | .p =>
    (if x.fill.isSome then ((splitFill x.q).map (·.2)).toList else []) ++
      (if x.run.isSome then ((splitRun x.q).map (·.2)).toList else [])
  | _ => if x.run.isSome then x.q.take 1 else []

/-- An engine whose queued operations of a graph are discarded, a credit granted for each; those in progress stay
(R67, R269). -/
def discardGraph (c : ClusterSt) (h : BitVec 32) (e : Engine) (x : EngineSt) : EngineSt :=
  let keep := inProgress e x
  let rest := keep.foldl (fun q o => q.erase o) x.q
  let kept := rest.filter fun o => !ofGraph c h o
  { x with q := keep ++ kept, ctr := x.ctr.grant (rest.length - kept.length) }

/-- Discards a graph's queued work on a cluster. -/
def discardOn (p : Nat) (h : BitVec 32) (s : State) : State :=
  let c := clusterGet p s
  let mine := c.q.filter fun w => w.item.graph = h
  if mine = [] && !(c.set.any fun w => w.item.graph = h) then s
  else
    let s1 := (List.range 16).foldl (fun t k =>
      engines.foldl (fun u e => engSet p k e (discardGraph c h e (engGet p k e u)) u) t) s
    let busy := (List.range 16).flatMap fun k => engines.flatMap fun e => (inProgress e (engGet p k e s1)).map (·.wi)
    clusterSet p { clusterGet p s1 with
      q := c.q.filter fun w => w.item.graph != h, qc := c.qc.grant mine.length
      set := c.set.filterMap fun w =>
        if w.item.graph != h then some w
        else if busy.contains w.seq then some { w with pending := busy.count w.seq } else none } s1

/-- Discards a graph's queued work on every cluster (R269). -/
def discardWork (h : BitVec 32) (s : State) : State := (List.range 660).foldl (fun t p => discardOn p h t) s

/-- Whether no engine but an M engine that only awaits answers is inside an operation of a graph; a pause also waits for
the pitch checks in progress on its clusters (R73, R110, R269). -/
def graphStill (h : BitVec 32) (abort : Bool) (s : State) : Bool :=
  s.comp.clusters.all fun e =>
    (abort || !checkRunning e.1 s || !(e.2.q.any (fun w => w.item.graph = h) || e.2.set.any fun w => w.item.graph = h)) &&
    (List.range 16).all fun k => engines.all fun g =>
      (inProgress g (engGet e.1 k g s)).all fun o => !ofGraph e.2 h o || (!abort && g = .m)

/-- PAUSE once begun. -/
def beginPause (a : Accepted) (s : State) : State :=
  if targetAll a.desc then
    let hs := handlesIn (· = .running) s
    if hs = [] then finish a { st := .wrongState } s
    else noteAll a hs (hs.foldl (fun t h => startEnding (some a) false h t) s)
  else match graphAt a.desc.target s with
    | none => finish a { st := .badArgument } s
    | some (_, g) =>
      if g.state = some .running then startEnding (some a) false a.desc.target s
      else finish a { st := .wrongState, graph := graphCode g } s

/-- A graph whose engines have stopped is PAUSED. -/
def pauseDone (h : BitVec 32) (s : State) : State := match graphAt h s with
  | some (i, g) =>
    let (mine, rest) := g.ending.partition fun e => !e.2
    let s1 := deriveDev (slotSet i { g with state := some .paused, ending := rest } s)
    mine.foldl (fun t e => endingDone e.1 h { graph := 4 } t) s1
  | none => s

/-- PAUSE_COMPLETE: every T, V and P engine of the graph has stopped at its boundary (R73, R269). -/
def execPauseComplete (h : BitVec 32) (s : State) : Step := match graphAt h s with
  | some (_, g) =>
    if g.state = some .running && g.ending.any (fun e => !e.2) && !(g.ending.any fun e => e.2) && graphStill h false s &&
        fwActs s
    then .next (pauseDone h s) else .next s
  | none => .next s

/-- A paused graph runs on. -/
def resumeGraph (h : BitVec 32) (s : State) : State := match graphAt h s with
  | some (i, g) => slotSet i { g with state := some .running } s
  | none => s

/-- RESUME once begun; the requests that the pause held go out (R73). -/
def beginResume (a : Accepted) (s : State) : State :=
  if targetAll a.desc then
    let hs := handlesIn (· = .paused) s
    if hs = [] then finish a { st := .wrongState } s
    else finish a {} (deriveDev (fabricRetry (hs.foldl (fun t h => resumeGraph h t) s)))
  else match graphAt a.desc.target s with
    | none => finish a { st := .badArgument } s
    | some (_, g) =>
      if g.state = some .paused then finish a { graph := 3 } (deriveDev (fabricRetry (resumeGraph a.desc.target s)))
      else finish a { st := .wrongState, graph := graphCode g } s

/-- ABORT once begun: queued work items and operations are discarded at once (R269). -/
def beginAbort (a : Accepted) (s : State) : State :=
  if targetAll a.desc then
    let hs := handlesIn (fun st => st = .running || st = .paused) s
    if hs = [] then finish a { st := .wrongState } s
    else noteAll a hs (hs.foldl (fun t h => discardWork h (startEnding (some a) true h t)) s)
  else match graphAt a.desc.target s with
    | none => finish a { st := .badArgument } s
    | some (_, g) =>
      if g.state = some .running || g.state = some .paused then
        discardWork a.desc.target (startEnding (some a) true a.desc.target s)
      else finish a { st := .wrongState, graph := graphCode g } s

/-- Every START of the graph completes ABORTED, the graph returns to PLACED, and the ABORTs complete OK; a PAUSE that
was still under way finds the execution gone (R269). -/
def abortDone (h : BitVec 32) (s : State) : State := match graphAt h s with
  | some (i, g) =>
    let st : GraphState := if g.lost then .stale else .placed
    let g1 := { g with running := none, pending := [], ending := [], state := some st }
    let s1 := deriveDev (slotSet i g1 s)
    let s2 := (g.running.toList ++ g.pending).foldl (fun t x => finish x.cmd { st := .aborted, warn := x.warn, graph := st.code } t) s1
    g.ending.foldl (fun t e =>
      endingDone e.1 h { st := if e.2 then .ok else .wrongState, graph := st.code } t) s2
  | none => s

/-- Work items of a graph left in working sets go when its execution has been aborted. -/
def dropItems (h : BitVec 32) (s : State) : State :=
  s.comp.clusters.foldl (fun t e =>
    if e.2.set.any fun w => w.item.graph = h then
      clusterSet e.1 { clusterGet e.1 t with set := (clusterGet e.1 t).set.filter fun w => w.item.graph != h } t
    else t) s

/-- ABORT_COMPLETE: operations in progress have reached their boundaries (R269). -/
def execAbortComplete (h : BitVec 32) (s : State) : Step := match graphAt h s with
  | some (_, g) =>
    if g.ending.any (fun e => e.2) && graphStill h true s && fwActs s then .next (abortDone h (dropItems h s)) else .next s
  | none => .next s

/-- PAUSE with "all" of the watchdog (R275). -/
def pauseAll (s : State) : State := (handlesIn (· = .running) s).foldl (fun t h => startEnding none false h t) s

end Sys2Proof.Machine
end

