-- ==== Sys2Proof/Machine/Collector.lean ====
section
/-!
DEFINITION. Faults and counters as commands and events reach them (chapter 17): what fencing a unit brings, events of a
source, forced events, FAULT_READ, FAULT_CLEAR, and the event counters.
-/

namespace Sys2Proof.Machine

/-! ## What a class U event of a source brings beside its record (R450) -/

/-- The port of a control-port source. -/
def portOfSource (src : Nat) : Port := if src % 2 = 0 then .cp0 else .cp1

/-- What the fencing of a unit brings, by its type; parts with no operation of their own only stand on the fence list. -/
def unitOut (src core : Nat) (s : State) : State :=
  let i := src % 4096
  match src / 4096 with
  | 1 => fenceCore i core s
  | 2 => fenceCluster i s
  | 3 => fenceBank i core s
  | 4 => refreshDegraded (stackGone (i / 32) { s with
      stk := { s.stk with channelsFailed := setInsert i s.stk.channelsFailed } })
  | 5 => refreshDegraded (stackGone i s)
  | 6 => if i < 136 || i = 140 || s.part.guest.isSome then moduleChanged i (modSet i { modGet i s with state := .out } s) else s
  | 7 =>
    let s1 := setChan i { chanSide i s with state := .fenced, urgent := false, walk := {} } s
    if instRx i then s1 else coverChannel (instLink i) (instCh i) true 1 s1
  | 8 => linkDown i s
  | 9 => (List.range 4).foldl (fun t k => linkDown (i * 4 + k) t) s
  | 10 => if isComb i then combLineLost i s else if i < 0x120 then linkLaserLost i s else portLaserLost i s
  | 11 => flankOut (flankOfNum i) .fenced s
  | 12 => guestOut s
  | 13 => portOut (portOfSource src) s
  | 14 => if i = 1 then portsOut s else s
  | _ => s

/-- The on-die word that a detected error is in, which the spec leaves open: a word of the core's local store, or of any
memory of the cluster. Numbered through the cluster memory, then the sixteen local stores; free (log 106). -/
def badWord (src core n : Nat) : Nat :=
  if src / 4096 = 1 then 2 ^ 19 + core * 2 ^ 15 + Config.freeNat n % 2 ^ 15 else Config.freeNat n % 2 ^ 20

/-- Poisons an on-die word of a physical cluster: it is rewritten with the poison pattern (R189). -/
def poisonWord (p w : Nat) (s : State) : State :=
  if w < 2 ^ 19 then cmTaint (cmKey p (w * 8)) 8 s
  else lsTaint (lsKey p ((w - 2 ^ 19) / 2 ^ 15) ((w - 2 ^ 19) % 2 ^ 15 * 8)) 8 s

/-- A detected double-bit error of a cluster's memories: the word is poisoned; the same word twice within 1 s fails its core
or its cluster, with a class U fault (chapter 3, R189). -/
def wordLost (src core : Nat) (s : State) : State :=
  let p := src % 4096
  let w := badWord src core s.free
  let key := p * 2 ^ 20 + w
  let fresh := s.comp.words.filter fun x => s.clock.now < x.2 + 1000000000
  let again := fresh.any fun x => x.1 = key
  let s1 := poisonWord p w { s with free := s.free + 1
                                    comp := { s.comp with words := (key, s.clock.now) :: fresh.filter fun x => x.1 != key } }
  if !again then s1
  else if w < 2 ^ 19 then failCluster p s1
  else if coreFenced p ((w - 2 ^ 19) / 2 ^ 15) s1 then s1
  else fenceCore p ((w - 2 ^ 19) / 2 ^ 15) (reportFrom p (evt (0x1000 + p) .u ((w - 2 ^ 19) / 2 ^ 15)) s1)

/-- What a detected error of a cluster's memories does beside its record: a corrected word is counted, in the cluster for
its memory and in the core for its local store (R85); a double-bit error poisons its word (R189, log 106). -/
def wordError (e : FaultInput) (s : State) : State :=
  let src := e.source.toNat
  let p := src % 4096
  let core := coreOf src e.syndrome
  if e.forced || !(src / 4096 = 1 || src / 4096 = 2) || 660 ≤ p then s
  else match e.cls with
    | .c => if src / 4096 = 1 then countCore p core 6 1 s else countCluster p 14 1 s
    | .d => wordLost src core s
    | _ => s

/-- Whether a unit is out of service already. -/
def alreadyOut (src core : Nat) (s : State) : Bool :=
  isFenced src core s || (src / 4096 = 3 && bankFenced (src % 4096) core s) ||
    (src / 4096 = 11 && (flankPhase (flankOfNum (src % 2)) s = .fenced || flankPhase (flankOfNum (src % 2)) s = .lost))

/-- A source's event enters the collector, and a class U event fences its unit (R450, R452). The first event of a paused
cluster carries RESUMED (R35). -/
def sourceEvent (e : FaultInput) (s : State) : State :=
  let src := e.source.toNat
  let core := coreOf src e.syndrome
  let s1 := if e.resumed.isNone && (src / 4096 = 1 || src / 4096 = 2 || src / 4096 = 3) then reportFrom (src % 4096) e s
            else report e s
  if e.cls = .u && !alreadyOut src core s then unitOut src core s1 else s1

/-- FAULT_EVENT: a source reports an event (R452). -/
def execFaultEvent (e : FaultInput) (s : State) : Step :=
  if !sourceExists e.source.toNat || (namesGuest e.source.toNat && s.part.guest.isNone) then .next s
  else
    let e1 := { e with forced := false }
    .next (wordError e1 (sourceEvent e1 s))

/-! ## Force bits (R460) -/

/-- Types of source that deliver data to a requester: cores, clusters, banks, stack channels, stacks, modules, lanes, links
and the guest (log 38). -/
def delivers (src : Nat) : Bool := [1, 2, 3, 4, 5, 6, 7, 8, 12].contains (src / 4096)

/-- A forced event: acted on as a detected one, with FORCED set; class D poisons the next data item, class U fences until the
next package reset (R460). -/
def forceEvent (src : Nat) (c : FClass) (syn : BitVec 64) (s : State) : State :=
  let e : FaultInput := ⟨BitVec.ofNat 16 src, c, syn, none, true⟩
  let key := fenceKey src (coreOf src syn)
  let s0 := match c with
    | .d => if delivers src then { s with faults := { s.faults with poisonNext := setInsert key s.faults.poisonNext } } else s
    | .u => if alreadyOut src (coreOf src syn) s then s
            else { s with faults := { s.faults with forcedUnits := setInsert key s.faults.forcedUnits } }
    | _ => s
  sourceEvent e s0

/-- FAULT_FORCE (R460). -/
def beginForce (a : Accepted) (s : State) : State :=
  match (if a.desc.target.toNat < 65536 then sourceCheck a.desc.target.toNat s else some .badArgument) with
  | some st => finish a { st := st } s
  | none =>
    let c := classOfCode a.desc.imm0.toNat
    if c = .x then forceEvent a.desc.target.toNat c a.desc.imm1 (finish a {} s)
    else finish a {} (forceEvent a.desc.target.toNat c a.desc.imm1 s)

/-- A write to FLT_FORCE: the source in [15:0], the class in [17:16], syndrome zero (R460). -/
def fltForceWrite (v : BitVec 64) (s : State) : Status × State :=
  let src := v.toNat % 65536
  match sourceCheck src s with
  | some st => (st, s)
  | none => (.ok, forceEvent src (classOfCode (v.toNat / 65536)) 0 s)

/-- FLT_FORCE_WRITE: the register is secure (R460, R12). -/
def execFltForceWrite (v : BitVec 64) (a : Access) (s : State) : Step :=
  if a.secure then
    let r := fltForceWrite v s
    .next (emit (.reply r.1 0) r.2)
  else .next (emit (.reply .denied 0) (secureFault a.port 0xFF00040008 2 0 s))

/-! ## Causes that persist (Table 17-6) -/

/-- Source id that an implausible sensor's part reports under (R414). -/
def sensorSource (j : Nat) : Nat := if j < 660 then 0x2000 + j else (partOf j).1

/-- Whether an excluded sensor stands for a group. -/
def sensorCause (key : Nat) (s : State) : Bool :=
  s.therm.sensor.any fun e => e.2.excluded && groupKey (sensorSource e.1) = key

/-- Whether a laser's cause persists: its mean bias at 80 % of its limit, or a hand-over of its wavelength. -/
def laserCause (i : Nat) (s : State) : Bool :=
  let x := laserGet i s
  biasLimit i x.band * 80 ≤ meanBias x * 100 ||
    (if isComb i then
      let (chip, _, k) := combOf i
      (tget none s.banks.handover (lineKey chip k)).isSome
    else i < 0x120 && (tget none s.las.handover (waveKey (i / 36) (i % 18))).isSome)

/-- Whether a lane's cause persists. -/
def laneCause (i : Nat) (s : State) : Bool :=
  let st := (chanSide i s).state
  st = .moving || st = .check || st = .relock || st = .warming

/-- Whether a bank's cause persists. -/
def bankCause (p c : Nat) (s : State) : Bool :=
  let st := (bankGet p c s).state
  st = .check || st = .relock || st = .retune || st = .lightPause || st = .outOfRange

/-- Whether a module's cause persists. -/
def moduleCause (m : Nat) (s : State) : Bool :=
  (modGet m s).state = .retrain ||
    ((modGet m s).state = .clockLost &&
      !(flankPhase .north s = .lost && (m < 96 || (128 ≤ m && m < 132))) &&
      !(flankPhase .south s = .lost && (m < 64 || (96 ≤ m && m < 128) || (132 ≤ m && m < 136))))

/-- Whether some cause persists for a source of a group (Table 17-6). A class X cause lasts until the Col or package reset
that ends FAULTED. -/
def causePersists (key : Nat) (c : FClass) (s : State) : Bool :=
  let i := key % 4096
  (c = .x && (s.dev.state = .faulted || s.cairn.xDue)) || sensorCause key s ||
  (match key / 4096 with
    | 3 => (List.range 16).any fun k => bankCause i k s
    | 6 => (List.range 141).any fun m => moduleGroup m = i && moduleCause m s
    | 7 => (List.range 36).any fun k => laneCause (i * 36 + k) s
    | 10 => (chipLasers i).any fun l => laserCause l s
    | 13 => (portSt (portOfSource key) s).phase != .active
    | _ => false)

/-! ## FAULT_READ (R456–R458) -/

/-- A 32-byte history entry, Table 17-5. -/
def histBytes (h : HistEntry) : List Byte :=
  leBytes 2 h.source.toNat ++ leBytes 1 h.flags.toNat ++ leBytes 1 h.index ++ leBytes 4 h.pauseUs.toNat ++
  leBytes 8 h.time ++ leBytes 8 h.syndrome.toNat ++ leBytes 4 h.count ++ zeros 4

/-- A 64-byte fault record, Table 17-4. -/
def recordBytes (i : Nat) (r : FaultRec) (s : State) : List Byte :=
  let flags := classCode r.cls + 4 * bit r.escalated + 8 * bit r.forced +
    16 * bit (causePersists r.group.toNat r.cls s) + 32 * bit r.holdsFirst
  leBytes 2 r.group.toNat ++ leBytes 1 i ++ leBytes 1 flags ++ leBytes 4 r.count ++ leBytes 2 r.sourceFirst.toNat ++
  leBytes 2 r.sourceLast.toNat ++ leBytes 4 r.pauseUs.toNat ++ leBytes 8 r.tFirst ++ leBytes 8 r.tLast ++
  leBytes 8 r.synFirst.toNat ++ leBytes 8 r.synLast.toNat ++ leBytes 1 r.lastFlags.toNat ++ zeros 15

/-- The open records in ascending index. -/
def openRecords (s : State) : List (Nat × FaultRec) := s.faults.records.filterMap fun e => e.2.map fun r => (e.1, r)

/-- Valid history entries. -/
def histValid (s : State) : Nat := min 16 s.faults.entered

/-- The 16 history slots, oldest first. -/
def histOldest (s : State) : List HistEntry :=
  (List.range 16).map fun i => tget {} s.faults.hist (if s.faults.entered < 16 then i else (s.faults.entered + i) % 16)

/-- The fence list: source id in [15:0], core number in [19:16]. -/
def fenceBytes (s : State) : List Byte :=
  s.faults.fenced.flatMap fun k => leBytes 4 (k / 16 + (k % 16) * 65536)

/-- The output of FAULT_READ with TARGET 0xFFFF_FFFF (R458). -/
def faultDump (s : State) : List Byte :=
  let recs := openRecords s
  leBytes 2 0x0100 ++ leBytes 2 recs.length ++ leBytes 4 s.faults.fenced.length ++
  (List.range 4).flatMap (fun c => leBytes 4 (tget 0 s.faults.classes c)) ++ leBytes 4 s.faults.lost ++
  leBytes 1 (histValid s) ++ leBytes 1 (bit s.faults.first.isSome) ++ zeros 2 ++ leBytes 8 s.clock.now ++ zeros 24 ++
  histBytes (s.faults.first.getD {}) ++ (histOldest s).flatMap histBytes ++
  recs.flatMap (fun e => recordBytes e.1 e.2 s) ++ fenceBytes s

/-- FAULT_READ (R458). -/
def beginFaultRead (a : Accepted) (s : State) : State :=
  if a.desc.target = 0xFFFFFFFF then finishWith a {} (faultDump s) s
  else match (if a.desc.target.toNat < 65536 then sourceCheck a.desc.target.toNat s else some .badArgument) with
    | some st => finish a { st := st } s
    | none => match recordOf (groupKey a.desc.target.toNat) s with
      | none => finish a {} s
      | some (i, r) => finishWith a {} (recordBytes i r s) s

/-! ## FAULT_CLEAR (R459) -/

/-- Removes an open record; FIRST empties with the record its event went into (R453). -/
def removeRecord (i : Nat) (r : FaultRec) (s : State) : State :=
  { s with faults := { s.faults with
      records := tset none s.faults.records i none
      first := if r.holdsFirst then none else s.faults.first } }

/-- FAULT_CLEAR (R459). -/
def beginFaultClear (a : Accepted) (s : State) : State :=
  match (if a.desc.target.toNat < 65536 then sourceCheck a.desc.target.toNat s else some .badArgument) with
  | some st => finish a { st := st } s
  | none =>
    let key := groupKey a.desc.target.toNat
    match recordOf key s with
    | none => finish a {} s
    | some (i, r) =>
      let want := a.desc.imm0.toNat % 2 ^ 32
      if (want != 0 && want != r.count) || causePersists key r.cls s then finish a { st := .stillActive } s
      else finish a { detail := 1 } (removeRecord i r s)

/-! ## Event counters (R463–R467) -/

/-- Zeroes the counters of a unit kind. -/
def zeroKind (k : Nat) (s : State) : State :=
  let c := s.counts
  let c1 : Counts := { c with since := tset 0 (tset 0 c.since (2 * k) s.clock.now) (2 * k + 1) s.clock.now }
  { s with counts :=
    if k = 0 then { c1 with clusters := [] } else if k = 1 then { c1 with cores := [] }
    else if k = 2 then { c1 with links := [] } else { c1 with stackCtrs := [] } }

/-- COUNTERS_ENABLE (R463). -/
def beginCountersEnable (a : Accepted) (s : State) : State :=
  let m := a.desc.imm0.toNat
  if 16 ≤ m || 2 ≤ a.desc.imm1.toNat then finish a { st := .badArgument } s
  else
    let ks := bitsSet m 4
    let s1 := ks.foldl (fun t k => zeroKind k t) s
    finish a {} { s1 with counts := { s1.counts with
      enabled := ks.flatMap fun k => [2 * k, 2 * k + 1], autoReset := a.desc.imm1.toNat = 1 } }

/-- Code of a bank state, Table 4-11. -/
def BankState.code : BankState → Nat
  | .inService => 0 | .check => 1 | .relock => 2 | .retune => 3 | .lightPause => 4 | .outOfRange => 5 | .darkLine => 6
  | .fenced => 7

/-- Code of a channel state, Table 11-12. -/
def ChanState.code : ChanState → Nat
  | .data => 0 | .spare => 1 | .moving => 2 | .check => 3 | .relock => 4 | .warming => 5 | .dark => 6 | .fenced => 7

/-- Code of a fade state, Table 11-9. -/
def Fade.code : Fade → Nat
  | .ok => 0 | .warn => 1 | .sparePoint => 2 | .failed => 3

/-- A bank status word, Table 4-11 (R118). -/
def bankStatus (p c : Nat) (s : State) : Nat :=
  let b := bankGet p c s
  let st : BankState := if bankFenced p c s then .fenced else b.state
  packFields [(0, 4, st.code), (4, 2, b.band), (6, 5, if st = .darkLine then b.darkLine else 0), (11, 1, bit b.relocked),
    (12, 20, min 0xFFFFF ((s.clock.now - b.checkedAt) / 1000)), (32, 16, min 65535 b.relocks), (48, 16, b.checks)]

/-- Whether the selector routes a laser to its path (R296). -/
def laserSelected (i : Nat) (s : State) : Bool :=
  if isComb i then (combLights i s).isSome
  else if i < 0x120 then pathLaser (i / 36) (i % 18) s = i
  else portLaser (portOfLaser i) s = i

/-- Whether a laser is a spare by position. -/
def laserSpare (i : Nat) : Bool :=
  if isComb i then 128 ≤ (i - 0x200) % 160 else if i < 0x120 then 18 ≤ i % 36 else 0x122 ≤ i

/-- A laser status word, Table 11-9 (R296). -/
def laserStatus (i : Nat) (s : State) : Nat :=
  let x := laserGet i s
  packFields [(0, 2, x.fade.code), (2, 1, bit x.lit), (3, 1, bit (laserSelected i s)), (4, 1, bit (laserSpare i)),
    (5, 3, x.band), (8, 8, min 100 (meanBias x * 100 / biasLimit i x.band)), (16, 16, min 65535 (meanOutput x)),
    (32, 16, (laserHours s.clock.now x).hours)]

/-- A channel status word, Table 11-12 (R311). -/
def chanStatus (i : Nat) (s : State) : Nat :=
  let c := chanSide i s
  packFields [(0, 4, c.state.code), (4, 5, c.lane.getD 31), (9, 2, c.last),
    (11, 1, bit (!instRx i && s.las.spareIn.contains (waveKey (instLink i / 4) (instCh i)))),
    (12, 20, min 0xFFFFF ((s.clock.now - c.checkedAt) / 1000000)), (32, 16, c.corrected), (48, 8, c.moves), (56, 8, c.promotions)]

/-- An error count of the checker word: log2 of the count plus 1, 0 for none. -/
def eyeField (n : Nat) : Nat := if n = 0 then 0 else Nat.log2 n + 1

/-- A checker word, Table 12-9. -/
def checkerWord (i : Nat) (s : State) : Nat :=
  let k := (chanSide i s).checker
  packFields [(0, 40, min (2 ^ 40 - 1) (k.bits / 1024)), (40, 8, eyeField k.lower), (48, 8, eyeField k.middle),
    (56, 7, eyeField k.upper), (63, 1, bit k.reserved)]

/-- Counter kind of a source type with counters: 0 clusters, 1 cores, 2 links, 3 stacks. -/
def kindOf (src : Nat) : Option Nat := match src / 4096 with
  | 1 => some 1 | 2 => some 0 | 5 => some 3 | 8 => some 2 | _ => none

/-- Flank of a unit that has counters. -/
def unitFlank (src : Nat) : Flank :=
  let i := src % 4096
  match src / 4096 with
  | 5 => stackFlank i
  | 8 => linkFlank i
  | _ => flankOf i

/-- Start of the interval of a unit. -/
def intervalOf (src : Nat) (s : State) : Nat := match kindOf src with
  | none => 0
  | some k =>
    let t := tget 0 s.counts.since (2 * k + flankNum (unitFlank src))
    if k < 2 then max t (tget 0 s.counts.sinceCluster (src % 4096)) else t

/-- What an auto-reset zeroed in the handshake of a sample taken now: at the same value of the timebase (R466, log 89). -/
def coincident (src : Nat) (s : State) : Option PreReset :=
  if (kindOf src).any (· < 2) then (tget none s.counts.preReset (src % 4096)).filter fun x => x.at_ = s.clock.now else none

/-- One counter sample record, Table 17-8; `core` is none for a unit that has no cores. A sample in the handshake of an
auto-reset returns what was there before it (R466). -/
def sampleRecord (src : Nat) (core : Option Nat) (words : List Nat) (s : State) : List Byte :=
  let kind := kindOf src
  let paused := tget 0 s.counts.paused src
  let pre := coincident src s
  let vals := match pre with
    | some x => (match core with
      | some c => x.cores.getD c []
      | none => x.cluster)
    | none => words
  let began := match pre with
    | some x => x.since
    | none => intervalOf src s
  let flags := bit (kind.any fun k => counting k (unitFlank src) s) + 2 * bit pre.isSome + 4 * bit (kind.any (· < 2) && s.counts.autoReset) +
    8 * bit (paused != 0) + 16 * bit (isFenced src (core.getD 0) s)
  leBytes 2 src ++ leBytes 1 (core.getD 0xFF) ++ leBytes 1 vals.length ++ leBytes 1 flags ++ zeros 3 ++
  leBytes 4 (paused - 1) ++ zeros 4 ++ leBytes 8 s.clock.now ++ leBytes 8 began ++ vals.flatMap (leBytes 8)

/-- The records of one instance of a type (R467). -/
def sampleUnit (src : Nat) (s : State) : List Byte :=
  let i := src % 4096
  match src / 4096 with
  | 1 => (List.range 16).flatMap fun c =>
      sampleRecord src (some c) ((List.range 8).map fun k => tget 0 s.counts.cores ((i * 16 + c) * 8 + k)) s
  | 2 => sampleRecord src none ((List.range 16).map fun k => tget 0 s.counts.clusters (i * 16 + k)) s
  | 3 => (List.range 16).flatMap fun c => sampleRecord src (some c) [bankStatus i c s] s
  | 5 => sampleRecord src none ((List.range 8).map fun k => tget 0 s.counts.stackCtrs (i * 8 + k)) s
  | 7 => sampleRecord src none (chanStatus i s :: (if instRx i then [checkerWord i s] else [])) s
  | 8 => sampleRecord src none ((List.range 12).map fun k => tget 0 s.counts.links (i * 12 + k)) s
  | _ => sampleRecord src none [laserStatus i s] s

/-- The sources that COUNTERS_READ names: one, or with instance 0xFFF every instance of the type, ascending. -/
def sampled (src : Nat) : List Nat :=
  if src % 4096 = 0xFFF then ((List.range 0xFFF).map (src / 4096 * 4096 + ·)).filter sourceExists else [src]

/-- COUNTERS_READ (R467). -/
def beginCountersRead (a : Accepted) (s : State) : State :=
  let src := a.desc.target.toNat
  if 65536 ≤ src then finish a { st := .badArgument } s
  else if namesGuest src && s.part.guest.isNone then finish a { st := .notSupported } s
  else if !([1, 2, 3, 5, 7, 8, 10].contains (src / 4096)) || (src % 4096 != 0xFFF && !sourceExists src) then
    finish a { st := .badArgument } s
  else
    let srcs := sampled src
    let bytes := srcs.flatMap fun x => sampleUnit x s
    if a.desc.resLen.toNat < bytes.length then finishWith a {} bytes s
    else finishWith a {} bytes { s with counts := { s.counts with
      paused := tclear s.counts.paused fun k => srcs.contains k } }

end Sys2Proof.Machine
end

