-- ==== Sys2Proof/Machine/Regs.lean ====
section
/-!
DEFINITION. The Col register space (chapter 20): the value and the write effect of every register, and the ways to it:
host frames (R207), the rows that name one register, and the management interface (R530).
-/

namespace Sys2Proof.Machine

/-! ## Which register an offset is -/

/-- Base of the Col register space (R503). -/
def regBase : Nat := 0xFF00000000

/-- Offset of a register address in the register window. -/
def regOff (addr : Nat) : Nat := addr - regBase

/-- Whether an address is no aligned register address of the window (R8). -/
def badRegAddr (addr : Nat) : Bool := addr % 8 != 0 || addr < regBase || 0xD0000 ≤ regOff addr

/-- Block number of an offset: 0 ID_ to 12 SYN_ (Table 20-1). -/
def regBlock (off : Nat) : Nat := off / 65536

/-- Offset within its block. -/
def regIn (off : Nat) : Nat := off % 65536

/-- The host channel of an MB_ offset and its register: 0 outbound, 1 inbound, 2 status (Table 20-6). -/
def mbHost (r : Nat) : Option (Nat × Nat) :=
  if r < 0x300 && r % 0x20 < 0x18 && r % 8 = 0 then some (r / 0x20, r % 0x20 / 8) else none

/-- The guest channel of an MB_ offset and its register. -/
def mbGuest (r : Nat) : Option (Nat × Nat) :=
  if 0x400 ≤ r && r < 0x480 && r % 0x20 < 0x18 && r % 8 = 0 then some ((r - 0x400) / 0x20, r % 0x20 / 8) else none

/-- Whether an offset is a register of the guest alone (R224). -/
def guestOnly (off : Nat) : Bool :=
  (regBlock off = 1 && (mbGuest (regIn off)).isSome) || (regBlock off = 2 && regIn off = 0x100)

/-- Whether a register is secure as a whole (R12, R504). -/
def regSecure (off : Nat) : Bool :=
  let r := regIn off
  match regBlock off with
  | 1 => (mbHost r).any fun m => 12 ≤ m.1
  | 2 => r = 0x20
  | 3 => r < 0x400 && r % 8 = 0 && 48 ≤ r % 0x200 / 8
  | 4 => r = 0x08
  | 5 => r = 0x00 || r = 0x08
  | 7 => r = 0x08
  | 10 => true
  | 11 => r = 0x00
  | 12 => r ≤ 0x30 && r % 8 = 0
  | _ => false

/-! ## Values -/

/-- ID_ registers (Tables 20-3 to 20-5). -/
def idValue (r : Nat) (s : State) : Nat :=
  let p := s.part
  if r = 0x00 then
    packFields [(0, 16, 0x6A32), (16, 8, 0xB0), (24, 8, bit p.gradeX), (32, 10, (p.guest.getD 0).toNat),
      (42, 1, bit p.guest.isSome), (43, 10, p.vgst.toNat)]
  else if r = 0x08 then p.serial.toNat % 2 ^ 64
  else if r = 0x10 then p.serial.toNat / 2 ^ 64
  else if r = 0x18 then s.boot.ifVersion.toNat + s.boot.fwVersion.toNat * 65536
  else if r = 0x20 then
    let m := s.mem
    (if m.trained then packFields [(0, 8, maskOf m.inService), (8, 10, 96 * m.inService.length), (18, 1, bit m.home),
        (19, 2, if m.home then m.cache else 0)] else 0) + packFields [(21, 1, bit m.homeNext), (22, 2, m.cacheNext)]
  else if r = 0x28 then
    packFields [(0, 8, s.boot.step), (8, 8, s.boot.error.toNat),
      (16, 32, match s.boot.held with
        | some v => v.toNat
        | none => min (2 ^ 32 - 1) ((s.clock.now - s.clock.released) / 1000000))]
  else 0

/-- MB_ registers. -/
def mbValue (r : Nat) (s : State) : Nat := match mbHost r, mbGuest r with
  | some (n, k), _ =>
    if k = 0 then (chanGet (.host n) s).outWord.toNat else if k = 1 then (chanGet (.host n) s).innWord.toNat
    else (partyStatus (.host n) s).toNat
  | none, some (g, k) =>
    if k = 0 then (chanGet (.guest g) s).outWord.toNat else if k = 1 then (chanGet (.guest g) s).innWord.toNat
    else (partyStatus (.guest g) s).toNat
  | none, none => 0

/-- DB_ registers; without SECURE the secure bits read zero (R234). -/
def dbValue (r : Nat) (secure : Bool) (s : State) : Nat :=
  let seen (v : BitVec 32) : Nat := if secure then v.toNat else (v &&& ~~~ secureBits).toNat
  if r = 0x00 then seen s.db.hostStatus else if r = 0x08 then seen s.db.hostMask
  else if r = 0x18 then s.db.fwStatus.toNat else if r = 0x20 then s.db.epoch.toNat else 0

/-- The 8-byte word of a byte string. -/
def wordOf (bs : List Byte) (w : Nat) : Nat := field bs (8 * w) 8

/-- FLT_ registers (Table 20-12). -/
def fltValue (r : Nat) (s : State) : Nat :=
  let f := s.faults
  if r = 0x00 then
    packFields [(0, 9, (openRecords s).length), (9, 1, bit f.first.isSome), (10, 5, histValid s), (16, 16, f.lost),
      (32, 16, f.fenced.length), (48, 16, f.entered % 65536)]
  else if 0x40 ≤ r && r < 0x60 && r % 8 = 0 then
    (match f.first with
      | some h => wordOf (histBytes h) ((r - 0x40) / 8)
      | none => 0)
  else if 0x100 ≤ r && r < 0x300 && r % 8 = 0 then
    wordOf (histBytes (tget {} f.hist ((r - 0x100) / 32))) ((r - 0x100) / 8 % 4)
  else 0

/-- TH_FLANK's 13 bits of a flank. -/
def flankBits (f : Flank) (s : State) : Nat :=
  let x := flankPower f s
  packFields [(0, 2, x.point.code), (2, 5, x.rate), (7, 4, flankStep f s), (11, 2, x.band)]

/-- The hottest in-service sensor and its reading; the lowest number on a tie (log 48). -/
def hottestSensor (s : State) : Nat × Int :=
  match hottest (List.range 1024) s with
  | none => (0, 0)
  | some v => ((firstIdx (fun j => sensorLive j s && (sensorGet j s).reading = v) 1024).getD 0, v)

/-- A sensor's field of TH_SENSORj (R512). -/
def sensorField (j : Nat) (s : State) : Nat :=
  if (sensorGet j s).excluded then 0x8000 else signed 16 (sensorGet j s).reading

/-- TH_ registers (Tables 20-15 to 20-18). -/
def thValue (r : Nat) (s : State) : Nat :=
  let t := s.therm
  if r = 0x00 then t.threshold else if r = 0x08 then t.graceMs
  else if r = 0x10 then
    packFields [(0, 16, t.meanW), (16, 16, s.dev.limitW), (32, 2, t.limPoint.code), (34, 5, t.limRate), (39, 1, bit t.lowHeld)]
  else if r = 0x18 then flankBits .north s + flankBits .south s * 2 ^ 32
  else if r = 0x20 then
    packFields [(0, 16, t.reqN.id.toNat), (16, 16, t.reqS.id.toNat), (32, 16, t.reqP.id.toNat),
      (48, 1, bit t.reqN.opened), (49, 1, bit t.reqS.opened), (50, 1, bit t.reqP.opened),
      (51, 1, bit t.reqN.enforcing), (52, 1, bit t.reqS.enforcing), (53, 1, bit t.reqP.enforcing),
      (54, 1, bit t.reqN.acked), (55, 1, bit t.reqS.acked), (56, 1, bit t.reqP.acked)]
  else if r = 0x28 then packFields ((List.range 5).map fun i => (12 * i, 12, tget 0 t.urgent i))
  else if r = 0x30 then (let h := hottestSensor s; packFields [(0, 16, signed 16 h.2), (16, 10, h.1)])
  else if r = 0x40 then
    (match t.latched with
      | some (j, a, b, _) => packFields [(0, 16, signed 16 a), (16, 16, signed 16 b), (32, 10, j), (63, 1, 1)]
      | none => 0)
  else if r = 0x48 then (t.latched.map fun x => x.2.2.2 % 2 ^ 64).getD 0
  else if 0x1000 ≤ r && r < 0x1800 && r % 8 = 0 then
    (let j := (r - 0x1000) / 8; packFields ((List.range 4).map fun m => (16 * m, 16, sensorField (4 * j + m) s)))
  else 0

/-- TM_ registers (Table 20-19). -/
def tmValue (r : Nat) (s : State) : Nat :=
  let c := s.clock
  if r = 0x00 then c.now % 2 ^ 64
  else if r = 0x08 then
    packFields [(0, 2, c.state), (2, 1, bit c.stepped), (3, 8, c.hops), (11, 8, c.priority), (32, 32, signed 32 c.offset)]
  else if r = 0x10 then c.master % 2 ^ 20 else 0

/-- Code of a port state (R204). -/
def PortPhase.code : PortPhase → Nat
  | .down => 0 | .training => 1 | .active => 2

/-- CP_ registers (Table 20-20). -/
def cpValue (r : Nat) (s : State) : Nat :=
  let p := s.ports
  if r = 0x00 then
    packFields [(0, 2, p.cp0.phase.code), (2, 1, bit p.cp0.stable), (4, 2, p.cp1.phase.code), (6, 1, bit p.cp1.stable),
      (8, 2, match p.preferred with
        | none => 0
        | some .cp0 => 1
        | some .cp1 => 2)]
  else if r = 0x08 then p.skew
  else if r = 0x10 then (p.highest.getD 0).toNat + p.credit.toNat * 2 ^ 32
  else if r = 0x18 then p.devSeq.toNat
  else if r = 0x20 then packFields ((List.range 4).map fun i => (16 * i, 16, tget 0 p.discards i))
  else if r = 0x28 then packFields ((List.range 4).map fun i => (16 * i, 16, tget 0 p.events i))
  else 0

/-- FAB_ registers (Table 20-21). -/
def fabValue (r : Nat) (s : State) : Nat :=
  if r = 0x00 then s.fab.id % 2 ^ 20 + packFields ((List.range 5).map fun k => (24 + 8 * k, 8, extentOf k s))
  else if r = 0x08 then maskOf ((List.range 12).filter fun g => groupUp g s)
  else if r = 0x10 then
    maskOf ((List.range 32).filter fun n => linkUp n s) +
      maskOf ((List.range 32).filter fun n => (linkGet n s).width.any (· < 16)) * 2 ^ 32
  else 0

/-- Whether the guest group has a module ACTIVE. -/
def guestGroupUp (s : State) : Bool := (List.range 4).any fun i => (modGet (136 + i) s).state = .active

/-- GFW_ registers (Tables 14-9 to 14-13). -/
def gfwValue (r : Nat) (s : State) : Nat :=
  let g := s.guest
  if r = 0x00 then packFields [(0, 1, bit g.fenceOn), (1, 1, bit g.fenced)]
  else if r = 0x08 then
    packFields [(0, 1, bit s.part.guest.isSome), (1, 1, bit (guestGroupUp s)), (2, 1, bit g.fenced),
      (3, 1, bit (!s.pins.gstRstN)), (16, 32, g.violations)]
  else if r = 0x10 then packFields [(0, 16, g.rate), (16, 16, g.burst)]
  else if r = 0x18 then g.violAddr
  else if r = 0x20 then g.violInfo
  else if 0x100 ≤ r && r < 0x200 && r % 16 = 0 then tget 0 g.base ((r - 0x100) / 16)
  else if 0x100 ≤ r && r < 0x200 && r % 16 = 8 then tget 0 g.attr ((r - 0x100) / 16)
  else 0

/-- CRN_ registers (Table 20-22). -/
def crnValue (r : Nat) (s : State) : Nat :=
  let c := s.cairn
  if r = 0x00 then bit (c.state = .taking)
  else if r = 0x08 then packFields [(0, 2, c.state.code), (4, 3, c.trigger), (16, 27, c.bytes), (48, 16, min 65535 c.missed)]
  else if r = 0x10 then packFields [(0, 5, c.armed), (16, 16, c.stallMs)]
  else if r = 0x18 then (if s.mem.trained then cairnBase s else 0)
  else 0

/-- SYN_STATE (Table 20-25). -/
def synState (s : State) : Nat :=
  packFields [(0, 4, s.dev.state.code), (4, 1, bit s.dev.degraded), (8, 6, min 63 (graphsLoaded s))]

/-- SYN_ registers (Tables 20-24, 20-25). -/
def synValue (r : Nat) (s : State) : Nat :=
  let c := s.cmds
  if r = 0x00 then c.nq.base.toNat else if r = 0x08 then c.nq.size.toNat else if r = 0x10 then c.uq.base.toNat
  else if r = 0x18 then c.uq.size.toNat else if r = 0x20 then c.cqBase.toNat else if r = 0x28 then c.cqSize.toNat
  else if r = 0x30 then c.ctrl.toNat else if r = 0x100 then c.gen.toNat
  else if r = 0x108 then c.nq.accepted.toNat else if r = 0x110 then c.uq.accepted.toNat
  else if r = 0x118 then c.nq.completed.toNat else if r = 0x120 then c.uq.completed.toNat
  else if r = 0x128 then c.nq.ctotal.toNat else if r = 0x130 then c.uq.ctotal.toNat
  else if r = 0x138 then c.posted.toNat else if r = 0x140 then c.consumed.toNat
  else if r = 0x148 then c.fwEpoch.toNat else if r = 0x150 then synState s else 0

/-- What a read of an offset returns; WO and RSV fields and reserved offsets read zero (R8, R503). A lock is read by its
own operation, as reading LK_LOCKk acquires it. -/
def regValue (off : Nat) (secure : Bool) (s : State) : Nat :=
  let r := regIn off
  match regBlock off with
  | 0 => idValue r s
  | 1 => mbValue r s
  | 2 => dbValue r secure s
  | 4 => fltValue r s
  | 5 => thValue r s
  | 6 => tmValue r s
  | 7 => cpValue r s
  | 9 => fabValue r s
  | 10 => gfwValue r s
  | 11 => crnValue r s
  | 12 => synValue r s
  | _ => 0

/-! ## Writes -/

/-- A write to TH_THROTTLE (R511). -/
def thThrottleWrite (v : BitVec 64) (s : State) : Status × State :=
  let t := v.toNat % 256
  if t < 85 || 115 < t then (.badArgument, s) else (.ok, { s with therm := { s.therm with threshold := t } })

/-- A write to TH_GRACE (R511). -/
def thGraceWrite (v : BitVec 64) (s : State) : Status × State :=
  let t := v.toNat % 1024
  if t < 1 || 1000 < t then (.badArgument, s) else (.ok, { s with therm := { s.therm with graceMs := t } })

/-- A write to CP_SKEW_LIMIT (R513). -/
def cpSkewWrite (v : BitVec 64) (s : State) : Status × State :=
  let t := v.toNat % 16384
  if t < 100 || 10000 < t then (.badArgument, s) else (.ok, { s with ports := { s.ports with skew := t } })

/-- FENCE_NOW: the guest of a part that has one is fenced at once (R406, Table 14-9). -/
def fenceNow (s : State) : State := if s.part.guest.isSome then fenceGuest s else s

/-- A write to a GFW_ register (Tables 14-9 to 14-13). -/
def gfwWrite (r : Nat) (v : BitVec 64) (s : State) : State :=
  let n := v.toNat
  if r = 0x00 then
    let s1 := { s with guest := { s.guest with fenceOn := v.getLsbD 0 } }
    if v.getLsbD 1 then fenceNow s1 else s1
  else if r = 0x10 then { s with guest := { s.guest with rate := n % 65536, burst := n / 65536 % 65536 } }
  else if 0x100 ≤ r && r < 0x200 && r % 16 = 0 then
    { s with guest := { s.guest with base := tset 0 s.guest.base ((r - 0x100) / 16) (v &&& 0xFFFFFFF000).toNat } }
  else if 0x100 ≤ r && r < 0x200 && r % 16 = 8 then
    { s with guest := { s.guest with attr := tset 0 s.guest.attr ((r - 0x100) / 16) (v &&& 0xFFFFF007).toNat } }
  else s

/-- CRN_CTRL TAKE: starts a take from ARMED, joins one in progress, and is BUSY otherwise (R514). -/
def crnTake (s : State) : Status × State := match s.cairn.state with
  | .armed => (.ok, cairnStart 1 0 s)
  | .taking => (.ok, if s.cairn.tFrozen.isNone then cairnFire 1 0 s else s)
  | _ => (.busy, s)

/-- A write to an MB_ register by the party of its channel. -/
def mbWrite (r : Nat) (v : BitVec 64) (s : State) : Status × State := match mbHost r, mbGuest r with
  | some (n, k), _ =>
    if k = 0 then partyPost (.host n) v s else if k = 2 then (.ok, partyStatusWrite (.host n) v s) else (.ok, s)
  | none, some (g, k) =>
    if s.part.guest.isNone then (.ok, s)
    else if k = 0 then partyPost (.guest g) v s else if k = 2 then (.ok, partyStatusWrite (.guest g) v s) else (.ok, s)
  | none, none => (.ok, s)

/-- The ring register at a SYN_ offset. -/
def ringRegAt (r : Nat) : Option RingReg :=
  [RingReg.nqBase, .nqSize, .uqBase, .uqSize, .cqBase, .cqSize, .ctrl].find? fun q => ringRegOff q = r

/-- What a write to a register does, once its sender may write it (R8, R503). -/
def regWriteAt (off : Nat) (v : BitVec 64) (m : Master) (secure : Bool) (s : State) : Status × State :=
  let r := regIn off
  match regBlock off with
  | 1 => mbWrite r v s
  | 2 =>
    if r = 0x00 then (.ok, hostStatusWrite v secure s) else if r = 0x08 then (.ok, hostMaskWrite v secure s)
    else if r = 0x10 then fwRingWrite v secure s else if r = 0x20 then (.ok, hostEpochWrite v s)
    else if r = 0x100 && v.getLsbD 0 then (.ok, if s.part.guest.isSome then ringFw (1 <<< 26) s else s) else (.ok, s)
  | 3 => if r < 0x200 && r % 8 = 0 then (.ok, lockWrite m (r / 8) v s) else (.ok, s)
  | 4 => if r = 0x08 then fltForceWrite v s else (.ok, s)
  | 5 => if r = 0x00 then thThrottleWrite v s else if r = 0x08 then thGraceWrite v s else (.ok, s)
  | 7 => if r = 0x08 then cpSkewWrite v s else (.ok, s)
  | 10 => (.ok, gfwWrite r v s)
  | 11 => if r = 0x00 && v.getLsbD 0 then crnTake s else (.ok, s)
  | 12 =>
    (match ringRegAt r with
      | some q => (.ok, ringConfigWrite q v s)
      | none => if r = 0x140 then cqConsumedWrite v s else (.ok, s))
  | _ => (.ok, s)

/-! ## Host access (R7, R12, R207, R224, R506) -/

/-- Why a host access to an offset is turned away. -/
def hostDenied (off : Nat) (secure : Bool) : Option Bool :=
  if regBlock off = 8 || guestOnly off then some false
  else if regSecure off && !secure then some true else none

/-- A host read of the register at an offset, its address being good. -/
def hostRegReadAt (off addr type : Nat) (a : Access) (s : State) : Status × BitVec 64 × State :=
  match hostDenied off a.secure with
  | some fault => (.denied, 0, if fault then secureFault a.port addr type 0 s else s)
  | none =>
    if regBlock off = 3 && regIn off < 0x200 then
      ((.ok, lockRead (portMaster a.port) (regIn off / 8) s) : Status × BitVec 64 × State)
    else if regBlock off = 3 && regIn off < 0x400 then
      (.ok, lockPeek (portMaster a.port) (regIn off % 0x200 / 8) s, s)
    else (.ok, BitVec.ofNat 64 (regValue off a.secure s), s)

/-- A host read of a register: its status, its value and the state after it. -/
def hostRegRead (addr type : Nat) (a : Access) (s : State) : Status × BitVec 64 × State :=
  if badRegAddr addr then (.badArgument, 0, s) else hostRegReadAt (regOff addr) addr type a s

/-- A host write of a register. -/
def hostRegWrite (addr type : Nat) (v : BitVec 64) (a : Access) (s : State) : Status × State :=
  if badRegAddr addr then (.badArgument, s)
  else match hostDenied (regOff addr) a.secure with
    | some fault => (.denied, if fault then secureFault a.port addr type 0 s else s)
    | none => regWriteAt (regOff addr) v (portMaster a.port) a.secure s

/-- REG_READ: the frame, when it is the next to act on (R207). -/
def execRegRead (_p : Port) (f : Frame) (s : State) : Step :=
  match isNext f s with
  | none => .next s
  | some h =>
    if f.type ≠ 0x01 then otherType h s
    else if !frameWellFormed f then .next (answer h .badArgument [] s)
    else
      let (st, v, s1) := hostRegRead f.address.toNat 1 (accessOf h) s
      .next (answer h st (leBytes 8 v.toNat) s1)

/-- REG_WRITE: the frame, when it is the next to act on (R207). -/
def execRegWrite (_p : Port) (f : Frame) (s : State) : Step :=
  match isNext f s with
  | none => .next s
  | some h =>
    if f.type ≠ 0x02 then otherType h s
    else if !frameWellFormed f then .next (answer h .badArgument [] s)
    else
      let r := hostRegWrite f.address.toNat 2 (BitVec.ofNat 64 (leNat f.payload)) (accessOf h) s
      .next (answer h r.1 [] r.2)

/-- REGISTER_WRITE: a host write of any register (R8). -/
def execRegisterWrite (addr : BitVec 40) (v : BitVec 64) (a : Access) (s : State) : Step :=
  let r := hostRegWrite addr.toNat 2 v a s
  .next (emit (.reply r.1 0) r.2)

/-- A write of one named register by its own row. -/
def namedWrite (off : Nat) (v : BitVec 64) (a : Access) (s : State) : Step :=
  let r := hostRegWrite (regBase + off) 2 v a s
  .next (emit (.reply r.1 0) r.2)

/-- TH_THROTTLE_WRITE (R511). -/
def execThThrottleWrite (v : BitVec 64) (a : Access) (s : State) : Step := namedWrite 0x50000 v a s

/-- TH_GRACE_WRITE (R511). -/
def execThGraceWrite (v : BitVec 64) (a : Access) (s : State) : Step := namedWrite 0x50008 v a s

/-- CP_SKEW_LIMIT_WRITE (R513). -/
def execCpSkewLimitWrite (v : BitVec 64) (a : Access) (s : State) : Step := namedWrite 0x70008 v a s

/-- FENCE_NOW: GFW_CTRL written with FENCE_NOW set and FENCE_ON_VIOLATION as it stands (R406, R407). -/
def execFenceNow (a : Access) (s : State) : Step := namedWrite 0xA0000 (BitVec.ofNat 64 (2 + bit s.guest.fenceOn)) a s

/-- CRN_CTRL_TAKE (R514). -/
def execCrnCtrlTake (a : Access) (s : State) : Step := namedWrite 0xB0000 1 a s

/-! ## Bulk frames (R176, R177, R207) -/

/-- Exposed clusters whose windows a span of the on-die windows touches. -/
def windowIds (a n : Nat) : List Nat :=
  let base := if a < 0xC100000000 then 0xC000000000 else 0xC100000000
  (List.range ((a - base + n - 1) / 2 ^ 22 - (a - base) / 2 ^ 22 + 1)).map ((a - base) / 2 ^ 22 + ·)

/-- Whether an exposed cluster belongs to the placement of a running or paused graph (R177). -/
def clusterInUse (e : Nat) (s : State) : Bool :=
  s.graphs.slot.any fun g => (g.2.state = some .running || g.2.state = some .paused) && (placedIds g.2).contains e

/-- Whether a span of the cluster memory window touches a slice of the remote-line cache (R183). -/
def touchesSlice (a n : Nat) (s : State) : Bool :=
  0 < sliceBytes s && a < 0xC100000000 &&
    (windowIds a n).any fun e => 0xC000000000 + (e + 1) * 2 ^ 22 - sliceBytes s < a + n && a < 0xC000000000 + (e + 1) * 2 ^ 22

/-- The check of a bulk access: none when it may go on (R176, R177, R183, R199, R207). -/
def bulkCheck (a n : Nat) (write : Bool) (s : State) : Option Status :=
  match place a s with
  | .dram _ =>
    if topOfDram s < a + n then some .badArgument
    else if (spanLines a n).any fun l => s.mem.lost.contains (stackOf l s).1 then some .busy else none
  | .hwin _ => some .badArgument
  | .reg _ => some .badArgument
  | .unmapped => some .badArgument
  | _ =>
    if placeEnd a s < a + n then some .badArgument
    else if (windowIds a n).any fun e => exposedFenced e s then some .unitFenced
    else if touchesSlice a n s then some .denied
    else if write && (windowIds a n).any fun e => clusterInUse e s then some .busy else none

/-- Writes bytes at a local memory address that has passed its check. -/
def bulkPut (a : Nat) (bs : List Byte) (s : State) : State := match place a s with
  | .dram x => (spanLines x bs.length).foldl (fun t l => countStack (stackOf l t).1 1 1 t) (dramWriteBytes x bs s)
  | .cm _ _ =>
    ((List.range bs.length).zip bs).foldl (fun t q => match place (a + q.1) t with
      | .cm e off => if inSlice off t then t else cmPut (cmKey (physOf e t) off) q.2 t
      | _ => t)
      { s with mem := { s.mem with cmPoison := (windowIds a bs.length).foldl (fun r e =>
          let lo := max a (0xC000000000 + e * 2 ^ 22)
          let hi := min (a + bs.length) (0xC000000000 + (e + 1) * 2 ^ 22)
          let k := cmKey (physOf e s) (lo % 2 ^ 22)
          rsub ((k + 7) / 8) ((k + (hi - lo)) / 8) r) s.mem.cmPoison } }
  | .ls _ _ _ =>
    ((List.range bs.length).zip bs).foldl (fun t q => match place (a + q.1) t with
      | .ls e c off => lsPut (lsKey (physOf e t) c off) q.2 t
      | _ => t)
      { s with mem := { s.mem with lsPoison := (windowIds a bs.length).foldl (fun r e =>
          let lo := max a (0xC100000000 + e * 2 ^ 22)
          let hi := min (a + bs.length) (0xC100000000 + (e + 1) * 2 ^ 22)
          let k := physOf e s * 2 ^ 22 + lo % 2 ^ 22
          rsub ((k + 7) / 8) ((k + (hi - lo)) / 8) r) s.mem.lsPoison } }
  | _ => s

/-- Whether a span touches a secure command ring that is enabled (R246). -/
def touchesSecureRing (a n : Nat) (s : State) : Bool :=
  [Queue.normal, .urgent].any fun q => (ringOf q s).enabled && ringSecure q s &&
    (let c := ringTaken (queueRing q) s
     overlaps (a, n) (c.1, 64 * c.2))

/-- BULK_WRITE: the frame, when it is the next to act on (R177, R207); without SECURE an enabled secure ring is refused with
DENIED and its fault (R12, R246). -/
def execBulkWrite (_p : Port) (f : Frame) (s : State) : Step :=
  match isNext f s with
  | none => .next s
  | some h =>
    if f.type ≠ 0x03 then otherType h s
    else if !frameWellFormed f then .next (answer h .badArgument [] s)
    else if !f.fflags.getLsbD 0 && touchesSecureRing f.address.toNat f.payload.length s then
      .next (answer h .denied [] (secureFault h.port f.address.toNat 3 0 s))
    else match bulkCheck f.address.toNat f.payload.length true s with
      | some st => .next (answer h st [] s)
      | none => .next (answer h .ok [] (bulkPut f.address.toNat f.payload s))

/-- The forced class D events that a span of DRAM consumes: the lines that their channels deliver poisoned (R460). -/
def forcedLines (a n : Nat) (s : State) : List Nat × State :=
  (spanLines a n).foldl (fun (p : List Nat × State) l =>
    let (k, x) := stackOf l p.2
    match forcedChan k (channelOf x) p.2 with
    | some src => (p.1 ++ [l], forcedDone src 0 p.2)
    | none => p) ([], s)

/-- Bytes read at a local memory address, in 8-byte granules of which a poisoned one reads as zero, and whether any was
poisoned (R207). -/
def bulkGet (a n : Nat) (found : List (Nat × BadSymbols)) (s : State) : List Byte × Bool × State :=
  let dram := a < topOfDram s
  let s0 := if dram then readLines a n .host found s else s
  let (forced, s1) := if dram then forcedLines a n s0 else ([], s0)
  let cells := (List.range n).map fun i => peekByte (a + i) s1
  let bad := (List.range (n / 8)).map fun g =>
    ((cells.drop (8 * g)).take 8).any (·.2) || forced.contains ((a + 8 * g) / 64 * 64)
  (((List.range n).zip cells).map fun q => if bad.getD (q.1 / 8) false then 0 else q.2.1, bad.any id, s1)

/-- BULK_READ: the frame, when it is the next to act on (R177, R188, R207); the row names the lines of
DRAM that the decoder finds bad. -/
def execBulkRead (_p : Port) (r : FrameRead) (s : State) : Step :=
  let f := r.frame
  match isNext f s with
  | none => .next s
  | some h =>
    if f.type ≠ 0x04 then otherType h s
    else if !frameWellFormed f then .next (answer h .badArgument [] s)
    else match bulkCheck f.address.toNat f.arg.toNat false s with
      | some st => .next (answer h st [] s)
      | none =>
        let (bs, bad, s1) := bulkGet f.address.toNat f.arg.toNat r.bad s
        .next (answer h (if bad then .integrity else .ok) bs s1)

/-! ## The management interface (R504, R530) -/

/-- Whether an offset is marked A: readable whenever VAON and VIO are in range. -/
def mgmtA (off : Nat) : Bool := off = 0x00028 || off = 0x50040 || off = 0x50048

/-- Whether an offset is marked M. -/
def mgmtM (off : Nat) : Bool :=
  let r := regIn off
  r % 8 = 0 &&
  match regBlock off with
  | 0 => r ≤ 0x20
  | 4 => r = 0 || (0x40 ≤ r && r < 0x60) || (0x100 ≤ r && r < 0x300)
  | 5 => r ≤ 0x30 || (0x1000 ≤ r && r < 0x1800)
  | 6 => r ≤ 0x10
  | 12 => r = 0x100 || r = 0x148 || r = 0x150
  | _ => false

/-- Whether the Col is out of reset with its supply in range. -/
def colReadable (s : State) : Bool := s.pins.rstN && !s.boot.colHeld && !s.pins.pgLow.contains .col && !s.pins.pgLow.contains .aon

/-- One byte of the SMBus packet error code, CRC-8 of polynomial 0x07 (log 46). -/
def pecByte (c : Nat) (b : Byte) : Nat :=
  (List.range 8).foldl (fun x _ => if 128 ≤ x then (x * 2) % 256 ^^^ 7 else x * 2) (c ^^^ b.toNat)

/-- MANAGEMENT_READ: one register read by the board controller (R530). With VAON or VIO out of range nothing answers. -/
def execManagementRead (addr : BitVec 40) (s : State) : Step :=
  if s.pins.pgLow.contains .aon || s.pins.pgLow.contains .io then .next s
  else
    let off := regOff addr.toNat
    let st := if addr.toNat % 8 != 0 then 3
      else if addr.toNat < regBase || !(mgmtA off || mgmtM off) then 2
      else if mgmtM off && !mgmtA off && !colReadable s then 1 else 0
    let v := if st = 0 then regValue off false s else 0
    let who := 0x58 + s.pins.mgmtAddr.toNat
    let sent := leBytes 1 (2 * who) ++ [0x01] ++ leBytes 5 addr.toNat ++ leBytes 1 (2 * who + 1) ++ leBytes 1 st ++ leBytes 8 v
    .next (emit (.management (BitVec.ofNat 8 st) (BitVec.ofNat 64 v) (BitVec.ofNat 8 (sent.foldl pecByte 0))) s)

end Sys2Proof.Machine
end

