-- ==== Sys2Proof/Machine/Peers.lean ====
section
/-!
DEFINITION. Requests from peers and responses to this package's requests (R367, R368, R150), and the firmware's messages
on VC3 (R162, R195–R197, R344).
-/

namespace Sys2Proof.Machine

/-! ## Requests from peers (R195, R367) -/

/-- Whether a peer's access lies inside a loan window that lets it in (R195). -/
def loanCovers (pkg a n : Nat) (write : Bool) (s : State) : Bool :=
  s.mem.windows.any fun e => e.2.any fun w =>
    w.base ≤ a && a + n ≤ w.base + w.size && (w.borrower = none || w.borrower = some pkg) && (!write || w.write)

/-- The status of a peer's access: DRAM only inside a loan window; on-die windows and the host window denied; registers of
the ID_, TM_ and FAB_ blocks to be read where they are not secure; else unmapped (R367). -/
def peerCheck (pkg a n : Nat) (write : Bool) (s : State) : Status := match place a s with
  | .dram _ => if loanCovers pkg a n write s then .ok else .denied
  | .cm _ _ => .denied
  | .ls _ _ _ => .denied
  | .hwin _ => .denied
  | .reg r =>
    let off := regOff r
    if !write && [0, 6, 9].contains (regBlock off) && !regSecure off then (if n = 8 && off % 8 = 0 then .ok else .badArgument)
    else .denied
  | .unmapped => .badArgument

/-- The data a peer reads, whether any of it is poisoned, and the state after the read (R180, R201, R460). -/
def peerData (pkg a n : Nat) (found : List (Nat × BadSymbols)) (s : State) : List Byte × Bool × State := match place a s with
  | .dram x =>
    let (forced, s1) := forcedLines x n (readLines x n (.peer pkg) found s)
    let bad := forced != [] || (List.range n).any fun i => viewBad (x + i) s1
    (viewBytes x n s1, bad, s1)
  | .reg r => (leBytes 8 (regValue (regOff r) false s), false, s)
  | _ => ([], false, s)

/-- A READ_REQ of a peer (R195, R344, R367). -/
def peerRead (pkg : Nat) (tag : BitVec 32) (a n : Nat) (found : List (Nat × BadSymbols)) (s : State) : State :=
  if n = 0 || 192 < n || n % 8 != 0 then respond 0x18 pkg tag .badArgument false [] s
  else match peerCheck pkg a n false s with
    | .ok =>
      let (data, bad, s1) := peerData pkg a n found s
      respond 0x18 pkg tag .ok bad data s1
    | st => respond 0x18 pkg tag st false [] s

/-- A WRITE_REQ of a peer: data and poison go to DRAM (R195, R367). -/
def peerWrite (pkg : Nat) (tag : BitVec 32) (a : Nat) (data : List Byte) (poison : Bool) (s : State) : State :=
  let n := data.length
  if n = 0 || 192 < n then respond 0x19 pkg tag .badArgument false [] s
  else match peerCheck pkg a n true s with
    | .ok =>
      let s1 := (spanLines a n).foldl (fun t l => countStack (stackOf l t).1 1 1 t) (dramWriteBytes a data s)
      respond 0x19 pkg tag .ok false [] (if poison then dramTaint a n s1 else s1)
    | st => respond 0x19 pkg tag st false [] s

/-- PEER_READ_REQ (R188, R367); the row names the lines of DRAM that the decoder finds bad. -/
def execPeerReadReq (pkg : Nat) (tag : BitVec 32) (addr : BitVec 64) (r : SpanRead) (s : State) : Step :=
  .next (peerRead (pkg % 2 ^ 20) tag addr.toNat r.bytes r.bad s)

/-- PEER_WRITE_REQ (R367). -/
def execPeerWriteReq (pkg : Nat) (tag : BitVec 32) (addr : BitVec 64) (data : List (BitVec 8)) (s : State) : Step :=
  .next (peerWrite (pkg % 2 ^ 20) tag addr.toNat data false s)

/-- SEND_DATA (R150). -/
def execSendData (pkg : Nat) (tag : BitVec 32) (off : Nat) (data : List (BitVec 8)) (poison : Bool) (s : State) : Step :=
  .next (takeSend (pkg % 2 ^ 20) tag.toNat off data poison s)

/-! ## Responses and timeouts (R367, R368) -/

/-- Forgets a request. -/
def dropReq (tag : BitVec 32) (s : State) : State :=
  { s with fab := { s.fab with reqs := s.fab.reqs.filter fun r => r.tag != tag } }

/-- Takes back what has not yet left of a request: flits that wait for credit or for a place. -/
def dropWaiting (tag : BitVec 32) (s : State) : State :=
  { s with fab := { s.fab with waiting := s.fab.waiting.filter fun f => !(f.tag = tag && f.type != 0x12)
                               sysWaiting := s.fab.sysWaiting.filter fun f => f.tag != tag } }

/-- A READ_RESP or WRITE_RESP: a status other than OK poisons the read or drops the write, with a class D fault against
the requesting cluster; a late response is discarded and counted (R367, R368). -/
def responseArrives (tag : BitVec 32) (st : Nat) (data : List Byte) (poison : Bool) (s : State) : State :=
  match s.fab.reqs.find? fun r => r.tag = tag && (r.engine.isSome || r.purpose = 3) with
  | none => fabCount 0 s
  | some r =>
    match r.engine with
    | some (p, c) =>
      let s1 := countPeer p data.length 7 r.link
        (mreqEnd true tag data (poison || st != 0) (dropReq tag (if st = 0 then s else peerPartFails p c r.dst 0 s)))
      if st = 0 then s1 else faultDOpen (0x2000 + p) s1
    | none => dropReq tag s

/-- FABRIC_RESPONSE (R367). -/
def execFabricResponse (tag : BitVec 32) (status : BitVec 8) (data : List (BitVec 8)) (poison : Bool) (s : State) : Step :=
  .next (responseArrives tag status.toNat data poison s)

/-- A request whose time is over (R198, R368): an engine's read is poisoned or its write dropped, with a class D fault
against the link that carried it; a firmware message is given up. -/
def requestOver (r : FabReq) (s : State) : State :=
  let s1 := dropWaiting r.tag (dropReq r.tag s)
  match r.engine with
  | none => fabricRetry s1
  | some (p, c) =>
    let s2 := mreqEnd true r.tag [] true (peerPartFails p c r.dst Status.timeout.code s1)
    match r.link with
    | some n => faultDOpen (0x8000 + n) s2
    | none => faultDOpen (0x2000 + p) s2

/-- FABRIC_REQUEST_TIMEOUT (R368): for a request, or for a credit request. -/
def execFabricRequestTimeout (tag : BitVec 32) (s : State) : Step :=
  match s.fab.reqs.find? fun r => r.tag = tag with
  | some r => if s.clock.now < r.sentAt + 1000 * s.fab.timeoutUs then .next s else .next (requestOver r s)
  | none => match s.fab.asks.find? fun e => e.2.any fun a => a.tag = tag && a.began + 1000 * s.fab.timeoutUs ≤ s.clock.now with
    | some e => .next (fabricRetry (askSet (e.1 / 8) (e.1 % 8) none s))
    | none => .next s

/-! ## Firmware messages on VC3 (R162, R195–R197, R344, R354) -/

/-- Bytes lent on request (R196). -/
def lentOut (s : State) : Nat := s.mem.windows.foldl (fun n e => match e.2 with
  | some w => if w.granted then n + w.size else n
  | none => n) 0

/-- The LOAN_CHANGE notice (Table 10-11); for a window open to any package the borrower field is a free value. -/
def loanNotice (i : Nat) (w : Loan) (opened : Bool) (s : State) : State :=
  let (k, s1) := useFree s
  let who := (w.borrower.getD (Config.freeNat k)) % 2 ^ 20
  notice 7 (BitVec.ofNat 32 i) (BitVec.ofNat 64 (who + (if opened then 2 ^ 32 else 2 ^ 33))) (if w.borrower = none then s1 else s)

/-- Opens a loan window. -/
def openWindow (i : Nat) (w : Loan) (s : State) : State :=
  loanNotice i w true { s with mem := { s.mem with windows := tset none s.mem.windows i (some w) } }

/-- Closes a loan window. -/
def closeWindow (i : Nat) (w : Loan) (s : State) : State :=
  loanNotice i w false { s with mem := { s.mem with windows := tset none s.mem.windows i none } }

/-- The lowest loan window not open. -/
def freeWindow (s : State) : Option Nat := firstIdx (fun i => (tget none s.mem.windows i).isNone) 64

/-- Opens a loan window on a zeroed region for a peer. -/
def openLoan (i base size pkg : Nat) (s : State) : State :=
  openWindow i ⟨base, size, some pkg, true, true, true⟩ (zeroSpan base size s)

/-- Spans that a loan on request must leave alone: what is held, and the Cairn area (R196). -/
def loanHeld (s : State) : RangeSet := radd (cairnBase s) (topOfDram s) (heldSet s)

/-- The lowest 2 MiB-aligned span of a size free for a loan. -/
def loanAt (n : Nat) : Nat → RangeSet → Nat → Option Nat
  | from_, [], top => if from_ + n ≤ top then some from_ else none
  | from_, (a, b) :: t, top =>
    if from_ + n ≤ a then some from_ else loanAt n (ceilDiv (max from_ b) (2 ^ 21) * 2 ^ 21) t top

/-- Status, window and base that answer a loan request: refused whole beyond the limit or beyond free DRAM (R196). -/
def loanAnswer (bytes : Nat) (s : State) : Status × Nat × Nat × Nat :=
  let n := ceilDiv bytes (2 ^ 21) * 2 ^ 21
  if n = 0 then (.badArgument, 0, 0, 0)
  else if s.mem.lendLimit < lentOut s + n then (.denied, 0, 0, 0)
  else match freeWindow s, loanAt n 0 (loanHeld s) (topOfDram s) with
    | none, _ => (.full, 0, 0, 0)
    | _, none => (.noFit, 0, 0, 0)
    | some i, some a => (.ok, i, a, n)

/-- Sends SYS_RESP: the status at byte 32, then the message's own fields (R344). -/
def sysAnswer (pkg : Nat) (tag : BitVec 32) (st : Status) (fields : List Byte) (s : State) : State :=
  launch (mkFlit 0x1C 1 pkg s.fab.id tag false (leBytes 1 st.code ++ fields)) s

/-- Whether a loaded graph has a BUNDLE_ID and BUNDLE_CRC. -/
def sameBundle (b : BitVec 128) (c : BitVec 32) (g : Graph) : Bool := g.state.isSome && g.b.id = b && g.b.crc = c

/-- A peer's START confirmation: it tells that the peer has started; the answer is OK where this package has a START of
the same bundle, INTEGRITY where no graph matches, and WRONG_STATE while no START is here (R162, log 23). -/
def startConfirmed (pkg : Nat) (tag : BitVec 32) (b : BitVec 128) (c : BitVec 32) (s : State) : State :=
  match firstIdx (fun i => sameBundle b c (slotGet i s)) 64 with
  | none => sysAnswer pkg tag .integrity [] s
  | some i =>
    let g := slotGet i s
    let here := g.running.isSome || g.pending != []
    sysAnswer pkg tag (if here then .ok else .wrongState) [] (peerConfirms i pkg true s)

/-- The answer to a loan request: the window opened, or why not (R196). -/
def loanReply (pkg : Nat) (tag : BitVec 32) (r : Status × Nat × Nat × Nat) (s : State) : State :=
  if r.1 = .ok then
    sysAnswer pkg tag .ok (leBytes 1 r.2.1 ++ leBytes 8 r.2.2.1) (openLoan r.2.1 r.2.2.1 r.2.2.2 pkg s)
  else sysAnswer pkg tag r.1 [] s

/-- A firmware message arrives: answered BUSY where the firmware has no room, taken as the firmware not running
(R354, log 23). -/
def sysArrives (pkg : Nat) (tag : BitVec 32) (m : SysMsg) (s : State) : State :=
  if !fwActs s then sysAnswer pkg tag .busy [] s
  else match m with
    | .loanRequest n => loanReply pkg tag (loanAnswer n s) s
    | .loanReturn w => (match tget none s.mem.windows w with
      | some x =>
        if x.granted && x.borrower = some pkg then
          sysAnswer pkg tag .ok [] (closeWindow w x s)
        else sysAnswer pkg tag .badArgument [] s
      | none => sysAnswer pkg tag .badArgument [] s)
    | .startConfirm b c => startConfirmed pkg tag b c s
    | .other _ => sysAnswer pkg tag .ok [] s

/-- SYS_MESSAGE (R196). -/
def execSysMessage (pkg : Nat) (tag : BitVec 32) (m : SysMsg) (s : State) : Step :=
  .next (sysArrives (pkg % 2 ^ 20) tag m s)

/-- What the firmware does with the answer to its message: a lender's, a peer's on START (R162, R170). -/
def messageAnswered (r : FabReq) (st : Nat) (window : Option (Nat × Nat)) (s : State) : State :=
  if r.purpose = 0 then lenderAnswers r.tag (st = 0) window s
  else if r.purpose = 2 then
    (if st = 0 then peerConfirms r.slot r.dst true s
     else if st = Status.integrity.code then peerConfirms r.slot r.dst false s else s)
  else s

/-- A SYS_RESP: it answers a firmware message or a CREDIT_REQ, and frees a place to its destination (R353, R354). -/
def sysRespArrives (tag : BitVec 32) (st : Nat) (window : Option (Nat × Nat)) (s : State) : State :=
  match s.fab.reqs.find? fun r => r.tag = tag && r.engine.isNone && r.purpose != 3 with
  | some r => fabricRetry (messageAnswered r st window (dropReq tag s))
  | none => match s.fab.asks.find? fun e => e.2.any fun a => a.tag = tag && !a.refused with
    | some (k, some a) => fabricRetry (askAnswered k a (st = Status.busy.code) s)
    | _ => fabCount 0 s

/-- SYS_RESP (R353). -/
def execSysResp (_pkg : Nat) (tag : BitVec 32) (status : BitVec 8) (s : State) : Step :=
  .next (sysRespArrives tag status.toNat none s)

end Sys2Proof.Machine
end

