-- ==== Sys2Proof/Machine/Coll.lean ====
section
/-!
DEFINITION. In-network collectives (R369–R372): contributions, reduction slots, results.
-/

namespace Sys2Proof.Machine

/-- Group number that stands for this package among the branches of a slot. -/
def ownBranch : Nat := 12

/-- Payload of a COLL_CONTRIB or COLL_RESULT (R369, log 45). -/
def collBytes (m : CollMsg) : List Byte :=
  leBytes 2 m.coll ++ leBytes 4 m.chunk ++ leBytes 1 m.op ++ leBytes 2 m.weight ++ leBytes 1 m.elems.length ++ zeros 6 ++
    m.elems.flatMap fun e => leBytes 4 e.toNat

/-- The message that a flit carries. -/
def collOf (f : Flit) : CollMsg :=
  ⟨field f.payload 0 2, field f.payload 2 4, field f.payload 6 1, field f.payload 7 2,
   (List.range (min 48 (field f.payload 9 1))).map fun i => BitVec.ofNat 32 (field f.payload (16 + 4 * i) 4),
   f.lflags.getLsbD 5⟩

/-- A collective flit of this package on VC2. -/
def collFlit (type dst : Nat) (m : CollMsg) (s : State) : Flit := mkFlit type 2 dst s.fab.id 0 m.poison (collBytes m)

/-- Sends a collective flit. -/
def sendColl (type dst : Nat) (m : CollMsg) (s : State) : State := sendFlit (collFlit type dst m s) s

/-- Key of a reduction slot: flank, COLL_ID, CHUNK. -/
def slotKey (f : Flank) (coll chunk : Nat) : Nat := (flankNum f * 2 ^ 16 + coll % 2 ^ 16) * 2 ^ 32 + chunk % 2 ^ 32

/-- The reduction slot of a chunk in one of the two routers, which act as one (log 36). -/
def findSlot (coll chunk : Nat) (s : State) : Option (Flank × RedSlot) :=
  match tget none s.fab.slots (slotKey .north coll chunk), tget none s.fab.slots (slotKey .south coll chunk) with
  | some x, _ => some (.north, x)
  | none, some x => some (.south, x)
  | none, none => none

/-- Replaces a reduction slot. -/
def putSlot (f : Flank) (coll chunk : Nat) (x : Option RedSlot) (s : State) : State :=
  { s with fab := { s.fab with slots := tset none s.fab.slots (slotKey f coll chunk) x } }

/-- Slots in use on a flank's router: it has 4,096 (R370). -/
def slotsOn (f : Flank) (s : State) : Nat := (s.fab.slots.filter fun e => e.1 / 2 ^ 48 = flankNum f).length

/-- One element of a reduction, in FP32 (R371). -/
def reduceElt (op : Nat) (a b : BitVec 32) : BitVec 32 :=
  toF32 (if op = 0 then Num.add (ofF32 a) (ofF32 b) else if op = 1 then numMax (ofF32 a) (ofF32 b)
    else numMin (ofF32 a) (ofF32 b))

/-- A contribution combined into a slot. -/
def combine (g : Nat) (m : CollMsg) (x : RedSlot) : RedSlot :=
  { x with weight := x.weight + m.weight, poison := x.poison || m.poison, branches := setInsert g x.branches,
           elems := List.zipWith (reduceElt x.op) x.elems m.elems }

/-- What a slot holds, as a message. -/
def slotMsg (coll chunk : Nat) (x : RedSlot) : CollMsg := ⟨coll, chunk, x.op, x.weight, x.elems, x.poison⟩

/-- The neighbour on a group: the next package of its direction, or the spur endpoint of its link (Table 13-1). -/
def neighbour (g : Nat) (s : State) : Option Nat :=
  if g < 10 then
    let e := extentOf (g / 2) s
    let c := coord (g / 2) s.fab.id
    let c' := if g % 2 = 0 then (c + 1) % e else (c + e - 1) % e
    some (s.fab.id - c * 16 ^ (g / 2) + c' * 16 ^ (g / 2))
  else (s.fab.spurs.find? fun x => x.2.1 = s.fab.id && x.2.2 = g - 10).map (·.1)

/-- The group towards a neighbouring package. -/
def groupTo (pkg : Nat) (s : State) : Option Nat := firstIdx (fun g => neighbour g s = some pkg) 12

/-- Branches of a chunk by the table: the neighbours from which members' routes to the root come in, and this package when
it is a member (R369). -/
def tableBranches (e : RedEntry) (chunk : Nat) (s : State) : List Nat :=
  e.members.foldl (fun acc m =>
    let r := routePackages (chunkRoot e chunk) s 80 m
    if m = s.fab.id then setInsert ownBranch acc
    else if r.contains s.fab.id then
      (match groupTo ((r.takeWhile (· != s.fab.id)).getLastD m) s with
        | some g => setInsert g acc
        | none => acc)
    else acc) []

/-- Elements of a chunk: 32, so that a chunk of a block-scaled tensor is a block (log 36). -/
def chunkElts : Nat := 32

/-- Bytes that a chunk of a result becomes in the output format, and where they lie from the start of the output: pairs of
offset and bytes (R149, R371). `part` is the chunk's place in the output. -/
def chunkBytes (o : Operator) (t : Tensor) (dims : List Nat) (part free : Nat) (xs : List Num) : List (Nat × List Byte) :=
  match fmtOf t.format with
  | none => []
  | some f =>
    let rnd (i : Nat) : Rnd := if bitOf o.oflags 0 then .draw (Config.stochasticDraw free i) else .near
    let n := xs.length
    if blockScaled f then
      let r := encodeBlock f ((List.range n).map rnd) (bitOf o.oflags 1) xs
      [(4 * fmtBits f * part, packCodes (fmtBits f) ((r.2.map (·.code)) ++ List.replicate (32 - n) 0)),
       (up64 (eltArray t dims) + part, leBytes 1 r.1)]
    else
      [(chunkElts * fmtBits f / 8 * part, packCodes (fmtBits f) (((List.range n).zip xs).map fun q =>
        (encodeElt f (rnd q.1) (bitOf o.oflags 1) q.2).code))]

/-- A member's copy of a chunk goes to its bound output, in the output format; a poisoned one is poisoned (R371, R372). -/
def chunkStored (e : RedEntry) (g : Graph) (x : Execution) (m : CollMsg) (s : State) : State :=
  match g.b.operators[m.coll % 1024]?, g.b.tensors[e.tensor]?, x.bindings.find? fun b => b.1 = e.tensor with
  | some o, some t, some b =>
    let dims := actualDims g.b x t
    let part := if e.scatter then m.chunk / max 1 e.members.length else m.chunk
    let xs := (m.elems.take (prod dims - chunkElts * part)).map ofF32
    (chunkBytes o t dims part s.free xs).foldl (fun u q =>
      let v := boundWrite (b.2.1 + q.1) q.2 u
      if m.poison then boundTaint (b.2.1 + q.1) q.2.length v else v) { s with free := s.free + 1 }
  | _, _, _ => s

/-- The result reaches this package's members: it goes to the output, and a poisoned chunk poisons what depends on the
collective's output (R371, R372, log 44). -/
def collLocal (e : RedEntry) (m : CollMsg) (s : State) : State :=
  let s0 := emit (.message s.fab.id 0x21 0 [m.coll, m.chunk, m.op, m.weight, bit m.poison] (m.elems.flatMap fun w => leBytes 4 w.toNat)) s
  let s1 := match (slotGet e.graph s0).running with
    | some x => chunkStored e (slotGet e.graph s0) x m s0
    | none => s0
  let g := slotGet e.graph s1
  match g.running with
  | some x =>
    if m.poison then slotSet e.graph { g with running := some { x with
      poisoned := addPoisoned (reachOutputs g.b [e.tensor]) x.poisoned } } s1
    else s1
  | none => s1

/-- Replicates a result to branches (R370). -/
def collDeliver (e : RedEntry) (m : CollMsg) (branches : List Nat) (s : State) : State :=
  branches.foldl (fun t g =>
    if g = ownBranch then collLocal e m t
    else match neighbour g t with
      | some pkg => sendColl 0x21 pkg m t
      | none => t) s

/-- A slot whose weight is whole: the root delivers the result; any other router forwards one contribution (R370). -/
def collWhole (e : RedEntry) (fl : Flank) (coll chunk : Nat) (x : RedSlot) (s : State) : State :=
  if chunkRoot e chunk = s.fab.id then
    collDeliver e (slotMsg coll chunk x) x.branches (putSlot fl coll chunk none s)
  else sendColl 0x20 (chunkRoot e chunk) (slotMsg coll chunk x) (putSlot fl coll chunk (some { x with forwarded := true }) s)

/-- Stores a slot after a contribution, and sends it on when its weight has reached the count. -/
def collStore (e : RedEntry) (fl : Flank) (coll chunk : Nat) (x : RedSlot) (s : State) : State :=
  if expectedHere e chunk s ≤ x.weight then collWhole e fl coll chunk x s else putSlot fl coll chunk (some x) s

/-- Whether this package takes a contribution into a slot: it has a table entry, and a slot that holds the chunk or,
off the escape route, a free slot; the root takes every one (R370). -/
def collTakes (fl : Flank) (m : CollMsg) (escape : Bool) (s : State) : Bool :=
  match tget none s.fab.tables m.coll with
  | none => false
  | some e => chunkRoot e m.chunk = s.fab.id || (findSlot m.coll m.chunk s).isSome || (!escape && slotsOn fl s < 4096)

/-- A contribution enters a router from a branch (R370, R371). -/
def collContrib (fl : Flank) (g : Nat) (m : CollMsg) (s : State) : State :=
  match tget none s.fab.tables m.coll with
  | none => s
  | some e =>
    match findSlot m.coll m.chunk s with
    | some (k, x) =>
      if x.forwarded then s
      else
        let s1 := if g < 12 then countLink ((groupIn g s).headD (lowestLink g)) 10 1 s else s
        collStore e k m.coll m.chunk (combine g m x) s1
    | none =>
      if collTakes fl m false s then
        collStore e fl m.coll m.chunk ⟨m.op, m.weight, m.elems, m.poison, s.clock.now, [g], false⟩ s
      else sendColl 0x20 (chunkRoot e m.chunk) m s

/-- A result comes back: it goes to the branches that sent contributions, and the slot is free (R370). -/
def collResult (m : CollMsg) (s : State) : State :=
  match tget none s.fab.tables m.coll with
  | none => s
  | some e => match findSlot m.coll m.chunk s with
    | some (k, x) => collDeliver e m x.branches (putSlot k m.coll m.chunk none s)
    | none => collDeliver e m (tableBranches e m.chunk s) s

/-! ## Contributions of this package (R76, R369, R371) -/

/-- Elements of a tensor as stored, widened to FP32, with their poison. -/
def tensorElts (t : Tensor) (dims : List Nat) (bs : List (Byte × Bool)) : List (BitVec 32 × Bool) :=
  match fmtOf t.format with
  | none => []
  | some f =>
    let raw := bs.map (·.1)
    let o : KOperand := ⟨.store 0, eltArray t dims, up64 (eltArray t dims),
      if blockScaled f then dims.getD (blockAxis t dims.length) 1 else 0⟩
    (List.range (prod dims)).map fun e =>
      let i := kPos o f e
      let b := eltBytes f i
      let x := decodeElt f (codeAt f raw i)
      let y := if blockScaled f then Num.mul x (scaleNum (field raw (o.scaleAt + i / 32) 1)) else x
      (toF32 y, ((bs.drop b.1).take (b.2 + 1 - b.1)).any (·.2))

/-- Element of the operand of a REDUCE_SCATTER that member `k` of `n` owns at place `q` of its output. -/
def scatterIndex (dims : List Nat) (ax n k q : Nat) : Nat :=
  let inner := prod (dims.drop (ax + 1))
  let own := dims.getD ax 1 / max 1 n
  (q / (inner * own) * dims.getD ax 1 + k * own + q / inner % own) * inner + q % inner

/-- The chunks that a member contributes: of its whole operand, or of each member's part of it in turn (log 36). -/
def collChunks (o : Operator) (dims : List Nat) (members : Nat) (xs : List (BitVec 32 × Bool)) :
    List (Nat × List (BitVec 32 × Bool)) :=
  let cut (l : List (BitVec 32 × Bool)) : List (List (BitVec 32 × Bool)) := blocksOf (l.length + 1) l
  if o.opcode = 0x62 then
    (List.range members).flatMap fun k =>
      let own := (List.range (xs.length / max 1 members)).map fun q =>
        xs.getD (scatterIndex dims (o.attr 1) members k q) (0, false)
      (cut own).zipIdx.map fun c => (c.2 * members + k, c.1)
  else (cut xs).zipIdx.map fun c => (c.2, c.1)

/-- What the first completed work item of an ALL_REDUCE or a REDUCE_SCATTER contributes for this package: its operand in
FP32, chunk by chunk, with weight 1 (R76, R369, R371, log 50). -/
def collOut (p : Nat) (w : WorkItem) (seq : BitVec 32) (s : State) : State := match graphAt w.graph s with
  | some (i, g) => match g.running, g.b.operators[w.opIndex.toNat]? with
    | some x, some o =>
      let first := (x.items.find? fun t => t.2.2 = w.opIndex.toNat).any fun t => t.2.1 = seq && physOf t.1 s = p
      if (o.opcode != 0x60 && o.opcode != 0x62) || !first then s
      else match g.b.tensors[o.ins.headD 0]? with
        | some t =>
          let dims := actualDims g.b x t
          let (bs, s1) := tensorBytes g x (o.ins.headD 0) (storageBytes t dims) s
          let n := (groupMembers g.b.groups (collectiveGroup o)).length
          (collChunks o dims n (tensorElts t dims bs)).foldl (fun u c =>
            collContrib (flankOf p) ownBranch
              ⟨collId i w.opIndex.toNat, c.1, o.attr 0, 1, c.2.map (·.1), c.2.any (·.2)⟩ u) s1
        | none => s
    | _, _ => s
  | none => s

/-- WORK_ITEM_COMPLETE: a work item whose operations have all retired posts its completion, for a credit of the flank's
queue; one of a SEND or of a reduction has then sent its data (R64, R75, R76, R85). -/
def execWorkItemComplete (p : Nat) (seq : BitVec 32) (s : State) : Step :=
  match itemOf p seq s with
  | none => .next s
  | some w =>
    if !w.issued || w.pending != 0 || w.owed != 0 || w.fall != [] || !clusterIdx p || clusterOut p s || s.cairn.frozen ||
        (doneCtr (flankOf p) s).avail = 0 || 4096 < (doneCtr (flankOf p) s).avail then .next s
    else
      let c := clusterGet p s
      let s1 := clusterSet p { c with set := c.set.filter fun y => y.seq != seq, idleAt := s.clock.now } s
      let s2 := countCluster p 0 1 (postDone ⟨p, seq, w.item.graph, w.item.opIndex, w.item.tag, w.poisoned, w.warn⟩ s1)
      .next (collOut p w.item seq (sendOut w.item s2))

/-- COLL_CONTRIB (R370). -/
def execCollContrib (f : Flank) (g : Nat) (m : CollMsg) (s : State) : Step := .next (collContrib f g m s)

/-- COLL_RESULT (R370). -/
def execCollResult (_f : Flank) (m : CollMsg) (s : State) : Step := .next (collResult m s)

/-- REDUCTION_SLOT_TIMEOUT: a slot short of its count after the fabric request timeout goes on with POISON, the root's to
every branch; a slot whose result has not come in that time is freed (R368, R372). -/
def execReductionSlotTimeout (f : Flank) (coll chunk : Nat) (s : State) : Step :=
  match tget none s.fab.slots (slotKey f coll chunk), tget none s.fab.tables coll with
  | some x, some e =>
    if s.clock.now < x.began + 1000 * s.fab.timeoutUs then .next s
    else if x.forwarded then .next (putSlot f coll chunk none s)
    else
      let y := { x with poison := true }
      .next (if chunkRoot e chunk = s.fab.id then
          collDeliver e (slotMsg coll chunk y) (tableBranches e chunk s) (putSlot f coll chunk none s)
        else collWhole e f coll chunk y s)
  | some _, none => .next (putSlot f coll chunk none s)
  | none, _ => .next s

end Sys2Proof.Machine
end

