-- ==== Sys2Proof/Machine/Cairn.lean ====
section
/-!
DEFINITION. The Cairn controller (R468–R476): triggers, the hold, the snapshot and its records.
-/

namespace Sys2Proof.Machine

/-! ## Commands and triggers (R468, R469) -/

/-- Whether a loaded graph or a loan to a peer holds a byte of the Cairn area (R178). -/
def areaHeld (s : State) : Bool := (graphSpans s ++ loanSpans s).any (overlaps (cairnBase s, 2 ^ 28))

/-- CAIRN_ARM once begun. -/
def beginCairnArm (a : Accepted) (s : State) : State :=
  let v := a.desc.imm0.toNat
  let stall := bitsOf v 31 16
  if s.cairn.state = .taking then finish a { st := .busy } s
  else if v = 0 then finish a {} { s with cairn := { s.cairn with state := .disarmed, armed := 0, stallMs := 0, area := false } }
  else if bitsOf v 15 5 != 0 || v / 2 ^ 32 != 0 || (bitOf v 4 && stall = 0) then finish a { st := .badArgument } s
  else if areaHeld s then finish a { st := .busy } s
  else finish a {} { s with cairn := { s.cairn with state := .armed, armed := v % 32, stallMs := stall, area := true } }

/-- A CAIRN_TAKE waits for the take to end. -/
def joinTake (a : Accepted) (s : State) : State :=
  { s with cairn := { s.cairn with waiting := s.cairn.waiting ++ [a] } }

/-- CAIRN_TAKE once begun; one that is answered at once is no trigger that MISSED counts (log 40). -/
def beginCairnTake (a : Accepted) (s : State) : State := match s.cairn.state with
  | .disarmed => if areaHeld s then finish a { st := .busy } s else joinTake a (cairnStart 0 0 s)
  | .armed => joinTake a (cairnStart 0 0 s)
  | .taking => joinTake a s
  | .taken => finish a { st := .busy } s

/-- Size of the part of the area that a take writes, up to which CAIRN_READ reads. -/
def cairnEnd : Nat := 0x4940000

/-- CAIRN_READ once begun (R476). -/
def beginCairnRead (a : Accepted) (s : State) : State :=
  let off := a.desc.imm0.toNat
  let n := a.desc.resLen.toNat
  match s.cairn.state with
  | .taking => finish a { st := .busy } s
  | .taken =>
    if cairnEnd < off + n then finish a { st := .badArgument } s
    else finishWith a {} (viewBytes (cairnBase s + off) n s) s
  | _ => finish a { st := .badArgument } s

/-- CAIRN_TRIGGER: a trigger of Table 17-9 fires (R472). -/
def execCairnTrigger (code : Nat) (detail : BitVec 32) (s : State) : Step := .next (cairnFire code detail s)

/-- STALL_TIMER: a cluster holds work items and its engines have retired nothing for STALL_MS (R469). -/
def execStallTimer (p : Nat) (s : State) : Step :=
  let c := clusterGet p s
  if clusterIdx p && cairnSelected 6 s && (c.q != [] || c.set != []) && c.retiredAt + s.cairn.stallMs * 1000000 ≤ s.clock.now then
    .next (cairnFire 6 (BitVec.ofNat 32 p) s)
  else .next s

/-! ## The hold (R470, R471) -/

/-- Key of an engine among the wait reasons. -/
def waitKey (p c : Nat) (e : Engine) : Nat := coreKey p c * 4 + engNum e

/-- The wait reasons of every engine as they report them before the hold; an IDLE engine is not listed (log 41). -/
def latchWaits (s : State) : Tab Nat :=
  let t := { s with cairn := { s.cairn with frozen := false } }
  (List.range 660).foldl (fun w p => (List.range 16).foldl (fun v c => engines.foldl (fun u e =>
    if waitReason p c e t = .idle then u else tset 0 u (waitKey p c e) ((waitReason p c e t).code + 1)) v) w) []

/-- CAIRN_HOLD_COMPLETE: operations and pitch checks in progress have finished, retirement is held, T_FROZEN is taken
(R110, R470). -/
def execCairnHoldComplete (s : State) : Step :=
  if s.cairn.state = .taking && s.cairn.tFrozen.isNone && !checkAnywhere s then
    .next { s with cairn := { s.cairn with tFrozen := some s.clock.now, waits := latchWaits s } }
  else .next s

/-! ## Queue records (R475) -/

/-- What a queue record holds, Table 17-13. -/
structure QRec where
  head : List Byte := []
  pSent : Nat := 0
  pGranted : Nat := 0
  cGranted : Nat := 0
  cReceived : Nat := 0
  occ : Nat := 0
  depth : Nat := 0
  kind : Nat := 0
  wait : Nat := 0xFF
  held : Bool := false
  absent : Bool := false
  fault : Bool := false
  deriving DecidableEq, Repr

/-- The 64 bytes of a queue record. -/
def qrecBytes (r : QRec) (now : Nat) : List Byte :=
  padTo 32 r.head ++ leBytes 4 r.pSent ++ leBytes 4 r.pGranted ++ leBytes 4 r.cGranted ++ leBytes 4 r.cReceived ++
    leBytes 2 r.occ ++ leBytes 2 r.depth ++ leBytes 1 r.kind ++ leBytes 1 r.wait ++
    leBytes 1 (packFields [(0, 1, bit r.held), (1, 1, bit r.absent), (2, 1, bit r.fault)]) ++ zeros 1 ++ leBytes 8 now

/-- A queue record with the four counters of a queue (R64). -/
def qrecOf (q : QCtr) (kind depth occ : Nat) (head : List Byte) : QRec :=
  { head := head, pSent := q.pSent.toNat, pGranted := q.pGranted.toNat, cGranted := q.cGranted.toNat, cReceived := q.cReceived.toNat,
    occ := occ, depth := depth, kind := kind, held := true }

/-- Internal bytes of a record, which the spec does not lay out: free values (log 51). -/
def openBytes (place_ n : Nat) (s : State) : List Byte := (List.range n).map fun i => Config.hostByte s.free (place_ * 64 + i)

/-- The first 32 bytes of a work item, Table 3-6 (R69). -/
def itemHead (w : WorkSt) : List Byte :=
  leBytes 4 w.seq.toNat ++ leBytes 4 w.item.graph.toNat ++ leBytes 4 w.item.opIndex.toNat ++ leBytes 2 w.item.flags.toNat ++
    leBytes 2 w.item.coreMask.toNat ++ leBytes 8 w.item.program.toNat ++ leBytes 4 w.item.tag.toNat ++ leBytes 4 w.item.wait.toNat

/-- HEAD of an engine queue (Table 17-14). -/
def engineHead (at_ : Nat) (x : EngineSt) (s : State) : List Byte := match x.q with
  | [] => []
  | op :: _ =>
    (match op.wait with
      | some (r, v) => leBytes 4 v.toNat ++ leBytes 1 r.index ++ leBytes 1 (bit r.cluster)
      | none => zeros 6) ++ openBytes at_ 26 s

/-- The record of an engine queue. -/
def engineRec (p c : Nat) (e : Engine) (s : State) : QRec :=
  let x := engGet p c e s
  let w := tget 0 s.cairn.waits (waitKey p c e)
  { qrecOf x.ctr (8 + engNum e) 32 x.q.length (engineHead (waitKey p c e) x s) with
    wait := if w = 0 then Wait.idle.code else w - 1
    absent := clusterOut p s || coreFenced p c s
    fault := (clusterGet p s).creditFaults.contains (.engine p c e) }

/-- Whether a flank is lost or fenced. -/
def flankGone (f : Flank) (s : State) : Bool := flankPhase f s != .inService

/-! ## Regions (R473) -/

/-- A core block. -/
def corePieces (p c : Nat) (s : State) : List (Nat × List Byte) :=
  let base := 0x2000000 + coreKey p c * 4096
  let x := coreGet p c s
  let reqs := match x.m.run with
    | some r => r.requests.take 64
    | none => []
  [(base, engines.flatMap fun e => qrecBytes (engineRec p c e s) s.clock.now),
   (base + 0x100, (List.range 16).flatMap fun i => leBytes 4 (tget 0 x.sync i).toNat),
   (base + 0x200, reqs.flatMap fun r =>
     leBytes 8 r.addr ++ leBytes 4 r.tag.toNat ++ leBytes 4 r.bytes ++ leBytes 8 r.at_ ++ zeros 8)]

/-- A cluster block. -/
def clusterPieces (p : Nat) (s : State) : List (Nat × List Byte) :=
  let base := 0x1000000 + p * 16384
  let x := clusterGet p s
  let out := clusterOut p s
  let q := { qrecOf x.qc 6 256 x.q.length ((x.q.head?.map itemHead).getD []) with
    absent := out, fault := x.creditFaults.contains (.cluster p) }
  let r := { qrecOf x.rc 7 64 x.rq.length (if x.rq = [] then [] else openBytes (0x20000 + p) 32 s) with
    absent := out, fault := x.creditFaults.contains (.remoteSync p) }
  [(base, qrecBytes q s.clock.now ++ qrecBytes r s.clock.now),
   (base + 0x80, leBytes 1 (flankPower (flankOf p) s).rate ++ zeros 3 ++ leBytes 2 x.set.length),
   (base + 0x100, (List.range 32).flatMap fun i => leBytes 4 (tget 0 x.sync i).toNat),
   (base + 0x200, (x.set.take 256).flatMap itemHead)]

/-- Record of a group's output queue in the router of a flank; the queue stands in its home router (R341). -/
def outRec (f : Flank) (g v : Nat) (s : State) : QRec :=
  let home := groupHome g s = f
  let q := if home then tget [] s.fab.outq (outKey g v) else []
  let n := if home then tget 0 s.fab.outIn (outKey g v) else 0
  { head := (q.head?.map fun h => (flitBytes h).take 32).getD [], pSent := n, cReceived := (n + 2 ^ 32 - q.length) % 2 ^ 32,
    occ := q.length, depth := 256, kind := 0x0C, absent := flankGone f s }

/-- Record of a link's replay buffer. -/
def replayRec (n : Nat) (s : State) : QRec :=
  let l := linkGet n s
  { head := (l.replay.head?.map fun h => (flitBytes h).take 32).getD [], pSent := (l.lseq - 1).toNat
    pGranted := ((match l.replay with
      | h :: _ => h.lseq
      | [] => l.lseq) - 1).toNat
    cGranted := (l.expect - 1).toNat, occ := l.replay.length, depth := 8192, kind := 0x0D, absent := flankGone (linkFlank n) s }

/-- Record of an end-to-end credit entry. -/
def creditRec (src : Bool) (k : Nat) (e : CreditEntry) : QRec :=
  { head := leBytes 4 (k / 8) ++ leBytes 1 (k % 8), kind := 0x0F
    pSent := if src then e.sent.toNat else 0, pGranted := if src then e.granted.toNat else 0
    cGranted := if src then 0 else e.granted.toNat, cReceived := if src then 0 else e.consumed.toNat }

/-- The records of one table's entries of a VC. -/
def creditRecs (src : Bool) (vc : Nat) (t : Tab (Option CreditEntry)) (now : Nat) : List Byte :=
  (((t.filter fun e => e.1 % 8 = vc).filterMap fun e => e.2.map fun c => creditRec src e.1 c).take 4096).flatMap fun r => qrecBytes r now

/-- A reduction slot in the router block. -/
def slotBytes (k : Nat) (x : RedSlot) (s : State) : List Byte :=
  let coll := k / 2 ^ 32 % 2 ^ 16
  let want := match tget none s.fab.tables coll with
    | some e => expectedHere e (k % 2 ^ 32) s
    | none => 0
  padTo 64 (leBytes 2 coll ++ zeros 2 ++ leBytes 4 (k % 2 ^ 32) ++ leBytes 2 x.weight ++ leBytes 2 want ++ zeros 4 ++ leBytes 8 x.began)

/-- A router block; the credit entries, which the two routers share, stand in North's (log 51). -/
def routerPieces (f : Flank) (s : State) : List (Nat × List Byte) :=
  let base := if f = .north then 0x400000 else 0x800000
  let now := s.clock.now
  [(base, (List.range 12).flatMap fun g => (List.range 8).flatMap fun v => qrecBytes (outRec f g v s) now),
   (base + 0x2000, (List.range 16).flatMap fun i => qrecBytes (replayRec (flankNum f * 16 + i) s) now)] ++
  (if f = .north then
    [(base + 0x10000, creditRecs false 0 s.fab.dst now), (base + 0x50000, creditRecs false 2 s.fab.dst now),
     (base + 0x90000, creditRecs true 0 s.fab.src now), (base + 0xD0000, creditRecs true 2 s.fab.src now)]
   else []) ++
  [(base + 0x110000, ((s.fab.slots.filter fun e => e.1 / 2 ^ 48 = flankNum f).filterMap fun e =>
    e.2.map fun x => slotBytes e.1 x s).flatten)]

/-- Record of a command ring. -/
def ringRec (q : Queue) (s : State) : QRec :=
  let r := ringOf q s
  { head := if available q s then (nextDescriptor q s).take 32 else [], pSent := r.ptotal.toNat, cReceived := r.ctotal.toNat
    occ := (r.ptotal - r.ctotal).toNat, depth := (ringTaken (queueRing q) s).2, kind := 1 + queueNum q, held := true }

/-- Record of the completion ring and the held entries. -/
def cqRec (s : State) : QRec :=
  let c := s.cmds
  let k := ringTaken .completion s
  let posted := fwRead (k.1 + 64 * ((c.consumed + 1).toNat % k.2)) 32 s
  { head := if c.posted != c.consumed then posted else ((c.held.head?.map fun e => (entryBytes e).take 32).getD [])
    pSent := c.made.toNat, cReceived := c.consumed.toNat, occ := (c.made - c.consumed).toNat, depth := k.2, kind := 3
    held := true }

/-- Record of the control-port receive slots. -/
def slotRec (s : State) : QRec :=
  let p := s.ports
  { head := (p.slots.head?.map fun h => (frameBytes h.frame).take 32).getD [], pSent := p.requests.toNat
    cGranted := p.credit.toNat, occ := p.slots.length, depth := 512, kind := 4 }

/-- Record of a flank completion queue. -/
def doneRec (f : Flank) (s : State) : QRec :=
  let q := if f = .north then s.comp.doneN else s.comp.doneS
  { qrecOf (doneCtr f s) 5 4096 q.length (if q = [] then [] else openBytes (0x30000 + flankNum f) 32 s) with
    absent := flankGone f s }

/-- The firmware's records and the held completion entries. -/
def firmwarePieces (s : State) : List (Nat × List Byte) :=
  [(0x20000, [ringRec .normal s, ringRec .urgent s, cqRec s, slotRec s, doneRec .north s, doneRec .south s].flatMap fun r =>
     qrecBytes r s.clock.now),
   (0x30000, (s.cmds.held.take 4096).flatMap entryBytes)]

/-- Record of a Verweust retry buffer. -/
def retryRec (m d : Nat) (s : State) : QRec :=
  let x := modGet m s
  let y := if d = 0 then x.rx else x.tx
  { head := (y.retry.head?.map fun h => leBytes 32 h.1.toNat).getD [], pSent := (y.seq - 1).toNat
    pGranted := (y.seq - 1 - BitVec.ofNat 7 y.retry.length).toNat, cGranted := (y.expect - 1).toNat, occ := y.retry.length
    depth := x.depth, kind := 0x0E, absent := x.state = .out || x.state = .clockLost || x.state = .down }

/-- The Verweust records. -/
def modulePieces (s : State) : List (Nat × List Byte) :=
  [(0x10000, (List.range 141).flatMap fun m => qrecBytes (retryRec m 0 s) s.clock.now ++ qrecBytes (retryRec m 1 s) s.clock.now)]

/-- Bytes of a take. -/
def cairnBytes : Nat := 66650112

/-- The header, Table 17-12 (R474). -/
def cairnHeader (s : State) : List Byte :=
  let c := s.cairn
  let body := padTo 64
    (leBytes 4 0x4E524143 ++ leBytes 2 0x0100 ++ leBytes 1 c.trigger ++ leBytes 1 c.devState.toNat ++ leBytes 4 c.seen ++
     leBytes 4 c.missed ++ leBytes 8 c.tTrigger ++ leBytes 8 (c.tFrozen.getD 0) ++ leBytes 8 s.clock.now ++ leBytes 8 cairnBytes ++
     leBytes 4 s.cmds.fwEpoch.toNat ++ leBytes 4 c.detail.toNat)
  (body ++ padTo 192 ((List.range 11).flatMap fun i => leBytes 8 (synValue (0x100 + 8 * i) s)) ++ faultDump s).take 65536

/-- Every piece that a take writes, in the order of their offsets in the area. -/
def cairnPieces (s : State) : List (Nat × List Byte) :=
  [(0, cairnHeader s)] ++ modulePieces s ++ firmwarePieces s ++ routerPieces .north s ++ routerPieces .south s ++
    (List.range 660).flatMap (fun p => clusterPieces p s) ++
    (List.range 660).flatMap (fun p => (List.range 16).flatMap fun c => corePieces p c s)

/-- Writes a piece over zeroes: only its bytes other than zero need a write. -/
def putPiece (a : Nat) (bs : List Byte) (s : State) : State :=
  (((List.range bs.length).zip bs).filter fun e => e.2 != 0).reverse.foldl (fun t e => dramPut (a + e.1) e.2 t) s

/-- The regions of Table 17-11, as spans of the area. -/
def cairnRegions : List (Nat × Nat) :=
  [(0, 0x400000), (0x400000, 0x400000), (0x800000, 0x400000), (0x1000000, 660 * 16384), (0x2000000, 10560 * 4096)]

/-- Writes the snapshot: the regions in full, unused slots as zero, the header last (R473). -/
def writeCairn (s : State) : State :=
  let base := cairnBase s
  let s1 := { s with
    mem := { s.mem with
      dram := tclear s.mem.dram fun a => cairnRegions.any fun r => base + r.1 ≤ a && a < base + r.1 + r.2
      poison := cairnRegions.foldl (fun p r => rsub ((base + r.1) / 8) ((base + r.1 + r.2) / 8) p) s.mem.poison }
    free := s.free + 1 }
  (cairnPieces s).reverse.foldl (fun t e => putPiece (base + e.1) e.2 t) s1

/-- After the release: CAIRN_DONE, the commands that joined, and FAULTED where a class X event came (R468, R472). -/
def afterTake (s : State) : State :=
  let s1 := notice 8 (BitVec.ofNat 32 cairnBytes) (BitVec.ofNat 64 s.cairn.trigger) s
  let s2 := s.cairn.waiting.foldl (fun t a => finish a {} t) { s1 with cairn := { s1.cairn with waiting := [] } }
  if s.cairn.xDue then enterFaulted { s2 with cairn := { s2.cairn with xDue := false } } else s2

/-- The P_FILLs in progress go on once a hold is over: the time of the hold is none of theirs (R98, R470). -/
def fillsResume (ns : Nat) (s : State) : State :=
  { s with comp := { s.comp with cores := s.comp.cores.map fun e =>
      (e.1, { e.2 with p := { e.2.p with fill := e.2.p.fill.map fun r => { r with since := r.since + ns } } }) } }

/-- CAIRN_RELEASE: the records are written, the header last; the hold is released, the M engines' requests go out again,
and the snapshot is TAKEN (R470, R471). -/
def execCairnRelease (s : State) : Step :=
  if s.cairn.state = .taking && s.cairn.tFrozen.isSome then
    let s1 := fillsResume (s.clock.now - s.cairn.tTrigger) (writeCairn s)
    .next (afterTake (fabricRetry
      { s1 with cairn := { s1.cairn with state := .taken, frozen := false, bytes := cairnBytes } }))
  else .next s

end Sys2Proof.Machine
end

