-- ==== Sys2Proof/Machine/DevCmds.lean ====
section
/-!
DEFINITION. What the host commands of the device, memory and fabric groups do once begun (R186, R195–R197, R270–R275,
R362, R376, R377).
-/

namespace Sys2Proof.Machine

/-! ## DEVICE_INFO (R272) -/

/-- Whether a Verweust module is at half width or out of service. -/
def moduleWeak (m : Nat) (s : State) : Bool :=
  (modGet m s).rx.half || (modGet m s).tx.half || (modGet m s).state = .out || (modGet m s).state = .clockLost

/-- Spare lasers that run in place of a primary: of link wavelengths, comb lines and the port chiplet (R295, R113, R312). -/
def lasersOnSpare (s : State) : Nat :=
  s.las.spareIn.length + (s.banks.spare.filter fun e => e.2 != 0).length + bit s.ports.cp0.spareUsed + bit s.ports.cp1.spareUsed

/-- Whether both lasers of a port are past their SPARE points or failed (R312). -/
def portUnlit (p : Port) (s : State) : Bool :=
  s.las.worn.contains (portSpare p) && s.las.worn.contains (portSpare p - 2)

/-- Wavelengths and comb lines left without a working laser (R115, R302, R312). -/
def lasersDark (s : State) : Nat :=
  s.las.gone.length + s.banks.dark.foldl (fun n e => n + e.2.length) 0 + bit (portUnlit .cp0 s) + bit (portUnlit .cp1 s)

/-- Signatures the identity key has left, of 33,554,432 (R477, R484). -/
def leavesLeft (s : State) : Nat := 2 ^ 25 - s.sec.nextLeaf

/-- Whether any calibration record is SUSPECT: by disagreement (R445) or by its kind's hash (R438). -/
def suspectAny (s : State) : Bool := s.sec.suspect != [] || s.sec.hashBad != []

/-- The DEVICE_INFO report, Table 10-10a (R272). -/
def infoBytes (s : State) : List Byte :=
  let flags := packFields [(0, 1, bit s.dev.degraded), (1, 1, bit s.sec.ownerKey.isSome), (2, 1, bit s.sec.debug),
    (3, 1, bit (s.boot.running = some 2)), (4, 1, bit s.part.guest.isSome), (5, 1, bit s.guest.fenced),
    (6, 1, bit (suspectAny s))]
  let mem := packFields [(0, 1, bit s.mem.home), (1, 2, if s.mem.home then s.mem.cache else 0)]
  let points := packFields [(0, 2, s.therm.north.point.code), (2, 2, s.therm.south.point.code), (4, 2, s.dev.maxPoint.code)]
  padTo 256
    (leBytes 2 0x0100 ++ leBytes 2 0x0100 ++ leBytes 4 s.boot.fwVersion.toNat ++ leBytes 1 s.dev.state.code ++ leBytes 1 flags ++
     leBytes 1 (bit s.part.gradeX) ++ leBytes 1 0xB0 ++ leBytes 4 s.fab.id ++ leBytes 16 s.part.serial.toNat ++
     leBytes 2 ((List.range 640).filter fun e => hardFenced e s).length ++ leBytes 1 (sparesOf .north s).length ++
     leBytes 1 (sparesOf .south s).length ++ leBytes 2 (fencedOfType 1 s).length ++ leBytes 2 (fencedOfType 3 s).length ++
     leBytes 1 (maskOf s.mem.inService) ++ leBytes 1 mem ++ leBytes 2 ((List.range 141).filter fun m => moduleWeak m s).length ++
     leBytes 4 (maskOf ((List.range 32).filter fun n => linkUp n s)) ++
     leBytes 4 (maskOf ((List.range 32).filter fun n => (linkGet n s).width.any (· < 16))) ++ leBytes 2 (lasersOnSpare s) ++
     leBytes 2 (lasersDark s) ++ leBytes 4 s.faults.fenced.length ++ leBytes 1 (graphsLoaded s) ++ leBytes 1 points ++
     leBytes 2 s.dev.limitW ++ leBytes 8 (dramFree s) ++ leBytes 8 s.clock.now ++ leBytes 4 s.cmds.fwEpoch.toNat ++
     leBytes 4 s.boot.count.toNat ++ leBytes 4 (leavesLeft s) ++ leBytes 4 s.sec.version.toNat)

/-- DEVICE_INFO once begun. -/
def beginDeviceInfo (a : Accepted) (s : State) : State := finishWith a {} (infoBytes s) s

/-! ## DEVICE_STANDBY, DEVICE_LIMIT, DEVICE_WATCHDOG, ACK_SLOWDOWN (R270, R271, R274, R275) -/

/-- Comb lasers that are lit. -/
def combLit (s : State) : List Nat := (s.las.laser.filter fun e => isComb e.1 && e.2.lit).map (·.1)

/-- What STANDBY does: the clusters are gated and the comb lasers go off; the bank heaters are off while the state lasts. -/
def standDown (s : State) : State :=
  (combLit s).foldl (fun t i => laserOff i t)
    ((List.range 660).foldl (fun t p => if clusterOut p t || (clusterGet p t).gated then t else gateCluster p t) s)

/-- DEVICE_STANDBY once begun (R270). -/
def beginStandby (a : Accepted) (s : State) : State := finish a {} (setDev .standby (standDown s))

/-- DEVICE_LIMIT once begun (R271): the setting takes effect on both flanks at once. -/
def beginLimit (a : Accepted) (s : State) : State :=
  let p := a.desc.imm0.toNat % 4
  let w := a.desc.imm1.toNat
  let limit := if w = 0 || 2400 < w then 2400 else w
  if p = 3 || limit < 1000 then finish a { st := .badArgument } s
  else finish a {} (applyBoth { s with dev := { s.dev with maxPoint := Point.ofCode p, limitW := limit } })

/-- DEVICE_WATCHDOG once begun: the watch starts (R275). -/
def beginWatchdog (a : Accepted) (s : State) : State :=
  finish a {} { s with cmds := { s.cmds with
    wdInterval := a.desc.imm0, wdPause := a.desc.imm1.getLsbD 0, wdSince := s.clock.now, wdFired := false } }

/-- The domain whose latest request has an id. -/
def requestDomain (id : BitVec 32) (s : State) : Option Domain :=
  [Domain.north, .south, .package].find? fun d => (reqOf d s).opened && (reqOf d s).id = id

/-- ACK_SLOWDOWN once begun (R274). -/
def beginAck (a : Accepted) (s : State) : State := match requestDomain a.desc.target s with
  | some d =>
    let r := reqOf d s
    let s1 := setReq d { r with acked := true } s
    if r.enforcing then finish a { detail := 1 } s1
    else if a.desc.imm0.getLsbD 0 then finish a {} (startEnforce d s1)
    else finish a {} s1
  | none =>
    if s.therm.released.contains a.desc.target then finish a { detail := 2 } s else finish a { st := .badArgument } s

/-! ## Memory (R186, R195–R197) -/

/-- MEM_SET_MODE once begun: the record is rewritten; the effect waits for the next package reset (R186). -/
def beginSetMode (a : Accepted) (s : State) : State :=
  let m := a.desc.imm0.toNat
  finish a {} { s with mem := { s.mem with homeNext := bitOf m 0, cacheNext := bitsOf m 3 2 } }

/-- MEM_LEND once begun (R195, R196). -/
def beginLend (a : Accepted) (s : State) : State :=
  let base := a.desc.imm0.toNat
  let size := a.desc.imm1.toNat
  let span := (base, size)
  if base % 2 ^ 21 != 0 || size % 2 ^ 21 != 0 || size = 0 || topOfDram s < base + size then finish a { st := .badArgument } s
  else if (heldSpans s).any (overlaps span) then finish a { st := .busy } s
  else match freeWindow s with
    | none => finish a { st := .full } s
    | some i =>
      let t := a.desc.target.toNat
      let w : Loan := ⟨base, size, if bitOf t 31 then none else some (t % 2 ^ 20), bitOf t 30, false, false⟩
      finish a { detail := BitVec.ofNat 32 i } (openWindow i w s)

/-- MEM_LEND_LIMIT once begun (R196). -/
def beginLendLimit (a : Accepted) (s : State) : State :=
  finish a {} { s with mem := { s.mem with lendLimit := a.desc.imm0.toNat } }

/-- MEM_RECLAIM once begun (R197). -/
def beginReclaim (a : Accepted) (s : State) : State :=
  let i := a.desc.target.toNat
  match (if i < 64 then tget none s.mem.windows i else none) with
  | none => finish a { st := .badArgument } s
  | some w => if w.inUse && !a.desc.imm0.getLsbD 0 then finish a { st := .busy } s else finish a {} (closeWindow i w s)

/-! ## FAB_STATUS (R377) -/

/-- Code of a training state, Table 12-4. -/
def trainCode : Train → Nat
  | .dark => 0 | .bivouac => 1 | .light => 2 | .send => 3 | .align => 4 | .map => 5 | .negotiate => 6 | .active => 7

/-- One link entry, Table 13-7. -/
def linkEntry (n : Nat) (s : State) : List Byte :=
  let l := linkGet n s
  let flags := packFields [(0, 1, bit (linkUp n s)), (1, 1, bit l.reversed), (2, 1, bit l.looped), (3, 1, bit l.noPeer),
    (4, 1, bit l.miswired), (5, 1, bit l.txSleep), (6, 1, bit l.leader), (7, 1, bit l.disabled)]
  padTo 32
    (leBytes 1 (if l.txActive then 7 else trainCode l.st) ++ leBytes 1 (if l.rxActive then 7 else trainCode l.st) ++
     leBytes 1 (if linkUp n s then widthCode (widthOf n s) else 0xFF) ++ leBytes 1 (linkGroup n) ++ leBytes 1 flags ++
     leBytes 1 (txLit n s).length ++ leBytes 1 (l.rxUsable.filter fun k => chanBound (chanSide (rxi n k) s)).length ++
     leBytes 1 (bitsOf l.farCap.toNat 7 4) ++ leBytes 4 (bitsOf l.farCap.toNat 51 32) ++ leBytes 4 l.rtt ++ leBytes 2 (replayTimer n s))

/-- The FAB_STATUS report, Tables 13-6 and 13-7. -/
def fabBytes (s : State) : List Byte :=
  padTo 64
    (leBytes 4 s.fab.id ++ ((List.range 5).flatMap fun k => leBytes 1 (extentOf k s)) ++ zeros 1 ++
     leBytes 2 (maskOf ((List.range 12).filter fun g => groupUp g s)) ++ leBytes 4 s.clock.master ++ leBytes 1 s.clock.hops ++
     leBytes 1 s.clock.state ++ zeros 2 ++ leBytes 4 (signed 32 s.clock.offset) ++ leBytes 4 s.fab.timeoutUs) ++
  (List.range 32).flatMap fun n => linkEntry n s

/-- FAB_STATUS once begun. -/
def beginFabStatus (a : Accepted) (s : State) : State := finishWith a {} (fabBytes s) s

/-! ## FAB_LINK_CTRL (R362) -/

/-- A link is taken to DARK by configuration: no fault (R340, R362). -/
def linkOff (n : Nat) (s : State) : State := refreshDegraded (enterTrain n .dark s)

/-- Whether a link is fenced until the package reset: by a forced event, or with its optical chiplet (R303, R460). A link that
failed of itself is not: FAB_LINK_CTRL brings it back (R332, R362). -/
def linkFenced (n : Nat) (s : State) : Bool :=
  s.faults.forcedUnits.contains (fenceKey (0x8000 + n) 0) || isFenced (0x9000 + n / 4) 0 s

/-- A link that the configuration names and that is not disabled leaves DARK or BIVOUAC to train afresh (R327, R362); a
fenced one stays down (R394, R414). -/
def linkRelease (n : Nat) (s : State) : State :=
  let l := linkGet n s
  if !linkConfigured n s || linkFenced n s || (l.st != .dark && l.st != .bivouac) then s
  else
    let s1 := enterTrain n .bivouac s
    linkSet n { linkGet n s1 with looped := false, miswired := false, bivouacTill := none, returns := 0, bivouacs := 0 } s1

/-- FAB_LINK_CTRL once begun: 0 retrain, 1 disable, 2 enable (R361, R362); a fenced link gives UNIT_FENCED (R267). -/
def beginLinkCtrl (a : Accepted) (s : State) : State :=
  let n := a.desc.target.toNat
  let k := a.desc.imm0.toNat
  if 32 ≤ n || 3 ≤ k then finish a { st := .badArgument } s
  else if linkFenced n s then finish a { st := .unitFenced } s
  else if k = 1 then finish a {} (refreshDegraded (linkOff n (linkSet n { linkGet n s with disabled := true } s)))
  else
    let s1 := if k = 2 then linkSet n { linkGet n s with disabled := false } s else s
    finish a {} (refreshDegraded (if (linkGet n s1).st = .active then (if k = 0 then askRetrain n s1 else s1) else linkRelease n s1))

/-! ## FAB_CONFIG (R339, R340, R376) -/

/-- A lane test record, Table 12-10. -/
structure TestRec where
  link : Nat
  pattern : Nat
  half : Nat
  mode : Nat
  mask : Nat
  n : Nat
  start : Nat
  ms : Nat
  zero : Nat
  deriving DecidableEq, Repr

/-- The record that 16 bytes spell. -/
def testRec (b : List Byte) : TestRec :=
  ⟨field b 0 1, field b 1 1, field b 2 1, field b 3 1, field b 4 4, field b 8 1, field b 9 2, field b 12 4, field b 11 1⟩

/-- Whether a lane test record keeps the rules of R339. -/
def testOk (r : TestRec) (s : State) : Bool :=
  r.link < 32 && r.pattern < 4 && r.zero = 0 && r.mask < 2 ^ 18 &&
    (if r.pattern = 3 then 1 ≤ r.half && r.half ≤ 32 else r.half = 0) && r.mode < 3 &&
    (r.mode != 1 || (10 ≤ r.n && r.n ≤ 40)) && (r.mode != 2 || (1 ≤ r.n && r.n ≤ 15 && r.start ≤ 271)) &&
    (if r.pattern = 0 then r.ms = 0
     else 1 ≤ r.ms && r.ms ≤ 3600000 && ((linkGet r.link s).st = .dark || (linkGet r.link s).st = .bivouac))

/-- Sets the injector of the channels of a record, and starts its test (R338, R339). -/
def testApply (r : TestRec) (s : State) : State :=
  let s1 := (bitsSet r.mask 18).foldl (fun t k =>
    let c := chanSide (txi r.link k) t
    setChan (txi r.link k) { c with checker := { c.checker with inject := if r.mode = 0 then (0, 0, 0) else (r.mode, r.n, r.start) } } t) s
  if r.pattern = 0 then s1 else startTest r.link r.pattern r.half r.mask (s.clock.now + r.ms * 1000000) s1

/-- The argument of FAB_CONFIG, Table 13-5. -/
structure FabArg where
  version : Nat
  cflags : Nat
  id : Nat
  extents : List Nat
  priority : Nat
  timeout : Nat
  replay : Nat
  spurs : List Nat
  tests : List TestRec
  zero : Bool
  whole : Bool
  deriving DecidableEq, Repr

/-- The argument that bytes spell. -/
def fabArg (b : List Byte) : FabArg :=
  let ns := field b 22 1
  let nt := field b 23 1
  ⟨field b 0 2, field b 2 2, field b 4 4, (List.range 5).map fun k => field b (8 + k) 1, field b 13 1, field b 16 4, field b 20 2,
   (List.range ns).map fun i => field b (64 + 8 * i) 8, (List.range nt).map fun i => testRec (b.drop (64 + 8 * ns + 16 * i)),
   field b 14 2 = 0 && ((b.drop 24).take 40).all (· = 0), ns ≤ 64 && nt ≤ 32 && 64 + 8 * ns + 16 * nt ≤ b.length⟩

/-- A spur entry: endpoint, host package, which link; none where a reserved bit is set. -/
def spurEntry (v : Nat) : Option (Nat × Nat × Nat) :=
  if v % 2 ^ 32 < 2 ^ 20 && bitsOf v 55 52 = 0 && v / 2 ^ 57 = 0 then some (v % 2 ^ 20, bitsOf v 51 32, bitsOf v 56 56) else none

/-- The fabric record that an argument asks for. -/
def fabWanted (x : FabArg) (s : State) : Fab :=
  let f := s.fab
  let f1 := if bitOf x.cflags 0 then { f with id := x.id, extent := x.extents } else f
  let f2 := if bitOf x.cflags 1 then { f1 with spurs := x.spurs.filterMap spurEntry } else f1
  let f3 := if bitOf x.cflags 2 then { f2 with timeoutUs := x.timeout, replayUs := x.replay } else f2
  let f4 := if bitOf x.cflags 3 then { f3 with timePriority := x.priority } else f3
  { f4 with configured := true }

/-- Whether a package id is a torus position under given extents. -/
def torusId (extents : List Nat) (id : Nat) : Bool := (List.range 5).all fun k => coord k id < extents.getD k 1

/-- Whether an argument keeps R340, R339 and the ranges of Table 13-5. -/
def fabOk (x : FabArg) (s : State) : Bool :=
  let f := fabWanted x s
  x.version = 0x0100 && x.cflags < 16 && x.zero && x.whole &&
    (!bitOf x.cflags 0 || (x.id < 2 ^ 20 && x.extents.all fun e => 1 ≤ e && e ≤ 16)) &&
    (!bitOf x.cflags 1 || x.spurs.all fun v => (spurEntry v).isSome) &&
    (!bitOf x.cflags 2 || (100 ≤ x.timeout && x.timeout ≤ 1000000 && (x.replay = 0 || (4 ≤ x.replay && x.replay ≤ 64)))) &&
    (torusId f.extent f.id || f.spurs.any fun e => e.1 = f.id) && f.spurs.all (fun e => torusId f.extent e.2.1) &&
    x.tests.all fun r => testOk r s

/-- What a link expects of its far end: whether it is configured, and which package. -/
def linkRole (n : Nat) (s : State) : Bool × Option Nat :=
  (linkNamed n s, if linkNamed n s then neighbour (linkGroup n) s else none)

/-- After a new configuration: a link no longer named goes DARK; one newly named leaves DARK; one that was MISWIRED tries again;
one whose role or neighbour changed retrains. A failed or LOOPED link waits for FAB_LINK_CTRL (R331, R332, R340, R342, R376). -/
def reLink (old : State) (n : Nat) (s : State) : State :=
  let l := linkGet n s
  if !linkNamed n s then (if l.st = .dark then s else linkOff n s)
  else if l.disabled then s
  else if l.st = .dark then (if linkNamed n old then s else linkRelease n s)
  else if l.st = .bivouac then (if l.miswired || linkRole n old != linkRole n s then linkRelease n s else s)
  else if linkRole n old = linkRole n s then s
  else if l.st = .active then askRetrain n s
  else enterSend n s

/-- The time master is elected afresh (R376). -/
def electAfresh (s : State) : State :=
  { s with clock := { s.clock with parent := none, masterPriority := 255, hops := 0, slew := 0, state := 0 } }

/-- FAB_CONFIG once begun (R376). -/
def beginFabConfig (a : Accepted) (s : State) : State :=
  let (bs, s1) := argBytes a.desc s
  let x := fabArg bs
  if !fabOk x s1 then finish a { st := .badArgument } s1
  else
    let s2 := { s1 with fab := fabWanted x s1, clock := { s1.clock with priority := (fabWanted x s1).timePriority } }
    let s3 := electAfresh ((List.range 32).foldl (fun t n => reLink s1 n t) s2)
    finish a {} (refreshDegraded (x.tests.foldl (fun t r => testApply r t) s3))

end Sys2Proof.Machine
end

