-- ==== Sys2Proof/Machine/Security.lean ====
section
/-!
DEFINITION. Security and identity (chapter 18): attestation and the identity key, ownership, firmware update, debug
unlock and boundary scan.
-/

namespace Sys2Proof.Machine

/-! ## The identity key (R477, R483, R484) -/

/-- Signatures per key, Table 18-1. -/
def keyLeaves : Nat := 2 ^ 25

/-- Leaves of one bottom tree, Table 18-1. -/
def treeLeaves : Nat := 2 ^ 15

/-- Raises LEAVES_LOW once fewer than 1,048,576 leaves remain (R484). -/
def watchLeaves (s : State) : State :=
  if leavesLeft s < 2 ^ 20 && !s.sec.leavesLow then
    securityEvent 7 { s with sec := { s.sec with leavesLow := true } }
  else s

/-- Takes the next leaf, reserving a block of 16 when the reserved ones are used (R483). -/
def takeLeaf (s : State) : Nat × State :=
  let q := s.sec.nextLeaf
  let r := if q < s.sec.reserved then s.sec.reserved else min keyLeaves (s.sec.reserved + 16)
  (q, { s with sec := { s.sec with nextLeaf := q + 1, reserved := r } })

/-- At a Col reset and at a package reset the leaves left of the last block are skipped (R483). -/
def skipLeaves (s : State) : State := { s with sec := { s.sec with nextLeaf := s.sec.reserved } }

/-- BOTTOM_TREE_READY: the next bottom tree is generated while 4,096 leaves or fewer are left in the current one
(R483). -/
def execBottomTreeReady (s : State) : Step :=
  if s.sec.trees < 1024 && s.sec.trees * treeLeaves ≤ s.sec.nextLeaf + 4096 && !s.boot.colHeld then
    .next { s with sec := { s.sec with trees := s.sec.trees + 1 } }
  else .next s

/-! ## Attestation (R482, R484, R485) -/

/-- The position codes that have an entry in the identity record, ascending: the guest's only in a -Gnnn code (R52,
Table 2-5). -/
def recordedPositions (s : State) : List Nat :=
  [0x00, 0x01] ++ (if s.part.guest.isSome then [0x02] else []) ++ [0x10, 0x11, 0x18, 0x19] ++
    (List.range 8).map (0x20 + ·) ++ (List.range 8).map (0x30 + ·) ++ (List.range 8).map (0x40 + ·) ++
    (List.range 4).map (0x50 + ·) ++ [0x60, 0x61]

/-- Bytes [lo, lo + n) as the factory wrote them. -/
def factoryBytes (lo n : Nat) : List Byte := (List.range n).map fun i => Config.identityByte (lo + i)

/-- Entry e of the identity record, for a position code: a die's lot, wafer and place on it, or an assembly's lot and
serial (R52, Table 18-3). -/
def identityEntry (e pos : Nat) : List Byte :=
  let b := 256 + 32 * e
  let asm := pos = 0x60 || pos = 0x61
  leBytes 1 pos ++ leBytes 1 (if asm then 1 else 0) ++ factoryBytes (b + 2) 14 ++
    (if asm then [0] else factoryBytes (b + 16) 1) ++ factoryBytes (b + 17) 3 ++
    (if asm then factoryBytes (b + 20) 12 else zeros 12)

/-- The identity record of this part, Table 18-3: 7,284 bytes (R52, R482). -/
def identityBytes (s : State) : List Byte :=
  let ps := recordedPositions s
  padTo 2048
    (leBytes 4 0x544E4449 ++ leBytes 2 0x0100 ++ leBytes 1 0xB0 ++ leBytes 1 ps.length ++ leBytes 16 s.part.serial.toNat ++
     leBytes 1 (bit s.part.gradeX) ++ leBytes 1 (bit s.part.guest.isSome) ++ leBytes 2 (s.part.guest.getD 0).toNat ++
     factoryBytes 28 64 ++ leBytes 2 s.part.vgst.toNat ++ zeros 2 ++ factoryBytes 96 160 ++
     ((List.range ps.length).zip ps).flatMap fun x => identityEntry x.1 x.2) ++
    factoryBytes 2048 5236

/-- CAL_HASH[k] as recomputed at the last reset: the factory's, or another where it mismatched (R438). -/
def calHashNow (k : Nat) (s : State) : List Byte :=
  if s.sec.hashBad.contains (k + 1) then leBytes 32 (Config.calHash (k + 1) s.boot.count.toNat).toNat
  else factoryBytes (96 + 32 * k) 32

/-- QFLAGS, Table 18-4. -/
def quoteFlags (s : State) : Nat :=
  packFields [(0, 1, bit s.sec.debug), (1, 1, bit s.sec.ownerKey.isSome), (2, 1, bit (suspectAny s)),
    (3, 1, bit s.dev.degraded), (4, 1, bit s.boot.recovery), (5, 1, bit s.boot.fallback)]

/-- SHA-256 of the owner key, or zero when unowned. -/
def ownerHash (s : State) : BitVec 256 := match s.sec.ownerKey with
  | some k => Config.sha256 k
  | none => 0

/-- The quote body, Table 18-4 (R485). -/
def quoteBody (nonce : List Byte) (leaf : Nat) (s : State) : List Byte :=
  padTo 512
    (leBytes 4 0x544F5551 ++ leBytes 2 0x0100 ++ leBytes 2 (quoteFlags s) ++ padTo 32 nonce ++
     leBytes 32 (Config.sha256 ((identityBytes s).take 2048)).toNat ++ leBytes 32 s.boot.fwHash.toNat ++
     leBytes 32 s.boot.nextHash.toNat ++ (List.range 5).flatMap (fun k => calHashNow k s) ++
     leBytes 32 (ownerHash s).toNat ++ leBytes 4 s.sec.policy.toNat ++ leBytes 4 s.sec.version.toNat ++
     leBytes 4 s.boot.imageSecurity.toNat ++ leBytes 4 s.boot.count.toNat ++ leBytes 4 s.cmds.fwEpoch.toNat ++
     leBytes 4 leaf ++ leBytes 8 s.clock.now ++ leBytes 4 s.fab.id ++
     leBytes 4 (maskOf (s.sec.hashBad ++ s.sec.suspect.map fun r => r / 4096)) ++ leBytes 4 s.faults.fenced.length)

/-- Length of a quote, with or without the identity record (R485). -/
def quoteSize (d : Descriptor) : Nat := if d.imm0.getLsbD 0 then 13032 else 5748

/-- Milliseconds until 10 s have passed since the last signed quote, rounded up (R484). -/
def quoteWait (s : State) : Nat := match s.sec.quotedAt with
  | none => 0
  | some t => if s.clock.now < t + 10000000000 then ceilDiv (t + 10000000000 - s.clock.now) 1000000 else 0

/-- A quote is signed and written; the last leaf and the low mark are reported (R483–R485, Table 18-5). -/
def signQuote (a : Accepted) (s : State) : State :=
  let (nonce, s0) := argBytes a.desc s
  let (q, s1) := takeLeaf s0
  let body := quoteBody nonce q s1
  let quote := body ++ padTo 5236 (Config.hssSign q body) ++ (if a.desc.imm0.getLsbD 0 then identityBytes s else [])
  let s2 := watchLeaves { s1 with sec := { s1.sec with quotedAt := some s1.clock.now } }
  finishWith a {} quote (if leavesLeft s2 = 0 then securityEvent 8 s2 else s2)

/-- ATTEST once begun (R482, R484, R485). -/
def beginAttest (a : Accepted) (s : State) : State :=
  if a.desc.argLen.toNat != 32 then finish a { st := .badArgument } s
  else if s.part.identityBad then finish a { st := .integrity } s
  else if leavesLeft s = 0 then finish a { st := .keyExhausted } s
  else if quoteWait s != 0 then finish a { st := .busy, detail := BitVec.ofNat 32 (quoteWait s) } s
  else if s.sec.trees * treeLeaves ≤ s.sec.nextLeaf then finish a { st := .busy } s
  else if a.desc.resLen.toNat < quoteSize a.desc then
    finish a { st := .badArgument, detail := BitVec.ofNat 32 (quoteSize a.desc) } s
  else signQuote a s

/-! ## Owner (R486) -/

/-- The argument of CLAIM_OWNER. -/
structure Claim where
  version : Nat
  action : Nat
  counter : Nat
  serial : Nat
  policy : Nat
  sigLen : Nat
  key : List Byte
  message : List Byte
  signature : List Byte
  deriving DecidableEq, Repr

/-- The argument that bytes spell. -/
def claimOf (b : List Byte) : Claim :=
  ⟨field b 0 2, field b 2 1, field b 4 4, field b 8 16, field b 24 4, field b 28 4, (b.drop 32).take 60, b.take 96, b.drop 96⟩

/-- Whether an action installs a key, Table 18-6. -/
def installsKey (action : Nat) : Bool := action < 2

/-- Whether the form is right: check 1 of R486. -/
def claimForm (len : Nat) (c : Claim) : Bool :=
  96 ≤ len && c.version = 0x0100 && c.action < 5 && len = 96 + c.sigLen && c.policy < 4 &&
    (installsKey c.action || c.key.all (· = 0))

/-- Whether an action is allowed in the present owner state: check 3, Table 18-6. -/
def claimAllowed (c : Claim) (s : State) : Bool :=
  if c.action = 0 then s.sec.ownerKey.isNone else s.sec.ownerKey.isSome

/-- The key that signs an action, Table 18-6. -/
def claimKey (c : Claim) (s : State) : List Byte :=
  if c.action = 0 then c.key else if c.action = 4 then Config.vendorKey else s.sec.ownerKey.getD []

/-- The owner record after an action, Table 18-6. -/
def claimEffect (c : Claim) (x : Sec) : Sec :=
  let y := { x with ownerCounter := BitVec.ofNat 32 c.counter }
  if installsKey c.action then { y with ownerKey := some c.key, policy := BitVec.ofNat 32 c.policy }
  else if c.action = 3 then { y with policy := BitVec.ofNat 32 c.policy }
  else { y with ownerKey := none, policy := 2 }

/-- CLAIM_OWNER once begun: the four checks in order, then the effect (R486). -/
def beginClaimOwner (a : Accepted) (s : State) : State :=
  let (bs, s1) := argBytes a.desc s
  let c := claimOf bs
  if !claimForm bs.length c then finish a { st := .badArgument } s1
  else if c.serial != s1.part.serial.toNat || BitVec.ofNat 32 c.counter != s1.sec.ownerCounter + 1 then
    finish a { st := .denied } s1
  else if !claimAllowed c s1 then finish a { st := .denied } s1
  else if hssLength c.signature != some c.sigLen || !Config.hssVerify (claimKey c s1) c.message c.signature then
    finish a { st := .integrity } s1
  else finish a {} (securityEvent 4 { s1 with sec := claimEffect c s1.sec })

/-! ## Firmware update (R480) -/

/-- What the checks of R478 find of an image. -/
def imageCheck (b : List Byte) : SlotCheck :=
  { keyOk := Config.sha256 (Config.imageKey b) = Config.sha256 Config.vendorKey, sigOk := Config.imageSigned b,
    securityVersion := Config.imageSecurity b, fwVersion := Config.imageVersion b, hash := Config.sha256 b }

/-- Steps 2 to 4 of R478: the key's hash, the signature, and the security version. -/
def imagePasses (x : SlotCheck) (s : State) : Bool :=
  x.keyOk && x.sigOk && s.sec.version.toNat ≤ x.securityVersion.toNat

/-- The slot an FW_UPDATE writes: slot R where IMM0[0] asks for it, else the working slot that did not boot. -/
def updateSlot (d : Descriptor) (s : State) : Nat :=
  if d.imm0.getLsbD 0 then 2
  else match s.boot.running with
    | some 0 => 1
    | some 1 => 0
    | _ => if s.boot.selector then 0 else 1

/-- FW_UPDATE once begun: BUSY while one writes, INTEGRITY when the image does not pass, else the write starts
(R480). -/
def beginFwUpdate (a : Accepted) (s : State) : State :=
  if s.boot.update.isSome then finish a { st := .busy } s
  else if a.desc.argLen = 0 || 2 ^ 24 < a.desc.argLen.toNat then finish a { st := .badArgument } s
  else
    let (bs, s1) := argBytes a.desc s
    let x := imageCheck bs
    if !imagePasses x s1 then finish a { st := .integrity } s1
    else { s1 with boot := { s1.boot with update := some (updateSlot a.desc s1, x, a) } }

/-- The boot record after an image has been written to a slot and verified: a working slot becomes the one the next
boot takes (R480). -/
def staged (slot : Nat) (x : SlotCheck) (b : Boot) : Boot :=
  let b1 := { b with update := none, slotFailed := setErase slot b.slotFailed }
  if slot = 2 then b1 else { b1 with selector := slot = 1, nextHash := x.hash }

/-- FW_STAGED: the write ends, the selector moves and the command completes; the DETAIL of an image for slot R is a
free value (R480, R489, log 52). -/
def execFwStaged (s : State) : Step := match s.boot.update with
  | none => .next s
  | some (slot, x, a) =>
    if !fwRuns s || s.cairn.frozen then .next s
    else
      let s1 := { s with boot := staged slot x s.boot }
      let (n, s2) := if slot = 2 then useFree s1 else (0, s1)
      let detail := if slot = 2 then Config.free32 n else BitVec.ofNat 32 slot
      .next (finish a { detail := detail } (securityEvent 0xA s2))

/-! ## Debug unlock and JTAG (R487, R488) -/

/-- Draws a fresh debug challenge from the entropy source (R488, log 7). -/
def drawChallenge (s : State) : State :=
  let (n, s1) := useFree s
  { s1 with sec := { s1.sec with challenge := Config.free256 n } }

/-- Numbers of the JTAG instructions in the log of outputs (log 2). -/
def jtagNum : JtagInstr → Nat
  | .bypass => 0 | .idcode => 1 | .samplePreload => 2 | .extest => 3 | .clamp => 4 | .highz => 5

/-- DBG_CHALLENGE: the challenge in force is read (R488). -/
def execDbgChallenge (s : State) : Step := .next (emit (.jtag 6 s.sec.challenge) s)

/-- Whether a token is accepted (R488). -/
def tokenOk (t : DebugToken) (s : State) : Bool :=
  t.version = 0x0100 && t.kind = 1 && t.serial = s.part.serial && t.challenge = s.sec.challenge && t.sigOk &&
    (s.sec.ownerKey.isNone || s.sec.policy.getLsbD 1)

/-- DBG_TOKEN: the scope is unlocked, or the token is refused and a fresh challenge drawn; nothing more is accepted
after eight refusals (R488). -/
def execDbgToken (t : DebugToken) (s : State) : Step :=
  if 8 ≤ s.sec.refused || s.boot.colHeld then .next s
  else if tokenOk t s then
    .next (securityEvent 5 { s with sec := { s.sec with unlocked := s.sec.unlocked ||| t.scope, debug := true } })
  else .next (drawChallenge (securityEvent 6 { s with sec := { s.sec with refused := s.sec.refused + 1 } }))

/-- The IDCODE: version 0x1, part number 0x6A32, Kwanuko's manufacturer code and the constant 1 (R487). -/
def idcode : BitVec 256 :=
  BitVec.ofNat 256 (0x1 * 2 ^ 28 + 0x6A32 * 2 ^ 12 + Config.jep106.toNat * 2 + 1)

/-- What a standard instruction shifts out: the bypass bit, the IDCODE, or the captured cells, whose levels come
from outside the model and are a free value (R487, log 12). -/
def jtagOut (i : JtagInstr) (s : State) : BitVec 256 := match i with
  | .bypass => 0
  | .clamp => 0
  | .highz => 0
  | .idcode => idcode
  | .samplePreload => (Config.free64 s.free).setWidth 256
  | .extest => (Config.free64 s.free).setWidth 256

/-- Whether an instruction selects the boundary register, into which the sender's cells are shifted. -/
def boundary : JtagInstr → Bool
  | .samplePreload => true
  | .extest => true
  | _ => false

/-- BOUNDARY_SCAN: a standard instruction runs, at all times (R487). -/
def execBoundaryScan (i : JtagInstr) (pins : BitVec 32) (s : State) : Step :=
  let s1 := emit (.jtag (jtagNum i) (jtagOut i s)) { s with sec := { s.sec with jtag := i } }
  if boundary i then .next { s1 with sec := { s1.sec with scan := pins }, free := s1.free + 1 } else .next s1

end Sys2Proof.Machine
end

