-- ==== Sys2Proof/Machine/Resets.lean ====
section
/-!
DEFINITION. The reset kinds (chapter 19): package reset, Col reset, flank resets, DEVICE_RESET and the loss of a
power good.
-/

namespace Sys2Proof.Machine

/-! ## Modules come up -/

/-- A Verweust module whose clock has come, or that trains afresh, is ACTIVE; the ID that its far end reported is checked
first, and one with too few healthy wires stays out (R54, R380, R387, R398). -/
def moduleUp (m : Nat) (s : State) : State :=
  let x := modGet m s
  if x.state = .down || x.state = .clockLost then
    if wrongDesign m x.id s then fenceDesign m (idFlank x.id) s
    else if tooFewWires m 0 s || tooFewWires m 1 s then moduleOut m 0 0x7F s
    else modSet m { x with state := .active, recalAt := s.clock.now
                           rx := recordTrims m (restartDir x.rx) s, tx := recordTrims m (restartDir x.tx) s } s
  else s

/-- Groups, Table 17-3: seam 0–7, optical 8–15, Col 16 and 17, guest 18, port 19. -/
def allGroups : List Nat := List.range 20

/-- Every group takes the weights its modules call for. -/
def weighAll (s : State) : State := allGroups.foldl (fun t g => setWeights g t) s

/-! ## The package reset (R491) -/

/-- What the Col NVM keeps of a channel side: FENCED and DARK, but for a fence that a forced event made (R306, R460). -/
def chansKept (s : State) : Tab Chan :=
  (s.chans.filter fun e => (e.2.state = .fenced && !s.faults.forcedUnits.contains (fenceKey (0x7000 + e.1) 0)) ||
    e.2.state = .dark).map fun e => (e.1, { state := e.2.state })

/-- What the Col NVM keeps of a link end: DISABLED. -/
def linksKept (s : State) : Tab LinkSt :=
  (s.links.filter fun e => e.2.disabled).map fun e => (e.1, { disabled := true })

/-- What the Col NVM keeps of a laser: its lit hours. -/
def lasersKept (s : State) : Tab Laser :=
  (s.las.laser.filter fun e => (laserHours s.clock.now e.2).hours != 0).map fun e =>
    (e.1, { hours := (laserHours s.clock.now e.2).hours })

/-- What the Col NVM keeps of a Verweust module: its repair maps. -/
def modulesKept (s : State) : Tab Module :=
  (s.d2d.modu.filter fun e => e.2.rx.repair != [] || e.2.tx.repair != []).map fun e =>
    (e.1, { rx := { repair := e.2.rx.repair }, tx := { repair := e.2.tx.repair } })

/-- What the Col NVM keeps of the boot records; the count of package resets rises (R444, R480). -/
def bootKept (s : State) : Boot :=
  { count := s.boot.count + 1, selector := s.boot.selector
    slotFailed := match s.boot.update with
      | some (slot, _, _) => setInsert slot s.boot.slotFailed
      | none => s.boot.slotFailed }

/-- What the Col NVM keeps of the security records (R483, R486). -/
def secKept (s : State) : Sec :=
  { ownerKey := s.sec.ownerKey, policy := s.sec.policy, ownerCounter := s.sec.ownerCounter, version := s.sec.version
    reserved := s.sec.reserved, nextLeaf := s.sec.reserved, trees := s.sec.trees, suspect := s.sec.suspect }

/-- What the Col NVM keeps of the fabric record (R340, R376). -/
def fabKept (s : State) : Fab :=
  { id := s.fab.id, extent := s.fab.extent, spurs := s.fab.spurs, timeoutUs := s.fab.timeoutUs, replayUs := s.fab.replayUs
    timePriority := s.fab.timePriority, configured := s.fab.configured }

/-- The state a package reset leaves: every field at its reset value but for the NVM records, the shutdown latch of the
always-on domain and the model's own fields (R491, R505, Table 19-3). -/
def afterReset (s : State) : State :=
  { part := s.part
    pins := { mgmtAddr := s.pins.mgmtAddr, pgLow := s.pins.pgLow, refclk := s.pins.refclk, rctlAlertN := s.pins.rctlAlertN }
    boot := bootKept s
    faults := { fenced := ((chansKept s).filter fun e => e.2.state = .fenced).map fun e => fenceKey (0x7000 + e.1) 0 }
    mem := { homeNext := s.mem.homeNext, cacheNext := s.mem.cacheNext, dropped := s.mem.dropped }
    stk := { spares := s.stk.spares, repaired := s.stk.repaired }
    comp := { remap := s.comp.remap, sparesGone := s.comp.sparesGone }
    banks := { spare := s.banks.spare }
    therm := { latched := s.therm.latched }
    las := { laser := lasersKept s, spareIn := s.las.spareIn, worn := s.las.worn }
    chans := chansKept s
    links := linksKept s
    fab := fabKept s
    d2d := { modu := modulesKept s }
    sec := secKept s
    out := s.out
    free := s.free
    pending := s.pending }

/-- The Col leaves reset or is held: by the shutdown latch with STEP 0x01 and THERMAL_LATCH, or, with STEP still at its
reset value, until its supplies and its reference are there (R491, R507, Table 20-5). A fresh debug challenge is drawn
(R488). -/
def leaveReset (supplied : Bool) (s : State) : State :=
  let s1 := drawChallenge s
  if s1.therm.latched.isSome then { s1 with boot := { s1.boot with colHeld := true, error := 0x86 } }
  else { s1 with boot := { s1.boot with colHeld := !supplied, step := if supplied then 1 else 0 } }

/-- PACKAGE_RESET: a low level of 1 µs or more on RST_N; a shorter one is ignored (R491). -/
def execPackageReset (low : Nat) (pins : ResetPins) (s : State) : Step :=
  if low < 1000 then .next s
  else
    let s1 := afterReset s
    .next (leaveReset (pins.powerGood && pins.refclkOk)
      { s1 with pins := { s1.pins with bootHold := pins.bootHold, refclk := pins.refclkOk,
                                       pgLow := if pins.powerGood then [] else s1.pins.pgLow } })

/-! ## The Col reset (R278, R494) -/

/-- A restarted graph slot: every handle becomes invalid, the generation stays (R164, R278). -/
def slotEmptied (g : Graph) : Graph := { gen := g.gen }

/-- The parts of the firmware that a Col reset loses: graphs, executions, takes under way, held work (R278, R472). -/
def firmwareLost (s : State) : State :=
  { s with
    graphs := { slot := (s.graphs.slot.map fun e => (e.1, slotEmptied e.2)).filter fun e => e.2 != {} }
    cairn := if s.cairn.state = .taking then { missed := s.cairn.missed } else { s.cairn with waiting := [] }
    fab := { s.fab with
      tables := [], slots := [], received := [], receivedBad := []
      reqs := s.fab.reqs.filter fun r => r.engine.isSome }
    therm := { s.therm with railHeld := false, railFails := [] }
    dev := { s.dev with state := .booting, resetWait := [], waking := none }
    boot := { s.boot with
      step := 1, error := 0, held := none, running := none, update := none, colRestart := true,
      wasStandby := s.dev.state = .standby
      slotFailed := match s.boot.update with
        | some (slot, _, _) => setInsert slot s.boot.slotFailed
        | none => s.boot.slotFailed } }

/-- A Col reset begins: the Col restarts its boot and the firmware's ends of the cluster queues are cleared; the leaves
reserved and not used are skipped (R68, R236, R242, R472, R483, R494, R507). -/
def colReset (wait : Option Accepted) (s : State) : State :=
  let s1 := clearFirmwareEnds (firmwareLost (releaseLocks [1] (mbxFwResetBegin s)))
  let s2 := skipLeaves s1
  touchSync { s2 with dev := { s2.dev with colWait := wait } }

/-- The reset flank's cache is emptied; its modified lines have been written back first (Table 7-9). -/
def flushCache (f : Flank) (s : State) : State :=
  (cachedOn f s).foldl (fun t a => dirSet a 0 (cacheSet a none (writeBack a t))) s

/-- What a soft reset does to a flank: its cache is flushed, its compute restarts, its queues opened anew at both ends, and
its locks are released (R68, R242, R495). -/
def softClear (f : Flank) (s : State) : State :=
  releaseLocks [if f = .north then 5 else 6] (restartCompute f (flushCache f s))

/-- Accepted commands of a queue that have not completed, but the Col reset's own, in HSEQ order. -/
def openCmds (q : Queue) (s : State) : List Accepted :=
  let r := ringOf q s
  (r.begun ++ r.waiting).filter fun a => some a != s.dev.colWait

/-- The list in HSEQ order. -/
def byHseq (l : List Accepted) : List Accepted :=
  sortBy (fun a b => !above a.desc.hseq b.desc.hseq) l

/-- The restarted firmware takes up the SYNC record: the flank ends of the cluster queues are cleared by soft flank resets,
the epoch rises, commands not completed end with ABORTED, FW_RESTART is posted, the mailboxes are back, and the Col reset's
own command completes (R68, R236, R275, R278). -/
def fwRestart (s : State) : State :=
  let s0 := softClear .south (softClear .north s)
  let s1 := touchSync { s0 with
    boot := { s0.boot with colRestart := false }
    cmds := { s0.cmds with fwEpoch := s0.cmds.fwEpoch + 1 } }
  let dropped := byHseq (openCmds .normal s1) ++ byHseq (openCmds .urgent s1)
  let s2 := dropped.foldl (fun t a => finish a { st := .aborted } t) s1
  let s3 := mbxFwResetEnd (notice 6 (s2.cmds.fwEpoch.setWidth 32) (BitVec.ofNat 64 dropped.length) s2)
  let s4 := match s3.dev.colWait with
    | some a => finish a {} s3
    | none => s3
  { s4 with
    dev := { s4.dev with colWait := none }
    cmds := { s4.cmds with wdSince := s4.clock.now, wdFired := false } }

/-- COL_RESET: the Col reset begins (R494). -/
def execColReset (s : State) : Step :=
  if s.boot.colHeld || s.boot.colRestart || s.boot.running.isNone || s.dev.state = .haltedThermal then .next s
  else .next (colReset none s)

/-! ## Flank resets (R495–R497) -/

/-- RESET_NOTICE on each module of a flank that is to be reset in order, naming 10 µs; the model then lets the reset follow in
the same step (R398, log 118). -/
def noticeReset (f : Flank) (hard : Bool) (s : State) : State :=
  (flankModules f).foldl (fun t m =>
    if (modGet m t).state = .active then sbSend m 0x07 0 (bit hard + 10 * 2 ^ 16) t else t) s

/-- A flank soft reset begins: the flank's executions' parts fail with ABORTED, its compute restarts, its locks are
released (R68, R242, R398, R495). -/
def softBegin (f : Flank) (s : State) : State :=
  let s1 := mapRunning (fun g x => failFlank g f Status.aborted.code x) (setFlank f .softReset (noticeReset f false s))
  refreshDegraded (softClear f s1)

/-- The counters of a flank's units read zero and are disabled by a hard reset (R463). -/
def countersOff (f : Flank) (s : State) : State :=
  let c := s.counts
  { s with counts := { c with
      enabled := c.enabled.filter fun k => k % 2 != flankNum f
      clusters := tclear c.clusters (onFlank f 16), cores := tclear c.cores (onFlank f 128)
      links := tclear c.links fun k => linkFlank (k / 12) = f
      stackCtrs := tclear c.stackCtrs fun k => k / 32 = flankNum f } }

/-- A flank hard reset begins: as for a clock loss (R39, R398, R496). -/
def hardBegin (f : Flank) (s : State) : State :=
  flankOut f .hardReset (countersOff f (mapRunning (fun g x => failFlank g f Status.aborted.code x) (noticeReset f true s)))

/-- The DEVICE_RESETs that wait for a flank complete. -/
def flankDone (f : Flank) (s : State) : State :=
  let mine := s.dev.resetWait.filter fun e => e.1 = f
  mine.foldl (fun t e => finish e.2 {} t)
    { s with dev := { s.dev with resetWait := s.dev.resetWait.filter fun e => e.1 != f } }

/-- A bank that starts again from its record: what Table 4-11 counts since the package reset stays, and so do its setpoint
and the age of its last check (R118, R439, R496). -/
def bankAgain (p : Nat) (s : State) (b : Bank) : Bank :=
  serving p s { band := b.band, relocked := b.relocked, checkedAt := b.checkedAt, relocks := b.relocks, checks := b.checks,
                heaterOff := b.heaterOff }

/-- The banks of a flank, its fenced ones aside, start again from their records (R439, R496). -/
def banksRestart (f : Flank) (s : State) : State :=
  let keys := (s.banks.bank.filter fun e => onFlank f 16 e.1 && e.2.state != .fenced).map (·.1)
  let s1 := keys.foldl (fun t k => bankSet (k / 16) (k % 16) (bankAgain (k / 16) t (bankGet (k / 16) (k % 16) t)) t) s
  { s1 with banks := { s1.banks with wave := tset none s1.banks.wave (flankNum f) none } }

/-- A flank returns: its clusters serve again; after a hard reset its modules are up and its links train (R495, R496). -/
def flankBack (f : Flank) (hard : Bool) (s : State) : State :=
  let s1 := setFlank f .inService s
  let s2 := if hard then
      let u := weighAll ((flankModules f).foldl (fun t m => moduleUp m t) (banksRestart f s1))
      (flankLinks f).foldl (fun t n => linkRelease n t) u
    else s1
  refreshDegraded (flankDone f s2)

/-- FLANK_SOFT_RESET: begins on a flank in service, and ends on one in soft reset (R495, R497, log 53). -/
def execFlankSoftReset (f : Flank) (s : State) : Step :=
  if s.dev.state = .haltedThermal then .next s
  else if flankPhase f s = .softReset then .next (flankBack f false s)
  else if flankPhase f s = .inService && flankPhase (otherFlank f) s = .inService then .next (softBegin f s)
  else .next s

/-- FLANK_HARD_RESET: begins on a flank in service, and ends on one in hard reset (R496, R497, log 53). -/
def execFlankHardReset (f : Flank) (s : State) : Step :=
  if s.dev.state = .haltedThermal then .next s
  else if flankPhase f s = .hardReset then .next (flankBack f true s)
  else if flankPhase f s = .inService && flankPhase (otherFlank f) s = .inService then .next (hardBegin f s)
  else .next s

/-- Whether a flank reset is turned away: the flank in reset, lost or fenced, or the other in reset or lost (R497). -/
def flankBusy (f : Flank) (s : State) : Bool :=
  let o := flankPhase (otherFlank f) s
  flankPhase f s != .inService || o = .softReset || o = .hardReset || o = .lost

/-- DEVICE_RESET once begun (R493–R497). -/
def beginReset (a : Accepted) (s : State) : State :=
  let kind := a.desc.imm0.toNat % 16
  let f := flankOfNum (bitsOf a.desc.imm0.toNat 8 8)
  if kind = 1 then colReset (some a) s
  else if kind != 2 && kind != 3 then finish a { st := .badArgument } s
  else if flankBusy f s then finish a { st := .busy } s
  else
    let s1 := { s with dev := { s.dev with resetWait := s.dev.resetWait ++ [(f, a)] } }
    if kind = 2 then softBegin f s1 else hardBegin f s1

/-! ## Loss of a power good (R492) -/

/-- A lost VLAS: every lit laser has a class U fault, links and ports go down, comb arrays are fenced (Table 19-2). -/
def lasersUnpowered (s : State) : State :=
  let s1 := (List.range 8).foldl (fun t c => linkChipletOut c t) s
  let s2 := (List.range 4).foldl (fun t c => combChipFail c t) s1
  let ports := (chipLasers 12).filter fun i => (laserGet i s2).lit
  allDark (ports.foldl (fun t i => faultUOpen (0xA000 + i) (laserOff i t)) s2)

/-- Every bank of both light layers is fenced (Table 19-2). -/
def banksUnpowered (s : State) : State :=
  (List.range 660).foldl (fun t p => (List.range 16).foldl (fun u c => failBank p c u) t) s

/-- What a lost power good brings, Table 19-2. -/
def powerLost (pg : PowerGood) (s : State) : State := match pg with
  | .aon => let s1 := afterReset s; leaveReset false { s1 with therm := {} }
  | .io => leaveReset false (afterReset s)
  | .col => leaveReset false (afterReset s)
  | .mem => loseMemory .south (loseMemory .north (faultXOpen 0xE007 s))
  | .core => flankOut .south .lost (flankOut .north .lost (faultXOpen 0xE007 s))
  | .ll => banksUnpowered s
  | .las => lasersUnpowered s
  | .gst => fenceGuest s

/-- POWER_GOOD_LOSS: an input falls while RST_N is high; VGST applies only to a part with a guest (R490, R492). -/
def execPowerGoodLoss (pg : PowerGood) (s : State) : Step :=
  if !s.pins.rstN || s.pins.pgLow.contains pg || (pg = .gst && s.part.guest.isNone) then .next s
  else .next (powerLost pg { s with pins := { s.pins with pgLow := s.pins.pgLow ++ [pg] } })

end Sys2Proof.Machine
end

