-- ==== Sys2Proof/Machine/Records.lean ====
section
/-!
DEFINITION. Calibration and service records (chapter 16, R437, R438, R445, R481): what becomes of the units of a record
that cannot be used or that disagrees, and of a record that passes its re-check.
A record's instance in the model: a sensor, a physical cluster, laser chiplet × 32 + line (LL0–7, CL at 8–11, port 12), a
channel side (a control port's side 1,152 + 2 p + d), a module × 2 + direction (log 54).
-/

namespace Sys2Proof.Machine

/-- The key of a record in the calibration status list. -/
def recordKey (kind inst : Nat) : Nat := kind * 4096 + inst

/-- Whether a record exists (Table 16-1). -/
def recordExists (kind inst : Nat) : Bool := match kind with
  | 1 => inst < 1024
  | 2 => inst < 660
  | 3 => inst < 386 && (8 * 32 ≤ inst || inst % 32 < 18)
  | 4 => inst < 1156
  | 5 => inst < 282
  | _ => false

/-- Lasers that a LASER record covers: primary and spare of a wavelength. -/
def recordLasers (inst : Nat) : List Nat :=
  let c := inst / 32
  let k := inst % 32
  if c < 8 then [c * 36 + k, c * 36 + 18 + k]
  else if c < 12 then ((List.range 4).map fun a => combPrimary (c - 8) a k) ++ [combSpare (c - 8) k]
  else [0x120 + k, 0x122 + k]

/-- The laser record that covers a laser. -/
def laserRecord (inst : Nat) : Nat :=
  if inst < 0x120 then inst / 36 * 32 + inst % 18
  else if isComb inst then (8 + (combOf inst).1) * 32 + (combOf inst).2.2
  else 12 * 32 + inst % 2

/-- The first dependent unit of a record (Table 16-1): its source id. -/
def firstUnit (kind inst : Nat) : Nat := match kind with
  | 1 => if inst < 660 then 0x2000 + inst else (partOf inst).1
  | 2 => 0x3000 + inst
  | 3 => 0xA000 + (recordLasers inst).headD 0
  | 4 => if inst < 1152 then 0x7000 + inst else 0xD000 + (inst - 1152) / 2
  | _ => 0x6000 + inst / 2

/-- A class U fault whose syndrome names KIND and INSTANCE in a layout the spec does not give, the core number of a bank
in [3:0] (R445, log 3). -/
def recordFault (src core : Nat) (s : State) : State :=
  let (n, s1) := useFree s
  faultU src (core + 16 * ((Config.free64 n).toNat / 16)) s1

/-- The dependent units of a record go out of service, each with a class U fault (R437, R445, Table 16-1). -/
def fenceRecord (kind inst : Nat) (s : State) : State := match kind with
  | 1 => if (sensorGet inst s).excluded then s else excludeSensor inst (sensorGet inst s).reading s
  | 2 => (List.range 16).foldl (fun t c =>
      if bankFenced inst c t then t else fenceBank inst c (recordFault (0x3000 + inst) c t)) s
  | 3 =>
    let s1 := (recordLasers inst).foldl (fun t i => recordFault (0xA000 + i) 0 (laserOff i t)) s
    let c := inst / 32
    let k := inst % 32
    if c < 8 then (List.range 4).foldl (fun t i => putOut (c * 4 + i) k t) (markGone c k s1)
    else if c < 12 then (List.range 4).foldl (fun t a => enterDark (c - 8) a k false t) s1
    else portOut (if k = 0 then .cp0 else .cp1) s1
  | 4 =>
    if inst < 1152 then
      if (chanSide inst s).state = .fenced then s
      else
        let s1 := recordFault (0x7000 + inst) 0 s
        setChan inst { chanSide inst s1 with state := .fenced, urgent := false, walk := {} } s1
    else portOut (if (inst - 1152) / 2 = 0 then .cp0 else .cp1) (recordFault (0xD000 + (inst - 1152) / 2) 0 s)
  | 5 =>
    let m := inst / 2
    let y := dirGet m (inst % 2) s
    if y.noRecord then s
    else moduleChanged m (recordFault (0x6000 + m) 0 (putDir m (inst % 2) { y with noRecord := true } s))
  | _ => s

/-- The units of a record that was SUSPECT before a package reset stay out until the re-check passes (R445): no fault of
their own. -/
def holdRecord (kind inst : Nat) (s : State) : State := match kind with
  | 1 =>
    if inst < 660 then
      let s1 := fenceAdd (0x2000 + inst) 0 (sensorSet inst { sensorGet inst s with excluded := true } s)
      match exposedOf inst s with
      | some e => { s1 with comp := { s1.comp with unbound := setInsert e s1.comp.unbound } }
      | none => s1
    else sensorSet inst { sensorGet inst s with excluded := true } s
  | 2 => (List.range 16).foldl (fun t c =>
      bankSet inst c { bankGet inst c t with state := .fenced } (fenceAdd (0x3000 + inst) c t)) s
  | 3 =>
    let c := inst / 32
    let k := inst % 32
    if c < 8 then (List.range 4).foldl (fun t i => putOut (c * 4 + i) k t) (markGone c k s)
    else if c < 12 then (List.range 4).foldl (fun t a => { t with banks := { t.banks with
      dark := tset [] t.banks.dark ((c - 8) * 4 + a) (setInsert k (tget [] t.banks.dark ((c - 8) * 4 + a))) } }) s
    else portOut (if k = 0 then .cp0 else .cp1) s
  | 4 =>
    if inst < 1152 then
      setChan inst { chanSide inst s with state := .fenced } (fenceAdd (0x7000 + inst) 0 s)
    else portOut (if (inst - 1152) / 2 = 0 then .cp0 else .cp1) s
  | 5 => putDir (inst / 2) (inst % 2) { dirGet (inst / 2) (inst % 2) s with noRecord := true } s
  | _ => s

/-- A record passes its re-check: it leaves the list, its units return, with a class C fault against the first (R445). -/
def returnRecord (kind inst : Nat) (s : State) : State :=
  let s1 := { s with sec := { s.sec with suspect := setErase (recordKey kind inst) s.sec.suspect } }
  let s2 := match kind with
    | 1 =>
      let t := fenceDrop (firstUnit 1 inst) 0 (sensorSet inst { sensorGet inst s1 with excluded := false } s1)
      match exposedOf inst t with
      | some e => if inst < 660 then { t with comp := { t.comp with unbound := setErase e t.comp.unbound } } else t
      | none => t
    | 2 => (List.range 16).foldl (fun t c =>
        bankSet inst c { bankGet inst c t with state := .inService } (fenceDrop (0x3000 + inst) c t)) s1
    | 3 =>
      let c := inst / 32
      let k := inst % 32
      if c < 8 then
        let t := { s1 with las := { s1.las with gone := setErase (waveKey c k) s1.las.gone } }
        (List.range 4).foldl (fun u i =>
          let x := chanSide (txi (c * 4 + i) k) u
          if x.state = .dark then setChan (txi (c * 4 + i) k) { x with state := .spare } u else u) t
      else if c < 12 then
        let t := (List.range 4).foldl (fun u a => { u with banks := { u.banks with
          dark := tset [] u.banks.dark ((c - 8) * 4 + a) (setErase k (tget [] u.banks.dark ((c - 8) * 4 + a))) } }) s1
        (List.range 4).foldl (fun u a => mapArray (c - 8) a (fun p b v =>
          if (bankGet p b v).state = .darkLine then bankSet p b (serving p v (bankGet p b v)) v else v) u) t
      else setPort (if k = 0 then .cp0 else .cp1) { portSt (if k = 0 then .cp0 else .cp1) s1 with fenced := false } s1
    | 4 =>
      if inst < 1152 then setChan inst { chanSide inst s1 with state := .spare } (fenceDrop (0x7000 + inst) 0 s1)
      else
        let p := if (inst - 1152) / 2 = 0 then Port.cp0 else Port.cp1
        setPort p { portSt p s1 with fenced := false } s1
    | _ => putDir (inst / 2) (inst % 2) { dirGet (inst / 2) (inst % 2) s1 with noRecord := false } s1
  refreshDegraded (faultCOpen (firstUnit kind inst) s2)

/-- A record disagrees with its re-measurement: SUSPECT, with its units out of service (R445). -/
def suspectRecord (kind inst : Nat) (s : State) : State :=
  if !recordExists kind inst || s.sec.suspect.contains (recordKey kind inst) then s
  else fenceRecord kind inst { s with sec := { s.sec with suspect := setInsert (recordKey kind inst) s.sec.suspect } }

/-- The re-check of the SUSPECT records of some kinds: those that did not disagree again leave the list (R445). -/
def recheck (kinds : List Nat) (again : List Nat) (s : State) : State :=
  (s.sec.suspect.filter fun r => kinds.contains (r / 4096) && !again.contains r).foldl
    (fun t r => returnRecord (r / 4096) (r % 4096) t) s

/-! ## Bad copies at the NVM load (R437, R438, R481) -/

/-- The service records of Table 18-2 and the identity record, by the number that NVM_LOAD names them with (log 54): the
record's factory default, or what its own chapter gives (R481–R483). -/
def defaultRecord (name : Nat) (s : State) : State := match name with
  | 0 => { s with comp := { s.comp with remap := [], sparesGone := [] } }
  | 1 => { s with las := { s.las with spareIn := [], worn := [] }, banks := { s.banks with spare := [] } }
  | 2 => { s with
      links := (s.links.map fun e => (e.1, { e.2 with disabled := false })).filter fun e => e.2 != {}
      chans := s.chans.filter fun e => e.2 != { state := .dark } && e.2 != { state := .fenced } }
  | 3 => { s with stk := { s.stk with spares := [], repaired := [] } }
  | 4 => { s with mem := { s.mem with homeNext := false, cacheNext := 0 } }
  | 5 => { s with fab := { s.fab with id := 0, extent := [1, 1, 1, 1, 1], spurs := [], timeoutUs := 2000, replayUs := 0,
                                      timePriority := 255, configured := false } }
  | 6 => { s with d2d := { s.d2d with modu := (s.d2d.modu.map fun e =>
      (e.1, { e.2 with rx := { e.2.rx with repair := [] }, tx := { e.2.tx with repair := [] } })).filter fun e => e.2 != {} } }
  | 7 => { s with sec := { s.sec with suspect := [] } }
  | 8 => { s with boot := { s.boot with count := 0 } }
  | 9 => { s with sec := { s.sec with ownerKey := none, policy := 2, ownerCounter := 0 } }
  | 10 => { s with sec := { s.sec with version := 0 } }
  | 11 => { s with sec := { s.sec with reserved := keyLeaves, nextLeaf := keyLeaves } }
  | 12 => { s with boot := { s.boot with selector := false } }
  | 13 => { s with part := { s.part with identityBad := true } }
  | _ => s

/-- The header of a calibration record (R436, Table 16-2). -/
structure CalHeader where
  magic : Nat
  kind : Nat
  position : Nat
  inst : Nat
  version : Nat
  copy : Nat
  length : Nat
  measuredAt : Nat
  check : Nat
  deriving DecidableEq, Repr

/-- Reads the 32-byte header at the front of a record. -/
def calHeader (bs : List Byte) : CalHeader :=
  ⟨field bs 0 4, field bs 4 1, field bs 5 1, field bs 6 2, field bs 8 2, field bs 10 1, field bs 12 4, field bs 16 8, field bs 28 4⟩

/-- CHECK of a record: CRC-32C over the header with CHECK as zero, and the body of LENGTH bytes (Table 16-2). -/
def calCheck (bs : List Byte) : Nat :=
  (crc32c (bs.take 28 ++ zeros 4 ++ (bs.drop 32).take (calHeader bs).length)).toNat

/-- The position code of the chiplet that a sensor of an optical, laser or port chiplet stands on (Table 2-5). -/
def chipletOf (j : Nat) : Option Nat :=
  if 960 ≤ j && j < 992 then some (0x30 + (j - 960) / 4) else if 992 ≤ j && j < 1000 then some (0x40 + (j - 992))
  else if 1000 ≤ j && j < 1008 then some (0x50 + (j - 1000) / 2) else if 1020 ≤ j && j < 1024 then some 0x01 else none

/-- POSITION of a record: the die or chiplet measured, of a module the receiving end (Tables 2-5 and 16-1, log 54). -/
def recordPosition (kind inst : Nat) : Nat := match kind with
  | 1 => match chipletOf inst with
    | some c => c
    | none => if inst < 660 then 0x10 + inst / 330 else if inst < 896 then 0x10 + (inst - 660) / 118
      else if inst < 960 then 0x20 + (inst - 896) / 8 else 0x00
  | 2 => 0x18 + inst / 330
  | 3 => if inst < 256 then 0x40 + inst / 32 else if inst < 384 then 0x50 + (inst - 256) / 32 else 0x01
  | 4 => if inst < 1152 then 0x30 + inst / 144 else 0x01
  | _ => receiverEnd (inst / 2) (inst % 2)

/-- INSTANCE of a record (Table 16-1): a wavelength of a laser chiplet, a module by R396, else the model's own number. -/
def recordInstance (kind inst : Nat) : Nat := match kind with
  | 3 => inst % 32
  | 5 => inst / 2
  | _ => inst

/-- Whether a copy of a calibration record is bad (R437): its CHECK fails, its MAGIC, KIND, POSITION, INSTANCE or COPY does
not match its place, or its major VERSION is not 1. -/
def copyBad (kind inst copy : Nat) (bs : List Byte) : Bool :=
  let h := calHeader bs
  bs.length < 32 + h.length || h.check != calCheck bs || h.magic != 0x424C4143 || h.kind != kind ||
    h.position != recordPosition kind inst || h.inst != recordInstance kind inst || h.copy != copy || h.version / 256 != 1

/-- What the load does about one bad record: a single bad copy is rewritten from the good one with a class C fault; with
both bad a calibration record's units are fenced and a service record takes its default (R437, R481). -/
def badRecord (b : BadRecord) (s : State) : State := match b with
  | .calibration kind inst copy0 copy1 =>
    if !recordExists kind inst || !(copyBad kind inst 0 copy0 || copyBad kind inst 1 copy1) then s
    else if copyBad kind inst 0 copy0 && copyBad kind inst 1 copy1 then
      fenceRecord kind inst { s with sec := { s.sec with unusable := setInsert (recordKey kind inst) s.sec.unusable } }
    else faultCOpen 0xE002 s
  | .service name both =>
    if 14 ≤ name then s
    else
      let s1 := securityEvent 9 s
      if both then defaultRecord name { s1 with sec := { s1.sec with defaulted := setInsert name s1.sec.defaulted } }
      else s1
  | .calHash kind =>
    if 1 ≤ kind && kind ≤ 5 then
      securityEvent 3 { s with sec := { s.sec with hashBad := setInsert kind s.sec.hashBad } }
    else s

end Sys2Proof.Machine
end

