-- ==== Sys2Proof/Machine/Bringup.lean ====
section
/-!
DEFINITION. Boot and bring-up (R478–R479, R498–R502, Table 19-4) and DEVICE_WAKE (R270).
-/

namespace Sys2Proof.Machine

/-- Whether a bring-up step is the one due: the steps run in order, the firmware runs, and no step has ended bring-up
(R498). -/
def stepDue (n : Nat) (s : State) : Bool := s.boot.step = n && s.boot.error = 0 && fwRuns s && !s.boot.colRestart

/-- Bring-up goes to a step, whose code the boot progress word shows (R500). -/
def toStep (n : Nat) (s : State) : State := { s with boot := { s.boot with step := n } }

/-- A failure that ends bring-up in FAULTED with an error code and a class X fault (R53, R498, R502). -/
def bringUpStops (err : Nat) (src : Nat) (s : State) : State :=
  faultXOpen src { s with boot := { s.boot with error := BitVec.ofNat 8 err } }

/-! ## Col boot and firmware verification (R478, R480) -/

/-- Steps 2 to 4 of R478 for a slot; slot R is excused from step 4. -/
def slotPasses (slot : Nat) (x : SlotCheck) (s : State) : Bool := if slot = 2 then x.keyOk && x.sigOk else imagePasses x s

/-- What the boot ROM finds in a slot. -/
def slotImage (slot : Nat) (x : BootImages) : SlotCheck := if slot = 0 then x.a else if slot = 1 then x.b else x.r

/-- The order in which the boot ROM tries the slots: the selected one, the other working slot, slot R (R478). -/
def bootOrder (s : State) : List Nat := if s.boot.selector then [1, 0, 2] else [0, 1, 2]

/-- The slots that fail ahead of the first that passes, and that one. -/
def tryBoot (x : BootImages) (s : State) : List Nat → List Nat × Option Nat
  | [] => ([], none)
  | k :: t => if slotPasses k (slotImage k x) s then ([], some k) else
      let r := tryBoot x s t
      (k :: r.1, r.2)

/-- The image runs: its hash, versions and slot are on record (R478, R480, R485). -/
def startImage (k : Nat) (failed : List Nat) (x : SlotCheck) (b : Boot) : Boot :=
  { b with step := 3, colHeld := false, running := some k, recovery := k = 2, fallback := failed.any (· < 2)
           slotFailed := setErase k (failed.foldl (fun l f => setInsert f l) b.slotFailed)
           fwHash := x.hash, nextHash := x.hash, fwVersion := x.fwVersion, ifVersion := 0x0100
           imageSecurity := x.securityVersion }

/-- SYN_FW_EPOCH counts the firmware's start after a package reset; a Col reset's start is counted as FW_RESTART is made
(R276, R278). -/
def firmwareCounted (s : State) : State :=
  if s.boot.colRestart then s else touchSync { s with cmds := { s.cmds with fwEpoch := s.cmds.fwEpoch + 1 } }

/-- The supplies and the reference that held the Col in reset are there: it leaves reset, and the timebase starts (R408, R491). -/
def suppliesBack (s : State) : State :=
  { s with
    pins := { s.pins with pgLow := [], refclk := true }
    clock := { s.clock with now := 0, replica := 0, released := 0 } }

/-- COL_BOOT: the boot ROM takes the first slot that passes; a failed working slot is a security event, a recovery image
a class X one; with no slot left the Col stays in BOOTING with NO_IMAGE (R478, R489, R491). -/
def execColBoot (x : BootImages) (s : State) : Step :=
  if 1 < s.boot.step || s.boot.running.isSome || s.therm.latched.isSome || s.dev.state = .haltedThermal then .next s
  else
    let (failed, won) := tryBoot x s (bootOrder s)
    let s0 := if s.boot.colHeld then suppliesBack s else s
    match won with
    | none => .next { s0 with boot := { s0.boot with step := 1, colHeld := false, error := 0x81,
                                                     slotFailed := failed.foldl (fun l f => setInsert f l) s0.boot.slotFailed } }
    | some k =>
      let s1 := firmwareCounted { s0 with boot := startImage k failed (slotImage k x) { s0.boot with error := 0 } }
      let s2 := (failed.filter (· < 2)).foldl (fun t _ => securityEvent 1 t) s1
      .next (if k = 2 then ringBit 30 (faultX 0xE003 2 s2) else s2)

/-! ## NVM load (R437, R438, R481, R494) -/

/-- After a Col reset the restarted firmware takes up its work: READY, or STANDBY if it was so (R278, R479, R494). -/
def colBack (s : State) : State :=
  let s1 := fwRestart (toStep 0xB s)
  let s2 := if s1.boot.recovery then s1
    else { s1 with sec := { s1.sec with version := BitVec.ofNat 32 (max s1.sec.version.toNat s1.boot.imageSecurity.toNat) } }
  let s3 := if s2.dev.state = .booting then setDev (if s2.boot.wasStandby then .standby else .ready) s2 else s2
  watchLeaves { s3 with boot := { s3.boot with
    held := some (BitVec.ofNat 32 (min (2 ^ 32 - 1) ((s3.clock.now - s3.clock.released) / 1000000))) } }

/-- The time priority of the fabric record takes effect (R373, R376). -/
def priorityLoaded (s : State) : State := { s with clock := { s.clock with priority := s.fab.timePriority } }

/-- NVM_LOAD: both copies of every record are read, bad ones handled, and the kinds whose hash mismatches noted. In a
bring-up the units of records that were SUSPECT stay out; in a Col reset this ends the reset (R437, R438, R441, R494). -/
def execNvmLoad (bad : List BadRecord) (s : State) : Step :=
  if s.boot.step != 3 || s.boot.running.isNone || s.dev.state = .haltedThermal then .next s
  else
    let s1 := { s with sec := { s.sec with hashBad := [], defaulted := [] } }
    let s2 := if s.boot.colRestart then s1
      else s1.sec.suspect.foldl (fun t r => holdRecord (r / 4096) (r % 4096) t) s1
    let s3 := bad.foldl (fun t b => badRecord b t) s2
    .next (if s.boot.colRestart then colBack s3 else toStep 4 (priorityLoaded s3))

/-! ## Agreement checks and pre-heat (R442, R501, R502) -/

/-- Cold-plate zone of a sensor: the main zone 0, laser zones NW, NE, SW and SE 1 to 4 (R51, Table 2-1). -/
def zoneOf (j : Nat) : Nat :=
  if 992 ≤ j && j < 1000 then 1 + (j - 992) / 2 else if 1000 ≤ j && j < 1008 then 1 + (j - 1000) / 2 else 0

/-- The sensors of a list of readings that lie more than 4.0 °C from the median of their zone's sensors in service. -/
def disagreeing (rs : List (Nat × Int)) (s : State) : List Nat :=
  let live := rs.filter fun e => e.1 < 1024 && !(sensorGet e.1 s).excluded
  let mid := (List.range 5).map fun z => median ((live.filter fun e => zoneOf e.1 = z).map (·.2))
  (rs.filter fun e => e.1 < 1024 && 64 < (e.2 - mid.getD (zoneOf e.1) 0).natAbs).map (·.1)

/-- Chiplets with a sensor below −20 °C (R501). -/
def coldChiplets (s : State) : List Nat :=
  (List.range 1024).foldl (fun l j => match chipletOf j with
    | some c => if sensorLive j s && (sensorGet j s).reading < -20 * 16 then setInsert c l else l
    | none => l) []

/-- Pre-heat starts on an X-grade part with a cold chiplet (R501). -/
def startPreHeat (s : State) : State :=
  if s.part.gradeX && coldChiplets s != [] && !s.boot.preheat then
    { s with boot := { s.boot with preheat := true, preheatAt := s.clock.now, cold := coldChiplets s } }
  else s

/-- AGREEMENT_CHECK: readings averaged over the step are compared by zone; a disagreeing sensor's record is SUSPECT; a
D-grade part below 0 °C stops, an X-grade part may pre-heat (R441, R442, R445, R501, R502). -/
def execAgreementCheck (readings : List (Nat × Int)) (s : State) : Step :=
  if !stepDue 4 s then .next s
  else
    let off := disagreeing readings s
    let s1 := (readings.filter (·.1 < 1024)).foldl (fun t e =>
      sensorSet e.1 { sensorGet e.1 t with reading := e.2, sampled := true, at_ := t.clock.now } t) s
    let s2 := off.foldl (fun t j => suspectRecord 1 j t) (recheck [1] (off.map (recordKey 1)) s1)
    if !s.part.gradeX && readings.any (fun e => e.1 < 1024 && e.2 < 0 && !(sensorGet e.1 s2).excluded) then .next (bringUpStops 0x85 0xE007 s2)
    else .next (startPreHeat (toStep 5 s2))

/-- Whether pre-heat still keeps laser warm-up waiting: a cold chiplet, for at most 30 s (R501). -/
def preHeating (s : State) : Bool :=
  s.boot.preheat && s.boot.cold != [] && s.clock.now < s.boot.preheatAt + 30000000000

/-- PRE_HEAT: it starts when the agreement checks have ended, and ends when no chiplet is cold (R501). -/
def execPreHeat (s : State) : Step :=
  if !s.boot.preheat then (if stepDue 5 s then .next (startPreHeat s) else .next s)
  else if s.boot.cold = [] then .next { s with boot := { s.boot with preheat := false } }
  else .next s

/-! ## Verweust links (R53, R394, R400, R498) -/

/-- Whether a flank that answers has a strap that disagrees with its Col group, or both flanks report one id (R53). -/
def strapsBad (x : StrapInput) (s : State) : Bool :=
  (x.north && s.part.strapN != 0) || (x.south && s.part.strapS != 1) ||
    (x.north && x.south && s.part.strapN = s.part.strapS)

/-- The IDs that the far ends report are on record (R54). -/
def idsSeen (x : StrapInput) (s : State) : State :=
  (x.ids.filter fun i => i.mod < 141).foldl (fun t i =>
    modSet i.mod { modGet i.mod t with id := some (i.from_, i.design, i.stepping) } t) s

/-- The guest comes out of reset where one is fitted, supplied and not fenced (R400). -/
def guestOn (s : State) : State :=
  if s.part.guest.isSome && !s.guest.fenced && !s.pins.pgLow.contains .gst then
    { s with pins := { s.pins with gstRstN := true }, guest := { s.guest with tempAt := s.clock.now } }
  else s

/-- VERWEUST_LINKS_STEP: the straps are checked and every group comes up with its IDs checked; a flank that does not answer
is fenced, both end bring-up (R53, R54, R394, R400, R498). -/
def execVerweustLinksStep (straps : StrapInput) (s : State) : Step :=
  if !stepDue 5 s then .next s
  else if !straps.north && !straps.south then .next (bringUpStops 0x83 0xE000 s)
  else if strapsBad straps s then .next (bringUpStops 0x82 0xE000 s)
  else
    let s1 := idsSeen straps (guestOn s)
    let up := (List.range 141).filter fun m => moduleGroup m != 18 || s1.pins.gstRstN
    let s2 := weighAll (up.foldl (fun t m => moduleUp m t) s1)
    let s3 := if straps.north then s2 else fenceFlank .north s2
    let s4 := if straps.south then s3 else fenceFlank .south s3
    .next (refreshDegraded (toStep 6 s4))

/-! ## Memory training (R186, R187, R191, R199, R498) -/

/-- MEMORY_TRAINING: the stacks train and the interleave is set over those in service, by the memory configuration record; a
stack that failed in an earlier service is left out; their contents are lost until rewritten; no stack left ends bring-up
(R37, R186, R187, R191, R199, R498). -/
def execMemoryTraining (failed : List Nat) (s : State) : Step :=
  if !stepDue 6 s then .next s
  else
    let up := (List.range 8).filter fun k =>
      !failed.contains k && !s.mem.dropped.contains k && flankPhase (flankOfNum (k / 4)) s = .inService
    let s1 := (failed.filter (· < 8)).foldl (fun t k => faultUOpen (0x5000 + k) t) s
    if up = [] then .next (bringUpStops 0x84 0xE000 { s1 with mem := { s1.mem with inService := [] } })
    else .next (refreshDegraded (toStep 7 { s1 with mem := { s1.mem with
      trained := true, inService := up, lost := up, home := s1.mem.homeNext, cache := s1.mem.cacheNext } }))

/-! ## Laser warm-up (R441, R443, R498, R501) -/

/-- Whether the lasers of a chiplet of the laser list may start: not below −20 °C in a pre-heat (R501). -/
def chipWarm (chip : Nat) (s : State) : Bool :=
  !(s.boot.preheat && s.boot.cold.contains (if chip < 8 then 0x40 + chip else if chip < 12 then 0x50 + (chip - 8) else 0x01))

/-- Whether the links of a link-laser chiplet may train: neither it nor its optical chiplet is cold (R501). -/
def linksWarm (ll : Nat) (s : State) : Bool :=
  chipWarm ll s && !(s.boot.preheat && s.boot.cold.contains (0x30 + ll))

/-- The link and port lasers are selected by the laser spare map: a worn primary's spare serves, and a wavelength with
neither has none (R295, R302, R312). -/
def selectLinkLasers (s : State) : State :=
  (List.range 8).foldl (fun t ll => chNums.foldl (fun u k =>
    let key := waveKey ll k
    let spare := ll * 36 + 18 + k
    if !u.las.worn.contains (ll * 36 + k) && !u.las.spareIn.contains key then u
    else if u.las.worn.contains spare then
      (List.range 4).foldl (fun v i => putOut (ll * 4 + i) k v) (markGone ll k u)
    else { u with las := { u.las with spareIn := setInsert key u.las.spareIn } }) t) s

/-- A comb chiplet's lines are selected by the laser spare map: a worn primary's line goes to the spare if it is free,
else runs dark (R113, R115, R295). -/
def selectCombLasers (chip : Nat) (s : State) : State :=
  (List.range 128).foldl (fun u i =>
    let a := i / 32
    let k := i % 32
    let served := tget 0 u.banks.spare (lineKey chip k)
    if served = a + 1 then (if u.las.worn.contains (combSpare chip k) then enterDark chip a k false u else u)
    else if !u.las.worn.contains (combPrimary chip a k) then u
    else if spareFree chip k u then { u with banks := { u.banks with spare := tset 0 u.banks.spare (lineKey chip k) (a + 1) } }
    else enterDark chip a k false u) s

/-- The comb lasers of a chiplet are lit: for each line of each array its primary, or the spare that serves it. -/
def lightComb (chip : Nat) (s : State) : State :=
  if s.therm.zoneOff.contains (8 + chip) || s.banks.chipFenced.contains chip || !chipWarm (8 + chip) s then s
  else
    (List.range 128).foldl (fun u i =>
      let a := i / 32
      let k := i % 32
      if (tget [] u.banks.dark (chip * 4 + a)).contains k then u
      else laserOn (if tget 0 u.banks.spare (lineKey chip k) = a + 1 then combSpare chip k else combPrimary chip a k) u) s

/-- A control port's laser is lit and the port trains; with both lasers worn it stays DOWN (R202, R312). -/
def lightPort (p : Port) (s : State) : State :=
  let x := portSt p s
  if x.fenced || !chipWarm 12 s || x.phase != .down then s
  else
    let primary := portLaser p (setPort p { x with spareUsed := false } s)
    let spare := s.las.worn.contains primary
    if spare && s.las.worn.contains (portSpare p) then portDead p s
    else
      let s1 := portTrains p (setPort p { x with spareUsed := spare } s)
      laserOn (portLaser p s1) s1

/-- What warm-up found of one laser: FAILED, or a record that disagrees (R443, Table 11-8). -/
def judgeWarm (recheckToo : Bool) (c : LaserCheck) (s : State) : State :=
  if !isLaser c.inst || s.las.worn.contains c.inst then s
  else if c.failed then laserFail c.inst s
  else if recheckToo && (c.ratioOff || c.frequencyOff) then suspectRecord 3 (laserRecord c.inst) s
  else s

/-- Laser records that disagree. -/
def lasersOff (bad : List LaserCheck) : List Nat :=
  (bad.filter fun c => isLaser c.inst && !c.failed && (c.ratioOff || c.frequencyOff)).map fun c =>
    recordKey 3 (laserRecord c.inst)

/-- DEVICE_WAKE's step 7: the comb lasers warm and lock (R270). -/
def wakeLasers (bad : List LaserCheck) (s : State) : State :=
  let s1 := (List.range 4).foldl (fun t c => lightComb c (selectCombLasers c t)) s
  bad.foldl (fun t c => if isComb c.inst then judgeWarm false c t else t) s1

/-- LASER_WARM_UP: the lasers that bring-up needs are lit and checked; with BOOT_HOLD the combs are left to DEVICE_WAKE
(R441, R443, R445, R498, R499, R501). In a DEVICE_WAKE it is that command's step (R270). -/
def execLaserWarmUp (bad : List LaserCheck) (s : State) : Step := match s.dev.waking with
  | some (a, 7) =>
    if fwRuns s then
      let s1 := wakeLasers bad s
      .next { s1 with dev := { s1.dev with waking := some (a, 8) } }
    else .next s
  | _ =>
    if !stepDue 7 s || preHeating s then .next s
    else
      let s1 := lightPort .cp1 (lightPort .cp0 (selectLinkLasers s))
      let s2 := if s.pins.bootHold then s1 else (List.range 4).foldl (fun t c => lightComb c (selectCombLasers c t)) s1
      let s3 := recheck [3] (lasersOff bad) s2
      .next (refreshDegraded (toStep 8 (bad.foldl (fun t c =>
        if s.pins.bootHold && isComb c.inst then t else judgeWarm true c t) s3)))

/-! ## Ring lock (R109, R305, R444, R498) -/

/-- Whether ring lock re-measures a ring: one in 64 by the boot count, or every ring of a SUSPECT record (R444, R445). -/
def ringSampled (kind inst ring : Nat) (s : State) : Bool :=
  ring % 64 = s.boot.count.toNat % 64 || s.sec.suspect.contains (recordKey kind inst)

/-- The record of a ring that disagrees where it is checked. -/
def ringRecord (c : RingCheck) (s : State) : Option (Nat × Nat) := match c with
  | .bank p k ring walk dis =>
    if dis && !walk && p < 660 && k < 16 && ringSampled 2 p ring s then some (2, p) else none
  | .channel i walk dis => if dis && !walk && i < 1156 && ringSampled 4 i i s then some (4, i) else none

/-- Whether a ring check is about a bank. -/
def bankCheck : RingCheck → Bool
  | .bank _ _ _ _ _ => true
  | .channel _ _ _ => false

/-- A ring whose walk ends in FAILED costs its bank or its channel side (R109, R305). -/
def ringFailed (c : RingCheck) (s : State) : State := match c with
  | .bank p k _ walk _ => if walk && p < 660 && k < 16 then failBank p k s else s
  | .channel i walk _ =>
    if walk && i < 1152 && (chanSide i s).state != .fenced then fenceChan i s else s

/-- DEVICE_WAKE's step 8: the rings of the banks lock (R270). -/
def wakeRings (bad : List RingCheck) (s : State) : State :=
  bad.foldl (fun t c => if bankCheck c then ringFailed c t else t) s

/-- RING_LOCK: every ring locks; a failed walk fences its bank or channel; a checked ring that disagrees makes its record
SUSPECT; with BOOT_HOLD the banks are left to DEVICE_WAKE (R441, R444, R445, R498, R499). -/
def execRingLock (bad : List RingCheck) (s : State) : Step := match s.dev.waking with
  | some (a, 8) =>
    if fwRuns s then
      let s1 := wakeRings bad s
      .next { s1 with dev := { s1.dev with waking := some (a, 9) } }
    else .next s
  | _ =>
    if !stepDue 8 s then .next s
    else
      let mine := bad.filter fun c => !(s.pins.bootHold && bankCheck c)
      let off := mine.filterMap fun c => ringRecord c s
      let kinds := if s.pins.bootHold then [4] else [2, 4]
      let s1 := recheck kinds (off.map fun r => recordKey r.1 r.2) s
      let s2 := off.foldl (fun t r => suspectRecord r.1 r.2 t) s1
      .next (refreshDegraded (toStep 9 (mine.foldl (fun t c => ringFailed c t) s2)))

/-! ## Cluster self-test and remaps (R80–R83) -/

/-- A self-test failure of a cluster, or of one of its cores. -/
def selfTestFail (b : Nat × Option Nat) (s : State) : State := match b with
  | (p, none) => if clusterIdx p then failCluster p s else s
  | (p, some c) =>
    if !clusterIdx p || 16 ≤ c || coreFenced p c s || isFenced (0x2000 + p) 0 s then s
    else fenceCore p c (reportFrom p (evt (0x1000 + p) .u c) s)

/-- The self-test's failures are fenced and every pending remap is applied (R82, R83). -/
def selfTest (bad : List (Nat × Option Nat)) (s : State) : State :=
  let s1 := bad.foldl (fun t b => selfTestFail b t) s
  refreshDegraded (s1.comp.unbound.foldl (fun t e => bindSpare e t) s1)

/-- Fabric training begins: the fabric record's links leave DARK (R327, R340, R499). -/
def trainFabric (s : State) : State :=
  (List.range 32).foldl (fun t n => if linksWarm (n / 4) t then linkRelease n t else t) s

/-- CLUSTER_SELF_TEST: clusters are tested and remaps applied; with BOOT_HOLD it is left to DEVICE_WAKE; fabric training
follows. In a DEVICE_WAKE it is the last step, and the command completes on reaching READY (R83, R270, R498, R499). -/
def execClusterSelfTest (bad : List (Nat × Option Nat)) (s : State) : Step := match s.dev.waking with
  | some (a, 9) =>
    if fwRuns s then
      let s1 := selfTest bad s
      .next (finish a {} (setDev .ready { s1 with dev := { s1.dev with waking := none } }))
    else .next s
  | _ =>
    if !stepDue 9 s then .next s
    else .next (trainFabric (toStep 0xA (if s.pins.bootHold then s else selfTest bad s)))

/-! ## The end of bring-up (R479, R499, R500) -/

/-- FABRIC_TRAINING: at its end the device enters READY, or STANDBY with BOOT_HOLD; the security version counter rises and
the flanks go to the point they may have; a recovery image stays in FAULTED (R419, R478, R479, R499). -/
def execFabricTraining (s : State) : Step :=
  if !stepDue 0xA s then .next s
  else
    let s1 := toStep 0xB s
    let s2 := { s1 with boot := { s1.boot with
      held := some (BitVec.ofNat 32 (min (2 ^ 32 - 1) ((s1.clock.now - s1.clock.released) / 1000000))) } }
    if s2.dev.state != .booting then .next (refreshDegraded s2)
    else
      let s3 := { s2 with sec := { s2.sec with
        version := BitVec.ofNat 32 (max s2.sec.version.toNat s2.boot.imageSecurity.toNat) } }
      let s4 := if s.pins.bootHold then standDown s3 else applyBoth s3
      .next (watchLeaves (refreshDegraded (setDev (if s.pins.bootHold then .standby else .ready) s4)))

/-! ## Late chiplets (R501) -/

/-- The lasers and links of a chiplet that has warmed late start. -/
def chipletStarts (pos : Nat) (s : State) : State :=
  let s1 := if 0x50 ≤ pos && pos < 0x54 && !s.pins.bootHold then lightComb (pos - 0x50) s
    else if pos = 0x01 then lightPort .cp1 (lightPort .cp0 s) else s
  if 0x30 ≤ pos && pos < 0x48 && 0xA ≤ s.boot.step then
    (List.range 4).foldl (fun t i => if linksWarm (pos % 8) t then linkRelease (pos % 8 * 4 + i) t else t) s1
  else s1

/-- PRE_HEAT_CHIPLET_READY: a chiplet reaches −20 °C; past step 7 its lasers start and its links join late (R501). -/
def execPreHeatChipletReady (pos : BitVec 8) (s : State) : Step :=
  if !s.boot.preheat || !s.boot.cold.contains pos.toNat then .next s
  else
    let s1 := { s with boot := { s.boot with cold := setErase pos.toNat s.boot.cold } }
    .next (if 7 < s1.boot.step then chipletStarts pos.toNat s1 else s1)

/-- Lasers of a chiplet by position code. -/
def posLasers (pos : Nat) : List Nat :=
  if 0x40 ≤ pos && pos < 0x48 then chipLasers (pos - 0x40) else if 0x50 ≤ pos && pos < 0x54 then chipLasers (8 + (pos - 0x50))
  else []

/-- A laser chiplet that stays cold is fenced: a class U fault against each of its lasers (R501). -/
def chipletTooCold (pos : Nat) (s : State) : State :=
  let s1 := (posLasers pos).foldl (fun t i => faultUOpen (0xA000 + i) t) s
  if posLasers pos = [] then s
  else
    let chip := if pos < 0x48 then pos - 0x40 else 8 + (pos - 0x50)
    let s2 := { s1 with therm := { s1.therm with zoneOff := setInsert chip s1.therm.zoneOff } }
    if chip < 8 then s2 else fenceChipBanks (chip - 8) s2

/-- PRE_HEAT_TIMEOUT: 120 s after the release of RST_N a laser chiplet still cold is fenced (R501). -/
def execPreHeatTimeout (s : State) : Step :=
  if !s.boot.preheat || s.clock.now < s.clock.released + 120000000000 then .next s
  else
    let s1 := s.boot.cold.foldl (fun t c => chipletTooCold c t) s
    .next (refreshDegraded { s1 with boot := { s1.boot with cold := s1.boot.cold.filter fun c => posLasers c = [] } })

/-! ## DEVICE_WAKE (R270) -/

/-- DEVICE_WAKE once begun: its steps run on. -/
def beginWake (a : Accepted) (s : State) : State :=
  if s.dev.waking.isSome then finish a { st := .busy } s else { s with dev := { s.dev with waking := some (a, 7) } }

/-- DEVICE_WAKE with what its steps find: laser warm-up, ring lock, self-test, remaps, READY (R270). -/
def wakeNow (w : WakeReport) (a : Accepted) (s : State) : State :=
  if s.dev.waking.isSome then finish a { st := .busy } s
  else finish a {} (setDev .ready (selfTest w.selfTest (wakeRings w.rings (wakeLasers [] s))))

end Sys2Proof.Machine
end

