-- ==== Sys2Proof/Machine/Commands.lean ====
section
/-!
DEFINITION. The commands of the host (chapter 10): what each opcode runs, COMMAND_BEGIN, the row of each command, the
firmware's doorbell handling, and the watchdog.
-/

namespace Sys2Proof.Machine

/-! ## From opcode to command (R267) -/

/-- What a begun command does, by its opcode (Table 10-10). -/
def beginOf (a : Accepted) (s : State) : State :=
  match a.desc.opcode.toNat with
  | 0x0101 => beginDeviceInfo a s
  | 0x0102 => beginStandby a s
  | 0x0103 => beginWake a s
  | 0x0104 => beginReset a s
  | 0x0105 => beginLimit a s
  | 0x0106 => beginWatchdog a s
  | 0x0201 => beginSetMode a s
  | 0x0202 => beginLend a s
  | 0x0203 => beginLendLimit a s
  | 0x0204 => beginReclaim a s
  | 0x0301 => beginLoad a s
  | 0x0302 => beginVerify a s
  | 0x0303 => beginPlace a s
  | 0x0304 => beginStart a s
  | 0x0305 => beginPause a s
  | 0x0306 => beginResume a s
  | 0x0307 => beginAbort a s
  | 0x0308 => beginUnload a s
  | 0x0401 => beginFabStatus a s
  | 0x0402 => beginFabConfig a s
  | 0x0403 => beginLinkCtrl a s
  | 0x0501 => beginCountersEnable a s
  | 0x0502 => beginCountersRead a s
  | 0x0503 => beginCairnArm a s
  | 0x0504 => beginCairnTake a s
  | 0x0505 => beginCairnRead a s
  | 0x0601 => beginFaultRead a s
  | 0x0602 => beginFaultClear a s
  | 0x0603 => beginForce a s
  | 0x0701 => beginAck a s
  | 0x0801 => beginAttest a s
  | 0x0802 => beginClaimOwner a s
  | 0x0803 => beginFwUpdate a s
  | _ => finish a { st := .notSupported } s

/-- Runs a command that begins, with the state check made at that moment (R253, R266). -/
def beginWith (run : Accepted → State → State) (a : Accepted) (s : State) : State :=
  if legalNow a.desc s then run a s else finish a { st := .wrongState } s

/-- COMMAND_BEGIN: the oldest accepted command of a queue begins, once any FENCE it carries is met (R253). -/
def execCommandBegin (q : Queue) (s : State) : Step :=
  if !fwActs s then .next s
  else match (ringOf q s).waiting with
    | [] => .next s
    | a :: _ => if fenceMet a s then .next (beginWith beginOf a (moveBegun q a s)) else .next s

/-! ## The row of each command

A row is the command as the firmware takes it from its ring past checks 1 and 2 (log 57): it is accepted, goes through
checks 3 to 5, and begins at once where nothing accepted before it holds it back. -/

/-- Accepts a command of a row: its queue's accepted sequence follows (R252). -/
def acceptRow (d : Descriptor) (s : State) : State :=
  let r := ringOf d.queue s
  let s1 := touchSync (setRing d.queue { r with accepted := if above d.hseq r.accepted then d.hseq else r.accepted } s)
  { s1 with cmds := { s1.cmds with orders := s.cmds.orders + 1 } }

/-- Puts an accepted command among those that wait. -/
def rowWaits (a : Accepted) (s : State) : State :=
  let r := ringOf a.desc.queue s
  setRing a.desc.queue { r with waiting := r.waiting ++ [a] } s

/-- Puts an accepted command among those begun. -/
def rowBegun (a : Accepted) (s : State) : State :=
  let r := ringOf a.desc.queue s
  setRing a.desc.queue { r with begun := r.begun ++ [a] } s

/-- A row's command with its opcode, as accepted. -/
def rowAccepted (op : BitVec 16) (d : Descriptor) (s : State) : Accepted := ⟨{ d with opcode := op }, s.clock.now, s.cmds.orders⟩

/-- The command of a row (R251–R253); none is taken while 4,096 entries are held (R255). -/
def rowCommand (op : BitVec 16) (run : Accepted → State → State) (d : Descriptor) (s : State) : State :=
  if !fwActs s || 4096 ≤ s.cmds.held.length then s
  else
    let a := rowAccepted op d s
    let s1 := acceptRow d s
    match checks345 a.desc s with
    | some st => finish a { st := st } s1
    | none =>
      if (ringOf d.queue s).waiting != [] || !fenceMet a s then rowWaits a s1
      else beginWith run a (rowBegun a s1)

/-- DEVICE_INFO (R272). -/
def execDeviceInfo (d : Descriptor) (s : State) : Step := .next (rowCommand 0x0101 beginDeviceInfo d s)

/-- DEVICE_STANDBY (R270). -/
def execDeviceStandby (d : Descriptor) (s : State) : Step := .next (rowCommand 0x0102 beginStandby d s)

/-- DEVICE_WAKE, with what its steps find (R270). -/
def execDeviceWake (d : Descriptor) (w : WakeReport) (s : State) : Step := .next (rowCommand 0x0103 (wakeNow w) d s)

/-- DEVICE_RESET (R493). -/
def execDeviceReset (d : Descriptor) (s : State) : Step := .next (rowCommand 0x0104 beginReset d s)

/-- DEVICE_LIMIT (R271). -/
def execDeviceLimit (d : Descriptor) (s : State) : Step := .next (rowCommand 0x0105 beginLimit d s)

/-- DEVICE_WATCHDOG (R275). -/
def execDeviceWatchdog (d : Descriptor) (s : State) : Step := .next (rowCommand 0x0106 beginWatchdog d s)

/-- MEM_SET_MODE (R186). -/
def execMemSetMode (d : Descriptor) (s : State) : Step := .next (rowCommand 0x0201 beginSetMode d s)

/-- MEM_LEND (R196). -/
def execMemLend (d : Descriptor) (s : State) : Step := .next (rowCommand 0x0202 beginLend d s)

/-- MEM_LEND_LIMIT (R196). -/
def execMemLendLimit (d : Descriptor) (s : State) : Step := .next (rowCommand 0x0203 beginLendLimit d s)

/-- MEM_RECLAIM (R197). -/
def execMemReclaim (d : Descriptor) (s : State) : Step := .next (rowCommand 0x0204 beginReclaim d s)

/-- LOAD_BUNDLE (R144). -/
def execLoadBundle (d : Descriptor) (s : State) : Step := .next (rowCommand 0x0301 beginLoad d s)

/-- VERIFY_BUNDLE (R144). -/
def execVerifyBundle (d : Descriptor) (s : State) : Step := .next (rowCommand 0x0302 beginVerify d s)

/-- PLACE (R161). -/
def execPlace (d : Descriptor) (s : State) : Step := .next (rowCommand 0x0303 beginPlace d s)

/-- START (R165). -/
def execStart (d : Descriptor) (s : State) : Step := .next (rowCommand 0x0304 beginStart d s)

/-- PAUSE (R269). -/
def execPause (d : Descriptor) (s : State) : Step := .next (rowCommand 0x0305 beginPause d s)

/-- RESUME (R269). -/
def execResume (d : Descriptor) (s : State) : Step := .next (rowCommand 0x0306 beginResume d s)

/-- ABORT (R269). -/
def execAbort (d : Descriptor) (s : State) : Step := .next (rowCommand 0x0307 beginAbort d s)

/-- UNLOAD (R166). -/
def execUnload (d : Descriptor) (s : State) : Step := .next (rowCommand 0x0308 beginUnload d s)

/-- FAB_STATUS (R377). -/
def execFabStatus (d : Descriptor) (s : State) : Step := .next (rowCommand 0x0401 beginFabStatus d s)

/-- FAB_CONFIG (R376). -/
def execFabConfig (d : Descriptor) (s : State) : Step := .next (rowCommand 0x0402 beginFabConfig d s)

/-- FAB_LINK_CTRL (R362). -/
def execFabLinkCtrl (d : Descriptor) (s : State) : Step := .next (rowCommand 0x0403 beginLinkCtrl d s)

/-- COUNTERS_ENABLE (R463). -/
def execCountersEnable (d : Descriptor) (s : State) : Step := .next (rowCommand 0x0501 beginCountersEnable d s)

/-- COUNTERS_READ (R467). -/
def execCountersRead (d : Descriptor) (s : State) : Step := .next (rowCommand 0x0502 beginCountersRead d s)

/-- CAIRN_ARM (R468). -/
def execCairnArm (d : Descriptor) (s : State) : Step := .next (rowCommand 0x0503 beginCairnArm d s)

/-- CAIRN_TAKE (R468). -/
def execCairnTake (d : Descriptor) (s : State) : Step := .next (rowCommand 0x0504 beginCairnTake d s)

/-- CAIRN_READ (R476). -/
def execCairnRead (d : Descriptor) (s : State) : Step := .next (rowCommand 0x0505 beginCairnRead d s)

/-- FAULT_READ (R458). -/
def execFaultRead (d : Descriptor) (s : State) : Step := .next (rowCommand 0x0601 beginFaultRead d s)

/-- FAULT_CLEAR (R459). -/
def execFaultClear (d : Descriptor) (s : State) : Step := .next (rowCommand 0x0602 beginFaultClear d s)

/-- FAULT_FORCE (R460). -/
def execFaultForce (d : Descriptor) (s : State) : Step := .next (rowCommand 0x0603 beginForce d s)

/-- ACK_SLOWDOWN (R274). -/
def execAckSlowdown (d : Descriptor) (s : State) : Step := .next (rowCommand 0x0701 beginAck d s)

/-- ATTEST (R485). -/
def execAttest (d : Descriptor) (s : State) : Step := .next (rowCommand 0x0801 beginAttest d s)

/-- CLAIM_OWNER (R486). -/
def execClaimOwner (d : Descriptor) (s : State) : Step := .next (rowCommand 0x0802 beginClaimOwner d s)

/-- FW_UPDATE (R480). -/
def execFwUpdate (d : Descriptor) (s : State) : Step := .next (rowCommand 0x0803 beginFwUpdate d s)

/-! ## The firmware's doorbell (R235) -/

/-- Clears a bit of the firmware doorbell. -/
def fwBitDone (i : Nat) (s : State) : State :=
  { s with db := { s.db with fwStatus := s.db.fwStatus &&& ~~~ ((1 : BitVec 32) <<< i) } }

/-- What handling a bit does: HOST_EPOCH notes the epoch, GUEST drains the guest's channels, a channel is drained and its
announcement acted on, COMMAND_RING takes the ring configuration (R245, R250, R508). -/
def fwBitHandle (i : Nat) (s : State) : State :=
  let s1 := fwBitDone i s
  if i < 24 then takeAnnouncement i s1
  else if i = 24 then takeRings s1
  else if i = 25 then { s1 with db := { s1.db with epochSeen := s1.db.epoch } }
  else if i = 26 then (List.range 4).foldl (fun t g => fwDrain (.guest g) t) s1
  else s1

/-- The order in which bits are handled (R235). -/
def fwOrder : List Nat := [25, 26] ++ (List.range 12).map (· + 12) ++ List.range 12 ++ [24]

/-- FIRMWARE_DOORBELL_HANDLE: every bit that is set and not masked, in order (R235). -/
def execFirmwareDoorbellHandle (s : State) : Step :=
  if !fwActs s then .next s
  else .next (fwOrder.foldl (fun t i => if t.db.fwStatus.getLsbD i && !t.db.fwMask.getLsbD i then fwBitHandle i t else t) s)

/-! ## The watchdog (R275) -/

/-- The watch has run out on a silent host. -/
def watchOut (s : State) : Bool :=
  s.cmds.wdInterval != 0 && !s.cmds.wdFired && s.cmds.wdSince + s.cmds.wdInterval.toNat * 1000000 ≤ s.clock.now

/-- WATCHDOG_EXPIRY: one notice for a silent spell, Cairn's trigger 2, and with action 1 every running graph pauses
(R275, Table 17-9). -/
def execWatchdogExpiry (s : State) : Step :=
  if !fwActs s || !watchOut s then .next s
  else
    let c := s.cmds
    let s1 := notice 9 (c.wdInterval.setWidth 32) (BitVec.ofNat 64 (bit c.wdPause)) { s with cmds := { c with wdFired := true } }
    let s2 := cairnFire 2 0 s1
    .next (if c.wdPause then pauseAll s2 else s2)

end Sys2Proof.Machine
end

