-- ==== Sys2Proof/Machine/FlitRx.lean ====
section
/-!
DEFINITION. The receiving side of the fabric: acceptance in sequence, go back N, the group window, the landing buffer,
and what this package consumes (R343–R358, R363–R367).
-/

namespace Sys2Proof.Machine

/-! ## Acknowledgement and replay (R346–R349) -/

/-- A kept flit as it is sent again: the same LSEQ with the present LACK and PAUSE. -/
def againFlit (n : Nat) (f : Flit) (s : State) : Flit :=
  let l := linkGet n s
  let g := { f with lack := l.expect - 1, pause := pauseOut l,
                    lflags := BitVec.ofNat 8 (f.lflags.toNat % 16 + 16 * bit l.replayReq + f.lflags.toNat / 32 * 32) }
  { g with crc := flitCrc g }

/-- Sends one kept flit again. -/
def resend (n : Nat) (f : Flit) (s : State) : State :=
  let g := againFlit n f s
  let l := linkGet n s
  emit (.flit n g) (linkSet n { l with ackAt := s.clock.now, replayReq := false, stream := l.stream ++ flitBlocks g } s)

/-- Goes back N: every flit from LACK + 1 again in LSEQ order; the eighth replay in a row without progress asks for a
retrain (R348, R361). -/
def goBack (n : Nat) (s : State) : State :=
  let l := linkGet n s
  if l.replay = [] || !l.txActive then s
  else
    let s1 := linkSet n { l with replays := l.replays + 1, lackAt := s.clock.now } s
    let s2 := countLink n 4 l.replay.length (countLink n 3 1 (l.replay.foldl (fun t f => resend n f t) s1))
    if 8 ≤ l.replays + 1 then askRetrain n s2 else s2

/-- LACK from the far end: flits it covers leave the replay buffer (R346, R348). -/
def takeLack (n : Nat) (lack : BitVec 32) (s : State) : State :=
  let l := linkGet n s
  let kept := l.replay.filter fun f => above f.lseq lack
  if kept.length = l.replay.length then s
  else linkSet n { l with replay := kept, lackAt := s.clock.now, replays := 0 } s

/-- PAUSE from the far end, with the time that any bit of it was set (R350, R378). -/
def takePause (n : Nat) (p : BitVec 8) (s : State) : State :=
  let l := linkGet n s
  let s1 := linkSet n { l with pauseIn := p, pausedAt := if l.pauseIn = 0 then s.clock.now else l.pausedAt } s
  if l.pauseIn != 0 && p = 0 then countLink n 8 ((s.clock.now - l.pausedAt) / 64) s1 else s1

/-- A gap in the sequence: REPLAY_REQ goes with an IDLE_ACK at once, once for each gap, and again only after a replay
timer without an in-order flit (R347). -/
def noteGap (n : Nat) (s : State) : State :=
  let l := linkGet n s
  let due := match l.gapAt with
    | none => true
    | some t => decide (t + 1000 * replayTimer n s ≤ s.clock.now)
  if !due then s
  else
    let s1 := linkSet n { l with gapAt := some s.clock.now, replayReq := true } s
    if l.txActive then sendIdleAck n s1 else s1

/-- IDLE_ACK_TIMER (R347). -/
def execIdleAckTimer (link : Nat) (s : State) : Step :=
  let l := linkGet link s
  if link < 32 && l.txActive && !l.txSleep && l.ackAt + 64 ≤ s.clock.now then .next (sendIdleAck link s) else .next s

/-- REPLAY_TIMER (R348). -/
def execReplayTimer (link : Nat) (s : State) : Step :=
  if link < 32 && (linkGet link s).lackAt + 1000 * replayTimer link s ≤ s.clock.now then .next (goBack link s) else .next s

/-! ## What this package consumes (R344, R352, R367) -/

/-- A flit for this package, from a link of a flank and a group. -/
def consume (f : Flit) (fl : Flank) (g : Nat) (s : State) : State :=
  let src := f.src.toNat % 2 ^ 20
  let bad := f.lflags.getLsbD 5
  let p := f.payload
  let s1 := match f.type.toNat with
    | 0x10 => peerRead src f.tag (field p 0 8) (field p 8 2) [] s
    | 0x11 => peerWrite src f.tag (field p 0 8) ((p.drop 16).take (min 192 (field p 8 2))) bad s
    | 0x12 => takeSend src (field p 0 4) (field p 4 8) ((p.take f.len.toNat).drop 16) bad s
    | 0x18 => responseArrives f.tag (field p 0 1) ((p.take f.len.toNat).drop 16) bad s
    | 0x19 => responseArrives f.tag (field p 0 1) [] bad s
    | 0x1A => creditArrives src (field p 0 1) (bitOf (field p 1 1) 0) (BitVec.ofNat 32 (field p 4 4)) s
    | 0x1B => closeAcked src (field p 0 1) (BitVec.ofNat 32 (field p 4 4)) s
    | 0x1C => sysRespArrives f.tag (field p 0 1) (some (field p 1 1, field p 2 8)) s
    | 0x20 => collContrib fl g (collOf f) s
    | 0x21 => collResult (collOf f) s
    | 0x30 => sysArrives src f.tag (sysOf p) s
    | 0x31 => creditReq src (field p 0 1) f.tag s
    | _ => s
  if credited (flitVc f % 4) then consumed src (flitVc f % 4) s1 else s1

/-- The answer of a router to a flit for a package that does not exist (R363). -/
def answerLost (f : Flit) (s : State) : State :=
  let src := f.src.toNat % 2 ^ 20
  match f.type.toNat with
  | 0x10 => respond 0x18 src f.tag .badArgument false [] s
  | 0x11 => respond 0x19 src f.tag .badArgument false [] s
  | 0x12 => respond 0x19 src f.tag .badArgument false [] s
  | 0x30 => respond 0x1C src f.tag .badArgument false [] s
  | 0x31 => respond 0x1C src f.tag .badArgument false [] s
  | _ => s

/-! ## Landing and routing (R350, R351, R356, R370) -/

/-- What the router does with a flit that a group window delivers: none where its output queue is full. -/
def routeIn (n : Nat) (f : Flit) (s : State) : Option State :=
  if f.type = 0x20 && f.dst.toNat % 2 ^ 20 != s.fab.id && collTakes (linkFlank n) (collOf f) (4 ≤ flitVc f) s then
    some (collContrib (linkFlank n) (linkGroup n) (collOf f) s)
  else match routeFlit (some (linkGroup n)) f s with
    | .here h => some (consume h (linkFlank n) (linkGroup n) s)
    | .gone t => some (countLink n 2 1 t)
    | .full => none
    | .refused t => some (answerLost f t)

/-- Routes what has landed on a link, in order within each VC; a VC whose queue is full waits without stopping another. -/
def landOut (n : Nat) : List Flit → List Nat → State → List Flit × State
  | [], _, s => ([], s)
  | f :: t, stuck, s =>
    if stuck.contains (flitVc f) then
      let r := landOut n t stuck s
      (f :: r.1, r.2)
    else match routeIn n f s with
      | some s1 => landOut n t stuck s1
      | none =>
        let r := landOut n t (flitVc f :: stuck) s
        (f :: r.1, r.2)

/-- Empties the landing buffer of a link as far as the output queues allow. -/
def landPump (n : Nat) (s : State) : State :=
  let l := linkGet n s
  if l.landing = [] then s
  else
    let r := landOut n l.landing [] (linkSet n { l with landing := [] } s)
    let k := linkGet n r.2
    linkSet n { k with landing := r.1 ++ k.landing } r.2

/-- Moves what can move: output queues, landing buffers, and what waits for credit or room. -/
def fabricPump (s : State) : State :=
  let s1 := (List.range 12).foldl (fun t g => groupPump g t) s
  fabricRetry ((List.range 32).foldl (fun t n => landPump n t) s1)

/-- Lands a flit. -/
def land (n : Nat) (f : Flit) (s : State) : State :=
  let l := linkGet n s
  linkSet n { l with landing := l.landing ++ [f] } s

/-- Delivers the flits that a group window holds next in order. -/
def windowDrain (g n : Nat) : Nat → State → State
  | 0, s => s
  | k + 1, s =>
    let next := tget 0 s.fab.gnext g
    let held := tget [] s.fab.window g
    match held.find? fun f => f.gseq.toNat = next with
    | none => s
    | some f =>
      windowDrain g n k (land n f { s with fab := { s.fab with
        gnext := tset 0 s.fab.gnext g ((next + 1) % 2 ^ 32)
        window := tset [] s.fab.window g (held.filter fun h => h.gseq != f.gseq) } })

/-- A routed flit at its group window of 32,768 GSEQ: a copy already delivered or held, or one below the window, is a
duplicate (R356). -/
def windowTake (n : Nat) (f : Flit) (s : State) : State :=
  let g := linkGroup n
  let next := tget 0 s.fab.gnext g
  let held := tget [] s.fab.window g
  if (f.gseq.toNat + 2 ^ 32 - next) % 2 ^ 32 < 32768 && !(held.any fun h => h.gseq = f.gseq) then
    windowDrain g n (held.length + 1)
      { s with fab := { s.fab with window := tset [] s.fab.window g (held ++ [f]) } }
  else countLink n 7 1 s

/-! ## FLIT_RECEIVE (R343–R350, R356) -/

/-- A WIDTH_REQ or WIDTH_ACK as its payload spells it (Table 13-3). -/
def widthOfFlit (f : Flit) : WidthMsg :=
  ⟨codeWidth (field f.payload 0 1), bitsSet (field f.payload 4 4) 18, BitVec.ofNat 48 (field f.payload 8 6)⟩

/-- A sequenced flit that is the next expected. -/
def acceptFlit (n : Nat) (f : Flit) (s : State) : State :=
  let l := linkGet n s
  let s1 := countLink n 1 1 (linkSet n { l with expect := l.expect + 1, gapAt := none } s)
  if f.type = 0x01 then widthAsked n (widthOfFlit f) s1
  else if f.type = 0x02 then widthAnswered n (widthOfFlit f) s1
  else if !flitKnown f then fabCount 1 s1
  else
    let (h, s2) := forcedFlit ((List.range 18).map (0x7000 + rxi n ·)) f s1
    windowTake n h s2

/-- What a flit with a good FLIT_CRC tells the link end before it is accepted or not: LACK, PAUSE, REPLAY_REQ. -/
def takeLinkFields (n : Nat) (f : Flit) (s : State) : State :=
  let s1 := takePause n f.pause (takeLack n f.lack s)
  if f.lflags.getLsbD 4 then goBack n s1 else s1

/-- A flit arrives on a link (R343, R346, R347). TIME_SYNC's fields come with the row TIME_SYNC (log 42). -/
def flitArrives (n : Nat) (f : Flit) (s : State) : State :=
  if f.crc != flitCrc f then noteGap n (countLink n 5 1 s)
  else
    let s1 := takeLinkFields n f s
    if flitUnsequenced f then fabricPump s1
    else
      let e := (linkGet n s1).expect
      if f.lseq = e then fabricPump (acceptFlit n f s1)
      else if above f.lseq e then fabricPump (noteGap n s1)
      else fabricPump s1

/-- FLIT_RECEIVE (R346). -/
def execFlitReceive (link : Nat) (f : Flit) (s : State) : Step :=
  if link < 32 && (linkGet link s).rxActive then .next (flitArrives link f s) else .next s

end Sys2Proof.Machine
end

