-- ==== Sys2Proof/Machine/Guest.lean ====
section
/-!
DEFINITION. The guest's requests and the guest firewall (R402–R407).
-/

namespace Sys2Proof.Machine

/-- Whether a request is a write (Table 14-7). -/
def guestWrites (r : GuestReq) : Bool := r.opcode = 0x02

/-- Whether a guest address is in Col register space (R175, R402). -/
def guestReg (a : Nat) : Bool := regBase ≤ a

/-- Whether a header is well formed: opcode of its row, LEN 1 to 8, zero fields zero, ADDRESS aligned, BYTE_MASK all ones
for more than one flit (Table 14-7). -/
def guestWellFormed (op : Nat) (r : GuestReq) : Bool :=
  r.opcode.toNat = op && 1 ≤ r.len.toNat && r.len.toNat ≤ 8 && r.zero &&
    r.addr.toNat % (if guestReg r.addr.toNat then 8 else 32) = 0 && (r.len = 1 || r.mask = 0xFFFFFFFF)

/-- The 8-byte word of the flit that BYTE_MASK names, where it names exactly one (R402). -/
def maskWord (m : BitVec 32) : Option Nat := firstIdx (fun k => m.toNat = 255 * 256 ^ k) 4

/-- The register of a register access; none where its form is not the one R402 asks. -/
def guestRegAt (r : GuestReq) : Option Nat :=
  if r.len = 1 then (maskWord r.mask).map fun k => r.addr.toNat + 8 * k - regBase else none

/-- First address and size of what a request touches. -/
def guestSpan (r : GuestReq) : Nat × Nat :=
  if guestReg r.addr.toNat then (regBase + (guestRegAt r).getD 0, 8) else (r.addr.toNat, 32 * r.len.toNat)

/-- Whether a register is always open to the guest (R404). -/
def guestOpen (r : GuestReq) : Bool := guestReg r.addr.toNat && (guestRegAt r).any guestOnly

/-- Whether a register's fields are all WO or W1S (R404). -/
def doorbellReg (off : Nat) : Bool := off = 0x20010 || off = 0x20100 || off = 0x40008 || off = 0xB0000

/-- Whether one window's permission allows a request (R404, Table 14-13). -/
def windowAllows (r : GuestReq) (p : Nat) : Bool :=
  if 4 ≤ p then guestWrites r && guestReg r.addr.toNat && (guestRegAt r).any doorbellReg
  else if guestWrites r then bitOf p 1 else bitOf p 0

/-- Whether a register is a blocked target (R404, Table 20-1). -/
def regBlocked (off : Nat) : Bool :=
  regSecure off || [1, 2, 8, 10, 11, 12].contains (regBlock off) || off = 0x40008

/-- Whether a request touches a blocked target (R404). -/
def guestBlocked (r : GuestReq) : Bool :=
  let (a, n) := guestSpan r
  if guestReg r.addr.toNat then regBlocked (regOff a) else a < 0xF000000000 && 0xE000000000 < a + n

/-- The reason a well-formed request is a violation: 1 no window, 2 permission, 3 blocked target (R404, Table 14-12). -/
def firewall (r : GuestReq) (s : State) : Option Nat :=
  if guestOpen r then none
  else
    let (a, n) := guestSpan r
    match guestWindows a n s with
    | [] => some 1
    | ps => if !ps.any (windowAllows r) then some 2 else if guestBlocked r then some 3 else none

/-- Sends the response of a request: a READ_RESP carries the bytes that BYTE_MASK enables and P of each data flit. -/
def guestAnswer (r : GuestReq) (st : Status) (data : List Byte) (poison : List Bool) (s : State) : State :=
  emit (.guest (r.opcode ||| 0x80) r.tag st data poison) s

/-- The response of a request that is not served: a read's data flits are poisoned (R405). -/
def guestTurned (r : GuestReq) (st : Status) (s : State) : State :=
  guestAnswer r st [] (if guestWrites r then [] else List.replicate r.len.toNat true) s

/-- A refused request: answered DENIED, logged and counted; the guest is fenced, or a class C fault recorded (R405, R406). -/
def violation (r : GuestReq) (reason : Nat) (s : State) : State :=
  let g := s.guest
  let s1 := guestTurned r .denied { s with guest := { g with
    violations := min (2 ^ 32 - 1) (g.violations + 1), violAddr := r.addr.toNat,
    violInfo := r.opcode.toNat + r.tag.toNat * 2 ^ 8 + reason * 2 ^ 16 } }
  if g.fenceOn then fenceGuest s1 else faultCOpen 0xC000 s1

/-- Whether the guest's requests arrive: its group is up and it is neither in reset nor fenced (R400, R406). -/
def guestUp (s : State) : Bool :=
  s.part.guest.isSome && s.pins.gstRstN && !s.guest.fenced && guestGroupUp s

/-! ## Serving -/

/-- Stores one byte at a local memory address. -/
def pokeByte (a : Nat) (b : Byte) (s : State) : State := match place a s with
  | .dram x => dramPut x b s
  | .cm e off => cmPut (cmKey (physOf e s) off) b s
  | .ls e c off => lsPut (lsKey (physOf e s) c off) b s
  | _ => s

/-- Marks the 8-byte granule at a local memory address clean or poisoned. -/
def markGranule (a : Nat) (bad : Bool) (s : State) : State := match place a s with
  | .dram x => if bad then dramTaint x 8 s else dramClean x 8 s
  | .cm e off =>
    let k := cmKey (physOf e s) off / 8
    { s with mem := { s.mem with cmPoison := if bad then radd k (k + 1) s.mem.cmPoison else rsub k (k + 1) s.mem.cmPoison } }
  | .ls e c off =>
    let k := lsKey (physOf e s) c off / 8
    { s with mem := { s.mem with lsPoison := if bad then radd k (k + 1) s.mem.lsPoison else rsub k (k + 1) s.mem.lsPoison } }
  | _ => s

/-- BYTE_MASK's bit of byte `i` of a request. -/
def enabledAt (r : GuestReq) (i : Nat) : Bool := r.len != 1 || r.mask.getLsbD i

/-- Stores the enabled bytes of a write from its first byte `i` on. -/
def guestPokes (r : GuestReq) : Nat → List Byte → State → State
  | _, [], s => s
  | i, b :: t, s => guestPokes r (i + 1) t (if enabledAt r i then pokeByte (r.addr.toNat + i) b s else s)

/-- What a write leaves of a granule's poison: poisoned by a poisoned flit, clean when written whole, else as it was. -/
def guestMark (r : GuestReq) (bad : BitVec 8) (g : Nat) (s : State) : State :=
  let on := (List.range 8).map fun i => enabledAt r (8 * g + i)
  if bad.getLsbD (g / 4) && on.any id then markGranule (r.addr.toNat + 8 * g) true s
  else if on.all id then markGranule (r.addr.toNat + 8 * g) false s else s

/-- Stores a write's data in memory; a stack counts the lines written (R201). -/
def guestStore (r : GuestReq) (data : List Byte) (bad : BitVec 8) (s : State) : State :=
  let a := r.addr.toNat
  let s0 := if a < topOfDram s then claimLines a data.length s else s
  let s1 := (List.range (data.length / 8)).foldl (fun t g => guestMark r bad g t) (guestPokes r 0 data s0)
  if a < topOfDram s then (spanLines a data.length).foldl (fun t l => countStack (stackOf l t).1 1 1 t) s1 else s1

/-- A read of a register by the guest; a lock is acquired by its read (R240, R243). -/
def guestRegRead (off : Nat) (s : State) : BitVec 64 × State :=
  let r := regIn off
  if regBlock off = 3 && r < 0x200 && r % 8 = 0 then lockRead .guest (r / 8) s
  else if regBlock off = 3 && r < 0x400 && r % 8 = 0 then (lockPeek .guest (r % 0x200 / 8) s, s)
  else (BitVec.ofNat 64 (regValue off false s), s)

/-- Serves an admitted read. -/
def guestServeRead (r : GuestReq) (found : List (Nat × BadSymbols)) (s : State) : State :=
  let a := r.addr.toNat
  let n := 32 * r.len.toNat
  if guestReg a then
    let off := (guestRegAt r).getD 0
    if 0xD0000 ≤ off then guestTurned r .badArgument s
    else
      let (v, s1) := guestRegRead off s
      guestAnswer r .ok (leBytes 8 v.toNat) [false] s1
  else match bulkCheck a n false s with
    | some st => guestTurned r st s
    | none =>
      let s0 := if a < topOfDram s then readLines a n .guest found s else s
      let (forced, s1) := if a < topOfDram s then forcedLines a n s0 else ([], s0)
      let cells := (List.range n).map fun i => peekByte (a + i) s1
      let bad := (List.range r.len.toNat).map fun k =>
        ((cells.drop (32 * k)).take 32).any (·.2) || forced.contains ((a + 32 * k) / 64 * 64)
      let data := ((List.range n).filter fun i => enabledAt r i).map fun i => (cells.getD i (0, false)).1
      guestAnswer r .ok data bad s1

/-- Whether a forced class D event has told the guest to poison the next data it delivers; if so its first data flit is
poisoned (R460). -/
def guestForced (bad : BitVec 8) (s : State) : BitVec 8 × State :=
  if forcedD 0xC000 0 s then (bad ||| 1, forcedDone 0xC000 0 s) else (bad, s)

/-- Serves an admitted write. A poisoned word written to a register has no stated value (log 55). -/
def guestServeWrite (r : GuestReq) (data : List Byte) (bad : BitVec 8) (s : State) : State :=
  let a := r.addr.toNat
  if guestReg a then
    let off := (guestRegAt r).getD 0
    if 0xD0000 ≤ off then guestTurned r .badArgument s
    else
      let w := BitVec.ofNat 64 (field data ((maskWord r.mask).getD 0 * 8) 8)
      let (v, s1) := if bad.getLsbD 0 then (Config.free64 s.free, { s with free := s.free + 1 }) else (w, s)
      let (st, s2) := regWriteAt off v .guest false s1
      guestAnswer r st [] [] s2
  else match bulkCheck a (32 * r.len.toNat) true s with
    | some st => guestTurned r st s
    | none => guestAnswer r .ok [] [] (guestStore r data bad s)

/-- GUEST_READ: a READ is checked by the firewall and served or refused (R402–R406); the row names the lines of DRAM that the
decoder finds bad (R188). -/
def execGuestRead (x : GuestRead) (s : State) : Step :=
  let r := x.req
  if !guestUp s then .next s
  else if !guestWellFormed 1 r then .next (violation r 4 s)
  else if guestReg r.addr.toNat && (guestRegAt r).isNone then .next (guestTurned r .badArgument s)
  else match firewall r s with
    | some reason => .next (violation r reason s)
    | none => .next (guestServeRead r x.bad s)

/-- GUEST_WRITE: a WRITE with its data flits, `bad` their P bits (R402–R406). -/
def execGuestWrite (r : GuestReq) (data : List Byte) (bad : BitVec 8) (s : State) : Step :=
  if !guestUp s then .next s
  else
    let (p, s1) := guestForced bad s
    if !guestWellFormed 2 r || data.length != 32 * r.len.toNat then .next (violation r 4 s1)
    else if guestReg r.addr.toNat && (guestRegAt r).isNone then .next (guestTurned r .badArgument s1)
    else match firewall r s1 with
      | some reason => .next (violation r reason s1)
      | none => .next (guestServeWrite r data p s1)

end Sys2Proof.Machine
end

