-- ==== Sys2Proof/Machine/LaneRx.lean ====
section
/-!
DEFINITION. Reception of codewords: alignment, decoding, lane blocks, and the merging of the lanes into flits
(R314–R338, R345). A row gives one codeword of a locked channel and how many slots after the channel's last one it comes;
rows come in slot order across the lanes of a direction (log 56).
-/

namespace Sys2Proof.Machine

/-! ## Lane blocks (R319) -/

/-- The end of a check as CHECK_RESULT names it: an outcome of that code. -/
def codeCheck (c : Nat) : LaneCheck :=
  if c = 0 then ⟨0, 1, false, false⟩ else if c = 1 then ⟨24, 100000, false, false⟩
  else if c = 2 then ⟨0, 1, true, false⟩ else ⟨1, 1, false, false⟩

/-- LANE_MOVE told ahead of its slot: kept until the slot, the last word for a lane standing (R297, R298). -/
def moveTold (n lane a b slot at_ : Nat) (s : State) : State :=
  let l := linkGet n s
  if 18 ≤ lane || 18 ≤ a || 18 ≤ b || a = b || slot < at_ || (chanSide (rxi n a) s).lane != some lane then s
  else linkSet n { l with rxMoves := (lane, b, slot) :: l.rxMoves.filter fun m => m.1 != lane } s

/-- SLEEP told ahead of its slot (R334). -/
def sleepTold (n slot : Nat) (s : State) : State :=
  let l := linkGet n s
  if l.rxSleep then s else linkSet n { l with rxSleepAt := some slot, rxWakeAt := none } s

/-- WAKE told ahead of its slot (R335). -/
def wakeTold (n slot : Nat) (s : State) : State :=
  let l := linkGet n s
  if l.rxSleepAt.isSome then linkSet n { l with rxWakeAt := some slot } s else s

/-- What one block of a filler codeword, received in a slot on a channel, does (Table 12-3). A reserved type is discarded
and marked in the checker word. A control port never sleeps and has no lane to move or check (R202). -/
def laneBlock (n k slot : Nat) (p : List Byte) (s : State) : State :=
  let ty := field p 0 1
  let c := chanSide (rxi n k) s
  let b2 := field p 2 1
  if ty = 0x01 then
    setChan (rxi n k) { c with checker := { c.checker with inject := (field p 7 1 % 2, c.checker.inject.2) } } s
  else if 32 ≤ n && [0x04, 0x05, 0x06, 0x10, 0x11, 0x12, 0x13, 0x14, 0x15].contains ty then s
  else if ty = 0x04 then sleepTold n (field p 1 6) s
  else if ty = 0x05 then wakeTold n (field p 1 6) s
  else if ty = 0x06 then beaconSeen n k (field p 1 6) s
  else if ty = 0x07 then retrainSeen n true s
  else if ty = 0x10 then moveTold n (field p 1 1) b2 (field p 3 1) (field p 4 6) slot s
  else if ty = 0x11 then
    (match (linkGet n s).moves.find? fun m => m.lane = field p 1 1 && m.slot = field p 4 6 with
      | some m => moveAcked n m s
      | none => s)
  else if ty = 0x12 then (if b2 < 18 && linkUp n s then retireChan n b2 (bitOf (field p 3 1) 0) s else s)
  else if ty = 0x13 then (if b2 < 18 then checkStarts n b2 s else s)
  else if ty = 0x14 then
    (if b2 < 18 then checkReports n ⟨b2, [field p 4 4, field p 8 4, field p 12 4], [field p 16 2, field p 18 2, field p 20 2],
      toSigned 8 (field p 22 1), toSigned 8 (field p 23 1)⟩ s else s)
  else if ty = 0x15 then
    (if b2 < 18 && (chanSide (txi n b2) s).state = .check then checkEnds (txi n b2) (codeCheck (field p 3 1)) s else s)
  else if ty = 0x20 then testStarts (rxi n k) (field p 1 1) s
  else if ty = 0x21 then testEnds (rxi n k) s
  else setChan (rxi n k) { c with checker := { c.checker with reserved := true } } s

/-- Whether a control block belongs to the link stream (Table 12-3). -/
def streamType (p : List Byte) : Bool := [0x00, 0x02, 0x03].contains (field p 0 1)

/-- Whether ten blocks make a filler codeword: ten lane control blocks (R322). -/
def isFiller (bs : List Block) : Bool := bs.all fun b => b.1 && !streamType b.2

/-! ## The stream (R283, R317, R320, R345) -/

/-- A flit of eight data blocks; one with an error mark or a bad FLIT_CRC fails its check (R317, R343). -/
def flitOf (bs : List (Bool × List Byte)) : Flit :=
  let p := bs.flatMap (·.2)
  let f : Flit := {
    lseq := BitVec.ofNat 32 (field p 0 4), lack := BitVec.ofNat 32 (field p 4 4), gseq := BitVec.ofNat 32 (field p 8 4)
    type := BitVec.ofNat 8 (field p 12 1), lflags := BitVec.ofNat 8 (field p 13 1), detours := BitVec.ofNat 8 (field p 14 1)
    pause := BitVec.ofNat 8 (field p 15 1), dst := BitVec.ofNat 32 (field p 16 4), src := BitVec.ofNat 32 (field p 20 4)
    tag := BitVec.ofNat 32 (field p 24 4), len := BitVec.ofNat 16 (field p 28 2), payload := (p.drop 32).take 220, crc := 0 }
  let good := !bs.any (·.1) && crc32With 0xEDB88320 (p.take 252) = BitVec.ofNat 32 (field p 252 4)
  { f with crc := if good then flitCrc f else flitCrc f + 1 }

/-- Takes one element of the link stream: eight data blocks in a row are a flit; a control block ends a part of one. -/
def streamTake (n : Nat) (b : Bool × Bool × List Byte) (s : State) : State :=
  let l := linkGet n s
  if 32 ≤ n then portTake n b s
  else if b.1 then linkSet n { l with rxBlocks := [] } s
  else
    let all := l.rxBlocks ++ [b.2]
    if all.length < 8 then linkSet n { l with rxBlocks := all } s
    else flitArrives n (flitOf all) (linkSet n { l with rxBlocks := [] } s)

/-- Merges the lanes: block j of the stream comes from lane j mod w (R283). -/
def mergeLanes (n : Nat) : Nat → State → State
  | 0, s => s
  | k + 1, s =>
    let l := linkGet n s
    let w := widthOf n s
    let lane := l.rxStripe % w
    match tget [] l.rxLanes lane with
    | [] => s
    | b :: t =>
      if !l.rxActive then s
      else mergeLanes n k (streamTake n b
        (linkSet n { l with rxLanes := tset [] l.rxLanes lane t, rxStripe := (lane + 1) % w } s))

/-- Blocks held of a direction's lanes. -/
def heldBlocks (n : Nat) (s : State) : Nat := ((linkGet n s).rxLanes.map fun e => e.2.length).sum

/-- Codewords of a lane that never came, between the last slot taken and this one: each that was no scheduled filler counts
as ten blocks with an error mark (R298, log 56). -/
def missing (last : Option Nat) (slot : Nat) : Nat := match last with
  | none => 0
  | some x => ((List.range (slot - x - 1)).filter fun i => (x + 1 + i) % 2048 != 2047).length

/-- A stream codeword's blocks join their lane and the lanes are merged. -/
def laneTake (n lane slot : Nat) (bs : List (Bool × Bool × List Byte)) (s : State) : State :=
  let l := linkGet n s
  let lost := List.replicate (10 * missing (tget none l.rxLaneAt lane) slot) (false, true, zeros 32)
  let s1 := linkSet n { l with
    rxLanes := tset [] l.rxLanes lane (tget [] l.rxLanes lane ++ lost ++ bs)
    rxLaneAt := tset none l.rxLaneAt lane (some slot) } s
  mergeLanes n (heldBlocks n s1) s1

/-- Notes the slot of a lane whose codeword was a filler, with what was lost before it. -/
def laneFiller (n lane slot : Nat) (s : State) : State := laneTake n lane slot [] s

/-! ## CODEWORD_RECEIVE -/

/-- Line bits of the data symbols. -/
def dataBits (w : List Nat) : List Bool := symsBits (w.take 258)

/-- Whether a codeword is bad: a header invalid before FEC (R326). -/
def badCw (bits : List Bool) : Bool := (List.range 10).any fun b => (headerOf bits b).isNone

/-- The blocks of an uncorrectable codeword as they are delivered: data blocks with an error mark; a control block's place
in the stream stays empty, as an IDLE block leaves it (R317). -/
def errorBlocks (bits : List Bool) : List (Bool × Bool × List Byte) :=
  (List.range 10).map fun b => ((headerOf bits b).getD false, true, zeros 32)

/-- Lane moves whose slot has come (R297). -/
def movesDue (n slot : Nat) (s : State) : State :=
  ((linkGet n s).rxMoves.filter fun m => m.2.2 ≤ slot).foldl (fun t m =>
    match laneRx n m.1 t with
    | some a => laneMoves n m.1 a m.2.1 m.2.2 t
    | none => t) s

/-- The direction falls asleep or wakes at the slots it was told (R334, R335). -/
def sleepDue (n slot : Nat) (s : State) : State :=
  let l := linkGet n s
  match l.rxSleepAt with
  | none => s
  | some a =>
    match l.rxWakeAt with
    | some w =>
      if w ≤ slot then linkSet n { l with rxSleep := false, rxSleepAt := none, rxWakeAt := none, rxLaneAt := [] } s
      else if a ≤ slot then linkSet n { l with rxSleep := true } s else s
    | none => if a ≤ slot then linkSet n { l with rxSleep := true } s else s

/-- A codeword of a lane test or of a run of test codewords (R337): data blocks go to the checker. -/
def testTakes (i : Nat) (bits : List Bool) (s : State) : State :=
  let c := chanSide i s
  setChan i { c with checker := checkerTakes (rawPayload bits) c.checker } s

/-- Whether ten blocks are data blocks. -/
def allData (bits : List Bool) : Bool := (List.range 10).all fun b => headerOf bits b = some false

/-- A corrected codeword of an ACTIVE direction, or of a lane test. -/
def cwTaken (n k slot : Nat) (bits : List Bool) (s : State) : State :=
  let c := chanSide (rxi n k) s
  if allData bits && c.checker.pattern.isSome then testTakes (rxi n k) bits s
  else match bitsBlocks bits (scrSlot slot) with
    | none => s
    | some bs =>
      let data := c.lane.any fun x => x < widthOf n s && (c.state = .data || c.state = .moving)
      if isFiller bs then
        let s1 := bs.foldl (fun t b => laneBlock n k slot b.2 t) s
        match c.lane with
        | some x => if data && (linkGet n s1).rxActive then laneFiller n x slot s1 else s1
        | none => s1
      else match c.lane with
        | some x => if data then laneTake n x slot (bs.map fun b => (b.1, false, b.2)) s else s
        | none => s

/-- An uncorrectable codeword: a data lane's data blocks are delivered with an error mark (R317). -/
def cwLost (n k slot : Nat) (bits : List Bool) (s : State) : State :=
  let c := chanSide (rxi n k) s
  match c.lane with
  | some x =>
    if (linkGet n s).rxActive && x < widthOf n s && (c.state = .data || c.state = .moving) then
      laneTake n x slot (errorBlocks bits) s
    else s
  | none => s

/-- A training codeword on a channel: its SLOT is taken; with training codewords in place of the stream on 8 channels the
end returns to SEND (R329, R330, R333). -/
def cwTraining (n k : Nat) (t : TrainWords) (s : State) : State :=
  let l := linkGet n s
  let c := chanSide (rxi n k) s
  let s1 := setChan (rxi n k) { c with heard := (t.slot, l.slot), training := true } s
  if l.rxActive && l.st = .active && trainNeed n ≤ ((linkChans n).filter fun j => (chanSide (rxi n j) s1).training).length then
    retrainSeen n false s1
  else s1

/-- A codeword after alignment: decoded, and taken by what the direction does (R316, R317, R329). -/
def cwDecoded (n k gap : Nat) (w : List Nat) (s : State) : State :=
  let c := chanSide (rxi n k) s
  let l := linkGet n s
  let slot := (c.heard.1 + gap) % 2 ^ 48
  let (bits, fixed) := match rsDecode w with
    | some (v, x) => (if badCw (dataBits v) then none else some (dataBits v), x)
    | none => (none, 0)
  match bits.bind fun b => (bitsBlocks b plain).bind readTraining with
  | some t => cwTraining n k t s
  | none =>
    let s1 := setChan (rxi n k) { c with
        heard := (slot, l.slot), training := false
        counted := (c.counted.1 + 1, c.counted.2.1 + fixed, c.counted.2.2 + bit bits.isNone) }
      (linkSet n { l with rxSlot := max l.rxSlot slot } s)
    let s2 := if l.rxActive then movesDue n slot (sleepDue n slot s1) else s1
    if !l.rxActive && l.test.isNone then s2
    else match bits with
      | some b => cwTaken n k slot b s2
      | none => cwLost n k slot (dataBits w) s2

/-- CODEWORD_RECEIVE: one codeword of a locked receive channel, `gap` slots after its last; 16 bad ones of the last 64 lose
the lock, save while the direction sleeps (R314–R329, R334). -/
def execCodewordReceive (inst gap : Nat) (w : List (BitVec 10)) (s : State) : Step :=
  let n := instLink inst
  let k := instCh inst
  let c := chanSide inst s
  if 1156 ≤ inst || !instRx inst || !c.locked || w.length != 272 then .next s
  else
    let v := w.map fun x => if c.inverted then (x ^^^ 0x2AA).toNat else x.toNat
    let bad := (badCw (dataBits v) :: c.bad).take 64
    let s1 := setChan inst { c with bad := bad } s
    if 16 ≤ (bad.filter id).length && !(linkGet n s).rxSleep then .next (lockLost inst s1)
    else .next (cwDecoded n k gap v s1)

end Sys2Proof.Machine
end

