-- ==== Sys2Proof/Machine/TimeSync.lean ====
section
/-!
DEFINITION. The time discipline of the fabric and the timebase (R373–R375, R408, R409).
-/

namespace Sys2Proof.Machine

/-- The candidate this package offers for itself: none at priority 255 (R373). -/
def ownCandidate (s : State) : Option (Nat × Nat) :=
  if s.clock.priority < 255 then some (s.clock.priority, s.fab.id) else none

/-- Whether a candidate is better than another: the lower pair (R373). -/
def candLess (a b : Nat × Nat) : Bool := a.1 < b.1 || (a.1 = b.1 && a.2 < b.2)

/-- The best candidate this package knows, with its hops: its parent's, or its own. -/
def bestCandidate (s : State) : Option (Nat × Nat) := match s.clock.parent with
  | some _ => some (s.clock.masterPriority, s.clock.master)
  | none => ownCandidate s

/-- Payload of TIME_SYNC on a link: the candidate, its hops, the timebase, and the send and receive stamps of the last
TIME_SYNC received on it (R373, log 42). -/
def timeBytes (n : Nat) (s : State) : List Byte :=
  let c := (bestCandidate s).getD (255, 0)
  let st := tget (0, 0) s.clock.stamps n
  leBytes 1 c.1 ++ leBytes 3 c.2 ++ leBytes 1 (if s.clock.parent.isSome then s.clock.hops else 0) ++ zeros 3 ++
    leBytes 8 s.clock.now ++ leBytes 8 st.1 ++ leBytes 8 st.2

/-- A package whose own candidate is the best it knows is the master (R373). -/
def becomeMaster (s : State) : State :=
  match s.clock.parent, ownCandidate s with
  | none, some c => { s with clock := { s.clock with state := 3, master := c.2, masterPriority := c.1, hops := 0, slew := 0, offset := 0 } }
  | _, _ => s

/-- TIME_SYNC_SEND: once per 1 ms on every link in service (R373). -/
def execTimeSyncSend (s : State) : Step :=
  if s.clock.now < s.clock.sentAt + 1000000 then .next s
  else
    let s1 := becomeMaster { s with clock := { s.clock with sentAt := s.clock.now } }
    .next (((List.range 32).filter fun n => linkUp n s1).foldl (fun t n =>
      placeFlit n (mkFlit 0x03 0 0 t.fab.id 0 false (timeBytes n t)) t) s1)

/-- Offset of the parent's timebase to this one by the two-way exchange, in 0.1 ns; none before the first whole exchange
(R374). -/
def offsetOf (m : TimeMsg) : Option Int :=
  if m.echoSent = 0 && m.echoReceived = 0 then none
  else some (5 * (((m.echoReceived : Int) - m.echoSent) + ((m.sent : Int) - m.received)))

/-- Disciplines the timebase to the parent: at the first lock one step forward where the parent is ahead, after that only
by slewing; an offset above 10 µs after the first lock is a class C fault (R375). -/
def discipline (off : Int) (s : State) : State :=
  let c := s.clock
  if !c.locked then
    if 0 < off then
      { s with clock := { c with now := c.now + (off / 10).toNat, offset := off % 10, slew := off % 10, locked := true,
                                 stepped := true, state := 1 } }
    else { s with clock := { c with offset := off, slew := off, locked := true, state := 1 } }
  else
    let s1 := { s with clock := { c with offset := off, slew := off, state := 1 } }
    if 100000 < off.natAbs then faultCOpen 0xE006 s1 else s1

/-- Whether a TIME_SYNC on a link comes from the parent this package adopts: a better candidate, or the same one with
fewer hops or from a lower link, or a refresh by the parent (R373). -/
def adopts (n : Nat) (m : TimeMsg) (s : State) : Bool :=
  let cand := (m.priority, m.master)
  m.priority < 255 && m.master != s.fab.id &&
    match bestCandidate s with
    | none => true
    | some b =>
      s.clock.parent = some n || candLess cand b ||
        (s.clock.parent.isSome && cand = b &&
          (m.hops + 1 < s.clock.hops || (m.hops + 1 = s.clock.hops && n < s.clock.parent.getD 0)))

/-- TIME_SYNC arrives on a link (R373–R375). A parent whose candidate falls behind this package's own is left. -/
def timeArrives (n : Nat) (m : TimeMsg) (s : State) : State :=
  let s1 := { s with clock := { s.clock with stamps := tset (0, 0) s.clock.stamps n (m.sent, m.received) } }
  if !adopts n m s1 then s1
  else if (ownCandidate s1).any fun o => candLess o (m.priority, m.master) then
    becomeMaster { s1 with clock := { s1.clock with parent := none } }
  else
    let s2 := { s1 with clock := { s1.clock with
      parent := some n, master := m.master, masterPriority := m.priority, hops := m.hops + 1, heard := s1.clock.now } }
    match offsetOf m with
    | some off => discipline off s2
    | none => s2

/-- TIME_SYNC (R374). -/
def execTimeSync (link : Nat) (m : TimeMsg) (s : State) : Step :=
  if link < 32 && (linkGet link s).rxActive then .next (timeArrives link m s) else .next s

/-- TIME_HOLDOVER: no refresh of the master for 10 ms; the timebase runs on and the master is elected afresh (R373). -/
def execTimeHoldover (s : State) : Step :=
  if s.clock.parent.isSome && s.clock.heard + 10000000 ≤ s.clock.now then
    .next { s with clock := { s.clock with state := 2, parent := none, masterPriority := 255, slew := 0 } }
  else .next s

/-- Whole nanoseconds of slew in an interval: at most 100 ppm of it (R375). -/
def slewIn (elapsed : Nat) (slew : Int) : Int :=
  let lim : Int := elapsed / 10000
  max (-lim) (min lim (Int.tdiv slew 10))

/-- Time passes: the timebase advances, slewed towards its parent, and never runs backwards (R408, R375). -/
def passTime (elapsed : Nat) (s : State) : State :=
  let k := slewIn elapsed s.clock.slew
  { s with clock := { s.clock with now := s.clock.now + ((elapsed : Int) + k).toNat, slew := s.clock.slew - 10 * k } }

/-- TIMEBASE_UPDATE: the Col sends the timebase to the stamping regions, whose replicas are corrected (R409); the time
since the last update is the row's operand (log 1). -/
def execTimebaseUpdate (elapsed : Nat) (s : State) : Step :=
  let s1 := passTime elapsed s
  .next { s1 with clock := { s1.clock with replica := s1.clock.now } }

end Sys2Proof.Machine
end

