-- ==== Sys2Proof/Machine/Dispatch.lean ====
section
/-! DEFINITION. The dispatch: one arm for each row of the table of operations and events. -/

namespace Sys2Proof.Machine

def exec (i : Instr) (s : State) : Host.Outcome State Fault Refusal :=
  match i with
  | .deviceInfo d => Sys2Proof.Machine.execDeviceInfo d s
  | .deviceStandby d => Sys2Proof.Machine.execDeviceStandby d s
  | .deviceWake d w => Sys2Proof.Machine.execDeviceWake d w s
  | .deviceReset d => Sys2Proof.Machine.execDeviceReset d s
  | .deviceLimit d => Sys2Proof.Machine.execDeviceLimit d s
  | .deviceWatchdog d => Sys2Proof.Machine.execDeviceWatchdog d s
  | .memSetMode d => Sys2Proof.Machine.execMemSetMode d s
  | .memLend d => Sys2Proof.Machine.execMemLend d s
  | .memLendLimit d => Sys2Proof.Machine.execMemLendLimit d s
  | .memReclaim d => Sys2Proof.Machine.execMemReclaim d s
  | .loadBundle d => Sys2Proof.Machine.execLoadBundle d s
  | .verifyBundle d => Sys2Proof.Machine.execVerifyBundle d s
  | .place d => Sys2Proof.Machine.execPlace d s
  | .start d => Sys2Proof.Machine.execStart d s
  | .pause d => Sys2Proof.Machine.execPause d s
  | .resume d => Sys2Proof.Machine.execResume d s
  | .abort d => Sys2Proof.Machine.execAbort d s
  | .unload d => Sys2Proof.Machine.execUnload d s
  | .fabStatus d => Sys2Proof.Machine.execFabStatus d s
  | .fabConfig d => Sys2Proof.Machine.execFabConfig d s
  | .fabLinkCtrl d => Sys2Proof.Machine.execFabLinkCtrl d s
  | .countersEnable d => Sys2Proof.Machine.execCountersEnable d s
  | .countersRead d => Sys2Proof.Machine.execCountersRead d s
  | .cairnArm d => Sys2Proof.Machine.execCairnArm d s
  | .cairnTake d => Sys2Proof.Machine.execCairnTake d s
  | .cairnRead d => Sys2Proof.Machine.execCairnRead d s
  | .faultRead d => Sys2Proof.Machine.execFaultRead d s
  | .faultClear d => Sys2Proof.Machine.execFaultClear d s
  | .faultForce d => Sys2Proof.Machine.execFaultForce d s
  | .ackSlowdown d => Sys2Proof.Machine.execAckSlowdown d s
  | .attest d => Sys2Proof.Machine.execAttest d s
  | .claimOwner d => Sys2Proof.Machine.execClaimOwner d s
  | .fwUpdate d => Sys2Proof.Machine.execFwUpdate d s
  | .hostFrameReceive p f => Sys2Proof.Machine.execHostFrameReceive p f s
  | .skewLimitExpiry seq => Sys2Proof.Machine.execSkewLimitExpiry seq s
  | .regRead p f => Sys2Proof.Machine.execRegRead p f s
  | .regWrite p f => Sys2Proof.Machine.execRegWrite p f s
  | .bulkWrite p f => Sys2Proof.Machine.execBulkWrite p f s
  | .bulkRead p r => Sys2Proof.Machine.execBulkRead p r s
  | .mboxPost p f => Sys2Proof.Machine.execMboxPost p f s
  | .resync p f => Sys2Proof.Machine.execResync p f s
  | .hostCreditFrame p f => Sys2Proof.Machine.execHostCreditFrame p f s
  | .gapTimerExpiry => Sys2Proof.Machine.execGapTimerExpiry s
  | .creditFrameTimer => Sys2Proof.Machine.execCreditFrameTimer s
  | .hostWindowAccess cluster write off data => Sys2Proof.Machine.execHostWindowAccess cluster write off data s
  | .hwinResponse p f => Sys2Proof.Machine.execHwinResponse p f s
  | .hwinRetryTimer seq => Sys2Proof.Machine.execHwinRetryTimer seq s
  | .portLockLoss p => Sys2Proof.Machine.execPortLockLoss p s
  | .portActive p => Sys2Proof.Machine.execPortActive p s
  | .portStableTimer p => Sys2Proof.Machine.execPortStableTimer p s
  | .mailboxWrite m ch w => Sys2Proof.Machine.execMailboxWrite m ch w s
  | .mailboxDrain m ch => Sys2Proof.Machine.execMailboxDrain m ch s
  | .firmwareMailboxPost ch w => Sys2Proof.Machine.execFirmwareMailboxPost ch w s
  | .dbFwRingChannel n a => Sys2Proof.Machine.execDbFwRingChannel n a s
  | .commandRing a => Sys2Proof.Machine.execCommandRing a s
  | .dbFwRingHostEpoch a => Sys2Proof.Machine.execDbFwRingHostEpoch a s
  | .dbHostEpochWrite v a => Sys2Proof.Machine.execDbHostEpochWrite v a s
  | .dbHostMaskWrite v a => Sys2Proof.Machine.execDbHostMaskWrite v a s
  | .dbGuestRing v => Sys2Proof.Machine.execDbGuestRing v s
  | .firmwareDoorbellHandle => Sys2Proof.Machine.execFirmwareDoorbellHandle s
  | .lkLockRead m k secure => Sys2Proof.Machine.execLkLockRead m k secure s
  | .lkLockWrite m k v secure => Sys2Proof.Machine.execLkLockWrite m k v secure s
  | .fltForceWrite v a => Sys2Proof.Machine.execFltForceWrite v a s
  | .fenceNow a => Sys2Proof.Machine.execFenceNow a s
  | .crnCtrlTake a => Sys2Proof.Machine.execCrnCtrlTake a s
  | .synCqConsumedWrite v => Sys2Proof.Machine.execSynCqConsumedWrite v s
  | .ringConfigWrite r v a => Sys2Proof.Machine.execRingConfigWrite r v a s
  | .thThrottleWrite v a => Sys2Proof.Machine.execThThrottleWrite v a s
  | .thGraceWrite v a => Sys2Proof.Machine.execThGraceWrite v a s
  | .cpSkewLimitWrite v a => Sys2Proof.Machine.execCpSkewLimitWrite v a s
  | .registerWrite addr v a => Sys2Proof.Machine.execRegisterWrite addr v a s
  | .managementRead addr => Sys2Proof.Machine.execManagementRead addr s
  | .announcement ch => Sys2Proof.Machine.execAnnouncement ch s
  | .descriptorTake q => Sys2Proof.Machine.execDescriptorTake q s
  | .commandBegin q => Sys2Proof.Machine.execCommandBegin q s
  | .completionPost => Sys2Proof.Machine.execCompletionPost s
  | .watchdogExpiry => Sys2Proof.Machine.execWatchdogExpiry s
  | .executionBegin h => Sys2Proof.Machine.execExecutionBegin h s
  | .executionEnd h => Sys2Proof.Machine.execExecutionEnd h s
  | .pauseComplete h => Sys2Proof.Machine.execPauseComplete h s
  | .abortComplete h => Sys2Proof.Machine.execAbortComplete h s
  | .deadlineExpiry h => Sys2Proof.Machine.execDeadlineExpiry h s
  | .peerStartTimeout h peer => Sys2Proof.Machine.execPeerStartTimeout h peer s
  | .recvTimeout h op => Sys2Proof.Machine.execRecvTimeout h op s
  | .lenderTimeout pkg => Sys2Proof.Machine.execLenderTimeout pkg s
  | .thermalNoticeRepeat dom => Sys2Proof.Machine.execThermalNoticeRepeat dom s
  | .faultEvent e => Sys2Proof.Machine.execFaultEvent e s
  | .cairnTrigger code detail => Sys2Proof.Machine.execCairnTrigger code detail s
  | .stallTimer p => Sys2Proof.Machine.execStallTimer p s
  | .cairnHoldComplete => Sys2Proof.Machine.execCairnHoldComplete s
  | .cairnRelease => Sys2Proof.Machine.execCairnRelease s
  | .workItemPlace x w => Sys2Proof.Machine.execWorkItemPlace x w s
  | .workItemTake p => Sys2Proof.Machine.execWorkItemTake p s
  | .engineOpIssue p c e op => Sys2Proof.Machine.execEngineOpIssue p c e op s
  | .engineOpStart p c e => Sys2Proof.Machine.execEngineOpStart p c e s
  | .engineOpRetire p c e => Sys2Proof.Machine.execEngineOpRetire p c e s
  | .workItemComplete p seq => Sys2Proof.Machine.execWorkItemComplete p seq s
  | .remoteSyncIncrement p => Sys2Proof.Machine.execRemoteSyncIncrement p s
  | .creditUpdate q => Sys2Proof.Machine.execCreditUpdate q s
  | .clusterPowerGate p => Sys2Proof.Machine.execClusterPowerGate p s
  | .clusterWake p => Sys2Proof.Machine.execClusterWake p s
  | .coreFailure p c => Sys2Proof.Machine.execCoreFailure p c s
  | .clusterFailure p => Sys2Proof.Machine.execClusterFailure p s
  | .pFillComplete p c => Sys2Proof.Machine.execPFillComplete p c s
  | .pRunRetire p c => Sys2Proof.Machine.execPRunRetire p c s
  | .bankPitchCheckStart p c => Sys2Proof.Machine.execBankPitchCheckStart p c s
  | .bankCheckUrgent p c => Sys2Proof.Machine.execBankCheckUrgent p c s
  | .bankPitchCheckEnd p c r => Sys2Proof.Machine.execBankPitchCheckEnd p c r s
  | .bankRetuneWave f => Sys2Proof.Machine.execBankRetuneWave f s
  | .bankRetuneDone p c ok => Sys2Proof.Machine.execBankRetuneDone p c ok s
  | .bankOutOfRange p c => Sys2Proof.Machine.execBankOutOfRange p c s
  | .bankBackInRange p c => Sys2Proof.Machine.execBankBackInRange p c s
  | .bankOverheat p c => Sys2Proof.Machine.execBankOverheat p c s
  | .bankWalkIdentify p c r strongest => Sys2Proof.Machine.execBankWalkIdentify p c r strongest s
  | .bankWalkOrder p c r => Sys2Proof.Machine.execBankWalkOrder p c r s
  | .bankWalkStep p c r => Sys2Proof.Machine.execBankWalkStep p c r s
  | .bankWalkVerify p c r pass => Sys2Proof.Machine.execBankWalkVerify p c r pass s
  | .bankWalkTimeout p c r => Sys2Proof.Machine.execBankWalkTimeout p c r s
  | .combSparePoint inst => Sys2Proof.Machine.execCombSparePoint inst s
  | .combPauseRequest chip k => Sys2Proof.Machine.execCombPauseRequest chip k s
  | .combHandoverPause chip k failing => Sys2Proof.Machine.execCombHandoverPause chip k failing s
  | .combLineFailure inst => Sys2Proof.Machine.execCombLineFailure inst s
  | .combChipletFailure chip => Sys2Proof.Machine.execCombChipletFailure chip s
  | .laserSample inst bias output => Sys2Proof.Machine.execLaserSample inst bias output s
  | .laserFailure inst => Sys2Proof.Machine.execLaserFailure inst s
  | .laserBandChange chip => Sys2Proof.Machine.execLaserBandChange chip s
  | .linkLaserSparePoint inst => Sys2Proof.Machine.execLinkLaserSparePoint inst s
  | .linkSpareSwitch n k => Sys2Proof.Machine.execLinkSpareSwitch n k s
  | .linkSpareVerified link k ok => Sys2Proof.Machine.execLinkSpareVerified link k ok s
  | .portLaserSwitch p => Sys2Proof.Machine.execPortLaserSwitch p s
  | .laneMove link lane a b slot => Sys2Proof.Machine.execLaneMove link lane a b slot s
  | .laneMoveAck link lane slot => Sys2Proof.Machine.execLaneMoveAck link lane slot s
  | .laneMoveTimeout link lane => Sys2Proof.Machine.execLaneMoveTimeout link lane s
  | .laneLossTimeout link lane => Sys2Proof.Machine.execLaneLossTimeout link lane s
  | .laneRetire link ch dark => Sys2Proof.Machine.execLaneRetire link ch dark s
  | .channelErrorInterval inst e => Sys2Proof.Machine.execChannelErrorInterval inst e s
  | .laneCheckDue inst => Sys2Proof.Machine.execLaneCheckDue inst s
  | .checkStart link ch => Sys2Proof.Machine.execCheckStart link ch s
  | .checkReport link r => Sys2Proof.Machine.execCheckReport link r s
  | .checkResult inst r => Sys2Proof.Machine.execCheckResult inst r s
  | .chipletWalkIdentify inst strongest => Sys2Proof.Machine.execChipletWalkIdentify inst strongest s
  | .chipletWalkOrder inst => Sys2Proof.Machine.execChipletWalkOrder inst s
  | .chipletWalkStep inst => Sys2Proof.Machine.execChipletWalkStep inst s
  | .chipletWalkVerify inst pass => Sys2Proof.Machine.execChipletWalkVerify inst pass s
  | .chipletWalkTimeout inst => Sys2Proof.Machine.execChipletWalkTimeout inst s
  | .codewordSlot link => Sys2Proof.Machine.execCodewordSlot link s
  | .codewordReceive inst gap w => Sys2Proof.Machine.execCodewordReceive inst gap w s
  | .channelLock inst inverted => Sys2Proof.Machine.execChannelLock inst inverted s
  | .channelLockLoss inst => Sys2Proof.Machine.execChannelLockLoss inst s
  | .trainingAdvance link x => Sys2Proof.Machine.execTrainingAdvance link x s
  | .trainingTimeout link => Sys2Proof.Machine.execTrainingTimeout link s
  | .bivouacExitTimer link => Sys2Proof.Machine.execBivouacExitTimer link s
  | .activeAtReached link tx => Sys2Proof.Machine.execActiveAtReached link tx s
  | .noPeerTimer link => Sys2Proof.Machine.execNoPeerTimer link s
  | .laneRetrain link slot => Sys2Proof.Machine.execLaneRetrain link slot s
  | .sleep link tx slot => Sys2Proof.Machine.execSleep link tx slot s
  | .wake link tx slot => Sys2Proof.Machine.execWake link tx slot s
  | .beacon link ch slot => Sys2Proof.Machine.execBeacon link ch slot s
  | .beaconMiss link ch => Sys2Proof.Machine.execBeaconMiss link ch s
  | .testStart inst pattern => Sys2Proof.Machine.execTestStart inst pattern s
  | .testEnd inst => Sys2Proof.Machine.execTestEnd inst s
  | .laneTestDurationEnd link => Sys2Proof.Machine.execLaneTestDurationEnd link s
  | .flitReceive link f => Sys2Proof.Machine.execFlitReceive link f s
  | .idleAckTimer link => Sys2Proof.Machine.execIdleAckTimer link s
  | .replayTimer link => Sys2Proof.Machine.execReplayTimer link s
  | .e2eCredit pkg vc close total => Sys2Proof.Machine.execE2eCredit pkg vc close total s
  | .e2eCreditTimer pkg vc => Sys2Proof.Machine.execE2eCreditTimer pkg vc s
  | .creditReq pkg vc => Sys2Proof.Machine.execCreditReq pkg vc s
  | .creditRetryTimer pkg vc => Sys2Proof.Machine.execCreditRetryTimer pkg vc s
  | .entryIdleClose pkg vc => Sys2Proof.Machine.execEntryIdleClose pkg vc s
  | .closeAck pkg vc total => Sys2Proof.Machine.execCloseAck pkg vc total s
  | .peerReadReq pkg tag addr r => Sys2Proof.Machine.execPeerReadReq pkg tag addr r s
  | .peerWriteReq pkg tag addr data => Sys2Proof.Machine.execPeerWriteReq pkg tag addr data s
  | .sendData pkg tag off data poison => Sys2Proof.Machine.execSendData pkg tag off data poison s
  | .fabricResponse tag status data poison => Sys2Proof.Machine.execFabricResponse tag status data poison s
  | .sysMessage pkg tag m => Sys2Proof.Machine.execSysMessage pkg tag m s
  | .fabricRequestTimeout tag => Sys2Proof.Machine.execFabricRequestTimeout tag s
  | .widthReq link r => Sys2Proof.Machine.execWidthReq link r s
  | .widthAck link r => Sys2Proof.Machine.execWidthAck link r s
  | .widthSwitch link => Sys2Proof.Machine.execWidthSwitch link s
  | .linkLeavesActive link => Sys2Proof.Machine.execLinkLeavesActive link s
  | .collContrib f g m => Sys2Proof.Machine.execCollContrib f g m s
  | .collResult f m => Sys2Proof.Machine.execCollResult f m s
  | .reductionSlotTimeout f coll chunk => Sys2Proof.Machine.execReductionSlotTimeout f coll chunk s
  | .timeSyncSend => Sys2Proof.Machine.execTimeSyncSend s
  | .timeSync link m => Sys2Proof.Machine.execTimeSync link m s
  | .timeHoldover => Sys2Proof.Machine.execTimeHoldover s
  | .timebaseUpdate elapsed => Sys2Proof.Machine.execTimebaseUpdate elapsed s
  | .d2dSlotReceive m d x => Sys2Proof.Machine.execD2dSlotReceive m d x s
  | .d2dAckWord m d w => Sys2Proof.Machine.execD2dAckWord m d w s
  | .d2dRetryTimer m d => Sys2Proof.Machine.execD2dRetryTimer m d s
  | .sidebandMessage m w => Sys2Proof.Machine.execSidebandMessage m w s
  | .sidebandRetryTimer m seq => Sys2Proof.Machine.execSidebandRetryTimer m seq s
  | .moduleLinkUp m x => Sys2Proof.Machine.execModuleLinkUp m x s
  | .moduleRetrain m d errs => Sys2Proof.Machine.execModuleRetrain m d errs s
  | .recalibrationTimer m => Sys2Proof.Machine.execRecalibrationTimer m s
  | .clockLost m => Sys2Proof.Machine.execClockLost m s
  | .weightChange g => Sys2Proof.Machine.execWeightChange g s
  | .emptySlotInsert m d => Sys2Proof.Machine.execEmptySlotInsert m d s
  | .guestRead r => Sys2Proof.Machine.execGuestRead r s
  | .guestWrite r data bad => Sys2Proof.Machine.execGuestWrite r data bad s
  | .resetReq => Sys2Proof.Machine.execResetReq s
  | .temp temp power => Sys2Proof.Machine.execTemp temp power s
  | .guestTempTimeout => Sys2Proof.Machine.execGuestTempTimeout s
  | .guestFence => Sys2Proof.Machine.execGuestFence s
  | .dramRead a r b => Sys2Proof.Machine.execDramRead a r b s
  | .dramWrite a data poison => Sys2Proof.Machine.execDramWrite a data poison s
  | .directoryRequest a r => Sys2Proof.Machine.execDirectoryRequest a r s
  | .recallAnswer a held data poison => Sys2Proof.Machine.execRecallAnswer a held data poison s
  | .refresh stack ch bank postpone => Sys2Proof.Machine.execRefresh stack ch bank postpone s
  | .refreshBandChange stack => Sys2Proof.Machine.execRefreshBandChange stack s
  | .scrubRead stack b row => Sys2Proof.Machine.execScrubRead stack b row s
  | .rowRepair stack ch bank row => Sys2Proof.Machine.execRowRepair stack ch bank row s
  | .channelFailure stack ch phy => Sys2Proof.Machine.execChannelFailure stack ch phy s
  | .lostMemoryRewrite => Sys2Proof.Machine.execLostMemoryRewrite s
  | .sensorSample j reading => Sys2Proof.Machine.execSensorSample j reading s
  | .graceExpiry dom => Sys2Proof.Machine.execGraceExpiry dom s
  | .enforcementGrid dom => Sys2Proof.Machine.execEnforcementGrid dom s
  | .thermalRelease dom => Sys2Proof.Machine.execThermalRelease dom s
  | .releaseRampTimer => Sys2Proof.Machine.execReleaseRampTimer s
  | .band4NomHoldEnd f => Sys2Proof.Machine.execBand4NomHoldEnd f s
  | .thermalShutdown => Sys2Proof.Machine.execThermalShutdown s
  | .powerLimiterTick x => Sys2Proof.Machine.execPowerLimiterTick x s
  | .limiterHeld => Sys2Proof.Machine.execLimiterHeld s
  | .railMoveDone f => Sys2Proof.Machine.execRailMoveDone f s
  | .railMoveFailure f => Sys2Proof.Machine.execRailMoveFailure f s
  | .rctlAlert => Sys2Proof.Machine.execRctlAlert s
  | .flankRailOutOfRange f => Sys2Proof.Machine.execFlankRailOutOfRange f s
  | .refclkLoss => Sys2Proof.Machine.execRefclkLoss s
  | .powerGoodLoss pg => Sys2Proof.Machine.execPowerGoodLoss pg s
  | .packageReset low pins => Sys2Proof.Machine.execPackageReset low pins s
  | .colReset => Sys2Proof.Machine.execColReset s
  | .flankSoftReset f => Sys2Proof.Machine.execFlankSoftReset f s
  | .flankHardReset f => Sys2Proof.Machine.execFlankHardReset f s
  | .flankLoss f => Sys2Proof.Machine.execFlankLoss f s
  | .colBoot x => Sys2Proof.Machine.execColBoot x s
  | .nvmLoad bad => Sys2Proof.Machine.execNvmLoad bad s
  | .agreementCheck readings => Sys2Proof.Machine.execAgreementCheck readings s
  | .verweustLinksStep straps => Sys2Proof.Machine.execVerweustLinksStep straps s
  | .memoryTraining failed => Sys2Proof.Machine.execMemoryTraining failed s
  | .laserWarmUp bad => Sys2Proof.Machine.execLaserWarmUp bad s
  | .preHeat => Sys2Proof.Machine.execPreHeat s
  | .preHeatChipletReady pos => Sys2Proof.Machine.execPreHeatChipletReady pos s
  | .preHeatTimeout => Sys2Proof.Machine.execPreHeatTimeout s
  | .ringLock bad => Sys2Proof.Machine.execRingLock bad s
  | .clusterSelfTest bad => Sys2Proof.Machine.execClusterSelfTest bad s
  | .fabricTraining => Sys2Proof.Machine.execFabricTraining s
  | .bottomTreeReady => Sys2Proof.Machine.execBottomTreeReady s
  | .dbgChallenge => Sys2Proof.Machine.execDbgChallenge s
  | .dbgToken t => Sys2Proof.Machine.execDbgToken t s
  | .boundaryScan ins pins => Sys2Proof.Machine.execBoundaryScan ins pins s
  | .sysResp pkg tag status => Sys2Proof.Machine.execSysResp pkg tag status s
  | .invalidateAck a => Sys2Proof.Machine.execInvalidateAck a s
  | .recallRequest a inval => Sys2Proof.Machine.execRecallRequest a inval s
  | .fwStaged => Sys2Proof.Machine.execFwStaged s
  | .lightArrival who => Sys2Proof.Machine.execLightArrival who s
  | .ringLockLoss inst verified => Sys2Proof.Machine.execRingLockLoss inst verified s

end Sys2Proof.Machine
end

