-- ==== Sys2Proof/Machine/Step.lean ====
section
/-!
DEFINITION. One step: the command or event at the front of the queue, or a tick of the timebase when none waits.
-/

namespace Sys2Proof.Machine

/-- One step (log 1): the front of the queue is run with the queue's rest; on an empty queue 1 ns passes. -/
def step (s : State) : Host.Outcome State Fault Refusal :=
  match s.pending with
  | [] => .next (idleTick s)
  | c :: rest => exec c { s with pending := rest }

/-- The state with the command that a word spells at the front of its queue; no row has bits, so unchanged. -/
def State.withFetchWord (s : State) (nbits w : Nat) : State :=
  match Sys2Proof.decodeTableWord nbits w with
  | some c => { s with pending := c :: s.pending }
  | none => s

end Sys2Proof.Machine
end

