-- ==== Sys2Proof/Safety.lean ====
section
/-!
DEFINITION. What counts as a well-formed state and a safe run: the canonical form of the memories and their poison,
what a row may never do to the queue, and the outcomes of a step.
-/

namespace Sys2Proof.Machine

/-- The canonical form of every memory the spec gives the part: DRAM, cluster memories and local stores are tables
with rising keys and no entry that reads as an unlisted key, and their poison is held as rising disjoint ranges. -/
def Memory.wf (m : MemSys) : Bool :=
  tabWf 0 m.dram && tabWf 0 m.cm && tabWf 0 m.ls && rwf m.poison && rwf m.cmPoison && rwf m.lsPoison

/-- The leaves of the identity key are in order: the next leaf lies within those reserved, and these within the key
(R483). -/
abbrev Leaves.ok (x : Sec) : Prop := x.nextLeaf ≤ x.reserved ∧ x.reserved ≤ keyLeaves

/-- The parts of the state that a frame speaks of: the fields of `State`, with memory parted into the bytes and poison
of DRAM, cluster memories and local stores (`bytes`) and everything else (`memCtl`). The queue of waiting commands is
left out: no operation changes it. -/
inductive Area where
  | part | pins | clock | boot | dev | faults | mbx | db | locks | ports | cmds | graphs | bytes | memCtl | stk
  | counts | comp | banks | cairn | therm | las | chans | links | fab | d2d | guest | sec | out | free
  deriving DecidableEq, Repr

/-- Memory with its bytes and poison taken away. -/
def memRest (m : MemSys) : MemSys :=
  { m with dram := [], poison := [], cm := [], cmPoison := [], ls := [], lsPoison := [] }

/-- An area is the same in two states. -/
def Area.same : Area → State → State → Prop
  | .part, s, t => t.part = s.part
  | .pins, s, t => t.pins = s.pins
  | .clock, s, t => t.clock = s.clock
  | .boot, s, t => t.boot = s.boot
  | .dev, s, t => t.dev = s.dev
  | .faults, s, t => t.faults = s.faults
  | .mbx, s, t => t.mbx = s.mbx
  | .db, s, t => t.db = s.db
  | .locks, s, t => t.locks = s.locks
  | .ports, s, t => t.ports = s.ports
  | .cmds, s, t => t.cmds = s.cmds
  | .graphs, s, t => t.graphs = s.graphs
  | .bytes, s, t => t.mem.dram = s.mem.dram ∧ t.mem.poison = s.mem.poison ∧ t.mem.cm = s.mem.cm ∧
      t.mem.cmPoison = s.mem.cmPoison ∧ t.mem.ls = s.mem.ls ∧ t.mem.lsPoison = s.mem.lsPoison
  | .memCtl, s, t => memRest t.mem = memRest s.mem
  | .stk, s, t => t.stk = s.stk
  | .counts, s, t => t.counts = s.counts
  | .comp, s, t => t.comp = s.comp
  | .banks, s, t => t.banks = s.banks
  | .cairn, s, t => t.cairn = s.cairn
  | .therm, s, t => t.therm = s.therm
  | .las, s, t => t.las = s.las
  | .chans, s, t => t.chans = s.chans
  | .links, s, t => t.links = s.links
  | .fab, s, t => t.fab = s.fab
  | .d2d, s, t => t.d2d = s.d2d
  | .guest, s, t => t.guest = s.guest
  | .sec, s, t => t.sec = s.sec
  | .out, s, t => t.out = s.out
  | .free, s, t => t.free = s.free

/-- A frame: every area outside the list is as it was. -/
def OnlyChanges (areas : List Area) (s t : State) : Prop := ∀ x, x ∉ areas → x.same s t

/-- Every area of one list stands in another. -/
def within (a b : List Area) : Bool := a.all fun x => b.contains x

/-- What every operation of the machine keeps: the queue of waiting commands is the sender's, never the part's;
memory stays in its canonical form; the next leaf of the identity key never goes back; and the areas the operation
does not name are as they were. -/
structure Keeps (areas : List Area) (s t : State) : Prop where
  pending : t.pending = s.pending
  mem : Memory.wf s.mem = true → Memory.wf t.mem = true
  leaf : Leaves.ok s.sec → Leaves.ok t.sec ∧ s.sec.nextLeaf ≤ t.sec.nextLeaf
  frame : OnlyChanges areas s t

/-- The host frame is the next one the G2 acts on, whole and of a type whose limits it meets (R206, R213). -/
def FrameIsNext (f : Frame) (s : State) : Prop :=
  frameWellFormed f = true ∧ isNext f s ≠ none

/-- What answering a request leaves: its SEQ is the last acted on, the slot it held is granted again, and the response
kept newest of all is the one to this SEQ, with a status and a payload (R210, R213, R214, R216). -/
def Answered (f : Frame) (st : Status) (payload : List Byte) (s t : State) : Prop :=
  t.ports.acted = f.seq ∧ t.ports.credit = s.ports.credit + 1 ∧
    (∀ h ∈ t.ports.slots, h.frame.seq ≠ f.seq) ∧
    ∃ k r, t.ports.kept.head? = some k ∧ k.seq = f.seq ∧ k.resp = some r ∧
      r.type = BitVec.ofNat 8 (f.type.toNat ||| 0x80) ∧ r.refSeq = f.seq ∧
      r.arg = BitVec.ofNat 16 st.code ∧ r.payload = payload

/-- A command that its row takes: the firmware acts, checks 3 to 5 pass, nothing accepted before it waits, there is
room to hold its completion, and it is
legal in the device state (R251, R253, R255, R266). -/
def CanBegin (op : BitVec 16) (d : Descriptor) (s : State) : Prop :=
  fwActs s = true ∧ checks345 { d with opcode := op } s = none ∧ (ringOf d.queue s).waiting = [] ∧ d.fence = false ∧
    s.cmds.held.length < 4096 ∧
    legalNow { d with opcode := op } s = true

/-- What a command's end leaves: a completion entry made since, with its HSEQ, opcode and status (R254). -/
def Completed (op : BitVec 16) (d : Descriptor) (st : Status) (s t : State) : Prop :=
  ∃ e ∈ t.cmds.held.drop s.cmds.held.length, e.hseq = d.hseq ∧ e.code = op ∧ e.status = st ∧ e.notice = false

/-- The enable of a ring as the firmware holds it (R245). -/
def ringOn (r : RingName) (s : State) : Bool := match r with
  | .normal => s.cmds.nq.enabled
  | .urgent => s.cmds.uq.enabled
  | .completion => s.cmds.cqEnabled

/-- DRAM in canonical form, with no byte of a span on a stack that is out of service and no line of it held by a remote-line
cache. -/
def DramOpen (a n : Nat) (s : State) : Prop :=
  Memory.wf s.mem = true ∧ (∀ x, a ≤ x → x < a + n → stackDown x s = false) ∧
    (s.mem.home = false ∨ ∀ l ∈ spanLines a n, dirOf l s = 0 ∧ cacheGet l s = none)

/-- Exactly the bytes of a span of DRAM are written: they read as given, every other byte as before. -/
def Stored (a : Nat) (bs : List Byte) (s t : State) : Prop :=
  (∀ i, i < bs.length → dramByte (a + i) t = bs.getD i 0) ∧
    ∀ x, (x < a ∨ a + bs.length ≤ x) → dramByte x t = dramByte x s

/-- An entry made between two states: a notice of a code with its details (R273). -/
def Noticed (code : Nat) (detail : BitVec 32) (detail2 : BitVec 64) (s t : State) : Prop :=
  ∃ e ∈ t.cmds.held.drop s.cmds.held.length, e.notice = true ∧ e.code = BitVec.ofNat 16 code ∧ e.detail = detail ∧
    e.detail2 = detail2

/-- A fault event entered between two states: the newest of the history names its source and class (R454, R457). -/
def Faulted (src : Nat) (cls : FClass) (s t : State) : Prop :=
  t.faults.entered = s.faults.entered + 1 ∧
    (tget {} t.faults.hist (s.faults.entered % 16)).source = BitVec.ofNat 16 src ∧
    tget 0 t.faults.classes (classCode cls) = satInc 32 (tget 0 s.faults.classes (classCode cls))

/-- Whether a unit is in service after a fault fenced it: never (R450, R458). -/
def Fenced (src core : Nat) (t : State) : Prop := isFenced src core t = true

/-- A placement that fits: its argument is right, names no fenced unit, and its DRAM, cluster memory, P weight slots and
report fit without a lender (R161, R167). `w` is the fit in progress. -/
def PlaceFits (d : Descriptor) (i : Nat) (g : Graph) (w : FitWait) (s : State) : Prop :=
  ∃ groups hints fenced, (argBytes d s).2 = s ∧
    parsePlacement g.b.groups g.b.operators.length (argBytes d s).1 = .ok (groups, hints) ∧
    w = ⟨rowAccepted 0x0303 d s, false, g.b, [], none, hints, groups, g.b.lenders, none, false, [], []⟩ ∧
    fencedHint (groups ++ g.b.groups) ((List.range g.b.operators.length).filterMap (hintOf w)) s = .ok fenced ∧
    (let s0 := slotSet i (unplaced g) s
     let p := planOf w i d.target s0
     placeNeed g.b (keptPhotonic w i p s0) ≤ rangeBytes (freeRanges s0) ∧ g.b.policy = 0 ∧
       setsOf p.photonic ≤ pFreeOf i p s0 ∧ cmShorts i p s0 = [] ∧ 64 ≤ d.resLen.toNat)

/-- Nothing waits in the fabric for a credit, a place or a queue, and nothing has landed undelivered. -/
def FabricQuiet (s : State) : Prop :=
  s.fab.outq = [] ∧ s.fab.waiting = [] ∧ s.fab.sysWaiting = [] ∧ ∀ e ∈ s.links, e.2.landing = []

/-- The router has a group towards a package for every flit of this package to it (R363–R365). -/
def LeadsTo (pkg : Nat) (s : State) : Prop :=
  ∀ f : Flit, f.dst.toNat % 2 ^ 20 = pkg → flitVc f < 4 → ∃ g h, route 0 f s = .group g h

/-- The areas that a fault, with all it brings to commands and executions, may reach (R450–R462). -/
def faultAreas : List Area := [.boot, .dev, .faults, .db, .ports, .cmds, .graphs, .cairn, .out, .free]

/-- The areas that a row of the table may change. -/
def mayChange : Instr → List Area
  | .deviceInfo .. => [.ports, .cmds, .bytes, .memCtl, .counts, .out]
  | .deviceStandby .. => [.dev, .db, .ports, .cmds, .counts, .comp, .las, .out]
  | .deviceWake .. => faultAreas ++ [.pins, .mbx, .locks, .bytes, .memCtl, .counts, .comp, .banks, .therm, .las, .chans, .links, .fab, .d2d, .guest, .sec]
  | .deviceReset .. => faultAreas ++ [.mbx, .locks, .bytes, .memCtl, .counts, .comp, .therm, .las, .chans, .links, .fab, .d2d, .sec]
  | .deviceLimit .. => [.dev, .cmds, .counts, .comp, .therm, .out]
  | .deviceWatchdog .. => [.cmds]
  | .memSetMode .. => [.cmds, .memCtl]
  | .memLend .. => [.db, .ports, .cmds, .memCtl, .out, .free]
  | .memLendLimit .. => [.cmds, .memCtl]
  | .memReclaim .. => [.db, .ports, .cmds, .memCtl, .out, .free]
  | .loadBundle .. => faultAreas ++ [.bytes, .memCtl, .counts, .comp, .links, .fab]
  | .verifyBundle .. => [.ports, .cmds, .bytes, .memCtl, .counts, .out, .free]
  | .place .. => faultAreas ++ [.bytes, .memCtl, .counts, .comp, .links, .fab]
  | .start .. => faultAreas ++ [.counts, .comp, .links, .fab]
  | .pause .. => [.cmds, .graphs]
  | .resume .. => faultAreas ++ [.counts, .comp, .links, .fab]
  | .abort .. => [.cmds, .graphs, .comp]
  | .unload .. => faultAreas ++ [.counts, .comp, .links, .fab]
  | .fabStatus .. => [.ports, .cmds, .bytes, .memCtl, .counts, .out]
  | .fabConfig .. => faultAreas ++ [.clock, .counts, .las, .chans, .links, .fab]
  | .fabLinkCtrl .. => faultAreas ++ [.counts, .las, .chans, .links, .fab]
  | .countersEnable .. => [.cmds, .counts]
  | .countersRead .. => [.ports, .cmds, .bytes, .memCtl, .counts, .out]
  | .cairnArm .. => [.cmds, .cairn]
  | .cairnTake .. => [.cmds, .cairn]
  | .cairnRead .. => [.ports, .cmds, .bytes, .memCtl, .counts, .out]
  | .faultRead .. => [.ports, .cmds, .bytes, .memCtl, .counts, .out]
  | .faultClear .. => [.faults, .cmds]
  | .faultForce .. => faultAreas ++ [.pins, .mbx, .locks, .bytes, .memCtl, .stk, .counts, .comp, .banks, .las, .chans, .links, .fab, .d2d, .guest]
  | .ackSlowdown .. => [.cmds, .counts, .comp, .therm, .out]
  | .attest .. => faultAreas ++ [.bytes, .memCtl, .counts, .sec]
  | .claimOwner .. => faultAreas ++ [.sec]
  | .fwUpdate .. => [.boot, .cmds, .free]
  | .hostFrameReceive .. => [.boot, .dev, .faults, .db, .ports, .cmds, .graphs, .cairn, .out]
  | .skewLimitExpiry .. => [.ports, .out]
  | .regRead .. => [.boot, .dev, .faults, .db, .locks, .ports, .cmds, .graphs, .cairn, .out]
  | .regWrite .. => faultAreas ++ [.pins, .mbx, .locks, .bytes, .memCtl, .stk, .counts, .comp, .banks, .therm, .las, .chans, .links, .fab, .d2d, .guest]
  | .bulkWrite .. => [.boot, .dev, .faults, .db, .ports, .cmds, .graphs, .bytes, .memCtl, .counts, .cairn, .out]
  | .bulkRead .. => [.boot, .dev, .faults, .db, .ports, .cmds, .graphs, .bytes, .memCtl, .stk, .counts, .cairn, .out]
  | .mboxPost .. => [.boot, .dev, .faults, .mbx, .db, .ports, .cmds, .graphs, .cairn, .out]
  | .resync .. => [.boot, .dev, .faults, .db, .ports, .cmds, .graphs, .cairn, .out]
  | .hostCreditFrame .. => [.boot, .dev, .faults, .db, .ports, .cmds, .graphs, .cairn, .out]
  | .gapTimerExpiry .. => [.ports, .out]
  | .creditFrameTimer .. => [.ports, .out]
  | .hostWindowAccess .. => faultAreas
  | .hwinResponse .. => faultAreas ++ [.bytes, .memCtl, .counts, .comp, .links, .fab]
  | .hwinRetryTimer .. => faultAreas ++ [.bytes, .memCtl, .counts, .comp, .links, .fab]
  | .portLockLoss .. => faultAreas
  | .portActive .. => faultAreas ++ [.chans, .links]
  | .portStableTimer .. => [.db, .ports, .out]
  | .mailboxWrite .. => [.boot, .dev, .faults, .mbx, .db, .ports, .cmds, .graphs, .cairn, .d2d, .out]
  | .mailboxDrain .. => [.boot, .dev, .faults, .mbx, .db, .ports, .cmds, .graphs, .cairn, .out]
  | .firmwareMailboxPost .. => [.mbx, .db, .ports, .d2d, .out]
  | .dbFwRingChannel .. => [.db, .out]
  | .commandRing .. => [.db, .ports, .cmds, .memCtl, .out]
  | .dbFwRingHostEpoch .. => [.db, .out]
  | .dbHostEpochWrite .. => [.boot, .dev, .faults, .mbx, .db, .locks, .ports, .cmds, .graphs, .cairn, .out]
  | .dbHostMaskWrite .. => [.db, .ports, .out]
  | .dbGuestRing .. => [.db]
  | .firmwareDoorbellHandle .. => [.mbx, .db, .ports, .cmds, .memCtl, .out]
  | .lkLockRead .. => [.boot, .dev, .faults, .db, .locks, .ports, .cmds, .graphs, .cairn, .out]
  | .lkLockWrite .. => [.boot, .dev, .faults, .db, .locks, .ports, .cmds, .graphs, .cairn, .out]
  | .fltForceWrite .. => faultAreas ++ [.pins, .mbx, .locks, .bytes, .memCtl, .stk, .counts, .comp, .banks, .las, .chans, .links, .fab, .d2d, .guest]
  | .fenceNow .. => faultAreas ++ [.pins, .mbx, .locks, .bytes, .memCtl, .stk, .counts, .comp, .banks, .therm, .las, .chans, .links, .fab, .d2d, .guest]
  | .crnCtrlTake .. => faultAreas ++ [.pins, .mbx, .locks, .bytes, .memCtl, .stk, .counts, .comp, .banks, .therm, .las, .chans, .links, .fab, .d2d, .guest]
  | .synCqConsumedWrite .. => [.cmds, .out]
  | .ringConfigWrite .. => [.boot, .dev, .faults, .db, .ports, .cmds, .graphs, .cairn, .out]
  | .thThrottleWrite .. => faultAreas ++ [.pins, .mbx, .locks, .bytes, .memCtl, .stk, .counts, .comp, .banks, .therm, .las, .chans, .links, .fab, .d2d, .guest]
  | .thGraceWrite .. => faultAreas ++ [.pins, .mbx, .locks, .bytes, .memCtl, .stk, .counts, .comp, .banks, .therm, .las, .chans, .links, .fab, .d2d, .guest]
  | .cpSkewLimitWrite .. => faultAreas ++ [.pins, .mbx, .locks, .bytes, .memCtl, .stk, .counts, .comp, .banks, .therm, .las, .chans, .links, .fab, .d2d, .guest]
  | .registerWrite .. => faultAreas ++ [.pins, .mbx, .locks, .bytes, .memCtl, .stk, .counts, .comp, .banks, .therm, .las, .chans, .links, .fab, .d2d, .guest]
  | .managementRead .. => [.out]
  | .announcement .. => [.mbx, .db, .ports, .cmds, .out]
  | .descriptorTake .. => [.cmds]
  | .commandBegin .. => faultAreas ++ [.pins, .clock, .mbx, .locks, .bytes, .memCtl, .stk, .counts, .comp, .banks, .therm, .las, .chans, .links, .fab, .d2d, .guest, .sec]
  | .completionPost .. => [.db, .ports, .cmds, .bytes, .memCtl, .counts, .out]
  | .watchdogExpiry .. => [.db, .ports, .cmds, .graphs, .cairn, .out]
  | .executionBegin .. => faultAreas ++ [.bytes, .memCtl, .counts, .comp, .links, .fab]
  | .executionEnd .. => faultAreas ++ [.bytes, .memCtl, .counts, .comp, .links, .fab]
  | .pauseComplete .. => [.dev, .db, .ports, .cmds, .graphs, .out]
  | .abortComplete .. => [.dev, .db, .ports, .cmds, .graphs, .comp, .out]
  | .deadlineExpiry .. => [.graphs, .cairn]
  | .peerStartTimeout .. => [.dev, .db, .ports, .cmds, .graphs, .out]
  | .recvTimeout .. => [.graphs]
  | .lenderTimeout .. => faultAreas ++ [.bytes, .memCtl, .counts, .comp, .links, .fab]
  | .thermalNoticeRepeat .. => [.db, .ports, .cmds, .therm, .out]
  | .faultEvent .. => faultAreas ++ [.pins, .mbx, .locks, .bytes, .memCtl, .stk, .counts, .comp, .banks, .las, .chans, .links, .fab, .d2d, .guest]
  | .cairnTrigger .. => [.cairn]
  | .stallTimer .. => [.cairn]
  | .cairnHoldComplete .. => [.cairn]
  | .cairnRelease .. => faultAreas ++ [.bytes, .counts, .comp, .links, .fab]
  | .workItemPlace .. => [.graphs, .comp]
  | .workItemTake .. => [.comp]
  | .engineOpIssue .. => [.counts, .comp]
  | .engineOpStart .. => faultAreas ++ [.bytes, .memCtl, .stk, .counts, .comp, .links, .fab]
  | .engineOpRetire .. => [.faults, .bytes, .counts, .comp, .banks, .free]
  | .workItemComplete .. => faultAreas ++ [.bytes, .memCtl, .counts, .comp, .links, .fab]
  | .remoteSyncIncrement .. => [.comp]
  | .creditUpdate .. => [.boot, .dev, .faults, .db, .ports, .cmds, .graphs, .counts, .comp, .cairn, .out]
  | .clusterPowerGate .. => [.counts, .comp]
  | .clusterWake .. => [.counts, .comp]
  | .coreFailure .. => faultAreas ++ [.counts, .comp]
  | .clusterFailure .. => faultAreas ++ [.counts, .comp]
  | .pFillComplete .. => faultAreas ++ [.counts, .comp]
  | .pRunRetire .. => [.faults, .bytes, .counts, .comp, .banks, .free]
  | .bankPitchCheckStart .. => [.counts, .comp, .banks]
  | .bankCheckUrgent .. => [.counts, .comp, .banks, .therm]
  | .bankPitchCheckEnd .. => faultAreas ++ [.counts, .comp, .banks]
  | .bankRetuneWave .. => [.banks]
  | .bankRetuneDone .. => [.banks]
  | .bankOutOfRange .. => [.banks]
  | .bankBackInRange .. => [.banks]
  | .bankOverheat .. => [.boot, .dev, .faults, .db, .ports, .cmds, .graphs, .counts, .comp, .banks, .cairn, .out]
  | .bankWalkIdentify .. => [.boot, .dev, .faults, .db, .ports, .cmds, .graphs, .counts, .comp, .banks, .cairn, .out]
  | .bankWalkOrder .. => [.boot, .dev, .faults, .db, .ports, .cmds, .graphs, .counts, .comp, .banks, .cairn, .out]
  | .bankWalkStep .. => [.boot, .dev, .faults, .db, .ports, .cmds, .graphs, .counts, .comp, .banks, .cairn, .out]
  | .bankWalkVerify .. => [.boot, .dev, .faults, .db, .ports, .cmds, .graphs, .counts, .comp, .banks, .cairn, .out]
  | .bankWalkTimeout .. => [.boot, .dev, .faults, .db, .ports, .cmds, .graphs, .counts, .comp, .banks, .cairn, .out]
  | .combSparePoint .. => faultAreas ++ [.counts, .comp, .banks, .las]
  | .combPauseRequest .. => [.banks]
  | .combHandoverPause .. => [.dev, .db, .ports, .cmds, .banks, .las, .out]
  | .combLineFailure .. => faultAreas ++ [.counts, .comp, .banks, .las]
  | .combChipletFailure .. => faultAreas ++ [.counts, .comp, .banks, .las]
  | .laserSample .. => faultAreas ++ [.counts, .comp, .banks, .las, .chans, .links, .fab]
  | .laserFailure .. => faultAreas ++ [.counts, .comp, .banks, .las, .chans, .links, .fab]
  | .laserBandChange .. => faultAreas ++ [.counts, .comp, .banks, .las, .chans, .links, .fab]
  | .linkLaserSparePoint .. => faultAreas ++ [.counts, .las, .chans, .links, .fab]
  | .linkSpareSwitch .. => faultAreas ++ [.counts, .las, .chans, .links, .fab]
  | .linkSpareVerified .. => faultAreas ++ [.counts, .las, .chans, .links, .fab]
  | .portLaserSwitch .. => faultAreas ++ [.las, .links]
  | .laneMove .. => [.chans, .links]
  | .laneMoveAck .. => [.las, .chans, .links]
  | .laneMoveTimeout .. => faultAreas ++ [.counts, .las, .chans, .links, .fab]
  | .laneLossTimeout .. => [.chans, .links]
  | .laneRetire .. => faultAreas ++ [.counts, .las, .chans, .links, .fab]
  | .channelErrorInterval .. => faultAreas ++ [.chans]
  | .laneCheckDue .. => faultAreas ++ [.counts, .therm, .las, .chans, .links, .fab]
  | .checkStart .. => [.chans]
  | .checkReport .. => [.chans]
  | .checkResult .. => faultAreas ++ [.counts, .las, .chans, .links, .fab]
  | .chipletWalkIdentify .. => faultAreas ++ [.chans]
  | .chipletWalkOrder .. => faultAreas ++ [.chans]
  | .chipletWalkStep .. => faultAreas ++ [.chans]
  | .chipletWalkVerify .. => faultAreas ++ [.chans]
  | .chipletWalkTimeout .. => faultAreas ++ [.chans]
  | .codewordSlot .. => faultAreas ++ [.counts, .las, .chans, .links, .fab]
  | .codewordReceive .. => faultAreas ++ [.bytes, .memCtl, .stk, .counts, .comp, .las, .chans, .links, .fab]
  | .channelLock .. => [.chans]
  | .channelLockLoss .. => faultAreas ++ [.chans, .links]
  | .trainingAdvance .. => faultAreas ++ [.counts, .las, .chans, .links, .fab]
  | .trainingTimeout .. => faultAreas ++ [.counts, .las, .chans, .links, .fab]
  | .bivouacExitTimer .. => faultAreas ++ [.counts, .las, .chans, .links, .fab]
  | .activeAtReached .. => faultAreas ++ [.counts, .chans, .links, .fab]
  | .noPeerTimer .. => [.links]
  | .laneRetrain .. => faultAreas ++ [.counts, .las, .chans, .links, .fab]
  | .sleep .. => [.chans, .links]
  | .wake .. => [.links]
  | .beacon .. => [.chans, .links]
  | .beaconMiss .. => [.chans]
  | .testStart .. => [.chans]
  | .testEnd .. => [.chans]
  | .laneTestDurationEnd .. => faultAreas ++ [.counts, .las, .chans, .links, .fab]
  | .flitReceive .. => faultAreas ++ [.bytes, .memCtl, .stk, .counts, .comp, .las, .chans, .links, .fab]
  | .idleAckTimer .. => [.faults, .counts, .links, .out]
  | .replayTimer .. => [.counts, .chans, .links, .out]
  | .e2eCredit .. => faultAreas ++ [.counts, .comp, .links, .fab]
  | .e2eCreditTimer .. => faultAreas ++ [.counts, .links, .fab]
  | .creditReq .. => faultAreas ++ [.counts, .links, .fab]
  | .creditRetryTimer .. => faultAreas ++ [.counts, .comp, .links, .fab]
  | .entryIdleClose .. => faultAreas ++ [.counts, .links, .fab]
  | .closeAck .. => [.fab]
  | .peerReadReq .. => faultAreas ++ [.bytes, .memCtl, .stk, .counts, .links, .fab]
  | .peerWriteReq .. => faultAreas ++ [.bytes, .memCtl, .counts, .links, .fab]
  | .sendData .. => faultAreas ++ [.bytes, .memCtl, .counts, .comp, .links, .fab]
  | .fabricResponse .. => faultAreas ++ [.bytes, .memCtl, .counts, .comp, .links, .fab]
  | .sysMessage .. => faultAreas ++ [.bytes, .memCtl, .counts, .comp, .links, .fab]
  | .fabricRequestTimeout .. => faultAreas ++ [.bytes, .memCtl, .counts, .comp, .links, .fab]
  | .widthReq .. => faultAreas ++ [.counts, .las, .chans, .links, .fab]
  | .widthAck .. => [.links]
  | .widthSwitch .. => [.dev, .faults, .db, .ports, .cmds, .counts, .las, .chans, .links, .fab, .out]
  | .linkLeavesActive .. => faultAreas ++ [.counts, .las, .chans, .links, .fab]
  | .collContrib .. => faultAreas ++ [.bytes, .memCtl, .counts, .comp, .links, .fab]
  | .collResult .. => faultAreas ++ [.bytes, .memCtl, .counts, .comp, .links, .fab]
  | .reductionSlotTimeout .. => faultAreas ++ [.bytes, .memCtl, .counts, .comp, .links, .fab]
  | .timeSyncSend .. => [.clock, .faults, .counts, .links, .out]
  | .timeSync .. => faultAreas ++ [.clock]
  | .timeHoldover .. => [.clock]
  | .timebaseUpdate .. => [.clock]
  | .d2dSlotReceive .. => [.faults, .d2d, .out]
  | .d2dAckWord .. => [.d2d, .out]
  | .d2dRetryTimer .. => [.d2d, .out]
  | .sidebandMessage .. => faultAreas ++ [.pins, .mbx, .locks, .bytes, .memCtl, .counts, .comp, .las, .chans, .links, .fab, .d2d, .guest]
  | .sidebandRetryTimer .. => faultAreas ++ [.pins, .mbx, .locks, .bytes, .memCtl, .counts, .comp, .las, .chans, .links, .fab, .d2d, .guest]
  | .moduleLinkUp .. => faultAreas ++ [.pins, .mbx, .locks, .bytes, .memCtl, .counts, .comp, .las, .chans, .links, .fab, .d2d, .guest]
  | .moduleRetrain .. => faultAreas ++ [.pins, .mbx, .locks, .bytes, .memCtl, .counts, .comp, .las, .chans, .links, .fab, .d2d, .guest]
  | .recalibrationTimer .. => [.therm, .d2d, .out]
  | .clockLost .. => faultAreas ++ [.pins, .mbx, .locks, .bytes, .memCtl, .counts, .comp, .las, .chans, .links, .fab, .d2d, .guest]
  | .weightChange .. => [.d2d]
  | .emptySlotInsert .. => [.d2d, .out]
  | .guestRead .. => faultAreas ++ [.pins, .mbx, .locks, .bytes, .memCtl, .stk, .counts, .d2d, .guest]
  | .guestWrite .. => faultAreas ++ [.pins, .mbx, .locks, .bytes, .memCtl, .stk, .counts, .comp, .banks, .therm, .las, .chans, .links, .fab, .d2d, .guest]
  | .resetReq .. => [.mbx, .db, .locks, .d2d, .guest]
  | .temp .. => faultAreas ++ [.pins, .mbx, .locks, .d2d, .guest]
  | .guestTempTimeout .. => faultAreas ++ [.pins, .mbx, .locks, .d2d, .guest]
  | .guestFence .. => faultAreas ++ [.pins, .mbx, .locks, .d2d, .guest]
  | .dramRead .. => faultAreas ++ [.bytes, .memCtl, .stk, .counts]
  | .dramWrite .. => [.bytes, .memCtl, .counts]
  | .directoryRequest .. => [.bytes, .memCtl, .counts, .out, .free]
  | .recallAnswer .. => [.bytes, .memCtl, .counts, .out, .free]
  | .refresh .. => [.stk, .counts, .therm]
  | .refreshBandChange .. => [.stk]
  | .scrubRead .. => [.boot, .dev, .faults, .db, .ports, .cmds, .graphs, .bytes, .stk, .counts, .cairn, .therm, .out]
  | .rowRepair .. => [.stk]
  | .channelFailure .. => [.boot, .dev, .faults, .db, .ports, .cmds, .graphs, .memCtl, .stk, .cairn, .out]
  | .lostMemoryRewrite .. => [.bytes, .memCtl]
  | .sensorSample .. => faultAreas ++ [.locks, .bytes, .memCtl, .counts, .comp, .banks, .therm, .las, .chans, .links, .fab, .d2d]
  | .graceExpiry .. => [.counts, .comp, .therm, .out]
  | .enforcementGrid .. => [.counts, .comp, .therm, .out]
  | .thermalRelease .. => [.db, .ports, .cmds, .counts, .comp, .therm, .out]
  | .releaseRampTimer .. => [.counts, .comp, .therm, .out]
  | .band4NomHoldEnd .. => [.counts, .comp, .therm, .out]
  | .thermalShutdown .. => faultAreas ++ [.pins, .counts, .comp, .banks, .therm, .las, .chans, .links, .fab]
  | .powerLimiterTick .. => [.counts, .comp, .therm, .out]
  | .limiterHeld .. => [.db, .ports, .cmds, .therm, .out]
  | .railMoveDone .. => [.comp, .therm, .out]
  | .railMoveFailure .. => faultAreas ++ [.comp, .therm]
  | .rctlAlert .. => faultAreas ++ [.pins]
  | .flankRailOutOfRange .. => faultAreas ++ [.locks, .bytes, .memCtl, .counts, .comp, .las, .chans, .links, .fab, .d2d]
  | .refclkLoss .. => faultAreas ++ [.pins, .bytes, .memCtl, .counts, .comp, .banks, .las, .chans, .links, .fab]
  | .powerGoodLoss .. => faultAreas ++ [.pins, .clock, .mbx, .locks, .bytes, .memCtl, .stk, .counts, .comp, .banks, .therm, .las, .chans, .links, .fab, .d2d, .guest, .sec]
  | .packageReset .. => [.pins, .clock, .boot, .dev, .faults, .mbx, .db, .locks, .ports, .cmds, .graphs, .bytes, .memCtl, .stk, .counts, .comp, .banks, .cairn, .therm, .las, .chans, .links, .fab, .d2d, .guest, .sec, .free]
  | .colReset .. => [.boot, .dev, .mbx, .locks, .cmds, .graphs, .comp, .cairn, .therm, .fab, .sec]
  | .flankSoftReset .. => faultAreas ++ [.pins, .mbx, .locks, .bytes, .memCtl, .counts, .comp, .banks, .las, .chans, .links, .fab, .d2d, .guest]
  | .flankHardReset .. => faultAreas ++ [.pins, .mbx, .locks, .bytes, .memCtl, .counts, .comp, .banks, .las, .chans, .links, .fab, .d2d, .guest]
  | .flankLoss .. => faultAreas ++ [.locks, .bytes, .memCtl, .counts, .comp, .las, .chans, .links, .fab, .d2d]
  | .colBoot .. => [.pins, .clock, .boot, .dev, .faults, .db, .ports, .cmds, .graphs, .cairn, .out]
  | .nvmLoad .. => faultAreas ++ [.part, .pins, .clock, .mbx, .locks, .bytes, .memCtl, .stk, .counts, .comp, .banks, .therm, .las, .chans, .links, .fab, .d2d, .guest, .sec]
  | .agreementCheck .. => faultAreas ++ [.pins, .mbx, .locks, .bytes, .memCtl, .counts, .comp, .banks, .therm, .las, .chans, .links, .fab, .d2d, .guest, .sec]
  | .verweustLinksStep .. => faultAreas ++ [.pins, .mbx, .locks, .bytes, .memCtl, .counts, .comp, .las, .chans, .links, .fab, .d2d, .guest]
  | .memoryTraining .. => faultAreas ++ [.memCtl]
  | .laserWarmUp .. => faultAreas ++ [.pins, .mbx, .locks, .bytes, .memCtl, .counts, .comp, .banks, .therm, .las, .chans, .links, .fab, .d2d, .guest, .sec]
  | .preHeat .. => [.boot]
  | .preHeatChipletReady .. => faultAreas ++ [.counts, .las, .chans, .links, .fab]
  | .preHeatTimeout .. => faultAreas ++ [.counts, .comp, .banks, .therm]
  | .ringLock .. => faultAreas ++ [.pins, .mbx, .locks, .bytes, .memCtl, .counts, .comp, .banks, .therm, .las, .chans, .links, .fab, .d2d, .guest, .sec]
  | .clusterSelfTest .. => faultAreas ++ [.counts, .comp, .las, .chans, .links, .fab]
  | .fabricTraining .. => [.boot, .dev, .faults, .db, .ports, .cmds, .graphs, .counts, .comp, .cairn, .therm, .las, .sec, .out]
  | .bottomTreeReady .. => [.sec]
  | .dbgChallenge .. => [.out]
  | .dbgToken .. => faultAreas ++ [.sec]
  | .boundaryScan .. => [.sec, .out, .free]
  | .sysResp .. => faultAreas ++ [.bytes, .memCtl, .counts, .comp, .links, .fab]
  | .invalidateAck .. => [.bytes, .memCtl, .counts, .out, .free]
  | .recallRequest .. => [.memCtl, .out]
  | .fwStaged .. => faultAreas
  | .lightArrival .. => [.ports, .links]
  | .ringLockLoss .. => faultAreas ++ [.counts, .las, .chans, .links, .fab]

end Sys2Proof.Machine
end

