-- ==== Sys2Proof/Certificates/Slice0/Obligations.lean ====
section
/-!
DEFINITION. The statements about the G2 for the provers. Each says what the rules it cites give: where a row of the
table completes, what it leaves in the state, and what it leaves alone. `OnlyChanges areas s t` says that every area of
the state outside the list is as it was.
-/

open Sys2Proof Sys2Proof.Machine

/-- The rule of a step (log 1): the front of the queue is run with the queue's rest. -/
def Obligations.StepRunsFrontCommand : Prop :=
  ∀ (c : Instr) (rest : List Instr) (s : State),
    step { s with pending := c :: rest } = exec c { s with pending := rest }

/-- On an empty queue one nanosecond of the timebase passes and nothing else (R408; log 1: the model's choice). -/
def Obligations.EmptyQueueLetsTimePass : Prop :=
  ∀ s : State, s.pending = [] →
    ∃ t, step s = .next t ∧ t.clock.now = s.clock.now + 1 ∧ OnlyChanges [.clock] s t ∧ t.pending = []

/-- No row of the table has bits, so no word spells a command and `withFetchWord` changes nothing. -/
def Obligations.NoWordSpellsACommand : Prop :=
  ∀ (n w : Nat) (s : State), Sys2Proof.decodeTableWord n w = none ∧ s.withFetchWord n w = s

/-- Mailboxes: a post to an empty mailbox stores the word and sets FULL whatever the inbound mailbox holds, with CROSS on
both sides when that is FULL; a post to a FULL one is refused with FULL and changes nothing; a drain clears FULL and sets
ACKED at the sender, and rings the host when the firmware drains a host mailbox; the firmware holds its further words in
order, at most 16 (R225, R226, R230, R231).
Model choices and inferences it leans on: log 1. -/
def Obligations.MailboxRows : Prop :=
  (∀ (m : Master) (ch : MbxChan) (w : BitVec 64) (secure : Bool) (s : State), mbxOpen m ch secure s = true →
    m ≠ .firmware → partyOutFull ch s = false →
    ∃ t, exec (.mailboxWrite ⟨m, secure⟩ ch w) s = .next t ∧ (chanGet ch t).outWord = w ∧ (chanGet ch t).outFull = true ∧
      (chanGet ch t).innWord = (chanGet ch s).innWord ∧ (chanGet ch t).innFull = (chanGet ch s).innFull ∧
      ((chanGet ch s).innFull = true → (chanGet ch t).party.cross = true ∧ (chanGet ch t).fw.cross = true) ∧
      t.out = s.out ++ [.reply .ok 0] ∧ OnlyChanges [.mbx, .out] s t ∧
      ∀ other, other ≠ ch → chanGet other t = chanGet other s) ∧
  (∀ (m : Master) (ch : MbxChan) (w : BitVec 64) (secure : Bool) (s : State), mbxOpen m ch secure s = true →
    m ≠ .firmware → partyOutFull ch s = true →
    exec (.mailboxWrite ⟨m, secure⟩ ch w) s = .next (emit (.reply .full 0) s)) ∧
  (∀ (n : Nat) (m : Master) (w : BitVec 64) (s : State), 12 ≤ n → n < 24 → (m = .cp0 ∨ m = .cp1) →
    exec (.mailboxWrite ⟨m, false⟩ (.host n) w) s =
      .next (emit (.reply .denied 0) (secureFault (masterPort m) (0xFF00010000 + 0x20 * n) 2 0 s))) ∧
  (∀ (ch : MbxChan) (v : BitVec 64) (secure : Bool) (s : State), chanExists ch s = true → fwReaches s = true →
    (chanGet ch s).outFull = true →
    ∃ t, exec (.mailboxDrain ⟨.firmware, secure, v⟩ ch) s = .next t ∧ (chanGet ch t).outFull = false ∧
      (chanGet ch t).party.acked = true ∧ (chanGet ch t).outWord = (chanGet ch s).outWord ∧
      (∀ n, ch = .host n → t.db.hostStatus = s.db.hostStatus ||| (1 <<< n))) ∧
  (∀ (m : Master) (ch : MbxChan) (v : BitVec 64) (secure : Bool) (s : State), mbxOpen m ch secure s = true →
    m ≠ .firmware → (chanGet ch s).innFull = true →
    ∃ t, exec (.mailboxDrain ⟨m, secure, v⟩ ch) s = .next t ∧ (chanGet ch t).innFull = false ∧ (chanGet ch t).fw.acked = true ∧
      (chanGet ch t).innWord = (chanGet ch s).innWord ∧ OnlyChanges [.mbx] s t) ∧
  (∀ (n : Nat) (w : BitVec 64) (s : State), n < 24 → fwRuns s = true → s.cairn.frozen = false →
    fwOutFull (.host n) s = false → (chanGet (.host n) s).queue = [] →
    ∃ t, exec (.firmwareMailboxPost (.host n) (some w)) s = .next t ∧ (chanGet (.host n) t).innWord = w ∧
      (chanGet (.host n) t).innFull = true ∧ t.db.hostStatus = s.db.hostStatus ||| (1 <<< n) ∧
      OnlyChanges [.mbx, .db, .ports, .out] s t) ∧
  (∀ (ch : MbxChan) (w : BitVec 64) (s : State), chanExists ch s = true → fwRuns s = true → s.cairn.frozen = false →
    fwOutFull ch s = true → (chanGet ch s).queue.length < 16 →
    ∃ t, exec (.firmwareMailboxPost ch (some w)) s = .next t ∧
      (chanGet ch t).queue = (chanGet ch s).queue ++ [w] ∧ (chanGet ch t).innWord = (chanGet ch s).innWord ∧
      OnlyChanges [.mbx] s t)

/-- Doorbells: a ring of DB_FW_RING sets its bit where the frame may, and the bits of a frame without SECURE stay out of
bits 12–23 and 25 without a fault; DB_HOST_EPOCH is secure, and a new value rings bit 25, clears the firmware-to-host
mailboxes and releases the host's locks; DB_HOST_MASK keeps the secure bits of a frame without SECURE; the guest's ring
sets firmware doorbell bit 26 (R233, R234, R237, R508).
Locks: a read of a free lock returns OWNER 0 with the reader's id and takes the lock; a read of a held lock changes
nothing; a write of the holder's id releases it; any other write leaves every lock as it is and records a class C fault;
locks 48–63 refuse a frame without SECURE, and a lock that no firewall window grants the guest is refused to it (R240, R241,
R243).
Model choices and inferences it leans on: log 1. -/
def Obligations.DoorbellAndLockRows : Prop :=
  (∀ (n : Nat) (a : Access) (s : State), n < 26 → (a.secure = true ∨ n < 12 ∨ n = 24) →
    ∃ t, exec (.dbFwRingChannel n a) s = .next t ∧ t.db.fwStatus = s.db.fwStatus ||| (1 <<< n) ∧
      t.out = s.out ++ [.reply .ok 0] ∧ OnlyChanges [.db, .out] s t) ∧
  (∀ (n : Nat) (a : Access) (s : State), 12 ≤ n → n < 24 → a.secure = false →
    ∃ t, exec (.dbFwRingChannel n a) s = .next t ∧ t.db = s.db ∧ OnlyChanges [.out] s t) ∧
  (∀ (a : Access) (s : State), a.secure = true →
    ∃ t, exec (.dbFwRingHostEpoch a) s = .next t ∧ t.db.fwStatus = s.db.fwStatus ||| (1 <<< 25) ∧
      OnlyChanges [.db, .out] s t) ∧
  (∀ (v : BitVec 64) (a : Access) (s : State), a.secure = true → v ≠ s.db.epoch →
    ∃ t, exec (.dbHostEpochWrite v a) s = .next t ∧ t.db.epoch = v ∧
      t.db.fwStatus = s.db.fwStatus ||| (1 <<< 25) ∧ t.mbx.host = mapChans clearInn s.mbx.host ∧
      (∀ e ∈ t.locks, e.2.owner ≠ 2 ∧ e.2.owner ≠ 3) ∧
      OnlyChanges [.mbx, .db, .locks, .cmds, .out] s t) ∧
  (∀ (a : Access) (s : State), a.secure = true →
    ∃ t, exec (.dbHostEpochWrite s.db.epoch a) s = .next t ∧ t.db = s.db ∧ OnlyChanges [.cmds, .out] s t) ∧
  (∀ (v : BitVec 64) (a : Access) (s : State), a.secure = true → s.db.hostStatus = 0 →
    ∃ t, exec (.dbHostMaskWrite v a) s = .next t ∧ t.db.hostMask = v.setWidth 32 ∧
      t.db.hostStatus = s.db.hostStatus ∧ OnlyChanges [.db, .out] s t) ∧
  (∀ (v : BitVec 64) (a : Access) (s : State), a.secure = false →
    ∃ t, exec (.dbHostMaskWrite v a) s = .next t ∧
      t.db.hostMask &&& secureBits = s.db.hostMask &&& secureBits ∧
      OnlyChanges [.db, .ports, .out] s t) ∧
  (∀ (v : BitVec 64) (s : State), s.part.guest.isSome = true → v.getLsbD 0 = true →
    ∃ t, exec (.dbGuestRing v) s = .next t ∧ t.db.fwStatus = s.db.fwStatus ||| (1 <<< 26) ∧ OnlyChanges [.db] s t) ∧
  (∀ (m : Master) (k : Nat) (secure : Bool) (s : State), k < 64 → lockDenied m k false secure s = false →
    (tget {} s.locks k).owner = 0 →
    ∃ t, exec (.lkLockRead m k secure) s = .next t ∧ (tget {} t.locks k).owner = masterId m ∧
      t.out = s.out ++ [.lock m k (lockWord 0 m (tget {} s.locks k).releasedByReset)] ∧
      (∀ j, j ≠ k → tget {} t.locks j = tget {} s.locks j) ∧ OnlyChanges [.locks, .out] s t) ∧
  (∀ (m : Master) (k : Nat) (secure : Bool) (s : State), k < 64 → lockDenied m k false secure s = false →
    (tget {} s.locks k).owner ≠ 0 →
    ∃ t, exec (.lkLockRead m k secure) s = .next t ∧
      t.out = s.out ++ [.lock m k (lockWord (tget {} s.locks k).owner m (tget {} s.locks k).releasedByReset)] ∧
      OnlyChanges [.out] s t) ∧
  (∀ (m : Master) (k : Nat) (v : BitVec 64) (secure : Bool) (s : State), k < 64 → lockDenied m k true secure s = false →
    (tget {} s.locks k).owner ≠ 0 → v.setWidth 8 = (tget {} s.locks k).owner →
    ∃ t, exec (.lkLockWrite m k v secure) s = .next t ∧ t.locks = tset {} s.locks k {} ∧
      (∀ j, j ≠ k → tget {} t.locks j = tget {} s.locks j) ∧ OnlyChanges [.locks, .out] s t) ∧
  (∀ (m : Master) (k : Nat) (v : BitVec 64) (secure : Bool) (s : State), k < 64 → lockDenied m k true secure s = false →
    ((tget {} s.locks k).owner = 0 ∨ v.setWidth 8 ≠ (tget {} s.locks k).owner) →
    ∃ t, exec (.lkLockWrite m k v secure) s = .next t ∧ t.locks = s.locks ∧
      t.faults.entered = s.faults.entered + 1 ∧
      tget 0 t.faults.classes 0 = satInc 32 (tget 0 s.faults.classes 0)) ∧
  (∀ (k : Nat) (s : State), 48 ≤ k → k < 64 →
    ∃ t, exec (.lkLockRead .cp0 k false) s = .next t ∧ t.locks = s.locks ∧
      t.out.getLast? = some (.reply .denied 0) ∧ t.faults.entered = s.faults.entered + 1) ∧
  (∀ (k : Nat) (secure : Bool) (s : State), k < 64 → lockGranted k false s = false →
    exec (.lkLockRead .guest k secure) s = .next (emit (.reply .denied 0) s))

/-- A host frame as it arrives on a port that hears: without a sequence it is discarded and counted in AHEAD; with one
and a free slot a fresh request is accepted, takes a slot and its SEQ enters the record; with all 512 slots taken it is
counted in NO_SLOT; a frame with a bad check word is counted in BAD_CRC (R206, R212, R214).
RESYNC sets the host sequence: the slots and the kept responses are cleared, its SEQ is the highest accepted and the
last acted on, and one credit for it and one for every request thrown away are granted (R220); on a port that is not the
preferred one of two it is held first (R218). A host CREDIT frame raises the G2's allowance of HWIN requests (R215).
Model choices and inferences it leans on: log 16. -/
def Obligations.HostFrames : Prop :=
  (∀ (p : Port) (f : Frame) (s : State), hears p s = true → (f.crc ≠ frameCrc f ∨ f.length.toNat ≠ f.payload.length) →
    exec (.hostFrameReceive p f) s =
      .next { s with ports := { s.ports with discards := bump16 s.ports.discards 0 } }) ∧
  (∀ (p : Port) (f : Frame) (s : State), hears p s = true → f.crc = frameCrc f → f.length.toNat = f.payload.length →
    f.type ≠ 0x07 → s.ports.highest = none →
    ∃ t, exec (.hostFrameReceive p f) s = .next t ∧ t.ports.slots = s.ports.slots ∧ t.ports.highest = none ∧
      t.ports.discards = bump16 s.ports.discards 2 ∧ OnlyChanges [.ports] s t) ∧
  (∀ (p : Port) (f : Frame) (h : BitVec 32) (s : State), hears p s = true → f.crc = frameCrc f →
    f.length.toNat = f.payload.length → f.type ≠ 0x07 → f.type ≠ 0x08 → isHwinResp f = false →
    s.ports.highest = some h → above f.seq h = true → (f.seq - h).toNat ≤ 4096 → slotsUsed s < 512 →
    ∃ t, exec (.hostFrameReceive p f) s = .next t ∧ t.ports.highest = some f.seq ∧
      (∃ x ∈ t.ports.accepted, x.seq = f.seq ∧ x.crc = f.crc ∧ x.port = p) ∧
      (∃ x, t.ports.slots = s.ports.slots ++ [x] ∧ x.frame = f ∧ x.port = p ∧
        x.skewUntil = if copyHeld p s then some (s.clock.now + s.ports.skew) else none) ∧
      t.ports.requests = s.ports.requests + 1 ∧ OnlyChanges [.ports, .out] s t) ∧
  (∀ (p : Port) (f : Frame) (h : BitVec 32) (s : State), hears p s = true → f.crc = frameCrc f →
    f.length.toNat = f.payload.length → f.type ≠ 0x07 → f.type ≠ 0x08 → isHwinResp f = false →
    s.ports.highest = some h → above f.seq h = true → (f.seq - h).toNat ≤ 4096 → 512 ≤ slotsUsed s →
    ∃ t, exec (.hostFrameReceive p f) s = .next t ∧ t.ports.highest = some h ∧ t.ports.slots = s.ports.slots ∧
      t.ports.events = bump16 s.ports.events 3 ∧ OnlyChanges [.ports] s t) ∧
  (∀ (p : Port) (f : Frame) (s : State), hears p s = true → f.type = 0x07 → f.crc = frameCrc f →
    frameWellFormed f = true → resyncSeen f s = false → copyHeld p s = false →
    (∀ h, s.ports.resync = some h → h.frame.seq ≠ f.seq) →
    ∃ t, exec (.resync p f) s = .next t ∧ t.ports.slots = [] ∧ t.ports.highest = some f.seq ∧
      t.ports.accepted.map (·.seq) = [f.seq] ∧ t.ports.acted = f.seq ∧ t.ports.gap = none ∧ t.ports.resync = none ∧
      t.ports.credit = s.ports.credit + BitVec.ofNat 32 (slotsUsed s) + 1 ∧
      (s.ports.hwinWait = [] → t.ports.devSeq = s.ports.devSeq + 1) ∧ OnlyChanges [.ports, .out] s t) ∧
  (∀ (p : Port) (f : Frame) (s : State), hears p s = true → f.type = 0x07 → f.crc = frameCrc f →
    frameWellFormed f = true → resyncSeen f s = false → copyHeld p s = true →
    (∀ h, s.ports.resync = some h → h.frame.seq ≠ f.seq) →
    ∃ t, exec (.resync p f) s = .next t ∧ t.ports.slots = s.ports.slots ∧ t.ports.highest = s.ports.highest ∧
      (∃ h, t.ports.resync = some h ∧ h.frame = f ∧ h.port = p ∧ h.skewUntil = some (s.clock.now + s.ports.skew)) ∧
      t.ports.credit = s.ports.credit ∧ OnlyChanges [.ports, .out] s t) ∧
  (∀ (p : Port) (f : Frame) (s : State), hears p s = true → f.type = 0x08 → f.crc = frameCrc f →
    frameWellFormed f = true → s.ports.highest ≠ none → above f.credit s.ports.hostCredit = true →
    ∃ t, exec (.hostCreditFrame p f) s = .next t ∧ t.ports.hostCredit = f.credit ∧ OnlyChanges [.ports, .out] s t ∧
      (s.ports.hwinWait = [] → t = { s with ports := { s.ports with hostCredit := f.credit } }))

/-- The requests of a host frame when it is the next to act on: each is answered once, its slot granted again and its
response kept. REG_READ and REG_WRITE reach a register, BULK_WRITE and BULK_READ memory that passes its check, MBOX_POST
a mailbox (R207, R208, R213, R214, R216).
Model choices and inferences it leans on: log 86. -/
def Obligations.HostRequestsAnswered : Prop :=
  (∀ (p : Port) (f : Frame) (s : State), f.type = 0x01 → FrameIsNext f s →
    badRegAddr f.address.toNat = false → hostDenied (regOff f.address.toNat) (f.fflags.getLsbD 0) = none →
    regBlock (regOff f.address.toNat) ≠ 3 →
    ∃ t, exec (.regRead p f) s = .next t ∧
      Answered f .ok (leBytes 8 (BitVec.ofNat 64 (regValue (regOff f.address.toNat) (f.fflags.getLsbD 0) s)).toNat) s t ∧
      OnlyChanges [.ports, .out] s t) ∧
  (∀ (p : Port) (f : Frame) (s : State), f.type = 0x02 → FrameIsNext f s → badRegAddr f.address.toNat = false →
    hostDenied (regOff f.address.toNat) (f.fflags.getLsbD 0) = none →
    regOff f.address.toNat = 0x20020 → f.fflags.getLsbD 0 = true →
    ∃ t, exec (.regWrite p f) s = .next t ∧ Answered f .ok [] s t ∧
      t.db.epoch = BitVec.ofNat 64 (leNat f.payload)) ∧
  (∀ (p : Port) (f : Frame) (s : State), f.type = 0x03 → FrameIsNext f s →
    bulkCheck f.address.toNat f.payload.length true s = none → f.address.toNat < topOfDram s →
    (f.fflags.getLsbD 0 = true ∨ touchesSecureRing f.address.toNat f.payload.length s = false) →
    DramOpen f.address.toNat f.payload.length s →
    ∃ t, exec (.bulkWrite p f) s = .next t ∧ Answered f .ok [] s t ∧
      Stored f.address.toNat f.payload s t ∧ OnlyChanges [.bytes, .ports, .counts, .out] s t) ∧
  (∀ (p : Port) (f : Frame) (s : State), f.type = 0x03 → FrameIsNext f s → f.fflags.getLsbD 0 = false →
    touchesSecureRing f.address.toNat f.payload.length s = true →
    ∃ t, exec (.bulkWrite p f) s = .next t ∧ Answered f .denied [] s t ∧ t.mem = s.mem ∧
      t.faults.entered = s.faults.entered + 1) ∧
  (∀ (p : Port) (f : Frame) (s : State), f.type = 0x04 → FrameIsNext f s →
    bulkCheck f.address.toNat f.arg.toNat false s = none → f.address.toNat < topOfDram s →
    s.faults.poisonNext = [] → (s.mem.home = false ∨ s.mem.dir = []) →
    (∀ a, f.address.toNat ≤ a → a < f.address.toNat + f.arg.toNat → viewBad a s = false) →
    ∃ t, exec (.bulkRead p ⟨f, []⟩) s = .next t ∧ Answered f .ok (viewBytes f.address.toNat f.arg.toNat s) s t ∧
      OnlyChanges [.ports, .counts, .out] s t) ∧
  (∀ (p : Port) (f : Frame) (found : List (Nat × BadSymbols)) (s : State), f.type = 0x04 → FrameIsNext f s →
    bulkCheck f.address.toNat f.arg.toNat false s = none → f.address.toNat < topOfDram s →
    s.faults.poisonNext = [] → (s.mem.home = false ∨ s.mem.dir = []) →
    (∀ a, f.address.toNat ≤ a → a < f.address.toNat + f.arg.toNat → viewBad a s = false) →
    (∀ e ∈ found, badLine e.2 = false) →
    ∃ t, exec (.bulkRead p ⟨f, found⟩) s = .next t ∧
      Answered f .ok (viewBytes f.address.toNat f.arg.toNat s) s t) ∧
  (∀ (p : Port) (f : Frame) (s : State), f.type = 0x05 → FrameIsNext f s → field f.payload 0 1 < 12 →
    field f.payload 1 1 = 1 → field f.payload 2 6 = 0 → partyOutFull (.host (field f.payload 0 1)) s = false →
    ∃ t, exec (.mboxPost p f) s = .next t ∧ Answered f .ok [] s t ∧
      (chanGet (.host (field f.payload 0 1)) t).outWord = BitVec.ofNat 64 (field f.payload 8 8) ∧
      (chanGet (.host (field f.payload 0 1)) t).outFull = true ∧
      t.db.fwStatus = s.db.fwStatus ||| (1 <<< field f.payload 0 1) ∧
      OnlyChanges [.mbx, .db, .ports, .out] s t) ∧
  (∀ (p : Port) (f : Frame) (s : State), FrameIsNext f s → f.type = 0x01 → badRegAddr f.address.toNat = true →
    ∃ t, exec (.regRead p f) s = .next t ∧ Answered f .badArgument (leBytes 8 0) s t ∧ OnlyChanges [.ports, .out] s t)

/-- Port timers and the frames' waiting: a copy held past the skew limit waits no longer, a held RESYNC being acted
on, a gap is named after 50 µs and counted, a changed credit total goes out after 1 µs (R213, R214, R218).
The states of a control port: training ends in ACTIVE once the lane has accepted the far end, lock loss in DOWN with a class C fault and host doorbell
bit 29, and 100 ms at ACTIVE make it stable, CP0 then being preferred (R204, R217).
Model choices and inferences it leans on: log 19, 111. -/
def Obligations.ControlPorts : Prop :=
  (∀ (seq : BitVec 32) (s : State), s.ports.resync = none →
    ∃ t, exec (.skewLimitExpiry seq) s = .next t ∧ t.ports.slots.length = s.ports.slots.length ∧
      (∀ h ∈ t.ports.slots, h.frame.seq = seq → ∀ u, h.skewUntil = some u → s.clock.now < u) ∧
      OnlyChanges [.ports] s t) ∧
  (∀ (h : HeldFrame) (u : Nat) (s : State), s.ports.resync = some h → h.skewUntil = some u → u ≤ s.clock.now →
    ∃ t, exec (.skewLimitExpiry h.frame.seq) s = .next t ∧ t.ports.slots = [] ∧ t.ports.resync = none ∧
      t.ports.highest = some h.frame.seq ∧ t.ports.acted = h.frame.seq ∧ OnlyChanges [.ports, .out] s t) ∧
  (∀ (began : Nat) (s : State), s.ports.gap = some (began, none) → began + 50000 ≤ s.clock.now → gapOpen s = true →
    ∃ t, exec .gapTimerExpiry s = .next t ∧ t.ports.gap = some (began, some s.clock.now) ∧
      t.ports.events = bump16 s.ports.events 0 ∧ t.ports.devSeq = s.ports.devSeq + 1 ∧
      OnlyChanges [.ports, .out] s t) ∧
  (∀ s : State, s.ports.credit ≠ s.ports.creditSent → s.ports.creditAt + 1000 ≤ s.clock.now → anyActive s = true →
    ∃ t, exec .creditFrameTimer s = .next t ∧ t.ports.creditSent = s.ports.credit ∧
      t.ports.devSeq = s.ports.devSeq ∧ t.out.length = s.out.length + 1 ∧ OnlyChanges [.ports, .out] s t) ∧
  (∀ (p : Port) (s : State), (portSt p s).phase = .training → (portSt p s).fenced = false →
    s.dev.state ≠ .haltedThermal → (linkGet (portLink p) s).negDone = true →
    ∃ t, exec (.portActive p) s = .next t ∧ (portSt p t).phase = .active ∧ (portSt p t).stable = false ∧
      t.db.hostStatus.getLsbD 29 = true) ∧
  (∀ (p : Port) (s : State), (portSt p s).phase = .active →
    ∃ t, exec (.portLockLoss p) s = .next t ∧ (portSt p t).phase = .down ∧ (portSt p t).stable = false ∧
      t.faults.entered = s.faults.entered + 1 ∧ t.db.hostStatus.getLsbD 29 = true) ∧
  (∀ (p : Port) (s : State), (portSt p s).phase = .active → (portSt p s).stable = false →
    (portSt p s).activeAt + 100000000 ≤ s.clock.now →
    ∃ t, exec (.portStableTimer p) s = .next t ∧ (portSt p t).stable = true ∧
      (p = .cp0 → t.ports.preferred = some .cp0) ∧ OnlyChanges [.ports, .db, .out] s t)

/-- The host window: with a SPILL_HOST loan, a port ACTIVE and a credit, an access sends HWIN and waits for its answer, and
without a credit it waits to be sent; an answer takes the request off; a request unanswered for 100 µs goes again with a new SEQ, and the fourth fails with a
class D fault; without a port the access fails at once (R215, R221).
Model choices and inferences it leans on: log 58. -/
def Obligations.HostWindowRows : Prop :=
  (∀ (cluster off : Nat) (write : Bool) (data : List (BitVec 8)) (s : State), hostLoan s = true →
    off + data.length ≤ 2 ^ 36 → anyActive s = true → hwinCredit s = true → s.ports.hwinWait = [] →
    ∃ t, exec (.hostWindowAccess cluster write off data) s = .next t ∧
      (∃ q, t.ports.hwin = s.ports.hwin ++ [q] ∧ q.seq = s.ports.devSeq ∧ q.off = off ∧ q.write = write ∧
        q.cluster = cluster ∧ q.attempts = 1) ∧
      t.ports.hwinSent = s.ports.hwinSent + 1 ∧ t.ports.devSeq = s.ports.devSeq + 1 ∧
      OnlyChanges [.ports, .out] s t) ∧
  (∀ (cluster off : Nat) (write : Bool) (data : List (BitVec 8)) (s : State), hostLoan s = true →
    off + data.length ≤ 2 ^ 36 → anyActive s = true → (hwinCredit s = false ∨ s.ports.hwinWait ≠ []) →
    ∃ t, exec (.hostWindowAccess cluster write off data) s = .next t ∧ t.ports.hwin = s.ports.hwin ∧
      (∃ q, t.ports.hwinWait = s.ports.hwinWait ++ [q] ∧ q.off = off ∧ q.write = write ∧ q.cluster = cluster ∧
        q.attempts = 0) ∧ OnlyChanges [.ports] s t) ∧
  (∀ (cluster off : Nat) (write : Bool) (data : List (BitVec 8)) (s : State), hostLoan s = true →
    off + data.length ≤ 2 ^ 36 → anyActive s = false →
    ∃ t, exec (.hostWindowAccess cluster write off data) s = .next t ∧ t.ports.hwin = s.ports.hwin ∧
      t.ports.events = bump16 s.ports.events 2 ∧ t.faults.entered = s.faults.entered + 1) ∧
  (∀ (p : Port) (f : Frame) (q : HwinReq) (s : State), isNext f s ≠ none → isHwinResp f = true →
    s.ports.hwin.find? (fun x => x.seq = f.refSeq) = some q → f.arg.toNat % 256 = 0 →
    ∃ t, exec (.hwinResponse p f) s = .next t ∧ t.ports.acted = f.seq ∧
      (mreqCore false q.tag s = none → ∀ x ∈ t.ports.hwin, x.seq ≠ f.refSeq)) ∧
  (∀ (q : HwinReq) (s : State), s.ports.hwin.find? (fun x => x.seq = q.seq) = some q → q.attempts < 4 →
    anyActive s = true → hwinCredit s = true → s.ports.hwinWait = [] → q.sentAt + 100000 ≤ s.clock.now →
    ∃ t, exec (.hwinRetryTimer q.seq) s = .next t ∧
      (∃ r ∈ t.ports.hwin, r.seq = s.ports.devSeq ∧ r.off = q.off ∧ r.data = q.data ∧ r.attempts = q.attempts + 1 ∧
        r.sentAt = s.clock.now)) ∧
  (∀ (q : HwinReq) (s : State), s.ports.hwin.find? (fun x => x.seq = q.seq) = some q → 4 ≤ q.attempts →
    (anyActive s = true ∨ s.ports.hwinWait = []) → q.sentAt + 100000 ≤ s.clock.now →
    ∃ t, exec (.hwinRetryTimer q.seq) s = .next t ∧ s.faults.entered < t.faults.entered ∧
      (mreqCore false q.tag s = none → ∀ x ∈ t.ports.hwin, x.seq ≠ q.seq))

/-- Ring configuration (R515): a write of BASE or SIZE is taken as it stands while the ring's enable bit reads 0 and
ignored with OK while it reads 1; the enable bits read as written; COMMAND_RING checks the three rings, enables those
that pass, disables those that fail or whose bit is 0, reports each failure by RING_ERROR and leaves the bits as written. -/
def Obligations.RingConfigurationIsCheckedAtTheDoorbell : Prop :=
  (∀ (v : BitVec 64) (a : Access) (s : State), a.secure = true →
    ∃ t, exec (.ringConfigWrite .ctrl v a) s = .next t ∧ t.cmds.ctrl = ctrlField v ∧
      t.out = s.out ++ [.reply .ok 0] ∧ OnlyChanges [.cmds, .out] s t) ∧
  (∀ (v : BitVec 64) (a : Access) (s : State), a.secure = true →
    ∃ t, exec (.ringConfigWrite .nqBase v a) s = .next t ∧
      t.cmds.nq.base = (if s.cmds.ctrl.getLsbD 0 then s.cmds.nq.base else baseField v) ∧ t.cmds.ctrl = s.cmds.ctrl ∧
      t.out = s.out ++ [.reply .ok 0] ∧ OnlyChanges [.cmds, .out] s t) ∧
  (∀ (v : BitVec 64) (a : Access) (s : State), a.secure = true →
    ∃ t, exec (.ringConfigWrite .cqSize v a) s = .next t ∧
      t.cmds.cqSize = (if s.cmds.ctrl.getLsbD 2 then s.cmds.cqSize else sizeField v) ∧ t.cmds.ctrl = s.cmds.ctrl ∧
      t.out = s.out ++ [.reply .ok 0] ∧ OnlyChanges [.cmds, .out] s t) ∧
  (∀ (q : RingReg) (v : BitVec 64) (a : Access) (s : State), a.secure = true →
    ∃ t, exec (.ringConfigWrite q v a) s = .next t ∧ t.out = s.out ++ [.reply .ok 0] ∧
      (q ≠ .ctrl → t.cmds.ctrl = s.cmds.ctrl) ∧
      (s.cmds.ctrl.getLsbD 0 = true → t.cmds.nq = s.cmds.nq) ∧ (s.cmds.ctrl.getLsbD 1 = true → t.cmds.uq = s.cmds.uq) ∧
      (s.cmds.ctrl.getLsbD 2 = true → t.cmds.cqBase = s.cmds.cqBase ∧ t.cmds.cqSize = s.cmds.cqSize)) ∧
  (∀ (a : Access) (s : State), fwActs s = true →
    ∃ t, exec (.commandRing a) s = .next t ∧ t.cmds.ctrl = s.cmds.ctrl ∧
      ∀ r, ringOn r t = (ringBitSet r s && (ringFault r s).isNone) ∧
        (ringOn r t = true → ringSpan r s ∈ t.mem.ringHeld) ∧
        (∀ k, ringBitSet r s = true → ringFault r s = some k →
          Noticed 0xA (BitVec.ofNat 32 r.code) (BitVec.ofNat 64 k) s t))

/-- Announcements and descriptors: a drained word of a ring's channel sets PTOTAL to the announced total and restarts the
watchdog; the firmware takes the descriptor at CTOTAL, ends one with a bad CRC with INTEGRITY and one whose HSEQ is not
new with DUPLICATE, both without acceptance, and accepts one that passes checks 3 to 5 (R250, R251, R252).
Model choices and inferences it leans on: log 33. -/
def Obligations.AnnouncementAndDescriptorTake : Prop :=
  (∀ (ch : Nat) (w : BitVec 64) (s : State), ch < 24 → fwActs s = true → (tget {} s.mbx.host ch).outFull = true →
    (tget {} s.mbx.host ch).outWord = w → w >>> 32 = 0 → (ringsOn ch s).contains .normal = true →
    above s.cmds.nq.ctotal (w.setWidth 32) = false →
    (w.setWidth 32 - s.cmds.nq.ctotal).toNat ≤ (ringTaken .normal s).2 →
    ∃ t, exec (.announcement ch) s = .next t ∧ t.cmds.nq.ptotal = w.setWidth 32 ∧ t.cmds.nq.ctotal = s.cmds.nq.ctotal ∧
      (tget {} t.mbx.host ch).outFull = false ∧ t.cmds.wdSince = s.clock.now ∧ t.cmds.wdFired = false ∧
      OnlyChanges [.mbx, .db, .cmds, .ports, .out] s t) ∧
  (∀ (ch : Nat) (w : BitVec 64) (s : State), ch < 24 → fwActs s = true → (tget {} s.mbx.host ch).outFull = true →
    (tget {} s.mbx.host ch).outWord = w → w >>> 32 = 0 → ringsOn ch s = [.normal] →
    above s.cmds.nq.ctotal (w.setWidth 32) = false →
    (ringTaken .normal s).2 < (w.setWidth 32 - s.cmds.nq.ctotal).toNat →
    ∃ t, exec (.announcement ch) s = .next t ∧ t.cmds.nq.ptotal = s.cmds.nq.ptotal ∧ Noticed 0xA 0 5 s t) ∧
  (∀ (q : Queue) (s : State), fwActs s = true → available q s = true → (q = .normal → available .urgent s = false) →
    s.cmds.held.length < 4096 →
    crc32c ((nextDescriptor q s).take 60) = BitVec.ofNat 32 (field (nextDescriptor q s) 60 4) →
    above (BitVec.ofNat 32 (field (nextDescriptor q s) 0 4)) (ringOf q s).accepted = true →
    checks345 (parseDescriptor q (ringSecure q s) (nextDescriptor q s)) s = none →
    ∃ t, exec (.descriptorTake q) s = .next t ∧ (ringOf q t).ctotal = (ringOf q s).ctotal + 1 ∧
      (ringOf q t).accepted = BitVec.ofNat 32 (field (nextDescriptor q s) 0 4) ∧
      (∃ x, (ringOf q t).waiting = (ringOf q s).waiting ++ [x] ∧
        x.desc = parseDescriptor q (ringSecure q s) (nextDescriptor q s) ∧ x.tAccept = s.clock.now) ∧
      t.cmds.held = s.cmds.held ∧ OnlyChanges [.cmds] s t) ∧
  (∀ (q : Queue) (s : State), fwActs s = true → available q s = true → (q = .normal → available .urgent s = false) →
    s.cmds.held.length < 4096 →
    crc32c ((nextDescriptor q s).take 60) ≠ BitVec.ofNat 32 (field (nextDescriptor q s) 60 4) →
    ∃ t, exec (.descriptorTake q) s = .next t ∧ (ringOf q t).ctotal = (ringOf q s).ctotal + 1 ∧
      (ringOf q t).accepted = (ringOf q s).accepted ∧
      (∃ e ∈ t.cmds.held.drop s.cmds.held.length, e.status = .integrity) ∧ OnlyChanges [.cmds] s t) ∧
  (∀ (q : Queue) (s : State), fwActs s = true → available q s = true → (q = .normal → available .urgent s = false) →
    s.cmds.held.length < 4096 →
    crc32c ((nextDescriptor q s).take 60) = BitVec.ofNat 32 (field (nextDescriptor q s) 60 4) →
    above (BitVec.ofNat 32 (field (nextDescriptor q s) 0 4)) (ringOf q s).accepted = false →
    ∃ t, exec (.descriptorTake q) s = .next t ∧ (ringOf q t).accepted = (ringOf q s).accepted ∧
      (∃ e ∈ t.cmds.held.drop s.cmds.held.length, e.status = .duplicate) ∧ OnlyChanges [.cmds] s t)

/-- A command begins in its turn; a FENCE that is not met holds it back; the firmware posts the oldest held entry where the
ring has room, writing its 64 bytes at DSEQ mod size and advancing SYN_DSEQ_POSTED; bit 27 rings for a completion that is
not SILENT (R247, R253, R255, R256).
SYN_CQ_CONSUMED: a value ahead of SYN_DSEQ_POSTED is refused and changes nothing; any other is taken and restarts the
watchdog; SYN_GEN does not change (R516). A silent spell gives one WATCHDOG notice, and none again until the host is
active (R275). The firmware's doorbell handling clears every bit that is set and not masked (R235).
Model choices and inferences it leans on: log 90, 57. -/
def Obligations.CommandFlow : Prop :=
  (∀ (q : Queue) (a : Accepted) (rest : List Accepted) (s : State), fwActs s = true →
    (ringOf q s).waiting = a :: rest → fenceMet a s = true → legalNow a.desc s = true → a.desc.queue = q →
    a.desc.opcode = 0x0106 → a ∉ rest → a ∉ (ringOf q s).begun →
    ∃ t, exec (.commandBegin q) s = .next t ∧ (ringOf q t).waiting = rest ∧ t.cmds.wdInterval = a.desc.imm0 ∧
      Completed 0x0106 a.desc .ok s t ∧ OnlyChanges [.cmds] s t) ∧
  (∀ (q : Queue) (a : Accepted) (rest : List Accepted) (s : State), fwActs s = true →
    (ringOf q s).waiting = a :: rest → fenceMet a s = true → legalNow a.desc s = false →
    ∃ t, exec (.commandBegin q) s = .next t ∧ Completed a.desc.opcode a.desc .wrongState s t ∧ OnlyChanges [.cmds] s t) ∧
  (∀ (q : Queue) (a : Accepted) (rest : List Accepted) (s : State),
    (ringOf q s).waiting = a :: rest → fenceMet a s = false → exec (.commandBegin q) s = .next s) ∧
  (∀ (e : Entry) (rest : List Entry) (s : State), fwRuns s = true → s.cairn.frozen = false →
    s.cmds.held = e :: rest → ringRoom e s = true →
    DramOpen ((ringTaken .completion s).1 + 64 * (e.dseq.toNat % (ringTaken .completion s).2)) 64 s →
    (ringTaken .completion s).1 + 64 * (e.dseq.toNat % (ringTaken .completion s).2) < topOfDram s →
    ∃ t, exec .completionPost s = .next t ∧ t.cmds.held = rest ∧ t.cmds.posted = e.dseq ∧
      Stored ((ringTaken .completion s).1 + 64 * (e.dseq.toNat % (ringTaken .completion s).2)) (entryBytes e) s t ∧
      (t.db.hostStatus.getLsbD 27 = (s.db.hostStatus.getLsbD 27 || (!e.notice && !e.silent))) ∧
      OnlyChanges [.bytes, .cmds, .db, .ports, .out] s t) ∧
  (∀ (v : BitVec 64) (s : State), above (v.setWidth 32) s.cmds.posted = true →
    exec (.synCqConsumedWrite v) s = .next (emit (.reply .badArgument 0) s)) ∧
  (∀ (v : BitVec 64) (s : State), above (v.setWidth 32) s.cmds.posted = false →
    ∃ t, exec (.synCqConsumedWrite v) s = .next t ∧ t.cmds.consumed = v.setWidth 32 ∧ t.cmds.wdSince = s.clock.now ∧
      t.cmds.wdFired = false ∧ t.cmds.gen = s.cmds.gen ∧ t.out = s.out ++ [.reply .ok 0] ∧
      OnlyChanges [.cmds, .out] s t) ∧
  (∀ s : State, fwActs s = true → watchOut s = true → s.cmds.wdPause = false →
    ∃ t, exec .watchdogExpiry s = .next t ∧ t.cmds.wdFired = true ∧ t.graphs = s.graphs ∧
      Noticed 9 (s.cmds.wdInterval.setWidth 32) 0 s t ∧ exec .watchdogExpiry t = .next t) ∧
  (∀ s : State, fwActs s = true → watchOut s = true → s.cmds.wdPause = true →
    ∃ t, exec .watchdogExpiry s = .next t ∧ t.cmds.wdFired = true ∧
      Noticed 9 (s.cmds.wdInterval.setWidth 32) 1 s t ∧
      ∀ h ∈ handlesIn (· = .running) s, ∀ i g, graphAt h s = some (i, g) →
        (none, false) ∈ (slotGet i t).ending) ∧
  (∀ s : State, fwActs s = true →
    ∃ t, exec .firmwareDoorbellHandle s = .next t ∧
      (∀ i, i < 27 → s.db.fwMask.getLsbD i = false → t.db.fwStatus.getLsbD i = false) ∧
      (∀ i, s.db.fwMask.getLsbD i = true → t.db.fwStatus.getLsbD i = s.db.fwStatus.getLsbD i) ∧
      (s.db.fwStatus.getLsbD 25 = true → s.db.fwMask.getLsbD 25 = false → t.db.epochSeen = s.db.epoch))

/-- Host commands of the device group, each once it may begin: DEVICE_INFO writes its report, DEVICE_STANDBY enters STANDBY,
DEVICE_WAKE enters READY, DEVICE_RESET starts the reset its IMM0 names, DEVICE_LIMIT and DEVICE_WATCHDOG set what they
name, ACK_SLOWDOWN marks the request (R270–R275, R493).
Model choices and inferences it leans on: log 57. -/
def Obligations.DeviceCommands : Prop :=
  (∀ (d : Descriptor) (s : State), CanBegin 0x0101 d s → d.resAddr.toNat < topOfDram s →
    (infoBytes s).length ≤ d.resLen.toNat → DramOpen d.resAddr.toNat (infoBytes s).length s →
    ∃ t, exec (.deviceInfo d) s = .next t ∧ Completed 0x0101 d .ok s t ∧
      Stored d.resAddr.toNat (infoBytes s) s t ∧ OnlyChanges [.bytes, .cmds] s t) ∧
  (∀ (d : Descriptor) (s : State), CanBegin 0x0102 d s →
    ∃ t, exec (.deviceStandby d) s = .next t ∧ Completed 0x0102 d .ok s t ∧ t.dev.state = .standby) ∧
  (∀ (d : Descriptor) (w : WakeReport) (s : State), CanBegin 0x0103 d s → s.dev.waking = none →
    ∃ t, exec (.deviceWake d w) s = .next t ∧ Completed 0x0103 d .ok s t ∧ t.dev.state = .ready) ∧
  (∀ (d : Descriptor) (s : State), CanBegin 0x0104 d s → d.imm0.toNat % 16 = 1 →
    ∃ t, exec (.deviceReset d) s = .next t ∧ t.boot.colRestart = true ∧ t.dev.state = .booting ∧
      t.dev.colWait = some (rowAccepted 0x0104 d s) ∧ t.boot.step = 1) ∧
  (∀ (d : Descriptor) (s : State), CanBegin 0x0104 d s → d.imm0.toNat % 16 = 2 →
    flankBusy (flankOfNum (bitsOf d.imm0.toNat 8 8)) s = false →
    ∃ t, exec (.deviceReset d) s = .next t ∧ flankPhase (flankOfNum (bitsOf d.imm0.toNat 8 8)) t = .softReset) ∧
  (∀ (d : Descriptor) (s : State), CanBegin 0x0104 d s → (d.imm0.toNat % 16 = 2 ∨ d.imm0.toNat % 16 = 3) →
    flankBusy (flankOfNum (bitsOf d.imm0.toNat 8 8)) s = true →
    ∃ t, exec (.deviceReset d) s = .next t ∧ Completed 0x0104 d .busy s t ∧ OnlyChanges [.cmds] s t) ∧
  (∀ (d : Descriptor) (s : State), CanBegin 0x0105 d s → d.imm0.toNat % 4 ≠ 3 → 1000 ≤ d.imm1.toNat →
    ∃ t, exec (.deviceLimit d) s = .next t ∧ Completed 0x0105 d .ok s t ∧
      t.dev.maxPoint = Point.ofCode (d.imm0.toNat % 4) ∧ t.dev.limitW = min 2400 d.imm1.toNat) ∧
  (∀ (d : Descriptor) (s : State), CanBegin 0x0105 d s → d.imm1.toNat ≠ 0 → d.imm1.toNat < 1000 →
    ∃ t, exec (.deviceLimit d) s = .next t ∧ Completed 0x0105 d .badArgument s t ∧ OnlyChanges [.cmds] s t) ∧
  (∀ (d : Descriptor) (s : State), CanBegin 0x0106 d s →
    ∃ t, exec (.deviceWatchdog d) s = .next t ∧ Completed 0x0106 d .ok s t ∧ t.cmds.wdInterval = d.imm0 ∧
      t.cmds.wdPause = d.imm1.getLsbD 0 ∧ t.cmds.wdSince = s.clock.now ∧ t.cmds.wdFired = false ∧
      OnlyChanges [.cmds] s t) ∧
  (∀ (d : Descriptor) (x : Domain) (s : State), CanBegin 0x0701 d s → requestDomain d.target s = some x →
    (reqOf x s).enforcing = false → d.imm0.getLsbD 0 = false →
    ∃ t, exec (.ackSlowdown d) s = .next t ∧ Completed 0x0701 d .ok s t ∧
      reqOf x t = { reqOf x s with acked := true } ∧ OnlyChanges [.therm, .cmds] s t)

/-- Host commands of the memory group: MEM_SET_MODE rewrites the record and leaves the mode in force; MEM_LEND opens the
lowest free window; MEM_LEND_LIMIT sets the limit; MEM_RECLAIM closes a window, or returns BUSY for one in use without its
force flag (R186, R196, R197).
Model choices and inferences it leans on: log 57, 74, 49. -/
def Obligations.MemoryCommands : Prop :=
  (∀ (d : Descriptor) (s : State), CanBegin 0x0201 d s →
    ∃ t, exec (.memSetMode d) s = .next t ∧ Completed 0x0201 d .ok s t ∧ t.mem.homeNext = d.imm0.getLsbD 0 ∧
      t.mem.cacheNext = bitsOf d.imm0.toNat 3 2 ∧ t.mem.home = s.mem.home ∧ t.mem.cache = s.mem.cache ∧
      OnlyChanges [.memCtl, .cmds] s t) ∧
  (∀ (d : Descriptor) (i : Nat) (s : State), CanBegin 0x0202 d s → d.imm0.toNat % 2 ^ 21 = 0 →
    d.imm1.toNat % 2 ^ 21 = 0 → d.imm1.toNat ≠ 0 → d.imm0.toNat + d.imm1.toNat ≤ topOfDram s →
    (heldSpans s).any (overlaps (d.imm0.toNat, d.imm1.toNat)) = false → freeWindow s = some i →
    ∃ t w, exec (.memLend d) s = .next t ∧ Completed 0x0202 d .ok s t ∧ tget none t.mem.windows i = some w ∧
      w.base = d.imm0.toNat ∧ w.size = d.imm1.toNat) ∧
  (∀ (d : Descriptor) (s : State), CanBegin 0x0202 d s → d.imm0.toNat % 2 ^ 21 ≠ 0 →
    ∃ t, exec (.memLend d) s = .next t ∧ Completed 0x0202 d .badArgument s t ∧ OnlyChanges [.cmds] s t) ∧
  (∀ (d : Descriptor) (s : State), CanBegin 0x0203 d s →
    ∃ t, exec (.memLendLimit d) s = .next t ∧ Completed 0x0203 d .ok s t ∧ t.mem.lendLimit = d.imm0.toNat ∧
      OnlyChanges [.memCtl, .cmds] s t) ∧
  (∀ (d : Descriptor) (w : Loan) (s : State), CanBegin 0x0204 d s → d.target.toNat < 64 →
    tget none s.mem.windows d.target.toNat = some w → (w.inUse = false ∨ d.imm0.getLsbD 0 = true) →
    ∃ t, exec (.memReclaim d) s = .next t ∧ Completed 0x0204 d .ok s t ∧
      t.mem.windows = tset none s.mem.windows d.target.toNat none) ∧
  (∀ (d : Descriptor) (w : Loan) (s : State), CanBegin 0x0204 d s → d.target.toNat < 64 →
    tget none s.mem.windows d.target.toNat = some w → w.inUse = true → d.imm0.getLsbD 0 = false →
    ∃ t, exec (.memReclaim d) s = .next t ∧ Completed 0x0204 d .busy s t ∧ OnlyChanges [.cmds] s t)

/-- LOAD_BUNDLE of a bundle that passes its checks and fits takes the lowest free slot; VERIFY_BUNDLE makes the same
checks and loads nothing; PLACE of a graph whose placement fits keeps it; UNLOAD frees the slot in one step and advances
its generation (R144, R161, R164, R166).
Model choices and inferences it leans on: log 57, 68, 10. -/
def Obligations.BundleCommands : Prop :=
  (∀ (d : Descriptor) (b : Bundle) (i : Nat) (s : State), CanBegin 0x0301 d s → d.argAddr.toNat < 2 ^ 40 →
    d.argAddr.toNat < topOfDram s → d.resLen = 0 →
    checkBundle (viewBytes d.argAddr.toNat d.argLen.toNat s) s = .ok b → b.policy = 0 → freeSlot s = some i →
    loadNeed b (adoptedAt d b s).isSome ≤ rangeBytes (freeRanges s) →
    ∃ t, exec (.loadBundle d) s = .next t ∧ Completed 0x0301 d .ok s t ∧ (slotGet i t).state = some .loaded ∧
      (slotGet i t).b = b ∧ (slotGet i t).gen = (slotGet i s).gen ∧
      (∃ e ∈ t.cmds.held.drop s.cmds.held.length, e.detail = handleOf i (slotGet i t))) ∧
  (∀ (d : Descriptor) (b : Bundle) (s : State), CanBegin 0x0302 d s → d.argAddr.toNat < 2 ^ 40 →
    d.argAddr.toNat < topOfDram s → 64 ≤ d.resLen.toNat →
    checkBundle (viewBytes d.argAddr.toNat d.argLen.toNat s) s = .ok b → b.policy = 0 →
    loadNeed b (adoptedAt d b s).isSome ≤ rangeBytes (freeRanges s) →
    ∃ t, exec (.verifyBundle d) s = .next t ∧ Completed 0x0302 d .ok s t ∧ t.graphs = s.graphs) ∧
  (∀ (d : Descriptor) (i : Nat) (g : Graph) (w : FitWait) (s : State), CanBegin 0x0303 d s →
    graphAt d.target s = some (i, g) → g.state = some .loaded → PlaceFits d i g w s →
    ∃ t, exec (.place d) s = .next t ∧ Completed 0x0303 d .ok s t ∧ (slotGet i t).state = some .placed ∧
      (slotGet i t).placed = (planOf w i d.target (slotSet i (unplaced g) s)).placed) ∧
  (∀ (d : Descriptor) (i : Nat) (g : Graph) (s : State), CanBegin 0x0308 d s → graphAt d.target s = some (i, g) →
    g.state ≠ some .running → g.state ≠ some .paused →
    ∃ t, exec (.unload d) s = .next t ∧ Completed 0x0308 d .ok s t ∧
      t.graphs.slot = tset {} s.graphs.slot i { gen := (g.gen + 1) % 2 ^ 26 })

/-- START of a placed graph with right arguments adds an execution and makes the graph RUNNING; PAUSE and ABORT begin their
ending; RESUME returns a paused graph to RUNNING; each returns WRONG_STATE for a graph in no state of its own
(R165, R264, R269).
Model choices and inferences it leans on: log 57. -/
def Obligations.GraphCommands : Prop :=
  (∀ (d : Descriptor) (i : Nat) (g : Graph) (binds : List (Nat × Nat × Nat)) (rows : List (List Nat)) (s : State),
    CanBegin 0x0304 d s → graphAt d.target s = some (i, g) → g.state = some .placed → g.lost = false →
    startArgs { d with opcode := 0x0304 } g.b s = some (binds, rows) → (placedIds g).all (fun x => !exposedFenced x s) = true →
    startRoom g = true →
    ∃ t x, exec (.start d) s = .next t ∧ (slotGet i t).state = some .running ∧ (slotGet i t).pending = g.pending ++ [x] ∧
      x.cmd = rowAccepted 0x0304 d s ∧ x.bindings = binds ∧ x.begun = false) ∧
  (∀ (d : Descriptor) (i : Nat) (g : Graph) (s : State), CanBegin 0x0305 d s → targetAll d = false →
    graphAt d.target s = some (i, g) → g.state = some .running →
    ∃ t, exec (.pause d) s = .next t ∧ slotGet i t = { g with ending := g.ending ++ [(some (rowAccepted 0x0305 d s), false)] } ∧
      OnlyChanges [.graphs, .cmds] s t) ∧
  (∀ (d : Descriptor) (i : Nat) (g : Graph) (s : State), CanBegin 0x0306 d s → targetAll d = false →
    graphAt d.target s = some (i, g) → g.state = some .paused → FabricQuiet s →
    ∃ t, exec (.resume d) s = .next t ∧ Completed 0x0306 d .ok s t ∧ slotGet i t = { g with state := some .running }) ∧
  (∀ (d : Descriptor) (i : Nat) (g : Graph) (s : State), CanBegin 0x0307 d s → targetAll d = false →
    graphAt d.target s = some (i, g) → (g.state = some .running ∨ g.state = some .paused) →
    ∃ t, exec (.abort d) s = .next t ∧
      slotGet i t = { g with ending := g.ending ++ [(some (rowAccepted 0x0307 d s), true)] } ∧
      OnlyChanges [.graphs, .comp, .cmds] s t) ∧
  (∀ (d : Descriptor) (i : Nat) (g : Graph) (s : State), CanBegin 0x0305 d s → targetAll d = false →
    graphAt d.target s = some (i, g) → g.state ≠ some .running →
    ∃ t, exec (.pause d) s = .next t ∧ Completed 0x0305 d .wrongState s t ∧ OnlyChanges [.cmds] s t) ∧
  (∀ (d : Descriptor) (i : Nat) (g : Graph) (s : State), CanBegin 0x0304 d s → graphAt d.target s = some (i, g) →
    g.state = some .stale →
    ∃ t, exec (.start d) s = .next t ∧ Completed 0x0304 d .integrity s t ∧ OnlyChanges [.cmds] s t)

/-- FAB_STATUS writes its report; FAB_CONFIG with an argument that keeps its rules puts the fabric record in force and one
that does not returns BAD_ARGUMENT with the record unchanged; FAB_LINK_CTRL 1 disables a link; COUNTERS_ENABLE enables
and zeroes the kinds it names and disables the others; COUNTERS_READ writes a record for each unit named
(R362, R376, R377, R463, R467).
Model choices and inferences it leans on: log 57, 74. -/
def Obligations.FabricAndCounterCommands : Prop :=
  (∀ (d : Descriptor) (s : State), CanBegin 0x0401 d s → d.resAddr.toNat < topOfDram s →
    (fabBytes s).length ≤ d.resLen.toNat → DramOpen d.resAddr.toNat (fabBytes s).length s →
    ∃ t, exec (.fabStatus d) s = .next t ∧ Completed 0x0401 d .ok s t ∧ Stored d.resAddr.toNat (fabBytes s) s t ∧
      OnlyChanges [.bytes, .cmds] s t) ∧
  (∀ (d : Descriptor) (s : State), CanBegin 0x0402 d s → (argBytes d s).2 = s →
    fabOk (fabArg (argBytes d s).1) s = true →
    ∃ t, exec (.fabConfig d) s = .next t ∧ Completed 0x0402 d .ok s t ∧ t.fab.configured = true ∧
      t.fab.id = (fabWanted (fabArg (argBytes d s).1) s).id ∧ t.fab.extent = (fabWanted (fabArg (argBytes d s).1) s).extent ∧
      t.fab.timeoutUs = (fabWanted (fabArg (argBytes d s).1) s).timeoutUs) ∧
  (∀ (d : Descriptor) (s : State), CanBegin 0x0402 d s → (argBytes d s).2 = s →
    fabOk (fabArg (argBytes d s).1) s = false →
    ∃ t, exec (.fabConfig d) s = .next t ∧ Completed 0x0402 d .badArgument s t ∧ OnlyChanges [.cmds] s t) ∧
  (∀ (d : Descriptor) (s : State), CanBegin 0x0403 d s → d.target.toNat < 32 → d.imm0 = 1 →
    linkFenced d.target.toNat s = false →
    ∃ t, exec (.fabLinkCtrl d) s = .next t ∧ Completed 0x0403 d .ok s t ∧ (linkGet d.target.toNat t).disabled = true ∧
      (linkGet d.target.toNat t).st = .dark) ∧
  (∀ (d : Descriptor) (s : State), CanBegin 0x0501 d s → d.imm0.toNat < 16 → d.imm1.toNat < 2 →
    ∃ t, exec (.countersEnable d) s = .next t ∧ Completed 0x0501 d .ok s t ∧
      (∀ k f, k < 4 → counting k f t = d.imm0.getLsbD k) ∧ t.counts.autoReset = decide (d.imm1.toNat = 1) ∧
      (d.imm0.getLsbD 0 = true → t.counts.clusters = []) ∧ (d.imm0.getLsbD 0 = false → t.counts.clusters = s.counts.clusters) ∧
      OnlyChanges [.counts, .cmds] s t) ∧
  (∀ (d : Descriptor) (s : State), CanBegin 0x0502 d s → d.target.toNat / 4096 = 5 → d.target.toNat % 4096 < 8 →
    d.resAddr.toNat < topOfDram s → (sampleUnit d.target.toNat s).length ≤ d.resLen.toNat →
    DramOpen d.resAddr.toNat (sampleUnit d.target.toNat s).length s →
    ∃ t, exec (.countersRead d) s = .next t ∧ Completed 0x0502 d .ok s t ∧
      Stored d.resAddr.toNat (sampleUnit d.target.toNat s) s t ∧ OnlyChanges [.bytes, .counts, .cmds] s t)

/-- CAIRN_ARM reserves the area and arms, IMM0 0 disarms, STALL without a time returns BAD_ARGUMENT; CAIRN_TAKE starts a take
from ARMED or joins one in progress (R468, R469).
Model choices and inferences it leans on: log 57, 40. -/
def Obligations.CairnArmAndTake : Prop :=
  (∀ (d : Descriptor) (s : State), CanBegin 0x0503 d s → s.cairn.state ≠ .taking → d.imm0.toNat ≠ 0 →
    bitsOf d.imm0.toNat 15 5 = 0 → d.imm0.toNat < 2 ^ 32 → (d.imm0.getLsbD 4 = true → bitsOf d.imm0.toNat 31 16 ≠ 0) →
    areaHeld s = false →
    ∃ t, exec (.cairnArm d) s = .next t ∧ Completed 0x0503 d .ok s t ∧ t.cairn.state = .armed ∧
      t.cairn.armed = d.imm0.toNat % 32 ∧ t.cairn.stallMs = bitsOf d.imm0.toNat 31 16 ∧ t.cairn.area = true ∧
      OnlyChanges [.cairn, .cmds] s t) ∧
  (∀ (d : Descriptor) (s : State), CanBegin 0x0503 d s → s.cairn.state ≠ .taking → d.imm0 = 0 →
    ∃ t, exec (.cairnArm d) s = .next t ∧ Completed 0x0503 d .ok s t ∧ t.cairn.state = .disarmed ∧ t.cairn.armed = 0 ∧
      t.cairn.area = false ∧ OnlyChanges [.cairn, .cmds] s t) ∧
  (∀ (d : Descriptor) (s : State), CanBegin 0x0503 d s → s.cairn.state ≠ .taking → d.imm0.getLsbD 4 = true →
    bitsOf d.imm0.toNat 31 16 = 0 →
    ∃ t, exec (.cairnArm d) s = .next t ∧ Completed 0x0503 d .badArgument s t ∧ OnlyChanges [.cmds] s t) ∧
  (∀ (d : Descriptor) (s : State), CanBegin 0x0504 d s → s.cairn.state = .armed →
    ∃ t, exec (.cairnTake d) s = .next t ∧ t.cairn.state = .taking ∧ t.cairn.trigger = 0 ∧ t.cairn.seen = 1 ∧
      t.cairn.frozen = true ∧ t.cairn.tTrigger = s.clock.now ∧
      t.cairn.waiting = s.cairn.waiting ++ [rowAccepted 0x0504 d s] ∧ OnlyChanges [.cairn, .cmds] s t) ∧
  (∀ (d : Descriptor) (s : State), CanBegin 0x0504 d s → s.cairn.state = .taken →
    ∃ t, exec (.cairnTake d) s = .next t ∧ Completed 0x0504 d .busy s t ∧ OnlyChanges [.cmds] s t)

/-- CAIRN_READ copies RESULT_LEN bytes from offset IMM0 of the Cairn area to RESULT_ADDR; it returns BUSY during TAKING, and
BAD_ARGUMENT in DISARMED or ARMED or when the span passes 0x494_0000; the snapshot stays (R476). -/
def Obligations.CairnReadCopiesTheSnapshot : Prop :=
  (∀ (d : Descriptor) (s : State), CanBegin 0x0505 d s → s.cairn.state = .taken →
    d.imm0.toNat + d.resLen.toNat ≤ 0x4940000 → d.resAddr.toNat < topOfDram s →
    DramOpen d.resAddr.toNat d.resLen.toNat s →
    ∃ t, exec (.cairnRead d) s = .next t ∧ Completed 0x0505 d .ok s t ∧
      Stored d.resAddr.toNat (viewBytes (cairnBase s + d.imm0.toNat) d.resLen.toNat s) s t ∧
      OnlyChanges [.bytes, .cmds] s t) ∧
  (∀ (d : Descriptor) (s : State), CanBegin 0x0505 d s → s.cairn.state = .taking →
    ∃ t, exec (.cairnRead d) s = .next t ∧ Completed 0x0505 d .busy s t ∧ OnlyChanges [.cmds] s t) ∧
  (∀ (d : Descriptor) (s : State), CanBegin 0x0505 d s → (s.cairn.state = .disarmed ∨ s.cairn.state = .armed) →
    ∃ t, exec (.cairnRead d) s = .next t ∧ Completed 0x0505 d .badArgument s t ∧ OnlyChanges [.cmds] s t) ∧
  (∀ (d : Descriptor) (s : State), CanBegin 0x0505 d s → s.cairn.state = .taken →
    0x4940000 < d.imm0.toNat + d.resLen.toNat →
    ∃ t, exec (.cairnRead d) s = .next t ∧ Completed 0x0505 d .badArgument s t ∧ OnlyChanges [.cmds] s t)

/-- FAULT_READ of 0xFFFF_FFFF writes the whole dump and of one source its open record; FAULT_CLEAR removes a record that
nothing keeps, and returns STILL_ACTIVE while its cause persists or its count has moved; FAULT_FORCE enters the event with
FORCED set and fences the unit of class U (R458, R459, R460).
Model choices and inferences it leans on: log 57, 87, 38. -/
def Obligations.FaultCommands : Prop :=
  (∀ (d : Descriptor) (s : State), CanBegin 0x0601 d s → d.target = 0xFFFFFFFF → d.resAddr.toNat < topOfDram s →
    (faultDump s).length ≤ d.resLen.toNat → DramOpen d.resAddr.toNat (faultDump s).length s →
    ∃ t, exec (.faultRead d) s = .next t ∧ Completed 0x0601 d .ok s t ∧ Stored d.resAddr.toNat (faultDump s) s t ∧
      OnlyChanges [.bytes, .cmds] s t) ∧
  (∀ (d : Descriptor) (i : Nat) (r : FaultRec) (s : State), CanBegin 0x0602 d s → d.target.toNat < 65536 →
    sourceCheck d.target.toNat s = none → recordOf (groupKey d.target.toNat) s = some (i, r) →
    d.imm0.toNat % 2 ^ 32 = r.count → causePersists (groupKey d.target.toNat) r.cls s = false →
    ∃ t, exec (.faultClear d) s = .next t ∧ Completed 0x0602 d .ok s t ∧
      t.faults.records = tset none s.faults.records i none ∧ t.faults.fenced = s.faults.fenced ∧
      t.faults.hist = s.faults.hist ∧ (r.holdsFirst = true → t.faults.first = none) ∧
      OnlyChanges [.faults, .cmds] s t) ∧
  (∀ (d : Descriptor) (i : Nat) (r : FaultRec) (s : State), CanBegin 0x0602 d s → d.target.toNat < 65536 →
    sourceCheck d.target.toNat s = none → recordOf (groupKey d.target.toNat) s = some (i, r) →
    causePersists (groupKey d.target.toNat) r.cls s = true →
    ∃ t, exec (.faultClear d) s = .next t ∧ Completed 0x0602 d .stillActive s t ∧ OnlyChanges [.cmds] s t) ∧
  (∀ (d : Descriptor) (s : State), CanBegin 0x0603 d s → d.target.toNat < 65536 → sourceCheck d.target.toNat s = none →
    d.imm0.toNat % 4 = 0 →
    ∃ t, exec (.faultForce d) s = .next t ∧ Completed 0x0603 d .ok s t ∧ Faulted d.target.toNat .c s t ∧
      (tget {} t.faults.hist (s.faults.entered % 16)).flags.getLsbD 4 = true ∧ t.faults.fenced = s.faults.fenced) ∧
  (∀ (d : Descriptor) (s : State), CanBegin 0x0603 d s → d.target.toNat / 4096 = 13 → d.target.toNat % 4096 < 2 →
    d.imm0.toNat % 4 = 2 →
    ∃ t, exec (.faultForce d) s = .next t ∧ Completed 0x0603 d .ok s t ∧ Fenced d.target.toNat 0 t)

/-- ATTEST uses the next leaf and never one twice; CLAIM_OWNER that fails its form changes no owner; FW_UPDATE starts the
write of an image that passes and ends with INTEGRITY for any other (R480, R483, R484, R486).
Model choices and inferences it leans on: log 57, 78, 52, 8, 80. -/
def Obligations.SecurityCommands : Prop :=
  (∀ (d : Descriptor) (s : State), CanBegin 0x0801 d s → d.argLen = 32 → s.part.identityBad = false →
    s.sec.nextLeaf < 2 ^ 25 → quoteWait s = 0 → s.sec.nextLeaf < s.sec.trees * 2 ^ 15 → quoteSize d ≤ d.resLen.toNat →
    Leaves.ok s.sec →
    ∃ t, exec (.attest d) s = .next t ∧ Completed 0x0801 d .ok s t ∧ t.sec.nextLeaf = s.sec.nextLeaf + 1 ∧
      s.sec.nextLeaf < t.sec.reserved ∧ t.sec.quotedAt = some s.clock.now) ∧
  (∀ (d : Descriptor) (s : State), CanBegin 0x0801 d s → d.argLen = 32 → s.part.identityBad = false →
    s.sec.nextLeaf = 2 ^ 25 →
    ∃ t, exec (.attest d) s = .next t ∧ Completed 0x0801 d .keyExhausted s t ∧ OnlyChanges [.cmds] s t) ∧
  (∀ (d : Descriptor) (s : State), CanBegin 0x0802 d s → (argBytes d s).2 = s →
    ∃ t, exec (.claimOwner d) s = .next t ∧
      (if claimForm (argBytes d s).1.length (claimOf (argBytes d s).1) = true ∧
          (claimOf (argBytes d s).1).serial = s.part.serial.toNat ∧
          BitVec.ofNat 32 (claimOf (argBytes d s).1).counter = s.sec.ownerCounter + 1 ∧
          claimAllowed (claimOf (argBytes d s).1) s = true ∧
          hssLength (claimOf (argBytes d s).1).signature = some (claimOf (argBytes d s).1).sigLen ∧
          Config.hssVerify (claimKey (claimOf (argBytes d s).1) s) (claimOf (argBytes d s).1).message
            (claimOf (argBytes d s).1).signature = true
       then Completed 0x0802 d .ok s t ∧ t.sec = claimEffect (claimOf (argBytes d s).1) s.sec
       else OnlyChanges [.cmds] s t)) ∧
  (∀ (d : Descriptor) (s : State), CanBegin 0x0803 d s → (argBytes d s).2 = s → s.boot.update = none → d.argLen ≠ 0 →
    d.argLen.toNat ≤ 2 ^ 24 →
    ∃ t, exec (.fwUpdate d) s = .next t ∧
      (if imagePasses (imageCheck (argBytes d s).1) s = true
       then t.boot.update = some (updateSlot d s, imageCheck (argBytes d s).1, rowAccepted 0x0803 d s) ∧
         OnlyChanges [.boot, .cmds] s t
       else Completed 0x0803 d .integrity s t ∧ OnlyChanges [.cmds] s t)) ∧
  (∀ (d : Descriptor) (s : State), CanBegin 0x0803 d s → s.boot.update.isSome = true →
    ∃ t, exec (.fwUpdate d) s = .next t ∧ Completed 0x0803 d .busy s t ∧ OnlyChanges [.cmds] s t)

/-- An access to a Col register that is not of a naturally aligned 64-bit word is answered with BAD_ARGUMENT in the
response frame, and changes no register (R7). -/
def Obligations.UnalignedRegisterAccess : Prop :=
  (∀ (p : Port) (f : Frame) (s : State), isNext f s ≠ none → f.type = 0x01 → f.address.toNat % 8 ≠ 0 →
    ∃ t answer, exec (.regRead p f) s = .next t ∧ Answered f .badArgument answer s t ∧ OnlyChanges [.ports, .out] s t) ∧
  (∀ (p : Port) (f : Frame) (s : State), isNext f s ≠ none → f.type = 0x02 →
    (f.address.toNat % 8 ≠ 0 ∨ f.payload.length ≠ 8) →
    ∃ t answer, exec (.regWrite p f) s = .next t ∧ Answered f .badArgument answer s t ∧ OnlyChanges [.ports, .out] s t) ∧
  (∀ (addr : BitVec 40) (v : BitVec 64) (a : Access) (s : State), addr.toNat % 8 ≠ 0 →
    exec (.registerWrite addr v a) s = .next (emit (.reply .badArgument 0) s))

/-- Every host, peer and guest access to the CNT_ block is refused with DENIED; counters are read with COUNTERS_READ
(R506). -/
def Obligations.CounterBlockIsTheFirmwaresAlone : Prop :=
  (∀ (p : Port) (f : Frame) (s : State), FrameIsNext f s → f.type = 0x01 → badRegAddr f.address.toNat = false →
    regBlock (regOff f.address.toNat) = 8 →
    ∃ t answer, exec (.regRead p f) s = .next t ∧ Answered f .denied answer s t ∧ OnlyChanges [.ports, .out] s t) ∧
  (∀ (p : Port) (f : Frame) (s : State), FrameIsNext f s → f.type = 0x02 → badRegAddr f.address.toNat = false →
    regBlock (regOff f.address.toNat) = 8 →
    ∃ t, exec (.regWrite p f) s = .next t ∧ Answered f .denied [] s t ∧ OnlyChanges [.ports, .out] s t) ∧
  (∀ (addr : BitVec 40) (v : BitVec 64) (a : Access) (s : State), badRegAddr addr.toNat = false →
    regBlock (regOff addr.toNat) = 8 → exec (.registerWrite addr v a) s = .next (emit (.reply .denied 0) s)) ∧
  (∀ (pkg : Nat) (tag : BitVec 32) (addr : BitVec 64) (found : List (Nat × BadSymbols)) (s : State),
    s.mem.inService.length ≤ 8 → 0xFF00080000 ≤ addr.toNat → addr.toNat < 0xFF00090000 →
    exec (.peerReadReq pkg tag addr ⟨8, found⟩) s = .next (respond 0x18 (pkg % 2 ^ 20) tag .denied false [] s)) ∧
  (∀ (pkg : Nat) (tag : BitVec 32) (addr : BitVec 64) (data : List (BitVec 8)) (s : State),
    s.mem.inService.length ≤ 8 → 0xFF00080000 ≤ addr.toNat → addr.toNat < 0xFF00090000 → data.length = 8 →
    exec (.peerWriteReq pkg tag addr data) s = .next (respond 0x19 (pkg % 2 ^ 20) tag .denied false [] s)) ∧
  (∀ (r : GuestReq) (found : List (Nat × BadSymbols)) (off : Nat) (s : State), guestUp s = true →
    guestWellFormed 1 r = true → guestReg r.addr.toNat = true → guestRegAt r = some off → regBlock off = 8 →
    ∃ t, exec (.guestRead ⟨r, found⟩) s = .next t ∧
      .guest (r.opcode ||| 0x80) r.tag .denied [] (List.replicate r.len.toNat true) ∈ t.out ∧
      t.counts = s.counts) ∧
  (∀ (d : Descriptor) (i : Nat) (s : State), CanBegin 0x0502 d s → i < 32 → d.target.toNat = 0x8000 + i →
    d.resAddr.toNat < topOfDram s → (sampleUnit (0x8000 + i) s).length ≤ d.resLen.toNat →
    DramOpen d.resAddr.toNat (sampleUnit (0x8000 + i) s).length s →
    ∃ t, exec (.countersRead d) s = .next t ∧ Completed 0x0502 d .ok s t ∧
      Stored d.resAddr.toNat (sampleUnit (0x8000 + i) s) s t) ∧
  (∀ (r : GuestReq) (data : List (BitVec 8)) (bad : BitVec 8) (off : Nat) (s : State), guestUp s = true →
    guestWellFormed 2 r = true → data.length = 32 * r.len.toNat → guestReg r.addr.toNat = true →
    guestRegAt r = some off → regBlock off = 8 →
    ∃ t, exec (.guestWrite r data bad) s = .next t ∧ .guest (r.opcode ||| 0x80) r.tag .denied [] [] ∈ t.out ∧
      t.counts = s.counts)

/-- A frame without SECURE that writes 1 to bits 12–23 or 25 of DB_FW_RING has no effect on those bits and records no fault,
while its other bits take effect; handling HOST_EPOCH with an unchanged DB_HOST_EPOCH takes no action of the host
reset (R508). -/
def Obligations.SecureDoorbellBitsAreSilentlyLeftOut : Prop :=
  (∀ (addr : BitVec 40) (v : BitVec 64) (a : Access) (s : State), addr = 0xFF00020010 → a.secure = false → v >>> 26 = 0 →
    ∃ t, exec (.registerWrite addr v a) s = .next t ∧
      (∀ i, i < 26 → (12 ≤ i ∧ i ≤ 23 ∨ i = 25) → t.db.fwStatus.getLsbD i = s.db.fwStatus.getLsbD i) ∧
      (∀ i, i < 26 → (i < 12 ∨ i = 24) → t.db.fwStatus.getLsbD i = (s.db.fwStatus.getLsbD i || v.getLsbD i)) ∧
      t.faults = s.faults ∧ OnlyChanges [.db, .out] s t) ∧
  (∀ s : State, fwActs s = true → s.db.fwStatus = 1 <<< 25 → s.db.fwMask = 0 → s.db.epochSeen = s.db.epoch →
    ∃ t, exec .firmwareDoorbellHandle s = .next t ∧ t.db.fwStatus = 0 ∧ t.db.epochSeen = s.db.epoch ∧
      OnlyChanges [.db] s t)

/-- A write (with SECURE) to CP_SKEW_LIMIT outside 100–10,000 is refused and changes nothing; a new limit holds for frames whose first copy
arrives after the write, and a copy already held keeps its own (R513). -/
def Obligations.SkewLimitAppliesToLaterFrames : Prop :=
  (∀ (v : BitVec 64) (a : Access) (s : State), a.secure = true → (v.toNat % 16384 < 100 ∨ 10000 < v.toNat % 16384) →
    exec (.cpSkewLimitWrite v a) s = .next (emit (.reply .badArgument 0) s)) ∧
  (∀ (v : BitVec 64) (a : Access) (s : State), a.secure = true → 100 ≤ v.toNat % 16384 → v.toNat % 16384 ≤ 10000 →
    ∃ t, exec (.cpSkewLimitWrite v a) s = .next t ∧ t.ports.skew = v.toNat % 16384 ∧ t.ports.slots = s.ports.slots ∧
      t.out = s.out ++ [.reply .ok 0] ∧ OnlyChanges [.ports, .out] s t) ∧
  (∀ (p : Port) (f : Frame) (h : BitVec 32) (s : State), hears p s = true → f.crc = frameCrc f →
    f.length.toNat = f.payload.length → f.type ≠ 0x07 → f.type ≠ 0x08 → isHwinResp f = false →
    s.ports.highest = some h → above f.seq h = true → (f.seq - h).toNat ≤ 4096 → slotsUsed s < 512 →
    s.ports.cp0.phase = .active → s.ports.cp1.phase = .active → s.ports.preferred ≠ some p →
    ∃ t x, exec (.hostFrameReceive p f) s = .next t ∧ t.ports.slots = s.ports.slots ++ [x] ∧
      x.skewUntil = some (s.clock.now + s.ports.skew))

/-- The writable registers of the thermal manager, the fault collector, the Cairn controller and the guest firewall, each by
its own row: a value in range is taken and one out of range refused with the register unchanged; FLT_FORCE enters the
event; TAKE acts by the controller's state; FENCE_NOW fences the guest (R406, R460, R511, R514).
Model choices and inferences it leans on: log 1. -/
def Obligations.NamedRegisterWrites : Prop :=
  (∀ (v : BitVec 64) (a : Access) (s : State), a.secure = true → 85 ≤ v.toNat % 256 → v.toNat % 256 ≤ 115 →
    ∃ t, exec (.thThrottleWrite v a) s = .next t ∧ t.therm = { s.therm with threshold := v.toNat % 256 } ∧
      t.out = s.out ++ [.reply .ok 0] ∧ OnlyChanges [.therm, .out] s t) ∧
  (∀ (v : BitVec 64) (a : Access) (s : State), a.secure = true → (v.toNat % 256 < 85 ∨ 115 < v.toNat % 256) →
    exec (.thThrottleWrite v a) s = .next (emit (.reply .badArgument 0) s)) ∧
  (∀ (v : BitVec 64) (a : Access) (s : State), a.secure = true → 1 ≤ v.toNat % 1024 → v.toNat % 1024 ≤ 1000 →
    ∃ t, exec (.thGraceWrite v a) s = .next t ∧ t.therm = { s.therm with graceMs := v.toNat % 1024 } ∧
      t.out = s.out ++ [.reply .ok 0] ∧ OnlyChanges [.therm, .out] s t) ∧
  (∀ (v : BitVec 64) (a : Access) (s : State), a.secure = true → (v.toNat % 1024 < 1 ∨ 1000 < v.toNat % 1024) →
    exec (.thGraceWrite v a) s = .next (emit (.reply .badArgument 0) s)) ∧
  (∀ (v : BitVec 64) (a : Access) (s : State), a.secure = true → sourceCheck (v.toNat % 65536) s = none →
    v.toNat / 65536 % 4 = 1 →
    ∃ t, exec (.fltForceWrite v a) s = .next t ∧ Faulted (v.toNat % 65536) .d s t ∧
      (tget {} t.faults.hist (s.faults.entered % 16)).flags.getLsbD 4 = true) ∧
  (∀ (a : Access) (s : State), a.secure = true → s.cairn.state = .armed →
    ∃ t, exec (.crnCtrlTake a) s = .next t ∧ t.cairn.state = .taking ∧ t.cairn.trigger = 1 ∧ t.cairn.frozen = true ∧
      t.out = s.out ++ [.reply .ok 0] ∧ OnlyChanges [.cairn, .out] s t) ∧
  (∀ (a : Access) (s : State), a.secure = true → (s.cairn.state = .disarmed ∨ s.cairn.state = .taken) →
    exec (.crnCtrlTake a) s = .next (emit (.reply .busy 0) s)) ∧
  (∀ (a : Access) (s : State), a.secure = true → s.part.guest.isSome = true → s.guest.fenced = false →
    ∃ t, exec (.fenceNow a) s = .next t ∧ t.guest.fenced = true ∧ t.pins.gstRstN = false ∧ Fenced 0xC000 0 t) ∧
  (∀ (v : BitVec 64) (a : Access) (s : State), a.secure = true →
    ∃ t, exec (.registerWrite 0xFF000C0140 v a) s = .next t ∧
      (above (v.setWidth 32) s.cmds.posted = false → t.cmds.consumed = v.setWidth 32) ∧ OnlyChanges [.cmds, .out] s t)

/-- The management interface: a register it may read is answered with OK and its value, an unaligned address with
BAD_ARGUMENT and any other register with DENIED, both with zero data; it changes no register (R504, R530).
Model choices and inferences it leans on: log 12. -/
def Obligations.ManagementReads : Prop :=
  (∀ (addr : BitVec 40) (s : State), s.pins.pgLow = [] → colReadable s = true → addr.toNat % 8 = 0 →
    regBase ≤ addr.toNat → (mgmtA (regOff addr.toNat) = true ∨ mgmtM (regOff addr.toNat) = true) →
    ∃ t pec, exec (.managementRead addr) s = .next t ∧
      t.out = s.out ++ [.management 0 (BitVec.ofNat 64 (regValue (regOff addr.toNat) false s)) pec] ∧
      OnlyChanges [.out] s t) ∧
  (∀ (addr : BitVec 40) (s : State), s.pins.pgLow = [] → addr.toNat % 8 ≠ 0 →
    ∃ t pec, exec (.managementRead addr) s = .next t ∧ t.out = s.out ++ [.management 3 0 pec] ∧ OnlyChanges [.out] s t) ∧
  (∀ (addr : BitVec 40) (s : State), s.pins.pgLow = [] → addr.toNat % 8 = 0 →
    (mgmtA (regOff addr.toNat) || mgmtM (regOff addr.toNat)) = false →
    ∃ t pec, exec (.managementRead addr) s = .next t ∧ t.out = s.out ++ [.management 2 0 pec] ∧ OnlyChanges [.out] s t)

/-- The guest: a request that the firewall admits is served and answered OK, a write storing its bytes and no other; a
violation is answered with DENIED, counted, and fences the guest where FENCE_ON_VIOLATION is set, and else records a
class C fault (R402–R406).
The guest's own events: RESET_REQ resets the guest and releases its locks, TEMP is kept, and 125 °C, ten readings above
60 W in a row or 10 ms without a reading fence the guest (R400, R401, R406).
Model choices and inferences it leans on: log 55, 69, 118. -/
def Obligations.GuestRows : Prop :=
  (∀ (r : GuestReq) (s : State), guestUp s = true → guestWellFormed 1 r = true → guestReg r.addr.toNat = false →
    firewall r s = none → bulkCheck r.addr.toNat (32 * r.len.toNat) false s = none →
    (s.mem.home = false ∨ s.mem.dir = []) →
    ∃ t data poison, exec (.guestRead ⟨r, []⟩) s = .next t ∧
      t.out = s.out ++ [.guest (r.opcode ||| 0x80) r.tag .ok data poison] ∧ OnlyChanges [.faults, .counts, .out] s t) ∧
  (∀ (r : GuestReq) (found : List (Nat × BadSymbols)) (s : State), guestUp s = true → guestWellFormed 1 r = true →
    guestReg r.addr.toNat = false → firewall r s = none → bulkCheck r.addr.toNat (32 * r.len.toNat) false s = none →
    ∃ t data poison, exec (.guestRead ⟨r, found⟩) s = .next t ∧
      .guest (r.opcode ||| 0x80) r.tag .ok data poison ∈ t.out) ∧
  (∀ (r : GuestReq) (data : List (BitVec 8)) (s : State), guestUp s = true → guestWellFormed 2 r = true →
    data.length = 32 * r.len.toNat → guestReg r.addr.toNat = false → forcedD 0xC000 0 s = false → firewall r s = none →
    bulkCheck r.addr.toNat (32 * r.len.toNat) true s = none → r.addr.toNat < topOfDram s →
    r.mask = 0xFFFFFFFF → DramOpen r.addr.toNat data.length s →
    ∃ t, exec (.guestWrite r data 0) s = .next t ∧ t.out = s.out ++ [.guest (r.opcode ||| 0x80) r.tag .ok [] []] ∧
      Stored r.addr.toNat data s t ∧ OnlyChanges [.bytes, .counts, .out] s t) ∧
  (∀ (r : GuestReq) (found : List (Nat × BadSymbols)) (k : Nat) (s : State), guestUp s = true → guestWellFormed 1 r = true → guestReg r.addr.toNat = false →
    firewall r s = some k → s.guest.fenceOn = true →
    ∃ t, exec (.guestRead ⟨r, found⟩) s = .next t ∧ t.guest.fenced = true ∧
      t.guest.violations = min (2 ^ 32 - 1) (s.guest.violations + 1) ∧ t.guest.violAddr = r.addr.toNat ∧
      .guest (r.opcode ||| 0x80) r.tag .denied [] (List.replicate r.len.toNat true) ∈ t.out ∧ Fenced 0xC000 0 t ∧
      t.mem = s.mem) ∧
  (∀ (r : GuestReq) (found : List (Nat × BadSymbols)) (k : Nat) (s : State), guestUp s = true → guestWellFormed 1 r = true → guestReg r.addr.toNat = false →
    firewall r s = some k → s.guest.fenceOn = false →
    ∃ t, exec (.guestRead ⟨r, found⟩) s = .next t ∧ t.guest.fenced = false ∧ Faulted 0xC000 .c s t ∧
      t.guest.violations = min (2 ^ 32 - 1) (s.guest.violations + 1) ∧ t.mem = s.mem) ∧
  (∀ s : State, s.part.guest.isSome = true → s.guest.fenced = false → s.pins.gstRstN = true →
    ∃ t, exec .resetReq s = .next t ∧ t.guest.fenced = false ∧ t.guest.overRuns = 0 ∧ t.guest.tempAt = s.clock.now ∧
      (∀ e ∈ t.locks, e.2.owner ≠ 4) ∧ t.db.fwStatus.getLsbD 26 = true) ∧
  (∀ (temp : Int) (power : Nat) (s : State), s.part.guest.isSome = true → s.guest.fenced = false → temp < 2000 →
    power ≤ 240 →
    ∃ t, exec (.temp temp power) s = .next t ∧ t.guest.temp = temp ∧ t.guest.power = power ∧
      t.guest.tempAt = s.clock.now ∧ t.guest.overRuns = 0 ∧ t.guest.fenced = false ∧ OnlyChanges [.guest] s t) ∧
  (∀ (temp : Int) (power : Nat) (s : State), s.part.guest.isSome = true → s.guest.fenced = false → 2000 ≤ temp →
    ∃ t, exec (.temp temp power) s = .next t ∧ t.guest.temp = temp ∧ t.guest.fenced = true ∧ Fenced 0xC000 0 t) ∧
  (∀ (temp : Int) (power : Nat) (s : State), s.part.guest.isSome = true → s.guest.fenced = false → 240 < power →
    9 ≤ s.guest.overRuns →
    ∃ t, exec (.temp temp power) s = .next t ∧ t.guest.fenced = true ∧ t.pins.gstRstN = false) ∧
  (∀ (m : Nat) (s : State), s.part.guest.isSome = true → s.guest.fenced = false → m ∈ groupModules 18 →
    (modGet m s).state = .active → s.guest.tempAt + 10000000 ≤ s.clock.now →
    ∃ t, exec .guestTempTimeout s = .next t ∧ t.guest.fenced = true ∧ Fenced 0xC000 0 t) ∧
  (∀ s : State, s.part.guest.isSome = true → s.guest.fenced = false →
    ∃ t, exec .guestFence s = .next t ∧ t.guest.fenced = true ∧ t.pins.gstRstN = false ∧ Fenced 0xC000 0 t ∧
      ∀ e ∈ t.locks, e.2.owner ≠ 4)

/-- Executions: the oldest pending one begins when none runs and its peers have confirmed; it ends OK when all its work is
done, the graph returning to PLACED; a peer that does not confirm in time ends it with TIMEOUT (R162, R165, R268).
PAUSE and ABORT complete when the engines have stopped: the graph is PAUSED, or PLACED with every START of it ABORTED; a
lender that has not answered within 10 ms is not asked again (R73, R170, R269).
Model choices and inferences it leans on: log 37, 50. -/
def Obligations.ExecutionRows : Prop :=
  (∀ (h : BitVec 32) (i : Nat) (g : Graph) (x : Execution) (rest : List Execution) (s : State),
    graphAt h s = some (i, g) → g.running = none → g.pending = x :: rest → g.state = some .running → x.peersOpen = [] →
    x.peersBad = [] → fwActs s = true → graphHeld h s = false → recvOps g = [] →
    ∃ t, exec (.executionBegin h) s = .next t ∧
      slotGet i t = { g with running := some { x with begun := true }, pending := rest }) ∧
  (∀ (h : BitVec 32) (i : Nat) (g : Graph) (x : Execution) (s : State), graphAt h s = some (i, g) → g.running = some x →
    g.state = some .running → g.pending = [] → g.lost = false → x.begun = true → x.work = [] → x.failed = [] →
    x.poisoned = [] → recvOps g = [] → opsFinished g x s = true → collWaits i g s = false → fwActs s = true →
    s.comp.doneN = [] → s.comp.doneS = [] →
    ∃ t, exec (.executionEnd h) s = .next t ∧ (slotGet i t).state = some .placed ∧ (slotGet i t).running = none ∧
      Completed x.cmd.desc.opcode x.cmd.desc .ok s t) ∧
  (∀ (h : BitVec 32) (i : Nat) (g : Graph) (x : Execution) (s : State), graphAt h s = some (i, g) → g.running = some x →
    g.state = some .running → g.pending = [] → g.lost = false → x.begun = true → x.work = [] → x.failed ≠ [] →
    x.cmd.desc.resAddr = 0 → recvOps g = [] → opsFinished g x s = true → collWaits i g s = false → fwActs s = true →
    (∀ b ∈ x.bindings, b.1 ∈ x.poisoned → b.2.1 < 2 ^ 40) → s.comp.doneN = [] → s.comp.doneS = [] →
    ∃ t, exec (.executionEnd h) s = .next t ∧ (slotGet i t).state = some .placed ∧
      Completed x.cmd.desc.opcode x.cmd.desc .partialDone s t) ∧
  (∀ (h : BitVec 32) (i peer : Nat) (g : Graph) (x : Execution) (s : State), graphAt h s = some (i, g) →
    g.pending = [x] → x.peersOpen.contains peer = true → g.b.peerWaitMs = 0 → x.cmd.tAccept + 100000000 ≤ s.clock.now →
    fwActs s = true →
    ∃ t, exec (.peerStartTimeout h peer) s = .next t ∧ (slotGet i t).pending = [] ∧
      Completed x.cmd.desc.opcode x.cmd.desc .timeout s t) ∧
  (∀ (h : BitVec 32) (i : Nat) (g : Graph) (x : Execution) (s : State), graphAt h s = some (i, g) → g.running = some x →
    g.b.deadline ≠ 0 → x.deadlinePassed = false → x.cmd.tAccept + g.b.deadline < s.clock.now → fwRuns s = true →
    ∃ t, exec (.deadlineExpiry h) s = .next t ∧
      slotGet i t = { g with running := some { x with deadlinePassed := true } } ∧ OnlyChanges [.graphs, .cairn] s t) ∧
  (∀ (h : BitVec 32) (i op : Nat) (g : Graph) (x : Execution) (s : State), graphAt h s = some (i, g) → g.running = some x →
    op ∈ recvOps g → recvLate g x s = true → recvWhole g x op s = false →
    ∃ t, exec (.recvTimeout h op) s = .next t ∧ slotGet i t = { g with running := some (taintOp op g x) } ∧
      OnlyChanges [.graphs] s t) ∧
  (∀ (h : BitVec 32) (i : Nat) (g : Graph) (a : Accepted) (s : State), graphAt h s = some (i, g) →
    g.state = some .running → g.ending = [(some a, false)] → targetAll a.desc = false → graphStill h false s = true →
    fwActs s = true →
    ∃ t, exec (.pauseComplete h) s = .next t ∧ slotGet i t = { g with state := some .paused, ending := [] } ∧
      Completed a.desc.opcode a.desc .ok s t) ∧
  (∀ (h : BitVec 32) (i : Nat) (g : Graph) (a : Accepted) (x : Execution) (s : State), graphAt h s = some (i, g) →
    g.running = some x → g.lost = false → g.ending = [(some a, true)] → targetAll a.desc = false →
    graphStill h true s = true → fwActs s = true →
    ∃ t, exec (.abortComplete h) s = .next t ∧
      slotGet i t = { g with running := none, pending := [], ending := [], state := some .placed } ∧
      Completed x.cmd.desc.opcode x.cmd.desc .aborted s t ∧ Completed a.desc.opcode a.desc .ok s t) ∧
  (∀ (pkg bytes asked : Nat) (tag : BitVec 32) (w : FitWait) (s : State), s.graphs.fits = [w] →
    w.asked = some (pkg, bytes, asked, tag) → asked + 10000000 ≤ s.clock.now → fwActs s = true →
    ∃ t, exec (.lenderTimeout pkg) s = .next t ∧ ∀ y ∈ t.graphs.fits, y.asked ≠ w.asked)

/-- Fault events: a class C event is entered with its source and leaves every unit in service; class U fences its unit;
class X ends in FAULTED. A request not acknowledged is posted again each 100 ms (R263, R274, R450, R452).
Model choices and inferences it leans on: log 18, 87. -/
def Obligations.FaultEvents : Prop :=
  (∀ (e : FaultInput) (s : State), sourceExists e.source.toNat = true → namesGuest e.source.toNat = false → e.cls = .c →
    ∃ t, exec (.faultEvent e) s = .next t ∧ Faulted e.source.toNat .c s t ∧ t.faults.fenced = s.faults.fenced ∧
      t.dev.state = s.dev.state) ∧
  (∀ (e : FaultInput) (s : State), sourceExists e.source.toNat = true → e.source.toNat / 4096 = 14 →
    e.source.toNat ≠ 0xE001 → e.cls = .u →
    ∃ t, exec (.faultEvent e) s = .next t ∧ Faulted e.source.toNat .u s t ∧ Fenced e.source.toNat 0 t) ∧
  (∀ (e : FaultInput) (s : State), sourceExists e.source.toNat = true → namesGuest e.source.toNat = false → e.cls = .x →
    s.dev.state ≠ .haltedThermal → s.cairn.state = .disarmed →
    ∃ t, exec (.faultEvent e) s = .next t ∧ t.dev.state = .faulted ∧ Faulted e.source.toNat .x s t) ∧
  (∀ (e : FaultInput) (s : State), sourceExists e.source.toNat = true → namesGuest e.source.toNat = false → e.cls = .c →
    recordOf (groupKey e.source.toNat) s = none → (∃ i, i < 255 ∧ recordAt i s = none) → fwRuns s = true →
    s.dev.state ≠ .faulted →
    ∃ t, exec (.faultEvent e) s = .next t ∧ t.db.hostStatus.getLsbD 25 = true ∧
      ∃ n ∈ t.cmds.held.drop s.cmds.held.length, n.notice = true ∧ n.code = 3) ∧
  (∀ (d : Domain) (s : State), (reqOf d s).opened = true → (reqOf d s).acked = false →
    (reqOf d s).noticeAt + 100000000 ≤ s.clock.now →
    ∃ t, exec (.thermalNoticeRepeat d) s = .next t ∧ (reqOf d t).noticeAt = s.clock.now ∧
      (reqOf d t).id = (reqOf d s).id ∧ (reqOf d t).opened = true)

/-- A Cairn take: a selected trigger starts it from ARMED and none does from DISARMED; a stalled cluster is such a trigger;
the hold completes with T_FROZEN; the release writes 66,650,112 bytes, posts CAIRN_DONE and ends in TAKEN
(R468–R473).
Model choices and inferences it leans on: log 39, 41, 51. -/
def Obligations.CairnTakes : Prop :=
  (∀ (code : Nat) (detail : BitVec 32) (s : State), cairnSelected code s = true → s.cairn.state = .armed →
    ∃ t, exec (.cairnTrigger code detail) s = .next t ∧ t.cairn.state = .taking ∧ t.cairn.trigger = code ∧
      t.cairn.detail = detail ∧ t.cairn.tTrigger = s.clock.now ∧ t.cairn.frozen = true ∧ t.cairn.tFrozen = none ∧
      OnlyChanges [.cairn] s t) ∧
  (∀ (code : Nat) (detail : BitVec 32) (s : State), (cairnSelected code s = false ∨ s.cairn.state = .disarmed) →
    exec (.cairnTrigger code detail) s = .next s) ∧
  (∀ (code : Nat) (detail : BitVec 32) (s : State), cairnSelected code s = true → s.cairn.state = .taken →
    ∃ t, exec (.cairnTrigger code detail) s = .next t ∧ t.cairn = { s.cairn with missed := satInc 32 s.cairn.missed } ∧
      OnlyChanges [.cairn] s t) ∧
  (∀ (p : Nat) (s : State), clusterIdx p = true → bitOf s.cairn.armed 4 = true → s.cairn.state = .armed →
    ((clusterGet p s).q ≠ [] ∨ (clusterGet p s).set ≠ []) →
    (clusterGet p s).retiredAt + s.cairn.stallMs * 1000000 ≤ s.clock.now →
    ∃ t, exec (.stallTimer p) s = .next t ∧ t.cairn.state = .taking ∧ t.cairn.trigger = 6 ∧
      t.cairn.detail = BitVec.ofNat 32 p ∧ OnlyChanges [.cairn] s t) ∧
  (∀ s : State, s.cairn.state = .taking → s.cairn.tFrozen = none → checkAnywhere s = false →
    ∃ t, exec .cairnHoldComplete s = .next t ∧ t.cairn.tFrozen = some s.clock.now ∧ t.cairn.state = .taking ∧
      OnlyChanges [.cairn] s t) ∧
  (∀ s : State, s.cairn.state = .taking → s.cairn.tFrozen.isSome = true → s.cairn.xDue = false → fwRuns s = true →
    FabricQuiet s →
    ∃ t, exec .cairnRelease s = .next t ∧ t.cairn.state = .taken ∧ t.cairn.frozen = false ∧ t.cairn.bytes = 66650112 ∧
      t.cairn.waiting = [] ∧ Noticed 8 66650112 (BitVec.ofNat 64 s.cairn.trigger) s t ∧
      (∀ a ∈ s.cairn.waiting, Completed a.desc.opcode a.desc .ok s t))

/-- Work items: the firmware places one against a credit of the cluster queue and never without one or with more credit than
the queue is deep; the sequencer takes it and returns the credit; one whose operations have all retired posts its
completion to the flank's queue (R29, R64, R66, R69).
Model choices and inferences it leans on: log 16, 99. -/
def Obligations.WorkItemsMoveAgainstCredits : Prop :=
  (∀ (x : Nat) (w : WorkItem) (s : State), mayPlace x w s = true →
    ∃ t it, exec (.workItemPlace x w) s = .next t ∧
      (clusterGet (physOf x s) t).q = (clusterGet (physOf x s) s).q ++ [it] ∧ it.item.graph = w.graph ∧
      it.seq = (clusterGet (physOf x s) s).qc.pSent ∧
      (clusterGet (physOf x s) t).qc = (clusterGet (physOf x s) s).qc.send ∧ OnlyChanges [.comp, .graphs] s t) ∧
  (∀ (x : Nat) (w : WorkItem) (s : State),
    ((clusterGet (physOf x s) s).qc.avail = 0 ∨ 256 < (clusterGet (physOf x s) s).qc.avail) →
    exec (.workItemPlace x w) s = .next s) ∧
  (∀ (p : Nat) (w : WorkSt) (rest : List WorkSt) (s : State), clusterLive p s = true → (clusterGet p s).q = w :: rest →
    graphHeld w.item.graph s = false →
    ∃ t, exec (.workItemTake p) s = .next t ∧ (clusterGet p t).q = rest ∧
      (clusterGet p t).set = (clusterGet p s).set ++ [w] ∧ (clusterGet p t).qc = (clusterGet p s).qc.grant 1 ∧
      OnlyChanges [.comp] s t) ∧
  (∀ (p : Nat) (seq : BitVec 32) (w : WorkSt) (s : State), itemOf p seq s = some w → w.issued = true → w.pending = 0 →
    w.owed = 0 → w.fall = [] → clusterIdx p = true → p < 330 → clusterOut p s = false → s.cairn.frozen = false →
    s.comp.doneNc.avail ≠ 0 → s.comp.doneNc.avail ≤ 4096 →
    (∀ y o, graphAt w.item.graph s = some y → y.2.b.operators[w.item.opIndex.toNat]? = some o →
      o.opcode ≠ 0x60 ∧ o.opcode ≠ 0x62 ∧ o.opcode ≠ 0x65) →
    ∃ t, exec (.workItemComplete p seq) s = .next t ∧
      t.comp.doneN = s.comp.doneN ++ [⟨p, seq, w.item.graph, w.item.opIndex, w.item.tag, w.poisoned, w.warn⟩] ∧
      t.comp.doneNc = s.comp.doneNc.send ∧ t.comp.doneS = s.comp.doneS ∧ OnlyChanges [.comp, .counts] s t)

/-- Engine operations: the sequencer issues one against a credit and counts a stall without one; an engine starts its head
once its wait is met; a retirement takes it off the queue, grants its credit and dates the cluster's last
retirement (R64, R70, R71).
Model choices and inferences it leans on: log 58. -/
def Obligations.EngineOperations : Prop :=
  (∀ (p c : Nat) (op : EngOp) (s : State), mayIssue p c .m op s = true → (engGet p c .m s).ctr.avail ≠ 0 →
    (engGet p c .m s).ctr.avail ≤ 32 →
    ∃ t, exec (.engineOpIssue p c .m op) s = .next t ∧ (engGet p c .m t).q = (engGet p c .m s).q ++ [op] ∧
      (engGet p c .m t).ctr = (engGet p c .m s).ctr.send ∧ OnlyChanges [.comp, .counts] s t) ∧
  (∀ (p c : Nat) (op : EngOp) (s : State), mayIssue p c .m op s = true → (engGet p c .m s).ctr.avail = 0 →
    exec (.engineOpIssue p c .m op) s = .next (countCluster p 2 1 s)) ∧
  (∀ (p c k : Nat) (op : EngOp) (s : State), mayIssue p c .p op s = true → bankServes p c s = false →
    otherBank p c op.wi s = some k → (engGet p k .p s).ctr.avail ≠ 0 → (engGet p k .p s).ctr.avail ≤ 32 →
    ∃ t, exec (.engineOpIssue p c .p op) s = .next t ∧ (engGet p k .p t).q = (engGet p k .p s).q ++ [op]) ∧
  (∀ (p c tile dst : Nat) (op : EngOp) (rest : List EngOp) (found : List (Nat × BadSymbols)) (s : State),
    mayStart p c s = true →
    (engGet p c .t s).q = op :: rest → (engGet p c .t s).run = none → op.body = .tStore tile dst →
    opHeld p op s = false → waitMet p c op.wait s = true →
    ∃ t, exec (.engineOpStart p c ⟨.t, found⟩) s = .next t ∧ (engGet p c .t t).run.isSome = true ∧
      (engGet p c .t t).q = op :: rest) ∧
  (∀ (p c : Nat) (e : Engine) (op : EngOp) (rest : List EngOp) (r : Running) (s : State), clusterIdx p = true → c < 16 →
    clusterOut p s = false → s.cairn.frozen = false → e ≠ .p → (engGet p c e s).q = op :: rest →
    (engGet p c e s).run = some r → r.requests = [] → op.signal = .none → 0 < s.clock.now →
    ∃ t, exec (.engineOpRetire p c e) s = .next t ∧
      t.comp.cores = (engSet p c e { engGet p c e s with
        q := rest, run := none, ctr := (engGet p c e s).ctr.grant 1 } s).comp.cores ∧
      (clusterGet p t).retiredAt = s.clock.now ∧ OnlyChanges [.comp, .counts] s t) ∧
  (∀ (p c : Nat) (e : Engine) (op : EngOp) (rest : List EngOp) (r : Running) (s : State), e ≠ .p →
    (engGet p c e s).q = op :: rest → (engGet p c e s).run = some r → r.requests ≠ [] →
    exec (.engineOpRetire p c e) s = .next s)

/-- The P engine: a P_FILL at its end puts the weight set into its staging slot and grants its credit, and one that takes longer than 4 × W ns fails its cluster; a P_RUN retires once
its windows, 20 ns of pipeline and 150 ns are over and not before, writing only its outputs (R97–R99).
Model choices and inferences it leans on: log 6, 25, 104, 113. -/
def Obligations.PhotonicOperations : Prop :=
  (∀ (p c slot w src : Nat) (sw : BitVec 32) (op : EngOp) (rest : List EngOp) (r : Running) (s : State),
    clusterIdx p = true → c < 16 → s.cairn.frozen = false → (coreGet p c s).p.q = op :: rest →
    op.body = .pFill slot w src sw → (coreGet p c s).p.fill = some r → op.signal = .none →
    s.clock.now ≤ r.since + 4 * w →
    ∃ t, exec (.pFillComplete p c) s = .next t ∧
      t.comp.cores = (coreSet p c { coreGet p c s with
        slots := tset none (coreGet p c s).slots slot (some (pFillSet p c w src sw s))
        p := { (coreGet p c s).p with q := rest, fill := none, ctr := (coreGet p c s).p.ctr.grant 1 } } s).comp.cores ∧
      OnlyChanges [.comp, .counts] s t) ∧
  (∀ (p c slot w src : Nat) (sw : BitVec 32) (op : EngOp) (rest : List EngOp) (r : Running) (s : State),
    clusterIdx p = true → c < 16 → s.cairn.frozen = false → (coreGet p c s).p.q = op :: rest →
    op.body = .pFill slot w src sw → (coreGet p c s).p.fill = some r → r.held = false → r.since + 4 * w < s.clock.now →
    isFenced (0x2000 + p) 0 s = false →
    ∃ t, exec (.pFillComplete p c) s = .next t ∧ Fenced (0x2000 + p) 0 t ∧ s.faults.entered < t.faults.entered) ∧
  (∀ (p c slot w g windows input stride sx out : Nat) (sg : Bool) (infmt outfmt : Fmt) (op : EngOp) (rest : List EngOp)
    (r : Running) (s : State), clusterIdx p = true → c < 16 → s.cairn.frozen = false → (coreGet p c s).p.q = op :: rest →
    op.body = .pRun slot w sg g windows input infmt stride sx out outfmt → (coreGet p c s).p.run = some r →
    op.signal = .none → bankFenced p c s = false → r.since + ceilDiv (runSymbols p c op.body s) 2 + 170 ≤ s.clock.now →
    ∃ t, exec (.pRunRetire p c) s = .next t ∧
      t.comp.cores = (coreSet p c { coreGet p c s with
        p := { (coreGet p c s).p with q := rest, run := none, ctr := (coreGet p c s).p.ctr.grant 1 } } s).comp.cores ∧
      t.mem.dram = s.mem.dram ∧ OnlyChanges [.faults, .bytes, .counts, .comp, .banks, .free] s t) ∧
  (∀ (p c slot w g windows input stride sx out : Nat) (sg : Bool) (infmt outfmt : Fmt) (op : EngOp) (rest : List EngOp)
    (r : Running) (s : State), (coreGet p c s).p.q = op :: rest →
    op.body = .pRun slot w sg g windows input infmt stride sx out outfmt → (coreGet p c s).p.run = some r →
    s.clock.now < r.since + ceilDiv (runSymbols p c op.body s) 2 + 170 → exec (.pRunRetire p c) s = .next s)

/-- Clusters: a remote increment is applied and its credit returned; a credit update reaches the producer, and one that
grants more than the queue is deep fences the consumer's cluster; an idle cluster gates after 100 µs and wakes with new
work, its next event carrying the length of the pause; a failed core or cluster is fenced (R64–R66, R74, R77, R80).
Model choices and inferences it leans on: log 3. -/
def Obligations.ClusterEvents : Prop :=
  (∀ (p i : Nat) (rest : List Nat) (s : State), clusterIdx p = true → clusterOut p s = false → s.cairn.frozen = false →
    (clusterGet p s).rq = i :: rest →
    exec (.remoteSyncIncrement p) s = .next (bumpClusterSync p i
      (clusterSet p { clusterGet p s with rq := rest, rc := (clusterGet p s).rc.grant 1 } s))) ∧
  (∀ (p : Nat) (s : State), clusterIdx p = true → fwRuns s = true → (clusterGet p s).qc.update.avail ≤ 256 →
    exec (.creditUpdate (.cluster p)) s = .next (clusterSet p { clusterGet p s with qc := (clusterGet p s).qc.update } s)) ∧
  (∀ (p : Nat) (s : State), clusterIdx p = true → fwRuns s = true → 256 < (clusterGet p s).qc.update.avail →
    isFenced (0x2000 + p) 0 s = false →
    ∃ t, exec (.creditUpdate (.cluster p)) s = .next t ∧ Fenced (0x2000 + p) 0 t ∧
      s.faults.entered < t.faults.entered) ∧
  (∀ (p : Nat) (s : State), clusterIdx p = true → clusterOut p s = false → (clusterGet p s).gated = false →
    clusterIdle p s = true → (clusterGet p s).idleAt + 100000 ≤ s.clock.now →
    ∃ t, exec (.clusterPowerGate p) s = .next t ∧ (clusterGet p t).gated = true ∧ (clusterGet p t).idleAt = s.clock.now ∧
      OnlyChanges [.comp, .counts] s t) ∧
  (∀ (p : Nat) (s : State), clusterIdx p = true → clusterOut p s = false → (clusterGet p s).gated = true →
    wakeWanted p s = true → (flankPower (flankOf p) s).stopped = false → s.dev.state ≠ .standby →
    ∃ t, exec (.clusterWake p) s = .next t ∧ (clusterGet p t).gated = false ∧
      (clusterGet p t).resumed = some (pauseUs (clusterGet p s).idleAt s.clock.now) ∧ OnlyChanges [.comp, .counts] s t) ∧
  (∀ (p c : Nat) (s : State), clusterIdx p = true → c < 16 → coreFenced p c s = false → isFenced (0x2000 + p) 0 s = false →
    ∃ t, exec (.coreFailure p c) s = .next t ∧ Fenced (0x1000 + p) c t) ∧
  (∀ (p : Nat) (s : State), clusterIdx p = true → isFenced (0x2000 + p) 0 s = false →
    ∃ t, exec (.clusterFailure p) s = .next t ∧ Fenced (0x2000 + p) 0 t ∧ p ∈ t.comp.sparesGone)

/-- Pitch checks of a P bank: a due check starts at an operation boundary; one 400 ms overdue becomes urgent and is counted;
a check that passes puts the bank back in service with its age begun anew; one with failing rings walks each of them; one
whose reference fails, or whose RELOCK has taken 5 ms, fences the bank (R107–R109).
Retunes and range of a P bank: the next wave claims the banks of one core number that are not yet at the target, each at
its next boundary; a bank that verifies at its new setpoint serves again in that band, which counts as a check, and the rings
that do not walk; a bank out of range stops at its boundary and resumes after 100 µs in range; an overheated one is off and
fenced at once (R104–R106).
Model choices and inferences it leans on: log 59, 101, 102. -/
def Obligations.BankService : Prop :=
  (∀ (p c : Nat) (s : State), clusterIdx p = true → c < 16 → clusterOut p s = false → bankServes p c s = true →
    (bankGet p c s).claim = none → checkRunning p s = false → atBoundary p c s = true → s.cairn.frozen = false →
    s.dev.state ≠ .haltedThermal → (bankGet p c s).checkedAt + 100000000 ≤ s.clock.now →
    ((bankGet p c s).urgent || runsEmpty p c s || otherRoom p c s) = true →
    ∃ t, exec (.bankPitchCheckStart p c) s = .next t ∧
      bankGet p c t = { bankGet p c s with state := .check, began := s.clock.now } ∧
      OnlyChanges [.counts, .comp, .banks] s t) ∧
  (∀ (p c : Nat) (s : State), clusterIdx p = true → c < 16 → clusterOut p s = false → bankFenced p c s = false →
    (bankGet p c s).urgent = false → (bankGet p c s).state ≠ .check → (bankGet p c s).state ≠ .relock →
    (bankGet p c s).checkedAt + 400000000 ≤ s.clock.now →
    ∃ t, exec (.bankCheckUrgent p c) s = .next t ∧ bankGet p c t = { bankGet p c s with urgent := true } ∧
      (clusterGet p t).gated = false ∧ tget 0 t.therm.urgent 0 = satInc 12 (tget 0 s.therm.urgent 0) ∧
      OnlyChanges [.counts, .comp, .banks, .therm] s t) ∧
  (∀ (p c : Nat) (r : BankCheck) (s : State), clusterIdx p = true → c < 16 → clusterOut p s = false →
    bankFenced p c s = false → (bankGet p c s).state = .check → (bankGet p c s).began + 25000 ≤ s.clock.now →
    r.failedRings = [] → r.referenceOk = true → (bankGet p c s).walks = [] →
    ∃ t b, exec (.bankPitchCheckEnd p c r) s = .next t ∧ t.banks.bank = tset {} s.banks.bank (coreKey p c) b ∧
      (b.state = .inService ∨ b.state = .darkLine) ∧ b.checkedAt = s.clock.now ∧ b.urgent = false ∧ b.relocked = false ∧
      b.checks = ((bankGet p c s).checks + 1) % 65536 ∧ OnlyChanges [.banks, .free] s t) ∧
  (∀ (p c : Nat) (r : BankCheck) (s : State), clusterIdx p = true → c < 16 → clusterOut p s = false →
    bankFenced p c s = false → (bankGet p c s).state = .check → (bankGet p c s).began + 25000 ≤ s.clock.now →
    r.failedRings ≠ [] →
    ∃ t, exec (.bankPitchCheckEnd p c r) s = .next t ∧ (bankGet p c t).state = .relock ∧
      (∀ k ∈ r.failedRings, (tget {} (bankGet p c t).walks k).state = .identify ∧
        (tget {} (bankGet p c t).walks k).began = s.clock.now) ∧ OnlyChanges [.banks] s t) ∧
  (∀ (p c : Nat) (r : BankCheck) (s : State), clusterIdx p = true → c < 16 → clusterOut p s = false →
    bankFenced p c s = false → (bankGet p c s).state = .check → (bankGet p c s).began + 25000 ≤ s.clock.now →
    r.failedRings = [] → r.referenceOk = false →
    ∃ t, exec (.bankPitchCheckEnd p c r) s = .next t ∧ Fenced (0x3000 + p) c t ∧ (bankGet p c t).state = .fenced) ∧
  (∀ (p c t0 : Nat) (r : BankCheck) (s : State), clusterIdx p = true → c < 16 → clusterOut p s = false →
    bankFenced p c s = false → (bankGet p c s).state = .relock → (bankGet p c s).relockFor = .check →
    (bankGet p c s).relockAt = some t0 → t0 + 5000000 ≤ s.clock.now → r.relockTimeout = true →
    ∃ t, exec (.bankPitchCheckEnd p c r) s = .next t ∧ Fenced (0x3000 + p) c t ∧ (bankGet p c t).state = .fenced) ∧
  (∀ (f : Flank) (c : Nat) (s : State), flankPhase f s = .inService → pauseAsked f s = false →
    tget none s.banks.wave (flankNum f) = none → nextWave f 0 (tget 0 s.banks.target (flankNum f)) s = some c →
    ∃ t, exec (.bankRetuneWave f) s = .next t ∧
      tget none t.banks.wave (flankNum f) = some (c, tget 0 s.banks.target (flankNum f)) ∧
      (∀ p ∈ flankClusters f s, retunable p c (tget 0 s.banks.target (flankNum f)) s = true →
        (atBoundary p c s = true → (bankGet p c t).state = .retune) ∧
        (atBoundary p c s = false → (bankGet p c t).state = (bankGet p c s).state ∧
          (bankGet p c t).claim = some .retune)) ∧ OnlyChanges [.banks] s t) ∧
  (∀ (p c : Nat) (s : State), clusterIdx p = true → c < 16 → clusterOut p s = false → (bankGet p c s).state = .retune →
    bankFenced p c s = false →
    ∃ t b, exec (.bankRetuneDone p c []) s = .next t ∧ t.banks.bank = tset {} s.banks.bank (coreKey p c) b ∧
      (b.state = .inService ∨ b.state = .darkLine) ∧ b.checkedAt = s.clock.now ∧
      (tget none s.banks.wave (flankNum (flankOf p)) = none → b.band = tget 0 s.banks.target (flankNum (flankOf p))) ∧
      OnlyChanges [.banks] s t) ∧
  (∀ (p c : Nat) (failed : List Nat) (s : State), clusterIdx p = true → c < 16 → clusterOut p s = false →
    (bankGet p c s).state = .retune → bankFenced p c s = false → failed ≠ [] →
    ∃ t, exec (.bankRetuneDone p c failed) s = .next t ∧ (bankGet p c t).state = .relock ∧
      (bankGet p c t).relockFor = .retune ∧
      (∀ k ∈ failed, (tget {} (bankGet p c t).walks k).state = .identify) ∧ OnlyChanges [.banks] s t) ∧
  (∀ (p c : Nat) (s : State), clusterIdx p = true → c < 16 → bankServes p c s = true → (bankGet p c s).claim = none →
    tget none s.banks.wave (flankNum (flankOf p)) = none →
    ∃ t, exec (.bankOutOfRange p c) s = .next t ∧ OnlyChanges [.banks] s t ∧
      (atBoundary p c s = true → (bankGet p c t).state = .outOfRange ∧ (bankGet p c t).began = s.clock.now ∧
        bankServes p c t = false) ∧
      (atBoundary p c s = false → bankGet p c t = { bankGet p c s with claim := some .outOfRange })) ∧
  (∀ (p c : Nat) (s : State), clusterIdx p = true → c < 16 → (bankGet p c s).state = .outOfRange → darkOf p s = [] →
    (bankGet p c s).began + 100000 ≤ s.clock.now →
    ∃ t, exec (.bankBackInRange p c) s = .next t ∧
      t.banks.bank = tset {} s.banks.bank (coreKey p c) { bankGet p c s with state := .inService, darkLine := 0 } ∧
      OnlyChanges [.banks] s t) ∧
  (∀ (p c : Nat) (s : State), (bankGet p c s).state = .outOfRange → (bankGet p c s).claim = none →
    s.clock.now < (bankGet p c s).began + 100000 → exec (.bankBackInRange p c) s = .next s) ∧
  (∀ (p c : Nat) (s : State), clusterIdx p = true → c < 16 → clusterOut p s = false → bankFenced p c s = false →
    ∃ t, exec (.bankOverheat p c) s = .next t ∧ Fenced (0x3000 + p) c t ∧ (bankGet p c t).heaterOff = true ∧
      (bankGet p c t).state = .fenced)

/-- The wrong-lock walk of a bank's ring: IDENTIFY names the line found; ORDER and STEP move the heater once and count it,
or fence the bank when the heater would leave its range; VERIFY locks the ring or identifies again; with the last ring locked
a retune or a hand-over ends; a walk past its limits fences the bank whatever ends it (R104, R109, R112, R113). The heater
values come from calibration records, which the spec leaves open (log 9); the statement holds for every value of them.
The wrong-lock walk of an optical chiplet's ring: it identifies, orders, steps and verifies as a bank's ring does; past
its limits, or out of the heater's range, it fails and the channel is fenced; a ring that lost its lock and did not
verify is identified (R290, R291, R305). The heater values come from calibration records, which the spec leaves open
(log 9); the statement holds for every value of them. -/
def Obligations.RingWalks : Prop :=
  (∀ (p c r j : Nat) (s : State), walking p c r s = true → (tget {} (bankGet p c s).walks r).state = .identify →
    walkOver bankRule s.clock.now (tget {} (bankGet p c s).walks r) = false →
    ∃ t, exec (.bankWalkIdentify p c r j) s = .next t ∧ OnlyChanges [.banks] s t ∧
      (((tget {} (bankGet p c t).walks r).found = j ∧
        ((tget {} (bankGet p c t).walks r).state = .order ∨ (tget {} (bankGet p c t).walks r).state = .step ∨
          (tget {} (bankGet p c t).walks r).state = .lockedOk)) ∨
       ((bankGet p c s).relockFor ≠ .check ∧ j = ringLine r ∧ (bankGet p c t).walks = [] ∧
        ((bankGet p c t).state = .inService ∨ (bankGet p c t).state = .darkLine)))) ∧
  (∀ (p c r : Nat) (s : State), walking p c r s = true → (tget {} (bankGet p c s).walks r).state = .order →
    walkOver bankRule s.clock.now (tget {} (bankGet p c s).walks r) = false →
    ∃ t, exec (.bankWalkOrder p c r) s = .next t ∧ (Fenced (0x3000 + p) c t ∨
      ((tget {} (bankGet p c t).walks r).state = .identify ∧
        (tget {} (bankGet p c t).walks r).orders = (tget {} (bankGet p c s).walks r).orders + 1 ∧
        OnlyChanges [.banks] s t))) ∧
  (∀ (p c r : Nat) (s : State), walking p c r s = true → (tget {} (bankGet p c s).walks r).state = .step →
    walkOver bankRule s.clock.now (tget {} (bankGet p c s).walks r) = false →
    ∃ t, exec (.bankWalkStep p c r) s = .next t ∧ (Fenced (0x3000 + p) c t ∨
      ((tget {} (bankGet p c t).walks r).state = .verify ∧
        (tget {} (bankGet p c t).walks r).steps = (tget {} (bankGet p c s).walks r).steps + 1 ∧
        OnlyChanges [.banks] s t))) ∧
  (∀ (p c r : Nat) (pass : Bool) (s : State), walking p c r s = true → (tget {} (bankGet p c s).walks r).state = .verify →
    walkOver bankRule s.clock.now (tget {} (bankGet p c s).walks r) = false →
    ∃ t, exec (.bankWalkVerify p c r pass) s = .next t ∧ OnlyChanges [.banks] s t ∧
      ((tget {} (bankGet p c t).walks r).state = (if pass then .lockedOk else .identify) ∨
       (pass = true ∧ (bankGet p c s).relockFor ≠ .check ∧ (bankGet p c t).walks = [] ∧
        ((bankGet p c t).state = .inService ∨ (bankGet p c t).state = .darkLine)))) ∧
  (∀ (p c r : Nat) (s : State), walking p c r s = true →
    walkOver bankRule s.clock.now (tget {} (bankGet p c s).walks r) = true →
    ∃ t, exec (.bankWalkTimeout p c r) s = .next t ∧ Fenced (0x3000 + p) c t ∧ (bankGet p c t).state = .fenced) ∧
  (∀ (p c r j : Nat) (s : State), walking p c r s = true →
    walkOver bankRule s.clock.now (tget {} (bankGet p c s).walks r) = true →
    ∃ t, exec (.bankWalkIdentify p c r j) s = .next t ∧ Fenced (0x3000 + p) c t) ∧
  (∀ (p c r : Nat) (s : State), walking p c r s = true →
    walkOver bankRule s.clock.now (tget {} (bankGet p c s).walks r) = true →
    ∃ t, exec (.bankWalkOrder p c r) s = .next t ∧ Fenced (0x3000 + p) c t) ∧
  (∀ (p c r : Nat) (s : State), walking p c r s = true →
    walkOver bankRule s.clock.now (tget {} (bankGet p c s).walks r) = true →
    ∃ t, exec (.bankWalkStep p c r) s = .next t ∧ Fenced (0x3000 + p) c t) ∧
  (∀ (p c r : Nat) (pass : Bool) (s : State), walking p c r s = true →
    walkOver bankRule s.clock.now (tget {} (bankGet p c s).walks r) = true →
    ∃ t, exec (.bankWalkVerify p c r pass) s = .next t ∧ Fenced (0x3000 + p) c t) ∧
  (∀ (i j : Nat) (s : State), i < 1152 → (chanSide i s).walk.state = .identify →
    walkOver chipletRule s.clock.now (chanSide i s).walk = false →
    ∃ t, exec (.chipletWalkIdentify i j) s = .next t ∧ OnlyChanges [.chans] s t ∧
      (((chanSide i t).walk.found = j ∧ ((chanSide i t).walk.state = .order ∨ (chanSide i t).walk.state = .step ∨
        (chanSide i t).walk.state = .lockedOk)) ∨
       (j = instCh i ∧ (chanSide i t).walk = {} ∧ (chanSide i t).state = (chanSide i s).state ∧
        (chanSide i s).state ≠ .relock))) ∧
  (∀ (i : Nat) (s : State), i < 1152 → (chanSide i s).walk.state = .order →
    walkOver chipletRule s.clock.now (chanSide i s).walk = false →
    ∃ t, exec (.chipletWalkOrder i) s = .next t ∧ (Fenced (0x7000 + i) 0 t ∨
      ((chanSide i t).walk.state = .identify ∧ (chanSide i t).walk.orders = (chanSide i s).walk.orders + 1 ∧
        OnlyChanges [.chans] s t))) ∧
  (∀ (i : Nat) (s : State), i < 1152 → (chanSide i s).walk.state = .step →
    walkOver chipletRule s.clock.now (chanSide i s).walk = false →
    ∃ t, exec (.chipletWalkStep i) s = .next t ∧ (Fenced (0x7000 + i) 0 t ∨
      ((chanSide i t).walk.state = .verify ∧ (chanSide i t).walk.steps = (chanSide i s).walk.steps + 1 ∧
        OnlyChanges [.chans] s t))) ∧
  (∀ (i : Nat) (s : State), i < 1152 → (chanSide i s).walk.state = .verify →
    walkOver chipletRule s.clock.now (chanSide i s).walk = false →
    ∃ t, exec (.chipletWalkVerify i false) s = .next t ∧ (chanSide i t).walk.state = .identify ∧
      OnlyChanges [.chans] s t) ∧
  (∀ (i : Nat) (s : State), i < 1152 → (chanSide i s).walk.state = .verify → (chanSide i s).state = .relock →
    walkOver chipletRule s.clock.now (chanSide i s).walk = false →
    ∃ t, exec (.chipletWalkVerify i true) s = .next t ∧ (chanSide i t).state = .check ∧
      (chanSide i t).began = s.clock.now ∧ (chanSide i t).walk.state = .lockedOk ∧ OnlyChanges [.chans] s t) ∧
  (∀ (i : Nat) (s : State), i < 1152 → walkOver chipletRule s.clock.now (chanSide i s).walk = true →
    ∃ t, exec (.chipletWalkTimeout i) s = .next t ∧ (chanSide i t).state = .fenced ∧ Fenced (0x7000 + i) 0 t) ∧
  (∀ (i j : Nat) (s : State), i < 1152 → walkOver chipletRule s.clock.now (chanSide i s).walk = true →
    ∃ t, exec (.chipletWalkIdentify i j) s = .next t ∧ Fenced (0x7000 + i) 0 t) ∧
  (∀ (i : Nat) (s : State), i < 1152 → walkOver chipletRule s.clock.now (chanSide i s).walk = true →
    ∃ t, exec (.chipletWalkOrder i) s = .next t ∧ Fenced (0x7000 + i) 0 t) ∧
  (∀ (i : Nat) (s : State), i < 1152 → walkOver chipletRule s.clock.now (chanSide i s).walk = true →
    ∃ t, exec (.chipletWalkStep i) s = .next t ∧ Fenced (0x7000 + i) 0 t) ∧
  (∀ (i : Nat) (pass : Bool) (s : State), i < 1152 → walkOver chipletRule s.clock.now (chanSide i s).walk = true →
    ∃ t, exec (.chipletWalkVerify i pass) s = .next t ∧ Fenced (0x7000 + i) 0 t) ∧
  (∀ (i : Nat) (s : State), i < 1152 → instRx i = false → (chanSide i s).state = .spare →
    ∃ t, exec (.ringLockLoss i false) s = .next t ∧
      chanSide i t = { chanSide i s with state := .relock, walk := chipWalk i s } ∧ OnlyChanges [.chans] s t) ∧
  (∀ (i : Nat) (s : State), i < 1152 → instRx i = true → (chanSide i s).state = .data →
    (chanSide i s).checker.inject.1 = 0 →
    ∃ t, exec (.ringLockLoss i false) s = .next t ∧ Faulted (0x7000 + i) .c s t ∧
      (chanSide i t).walk = chipWalk i s)

/-- Comb lasers: at its SPARE point a primary with a free spare starts a hand-over; 30 ms on the array's engines are asked
to pause; at their boundary the spare takes the line, and 20 µs later they serve again; a failed line is off and puts its array in dark-line mode; a lost
chiplet is fenced (R113–R116).
Model choices and inferences it leans on: log 3, 102. -/
def Obligations.CombLasers : Prop :=
  (∀ (chip a k : Nat) (s : State), chip < 4 → a < 4 → k < 32 → (laserGet (combPrimary chip a k) s).fade = .ok →
    spareFree chip k s = true → combLights (combPrimary chip a k) s = some a →
    ∃ t, exec (.combSparePoint (combPrimary chip a k)) s = .next t ∧
      (laserGet (combPrimary chip a k) t).fade = .sparePoint ∧ (laserGet (combSpare chip k) t).lit = true ∧
      tget none t.banks.handover (lineKey chip k) = some (a, s.clock.now) ∧ combPrimary chip a k ∈ t.las.worn ∧
      s.faults.entered < t.faults.entered) ∧
  (∀ (chip a k t0 : Nat) (s : State), chip < 4 → k < 32 → tget none s.banks.handover (lineKey chip k) = some (a, t0) →
    t0 + 30000000 ≤ s.clock.now → lineKey chip k ∉ s.banks.pauseWanted → waveOver (flankOfNum (chip / 2)) s = true →
    ∃ t, exec (.combPauseRequest chip k) s = .next t ∧ lineKey chip k ∈ t.banks.pauseWanted ∧
      (∀ p ∈ arrayClusters chip a, ∀ c, c < 16 → bankFenced p c s = false → (bankGet p c s).state = .inService →
        (atBoundary p c s = true → (bankGet p c t).state = .lightPause) ∧
        (atBoundary p c s = false → (bankGet p c t).claim = some .lightPause)) ∧ OnlyChanges [.banks] s t) ∧
  (∀ (chip a k t0 : Nat) (failing : List (Nat × Nat)) (s : State),
    tget none s.banks.handover (lineKey chip k) = some (a, t0) → lineKey chip k ∈ s.banks.pauseWanted →
    tget none s.banks.paused (lineKey chip k) = none →
    (∀ x ∈ arrayCores chip a s, atBoundary (x / 16) (x % 16) s = true) →
    ∃ t, exec (.combHandoverPause chip k failing) s = .next t ∧ tget 0 t.banks.spare (lineKey chip k) = a + 1 ∧
      tget none t.banks.paused (lineKey chip k) = some s.clock.now ∧
      (laserGet (combPrimary chip a k) t).lit = false ∧ t.banks.handover = s.banks.handover) ∧
  (∀ (chip a k t0 t1 : Nat) (failing : List (Nat × Nat)) (s : State),
    tget none s.banks.handover (lineKey chip k) = some (a, t0) → lineKey chip k ∈ s.banks.pauseWanted →
    tget none s.banks.paused (lineKey chip k) = some t1 → s.clock.now < t1 + 20000 →
    exec (.combHandoverPause chip k failing) s = .next s) ∧
  (∀ (chip a k t0 t1 : Nat) (s : State), tget none s.banks.handover (lineKey chip k) = some (a, t0) →
    lineKey chip k ∈ s.banks.pauseWanted → tget none s.banks.paused (lineKey chip k) = some t1 →
    t1 + 20000 ≤ s.clock.now →
    ∃ t, exec (.combHandoverPause chip k []) s = .next t ∧ lineKey chip k ∉ t.banks.pauseWanted ∧
      t.banks.handover = tset none s.banks.handover (lineKey chip k) none ∧
      (∀ p ∈ arrayClusters chip a, ∀ c, c < 16 → (bankGet p c s).state = .lightPause →
        (bankGet p c t).state = .inService ∨ (bankGet p c t).state = .darkLine)) ∧
  (∀ (chip a k : Nat) (s : State), chip < 4 → a < 4 → k < 32 → (laserGet (combPrimary chip a k) s).fade ≠ .failed →
    combLights (combPrimary chip a k) s = some a → tget [] s.banks.dark (chip * 4 + a) = [] →
    ∃ t, exec (.combLineFailure (combPrimary chip a k)) s = .next t ∧
      (laserGet (combPrimary chip a k) t).fade = .failed ∧ (laserGet (combPrimary chip a k) t).lit = false ∧
      tget [] t.banks.dark (chip * 4 + a) = [k] ∧ Fenced (0xA000 + combPrimary chip a k) 0 t) ∧
  (∀ (chip : Nat) (s : State), chip < 4 → chip ∉ s.banks.chipFenced →
    ∃ t, exec (.combChipletFailure chip) s = .next t ∧ chip ∈ t.banks.chipFenced ∧
      ∀ p c, combChip p = chip → c < 16 → bankServes p c t = false)

/-- Lasers: a sample of a lit laser is kept with the last hundred; above 80 % of its bias limit it reports WARN, class C;
below half of its output it fails; a failed laser is off, worn and fenced with class U; at a band change every laser of a
chiplet takes the band's bias table (R293–R296, R301, R303, R312).
Hand-overs of link lasers: at its SPARE point a laser that lights a wavelength brings its free spare in; 30 ms on, with
the primary off, the selector routes the spare; a verified channel is a spare lane again; a control port goes over to its
warm spare while the other port is stable, and trains on it (R301, R302, R312).
Model choices and inferences it leans on: log 60. -/
def Obligations.LinkAndPortLasers : Prop :=
  (∀ (inst bias output : Nat) (x : Laser) (s : State), isLaser inst = true → (laserGet inst s).lit = true →
    (laserGet inst s).fade ≠ .failed → 500 ≤ output →
    x = { laserHours s.clock.now (laserGet inst s) with
      samples := ((bias, output) :: (laserHours s.clock.now (laserGet inst s)).samples).take 100 } →
    100 * meanBias x < 80 * biasLimit inst x.band → 800 ≤ meanOutput x →
    exec (.laserSample inst bias output) s = .next (laserSet inst x s)) ∧
  (∀ (inst bias output : Nat) (x : Laser) (s : State), isLaser inst = true → (laserGet inst s).lit = true →
    (laserGet inst s).fade = .ok → 500 ≤ output →
    x = { laserHours s.clock.now (laserGet inst s) with
      samples := ((bias, output) :: (laserHours s.clock.now (laserGet inst s)).samples).take 100 } →
    80 * biasLimit inst x.band ≤ 100 * meanBias x → 100 * meanBias x < 95 * biasLimit inst x.band → 800 ≤ meanOutput x →
    ∃ t, exec (.laserSample inst bias output) s = .next t ∧ (laserGet inst t).fade = .warn ∧ (laserGet inst t).lit = true ∧
      Faulted (0xA000 + inst) .c s t) ∧
  (∀ (inst bias output : Nat) (s : State), isLaser inst = true → (laserGet inst s).lit = true →
    (laserGet inst s).fade ≠ .failed → output < 500 →
    ∃ t, exec (.laserSample inst bias output) s = .next t ∧ (laserGet inst t).fade = .failed ∧
      (laserGet inst t).lit = false ∧ Fenced (0xA000 + inst) 0 t) ∧
  (∀ (inst : Nat) (s : State), isLaser inst = true → (laserGet inst s).lit = true → (laserGet inst s).fade ≠ .failed →
    ∃ t, exec (.laserFailure inst) s = .next t ∧ (laserGet inst t).fade = .failed ∧ (laserGet inst t).lit = false ∧
      inst ∈ t.las.worn ∧ Fenced (0xA000 + inst) 0 t) ∧
  (∀ (chip : Nat) (s : State), chip < 13 → tget 0 s.las.chipBand chip ≠ tget 0 s.therm.bands (16 + chip) →
    (∀ e ∈ s.las.laser, e.1 ∈ chipLasers chip → e.2.lit = false) →
    exec (.laserBandChange chip) s = .next { s with las := { s.las with
      chipBand := tset 0 s.las.chipBand chip (tget 0 s.therm.bands (16 + chip)),
      laser := (chipLasers chip).foldl (fun u i =>
        tset {} u i { tget {} u i with band := tget 0 s.therm.bands (16 + chip) }) s.las.laser } }) ∧
  (∀ (inst : Nat) (s : State), inst < 0x120 → (laserGet inst s).lit = true → (laserGet inst s).fade ≠ .sparePoint →
    (laserGet inst s).fade ≠ .failed → pathLaser (inst / 36) (inst % 18) s = inst →
    linkSpareLeft (inst / 36) (inst % 18) s = true → waveKey (inst / 36) (inst % 18) ∉ s.las.gone →
    handoverWaits (inst / 36) (inst % 18) s = false →
    ∃ t h, exec (.linkLaserSparePoint inst) s = .next t ∧ (laserGet inst t).fade = .sparePoint ∧ inst ∈ t.las.worn ∧
      tget none t.las.handover (waveKey (inst / 36) (inst % 18)) = some h ∧ h.began = s.clock.now ∧ h.switched = false ∧
      (laserGet (inst / 36 * 36 + 18 + inst % 18) t).lit = true ∧ s.faults.entered < t.faults.entered) ∧
  (∀ (n k : Nat) (h : Handover) (s : State), n < 8 → k < 18 → tget none s.las.handover (waveKey n k) = some h →
    h.primaryOff = true → h.switched = false → h.began + 30000000 ≤ s.clock.now → waveKey n k ∉ s.las.gone →
    ∃ t, exec (.linkSpareSwitch n k) s = .next t ∧ waveKey n k ∈ t.las.spareIn) ∧
  (∀ (link k : Nat) (h : Handover) (s : State), link < 32 → k < 18 →
    tget none s.las.handover (waveKey (link / 4) k) = some h → h.switched = true →
    (chanSide (txi link k) s).state = .warming → (∀ q ∈ s.las.queued, q / 18 ≠ link / 4) →
    ∃ t, exec (.linkSpareVerified link k true) s = .next t ∧
      t.chans = tset {} s.chans (txi link k) { chanSide (txi link k) s with state := .spare } ∧
      OnlyChanges [.las, .chans] s t) ∧
  (∀ (p : Port) (s : State), (portSt p s).spareWarm = true → (portSt p s).spareUsed = false →
    (portSt (otherPort p) s).stable = true → (portSt (otherPort p) s).phase = .active →
    (portSt (otherPort p) s).activeAt + 100000000 ≤ s.clock.now →
    (laserGet (portSpare p) s).litAt + 30000000 ≤ s.clock.now →
    ∃ t, exec (.portLaserSwitch p) s = .next t ∧ (portSt p t).phase = .training ∧ (portSt p t).spareUsed = true ∧
      (portSt p t).spareWarm = false ∧ (portSt (otherPort p) t).phase = .active ∧ (portSt (otherPort p) t).stable = true)

/-- Lane moves and retirement: the receiving end takes the lane from its new channel and gives the old one the spare lane;
an acknowledged move is over and its channel carries the lane; unanswered 200 µs after its slot the block goes out again
with a new slot; a lane lost for 2 µs asks for a retrain; a channel judged unfit is held in CHECK, or its lane moves to
the free spare (R297–R300, R304).
Model choices and inferences it leans on: log 43. -/
def Obligations.LaneMoves : Prop :=
  (∀ (link lane a b old : Nat) (slot : BitVec 48) (s : State), link < 32 → lane < 18 → a < 18 → b < 18 → a ≠ b →
    (linkGet link s).rxActive = true → (chanSide (rxi link a) s).lane = some lane →
    (chanSide (rxi link b) s).lane = some old → (linkGet link s).rxSlot ≤ slot.toNat →
    ∃ t, exec (.laneMove link lane a b slot) s = .next t ∧ (chanSide (rxi link b) t).lane = some lane ∧
      (chanSide (rxi link a) t).lane = some old ∧ (chanSide (rxi link a) t).state = .spare ∧
      (chanSide (rxi link b) t).state = (if lane < widthOf link s then .data else .spare) ∧
      OnlyChanges [.chans, .links] s t) ∧
  (∀ (link lane old : Nat) (slot : BitVec 48) (m : LaneMove) (s : State), link < 32 →
    ((linkGet link s).moves.find? fun x => x.lane = lane && x.slot = slot.toNat) = some m → m.a < 18 → m.b < 18 → m.a ≠ m.b →
    (chanSide (txi link m.b) s).lane = some old →
    ∃ t, exec (.laneMoveAck link lane slot) s = .next t ∧
      t.links = tset {} s.links link { linkGet link s with moves := (linkGet link s).moves.erase m } ∧
      (chanSide (txi link m.b) t).lane = some lane ∧ (chanSide (txi link m.b) t).state = .data ∧
      (chanSide (txi link m.a) t).lane = some old ∧ OnlyChanges [.las, .chans, .links] s t) ∧
  (∀ (link lane : Nat) (m : LaneMove) (s : State), link < 32 →
    ((linkGet link s).moves.find? fun x => x.lane = lane) = some m → m.slot + 15625 ≤ (linkGet link s).slot → m.attempts < 3 →
    ∃ t, exec (.laneMoveTimeout link lane) s = .next t ∧
      { m with slot := (linkGet link s).slot + (if m.immediate then 8 else 1024), attempts := m.attempts + 1 } ∈
        (linkGet link t).moves ∧ OnlyChanges [.chans, .links] s t) ∧
  (∀ (link lane t0 : Nat) (s : State), link < 32 → tget none (linkGet link s).lost lane = some t0 →
    t0 + 2000 ≤ s.clock.now → (linkGet link s).st = .active → (linkGet link s).retrainAt = none →
    ∃ t, exec (.laneLossTimeout link lane) s = .next t ∧
      (linkGet link t).retrainAt = some ((linkGet link s).slot + 128) ∧ (linkGet link t).retrainMine = true ∧
      OnlyChanges [.chans, .links] s t) ∧
  (∀ (link ch : Nat) (dark : Bool) (s : State), link < 32 → ch < 18 → linkUp link s = true →
    (chanSide (txi link ch) s).state = .spare →
    ∃ t, exec (.laneRetire link ch dark) s = .next t ∧ (chanSide (txi link ch) t).state = .check ∧
      (chanSide (txi link ch) t).began = s.clock.now ∧ OnlyChanges [.chans] s t) ∧
  (∀ (link ch lane b : Nat) (dark : Bool) (s : State), link < 32 → ch < 18 → linkUp link s = true →
    (chanSide (txi link ch) s).state = .data → (chanSide (txi link ch) s).lane = some lane → freeSpare link s = some b →
    ∃ t m, exec (.laneRetire link ch dark) s = .next t ∧ m ∈ (linkGet link t).moves ∧ m.lane = lane ∧ m.a = ch ∧ m.b = b ∧
      m.attempts = 1 ∧ m.immediate = dark ∧ (chanSide (txi link ch) t).state = .moving ∧
      OnlyChanges [.chans, .links] s t) ∧
  (∀ (inst : Nat) (e : ErrorInterval) (s : State), inst < 1152 → instRx inst = true →
    (linkGet (instLink inst) s).rxActive = true → (chanSide inst s).counted.2.2 = 0 →
    (e.symbolErrors + (chanSide inst s).counted.2.1) * 10000 ≤ (e.symbols + 272 * (chanSide inst s).counted.1) * 24 →
    e.uncorrectable = 0 → e.toneFailed = false →
    ∃ t, exec (.channelErrorInterval inst e) s = .next t ∧
      t.chans = tset {} s.chans inst { chanSide inst s with
        corrected := min 65535 (e.corrected + (chanSide inst s).counted.2.1), badIntervals := 0, counted := (0, 0, 0) } ∧
      OnlyChanges [.chans] s t) ∧
  (∀ (inst : Nat) (e : ErrorInterval) (s : State), inst < 1152 → instRx inst = true →
    (linkGet (instLink inst) s).rxActive = true → (e.symbols + 272 * (chanSide inst s).counted.1) * 24 <
      (e.symbolErrors + (chanSide inst s).counted.2.1 + 8 * (chanSide inst s).counted.2.2) * 10000 →
    (chanSide inst s).checker.inject.1 = 0 → ((chanSide inst s).state = .data ∨ (chanSide inst s).state = .spare) →
    ∃ t, exec (.channelErrorInterval inst e) s = .next t ∧ Faulted (0x7000 + inst) .c s t)

/-- Pitch checks of lanes: a due channel on a spare lane enters CHECK and tells the far end, whose channel enters it too;
a report sets the transmitter's trims; 60 µs on the check ends: few enough bit errors and the channel is a spare lane
with its age begun anew, a failed tone and its ring is identified again, too many errors and the channel is fenced
(R307–R310).
Model choices and inferences it leans on: log 43, 85, 112, 114. -/
def Obligations.LaneChecks : Prop :=
  (∀ (inst lane : Nat) (s : State), inst < 1152 → instRx inst = false → linkUp (instLink inst) s = true →
    checkDue (chanSide inst s) ≤ s.clock.now → s.clock.now < (chanSide inst s).checkedAt + 40000000000 →
    (chanSide inst s).state = .spare → (chanSide inst s).lane = some lane → widthOf (instLink inst) s ≤ lane →
    dirChecking (instLink inst) s = false → (linkGet (instLink inst) s).moves = [] →
    (linkGet (instLink inst) s).change = none → dirHandover (instLink inst) s = false →
    (linkGet (instLink inst) s).txSleep = false →
    ∃ t, exec (.laneCheckDue inst) s = .next t ∧ (chanSide inst t).state = .check ∧
      (chanSide inst t).began = s.clock.now ∧ (0x13, blockBody (zeros 1 ++ leBytes 1 (instCh inst))) ∈ (chanSide inst t).blocks ∧
      OnlyChanges [.chans] s t) ∧
  (∀ (link ch : Nat) (s : State), link < 32 → ch < 18 → (linkGet link s).rxActive = true →
    (chanSide (rxi link ch) s).state ≠ .fenced → (chanSide (rxi link ch) s).state ≠ .dark →
    ∃ t, exec (.checkStart link ch) s = .next t ∧
      chanSide (rxi link ch) t = { chanSide (rxi link ch) s with state := .check, began := s.clock.now } ∧
      OnlyChanges [.chans] s t) ∧
  (∀ (link : Nat) (r : CheckReport) (s : State), link < 32 → r.ch < 18 → (chanSide (txi link r.ch) s).state = .check →
    ∃ t, exec (.checkReport link r) s = .next t ∧
      chanSide (txi link r.ch) t = { chanSide (txi link r.ch) s with
        bias := (chanSide (txi link r.ch) s).bias + r.bias, drive := (chanSide (txi link r.ch) s).drive + r.drive } ∧
      OnlyChanges [.chans] s t) ∧
  (∀ (inst : Nat) (r : LaneCheck) (s : State), inst < 1152 → (chanSide inst s).state = .check →
    (chanSide inst s).began + 60000 ≤ s.clock.now → r.walkFailed = false → r.toneFailed = false →
    r.errors * 100000 ≤ r.bits → (chanSide inst s).walk.state = .idle →
    (s.las.handover.filter fun e => e.1 / 18 = instLink inst / 4) = [] → (chanSide inst s).lane ≠ none →
    ∃ t, exec (.checkResult inst r) s = .next t ∧ (chanSide inst t).state = .spare ∧
      (chanSide inst t).checkedAt = s.clock.now ∧ (chanSide inst t).urgent = false ∧ (chanSide inst t).marginal = false ∧
      OnlyChanges [.chans, .free] s t) ∧
  (∀ (inst : Nat) (r : LaneCheck) (s : State), inst < 1152 → (chanSide inst s).state = .check →
    (chanSide inst s).began + 60000 ≤ s.clock.now → r.walkFailed = false → r.toneFailed = true →
    (s.las.handover.filter fun e => e.1 / 18 = instLink inst / 4) = [] →
    ∃ t, exec (.checkResult inst r) s = .next t ∧ (chanSide inst t).state = .relock ∧
      (chanSide inst t).walk = chipWalk inst s ∧ OnlyChanges [.chans] s t) ∧
  (∀ (inst : Nat) (r : LaneCheck) (s : State), inst < 1152 → (chanSide inst s).state = .check →
    (chanSide inst s).began + 60000 ≤ s.clock.now →
    (r.walkFailed = true ∨ (r.toneFailed = false ∧ r.bits * 24 < r.errors * 100000)) →
    ∃ t, exec (.checkResult inst r) s = .next t ∧ (chanSide inst t).state = .fenced ∧ Fenced (0x7000 + inst) 0 t)

/-- Training of a link end: each state ends as Table 12-4 says: BIVOUAC to LIGHT for a configured link, SEND to ALIGN with
eight verified channels, ALIGN to MAP with eight locked, MAP to NEGOTIATE with eight mapped; NEGOTIATE agrees the width and
and, once both ends have set NEG_DONE, names ACTIVE_AT, or finds a loopback or a wrong neighbour; the lane of a control
port runs through the same states on its one channel and meets a host of ROLE 3 and frame version 1, any other word being a
class C fault and a return to SEND (R202, R203, R306, R327, R328, R330, R331, R332, R342; logs 111, 115, 116).
Timers and slots of training: 10 ms in LIGHT and the link goes DARK with a class U fault; ALIGN, MAP and NEGOTIATE
return to SEND three times, then bivouac for 100 ms; a direction is ACTIVE at its slot, and a link with both in its group
is in service; 2 s in SEND without light sets NO_PEER; light ends it; a retrain or a link out of service is in SEND; the
lanes of the control ports follow the same timers (R202, R204, R327, R328, R332, R333, R355, R361; log 111).
Model choices and inferences it leans on: log 27, 111, 115, 116. -/
def Obligations.LinkTraining : Prop :=
  (∀ (link : Nat) (x : TrainInput) (s : State), link < 32 → s.dev.state ≠ .haltedThermal → (linkGet link s).st = .bivouac →
    (linkGet link s).bivouacTill = none → (linkGet link s).looped = false → (linkGet link s).miswired = false →
    linkConfigured link s = true →
    ∃ t, exec (.trainingAdvance link x) s = .next t ∧ (linkGet link t).st = .light ∧ (linkGet link t).stAt = s.clock.now) ∧
  (∀ (link : Nat) (x : TrainInput) (s : State), link < 32 → s.dev.state ≠ .haltedThermal → (linkGet link s).st = .send →
    8 ≤ x.verified.length →
    ∃ t, exec (.trainingAdvance link x) s = .next t ∧ (linkGet link t).st = .align ∧ (linkGet link t).light = true ∧
      (linkGet link t).stAt = s.clock.now) ∧
  (∀ (link : Nat) (x : TrainInput) (s : State), link < 32 → s.dev.state ≠ .haltedThermal → (linkGet link s).st = .align →
    8 ≤ (chNums.filter fun k => x.locked.contains k || (chanSide (rxi link k) s).locked).length →
    ∃ t, exec (.trainingAdvance link x) s = .next t ∧ (linkGet link t).st = .map ∧ (linkGet link t).stAt = s.clock.now ∧
      ∀ k ∈ x.locked, k < 18 → (chanSide (rxi link k) t).locked = true) ∧
  (∀ (link : Nat) (x : TrainInput) (m : List (Nat × Nat)) (s : State), link < 32 → s.dev.state ≠ .haltedThermal →
    (linkGet link s).st = .map →
    m = ((mappedOf x).filter fun p =>
      (chanSide (rxi link p.1) s).state ≠ .fenced || (x.checked.contains p.1 && p.1 < 18)) → 8 ≤ m.length →
    ∃ t, exec (.trainingAdvance link x) s = .next t ∧ (linkGet link t).st = .negotiate ∧
      (linkGet link t).stAt = s.clock.now ∧ (linkGet link t).reversed = isReversed m ∧
      (linkGet link t).rxUsable = (chNums.filter fun k => m.any fun p => p.1 = k) ∧
      (∀ k ∈ x.checked, k < 18 → (chanSide (rxi link k) s).state = .fenced →
        (chanSide (rxi link k) t).state = .spare) ∧
      ∀ k, k < 18 → (chanSide (rxi link k) t).lane = (m.find? fun p => p.1 = k).map (·.2)) ∧
  (∀ (link w : Nat) (x : TrainInput) (s : State), link < 32 → s.dev.state ≠ .haltedThermal →
    (linkGet link s).st = .negotiate → (linkGet link s).negDone = false →
    ¬ (x.farNonce = (linkGet link s).nonce ∧ bitsOf x.farCap.toNat 51 32 = s.fab.id) →
    neighbourOk link x.farCap s = true →
    ((proposal link s).bind fun v => agreeWidth v (codeWidth x.farWidth) x.farCap) = some w →
    ∃ t, exec (.trainingAdvance link x) s = .next t ∧ (linkGet link t).negDone = true ∧ (linkGet link t).width = some w ∧
      (linkGet link t).rtt = roundTrip (linkGet link s).slot x ∧
      (linkGet link t).leader = (x.farNonce.toNat < (linkGet link s).nonce.toNat ||
        (x.farNonce = (linkGet link s).nonce && bitsOf x.farCap.toNat 51 32 < s.fab.id)) ∧
      (x.farNegDone = false → (linkGet link t).txAt = (linkGet link s).txAt ∧
        (linkGet link t).rxAt = (linkGet link s).rxAt) ∧ OnlyChanges [.links] s t) ∧
  (∀ (link : Nat) (x : TrainInput) (s : State), link < 34 → s.dev.state ≠ .haltedThermal →
    (32 ≤ link → (portSt (lanePort link) s).phase = .training ∧ (portSt (lanePort link) s).fenced = false) →
    (linkGet link s).st = .negotiate → (linkGet link s).negDone = true → x.farNegDone = true →
    (linkGet link s).txActive = false → (linkGet link s).rxActive = false → (linkGet link s).txAt = none →
    (linkGet link s).rxAt = none →
    exec (.trainingAdvance link x) s = .next (linkSet link { linkGet link s with
      txAt := some ((linkGet link s).slot + 256)
      rxAt := if x.farActiveAt ≠ 0 then some x.farActiveAt.toNat else none } s)) ∧
  (∀ (link : Nat) (x : TrainInput) (s : State), link < 32 → s.dev.state ≠ .haltedThermal →
    (linkGet link s).st = .negotiate → (linkGet link s).negDone = false → x.farNonce = (linkGet link s).nonce →
    bitsOf x.farCap.toNat 51 32 = s.fab.id →
    ∃ t, exec (.trainingAdvance link x) s = .next t ∧ (linkGet link t).st = .bivouac ∧ (linkGet link t).looped = true ∧
      s.faults.entered < t.faults.entered) ∧
  (∀ (x : TrainInput) (s : State), s.dev.state ≠ .haltedThermal → (portSt .cp0 s).phase = .training →
    (portSt .cp0 s).fenced = false → (linkGet 32 s).st = .light → 0 ∈ x.verified →
    ∃ t, exec (.trainingAdvance 32 x) s = .next t ∧ (linkGet 32 t).st = .send ∧ (linkGet 32 t).sent = true ∧
      (linkGet 32 t).txWorking = [0] ∧ (chanSide 1152 t).lane = some 0 ∧ OnlyChanges [.chans, .links, .free] s t) ∧
  (∀ (x : TrainInput) (s : State), s.dev.state ≠ .haltedThermal → (portSt .cp0 s).phase = .training →
    (portSt .cp0 s).fenced = false → (linkGet 32 s).st = .send → 0 ∈ x.verified →
    exec (.trainingAdvance 32 x) s = .next (linkSet 32 { linkGet 32 s with
      light := true, st := .align, stAt := s.clock.now } s)) ∧
  (∀ (x : TrainInput) (s : State), s.dev.state ≠ .haltedThermal → (portSt .cp0 s).phase = .training →
    (portSt .cp0 s).fenced = false → (linkGet 32 s).st = .align → 0 ∈ x.locked →
    ∃ t, exec (.trainingAdvance 32 x) s = .next t ∧ (linkGet 32 t).st = .map ∧ (chanSide 1153 t).locked = true ∧
      OnlyChanges [.chans, .links] s t) ∧
  (∀ (x : TrainInput) (slot : BitVec 48) (s : State), s.dev.state ≠ .haltedThermal →
    (portSt .cp0 s).phase = .training → (portSt .cp0 s).fenced = false → (linkGet 32 s).st = .map →
    (⟨0, true, 0, 0, slot, 0⟩ : Heard) ∈ x.heard →
    ∃ t, exec (.trainingAdvance 32 x) s = .next t ∧ (linkGet 32 t).st = .negotiate ∧ (linkGet 32 t).rxUsable = [0] ∧
      (chanSide 1153 t).lane = some 0 ∧ OnlyChanges [.chans, .links] s t) ∧
  (∀ (x : TrainInput) (s : State), s.dev.state ≠ .haltedThermal → (portSt .cp0 s).phase = .training →
    (portSt .cp0 s).fenced = false → (linkGet 32 s).st = .negotiate → (linkGet 32 s).negDone = false →
    bitsOf x.farCap.toNat 7 4 = 3 → bitsOf x.farCap.toNat 23 16 = 1 →
    ∃ t, exec (.trainingAdvance 32 x) s = .next t ∧ (linkGet 32 t).negDone = true ∧
      (linkGet 32 t).farCap = x.farCap ∧ OnlyChanges [.links] s t) ∧
  (∀ (x : TrainInput) (s : State), s.dev.state ≠ .haltedThermal → (portSt .cp0 s).phase = .training →
    (portSt .cp0 s).fenced = false → (linkGet 32 s).st = .negotiate → (linkGet 32 s).negDone = false →
    (bitsOf x.farCap.toNat 7 4 ≠ 3 ∨ bitsOf x.farCap.toNat 23 16 ≠ 1) → (linkGet 32 s).returns < 3 →
    ∃ t, exec (.trainingAdvance 32 x) s = .next t ∧ Faulted 0xD000 .c s t ∧ (linkGet 32 t).st = .send ∧
      (linkGet 32 t).negDone = false ∧ (linkGet 32 t).returns = (linkGet 32 s).returns + 1) ∧
  (∀ (link : Nat) (s : State), link < 32 → (linkGet link s).st = .light → (linkGet link s).stAt + 10000000 ≤ s.clock.now →
    ∃ t, exec (.trainingTimeout link) s = .next t ∧ linkUp link t = false ∧ Fenced (0x8000 + link) 0 t) ∧
  (∀ (link : Nat) (s : State), link < 32 → ((linkGet link s).st = .align ∨ (linkGet link s).st = .map) →
    (linkGet link s).stAt + 10000000 ≤ s.clock.now → (linkGet link s).returns < 3 →
    ∃ t, exec (.trainingTimeout link) s = .next t ∧ (linkGet link t).st = .send ∧ (linkGet link t).stAt = s.clock.now ∧
      (linkGet link t).returns = (linkGet link s).returns + 1) ∧
  (∀ (link : Nat) (s : State), link < 32 → ((linkGet link s).st = .align ∨ (linkGet link s).st = .map) →
    (linkGet link s).stAt + 10000000 ≤ s.clock.now → 3 ≤ (linkGet link s).returns → (linkGet link s).bivouacs < 3 →
    ∃ t, exec (.trainingTimeout link) s = .next t ∧ (linkGet link t).st = .bivouac ∧
      (linkGet link t).bivouacTill = some (s.clock.now + 100000000) ∧
      (linkGet link t).bivouacs = (linkGet link s).bivouacs + 1 ∧ (linkGet link t).returns = 0) ∧
  (∀ (link b : Nat) (s : State), link < 32 → (linkGet link s).st = .bivouac → (linkGet link s).bivouacTill = some b →
    b ≤ s.clock.now →
    ∃ t, exec (.bivouacExitTimer link) s = .next t ∧ (linkGet link t).st = .light ∧ (linkGet link t).bivouacTill = none) ∧
  (∀ (link a : Nat) (s : State), link < 32 → (linkGet link s).txAt = some a →
    ∃ t, exec (.activeAtReached link true) s = .next t ∧ (linkGet link t).txActive = true ∧ (linkGet link t).txAt = none ∧
      (linkGet link t).slot = max (linkGet link s).slot a ∧
      ((linkGet link s).rxActive = true → linkUp link t = true ∧ (linkGet link t).st = .active ∧
        isFenced (0x8000 + link) 0 t = false)) ∧
  (∀ (link a : Nat) (s : State), link < 32 → (linkGet link s).rxAt = some a →
    ∃ t, exec (.activeAtReached link false) s = .next t ∧ (linkGet link t).rxActive = true ∧ (linkGet link t).rxAt = none ∧
      (linkGet link t).expect = 0 ∧ (linkGet link t).rxSlot = max (linkGet link s).rxSlot a) ∧
  (∀ (link : Nat) (s : State), link < 32 → (linkGet link s).st = .send → (linkGet link s).light = false →
    (linkGet link s).stAt + 2000000000 ≤ s.clock.now →
    exec (.noPeerTimer link) s = .next (linkSet link { linkGet link s with noPeer := true } s)) ∧
  (∀ (link : Nat) (s : State), link < 32 → (linkGet link s).st = .send →
    exec (.lightArrival (.link link)) s =
      .next (linkSet link { linkGet link s with light := true, noPeer := false } s)) ∧
  (∀ (p : Port) (s : State), (portSt p s).phase = .down → (portSt p s).fenced = false → s.dev.state ≠ .haltedThermal →
    (laserGet (portLaser p s) s).fade ≠ .failed → (linkGet (portLink p) s).st ≠ .bivouac →
    ∃ t, exec (.lightArrival (.port p)) s = .next t ∧ portSt p t = { portSt p s with phase := .training } ∧
      (linkGet (portLink p) t).st = .light ∧ (linkGet (portLink p) t).stAt = s.clock.now ∧
      OnlyChanges [.links, .ports] s t) ∧
  (∀ s : State, (portSt .cp0 s).phase = .training → (linkGet 32 s).st = .light →
    (linkGet 32 s).stAt + 10000000 ≤ s.clock.now →
    ∃ t, exec (.trainingTimeout 32) s = .next t ∧ (portSt .cp0 t).phase = .down ∧ (portSt .cp0 t).fenced = true ∧
      Fenced 0xD000 0 t) ∧
  (∀ s : State, (portSt .cp0 s).phase = .training → ((linkGet 32 s).st = .align ∨ (linkGet 32 s).st = .map) →
    (linkGet 32 s).stAt + 10000000 ≤ s.clock.now → (linkGet 32 s).returns < 3 →
    ∃ t, exec (.trainingTimeout 32) s = .next t ∧ (linkGet 32 t).st = .send ∧
      (linkGet 32 t).returns = (linkGet 32 s).returns + 1 ∧ OnlyChanges [.chans, .links, .free] s t) ∧
  (∀ s : State, (portSt .cp0 s).phase = .training → ((linkGet 32 s).st = .align ∨ (linkGet 32 s).st = .map) →
    (linkGet 32 s).stAt + 10000000 ≤ s.clock.now → 3 ≤ (linkGet 32 s).returns →
    ∃ t, exec (.trainingTimeout 32) s = .next t ∧ (portSt .cp0 t).phase = .down ∧ (linkGet 32 t).st = .bivouac ∧
      (linkGet 32 t).bivouacTill = some (s.clock.now + 100000000) ∧ OnlyChanges [.links, .ports] s t) ∧
  (∀ (b : Nat) (s : State), (portSt .cp0 s).fenced = false → (linkGet 32 s).st = .bivouac →
    (linkGet 32 s).bivouacTill = some b → b ≤ s.clock.now →
    ∃ t, exec (.bivouacExitTimer 32) s = .next t ∧ (portSt .cp0 t).phase = .training ∧ (linkGet 32 t).st = .light ∧
      (linkGet 32 t).bivouacTill = none) ∧
  (∀ (a : Nat) (s : State), (portSt .cp0 s).phase = .training → (linkGet 32 s).rxAt = some a →
    (linkGet 32 s).txActive = true →
    ∃ t, exec (.activeAtReached 32 false) s = .next t ∧ (portSt .cp0 t).phase = .active ∧
      (portSt .cp0 t).activeAt = s.clock.now ∧ (linkGet 32 t).st = .active) ∧
  (∀ (sl : Option (BitVec 48)) (s : State), (portSt .cp0 s).phase = .active → (linkGet 32 s).st = .active →
    ∃ t, exec (.laneRetrain 32 sl) s = .next t ∧ (portSt .cp0 t).phase = .training ∧ (linkGet 32 t).st = .send) ∧
  (∀ (link : Nat) (sl : BitVec 48) (s : State), link < 32 → (linkGet link s).retrainMine = true →
    (linkGet link s).leader = true → exec (.laneRetrain link (some sl)) s = .next s) ∧
  (∀ (link : Nat) (s : State), link < 32 → (linkGet link s).st = .active →
    ∃ t, exec (.laneRetrain link none) s = .next t ∧ (linkGet link t).st = .send ∧ (linkGet link t).sent = true ∧
      linkUp link t = false) ∧
  (∀ (link : Nat) (s : State), link < 32 → ((linkGet link s).txActive || (linkGet link s).rxActive) = true →
    ∃ t, exec (.linkLeavesActive link) s = .next t ∧ (linkGet link t).st = .send ∧ linkUp link t = false ∧
      (linkGet link t).stAt = s.clock.now)

/-- Slots, codewords and locks: each codeword slot of a link end counts its SLOT up by one, and a training end sends its
words on every working channel; a received codeword is remembered as good or bad, and 16 bad ones of 64 lose the lock; a
hunting channel locks; one that loses lock hunts again, with a class C fault where the direction is ACTIVE; the lane of a
control port that is DOWN only counts its slot, and one that loses lock takes its port DOWN (R202, R304, R316, R321, R322,
R326, R327, R338).
Model choices and inferences it leans on: log 56, 64, 111. -/
def Obligations.SlotsAndLocks : Prop :=
  (∀ (link : Nat) (s : State), link < 32 → (linkGet link s).sent = true → (linkGet link s).test = none →
    (linkGet link s).retrainAt = none →
    ∃ t, exec (.codewordSlot link) s = .next t ∧ (linkGet link t).slot = ((linkGet link s).slot + 1) % 2 ^ 48 ∧
      OnlyChanges [.chans, .links, .out, .free] s t) ∧
  (∀ (link : Nat) (s : State), link < 32 → (linkGet link s).sent = true → (linkGet link s).test = none →
    (linkGet link s).txActive = false → (linkGet link s).st = .send →
    ∃ t, exec (.codewordSlot link) s = .next t ∧
      ∀ k ∈ (linkGet link s).txWorking, ∃ w, .codeword link k w ∈ t.out.drop s.out.length) ∧
  (∀ s : State, (linkGet 32 s).sent = true → (portSt .cp0 s).phase = .down → (linkGet 32 s).retrainAt = none →
    exec (.codewordSlot 32) s = .next (linkSet 32 { linkGet 32 s with
      slot := ((linkGet 32 s).slot + 1) % 2 ^ 48 } s)) ∧
  (∀ (inst gap : Nat) (w : List (BitVec 10)) (bad : List Bool) (s : State), inst < 1156 → instRx inst = true →
    (chanSide inst s).locked = true → (chanSide inst s).inverted = false → w.length = 272 →
    bad = (badCw (dataBits (w.map BitVec.toNat)) :: (chanSide inst s).bad).take 64 → (bad.filter id).length < 16 →
    (linkGet (instLink inst) s).rxActive = false → (linkGet (instLink inst) s).test = none →
    ∃ t, exec (.codewordReceive inst gap w) s = .next t ∧ (chanSide inst t).bad = bad ∧ (chanSide inst t).locked = true ∧
      OnlyChanges [.chans, .links] s t) ∧
  (∀ (inst gap : Nat) (w : List (BitVec 10)) (bad : List Bool) (s : State), inst < 1152 → instRx inst = true →
    (chanSide inst s).locked = true → (chanSide inst s).inverted = false → w.length = 272 →
    bad = (badCw (dataBits (w.map BitVec.toNat)) :: (chanSide inst s).bad).take 64 → 16 ≤ (bad.filter id).length →
    (linkGet (instLink inst) s).rxSleep = false → (linkGet (instLink inst) s).rxActive = false →
    ∃ t, exec (.codewordReceive inst gap w) s = .next t ∧ (chanSide inst t).locked = false ∧ (chanSide inst t).bad = [] ∧
      OnlyChanges [.chans] s t) ∧
  (∀ (inst : Nat) (inverted : Bool) (s : State), inst < 1156 → instRx inst = true → (chanSide inst s).locked = false →
    ((linkGet (instLink inst) s).st = .align ∨ (linkGet (instLink inst) s).st = .map ∨
      (linkGet (instLink inst) s).st = .negotiate ∨ (linkGet (instLink inst) s).st = .active) → (chanSide inst s).state ≠ .dark → (chanSide inst s).state ≠ .fenced →
    exec (.channelLock inst inverted) s = .next (setChan inst
      { chanSide inst s with locked := true, inverted := inverted, bad := [], missed := 0 } s)) ∧
  (∀ (inst : Nat) (s : State), inst < 1152 → (chanSide inst s).locked = true →
    (linkGet (instLink inst) s).rxSleep = false → (linkGet (instLink inst) s).rxActive = false →
    exec (.channelLockLoss inst) s = .next (setChan inst { chanSide inst s with locked := false, bad := [] } s)) ∧
  (∀ (inst : Nat) (s : State), inst < 1152 → (chanSide inst s).locked = true →
    (linkGet (instLink inst) s).rxSleep = false → (linkGet (instLink inst) s).st = .active →
    (linkGet (instLink inst) s).rxActive = true → (chanSide inst s).checker.inject.1 = 0 →
    ∃ t, exec (.channelLockLoss inst) s = .next t ∧ Faulted (0x7000 + inst) .c s t) ∧
  (∀ s : State, (chanSide 1153 s).locked = true → (linkGet 32 s).rxSleep = false → (portSt .cp0 s).phase = .active →
    ∃ t, exec (.channelLockLoss 1153) s = .next t ∧ (chanSide 1153 t).locked = false ∧ (portSt .cp0 t).phase = .down ∧
      Faulted 0xD000 .c s t)

/-- Sleep, lane tests and width changes of a link: a quiet direction announces its sleep and sleeps at the slot it named, and
wakes at the slot WAKE names; beacons are counted; test runs start a checker afresh and end it, and a lane test ends in
BIVOUAC; a width request is answered with the width both can have, a direction's channels in CHECK or RELOCK left out (log
117), the answer fixes it, and the link switches (R299, R334, R335, R337, R339, R359, R360).
Model choices and inferences it leans on: log 63, 65, 117. -/
def Obligations.SleepTestsAndWidth : Prop :=
  (∀ (link : Nat) (slot : BitVec 48) (s : State), link < 32 → (linkGet link s).txActive = true →
    (linkGet link s).txSleep = false → (linkGet link s).sleepAt = none → (linkGet link s).stream = [] →
    (linkGet link s).moves = [] → (linkGet link s).slot + 16 ≤ slot.toNat →
    ∃ t, exec (.sleep link true slot) s = .next t ∧ (linkGet link t).sleepAt = some slot.toNat ∧
      (linkGet link t).stream = [endBlock] ∧ OnlyChanges [.chans, .links] s t) ∧
  (∀ (link : Nat) (slot : BitVec 48) (s : State), link < 32 → (linkGet link s).txActive = true →
    (linkGet link s).txSleep = false → (linkGet link s).sleepAt = some slot.toNat → (linkGet link s).wakeAt = none →
    (linkGet link s).stream = [] →
    exec (.sleep link true slot) s = .next (linkSet link { linkGet link s with
      txSleep := true, slot := max (linkGet link s).slot slot.toNat } s)) ∧
  (∀ (link : Nat) (slot : BitVec 48) (s : State), link < 32 → (linkGet link s).rxActive = true →
    exec (.sleep link false slot) s = .next (linkSet link { linkGet link s with
      rxSleep := true, rxSleepAt := some slot.toNat, rxSlot := max (linkGet link s).rxSlot slot.toNat } s)) ∧
  (∀ (link : Nat) (slot : BitVec 48) (s : State), link < 32 → (linkGet link s).wakeAt = some slot.toNat →
    exec (.wake link true slot) s = .next (linkSet link { linkGet link s with
      txSleep := false, sleepAt := none, wakeAt := none, slot := max (linkGet link s).slot slot.toNat } s)) ∧
  (∀ (link ch : Nat) (slot : BitVec 48) (s : State), link < 32 → ch < 18 → (linkGet link s).rxSleep = true →
    (slot.toNat - (linkGet link s).rxSleepAt.getD 0) % 256 = 0 →
    exec (.beacon link ch slot) s = .next (setChan (rxi link ch)
      { chanSide (rxi link ch) s with missed := 0, heard := (slot.toNat, (linkGet link s).slot) }
      (linkSet link { linkGet link s with rxSlot := max (linkGet link s).rxSlot slot.toNat } s))) ∧
  (∀ (link ch : Nat) (s : State), link < 32 → ch < 18 → (linkGet link s).rxSleep = true →
    (chanSide (rxi link ch) s).locked = true →
    exec (.beaconMiss link ch) s = .next (setChan (rxi link ch)
      { chanSide (rxi link ch) s with locked := false, missed := 4 } s)) ∧
  (∀ (inst pattern : Nat) (s : State), inst < 1156 → 1 ≤ pattern → pattern < 4 →
    exec (.testStart inst pattern) s = .next (setChan inst { chanSide inst s with
      checker := { (chanSide inst s).checker with bits := 0, lower := 0, middle := 0, upper := 0, pos := 0, place := none
                                                  pattern := some pattern } } s)) ∧
  (∀ (inst : Nat) (s : State), inst < 1156 →
    exec (.testEnd inst) s = .next (setChan inst { chanSide inst s with
      checker := { (chanSide inst s).checker with pattern := none } } s)) ∧
  (∀ (link pattern half mask until_ : Nat) (s : State), link < 32 →
    (linkGet link s).test = some (pattern, half, mask, until_) → until_ ≤ s.clock.now →
    ∃ t, exec (.laneTestDurationEnd link) s = .next t ∧ (linkGet link t).st = .bivouac ∧ (linkGet link t).test = none) ∧
  (∀ (link own : Nat) (r : WidthMsg) (s : State), link < 32 → linkUp link s = true → (linkGet link s).change = none →
    widthFor ((txLit link s).filter fun k =>
      !(heldBack link s).contains k && !(linkGet link s).excluded.contains k).length = some own →
    ∃ t, exec (.widthReq link r) s = .next t ∧ (linkGet link t).change =
      some ⟨min (min r.width own) (widthOf link s), heldBack link s, r.slot.toNat, false, true, r.exclude⟩) ∧
  (∀ (link : Nat) (r : WidthMsg) (m : WidthChange) (s : State), link < 32 → (linkGet link s).change = some m →
    m.mine = true → m.agreed = false →
    exec (.widthAck link r) s = .next (linkSet link { linkGet link s with
      change := some { m with width := r.width, slot := r.slot.toNat, agreed := true, far := r.exclude } } s)) ∧
  (∀ (link : Nat) (w : WidthChange) (s : State), link < 32 → (linkGet link s).change = some w → w.agreed = true →
    ∃ t, exec (.widthSwitch link) s = .next t ∧ (linkGet link t).width = some w.width ∧ (linkGet link t).change = none ∧
      (linkGet link t).slot = max (linkGet link s).slot w.slot)

/-- Flits: a bad FLIT_CRC leaves the sequence where it was and notes the gap; LACK in a good one frees the replay buffer; a
flit in sequence moves the expected LSEQ on and enters the window of its group; IDLE_ACK goes out after 64 ns of quiet; the
replay timer sends every kept flit again (R346–R348, R356).
Model choices and inferences it leans on: log 43. -/
def Obligations.FlitsAndReplay : Prop :=
  (∀ (link : Nat) (f : Flit) (s : State), link < 32 → (linkGet link s).rxActive = true → f.crc ≠ flitCrc f →
    (linkGet link s).gapAt = none →
    ∃ t, exec (.flitReceive link f) s = .next t ∧ (linkGet link t).expect = (linkGet link s).expect ∧
      (linkGet link t).gapAt = some s.clock.now ∧ (linkGet link t).landing = (linkGet link s).landing ∧
      OnlyChanges [.counts, .links, .out] s t) ∧
  (∀ (link : Nat) (f : Flit) (s : State), link < 32 → (linkGet link s).rxActive = true → f.crc = flitCrc f →
    f.type = 0 → f.pause = 0 → f.lflags = 0 → FabricQuiet s → (linkGet link s).pauseIn = 0 →
    ∃ t, exec (.flitReceive link f) s = .next t ∧
      (linkGet link t).replay = (linkGet link s).replay.filter (fun x => above x.lseq f.lack) ∧
      (linkGet link t).expect = (linkGet link s).expect ∧ OnlyChanges [.links] s t) ∧
  (∀ (link : Nat) (f : Flit) (s : State), link < 32 → (linkGet link s).rxActive = true → f.crc = flitCrc f →
    flitUnsequenced f = false → f.type ≠ 1 → f.type ≠ 2 → flitKnown f = true → f.pause = 0 → f.lflags.getLsbD 4 = false →
    FabricQuiet s → (linkGet link s).pauseIn = 0 → f.lseq = (linkGet link s).expect → s.faults.poisonNext = [] →
    f.gseq.toNat ≠ tget 0 s.fab.gnext (linkGroup link) →
    (f.gseq.toNat + 2 ^ 32 - tget 0 s.fab.gnext (linkGroup link)) % 2 ^ 32 < 32768 →
    (∀ h ∈ tget [] s.fab.window (linkGroup link), h.gseq ≠ f.gseq ∧ h.gseq.toNat ≠ tget 0 s.fab.gnext (linkGroup link)) →
    ∃ t, exec (.flitReceive link f) s = .next t ∧ (linkGet link t).expect = f.lseq + 1 ∧
      tget [] t.fab.window (linkGroup link) = tget [] s.fab.window (linkGroup link) ++ [f] ∧
      OnlyChanges [.counts, .links, .fab] s t) ∧
  (∀ (link : Nat) (s : State), link < 32 → (linkGet link s).txActive = true → (linkGet link s).txSleep = false →
    (linkGet link s).ackAt + 64 ≤ s.clock.now →
    ∃ t g, exec (.idleAckTimer link) s = .next t ∧ t.out = s.out ++ [.flit link g] ∧ g.type = 0 ∧
      g.lack = (linkGet link s).expect - 1 ∧ (linkGet link t).ackAt = s.clock.now ∧ OnlyChanges [.links, .out] s t) ∧
  (∀ (link : Nat) (s : State), link < 32 → (linkGet link s).txActive = true → (linkGet link s).replay ≠ [] →
    (linkGet link s).lackAt + 1000 * replayTimer link s ≤ s.clock.now → (linkGet link s).replays < 7 →
    ∃ t, exec (.replayTimer link) s = .next t ∧ (linkGet link t).replays = (linkGet link s).replays + 1 ∧
      (linkGet link t).replay = (linkGet link s).replay ∧ (linkGet link t).lackAt = s.clock.now ∧
      t.out.length = s.out.length + (linkGet link s).replay.length ∧ OnlyChanges [.counts, .links, .out] s t)

/-- End-to-end credits: CREDIT raises a source's total, opens the entry that was asked for, or closes it; a destination opens
an entry with 64 credits, tells its total again after 1 µs, closes it when idle for 10 ms and frees it once all that was
sent is consumed; a refused source waits, asks again with twice the wait, and gives up at the fabric request timeout
(R352–R354, R368).
Model choices and inferences it leans on: log 72. -/
def Obligations.EndToEndCredits : Prop :=
  (∀ (pkg vc : Nat) (total : BitVec 32) (e : CreditEntry) (s : State), credited vc = true → s.fab.waiting = [] →
    s.fab.sysWaiting = [] → tget none s.fab.src (entryKey (pkg % 2 ^ 20) vc) = some e → above total e.granted = true →
    exec (.e2eCredit pkg vc false total) s = .next { s with fab := { s.fab with
      src := tset none s.fab.src (entryKey (pkg % 2 ^ 20) vc) (some { e with granted := total }) } }) ∧
  (∀ (pkg vc : Nat) (total : BitVec 32) (a : CreditAsk) (s : State), credited vc = true → s.fab.waiting = [] →
    s.fab.sysWaiting = [] → tget none s.fab.src (entryKey (pkg % 2 ^ 20) vc) = none →
    tget none s.fab.asks (entryKey (pkg % 2 ^ 20) vc) = some a →
    exec (.e2eCredit pkg vc false total) s = .next { s with fab := { s.fab with
      src := tset none s.fab.src (entryKey (pkg % 2 ^ 20) vc) (some { granted := total, usedAt := s.clock.now })
      asks := tset none s.fab.asks (entryKey (pkg % 2 ^ 20) vc) none } }) ∧
  (∀ (pkg vc : Nat) (e : CreditEntry) (s : State), dstEntry pkg vc s = some e → e.granted ≠ e.told →
    e.toldAt + 1000 ≤ s.clock.now → pkg < 2 ^ 20 → s.fab.outq = [] → LeadsTo pkg s →
    ∃ t, exec (.e2eCreditTimer pkg vc) s = .next t ∧
      dstEntry pkg vc t = some { e with told := e.granted, toldAt := s.clock.now }) ∧
  (∀ (pkg vc : Nat) (s : State), credited vc = true → dstEntry (pkg % 2 ^ 20) vc s = none →
    entriesOf vc s.fab.dst < 4096 →
    ∃ t e, exec (.creditReq pkg vc) s = .next t ∧ dstEntry (pkg % 2 ^ 20) vc t = some e ∧ e.granted = 64 ∧
      e.closing = false) ∧
  (∀ (pkg vc : Nat) (a : CreditAsk) (s : State), tget none s.fab.asks (entryKey pkg vc) = some a → a.refused = true →
    a.askedAt + 1000 * a.waitUs ≤ s.clock.now → s.clock.now < a.began + 1000 * s.fab.timeoutUs → sysOut pkg s < 4 →
    ∃ t b, exec (.creditRetryTimer pkg vc) s = .next t ∧ tget none t.fab.asks (entryKey pkg vc) = some b ∧
      b.refused = false ∧ b.began = a.began ∧ b.askedAt = s.clock.now ∧ b.waitUs = min (2 * a.waitUs) 1000) ∧
  (∀ (pkg vc : Nat) (a : CreditAsk) (s : State), tget none s.fab.asks (entryKey pkg vc) = some a → a.refused = true →
    a.askedAt + 1000 * a.waitUs ≤ s.clock.now → a.began + 1000 * s.fab.timeoutUs ≤ s.clock.now →
    exec (.creditRetryTimer pkg vc) s = .next { s with fab := { s.fab with
      asks := tset none s.fab.asks (entryKey pkg vc) none } }) ∧
  (∀ (pkg vc : Nat) (e : CreditEntry) (s : State), dstEntry pkg vc s = some e → e.closing = false →
    e.usedAt + 10000000 ≤ s.clock.now →
    ∃ t x, exec (.entryIdleClose pkg vc) s = .next t ∧ dstEntry pkg vc t = some x ∧ x.closing = true ∧
      x.granted = e.granted) ∧
  (∀ (pkg vc : Nat) (total : BitVec 32) (e : CreditEntry) (s : State), dstEntry (pkg % 2 ^ 20) vc s = some e →
    e.closing = true → e.consumed ≠ total →
    exec (.closeAck pkg vc total) s = .next (dstSet (pkg % 2 ^ 20) vc (some { e with closeAt := some total }) s)) ∧
  (∀ (pkg vc : Nat) (e : CreditEntry) (s : State), dstEntry (pkg % 2 ^ 20) vc s = some e → e.closing = true →
    exec (.closeAck pkg vc e.consumed) s = .next (dstSet (pkg % 2 ^ 20) vc none
      (dstSet (pkg % 2 ^ 20) vc (some { e with closeAt := some e.consumed }) s))) ∧
  (∀ (pkg k : Nat) (tag : BitVec 32) (status : BitVec 8) (a : CreditAsk) (s : State), s.fab.waiting = [] →
    s.fab.sysWaiting = [] → (s.fab.reqs.find? fun r => r.tag = tag && r.engine.isNone && r.purpose != 3) = none →
    (s.fab.asks.find? fun e => e.2.any fun x => x.tag = tag && !x.refused) = some (k, some a) →
    exec (.sysResp pkg tag status) s = .next { s with fab := { s.fab with
      asks := tset none s.fab.asks k (if status.toNat = Status.busy.code
        then some { a with askedAt := s.clock.now, refused := true } else none) } })

/-- Peers: a read of a loan window or of a register open to peers is answered with its data, a write to a loan window stores
its bytes and is answered; SEND data is kept under its sender and tag; a response ends the request it names, one with
another status than OK is a class D fault, and a late one touches nothing but the counts; a line of DRAM that the decoder
finds uncorrectable answers a read with poison; a request past the fabric request timeout is given up; a loan asked for is
opened on zeroed DRAM and closed on its return (R150, R188, R195, R196, R354, R367, R368).
Model choices and inferences it leans on: log 23, 73. -/
def Obligations.PeersAndRequests : Prop :=
  (∀ (pkg r : Nat) (tag : BitVec 32) (addr : BitVec 64) (found : List (Nat × BadSymbols)) (s : State),
    place addr.toNat s = .reg r → [0, 6, 9].contains (regBlock (regOff r)) = true →
    regSecure (regOff r) = false → regOff r % 8 = 0 →
    exec (.peerReadReq pkg tag addr ⟨8, found⟩) s = .next (respond 0x18 (pkg % 2 ^ 20) tag .ok false
      (leBytes 8 (regValue (regOff r) false s)) s)) ∧
  (∀ (pkg x n : Nat) (tag : BitVec 32) (addr : BitVec 64) (s : State), place addr.toNat s = .dram x →
    loanCovers (pkg % 2 ^ 20) addr.toNat n false s = true → 0 < n → n ≤ 192 → n % 8 = 0 → s.faults.poisonNext = [] →
    (s.mem.home = false ∨ s.mem.dir = []) →
    exec (.peerReadReq pkg tag addr ⟨n, []⟩) s = .next (respond 0x18 (pkg % 2 ^ 20) tag .ok
      ((List.range n).any fun i => viewBad (x + i) s) (viewBytes x n s)
      ((spanLines x n).foldl (fun t l => countLineRead (stackOf l t).1 (.peer (pkg % 2 ^ 20)) t) s))) ∧
  (∀ (pkg x n l : Nat) (tag : BitVec 32) (addr : BitVec 64) (b : BadSymbols) (s : State), Memory.wf s.mem = true → place addr.toNat s = .dram x →
    loanCovers (pkg % 2 ^ 20) addr.toNat n false s = true → 0 < n → n ≤ 192 → n % 8 = 0 → s.faults.poisonNext = [] →
    (s.mem.home = false ∨ s.mem.dir = []) → s.mem.rlc = [] → l ∈ spanLines x n → stackDown l s = false →
    badLine b = true →
    ∃ t u, exec (.peerReadReq pkg tag addr ⟨n, [(l, b)]⟩) s = .next t ∧
      t = respond 0x18 (pkg % 2 ^ 20) tag .ok true (viewBytes x n u) u ∧ s.faults.entered < u.faults.entered ∧
      dramBad l u = true ∧ dramByte l u = 0) ∧
  (∀ (pkg x : Nat) (tag : BitVec 32) (addr : BitVec 64) (data : List (BitVec 8)) (s : State),
    place addr.toNat s = .dram x → loanCovers (pkg % 2 ^ 20) addr.toNat data.length true s = true → data ≠ [] →
    data.length ≤ 192 → DramOpen x data.length s →
    ∃ t, exec (.peerWriteReq pkg tag addr data) s = .next t ∧ Stored x data s t) ∧
  (∀ (pkg off : Nat) (tag : BitVec 32) (data : List (BitVec 8)) (poison : Bool) (s : State),
    (∀ i, i < 64 → (slotGet i s).running = none) →
    exec (.sendData pkg tag off data poison) s = .next { s with fab := { s.fab with
      received := tset [] s.fab.received (pkg % 2 ^ 20 * 2 ^ 32 + tag.toNat)
        (((List.range data.length).zip data).foldl (fun t e => tset none t (off + e.1) (some e.2))
          (tget [] s.fab.received (pkg % 2 ^ 20 * 2 ^ 32 + tag.toNat)))
      receivedBad := if poison then setInsert (pkg % 2 ^ 20 * 2 ^ 32 + tag.toNat) s.fab.receivedBad
        else s.fab.receivedBad } }) ∧
  (∀ (tag : BitVec 32) (data : List (BitVec 8)) (poison : Bool) (q : FabReq) (e : Nat × Nat) (p c : Nat) (r : MReq) (s : State),
    (s.fab.reqs.find? fun x => x.tag = tag && (x.engine.isSome || x.purpose = 3)) = some q → q.engine = some e →
    mreqCore true tag s = some (p, c, r) → r.write = true → (engGet p c .m s).run ≠ none →
    ∃ t, exec (.fabricResponse tag 0 data poison) s = .next t ∧ t.fab.reqs = s.fab.reqs.filter (fun x => x.tag != tag) ∧
      (∀ run, (engGet p c .m t).run = some run → ∀ y ∈ run.requests, y.remote = true → y.tag ≠ tag) ∧
      OnlyChanges [.counts, .comp, .fab] s t) ∧
  (∀ (tag : BitVec 32) (status : BitVec 8) (data : List (BitVec 8)) (poison : Bool) (q : FabReq) (e : Nat × Nat) (s : State),
    (s.fab.reqs.find? fun x => x.tag = tag && (x.engine.isSome || x.purpose = 3)) = some q → q.engine = some e →
    status ≠ 0 →
    ∃ t, exec (.fabricResponse tag status data poison) s = .next t ∧ s.faults.entered < t.faults.entered) ∧
  (∀ (tag : BitVec 32) (status : BitVec 8) (data : List (BitVec 8)) (poison : Bool) (q : FabReq) (s : State),
    (s.fab.reqs.find? fun x => x.tag = tag && (x.engine.isSome || x.purpose = 3)) = some q → q.engine = none →
    exec (.fabricResponse tag status data poison) s = .next { s with fab := { s.fab with
      reqs := s.fab.reqs.filter fun x => x.tag != tag } }) ∧
  (∀ (tag : BitVec 32) (status : BitVec 8) (data : List (BitVec 8)) (poison : Bool) (s : State),
    (∀ x ∈ s.fab.reqs, x.tag ≠ tag) →
    ∃ t, exec (.fabricResponse tag status data poison) s = .next t ∧ OnlyChanges [.fab, .counts] s t) ∧
  (∀ (tag : BitVec 32) (q : FabReq) (s : State), (s.fab.reqs.find? fun x => x.tag = tag) = some q → q.engine = none →
    q.sentAt + 1000 * s.fab.timeoutUs ≤ s.clock.now → s.fab.waiting = [] → s.fab.sysWaiting = [] →
    exec (.fabricRequestTimeout tag) s = .next { s with fab := { s.fab with
      reqs := s.fab.reqs.filter fun x => x.tag != tag } }) ∧
  (∀ (tag : BitVec 32) (q : FabReq) (e : Nat × Nat) (s : State), (s.fab.reqs.find? fun x => x.tag = tag) = some q →
    q.engine = some e → q.sentAt + 1000 * s.fab.timeoutUs ≤ s.clock.now →
    ∃ t, exec (.fabricRequestTimeout tag) s = .next t ∧ s.faults.entered < t.faults.entered) ∧
  (∀ (pkg bytes i a n : Nat) (tag : BitVec 32) (s : State), fwActs s = true → loanAnswer bytes s = (.ok, i, a, n) →
    ∃ t, exec (.sysMessage pkg tag (.loanRequest bytes)) s = .next t ∧
      tget none t.mem.windows i = some ⟨a, n, some (pkg % 2 ^ 20), true, true, true⟩ ∧
      ∀ x, a ≤ x → x < a + n → dramByte x t = 0) ∧
  (∀ (pkg i : Nat) (w : Loan) (tag : BitVec 32) (s : State), fwActs s = true → tget none s.mem.windows i = some w →
    w.granted = true → w.borrower = some (pkg % 2 ^ 20) →
    ∃ t, exec (.sysMessage pkg tag (.loanReturn i)) s = .next t ∧ t.mem.windows = tset none s.mem.windows i none) ∧
  (∀ (pkg : Nat) (tag : BitVec 32) (w : BitVec 64) (s : State), fwActs s = true →
    exec (.sysMessage pkg tag (.other w)) s = .next (sysAnswer (pkg % 2 ^ 20) tag .ok [] s))

/-- In-network collectives: a contribution short of the count is held in a slot, one that joins it is reduced element by
element in FP32; a result frees its slot; a slot past the fabric request timeout goes on poisoned or is freed
(R368, R370–R372).
Model choices and inferences it leans on: log 26, 36, 45, 76. -/
def Obligations.Collectives : Prop :=
  (∀ (f : Flank) (g : Nat) (m : CollMsg) (e : RedEntry) (s : State), tget none s.fab.tables m.coll = some e →
    findSlot m.coll m.chunk s = none → slotsOn f s < 4096 → m.weight < expectedHere e m.chunk s →
    exec (.collContrib f g m) s = .next (putSlot f m.coll m.chunk
      (some ⟨m.op, m.weight, m.elems, m.poison, s.clock.now, [g], false⟩) s)) ∧
  (∀ (f k : Flank) (m : CollMsg) (e : RedEntry) (x : RedSlot) (s : State), tget none s.fab.tables m.coll = some e →
    findSlot m.coll m.chunk s = some (k, x) → x.forwarded = false → x.weight + m.weight < expectedHere e m.chunk s →
    exec (.collContrib f ownBranch m) s = .next (putSlot k m.coll m.chunk (some { x with
      weight := x.weight + m.weight, poison := x.poison || m.poison, branches := setInsert ownBranch x.branches
      elems := List.zipWith (reduceElt x.op) x.elems m.elems }) s)) ∧
  (∀ (f k : Flank) (m : CollMsg) (e : RedEntry) (x : RedSlot) (s : State), tget none s.fab.tables m.coll = some e →
    findSlot m.coll m.chunk s = some (k, x) → x.branches = [ownBranch] → (slotGet e.graph s).running = none →
    ∃ t, exec (.collResult f m) s = .next t ∧ t.fab.slots = tset none s.fab.slots (slotKey k m.coll m.chunk) none ∧
      t.out = s.out ++ [.message s.fab.id 0x21 0 [m.coll, m.chunk, m.op, m.weight, bit m.poison]
        (m.elems.flatMap fun w => leBytes 4 w.toNat)] ∧ OnlyChanges [.fab, .out] s t) ∧
  (∀ (f : Flank) (coll chunk : Nat) (x : RedSlot) (e : RedEntry) (s : State),
    tget none s.fab.slots (slotKey f coll chunk) = some x → tget none s.fab.tables coll = some e →
    x.began + 1000 * s.fab.timeoutUs ≤ s.clock.now → x.forwarded = true →
    exec (.reductionSlotTimeout f coll chunk) s = .next (putSlot f coll chunk none s)) ∧
  (∀ (f : Flank) (coll chunk : Nat) (x : RedSlot) (e : RedEntry) (s : State),
    tget none s.fab.slots (slotKey f coll chunk) = some x → tget none s.fab.tables coll = some e →
    x.began + 1000 * s.fab.timeoutUs ≤ s.clock.now → x.forwarded = false → chunkRoot e chunk ≠ s.fab.id →
    ∃ t, exec (.reductionSlotTimeout f coll chunk) s = .next t ∧
      tget none t.fab.slots (slotKey f coll chunk) = some { x with poison := true, forwarded := true })

/-- Time: TIME_SYNC goes out on every link in service once a millisecond; a package adopts a better master, steps forward
once at its first lock and slews after that; without a refresh for 10 ms it runs on in holdover; the timebase never runs
backwards, and its replicas follow at an update (R373–R375, R408, R409).
Model choices and inferences it leans on: log 42. -/
def Obligations.TimeDiscipline : Prop :=
  (∀ (s : State), s.clock.sentAt + 1000000 ≤ s.clock.now →
    ∃ t, exec .timeSyncSend s = .next t ∧ t.clock.sentAt = s.clock.now ∧ t.clock.now = s.clock.now ∧
      (∀ n, n < 32 → linkUp n s = true → ∃ g, .flit n g ∈ t.out.drop s.out.length ∧ g.type = 3)) ∧
  (∀ (link : Nat) (m : TimeMsg) (s : State), link < 32 → (linkGet link s).rxActive = true → m.priority < 255 →
    m.master ≠ s.fab.id → s.clock.parent = none → s.clock.priority = 255 → s.clock.locked = false →
    m.echoSent = 0 → m.echoReceived = 0 →
    ∃ t, exec (.timeSync link m) s = .next t ∧ t.clock.parent = some link ∧ t.clock.master = m.master ∧
      t.clock.hops = m.hops + 1 ∧ t.clock.heard = s.clock.now ∧ t.clock.locked = false ∧ OnlyChanges [.clock] s t) ∧
  (∀ (link : Nat) (m : TimeMsg) (off : Int) (s : State), link < 32 → (linkGet link s).rxActive = true → m.priority < 255 →
    m.master ≠ s.fab.id → s.clock.parent = some link → s.clock.priority = 255 → s.clock.locked = false →
    offsetOf m = some off → 0 < off →
    ∃ t, exec (.timeSync link m) s = .next t ∧ t.clock.now = s.clock.now + (off / 10).toNat ∧ t.clock.locked = true ∧
      t.clock.stepped = true ∧ t.clock.state = 1 ∧ OnlyChanges [.clock] s t) ∧
  (∀ (link : Nat) (m : TimeMsg) (off : Int) (s : State), link < 32 → (linkGet link s).rxActive = true → m.priority < 255 →
    m.master ≠ s.fab.id → s.clock.parent = some link → s.clock.priority = 255 → s.clock.locked = true →
    offsetOf m = some off → off.natAbs ≤ 100000 →
    ∃ t, exec (.timeSync link m) s = .next t ∧ t.clock.now = s.clock.now ∧ t.clock.slew = off ∧ t.clock.offset = off ∧
      t.clock.state = 1 ∧ OnlyChanges [.clock] s t) ∧
  (∀ (s : State), s.clock.parent ≠ none → s.clock.heard + 10000000 ≤ s.clock.now →
    exec .timeHoldover s = .next { s with clock := { s.clock with
      state := 2, parent := none, masterPriority := 255, slew := 0 } }) ∧
  (∀ (elapsed : Nat) (s : State),
    ∃ t, exec (.timebaseUpdate elapsed) s = .next t ∧ s.clock.now ≤ t.clock.now ∧
      t.clock.now ≤ s.clock.now + elapsed + elapsed / 10000 ∧ s.clock.now + elapsed ≤ t.clock.now + elapsed / 10000 ∧
      (s.clock.slew = 0 → t.clock.now = s.clock.now + elapsed) ∧ t.clock.replica = t.clock.now ∧
      OnlyChanges [.clock] s t)

/-- Verweust modules: a good slot in sequence is accepted and a bad one answered NAK; ACK_SEQ frees the retry buffer, NAK or
32 ns without an advance replays it; sideband messages are answered, kept until acknowledged and repeated each 10 µs up
to eight times; a module links up with what both ends can do, a seam module whose far design is wrong fences the flank
that reports it (log 93), none of a flank comes up after its straps were refused; a module retrains for 2 µs once its
retry buffers are empty, waits for the end of a freeze when it is urgent in one, and is out of service without a clock; a
group's weights change at the named flit count; an empty slot goes in after 1 µs (R53, R54, R381–R397, R433, R447).
Model choices and inferences it leans on: log 28, 29, 30, 31, 32, 93. -/
def Obligations.VerweustModules : Prop :=
  (∀ (m d : Nat) (x : D2dSlot) (y : D2dDir) (s : State), m < 141 → d < 2 → (modGet m s).state = .active →
    dirGet m d s = y → y.noRecord = false → s.faults.poisonNext = [] → slotCrc x = x.crc → x.v = true → x.k = false →
    y.nak = false → y.left = 0 → retryRoom m d s = true → y.seq = y.expect →
    ∃ t, exec (.d2dSlotReceive m d x) s = .next t ∧
      dirGet m d t = { y with
        seq := y.seq + 1, retry := y.retry ++ [(x.flit, x.p)], ackAt := if y.retry = [] then s.clock.now else y.ackAt
        slot := y.slot + 1, expect := y.expect + 1, merged := y.merged + 1 } ∧
      OnlyChanges [.d2d, .out] s t) ∧
  (∀ (m d : Nat) (x : D2dSlot) (s : State), m < 141 → d < 2 → (modGet m s).state = .active →
    (dirGet m d s).noRecord = false → s.faults.poisonNext = [] → slotCrc x ≠ x.crc →
    ∃ t, exec (.d2dSlotReceive m d x) s = .next t ∧ (dirGet m d t).nak = true ∧
      (dirGet m d t).expect = (dirGet m d s).expect ∧ OnlyChanges [.d2d, .out] s t) ∧
  (∀ (m d : Nat) (w : BitVec 16) (s : State), m < 141 → d < 2 → (modGet m s).state = .active →
    crc8 8 (w.toNat % 256) = w.toNat / 256 → w.getLsbD 7 = false → (dirGet m d s).retry ≠ [] →
    (dirGet m d s).retry.length < 128 → w.setWidth 7 = (dirGet m d s).seq - 1 →
    ∃ t, exec (.d2dAckWord m d w) s = .next t ∧ (dirGet m d t).retry = [] ∧ (dirGet m d t).replays = 0 ∧
      (dirGet m d t).ackAt = s.clock.now ∧ OnlyChanges [.d2d] s t) ∧
  (∀ (m d : Nat) (s : State), m < 141 → d < 2 → (modGet m s).state = .active → (dirGet m d s).retry ≠ [] →
    (dirGet m d s).ackAt + (if (dirGet m d s).half then 64 else 32) ≤ s.clock.now → (dirGet m d s).replays < 7 →
    ∃ t, exec (.d2dRetryTimer m d) s = .next t ∧ (dirGet m d t).left = (dirGet m d s).retry.length ∧
      (dirGet m d t).replays = (dirGet m d s).replays + 1 ∧ (dirGet m d t).retry = (dirGet m d s).retry ∧
      OnlyChanges [.d2d] s t) ∧
  (∀ (m : Nat) (w : BitVec 64) (s : State), m < 141 → modPowered m s = true → (modGet m s).state = .active →
    crc8 56 (w.toNat % 2 ^ 56) = w.toNat / 2 ^ 56 → w.toNat % 256 = 6 →
    ∃ t a, exec (.sidebandMessage m w) s = .next t ∧ (modGet m t).state = .retrain ∧
      (modGet m t).retrainTill = some (s.clock.now + 2000) ∧ t.out = s.out ++ [.sideband m a] ∧
      OnlyChanges [.d2d, .out] s t) ∧
  (∀ (m : Nat) (w : BitVec 64) (s : State), m < 141 → modPowered m s = true →
    crc8 56 (w.toNat % 2 ^ 56) = w.toNat / 2 ^ 56 → w.toNat % 256 = 0 →
    exec (.sidebandMessage m w) s = .next (modSet m { modGet m s with
      sbWait := (modGet m s).sbWait.filter fun y => y.seq.toNat != bitsOf w.toNat 15 8 } s)) ∧
  (∀ (m : Nat) (seq : BitVec 8) (w : SbWait) (s : State), m < 141 →
    ((modGet m s).sbWait.find? fun y => y.seq = seq) = some w → w.sentAt + 10000 ≤ s.clock.now → w.attempts < 8 →
    ∃ t, exec (.sidebandRetryTimer m seq) s = .next t ∧ t.out = s.out ++ [.sideband m w.word] ∧
      (∀ y ∈ (modGet m t).sbWait, y.seq = seq → y.sentAt = s.clock.now) ∧ OnlyChanges [.d2d, .out] s t) ∧
  (∀ (m : Nat) (seq : BitVec 8) (w : SbWait) (s : State), m < 141 →
    ((modGet m s).sbWait.find? fun y => y.seq = seq) = some w → w.sentAt + 10000 ≤ s.clock.now → 8 ≤ w.attempts →
    ∃ t, exec (.sidebandRetryTimer m seq) s = .next t ∧ Fenced (0x6000 + m) 0 t) ∧
  (∀ (m : Nat) (x : LinkUpInput) (s : State), m < 141 → (moduleGroup m = 18 → s.part.guest ≠ none) →
    modPowered m s = true → (modGet m s).state = .down → s.dev.state ≠ .haltedThermal → flanksStopped m s = false →
    x.design = requiredDesign m x.from_ s →
    bitOf (capField x.caps 2 0 0) 0 = true → 16 ≤ capField x.caps 3 15 8 → x.goodWires = [] → x.badWires = [] →
    (modGet m s).rx.repair.length ≤ 38 → (modGet m s).tx.repair.length ≤ 38 →
    ∃ t, exec (.moduleLinkUp m x) s = .next t ∧ (modGet m t).depth = min 128 (capField x.caps 3 15 8) ∧
      (modGet m t).id = some (x.from_, x.design, x.stepping) ∧
      (modGet m t).tags = min 256 (capField x.caps 6 8 0) ∧ (modGet m t).recalAt = s.clock.now ∧
      isFenced (0x6000 + m) 0 t = false ∧
      (128 ≤ m → (modGet m s).rx.noRecord = false → (modGet m s).tx.noRecord = false → (modGet m t).state = .active)) ∧
  (∀ (m : Nat) (x : LinkUpInput) (s : State), moduleGroup m < 8 → m < 141 → (modGet m s).state = .down →
    s.dev.state ≠ .haltedThermal → flanksStopped m s = false → x.design ≠ requiredDesign m x.from_ s →
    flankPhase x.from_ s = .inService →
    ∃ t, exec (.moduleLinkUp m x) s = .next t ∧ flankPhase x.from_ t = .fenced ∧
      s.faults.entered < t.faults.entered) ∧
  (∀ (m : Nat) (x : LinkUpInput) (s : State), m < 141 → moduleGroup m < 18 →
    (s.boot.error = 0x82 ∨ s.boot.error = 0x83) → exec (.moduleLinkUp m x) s = .next s) ∧
  (∀ (m d : Nat) (s : State), 128 ≤ m → m < 141 → d < 2 → (modGet m s).state = .retrain →
    (∀ x, (modGet m s).retrainTill = some x → x ≤ s.clock.now) → retrainReady (modGet m s) = true → (modGet m s).rx.repair.length ≤ 38 →
    (modGet m s).tx.repair.length ≤ 38 → (modGet m s).rx.noRecord = false → (modGet m s).tx.noRecord = false →
    ∃ t, exec (.moduleRetrain m d []) s = .next t ∧ (modGet m t).state = .active ∧ (modGet m t).retrainTill = none ∧
      (modGet m t).recalAt = s.clock.now ∧ (dirGet m d t).slot = 0 ∧ (dirGet m d t).expect = 0) ∧
  (∀ (m : Nat) (s : State), m < 141 → (modGet m s).state = .active → (modGet m s).recalAt + 1000000000 ≤ s.clock.now →
    s.clock.now < (modGet m s).recalAt + 4000000000 → retrainShort m s = false → s.dev.state ≠ .haltedThermal →
    ∃ t, exec (.recalibrationTimer m) s = .next t ∧ (modGet m t).state = .retrain ∧
      (modGet m t).retrainTill = some (s.clock.now + 2000) ∧ OnlyChanges [.d2d, .out] s t) ∧
  (∀ (m : Nat) (s : State), m < 141 → (modGet m s).state = .active → (modGet m s).recalAt + 4000000000 ≤ s.clock.now →
    s.dev.state ≠ .haltedThermal → s.cairn.frozen = true →
    ∃ t, exec (.recalibrationTimer m) s = .next t ∧ (modGet m t).urgent = true ∧ (modGet m t).state = .active) ∧
  (∀ (m : Nat) (s : State), m < 141 → moduleGroup m ≠ 18 → (modGet m s).state = .active →
    ∃ t, exec (.clockLost m) s = .next t ∧ (modGet m t).state = .clockLost ∧ (modGet m t).rx.retry = [] ∧
      (modGet m t).tx.retry = []) ∧
  (∀ (g n : Nat) (s : State), tget none s.d2d.changeAt g = some n → n ≤ tget 0 s.d2d.flits g →
    ∃ t, exec (.weightChange g) s = .next t ∧ t.d2d.changeAt = tset none s.d2d.changeAt g none ∧
      (∀ m ∈ groupModules g, wantedWeight m s ≠ 0 → tget 0 t.d2d.weight m = wantedWeight m s) ∧
      OnlyChanges [.d2d] s t) ∧
  (∀ (m d t0 : Nat) (s : State), m < 141 → d < 2 → (modGet m s).state = .active → (dirGet m d s).emptyDue = some t0 →
    t0 + 1000 ≤ s.clock.now →
    ∃ t, exec (.emptySlotInsert m d) s = .next t ∧ t.out = s.out ++ [.slot m d true] ∧ (dirGet m d t).emptyDue = none ∧
      OnlyChanges [.d2d, .out] s t)

/-- Lines of DRAM: a clean line goes to its requester with its bytes and poison; an uncorrectable one is a class D fault; a
line in M is recalled before a local read; a bank behind after a rise of the band serves nothing; a write stores its bytes
and no others; in home mode the directory serves reads, grants and writes by DIR, the other flank's cache keeping the line,
and ends a recall or an invalidation; refresh runs while the stack has clock and supply and is postponed up to eight times;
scrub walks the stack; a due row is copied to a spare; a channel that fails fails its stack; lost memory is rewritten as
poison and served again where its flank is back (R184, R188, R190–R194, R199; logs 92, 94).
Model choices and inferences it leans on: log 15, 61, 66, 67, 92, 94. -/
def Obligations.MemoryLines : Prop :=
  (∀ (a : Nat) (r : Requester) (b : BadSymbols) (s : State), a < topOfDram s → stackDown a s = false → b.count = 0 →
    b.pattern = false → s.faults.poisonNext = [] → (s.mem.home = false ∨ dirOf a s ≠ 2) →
    rowsBehind (stackOf a s).1 (channelOf (stackOf a s).2) b.bank s = false →
    ∃ t, exec (.dramRead a r b) s = .next t ∧
      t.out = s.out ++ [.line (a / 64 * 64) 0 (lineData a s) (linePoison a s)] ∧ OnlyChanges [.counts, .out] s t) ∧
  (∀ (a : Nat) (r : Requester) (b : BadSymbols) (s : State), a < topOfDram s → stackDown a s = false → badLine b = true →
    s.faults.poisonNext = [] → rowsBehind (stackOf a s).1 (channelOf (stackOf a s).2) b.bank s = false →
    ∃ t, exec (.dramRead a r b) s = .next t ∧ Faulted (0x4000 + chanKey (stackOf a s).1 (channelOf (stackOf a s).2)) .d s t) ∧
  (∀ (a : Nat) (r : Requester) (b : BadSymbols) (x : RlcLine) (s : State), a < topOfDram s → stackDown a s = false →
    s.mem.home = true → dirOf a s = 2 → cacheGet a s = some x →
    rowsBehind (stackOf a s).1 (channelOf (stackOf a s).2) b.bank s = false →
    ∃ t, exec (.dramRead a r b) s = .next t ∧ dirOf a t = 1 ∧ cacheGet a t = some { x with dirty := false }) ∧
  (∀ (a : Nat) (r : Requester) (b : BadSymbols) (s : State), a < topOfDram s → stackDown a s = false →
    rowsBehind (stackOf a s).1 (channelOf (stackOf a s).2) b.bank s = true → exec (.dramRead a r b) s = .next s) ∧
  (∀ (a : Nat) (data : List (Option (BitVec 8))) (s : State), a < topOfDram s → DramOpen (a / 64 * 64) 64 s →
    ∃ t, exec (.dramWrite a data 0) s = .next t ∧
      (∀ i v, i < 64 → data.getD i none = some v → dramByte (a / 64 * 64 + i) t = v) ∧
      (∀ i, i < 64 → data.getD i none = none → dramByte (a / 64 * 64 + i) t = dramByte (a / 64 * 64 + i) s) ∧
      (∀ x, (x < a / 64 * 64 ∨ a / 64 * 64 + 64 ≤ x) → dramByte x t = dramByte x s) ∧
      OnlyChanges [.bytes, .counts] s t) ∧
  (∀ (a : Nat) (data : List (Option (BitVec 8))) (poison : BitVec 8) (s : State), a < topOfDram s →
    stackDown a s = false → s.mem.home = true → (dirOf a s ≠ 0 ∨ cacheGet a s ≠ none) →
    ∃ t, exec (.dramWrite a data poison) s = .next t ∧ dirOf a t = 0 ∧ cacheGet a t = none) ∧
  (∀ (a : Nat) (s : State), s.mem.home = true → a < topOfDram s → stackDown a s = false → dirHead a s = none →
    dirOf a s ≠ 2 →
    exec (.directoryRequest a .localRead) s = .next (sendLine a 0 (countStack (stackOf a s).1 0 1 s))) ∧
  (∀ (a : Nat) (s : State), s.mem.home = true → a < topOfDram s → stackDown a s = false → dirHead a s = none →
    dirOf a s ≠ 2 →
    ∃ t x, exec (.directoryRequest a .remoteReadForWrite) s = .next t ∧ dirOf a t = 2 ∧ cacheGet a t = some x ∧
      x.dirty = true ∧
      (s.mem.rlc = [] → x.data = lineData a s ∧ x.poison = linePoison a s ∧ OnlyChanges [.memCtl, .counts, .out] s t)) ∧
  (∀ (a : Nat) (data : List (BitVec 8)) (poison : BitVec 8) (h : Recall) (s : State), s.mem.home = true →
    s.mem.recalls = [h] → h.line = a / 64 → h.answered = false → h.req = .localRead → dirOf a s = 2 →
    ∃ t x, exec (.recallAnswer a true data poison) s = .next t ∧ t.mem.recalls = [] ∧ dirOf a t = 1 ∧
      cacheGet a t = some x ∧ x.dirty = false ∧ t.out.length = s.out.length + 1 ∧
      OnlyChanges [.bytes, .memCtl, .counts, .out] s t) ∧
  (∀ (a : Nat) (data : List (Option (BitVec 8))) (poison : BitVec 8) (h : Recall) (s : State), s.mem.home = true →
    s.mem.recalls = [h] → h.line = a / 64 → h.answered = false → h.inval = true → h.req = .localWrite data poison →
    dirOf a s = 1 →
    ∃ t, exec (.invalidateAck a) s = .next t ∧ t.mem.recalls = [] ∧ t.mem.dir = tset 0 s.mem.dir (a / 64) 0 ∧
      t.mem.rlc = tset none s.mem.rlc (a / 64) none ∧ OnlyChanges [.bytes, .memCtl, .counts] s t) ∧
  (∀ (a : Nat) (inval : Bool) (x : RlcLine) (s : State), s.mem.home = true → a < topOfDram s →
    cacheGet a s = some x →
    exec (.recallRequest a inval) s = .next (emit (.line (a / 64 * 64) (if x.dirty then 1 else 2) x.data x.poison)
      (cacheSet a (if inval then none else some { x with dirty := false }) s))) ∧
  (∀ (stack ch bank n : Nat) (s : State), ch < 32 → bank < 1024 → refreshRuns stack s = true →
    rowsBehind stack ch bank s = false → bankKey stack ch bank ∉ s.stk.refreshUrgent →
    tget 0 s.stk.postponed (bankKey stack ch bank) = n → n < 8 →
    ∃ t, exec (.refresh stack ch bank true) s = .next t ∧ tget 0 t.stk.postponed (bankKey stack ch bank) = n + 1 ∧
      (bankKey stack ch bank ∈ t.stk.refreshUrgent ↔ n = 7) ∧ OnlyChanges [.counts, .stk, .therm] s t) ∧
  (∀ (stack ch bank : Nat) (s : State), ch < 32 → bank < 1024 → refreshRuns stack s = true →
    ∃ t, exec (.refresh stack ch bank false) s = .next t ∧
      t.stk.postponed = tset 0 s.stk.postponed (bankKey stack ch bank) (tget 0 s.stk.postponed (bankKey stack ch bank) - 1) ∧
      rowsBehind stack ch bank t = false ∧ OnlyChanges [.stk] s t) ∧
  (∀ (stack ch bank : Nat) (postpone : Bool) (s : State), refreshRuns stack s = false →
    exec (.refresh stack ch bank postpone) s = .next s) ∧
  (∀ (stack : Nat) (s : State), stack < 8 →
    ∃ t, exec (.refreshBandChange stack) s = .next t ∧
      t.stk.band = tset 0 s.stk.band stack (tget 0 s.therm.bands stack) ∧
      (rowInterval (tget 0 s.therm.bands stack) < rowInterval (tget 0 s.stk.band stack) →
        ∀ ch bank, rowsBehind stack ch bank t = true) ∧ OnlyChanges [.stk] s t) ∧
  (∀ (stack : Nat) (b : BadSymbols) (row : Nat × Nat × Nat) (s : State), stack ∈ s.mem.inService →
    stack ∉ s.mem.failed → stack ∉ s.mem.lost → refreshRuns stack s = true → s.dev.state ≠ .haltedThermal →
    b.count = 0 → b.pattern = false → tget 0 s.stk.scrubAt stack + 1 < stackLines →
    ∃ t, exec (.scrubRead stack b row) s = .next t ∧ tget 0 t.stk.scrubAt stack = tget 0 s.stk.scrubAt stack + 1 ∧
      OnlyChanges [.counts, .stk, .therm] s t) ∧
  (∀ (stack ch bank row n : Nat) (s : State), ch < 32 → bank < 1024 → refreshRuns stack s = true →
    (stack, ch, bank, row) ∈ s.stk.repairDue → tget 0 s.stk.spares (bankKey stack ch bank) = n → n < 8 →
    exec (.rowRepair stack ch bank row) s = .next { s with stk := { s.stk with
      spares := tset 0 s.stk.spares (bankKey stack ch bank) (n + 1)
      repaired := s.stk.repaired ++ [(stack, ch, bank, row)]
      repairDue := s.stk.repairDue.filter fun d => d != (stack, ch, bank, row) } }) ∧
  (∀ (stack ch bank row : Nat) (s : State), (stack, ch, bank, row) ∉ s.stk.repairDue →
    exec (.rowRepair stack ch bank row) s = .next s) ∧
  (∀ (stack ch : Nat) (s : State), stack < 8 → ch < 32 → chanKey stack ch ∉ s.stk.channelsFailed →
    ∃ t, exec (.channelFailure stack ch true) s = .next t ∧ stack ∈ t.mem.failed ∧ stack ∈ t.mem.dropped ∧
      chanKey stack ch ∈ t.stk.channelsFailed ∧ Fenced (0x4000 + chanKey stack ch) 0 t ∧
      Faulted (0x4000 + chanKey stack ch) .u s t) ∧
  (∀ (s : State), Memory.wf s.mem = true → s.mem.lost ≠ [] → s.mem.swept = false →
    (∀ k ∈ s.mem.lost, stackBack k s = true) →
    ∃ t, exec .lostMemoryRewrite s = .next t ∧ t.mem.lost = [] ∧
      (∀ x, (lostRange s).1 ≤ x → x < (lostRange s).2 / 8 * 8 → dramByte x t = 0 ∧ rmem (x / 8) t.mem.poison = true) ∧
      OnlyChanges [.bytes, .memCtl] s t) ∧
  (∀ (s : State), (∀ k ∈ s.mem.lost, stackBack k s = false) → exec .lostMemoryRewrite s = .next s)

/-- Sensors and slow-down requests: a plausible sample is kept, an implausible one excludes its sensor; at the end of its
grace a domain still at the threshold is enforced, and at each 5 ms grid point goes a step further; 100 ms below it is
released, its flanks raised every 10 ms; two samples at 125 °C shut the device down (R413, R414, R419, R424–R430).
Power: the mean is what the two sense inputs measure and 60 W for the guest; within its band the limiter leaves point
and rate alone; over the limit it lowers the higher flank's point by one, or at LOW the rate by two; with 100 W to spare it
gives the rate back; 1 s at LOW below rate 16 sets LOW_HELD; a rail move ends at its point, or fails with class C and goes
back; RCTL_ALERT is such a failure (R418, R420–R422, R526; log 11).
Model choices and inferences it leans on: log 11, 17. -/
def Obligations.ThermalAndPower : Prop :=
  (∀ (j : Nat) (reading : Int) (s : State), j < 1024 → (sensorGet j s).excluded = false → s.dev.state ≠ .haltedThermal →
    implausible (sensorGet j s) reading = false →
    ∃ t, exec (.sensorSample j reading) s = .next t ∧ (sensorGet j t).reading = reading ∧
      (sensorGet j t).sampled = true ∧ (sensorGet j t).at_ = s.clock.now ∧ (sensorGet j t).excluded = false) ∧
  (∀ (j : Nat) (reading : Int) (s : State), j < 1024 → (sensorGet j s).excluded = false → s.dev.state ≠ .haltedThermal →
    implausible (sensorGet j s) reading = true →
    ∃ t, exec (.sensorSample j reading) s = .next t ∧ (sensorGet j t).excluded = true) ∧
  (∀ (dom : Domain) (s : State), (reqOf dom s).opened = true → (reqOf dom s).graceOver = false →
    (reqOf dom s).openedAt + (reqOf dom s).grace * 1000000 ≤ s.clock.now → domainHot dom s = false →
    exec (.graceExpiry dom) s = .next (setReq dom { reqOf dom s with graceOver := true } s)) ∧
  (∀ (dom : Domain) (s : State), (reqOf dom s).opened = true → (reqOf dom s).graceOver = false →
    (reqOf dom s).openedAt + (reqOf dom s).grace * 1000000 ≤ s.clock.now → domainHot dom s = true →
    ∃ t, exec (.graceExpiry dom) s = .next t ∧ (reqOf dom t).graceOver = true ∧ (reqOf dom t).enforcing = true ∧
      (reqOf dom t).gridAt = s.clock.now ∧ (reqOf dom t).gridN = 0 ∧
      ∀ f ∈ domFlanks dom, stepUnder dom f s < 8 → stepUnder dom f s < stepUnder dom f t) ∧
  (∀ (dom : Domain) (s : State), (reqOf dom s).enforcing = true →
    (reqOf dom s).gridAt + ((reqOf dom s).gridN + 1) * 5000000 ≤ s.clock.now → domainHot dom s = true →
    ∃ t, exec (.enforcementGrid dom) s = .next t ∧ (reqOf dom t).gridN = (reqOf dom s).gridN + 1 ∧
      ∀ f ∈ domFlanks dom, stepUnder dom f s < 8 → stepUnder dom f s < stepUnder dom f t) ∧
  (∀ (dom : Domain) (s : State), (reqOf dom s).enforcing = true →
    (reqOf dom s).gridAt + ((reqOf dom s).gridN + 1) * 5000000 ≤ s.clock.now → domainHot dom s = false →
    exec (.enforcementGrid dom) s = .next (setReq dom { reqOf dom s with gridN := (reqOf dom s).gridN + 1 } s)) ∧
  (∀ (dom : Domain) (t0 : Nat) (s : State), (reqOf dom s).coolSince = some t0 → (reqOf dom s).opened = true →
    t0 + 100000000 ≤ s.clock.now →
    ∃ t, exec (.thermalRelease dom) s = .next t ∧ (reqOf dom t).opened = false ∧ (reqOf dom t).enforcing = false ∧
      t.therm.released = s.therm.released ++ [(reqOf dom s).id] ∧ ∀ f ∈ domFlanks dom, stepUnder dom f t = 0) ∧
  (∀ (s : State), s.therm.north.ramp ≠ none → s.therm.north.rampAt + 10000000 ≤ s.clock.now →
    ∃ t, exec .releaseRampTimer s = .next t ∧ t.therm.north.rampAt = s.clock.now) ∧
  (∀ (f : Flank) (t0 : Nat) (s : State), (flankPower f s).band4At = some t0 → t0 + 1000000000 ≤ s.clock.now →
    ∃ t, exec (.band4NomHoldEnd f) s = .next t ∧ (flankPower f t).band4At = none) ∧
  (∀ (j : Nat) (r1 r2 : Int) (s : State), s.therm.tripDue = some (j, r1, r2) → s.dev.state ≠ .haltedThermal →
    ∃ t, exec .thermalShutdown s = .next t ∧ t.dev.state = .haltedThermal ∧ t.pins.gstRstN = false ∧
      t.therm.latched = some (j, r1, r2, s.clock.now) ∧ t.therm.tripDue = none ∧
      (portSt .cp0 t).phase = .down ∧ (portSt .cp1 t).phase = .down) ∧
  (∀ (compute rest : Nat) (s : State), compute + rest + 120 ≤ s.dev.limitW → s.dev.limitW < compute + rest + 220 →
    ∃ t, exec (.powerLimiterTick ⟨compute, rest⟩) s = .next t ∧ t.therm.meanW = compute + rest + 60 ∧
      t.therm.limPoint = s.therm.limPoint ∧ t.therm.limRate = s.therm.limRate ∧ OnlyChanges [.therm] s t) ∧
  (∀ (compute rest : Nat) (s : State), s.dev.limitW < compute + rest + 120 → topPoint s = .low →
    ∃ t, exec (.powerLimiterTick ⟨compute, rest⟩) s = .next t ∧ t.therm.meanW = compute + rest + 60 ∧
      t.therm.limPoint = s.therm.limPoint ∧ t.therm.limRate = max 1 (s.therm.limRate - 2) ∧
      t.therm.limAt = some s.clock.now) ∧
  (∀ (compute rest : Nat) (s : State), s.dev.limitW < compute + rest + 120 → topPoint s ≠ .low →
    s.therm.limPoint ≠ .low → mayLower s = true →
    ∃ t, exec (.powerLimiterTick ⟨compute, rest⟩) s = .next t ∧
      t.therm.limPoint = (Point.lower s.therm.limPoint (topPoint s)).down ∧ t.therm.limRate = s.therm.limRate ∧
      t.therm.lowerAt = some s.clock.now) ∧
  (∀ (compute rest : Nat) (s : State), compute + rest + 220 ≤ s.dev.limitW → mayRaise s = true → s.therm.limRate < 16 →
    ∃ t, exec (.powerLimiterTick ⟨compute, rest⟩) s = .next t ∧ t.therm.limPoint = s.therm.limPoint ∧
      t.therm.limRate = min 16 (s.therm.limRate + 2) ∧ t.therm.limAt = some s.clock.now) ∧
  (∀ (t0 : Nat) (s : State), s.therm.lowSince = some t0 → t0 + 1000000000 ≤ s.clock.now → s.therm.lowHeld = false →
    fwRuns s = true →
    ∃ t, exec .limiterHeld s = .next t ∧ t.therm.lowHeld = true ∧
      Noticed 0xB (BitVec.ofNat 32 s.therm.meanW) (BitVec.ofNat 64 s.dev.limitW) s t) ∧
  (∀ (f : Flank) (p : Point) (s : State), (flankPower f s).moving = some p →
    ∃ t, exec (.railMoveDone f) s = .next t ∧ (flankPower f t).point = p ∧ OnlyChanges [.comp, .therm, .out] s t) ∧
  (∀ (f : Flank) (p : Point) (s : State), (flankPower f s).moving = some p → s.therm.railHeld = false →
    (s.therm.railFails.filter fun x => s.clock.now < x + 1000000000).length < 2 →
    ∃ t, exec (.railMoveFailure f) s = .next t ∧ Faulted 0xE007 .c s t ∧
      (flankPower f t).moving = some (flankPower f s).point ∧ (flankPower f t).point = (flankPower f s).point ∧
      t.therm.railHeld = false) ∧
  (∀ (s : State), ∃ t, exec .rctlAlert s = .next t ∧ Faulted 0xE007 .c s t ∧ t.pins.rctlAlertN = false)

/-- Resets and losses: RST_N low for less than 1 µs is ignored; a package reset leaves every field at its reset value but
the NVM records and counts itself, and holds the Col at STEP 0 without supply or reference; a Col reset loses the firmware
and its unused leaves and closes every cluster queue; a flank is out for its soft or
hard reset and in service after it; a flank without a clock, or with its rail out of range, is out; a lost reference is
class X and loses DRAM; a lost power good is on record (R39, R483, R491, R492, R494–R497, R505, R526, R528).
Model choices and inferences it leans on: log 9, 47, 53, 80, 118. -/
def Obligations.ResetsAndLosses : Prop :=
  (∀ (low : Nat) (pins : ResetPins) (s : State), low < 1000 → exec (.packageReset low pins) s = .next s) ∧
  (∀ (low : Nat) (pins : ResetPins) (s : State), 1000 ≤ low →
    ∃ t, exec (.packageReset low pins) s = .next t ∧ t.pending = s.pending ∧ t.boot.count = s.boot.count + 1 ∧
      t.dev = {} ∧ t.mbx = {} ∧ t.db = {} ∧ t.locks = [] ∧ t.ports = {} ∧ t.cmds = {} ∧ t.graphs = {} ∧ t.counts = {} ∧
      t.cairn = {} ∧ t.guest = {} ∧ t.mem.dram = [] ∧ t.clock.now = 0 ∧ t.boot.running = none ∧
      t.therm.latched = s.therm.latched ∧ t.fab.id = s.fab.id ∧ t.sec.ownerKey = s.sec.ownerKey ∧
      t.sec.policy = s.sec.policy ∧ t.sec.version = s.sec.version ∧ t.sec.nextLeaf = s.sec.reserved ∧
      t.las.worn = s.las.worn ∧ t.pins.bootHold = pins.bootHold ∧ t.part = s.part ∧ t.clock.priority = 255 ∧
      t.mem.dropped = s.mem.dropped ∧ t.fab.timePriority = s.fab.timePriority ∧
      (s.therm.latched = none → t.boot.colHeld = (!(pins.powerGood && pins.refclkOk)) ∧
        t.boot.step = if pins.powerGood && pins.refclkOk then 1 else 0)) ∧
  (∀ (s : State), s.boot.colHeld = false → s.boot.colRestart = false → s.boot.running ≠ none →
    s.dev.state ≠ .haltedThermal →
    ∃ t, exec .colReset s = .next t ∧ t.dev.state = .booting ∧ t.boot.step = 1 ∧ t.boot.running = none ∧
      t.boot.colRestart = true ∧ t.sec.nextLeaf = s.sec.reserved ∧ t.cmds.nq = s.cmds.nq ∧ t.cmds.uq = s.cmds.uq ∧
      t.faults = s.faults ∧ ∀ p, p < 660 → (clusterGet p t).closed = true ∧ (clusterGet p t).qc.pSent = 0) ∧
  (∀ (f : Flank) (s : State), s.dev.state ≠ .haltedThermal → flankPhase f s = .inService →
    flankPhase (otherFlank f) s = .inService →
    ∃ t, exec (.flankSoftReset f) s = .next t ∧ flankPhase f t = .softReset ∧
      flankPhase (otherFlank f) t = .inService) ∧
  (∀ (f : Flank) (s : State), s.dev.state ≠ .haltedThermal → flankPhase f s = .softReset → s.dev.resetWait = [] →
    ∃ t, exec (.flankSoftReset f) s = .next t ∧ flankPhase f t = .inService) ∧
  (∀ (f : Flank) (s : State), s.dev.state ≠ .haltedThermal → flankPhase f s = .inService →
    flankPhase (otherFlank f) s = .inService →
    ∃ t, exec (.flankHardReset f) s = .next t ∧ flankPhase f t = .hardReset ∧
      flankPhase (otherFlank f) t = .inService) ∧
  (∀ (f : Flank) (s : State), s.dev.state ≠ .haltedThermal → flankPhase f s = .hardReset → s.dev.resetWait = [] →
    (∀ m ∈ flankModules f, wrongDesign m (modGet m s).id s = false) →
    ∃ t, exec (.flankHardReset f) s = .next t ∧ flankPhase f t = .inService) ∧
  (∀ (f : Flank) (s : State), flankPhase f s = .inService →
    ∃ t, exec (.flankLoss f) s = .next t ∧ flankPhase f t = .lost) ∧
  (∀ (f : Flank) (s : State), flankPhase f s = .inService →
    ∃ t, exec (.flankRailOutOfRange f) s = .next t ∧ flankPhase f t = .fenced ∧ Fenced (0xB000 + flankNum f) 0 t) ∧
  (∀ (s : State), s.pins.refclk = true → s.pins.rstN = true →
    ∃ t, exec .refclkLoss s = .next t ∧ t.pins.refclk = false ∧ s.faults.entered < t.faults.entered ∧
      (portSt .cp0 t).phase = .down ∧ (portSt .cp1 t).phase = .down) ∧
  (∀ (pg : PowerGood) (s : State), s.pins.rstN = true → pg ∉ s.pins.pgLow → (pg = .gst → s.part.guest ≠ none) →
    ∃ t, exec (.powerGoodLoss pg) s = .next t ∧ pg ∈ t.pins.pgLow ∧
      ((pg = .aon ∨ pg = .io ∨ pg = .col) → t.boot.colHeld = true ∧ t.boot.running = none) ∧
      ((pg = .mem ∨ pg = .core) → s.faults.entered < t.faults.entered))

/-- What the machine holds right after each reset or loss that the part itself meets, whatever it was doing: a package
reset of 1 µs or more is BOOTING with no firmware and no fault on record; a Col reset leaves no firmware, no graph and no
execution; a flank in soft or hard reset holds nothing of its clusters; a lost or fenced flank is out; with the reference
every stack is lost; a lost power good is on record (R39, R490–R497, R505, R526, R528).
Model choices and inferences it leans on: log 47, 53, 118. -/
def Obligations.ResetRowsComplete : Prop :=
  (∀ (low : Nat) (pins : ResetPins) (s : State), 1000 ≤ low →
    ∃ t, exec (.packageReset low pins) s = .next t ∧ t.dev.state = .booting ∧ t.boot.running = none ∧
      t.faults.entered = 0 ∧ flankPhase .north t = .inService ∧ flankPhase .south t = .inService) ∧
  (∀ (s : State), s.boot.colHeld = false → s.boot.colRestart = false → s.boot.running ≠ none →
    s.dev.state ≠ .haltedThermal →
    ∃ t, exec .colReset s = .next t ∧ t.boot.running = none ∧ t.dev.state = .booting ∧
      (∀ i, (slotGet i t).state = none ∧ (slotGet i t).running = none) ∧ flankPhase .north t = flankPhase .north s ∧
      flankPhase .south t = flankPhase .south s) ∧
  (∀ (f : Flank) (s : State), s.dev.state ≠ .haltedThermal → flankPhase f s = .inService →
    flankPhase (otherFlank f) s = .inService →
    ∃ t, exec (.flankSoftReset f) s = .next t ∧ flankPhase f t = .softReset ∧
      ∀ p, flankOf p = f → clusterGet p t = {}) ∧
  (∀ (f : Flank) (s : State), s.dev.state ≠ .haltedThermal → flankPhase f s = .inService →
    flankPhase (otherFlank f) s = .inService →
    ∃ t, exec (.flankHardReset f) s = .next t ∧ flankPhase f t = .hardReset ∧
      ∀ p, flankOf p = f → clusterGet p t = {}) ∧
  (∀ (f : Flank) (s : State), flankPhase f s ≠ .lost → flankPhase f s ≠ .fenced →
    ∃ t, exec (.flankLoss f) s = .next t ∧ flankPhase f t = .lost) ∧
  (∀ (f : Flank) (s : State), flankPhase f s ≠ .fenced →
    ∃ t, exec (.flankRailOutOfRange f) s = .next t ∧ flankPhase f t = .fenced ∧
      isFenced (0xB000 + flankNum f) 0 t = true) ∧
  (∀ (s : State), s.pins.refclk = true → s.pins.rstN = true →
    ∃ t, exec .refclkLoss s = .next t ∧ t.pins.refclk = false ∧ ∀ k ∈ s.mem.inService, k ∈ t.mem.lost) ∧
  (∀ (pg : PowerGood) (s : State), s.pins.rstN = true → pg ∉ s.pins.pgLow → (pg = .gst → s.part.guest ≠ none) →
    ∃ t, exec (.powerGoodLoss pg) s = .next t ∧ pg ∈ t.pins.pgLow)

/-- Bring-up goes step by step: the boot ROM takes the first image that passes, or stops with NO_IMAGE; records are loaded,
sensors agree, the Verweust groups and the stacks come up, lasers warm, rings lock, clusters are tested, and the device is
READY at the end of fabric training; a missing flank pair, wrong straps, or a cold D-grade part stops it; a die of the wrong
design is fenced (log 93); a stack that failed in service stays out; an X-grade part pre-heats (R37, R53, R54, R186, R376,
R478, R479, R494, R498–R502).
Model choices and inferences it leans on: log 47, 79, 81, 92, 93. -/
def Obligations.BringUp : Prop :=
  (∀ (x : BootImages) (k : Nat) (rest : List Nat) (s : State), s.boot.step ≤ 1 → s.boot.running = none →
    s.therm.latched = none → s.dev.state ≠ .haltedThermal → bootOrder s = k :: rest → slotPasses k (slotImage k x) s = true →
    ∃ t, exec (.colBoot x) s = .next t ∧ t.boot.running = some k ∧ t.boot.step = 3 ∧ t.boot.colHeld = false ∧
      t.boot.fwHash = (slotImage k x).hash ∧ t.boot.recovery = false ∧ t.boot.error = 0) ∧
  (∀ (x : BootImages) (s : State), s.boot.step ≤ 1 → s.boot.running = none → s.therm.latched = none →
    s.dev.state ≠ .haltedThermal → (∀ k ∈ bootOrder s, slotPasses k (slotImage k x) s = false) →
    ∃ t, exec (.colBoot x) s = .next t ∧ t.boot.running = none ∧ t.boot.error = 0x81 ∧ t.boot.step = 1) ∧
  (∀ (s : State), s.boot.step = 3 → s.boot.running ≠ none → s.dev.state ≠ .haltedThermal → s.boot.colRestart = false →
    ∃ t, exec (.nvmLoad []) s = .next t ∧ t.boot.step = 4 ∧ t.sec.hashBad = [] ∧
      t.clock.priority = t.fab.timePriority) ∧
  (∀ (readings : List (Nat × Int)) (s : State), stepDue 4 s = true → (∀ e ∈ readings, 0 ≤ e.2) →
    ∃ t, exec (.agreementCheck readings) s = .next t ∧ t.boot.step = 5 ∧ t.boot.error = 0) ∧
  (∀ (readings : List (Nat × Int)) (e : Nat × Int) (s : State), stepDue 4 s = true → s.part.gradeX = false →
    e ∈ readings → e.1 < 1024 → e.2 < 0 →
    ∃ t, exec (.agreementCheck readings) s = .next t ∧ t.boot.step = 4 ∧ t.boot.error = 0x85) ∧
  (∀ (s : State), stepDue 5 s = true → s.boot.preheat = false → s.part.gradeX = true → coldChiplets s ≠ [] →
    exec .preHeat s = .next { s with boot := { s.boot with
      preheat := true, preheatAt := s.clock.now, cold := coldChiplets s } }) ∧
  (∀ (s : State), s.boot.preheat = true → s.boot.cold = [] →
    exec .preHeat s = .next { s with boot := { s.boot with preheat := false } }) ∧
  (∀ (pos : BitVec 8) (s : State), s.boot.preheat = true → pos.toNat ∈ s.boot.cold → s.boot.step ≤ 7 →
    exec (.preHeatChipletReady pos) s = .next { s with boot := { s.boot with cold := setErase pos.toNat s.boot.cold } }) ∧
  (∀ (s : State), s.boot.preheat = true → s.clock.released + 120000000000 ≤ s.clock.now →
    ∃ t, exec .preHeatTimeout s = .next t ∧ t.boot.cold = s.boot.cold.filter (fun c => posLasers c = []) ∧
      ∀ c ∈ s.boot.cold, ∀ i ∈ posLasers c, Fenced (0xA000 + i) 0 t) ∧
  (∀ (ids : List ModuleId) (s : State), stepDue 5 s = true → s.part.strapN = 0 → s.part.strapS = 1 →
    ∃ t, exec (.verweustLinksStep ⟨true, true, ids⟩) s = .next t ∧ t.boot.step = 6) ∧
  (∀ (id : ModuleId) (s : State), stepDue 5 s = true → s.part.strapN = 0 → s.part.strapS = 1 → id.mod = 128 →
    (modGet 128 s).state = .down → id.design ≠ requiredDesign 128 id.from_ s →
    ∃ t, exec (.verweustLinksStep ⟨true, true, [id]⟩) s = .next t ∧ flankPhase .north t = .fenced) ∧
  (∀ (ids : List ModuleId) (s : State), stepDue 5 s = true →
    ∃ t, exec (.verweustLinksStep ⟨false, false, ids⟩) s = .next t ∧ t.boot.step = 5 ∧ t.boot.error = 0x83) ∧
  (∀ (n so : Bool) (ids : List ModuleId) (s : State), stepDue 5 s = true →
    (n = true ∧ s.part.strapN ≠ 0 ∨ so = true ∧ s.part.strapS ≠ 1) →
    ∃ t, exec (.verweustLinksStep ⟨n, so, ids⟩) s = .next t ∧ t.boot.step = 5 ∧ t.boot.error = 0x82) ∧
  (∀ (failed : List Nat) (s : State), stepDue 6 s = true →
    ∃ t, exec (.memoryTraining failed) s = .next t ∧ ∀ k ∈ s.mem.dropped, k ∉ t.mem.inService) ∧
  (∀ (s : State), stepDue 6 s = true → flankPhase .north s = .inService → flankPhase .south s = .inService →
    s.mem.dropped = [] →
    ∃ t, exec (.memoryTraining []) s = .next t ∧ t.boot.step = 7 ∧ t.mem.trained = true ∧
      t.mem.inService = List.range 8 ∧ t.mem.lost = List.range 8 ∧ t.mem.home = s.mem.homeNext) ∧
  (∀ (bad : List LaserCheck) (s : State), stepDue 7 s = true → s.dev.waking = none → preHeating s = false →
    ∃ t, exec (.laserWarmUp bad) s = .next t ∧ t.boot.step = 8) ∧
  (∀ (bad : List RingCheck) (s : State), stepDue 8 s = true → s.dev.waking = none →
    ∃ t, exec (.ringLock bad) s = .next t ∧ t.boot.step = 9) ∧
  (∀ (bad : List (Nat × Option Nat)) (s : State), stepDue 9 s = true → s.dev.waking = none →
    ∃ t, exec (.clusterSelfTest bad) s = .next t ∧ t.boot.step = 10) ∧
  (∀ (s : State), stepDue 0xA s = true → s.dev.state = .booting →
    ∃ t, exec .fabricTraining s = .next t ∧ t.boot.step = 11 ∧
      t.dev.state = (if s.pins.bootHold then .standby else .ready) ∧
      t.sec.version.toNat = max s.sec.version.toNat s.boot.imageSecurity.toNat)

/-- Security events outside commands: the next bottom tree is ready while 4,096 leaves or fewer are left; the debug challenge
is read, a good token unlocks its scope and a bad one is counted; a boundary-scan instruction runs; a staged image is the
one the next boot takes and its command completes (R480, R483, R487, R488). The signatures' own check is the token's field
(log 8).
Model choices and inferences it leans on: log 7, 8, 84. -/
def Obligations.SecurityEvents : Prop :=
  (∀ (s : State), s.sec.trees < 1024 → s.sec.trees * treeLeaves ≤ s.sec.nextLeaf + 4096 → s.boot.colHeld = false →
    exec .bottomTreeReady s = .next { s with sec := { s.sec with trees := s.sec.trees + 1 } }) ∧
  (∀ (s : State), exec .dbgChallenge s = .next (emit (.jtag 6 s.sec.challenge) s)) ∧
  (∀ (x : DebugToken) (s : State), s.sec.refused < 8 → s.boot.colHeld = false → x.version = 0x0100 → x.kind = 1 →
    x.serial = s.part.serial → x.challenge = s.sec.challenge → x.sigOk = true →
    (s.sec.ownerKey = none ∨ s.sec.policy.getLsbD 1 = true) →
    ∃ t, exec (.dbgToken x) s = .next t ∧ t.sec.unlocked = s.sec.unlocked ||| x.scope ∧ t.sec.debug = true ∧
      t.sec.refused = s.sec.refused ∧ Faulted 0xE003 .c s t) ∧
  (∀ (x : DebugToken) (s : State), s.sec.refused < 8 → s.boot.colHeld = false →
    (x.challenge ≠ s.sec.challenge ∨ x.serial ≠ s.part.serial ∨ x.sigOk = false) →
    ∃ t, exec (.dbgToken x) s = .next t ∧ t.sec.unlocked = s.sec.unlocked ∧ t.sec.refused = s.sec.refused + 1 ∧
      Faulted 0xE003 .c s t) ∧
  (∀ (i : JtagInstr) (pins : BitVec 32) (s : State),
    ∃ t b, exec (.boundaryScan i pins) s = .next t ∧ t.sec.jtag = i ∧ t.out = s.out ++ [.jtag (jtagNum i) b] ∧
      t.sec.scan = (if boundary i then pins else s.sec.scan) ∧ OnlyChanges [.sec, .out, .free] s t) ∧
  (∀ (slot : Nat) (x : SlotCheck) (a : Accepted) (s : State), s.boot.update = some (slot, x, a) → fwRuns s = true →
    s.cairn.frozen = false → slot ≠ 2 →
    ∃ t, exec .fwStaged s = .next t ∧ t.boot.update = none ∧ t.boot.selector = decide (slot = 1) ∧
      t.boot.nextHash = x.hash ∧ slot ∉ t.boot.slotFailed ∧ Completed a.desc.opcode a.desc .ok s t)

/-- No row stops, and what each may touch: every command in every state ends in a next state, leaves the queue of waiting
commands to the sender, and leaves every area outside its list as it was (log 1; the lists are `mayChange`). -/
def Obligations.EveryRowAnswersAndKeepsItsFrame : Prop :=
  ∀ (c : Instr) (s : State), ∃ t, exec c s = .next t ∧ t.pending = s.pending ∧ OnlyChanges (mayChange c) s t

/-- Every memory and its poison stay in canonical form: whatever the command, a step from a canonical state leads to one. -/
def Obligations.MemoryStaysCanonical : Prop :=
  ∀ (s t : State), Memory.wf s.mem = true → step s = .next t → Memory.wf t.mem = true

/-- No leaf of the identity key is used twice: whatever the command, resets included, the next leaf never goes back and stays
within the leaves reserved, and these within the key (R483).
Model choices and inferences it leans on: log 78, 80. -/
def Obligations.LeavesAreNeverReused : Prop :=
  ∀ (s t : State), Leaves.ok s.sec → step s = .next t → Leaves.ok t.sec ∧ s.sec.nextLeaf ≤ t.sec.nextLeaf

/-- The machine right after reset: BOOTING with boot progress at step 1, the Col boot, no port, ring, graph, fault, lock or
notice, both flanks in service, no command waiting, its memory canonical and its leaves in order (R261, R491, R500, R505,
R507). Where the spec gives a register no reset value, the state holds the model's (the log's DESIGN CHOICE rows), and
nothing is said of it here. -/
def Obligations.ResetState : Prop :=
  State.reset.dev.state = .booting ∧ State.reset.boot.step = 1 ∧ State.reset.boot.error = 0 ∧
    State.reset.boot.running = none ∧ (portSt .cp0 State.reset).phase = .down ∧ (portSt .cp1 State.reset).phase = .down ∧
    ringOn .normal State.reset = false ∧ ringOn .urgent State.reset = false ∧ ringOn .completion State.reset = false ∧
    State.reset.graphs.slot = [] ∧ State.reset.faults.entered = 0 ∧ State.reset.faults.fenced = [] ∧
    State.reset.locks = [] ∧ State.reset.cmds.held = [] ∧ State.reset.pending = [] ∧
    flankPhase .north State.reset = .inService ∧ flankPhase .south State.reset = .inService ∧
    Memory.wf State.reset.mem = true ∧ Leaves.ok State.reset.sec
end

