-- ==== Sys2Proof/Laws/Tab.lean ====
section
/-!
SUPPORT. Laws of sparse tables and of range sets: a read after a write, and that every operation keeps the
canonical form.
-/

namespace Sys2Proof.Machine

variable {α : Type}

@[simp] theorem tget_nil (d : α) (k : Nat) : tget d [] k = d := rfl

/-- A read after taking a range of keys out. -/
theorem tget_tclear (d : α) (t : Tab α) (p : Nat → Bool) (k : Nat) :
    tget d (tclear t p) k = if p k then d else tget d t k := by
  induction t with
  | nil => simp [tclear, tget]
  | cons e t ih =>
    by_cases hk : k = e.1
    · subst hk
      cases hp : p e.1 with
      | true => simpa [tclear, tget, hp] using ih
      | false => simp [tclear, tget, hp]
    · cases hp : p e.1 with
      | true => simpa [tclear, tget, hp, hk] using ih
      | false =>
        simp only [tclear] at ih
        simp [tclear, tget, hp, hk, ih]

/-- A read of the key of an entry just written. -/
theorem tget_tput_self (d : α) (t : Tab α) (k : Nat) (v : α) : tget d (tput t k v) k = v := by
  induction t with
  | nil => simp [tput, tget]
  | cons e t ih =>
    by_cases h1 : k < e.1
    · simp [tput, h1, tget]
    · by_cases h2 : k = e.1
      · simp [tput, h2, tget]
      · simp only [tput, h1, h2, if_false, tget, ih]

/-- A read of another key than that of an entry just written. -/
theorem tget_tput_ne (d : α) (t : Tab α) (k k' : Nat) (v : α) (hne : k' ≠ k) :
    tget d (tput t k v) k' = tget d t k' := by
  induction t with
  | nil => simp [tput, tget, hne]
  | cons e t ih =>
    by_cases h1 : k < e.1
    · simp [tput, h1, tget, hne]
    · by_cases h2 : k = e.1
      · subst h2
        simp [tput, tget, hne]
      · by_cases h3 : k' = e.1
        · simp [tput, h1, h2, tget, h3]
        · simp only [tput, h1, h2, if_false, tget, h3]
          exact ih

/-- A read of the key just written gives the value written, whatever the table. -/
@[simp] theorem tget_tset_self [DecidableEq α] (d : α) (t : Tab α) (k : Nat) (v : α) :
    tget d (tset d t k v) k = v := by
  by_cases hv : v = d
  · simp [tset, hv, tget_tclear]
  · simp only [tset, hv, if_false, tget_tput_self]

/-- A read of another key gives what it gave before. -/
theorem tget_tset_ne [DecidableEq α] (d : α) (t : Tab α) (k k' : Nat) (v : α) (hne : k' ≠ k) :
    tget d (tset d t k v) k' = tget d t k' := by
  by_cases hv : v = d
  · simp [tset, hv, tget_tclear, hne]
  · simp only [tset, hv, if_false, tget_tput_ne d t k k' v hne]

theorem tabWfFrom_weaken [DecidableEq α] (d : α) (t : Tab α) (lo hi : Nat) (h : tabWfFrom d (some hi) t = true)
    (hl : lo ≤ hi) : tabWfFrom d (some lo) t = true := by
  cases t with
  | nil => rfl
  | cons e t =>
    simp only [tabWfFrom, Bool.and_eq_true, decide_eq_true_eq] at h ⊢
    exact ⟨⟨by omega, h.1.2⟩, h.2⟩

theorem tabWfFrom_none [DecidableEq α] (d : α) (t : Tab α) (lo : Nat) (h : tabWfFrom d (some lo) t = true) :
    tabWfFrom d none t = true := by
  cases t with
  | nil => rfl
  | cons e t =>
    simp only [tabWfFrom, Bool.and_eq_true, decide_eq_true_eq] at h ⊢
    exact ⟨⟨trivial, h.1.2⟩, h.2⟩

theorem tabWfFrom_tput [DecidableEq α] (d : α) (k : Nat) (v : α) (hv : v ≠ d) (t : Tab α) :
    ∀ lo : Option Nat, (∀ l, lo = some l → l < k) → tabWfFrom d lo t = true →
      tabWfFrom d lo (tput t k v) = true := by
  induction t with
  | nil =>
    intro lo hl _
    cases lo with
    | none => simp [tput, hv, tabWfFrom]
    | some l => simp [tput, hv, tabWfFrom, hl l rfl]
  | cons e t ih =>
    intro lo hl hw
    simp only [tabWfFrom, Bool.and_eq_true, decide_eq_true_eq] at hw
    by_cases h1 : k < e.1
    · cases lo with
      | none => simp [tput, h1, hv, tabWfFrom]; exact ⟨hw.1.2, hw.2⟩
      | some l => simp [tput, h1, hv, tabWfFrom, hl l rfl]; exact ⟨hw.1.2, hw.2⟩
    · by_cases h2 : k = e.1
      · subst h2
        simp only [tput, Nat.lt_irrefl, if_false, if_true, tabWfFrom, Bool.and_eq_true, decide_eq_true_eq]
        exact ⟨⟨hw.1.1, hv⟩, hw.2⟩
      · simp only [tput, h1, h2, if_false, tabWfFrom, Bool.and_eq_true, decide_eq_true_eq]
        refine ⟨hw.1, ih (some e.1) ?_ hw.2⟩
        intro l hle
        cases hle
        omega

/-- Taking a range of keys out keeps the canonical form. -/
theorem tabWf_tclear [DecidableEq α] (d : α) (t : Tab α) (p : Nat → Bool) (h : tabWf d t = true) :
    tabWf d (tclear t p) = true := by
  have go : ∀ (t : Tab α) (lo : Nat), tabWfFrom d (some lo) t = true →
      tabWfFrom d (some lo) (tclear t p) = true := by
    intro t
    induction t with
    | nil => intro lo _; rfl
    | cons e t ih =>
      intro lo hw
      simp only [tabWfFrom, Bool.and_eq_true, decide_eq_true_eq] at hw
      cases hp : p e.1 with
      | true =>
        simp only [tclear, List.filter, hp, Bool.not_true]
        exact ih lo (tabWfFrom_weaken d t lo e.1 hw.2 (by omega))
      | false =>
        simp only [tclear, List.filter, hp, Bool.not_false, tabWfFrom, Bool.and_eq_true, decide_eq_true_eq]
        exact ⟨hw.1, ih e.1 hw.2⟩
  cases t with
  | nil => rfl
  | cons e t =>
    simp only [tabWf, tabWfFrom, Bool.and_eq_true, decide_eq_true_eq] at h
    cases hp : p e.1 with
    | true =>
      simp only [tabWf, tclear, List.filter, hp, Bool.not_true]
      exact tabWfFrom_none d _ e.1 (go t e.1 h.2)
    | false =>
      simp only [tabWf, tclear, List.filter, hp, Bool.not_false, tabWfFrom, Bool.and_eq_true, decide_eq_true_eq]
      exact ⟨⟨trivial, h.1.2⟩, go t e.1 h.2⟩

/-- A write keeps the canonical form. -/
theorem tabWf_tset [DecidableEq α] (d : α) (t : Tab α) (k : Nat) (v : α) (h : tabWf d t = true) :
    tabWf d (tset d t k v) = true := by
  by_cases hv : v = d
  · simp only [tset, hv, if_true]
    exact tabWf_tclear d t _ h
  · simp only [tset, hv, if_false]
    exact tabWfFrom_tput d k v hv t none (fun _ he => by cases he) h

/-- A change at one key keeps the canonical form. -/
theorem tabWf_tmod [DecidableEq α] (d : α) (t : Tab α) (k : Nat) (f : α → α) (h : tabWf d t = true) :
    tabWf d (tmod d t k f) = true := tabWf_tset d t k _ h

/-! ## Range sets -/

theorem rwfFrom_weaken (r : RangeSet) (lo hi : Nat) (h : rwfFrom (some hi) r = true) (hl : lo ≤ hi) :
    rwfFrom (some lo) r = true := by
  cases r with
  | nil => rfl
  | cons e r =>
    simp only [rwfFrom, Bool.and_eq_true, decide_eq_true_eq] at h ⊢
    exact ⟨⟨by omega, h.1.2⟩, h.2⟩

theorem rwfFrom_none (r : RangeSet) (lo : Nat) (h : rwfFrom (some lo) r = true) : rwfFrom none r = true := by
  cases r with
  | nil => rfl
  | cons e r =>
    simp only [rwfFrom, Bool.and_eq_true, decide_eq_true_eq] at h ⊢
    exact ⟨⟨trivial, h.1.2⟩, h.2⟩

theorem rwfFrom_radd (r : RangeSet) : ∀ (lo hi : Nat) (l : Option Nat), (∀ x, l = some x → x < lo) →
    rwfFrom l r = true → rwfFrom l (radd lo hi r) = true := by
  induction r with
  | nil =>
    intro lo hi l hl _
    by_cases h : lo < hi
    · cases l with
      | none => simp [radd, h, rwfFrom]
      | some x => simp [radd, h, rwfFrom, hl x rfl]
    · simp [radd, h, rwfFrom]
  | cons e r ih =>
    obtain ⟨a, b⟩ := e
    intro lo hi l hl hw
    have hw' := hw
    simp only [rwfFrom, Bool.and_eq_true, decide_eq_true_eq] at hw
    by_cases h0 : hi ≤ lo
    · simpa [radd, h0] using hw'
    · by_cases h1 : hi < a
      · simp only [radd, h0, h1, if_true, if_false, rwfFrom, Bool.and_eq_true, decide_eq_true_eq]
        refine ⟨⟨?_, by omega⟩, ⟨trivial, hw.1.2⟩, hw.2⟩
        cases l with
        | none => trivial
        | some x => simpa using hl x rfl
      · by_cases h2 : b < lo
        · simp only [radd, h0, h1, h2, if_true, if_false, rwfFrom, Bool.and_eq_true, decide_eq_true_eq]
          exact ⟨hw.1, ih lo hi (some b) (fun x hx => by cases hx; exact h2) hw.2⟩
        · simp only [radd, h0, h1, h2, if_false]
          have hl' : ∀ x, l = some x → x < min a lo := by
            intro x hx
            subst hx
            have := hl x rfl
            have h3 : x < a := by simpa using hw.1.1
            omega
          refine ih (min a lo) (max b hi) l hl' ?_
          cases l with
          | none => exact rwfFrom_none r b hw.2
          | some x =>
            have h3 : x < a := by simpa using hw.1.1
            exact rwfFrom_weaken r x b hw.2 (by omega)

/-- Adding a range keeps the canonical form. -/
theorem rwf_radd (lo hi : Nat) (r : RangeSet) (h : rwf r = true) : rwf (radd lo hi r) = true :=
  rwfFrom_radd r lo hi none (fun _ hx => by cases hx) h

theorem rwfFrom_rsub (lo hi : Nat) (r : RangeSet) : ∀ l : Option Nat, rwfFrom l r = true →
    rwfFrom l (rsub lo hi r) = true := by
  induction r with
  | nil => intro l _; rfl
  | cons e r ih =>
    obtain ⟨a, b⟩ := e
    intro l hw
    by_cases h0 : hi ≤ lo
    · simpa [rsub, h0] using hw
    · simp only [rwfFrom, Bool.and_eq_true, decide_eq_true_eq] at hw
      have hr := ih (some b) hw.2
      have hrl : rwfFrom l (rsub lo hi r) = true := by
        cases l with
        | none => exact rwfFrom_none _ b hr
        | some x =>
          have h3 : x < a := by simpa using hw.1.1
          exact rwfFrom_weaken _ x b hr (by omega)
      have hrx : ∀ x, x ≤ b → rwfFrom (some x) (rsub lo hi r) = true :=
        fun x hx => rwfFrom_weaken _ x b hr hx
      simp only [rsub, h0, if_false]
      by_cases h1 : a < min b lo
      · by_cases h2 : max a hi < b
        · simp only [h1, h2, if_true, List.cons_append, List.nil_append, rwfFrom, Bool.and_eq_true,
            decide_eq_true_eq]
          exact ⟨⟨hw.1.1, trivial⟩, ⟨by omega, trivial⟩, hr⟩
        · simp only [h1, h2, if_true, if_false, List.cons_append, List.nil_append, rwfFrom, Bool.and_eq_true,
            decide_eq_true_eq]
          exact ⟨⟨hw.1.1, trivial⟩, hrx _ (by omega)⟩
      · by_cases h2 : max a hi < b
        · simp only [h1, h2, if_true, if_false, List.cons_append, List.nil_append, rwfFrom, Bool.and_eq_true,
            decide_eq_true_eq]
          refine ⟨⟨?_, trivial⟩, hr⟩
          cases l with
          | none => trivial
          | some x =>
            have h3 : x < a := by simpa using hw.1.1
            simp
            omega
        · simp only [h1, h2, if_false, List.nil_append]
          exact hrl

/-- Removing a range keeps the canonical form. -/
theorem rwf_rsub (lo hi : Nat) (r : RangeSet) (h : rwf r = true) : rwf (rsub lo hi r) = true :=
  rwfFrom_rsub lo hi r none h

end Sys2Proof.Machine
end

