-- ==== Sys2Proof/Laws/Keeps.lean ====
section
/-!
SUPPORT. The laws of `Keeps`: it composes, it goes through folds and choices, and an update of the state keeps it. The
files beside this one give, for each shared operation of the machine, the one lemma that says what the operation keeps:
the queue, the canonical form of memory, the order of the key's leaves, and every area it does not name.
-/

namespace Sys2Proof.Machine

variable {T : List Area} {s0 s e t : State}

theorem within_mem {a b : List Area} (h : within a b = true) {x : Area} (hx : a.contains x = true) : x ∈ b := by
  simp only [within, List.all_eq_true] at h
  simpa using h x (by simpa using hx)

theorem within_trans {a b c : List Area} (h : within a b = true) (k : within b c = true) : within a c = true := by
  simp only [within, List.all_eq_true] at h k ⊢
  intro x hx
  exact k x (by simpa using h x hx)

theorem Area.same_refl (x : Area) (s : State) : x.same s s := by
  cases x <;> first | rfl | exact ⟨rfl, rfl, rfl, rfl, rfl, rfl⟩

theorem Area.same_trans {a b c : State} (x : Area) (h : x.same a b) (k : x.same b c) : x.same a c := by
  cases x <;> first
    | exact Eq.trans k h
    | exact ⟨k.1.trans h.1, k.2.1.trans h.2.1, k.2.2.1.trans h.2.2.1, k.2.2.2.1.trans h.2.2.2.1,
        k.2.2.2.2.1.trans h.2.2.2.2.1, k.2.2.2.2.2.trans h.2.2.2.2.2⟩

theorem OnlyChanges.weaken {a b : List Area} (h : OnlyChanges a s t) (hw : within a b = true) : OnlyChanges b s t := fun x hx =>
  h x fun ha => hx (within_mem hw (by simpa using ha))

theorem Keeps.refl (s : State) : Keeps T s s :=
  ⟨rfl, id, fun h => ⟨h, Nat.le_refl _⟩, fun x _ => x.same_refl s⟩

theorem Keeps.trans {a b c : State} (h : Keeps T a b) (k : Keeps T b c) : Keeps T a c :=
  ⟨k.pending.trans h.pending, fun w => k.mem (h.mem w), fun w =>
    ⟨(k.leaf (h.leaf w).1).1, (h.leaf w).2.trans (k.leaf (h.leaf w).1).2⟩,
    fun x hx => x.same_trans (h.frame x hx) (k.frame x hx)⟩

/-- An update of the state by parts. -/
theorem Keeps.upd (h : Keeps T s0 e) (hp : t.pending = e.pending)
    (hm : Memory.wf e.mem = true → Memory.wf t.mem = true)
    (hs : Leaves.ok e.sec → Leaves.ok t.sec ∧ e.sec.nextLeaf ≤ t.sec.nextLeaf) (hf : OnlyChanges T e t) :
    Keeps T s0 t := h.trans ⟨hp, hm, hs, hf⟩

theorem leaf_same (h : t.sec = e.sec) : Leaves.ok e.sec → Leaves.ok t.sec ∧ e.sec.nextLeaf ≤ t.sec.nextLeaf :=
  fun w => ⟨h ▸ w, h ▸ Nat.le_refl _⟩

theorem Keeps.foldl {α : Type} {f : State → α → State} {l : List α} {p : State}
    (h : Keeps T s0 p) (hf : ∀ t x, Keeps T s0 t → Keeps T s0 (f t x)) :
    Keeps T s0 (l.foldl f p) := by
  induction l generalizing p with
  | nil => exact h
  | cons x l ih => exact ih (hf p x h)

theorem Keeps.foldlSnd {α β : Type} {f : (β × State) → α → (β × State)} {l : List α} {p : (β × State)}
    (h : Keeps T s0 p.2) (hf : ∀ t x, Keeps T s0 t.2 → Keeps T s0 (f t x).2) :
    Keeps T s0 (l.foldl f p).2 := by
  induction l generalizing p with
  | nil => exact h
  | cons x l ih => exact ih (hf p x h)

theorem Keeps.foldlEff {α : Type} {f : Eff → α → Eff} {l : List α} {p : Eff}
    (h : Keeps T s0 p.s) (hf : ∀ t x, Keeps T s0 t.s → Keeps T s0 (f t x).s) :
    Keeps T s0 (l.foldl f p).s := by
  induction l generalizing p with
  | nil => exact h
  | cons x l ih => exact ih (hf p x h)

theorem rwf_foldl {α : Type} (f : RangeSet → α → RangeSet) (l : List α) (r : RangeSet)
    (hf : ∀ r x, rwf r = true → rwf (f r x) = true) (h : rwf r = true) : rwf (l.foldl f r) = true := by
  induction l generalizing r with
  | nil => exact h
  | cons x l ih => exact ih (f r x) (hf r x h)

theorem keeps_ite {c : Prop} [Decidable c] {a b : State} (ha : Keeps T s0 a) (hb : Keeps T s0 b) :
    Keeps T s0 (if c then a else b) := by
  split
  · exact ha
  · exact hb

theorem Memory.wf_iff (m : MemSys) : Memory.wf m = true ↔
    tabWf 0 m.dram = true ∧ tabWf 0 m.cm = true ∧ tabWf 0 m.ls = true ∧ rwf m.poison = true ∧
      rwf m.cmPoison = true ∧ rwf m.lsPoison = true := by
  simp only [Memory.wf, Bool.and_eq_true]
  tauto

/-- A change of any field but the queue, memory and the security records. -/
theorem keeps_mk (h : Keeps T s0 e)
    {_part _pins _clock _boot _dev _faults _mbx _db _locks _ports _cmds _graphs _stk _counts _comp _banks _cairn
    _therm _las _chans _links _fab _d2d _guest _out _free}
    (hf : OnlyChanges T e (State.mk _part _pins _clock _boot _dev _faults _mbx _db _locks _ports _cmds _graphs e.mem _stk _counts _comp _banks
      _cairn _therm _las _chans _links _fab _d2d _guest e.sec _out _free e.pending)) :
    Keeps T s0 (State.mk _part _pins _clock _boot _dev _faults _mbx _db _locks _ports _cmds _graphs e.mem _stk _counts _comp _banks
      _cairn _therm _las _chans _links _fab _d2d _guest e.sec _out _free e.pending) :=
  Keeps.upd h rfl id (fun w => ⟨w, Nat.le_refl _⟩) hf

/-- A change of any field but the queue, the security records and the bytes and poison of memory. -/
theorem keeps_mkMem (h : Keeps T s0 e)
    {_part _pins _clock _boot _dev _faults _mbx _db _locks _ports _cmds _graphs _stk _counts _comp _banks _cairn
    _therm _las _chans _links _fab _d2d _guest _out _free _mtrained _minService _mfailed _mdropped _mlost _mhome
    _mcache _mhomeNext _mcacheNext _mdir _mrecalls _mrlc _mswept _mwindows _mlendLimit _mringHeld}
    (hf : OnlyChanges T e (State.mk _part _pins _clock _boot _dev _faults _mbx _db _locks _ports _cmds _graphs (MemSys.mk e.mem.dram
      e.mem.poison e.mem.cm e.mem.cmPoison e.mem.ls e.mem.lsPoison _mtrained _minService _mfailed _mdropped
      _mlost _mhome _mcache _mhomeNext _mcacheNext _mdir _mrecalls _mrlc _mswept _mwindows _mlendLimit
      _mringHeld) _stk _counts _comp _banks _cairn _therm _las _chans _links _fab _d2d _guest e.sec _out _free
      e.pending)) :
    Keeps T s0 (State.mk _part _pins _clock _boot _dev _faults _mbx _db _locks _ports _cmds _graphs (MemSys.mk e.mem.dram
      e.mem.poison e.mem.cm e.mem.cmPoison e.mem.ls e.mem.lsPoison _mtrained _minService _mfailed _mdropped
      _mlost _mhome _mcache _mhomeNext _mcacheNext _mdir _mrecalls _mrlc _mswept _mwindows _mlendLimit
      _mringHeld) _stk _counts _comp _banks _cairn _therm _las _chans _links _fab _d2d _guest e.sec _out _free
      e.pending) :=
  Keeps.upd h rfl id (fun w => ⟨w, Nat.le_refl _⟩) hf

/-- A change of any field but the queue, memory and the leaves of the identity key. -/
theorem keeps_mkSec (h : Keeps T s0 e)
    {_part _pins _clock _boot _dev _faults _mbx _db _locks _ports _cmds _graphs _stk _counts _comp _banks _cairn
    _therm _las _chans _links _fab _d2d _guest _out _free _sownerKey _spolicy _sownerCounter _sversion _strees
    _squotedAt _sleavesLow _schallenge _srefused _sunlocked _sdebug _shashBad _ssuspect _sunusable _sdefaulted
    _sjtag _sscan}
    (hf : OnlyChanges T e (State.mk _part _pins _clock _boot _dev _faults _mbx _db _locks _ports _cmds _graphs e.mem _stk _counts _comp _banks
      _cairn _therm _las _chans _links _fab _d2d _guest (Sec.mk _sownerKey _spolicy _sownerCounter _sversion
      e.sec.reserved e.sec.nextLeaf _strees _squotedAt _sleavesLow _schallenge _srefused _sunlocked _sdebug
      _shashBad _ssuspect _sunusable _sdefaulted _sjtag _sscan) _out _free e.pending)) :
    Keeps T s0 (State.mk _part _pins _clock _boot _dev _faults _mbx _db _locks _ports _cmds _graphs e.mem _stk _counts _comp _banks
      _cairn _therm _las _chans _links _fab _d2d _guest (Sec.mk _sownerKey _spolicy _sownerCounter _sversion
      e.sec.reserved e.sec.nextLeaf _strees _squotedAt _sleavesLow _schallenge _srefused _sunlocked _sdebug
      _shashBad _ssuspect _sunusable _sdefaulted _sjtag _sscan) _out _free e.pending) :=
  Keeps.upd h rfl id (fun w => ⟨w, Nat.le_refl _⟩) hf

theorem keeps_dram (hT : within [.bytes] T = true) (h : Keeps T s0 e) {x} (k : tabWf 0 e.mem.dram = true → tabWf 0 x = true) :
    Keeps T s0 { e with mem := { e.mem with dram := x } } := by
  refine Keeps.upd h rfl (fun w => ?_) (leaf_same rfl) fun y hy => ?_
  · simp only [Memory.wf_iff] at w ⊢
    tauto
  · cases y <;> first | exact absurd (within_mem hT rfl) hy | rfl

theorem keeps_cm (hT : within [.bytes] T = true) (h : Keeps T s0 e) {x} (k : tabWf 0 e.mem.cm = true → tabWf 0 x = true) :
    Keeps T s0 { e with mem := { e.mem with cm := x } } := by
  refine Keeps.upd h rfl (fun w => ?_) (leaf_same rfl) fun y hy => ?_
  · simp only [Memory.wf_iff] at w ⊢
    tauto
  · cases y <;> first | exact absurd (within_mem hT rfl) hy | rfl

theorem keeps_ls (hT : within [.bytes] T = true) (h : Keeps T s0 e) {x} (k : tabWf 0 e.mem.ls = true → tabWf 0 x = true) :
    Keeps T s0 { e with mem := { e.mem with ls := x } } := by
  refine Keeps.upd h rfl (fun w => ?_) (leaf_same rfl) fun y hy => ?_
  · simp only [Memory.wf_iff] at w ⊢
    tauto
  · cases y <;> first | exact absurd (within_mem hT rfl) hy | rfl

theorem keeps_poison (hT : within [.bytes] T = true) (h : Keeps T s0 e) {x} (k : rwf e.mem.poison = true → rwf x = true) :
    Keeps T s0 { e with mem := { e.mem with poison := x } } := by
  refine Keeps.upd h rfl (fun w => ?_) (leaf_same rfl) fun y hy => ?_
  · simp only [Memory.wf_iff] at w ⊢
    tauto
  · cases y <;> first | exact absurd (within_mem hT rfl) hy | rfl

theorem keeps_cmPoison (hT : within [.bytes] T = true) (h : Keeps T s0 e) {x} (k : rwf e.mem.cmPoison = true → rwf x = true) :
    Keeps T s0 { e with mem := { e.mem with cmPoison := x } } := by
  refine Keeps.upd h rfl (fun w => ?_) (leaf_same rfl) fun y hy => ?_
  · simp only [Memory.wf_iff] at w ⊢
    tauto
  · cases y <;> first | exact absurd (within_mem hT rfl) hy | rfl

theorem keeps_lsPoison (hT : within [.bytes] T = true) (h : Keeps T s0 e) {x} (k : rwf e.mem.lsPoison = true → rwf x = true) :
    Keeps T s0 { e with mem := { e.mem with lsPoison := x } } := by
  refine Keeps.upd h rfl (fun w => ?_) (leaf_same rfl) fun y hy => ?_
  · simp only [Memory.wf_iff] at w ⊢
    tauto
  · cases y <;> first | exact absurd (within_mem hT rfl) hy | rfl

/-- What a row keeps whenever it ends in a next state. -/
structure KeepsNext (areas : List Area) (s0 : State) (o : Step) : Prop where
  out : ∀ t, o = .next t → Keeps areas s0 t

theorem keepsNext_next (h : Keeps T s0 s) : KeepsNext T s0 (.next s) :=
  ⟨fun t ht => by injection ht with ht; exact ht ▸ h⟩

end Sys2Proof.Machine
end

