-- ==== Sys2Proof/Laws/Ops.lean ====
section
/-!
SUPPORT. One lemma for each shared operation of Machine/Ops.lean: what it keeps of whatever state it is applied to.
The list in a lemma names the areas the operation may change.
-/

set_option linter.unusedTactic false
set_option linter.unreachableTactic false
set_option linter.unusedVariables false

namespace Sys2Proof.Machine

variable {T : List Area} {s0 : State}

theorem idleTick_keeps {s : State} (hT : within [.clock] T = true)
    (h : Keeps T s0 s) : Keeps T s0 (idleTick s) := by
  unfold idleTick
  repeat' (first | with_reducible assumption | with_reducible apply Keeps.foldl | intro _ | dsimp only | split | ((fail_if_no_progress (with_reducible apply keeps_mk)); rotate_left; · (intro x hx; cases x <;> first | exact absurd (within_mem hT rfl) hx | exact rfl | exact ⟨rfl, rfl, rfl, rfl, rfl, rfl⟩)))

theorem emit_keeps (o : Output) {s : State} (hT : within [.out] T = true)
    (h : Keeps T s0 s) : Keeps T s0 (emit o s) := by
  unfold emit
  repeat' (first | with_reducible assumption | with_reducible apply Keeps.foldl | intro _ | dsimp only | split | ((fail_if_no_progress (with_reducible apply keeps_mk)); rotate_left; · (intro x hx; cases x <;> first | exact absurd (within_mem hT rfl) hx | exact rfl | exact ⟨rfl, rfl, rfl, rfl, rfl, rfl⟩)))

theorem useFree_keeps {s : State} (hT : within [.free] T = true)
    (h : Keeps T s0 s) : Keeps T s0 (useFree s).2 := by
  unfold useFree
  repeat' (first | with_reducible assumption | with_reducible apply Keeps.foldl | with_reducible apply Keeps.foldlSnd | intro _ | dsimp only | split | ((fail_if_no_progress (with_reducible apply keeps_mk)); rotate_left; · (intro x hx; cases x <;> first | exact absurd (within_mem hT rfl) hx | exact rfl | exact ⟨rfl, rfl, rfl, rfl, rfl, rfl⟩)))

theorem setPort_keeps (p : Port) (x : PortState) {s : State} (hT : within [.ports] T = true)
    (h : Keeps T s0 s) : Keeps T s0 (setPort p x s) := by
  unfold setPort
  repeat' (first | with_reducible assumption | with_reducible apply Keeps.foldl | intro _ | dsimp only | split | ((fail_if_no_progress (with_reducible apply keeps_mk)); rotate_left; · (intro x hx; cases x <;> first | exact absurd (within_mem hT rfl) hx | exact rfl | exact ⟨rfl, rfl, rfl, rfl, rfl, rfl⟩)))

theorem outFrame_keeps (f : Frame) {s : State} (hT : within [.ports, .out] T = true)
    (h : Keeps T s0 s) : Keeps T s0 (outFrame f s) := by
  unfold outFrame
  repeat' (first | with_reducible assumption | exact within_trans rfl hT | with_reducible apply emit_keeps | with_reducible apply Keeps.foldl | intro _ | dsimp only | split | ((fail_if_no_progress (with_reducible apply keeps_mk)); rotate_left; · (intro x hx; cases x <;> first | exact absurd (within_mem hT rfl) hx | exact rfl | exact ⟨rfl, rfl, rfl, rfl, rfl, rfl⟩)))

theorem sendFrame_keeps (f : Frame) {s : State} (hT : within [.ports, .out] T = true)
    (h : Keeps T s0 s) : Keeps T s0 (sendFrame f s) := by
  unfold sendFrame
  repeat' (first | with_reducible assumption | exact within_trans rfl hT | with_reducible apply outFrame_keeps | with_reducible apply Keeps.foldl | intro _ | dsimp only | split | ((fail_if_no_progress (with_reducible apply keeps_mk)); rotate_left; · (intro x hx; cases x <;> first | exact absurd (within_mem hT rfl) hx | exact rfl | exact ⟨rfl, rfl, rfl, rfl, rfl, rfl⟩)))

theorem sendCredit_keeps {s : State} (hT : within [.ports, .out] T = true)
    (h : Keeps T s0 s) : Keeps T s0 (sendCredit s) := by
  unfold sendCredit
  repeat' (first | with_reducible assumption | exact within_trans rfl hT | with_reducible apply outFrame_keeps | with_reducible apply Keeps.foldl | intro _ | dsimp only | split | ((fail_if_no_progress (with_reducible apply keeps_mk)); rotate_left; · (intro x hx; cases x <;> first | exact absurd (within_mem hT rfl) hx | exact rfl | exact ⟨rfl, rfl, rfl, rfl, rfl, rfl⟩)))

theorem sendDoorbellEvent_keeps (newly : BitVec 32) {s : State} (hT : within [.ports, .out] T = true)
    (h : Keeps T s0 s) : Keeps T s0 (sendDoorbellEvent newly s) := by
  unfold sendDoorbellEvent
  repeat' (first | with_reducible assumption | exact within_trans rfl hT | with_reducible apply sendFrame_keeps | with_reducible apply Keeps.foldl | intro _ | dsimp only | split)

theorem sendGapEvent_keeps (missing : BitVec 32) {s : State} (hT : within [.ports, .out] T = true)
    (h : Keeps T s0 s) : Keeps T s0 (sendGapEvent missing s) := by
  unfold sendGapEvent
  repeat' (first | with_reducible assumption | exact within_trans rfl hT | with_reducible apply sendFrame_keeps | with_reducible apply Keeps.foldl | intro _ | dsimp only | split)

theorem ringHost_keeps (bits : BitVec 32) {s : State} (hT : within [.db, .ports, .out] T = true)
    (h : Keeps T s0 s) : Keeps T s0 (ringHost bits s) := by
  unfold ringHost
  repeat' (first | with_reducible assumption | exact within_trans rfl hT | with_reducible apply sendDoorbellEvent_keeps | with_reducible apply Keeps.foldl | intro _ | dsimp only | split | ((fail_if_no_progress (with_reducible apply keeps_mk)); rotate_left; · (intro x hx; cases x <;> first | exact absurd (within_mem hT rfl) hx | exact rfl | exact ⟨rfl, rfl, rfl, rfl, rfl, rfl⟩)))

theorem ringBit_keeps (i : ℕ) {s : State} (hT : within [.db, .ports, .out] T = true)
    (h : Keeps T s0 s) : Keeps T s0 (ringBit i s) := by
  unfold ringBit
  repeat' (first | with_reducible assumption | exact within_trans rfl hT | with_reducible apply ringHost_keeps | with_reducible apply Keeps.foldl | intro _ | dsimp only | split)

theorem ringFw_keeps (bits : BitVec 32) {s : State} (hT : within [.db] T = true)
    (h : Keeps T s0 s) : Keeps T s0 (ringFw bits s) := by
  unfold ringFw
  repeat' (first | with_reducible assumption | with_reducible apply Keeps.foldl | intro _ | dsimp only | split | ((fail_if_no_progress (with_reducible apply keeps_mk)); rotate_left; · (intro x hx; cases x <;> first | exact absurd (within_mem hT rfl) hx | exact rfl | exact ⟨rfl, rfl, rfl, rfl, rfl, rfl⟩)))

theorem touchSync_keeps {s : State} (hT : within [.cmds] T = true)
    (h : Keeps T s0 s) : Keeps T s0 (touchSync s) := by
  unfold touchSync
  repeat' (first | with_reducible assumption | with_reducible apply Keeps.foldl | intro _ | dsimp only | split | ((fail_if_no_progress (with_reducible apply keeps_mk)); rotate_left; · (intro x hx; cases x <;> first | exact absurd (within_mem hT rfl) hx | exact rfl | exact ⟨rfl, rfl, rfl, rfl, rfl, rfl⟩)))

theorem setRing_keeps (q : Queue) (r : CmdRing) {s : State} (hT : within [.cmds] T = true)
    (h : Keeps T s0 s) : Keeps T s0 (setRing q r s) := by
  unfold setRing
  repeat' (first | with_reducible assumption | with_reducible apply Keeps.foldl | intro _ | dsimp only | split | ((fail_if_no_progress (with_reducible apply keeps_mk)); rotate_left; · (intro x hx; cases x <;> first | exact absurd (within_mem hT rfl) hx | exact rfl | exact ⟨rfl, rfl, rfl, rfl, rfl, rfl⟩)))

theorem pushEntry_keeps (e : Entry) {s : State} (hT : within [.cmds] T = true)
    (h : Keeps T s0 s) : Keeps T s0 (pushEntry e s) := by
  unfold pushEntry
  repeat' (first | with_reducible assumption | with_reducible apply Keeps.foldl | intro _ | dsimp only | split | ((fail_if_no_progress (with_reducible apply keeps_mk)); rotate_left; · (intro x hx; cases x <;> first | exact absurd (within_mem hT rfl) hx | exact rfl | exact ⟨rfl, rfl, rfl, rfl, rfl, rfl⟩)))

theorem finish_keeps (a : Accepted) (r : Res) {s : State} (hT : within [.cmds] T = true)
    (h : Keeps T s0 s) : Keeps T s0 (finish a r s) := by
  unfold finish
  repeat' (first | with_reducible assumption | exact within_trans rfl hT | with_reducible apply pushEntry_keeps | with_reducible apply setRing_keeps | with_reducible apply touchSync_keeps | with_reducible apply Keeps.foldl | intro _ | dsimp only | split)

theorem noticeEntry_keeps (code : ℕ) (detail : BitVec 32) (detail2 : BitVec 64) {s : State} (hT : within [.cmds] T = true)
    (h : Keeps T s0 s) : Keeps T s0 (noticeEntry code detail detail2 s) := by
  unfold noticeEntry
  repeat' (first | with_reducible assumption | exact within_trans rfl hT | with_reducible apply pushEntry_keeps | with_reducible apply Keeps.foldl | intro _ | dsimp only | split)

theorem notice_keeps (code : ℕ) (detail : BitVec 32) (detail2 : BitVec 64) {s : State} (hT : within [.db, .ports, .cmds, .out] T = true)
    (h : Keeps T s0 s) : Keeps T s0 (notice code detail detail2 s) := by
  unfold notice
  repeat' (first | with_reducible assumption | exact within_trans rfl hT | with_reducible apply ringBit_keeps | with_reducible apply noticeEntry_keeps | with_reducible apply Keeps.foldl | intro _ | dsimp only | split)

theorem setDev_keeps (d : DevState) {s : State} (hT : within [.dev, .db, .ports, .cmds, .out] T = true)
    (h : Keeps T s0 s) : Keeps T s0 (setDev d s) := by
  unfold setDev
  repeat' (first | with_reducible assumption | exact within_trans rfl hT | with_reducible apply touchSync_keeps | with_reducible apply notice_keeps | with_reducible apply Keeps.foldl | intro _ | dsimp only | split | ((fail_if_no_progress (with_reducible apply keeps_mk)); rotate_left; · (intro x hx; cases x <;> first | exact absurd (within_mem hT rfl) hx | exact rfl | exact ⟨rfl, rfl, rfl, rfl, rfl, rfl⟩)))

theorem fenceAdd_keeps (src : ℕ) (core : ℕ) {s : State} (hT : within [.faults] T = true)
    (h : Keeps T s0 s) : Keeps T s0 (fenceAdd src core s) := by
  unfold fenceAdd
  repeat' (first | with_reducible assumption | with_reducible apply Keeps.foldl | intro _ | dsimp only | split | ((fail_if_no_progress (with_reducible apply keeps_mk)); rotate_left; · (intro x hx; cases x <;> first | exact absurd (within_mem hT rfl) hx | exact rfl | exact ⟨rfl, rfl, rfl, rfl, rfl, rfl⟩)))

theorem fenceDrop_keeps (src : ℕ) (core : ℕ) {s : State} (hT : within [.faults] T = true)
    (h : Keeps T s0 s) : Keeps T s0 (fenceDrop src core s) := by
  unfold fenceDrop
  repeat' (first | with_reducible assumption | with_reducible apply Keeps.foldl | intro _ | dsimp only | split | ((fail_if_no_progress (with_reducible apply keeps_mk)); rotate_left; · (intro x hx; cases x <;> first | exact absurd (within_mem hT rfl) hx | exact rfl | exact ⟨rfl, rfl, rfl, rfl, rfl, rfl⟩)))

theorem forcedDone_keeps (src : ℕ) (core : ℕ) {s : State} (hT : within [.faults] T = true)
    (h : Keeps T s0 s) : Keeps T s0 (forcedDone src core s) := by
  unfold forcedDone
  repeat' (first | with_reducible assumption | with_reducible apply Keeps.foldl | intro _ | dsimp only | split | ((fail_if_no_progress (with_reducible apply keeps_mk)); rotate_left; · (intro x hx; cases x <;> first | exact absurd (within_mem hT rfl) hx | exact rfl | exact ⟨rfl, rfl, rfl, rfl, rfl, rfl⟩)))

theorem setFlank_keeps (f : Flank) (x : FlankPhase) {s : State} (hT : within [.dev] T = true)
    (h : Keeps T s0 s) : Keeps T s0 (setFlank f x s) := by
  unfold setFlank
  repeat' (first | with_reducible assumption | with_reducible apply Keeps.foldl | intro _ | dsimp only | split | ((fail_if_no_progress (with_reducible apply keeps_mk)); rotate_left; · (intro x hx; cases x <;> first | exact absurd (within_mem hT rfl) hx | exact rfl | exact ⟨rfl, rfl, rfl, rfl, rfl, rfl⟩)))

theorem cairnStart_keeps (code : ℕ) (detail : BitVec 32) {s : State} (hT : within [.cairn] T = true)
    (h : Keeps T s0 s) : Keeps T s0 (cairnStart code detail s) := by
  unfold cairnStart
  repeat' (first | with_reducible assumption | with_reducible apply Keeps.foldl | intro _ | dsimp only | split | ((fail_if_no_progress (with_reducible apply keeps_mk)); rotate_left; · (intro x hx; cases x <;> first | exact absurd (within_mem hT rfl) hx | exact rfl | exact ⟨rfl, rfl, rfl, rfl, rfl, rfl⟩)))

theorem cairnFire_keeps (code : ℕ) (detail : BitVec 32) {s : State} (hT : within [.cairn] T = true)
    (h : Keeps T s0 s) : Keeps T s0 (cairnFire code detail s) := by
  unfold cairnFire
  repeat' (first | with_reducible assumption | exact within_trans rfl hT | with_reducible apply cairnStart_keeps | with_reducible apply Keeps.foldl | intro _ | dsimp only | split | ((fail_if_no_progress (with_reducible apply keeps_mk)); rotate_left; · (intro x hx; cases x <;> first | exact absurd (within_mem hT rfl) hx | exact rfl | exact ⟨rfl, rfl, rfl, rfl, rfl, rfl⟩)))

theorem linkSet_keeps (n : ℕ) (x : LinkSt) {s : State} (hT : within [.links] T = true)
    (h : Keeps T s0 s) : Keeps T s0 (linkSet n x s) := by
  unfold linkSet
  repeat' (first | with_reducible assumption | with_reducible apply Keeps.foldl | intro _ | dsimp only | split | ((fail_if_no_progress (with_reducible apply keeps_mk)); rotate_left; · (intro x hx; cases x <;> first | exact absurd (within_mem hT rfl) hx | exact rfl | exact ⟨rfl, rfl, rfl, rfl, rfl, rfl⟩)))

theorem setChan_keeps (i : ℕ) (c : Chan) {s : State} (hT : within [.chans] T = true)
    (h : Keeps T s0 s) : Keeps T s0 (setChan i c s) := by
  unfold setChan
  repeat' (first | with_reducible assumption | with_reducible apply Keeps.foldl | intro _ | dsimp only | split | ((fail_if_no_progress (with_reducible apply keeps_mk)); rotate_left; · (intro x hx; cases x <;> first | exact absurd (within_mem hT rfl) hx | exact rfl | exact ⟨rfl, rfl, rfl, rfl, rfl, rfl⟩)))

theorem modSet_keeps (m : ℕ) (x : Module) {s : State} (hT : within [.d2d] T = true)
    (h : Keeps T s0 s) : Keeps T s0 (modSet m x s) := by
  unfold modSet
  repeat' (first | with_reducible assumption | with_reducible apply Keeps.foldl | intro _ | dsimp only | split | ((fail_if_no_progress (with_reducible apply keeps_mk)); rotate_left; · (intro x hx; cases x <;> first | exact absurd (within_mem hT rfl) hx | exact rfl | exact ⟨rfl, rfl, rfl, rfl, rfl, rfl⟩)))

theorem refreshDegraded_keeps {s : State} (hT : within [.dev, .db, .ports, .cmds, .out] T = true)
    (h : Keeps T s0 s) : Keeps T s0 (refreshDegraded s) := by
  unfold refreshDegraded
  repeat' (first | with_reducible assumption | exact within_trans rfl hT | with_reducible apply touchSync_keeps | with_reducible apply notice_keeps | with_reducible apply Keeps.foldl | intro _ | dsimp only | split | ((fail_if_no_progress (with_reducible apply keeps_mk)); rotate_left; · (intro x hx; cases x <;> first | exact absurd (within_mem hT rfl) hx | exact rfl | exact ⟨rfl, rfl, rfl, rfl, rfl, rfl⟩)))

theorem collect_keeps (e : FaultInput) {s : State} (hT : within [.faults] T = true)
    (h : Keeps T s0 s) : Keeps T s0 (collect e s) := by
  unfold collect
  repeat' (first | with_reducible assumption | with_reducible apply Keeps.foldl | intro _ | dsimp only | split | ((fail_if_no_progress (with_reducible apply keeps_mk)); rotate_left; · (intro x hx; cases x <;> first | exact absurd (within_mem hT rfl) hx | exact rfl | exact ⟨rfl, rfl, rfl, rfl, rfl, rfl⟩)))

theorem faultNotice_keeps (e : FaultInput) (i : ℕ) (first : Bool) {s : State} (hT : within [.db, .ports, .cmds, .out] T = true)
    (h : Keeps T s0 s) : Keeps T s0 (faultNotice e i first s) := by
  unfold faultNotice
  repeat' (first | with_reducible assumption | exact within_trans rfl hT | with_reducible apply ringBit_keeps | with_reducible apply noticeEntry_keeps | with_reducible apply Keeps.foldl | intro _ | dsimp only | split)

theorem faultTriggers_keeps (e : FaultInput) (rep : Bool) {s : State} (hT : within [.cairn] T = true)
    (h : Keeps T s0 s) : Keeps T s0 (faultTriggers e rep s) := by
  unfold faultTriggers
  repeat' (first | with_reducible assumption | exact within_trans rfl hT | with_reducible apply cairnFire_keeps | with_reducible apply Keeps.foldl | intro _ | dsimp only | split)

theorem enterFaulted_keeps {s : State} (hT : within [.boot, .dev, .db, .ports, .cmds, .graphs, .cairn, .out] T = true)
    (h : Keeps T s0 s) : Keeps T s0 (enterFaulted s) := by
  unfold enterFaulted
  repeat' (first | with_reducible assumption | exact within_trans rfl hT | with_reducible apply finish_keeps | with_reducible apply setDev_keeps | with_reducible apply Keeps.foldl | intro _ | dsimp only | split | ((fail_if_no_progress (with_reducible apply keeps_mk)); rotate_left; · (intro x hx; cases x <;> first | exact absurd (within_mem hT rfl) hx | exact rfl | exact ⟨rfl, rfl, rfl, rfl, rfl, rfl⟩)))

theorem report_keeps (e : FaultInput) {s : State} (hT : within [.boot, .dev, .faults, .db, .ports, .cmds, .graphs, .cairn, .out] T = true)
    (h : Keeps T s0 s) : Keeps T s0 (report e s) := by
  unfold report
  repeat' (first | with_reducible assumption | exact within_trans rfl hT | with_reducible apply collect_keeps | with_reducible apply faultNotice_keeps | with_reducible apply faultTriggers_keeps | with_reducible apply refreshDegraded_keeps | with_reducible apply fenceAdd_keeps | with_reducible apply enterFaulted_keeps | with_reducible apply Keeps.foldl | intro _ | dsimp only | split)

theorem faultC_keeps (src : ℕ) (syn : ℕ) {s : State} (hT : within [.boot, .dev, .faults, .db, .ports, .cmds, .graphs, .cairn, .out] T = true)
    (h : Keeps T s0 s) : Keeps T s0 (faultC src syn s) := by
  unfold faultC
  repeat' (first | with_reducible assumption | exact within_trans rfl hT | with_reducible apply report_keeps | with_reducible apply Keeps.foldl | intro _ | dsimp only | split)

theorem faultD_keeps (src : ℕ) (syn : ℕ) {s : State} (hT : within [.boot, .dev, .faults, .db, .ports, .cmds, .graphs, .cairn, .out] T = true)
    (h : Keeps T s0 s) : Keeps T s0 (faultD src syn s) := by
  unfold faultD
  repeat' (first | with_reducible assumption | exact within_trans rfl hT | with_reducible apply report_keeps | with_reducible apply Keeps.foldl | intro _ | dsimp only | split)

theorem faultU_keeps (src : ℕ) (syn : ℕ) {s : State} (hT : within [.boot, .dev, .faults, .db, .ports, .cmds, .graphs, .cairn, .out] T = true)
    (h : Keeps T s0 s) : Keeps T s0 (faultU src syn s) := by
  unfold faultU
  repeat' (first | with_reducible assumption | exact within_trans rfl hT | with_reducible apply report_keeps | with_reducible apply Keeps.foldl | intro _ | dsimp only | split)

theorem faultUKept_keeps (src : ℕ) (syn : ℕ) {s : State} (hT : within [.dev, .faults, .db, .ports, .cmds, .cairn, .out] T = true)
    (h : Keeps T s0 s) : Keeps T s0 (faultUKept src syn s) := by
  unfold faultUKept
  repeat' (first | with_reducible assumption | exact within_trans rfl hT | with_reducible apply collect_keeps | with_reducible apply faultNotice_keeps | with_reducible apply refreshDegraded_keeps | with_reducible apply faultTriggers_keeps | with_reducible apply Keeps.foldl | intro _ | dsimp only | split)

theorem faultX_keeps (src : ℕ) (syn : ℕ) {s : State} (hT : within [.boot, .dev, .faults, .db, .ports, .cmds, .graphs, .cairn, .out] T = true)
    (h : Keeps T s0 s) : Keeps T s0 (faultX src syn s) := by
  unfold faultX
  repeat' (first | with_reducible assumption | exact within_trans rfl hT | with_reducible apply report_keeps | with_reducible apply Keeps.foldl | intro _ | dsimp only | split)

theorem faultCOpen_keeps (src : ℕ) {s : State} (hT : within [.boot, .dev, .faults, .db, .ports, .cmds, .graphs, .cairn, .out, .free] T = true)
    (h : Keeps T s0 s) : Keeps T s0 (faultCOpen src s) := by
  unfold faultCOpen
  repeat' (first | with_reducible assumption | exact within_trans rfl hT | with_reducible apply useFree_keeps | with_reducible apply faultC_keeps | with_reducible apply Keeps.foldl | with_reducible apply Keeps.foldlSnd | intro _ | dsimp only | split)

theorem faultDOpen_keeps (src : ℕ) {s : State} (hT : within [.boot, .dev, .faults, .db, .ports, .cmds, .graphs, .cairn, .out, .free] T = true)
    (h : Keeps T s0 s) : Keeps T s0 (faultDOpen src s) := by
  unfold faultDOpen
  repeat' (first | with_reducible assumption | exact within_trans rfl hT | with_reducible apply useFree_keeps | with_reducible apply faultD_keeps | with_reducible apply Keeps.foldl | with_reducible apply Keeps.foldlSnd | intro _ | dsimp only | split)

theorem faultUOpen_keeps (src : ℕ) {s : State} (hT : within [.boot, .dev, .faults, .db, .ports, .cmds, .graphs, .cairn, .out, .free] T = true)
    (h : Keeps T s0 s) : Keeps T s0 (faultUOpen src s) := by
  unfold faultUOpen
  repeat' (first | with_reducible assumption | exact within_trans rfl hT | with_reducible apply useFree_keeps | with_reducible apply faultU_keeps | with_reducible apply Keeps.foldl | with_reducible apply Keeps.foldlSnd | intro _ | dsimp only | split)

theorem faultXOpen_keeps (src : ℕ) {s : State} (hT : within [.boot, .dev, .faults, .db, .ports, .cmds, .graphs, .cairn, .out, .free] T = true)
    (h : Keeps T s0 s) : Keeps T s0 (faultXOpen src s) := by
  unfold faultXOpen
  repeat' (first | with_reducible assumption | exact within_trans rfl hT | with_reducible apply useFree_keeps | with_reducible apply faultX_keeps | with_reducible apply Keeps.foldl | with_reducible apply Keeps.foldlSnd | intro _ | dsimp only | split)

theorem securityEvent_keeps (reason : ℕ) {s : State} (hT : within [.boot, .dev, .faults, .db, .ports, .cmds, .graphs, .cairn, .out] T = true)
    (h : Keeps T s0 s) : Keeps T s0 (securityEvent reason s) := by
  unfold securityEvent
  repeat' (first | with_reducible assumption | exact within_trans rfl hT | with_reducible apply ringBit_keeps | with_reducible apply faultC_keeps | with_reducible apply Keeps.foldl | intro _ | dsimp only | split)

theorem countCluster_keeps (p : ℕ) (i : ℕ) (n : ℕ) {s : State} (hT : within [.counts] T = true)
    (h : Keeps T s0 s) : Keeps T s0 (countCluster p i n s) := by
  unfold countCluster
  repeat' (first | with_reducible assumption | with_reducible apply Keeps.foldl | intro _ | dsimp only | split | ((fail_if_no_progress (with_reducible apply keeps_mk)); rotate_left; · (intro x hx; cases x <;> first | exact absurd (within_mem hT rfl) hx | exact rfl | exact ⟨rfl, rfl, rfl, rfl, rfl, rfl⟩)))

theorem countCore_keeps (p : ℕ) (c : ℕ) (i : ℕ) (n : ℕ) {s : State} (hT : within [.counts] T = true)
    (h : Keeps T s0 s) : Keeps T s0 (countCore p c i n s) := by
  unfold countCore
  repeat' (first | with_reducible assumption | with_reducible apply Keeps.foldl | intro _ | dsimp only | split | ((fail_if_no_progress (with_reducible apply keeps_mk)); rotate_left; · (intro x hx; cases x <;> first | exact absurd (within_mem hT rfl) hx | exact rfl | exact ⟨rfl, rfl, rfl, rfl, rfl, rfl⟩)))

theorem countLink_keeps (l : ℕ) (i : ℕ) (n : ℕ) {s : State} (hT : within [.counts] T = true)
    (h : Keeps T s0 s) : Keeps T s0 (countLink l i n s) := by
  unfold countLink
  repeat' (first | with_reducible assumption | with_reducible apply Keeps.foldl | intro _ | dsimp only | split | ((fail_if_no_progress (with_reducible apply keeps_mk)); rotate_left; · (intro x hx; cases x <;> first | exact absurd (within_mem hT rfl) hx | exact rfl | exact ⟨rfl, rfl, rfl, rfl, rfl, rfl⟩)))

theorem countStack_keeps (k : ℕ) (i : ℕ) (n : ℕ) {s : State} (hT : within [.counts] T = true)
    (h : Keeps T s0 s) : Keeps T s0 (countStack k i n s) := by
  unfold countStack
  repeat' (first | with_reducible assumption | with_reducible apply Keeps.foldl | intro _ | dsimp only | split | ((fail_if_no_progress (with_reducible apply keeps_mk)); rotate_left; · (intro x hx; cases x <;> first | exact absurd (within_mem hT rfl) hx | exact rfl | exact ⟨rfl, rfl, rfl, rfl, rfl, rfl⟩)))

theorem promote_keeps (i : ℕ) {s : State} (hT : within [.therm] T = true)
    (h : Keeps T s0 s) : Keeps T s0 (promote i s) := by
  unfold promote
  repeat' (first | with_reducible assumption | with_reducible apply Keeps.foldl | intro _ | dsimp only | split | ((fail_if_no_progress (with_reducible apply keeps_mk)); rotate_left; · (intro x hx; cases x <;> first | exact absurd (within_mem hT rfl) hx | exact rfl | exact ⟨rfl, rfl, rfl, rfl, rfl, rfl⟩)))

theorem putDir_keeps (m : ℕ) (d : ℕ) (y : D2dDir) {s : State} (hT : within [.d2d] T = true)
    (h : Keeps T s0 s) : Keeps T s0 (putDir m d y s) := by
  unfold putDir
  repeat' (first | with_reducible assumption | exact within_trans rfl hT | with_reducible apply modSet_keeps | with_reducible apply Keeps.foldl | intro _ | dsimp only | split)

theorem sbSend_keeps (m : ℕ) (type : ℕ) (index : ℕ) (data : ℕ) {s : State} (hT : within [.d2d, .out] T = true)
    (h : Keeps T s0 s) : Keeps T s0 (sbSend m type index data s) := by
  unfold sbSend
  repeat' (first | with_reducible assumption | exact within_trans rfl hT | with_reducible apply emit_keeps | with_reducible apply modSet_keeps | with_reducible apply Keeps.foldl | intro _ | dsimp only | split)

end Sys2Proof.Machine
end

