-- ==== Sys2Proof/Laws/Signals.lean ====
section
/-!
SUPPORT. One lemma for each shared operation of Machine/Signals.lean: what it keeps of whatever state it is applied to.
The list in a lemma names the areas the operation may change.
-/

set_option linter.unusedTactic false
set_option linter.unreachableTactic false
set_option linter.unusedVariables false

namespace Sys2Proof.Machine

variable {T : List Area} {s0 : State}

theorem chanSet_keeps (ch : MbxChan) (c : Channel) {s : State} (hT : within [.mbx] T = true)
    (h : Keeps T s0 s) : Keeps T s0 (chanSet ch c s) := by
  unfold chanSet
  repeat' (first | with_reducible assumption | with_reducible apply Keeps.foldl | intro _ | dsimp only | split | ((fail_if_no_progress (with_reducible apply keeps_mk)); rotate_left; · (intro x hx; cases x <;> first | exact absurd (within_mem hT rfl) hx | exact rfl | exact ⟨rfl, rfl, rfl, rfl, rfl, rfl⟩)))

theorem partyPost_keeps (ch : MbxChan) (w : BitVec 64) {s : State} (hT : within [.mbx] T = true)
    (h : Keeps T s0 s) : Keeps T s0 (partyPost ch w s).2 := by
  unfold partyPost
  repeat' (first | with_reducible assumption | exact within_trans rfl hT | with_reducible apply chanSet_keeps | with_reducible apply Keeps.foldl | with_reducible apply Keeps.foldlSnd | intro _ | dsimp only | split)

theorem ringGuest_keeps (b : ℕ) {s : State} (hT : within [.db, .d2d, .out] T = true)
    (h : Keeps T s0 s) : Keeps T s0 (ringGuest b s) := by
  unfold ringGuest
  repeat' (first | with_reducible assumption | exact within_trans rfl hT | with_reducible apply sbSend_keeps | with_reducible apply Keeps.foldl | intro _ | dsimp only | split | ((fail_if_no_progress (with_reducible apply keeps_mk)); rotate_left; · (intro x hx; cases x <;> first | exact absurd (within_mem hT rfl) hx | exact rfl | exact ⟨rfl, rfl, rfl, rfl, rfl, rfl⟩)))

theorem ringParty_keeps (ch : MbxChan) {s : State} (hT : within [.db, .ports, .d2d, .out] T = true)
    (h : Keeps T s0 s) : Keeps T s0 (ringParty ch s) := by
  unfold ringParty
  repeat' (first | with_reducible assumption | exact within_trans rfl hT | with_reducible apply ringBit_keeps | with_reducible apply ringGuest_keeps | with_reducible apply Keeps.foldl | intro _ | dsimp only | split)

theorem fwPost_keeps (ch : MbxChan) (w : BitVec 64) {s : State} (hT : within [.mbx, .db, .ports, .d2d, .out] T = true)
    (h : Keeps T s0 s) : Keeps T s0 (fwPost ch w s).2 := by
  unfold fwPost
  repeat' (first | with_reducible assumption | exact within_trans rfl hT | with_reducible apply ringParty_keeps | with_reducible apply chanSet_keeps | with_reducible apply Keeps.foldl | with_reducible apply Keeps.foldlSnd | intro _ | dsimp only | split)

theorem partyDrain_keeps (ch : MbxChan) {s : State} (hT : within [.mbx] T = true)
    (h : Keeps T s0 s) : Keeps T s0 (partyDrain ch s) := by
  unfold partyDrain
  repeat' (first | with_reducible assumption | exact within_trans rfl hT | with_reducible apply chanSet_keeps | with_reducible apply Keeps.foldl | intro _ | dsimp only | split)

theorem fwDrain_keeps (ch : MbxChan) {s : State} (hT : within [.mbx, .db, .ports, .out] T = true)
    (h : Keeps T s0 s) : Keeps T s0 (fwDrain ch s) := by
  unfold fwDrain
  repeat' (first | with_reducible assumption | exact within_trans rfl hT | with_reducible apply chanSet_keeps | with_reducible apply ringBit_keeps | with_reducible apply Keeps.foldl | intro _ | dsimp only | split)

theorem fwStatusWrite_keeps (ch : MbxChan) (v : BitVec 64) {s : State} (hT : within [.mbx, .db, .ports, .out] T = true)
    (h : Keeps T s0 s) : Keeps T s0 (fwStatusWrite ch v s) := by
  unfold fwStatusWrite
  repeat' (first | with_reducible assumption | exact within_trans rfl hT | with_reducible apply fwDrain_keeps | with_reducible apply chanSet_keeps | with_reducible apply Keeps.foldl | intro _ | dsimp only | split)

theorem partyStatusWrite_keeps (ch : MbxChan) (v : BitVec 64) {s : State} (hT : within [.mbx] T = true)
    (h : Keeps T s0 s) : Keeps T s0 (partyStatusWrite ch v s) := by
  unfold partyStatusWrite
  repeat' (first | with_reducible assumption | exact within_trans rfl hT | with_reducible apply partyDrain_keeps | with_reducible apply chanSet_keeps | with_reducible apply Keeps.foldl | intro _ | dsimp only | split)

theorem secureFault_keeps (p : Port) (addr : ℕ) (type : ℕ) (chan : ℕ) {s : State} (hT : within [.boot, .dev, .faults, .db, .ports, .cmds, .graphs, .cairn, .out] T = true)
    (h : Keeps T s0 s) : Keeps T s0 (secureFault p addr type chan s) := by
  unfold secureFault
  repeat' (first | with_reducible assumption | exact within_trans rfl hT | with_reducible apply faultC_keeps | with_reducible apply Keeps.foldl | intro _ | dsimp only | split)

theorem mbxRefuse_keeps (m : Master) (ch : MbxChan) (k : ℕ) {s : State} (hT : within [.boot, .dev, .faults, .db, .ports, .cmds, .graphs, .cairn, .out] T = true)
    (h : Keeps T s0 s) : Keeps T s0 (mbxRefuse m ch k s) := by
  unfold mbxRefuse
  repeat' (first | with_reducible assumption | exact within_trans rfl hT | with_reducible apply emit_keeps | with_reducible apply secureFault_keeps | with_reducible apply Keeps.foldl | intro _ | dsimp only | split)

theorem fwRingWrite_keeps (v : BitVec 64) (secure : Bool) {s : State} (hT : within [.db] T = true)
    (h : Keeps T s0 s) : Keeps T s0 (fwRingWrite v secure s).2 := by
  unfold fwRingWrite
  repeat' (first | with_reducible assumption | exact within_trans rfl hT | with_reducible apply ringFw_keeps | with_reducible apply Keeps.foldl | with_reducible apply Keeps.foldlSnd | intro _ | dsimp only | split)

theorem hostStatusWrite_keeps (v : BitVec 64) (secure : Bool) {s : State} (hT : within [.db] T = true)
    (h : Keeps T s0 s) : Keeps T s0 (hostStatusWrite v secure s) := by
  unfold hostStatusWrite
  repeat' (first | with_reducible assumption | with_reducible apply Keeps.foldl | intro _ | dsimp only | split | ((fail_if_no_progress (with_reducible apply keeps_mk)); rotate_left; · (intro x hx; cases x <;> first | exact absurd (within_mem hT rfl) hx | exact rfl | exact ⟨rfl, rfl, rfl, rfl, rfl, rfl⟩)))

theorem hostMaskWrite_keeps (v : BitVec 64) (secure : Bool) {s : State} (hT : within [.db, .ports, .out] T = true)
    (h : Keeps T s0 s) : Keeps T s0 (hostMaskWrite v secure s) := by
  unfold hostMaskWrite
  repeat' (first | with_reducible assumption | exact within_trans rfl hT | with_reducible apply sendDoorbellEvent_keeps | with_reducible apply Keeps.foldl | intro _ | dsimp only | split | ((fail_if_no_progress (with_reducible apply keeps_mk)); rotate_left; · (intro x hx; cases x <;> first | exact absurd (within_mem hT rfl) hx | exact rfl | exact ⟨rfl, rfl, rfl, rfl, rfl, rfl⟩)))

theorem mbxFwResetBegin_keeps {s : State} (hT : within [.mbx] T = true)
    (h : Keeps T s0 s) : Keeps T s0 (mbxFwResetBegin s) := by
  unfold mbxFwResetBegin
  repeat' (first | with_reducible assumption | with_reducible apply Keeps.foldl | intro _ | dsimp only | split | ((fail_if_no_progress (with_reducible apply keeps_mk)); rotate_left; · (intro x hx; cases x <;> first | exact absurd (within_mem hT rfl) hx | exact rfl | exact ⟨rfl, rfl, rfl, rfl, rfl, rfl⟩)))

theorem mbxFwResetEnd_keeps {s : State} (hT : within [.mbx, .db, .ports, .d2d, .out] T = true)
    (h : Keeps T s0 s) : Keeps T s0 (mbxFwResetEnd s) := by
  unfold mbxFwResetEnd
  repeat' (first | with_reducible assumption | exact within_trans rfl hT | with_reducible apply ringBit_keeps | with_reducible apply ringGuest_keeps | with_reducible apply Keeps.foldl | intro _ | dsimp only | split | ((fail_if_no_progress (with_reducible apply keeps_mk)); rotate_left; · (intro x hx; cases x <;> first | exact absurd (within_mem hT rfl) hx | exact rfl | exact ⟨rfl, rfl, rfl, rfl, rfl, rfl⟩)))

theorem mbxHostReset_keeps {s : State} (hT : within [.mbx] T = true)
    (h : Keeps T s0 s) : Keeps T s0 (mbxHostReset s) := by
  unfold mbxHostReset
  repeat' (first | with_reducible assumption | with_reducible apply Keeps.foldl | intro _ | dsimp only | split | ((fail_if_no_progress (with_reducible apply keeps_mk)); rotate_left; · (intro x hx; cases x <;> first | exact absurd (within_mem hT rfl) hx | exact rfl | exact ⟨rfl, rfl, rfl, rfl, rfl, rfl⟩)))

theorem mbxGuestResetBegin_keeps {s : State} (hT : within [.mbx] T = true)
    (h : Keeps T s0 s) : Keeps T s0 (mbxGuestResetBegin s) := by
  unfold mbxGuestResetBegin
  repeat' (first | with_reducible assumption | with_reducible apply Keeps.foldl | intro _ | dsimp only | split | ((fail_if_no_progress (with_reducible apply keeps_mk)); rotate_left; · (intro x hx; cases x <;> first | exact absurd (within_mem hT rfl) hx | exact rfl | exact ⟨rfl, rfl, rfl, rfl, rfl, rfl⟩)))

theorem mbxGuestResetEnd_keeps {s : State} (hT : within [.mbx, .db] T = true)
    (h : Keeps T s0 s) : Keeps T s0 (mbxGuestResetEnd s) := by
  unfold mbxGuestResetEnd
  repeat' (first | with_reducible assumption | exact within_trans rfl hT | with_reducible apply ringFw_keeps | with_reducible apply Keeps.foldl | intro _ | dsimp only | split | ((fail_if_no_progress (with_reducible apply keeps_mk)); rotate_left; · (intro x hx; cases x <;> first | exact absurd (within_mem hT rfl) hx | exact rfl | exact ⟨rfl, rfl, rfl, rfl, rfl, rfl⟩)))

theorem lockRead_keeps (m : Master) (k : ℕ) {s : State} (hT : within [.locks] T = true)
    (h : Keeps T s0 s) : Keeps T s0 (lockRead m k s).2 := by
  unfold lockRead
  repeat' (first | with_reducible assumption | with_reducible apply Keeps.foldl | with_reducible apply Keeps.foldlSnd | intro _ | dsimp only | split | ((fail_if_no_progress (with_reducible apply keeps_mk)); rotate_left; · (intro x hx; cases x <;> first | exact absurd (within_mem hT rfl) hx | exact rfl | exact ⟨rfl, rfl, rfl, rfl, rfl, rfl⟩)))

theorem lockWrite_keeps (m : Master) (k : ℕ) (v : BitVec 64) {s : State} (hT : within [.boot, .dev, .faults, .db, .locks, .ports, .cmds, .graphs, .cairn, .out] T = true)
    (h : Keeps T s0 s) : Keeps T s0 (lockWrite m k v s) := by
  unfold lockWrite
  repeat' (first | with_reducible assumption | exact within_trans rfl hT | with_reducible apply faultC_keeps | with_reducible apply Keeps.foldl | intro _ | dsimp only | split | ((fail_if_no_progress (with_reducible apply keeps_mk)); rotate_left; · (intro x hx; cases x <;> first | exact absurd (within_mem hT rfl) hx | exact rfl | exact ⟨rfl, rfl, rfl, rfl, rfl, rfl⟩)))

theorem releaseLocks_keeps (ids : List (BitVec 8)) {s : State} (hT : within [.locks] T = true)
    (h : Keeps T s0 s) : Keeps T s0 (releaseLocks ids s) := by
  unfold releaseLocks
  repeat' (first | with_reducible assumption | with_reducible apply Keeps.foldl | intro _ | dsimp only | split | ((fail_if_no_progress (with_reducible apply keeps_mk)); rotate_left; · (intro x hx; cases x <;> first | exact absurd (within_mem hT rfl) hx | exact rfl | exact ⟨rfl, rfl, rfl, rfl, rfl, rfl⟩)))

theorem hostEpochWrite_keeps (v : BitVec 64) {s : State} (hT : within [.mbx, .db, .locks, .cmds] T = true)
    (h : Keeps T s0 s) : Keeps T s0 (hostEpochWrite v s) := by
  unfold hostEpochWrite
  repeat' (first | with_reducible assumption | exact within_trans rfl hT | with_reducible apply mbxHostReset_keeps | with_reducible apply releaseLocks_keeps | with_reducible apply ringFw_keeps | with_reducible apply Keeps.foldl | intro _ | dsimp only | split | ((fail_if_no_progress (with_reducible apply keeps_mk)); rotate_left; · (intro x hx; cases x <;> first | exact absurd (within_mem hT rfl) hx | exact rfl | exact ⟨rfl, rfl, rfl, rfl, rfl, rfl⟩)))

end Sys2Proof.Machine
end

