-- ==== Sys2Proof/Laws/Mem.lean ====
section
/-!
SUPPORT. One lemma for each shared operation of Machine/Mem.lean: what it keeps of whatever state it is applied to.
The list in a lemma names the areas the operation may change.
-/

set_option linter.unusedTactic false
set_option linter.unreachableTactic false
set_option linter.unusedVariables false

namespace Sys2Proof.Machine

variable {T : List Area} {s0 : State}

theorem stackGone_keeps (k : ℕ) {s : State} (hT : within [.memCtl] T = true)
    (h : Keeps T s0 s) : Keeps T s0 (stackGone k s) := by
  unfold stackGone
  repeat' (first | with_reducible assumption | with_reducible apply Keeps.foldl | intro _ | dsimp only | split | ((fail_if_no_progress (with_reducible apply keeps_mk)); rotate_left; · (intro x hx; cases x <;> first | exact absurd (within_mem hT rfl) hx | exact rfl | exact ⟨rfl, rfl, rfl, rfl, rfl, rfl⟩)) | ((fail_if_no_progress (with_reducible apply keeps_mkMem)); rotate_left; · (intro x hx; cases x <;> first | exact absurd (within_mem hT rfl) hx | exact rfl | exact ⟨rfl, rfl, rfl, rfl, rfl, rfl⟩)))

theorem dramPut_keeps (a : ℕ) (b : Byte) {s : State} (hT : within [.bytes] T = true)
    (h : Keeps T s0 s) : Keeps T s0 (dramPut a b s) := by
  unfold dramPut
  split
  · exact h
  · exact keeps_dram (within_trans rfl hT) h (tabWf_tset 0 _ _ _)

theorem dramPutAll_keeps (a : Nat) (l : List Byte) {s : State} (hT : within [.bytes] T = true)
    (h : Keeps T s0 s) : Keeps T s0 (dramPutAll a l s) := by
  induction l generalizing a s with
  | nil => exact h
  | cons b l ih => exact ih (a + 1) (dramPut_keeps a b (within_trans rfl hT) h)

theorem rwf_cleanUp (lo hi : Nat) (s : State) (r : RangeSet) (hr : rwf r = true) : rwf (cleanUp lo hi s r) = true := by
  unfold cleanUp
  split
  · exact rwf_rsub _ _ _ hr
  · refine rwf_foldl _ _ _ (fun r x hr => ?_) hr
    split
    · exact hr
    · exact rwf_rsub _ _ _ hr

theorem dramClean_keeps (a n : Nat) {s : State} (hT : within [.bytes] T = true) (h : Keeps T s0 s) : Keeps T s0 (dramClean a n s) :=
  keeps_poison (within_trans rfl hT) h (rwf_cleanUp _ _ _ _)

theorem dramTaint_keeps (a : ℕ) (n : ℕ) {s : State} (hT : within [.bytes] T = true)
    (h : Keeps T s0 s) : Keeps T s0 (dramTaint a n s) := by
  unfold dramTaint
  split
  · exact h
  · exact keeps_poison (within_trans rfl hT) h (rwf_radd _ _ _)

theorem writeLine_keeps (a : ℕ) (data : List (Option Byte)) (poison : Byte) {s : State} (hT : within [.bytes] T = true)
    (h : Keeps T s0 s) : Keeps T s0 (writeLine a data poison s) := by
  unfold writeLine
  repeat' (first | with_reducible assumption | exact within_trans rfl hT | with_reducible apply dramPut_keeps | with_reducible apply dramTaint_keeps | with_reducible apply dramClean_keeps | with_reducible apply Keeps.foldl | intro _ | dsimp only | split)

theorem dirSet_keeps (a : ℕ) (d : ℕ) {s : State} (hT : within [.memCtl] T = true)
    (h : Keeps T s0 s) : Keeps T s0 (dirSet a d s) := by
  unfold dirSet
  repeat' (first | with_reducible assumption | with_reducible apply Keeps.foldl | intro _ | dsimp only | split | ((fail_if_no_progress (with_reducible apply keeps_mk)); rotate_left; · (intro x hx; cases x <;> first | exact absurd (within_mem hT rfl) hx | exact rfl | exact ⟨rfl, rfl, rfl, rfl, rfl, rfl⟩)) | ((fail_if_no_progress (with_reducible apply keeps_mkMem)); rotate_left; · (intro x hx; cases x <;> first | exact absurd (within_mem hT rfl) hx | exact rfl | exact ⟨rfl, rfl, rfl, rfl, rfl, rfl⟩)))

theorem cacheSet_keeps (a : ℕ) (v : Option RlcLine) {s : State} (hT : within [.memCtl] T = true)
    (h : Keeps T s0 s) : Keeps T s0 (cacheSet a v s) := by
  unfold cacheSet
  repeat' (first | with_reducible assumption | with_reducible apply Keeps.foldl | intro _ | dsimp only | split | ((fail_if_no_progress (with_reducible apply keeps_mk)); rotate_left; · (intro x hx; cases x <;> first | exact absurd (within_mem hT rfl) hx | exact rfl | exact ⟨rfl, rfl, rfl, rfl, rfl, rfl⟩)) | ((fail_if_no_progress (with_reducible apply keeps_mkMem)); rotate_left; · (intro x hx; cases x <;> first | exact absurd (within_mem hT rfl) hx | exact rfl | exact ⟨rfl, rfl, rfl, rfl, rfl, rfl⟩)))

theorem writeBack_keeps (a : ℕ) {s : State} (hT : within [.bytes, .counts] T = true)
    (h : Keeps T s0 s) : Keeps T s0 (writeBack a s) := by
  unfold writeBack
  repeat' (first | with_reducible assumption | exact within_trans rfl hT | with_reducible apply countStack_keeps | with_reducible apply writeLine_keeps | with_reducible apply Keeps.foldl | intro _ | dsimp only | split)

theorem recallLine_keeps (a : ℕ) {s : State} (hT : within [.bytes, .memCtl, .counts] T = true)
    (h : Keeps T s0 s) : Keeps T s0 (recallLine a s) := by
  unfold recallLine
  repeat' (first | with_reducible assumption | exact within_trans rfl hT | with_reducible apply cacheSet_keeps | with_reducible apply dirSet_keeps | with_reducible apply writeBack_keeps | with_reducible apply Keeps.foldl | intro _ | dsimp only | split)

theorem claimLine_keeps (a : ℕ) {s : State} (hT : within [.bytes, .memCtl, .counts] T = true)
    (h : Keeps T s0 s) : Keeps T s0 (claimLine a s) := by
  unfold claimLine
  repeat' (first | with_reducible assumption | exact within_trans rfl hT | with_reducible apply cacheSet_keeps | with_reducible apply dirSet_keeps | with_reducible apply writeBack_keeps | with_reducible apply Keeps.foldl | intro _ | dsimp only | split)

theorem recallLines_keeps (a : ℕ) (n : ℕ) {s : State} (hT : within [.bytes, .memCtl, .counts] T = true)
    (h : Keeps T s0 s) : Keeps T s0 (recallLines a n s) := by
  unfold recallLines
  repeat' (first | with_reducible assumption | exact within_trans rfl hT | with_reducible apply recallLine_keeps | with_reducible apply Keeps.foldl | intro _ | dsimp only | split)

theorem claimLines_keeps (a : ℕ) (n : ℕ) {s : State} (hT : within [.bytes, .memCtl, .counts] T = true)
    (h : Keeps T s0 s) : Keeps T s0 (claimLines a n s) := by
  unfold claimLines
  repeat' (first | with_reducible assumption | exact within_trans rfl hT | with_reducible apply claimLine_keeps | with_reducible apply Keeps.foldl | intro _ | dsimp only | split)

theorem evictLine_keeps (a : ℕ) {s : State} (hT : within [.bytes, .memCtl, .counts] T = true)
    (h : Keeps T s0 s) : Keeps T s0 (evictLine a s) := by
  unfold evictLine
  repeat' (first | with_reducible assumption | exact within_trans rfl hT | with_reducible apply cacheSet_keeps | with_reducible apply dirSet_keeps | with_reducible apply writeBack_keeps | with_reducible apply Keeps.foldl | intro _ | dsimp only | split)

theorem makeRoom_keeps (f : Flank) {s : State} (hT : within [.bytes, .memCtl, .counts, .free] T = true)
    (h : Keeps T s0 s) : Keeps T s0 (makeRoom f s) := by
  unfold makeRoom
  repeat' (first | with_reducible assumption | exact within_trans rfl hT | with_reducible apply evictLine_keeps | with_reducible apply Keeps.foldl | intro _ | dsimp only | split | ((fail_if_no_progress (with_reducible apply keeps_mk)); rotate_left; · (intro x hx; cases x <;> first | exact absurd (within_mem hT rfl) hx | exact rfl | exact ⟨rfl, rfl, rfl, rfl, rfl, rfl⟩)))

theorem fetchLine_keeps (a : ℕ) (forWrite : Bool) {s : State} (hT : within [.bytes, .memCtl, .counts, .free] T = true)
    (h : Keeps T s0 s) : Keeps T s0 (fetchLine a forWrite s) := by
  unfold fetchLine
  repeat' (first | with_reducible assumption | exact within_trans rfl hT | with_reducible apply makeRoom_keeps | with_reducible apply cacheSet_keeps | with_reducible apply dirSet_keeps | with_reducible apply Keeps.foldl | intro _ | dsimp only | split)

theorem dramWriteBytes_keeps (a : ℕ) (bs : List Byte) {s : State} (hT : within [.bytes, .memCtl, .counts] T = true)
    (h : Keeps T s0 s) : Keeps T s0 (dramWriteBytes a bs s) := by
  unfold dramWriteBytes
  repeat' (first | with_reducible assumption | exact within_trans rfl hT | with_reducible apply dramClean_keeps | with_reducible apply dramPutAll_keeps | with_reducible apply claimLines_keeps | with_reducible apply Keeps.foldl | intro _ | dsimp only | split)

theorem zeroSpan_keeps (a : ℕ) (n : ℕ) {s : State} (hT : within [.bytes, .memCtl] T = true)
    (h : Keeps T s0 s) : Keeps T s0 (zeroSpan a n s) := by
  refine dramClean_keeps _ _ (within_trans rfl hT) (Keeps.upd h rfl (fun w => ?_) (leaf_same rfl) ?_)
  · simp only [Memory.wf_iff] at w ⊢
    exact ⟨tabWf_tclear 0 _ _ w.1, w.2⟩
  · intro x hx; cases x <;> first | exact absurd (within_mem hT rfl) hx | exact rfl | exact ⟨rfl, rfl, rfl, rfl, rfl, rfl⟩

theorem rowDue_keeps (k : ℕ) (ch : ℕ) (bank : ℕ) (row : ℕ) {s : State} (hT : within [.stk] T = true)
    (h : Keeps T s0 s) : Keeps T s0 (rowDue k ch bank row s) := by
  unfold rowDue
  repeat' (first | with_reducible assumption | with_reducible apply Keeps.foldl | intro _ | dsimp only | split | ((fail_if_no_progress (with_reducible apply keeps_mk)); rotate_left; · (intro x hx; cases x <;> first | exact absurd (within_mem hT rfl) hx | exact rfl | exact ⟨rfl, rfl, rfl, rfl, rfl, rfl⟩)))

theorem lineLost_keeps (a : ℕ) (k : ℕ) (ch : ℕ) (syn : ℕ) (b : BadSymbols) {s : State} (hT : within [.boot, .dev, .faults, .db, .ports, .cmds, .graphs, .bytes, .stk, .counts, .cairn, .out] T = true)
    (h : Keeps T s0 s) : Keeps T s0 (lineLost a k ch syn b s) := by
  unfold lineLost
  extract_lets s1 old src s2
  have k : Keeps T s0 s1 := rowDue_keeps _ _ _ _ (within_trans rfl hT) (writeLine_keeps _ _ _ (within_trans rfl hT) h)
  clear_value s1
  have k2 : Keeps T s0 s2 := keeps_mk k (by intro x hx; cases x <;> first | exact absurd (within_mem hT rfl) hx | exact rfl | exact ⟨rfl, rfl, rfl, rfl, rfl, rfl⟩)
  clear_value s2
  exact countStack_keeps _ _ _ (within_trans rfl hT) (faultD_keeps _ _ (within_trans rfl hT) k2)

theorem decodeLine_keeps (a : ℕ) (k : ℕ) (l : ℕ) (kind : ℕ) (b : BadSymbols) {s : State} (hT : within [.boot, .dev, .faults, .db, .ports, .cmds, .graphs, .bytes, .stk, .counts, .cairn, .out] T = true)
    (h : Keeps T s0 s) : Keeps T s0 (decodeLine a k l kind b s) := by
  unfold decodeLine
  repeat' (first | with_reducible assumption | exact within_trans rfl hT | with_reducible apply lineLost_keeps | with_reducible apply countStack_keeps | with_reducible apply faultC_keeps | with_reducible apply Keeps.foldl | intro _ | dsimp only | split)

theorem countLineRead_keeps (k : ℕ) (r : Requester) {s : State} (hT : within [.counts] T = true)
    (h : Keeps T s0 s) : Keeps T s0 (countLineRead k r s) := by
  unfold countLineRead
  repeat' (first | with_reducible assumption | exact within_trans rfl hT | with_reducible apply countStack_keeps | with_reducible apply Keeps.foldl | intro _ | dsimp only | split)

theorem readLine_keeps (a : ℕ) (r : Requester) (bad : List (ℕ × BadSymbols)) {s : State} (hT : within [.boot, .dev, .faults, .db, .ports, .cmds, .graphs, .bytes, .stk, .counts, .cairn, .out] T = true)
    (h : Keeps T s0 s) : Keeps T s0 (readLine a r bad s) := by
  unfold readLine
  repeat' (first | with_reducible assumption | exact within_trans rfl hT | with_reducible apply countLineRead_keeps | with_reducible apply decodeLine_keeps | with_reducible apply Keeps.foldl | intro _ | dsimp only | split)

theorem readLines_keeps (a : ℕ) (n : ℕ) (r : Requester) (bad : List (ℕ × BadSymbols)) {s : State} (hT : within [.boot, .dev, .faults, .db, .ports, .cmds, .graphs, .bytes, .memCtl, .stk, .counts, .cairn, .out] T = true)
    (h : Keeps T s0 s) : Keeps T s0 (readLines a n r bad s) := by
  unfold readLines
  repeat' (first | with_reducible assumption | exact within_trans rfl hT | with_reducible apply readLine_keeps | with_reducible apply recallLines_keeps | with_reducible apply Keeps.foldl | intro _ | dsimp only | split)

theorem clusterReads_keeps (p : ℕ) (a : ℕ) (bad : List (ℕ × BadSymbols)) {s : State} (hT : within [.boot, .dev, .faults, .db, .ports, .cmds, .graphs, .bytes, .memCtl, .stk, .counts, .cairn, .out, .free] T = true)
    (h : Keeps T s0 s) : Keeps T s0 (clusterReads p a bad s) := by
  unfold clusterReads
  repeat' (first | with_reducible assumption | exact within_trans rfl hT | with_reducible apply fetchLine_keeps | with_reducible apply readLine_keeps | with_reducible apply recallLine_keeps | with_reducible apply Keeps.foldl | intro _ | dsimp only | split)

theorem cmPut_keeps (k : ℕ) (b : Byte) {s : State} (hT : within [.bytes] T = true)
    (h : Keeps T s0 s) : Keeps T s0 (cmPut k b s) := by
  exact keeps_cm (within_trans rfl hT) h (tabWf_tset 0 _ _ _)

theorem lsPut_keeps (k : ℕ) (b : Byte) {s : State} (hT : within [.bytes] T = true)
    (h : Keeps T s0 s) : Keeps T s0 (lsPut k b s) := by
  exact keeps_ls (within_trans rfl hT) h (tabWf_tset 0 _ _ _)

theorem cmWrite_keeps (k : ℕ) (bs : List Byte) {s : State} (hT : within [.bytes] T = true)
    (h : Keeps T s0 s) : Keeps T s0 (cmWrite k bs s) := by
  unfold cmWrite
  exact keeps_cmPoison (within_trans rfl hT) (Keeps.foldl h fun t x ht => cmPut_keeps _ _ (within_trans rfl hT) ht) (rwf_rsub _ _ _)

theorem lsWrite_keeps (k : ℕ) (bs : List Byte) {s : State} (hT : within [.bytes] T = true)
    (h : Keeps T s0 s) : Keeps T s0 (lsWrite k bs s) := by
  unfold lsWrite
  exact keeps_lsPoison (within_trans rfl hT) (Keeps.foldl h fun t x ht => lsPut_keeps _ _ (within_trans rfl hT) ht) (rwf_rsub _ _ _)

theorem cmTaint_keeps (k : ℕ) (n : ℕ) {s : State} (hT : within [.bytes] T = true)
    (h : Keeps T s0 s) : Keeps T s0 (cmTaint k n s) := by
  unfold cmTaint
  split
  · exact h
  · exact keeps_cmPoison (within_trans rfl hT) h (rwf_radd _ _ _)

theorem lsTaint_keeps (k : ℕ) (n : ℕ) {s : State} (hT : within [.bytes] T = true)
    (h : Keeps T s0 s) : Keeps T s0 (lsTaint k n s) := by
  unfold lsTaint
  split
  · exact h
  · exact keeps_lsPoison (within_trans rfl hT) h (rwf_radd _ _ _)

theorem hwinIssue_keeps (q : HwinReq) {s : State} (hT : within [.ports, .out] T = true)
    (h : Keeps T s0 s) : Keeps T s0 (hwinIssue q s) := by
  unfold hwinIssue
  repeat' (first | with_reducible assumption | exact within_trans rfl hT | with_reducible apply sendFrame_keeps | with_reducible apply Keeps.foldl | intro _ | dsimp only | split | ((fail_if_no_progress (with_reducible apply keeps_mk)); rotate_left; · (intro x hx; cases x <;> first | exact absurd (within_mem hT rfl) hx | exact rfl | exact ⟨rfl, rfl, rfl, rfl, rfl, rfl⟩)))

theorem hwinTry_keeps (q : HwinReq) {s : State} (hT : within [.ports, .out] T = true)
    (h : Keeps T s0 s) : Keeps T s0 (hwinTry q s) := by
  unfold hwinTry
  repeat' (first | with_reducible assumption | exact within_trans rfl hT | with_reducible apply hwinIssue_keeps | with_reducible apply Keeps.foldl | intro _ | dsimp only | split | ((fail_if_no_progress (with_reducible apply keeps_mk)); rotate_left; · (intro x hx; cases x <;> first | exact absurd (within_mem hT rfl) hx | exact rfl | exact ⟨rfl, rfl, rfl, rfl, rfl, rfl⟩)))

theorem hwinPump_keeps (n : Nat) {s : State} (hT : within [.ports, .out] T = true) (h : Keeps T s0 s) : Keeps T s0 (hwinPump n s) := by
  induction n generalizing s with
  | zero => exact h
  | succ n ih =>
    unfold hwinPump
    split
    · split
      · exact ih (hwinIssue_keeps _ (within_trans rfl hT) (keeps_mk h (by intro x hx; cases x <;> first | exact absurd (within_mem hT rfl) hx | exact rfl | exact ⟨rfl, rfl, rfl, rfl, rfl, rfl⟩)))
      · exact h
    · exact h

theorem hwinSend_keeps (cluster : ℕ) (write : Bool) (off : ℕ) (data : List Byte) {s : State} (hT : within [.ports, .out] T = true)
    (h : Keeps T s0 s) : Keeps T s0 (hwinSend cluster write off data s) := by
  unfold hwinSend
  repeat' (first | with_reducible assumption | exact within_trans rfl hT | with_reducible apply hwinTry_keeps | with_reducible apply Keeps.foldl | intro _ | dsimp only | split | ((fail_if_no_progress (with_reducible apply keeps_mk)); rotate_left; · (intro x hx; cases x <;> first | exact absurd (within_mem hT rfl) hx | exact rfl | exact ⟨rfl, rfl, rfl, rfl, rfl, rfl⟩)))

theorem hostWrite_keeps (off : ℕ) (bs : List Byte) {s : State} (hT : within [.ports, .out] T = true)
    (h : Keeps T s0 s) : Keeps T s0 (hostWrite off bs s) := by
  exact Keeps.foldlSnd h fun t x ht => hwinSend_keeps _ _ _ _ (within_trans rfl hT) ht

theorem fwWrite_keeps (a : ℕ) (bs : List Byte) {s : State} (hT : within [.ports, .bytes, .memCtl, .counts, .out] T = true)
    (h : Keeps T s0 s) : Keeps T s0 (fwWrite a bs s) := by
  unfold fwWrite
  repeat' (first | with_reducible assumption | exact within_trans rfl hT | with_reducible apply hostWrite_keeps | with_reducible apply dramWriteBytes_keeps | with_reducible apply Keeps.foldl | intro _ | dsimp only | split)

end Sys2Proof.Machine
end

