-- ==== Sys2Proof/Laws/CmdFlow.lean ====
section
/-!
SUPPORT. One lemma for each shared operation of Machine/CmdFlow.lean: what it keeps of whatever state it is applied to.
The list in a lemma names the areas the operation may change.
-/

set_option linter.unusedTactic false
set_option linter.unreachableTactic false
set_option linter.unusedVariables false

namespace Sys2Proof.Machine

variable {T : List Area} {s0 : State}

theorem ringError_keeps (r : RingName) (reason : ℕ) {s : State} (hT : within [.db, .ports, .cmds, .out] T = true)
    (h : Keeps T s0 s) : Keeps T s0 (ringError r reason s) := by
  unfold ringError
  repeat' (first | with_reducible assumption | exact within_trans rfl hT | with_reducible apply notice_keeps | with_reducible apply Keeps.foldl | intro _ | dsimp only | split)

theorem ringEnable_keeps (r : RingName) (on : Bool) {s : State} (hT : within [.cmds] T = true)
    (h : Keeps T s0 s) : Keeps T s0 (ringEnable r on s) := by
  unfold ringEnable
  repeat' (first | with_reducible assumption | with_reducible apply Keeps.foldl | intro _ | dsimp only | split | ((fail_if_no_progress (with_reducible apply keeps_mk)); rotate_left; · (intro x hx; cases x <;> first | exact absurd (within_mem hT rfl) hx | exact rfl | exact ⟨rfl, rfl, rfl, rfl, rfl, rfl⟩)))

theorem ringTake_keeps (r : RingName) {s : State} (hT : within [.db, .ports, .cmds, .memCtl, .out] T = true)
    (h : Keeps T s0 s) : Keeps T s0 (ringTake r s) := by
  unfold ringTake
  repeat' (first | with_reducible assumption | exact within_trans rfl hT | with_reducible apply ringEnable_keeps | with_reducible apply ringError_keeps | with_reducible apply Keeps.foldl | intro _ | dsimp only | split | ((fail_if_no_progress (with_reducible apply keeps_mk)); rotate_left; · (intro x hx; cases x <;> first | exact absurd (within_mem hT rfl) hx | exact rfl | exact ⟨rfl, rfl, rfl, rfl, rfl, rfl⟩)) | ((fail_if_no_progress (with_reducible apply keeps_mkMem)); rotate_left; · (intro x hx; cases x <;> first | exact absurd (within_mem hT rfl) hx | exact rfl | exact ⟨rfl, rfl, rfl, rfl, rfl, rfl⟩)))

theorem takeRings_keeps {s : State} (hT : within [.db, .ports, .cmds, .memCtl, .out] T = true)
    (h : Keeps T s0 s) : Keeps T s0 (takeRings s) := by
  unfold takeRings
  repeat' (first | with_reducible assumption | exact within_trans rfl hT | with_reducible apply ringTake_keeps | with_reducible apply Keeps.foldl | intro _ | dsimp only | split | ((fail_if_no_progress (with_reducible apply keeps_mk)); rotate_left; · (intro x hx; cases x <;> first | exact absurd (within_mem hT rfl) hx | exact rfl | exact ⟨rfl, rfl, rfl, rfl, rfl, rfl⟩)) | ((fail_if_no_progress (with_reducible apply keeps_mkMem)); rotate_left; · (intro x hx; cases x <;> first | exact absurd (within_mem hT rfl) hx | exact rfl | exact ⟨rfl, rfl, rfl, rfl, rfl, rfl⟩)))

theorem ringConfigWrite_keeps (r : RingReg) (v : BitVec 64) {s : State} (hT : within [.cmds] T = true)
    (h : Keeps T s0 s) : Keeps T s0 (ringConfigWrite r v s) := by
  unfold ringConfigWrite
  repeat' (first | with_reducible assumption | with_reducible apply Keeps.foldl | intro _ | dsimp only | split | ((fail_if_no_progress (with_reducible apply keeps_mk)); rotate_left; · (intro x hx; cases x <;> first | exact absurd (within_mem hT rfl) hx | exact rfl | exact ⟨rfl, rfl, rfl, rfl, rfl, rfl⟩)))

theorem cqConsumedWrite_keeps (v : BitVec 64) {s : State} (hT : within [.cmds] T = true)
    (h : Keeps T s0 s) : Keeps T s0 (cqConsumedWrite v s).2 := by
  unfold cqConsumedWrite
  repeat' (first | with_reducible assumption | with_reducible apply Keeps.foldl | with_reducible apply Keeps.foldlSnd | intro _ | dsimp only | split | ((fail_if_no_progress (with_reducible apply keeps_mk)); rotate_left; · (intro x hx; cases x <;> first | exact absurd (within_mem hT rfl) hx | exact rfl | exact ⟨rfl, rfl, rfl, rfl, rfl, rfl⟩)))

theorem announce_keeps (q : Queue) (ch : ℕ) (w : BitVec 64) {s : State} (hT : within [.db, .ports, .cmds, .out] T = true)
    (h : Keeps T s0 s) : Keeps T s0 (announce q ch w s) := by
  unfold announce
  repeat' (first | with_reducible assumption | exact within_trans rfl hT | with_reducible apply ringError_keeps | with_reducible apply setRing_keeps | with_reducible apply Keeps.foldl | intro _ | dsimp only | split | ((fail_if_no_progress (with_reducible apply keeps_mk)); rotate_left; · (intro x hx; cases x <;> first | exact absurd (within_mem hT rfl) hx | exact rfl | exact ⟨rfl, rfl, rfl, rfl, rfl, rfl⟩)))

theorem takeAnnouncement_keeps (ch : ℕ) {s : State} (hT : within [.mbx, .db, .ports, .cmds, .out] T = true)
    (h : Keeps T s0 s) : Keeps T s0 (takeAnnouncement ch s) := by
  unfold takeAnnouncement
  repeat' (first | with_reducible assumption | exact within_trans rfl hT | with_reducible apply fwDrain_keeps | with_reducible apply announce_keeps | with_reducible apply Keeps.foldl | intro _ | dsimp only | split)

theorem takeDescriptor_keeps (q : Queue) (b : List Byte) {s : State} (hT : within [.cmds] T = true)
    (h : Keeps T s0 s) : Keeps T s0 (takeDescriptor q b s) := by
  unfold takeDescriptor
  repeat' (first | with_reducible assumption | exact within_trans rfl hT | with_reducible apply touchSync_keeps | with_reducible apply setRing_keeps | with_reducible apply finish_keeps | with_reducible apply Keeps.foldl | intro _ | dsimp only | split | ((fail_if_no_progress (with_reducible apply keeps_mk)); rotate_left; · (intro x hx; cases x <;> first | exact absurd (within_mem hT rfl) hx | exact rfl | exact ⟨rfl, rfl, rfl, rfl, rfl, rfl⟩)))

theorem moveBegun_keeps (q : Queue) (a : Accepted) {s : State} (hT : within [.cmds] T = true)
    (h : Keeps T s0 s) : Keeps T s0 (moveBegun q a s) := by
  unfold moveBegun
  repeat' (first | with_reducible assumption | exact within_trans rfl hT | with_reducible apply setRing_keeps | with_reducible apply Keeps.foldl | intro _ | dsimp only | split)

theorem finishWith_keeps (a : Accepted) (r : Res) (bytes : List Byte) {s : State} (hT : within [.ports, .cmds, .bytes, .memCtl, .counts, .out] T = true)
    (h : Keeps T s0 s) : Keeps T s0 (finishWith a r bytes s) := by
  unfold finishWith
  repeat' (first | with_reducible assumption | exact within_trans rfl hT | with_reducible apply finish_keeps | with_reducible apply fwWrite_keeps | with_reducible apply Keeps.foldl | intro _ | dsimp only | split)

theorem argBytes_keeps (d : Descriptor) {s : State} (hT : within [.free] T = true)
    (h : Keeps T s0 s) : Keeps T s0 (argBytes d s).2 := by
  unfold argBytes
  repeat' (first | with_reducible assumption | with_reducible apply Keeps.foldl | with_reducible apply Keeps.foldlSnd | intro _ | dsimp only | split | ((fail_if_no_progress (with_reducible apply keeps_mk)); rotate_left; · (intro x hx; cases x <;> first | exact absurd (within_mem hT rfl) hx | exact rfl | exact ⟨rfl, rfl, rfl, rfl, rfl, rfl⟩)))

theorem postEntry_keeps (e : Entry) (rest : List Entry) {s : State} (hT : within [.db, .ports, .cmds, .bytes, .memCtl, .counts, .out] T = true)
    (h : Keeps T s0 s) : Keeps T s0 (postEntry e rest s) := by
  unfold postEntry
  repeat' (first | with_reducible assumption | exact within_trans rfl hT | with_reducible apply fwWrite_keeps | with_reducible apply touchSync_keeps | with_reducible apply ringBit_keeps | with_reducible apply Keeps.foldl | intro _ | dsimp only | split | ((fail_if_no_progress (with_reducible apply keeps_mk)); rotate_left; · (intro x hx; cases x <;> first | exact absurd (within_mem hT rfl) hx | exact rfl | exact ⟨rfl, rfl, rfl, rfl, rfl, rfl⟩)))

end Sys2Proof.Machine
end

