-- ==== Sys2Proof/Laws/Frames.lean ====
section
/-!
SUPPORT. One lemma for each shared operation of Machine/Frames.lean: what it keeps of whatever state it is applied to.
The list in a lemma names the areas the operation may change.
-/

set_option linter.unusedTactic false
set_option linter.unreachableTactic false
set_option linter.unusedVariables false

namespace Sys2Proof.Machine

variable {T : List Area} {s0 : State}

theorem doResync_keeps (x1 : HeldFrame) {s : State} (hT : within [.ports, .out] T = true)
    (h : Keeps T s0 s) : Keeps T s0 (doResync x1 s) := by
  unfold doResync
  repeat' (first | with_reducible assumption | exact within_trans rfl hT | with_reducible apply sendFrame_keeps | with_reducible apply Keeps.foldl | intro _ | dsimp only | split | ((fail_if_no_progress (with_reducible apply keeps_mk)); rotate_left; · (intro x hx; cases x <;> first | exact absurd (within_mem hT rfl) hx | exact rfl | exact ⟨rfl, rfl, rfl, rfl, rfl, rfl⟩)))

theorem settleResync_keeps {s : State} (hT : within [.ports, .out] T = true)
    (h : Keeps T s0 s) : Keeps T s0 (settleResync s) := by
  unfold settleResync
  repeat' (first | with_reducible assumption | exact within_trans rfl hT | with_reducible apply doResync_keeps | with_reducible apply Keeps.foldl | intro _ | dsimp only | split)

theorem settleHeld_keeps {s : State} (hT : within [.ports, .out] T = true)
    (h : Keeps T s0 s) : Keeps T s0 (settleHeld s) := by
  unfold settleHeld
  repeat' (first | with_reducible assumption | exact within_trans rfl hT | with_reducible apply settleResync_keeps | with_reducible apply Keeps.foldl | intro _ | dsimp only | split | ((fail_if_no_progress (with_reducible apply keeps_mk)); rotate_left; · (intro x hx; cases x <;> first | exact absurd (within_mem hT rfl) hx | exact rfl | exact ⟨rfl, rfl, rfl, rfl, rfl, rfl⟩)))

theorem repref_keeps {s : State} (hT : within [.db, .ports, .out] T = true)
    (h : Keeps T s0 s) : Keeps T s0 (repref s) := by
  unfold repref
  repeat' (first | with_reducible assumption | exact within_trans rfl hT | with_reducible apply settleHeld_keeps | with_reducible apply ringBit_keeps | with_reducible apply Keeps.foldl | intro _ | dsimp only | split | ((fail_if_no_progress (with_reducible apply keeps_mk)); rotate_left; · (intro x hx; cases x <;> first | exact absurd (within_mem hT rfl) hx | exact rfl | exact ⟨rfl, rfl, rfl, rfl, rfl, rfl⟩)))

theorem firstCredit_keeps {s : State} (hT : within [.ports, .out] T = true)
    (h : Keeps T s0 s) : Keeps T s0 (firstCredit s) := by
  unfold firstCredit
  repeat' (first | with_reducible assumption | exact within_trans rfl hT | with_reducible apply sendCredit_keeps | with_reducible apply Keeps.foldl | intro _ | dsimp only | split | ((fail_if_no_progress (with_reducible apply keeps_mk)); rotate_left; · (intro x hx; cases x <;> first | exact absurd (within_mem hT rfl) hx | exact rfl | exact ⟨rfl, rfl, rfl, rfl, rfl, rfl⟩)))

theorem returnEvent_keeps {s : State} (hT : within [.ports, .out] T = true)
    (h : Keeps T s0 s) : Keeps T s0 (returnEvent s) := by
  unfold returnEvent
  repeat' (first | with_reducible assumption | exact within_trans rfl hT | with_reducible apply sendDoorbellEvent_keeps | with_reducible apply Keeps.foldl | intro _ | dsimp only | split)

theorem portUp_keeps (p : Port) {s : State} (hT : within [.boot, .dev, .faults, .db, .ports, .cmds, .graphs, .cairn, .out, .free] T = true)
    (h : Keeps T s0 s) : Keeps T s0 (portUp p s) := by
  unfold portUp
  repeat' (first | with_reducible assumption | exact within_trans rfl hT | with_reducible apply setPort_keeps | with_reducible apply firstCredit_keeps | with_reducible apply returnEvent_keeps | with_reducible apply ringBit_keeps | with_reducible apply faultCOpen_keeps | with_reducible apply repref_keeps | with_reducible apply Keeps.foldl | intro _ | dsimp only | split | ((fail_if_no_progress (with_reducible apply keeps_mk)); rotate_left; · (intro x hx; cases x <;> first | exact absurd (within_mem hT rfl) hx | exact rfl | exact ⟨rfl, rfl, rfl, rfl, rfl, rfl⟩)))

theorem portDown_keeps (p : Port) {s : State} (hT : within [.boot, .dev, .faults, .db, .ports, .cmds, .graphs, .cairn, .out, .free] T = true)
    (h : Keeps T s0 s) : Keeps T s0 (portDown p s) := by
  unfold portDown
  repeat' (first | with_reducible assumption | exact within_trans rfl hT | with_reducible apply setPort_keeps | with_reducible apply ringBit_keeps | with_reducible apply faultCOpen_keeps | with_reducible apply repref_keeps | with_reducible apply Keeps.foldl | intro _ | dsimp only | split | ((fail_if_no_progress (with_reducible apply keeps_mk)); rotate_left; · (intro x hx; cases x <;> first | exact absurd (within_mem hT rfl) hx | exact rfl | exact ⟨rfl, rfl, rfl, rfl, rfl, rfl⟩)))

theorem portTrains_keeps (p : Port) {s : State} (hT : within [.ports, .links] T = true)
    (h : Keeps T s0 s) : Keeps T s0 (portTrains p s) := by
  unfold portTrains
  repeat' (first | with_reducible assumption | exact within_trans rfl hT | with_reducible apply setPort_keeps | with_reducible apply linkSet_keeps | with_reducible apply Keeps.foldl | intro _ | dsimp only | split | ((fail_if_no_progress (with_reducible apply keeps_mk)); rotate_left; · (intro x hx; cases x <;> first | exact absurd (within_mem hT rfl) hx | exact rfl | exact ⟨rfl, rfl, rfl, rfl, rfl, rfl⟩)))

theorem portCarries_keeps (i : ℕ) {s : State} (hT : within [.chans] T = true)
    (h : Keeps T s0 s) : Keeps T s0 (portCarries i s) := by
  unfold portCarries
  repeat' (first | with_reducible assumption | exact within_trans rfl hT | with_reducible apply setChan_keeps | with_reducible apply Keeps.foldl | intro _ | dsimp only | split)

theorem portJoins_keeps (p : Port) {s : State} (hT : within [.boot, .dev, .faults, .db, .ports, .cmds, .graphs, .cairn, .chans, .links, .out, .free] T = true)
    (h : Keeps T s0 s) : Keeps T s0 (portJoins p s) := by
  unfold portJoins
  repeat' (first | with_reducible assumption | exact within_trans rfl hT | with_reducible apply portUp_keeps | with_reducible apply portCarries_keeps | with_reducible apply linkSet_keeps | with_reducible apply Keeps.foldl | intro _ | dsimp only | split)

theorem recordSeq_keeps (p : Port) (f : Frame) {s : State} (hT : within [.ports] T = true)
    (h : Keeps T s0 s) : Keeps T s0 (recordSeq p f s) := by
  unfold recordSeq
  repeat' (first | with_reducible assumption | with_reducible apply Keeps.foldl | intro _ | dsimp only | split | ((fail_if_no_progress (with_reducible apply keeps_mk)); rotate_left; · (intro x hx; cases x <;> first | exact absurd (within_mem hT rfl) hx | exact rfl | exact ⟨rfl, rfl, rfl, rfl, rfl, rfl⟩)))

theorem discard_keeps (i : ℕ) {s : State} (hT : within [.ports] T = true)
    (h : Keeps T s0 s) : Keeps T s0 (discard i s) := by
  unfold discard
  repeat' (first | with_reducible assumption | with_reducible apply Keeps.foldl | intro _ | dsimp only | split | ((fail_if_no_progress (with_reducible apply keeps_mk)); rotate_left; · (intro x hx; cases x <;> first | exact absurd (within_mem hT rfl) hx | exact rfl | exact ⟨rfl, rfl, rfl, rfl, rfl, rfl⟩)))

theorem portEvent_keeps (i : ℕ) {s : State} (hT : within [.ports] T = true)
    (h : Keeps T s0 s) : Keeps T s0 (portEvent i s) := by
  unfold portEvent
  repeat' (first | with_reducible assumption | with_reducible apply Keeps.foldl | intro _ | dsimp only | split | ((fail_if_no_progress (with_reducible apply keeps_mk)); rotate_left; · (intro x hx; cases x <;> first | exact absurd (within_mem hT rfl) hx | exact rfl | exact ⟨rfl, rfl, rfl, rfl, rfl, rfl⟩)))

theorem trackGap_keeps {s : State} (hT : within [.ports] T = true)
    (h : Keeps T s0 s) : Keeps T s0 (trackGap s) := by
  unfold trackGap
  repeat' (first | with_reducible assumption | with_reducible apply Keeps.foldl | intro _ | dsimp only | split | ((fail_if_no_progress (with_reducible apply keeps_mk)); rotate_left; · (intro x hx; cases x <;> first | exact absurd (within_mem hT rfl) hx | exact rfl | exact ⟨rfl, rfl, rfl, rfl, rfl, rfl⟩)))

theorem differing_keeps (loser : Port) (seq : BitVec 32) (crcActed : BitVec 32) (crcOther : BitVec 32) {s : State} (hT : within [.boot, .dev, .faults, .db, .ports, .cmds, .graphs, .cairn, .out] T = true)
    (h : Keeps T s0 s) : Keeps T s0 (differing loser seq crcActed crcOther s) := by
  unfold differing
  repeat' (first | with_reducible assumption | exact within_trans rfl hT | with_reducible apply faultC_keeps | with_reducible apply portEvent_keeps | with_reducible apply Keeps.foldl | intro _ | dsimp only | split)

theorem recountCopy_keeps (p : Port) (f : Frame) {s : State} (hT : within [.ports] T = true)
    (h : Keeps T s0 s) : Keeps T s0 (recountCopy p f s) := by
  unfold recountCopy
  repeat' (first | with_reducible assumption | with_reducible apply Keeps.foldl | intro _ | dsimp only | split | ((fail_if_no_progress (with_reducible apply keeps_mk)); rotate_left; · (intro x hx; cases x <;> first | exact absurd (within_mem hT rfl) hx | exact rfl | exact ⟨rfl, rfl, rfl, rfl, rfl, rfl⟩)))

theorem secondCopy_keeps (p : Port) (f : Frame) (x3 : HeldFrame) {s : State} (hT : within [.boot, .dev, .faults, .db, .ports, .cmds, .graphs, .cairn, .out] T = true)
    (h : Keeps T s0 s) : Keeps T s0 (secondCopy p f x3 s) := by
  unfold secondCopy
  repeat' (first | with_reducible assumption | exact within_trans rfl hT | with_reducible apply recountCopy_keeps | with_reducible apply differing_keeps | with_reducible apply Keeps.foldl | intro _ | dsimp only | split | ((fail_if_no_progress (with_reducible apply keeps_mk)); rotate_left; · (intro x hx; cases x <;> first | exact absurd (within_mem hT rfl) hx | exact rfl | exact ⟨rfl, rfl, rfl, rfl, rfl, rfl⟩)))

theorem lateCopy_keeps (p : Port) (f : Frame) (x : AcceptedSeq) {s : State} (hT : within [.boot, .dev, .faults, .db, .ports, .cmds, .graphs, .cairn, .out] T = true)
    (h : Keeps T s0 s) : Keeps T s0 (lateCopy p f x s) := by
  unfold lateCopy
  repeat' (first | with_reducible assumption | exact within_trans rfl hT | with_reducible apply differing_keeps | with_reducible apply Keeps.foldl | intro _ | dsimp only | split)

theorem sentAgain_keeps (f : Frame) (x : AcceptedSeq) {s : State} (hT : within [.ports, .out] T = true)
    (h : Keeps T s0 s) : Keeps T s0 (sentAgain f x s) := by
  unfold sentAgain
  repeat' (first | with_reducible assumption | exact within_trans rfl hT | with_reducible apply outFrame_keeps | with_reducible apply discard_keeps | with_reducible apply Keeps.foldl | intro _ | dsimp only | split)

theorem duplicateFrame_keeps (p : Port) (f : Frame) {s : State} (hT : within [.boot, .dev, .faults, .db, .ports, .cmds, .graphs, .cairn, .out] T = true)
    (h : Keeps T s0 s) : Keeps T s0 (duplicateFrame p f s) := by
  unfold duplicateFrame
  repeat' (first | with_reducible assumption | exact within_trans rfl hT | with_reducible apply secondCopy_keeps | with_reducible apply sentAgain_keeps | with_reducible apply lateCopy_keeps | with_reducible apply Keeps.foldl | intro _ | dsimp only | split)

theorem badResync_keeps (f : Frame) {s : State} (hT : within [.ports, .out] T = true)
    (h : Keeps T s0 s) : Keeps T s0 (badResync f s) := by
  unfold badResync
  repeat' (first | with_reducible assumption | exact within_trans rfl hT | with_reducible apply sendFrame_keeps | with_reducible apply Keeps.foldl | intro _ | dsimp only | split | ((fail_if_no_progress (with_reducible apply keeps_mk)); rotate_left; · (intro x hx; cases x <;> first | exact absurd (within_mem hT rfl) hx | exact rfl | exact ⟨rfl, rfl, rfl, rfl, rfl, rfl⟩)))

theorem secondResync_keeps (p : Port) (f : Frame) (x3 : HeldFrame) {s : State} (hT : within [.boot, .dev, .faults, .db, .ports, .cmds, .graphs, .cairn, .out] T = true)
    (h : Keeps T s0 s) : Keeps T s0 (secondResync p f x3 s) := by
  unfold secondResync
  repeat' (first | with_reducible assumption | exact within_trans rfl hT | with_reducible apply doResync_keeps | with_reducible apply differing_keeps | with_reducible apply Keeps.foldl | intro _ | dsimp only | split)

theorem resyncArrives_keeps (p : Port) (f : Frame) {s : State} (hT : within [.boot, .dev, .faults, .db, .ports, .cmds, .graphs, .cairn, .out] T = true)
    (h : Keeps T s0 s) : Keeps T s0 (resyncArrives p f s) := by
  unfold resyncArrives
  repeat' (first | with_reducible assumption | exact within_trans rfl hT | with_reducible apply badResync_keeps | with_reducible apply duplicateFrame_keeps | with_reducible apply secondResync_keeps | with_reducible apply settleResync_keeps | with_reducible apply Keeps.foldl | intro _ | dsimp only | split | ((fail_if_no_progress (with_reducible apply keeps_mk)); rotate_left; · (intro x hx; cases x <;> first | exact absurd (within_mem hT rfl) hx | exact rfl | exact ⟨rfl, rfl, rfl, rfl, rfl, rfl⟩)))

theorem acceptFrame_keeps (p : Port) (f : Frame) {s : State} (hT : within [.ports] T = true)
    (h : Keeps T s0 s) : Keeps T s0 (acceptFrame p f s) := by
  unfold acceptFrame
  repeat' (first | with_reducible assumption | exact within_trans rfl hT | with_reducible apply recordSeq_keeps | with_reducible apply trackGap_keeps | with_reducible apply Keeps.foldl | intro _ | dsimp only | split | ((fail_if_no_progress (with_reducible apply keeps_mk)); rotate_left; · (intro x hx; cases x <;> first | exact absurd (within_mem hT rfl) hx | exact rfl | exact ⟨rfl, rfl, rfl, rfl, rfl, rfl⟩)))

theorem takeHostCredit_keeps (f : Frame) {s : State} (hT : within [.ports, .out] T = true)
    (h : Keeps T s0 s) : Keeps T s0 (takeHostCredit f s) := by
  unfold takeHostCredit
  repeat' (first | with_reducible assumption | exact within_trans rfl hT | with_reducible apply hwinPump_keeps | with_reducible apply Keeps.foldl | intro _ | dsimp only | split | ((fail_if_no_progress (with_reducible apply keeps_mk)); rotate_left; · (intro x hx; cases x <;> first | exact absurd (within_mem hT rfl) hx | exact rfl | exact ⟨rfl, rfl, rfl, rfl, rfl, rfl⟩)))

theorem badCredit_keeps (f : Frame) {s : State} (hT : within [.ports, .out] T = true)
    (h : Keeps T s0 s) : Keeps T s0 (badCredit f s) := by
  unfold badCredit
  repeat' (first | with_reducible assumption | exact within_trans rfl hT | with_reducible apply sendFrame_keeps | with_reducible apply Keeps.foldl | intro _ | dsimp only | split)

theorem hostFrame_keeps (p : Port) (f : Frame) {s : State} (hT : within [.boot, .dev, .faults, .db, .ports, .cmds, .graphs, .cairn, .out] T = true)
    (h : Keeps T s0 s) : Keeps T s0 (hostFrame p f s) := by
  unfold hostFrame
  repeat' (first | with_reducible assumption | exact within_trans rfl hT | with_reducible apply discard_keeps | with_reducible apply resyncArrives_keeps | with_reducible apply takeHostCredit_keeps | with_reducible apply badCredit_keeps | with_reducible apply duplicateFrame_keeps | with_reducible apply portEvent_keeps | with_reducible apply acceptFrame_keeps | with_reducible apply Keeps.foldl | intro _ | dsimp only | split)

theorem acted_keeps (f : Frame) {s : State} (hT : within [.ports] T = true)
    (h : Keeps T s0 s) : Keeps T s0 (acted f s) := by
  unfold acted
  repeat' (first | with_reducible assumption | exact within_trans rfl hT | with_reducible apply trackGap_keeps | with_reducible apply Keeps.foldl | intro _ | dsimp only | split | ((fail_if_no_progress (with_reducible apply keeps_mk)); rotate_left; · (intro x hx; cases x <;> first | exact absurd (within_mem hT rfl) hx | exact rfl | exact ⟨rfl, rfl, rfl, rfl, rfl, rfl⟩)))

theorem answer_keeps (x1 : HeldFrame) (st : Status) (payload : List Byte) {s : State} (hT : within [.ports, .out] T = true)
    (h : Keeps T s0 s) : Keeps T s0 (answer x1 st payload s) := by
  unfold answer
  repeat' (first | with_reducible assumption | exact within_trans rfl hT | with_reducible apply sendFrame_keeps | with_reducible apply acted_keeps | with_reducible apply Keeps.foldl | intro _ | dsimp only | split | ((fail_if_no_progress (with_reducible apply keeps_mk)); rotate_left; · (intro x hx; cases x <;> first | exact absurd (within_mem hT rfl) hx | exact rfl | exact ⟨rfl, rfl, rfl, rfl, rfl, rfl⟩)))

theorem mboxPost_keeps (x1 : HeldFrame) {s : State} (hT : within [.boot, .dev, .faults, .mbx, .db, .ports, .cmds, .graphs, .cairn, .out] T = true)
    (h : Keeps T s0 s) : Keeps T s0 (mboxPost x1 s).2 := by
  unfold mboxPost
  repeat' (first | with_reducible assumption | exact within_trans rfl hT | with_reducible apply secureFault_keeps | with_reducible apply partyPost_keeps | with_reducible apply ringFw_keeps | with_reducible apply Keeps.foldl | with_reducible apply Keeps.foldlSnd | intro _ | dsimp only | split)

theorem hwinFail_keeps {s : State} (hT : within [.boot, .dev, .faults, .db, .ports, .cmds, .graphs, .cairn, .out, .free] T = true)
    (h : Keeps T s0 s) : Keeps T s0 (hwinFail s) := by
  unfold hwinFail
  repeat' (first | with_reducible assumption | exact within_trans rfl hT | with_reducible apply faultDOpen_keeps | with_reducible apply portEvent_keeps | with_reducible apply Keeps.foldl | intro _ | dsimp only | split)

theorem dropHwin_keeps (seq : BitVec 32) {s : State} (hT : within [.ports] T = true)
    (h : Keeps T s0 s) : Keeps T s0 (dropHwin seq s) := by
  unfold dropHwin
  repeat' (first | with_reducible assumption | with_reducible apply Keeps.foldl | intro _ | dsimp only | split | ((fail_if_no_progress (with_reducible apply keeps_mk)); rotate_left; · (intro x hx; cases x <;> first | exact absurd (within_mem hT rfl) hx | exact rfl | exact ⟨rfl, rfl, rfl, rfl, rfl, rfl⟩)))

end Sys2Proof.Machine
end

