-- ==== Sys2Proof/Laws/Clusters.lean ====
section
/-!
SUPPORT. One lemma for each shared operation of Machine/Clusters.lean: what it keeps of whatever state it is applied to.
The list in a lemma names the areas the operation may change.
-/

set_option linter.unusedTactic false
set_option linter.unreachableTactic false
set_option linter.unusedVariables false

namespace Sys2Proof.Machine

variable {T : List Area} {s0 : State}

theorem clusterSet_keeps (p : ℕ) (x : ClusterSt) {s : State} (hT : within [.comp] T = true)
    (h : Keeps T s0 s) : Keeps T s0 (clusterSet p x s) := by
  unfold clusterSet
  repeat' (first | with_reducible assumption | with_reducible apply Keeps.foldl | intro _ | dsimp only | split | ((fail_if_no_progress (with_reducible apply keeps_mk)); rotate_left; · (intro x hx; cases x <;> first | exact absurd (within_mem hT rfl) hx | exact rfl | exact ⟨rfl, rfl, rfl, rfl, rfl, rfl⟩)))

theorem coreSet_keeps (p : ℕ) (c : ℕ) (x : CoreSt) {s : State} (hT : within [.comp] T = true)
    (h : Keeps T s0 s) : Keeps T s0 (coreSet p c x s) := by
  unfold coreSet
  repeat' (first | with_reducible assumption | with_reducible apply Keeps.foldl | intro _ | dsimp only | split | ((fail_if_no_progress (with_reducible apply keeps_mk)); rotate_left; · (intro x hx; cases x <;> first | exact absurd (within_mem hT rfl) hx | exact rfl | exact ⟨rfl, rfl, rfl, rfl, rfl, rfl⟩)))

theorem engSet_keeps (p : ℕ) (c : ℕ) (e : Engine) (y : EngineSt) {s : State} (hT : within [.comp] T = true)
    (h : Keeps T s0 s) : Keeps T s0 (engSet p c e y s) := by
  unfold engSet
  repeat' (first | with_reducible assumption | exact within_trans rfl hT | with_reducible apply coreSet_keeps | with_reducible apply Keeps.foldl | intro _ | dsimp only | split)

theorem bankSet_keeps (p : ℕ) (c : ℕ) (b : Bank) {s : State} (hT : within [.banks] T = true)
    (h : Keeps T s0 s) : Keeps T s0 (bankSet p c b s) := by
  unfold bankSet
  repeat' (first | with_reducible assumption | with_reducible apply Keeps.foldl | intro _ | dsimp only | split | ((fail_if_no_progress (with_reducible apply keeps_mk)); rotate_left; · (intro x hx; cases x <;> first | exact absurd (within_mem hT rfl) hx | exact rfl | exact ⟨rfl, rfl, rfl, rfl, rfl, rfl⟩)))

theorem bankEnter_keeps (p : ℕ) (c : ℕ) (st : BankState) {s : State} (hT : within [.banks] T = true)
    (h : Keeps T s0 s) : Keeps T s0 (bankEnter p c st s) := by
  unfold bankEnter
  repeat' (first | with_reducible assumption | exact within_trans rfl hT | with_reducible apply bankSet_keeps | with_reducible apply Keeps.foldl | intro _ | dsimp only | split)

theorem bankBoundary_keeps (p : ℕ) (c : ℕ) {s : State} (hT : within [.banks] T = true)
    (h : Keeps T s0 s) : Keeps T s0 (bankBoundary p c s) := by
  unfold bankBoundary
  repeat' (first | with_reducible assumption | exact within_trans rfl hT | with_reducible apply bankEnter_keeps | with_reducible apply Keeps.foldl | intro _ | dsimp only | split)

theorem bankClaim_keeps (p : ℕ) (c : ℕ) (st : BankState) {s : State} (hT : within [.banks] T = true)
    (h : Keeps T s0 s) : Keeps T s0 (bankClaim p c st s) := by
  unfold bankClaim
  repeat' (first | with_reducible assumption | exact within_trans rfl hT | with_reducible apply bankBoundary_keeps | with_reducible apply bankSet_keeps | with_reducible apply Keeps.foldl | intro _ | dsimp only | split)

theorem slotSet_keeps (i : ℕ) (g : Graph) {s : State} (hT : within [.graphs] T = true)
    (h : Keeps T s0 s) : Keeps T s0 (slotSet i g s) := by
  unfold slotSet
  repeat' (first | with_reducible assumption | with_reducible apply Keeps.foldl | intro _ | dsimp only | split | ((fail_if_no_progress (with_reducible apply keeps_mk)); rotate_left; · (intro x hx; cases x <;> first | exact absurd (within_mem hT rfl) hx | exact rfl | exact ⟨rfl, rfl, rfl, rfl, rfl, rfl⟩)))

theorem bumpCoreSync_keeps (p : ℕ) (c : ℕ) (i : ℕ) {s : State} (hT : within [.comp] T = true)
    (h : Keeps T s0 s) : Keeps T s0 (bumpCoreSync p c i s) := by
  unfold bumpCoreSync
  repeat' (first | with_reducible assumption | exact within_trans rfl hT | with_reducible apply coreSet_keeps | with_reducible apply Keeps.foldl | intro _ | dsimp only | split)

theorem bumpClusterSync_keeps (p : ℕ) (i : ℕ) {s : State} (hT : within [.comp] T = true)
    (h : Keeps T s0 s) : Keeps T s0 (bumpClusterSync p i s) := by
  unfold bumpClusterSync
  repeat' (first | with_reducible assumption | exact within_trans rfl hT | with_reducible apply clusterSet_keeps | with_reducible apply Keeps.foldl | intro _ | dsimp only | split)

theorem settleTokens_keeps (old : State) {s : State} (hT : within [.comp] T = true)
    (h : Keeps T s0 s) : Keeps T s0 (settleTokens old s) := by
  unfold settleTokens
  repeat' (first | with_reducible assumption | exact within_trans rfl hT | with_reducible apply clusterSet_keeps | with_reducible apply Keeps.foldl | intro _ | dsimp only | split)

theorem setFlankPower_keeps (f : Flank) (x : FlankPower) {s : State} (hT : within [.comp, .therm] T = true)
    (h : Keeps T s0 s) : Keeps T s0 (setFlankPower f x s) := by
  unfold setFlankPower
  repeat' (first | with_reducible assumption | exact within_trans rfl hT | with_reducible apply settleTokens_keeps | with_reducible apply Keeps.foldl | intro _ | dsimp only | split | ((fail_if_no_progress (with_reducible apply keeps_mk)); rotate_left; · (intro x hx; cases x <;> first | exact absurd (within_mem hT rfl) hx | exact rfl | exact ⟨rfl, rfl, rfl, rfl, rfl, rfl⟩)))

theorem sensorSet_keeps (j : ℕ) (x : Sensor) {s : State} (hT : within [.comp, .therm] T = true)
    (h : Keeps T s0 s) : Keeps T s0 (sensorSet j x s) := by
  unfold sensorSet
  repeat' (first | with_reducible assumption | exact within_trans rfl hT | with_reducible apply settleTokens_keeps | with_reducible apply Keeps.foldl | intro _ | dsimp only | split | ((fail_if_no_progress (with_reducible apply keeps_mk)); rotate_left; · (intro x hx; cases x <;> first | exact absurd (within_mem hT rfl) hx | exact rfl | exact ⟨rfl, rfl, rfl, rfl, rfl, rfl⟩)))

theorem spendTokens_keeps (p : ℕ) (cost : ℕ) {s : State} (hT : within [.comp] T = true)
    (h : Keeps T s0 s) : Keeps T s0 (spendTokens p cost s) := by
  unfold spendTokens
  repeat' (first | with_reducible assumption | exact within_trans rfl hT | with_reducible apply clusterSet_keeps | with_reducible apply Keeps.foldl | intro _ | dsimp only | split)

theorem gateCluster_keeps (p : ℕ) {s : State} (hT : within [.counts, .comp] T = true)
    (h : Keeps T s0 s) : Keeps T s0 (gateCluster p s) := by
  unfold gateCluster
  repeat' (first | with_reducible assumption | exact within_trans rfl hT | with_reducible apply clusterSet_keeps | with_reducible apply countCore_keeps | with_reducible apply Keeps.foldl | intro _ | dsimp only | split)

theorem stopGate_keeps (p : ℕ) {s : State} (hT : within [.counts, .comp] T = true)
    (h : Keeps T s0 s) : Keeps T s0 (stopGate p s) := by
  unfold stopGate
  repeat' (first | with_reducible assumption | exact within_trans rfl hT | with_reducible apply gateCluster_keeps | with_reducible apply Keeps.foldl | intro _ | dsimp only | split)

theorem wakeCluster_keeps (p : ℕ) {s : State} (hT : within [.counts, .comp] T = true)
    (h : Keeps T s0 s) : Keeps T s0 (wakeCluster p s) := by
  unfold wakeCluster
  repeat' (first | with_reducible assumption | exact within_trans rfl hT | with_reducible apply clusterSet_keeps | with_reducible apply Keeps.foldl | intro _ | dsimp only | split | ((fail_if_no_progress (with_reducible apply keeps_mk)); rotate_left; · (intro x hx; cases x <;> first | exact absurd (within_mem hT rfl) hx | exact rfl | exact ⟨rfl, rfl, rfl, rfl, rfl, rfl⟩)))

theorem takeResumed_keeps (p : ℕ) {s : State} (hT : within [.comp] T = true)
    (h : Keeps T s0 s) : Keeps T s0 (takeResumed p s).2 := by
  unfold takeResumed
  repeat' (first | with_reducible assumption | exact within_trans rfl hT | with_reducible apply clusterSet_keeps | with_reducible apply Keeps.foldl | with_reducible apply Keeps.foldlSnd | intro _ | dsimp only | split)

theorem reportFrom_keeps (p : ℕ) (e : FaultInput) {s : State} (hT : within [.boot, .dev, .faults, .db, .ports, .cmds, .graphs, .comp, .cairn, .out] T = true)
    (h : Keeps T s0 s) : Keeps T s0 (reportFrom p e s) := by
  unfold reportFrom
  repeat' (first | with_reducible assumption | exact within_trans rfl hT | with_reducible apply takeResumed_keeps | with_reducible apply report_keeps | with_reducible apply Keeps.foldl | with_reducible apply Keeps.foldlSnd | intro _ | dsimp only | split)

theorem mapRunning_keeps (f : Graph → Execution → Execution) {s : State} (hT : within [.graphs] T = true)
    (h : Keeps T s0 s) : Keeps T s0 (mapRunning f s) := by
  unfold mapRunning
  repeat' (first | with_reducible assumption | with_reducible apply Keeps.foldl | intro _ | dsimp only | split | ((fail_if_no_progress (with_reducible apply keeps_mk)); rotate_left; · (intro x hx; cases x <;> first | exact absurd (within_mem hT rfl) hx | exact rfl | exact ⟨rfl, rfl, rfl, rfl, rfl, rfl⟩)))

theorem dropCore_keeps (p : ℕ) (c : ℕ) {s : State} (hT : within [.comp] T = true)
    (h : Keeps T s0 s) : Keeps T s0 (dropCore p c s) := by
  unfold dropCore
  repeat' (first | with_reducible assumption | exact within_trans rfl hT | with_reducible apply coreSet_keeps | with_reducible apply clusterSet_keeps | with_reducible apply Keeps.foldl | intro _ | dsimp only | split)

theorem dropCluster_keeps (p : ℕ) {s : State} (hT : within [.graphs, .comp] T = true)
    (h : Keeps T s0 s) : Keeps T s0 (dropCluster p s) := by
  unfold dropCluster
  repeat' (first | with_reducible assumption | exact within_trans rfl hT | with_reducible apply clusterSet_keeps | with_reducible apply coreSet_keeps | with_reducible apply mapRunning_keeps | with_reducible apply Keeps.foldl | intro _ | dsimp only | split | ((fail_if_no_progress (with_reducible apply keeps_mk)); rotate_left; · (intro x hx; cases x <;> first | exact absurd (within_mem hT rfl) hx | exact rfl | exact ⟨rfl, rfl, rfl, rfl, rfl, rfl⟩)))

theorem fenceCluster_keeps (p : ℕ) {s : State} (hT : within [.dev, .db, .ports, .cmds, .graphs, .comp, .out] T = true)
    (h : Keeps T s0 s) : Keeps T s0 (fenceCluster p s) := by
  unfold fenceCluster
  repeat' (first | with_reducible assumption | exact within_trans rfl hT | with_reducible apply refreshDegraded_keeps | with_reducible apply dropCluster_keeps | with_reducible apply Keeps.foldl | intro _ | dsimp only | split | ((fail_if_no_progress (with_reducible apply keeps_mk)); rotate_left; · (intro x hx; cases x <;> first | exact absurd (within_mem hT rfl) hx | exact rfl | exact ⟨rfl, rfl, rfl, rfl, rfl, rfl⟩)))

theorem failClusterWith_keeps (p : ℕ) (syn : ℕ) {s : State} (hT : within [.boot, .dev, .faults, .db, .ports, .cmds, .graphs, .counts, .comp, .cairn, .out] T = true)
    (h : Keeps T s0 s) : Keeps T s0 (failClusterWith p syn s) := by
  unfold failClusterWith
  repeat' (first | with_reducible assumption | exact within_trans rfl hT | with_reducible apply fenceCluster_keeps | with_reducible apply reportFrom_keeps | with_reducible apply wakeCluster_keeps | with_reducible apply Keeps.foldl | intro _ | dsimp only | split)

theorem failCluster_keeps (p : ℕ) {s : State} (hT : within [.boot, .dev, .faults, .db, .ports, .cmds, .graphs, .counts, .comp, .cairn, .out, .free] T = true)
    (h : Keeps T s0 s) : Keeps T s0 (failCluster p s) := by
  unfold failCluster
  repeat' (first | with_reducible assumption | exact within_trans rfl hT | with_reducible apply useFree_keeps | with_reducible apply failClusterWith_keeps | with_reducible apply Keeps.foldl | with_reducible apply Keeps.foldlSnd | intro _ | dsimp only | split)

theorem fenceCore_keeps (p : ℕ) (c : ℕ) {s : State} (hT : within [.boot, .dev, .faults, .db, .ports, .cmds, .graphs, .counts, .comp, .cairn, .out, .free] T = true)
    (h : Keeps T s0 s) : Keeps T s0 (fenceCore p c s) := by
  unfold fenceCore
  repeat' (first | with_reducible assumption | exact within_trans rfl hT | with_reducible apply dropCore_keeps | with_reducible apply failCluster_keeps | with_reducible apply Keeps.foldl | intro _ | dsimp only | split)

theorem bindSpare_keeps (e : ℕ) {s : State} (hT : within [.comp] T = true)
    (h : Keeps T s0 s) : Keeps T s0 (bindSpare e s) := by
  unfold bindSpare
  repeat' (first | with_reducible assumption | with_reducible apply Keeps.foldl | intro _ | dsimp only | split | ((fail_if_no_progress (with_reducible apply keeps_mk)); rotate_left; · (intro x hx; cases x <;> first | exact absurd (within_mem hT rfl) hx | exact rfl | exact ⟨rfl, rfl, rfl, rfl, rfl, rfl⟩)))

end Sys2Proof.Machine
end

