-- ==== Sys2Proof/Laws/Fabric.lean ====
section
/-!
SUPPORT. One lemma for each shared operation of Machine/Fabric.lean: what it keeps of whatever state it is applied to.
The list in a lemma names the areas the operation may change.
-/

set_option linter.unusedTactic false
set_option linter.unreachableTactic false
set_option linter.unusedVariables false

namespace Sys2Proof.Machine

variable {T : List Area} {s0 : State}

theorem forcedFlit_keeps (srcs : List ℕ) (f : Flit) {s : State} (hT : within [.faults] T = true)
    (h : Keeps T s0 s) : Keeps T s0 (forcedFlit srcs f s).2 := by
  unfold forcedFlit
  repeat' (first | with_reducible assumption | exact within_trans rfl hT | with_reducible apply forcedDone_keeps | with_reducible apply Keeps.foldl | with_reducible apply Keeps.foldlSnd | intro _ | dsimp only | split)

theorem placeFlit_keeps (n : ℕ) (f0 : Flit) {s : State} (hT : within [.faults, .counts, .links, .out] T = true)
    (h : Keeps T s0 s) : Keeps T s0 (placeFlit n f0 s) := by
  unfold placeFlit
  repeat' (first | with_reducible assumption | exact within_trans rfl hT | with_reducible apply forcedFlit_keeps | with_reducible apply linkSet_keeps | with_reducible apply emit_keeps | with_reducible apply countLink_keeps | with_reducible apply Keeps.foldl | with_reducible apply Keeps.foldlSnd | intro _ | dsimp only | split)

theorem sendIdleAck_keeps (n : ℕ) {s : State} (hT : within [.faults, .counts, .links, .out] T = true)
    (h : Keeps T s0 s) : Keeps T s0 (sendIdleAck n s) := by
  unfold sendIdleAck
  repeat' (first | with_reducible assumption | exact within_trans rfl hT | with_reducible apply placeFlit_keeps | with_reducible apply Keeps.foldl | intro _ | dsimp only | split)

theorem outSet_keeps (g : ℕ) (v : ℕ) (q : List Flit) {s : State} (hT : within [.fab] T = true)
    (h : Keeps T s0 s) : Keeps T s0 (outSet g v q s) := by
  unfold outSet
  repeat' (first | with_reducible assumption | with_reducible apply Keeps.foldl | intro _ | dsimp only | split | ((fail_if_no_progress (with_reducible apply keeps_mk)); rotate_left; · (intro x hx; cases x <;> first | exact absurd (within_mem hT rfl) hx | exact rfl | exact ⟨rfl, rfl, rfl, rfl, rfl, rfl⟩)))

theorem outPump_keeps (g v k : Nat) {s : State} (hT : within [.faults, .counts, .links, .fab, .out] T = true)
    (h : Keeps T s0 s) : Keeps T s0 (outPump g v k s) := by
  induction k generalizing s with
  | zero => exact h
  | succ k ih =>
    unfold outPump
    split
    · split
      · exact ih (placeFlit_keeps _ _ (within_trans rfl hT) (outSet_keeps _ _ _ (within_trans rfl hT) (keeps_mk h (by intro x hx; cases x <;> first | exact absurd (within_mem hT rfl) hx | exact rfl | exact ⟨rfl, rfl, rfl, rfl, rfl, rfl⟩))))
      · exact h
    · exact h

theorem groupPump_keeps (g : ℕ) {s : State} (hT : within [.faults, .counts, .links, .fab, .out] T = true)
    (h : Keeps T s0 s) : Keeps T s0 (groupPump g s) := by
  unfold groupPump
  repeat' (first | with_reducible assumption | exact within_trans rfl hT | with_reducible apply outPump_keeps | with_reducible apply Keeps.foldl | intro _ | dsimp only | split)

theorem fabCount_keeps (i : ℕ) {s : State} (hT : within [.fab] T = true)
    (h : Keeps T s0 s) : Keeps T s0 (fabCount i s) := by
  unfold fabCount
  repeat' (first | with_reducible assumption | with_reducible apply Keeps.foldl | intro _ | dsimp only | split | ((fail_if_no_progress (with_reducible apply keeps_mk)); rotate_left; · (intro x hx; cases x <;> first | exact absurd (within_mem hT rfl) hx | exact rfl | exact ⟨rfl, rfl, rfl, rfl, rfl, rfl⟩)))

theorem routeFlit_gone {ring : Option Nat} {f : Flit} {s t : State} (hr : routeFlit ring f s = .gone t)
    (hT : within [.boot, .dev, .faults, .db, .ports, .cmds, .graphs, .counts, .cairn, .links, .fab, .out, .free] T = true) (h : Keeps T s0 s) : Keeps T s0 t := by
  unfold routeFlit at hr
  split at hr
  · cases hr
  · cases hr
  · cases hr
    exact faultDOpen_keeps _ (within_trans rfl hT) (fabCount_keeps _ (within_trans rfl hT) h)
  · dsimp only at hr
    by_cases hv : 4 ≤ flitVc f
    all_goals
      simp only [hv, if_true, if_false] at hr
      repeat' split at hr
      all_goals first
        | (injection hr with hr; subst hr; exact groupPump_keeps _ (within_trans rfl hT) (outSet_keeps _ _ _ (within_trans rfl hT) (keeps_mk h (by intro x hx; cases x <;> first | exact absurd (within_mem hT rfl) hx | exact rfl | exact ⟨rfl, rfl, rfl, rfl, rfl, rfl⟩))))
        | cases hr

theorem routeFlit_refused {ring : Option Nat} {f : Flit} {s t : State} (hr : routeFlit ring f s = .refused t)
    (hT : within [.boot, .dev, .faults, .db, .ports, .cmds, .graphs, .counts, .cairn, .links, .fab, .out, .free] T = true) (h : Keeps T s0 s) : Keeps T s0 t := by
  unfold routeFlit at hr
  split at hr
  · cases hr
  · cases hr
    exact fabCount_keeps _ (within_trans rfl hT) h
  · cases hr
  · dsimp only at hr
    repeat' split at hr
    all_goals cases hr

theorem launch_keeps (f : Flit) {s : State} (hT : within [.boot, .dev, .faults, .db, .ports, .cmds, .graphs, .counts, .cairn, .links, .fab, .out, .free] T = true)
    (h : Keeps T s0 s) : Keeps T s0 (launch f s) := by
  unfold launch
  split
  · exact routeFlit_gone (by assumption) (within_trans rfl hT) h
  · exact routeFlit_refused (by assumption) (within_trans rfl hT) h
  · exact h
  · exact keeps_mk h (by intro x hx; cases x <;> first | exact absurd (within_mem hT rfl) hx | exact rfl | exact ⟨rfl, rfl, rfl, rfl, rfl, rfl⟩)

theorem askCredit_keeps (pkg : ℕ) (vc : ℕ) {s : State} (hT : within [.boot, .dev, .faults, .db, .ports, .cmds, .graphs, .counts, .comp, .cairn, .links, .fab, .out, .free] T = true)
    (h : Keeps T s0 s) : Keeps T s0 (askCredit pkg vc s) := by
  unfold askCredit
  repeat' (first | with_reducible assumption | exact within_trans rfl hT | with_reducible apply launch_keeps | with_reducible apply Keeps.foldl | intro _ | dsimp only | split | ((fail_if_no_progress (with_reducible apply keeps_mk)); rotate_left; · (intro x hx; cases x <;> first | exact absurd (within_mem hT rfl) hx | exact rfl | exact ⟨rfl, rfl, rfl, rfl, rfl, rfl⟩)))

theorem spendCredit_keeps (pkg : ℕ) (vc : ℕ) {s : State} (hT : within [.fab] T = true)
    (h : Keeps T s0 s) : Keeps T s0 (spendCredit pkg vc s) := by
  unfold spendCredit
  repeat' (first | with_reducible assumption | with_reducible apply Keeps.foldl | intro _ | dsimp only | split | ((fail_if_no_progress (with_reducible apply keeps_mk)); rotate_left; · (intro x hx; cases x <;> first | exact absurd (within_mem hT rfl) hx | exact rfl | exact ⟨rfl, rfl, rfl, rfl, rfl, rfl⟩)))

theorem sendFlit_keeps (f : Flit) {s : State} (hT : within [.boot, .dev, .faults, .db, .ports, .cmds, .graphs, .counts, .comp, .cairn, .links, .fab, .out, .free] T = true)
    (h : Keeps T s0 s) : Keeps T s0 (sendFlit f s) := by
  unfold sendFlit
  repeat' (first | with_reducible assumption | exact within_trans rfl hT | with_reducible apply launch_keeps | with_reducible apply spendCredit_keeps | with_reducible apply askCredit_keeps | with_reducible apply Keeps.foldl | intro _ | dsimp only | split | ((fail_if_no_progress (with_reducible apply keeps_mk)); rotate_left; · (intro x hx; cases x <;> first | exact absurd (within_mem hT rfl) hx | exact rfl | exact ⟨rfl, rfl, rfl, rfl, rfl, rfl⟩)))

theorem retryWaiting_keeps {s : State} (hT : within [.boot, .dev, .faults, .db, .ports, .cmds, .graphs, .counts, .comp, .cairn, .links, .fab, .out, .free] T = true)
    (h : Keeps T s0 s) : Keeps T s0 (retryWaiting s) := by
  unfold retryWaiting
  repeat' (first | with_reducible assumption | exact within_trans rfl hT | with_reducible apply sendFlit_keeps | with_reducible apply Keeps.foldl | intro _ | dsimp only | split | ((fail_if_no_progress (with_reducible apply keeps_mk)); rotate_left; · (intro x hx; cases x <;> first | exact absurd (within_mem hT rfl) hx | exact rfl | exact ⟨rfl, rfl, rfl, rfl, rfl, rfl⟩)))

theorem sendReq_keeps (r : FabReq) (f : Flit) {s : State} (hT : within [.boot, .dev, .faults, .db, .ports, .cmds, .graphs, .counts, .comp, .cairn, .links, .fab, .out, .free] T = true)
    (h : Keeps T s0 s) : Keeps T s0 (sendReq r f s) := by
  unfold sendReq
  repeat' (first | with_reducible assumption | exact within_trans rfl hT | with_reducible apply sendFlit_keeps | with_reducible apply Keeps.foldl | intro _ | dsimp only | split | ((fail_if_no_progress (with_reducible apply keeps_mk)); rotate_left; · (intro x hx; cases x <;> first | exact absurd (within_mem hT rfl) hx | exact rfl | exact ⟨rfl, rfl, rfl, rfl, rfl, rfl⟩)))

theorem sendSys_keeps (pkg : ℕ) (purpose : ℕ) (slot : ℕ) (payload : List Byte) {s : State} (hT : within [.boot, .dev, .faults, .db, .ports, .cmds, .graphs, .counts, .comp, .cairn, .links, .fab, .out, .free] T = true)
    (h : Keeps T s0 s) : Keeps T s0 (sendSys pkg purpose slot payload s) := by
  unfold sendSys
  repeat' (first | with_reducible assumption | exact within_trans rfl hT | with_reducible apply sendReq_keeps | with_reducible apply Keeps.foldl | intro _ | dsimp only | split | ((fail_if_no_progress (with_reducible apply keeps_mk)); rotate_left; · (intro x hx; cases x <;> first | exact absurd (within_mem hT rfl) hx | exact rfl | exact ⟨rfl, rfl, rfl, rfl, rfl, rfl⟩)))

theorem fabricRetry_keeps {s : State} (hT : within [.boot, .dev, .faults, .db, .ports, .cmds, .graphs, .counts, .comp, .cairn, .links, .fab, .out, .free] T = true)
    (h : Keeps T s0 s) : Keeps T s0 (fabricRetry s) := by
  unfold fabricRetry
  repeat' (first | with_reducible assumption | exact within_trans rfl hT | with_reducible apply launch_keeps | with_reducible apply retryWaiting_keeps | with_reducible apply Keeps.foldl | intro _ | dsimp only | split | ((fail_if_no_progress (with_reducible apply keeps_mk)); rotate_left; · (intro x hx; cases x <;> first | exact absurd (within_mem hT rfl) hx | exact rfl | exact ⟨rfl, rfl, rfl, rfl, rfl, rfl⟩)))

theorem respond_keeps (type : ℕ) (pkg : ℕ) (tag : BitVec 32) (st : Status) (poison : Bool) (data : List Byte) {s : State} (hT : within [.boot, .dev, .faults, .db, .ports, .cmds, .graphs, .counts, .cairn, .links, .fab, .out, .free] T = true)
    (h : Keeps T s0 s) : Keeps T s0 (respond type pkg tag st poison data s) := by
  unfold respond
  repeat' (first | with_reducible assumption | exact within_trans rfl hT | with_reducible apply launch_keeps | with_reducible apply Keeps.foldl | intro _ | dsimp only | split)

theorem transfer_keeps (n : ℕ) (fs : List Flit) {s : State} (hT : within [.faults, .counts, .links, .out] T = true)
    (h : Keeps T s0 s) : Keeps T s0 (transfer n fs s) := by
  unfold transfer
  repeat' (first | with_reducible assumption | exact within_trans rfl hT | with_reducible apply countLink_keeps | with_reducible apply placeFlit_keeps | with_reducible apply Keeps.foldl | intro _ | dsimp only | split)

theorem groupRestart_keeps (g : ℕ) {s : State} (hT : within [.fab] T = true)
    (h : Keeps T s0 s) : Keeps T s0 (groupRestart g s) := by
  unfold groupRestart
  repeat' (first | with_reducible assumption | with_reducible apply Keeps.foldl | intro _ | dsimp only | split | ((fail_if_no_progress (with_reducible apply keeps_mk)); rotate_left; · (intro x hx; cases x <;> first | exact absurd (within_mem hT rfl) hx | exact rfl | exact ⟨rfl, rfl, rfl, rfl, rfl, rfl⟩)))

theorem groupEscape_keeps (g : ℕ) {s : State} (hT : within [.boot, .dev, .faults, .db, .ports, .cmds, .graphs, .counts, .cairn, .links, .fab, .out, .free] T = true)
    (h : Keeps T s0 s) : Keeps T s0 (groupEscape g s) := by
  unfold groupEscape
  repeat' (first | with_reducible assumption | exact within_trans rfl hT | with_reducible apply launch_keeps | with_reducible apply outSet_keeps | with_reducible apply Keeps.foldl | intro _ | dsimp only | split)

theorem linkLeaves_keeps (n : ℕ) {s : State} (hT : within [.boot, .dev, .faults, .db, .ports, .cmds, .graphs, .counts, .cairn, .links, .fab, .out, .free] T = true)
    (h : Keeps T s0 s) : Keeps T s0 (linkLeaves n s) := by
  unfold linkLeaves
  repeat' (first | with_reducible assumption | exact within_trans rfl hT | with_reducible apply linkSet_keeps | with_reducible apply refreshDegraded_keeps | with_reducible apply transfer_keeps | with_reducible apply groupEscape_keeps | with_reducible apply groupRestart_keeps | with_reducible apply Keeps.foldl | intro _ | dsimp only | split)

end Sys2Proof.Machine
end

