-- ==== Sys2Proof/Laws/Engines.lean ====
section
/-!
SUPPORT. One lemma for each shared operation of Machine/Engines.lean: what it keeps of whatever state it is applied to.
The list in a lemma names the areas the operation may change.
-/

set_option linter.unusedTactic false
set_option linter.unreachableTactic false
set_option linter.unusedVariables false

namespace Sys2Proof.Machine

variable {T : List Area} {s0 : State}

theorem Eff.warns_keeps (w : BitVec 32) {ef : Eff} (hT : within [] T = true)
    (h : Keeps T s0 ef.s) : Keeps T s0 (Eff.warns ef w).s := by
  unfold Eff.warns
  repeat' (first | with_reducible assumption | with_reducible apply Keeps.foldl | with_reducible apply Keeps.foldlSnd | with_reducible apply Keeps.foldlEff | intro _ | dsimp only | split)

theorem Eff.taint_keeps (i : Bool) (o : Bool) {ef : Eff} (hT : within [] T = true)
    (h : Keeps T s0 ef.s) : Keeps T s0 (Eff.taint ef i o).s := by
  unfold Eff.taint
  repeat' (first | with_reducible assumption | with_reducible apply Keeps.foldl | with_reducible apply Keeps.foldlSnd | with_reducible apply Keeps.foldlEff | intro _ | dsimp only | split)

theorem storeBytes_keeps (p : ℕ) (c : ℕ) (a : ℕ) (bs : List Byte) {s : State} (hT : within [.bytes] T = true)
    (h : Keeps T s0 s) : Keeps T s0 (storeBytes p c a bs s) := by
  unfold storeBytes
  repeat' (first | with_reducible assumption | exact within_trans rfl hT | with_reducible apply lsWrite_keeps | with_reducible apply Keeps.foldl | intro _ | dsimp only | split)

theorem storeTaint_keeps (p : ℕ) (c : ℕ) (a : ℕ) (n : ℕ) {s : State} (hT : within [.bytes] T = true)
    (h : Keeps T s0 s) : Keeps T s0 (storeTaint p c a n s) := by
  unfold storeTaint
  repeat' (first | with_reducible assumption | exact within_trans rfl hT | with_reducible apply lsTaint_keeps | with_reducible apply Keeps.foldl | intro _ | dsimp only | split)

theorem storeElts_keeps (p : ℕ) (c : ℕ) (a : ℕ) (f : Fmt) (codes : List (ℕ × Bool)) {s : State} (hT : within [.bytes] T = true)
    (h : Keeps T s0 s) : Keeps T s0 (storeElts p c a f codes s) := by
  unfold storeElts
  repeat' (first | with_reducible assumption | exact within_trans rfl hT | with_reducible apply storeBytes_keeps | with_reducible apply storeTaint_keeps | with_reducible apply Keeps.foldl | intro _ | dsimp only | split)

theorem accPut_keeps (p : ℕ) (c : ℕ) (k : ℕ) (v : BitVec 32) (bad : Bool) {s : State} (hT : within [.comp] T = true)
    (h : Keeps T s0 s) : Keeps T s0 (accPut p c k v bad s) := by
  unfold accPut
  repeat' (first | with_reducible assumption | exact within_trans rfl hT | with_reducible apply coreSet_keeps | with_reducible apply Keeps.foldl | intro _ | dsimp only | split)

theorem tProduct_keeps (p : ℕ) (c : ℕ) (minus : Bool) (fa : Fmt) (fb : Fmt) (k : ℕ) (a : ℕ) (b : ℕ) (sa : ℕ) (sb : ℕ) (tile : ℕ) (init : Option (ℕ × Fmt)) {s : State} (hT : within [.comp] T = true)
    (h : Keeps T s0 s) : Keeps T s0 (tProduct p c minus fa fb k a b sa sb tile init s).s := by
  unfold tProduct
  repeat' (first | with_reducible assumption | exact within_trans rfl hT | with_reducible apply Eff.taint_keeps | with_reducible apply accPut_keeps | with_reducible apply Keeps.foldl | with_reducible apply Keeps.foldlSnd | with_reducible apply Keeps.foldlEff | intro _ | dsimp only | split)

theorem tMac_keeps (p : ℕ) (c : ℕ) (fa : Fmt) (fb : Fmt) (k : ℕ) (a : ℕ) (b : ℕ) (sa : ℕ) (sb : ℕ) (tile : ℕ) (init : Option (ℕ × Fmt)) {s : State} (hT : within [.comp] T = true)
    (h : Keeps T s0 s) : Keeps T s0 (tMac p c fa fb k a b sa sb tile init s).s := by
  unfold tMac
  repeat' (first | with_reducible assumption | exact within_trans rfl hT | with_reducible apply tProduct_keeps | with_reducible apply Keeps.foldl | with_reducible apply Keeps.foldlSnd | with_reducible apply Keeps.foldlEff | intro _ | dsimp only | split)

theorem Eff.andThen_keeps {f : State → Eff} {ef : Eff} (h : Keeps T s0 ef.s)
    (hf : ∀ t, Keeps T s0 t → Keeps T s0 (f t).s) : Keeps T s0 (Eff.andThen ef f).s := hf _ h

theorem tComplex_keeps (p : ℕ) (c : ℕ) (fa : Fmt) (fb : Fmt) (k : ℕ) (ar : ℕ) (ai : ℕ) (br : ℕ) (bi : ℕ) (sar : ℕ) (sai : ℕ) (sbr : ℕ) (sbi : ℕ) (tile : ℕ) (conj : Bool) {s : State} (hT : within [.comp] T = true)
    (h : Keeps T s0 s) : Keeps T s0 (tComplex p c fa fb k ar ai br bi sar sai sbr sbi tile conj s).s := by
  unfold tComplex
  exact Eff.andThen_keeps (Eff.andThen_keeps (Eff.andThen_keeps (tProduct_keeps _ _ _ _ _ _ _ _ _ _ _ _ (within_trans rfl hT) h)
    fun t ht => tProduct_keeps _ _ _ _ _ _ _ _ _ _ _ _ (within_trans rfl hT) ht) fun t ht => tProduct_keeps _ _ _ _ _ _ _ _ _ _ _ _ (within_trans rfl hT) ht)
    fun t ht => tProduct_keeps _ _ _ _ _ _ _ _ _ _ _ _ (within_trans rfl hT) ht

theorem tStore_keeps (p : ℕ) (c : ℕ) (tile : ℕ) (dst : ℕ) {s : State} (hT : within [.bytes] T = true)
    (h : Keeps T s0 s) : Keeps T s0 (tStore p c tile dst s).s := by
  unfold tStore
  repeat' (first | with_reducible assumption | exact within_trans rfl hT | with_reducible apply Eff.taint_keeps | with_reducible apply storeElts_keeps | with_reducible apply Keeps.foldl | with_reducible apply Keeps.foldlSnd | with_reducible apply Keeps.foldlEff | intro _ | dsimp only | split)

theorem vPlain_keeps (p : ℕ) (c : ℕ) (d : VDst) (xs : List (Num × Bool)) (free : ℕ) {ef : Eff} (hT : within [.bytes] T = true)
    (h : Keeps T s0 ef.s) : Keeps T s0 (vPlain p c d xs free ef).s := by
  unfold vPlain
  repeat' (first | with_reducible assumption | exact within_trans rfl hT | with_reducible apply storeElts_keeps | with_reducible apply Eff.taint_keeps | with_reducible apply Eff.warns_keeps | with_reducible apply Keeps.foldl | with_reducible apply Keeps.foldlSnd | with_reducible apply Keeps.foldlEff | intro _ | dsimp only | split)

theorem vBlock_keeps (p : ℕ) (c : ℕ) (d : VDst) (b : ℕ) (xs : List (Num × Bool)) (free : ℕ) {ef : Eff} (hT : within [.bytes] T = true)
    (h : Keeps T s0 ef.s) : Keeps T s0 (vBlock p c d b xs free ef).s := by
  unfold vBlock
  repeat' (first | with_reducible assumption | exact within_trans rfl hT | with_reducible apply storeElts_keeps | with_reducible apply storeBytes_keeps | with_reducible apply Eff.taint_keeps | with_reducible apply Eff.warns_keeps | with_reducible apply storeTaint_keeps | with_reducible apply Keeps.foldl | with_reducible apply Keeps.foldlSnd | with_reducible apply Keeps.foldlEff | intro _ | dsimp only | split)

theorem vOut_keeps (p : ℕ) (c : ℕ) (d : VDst) (xs : List (Num × Bool)) {ef : Eff} (hT : within [.bytes, .free] T = true)
    (h : Keeps T s0 ef.s) : Keeps T s0 (vOut p c d xs ef).s := by
  unfold vOut
  repeat' (first | with_reducible assumption | exact within_trans rfl hT | with_reducible apply vBlock_keeps | with_reducible apply vPlain_keeps | with_reducible apply Keeps.foldl | with_reducible apply Keeps.foldlSnd | with_reducible apply Keeps.foldlEff | intro _ | dsimp only | split | ((fail_if_no_progress (with_reducible apply keeps_mk)); rotate_left; · (intro x hx; cases x <;> first | exact absurd (within_mem hT rfl) hx | exact rfl | exact ⟨rfl, rfl, rfl, rfl, rfl, rfl⟩)))

theorem vecOp_keeps (p : ℕ) (c : ℕ) (fn : VFn) (srcs : List VSrc) (d : VDst) (n : ℕ) {s : State} (hT : within [.bytes, .free] T = true)
    (h : Keeps T s0 s) : Keeps T s0 (vecOp p c fn srcs d n s).s := by
  unfold vecOp
  repeat' (first | with_reducible assumption | exact within_trans rfl hT | with_reducible apply Eff.taint_keeps | with_reducible apply vOut_keeps | with_reducible apply Eff.warns_keeps | with_reducible apply Keeps.foldl | with_reducible apply Keeps.foldlSnd | with_reducible apply Keeps.foldlEff | intro _ | dsimp only | split | ((fail_if_no_progress (with_reducible apply keeps_mk)); rotate_left; · (intro x hx; cases x <;> first | exact absurd (within_mem hT rfl) hx | exact rfl | exact ⟨rfl, rfl, rfl, rfl, rfl, rfl⟩)))

theorem butterflyOp_keeps (p : ℕ) (c : ℕ) (re : ℕ) (im : ℕ) (wre : ℕ) (wim : ℕ) (ore : ℕ) (oim : ℕ) (inverse : Bool) {s : State} (hT : within [.bytes] T = true)
    (h : Keeps T s0 s) : Keeps T s0 (butterflyOp p c re im wre wim ore oim inverse s).s := by
  unfold butterflyOp
  repeat' (first | with_reducible assumption | exact within_trans rfl hT | with_reducible apply Eff.taint_keeps | with_reducible apply storeElts_keeps | with_reducible apply Keeps.foldl | with_reducible apply Keeps.foldlSnd | with_reducible apply Keeps.foldlEff | intro _ | dsimp only | split)

theorem pRunAll_keeps (p : ℕ) (c : ℕ) (slot : ℕ) (w : ℕ) (sg : Bool) (g : ℕ) (windows : ℕ) (input : ℕ) (infmt : Fmt) (stride : ℕ) (sxAt : ℕ) (out : ℕ) (outfmt : Fmt) {s : State} (hT : within [.bytes, .free] T = true)
    (h : Keeps T s0 s) : Keeps T s0 (pRunAll p c slot w sg g windows input infmt stride sxAt out outfmt s).s := by
  unfold pRunAll
  repeat' (first | with_reducible assumption | exact within_trans rfl hT | with_reducible apply storeElts_keeps | with_reducible apply Eff.taint_keeps | with_reducible apply Eff.warns_keeps | with_reducible apply Keeps.foldl | with_reducible apply Keeps.foldlSnd | with_reducible apply Keeps.foldlEff | intro _ | dsimp only | split | ((fail_if_no_progress (with_reducible apply keeps_mk)); rotate_left; · (intro x hx; cases x <;> first | exact absurd (within_mem hT rfl) hx | exact rfl | exact ⟨rfl, rfl, rfl, rfl, rfl, rfl⟩)))

theorem countWrites_keeps (a : ℕ) (n : ℕ) {s : State} (hT : within [.counts] T = true)
    (h : Keeps T s0 s) : Keeps T s0 (countWrites a n s) := by
  unfold countWrites
  repeat' (first | with_reducible assumption | exact within_trans rfl hT | with_reducible apply countStack_keeps | with_reducible apply Keeps.foldl | intro _ | dsimp only | split)

theorem locWrite_keeps (p : ℕ) (c : ℕ) (l : Loc) (bs : List (Byte × Bool)) {s : State} (hT : within [.bytes, .memCtl, .counts] T = true)
    (h : Keeps T s0 s) : Keeps T s0 (locWrite p c l bs s) := by
  unfold locWrite
  repeat' (first | with_reducible assumption | exact within_trans rfl hT | with_reducible apply storeTaint_keeps | with_reducible apply storeBytes_keeps | with_reducible apply cmTaint_keeps | with_reducible apply cmWrite_keeps | with_reducible apply dramTaint_keeps | with_reducible apply countWrites_keeps | with_reducible apply dramWriteBytes_keeps | with_reducible apply lsTaint_keeps | with_reducible apply lsWrite_keeps | with_reducible apply Keeps.foldl | intro _ | dsimp only | split)

theorem countRead_keeps (p : ℕ) (n : ℕ) (l : Loc) {s : State} (hT : within [.counts] T = true)
    (h : Keeps T s0 s) : Keeps T s0 (countRead p n l s) := by
  unfold countRead
  repeat' (first | with_reducible assumption | exact within_trans rfl hT | with_reducible apply countCluster_keeps | with_reducible apply Keeps.foldl | intro _ | dsimp only | split)

theorem countPeer_keeps (p : ℕ) (n : ℕ) (ctr : ℕ) (link : Option ℕ) {s : State} (hT : within [.counts] T = true)
    (h : Keeps T s0 s) : Keeps T s0 (countPeer p n ctr link s) := by
  unfold countPeer
  repeat' (first | with_reducible assumption | exact within_trans rfl hT | with_reducible apply countCluster_keeps | with_reducible apply Keeps.foldl | intro _ | dsimp only | split)

theorem countWrite_keeps (p : ℕ) (n : ℕ) (l : Loc) {s : State} (hT : within [.counts] T = true)
    (h : Keeps T s0 s) : Keeps T s0 (countWrite p n l s) := by
  unfold countWrite
  repeat' (first | with_reducible assumption | exact within_trans rfl hT | with_reducible apply countCluster_keeps | with_reducible apply Keeps.foldl | intro _ | dsimp only | split)

theorem addMReq_keeps (p : ℕ) (c : ℕ) (r : MReq) {s : State} (hT : within [.comp] T = true)
    (h : Keeps T s0 s) : Keeps T s0 (addMReq p c r s) := by
  unfold addMReq
  repeat' (first | with_reducible assumption | exact within_trans rfl hT | with_reducible apply engSet_keeps | with_reducible apply Keeps.foldl | intro _ | dsimp only | split)

theorem peerWrites_keeps (p : ℕ) (c : ℕ) (g : ℕ) (a : ℕ) (bs : List (Byte × Bool)) {s : State} (hT : within [.boot, .dev, .faults, .db, .ports, .cmds, .graphs, .counts, .comp, .cairn, .links, .fab, .out, .free] T = true)
    (h : Keeps T s0 s) : Keeps T s0 (peerWrites p c g a bs s) := by
  unfold peerWrites
  repeat' (first | with_reducible assumption | exact within_trans rfl hT | with_reducible apply sendReq_keeps | with_reducible apply countPeer_keeps | with_reducible apply addMReq_keeps | with_reducible apply Keeps.foldl | intro _ | dsimp only | split)

theorem fwPeerWrites_keeps (g : ℕ) (a : ℕ) (bs : List (Byte × Bool)) {s : State} (hT : within [.boot, .dev, .faults, .db, .ports, .cmds, .graphs, .counts, .comp, .cairn, .links, .fab, .out, .free] T = true)
    (h : Keeps T s0 s) : Keeps T s0 (fwPeerWrites g a bs s) := by
  unfold fwPeerWrites
  repeat' (first | with_reducible assumption | exact within_trans rfl hT | with_reducible apply sendReq_keeps | with_reducible apply Keeps.foldl | intro _ | dsimp only | split)

theorem peerReads_keeps (p : ℕ) (c : ℕ) (g : ℕ) (a : ℕ) (n : ℕ) (dst : Loc) {s : State} (hT : within [.boot, .dev, .faults, .db, .ports, .cmds, .graphs, .counts, .comp, .cairn, .links, .fab, .out, .free] T = true)
    (h : Keeps T s0 s) : Keeps T s0 (peerReads p c g a n dst s) := by
  unfold peerReads
  repeat' (first | with_reducible assumption | exact within_trans rfl hT | with_reducible apply sendReq_keeps | with_reducible apply addMReq_keeps | with_reducible apply Keeps.foldl | intro _ | dsimp only | split)

theorem hwinPieces_keeps (p : ℕ) (c : ℕ) (write : Bool) (off : ℕ) (bs : List Byte) (dst : Loc) {s : State} (hT : within [.ports, .counts, .comp, .out] T = true)
    (h : Keeps T s0 s) : Keeps T s0 (hwinPieces p c write off bs dst s) := by
  unfold hwinPieces
  repeat' (first | with_reducible assumption | exact within_trans rfl hT | with_reducible apply hwinSend_keeps | with_reducible apply countCluster_keeps | with_reducible apply addMReq_keeps | with_reducible apply Keeps.foldl | intro _ | dsimp only | split)

theorem mWritePiece_keeps (p : ℕ) (c : ℕ) (dst : Loc) (bs : List (Byte × Bool)) {s : State} (hT : within [.boot, .dev, .faults, .db, .ports, .cmds, .graphs, .bytes, .memCtl, .counts, .comp, .cairn, .links, .fab, .out, .free] T = true)
    (h : Keeps T s0 s) : Keeps T s0 (mWritePiece p c dst bs s) := by
  unfold mWritePiece
  repeat' (first | with_reducible assumption | exact within_trans rfl hT | with_reducible apply peerWrites_keeps | with_reducible apply faultDOpen_keeps | with_reducible apply fabCount_keeps | with_reducible apply hwinPieces_keeps | with_reducible apply hwinFail_keeps | with_reducible apply countWrite_keeps | with_reducible apply locWrite_keeps | with_reducible apply Keeps.foldl | intro _ | dsimp only | split)

theorem mWrite_keeps (p : ℕ) (c : ℕ) (dst : Loc) (bs : List (Byte × Bool)) {s : State} (hT : within [.boot, .dev, .faults, .db, .ports, .cmds, .graphs, .bytes, .memCtl, .counts, .comp, .cairn, .links, .fab, .out, .free] T = true)
    (h : Keeps T s0 s) : Keeps T s0 (mWrite p c dst bs s) := by
  unfold mWrite
  repeat' (first | with_reducible assumption | exact within_trans rfl hT | with_reducible apply mWritePiece_keeps | with_reducible apply Keeps.foldl | intro _ | dsimp only | split)

theorem locRead_keeps (p : ℕ) (l : Loc) (n : ℕ) (found : List (ℕ × BadSymbols)) {s : State} (hT : within [.boot, .dev, .faults, .db, .ports, .cmds, .graphs, .bytes, .memCtl, .stk, .counts, .cairn, .out, .free] T = true)
    (h : Keeps T s0 s) : Keeps T s0 (locRead p l n found s) := by
  unfold locRead
  repeat' (first | with_reducible assumption | exact within_trans rfl hT | with_reducible apply clusterReads_keeps | with_reducible apply Keeps.foldl | intro _ | dsimp only | split)

theorem mMovePiece_keeps (p : ℕ) (c : ℕ) (src : Loc) (dst : Loc) (n : ℕ) (bad : Bool) {ef : Eff} (hT : within [.boot, .dev, .faults, .db, .ports, .cmds, .graphs, .bytes, .memCtl, .stk, .counts, .comp, .cairn, .links, .fab, .out, .free] T = true)
    (h : Keeps T s0 ef.s) : Keeps T s0 (mMovePiece p c src dst n bad ef).s := by
  unfold mMovePiece
  repeat' (first | with_reducible assumption | exact within_trans rfl hT | with_reducible apply peerReads_keeps | with_reducible apply faultDOpen_keeps | with_reducible apply fabCount_keeps | with_reducible apply mWrite_keeps | with_reducible apply hwinPieces_keeps | with_reducible apply hwinFail_keeps | with_reducible apply locRead_keeps | with_reducible apply countRead_keeps | with_reducible apply Eff.taint_keeps | with_reducible apply Keeps.foldl | with_reducible apply Keeps.foldlSnd | with_reducible apply Keeps.foldlEff | intro _ | dsimp only | split)

theorem mMove_keeps (p : ℕ) (c : ℕ) (src : Loc) (dst : Loc) (n : ℕ) (bad : Bool) {ef : Eff} (hT : within [.boot, .dev, .faults, .db, .ports, .cmds, .graphs, .bytes, .memCtl, .stk, .counts, .comp, .cairn, .links, .fab, .out, .free] T = true)
    (h : Keeps T s0 ef.s) : Keeps T s0 (mMove p c src dst n bad ef).s := by
  unfold mMove
  repeat' (first | with_reducible assumption | exact within_trans rfl hT | with_reducible apply mMovePiece_keeps | with_reducible apply Keeps.foldl | with_reducible apply Keeps.foldlSnd | with_reducible apply Keeps.foldlEff | intro _ | dsimp only | split)

theorem mStrided_keeps (p : ℕ) (c : ℕ) (src : Loc) (dst : Loc) (dims : List (ℕ × ℕ × ℕ)) (elt : ℕ) (found : List (ℕ × BadSymbols)) {s : State} (hT : within [.boot, .dev, .faults, .db, .ports, .cmds, .graphs, .bytes, .memCtl, .stk, .counts, .comp, .cairn, .links, .fab, .out, .free] T = true)
    (h : Keeps T s0 s) : Keeps T s0 (mStrided p c src dst dims elt found s).s := by
  unfold mStrided
  repeat' (first | with_reducible assumption | exact within_trans rfl hT | with_reducible apply mMove_keeps | with_reducible apply Keeps.foldl | with_reducible apply Keeps.foldlSnd | with_reducible apply Keeps.foldlEff | intro _ | dsimp only | split)

theorem mGather_keeps (p : ℕ) (c : ℕ) (table : Loc) (dst : Loc) (idx : ℕ) (n : ℕ) (elt : ℕ) (extent : ℕ) (scatter : Bool) (found : List (ℕ × BadSymbols)) {s : State} (hT : within [.boot, .dev, .faults, .db, .ports, .cmds, .graphs, .bytes, .memCtl, .stk, .counts, .comp, .cairn, .links, .fab, .out, .free] T = true)
    (h : Keeps T s0 s) : Keeps T s0 (mGather p c table dst idx n elt extent scatter found s).s := by
  unfold mGather
  repeat' (first | with_reducible assumption | exact within_trans rfl hT | with_reducible apply mMove_keeps | with_reducible apply Eff.warns_keeps | with_reducible apply Eff.taint_keeps | with_reducible apply mWrite_keeps | with_reducible apply Keeps.foldl | with_reducible apply Keeps.foldlSnd | with_reducible apply Keeps.foldlEff | intro _ | dsimp only | split)

theorem kPutElt_keeps (p : ℕ) (c : ℕ) (o : KOperand) (f : Fmt) (i : ℕ) (code : ℕ) (bad : Bool) {s : State} (hT : within [.bytes, .memCtl, .counts] T = true)
    (h : Keeps T s0 s) : Keeps T s0 (kPutElt p c o f i code bad s) := by
  unfold kPutElt
  repeat' (first | with_reducible assumption | exact within_trans rfl hT | with_reducible apply locWrite_keeps | with_reducible apply Keeps.foldl | intro _ | dsimp only | split)

theorem kStorePlain_keeps (p : ℕ) (c : ℕ) (env : KEnv) (o : KOperand) (f : Fmt) (nth : ℕ) (e0 : ℕ) (xs : List Lane) {ef : Eff} (hT : within [.bytes, .memCtl, .counts] T = true)
    (h : Keeps T s0 ef.s) : Keeps T s0 (kStorePlain p c env o f nth e0 xs ef).s := by
  unfold kStorePlain
  repeat' (first | with_reducible assumption | exact within_trans rfl hT | with_reducible apply Eff.warns_keeps | with_reducible apply Eff.taint_keeps | with_reducible apply kPutElt_keeps | with_reducible apply Keeps.foldl | with_reducible apply Keeps.foldlSnd | with_reducible apply Keeps.foldlEff | intro _ | dsimp only | split)

theorem kStoreBlocks_keeps (p : ℕ) (c : ℕ) (env : KEnv) (op : ℕ) (o : KOperand) (f : Fmt) (nth : ℕ) (e0 : ℕ) (xs : List Lane) {ef : Eff} (hT : within [.bytes, .memCtl, .counts] T = true)
    (h : Keeps T s0 ef.s) : Keeps T s0 (kStoreBlocks p c env op o f nth e0 xs ef).s := by
  unfold kStoreBlocks
  repeat' (first | with_reducible assumption | exact within_trans rfl hT | with_reducible apply Eff.warns_keeps | with_reducible apply kPutElt_keeps | with_reducible apply Eff.taint_keeps | with_reducible apply locWrite_keeps | with_reducible apply Keeps.foldl | with_reducible apply Keeps.foldlSnd | with_reducible apply Keeps.foldlEff | intro _ | dsimp only | split)

theorem kernOp_keeps (p : ℕ) (c : ℕ) (code : List (BitVec 64)) (grid : List ℕ) (lane : ℕ) (operands : List KOperand) (stochastic : Bool) (sat : Bool) (scratch : ℕ) (found : List (ℕ × BadSymbols)) {s : State} (hT : within [.boot, .dev, .faults, .db, .ports, .cmds, .graphs, .bytes, .memCtl, .stk, .counts, .cairn, .out, .free] T = true)
    (h : Keeps T s0 s) : Keeps T s0 (kernOp p c code grid lane operands stochastic sat scratch found s).s := by
  unfold kernOp
  repeat' (first | with_reducible assumption | exact within_trans rfl hT | with_reducible apply countRead_keeps | with_reducible apply locRead_keeps | with_reducible apply Eff.taint_keeps | with_reducible apply Eff.warns_keeps | with_reducible apply kStoreBlocks_keeps | with_reducible apply kStorePlain_keeps | with_reducible apply Keeps.foldl | with_reducible apply Keeps.foldlSnd | with_reducible apply Keeps.foldlEff | intro _ | dsimp only | split | ((fail_if_no_progress (with_reducible apply keeps_mk)); rotate_left; · (intro x hx; cases x <;> first | exact absurd (within_mem hT rfl) hx | exact rfl | exact ⟨rfl, rfl, rfl, rfl, rfl, rfl⟩)))

theorem opEffect_keeps (p : ℕ) (c : ℕ) (b : OpBody) (found : List (ℕ × BadSymbols)) {s : State} (hT : within [.boot, .dev, .faults, .db, .ports, .cmds, .graphs, .bytes, .memCtl, .stk, .counts, .comp, .cairn, .links, .fab, .out, .free] T = true)
    (h : Keeps T s0 s) : Keeps T s0 (opEffect p c b found s).s := by
  unfold opEffect
  repeat' (first | with_reducible assumption | exact within_trans rfl hT | with_reducible apply tMac_keeps | with_reducible apply tComplex_keeps | with_reducible apply tStore_keeps | with_reducible apply vecOp_keeps | with_reducible apply butterflyOp_keeps | with_reducible apply mStrided_keeps | with_reducible apply mGather_keeps | with_reducible apply kernOp_keeps | with_reducible apply Keeps.foldl | with_reducible apply Keeps.foldlSnd | with_reducible apply Keeps.foldlEff | intro _ | dsimp only | split)

theorem peerPartFails_keeps (p : ℕ) (c : ℕ) (pkg : ℕ) (cause : ℕ) {s : State} (hT : within [.graphs] T = true)
    (h : Keeps T s0 s) : Keeps T s0 (peerPartFails p c pkg cause s) := by
  unfold peerPartFails
  repeat' (first | with_reducible assumption | exact within_trans rfl hT | with_reducible apply slotSet_keeps | with_reducible apply Keeps.foldl | intro _ | dsimp only | split)

theorem mreqEnd_keeps (remote : Bool) (tag : BitVec 32) (data : List Byte) (bad : Bool) {s : State} (hT : within [.boot, .dev, .faults, .db, .ports, .cmds, .graphs, .bytes, .memCtl, .counts, .comp, .cairn, .links, .fab, .out, .free] T = true)
    (h : Keeps T s0 s) : Keeps T s0 (mreqEnd remote tag data bad s) := by
  unfold mreqEnd
  repeat' (first | with_reducible assumption | exact within_trans rfl hT | with_reducible apply engSet_keeps | with_reducible apply mWrite_keeps | with_reducible apply Keeps.foldl | intro _ | dsimp only | split)

theorem failWaiting_keeps {s : State} (hT : within [.boot, .dev, .faults, .db, .ports, .cmds, .graphs, .bytes, .memCtl, .counts, .comp, .cairn, .links, .fab, .out, .free] T = true)
    (h : Keeps T s0 s) : Keeps T s0 (failWaiting s) := by
  unfold failWaiting
  repeat' (first | with_reducible assumption | exact within_trans rfl hT | with_reducible apply hwinFail_keeps | with_reducible apply mreqEnd_keeps | with_reducible apply Keeps.foldl | intro _ | dsimp only | split | ((fail_if_no_progress (with_reducible apply keeps_mk)); rotate_left; · (intro x hx; cases x <;> first | exact absurd (within_mem hT rfl) hx | exact rfl | exact ⟨rfl, rfl, rfl, rfl, rfl, rfl⟩)))

end Sys2Proof.Machine
end

