-- ==== Sys2Proof/Laws/Work.lean ====
section
/-!
SUPPORT. One lemma for each shared operation of Machine/Work.lean: what it keeps of whatever state it is applied to.
The list in a lemma names the areas the operation may change.
-/

set_option linter.unusedTactic false
set_option linter.unreachableTactic false
set_option linter.unusedVariables false

namespace Sys2Proof.Machine

variable {T : List Area} {s0 : State}

theorem readDone_keeps (d : WiDone) {s : State} (hT : within [.graphs] T = true)
    (h : Keeps T s0 s) : Keeps T s0 (readDone d s) := by
  unfold readDone
  repeat' (first | with_reducible assumption | exact within_trans rfl hT | with_reducible apply slotSet_keeps | with_reducible apply Keeps.foldl | intro _ | dsimp only | split)

theorem fwReadDone_keeps (f : Flank) {s : State} (hT : within [.graphs, .comp] T = true)
    (h : Keeps T s0 s) : Keeps T s0 (fwReadDone f s) := by
  unfold fwReadDone
  repeat' (first | with_reducible assumption | exact within_trans rfl hT | with_reducible apply readDone_keeps | with_reducible apply Keeps.foldl | intro _ | dsimp only | split | ((fail_if_no_progress (with_reducible apply keeps_mk)); rotate_left; · (intro x hx; cases x <;> first | exact absurd (within_mem hT rfl) hx | exact rfl | exact ⟨rfl, rfl, rfl, rfl, rfl, rfl⟩)))

theorem postDone_keeps (d : WiDone) {s : State} (hT : within [.comp] T = true)
    (h : Keeps T s0 s) : Keeps T s0 (postDone d s) := by
  unfold postDone
  repeat' (first | with_reducible assumption | with_reducible apply Keeps.foldl | intro _ | dsimp only | split | ((fail_if_no_progress (with_reducible apply keeps_mk)); rotate_left; · (intro x hx; cases x <;> first | exact absurd (within_mem hT rfl) hx | exact rfl | exact ⟨rfl, rfl, rfl, rfl, rfl, rfl⟩)))

theorem modItem_keeps (p : ℕ) (seq : BitVec 32) (f : WorkSt → WorkSt) {s : State} (hT : within [.comp] T = true)
    (h : Keeps T s0 s) : Keeps T s0 (modItem p seq f s) := by
  unfold modItem
  repeat' (first | with_reducible assumption | exact within_trans rfl hT | with_reducible apply clusterSet_keeps | with_reducible apply Keeps.foldl | intro _ | dsimp only | split)

theorem issueTo_keeps (p : ℕ) (c : ℕ) (e : Engine) (op : EngOp) {s : State} (hT : within [.counts, .comp] T = true)
    (h : Keeps T s0 s) : Keeps T s0 (issueTo p c e op s) := by
  unfold issueTo
  repeat' (first | with_reducible assumption | exact within_trans rfl hT | with_reducible apply countCluster_keeps | with_reducible apply engSet_keeps | with_reducible apply modItem_keeps | with_reducible apply Keeps.foldl | intro _ | dsimp only | split)

theorem fallBack_keeps (p : ℕ) (op : EngOp) {s : State} (hT : within [.counts, .comp] T = true)
    (h : Keeps T s0 s) : Keeps T s0 (fallBack p op s) := by
  unfold fallBack
  repeat' (first | with_reducible assumption | exact within_trans rfl hT | with_reducible apply countCluster_keeps | with_reducible apply modItem_keeps | with_reducible apply Keeps.foldl | intro _ | dsimp only | split)

theorem forcedOut_keeps (p : ℕ) (c : ℕ) (b : OpBody) {ef : Eff} (hT : within [.faults, .bytes] T = true)
    (h : Keeps T s0 ef.s) : Keeps T s0 (forcedOut p c b ef).s := by
  unfold forcedOut
  repeat' (first | with_reducible assumption | exact within_trans rfl hT | with_reducible apply lsTaint_keeps | with_reducible apply forcedDone_keeps | with_reducible apply Keeps.foldl | with_reducible apply Keeps.foldlSnd | with_reducible apply Keeps.foldlEff | intro _ | dsimp only | split)

theorem startHead_keeps (p : ℕ) (c : ℕ) (e : Engine) (found : List (ℕ × BadSymbols)) {s : State} (hT : within [.boot, .dev, .faults, .db, .ports, .cmds, .graphs, .bytes, .memCtl, .stk, .counts, .comp, .cairn, .links, .fab, .out, .free] T = true)
    (h : Keeps T s0 s) : Keeps T s0 (startHead p c e found s) := by
  unfold startHead
  repeat' (first | with_reducible assumption | exact within_trans rfl hT | with_reducible apply countCore_keeps | with_reducible apply engSet_keeps | with_reducible apply forcedOut_keeps | with_reducible apply opEffect_keeps | with_reducible apply Keeps.foldl | with_reducible apply Keeps.foldlSnd | with_reducible apply Keeps.foldlEff | intro _ | dsimp only | split)

theorem startRun_keeps (p : ℕ) (c : ℕ) (op : EngOp) {s : State} (hT : within [.boot, .dev, .faults, .db, .ports, .cmds, .graphs, .counts, .comp, .cairn, .out, .free] T = true)
    (h : Keeps T s0 s) : Keeps T s0 (startRun p c op s) := by
  unfold startRun
  repeat' (first | with_reducible assumption | exact within_trans rfl hT | with_reducible apply failCluster_keeps | with_reducible apply engSet_keeps | with_reducible apply countCore_keeps | with_reducible apply Keeps.foldl | intro _ | dsimp only | split)

theorem startFill_keeps (p : ℕ) (c : ℕ) (op : EngOp) {s : State} (hT : within [.boot, .dev, .faults, .db, .ports, .cmds, .graphs, .counts, .comp, .cairn, .out, .free] T = true)
    (h : Keeps T s0 s) : Keeps T s0 (startFill p c op s) := by
  unfold startFill
  repeat' (first | with_reducible assumption | exact within_trans rfl hT | with_reducible apply failCluster_keeps | with_reducible apply engSet_keeps | with_reducible apply countCore_keeps | with_reducible apply Keeps.foldl | intro _ | dsimp only | split)

theorem startP_keeps (p : ℕ) (c : ℕ) {s : State} (hT : within [.boot, .dev, .faults, .db, .ports, .cmds, .graphs, .counts, .comp, .cairn, .out, .free] T = true)
    (h : Keeps T s0 s) : Keeps T s0 (startP p c s) := by
  unfold startP
  extract_lets x fill b mayRun
  clear_value fill mayRun
  split
  · extract_lets s1
    have k : Keeps T s0 s1 := startRun_keeps _ _ _ (within_trans rfl hT) h
    clear_value s1
    split
    · exact k
    · cases fill with
      | none => exact k
      | some o => exact startFill_keeps _ _ _ (within_trans rfl hT) k
  · cases fill with
    | none => exact h
    | some o => exact startFill_keeps _ _ _ (within_trans rfl hT) h

theorem signal_keeps (p : ℕ) (c : ℕ) (g : Signal) {s : State} (hT : within [.comp] T = true)
    (h : Keeps T s0 s) : Keeps T s0 (signal p c g s) := by
  unfold signal
  repeat' (first | with_reducible assumption | exact within_trans rfl hT | with_reducible apply bumpCoreSync_keeps | with_reducible apply bumpClusterSync_keeps | with_reducible apply clusterSet_keeps | with_reducible apply Keeps.foldl | intro _ | dsimp only | split)

theorem countRetired_keeps (p : ℕ) (c : ℕ) (e : Engine) (op : EngOp) {s : State} (hT : within [.counts] T = true)
    (h : Keeps T s0 s) : Keeps T s0 (countRetired p c e op s) := by
  unfold countRetired
  repeat' (first | with_reducible assumption | exact within_trans rfl hT | with_reducible apply countCore_keeps | with_reducible apply Keeps.foldl | intro _ | dsimp only | split)

theorem retire_keeps (p : ℕ) (c : ℕ) (e : Engine) (op : EngOp) (r : Running) {s : State} (hT : within [.counts, .comp] T = true)
    (h : Keeps T s0 s) : Keeps T s0 (retire p c e op r s) := by
  unfold retire
  repeat' (first | with_reducible assumption | exact within_trans rfl hT | with_reducible apply countRetired_keeps | with_reducible apply signal_keeps | with_reducible apply countCluster_keeps | with_reducible apply modItem_keeps | with_reducible apply stopGate_keeps | with_reducible apply clusterSet_keeps | with_reducible apply Keeps.foldl | intro _ | dsimp only | split)

theorem retireHead_keeps (p : ℕ) (c : ℕ) (e : Engine) {s : State} (hT : within [.counts, .comp] T = true)
    (h : Keeps T s0 s) : Keeps T s0 (retireHead p c e s) := by
  unfold retireHead
  repeat' (first | with_reducible assumption | exact within_trans rfl hT | with_reducible apply engSet_keeps | with_reducible apply retire_keeps | with_reducible apply Keeps.foldl | intro _ | dsimp only | split)

theorem retireRun_keeps (p : ℕ) (c : ℕ) {s : State} (hT : within [.faults, .bytes, .counts, .comp, .banks, .free] T = true)
    (h : Keeps T s0 s) : Keeps T s0 (retireRun p c s) := by
  unfold retireRun
  repeat' (first | with_reducible assumption | exact within_trans rfl hT | with_reducible apply engSet_keeps | with_reducible apply forcedOut_keeps | with_reducible apply pRunAll_keeps | with_reducible apply bankBoundary_keeps | with_reducible apply retire_keeps | with_reducible apply Keeps.foldl | with_reducible apply Keeps.foldlSnd | with_reducible apply Keeps.foldlEff | intro _ | dsimp only | split)

theorem fillDone_keeps (p : ℕ) (c : ℕ) {s : State} (hT : within [.boot, .dev, .faults, .db, .ports, .cmds, .graphs, .counts, .comp, .cairn, .out, .free] T = true)
    (h : Keeps T s0 s) : Keeps T s0 (fillDone p c s) := by
  unfold fillDone
  repeat' (first | with_reducible assumption | exact within_trans rfl hT | with_reducible apply failCluster_keeps | with_reducible apply engSet_keeps | with_reducible apply coreSet_keeps | with_reducible apply retire_keeps | with_reducible apply Keeps.foldl | intro _ | dsimp only | split)

theorem creditFault_keeps (p : ℕ) (q : QueueRef) (k : QCtr) {s : State} (hT : within [.boot, .dev, .faults, .db, .ports, .cmds, .graphs, .counts, .comp, .cairn, .out] T = true)
    (h : Keeps T s0 s) : Keeps T s0 (creditFault p q k s) := by
  unfold creditFault
  repeat' (first | with_reducible assumption | exact within_trans rfl hT | with_reducible apply failClusterWith_keeps | with_reducible apply clusterSet_keeps | with_reducible apply Keeps.foldl | intro _ | dsimp only | split)

theorem doneUpdate_keeps (f : Flank) {s : State} (hT : within [.dev, .faults, .db, .ports, .cmds, .comp, .cairn, .out] T = true)
    (h : Keeps T s0 s) : Keeps T s0 (doneUpdate f s) := by
  unfold doneUpdate
  repeat' (first | with_reducible assumption | exact within_trans rfl hT | with_reducible apply faultUKept_keeps | with_reducible apply Keeps.foldl | intro _ | dsimp only | split | ((fail_if_no_progress (with_reducible apply keeps_mk)); rotate_left; · (intro x hx; cases x <;> first | exact absurd (within_mem hT rfl) hx | exact rfl | exact ⟨rfl, rfl, rfl, rfl, rfl, rfl⟩)))

end Sys2Proof.Machine
end

