-- ==== Sys2Proof/Laws/BankOps.lean ====
section
/-!
SUPPORT. One lemma for each shared operation of Machine/BankOps.lean: what it keeps of whatever state it is applied to.
The list in a lemma names the areas the operation may change.
-/

set_option linter.unusedTactic false
set_option linter.unreachableTactic false
set_option linter.unusedVariables false

namespace Sys2Proof.Machine

variable {T : List Area} {s0 : State}

theorem laserSet_keeps (i : ℕ) (x : Laser) {s : State} (hT : within [.las] T = true)
    (h : Keeps T s0 s) : Keeps T s0 (laserSet i x s) := by
  unfold laserSet
  repeat' (first | with_reducible assumption | with_reducible apply Keeps.foldl | intro _ | dsimp only | split | ((fail_if_no_progress (with_reducible apply keeps_mk)); rotate_left; · (intro x hx; cases x <;> first | exact absurd (within_mem hT rfl) hx | exact rfl | exact ⟨rfl, rfl, rfl, rfl, rfl, rfl⟩)))

theorem laserOn_keeps (i : ℕ) {s : State} (hT : within [.las] T = true)
    (h : Keeps T s0 s) : Keeps T s0 (laserOn i s) := by
  unfold laserOn
  repeat' (first | with_reducible assumption | exact within_trans rfl hT | with_reducible apply laserSet_keeps | with_reducible apply Keeps.foldl | intro _ | dsimp only | split)

theorem laserOff_keeps (i : ℕ) {s : State} (hT : within [.las] T = true)
    (h : Keeps T s0 s) : Keeps T s0 (laserOff i s) := by
  unfold laserOff
  repeat' (first | with_reducible assumption | exact within_trans rfl hT | with_reducible apply laserSet_keeps | with_reducible apply Keeps.foldl | intro _ | dsimp only | split)

theorem laserWorn_keeps (i : ℕ) (f : Fade) {s : State} (hT : within [.las] T = true)
    (h : Keeps T s0 s) : Keeps T s0 (laserWorn i f s) := by
  unfold laserWorn
  repeat' (first | with_reducible assumption | exact within_trans rfl hT | with_reducible apply laserSet_keeps | with_reducible apply Keeps.foldl | intro _ | dsimp only | split | ((fail_if_no_progress (with_reducible apply keeps_mk)); rotate_left; · (intro x hx; cases x <;> first | exact absurd (within_mem hT rfl) hx | exact rfl | exact ⟨rfl, rfl, rfl, rfl, rfl, rfl⟩)))

theorem mapArray_keeps (chip a : Nat) {f : Nat → Nat → State → State}
    (hf : ∀ p c t, Keeps T s0 t → Keeps T s0 (f p c t)) {s : State} (h : Keeps T s0 s) :
    Keeps T s0 (mapArray chip a f s) :=
  Keeps.foldl h fun t _ ht => Keeps.foldl ht fun _ _ hu => hf _ _ _ hu

theorem dropPOps_keeps (p : ℕ) (c : ℕ) (keep : EngOp → Bool) (back : Bool) {s : State} (hT : within [.counts, .comp, .banks] T = true)
    (h : Keeps T s0 s) : Keeps T s0 (dropPOps p c keep back s) := by
  unfold dropPOps
  repeat' (first | with_reducible assumption | exact within_trans rfl hT | with_reducible apply engSet_keeps | with_reducible apply bankBoundary_keeps | with_reducible apply modItem_keeps | with_reducible apply fallBack_keeps | with_reducible apply Keeps.foldl | intro _ | dsimp only | split)

theorem dropBank_keeps (p : ℕ) (c : ℕ) {s : State} (hT : within [.counts, .comp, .banks] T = true)
    (h : Keeps T s0 s) : Keeps T s0 (dropBank p c s) := by
  unfold dropBank
  repeat' (first | with_reducible assumption | exact within_trans rfl hT | with_reducible apply dropPOps_keeps | with_reducible apply coreSet_keeps | with_reducible apply Keeps.foldl | intro _ | dsimp only | split)

theorem fenceBank_keeps (p : ℕ) (c : ℕ) {s : State} (hT : within [.counts, .comp, .banks] T = true)
    (h : Keeps T s0 s) : Keeps T s0 (fenceBank p c s) := by
  unfold fenceBank
  repeat' (first | with_reducible assumption | exact within_trans rfl hT | with_reducible apply dropBank_keeps | with_reducible apply bankSet_keeps | with_reducible apply Keeps.foldl | intro _ | dsimp only | split)

theorem failBank_keeps (p : ℕ) (c : ℕ) {s : State} (hT : within [.boot, .dev, .faults, .db, .ports, .cmds, .graphs, .counts, .comp, .banks, .cairn, .out] T = true)
    (h : Keeps T s0 s) : Keeps T s0 (failBank p c s) := by
  unfold failBank
  repeat' (first | with_reducible assumption | exact within_trans rfl hT | with_reducible apply fenceBank_keeps | with_reducible apply reportFrom_keeps | with_reducible apply Keeps.foldl | intro _ | dsimp only | split)

theorem startWalks_keeps (p : ℕ) (c : ℕ) (rings : List ℕ) (why : RelockFor) {s : State} (hT : within [.banks] T = true)
    (h : Keeps T s0 s) : Keeps T s0 (startWalks p c rings why s) := by
  unfold startWalks
  repeat' (first | with_reducible assumption | exact within_trans rfl hT | with_reducible apply bankSet_keeps | with_reducible apply Keeps.foldl | intro _ | dsimp only | split)

theorem checkPass_keeps (p : ℕ) (c : ℕ) {s : State} (hT : within [.boot, .dev, .faults, .db, .ports, .cmds, .graphs, .counts, .comp, .banks, .cairn, .out, .free] T = true)
    (h : Keeps T s0 s) : Keeps T s0 (checkPass p c s) := by
  unfold checkPass
  repeat' (first | with_reducible assumption | exact within_trans rfl hT | with_reducible apply bankSet_keeps | with_reducible apply stopGate_keeps | with_reducible apply reportFrom_keeps | with_reducible apply Keeps.foldl | intro _ | dsimp only | split | ((fail_if_no_progress (with_reducible apply keeps_mk)); rotate_left; · (intro x hx; cases x <;> first | exact absurd (within_mem hT rfl) hx | exact rfl | exact ⟨rfl, rfl, rfl, rfl, rfl, rfl⟩)))

theorem startWave_keeps (f : Flank) (c : ℕ) (band : ℕ) {s : State} (hT : within [.banks] T = true)
    (h : Keeps T s0 s) : Keeps T s0 (startWave f c band s) := by
  unfold startWave
  extract_lets s1
  have k : Keeps T s0 s1 := Keeps.foldl h fun t p ht => by
    split
    · exact bankClaim_keeps _ _ _ (within_trans rfl hT) ht
    · split
      · exact bankClaim_keeps _ _ _ (within_trans rfl hT) ht
      · exact ht
  clear_value s1
  exact keeps_mk k (by intro x hx; cases x <;> first | exact absurd (within_mem hT rfl) hx | exact rfl | exact ⟨rfl, rfl, rfl, rfl, rfl, rfl⟩)

theorem retuned_keeps (p : ℕ) (c : ℕ) {s : State} (hT : within [.banks] T = true)
    (h : Keeps T s0 s) : Keeps T s0 (retuned p c s) := by
  unfold retuned
  repeat' (first | with_reducible assumption | exact within_trans rfl hT | with_reducible apply bankSet_keeps | with_reducible apply Keeps.foldl | intro _ | dsimp only | split)

theorem walkDone_keeps (p : ℕ) (c : ℕ) (r : ℕ) (w : Walk) {s : State} (hT : within [.boot, .dev, .faults, .db, .ports, .cmds, .graphs, .counts, .comp, .banks, .cairn, .out] T = true)
    (h : Keeps T s0 s) : Keeps T s0 (walkDone p c r w s) := by
  unfold walkDone
  repeat' (first | with_reducible assumption | exact within_trans rfl hT | with_reducible apply bankSet_keeps | with_reducible apply failBank_keeps | with_reducible apply retuned_keeps | with_reducible apply Keeps.foldl | intro _ | dsimp only | split)

theorem startHandover_keeps (chip : ℕ) (a : ℕ) (k : ℕ) {s : State} (hT : within [.banks, .las] T = true)
    (h : Keeps T s0 s) : Keeps T s0 (startHandover chip a k s) := by
  unfold startHandover
  repeat' (first | with_reducible assumption | exact within_trans rfl hT | with_reducible apply laserOn_keeps | with_reducible apply Keeps.foldl | intro _ | dsimp only | split | ((fail_if_no_progress (with_reducible apply keeps_mk)); rotate_left; · (intro x hx; cases x <;> first | exact absurd (within_mem hT rfl) hx | exact rfl | exact ⟨rfl, rfl, rfl, rfl, rfl, rfl⟩)))

theorem enterDark_keeps (chip : ℕ) (a : ℕ) (k : ℕ) (spare : Bool) {s : State} (hT : within [.boot, .dev, .faults, .db, .ports, .cmds, .graphs, .counts, .comp, .banks, .cairn, .out] T = true)
    (h : Keeps T s0 s) : Keeps T s0 (enterDark chip a k spare s) := by
  unfold enterDark
  repeat' (first | with_reducible assumption | exact within_trans rfl hT | with_reducible apply mapArray_keeps | with_reducible apply failBank_keeps | with_reducible apply refreshDegraded_keeps | with_reducible apply bankSet_keeps | with_reducible apply Keeps.foldl | intro _ | dsimp only | split | ((fail_if_no_progress (with_reducible apply keeps_mk)); rotate_left; · (intro x hx; cases x <;> first | exact absurd (within_mem hT rfl) hx | exact rfl | exact ⟨rfl, rfl, rfl, rfl, rfl, rfl⟩)))

theorem discardRuns_keeps (chip : ℕ) (a : ℕ) {s : State} (hT : within [.counts, .comp, .banks] T = true)
    (h : Keeps T s0 s) : Keeps T s0 (discardRuns chip a s) := by
  unfold discardRuns
  repeat' (first | with_reducible assumption | exact within_trans rfl hT | with_reducible apply dropPOps_keeps | with_reducible apply Keeps.foldl | intro _ | dsimp only | split)

theorem combSparePoint_keeps (inst : ℕ) {s : State} (hT : within [.boot, .dev, .faults, .db, .ports, .cmds, .graphs, .counts, .comp, .banks, .cairn, .las, .out, .free] T = true)
    (h : Keeps T s0 s) : Keeps T s0 (combSparePoint inst s) := by
  unfold combSparePoint
  repeat' (first | with_reducible assumption | exact within_trans rfl hT | with_reducible apply laserWorn_keeps | with_reducible apply faultCOpen_keeps | with_reducible apply startHandover_keeps | with_reducible apply enterDark_keeps | with_reducible apply discardRuns_keeps | with_reducible apply laserOff_keeps | with_reducible apply faultUOpen_keeps | with_reducible apply Keeps.foldl | intro _ | dsimp only | split)

theorem spareIn_keeps (chip : ℕ) (a : ℕ) (k : ℕ) {s : State} (hT : within [.banks, .las] T = true)
    (h : Keeps T s0 s) : Keeps T s0 (spareIn chip a k s) := by
  unfold spareIn
  repeat' (first | with_reducible assumption | exact within_trans rfl hT | with_reducible apply laserOff_keeps | with_reducible apply Keeps.foldl | intro _ | dsimp only | split | ((fail_if_no_progress (with_reducible apply keeps_mk)); rotate_left; · (intro x hx; cases x <;> first | exact absurd (within_mem hT rfl) hx | exact rfl | exact ⟨rfl, rfl, rfl, rfl, rfl, rfl⟩)))

theorem pauseOver_keeps (chip : ℕ) (a : ℕ) (k : ℕ) (failing : List (ℕ × ℕ)) {s : State} (hT : within [.dev, .db, .ports, .cmds, .banks, .out] T = true)
    (h : Keeps T s0 s) : Keeps T s0 (pauseOver chip a k failing s) := by
  unfold pauseOver
  repeat' (first | with_reducible assumption | exact within_trans rfl hT | with_reducible apply mapArray_keeps | with_reducible apply bankSet_keeps | with_reducible apply refreshDegraded_keeps | with_reducible apply startWalks_keeps | with_reducible apply Keeps.foldl | intro _ | dsimp only | split | ((fail_if_no_progress (with_reducible apply keeps_mk)); rotate_left; · (intro x hx; cases x <;> first | exact absurd (within_mem hT rfl) hx | exact rfl | exact ⟨rfl, rfl, rfl, rfl, rfl, rfl⟩)))

theorem combLineLost_keeps (inst : ℕ) {s : State} (hT : within [.boot, .dev, .faults, .db, .ports, .cmds, .graphs, .counts, .comp, .banks, .cairn, .las, .out] T = true)
    (h : Keeps T s0 s) : Keeps T s0 (combLineLost inst s) := by
  unfold combLineLost
  repeat' (first | with_reducible assumption | exact within_trans rfl hT | with_reducible apply laserOff_keeps | with_reducible apply laserWorn_keeps | with_reducible apply enterDark_keeps | with_reducible apply discardRuns_keeps | with_reducible apply startHandover_keeps | with_reducible apply Keeps.foldl | intro _ | dsimp only | split)

theorem combLineFail_keeps (inst : ℕ) {s : State} (hT : within [.boot, .dev, .faults, .db, .ports, .cmds, .graphs, .counts, .comp, .banks, .cairn, .las, .out, .free] T = true)
    (h : Keeps T s0 s) : Keeps T s0 (combLineFail inst s) := by
  unfold combLineFail
  repeat' (first | with_reducible assumption | exact within_trans rfl hT | with_reducible apply combLineLost_keeps | with_reducible apply faultUOpen_keeps | with_reducible apply Keeps.foldl | intro _ | dsimp only | split)

theorem fenceChipBanks_keeps (chip : ℕ) {s : State} (hT : within [.faults, .counts, .comp, .banks] T = true)
    (h : Keeps T s0 s) : Keeps T s0 (fenceChipBanks chip s) := by
  unfold fenceChipBanks
  repeat' (first | with_reducible assumption | exact within_trans rfl hT | with_reducible apply dropBank_keeps | with_reducible apply Keeps.foldl | intro _ | dsimp only | split | ((fail_if_no_progress (with_reducible apply keeps_mk)); rotate_left; · (intro x hx; cases x <;> first | exact absurd (within_mem hT rfl) hx | exact rfl | exact ⟨rfl, rfl, rfl, rfl, rfl, rfl⟩)))

theorem combChipFail_keeps (chip : ℕ) {s : State} (hT : within [.boot, .dev, .faults, .db, .ports, .cmds, .graphs, .counts, .comp, .banks, .cairn, .las, .out, .free] T = true)
    (h : Keeps T s0 s) : Keeps T s0 (combChipFail chip s) := by
  unfold combChipFail
  repeat' (first | with_reducible assumption | exact within_trans rfl hT | with_reducible apply faultUOpen_keeps | with_reducible apply laserOff_keeps | with_reducible apply refreshDegraded_keeps | with_reducible apply fenceChipBanks_keeps | with_reducible apply Keeps.foldl | intro _ | dsimp only | split)

end Sys2Proof.Machine
end

