-- ==== Sys2Proof/Laws/Credits.lean ====
section
/-!
SUPPORT. One lemma for each shared operation of Machine/Credits.lean: what it keeps of whatever state it is applied to.
The list in a lemma names the areas the operation may change.
-/

set_option linter.unusedTactic false
set_option linter.unreachableTactic false
set_option linter.unusedVariables false

namespace Sys2Proof.Machine

variable {T : List Area} {s0 : State}

theorem dstSet_keeps (pkg : ℕ) (vc : ℕ) (e : Option CreditEntry) {s : State} (hT : within [.fab] T = true)
    (h : Keeps T s0 s) : Keeps T s0 (dstSet pkg vc e s) := by
  unfold dstSet
  repeat' (first | with_reducible assumption | with_reducible apply Keeps.foldl | intro _ | dsimp only | split | ((fail_if_no_progress (with_reducible apply keeps_mk)); rotate_left; · (intro x hx; cases x <;> first | exact absurd (within_mem hT rfl) hx | exact rfl | exact ⟨rfl, rfl, rfl, rfl, rfl, rfl⟩)))

theorem srcSet_keeps (pkg : ℕ) (vc : ℕ) (e : Option CreditEntry) {s : State} (hT : within [.fab] T = true)
    (h : Keeps T s0 s) : Keeps T s0 (srcSet pkg vc e s) := by
  unfold srcSet
  repeat' (first | with_reducible assumption | with_reducible apply Keeps.foldl | intro _ | dsimp only | split | ((fail_if_no_progress (with_reducible apply keeps_mk)); rotate_left; · (intro x hx; cases x <;> first | exact absurd (within_mem hT rfl) hx | exact rfl | exact ⟨rfl, rfl, rfl, rfl, rfl, rfl⟩)))

theorem askSet_keeps (pkg : ℕ) (vc : ℕ) (e : Option CreditAsk) {s : State} (hT : within [.fab] T = true)
    (h : Keeps T s0 s) : Keeps T s0 (askSet pkg vc e s) := by
  unfold askSet
  repeat' (first | with_reducible assumption | with_reducible apply Keeps.foldl | intro _ | dsimp only | split | ((fail_if_no_progress (with_reducible apply keeps_mk)); rotate_left; · (intro x hx; cases x <;> first | exact absurd (within_mem hT rfl) hx | exact rfl | exact ⟨rfl, rfl, rfl, rfl, rfl, rfl⟩)))

theorem tellCredit_keeps (pkg : ℕ) (vc : ℕ) {s : State} (hT : within [.boot, .dev, .faults, .db, .ports, .cmds, .graphs, .counts, .cairn, .links, .fab, .out, .free] T = true)
    (h : Keeps T s0 s) : Keeps T s0 (tellCredit pkg vc s) := by
  unfold tellCredit
  split
  · exact h
  · split
    · exact h
    · exact h
    · exact dstSet_keeps _ _ _ (within_trans rfl hT) (routeFlit_gone (by assumption) (within_trans rfl hT) h)
    · exact dstSet_keeps _ _ _ (within_trans rfl hT) (routeFlit_refused (by assumption) (within_trans rfl hT) h)

theorem freeClosed_keeps (pkg : ℕ) (vc : ℕ) {s : State} (hT : within [.fab] T = true)
    (h : Keeps T s0 s) : Keeps T s0 (freeClosed pkg vc s) := by
  unfold freeClosed
  repeat' (first | with_reducible assumption | exact within_trans rfl hT | with_reducible apply dstSet_keeps | with_reducible apply Keeps.foldl | intro _ | dsimp only | split)

theorem consumed_keeps (pkg : ℕ) (vc : ℕ) {s : State} (hT : within [.boot, .dev, .faults, .db, .ports, .cmds, .graphs, .counts, .cairn, .links, .fab, .out, .free] T = true)
    (h : Keeps T s0 s) : Keeps T s0 (consumed pkg vc s) := by
  unfold consumed
  repeat' (first | with_reducible assumption | exact within_trans rfl hT | with_reducible apply dstSet_keeps | with_reducible apply freeClosed_keeps | with_reducible apply tellCredit_keeps | with_reducible apply Keeps.foldl | intro _ | dsimp only | split)

theorem creditReq_keeps (pkg : ℕ) (vc : ℕ) (tag : BitVec 32) {s : State} (hT : within [.boot, .dev, .faults, .db, .ports, .cmds, .graphs, .counts, .cairn, .links, .fab, .out, .free] T = true)
    (h : Keeps T s0 s) : Keeps T s0 (creditReq pkg vc tag s) := by
  unfold creditReq
  repeat' (first | with_reducible assumption | exact within_trans rfl hT | with_reducible apply respond_keeps | with_reducible apply tellCredit_keeps | with_reducible apply dstSet_keeps | with_reducible apply Keeps.foldl | intro _ | dsimp only | split)

theorem creditArrives_keeps (pkg : ℕ) (vc : ℕ) (close : Bool) (total : BitVec 32) {s : State} (hT : within [.boot, .dev, .faults, .db, .ports, .cmds, .graphs, .counts, .comp, .cairn, .links, .fab, .out, .free] T = true)
    (h : Keeps T s0 s) : Keeps T s0 (creditArrives pkg vc close total s) := by
  unfold creditArrives
  repeat' (first | with_reducible assumption | exact within_trans rfl hT | with_reducible apply fabricRetry_keeps | with_reducible apply launch_keeps | with_reducible apply srcSet_keeps | with_reducible apply askSet_keeps | with_reducible apply Keeps.foldl | intro _ | dsimp only | split)

theorem closeAcked_keeps (pkg : ℕ) (vc : ℕ) (total : BitVec 32) {s : State} (hT : within [.fab] T = true)
    (h : Keeps T s0 s) : Keeps T s0 (closeAcked pkg vc total s) := by
  unfold closeAcked
  repeat' (first | with_reducible assumption | exact within_trans rfl hT | with_reducible apply freeClosed_keeps | with_reducible apply dstSet_keeps | with_reducible apply Keeps.foldl | intro _ | dsimp only | split)

theorem askAnswered_keeps (k : ℕ) (a : CreditAsk) (busy : Bool) {s : State} (hT : within [.fab] T = true)
    (h : Keeps T s0 s) : Keeps T s0 (askAnswered k a busy s) := by
  unfold askAnswered
  repeat' (first | with_reducible assumption | exact within_trans rfl hT | with_reducible apply askSet_keeps | with_reducible apply Keeps.foldl | intro _ | dsimp only | split)

end Sys2Proof.Machine
end

