-- ==== Sys2Proof/Laws/LaneOps.lean ====
section
/-!
SUPPORT. One lemma for each shared operation of Machine/LaneOps.lean: what it keeps of whatever state it is applied to.
The list in a lemma names the areas the operation may change.
-/

set_option linter.unusedTactic false
set_option linter.unreachableTactic false
set_option linter.unusedVariables false

namespace Sys2Proof.Machine

variable {T : List Area} {s0 : State}

theorem laneFault_keeps (cls : FClass) (i : ℕ) {s : State} (hT : within [.boot, .dev, .faults, .db, .ports, .cmds, .graphs, .cairn, .out, .free] T = true)
    (h : Keeps T s0 s) : Keeps T s0 (laneFault cls i s) := by
  unfold laneFault
  repeat' (first | with_reducible assumption | exact within_trans rfl hT | with_reducible apply useFree_keeps | with_reducible apply report_keeps | with_reducible apply Keeps.foldl | with_reducible apply Keeps.foldlSnd | intro _ | dsimp only | split)

theorem sendBlocks_keeps (n : ℕ) (ks : List ℕ) (ty : ℕ) (body : List Byte) {s : State} (hT : within [.chans] T = true)
    (h : Keeps T s0 s) : Keeps T s0 (sendBlocks n ks ty body s) := by
  unfold sendBlocks
  repeat' (first | with_reducible assumption | exact within_trans rfl hT | with_reducible apply setChan_keeps | with_reducible apply Keeps.foldl | intro _ | dsimp only | split)

theorem wakeTx_keeps (n : ℕ) {s : State} (hT : within [.chans, .links] T = true)
    (h : Keeps T s0 s) : Keeps T s0 (wakeTx n s) := by
  unfold wakeTx
  repeat' (first | with_reducible assumption | exact within_trans rfl hT | with_reducible apply sendBlocks_keeps | with_reducible apply linkSet_keeps | with_reducible apply Keeps.foldl | intro _ | dsimp only | split)

theorem startMove_keeps (n : ℕ) (lane : ℕ) (a : ℕ) (b : ℕ) (immediate : Bool) (why : ℕ) {s : State} (hT : within [.chans, .links] T = true)
    (h : Keeps T s0 s) : Keeps T s0 (startMove n lane a b immediate why s) := by
  unfold startMove
  repeat' (first | with_reducible assumption | exact within_trans rfl hT | with_reducible apply wakeTx_keeps | with_reducible apply linkSet_keeps | with_reducible apply setChan_keeps | with_reducible apply sendBlocks_keeps | with_reducible apply Keeps.foldl | intro _ | dsimp only | split)

theorem lightChiplet_keeps (ll : ℕ) {s : State} (hT : within [.las] T = true)
    (h : Keeps T s0 s) : Keeps T s0 (lightChiplet ll s) := by
  unfold lightChiplet
  repeat' (first | with_reducible assumption | exact within_trans rfl hT | with_reducible apply laserOn_keeps | with_reducible apply laserOff_keeps | with_reducible apply Keeps.foldl | intro _ | dsimp only | split)

theorem putOut_keeps (n : ℕ) (k : ℕ) {s : State} (hT : within [.chans] T = true)
    (h : Keeps T s0 s) : Keeps T s0 (putOut n k s) := by
  unfold putOut
  repeat' (first | with_reducible assumption | exact within_trans rfl hT | with_reducible apply setChan_keeps | with_reducible apply Keeps.foldl | intro _ | dsimp only | split)

theorem setHandover_keeps (ll : ℕ) (k : ℕ) (x3 : Option Handover) {s : State} (hT : within [.las] T = true)
    (h : Keeps T s0 s) : Keeps T s0 (setHandover ll k x3 s) := by
  unfold setHandover
  repeat' (first | with_reducible assumption | with_reducible apply Keeps.foldl | intro _ | dsimp only | split | ((fail_if_no_progress (with_reducible apply keeps_mk)); rotate_left; · (intro x hx; cases x <;> first | exact absurd (within_mem hT rfl) hx | exact rfl | exact ⟨rfl, rfl, rfl, rfl, rfl, rfl⟩)))

theorem settleHandover_keeps (ll : ℕ) (k : ℕ) {s : State} (hT : within [.las] T = true)
    (h : Keeps T s0 s) : Keeps T s0 (settleHandover ll k s) := by
  unfold settleHandover
  repeat' (first | with_reducible assumption | exact within_trans rfl hT | with_reducible apply laserOff_keeps | with_reducible apply setHandover_keeps | with_reducible apply Keeps.foldl | intro _ | dsimp only | split)

theorem linkFreed_keeps (n : ℕ) (k : ℕ) {s : State} (hT : within [.las, .chans] T = true)
    (h : Keeps T s0 s) : Keeps T s0 (linkFreed n k s) := by
  unfold linkFreed
  repeat' (first | with_reducible assumption | exact within_trans rfl hT | with_reducible apply settleHandover_keeps | with_reducible apply setHandover_keeps | with_reducible apply putOut_keeps | with_reducible apply Keeps.foldl | intro _ | dsimp only | split)

theorem leaveLink_keeps (n : ℕ) {s : State} (hT : within [.boot, .dev, .faults, .db, .ports, .cmds, .graphs, .counts, .cairn, .las, .chans, .links, .fab, .out, .free] T = true)
    (h : Keeps T s0 s) : Keeps T s0 (leaveLink n s) := by
  unfold leaveLink
  repeat' (first | with_reducible assumption | exact within_trans rfl hT | with_reducible apply linkFreed_keeps | with_reducible apply linkLeaves_keeps | with_reducible apply Keeps.foldl | intro _ | dsimp only | split)

theorem linkDark_keeps (n : ℕ) {s : State} (hT : within [.boot, .dev, .faults, .db, .ports, .cmds, .graphs, .counts, .cairn, .las, .chans, .links, .fab, .out, .free] T = true)
    (h : Keeps T s0 s) : Keeps T s0 (linkDark n s) := by
  unfold linkDark
  repeat' (first | with_reducible assumption | exact within_trans rfl hT | with_reducible apply leaveLink_keeps | with_reducible apply lightChiplet_keeps | with_reducible apply refreshDegraded_keeps | with_reducible apply faultUOpen_keeps | with_reducible apply linkSet_keeps | with_reducible apply Keeps.foldl | intro _ | dsimp only | split)

theorem askWidth_keeps (n : ℕ) (k : ℕ) {s : State} (hT : within [.boot, .dev, .faults, .db, .ports, .cmds, .graphs, .counts, .cairn, .las, .chans, .links, .fab, .out, .free] T = true)
    (h : Keeps T s0 s) : Keeps T s0 (askWidth n k s) := by
  unfold askWidth
  repeat' (first | with_reducible assumption | exact within_trans rfl hT | with_reducible apply wakeTx_keeps | with_reducible apply linkSet_keeps | with_reducible apply linkDark_keeps | with_reducible apply placeFlit_keeps | with_reducible apply Keeps.foldl | intro _ | dsimp only | split)

theorem narrowLink_keeps (n : ℕ) (w : ℕ) {s : State} (hT : within [.faults, .counts, .chans, .links, .out] T = true)
    (h : Keeps T s0 s) : Keeps T s0 (narrowLink n w s) := by
  unfold narrowLink
  repeat' (first | with_reducible assumption | exact within_trans rfl hT | with_reducible apply wakeTx_keeps | with_reducible apply placeFlit_keeps | with_reducible apply linkSet_keeps | with_reducible apply Keeps.foldl | intro _ | dsimp only | split)

theorem narrowOptical_keeps (n : ℕ) {s : State} (hT : within [.faults, .counts, .chans, .links, .out] T = true)
    (h : Keeps T s0 s) : Keeps T s0 (narrowOptical n s) := by
  unfold narrowOptical
  repeat' (first | with_reducible assumption | exact within_trans rfl hT | with_reducible apply narrowLink_keeps | with_reducible apply Keeps.foldl | intro _ | dsimp only | split)

theorem askRetrain_keeps (n : ℕ) {s : State} (hT : within [.chans, .links] T = true)
    (h : Keeps T s0 s) : Keeps T s0 (askRetrain n s) := by
  unfold askRetrain
  repeat' (first | with_reducible assumption | exact within_trans rfl hT | with_reducible apply sendBlocks_keeps | with_reducible apply linkSet_keeps | with_reducible apply Keeps.foldl | intro _ | dsimp only | split)

theorem enterTrain_keeps (n : ℕ) (st : Train) {s : State} (hT : within [.boot, .dev, .faults, .db, .ports, .cmds, .graphs, .counts, .cairn, .las, .chans, .links, .fab, .out, .free] T = true)
    (h : Keeps T s0 s) : Keeps T s0 (enterTrain n st s) := by
  unfold enterTrain
  repeat' (first | with_reducible assumption | exact within_trans rfl hT | with_reducible apply leaveLink_keeps | with_reducible apply lightChiplet_keeps | with_reducible apply linkSet_keeps | with_reducible apply Keeps.foldl | intro _ | dsimp only | split)

theorem freshNonce_keeps (n : ℕ) {s : State} (hT : within [.links, .free] T = true)
    (h : Keeps T s0 s) : Keeps T s0 (freshNonce n s) := by
  unfold freshNonce
  repeat' (first | with_reducible assumption | exact within_trans rfl hT | with_reducible apply useFree_keeps | with_reducible apply linkSet_keeps | with_reducible apply Keeps.foldl | with_reducible apply Keeps.foldlSnd | intro _ | dsimp only | split)

theorem enterSend_keeps (n : ℕ) {s : State} (hT : within [.boot, .dev, .faults, .db, .ports, .cmds, .graphs, .counts, .cairn, .las, .chans, .links, .fab, .out, .free] T = true)
    (h : Keeps T s0 s) : Keeps T s0 (enterSend n s) := by
  unfold enterSend
  repeat' (first | with_reducible assumption | exact within_trans rfl hT | with_reducible apply freshNonce_keeps | with_reducible apply enterTrain_keeps | with_reducible apply linkSet_keeps | with_reducible apply Keeps.foldl | intro _ | dsimp only | split)

theorem coverChannel_keeps (n : ℕ) (k : ℕ) (immediate : Bool) (why : ℕ) {s : State} (hT : within [.boot, .dev, .faults, .db, .ports, .cmds, .graphs, .counts, .cairn, .las, .chans, .links, .fab, .out, .free] T = true)
    (h : Keeps T s0 s) : Keeps T s0 (coverChannel n k immediate why s) := by
  unfold coverChannel
  repeat' (first | with_reducible assumption | exact within_trans rfl hT | with_reducible apply startMove_keeps | with_reducible apply askWidth_keeps | with_reducible apply setChan_keeps | with_reducible apply Keeps.foldl | intro _ | dsimp only | split)

theorem freeOn_keeps (n : ℕ) (k : ℕ) (immediate : Bool) {s : State} (hT : within [.boot, .dev, .faults, .db, .ports, .cmds, .graphs, .counts, .cairn, .las, .chans, .links, .fab, .out, .free] T = true)
    (h : Keeps T s0 s) : Keeps T s0 (freeOn n k immediate s) := by
  unfold freeOn
  repeat' (first | with_reducible assumption | exact within_trans rfl hT | with_reducible apply coverChannel_keeps | with_reducible apply putOut_keeps | with_reducible apply Keeps.foldl | intro _ | dsimp only | split)

theorem beginHandover_keeps (ll : ℕ) (k : ℕ) (failed : Bool) {s : State} (hT : within [.boot, .dev, .faults, .db, .ports, .cmds, .graphs, .counts, .cairn, .las, .chans, .links, .fab, .out, .free] T = true)
    (h : Keeps T s0 s) : Keeps T s0 (beginHandover ll k failed s) := by
  unfold beginHandover
  repeat' (first | with_reducible assumption | exact within_trans rfl hT | with_reducible apply setHandover_keeps | with_reducible apply laserOn_keeps | with_reducible apply settleHandover_keeps | with_reducible apply freeOn_keeps | with_reducible apply Keeps.foldl | intro _ | dsimp only | split)

theorem wantHandover_keeps (ll : ℕ) (k : ℕ) (failed : Bool) {s : State} (hT : within [.boot, .dev, .faults, .db, .ports, .cmds, .graphs, .counts, .cairn, .las, .chans, .links, .fab, .out, .free] T = true)
    (h : Keeps T s0 s) : Keeps T s0 (wantHandover ll k failed s) := by
  unfold wantHandover
  repeat' (first | with_reducible assumption | exact within_trans rfl hT | with_reducible apply beginHandover_keeps | with_reducible apply Keeps.foldl | intro _ | dsimp only | split | ((fail_if_no_progress (with_reducible apply keeps_mk)); rotate_left; · (intro x hx; cases x <;> first | exact absurd (within_mem hT rfl) hx | exact rfl | exact ⟨rfl, rfl, rfl, rfl, rfl, rfl⟩)))

theorem nextHandover_keeps (ll : ℕ) {s : State} (hT : within [.boot, .dev, .faults, .db, .ports, .cmds, .graphs, .counts, .cairn, .las, .chans, .links, .fab, .out, .free] T = true)
    (h : Keeps T s0 s) : Keeps T s0 (nextHandover ll s) := by
  unfold nextHandover
  repeat' (first | with_reducible assumption | exact within_trans rfl hT | with_reducible apply beginHandover_keeps | with_reducible apply Keeps.foldl | intro _ | dsimp only | split | ((fail_if_no_progress (with_reducible apply keeps_mk)); rotate_left; · (intro x hx; cases x <;> first | exact absurd (within_mem hT rfl) hx | exact rfl | exact ⟨rfl, rfl, rfl, rfl, rfl, rfl⟩)))

theorem markGone_keeps (ll : ℕ) (k : ℕ) {s : State} (hT : within [.las] T = true)
    (h : Keeps T s0 s) : Keeps T s0 (markGone ll k s) := by
  unfold markGone
  repeat' (first | with_reducible assumption | with_reducible apply Keeps.foldl | intro _ | dsimp only | split | ((fail_if_no_progress (with_reducible apply keeps_mk)); rotate_left; · (intro x hx; cases x <;> first | exact absurd (within_mem hT rfl) hx | exact rfl | exact ⟨rfl, rfl, rfl, rfl, rfl, rfl⟩)))

theorem linkSparePoint_keeps (inst : ℕ) {s : State} (hT : within [.boot, .dev, .faults, .db, .ports, .cmds, .graphs, .counts, .cairn, .las, .chans, .links, .fab, .out, .free] T = true)
    (h : Keeps T s0 s) : Keeps T s0 (linkSparePoint inst s) := by
  unfold linkSparePoint
  repeat' (first | with_reducible assumption | exact within_trans rfl hT | with_reducible apply faultCOpen_keeps | with_reducible apply laserWorn_keeps | with_reducible apply wantHandover_keeps | with_reducible apply beginHandover_keeps | with_reducible apply markGone_keeps | with_reducible apply Keeps.foldl | intro _ | dsimp only | split)

theorem spareLost_keeps (ll : ℕ) (k : ℕ) (x3 : Handover) {s : State} (hT : within [.las, .chans] T = true)
    (h : Keeps T s0 s) : Keeps T s0 (spareLost ll k x3 s) := by
  unfold spareLost
  repeat' (first | with_reducible assumption | exact within_trans rfl hT | with_reducible apply setHandover_keeps | with_reducible apply markGone_keeps | with_reducible apply putOut_keeps | with_reducible apply setChan_keeps | with_reducible apply Keeps.foldl | intro _ | dsimp only | split)

theorem linkLaserLost_keeps (inst : ℕ) {s : State} (hT : within [.boot, .dev, .faults, .db, .ports, .cmds, .graphs, .counts, .cairn, .las, .chans, .links, .fab, .out, .free] T = true)
    (h : Keeps T s0 s) : Keeps T s0 (linkLaserLost inst s) := by
  unfold linkLaserLost
  repeat' (first | with_reducible assumption | exact within_trans rfl hT | with_reducible apply laserOff_keeps | with_reducible apply laserWorn_keeps | with_reducible apply markGone_keeps | with_reducible apply beginHandover_keeps | with_reducible apply spareLost_keeps | with_reducible apply wantHandover_keeps | with_reducible apply Keeps.foldl | intro _ | dsimp only | split)

theorem linkLaserFail_keeps (inst : ℕ) {s : State} (hT : within [.boot, .dev, .faults, .db, .ports, .cmds, .graphs, .counts, .cairn, .las, .chans, .links, .fab, .out, .free] T = true)
    (h : Keeps T s0 s) : Keeps T s0 (linkLaserFail inst s) := by
  unfold linkLaserFail
  repeat' (first | with_reducible assumption | exact within_trans rfl hT | with_reducible apply linkLaserLost_keeps | with_reducible apply faultUOpen_keeps | with_reducible apply Keeps.foldl | intro _ | dsimp only | split)

theorem linkChipletOut_keeps (ll : ℕ) {s : State} (hT : within [.boot, .dev, .faults, .db, .ports, .cmds, .graphs, .counts, .cairn, .las, .chans, .links, .fab, .out, .free] T = true)
    (h : Keeps T s0 s) : Keeps T s0 (linkChipletOut ll s) := by
  unfold linkChipletOut
  repeat' (first | with_reducible assumption | exact within_trans rfl hT | with_reducible apply faultUOpen_keeps | with_reducible apply laserOff_keeps | with_reducible apply leaveLink_keeps | with_reducible apply refreshDegraded_keeps | with_reducible apply linkSet_keeps | with_reducible apply Keeps.foldl | intro _ | dsimp only | split)

theorem portOut_keeps (p : Port) {s : State} (hT : within [.boot, .dev, .faults, .db, .ports, .cmds, .graphs, .cairn, .out, .free] T = true)
    (h : Keeps T s0 s) : Keeps T s0 (portOut p s) := by
  unfold portOut
  repeat' (first | with_reducible assumption | exact within_trans rfl hT | with_reducible apply portDown_keeps | with_reducible apply setPort_keeps | with_reducible apply Keeps.foldl | intro _ | dsimp only | split | ((fail_if_no_progress (with_reducible apply keeps_mk)); rotate_left; · (intro x hx; cases x <;> first | exact absurd (within_mem hT rfl) hx | exact rfl | exact ⟨rfl, rfl, rfl, rfl, rfl, rfl⟩)))

theorem portDead_keeps (p : Port) {s : State} (hT : within [.boot, .dev, .faults, .db, .ports, .cmds, .graphs, .cairn, .out, .free] T = true)
    (h : Keeps T s0 s) : Keeps T s0 (portDead p s) := by
  unfold portDead
  repeat' (first | with_reducible assumption | exact within_trans rfl hT | with_reducible apply portOut_keeps | with_reducible apply faultUOpen_keeps | with_reducible apply Keeps.foldl | intro _ | dsimp only | split)

theorem portSparePoint_keeps (inst : ℕ) {s : State} (hT : within [.boot, .dev, .faults, .db, .ports, .cmds, .graphs, .cairn, .las, .out, .free] T = true)
    (h : Keeps T s0 s) : Keeps T s0 (portSparePoint inst s) := by
  unfold portSparePoint
  repeat' (first | with_reducible assumption | exact within_trans rfl hT | with_reducible apply faultCOpen_keeps | with_reducible apply laserWorn_keeps | with_reducible apply setPort_keeps | with_reducible apply laserOn_keeps | with_reducible apply portDead_keeps | with_reducible apply laserOff_keeps | with_reducible apply Keeps.foldl | intro _ | dsimp only | split | ((fail_if_no_progress (with_reducible apply keeps_mk)); rotate_left; · (intro x hx; cases x <;> first | exact absurd (within_mem hT rfl) hx | exact rfl | exact ⟨rfl, rfl, rfl, rfl, rfl, rfl⟩)))

theorem portLaserLost_keeps (inst : ℕ) {s : State} (hT : within [.boot, .dev, .faults, .db, .ports, .cmds, .graphs, .cairn, .las, .links, .out, .free] T = true)
    (h : Keeps T s0 s) : Keeps T s0 (portLaserLost inst s) := by
  unfold portLaserLost
  repeat' (first | with_reducible assumption | exact within_trans rfl hT | with_reducible apply laserOff_keeps | with_reducible apply laserWorn_keeps | with_reducible apply laserOn_keeps | with_reducible apply portDown_keeps | with_reducible apply portTrains_keeps | with_reducible apply setPort_keeps | with_reducible apply portDead_keeps | with_reducible apply Keeps.foldl | intro _ | dsimp only | split | ((fail_if_no_progress (with_reducible apply keeps_mk)); rotate_left; · (intro x hx; cases x <;> first | exact absurd (within_mem hT rfl) hx | exact rfl | exact ⟨rfl, rfl, rfl, rfl, rfl, rfl⟩)))

theorem portLaserFail_keeps (inst : ℕ) {s : State} (hT : within [.boot, .dev, .faults, .db, .ports, .cmds, .graphs, .cairn, .las, .links, .out, .free] T = true)
    (h : Keeps T s0 s) : Keeps T s0 (portLaserFail inst s) := by
  unfold portLaserFail
  repeat' (first | with_reducible assumption | exact within_trans rfl hT | with_reducible apply portLaserLost_keeps | with_reducible apply faultUOpen_keeps | with_reducible apply Keeps.foldl | intro _ | dsimp only | split)

theorem sparePoint_keeps (inst : ℕ) {s : State} (hT : within [.boot, .dev, .faults, .db, .ports, .cmds, .graphs, .counts, .comp, .banks, .cairn, .las, .chans, .links, .fab, .out, .free] T = true)
    (h : Keeps T s0 s) : Keeps T s0 (sparePoint inst s) := by
  unfold sparePoint
  repeat' (first | with_reducible assumption | exact within_trans rfl hT | with_reducible apply combSparePoint_keeps | with_reducible apply linkSparePoint_keeps | with_reducible apply portSparePoint_keeps | with_reducible apply Keeps.foldl | intro _ | dsimp only | split)

theorem laserFail_keeps (inst : ℕ) {s : State} (hT : within [.boot, .dev, .faults, .db, .ports, .cmds, .graphs, .counts, .comp, .banks, .cairn, .las, .chans, .links, .fab, .out, .free] T = true)
    (h : Keeps T s0 s) : Keeps T s0 (laserFail inst s) := by
  unfold laserFail
  repeat' (first | with_reducible assumption | exact within_trans rfl hT | with_reducible apply combLineFail_keeps | with_reducible apply linkLaserFail_keeps | with_reducible apply portLaserFail_keeps | with_reducible apply Keeps.foldl | intro _ | dsimp only | split)

theorem judgeLaser_keeps (inst : ℕ) {s : State} (hT : within [.boot, .dev, .faults, .db, .ports, .cmds, .graphs, .counts, .comp, .banks, .cairn, .las, .chans, .links, .fab, .out, .free] T = true)
    (h : Keeps T s0 s) : Keeps T s0 (judgeLaser inst s) := by
  unfold judgeLaser
  repeat' (first | with_reducible assumption | exact within_trans rfl hT | with_reducible apply sparePoint_keeps | with_reducible apply faultCOpen_keeps | with_reducible apply laserSet_keeps | with_reducible apply Keeps.foldl | intro _ | dsimp only | split)

theorem enterCheck_keeps (i : ℕ) {s : State} (hT : within [.chans] T = true)
    (h : Keeps T s0 s) : Keeps T s0 (enterCheck i s) := by
  unfold enterCheck
  repeat' (first | with_reducible assumption | exact within_trans rfl hT | with_reducible apply setChan_keeps | with_reducible apply Keeps.foldl | intro _ | dsimp only | split)

theorem startCheck_keeps (n : ℕ) (k : ℕ) {s : State} (hT : within [.chans] T = true)
    (h : Keeps T s0 s) : Keeps T s0 (startCheck n k s) := by
  unfold startCheck
  repeat' (first | with_reducible assumption | exact within_trans rfl hT | with_reducible apply sendBlocks_keeps | with_reducible apply enterCheck_keeps | with_reducible apply Keeps.foldl | intro _ | dsimp only | split)

theorem beginCheck_keeps (n : ℕ) (k : ℕ) (urgent : Bool) {s : State} (hT : within [.boot, .dev, .faults, .db, .ports, .cmds, .graphs, .counts, .cairn, .las, .chans, .links, .fab, .out, .free] T = true)
    (h : Keeps T s0 s) : Keeps T s0 (beginCheck n k urgent s) := by
  unfold beginCheck
  repeat' (first | with_reducible assumption | exact within_trans rfl hT | with_reducible apply wakeTx_keeps | with_reducible apply startCheck_keeps | with_reducible apply startMove_keeps | with_reducible apply askWidth_keeps | with_reducible apply Keeps.foldl | intro _ | dsimp only | split)

theorem checkStarts_keeps (n : ℕ) (k : ℕ) {s : State} (hT : within [.chans] T = true)
    (h : Keeps T s0 s) : Keeps T s0 (checkStarts n k s) := by
  unfold checkStarts
  repeat' (first | with_reducible assumption | exact within_trans rfl hT | with_reducible apply enterCheck_keeps | with_reducible apply Keeps.foldl | intro _ | dsimp only | split)

theorem checkReports_keeps (n : ℕ) (r : CheckReport) {s : State} (hT : within [.chans] T = true)
    (h : Keeps T s0 s) : Keeps T s0 (checkReports n r s) := by
  unfold checkReports
  repeat' (first | with_reducible assumption | exact within_trans rfl hT | with_reducible apply setChan_keeps | with_reducible apply Keeps.foldl | intro _ | dsimp only | split)

theorem fenceChan_keeps (i : ℕ) {s : State} (hT : within [.boot, .dev, .faults, .db, .ports, .cmds, .graphs, .cairn, .chans, .out, .free] T = true)
    (h : Keeps T s0 s) : Keeps T s0 (fenceChan i s) := by
  unfold fenceChan
  repeat' (first | with_reducible assumption | exact within_trans rfl hT | with_reducible apply laneFault_keeps | with_reducible apply setChan_keeps | with_reducible apply Keeps.foldl | intro _ | dsimp only | split)

theorem resumeHandovers_keeps (n : ℕ) {s : State} (hT : within [.boot, .dev, .faults, .db, .ports, .cmds, .graphs, .counts, .cairn, .las, .chans, .links, .fab, .out, .free] T = true)
    (h : Keeps T s0 s) : Keeps T s0 (resumeHandovers n s) := by
  unfold resumeHandovers
  repeat' (first | with_reducible assumption | exact within_trans rfl hT | with_reducible apply coverChannel_keeps | with_reducible apply Keeps.foldl | intro _ | dsimp only | split)

theorem correctTrims_keeps (i : ℕ) {s : State} (hT : within [.chans, .free] T = true)
    (h : Keeps T s0 s) : Keeps T s0 (correctTrims i s) := by
  unfold correctTrims
  repeat' (first | with_reducible assumption | exact within_trans rfl hT | with_reducible apply useFree_keeps | with_reducible apply setChan_keeps | with_reducible apply Keeps.foldl | with_reducible apply Keeps.foldlSnd | intro _ | dsimp only | split)

theorem checkPassed_keeps (i : ℕ) (marginal : Bool) {s : State} (hT : within [.boot, .dev, .faults, .db, .ports, .cmds, .graphs, .cairn, .chans, .out, .free] T = true)
    (h : Keeps T s0 s) : Keeps T s0 (checkPassed i marginal s) := by
  unfold checkPassed
  repeat' (first | with_reducible assumption | exact within_trans rfl hT | with_reducible apply correctTrims_keeps | with_reducible apply laneFault_keeps | with_reducible apply setChan_keeps | with_reducible apply Keeps.foldl | intro _ | dsimp only | split)

theorem checkEnds_keeps (i : ℕ) (r : LaneCheck) {s : State} (hT : within [.boot, .dev, .faults, .db, .ports, .cmds, .graphs, .counts, .cairn, .las, .chans, .links, .fab, .out, .free] T = true)
    (h : Keeps T s0 s) : Keeps T s0 (checkEnds i r s) := by
  unfold checkEnds
  repeat' (first | with_reducible assumption | exact within_trans rfl hT | with_reducible apply resumeHandovers_keeps | with_reducible apply fenceChan_keeps | with_reducible apply setChan_keeps | with_reducible apply checkPassed_keeps | with_reducible apply Keeps.foldl | intro _ | dsimp only | split)

theorem reportCheck_keeps (i : ℕ) {s : State} (hT : within [.chans, .free] T = true)
    (h : Keeps T s0 s) : Keeps T s0 (reportCheck i s) := by
  unfold reportCheck
  repeat' (first | with_reducible assumption | exact within_trans rfl hT | with_reducible apply sendBlocks_keeps | with_reducible apply Keeps.foldl | intro _ | dsimp only | split | ((fail_if_no_progress (with_reducible apply keeps_mk)); rotate_left; · (intro x hx; cases x <;> first | exact absurd (within_mem hT rfl) hx | exact rfl | exact ⟨rfl, rfl, rfl, rfl, rfl, rfl⟩)))

theorem tellCheck_keeps (i : ℕ) (r : LaneCheck) {s : State} (hT : within [.chans, .free] T = true)
    (h : Keeps T s0 s) : Keeps T s0 (tellCheck i r s) := by
  unfold tellCheck
  repeat' (first | with_reducible assumption | exact within_trans rfl hT | with_reducible apply reportCheck_keeps | with_reducible apply sendBlocks_keeps | with_reducible apply Keeps.foldl | intro _ | dsimp only | split)

theorem chipWalkDone_keeps (i : ℕ) (w : Walk) {s : State} (hT : within [.boot, .dev, .faults, .db, .ports, .cmds, .graphs, .cairn, .chans, .out, .free] T = true)
    (h : Keeps T s0 s) : Keeps T s0 (chipWalkDone i w s) := by
  unfold chipWalkDone
  repeat' (first | with_reducible assumption | exact within_trans rfl hT | with_reducible apply setChan_keeps | with_reducible apply fenceChan_keeps | with_reducible apply Keeps.foldl | intro _ | dsimp only | split)

theorem countMove_keeps (i : ℕ) {s : State} (hT : within [.chans] T = true)
    (h : Keeps T s0 s) : Keeps T s0 (countMove i s) := by
  unfold countMove
  repeat' (first | with_reducible assumption | exact within_trans rfl hT | with_reducible apply setChan_keeps | with_reducible apply Keeps.foldl | intro _ | dsimp only | split)

theorem laneMoves_keeps (n : ℕ) (lane : ℕ) (a : ℕ) (b : ℕ) (slot : ℕ) {s : State} (hT : within [.chans, .links] T = true)
    (h : Keeps T s0 s) : Keeps T s0 (laneMoves n lane a b slot s) := by
  unfold laneMoves
  repeat' (first | with_reducible assumption | exact within_trans rfl hT | with_reducible apply setChan_keeps | with_reducible apply countMove_keeps | with_reducible apply sendBlocks_keeps | with_reducible apply linkSet_keeps | with_reducible apply Keeps.foldl | intro _ | dsimp only | split)

theorem afterMove_keeps (n : ℕ) (m : LaneMove) {s : State} (hT : within [.las, .chans] T = true)
    (h : Keeps T s0 s) : Keeps T s0 (afterMove n m s) := by
  unfold afterMove
  repeat' (first | with_reducible assumption | exact within_trans rfl hT | with_reducible apply linkFreed_keeps | with_reducible apply startCheck_keeps | with_reducible apply Keeps.foldl | intro _ | dsimp only | split)

theorem moveAcked_keeps (n : ℕ) (m : LaneMove) {s : State} (hT : within [.las, .chans, .links] T = true)
    (h : Keeps T s0 s) : Keeps T s0 (moveAcked n m s) := by
  unfold moveAcked
  repeat' (first | with_reducible assumption | exact within_trans rfl hT | with_reducible apply linkSet_keeps | with_reducible apply setChan_keeps | with_reducible apply afterMove_keeps | with_reducible apply countMove_keeps | with_reducible apply Keeps.foldl | intro _ | dsimp only | split)

theorem moveAbandoned_keeps (n : ℕ) (m : LaneMove) {s : State} (hT : within [.boot, .dev, .faults, .db, .ports, .cmds, .graphs, .counts, .cairn, .las, .chans, .links, .fab, .out, .free] T = true)
    (h : Keeps T s0 s) : Keeps T s0 (moveAbandoned n m s) := by
  unfold moveAbandoned
  repeat' (first | with_reducible assumption | exact within_trans rfl hT | with_reducible apply linkSet_keeps | with_reducible apply setChan_keeps | with_reducible apply askWidth_keeps | with_reducible apply Keeps.foldl | intro _ | dsimp only | split)

theorem retireChan_keeps (n : ℕ) (k : ℕ) (dark : Bool) {s : State} (hT : within [.boot, .dev, .faults, .db, .ports, .cmds, .graphs, .counts, .cairn, .las, .chans, .links, .fab, .out, .free] T = true)
    (h : Keeps T s0 s) : Keeps T s0 (retireChan n k dark s) := by
  unfold retireChan
  repeat' (first | with_reducible assumption | exact within_trans rfl hT | with_reducible apply coverChannel_keeps | with_reducible apply startCheck_keeps | with_reducible apply Keeps.foldl | intro _ | dsimp only | split)

theorem judgeUnfit_keeps (i : ℕ) (dark : Bool) {s : State} (hT : within [.boot, .dev, .faults, .db, .ports, .cmds, .graphs, .cairn, .chans, .out, .free] T = true)
    (h : Keeps T s0 s) : Keeps T s0 (judgeUnfit i dark s) := by
  unfold judgeUnfit
  repeat' (first | with_reducible assumption | exact within_trans rfl hT | with_reducible apply laneFault_keeps | with_reducible apply sendBlocks_keeps | with_reducible apply Keeps.foldl | intro _ | dsimp only | split)

end Sys2Proof.Machine
end

