-- ==== Sys2Proof/Laws/PortLane.lean ====
section
/-!
SUPPORT. One lemma for each shared operation of Machine/PortLane.lean: what it keeps of whatever state it is applied to.
The list in a lemma names the areas the operation may change.
-/

set_option linter.unusedTactic false
set_option linter.unreachableTactic false
set_option linter.unusedVariables false

namespace Sys2Proof.Machine

variable {T : List Area} {s0 : State}

theorem portState_keeps (n : ℕ) (st : Train) {s : State} (hT : within [.links] T = true)
    (h : Keeps T s0 s) : Keeps T s0 (portState n st s) := by
  unfold portState
  repeat' (first | with_reducible assumption | exact within_trans rfl hT | with_reducible apply linkSet_keeps | with_reducible apply Keeps.foldl | intro _ | dsimp only | split)

theorem portSend_keeps (n : ℕ) {s : State} (hT : within [.chans, .links, .free] T = true)
    (h : Keeps T s0 s) : Keeps T s0 (portSend n s) := by
  unfold portSend
  repeat' (first | with_reducible assumption | exact within_trans rfl hT | with_reducible apply freshNonce_keeps | with_reducible apply portState_keeps | with_reducible apply setChan_keeps | with_reducible apply linkSet_keeps | with_reducible apply Keeps.foldl | intro _ | dsimp only | split)

theorem portReturns_keeps (n : ℕ) {s : State} (hT : within [.ports, .chans, .links, .free] T = true)
    (h : Keeps T s0 s) : Keeps T s0 (portReturns n s) := by
  unfold portReturns
  repeat' (first | with_reducible assumption | exact within_trans rfl hT | with_reducible apply portSend_keeps | with_reducible apply linkSet_keeps | with_reducible apply setPort_keeps | with_reducible apply Keeps.foldl | intro _ | dsimp only | split | ((fail_if_no_progress (with_reducible apply keeps_mk)); rotate_left; · (intro x hx; cases x <;> first | exact absurd (within_mem hT rfl) hx | exact rfl | exact ⟨rfl, rfl, rfl, rfl, rfl, rfl⟩)))

theorem portNegotiate_keeps (n : ℕ) (x : TrainInput) {s : State} (hT : within [.boot, .dev, .faults, .db, .ports, .cmds, .graphs, .cairn, .chans, .links, .out, .free] T = true)
    (h : Keeps T s0 s) : Keeps T s0 (portNegotiate n x s) := by
  unfold portNegotiate
  repeat' (first | with_reducible assumption | exact within_trans rfl hT | with_reducible apply linkSet_keeps | with_reducible apply portReturns_keeps | with_reducible apply faultC_keeps | with_reducible apply Keeps.foldl | intro _ | dsimp only | split)

theorem nameActive_keeps (n : ℕ) (x : TrainInput) {s : State} (hT : within [.links] T = true)
    (h : Keeps T s0 s) : Keeps T s0 (nameActive n x s) := by
  unfold nameActive
  repeat' (first | with_reducible assumption | exact within_trans rfl hT | with_reducible apply linkSet_keeps | with_reducible apply Keeps.foldl | intro _ | dsimp only | split)

theorem portAdvance_keeps (n : ℕ) (x : TrainInput) {s : State} (hT : within [.boot, .dev, .faults, .db, .ports, .cmds, .graphs, .cairn, .chans, .links, .out, .free] T = true)
    (h : Keeps T s0 s) : Keeps T s0 (portAdvance n x s) := by
  unfold portAdvance
  repeat' (first | with_reducible assumption | exact within_trans rfl hT | with_reducible apply portSend_keeps | with_reducible apply portState_keeps | with_reducible apply linkSet_keeps | with_reducible apply setChan_keeps | with_reducible apply nameActive_keeps | with_reducible apply portNegotiate_keeps | with_reducible apply Keeps.foldl | intro _ | dsimp only | split)

theorem portTimeout_keeps (n : ℕ) {s : State} (hT : within [.boot, .dev, .faults, .db, .ports, .cmds, .graphs, .cairn, .chans, .links, .out, .free] T = true)
    (h : Keeps T s0 s) : Keeps T s0 (portTimeout n s) := by
  unfold portTimeout
  repeat' (first | with_reducible assumption | exact within_trans rfl hT | with_reducible apply portDead_keeps | with_reducible apply portReturns_keeps | with_reducible apply Keeps.foldl | intro _ | dsimp only | split)

theorem portLeavesBivouac_keeps (n : ℕ) {s : State} (hT : within [.ports, .links] T = true)
    (h : Keeps T s0 s) : Keeps T s0 (portLeavesBivouac n s) := by
  unfold portLeavesBivouac
  repeat' (first | with_reducible assumption | exact within_trans rfl hT | with_reducible apply portTrains_keeps | with_reducible apply linkSet_keeps | with_reducible apply Keeps.foldl | intro _ | dsimp only | split)

theorem portDirection_keeps (n : ℕ) (tx : Bool) {s : State} (hT : within [.boot, .dev, .faults, .db, .ports, .cmds, .graphs, .cairn, .chans, .links, .out, .free] T = true)
    (h : Keeps T s0 s) : Keeps T s0 (portDirection n tx s) := by
  unfold portDirection
  repeat' (first | with_reducible assumption | exact within_trans rfl hT | with_reducible apply linkSet_keeps | with_reducible apply portJoins_keeps | with_reducible apply Keeps.foldl | intro _ | dsimp only | split)

theorem portRetrains_keeps (n : ℕ) {s : State} (hT : within [.boot, .dev, .faults, .db, .ports, .cmds, .graphs, .cairn, .chans, .links, .out, .free] T = true)
    (h : Keeps T s0 s) : Keeps T s0 (portRetrains n s) := by
  unfold portRetrains
  repeat' (first | with_reducible assumption | exact within_trans rfl hT | with_reducible apply portSend_keeps | with_reducible apply portTrains_keeps | with_reducible apply portDown_keeps | with_reducible apply Keeps.foldl | intro _ | dsimp only | split)

theorem portTake_keeps (n : ℕ) (b : Bool × Bool × List Byte) {s : State} (hT : within [.boot, .dev, .faults, .db, .ports, .cmds, .graphs, .cairn, .out] T = true)
    (h : Keeps T s0 s) : Keeps T s0 (portTake n b s) := by
  unfold portTake
  repeat' (first | with_reducible assumption | exact within_trans rfl hT | with_reducible apply setPort_keeps | with_reducible apply hostFrame_keeps | with_reducible apply Keeps.foldl | intro _ | dsimp only | split | ((fail_if_no_progress (with_reducible apply keeps_mk)); rotate_left; · (intro x hx; cases x <;> first | exact absurd (within_mem hT rfl) hx | exact rfl | exact ⟨rfl, rfl, rfl, rfl, rfl, rfl⟩)))

end Sys2Proof.Machine
end

