-- ==== Sys2Proof/Laws/LaneTx.lean ====
section
/-!
SUPPORT. One lemma for each shared operation of Machine/LaneTx.lean: what it keeps of whatever state it is applied to.
The list in a lemma names the areas the operation may change.
-/

set_option linter.unusedTactic false
set_option linter.unreachableTactic false
set_option linter.unusedVariables false

namespace Sys2Proof.Machine

variable {T : List Area} {s0 : State}

theorem sendWord_keeps (n : ℕ) (k : ℕ) (w : List ℕ) {s : State} (hT : within [.links, .out] T = true)
    (h : Keeps T s0 s) : Keeps T s0 (sendWord n k w s) := by
  unfold sendWord
  repeat' (first | with_reducible assumption | exact within_trans rfl hT | with_reducible apply emit_keeps | with_reducible apply linkSet_keeps | with_reducible apply Keeps.foldl | intro _ | dsimp only | split)

theorem sendFiller_keeps (n : ℕ) (k : ℕ) (scr : List Bool) {s : State} (hT : within [.chans, .links, .out] T = true)
    (h : Keeps T s0 s) : Keeps T s0 (sendFiller n k scr s) := by
  unfold sendFiller
  repeat' (first | with_reducible assumption | exact within_trans rfl hT | with_reducible apply sendWord_keeps | with_reducible apply setChan_keeps | with_reducible apply Keeps.foldl | intro _ | dsimp only | split)

theorem addShares_keeps (n : ℕ) {s : State} (hT : within [.chans, .links] T = true)
    (h : Keeps T s0 s) : Keeps T s0 (addShares n s) := by
  unfold addShares
  repeat' (first | with_reducible assumption | exact within_trans rfl hT | with_reducible apply setChan_keeps | with_reducible apply linkSet_keeps | with_reducible apply Keeps.foldl | intro _ | dsimp only | split)

theorem sendData_keeps (n : ℕ) (k : ℕ) (bs : List Block) (scr : List Bool) {s : State} (hT : within [.chans, .links, .out] T = true)
    (h : Keeps T s0 s) : Keeps T s0 (sendData n k bs scr s) := by
  unfold sendData
  repeat' (first | with_reducible assumption | exact within_trans rfl hT | with_reducible apply sendWord_keeps | with_reducible apply sendFiller_keeps | with_reducible apply Keeps.foldl | intro _ | dsimp only | split)

theorem sendTest_keeps (n : ℕ) (k : ℕ) (pattern : ℕ) (half : ℕ) {s : State} (hT : within [.chans, .links, .out, .free] T = true)
    (h : Keeps T s0 s) : Keeps T s0 (sendTest n k pattern half s) := by
  unfold sendTest
  repeat' (first | with_reducible assumption | exact within_trans rfl hT | with_reducible apply setChan_keeps | with_reducible apply sendWord_keeps | with_reducible apply useFree_keeps | with_reducible apply sendFiller_keeps | with_reducible apply Keeps.foldl | with_reducible apply Keeps.foldlSnd | intro _ | dsimp only | split)

theorem checkSlot_keeps (n : ℕ) (k : ℕ) (scr : List Bool) (sched : Bool) {s : State} (hT : within [.chans, .links, .out, .free] T = true)
    (h : Keeps T s0 s) : Keeps T s0 (checkSlot n k scr sched s) := by
  unfold checkSlot
  repeat' (first | with_reducible assumption | exact within_trans rfl hT | with_reducible apply sendFiller_keeps | with_reducible apply setChan_keeps | with_reducible apply sendTest_keeps | with_reducible apply sendData_keeps | with_reducible apply Keeps.foldl | intro _ | dsimp only | split)

theorem chanSlot_keeps (n : ℕ) (scr : List Bool) (x3 : State) (k : ℕ) {s : State} (hT : within [.chans, .links, .out, .free] T = true)
    (h : Keeps T s0 s) : Keeps T s0 (chanSlot n scr x3 s k) := by
  unfold chanSlot
  repeat' (first | with_reducible assumption | exact within_trans rfl hT | with_reducible apply checkSlot_keeps | with_reducible apply sendFiller_keeps | with_reducible apply sendWord_keeps | with_reducible apply setChan_keeps | with_reducible apply sendData_keeps | with_reducible apply Keeps.foldl | intro _ | dsimp only | split)

theorem immediateOwed_keeps (n : ℕ) (x2 : State) {s : State} (hT : within [.chans] T = true)
    (h : Keeps T s0 s) : Keeps T s0 (immediateOwed n x2 s) := by
  unfold immediateOwed
  repeat' (first | with_reducible assumption | exact within_trans rfl hT | with_reducible apply setChan_keeps | with_reducible apply Keeps.foldl | intro _ | dsimp only | split)

theorem activeSlot_keeps (n : ℕ) {s : State} (hT : within [.chans, .links, .out, .free] T = true)
    (h : Keeps T s0 s) : Keeps T s0 (activeSlot n s) := by
  unfold activeSlot
  repeat' (first | with_reducible assumption | exact within_trans rfl hT | with_reducible apply wakeTx_keeps | with_reducible apply linkSet_keeps | with_reducible apply addShares_keeps | with_reducible apply immediateOwed_keeps | with_reducible apply chanSlot_keeps | with_reducible apply sendFiller_keeps | with_reducible apply setChan_keeps | with_reducible apply Keeps.foldl | intro _ | dsimp only | split)

theorem trainSlot_keeps (n : ℕ) {s : State} (hT : within [.links, .out] T = true)
    (h : Keeps T s0 s) : Keeps T s0 (trainSlot n s) := by
  unfold trainSlot
  repeat' (first | with_reducible assumption | exact within_trans rfl hT | with_reducible apply sendWord_keeps | with_reducible apply Keeps.foldl | intro _ | dsimp only | split)

theorem testSlot_keeps (n : ℕ) (pattern : ℕ) (half : ℕ) (mask : ℕ) {s : State} (hT : within [.chans, .links, .out, .free] T = true)
    (h : Keeps T s0 s) : Keeps T s0 (testSlot n pattern half mask s) := by
  unfold testSlot
  repeat' (first | with_reducible assumption | exact within_trans rfl hT | with_reducible apply sendFiller_keeps | with_reducible apply sendTest_keeps | with_reducible apply Keeps.foldl | intro _ | dsimp only | split)

theorem nextSlot_keeps (n : ℕ) {s : State} (hT : within [.boot, .dev, .faults, .db, .ports, .cmds, .graphs, .counts, .cairn, .las, .chans, .links, .fab, .out, .free] T = true)
    (h : Keeps T s0 s) : Keeps T s0 (nextSlot n s) := by
  unfold nextSlot
  repeat' (first | with_reducible assumption | exact within_trans rfl hT | with_reducible apply linkSet_keeps | with_reducible apply enterSend_keeps | with_reducible apply Keeps.foldl | intro _ | dsimp only | split)

theorem portSlot_keeps (n : ℕ) {s : State} (hT : within [.boot, .dev, .faults, .db, .ports, .cmds, .graphs, .counts, .cairn, .las, .chans, .links, .fab, .out, .free] T = true)
    (h : Keeps T s0 s) : Keeps T s0 (portSlot n s) := by
  unfold portSlot
  repeat' (first | with_reducible assumption | exact within_trans rfl hT | with_reducible apply nextSlot_keeps | with_reducible apply activeSlot_keeps | with_reducible apply linkSet_keeps | with_reducible apply setPort_keeps | with_reducible apply trainSlot_keeps | with_reducible apply Keeps.foldl | intro _ | dsimp only | split | ((fail_if_no_progress (with_reducible apply keeps_mk)); rotate_left; · (intro x hx; cases x <;> first | exact absurd (within_mem hT rfl) hx | exact rfl | exact ⟨rfl, rfl, rfl, rfl, rfl, rfl⟩)))

theorem lockLost_keeps (inst : ℕ) {s : State} (hT : within [.boot, .dev, .faults, .db, .ports, .cmds, .graphs, .cairn, .chans, .links, .out, .free] T = true)
    (h : Keeps T s0 s) : Keeps T s0 (lockLost inst s) := by
  unfold lockLost
  repeat' (first | with_reducible assumption | exact within_trans rfl hT | with_reducible apply setChan_keeps | with_reducible apply portDown_keeps | with_reducible apply linkSet_keeps | with_reducible apply judgeUnfit_keeps | with_reducible apply askRetrain_keeps | with_reducible apply Keeps.foldl | intro _ | dsimp only | split)

theorem bindLanes_keeps (side : ℕ → ℕ) (ks : List ℕ) {s : State} (hT : within [.chans] T = true)
    (h : Keeps T s0 s) : Keeps T s0 (bindLanes side ks s) := by
  unfold bindLanes
  repeat' (first | with_reducible assumption | exact within_trans rfl hT | with_reducible apply setChan_keeps | with_reducible apply Keeps.foldl | intro _ | dsimp only | split)

theorem settleStates_keeps (side : ℕ → ℕ) (w : ℕ) {s : State} (hT : within [.chans] T = true)
    (h : Keeps T s0 s) : Keeps T s0 (settleStates side w s) := by
  unfold settleStates
  repeat' (first | with_reducible assumption | exact within_trans rfl hT | with_reducible apply setChan_keeps | with_reducible apply Keeps.foldl | intro _ | dsimp only | split)

theorem holdBivouac_keeps (n : ℕ) {s : State} (hT : within [.boot, .dev, .faults, .db, .ports, .cmds, .graphs, .counts, .cairn, .las, .chans, .links, .fab, .out, .free] T = true)
    (h : Keeps T s0 s) : Keeps T s0 (holdBivouac n s) := by
  unfold holdBivouac
  repeat' (first | with_reducible assumption | exact within_trans rfl hT | with_reducible apply enterTrain_keeps | with_reducible apply linkSet_keeps | with_reducible apply Keeps.foldl | intro _ | dsimp only | split)

theorem negotiate_keeps (n : ℕ) (x : TrainInput) {s : State} (hT : within [.boot, .dev, .faults, .db, .ports, .cmds, .graphs, .counts, .cairn, .las, .chans, .links, .fab, .out, .free] T = true)
    (h : Keeps T s0 s) : Keeps T s0 (negotiate n x s) := by
  unfold negotiate
  repeat' (first | with_reducible assumption | exact within_trans rfl hT | with_reducible apply linkSet_keeps | with_reducible apply holdBivouac_keeps | with_reducible apply faultCOpen_keeps | with_reducible apply faultUOpen_keeps | with_reducible apply linkDark_keeps | with_reducible apply Keeps.foldl | intro _ | dsimp only | split)

theorem restoreChan_keeps (i : ℕ) {s : State} (hT : within [.faults, .chans] T = true)
    (h : Keeps T s0 s) : Keeps T s0 (restoreChan i s) := by
  unfold restoreChan
  repeat' (first | with_reducible assumption | exact within_trans rfl hT | with_reducible apply fenceDrop_keeps | with_reducible apply setChan_keeps | with_reducible apply Keeps.foldl | intro _ | dsimp only | split)

theorem leaveOut_keeps (n : ℕ) (kept : List ℕ) {s : State} (hT : within [.boot, .dev, .faults, .db, .ports, .cmds, .graphs, .cairn, .out, .free] T = true)
    (h : Keeps T s0 s) : Keeps T s0 (leaveOut n kept s) := by
  unfold leaveOut
  repeat' (first | with_reducible assumption | exact within_trans rfl hT | with_reducible apply laneFault_keeps | with_reducible apply Keeps.foldl | intro _ | dsimp only | split)

theorem advance_keeps (n : ℕ) (x : TrainInput) {s : State} (hT : within [.boot, .dev, .faults, .db, .ports, .cmds, .graphs, .counts, .cairn, .las, .chans, .links, .fab, .out, .free] T = true)
    (h : Keeps T s0 s) : Keeps T s0 (advance n x s) := by
  unfold advance
  repeat' (first | with_reducible assumption | exact within_trans rfl hT | with_reducible apply enterTrain_keeps | with_reducible apply restoreChan_keeps | with_reducible apply enterSend_keeps | with_reducible apply linkSet_keeps | with_reducible apply leaveOut_keeps | with_reducible apply setChan_keeps | with_reducible apply bindLanes_keeps | with_reducible apply nameActive_keeps | with_reducible apply negotiate_keeps | with_reducible apply Keeps.foldl | intro _ | dsimp only | split)

theorem joinGroup_keeps (n : ℕ) (wasUp : Bool) {s : State} (hT : within [.dev, .faults, .db, .ports, .cmds, .counts, .chans, .links, .fab, .out] T = true)
    (h : Keeps T s0 s) : Keeps T s0 (joinGroup n wasUp s) := by
  unfold joinGroup
  repeat' (first | with_reducible assumption | exact within_trans rfl hT | with_reducible apply linkSet_keeps | with_reducible apply fenceDrop_keeps | with_reducible apply groupRestart_keeps | with_reducible apply groupPump_keeps | with_reducible apply refreshDegraded_keeps | with_reducible apply narrowOptical_keeps | with_reducible apply Keeps.foldl | intro _ | dsimp only | split)

theorem retrainSeen_keeps (n : ℕ) (block : Bool) {s : State} (hT : within [.boot, .dev, .faults, .db, .ports, .cmds, .graphs, .counts, .cairn, .las, .chans, .links, .fab, .out, .free] T = true)
    (h : Keeps T s0 s) : Keeps T s0 (retrainSeen n block s) := by
  unfold retrainSeen
  repeat' (first | with_reducible assumption | exact within_trans rfl hT | with_reducible apply portRetrains_keeps | with_reducible apply enterSend_keeps | with_reducible apply Keeps.foldl | intro _ | dsimp only | split)

theorem announceSleep_keeps (n : ℕ) (slot : ℕ) {s : State} (hT : within [.chans, .links] T = true)
    (h : Keeps T s0 s) : Keeps T s0 (announceSleep n slot s) := by
  unfold announceSleep
  repeat' (first | with_reducible assumption | exact within_trans rfl hT | with_reducible apply sendBlocks_keeps | with_reducible apply linkSet_keeps | with_reducible apply Keeps.foldl | intro _ | dsimp only | split)

theorem beaconSeen_keeps (n : ℕ) (k : ℕ) (slot : ℕ) {s : State} (hT : within [.chans, .links] T = true)
    (h : Keeps T s0 s) : Keeps T s0 (beaconSeen n k slot s) := by
  unfold beaconSeen
  repeat' (first | with_reducible assumption | exact within_trans rfl hT | with_reducible apply setChan_keeps | with_reducible apply linkSet_keeps | with_reducible apply Keeps.foldl | intro _ | dsimp only | split)

theorem testStarts_keeps (i : ℕ) (pattern : ℕ) {s : State} (hT : within [.chans] T = true)
    (h : Keeps T s0 s) : Keeps T s0 (testStarts i pattern s) := by
  unfold testStarts
  repeat' (first | with_reducible assumption | exact within_trans rfl hT | with_reducible apply setChan_keeps | with_reducible apply Keeps.foldl | intro _ | dsimp only | split)

theorem testEnds_keeps (i : ℕ) {s : State} (hT : within [.chans] T = true)
    (h : Keeps T s0 s) : Keeps T s0 (testEnds i s) := by
  unfold testEnds
  repeat' (first | with_reducible assumption | exact within_trans rfl hT | with_reducible apply setChan_keeps | with_reducible apply Keeps.foldl | intro _ | dsimp only | split)

theorem startTest_keeps (n : ℕ) (pattern : ℕ) (half : ℕ) (mask : ℕ) (until_ : ℕ) {s : State} (hT : within [.boot, .dev, .faults, .db, .ports, .cmds, .graphs, .counts, .cairn, .las, .chans, .links, .fab, .out, .free] T = true)
    (h : Keeps T s0 s) : Keeps T s0 (startTest n pattern half mask until_ s) := by
  unfold startTest
  repeat' (first | with_reducible assumption | exact within_trans rfl hT | with_reducible apply enterTrain_keeps | with_reducible apply linkSet_keeps | with_reducible apply testStarts_keeps | with_reducible apply setChan_keeps | with_reducible apply sendBlocks_keeps | with_reducible apply lightChiplet_keeps | with_reducible apply Keeps.foldl | intro _ | dsimp only | split)

theorem sendWidthAck_keeps (n : ℕ) (w : WidthChange) {s : State} (hT : within [.faults, .counts, .links, .out] T = true)
    (h : Keeps T s0 s) : Keeps T s0 (sendWidthAck n w s) := by
  unfold sendWidthAck
  repeat' (first | with_reducible assumption | exact within_trans rfl hT | with_reducible apply placeFlit_keeps | with_reducible apply Keeps.foldl | intro _ | dsimp only | split)

theorem widthAsked_keeps (n : ℕ) (r : WidthMsg) {s : State} (hT : within [.boot, .dev, .faults, .db, .ports, .cmds, .graphs, .counts, .cairn, .las, .chans, .links, .fab, .out, .free] T = true)
    (h : Keeps T s0 s) : Keeps T s0 (widthAsked n r s) := by
  unfold widthAsked
  repeat' (first | with_reducible assumption | exact within_trans rfl hT | with_reducible apply linkDark_keeps | with_reducible apply sendWidthAck_keeps | with_reducible apply linkSet_keeps | with_reducible apply Keeps.foldl | intro _ | dsimp only | split)

theorem widthAnswered_keeps (n : ℕ) (r : WidthMsg) {s : State} (hT : within [.links] T = true)
    (h : Keeps T s0 s) : Keeps T s0 (widthAnswered n r s) := by
  unfold widthAnswered
  repeat' (first | with_reducible assumption | exact within_trans rfl hT | with_reducible apply linkSet_keeps | with_reducible apply Keeps.foldl | intro _ | dsimp only | split)

theorem afterExclusion_keeps (n : ℕ) (k : ℕ) {s : State} (hT : within [.las, .chans] T = true)
    (h : Keeps T s0 s) : Keeps T s0 (afterExclusion n k s) := by
  unfold afterExclusion
  repeat' (first | with_reducible assumption | exact within_trans rfl hT | with_reducible apply linkFreed_keeps | with_reducible apply startCheck_keeps | with_reducible apply Keeps.foldl | intro _ | dsimp only | split)

theorem switchWidth_keeps (n : ℕ) (w : WidthChange) {s : State} (hT : within [.dev, .faults, .db, .ports, .cmds, .counts, .las, .chans, .links, .fab, .out] T = true)
    (h : Keeps T s0 s) : Keeps T s0 (switchWidth n w s) := by
  unfold switchWidth
  repeat' (first | with_reducible assumption | exact within_trans rfl hT | with_reducible apply linkSet_keeps | with_reducible apply bindLanes_keeps | with_reducible apply afterExclusion_keeps | with_reducible apply settleStates_keeps | with_reducible apply groupPump_keeps | with_reducible apply refreshDegraded_keeps | with_reducible apply countLink_keeps | with_reducible apply Keeps.foldl | intro _ | dsimp only | split)

end Sys2Proof.Machine
end

