-- ==== Sys2Proof/Laws/Lines.lean ====
section
/-!
SUPPORT. One lemma for each shared operation of Machine/Lines.lean: what it keeps of whatever state it is applied to.
The list in a lemma names the areas the operation may change.
-/

set_option linter.unusedTactic false
set_option linter.unreachableTactic false
set_option linter.unusedVariables false

namespace Sys2Proof.Machine

variable {T : List Area} {s0 : State}

theorem sendLine_keeps (a : ℕ) (kind : ℕ) {s : State} (hT : within [.out] T = true)
    (h : Keeps T s0 s) : Keeps T s0 (sendLine a kind s) := by
  unfold sendLine
  repeat' (first | with_reducible assumption | exact within_trans rfl hT | with_reducible apply emit_keeps | with_reducible apply Keeps.foldl | intro _ | dsimp only | split)

theorem deliverLine_keeps (a : ℕ) (k : ℕ) (ch : ℕ) {s : State} (hT : within [.faults, .out] T = true)
    (h : Keeps T s0 s) : Keeps T s0 (deliverLine a k ch s) := by
  unfold deliverLine
  repeat' (first | with_reducible assumption | exact within_trans rfl hT | with_reducible apply emit_keeps | with_reducible apply forcedDone_keeps | with_reducible apply sendLine_keeps | with_reducible apply Keeps.foldl | intro _ | dsimp only | split)

theorem readOutside_keeps (a : ℕ) (r : Requester) {s : State} (hT : within [.boot, .dev, .faults, .db, .ports, .cmds, .graphs, .cairn, .out, .free] T = true)
    (h : Keeps T s0 s) : Keeps T s0 (readOutside a r s) := by
  unfold readOutside
  repeat' (first | with_reducible assumption | exact within_trans rfl hT | with_reducible apply emit_keeps | with_reducible apply faultDOpen_keeps | with_reducible apply Keeps.foldl | intro _ | dsimp only | split)

theorem dirWrite_keeps (a : ℕ) (q : DirReq) {s : State} (hT : within [.bytes, .counts] T = true)
    (h : Keeps T s0 s) : Keeps T s0 (dirWrite a q s) := by
  unfold dirWrite
  repeat' (first | with_reducible assumption | exact within_trans rfl hT | with_reducible apply countStack_keeps | with_reducible apply writeLine_keeps | with_reducible apply Keeps.foldl | intro _ | dsimp only | split)

theorem dirWait_keeps (a : ℕ) (inval : Bool) (q : DirReq) {s : State} (hT : within [.memCtl] T = true)
    (h : Keeps T s0 s) : Keeps T s0 (dirWait a inval q s) := by
  unfold dirWait
  repeat' (first | with_reducible assumption | with_reducible apply Keeps.foldl | intro _ | dsimp only | split | ((fail_if_no_progress (with_reducible apply keeps_mk)); rotate_left; · (intro x hx; cases x <;> first | exact absurd (within_mem hT rfl) hx | exact rfl | exact ⟨rfl, rfl, rfl, rfl, rfl, rfl⟩)) | ((fail_if_no_progress (with_reducible apply keeps_mkMem)); rotate_left; · (intro x hx; cases x <;> first | exact absurd (within_mem hT rfl) hx | exact rfl | exact ⟨rfl, rfl, rfl, rfl, rfl, rfl⟩)))

theorem countSeam_keeps (a : ℕ) {s : State} (hT : within [.counts] T = true)
    (h : Keeps T s0 s) : Keeps T s0 (countSeam a s) := by
  unfold countSeam
  repeat' (first | with_reducible assumption | exact within_trans rfl hT | with_reducible apply countStack_keeps | with_reducible apply Keeps.foldl | intro _ | dsimp only | split)

theorem dirHandle_keeps (a : ℕ) (q : DirReq) {s : State} (hT : within [.bytes, .memCtl, .counts, .out, .free] T = true)
    (h : Keeps T s0 s) : Keeps T s0 (dirHandle a q s) := by
  unfold dirHandle
  repeat' (first | with_reducible assumption | exact within_trans rfl hT | with_reducible apply sendLine_keeps | with_reducible apply fetchLine_keeps | with_reducible apply countSeam_keeps | with_reducible apply cacheSet_keeps | with_reducible apply dirSet_keeps | with_reducible apply countStack_keeps | with_reducible apply writeLine_keeps | with_reducible apply dirWait_keeps | with_reducible apply dirWrite_keeps | with_reducible apply Keeps.foldl | intro _ | dsimp only | split)

theorem dirResume_keeps (a k : Nat) {s : State} (hT : within [.bytes, .memCtl, .counts, .out, .free] T = true)
    (h : Keeps T s0 s) : Keeps T s0 (dirResume a k s) := by
  induction k generalizing s with
  | zero => exact h
  | succ k ih =>
    unfold dirResume
    split
    · exact h
    · split
      · exact h
      · dsimp only
        split
        · exact dirHandle_keeps _ _ (within_trans rfl hT) (keeps_mkMem h (by intro x hx; cases x <;> first | exact absurd (within_mem hT rfl) hx | exact rfl | exact ⟨rfl, rfl, rfl, rfl, rfl, rfl⟩))
        · exact ih (dirHandle_keeps _ _ (within_trans rfl hT) (keeps_mkMem h (by intro x hx; cases x <;> first | exact absurd (within_mem hT rfl) hx | exact rfl | exact ⟨rfl, rfl, rfl, rfl, rfl, rfl⟩)))

theorem dirServe_keeps (a : ℕ) (r : Recall) {s : State} (hT : within [.bytes, .memCtl, .counts, .out] T = true)
    (h : Keeps T s0 s) : Keeps T s0 (dirServe a r s) := by
  unfold dirServe
  repeat' (first | with_reducible assumption | exact within_trans rfl hT | with_reducible apply cacheSet_keeps | with_reducible apply dirSet_keeps | with_reducible apply dirWrite_keeps | with_reducible apply sendLine_keeps | with_reducible apply countStack_keeps | with_reducible apply Keeps.foldl | intro _ | dsimp only | split)

theorem caughtUp_keeps (stack : ℕ) (key : ℕ) {s : State} (hT : within [.stk] T = true)
    (h : Keeps T s0 s) : Keeps T s0 (caughtUp stack key s) := by
  unfold caughtUp
  repeat' (first | with_reducible assumption | with_reducible apply Keeps.foldl | intro _ | dsimp only | split | ((fail_if_no_progress (with_reducible apply keeps_mk)); rotate_left; · (intro x hx; cases x <;> first | exact absurd (within_mem hT rfl) hx | exact rfl | exact ⟨rfl, rfl, rfl, rfl, rfl, rfl⟩)))

theorem scrubRow_keeps (k : ℕ) (row : ℕ × ℕ × ℕ) {s : State} (hT : within [.stk] T = true)
    (h : Keeps T s0 s) : Keeps T s0 (scrubRow k row s) := by
  unfold scrubRow
  repeat' (first | with_reducible assumption | exact within_trans rfl hT | with_reducible apply rowDue_keeps | with_reducible apply Keeps.foldl | intro _ | dsimp only | split | ((fail_if_no_progress (with_reducible apply keeps_mk)); rotate_left; · (intro x hx; cases x <;> first | exact absurd (within_mem hT rfl) hx | exact rfl | exact ⟨rfl, rfl, rfl, rfl, rfl, rfl⟩)))

theorem scrubNext_keeps (k : ℕ) {s : State} (hT : within [.stk] T = true)
    (h : Keeps T s0 s) : Keeps T s0 (scrubNext k s) := by
  unfold scrubNext
  repeat' (first | with_reducible assumption | with_reducible apply Keeps.foldl | intro _ | dsimp only | split | ((fail_if_no_progress (with_reducible apply keeps_mk)); rotate_left; · (intro x hx; cases x <;> first | exact absurd (within_mem hT rfl) hx | exact rfl | exact ⟨rfl, rfl, rfl, rfl, rfl, rfl⟩)))

theorem scrubPromote_keeps (k : ℕ) {s : State} (hT : within [.stk, .counts, .therm] T = true)
    (h : Keeps T s0 s) : Keeps T s0 (scrubPromote k s) := by
  unfold scrubPromote
  repeat' (first | with_reducible assumption | exact within_trans rfl hT | with_reducible apply promote_keeps | with_reducible apply countStack_keeps | with_reducible apply Keeps.foldl | intro _ | dsimp only | split | ((fail_if_no_progress (with_reducible apply keeps_mk)); rotate_left; · (intro x hx; cases x <;> first | exact absurd (within_mem hT rfl) hx | exact rfl | exact ⟨rfl, rfl, rfl, rfl, rfl, rfl⟩)))

theorem scrubDecode_keeps (stack : ℕ) (b : BadSymbols) {s : State} (hT : within [.boot, .dev, .faults, .db, .ports, .cmds, .graphs, .bytes, .stk, .counts, .cairn, .out] T = true)
    (h : Keeps T s0 s) : Keeps T s0 (scrubDecode stack b s) := by
  unfold scrubDecode
  repeat' (first | with_reducible assumption | exact within_trans rfl hT | with_reducible apply decodeLine_keeps | with_reducible apply Keeps.foldl | intro _ | dsimp only | split)

theorem scrubMark_keeps (stack : ℕ) (b : BadSymbols) (row : ℕ × ℕ × ℕ) {s : State} (hT : within [.stk] T = true)
    (h : Keeps T s0 s) : Keeps T s0 (scrubMark stack b row s) := by
  unfold scrubMark
  repeat' (first | with_reducible assumption | exact within_trans rfl hT | with_reducible apply rowDue_keeps | with_reducible apply scrubRow_keeps | with_reducible apply Keeps.foldl | intro _ | dsimp only | split)

theorem failStack_keeps (k : ℕ) (ch : ℕ) (phy : Bool) {s : State} (hT : within [.boot, .dev, .faults, .db, .ports, .cmds, .graphs, .memCtl, .stk, .cairn, .out] T = true)
    (h : Keeps T s0 s) : Keeps T s0 (failStack k ch phy s) := by
  unfold failStack
  repeat' (first | with_reducible assumption | exact within_trans rfl hT | with_reducible apply refreshDegraded_keeps | with_reducible apply faultU_keeps | with_reducible apply Keeps.foldl | intro _ | dsimp only | split | ((fail_if_no_progress (with_reducible apply keeps_mk)); rotate_left; · (intro x hx; cases x <;> first | exact absurd (within_mem hT rfl) hx | exact rfl | exact ⟨rfl, rfl, rfl, rfl, rfl, rfl⟩)) | ((fail_if_no_progress (with_reducible apply keeps_mkMem)); rotate_left; · (intro x hx; cases x <;> first | exact absurd (within_mem hT rfl) hx | exact rfl | exact ⟨rfl, rfl, rfl, rfl, rfl, rfl⟩)))

theorem sweepLost_keeps {s : State} (hT : within [.bytes, .memCtl] T = true)
    (h : Keeps T s0 s) : Keeps T s0 (sweepLost s) := by
  unfold sweepLost
  split
  · exact h
  · generalize lostRange s = r
    obtain ⟨lo, hi⟩ := r
    refine Keeps.upd h rfl (fun w => ?_) (leaf_same rfl) ?_
    · simp only [Memory.wf_iff] at w ⊢
      exact ⟨tabWf_tclear 0 _ _ w.1, w.2.1, w.2.2.1, rwf_radd _ _ _ w.2.2.2.1, w.2.2.2.2⟩
    · intro x hx; cases x <;> first | exact absurd (within_mem hT rfl) hx | exact rfl | exact ⟨rfl, rfl, rfl, rfl, rfl, rfl⟩

end Sys2Proof.Machine
end

