-- ==== Sys2Proof/Laws/Flanks.lean ====
section
/-!
SUPPORT. One lemma for each shared operation of Machine/Flanks.lean: what it keeps of whatever state it is applied to.
The list in a lemma names the areas the operation may change.
-/

set_option linter.unusedTactic false
set_option linter.unreachableTactic false
set_option linter.unusedVariables false

namespace Sys2Proof.Machine

variable {T : List Area} {s0 : State}

theorem restartCompute_keeps (f : Flank) {s : State} (hT : within [.ports, .bytes, .comp, .fab] T = true)
    (h : Keeps T s0 s) : Keeps T s0 (restartCompute f s) := by
  refine Keeps.upd h rfl (fun w => ?_) (leaf_same rfl) ?_
  · simp only [Memory.wf_iff] at w ⊢
    exact ⟨w.1, tabWf_tclear 0 _ _ w.2.1, tabWf_tclear 0 _ _ w.2.2.1, w.2.2.2.1, rwf_rsub _ _ _ w.2.2.2.2.1,
      rwf_rsub _ _ _ w.2.2.2.2.2⟩
  · intro x hx; cases x <;> first | exact absurd (within_mem hT rfl) hx | exact rfl | exact ⟨rfl, rfl, rfl, rfl, rfl, rfl⟩

theorem clearFirmwareEnds_keeps {s : State} (hT : within [.comp] T = true)
    (h : Keeps T s0 s) : Keeps T s0 (clearFirmwareEnds s) := by
  unfold clearFirmwareEnds
  repeat' (first | with_reducible assumption | with_reducible apply Keeps.foldl | intro _ | dsimp only | split | ((fail_if_no_progress (with_reducible apply keeps_mk)); rotate_left; · (intro x hx; cases x <;> first | exact absurd (within_mem hT rfl) hx | exact rfl | exact ⟨rfl, rfl, rfl, rfl, rfl, rfl⟩)))

theorem markStale_keeps (lo : ℕ) (hi : ℕ) {s : State} (hT : within [.graphs] T = true)
    (h : Keeps T s0 s) : Keeps T s0 (markStale lo hi s) := by
  unfold markStale
  repeat' (first | with_reducible assumption | with_reducible apply Keeps.foldl | intro _ | dsimp only | split | ((fail_if_no_progress (with_reducible apply keeps_mk)); rotate_left; · (intro x hx; cases x <;> first | exact absurd (within_mem hT rfl) hx | exact rfl | exact ⟨rfl, rfl, rfl, rfl, rfl, rfl⟩)))

theorem answerWaiting_keeps (f : Flank) {s : State} (hT : within [.bytes, .memCtl, .counts, .out] T = true)
    (h : Keeps T s0 s) : Keeps T s0 (answerWaiting f s) := by
  unfold answerWaiting
  repeat' (first | with_reducible assumption | exact within_trans rfl hT | with_reducible apply emit_keeps | with_reducible apply sendLine_keeps | with_reducible apply dirWrite_keeps | with_reducible apply Keeps.foldl | intro _ | dsimp only | split | ((fail_if_no_progress (with_reducible apply keeps_mk)); rotate_left; · (intro x hx; cases x <;> first | exact absurd (within_mem hT rfl) hx | exact rfl | exact ⟨rfl, rfl, rfl, rfl, rfl, rfl⟩)) | ((fail_if_no_progress (with_reducible apply keeps_mkMem)); rotate_left; · (intro x hx; cases x <;> first | exact absurd (within_mem hT rfl) hx | exact rfl | exact ⟨rfl, rfl, rfl, rfl, rfl, rfl⟩)))

theorem loseMemory_keeps (f : Flank) {s : State} (hT : within [.graphs, .bytes, .memCtl, .counts, .out] T = true)
    (h : Keeps T s0 s) : Keeps T s0 (loseMemory f s) := by
  unfold loseMemory
  repeat' (first | with_reducible assumption | exact within_trans rfl hT | with_reducible apply dramTaint_keeps | with_reducible apply dirSet_keeps | with_reducible apply answerWaiting_keeps | with_reducible apply markStale_keeps | with_reducible apply Keeps.foldl | intro _ | dsimp only | split | ((fail_if_no_progress (with_reducible apply keeps_mk)); rotate_left; · (intro x hx; cases x <;> first | exact absurd (within_mem hT rfl) hx | exact rfl | exact ⟨rfl, rfl, rfl, rfl, rfl, rfl⟩)) | ((fail_if_no_progress (with_reducible apply keeps_mkMem)); rotate_left; · (intro x hx; cases x <;> first | exact absurd (within_mem hT rfl) hx | exact rfl | exact ⟨rfl, rfl, rfl, rfl, rfl, rfl⟩)))

theorem linkDown_keeps (n : ℕ) {s : State} (hT : within [.boot, .dev, .faults, .db, .ports, .cmds, .graphs, .counts, .cairn, .las, .chans, .links, .fab, .out, .free] T = true)
    (h : Keeps T s0 s) : Keeps T s0 (linkDown n s) := by
  unfold linkDown
  repeat' (first | with_reducible assumption | exact within_trans rfl hT | with_reducible apply leaveLink_keeps | with_reducible apply lightChiplet_keeps | with_reducible apply refreshDegraded_keeps | with_reducible apply linkSet_keeps | with_reducible apply Keeps.foldl | intro _ | dsimp only | split)

theorem moduleClockLost_keeps (m : ℕ) {s : State} (hT : within [.d2d] T = true)
    (h : Keeps T s0 s) : Keeps T s0 (moduleClockLost m s) := by
  unfold moduleClockLost
  repeat' (first | with_reducible assumption | exact within_trans rfl hT | with_reducible apply modSet_keeps | with_reducible apply Keeps.foldl | intro _ | dsimp only | split)

theorem flankOut_keeps (f : Flank) (ph : FlankPhase) {s : State} (hT : within [.boot, .dev, .faults, .db, .locks, .ports, .cmds, .graphs, .bytes, .memCtl, .counts, .comp, .cairn, .las, .chans, .links, .fab, .d2d, .out, .free] T = true)
    (h : Keeps T s0 s) : Keeps T s0 (flankOut f ph s) := by
  unfold flankOut
  repeat' (first | with_reducible assumption | exact within_trans rfl hT | with_reducible apply mapRunning_keeps | with_reducible apply setFlank_keeps | with_reducible apply refreshDegraded_keeps | with_reducible apply loseMemory_keeps | with_reducible apply restartCompute_keeps | with_reducible apply linkDown_keeps | with_reducible apply moduleClockLost_keeps | with_reducible apply releaseLocks_keeps | with_reducible apply enterFaulted_keeps | with_reducible apply Keeps.foldl | intro _ | dsimp only | split)

theorem fenceFlank_keeps (f : Flank) {s : State} (hT : within [.boot, .dev, .faults, .db, .locks, .ports, .cmds, .graphs, .bytes, .memCtl, .counts, .comp, .cairn, .las, .chans, .links, .fab, .d2d, .out, .free] T = true)
    (h : Keeps T s0 s) : Keeps T s0 (fenceFlank f s) := by
  unfold fenceFlank
  repeat' (first | with_reducible assumption | exact within_trans rfl hT | with_reducible apply flankOut_keeps | with_reducible apply faultUOpen_keeps | with_reducible apply Keeps.foldl | intro _ | dsimp only | split)

end Sys2Proof.Machine
end

