-- ==== Sys2Proof/Laws/Heat.lean ====
section
/-!
SUPPORT. One lemma for each shared operation of Machine/Heat.lean: what it keeps of whatever state it is applied to.
The list in a lemma names the areas the operation may change.
-/

set_option linter.unusedTactic false
set_option linter.unreachableTactic false
set_option linter.unusedVariables false

namespace Sys2Proof.Machine

variable {T : List Area} {s0 : State}

theorem setReq_keeps (d : Domain) (r : Request) {s : State} (hT : within [.therm] T = true)
    (h : Keeps T s0 s) : Keeps T s0 (setReq d r s) := by
  unfold setReq
  repeat' (first | with_reducible assumption | with_reducible apply Keeps.foldl | intro _ | dsimp only | split | ((fail_if_no_progress (with_reducible apply keeps_mk)); rotate_left; · (intro x hx; cases x <;> first | exact absurd (within_mem hT rfl) hx | exact rfl | exact ⟨rfl, rfl, rfl, rfl, rfl, rfl⟩)))

theorem setStep_keeps (d : Domain) (f : Flank) (n : ℕ) {s : State} (hT : within [.therm] T = true)
    (h : Keeps T s0 s) : Keeps T s0 (setStep d f n s) := by
  unfold setStep
  repeat' (first | with_reducible assumption | exact within_trans rfl hT | with_reducible apply setReq_keeps | with_reducible apply Keeps.foldl | intro _ | dsimp only | split)

theorem moveRail_keeps (f : Flank) {s : State} (hT : within [.comp, .therm, .out] T = true)
    (h : Keeps T s0 s) : Keeps T s0 (moveRail f s) := by
  unfold moveRail
  repeat' (first | with_reducible assumption | exact within_trans rfl hT | with_reducible apply emit_keeps | with_reducible apply setFlankPower_keeps | with_reducible apply Keeps.foldl | intro _ | dsimp only | split)

theorem applyStop_keeps (f : Flank) {s : State} (hT : within [.counts, .comp, .therm] T = true)
    (h : Keeps T s0 s) : Keeps T s0 (applyStop f s) := by
  unfold applyStop
  repeat' (first | with_reducible assumption | exact within_trans rfl hT | with_reducible apply stopGate_keeps | with_reducible apply setFlankPower_keeps | with_reducible apply wakeCluster_keeps | with_reducible apply Keeps.foldl | intro _ | dsimp only | split)

theorem applyLimits_keeps (f : Flank) {s : State} (hT : within [.counts, .comp, .therm, .out] T = true)
    (h : Keeps T s0 s) : Keeps T s0 (applyLimits f s) := by
  unfold applyLimits
  repeat' (first | with_reducible assumption | exact within_trans rfl hT | with_reducible apply applyStop_keeps | with_reducible apply moveRail_keeps | with_reducible apply setFlankPower_keeps | with_reducible apply Keeps.foldl | intro _ | dsimp only | split)

theorem applyBoth_keeps {s : State} (hT : within [.counts, .comp, .therm, .out] T = true)
    (h : Keeps T s0 s) : Keeps T s0 (applyBoth s) := by
  unfold applyBoth
  repeat' (first | with_reducible assumption | exact within_trans rfl hT | with_reducible apply applyLimits_keeps | with_reducible apply Keeps.foldl | intro _ | dsimp only | split)

theorem trackLow_keeps {s : State} (hT : within [.therm] T = true)
    (h : Keeps T s0 s) : Keeps T s0 (trackLow s) := by
  unfold trackLow
  repeat' (first | with_reducible assumption | with_reducible apply Keeps.foldl | intro _ | dsimp only | split | ((fail_if_no_progress (with_reducible apply keeps_mk)); rotate_left; · (intro x hx; cases x <;> first | exact absurd (within_mem hT rfl) hx | exact rfl | exact ⟨rfl, rfl, rfl, rfl, rfl, rfl⟩)))

theorem limChange_keeps (p : Point) (r : ℕ) {s : State} (hT : within [.counts, .comp, .therm, .out] T = true)
    (h : Keeps T s0 s) : Keeps T s0 (limChange p r s) := by
  unfold limChange
  repeat' (first | with_reducible assumption | exact within_trans rfl hT | with_reducible apply applyBoth_keeps | with_reducible apply Keeps.foldl | intro _ | dsimp only | split | ((fail_if_no_progress (with_reducible apply keeps_mk)); rotate_left; · (intro x hx; cases x <;> first | exact absurd (within_mem hT rfl) hx | exact rfl | exact ⟨rfl, rfl, rfl, rfl, rfl, rfl⟩)))

theorem limiterMove_keeps (compute : ℕ) (rest : ℕ) {s : State} (hT : within [.counts, .comp, .therm, .out] T = true)
    (h : Keeps T s0 s) : Keeps T s0 (limiterMove compute rest s) := by
  unfold limiterMove
  dsimp only
  refine keeps_ite (keeps_ite (keeps_ite ?_ h) (limChange_keeps _ _ (within_trans rfl hT) h)) (keeps_ite (keeps_ite (limChange_keeps _ _ (within_trans rfl hT) h)
    (keeps_ite (limChange_keeps _ _ (within_trans rfl hT) h) h)) h)
  have k := limChange_keeps (s := s) (Point.lower s.therm.limPoint (topPoint s)).down s.therm.limRate (within_trans rfl hT) h
  generalize limChange (Point.lower s.therm.limPoint (topPoint s)).down s.therm.limRate s = s1 at k
  exact keeps_mk k (by intro x hx; cases x <;> first | exact absurd (within_mem hT rfl) hx | exact rfl | exact ⟨rfl, rfl, rfl, rfl, rfl, rfl⟩)

theorem lightBand_keeps (f : Flank) {s : State} (hT : within [.counts, .comp, .banks, .therm, .out] T = true)
    (h : Keeps T s0 s) : Keeps T s0 (lightBand f s) := by
  unfold lightBand
  repeat' (first | with_reducible assumption | exact within_trans rfl hT | with_reducible apply setFlankPower_keeps | with_reducible apply applyLimits_keeps | with_reducible apply Keeps.foldl | intro _ | dsimp only | split | ((fail_if_no_progress (with_reducible apply keeps_mk)); rotate_left; · (intro x hx; cases x <;> first | exact absurd (within_mem hT rfl) hx | exact rfl | exact ⟨rfl, rfl, rfl, rfl, rfl, rfl⟩)))

theorem emptyWanted_keeps (m : ℕ) {s : State} (hT : within [.d2d] T = true)
    (h : Keeps T s0 s) : Keeps T s0 (emptyWanted m s) := by
  unfold emptyWanted
  repeat' (first | with_reducible assumption | exact within_trans rfl hT | with_reducible apply modSet_keeps | with_reducible apply Keeps.foldl | intro _ | dsimp only | split)

theorem evalBands_keeps (j : ℕ) {s : State} (hT : within [.counts, .comp, .banks, .therm, .d2d, .out] T = true)
    (h : Keeps T s0 s) : Keeps T s0 (evalBands j s) := by
  unfold evalBands
  repeat' (first | with_reducible assumption | exact within_trans rfl hT | with_reducible apply lightBand_keeps | with_reducible apply emptyWanted_keeps | with_reducible apply Keeps.foldl | intro _ | dsimp only | split | ((fail_if_no_progress (with_reducible apply keeps_mk)); rotate_left; · (intro x hx; cases x <;> first | exact absurd (within_mem hT rfl) hx | exact rfl | exact ⟨rfl, rfl, rfl, rfl, rfl, rfl⟩)))

theorem chipletOff_keeps (chip : ℕ) {s : State} (hT : within [.boot, .dev, .faults, .db, .ports, .cmds, .graphs, .counts, .comp, .banks, .cairn, .therm, .las, .chans, .links, .fab, .out, .free] T = true)
    (h : Keeps T s0 s) : Keeps T s0 (chipletOff chip s) := by
  unfold chipletOff
  split
  · exact h
  · extract_lets first lit s1 s2
    have k : Keeps T s0 s1 := keeps_ite h (faultUOpen_keeps _ (within_trans rfl hT) h)
    clear_value s1
    have k2 : Keeps T s0 s2 := keeps_ite (linkChipletOut_keeps _ (within_trans rfl hT) k) (combChipFail_keeps _ (within_trans rfl hT) k)
    clear_value s2
    exact refreshDegraded_keeps (within_trans rfl hT) (keeps_mk k2 (by intro x hx; cases x <;> first | exact absurd (within_mem hT rfl) hx | exact rfl | exact ⟨rfl, rfl, rfl, rfl, rfl, rfl⟩))

theorem fencePart_keeps (src : ℕ) {s : State} (hT : within [.boot, .dev, .faults, .db, .locks, .ports, .cmds, .graphs, .bytes, .memCtl, .counts, .comp, .banks, .cairn, .therm, .las, .chans, .links, .fab, .d2d, .out, .free] T = true)
    (h : Keeps T s0 s) : Keeps T s0 (fencePart src s) := by
  unfold fencePart
  repeat' (first | with_reducible assumption | exact within_trans rfl hT | with_reducible apply refreshDegraded_keeps | with_reducible apply stackGone_keeps | with_reducible apply faultUOpen_keeps | with_reducible apply linkDown_keeps | with_reducible apply chipletOff_keeps | with_reducible apply fenceFlank_keeps | with_reducible apply faultXOpen_keeps | with_reducible apply Keeps.foldl | intro _ | dsimp only | split | ((fail_if_no_progress (with_reducible apply keeps_mk)); rotate_left; · (intro x hx; cases x <;> first | exact absurd (within_mem hT rfl) hx | exact rfl | exact ⟨rfl, rfl, rfl, rfl, rfl, rfl⟩)))

theorem excludeSensor_keeps (j : ℕ) (reading : ℤ) {s : State} (hT : within [.boot, .dev, .faults, .db, .locks, .ports, .cmds, .graphs, .bytes, .memCtl, .counts, .comp, .banks, .cairn, .therm, .las, .chans, .links, .fab, .d2d, .out, .free] T = true)
    (h : Keeps T s0 s) : Keeps T s0 (excludeSensor j reading s) := by
  unfold excludeSensor
  repeat' (first | with_reducible assumption | exact within_trans rfl hT | with_reducible apply sensorSet_keeps | with_reducible apply failCluster_keeps | with_reducible apply faultC_keeps | with_reducible apply fencePart_keeps | with_reducible apply Keeps.foldl | intro _ | dsimp only | split)

theorem requestNotice_keeps (d : Domain) {s : State} (hT : within [.db, .ports, .cmds, .therm, .out] T = true)
    (h : Keeps T s0 s) : Keeps T s0 (requestNotice d s) := by
  unfold requestNotice
  repeat' (first | with_reducible assumption | exact within_trans rfl hT | with_reducible apply notice_keeps | with_reducible apply setReq_keeps | with_reducible apply Keeps.foldl | intro _ | dsimp only | split)

theorem openRequest_keeps (d : Domain) (j : ℕ) (reading : ℤ) {s : State} (hT : within [.db, .ports, .cmds, .therm, .out] T = true)
    (h : Keeps T s0 s) : Keeps T s0 (openRequest d j reading s) := by
  unfold openRequest
  repeat' (first | with_reducible assumption | exact within_trans rfl hT | with_reducible apply requestNotice_keeps | with_reducible apply setReq_keeps | with_reducible apply Keeps.foldl | intro _ | dsimp only | split | ((fail_if_no_progress (with_reducible apply keeps_mk)); rotate_left; · (intro x hx; cases x <;> first | exact absurd (within_mem hT rfl) hx | exact rfl | exact ⟨rfl, rfl, rfl, rfl, rfl, rfl⟩)))

theorem stepDown_keeps (d : Domain) {s : State} (hT : within [.counts, .comp, .therm, .out] T = true)
    (h : Keeps T s0 s) : Keeps T s0 (stepDown d s) := by
  unfold stepDown
  repeat' (first | with_reducible assumption | exact within_trans rfl hT | with_reducible apply applyLimits_keeps | with_reducible apply setFlankPower_keeps | with_reducible apply setStep_keeps | with_reducible apply Keeps.foldl | intro _ | dsimp only | split)

theorem startEnforce_keeps (d : Domain) {s : State} (hT : within [.counts, .comp, .therm, .out] T = true)
    (h : Keeps T s0 s) : Keeps T s0 (startEnforce d s) := by
  unfold startEnforce
  repeat' (first | with_reducible assumption | exact within_trans rfl hT | with_reducible apply stepDown_keeps | with_reducible apply setReq_keeps | with_reducible apply Keeps.foldl | intro _ | dsimp only | split)

theorem judgeDomain_keeps (d : Domain) (j : ℕ) (reading : ℤ) {s : State} (hT : within [.db, .ports, .cmds, .counts, .comp, .therm, .out] T = true)
    (h : Keeps T s0 s) : Keeps T s0 (judgeDomain d j reading s) := by
  unfold judgeDomain
  repeat' (first | with_reducible assumption | exact within_trans rfl hT | with_reducible apply openRequest_keeps | with_reducible apply startEnforce_keeps | with_reducible apply setReq_keeps | with_reducible apply Keeps.foldl | intro _ | dsimp only | split)

theorem rampStep_keeps (f : Flank) {s : State} (hT : within [.counts, .comp, .therm, .out] T = true)
    (h : Keeps T s0 s) : Keeps T s0 (rampStep f s) := by
  unfold rampStep
  repeat' (first | with_reducible assumption | exact within_trans rfl hT | with_reducible apply applyLimits_keeps | with_reducible apply setFlankPower_keeps | with_reducible apply Keeps.foldl | intro _ | dsimp only | split)

theorem allDark_keeps {s : State} (hT : within [.boot, .dev, .faults, .db, .ports, .cmds, .graphs, .counts, .comp, .banks, .cairn, .las, .chans, .links, .fab, .out, .free] T = true)
    (h : Keeps T s0 s) : Keeps T s0 (allDark s) := by
  unfold allDark
  repeat' (first | with_reducible assumption | exact within_trans rfl hT | with_reducible apply discardRuns_keeps | with_reducible apply laserOff_keeps | with_reducible apply linkDown_keeps | with_reducible apply portDown_keeps | with_reducible apply Keeps.foldl | intro _ | dsimp only | split)

end Sys2Proof.Machine
end

