-- ==== Sys2Proof/Laws/D2d.lean ====
section
/-!
SUPPORT. One lemma for each shared operation of Machine/D2d.lean: what it keeps of whatever state it is applied to.
The list in a lemma names the areas the operation may change.
-/

set_option linter.unusedTactic false
set_option linter.unreachableTactic false
set_option linter.unusedVariables false

namespace Sys2Proof.Machine

variable {T : List Area} {s0 : State}

theorem retrainTrims_keeps (m : ℕ) (d : ℕ) {s : State} (hT : within [.d2d, .free] T = true)
    (h : Keeps T s0 s) : Keeps T s0 (retrainTrims m d s) := by
  unfold retrainTrims
  repeat' (first | with_reducible assumption | exact within_trans rfl hT | with_reducible apply putDir_keeps | with_reducible apply Keeps.foldl | intro _ | dsimp only | split | ((fail_if_no_progress (with_reducible apply keeps_mk)); rotate_left; · (intro x hx; cases x <;> first | exact absurd (within_mem hT rfl) hx | exact rfl | exact ⟨rfl, rfl, rfl, rfl, rfl, rfl⟩)))

theorem groupFlit_keeps (m : ℕ) {s : State} (hT : within [.d2d] T = true)
    (h : Keeps T s0 s) : Keeps T s0 (groupFlit m s) := by
  unfold groupFlit
  repeat' (first | with_reducible assumption | with_reducible apply Keeps.foldl | intro _ | dsimp only | split | ((fail_if_no_progress (with_reducible apply keeps_mk)); rotate_left; · (intro x hx; cases x <;> first | exact absurd (within_mem hT rfl) hx | exact rfl | exact ⟨rfl, rfl, rfl, rfl, rfl, rfl⟩)))

theorem ackBegins_keeps (m : ℕ) (d : ℕ) {s : State} (hT : within [.out] T = true)
    (h : Keeps T s0 s) : Keeps T s0 (ackBegins m d s) := by
  unfold ackBegins
  repeat' (first | with_reducible assumption | exact within_trans rfl hT | with_reducible apply emit_keeps | with_reducible apply Keeps.foldl | intro _ | dsimp only | split)

theorem slotTaken_keeps (m : ℕ) (d : ℕ) (x0 : D2dSlot) {s : State} (hT : within [.faults, .d2d] T = true)
    (h : Keeps T s0 s) : Keeps T s0 (slotTaken m d x0 s) := by
  unfold slotTaken
  repeat' (first | with_reducible assumption | exact within_trans rfl hT | with_reducible apply forcedDone_keeps | with_reducible apply putDir_keeps | with_reducible apply groupFlit_keeps | with_reducible apply Keeps.foldl | intro _ | dsimp only | split)

theorem setWeights_keeps (g : ℕ) {s : State} (hT : within [.d2d] T = true)
    (h : Keeps T s0 s) : Keeps T s0 (setWeights g s) := by
  unfold setWeights
  repeat' (first | with_reducible assumption | with_reducible apply Keeps.foldl | intro _ | dsimp only | split | ((fail_if_no_progress (with_reducible apply keeps_mk)); rotate_left; · (intro x hx; cases x <;> first | exact absurd (within_mem hT rfl) hx | exact rfl | exact ⟨rfl, rfl, rfl, rfl, rfl, rfl⟩)))

theorem restripe_keeps (g : ℕ) {s : State} (hT : within [.d2d] T = true)
    (h : Keeps T s0 s) : Keeps T s0 (restripe g s) := by
  unfold restripe
  repeat' (first | with_reducible assumption | exact within_trans rfl hT | with_reducible apply setWeights_keeps | with_reducible apply Keeps.foldl | intro _ | dsimp only | split | ((fail_if_no_progress (with_reducible apply keeps_mk)); rotate_left; · (intro x hx; cases x <;> first | exact absurd (within_mem hT rfl) hx | exact rfl | exact ⟨rfl, rfl, rfl, rfl, rfl, rfl⟩)))

theorem guestOut_keeps {s : State} (hT : within [.pins, .mbx, .db, .locks, .d2d, .guest, .out] T = true)
    (h : Keeps T s0 s) : Keeps T s0 (guestOut s) := by
  unfold guestOut
  repeat' (first | with_reducible assumption | exact within_trans rfl hT | with_reducible apply emit_keeps | with_reducible apply modSet_keeps | with_reducible apply releaseLocks_keeps | with_reducible apply mbxGuestResetEnd_keeps | with_reducible apply mbxGuestResetBegin_keeps | with_reducible apply Keeps.foldl | intro _ | dsimp only | split | ((fail_if_no_progress (with_reducible apply keeps_mk)); rotate_left; · (intro x hx; cases x <;> first | exact absurd (within_mem hT rfl) hx | exact rfl | exact ⟨rfl, rfl, rfl, rfl, rfl, rfl⟩)))

theorem fenceGuest_keeps {s : State} (hT : within [.pins, .boot, .dev, .faults, .mbx, .db, .locks, .ports, .cmds, .graphs, .cairn, .d2d, .guest, .out, .free] T = true)
    (h : Keeps T s0 s) : Keeps T s0 (fenceGuest s) := by
  unfold fenceGuest
  repeat' (first | with_reducible assumption | exact within_trans rfl hT | with_reducible apply faultUOpen_keeps | with_reducible apply guestOut_keeps | with_reducible apply Keeps.foldl | intro _ | dsimp only | split)

theorem fenceOptical_keeps (n : ℕ) {s : State} (hT : within [.boot, .dev, .faults, .db, .ports, .cmds, .graphs, .counts, .cairn, .las, .chans, .links, .fab, .out, .free] T = true)
    (h : Keeps T s0 s) : Keeps T s0 (fenceOptical n s) := by
  unfold fenceOptical
  repeat' (first | with_reducible assumption | exact within_trans rfl hT | with_reducible apply linkDown_keeps | with_reducible apply faultUOpen_keeps | with_reducible apply Keeps.foldl | intro _ | dsimp only | split)

theorem portsOut_keeps {s : State} (hT : within [.boot, .dev, .faults, .db, .ports, .cmds, .graphs, .cairn, .out, .free] T = true)
    (h : Keeps T s0 s) : Keeps T s0 (portsOut s) := by
  unfold portsOut
  repeat' (first | with_reducible assumption | exact within_trans rfl hT | with_reducible apply portOut_keeps | with_reducible apply Keeps.foldl | intro _ | dsimp only | split)

theorem fencePorts_keeps {s : State} (hT : within [.boot, .dev, .faults, .db, .ports, .cmds, .graphs, .cairn, .out, .free] T = true)
    (h : Keeps T s0 s) : Keeps T s0 (fencePorts s) := by
  unfold fencePorts
  repeat' (first | with_reducible assumption | exact within_trans rfl hT | with_reducible apply portsOut_keeps | with_reducible apply faultUOpen_keeps | with_reducible apply Keeps.foldl | intro _ | dsimp only | split)

theorem judgeGroup_keeps (g : ℕ) {s : State} (hT : within [.pins, .boot, .dev, .faults, .mbx, .db, .locks, .ports, .cmds, .graphs, .bytes, .memCtl, .counts, .comp, .cairn, .las, .chans, .links, .fab, .d2d, .guest, .out, .free] T = true)
    (h : Keeps T s0 s) : Keeps T s0 (judgeGroup g s) := by
  unfold judgeGroup
  repeat' (first | with_reducible assumption | exact within_trans rfl hT | with_reducible apply fenceFlank_keeps | with_reducible apply fenceOptical_keeps | with_reducible apply narrowOptical_keeps | with_reducible apply fenceGuest_keeps | with_reducible apply fencePorts_keeps | with_reducible apply Keeps.foldl | intro _ | dsimp only | split)

theorem moduleChanged_keeps (m : ℕ) {s : State} (hT : within [.pins, .boot, .dev, .faults, .mbx, .db, .locks, .ports, .cmds, .graphs, .bytes, .memCtl, .counts, .comp, .cairn, .las, .chans, .links, .fab, .d2d, .guest, .out, .free] T = true)
    (h : Keeps T s0 s) : Keeps T s0 (moduleChanged m s) := by
  unfold moduleChanged
  repeat' (first | with_reducible assumption | exact within_trans rfl hT | with_reducible apply refreshDegraded_keeps | with_reducible apply judgeGroup_keeps | with_reducible apply restripe_keeps | with_reducible apply Keeps.foldl | intro _ | dsimp only | split)

theorem moduleOut_keeps (m : ℕ) (d : ℕ) (wire : ℕ) {s : State} (hT : within [.pins, .boot, .dev, .faults, .mbx, .db, .locks, .ports, .cmds, .graphs, .bytes, .memCtl, .counts, .comp, .cairn, .las, .chans, .links, .fab, .d2d, .guest, .out, .free] T = true)
    (h : Keeps T s0 s) : Keeps T s0 (moduleOut m d wire s) := by
  unfold moduleOut
  repeat' (first | with_reducible assumption | exact within_trans rfl hT | with_reducible apply moduleChanged_keeps | with_reducible apply faultU_keeps | with_reducible apply modSet_keeps | with_reducible apply Keeps.foldl | intro _ | dsimp only | split)

theorem startRetrain_keeps (m : ℕ) {s : State} (hT : within [.d2d] T = true)
    (h : Keeps T s0 s) : Keeps T s0 (startRetrain m s) := by
  unfold startRetrain
  repeat' (first | with_reducible assumption | exact within_trans rfl hT | with_reducible apply restripe_keeps | with_reducible apply modSet_keeps | with_reducible apply Keeps.foldl | intro _ | dsimp only | split)

theorem callRetrain_keeps (m : ℕ) {s : State} (hT : within [.d2d, .out] T = true)
    (h : Keeps T s0 s) : Keeps T s0 (callRetrain m s) := by
  unfold callRetrain
  repeat' (first | with_reducible assumption | exact within_trans rfl hT | with_reducible apply startRetrain_keeps | with_reducible apply sbSend_keeps | with_reducible apply Keeps.foldl | intro _ | dsimp only | split)

theorem replay_keeps (m : ℕ) (d : ℕ) {s : State} (hT : within [.d2d, .out] T = true)
    (h : Keeps T s0 s) : Keeps T s0 (replay m d s) := by
  unfold replay
  repeat' (first | with_reducible assumption | exact within_trans rfl hT | with_reducible apply putDir_keeps | with_reducible apply callRetrain_keeps | with_reducible apply Keeps.foldl | intro _ | dsimp only | split)

theorem mapWire_keeps (m : ℕ) (d : ℕ) (wire : ℕ) {s : State} (hT : within [.boot, .dev, .faults, .db, .ports, .cmds, .graphs, .cairn, .d2d, .out] T = true)
    (h : Keeps T s0 s) : Keeps T s0 (mapWire m d wire s) := by
  unfold mapWire
  repeat' (first | with_reducible assumption | exact within_trans rfl hT | with_reducible apply putDir_keeps | with_reducible apply faultC_keeps | with_reducible apply sbSend_keeps | with_reducible apply Keeps.foldl | intro _ | dsimp only | split)

theorem unmapWire_keeps (m : ℕ) (d : ℕ) (wire : ℕ) {s : State} (hT : within [.boot, .dev, .faults, .db, .ports, .cmds, .graphs, .cairn, .d2d, .out] T = true)
    (h : Keeps T s0 s) : Keeps T s0 (unmapWire m d wire s) := by
  unfold unmapWire
  repeat' (first | with_reducible assumption | exact within_trans rfl hT | with_reducible apply faultC_keeps | with_reducible apply sbSend_keeps | with_reducible apply putDir_keeps | with_reducible apply Keeps.foldl | intro _ | dsimp only | split)

theorem fitWidth_keeps (m : ℕ) (d : ℕ) (wire : ℕ) {s : State} (hT : within [.dev, .faults, .db, .ports, .cmds, .cairn, .d2d, .out] T = true)
    (h : Keeps T s0 s) : Keeps T s0 (fitWidth m d wire s) := by
  unfold fitWidth
  repeat' (first | with_reducible assumption | exact within_trans rfl hT | with_reducible apply faultUKept_keeps | with_reducible apply putDir_keeps | with_reducible apply Keeps.foldl | intro _ | dsimp only | split)

theorem moduleRetrained_keeps (m : ℕ) (d : ℕ) (errs : List (ℕ × ℕ)) {s : State} (hT : within [.pins, .boot, .dev, .faults, .mbx, .db, .locks, .ports, .cmds, .graphs, .bytes, .memCtl, .counts, .comp, .cairn, .las, .chans, .links, .fab, .d2d, .guest, .out, .free] T = true)
    (h : Keeps T s0 s) : Keeps T s0 (moduleRetrained m d errs s) := by
  unfold moduleRetrained
  repeat' (first | with_reducible assumption | exact within_trans rfl hT | with_reducible apply putDir_keeps | with_reducible apply fitWidth_keeps | with_reducible apply mapWire_keeps | with_reducible apply moduleOut_keeps | with_reducible apply retrainTrims_keeps | with_reducible apply moduleChanged_keeps | with_reducible apply modSet_keeps | with_reducible apply Keeps.foldl | intro _ | dsimp only | split)

theorem fenceDesign_keeps (m : ℕ) (side : Flank) {s : State} (hT : within [.pins, .boot, .dev, .faults, .mbx, .db, .locks, .ports, .cmds, .graphs, .bytes, .memCtl, .counts, .comp, .cairn, .las, .chans, .links, .fab, .d2d, .guest, .out, .free] T = true)
    (h : Keeps T s0 s) : Keeps T s0 (fenceDesign m side s) := by
  unfold fenceDesign
  repeat' (first | with_reducible assumption | exact within_trans rfl hT | with_reducible apply flankOut_keeps | with_reducible apply faultU_keeps | with_reducible apply linkDown_keeps | with_reducible apply guestOut_keeps | with_reducible apply portDown_keeps | with_reducible apply setPort_keeps | with_reducible apply Keeps.foldl | intro _ | dsimp only | split | ((fail_if_no_progress (with_reducible apply keeps_mk)); rotate_left; · (intro x hx; cases x <;> first | exact absurd (within_mem hT rfl) hx | exact rfl | exact ⟨rfl, rfl, rfl, rfl, rfl, rfl⟩)))

theorem linkUpWith_keeps (m : ℕ) (x : LinkUpInput) {s : State} (hT : within [.pins, .boot, .dev, .faults, .mbx, .db, .locks, .ports, .cmds, .graphs, .bytes, .memCtl, .counts, .comp, .cairn, .las, .chans, .links, .fab, .d2d, .guest, .out, .free] T = true)
    (h : Keeps T s0 s) : Keeps T s0 (linkUpWith m x s) := by
  unfold linkUpWith
  repeat' (first | with_reducible assumption | exact within_trans rfl hT | with_reducible apply moduleOut_keeps | with_reducible apply modSet_keeps | with_reducible apply unmapWire_keeps | with_reducible apply fitWidth_keeps | with_reducible apply mapWire_keeps | with_reducible apply moduleChanged_keeps | with_reducible apply fenceDrop_keeps | with_reducible apply Keeps.foldl | intro _ | dsimp only | split)

theorem tellCaps_keeps (m : ℕ) {s : State} (hT : within [.d2d, .out] T = true)
    (h : Keeps T s0 s) : Keeps T s0 (tellCaps m s) := by
  unfold tellCaps
  repeat' (first | with_reducible assumption | exact within_trans rfl hT | with_reducible apply emit_keeps | with_reducible apply modSet_keeps | with_reducible apply Keeps.foldl | intro _ | dsimp only | split)

theorem resetGuest_keeps {s : State} (hT : within [.mbx, .db, .locks, .d2d, .guest] T = true)
    (h : Keeps T s0 s) : Keeps T s0 (resetGuest s) := by
  unfold resetGuest
  split
  · exact h
  · extract_lets s1 s2
    have k : Keeps T s0 s1 :=
      releaseLocks_keeps _ (within_trans rfl hT) (mbxGuestResetEnd_keeps (within_trans rfl hT) (mbxGuestResetBegin_keeps (within_trans rfl hT) h))
    clear_value s1
    have k2 : Keeps T s0 s2 := Keeps.foldl k fun t m ht => keeps_ite ht (modSet_keeps _ _ (within_trans rfl hT) ht)
    clear_value s2
    exact setWeights_keeps _ (within_trans rfl hT) (keeps_mk k2 (by intro x hx; cases x <;> first | exact absurd (within_mem hT rfl) hx | exact rfl | exact ⟨rfl, rfl, rfl, rfl, rfl, rfl⟩))

theorem guestTemp_keeps (temp : ℤ) (power : ℕ) {s : State} (hT : within [.pins, .boot, .dev, .faults, .mbx, .db, .locks, .ports, .cmds, .graphs, .cairn, .d2d, .guest, .out, .free] T = true)
    (h : Keeps T s0 s) : Keeps T s0 (guestTemp temp power s) := by
  unfold guestTemp
  repeat' (first | with_reducible assumption | exact within_trans rfl hT | with_reducible apply fenceGuest_keeps | with_reducible apply Keeps.foldl | intro _ | dsimp only | split | ((fail_if_no_progress (with_reducible apply keeps_mk)); rotate_left; · (intro x hx; cases x <;> first | exact absurd (within_mem hT rfl) hx | exact rfl | exact ⟨rfl, rfl, rfl, rfl, rfl, rfl⟩)))

theorem repairTold_keeps (m : ℕ) (wire : ℕ) (add : Bool) {s : State} (hT : within [.pins, .boot, .dev, .faults, .mbx, .db, .locks, .ports, .cmds, .graphs, .bytes, .memCtl, .counts, .comp, .cairn, .las, .chans, .links, .fab, .d2d, .guest, .out, .free] T = true)
    (h : Keeps T s0 s) : Keeps T s0 (repairTold m wire add s) := by
  unfold repairTold
  repeat' (first | with_reducible assumption | exact within_trans rfl hT | with_reducible apply faultC_keeps | with_reducible apply putDir_keeps | with_reducible apply fitWidth_keeps | with_reducible apply moduleOut_keeps | with_reducible apply refreshDegraded_keeps | with_reducible apply Keeps.foldl | intro _ | dsimp only | split)

theorem sbActs_keeps (m : ℕ) (type : ℕ) (data : ℕ) {s : State} (hT : within [.pins, .boot, .dev, .faults, .mbx, .db, .locks, .ports, .cmds, .graphs, .bytes, .memCtl, .counts, .comp, .cairn, .las, .chans, .links, .fab, .d2d, .guest, .out, .free] T = true)
    (h : Keeps T s0 s) : Keeps T s0 (sbActs m type data s) := by
  unfold sbActs
  repeat' (first | with_reducible assumption | exact within_trans rfl hT | with_reducible apply guestTemp_keeps | with_reducible apply repairTold_keeps | with_reducible apply startRetrain_keeps | with_reducible apply resetGuest_keeps | with_reducible apply modSet_keeps | with_reducible apply Keeps.foldl | intro _ | dsimp only | split)

end Sys2Proof.Machine
end

