-- ==== Sys2Proof/Laws/Fit.lean ====
section
/-!
SUPPORT. One lemma for each shared operation of Machine/Fit.lean: what it keeps of whatever state it is applied to.
The list in a lemma names the areas the operation may change.
-/

set_option linter.unusedTactic false
set_option linter.unreachableTactic false
set_option linter.unusedVariables false

namespace Sys2Proof.Machine

variable {T : List Area} {s0 : State}

theorem writeSpans_keeps (l : List (Nat × Nat)) (bs : List Byte) {s : State} (hT : within [.bytes, .memCtl, .counts] T = true)
    (h : Keeps T s0 s) : Keeps T s0 (writeSpans l bs s) := by
  induction l generalizing bs s with
  | nil => exact h
  | cons p l ih => exact ih _ (dramWriteBytes_keeps _ _ (within_trans rfl hT) h)

theorem zeroSpans_keeps (l : List (ℕ × ℕ)) {s : State} (hT : within [.bytes, .memCtl] T = true)
    (h : Keeps T s0 s) : Keeps T s0 (zeroSpans l s) := by
  exact Keeps.foldl h fun t x ht => zeroSpan_keeps _ _ (within_trans rfl hT) ht

theorem zeroStates_keeps (l : List (ℕ × ℕ)) {s : State} (hT : within [.bytes, .memCtl, .counts] T = true)
    (h : Keeps T s0 s) : Keeps T s0 (zeroStates l s) := by
  unfold zeroStates
  repeat' (first | with_reducible assumption | exact within_trans rfl hT | with_reducible apply zeroSpans_keeps | with_reducible apply dramWriteBytes_keeps | with_reducible apply Keeps.foldl | intro _ | dsimp only | split)

theorem returnLoans_keeps (l : List (ℕ × ℕ × ℕ)) {s : State} (hT : within [.boot, .dev, .faults, .db, .ports, .cmds, .graphs, .counts, .comp, .cairn, .links, .fab, .out, .free] T = true)
    (h : Keeps T s0 s) : Keeps T s0 (returnLoans l s) := by
  unfold returnLoans
  repeat' (first | with_reducible assumption | exact within_trans rfl hT | with_reducible apply sendSys_keeps | with_reducible apply Keeps.foldl | intro _ | dsimp only | split)

theorem askLender_keeps (w : FitWait) (missing : ℕ) {s : State} (hT : within [.boot, .dev, .faults, .db, .ports, .cmds, .graphs, .counts, .comp, .cairn, .links, .fab, .out, .free] T = true)
    (h : Keeps T s0 s) : Keeps T s0 (askLender w missing s) := by
  unfold askLender
  repeat' (first | with_reducible assumption | exact within_trans rfl hT | with_reducible apply sendSys_keeps | with_reducible apply Keeps.foldl | intro _ | dsimp only | split | ((fail_if_no_progress (with_reducible apply keeps_mk)); rotate_left; · (intro x hx; cases x <;> first | exact absurd (within_mem hT rfl) hx | exact rfl | exact ⟨rfl, rfl, rfl, rfl, rfl, rfl⟩)))

theorem writeLent_keeps (l : List (Nat × Nat)) (bs : List Byte) {s : State} (hT : within [.boot, .dev, .faults, .db, .ports, .cmds, .graphs, .counts, .comp, .cairn, .links, .fab, .out, .free] T = true)
    (h : Keeps T s0 s) : Keeps T s0 (writeLent l bs s) := by
  induction l generalizing bs s with
  | nil => exact h
  | cons p l ih => exact ih _ (fwPeerWrites_keeps _ _ _ (within_trans rfl hT) h)

theorem spillData_keeps (w : FitWait) (consts : List Byte) (e : ℕ × ℕ) {s : State} (hT : within [.boot, .dev, .faults, .db, .ports, .cmds, .graphs, .counts, .comp, .cairn, .links, .fab, .out, .free] T = true)
    (h : Keeps T s0 s) : Keeps T s0 (spillData w consts e s) := by
  unfold spillData
  repeat' (first | with_reducible assumption | exact within_trans rfl hT | with_reducible apply hostWrite_keeps | with_reducible apply writeLent_keeps | with_reducible apply Keeps.foldl | intro _ | dsimp only | split)

theorem sourceBytes_keeps (d : Descriptor) {s : State} (hT : within [.free] T = true)
    (h : Keeps T s0 s) : Keeps T s0 (sourceBytes d s).2 := by
  unfold sourceBytes
  repeat' (first | with_reducible assumption | with_reducible apply Keeps.foldl | with_reducible apply Keeps.foldlSnd | intro _ | dsimp only | split | ((fail_if_no_progress (with_reducible apply keeps_mk)); rotate_left; · (intro x hx; cases x <;> first | exact absurd (within_mem hT rfl) hx | exact rfl | exact ⟨rfl, rfl, rfl, rfl, rfl, rfl⟩)))

theorem deriveDev_keeps {s : State} (hT : within [.dev, .db, .ports, .cmds, .out] T = true)
    (h : Keeps T s0 s) : Keeps T s0 (deriveDev s) := by
  unfold deriveDev
  repeat' (first | with_reducible assumption | exact within_trans rfl hT | with_reducible apply touchSync_keeps | with_reducible apply setDev_keeps | with_reducible apply Keeps.foldl | intro _ | dsimp only | split)

theorem endLoad_keeps (a : Accepted) (r : Res) (f : Fit) {s : State} (hT : within [.ports, .cmds, .bytes, .memCtl, .counts, .out] T = true)
    (h : Keeps T s0 s) : Keeps T s0 (endLoad a r f s) := by
  unfold endLoad
  repeat' (first | with_reducible assumption | exact within_trans rfl hT | with_reducible apply finish_keeps | with_reducible apply finishWith_keeps | with_reducible apply Keeps.foldl | intro _ | dsimp only | split)

theorem keepLoad_keeps (w : FitWait) (i : ℕ) (x : Spill) {s : State} (hT : within [.boot, .dev, .faults, .db, .ports, .cmds, .graphs, .bytes, .memCtl, .counts, .comp, .cairn, .links, .fab, .out, .free] T = true)
    (h : Keeps T s0 s) : Keeps T s0 (keepLoad w i x s) := by
  unfold keepLoad
  repeat' (first | with_reducible assumption | exact within_trans rfl hT | with_reducible apply spillData_keeps | with_reducible apply zeroStates_keeps | with_reducible apply writeSpans_keeps | with_reducible apply slotSet_keeps | with_reducible apply Keeps.foldl | intro _ | dsimp only | split)

theorem tryLoad_keeps (w : FitWait) {s : State} (hT : within [.boot, .dev, .faults, .db, .ports, .cmds, .graphs, .bytes, .memCtl, .counts, .comp, .cairn, .links, .fab, .out, .free] T = true)
    (h : Keeps T s0 s) : Keeps T s0 (tryLoad w s) := by
  unfold tryLoad
  repeat' (first | with_reducible assumption | exact within_trans rfl hT | with_reducible apply returnLoans_keeps | with_reducible apply finish_keeps | with_reducible apply askLender_keeps | with_reducible apply endLoad_keeps | with_reducible apply deriveDev_keeps | with_reducible apply keepLoad_keeps | with_reducible apply Keeps.foldl | intro _ | dsimp only | split)

theorem beginLoad_keeps (a : Accepted) {s : State} (hT : within [.boot, .dev, .faults, .db, .ports, .cmds, .graphs, .bytes, .memCtl, .counts, .comp, .cairn, .links, .fab, .out, .free] T = true)
    (h : Keeps T s0 s) : Keeps T s0 (beginLoad a s) := by
  unfold beginLoad
  repeat' (first | with_reducible assumption | exact within_trans rfl hT | with_reducible apply sourceBytes_keeps | with_reducible apply finish_keeps | with_reducible apply tryLoad_keeps | with_reducible apply Keeps.foldl | with_reducible apply Keeps.foldlSnd | intro _ | dsimp only | split)

theorem beginVerify_keeps (a : Accepted) {s : State} (hT : within [.ports, .cmds, .bytes, .memCtl, .counts, .out, .free] T = true)
    (h : Keeps T s0 s) : Keeps T s0 (beginVerify a s) := by
  unfold beginVerify
  repeat' (first | with_reducible assumption | exact within_trans rfl hT | with_reducible apply sourceBytes_keeps | with_reducible apply finish_keeps | with_reducible apply finishWith_keeps | with_reducible apply Keeps.foldl | with_reducible apply Keeps.foldlSnd | intro _ | dsimp only | split)

theorem keepPlace_keeps (w : FitWait) (i : ℕ) (x : Spill) (p : Plan) (kept : List Photonic) {s : State} (hT : within [.graphs, .bytes, .memCtl, .counts] T = true)
    (h : Keeps T s0 s) : Keeps T s0 (keepPlace w i x p kept s) := by
  unfold keepPlace
  repeat' (first | with_reducible assumption | exact within_trans rfl hT | with_reducible apply writeSpans_keeps | with_reducible apply slotSet_keeps | with_reducible apply Keeps.foldl | intro _ | dsimp only | split)

theorem tryPlace_keeps (w : FitWait) {s : State} (hT : within [.boot, .dev, .faults, .db, .ports, .cmds, .graphs, .bytes, .memCtl, .counts, .comp, .cairn, .links, .fab, .out, .free] T = true)
    (h : Keeps T s0 s) : Keeps T s0 (tryPlace w s) := by
  unfold tryPlace
  repeat' (first | with_reducible assumption | exact within_trans rfl hT | with_reducible apply returnLoans_keeps | with_reducible apply finish_keeps | with_reducible apply slotSet_keeps | with_reducible apply finishWith_keeps | with_reducible apply askLender_keeps | with_reducible apply keepPlace_keeps | with_reducible apply Keeps.foldl | intro _ | dsimp only | split)

theorem beginPlace_keeps (a : Accepted) {s : State} (hT : within [.boot, .dev, .faults, .db, .ports, .cmds, .graphs, .bytes, .memCtl, .counts, .comp, .cairn, .links, .fab, .out, .free] T = true)
    (h : Keeps T s0 s) : Keeps T s0 (beginPlace a s) := by
  unfold beginPlace
  repeat' (first | with_reducible assumption | exact within_trans rfl hT | with_reducible apply finish_keeps | with_reducible apply argBytes_keeps | with_reducible apply tryPlace_keeps | with_reducible apply Keeps.foldl | with_reducible apply Keeps.foldlSnd | intro _ | dsimp only | split)

theorem resumeFit_keeps (w : FitWait) {s : State} (hT : within [.boot, .dev, .faults, .db, .ports, .cmds, .graphs, .bytes, .memCtl, .counts, .comp, .cairn, .links, .fab, .out, .free] T = true)
    (h : Keeps T s0 s) : Keeps T s0 (resumeFit w s) := by
  unfold resumeFit
  repeat' (first | with_reducible assumption | exact within_trans rfl hT | with_reducible apply tryLoad_keeps | with_reducible apply tryPlace_keeps | with_reducible apply Keeps.foldl | intro _ | dsimp only | split)

theorem dropFit_keeps (w : FitWait) {s : State} (hT : within [.graphs] T = true)
    (h : Keeps T s0 s) : Keeps T s0 (dropFit w s) := by
  unfold dropFit
  repeat' (first | with_reducible assumption | with_reducible apply Keeps.foldl | intro _ | dsimp only | split | ((fail_if_no_progress (with_reducible apply keeps_mk)); rotate_left; · (intro x hx; cases x <;> first | exact absurd (within_mem hT rfl) hx | exact rfl | exact ⟨rfl, rfl, rfl, rfl, rfl, rfl⟩)))

theorem lenderAnswers_keeps (tag : BitVec 32) (ok : Bool) (window : Option (ℕ × ℕ)) {s : State} (hT : within [.boot, .dev, .faults, .db, .ports, .cmds, .graphs, .bytes, .memCtl, .counts, .comp, .cairn, .links, .fab, .out, .free] T = true)
    (h : Keeps T s0 s) : Keeps T s0 (lenderAnswers tag ok window s) := by
  unfold lenderAnswers
  repeat' (first | with_reducible assumption | exact within_trans rfl hT | with_reducible apply useFree_keeps | with_reducible apply resumeFit_keeps | with_reducible apply dropFit_keeps | with_reducible apply Keeps.foldl | with_reducible apply Keeps.foldlSnd | intro _ | dsimp only | split)

theorem beginUnload_keeps (a : Accepted) {s : State} (hT : within [.boot, .dev, .faults, .db, .ports, .cmds, .graphs, .counts, .comp, .cairn, .links, .fab, .out, .free] T = true)
    (h : Keeps T s0 s) : Keeps T s0 (beginUnload a s) := by
  unfold beginUnload
  repeat' (first | with_reducible assumption | exact within_trans rfl hT | with_reducible apply finish_keeps | with_reducible apply slotSet_keeps | with_reducible apply deriveDev_keeps | with_reducible apply returnLoans_keeps | with_reducible apply Keeps.foldl | intro _ | dsimp only | split)

end Sys2Proof.Machine
end

