-- ==== Sys2Proof/Laws/Graphs.lean ====
section
/-!
SUPPORT. One lemma for each shared operation of Machine/Graphs.lean: what it keeps of whatever state it is applied to.
The list in a lemma names the areas the operation may change.
-/

set_option linter.unusedTactic false
set_option linter.unreachableTactic false
set_option linter.unusedVariables false

namespace Sys2Proof.Machine

variable {T : List Area} {s0 : State}

theorem bindPlaced_keeps (g : Graph) {s : State} (hT : within [.comp] T = true)
    (h : Keeps T s0 s) : Keeps T s0 (bindPlaced g s) := by
  unfold bindPlaced
  repeat' (first | with_reducible assumption | exact within_trans rfl hT | with_reducible apply bindSpare_keeps | with_reducible apply Keeps.foldl | intro _ | dsimp only | split)

theorem confirmPeers_keeps (g : Graph) (i : ℕ) {s : State} (hT : within [.boot, .dev, .faults, .db, .ports, .cmds, .graphs, .counts, .comp, .cairn, .links, .fab, .out, .free] T = true)
    (h : Keeps T s0 s) : Keeps T s0 (confirmPeers g i s) := by
  unfold confirmPeers
  repeat' (first | with_reducible assumption | exact within_trans rfl hT | with_reducible apply sendSys_keeps | with_reducible apply Keeps.foldl | intro _ | dsimp only | split)

theorem beginStart_keeps (a : Accepted) {s : State} (hT : within [.boot, .dev, .faults, .db, .ports, .cmds, .graphs, .counts, .comp, .cairn, .links, .fab, .out, .free] T = true)
    (h : Keeps T s0 s) : Keeps T s0 (beginStart a s) := by
  unfold beginStart
  repeat' (first | with_reducible assumption | exact within_trans rfl hT | with_reducible apply finish_keeps | with_reducible apply bindPlaced_keeps | with_reducible apply refreshDegraded_keeps | with_reducible apply deriveDev_keeps | with_reducible apply confirmPeers_keeps | with_reducible apply slotSet_keeps | with_reducible apply Keeps.foldl | intro _ | dsimp only | split | ((fail_if_no_progress (with_reducible apply keeps_mk)); rotate_left; · (intro x hx; cases x <;> first | exact absurd (within_mem hT rfl) hx | exact rfl | exact ⟨rfl, rfl, rfl, rfl, rfl, rfl⟩)))

theorem programTables_keeps (i : ℕ) (g : Graph) {s : State} (hT : within [.fab] T = true)
    (h : Keeps T s0 s) : Keeps T s0 (programTables i g s) := by
  unfold programTables
  repeat' (first | with_reducible assumption | with_reducible apply Keeps.foldl | intro _ | dsimp only | split | ((fail_if_no_progress (with_reducible apply keeps_mk)); rotate_left; · (intro x hx; cases x <;> first | exact absurd (within_mem hT rfl) hx | exact rfl | exact ⟨rfl, rfl, rfl, rfl, rfl, rfl⟩)))

theorem boundWrite_keeps (a : ℕ) (bs : List Byte) {s : State} (hT : within [.boot, .dev, .faults, .db, .ports, .cmds, .graphs, .bytes, .memCtl, .counts, .comp, .cairn, .links, .fab, .out, .free] T = true)
    (h : Keeps T s0 s) : Keeps T s0 (boundWrite a bs s) := by
  unfold boundWrite
  repeat' (first | with_reducible assumption | exact within_trans rfl hT | with_reducible apply fwPeerWrites_keeps | with_reducible apply fabCount_keeps | with_reducible apply hostWrite_keeps | with_reducible apply hwinFail_keeps | with_reducible apply locWrite_keeps | with_reducible apply Keeps.foldl | intro _ | dsimp only | split)

theorem taintPiece_keeps (a : ℕ) (n : ℕ) {s : State} (hT : within [.bytes] T = true)
    (h : Keeps T s0 s) : Keeps T s0 (taintPiece a n s) := by
  unfold taintPiece
  repeat' (first | with_reducible assumption | exact within_trans rfl hT | with_reducible apply dramTaint_keeps | with_reducible apply cmTaint_keeps | with_reducible apply lsTaint_keeps | with_reducible apply Keeps.foldl | intro _ | dsimp only | split)

theorem boundTaint_keeps (a : ℕ) (n : ℕ) {s : State} (hT : within [.boot, .dev, .faults, .db, .ports, .cmds, .graphs, .bytes, .counts, .comp, .cairn, .links, .fab, .out, .free] T = true)
    (h : Keeps T s0 s) : Keeps T s0 (boundTaint a n s) := by
  unfold boundTaint
  repeat' (first | with_reducible assumption | exact within_trans rfl hT | with_reducible apply fwPeerWrites_keeps | with_reducible apply fabCount_keeps | with_reducible apply taintPiece_keeps | with_reducible apply Keeps.foldl | intro _ | dsimp only | split)

theorem matchRecv_keeps (i : ℕ) (key : Option ℕ) {s : State} (hT : within [.boot, .dev, .faults, .db, .ports, .cmds, .graphs, .bytes, .memCtl, .counts, .comp, .cairn, .links, .fab, .out, .free] T = true)
    (h : Keeps T s0 s) : Keeps T s0 (matchRecv i key s) := by
  unfold matchRecv
  repeat' (first | with_reducible assumption | exact within_trans rfl hT | with_reducible apply boundWrite_keeps | with_reducible apply slotSet_keeps | with_reducible apply Keeps.foldl | intro _ | dsimp only | split)

theorem tensorBytes_keeps (g : Graph) (x : Execution) (i : ℕ) (n : ℕ) {s : State} (hT : within [.free] T = true)
    (h : Keeps T s0 s) : Keeps T s0 (tensorBytes g x i n s).2 := by
  unfold tensorBytes
  repeat' (first | with_reducible assumption | with_reducible apply Keeps.foldl | with_reducible apply Keeps.foldlSnd | intro _ | dsimp only | split | ((fail_if_no_progress (with_reducible apply keeps_mk)); rotate_left; · (intro x hx; cases x <;> first | exact absurd (within_mem hT rfl) hx | exact rfl | exact ⟨rfl, rfl, rfl, rfl, rfl, rfl⟩)))

theorem takeSend_keeps (pkg : ℕ) (tag : ℕ) (off : ℕ) (data : List Byte) (poison : Bool) {s : State} (hT : within [.boot, .dev, .faults, .db, .ports, .cmds, .graphs, .bytes, .memCtl, .counts, .comp, .cairn, .links, .fab, .out, .free] T = true)
    (h : Keeps T s0 s) : Keeps T s0 (takeSend pkg tag off data poison s) := by
  unfold takeSend
  repeat' (first | with_reducible assumption | exact within_trans rfl hT | with_reducible apply matchRecv_keeps | with_reducible apply Keeps.foldl | intro _ | dsimp only | split | ((fail_if_no_progress (with_reducible apply keeps_mk)); rotate_left; · (intro x hx; cases x <;> first | exact absurd (within_mem hT rfl) hx | exact rfl | exact ⟨rfl, rfl, rfl, rfl, rfl, rfl⟩)))

theorem sendTensor_keeps (peer : ℕ) (tag : ℕ) (bs : List (Byte × Bool)) {s : State} (hT : within [.boot, .dev, .faults, .db, .ports, .cmds, .graphs, .bytes, .memCtl, .counts, .comp, .cairn, .links, .fab, .out, .free] T = true)
    (h : Keeps T s0 s) : Keeps T s0 (sendTensor peer tag bs s) := by
  unfold sendTensor
  repeat' (first | with_reducible assumption | exact within_trans rfl hT | with_reducible apply takeSend_keeps | with_reducible apply sendFlit_keeps | with_reducible apply Keeps.foldl | intro _ | dsimp only | split | ((fail_if_no_progress (with_reducible apply keeps_mk)); rotate_left; · (intro x hx; cases x <;> first | exact absurd (within_mem hT rfl) hx | exact rfl | exact ⟨rfl, rfl, rfl, rfl, rfl, rfl⟩)))

theorem sendOut_keeps (w : WorkItem) {s : State} (hT : within [.boot, .dev, .faults, .db, .ports, .cmds, .graphs, .bytes, .memCtl, .counts, .comp, .cairn, .links, .fab, .out, .free] T = true)
    (h : Keeps T s0 s) : Keeps T s0 (sendOut w s) := by
  unfold sendOut
  repeat' (first | with_reducible assumption | exact within_trans rfl hT | with_reducible apply tensorBytes_keeps | with_reducible apply sendTensor_keeps | with_reducible apply Keeps.foldl | with_reducible apply Keeps.foldlSnd | intro _ | dsimp only | split)

theorem autoReset_keeps (g : Graph) {s : State} (hT : within [.counts] T = true)
    (h : Keeps T s0 s) : Keeps T s0 (autoReset g s) := by
  unfold autoReset
  repeat' (first | with_reducible assumption | with_reducible apply Keeps.foldl | intro _ | dsimp only | split | ((fail_if_no_progress (with_reducible apply keeps_mk)); rotate_left; · (intro x hx; cases x <;> first | exact absurd (within_mem hT rfl) hx | exact rfl | exact ⟨rfl, rfl, rfl, rfl, rfl, rfl⟩)))

theorem taintOutputs_keeps (x : Execution) {s : State} (hT : within [.boot, .dev, .faults, .db, .ports, .cmds, .graphs, .bytes, .counts, .comp, .cairn, .links, .fab, .out, .free] T = true)
    (h : Keeps T s0 s) : Keeps T s0 (taintOutputs x s) := by
  unfold taintOutputs
  repeat' (first | with_reducible assumption | exact within_trans rfl hT | with_reducible apply boundTaint_keeps | with_reducible apply Keeps.foldl | intro _ | dsimp only | split)

theorem endStale_keeps (i : ℕ) {s : State} (hT : within [.cmds, .graphs] T = true)
    (h : Keeps T s0 s) : Keeps T s0 (endStale i s) := by
  unfold endStale
  repeat' (first | with_reducible assumption | exact within_trans rfl hT | with_reducible apply finish_keeps | with_reducible apply slotSet_keeps | with_reducible apply Keeps.foldl | intro _ | dsimp only | split)

theorem endExecution_keeps (i : ℕ) (g : Graph) (x : Execution) {s : State} (hT : within [.boot, .dev, .faults, .db, .ports, .cmds, .graphs, .bytes, .memCtl, .counts, .comp, .cairn, .links, .fab, .out, .free] T = true)
    (h : Keeps T s0 s) : Keeps T s0 (endExecution i g x s) := by
  unfold endExecution
  repeat' (first | with_reducible assumption | exact within_trans rfl hT | with_reducible apply deriveDev_keeps | with_reducible apply endStale_keeps | with_reducible apply slotSet_keeps | with_reducible apply taintOutputs_keeps | with_reducible apply finish_keeps | with_reducible apply fwWrite_keeps | with_reducible apply Keeps.foldl | intro _ | dsimp only | split)

theorem dropReceived_keeps (g : Graph) {s : State} (hT : within [.fab] T = true)
    (h : Keeps T s0 s) : Keeps T s0 (dropReceived g s) := by
  unfold dropReceived
  repeat' (first | with_reducible assumption | with_reducible apply Keeps.foldl | intro _ | dsimp only | split | ((fail_if_no_progress (with_reducible apply keeps_mk)); rotate_left; · (intro x hx; cases x <;> first | exact absurd (within_mem hT rfl) hx | exact rfl | exact ⟨rfl, rfl, rfl, rfl, rfl, rfl⟩)))

theorem endPending_keeps (i : ℕ) (x : Execution) (st : Status) {s : State} (hT : within [.dev, .db, .ports, .cmds, .graphs, .out] T = true)
    (h : Keeps T s0 s) : Keeps T s0 (endPending i x st s) := by
  unfold endPending
  repeat' (first | with_reducible assumption | exact within_trans rfl hT | with_reducible apply finish_keeps | with_reducible apply deriveDev_keeps | with_reducible apply slotSet_keeps | with_reducible apply Keeps.foldl | intro _ | dsimp only | split)

theorem startConfirmedAll_keeps (i : ℕ) (x : Execution) {s : State} (hT : within [.dev, .db, .ports, .cmds, .graphs, .comp, .out] T = true)
    (h : Keeps T s0 s) : Keeps T s0 (startConfirmedAll i x s) := by
  unfold startConfirmedAll
  repeat' (first | with_reducible assumption | exact within_trans rfl hT | with_reducible apply bindPlaced_keeps | with_reducible apply endPending_keeps | with_reducible apply refreshDegraded_keeps | with_reducible apply slotSet_keeps | with_reducible apply Keeps.foldl | intro _ | dsimp only | split)

theorem peerConfirms_keeps (i : ℕ) (peer : ℕ) (ok : Bool) {s : State} (hT : within [.dev, .db, .ports, .cmds, .graphs, .comp, .out] T = true)
    (h : Keeps T s0 s) : Keeps T s0 (peerConfirms i peer ok s) := by
  unfold peerConfirms
  repeat' (first | with_reducible assumption | exact within_trans rfl hT | with_reducible apply slotSet_keeps | with_reducible apply startConfirmedAll_keeps | with_reducible apply endPending_keeps | with_reducible apply Keeps.foldl | intro _ | dsimp only | split)

theorem startEnding_keeps (a : Option Accepted) (abort : Bool) (x3 : BitVec 32) {s : State} (hT : within [.graphs] T = true)
    (h : Keeps T s0 s) : Keeps T s0 (startEnding a abort x3 s) := by
  unfold startEnding
  repeat' (first | with_reducible assumption | exact within_trans rfl hT | with_reducible apply slotSet_keeps | with_reducible apply Keeps.foldl | intro _ | dsimp only | split)

theorem noteAll_keeps (a : Accepted) (hs : List (BitVec 32)) {s : State} (hT : within [.graphs] T = true)
    (h : Keeps T s0 s) : Keeps T s0 (noteAll a hs s) := by
  unfold noteAll
  repeat' (first | with_reducible assumption | with_reducible apply Keeps.foldl | intro _ | dsimp only | split | ((fail_if_no_progress (with_reducible apply keeps_mk)); rotate_left; · (intro x hx; cases x <;> first | exact absurd (within_mem hT rfl) hx | exact rfl | exact ⟨rfl, rfl, rfl, rfl, rfl, rfl⟩)))

theorem endingDone_keeps (a : Option Accepted) (x2 : BitVec 32) (res : Res) {s : State} (hT : within [.cmds, .graphs] T = true)
    (h : Keeps T s0 s) : Keeps T s0 (endingDone a x2 res s) := by
  unfold endingDone
  repeat' (first | with_reducible assumption | exact within_trans rfl hT | with_reducible apply finish_keeps | with_reducible apply Keeps.foldl | intro _ | dsimp only | split | ((fail_if_no_progress (with_reducible apply keeps_mk)); rotate_left; · (intro x hx; cases x <;> first | exact absurd (within_mem hT rfl) hx | exact rfl | exact ⟨rfl, rfl, rfl, rfl, rfl, rfl⟩)))

theorem discardOn_keeps (p : ℕ) (x2 : BitVec 32) {s : State} (hT : within [.comp] T = true)
    (h : Keeps T s0 s) : Keeps T s0 (discardOn p x2 s) := by
  unfold discardOn
  repeat' (first | with_reducible assumption | exact within_trans rfl hT | with_reducible apply engSet_keeps | with_reducible apply clusterSet_keeps | with_reducible apply Keeps.foldl | intro _ | dsimp only | split)

theorem discardWork_keeps (x1 : BitVec 32) {s : State} (hT : within [.comp] T = true)
    (h : Keeps T s0 s) : Keeps T s0 (discardWork x1 s) := by
  unfold discardWork
  repeat' (first | with_reducible assumption | exact within_trans rfl hT | with_reducible apply discardOn_keeps | with_reducible apply Keeps.foldl | intro _ | dsimp only | split)

theorem beginPause_keeps (a : Accepted) {s : State} (hT : within [.cmds, .graphs] T = true)
    (h : Keeps T s0 s) : Keeps T s0 (beginPause a s) := by
  unfold beginPause
  repeat' (first | with_reducible assumption | exact within_trans rfl hT | with_reducible apply finish_keeps | with_reducible apply noteAll_keeps | with_reducible apply startEnding_keeps | with_reducible apply Keeps.foldl | intro _ | dsimp only | split)

theorem pauseDone_keeps (x1 : BitVec 32) {s : State} (hT : within [.dev, .db, .ports, .cmds, .graphs, .out] T = true)
    (h : Keeps T s0 s) : Keeps T s0 (pauseDone x1 s) := by
  unfold pauseDone
  repeat' (first | with_reducible assumption | exact within_trans rfl hT | with_reducible apply deriveDev_keeps | with_reducible apply slotSet_keeps | with_reducible apply endingDone_keeps | with_reducible apply Keeps.foldl | intro _ | dsimp only | split)

theorem resumeGraph_keeps (x1 : BitVec 32) {s : State} (hT : within [.graphs] T = true)
    (h : Keeps T s0 s) : Keeps T s0 (resumeGraph x1 s) := by
  unfold resumeGraph
  repeat' (first | with_reducible assumption | exact within_trans rfl hT | with_reducible apply slotSet_keeps | with_reducible apply Keeps.foldl | intro _ | dsimp only | split)

theorem beginResume_keeps (a : Accepted) {s : State} (hT : within [.boot, .dev, .faults, .db, .ports, .cmds, .graphs, .counts, .comp, .cairn, .links, .fab, .out, .free] T = true)
    (h : Keeps T s0 s) : Keeps T s0 (beginResume a s) := by
  unfold beginResume
  repeat' (first | with_reducible assumption | exact within_trans rfl hT | with_reducible apply finish_keeps | with_reducible apply deriveDev_keeps | with_reducible apply fabricRetry_keeps | with_reducible apply resumeGraph_keeps | with_reducible apply Keeps.foldl | intro _ | dsimp only | split)

theorem beginAbort_keeps (a : Accepted) {s : State} (hT : within [.cmds, .graphs, .comp] T = true)
    (h : Keeps T s0 s) : Keeps T s0 (beginAbort a s) := by
  unfold beginAbort
  repeat' (first | with_reducible assumption | exact within_trans rfl hT | with_reducible apply finish_keeps | with_reducible apply noteAll_keeps | with_reducible apply discardWork_keeps | with_reducible apply startEnding_keeps | with_reducible apply Keeps.foldl | intro _ | dsimp only | split)

theorem abortDone_keeps (x1 : BitVec 32) {s : State} (hT : within [.dev, .db, .ports, .cmds, .graphs, .out] T = true)
    (h : Keeps T s0 s) : Keeps T s0 (abortDone x1 s) := by
  unfold abortDone
  repeat' (first | with_reducible assumption | exact within_trans rfl hT | with_reducible apply deriveDev_keeps | with_reducible apply slotSet_keeps | with_reducible apply finish_keeps | with_reducible apply endingDone_keeps | with_reducible apply Keeps.foldl | intro _ | dsimp only | split)

theorem dropItems_keeps (x1 : BitVec 32) {s : State} (hT : within [.comp] T = true)
    (h : Keeps T s0 s) : Keeps T s0 (dropItems x1 s) := by
  unfold dropItems
  repeat' (first | with_reducible assumption | exact within_trans rfl hT | with_reducible apply clusterSet_keeps | with_reducible apply Keeps.foldl | intro _ | dsimp only | split)

theorem pauseAll_keeps {s : State} (hT : within [.graphs] T = true)
    (h : Keeps T s0 s) : Keeps T s0 (pauseAll s) := by
  unfold pauseAll
  repeat' (first | with_reducible assumption | exact within_trans rfl hT | with_reducible apply startEnding_keeps | with_reducible apply Keeps.foldl | intro _ | dsimp only | split)

end Sys2Proof.Machine
end

