-- ==== Sys2Proof/Laws/Collector.lean ====
section
/-!
SUPPORT. One lemma for each shared operation of Machine/Collector.lean: what it keeps of whatever state it is applied to.
The list in a lemma names the areas the operation may change.
-/

set_option linter.unusedTactic false
set_option linter.unreachableTactic false
set_option linter.unusedVariables false

namespace Sys2Proof.Machine

variable {T : List Area} {s0 : State}

theorem unitOut_keeps (src : ℕ) (core : ℕ) {s : State} (hT : within [.pins, .boot, .dev, .faults, .mbx, .db, .locks, .ports, .cmds, .graphs, .bytes, .memCtl, .stk, .counts, .comp, .banks, .cairn, .las, .chans, .links, .fab, .d2d, .guest, .out, .free] T = true)
    (h : Keeps T s0 s) : Keeps T s0 (unitOut src core s) := by
  unfold unitOut
  repeat' (first | with_reducible assumption | exact within_trans rfl hT | with_reducible apply fenceCore_keeps | with_reducible apply fenceCluster_keeps | with_reducible apply fenceBank_keeps | with_reducible apply refreshDegraded_keeps | with_reducible apply stackGone_keeps | with_reducible apply moduleChanged_keeps | with_reducible apply modSet_keeps | with_reducible apply setChan_keeps | with_reducible apply coverChannel_keeps | with_reducible apply linkDown_keeps | with_reducible apply combLineLost_keeps | with_reducible apply linkLaserLost_keeps | with_reducible apply portLaserLost_keeps | with_reducible apply flankOut_keeps | with_reducible apply guestOut_keeps | with_reducible apply portOut_keeps | with_reducible apply portsOut_keeps | with_reducible apply Keeps.foldl | intro _ | dsimp only | split | ((fail_if_no_progress (with_reducible apply keeps_mk)); rotate_left; · (intro x hx; cases x <;> first | exact absurd (within_mem hT rfl) hx | exact rfl | exact ⟨rfl, rfl, rfl, rfl, rfl, rfl⟩)))

theorem poisonWord_keeps (p : ℕ) (w : ℕ) {s : State} (hT : within [.bytes] T = true)
    (h : Keeps T s0 s) : Keeps T s0 (poisonWord p w s) := by
  unfold poisonWord
  repeat' (first | with_reducible assumption | exact within_trans rfl hT | with_reducible apply cmTaint_keeps | with_reducible apply lsTaint_keeps | with_reducible apply Keeps.foldl | intro _ | dsimp only | split)

theorem wordLost_keeps (src : ℕ) (core : ℕ) {s : State} (hT : within [.boot, .dev, .faults, .db, .ports, .cmds, .graphs, .bytes, .counts, .comp, .cairn, .out, .free] T = true)
    (h : Keeps T s0 s) : Keeps T s0 (wordLost src core s) := by
  unfold wordLost
  repeat' (first | with_reducible assumption | exact within_trans rfl hT | with_reducible apply poisonWord_keeps | with_reducible apply failCluster_keeps | with_reducible apply fenceCore_keeps | with_reducible apply reportFrom_keeps | with_reducible apply Keeps.foldl | intro _ | dsimp only | split | ((fail_if_no_progress (with_reducible apply keeps_mk)); rotate_left; · (intro x hx; cases x <;> first | exact absurd (within_mem hT rfl) hx | exact rfl | exact ⟨rfl, rfl, rfl, rfl, rfl, rfl⟩)))

theorem wordError_keeps (e : FaultInput) {s : State} (hT : within [.boot, .dev, .faults, .db, .ports, .cmds, .graphs, .bytes, .counts, .comp, .cairn, .out, .free] T = true)
    (h : Keeps T s0 s) : Keeps T s0 (wordError e s) := by
  unfold wordError
  repeat' (first | with_reducible assumption | exact within_trans rfl hT | with_reducible apply countCore_keeps | with_reducible apply countCluster_keeps | with_reducible apply wordLost_keeps | with_reducible apply Keeps.foldl | intro _ | dsimp only | split)

theorem sourceEvent_keeps (e : FaultInput) {s : State} (hT : within [.pins, .boot, .dev, .faults, .mbx, .db, .locks, .ports, .cmds, .graphs, .bytes, .memCtl, .stk, .counts, .comp, .banks, .cairn, .las, .chans, .links, .fab, .d2d, .guest, .out, .free] T = true)
    (h : Keeps T s0 s) : Keeps T s0 (sourceEvent e s) := by
  unfold sourceEvent
  repeat' (first | with_reducible assumption | exact within_trans rfl hT | with_reducible apply reportFrom_keeps | with_reducible apply report_keeps | with_reducible apply unitOut_keeps | with_reducible apply Keeps.foldl | intro _ | dsimp only | split)

theorem forceEvent_keeps (src : ℕ) (c : FClass) (syn : BitVec 64) {s : State} (hT : within [.pins, .boot, .dev, .faults, .mbx, .db, .locks, .ports, .cmds, .graphs, .bytes, .memCtl, .stk, .counts, .comp, .banks, .cairn, .las, .chans, .links, .fab, .d2d, .guest, .out, .free] T = true)
    (h : Keeps T s0 s) : Keeps T s0 (forceEvent src c syn s) := by
  unfold forceEvent
  repeat' (first | with_reducible assumption | exact within_trans rfl hT | with_reducible apply sourceEvent_keeps | with_reducible apply Keeps.foldl | intro _ | dsimp only | split | ((fail_if_no_progress (with_reducible apply keeps_mk)); rotate_left; · (intro x hx; cases x <;> first | exact absurd (within_mem hT rfl) hx | exact rfl | exact ⟨rfl, rfl, rfl, rfl, rfl, rfl⟩)))

theorem beginForce_keeps (a : Accepted) {s : State} (hT : within [.pins, .boot, .dev, .faults, .mbx, .db, .locks, .ports, .cmds, .graphs, .bytes, .memCtl, .stk, .counts, .comp, .banks, .cairn, .las, .chans, .links, .fab, .d2d, .guest, .out, .free] T = true)
    (h : Keeps T s0 s) : Keeps T s0 (beginForce a s) := by
  unfold beginForce
  repeat' (first | with_reducible assumption | exact within_trans rfl hT | with_reducible apply finish_keeps | with_reducible apply forceEvent_keeps | with_reducible apply Keeps.foldl | intro _ | dsimp only | split)

theorem fltForceWrite_keeps (v : BitVec 64) {s : State} (hT : within [.pins, .boot, .dev, .faults, .mbx, .db, .locks, .ports, .cmds, .graphs, .bytes, .memCtl, .stk, .counts, .comp, .banks, .cairn, .las, .chans, .links, .fab, .d2d, .guest, .out, .free] T = true)
    (h : Keeps T s0 s) : Keeps T s0 (fltForceWrite v s).2 := by
  unfold fltForceWrite
  repeat' (first | with_reducible assumption | exact within_trans rfl hT | with_reducible apply forceEvent_keeps | with_reducible apply Keeps.foldl | with_reducible apply Keeps.foldlSnd | intro _ | dsimp only | split)

theorem beginFaultRead_keeps (a : Accepted) {s : State} (hT : within [.ports, .cmds, .bytes, .memCtl, .counts, .out] T = true)
    (h : Keeps T s0 s) : Keeps T s0 (beginFaultRead a s) := by
  unfold beginFaultRead
  repeat' (first | with_reducible assumption | exact within_trans rfl hT | with_reducible apply finishWith_keeps | with_reducible apply finish_keeps | with_reducible apply Keeps.foldl | intro _ | dsimp only | split)

theorem removeRecord_keeps (i : ℕ) (r : FaultRec) {s : State} (hT : within [.faults] T = true)
    (h : Keeps T s0 s) : Keeps T s0 (removeRecord i r s) := by
  unfold removeRecord
  repeat' (first | with_reducible assumption | with_reducible apply Keeps.foldl | intro _ | dsimp only | split | ((fail_if_no_progress (with_reducible apply keeps_mk)); rotate_left; · (intro x hx; cases x <;> first | exact absurd (within_mem hT rfl) hx | exact rfl | exact ⟨rfl, rfl, rfl, rfl, rfl, rfl⟩)))

theorem beginFaultClear_keeps (a : Accepted) {s : State} (hT : within [.faults, .cmds] T = true)
    (h : Keeps T s0 s) : Keeps T s0 (beginFaultClear a s) := by
  unfold beginFaultClear
  repeat' (first | with_reducible assumption | exact within_trans rfl hT | with_reducible apply finish_keeps | with_reducible apply removeRecord_keeps | with_reducible apply Keeps.foldl | intro _ | dsimp only | split)

theorem zeroKind_keeps (k : ℕ) {s : State} (hT : within [.counts] T = true)
    (h : Keeps T s0 s) : Keeps T s0 (zeroKind k s) := by
  unfold zeroKind
  repeat' (first | with_reducible assumption | with_reducible apply Keeps.foldl | intro _ | dsimp only | split | ((fail_if_no_progress (with_reducible apply keeps_mk)); rotate_left; · (intro x hx; cases x <;> first | exact absurd (within_mem hT rfl) hx | exact rfl | exact ⟨rfl, rfl, rfl, rfl, rfl, rfl⟩)))

theorem beginCountersEnable_keeps (a : Accepted) {s : State} (hT : within [.cmds, .counts] T = true)
    (h : Keeps T s0 s) : Keeps T s0 (beginCountersEnable a s) := by
  unfold beginCountersEnable
  repeat' (first | with_reducible assumption | exact within_trans rfl hT | with_reducible apply finish_keeps | with_reducible apply zeroKind_keeps | with_reducible apply Keeps.foldl | intro _ | dsimp only | split | ((fail_if_no_progress (with_reducible apply keeps_mk)); rotate_left; · (intro x hx; cases x <;> first | exact absurd (within_mem hT rfl) hx | exact rfl | exact ⟨rfl, rfl, rfl, rfl, rfl, rfl⟩)))

theorem beginCountersRead_keeps (a : Accepted) {s : State} (hT : within [.ports, .cmds, .bytes, .memCtl, .counts, .out] T = true)
    (h : Keeps T s0 s) : Keeps T s0 (beginCountersRead a s) := by
  unfold beginCountersRead
  repeat' (first | with_reducible assumption | exact within_trans rfl hT | with_reducible apply finish_keeps | with_reducible apply finishWith_keeps | with_reducible apply Keeps.foldl | intro _ | dsimp only | split | ((fail_if_no_progress (with_reducible apply keeps_mk)); rotate_left; · (intro x hx; cases x <;> first | exact absurd (within_mem hT rfl) hx | exact rfl | exact ⟨rfl, rfl, rfl, rfl, rfl, rfl⟩)))

end Sys2Proof.Machine
end

