-- ==== Sys2Proof/Laws/Regs.lean ====
section
/-!
SUPPORT. One lemma for each shared operation of Machine/Regs.lean: what it keeps of whatever state it is applied to.
The list in a lemma names the areas the operation may change.
-/

set_option linter.unusedTactic false
set_option linter.unreachableTactic false
set_option linter.unusedVariables false

namespace Sys2Proof.Machine

variable {T : List Area} {s0 : State}

theorem thThrottleWrite_keeps (v : BitVec 64) {s : State} (hT : within [.therm] T = true)
    (h : Keeps T s0 s) : Keeps T s0 (thThrottleWrite v s).2 := by
  unfold thThrottleWrite
  repeat' (first | with_reducible assumption | with_reducible apply Keeps.foldl | with_reducible apply Keeps.foldlSnd | intro _ | dsimp only | split | ((fail_if_no_progress (with_reducible apply keeps_mk)); rotate_left; · (intro x hx; cases x <;> first | exact absurd (within_mem hT rfl) hx | exact rfl | exact ⟨rfl, rfl, rfl, rfl, rfl, rfl⟩)))

theorem thGraceWrite_keeps (v : BitVec 64) {s : State} (hT : within [.therm] T = true)
    (h : Keeps T s0 s) : Keeps T s0 (thGraceWrite v s).2 := by
  unfold thGraceWrite
  repeat' (first | with_reducible assumption | with_reducible apply Keeps.foldl | with_reducible apply Keeps.foldlSnd | intro _ | dsimp only | split | ((fail_if_no_progress (with_reducible apply keeps_mk)); rotate_left; · (intro x hx; cases x <;> first | exact absurd (within_mem hT rfl) hx | exact rfl | exact ⟨rfl, rfl, rfl, rfl, rfl, rfl⟩)))

theorem cpSkewWrite_keeps (v : BitVec 64) {s : State} (hT : within [.ports] T = true)
    (h : Keeps T s0 s) : Keeps T s0 (cpSkewWrite v s).2 := by
  unfold cpSkewWrite
  repeat' (first | with_reducible assumption | with_reducible apply Keeps.foldl | with_reducible apply Keeps.foldlSnd | intro _ | dsimp only | split | ((fail_if_no_progress (with_reducible apply keeps_mk)); rotate_left; · (intro x hx; cases x <;> first | exact absurd (within_mem hT rfl) hx | exact rfl | exact ⟨rfl, rfl, rfl, rfl, rfl, rfl⟩)))

theorem fenceNow_keeps {s : State} (hT : within [.pins, .boot, .dev, .faults, .mbx, .db, .locks, .ports, .cmds, .graphs, .cairn, .d2d, .guest, .out, .free] T = true)
    (h : Keeps T s0 s) : Keeps T s0 (fenceNow s) := by
  unfold fenceNow
  repeat' (first | with_reducible assumption | exact within_trans rfl hT | with_reducible apply fenceGuest_keeps | with_reducible apply Keeps.foldl | intro _ | dsimp only | split)

theorem gfwWrite_keeps (r : ℕ) (v : BitVec 64) {s : State} (hT : within [.pins, .boot, .dev, .faults, .mbx, .db, .locks, .ports, .cmds, .graphs, .cairn, .d2d, .guest, .out, .free] T = true)
    (h : Keeps T s0 s) : Keeps T s0 (gfwWrite r v s) := by
  unfold gfwWrite
  repeat' (first | with_reducible assumption | exact within_trans rfl hT | with_reducible apply fenceNow_keeps | with_reducible apply Keeps.foldl | intro _ | dsimp only | split | ((fail_if_no_progress (with_reducible apply keeps_mk)); rotate_left; · (intro x hx; cases x <;> first | exact absurd (within_mem hT rfl) hx | exact rfl | exact ⟨rfl, rfl, rfl, rfl, rfl, rfl⟩)))

theorem crnTake_keeps {s : State} (hT : within [.cairn] T = true)
    (h : Keeps T s0 s) : Keeps T s0 (crnTake s).2 := by
  unfold crnTake
  repeat' (first | with_reducible assumption | exact within_trans rfl hT | with_reducible apply cairnStart_keeps | with_reducible apply cairnFire_keeps | with_reducible apply Keeps.foldl | with_reducible apply Keeps.foldlSnd | intro _ | dsimp only | split)

theorem mbWrite_keeps (r : ℕ) (v : BitVec 64) {s : State} (hT : within [.mbx] T = true)
    (h : Keeps T s0 s) : Keeps T s0 (mbWrite r v s).2 := by
  unfold mbWrite
  repeat' (first | with_reducible assumption | exact within_trans rfl hT | with_reducible apply partyPost_keeps | with_reducible apply partyStatusWrite_keeps | with_reducible apply Keeps.foldl | with_reducible apply Keeps.foldlSnd | intro _ | dsimp only | split)

theorem regWriteAt_keeps (off : ℕ) (v : BitVec 64) (m : Master) (secure : Bool) {s : State} (hT : within [.pins, .boot, .dev, .faults, .mbx, .db, .locks, .ports, .cmds, .graphs, .bytes, .memCtl, .stk, .counts, .comp, .banks, .cairn, .therm, .las, .chans, .links, .fab, .d2d, .guest, .out, .free] T = true)
    (h : Keeps T s0 s) : Keeps T s0 (regWriteAt off v m secure s).2 := by
  unfold regWriteAt
  repeat' (first | with_reducible assumption | exact within_trans rfl hT | with_reducible apply mbWrite_keeps | with_reducible apply hostStatusWrite_keeps | with_reducible apply hostMaskWrite_keeps | with_reducible apply fwRingWrite_keeps | with_reducible apply hostEpochWrite_keeps | with_reducible apply ringFw_keeps | with_reducible apply lockWrite_keeps | with_reducible apply fltForceWrite_keeps | with_reducible apply thThrottleWrite_keeps | with_reducible apply thGraceWrite_keeps | with_reducible apply cpSkewWrite_keeps | with_reducible apply gfwWrite_keeps | with_reducible apply crnTake_keeps | with_reducible apply ringConfigWrite_keeps | with_reducible apply cqConsumedWrite_keeps | with_reducible apply Keeps.foldl | with_reducible apply Keeps.foldlSnd | intro _ | dsimp only | split)

theorem hostRegReadAt_keeps (off : ℕ) (addr : ℕ) (type : ℕ) (a : Access) {s : State} (hT : within [.boot, .dev, .faults, .db, .locks, .ports, .cmds, .graphs, .cairn, .out] T = true)
    (h : Keeps T s0 s) : Keeps T s0 (hostRegReadAt off addr type a s).2.2 := by
  unfold hostRegReadAt
  repeat' (first | with_reducible assumption | exact within_trans rfl hT | with_reducible apply secureFault_keeps | with_reducible apply lockRead_keeps | with_reducible apply Keeps.foldl | with_reducible apply Keeps.foldlSnd | intro _ | dsimp only | split)

theorem hostRegRead_keeps (addr : ℕ) (type : ℕ) (a : Access) {s : State} (hT : within [.boot, .dev, .faults, .db, .locks, .ports, .cmds, .graphs, .cairn, .out] T = true)
    (h : Keeps T s0 s) : Keeps T s0 (hostRegRead addr type a s).2.2 := by
  unfold hostRegRead
  repeat' (first | with_reducible assumption | exact within_trans rfl hT | with_reducible apply hostRegReadAt_keeps | with_reducible apply Keeps.foldl | with_reducible apply Keeps.foldlSnd | intro _ | dsimp only | split)

theorem hostRegWrite_keeps (addr : ℕ) (type : ℕ) (v : BitVec 64) (a : Access) {s : State} (hT : within [.pins, .boot, .dev, .faults, .mbx, .db, .locks, .ports, .cmds, .graphs, .bytes, .memCtl, .stk, .counts, .comp, .banks, .cairn, .therm, .las, .chans, .links, .fab, .d2d, .guest, .out, .free] T = true)
    (h : Keeps T s0 s) : Keeps T s0 (hostRegWrite addr type v a s).2 := by
  unfold hostRegWrite
  repeat' (first | with_reducible assumption | exact within_trans rfl hT | with_reducible apply secureFault_keeps | with_reducible apply regWriteAt_keeps | with_reducible apply Keeps.foldl | with_reducible apply Keeps.foldlSnd | intro _ | dsimp only | split)

theorem bulkPut_keeps (a : ℕ) (bs : List Byte) {s : State} (hT : within [.bytes, .memCtl, .counts] T = true)
    (h : Keeps T s0 s) : Keeps T s0 (bulkPut a bs s) := by
  unfold bulkPut
  split
  · exact Keeps.foldl (dramWriteBytes_keeps _ _ (within_trans rfl hT) h) fun t x ht => countStack_keeps _ _ _ (within_trans rfl hT) ht
  · refine Keeps.foldl (keeps_cmPoison (within_trans rfl hT) h (rwf_foldl _ _ _ fun r x hr => rwf_rsub _ _ r hr)) fun t x ht => ?_
    split
    · split
      · exact ht
      · exact cmPut_keeps _ _ (within_trans rfl hT) ht
    · exact ht
  · refine Keeps.foldl (keeps_lsPoison (within_trans rfl hT) h (rwf_foldl _ _ _ fun r x hr => rwf_rsub _ _ r hr)) fun t x ht => ?_
    split
    · exact lsPut_keeps _ _ (within_trans rfl hT) ht
    · exact ht
  · exact h

theorem forcedLines_keeps (a : ℕ) (n : ℕ) {s : State} (hT : within [.faults] T = true)
    (h : Keeps T s0 s) : Keeps T s0 (forcedLines a n s).2 := by
  unfold forcedLines
  repeat' (first | with_reducible assumption | exact within_trans rfl hT | with_reducible apply forcedDone_keeps | with_reducible apply Keeps.foldl | with_reducible apply Keeps.foldlSnd | intro _ | dsimp only | split)

theorem bulkGet_keeps (a : ℕ) (n : ℕ) (found : List (ℕ × BadSymbols)) {s : State} (hT : within [.boot, .dev, .faults, .db, .ports, .cmds, .graphs, .bytes, .memCtl, .stk, .counts, .cairn, .out] T = true)
    (h : Keeps T s0 s) : Keeps T s0 (bulkGet a n found s).2.2 := by
  unfold bulkGet
  repeat' (first | with_reducible assumption | exact within_trans rfl hT | with_reducible apply readLines_keeps | with_reducible apply forcedLines_keeps | with_reducible apply Keeps.foldl | with_reducible apply Keeps.foldlSnd | intro _ | dsimp only | split)

end Sys2Proof.Machine
end

