-- ==== Sys2Proof/Laws/Peers.lean ====
section
/-!
SUPPORT. One lemma for each shared operation of Machine/Peers.lean: what it keeps of whatever state it is applied to.
The list in a lemma names the areas the operation may change.
-/

set_option linter.unusedTactic false
set_option linter.unreachableTactic false
set_option linter.unusedVariables false

namespace Sys2Proof.Machine

variable {T : List Area} {s0 : State}

theorem peerData_keeps (pkg : ℕ) (a : ℕ) (n : ℕ) (found : List (ℕ × BadSymbols)) {s : State} (hT : within [.boot, .dev, .faults, .db, .ports, .cmds, .graphs, .bytes, .memCtl, .stk, .counts, .cairn, .out] T = true)
    (h : Keeps T s0 s) : Keeps T s0 (peerData pkg a n found s).2.2 := by
  unfold peerData
  repeat' (first | with_reducible assumption | exact within_trans rfl hT | with_reducible apply forcedLines_keeps | with_reducible apply readLines_keeps | with_reducible apply Keeps.foldl | with_reducible apply Keeps.foldlSnd | intro _ | dsimp only | split)

theorem peerRead_keeps (pkg : ℕ) (tag : BitVec 32) (a : ℕ) (n : ℕ) (found : List (ℕ × BadSymbols)) {s : State} (hT : within [.boot, .dev, .faults, .db, .ports, .cmds, .graphs, .bytes, .memCtl, .stk, .counts, .cairn, .links, .fab, .out, .free] T = true)
    (h : Keeps T s0 s) : Keeps T s0 (peerRead pkg tag a n found s) := by
  unfold peerRead
  repeat' (first | with_reducible assumption | exact within_trans rfl hT | with_reducible apply respond_keeps | with_reducible apply peerData_keeps | with_reducible apply Keeps.foldl | with_reducible apply Keeps.foldlSnd | intro _ | dsimp only | split)

theorem peerWrite_keeps (pkg : ℕ) (tag : BitVec 32) (a : ℕ) (data : List Byte) (poison : Bool) {s : State} (hT : within [.boot, .dev, .faults, .db, .ports, .cmds, .graphs, .bytes, .memCtl, .counts, .cairn, .links, .fab, .out, .free] T = true)
    (h : Keeps T s0 s) : Keeps T s0 (peerWrite pkg tag a data poison s) := by
  unfold peerWrite
  repeat' (first | with_reducible assumption | exact within_trans rfl hT | with_reducible apply respond_keeps | with_reducible apply countStack_keeps | with_reducible apply dramWriteBytes_keeps | with_reducible apply dramTaint_keeps | with_reducible apply Keeps.foldl | intro _ | dsimp only | split)

theorem dropReq_keeps (tag : BitVec 32) {s : State} (hT : within [.fab] T = true)
    (h : Keeps T s0 s) : Keeps T s0 (dropReq tag s) := by
  unfold dropReq
  repeat' (first | with_reducible assumption | with_reducible apply Keeps.foldl | intro _ | dsimp only | split | ((fail_if_no_progress (with_reducible apply keeps_mk)); rotate_left; · (intro x hx; cases x <;> first | exact absurd (within_mem hT rfl) hx | exact rfl | exact ⟨rfl, rfl, rfl, rfl, rfl, rfl⟩)))

theorem dropWaiting_keeps (tag : BitVec 32) {s : State} (hT : within [.fab] T = true)
    (h : Keeps T s0 s) : Keeps T s0 (dropWaiting tag s) := by
  unfold dropWaiting
  repeat' (first | with_reducible assumption | with_reducible apply Keeps.foldl | intro _ | dsimp only | split | ((fail_if_no_progress (with_reducible apply keeps_mk)); rotate_left; · (intro x hx; cases x <;> first | exact absurd (within_mem hT rfl) hx | exact rfl | exact ⟨rfl, rfl, rfl, rfl, rfl, rfl⟩)))

theorem responseArrives_keeps (tag : BitVec 32) (st : ℕ) (data : List Byte) (poison : Bool) {s : State} (hT : within [.boot, .dev, .faults, .db, .ports, .cmds, .graphs, .bytes, .memCtl, .counts, .comp, .cairn, .links, .fab, .out, .free] T = true)
    (h : Keeps T s0 s) : Keeps T s0 (responseArrives tag st data poison s) := by
  unfold responseArrives
  repeat' (first | with_reducible assumption | exact within_trans rfl hT | with_reducible apply fabCount_keeps | with_reducible apply countPeer_keeps | with_reducible apply mreqEnd_keeps | with_reducible apply dropReq_keeps | with_reducible apply peerPartFails_keeps | with_reducible apply faultDOpen_keeps | with_reducible apply Keeps.foldl | intro _ | dsimp only | split)

theorem requestOver_keeps (r : FabReq) {s : State} (hT : within [.boot, .dev, .faults, .db, .ports, .cmds, .graphs, .bytes, .memCtl, .counts, .comp, .cairn, .links, .fab, .out, .free] T = true)
    (h : Keeps T s0 s) : Keeps T s0 (requestOver r s) := by
  unfold requestOver
  repeat' (first | with_reducible assumption | exact within_trans rfl hT | with_reducible apply dropWaiting_keeps | with_reducible apply dropReq_keeps | with_reducible apply fabricRetry_keeps | with_reducible apply mreqEnd_keeps | with_reducible apply peerPartFails_keeps | with_reducible apply faultDOpen_keeps | with_reducible apply Keeps.foldl | intro _ | dsimp only | split)

theorem loanNotice_keeps (i : ℕ) (w : Loan) (opened : Bool) {s : State} (hT : within [.db, .ports, .cmds, .out, .free] T = true)
    (h : Keeps T s0 s) : Keeps T s0 (loanNotice i w opened s) := by
  unfold loanNotice
  repeat' (first | with_reducible assumption | exact within_trans rfl hT | with_reducible apply useFree_keeps | with_reducible apply notice_keeps | with_reducible apply Keeps.foldl | with_reducible apply Keeps.foldlSnd | intro _ | dsimp only | split)

theorem openWindow_keeps (i : ℕ) (w : Loan) {s : State} (hT : within [.db, .ports, .cmds, .memCtl, .out, .free] T = true)
    (h : Keeps T s0 s) : Keeps T s0 (openWindow i w s) := by
  unfold openWindow
  repeat' (first | with_reducible assumption | exact within_trans rfl hT | with_reducible apply loanNotice_keeps | with_reducible apply Keeps.foldl | intro _ | dsimp only | split | ((fail_if_no_progress (with_reducible apply keeps_mk)); rotate_left; · (intro x hx; cases x <;> first | exact absurd (within_mem hT rfl) hx | exact rfl | exact ⟨rfl, rfl, rfl, rfl, rfl, rfl⟩)) | ((fail_if_no_progress (with_reducible apply keeps_mkMem)); rotate_left; · (intro x hx; cases x <;> first | exact absurd (within_mem hT rfl) hx | exact rfl | exact ⟨rfl, rfl, rfl, rfl, rfl, rfl⟩)))

theorem closeWindow_keeps (i : ℕ) (w : Loan) {s : State} (hT : within [.db, .ports, .cmds, .memCtl, .out, .free] T = true)
    (h : Keeps T s0 s) : Keeps T s0 (closeWindow i w s) := by
  unfold closeWindow
  repeat' (first | with_reducible assumption | exact within_trans rfl hT | with_reducible apply loanNotice_keeps | with_reducible apply Keeps.foldl | intro _ | dsimp only | split | ((fail_if_no_progress (with_reducible apply keeps_mk)); rotate_left; · (intro x hx; cases x <;> first | exact absurd (within_mem hT rfl) hx | exact rfl | exact ⟨rfl, rfl, rfl, rfl, rfl, rfl⟩)) | ((fail_if_no_progress (with_reducible apply keeps_mkMem)); rotate_left; · (intro x hx; cases x <;> first | exact absurd (within_mem hT rfl) hx | exact rfl | exact ⟨rfl, rfl, rfl, rfl, rfl, rfl⟩)))

theorem openLoan_keeps (i : ℕ) (base : ℕ) (size : ℕ) (pkg : ℕ) {s : State} (hT : within [.db, .ports, .cmds, .bytes, .memCtl, .out, .free] T = true)
    (h : Keeps T s0 s) : Keeps T s0 (openLoan i base size pkg s) := by
  unfold openLoan
  exact openWindow_keeps _ _ (within_trans rfl hT) (zeroSpan_keeps _ _ (within_trans rfl hT) h)

theorem sysAnswer_keeps (pkg : ℕ) (tag : BitVec 32) (st : Status) (fields : List Byte) {s : State} (hT : within [.boot, .dev, .faults, .db, .ports, .cmds, .graphs, .counts, .cairn, .links, .fab, .out, .free] T = true)
    (h : Keeps T s0 s) : Keeps T s0 (sysAnswer pkg tag st fields s) := by
  unfold sysAnswer
  repeat' (first | with_reducible assumption | exact within_trans rfl hT | with_reducible apply launch_keeps | with_reducible apply Keeps.foldl | intro _ | dsimp only | split)

theorem startConfirmed_keeps (pkg : ℕ) (tag : BitVec 32) (b : BitVec 128) (c : BitVec 32) {s : State} (hT : within [.boot, .dev, .faults, .db, .ports, .cmds, .graphs, .counts, .comp, .cairn, .links, .fab, .out, .free] T = true)
    (h : Keeps T s0 s) : Keeps T s0 (startConfirmed pkg tag b c s) := by
  unfold startConfirmed
  repeat' (first | with_reducible assumption | exact within_trans rfl hT | with_reducible apply sysAnswer_keeps | with_reducible apply peerConfirms_keeps | with_reducible apply Keeps.foldl | intro _ | dsimp only | split)

theorem loanReply_keeps (pkg : ℕ) (tag : BitVec 32) (r : Status × ℕ × ℕ × ℕ) {s : State} (hT : within [.boot, .dev, .faults, .db, .ports, .cmds, .graphs, .bytes, .memCtl, .counts, .cairn, .links, .fab, .out, .free] T = true)
    (h : Keeps T s0 s) : Keeps T s0 (loanReply pkg tag r s) := by
  unfold loanReply
  repeat' (first | with_reducible assumption | exact within_trans rfl hT | with_reducible apply sysAnswer_keeps | with_reducible apply openLoan_keeps | with_reducible apply Keeps.foldl | intro _ | dsimp only | split)

theorem sysArrives_keeps (pkg : ℕ) (tag : BitVec 32) (m : SysMsg) {s : State} (hT : within [.boot, .dev, .faults, .db, .ports, .cmds, .graphs, .bytes, .memCtl, .counts, .comp, .cairn, .links, .fab, .out, .free] T = true)
    (h : Keeps T s0 s) : Keeps T s0 (sysArrives pkg tag m s) := by
  unfold sysArrives
  repeat' (first | with_reducible assumption | exact within_trans rfl hT | with_reducible apply sysAnswer_keeps | with_reducible apply loanReply_keeps | with_reducible apply closeWindow_keeps | with_reducible apply startConfirmed_keeps | with_reducible apply Keeps.foldl | intro _ | dsimp only | split)

theorem messageAnswered_keeps (r : FabReq) (st : ℕ) (window : Option (ℕ × ℕ)) {s : State} (hT : within [.boot, .dev, .faults, .db, .ports, .cmds, .graphs, .bytes, .memCtl, .counts, .comp, .cairn, .links, .fab, .out, .free] T = true)
    (h : Keeps T s0 s) : Keeps T s0 (messageAnswered r st window s) := by
  unfold messageAnswered
  repeat' (first | with_reducible assumption | exact within_trans rfl hT | with_reducible apply lenderAnswers_keeps | with_reducible apply peerConfirms_keeps | with_reducible apply Keeps.foldl | intro _ | dsimp only | split)

theorem sysRespArrives_keeps (tag : BitVec 32) (st : ℕ) (window : Option (ℕ × ℕ)) {s : State} (hT : within [.boot, .dev, .faults, .db, .ports, .cmds, .graphs, .bytes, .memCtl, .counts, .comp, .cairn, .links, .fab, .out, .free] T = true)
    (h : Keeps T s0 s) : Keeps T s0 (sysRespArrives tag st window s) := by
  unfold sysRespArrives
  repeat' (first | with_reducible assumption | exact within_trans rfl hT | with_reducible apply fabricRetry_keeps | with_reducible apply messageAnswered_keeps | with_reducible apply dropReq_keeps | with_reducible apply askAnswered_keeps | with_reducible apply fabCount_keeps | with_reducible apply Keeps.foldl | intro _ | dsimp only | split)

end Sys2Proof.Machine
end

