-- ==== Sys2Proof/Laws/Coll.lean ====
section
/-!
SUPPORT. One lemma for each shared operation of Machine/Coll.lean: what it keeps of whatever state it is applied to.
The list in a lemma names the areas the operation may change.
-/

set_option linter.unusedTactic false
set_option linter.unreachableTactic false
set_option linter.unusedVariables false

namespace Sys2Proof.Machine

variable {T : List Area} {s0 : State}

theorem sendColl_keeps (type : ℕ) (dst : ℕ) (m : CollMsg) {s : State} (hT : within [.boot, .dev, .faults, .db, .ports, .cmds, .graphs, .counts, .comp, .cairn, .links, .fab, .out, .free] T = true)
    (h : Keeps T s0 s) : Keeps T s0 (sendColl type dst m s) := by
  unfold sendColl
  repeat' (first | with_reducible assumption | exact within_trans rfl hT | with_reducible apply sendFlit_keeps | with_reducible apply Keeps.foldl | intro _ | dsimp only | split)

theorem putSlot_keeps (f : Flank) (coll : ℕ) (chunk : ℕ) (x : Option RedSlot) {s : State} (hT : within [.fab] T = true)
    (h : Keeps T s0 s) : Keeps T s0 (putSlot f coll chunk x s) := by
  unfold putSlot
  repeat' (first | with_reducible assumption | with_reducible apply Keeps.foldl | intro _ | dsimp only | split | ((fail_if_no_progress (with_reducible apply keeps_mk)); rotate_left; · (intro x hx; cases x <;> first | exact absurd (within_mem hT rfl) hx | exact rfl | exact ⟨rfl, rfl, rfl, rfl, rfl, rfl⟩)))

theorem chunkStored_keeps (e : RedEntry) (g : Graph) (x : Execution) (m : CollMsg) {s : State} (hT : within [.boot, .dev, .faults, .db, .ports, .cmds, .graphs, .bytes, .memCtl, .counts, .comp, .cairn, .links, .fab, .out, .free] T = true)
    (h : Keeps T s0 s) : Keeps T s0 (chunkStored e g x m s) := by
  unfold chunkStored
  repeat' (first | with_reducible assumption | exact within_trans rfl hT | with_reducible apply boundWrite_keeps | with_reducible apply boundTaint_keeps | with_reducible apply Keeps.foldl | intro _ | dsimp only | split | ((fail_if_no_progress (with_reducible apply keeps_mk)); rotate_left; · (intro x hx; cases x <;> first | exact absurd (within_mem hT rfl) hx | exact rfl | exact ⟨rfl, rfl, rfl, rfl, rfl, rfl⟩)))

theorem collLocal_keeps (e : RedEntry) (m : CollMsg) {s : State} (hT : within [.boot, .dev, .faults, .db, .ports, .cmds, .graphs, .bytes, .memCtl, .counts, .comp, .cairn, .links, .fab, .out, .free] T = true)
    (h : Keeps T s0 s) : Keeps T s0 (collLocal e m s) := by
  unfold collLocal
  repeat' (first | with_reducible assumption | exact within_trans rfl hT | with_reducible apply emit_keeps | with_reducible apply chunkStored_keeps | with_reducible apply slotSet_keeps | with_reducible apply Keeps.foldl | intro _ | dsimp only | split)

theorem collDeliver_keeps (e : RedEntry) (m : CollMsg) (branches : List ℕ) {s : State} (hT : within [.boot, .dev, .faults, .db, .ports, .cmds, .graphs, .bytes, .memCtl, .counts, .comp, .cairn, .links, .fab, .out, .free] T = true)
    (h : Keeps T s0 s) : Keeps T s0 (collDeliver e m branches s) := by
  unfold collDeliver
  repeat' (first | with_reducible assumption | exact within_trans rfl hT | with_reducible apply collLocal_keeps | with_reducible apply sendColl_keeps | with_reducible apply Keeps.foldl | intro _ | dsimp only | split)

theorem collWhole_keeps (e : RedEntry) (fl : Flank) (coll : ℕ) (chunk : ℕ) (x : RedSlot) {s : State} (hT : within [.boot, .dev, .faults, .db, .ports, .cmds, .graphs, .bytes, .memCtl, .counts, .comp, .cairn, .links, .fab, .out, .free] T = true)
    (h : Keeps T s0 s) : Keeps T s0 (collWhole e fl coll chunk x s) := by
  unfold collWhole
  repeat' (first | with_reducible assumption | exact within_trans rfl hT | with_reducible apply collDeliver_keeps | with_reducible apply putSlot_keeps | with_reducible apply sendColl_keeps | with_reducible apply Keeps.foldl | intro _ | dsimp only | split)

theorem collStore_keeps (e : RedEntry) (fl : Flank) (coll : ℕ) (chunk : ℕ) (x : RedSlot) {s : State} (hT : within [.boot, .dev, .faults, .db, .ports, .cmds, .graphs, .bytes, .memCtl, .counts, .comp, .cairn, .links, .fab, .out, .free] T = true)
    (h : Keeps T s0 s) : Keeps T s0 (collStore e fl coll chunk x s) := by
  unfold collStore
  repeat' (first | with_reducible assumption | exact within_trans rfl hT | with_reducible apply collWhole_keeps | with_reducible apply putSlot_keeps | with_reducible apply Keeps.foldl | intro _ | dsimp only | split)

theorem collContrib_keeps (fl : Flank) (g : ℕ) (m : CollMsg) {s : State} (hT : within [.boot, .dev, .faults, .db, .ports, .cmds, .graphs, .bytes, .memCtl, .counts, .comp, .cairn, .links, .fab, .out, .free] T = true)
    (h : Keeps T s0 s) : Keeps T s0 (collContrib fl g m s) := by
  unfold collContrib
  repeat' (first | with_reducible assumption | exact within_trans rfl hT | with_reducible apply countLink_keeps | with_reducible apply collStore_keeps | with_reducible apply sendColl_keeps | with_reducible apply Keeps.foldl | intro _ | dsimp only | split)

theorem collResult_keeps (m : CollMsg) {s : State} (hT : within [.boot, .dev, .faults, .db, .ports, .cmds, .graphs, .bytes, .memCtl, .counts, .comp, .cairn, .links, .fab, .out, .free] T = true)
    (h : Keeps T s0 s) : Keeps T s0 (collResult m s) := by
  unfold collResult
  repeat' (first | with_reducible assumption | exact within_trans rfl hT | with_reducible apply collDeliver_keeps | with_reducible apply putSlot_keeps | with_reducible apply Keeps.foldl | intro _ | dsimp only | split)

theorem collOut_keeps (p : ℕ) (w : WorkItem) (seq : BitVec 32) {s : State} (hT : within [.boot, .dev, .faults, .db, .ports, .cmds, .graphs, .bytes, .memCtl, .counts, .comp, .cairn, .links, .fab, .out, .free] T = true)
    (h : Keeps T s0 s) : Keeps T s0 (collOut p w seq s) := by
  unfold collOut
  repeat' (first | with_reducible assumption | exact within_trans rfl hT | with_reducible apply tensorBytes_keeps | with_reducible apply collContrib_keeps | with_reducible apply Keeps.foldl | with_reducible apply Keeps.foldlSnd | intro _ | dsimp only | split)

end Sys2Proof.Machine
end

