-- ==== Sys2Proof/Laws/Cairn.lean ====
section
/-!
SUPPORT. One lemma for each shared operation of Machine/Cairn.lean: what it keeps of whatever state it is applied to.
The list in a lemma names the areas the operation may change.
-/

set_option linter.unusedTactic false
set_option linter.unreachableTactic false
set_option linter.unusedVariables false

namespace Sys2Proof.Machine

variable {T : List Area} {s0 : State}

theorem beginCairnArm_keeps (a : Accepted) {s : State} (hT : within [.cmds, .cairn] T = true)
    (h : Keeps T s0 s) : Keeps T s0 (beginCairnArm a s) := by
  unfold beginCairnArm
  repeat' (first | with_reducible assumption | exact within_trans rfl hT | with_reducible apply finish_keeps | with_reducible apply Keeps.foldl | intro _ | dsimp only | split | ((fail_if_no_progress (with_reducible apply keeps_mk)); rotate_left; · (intro x hx; cases x <;> first | exact absurd (within_mem hT rfl) hx | exact rfl | exact ⟨rfl, rfl, rfl, rfl, rfl, rfl⟩)))

theorem joinTake_keeps (a : Accepted) {s : State} (hT : within [.cairn] T = true)
    (h : Keeps T s0 s) : Keeps T s0 (joinTake a s) := by
  unfold joinTake
  repeat' (first | with_reducible assumption | with_reducible apply Keeps.foldl | intro _ | dsimp only | split | ((fail_if_no_progress (with_reducible apply keeps_mk)); rotate_left; · (intro x hx; cases x <;> first | exact absurd (within_mem hT rfl) hx | exact rfl | exact ⟨rfl, rfl, rfl, rfl, rfl, rfl⟩)))

theorem beginCairnTake_keeps (a : Accepted) {s : State} (hT : within [.cmds, .cairn] T = true)
    (h : Keeps T s0 s) : Keeps T s0 (beginCairnTake a s) := by
  unfold beginCairnTake
  repeat' (first | with_reducible assumption | exact within_trans rfl hT | with_reducible apply finish_keeps | with_reducible apply joinTake_keeps | with_reducible apply cairnStart_keeps | with_reducible apply Keeps.foldl | intro _ | dsimp only | split)

theorem beginCairnRead_keeps (a : Accepted) {s : State} (hT : within [.ports, .cmds, .bytes, .memCtl, .counts, .out] T = true)
    (h : Keeps T s0 s) : Keeps T s0 (beginCairnRead a s) := by
  unfold beginCairnRead
  repeat' (first | with_reducible assumption | exact within_trans rfl hT | with_reducible apply finish_keeps | with_reducible apply finishWith_keeps | with_reducible apply Keeps.foldl | intro _ | dsimp only | split)

theorem putPiece_keeps (a : ℕ) (bs : List Byte) {s : State} (hT : within [.bytes] T = true)
    (h : Keeps T s0 s) : Keeps T s0 (putPiece a bs s) := by
  unfold putPiece
  repeat' (first | with_reducible assumption | exact within_trans rfl hT | with_reducible apply dramPut_keeps | with_reducible apply Keeps.foldl | intro _ | dsimp only | split)

theorem writeCairn_keeps {s : State} (hT : within [.bytes, .free] T = true)
    (h : Keeps T s0 s) : Keeps T s0 (writeCairn s) := by
  unfold writeCairn
  refine Keeps.foldl (Keeps.upd h rfl (fun w => ?_) (leaf_same rfl) ?_) fun t x ht => putPiece_keeps _ _ (within_trans rfl hT) ht
  · simp only [Memory.wf_iff] at w ⊢
    exact ⟨tabWf_tclear 0 _ _ w.1, w.2.1, w.2.2.1, rwf_foldl _ _ _ (fun r x hr => rwf_rsub _ _ r hr) w.2.2.2.1,
      w.2.2.2.2⟩
  · intro x hx; cases x <;> first | exact absurd (within_mem hT rfl) hx | exact rfl | exact ⟨rfl, rfl, rfl, rfl, rfl, rfl⟩

theorem afterTake_keeps {s : State} (hT : within [.boot, .dev, .db, .ports, .cmds, .graphs, .cairn, .out] T = true)
    (h : Keeps T s0 s) : Keeps T s0 (afterTake s) := by
  unfold afterTake
  repeat' (first | with_reducible assumption | exact within_trans rfl hT | with_reducible apply notice_keeps | with_reducible apply finish_keeps | with_reducible apply enterFaulted_keeps | with_reducible apply Keeps.foldl | intro _ | dsimp only | split | ((fail_if_no_progress (with_reducible apply keeps_mk)); rotate_left; · (intro x hx; cases x <;> first | exact absurd (within_mem hT rfl) hx | exact rfl | exact ⟨rfl, rfl, rfl, rfl, rfl, rfl⟩)))

theorem fillsResume_keeps (ns : ℕ) {s : State} (hT : within [.comp] T = true)
    (h : Keeps T s0 s) : Keeps T s0 (fillsResume ns s) := by
  unfold fillsResume
  repeat' (first | with_reducible assumption | with_reducible apply Keeps.foldl | intro _ | dsimp only | split | ((fail_if_no_progress (with_reducible apply keeps_mk)); rotate_left; · (intro x hx; cases x <;> first | exact absurd (within_mem hT rfl) hx | exact rfl | exact ⟨rfl, rfl, rfl, rfl, rfl, rfl⟩)))

end Sys2Proof.Machine
end

