-- ==== Sys2Proof/Laws/DevCmds.lean ====
section
/-!
SUPPORT. One lemma for each shared operation of Machine/DevCmds.lean: what it keeps of whatever state it is applied to.
The list in a lemma names the areas the operation may change.
-/

set_option linter.unusedTactic false
set_option linter.unreachableTactic false
set_option linter.unusedVariables false

namespace Sys2Proof.Machine

variable {T : List Area} {s0 : State}

theorem beginDeviceInfo_keeps (a : Accepted) {s : State} (hT : within [.ports, .cmds, .bytes, .memCtl, .counts, .out] T = true)
    (h : Keeps T s0 s) : Keeps T s0 (beginDeviceInfo a s) := by
  unfold beginDeviceInfo
  repeat' (first | with_reducible assumption | exact within_trans rfl hT | with_reducible apply finishWith_keeps | with_reducible apply Keeps.foldl | intro _ | dsimp only | split)

theorem standDown_keeps {s : State} (hT : within [.counts, .comp, .las] T = true)
    (h : Keeps T s0 s) : Keeps T s0 (standDown s) := by
  unfold standDown
  repeat' (first | with_reducible assumption | exact within_trans rfl hT | with_reducible apply laserOff_keeps | with_reducible apply gateCluster_keeps | with_reducible apply Keeps.foldl | intro _ | dsimp only | split)

theorem beginStandby_keeps (a : Accepted) {s : State} (hT : within [.dev, .db, .ports, .cmds, .counts, .comp, .las, .out] T = true)
    (h : Keeps T s0 s) : Keeps T s0 (beginStandby a s) := by
  unfold beginStandby
  repeat' (first | with_reducible assumption | exact within_trans rfl hT | with_reducible apply finish_keeps | with_reducible apply setDev_keeps | with_reducible apply standDown_keeps | with_reducible apply Keeps.foldl | intro _ | dsimp only | split)

theorem beginLimit_keeps (a : Accepted) {s : State} (hT : within [.dev, .cmds, .counts, .comp, .therm, .out] T = true)
    (h : Keeps T s0 s) : Keeps T s0 (beginLimit a s) := by
  unfold beginLimit
  repeat' (first | with_reducible assumption | exact within_trans rfl hT | with_reducible apply finish_keeps | with_reducible apply applyBoth_keeps | with_reducible apply Keeps.foldl | intro _ | dsimp only | split | ((fail_if_no_progress (with_reducible apply keeps_mk)); rotate_left; · (intro x hx; cases x <;> first | exact absurd (within_mem hT rfl) hx | exact rfl | exact ⟨rfl, rfl, rfl, rfl, rfl, rfl⟩)))

theorem beginWatchdog_keeps (a : Accepted) {s : State} (hT : within [.cmds] T = true)
    (h : Keeps T s0 s) : Keeps T s0 (beginWatchdog a s) := by
  unfold beginWatchdog
  repeat' (first | with_reducible assumption | exact within_trans rfl hT | with_reducible apply finish_keeps | with_reducible apply Keeps.foldl | intro _ | dsimp only | split | ((fail_if_no_progress (with_reducible apply keeps_mk)); rotate_left; · (intro x hx; cases x <;> first | exact absurd (within_mem hT rfl) hx | exact rfl | exact ⟨rfl, rfl, rfl, rfl, rfl, rfl⟩)))

theorem beginAck_keeps (a : Accepted) {s : State} (hT : within [.cmds, .counts, .comp, .therm, .out] T = true)
    (h : Keeps T s0 s) : Keeps T s0 (beginAck a s) := by
  unfold beginAck
  repeat' (first | with_reducible assumption | exact within_trans rfl hT | with_reducible apply setReq_keeps | with_reducible apply finish_keeps | with_reducible apply startEnforce_keeps | with_reducible apply Keeps.foldl | intro _ | dsimp only | split)

theorem beginSetMode_keeps (a : Accepted) {s : State} (hT : within [.cmds, .memCtl] T = true)
    (h : Keeps T s0 s) : Keeps T s0 (beginSetMode a s) := by
  unfold beginSetMode
  repeat' (first | with_reducible assumption | exact within_trans rfl hT | with_reducible apply finish_keeps | with_reducible apply Keeps.foldl | intro _ | dsimp only | split | ((fail_if_no_progress (with_reducible apply keeps_mk)); rotate_left; · (intro x hx; cases x <;> first | exact absurd (within_mem hT rfl) hx | exact rfl | exact ⟨rfl, rfl, rfl, rfl, rfl, rfl⟩)) | ((fail_if_no_progress (with_reducible apply keeps_mkMem)); rotate_left; · (intro x hx; cases x <;> first | exact absurd (within_mem hT rfl) hx | exact rfl | exact ⟨rfl, rfl, rfl, rfl, rfl, rfl⟩)))

theorem beginLend_keeps (a : Accepted) {s : State} (hT : within [.db, .ports, .cmds, .memCtl, .out, .free] T = true)
    (h : Keeps T s0 s) : Keeps T s0 (beginLend a s) := by
  unfold beginLend
  repeat' (first | with_reducible assumption | exact within_trans rfl hT | with_reducible apply finish_keeps | with_reducible apply openWindow_keeps | with_reducible apply Keeps.foldl | intro _ | dsimp only | split)

theorem beginLendLimit_keeps (a : Accepted) {s : State} (hT : within [.cmds, .memCtl] T = true)
    (h : Keeps T s0 s) : Keeps T s0 (beginLendLimit a s) := by
  unfold beginLendLimit
  repeat' (first | with_reducible assumption | exact within_trans rfl hT | with_reducible apply finish_keeps | with_reducible apply Keeps.foldl | intro _ | dsimp only | split | ((fail_if_no_progress (with_reducible apply keeps_mk)); rotate_left; · (intro x hx; cases x <;> first | exact absurd (within_mem hT rfl) hx | exact rfl | exact ⟨rfl, rfl, rfl, rfl, rfl, rfl⟩)) | ((fail_if_no_progress (with_reducible apply keeps_mkMem)); rotate_left; · (intro x hx; cases x <;> first | exact absurd (within_mem hT rfl) hx | exact rfl | exact ⟨rfl, rfl, rfl, rfl, rfl, rfl⟩)))

theorem beginReclaim_keeps (a : Accepted) {s : State} (hT : within [.db, .ports, .cmds, .memCtl, .out, .free] T = true)
    (h : Keeps T s0 s) : Keeps T s0 (beginReclaim a s) := by
  unfold beginReclaim
  repeat' (first | with_reducible assumption | exact within_trans rfl hT | with_reducible apply finish_keeps | with_reducible apply closeWindow_keeps | with_reducible apply Keeps.foldl | intro _ | dsimp only | split)

theorem beginFabStatus_keeps (a : Accepted) {s : State} (hT : within [.ports, .cmds, .bytes, .memCtl, .counts, .out] T = true)
    (h : Keeps T s0 s) : Keeps T s0 (beginFabStatus a s) := by
  unfold beginFabStatus
  repeat' (first | with_reducible assumption | exact within_trans rfl hT | with_reducible apply finishWith_keeps | with_reducible apply Keeps.foldl | intro _ | dsimp only | split)

theorem linkOff_keeps (n : ℕ) {s : State} (hT : within [.boot, .dev, .faults, .db, .ports, .cmds, .graphs, .counts, .cairn, .las, .chans, .links, .fab, .out, .free] T = true)
    (h : Keeps T s0 s) : Keeps T s0 (linkOff n s) := by
  unfold linkOff
  repeat' (first | with_reducible assumption | exact within_trans rfl hT | with_reducible apply refreshDegraded_keeps | with_reducible apply enterTrain_keeps | with_reducible apply Keeps.foldl | intro _ | dsimp only | split)

theorem linkRelease_keeps (n : ℕ) {s : State} (hT : within [.boot, .dev, .faults, .db, .ports, .cmds, .graphs, .counts, .cairn, .las, .chans, .links, .fab, .out, .free] T = true)
    (h : Keeps T s0 s) : Keeps T s0 (linkRelease n s) := by
  unfold linkRelease
  repeat' (first | with_reducible assumption | exact within_trans rfl hT | with_reducible apply enterTrain_keeps | with_reducible apply linkSet_keeps | with_reducible apply Keeps.foldl | intro _ | dsimp only | split)

theorem beginLinkCtrl_keeps (a : Accepted) {s : State} (hT : within [.boot, .dev, .faults, .db, .ports, .cmds, .graphs, .counts, .cairn, .las, .chans, .links, .fab, .out, .free] T = true)
    (h : Keeps T s0 s) : Keeps T s0 (beginLinkCtrl a s) := by
  unfold beginLinkCtrl
  repeat' (first | with_reducible assumption | exact within_trans rfl hT | with_reducible apply finish_keeps | with_reducible apply refreshDegraded_keeps | with_reducible apply linkOff_keeps | with_reducible apply linkSet_keeps | with_reducible apply askRetrain_keeps | with_reducible apply linkRelease_keeps | with_reducible apply Keeps.foldl | intro _ | dsimp only | split)

theorem testApply_keeps (r : TestRec) {s : State} (hT : within [.boot, .dev, .faults, .db, .ports, .cmds, .graphs, .counts, .cairn, .las, .chans, .links, .fab, .out, .free] T = true)
    (h : Keeps T s0 s) : Keeps T s0 (testApply r s) := by
  unfold testApply
  repeat' (first | with_reducible assumption | exact within_trans rfl hT | with_reducible apply setChan_keeps | with_reducible apply startTest_keeps | with_reducible apply Keeps.foldl | intro _ | dsimp only | split)

theorem reLink_keeps (old : State) (n : ℕ) {s : State} (hT : within [.boot, .dev, .faults, .db, .ports, .cmds, .graphs, .counts, .cairn, .las, .chans, .links, .fab, .out, .free] T = true)
    (h : Keeps T s0 s) : Keeps T s0 (reLink old n s) := by
  unfold reLink
  repeat' (first | with_reducible assumption | exact within_trans rfl hT | with_reducible apply linkOff_keeps | with_reducible apply linkRelease_keeps | with_reducible apply askRetrain_keeps | with_reducible apply enterSend_keeps | with_reducible apply Keeps.foldl | intro _ | dsimp only | split)

theorem electAfresh_keeps {s : State} (hT : within [.clock] T = true)
    (h : Keeps T s0 s) : Keeps T s0 (electAfresh s) := by
  unfold electAfresh
  repeat' (first | with_reducible assumption | with_reducible apply Keeps.foldl | intro _ | dsimp only | split | ((fail_if_no_progress (with_reducible apply keeps_mk)); rotate_left; · (intro x hx; cases x <;> first | exact absurd (within_mem hT rfl) hx | exact rfl | exact ⟨rfl, rfl, rfl, rfl, rfl, rfl⟩)))

theorem beginFabConfig_keeps (a : Accepted) {s : State} (hT : within [.clock, .boot, .dev, .faults, .db, .ports, .cmds, .graphs, .counts, .cairn, .las, .chans, .links, .fab, .out, .free] T = true)
    (h : Keeps T s0 s) : Keeps T s0 (beginFabConfig a s) := by
  unfold beginFabConfig
  repeat' (first | with_reducible assumption | exact within_trans rfl hT | with_reducible apply argBytes_keeps | with_reducible apply finish_keeps | with_reducible apply electAfresh_keeps | with_reducible apply reLink_keeps | with_reducible apply refreshDegraded_keeps | with_reducible apply testApply_keeps | with_reducible apply Keeps.foldl | with_reducible apply Keeps.foldlSnd | intro _ | dsimp only | split | ((fail_if_no_progress (with_reducible apply keeps_mk)); rotate_left; · (intro x hx; cases x <;> first | exact absurd (within_mem hT rfl) hx | exact rfl | exact ⟨rfl, rfl, rfl, rfl, rfl, rfl⟩)))

end Sys2Proof.Machine
end

