-- ==== Sys2Proof/Laws/Security.lean ====
section
/-!
SUPPORT. One lemma for each shared operation of Machine/Security.lean: what it keeps of whatever state it is applied to.
The list in a lemma names the areas the operation may change.
-/

set_option linter.unusedTactic false
set_option linter.unreachableTactic false
set_option linter.unusedVariables false

namespace Sys2Proof.Machine

variable {T : List Area} {s0 : State}

theorem watchLeaves_keeps {s : State} (hT : within [.boot, .dev, .faults, .db, .ports, .cmds, .graphs, .cairn, .sec, .out] T = true)
    (h : Keeps T s0 s) : Keeps T s0 (watchLeaves s) := by
  unfold watchLeaves
  repeat' (first | with_reducible assumption | exact within_trans rfl hT | with_reducible apply securityEvent_keeps | with_reducible apply Keeps.foldl | intro _ | dsimp only | split | ((fail_if_no_progress (with_reducible apply keeps_mk)); rotate_left; · (intro x hx; cases x <;> first | exact absurd (within_mem hT rfl) hx | exact rfl | exact ⟨rfl, rfl, rfl, rfl, rfl, rfl⟩)) | ((fail_if_no_progress (with_reducible apply keeps_mkSec)); rotate_left; · (intro x hx; cases x <;> first | exact absurd (within_mem hT rfl) hx | exact rfl | exact ⟨rfl, rfl, rfl, rfl, rfl, rfl⟩)))

theorem takeLeaf_keeps {s : State} (hl : s.sec.nextLeaf < keyLeaves) (hT : within [.sec] T = true)
    (h : Keeps T s0 s) : Keeps T s0 (takeLeaf s).2 := by
  refine Keeps.upd h rfl id (fun w => ?_) (by intro x hx; cases x <;> first | exact absurd (within_mem hT rfl) hx | exact rfl | exact ⟨rfl, rfl, rfl, rfl, rfl, rfl⟩)
  simp only [Leaves.ok, takeLeaf] at w ⊢
  split <;> omega

theorem skipLeaves_keeps {s : State} (hT : within [.sec] T = true)
    (h : Keeps T s0 s) : Keeps T s0 (skipLeaves s) := by
  refine Keeps.upd h rfl id (fun w => ?_) (by intro x hx; cases x <;> first | exact absurd (within_mem hT rfl) hx | exact rfl | exact ⟨rfl, rfl, rfl, rfl, rfl, rfl⟩)
  simp only [Leaves.ok, skipLeaves] at w ⊢
  omega

theorem argBytes_sec (d : Descriptor) (s : State) : (argBytes d s).2.sec = s.sec := by
  unfold argBytes
  dsimp only
  split <;> rfl

theorem signQuote_keeps (a : Accepted) {s : State} (hl : s.sec.nextLeaf < keyLeaves)
    (hT : within [.boot, .dev, .faults, .db, .ports, .cmds, .graphs, .bytes, .memCtl, .counts, .cairn, .sec, .out, .free] T = true) (h : Keeps T s0 s) : Keeps T s0 (signQuote a s) := by
  have hl' : (argBytes a.desc s).2.sec.nextLeaf < keyLeaves := by rw [argBytes_sec]; exact hl
  unfold signQuote
  dsimp only
  have k1 : Keeps T s0 (takeLeaf (argBytes a.desc s).2).2 := takeLeaf_keeps hl' (within_trans rfl hT) (argBytes_keeps _ (within_trans rfl hT) h)
  generalize (takeLeaf (argBytes a.desc s).2).2 = u at k1
  have k : Keeps T s0 (watchLeaves { u with sec := { u.sec with quotedAt := some u.clock.now } }) :=
    watchLeaves_keeps (within_trans rfl hT) (keeps_mkSec k1 (by intro x hx; cases x <;> first | exact absurd (within_mem hT rfl) hx | exact rfl | exact ⟨rfl, rfl, rfl, rfl, rfl, rfl⟩))
  exact finishWith_keeps _ _ _ (within_trans rfl hT) (keeps_ite (securityEvent_keeps _ (within_trans rfl hT) k) k)

theorem beginAttest_keeps (a : Accepted) {s : State} (hT : within [.boot, .dev, .faults, .db, .ports, .cmds, .graphs, .bytes, .memCtl, .counts, .cairn, .sec, .out, .free] T = true)
    (h : Keeps T s0 s) : Keeps T s0 (beginAttest a s) := by
  unfold beginAttest
  split
  · exact finish_keeps _ _ (within_trans rfl hT) h
  · split
    · exact finish_keeps _ _ (within_trans rfl hT) h
    · split
      · exact finish_keeps _ _ (within_trans rfl hT) h
      · rename_i hl
        have hk : s.sec.nextLeaf < keyLeaves := by
          simp only [leavesLeft] at hl
          simp only [keyLeaves]
          omega
        repeat' (first | with_reducible assumption | exact within_trans rfl hT | with_reducible apply finish_keeps | with_reducible apply signQuote_keeps | split)

theorem claimEffect_leaf (c : Claim) (x : Sec) :
    (claimEffect c x).nextLeaf = x.nextLeaf ∧ (claimEffect c x).reserved = x.reserved := by
  unfold claimEffect
  repeat' split
  all_goals exact ⟨rfl, rfl⟩

theorem beginClaimOwner_keeps (a : Accepted) {s : State} (hT : within [.boot, .dev, .faults, .db, .ports, .cmds, .graphs, .cairn, .sec, .out, .free] T = true)
    (h : Keeps T s0 s) : Keeps T s0 (beginClaimOwner a s) := by
  unfold beginClaimOwner
  dsimp only
  repeat' (first | with_reducible assumption | exact within_trans rfl hT | with_reducible apply argBytes_keeps | with_reducible apply finish_keeps | with_reducible apply securityEvent_keeps | split)
  refine Keeps.upd (argBytes_keeps a.desc (within_trans rfl hT) h) rfl id (fun w => ?_) (by intro x hx; cases x <;> first | exact absurd (within_mem hT rfl) hx | exact rfl | exact ⟨rfl, rfl, rfl, rfl, rfl, rfl⟩)
  have e := claimEffect_leaf (claimOf (argBytes a.desc s).1) (argBytes a.desc s).2.sec
  simp only [Leaves.ok] at w ⊢
  omega

theorem beginFwUpdate_keeps (a : Accepted) {s : State} (hT : within [.boot, .cmds, .free] T = true)
    (h : Keeps T s0 s) : Keeps T s0 (beginFwUpdate a s) := by
  unfold beginFwUpdate
  repeat' (first | with_reducible assumption | exact within_trans rfl hT | with_reducible apply finish_keeps | with_reducible apply argBytes_keeps | with_reducible apply Keeps.foldl | with_reducible apply Keeps.foldlSnd | intro _ | dsimp only | split | ((fail_if_no_progress (with_reducible apply keeps_mk)); rotate_left; · (intro x hx; cases x <;> first | exact absurd (within_mem hT rfl) hx | exact rfl | exact ⟨rfl, rfl, rfl, rfl, rfl, rfl⟩)))

theorem drawChallenge_keeps {s : State} (hT : within [.sec, .free] T = true)
    (h : Keeps T s0 s) : Keeps T s0 (drawChallenge s) := by
  unfold drawChallenge
  repeat' (first | with_reducible assumption | exact within_trans rfl hT | with_reducible apply useFree_keeps | with_reducible apply Keeps.foldl | with_reducible apply Keeps.foldlSnd | intro _ | dsimp only | split | ((fail_if_no_progress (with_reducible apply keeps_mk)); rotate_left; · (intro x hx; cases x <;> first | exact absurd (within_mem hT rfl) hx | exact rfl | exact ⟨rfl, rfl, rfl, rfl, rfl, rfl⟩)) | ((fail_if_no_progress (with_reducible apply keeps_mkSec)); rotate_left; · (intro x hx; cases x <;> first | exact absurd (within_mem hT rfl) hx | exact rfl | exact ⟨rfl, rfl, rfl, rfl, rfl, rfl⟩)))

end Sys2Proof.Machine
end

