-- ==== Sys2Proof/Laws/Resets.lean ====
section
/-!
SUPPORT. One lemma for each shared operation of Machine/Resets.lean: what it keeps of whatever state it is applied to.
The list in a lemma names the areas the operation may change.
-/

set_option linter.unusedTactic false
set_option linter.unreachableTactic false
set_option linter.unusedVariables false

namespace Sys2Proof.Machine

variable {T : List Area} {s0 : State}

theorem moduleUp_keeps (m : ℕ) {s : State} (hT : within [.pins, .boot, .dev, .faults, .mbx, .db, .locks, .ports, .cmds, .graphs, .bytes, .memCtl, .counts, .comp, .cairn, .las, .chans, .links, .fab, .d2d, .guest, .out, .free] T = true)
    (h : Keeps T s0 s) : Keeps T s0 (moduleUp m s) := by
  unfold moduleUp
  repeat' (first | with_reducible assumption | exact within_trans rfl hT | with_reducible apply fenceDesign_keeps | with_reducible apply moduleOut_keeps | with_reducible apply modSet_keeps | with_reducible apply Keeps.foldl | intro _ | dsimp only | split)

theorem weighAll_keeps {s : State} (hT : within [.d2d] T = true)
    (h : Keeps T s0 s) : Keeps T s0 (weighAll s) := by
  unfold weighAll
  repeat' (first | with_reducible assumption | exact within_trans rfl hT | with_reducible apply setWeights_keeps | with_reducible apply Keeps.foldl | intro _ | dsimp only | split)

theorem afterReset_keeps {s : State} (hT : within [.pins, .clock, .boot, .dev, .faults, .mbx, .db, .locks, .ports, .cmds, .graphs, .bytes, .memCtl, .stk, .counts, .comp, .banks, .cairn, .therm, .las, .chans, .links, .fab, .d2d, .guest, .sec] T = true)
    (h : Keeps T s0 s) : Keeps T s0 (afterReset s) := by
  refine ⟨h.pending, fun _ => ?_, fun w => ?_, fun x hx => ?_⟩
  · simp [Memory.wf, afterReset, tabWf, tabWfFrom, rwf, rwfFrom]
  · have hw := h.leaf w
    simp only [Leaves.ok, afterReset, secKept] at hw ⊢
    omega
  · refine x.same_trans (h.frame x hx) ?_
    cases x <;> first | exact absurd (within_mem hT rfl) hx | exact rfl

theorem leaveReset_keeps (supplied : Bool) {s : State} (hT : within [.boot, .sec, .free] T = true)
    (h : Keeps T s0 s) : Keeps T s0 (leaveReset supplied s) := by
  unfold leaveReset
  repeat' (first | with_reducible assumption | exact within_trans rfl hT | with_reducible apply drawChallenge_keeps | with_reducible apply Keeps.foldl | intro _ | dsimp only | split | ((fail_if_no_progress (with_reducible apply keeps_mk)); rotate_left; · (intro x hx; cases x <;> first | exact absurd (within_mem hT rfl) hx | exact rfl | exact ⟨rfl, rfl, rfl, rfl, rfl, rfl⟩)))

theorem firmwareLost_keeps {s : State} (hT : within [.boot, .dev, .graphs, .cairn, .therm, .fab] T = true)
    (h : Keeps T s0 s) : Keeps T s0 (firmwareLost s) := by
  unfold firmwareLost
  repeat' (first | with_reducible assumption | with_reducible apply Keeps.foldl | intro _ | dsimp only | split | ((fail_if_no_progress (with_reducible apply keeps_mk)); rotate_left; · (intro x hx; cases x <;> first | exact absurd (within_mem hT rfl) hx | exact rfl | exact ⟨rfl, rfl, rfl, rfl, rfl, rfl⟩)))

theorem colReset_keeps (wait : Option Accepted) {s : State} (hT : within [.boot, .dev, .mbx, .locks, .cmds, .graphs, .comp, .cairn, .therm, .fab, .sec] T = true)
    (h : Keeps T s0 s) : Keeps T s0 (colReset wait s) := by
  unfold colReset
  repeat' (first | with_reducible assumption | exact within_trans rfl hT | with_reducible apply clearFirmwareEnds_keeps | with_reducible apply firmwareLost_keeps | with_reducible apply releaseLocks_keeps | with_reducible apply mbxFwResetBegin_keeps | with_reducible apply skipLeaves_keeps | with_reducible apply touchSync_keeps | with_reducible apply Keeps.foldl | intro _ | dsimp only | split | ((fail_if_no_progress (with_reducible apply keeps_mk)); rotate_left; · (intro x hx; cases x <;> first | exact absurd (within_mem hT rfl) hx | exact rfl | exact ⟨rfl, rfl, rfl, rfl, rfl, rfl⟩)))

theorem flushCache_keeps (f : Flank) {s : State} (hT : within [.bytes, .memCtl, .counts] T = true)
    (h : Keeps T s0 s) : Keeps T s0 (flushCache f s) := by
  unfold flushCache
  repeat' (first | with_reducible assumption | exact within_trans rfl hT | with_reducible apply dirSet_keeps | with_reducible apply cacheSet_keeps | with_reducible apply writeBack_keeps | with_reducible apply Keeps.foldl | intro _ | dsimp only | split)

theorem softClear_keeps (f : Flank) {s : State} (hT : within [.locks, .ports, .bytes, .memCtl, .counts, .comp, .fab] T = true)
    (h : Keeps T s0 s) : Keeps T s0 (softClear f s) := by
  unfold softClear
  repeat' (first | with_reducible assumption | exact within_trans rfl hT | with_reducible apply releaseLocks_keeps | with_reducible apply restartCompute_keeps | with_reducible apply flushCache_keeps | with_reducible apply Keeps.foldl | intro _ | dsimp only | split)

theorem fwRestart_keeps {s : State} (hT : within [.boot, .dev, .mbx, .db, .locks, .ports, .cmds, .bytes, .memCtl, .counts, .comp, .fab, .d2d, .out] T = true)
    (h : Keeps T s0 s) : Keeps T s0 (fwRestart s) := by
  unfold fwRestart
  extract_lets s0' sb sc s1 dropped s2 s3 s4
  have k0 : Keeps T s0 s0' := softClear_keeps _ (within_trans rfl hT) (softClear_keeps _ (within_trans rfl hT) h)
  clear_value s0'
  have k1 : Keeps T s0 s1 := touchSync_keeps (within_trans rfl hT) (keeps_mk k0 (by intro x hx; cases x <;> first | exact absurd (within_mem hT rfl) hx | exact rfl | exact ⟨rfl, rfl, rfl, rfl, rfl, rfl⟩))
  clear_value s1
  have k2 : Keeps T s0 s2 := Keeps.foldl k1 fun t a ht => finish_keeps _ _ (within_trans rfl hT) ht
  clear_value s2
  have k3 : Keeps T s0 s3 := mbxFwResetEnd_keeps (within_trans rfl hT) (notice_keeps _ _ _ (within_trans rfl hT) k2)
  clear_value s3
  have k4 : Keeps T s0 s4 := by
    unfold s4
    split
    · exact finish_keeps _ _ (within_trans rfl hT) k3
    · exact k3
  clear_value s4
  exact keeps_mk k4 (by intro x hx; cases x <;> first | exact absurd (within_mem hT rfl) hx | exact rfl | exact ⟨rfl, rfl, rfl, rfl, rfl, rfl⟩)

theorem noticeReset_keeps (f : Flank) (hard : Bool) {s : State} (hT : within [.d2d, .out] T = true)
    (h : Keeps T s0 s) : Keeps T s0 (noticeReset f hard s) := by
  unfold noticeReset
  repeat' (first | with_reducible assumption | exact within_trans rfl hT | with_reducible apply sbSend_keeps | with_reducible apply Keeps.foldl | intro _ | dsimp only | split)

theorem softBegin_keeps (f : Flank) {s : State} (hT : within [.dev, .db, .locks, .ports, .cmds, .graphs, .bytes, .memCtl, .counts, .comp, .fab, .d2d, .out] T = true)
    (h : Keeps T s0 s) : Keeps T s0 (softBegin f s) := by
  unfold softBegin
  repeat' (first | with_reducible assumption | exact within_trans rfl hT | with_reducible apply mapRunning_keeps | with_reducible apply setFlank_keeps | with_reducible apply noticeReset_keeps | with_reducible apply refreshDegraded_keeps | with_reducible apply softClear_keeps | with_reducible apply Keeps.foldl | intro _ | dsimp only | split)

theorem countersOff_keeps (f : Flank) {s : State} (hT : within [.counts] T = true)
    (h : Keeps T s0 s) : Keeps T s0 (countersOff f s) := by
  unfold countersOff
  repeat' (first | with_reducible assumption | with_reducible apply Keeps.foldl | intro _ | dsimp only | split | ((fail_if_no_progress (with_reducible apply keeps_mk)); rotate_left; · (intro x hx; cases x <;> first | exact absurd (within_mem hT rfl) hx | exact rfl | exact ⟨rfl, rfl, rfl, rfl, rfl, rfl⟩)))

theorem hardBegin_keeps (f : Flank) {s : State} (hT : within [.boot, .dev, .faults, .db, .locks, .ports, .cmds, .graphs, .bytes, .memCtl, .counts, .comp, .cairn, .las, .chans, .links, .fab, .d2d, .out, .free] T = true)
    (h : Keeps T s0 s) : Keeps T s0 (hardBegin f s) := by
  unfold hardBegin
  repeat' (first | with_reducible assumption | exact within_trans rfl hT | with_reducible apply flankOut_keeps | with_reducible apply countersOff_keeps | with_reducible apply mapRunning_keeps | with_reducible apply noticeReset_keeps | with_reducible apply Keeps.foldl | intro _ | dsimp only | split)

theorem flankDone_keeps (f : Flank) {s : State} (hT : within [.dev, .cmds] T = true)
    (h : Keeps T s0 s) : Keeps T s0 (flankDone f s) := by
  unfold flankDone
  repeat' (first | with_reducible assumption | exact within_trans rfl hT | with_reducible apply finish_keeps | with_reducible apply Keeps.foldl | intro _ | dsimp only | split | ((fail_if_no_progress (with_reducible apply keeps_mk)); rotate_left; · (intro x hx; cases x <;> first | exact absurd (within_mem hT rfl) hx | exact rfl | exact ⟨rfl, rfl, rfl, rfl, rfl, rfl⟩)))

theorem banksRestart_keeps (f : Flank) {s : State} (hT : within [.banks] T = true)
    (h : Keeps T s0 s) : Keeps T s0 (banksRestart f s) := by
  unfold banksRestart
  repeat' (first | with_reducible assumption | exact within_trans rfl hT | with_reducible apply bankSet_keeps | with_reducible apply Keeps.foldl | intro _ | dsimp only | split | ((fail_if_no_progress (with_reducible apply keeps_mk)); rotate_left; · (intro x hx; cases x <;> first | exact absurd (within_mem hT rfl) hx | exact rfl | exact ⟨rfl, rfl, rfl, rfl, rfl, rfl⟩)))

theorem flankBack_keeps (f : Flank) (hard : Bool) {s : State} (hT : within [.pins, .boot, .dev, .faults, .mbx, .db, .locks, .ports, .cmds, .graphs, .bytes, .memCtl, .counts, .comp, .banks, .cairn, .las, .chans, .links, .fab, .d2d, .guest, .out, .free] T = true)
    (h : Keeps T s0 s) : Keeps T s0 (flankBack f hard s) := by
  unfold flankBack
  repeat' (first | with_reducible assumption | exact within_trans rfl hT | with_reducible apply setFlank_keeps | with_reducible apply weighAll_keeps | with_reducible apply moduleUp_keeps | with_reducible apply banksRestart_keeps | with_reducible apply linkRelease_keeps | with_reducible apply refreshDegraded_keeps | with_reducible apply flankDone_keeps | with_reducible apply Keeps.foldl | intro _ | dsimp only | split)

theorem beginReset_keeps (a : Accepted) {s : State} (hT : within [.boot, .dev, .faults, .mbx, .db, .locks, .ports, .cmds, .graphs, .bytes, .memCtl, .counts, .comp, .cairn, .therm, .las, .chans, .links, .fab, .d2d, .sec, .out, .free] T = true)
    (h : Keeps T s0 s) : Keeps T s0 (beginReset a s) := by
  unfold beginReset
  repeat' (first | with_reducible assumption | exact within_trans rfl hT | with_reducible apply colReset_keeps | with_reducible apply finish_keeps | with_reducible apply softBegin_keeps | with_reducible apply hardBegin_keeps | with_reducible apply Keeps.foldl | intro _ | dsimp only | split | ((fail_if_no_progress (with_reducible apply keeps_mk)); rotate_left; · (intro x hx; cases x <;> first | exact absurd (within_mem hT rfl) hx | exact rfl | exact ⟨rfl, rfl, rfl, rfl, rfl, rfl⟩)))

theorem lasersUnpowered_keeps {s : State} (hT : within [.boot, .dev, .faults, .db, .ports, .cmds, .graphs, .counts, .comp, .banks, .cairn, .las, .chans, .links, .fab, .out, .free] T = true)
    (h : Keeps T s0 s) : Keeps T s0 (lasersUnpowered s) := by
  unfold lasersUnpowered
  repeat' (first | with_reducible assumption | exact within_trans rfl hT | with_reducible apply linkChipletOut_keeps | with_reducible apply combChipFail_keeps | with_reducible apply allDark_keeps | with_reducible apply faultUOpen_keeps | with_reducible apply laserOff_keeps | with_reducible apply Keeps.foldl | intro _ | dsimp only | split)

theorem banksUnpowered_keeps {s : State} (hT : within [.boot, .dev, .faults, .db, .ports, .cmds, .graphs, .counts, .comp, .banks, .cairn, .out] T = true)
    (h : Keeps T s0 s) : Keeps T s0 (banksUnpowered s) := by
  unfold banksUnpowered
  repeat' (first | with_reducible assumption | exact within_trans rfl hT | with_reducible apply failBank_keeps | with_reducible apply Keeps.foldl | intro _ | dsimp only | split)

theorem powerLost_keeps (pg : PowerGood) {s : State} (hT : within [.pins, .clock, .boot, .dev, .faults, .mbx, .db, .locks, .ports, .cmds, .graphs, .bytes, .memCtl, .stk, .counts, .comp, .banks, .cairn, .therm, .las, .chans, .links, .fab, .d2d, .guest, .sec, .out, .free] T = true)
    (h : Keeps T s0 s) : Keeps T s0 (powerLost pg s) := by
  unfold powerLost
  repeat' (first | with_reducible assumption | exact within_trans rfl hT | with_reducible apply afterReset_keeps | with_reducible apply leaveReset_keeps | with_reducible apply loseMemory_keeps | with_reducible apply faultXOpen_keeps | with_reducible apply flankOut_keeps | with_reducible apply banksUnpowered_keeps | with_reducible apply lasersUnpowered_keeps | with_reducible apply fenceGuest_keeps | with_reducible apply Keeps.foldl | intro _ | dsimp only | split | ((fail_if_no_progress (with_reducible apply keeps_mk)); rotate_left; · (intro x hx; cases x <;> first | exact absurd (within_mem hT rfl) hx | exact rfl | exact ⟨rfl, rfl, rfl, rfl, rfl, rfl⟩)))

end Sys2Proof.Machine
end

