-- ==== Sys2Proof/Laws/Records.lean ====
section
/-!
SUPPORT. One lemma for each shared operation of Machine/Records.lean: what it keeps of whatever state it is applied to.
The list in a lemma names the areas the operation may change.
-/

set_option linter.unusedTactic false
set_option linter.unreachableTactic false
set_option linter.unusedVariables false

namespace Sys2Proof.Machine

variable {T : List Area} {s0 : State}

theorem recordFault_keeps (src : ℕ) (core : ℕ) {s : State} (hT : within [.boot, .dev, .faults, .db, .ports, .cmds, .graphs, .cairn, .out, .free] T = true)
    (h : Keeps T s0 s) : Keeps T s0 (recordFault src core s) := by
  unfold recordFault
  repeat' (first | with_reducible assumption | exact within_trans rfl hT | with_reducible apply useFree_keeps | with_reducible apply faultU_keeps | with_reducible apply Keeps.foldl | with_reducible apply Keeps.foldlSnd | intro _ | dsimp only | split)

theorem fenceRecord_keeps (kind : ℕ) (inst : ℕ) {s : State} (hT : within [.pins, .boot, .dev, .faults, .mbx, .db, .locks, .ports, .cmds, .graphs, .bytes, .memCtl, .counts, .comp, .banks, .cairn, .therm, .las, .chans, .links, .fab, .d2d, .guest, .out, .free] T = true)
    (h : Keeps T s0 s) : Keeps T s0 (fenceRecord kind inst s) := by
  unfold fenceRecord
  repeat' (first | with_reducible assumption | exact within_trans rfl hT | with_reducible apply excludeSensor_keeps | with_reducible apply fenceBank_keeps | with_reducible apply recordFault_keeps | with_reducible apply laserOff_keeps | with_reducible apply putOut_keeps | with_reducible apply markGone_keeps | with_reducible apply enterDark_keeps | with_reducible apply portOut_keeps | with_reducible apply setChan_keeps | with_reducible apply moduleChanged_keeps | with_reducible apply putDir_keeps | with_reducible apply Keeps.foldl | intro _ | dsimp only | split)

theorem holdRecord_keeps (kind : ℕ) (inst : ℕ) {s : State} (hT : within [.boot, .dev, .faults, .db, .ports, .cmds, .graphs, .comp, .banks, .cairn, .therm, .las, .chans, .d2d, .out, .free] T = true)
    (h : Keeps T s0 s) : Keeps T s0 (holdRecord kind inst s) := by
  unfold holdRecord
  repeat' (first | with_reducible assumption | exact within_trans rfl hT | with_reducible apply fenceAdd_keeps | with_reducible apply sensorSet_keeps | with_reducible apply bankSet_keeps | with_reducible apply putOut_keeps | with_reducible apply markGone_keeps | with_reducible apply portOut_keeps | with_reducible apply setChan_keeps | with_reducible apply putDir_keeps | with_reducible apply Keeps.foldl | intro _ | dsimp only | split | ((fail_if_no_progress (with_reducible apply keeps_mk)); rotate_left; · (intro x hx; cases x <;> first | exact absurd (within_mem hT rfl) hx | exact rfl | exact ⟨rfl, rfl, rfl, rfl, rfl, rfl⟩)))

theorem returnRecord_keeps (kind : ℕ) (inst : ℕ) {s : State} (hT : within [.boot, .dev, .faults, .db, .ports, .cmds, .graphs, .comp, .banks, .cairn, .therm, .las, .chans, .d2d, .sec, .out, .free] T = true)
    (h : Keeps T s0 s) : Keeps T s0 (returnRecord kind inst s) := by
  unfold returnRecord
  repeat' (first | with_reducible assumption | exact within_trans rfl hT | with_reducible apply fenceDrop_keeps | with_reducible apply sensorSet_keeps | with_reducible apply bankSet_keeps | with_reducible apply setChan_keeps | with_reducible apply mapArray_keeps | with_reducible apply setPort_keeps | with_reducible apply putDir_keeps | with_reducible apply refreshDegraded_keeps | with_reducible apply faultCOpen_keeps | with_reducible apply Keeps.foldl | intro _ | dsimp only | split | ((fail_if_no_progress (with_reducible apply keeps_mk)); rotate_left; · (intro x hx; cases x <;> first | exact absurd (within_mem hT rfl) hx | exact rfl | exact ⟨rfl, rfl, rfl, rfl, rfl, rfl⟩)) | ((fail_if_no_progress (with_reducible apply keeps_mkSec)); rotate_left; · (intro x hx; cases x <;> first | exact absurd (within_mem hT rfl) hx | exact rfl | exact ⟨rfl, rfl, rfl, rfl, rfl, rfl⟩)))

theorem suspectRecord_keeps (kind : ℕ) (inst : ℕ) {s : State} (hT : within [.pins, .boot, .dev, .faults, .mbx, .db, .locks, .ports, .cmds, .graphs, .bytes, .memCtl, .counts, .comp, .banks, .cairn, .therm, .las, .chans, .links, .fab, .d2d, .guest, .sec, .out, .free] T = true)
    (h : Keeps T s0 s) : Keeps T s0 (suspectRecord kind inst s) := by
  unfold suspectRecord
  repeat' (first | with_reducible assumption | exact within_trans rfl hT | with_reducible apply fenceRecord_keeps | with_reducible apply Keeps.foldl | intro _ | dsimp only | split | ((fail_if_no_progress (with_reducible apply keeps_mk)); rotate_left; · (intro x hx; cases x <;> first | exact absurd (within_mem hT rfl) hx | exact rfl | exact ⟨rfl, rfl, rfl, rfl, rfl, rfl⟩)) | ((fail_if_no_progress (with_reducible apply keeps_mkSec)); rotate_left; · (intro x hx; cases x <;> first | exact absurd (within_mem hT rfl) hx | exact rfl | exact ⟨rfl, rfl, rfl, rfl, rfl, rfl⟩)))

theorem recheck_keeps (kinds : List ℕ) (again : List ℕ) {s : State} (hT : within [.boot, .dev, .faults, .db, .ports, .cmds, .graphs, .comp, .banks, .cairn, .therm, .las, .chans, .d2d, .sec, .out, .free] T = true)
    (h : Keeps T s0 s) : Keeps T s0 (recheck kinds again s) := by
  unfold recheck
  repeat' (first | with_reducible assumption | exact within_trans rfl hT | with_reducible apply returnRecord_keeps | with_reducible apply Keeps.foldl | intro _ | dsimp only | split)

theorem defaultRecord_keeps (name : ℕ) {s : State} (hT : within [.part, .boot, .memCtl, .stk, .comp, .banks, .las, .chans, .links, .fab, .d2d, .sec] T = true)
    (h : Keeps T s0 s) : Keeps T s0 (defaultRecord name s) := by
  unfold defaultRecord
  split
  case h_12 =>
    refine Keeps.upd h rfl id (fun w => ?_) (by intro x hx; cases x <;> first | exact absurd (within_mem hT rfl) hx | exact rfl | exact ⟨rfl, rfl, rfl, rfl, rfl, rfl⟩)
    simp only [Leaves.ok] at w ⊢
    omega
  all_goals (first | with_reducible assumption | ((with_reducible refine keeps_mk h ?_); intro x hx; cases x <;> first | exact absurd (within_mem hT rfl) hx | exact rfl | exact ⟨rfl, rfl, rfl, rfl, rfl, rfl⟩) | ((with_reducible refine keeps_mkMem h ?_); intro x hx; cases x <;> first | exact absurd (within_mem hT rfl) hx | exact rfl | exact ⟨rfl, rfl, rfl, rfl, rfl, rfl⟩) | ((with_reducible refine keeps_mkSec h ?_); intro x hx; cases x <;> first | exact absurd (within_mem hT rfl) hx | exact rfl | exact ⟨rfl, rfl, rfl, rfl, rfl, rfl⟩))

theorem badRecord_keeps (b : BadRecord) {s : State} (hT : within [.part, .pins, .boot, .dev, .faults, .mbx, .db, .locks, .ports, .cmds, .graphs, .bytes, .memCtl, .stk, .counts, .comp, .banks, .cairn, .therm, .las, .chans, .links, .fab, .d2d, .guest, .sec, .out, .free] T = true)
    (h : Keeps T s0 s) : Keeps T s0 (badRecord b s) := by
  unfold badRecord
  repeat' (first | with_reducible assumption | exact within_trans rfl hT | with_reducible apply fenceRecord_keeps | with_reducible apply faultCOpen_keeps | with_reducible apply securityEvent_keeps | with_reducible apply defaultRecord_keeps | with_reducible apply Keeps.foldl | intro _ | dsimp only | split | ((fail_if_no_progress (with_reducible apply keeps_mk)); rotate_left; · (intro x hx; cases x <;> first | exact absurd (within_mem hT rfl) hx | exact rfl | exact ⟨rfl, rfl, rfl, rfl, rfl, rfl⟩)) | ((fail_if_no_progress (with_reducible apply keeps_mkSec)); rotate_left; · (intro x hx; cases x <;> first | exact absurd (within_mem hT rfl) hx | exact rfl | exact ⟨rfl, rfl, rfl, rfl, rfl, rfl⟩)))

end Sys2Proof.Machine
end

