-- ==== Sys2Proof/Laws/Bringup.lean ====
section
/-!
SUPPORT. One lemma for each shared operation of Machine/Bringup.lean: what it keeps of whatever state it is applied to.
The list in a lemma names the areas the operation may change.
-/

set_option linter.unusedTactic false
set_option linter.unreachableTactic false
set_option linter.unusedVariables false

namespace Sys2Proof.Machine

variable {T : List Area} {s0 : State}

theorem toStep_keeps (n : ℕ) {s : State} (hT : within [.boot] T = true)
    (h : Keeps T s0 s) : Keeps T s0 (toStep n s) := by
  unfold toStep
  repeat' (first | with_reducible assumption | with_reducible apply Keeps.foldl | intro _ | dsimp only | split | ((fail_if_no_progress (with_reducible apply keeps_mk)); rotate_left; · (intro x hx; cases x <;> first | exact absurd (within_mem hT rfl) hx | exact rfl | exact ⟨rfl, rfl, rfl, rfl, rfl, rfl⟩)))

theorem bringUpStops_keeps (err : ℕ) (src : ℕ) {s : State} (hT : within [.boot, .dev, .faults, .db, .ports, .cmds, .graphs, .cairn, .out, .free] T = true)
    (h : Keeps T s0 s) : Keeps T s0 (bringUpStops err src s) := by
  unfold bringUpStops
  repeat' (first | with_reducible assumption | exact within_trans rfl hT | with_reducible apply faultXOpen_keeps | with_reducible apply Keeps.foldl | intro _ | dsimp only | split | ((fail_if_no_progress (with_reducible apply keeps_mk)); rotate_left; · (intro x hx; cases x <;> first | exact absurd (within_mem hT rfl) hx | exact rfl | exact ⟨rfl, rfl, rfl, rfl, rfl, rfl⟩)))

theorem firmwareCounted_keeps {s : State} (hT : within [.cmds] T = true)
    (h : Keeps T s0 s) : Keeps T s0 (firmwareCounted s) := by
  unfold firmwareCounted
  repeat' (first | with_reducible assumption | exact within_trans rfl hT | with_reducible apply touchSync_keeps | with_reducible apply Keeps.foldl | intro _ | dsimp only | split | ((fail_if_no_progress (with_reducible apply keeps_mk)); rotate_left; · (intro x hx; cases x <;> first | exact absurd (within_mem hT rfl) hx | exact rfl | exact ⟨rfl, rfl, rfl, rfl, rfl, rfl⟩)))

theorem suppliesBack_keeps {s : State} (hT : within [.pins, .clock] T = true)
    (h : Keeps T s0 s) : Keeps T s0 (suppliesBack s) := by
  unfold suppliesBack
  repeat' (first | with_reducible assumption | with_reducible apply Keeps.foldl | intro _ | dsimp only | split | ((fail_if_no_progress (with_reducible apply keeps_mk)); rotate_left; · (intro x hx; cases x <;> first | exact absurd (within_mem hT rfl) hx | exact rfl | exact ⟨rfl, rfl, rfl, rfl, rfl, rfl⟩)))

theorem colBack_keeps {s : State} (hT : within [.boot, .dev, .faults, .mbx, .db, .locks, .ports, .cmds, .graphs, .bytes, .memCtl, .counts, .comp, .cairn, .fab, .d2d, .sec, .out] T = true)
    (h : Keeps T s0 s) : Keeps T s0 (colBack s) := by
  unfold colBack
  repeat' (first | with_reducible assumption | exact within_trans rfl hT | with_reducible apply fwRestart_keeps | with_reducible apply toStep_keeps | with_reducible apply setDev_keeps | with_reducible apply watchLeaves_keeps | with_reducible apply Keeps.foldl | intro _ | dsimp only | split | ((fail_if_no_progress (with_reducible apply keeps_mk)); rotate_left; · (intro x hx; cases x <;> first | exact absurd (within_mem hT rfl) hx | exact rfl | exact ⟨rfl, rfl, rfl, rfl, rfl, rfl⟩)) | ((fail_if_no_progress (with_reducible apply keeps_mkSec)); rotate_left; · (intro x hx; cases x <;> first | exact absurd (within_mem hT rfl) hx | exact rfl | exact ⟨rfl, rfl, rfl, rfl, rfl, rfl⟩)))

theorem priorityLoaded_keeps {s : State} (hT : within [.clock] T = true)
    (h : Keeps T s0 s) : Keeps T s0 (priorityLoaded s) := by
  unfold priorityLoaded
  repeat' (first | with_reducible assumption | with_reducible apply Keeps.foldl | intro _ | dsimp only | split | ((fail_if_no_progress (with_reducible apply keeps_mk)); rotate_left; · (intro x hx; cases x <;> first | exact absurd (within_mem hT rfl) hx | exact rfl | exact ⟨rfl, rfl, rfl, rfl, rfl, rfl⟩)))

theorem startPreHeat_keeps {s : State} (hT : within [.boot] T = true)
    (h : Keeps T s0 s) : Keeps T s0 (startPreHeat s) := by
  unfold startPreHeat
  repeat' (first | with_reducible assumption | with_reducible apply Keeps.foldl | intro _ | dsimp only | split | ((fail_if_no_progress (with_reducible apply keeps_mk)); rotate_left; · (intro x hx; cases x <;> first | exact absurd (within_mem hT rfl) hx | exact rfl | exact ⟨rfl, rfl, rfl, rfl, rfl, rfl⟩)))

theorem idsSeen_keeps (x : StrapInput) {s : State} (hT : within [.d2d] T = true)
    (h : Keeps T s0 s) : Keeps T s0 (idsSeen x s) := by
  unfold idsSeen
  repeat' (first | with_reducible assumption | exact within_trans rfl hT | with_reducible apply modSet_keeps | with_reducible apply Keeps.foldl | intro _ | dsimp only | split)

theorem guestOn_keeps {s : State} (hT : within [.pins, .guest] T = true)
    (h : Keeps T s0 s) : Keeps T s0 (guestOn s) := by
  unfold guestOn
  repeat' (first | with_reducible assumption | with_reducible apply Keeps.foldl | intro _ | dsimp only | split | ((fail_if_no_progress (with_reducible apply keeps_mk)); rotate_left; · (intro x hx; cases x <;> first | exact absurd (within_mem hT rfl) hx | exact rfl | exact ⟨rfl, rfl, rfl, rfl, rfl, rfl⟩)))

theorem selectLinkLasers_keeps {s : State} (hT : within [.las, .chans] T = true)
    (h : Keeps T s0 s) : Keeps T s0 (selectLinkLasers s) := by
  unfold selectLinkLasers
  repeat' (first | with_reducible assumption | exact within_trans rfl hT | with_reducible apply putOut_keeps | with_reducible apply markGone_keeps | with_reducible apply Keeps.foldl | intro _ | dsimp only | split | ((fail_if_no_progress (with_reducible apply keeps_mk)); rotate_left; · (intro x hx; cases x <;> first | exact absurd (within_mem hT rfl) hx | exact rfl | exact ⟨rfl, rfl, rfl, rfl, rfl, rfl⟩)))

theorem selectCombLasers_keeps (chip : ℕ) {s : State} (hT : within [.boot, .dev, .faults, .db, .ports, .cmds, .graphs, .counts, .comp, .banks, .cairn, .out] T = true)
    (h : Keeps T s0 s) : Keeps T s0 (selectCombLasers chip s) := by
  unfold selectCombLasers
  repeat' (first | with_reducible assumption | exact within_trans rfl hT | with_reducible apply enterDark_keeps | with_reducible apply Keeps.foldl | intro _ | dsimp only | split | ((fail_if_no_progress (with_reducible apply keeps_mk)); rotate_left; · (intro x hx; cases x <;> first | exact absurd (within_mem hT rfl) hx | exact rfl | exact ⟨rfl, rfl, rfl, rfl, rfl, rfl⟩)))

theorem lightComb_keeps (chip : ℕ) {s : State} (hT : within [.las] T = true)
    (h : Keeps T s0 s) : Keeps T s0 (lightComb chip s) := by
  unfold lightComb
  repeat' (first | with_reducible assumption | exact within_trans rfl hT | with_reducible apply laserOn_keeps | with_reducible apply Keeps.foldl | intro _ | dsimp only | split)

theorem lightPort_keeps (p : Port) {s : State} (hT : within [.boot, .dev, .faults, .db, .ports, .cmds, .graphs, .cairn, .las, .links, .out, .free] T = true)
    (h : Keeps T s0 s) : Keeps T s0 (lightPort p s) := by
  unfold lightPort
  repeat' (first | with_reducible assumption | exact within_trans rfl hT | with_reducible apply setPort_keeps | with_reducible apply portDead_keeps | with_reducible apply portTrains_keeps | with_reducible apply laserOn_keeps | with_reducible apply Keeps.foldl | intro _ | dsimp only | split | ((fail_if_no_progress (with_reducible apply keeps_mk)); rotate_left; · (intro x hx; cases x <;> first | exact absurd (within_mem hT rfl) hx | exact rfl | exact ⟨rfl, rfl, rfl, rfl, rfl, rfl⟩)))

theorem judgeWarm_keeps (recheckToo : Bool) (c : LaserCheck) {s : State} (hT : within [.pins, .boot, .dev, .faults, .mbx, .db, .locks, .ports, .cmds, .graphs, .bytes, .memCtl, .counts, .comp, .banks, .cairn, .therm, .las, .chans, .links, .fab, .d2d, .guest, .sec, .out, .free] T = true)
    (h : Keeps T s0 s) : Keeps T s0 (judgeWarm recheckToo c s) := by
  unfold judgeWarm
  repeat' (first | with_reducible assumption | exact within_trans rfl hT | with_reducible apply laserFail_keeps | with_reducible apply suspectRecord_keeps | with_reducible apply Keeps.foldl | intro _ | dsimp only | split)

theorem wakeLasers_keeps (bad : List LaserCheck) {s : State} (hT : within [.pins, .boot, .dev, .faults, .mbx, .db, .locks, .ports, .cmds, .graphs, .bytes, .memCtl, .counts, .comp, .banks, .cairn, .therm, .las, .chans, .links, .fab, .d2d, .guest, .sec, .out, .free] T = true)
    (h : Keeps T s0 s) : Keeps T s0 (wakeLasers bad s) := by
  unfold wakeLasers
  repeat' (first | with_reducible assumption | exact within_trans rfl hT | with_reducible apply lightComb_keeps | with_reducible apply selectCombLasers_keeps | with_reducible apply judgeWarm_keeps | with_reducible apply Keeps.foldl | intro _ | dsimp only | split)

theorem ringFailed_keeps (c : RingCheck) {s : State} (hT : within [.boot, .dev, .faults, .db, .ports, .cmds, .graphs, .counts, .comp, .banks, .cairn, .chans, .out, .free] T = true)
    (h : Keeps T s0 s) : Keeps T s0 (ringFailed c s) := by
  unfold ringFailed
  repeat' (first | with_reducible assumption | exact within_trans rfl hT | with_reducible apply failBank_keeps | with_reducible apply fenceChan_keeps | with_reducible apply Keeps.foldl | intro _ | dsimp only | split)

theorem wakeRings_keeps (bad : List RingCheck) {s : State} (hT : within [.boot, .dev, .faults, .db, .ports, .cmds, .graphs, .counts, .comp, .banks, .cairn, .chans, .out, .free] T = true)
    (h : Keeps T s0 s) : Keeps T s0 (wakeRings bad s) := by
  unfold wakeRings
  repeat' (first | with_reducible assumption | exact within_trans rfl hT | with_reducible apply ringFailed_keeps | with_reducible apply Keeps.foldl | intro _ | dsimp only | split)

theorem selfTestFail_keeps (b : ℕ × Option ℕ) {s : State} (hT : within [.boot, .dev, .faults, .db, .ports, .cmds, .graphs, .counts, .comp, .cairn, .out, .free] T = true)
    (h : Keeps T s0 s) : Keeps T s0 (selfTestFail b s) := by
  unfold selfTestFail
  repeat' (first | with_reducible assumption | exact within_trans rfl hT | with_reducible apply failCluster_keeps | with_reducible apply fenceCore_keeps | with_reducible apply reportFrom_keeps | with_reducible apply Keeps.foldl | intro _ | dsimp only | split)

theorem selfTest_keeps (bad : List (ℕ × Option ℕ)) {s : State} (hT : within [.boot, .dev, .faults, .db, .ports, .cmds, .graphs, .counts, .comp, .cairn, .out, .free] T = true)
    (h : Keeps T s0 s) : Keeps T s0 (selfTest bad s) := by
  unfold selfTest
  repeat' (first | with_reducible assumption | exact within_trans rfl hT | with_reducible apply selfTestFail_keeps | with_reducible apply refreshDegraded_keeps | with_reducible apply bindSpare_keeps | with_reducible apply Keeps.foldl | intro _ | dsimp only | split)

theorem trainFabric_keeps {s : State} (hT : within [.boot, .dev, .faults, .db, .ports, .cmds, .graphs, .counts, .cairn, .las, .chans, .links, .fab, .out, .free] T = true)
    (h : Keeps T s0 s) : Keeps T s0 (trainFabric s) := by
  unfold trainFabric
  repeat' (first | with_reducible assumption | exact within_trans rfl hT | with_reducible apply linkRelease_keeps | with_reducible apply Keeps.foldl | intro _ | dsimp only | split)

theorem chipletStarts_keeps (pos : ℕ) {s : State} (hT : within [.boot, .dev, .faults, .db, .ports, .cmds, .graphs, .counts, .cairn, .las, .chans, .links, .fab, .out, .free] T = true)
    (h : Keeps T s0 s) : Keeps T s0 (chipletStarts pos s) := by
  unfold chipletStarts
  repeat' (first | with_reducible assumption | exact within_trans rfl hT | with_reducible apply lightComb_keeps | with_reducible apply lightPort_keeps | with_reducible apply linkRelease_keeps | with_reducible apply Keeps.foldl | intro _ | dsimp only | split)

theorem chipletTooCold_keeps (pos : ℕ) {s : State} (hT : within [.boot, .dev, .faults, .db, .ports, .cmds, .graphs, .counts, .comp, .banks, .cairn, .therm, .out, .free] T = true)
    (h : Keeps T s0 s) : Keeps T s0 (chipletTooCold pos s) := by
  unfold chipletTooCold
  repeat' (first | with_reducible assumption | exact within_trans rfl hT | with_reducible apply faultUOpen_keeps | with_reducible apply fenceChipBanks_keeps | with_reducible apply Keeps.foldl | intro _ | dsimp only | split | ((fail_if_no_progress (with_reducible apply keeps_mk)); rotate_left; · (intro x hx; cases x <;> first | exact absurd (within_mem hT rfl) hx | exact rfl | exact ⟨rfl, rfl, rfl, rfl, rfl, rfl⟩)))

theorem beginWake_keeps (a : Accepted) {s : State} (hT : within [.dev, .cmds] T = true)
    (h : Keeps T s0 s) : Keeps T s0 (beginWake a s) := by
  unfold beginWake
  repeat' (first | with_reducible assumption | exact within_trans rfl hT | with_reducible apply finish_keeps | with_reducible apply Keeps.foldl | intro _ | dsimp only | split | ((fail_if_no_progress (with_reducible apply keeps_mk)); rotate_left; · (intro x hx; cases x <;> first | exact absurd (within_mem hT rfl) hx | exact rfl | exact ⟨rfl, rfl, rfl, rfl, rfl, rfl⟩)))

theorem wakeNow_keeps (w : WakeReport) (a : Accepted) {s : State} (hT : within [.pins, .boot, .dev, .faults, .mbx, .db, .locks, .ports, .cmds, .graphs, .bytes, .memCtl, .counts, .comp, .banks, .cairn, .therm, .las, .chans, .links, .fab, .d2d, .guest, .sec, .out, .free] T = true)
    (h : Keeps T s0 s) : Keeps T s0 (wakeNow w a s) := by
  unfold wakeNow
  repeat' (first | with_reducible assumption | exact within_trans rfl hT | with_reducible apply finish_keeps | with_reducible apply setDev_keeps | with_reducible apply selfTest_keeps | with_reducible apply wakeRings_keeps | with_reducible apply wakeLasers_keeps | with_reducible apply Keeps.foldl | intro _ | dsimp only | split)

end Sys2Proof.Machine
end

