-- ==== Sys2Proof/Laws/Commands.lean ====
section
/-!
SUPPORT. One lemma for each shared operation of Machine/Commands.lean: what it keeps of whatever state it is applied to.
The list in a lemma names the areas the operation may change.
-/

set_option linter.unusedTactic false
set_option linter.unreachableTactic false
set_option linter.unusedVariables false

namespace Sys2Proof.Machine

variable {T : List Area} {s0 : State}

theorem beginOf_keeps (a : Accepted) {s : State} (hT : within [.pins, .clock, .boot, .dev, .faults, .mbx, .db, .locks, .ports, .cmds, .graphs, .bytes, .memCtl, .stk, .counts, .comp, .banks, .cairn, .therm, .las, .chans, .links, .fab, .d2d, .guest, .sec, .out, .free] T = true)
    (h : Keeps T s0 s) : Keeps T s0 (beginOf a s) := by
  unfold beginOf
  repeat' (first | with_reducible assumption | exact within_trans rfl hT | with_reducible apply beginDeviceInfo_keeps | with_reducible apply beginStandby_keeps | with_reducible apply beginWake_keeps | with_reducible apply beginReset_keeps | with_reducible apply beginLimit_keeps | with_reducible apply beginWatchdog_keeps | with_reducible apply beginSetMode_keeps | with_reducible apply beginLend_keeps | with_reducible apply beginLendLimit_keeps | with_reducible apply beginReclaim_keeps | with_reducible apply beginLoad_keeps | with_reducible apply beginVerify_keeps | with_reducible apply beginPlace_keeps | with_reducible apply beginStart_keeps | with_reducible apply beginPause_keeps | with_reducible apply beginResume_keeps | with_reducible apply beginAbort_keeps | with_reducible apply beginUnload_keeps | with_reducible apply beginFabStatus_keeps | with_reducible apply beginFabConfig_keeps | with_reducible apply beginLinkCtrl_keeps | with_reducible apply beginCountersEnable_keeps | with_reducible apply beginCountersRead_keeps | with_reducible apply beginCairnArm_keeps | with_reducible apply beginCairnTake_keeps | with_reducible apply beginCairnRead_keeps | with_reducible apply beginFaultRead_keeps | with_reducible apply beginFaultClear_keeps | with_reducible apply beginForce_keeps | with_reducible apply beginAck_keeps | with_reducible apply beginAttest_keeps | with_reducible apply beginClaimOwner_keeps | with_reducible apply beginFwUpdate_keeps | with_reducible apply finish_keeps | with_reducible apply Keeps.foldl | intro _ | dsimp only | split)

theorem beginWith_keeps {run : Accepted → State → State} (hr : ∀ a t, Keeps T s0 t → Keeps T s0 (run a t))
    (a : Accepted) {s : State} (hT : within [.cmds] T = true) (h : Keeps T s0 s) : Keeps T s0 (beginWith run a s) := by
  unfold beginWith
  split
  · exact hr _ _ h
  · exact finish_keeps _ _ (within_trans rfl hT) h

theorem acceptRow_keeps (d : Descriptor) {s : State} (hT : within [.cmds] T = true)
    (h : Keeps T s0 s) : Keeps T s0 (acceptRow d s) := by
  unfold acceptRow
  repeat' (first | with_reducible assumption | exact within_trans rfl hT | with_reducible apply touchSync_keeps | with_reducible apply setRing_keeps | with_reducible apply Keeps.foldl | intro _ | dsimp only | split | ((fail_if_no_progress (with_reducible apply keeps_mk)); rotate_left; · (intro x hx; cases x <;> first | exact absurd (within_mem hT rfl) hx | exact rfl | exact ⟨rfl, rfl, rfl, rfl, rfl, rfl⟩)))

theorem rowWaits_keeps (a : Accepted) {s : State} (hT : within [.cmds] T = true)
    (h : Keeps T s0 s) : Keeps T s0 (rowWaits a s) := by
  unfold rowWaits
  repeat' (first | with_reducible assumption | exact within_trans rfl hT | with_reducible apply setRing_keeps | with_reducible apply Keeps.foldl | intro _ | dsimp only | split)

theorem rowBegun_keeps (a : Accepted) {s : State} (hT : within [.cmds] T = true)
    (h : Keeps T s0 s) : Keeps T s0 (rowBegun a s) := by
  unfold rowBegun
  repeat' (first | with_reducible assumption | exact within_trans rfl hT | with_reducible apply setRing_keeps | with_reducible apply Keeps.foldl | intro _ | dsimp only | split)

theorem rowCommand_keeps (op : BitVec 16) {run : Accepted → State → State}
    (hr : ∀ a t, Keeps T s0 t → Keeps T s0 (run a t)) (d : Descriptor) {s : State}
    (hT : within [.cmds] T = true) (h : Keeps T s0 s) : Keeps T s0 (rowCommand op run d s) := by
  unfold rowCommand
  dsimp only
  repeat' (first | with_reducible assumption | exact within_trans rfl hT | with_reducible apply rowBegun_keeps | with_reducible apply acceptRow_keeps | with_reducible apply rowWaits_keeps | with_reducible apply finish_keeps | with_reducible apply beginWith_keeps | with_reducible apply hr | split)

theorem fwBitDone_keeps (i : ℕ) {s : State} (hT : within [.db] T = true)
    (h : Keeps T s0 s) : Keeps T s0 (fwBitDone i s) := by
  unfold fwBitDone
  repeat' (first | with_reducible assumption | with_reducible apply Keeps.foldl | intro _ | dsimp only | split | ((fail_if_no_progress (with_reducible apply keeps_mk)); rotate_left; · (intro x hx; cases x <;> first | exact absurd (within_mem hT rfl) hx | exact rfl | exact ⟨rfl, rfl, rfl, rfl, rfl, rfl⟩)))

theorem fwBitHandle_keeps (i : ℕ) {s : State} (hT : within [.mbx, .db, .ports, .cmds, .memCtl, .out] T = true)
    (h : Keeps T s0 s) : Keeps T s0 (fwBitHandle i s) := by
  unfold fwBitHandle
  repeat' (first | with_reducible assumption | exact within_trans rfl hT | with_reducible apply fwBitDone_keeps | with_reducible apply takeAnnouncement_keeps | with_reducible apply takeRings_keeps | with_reducible apply fwDrain_keeps | with_reducible apply Keeps.foldl | intro _ | dsimp only | split | ((fail_if_no_progress (with_reducible apply keeps_mk)); rotate_left; · (intro x hx; cases x <;> first | exact absurd (within_mem hT rfl) hx | exact rfl | exact ⟨rfl, rfl, rfl, rfl, rfl, rfl⟩)))

end Sys2Proof.Machine
end

