-- ==== Sys2Proof/Laws/FlitRx.lean ====
section
/-!
SUPPORT. One lemma for each shared operation of Machine/FlitRx.lean: what it keeps of whatever state it is applied to.
The list in a lemma names the areas the operation may change.
-/

set_option linter.unusedTactic false
set_option linter.unreachableTactic false
set_option linter.unusedVariables false

namespace Sys2Proof.Machine

variable {T : List Area} {s0 : State}

theorem resend_keeps (n : ℕ) (f : Flit) {s : State} (hT : within [.links, .out] T = true)
    (h : Keeps T s0 s) : Keeps T s0 (resend n f s) := by
  unfold resend
  repeat' (first | with_reducible assumption | exact within_trans rfl hT | with_reducible apply emit_keeps | with_reducible apply linkSet_keeps | with_reducible apply Keeps.foldl | intro _ | dsimp only | split)

theorem goBack_keeps (n : ℕ) {s : State} (hT : within [.counts, .chans, .links, .out] T = true)
    (h : Keeps T s0 s) : Keeps T s0 (goBack n s) := by
  unfold goBack
  repeat' (first | with_reducible assumption | exact within_trans rfl hT | with_reducible apply linkSet_keeps | with_reducible apply countLink_keeps | with_reducible apply resend_keeps | with_reducible apply askRetrain_keeps | with_reducible apply Keeps.foldl | intro _ | dsimp only | split)

theorem takeLack_keeps (n : ℕ) (lack : BitVec 32) {s : State} (hT : within [.links] T = true)
    (h : Keeps T s0 s) : Keeps T s0 (takeLack n lack s) := by
  unfold takeLack
  repeat' (first | with_reducible assumption | exact within_trans rfl hT | with_reducible apply linkSet_keeps | with_reducible apply Keeps.foldl | intro _ | dsimp only | split)

theorem takePause_keeps (n : ℕ) (p : BitVec 8) {s : State} (hT : within [.counts, .links] T = true)
    (h : Keeps T s0 s) : Keeps T s0 (takePause n p s) := by
  unfold takePause
  repeat' (first | with_reducible assumption | exact within_trans rfl hT | with_reducible apply linkSet_keeps | with_reducible apply countLink_keeps | with_reducible apply Keeps.foldl | intro _ | dsimp only | split)

theorem noteGap_keeps (n : ℕ) {s : State} (hT : within [.faults, .counts, .links, .out] T = true)
    (h : Keeps T s0 s) : Keeps T s0 (noteGap n s) := by
  unfold noteGap
  repeat' (first | with_reducible assumption | exact within_trans rfl hT | with_reducible apply linkSet_keeps | with_reducible apply sendIdleAck_keeps | with_reducible apply Keeps.foldl | intro _ | dsimp only | split)

theorem consume_keeps (f : Flit) (fl : Flank) (g : ℕ) {s : State} (hT : within [.boot, .dev, .faults, .db, .ports, .cmds, .graphs, .bytes, .memCtl, .stk, .counts, .comp, .cairn, .links, .fab, .out, .free] T = true)
    (h : Keeps T s0 s) : Keeps T s0 (consume f fl g s) := by
  unfold consume
  repeat' (first | with_reducible assumption | exact within_trans rfl hT | with_reducible apply peerRead_keeps | with_reducible apply peerWrite_keeps | with_reducible apply takeSend_keeps | with_reducible apply responseArrives_keeps | with_reducible apply creditArrives_keeps | with_reducible apply closeAcked_keeps | with_reducible apply sysRespArrives_keeps | with_reducible apply collContrib_keeps | with_reducible apply collResult_keeps | with_reducible apply sysArrives_keeps | with_reducible apply creditReq_keeps | with_reducible apply consumed_keeps | with_reducible apply Keeps.foldl | intro _ | dsimp only | split)

theorem answerLost_keeps (f : Flit) {s : State} (hT : within [.boot, .dev, .faults, .db, .ports, .cmds, .graphs, .counts, .cairn, .links, .fab, .out, .free] T = true)
    (h : Keeps T s0 s) : Keeps T s0 (answerLost f s) := by
  unfold answerLost
  repeat' (first | with_reducible assumption | exact within_trans rfl hT | with_reducible apply respond_keeps | with_reducible apply Keeps.foldl | intro _ | dsimp only | split)

theorem routeIn_keeps {n : Nat} {f : Flit} {s t : State} (hr : routeIn n f s = some t)
    (hT : within [.boot, .dev, .faults, .db, .ports, .cmds, .graphs, .bytes, .memCtl, .stk, .counts, .comp, .cairn, .links, .fab, .out, .free] T = true) (h : Keeps T s0 s) : Keeps T s0 t := by
  unfold routeIn at hr
  split at hr
  · cases hr
    exact collContrib_keeps _ _ _ (within_trans rfl hT) h
  · split at hr
    · cases hr
      exact consume_keeps _ _ _ (within_trans rfl hT) h
    · cases hr
      exact countLink_keeps _ _ _ (within_trans rfl hT) (routeFlit_gone (by assumption) (within_trans rfl hT) h)
    · cases hr
    · cases hr
      exact answerLost_keeps _ (within_trans rfl hT) (routeFlit_refused (by assumption) (within_trans rfl hT) h)

theorem landOut_keeps (n : Nat) (l : List Flit) (stuck : List Nat) {s : State} (hT : within [.boot, .dev, .faults, .db, .ports, .cmds, .graphs, .bytes, .memCtl, .stk, .counts, .comp, .cairn, .links, .fab, .out, .free] T = true)
    (h : Keeps T s0 s) : Keeps T s0 (landOut n l stuck s).2 := by
  induction l generalizing stuck s with
  | nil => exact h
  | cons f l ih =>
    unfold landOut
    split
    · exact ih _ h
    · split
      · exact ih _ (routeIn_keeps (by assumption) (within_trans rfl hT) h)
      · exact ih _ h

theorem landPump_keeps (n : ℕ) {s : State} (hT : within [.boot, .dev, .faults, .db, .ports, .cmds, .graphs, .bytes, .memCtl, .stk, .counts, .comp, .cairn, .links, .fab, .out, .free] T = true)
    (h : Keeps T s0 s) : Keeps T s0 (landPump n s) := by
  unfold landPump
  repeat' (first | with_reducible assumption | exact within_trans rfl hT | with_reducible apply landOut_keeps | with_reducible apply linkSet_keeps | with_reducible apply Keeps.foldl | with_reducible apply Keeps.foldlSnd | intro _ | dsimp only | split)

theorem fabricPump_keeps {s : State} (hT : within [.boot, .dev, .faults, .db, .ports, .cmds, .graphs, .bytes, .memCtl, .stk, .counts, .comp, .cairn, .links, .fab, .out, .free] T = true)
    (h : Keeps T s0 s) : Keeps T s0 (fabricPump s) := by
  unfold fabricPump
  repeat' (first | with_reducible assumption | exact within_trans rfl hT | with_reducible apply groupPump_keeps | with_reducible apply fabricRetry_keeps | with_reducible apply landPump_keeps | with_reducible apply Keeps.foldl | intro _ | dsimp only | split)

theorem land_keeps (n : ℕ) (f : Flit) {s : State} (hT : within [.links] T = true)
    (h : Keeps T s0 s) : Keeps T s0 (land n f s) := by
  unfold land
  repeat' (first | with_reducible assumption | exact within_trans rfl hT | with_reducible apply linkSet_keeps | with_reducible apply Keeps.foldl | intro _ | dsimp only | split)

theorem windowDrain_keeps (g n k : Nat) {s : State} (hT : within [.links, .fab] T = true)
    (h : Keeps T s0 s) : Keeps T s0 (windowDrain g n k s) := by
  induction k generalizing s with
  | zero => exact h
  | succ k ih =>
    unfold windowDrain
    dsimp only
    split
    · exact h
    · exact ih (land_keeps _ _ (within_trans rfl hT) (keeps_mk h (by intro x hx; cases x <;> first | exact absurd (within_mem hT rfl) hx | exact rfl | exact ⟨rfl, rfl, rfl, rfl, rfl, rfl⟩)))

theorem windowTake_keeps (n : ℕ) (f : Flit) {s : State} (hT : within [.counts, .links, .fab] T = true)
    (h : Keeps T s0 s) : Keeps T s0 (windowTake n f s) := by
  unfold windowTake
  repeat' (first | with_reducible assumption | exact within_trans rfl hT | with_reducible apply windowDrain_keeps | with_reducible apply countLink_keeps | with_reducible apply Keeps.foldl | intro _ | dsimp only | split | ((fail_if_no_progress (with_reducible apply keeps_mk)); rotate_left; · (intro x hx; cases x <;> first | exact absurd (within_mem hT rfl) hx | exact rfl | exact ⟨rfl, rfl, rfl, rfl, rfl, rfl⟩)))

theorem acceptFlit_keeps (n : ℕ) (f : Flit) {s : State} (hT : within [.boot, .dev, .faults, .db, .ports, .cmds, .graphs, .counts, .cairn, .las, .chans, .links, .fab, .out, .free] T = true)
    (h : Keeps T s0 s) : Keeps T s0 (acceptFlit n f s) := by
  unfold acceptFlit
  repeat' (first | with_reducible assumption | exact within_trans rfl hT | with_reducible apply countLink_keeps | with_reducible apply linkSet_keeps | with_reducible apply widthAsked_keeps | with_reducible apply widthAnswered_keeps | with_reducible apply fabCount_keeps | with_reducible apply forcedFlit_keeps | with_reducible apply windowTake_keeps | with_reducible apply Keeps.foldl | with_reducible apply Keeps.foldlSnd | intro _ | dsimp only | split)

theorem takeLinkFields_keeps (n : ℕ) (f : Flit) {s : State} (hT : within [.counts, .chans, .links, .out] T = true)
    (h : Keeps T s0 s) : Keeps T s0 (takeLinkFields n f s) := by
  unfold takeLinkFields
  repeat' (first | with_reducible assumption | exact within_trans rfl hT | with_reducible apply takePause_keeps | with_reducible apply takeLack_keeps | with_reducible apply goBack_keeps | with_reducible apply Keeps.foldl | intro _ | dsimp only | split)

theorem flitArrives_keeps (n : ℕ) (f : Flit) {s : State} (hT : within [.boot, .dev, .faults, .db, .ports, .cmds, .graphs, .bytes, .memCtl, .stk, .counts, .comp, .cairn, .las, .chans, .links, .fab, .out, .free] T = true)
    (h : Keeps T s0 s) : Keeps T s0 (flitArrives n f s) := by
  unfold flitArrives
  repeat' (first | with_reducible assumption | exact within_trans rfl hT | with_reducible apply noteGap_keeps | with_reducible apply countLink_keeps | with_reducible apply takeLinkFields_keeps | with_reducible apply fabricPump_keeps | with_reducible apply acceptFlit_keeps | with_reducible apply Keeps.foldl | intro _ | dsimp only | split)

end Sys2Proof.Machine
end

