-- ==== Sys2Proof/Laws/Guest.lean ====
section
/-!
SUPPORT. One lemma for each shared operation of Machine/Guest.lean: what it keeps of whatever state it is applied to.
The list in a lemma names the areas the operation may change.
-/

set_option linter.unusedTactic false
set_option linter.unreachableTactic false
set_option linter.unusedVariables false

namespace Sys2Proof.Machine

variable {T : List Area} {s0 : State}

theorem guestAnswer_keeps (r : GuestReq) (st : Status) (data : List Byte) (poison : List Bool) {s : State} (hT : within [.out] T = true)
    (h : Keeps T s0 s) : Keeps T s0 (guestAnswer r st data poison s) := by
  unfold guestAnswer
  repeat' (first | with_reducible assumption | exact within_trans rfl hT | with_reducible apply emit_keeps | with_reducible apply Keeps.foldl | intro _ | dsimp only | split)

theorem guestTurned_keeps (r : GuestReq) (st : Status) {s : State} (hT : within [.out] T = true)
    (h : Keeps T s0 s) : Keeps T s0 (guestTurned r st s) := by
  unfold guestTurned
  repeat' (first | with_reducible assumption | exact within_trans rfl hT | with_reducible apply guestAnswer_keeps | with_reducible apply Keeps.foldl | intro _ | dsimp only | split)

theorem violation_keeps (r : GuestReq) (reason : ℕ) {s : State} (hT : within [.pins, .boot, .dev, .faults, .mbx, .db, .locks, .ports, .cmds, .graphs, .cairn, .d2d, .guest, .out, .free] T = true)
    (h : Keeps T s0 s) : Keeps T s0 (violation r reason s) := by
  unfold violation
  repeat' (first | with_reducible assumption | exact within_trans rfl hT | with_reducible apply guestTurned_keeps | with_reducible apply fenceGuest_keeps | with_reducible apply faultCOpen_keeps | with_reducible apply Keeps.foldl | intro _ | dsimp only | split | ((fail_if_no_progress (with_reducible apply keeps_mk)); rotate_left; · (intro x hx; cases x <;> first | exact absurd (within_mem hT rfl) hx | exact rfl | exact ⟨rfl, rfl, rfl, rfl, rfl, rfl⟩)))

theorem pokeByte_keeps (a : ℕ) (b : Byte) {s : State} (hT : within [.bytes] T = true)
    (h : Keeps T s0 s) : Keeps T s0 (pokeByte a b s) := by
  unfold pokeByte
  repeat' (first | with_reducible assumption | exact within_trans rfl hT | with_reducible apply dramPut_keeps | with_reducible apply cmPut_keeps | with_reducible apply lsPut_keeps | with_reducible apply Keeps.foldl | intro _ | dsimp only | split)

theorem markGranule_keeps (a : ℕ) (bad : Bool) {s : State} (hT : within [.bytes] T = true)
    (h : Keeps T s0 s) : Keeps T s0 (markGranule a bad s) := by
  unfold markGranule
  split
  · split
    · exact dramTaint_keeps _ _ (within_trans rfl hT) h
    · exact dramClean_keeps _ _ (within_trans rfl hT) h
  · refine keeps_cmPoison (within_trans rfl hT) h fun w => ?_
    split
    · exact rwf_radd _ _ _ w
    · exact rwf_rsub _ _ _ w
  · refine keeps_lsPoison (within_trans rfl hT) h fun w => ?_
    split
    · exact rwf_radd _ _ _ w
    · exact rwf_rsub _ _ _ w
  · exact h

theorem guestPokes_keeps (r : GuestReq) (i : Nat) (l : List Byte) {s : State} (hT : within [.bytes] T = true)
    (h : Keeps T s0 s) : Keeps T s0 (guestPokes r i l s) := by
  induction l generalizing i s with
  | nil => exact h
  | cons b l ih =>
    refine ih _ ?_
    split
    · exact pokeByte_keeps _ _ (within_trans rfl hT) h
    · exact h

theorem guestMark_keeps (r : GuestReq) (bad : BitVec 8) (g : ℕ) {s : State} (hT : within [.bytes] T = true)
    (h : Keeps T s0 s) : Keeps T s0 (guestMark r bad g s) := by
  unfold guestMark
  repeat' (first | with_reducible assumption | exact within_trans rfl hT | with_reducible apply markGranule_keeps | with_reducible apply Keeps.foldl | intro _ | dsimp only | split)

theorem guestStore_keeps (r : GuestReq) (data : List Byte) (bad : BitVec 8) {s : State} (hT : within [.bytes, .memCtl, .counts] T = true)
    (h : Keeps T s0 s) : Keeps T s0 (guestStore r data bad s) := by
  unfold guestStore
  repeat' (first | with_reducible assumption | exact within_trans rfl hT | with_reducible apply claimLines_keeps | with_reducible apply guestMark_keeps | with_reducible apply guestPokes_keeps | with_reducible apply countStack_keeps | with_reducible apply Keeps.foldl | intro _ | dsimp only | split)

theorem guestRegRead_keeps (off : ℕ) {s : State} (hT : within [.locks] T = true)
    (h : Keeps T s0 s) : Keeps T s0 (guestRegRead off s).2 := by
  unfold guestRegRead
  repeat' (first | with_reducible assumption | exact within_trans rfl hT | with_reducible apply lockRead_keeps | with_reducible apply Keeps.foldl | with_reducible apply Keeps.foldlSnd | intro _ | dsimp only | split)

theorem guestServeRead_keeps (r : GuestReq) (found : List (ℕ × BadSymbols)) {s : State} (hT : within [.boot, .dev, .faults, .db, .locks, .ports, .cmds, .graphs, .bytes, .memCtl, .stk, .counts, .cairn, .out] T = true)
    (h : Keeps T s0 s) : Keeps T s0 (guestServeRead r found s) := by
  unfold guestServeRead
  repeat' (first | with_reducible assumption | exact within_trans rfl hT | with_reducible apply guestTurned_keeps | with_reducible apply guestRegRead_keeps | with_reducible apply guestAnswer_keeps | with_reducible apply readLines_keeps | with_reducible apply forcedLines_keeps | with_reducible apply Keeps.foldl | with_reducible apply Keeps.foldlSnd | intro _ | dsimp only | split)

theorem guestForced_keeps (bad : BitVec 8) {s : State} (hT : within [.faults] T = true)
    (h : Keeps T s0 s) : Keeps T s0 (guestForced bad s).2 := by
  unfold guestForced
  repeat' (first | with_reducible assumption | exact within_trans rfl hT | with_reducible apply forcedDone_keeps | with_reducible apply Keeps.foldl | with_reducible apply Keeps.foldlSnd | intro _ | dsimp only | split)

theorem guestServeWrite_keeps (r : GuestReq) (data : List Byte) (bad : BitVec 8) {s : State} (hT : within [.pins, .boot, .dev, .faults, .mbx, .db, .locks, .ports, .cmds, .graphs, .bytes, .memCtl, .stk, .counts, .comp, .banks, .cairn, .therm, .las, .chans, .links, .fab, .d2d, .guest, .out, .free] T = true)
    (h : Keeps T s0 s) : Keeps T s0 (guestServeWrite r data bad s) := by
  unfold guestServeWrite
  repeat' (first | with_reducible assumption | exact within_trans rfl hT | with_reducible apply guestTurned_keeps | with_reducible apply regWriteAt_keeps | with_reducible apply guestAnswer_keeps | with_reducible apply guestStore_keeps | with_reducible apply Keeps.foldl | with_reducible apply Keeps.foldlSnd | intro _ | dsimp only | split | ((fail_if_no_progress (with_reducible apply keeps_mk)); rotate_left; · (intro x hx; cases x <;> first | exact absurd (within_mem hT rfl) hx | exact rfl | exact ⟨rfl, rfl, rfl, rfl, rfl, rfl⟩)))

end Sys2Proof.Machine
end

