-- ==== Sys2Proof/Laws/LaneRx.lean ====
section
/-!
SUPPORT. One lemma for each shared operation of Machine/LaneRx.lean: what it keeps of whatever state it is applied to.
The list in a lemma names the areas the operation may change.
-/

set_option linter.unusedTactic false
set_option linter.unreachableTactic false
set_option linter.unusedVariables false

namespace Sys2Proof.Machine

variable {T : List Area} {s0 : State}

theorem moveTold_keeps (n : ℕ) (lane : ℕ) (a : ℕ) (b : ℕ) (slot : ℕ) (at_ : ℕ) {s : State} (hT : within [.links] T = true)
    (h : Keeps T s0 s) : Keeps T s0 (moveTold n lane a b slot at_ s) := by
  unfold moveTold
  repeat' (first | with_reducible assumption | exact within_trans rfl hT | with_reducible apply linkSet_keeps | with_reducible apply Keeps.foldl | intro _ | dsimp only | split)

theorem sleepTold_keeps (n : ℕ) (slot : ℕ) {s : State} (hT : within [.links] T = true)
    (h : Keeps T s0 s) : Keeps T s0 (sleepTold n slot s) := by
  unfold sleepTold
  repeat' (first | with_reducible assumption | exact within_trans rfl hT | with_reducible apply linkSet_keeps | with_reducible apply Keeps.foldl | intro _ | dsimp only | split)

theorem wakeTold_keeps (n : ℕ) (slot : ℕ) {s : State} (hT : within [.links] T = true)
    (h : Keeps T s0 s) : Keeps T s0 (wakeTold n slot s) := by
  unfold wakeTold
  repeat' (first | with_reducible assumption | exact within_trans rfl hT | with_reducible apply linkSet_keeps | with_reducible apply Keeps.foldl | intro _ | dsimp only | split)

theorem laneBlock_keeps (n : ℕ) (k : ℕ) (slot : ℕ) (p : List Byte) {s : State} (hT : within [.boot, .dev, .faults, .db, .ports, .cmds, .graphs, .counts, .cairn, .las, .chans, .links, .fab, .out, .free] T = true)
    (h : Keeps T s0 s) : Keeps T s0 (laneBlock n k slot p s) := by
  unfold laneBlock
  dsimp only
  repeat' (first | with_reducible assumption | exact within_trans rfl hT | with_reducible apply setChan_keeps | with_reducible apply sleepTold_keeps | with_reducible apply wakeTold_keeps | with_reducible apply beaconSeen_keeps | with_reducible apply retrainSeen_keeps | with_reducible apply moveTold_keeps | with_reducible apply moveAcked_keeps | with_reducible apply retireChan_keeps | with_reducible apply checkStarts_keeps | with_reducible apply checkReports_keeps | with_reducible apply checkEnds_keeps | with_reducible apply testStarts_keeps | with_reducible apply testEnds_keeps | with_reducible apply keeps_ite | split)

theorem streamTake_keeps (n : ℕ) (b : Bool × Bool × List Byte) {s : State} (hT : within [.boot, .dev, .faults, .db, .ports, .cmds, .graphs, .bytes, .memCtl, .stk, .counts, .comp, .cairn, .las, .chans, .links, .fab, .out, .free] T = true)
    (h : Keeps T s0 s) : Keeps T s0 (streamTake n b s) := by
  unfold streamTake
  repeat' (first | with_reducible assumption | exact within_trans rfl hT | with_reducible apply portTake_keeps | with_reducible apply linkSet_keeps | with_reducible apply flitArrives_keeps | with_reducible apply Keeps.foldl | intro _ | dsimp only | split)

theorem mergeLanes_keeps (n k : Nat) {s : State} (hT : within [.boot, .dev, .faults, .db, .ports, .cmds, .graphs, .bytes, .memCtl, .stk, .counts, .comp, .cairn, .las, .chans, .links, .fab, .out, .free] T = true)
    (h : Keeps T s0 s) : Keeps T s0 (mergeLanes n k s) := by
  induction k generalizing s with
  | zero => exact h
  | succ k ih =>
    unfold mergeLanes
    dsimp only
    split
    · exact h
    · split
      · exact h
      · exact ih (streamTake_keeps _ _ (within_trans rfl hT) (linkSet_keeps _ _ (within_trans rfl hT) h))

theorem laneTake_keeps (n : ℕ) (lane : ℕ) (slot : ℕ) (bs : List (Bool × Bool × List Byte)) {s : State} (hT : within [.boot, .dev, .faults, .db, .ports, .cmds, .graphs, .bytes, .memCtl, .stk, .counts, .comp, .cairn, .las, .chans, .links, .fab, .out, .free] T = true)
    (h : Keeps T s0 s) : Keeps T s0 (laneTake n lane slot bs s) := by
  unfold laneTake
  repeat' (first | with_reducible assumption | exact within_trans rfl hT | with_reducible apply linkSet_keeps | with_reducible apply mergeLanes_keeps | with_reducible apply Keeps.foldl | intro _ | dsimp only | split)

theorem laneFiller_keeps (n : ℕ) (lane : ℕ) (slot : ℕ) {s : State} (hT : within [.boot, .dev, .faults, .db, .ports, .cmds, .graphs, .bytes, .memCtl, .stk, .counts, .comp, .cairn, .las, .chans, .links, .fab, .out, .free] T = true)
    (h : Keeps T s0 s) : Keeps T s0 (laneFiller n lane slot s) := by
  unfold laneFiller
  repeat' (first | with_reducible assumption | exact within_trans rfl hT | with_reducible apply laneTake_keeps | with_reducible apply Keeps.foldl | intro _ | dsimp only | split)

theorem movesDue_keeps (n : ℕ) (slot : ℕ) {s : State} (hT : within [.chans, .links] T = true)
    (h : Keeps T s0 s) : Keeps T s0 (movesDue n slot s) := by
  unfold movesDue
  repeat' (first | with_reducible assumption | exact within_trans rfl hT | with_reducible apply laneMoves_keeps | with_reducible apply Keeps.foldl | intro _ | dsimp only | split)

theorem sleepDue_keeps (n : ℕ) (slot : ℕ) {s : State} (hT : within [.links] T = true)
    (h : Keeps T s0 s) : Keeps T s0 (sleepDue n slot s) := by
  unfold sleepDue
  repeat' (first | with_reducible assumption | exact within_trans rfl hT | with_reducible apply linkSet_keeps | with_reducible apply Keeps.foldl | intro _ | dsimp only | split)

theorem testTakes_keeps (i : ℕ) (bits : List Bool) {s : State} (hT : within [.chans] T = true)
    (h : Keeps T s0 s) : Keeps T s0 (testTakes i bits s) := by
  unfold testTakes
  repeat' (first | with_reducible assumption | exact within_trans rfl hT | with_reducible apply setChan_keeps | with_reducible apply Keeps.foldl | intro _ | dsimp only | split)

theorem cwTaken_keeps (n : ℕ) (k : ℕ) (slot : ℕ) (bits : List Bool) {s : State} (hT : within [.boot, .dev, .faults, .db, .ports, .cmds, .graphs, .bytes, .memCtl, .stk, .counts, .comp, .cairn, .las, .chans, .links, .fab, .out, .free] T = true)
    (h : Keeps T s0 s) : Keeps T s0 (cwTaken n k slot bits s) := by
  unfold cwTaken
  repeat' (first | with_reducible assumption | exact within_trans rfl hT | with_reducible apply testTakes_keeps | with_reducible apply laneBlock_keeps | with_reducible apply laneFiller_keeps | with_reducible apply laneTake_keeps | with_reducible apply Keeps.foldl | intro _ | dsimp only | split)

theorem cwLost_keeps (n : ℕ) (k : ℕ) (slot : ℕ) (bits : List Bool) {s : State} (hT : within [.boot, .dev, .faults, .db, .ports, .cmds, .graphs, .bytes, .memCtl, .stk, .counts, .comp, .cairn, .las, .chans, .links, .fab, .out, .free] T = true)
    (h : Keeps T s0 s) : Keeps T s0 (cwLost n k slot bits s) := by
  unfold cwLost
  repeat' (first | with_reducible assumption | exact within_trans rfl hT | with_reducible apply laneTake_keeps | with_reducible apply Keeps.foldl | intro _ | dsimp only | split)

theorem cwTraining_keeps (n : ℕ) (k : ℕ) (t : TrainWords) {s : State} (hT : within [.boot, .dev, .faults, .db, .ports, .cmds, .graphs, .counts, .cairn, .las, .chans, .links, .fab, .out, .free] T = true)
    (h : Keeps T s0 s) : Keeps T s0 (cwTraining n k t s) := by
  unfold cwTraining
  repeat' (first | with_reducible assumption | exact within_trans rfl hT | with_reducible apply setChan_keeps | with_reducible apply retrainSeen_keeps | with_reducible apply Keeps.foldl | intro _ | dsimp only | split)

theorem cwDecoded_keeps (n : ℕ) (k : ℕ) (gap : ℕ) (w : List ℕ) {s : State} (hT : within [.boot, .dev, .faults, .db, .ports, .cmds, .graphs, .bytes, .memCtl, .stk, .counts, .comp, .cairn, .las, .chans, .links, .fab, .out, .free] T = true)
    (h : Keeps T s0 s) : Keeps T s0 (cwDecoded n k gap w s) := by
  unfold cwDecoded
  repeat' (first | with_reducible assumption | exact within_trans rfl hT | with_reducible apply cwTraining_keeps | with_reducible apply setChan_keeps | with_reducible apply linkSet_keeps | with_reducible apply movesDue_keeps | with_reducible apply sleepDue_keeps | with_reducible apply cwTaken_keeps | with_reducible apply cwLost_keeps | with_reducible apply Keeps.foldl | intro _ | dsimp only | split)

end Sys2Proof.Machine
end

