-- ==== Sys2Proof/Laws/TimeSync.lean ====
section
/-!
SUPPORT. One lemma for each shared operation of Machine/TimeSync.lean: what it keeps of whatever state it is applied to.
The list in a lemma names the areas the operation may change.
-/

set_option linter.unusedTactic false
set_option linter.unreachableTactic false
set_option linter.unusedVariables false

namespace Sys2Proof.Machine

variable {T : List Area} {s0 : State}

theorem becomeMaster_keeps {s : State} (hT : within [.clock] T = true)
    (h : Keeps T s0 s) : Keeps T s0 (becomeMaster s) := by
  unfold becomeMaster
  repeat' (first | with_reducible assumption | with_reducible apply Keeps.foldl | intro _ | dsimp only | split | ((fail_if_no_progress (with_reducible apply keeps_mk)); rotate_left; · (intro x hx; cases x <;> first | exact absurd (within_mem hT rfl) hx | exact rfl | exact ⟨rfl, rfl, rfl, rfl, rfl, rfl⟩)))

theorem discipline_keeps (off : ℤ) {s : State} (hT : within [.clock, .boot, .dev, .faults, .db, .ports, .cmds, .graphs, .cairn, .out, .free] T = true)
    (h : Keeps T s0 s) : Keeps T s0 (discipline off s) := by
  unfold discipline
  repeat' (first | with_reducible assumption | exact within_trans rfl hT | with_reducible apply faultCOpen_keeps | with_reducible apply Keeps.foldl | intro _ | dsimp only | split | ((fail_if_no_progress (with_reducible apply keeps_mk)); rotate_left; · (intro x hx; cases x <;> first | exact absurd (within_mem hT rfl) hx | exact rfl | exact ⟨rfl, rfl, rfl, rfl, rfl, rfl⟩)))

theorem timeArrives_keeps (n : ℕ) (m : TimeMsg) {s : State} (hT : within [.clock, .boot, .dev, .faults, .db, .ports, .cmds, .graphs, .cairn, .out, .free] T = true)
    (h : Keeps T s0 s) : Keeps T s0 (timeArrives n m s) := by
  unfold timeArrives
  repeat' (first | with_reducible assumption | exact within_trans rfl hT | with_reducible apply becomeMaster_keeps | with_reducible apply discipline_keeps | with_reducible apply Keeps.foldl | intro _ | dsimp only | split | ((fail_if_no_progress (with_reducible apply keeps_mk)); rotate_left; · (intro x hx; cases x <;> first | exact absurd (within_mem hT rfl) hx | exact rfl | exact ⟨rfl, rfl, rfl, rfl, rfl, rfl⟩)))

theorem passTime_keeps (elapsed : ℕ) {s : State} (hT : within [.clock] T = true)
    (h : Keeps T s0 s) : Keeps T s0 (passTime elapsed s) := by
  unfold passTime
  repeat' (first | with_reducible assumption | with_reducible apply Keeps.foldl | intro _ | dsimp only | split | ((fail_if_no_progress (with_reducible apply keeps_mk)); rotate_left; · (intro x hx; cases x <;> first | exact absurd (within_mem hT rfl) hx | exact rfl | exact ⟨rfl, rfl, rfl, rfl, rfl, rfl⟩)))

end Sys2Proof.Machine
end

