-- ==== Sys2Proof/Laws/Rows.lean ====
section
/-!
SUPPORT. One lemma for each row of the table: what its meaning keeps of whatever state it runs in. The list in a lemma
names the areas the row may change.
-/

set_option linter.unusedTactic false
set_option linter.unreachableTactic false
set_option linter.unusedVariables false

namespace Sys2Proof.Machine

variable {T : List Area} {s0 : State}

theorem execRowRepair_keeps (x0 : ℕ) (x1 : ℕ) (x2 : ℕ) (x3 : ℕ) {s : State} (hT : within [.stk] T = true)
    (h : Keeps T s0 s) : KeepsNext T s0 (execRowRepair x0 x1 x2 x3 s) := by
  unfold execRowRepair
  repeat' (first | exact within_trans rfl hT | with_reducible assumption | with_reducible apply keepsNext_next | with_reducible apply Keeps.foldl | intro _ | dsimp only | split | ((fail_if_no_progress (with_reducible apply keeps_mk)); rotate_left; · (intro x hx; cases x <;> first | exact absurd (within_mem hT rfl) hx | exact rfl | exact ⟨rfl, rfl, rfl, rfl, rfl, rfl⟩)))

theorem execFlankHardReset_keeps (x0 : Flank) {s : State} (hT : within [.pins, .boot, .dev, .faults, .mbx, .db, .locks, .ports, .cmds, .graphs, .bytes, .memCtl, .counts, .comp, .banks, .cairn, .las, .chans, .links, .fab, .d2d, .guest, .out, .free] T = true)
    (h : Keeps T s0 s) : KeepsNext T s0 (execFlankHardReset x0 s) := by
  unfold execFlankHardReset
  repeat' (first | with_reducible assumption | with_reducible apply keepsNext_next | exact within_trans rfl hT | with_reducible apply flankBack_keeps | with_reducible apply hardBegin_keeps | with_reducible apply Keeps.foldl | intro _ | dsimp only | split)

theorem execRefclkLoss_keeps  {s : State} (hT : within [.pins, .boot, .dev, .faults, .db, .ports, .cmds, .graphs, .bytes, .memCtl, .counts, .comp, .banks, .cairn, .las, .chans, .links, .fab, .out, .free] T = true)
    (h : Keeps T s0 s) : KeepsNext T s0 (execRefclkLoss s) := by
  unfold execRefclkLoss
  repeat' (first | with_reducible assumption | with_reducible apply keepsNext_next | exact within_trans rfl hT | with_reducible apply faultXOpen_keeps | with_reducible apply loseMemory_keeps | with_reducible apply allDark_keeps | with_reducible apply Keeps.foldl | intro _ | dsimp only | split | ((fail_if_no_progress (with_reducible apply keeps_mk)); rotate_left; · (intro x hx; cases x <;> first | exact absurd (within_mem hT rfl) hx | exact rfl | exact ⟨rfl, rfl, rfl, rfl, rfl, rfl⟩)))

theorem otherType_keeps (x0 : HeldFrame) {s : State} (hT : within [.ports, .out] T = true)
    (h : Keeps T s0 s) : KeepsNext T s0 (otherType x0 s) := by
  unfold otherType
  repeat' (first | with_reducible assumption | with_reducible apply keepsNext_next | exact within_trans rfl hT | with_reducible apply answer_keeps | with_reducible apply Keeps.foldl | intro _ | dsimp only | split)

theorem execMboxPost_keeps (x0 : Port) (x1 : Frame) {s : State} (hT : within [.boot, .dev, .faults, .mbx, .db, .ports, .cmds, .graphs, .cairn, .out] T = true)
    (h : Keeps T s0 s) : KeepsNext T s0 (execMboxPost x0 x1 s) := by
  unfold execMboxPost
  repeat' (first | with_reducible assumption | with_reducible apply otherType_keeps | with_reducible apply keepsNext_next | exact within_trans rfl hT | with_reducible apply answer_keeps | with_reducible apply mboxPost_keeps | with_reducible apply Keeps.foldl | with_reducible apply Keeps.foldlSnd | intro _ | dsimp only | split)

theorem execBankOutOfRange_keeps (x0 : ℕ) (x1 : ℕ) {s : State} (hT : within [.banks] T = true)
    (h : Keeps T s0 s) : KeepsNext T s0 (execBankOutOfRange x0 x1 s) := by
  unfold execBankOutOfRange
  repeat' (first | with_reducible assumption | with_reducible apply keepsNext_next | exact within_trans rfl hT | with_reducible apply bankClaim_keeps | with_reducible apply Keeps.foldl | intro _ | dsimp only | split)

theorem execTrainingTimeout_keeps (x0 : ℕ) {s : State} (hT : within [.boot, .dev, .faults, .db, .ports, .cmds, .graphs, .counts, .cairn, .las, .chans, .links, .fab, .out, .free] T = true)
    (h : Keeps T s0 s) : KeepsNext T s0 (execTrainingTimeout x0 s) := by
  unfold execTrainingTimeout
  repeat' (first | with_reducible assumption | with_reducible apply keepsNext_next | exact within_trans rfl hT | with_reducible apply portTimeout_keeps | with_reducible apply linkDark_keeps | with_reducible apply enterSend_keeps | with_reducible apply linkSet_keeps | with_reducible apply enterTrain_keeps | with_reducible apply Keeps.foldl | intro _ | dsimp only | split)

theorem execTestEnd_keeps (x0 : ℕ) {s : State} (hT : within [.chans] T = true)
    (h : Keeps T s0 s) : KeepsNext T s0 (execTestEnd x0 s) := by
  unfold execTestEnd
  repeat' (first | with_reducible assumption | with_reducible apply keepsNext_next | exact within_trans rfl hT | with_reducible apply testEnds_keeps | with_reducible apply Keeps.foldl | intro _ | dsimp only | split)

theorem execClusterFailure_keeps (x0 : ℕ) {s : State} (hT : within [.boot, .dev, .faults, .db, .ports, .cmds, .graphs, .counts, .comp, .cairn, .out, .free] T = true)
    (h : Keeps T s0 s) : KeepsNext T s0 (execClusterFailure x0 s) := by
  unfold execClusterFailure
  repeat' (first | with_reducible assumption | with_reducible apply keepsNext_next | exact within_trans rfl hT | with_reducible apply failCluster_keeps | with_reducible apply Keeps.foldl | intro _ | dsimp only | split)

theorem execBankWalkOrder_keeps (x0 : ℕ) (x1 : ℕ) (x2 : ℕ) {s : State} (hT : within [.boot, .dev, .faults, .db, .ports, .cmds, .graphs, .counts, .comp, .banks, .cairn, .out] T = true)
    (h : Keeps T s0 s) : KeepsNext T s0 (execBankWalkOrder x0 x1 x2 s) := by
  unfold execBankWalkOrder
  repeat' (first | with_reducible assumption | with_reducible apply keepsNext_next | exact within_trans rfl hT | with_reducible apply walkDone_keeps | with_reducible apply Keeps.foldl | intro _ | dsimp only | split)

theorem execClaimOwner_keeps (x0 : Descriptor) {s : State} (hT : within [.boot, .dev, .faults, .db, .ports, .cmds, .graphs, .cairn, .sec, .out, .free] T = true)
    (h : Keeps T s0 s) : KeepsNext T s0 (execClaimOwner x0 s) := by
  unfold execClaimOwner
  repeat' (first | with_reducible assumption | with_reducible apply keepsNext_next | exact within_trans rfl hT | with_reducible apply rowCommand_keeps | with_reducible apply beginClaimOwner_keeps | with_reducible apply Keeps.foldl | intro _ | dsimp only | split)

theorem execWorkItemTake_keeps (x0 : ℕ) {s : State} (hT : within [.comp] T = true)
    (h : Keeps T s0 s) : KeepsNext T s0 (execWorkItemTake x0 s) := by
  unfold execWorkItemTake
  repeat' (first | with_reducible assumption | with_reducible apply keepsNext_next | exact within_trans rfl hT | with_reducible apply clusterSet_keeps | with_reducible apply Keeps.foldl | intro _ | dsimp only | split)

theorem execHwinRetryTimer_keeps (x0 : BitVec 32) {s : State} (hT : within [.boot, .dev, .faults, .db, .ports, .cmds, .graphs, .bytes, .memCtl, .counts, .comp, .cairn, .links, .fab, .out, .free] T = true)
    (h : Keeps T s0 s) : KeepsNext T s0 (execHwinRetryTimer x0 s) := by
  unfold execHwinRetryTimer
  repeat' (first | with_reducible assumption | with_reducible apply keepsNext_next | exact within_trans rfl hT | with_reducible apply failWaiting_keeps | with_reducible apply hwinTry_keeps | with_reducible apply dropHwin_keeps | with_reducible apply hwinFail_keeps | with_reducible apply mreqEnd_keeps | with_reducible apply Keeps.foldl | intro _ | dsimp only | split)

theorem execDbHostEpochWrite_keeps (x0 : BitVec 64) (x1 : Access) {s : State} (hT : within [.boot, .dev, .faults, .mbx, .db, .locks, .ports, .cmds, .graphs, .cairn, .out] T = true)
    (h : Keeps T s0 s) : KeepsNext T s0 (execDbHostEpochWrite x0 x1 s) := by
  unfold execDbHostEpochWrite
  repeat' (first | with_reducible assumption | with_reducible apply keepsNext_next | exact within_trans rfl hT | with_reducible apply emit_keeps | with_reducible apply hostEpochWrite_keeps | with_reducible apply secureFault_keeps | with_reducible apply Keeps.foldl | intro _ | dsimp only | split)

theorem execFabConfig_keeps (x0 : Descriptor) {s : State} (hT : within [.clock, .boot, .dev, .faults, .db, .ports, .cmds, .graphs, .counts, .cairn, .las, .chans, .links, .fab, .out, .free] T = true)
    (h : Keeps T s0 s) : KeepsNext T s0 (execFabConfig x0 s) := by
  unfold execFabConfig
  repeat' (first | with_reducible assumption | with_reducible apply keepsNext_next | exact within_trans rfl hT | with_reducible apply rowCommand_keeps | with_reducible apply beginFabConfig_keeps | with_reducible apply Keeps.foldl | intro _ | dsimp only | split)

theorem execFirmwareMailboxPost_keeps (x0 : MbxChan) (x1 : Option (BitVec 64)) {s : State} (hT : within [.mbx, .db, .ports, .d2d, .out] T = true)
    (h : Keeps T s0 s) : KeepsNext T s0 (execFirmwareMailboxPost x0 x1 s) := by
  unfold execFirmwareMailboxPost
  repeat' (first | with_reducible assumption | with_reducible apply keepsNext_next | exact within_trans rfl hT | with_reducible apply fwPost_keeps | with_reducible apply chanSet_keeps | with_reducible apply Keeps.foldl | with_reducible apply Keeps.foldlSnd | intro _ | dsimp only | split)

theorem execCombSparePoint_keeps (x0 : ℕ) {s : State} (hT : within [.boot, .dev, .faults, .db, .ports, .cmds, .graphs, .counts, .comp, .banks, .cairn, .las, .out, .free] T = true)
    (h : Keeps T s0 s) : KeepsNext T s0 (execCombSparePoint x0 s) := by
  unfold execCombSparePoint
  repeat' (first | with_reducible assumption | with_reducible apply keepsNext_next | exact within_trans rfl hT | with_reducible apply combSparePoint_keeps | with_reducible apply Keeps.foldl | intro _ | dsimp only | split)

theorem execDbgToken_keeps (x0 : DebugToken) {s : State} (hT : within [.boot, .dev, .faults, .db, .ports, .cmds, .graphs, .cairn, .sec, .out, .free] T = true)
    (h : Keeps T s0 s) : KeepsNext T s0 (execDbgToken x0 s) := by
  unfold execDbgToken
  repeat' (first | with_reducible assumption | with_reducible apply keepsNext_next | exact within_trans rfl hT | with_reducible apply securityEvent_keeps | with_reducible apply drawChallenge_keeps | with_reducible apply Keeps.foldl | intro _ | dsimp only | split | ((fail_if_no_progress (with_reducible apply keeps_mk)); rotate_left; · (intro x hx; cases x <;> first | exact absurd (within_mem hT rfl) hx | exact rfl | exact ⟨rfl, rfl, rfl, rfl, rfl, rfl⟩)) | ((fail_if_no_progress (with_reducible apply keeps_mkSec)); rotate_left; · (intro x hx; cases x <;> first | exact absurd (within_mem hT rfl) hx | exact rfl | exact ⟨rfl, rfl, rfl, rfl, rfl, rfl⟩)))

theorem execCoreFailure_keeps (x0 : ℕ) (x1 : ℕ) {s : State} (hT : within [.boot, .dev, .faults, .db, .ports, .cmds, .graphs, .counts, .comp, .cairn, .out, .free] T = true)
    (h : Keeps T s0 s) : KeepsNext T s0 (execCoreFailure x0 x1 s) := by
  unfold execCoreFailure
  repeat' (first | with_reducible assumption | with_reducible apply keepsNext_next | exact within_trans rfl hT | with_reducible apply fenceCore_keeps | with_reducible apply reportFrom_keeps | with_reducible apply wakeCluster_keeps | with_reducible apply Keeps.foldl | intro _ | dsimp only | split)

theorem execChipletWalkIdentify_keeps (x0 : ℕ) (x1 : ℕ) {s : State} (hT : within [.boot, .dev, .faults, .db, .ports, .cmds, .graphs, .cairn, .chans, .out, .free] T = true)
    (h : Keeps T s0 s) : KeepsNext T s0 (execChipletWalkIdentify x0 x1 s) := by
  unfold execChipletWalkIdentify
  repeat' (first | with_reducible assumption | with_reducible apply keepsNext_next | exact within_trans rfl hT | with_reducible apply chipWalkDone_keeps | with_reducible apply Keeps.foldl | intro _ | dsimp only | split)

theorem execCreditUpdate_keeps (x0 : QueueRef) {s : State} (hT : within [.boot, .dev, .faults, .db, .ports, .cmds, .graphs, .counts, .comp, .cairn, .out] T = true)
    (h : Keeps T s0 s) : KeepsNext T s0 (execCreditUpdate x0 s) := by
  unfold execCreditUpdate
  repeat' (first | with_reducible assumption | with_reducible apply keepsNext_next | exact within_trans rfl hT | with_reducible apply clusterSet_keeps | with_reducible apply creditFault_keeps | with_reducible apply engSet_keeps | with_reducible apply doneUpdate_keeps | with_reducible apply fwReadDone_keeps | with_reducible apply Keeps.foldl | intro _ | dsimp only | split)

theorem execCheckResult_keeps (x0 : ℕ) (x1 : LaneCheck) {s : State} (hT : within [.boot, .dev, .faults, .db, .ports, .cmds, .graphs, .counts, .cairn, .las, .chans, .links, .fab, .out, .free] T = true)
    (h : Keeps T s0 s) : KeepsNext T s0 (execCheckResult x0 x1 s) := by
  unfold execCheckResult
  repeat' (first | with_reducible assumption | with_reducible apply keepsNext_next | exact within_trans rfl hT | with_reducible apply checkEnds_keeps | with_reducible apply tellCheck_keeps | with_reducible apply Keeps.foldl | intro _ | dsimp only | split)

theorem execMemReclaim_keeps (x0 : Descriptor) {s : State} (hT : within [.db, .ports, .cmds, .memCtl, .out, .free] T = true)
    (h : Keeps T s0 s) : KeepsNext T s0 (execMemReclaim x0 s) := by
  unfold execMemReclaim
  repeat' (first | with_reducible assumption | with_reducible apply keepsNext_next | exact within_trans rfl hT | with_reducible apply rowCommand_keeps | with_reducible apply beginReclaim_keeps | with_reducible apply Keeps.foldl | intro _ | dsimp only | split)

theorem execLinkSpareSwitch_keeps (x0 : ℕ) (x1 : ℕ) {s : State} (hT : within [.boot, .dev, .faults, .db, .ports, .cmds, .graphs, .counts, .cairn, .las, .chans, .links, .fab, .out, .free] T = true)
    (h : Keeps T s0 s) : KeepsNext T s0 (execLinkSpareSwitch x0 x1 s) := by
  unfold execLinkSpareSwitch
  repeat' (first | with_reducible assumption | with_reducible apply keepsNext_next | exact within_trans rfl hT | with_reducible apply setHandover_keeps | with_reducible apply setChan_keeps | with_reducible apply nextHandover_keeps | with_reducible apply Keeps.foldl | intro _ | dsimp only | split | ((fail_if_no_progress (with_reducible apply keeps_mk)); rotate_left; · (intro x hx; cases x <;> first | exact absurd (within_mem hT rfl) hx | exact rfl | exact ⟨rfl, rfl, rfl, rfl, rfl, rfl⟩)))

theorem execBankRetuneWave_keeps (x0 : Flank) {s : State} (hT : within [.banks] T = true)
    (h : Keeps T s0 s) : KeepsNext T s0 (execBankRetuneWave x0 s) := by
  unfold execBankRetuneWave
  repeat' (first | with_reducible assumption | with_reducible apply keepsNext_next | exact within_trans rfl hT | with_reducible apply startWave_keeps | with_reducible apply Keeps.foldl | intro _ | dsimp only | split | ((fail_if_no_progress (with_reducible apply keeps_mk)); rotate_left; · (intro x hx; cases x <;> first | exact absurd (within_mem hT rfl) hx | exact rfl | exact ⟨rfl, rfl, rfl, rfl, rfl, rfl⟩)))

theorem execAckSlowdown_keeps (x0 : Descriptor) {s : State} (hT : within [.cmds, .counts, .comp, .therm, .out] T = true)
    (h : Keeps T s0 s) : KeepsNext T s0 (execAckSlowdown x0 s) := by
  unfold execAckSlowdown
  repeat' (first | with_reducible assumption | with_reducible apply keepsNext_next | exact within_trans rfl hT | with_reducible apply rowCommand_keeps | with_reducible apply beginAck_keeps | with_reducible apply Keeps.foldl | intro _ | dsimp only | split)

theorem execLkLockRead_keeps (x0 : Master) (x1 : ℕ) (x2 : Bool) {s : State} (hT : within [.boot, .dev, .faults, .db, .locks, .ports, .cmds, .graphs, .cairn, .out] T = true)
    (h : Keeps T s0 s) : KeepsNext T s0 (execLkLockRead x0 x1 x2 s) := by
  unfold execLkLockRead
  repeat' (first | with_reducible assumption | with_reducible apply keepsNext_next | exact within_trans rfl hT | with_reducible apply emit_keeps | with_reducible apply secureFault_keeps | with_reducible apply lockRead_keeps | with_reducible apply Keeps.foldl | with_reducible apply Keeps.foldlSnd | intro _ | dsimp only | split)

theorem execEngineOpRetire_keeps (x0 : ℕ) (x1 : ℕ) (x2 : Engine) {s : State} (hT : within [.faults, .bytes, .counts, .comp, .banks, .free] T = true)
    (h : Keeps T s0 s) : KeepsNext T s0 (execEngineOpRetire x0 x1 x2 s) := by
  unfold execEngineOpRetire
  repeat' (first | with_reducible assumption | with_reducible apply keepsNext_next | exact within_trans rfl hT | with_reducible apply retireRun_keeps | with_reducible apply retireHead_keeps | with_reducible apply Keeps.foldl | intro _ | dsimp only | split)

theorem execColBoot_keeps (x0 : BootImages) {s : State} (hT : within [.pins, .clock, .boot, .dev, .faults, .db, .ports, .cmds, .graphs, .cairn, .out] T = true)
    (h : Keeps T s0 s) : KeepsNext T s0 (execColBoot x0 s) := by
  unfold execColBoot
  repeat' (first | with_reducible assumption | with_reducible apply keepsNext_next | exact within_trans rfl hT | with_reducible apply suppliesBack_keeps | with_reducible apply firmwareCounted_keeps | with_reducible apply securityEvent_keeps | with_reducible apply ringBit_keeps | with_reducible apply faultX_keeps | with_reducible apply Keeps.foldl | intro _ | dsimp only | split | ((fail_if_no_progress (with_reducible apply keeps_mk)); rotate_left; · (intro x hx; cases x <;> first | exact absurd (within_mem hT rfl) hx | exact rfl | exact ⟨rfl, rfl, rfl, rfl, rfl, rfl⟩)))

theorem execFlankLoss_keeps (x0 : Flank) {s : State} (hT : within [.boot, .dev, .faults, .db, .locks, .ports, .cmds, .graphs, .bytes, .memCtl, .counts, .comp, .cairn, .las, .chans, .links, .fab, .d2d, .out, .free] T = true)
    (h : Keeps T s0 s) : KeepsNext T s0 (execFlankLoss x0 s) := by
  unfold execFlankLoss
  repeat' (first | with_reducible assumption | with_reducible apply keepsNext_next | exact within_trans rfl hT | with_reducible apply flankOut_keeps | with_reducible apply Keeps.foldl | intro _ | dsimp only | split)

theorem execRegRead_keeps (x0 : Port) (x1 : Frame) {s : State} (hT : within [.boot, .dev, .faults, .db, .locks, .ports, .cmds, .graphs, .cairn, .out] T = true)
    (h : Keeps T s0 s) : KeepsNext T s0 (execRegRead x0 x1 s) := by
  unfold execRegRead
  repeat' (first | with_reducible assumption | with_reducible apply otherType_keeps | with_reducible apply keepsNext_next | exact within_trans rfl hT | with_reducible apply answer_keeps | with_reducible apply hostRegRead_keeps | with_reducible apply Keeps.foldl | with_reducible apply Keeps.foldlSnd | intro _ | dsimp only | split)

theorem execPauseComplete_keeps (x0 : BitVec 32) {s : State} (hT : within [.dev, .db, .ports, .cmds, .graphs, .out] T = true)
    (h : Keeps T s0 s) : KeepsNext T s0 (execPauseComplete x0 s) := by
  unfold execPauseComplete
  repeat' (first | with_reducible assumption | with_reducible apply keepsNext_next | exact within_trans rfl hT | with_reducible apply pauseDone_keeps | with_reducible apply Keeps.foldl | intro _ | dsimp only | split)

theorem execChannelFailure_keeps (x0 : ℕ) (x1 : ℕ) (x2 : Bool) {s : State} (hT : within [.boot, .dev, .faults, .db, .ports, .cmds, .graphs, .memCtl, .stk, .cairn, .out] T = true)
    (h : Keeps T s0 s) : KeepsNext T s0 (execChannelFailure x0 x1 x2 s) := by
  unfold execChannelFailure
  repeat' (first | with_reducible assumption | with_reducible apply keepsNext_next | exact within_trans rfl hT | with_reducible apply failStack_keeps | with_reducible apply Keeps.foldl | intro _ | dsimp only | split)

theorem execReductionSlotTimeout_keeps (x0 : Flank) (x1 : ℕ) (x2 : ℕ) {s : State} (hT : within [.boot, .dev, .faults, .db, .ports, .cmds, .graphs, .bytes, .memCtl, .counts, .comp, .cairn, .links, .fab, .out, .free] T = true)
    (h : Keeps T s0 s) : KeepsNext T s0 (execReductionSlotTimeout x0 x1 x2 s) := by
  unfold execReductionSlotTimeout
  repeat' (first | with_reducible assumption | with_reducible apply keepsNext_next | exact within_trans rfl hT | with_reducible apply putSlot_keeps | with_reducible apply collDeliver_keeps | with_reducible apply collWhole_keeps | with_reducible apply Keeps.foldl | intro _ | dsimp only | split)

theorem execAttest_keeps (x0 : Descriptor) {s : State} (hT : within [.boot, .dev, .faults, .db, .ports, .cmds, .graphs, .bytes, .memCtl, .counts, .cairn, .sec, .out, .free] T = true)
    (h : Keeps T s0 s) : KeepsNext T s0 (execAttest x0 s) := by
  unfold execAttest
  repeat' (first | with_reducible assumption | with_reducible apply keepsNext_next | exact within_trans rfl hT | with_reducible apply rowCommand_keeps | with_reducible apply beginAttest_keeps | with_reducible apply Keeps.foldl | intro _ | dsimp only | split)

theorem execBulkWrite_keeps (x0 : Port) (x1 : Frame) {s : State} (hT : within [.boot, .dev, .faults, .db, .ports, .cmds, .graphs, .bytes, .memCtl, .counts, .cairn, .out] T = true)
    (h : Keeps T s0 s) : KeepsNext T s0 (execBulkWrite x0 x1 s) := by
  unfold execBulkWrite
  repeat' (first | with_reducible assumption | with_reducible apply otherType_keeps | with_reducible apply keepsNext_next | exact within_trans rfl hT | with_reducible apply answer_keeps | with_reducible apply secureFault_keeps | with_reducible apply bulkPut_keeps | with_reducible apply Keeps.foldl | intro _ | dsimp only | split)

theorem execPreHeatChipletReady_keeps (x0 : BitVec 8) {s : State} (hT : within [.boot, .dev, .faults, .db, .ports, .cmds, .graphs, .counts, .cairn, .las, .chans, .links, .fab, .out, .free] T = true)
    (h : Keeps T s0 s) : KeepsNext T s0 (execPreHeatChipletReady x0 s) := by
  unfold execPreHeatChipletReady
  repeat' (first | with_reducible assumption | with_reducible apply keepsNext_next | exact within_trans rfl hT | with_reducible apply chipletStarts_keeps | with_reducible apply Keeps.foldl | intro _ | dsimp only | split | ((fail_if_no_progress (with_reducible apply keeps_mk)); rotate_left; · (intro x hx; cases x <;> first | exact absurd (within_mem hT rfl) hx | exact rfl | exact ⟨rfl, rfl, rfl, rfl, rfl, rfl⟩)))

theorem execBeaconMiss_keeps (x0 : ℕ) (x1 : ℕ) {s : State} (hT : within [.chans] T = true)
    (h : Keeps T s0 s) : KeepsNext T s0 (execBeaconMiss x0 x1 s) := by
  unfold execBeaconMiss
  repeat' (first | with_reducible assumption | with_reducible apply keepsNext_next | exact within_trans rfl hT | with_reducible apply setChan_keeps | with_reducible apply Keeps.foldl | intro _ | dsimp only | split)

theorem execBankBackInRange_keeps (x0 : ℕ) (x1 : ℕ) {s : State} (hT : within [.banks] T = true)
    (h : Keeps T s0 s) : KeepsNext T s0 (execBankBackInRange x0 x1 s) := by
  unfold execBankBackInRange
  repeat' (first | with_reducible assumption | with_reducible apply keepsNext_next | exact within_trans rfl hT | with_reducible apply bankSet_keeps | with_reducible apply Keeps.foldl | intro _ | dsimp only | split)

theorem execGraceExpiry_keeps (x0 : Domain) {s : State} (hT : within [.counts, .comp, .therm, .out] T = true)
    (h : Keeps T s0 s) : KeepsNext T s0 (execGraceExpiry x0 s) := by
  unfold execGraceExpiry
  repeat' (first | with_reducible assumption | with_reducible apply keepsNext_next | exact within_trans rfl hT | with_reducible apply setReq_keeps | with_reducible apply startEnforce_keeps | with_reducible apply Keeps.foldl | intro _ | dsimp only | split)

theorem execD2dRetryTimer_keeps (x0 : ℕ) (x1 : ℕ) {s : State} (hT : within [.d2d, .out] T = true)
    (h : Keeps T s0 s) : KeepsNext T s0 (execD2dRetryTimer x0 x1 s) := by
  unfold execD2dRetryTimer
  repeat' (first | with_reducible assumption | with_reducible apply keepsNext_next | exact within_trans rfl hT | with_reducible apply replay_keeps | with_reducible apply Keeps.foldl | intro _ | dsimp only | split)

theorem execCreditReq_keeps (x0 : ℕ) (x1 : ℕ) {s : State} (hT : within [.boot, .dev, .faults, .db, .ports, .cmds, .graphs, .counts, .cairn, .links, .fab, .out, .free] T = true)
    (h : Keeps T s0 s) : KeepsNext T s0 (execCreditReq x0 x1 s) := by
  unfold execCreditReq
  repeat' (first | with_reducible assumption | with_reducible apply keepsNext_next | exact within_trans rfl hT | with_reducible apply creditReq_keeps | with_reducible apply Keeps.foldl | intro _ | dsimp only | split)

theorem execWidthAck_keeps (x0 : ℕ) (x1 : WidthMsg) {s : State} (hT : within [.links] T = true)
    (h : Keeps T s0 s) : KeepsNext T s0 (execWidthAck x0 x1 s) := by
  unfold execWidthAck
  repeat' (first | with_reducible assumption | with_reducible apply keepsNext_next | exact within_trans rfl hT | with_reducible apply widthAnswered_keeps | with_reducible apply Keeps.foldl | intro _ | dsimp only | split)

theorem execLkLockWrite_keeps (x0 : Master) (x1 : ℕ) (x2 : BitVec 64) (x3 : Bool) {s : State} (hT : within [.boot, .dev, .faults, .db, .locks, .ports, .cmds, .graphs, .cairn, .out] T = true)
    (h : Keeps T s0 s) : KeepsNext T s0 (execLkLockWrite x0 x1 x2 x3 s) := by
  unfold execLkLockWrite
  repeat' (first | with_reducible assumption | with_reducible apply keepsNext_next | exact within_trans rfl hT | with_reducible apply emit_keeps | with_reducible apply secureFault_keeps | with_reducible apply lockWrite_keeps | with_reducible apply Keeps.foldl | intro _ | dsimp only | split)

theorem execHostFrameReceive_keeps (x0 : Port) (x1 : Frame) {s : State} (hT : within [.boot, .dev, .faults, .db, .ports, .cmds, .graphs, .cairn, .out] T = true)
    (h : Keeps T s0 s) : KeepsNext T s0 (execHostFrameReceive x0 x1 s) := by
  unfold execHostFrameReceive
  repeat' (first | with_reducible assumption | with_reducible apply keepsNext_next | exact within_trans rfl hT | with_reducible apply hostFrame_keeps | with_reducible apply Keeps.foldl | intro _ | dsimp only | split)

theorem execReplayTimer_keeps (x0 : ℕ) {s : State} (hT : within [.counts, .chans, .links, .out] T = true)
    (h : Keeps T s0 s) : KeepsNext T s0 (execReplayTimer x0 s) := by
  unfold execReplayTimer
  repeat' (first | with_reducible assumption | with_reducible apply keepsNext_next | exact within_trans rfl hT | with_reducible apply goBack_keeps | with_reducible apply Keeps.foldl | intro _ | dsimp only | split)

theorem execChannelLockLoss_keeps (x0 : ℕ) {s : State} (hT : within [.boot, .dev, .faults, .db, .ports, .cmds, .graphs, .cairn, .chans, .links, .out, .free] T = true)
    (h : Keeps T s0 s) : KeepsNext T s0 (execChannelLockLoss x0 s) := by
  unfold execChannelLockLoss
  repeat' (first | with_reducible assumption | with_reducible apply keepsNext_next | exact within_trans rfl hT | with_reducible apply lockLost_keeps | with_reducible apply Keeps.foldl | intro _ | dsimp only | split)

theorem execWatchdogExpiry_keeps  {s : State} (hT : within [.db, .ports, .cmds, .graphs, .cairn, .out] T = true)
    (h : Keeps T s0 s) : KeepsNext T s0 (execWatchdogExpiry s) := by
  unfold execWatchdogExpiry
  repeat' (first | with_reducible assumption | with_reducible apply keepsNext_next | exact within_trans rfl hT | with_reducible apply notice_keeps | with_reducible apply cairnFire_keeps | with_reducible apply pauseAll_keeps | with_reducible apply Keeps.foldl | intro _ | dsimp only | split | ((fail_if_no_progress (with_reducible apply keeps_mk)); rotate_left; · (intro x hx; cases x <;> first | exact absurd (within_mem hT rfl) hx | exact rfl | exact ⟨rfl, rfl, rfl, rfl, rfl, rfl⟩)))

theorem namedWrite_keeps (x0 : ℕ) (x1 : BitVec 64) (x2 : Access) {s : State} (hT : within [.pins, .boot, .dev, .faults, .mbx, .db, .locks, .ports, .cmds, .graphs, .bytes, .memCtl, .stk, .counts, .comp, .banks, .cairn, .therm, .las, .chans, .links, .fab, .d2d, .guest, .out, .free] T = true)
    (h : Keeps T s0 s) : KeepsNext T s0 (namedWrite x0 x1 x2 s) := by
  unfold namedWrite
  repeat' (first | with_reducible assumption | with_reducible apply keepsNext_next | exact within_trans rfl hT | with_reducible apply hostRegWrite_keeps | with_reducible apply emit_keeps | with_reducible apply Keeps.foldl | with_reducible apply Keeps.foldlSnd | intro _ | dsimp only | split)

theorem execCpSkewLimitWrite_keeps (x0 : BitVec 64) (x1 : Access) {s : State} (hT : within [.pins, .boot, .dev, .faults, .mbx, .db, .locks, .ports, .cmds, .graphs, .bytes, .memCtl, .stk, .counts, .comp, .banks, .cairn, .therm, .las, .chans, .links, .fab, .d2d, .guest, .out, .free] T = true)
    (h : Keeps T s0 s) : KeepsNext T s0 (execCpSkewLimitWrite x0 x1 s) := by
  unfold execCpSkewLimitWrite
  repeat' (first | exact within_trans rfl hT | with_reducible assumption | with_reducible apply namedWrite_keeps | with_reducible apply keepsNext_next | with_reducible apply Keeps.foldl | intro _ | dsimp only | split)

theorem execChipletWalkVerify_keeps (x0 : ℕ) (x1 : Bool) {s : State} (hT : within [.boot, .dev, .faults, .db, .ports, .cmds, .graphs, .cairn, .chans, .out, .free] T = true)
    (h : Keeps T s0 s) : KeepsNext T s0 (execChipletWalkVerify x0 x1 s) := by
  unfold execChipletWalkVerify
  repeat' (first | with_reducible assumption | with_reducible apply keepsNext_next | exact within_trans rfl hT | with_reducible apply chipWalkDone_keeps | with_reducible apply Keeps.foldl | intro _ | dsimp only | split)

theorem execBulkRead_keeps (x0 : Port) (x1 : FrameRead) {s : State} (hT : within [.boot, .dev, .faults, .db, .ports, .cmds, .graphs, .bytes, .memCtl, .stk, .counts, .cairn, .out] T = true)
    (h : Keeps T s0 s) : KeepsNext T s0 (execBulkRead x0 x1 s) := by
  unfold execBulkRead
  repeat' (first | with_reducible assumption | with_reducible apply otherType_keeps | with_reducible apply keepsNext_next | exact within_trans rfl hT | with_reducible apply answer_keeps | with_reducible apply bulkGet_keeps | with_reducible apply Keeps.foldl | with_reducible apply Keeps.foldlSnd | intro _ | dsimp only | split)

theorem execResume_keeps (x0 : Descriptor) {s : State} (hT : within [.boot, .dev, .faults, .db, .ports, .cmds, .graphs, .counts, .comp, .cairn, .links, .fab, .out, .free] T = true)
    (h : Keeps T s0 s) : KeepsNext T s0 (execResume x0 s) := by
  unfold execResume
  repeat' (first | with_reducible assumption | with_reducible apply keepsNext_next | exact within_trans rfl hT | with_reducible apply rowCommand_keeps | with_reducible apply beginResume_keeps | with_reducible apply Keeps.foldl | intro _ | dsimp only | split)

theorem execRefresh_keeps (x0 : ℕ) (x1 : ℕ) (x2 : ℕ) (x3 : Bool) {s : State} (hT : within [.stk, .counts, .therm] T = true)
    (h : Keeps T s0 s) : KeepsNext T s0 (execRefresh x0 x1 x2 x3 s) := by
  unfold execRefresh
  repeat' (first | with_reducible assumption | with_reducible apply keepsNext_next | exact within_trans rfl hT | with_reducible apply countStack_keeps | with_reducible apply promote_keeps | with_reducible apply caughtUp_keeps | with_reducible apply Keeps.foldl | intro _ | dsimp only | split | ((fail_if_no_progress (with_reducible apply keeps_mk)); rotate_left; · (intro x hx; cases x <;> first | exact absurd (within_mem hT rfl) hx | exact rfl | exact ⟨rfl, rfl, rfl, rfl, rfl, rfl⟩)))

theorem execGuestWrite_keeps (x0 : GuestReq) (x1 : List Byte) (x2 : BitVec 8) {s : State} (hT : within [.pins, .boot, .dev, .faults, .mbx, .db, .locks, .ports, .cmds, .graphs, .bytes, .memCtl, .stk, .counts, .comp, .banks, .cairn, .therm, .las, .chans, .links, .fab, .d2d, .guest, .out, .free] T = true)
    (h : Keeps T s0 s) : KeepsNext T s0 (execGuestWrite x0 x1 x2 s) := by
  unfold execGuestWrite
  repeat' (first | with_reducible assumption | with_reducible apply keepsNext_next | exact within_trans rfl hT | with_reducible apply guestForced_keeps | with_reducible apply violation_keeps | with_reducible apply guestTurned_keeps | with_reducible apply guestServeWrite_keeps | with_reducible apply Keeps.foldl | with_reducible apply Keeps.foldlSnd | intro _ | dsimp only | split)

theorem execPRunRetire_keeps (x0 : ℕ) (x1 : ℕ) {s : State} (hT : within [.faults, .bytes, .counts, .comp, .banks, .free] T = true)
    (h : Keeps T s0 s) : KeepsNext T s0 (execPRunRetire x0 x1 s) := by
  unfold execPRunRetire
  repeat' (first | with_reducible assumption | with_reducible apply keepsNext_next | exact within_trans rfl hT | with_reducible apply retireRun_keeps | with_reducible apply Keeps.foldl | intro _ | dsimp only | split)

theorem execReleaseRampTimer_keeps  {s : State} (hT : within [.counts, .comp, .therm, .out] T = true)
    (h : Keeps T s0 s) : KeepsNext T s0 (execReleaseRampTimer s) := by
  unfold execReleaseRampTimer
  repeat' (first | with_reducible assumption | with_reducible apply keepsNext_next | exact within_trans rfl hT | with_reducible apply rampStep_keeps | with_reducible apply Keeps.foldl | intro _ | dsimp only | split)

theorem execLimiterHeld_keeps  {s : State} (hT : within [.db, .ports, .cmds, .therm, .out] T = true)
    (h : Keeps T s0 s) : KeepsNext T s0 (execLimiterHeld s) := by
  unfold execLimiterHeld
  repeat' (first | with_reducible assumption | with_reducible apply keepsNext_next | exact within_trans rfl hT | with_reducible apply notice_keeps | with_reducible apply Keeps.foldl | intro _ | dsimp only | split | ((fail_if_no_progress (with_reducible apply keeps_mk)); rotate_left; · (intro x hx; cases x <;> first | exact absurd (within_mem hT rfl) hx | exact rfl | exact ⟨rfl, rfl, rfl, rfl, rfl, rfl⟩)))

theorem execCairnRead_keeps (x0 : Descriptor) {s : State} (hT : within [.ports, .cmds, .bytes, .memCtl, .counts, .out] T = true)
    (h : Keeps T s0 s) : KeepsNext T s0 (execCairnRead x0 s) := by
  unfold execCairnRead
  repeat' (first | with_reducible assumption | with_reducible apply keepsNext_next | exact within_trans rfl hT | with_reducible apply rowCommand_keeps | with_reducible apply beginCairnRead_keeps | with_reducible apply Keeps.foldl | intro _ | dsimp only | split)

theorem execModuleRetrain_keeps (x0 : ℕ) (x1 : ℕ) (x2 : List (ℕ × ℕ)) {s : State} (hT : within [.pins, .boot, .dev, .faults, .mbx, .db, .locks, .ports, .cmds, .graphs, .bytes, .memCtl, .counts, .comp, .cairn, .las, .chans, .links, .fab, .d2d, .guest, .out, .free] T = true)
    (h : Keeps T s0 s) : KeepsNext T s0 (execModuleRetrain x0 x1 x2 s) := by
  unfold execModuleRetrain
  repeat' (first | with_reducible assumption | with_reducible apply keepsNext_next | exact within_trans rfl hT | with_reducible apply moduleRetrained_keeps | with_reducible apply Keeps.foldl | intro _ | dsimp only | split)

theorem execDramRead_keeps (x0 : ℕ) (x1 : Requester) (x2 : BadSymbols) {s : State} (hT : within [.boot, .dev, .faults, .db, .ports, .cmds, .graphs, .bytes, .memCtl, .stk, .counts, .cairn, .out, .free] T = true)
    (h : Keeps T s0 s) : KeepsNext T s0 (execDramRead x0 x1 x2 s) := by
  unfold execDramRead
  repeat' (first | with_reducible assumption | with_reducible apply keepsNext_next | exact within_trans rfl hT | with_reducible apply readOutside_keeps | with_reducible apply emit_keeps | with_reducible apply sendLine_keeps | with_reducible apply deliverLine_keeps | with_reducible apply decodeLine_keeps | with_reducible apply countLineRead_keeps | with_reducible apply recallLine_keeps | with_reducible apply Keeps.foldl | intro _ | dsimp only | split)

theorem execSensorSample_keeps (x0 : ℕ) (x1 : ℤ) {s : State} (hT : within [.boot, .dev, .faults, .db, .locks, .ports, .cmds, .graphs, .bytes, .memCtl, .counts, .comp, .banks, .cairn, .therm, .las, .chans, .links, .fab, .d2d, .out, .free] T = true)
    (h : Keeps T s0 s) : KeepsNext T s0 (execSensorSample x0 x1 s) := by
  unfold execSensorSample
  repeat' (first | with_reducible assumption | with_reducible apply keepsNext_next | exact within_trans rfl hT | with_reducible apply excludeSensor_keeps | with_reducible apply sensorSet_keeps | with_reducible apply evalBands_keeps | with_reducible apply chipletOff_keeps | with_reducible apply judgeDomain_keeps | with_reducible apply Keeps.foldl | intro _ | dsimp only | split | ((fail_if_no_progress (with_reducible apply keeps_mk)); rotate_left; · (intro x hx; cases x <;> first | exact absurd (within_mem hT rfl) hx | exact rfl | exact ⟨rfl, rfl, rfl, rfl, rfl, rfl⟩)))

theorem execClockLost_keeps (x0 : ℕ) {s : State} (hT : within [.pins, .boot, .dev, .faults, .mbx, .db, .locks, .ports, .cmds, .graphs, .bytes, .memCtl, .counts, .comp, .cairn, .las, .chans, .links, .fab, .d2d, .guest, .out, .free] T = true)
    (h : Keeps T s0 s) : KeepsNext T s0 (execClockLost x0 s) := by
  unfold execClockLost
  repeat' (first | with_reducible assumption | with_reducible apply keepsNext_next | exact within_trans rfl hT | with_reducible apply moduleClockLost_keeps | with_reducible apply flankOut_keeps | with_reducible apply fenceGuest_keeps | with_reducible apply moduleChanged_keeps | with_reducible apply faultU_keeps | with_reducible apply Keeps.foldl | intro _ | dsimp only | split)

theorem execSynCqConsumedWrite_keeps (x0 : BitVec 64) {s : State} (hT : within [.cmds, .out] T = true)
    (h : Keeps T s0 s) : KeepsNext T s0 (execSynCqConsumedWrite x0 s) := by
  unfold execSynCqConsumedWrite
  repeat' (first | with_reducible assumption | with_reducible apply keepsNext_next | exact within_trans rfl hT | with_reducible apply cqConsumedWrite_keeps | with_reducible apply emit_keeps | with_reducible apply Keeps.foldl | with_reducible apply Keeps.foldlSnd | intro _ | dsimp only | split)

theorem execCheckStart_keeps (x0 : ℕ) (x1 : ℕ) {s : State} (hT : within [.chans] T = true)
    (h : Keeps T s0 s) : KeepsNext T s0 (execCheckStart x0 x1 s) := by
  unfold execCheckStart
  repeat' (first | with_reducible assumption | with_reducible apply keepsNext_next | exact within_trans rfl hT | with_reducible apply checkStarts_keeps | with_reducible apply Keeps.foldl | intro _ | dsimp only | split)

theorem execLaneRetire_keeps (x0 : ℕ) (x1 : ℕ) (x2 : Bool) {s : State} (hT : within [.boot, .dev, .faults, .db, .ports, .cmds, .graphs, .counts, .cairn, .las, .chans, .links, .fab, .out, .free] T = true)
    (h : Keeps T s0 s) : KeepsNext T s0 (execLaneRetire x0 x1 x2 s) := by
  unfold execLaneRetire
  repeat' (first | with_reducible assumption | with_reducible apply keepsNext_next | exact within_trans rfl hT | with_reducible apply retireChan_keeps | with_reducible apply Keeps.foldl | intro _ | dsimp only | split)

theorem execMemoryTraining_keeps (x0 : List ℕ) {s : State} (hT : within [.boot, .dev, .faults, .db, .ports, .cmds, .graphs, .memCtl, .cairn, .out, .free] T = true)
    (h : Keeps T s0 s) : KeepsNext T s0 (execMemoryTraining x0 s) := by
  unfold execMemoryTraining
  repeat' (first | with_reducible assumption | with_reducible apply keepsNext_next | exact within_trans rfl hT | with_reducible apply faultUOpen_keeps | with_reducible apply bringUpStops_keeps | with_reducible apply refreshDegraded_keeps | with_reducible apply toStep_keeps | with_reducible apply Keeps.foldl | intro _ | dsimp only | split | ((fail_if_no_progress (with_reducible apply keeps_mk)); rotate_left; · (intro x hx; cases x <;> first | exact absurd (within_mem hT rfl) hx | exact rfl | exact ⟨rfl, rfl, rfl, rfl, rfl, rfl⟩)) | ((fail_if_no_progress (with_reducible apply keeps_mkMem)); rotate_left; · (intro x hx; cases x <;> first | exact absurd (within_mem hT rfl) hx | exact rfl | exact ⟨rfl, rfl, rfl, rfl, rfl, rfl⟩)))

theorem execPortLaserSwitch_keeps (x0 : Port) {s : State} (hT : within [.boot, .dev, .faults, .db, .ports, .cmds, .graphs, .cairn, .las, .links, .out, .free] T = true)
    (h : Keeps T s0 s) : KeepsNext T s0 (execPortLaserSwitch x0 s) := by
  unfold execPortLaserSwitch
  repeat' (first | with_reducible assumption | with_reducible apply keepsNext_next | exact within_trans rfl hT | with_reducible apply laserOff_keeps | with_reducible apply portDown_keeps | with_reducible apply portTrains_keeps | with_reducible apply setPort_keeps | with_reducible apply Keeps.foldl | intro _ | dsimp only | split | ((fail_if_no_progress (with_reducible apply keeps_mk)); rotate_left; · (intro x hx; cases x <;> first | exact absurd (within_mem hT rfl) hx | exact rfl | exact ⟨rfl, rfl, rfl, rfl, rfl, rfl⟩)))

theorem execLaneCheckDue_keeps (x0 : ℕ) {s : State} (hT : within [.boot, .dev, .faults, .db, .ports, .cmds, .graphs, .counts, .cairn, .therm, .las, .chans, .links, .fab, .out, .free] T = true)
    (h : Keeps T s0 s) : KeepsNext T s0 (execLaneCheckDue x0 s) := by
  unfold execLaneCheckDue
  repeat' (first | with_reducible assumption | with_reducible apply keepsNext_next | exact within_trans rfl hT | with_reducible apply promote_keeps | with_reducible apply setChan_keeps | with_reducible apply beginCheck_keeps | with_reducible apply Keeps.foldl | intro _ | dsimp only | split)

theorem execModuleLinkUp_keeps (x0 : ℕ) (x1 : LinkUpInput) {s : State} (hT : within [.pins, .boot, .dev, .faults, .mbx, .db, .locks, .ports, .cmds, .graphs, .bytes, .memCtl, .counts, .comp, .cairn, .las, .chans, .links, .fab, .d2d, .guest, .out, .free] T = true)
    (h : Keeps T s0 s) : KeepsNext T s0 (execModuleLinkUp x0 x1 s) := by
  unfold execModuleLinkUp
  repeat' (first | with_reducible assumption | with_reducible apply keepsNext_next | exact within_trans rfl hT | with_reducible apply faultUOpen_keeps | with_reducible apply tellCaps_keeps | with_reducible apply modSet_keeps | with_reducible apply fenceDesign_keeps | with_reducible apply linkUpWith_keeps | with_reducible apply Keeps.foldl | intro _ | dsimp only | split)

theorem execPowerGoodLoss_keeps (x0 : PowerGood) {s : State} (hT : within [.pins, .clock, .boot, .dev, .faults, .mbx, .db, .locks, .ports, .cmds, .graphs, .bytes, .memCtl, .stk, .counts, .comp, .banks, .cairn, .therm, .las, .chans, .links, .fab, .d2d, .guest, .sec, .out, .free] T = true)
    (h : Keeps T s0 s) : KeepsNext T s0 (execPowerGoodLoss x0 s) := by
  unfold execPowerGoodLoss
  repeat' (first | with_reducible assumption | with_reducible apply keepsNext_next | exact within_trans rfl hT | with_reducible apply powerLost_keeps | with_reducible apply Keeps.foldl | intro _ | dsimp only | split | ((fail_if_no_progress (with_reducible apply keeps_mk)); rotate_left; · (intro x hx; cases x <;> first | exact absurd (within_mem hT rfl) hx | exact rfl | exact ⟨rfl, rfl, rfl, rfl, rfl, rfl⟩)))

theorem execThermalNoticeRepeat_keeps (x0 : Domain) {s : State} (hT : within [.db, .ports, .cmds, .therm, .out] T = true)
    (h : Keeps T s0 s) : KeepsNext T s0 (execThermalNoticeRepeat x0 s) := by
  unfold execThermalNoticeRepeat
  repeat' (first | with_reducible assumption | with_reducible apply keepsNext_next | exact within_trans rfl hT | with_reducible apply requestNotice_keeps | with_reducible apply Keeps.foldl | intro _ | dsimp only | split)

theorem execPause_keeps (x0 : Descriptor) {s : State} (hT : within [.cmds, .graphs] T = true)
    (h : Keeps T s0 s) : KeepsNext T s0 (execPause x0 s) := by
  unfold execPause
  repeat' (first | with_reducible assumption | with_reducible apply keepsNext_next | exact within_trans rfl hT | with_reducible apply rowCommand_keeps | with_reducible apply beginPause_keeps | with_reducible apply Keeps.foldl | intro _ | dsimp only | split)

theorem execPackageReset_keeps (x0 : ℕ) (x1 : ResetPins) {s : State} (hT : within [.pins, .clock, .boot, .dev, .faults, .mbx, .db, .locks, .ports, .cmds, .graphs, .bytes, .memCtl, .stk, .counts, .comp, .banks, .cairn, .therm, .las, .chans, .links, .fab, .d2d, .guest, .sec, .free] T = true)
    (h : Keeps T s0 s) : KeepsNext T s0 (execPackageReset x0 x1 s) := by
  unfold execPackageReset
  repeat' (first | with_reducible assumption | with_reducible apply keepsNext_next | exact within_trans rfl hT | with_reducible apply afterReset_keeps | with_reducible apply leaveReset_keeps | with_reducible apply Keeps.foldl | intro _ | dsimp only | split | ((fail_if_no_progress (with_reducible apply keeps_mk)); rotate_left; · (intro x hx; cases x <;> first | exact absurd (within_mem hT rfl) hx | exact rfl | exact ⟨rfl, rfl, rfl, rfl, rfl, rfl⟩)))

theorem execRctlAlert_keeps  {s : State} (hT : within [.pins, .boot, .dev, .faults, .db, .ports, .cmds, .graphs, .cairn, .out, .free] T = true)
    (h : Keeps T s0 s) : KeepsNext T s0 (execRctlAlert s) := by
  unfold execRctlAlert
  repeat' (first | with_reducible assumption | with_reducible apply keepsNext_next | exact within_trans rfl hT | with_reducible apply faultCOpen_keeps | with_reducible apply Keeps.foldl | intro _ | dsimp only | split | ((fail_if_no_progress (with_reducible apply keeps_mk)); rotate_left; · (intro x hx; cases x <;> first | exact absurd (within_mem hT rfl) hx | exact rfl | exact ⟨rfl, rfl, rfl, rfl, rfl, rfl⟩)))

theorem execBankWalkIdentify_keeps (x0 : ℕ) (x1 : ℕ) (x2 : ℕ) (x3 : ℕ) {s : State} (hT : within [.boot, .dev, .faults, .db, .ports, .cmds, .graphs, .counts, .comp, .banks, .cairn, .out] T = true)
    (h : Keeps T s0 s) : KeepsNext T s0 (execBankWalkIdentify x0 x1 x2 x3 s) := by
  unfold execBankWalkIdentify
  repeat' (first | with_reducible assumption | with_reducible apply keepsNext_next | exact within_trans rfl hT | with_reducible apply walkDone_keeps | with_reducible apply Keeps.foldl | intro _ | dsimp only | split)

theorem execThermalRelease_keeps (x0 : Domain) {s : State} (hT : within [.db, .ports, .cmds, .counts, .comp, .therm, .out] T = true)
    (h : Keeps T s0 s) : KeepsNext T s0 (execThermalRelease x0 s) := by
  unfold execThermalRelease
  repeat' (first | with_reducible assumption | with_reducible apply keepsNext_next | exact within_trans rfl hT | with_reducible apply notice_keeps | with_reducible apply setFlankPower_keeps | with_reducible apply setReq_keeps | with_reducible apply rampStep_keeps | with_reducible apply Keeps.foldl | intro _ | dsimp only | split | ((fail_if_no_progress (with_reducible apply keeps_mk)); rotate_left; · (intro x hx; cases x <;> first | exact absurd (within_mem hT rfl) hx | exact rfl | exact ⟨rfl, rfl, rfl, rfl, rfl, rfl⟩)))

theorem execThThrottleWrite_keeps (x0 : BitVec 64) (x1 : Access) {s : State} (hT : within [.pins, .boot, .dev, .faults, .mbx, .db, .locks, .ports, .cmds, .graphs, .bytes, .memCtl, .stk, .counts, .comp, .banks, .cairn, .therm, .las, .chans, .links, .fab, .d2d, .guest, .out, .free] T = true)
    (h : Keeps T s0 s) : KeepsNext T s0 (execThThrottleWrite x0 x1 s) := by
  unfold execThThrottleWrite
  repeat' (first | exact within_trans rfl hT | with_reducible assumption | with_reducible apply namedWrite_keeps | with_reducible apply keepsNext_next | with_reducible apply Keeps.foldl | intro _ | dsimp only | split)

theorem execPowerLimiterTick_keeps (x0 : PowerReading) {s : State} (hT : within [.counts, .comp, .therm, .out] T = true)
    (h : Keeps T s0 s) : KeepsNext T s0 (execPowerLimiterTick x0 s) := by
  unfold execPowerLimiterTick
  repeat' (first | with_reducible assumption | with_reducible apply keepsNext_next | exact within_trans rfl hT | with_reducible apply trackLow_keeps | with_reducible apply limiterMove_keeps | with_reducible apply Keeps.foldl | intro _ | dsimp only | split | ((fail_if_no_progress (with_reducible apply keeps_mk)); rotate_left; · (intro x hx; cases x <;> first | exact absurd (within_mem hT rfl) hx | exact rfl | exact ⟨rfl, rfl, rfl, rfl, rfl, rfl⟩)))

theorem execDeviceStandby_keeps (x0 : Descriptor) {s : State} (hT : within [.dev, .db, .ports, .cmds, .counts, .comp, .las, .out] T = true)
    (h : Keeps T s0 s) : KeepsNext T s0 (execDeviceStandby x0 s) := by
  unfold execDeviceStandby
  repeat' (first | with_reducible assumption | with_reducible apply keepsNext_next | exact within_trans rfl hT | with_reducible apply rowCommand_keeps | with_reducible apply beginStandby_keeps | with_reducible apply Keeps.foldl | intro _ | dsimp only | split)

theorem execPreHeat_keeps  {s : State} (hT : within [.boot] T = true)
    (h : Keeps T s0 s) : KeepsNext T s0 (execPreHeat s) := by
  unfold execPreHeat
  repeat' (first | with_reducible assumption | with_reducible apply keepsNext_next | exact within_trans rfl hT | with_reducible apply startPreHeat_keeps | with_reducible apply Keeps.foldl | intro _ | dsimp only | split | ((fail_if_no_progress (with_reducible apply keeps_mk)); rotate_left; · (intro x hx; cases x <;> first | exact absurd (within_mem hT rfl) hx | exact rfl | exact ⟨rfl, rfl, rfl, rfl, rfl, rfl⟩)))

theorem execRefreshBandChange_keeps (x0 : ℕ) {s : State} (hT : within [.stk] T = true)
    (h : Keeps T s0 s) : KeepsNext T s0 (execRefreshBandChange x0 s) := by
  unfold execRefreshBandChange
  repeat' (first | exact within_trans rfl hT | with_reducible assumption | with_reducible apply keepsNext_next | with_reducible apply Keeps.foldl | intro _ | dsimp only | split | ((fail_if_no_progress (with_reducible apply keeps_mk)); rotate_left; · (intro x hx; cases x <;> first | exact absurd (within_mem hT rfl) hx | exact rfl | exact ⟨rfl, rfl, rfl, rfl, rfl, rfl⟩)))

theorem execFaultRead_keeps (x0 : Descriptor) {s : State} (hT : within [.ports, .cmds, .bytes, .memCtl, .counts, .out] T = true)
    (h : Keeps T s0 s) : KeepsNext T s0 (execFaultRead x0 s) := by
  unfold execFaultRead
  repeat' (first | with_reducible assumption | with_reducible apply keepsNext_next | exact within_trans rfl hT | with_reducible apply rowCommand_keeps | with_reducible apply beginFaultRead_keeps | with_reducible apply Keeps.foldl | intro _ | dsimp only | split)

theorem execStallTimer_keeps (x0 : ℕ) {s : State} (hT : within [.cairn] T = true)
    (h : Keeps T s0 s) : KeepsNext T s0 (execStallTimer x0 s) := by
  unfold execStallTimer
  repeat' (first | with_reducible assumption | with_reducible apply keepsNext_next | exact within_trans rfl hT | with_reducible apply cairnFire_keeps | with_reducible apply Keeps.foldl | intro _ | dsimp only | split)

theorem execActiveAtReached_keeps (x0 : ℕ) (x1 : Bool) {s : State} (hT : within [.boot, .dev, .faults, .db, .ports, .cmds, .graphs, .counts, .cairn, .chans, .links, .fab, .out, .free] T = true)
    (h : Keeps T s0 s) : KeepsNext T s0 (execActiveAtReached x0 x1 s) := by
  unfold execActiveAtReached
  repeat' (first | with_reducible assumption | with_reducible apply keepsNext_next | exact within_trans rfl hT | with_reducible apply portDirection_keeps | with_reducible apply linkSet_keeps | with_reducible apply joinGroup_keeps | with_reducible apply settleStates_keeps | with_reducible apply Keeps.foldl | intro _ | dsimp only | split)

theorem execScrubRead_keeps (x0 : ℕ) (x1 : BadSymbols) (x2 : ℕ × ℕ × ℕ) {s : State} (hT : within [.boot, .dev, .faults, .db, .ports, .cmds, .graphs, .bytes, .stk, .counts, .cairn, .therm, .out] T = true)
    (h : Keeps T s0 s) : KeepsNext T s0 (execScrubRead x0 x1 x2 s) := by
  unfold execScrubRead
  repeat' (first | with_reducible assumption | with_reducible apply keepsNext_next | exact within_trans rfl hT | with_reducible apply scrubNext_keeps | with_reducible apply scrubMark_keeps | with_reducible apply scrubDecode_keeps | with_reducible apply scrubPromote_keeps | with_reducible apply Keeps.foldl | intro _ | dsimp only | split)

theorem execCountersEnable_keeps (x0 : Descriptor) {s : State} (hT : within [.cmds, .counts] T = true)
    (h : Keeps T s0 s) : KeepsNext T s0 (execCountersEnable x0 s) := by
  unfold execCountersEnable
  repeat' (first | with_reducible assumption | with_reducible apply keepsNext_next | exact within_trans rfl hT | with_reducible apply rowCommand_keeps | with_reducible apply beginCountersEnable_keeps | with_reducible apply Keeps.foldl | intro _ | dsimp only | split)

theorem execIdleAckTimer_keeps (x0 : ℕ) {s : State} (hT : within [.faults, .counts, .links, .out] T = true)
    (h : Keeps T s0 s) : KeepsNext T s0 (execIdleAckTimer x0 s) := by
  unfold execIdleAckTimer
  repeat' (first | with_reducible assumption | with_reducible apply keepsNext_next | exact within_trans rfl hT | with_reducible apply sendIdleAck_keeps | with_reducible apply Keeps.foldl | intro _ | dsimp only | split)

theorem execDbgChallenge_keeps  {s : State} (hT : within [.out] T = true)
    (h : Keeps T s0 s) : KeepsNext T s0 (execDbgChallenge s) := by
  unfold execDbgChallenge
  repeat' (first | with_reducible assumption | with_reducible apply keepsNext_next | exact within_trans rfl hT | with_reducible apply emit_keeps | with_reducible apply Keeps.foldl | intro _ | dsimp only | split)

theorem execDeviceReset_keeps (x0 : Descriptor) {s : State} (hT : within [.boot, .dev, .faults, .mbx, .db, .locks, .ports, .cmds, .graphs, .bytes, .memCtl, .counts, .comp, .cairn, .therm, .las, .chans, .links, .fab, .d2d, .sec, .out, .free] T = true)
    (h : Keeps T s0 s) : KeepsNext T s0 (execDeviceReset x0 s) := by
  unfold execDeviceReset
  repeat' (first | with_reducible assumption | with_reducible apply keepsNext_next | exact within_trans rfl hT | with_reducible apply rowCommand_keeps | with_reducible apply beginReset_keeps | with_reducible apply Keeps.foldl | intro _ | dsimp only | split)

theorem execEngineOpIssue_keeps (x0 : ℕ) (x1 : ℕ) (x2 : Engine) (x3 : EngOp) {s : State} (hT : within [.counts, .comp] T = true)
    (h : Keeps T s0 s) : KeepsNext T s0 (execEngineOpIssue x0 x1 x2 x3 s) := by
  unfold execEngineOpIssue
  repeat' (first | with_reducible assumption | with_reducible apply keepsNext_next | exact within_trans rfl hT | with_reducible apply issueTo_keeps | with_reducible apply countCluster_keeps | with_reducible apply fallBack_keeps | with_reducible apply spendTokens_keeps | with_reducible apply engSet_keeps | with_reducible apply Keeps.foldl | intro _ | dsimp only | split)

theorem execLaneMoveTimeout_keeps (x0 : ℕ) (x1 : ℕ) {s : State} (hT : within [.boot, .dev, .faults, .db, .ports, .cmds, .graphs, .counts, .cairn, .las, .chans, .links, .fab, .out, .free] T = true)
    (h : Keeps T s0 s) : KeepsNext T s0 (execLaneMoveTimeout x0 x1 s) := by
  unfold execLaneMoveTimeout
  repeat' (first | with_reducible assumption | with_reducible apply keepsNext_next | exact within_trans rfl hT | with_reducible apply moveAbandoned_keeps | with_reducible apply linkSet_keeps | with_reducible apply sendBlocks_keeps | with_reducible apply Keeps.foldl | intro _ | dsimp only | split)

theorem execCollContrib_keeps (x0 : Flank) (x1 : ℕ) (x2 : CollMsg) {s : State} (hT : within [.boot, .dev, .faults, .db, .ports, .cmds, .graphs, .bytes, .memCtl, .counts, .comp, .cairn, .links, .fab, .out, .free] T = true)
    (h : Keeps T s0 s) : KeepsNext T s0 (execCollContrib x0 x1 x2 s) := by
  unfold execCollContrib
  repeat' (first | with_reducible assumption | with_reducible apply keepsNext_next | exact within_trans rfl hT | with_reducible apply collContrib_keeps | with_reducible apply Keeps.foldl | intro _ | dsimp only | split)

theorem execEnforcementGrid_keeps (x0 : Domain) {s : State} (hT : within [.counts, .comp, .therm, .out] T = true)
    (h : Keeps T s0 s) : KeepsNext T s0 (execEnforcementGrid x0 s) := by
  unfold execEnforcementGrid
  repeat' (first | with_reducible assumption | with_reducible apply keepsNext_next | exact within_trans rfl hT | with_reducible apply setReq_keeps | with_reducible apply stepDown_keeps | with_reducible apply Keeps.foldl | intro _ | dsimp only | split)

theorem execGuestRead_keeps (x0 : GuestRead) {s : State} (hT : within [.pins, .boot, .dev, .faults, .mbx, .db, .locks, .ports, .cmds, .graphs, .bytes, .memCtl, .stk, .counts, .cairn, .d2d, .guest, .out, .free] T = true)
    (h : Keeps T s0 s) : KeepsNext T s0 (execGuestRead x0 s) := by
  unfold execGuestRead
  repeat' (first | with_reducible assumption | with_reducible apply keepsNext_next | exact within_trans rfl hT | with_reducible apply violation_keeps | with_reducible apply guestTurned_keeps | with_reducible apply guestServeRead_keeps | with_reducible apply Keeps.foldl | intro _ | dsimp only | split)

theorem execE2eCredit_keeps (x0 : ℕ) (x1 : ℕ) (x2 : Bool) (x3 : BitVec 32) {s : State} (hT : within [.boot, .dev, .faults, .db, .ports, .cmds, .graphs, .counts, .comp, .cairn, .links, .fab, .out, .free] T = true)
    (h : Keeps T s0 s) : KeepsNext T s0 (execE2eCredit x0 x1 x2 x3 s) := by
  unfold execE2eCredit
  repeat' (first | with_reducible assumption | with_reducible apply keepsNext_next | exact within_trans rfl hT | with_reducible apply creditArrives_keeps | with_reducible apply Keeps.foldl | intro _ | dsimp only | split)

theorem execCompletionPost_keeps  {s : State} (hT : within [.db, .ports, .cmds, .bytes, .memCtl, .counts, .out] T = true)
    (h : Keeps T s0 s) : KeepsNext T s0 (execCompletionPost s) := by
  unfold execCompletionPost
  repeat' (first | with_reducible assumption | with_reducible apply keepsNext_next | exact within_trans rfl hT | with_reducible apply postEntry_keeps | with_reducible apply Keeps.foldl | intro _ | dsimp only | split)

theorem execFwUpdate_keeps (x0 : Descriptor) {s : State} (hT : within [.boot, .cmds, .free] T = true)
    (h : Keeps T s0 s) : KeepsNext T s0 (execFwUpdate x0 s) := by
  unfold execFwUpdate
  repeat' (first | with_reducible assumption | with_reducible apply keepsNext_next | exact within_trans rfl hT | with_reducible apply rowCommand_keeps | with_reducible apply beginFwUpdate_keeps | with_reducible apply Keeps.foldl | intro _ | dsimp only | split)

theorem execThermalShutdown_keeps  {s : State} (hT : within [.pins, .boot, .dev, .faults, .db, .ports, .cmds, .graphs, .counts, .comp, .banks, .cairn, .therm, .las, .chans, .links, .fab, .out, .free] T = true)
    (h : Keeps T s0 s) : KeepsNext T s0 (execThermalShutdown s) := by
  unfold execThermalShutdown
  repeat' (first | with_reducible assumption | with_reducible apply keepsNext_next | exact within_trans rfl hT | with_reducible apply allDark_keeps | with_reducible apply Keeps.foldl | intro _ | dsimp only | split | ((fail_if_no_progress (with_reducible apply keeps_mk)); rotate_left; · (intro x hx; cases x <;> first | exact absurd (within_mem hT rfl) hx | exact rfl | exact ⟨rfl, rfl, rfl, rfl, rfl, rfl⟩)))

theorem execPortActive_keeps (x0 : Port) {s : State} (hT : within [.boot, .dev, .faults, .db, .ports, .cmds, .graphs, .cairn, .chans, .links, .out, .free] T = true)
    (h : Keeps T s0 s) : KeepsNext T s0 (execPortActive x0 s) := by
  unfold execPortActive
  repeat' (first | with_reducible assumption | with_reducible apply keepsNext_next | exact within_trans rfl hT | with_reducible apply portJoins_keeps | with_reducible apply Keeps.foldl | intro _ | dsimp only | split)

theorem execLaneMove_keeps (x0 : ℕ) (x1 : ℕ) (x2 : ℕ) (x3 : ℕ) (x4 : BitVec 48) {s : State} (hT : within [.chans, .links] T = true)
    (h : Keeps T s0 s) : KeepsNext T s0 (execLaneMove x0 x1 x2 x3 x4 s) := by
  unfold execLaneMove
  repeat' (first | with_reducible assumption | with_reducible apply keepsNext_next | exact within_trans rfl hT | with_reducible apply laneMoves_keeps | with_reducible apply Keeps.foldl | intro _ | dsimp only | split)

theorem execE2eCreditTimer_keeps (x0 : ℕ) (x1 : ℕ) {s : State} (hT : within [.boot, .dev, .faults, .db, .ports, .cmds, .graphs, .counts, .cairn, .links, .fab, .out, .free] T = true)
    (h : Keeps T s0 s) : KeepsNext T s0 (execE2eCreditTimer x0 x1 s) := by
  unfold execE2eCreditTimer
  repeat' (first | with_reducible assumption | with_reducible apply keepsNext_next | exact within_trans rfl hT | with_reducible apply tellCredit_keeps | with_reducible apply Keeps.foldl | intro _ | dsimp only | split)

theorem execRingLockLoss_keeps (x0 : ℕ) (x1 : Bool) {s : State} (hT : within [.boot, .dev, .faults, .db, .ports, .cmds, .graphs, .counts, .cairn, .las, .chans, .links, .fab, .out, .free] T = true)
    (h : Keeps T s0 s) : KeepsNext T s0 (execRingLockLoss x0 x1 s) := by
  unfold execRingLockLoss
  repeat' (first | with_reducible assumption | with_reducible apply keepsNext_next | exact within_trans rfl hT | with_reducible apply judgeUnfit_keeps | with_reducible apply coverChannel_keeps | with_reducible apply setChan_keeps | with_reducible apply Keeps.foldl | intro _ | dsimp only | split)

theorem execSysResp_keeps (x0 : ℕ) (x1 : BitVec 32) (x2 : BitVec 8) {s : State} (hT : within [.boot, .dev, .faults, .db, .ports, .cmds, .graphs, .bytes, .memCtl, .counts, .comp, .cairn, .links, .fab, .out, .free] T = true)
    (h : Keeps T s0 s) : KeepsNext T s0 (execSysResp x0 x1 x2 s) := by
  unfold execSysResp
  repeat' (first | with_reducible assumption | with_reducible apply keepsNext_next | exact within_trans rfl hT | with_reducible apply sysRespArrives_keeps | with_reducible apply Keeps.foldl | intro _ | dsimp only | split)

theorem execDbFwRingHostEpoch_keeps (x0 : Access) {s : State} (hT : within [.db, .out] T = true)
    (h : Keeps T s0 s) : KeepsNext T s0 (execDbFwRingHostEpoch x0 s) := by
  unfold execDbFwRingHostEpoch
  repeat' (first | with_reducible assumption | with_reducible apply keepsNext_next | exact within_trans rfl hT | with_reducible apply fwRingWrite_keeps | with_reducible apply emit_keeps | with_reducible apply Keeps.foldl | with_reducible apply Keeps.foldlSnd | intro _ | dsimp only | split)

theorem execDirectoryRequest_keeps (x0 : ℕ) (x1 : DirReq) {s : State} (hT : within [.bytes, .memCtl, .counts, .out, .free] T = true)
    (h : Keeps T s0 s) : KeepsNext T s0 (execDirectoryRequest x0 x1 s) := by
  unfold execDirectoryRequest
  repeat' (first | with_reducible assumption | with_reducible apply keepsNext_next | exact within_trans rfl hT | with_reducible apply countStack_keeps | with_reducible apply writeLine_keeps | with_reducible apply dirServe_keeps | with_reducible apply cacheSet_keeps | with_reducible apply dirSet_keeps | with_reducible apply dirResume_keeps | with_reducible apply dirWait_keeps | with_reducible apply dirHandle_keeps | with_reducible apply Keeps.foldl | intro _ | dsimp only | split | ((fail_if_no_progress (with_reducible apply keeps_mk)); rotate_left; · (intro x hx; cases x <;> first | exact absurd (within_mem hT rfl) hx | exact rfl | exact ⟨rfl, rfl, rfl, rfl, rfl, rfl⟩)) | ((fail_if_no_progress (with_reducible apply keeps_mkMem)); rotate_left; · (intro x hx; cases x <;> first | exact absurd (within_mem hT rfl) hx | exact rfl | exact ⟨rfl, rfl, rfl, rfl, rfl, rfl⟩)))

theorem execCollResult_keeps (x0 : Flank) (x1 : CollMsg) {s : State} (hT : within [.boot, .dev, .faults, .db, .ports, .cmds, .graphs, .bytes, .memCtl, .counts, .comp, .cairn, .links, .fab, .out, .free] T = true)
    (h : Keeps T s0 s) : KeepsNext T s0 (execCollResult x0 x1 s) := by
  unfold execCollResult
  repeat' (first | with_reducible assumption | with_reducible apply keepsNext_next | exact within_trans rfl hT | with_reducible apply collResult_keeps | with_reducible apply Keeps.foldl | intro _ | dsimp only | split)

theorem execD2dSlotReceive_keeps (x0 : ℕ) (x1 : ℕ) (x2 : D2dSlot) {s : State} (hT : within [.faults, .d2d, .out] T = true)
    (h : Keeps T s0 s) : KeepsNext T s0 (execD2dSlotReceive x0 x1 x2 s) := by
  unfold execD2dSlotReceive
  repeat' (first | with_reducible assumption | with_reducible apply keepsNext_next | exact within_trans rfl hT | with_reducible apply slotTaken_keeps | with_reducible apply ackBegins_keeps | with_reducible apply Keeps.foldl | intro _ | dsimp only | split)

theorem execEmptySlotInsert_keeps (x0 : ℕ) (x1 : ℕ) {s : State} (hT : within [.d2d, .out] T = true)
    (h : Keeps T s0 s) : KeepsNext T s0 (execEmptySlotInsert x0 x1 s) := by
  unfold execEmptySlotInsert
  repeat' (first | with_reducible assumption | with_reducible apply keepsNext_next | exact within_trans rfl hT | with_reducible apply emit_keeps | with_reducible apply putDir_keeps | with_reducible apply Keeps.foldl | intro _ | dsimp only | split)

theorem execPeerWriteReq_keeps (x0 : ℕ) (x1 : BitVec 32) (x2 : BitVec 64) (x3 : List (BitVec 8)) {s : State} (hT : within [.boot, .dev, .faults, .db, .ports, .cmds, .graphs, .bytes, .memCtl, .counts, .cairn, .links, .fab, .out, .free] T = true)
    (h : Keeps T s0 s) : KeepsNext T s0 (execPeerWriteReq x0 x1 x2 x3 s) := by
  unfold execPeerWriteReq
  repeat' (first | with_reducible assumption | with_reducible apply keepsNext_next | exact within_trans rfl hT | with_reducible apply peerWrite_keeps | with_reducible apply Keeps.foldl | intro _ | dsimp only | split)

theorem execLinkLaserSparePoint_keeps (x0 : ℕ) {s : State} (hT : within [.boot, .dev, .faults, .db, .ports, .cmds, .graphs, .counts, .cairn, .las, .chans, .links, .fab, .out, .free] T = true)
    (h : Keeps T s0 s) : KeepsNext T s0 (execLinkLaserSparePoint x0 s) := by
  unfold execLinkLaserSparePoint
  repeat' (first | with_reducible assumption | with_reducible apply keepsNext_next | exact within_trans rfl hT | with_reducible apply linkSparePoint_keeps | with_reducible apply Keeps.foldl | intro _ | dsimp only | split)

theorem execRecvTimeout_keeps (x0 : BitVec 32) (x1 : ℕ) {s : State} (hT : within [.graphs] T = true)
    (h : Keeps T s0 s) : KeepsNext T s0 (execRecvTimeout x0 x1 s) := by
  unfold execRecvTimeout
  repeat' (first | with_reducible assumption | with_reducible apply keepsNext_next | exact within_trans rfl hT | with_reducible apply slotSet_keeps | with_reducible apply Keeps.foldl | intro _ | dsimp only | split)

theorem execHostWindowAccess_keeps (x0 : ℕ) (x1 : Bool) (x2 : ℕ) (x3 : List (BitVec 8)) {s : State} (hT : within [.boot, .dev, .faults, .db, .ports, .cmds, .graphs, .cairn, .out, .free] T = true)
    (h : Keeps T s0 s) : KeepsNext T s0 (execHostWindowAccess x0 x1 x2 x3 s) := by
  unfold execHostWindowAccess
  repeat' (first | with_reducible assumption | with_reducible apply keepsNext_next | exact within_trans rfl hT | with_reducible apply faultDOpen_keeps | with_reducible apply hwinFail_keeps | with_reducible apply hwinSend_keeps | with_reducible apply Keeps.foldl | intro _ | dsimp only | split)

theorem execFabLinkCtrl_keeps (x0 : Descriptor) {s : State} (hT : within [.boot, .dev, .faults, .db, .ports, .cmds, .graphs, .counts, .cairn, .las, .chans, .links, .fab, .out, .free] T = true)
    (h : Keeps T s0 s) : KeepsNext T s0 (execFabLinkCtrl x0 s) := by
  unfold execFabLinkCtrl
  repeat' (first | with_reducible assumption | with_reducible apply keepsNext_next | exact within_trans rfl hT | with_reducible apply rowCommand_keeps | with_reducible apply beginLinkCtrl_keeps | with_reducible apply Keeps.foldl | intro _ | dsimp only | split)

theorem execRecallAnswer_keeps (x0 : ℕ) (x1 : Bool) (x2 : List (BitVec 8)) (x3 : BitVec 8) {s : State} (hT : within [.bytes, .memCtl, .counts, .out, .free] T = true)
    (h : Keeps T s0 s) : KeepsNext T s0 (execRecallAnswer x0 x1 x2 x3 s) := by
  unfold execRecallAnswer
  repeat' (first | with_reducible assumption | with_reducible apply keepsNext_next | exact within_trans rfl hT | with_reducible apply dirResume_keeps | with_reducible apply countStack_keeps | with_reducible apply writeLine_keeps | with_reducible apply dirServe_keeps | with_reducible apply Keeps.foldl | intro _ | dsimp only | split | ((fail_if_no_progress (with_reducible apply keeps_mk)); rotate_left; · (intro x hx; cases x <;> first | exact absurd (within_mem hT rfl) hx | exact rfl | exact ⟨rfl, rfl, rfl, rfl, rfl, rfl⟩)) | ((fail_if_no_progress (with_reducible apply keeps_mkMem)); rotate_left; · (intro x hx; cases x <;> first | exact absurd (within_mem hT rfl) hx | exact rfl | exact ⟨rfl, rfl, rfl, rfl, rfl, rfl⟩)))

theorem execLostMemoryRewrite_keeps  {s : State} (hT : within [.bytes, .memCtl] T = true)
    (h : Keeps T s0 s) : KeepsNext T s0 (execLostMemoryRewrite s) := by
  unfold execLostMemoryRewrite
  extract_lets out s1
  split
  · exact keepsNext_next h
  · have k : Keeps T s0 s1 := sweepLost_keeps (within_trans rfl hT) h
    clear_value s1
    exact keepsNext_next (keeps_mkMem k (by intro x hx; cases x <;> first | exact absurd (within_mem hT rfl) hx | exact rfl | exact ⟨rfl, rfl, rfl, rfl, rfl, rfl⟩))

theorem execCountersRead_keeps (x0 : Descriptor) {s : State} (hT : within [.ports, .cmds, .bytes, .memCtl, .counts, .out] T = true)
    (h : Keeps T s0 s) : KeepsNext T s0 (execCountersRead x0 s) := by
  unfold execCountersRead
  repeat' (first | with_reducible assumption | with_reducible apply keepsNext_next | exact within_trans rfl hT | with_reducible apply rowCommand_keeps | with_reducible apply beginCountersRead_keeps | with_reducible apply Keeps.foldl | intro _ | dsimp only | split)

theorem execDbGuestRing_keeps (x0 : BitVec 64) {s : State} (hT : within [.db] T = true)
    (h : Keeps T s0 s) : KeepsNext T s0 (execDbGuestRing x0 s) := by
  unfold execDbGuestRing
  repeat' (first | with_reducible assumption | with_reducible apply keepsNext_next | exact within_trans rfl hT | with_reducible apply ringFw_keeps | with_reducible apply Keeps.foldl | intro _ | dsimp only | split)

theorem execCairnArm_keeps (x0 : Descriptor) {s : State} (hT : within [.cmds, .cairn] T = true)
    (h : Keeps T s0 s) : KeepsNext T s0 (execCairnArm x0 s) := by
  unfold execCairnArm
  repeat' (first | with_reducible assumption | with_reducible apply keepsNext_next | exact within_trans rfl hT | with_reducible apply rowCommand_keeps | with_reducible apply beginCairnArm_keeps | with_reducible apply Keeps.foldl | intro _ | dsimp only | split)

theorem execCodewordSlot_keeps (x0 : ℕ) {s : State} (hT : within [.boot, .dev, .faults, .db, .ports, .cmds, .graphs, .counts, .cairn, .las, .chans, .links, .fab, .out, .free] T = true)
    (h : Keeps T s0 s) : KeepsNext T s0 (execCodewordSlot x0 s) := by
  unfold execCodewordSlot
  repeat' (first | with_reducible assumption | with_reducible apply keepsNext_next | exact within_trans rfl hT | with_reducible apply portSlot_keeps | with_reducible apply nextSlot_keeps | with_reducible apply testSlot_keeps | with_reducible apply activeSlot_keeps | with_reducible apply trainSlot_keeps | with_reducible apply Keeps.foldl | intro _ | dsimp only | split)

theorem execBand4NomHoldEnd_keeps (x0 : Flank) {s : State} (hT : within [.counts, .comp, .therm, .out] T = true)
    (h : Keeps T s0 s) : KeepsNext T s0 (execBand4NomHoldEnd x0 s) := by
  unfold execBand4NomHoldEnd
  repeat' (first | with_reducible assumption | with_reducible apply keepsNext_next | exact within_trans rfl hT | with_reducible apply applyLimits_keeps | with_reducible apply setFlankPower_keeps | with_reducible apply Keeps.foldl | intro _ | dsimp only | split)

theorem execGapTimerExpiry_keeps  {s : State} (hT : within [.ports, .out] T = true)
    (h : Keeps T s0 s) : KeepsNext T s0 (execGapTimerExpiry s) := by
  unfold execGapTimerExpiry
  repeat' (first | with_reducible assumption | with_reducible apply keepsNext_next | exact within_trans rfl hT | with_reducible apply sendGapEvent_keeps | with_reducible apply portEvent_keeps | with_reducible apply Keeps.foldl | intro _ | dsimp only | split | ((fail_if_no_progress (with_reducible apply keeps_mk)); rotate_left; · (intro x hx; cases x <;> first | exact absurd (within_mem hT rfl) hx | exact rfl | exact ⟨rfl, rfl, rfl, rfl, rfl, rfl⟩)))

theorem execBankWalkVerify_keeps (x0 : ℕ) (x1 : ℕ) (x2 : ℕ) (x3 : Bool) {s : State} (hT : within [.boot, .dev, .faults, .db, .ports, .cmds, .graphs, .counts, .comp, .banks, .cairn, .out] T = true)
    (h : Keeps T s0 s) : KeepsNext T s0 (execBankWalkVerify x0 x1 x2 x3 s) := by
  unfold execBankWalkVerify
  repeat' (first | with_reducible assumption | with_reducible apply keepsNext_next | exact within_trans rfl hT | with_reducible apply walkDone_keeps | with_reducible apply Keeps.foldl | intro _ | dsimp only | split)

theorem execCrnCtrlTake_keeps (x0 : Access) {s : State} (hT : within [.pins, .boot, .dev, .faults, .mbx, .db, .locks, .ports, .cmds, .graphs, .bytes, .memCtl, .stk, .counts, .comp, .banks, .cairn, .therm, .las, .chans, .links, .fab, .d2d, .guest, .out, .free] T = true)
    (h : Keeps T s0 s) : KeepsNext T s0 (execCrnCtrlTake x0 s) := by
  unfold execCrnCtrlTake
  repeat' (first | exact within_trans rfl hT | with_reducible assumption | with_reducible apply namedWrite_keeps | with_reducible apply keepsNext_next | with_reducible apply Keeps.foldl | intro _ | dsimp only | split)

theorem execChannelLock_keeps (x0 : ℕ) (x1 : Bool) {s : State} (hT : within [.chans] T = true)
    (h : Keeps T s0 s) : KeepsNext T s0 (execChannelLock x0 x1 s) := by
  unfold execChannelLock
  repeat' (first | with_reducible assumption | with_reducible apply keepsNext_next | exact within_trans rfl hT | with_reducible apply setChan_keeps | with_reducible apply Keeps.foldl | intro _ | dsimp only | split)

theorem execManagementRead_keeps (x0 : BitVec 40) {s : State} (hT : within [.out] T = true)
    (h : Keeps T s0 s) : KeepsNext T s0 (execManagementRead x0 s) := by
  unfold execManagementRead
  repeat' (first | with_reducible assumption | with_reducible apply keepsNext_next | exact within_trans rfl hT | with_reducible apply emit_keeps | with_reducible apply Keeps.foldl | intro _ | dsimp only | split)

theorem execDeviceWake_keeps (x0 : Descriptor) (x1 : WakeReport) {s : State} (hT : within [.pins, .boot, .dev, .faults, .mbx, .db, .locks, .ports, .cmds, .graphs, .bytes, .memCtl, .counts, .comp, .banks, .cairn, .therm, .las, .chans, .links, .fab, .d2d, .guest, .sec, .out, .free] T = true)
    (h : Keeps T s0 s) : KeepsNext T s0 (execDeviceWake x0 x1 s) := by
  unfold execDeviceWake
  repeat' (first | with_reducible assumption | with_reducible apply keepsNext_next | exact within_trans rfl hT | with_reducible apply rowCommand_keeps | with_reducible apply wakeNow_keeps | with_reducible apply Keeps.foldl | intro _ | dsimp only | split)

theorem execCairnTrigger_keeps (x0 : ℕ) (x1 : BitVec 32) {s : State} (hT : within [.cairn] T = true)
    (h : Keeps T s0 s) : KeepsNext T s0 (execCairnTrigger x0 x1 s) := by
  unfold execCairnTrigger
  repeat' (first | with_reducible assumption | with_reducible apply keepsNext_next | exact within_trans rfl hT | with_reducible apply cairnFire_keeps | with_reducible apply Keeps.foldl | intro _ | dsimp only | split)

theorem execAbort_keeps (x0 : Descriptor) {s : State} (hT : within [.cmds, .graphs, .comp] T = true)
    (h : Keeps T s0 s) : KeepsNext T s0 (execAbort x0 s) := by
  unfold execAbort
  repeat' (first | with_reducible assumption | with_reducible apply keepsNext_next | exact within_trans rfl hT | with_reducible apply rowCommand_keeps | with_reducible apply beginAbort_keeps | with_reducible apply Keeps.foldl | intro _ | dsimp only | split)

theorem execWake_keeps (x0 : ℕ) (x1 : Bool) (x2 : BitVec 48) {s : State} (hT : within [.links] T = true)
    (h : Keeps T s0 s) : KeepsNext T s0 (execWake x0 x1 x2 s) := by
  unfold execWake
  repeat' (first | with_reducible assumption | with_reducible apply keepsNext_next | exact within_trans rfl hT | with_reducible apply linkSet_keeps | with_reducible apply Keeps.foldl | intro _ | dsimp only | split)

theorem execMailboxWrite_keeps (x0 : MbxAccess) (x1 : MbxChan) (x2 : BitVec 64) {s : State} (hT : within [.boot, .dev, .faults, .mbx, .db, .ports, .cmds, .graphs, .cairn, .d2d, .out] T = true)
    (h : Keeps T s0 s) : KeepsNext T s0 (execMailboxWrite x0 x1 x2 s) := by
  unfold execMailboxWrite
  repeat' (first | with_reducible assumption | with_reducible apply keepsNext_next | exact within_trans rfl hT | with_reducible apply mbxRefuse_keeps | with_reducible apply fwPost_keeps | with_reducible apply partyPost_keeps | with_reducible apply emit_keeps | with_reducible apply Keeps.foldl | with_reducible apply Keeps.foldlSnd | intro _ | dsimp only | split)

theorem execDescriptorTake_keeps (x0 : Queue) {s : State} (hT : within [.cmds] T = true)
    (h : Keeps T s0 s) : KeepsNext T s0 (execDescriptorTake x0 s) := by
  unfold execDescriptorTake
  repeat' (first | with_reducible assumption | with_reducible apply keepsNext_next | exact within_trans rfl hT | with_reducible apply takeDescriptor_keeps | with_reducible apply Keeps.foldl | intro _ | dsimp only | split)

theorem execLaneMoveAck_keeps (x0 : ℕ) (x1 : ℕ) (x2 : BitVec 48) {s : State} (hT : within [.las, .chans, .links] T = true)
    (h : Keeps T s0 s) : KeepsNext T s0 (execLaneMoveAck x0 x1 x2 s) := by
  unfold execLaneMoveAck
  repeat' (first | with_reducible assumption | with_reducible apply keepsNext_next | exact within_trans rfl hT | with_reducible apply moveAcked_keeps | with_reducible apply Keeps.foldl | intro _ | dsimp only | split)

theorem execTemp_keeps (x0 : ℤ) (x1 : ℕ) {s : State} (hT : within [.pins, .boot, .dev, .faults, .mbx, .db, .locks, .ports, .cmds, .graphs, .cairn, .d2d, .guest, .out, .free] T = true)
    (h : Keeps T s0 s) : KeepsNext T s0 (execTemp x0 x1 s) := by
  unfold execTemp
  repeat' (first | with_reducible assumption | with_reducible apply keepsNext_next | exact within_trans rfl hT | with_reducible apply guestTemp_keeps | with_reducible apply Keeps.foldl | intro _ | dsimp only | split)

theorem execMailboxDrain_keeps (x0 : MbxDrain) (x1 : MbxChan) {s : State} (hT : within [.boot, .dev, .faults, .mbx, .db, .ports, .cmds, .graphs, .cairn, .out] T = true)
    (h : Keeps T s0 s) : KeepsNext T s0 (execMailboxDrain x0 x1 s) := by
  unfold execMailboxDrain
  repeat' (first | with_reducible assumption | with_reducible apply keepsNext_next | exact within_trans rfl hT | with_reducible apply mbxRefuse_keeps | with_reducible apply fwStatusWrite_keeps | with_reducible apply partyStatusWrite_keeps | with_reducible apply Keeps.foldl | intro _ | dsimp only | split)

theorem execCombHandoverPause_keeps (x0 : ℕ) (x1 : ℕ) (x2 : List (ℕ × ℕ)) {s : State} (hT : within [.dev, .db, .ports, .cmds, .banks, .las, .out] T = true)
    (h : Keeps T s0 s) : KeepsNext T s0 (execCombHandoverPause x0 x1 x2 s) := by
  unfold execCombHandoverPause
  repeat' (first | with_reducible assumption | with_reducible apply keepsNext_next | exact within_trans rfl hT | with_reducible apply pauseOver_keeps | with_reducible apply refreshDegraded_keeps | with_reducible apply spareIn_keeps | with_reducible apply Keeps.foldl | intro _ | dsimp only | split)

theorem execClusterSelfTest_keeps (x0 : List (ℕ × Option ℕ)) {s : State} (hT : within [.boot, .dev, .faults, .db, .ports, .cmds, .graphs, .counts, .comp, .cairn, .las, .chans, .links, .fab, .out, .free] T = true)
    (h : Keeps T s0 s) : KeepsNext T s0 (execClusterSelfTest x0 s) := by
  unfold execClusterSelfTest
  repeat' (first | with_reducible assumption | with_reducible apply keepsNext_next | exact within_trans rfl hT | with_reducible apply selfTest_keeps | with_reducible apply finish_keeps | with_reducible apply setDev_keeps | with_reducible apply trainFabric_keeps | with_reducible apply toStep_keeps | with_reducible apply Keeps.foldl | intro _ | dsimp only | split | ((fail_if_no_progress (with_reducible apply keeps_mk)); rotate_left; · (intro x hx; cases x <;> first | exact absurd (within_mem hT rfl) hx | exact rfl | exact ⟨rfl, rfl, rfl, rfl, rfl, rfl⟩)))

theorem execStart_keeps (x0 : Descriptor) {s : State} (hT : within [.boot, .dev, .faults, .db, .ports, .cmds, .graphs, .counts, .comp, .cairn, .links, .fab, .out, .free] T = true)
    (h : Keeps T s0 s) : KeepsNext T s0 (execStart x0 s) := by
  unfold execStart
  repeat' (first | with_reducible assumption | with_reducible apply keepsNext_next | exact within_trans rfl hT | with_reducible apply rowCommand_keeps | with_reducible apply beginStart_keeps | with_reducible apply Keeps.foldl | intro _ | dsimp only | split)

theorem execVerifyBundle_keeps (x0 : Descriptor) {s : State} (hT : within [.ports, .cmds, .bytes, .memCtl, .counts, .out, .free] T = true)
    (h : Keeps T s0 s) : KeepsNext T s0 (execVerifyBundle x0 s) := by
  unfold execVerifyBundle
  repeat' (first | with_reducible assumption | with_reducible apply keepsNext_next | exact within_trans rfl hT | with_reducible apply rowCommand_keeps | with_reducible apply beginVerify_keeps | with_reducible apply Keeps.foldl | intro _ | dsimp only | split)

theorem execPreHeatTimeout_keeps  {s : State} (hT : within [.boot, .dev, .faults, .db, .ports, .cmds, .graphs, .counts, .comp, .banks, .cairn, .therm, .out, .free] T = true)
    (h : Keeps T s0 s) : KeepsNext T s0 (execPreHeatTimeout s) := by
  unfold execPreHeatTimeout
  repeat' (first | with_reducible assumption | with_reducible apply keepsNext_next | exact within_trans rfl hT | with_reducible apply chipletTooCold_keeps | with_reducible apply refreshDegraded_keeps | with_reducible apply Keeps.foldl | intro _ | dsimp only | split | ((fail_if_no_progress (with_reducible apply keeps_mk)); rotate_left; · (intro x hx; cases x <;> first | exact absurd (within_mem hT rfl) hx | exact rfl | exact ⟨rfl, rfl, rfl, rfl, rfl, rfl⟩)))

theorem execBankWalkStep_keeps (x0 : ℕ) (x1 : ℕ) (x2 : ℕ) {s : State} (hT : within [.boot, .dev, .faults, .db, .ports, .cmds, .graphs, .counts, .comp, .banks, .cairn, .out] T = true)
    (h : Keeps T s0 s) : KeepsNext T s0 (execBankWalkStep x0 x1 x2 s) := by
  unfold execBankWalkStep
  repeat' (first | with_reducible assumption | with_reducible apply keepsNext_next | exact within_trans rfl hT | with_reducible apply walkDone_keeps | with_reducible apply Keeps.foldl | intro _ | dsimp only | split)

theorem execRingLock_keeps (x0 : List RingCheck) {s : State} (hT : within [.pins, .boot, .dev, .faults, .mbx, .db, .locks, .ports, .cmds, .graphs, .bytes, .memCtl, .counts, .comp, .banks, .cairn, .therm, .las, .chans, .links, .fab, .d2d, .guest, .sec, .out, .free] T = true)
    (h : Keeps T s0 s) : KeepsNext T s0 (execRingLock x0 s) := by
  unfold execRingLock
  repeat' (first | with_reducible assumption | with_reducible apply keepsNext_next | exact within_trans rfl hT | with_reducible apply wakeRings_keeps | with_reducible apply recheck_keeps | with_reducible apply suspectRecord_keeps | with_reducible apply refreshDegraded_keeps | with_reducible apply toStep_keeps | with_reducible apply ringFailed_keeps | with_reducible apply Keeps.foldl | intro _ | dsimp only | split | ((fail_if_no_progress (with_reducible apply keeps_mk)); rotate_left; · (intro x hx; cases x <;> first | exact absurd (within_mem hT rfl) hx | exact rfl | exact ⟨rfl, rfl, rfl, rfl, rfl, rfl⟩)))

theorem execBankCheckUrgent_keeps (x0 : ℕ) (x1 : ℕ) {s : State} (hT : within [.counts, .comp, .banks, .therm] T = true)
    (h : Keeps T s0 s) : KeepsNext T s0 (execBankCheckUrgent x0 x1 s) := by
  unfold execBankCheckUrgent
  repeat' (first | with_reducible assumption | with_reducible apply keepsNext_next | exact within_trans rfl hT | with_reducible apply promote_keeps | with_reducible apply countCluster_keeps | with_reducible apply bankSet_keeps | with_reducible apply wakeCluster_keeps | with_reducible apply Keeps.foldl | intro _ | dsimp only | split)

theorem execFwStaged_keeps  {s : State} (hT : within [.boot, .dev, .faults, .db, .ports, .cmds, .graphs, .cairn, .out, .free] T = true)
    (h : Keeps T s0 s) : KeepsNext T s0 (execFwStaged s) := by
  unfold execFwStaged
  repeat' (first | with_reducible assumption | with_reducible apply keepsNext_next | exact within_trans rfl hT | with_reducible apply useFree_keeps | with_reducible apply finish_keeps | with_reducible apply securityEvent_keeps | with_reducible apply Keeps.foldl | with_reducible apply Keeps.foldlSnd | intro _ | dsimp only | split | ((fail_if_no_progress (with_reducible apply keeps_mk)); rotate_left; · (intro x hx; cases x <;> first | exact absurd (within_mem hT rfl) hx | exact rfl | exact ⟨rfl, rfl, rfl, rfl, rfl, rfl⟩)))

theorem execFlankSoftReset_keeps (x0 : Flank) {s : State} (hT : within [.pins, .boot, .dev, .faults, .mbx, .db, .locks, .ports, .cmds, .graphs, .bytes, .memCtl, .counts, .comp, .banks, .cairn, .las, .chans, .links, .fab, .d2d, .guest, .out, .free] T = true)
    (h : Keeps T s0 s) : KeepsNext T s0 (execFlankSoftReset x0 s) := by
  unfold execFlankSoftReset
  repeat' (first | with_reducible assumption | with_reducible apply keepsNext_next | exact within_trans rfl hT | with_reducible apply flankBack_keeps | with_reducible apply softBegin_keeps | with_reducible apply Keeps.foldl | intro _ | dsimp only | split)

theorem execBankOverheat_keeps (x0 : ℕ) (x1 : ℕ) {s : State} (hT : within [.boot, .dev, .faults, .db, .ports, .cmds, .graphs, .counts, .comp, .banks, .cairn, .out] T = true)
    (h : Keeps T s0 s) : KeepsNext T s0 (execBankOverheat x0 x1 s) := by
  unfold execBankOverheat
  repeat' (first | with_reducible assumption | with_reducible apply keepsNext_next | exact within_trans rfl hT | with_reducible apply failBank_keeps | with_reducible apply bankSet_keeps | with_reducible apply Keeps.foldl | intro _ | dsimp only | split)

theorem execRegWrite_keeps (x0 : Port) (x1 : Frame) {s : State} (hT : within [.pins, .boot, .dev, .faults, .mbx, .db, .locks, .ports, .cmds, .graphs, .bytes, .memCtl, .stk, .counts, .comp, .banks, .cairn, .therm, .las, .chans, .links, .fab, .d2d, .guest, .out, .free] T = true)
    (h : Keeps T s0 s) : KeepsNext T s0 (execRegWrite x0 x1 s) := by
  unfold execRegWrite
  repeat' (first | with_reducible assumption | with_reducible apply otherType_keeps | with_reducible apply keepsNext_next | exact within_trans rfl hT | with_reducible apply answer_keeps | with_reducible apply hostRegWrite_keeps | with_reducible apply Keeps.foldl | with_reducible apply Keeps.foldlSnd | intro _ | dsimp only | split)

theorem execRecallRequest_keeps (x0 : ℕ) (x1 : Bool) {s : State} (hT : within [.memCtl, .out] T = true)
    (h : Keeps T s0 s) : KeepsNext T s0 (execRecallRequest x0 x1 s) := by
  unfold execRecallRequest
  repeat' (first | with_reducible assumption | with_reducible apply keepsNext_next | exact within_trans rfl hT | with_reducible apply cacheSet_keeps | with_reducible apply emit_keeps | with_reducible apply sendLine_keeps | with_reducible apply Keeps.foldl | intro _ | dsimp only | split)

theorem execTestStart_keeps (x0 : ℕ) (x1 : ℕ) {s : State} (hT : within [.chans] T = true)
    (h : Keeps T s0 s) : KeepsNext T s0 (execTestStart x0 x1 s) := by
  unfold execTestStart
  repeat' (first | with_reducible assumption | with_reducible apply keepsNext_next | exact within_trans rfl hT | with_reducible apply testStarts_keeps | with_reducible apply Keeps.foldl | intro _ | dsimp only | split)

theorem execCreditFrameTimer_keeps  {s : State} (hT : within [.ports, .out] T = true)
    (h : Keeps T s0 s) : KeepsNext T s0 (execCreditFrameTimer s) := by
  unfold execCreditFrameTimer
  repeat' (first | with_reducible assumption | with_reducible apply keepsNext_next | exact within_trans rfl hT | with_reducible apply sendCredit_keeps | with_reducible apply Keeps.foldl | intro _ | dsimp only | split)

theorem execExecutionBegin_keeps (x0 : BitVec 32) {s : State} (hT : within [.boot, .dev, .faults, .db, .ports, .cmds, .graphs, .bytes, .memCtl, .counts, .comp, .cairn, .links, .fab, .out, .free] T = true)
    (h : Keeps T s0 s) : KeepsNext T s0 (execExecutionBegin x0 s) := by
  unfold execExecutionBegin
  repeat' (first | with_reducible assumption | with_reducible apply keepsNext_next | exact within_trans rfl hT | with_reducible apply slotSet_keeps | with_reducible apply matchRecv_keeps | with_reducible apply deriveDev_keeps | with_reducible apply programTables_keeps | with_reducible apply autoReset_keeps | with_reducible apply Keeps.foldl | intro _ | dsimp only | split)

theorem execResync_keeps (x0 : Port) (x1 : Frame) {s : State} (hT : within [.boot, .dev, .faults, .db, .ports, .cmds, .graphs, .cairn, .out] T = true)
    (h : Keeps T s0 s) : KeepsNext T s0 (execResync x0 x1 s) := by
  unfold execResync
  repeat' (first | with_reducible assumption | with_reducible apply keepsNext_next | exact within_trans rfl hT | with_reducible apply hostFrame_keeps | with_reducible apply Keeps.foldl | intro _ | dsimp only | split)

theorem execFabricTraining_keeps  {s : State} (hT : within [.boot, .dev, .faults, .db, .ports, .cmds, .graphs, .counts, .comp, .cairn, .therm, .las, .sec, .out] T = true)
    (h : Keeps T s0 s) : KeepsNext T s0 (execFabricTraining s) := by
  unfold execFabricTraining
  repeat' (first | with_reducible assumption | with_reducible apply keepsNext_next | exact within_trans rfl hT | with_reducible apply toStep_keeps | with_reducible apply refreshDegraded_keeps | with_reducible apply standDown_keeps | with_reducible apply applyBoth_keeps | with_reducible apply watchLeaves_keeps | with_reducible apply setDev_keeps | with_reducible apply Keeps.foldl | intro _ | dsimp only | split | ((fail_if_no_progress (with_reducible apply keeps_mk)); rotate_left; · (intro x hx; cases x <;> first | exact absurd (within_mem hT rfl) hx | exact rfl | exact ⟨rfl, rfl, rfl, rfl, rfl, rfl⟩)) | ((fail_if_no_progress (with_reducible apply keeps_mkSec)); rotate_left; · (intro x hx; cases x <;> first | exact absurd (within_mem hT rfl) hx | exact rfl | exact ⟨rfl, rfl, rfl, rfl, rfl, rfl⟩)))

theorem execRemoteSyncIncrement_keeps (x0 : ℕ) {s : State} (hT : within [.comp] T = true)
    (h : Keeps T s0 s) : KeepsNext T s0 (execRemoteSyncIncrement x0 s) := by
  unfold execRemoteSyncIncrement
  repeat' (first | with_reducible assumption | with_reducible apply keepsNext_next | exact within_trans rfl hT | with_reducible apply bumpClusterSync_keeps | with_reducible apply clusterSet_keeps | with_reducible apply Keeps.foldl | intro _ | dsimp only | split)

theorem execVerweustLinksStep_keeps (x0 : StrapInput) {s : State} (hT : within [.pins, .boot, .dev, .faults, .mbx, .db, .locks, .ports, .cmds, .graphs, .bytes, .memCtl, .counts, .comp, .cairn, .las, .chans, .links, .fab, .d2d, .guest, .out, .free] T = true)
    (h : Keeps T s0 s) : KeepsNext T s0 (execVerweustLinksStep x0 s) := by
  unfold execVerweustLinksStep
  repeat' (first | with_reducible assumption | with_reducible apply keepsNext_next | exact within_trans rfl hT | with_reducible apply bringUpStops_keeps | with_reducible apply idsSeen_keeps | with_reducible apply guestOn_keeps | with_reducible apply weighAll_keeps | with_reducible apply moduleUp_keeps | with_reducible apply fenceFlank_keeps | with_reducible apply refreshDegraded_keeps | with_reducible apply toStep_keeps | with_reducible apply Keeps.foldl | intro _ | dsimp only | split)

theorem execFaultEvent_keeps (x0 : FaultInput) {s : State} (hT : within [.pins, .boot, .dev, .faults, .mbx, .db, .locks, .ports, .cmds, .graphs, .bytes, .memCtl, .stk, .counts, .comp, .banks, .cairn, .las, .chans, .links, .fab, .d2d, .guest, .out, .free] T = true)
    (h : Keeps T s0 s) : KeepsNext T s0 (execFaultEvent x0 s) := by
  unfold execFaultEvent
  repeat' (first | with_reducible assumption | with_reducible apply keepsNext_next | exact within_trans rfl hT | with_reducible apply wordError_keeps | with_reducible apply sourceEvent_keeps | with_reducible apply Keeps.foldl | intro _ | dsimp only | split)

theorem execExecutionEnd_keeps (x0 : BitVec 32) {s : State} (hT : within [.boot, .dev, .faults, .db, .ports, .cmds, .graphs, .bytes, .memCtl, .counts, .comp, .cairn, .links, .fab, .out, .free] T = true)
    (h : Keeps T s0 s) : KeepsNext T s0 (execExecutionEnd x0 s) := by
  unfold execExecutionEnd
  repeat' (first | with_reducible assumption | with_reducible apply keepsNext_next | exact within_trans rfl hT | with_reducible apply fwReadDone_keeps | with_reducible apply endExecution_keeps | with_reducible apply dropReceived_keeps | with_reducible apply Keeps.foldl | intro _ | dsimp only | split)

theorem execFabricRequestTimeout_keeps (x0 : BitVec 32) {s : State} (hT : within [.boot, .dev, .faults, .db, .ports, .cmds, .graphs, .bytes, .memCtl, .counts, .comp, .cairn, .links, .fab, .out, .free] T = true)
    (h : Keeps T s0 s) : KeepsNext T s0 (execFabricRequestTimeout x0 s) := by
  unfold execFabricRequestTimeout
  repeat' (first | with_reducible assumption | with_reducible apply keepsNext_next | exact within_trans rfl hT | with_reducible apply requestOver_keeps | with_reducible apply fabricRetry_keeps | with_reducible apply askSet_keeps | with_reducible apply Keeps.foldl | intro _ | dsimp only | split)

theorem execChipletWalkTimeout_keeps (x0 : ℕ) {s : State} (hT : within [.boot, .dev, .faults, .db, .ports, .cmds, .graphs, .cairn, .chans, .out, .free] T = true)
    (h : Keeps T s0 s) : KeepsNext T s0 (execChipletWalkTimeout x0 s) := by
  unfold execChipletWalkTimeout
  repeat' (first | with_reducible assumption | with_reducible apply keepsNext_next | exact within_trans rfl hT | with_reducible apply chipWalkDone_keeps | with_reducible apply Keeps.foldl | intro _ | dsimp only | split)

theorem execTimebaseUpdate_keeps (x0 : ℕ) {s : State} (hT : within [.clock] T = true)
    (h : Keeps T s0 s) : KeepsNext T s0 (execTimebaseUpdate x0 s) := by
  unfold execTimebaseUpdate
  repeat' (first | with_reducible assumption | with_reducible apply keepsNext_next | exact within_trans rfl hT | with_reducible apply passTime_keeps | with_reducible apply Keeps.foldl | intro _ | dsimp only | split | ((fail_if_no_progress (with_reducible apply keeps_mk)); rotate_left; · (intro x hx; cases x <;> first | exact absurd (within_mem hT rfl) hx | exact rfl | exact ⟨rfl, rfl, rfl, rfl, rfl, rfl⟩)))

theorem execWidthSwitch_keeps (x0 : ℕ) {s : State} (hT : within [.dev, .faults, .db, .ports, .cmds, .counts, .las, .chans, .links, .fab, .out] T = true)
    (h : Keeps T s0 s) : KeepsNext T s0 (execWidthSwitch x0 s) := by
  unfold execWidthSwitch
  repeat' (first | with_reducible assumption | with_reducible apply keepsNext_next | exact within_trans rfl hT | with_reducible apply switchWidth_keeps | with_reducible apply Keeps.foldl | intro _ | dsimp only | split)

theorem execDeviceInfo_keeps (x0 : Descriptor) {s : State} (hT : within [.ports, .cmds, .bytes, .memCtl, .counts, .out] T = true)
    (h : Keeps T s0 s) : KeepsNext T s0 (execDeviceInfo x0 s) := by
  unfold execDeviceInfo
  repeat' (first | with_reducible assumption | with_reducible apply keepsNext_next | exact within_trans rfl hT | with_reducible apply rowCommand_keeps | with_reducible apply beginDeviceInfo_keeps | with_reducible apply Keeps.foldl | intro _ | dsimp only | split)

theorem execBankPitchCheckEnd_keeps (x0 : ℕ) (x1 : ℕ) (x2 : BankCheck) {s : State} (hT : within [.boot, .dev, .faults, .db, .ports, .cmds, .graphs, .counts, .comp, .banks, .cairn, .out, .free] T = true)
    (h : Keeps T s0 s) : KeepsNext T s0 (execBankPitchCheckEnd x0 x1 x2 s) := by
  unfold execBankPitchCheckEnd
  repeat' (first | with_reducible assumption | with_reducible apply keepsNext_next | exact within_trans rfl hT | with_reducible apply failBank_keeps | with_reducible apply startWalks_keeps | with_reducible apply checkPass_keeps | with_reducible apply stopGate_keeps | with_reducible apply Keeps.foldl | intro _ | dsimp only | split)

theorem execLaserBandChange_keeps (x0 : ℕ) {s : State} (hT : within [.boot, .dev, .faults, .db, .ports, .cmds, .graphs, .counts, .comp, .banks, .cairn, .las, .chans, .links, .fab, .out, .free] T = true)
    (h : Keeps T s0 s) : KeepsNext T s0 (execLaserBandChange x0 s) := by
  unfold execLaserBandChange
  repeat' (first | with_reducible assumption | with_reducible apply keepsNext_next | exact within_trans rfl hT | with_reducible apply laserSet_keeps | with_reducible apply judgeLaser_keeps | with_reducible apply Keeps.foldl | intro _ | dsimp only | split | ((fail_if_no_progress (with_reducible apply keeps_mk)); rotate_left; · (intro x hx; cases x <;> first | exact absurd (within_mem hT rfl) hx | exact rfl | exact ⟨rfl, rfl, rfl, rfl, rfl, rfl⟩)))

theorem execGuestTempTimeout_keeps  {s : State} (hT : within [.pins, .boot, .dev, .faults, .mbx, .db, .locks, .ports, .cmds, .graphs, .cairn, .d2d, .guest, .out, .free] T = true)
    (h : Keeps T s0 s) : KeepsNext T s0 (execGuestTempTimeout s) := by
  unfold execGuestTempTimeout
  repeat' (first | with_reducible assumption | with_reducible apply keepsNext_next | exact within_trans rfl hT | with_reducible apply fenceGuest_keeps | with_reducible apply Keeps.foldl | intro _ | dsimp only | split)

theorem execFenceNow_keeps (x0 : Access) {s : State} (hT : within [.pins, .boot, .dev, .faults, .mbx, .db, .locks, .ports, .cmds, .graphs, .bytes, .memCtl, .stk, .counts, .comp, .banks, .cairn, .therm, .las, .chans, .links, .fab, .d2d, .guest, .out, .free] T = true)
    (h : Keeps T s0 s) : KeepsNext T s0 (execFenceNow x0 s) := by
  unfold execFenceNow
  repeat' (first | exact within_trans rfl hT | with_reducible assumption | with_reducible apply namedWrite_keeps | with_reducible apply keepsNext_next | with_reducible apply Keeps.foldl | intro _ | dsimp only | split)

theorem execDeviceWatchdog_keeps (x0 : Descriptor) {s : State} (hT : within [.cmds] T = true)
    (h : Keeps T s0 s) : KeepsNext T s0 (execDeviceWatchdog x0 s) := by
  unfold execDeviceWatchdog
  repeat' (first | with_reducible assumption | with_reducible apply keepsNext_next | exact within_trans rfl hT | with_reducible apply rowCommand_keeps | with_reducible apply beginWatchdog_keeps | with_reducible apply Keeps.foldl | intro _ | dsimp only | split)

theorem execSendData_keeps (x0 : ℕ) (x1 : BitVec 32) (x2 : ℕ) (x3 : List (BitVec 8)) (x4 : Bool) {s : State} (hT : within [.boot, .dev, .faults, .db, .ports, .cmds, .graphs, .bytes, .memCtl, .counts, .comp, .cairn, .links, .fab, .out, .free] T = true)
    (h : Keeps T s0 s) : KeepsNext T s0 (execSendData x0 x1 x2 x3 x4 s) := by
  unfold execSendData
  repeat' (first | with_reducible assumption | with_reducible apply keepsNext_next | exact within_trans rfl hT | with_reducible apply takeSend_keeps | with_reducible apply Keeps.foldl | intro _ | dsimp only | split)

theorem execFabricResponse_keeps (x0 : BitVec 32) (x1 : BitVec 8) (x2 : List (BitVec 8)) (x3 : Bool) {s : State} (hT : within [.boot, .dev, .faults, .db, .ports, .cmds, .graphs, .bytes, .memCtl, .counts, .comp, .cairn, .links, .fab, .out, .free] T = true)
    (h : Keeps T s0 s) : KeepsNext T s0 (execFabricResponse x0 x1 x2 x3 s) := by
  unfold execFabricResponse
  repeat' (first | with_reducible assumption | with_reducible apply keepsNext_next | exact within_trans rfl hT | with_reducible apply responseArrives_keeps | with_reducible apply Keeps.foldl | intro _ | dsimp only | split)

theorem execCloseAck_keeps (x0 : ℕ) (x1 : ℕ) (x2 : BitVec 32) {s : State} (hT : within [.fab] T = true)
    (h : Keeps T s0 s) : KeepsNext T s0 (execCloseAck x0 x1 x2 s) := by
  unfold execCloseAck
  repeat' (first | with_reducible assumption | with_reducible apply keepsNext_next | exact within_trans rfl hT | with_reducible apply closeAcked_keeps | with_reducible apply Keeps.foldl | intro _ | dsimp only | split)

theorem execChipletWalkStep_keeps (x0 : ℕ) {s : State} (hT : within [.boot, .dev, .faults, .db, .ports, .cmds, .graphs, .cairn, .chans, .out, .free] T = true)
    (h : Keeps T s0 s) : KeepsNext T s0 (execChipletWalkStep x0 s) := by
  unfold execChipletWalkStep
  repeat' (first | with_reducible assumption | with_reducible apply keepsNext_next | exact within_trans rfl hT | with_reducible apply chipWalkDone_keeps | with_reducible apply Keeps.foldl | intro _ | dsimp only | split)

theorem execTimeHoldover_keeps  {s : State} (hT : within [.clock] T = true)
    (h : Keeps T s0 s) : KeepsNext T s0 (execTimeHoldover s) := by
  unfold execTimeHoldover
  repeat' (first | exact within_trans rfl hT | with_reducible assumption | with_reducible apply keepsNext_next | with_reducible apply Keeps.foldl | intro _ | dsimp only | split | ((fail_if_no_progress (with_reducible apply keeps_mk)); rotate_left; · (intro x hx; cases x <;> first | exact absurd (within_mem hT rfl) hx | exact rfl | exact ⟨rfl, rfl, rfl, rfl, rfl, rfl⟩)))

theorem execCombChipletFailure_keeps (x0 : ℕ) {s : State} (hT : within [.boot, .dev, .faults, .db, .ports, .cmds, .graphs, .counts, .comp, .banks, .cairn, .las, .out, .free] T = true)
    (h : Keeps T s0 s) : KeepsNext T s0 (execCombChipletFailure x0 s) := by
  unfold execCombChipletFailure
  repeat' (first | with_reducible assumption | with_reducible apply keepsNext_next | exact within_trans rfl hT | with_reducible apply combChipFail_keeps | with_reducible apply Keeps.foldl | intro _ | dsimp only | split)

theorem execWorkItemPlace_keeps (x0 : ℕ) (x1 : WorkItem) {s : State} (hT : within [.graphs, .comp] T = true)
    (h : Keeps T s0 s) : KeepsNext T s0 (execWorkItemPlace x0 x1 s) := by
  unfold execWorkItemPlace
  repeat' (first | with_reducible assumption | with_reducible apply keepsNext_next | exact within_trans rfl hT | with_reducible apply clusterSet_keeps | with_reducible apply slotSet_keeps | with_reducible apply Keeps.foldl | intro _ | dsimp only | split)

theorem execAbortComplete_keeps (x0 : BitVec 32) {s : State} (hT : within [.dev, .db, .ports, .cmds, .graphs, .comp, .out] T = true)
    (h : Keeps T s0 s) : KeepsNext T s0 (execAbortComplete x0 s) := by
  unfold execAbortComplete
  repeat' (first | with_reducible assumption | with_reducible apply keepsNext_next | exact within_trans rfl hT | with_reducible apply abortDone_keeps | with_reducible apply dropItems_keeps | with_reducible apply Keeps.foldl | intro _ | dsimp only | split)

theorem execLaserWarmUp_keeps (x0 : List LaserCheck) {s : State} (hT : within [.pins, .boot, .dev, .faults, .mbx, .db, .locks, .ports, .cmds, .graphs, .bytes, .memCtl, .counts, .comp, .banks, .cairn, .therm, .las, .chans, .links, .fab, .d2d, .guest, .sec, .out, .free] T = true)
    (h : Keeps T s0 s) : KeepsNext T s0 (execLaserWarmUp x0 s) := by
  unfold execLaserWarmUp
  repeat' (first | with_reducible assumption | with_reducible apply keepsNext_next | exact within_trans rfl hT | with_reducible apply wakeLasers_keeps | with_reducible apply lightPort_keeps | with_reducible apply selectLinkLasers_keeps | with_reducible apply lightComb_keeps | with_reducible apply selectCombLasers_keeps | with_reducible apply recheck_keeps | with_reducible apply refreshDegraded_keeps | with_reducible apply toStep_keeps | with_reducible apply judgeWarm_keeps | with_reducible apply Keeps.foldl | intro _ | dsimp only | split | ((fail_if_no_progress (with_reducible apply keeps_mk)); rotate_left; · (intro x hx; cases x <;> first | exact absurd (within_mem hT rfl) hx | exact rfl | exact ⟨rfl, rfl, rfl, rfl, rfl, rfl⟩)))

theorem execLightArrival_keeps (x0 : LightTarget) {s : State} (hT : within [.ports, .links] T = true)
    (h : Keeps T s0 s) : KeepsNext T s0 (execLightArrival x0 s) := by
  unfold execLightArrival
  repeat' (first | with_reducible assumption | with_reducible apply keepsNext_next | exact within_trans rfl hT | with_reducible apply linkSet_keeps | with_reducible apply portTrains_keeps | with_reducible apply Keeps.foldl | intro _ | dsimp only | split)

theorem execWidthReq_keeps (x0 : ℕ) (x1 : WidthMsg) {s : State} (hT : within [.boot, .dev, .faults, .db, .ports, .cmds, .graphs, .counts, .cairn, .las, .chans, .links, .fab, .out, .free] T = true)
    (h : Keeps T s0 s) : KeepsNext T s0 (execWidthReq x0 x1 s) := by
  unfold execWidthReq
  repeat' (first | with_reducible assumption | with_reducible apply keepsNext_next | exact within_trans rfl hT | with_reducible apply widthAsked_keeps | with_reducible apply Keeps.foldl | intro _ | dsimp only | split)

theorem execColReset_keeps  {s : State} (hT : within [.boot, .dev, .mbx, .locks, .cmds, .graphs, .comp, .cairn, .therm, .fab, .sec] T = true)
    (h : Keeps T s0 s) : KeepsNext T s0 (execColReset s) := by
  unfold execColReset
  repeat' (first | with_reducible assumption | with_reducible apply keepsNext_next | exact within_trans rfl hT | with_reducible apply colReset_keeps | with_reducible apply Keeps.foldl | intro _ | dsimp only | split)

theorem execUnload_keeps (x0 : Descriptor) {s : State} (hT : within [.boot, .dev, .faults, .db, .ports, .cmds, .graphs, .counts, .comp, .cairn, .links, .fab, .out, .free] T = true)
    (h : Keeps T s0 s) : KeepsNext T s0 (execUnload x0 s) := by
  unfold execUnload
  repeat' (first | with_reducible assumption | with_reducible apply keepsNext_next | exact within_trans rfl hT | with_reducible apply rowCommand_keeps | with_reducible apply beginUnload_keeps | with_reducible apply Keeps.foldl | intro _ | dsimp only | split)

theorem execSidebandRetryTimer_keeps (x0 : ℕ) (x1 : BitVec 8) {s : State} (hT : within [.pins, .boot, .dev, .faults, .mbx, .db, .locks, .ports, .cmds, .graphs, .bytes, .memCtl, .counts, .comp, .cairn, .las, .chans, .links, .fab, .d2d, .guest, .out, .free] T = true)
    (h : Keeps T s0 s) : KeepsNext T s0 (execSidebandRetryTimer x0 x1 s) := by
  unfold execSidebandRetryTimer
  repeat' (first | with_reducible assumption | with_reducible apply keepsNext_next | exact within_trans rfl hT | with_reducible apply emit_keeps | with_reducible apply modSet_keeps | with_reducible apply moduleOut_keeps | with_reducible apply Keeps.foldl | intro _ | dsimp only | split)

theorem execPlace_keeps (x0 : Descriptor) {s : State} (hT : within [.boot, .dev, .faults, .db, .ports, .cmds, .graphs, .bytes, .memCtl, .counts, .comp, .cairn, .links, .fab, .out, .free] T = true)
    (h : Keeps T s0 s) : KeepsNext T s0 (execPlace x0 s) := by
  unfold execPlace
  repeat' (first | with_reducible assumption | with_reducible apply keepsNext_next | exact within_trans rfl hT | with_reducible apply rowCommand_keeps | with_reducible apply beginPlace_keeps | with_reducible apply Keeps.foldl | intro _ | dsimp only | split)

theorem execMemLendLimit_keeps (x0 : Descriptor) {s : State} (hT : within [.cmds, .memCtl] T = true)
    (h : Keeps T s0 s) : KeepsNext T s0 (execMemLendLimit x0 s) := by
  unfold execMemLendLimit
  repeat' (first | with_reducible assumption | with_reducible apply keepsNext_next | exact within_trans rfl hT | with_reducible apply rowCommand_keeps | with_reducible apply beginLendLimit_keeps | with_reducible apply Keeps.foldl | intro _ | dsimp only | split)

theorem execLaserFailure_keeps (x0 : ℕ) {s : State} (hT : within [.boot, .dev, .faults, .db, .ports, .cmds, .graphs, .counts, .comp, .banks, .cairn, .las, .chans, .links, .fab, .out, .free] T = true)
    (h : Keeps T s0 s) : KeepsNext T s0 (execLaserFailure x0 s) := by
  unfold execLaserFailure
  repeat' (first | with_reducible assumption | with_reducible apply keepsNext_next | exact within_trans rfl hT | with_reducible apply laserFail_keeps | with_reducible apply Keeps.foldl | intro _ | dsimp only | split)

theorem execEngineOpStart_keeps (x0 : ℕ) (x1 : ℕ) (x2 : EngineRead) {s : State} (hT : within [.boot, .dev, .faults, .db, .ports, .cmds, .graphs, .bytes, .memCtl, .stk, .counts, .comp, .cairn, .links, .fab, .out, .free] T = true)
    (h : Keeps T s0 s) : KeepsNext T s0 (execEngineOpStart x0 x1 x2 s) := by
  unfold execEngineOpStart
  repeat' (first | with_reducible assumption | with_reducible apply keepsNext_next | exact within_trans rfl hT | with_reducible apply startP_keeps | with_reducible apply startHead_keeps | with_reducible apply Keeps.foldl | intro _ | dsimp only | split)

theorem execClusterPowerGate_keeps (x0 : ℕ) {s : State} (hT : within [.counts, .comp] T = true)
    (h : Keeps T s0 s) : KeepsNext T s0 (execClusterPowerGate x0 s) := by
  unfold execClusterPowerGate
  repeat' (first | with_reducible assumption | with_reducible apply keepsNext_next | exact within_trans rfl hT | with_reducible apply gateCluster_keeps | with_reducible apply Keeps.foldl | intro _ | dsimp only | split)

theorem execRingConfigWrite_keeps (x0 : RingReg) (x1 : BitVec 64) (x2 : Access) {s : State} (hT : within [.boot, .dev, .faults, .db, .ports, .cmds, .graphs, .cairn, .out] T = true)
    (h : Keeps T s0 s) : KeepsNext T s0 (execRingConfigWrite x0 x1 x2 s) := by
  unfold execRingConfigWrite
  repeat' (first | with_reducible assumption | with_reducible apply keepsNext_next | exact within_trans rfl hT | with_reducible apply emit_keeps | with_reducible apply ringConfigWrite_keeps | with_reducible apply secureFault_keeps | with_reducible apply Keeps.foldl | intro _ | dsimp only | split)

theorem execSleep_keeps (x0 : ℕ) (x1 : Bool) (x2 : BitVec 48) {s : State} (hT : within [.chans, .links] T = true)
    (h : Keeps T s0 s) : KeepsNext T s0 (execSleep x0 x1 x2 s) := by
  unfold execSleep
  repeat' (first | with_reducible assumption | with_reducible apply keepsNext_next | exact within_trans rfl hT | with_reducible apply announceSleep_keeps | with_reducible apply wakeTx_keeps | with_reducible apply linkSet_keeps | with_reducible apply Keeps.foldl | intro _ | dsimp only | split)

theorem execCombPauseRequest_keeps (x0 : ℕ) (x1 : ℕ) {s : State} (hT : within [.banks] T = true)
    (h : Keeps T s0 s) : KeepsNext T s0 (execCombPauseRequest x0 x1 s) := by
  unfold execCombPauseRequest
  split
  · exact keepsNext_next h
  · split
    · exact keepsNext_next h
    · extract_lets s1
      have k : Keeps T s0 s1 := mapArray_keeps _ _ (fun p c t ht => keeps_ite (bankClaim_keeps _ _ _ (within_trans rfl hT) ht) ht) h
      clear_value s1
      exact keepsNext_next (keeps_mk k (by intro x hx; cases x <;> first | exact absurd (within_mem hT rfl) hx | exact rfl | exact ⟨rfl, rfl, rfl, rfl, rfl, rfl⟩))

theorem execFirmwareDoorbellHandle_keeps  {s : State} (hT : within [.mbx, .db, .ports, .cmds, .memCtl, .out] T = true)
    (h : Keeps T s0 s) : KeepsNext T s0 (execFirmwareDoorbellHandle s) := by
  unfold execFirmwareDoorbellHandle
  repeat' (first | with_reducible assumption | with_reducible apply keepsNext_next | exact within_trans rfl hT | with_reducible apply fwBitHandle_keeps | with_reducible apply Keeps.foldl | intro _ | dsimp only | split)

theorem execRecalibrationTimer_keeps (x0 : ℕ) {s : State} (hT : within [.therm, .d2d, .out] T = true)
    (h : Keeps T s0 s) : KeepsNext T s0 (execRecalibrationTimer x0 s) := by
  unfold execRecalibrationTimer
  repeat' (first | with_reducible assumption | with_reducible apply keepsNext_next | exact within_trans rfl hT | with_reducible apply promote_keeps | with_reducible apply modSet_keeps | with_reducible apply callRetrain_keeps | with_reducible apply Keeps.foldl | intro _ | dsimp only | split)

theorem execFaultClear_keeps (x0 : Descriptor) {s : State} (hT : within [.faults, .cmds] T = true)
    (h : Keeps T s0 s) : KeepsNext T s0 (execFaultClear x0 s) := by
  unfold execFaultClear
  repeat' (first | with_reducible assumption | with_reducible apply keepsNext_next | exact within_trans rfl hT | with_reducible apply rowCommand_keeps | with_reducible apply beginFaultClear_keeps | with_reducible apply Keeps.foldl | intro _ | dsimp only | split)

theorem execDramWrite_keeps (x0 : ℕ) (x1 : List (Option (BitVec 8))) (x2 : BitVec 8) {s : State} (hT : within [.bytes, .memCtl, .counts] T = true)
    (h : Keeps T s0 s) : KeepsNext T s0 (execDramWrite x0 x1 x2 s) := by
  unfold execDramWrite
  repeat' (first | with_reducible assumption | with_reducible apply keepsNext_next | exact within_trans rfl hT | with_reducible apply countStack_keeps | with_reducible apply writeLine_keeps | with_reducible apply claimLine_keeps | with_reducible apply Keeps.foldl | intro _ | dsimp only | split)

theorem execChannelErrorInterval_keeps (x0 : ℕ) (x1 : ErrorInterval) {s : State} (hT : within [.boot, .dev, .faults, .db, .ports, .cmds, .graphs, .cairn, .chans, .out, .free] T = true)
    (h : Keeps T s0 s) : KeepsNext T s0 (execChannelErrorInterval x0 x1 s) := by
  unfold execChannelErrorInterval
  repeat' (first | with_reducible assumption | with_reducible apply keepsNext_next | exact within_trans rfl hT | with_reducible apply setChan_keeps | with_reducible apply judgeUnfit_keeps | with_reducible apply Keeps.foldl | intro _ | dsimp only | split)

theorem execHostCreditFrame_keeps (x0 : Port) (x1 : Frame) {s : State} (hT : within [.boot, .dev, .faults, .db, .ports, .cmds, .graphs, .cairn, .out] T = true)
    (h : Keeps T s0 s) : KeepsNext T s0 (execHostCreditFrame x0 x1 s) := by
  unfold execHostCreditFrame
  repeat' (first | with_reducible assumption | with_reducible apply keepsNext_next | exact within_trans rfl hT | with_reducible apply hostFrame_keeps | with_reducible apply Keeps.foldl | intro _ | dsimp only | split)

theorem execFltForceWrite_keeps (x0 : BitVec 64) (x1 : Access) {s : State} (hT : within [.pins, .boot, .dev, .faults, .mbx, .db, .locks, .ports, .cmds, .graphs, .bytes, .memCtl, .stk, .counts, .comp, .banks, .cairn, .las, .chans, .links, .fab, .d2d, .guest, .out, .free] T = true)
    (h : Keeps T s0 s) : KeepsNext T s0 (execFltForceWrite x0 x1 s) := by
  unfold execFltForceWrite
  repeat' (first | with_reducible assumption | with_reducible apply keepsNext_next | exact within_trans rfl hT | with_reducible apply fltForceWrite_keeps | with_reducible apply emit_keeps | with_reducible apply secureFault_keeps | with_reducible apply Keeps.foldl | with_reducible apply Keeps.foldlSnd | intro _ | dsimp only | split)

theorem execCreditRetryTimer_keeps (x0 : ℕ) (x1 : ℕ) {s : State} (hT : within [.boot, .dev, .faults, .db, .ports, .cmds, .graphs, .counts, .comp, .cairn, .links, .fab, .out, .free] T = true)
    (h : Keeps T s0 s) : KeepsNext T s0 (execCreditRetryTimer x0 x1 s) := by
  unfold execCreditRetryTimer
  repeat' (first | with_reducible assumption | with_reducible apply keepsNext_next | exact within_trans rfl hT | with_reducible apply askSet_keeps | with_reducible apply askCredit_keeps | with_reducible apply Keeps.foldl | intro _ | dsimp only | split)

theorem execClusterWake_keeps (x0 : ℕ) {s : State} (hT : within [.counts, .comp] T = true)
    (h : Keeps T s0 s) : KeepsNext T s0 (execClusterWake x0 s) := by
  unfold execClusterWake
  repeat' (first | with_reducible assumption | with_reducible apply keepsNext_next | exact within_trans rfl hT | with_reducible apply wakeCluster_keeps | with_reducible apply Keeps.foldl | intro _ | dsimp only | split)

theorem execPeerStartTimeout_keeps (x0 : BitVec 32) (x1 : ℕ) {s : State} (hT : within [.dev, .db, .ports, .cmds, .graphs, .out] T = true)
    (h : Keeps T s0 s) : KeepsNext T s0 (execPeerStartTimeout x0 x1 s) := by
  unfold execPeerStartTimeout
  repeat' (first | with_reducible assumption | with_reducible apply keepsNext_next | exact within_trans rfl hT | with_reducible apply endPending_keeps | with_reducible apply Keeps.foldl | intro _ | dsimp only | split)

theorem execCodewordReceive_keeps (x0 : ℕ) (x1 : ℕ) (x2 : List (BitVec 10)) {s : State} (hT : within [.boot, .dev, .faults, .db, .ports, .cmds, .graphs, .bytes, .memCtl, .stk, .counts, .comp, .cairn, .las, .chans, .links, .fab, .out, .free] T = true)
    (h : Keeps T s0 s) : KeepsNext T s0 (execCodewordReceive x0 x1 x2 s) := by
  unfold execCodewordReceive
  repeat' (first | with_reducible assumption | with_reducible apply keepsNext_next | exact within_trans rfl hT | with_reducible apply setChan_keeps | with_reducible apply lockLost_keeps | with_reducible apply cwDecoded_keeps | with_reducible apply Keeps.foldl | intro _ | dsimp only | split)

theorem execFaultForce_keeps (x0 : Descriptor) {s : State} (hT : within [.pins, .boot, .dev, .faults, .mbx, .db, .locks, .ports, .cmds, .graphs, .bytes, .memCtl, .stk, .counts, .comp, .banks, .cairn, .las, .chans, .links, .fab, .d2d, .guest, .out, .free] T = true)
    (h : Keeps T s0 s) : KeepsNext T s0 (execFaultForce x0 s) := by
  unfold execFaultForce
  repeat' (first | with_reducible assumption | with_reducible apply keepsNext_next | exact within_trans rfl hT | with_reducible apply rowCommand_keeps | with_reducible apply beginForce_keeps | with_reducible apply Keeps.foldl | intro _ | dsimp only | split)

theorem execCheckReport_keeps (x0 : ℕ) (x1 : CheckReport) {s : State} (hT : within [.chans] T = true)
    (h : Keeps T s0 s) : KeepsNext T s0 (execCheckReport x0 x1 s) := by
  unfold execCheckReport
  repeat' (first | with_reducible assumption | with_reducible apply keepsNext_next | exact within_trans rfl hT | with_reducible apply checkReports_keeps | with_reducible apply Keeps.foldl | intro _ | dsimp only | split)

theorem execChipletWalkOrder_keeps (x0 : ℕ) {s : State} (hT : within [.boot, .dev, .faults, .db, .ports, .cmds, .graphs, .cairn, .chans, .out, .free] T = true)
    (h : Keeps T s0 s) : KeepsNext T s0 (execChipletWalkOrder x0 s) := by
  unfold execChipletWalkOrder
  repeat' (first | with_reducible assumption | with_reducible apply keepsNext_next | exact within_trans rfl hT | with_reducible apply chipWalkDone_keeps | with_reducible apply Keeps.foldl | intro _ | dsimp only | split)

theorem execNvmLoad_keeps (x0 : List BadRecord) {s : State} (hT : within [.part, .pins, .clock, .boot, .dev, .faults, .mbx, .db, .locks, .ports, .cmds, .graphs, .bytes, .memCtl, .stk, .counts, .comp, .banks, .cairn, .therm, .las, .chans, .links, .fab, .d2d, .guest, .sec, .out, .free] T = true)
    (h : Keeps T s0 s) : KeepsNext T s0 (execNvmLoad x0 s) := by
  unfold execNvmLoad
  repeat' (first | with_reducible assumption | with_reducible apply keepsNext_next | exact within_trans rfl hT | with_reducible apply holdRecord_keeps | with_reducible apply badRecord_keeps | with_reducible apply colBack_keeps | with_reducible apply toStep_keeps | with_reducible apply priorityLoaded_keeps | with_reducible apply Keeps.foldl | intro _ | dsimp only | split | ((fail_if_no_progress (with_reducible apply keeps_mk)); rotate_left; · (intro x hx; cases x <;> first | exact absurd (within_mem hT rfl) hx | exact rfl | exact ⟨rfl, rfl, rfl, rfl, rfl, rfl⟩)) | ((fail_if_no_progress (with_reducible apply keeps_mkSec)); rotate_left; · (intro x hx; cases x <;> first | exact absurd (within_mem hT rfl) hx | exact rfl | exact ⟨rfl, rfl, rfl, rfl, rfl, rfl⟩)))

theorem execFlankRailOutOfRange_keeps (x0 : Flank) {s : State} (hT : within [.boot, .dev, .faults, .db, .locks, .ports, .cmds, .graphs, .bytes, .memCtl, .counts, .comp, .cairn, .las, .chans, .links, .fab, .d2d, .out, .free] T = true)
    (h : Keeps T s0 s) : KeepsNext T s0 (execFlankRailOutOfRange x0 s) := by
  unfold execFlankRailOutOfRange
  repeat' (first | with_reducible assumption | with_reducible apply keepsNext_next | exact within_trans rfl hT | with_reducible apply fenceFlank_keeps | with_reducible apply Keeps.foldl | intro _ | dsimp only | split)

theorem execPFillComplete_keeps (x0 : ℕ) (x1 : ℕ) {s : State} (hT : within [.boot, .dev, .faults, .db, .ports, .cmds, .graphs, .counts, .comp, .cairn, .out, .free] T = true)
    (h : Keeps T s0 s) : KeepsNext T s0 (execPFillComplete x0 x1 s) := by
  unfold execPFillComplete
  repeat' (first | with_reducible assumption | with_reducible apply keepsNext_next | exact within_trans rfl hT | with_reducible apply fillDone_keeps | with_reducible apply Keeps.foldl | intro _ | dsimp only | split)

theorem execFlitReceive_keeps (x0 : ℕ) (x1 : Flit) {s : State} (hT : within [.boot, .dev, .faults, .db, .ports, .cmds, .graphs, .bytes, .memCtl, .stk, .counts, .comp, .cairn, .las, .chans, .links, .fab, .out, .free] T = true)
    (h : Keeps T s0 s) : KeepsNext T s0 (execFlitReceive x0 x1 s) := by
  unfold execFlitReceive
  repeat' (first | with_reducible assumption | with_reducible apply keepsNext_next | exact within_trans rfl hT | with_reducible apply flitArrives_keeps | with_reducible apply Keeps.foldl | intro _ | dsimp only | split)

theorem execRegisterWrite_keeps (x0 : BitVec 40) (x1 : BitVec 64) (x2 : Access) {s : State} (hT : within [.pins, .boot, .dev, .faults, .mbx, .db, .locks, .ports, .cmds, .graphs, .bytes, .memCtl, .stk, .counts, .comp, .banks, .cairn, .therm, .las, .chans, .links, .fab, .d2d, .guest, .out, .free] T = true)
    (h : Keeps T s0 s) : KeepsNext T s0 (execRegisterWrite x0 x1 x2 s) := by
  unfold execRegisterWrite
  repeat' (first | with_reducible assumption | with_reducible apply keepsNext_next | exact within_trans rfl hT | with_reducible apply hostRegWrite_keeps | with_reducible apply emit_keeps | with_reducible apply Keeps.foldl | with_reducible apply Keeps.foldlSnd | intro _ | dsimp only | split)

theorem execPortStableTimer_keeps (x0 : Port) {s : State} (hT : within [.db, .ports, .out] T = true)
    (h : Keeps T s0 s) : KeepsNext T s0 (execPortStableTimer x0 s) := by
  unfold execPortStableTimer
  repeat' (first | with_reducible assumption | with_reducible apply keepsNext_next | exact within_trans rfl hT | with_reducible apply repref_keeps | with_reducible apply setPort_keeps | with_reducible apply Keeps.foldl | intro _ | dsimp only | split | ((fail_if_no_progress (with_reducible apply keeps_mk)); rotate_left; · (intro x hx; cases x <;> first | exact absurd (within_mem hT rfl) hx | exact rfl | exact ⟨rfl, rfl, rfl, rfl, rfl, rfl⟩)))

theorem execAgreementCheck_keeps (x0 : List (ℕ × ℤ)) {s : State} (hT : within [.pins, .boot, .dev, .faults, .mbx, .db, .locks, .ports, .cmds, .graphs, .bytes, .memCtl, .counts, .comp, .banks, .cairn, .therm, .las, .chans, .links, .fab, .d2d, .guest, .sec, .out, .free] T = true)
    (h : Keeps T s0 s) : KeepsNext T s0 (execAgreementCheck x0 s) := by
  unfold execAgreementCheck
  repeat' (first | with_reducible assumption | with_reducible apply keepsNext_next | exact within_trans rfl hT | with_reducible apply sensorSet_keeps | with_reducible apply suspectRecord_keeps | with_reducible apply recheck_keeps | with_reducible apply bringUpStops_keeps | with_reducible apply startPreHeat_keeps | with_reducible apply toStep_keeps | with_reducible apply Keeps.foldl | intro _ | dsimp only | split)

theorem execBankRetuneDone_keeps (x0 : ℕ) (x1 : ℕ) (x2 : List ℕ) {s : State} (hT : within [.banks] T = true)
    (h : Keeps T s0 s) : KeepsNext T s0 (execBankRetuneDone x0 x1 x2 s) := by
  unfold execBankRetuneDone
  repeat' (first | with_reducible assumption | with_reducible apply keepsNext_next | exact within_trans rfl hT | with_reducible apply bankSet_keeps | with_reducible apply retuned_keeps | with_reducible apply startWalks_keeps | with_reducible apply Keeps.foldl | intro _ | dsimp only | split)

theorem execSysMessage_keeps (x0 : ℕ) (x1 : BitVec 32) (x2 : SysMsg) {s : State} (hT : within [.boot, .dev, .faults, .db, .ports, .cmds, .graphs, .bytes, .memCtl, .counts, .comp, .cairn, .links, .fab, .out, .free] T = true)
    (h : Keeps T s0 s) : KeepsNext T s0 (execSysMessage x0 x1 x2 s) := by
  unfold execSysMessage
  repeat' (first | with_reducible assumption | with_reducible apply keepsNext_next | exact within_trans rfl hT | with_reducible apply sysArrives_keeps | with_reducible apply Keeps.foldl | intro _ | dsimp only | split)

theorem execLaneRetrain_keeps (x0 : ℕ) (x1 : Option (BitVec 48)) {s : State} (hT : within [.boot, .dev, .faults, .db, .ports, .cmds, .graphs, .counts, .cairn, .las, .chans, .links, .fab, .out, .free] T = true)
    (h : Keeps T s0 s) : KeepsNext T s0 (execLaneRetrain x0 x1 s) := by
  unfold execLaneRetrain
  repeat' (first | with_reducible assumption | with_reducible apply keepsNext_next | exact within_trans rfl hT | with_reducible apply retrainSeen_keeps | with_reducible apply Keeps.foldl | intro _ | dsimp only | split)

theorem execHwinResponse_keeps (x0 : Port) (x1 : Frame) {s : State} (hT : within [.boot, .dev, .faults, .db, .ports, .cmds, .graphs, .bytes, .memCtl, .counts, .comp, .cairn, .links, .fab, .out, .free] T = true)
    (h : Keeps T s0 s) : KeepsNext T s0 (execHwinResponse x0 x1 s) := by
  unfold execHwinResponse
  repeat' (first | with_reducible assumption | with_reducible apply keepsNext_next | exact within_trans rfl hT | with_reducible apply acted_keeps | with_reducible apply dropHwin_keeps | with_reducible apply mreqEnd_keeps | with_reducible apply hwinFail_keeps | with_reducible apply Keeps.foldl | intro _ | dsimp only | split)

theorem execWorkItemComplete_keeps (x0 : ℕ) (x1 : BitVec 32) {s : State} (hT : within [.boot, .dev, .faults, .db, .ports, .cmds, .graphs, .bytes, .memCtl, .counts, .comp, .cairn, .links, .fab, .out, .free] T = true)
    (h : Keeps T s0 s) : KeepsNext T s0 (execWorkItemComplete x0 x1 s) := by
  unfold execWorkItemComplete
  repeat' (first | with_reducible assumption | with_reducible apply keepsNext_next | exact within_trans rfl hT | with_reducible apply clusterSet_keeps | with_reducible apply countCluster_keeps | with_reducible apply postDone_keeps | with_reducible apply collOut_keeps | with_reducible apply sendOut_keeps | with_reducible apply Keeps.foldl | intro _ | dsimp only | split)

theorem execCommandRing_keeps (x0 : Access) {s : State} (hT : within [.db, .ports, .cmds, .memCtl, .out] T = true)
    (h : Keeps T s0 s) : KeepsNext T s0 (execCommandRing x0 s) := by
  unfold execCommandRing
  repeat' (first | with_reducible assumption | with_reducible apply keepsNext_next | exact within_trans rfl hT | with_reducible apply fwRingWrite_keeps | with_reducible apply emit_keeps | with_reducible apply takeRings_keeps | with_reducible apply Keeps.foldl | with_reducible apply Keeps.foldlSnd | intro _ | dsimp only | split | ((fail_if_no_progress (with_reducible apply keeps_mk)); rotate_left; · (intro x hx; cases x <;> first | exact absurd (within_mem hT rfl) hx | exact rfl | exact ⟨rfl, rfl, rfl, rfl, rfl, rfl⟩)))

theorem execNoPeerTimer_keeps (x0 : ℕ) {s : State} (hT : within [.links] T = true)
    (h : Keeps T s0 s) : KeepsNext T s0 (execNoPeerTimer x0 s) := by
  unfold execNoPeerTimer
  repeat' (first | with_reducible assumption | with_reducible apply keepsNext_next | exact within_trans rfl hT | with_reducible apply linkSet_keeps | with_reducible apply Keeps.foldl | intro _ | dsimp only | split)

theorem execRailMoveFailure_keeps (x0 : Flank) {s : State} (hT : within [.boot, .dev, .faults, .db, .ports, .cmds, .graphs, .comp, .cairn, .therm, .out, .free] T = true)
    (h : Keeps T s0 s) : KeepsNext T s0 (execRailMoveFailure x0 s) := by
  unfold execRailMoveFailure
  repeat' (first | with_reducible assumption | with_reducible apply keepsNext_next | exact within_trans rfl hT | with_reducible apply faultCOpen_keeps | with_reducible apply setFlankPower_keeps | with_reducible apply emit_keeps | with_reducible apply Keeps.foldl | intro _ | dsimp only | split | ((fail_if_no_progress (with_reducible apply keeps_mk)); rotate_left; · (intro x hx; cases x <;> first | exact absurd (within_mem hT rfl) hx | exact rfl | exact ⟨rfl, rfl, rfl, rfl, rfl, rfl⟩)))

theorem execLaserSample_keeps (x0 : ℕ) (x1 : ℕ) (x2 : ℕ) {s : State} (hT : within [.boot, .dev, .faults, .db, .ports, .cmds, .graphs, .counts, .comp, .banks, .cairn, .las, .chans, .links, .fab, .out, .free] T = true)
    (h : Keeps T s0 s) : KeepsNext T s0 (execLaserSample x0 x1 x2 s) := by
  unfold execLaserSample
  repeat' (first | with_reducible assumption | with_reducible apply keepsNext_next | exact within_trans rfl hT | with_reducible apply laserSet_keeps | with_reducible apply laserFail_keeps | with_reducible apply judgeLaser_keeps | with_reducible apply Keeps.foldl | intro _ | dsimp only | split)

theorem execPeerReadReq_keeps (x0 : ℕ) (x1 : BitVec 32) (x2 : BitVec 64) (x3 : SpanRead) {s : State} (hT : within [.boot, .dev, .faults, .db, .ports, .cmds, .graphs, .bytes, .memCtl, .stk, .counts, .cairn, .links, .fab, .out, .free] T = true)
    (h : Keeps T s0 s) : KeepsNext T s0 (execPeerReadReq x0 x1 x2 x3 s) := by
  unfold execPeerReadReq
  repeat' (first | with_reducible assumption | with_reducible apply keepsNext_next | exact within_trans rfl hT | with_reducible apply peerRead_keeps | with_reducible apply Keeps.foldl | intro _ | dsimp only | split)

theorem execBottomTreeReady_keeps  {s : State} (hT : within [.sec] T = true)
    (h : Keeps T s0 s) : KeepsNext T s0 (execBottomTreeReady s) := by
  unfold execBottomTreeReady
  repeat' (first | exact within_trans rfl hT | with_reducible assumption | with_reducible apply keepsNext_next | with_reducible apply Keeps.foldl | intro _ | dsimp only | split | ((fail_if_no_progress (with_reducible apply keeps_mk)); rotate_left; · (intro x hx; cases x <;> first | exact absurd (within_mem hT rfl) hx | exact rfl | exact ⟨rfl, rfl, rfl, rfl, rfl, rfl⟩)) | ((fail_if_no_progress (with_reducible apply keeps_mkSec)); rotate_left; · (intro x hx; cases x <;> first | exact absurd (within_mem hT rfl) hx | exact rfl | exact ⟨rfl, rfl, rfl, rfl, rfl, rfl⟩)))

theorem execD2dAckWord_keeps (x0 : ℕ) (x1 : ℕ) (x2 : BitVec 16) {s : State} (hT : within [.d2d, .out] T = true)
    (h : Keeps T s0 s) : KeepsNext T s0 (execD2dAckWord x0 x1 x2 s) := by
  unfold execD2dAckWord
  repeat' (first | with_reducible assumption | with_reducible apply keepsNext_next | exact within_trans rfl hT | with_reducible apply putDir_keeps | with_reducible apply replay_keeps | with_reducible apply Keeps.foldl | intro _ | dsimp only | split)

theorem execDeviceLimit_keeps (x0 : Descriptor) {s : State} (hT : within [.dev, .cmds, .counts, .comp, .therm, .out] T = true)
    (h : Keeps T s0 s) : KeepsNext T s0 (execDeviceLimit x0 s) := by
  unfold execDeviceLimit
  repeat' (first | with_reducible assumption | with_reducible apply keepsNext_next | exact within_trans rfl hT | with_reducible apply rowCommand_keeps | with_reducible apply beginLimit_keeps | with_reducible apply Keeps.foldl | intro _ | dsimp only | split)

theorem execCairnRelease_keeps  {s : State} (hT : within [.boot, .dev, .faults, .db, .ports, .cmds, .graphs, .bytes, .counts, .comp, .cairn, .links, .fab, .out, .free] T = true)
    (h : Keeps T s0 s) : KeepsNext T s0 (execCairnRelease s) := by
  unfold execCairnRelease
  split
  · extract_lets s1
    have k : Keeps T s0 s1 := fillsResume_keeps _ (within_trans rfl hT) (writeCairn_keeps (within_trans rfl hT) h)
    clear_value s1
    exact keepsNext_next (afterTake_keeps (within_trans rfl hT) (fabricRetry_keeps (within_trans rfl hT) (keeps_mk k (by intro x hx; cases x <;> first | exact absurd (within_mem hT rfl) hx | exact rfl | exact ⟨rfl, rfl, rfl, rfl, rfl, rfl⟩))))
  · exact keepsNext_next h

theorem execBeacon_keeps (x0 : ℕ) (x1 : ℕ) (x2 : BitVec 48) {s : State} (hT : within [.chans, .links] T = true)
    (h : Keeps T s0 s) : KeepsNext T s0 (execBeacon x0 x1 x2 s) := by
  unfold execBeacon
  repeat' (first | with_reducible assumption | with_reducible apply keepsNext_next | exact within_trans rfl hT | with_reducible apply beaconSeen_keeps | with_reducible apply Keeps.foldl | intro _ | dsimp only | split)

theorem execFabStatus_keeps (x0 : Descriptor) {s : State} (hT : within [.ports, .cmds, .bytes, .memCtl, .counts, .out] T = true)
    (h : Keeps T s0 s) : KeepsNext T s0 (execFabStatus x0 s) := by
  unfold execFabStatus
  repeat' (first | with_reducible assumption | with_reducible apply keepsNext_next | exact within_trans rfl hT | with_reducible apply rowCommand_keeps | with_reducible apply beginFabStatus_keeps | with_reducible apply Keeps.foldl | intro _ | dsimp only | split)

theorem execCairnTake_keeps (x0 : Descriptor) {s : State} (hT : within [.cmds, .cairn] T = true)
    (h : Keeps T s0 s) : KeepsNext T s0 (execCairnTake x0 s) := by
  unfold execCairnTake
  repeat' (first | with_reducible assumption | with_reducible apply keepsNext_next | exact within_trans rfl hT | with_reducible apply rowCommand_keeps | with_reducible apply beginCairnTake_keeps | with_reducible apply Keeps.foldl | intro _ | dsimp only | split)

theorem execBankWalkTimeout_keeps (x0 : ℕ) (x1 : ℕ) (x2 : ℕ) {s : State} (hT : within [.boot, .dev, .faults, .db, .ports, .cmds, .graphs, .counts, .comp, .banks, .cairn, .out] T = true)
    (h : Keeps T s0 s) : KeepsNext T s0 (execBankWalkTimeout x0 x1 x2 s) := by
  unfold execBankWalkTimeout
  repeat' (first | with_reducible assumption | with_reducible apply keepsNext_next | exact within_trans rfl hT | with_reducible apply walkDone_keeps | with_reducible apply Keeps.foldl | intro _ | dsimp only | split)

theorem execAnnouncement_keeps (x0 : ℕ) {s : State} (hT : within [.mbx, .db, .ports, .cmds, .out] T = true)
    (h : Keeps T s0 s) : KeepsNext T s0 (execAnnouncement x0 s) := by
  unfold execAnnouncement
  repeat' (first | with_reducible assumption | with_reducible apply keepsNext_next | exact within_trans rfl hT | with_reducible apply takeAnnouncement_keeps | with_reducible apply Keeps.foldl | intro _ | dsimp only | split)

theorem execRailMoveDone_keeps (x0 : Flank) {s : State} (hT : within [.comp, .therm, .out] T = true)
    (h : Keeps T s0 s) : KeepsNext T s0 (execRailMoveDone x0 s) := by
  unfold execRailMoveDone
  repeat' (first | with_reducible assumption | with_reducible apply keepsNext_next | exact within_trans rfl hT | with_reducible apply moveRail_keeps | with_reducible apply setFlankPower_keeps | with_reducible apply Keeps.foldl | intro _ | dsimp only | split)

theorem execSidebandMessage_keeps (x0 : ℕ) (x1 : BitVec 64) {s : State} (hT : within [.pins, .boot, .dev, .faults, .mbx, .db, .locks, .ports, .cmds, .graphs, .bytes, .memCtl, .counts, .comp, .cairn, .las, .chans, .links, .fab, .d2d, .guest, .out, .free] T = true)
    (h : Keeps T s0 s) : KeepsNext T s0 (execSidebandMessage x0 x1 s) := by
  unfold execSidebandMessage
  repeat' (first | with_reducible assumption | with_reducible apply keepsNext_next | exact within_trans rfl hT | with_reducible apply modSet_keeps | with_reducible apply sbActs_keeps | with_reducible apply sbSend_keeps | with_reducible apply Keeps.foldl | intro _ | dsimp only | split)

theorem execTrainingAdvance_keeps (x0 : ℕ) (x1 : TrainInput) {s : State} (hT : within [.boot, .dev, .faults, .db, .ports, .cmds, .graphs, .counts, .cairn, .las, .chans, .links, .fab, .out, .free] T = true)
    (h : Keeps T s0 s) : KeepsNext T s0 (execTrainingAdvance x0 x1 s) := by
  unfold execTrainingAdvance
  repeat' (first | with_reducible assumption | with_reducible apply keepsNext_next | exact within_trans rfl hT | with_reducible apply advance_keeps | with_reducible apply portAdvance_keeps | with_reducible apply Keeps.foldl | intro _ | dsimp only | split)

theorem execTimeSyncSend_keeps  {s : State} (hT : within [.clock, .faults, .counts, .links, .out] T = true)
    (h : Keeps T s0 s) : KeepsNext T s0 (execTimeSyncSend s) := by
  unfold execTimeSyncSend
  repeat' (first | with_reducible assumption | with_reducible apply keepsNext_next | exact within_trans rfl hT | with_reducible apply becomeMaster_keeps | with_reducible apply placeFlit_keeps | with_reducible apply Keeps.foldl | intro _ | dsimp only | split | ((fail_if_no_progress (with_reducible apply keeps_mk)); rotate_left; · (intro x hx; cases x <;> first | exact absurd (within_mem hT rfl) hx | exact rfl | exact ⟨rfl, rfl, rfl, rfl, rfl, rfl⟩)))

theorem execCairnHoldComplete_keeps  {s : State} (hT : within [.cairn] T = true)
    (h : Keeps T s0 s) : KeepsNext T s0 (execCairnHoldComplete s) := by
  unfold execCairnHoldComplete
  repeat' (first | exact within_trans rfl hT | with_reducible assumption | with_reducible apply keepsNext_next | with_reducible apply Keeps.foldl | intro _ | dsimp only | split | ((fail_if_no_progress (with_reducible apply keeps_mk)); rotate_left; · (intro x hx; cases x <;> first | exact absurd (within_mem hT rfl) hx | exact rfl | exact ⟨rfl, rfl, rfl, rfl, rfl, rfl⟩)))

theorem execDbHostMaskWrite_keeps (x0 : BitVec 64) (x1 : Access) {s : State} (hT : within [.db, .ports, .out] T = true)
    (h : Keeps T s0 s) : KeepsNext T s0 (execDbHostMaskWrite x0 x1 s) := by
  unfold execDbHostMaskWrite
  repeat' (first | with_reducible assumption | with_reducible apply keepsNext_next | exact within_trans rfl hT | with_reducible apply emit_keeps | with_reducible apply hostMaskWrite_keeps | with_reducible apply Keeps.foldl | intro _ | dsimp only | split)

theorem execLinkLeavesActive_keeps (x0 : ℕ) {s : State} (hT : within [.boot, .dev, .faults, .db, .ports, .cmds, .graphs, .counts, .cairn, .las, .chans, .links, .fab, .out, .free] T = true)
    (h : Keeps T s0 s) : KeepsNext T s0 (execLinkLeavesActive x0 s) := by
  unfold execLinkLeavesActive
  repeat' (first | with_reducible assumption | with_reducible apply keepsNext_next | exact within_trans rfl hT | with_reducible apply enterSend_keeps | with_reducible apply Keeps.foldl | intro _ | dsimp only | split)

theorem execDeadlineExpiry_keeps (x0 : BitVec 32) {s : State} (hT : within [.graphs, .cairn] T = true)
    (h : Keeps T s0 s) : KeepsNext T s0 (execDeadlineExpiry x0 s) := by
  unfold execDeadlineExpiry
  repeat' (first | with_reducible assumption | with_reducible apply keepsNext_next | exact within_trans rfl hT | with_reducible apply cairnFire_keeps | with_reducible apply slotSet_keeps | with_reducible apply Keeps.foldl | intro _ | dsimp only | split)

theorem execLenderTimeout_keeps (x0 : ℕ) {s : State} (hT : within [.boot, .dev, .faults, .db, .ports, .cmds, .graphs, .bytes, .memCtl, .counts, .comp, .cairn, .links, .fab, .out, .free] T = true)
    (h : Keeps T s0 s) : KeepsNext T s0 (execLenderTimeout x0 s) := by
  unfold execLenderTimeout
  repeat' (first | with_reducible assumption | with_reducible apply keepsNext_next | exact within_trans rfl hT | with_reducible apply resumeFit_keeps | with_reducible apply dropFit_keeps | with_reducible apply Keeps.foldl | intro _ | dsimp only | split)

theorem execGuestFence_keeps  {s : State} (hT : within [.pins, .boot, .dev, .faults, .mbx, .db, .locks, .ports, .cmds, .graphs, .cairn, .d2d, .guest, .out, .free] T = true)
    (h : Keeps T s0 s) : KeepsNext T s0 (execGuestFence s) := by
  unfold execGuestFence
  repeat' (first | with_reducible assumption | with_reducible apply keepsNext_next | exact within_trans rfl hT | with_reducible apply fenceGuest_keeps | with_reducible apply Keeps.foldl | intro _ | dsimp only | split)

theorem execLaneLossTimeout_keeps (x0 : ℕ) (x1 : ℕ) {s : State} (hT : within [.chans, .links] T = true)
    (h : Keeps T s0 s) : KeepsNext T s0 (execLaneLossTimeout x0 x1 s) := by
  unfold execLaneLossTimeout
  repeat' (first | with_reducible assumption | with_reducible apply keepsNext_next | exact within_trans rfl hT | with_reducible apply askRetrain_keeps | with_reducible apply linkSet_keeps | with_reducible apply Keeps.foldl | intro _ | dsimp only | split)

theorem execMemLend_keeps (x0 : Descriptor) {s : State} (hT : within [.db, .ports, .cmds, .memCtl, .out, .free] T = true)
    (h : Keeps T s0 s) : KeepsNext T s0 (execMemLend x0 s) := by
  unfold execMemLend
  repeat' (first | with_reducible assumption | with_reducible apply keepsNext_next | exact within_trans rfl hT | with_reducible apply rowCommand_keeps | with_reducible apply beginLend_keeps | with_reducible apply Keeps.foldl | intro _ | dsimp only | split)

theorem execResetReq_keeps  {s : State} (hT : within [.mbx, .db, .locks, .d2d, .guest] T = true)
    (h : Keeps T s0 s) : KeepsNext T s0 (execResetReq s) := by
  unfold execResetReq
  repeat' (first | with_reducible assumption | with_reducible apply keepsNext_next | exact within_trans rfl hT | with_reducible apply resetGuest_keeps | with_reducible apply Keeps.foldl | intro _ | dsimp only | split)

theorem execPortLockLoss_keeps (x0 : Port) {s : State} (hT : within [.boot, .dev, .faults, .db, .ports, .cmds, .graphs, .cairn, .out, .free] T = true)
    (h : Keeps T s0 s) : KeepsNext T s0 (execPortLockLoss x0 s) := by
  unfold execPortLockLoss
  repeat' (first | with_reducible assumption | with_reducible apply keepsNext_next | exact within_trans rfl hT | with_reducible apply portDown_keeps | with_reducible apply Keeps.foldl | intro _ | dsimp only | split)

theorem execDbFwRingChannel_keeps (x0 : ℕ) (x1 : Access) {s : State} (hT : within [.db, .out] T = true)
    (h : Keeps T s0 s) : KeepsNext T s0 (execDbFwRingChannel x0 x1 s) := by
  unfold execDbFwRingChannel
  repeat' (first | with_reducible assumption | with_reducible apply keepsNext_next | exact within_trans rfl hT | with_reducible apply fwRingWrite_keeps | with_reducible apply emit_keeps | with_reducible apply Keeps.foldl | with_reducible apply Keeps.foldlSnd | intro _ | dsimp only | split)

theorem execInvalidateAck_keeps (x0 : ℕ) {s : State} (hT : within [.bytes, .memCtl, .counts, .out, .free] T = true)
    (h : Keeps T s0 s) : KeepsNext T s0 (execInvalidateAck x0 s) := by
  unfold execInvalidateAck
  repeat' (first | with_reducible assumption | with_reducible apply keepsNext_next | exact within_trans rfl hT | with_reducible apply dirServe_keeps | with_reducible apply dirResume_keeps | with_reducible apply Keeps.foldl | intro _ | dsimp only | split | ((fail_if_no_progress (with_reducible apply keeps_mk)); rotate_left; · (intro x hx; cases x <;> first | exact absurd (within_mem hT rfl) hx | exact rfl | exact ⟨rfl, rfl, rfl, rfl, rfl, rfl⟩)) | ((fail_if_no_progress (with_reducible apply keeps_mkMem)); rotate_left; · (intro x hx; cases x <;> first | exact absurd (within_mem hT rfl) hx | exact rfl | exact ⟨rfl, rfl, rfl, rfl, rfl, rfl⟩)))

theorem execMemSetMode_keeps (x0 : Descriptor) {s : State} (hT : within [.cmds, .memCtl] T = true)
    (h : Keeps T s0 s) : KeepsNext T s0 (execMemSetMode x0 s) := by
  unfold execMemSetMode
  repeat' (first | with_reducible assumption | with_reducible apply keepsNext_next | exact within_trans rfl hT | with_reducible apply rowCommand_keeps | with_reducible apply beginSetMode_keeps | with_reducible apply Keeps.foldl | intro _ | dsimp only | split)

theorem execBivouacExitTimer_keeps (x0 : ℕ) {s : State} (hT : within [.boot, .dev, .faults, .db, .ports, .cmds, .graphs, .counts, .cairn, .las, .chans, .links, .fab, .out, .free] T = true)
    (h : Keeps T s0 s) : KeepsNext T s0 (execBivouacExitTimer x0 s) := by
  unfold execBivouacExitTimer
  repeat' (first | with_reducible assumption | with_reducible apply keepsNext_next | exact within_trans rfl hT | with_reducible apply portLeavesBivouac_keeps | with_reducible apply enterTrain_keeps | with_reducible apply linkSet_keeps | with_reducible apply Keeps.foldl | intro _ | dsimp only | split)

theorem execEntryIdleClose_keeps (x0 : ℕ) (x1 : ℕ) {s : State} (hT : within [.boot, .dev, .faults, .db, .ports, .cmds, .graphs, .counts, .cairn, .links, .fab, .out, .free] T = true)
    (h : Keeps T s0 s) : KeepsNext T s0 (execEntryIdleClose x0 x1 s) := by
  unfold execEntryIdleClose
  repeat' (first | with_reducible assumption | with_reducible apply keepsNext_next | exact within_trans rfl hT | with_reducible apply tellCredit_keeps | with_reducible apply dstSet_keeps | with_reducible apply Keeps.foldl | intro _ | dsimp only | split)

theorem execBankPitchCheckStart_keeps (x0 : ℕ) (x1 : ℕ) {s : State} (hT : within [.counts, .comp, .banks] T = true)
    (h : Keeps T s0 s) : KeepsNext T s0 (execBankPitchCheckStart x0 x1 s) := by
  unfold execBankPitchCheckStart
  repeat' (first | with_reducible assumption | with_reducible apply keepsNext_next | exact within_trans rfl hT | with_reducible apply bankSet_keeps | with_reducible apply wakeCluster_keeps | with_reducible apply Keeps.foldl | intro _ | dsimp only | split)

theorem execBoundaryScan_keeps (x0 : JtagInstr) (x1 : BitVec 32) {s : State} (hT : within [.sec, .out, .free] T = true)
    (h : Keeps T s0 s) : KeepsNext T s0 (execBoundaryScan x0 x1 s) := by
  unfold execBoundaryScan
  repeat' (first | with_reducible assumption | with_reducible apply keepsNext_next | exact within_trans rfl hT | with_reducible apply emit_keeps | with_reducible apply Keeps.foldl | intro _ | dsimp only | split | ((fail_if_no_progress (with_reducible apply keeps_mk)); rotate_left; · (intro x hx; cases x <;> first | exact absurd (within_mem hT rfl) hx | exact rfl | exact ⟨rfl, rfl, rfl, rfl, rfl, rfl⟩)) | ((fail_if_no_progress (with_reducible apply keeps_mkSec)); rotate_left; · (intro x hx; cases x <;> first | exact absurd (within_mem hT rfl) hx | exact rfl | exact ⟨rfl, rfl, rfl, rfl, rfl, rfl⟩)))

theorem execLoadBundle_keeps (x0 : Descriptor) {s : State} (hT : within [.boot, .dev, .faults, .db, .ports, .cmds, .graphs, .bytes, .memCtl, .counts, .comp, .cairn, .links, .fab, .out, .free] T = true)
    (h : Keeps T s0 s) : KeepsNext T s0 (execLoadBundle x0 s) := by
  unfold execLoadBundle
  repeat' (first | with_reducible assumption | with_reducible apply keepsNext_next | exact within_trans rfl hT | with_reducible apply rowCommand_keeps | with_reducible apply beginLoad_keeps | with_reducible apply Keeps.foldl | intro _ | dsimp only | split)

theorem execCombLineFailure_keeps (x0 : ℕ) {s : State} (hT : within [.boot, .dev, .faults, .db, .ports, .cmds, .graphs, .counts, .comp, .banks, .cairn, .las, .out, .free] T = true)
    (h : Keeps T s0 s) : KeepsNext T s0 (execCombLineFailure x0 s) := by
  unfold execCombLineFailure
  repeat' (first | with_reducible assumption | with_reducible apply keepsNext_next | exact within_trans rfl hT | with_reducible apply combLineFail_keeps | with_reducible apply Keeps.foldl | intro _ | dsimp only | split)

theorem execLinkSpareVerified_keeps (x0 : ℕ) (x1 : ℕ) (x2 : Bool) {s : State} (hT : within [.boot, .dev, .faults, .db, .ports, .cmds, .graphs, .counts, .cairn, .las, .chans, .links, .fab, .out, .free] T = true)
    (h : Keeps T s0 s) : KeepsNext T s0 (execLinkSpareVerified x0 x1 x2 s) := by
  unfold execLinkSpareVerified
  repeat' (first | with_reducible assumption | with_reducible apply keepsNext_next | exact within_trans rfl hT | with_reducible apply setChan_keeps | with_reducible apply startCheck_keeps | with_reducible apply nextHandover_keeps | with_reducible apply setHandover_keeps | with_reducible apply Keeps.foldl | intro _ | dsimp only | split)

theorem execLaneTestDurationEnd_keeps (x0 : ℕ) {s : State} (hT : within [.boot, .dev, .faults, .db, .ports, .cmds, .graphs, .counts, .cairn, .las, .chans, .links, .fab, .out, .free] T = true)
    (h : Keeps T s0 s) : KeepsNext T s0 (execLaneTestDurationEnd x0 s) := by
  unfold execLaneTestDurationEnd
  repeat' (first | with_reducible assumption | with_reducible apply keepsNext_next | exact within_trans rfl hT | with_reducible apply testEnds_keeps | with_reducible apply sendFiller_keeps | with_reducible apply sendBlocks_keeps | with_reducible apply enterTrain_keeps | with_reducible apply nextSlot_keeps | with_reducible apply Keeps.foldl | intro _ | dsimp only | split)

theorem execThGraceWrite_keeps (x0 : BitVec 64) (x1 : Access) {s : State} (hT : within [.pins, .boot, .dev, .faults, .mbx, .db, .locks, .ports, .cmds, .graphs, .bytes, .memCtl, .stk, .counts, .comp, .banks, .cairn, .therm, .las, .chans, .links, .fab, .d2d, .guest, .out, .free] T = true)
    (h : Keeps T s0 s) : KeepsNext T s0 (execThGraceWrite x0 x1 s) := by
  unfold execThGraceWrite
  repeat' (first | exact within_trans rfl hT | with_reducible assumption | with_reducible apply namedWrite_keeps | with_reducible apply keepsNext_next | with_reducible apply Keeps.foldl | intro _ | dsimp only | split)

theorem execWeightChange_keeps (x0 : ℕ) {s : State} (hT : within [.d2d] T = true)
    (h : Keeps T s0 s) : KeepsNext T s0 (execWeightChange x0 s) := by
  unfold execWeightChange
  repeat' (first | with_reducible assumption | with_reducible apply keepsNext_next | exact within_trans rfl hT | with_reducible apply setWeights_keeps | with_reducible apply Keeps.foldl | intro _ | dsimp only | split | ((fail_if_no_progress (with_reducible apply keeps_mk)); rotate_left; · (intro x hx; cases x <;> first | exact absurd (within_mem hT rfl) hx | exact rfl | exact ⟨rfl, rfl, rfl, rfl, rfl, rfl⟩)))

theorem execCommandBegin_keeps (x0 : Queue) {s : State} (hT : within [.pins, .clock, .boot, .dev, .faults, .mbx, .db, .locks, .ports, .cmds, .graphs, .bytes, .memCtl, .stk, .counts, .comp, .banks, .cairn, .therm, .las, .chans, .links, .fab, .d2d, .guest, .sec, .out, .free] T = true)
    (h : Keeps T s0 s) : KeepsNext T s0 (execCommandBegin x0 s) := by
  unfold execCommandBegin
  repeat' (first | with_reducible assumption | with_reducible apply keepsNext_next | exact within_trans rfl hT | with_reducible apply beginWith_keeps | with_reducible apply beginOf_keeps | with_reducible apply moveBegun_keeps | with_reducible apply Keeps.foldl | intro _ | dsimp only | split)

theorem execSkewLimitExpiry_keeps (x0 : BitVec 32) {s : State} (hT : within [.ports, .out] T = true)
    (h : Keeps T s0 s) : KeepsNext T s0 (execSkewLimitExpiry x0 s) := by
  unfold execSkewLimitExpiry
  repeat' (first | with_reducible assumption | with_reducible apply keepsNext_next | exact within_trans rfl hT | with_reducible apply settleResync_keeps | with_reducible apply Keeps.foldl | intro _ | dsimp only | split | ((fail_if_no_progress (with_reducible apply keeps_mk)); rotate_left; · (intro x hx; cases x <;> first | exact absurd (within_mem hT rfl) hx | exact rfl | exact ⟨rfl, rfl, rfl, rfl, rfl, rfl⟩)))

theorem execTimeSync_keeps (x0 : ℕ) (x1 : TimeMsg) {s : State} (hT : within [.clock, .boot, .dev, .faults, .db, .ports, .cmds, .graphs, .cairn, .out, .free] T = true)
    (h : Keeps T s0 s) : KeepsNext T s0 (execTimeSync x0 x1 s) := by
  unfold execTimeSync
  repeat' (first | with_reducible assumption | with_reducible apply keepsNext_next | exact within_trans rfl hT | with_reducible apply timeArrives_keeps | with_reducible apply Keeps.foldl | intro _ | dsimp only | split)

end Sys2Proof.Machine
end

