-- ==== Sys2Proof/Laws/State.lean ====
section
/-!
SUPPORT. What the basic updates of the state leave alone: one lemma for each update, one equation for each field it
keeps, so that no proof has to unfold a record update.
-/

namespace Sys2Proof.Machine

@[simp] theorem cairnStart_frame (code : ℕ) (detail : BitVec 32) (s : State) :
    (cairnStart code detail s).part = s.part ∧ (cairnStart code detail s).pins = s.pins ∧ (cairnStart code detail
    s).clock = s.clock ∧ (cairnStart code detail s).boot = s.boot ∧ (cairnStart code detail s).dev = s.dev ∧
    (cairnStart code detail s).faults = s.faults ∧ (cairnStart code detail s).mbx = s.mbx ∧ (cairnStart code detail
    s).db = s.db ∧ (cairnStart code detail s).locks = s.locks ∧ (cairnStart code detail s).ports = s.ports ∧
    (cairnStart code detail s).cmds = s.cmds ∧ (cairnStart code detail s).graphs = s.graphs ∧ (cairnStart code
    detail s).mem = s.mem ∧ (cairnStart code detail s).stk = s.stk ∧ (cairnStart code detail s).counts = s.counts ∧
    (cairnStart code detail s).comp = s.comp ∧ (cairnStart code detail s).banks = s.banks ∧ (cairnStart code detail
    s).therm = s.therm ∧ (cairnStart code detail s).las = s.las ∧ (cairnStart code detail s).chans = s.chans ∧
    (cairnStart code detail s).links = s.links ∧ (cairnStart code detail s).fab = s.fab ∧ (cairnStart code detail
    s).d2d = s.d2d ∧ (cairnStart code detail s).guest = s.guest ∧ (cairnStart code detail s).sec = s.sec ∧
    (cairnStart code detail s).out = s.out ∧ (cairnStart code detail s).free = s.free ∧ (cairnStart code detail
    s).pending = s.pending :=
  ⟨rfl, rfl, rfl, rfl, rfl, rfl, rfl, rfl, rfl, rfl, rfl, rfl, rfl, rfl, rfl, rfl, rfl, rfl, rfl, rfl, rfl, rfl, rfl, rfl, rfl, rfl, rfl, rfl⟩

@[simp] theorem collect_frame (e : FaultInput) (s : State) :
    (collect e s).part = s.part ∧ (collect e s).pins = s.pins ∧ (collect e s).clock = s.clock ∧ (collect e s).boot =
    s.boot ∧ (collect e s).dev = s.dev ∧ (collect e s).mbx = s.mbx ∧ (collect e s).db = s.db ∧ (collect e s).locks =
    s.locks ∧ (collect e s).ports = s.ports ∧ (collect e s).cmds = s.cmds ∧ (collect e s).graphs = s.graphs ∧
    (collect e s).mem = s.mem ∧ (collect e s).stk = s.stk ∧ (collect e s).counts = s.counts ∧ (collect e s).comp =
    s.comp ∧ (collect e s).banks = s.banks ∧ (collect e s).cairn = s.cairn ∧ (collect e s).therm = s.therm ∧
    (collect e s).las = s.las ∧ (collect e s).chans = s.chans ∧ (collect e s).links = s.links ∧ (collect e s).fab =
    s.fab ∧ (collect e s).d2d = s.d2d ∧ (collect e s).guest = s.guest ∧ (collect e s).sec = s.sec ∧ (collect e
    s).out = s.out ∧ (collect e s).free = s.free ∧ (collect e s).pending = s.pending :=
  ⟨rfl, rfl, rfl, rfl, rfl, rfl, rfl, rfl, rfl, rfl, rfl, rfl, rfl, rfl, rfl, rfl, rfl, rfl, rfl, rfl, rfl, rfl, rfl, rfl, rfl, rfl, rfl, rfl⟩

@[simp] theorem emit_frame (o : Output) (s : State) :
    (emit o s).part = s.part ∧ (emit o s).pins = s.pins ∧ (emit o s).clock = s.clock ∧ (emit o s).boot = s.boot ∧
    (emit o s).dev = s.dev ∧ (emit o s).faults = s.faults ∧ (emit o s).mbx = s.mbx ∧ (emit o s).db = s.db ∧ (emit o
    s).locks = s.locks ∧ (emit o s).ports = s.ports ∧ (emit o s).cmds = s.cmds ∧ (emit o s).graphs = s.graphs ∧
    (emit o s).mem = s.mem ∧ (emit o s).stk = s.stk ∧ (emit o s).counts = s.counts ∧ (emit o s).comp = s.comp ∧
    (emit o s).banks = s.banks ∧ (emit o s).cairn = s.cairn ∧ (emit o s).therm = s.therm ∧ (emit o s).las = s.las ∧
    (emit o s).chans = s.chans ∧ (emit o s).links = s.links ∧ (emit o s).fab = s.fab ∧ (emit o s).d2d = s.d2d ∧
    (emit o s).guest = s.guest ∧ (emit o s).sec = s.sec ∧ (emit o s).free = s.free ∧ (emit o s).pending = s.pending :=
  ⟨rfl, rfl, rfl, rfl, rfl, rfl, rfl, rfl, rfl, rfl, rfl, rfl, rfl, rfl, rfl, rfl, rfl, rfl, rfl, rfl, rfl, rfl, rfl, rfl, rfl, rfl, rfl, rfl⟩

@[simp] theorem fenceAdd_frame (src : ℕ) (core : ℕ) (s : State) :
    (fenceAdd src core s).part = s.part ∧ (fenceAdd src core s).pins = s.pins ∧ (fenceAdd src core s).clock =
    s.clock ∧ (fenceAdd src core s).boot = s.boot ∧ (fenceAdd src core s).dev = s.dev ∧ (fenceAdd src core s).mbx =
    s.mbx ∧ (fenceAdd src core s).db = s.db ∧ (fenceAdd src core s).locks = s.locks ∧ (fenceAdd src core s).ports =
    s.ports ∧ (fenceAdd src core s).cmds = s.cmds ∧ (fenceAdd src core s).graphs = s.graphs ∧ (fenceAdd src core
    s).mem = s.mem ∧ (fenceAdd src core s).stk = s.stk ∧ (fenceAdd src core s).counts = s.counts ∧ (fenceAdd src
    core s).comp = s.comp ∧ (fenceAdd src core s).banks = s.banks ∧ (fenceAdd src core s).cairn = s.cairn ∧
    (fenceAdd src core s).therm = s.therm ∧ (fenceAdd src core s).las = s.las ∧ (fenceAdd src core s).chans =
    s.chans ∧ (fenceAdd src core s).links = s.links ∧ (fenceAdd src core s).fab = s.fab ∧ (fenceAdd src core s).d2d
    = s.d2d ∧ (fenceAdd src core s).guest = s.guest ∧ (fenceAdd src core s).sec = s.sec ∧ (fenceAdd src core s).out
    = s.out ∧ (fenceAdd src core s).free = s.free ∧ (fenceAdd src core s).pending = s.pending :=
  ⟨rfl, rfl, rfl, rfl, rfl, rfl, rfl, rfl, rfl, rfl, rfl, rfl, rfl, rfl, rfl, rfl, rfl, rfl, rfl, rfl, rfl, rfl, rfl, rfl, rfl, rfl, rfl, rfl⟩

@[simp] theorem fenceDrop_frame (src : ℕ) (core : ℕ) (s : State) :
    (fenceDrop src core s).part = s.part ∧ (fenceDrop src core s).pins = s.pins ∧ (fenceDrop src core s).clock =
    s.clock ∧ (fenceDrop src core s).boot = s.boot ∧ (fenceDrop src core s).dev = s.dev ∧ (fenceDrop src core s).mbx
    = s.mbx ∧ (fenceDrop src core s).db = s.db ∧ (fenceDrop src core s).locks = s.locks ∧ (fenceDrop src core
    s).ports = s.ports ∧ (fenceDrop src core s).cmds = s.cmds ∧ (fenceDrop src core s).graphs = s.graphs ∧
    (fenceDrop src core s).mem = s.mem ∧ (fenceDrop src core s).stk = s.stk ∧ (fenceDrop src core s).counts =
    s.counts ∧ (fenceDrop src core s).comp = s.comp ∧ (fenceDrop src core s).banks = s.banks ∧ (fenceDrop src core
    s).cairn = s.cairn ∧ (fenceDrop src core s).therm = s.therm ∧ (fenceDrop src core s).las = s.las ∧ (fenceDrop
    src core s).chans = s.chans ∧ (fenceDrop src core s).links = s.links ∧ (fenceDrop src core s).fab = s.fab ∧
    (fenceDrop src core s).d2d = s.d2d ∧ (fenceDrop src core s).guest = s.guest ∧ (fenceDrop src core s).sec = s.sec
    ∧ (fenceDrop src core s).out = s.out ∧ (fenceDrop src core s).free = s.free ∧ (fenceDrop src core s).pending =
    s.pending :=
  ⟨rfl, rfl, rfl, rfl, rfl, rfl, rfl, rfl, rfl, rfl, rfl, rfl, rfl, rfl, rfl, rfl, rfl, rfl, rfl, rfl, rfl, rfl, rfl, rfl, rfl, rfl, rfl, rfl⟩

@[simp] theorem forcedDone_frame (src : ℕ) (core : ℕ) (s : State) :
    (forcedDone src core s).part = s.part ∧ (forcedDone src core s).pins = s.pins ∧ (forcedDone src core s).clock =
    s.clock ∧ (forcedDone src core s).boot = s.boot ∧ (forcedDone src core s).dev = s.dev ∧ (forcedDone src core
    s).mbx = s.mbx ∧ (forcedDone src core s).db = s.db ∧ (forcedDone src core s).locks = s.locks ∧ (forcedDone src
    core s).ports = s.ports ∧ (forcedDone src core s).cmds = s.cmds ∧ (forcedDone src core s).graphs = s.graphs ∧
    (forcedDone src core s).mem = s.mem ∧ (forcedDone src core s).stk = s.stk ∧ (forcedDone src core s).counts =
    s.counts ∧ (forcedDone src core s).comp = s.comp ∧ (forcedDone src core s).banks = s.banks ∧ (forcedDone src
    core s).cairn = s.cairn ∧ (forcedDone src core s).therm = s.therm ∧ (forcedDone src core s).las = s.las ∧
    (forcedDone src core s).chans = s.chans ∧ (forcedDone src core s).links = s.links ∧ (forcedDone src core s).fab
    = s.fab ∧ (forcedDone src core s).d2d = s.d2d ∧ (forcedDone src core s).guest = s.guest ∧ (forcedDone src core
    s).sec = s.sec ∧ (forcedDone src core s).out = s.out ∧ (forcedDone src core s).free = s.free ∧ (forcedDone src
    core s).pending = s.pending :=
  ⟨rfl, rfl, rfl, rfl, rfl, rfl, rfl, rfl, rfl, rfl, rfl, rfl, rfl, rfl, rfl, rfl, rfl, rfl, rfl, rfl, rfl, rfl, rfl, rfl, rfl, rfl, rfl, rfl⟩

@[simp] theorem idleTick_frame (s : State) :
    (idleTick s).part = s.part ∧ (idleTick s).pins = s.pins ∧ (idleTick s).boot = s.boot ∧ (idleTick s).dev = s.dev
    ∧ (idleTick s).faults = s.faults ∧ (idleTick s).mbx = s.mbx ∧ (idleTick s).db = s.db ∧ (idleTick s).locks =
    s.locks ∧ (idleTick s).ports = s.ports ∧ (idleTick s).cmds = s.cmds ∧ (idleTick s).graphs = s.graphs ∧ (idleTick
    s).mem = s.mem ∧ (idleTick s).stk = s.stk ∧ (idleTick s).counts = s.counts ∧ (idleTick s).comp = s.comp ∧
    (idleTick s).banks = s.banks ∧ (idleTick s).cairn = s.cairn ∧ (idleTick s).therm = s.therm ∧ (idleTick s).las =
    s.las ∧ (idleTick s).chans = s.chans ∧ (idleTick s).links = s.links ∧ (idleTick s).fab = s.fab ∧ (idleTick
    s).d2d = s.d2d ∧ (idleTick s).guest = s.guest ∧ (idleTick s).sec = s.sec ∧ (idleTick s).out = s.out ∧ (idleTick
    s).free = s.free ∧ (idleTick s).pending = s.pending :=
  ⟨rfl, rfl, rfl, rfl, rfl, rfl, rfl, rfl, rfl, rfl, rfl, rfl, rfl, rfl, rfl, rfl, rfl, rfl, rfl, rfl, rfl, rfl, rfl, rfl, rfl, rfl, rfl, rfl⟩

@[simp] theorem linkSet_frame (n : ℕ) (x : LinkSt) (s : State) :
    (linkSet n x s).part = s.part ∧ (linkSet n x s).pins = s.pins ∧ (linkSet n x s).clock = s.clock ∧ (linkSet n x
    s).boot = s.boot ∧ (linkSet n x s).dev = s.dev ∧ (linkSet n x s).faults = s.faults ∧ (linkSet n x s).mbx = s.mbx
    ∧ (linkSet n x s).db = s.db ∧ (linkSet n x s).locks = s.locks ∧ (linkSet n x s).ports = s.ports ∧ (linkSet n x
    s).cmds = s.cmds ∧ (linkSet n x s).graphs = s.graphs ∧ (linkSet n x s).mem = s.mem ∧ (linkSet n x s).stk = s.stk
    ∧ (linkSet n x s).counts = s.counts ∧ (linkSet n x s).comp = s.comp ∧ (linkSet n x s).banks = s.banks ∧ (linkSet
    n x s).cairn = s.cairn ∧ (linkSet n x s).therm = s.therm ∧ (linkSet n x s).las = s.las ∧ (linkSet n x s).chans =
    s.chans ∧ (linkSet n x s).fab = s.fab ∧ (linkSet n x s).d2d = s.d2d ∧ (linkSet n x s).guest = s.guest ∧ (linkSet
    n x s).sec = s.sec ∧ (linkSet n x s).out = s.out ∧ (linkSet n x s).free = s.free ∧ (linkSet n x s).pending =
    s.pending :=
  ⟨rfl, rfl, rfl, rfl, rfl, rfl, rfl, rfl, rfl, rfl, rfl, rfl, rfl, rfl, rfl, rfl, rfl, rfl, rfl, rfl, rfl, rfl, rfl, rfl, rfl, rfl, rfl, rfl⟩

@[simp] theorem modSet_frame (m : ℕ) (x : Module) (s : State) :
    (modSet m x s).part = s.part ∧ (modSet m x s).pins = s.pins ∧ (modSet m x s).clock = s.clock ∧ (modSet m x
    s).boot = s.boot ∧ (modSet m x s).dev = s.dev ∧ (modSet m x s).faults = s.faults ∧ (modSet m x s).mbx = s.mbx ∧
    (modSet m x s).db = s.db ∧ (modSet m x s).locks = s.locks ∧ (modSet m x s).ports = s.ports ∧ (modSet m x s).cmds
    = s.cmds ∧ (modSet m x s).graphs = s.graphs ∧ (modSet m x s).mem = s.mem ∧ (modSet m x s).stk = s.stk ∧ (modSet
    m x s).counts = s.counts ∧ (modSet m x s).comp = s.comp ∧ (modSet m x s).banks = s.banks ∧ (modSet m x s).cairn
    = s.cairn ∧ (modSet m x s).therm = s.therm ∧ (modSet m x s).las = s.las ∧ (modSet m x s).chans = s.chans ∧
    (modSet m x s).links = s.links ∧ (modSet m x s).fab = s.fab ∧ (modSet m x s).guest = s.guest ∧ (modSet m x
    s).sec = s.sec ∧ (modSet m x s).out = s.out ∧ (modSet m x s).free = s.free ∧ (modSet m x s).pending = s.pending :=
  ⟨rfl, rfl, rfl, rfl, rfl, rfl, rfl, rfl, rfl, rfl, rfl, rfl, rfl, rfl, rfl, rfl, rfl, rfl, rfl, rfl, rfl, rfl, rfl, rfl, rfl, rfl, rfl, rfl⟩

@[simp] theorem promote_frame (i : ℕ) (s : State) :
    (promote i s).part = s.part ∧ (promote i s).pins = s.pins ∧ (promote i s).clock = s.clock ∧ (promote i s).boot =
    s.boot ∧ (promote i s).dev = s.dev ∧ (promote i s).faults = s.faults ∧ (promote i s).mbx = s.mbx ∧ (promote i
    s).db = s.db ∧ (promote i s).locks = s.locks ∧ (promote i s).ports = s.ports ∧ (promote i s).cmds = s.cmds ∧
    (promote i s).graphs = s.graphs ∧ (promote i s).mem = s.mem ∧ (promote i s).stk = s.stk ∧ (promote i s).counts =
    s.counts ∧ (promote i s).comp = s.comp ∧ (promote i s).banks = s.banks ∧ (promote i s).cairn = s.cairn ∧
    (promote i s).las = s.las ∧ (promote i s).chans = s.chans ∧ (promote i s).links = s.links ∧ (promote i s).fab =
    s.fab ∧ (promote i s).d2d = s.d2d ∧ (promote i s).guest = s.guest ∧ (promote i s).sec = s.sec ∧ (promote i
    s).out = s.out ∧ (promote i s).free = s.free ∧ (promote i s).pending = s.pending :=
  ⟨rfl, rfl, rfl, rfl, rfl, rfl, rfl, rfl, rfl, rfl, rfl, rfl, rfl, rfl, rfl, rfl, rfl, rfl, rfl, rfl, rfl, rfl, rfl, rfl, rfl, rfl, rfl, rfl⟩

@[simp] theorem pushEntry_frame (e : Entry) (s : State) :
    (pushEntry e s).part = s.part ∧ (pushEntry e s).pins = s.pins ∧ (pushEntry e s).clock = s.clock ∧ (pushEntry e
    s).boot = s.boot ∧ (pushEntry e s).dev = s.dev ∧ (pushEntry e s).faults = s.faults ∧ (pushEntry e s).mbx = s.mbx
    ∧ (pushEntry e s).db = s.db ∧ (pushEntry e s).locks = s.locks ∧ (pushEntry e s).ports = s.ports ∧ (pushEntry e
    s).graphs = s.graphs ∧ (pushEntry e s).mem = s.mem ∧ (pushEntry e s).stk = s.stk ∧ (pushEntry e s).counts =
    s.counts ∧ (pushEntry e s).comp = s.comp ∧ (pushEntry e s).banks = s.banks ∧ (pushEntry e s).cairn = s.cairn ∧
    (pushEntry e s).therm = s.therm ∧ (pushEntry e s).las = s.las ∧ (pushEntry e s).chans = s.chans ∧ (pushEntry e
    s).links = s.links ∧ (pushEntry e s).fab = s.fab ∧ (pushEntry e s).d2d = s.d2d ∧ (pushEntry e s).guest = s.guest
    ∧ (pushEntry e s).sec = s.sec ∧ (pushEntry e s).out = s.out ∧ (pushEntry e s).free = s.free ∧ (pushEntry e
    s).pending = s.pending :=
  ⟨rfl, rfl, rfl, rfl, rfl, rfl, rfl, rfl, rfl, rfl, rfl, rfl, rfl, rfl, rfl, rfl, rfl, rfl, rfl, rfl, rfl, rfl, rfl, rfl, rfl, rfl, rfl, rfl⟩

@[simp] theorem ringFw_frame (bits : BitVec 32) (s : State) :
    (ringFw bits s).part = s.part ∧ (ringFw bits s).pins = s.pins ∧ (ringFw bits s).clock = s.clock ∧ (ringFw bits
    s).boot = s.boot ∧ (ringFw bits s).dev = s.dev ∧ (ringFw bits s).faults = s.faults ∧ (ringFw bits s).mbx = s.mbx
    ∧ (ringFw bits s).locks = s.locks ∧ (ringFw bits s).ports = s.ports ∧ (ringFw bits s).cmds = s.cmds ∧ (ringFw
    bits s).graphs = s.graphs ∧ (ringFw bits s).mem = s.mem ∧ (ringFw bits s).stk = s.stk ∧ (ringFw bits s).counts =
    s.counts ∧ (ringFw bits s).comp = s.comp ∧ (ringFw bits s).banks = s.banks ∧ (ringFw bits s).cairn = s.cairn ∧
    (ringFw bits s).therm = s.therm ∧ (ringFw bits s).las = s.las ∧ (ringFw bits s).chans = s.chans ∧ (ringFw bits
    s).links = s.links ∧ (ringFw bits s).fab = s.fab ∧ (ringFw bits s).d2d = s.d2d ∧ (ringFw bits s).guest = s.guest
    ∧ (ringFw bits s).sec = s.sec ∧ (ringFw bits s).out = s.out ∧ (ringFw bits s).free = s.free ∧ (ringFw bits
    s).pending = s.pending :=
  ⟨rfl, rfl, rfl, rfl, rfl, rfl, rfl, rfl, rfl, rfl, rfl, rfl, rfl, rfl, rfl, rfl, rfl, rfl, rfl, rfl, rfl, rfl, rfl, rfl, rfl, rfl, rfl, rfl⟩

@[simp] theorem setChan_frame (i : ℕ) (c : Chan) (s : State) :
    (setChan i c s).part = s.part ∧ (setChan i c s).pins = s.pins ∧ (setChan i c s).clock = s.clock ∧ (setChan i c
    s).boot = s.boot ∧ (setChan i c s).dev = s.dev ∧ (setChan i c s).faults = s.faults ∧ (setChan i c s).mbx = s.mbx
    ∧ (setChan i c s).db = s.db ∧ (setChan i c s).locks = s.locks ∧ (setChan i c s).ports = s.ports ∧ (setChan i c
    s).cmds = s.cmds ∧ (setChan i c s).graphs = s.graphs ∧ (setChan i c s).mem = s.mem ∧ (setChan i c s).stk = s.stk
    ∧ (setChan i c s).counts = s.counts ∧ (setChan i c s).comp = s.comp ∧ (setChan i c s).banks = s.banks ∧ (setChan
    i c s).cairn = s.cairn ∧ (setChan i c s).therm = s.therm ∧ (setChan i c s).las = s.las ∧ (setChan i c s).links =
    s.links ∧ (setChan i c s).fab = s.fab ∧ (setChan i c s).d2d = s.d2d ∧ (setChan i c s).guest = s.guest ∧ (setChan
    i c s).sec = s.sec ∧ (setChan i c s).out = s.out ∧ (setChan i c s).free = s.free ∧ (setChan i c s).pending =
    s.pending :=
  ⟨rfl, rfl, rfl, rfl, rfl, rfl, rfl, rfl, rfl, rfl, rfl, rfl, rfl, rfl, rfl, rfl, rfl, rfl, rfl, rfl, rfl, rfl, rfl, rfl, rfl, rfl, rfl, rfl⟩

@[simp] theorem touchSync_frame (s : State) :
    (touchSync s).part = s.part ∧ (touchSync s).pins = s.pins ∧ (touchSync s).clock = s.clock ∧ (touchSync s).boot =
    s.boot ∧ (touchSync s).dev = s.dev ∧ (touchSync s).faults = s.faults ∧ (touchSync s).mbx = s.mbx ∧ (touchSync
    s).db = s.db ∧ (touchSync s).locks = s.locks ∧ (touchSync s).ports = s.ports ∧ (touchSync s).graphs = s.graphs ∧
    (touchSync s).mem = s.mem ∧ (touchSync s).stk = s.stk ∧ (touchSync s).counts = s.counts ∧ (touchSync s).comp =
    s.comp ∧ (touchSync s).banks = s.banks ∧ (touchSync s).cairn = s.cairn ∧ (touchSync s).therm = s.therm ∧
    (touchSync s).las = s.las ∧ (touchSync s).chans = s.chans ∧ (touchSync s).links = s.links ∧ (touchSync s).fab =
    s.fab ∧ (touchSync s).d2d = s.d2d ∧ (touchSync s).guest = s.guest ∧ (touchSync s).sec = s.sec ∧ (touchSync
    s).out = s.out ∧ (touchSync s).free = s.free ∧ (touchSync s).pending = s.pending :=
  ⟨rfl, rfl, rfl, rfl, rfl, rfl, rfl, rfl, rfl, rfl, rfl, rfl, rfl, rfl, rfl, rfl, rfl, rfl, rfl, rfl, rfl, rfl, rfl, rfl, rfl, rfl, rfl, rfl⟩

@[simp] theorem hostStatusWrite_frame (v : BitVec 64) (secure : Bool) (s : State) :
    (hostStatusWrite v secure s).part = s.part ∧ (hostStatusWrite v secure s).pins = s.pins ∧ (hostStatusWrite v
    secure s).clock = s.clock ∧ (hostStatusWrite v secure s).boot = s.boot ∧ (hostStatusWrite v secure s).dev =
    s.dev ∧ (hostStatusWrite v secure s).faults = s.faults ∧ (hostStatusWrite v secure s).mbx = s.mbx ∧
    (hostStatusWrite v secure s).locks = s.locks ∧ (hostStatusWrite v secure s).ports = s.ports ∧ (hostStatusWrite v
    secure s).cmds = s.cmds ∧ (hostStatusWrite v secure s).graphs = s.graphs ∧ (hostStatusWrite v secure s).mem =
    s.mem ∧ (hostStatusWrite v secure s).stk = s.stk ∧ (hostStatusWrite v secure s).counts = s.counts ∧
    (hostStatusWrite v secure s).comp = s.comp ∧ (hostStatusWrite v secure s).banks = s.banks ∧ (hostStatusWrite v
    secure s).cairn = s.cairn ∧ (hostStatusWrite v secure s).therm = s.therm ∧ (hostStatusWrite v secure s).las =
    s.las ∧ (hostStatusWrite v secure s).chans = s.chans ∧ (hostStatusWrite v secure s).links = s.links ∧
    (hostStatusWrite v secure s).fab = s.fab ∧ (hostStatusWrite v secure s).d2d = s.d2d ∧ (hostStatusWrite v secure
    s).guest = s.guest ∧ (hostStatusWrite v secure s).sec = s.sec ∧ (hostStatusWrite v secure s).out = s.out ∧
    (hostStatusWrite v secure s).free = s.free ∧ (hostStatusWrite v secure s).pending = s.pending :=
  ⟨rfl, rfl, rfl, rfl, rfl, rfl, rfl, rfl, rfl, rfl, rfl, rfl, rfl, rfl, rfl, rfl, rfl, rfl, rfl, rfl, rfl, rfl, rfl, rfl, rfl, rfl, rfl, rfl⟩

@[simp] theorem mbxFwResetBegin_frame (s : State) :
    (mbxFwResetBegin s).part = s.part ∧ (mbxFwResetBegin s).pins = s.pins ∧ (mbxFwResetBegin s).clock = s.clock ∧
    (mbxFwResetBegin s).boot = s.boot ∧ (mbxFwResetBegin s).dev = s.dev ∧ (mbxFwResetBegin s).faults = s.faults ∧
    (mbxFwResetBegin s).db = s.db ∧ (mbxFwResetBegin s).locks = s.locks ∧ (mbxFwResetBegin s).ports = s.ports ∧
    (mbxFwResetBegin s).cmds = s.cmds ∧ (mbxFwResetBegin s).graphs = s.graphs ∧ (mbxFwResetBegin s).mem = s.mem ∧
    (mbxFwResetBegin s).stk = s.stk ∧ (mbxFwResetBegin s).counts = s.counts ∧ (mbxFwResetBegin s).comp = s.comp ∧
    (mbxFwResetBegin s).banks = s.banks ∧ (mbxFwResetBegin s).cairn = s.cairn ∧ (mbxFwResetBegin s).therm = s.therm
    ∧ (mbxFwResetBegin s).las = s.las ∧ (mbxFwResetBegin s).chans = s.chans ∧ (mbxFwResetBegin s).links = s.links ∧
    (mbxFwResetBegin s).fab = s.fab ∧ (mbxFwResetBegin s).d2d = s.d2d ∧ (mbxFwResetBegin s).guest = s.guest ∧
    (mbxFwResetBegin s).sec = s.sec ∧ (mbxFwResetBegin s).out = s.out ∧ (mbxFwResetBegin s).free = s.free ∧
    (mbxFwResetBegin s).pending = s.pending :=
  ⟨rfl, rfl, rfl, rfl, rfl, rfl, rfl, rfl, rfl, rfl, rfl, rfl, rfl, rfl, rfl, rfl, rfl, rfl, rfl, rfl, rfl, rfl, rfl, rfl, rfl, rfl, rfl, rfl⟩

@[simp] theorem mbxGuestResetBegin_frame (s : State) :
    (mbxGuestResetBegin s).part = s.part ∧ (mbxGuestResetBegin s).pins = s.pins ∧ (mbxGuestResetBegin s).clock =
    s.clock ∧ (mbxGuestResetBegin s).boot = s.boot ∧ (mbxGuestResetBegin s).dev = s.dev ∧ (mbxGuestResetBegin
    s).faults = s.faults ∧ (mbxGuestResetBegin s).db = s.db ∧ (mbxGuestResetBegin s).locks = s.locks ∧
    (mbxGuestResetBegin s).ports = s.ports ∧ (mbxGuestResetBegin s).cmds = s.cmds ∧ (mbxGuestResetBegin s).graphs =
    s.graphs ∧ (mbxGuestResetBegin s).mem = s.mem ∧ (mbxGuestResetBegin s).stk = s.stk ∧ (mbxGuestResetBegin
    s).counts = s.counts ∧ (mbxGuestResetBegin s).comp = s.comp ∧ (mbxGuestResetBegin s).banks = s.banks ∧
    (mbxGuestResetBegin s).cairn = s.cairn ∧ (mbxGuestResetBegin s).therm = s.therm ∧ (mbxGuestResetBegin s).las =
    s.las ∧ (mbxGuestResetBegin s).chans = s.chans ∧ (mbxGuestResetBegin s).links = s.links ∧ (mbxGuestResetBegin
    s).fab = s.fab ∧ (mbxGuestResetBegin s).d2d = s.d2d ∧ (mbxGuestResetBegin s).guest = s.guest ∧
    (mbxGuestResetBegin s).sec = s.sec ∧ (mbxGuestResetBegin s).out = s.out ∧ (mbxGuestResetBegin s).free = s.free ∧
    (mbxGuestResetBegin s).pending = s.pending :=
  ⟨rfl, rfl, rfl, rfl, rfl, rfl, rfl, rfl, rfl, rfl, rfl, rfl, rfl, rfl, rfl, rfl, rfl, rfl, rfl, rfl, rfl, rfl, rfl, rfl, rfl, rfl, rfl, rfl⟩

@[simp] theorem mbxHostReset_frame (s : State) :
    (mbxHostReset s).part = s.part ∧ (mbxHostReset s).pins = s.pins ∧ (mbxHostReset s).clock = s.clock ∧
    (mbxHostReset s).boot = s.boot ∧ (mbxHostReset s).dev = s.dev ∧ (mbxHostReset s).faults = s.faults ∧
    (mbxHostReset s).db = s.db ∧ (mbxHostReset s).locks = s.locks ∧ (mbxHostReset s).ports = s.ports ∧ (mbxHostReset
    s).cmds = s.cmds ∧ (mbxHostReset s).graphs = s.graphs ∧ (mbxHostReset s).mem = s.mem ∧ (mbxHostReset s).stk =
    s.stk ∧ (mbxHostReset s).counts = s.counts ∧ (mbxHostReset s).comp = s.comp ∧ (mbxHostReset s).banks = s.banks ∧
    (mbxHostReset s).cairn = s.cairn ∧ (mbxHostReset s).therm = s.therm ∧ (mbxHostReset s).las = s.las ∧
    (mbxHostReset s).chans = s.chans ∧ (mbxHostReset s).links = s.links ∧ (mbxHostReset s).fab = s.fab ∧
    (mbxHostReset s).d2d = s.d2d ∧ (mbxHostReset s).guest = s.guest ∧ (mbxHostReset s).sec = s.sec ∧ (mbxHostReset
    s).out = s.out ∧ (mbxHostReset s).free = s.free ∧ (mbxHostReset s).pending = s.pending :=
  ⟨rfl, rfl, rfl, rfl, rfl, rfl, rfl, rfl, rfl, rfl, rfl, rfl, rfl, rfl, rfl, rfl, rfl, rfl, rfl, rfl, rfl, rfl, rfl, rfl, rfl, rfl, rfl, rfl⟩

@[simp] theorem releaseLocks_frame (ids : List (BitVec 8)) (s : State) :
    (releaseLocks ids s).part = s.part ∧ (releaseLocks ids s).pins = s.pins ∧ (releaseLocks ids s).clock = s.clock ∧
    (releaseLocks ids s).boot = s.boot ∧ (releaseLocks ids s).dev = s.dev ∧ (releaseLocks ids s).faults = s.faults ∧
    (releaseLocks ids s).mbx = s.mbx ∧ (releaseLocks ids s).db = s.db ∧ (releaseLocks ids s).ports = s.ports ∧
    (releaseLocks ids s).cmds = s.cmds ∧ (releaseLocks ids s).graphs = s.graphs ∧ (releaseLocks ids s).mem = s.mem ∧
    (releaseLocks ids s).stk = s.stk ∧ (releaseLocks ids s).counts = s.counts ∧ (releaseLocks ids s).comp = s.comp ∧
    (releaseLocks ids s).banks = s.banks ∧ (releaseLocks ids s).cairn = s.cairn ∧ (releaseLocks ids s).therm =
    s.therm ∧ (releaseLocks ids s).las = s.las ∧ (releaseLocks ids s).chans = s.chans ∧ (releaseLocks ids s).links =
    s.links ∧ (releaseLocks ids s).fab = s.fab ∧ (releaseLocks ids s).d2d = s.d2d ∧ (releaseLocks ids s).guest =
    s.guest ∧ (releaseLocks ids s).sec = s.sec ∧ (releaseLocks ids s).out = s.out ∧ (releaseLocks ids s).free =
    s.free ∧ (releaseLocks ids s).pending = s.pending :=
  ⟨rfl, rfl, rfl, rfl, rfl, rfl, rfl, rfl, rfl, rfl, rfl, rfl, rfl, rfl, rfl, rfl, rfl, rfl, rfl, rfl, rfl, rfl, rfl, rfl, rfl, rfl, rfl, rfl⟩

@[simp] theorem cacheSet_frame (a : ℕ) (v : Option RlcLine) (s : State) :
    (cacheSet a v s).part = s.part ∧ (cacheSet a v s).pins = s.pins ∧ (cacheSet a v s).clock = s.clock ∧ (cacheSet a
    v s).boot = s.boot ∧ (cacheSet a v s).dev = s.dev ∧ (cacheSet a v s).faults = s.faults ∧ (cacheSet a v s).mbx =
    s.mbx ∧ (cacheSet a v s).db = s.db ∧ (cacheSet a v s).locks = s.locks ∧ (cacheSet a v s).ports = s.ports ∧
    (cacheSet a v s).cmds = s.cmds ∧ (cacheSet a v s).graphs = s.graphs ∧ (cacheSet a v s).stk = s.stk ∧ (cacheSet a
    v s).counts = s.counts ∧ (cacheSet a v s).comp = s.comp ∧ (cacheSet a v s).banks = s.banks ∧ (cacheSet a v
    s).cairn = s.cairn ∧ (cacheSet a v s).therm = s.therm ∧ (cacheSet a v s).las = s.las ∧ (cacheSet a v s).chans =
    s.chans ∧ (cacheSet a v s).links = s.links ∧ (cacheSet a v s).fab = s.fab ∧ (cacheSet a v s).d2d = s.d2d ∧
    (cacheSet a v s).guest = s.guest ∧ (cacheSet a v s).sec = s.sec ∧ (cacheSet a v s).out = s.out ∧ (cacheSet a v
    s).free = s.free ∧ (cacheSet a v s).pending = s.pending :=
  ⟨rfl, rfl, rfl, rfl, rfl, rfl, rfl, rfl, rfl, rfl, rfl, rfl, rfl, rfl, rfl, rfl, rfl, rfl, rfl, rfl, rfl, rfl, rfl, rfl, rfl, rfl, rfl, rfl⟩

@[simp] theorem cmPut_frame (k : ℕ) (b : Byte) (s : State) :
    (cmPut k b s).part = s.part ∧ (cmPut k b s).pins = s.pins ∧ (cmPut k b s).clock = s.clock ∧ (cmPut k b s).boot =
    s.boot ∧ (cmPut k b s).dev = s.dev ∧ (cmPut k b s).faults = s.faults ∧ (cmPut k b s).mbx = s.mbx ∧ (cmPut k b
    s).db = s.db ∧ (cmPut k b s).locks = s.locks ∧ (cmPut k b s).ports = s.ports ∧ (cmPut k b s).cmds = s.cmds ∧
    (cmPut k b s).graphs = s.graphs ∧ (cmPut k b s).stk = s.stk ∧ (cmPut k b s).counts = s.counts ∧ (cmPut k b
    s).comp = s.comp ∧ (cmPut k b s).banks = s.banks ∧ (cmPut k b s).cairn = s.cairn ∧ (cmPut k b s).therm = s.therm
    ∧ (cmPut k b s).las = s.las ∧ (cmPut k b s).chans = s.chans ∧ (cmPut k b s).links = s.links ∧ (cmPut k b s).fab
    = s.fab ∧ (cmPut k b s).d2d = s.d2d ∧ (cmPut k b s).guest = s.guest ∧ (cmPut k b s).sec = s.sec ∧ (cmPut k b
    s).out = s.out ∧ (cmPut k b s).free = s.free ∧ (cmPut k b s).pending = s.pending :=
  ⟨rfl, rfl, rfl, rfl, rfl, rfl, rfl, rfl, rfl, rfl, rfl, rfl, rfl, rfl, rfl, rfl, rfl, rfl, rfl, rfl, rfl, rfl, rfl, rfl, rfl, rfl, rfl, rfl⟩

@[simp] theorem dirSet_frame (a : ℕ) (d : ℕ) (s : State) :
    (dirSet a d s).part = s.part ∧ (dirSet a d s).pins = s.pins ∧ (dirSet a d s).clock = s.clock ∧ (dirSet a d
    s).boot = s.boot ∧ (dirSet a d s).dev = s.dev ∧ (dirSet a d s).faults = s.faults ∧ (dirSet a d s).mbx = s.mbx ∧
    (dirSet a d s).db = s.db ∧ (dirSet a d s).locks = s.locks ∧ (dirSet a d s).ports = s.ports ∧ (dirSet a d s).cmds
    = s.cmds ∧ (dirSet a d s).graphs = s.graphs ∧ (dirSet a d s).stk = s.stk ∧ (dirSet a d s).counts = s.counts ∧
    (dirSet a d s).comp = s.comp ∧ (dirSet a d s).banks = s.banks ∧ (dirSet a d s).cairn = s.cairn ∧ (dirSet a d
    s).therm = s.therm ∧ (dirSet a d s).las = s.las ∧ (dirSet a d s).chans = s.chans ∧ (dirSet a d s).links =
    s.links ∧ (dirSet a d s).fab = s.fab ∧ (dirSet a d s).d2d = s.d2d ∧ (dirSet a d s).guest = s.guest ∧ (dirSet a d
    s).sec = s.sec ∧ (dirSet a d s).out = s.out ∧ (dirSet a d s).free = s.free ∧ (dirSet a d s).pending = s.pending :=
  ⟨rfl, rfl, rfl, rfl, rfl, rfl, rfl, rfl, rfl, rfl, rfl, rfl, rfl, rfl, rfl, rfl, rfl, rfl, rfl, rfl, rfl, rfl, rfl, rfl, rfl, rfl, rfl, rfl⟩

@[simp] theorem dramClean_frame (a : ℕ) (n : ℕ) (s : State) :
    (dramClean a n s).part = s.part ∧ (dramClean a n s).pins = s.pins ∧ (dramClean a n s).clock = s.clock ∧
    (dramClean a n s).boot = s.boot ∧ (dramClean a n s).dev = s.dev ∧ (dramClean a n s).faults = s.faults ∧
    (dramClean a n s).mbx = s.mbx ∧ (dramClean a n s).db = s.db ∧ (dramClean a n s).locks = s.locks ∧ (dramClean a n
    s).ports = s.ports ∧ (dramClean a n s).cmds = s.cmds ∧ (dramClean a n s).graphs = s.graphs ∧ (dramClean a n
    s).stk = s.stk ∧ (dramClean a n s).counts = s.counts ∧ (dramClean a n s).comp = s.comp ∧ (dramClean a n s).banks
    = s.banks ∧ (dramClean a n s).cairn = s.cairn ∧ (dramClean a n s).therm = s.therm ∧ (dramClean a n s).las =
    s.las ∧ (dramClean a n s).chans = s.chans ∧ (dramClean a n s).links = s.links ∧ (dramClean a n s).fab = s.fab ∧
    (dramClean a n s).d2d = s.d2d ∧ (dramClean a n s).guest = s.guest ∧ (dramClean a n s).sec = s.sec ∧ (dramClean a
    n s).out = s.out ∧ (dramClean a n s).free = s.free ∧ (dramClean a n s).pending = s.pending :=
  ⟨rfl, rfl, rfl, rfl, rfl, rfl, rfl, rfl, rfl, rfl, rfl, rfl, rfl, rfl, rfl, rfl, rfl, rfl, rfl, rfl, rfl, rfl, rfl, rfl, rfl, rfl, rfl, rfl⟩

@[simp] theorem lsPut_frame (k : ℕ) (b : Byte) (s : State) :
    (lsPut k b s).part = s.part ∧ (lsPut k b s).pins = s.pins ∧ (lsPut k b s).clock = s.clock ∧ (lsPut k b s).boot =
    s.boot ∧ (lsPut k b s).dev = s.dev ∧ (lsPut k b s).faults = s.faults ∧ (lsPut k b s).mbx = s.mbx ∧ (lsPut k b
    s).db = s.db ∧ (lsPut k b s).locks = s.locks ∧ (lsPut k b s).ports = s.ports ∧ (lsPut k b s).cmds = s.cmds ∧
    (lsPut k b s).graphs = s.graphs ∧ (lsPut k b s).stk = s.stk ∧ (lsPut k b s).counts = s.counts ∧ (lsPut k b
    s).comp = s.comp ∧ (lsPut k b s).banks = s.banks ∧ (lsPut k b s).cairn = s.cairn ∧ (lsPut k b s).therm = s.therm
    ∧ (lsPut k b s).las = s.las ∧ (lsPut k b s).chans = s.chans ∧ (lsPut k b s).links = s.links ∧ (lsPut k b s).fab
    = s.fab ∧ (lsPut k b s).d2d = s.d2d ∧ (lsPut k b s).guest = s.guest ∧ (lsPut k b s).sec = s.sec ∧ (lsPut k b
    s).out = s.out ∧ (lsPut k b s).free = s.free ∧ (lsPut k b s).pending = s.pending :=
  ⟨rfl, rfl, rfl, rfl, rfl, rfl, rfl, rfl, rfl, rfl, rfl, rfl, rfl, rfl, rfl, rfl, rfl, rfl, rfl, rfl, rfl, rfl, rfl, rfl, rfl, rfl, rfl, rfl⟩

@[simp] theorem stackGone_frame (k : ℕ) (s : State) :
    (stackGone k s).part = s.part ∧ (stackGone k s).pins = s.pins ∧ (stackGone k s).clock = s.clock ∧ (stackGone k
    s).boot = s.boot ∧ (stackGone k s).dev = s.dev ∧ (stackGone k s).faults = s.faults ∧ (stackGone k s).mbx = s.mbx
    ∧ (stackGone k s).db = s.db ∧ (stackGone k s).locks = s.locks ∧ (stackGone k s).ports = s.ports ∧ (stackGone k
    s).cmds = s.cmds ∧ (stackGone k s).graphs = s.graphs ∧ (stackGone k s).stk = s.stk ∧ (stackGone k s).counts =
    s.counts ∧ (stackGone k s).comp = s.comp ∧ (stackGone k s).banks = s.banks ∧ (stackGone k s).cairn = s.cairn ∧
    (stackGone k s).therm = s.therm ∧ (stackGone k s).las = s.las ∧ (stackGone k s).chans = s.chans ∧ (stackGone k
    s).links = s.links ∧ (stackGone k s).fab = s.fab ∧ (stackGone k s).d2d = s.d2d ∧ (stackGone k s).guest = s.guest
    ∧ (stackGone k s).sec = s.sec ∧ (stackGone k s).out = s.out ∧ (stackGone k s).free = s.free ∧ (stackGone k
    s).pending = s.pending :=
  ⟨rfl, rfl, rfl, rfl, rfl, rfl, rfl, rfl, rfl, rfl, rfl, rfl, rfl, rfl, rfl, rfl, rfl, rfl, rfl, rfl, rfl, rfl, rfl, rfl, rfl, rfl, rfl, rfl⟩

@[simp] theorem discard_frame (i : ℕ) (s : State) :
    (discard i s).part = s.part ∧ (discard i s).pins = s.pins ∧ (discard i s).clock = s.clock ∧ (discard i s).boot =
    s.boot ∧ (discard i s).dev = s.dev ∧ (discard i s).faults = s.faults ∧ (discard i s).mbx = s.mbx ∧ (discard i
    s).db = s.db ∧ (discard i s).locks = s.locks ∧ (discard i s).cmds = s.cmds ∧ (discard i s).graphs = s.graphs ∧
    (discard i s).mem = s.mem ∧ (discard i s).stk = s.stk ∧ (discard i s).counts = s.counts ∧ (discard i s).comp =
    s.comp ∧ (discard i s).banks = s.banks ∧ (discard i s).cairn = s.cairn ∧ (discard i s).therm = s.therm ∧
    (discard i s).las = s.las ∧ (discard i s).chans = s.chans ∧ (discard i s).links = s.links ∧ (discard i s).fab =
    s.fab ∧ (discard i s).d2d = s.d2d ∧ (discard i s).guest = s.guest ∧ (discard i s).sec = s.sec ∧ (discard i
    s).out = s.out ∧ (discard i s).free = s.free ∧ (discard i s).pending = s.pending :=
  ⟨rfl, rfl, rfl, rfl, rfl, rfl, rfl, rfl, rfl, rfl, rfl, rfl, rfl, rfl, rfl, rfl, rfl, rfl, rfl, rfl, rfl, rfl, rfl, rfl, rfl, rfl, rfl, rfl⟩

@[simp] theorem dropHwin_frame (seq : BitVec 32) (s : State) :
    (dropHwin seq s).part = s.part ∧ (dropHwin seq s).pins = s.pins ∧ (dropHwin seq s).clock = s.clock ∧ (dropHwin
    seq s).boot = s.boot ∧ (dropHwin seq s).dev = s.dev ∧ (dropHwin seq s).faults = s.faults ∧ (dropHwin seq s).mbx
    = s.mbx ∧ (dropHwin seq s).db = s.db ∧ (dropHwin seq s).locks = s.locks ∧ (dropHwin seq s).cmds = s.cmds ∧
    (dropHwin seq s).graphs = s.graphs ∧ (dropHwin seq s).mem = s.mem ∧ (dropHwin seq s).stk = s.stk ∧ (dropHwin seq
    s).counts = s.counts ∧ (dropHwin seq s).comp = s.comp ∧ (dropHwin seq s).banks = s.banks ∧ (dropHwin seq
    s).cairn = s.cairn ∧ (dropHwin seq s).therm = s.therm ∧ (dropHwin seq s).las = s.las ∧ (dropHwin seq s).chans =
    s.chans ∧ (dropHwin seq s).links = s.links ∧ (dropHwin seq s).fab = s.fab ∧ (dropHwin seq s).d2d = s.d2d ∧
    (dropHwin seq s).guest = s.guest ∧ (dropHwin seq s).sec = s.sec ∧ (dropHwin seq s).out = s.out ∧ (dropHwin seq
    s).free = s.free ∧ (dropHwin seq s).pending = s.pending :=
  ⟨rfl, rfl, rfl, rfl, rfl, rfl, rfl, rfl, rfl, rfl, rfl, rfl, rfl, rfl, rfl, rfl, rfl, rfl, rfl, rfl, rfl, rfl, rfl, rfl, rfl, rfl, rfl, rfl⟩

@[simp] theorem portEvent_frame (i : ℕ) (s : State) :
    (portEvent i s).part = s.part ∧ (portEvent i s).pins = s.pins ∧ (portEvent i s).clock = s.clock ∧ (portEvent i
    s).boot = s.boot ∧ (portEvent i s).dev = s.dev ∧ (portEvent i s).faults = s.faults ∧ (portEvent i s).mbx = s.mbx
    ∧ (portEvent i s).db = s.db ∧ (portEvent i s).locks = s.locks ∧ (portEvent i s).cmds = s.cmds ∧ (portEvent i
    s).graphs = s.graphs ∧ (portEvent i s).mem = s.mem ∧ (portEvent i s).stk = s.stk ∧ (portEvent i s).counts =
    s.counts ∧ (portEvent i s).comp = s.comp ∧ (portEvent i s).banks = s.banks ∧ (portEvent i s).cairn = s.cairn ∧
    (portEvent i s).therm = s.therm ∧ (portEvent i s).las = s.las ∧ (portEvent i s).chans = s.chans ∧ (portEvent i
    s).links = s.links ∧ (portEvent i s).fab = s.fab ∧ (portEvent i s).d2d = s.d2d ∧ (portEvent i s).guest = s.guest
    ∧ (portEvent i s).sec = s.sec ∧ (portEvent i s).out = s.out ∧ (portEvent i s).free = s.free ∧ (portEvent i
    s).pending = s.pending :=
  ⟨rfl, rfl, rfl, rfl, rfl, rfl, rfl, rfl, rfl, rfl, rfl, rfl, rfl, rfl, rfl, rfl, rfl, rfl, rfl, rfl, rfl, rfl, rfl, rfl, rfl, rfl, rfl, rfl⟩

@[simp] theorem recordSeq_frame (p : Port) (f : Frame) (s : State) :
    (recordSeq p f s).part = s.part ∧ (recordSeq p f s).pins = s.pins ∧ (recordSeq p f s).clock = s.clock ∧
    (recordSeq p f s).boot = s.boot ∧ (recordSeq p f s).dev = s.dev ∧ (recordSeq p f s).faults = s.faults ∧
    (recordSeq p f s).mbx = s.mbx ∧ (recordSeq p f s).db = s.db ∧ (recordSeq p f s).locks = s.locks ∧ (recordSeq p f
    s).cmds = s.cmds ∧ (recordSeq p f s).graphs = s.graphs ∧ (recordSeq p f s).mem = s.mem ∧ (recordSeq p f s).stk =
    s.stk ∧ (recordSeq p f s).counts = s.counts ∧ (recordSeq p f s).comp = s.comp ∧ (recordSeq p f s).banks =
    s.banks ∧ (recordSeq p f s).cairn = s.cairn ∧ (recordSeq p f s).therm = s.therm ∧ (recordSeq p f s).las = s.las
    ∧ (recordSeq p f s).chans = s.chans ∧ (recordSeq p f s).links = s.links ∧ (recordSeq p f s).fab = s.fab ∧
    (recordSeq p f s).d2d = s.d2d ∧ (recordSeq p f s).guest = s.guest ∧ (recordSeq p f s).sec = s.sec ∧ (recordSeq p
    f s).out = s.out ∧ (recordSeq p f s).free = s.free ∧ (recordSeq p f s).pending = s.pending :=
  ⟨rfl, rfl, rfl, rfl, rfl, rfl, rfl, rfl, rfl, rfl, rfl, rfl, rfl, rfl, rfl, rfl, rfl, rfl, rfl, rfl, rfl, rfl, rfl, rfl, rfl, rfl, rfl, rfl⟩

@[simp] theorem recountCopy_frame (p : Port) (f : Frame) (s : State) :
    (recountCopy p f s).part = s.part ∧ (recountCopy p f s).pins = s.pins ∧ (recountCopy p f s).clock = s.clock ∧
    (recountCopy p f s).boot = s.boot ∧ (recountCopy p f s).dev = s.dev ∧ (recountCopy p f s).faults = s.faults ∧
    (recountCopy p f s).mbx = s.mbx ∧ (recountCopy p f s).db = s.db ∧ (recountCopy p f s).locks = s.locks ∧
    (recountCopy p f s).cmds = s.cmds ∧ (recountCopy p f s).graphs = s.graphs ∧ (recountCopy p f s).mem = s.mem ∧
    (recountCopy p f s).stk = s.stk ∧ (recountCopy p f s).counts = s.counts ∧ (recountCopy p f s).comp = s.comp ∧
    (recountCopy p f s).banks = s.banks ∧ (recountCopy p f s).cairn = s.cairn ∧ (recountCopy p f s).therm = s.therm
    ∧ (recountCopy p f s).las = s.las ∧ (recountCopy p f s).chans = s.chans ∧ (recountCopy p f s).links = s.links ∧
    (recountCopy p f s).fab = s.fab ∧ (recountCopy p f s).d2d = s.d2d ∧ (recountCopy p f s).guest = s.guest ∧
    (recountCopy p f s).sec = s.sec ∧ (recountCopy p f s).out = s.out ∧ (recountCopy p f s).free = s.free ∧
    (recountCopy p f s).pending = s.pending :=
  ⟨rfl, rfl, rfl, rfl, rfl, rfl, rfl, rfl, rfl, rfl, rfl, rfl, rfl, rfl, rfl, rfl, rfl, rfl, rfl, rfl, rfl, rfl, rfl, rfl, rfl, rfl, rfl, rfl⟩

@[simp] theorem trackGap_frame (s : State) :
    (trackGap s).part = s.part ∧ (trackGap s).pins = s.pins ∧ (trackGap s).clock = s.clock ∧ (trackGap s).boot =
    s.boot ∧ (trackGap s).dev = s.dev ∧ (trackGap s).faults = s.faults ∧ (trackGap s).mbx = s.mbx ∧ (trackGap s).db
    = s.db ∧ (trackGap s).locks = s.locks ∧ (trackGap s).cmds = s.cmds ∧ (trackGap s).graphs = s.graphs ∧ (trackGap
    s).mem = s.mem ∧ (trackGap s).stk = s.stk ∧ (trackGap s).counts = s.counts ∧ (trackGap s).comp = s.comp ∧
    (trackGap s).banks = s.banks ∧ (trackGap s).cairn = s.cairn ∧ (trackGap s).therm = s.therm ∧ (trackGap s).las =
    s.las ∧ (trackGap s).chans = s.chans ∧ (trackGap s).links = s.links ∧ (trackGap s).fab = s.fab ∧ (trackGap
    s).d2d = s.d2d ∧ (trackGap s).guest = s.guest ∧ (trackGap s).sec = s.sec ∧ (trackGap s).out = s.out ∧ (trackGap
    s).free = s.free ∧ (trackGap s).pending = s.pending :=
  ⟨rfl, rfl, rfl, rfl, rfl, rfl, rfl, rfl, rfl, rfl, rfl, rfl, rfl, rfl, rfl, rfl, rfl, rfl, rfl, rfl, rfl, rfl, rfl, rfl, rfl, rfl, rfl, rfl⟩

@[simp] theorem bankSet_frame (p : ℕ) (c : ℕ) (b : Bank) (s : State) :
    (bankSet p c b s).part = s.part ∧ (bankSet p c b s).pins = s.pins ∧ (bankSet p c b s).clock = s.clock ∧ (bankSet
    p c b s).boot = s.boot ∧ (bankSet p c b s).dev = s.dev ∧ (bankSet p c b s).faults = s.faults ∧ (bankSet p c b
    s).mbx = s.mbx ∧ (bankSet p c b s).db = s.db ∧ (bankSet p c b s).locks = s.locks ∧ (bankSet p c b s).ports =
    s.ports ∧ (bankSet p c b s).cmds = s.cmds ∧ (bankSet p c b s).graphs = s.graphs ∧ (bankSet p c b s).mem = s.mem
    ∧ (bankSet p c b s).stk = s.stk ∧ (bankSet p c b s).counts = s.counts ∧ (bankSet p c b s).comp = s.comp ∧
    (bankSet p c b s).cairn = s.cairn ∧ (bankSet p c b s).therm = s.therm ∧ (bankSet p c b s).las = s.las ∧ (bankSet
    p c b s).chans = s.chans ∧ (bankSet p c b s).links = s.links ∧ (bankSet p c b s).fab = s.fab ∧ (bankSet p c b
    s).d2d = s.d2d ∧ (bankSet p c b s).guest = s.guest ∧ (bankSet p c b s).sec = s.sec ∧ (bankSet p c b s).out =
    s.out ∧ (bankSet p c b s).free = s.free ∧ (bankSet p c b s).pending = s.pending :=
  ⟨rfl, rfl, rfl, rfl, rfl, rfl, rfl, rfl, rfl, rfl, rfl, rfl, rfl, rfl, rfl, rfl, rfl, rfl, rfl, rfl, rfl, rfl, rfl, rfl, rfl, rfl, rfl, rfl⟩

@[simp] theorem clusterSet_frame (p : ℕ) (x : ClusterSt) (s : State) :
    (clusterSet p x s).part = s.part ∧ (clusterSet p x s).pins = s.pins ∧ (clusterSet p x s).clock = s.clock ∧
    (clusterSet p x s).boot = s.boot ∧ (clusterSet p x s).dev = s.dev ∧ (clusterSet p x s).faults = s.faults ∧
    (clusterSet p x s).mbx = s.mbx ∧ (clusterSet p x s).db = s.db ∧ (clusterSet p x s).locks = s.locks ∧ (clusterSet
    p x s).ports = s.ports ∧ (clusterSet p x s).cmds = s.cmds ∧ (clusterSet p x s).graphs = s.graphs ∧ (clusterSet p
    x s).mem = s.mem ∧ (clusterSet p x s).stk = s.stk ∧ (clusterSet p x s).counts = s.counts ∧ (clusterSet p x
    s).banks = s.banks ∧ (clusterSet p x s).cairn = s.cairn ∧ (clusterSet p x s).therm = s.therm ∧ (clusterSet p x
    s).las = s.las ∧ (clusterSet p x s).chans = s.chans ∧ (clusterSet p x s).links = s.links ∧ (clusterSet p x
    s).fab = s.fab ∧ (clusterSet p x s).d2d = s.d2d ∧ (clusterSet p x s).guest = s.guest ∧ (clusterSet p x s).sec =
    s.sec ∧ (clusterSet p x s).out = s.out ∧ (clusterSet p x s).free = s.free ∧ (clusterSet p x s).pending =
    s.pending :=
  ⟨rfl, rfl, rfl, rfl, rfl, rfl, rfl, rfl, rfl, rfl, rfl, rfl, rfl, rfl, rfl, rfl, rfl, rfl, rfl, rfl, rfl, rfl, rfl, rfl, rfl, rfl, rfl, rfl⟩

@[simp] theorem coreSet_frame (p : ℕ) (c : ℕ) (x : CoreSt) (s : State) :
    (coreSet p c x s).part = s.part ∧ (coreSet p c x s).pins = s.pins ∧ (coreSet p c x s).clock = s.clock ∧ (coreSet
    p c x s).boot = s.boot ∧ (coreSet p c x s).dev = s.dev ∧ (coreSet p c x s).faults = s.faults ∧ (coreSet p c x
    s).mbx = s.mbx ∧ (coreSet p c x s).db = s.db ∧ (coreSet p c x s).locks = s.locks ∧ (coreSet p c x s).ports =
    s.ports ∧ (coreSet p c x s).cmds = s.cmds ∧ (coreSet p c x s).graphs = s.graphs ∧ (coreSet p c x s).mem = s.mem
    ∧ (coreSet p c x s).stk = s.stk ∧ (coreSet p c x s).counts = s.counts ∧ (coreSet p c x s).banks = s.banks ∧
    (coreSet p c x s).cairn = s.cairn ∧ (coreSet p c x s).therm = s.therm ∧ (coreSet p c x s).las = s.las ∧ (coreSet
    p c x s).chans = s.chans ∧ (coreSet p c x s).links = s.links ∧ (coreSet p c x s).fab = s.fab ∧ (coreSet p c x
    s).d2d = s.d2d ∧ (coreSet p c x s).guest = s.guest ∧ (coreSet p c x s).sec = s.sec ∧ (coreSet p c x s).out =
    s.out ∧ (coreSet p c x s).free = s.free ∧ (coreSet p c x s).pending = s.pending :=
  ⟨rfl, rfl, rfl, rfl, rfl, rfl, rfl, rfl, rfl, rfl, rfl, rfl, rfl, rfl, rfl, rfl, rfl, rfl, rfl, rfl, rfl, rfl, rfl, rfl, rfl, rfl, rfl, rfl⟩

@[simp] theorem mapRunning_frame (f : Graph → Execution → Execution) (s : State) :
    (mapRunning f s).part = s.part ∧ (mapRunning f s).pins = s.pins ∧ (mapRunning f s).clock = s.clock ∧ (mapRunning
    f s).boot = s.boot ∧ (mapRunning f s).dev = s.dev ∧ (mapRunning f s).faults = s.faults ∧ (mapRunning f s).mbx =
    s.mbx ∧ (mapRunning f s).db = s.db ∧ (mapRunning f s).locks = s.locks ∧ (mapRunning f s).ports = s.ports ∧
    (mapRunning f s).cmds = s.cmds ∧ (mapRunning f s).mem = s.mem ∧ (mapRunning f s).stk = s.stk ∧ (mapRunning f
    s).counts = s.counts ∧ (mapRunning f s).comp = s.comp ∧ (mapRunning f s).banks = s.banks ∧ (mapRunning f
    s).cairn = s.cairn ∧ (mapRunning f s).therm = s.therm ∧ (mapRunning f s).las = s.las ∧ (mapRunning f s).chans =
    s.chans ∧ (mapRunning f s).links = s.links ∧ (mapRunning f s).fab = s.fab ∧ (mapRunning f s).d2d = s.d2d ∧
    (mapRunning f s).guest = s.guest ∧ (mapRunning f s).sec = s.sec ∧ (mapRunning f s).out = s.out ∧ (mapRunning f
    s).free = s.free ∧ (mapRunning f s).pending = s.pending :=
  ⟨rfl, rfl, rfl, rfl, rfl, rfl, rfl, rfl, rfl, rfl, rfl, rfl, rfl, rfl, rfl, rfl, rfl, rfl, rfl, rfl, rfl, rfl, rfl, rfl, rfl, rfl, rfl, rfl⟩

@[simp] theorem slotSet_frame (i : ℕ) (g : Graph) (s : State) :
    (slotSet i g s).part = s.part ∧ (slotSet i g s).pins = s.pins ∧ (slotSet i g s).clock = s.clock ∧ (slotSet i g
    s).boot = s.boot ∧ (slotSet i g s).dev = s.dev ∧ (slotSet i g s).faults = s.faults ∧ (slotSet i g s).mbx = s.mbx
    ∧ (slotSet i g s).db = s.db ∧ (slotSet i g s).locks = s.locks ∧ (slotSet i g s).ports = s.ports ∧ (slotSet i g
    s).cmds = s.cmds ∧ (slotSet i g s).mem = s.mem ∧ (slotSet i g s).stk = s.stk ∧ (slotSet i g s).counts = s.counts
    ∧ (slotSet i g s).comp = s.comp ∧ (slotSet i g s).banks = s.banks ∧ (slotSet i g s).cairn = s.cairn ∧ (slotSet i
    g s).therm = s.therm ∧ (slotSet i g s).las = s.las ∧ (slotSet i g s).chans = s.chans ∧ (slotSet i g s).links =
    s.links ∧ (slotSet i g s).fab = s.fab ∧ (slotSet i g s).d2d = s.d2d ∧ (slotSet i g s).guest = s.guest ∧ (slotSet
    i g s).sec = s.sec ∧ (slotSet i g s).out = s.out ∧ (slotSet i g s).free = s.free ∧ (slotSet i g s).pending =
    s.pending :=
  ⟨rfl, rfl, rfl, rfl, rfl, rfl, rfl, rfl, rfl, rfl, rfl, rfl, rfl, rfl, rfl, rfl, rfl, rfl, rfl, rfl, rfl, rfl, rfl, rfl, rfl, rfl, rfl, rfl⟩

@[simp] theorem fabCount_frame (i : ℕ) (s : State) :
    (fabCount i s).part = s.part ∧ (fabCount i s).pins = s.pins ∧ (fabCount i s).clock = s.clock ∧ (fabCount i
    s).boot = s.boot ∧ (fabCount i s).dev = s.dev ∧ (fabCount i s).faults = s.faults ∧ (fabCount i s).mbx = s.mbx ∧
    (fabCount i s).db = s.db ∧ (fabCount i s).locks = s.locks ∧ (fabCount i s).ports = s.ports ∧ (fabCount i s).cmds
    = s.cmds ∧ (fabCount i s).graphs = s.graphs ∧ (fabCount i s).mem = s.mem ∧ (fabCount i s).stk = s.stk ∧
    (fabCount i s).counts = s.counts ∧ (fabCount i s).comp = s.comp ∧ (fabCount i s).banks = s.banks ∧ (fabCount i
    s).cairn = s.cairn ∧ (fabCount i s).therm = s.therm ∧ (fabCount i s).las = s.las ∧ (fabCount i s).chans =
    s.chans ∧ (fabCount i s).links = s.links ∧ (fabCount i s).d2d = s.d2d ∧ (fabCount i s).guest = s.guest ∧
    (fabCount i s).sec = s.sec ∧ (fabCount i s).out = s.out ∧ (fabCount i s).free = s.free ∧ (fabCount i s).pending
    = s.pending :=
  ⟨rfl, rfl, rfl, rfl, rfl, rfl, rfl, rfl, rfl, rfl, rfl, rfl, rfl, rfl, rfl, rfl, rfl, rfl, rfl, rfl, rfl, rfl, rfl, rfl, rfl, rfl, rfl, rfl⟩

@[simp] theorem groupRestart_frame (g : ℕ) (s : State) :
    (groupRestart g s).part = s.part ∧ (groupRestart g s).pins = s.pins ∧ (groupRestart g s).clock = s.clock ∧
    (groupRestart g s).boot = s.boot ∧ (groupRestart g s).dev = s.dev ∧ (groupRestart g s).faults = s.faults ∧
    (groupRestart g s).mbx = s.mbx ∧ (groupRestart g s).db = s.db ∧ (groupRestart g s).locks = s.locks ∧
    (groupRestart g s).ports = s.ports ∧ (groupRestart g s).cmds = s.cmds ∧ (groupRestart g s).graphs = s.graphs ∧
    (groupRestart g s).mem = s.mem ∧ (groupRestart g s).stk = s.stk ∧ (groupRestart g s).counts = s.counts ∧
    (groupRestart g s).comp = s.comp ∧ (groupRestart g s).banks = s.banks ∧ (groupRestart g s).cairn = s.cairn ∧
    (groupRestart g s).therm = s.therm ∧ (groupRestart g s).las = s.las ∧ (groupRestart g s).chans = s.chans ∧
    (groupRestart g s).links = s.links ∧ (groupRestart g s).d2d = s.d2d ∧ (groupRestart g s).guest = s.guest ∧
    (groupRestart g s).sec = s.sec ∧ (groupRestart g s).out = s.out ∧ (groupRestart g s).free = s.free ∧
    (groupRestart g s).pending = s.pending :=
  ⟨rfl, rfl, rfl, rfl, rfl, rfl, rfl, rfl, rfl, rfl, rfl, rfl, rfl, rfl, rfl, rfl, rfl, rfl, rfl, rfl, rfl, rfl, rfl, rfl, rfl, rfl, rfl, rfl⟩

@[simp] theorem outSet_frame (g : ℕ) (v : ℕ) (q : List Flit) (s : State) :
    (outSet g v q s).part = s.part ∧ (outSet g v q s).pins = s.pins ∧ (outSet g v q s).clock = s.clock ∧ (outSet g v
    q s).boot = s.boot ∧ (outSet g v q s).dev = s.dev ∧ (outSet g v q s).faults = s.faults ∧ (outSet g v q s).mbx =
    s.mbx ∧ (outSet g v q s).db = s.db ∧ (outSet g v q s).locks = s.locks ∧ (outSet g v q s).ports = s.ports ∧
    (outSet g v q s).cmds = s.cmds ∧ (outSet g v q s).graphs = s.graphs ∧ (outSet g v q s).mem = s.mem ∧ (outSet g v
    q s).stk = s.stk ∧ (outSet g v q s).counts = s.counts ∧ (outSet g v q s).comp = s.comp ∧ (outSet g v q s).banks
    = s.banks ∧ (outSet g v q s).cairn = s.cairn ∧ (outSet g v q s).therm = s.therm ∧ (outSet g v q s).las = s.las ∧
    (outSet g v q s).chans = s.chans ∧ (outSet g v q s).links = s.links ∧ (outSet g v q s).d2d = s.d2d ∧ (outSet g v
    q s).guest = s.guest ∧ (outSet g v q s).sec = s.sec ∧ (outSet g v q s).out = s.out ∧ (outSet g v q s).free =
    s.free ∧ (outSet g v q s).pending = s.pending :=
  ⟨rfl, rfl, rfl, rfl, rfl, rfl, rfl, rfl, rfl, rfl, rfl, rfl, rfl, rfl, rfl, rfl, rfl, rfl, rfl, rfl, rfl, rfl, rfl, rfl, rfl, rfl, rfl, rfl⟩

@[simp] theorem askSet_frame (pkg : ℕ) (vc : ℕ) (e : Option CreditAsk) (s : State) :
    (askSet pkg vc e s).part = s.part ∧ (askSet pkg vc e s).pins = s.pins ∧ (askSet pkg vc e s).clock = s.clock ∧
    (askSet pkg vc e s).boot = s.boot ∧ (askSet pkg vc e s).dev = s.dev ∧ (askSet pkg vc e s).faults = s.faults ∧
    (askSet pkg vc e s).mbx = s.mbx ∧ (askSet pkg vc e s).db = s.db ∧ (askSet pkg vc e s).locks = s.locks ∧ (askSet
    pkg vc e s).ports = s.ports ∧ (askSet pkg vc e s).cmds = s.cmds ∧ (askSet pkg vc e s).graphs = s.graphs ∧
    (askSet pkg vc e s).mem = s.mem ∧ (askSet pkg vc e s).stk = s.stk ∧ (askSet pkg vc e s).counts = s.counts ∧
    (askSet pkg vc e s).comp = s.comp ∧ (askSet pkg vc e s).banks = s.banks ∧ (askSet pkg vc e s).cairn = s.cairn ∧
    (askSet pkg vc e s).therm = s.therm ∧ (askSet pkg vc e s).las = s.las ∧ (askSet pkg vc e s).chans = s.chans ∧
    (askSet pkg vc e s).links = s.links ∧ (askSet pkg vc e s).d2d = s.d2d ∧ (askSet pkg vc e s).guest = s.guest ∧
    (askSet pkg vc e s).sec = s.sec ∧ (askSet pkg vc e s).out = s.out ∧ (askSet pkg vc e s).free = s.free ∧ (askSet
    pkg vc e s).pending = s.pending :=
  ⟨rfl, rfl, rfl, rfl, rfl, rfl, rfl, rfl, rfl, rfl, rfl, rfl, rfl, rfl, rfl, rfl, rfl, rfl, rfl, rfl, rfl, rfl, rfl, rfl, rfl, rfl, rfl, rfl⟩

@[simp] theorem dstSet_frame (pkg : ℕ) (vc : ℕ) (e : Option CreditEntry) (s : State) :
    (dstSet pkg vc e s).part = s.part ∧ (dstSet pkg vc e s).pins = s.pins ∧ (dstSet pkg vc e s).clock = s.clock ∧
    (dstSet pkg vc e s).boot = s.boot ∧ (dstSet pkg vc e s).dev = s.dev ∧ (dstSet pkg vc e s).faults = s.faults ∧
    (dstSet pkg vc e s).mbx = s.mbx ∧ (dstSet pkg vc e s).db = s.db ∧ (dstSet pkg vc e s).locks = s.locks ∧ (dstSet
    pkg vc e s).ports = s.ports ∧ (dstSet pkg vc e s).cmds = s.cmds ∧ (dstSet pkg vc e s).graphs = s.graphs ∧
    (dstSet pkg vc e s).mem = s.mem ∧ (dstSet pkg vc e s).stk = s.stk ∧ (dstSet pkg vc e s).counts = s.counts ∧
    (dstSet pkg vc e s).comp = s.comp ∧ (dstSet pkg vc e s).banks = s.banks ∧ (dstSet pkg vc e s).cairn = s.cairn ∧
    (dstSet pkg vc e s).therm = s.therm ∧ (dstSet pkg vc e s).las = s.las ∧ (dstSet pkg vc e s).chans = s.chans ∧
    (dstSet pkg vc e s).links = s.links ∧ (dstSet pkg vc e s).d2d = s.d2d ∧ (dstSet pkg vc e s).guest = s.guest ∧
    (dstSet pkg vc e s).sec = s.sec ∧ (dstSet pkg vc e s).out = s.out ∧ (dstSet pkg vc e s).free = s.free ∧ (dstSet
    pkg vc e s).pending = s.pending :=
  ⟨rfl, rfl, rfl, rfl, rfl, rfl, rfl, rfl, rfl, rfl, rfl, rfl, rfl, rfl, rfl, rfl, rfl, rfl, rfl, rfl, rfl, rfl, rfl, rfl, rfl, rfl, rfl, rfl⟩

@[simp] theorem srcSet_frame (pkg : ℕ) (vc : ℕ) (e : Option CreditEntry) (s : State) :
    (srcSet pkg vc e s).part = s.part ∧ (srcSet pkg vc e s).pins = s.pins ∧ (srcSet pkg vc e s).clock = s.clock ∧
    (srcSet pkg vc e s).boot = s.boot ∧ (srcSet pkg vc e s).dev = s.dev ∧ (srcSet pkg vc e s).faults = s.faults ∧
    (srcSet pkg vc e s).mbx = s.mbx ∧ (srcSet pkg vc e s).db = s.db ∧ (srcSet pkg vc e s).locks = s.locks ∧ (srcSet
    pkg vc e s).ports = s.ports ∧ (srcSet pkg vc e s).cmds = s.cmds ∧ (srcSet pkg vc e s).graphs = s.graphs ∧
    (srcSet pkg vc e s).mem = s.mem ∧ (srcSet pkg vc e s).stk = s.stk ∧ (srcSet pkg vc e s).counts = s.counts ∧
    (srcSet pkg vc e s).comp = s.comp ∧ (srcSet pkg vc e s).banks = s.banks ∧ (srcSet pkg vc e s).cairn = s.cairn ∧
    (srcSet pkg vc e s).therm = s.therm ∧ (srcSet pkg vc e s).las = s.las ∧ (srcSet pkg vc e s).chans = s.chans ∧
    (srcSet pkg vc e s).links = s.links ∧ (srcSet pkg vc e s).d2d = s.d2d ∧ (srcSet pkg vc e s).guest = s.guest ∧
    (srcSet pkg vc e s).sec = s.sec ∧ (srcSet pkg vc e s).out = s.out ∧ (srcSet pkg vc e s).free = s.free ∧ (srcSet
    pkg vc e s).pending = s.pending :=
  ⟨rfl, rfl, rfl, rfl, rfl, rfl, rfl, rfl, rfl, rfl, rfl, rfl, rfl, rfl, rfl, rfl, rfl, rfl, rfl, rfl, rfl, rfl, rfl, rfl, rfl, rfl, rfl, rfl⟩

@[simp] theorem putSlot_frame (f : Flank) (coll : ℕ) (chunk : ℕ) (x : Option RedSlot) (s : State) :
    (putSlot f coll chunk x s).part = s.part ∧ (putSlot f coll chunk x s).pins = s.pins ∧ (putSlot f coll chunk x
    s).clock = s.clock ∧ (putSlot f coll chunk x s).boot = s.boot ∧ (putSlot f coll chunk x s).dev = s.dev ∧
    (putSlot f coll chunk x s).faults = s.faults ∧ (putSlot f coll chunk x s).mbx = s.mbx ∧ (putSlot f coll chunk x
    s).db = s.db ∧ (putSlot f coll chunk x s).locks = s.locks ∧ (putSlot f coll chunk x s).ports = s.ports ∧
    (putSlot f coll chunk x s).cmds = s.cmds ∧ (putSlot f coll chunk x s).graphs = s.graphs ∧ (putSlot f coll chunk
    x s).mem = s.mem ∧ (putSlot f coll chunk x s).stk = s.stk ∧ (putSlot f coll chunk x s).counts = s.counts ∧
    (putSlot f coll chunk x s).comp = s.comp ∧ (putSlot f coll chunk x s).banks = s.banks ∧ (putSlot f coll chunk x
    s).cairn = s.cairn ∧ (putSlot f coll chunk x s).therm = s.therm ∧ (putSlot f coll chunk x s).las = s.las ∧
    (putSlot f coll chunk x s).chans = s.chans ∧ (putSlot f coll chunk x s).links = s.links ∧ (putSlot f coll chunk
    x s).d2d = s.d2d ∧ (putSlot f coll chunk x s).guest = s.guest ∧ (putSlot f coll chunk x s).sec = s.sec ∧
    (putSlot f coll chunk x s).out = s.out ∧ (putSlot f coll chunk x s).free = s.free ∧ (putSlot f coll chunk x
    s).pending = s.pending :=
  ⟨rfl, rfl, rfl, rfl, rfl, rfl, rfl, rfl, rfl, rfl, rfl, rfl, rfl, rfl, rfl, rfl, rfl, rfl, rfl, rfl, rfl, rfl, rfl, rfl, rfl, rfl, rfl, rfl⟩

@[simp] theorem laserSet_frame (i : ℕ) (x : Laser) (s : State) :
    (laserSet i x s).part = s.part ∧ (laserSet i x s).pins = s.pins ∧ (laserSet i x s).clock = s.clock ∧ (laserSet i
    x s).boot = s.boot ∧ (laserSet i x s).dev = s.dev ∧ (laserSet i x s).faults = s.faults ∧ (laserSet i x s).mbx =
    s.mbx ∧ (laserSet i x s).db = s.db ∧ (laserSet i x s).locks = s.locks ∧ (laserSet i x s).ports = s.ports ∧
    (laserSet i x s).cmds = s.cmds ∧ (laserSet i x s).graphs = s.graphs ∧ (laserSet i x s).mem = s.mem ∧ (laserSet i
    x s).stk = s.stk ∧ (laserSet i x s).counts = s.counts ∧ (laserSet i x s).comp = s.comp ∧ (laserSet i x s).banks
    = s.banks ∧ (laserSet i x s).cairn = s.cairn ∧ (laserSet i x s).therm = s.therm ∧ (laserSet i x s).chans =
    s.chans ∧ (laserSet i x s).links = s.links ∧ (laserSet i x s).fab = s.fab ∧ (laserSet i x s).d2d = s.d2d ∧
    (laserSet i x s).guest = s.guest ∧ (laserSet i x s).sec = s.sec ∧ (laserSet i x s).out = s.out ∧ (laserSet i x
    s).free = s.free ∧ (laserSet i x s).pending = s.pending :=
  ⟨rfl, rfl, rfl, rfl, rfl, rfl, rfl, rfl, rfl, rfl, rfl, rfl, rfl, rfl, rfl, rfl, rfl, rfl, rfl, rfl, rfl, rfl, rfl, rfl, rfl, rfl, rfl, rfl⟩

@[simp] theorem dirWait_frame (a : ℕ) (inval : Bool) (q : DirReq) (s : State) :
    (dirWait a inval q s).part = s.part ∧ (dirWait a inval q s).pins = s.pins ∧ (dirWait a inval q s).clock =
    s.clock ∧ (dirWait a inval q s).boot = s.boot ∧ (dirWait a inval q s).dev = s.dev ∧ (dirWait a inval q s).faults
    = s.faults ∧ (dirWait a inval q s).mbx = s.mbx ∧ (dirWait a inval q s).db = s.db ∧ (dirWait a inval q s).locks =
    s.locks ∧ (dirWait a inval q s).ports = s.ports ∧ (dirWait a inval q s).cmds = s.cmds ∧ (dirWait a inval q
    s).graphs = s.graphs ∧ (dirWait a inval q s).stk = s.stk ∧ (dirWait a inval q s).counts = s.counts ∧ (dirWait a
    inval q s).comp = s.comp ∧ (dirWait a inval q s).banks = s.banks ∧ (dirWait a inval q s).cairn = s.cairn ∧
    (dirWait a inval q s).therm = s.therm ∧ (dirWait a inval q s).las = s.las ∧ (dirWait a inval q s).chans =
    s.chans ∧ (dirWait a inval q s).links = s.links ∧ (dirWait a inval q s).fab = s.fab ∧ (dirWait a inval q s).d2d
    = s.d2d ∧ (dirWait a inval q s).guest = s.guest ∧ (dirWait a inval q s).sec = s.sec ∧ (dirWait a inval q s).out
    = s.out ∧ (dirWait a inval q s).free = s.free ∧ (dirWait a inval q s).pending = s.pending :=
  ⟨rfl, rfl, rfl, rfl, rfl, rfl, rfl, rfl, rfl, rfl, rfl, rfl, rfl, rfl, rfl, rfl, rfl, rfl, rfl, rfl, rfl, rfl, rfl, rfl, rfl, rfl, rfl, rfl⟩

@[simp] theorem markGone_frame (ll : ℕ) (k : ℕ) (s : State) :
    (markGone ll k s).part = s.part ∧ (markGone ll k s).pins = s.pins ∧ (markGone ll k s).clock = s.clock ∧
    (markGone ll k s).boot = s.boot ∧ (markGone ll k s).dev = s.dev ∧ (markGone ll k s).faults = s.faults ∧
    (markGone ll k s).mbx = s.mbx ∧ (markGone ll k s).db = s.db ∧ (markGone ll k s).locks = s.locks ∧ (markGone ll k
    s).ports = s.ports ∧ (markGone ll k s).cmds = s.cmds ∧ (markGone ll k s).graphs = s.graphs ∧ (markGone ll k
    s).mem = s.mem ∧ (markGone ll k s).stk = s.stk ∧ (markGone ll k s).counts = s.counts ∧ (markGone ll k s).comp =
    s.comp ∧ (markGone ll k s).banks = s.banks ∧ (markGone ll k s).cairn = s.cairn ∧ (markGone ll k s).therm =
    s.therm ∧ (markGone ll k s).chans = s.chans ∧ (markGone ll k s).links = s.links ∧ (markGone ll k s).fab = s.fab
    ∧ (markGone ll k s).d2d = s.d2d ∧ (markGone ll k s).guest = s.guest ∧ (markGone ll k s).sec = s.sec ∧ (markGone
    ll k s).out = s.out ∧ (markGone ll k s).free = s.free ∧ (markGone ll k s).pending = s.pending :=
  ⟨rfl, rfl, rfl, rfl, rfl, rfl, rfl, rfl, rfl, rfl, rfl, rfl, rfl, rfl, rfl, rfl, rfl, rfl, rfl, rfl, rfl, rfl, rfl, rfl, rfl, rfl, rfl, rfl⟩

@[simp] theorem setHandover_frame (ll : ℕ) (k : ℕ) (h : Option Handover) (s : State) :
    (setHandover ll k h s).part = s.part ∧ (setHandover ll k h s).pins = s.pins ∧ (setHandover ll k h s).clock =
    s.clock ∧ (setHandover ll k h s).boot = s.boot ∧ (setHandover ll k h s).dev = s.dev ∧ (setHandover ll k h
    s).faults = s.faults ∧ (setHandover ll k h s).mbx = s.mbx ∧ (setHandover ll k h s).db = s.db ∧ (setHandover ll k
    h s).locks = s.locks ∧ (setHandover ll k h s).ports = s.ports ∧ (setHandover ll k h s).cmds = s.cmds ∧
    (setHandover ll k h s).graphs = s.graphs ∧ (setHandover ll k h s).mem = s.mem ∧ (setHandover ll k h s).stk =
    s.stk ∧ (setHandover ll k h s).counts = s.counts ∧ (setHandover ll k h s).comp = s.comp ∧ (setHandover ll k h
    s).banks = s.banks ∧ (setHandover ll k h s).cairn = s.cairn ∧ (setHandover ll k h s).therm = s.therm ∧
    (setHandover ll k h s).chans = s.chans ∧ (setHandover ll k h s).links = s.links ∧ (setHandover ll k h s).fab =
    s.fab ∧ (setHandover ll k h s).d2d = s.d2d ∧ (setHandover ll k h s).guest = s.guest ∧ (setHandover ll k h s).sec
    = s.sec ∧ (setHandover ll k h s).out = s.out ∧ (setHandover ll k h s).free = s.free ∧ (setHandover ll k h
    s).pending = s.pending :=
  ⟨rfl, rfl, rfl, rfl, rfl, rfl, rfl, rfl, rfl, rfl, rfl, rfl, rfl, rfl, rfl, rfl, rfl, rfl, rfl, rfl, rfl, rfl, rfl, rfl, rfl, rfl, rfl, rfl⟩

@[simp] theorem fillsResume_frame (ns : ℕ) (s : State) :
    (fillsResume ns s).part = s.part ∧ (fillsResume ns s).pins = s.pins ∧ (fillsResume ns s).clock = s.clock ∧
    (fillsResume ns s).boot = s.boot ∧ (fillsResume ns s).dev = s.dev ∧ (fillsResume ns s).faults = s.faults ∧
    (fillsResume ns s).mbx = s.mbx ∧ (fillsResume ns s).db = s.db ∧ (fillsResume ns s).locks = s.locks ∧
    (fillsResume ns s).ports = s.ports ∧ (fillsResume ns s).cmds = s.cmds ∧ (fillsResume ns s).graphs = s.graphs ∧
    (fillsResume ns s).mem = s.mem ∧ (fillsResume ns s).stk = s.stk ∧ (fillsResume ns s).counts = s.counts ∧
    (fillsResume ns s).banks = s.banks ∧ (fillsResume ns s).cairn = s.cairn ∧ (fillsResume ns s).therm = s.therm ∧
    (fillsResume ns s).las = s.las ∧ (fillsResume ns s).chans = s.chans ∧ (fillsResume ns s).links = s.links ∧
    (fillsResume ns s).fab = s.fab ∧ (fillsResume ns s).d2d = s.d2d ∧ (fillsResume ns s).guest = s.guest ∧
    (fillsResume ns s).sec = s.sec ∧ (fillsResume ns s).out = s.out ∧ (fillsResume ns s).free = s.free ∧
    (fillsResume ns s).pending = s.pending :=
  ⟨rfl, rfl, rfl, rfl, rfl, rfl, rfl, rfl, rfl, rfl, rfl, rfl, rfl, rfl, rfl, rfl, rfl, rfl, rfl, rfl, rfl, rfl, rfl, rfl, rfl, rfl, rfl, rfl⟩

@[simp] theorem joinTake_frame (a : Accepted) (s : State) :
    (joinTake a s).part = s.part ∧ (joinTake a s).pins = s.pins ∧ (joinTake a s).clock = s.clock ∧ (joinTake a
    s).boot = s.boot ∧ (joinTake a s).dev = s.dev ∧ (joinTake a s).faults = s.faults ∧ (joinTake a s).mbx = s.mbx ∧
    (joinTake a s).db = s.db ∧ (joinTake a s).locks = s.locks ∧ (joinTake a s).ports = s.ports ∧ (joinTake a s).cmds
    = s.cmds ∧ (joinTake a s).graphs = s.graphs ∧ (joinTake a s).mem = s.mem ∧ (joinTake a s).stk = s.stk ∧
    (joinTake a s).counts = s.counts ∧ (joinTake a s).comp = s.comp ∧ (joinTake a s).banks = s.banks ∧ (joinTake a
    s).therm = s.therm ∧ (joinTake a s).las = s.las ∧ (joinTake a s).chans = s.chans ∧ (joinTake a s).links =
    s.links ∧ (joinTake a s).fab = s.fab ∧ (joinTake a s).d2d = s.d2d ∧ (joinTake a s).guest = s.guest ∧ (joinTake a
    s).sec = s.sec ∧ (joinTake a s).out = s.out ∧ (joinTake a s).free = s.free ∧ (joinTake a s).pending = s.pending :=
  ⟨rfl, rfl, rfl, rfl, rfl, rfl, rfl, rfl, rfl, rfl, rfl, rfl, rfl, rfl, rfl, rfl, rfl, rfl, rfl, rfl, rfl, rfl, rfl, rfl, rfl, rfl, rfl, rfl⟩

@[simp] theorem removeRecord_frame (i : ℕ) (r : FaultRec) (s : State) :
    (removeRecord i r s).part = s.part ∧ (removeRecord i r s).pins = s.pins ∧ (removeRecord i r s).clock = s.clock ∧
    (removeRecord i r s).boot = s.boot ∧ (removeRecord i r s).dev = s.dev ∧ (removeRecord i r s).mbx = s.mbx ∧
    (removeRecord i r s).db = s.db ∧ (removeRecord i r s).locks = s.locks ∧ (removeRecord i r s).ports = s.ports ∧
    (removeRecord i r s).cmds = s.cmds ∧ (removeRecord i r s).graphs = s.graphs ∧ (removeRecord i r s).mem = s.mem ∧
    (removeRecord i r s).stk = s.stk ∧ (removeRecord i r s).counts = s.counts ∧ (removeRecord i r s).comp = s.comp ∧
    (removeRecord i r s).banks = s.banks ∧ (removeRecord i r s).cairn = s.cairn ∧ (removeRecord i r s).therm =
    s.therm ∧ (removeRecord i r s).las = s.las ∧ (removeRecord i r s).chans = s.chans ∧ (removeRecord i r s).links =
    s.links ∧ (removeRecord i r s).fab = s.fab ∧ (removeRecord i r s).d2d = s.d2d ∧ (removeRecord i r s).guest =
    s.guest ∧ (removeRecord i r s).sec = s.sec ∧ (removeRecord i r s).out = s.out ∧ (removeRecord i r s).free =
    s.free ∧ (removeRecord i r s).pending = s.pending :=
  ⟨rfl, rfl, rfl, rfl, rfl, rfl, rfl, rfl, rfl, rfl, rfl, rfl, rfl, rfl, rfl, rfl, rfl, rfl, rfl, rfl, rfl, rfl, rfl, rfl, rfl, rfl, rfl, rfl⟩

@[simp] theorem zeroKind_frame (k : ℕ) (s : State) :
    (zeroKind k s).part = s.part ∧ (zeroKind k s).pins = s.pins ∧ (zeroKind k s).clock = s.clock ∧ (zeroKind k
    s).boot = s.boot ∧ (zeroKind k s).dev = s.dev ∧ (zeroKind k s).faults = s.faults ∧ (zeroKind k s).mbx = s.mbx ∧
    (zeroKind k s).db = s.db ∧ (zeroKind k s).locks = s.locks ∧ (zeroKind k s).ports = s.ports ∧ (zeroKind k s).cmds
    = s.cmds ∧ (zeroKind k s).graphs = s.graphs ∧ (zeroKind k s).mem = s.mem ∧ (zeroKind k s).stk = s.stk ∧
    (zeroKind k s).comp = s.comp ∧ (zeroKind k s).banks = s.banks ∧ (zeroKind k s).cairn = s.cairn ∧ (zeroKind k
    s).therm = s.therm ∧ (zeroKind k s).las = s.las ∧ (zeroKind k s).chans = s.chans ∧ (zeroKind k s).links =
    s.links ∧ (zeroKind k s).fab = s.fab ∧ (zeroKind k s).d2d = s.d2d ∧ (zeroKind k s).guest = s.guest ∧ (zeroKind k
    s).sec = s.sec ∧ (zeroKind k s).out = s.out ∧ (zeroKind k s).free = s.free ∧ (zeroKind k s).pending = s.pending :=
  ⟨rfl, rfl, rfl, rfl, rfl, rfl, rfl, rfl, rfl, rfl, rfl, rfl, rfl, rfl, rfl, rfl, rfl, rfl, rfl, rfl, rfl, rfl, rfl, rfl, rfl, rfl, rfl, rfl⟩

@[simp] theorem dropReceived_frame (g : Graph) (s : State) :
    (dropReceived g s).part = s.part ∧ (dropReceived g s).pins = s.pins ∧ (dropReceived g s).clock = s.clock ∧
    (dropReceived g s).boot = s.boot ∧ (dropReceived g s).dev = s.dev ∧ (dropReceived g s).faults = s.faults ∧
    (dropReceived g s).mbx = s.mbx ∧ (dropReceived g s).db = s.db ∧ (dropReceived g s).locks = s.locks ∧
    (dropReceived g s).ports = s.ports ∧ (dropReceived g s).cmds = s.cmds ∧ (dropReceived g s).graphs = s.graphs ∧
    (dropReceived g s).mem = s.mem ∧ (dropReceived g s).stk = s.stk ∧ (dropReceived g s).counts = s.counts ∧
    (dropReceived g s).comp = s.comp ∧ (dropReceived g s).banks = s.banks ∧ (dropReceived g s).cairn = s.cairn ∧
    (dropReceived g s).therm = s.therm ∧ (dropReceived g s).las = s.las ∧ (dropReceived g s).chans = s.chans ∧
    (dropReceived g s).links = s.links ∧ (dropReceived g s).d2d = s.d2d ∧ (dropReceived g s).guest = s.guest ∧
    (dropReceived g s).sec = s.sec ∧ (dropReceived g s).out = s.out ∧ (dropReceived g s).free = s.free ∧
    (dropReceived g s).pending = s.pending :=
  ⟨rfl, rfl, rfl, rfl, rfl, rfl, rfl, rfl, rfl, rfl, rfl, rfl, rfl, rfl, rfl, rfl, rfl, rfl, rfl, rfl, rfl, rfl, rfl, rfl, rfl, rfl, rfl, rfl⟩

@[simp] theorem noteAll_frame (a : Accepted) (hs : List (BitVec 32)) (s : State) :
    (noteAll a hs s).part = s.part ∧ (noteAll a hs s).pins = s.pins ∧ (noteAll a hs s).clock = s.clock ∧ (noteAll a
    hs s).boot = s.boot ∧ (noteAll a hs s).dev = s.dev ∧ (noteAll a hs s).faults = s.faults ∧ (noteAll a hs s).mbx =
    s.mbx ∧ (noteAll a hs s).db = s.db ∧ (noteAll a hs s).locks = s.locks ∧ (noteAll a hs s).ports = s.ports ∧
    (noteAll a hs s).cmds = s.cmds ∧ (noteAll a hs s).mem = s.mem ∧ (noteAll a hs s).stk = s.stk ∧ (noteAll a hs
    s).counts = s.counts ∧ (noteAll a hs s).comp = s.comp ∧ (noteAll a hs s).banks = s.banks ∧ (noteAll a hs
    s).cairn = s.cairn ∧ (noteAll a hs s).therm = s.therm ∧ (noteAll a hs s).las = s.las ∧ (noteAll a hs s).chans =
    s.chans ∧ (noteAll a hs s).links = s.links ∧ (noteAll a hs s).fab = s.fab ∧ (noteAll a hs s).d2d = s.d2d ∧
    (noteAll a hs s).guest = s.guest ∧ (noteAll a hs s).sec = s.sec ∧ (noteAll a hs s).out = s.out ∧ (noteAll a hs
    s).free = s.free ∧ (noteAll a hs s).pending = s.pending :=
  ⟨rfl, rfl, rfl, rfl, rfl, rfl, rfl, rfl, rfl, rfl, rfl, rfl, rfl, rfl, rfl, rfl, rfl, rfl, rfl, rfl, rfl, rfl, rfl, rfl, rfl, rfl, rfl, rfl⟩

@[simp] theorem dropFit_frame (w : FitWait) (s : State) :
    (dropFit w s).part = s.part ∧ (dropFit w s).pins = s.pins ∧ (dropFit w s).clock = s.clock ∧ (dropFit w s).boot =
    s.boot ∧ (dropFit w s).dev = s.dev ∧ (dropFit w s).faults = s.faults ∧ (dropFit w s).mbx = s.mbx ∧ (dropFit w
    s).db = s.db ∧ (dropFit w s).locks = s.locks ∧ (dropFit w s).ports = s.ports ∧ (dropFit w s).cmds = s.cmds ∧
    (dropFit w s).mem = s.mem ∧ (dropFit w s).stk = s.stk ∧ (dropFit w s).counts = s.counts ∧ (dropFit w s).comp =
    s.comp ∧ (dropFit w s).banks = s.banks ∧ (dropFit w s).cairn = s.cairn ∧ (dropFit w s).therm = s.therm ∧
    (dropFit w s).las = s.las ∧ (dropFit w s).chans = s.chans ∧ (dropFit w s).links = s.links ∧ (dropFit w s).fab =
    s.fab ∧ (dropFit w s).d2d = s.d2d ∧ (dropFit w s).guest = s.guest ∧ (dropFit w s).sec = s.sec ∧ (dropFit w
    s).out = s.out ∧ (dropFit w s).free = s.free ∧ (dropFit w s).pending = s.pending :=
  ⟨rfl, rfl, rfl, rfl, rfl, rfl, rfl, rfl, rfl, rfl, rfl, rfl, rfl, rfl, rfl, rfl, rfl, rfl, rfl, rfl, rfl, rfl, rfl, rfl, rfl, rfl, rfl, rfl⟩

@[simp] theorem markStale_frame (lo : ℕ) (hi : ℕ) (s : State) :
    (markStale lo hi s).part = s.part ∧ (markStale lo hi s).pins = s.pins ∧ (markStale lo hi s).clock = s.clock ∧
    (markStale lo hi s).boot = s.boot ∧ (markStale lo hi s).dev = s.dev ∧ (markStale lo hi s).faults = s.faults ∧
    (markStale lo hi s).mbx = s.mbx ∧ (markStale lo hi s).db = s.db ∧ (markStale lo hi s).locks = s.locks ∧
    (markStale lo hi s).ports = s.ports ∧ (markStale lo hi s).cmds = s.cmds ∧ (markStale lo hi s).mem = s.mem ∧
    (markStale lo hi s).stk = s.stk ∧ (markStale lo hi s).counts = s.counts ∧ (markStale lo hi s).comp = s.comp ∧
    (markStale lo hi s).banks = s.banks ∧ (markStale lo hi s).cairn = s.cairn ∧ (markStale lo hi s).therm = s.therm
    ∧ (markStale lo hi s).las = s.las ∧ (markStale lo hi s).chans = s.chans ∧ (markStale lo hi s).links = s.links ∧
    (markStale lo hi s).fab = s.fab ∧ (markStale lo hi s).d2d = s.d2d ∧ (markStale lo hi s).guest = s.guest ∧
    (markStale lo hi s).sec = s.sec ∧ (markStale lo hi s).out = s.out ∧ (markStale lo hi s).free = s.free ∧
    (markStale lo hi s).pending = s.pending :=
  ⟨rfl, rfl, rfl, rfl, rfl, rfl, rfl, rfl, rfl, rfl, rfl, rfl, rfl, rfl, rfl, rfl, rfl, rfl, rfl, rfl, rfl, rfl, rfl, rfl, rfl, rfl, rfl, rfl⟩

@[simp] theorem restartCompute_frame (f : Flank) (s : State) :
    (restartCompute f s).part = s.part ∧ (restartCompute f s).pins = s.pins ∧ (restartCompute f s).clock = s.clock ∧
    (restartCompute f s).boot = s.boot ∧ (restartCompute f s).dev = s.dev ∧ (restartCompute f s).faults = s.faults ∧
    (restartCompute f s).mbx = s.mbx ∧ (restartCompute f s).db = s.db ∧ (restartCompute f s).locks = s.locks ∧
    (restartCompute f s).cmds = s.cmds ∧ (restartCompute f s).graphs = s.graphs ∧ (restartCompute f s).stk = s.stk ∧
    (restartCompute f s).counts = s.counts ∧ (restartCompute f s).banks = s.banks ∧ (restartCompute f s).cairn =
    s.cairn ∧ (restartCompute f s).therm = s.therm ∧ (restartCompute f s).las = s.las ∧ (restartCompute f s).chans =
    s.chans ∧ (restartCompute f s).links = s.links ∧ (restartCompute f s).d2d = s.d2d ∧ (restartCompute f s).guest =
    s.guest ∧ (restartCompute f s).sec = s.sec ∧ (restartCompute f s).out = s.out ∧ (restartCompute f s).free =
    s.free ∧ (restartCompute f s).pending = s.pending :=
  ⟨rfl, rfl, rfl, rfl, rfl, rfl, rfl, rfl, rfl, rfl, rfl, rfl, rfl, rfl, rfl, rfl, rfl, rfl, rfl, rfl, rfl, rfl, rfl, rfl, rfl⟩

@[simp] theorem dropReq_frame (tag : BitVec 32) (s : State) :
    (dropReq tag s).part = s.part ∧ (dropReq tag s).pins = s.pins ∧ (dropReq tag s).clock = s.clock ∧ (dropReq tag
    s).boot = s.boot ∧ (dropReq tag s).dev = s.dev ∧ (dropReq tag s).faults = s.faults ∧ (dropReq tag s).mbx = s.mbx
    ∧ (dropReq tag s).db = s.db ∧ (dropReq tag s).locks = s.locks ∧ (dropReq tag s).ports = s.ports ∧ (dropReq tag
    s).cmds = s.cmds ∧ (dropReq tag s).graphs = s.graphs ∧ (dropReq tag s).mem = s.mem ∧ (dropReq tag s).stk = s.stk
    ∧ (dropReq tag s).counts = s.counts ∧ (dropReq tag s).comp = s.comp ∧ (dropReq tag s).banks = s.banks ∧ (dropReq
    tag s).cairn = s.cairn ∧ (dropReq tag s).therm = s.therm ∧ (dropReq tag s).las = s.las ∧ (dropReq tag s).chans =
    s.chans ∧ (dropReq tag s).links = s.links ∧ (dropReq tag s).d2d = s.d2d ∧ (dropReq tag s).guest = s.guest ∧
    (dropReq tag s).sec = s.sec ∧ (dropReq tag s).out = s.out ∧ (dropReq tag s).free = s.free ∧ (dropReq tag
    s).pending = s.pending :=
  ⟨rfl, rfl, rfl, rfl, rfl, rfl, rfl, rfl, rfl, rfl, rfl, rfl, rfl, rfl, rfl, rfl, rfl, rfl, rfl, rfl, rfl, rfl, rfl, rfl, rfl, rfl, rfl, rfl⟩

@[simp] theorem dropWaiting_frame (tag : BitVec 32) (s : State) :
    (dropWaiting tag s).part = s.part ∧ (dropWaiting tag s).pins = s.pins ∧ (dropWaiting tag s).clock = s.clock ∧
    (dropWaiting tag s).boot = s.boot ∧ (dropWaiting tag s).dev = s.dev ∧ (dropWaiting tag s).faults = s.faults ∧
    (dropWaiting tag s).mbx = s.mbx ∧ (dropWaiting tag s).db = s.db ∧ (dropWaiting tag s).locks = s.locks ∧
    (dropWaiting tag s).ports = s.ports ∧ (dropWaiting tag s).cmds = s.cmds ∧ (dropWaiting tag s).graphs = s.graphs
    ∧ (dropWaiting tag s).mem = s.mem ∧ (dropWaiting tag s).stk = s.stk ∧ (dropWaiting tag s).counts = s.counts ∧
    (dropWaiting tag s).comp = s.comp ∧ (dropWaiting tag s).banks = s.banks ∧ (dropWaiting tag s).cairn = s.cairn ∧
    (dropWaiting tag s).therm = s.therm ∧ (dropWaiting tag s).las = s.las ∧ (dropWaiting tag s).chans = s.chans ∧
    (dropWaiting tag s).links = s.links ∧ (dropWaiting tag s).d2d = s.d2d ∧ (dropWaiting tag s).guest = s.guest ∧
    (dropWaiting tag s).sec = s.sec ∧ (dropWaiting tag s).out = s.out ∧ (dropWaiting tag s).free = s.free ∧
    (dropWaiting tag s).pending = s.pending :=
  ⟨rfl, rfl, rfl, rfl, rfl, rfl, rfl, rfl, rfl, rfl, rfl, rfl, rfl, rfl, rfl, rfl, rfl, rfl, rfl, rfl, rfl, rfl, rfl, rfl, rfl, rfl, rfl, rfl⟩

@[simp] theorem electAfresh_frame (s : State) :
    (electAfresh s).part = s.part ∧ (electAfresh s).pins = s.pins ∧ (electAfresh s).boot = s.boot ∧ (electAfresh
    s).dev = s.dev ∧ (electAfresh s).faults = s.faults ∧ (electAfresh s).mbx = s.mbx ∧ (electAfresh s).db = s.db ∧
    (electAfresh s).locks = s.locks ∧ (electAfresh s).ports = s.ports ∧ (electAfresh s).cmds = s.cmds ∧ (electAfresh
    s).graphs = s.graphs ∧ (electAfresh s).mem = s.mem ∧ (electAfresh s).stk = s.stk ∧ (electAfresh s).counts =
    s.counts ∧ (electAfresh s).comp = s.comp ∧ (electAfresh s).banks = s.banks ∧ (electAfresh s).cairn = s.cairn ∧
    (electAfresh s).therm = s.therm ∧ (electAfresh s).las = s.las ∧ (electAfresh s).chans = s.chans ∧ (electAfresh
    s).links = s.links ∧ (electAfresh s).fab = s.fab ∧ (electAfresh s).d2d = s.d2d ∧ (electAfresh s).guest = s.guest
    ∧ (electAfresh s).sec = s.sec ∧ (electAfresh s).out = s.out ∧ (electAfresh s).free = s.free ∧ (electAfresh
    s).pending = s.pending :=
  ⟨rfl, rfl, rfl, rfl, rfl, rfl, rfl, rfl, rfl, rfl, rfl, rfl, rfl, rfl, rfl, rfl, rfl, rfl, rfl, rfl, rfl, rfl, rfl, rfl, rfl, rfl, rfl, rfl⟩

@[simp] theorem groupFlit_frame (m : ℕ) (s : State) :
    (groupFlit m s).part = s.part ∧ (groupFlit m s).pins = s.pins ∧ (groupFlit m s).clock = s.clock ∧ (groupFlit m
    s).boot = s.boot ∧ (groupFlit m s).dev = s.dev ∧ (groupFlit m s).faults = s.faults ∧ (groupFlit m s).mbx = s.mbx
    ∧ (groupFlit m s).db = s.db ∧ (groupFlit m s).locks = s.locks ∧ (groupFlit m s).ports = s.ports ∧ (groupFlit m
    s).cmds = s.cmds ∧ (groupFlit m s).graphs = s.graphs ∧ (groupFlit m s).mem = s.mem ∧ (groupFlit m s).stk = s.stk
    ∧ (groupFlit m s).counts = s.counts ∧ (groupFlit m s).comp = s.comp ∧ (groupFlit m s).banks = s.banks ∧
    (groupFlit m s).cairn = s.cairn ∧ (groupFlit m s).therm = s.therm ∧ (groupFlit m s).las = s.las ∧ (groupFlit m
    s).chans = s.chans ∧ (groupFlit m s).links = s.links ∧ (groupFlit m s).fab = s.fab ∧ (groupFlit m s).guest =
    s.guest ∧ (groupFlit m s).sec = s.sec ∧ (groupFlit m s).out = s.out ∧ (groupFlit m s).free = s.free ∧ (groupFlit
    m s).pending = s.pending :=
  ⟨rfl, rfl, rfl, rfl, rfl, rfl, rfl, rfl, rfl, rfl, rfl, rfl, rfl, rfl, rfl, rfl, rfl, rfl, rfl, rfl, rfl, rfl, rfl, rfl, rfl, rfl, rfl, rfl⟩

@[simp] theorem passTime_frame (elapsed : ℕ) (s : State) :
    (passTime elapsed s).part = s.part ∧ (passTime elapsed s).pins = s.pins ∧ (passTime elapsed s).boot = s.boot ∧
    (passTime elapsed s).dev = s.dev ∧ (passTime elapsed s).faults = s.faults ∧ (passTime elapsed s).mbx = s.mbx ∧
    (passTime elapsed s).db = s.db ∧ (passTime elapsed s).locks = s.locks ∧ (passTime elapsed s).ports = s.ports ∧
    (passTime elapsed s).cmds = s.cmds ∧ (passTime elapsed s).graphs = s.graphs ∧ (passTime elapsed s).mem = s.mem ∧
    (passTime elapsed s).stk = s.stk ∧ (passTime elapsed s).counts = s.counts ∧ (passTime elapsed s).comp = s.comp ∧
    (passTime elapsed s).banks = s.banks ∧ (passTime elapsed s).cairn = s.cairn ∧ (passTime elapsed s).therm =
    s.therm ∧ (passTime elapsed s).las = s.las ∧ (passTime elapsed s).chans = s.chans ∧ (passTime elapsed s).links =
    s.links ∧ (passTime elapsed s).fab = s.fab ∧ (passTime elapsed s).d2d = s.d2d ∧ (passTime elapsed s).guest =
    s.guest ∧ (passTime elapsed s).sec = s.sec ∧ (passTime elapsed s).out = s.out ∧ (passTime elapsed s).free =
    s.free ∧ (passTime elapsed s).pending = s.pending :=
  ⟨rfl, rfl, rfl, rfl, rfl, rfl, rfl, rfl, rfl, rfl, rfl, rfl, rfl, rfl, rfl, rfl, rfl, rfl, rfl, rfl, rfl, rfl, rfl, rfl, rfl, rfl, rfl, rfl⟩

@[simp] theorem countersOff_frame (f : Flank) (s : State) :
    (countersOff f s).part = s.part ∧ (countersOff f s).pins = s.pins ∧ (countersOff f s).clock = s.clock ∧
    (countersOff f s).boot = s.boot ∧ (countersOff f s).dev = s.dev ∧ (countersOff f s).faults = s.faults ∧
    (countersOff f s).mbx = s.mbx ∧ (countersOff f s).db = s.db ∧ (countersOff f s).locks = s.locks ∧ (countersOff f
    s).ports = s.ports ∧ (countersOff f s).cmds = s.cmds ∧ (countersOff f s).graphs = s.graphs ∧ (countersOff f
    s).mem = s.mem ∧ (countersOff f s).stk = s.stk ∧ (countersOff f s).comp = s.comp ∧ (countersOff f s).banks =
    s.banks ∧ (countersOff f s).cairn = s.cairn ∧ (countersOff f s).therm = s.therm ∧ (countersOff f s).las = s.las
    ∧ (countersOff f s).chans = s.chans ∧ (countersOff f s).links = s.links ∧ (countersOff f s).fab = s.fab ∧
    (countersOff f s).d2d = s.d2d ∧ (countersOff f s).guest = s.guest ∧ (countersOff f s).sec = s.sec ∧ (countersOff
    f s).out = s.out ∧ (countersOff f s).free = s.free ∧ (countersOff f s).pending = s.pending :=
  ⟨rfl, rfl, rfl, rfl, rfl, rfl, rfl, rfl, rfl, rfl, rfl, rfl, rfl, rfl, rfl, rfl, rfl, rfl, rfl, rfl, rfl, rfl, rfl, rfl, rfl, rfl, rfl, rfl⟩

@[simp] theorem firmwareLost_frame (s : State) :
    (firmwareLost s).part = s.part ∧ (firmwareLost s).pins = s.pins ∧ (firmwareLost s).clock = s.clock ∧
    (firmwareLost s).faults = s.faults ∧ (firmwareLost s).mbx = s.mbx ∧ (firmwareLost s).db = s.db ∧ (firmwareLost
    s).locks = s.locks ∧ (firmwareLost s).ports = s.ports ∧ (firmwareLost s).cmds = s.cmds ∧ (firmwareLost s).mem =
    s.mem ∧ (firmwareLost s).stk = s.stk ∧ (firmwareLost s).counts = s.counts ∧ (firmwareLost s).comp = s.comp ∧
    (firmwareLost s).banks = s.banks ∧ (firmwareLost s).las = s.las ∧ (firmwareLost s).chans = s.chans ∧
    (firmwareLost s).links = s.links ∧ (firmwareLost s).d2d = s.d2d ∧ (firmwareLost s).guest = s.guest ∧
    (firmwareLost s).sec = s.sec ∧ (firmwareLost s).out = s.out ∧ (firmwareLost s).free = s.free ∧ (firmwareLost
    s).pending = s.pending :=
  ⟨rfl, rfl, rfl, rfl, rfl, rfl, rfl, rfl, rfl, rfl, rfl, rfl, rfl, rfl, rfl, rfl, rfl, rfl, rfl, rfl, rfl, rfl, rfl⟩

@[simp] theorem skipLeaves_frame (s : State) :
    (skipLeaves s).part = s.part ∧ (skipLeaves s).pins = s.pins ∧ (skipLeaves s).clock = s.clock ∧ (skipLeaves
    s).boot = s.boot ∧ (skipLeaves s).dev = s.dev ∧ (skipLeaves s).faults = s.faults ∧ (skipLeaves s).mbx = s.mbx ∧
    (skipLeaves s).db = s.db ∧ (skipLeaves s).locks = s.locks ∧ (skipLeaves s).ports = s.ports ∧ (skipLeaves s).cmds
    = s.cmds ∧ (skipLeaves s).graphs = s.graphs ∧ (skipLeaves s).mem = s.mem ∧ (skipLeaves s).stk = s.stk ∧
    (skipLeaves s).counts = s.counts ∧ (skipLeaves s).comp = s.comp ∧ (skipLeaves s).banks = s.banks ∧ (skipLeaves
    s).cairn = s.cairn ∧ (skipLeaves s).therm = s.therm ∧ (skipLeaves s).las = s.las ∧ (skipLeaves s).chans =
    s.chans ∧ (skipLeaves s).links = s.links ∧ (skipLeaves s).fab = s.fab ∧ (skipLeaves s).d2d = s.d2d ∧ (skipLeaves
    s).guest = s.guest ∧ (skipLeaves s).out = s.out ∧ (skipLeaves s).free = s.free ∧ (skipLeaves s).pending =
    s.pending :=
  ⟨rfl, rfl, rfl, rfl, rfl, rfl, rfl, rfl, rfl, rfl, rfl, rfl, rfl, rfl, rfl, rfl, rfl, rfl, rfl, rfl, rfl, rfl, rfl, rfl, rfl, rfl, rfl, rfl⟩

@[simp] theorem priorityLoaded_frame (s : State) :
    (priorityLoaded s).part = s.part ∧ (priorityLoaded s).pins = s.pins ∧ (priorityLoaded s).boot = s.boot ∧
    (priorityLoaded s).dev = s.dev ∧ (priorityLoaded s).faults = s.faults ∧ (priorityLoaded s).mbx = s.mbx ∧
    (priorityLoaded s).db = s.db ∧ (priorityLoaded s).locks = s.locks ∧ (priorityLoaded s).ports = s.ports ∧
    (priorityLoaded s).cmds = s.cmds ∧ (priorityLoaded s).graphs = s.graphs ∧ (priorityLoaded s).mem = s.mem ∧
    (priorityLoaded s).stk = s.stk ∧ (priorityLoaded s).counts = s.counts ∧ (priorityLoaded s).comp = s.comp ∧
    (priorityLoaded s).banks = s.banks ∧ (priorityLoaded s).cairn = s.cairn ∧ (priorityLoaded s).therm = s.therm ∧
    (priorityLoaded s).las = s.las ∧ (priorityLoaded s).chans = s.chans ∧ (priorityLoaded s).links = s.links ∧
    (priorityLoaded s).fab = s.fab ∧ (priorityLoaded s).d2d = s.d2d ∧ (priorityLoaded s).guest = s.guest ∧
    (priorityLoaded s).sec = s.sec ∧ (priorityLoaded s).out = s.out ∧ (priorityLoaded s).free = s.free ∧
    (priorityLoaded s).pending = s.pending :=
  ⟨rfl, rfl, rfl, rfl, rfl, rfl, rfl, rfl, rfl, rfl, rfl, rfl, rfl, rfl, rfl, rfl, rfl, rfl, rfl, rfl, rfl, rfl, rfl, rfl, rfl, rfl, rfl, rfl⟩

@[simp] theorem suppliesBack_frame (s : State) :
    (suppliesBack s).part = s.part ∧ (suppliesBack s).boot = s.boot ∧ (suppliesBack s).dev = s.dev ∧ (suppliesBack
    s).faults = s.faults ∧ (suppliesBack s).mbx = s.mbx ∧ (suppliesBack s).db = s.db ∧ (suppliesBack s).locks =
    s.locks ∧ (suppliesBack s).ports = s.ports ∧ (suppliesBack s).cmds = s.cmds ∧ (suppliesBack s).graphs = s.graphs
    ∧ (suppliesBack s).mem = s.mem ∧ (suppliesBack s).stk = s.stk ∧ (suppliesBack s).counts = s.counts ∧
    (suppliesBack s).comp = s.comp ∧ (suppliesBack s).banks = s.banks ∧ (suppliesBack s).cairn = s.cairn ∧
    (suppliesBack s).therm = s.therm ∧ (suppliesBack s).las = s.las ∧ (suppliesBack s).chans = s.chans ∧
    (suppliesBack s).links = s.links ∧ (suppliesBack s).fab = s.fab ∧ (suppliesBack s).d2d = s.d2d ∧ (suppliesBack
    s).guest = s.guest ∧ (suppliesBack s).sec = s.sec ∧ (suppliesBack s).out = s.out ∧ (suppliesBack s).free =
    s.free ∧ (suppliesBack s).pending = s.pending :=
  ⟨rfl, rfl, rfl, rfl, rfl, rfl, rfl, rfl, rfl, rfl, rfl, rfl, rfl, rfl, rfl, rfl, rfl, rfl, rfl, rfl, rfl, rfl, rfl, rfl, rfl, rfl, rfl⟩

@[simp] theorem toStep_frame (n : ℕ) (s : State) :
    (toStep n s).part = s.part ∧ (toStep n s).pins = s.pins ∧ (toStep n s).clock = s.clock ∧ (toStep n s).dev =
    s.dev ∧ (toStep n s).faults = s.faults ∧ (toStep n s).mbx = s.mbx ∧ (toStep n s).db = s.db ∧ (toStep n s).locks
    = s.locks ∧ (toStep n s).ports = s.ports ∧ (toStep n s).cmds = s.cmds ∧ (toStep n s).graphs = s.graphs ∧ (toStep
    n s).mem = s.mem ∧ (toStep n s).stk = s.stk ∧ (toStep n s).counts = s.counts ∧ (toStep n s).comp = s.comp ∧
    (toStep n s).banks = s.banks ∧ (toStep n s).cairn = s.cairn ∧ (toStep n s).therm = s.therm ∧ (toStep n s).las =
    s.las ∧ (toStep n s).chans = s.chans ∧ (toStep n s).links = s.links ∧ (toStep n s).fab = s.fab ∧ (toStep n
    s).d2d = s.d2d ∧ (toStep n s).guest = s.guest ∧ (toStep n s).sec = s.sec ∧ (toStep n s).out = s.out ∧ (toStep n
    s).free = s.free ∧ (toStep n s).pending = s.pending :=
  ⟨rfl, rfl, rfl, rfl, rfl, rfl, rfl, rfl, rfl, rfl, rfl, rfl, rfl, rfl, rfl, rfl, rfl, rfl, rfl, rfl, rfl, rfl, rfl, rfl, rfl, rfl, rfl, rfl⟩

@[simp] theorem fwBitDone_frame (i : ℕ) (s : State) :
    (fwBitDone i s).part = s.part ∧ (fwBitDone i s).pins = s.pins ∧ (fwBitDone i s).clock = s.clock ∧ (fwBitDone i
    s).boot = s.boot ∧ (fwBitDone i s).dev = s.dev ∧ (fwBitDone i s).faults = s.faults ∧ (fwBitDone i s).mbx = s.mbx
    ∧ (fwBitDone i s).locks = s.locks ∧ (fwBitDone i s).ports = s.ports ∧ (fwBitDone i s).cmds = s.cmds ∧ (fwBitDone
    i s).graphs = s.graphs ∧ (fwBitDone i s).mem = s.mem ∧ (fwBitDone i s).stk = s.stk ∧ (fwBitDone i s).counts =
    s.counts ∧ (fwBitDone i s).comp = s.comp ∧ (fwBitDone i s).banks = s.banks ∧ (fwBitDone i s).cairn = s.cairn ∧
    (fwBitDone i s).therm = s.therm ∧ (fwBitDone i s).las = s.las ∧ (fwBitDone i s).chans = s.chans ∧ (fwBitDone i
    s).links = s.links ∧ (fwBitDone i s).fab = s.fab ∧ (fwBitDone i s).d2d = s.d2d ∧ (fwBitDone i s).guest = s.guest
    ∧ (fwBitDone i s).sec = s.sec ∧ (fwBitDone i s).out = s.out ∧ (fwBitDone i s).free = s.free ∧ (fwBitDone i
    s).pending = s.pending :=
  ⟨rfl, rfl, rfl, rfl, rfl, rfl, rfl, rfl, rfl, rfl, rfl, rfl, rfl, rfl, rfl, rfl, rfl, rfl, rfl, rfl, rfl, rfl, rfl, rfl, rfl, rfl, rfl, rfl⟩

end Sys2Proof.Machine
end

