-- ==== Sys2Proof/WellFormed.lean ====
section
/-!
DEFINITION. Well-formed commands and events: every index they carry names a unit, link, lane, channel or register that the
spec gives the G2. Commands of the host carry their own checks in the machine and are all well formed.
-/

namespace Sys2Proof

/-- The mailbox channels of R223. -/
def chanNamed : MbxChan → Bool
  | .host n => n < 24
  | .guest g => g < 4

/-- The laser instances of Table 11-6: link and port lasers 0x000–0x123, comb lasers 0x200–0x47F. -/
def isLaserInst (i : Nat) : Bool := i < 0x124 || (0x200 ≤ i && i < 0x480)

/-- Whether a command or event names only what exists. -/
def Instr.wf (x : Instr) : Bool :=
  match x with
  | .deviceInfo _ => true
  | .deviceStandby _ => true
  | .deviceWake _ _ => true
  | .deviceReset _ => true
  | .deviceLimit _ => true
  | .deviceWatchdog _ => true
  | .memSetMode _ => true
  | .memLend _ => true
  | .memLendLimit _ => true
  | .memReclaim _ => true
  | .loadBundle _ => true
  | .verifyBundle _ => true
  | .place _ => true
  | .start _ => true
  | .pause _ => true
  | .resume _ => true
  | .abort _ => true
  | .unload _ => true
  | .fabStatus _ => true
  | .fabConfig _ => true
  | .fabLinkCtrl _ => true
  | .countersEnable _ => true
  | .countersRead _ => true
  | .cairnArm _ => true
  | .cairnTake _ => true
  | .cairnRead _ => true
  | .faultRead _ => true
  | .faultClear _ => true
  | .faultForce _ => true
  | .ackSlowdown _ => true
  | .attest _ => true
  | .claimOwner _ => true
  | .fwUpdate _ => true
  | .hostFrameReceive _ _ => true
  | .skewLimitExpiry _ => true
  | .regRead _ _ => true
  | .regWrite _ _ => true
  | .bulkWrite _ _ => true
  | .bulkRead _ _ => true
  | .mboxPost _ _ => true
  | .resync _ _ => true
  | .hostCreditFrame _ _ => true
  | .gapTimerExpiry => true
  | .creditFrameTimer => true
  | .hostWindowAccess cluster _ off _ => decide (cluster < 660) && decide (off < 68719476736)
  | .hwinResponse _ _ => true
  | .hwinRetryTimer _ => true
  | .portLockLoss _ => true
  | .portActive _ => true
  | .portStableTimer _ => true
  | .mailboxWrite _ ch _ => chanNamed ch
  | .mailboxDrain _ ch => chanNamed ch
  | .firmwareMailboxPost ch _ => chanNamed ch
  | .dbFwRingChannel n _ => n < 24
  | .commandRing _ => true
  | .dbFwRingHostEpoch _ => true
  | .dbHostEpochWrite _ _ => true
  | .dbHostMaskWrite _ _ => true
  | .dbGuestRing _ => true
  | .firmwareDoorbellHandle => true
  | .lkLockRead _ k _ => k < 64
  | .lkLockWrite _ k _ _ => k < 64
  | .fltForceWrite _ _ => true
  | .fenceNow _ => true
  | .crnCtrlTake _ => true
  | .synCqConsumedWrite _ => true
  | .ringConfigWrite _ _ _ => true
  | .thThrottleWrite _ _ => true
  | .thGraceWrite _ _ => true
  | .cpSkewLimitWrite _ _ => true
  | .registerWrite _ _ _ => true
  | .managementRead _ => true
  | .announcement ch => ch < 24
  | .descriptorTake _ => true
  | .commandBegin _ => true
  | .completionPost => true
  | .watchdogExpiry => true
  | .executionBegin _ => true
  | .executionEnd _ => true
  | .pauseComplete _ => true
  | .abortComplete _ => true
  | .deadlineExpiry _ => true
  | .peerStartTimeout _ peer => peer < 1048576
  | .recvTimeout _ _ => true
  | .lenderTimeout pkg => pkg < 1048576
  | .thermalNoticeRepeat _ => true
  | .faultEvent _ => true
  | .cairnTrigger code _ => code < 7
  | .stallTimer p => p < 660
  | .cairnHoldComplete => true
  | .cairnRelease => true
  | .workItemPlace x _ => x < 640
  | .workItemTake p => p < 660
  | .engineOpIssue p c _ _ => decide (p < 660) && decide (c < 16)
  | .engineOpStart p c _ => decide (p < 660) && decide (c < 16)
  | .engineOpRetire p c _ => decide (p < 660) && decide (c < 16)
  | .workItemComplete p _ => p < 660
  | .remoteSyncIncrement p => p < 660
  | .creditUpdate _ => true
  | .clusterPowerGate p => p < 660
  | .clusterWake p => p < 660
  | .coreFailure p c => decide (p < 660) && decide (c < 16)
  | .clusterFailure p => p < 660
  | .pFillComplete p c => decide (p < 660) && decide (c < 16)
  | .pRunRetire p c => decide (p < 660) && decide (c < 16)
  | .bankPitchCheckStart p c => decide (p < 660) && decide (c < 16)
  | .bankCheckUrgent p c => decide (p < 660) && decide (c < 16)
  | .bankPitchCheckEnd p c _ => decide (p < 660) && decide (c < 16)
  | .bankRetuneWave _ => true
  | .bankRetuneDone p c _ => decide (p < 660) && decide (c < 16)
  | .bankOutOfRange p c => decide (p < 660) && decide (c < 16)
  | .bankBackInRange p c => decide (p < 660) && decide (c < 16)
  | .bankOverheat p c => decide (p < 660) && decide (c < 16)
  | .bankWalkIdentify p c r strongest => decide (p < 660) && decide (c < 16) && decide (r < 1056) && decide (strongest < 32)
  | .bankWalkOrder p c r => decide (p < 660) && decide (c < 16) && decide (r < 1056)
  | .bankWalkStep p c r => decide (p < 660) && decide (c < 16) && decide (r < 1056)
  | .bankWalkVerify p c r _ => decide (p < 660) && decide (c < 16) && decide (r < 1056)
  | .bankWalkTimeout p c r => decide (p < 660) && decide (c < 16) && decide (r < 1056)
  | .combSparePoint inst => isLaserInst inst
  | .combPauseRequest chip k => decide (chip < 4) && decide (k < 32)
  | .combHandoverPause chip k _ => decide (chip < 4) && decide (k < 32)
  | .combLineFailure inst => isLaserInst inst
  | .combChipletFailure chip => chip < 4
  | .laserSample inst _ _ => isLaserInst inst
  | .laserFailure inst => isLaserInst inst
  | .laserBandChange chip => chip < 13
  | .linkLaserSparePoint inst => isLaserInst inst
  | .linkSpareSwitch n k => decide (n < 8) && decide (k < 18)
  | .linkSpareVerified link k _ => decide (link < 32) && decide (k < 18)
  | .portLaserSwitch _ => true
  | .laneMove link lane a b _ => decide (link < 32) && decide (lane < 18) && decide (a < 18) && decide (b < 18)
  | .laneMoveAck link lane _ => decide (link < 32) && decide (lane < 18)
  | .laneMoveTimeout link lane => decide (link < 32) && decide (lane < 18)
  | .laneLossTimeout link lane => decide (link < 32) && decide (lane < 18)
  | .laneRetire link ch _ => decide (link < 32) && decide (ch < 18)
  | .channelErrorInterval inst _ => inst < 1152
  | .laneCheckDue inst => inst < 1152
  | .checkStart link ch => decide (link < 32) && decide (ch < 18)
  | .checkReport link _ => link < 32
  | .checkResult inst _ => inst < 1152
  | .chipletWalkIdentify inst strongest => decide (inst < 1152) && decide (strongest < 32)
  | .chipletWalkOrder inst => inst < 1152
  | .chipletWalkStep inst => inst < 1152
  | .chipletWalkVerify inst _ => inst < 1152
  | .chipletWalkTimeout inst => inst < 1152
  | .codewordSlot link => link < 32
  | .codewordReceive inst _ w => decide (inst < 1152) && decide (w.length = 272)
  | .channelLock inst _ => inst < 1152
  | .channelLockLoss inst => inst < 1152
  | .trainingAdvance link _ => link < 34
  | .trainingTimeout link => link < 32
  | .bivouacExitTimer link => link < 32
  | .activeAtReached link _ => link < 32
  | .noPeerTimer link => link < 32
  | .laneRetrain link _ => link < 32
  | .sleep link _ _ => link < 32
  | .wake link _ _ => link < 32
  | .beacon link ch _ => decide (link < 32) && decide (ch < 18)
  | .beaconMiss link ch => decide (link < 32) && decide (ch < 18)
  | .testStart inst pattern => decide (inst < 1152) && decide (pattern < 4)
  | .testEnd inst => inst < 1152
  | .laneTestDurationEnd link => link < 32
  | .flitReceive link _ => link < 32
  | .idleAckTimer link => link < 32
  | .replayTimer link => link < 32
  | .e2eCredit pkg vc _ _ => decide (pkg < 1048576) && (vc = 0 || vc = 2)
  | .e2eCreditTimer pkg vc => decide (pkg < 1048576) && (vc = 0 || vc = 2)
  | .creditReq pkg vc => decide (pkg < 1048576) && (vc = 0 || vc = 2)
  | .creditRetryTimer pkg vc => decide (pkg < 1048576) && (vc = 0 || vc = 2)
  | .entryIdleClose pkg vc => decide (pkg < 1048576) && (vc = 0 || vc = 2)
  | .closeAck pkg vc _ => decide (pkg < 1048576) && (vc = 0 || vc = 2)
  | .peerReadReq pkg _ _ r => decide (pkg < 1048576) && decide (r.bytes < 65536)
  | .peerWriteReq pkg _ _ data => decide (pkg < 1048576) && decide (data.length ≤ 192)
  | .sendData pkg _ _ _ _ => pkg < 1048576
  | .fabricResponse _ _ _ _ => true
  | .sysMessage pkg _ _ => pkg < 1048576
  | .fabricRequestTimeout _ => true
  | .widthReq link _ => link < 32
  | .widthAck link _ => link < 32
  | .widthSwitch link => link < 32
  | .linkLeavesActive link => link < 32
  | .collContrib _ g _ => g < 12
  | .collResult _ _ => true
  | .reductionSlotTimeout _ _ _ => true
  | .timeSyncSend => true
  | .timeSync link _ => link < 32
  | .timeHoldover => true
  | .timebaseUpdate _ => true
  | .d2dSlotReceive m d _ => decide (m < 141) && decide (d < 2)
  | .d2dAckWord m d _ => decide (m < 141) && decide (d < 2)
  | .d2dRetryTimer m d => decide (m < 141) && decide (d < 2)
  | .sidebandMessage m _ => m < 141
  | .sidebandRetryTimer m _ => m < 141
  | .moduleLinkUp m _ => m < 141
  | .moduleRetrain m d _ => decide (m < 141) && decide (d < 2)
  | .recalibrationTimer m => m < 141
  | .clockLost m => m < 141
  | .weightChange g => g < 20
  | .emptySlotInsert m d => decide (m < 141) && decide (d < 2)
  | .guestRead _ => true
  | .guestWrite _ _ _ => true
  | .resetReq => true
  | .temp _ _ => true
  | .guestTempTimeout => true
  | .guestFence => true
  | .dramRead _ _ _ => true
  | .dramWrite _ _ _ => true
  | .directoryRequest _ _ => true
  | .recallAnswer _ _ _ _ => true
  | .refresh stack ch bank _ => decide (stack < 8) && decide (ch < 32) && decide (bank < 1024)
  | .refreshBandChange stack => stack < 8
  | .scrubRead stack _ _ => stack < 8
  | .rowRepair stack ch bank _ => decide (stack < 8) && decide (ch < 32) && decide (bank < 1024)
  | .channelFailure stack ch _ => decide (stack < 8) && decide (ch < 32)
  | .lostMemoryRewrite => true
  | .sensorSample j _ => j < 1024
  | .graceExpiry _ => true
  | .enforcementGrid _ => true
  | .thermalRelease _ => true
  | .releaseRampTimer => true
  | .band4NomHoldEnd _ => true
  | .thermalShutdown => true
  | .powerLimiterTick _ => true
  | .limiterHeld => true
  | .railMoveDone _ => true
  | .railMoveFailure _ => true
  | .rctlAlert => true
  | .flankRailOutOfRange _ => true
  | .refclkLoss => true
  | .powerGoodLoss _ => true
  | .packageReset _ _ => true
  | .colReset => true
  | .flankSoftReset _ => true
  | .flankHardReset _ => true
  | .flankLoss _ => true
  | .colBoot _ => true
  | .nvmLoad _ => true
  | .agreementCheck _ => true
  | .verweustLinksStep _ => true
  | .memoryTraining _ => true
  | .laserWarmUp _ => true
  | .preHeat => true
  | .preHeatChipletReady _ => true
  | .preHeatTimeout => true
  | .ringLock _ => true
  | .clusterSelfTest _ => true
  | .fabricTraining => true
  | .bottomTreeReady => true
  | .dbgChallenge => true
  | .dbgToken _ => true
  | .boundaryScan _ _ => true
  | .sysResp pkg _ _ => pkg < 1048576
  | .invalidateAck _ => true
  | .recallRequest _ _ => true
  | .fwStaged => true
  | .lightArrival _ => true
  | .ringLockLoss inst _ => inst < 1152

end Sys2Proof
end

