-- ==== Sys2Proof/Tests/Slice0.lean ====
section
/-!
SUPPORT. Tests of the model: ill-formed terms that are refused, the worked examples of the spec, a few single steps, and for
each obligation with hypotheses a concrete state and operands that meet them, clause by clause.
-/

namespace Sys2Proof.Tests
open Sys2Proof Sys2Proof.Machine
set_option Elab.async false

/-- Ill-formed commands and events are refused, one for each check (1). -/
theorem test_wf_refuses_1 :
    ((Instr.hostWindowAccess 660 false 0 []).wf = false) ∧
    ((Instr.hostWindowAccess 0 false 68719476736 []).wf = false) ∧
    (∀ x0 : MbxAccess, (Instr.mailboxWrite x0 (.host 24) 0).wf = false) ∧
    (∀ x0 : MbxAccess, (Instr.mailboxWrite x0 (.guest 4) 0).wf = false) ∧
    (∀ x0 : MbxDrain, (Instr.mailboxDrain x0 (.host 24)).wf = false) ∧
    (∀ x0 : MbxDrain, (Instr.mailboxDrain x0 (.guest 4)).wf = false) ∧
    (∀ x0 : Option (BitVec 64), (Instr.firmwareMailboxPost (.host 24) x0).wf = false) ∧
    (∀ x0 : Option (BitVec 64), (Instr.firmwareMailboxPost (.guest 4) x0).wf = false) ∧
    (∀ x0 : Access, (Instr.dbFwRingChannel 24 x0).wf = false) ∧
    ((Instr.lkLockRead .cp0 64 false).wf = false) ∧
    ((Instr.lkLockWrite .cp0 64 0 false).wf = false) ∧
    ((Instr.announcement 24).wf = false) ∧
    ((Instr.peerStartTimeout 0 1048576).wf = false) ∧
    ((Instr.lenderTimeout 1048576).wf = false) ∧
    ((Instr.cairnTrigger 7 0).wf = false) ∧
    ((Instr.stallTimer 660).wf = false) ∧
    (∀ x0 : WorkItem, (Instr.workItemPlace 640 x0).wf = false) ∧
    ((Instr.workItemTake 660).wf = false) ∧
    (∀ x0 : EngOp, (Instr.engineOpIssue 660 0 .t x0).wf = false) ∧
    (∀ x0 : EngOp, (Instr.engineOpIssue 0 16 .t x0).wf = false) ∧
    (∀ x0 : EngineRead, (Instr.engineOpStart 660 0 x0).wf = false) ∧
    (∀ x0 : EngineRead, (Instr.engineOpStart 0 16 x0).wf = false) :=
  ⟨rfl, rfl, fun _ => rfl, fun _ => rfl, fun _ => rfl, fun _ => rfl, fun _ => rfl, fun _ => rfl, fun _ => rfl, rfl, rfl, rfl, rfl, rfl, rfl, rfl, fun _ => rfl, rfl, fun _ => rfl, fun _ => rfl, fun _ => rfl, fun _ => rfl⟩

/-- Ill-formed commands and events are refused, one for each check (2). -/
theorem test_wf_refuses_2 :
    ((Instr.engineOpRetire 660 0 .t).wf = false) ∧
    ((Instr.engineOpRetire 0 16 .t).wf = false) ∧
    ((Instr.workItemComplete 660 0).wf = false) ∧
    ((Instr.remoteSyncIncrement 660).wf = false) ∧
    ((Instr.clusterPowerGate 660).wf = false) ∧
    ((Instr.clusterWake 660).wf = false) ∧
    ((Instr.coreFailure 660 0).wf = false) ∧
    ((Instr.coreFailure 0 16).wf = false) ∧
    ((Instr.clusterFailure 660).wf = false) ∧
    ((Instr.pFillComplete 660 0).wf = false) ∧
    ((Instr.pFillComplete 0 16).wf = false) ∧
    ((Instr.pRunRetire 660 0).wf = false) ∧
    ((Instr.pRunRetire 0 16).wf = false) ∧
    ((Instr.bankPitchCheckStart 660 0).wf = false) ∧
    ((Instr.bankPitchCheckStart 0 16).wf = false) ∧
    ((Instr.bankCheckUrgent 660 0).wf = false) ∧
    ((Instr.bankCheckUrgent 0 16).wf = false) ∧
    (∀ x0 : BankCheck, (Instr.bankPitchCheckEnd 660 0 x0).wf = false) ∧
    (∀ x0 : BankCheck, (Instr.bankPitchCheckEnd 0 16 x0).wf = false) ∧
    ((Instr.bankRetuneDone 660 0 []).wf = false) ∧
    ((Instr.bankRetuneDone 0 16 []).wf = false) ∧
    ((Instr.bankOutOfRange 660 0).wf = false) :=
  ⟨rfl, rfl, rfl, rfl, rfl, rfl, rfl, rfl, rfl, rfl, rfl, rfl, rfl, rfl, rfl, rfl, rfl, fun _ => rfl, fun _ => rfl, rfl, rfl, rfl⟩

/-- Ill-formed commands and events are refused, one for each check (3). -/
theorem test_wf_refuses_3 :
    ((Instr.bankOutOfRange 0 16).wf = false) ∧
    ((Instr.bankBackInRange 660 0).wf = false) ∧
    ((Instr.bankBackInRange 0 16).wf = false) ∧
    ((Instr.bankOverheat 660 0).wf = false) ∧
    ((Instr.bankOverheat 0 16).wf = false) ∧
    ((Instr.bankWalkIdentify 660 0 0 0).wf = false) ∧
    ((Instr.bankWalkIdentify 0 16 0 0).wf = false) ∧
    ((Instr.bankWalkIdentify 0 0 1056 0).wf = false) ∧
    ((Instr.bankWalkIdentify 0 0 0 32).wf = false) ∧
    ((Instr.bankWalkOrder 660 0 0).wf = false) ∧
    ((Instr.bankWalkOrder 0 16 0).wf = false) ∧
    ((Instr.bankWalkOrder 0 0 1056).wf = false) ∧
    ((Instr.bankWalkStep 660 0 0).wf = false) ∧
    ((Instr.bankWalkStep 0 16 0).wf = false) ∧
    ((Instr.bankWalkStep 0 0 1056).wf = false) ∧
    ((Instr.bankWalkVerify 660 0 0 false).wf = false) ∧
    ((Instr.bankWalkVerify 0 16 0 false).wf = false) ∧
    ((Instr.bankWalkVerify 0 0 1056 false).wf = false) ∧
    ((Instr.bankWalkTimeout 660 0 0).wf = false) ∧
    ((Instr.bankWalkTimeout 0 16 0).wf = false) ∧
    ((Instr.bankWalkTimeout 0 0 1056).wf = false) ∧
    ((Instr.combSparePoint 0x124).wf = false) :=
  ⟨rfl, rfl, rfl, rfl, rfl, rfl, rfl, rfl, rfl, rfl, rfl, rfl, rfl, rfl, rfl, rfl, rfl, rfl, rfl, rfl, rfl, rfl⟩

/-- Ill-formed commands and events are refused, one for each check (4). -/
theorem test_wf_refuses_4 :
    ((Instr.combSparePoint 0x480).wf = false) ∧
    ((Instr.combPauseRequest 4 0).wf = false) ∧
    ((Instr.combPauseRequest 0 32).wf = false) ∧
    ((Instr.combHandoverPause 4 0 []).wf = false) ∧
    ((Instr.combHandoverPause 0 32 []).wf = false) ∧
    ((Instr.combLineFailure 0x124).wf = false) ∧
    ((Instr.combLineFailure 0x480).wf = false) ∧
    ((Instr.combChipletFailure 4).wf = false) ∧
    ((Instr.laserSample 0x124 0 0).wf = false) ∧
    ((Instr.laserSample 0x480 0 0).wf = false) ∧
    ((Instr.laserFailure 0x124).wf = false) ∧
    ((Instr.laserFailure 0x480).wf = false) ∧
    ((Instr.laserBandChange 13).wf = false) ∧
    ((Instr.linkLaserSparePoint 0x124).wf = false) ∧
    ((Instr.linkLaserSparePoint 0x480).wf = false) ∧
    ((Instr.linkSpareSwitch 8 0).wf = false) ∧
    ((Instr.linkSpareSwitch 0 18).wf = false) ∧
    ((Instr.linkSpareVerified 32 0 false).wf = false) ∧
    ((Instr.linkSpareVerified 0 18 false).wf = false) ∧
    ((Instr.laneMove 32 0 0 0 0).wf = false) ∧
    ((Instr.laneMove 0 18 0 0 0).wf = false) ∧
    ((Instr.laneMove 0 0 18 0 0).wf = false) :=
  ⟨rfl, rfl, rfl, rfl, rfl, rfl, rfl, rfl, rfl, rfl, rfl, rfl, rfl, rfl, rfl, rfl, rfl, rfl, rfl, rfl, rfl, rfl⟩

/-- Ill-formed commands and events are refused, one for each check (5). -/
theorem test_wf_refuses_5 :
    ((Instr.laneMove 0 0 0 18 0).wf = false) ∧
    ((Instr.laneMoveAck 32 0 0).wf = false) ∧
    ((Instr.laneMoveAck 0 18 0).wf = false) ∧
    ((Instr.laneMoveTimeout 32 0).wf = false) ∧
    ((Instr.laneMoveTimeout 0 18).wf = false) ∧
    ((Instr.laneLossTimeout 32 0).wf = false) ∧
    ((Instr.laneLossTimeout 0 18).wf = false) ∧
    ((Instr.laneRetire 32 0 false).wf = false) ∧
    ((Instr.laneRetire 0 18 false).wf = false) ∧
    (∀ x0 : ErrorInterval, (Instr.channelErrorInterval 1152 x0).wf = false) ∧
    ((Instr.laneCheckDue 1152).wf = false) ∧
    ((Instr.checkStart 32 0).wf = false) ∧
    ((Instr.checkStart 0 18).wf = false) ∧
    (∀ x0 : CheckReport, (Instr.checkReport 32 x0).wf = false) ∧
    (∀ x0 : LaneCheck, (Instr.checkResult 1152 x0).wf = false) ∧
    ((Instr.chipletWalkIdentify 1152 0).wf = false) ∧
    ((Instr.chipletWalkIdentify 0 32).wf = false) ∧
    ((Instr.chipletWalkOrder 1152).wf = false) ∧
    ((Instr.chipletWalkStep 1152).wf = false) ∧
    ((Instr.chipletWalkVerify 1152 false).wf = false) ∧
    ((Instr.chipletWalkTimeout 1152).wf = false) ∧
    ((Instr.codewordSlot 32).wf = false) :=
  ⟨rfl, rfl, rfl, rfl, rfl, rfl, rfl, rfl, rfl, fun _ => rfl, rfl, rfl, rfl, fun _ => rfl, fun _ => rfl, rfl, rfl, rfl, rfl, rfl, rfl, rfl⟩

/-- Ill-formed commands and events are refused, one for each check (6). -/
theorem test_wf_refuses_6 :
    ((Instr.codewordReceive 1152 0 (List.replicate 272 0)).wf = false) ∧
    ((Instr.codewordReceive 0 0 []).wf = false) ∧
    ((Instr.channelLock 1152 false).wf = false) ∧
    ((Instr.channelLockLoss 1152).wf = false) ∧
    (∀ x0 : TrainInput, (Instr.trainingAdvance 34 x0).wf = false) ∧
    ((Instr.trainingTimeout 32).wf = false) ∧
    ((Instr.bivouacExitTimer 32).wf = false) ∧
    ((Instr.activeAtReached 32 false).wf = false) ∧
    ((Instr.noPeerTimer 32).wf = false) ∧
    (∀ x0 : Option (BitVec 48), (Instr.laneRetrain 32 x0).wf = false) ∧
    ((Instr.sleep 32 false 0).wf = false) ∧
    ((Instr.wake 32 false 0).wf = false) ∧
    ((Instr.beacon 32 0 0).wf = false) ∧
    ((Instr.beacon 0 18 0).wf = false) ∧
    ((Instr.beaconMiss 32 0).wf = false) ∧
    ((Instr.beaconMiss 0 18).wf = false) ∧
    ((Instr.testStart 1152 0).wf = false) ∧
    ((Instr.testStart 0 4).wf = false) ∧
    ((Instr.testEnd 1152).wf = false) ∧
    ((Instr.laneTestDurationEnd 32).wf = false) ∧
    (∀ x0 : Flit, (Instr.flitReceive 32 x0).wf = false) ∧
    ((Instr.idleAckTimer 32).wf = false) :=
  ⟨rfl, rfl, rfl, rfl, fun _ => rfl, rfl, rfl, rfl, rfl, fun _ => rfl, rfl, rfl, rfl, rfl, rfl, rfl, rfl, rfl, rfl, rfl, fun _ => rfl, rfl⟩

/-- Ill-formed commands and events are refused, one for each check (7). -/
theorem test_wf_refuses_7 :
    ((Instr.replayTimer 32).wf = false) ∧
    ((Instr.e2eCredit 1048576 0 false 0).wf = false) ∧
    ((Instr.e2eCredit 0 1 false 0).wf = false) ∧
    ((Instr.e2eCreditTimer 1048576 0).wf = false) ∧
    ((Instr.e2eCreditTimer 0 1).wf = false) ∧
    ((Instr.creditReq 1048576 0).wf = false) ∧
    ((Instr.creditReq 0 1).wf = false) ∧
    ((Instr.creditRetryTimer 1048576 0).wf = false) ∧
    ((Instr.creditRetryTimer 0 1).wf = false) ∧
    ((Instr.entryIdleClose 1048576 0).wf = false) ∧
    ((Instr.entryIdleClose 0 1).wf = false) ∧
    ((Instr.closeAck 1048576 0 0).wf = false) ∧
    ((Instr.closeAck 0 1 0).wf = false) ∧
    (∀ x0 : SpanRead, (Instr.peerReadReq 1048576 0 0 x0).wf = false) ∧
    ((Instr.peerReadReq 0 0 0 ⟨65536, []⟩).wf = false) ∧
    ((Instr.peerWriteReq 1048576 0 0 []).wf = false) ∧
    ((Instr.sendData 1048576 0 0 [] false).wf = false) ∧
    (∀ x0 : SysMsg, (Instr.sysMessage 1048576 0 x0).wf = false) ∧
    (∀ x0 : WidthMsg, (Instr.widthReq 32 x0).wf = false) ∧
    (∀ x0 : WidthMsg, (Instr.widthAck 32 x0).wf = false) ∧
    ((Instr.widthSwitch 32).wf = false) ∧
    ((Instr.linkLeavesActive 32).wf = false) :=
  ⟨rfl, rfl, rfl, rfl, rfl, rfl, rfl, rfl, rfl, rfl, rfl, rfl, rfl, fun _ => rfl, rfl, rfl, rfl, fun _ => rfl, fun _ => rfl, fun _ => rfl, rfl, rfl⟩

/-- Ill-formed commands and events are refused, one for each check (8). -/
theorem test_wf_refuses_8 :
    (∀ x0 : CollMsg, (Instr.collContrib .north 12 x0).wf = false) ∧
    (∀ x0 : TimeMsg, (Instr.timeSync 32 x0).wf = false) ∧
    (∀ x0 : D2dSlot, (Instr.d2dSlotReceive 141 0 x0).wf = false) ∧
    (∀ x0 : D2dSlot, (Instr.d2dSlotReceive 0 2 x0).wf = false) ∧
    ((Instr.d2dAckWord 141 0 0).wf = false) ∧
    ((Instr.d2dAckWord 0 2 0).wf = false) ∧
    ((Instr.d2dRetryTimer 141 0).wf = false) ∧
    ((Instr.d2dRetryTimer 0 2).wf = false) ∧
    ((Instr.sidebandMessage 141 0).wf = false) ∧
    ((Instr.sidebandRetryTimer 141 0).wf = false) ∧
    (∀ x0 : LinkUpInput, (Instr.moduleLinkUp 141 x0).wf = false) ∧
    ((Instr.moduleRetrain 141 0 []).wf = false) ∧
    ((Instr.moduleRetrain 0 2 []).wf = false) ∧
    ((Instr.recalibrationTimer 141).wf = false) ∧
    ((Instr.clockLost 141).wf = false) ∧
    ((Instr.weightChange 20).wf = false) ∧
    ((Instr.emptySlotInsert 141 0).wf = false) ∧
    ((Instr.emptySlotInsert 0 2).wf = false) ∧
    ((Instr.refresh 8 0 0 false).wf = false) ∧
    ((Instr.refresh 0 32 0 false).wf = false) ∧
    ((Instr.refresh 0 0 1024 false).wf = false) ∧
    ((Instr.refreshBandChange 8).wf = false) :=
  ⟨fun _ => rfl, fun _ => rfl, fun _ => rfl, fun _ => rfl, rfl, rfl, rfl, rfl, rfl, rfl, fun _ => rfl, rfl, rfl, rfl, rfl, rfl, rfl, rfl, rfl, rfl, rfl, rfl⟩

/-- Ill-formed commands and events are refused, one for each check (9). -/
theorem test_wf_refuses_9 :
    (∀ x0 : BadSymbols, (Instr.scrubRead 8 x0 (0, 0, 0)).wf = false) ∧
    ((Instr.rowRepair 8 0 0 0).wf = false) ∧
    ((Instr.rowRepair 0 32 0 0).wf = false) ∧
    ((Instr.rowRepair 0 0 1024 0).wf = false) ∧
    ((Instr.channelFailure 8 0 false).wf = false) ∧
    ((Instr.channelFailure 0 32 false).wf = false) ∧
    ((Instr.sensorSample 1024 0).wf = false) ∧
    ((Instr.sysResp 1048576 0 0).wf = false) ∧
    ((Instr.ringLockLoss 1152 false).wf = false) :=
  ⟨fun _ => rfl, rfl, rfl, rfl, rfl, rfl, rfl, rfl, rfl⟩

/-- A peer's write of more than 192 bytes is ill formed (R367). -/
theorem test_wf_refuses_long_write (data : List (BitVec 8)) (h : 192 < data.length) :
    (Instr.peerWriteReq 0 0 0 data).wf = false := by
  simp [Instr.wf]
  omega

/-! ## Worked examples of the spec -/

/-- Chapter 2: North cluster (17, 9) is physical cluster 215 and its twin 545 is on South. -/
theorem test_cluster_flanks : flankOf 215 = .north ∧ flankOf 545 = .south := by decide

/-- Chapter 3, credits across the wrap: with 0xFFFF_FFF0 sent and 0xF0 granted 256 entries are free, after 20 more 236. -/
theorem test_credits_wrap :
    QCtr.avail ⟨0xFFFFFFF0, 0xF0, 0xF0, 0⟩ = 256 ∧ QCtr.avail ⟨0x4, 0xF0, 0xF0, 0⟩ = 236 ∧
    QCtr.avail ⟨0x4, 0xF5, 0xF5, 0⟩ = 241 := by
  decide

/-- Chapter 3, remapping: North (5, 3) is physical 71; of the spares of row 14 from x = 13 the one at x = 13, 321, is
nearest, 19 away. -/
theorem test_nearest_spare :
    nearestSpare 71 [321, 322, 323, 324, 325, 326, 327, 328, 329] = some 321 ∧ meshDistance 71 321 = 19 := by decide

/-- Chapter 4: code 45 of W = 16, g = 4 is 11.25 × s; with s = 2^−10 that is 45 × 2^−12. -/
theorem test_photonic_output :
    toF32 (pOutput 45 16 4 0x3D000000 0x3D000000) = toF32 (.fin false 45 (-12)) := by decide +kernel

/-- Chapter 5, the E2M1 block: 21.0, −3.1, 1.0 and 10.0 take scale code 0x81 and codes 7, 0b1010, 0 and 4. -/
theorem test_block_e2m1 :
    (encodeBlock .e2m1 [.near, .near, .near, .near] false
      [.fin false 21 0, .fin true 3250586 (-20), .fin false 1 0, .fin false 10 0]).1 = 0x81 ∧
    (encodeBlock .e2m1 [.near, .near, .near, .near] false
      [.fin false 21 0, .fin true 3250586 (-20), .fin false 1 0, .fin false 10 0]).2.map (·.code) = [7, 10, 0, 4] := by
  decide +kernel

/-- Chapter 5, the bytes of that block's element array: 0xA7, 0x40. -/
theorem test_pack_e2m1 : packCodes 4 [7, 10, 0, 4] = [0xA7, 0x40] := by decide +kernel

/-- Chapter 5, ties of BF16 go to even. -/
theorem test_bf16_ties :
    (encodeElt .bf16 .near false (ofF32 0x3F808000)).code = 0x3F80 ∧
    (encodeElt .bf16 .near false (ofF32 0x3F818000)).code = 0x3F82 := by decide +kernel

/-- Chapter 5: 470 overflows E4M3 and is clamped, 464 is a tie to 448 without a flag. -/
theorem test_e4m3_overflow :
    encodeElt .e4m3 .near false (.fin false 470 0) = ⟨0x7E, true, false⟩ ∧
    encodeElt .e4m3 .near false (.fin false 464 0) = ⟨0x7E, false, false⟩ := by decide +kernel

/-- Chapter 5: 470 and 70,000 in E5M2, the latter infinite with SAT clear and 57,344 with SAT set. -/
theorem test_e5m2_overflow :
    encodeElt .e5m2 .near false (.fin false 470 0) = ⟨0x5F, false, false⟩ ∧
    encodeElt .e5m2 .near false (.fin false 70000 0) = ⟨0x7C, false, false⟩ ∧
    encodeElt .e5m2 .near true (.fin false 70000 0) = ⟨0x7B, true, false⟩ := by decide +kernel

/-- Chapter 7: address 0x12_3456_7C00 is in stack M0 at 0x2_468A_CC00, channel 26. -/
theorem test_interleave :
    stackOf 0x1234567C00 ({} : State) = (0, 0x2468ACC00) ∧ channelOf 0x2468ACC00 = 26 := by decide +kernel

/-- Chapter 9: of two reads of a free lock in one slot the host's acquires it, with RELEASED_BY_RESET, and the guest finds
the host its owner. -/
theorem test_lock_two_readers :
    let s : State := { locks := [(5, ⟨0, true⟩)] }
    (lockRead .cp1 5 s).1 = 0x10300 ∧ (lockRead .guest 5 (lockRead .cp1 5 s).2).1 = 0x403 := by decide +kernel

/-- Chapter 13: from 0x2_7F31 to 0x123C with extents (16, 16, 16, 8, 4) the groups are 1, 4, 6 and 8 in the order of
their dimensions, none for D1, and the first hop goes by group 1. -/
theorem test_dimension_groups :
    [dimGroup 0 1 12 16, dimGroup 1 3 3 16, dimGroup 2 15 2 16, dimGroup 3 7 1 8, dimGroup 4 2 0 4] =
      [some 1, none, some 4, some 6, some 8] := by decide

/-- Chapter 14: with 1,152 GB/s left of the optical group of O3 its links F12 to F15 go to 16, 12, 8 and 8 lanes. -/
theorem test_narrow_group : narrow 1152 [16, 16, 16, 16] [] = [16, 12, 8, 8] := by decide

/-! ## One step -/

/-- Whether an outcome is a next state with a property. -/
def leaves (o : Host.Outcome State Fault Refusal) (f : State → Bool) : Bool := match o with
  | .next t => f t
  | _ => false

/-- A step takes the command at the front: LK_LOCK_READ of a free lock takes it for the reader. -/
theorem test_step_lock :
    leaves (step { ({} : State) with pending := [.lkLockRead .cp0 7 true, .portStableTimer .cp0] })
      (fun t => t.pending == [.portStableTimer .cp0] && (tget {} t.locks 7).owner == 2) = true := by decide +kernel

/-- A post to an empty mailbox stores the word and sets FULL. -/
theorem test_step_mailbox :
    leaves (exec (.mailboxWrite ⟨.cp0, false⟩ (.host 2) 77) {})
      (fun t => (chanGet (.host 2) t).outFull && (chanGet (.host 2) t).outWord == 77) = true := by decide +kernel

/-- A host doorbell ring of bit 3 sets it. -/
theorem test_step_doorbell :
    leaves (exec (.dbFwRingChannel 3 ⟨.cp0, false⟩) {}) (fun t => t.db.fwStatus == 8) = true := by decide +kernel

/-- A secure channel's ring from a frame without SECURE leaves its bit clear. -/
theorem test_step_doorbell_secure :
    leaves (exec (.dbFwRingChannel 13 ⟨.cp0, false⟩) {}) (fun t => t.db.fwStatus == 0) = true := by decide +kernel

/-- On an empty queue a nanosecond passes. -/
theorem test_step_idle : leaves (step {}) (fun t => t.clock.now == ({} : State).clock.now + 1) = true := by decide +kernel

/-! ## Witnesses -/

/-- A state or operand of the witnesses. -/
def rdy : State := { boot := { step := 11, running := some 0 }, dev := { state := .ready }, part := { guest := some 1, vgst := 800 }, mem := { poison := [], trained := true }, clock := { now := 200000000 }, ports := { cp0 := { phase := .active, stable := true }, cp1 := { phase := .active }, highest := some 5, acted := 5, accepted := [⟨5, 0, 0, .cp0⟩], credit := 512, credited := true } }
/-- A state or operand of the witnesses. -/
def fr (ty : BitVec 8) (addr : BitVec 64) (arg : BitVec 16) (payload : List Byte) : Frame :=
  let f : Frame := ⟨6, ty, 1, BitVec.ofNat 16 payload.length, 0, arg, 0, addr, 100, 0, payload⟩
  { f with crc := frameCrc f }
/-- A state or operand of the witnesses. -/
def withFr (f : Frame) (s : State) : State := { s with ports := { s.ports with slots := [⟨.cp0, f, 0, none⟩], highest := some f.seq } }
/-- A state or operand of the witnesses. -/
def dsc : Descriptor := ⟨.normal, true, 7, 0x0106, false, false, 0, 0, 0, 0, 0, 0, 0, false⟩
/-- A state or operand of the witnesses. -/
def sec1 : Access := ⟨.cp0, true⟩
/-- A state or operand of the witnesses. -/
def insec : Access := ⟨.cp0, false⟩
/-- A state or operand of the witnesses. -/
def fullCh : Channel := { outFull := true, innFull := true, outWord := 5, innWord := 9 }
/-- A state or operand of the witnesses. -/
def mbxFull : State := { rdy with mbx := { host := [(0, fullCh)], guest := [(0, fullCh)] } }
/-- A state or operand of the witnesses. -/
def lk1 : State := { rdy with locks := [(3, ⟨2, false⟩), (4, ⟨3, true⟩)] }
/-- A state or operand of the witnesses. -/
def acc1 : Accepted := ⟨dsc, 3, 1⟩
/-- A state or operand of the witnesses. -/
def ent1 : Entry := ⟨7, 1, false, .ok, 0, 3, 0x0106, 0, 5, 6, 0, 0, 0, 0, 0, false⟩
/-- A state or operand of the witnesses. -/
def ringDesc (d : List Byte) : List Byte := d ++ leBytes 4 (crc32c d).toNat
/-- A state or operand of the witnesses. -/
def rawDesc : List Byte := leBytes 4 7 ++ leBytes 2 0x0106 ++ zeros 54
/-- A state or operand of the witnesses. -/
def putDram (a : Nat) (b : List Byte) (s : State) : State := { s with mem := { s.mem with dram := (List.zip (List.range b.length) b).foldl (fun m e => tset 0 m (a + e.1) e.2) s.mem.dram } }
/-- A state or operand of the witnesses. -/
def ringSt : State := { rdy with cmds := { nq := { base := 0x1000, size := 16, enabled := true, ptotal := 1 }, uq := { base := 0x2000, size := 16, enabled := true }, cqBase := 0x4000, cqSize := 64, cqEnabled := true, ctrl := 7, taken := { nqBase := 0x1000, nqSize := 16, uqBase := 0x2000, uqSize := 16, cqBase := 0x4000, cqSize := 64, ctrl := 7 } } }
/-- A state or operand of the witnesses. -/
def bun : List Byte := leBytes 384 0xffffffffffffffffffffffff00000001ffffffffffffffffffffffffffffffffffffffffffffffffffffffff0000000000000000000000000000ffff0101002a0000000000000000000000000000000000000000000000100000000000000000000000000000000000000000000000000000000000000004ffff0000ff0101010000000000000000000000000000000000000000000000100000000000000000000000000000000000000000000000000000000000000004ffff0000ff0001010000000000000001000000000000008000000000000001000000000000000002000000000000000200000000000000800000000000000080000000000000000100000000000000000000000000000000000000000000000001265d1500000000000000000000004000000000000001800000000200000040020001004247544a
/-- A state or operand of the witnesses. -/
def bunB : Bundle := { crc := 0x01265d15, tensors := [⟨1, 1, 0, 255, 0, 65535, [4], 0, 16⟩, ⟨1, 1, 1, 255, 0, 65535, [4], 0, 16⟩], operators := [⟨42, 1, 1, 65535, 0, 0, 0, 0, true, [0], [1], [0, 0, 0, 0, 0, 0, 0, 0, 0, 0, 0, 0, 0, 0, 0, 0]⟩] }
/-- A state or operand of the witnesses. -/
def bst : State := { rdy with mem := { rdy.mem with dram := ((List.range 384).map fun k => (0x10000 + k, bun.getD k 0)).filter fun e => e.2 != 0 } }
/-- A state or operand of the witnesses. -/
def gph : Graph := { gen := 3, state := some .loaded, b := bunB }
/-- A state or operand of the witnesses. -/
def grunning : Graph := { gph with state := some .running, placed := [(0, [0])] }
/-- A state or operand of the witnesses. -/
def gst (g : Graph) : State := { rdy with graphs := { slot := [(0, g)] }, dev := { rdy.dev with state := .loaded } }
/-- A state or operand of the witnesses. -/
def fabSt : State := { rdy with fab := { rdy.fab with id := 0 } }
/-- A state or operand of the witnesses. -/
def handle3 : BitVec 32 := handleOf 0 gph
/-- A state or operand of the witnesses. -/
def dscH : Descriptor := { dsc with target := handle3 }
/-- A state or operand of the witnesses. -/
def stSt : State := putDram 0x30000 (leBytes 8 0x40000 ++ leBytes 8 64 ++ leBytes 8 0x50000 ++ leBytes 8 64) (gst { grunning with state := some .placed })
/-- A state or operand of the witnesses. -/
def fabcSt : State := putDram 0x20000 ([0,1,7,0,0,0,0,0,4,1,1,1,1,3,0,0,0xd0,7,0,0,4,0,0,0]) rdy
/-- A state or operand of the witnesses. -/
def exe1 : Execution := { cmd := ⟨{ dscH with opcode := 0x0304, hseq := 40 }, 9, 2⟩, bindings := [], shapes := [], begun := false, work := [], failed := [], poisoned := [], warn := 0, deadlinePassed := false, peersOpen := [], peersBad := [] }
/-- A state or operand of the witnesses. -/
def exeB : Execution := { exe1 with begun := true }
/-- A state or operand of the witnesses. -/
def exeF : Execution := { exeB with items := [(0, 9, 0)] }
/-- A state or operand of the witnesses. -/
def run1 : State := { gst { grunning with running := some exeB } with dev := { state := .running } }
/-- A state or operand of the witnesses. -/
def pend1 : State := { gst { grunning with pending := [exe1] } with dev := { state := .running } }
/-- A state or operand of the witnesses. -/
def accH : Accepted := ⟨{ dscH with hseq := 41 }, 9, 3⟩
/-- A state or operand of the witnesses. -/
def wi1 : WorkItem := ⟨handle3, 0, 4, 0xFFFF, 0, 9, 0, 0⟩
/-- A state or operand of the witnesses. -/
def wst1 : WorkSt := ⟨0, wi1, 0, true, false, 0, false, 0, []⟩
/-- A state or operand of the witnesses. -/
def clSt (c : ClusterSt) (s : State) : State := clusterSet 0 c s
/-- A state or operand of the witnesses. -/
def opM : EngOp := ⟨0, none, .none, .move (.store 0) (.store 64) [(1, 0, 0)] 4, []⟩
/-- A state or operand of the witnesses. -/
def opT : EngOp := ⟨0, none, .none, .tStore 0 64, []⟩
/-- A state or operand of the witnesses. -/
def opP : EngOp := ⟨0, none, .none, .pRun 0 5 false 1 1 0 .bf16 0 0 4096 .fp32, [.tStore 0 64]⟩
/-- A state or operand of the witnesses. -/
def opF : EngOp := ⟨0, none, .none, .pFill 1 5 0 0, []⟩
/-- A state or operand of the witnesses. -/
def run0 : Running := { since := 0, poisonIn := false, poisonOut := false, warn := 0, requests := [] }
/-- A state or operand of the witnesses. -/
def wset : State := clSt { set := [wst1] } rdy
/-- A state or operand of the witnesses. -/
def gwSt : State := { rdy with pins := { gstRstN := true }, d2d := { modu := [(136, { state := .active })] }, guest := { base := [(0, 0)], attr := [(0, 0x80000003)] } }
/-- A state or operand of the witnesses. -/
def recvG : Graph := { grunning with running := some exeB, b := { bunB with operators := (bunB.operators.map fun o => { o with opcode := 0x66 }).take 1 } }
/-- A state or operand of the witnesses. -/
def gel : Graph := { grunning with running := some exeB, photonic := [0], b := { bunB with eligible := [⟨0, 1, 5, 1, false, [0]⟩] } }
/-- A state or operand of the witnesses. -/
def phot : State := clSt { set := [wst1] } { gst gel with dev := { state := .running } }
/-- A state or operand of the witnesses. -/
def late : State := { rdy with clock := { now := 60000000000 } }
/-- A state or operand of the witnesses. -/
def bk (b : Bank) : State := { late with banks := { bank := [(0, b)] } }
/-- A state or operand of the witnesses. -/
def wlk (w : Walk) : State := bk { state := .relock, walks := [(3, w)] }
/-- A state or operand of the witnesses. -/
def ch1 (i : Nat) (c : Chan) : State := { late with chans := [(i, c)], links := [(0, { st := .active, txActive := true, rxActive := true, width := some 12, slot := 20000, rxSlot := 20000 })] }
/-- A state or operand of the witnesses. -/
def ch2 (i j : Nat) (c d : Chan) (l : LinkSt → LinkSt) : State := { late with chans := [(i, c), (j, d)], links := [(0, l { st := .active, txActive := true, rxActive := true, width := some 12, slot := 20000, rxSlot := 20000 })] }
/-- A state or operand of the witnesses. -/
def las1 (i : Nat) (x : Laser) : State := { late with las := { laser := [(i, x)] } }
/-- A state or operand of the witnesses. -/
def lit : Laser := { lit := true, litAt := 3 }
/-- A state or operand of the witnesses. -/
def lmv : LaneMove := ⟨2, 5, 6, 777, 1, true, 0⟩
/-- A state or operand of the witnesses. -/
def lk (n : Nat) (l : LinkSt) : State := { late with links := [(n, l)], fab := { configured := true, extent := [4, 4, 1, 1, 1], id := 0x21 } }
/-- A state or operand of the witnesses. -/
def ti : TrainInput := ⟨List.range 12, [], List.range 12, (List.range 8).map fun k => ⟨k, true, k, k, 900, k⟩, List.range 8, 77, 0, 2, false, 900, 5, 50⟩
/-- A state or operand of the witnesses. -/
def actL : LinkSt := { st := .active, txActive := true, rxActive := true, width := some 16, slot := 20000, rxSlot := 20000, sent := true, txWorking := List.range 18 }
/-- A state or operand of the witnesses. -/
def fl0 : Flit := ⟨0, 0, 0, 0, 0, 0, 0, 0x22, 0x23, 5, 0, [], 0⟩
/-- A state or operand of the witnesses. -/
def sealF (f : Flit) : Flit := { f with crc := flitCrc f }
/-- A state or operand of the witnesses. -/
def fab1 : State := lk 0 actL
/-- A state or operand of the witnesses. -/
def pt (l : LinkSt) : State := { late with links := [(32, l)], ports := { late.ports with cp0 := { phase := .training } } }
/-- A state or operand of the witnesses. -/
def md (m : Nat) (x : Module) : State := { late with d2d := { modu := [(m, x)] } }
/-- A state or operand of the witnesses. -/
def dsl : D2dSlot := ⟨true, false, false, false, 5, 0⟩
/-- A state or operand of the witnesses. -/
def sealD (x : D2dSlot) : D2dSlot := { x with crc := slotCrc x }
/-- A state or operand of the witnesses. -/
def sbw (lo : Nat) : BitVec 64 := BitVec.ofNat 64 (lo + crc8 56 lo * 2 ^ 56)
/-- A state or operand of the witnesses. -/
def lu : LinkUpInput := ⟨[], .north, 0, 0, [], []⟩
/-- A state or operand of the witnesses. -/
def reqM : MReq := ⟨9, 0, 32, 0, true, true, .store 0⟩
/-- A state or operand of the witnesses. -/
def fq (e : Option (Nat × Nat)) (t : BitVec 32) : FabReq := ⟨t, 0x22, true, 0, 32, 5, none, e, 0, 0⟩
/-- A state or operand of the witnesses. -/
def mst : State := { engSet 0 0 .m { q := [opM], run := some { run0 with requests := [reqM] } } late with fab := { fab1.fab with reqs := [fq (some (0, 0)) 9, fq none 10] } }
/-- A state or operand of the witnesses. -/
def red : RedEntry := ⟨[0x21, 0x22, 0x23], 0x20, false, 0, 0⟩
/-- A state or operand of the witnesses. -/
def rslot : RedSlot := ⟨0, 1, [0x3F800000], false, 3, [12], false⟩
/-- A state or operand of the witnesses. -/
def cm (w : Nat) : CollMsg := ⟨7, 0, 0, w, [0x3F800000], false⟩
/-- A state or operand of the witnesses. -/
def cst (x : Option RedSlot) (r : RedEntry) : State := { fab1 with fab := { fab1.fab with id := r.root, tables := [(7, some r)], slots := tset none [] (slotKey .south 7 0) x } }
/-- A state or operand of the witnesses. -/
def lux : LinkUpInput := ⟨[0, 0, 1, 0x8000, 0, 0, 256], .north, requiredDesign 129 .north (md 129 {}), 0, [], []⟩
/-- A state or operand of the witnesses. -/
def rq (r : Request) : State := { late with therm := { reqN := r, sensor := [(0, { reading := 118 * 16, sampled := true, at_ := 60000000000 })] } }
/-- A state or operand of the witnesses. -/
def rqc (r : Request) : State := { late with therm := { reqN := r } }
/-- A state or operand of the witnesses. -/
def bt (n : Nat) : State := { late with boot := { step := n, running := some 0, imageSecurity := 4 }, dev := {}, sec := { version := 2 } }
/-- A state or operand of the witnesses. -/
def okSlot : SlotCheck := ⟨true, true, 3, 9, 77⟩
/-- A state or operand of the witnesses. -/
def badSlot : SlotCheck := ⟨true, false, 3, 9, 77⟩
/-- A state or operand of the witnesses. -/
def tok : DebugToken := ⟨0x0100, 1, 0, 0, 5, true⟩
/-- A state or operand of the witnesses. -/
def lostSt : State := { late with mem := { late.mem with lost := [0], inService := [0], dram := [(5, 7)], poison := [] } }
/-- A state or operand of the witnesses. -/
def coldSens : Tab Sensor := [(992, { reading := -400, sampled := true })]
/-- A state or operand of the witnesses. -/
def rlx : RlcLine := ⟨true, List.replicate 64 8, 0⟩
/-- A state or operand of the witnesses. -/
def crSt : State := { fab1 with fab := { fab1.fab with dst := [(entryKey 0x22 2, some { granted := 64, told := 4 })] } }
/-- A state or operand of the witnesses. -/
def gphE : Graph := { gph with b := {} }
/-- A state or operand of the witnesses. -/
def placeCmd : Descriptor := { dscH with resAddr := 0x20000, resLen := 64 }
/-- A state or operand of the witnesses. -/
def placeWait : FitWait := ⟨rowAccepted 0x0303 placeCmd (gst gphE), false, {}, [], none, [], [], [], none, false, [], []⟩

/-- A fold over numbers whose accumulator the kernel evaluates at each element. -/
def foldNat {α : Type} (f : Nat → α → Nat) : List α → Nat → Nat
  | [], a => a
  | x :: l, a => match f a x with
    | 0 => foldNat f l 0
    | n + 1 => foldNat f l (n + 1)
/-- It is the fold. -/
theorem foldNat_eq {α : Type} (f : Nat → α → Nat) (l : List α) (a : Nat) : foldNat f l a = l.foldl f a := by
  induction l generalizing a with
  | nil => rfl
  | cons x l ih => simp only [foldNat, List.foldl_cons]; split <;> simp [*]
/-- A fact about a witness. -/
theorem bun_read : viewBytes 0x10000 384 bst = bun := by decide +kernel
/-- A fact about a witness. -/
theorem bun_take : bun.take (field bun 16 8) = bun := by decide +kernel
/-- A fact about a witness. -/
theorem bun_crc : checkCrc bun = .ok () := by
  unfold checkCrc bundleCrc crc32c crc32With
  rw [← foldNat_eq]
  decide +kernel
/-- A fact about a witness. -/
theorem bun_header : checkHeader bun = .ok () := by decide +kernel
/-- A fact about a witness. -/
theorem bun_signature : checkSignature bun bst = .ok () := by decide +kernel
/-- A fact about a witness. -/
theorem bun_versions : checkVersions bun = .ok () := by decide +kernel
/-- A fact about a witness. -/
theorem bun_formed : checkFormed bun = .ok bunB := by decide +kernel
/-- A fact about a witness. -/
theorem bun_meaning : checkMeaning bun bunB bst = .ok bunB := by decide +kernel
/-- The checks of a bundle one by one (R144). -/
theorem checkBundle_ok (src : List Byte) (b c : Bundle) (s : State) (ht : src.take (field src 16 8) = src)
    (h1 : checkHeader src = .ok ()) (h2 : checkCrc src = .ok ()) (h3 : checkSignature src s = .ok ())
    (h4 : checkVersions src = .ok ()) (h5 : checkFormed src = .ok b) (h6 : checkMeaning src b s = .ok c) :
    checkBundle src s = .ok c := by
  simp only [checkBundle, h1, ht, h2, h3, h4, h5, h6, bind, Except.bind]
/-- A fact about a witness. -/
theorem bun_ok : checkBundle (viewBytes 0x10000 384 bst) bst = .ok bunB := by
  rw [bun_read]
  exact checkBundle_ok bun bunB bunB bst bun_take bun_header bun_crc bun_signature bun_versions bun_formed bun_meaning
/-- A fact about a witness. -/
theorem leads_lit : LeadsTo 0x22 crSt := by
  intro f hd hv
  have h1 : ((0x22 : Nat) = crSt.fab.id) = False := by decide +kernel
  have h2 : spurOf 0x22 crSt = none := by decide +kernel
  have h3 : inTorus 0x22 crSt = true := by decide +kernel
  have h4 : firstDim [0, 1, 2, 3, 4] crSt.fab.id 0x22 crSt = some (0, 0) := by decide +kernel
  have h5 : siblingLinks 0 crSt ≠ [] := by decide +kernel
  have hd' : f.dst.toNat % 1048576 = 34 := hd
  have h6 : ¬ 4 ≤ flitVc f := by omega
  exact ⟨0, f, by simp [route, routeTorus, hd', h1, h2, h3, h4, h5, h6]⟩

/-- A fact about a witness. -/
theorem ne_succ16 (r : BitVec 16) : r + 1 ≠ r := by bv_omega

/-- The hypotheses of each clause of EmptyQueueLetsTimePass can be met together. -/
theorem witness_EmptyQueueLetsTimePass :
    ∃ (s : State), s.pending = [] :=
  ⟨(({} : State)), by decide +kernel⟩

/-- The hypotheses of each clause of MailboxRows can be met together. -/
theorem witness_MailboxRows :
    (∃ (m : Master) (ch : MbxChan) (w : BitVec 64) (secure : Bool) (s : State), mbxOpen m ch secure s = true ∧ m ≠ .firmware ∧ partyOutFull ch s = false) ∧
    (∃ (m : Master) (ch : MbxChan) (w : BitVec 64) (secure : Bool) (s : State), mbxOpen m ch secure s = true ∧ m ≠ .firmware ∧ partyOutFull ch s = true) ∧
    (∃ (n : Nat) (m : Master) (w : BitVec 64) (s : State), 12 ≤ n ∧ n < 24 ∧ (m = .cp0 ∨ m = .cp1)) ∧
    (∃ (ch : MbxChan) (v : BitVec 64) (secure : Bool) (s : State), chanExists ch s = true ∧ fwReaches s = true ∧ (chanGet ch s).outFull = true) ∧
    (∃ (m : Master) (ch : MbxChan) (v : BitVec 64) (secure : Bool) (s : State), mbxOpen m ch secure s = true ∧ m ≠ .firmware ∧ (chanGet ch s).innFull = true) ∧
    (∃ (n : Nat) (w : BitVec 64) (s : State), n < 24 ∧ fwRuns s = true ∧ s.cairn.frozen = false ∧ fwOutFull (.host n) s = false ∧ (chanGet (.host n) s).queue = []) ∧
    (∃ (ch : MbxChan) (w : BitVec 64) (s : State), chanExists ch s = true ∧ fwRuns s = true ∧ s.cairn.frozen = false ∧ fwOutFull ch s = true ∧ (chanGet ch s).queue.length < 16) :=
  ⟨⟨(.cp0), (.host 0), (77), (false), ({ rdy with mbx := { host := [(0, { fullCh with outFull := false }), (2, fullCh)] } }), by decide +kernel, by decide +kernel, by decide +kernel⟩,
   ⟨(.cp1), (.host 0), (77), (false), (mbxFull), by decide +kernel, by decide +kernel, by decide +kernel⟩,
   ⟨(14), (.cp1), (7), (mbxFull), by decide +kernel, by decide +kernel, by decide +kernel⟩,
   ⟨(.host 0), (0), (false), (mbxFull), by decide +kernel, by decide +kernel, by decide +kernel⟩,
   ⟨(.guest), (.guest 0), (0), (false), (mbxFull), by decide +kernel, by decide +kernel, by decide +kernel⟩,
   ⟨(23), (8), (rdy), by decide +kernel, by decide +kernel, by decide +kernel, by decide +kernel, by decide +kernel⟩,
   ⟨(.host 0), (8), (mbxFull), by decide +kernel, by decide +kernel, by decide +kernel, by decide +kernel, by decide +kernel⟩⟩

/-- The hypotheses of each clause of DoorbellAndLockRows can be met together. -/
theorem witness_DoorbellAndLockRows :
    (∃ (n : Nat) (a : Access) (s : State), n < 26 ∧ (a.secure = true ∨ n < 12 ∨ n = 24)) ∧
    (∃ (n : Nat) (a : Access) (s : State), 12 ≤ n ∧ n < 24 ∧ a.secure = false) ∧
    (∃ (a : Access) (s : State), a.secure = true) ∧
    (∃ (v : BitVec 64) (a : Access) (s : State), a.secure = true ∧ v ≠ s.db.epoch) ∧
    (∃ (a : Access) (s : State), a.secure = true) ∧
    (∃ (v : BitVec 64) (a : Access) (s : State), a.secure = true ∧ s.db.hostStatus = 0) ∧
    (∃ (v : BitVec 64) (a : Access) (s : State), a.secure = false) ∧
    (∃ (v : BitVec 64) (s : State), s.part.guest.isSome = true ∧ v.getLsbD 0 = true) ∧
    (∃ (m : Master) (k : Nat) (secure : Bool) (s : State), k < 64 ∧ lockDenied m k false secure s = false ∧ (tget {} s.locks k).owner = 0) ∧
    (∃ (m : Master) (k : Nat) (secure : Bool) (s : State), k < 64 ∧ lockDenied m k false secure s = false ∧ (tget {} s.locks k).owner ≠ 0) ∧
    (∃ (m : Master) (k : Nat) (v : BitVec 64) (secure : Bool) (s : State), k < 64 ∧ lockDenied m k true secure s = false ∧ (tget {} s.locks k).owner ≠ 0 ∧ v.setWidth 8 = (tget {} s.locks k).owner) ∧
    (∃ (m : Master) (k : Nat) (v : BitVec 64) (secure : Bool) (s : State), k < 64 ∧ lockDenied m k true secure s = false ∧ ((tget {} s.locks k).owner = 0 ∨ v.setWidth 8 ≠ (tget {} s.locks k).owner)) ∧
    (∃ (k : Nat) (s : State), 48 ≤ k ∧ k < 64) ∧
    (∃ (k : Nat) (secure : Bool) (s : State), k < 64 ∧ lockGranted k false s = false) :=
  ⟨⟨(25), (sec1), (rdy), by decide +kernel, by decide +kernel⟩,
   ⟨(23), (insec), (rdy), by decide +kernel, by decide +kernel, by decide +kernel⟩,
   ⟨(sec1), (rdy), by decide +kernel⟩,
   ⟨(4), (sec1), ({ lk1 with mbx := mbxFull.mbx }), by decide +kernel, by decide +kernel⟩,
   ⟨(sec1), (lk1), by decide +kernel⟩,
   ⟨(0xFFFFFFFFF), (sec1), (lk1), by decide +kernel, by decide +kernel⟩,
   ⟨(0xFFFFFFFFF), (insec), (lk1), by decide +kernel⟩,
   ⟨(1), (rdy), by decide +kernel, by decide +kernel⟩,
   ⟨(.cp1), (63), (true), (lk1), by decide +kernel, by decide +kernel, by decide +kernel⟩,
   ⟨(.cp1), (3), (true), (lk1), by decide +kernel, by decide +kernel, by decide +kernel⟩,
   ⟨(.cp1), (3), (2), (true), (lk1), by decide +kernel, by decide +kernel, by decide +kernel, by decide +kernel⟩,
   ⟨(.cp1), (3), (3), (true), (lk1), by decide +kernel, by decide +kernel, by decide +kernel⟩,
   ⟨(48), (lk1), by decide +kernel, by decide +kernel⟩,
   ⟨(20), (false), (lk1), by decide +kernel, by decide +kernel⟩⟩

/-- The hypotheses of each clause of HostFrames can be met together. -/
theorem witness_HostFrames :
    (∃ (p : Port) (f : Frame) (s : State), hears p s = true ∧ (f.crc ≠ frameCrc f ∨ f.length.toNat ≠ f.payload.length)) ∧
    (∃ (p : Port) (f : Frame) (s : State), hears p s = true ∧ f.crc = frameCrc f ∧ f.length.toNat = f.payload.length ∧ f.type ≠ 0x07 ∧ s.ports.highest = none) ∧
    (∃ (p : Port) (f : Frame) (h : BitVec 32) (s : State), hears p s = true ∧ f.crc = frameCrc f ∧ f.length.toNat = f.payload.length ∧ f.type ≠ 0x07 ∧ f.type ≠ 0x08 ∧ isHwinResp f = false ∧ s.ports.highest = some h ∧ above f.seq h = true ∧ (f.seq - h).toNat ≤ 4096 ∧ slotsUsed s < 512) ∧
    (∃ (p : Port) (f : Frame) (h : BitVec 32) (s : State), hears p s = true ∧ f.crc = frameCrc f ∧ f.length.toNat = f.payload.length ∧ f.type ≠ 0x07 ∧ f.type ≠ 0x08 ∧ isHwinResp f = false ∧ s.ports.highest = some h ∧ above f.seq h = true ∧ (f.seq - h).toNat ≤ 4096 ∧ 512 ≤ slotsUsed s) ∧
    (∃ (p : Port) (f : Frame) (s : State), hears p s = true ∧ f.type = 0x07 ∧ f.crc = frameCrc f ∧ frameWellFormed f = true ∧ resyncSeen f s = false ∧ copyHeld p s = false ∧ (∀ h, s.ports.resync = some h → h.frame.seq ≠ f.seq)) ∧
    (∃ (p : Port) (f : Frame) (s : State), hears p s = true ∧ f.type = 0x07 ∧ f.crc = frameCrc f ∧ frameWellFormed f = true ∧ resyncSeen f s = false ∧ copyHeld p s = true ∧ (∀ h, s.ports.resync = some h → h.frame.seq ≠ f.seq)) ∧
    (∃ (p : Port) (f : Frame) (s : State), hears p s = true ∧ f.type = 0x08 ∧ f.crc = frameCrc f ∧ frameWellFormed f = true ∧ s.ports.highest ≠ none ∧ above f.credit s.ports.hostCredit = true) :=
  ⟨⟨(.cp0), ({ fr 1 0xFF00000000 0 [] with crc := 0 }), (rdy), by decide +kernel, by decide +kernel⟩,
   ⟨(.cp0), (fr 1 0xFF00000000 0 []), ({ rdy with ports := { rdy.ports with highest := none } }), by decide +kernel, by decide +kernel, by decide +kernel, by decide +kernel, by decide +kernel⟩,
   ⟨(.cp0), (fr 1 0xFF00000000 0 []), (5), (rdy), by decide +kernel, by decide +kernel, by decide +kernel, by decide +kernel, by decide +kernel, by decide +kernel, by decide +kernel, by decide +kernel, by decide +kernel, by decide +kernel⟩,
   ⟨(.cp0), (fr 1 0xFF00000000 0 []), (5), ({ rdy with ports := { rdy.ports with slots := List.replicate 512 ⟨.cp0, fr 1 0 0 [], 0, none⟩ } }), by decide +kernel, by decide +kernel, by decide +kernel, by decide +kernel, by decide +kernel, by decide +kernel, by decide +kernel, by decide +kernel, by decide +kernel, by decide +kernel⟩,
   ⟨(.cp0), (fr 7 0 0 []), (withFr (fr 1 0 0 []) { rdy with ports := { rdy.ports with cp1 := {} } }), by decide +kernel, by decide +kernel, by decide +kernel, by decide +kernel, by decide +kernel, by decide +kernel, by decide +kernel⟩,
   ⟨(.cp1), (fr 7 0 0 []), (withFr (fr 1 0 0 []) { rdy with ports := { rdy.ports with preferred := some .cp0 } }), by decide +kernel, by decide +kernel, by decide +kernel, by decide +kernel, by decide +kernel, by decide +kernel, by decide +kernel⟩,
   ⟨(.cp0), (fr 8 0 0 []), (rdy), by decide +kernel, by decide +kernel, by decide +kernel, by decide +kernel, by decide +kernel, by decide +kernel⟩⟩

/-- The hypotheses of each clause of HostRequestsAnswered can be met together. -/
theorem witness_HostRequestsAnswered :
    (∃ (p : Port) (f : Frame) (s : State), f.type = 0x01 ∧ FrameIsNext f s ∧ badRegAddr f.address.toNat = false ∧ hostDenied (regOff f.address.toNat) (f.fflags.getLsbD 0) = none ∧ regBlock (regOff f.address.toNat) ≠ 3) ∧
    (∃ (p : Port) (f : Frame) (s : State), f.type = 0x02 ∧ FrameIsNext f s ∧ badRegAddr f.address.toNat = false ∧ hostDenied (regOff f.address.toNat) (f.fflags.getLsbD 0) = none ∧ regOff f.address.toNat = 0x20020 ∧ f.fflags.getLsbD 0 = true) ∧
    (∃ (p : Port) (f : Frame) (s : State), f.type = 0x03 ∧ FrameIsNext f s ∧ bulkCheck f.address.toNat f.payload.length true s = none ∧ f.address.toNat < topOfDram s ∧ (f.fflags.getLsbD 0 = true ∨ touchesSecureRing f.address.toNat f.payload.length s = false) ∧ DramOpen f.address.toNat f.payload.length s) ∧
    (∃ (p : Port) (f : Frame) (s : State), f.type = 0x03 ∧ FrameIsNext f s ∧ f.fflags.getLsbD 0 = false ∧ touchesSecureRing f.address.toNat f.payload.length s = true) ∧
    (∃ (p : Port) (f : Frame) (s : State), f.type = 0x04 ∧ FrameIsNext f s ∧ bulkCheck f.address.toNat f.arg.toNat false s = none ∧ f.address.toNat < topOfDram s ∧ s.faults.poisonNext = [] ∧ (s.mem.home = false ∨ s.mem.dir = []) ∧ (∀ a, f.address.toNat ≤ a → a < f.address.toNat + f.arg.toNat → viewBad a s = false)) ∧
    (∃ (p : Port) (f : Frame) (found : List (Nat × BadSymbols)) (s : State), f.type = 0x04 ∧ FrameIsNext f s ∧ bulkCheck f.address.toNat f.arg.toNat false s = none ∧ f.address.toNat < topOfDram s ∧ s.faults.poisonNext = [] ∧ (s.mem.home = false ∨ s.mem.dir = []) ∧ (∀ a, f.address.toNat ≤ a → a < f.address.toNat + f.arg.toNat → viewBad a s = false) ∧ (∀ e ∈ found, badLine e.2 = false)) ∧
    (∃ (p : Port) (f : Frame) (s : State), f.type = 0x05 ∧ FrameIsNext f s ∧ field f.payload 0 1 < 12 ∧ field f.payload 1 1 = 1 ∧ field f.payload 2 6 = 0 ∧ partyOutFull (.host (field f.payload 0 1)) s = false) ∧
    (∃ (p : Port) (f : Frame) (s : State), FrameIsNext f s ∧ f.type = 0x01 ∧ badRegAddr f.address.toNat = true) :=
  ⟨⟨(.cp0), (fr 1 0xFF00000000 0 []), (withFr (fr 1 0xFF00000000 0 []) rdy), by decide +kernel, by unfold FrameIsNext; decide +kernel, by decide +kernel, by decide +kernel, by decide +kernel⟩,
   ⟨(.cp0), (fr 2 0xFF00020020 0 [1,2,3,4,5,6,7,8]), (withFr (fr 2 0xFF00020020 0 [1,2,3,4,5,6,7,8]) rdy), by decide +kernel, by unfold FrameIsNext; decide +kernel, by decide +kernel, by decide +kernel, by decide +kernel, by decide +kernel⟩,
   ⟨(.cp0), (fr 3 0x1000 0 [1,2,3,4,5,6,7,8]), (withFr (fr 3 0x1000 0 [1,2,3,4,5,6,7,8]) rdy), by decide +kernel, by unfold FrameIsNext; decide +kernel, by decide +kernel, by decide +kernel, by decide +kernel, by unfold DramOpen; decide +kernel⟩,
   ⟨(.cp0), (({ fr 3 0x1008 0 [1,2,3,4,5,6,7,8] with fflags := 0 } : Frame)), (withFr ({ fr 3 0x1008 0 [1,2,3,4,5,6,7,8] with fflags := 0 } : Frame) { ringSt with cmds := { ringSt.cmds with ctrl := 0xF, taken := { ringSt.cmds.taken with ctrl := 0xF } } }), by decide +kernel, by unfold FrameIsNext; decide +kernel, by decide +kernel, by decide +kernel⟩,
   ⟨(.cp0), (fr 4 0x1000 16 []), (withFr (fr 4 0x1000 16 []) (putDram 0x1000 [3,2,1] rdy)), by decide +kernel, by unfold FrameIsNext; decide +kernel, by decide +kernel, by decide +kernel, by decide +kernel, by decide +kernel, by decide +kernel⟩,
   ⟨(.cp0), ((fr 4 0x1000 16 [])), ([(0x1000, ⟨2, 3, 5, false, 0, 0⟩)]), (withFr (fr 4 0x1000 16 []) (putDram 0x1000 [3,2,1] rdy)), by decide +kernel, by unfold FrameIsNext; decide +kernel, by decide +kernel, by decide +kernel, by decide +kernel, by decide +kernel, by decide +kernel, by decide +kernel⟩,
   ⟨(.cp0), (fr 5 0 0 [11,1,0,0,0,0,0,0,1,2,3,4,5,6,7,8]), (withFr (fr 5 0 0 [11,1,0,0,0,0,0,0,1,2,3,4,5,6,7,8]) rdy), by decide +kernel, by unfold FrameIsNext; decide +kernel, by decide +kernel, by decide +kernel, by decide +kernel, by decide +kernel⟩,
   ⟨(.cp0), (fr 1 0xFF000D0000 0 []), (withFr (fr 1 0xFF000D0000 0 []) rdy), by unfold FrameIsNext; decide +kernel, by decide +kernel, by decide +kernel⟩⟩

/-- The hypotheses of each clause of ControlPorts can be met together. -/
theorem witness_ControlPorts :
    (∃ (seq : BitVec 32) (s : State), s.ports.resync = none) ∧
    (∃ (h : HeldFrame) (u : Nat) (s : State), s.ports.resync = some h ∧ h.skewUntil = some u ∧ u ≤ s.clock.now) ∧
    (∃ (began : Nat) (s : State), s.ports.gap = some (began, none) ∧ began + 50000 ≤ s.clock.now ∧ gapOpen s = true) ∧
    (∃ (s : State), s.ports.credit ≠ s.ports.creditSent ∧ s.ports.creditAt + 1000 ≤ s.clock.now ∧ anyActive s = true) ∧
    (∃ (p : Port) (s : State), (portSt p s).phase = .training ∧ (portSt p s).fenced = false ∧ s.dev.state ≠ .haltedThermal ∧ (linkGet (portLink p) s).negDone = true) ∧
    (∃ (p : Port) (s : State), (portSt p s).phase = .active) ∧
    (∃ (p : Port) (s : State), (portSt p s).phase = .active ∧ (portSt p s).stable = false ∧ (portSt p s).activeAt + 100000000 ≤ s.clock.now) :=
  ⟨⟨(6), ({ withFr (fr 1 0 0 []) rdy with ports := { rdy.ports with slots := [⟨.cp0, fr 1 0 0 [], 0, some 5⟩] } }), by decide +kernel⟩,
   ⟨((⟨.cp0, fr 7 0 0 [], 0, some 5⟩ : HeldFrame)), (5), ({ withFr (fr 1 0 0 []) rdy with ports := { rdy.ports with resync := some (⟨.cp0, fr 7 0 0 [], 0, some 5⟩ : HeldFrame) } }), by decide +kernel, by decide +kernel, by decide +kernel⟩,
   ⟨(5), ({ rdy with ports := { rdy.ports with slots := [⟨.cp0, { fr 1 0 0 [] with seq := 9 }, 0, none⟩], gap := some (5, none) } }), by decide +kernel, by decide +kernel, by decide +kernel⟩,
   ⟨(rdy), by decide +kernel, by decide +kernel, by decide +kernel⟩,
   ⟨(.cp1), ({ rdy with links := [(33, { negDone := true })], ports := { rdy.ports with cp1 := { phase := .training } } }), by decide +kernel, by decide +kernel, by decide +kernel, by decide +kernel⟩,
   ⟨(.cp1), (rdy), by decide +kernel⟩,
   ⟨(.cp1), (rdy), by decide +kernel, by decide +kernel, by decide +kernel⟩⟩

/-- The hypotheses of each clause of HostWindowRows can be met together. -/
theorem witness_HostWindowRows :
    (∃ (cluster : Nat) (off : Nat) (write : Bool) (data : List (BitVec 8)) (s : State), hostLoan s = true ∧ off + data.length ≤ 2 ^ 36 ∧ anyActive s = true ∧ hwinCredit s = true ∧ s.ports.hwinWait = []) ∧
    (∃ (cluster : Nat) (off : Nat) (write : Bool) (data : List (BitVec 8)) (s : State), hostLoan s = true ∧ off + data.length ≤ 2 ^ 36 ∧ anyActive s = true ∧ (hwinCredit s = false ∨ s.ports.hwinWait ≠ [])) ∧
    (∃ (cluster : Nat) (off : Nat) (write : Bool) (data : List (BitVec 8)) (s : State), hostLoan s = true ∧ off + data.length ≤ 2 ^ 36 ∧ anyActive s = false) ∧
    (∃ (p : Port) (f : Frame) (q : HwinReq) (s : State), isNext f s ≠ none ∧ isHwinResp f = true ∧ s.ports.hwin.find? (fun x => x.seq = f.refSeq) = some q ∧ f.arg.toNat % 256 = 0) ∧
    (∃ (q : HwinReq) (s : State), s.ports.hwin.find? (fun x => x.seq = q.seq) = some q ∧ q.attempts < 4 ∧ anyActive s = true ∧ hwinCredit s = true ∧ s.ports.hwinWait = [] ∧ q.sentAt + 100000 ≤ s.clock.now) ∧
    (∃ (q : HwinReq) (s : State), s.ports.hwin.find? (fun x => x.seq = q.seq) = some q ∧ 4 ≤ q.attempts ∧ (anyActive s = true ∨ s.ports.hwinWait = []) ∧ q.sentAt + 100000 ≤ s.clock.now) :=
  ⟨⟨(5), (64), (true), ([1,2]), ({ rdy with graphs := { slot := [(0, { hostSpill := 4096 })] }, ports := { rdy.ports with hostCredit := 4 } }), by decide +kernel, by decide +kernel, by decide +kernel, by decide +kernel, by decide +kernel⟩,
   ⟨(5), (64), (true), ([1,2]), ({ rdy with graphs := { slot := [(0, { hostSpill := 4096 })] } }), by decide +kernel, by decide +kernel, by decide +kernel, by decide +kernel⟩,
   ⟨(5), (64), (true), ([1,2]), ({ rdy with graphs := { slot := [(0, { hostSpill := 4096 })] }, ports := {} }), by decide +kernel, by decide +kernel, by decide +kernel⟩,
   ⟨(.cp0), ({ fr 0x8A 0 0 [] with refSeq := 9 }), ((⟨5, 9, 5, true, 64, [1,2], 3, 1⟩ : HwinReq)), (withFr ({ fr 0x8A 0 0 [] with refSeq := 9 }) { rdy with ports := { rdy.ports with hwin := [(⟨5, 9, 5, true, 64, [1,2], 3, 1⟩ : HwinReq)] } }), by decide +kernel, by decide +kernel, by decide +kernel, by decide +kernel⟩,
   ⟨((⟨5, 9, 5, true, 64, [1,2], 3, 1⟩ : HwinReq)), ({ rdy with ports := { rdy.ports with hwin := [(⟨5, 9, 5, true, 64, [1,2], 3, 1⟩ : HwinReq)], devSeq := 11, hostCredit := 4 } }), by decide +kernel, by decide +kernel, by decide +kernel, by decide +kernel, by decide +kernel, by decide +kernel⟩,
   ⟨((⟨5, 9, 5, true, 64, [1,2], 3, 4⟩ : HwinReq)), ({ rdy with ports := { rdy.ports with hwin := [(⟨5, 9, 5, true, 64, [1,2], 3, 4⟩ : HwinReq)], devSeq := 11 } }), by decide +kernel, by decide +kernel, by decide +kernel, by decide +kernel⟩⟩

/-- The hypotheses of each clause of RingConfigurationIsCheckedAtTheDoorbell can be met together. -/
theorem witness_RingConfigurationIsCheckedAtTheDoorbell :
    (∃ (v : BitVec 64) (a : Access) (s : State), a.secure = true) ∧
    (∃ (v : BitVec 64) (a : Access) (s : State), a.secure = true) ∧
    (∃ (v : BitVec 64) (a : Access) (s : State), a.secure = true) ∧
    (∃ (q : RingReg) (v : BitVec 64) (a : Access) (s : State), a.secure = true) ∧
    (∃ (a : Access) (s : State), fwActs s = true) :=
  ⟨⟨(0x0205), (sec1), (ringSt), by decide +kernel⟩,
   ⟨(0x8000), (sec1), (ringSt), by decide +kernel⟩,
   ⟨(0x80), (sec1), ({ ringSt with cmds := { ringSt.cmds with ctrl := 0 } }), by decide +kernel⟩,
   ⟨(.uqSize), (0x80), (sec1), (ringSt), by decide +kernel⟩,
   ⟨(sec1), ({ rdy with cmds := { ringSt.cmds with nq := {ringSt.cmds.nq with enabled := false, base := 3 } } }), by decide +kernel⟩⟩

/-- The hypotheses of each clause of AnnouncementAndDescriptorTake can be met together. -/
theorem witness_AnnouncementAndDescriptorTake :
    (∃ (ch : Nat) (w : BitVec 64) (s : State), ch < 24 ∧ fwActs s = true ∧ (tget {} s.mbx.host ch).outFull = true ∧ (tget {} s.mbx.host ch).outWord = w ∧ w >>> 32 = 0 ∧ (ringsOn ch s).contains .normal = true ∧ above s.cmds.nq.ctotal (w.setWidth 32) = false ∧ (w.setWidth 32 - s.cmds.nq.ctotal).toNat ≤ (ringTaken .normal s).2) ∧
    (∃ (ch : Nat) (w : BitVec 64) (s : State), ch < 24 ∧ fwActs s = true ∧ (tget {} s.mbx.host ch).outFull = true ∧ (tget {} s.mbx.host ch).outWord = w ∧ w >>> 32 = 0 ∧ ringsOn ch s = [.normal] ∧ above s.cmds.nq.ctotal (w.setWidth 32) = false ∧ (ringTaken .normal s).2 < (w.setWidth 32 - s.cmds.nq.ctotal).toNat) ∧
    (∃ (q : Queue) (s : State), fwActs s = true ∧ available q s = true ∧ (q = .normal → available .urgent s = false) ∧ s.cmds.held.length < 4096 ∧ crc32c ((nextDescriptor q s).take 60) = BitVec.ofNat 32 (field (nextDescriptor q s) 60 4) ∧ above (BitVec.ofNat 32 (field (nextDescriptor q s) 0 4)) (ringOf q s).accepted = true ∧ checks345 (parseDescriptor q (ringSecure q s) (nextDescriptor q s)) s = none) ∧
    (∃ (q : Queue) (s : State), fwActs s = true ∧ available q s = true ∧ (q = .normal → available .urgent s = false) ∧ s.cmds.held.length < 4096 ∧ crc32c ((nextDescriptor q s).take 60) ≠ BitVec.ofNat 32 (field (nextDescriptor q s) 60 4)) ∧
    (∃ (q : Queue) (s : State), fwActs s = true ∧ available q s = true ∧ (q = .normal → available .urgent s = false) ∧ s.cmds.held.length < 4096 ∧ crc32c ((nextDescriptor q s).take 60) = BitVec.ofNat 32 (field (nextDescriptor q s) 60 4) ∧ above (BitVec.ofNat 32 (field (nextDescriptor q s) 0 4)) (ringOf q s).accepted = false) :=
  ⟨⟨(0), (3), ({ ringSt with mbx := { host := [(0, { outFull := true, outWord := 3 })] } }), by decide +kernel, by decide +kernel, by decide +kernel, by decide +kernel, by decide +kernel, by decide +kernel, by decide +kernel, by decide +kernel⟩,
   ⟨(0), (99), ({ ringSt with cmds := { ringSt.cmds with ctrl := 7 + 2 ^ 16, uq := {}, taken := { ringSt.cmds.taken with ctrl := 7 + 2 ^ 16 } }, mbx := { host := [(0, { outFull := true, outWord := 99 })] } }), by decide +kernel, by decide +kernel, by decide +kernel, by decide +kernel, by decide +kernel, by decide +kernel, by decide +kernel, by decide +kernel⟩,
   ⟨(.normal), (putDram 0x1000 (ringDesc rawDesc) ringSt), by decide +kernel, by decide +kernel, by decide +kernel, by decide +kernel, by decide +kernel, by decide +kernel, by decide +kernel⟩,
   ⟨(.normal), (putDram 0x1000 ([9] ++ ringDesc rawDesc) ringSt), by decide +kernel, by decide +kernel, by decide +kernel, by decide +kernel, by decide +kernel⟩,
   ⟨(.normal), (putDram 0x1000 (ringDesc rawDesc) { ringSt with cmds := { ringSt.cmds with nq := { ringSt.cmds.nq with accepted := 7 } } }), by decide +kernel, by decide +kernel, by decide +kernel, by decide +kernel, by decide +kernel, by decide +kernel⟩⟩

/-- The hypotheses of each clause of CommandFlow can be met together. -/
theorem witness_CommandFlow :
    (∃ (q : Queue) (a : Accepted) (rest : List Accepted) (s : State), fwActs s = true ∧ (ringOf q s).waiting = a :: rest ∧ fenceMet a s = true ∧ legalNow a.desc s = true ∧ a.desc.queue = q ∧ a.desc.opcode = 0x0106 ∧ a ∉ rest ∧ a ∉ (ringOf q s).begun) ∧
    (∃ (q : Queue) (a : Accepted) (rest : List Accepted) (s : State), fwActs s = true ∧ (ringOf q s).waiting = a :: rest ∧ fenceMet a s = true ∧ legalNow a.desc s = false) ∧
    (∃ (q : Queue) (a : Accepted) (rest : List Accepted) (s : State), (ringOf q s).waiting = a :: rest ∧ fenceMet a s = false) ∧
    (∃ (e : Entry) (rest : List Entry) (s : State), fwRuns s = true ∧ s.cairn.frozen = false ∧ s.cmds.held = e :: rest ∧ ringRoom e s = true ∧ DramOpen ((ringTaken .completion s).1 + 64 * (e.dseq.toNat % (ringTaken .completion s).2)) 64 s ∧ (ringTaken .completion s).1 + 64 * (e.dseq.toNat % (ringTaken .completion s).2) < topOfDram s) ∧
    (∃ (v : BitVec 64) (s : State), above (v.setWidth 32) s.cmds.posted = true) ∧
    (∃ (v : BitVec 64) (s : State), above (v.setWidth 32) s.cmds.posted = false) ∧
    (∃ (s : State), fwActs s = true ∧ watchOut s = true ∧ s.cmds.wdPause = false) ∧
    (∃ (s : State), fwActs s = true ∧ watchOut s = true ∧ s.cmds.wdPause = true) ∧
    (∃ (s : State), fwActs s = true) :=
  ⟨⟨(.normal), (acc1), ([]), ({ rdy with cmds := { nq := { waiting := [acc1] } } }), by decide +kernel, by decide +kernel, by decide +kernel, by decide +kernel, by decide +kernel, by decide +kernel, by decide +kernel, by decide +kernel⟩,
   ⟨(.normal), ((⟨{ dsc with opcode := 0x0304 }, 3, 1⟩ : Accepted)), ([]), ({ rdy with cmds := { nq := { waiting := [(⟨{ dsc with opcode := 0x0304 }, 3, 1⟩ : Accepted)] } } }), by decide +kernel, by decide +kernel, by decide +kernel, by decide +kernel⟩,
   ⟨(.normal), ((⟨{ dsc with fence := true }, 3, 1⟩ : Accepted)), ([]), ({ rdy with cmds := { nq := { waiting := [(⟨{ dsc with fence := true }, 3, 1⟩ : Accepted)] }, uq := { begun := [⟨dsc, 3, 0⟩] } } }), by decide +kernel, by decide +kernel⟩,
   ⟨(ent1), ([]), ({ ringSt with cmds := { ringSt.cmds with held := [ent1] } }), by decide +kernel, by decide +kernel, by decide +kernel, by decide +kernel, by unfold DramOpen; decide +kernel, by decide +kernel⟩,
   ⟨(9), (rdy), by decide +kernel⟩,
   ⟨(0), (rdy), by decide +kernel⟩,
   ⟨({ rdy with cmds := { wdInterval := 50 } }), by decide +kernel, by decide +kernel, by decide +kernel⟩,
   ⟨({ rdy with cmds := { wdInterval := 50, wdPause := true }, graphs := { slot := [(0, { state := some .running })] } }), by decide +kernel, by decide +kernel, by decide +kernel⟩,
   ⟨({ rdy with db := { fwStatus := 0x7FFFFFF, fwMask := 0x101, epoch := 4 } }), by decide +kernel⟩⟩

/-- The hypotheses of each clause of DeviceCommands can be met together. -/
theorem witness_DeviceCommands :
    (∃ (d : Descriptor) (s : State), CanBegin 0x0101 d s ∧ d.resAddr.toNat < topOfDram s ∧ (infoBytes s).length ≤ d.resLen.toNat ∧ DramOpen d.resAddr.toNat (infoBytes s).length s) ∧
    (∃ (d : Descriptor) (s : State), CanBegin 0x0102 d s) ∧
    (∃ (d : Descriptor) (w : WakeReport) (s : State), CanBegin 0x0103 d s ∧ s.dev.waking = none) ∧
    (∃ (d : Descriptor) (s : State), CanBegin 0x0104 d s ∧ d.imm0.toNat % 16 = 1) ∧
    (∃ (d : Descriptor) (s : State), CanBegin 0x0104 d s ∧ d.imm0.toNat % 16 = 2 ∧ flankBusy (flankOfNum (bitsOf d.imm0.toNat 8 8)) s = false) ∧
    (∃ (d : Descriptor) (s : State), CanBegin 0x0104 d s ∧ (d.imm0.toNat % 16 = 2 ∨ d.imm0.toNat % 16 = 3) ∧ flankBusy (flankOfNum (bitsOf d.imm0.toNat 8 8)) s = true) ∧
    (∃ (d : Descriptor) (s : State), CanBegin 0x0105 d s ∧ d.imm0.toNat % 4 ≠ 3 ∧ 1000 ≤ d.imm1.toNat) ∧
    (∃ (d : Descriptor) (s : State), CanBegin 0x0105 d s ∧ d.imm1.toNat ≠ 0 ∧ d.imm1.toNat < 1000) ∧
    (∃ (d : Descriptor) (s : State), CanBegin 0x0106 d s) ∧
    (∃ (d : Descriptor) (x : Domain) (s : State), CanBegin 0x0701 d s ∧ requestDomain d.target s = some x ∧ (reqOf x s).enforcing = false ∧ d.imm0.getLsbD 0 = false) :=
  ⟨⟨({ dsc with resAddr := 0x8000, resLen := 4096 }), (rdy), by unfold CanBegin; decide +kernel, by decide +kernel, by decide +kernel, by unfold DramOpen; decide +kernel⟩,
   ⟨(dsc), (rdy), by unfold CanBegin; decide +kernel⟩,
   ⟨(dsc), (⟨[], []⟩), ({ rdy with dev := { rdy.dev with state := .standby } }), by unfold CanBegin; decide +kernel, by decide +kernel⟩,
   ⟨({ dsc with imm0 := 1 }), (rdy), by unfold CanBegin; decide +kernel, by decide +kernel⟩,
   ⟨({ dsc with imm0 := 0x102 }), (rdy), by unfold CanBegin; decide +kernel, by decide +kernel, by decide +kernel⟩,
   ⟨({ dsc with imm0 := 0x103 }), ({ rdy with dev := { rdy.dev with north := .softReset } }), by unfold CanBegin; decide +kernel, by decide +kernel, by decide +kernel⟩,
   ⟨({ dsc with imm0 := 2, imm1 := 5000 }), (rdy), by unfold CanBegin; decide +kernel, by decide +kernel, by decide +kernel⟩,
   ⟨({ dsc with imm0 := 2, imm1 := 999 }), (rdy), by unfold CanBegin; decide +kernel, by decide +kernel, by decide +kernel⟩,
   ⟨({ dsc with imm0 := 2, imm1 := 1 }), (rdy), by unfold CanBegin; decide +kernel⟩,
   ⟨({ dsc with target := 4 }), (.south), ({ rdy with therm := { rdy.therm with reqS := { opened := true, id := 4 } } }), by unfold CanBegin; decide +kernel, by decide +kernel, by decide +kernel, by decide +kernel⟩⟩

/-- The hypotheses of each clause of MemoryCommands can be met together. -/
theorem witness_MemoryCommands :
    (∃ (d : Descriptor) (s : State), CanBegin 0x0201 d s) ∧
    (∃ (d : Descriptor) (i : Nat) (s : State), CanBegin 0x0202 d s ∧ d.imm0.toNat % 2 ^ 21 = 0 ∧ d.imm1.toNat % 2 ^ 21 = 0 ∧ d.imm1.toNat ≠ 0 ∧ d.imm0.toNat + d.imm1.toNat ≤ topOfDram s ∧ (heldSpans s).any (overlaps (d.imm0.toNat, d.imm1.toNat)) = false ∧ freeWindow s = some i) ∧
    (∃ (d : Descriptor) (s : State), CanBegin 0x0202 d s ∧ d.imm0.toNat % 2 ^ 21 ≠ 0) ∧
    (∃ (d : Descriptor) (s : State), CanBegin 0x0203 d s) ∧
    (∃ (d : Descriptor) (w : Loan) (s : State), CanBegin 0x0204 d s ∧ d.target.toNat < 64 ∧ tget none s.mem.windows d.target.toNat = some w ∧ (w.inUse = false ∨ d.imm0.getLsbD 0 = true)) ∧
    (∃ (d : Descriptor) (w : Loan) (s : State), CanBegin 0x0204 d s ∧ d.target.toNat < 64 ∧ tget none s.mem.windows d.target.toNat = some w ∧ w.inUse = true ∧ d.imm0.getLsbD 0 = false) :=
  ⟨⟨({ dsc with imm0 := 0x11 }), (rdy), by unfold CanBegin; decide +kernel⟩,
   ⟨({ dsc with target := 5, imm0 := 0x200000, imm1 := 0x200000 }), (0), (rdy), by unfold CanBegin; decide +kernel, by decide +kernel, by decide +kernel, by decide +kernel, by decide +kernel, by decide +kernel, by decide +kernel⟩,
   ⟨({ dsc with target := 5, imm0 := 1 }), (rdy), by unfold CanBegin; decide +kernel, by decide +kernel⟩,
   ⟨({ dsc with imm0 := 0x10000000 }), (rdy), by unfold CanBegin; decide +kernel⟩,
   ⟨({ dsc with target := 63 }), ((⟨0x200000, 0x200000, none, true, false, false⟩ : Loan)), ({ rdy with mem := { rdy.mem with windows := [(63, some (⟨0x200000, 0x200000, none, true, false, false⟩ : Loan))] } }), by unfold CanBegin; decide +kernel, by decide +kernel, by decide +kernel, by decide +kernel⟩,
   ⟨({ dsc with target := 63 }), ((⟨0x200000, 0x200000, none, true, false, true⟩ : Loan)), ({ rdy with mem := { rdy.mem with windows := [(63, some (⟨0x200000, 0x200000, none, true, false, true⟩ : Loan))] } }), by unfold CanBegin; decide +kernel, by decide +kernel, by decide +kernel, by decide +kernel, by decide +kernel⟩⟩

/-- The hypotheses of each clause of BundleCommands can be met together. -/
theorem witness_BundleCommands :
    (∃ (d : Descriptor) (b : Bundle) (i : Nat) (s : State), CanBegin 0x0301 d s ∧ d.argAddr.toNat < 2 ^ 40 ∧ d.argAddr.toNat < topOfDram s ∧ d.resLen = 0 ∧ checkBundle (viewBytes d.argAddr.toNat d.argLen.toNat s) s = .ok b ∧ b.policy = 0 ∧ freeSlot s = some i ∧ loadNeed b (adoptedAt d b s).isSome ≤ rangeBytes (freeRanges s)) ∧
    (∃ (d : Descriptor) (b : Bundle) (s : State), CanBegin 0x0302 d s ∧ d.argAddr.toNat < 2 ^ 40 ∧ d.argAddr.toNat < topOfDram s ∧ 64 ≤ d.resLen.toNat ∧ checkBundle (viewBytes d.argAddr.toNat d.argLen.toNat s) s = .ok b ∧ b.policy = 0 ∧ loadNeed b (adoptedAt d b s).isSome ≤ rangeBytes (freeRanges s)) ∧
    (∃ (d : Descriptor) (i : Nat) (g : Graph) (w : FitWait) (s : State), CanBegin 0x0303 d s ∧ graphAt d.target s = some (i, g) ∧ g.state = some .loaded ∧ PlaceFits d i g w s) ∧
    (∃ (d : Descriptor) (i : Nat) (g : Graph) (s : State), CanBegin 0x0308 d s ∧ graphAt d.target s = some (i, g) ∧ g.state ≠ some .running ∧ g.state ≠ some .paused) :=
  ⟨⟨({ dsc with argAddr := 0x10000, argLen := 384 }), (bunB), (0), (bst), by unfold CanBegin; decide +kernel, by decide +kernel, by decide +kernel, by decide +kernel, bun_ok, by decide +kernel, by decide +kernel, by decide +kernel⟩,
   ⟨({ dsc with argAddr := 0x10000, argLen := 384, resAddr := 0x20000, resLen := 64 }), (bunB), (bst), by unfold CanBegin; decide +kernel, by decide +kernel, by decide +kernel, by decide +kernel, bun_ok, by decide +kernel, by decide +kernel⟩,
   ⟨(placeCmd), (0), (gphE), (placeWait), (gst gphE), by unfold CanBegin; decide +kernel, by decide +kernel, by decide +kernel, ⟨[], [], (), by decide +kernel, by decide +kernel, rfl, by decide +kernel, by decide +kernel, by decide +kernel, by decide +kernel, by decide +kernel, by decide +kernel⟩⟩,
   ⟨(dscH), (0), (gph), (gst gph), by unfold CanBegin; decide +kernel, by decide +kernel, by decide +kernel, by decide +kernel⟩⟩

/-- The hypotheses of each clause of GraphCommands can be met together. -/
theorem witness_GraphCommands :
    (∃ (d : Descriptor) (i : Nat) (g : Graph) (binds : List (Nat × Nat × Nat)) (rows : List (List Nat)) (s : State), CanBegin 0x0304 d s ∧ graphAt d.target s = some (i, g) ∧ g.state = some .placed ∧ g.lost = false ∧ startArgs { d with opcode := 0x0304 } g.b s = some (binds, rows) ∧ (placedIds g).all (fun x => !exposedFenced x s) = true ∧ startRoom g = true) ∧
    (∃ (d : Descriptor) (i : Nat) (g : Graph) (s : State), CanBegin 0x0305 d s ∧ targetAll d = false ∧ graphAt d.target s = some (i, g) ∧ g.state = some .running) ∧
    (∃ (d : Descriptor) (i : Nat) (g : Graph) (s : State), CanBegin 0x0306 d s ∧ targetAll d = false ∧ graphAt d.target s = some (i, g) ∧ g.state = some .paused ∧ FabricQuiet s) ∧
    (∃ (d : Descriptor) (i : Nat) (g : Graph) (s : State), CanBegin 0x0307 d s ∧ targetAll d = false ∧ graphAt d.target s = some (i, g) ∧ (g.state = some .running ∨ g.state = some .paused)) ∧
    (∃ (d : Descriptor) (i : Nat) (g : Graph) (s : State), CanBegin 0x0305 d s ∧ targetAll d = false ∧ graphAt d.target s = some (i, g) ∧ g.state ≠ some .running) ∧
    (∃ (d : Descriptor) (i : Nat) (g : Graph) (s : State), CanBegin 0x0304 d s ∧ graphAt d.target s = some (i, g) ∧ g.state = some .stale) :=
  ⟨⟨({ dscH with argAddr := 0x30000, argLen := 32 }), (0), ({ grunning with state := some .placed }), ([(0, 0x40000, 64), (1, 0x50000, 64)]), ([]), (stSt), by unfold CanBegin; decide +kernel, by decide +kernel, by decide +kernel, by decide +kernel, by decide +kernel, by decide +kernel, by decide +kernel⟩,
   ⟨(dscH), (0), (grunning), ({ gst grunning with dev := { state := .running } }), by unfold CanBegin; decide +kernel, by decide +kernel, by decide +kernel, by decide +kernel⟩,
   ⟨(dscH), (0), ({ grunning with state := some .paused }), ({ gst { grunning with state := some .paused } with dev := { state := .paused } }), by unfold CanBegin; decide +kernel, by decide +kernel, by decide +kernel, by decide +kernel, by unfold FabricQuiet; decide +kernel⟩,
   ⟨(dscH), (0), (grunning), ({ gst grunning with dev := { state := .running } }), by unfold CanBegin; decide +kernel, by decide +kernel, by decide +kernel, by decide +kernel⟩,
   ⟨(dscH), (0), (gph), ({ gst gph with dev := { state := .running } }), by unfold CanBegin; decide +kernel, by decide +kernel, by decide +kernel, by decide +kernel⟩,
   ⟨(dscH), (0), ({ gph with state := some .stale }), (gst { gph with state := some .stale }), by unfold CanBegin; decide +kernel, by decide +kernel, by decide +kernel⟩⟩

/-- The hypotheses of each clause of FabricAndCounterCommands can be met together. -/
theorem witness_FabricAndCounterCommands :
    (∃ (d : Descriptor) (s : State), CanBegin 0x0401 d s ∧ d.resAddr.toNat < topOfDram s ∧ (fabBytes s).length ≤ d.resLen.toNat ∧ DramOpen d.resAddr.toNat (fabBytes s).length s) ∧
    (∃ (d : Descriptor) (s : State), CanBegin 0x0402 d s ∧ (argBytes d s).2 = s ∧ fabOk (fabArg (argBytes d s).1) s = true) ∧
    (∃ (d : Descriptor) (s : State), CanBegin 0x0402 d s ∧ (argBytes d s).2 = s ∧ fabOk (fabArg (argBytes d s).1) s = false) ∧
    (∃ (d : Descriptor) (s : State), CanBegin 0x0403 d s ∧ d.target.toNat < 32 ∧ d.imm0 = 1 ∧ linkFenced d.target.toNat s = false) ∧
    (∃ (d : Descriptor) (s : State), CanBegin 0x0501 d s ∧ d.imm0.toNat < 16 ∧ d.imm1.toNat < 2) ∧
    (∃ (d : Descriptor) (s : State), CanBegin 0x0502 d s ∧ d.target.toNat / 4096 = 5 ∧ d.target.toNat % 4096 < 8 ∧ d.resAddr.toNat < topOfDram s ∧ (sampleUnit d.target.toNat s).length ≤ d.resLen.toNat ∧ DramOpen d.resAddr.toNat (sampleUnit d.target.toNat s).length s) :=
  ⟨⟨({ dsc with resAddr := 0x20000, resLen := 4096 }), (rdy), by unfold CanBegin; decide +kernel, by decide +kernel, by decide +kernel, by unfold DramOpen; decide +kernel⟩,
   ⟨({ dsc with argAddr := 0x20000, argLen := 64 }), (fabcSt), by unfold CanBegin; decide +kernel, by decide +kernel, by decide +kernel⟩,
   ⟨({ dsc with argAddr := 0x20000, argLen := 64 }), (rdy), by unfold CanBegin; decide +kernel, by decide +kernel, by decide +kernel⟩,
   ⟨({ dsc with target := 31, imm0 := 1 }), ({ rdy with links := [(31, { st := .light })] }), by unfold CanBegin; decide +kernel, by decide +kernel, by decide +kernel, by decide +kernel⟩,
   ⟨({ dsc with imm0 := 5, imm1 := 1 }), ({ rdy with counts := { clusters := [(4, 5)] } }), by unfold CanBegin; decide +kernel, by decide +kernel, by decide +kernel⟩,
   ⟨({ dsc with target := 0x5007, resAddr := 0x20000, resLen := 4096 }), ({ rdy with counts := { clusters := [(4, 5)] } }), by unfold CanBegin; decide +kernel, by decide +kernel, by decide +kernel, by decide +kernel, by decide +kernel, by unfold DramOpen; decide +kernel⟩⟩

/-- The hypotheses of each clause of CairnArmAndTake can be met together. -/
theorem witness_CairnArmAndTake :
    (∃ (d : Descriptor) (s : State), CanBegin 0x0503 d s ∧ s.cairn.state ≠ .taking ∧ d.imm0.toNat ≠ 0 ∧ bitsOf d.imm0.toNat 15 5 = 0 ∧ d.imm0.toNat < 2 ^ 32 ∧ (d.imm0.getLsbD 4 = true → bitsOf d.imm0.toNat 31 16 ≠ 0) ∧ areaHeld s = false) ∧
    (∃ (d : Descriptor) (s : State), CanBegin 0x0503 d s ∧ s.cairn.state ≠ .taking ∧ d.imm0 = 0) ∧
    (∃ (d : Descriptor) (s : State), CanBegin 0x0503 d s ∧ s.cairn.state ≠ .taking ∧ d.imm0.getLsbD 4 = true ∧ bitsOf d.imm0.toNat 31 16 = 0) ∧
    (∃ (d : Descriptor) (s : State), CanBegin 0x0504 d s ∧ s.cairn.state = .armed) ∧
    (∃ (d : Descriptor) (s : State), CanBegin 0x0504 d s ∧ s.cairn.state = .taken) :=
  ⟨⟨({ dsc with imm0 := 0x8001F }), (rdy), by unfold CanBegin; decide +kernel, by decide +kernel, by decide +kernel, by decide +kernel, by decide +kernel, by decide +kernel, by decide +kernel⟩,
   ⟨(dsc), ({ rdy with cairn := { rdy.cairn with state := .armed, area := true, armed := 4 } }), by unfold CanBegin; decide +kernel, by decide +kernel, by decide +kernel⟩,
   ⟨({ dsc with imm0 := 0x1F }), (rdy), by unfold CanBegin; decide +kernel, by decide +kernel, by decide +kernel, by decide +kernel⟩,
   ⟨(dsc), ({ rdy with cairn := { rdy.cairn with state := .armed, area := true, armed := 4 } }), by unfold CanBegin; decide +kernel, by decide +kernel⟩,
   ⟨(dsc), ({ rdy with cairn := { rdy.cairn with state := .taken, area := true, armed := 4 } }), by unfold CanBegin; decide +kernel, by decide +kernel⟩⟩

/-- The hypotheses of each clause of CairnReadCopiesTheSnapshot can be met together. -/
theorem witness_CairnReadCopiesTheSnapshot :
    (∃ (d : Descriptor) (s : State), CanBegin 0x0505 d s ∧ s.cairn.state = .taken ∧ d.imm0.toNat + d.resLen.toNat ≤ 0x4940000 ∧ d.resAddr.toNat < topOfDram s ∧ DramOpen d.resAddr.toNat d.resLen.toNat s) ∧
    (∃ (d : Descriptor) (s : State), CanBegin 0x0505 d s ∧ s.cairn.state = .taking) ∧
    (∃ (d : Descriptor) (s : State), CanBegin 0x0505 d s ∧ (s.cairn.state = .disarmed ∨ s.cairn.state = .armed)) ∧
    (∃ (d : Descriptor) (s : State), CanBegin 0x0505 d s ∧ s.cairn.state = .taken ∧ 0x4940000 < d.imm0.toNat + d.resLen.toNat) :=
  ⟨⟨({ dsc with imm0 := 0x493FFF8, resAddr := 0x20000, resLen := 8 }), (putDram (cairnBase rdy + 0x493FFF8) [4,5,6] ({ rdy with cairn := { rdy.cairn with state := .taken, area := true, armed := 4 } })), by unfold CanBegin; decide +kernel, by decide +kernel, by decide +kernel, by decide +kernel, by unfold DramOpen; decide +kernel⟩,
   ⟨(dsc), ({ rdy with cairn := { rdy.cairn with state := .taking, area := true, armed := 4 } }), by unfold CanBegin; decide +kernel, by decide +kernel⟩,
   ⟨(dsc), ({ rdy with cairn := { rdy.cairn with state := .armed, area := true, armed := 4 } }), by unfold CanBegin; decide +kernel, by decide +kernel⟩,
   ⟨({ dsc with imm0 := 0x4940000, resAddr := 0x20000, resLen := 8 }), ({ rdy with cairn := { rdy.cairn with state := .taken, area := true, armed := 4 } }), by unfold CanBegin; decide +kernel, by decide +kernel, by decide +kernel⟩⟩

/-- The hypotheses of each clause of FaultCommands can be met together. -/
theorem witness_FaultCommands :
    (∃ (d : Descriptor) (s : State), CanBegin 0x0601 d s ∧ d.target = 0xFFFFFFFF ∧ d.resAddr.toNat < topOfDram s ∧ (faultDump s).length ≤ d.resLen.toNat ∧ DramOpen d.resAddr.toNat (faultDump s).length s) ∧
    (∃ (d : Descriptor) (i : Nat) (r : FaultRec) (s : State), CanBegin 0x0602 d s ∧ d.target.toNat < 65536 ∧ sourceCheck d.target.toNat s = none ∧ recordOf (groupKey d.target.toNat) s = some (i, r) ∧ d.imm0.toNat % 2 ^ 32 = r.count ∧ causePersists (groupKey d.target.toNat) r.cls s = false) ∧
    (∃ (d : Descriptor) (i : Nat) (r : FaultRec) (s : State), CanBegin 0x0602 d s ∧ d.target.toNat < 65536 ∧ sourceCheck d.target.toNat s = none ∧ recordOf (groupKey d.target.toNat) s = some (i, r) ∧ causePersists (groupKey d.target.toNat) r.cls s = true) ∧
    (∃ (d : Descriptor) (s : State), CanBegin 0x0603 d s ∧ d.target.toNat < 65536 ∧ sourceCheck d.target.toNat s = none ∧ d.imm0.toNat % 4 = 0) ∧
    (∃ (d : Descriptor) (s : State), CanBegin 0x0603 d s ∧ d.target.toNat / 4096 = 13 ∧ d.target.toNat % 4096 < 2 ∧ d.imm0.toNat % 4 = 2) :=
  ⟨⟨({ dsc with target := 0xFFFFFFFF, resAddr := 0x20000, resLen := 65536 }), (rdy), by unfold CanBegin; decide +kernel, by decide +kernel, by decide +kernel, by decide +kernel, by unfold DramOpen; decide +kernel⟩,
   ⟨({ dsc with target := 0x5001, imm0 := 3 }), (4), ({ ({ group := 0x5001, count := 3, cls := .c, holdsFirst := true } : FaultRec) with group := BitVec.ofNat 16 (groupKey 0x5001) }), ({ rdy with faults := { records := [(4, some { ({ group := 0x5001, count := 3, cls := .c, holdsFirst := true } : FaultRec) with group := BitVec.ofNat 16 (groupKey 0x5001) })] } }), by unfold CanBegin; decide +kernel, by decide +kernel, by decide +kernel, by decide +kernel, by decide +kernel, by decide +kernel⟩,
   ⟨({ dsc with target := 0xD001, imm0 := 3 }), (4), ({ ({ group := 0x5001, count := 3, cls := .c, holdsFirst := true } : FaultRec) with group := BitVec.ofNat 16 (groupKey 0xD001) }), ({ rdy with ports := { rdy.ports with cp1 := {} }, faults := { records := [(4, some { ({ group := 0x5001, count := 3, cls := .c, holdsFirst := true } : FaultRec) with group := BitVec.ofNat 16 (groupKey 0xD001) })] } }), by unfold CanBegin; decide +kernel, by decide +kernel, by decide +kernel, by decide +kernel, by decide +kernel⟩,
   ⟨({ dsc with target := 0xD000, imm0 := 0 }), (rdy), by unfold CanBegin; decide +kernel, by decide +kernel, by decide +kernel, by decide +kernel⟩,
   ⟨({ dsc with target := 0xD000, imm0 := 2 }), (rdy), by unfold CanBegin; decide +kernel, by decide +kernel, by decide +kernel, by decide +kernel⟩⟩

/-- The hypotheses of each clause of SecurityCommands can be met together. -/
theorem witness_SecurityCommands :
    (∃ (d : Descriptor) (s : State), CanBegin 0x0801 d s ∧ d.argLen = 32 ∧ s.part.identityBad = false ∧ s.sec.nextLeaf < 2 ^ 25 ∧ quoteWait s = 0 ∧ s.sec.nextLeaf < s.sec.trees * 2 ^ 15 ∧ quoteSize d ≤ d.resLen.toNat ∧ Leaves.ok s.sec) ∧
    (∃ (d : Descriptor) (s : State), CanBegin 0x0801 d s ∧ d.argLen = 32 ∧ s.part.identityBad = false ∧ s.sec.nextLeaf = 2 ^ 25) ∧
    (∃ (d : Descriptor) (s : State), CanBegin 0x0802 d s ∧ (argBytes d s).2 = s) ∧
    (∃ (d : Descriptor) (s : State), CanBegin 0x0803 d s ∧ (argBytes d s).2 = s ∧ s.boot.update = none ∧ d.argLen ≠ 0 ∧ d.argLen.toNat ≤ 2 ^ 24) ∧
    (∃ (d : Descriptor) (s : State), CanBegin 0x0803 d s ∧ s.boot.update.isSome = true) :=
  ⟨⟨({ dsc with argLen := 32, argAddr := 0x30000, resAddr := 0x20000, resLen := 65536 }), ({ rdy with sec := { rdy.sec with trees := 1 } }), by unfold CanBegin; decide +kernel, by decide +kernel, by decide +kernel, by decide +kernel, by decide +kernel, by decide +kernel, by decide +kernel, by unfold Leaves.ok; decide +kernel⟩,
   ⟨({ dsc with argLen := 32, argAddr := 0x30000, resAddr := 0x20000, resLen := 65536 }), ({ rdy with sec := { rdy.sec with nextLeaf := 2 ^ 25, reserved := 2 ^ 25 } }), by unfold CanBegin; decide +kernel, by decide +kernel, by decide +kernel, by decide +kernel⟩,
   ⟨({ dsc with argLen := 64, argAddr := 0x20000 }), (rdy), by unfold CanBegin; decide +kernel, by decide +kernel⟩,
   ⟨({ dsc with argLen := 64, argAddr := 0x20000 }), (rdy), by unfold CanBegin; decide +kernel, by decide +kernel, by decide +kernel, by decide +kernel, by decide +kernel⟩,
   ⟨({ dsc with argLen := 64, argAddr := 0x20000 }), ({ rdy with boot := { rdy.boot with update := some (0, ⟨true,true,0,0,0⟩, acc1) } }), by unfold CanBegin; decide +kernel, by decide +kernel⟩⟩

/-- The hypotheses of each clause of UnalignedRegisterAccess can be met together. -/
theorem witness_UnalignedRegisterAccess :
    (∃ (p : Port) (f : Frame) (s : State), isNext f s ≠ none ∧ f.type = 0x01 ∧ f.address.toNat % 8 ≠ 0) ∧
    (∃ (p : Port) (f : Frame) (s : State), isNext f s ≠ none ∧ f.type = 0x02 ∧ (f.address.toNat % 8 ≠ 0 ∨ f.payload.length ≠ 8)) ∧
    (∃ (addr : BitVec 40) (v : BitVec 64) (a : Access) (s : State), addr.toNat % 8 ≠ 0) :=
  ⟨⟨(.cp0), ((fr 1 0xFF00000004 0 [])), (withFr (fr 1 0xFF00000004 0 []) rdy), by decide +kernel, by decide +kernel, by decide +kernel⟩,
   ⟨(.cp0), ((fr 2 0xFF00000004 0 [1,2,3,4,5,6,7,8])), (withFr (fr 2 0xFF00000004 0 [1,2,3,4,5,6,7,8]) rdy), by decide +kernel, by decide +kernel, by decide +kernel⟩,
   ⟨(0xFF00000004), (3), (sec1), (rdy), by decide +kernel⟩⟩

/-- The hypotheses of each clause of CounterBlockIsTheFirmwaresAlone can be met together. -/
theorem witness_CounterBlockIsTheFirmwaresAlone :
    (∃ (p : Port) (f : Frame) (s : State), FrameIsNext f s ∧ f.type = 0x01 ∧ badRegAddr f.address.toNat = false ∧ regBlock (regOff f.address.toNat) = 8) ∧
    (∃ (p : Port) (f : Frame) (s : State), FrameIsNext f s ∧ f.type = 0x02 ∧ badRegAddr f.address.toNat = false ∧ regBlock (regOff f.address.toNat) = 8) ∧
    (∃ (addr : BitVec 40) (v : BitVec 64) (a : Access) (s : State), badRegAddr addr.toNat = false ∧ regBlock (regOff addr.toNat) = 8) ∧
    (∃ (pkg : Nat) (tag : BitVec 32) (addr : BitVec 64) (found : List (Nat × BadSymbols)) (s : State), s.mem.inService.length ≤ 8 ∧ 0xFF00080000 ≤ addr.toNat ∧ addr.toNat < 0xFF00090000) ∧
    (∃ (pkg : Nat) (tag : BitVec 32) (addr : BitVec 64) (data : List (BitVec 8)) (s : State), s.mem.inService.length ≤ 8 ∧ 0xFF00080000 ≤ addr.toNat ∧ addr.toNat < 0xFF00090000 ∧ data.length = 8) ∧
    (∃ (r : GuestReq) (found : List (Nat × BadSymbols)) (off : Nat) (s : State), guestUp s = true ∧ guestWellFormed 1 r = true ∧ guestReg r.addr.toNat = true ∧ guestRegAt r = some off ∧ regBlock off = 8) ∧
    (∃ (d : Descriptor) (i : Nat) (s : State), CanBegin 0x0502 d s ∧ i < 32 ∧ d.target.toNat = 0x8000 + i ∧ d.resAddr.toNat < topOfDram s ∧ (sampleUnit (0x8000 + i) s).length ≤ d.resLen.toNat ∧ DramOpen d.resAddr.toNat (sampleUnit (0x8000 + i) s).length s) ∧
    (∃ (r : GuestReq) (data : List (BitVec 8)) (bad : BitVec 8) (off : Nat) (s : State), guestUp s = true ∧ guestWellFormed 2 r = true ∧ data.length = 32 * r.len.toNat ∧ guestReg r.addr.toNat = true ∧ guestRegAt r = some off ∧ regBlock off = 8) :=
  ⟨⟨(.cp0), ((fr 1 0xFF00080008 0 [])), (withFr (fr 1 0xFF00080008 0 []) rdy), by unfold FrameIsNext; decide +kernel, by decide +kernel, by decide +kernel, by decide +kernel⟩,
   ⟨(.cp0), ((fr 2 0xFF00080008 0 [1,2,3,4,5,6,7,8])), (withFr (fr 2 0xFF00080008 0 [1,2,3,4,5,6,7,8]) rdy), by unfold FrameIsNext; decide +kernel, by decide +kernel, by decide +kernel, by decide +kernel⟩,
   ⟨(0xFF0008FFF8), (3), (sec1), (rdy), by decide +kernel, by decide +kernel⟩,
   ⟨(3), (3), (0xFF0008FFF8), ([]), (rdy), by decide +kernel, by decide +kernel, by decide +kernel⟩,
   ⟨(3), (3), (0xFF0008FFF8), ([1,2,3,4,5,6,7,8]), (rdy), by decide +kernel, by decide +kernel, by decide +kernel, by decide +kernel⟩,
   ⟨(⟨1, 4, 1, 0xFF00080000, 0xFF, true⟩), ([]), (0x80000), ({ rdy with pins := { gstRstN := true }, d2d := { modu := [(136, { state := .active })] } }), by decide +kernel, by decide +kernel, by decide +kernel, by decide +kernel, by decide +kernel⟩,
   ⟨({ dsc with target := 0x801F, resAddr := 0x20000, resLen := 4096 }), (31), (rdy), by unfold CanBegin; decide +kernel, by decide +kernel, by decide +kernel, by decide +kernel, by decide +kernel, by unfold DramOpen; decide +kernel⟩,
   ⟨(⟨2, 4, 1, 0xFF00080000, 0xFF, true⟩), (List.replicate 32 0), (0), (0x80000), ({ rdy with pins := { gstRstN := true }, d2d := { modu := [(136, { state := .active })] } }), by decide +kernel, by decide +kernel, by decide +kernel, by decide +kernel, by decide +kernel, by decide +kernel⟩⟩

/-- The hypotheses of each clause of SecureDoorbellBitsAreSilentlyLeftOut can be met together. -/
theorem witness_SecureDoorbellBitsAreSilentlyLeftOut :
    (∃ (addr : BitVec 40) (v : BitVec 64) (a : Access) (s : State), addr = 0xFF00020010 ∧ a.secure = false ∧ v >>> 26 = 0) ∧
    (∃ (s : State), fwActs s = true ∧ s.db.fwStatus = 1 <<< 25 ∧ s.db.fwMask = 0 ∧ s.db.epochSeen = s.db.epoch) :=
  ⟨⟨(0xFF00020010), (0x3FFFFFF), (insec), (rdy), by decide +kernel, by decide +kernel, by decide +kernel⟩,
   ⟨({ rdy with db := { fwStatus := 1 <<< 25 } }), by decide +kernel, by decide +kernel, by decide +kernel, by decide +kernel⟩⟩

/-- The hypotheses of each clause of SkewLimitAppliesToLaterFrames can be met together. -/
theorem witness_SkewLimitAppliesToLaterFrames :
    (∃ (v : BitVec 64) (a : Access) (s : State), a.secure = true ∧ (v.toNat % 16384 < 100 ∨ 10000 < v.toNat % 16384)) ∧
    (∃ (v : BitVec 64) (a : Access) (s : State), a.secure = true ∧ 100 ≤ v.toNat % 16384 ∧ v.toNat % 16384 ≤ 10000) ∧
    (∃ (p : Port) (f : Frame) (h : BitVec 32) (s : State), hears p s = true ∧ f.crc = frameCrc f ∧ f.length.toNat = f.payload.length ∧ f.type ≠ 0x07 ∧ f.type ≠ 0x08 ∧ isHwinResp f = false ∧ s.ports.highest = some h ∧ above f.seq h = true ∧ (f.seq - h).toNat ≤ 4096 ∧ slotsUsed s < 512 ∧ s.ports.cp0.phase = .active ∧ s.ports.cp1.phase = .active ∧ s.ports.preferred ≠ some p) :=
  ⟨⟨(10001), (sec1), (rdy), by decide +kernel, by decide +kernel⟩,
   ⟨(10000), (sec1), (rdy), by decide +kernel, by decide +kernel, by decide +kernel⟩,
   ⟨(.cp1), (fr 1 0xFF00000000 0 []), (5), ({ rdy with ports := { rdy.ports with preferred := some .cp0 } }), by decide +kernel, by decide +kernel, by decide +kernel, by decide +kernel, by decide +kernel, by decide +kernel, by decide +kernel, by decide +kernel, by decide +kernel, by decide +kernel, by decide +kernel, by decide +kernel, by decide +kernel⟩⟩

/-- The hypotheses of each clause of NamedRegisterWrites can be met together. -/
theorem witness_NamedRegisterWrites :
    (∃ (v : BitVec 64) (a : Access) (s : State), a.secure = true ∧ 85 ≤ v.toNat % 256 ∧ v.toNat % 256 ≤ 115) ∧
    (∃ (v : BitVec 64) (a : Access) (s : State), a.secure = true ∧ (v.toNat % 256 < 85 ∨ 115 < v.toNat % 256)) ∧
    (∃ (v : BitVec 64) (a : Access) (s : State), a.secure = true ∧ 1 ≤ v.toNat % 1024 ∧ v.toNat % 1024 ≤ 1000) ∧
    (∃ (v : BitVec 64) (a : Access) (s : State), a.secure = true ∧ (v.toNat % 1024 < 1 ∨ 1000 < v.toNat % 1024)) ∧
    (∃ (v : BitVec 64) (a : Access) (s : State), a.secure = true ∧ sourceCheck (v.toNat % 65536) s = none ∧ v.toNat / 65536 % 4 = 1) ∧
    (∃ (a : Access) (s : State), a.secure = true ∧ s.cairn.state = .armed) ∧
    (∃ (a : Access) (s : State), a.secure = true ∧ (s.cairn.state = .disarmed ∨ s.cairn.state = .taken)) ∧
    (∃ (a : Access) (s : State), a.secure = true ∧ s.part.guest.isSome = true ∧ s.guest.fenced = false) ∧
    (∃ (v : BitVec 64) (a : Access) (s : State), a.secure = true) :=
  ⟨⟨(85), (sec1), (rdy), by decide +kernel, by decide +kernel, by decide +kernel⟩,
   ⟨(116), (sec1), (rdy), by decide +kernel, by decide +kernel⟩,
   ⟨(1000), (sec1), (rdy), by decide +kernel, by decide +kernel, by decide +kernel⟩,
   ⟨(0), (sec1), (rdy), by decide +kernel, by decide +kernel⟩,
   ⟨(0x1D000), (sec1), (rdy), by decide +kernel, by decide +kernel, by decide +kernel⟩,
   ⟨(sec1), ({ rdy with cairn := { rdy.cairn with state := .armed, area := true, armed := 4 } }), by decide +kernel, by decide +kernel⟩,
   ⟨(sec1), ({ rdy with cairn := { rdy.cairn with state := .taken, area := true, armed := 4 } }), by decide +kernel, by decide +kernel⟩,
   ⟨(sec1), ({ rdy with pins := { gstRstN := true }, d2d := { modu := [(136, { state := .active })] } }), by decide +kernel, by decide +kernel, by decide +kernel⟩,
   ⟨(0), (sec1), (rdy), by decide +kernel⟩⟩

/-- The hypotheses of each clause of ManagementReads can be met together. -/
theorem witness_ManagementReads :
    (∃ (addr : BitVec 40) (s : State), s.pins.pgLow = [] ∧ colReadable s = true ∧ addr.toNat % 8 = 0 ∧ regBase ≤ addr.toNat ∧ (mgmtA (regOff addr.toNat) = true ∨ mgmtM (regOff addr.toNat) = true)) ∧
    (∃ (addr : BitVec 40) (s : State), s.pins.pgLow = [] ∧ addr.toNat % 8 ≠ 0) ∧
    (∃ (addr : BitVec 40) (s : State), s.pins.pgLow = [] ∧ addr.toNat % 8 = 0 ∧ (mgmtA (regOff addr.toNat) || mgmtM (regOff addr.toNat)) = false) :=
  ⟨⟨(0xFF00000000), (rdy), by decide +kernel, by decide +kernel, by decide +kernel, by decide +kernel, by decide +kernel⟩,
   ⟨(0xFF00000001), (rdy), by decide +kernel, by decide +kernel⟩,
   ⟨(0xFF00080000), (rdy), by decide +kernel, by decide +kernel, by decide +kernel⟩⟩

/-- The hypotheses of each clause of GuestRows can be met together. -/
theorem witness_GuestRows :
    (∃ (r : GuestReq) (s : State), guestUp s = true ∧ guestWellFormed 1 r = true ∧ guestReg r.addr.toNat = false ∧ firewall r s = none ∧ bulkCheck r.addr.toNat (32 * r.len.toNat) false s = none ∧ (s.mem.home = false ∨ s.mem.dir = [])) ∧
    (∃ (r : GuestReq) (found : List (Nat × BadSymbols)) (s : State), guestUp s = true ∧ guestWellFormed 1 r = true ∧ guestReg r.addr.toNat = false ∧ firewall r s = none ∧ bulkCheck r.addr.toNat (32 * r.len.toNat) false s = none) ∧
    (∃ (r : GuestReq) (data : List (BitVec 8)) (s : State), guestUp s = true ∧ guestWellFormed 2 r = true ∧ data.length = 32 * r.len.toNat ∧ guestReg r.addr.toNat = false ∧ forcedD 0xC000 0 s = false ∧ firewall r s = none ∧ bulkCheck r.addr.toNat (32 * r.len.toNat) true s = none ∧ r.addr.toNat < topOfDram s ∧ r.mask = 0xFFFFFFFF ∧ DramOpen r.addr.toNat data.length s) ∧
    (∃ (r : GuestReq) (found : List (Nat × BadSymbols)) (k : Nat) (s : State), guestUp s = true ∧ guestWellFormed 1 r = true ∧ guestReg r.addr.toNat = false ∧ firewall r s = some k ∧ s.guest.fenceOn = true) ∧
    (∃ (r : GuestReq) (found : List (Nat × BadSymbols)) (k : Nat) (s : State), guestUp s = true ∧ guestWellFormed 1 r = true ∧ guestReg r.addr.toNat = false ∧ firewall r s = some k ∧ s.guest.fenceOn = false) ∧
    (∃ (s : State), s.part.guest.isSome = true ∧ s.guest.fenced = false ∧ s.pins.gstRstN = true) ∧
    (∃ (temp : Int) (power : Nat) (s : State), s.part.guest.isSome = true ∧ s.guest.fenced = false ∧ temp < 2000 ∧ power ≤ 240) ∧
    (∃ (temp : Int) (power : Nat) (s : State), s.part.guest.isSome = true ∧ s.guest.fenced = false ∧ 2000 ≤ temp) ∧
    (∃ (temp : Int) (power : Nat) (s : State), s.part.guest.isSome = true ∧ s.guest.fenced = false ∧ 240 < power ∧ 9 ≤ s.guest.overRuns) ∧
    (∃ (m : Nat) (s : State), s.part.guest.isSome = true ∧ s.guest.fenced = false ∧ m ∈ groupModules 18 ∧ (modGet m s).state = .active ∧ s.guest.tempAt + 10000000 ≤ s.clock.now) ∧
    (∃ (s : State), s.part.guest.isSome = true ∧ s.guest.fenced = false) :=
  ⟨⟨(⟨1, 4, 1, 0x1000, 0xFFFFFFFF, true⟩), (gwSt), by decide +kernel, by decide +kernel, by decide +kernel, by decide +kernel, by decide +kernel, by decide +kernel⟩,
   ⟨(⟨1, 4, 1, 0x1000, 0xFFFFFFFF, true⟩), ([]), (gwSt), by decide +kernel, by decide +kernel, by decide +kernel, by decide +kernel, by decide +kernel⟩,
   ⟨(⟨2, 4, 1, 0x1000, 0xFFFFFFFF, true⟩), (List.replicate 32 7), (gwSt), by decide +kernel, by decide +kernel, by decide +kernel, by decide +kernel, by decide +kernel, by decide +kernel, by decide +kernel, by decide +kernel, by decide +kernel, by unfold DramOpen; decide +kernel⟩,
   ⟨(⟨1, 4, 1, 0x1000, 0xFFFFFFFF, true⟩), ([]), (1), ({ rdy with pins := { gstRstN := true }, d2d := { modu := [(136, { state := .active })] } }), by decide +kernel, by decide +kernel, by decide +kernel, by decide +kernel, by decide +kernel⟩,
   ⟨(⟨1, 4, 1, 0x1000, 0xFFFFFFFF, true⟩), ([]), (1), ({ { rdy with pins := { gstRstN := true }, d2d := { modu := [(136, { state := .active })] } } with guest := { fenceOn := false } }), by decide +kernel, by decide +kernel, by decide +kernel, by decide +kernel, by decide +kernel⟩,
   ⟨({ { rdy with pins := { gstRstN := true }, d2d := { modu := [(136, { state := .active })] } } with locks := [(3, ⟨4, false⟩)] }), by decide +kernel, by decide +kernel, by decide +kernel⟩,
   ⟨(100), (240), ({ { rdy with pins := { gstRstN := true }, d2d := { modu := [(136, { state := .active })] } } with guest := { overRuns := 0 } }), by decide +kernel, by decide +kernel, by decide +kernel, by decide +kernel⟩,
   ⟨(2000), (0), ({ { rdy with pins := { gstRstN := true }, d2d := { modu := [(136, { state := .active })] } } with guest := { overRuns := 0 } }), by decide +kernel, by decide +kernel, by decide +kernel⟩,
   ⟨(0), (241), ({ { rdy with pins := { gstRstN := true }, d2d := { modu := [(136, { state := .active })] } } with guest := { overRuns := 9 } }), by decide +kernel, by decide +kernel, by decide +kernel, by decide +kernel⟩,
   ⟨(136), ({ rdy with pins := { gstRstN := true }, d2d := { modu := [(136, { state := .active })] } }), by decide +kernel, by decide +kernel, by decide +kernel, by decide +kernel, by decide +kernel⟩,
   ⟨({ { rdy with pins := { gstRstN := true }, d2d := { modu := [(136, { state := .active })] } } with locks := [(3, ⟨4, false⟩)] }), by decide +kernel, by decide +kernel⟩⟩

/-- The hypotheses of each clause of ExecutionRows can be met together. -/
theorem witness_ExecutionRows :
    (∃ (h : BitVec 32) (i : Nat) (g : Graph) (x : Execution) (rest : List Execution) (s : State), graphAt h s = some (i, g) ∧ g.running = none ∧ g.pending = x :: rest ∧ g.state = some .running ∧ x.peersOpen = [] ∧ x.peersBad = [] ∧ fwActs s = true ∧ graphHeld h s = false ∧ recvOps g = []) ∧
    (∃ (h : BitVec 32) (i : Nat) (g : Graph) (x : Execution) (s : State), graphAt h s = some (i, g) ∧ g.running = some x ∧ g.state = some .running ∧ g.pending = [] ∧ g.lost = false ∧ x.begun = true ∧ x.work = [] ∧ x.failed = [] ∧ x.poisoned = [] ∧ recvOps g = [] ∧ opsFinished g x s = true ∧ collWaits i g s = false ∧ fwActs s = true ∧ s.comp.doneN = [] ∧ s.comp.doneS = []) ∧
    (∃ (h : BitVec 32) (i : Nat) (g : Graph) (x : Execution) (s : State), graphAt h s = some (i, g) ∧ g.running = some x ∧ g.state = some .running ∧ g.pending = [] ∧ g.lost = false ∧ x.begun = true ∧ x.work = [] ∧ x.failed ≠ [] ∧ x.cmd.desc.resAddr = 0 ∧ recvOps g = [] ∧ opsFinished g x s = true ∧ collWaits i g s = false ∧ fwActs s = true ∧ (∀ b ∈ x.bindings, b.1 ∈ x.poisoned → b.2.1 < 2 ^ 40) ∧ s.comp.doneN = [] ∧ s.comp.doneS = []) ∧
    (∃ (h : BitVec 32) (i : Nat) (peer : Nat) (g : Graph) (x : Execution) (s : State), graphAt h s = some (i, g) ∧ g.pending = [x] ∧ x.peersOpen.contains peer = true ∧ g.b.peerWaitMs = 0 ∧ x.cmd.tAccept + 100000000 ≤ s.clock.now ∧ fwActs s = true) ∧
    (∃ (h : BitVec 32) (i : Nat) (g : Graph) (x : Execution) (s : State), graphAt h s = some (i, g) ∧ g.running = some x ∧ g.b.deadline ≠ 0 ∧ x.deadlinePassed = false ∧ x.cmd.tAccept + g.b.deadline < s.clock.now ∧ fwRuns s = true) ∧
    (∃ (h : BitVec 32) (i : Nat) (op : Nat) (g : Graph) (x : Execution) (s : State), graphAt h s = some (i, g) ∧ g.running = some x ∧ op ∈ recvOps g ∧ recvLate g x s = true ∧ recvWhole g x op s = false) ∧
    (∃ (h : BitVec 32) (i : Nat) (g : Graph) (a : Accepted) (s : State), graphAt h s = some (i, g) ∧ g.state = some .running ∧ g.ending = [(some a, false)] ∧ targetAll a.desc = false ∧ graphStill h false s = true ∧ fwActs s = true) ∧
    (∃ (h : BitVec 32) (i : Nat) (g : Graph) (a : Accepted) (x : Execution) (s : State), graphAt h s = some (i, g) ∧ g.running = some x ∧ g.lost = false ∧ g.ending = [(some a, true)] ∧ targetAll a.desc = false ∧ graphStill h true s = true ∧ fwActs s = true) ∧
    (∃ (pkg : Nat) (bytes : Nat) (asked : Nat) (tag : BitVec 32) (w : FitWait) (s : State), s.graphs.fits = [w] ∧ w.asked = some (pkg, bytes, asked, tag) ∧ asked + 10000000 ≤ s.clock.now ∧ fwActs s = true) :=
  ⟨⟨(handle3), (0), ({ grunning with pending := [exe1] }), (exe1), ([]), (pend1), by decide +kernel, by decide +kernel, by decide +kernel, by decide +kernel, by decide +kernel, by decide +kernel, by decide +kernel, by decide +kernel, by decide +kernel⟩,
   ⟨(handle3), (0), ({ grunning with running := some exeF }), (exeF), ({ gst { grunning with running := some exeF } with dev := { state := .running } }), by decide +kernel, by decide +kernel, by decide +kernel, by decide +kernel, by decide +kernel, by decide +kernel, by decide +kernel, by decide +kernel, by decide +kernel, by decide +kernel, by decide +kernel, by decide +kernel, by decide +kernel, by decide +kernel, by decide +kernel⟩,
   ⟨(handle3), (0), ({ grunning with running := some { exeF with failed := [⟨0, 3, 1⟩] } }), ({ exeF with failed := [⟨0, 3, 1⟩] }), ({ gst { grunning with running := some { exeF with failed := [⟨0, 3, 1⟩] } } with dev := { state := .running } }), by decide +kernel, by decide +kernel, by decide +kernel, by decide +kernel, by decide +kernel, by decide +kernel, by decide +kernel, by decide +kernel, by decide +kernel, by decide +kernel, by decide +kernel, by decide +kernel, by decide +kernel, by decide +kernel, by decide +kernel, by decide +kernel⟩,
   ⟨(handle3), (0), (5), ({ grunning with pending := [{ exe1 with peersOpen := [5] }] }), ({ exe1 with peersOpen := [5] }), ({ gst { grunning with pending := [{ exe1 with peersOpen := [5] }] } with dev := { state := .running } }), by decide +kernel, by decide +kernel, by decide +kernel, by decide +kernel, by decide +kernel, by decide +kernel⟩,
   ⟨(handle3), (0), ({ grunning with b := { bunB with deadline := 4 }, running := some exeB }), (exeB), (gst { grunning with b := { bunB with deadline := 4 }, running := some exeB }), by decide +kernel, by decide +kernel, by decide +kernel, by decide +kernel, by decide +kernel, by decide +kernel⟩,
   ⟨(handle3), (0), (0), (recvG), (exeB), ({ gst recvG with clock := { now := 2000000000 } }), by decide +kernel, by decide +kernel, by decide +kernel, by decide +kernel, by decide +kernel⟩,
   ⟨(handle3), (0), ({ grunning with ending := [(some accH, false)] }), (accH), (gst { grunning with ending := [(some accH, false)] }), by decide +kernel, by decide +kernel, by decide +kernel, by decide +kernel, by decide +kernel, by decide +kernel⟩,
   ⟨(handle3), (0), ({ grunning with running := some exeB, ending := [(some accH, true)] }), (accH), (exeB), (gst { grunning with running := some exeB, ending := [(some accH, true)] }), by decide +kernel, by decide +kernel, by decide +kernel, by decide +kernel, by decide +kernel, by decide +kernel, by decide +kernel⟩,
   ⟨(5), (4096), (0), (77), (({ placeWait with cmd := accH, load := true, b := bunB, asked := some (5, 4096, 0, 77) } : FitWait)), ({ rdy with graphs := { fits := [({ placeWait with cmd := accH, load := true, b := bunB, asked := some (5, 4096, 0, 77) } : FitWait)] } }), by decide +kernel, by decide +kernel, by decide +kernel, by decide +kernel⟩⟩

/-- The hypotheses of each clause of FaultEvents can be met together. -/
theorem witness_FaultEvents :
    (∃ (e : FaultInput) (s : State), sourceExists e.source.toNat = true ∧ namesGuest e.source.toNat = false ∧ e.cls = .c) ∧
    (∃ (e : FaultInput) (s : State), sourceExists e.source.toNat = true ∧ e.source.toNat / 4096 = 14 ∧ e.source.toNat ≠ 0xE001 ∧ e.cls = .u) ∧
    (∃ (e : FaultInput) (s : State), sourceExists e.source.toNat = true ∧ namesGuest e.source.toNat = false ∧ e.cls = .x ∧ s.dev.state ≠ .haltedThermal ∧ s.cairn.state = .disarmed) ∧
    (∃ (e : FaultInput) (s : State), sourceExists e.source.toNat = true ∧ namesGuest e.source.toNat = false ∧ e.cls = .c ∧ recordOf (groupKey e.source.toNat) s = none ∧ (∃ i, i < 255 ∧ recordAt i s = none) ∧ fwRuns s = true ∧ s.dev.state ≠ .faulted) ∧
    (∃ (d : Domain) (s : State), (reqOf d s).opened = true ∧ (reqOf d s).acked = false ∧ (reqOf d s).noticeAt + 100000000 ≤ s.clock.now) :=
  ⟨⟨(⟨0xE000, .c, 5, none, false⟩), (rdy), by decide +kernel, by decide +kernel, by decide +kernel⟩,
   ⟨(⟨0xE000, .u, 5, none, false⟩), (rdy), by decide +kernel, by decide +kernel, by decide +kernel, by decide +kernel⟩,
   ⟨(⟨0xE000, .x, 5, none, false⟩), (rdy), by decide +kernel, by decide +kernel, by decide +kernel, by decide +kernel, by decide +kernel⟩,
   ⟨(⟨0x5000, .c, 5, none, false⟩), (rdy), by decide +kernel, by decide +kernel, by decide +kernel, by decide +kernel, by decide +kernel, by decide +kernel, by decide +kernel⟩,
   ⟨(.north), ({ rdy with therm := { reqN := { opened := true, id := 4, noticeAt := 3 } } }), by decide +kernel, by decide +kernel, by decide +kernel⟩⟩

/-- The hypotheses of each clause of CairnTakes can be met together. -/
theorem witness_CairnTakes :
    (∃ (code : Nat) (detail : BitVec 32) (s : State), cairnSelected code s = true ∧ s.cairn.state = .armed) ∧
    (∃ (code : Nat) (detail : BitVec 32) (s : State), (cairnSelected code s = false ∨ s.cairn.state = .disarmed)) ∧
    (∃ (code : Nat) (detail : BitVec 32) (s : State), cairnSelected code s = true ∧ s.cairn.state = .taken) ∧
    (∃ (p : Nat) (s : State), clusterIdx p = true ∧ bitOf s.cairn.armed 4 = true ∧ s.cairn.state = .armed ∧ ((clusterGet p s).q ≠ [] ∨ (clusterGet p s).set ≠ []) ∧ (clusterGet p s).retiredAt + s.cairn.stallMs * 1000000 ≤ s.clock.now) ∧
    (∃ (s : State), s.cairn.state = .taking ∧ s.cairn.tFrozen = none ∧ checkAnywhere s = false) ∧
    (∃ (s : State), s.cairn.state = .taking ∧ s.cairn.tFrozen.isSome = true ∧ s.cairn.xDue = false ∧ fwRuns s = true ∧ FabricQuiet s) :=
  ⟨⟨(6), (5), ({ rdy with cairn := { state := .armed, armed := 16 } }), by decide +kernel, by decide +kernel⟩,
   ⟨(6), (5), ({ rdy with cairn := { state := .armed, armed := 15 } }), by decide +kernel⟩,
   ⟨(6), (5), ({ rdy with cairn := { state := .taken, armed := 16 } }), by decide +kernel, by decide +kernel⟩,
   ⟨(0), (clSt { set := [wst1] } { rdy with cairn := { state := .armed, armed := 16, stallMs := 8 } }), by decide +kernel, by decide +kernel, by decide +kernel, by decide +kernel, by decide +kernel⟩,
   ⟨({ rdy with cairn := { state := .taking, frozen := true } }), by decide +kernel, by decide +kernel, by decide +kernel⟩,
   ⟨({ rdy with cairn := { state := .taking, frozen := true, tFrozen := some 6, waiting := [acc1] } }), by decide +kernel, by decide +kernel, by decide +kernel, by decide +kernel, by unfold FabricQuiet; decide +kernel⟩⟩

/-- The hypotheses of each clause of WorkItemsMoveAgainstCredits can be met together. -/
theorem witness_WorkItemsMoveAgainstCredits :
    (∃ (x : Nat) (w : WorkItem) (s : State), mayPlace x w s = true) ∧
    (∃ (x : Nat) (w : WorkItem) (s : State), ((clusterGet (physOf x s) s).qc.avail = 0 ∨ 256 < (clusterGet (physOf x s) s).qc.avail)) ∧
    (∃ (p : Nat) (w : WorkSt) (rest : List WorkSt) (s : State), clusterLive p s = true ∧ (clusterGet p s).q = w :: rest ∧ graphHeld w.item.graph s = false) ∧
    (∃ (p : Nat) (seq : BitVec 32) (w : WorkSt) (s : State), itemOf p seq s = some w ∧ w.issued = true ∧ w.pending = 0 ∧ w.owed = 0 ∧ w.fall = [] ∧ clusterIdx p = true ∧ p < 330 ∧ clusterOut p s = false ∧ s.cairn.frozen = false ∧ s.comp.doneNc.avail ≠ 0 ∧ s.comp.doneNc.avail ≤ 4096 ∧ (∀ y o, graphAt w.item.graph s = some y → y.2.b.operators[w.item.opIndex.toNat]? = some o → o.opcode ≠ 0x60 ∧ o.opcode ≠ 0x62 ∧ o.opcode ≠ 0x65)) :=
  ⟨⟨(0), (wi1), (run1), by decide +kernel⟩,
   ⟨(0), (wi1), (clSt { qc := ⟨4, 4, 4, 0⟩ } run1), by decide +kernel⟩,
   ⟨(0), (wst1), ([]), (clSt { q := [wst1] } rdy), by decide +kernel, by decide +kernel, by decide +kernel⟩,
   ⟨(0), (0), (wst1), (wset), by decide +kernel, by decide +kernel, by decide +kernel, by decide +kernel, by decide +kernel, by decide +kernel, by decide +kernel, by decide +kernel, by decide +kernel, by decide +kernel, by decide +kernel, (fun y o h => by cases (show (none : Option (Nat × Graph)) = some y from h))⟩⟩

/-- The hypotheses of each clause of EngineOperations can be met together. -/
theorem witness_EngineOperations :
    (∃ (p : Nat) (c : Nat) (op : EngOp) (s : State), mayIssue p c .m op s = true ∧ (engGet p c .m s).ctr.avail ≠ 0 ∧ (engGet p c .m s).ctr.avail ≤ 32) ∧
    (∃ (p : Nat) (c : Nat) (op : EngOp) (s : State), mayIssue p c .m op s = true ∧ (engGet p c .m s).ctr.avail = 0) ∧
    (∃ (p : Nat) (c : Nat) (k : Nat) (op : EngOp) (s : State), mayIssue p c .p op s = true ∧ bankServes p c s = false ∧ otherBank p c op.wi s = some k ∧ (engGet p k .p s).ctr.avail ≠ 0 ∧ (engGet p k .p s).ctr.avail ≤ 32) ∧
    (∃ (p : Nat) (c : Nat) (tile : Nat) (dst : Nat) (op : EngOp) (rest : List EngOp) (found : List (Nat × BadSymbols)) (s : State), mayStart p c s = true ∧ (engGet p c .t s).q = op :: rest ∧ (engGet p c .t s).run = none ∧ op.body = .tStore tile dst ∧ opHeld p op s = false ∧ waitMet p c op.wait s = true) ∧
    (∃ (p : Nat) (c : Nat) (e : Engine) (op : EngOp) (rest : List EngOp) (r : Running) (s : State), clusterIdx p = true ∧ c < 16 ∧ clusterOut p s = false ∧ s.cairn.frozen = false ∧ e ≠ .p ∧ (engGet p c e s).q = op :: rest ∧ (engGet p c e s).run = some r ∧ r.requests = [] ∧ op.signal = .none ∧ 0 < s.clock.now) ∧
    (∃ (p : Nat) (c : Nat) (e : Engine) (op : EngOp) (rest : List EngOp) (r : Running) (s : State), e ≠ .p ∧ (engGet p c e s).q = op :: rest ∧ (engGet p c e s).run = some r ∧ r.requests ≠ []) :=
  ⟨⟨(0), (0), (opM), (wset), by decide +kernel, by decide +kernel, by decide +kernel⟩,
   ⟨(0), (0), (opM), (engSet 0 0 .m { ctr := ⟨4, 4, 4, 0⟩ } wset), by decide +kernel, by decide +kernel⟩,
   ⟨(0), (0), (1), (opP), ({ phot with banks := { bank := [(0, { state := .check })] } }), by decide +kernel, by decide +kernel, by decide +kernel, by decide +kernel, by decide +kernel⟩,
   ⟨(0), (0), (0), (64), (opT), ([]), ([]), (engSet 0 0 .t { q := [opT] } wset), by decide +kernel, by decide +kernel, by decide +kernel, by decide +kernel, by decide +kernel, by decide +kernel⟩,
   ⟨(0), (0), (.t), (opT), ([]), (run0), (engSet 0 0 .t { q := [opT], run := some run0 } wset), by decide +kernel, by decide +kernel, by decide +kernel, by decide +kernel, by decide +kernel, by decide +kernel, by decide +kernel, by decide +kernel, by decide +kernel, by decide +kernel⟩,
   ⟨(0), (0), (.m), (opM), ([]), ({ run0 with requests := [⟨1, 0, 32, 0, false, false, .store 0⟩] }), (engSet 0 0 .m { q := [opM], run := some { run0 with requests := [⟨1, 0, 32, 0, false, false, .store 0⟩] } } wset), by decide +kernel, by decide +kernel, by decide +kernel, by decide +kernel⟩⟩

/-- The hypotheses of each clause of PhotonicOperations can be met together. -/
theorem witness_PhotonicOperations :
    (∃ (p : Nat) (c : Nat) (slot : Nat) (w : Nat) (src : Nat) (sw : BitVec 32) (op : EngOp) (rest : List EngOp) (r : Running) (s : State), clusterIdx p = true ∧ c < 16 ∧ s.cairn.frozen = false ∧ (coreGet p c s).p.q = op :: rest ∧ op.body = .pFill slot w src sw ∧ (coreGet p c s).p.fill = some r ∧ op.signal = .none ∧ s.clock.now ≤ r.since + 4 * w) ∧
    (∃ (p : Nat) (c : Nat) (slot : Nat) (w : Nat) (src : Nat) (sw : BitVec 32) (op : EngOp) (rest : List EngOp) (r : Running) (s : State), clusterIdx p = true ∧ c < 16 ∧ s.cairn.frozen = false ∧ (coreGet p c s).p.q = op :: rest ∧ op.body = .pFill slot w src sw ∧ (coreGet p c s).p.fill = some r ∧ r.held = false ∧ r.since + 4 * w < s.clock.now ∧ isFenced (0x2000 + p) 0 s = false) ∧
    (∃ (p : Nat) (c : Nat) (slot : Nat) (w : Nat) (g : Nat) (windows : Nat) (input : Nat) (stride : Nat) (sx : Nat) (out : Nat) (sg : Bool) (infmt : Fmt) (outfmt : Fmt) (op : EngOp) (rest : List EngOp) (r : Running) (s : State), clusterIdx p = true ∧ c < 16 ∧ s.cairn.frozen = false ∧ (coreGet p c s).p.q = op :: rest ∧ op.body = .pRun slot w sg g windows input infmt stride sx out outfmt ∧ (coreGet p c s).p.run = some r ∧ op.signal = .none ∧ bankFenced p c s = false ∧ r.since + ceilDiv (runSymbols p c op.body s) 2 + 170 ≤ s.clock.now) ∧
    (∃ (p : Nat) (c : Nat) (slot : Nat) (w : Nat) (g : Nat) (windows : Nat) (input : Nat) (stride : Nat) (sx : Nat) (out : Nat) (sg : Bool) (infmt : Fmt) (outfmt : Fmt) (op : EngOp) (rest : List EngOp) (r : Running) (s : State), (coreGet p c s).p.q = op :: rest ∧ op.body = .pRun slot w sg g windows input infmt stride sx out outfmt ∧ (coreGet p c s).p.run = some r ∧ s.clock.now < r.since + ceilDiv (runSymbols p c op.body s) 2 + 170) :=
  ⟨⟨(0), (0), (1), (5), (0), (0), (opF), ([]), (run0), ({ engSet 0 0 .p { q := [opF], fill := some run0 } wset with clock := { now := 20 } }), by decide +kernel, by decide +kernel, by decide +kernel, by decide +kernel, by decide +kernel, by decide +kernel, by decide +kernel, by decide +kernel⟩,
   ⟨(0), (0), (1), (5), (0), (0), (opF), ([]), (run0), (engSet 0 0 .p { q := [opF], fill := some run0 } wset), by decide +kernel, by decide +kernel, by decide +kernel, by decide +kernel, by decide +kernel, by decide +kernel, by decide +kernel, by decide +kernel, by decide +kernel⟩,
   ⟨(0), (0), (0), (5), (1), (1), (0), (0), (0), (4096), (false), (.bf16), (.fp32), (opP), ([]), (run0), (engSet 0 0 .p { q := [opP], run := some run0 } wset), by decide +kernel, by decide +kernel, by decide +kernel, by decide +kernel, by decide +kernel, by decide +kernel, by decide +kernel, by decide +kernel, by decide +kernel⟩,
   ⟨(0), (0), (0), (5), (1), (1), (0), (0), (0), (4096), (false), (.bf16), (.fp32), (opP), ([]), (run0), ({ engSet 0 0 .p { q := [opP], run := some run0 } wset with clock := {} }), by decide +kernel, by decide +kernel, by decide +kernel, by decide +kernel⟩⟩

/-- The hypotheses of each clause of ClusterEvents can be met together. -/
theorem witness_ClusterEvents :
    (∃ (p : Nat) (i : Nat) (rest : List Nat) (s : State), clusterIdx p = true ∧ clusterOut p s = false ∧ s.cairn.frozen = false ∧ (clusterGet p s).rq = i :: rest) ∧
    (∃ (p : Nat) (s : State), clusterIdx p = true ∧ fwRuns s = true ∧ (clusterGet p s).qc.update.avail ≤ 256) ∧
    (∃ (p : Nat) (s : State), clusterIdx p = true ∧ fwRuns s = true ∧ 256 < (clusterGet p s).qc.update.avail ∧ isFenced (0x2000 + p) 0 s = false) ∧
    (∃ (p : Nat) (s : State), clusterIdx p = true ∧ clusterOut p s = false ∧ (clusterGet p s).gated = false ∧ clusterIdle p s = true ∧ (clusterGet p s).idleAt + 100000 ≤ s.clock.now) ∧
    (∃ (p : Nat) (s : State), clusterIdx p = true ∧ clusterOut p s = false ∧ (clusterGet p s).gated = true ∧ wakeWanted p s = true ∧ (flankPower (flankOf p) s).stopped = false ∧ s.dev.state ≠ .standby) ∧
    (∃ (p : Nat) (c : Nat) (s : State), clusterIdx p = true ∧ c < 16 ∧ coreFenced p c s = false ∧ isFenced (0x2000 + p) 0 s = false) ∧
    (∃ (p : Nat) (s : State), clusterIdx p = true ∧ isFenced (0x2000 + p) 0 s = false) :=
  ⟨⟨(0), (3), ([]), (clSt { rq := [3] } rdy), by decide +kernel, by decide +kernel, by decide +kernel, by decide +kernel⟩,
   ⟨(0), (clSt { qc := ⟨4, 100, 256, 0⟩ } rdy), by decide +kernel, by decide +kernel, by decide +kernel⟩,
   ⟨(0), (clSt { qc := ⟨4, 100, 1256, 0⟩ } rdy), by decide +kernel, by decide +kernel, by decide +kernel, by decide +kernel⟩,
   ⟨(0), (rdy), by decide +kernel, by decide +kernel, by decide +kernel, by decide +kernel, by decide +kernel⟩,
   ⟨(0), (clSt { gated := true, q := [wst1] } rdy), by decide +kernel, by decide +kernel, by decide +kernel, by decide +kernel, by decide +kernel, by decide +kernel⟩,
   ⟨(0), (15), (rdy), by decide +kernel, by decide +kernel, by decide +kernel, by decide +kernel⟩,
   ⟨(0), (rdy), by decide +kernel, by decide +kernel⟩⟩

/-- The hypotheses of each clause of BankService can be met together. -/
theorem witness_BankService :
    (∃ (p : Nat) (c : Nat) (s : State), clusterIdx p = true ∧ c < 16 ∧ clusterOut p s = false ∧ bankServes p c s = true ∧ (bankGet p c s).claim = none ∧ checkRunning p s = false ∧ atBoundary p c s = true ∧ s.cairn.frozen = false ∧ s.dev.state ≠ .haltedThermal ∧ (bankGet p c s).checkedAt + 100000000 ≤ s.clock.now ∧ ((bankGet p c s).urgent || runsEmpty p c s || otherRoom p c s) = true) ∧
    (∃ (p : Nat) (c : Nat) (s : State), clusterIdx p = true ∧ c < 16 ∧ clusterOut p s = false ∧ bankFenced p c s = false ∧ (bankGet p c s).urgent = false ∧ (bankGet p c s).state ≠ .check ∧ (bankGet p c s).state ≠ .relock ∧ (bankGet p c s).checkedAt + 400000000 ≤ s.clock.now) ∧
    (∃ (p : Nat) (c : Nat) (r : BankCheck) (s : State), clusterIdx p = true ∧ c < 16 ∧ clusterOut p s = false ∧ bankFenced p c s = false ∧ (bankGet p c s).state = .check ∧ (bankGet p c s).began + 25000 ≤ s.clock.now ∧ r.failedRings = [] ∧ r.referenceOk = true ∧ (bankGet p c s).walks = []) ∧
    (∃ (p : Nat) (c : Nat) (r : BankCheck) (s : State), clusterIdx p = true ∧ c < 16 ∧ clusterOut p s = false ∧ bankFenced p c s = false ∧ (bankGet p c s).state = .check ∧ (bankGet p c s).began + 25000 ≤ s.clock.now ∧ r.failedRings ≠ []) ∧
    (∃ (p : Nat) (c : Nat) (r : BankCheck) (s : State), clusterIdx p = true ∧ c < 16 ∧ clusterOut p s = false ∧ bankFenced p c s = false ∧ (bankGet p c s).state = .check ∧ (bankGet p c s).began + 25000 ≤ s.clock.now ∧ r.failedRings = [] ∧ r.referenceOk = false) ∧
    (∃ (p : Nat) (c : Nat) (t0 : Nat) (r : BankCheck) (s : State), clusterIdx p = true ∧ c < 16 ∧ clusterOut p s = false ∧ bankFenced p c s = false ∧ (bankGet p c s).state = .relock ∧ (bankGet p c s).relockFor = .check ∧ (bankGet p c s).relockAt = some t0 ∧ t0 + 5000000 ≤ s.clock.now ∧ r.relockTimeout = true) ∧
    (∃ (f : Flank) (c : Nat) (s : State), flankPhase f s = .inService ∧ pauseAsked f s = false ∧ tget none s.banks.wave (flankNum f) = none ∧ nextWave f 0 (tget 0 s.banks.target (flankNum f)) s = some c) ∧
    (∃ (p : Nat) (c : Nat) (s : State), clusterIdx p = true ∧ c < 16 ∧ clusterOut p s = false ∧ (bankGet p c s).state = .retune ∧ bankFenced p c s = false) ∧
    (∃ (p : Nat) (c : Nat) (failed : List Nat) (s : State), clusterIdx p = true ∧ c < 16 ∧ clusterOut p s = false ∧ (bankGet p c s).state = .retune ∧ bankFenced p c s = false ∧ failed ≠ []) ∧
    (∃ (p : Nat) (c : Nat) (s : State), clusterIdx p = true ∧ c < 16 ∧ bankServes p c s = true ∧ (bankGet p c s).claim = none ∧ tget none s.banks.wave (flankNum (flankOf p)) = none) ∧
    (∃ (p : Nat) (c : Nat) (s : State), clusterIdx p = true ∧ c < 16 ∧ (bankGet p c s).state = .outOfRange ∧ darkOf p s = [] ∧ (bankGet p c s).began + 100000 ≤ s.clock.now) ∧
    (∃ (p : Nat) (c : Nat) (s : State), (bankGet p c s).state = .outOfRange ∧ (bankGet p c s).claim = none ∧ s.clock.now < (bankGet p c s).began + 100000) ∧
    (∃ (p : Nat) (c : Nat) (s : State), clusterIdx p = true ∧ c < 16 ∧ clusterOut p s = false ∧ bankFenced p c s = false) :=
  ⟨⟨(0), (0), (late), by decide +kernel, by decide +kernel, by decide +kernel, by decide +kernel, by decide +kernel, by decide +kernel, by decide +kernel, by decide +kernel, by decide +kernel, by decide +kernel, by decide +kernel⟩,
   ⟨(0), (0), (clSt { gated := true } late), by decide +kernel, by decide +kernel, by decide +kernel, by decide +kernel, by decide +kernel, by decide +kernel, by decide +kernel, by decide +kernel⟩,
   ⟨(0), (0), (⟨[], true, false⟩), (bk { state := .check, checks := 65535, urgent := true }), by decide +kernel, by decide +kernel, by decide +kernel, by decide +kernel, by decide +kernel, by decide +kernel, by decide +kernel, by decide +kernel, by decide +kernel⟩,
   ⟨(0), (0), (⟨[3, 9], true, false⟩), (bk { state := .check }), by decide +kernel, by decide +kernel, by decide +kernel, by decide +kernel, by decide +kernel, by decide +kernel, by decide +kernel⟩,
   ⟨(0), (0), (⟨[], false, false⟩), (bk { state := .check }), by decide +kernel, by decide +kernel, by decide +kernel, by decide +kernel, by decide +kernel, by decide +kernel, by decide +kernel, by decide +kernel⟩,
   ⟨(0), (0), (7), (⟨[3], true, true⟩), (bk { state := .relock, relockAt := some 7 }), by decide +kernel, by decide +kernel, by decide +kernel, by decide +kernel, by decide +kernel, by decide +kernel, by decide +kernel, by decide +kernel, by decide +kernel⟩,
   ⟨(.north), (0), ({ late with banks := { target := [(0, 2)] } }), by decide +kernel, by decide +kernel, by decide +kernel, by decide +kernel⟩,
   ⟨(0), (0), (bk { state := .retune }), by decide +kernel, by decide +kernel, by decide +kernel, by decide +kernel, by decide +kernel⟩,
   ⟨(0), (0), ([3, 9]), (bk { state := .retune }), by decide +kernel, by decide +kernel, by decide +kernel, by decide +kernel, by decide +kernel, by decide +kernel⟩,
   ⟨(0), (0), (({} : State)), by decide +kernel, by decide +kernel, by decide +kernel, by decide +kernel, by decide +kernel⟩,
   ⟨(0), (0), (bk { state := .outOfRange }), by decide +kernel, by decide +kernel, by decide +kernel, by decide +kernel, by decide +kernel⟩,
   ⟨(0), (0), (bk { state := .outOfRange, began := 60000000000 - 99999 }), by decide +kernel, by decide +kernel, by decide +kernel⟩,
   ⟨(0), (0), (late), by decide +kernel, by decide +kernel, by decide +kernel, by decide +kernel⟩⟩

/-- The hypotheses of each clause of RingWalks can be met together. -/
theorem witness_RingWalks :
    (∃ (p : Nat) (c : Nat) (r : Nat) (j : Nat) (s : State), walking p c r s = true ∧ (tget {} (bankGet p c s).walks r).state = .identify ∧ walkOver bankRule s.clock.now (tget {} (bankGet p c s).walks r) = false) ∧
    (∃ (p : Nat) (c : Nat) (r : Nat) (s : State), walking p c r s = true ∧ (tget {} (bankGet p c s).walks r).state = .order ∧ walkOver bankRule s.clock.now (tget {} (bankGet p c s).walks r) = false) ∧
    (∃ (p : Nat) (c : Nat) (r : Nat) (s : State), walking p c r s = true ∧ (tget {} (bankGet p c s).walks r).state = .step ∧ walkOver bankRule s.clock.now (tget {} (bankGet p c s).walks r) = false) ∧
    (∃ (p : Nat) (c : Nat) (r : Nat) (pass : Bool) (s : State), walking p c r s = true ∧ (tget {} (bankGet p c s).walks r).state = .verify ∧ walkOver bankRule s.clock.now (tget {} (bankGet p c s).walks r) = false) ∧
    (∃ (p : Nat) (c : Nat) (r : Nat) (s : State), walking p c r s = true ∧ walkOver bankRule s.clock.now (tget {} (bankGet p c s).walks r) = true) ∧
    (∃ (p : Nat) (c : Nat) (r : Nat) (j : Nat) (s : State), walking p c r s = true ∧ walkOver bankRule s.clock.now (tget {} (bankGet p c s).walks r) = true) ∧
    (∃ (p : Nat) (c : Nat) (r : Nat) (s : State), walking p c r s = true ∧ walkOver bankRule s.clock.now (tget {} (bankGet p c s).walks r) = true) ∧
    (∃ (p : Nat) (c : Nat) (r : Nat) (s : State), walking p c r s = true ∧ walkOver bankRule s.clock.now (tget {} (bankGet p c s).walks r) = true) ∧
    (∃ (p : Nat) (c : Nat) (r : Nat) (pass : Bool) (s : State), walking p c r s = true ∧ walkOver bankRule s.clock.now (tget {} (bankGet p c s).walks r) = true) ∧
    (∃ (i : Nat) (j : Nat) (s : State), i < 1152 ∧ (chanSide i s).walk.state = .identify ∧ walkOver chipletRule s.clock.now (chanSide i s).walk = false) ∧
    (∃ (i : Nat) (s : State), i < 1152 ∧ (chanSide i s).walk.state = .order ∧ walkOver chipletRule s.clock.now (chanSide i s).walk = false) ∧
    (∃ (i : Nat) (s : State), i < 1152 ∧ (chanSide i s).walk.state = .step ∧ walkOver chipletRule s.clock.now (chanSide i s).walk = false) ∧
    (∃ (i : Nat) (s : State), i < 1152 ∧ (chanSide i s).walk.state = .verify ∧ walkOver chipletRule s.clock.now (chanSide i s).walk = false) ∧
    (∃ (i : Nat) (s : State), i < 1152 ∧ (chanSide i s).walk.state = .verify ∧ (chanSide i s).state = .relock ∧ walkOver chipletRule s.clock.now (chanSide i s).walk = false) ∧
    (∃ (i : Nat) (s : State), i < 1152 ∧ walkOver chipletRule s.clock.now (chanSide i s).walk = true) ∧
    (∃ (i : Nat) (j : Nat) (s : State), i < 1152 ∧ walkOver chipletRule s.clock.now (chanSide i s).walk = true) ∧
    (∃ (i : Nat) (s : State), i < 1152 ∧ walkOver chipletRule s.clock.now (chanSide i s).walk = true) ∧
    (∃ (i : Nat) (s : State), i < 1152 ∧ walkOver chipletRule s.clock.now (chanSide i s).walk = true) ∧
    (∃ (i : Nat) (pass : Bool) (s : State), i < 1152 ∧ walkOver chipletRule s.clock.now (chanSide i s).walk = true) ∧
    (∃ (i : Nat) (s : State), i < 1152 ∧ instRx i = false ∧ (chanSide i s).state = .spare) ∧
    (∃ (i : Nat) (s : State), i < 1152 ∧ instRx i = true ∧ (chanSide i s).state = .data ∧ (chanSide i s).checker.inject.1 = 0) :=
  ⟨⟨(0), (0), (3), (9), (wlk { state := .identify, began := 60000000000 - 10, heater := 500, found := 7 }), by decide +kernel, by decide +kernel, by decide +kernel⟩,
   ⟨(0), (0), (3), (wlk { state := .order, began := 60000000000 - 10, heater := 500, found := 7 }), by decide +kernel, by decide +kernel, by decide +kernel⟩,
   ⟨(0), (0), (3), (wlk { state := .step, began := 60000000000 - 10, heater := 500, found := 7 }), by decide +kernel, by decide +kernel, by decide +kernel⟩,
   ⟨(0), (0), (3), (true), (wlk { state := .verify, began := 60000000000 - 10, heater := 500, found := 7 }), by decide +kernel, by decide +kernel, by decide +kernel⟩,
   ⟨(0), (0), (3), (wlk { state := .step, steps := 3, began := 3 }), by decide +kernel, by decide +kernel⟩,
   ⟨(0), (0), (3), (4), (wlk { state := .step, steps := 3, began := 3 }), by decide +kernel, by decide +kernel⟩,
   ⟨(0), (0), (3), (wlk { state := .step, steps := 3, began := 3 }), by decide +kernel, by decide +kernel⟩,
   ⟨(0), (0), (3), (wlk { state := .step, steps := 3, began := 3 }), by decide +kernel, by decide +kernel⟩,
   ⟨(0), (0), (3), (true), (wlk { state := .step, steps := 3, began := 3 }), by decide +kernel, by decide +kernel⟩,
   ⟨(5), (9), (ch1 5 { state := .relock, walk := { state := .identify, began := 60000000000 - 10, heater := 500, found := 7 } }), by decide +kernel, by decide +kernel, by decide +kernel⟩,
   ⟨(5), (ch1 5 { state := .relock, walk := { state := .order, began := 60000000000 - 10, heater := 500, found := 7 } }), by decide +kernel, by decide +kernel, by decide +kernel⟩,
   ⟨(5), (ch1 5 { state := .relock, walk := { state := .step, began := 60000000000 - 10, heater := 500, found := 7 } }), by decide +kernel, by decide +kernel, by decide +kernel⟩,
   ⟨(5), (ch1 5 { state := .relock, walk := { state := .verify, began := 60000000000 - 10, heater := 500, found := 7 } }), by decide +kernel, by decide +kernel, by decide +kernel⟩,
   ⟨(5), (ch1 5 { state := .relock, walk := { state := .verify, began := 60000000000 - 10, heater := 500, found := 7 } }), by decide +kernel, by decide +kernel, by decide +kernel, by decide +kernel⟩,
   ⟨(5), (ch1 5 { state := .relock, walk := { state := .step, began := 3 } }), by decide +kernel, by decide +kernel⟩,
   ⟨(5), (4), (ch1 5 { state := .relock, walk := { state := .step, began := 3 } }), by decide +kernel, by decide +kernel⟩,
   ⟨(5), (ch1 5 { state := .relock, walk := { state := .step, began := 3 } }), by decide +kernel, by decide +kernel⟩,
   ⟨(5), (ch1 5 { state := .relock, walk := { state := .step, began := 3 } }), by decide +kernel, by decide +kernel⟩,
   ⟨(5), (true), (ch1 5 { state := .relock, walk := { state := .step, began := 3 } }), by decide +kernel, by decide +kernel⟩,
   ⟨(5), (ch1 5 { state := .spare }), by decide +kernel, by decide +kernel, by decide +kernel⟩,
   ⟨(23), (ch1 23 { state := .data, lane := some 3 }), by decide +kernel, by decide +kernel, by decide +kernel, by decide +kernel⟩⟩

/-- The hypotheses of each clause of CombLasers can be met together. -/
theorem witness_CombLasers :
    (∃ (chip : Nat) (a : Nat) (k : Nat) (s : State), chip < 4 ∧ a < 4 ∧ k < 32 ∧ (laserGet (combPrimary chip a k) s).fade = .ok ∧ spareFree chip k s = true ∧ combLights (combPrimary chip a k) s = some a) ∧
    (∃ (chip : Nat) (a : Nat) (k : Nat) (t0 : Nat) (s : State), chip < 4 ∧ k < 32 ∧ tget none s.banks.handover (lineKey chip k) = some (a, t0) ∧ t0 + 30000000 ≤ s.clock.now ∧ lineKey chip k ∉ s.banks.pauseWanted ∧ waveOver (flankOfNum (chip / 2)) s = true) ∧
    (∃ (chip : Nat) (a : Nat) (k : Nat) (t0 : Nat) (failing : List (Nat × Nat)) (s : State), tget none s.banks.handover (lineKey chip k) = some (a, t0) ∧ lineKey chip k ∈ s.banks.pauseWanted ∧ tget none s.banks.paused (lineKey chip k) = none ∧ (∀ x ∈ arrayCores chip a s, atBoundary (x / 16) (x % 16) s = true)) ∧
    (∃ (chip : Nat) (a : Nat) (k : Nat) (t0 : Nat) (t1 : Nat) (failing : List (Nat × Nat)) (s : State), tget none s.banks.handover (lineKey chip k) = some (a, t0) ∧ lineKey chip k ∈ s.banks.pauseWanted ∧ tget none s.banks.paused (lineKey chip k) = some t1 ∧ s.clock.now < t1 + 20000) ∧
    (∃ (chip : Nat) (a : Nat) (k : Nat) (t0 : Nat) (t1 : Nat) (s : State), tget none s.banks.handover (lineKey chip k) = some (a, t0) ∧ lineKey chip k ∈ s.banks.pauseWanted ∧ tget none s.banks.paused (lineKey chip k) = some t1 ∧ t1 + 20000 ≤ s.clock.now) ∧
    (∃ (chip : Nat) (a : Nat) (k : Nat) (s : State), chip < 4 ∧ a < 4 ∧ k < 32 ∧ (laserGet (combPrimary chip a k) s).fade ≠ .failed ∧ combLights (combPrimary chip a k) s = some a ∧ tget [] s.banks.dark (chip * 4 + a) = []) ∧
    (∃ (chip : Nat) (s : State), chip < 4 ∧ chip ∉ s.banks.chipFenced) :=
  ⟨⟨(1), (2), (31), (las1 (combPrimary 1 2 31) lit), by decide +kernel, by decide +kernel, by decide +kernel, by decide +kernel, by decide +kernel, by decide +kernel⟩,
   ⟨(1), (2), (31), (4), ({ late with banks := { handover := [(lineKey 1 31, some (2, 4))] } }), by decide +kernel, by decide +kernel, by decide +kernel, by decide +kernel, by decide +kernel, by decide +kernel⟩,
   ⟨(1), (2), (31), (4), ([]), ({ late with banks := { handover := [(lineKey 1 31, some (2, 4))], pauseWanted := [lineKey 1 31] } }), by decide +kernel, by decide +kernel, by decide +kernel, by decide +kernel⟩,
   ⟨(1), (2), (31), (4), (60000000000 - 19999), ([]), ({ late with banks := { handover := [(lineKey 1 31, some (2, 4))], pauseWanted := [lineKey 1 31], paused := [(lineKey 1 31, some (60000000000 - 19999))] } }), by decide +kernel, by decide +kernel, by decide +kernel, by decide +kernel⟩,
   ⟨(1), (2), (31), (4), (60000000000 - 20000), ({ late with banks := { bank := [(330 * 16, { state := .lightPause })], handover := [(lineKey 1 31, some (2, 4))], pauseWanted := [lineKey 1 31], paused := [(lineKey 1 31, some (60000000000 - 20000))] } }), by decide +kernel, by decide +kernel, by decide +kernel, by decide +kernel⟩,
   ⟨(1), (2), (31), ({ las1 (combPrimary 1 2 31) lit with banks := { spare := [(lineKey 1 31, 1)] } }), by decide +kernel, by decide +kernel, by decide +kernel, by decide +kernel, by decide +kernel, by decide +kernel⟩,
   ⟨(3), (late), by decide +kernel, by decide +kernel⟩⟩

/-- The hypotheses of each clause of LinkAndPortLasers can be met together. -/
theorem witness_LinkAndPortLasers :
    (∃ (inst : Nat) (bias : Nat) (output : Nat) (x : Laser) (s : State), isLaser inst = true ∧ (laserGet inst s).lit = true ∧ (laserGet inst s).fade ≠ .failed ∧ 500 ≤ output ∧ x = { laserHours s.clock.now (laserGet inst s) with samples := ((bias, output) :: (laserHours s.clock.now (laserGet inst s)).samples).take 100 } ∧ 100 * meanBias x < 80 * biasLimit inst x.band ∧ 800 ≤ meanOutput x) ∧
    (∃ (inst : Nat) (bias : Nat) (output : Nat) (x : Laser) (s : State), isLaser inst = true ∧ (laserGet inst s).lit = true ∧ (laserGet inst s).fade = .ok ∧ 500 ≤ output ∧ x = { laserHours s.clock.now (laserGet inst s) with samples := ((bias, output) :: (laserHours s.clock.now (laserGet inst s)).samples).take 100 } ∧ 80 * biasLimit inst x.band ≤ 100 * meanBias x ∧ 100 * meanBias x < 95 * biasLimit inst x.band ∧ 800 ≤ meanOutput x) ∧
    (∃ (inst : Nat) (bias : Nat) (output : Nat) (s : State), isLaser inst = true ∧ (laserGet inst s).lit = true ∧ (laserGet inst s).fade ≠ .failed ∧ output < 500) ∧
    (∃ (inst : Nat) (s : State), isLaser inst = true ∧ (laserGet inst s).lit = true ∧ (laserGet inst s).fade ≠ .failed) ∧
    (∃ (chip : Nat) (s : State), chip < 13 ∧ tget 0 s.las.chipBand chip ≠ tget 0 s.therm.bands (16 + chip) ∧ (∀ e ∈ s.las.laser, e.1 ∈ chipLasers chip → e.2.lit = false)) ∧
    (∃ (inst : Nat) (s : State), inst < 0x120 ∧ (laserGet inst s).lit = true ∧ (laserGet inst s).fade ≠ .sparePoint ∧ (laserGet inst s).fade ≠ .failed ∧ pathLaser (inst / 36) (inst % 18) s = inst ∧ linkSpareLeft (inst / 36) (inst % 18) s = true ∧ waveKey (inst / 36) (inst % 18) ∉ s.las.gone ∧ handoverWaits (inst / 36) (inst % 18) s = false) ∧
    (∃ (n : Nat) (k : Nat) (h : Handover) (s : State), n < 8 ∧ k < 18 ∧ tget none s.las.handover (waveKey n k) = some h ∧ h.primaryOff = true ∧ h.switched = false ∧ h.began + 30000000 ≤ s.clock.now ∧ waveKey n k ∉ s.las.gone) ∧
    (∃ (link : Nat) (k : Nat) (h : Handover) (s : State), link < 32 ∧ k < 18 ∧ tget none s.las.handover (waveKey (link / 4) k) = some h ∧ h.switched = true ∧ (chanSide (txi link k) s).state = .warming ∧ (∀ q ∈ s.las.queued, q / 18 ≠ link / 4)) ∧
    (∃ (p : Port) (s : State), (portSt p s).spareWarm = true ∧ (portSt p s).spareUsed = false ∧ (portSt (otherPort p) s).stable = true ∧ (portSt (otherPort p) s).phase = .active ∧ (portSt (otherPort p) s).activeAt + 100000000 ≤ s.clock.now ∧ (laserGet (portSpare p) s).litAt + 30000000 ≤ s.clock.now) :=
  ⟨⟨(5), (500), (1000), ({ laserHours late.clock.now lit with samples := [(500, 1000)] }), (las1 5 lit), by decide +kernel, by decide +kernel, by decide +kernel, by decide +kernel, by decide +kernel, by decide +kernel, by decide +kernel⟩,
   ⟨(5), (800), (1000), ({ laserHours late.clock.now lit with samples := [(800, 1000)] }), (las1 5 lit), by decide +kernel, by decide +kernel, by decide +kernel, by decide +kernel, by decide +kernel, by decide +kernel, by decide +kernel, by decide +kernel⟩,
   ⟨(5), (800), (499), (las1 5 lit), by decide +kernel, by decide +kernel, by decide +kernel, by decide +kernel⟩,
   ⟨(0x123), (las1 0x123 lit), by decide +kernel, by decide +kernel, by decide +kernel⟩,
   ⟨(12), ({ late with therm := { bands := [(28, 2)] } }), by decide +kernel, by decide +kernel, by decide +kernel⟩,
   ⟨(5), (las1 5 lit), by decide +kernel, by decide +kernel, by decide +kernel, by decide +kernel, by decide +kernel, by decide +kernel, by decide +kernel, by decide +kernel⟩,
   ⟨(0), (5), (⟨3, true, [], false⟩), ({ late with las := { handover := [(5, some ⟨3, true, [], false⟩)] } }), by decide +kernel, by decide +kernel, by decide +kernel, by decide +kernel, by decide +kernel, by decide +kernel, by decide +kernel⟩,
   ⟨(0), (5), (⟨3, true, [0], true⟩), ({ ch1 5 { state := .warming } with las := { handover := [(5, some ⟨3, true, [0], true⟩)] } }), by decide +kernel, by decide +kernel, by decide +kernel, by decide +kernel, by decide +kernel, by decide +kernel⟩,
   ⟨(.cp1), ({ late with ports := { late.ports with cp1 := { phase := .active, spareWarm := true } } }), by decide +kernel, by decide +kernel, by decide +kernel, by decide +kernel, by decide +kernel, by decide +kernel⟩⟩

/-- The hypotheses of each clause of LaneMoves can be met together. -/
theorem witness_LaneMoves :
    (∃ (link : Nat) (lane : Nat) (a : Nat) (b : Nat) (old : Nat) (slot : BitVec 48) (s : State), link < 32 ∧ lane < 18 ∧ a < 18 ∧ b < 18 ∧ a ≠ b ∧ (linkGet link s).rxActive = true ∧ (chanSide (rxi link a) s).lane = some lane ∧ (chanSide (rxi link b) s).lane = some old ∧ (linkGet link s).rxSlot ≤ slot.toNat) ∧
    (∃ (link : Nat) (lane : Nat) (old : Nat) (slot : BitVec 48) (m : LaneMove) (s : State), link < 32 ∧ ((linkGet link s).moves.find? fun x => x.lane = lane && x.slot = slot.toNat) = some m ∧ m.a < 18 ∧ m.b < 18 ∧ m.a ≠ m.b ∧ (chanSide (txi link m.b) s).lane = some old) ∧
    (∃ (link : Nat) (lane : Nat) (m : LaneMove) (s : State), link < 32 ∧ ((linkGet link s).moves.find? fun x => x.lane = lane) = some m ∧ m.slot + 15625 ≤ (linkGet link s).slot ∧ m.attempts < 3) ∧
    (∃ (link : Nat) (lane : Nat) (t0 : Nat) (s : State), link < 32 ∧ tget none (linkGet link s).lost lane = some t0 ∧ t0 + 2000 ≤ s.clock.now ∧ (linkGet link s).st = .active ∧ (linkGet link s).retrainAt = none) ∧
    (∃ (link : Nat) (ch : Nat) (dark : Bool) (s : State), link < 32 ∧ ch < 18 ∧ linkUp link s = true ∧ (chanSide (txi link ch) s).state = .spare) ∧
    (∃ (link : Nat) (ch : Nat) (lane : Nat) (b : Nat) (dark : Bool) (s : State), link < 32 ∧ ch < 18 ∧ linkUp link s = true ∧ (chanSide (txi link ch) s).state = .data ∧ (chanSide (txi link ch) s).lane = some lane ∧ freeSpare link s = some b) ∧
    (∃ (inst : Nat) (e : ErrorInterval) (s : State), inst < 1152 ∧ instRx inst = true ∧ (linkGet (instLink inst) s).rxActive = true ∧ (chanSide inst s).counted.2.2 = 0 ∧ (e.symbolErrors + (chanSide inst s).counted.2.1) * 10000 ≤ (e.symbols + 272 * (chanSide inst s).counted.1) * 24 ∧ e.uncorrectable = 0 ∧ e.toneFailed = false) ∧
    (∃ (inst : Nat) (e : ErrorInterval) (s : State), inst < 1152 ∧ instRx inst = true ∧ (linkGet (instLink inst) s).rxActive = true ∧ (e.symbols + 272 * (chanSide inst s).counted.1) * 24 < (e.symbolErrors + (chanSide inst s).counted.2.1 + 8 * (chanSide inst s).counted.2.2) * 10000 ∧ (chanSide inst s).checker.inject.1 = 0 ∧ ((chanSide inst s).state = .data ∨ (chanSide inst s).state = .spare)) :=
  ⟨⟨(0), (2), (5), (6), (13), (20000), (ch2 23 24 { state := .data, lane := some 2 } { lane := some 13 } id), by decide +kernel, by decide +kernel, by decide +kernel, by decide +kernel, by decide +kernel, by decide +kernel, by decide +kernel, by decide +kernel, by decide +kernel⟩,
   ⟨(0), (2), (13), (777), (lmv), (ch2 5 6 { state := .moving, lane := some 2 } { lane := some 13 } fun l => { l with moves := [lmv] }), by decide +kernel, by decide +kernel, by decide +kernel, by decide +kernel, by decide +kernel, by decide +kernel⟩,
   ⟨(0), (2), (lmv), (ch2 5 6 { state := .moving, lane := some 2 } { lane := some 13 } fun l => { l with moves := [lmv] }), by decide +kernel, by decide +kernel, by decide +kernel, by decide +kernel⟩,
   ⟨(0), (2), (5), (ch2 5 6 { state := .data, lane := some 2 } { lane := some 13 } fun l => { l with lost := [(2, some 5)] }), by decide +kernel, by decide +kernel, by decide +kernel, by decide +kernel, by decide +kernel⟩,
   ⟨(0), (6), (false), (ch2 5 6 { state := .data, lane := some 2 } { lane := some 13 } id), by decide +kernel, by decide +kernel, by decide +kernel, by decide +kernel⟩,
   ⟨(0), (5), (2), (6), (true), ({ ch2 5 6 { state := .data, lane := some 2 } { lane := some 13 } id with chans := [(5, { state := .data, lane := some 2 }), (6, { lane := some 13 })] }), by decide +kernel, by decide +kernel, by decide +kernel, by decide +kernel, by decide +kernel, by decide +kernel⟩,
   ⟨(23), (⟨70000, 24, 10000, 0, false⟩), (ch1 23 { badIntervals := 2 }), by decide +kernel, by decide +kernel, by decide +kernel, by decide +kernel, by decide +kernel, by decide +kernel, by decide +kernel⟩,
   ⟨(23), (⟨7, 25, 10000, 0, false⟩), (ch1 23 { state := .data, lane := some 2 }), by decide +kernel, by decide +kernel, by decide +kernel, by decide +kernel, by decide +kernel, by decide +kernel⟩⟩

/-- The hypotheses of each clause of LaneChecks can be met together. -/
theorem witness_LaneChecks :
    (∃ (inst : Nat) (lane : Nat) (s : State), inst < 1152 ∧ instRx inst = false ∧ linkUp (instLink inst) s = true ∧ checkDue (chanSide inst s) ≤ s.clock.now ∧ s.clock.now < (chanSide inst s).checkedAt + 40000000000 ∧ (chanSide inst s).state = .spare ∧ (chanSide inst s).lane = some lane ∧ widthOf (instLink inst) s ≤ lane ∧ dirChecking (instLink inst) s = false ∧ (linkGet (instLink inst) s).moves = [] ∧ (linkGet (instLink inst) s).change = none ∧ dirHandover (instLink inst) s = false ∧ (linkGet (instLink inst) s).txSleep = false) ∧
    (∃ (link : Nat) (ch : Nat) (s : State), link < 32 ∧ ch < 18 ∧ (linkGet link s).rxActive = true ∧ (chanSide (rxi link ch) s).state ≠ .fenced ∧ (chanSide (rxi link ch) s).state ≠ .dark) ∧
    (∃ (link : Nat) (r : CheckReport) (s : State), link < 32 ∧ r.ch < 18 ∧ (chanSide (txi link r.ch) s).state = .check) ∧
    (∃ (inst : Nat) (r : LaneCheck) (s : State), inst < 1152 ∧ (chanSide inst s).state = .check ∧ (chanSide inst s).began + 60000 ≤ s.clock.now ∧ r.walkFailed = false ∧ r.toneFailed = false ∧ r.errors * 100000 ≤ r.bits ∧ (chanSide inst s).walk.state = .idle ∧ (s.las.handover.filter fun e => e.1 / 18 = instLink inst / 4) = [] ∧ (chanSide inst s).lane ≠ none) ∧
    (∃ (inst : Nat) (r : LaneCheck) (s : State), inst < 1152 ∧ (chanSide inst s).state = .check ∧ (chanSide inst s).began + 60000 ≤ s.clock.now ∧ r.walkFailed = false ∧ r.toneFailed = true ∧ (s.las.handover.filter fun e => e.1 / 18 = instLink inst / 4) = []) ∧
    (∃ (inst : Nat) (r : LaneCheck) (s : State), inst < 1152 ∧ (chanSide inst s).state = .check ∧ (chanSide inst s).began + 60000 ≤ s.clock.now ∧ (r.walkFailed = true ∨ (r.toneFailed = false ∧ r.bits * 24 < r.errors * 100000))) :=
  ⟨⟨(6), (13), ({ ch1 6 { lane := some 13, checkedAt := 60000000000 - 30000000000 } with links := [(0, { st := .active, txActive := true, rxActive := true, width := some 12 })] }), by decide +kernel, by decide +kernel, by decide +kernel, by decide +kernel, by decide +kernel, by decide +kernel, by decide +kernel, by decide +kernel, by decide +kernel, by decide +kernel, by decide +kernel, by decide +kernel, by decide +kernel⟩,
   ⟨(0), (5), (ch1 23 { state := .spare, lane := some 13 }), by decide +kernel, by decide +kernel, by decide +kernel, by decide +kernel, by decide +kernel⟩,
   ⟨(0), (⟨5, [], [], 3, -2⟩), (ch1 5 { state := .check }), by decide +kernel, by decide +kernel, by decide +kernel⟩,
   ⟨(5), (⟨10, 1000000, false, false⟩), (ch1 5 { state := .check, lane := some 13, urgent := true, marginal := true }), by decide +kernel, by decide +kernel, by decide +kernel, by decide +kernel, by decide +kernel, by decide +kernel, by decide +kernel, by decide +kernel, by decide +kernel⟩,
   ⟨(5), (⟨10, 1000000, true, false⟩), (ch1 5 { state := .check, lane := some 13, urgent := true, marginal := true }), by decide +kernel, by decide +kernel, by decide +kernel, by decide +kernel, by decide +kernel, by decide +kernel⟩,
   ⟨(5), (⟨241, 1000000, false, false⟩), (ch1 5 { state := .check, lane := some 13, urgent := true, marginal := true }), by decide +kernel, by decide +kernel, by decide +kernel, by decide +kernel⟩⟩

/-- The hypotheses of each clause of LinkTraining can be met together. -/
theorem witness_LinkTraining :
    (∃ (link : Nat) (x : TrainInput) (s : State), link < 32 ∧ s.dev.state ≠ .haltedThermal ∧ (linkGet link s).st = .bivouac ∧ (linkGet link s).bivouacTill = none ∧ (linkGet link s).looped = false ∧ (linkGet link s).miswired = false ∧ linkConfigured link s = true) ∧
    (∃ (link : Nat) (x : TrainInput) (s : State), link < 32 ∧ s.dev.state ≠ .haltedThermal ∧ (linkGet link s).st = .send ∧ 8 ≤ x.verified.length) ∧
    (∃ (link : Nat) (x : TrainInput) (s : State), link < 32 ∧ s.dev.state ≠ .haltedThermal ∧ (linkGet link s).st = .align ∧ 8 ≤ (chNums.filter fun k => x.locked.contains k || (chanSide (rxi link k) s).locked).length) ∧
    (∃ (link : Nat) (x : TrainInput) (m : List (Nat × Nat)) (s : State), link < 32 ∧ s.dev.state ≠ .haltedThermal ∧ (linkGet link s).st = .map ∧ m = ((mappedOf x).filter fun p => (chanSide (rxi link p.1) s).state ≠ .fenced || (x.checked.contains p.1 && p.1 < 18)) ∧ 8 ≤ m.length) ∧
    (∃ (link : Nat) (w : Nat) (x : TrainInput) (s : State), link < 32 ∧ s.dev.state ≠ .haltedThermal ∧ (linkGet link s).st = .negotiate ∧ (linkGet link s).negDone = false ∧ ¬ (x.farNonce = (linkGet link s).nonce ∧ bitsOf x.farCap.toNat 51 32 = s.fab.id) ∧ neighbourOk link x.farCap s = true ∧ ((proposal link s).bind fun v => agreeWidth v (codeWidth x.farWidth) x.farCap) = some w) ∧
    (∃ (link : Nat) (x : TrainInput) (s : State), link < 34 ∧ s.dev.state ≠ .haltedThermal ∧ (32 ≤ link → (portSt (lanePort link) s).phase = .training ∧ (portSt (lanePort link) s).fenced = false) ∧ (linkGet link s).st = .negotiate ∧ (linkGet link s).negDone = true ∧ x.farNegDone = true ∧ (linkGet link s).txActive = false ∧ (linkGet link s).rxActive = false ∧ (linkGet link s).txAt = none ∧ (linkGet link s).rxAt = none) ∧
    (∃ (link : Nat) (x : TrainInput) (s : State), link < 32 ∧ s.dev.state ≠ .haltedThermal ∧ (linkGet link s).st = .negotiate ∧ (linkGet link s).negDone = false ∧ x.farNonce = (linkGet link s).nonce ∧ bitsOf x.farCap.toNat 51 32 = s.fab.id) ∧
    (∃ (x : TrainInput) (s : State), s.dev.state ≠ .haltedThermal ∧ (portSt .cp0 s).phase = .training ∧ (portSt .cp0 s).fenced = false ∧ (linkGet 32 s).st = .light ∧ 0 ∈ x.verified) ∧
    (∃ (x : TrainInput) (s : State), s.dev.state ≠ .haltedThermal ∧ (portSt .cp0 s).phase = .training ∧ (portSt .cp0 s).fenced = false ∧ (linkGet 32 s).st = .send ∧ 0 ∈ x.verified) ∧
    (∃ (x : TrainInput) (s : State), s.dev.state ≠ .haltedThermal ∧ (portSt .cp0 s).phase = .training ∧ (portSt .cp0 s).fenced = false ∧ (linkGet 32 s).st = .align ∧ 0 ∈ x.locked) ∧
    (∃ (x : TrainInput) (slot : BitVec 48) (s : State), s.dev.state ≠ .haltedThermal ∧ (portSt .cp0 s).phase = .training ∧ (portSt .cp0 s).fenced = false ∧ (linkGet 32 s).st = .map ∧ (⟨0, true, 0, 0, slot, 0⟩ : Heard) ∈ x.heard) ∧
    (∃ (x : TrainInput) (s : State), s.dev.state ≠ .haltedThermal ∧ (portSt .cp0 s).phase = .training ∧ (portSt .cp0 s).fenced = false ∧ (linkGet 32 s).st = .negotiate ∧ (linkGet 32 s).negDone = false ∧ bitsOf x.farCap.toNat 7 4 = 3 ∧ bitsOf x.farCap.toNat 23 16 = 1) ∧
    (∃ (x : TrainInput) (s : State), s.dev.state ≠ .haltedThermal ∧ (portSt .cp0 s).phase = .training ∧ (portSt .cp0 s).fenced = false ∧ (linkGet 32 s).st = .negotiate ∧ (linkGet 32 s).negDone = false ∧ (bitsOf x.farCap.toNat 7 4 ≠ 3 ∨ bitsOf x.farCap.toNat 23 16 ≠ 1) ∧ (linkGet 32 s).returns < 3) ∧
    (∃ (link : Nat) (s : State), link < 32 ∧ (linkGet link s).st = .light ∧ (linkGet link s).stAt + 10000000 ≤ s.clock.now) ∧
    (∃ (link : Nat) (s : State), link < 32 ∧ ((linkGet link s).st = .align ∨ (linkGet link s).st = .map) ∧ (linkGet link s).stAt + 10000000 ≤ s.clock.now ∧ (linkGet link s).returns < 3) ∧
    (∃ (link : Nat) (s : State), link < 32 ∧ ((linkGet link s).st = .align ∨ (linkGet link s).st = .map) ∧ (linkGet link s).stAt + 10000000 ≤ s.clock.now ∧ 3 ≤ (linkGet link s).returns ∧ (linkGet link s).bivouacs < 3) ∧
    (∃ (link : Nat) (b : Nat) (s : State), link < 32 ∧ (linkGet link s).st = .bivouac ∧ (linkGet link s).bivouacTill = some b ∧ b ≤ s.clock.now) ∧
    (∃ (link : Nat) (a : Nat) (s : State), link < 32 ∧ (linkGet link s).txAt = some a) ∧
    (∃ (link : Nat) (a : Nat) (s : State), link < 32 ∧ (linkGet link s).rxAt = some a) ∧
    (∃ (link : Nat) (s : State), link < 32 ∧ (linkGet link s).st = .send ∧ (linkGet link s).light = false ∧ (linkGet link s).stAt + 2000000000 ≤ s.clock.now) ∧
    (∃ (link : Nat) (s : State), link < 32 ∧ (linkGet link s).st = .send) ∧
    (∃ (p : Port) (s : State), (portSt p s).phase = .down ∧ (portSt p s).fenced = false ∧ s.dev.state ≠ .haltedThermal ∧ (laserGet (portLaser p s) s).fade ≠ .failed ∧ (linkGet (portLink p) s).st ≠ .bivouac) ∧
    (∃ (s : State), (portSt .cp0 s).phase = .training ∧ (linkGet 32 s).st = .light ∧ (linkGet 32 s).stAt + 10000000 ≤ s.clock.now) ∧
    (∃ (s : State), (portSt .cp0 s).phase = .training ∧ ((linkGet 32 s).st = .align ∨ (linkGet 32 s).st = .map) ∧ (linkGet 32 s).stAt + 10000000 ≤ s.clock.now ∧ (linkGet 32 s).returns < 3) ∧
    (∃ (s : State), (portSt .cp0 s).phase = .training ∧ ((linkGet 32 s).st = .align ∨ (linkGet 32 s).st = .map) ∧ (linkGet 32 s).stAt + 10000000 ≤ s.clock.now ∧ 3 ≤ (linkGet 32 s).returns) ∧
    (∃ (b : Nat) (s : State), (portSt .cp0 s).fenced = false ∧ (linkGet 32 s).st = .bivouac ∧ (linkGet 32 s).bivouacTill = some b ∧ b ≤ s.clock.now) ∧
    (∃ (a : Nat) (s : State), (portSt .cp0 s).phase = .training ∧ (linkGet 32 s).rxAt = some a ∧ (linkGet 32 s).txActive = true) ∧
    (∃ (sl : Option (BitVec 48)) (s : State), (portSt .cp0 s).phase = .active ∧ (linkGet 32 s).st = .active) ∧
    (∃ (link : Nat) (sl : BitVec 48) (s : State), link < 32 ∧ (linkGet link s).retrainMine = true ∧ (linkGet link s).leader = true) ∧
    (∃ (link : Nat) (s : State), link < 32 ∧ (linkGet link s).st = .active) ∧
    (∃ (link : Nat) (s : State), link < 32 ∧ ((linkGet link s).txActive || (linkGet link s).rxActive) = true) :=
  ⟨⟨(0), (ti), (lk 0 { st := .bivouac }), by decide +kernel, by decide +kernel, by decide +kernel, by decide +kernel, by decide +kernel, by decide +kernel, by decide +kernel⟩,
   ⟨(0), (ti), (lk 0 { st := .send }), by decide +kernel, by decide +kernel, by decide +kernel, by decide +kernel⟩,
   ⟨(0), (ti), (lk 0 { st := .align }), by decide +kernel, by decide +kernel, by decide +kernel, by decide +kernel⟩,
   ⟨(0), (ti), (mappedOf ti), (lk 0 { st := .map }), by decide +kernel, by decide +kernel, by decide +kernel, by decide +kernel, by decide +kernel⟩,
   ⟨(0), (16), ({ ti with farCap := (BitVec.ofNat 64 (0x22 * 2 ^ 32 + 7 * 256)) }), (lk 0 { st := .negotiate, txWorking := List.range 18, rxUsable := List.range 17 }), by decide +kernel, by decide +kernel, by decide +kernel, by decide +kernel, by decide +kernel, by decide +kernel, by decide +kernel⟩,
   ⟨(0), ({ ti with farNegDone := true, farActiveAt := 7 }), (lk 0 { st := .negotiate, negDone := true }), by decide +kernel, by decide +kernel, by decide +kernel, by decide +kernel, by decide +kernel, by decide +kernel, by decide +kernel, by decide +kernel, by decide +kernel, by decide +kernel⟩,
   ⟨(0), ({ ti with farCap := BitVec.ofNat 64 (0x21 * 2 ^ 32) }), (lk 0 { st := .negotiate, nonce := 77 }), by decide +kernel, by decide +kernel, by decide +kernel, by decide +kernel, by decide +kernel, by decide +kernel⟩,
   ⟨(ti), (pt { st := .light }), by decide +kernel, by decide +kernel, by decide +kernel, by decide +kernel, by decide +kernel⟩,
   ⟨(ti), (pt { st := .send }), by decide +kernel, by decide +kernel, by decide +kernel, by decide +kernel, by decide +kernel⟩,
   ⟨(ti), (pt { st := .align }), by decide +kernel, by decide +kernel, by decide +kernel, by decide +kernel, by decide +kernel⟩,
   ⟨({ ti with heard := [⟨0, true, 0, 0, 900, 0⟩] }), (900), (pt { st := .map }), by decide +kernel, by decide +kernel, by decide +kernel, by decide +kernel, by decide +kernel⟩,
   ⟨({ ti with farCap := BitVec.ofNat 64 (3 * 16 + 65536) }), (pt { st := .negotiate }), by decide +kernel, by decide +kernel, by decide +kernel, by decide +kernel, by decide +kernel, by decide +kernel, by decide +kernel⟩,
   ⟨({ ti with farCap := BitVec.ofNat 64 (2 * 16 + 65536) }), (pt { st := .negotiate }), by decide +kernel, by decide +kernel, by decide +kernel, by decide +kernel, by decide +kernel, by decide +kernel, by decide +kernel⟩,
   ⟨(0), (lk 0 { st := .light }), by decide +kernel, by decide +kernel, by decide +kernel⟩,
   ⟨(0), (lk 0 { st := .map, returns := 2 }), by decide +kernel, by decide +kernel, by decide +kernel, by decide +kernel⟩,
   ⟨(0), (lk 0 { st := .align, returns := 3, bivouacs := 2 }), by decide +kernel, by decide +kernel, by decide +kernel, by decide +kernel, by decide +kernel⟩,
   ⟨(0), (6), (lk 0 { st := .bivouac, bivouacTill := some 6 }), by decide +kernel, by decide +kernel, by decide +kernel, by decide +kernel⟩,
   ⟨(0), (9), (lk 0 { st := .negotiate, txAt := some 9, rxActive := true }), by decide +kernel, by decide +kernel⟩,
   ⟨(0), (9), (lk 0 { st := .negotiate, rxAt := some 9, txActive := true }), by decide +kernel, by decide +kernel⟩,
   ⟨(0), (lk 0 { st := .send }), by decide +kernel, by decide +kernel, by decide +kernel, by decide +kernel⟩,
   ⟨(0), (lk 0 { st := .send }), by decide +kernel, by decide +kernel⟩,
   ⟨(.cp1), ({ late with ports := { late.ports with cp1 := {} } }), by decide +kernel, by decide +kernel, by decide +kernel, by decide +kernel, by decide +kernel⟩,
   ⟨(pt { st := .light }), by decide +kernel, by decide +kernel, by decide +kernel⟩,
   ⟨(pt { st := .map, returns := 2 }), by decide +kernel, by decide +kernel, by decide +kernel, by decide +kernel⟩,
   ⟨(pt { st := .align, returns := 3 }), by decide +kernel, by decide +kernel, by decide +kernel, by decide +kernel⟩,
   ⟨(6), ({ late with links := [(32, { st := .bivouac, bivouacTill := some 6 })], ports := { late.ports with cp0 := {} } }), by decide +kernel, by decide +kernel, by decide +kernel, by decide +kernel⟩,
   ⟨(9), (pt { st := .negotiate, rxAt := some 9, txActive := true }), by decide +kernel, by decide +kernel, by decide +kernel⟩,
   ⟨(some 900), ({ late with links := [(32, { st := .active, txActive := true, rxActive := true, sent := true })], chans := [(1153, { locked := true, state := .data, lane := some 0 })] }), by decide +kernel, by decide +kernel⟩,
   ⟨(0), (900), (lk 0 { retrainMine := true, leader := true, st := .active }), by decide +kernel, by decide +kernel, by decide +kernel⟩,
   ⟨(0), (lk 0 { st := .active, txActive := true, rxActive := true }), by decide +kernel, by decide +kernel⟩,
   ⟨(0), (lk 0 { st := .negotiate, txActive := true }), by decide +kernel, by decide +kernel⟩⟩

/-- The hypotheses of each clause of SlotsAndLocks can be met together. -/
theorem witness_SlotsAndLocks :
    (∃ (link : Nat) (s : State), link < 32 ∧ (linkGet link s).sent = true ∧ (linkGet link s).test = none ∧ (linkGet link s).retrainAt = none) ∧
    (∃ (link : Nat) (s : State), link < 32 ∧ (linkGet link s).sent = true ∧ (linkGet link s).test = none ∧ (linkGet link s).txActive = false ∧ (linkGet link s).st = .send) ∧
    (∃ (s : State), (linkGet 32 s).sent = true ∧ (portSt .cp0 s).phase = .down ∧ (linkGet 32 s).retrainAt = none) ∧
    (∃ (inst : Nat) (gap : Nat) (w : List (BitVec 10)) (bad : List Bool) (s : State), inst < 1156 ∧ instRx inst = true ∧ (chanSide inst s).locked = true ∧ (chanSide inst s).inverted = false ∧ w.length = 272 ∧ bad = (badCw (dataBits (w.map BitVec.toNat)) :: (chanSide inst s).bad).take 64 ∧ (bad.filter id).length < 16 ∧ (linkGet (instLink inst) s).rxActive = false ∧ (linkGet (instLink inst) s).test = none) ∧
    (∃ (inst : Nat) (gap : Nat) (w : List (BitVec 10)) (bad : List Bool) (s : State), inst < 1152 ∧ instRx inst = true ∧ (chanSide inst s).locked = true ∧ (chanSide inst s).inverted = false ∧ w.length = 272 ∧ bad = (badCw (dataBits (w.map BitVec.toNat)) :: (chanSide inst s).bad).take 64 ∧ 16 ≤ (bad.filter id).length ∧ (linkGet (instLink inst) s).rxSleep = false ∧ (linkGet (instLink inst) s).rxActive = false) ∧
    (∃ (inst : Nat) (inverted : Bool) (s : State), inst < 1156 ∧ instRx inst = true ∧ (chanSide inst s).locked = false ∧ ((linkGet (instLink inst) s).st = .align ∨ (linkGet (instLink inst) s).st = .map ∨ (linkGet (instLink inst) s).st = .negotiate ∨ (linkGet (instLink inst) s).st = .active) ∧ (chanSide inst s).state ≠ .dark ∧ (chanSide inst s).state ≠ .fenced) ∧
    (∃ (inst : Nat) (s : State), inst < 1152 ∧ (chanSide inst s).locked = true ∧ (linkGet (instLink inst) s).rxSleep = false ∧ (linkGet (instLink inst) s).rxActive = false) ∧
    (∃ (inst : Nat) (s : State), inst < 1152 ∧ (chanSide inst s).locked = true ∧ (linkGet (instLink inst) s).rxSleep = false ∧ (linkGet (instLink inst) s).st = .active ∧ (linkGet (instLink inst) s).rxActive = true ∧ (chanSide inst s).checker.inject.1 = 0) ∧
    (∃ (s : State), (chanSide 1153 s).locked = true ∧ (linkGet 32 s).rxSleep = false ∧ (portSt .cp0 s).phase = .active) :=
  ⟨⟨(0), (lk 0 actL), by decide +kernel, by decide +kernel, by decide +kernel, by decide +kernel⟩,
   ⟨(0), (lk 0 { st := .send, sent := true, txWorking := [3, 5] }), by decide +kernel, by decide +kernel, by decide +kernel, by decide +kernel, by decide +kernel⟩,
   ⟨({ late with links := [(32, { sent := true, slot := 2 ^ 48 - 1 })], ports := { late.ports with cp0 := {} } }), by decide +kernel, by decide +kernel, by decide +kernel⟩,
   ⟨(23), (0), (List.replicate 272 0), ((badCw (dataBits (List.replicate 272 0)) :: ([])).take 64), ({ lk 0 { st := .align } with chans := [(23, { locked := true, lane := some 4, bad := [] })] }), by decide +kernel, by decide +kernel, by decide +kernel, by decide +kernel, by decide +kernel, by decide +kernel, by decide +kernel, by decide +kernel, by decide +kernel⟩,
   ⟨(23), (0), (List.replicate 272 0), ((badCw (dataBits (List.replicate 272 0)) :: (List.replicate 15 true)).take 64), ({ lk 0 { st := .align } with chans := [(23, { locked := true, lane := some 4, bad := List.replicate 15 true })] }), by decide +kernel, by decide +kernel, by decide +kernel, by decide +kernel, by decide +kernel, by decide +kernel, by decide +kernel, by decide +kernel, by decide +kernel⟩,
   ⟨(23), (true), ({ lk 0 { st := .align } with chans := [(23, { lane := some 4 })] }), by decide +kernel, by decide +kernel, by decide +kernel, by decide +kernel, by decide +kernel, by decide +kernel⟩,
   ⟨(23), ({ lk 0 { st := .align } with chans := [(23, { locked := true, lane := some 4 })] }), by decide +kernel, by decide +kernel, by decide +kernel, by decide +kernel⟩,
   ⟨(23), ({ lk 0 actL with chans := [(23, { locked := true, state := .data, lane := some 4 })] }), by decide +kernel, by decide +kernel, by decide +kernel, by decide +kernel, by decide +kernel, by decide +kernel⟩,
   ⟨({ late with links := [(32, { st := .active, txActive := true, rxActive := true, sent := true })], chans := [(1153, { locked := true, state := .data, lane := some 0 })] }), by decide +kernel, by decide +kernel, by decide +kernel⟩⟩

/-- The hypotheses of each clause of SleepTestsAndWidth can be met together. -/
theorem witness_SleepTestsAndWidth :
    (∃ (link : Nat) (slot : BitVec 48) (s : State), link < 32 ∧ (linkGet link s).txActive = true ∧ (linkGet link s).txSleep = false ∧ (linkGet link s).sleepAt = none ∧ (linkGet link s).stream = [] ∧ (linkGet link s).moves = [] ∧ (linkGet link s).slot + 16 ≤ slot.toNat) ∧
    (∃ (link : Nat) (slot : BitVec 48) (s : State), link < 32 ∧ (linkGet link s).txActive = true ∧ (linkGet link s).txSleep = false ∧ (linkGet link s).sleepAt = some slot.toNat ∧ (linkGet link s).wakeAt = none ∧ (linkGet link s).stream = []) ∧
    (∃ (link : Nat) (slot : BitVec 48) (s : State), link < 32 ∧ (linkGet link s).rxActive = true) ∧
    (∃ (link : Nat) (slot : BitVec 48) (s : State), link < 32 ∧ (linkGet link s).wakeAt = some slot.toNat) ∧
    (∃ (link : Nat) (ch : Nat) (slot : BitVec 48) (s : State), link < 32 ∧ ch < 18 ∧ (linkGet link s).rxSleep = true ∧ (slot.toNat - (linkGet link s).rxSleepAt.getD 0) % 256 = 0) ∧
    (∃ (link : Nat) (ch : Nat) (s : State), link < 32 ∧ ch < 18 ∧ (linkGet link s).rxSleep = true ∧ (chanSide (rxi link ch) s).locked = true) ∧
    (∃ (inst : Nat) (pattern : Nat) (s : State), inst < 1156 ∧ 1 ≤ pattern ∧ pattern < 4) ∧
    (∃ (inst : Nat) (s : State), inst < 1156) ∧
    (∃ (link : Nat) (pattern : Nat) (half : Nat) (mask : Nat) (until_ : Nat) (s : State), link < 32 ∧ (linkGet link s).test = some (pattern, half, mask, until_) ∧ until_ ≤ s.clock.now) ∧
    (∃ (link : Nat) (own : Nat) (r : WidthMsg) (s : State), link < 32 ∧ linkUp link s = true ∧ (linkGet link s).change = none ∧ widthFor ((txLit link s).filter fun k => !(heldBack link s).contains k && !(linkGet link s).excluded.contains k).length = some own) ∧
    (∃ (link : Nat) (r : WidthMsg) (m : WidthChange) (s : State), link < 32 ∧ (linkGet link s).change = some m ∧ m.mine = true ∧ m.agreed = false) ∧
    (∃ (link : Nat) (w : WidthChange) (s : State), link < 32 ∧ (linkGet link s).change = some w ∧ w.agreed = true) :=
  ⟨⟨(0), (56), (lk 0 { actL with slot := 40 }), by decide +kernel, by decide +kernel, by decide +kernel, by decide +kernel, by decide +kernel, by decide +kernel, by decide +kernel⟩,
   ⟨(0), (56), (lk 0 { actL with slot := 40, sleepAt := some 56 }), by decide +kernel, by decide +kernel, by decide +kernel, by decide +kernel, by decide +kernel, by decide +kernel⟩,
   ⟨(0), (56), (lk 0 { actL with slot := 40 }), by decide +kernel, by decide +kernel⟩,
   ⟨(0), (56), (lk 0 { actL with slot := 40, txSleep := true, sleepAt := some 6, wakeAt := some 56 }), by decide +kernel, by decide +kernel⟩,
   ⟨(0), (4), (312), (lk 0 { actL with rxSleep := true, rxSleepAt := some 56 }), by decide +kernel, by decide +kernel, by decide +kernel, by decide +kernel⟩,
   ⟨(0), (5), ({ lk 0 { actL with rxSleep := true } with chans := [(23, { locked := true, lane := some 4, missed := 3 })] }), by decide +kernel, by decide +kernel, by decide +kernel, by decide +kernel⟩,
   ⟨(5), (3), (late), by decide +kernel, by decide +kernel, by decide +kernel⟩,
   ⟨(5), (late), by decide +kernel⟩,
   ⟨(0), (1), (0), (7), (9), (lk 0 { actL with test := some (1, 0, 7, 9) }), by decide +kernel, by decide +kernel, by decide +kernel⟩,
   ⟨(0), (16), (⟨12, [5], 100⟩), (lk 0 { actL with slot := 40 }), by decide +kernel, by decide +kernel, by decide +kernel, by decide +kernel⟩,
   ⟨(0), (⟨8, [5], 200⟩), (⟨12, [5], 100, true, false, []⟩), (lk 0 { actL with change := some ⟨12, [5], 100, true, false, []⟩ }), by decide +kernel, by decide +kernel, by decide +kernel, by decide +kernel⟩,
   ⟨(0), (⟨12, [5], 100, true, true, []⟩), (lk 0 { actL with change := some ⟨12, [5], 100, true, true, []⟩ }), by decide +kernel, by decide +kernel, by decide +kernel⟩⟩

/-- The hypotheses of each clause of FlitsAndReplay can be met together. -/
theorem witness_FlitsAndReplay :
    (∃ (link : Nat) (f : Flit) (s : State), link < 32 ∧ (linkGet link s).rxActive = true ∧ f.crc ≠ flitCrc f ∧ (linkGet link s).gapAt = none) ∧
    (∃ (link : Nat) (f : Flit) (s : State), link < 32 ∧ (linkGet link s).rxActive = true ∧ f.crc = flitCrc f ∧ f.type = 0 ∧ f.pause = 0 ∧ f.lflags = 0 ∧ FabricQuiet s ∧ (linkGet link s).pauseIn = 0) ∧
    (∃ (link : Nat) (f : Flit) (s : State), link < 32 ∧ (linkGet link s).rxActive = true ∧ f.crc = flitCrc f ∧ flitUnsequenced f = false ∧ f.type ≠ 1 ∧ f.type ≠ 2 ∧ flitKnown f = true ∧ f.pause = 0 ∧ f.lflags.getLsbD 4 = false ∧ FabricQuiet s ∧ (linkGet link s).pauseIn = 0 ∧ f.lseq = (linkGet link s).expect ∧ s.faults.poisonNext = [] ∧ f.gseq.toNat ≠ tget 0 s.fab.gnext (linkGroup link) ∧ (f.gseq.toNat + 2 ^ 32 - tget 0 s.fab.gnext (linkGroup link)) % 2 ^ 32 < 32768 ∧ (∀ h ∈ tget [] s.fab.window (linkGroup link), h.gseq ≠ f.gseq ∧ h.gseq.toNat ≠ tget 0 s.fab.gnext (linkGroup link))) ∧
    (∃ (link : Nat) (s : State), link < 32 ∧ (linkGet link s).txActive = true ∧ (linkGet link s).txSleep = false ∧ (linkGet link s).ackAt + 64 ≤ s.clock.now) ∧
    (∃ (link : Nat) (s : State), link < 32 ∧ (linkGet link s).txActive = true ∧ (linkGet link s).replay ≠ [] ∧ (linkGet link s).lackAt + 1000 * replayTimer link s ≤ s.clock.now ∧ (linkGet link s).replays < 7) :=
  ⟨⟨(0), ({ fl0 with crc := 1 + flitCrc fl0 }), (lk 0 actL), by decide +kernel, by decide +kernel, by decide +kernel, by decide +kernel⟩,
   ⟨(0), (sealF { fl0 with lack := 5 }), (lk 0 { actL with replay := [{ fl0 with lseq := 5 }, { fl0 with lseq := 6 }] }), by decide +kernel, by decide +kernel, by decide +kernel, by decide +kernel, by decide +kernel, by decide +kernel, by unfold FabricQuiet; decide +kernel, by decide +kernel⟩,
   ⟨(0), (sealF { fl0 with type := 0x10, gseq := 4 }), (lk 0 actL), by decide +kernel, by decide +kernel, by decide +kernel, by decide +kernel, by decide +kernel, by decide +kernel, by decide +kernel, by decide +kernel, by decide +kernel, by unfold FabricQuiet; decide +kernel, by decide +kernel, by decide +kernel, by decide +kernel, by decide +kernel, by decide +kernel, by decide +kernel⟩,
   ⟨(0), (lk 0 actL), by decide +kernel, by decide +kernel, by decide +kernel, by decide +kernel⟩,
   ⟨(0), (lk 0 { actL with replay := [{ fl0 with lseq := 5 }, { fl0 with lseq := 6 }] }), by decide +kernel, by decide +kernel, by decide +kernel, by decide +kernel, by decide +kernel⟩⟩

/-- The hypotheses of each clause of EndToEndCredits can be met together. -/
theorem witness_EndToEndCredits :
    (∃ (pkg : Nat) (vc : Nat) (total : BitVec 32) (e : CreditEntry) (s : State), credited vc = true ∧ s.fab.waiting = [] ∧ s.fab.sysWaiting = [] ∧ tget none s.fab.src (entryKey (pkg % 2 ^ 20) vc) = some e ∧ above total e.granted = true) ∧
    (∃ (pkg : Nat) (vc : Nat) (total : BitVec 32) (a : CreditAsk) (s : State), credited vc = true ∧ s.fab.waiting = [] ∧ s.fab.sysWaiting = [] ∧ tget none s.fab.src (entryKey (pkg % 2 ^ 20) vc) = none ∧ tget none s.fab.asks (entryKey (pkg % 2 ^ 20) vc) = some a) ∧
    (∃ (pkg : Nat) (vc : Nat) (e : CreditEntry) (s : State), dstEntry pkg vc s = some e ∧ e.granted ≠ e.told ∧ e.toldAt + 1000 ≤ s.clock.now ∧ pkg < 2 ^ 20 ∧ s.fab.outq = [] ∧ LeadsTo pkg s) ∧
    (∃ (pkg : Nat) (vc : Nat) (s : State), credited vc = true ∧ dstEntry (pkg % 2 ^ 20) vc s = none ∧ entriesOf vc s.fab.dst < 4096) ∧
    (∃ (pkg : Nat) (vc : Nat) (a : CreditAsk) (s : State), tget none s.fab.asks (entryKey pkg vc) = some a ∧ a.refused = true ∧ a.askedAt + 1000 * a.waitUs ≤ s.clock.now ∧ s.clock.now < a.began + 1000 * s.fab.timeoutUs ∧ sysOut pkg s < 4) ∧
    (∃ (pkg : Nat) (vc : Nat) (a : CreditAsk) (s : State), tget none s.fab.asks (entryKey pkg vc) = some a ∧ a.refused = true ∧ a.askedAt + 1000 * a.waitUs ≤ s.clock.now ∧ a.began + 1000 * s.fab.timeoutUs ≤ s.clock.now) ∧
    (∃ (pkg : Nat) (vc : Nat) (e : CreditEntry) (s : State), dstEntry pkg vc s = some e ∧ e.closing = false ∧ e.usedAt + 10000000 ≤ s.clock.now) ∧
    (∃ (pkg : Nat) (vc : Nat) (total : BitVec 32) (e : CreditEntry) (s : State), dstEntry (pkg % 2 ^ 20) vc s = some e ∧ e.closing = true ∧ e.consumed ≠ total) ∧
    (∃ (pkg : Nat) (vc : Nat) (e : CreditEntry) (s : State), dstEntry (pkg % 2 ^ 20) vc s = some e ∧ e.closing = true) ∧
    (∃ (pkg : Nat) (k : Nat) (tag : BitVec 32) (status : BitVec 8) (a : CreditAsk) (s : State), s.fab.waiting = [] ∧ s.fab.sysWaiting = [] ∧ (s.fab.reqs.find? fun r => r.tag = tag && r.engine.isNone && r.purpose != 3) = none ∧ (s.fab.asks.find? fun e => e.2.any fun x => x.tag = tag && !x.refused) = some (k, some a)) :=
  ⟨⟨(0x22), (2), (70), ({ granted := 64 }), ({ fab1 with fab := { fab1.fab with src := [(entryKey 0x22 2, some { granted := 64 })] } }), by decide +kernel, by decide +kernel, by decide +kernel, by decide +kernel, by decide +kernel⟩,
   ⟨(0x22), (2), (70), (⟨5, 3, 3, 40, true⟩), ({ fab1 with fab := { fab1.fab with asks := [(entryKey 0x22 2, some ⟨5, 3, 3, 40, true⟩)] } }), by decide +kernel, by decide +kernel, by decide +kernel, by decide +kernel, by decide +kernel⟩,
   ⟨(0x22), (2), ({ granted := 64, told := 4 }), (crSt), by decide +kernel, by decide +kernel, by decide +kernel, by decide +kernel, by decide +kernel, leads_lit⟩,
   ⟨(0x22), (2), (fab1), by decide +kernel, by decide +kernel, by decide +kernel⟩,
   ⟨(0x22), (2), (⟨5, 60000000000 - 500000, 60000000000 - 500000, 40, true⟩), ({ fab1 with fab := { fab1.fab with asks := [(entryKey 0x22 2, some ⟨5, 60000000000 - 500000, 60000000000 - 500000, 40, true⟩)] } }), by decide +kernel, by decide +kernel, by decide +kernel, by decide +kernel, by decide +kernel⟩,
   ⟨(0x22), (2), (⟨5, 3, 3, 40, true⟩), ({ fab1 with fab := { fab1.fab with asks := [(entryKey 0x22 2, some ⟨5, 3, 3, 40, true⟩)], waiting := [{ fl0 with type := 0x10 }] } }), by decide +kernel, by decide +kernel, by decide +kernel, by decide +kernel⟩,
   ⟨(0x22), (2), ({ granted := 64, told := 4 }), ({ fab1 with fab := { fab1.fab with dst := [(entryKey 0x22 2, some { granted := 64, told := 4 })] } }), by decide +kernel, by decide +kernel, by decide +kernel⟩,
   ⟨(0x22), (2), (4), ({ granted := 64, closing := true }), ({ fab1 with fab := { fab1.fab with dst := [(entryKey 0x22 2, some { granted := 64, closing := true })] } }), by decide +kernel, by decide +kernel, by decide +kernel⟩,
   ⟨(0x22), (2), ({ granted := 64, consumed := 9, closing := true }), ({ fab1 with fab := { fab1.fab with dst := [(entryKey 0x22 2, some { granted := 64, consumed := 9, closing := true })] } }), by decide +kernel, by decide +kernel⟩,
   ⟨(0x22), (entryKey 0x22 2), (5), (6), (⟨5, 3, 3, 40, false⟩), ({ fab1 with fab := { fab1.fab with asks := [(entryKey 0x22 2, some ⟨5, 3, 3, 40, false⟩)] } }), by decide +kernel, by decide +kernel, by decide +kernel, by decide +kernel⟩⟩

/-- The hypotheses of each clause of PeersAndRequests can be met together. -/
theorem witness_PeersAndRequests :
    (∃ (pkg : Nat) (r : Nat) (tag : BitVec 32) (addr : BitVec 64) (found : List (Nat × BadSymbols)) (s : State), place addr.toNat s = .reg r ∧ [0, 6, 9].contains (regBlock (regOff r)) = true ∧ regSecure (regOff r) = false ∧ regOff r % 8 = 0) ∧
    (∃ (pkg : Nat) (x : Nat) (n : Nat) (tag : BitVec 32) (addr : BitVec 64) (s : State), place addr.toNat s = .dram x ∧ loanCovers (pkg % 2 ^ 20) addr.toNat n false s = true ∧ 0 < n ∧ n ≤ 192 ∧ n % 8 = 0 ∧ s.faults.poisonNext = [] ∧ (s.mem.home = false ∨ s.mem.dir = [])) ∧
    (∃ (pkg : Nat) (x : Nat) (n : Nat) (l : Nat) (tag : BitVec 32) (addr : BitVec 64) (b : BadSymbols) (s : State), Memory.wf s.mem = true ∧ place addr.toNat s = .dram x ∧ loanCovers (pkg % 2 ^ 20) addr.toNat n false s = true ∧ 0 < n ∧ n ≤ 192 ∧ n % 8 = 0 ∧ s.faults.poisonNext = [] ∧ (s.mem.home = false ∨ s.mem.dir = []) ∧ s.mem.rlc = [] ∧ l ∈ spanLines x n ∧ stackDown l s = false ∧ badLine b = true) ∧
    (∃ (pkg : Nat) (x : Nat) (tag : BitVec 32) (addr : BitVec 64) (data : List (BitVec 8)) (s : State), place addr.toNat s = .dram x ∧ loanCovers (pkg % 2 ^ 20) addr.toNat data.length true s = true ∧ data ≠ [] ∧ data.length ≤ 192 ∧ DramOpen x data.length s) ∧
    (∃ (pkg : Nat) (off : Nat) (tag : BitVec 32) (data : List (BitVec 8)) (poison : Bool) (s : State), (∀ i, i < 64 → (slotGet i s).running = none)) ∧
    (∃ (tag : BitVec 32) (data : List (BitVec 8)) (poison : Bool) (q : FabReq) (e : Nat × Nat) (p : Nat) (c : Nat) (r : MReq) (s : State), (s.fab.reqs.find? fun x => x.tag = tag && (x.engine.isSome || x.purpose = 3)) = some q ∧ q.engine = some e ∧ mreqCore true tag s = some (p, c, r) ∧ r.write = true ∧ (engGet p c .m s).run ≠ none) ∧
    (∃ (tag : BitVec 32) (status : BitVec 8) (data : List (BitVec 8)) (poison : Bool) (q : FabReq) (e : Nat × Nat) (s : State), (s.fab.reqs.find? fun x => x.tag = tag && (x.engine.isSome || x.purpose = 3)) = some q ∧ q.engine = some e ∧ status ≠ 0) ∧
    (∃ (tag : BitVec 32) (status : BitVec 8) (data : List (BitVec 8)) (poison : Bool) (q : FabReq) (s : State), (s.fab.reqs.find? fun x => x.tag = tag && (x.engine.isSome || x.purpose = 3)) = some q ∧ q.engine = none) ∧
    (∃ (tag : BitVec 32) (status : BitVec 8) (data : List (BitVec 8)) (poison : Bool) (s : State), (∀ x ∈ s.fab.reqs, x.tag ≠ tag)) ∧
    (∃ (tag : BitVec 32) (q : FabReq) (s : State), (s.fab.reqs.find? fun x => x.tag = tag) = some q ∧ q.engine = none ∧ q.sentAt + 1000 * s.fab.timeoutUs ≤ s.clock.now ∧ s.fab.waiting = [] ∧ s.fab.sysWaiting = []) ∧
    (∃ (tag : BitVec 32) (q : FabReq) (e : Nat × Nat) (s : State), (s.fab.reqs.find? fun x => x.tag = tag) = some q ∧ q.engine = some e ∧ q.sentAt + 1000 * s.fab.timeoutUs ≤ s.clock.now) ∧
    (∃ (pkg : Nat) (bytes : Nat) (i : Nat) (a : Nat) (n : Nat) (tag : BitVec 32) (s : State), fwActs s = true ∧ loanAnswer bytes s = (.ok, i, a, n)) ∧
    (∃ (pkg : Nat) (i : Nat) (w : Loan) (tag : BitVec 32) (s : State), fwActs s = true ∧ tget none s.mem.windows i = some w ∧ w.granted = true ∧ w.borrower = some (pkg % 2 ^ 20)) ∧
    (∃ (pkg : Nat) (tag : BitVec 32) (w : BitVec 64) (s : State), fwActs s = true) :=
  ⟨⟨(0x22), (0xFF00000000), (5), (0xFF00000000), ([]), (fab1), by decide +kernel, by decide +kernel, by decide +kernel, by decide +kernel⟩,
   ⟨(0x22), (0x200000), (192), (5), (0x200000), ({ fab1 with mem := { fab1.mem with windows := [(3, some ⟨0x200000, 0x200000, some 0x22, true, true, false⟩)] } }), by decide +kernel, by decide +kernel, by decide +kernel, by decide +kernel, by decide +kernel, by decide +kernel, by decide +kernel⟩,
   ⟨(0x22), (0x200000), (192), (0x200040), (5), (0x200000), ((⟨3, 0, 0, false, 2, 9⟩ : BadSymbols)), ({ fab1 with mem := { fab1.mem with windows := [(3, some ⟨0x200000, 0x200000, some 0x22, true, true, false⟩)] } }), by decide +kernel, by decide +kernel, by decide +kernel, by decide +kernel, by decide +kernel, by decide +kernel, by decide +kernel, by decide +kernel, by decide +kernel, by decide +kernel, by decide +kernel, by decide +kernel⟩,
   ⟨(0x22), (0x200000), (5), (0x200000), ([1,2,3,4,5,6,7,8]), ({ fab1 with mem := { fab1.mem with windows := [(3, some ⟨0x200000, 0x200000, some 0x22, true, true, false⟩)] } }), by decide +kernel, by decide +kernel, by decide +kernel, by decide +kernel, by unfold DramOpen; decide +kernel⟩,
   ⟨(0x22), (8), (5), ([1,2,0]), (true), (fab1), by decide +kernel⟩,
   ⟨(9), ([]), (false), (fq (some (0, 0)) 9), ((0, 0)), (0), (0), (reqM), (mst), by decide +kernel, by decide +kernel, by decide +kernel, by decide +kernel, by decide +kernel⟩,
   ⟨(9), (8), ([]), (false), (fq (some (0, 0)) 9), ((0, 0)), (mst), by decide +kernel, by decide +kernel, by decide +kernel⟩,
   ⟨(10), (3), ([]), (false), ({ fq none 10 with purpose := 3 }), ({ mst with fab := { mst.fab with reqs := [{ fq none 10 with purpose := 3 }] } }), by decide +kernel, by decide +kernel⟩,
   ⟨(77), (3), ([]), (false), (mst), by decide +kernel⟩,
   ⟨(10), (fq none 10), (mst), by decide +kernel, by decide +kernel, by decide +kernel, by decide +kernel, by decide +kernel⟩,
   ⟨(9), (fq (some (0, 0)) 9), ((0, 0)), (mst), by decide +kernel, by decide +kernel, by decide +kernel⟩,
   ⟨(0x22), (5000), (0), ((loanAnswer 5000 { fab1 with mem := { fab1.mem with dram := [(0x200000, 7)], lendLimit := 0x400000 } }).2.2.1), (0x200000), (5), ({ fab1 with mem := { fab1.mem with dram := [(0x200000, 7)], lendLimit := 0x400000 } }), by decide +kernel, by decide +kernel⟩,
   ⟨(0x22), (3), (⟨0x200000, 0x200000, some 0x22, true, true, false⟩), (5), ({ fab1 with mem := { fab1.mem with windows := [(3, some ⟨0x200000, 0x200000, some 0x22, true, true, false⟩)] } }), by decide +kernel, by decide +kernel, by decide +kernel, by decide +kernel⟩,
   ⟨(0x22), (5), (4), (fab1), by decide +kernel⟩⟩

/-- The hypotheses of each clause of Collectives can be met together. -/
theorem witness_Collectives :
    (∃ (f : Flank) (g : Nat) (m : CollMsg) (e : RedEntry) (s : State), tget none s.fab.tables m.coll = some e ∧ findSlot m.coll m.chunk s = none ∧ slotsOn f s < 4096 ∧ m.weight < expectedHere e m.chunk s) ∧
    (∃ (f : Flank) (k : Flank) (m : CollMsg) (e : RedEntry) (x : RedSlot) (s : State), tget none s.fab.tables m.coll = some e ∧ findSlot m.coll m.chunk s = some (k, x) ∧ x.forwarded = false ∧ x.weight + m.weight < expectedHere e m.chunk s) ∧
    (∃ (f : Flank) (k : Flank) (m : CollMsg) (e : RedEntry) (x : RedSlot) (s : State), tget none s.fab.tables m.coll = some e ∧ findSlot m.coll m.chunk s = some (k, x) ∧ x.branches = [ownBranch] ∧ (slotGet e.graph s).running = none) ∧
    (∃ (f : Flank) (coll : Nat) (chunk : Nat) (x : RedSlot) (e : RedEntry) (s : State), tget none s.fab.slots (slotKey f coll chunk) = some x ∧ tget none s.fab.tables coll = some e ∧ x.began + 1000 * s.fab.timeoutUs ≤ s.clock.now ∧ x.forwarded = true) ∧
    (∃ (f : Flank) (coll : Nat) (chunk : Nat) (x : RedSlot) (e : RedEntry) (s : State), tget none s.fab.slots (slotKey f coll chunk) = some x ∧ tget none s.fab.tables coll = some e ∧ x.began + 1000 * s.fab.timeoutUs ≤ s.clock.now ∧ x.forwarded = false ∧ chunkRoot e chunk ≠ s.fab.id) :=
  ⟨⟨(.south), (3), (cm 1), (red), (cst none red), by decide +kernel, by decide +kernel, by decide +kernel, by decide +kernel⟩,
   ⟨(.north), (.south), (cm 1), (red), (rslot), (cst (some rslot) red), by decide +kernel, by decide +kernel, by decide +kernel, by decide +kernel⟩,
   ⟨(.north), (.south), (cm 3), (red), (rslot), (cst (some rslot) red), by decide +kernel, by decide +kernel, by decide +kernel, by decide +kernel⟩,
   ⟨(.south), (7), (0), ({ rslot with forwarded := true }), (red), (cst (some { rslot with forwarded := true }) red), by decide +kernel, by decide +kernel, by decide +kernel, by decide +kernel⟩,
   ⟨(.south), (7), (0), (rslot), (red), ({ cst (some rslot) red with fab := { (cst (some rslot) red).fab with id := 0x21 } }), by decide +kernel, by decide +kernel, by decide +kernel, by decide +kernel, by decide +kernel⟩⟩

/-- The hypotheses of each clause of TimeDiscipline can be met together. -/
theorem witness_TimeDiscipline :
    (∃ (s : State), s.clock.sentAt + 1000000 ≤ s.clock.now) ∧
    (∃ (link : Nat) (m : TimeMsg) (s : State), link < 32 ∧ (linkGet link s).rxActive = true ∧ m.priority < 255 ∧ m.master ≠ s.fab.id ∧ s.clock.parent = none ∧ s.clock.priority = 255 ∧ s.clock.locked = false ∧ m.echoSent = 0 ∧ m.echoReceived = 0) ∧
    (∃ (link : Nat) (m : TimeMsg) (off : Int) (s : State), link < 32 ∧ (linkGet link s).rxActive = true ∧ m.priority < 255 ∧ m.master ≠ s.fab.id ∧ s.clock.parent = some link ∧ s.clock.priority = 255 ∧ s.clock.locked = false ∧ offsetOf m = some off ∧ 0 < off) ∧
    (∃ (link : Nat) (m : TimeMsg) (off : Int) (s : State), link < 32 ∧ (linkGet link s).rxActive = true ∧ m.priority < 255 ∧ m.master ≠ s.fab.id ∧ s.clock.parent = some link ∧ s.clock.priority = 255 ∧ s.clock.locked = true ∧ offsetOf m = some off ∧ off.natAbs ≤ 100000) ∧
    (∃ (s : State), s.clock.parent ≠ none ∧ s.clock.heard + 10000000 ≤ s.clock.now) :=
  ⟨⟨(fab1), by decide +kernel⟩,
   ⟨(0), (⟨4, 0x22, 0, 9, 8, 0, 0⟩), (fab1), by decide +kernel, by decide +kernel, by decide +kernel, by decide +kernel, by decide +kernel, by decide +kernel, by decide +kernel, by decide +kernel, by decide +kernel⟩,
   ⟨(0), (⟨4, 0x22, 0, 60000001000, 60000000000, 4, 4⟩), ((offsetOf ⟨4, 0x22, 0, 60000001000, 60000000000, 4, 4⟩).getD 0), ({ fab1 with clock := { fab1.clock with parent := some 0 } }), by decide +kernel, by decide +kernel, by decide +kernel, by decide +kernel, by decide +kernel, by decide +kernel, by decide +kernel, by decide +kernel, by decide +kernel⟩,
   ⟨(0), (⟨4, 0x22, 0, 60000001000, 60000000000, 4, 4⟩), ((offsetOf ⟨4, 0x22, 0, 60000001000, 60000000000, 4, 4⟩).getD 0), ({ fab1 with clock := { fab1.clock with parent := some 0, locked := true } }), by decide +kernel, by decide +kernel, by decide +kernel, by decide +kernel, by decide +kernel, by decide +kernel, by decide +kernel, by decide +kernel, by decide +kernel⟩,
   ⟨({ fab1 with clock := { fab1.clock with parent := some 0, locked := true } }), by decide +kernel, by decide +kernel⟩⟩

/-- The hypotheses of each clause of VerweustModules can be met together. -/
theorem witness_VerweustModules :
    (∃ (m : Nat) (d : Nat) (x : D2dSlot) (y : D2dDir) (s : State), m < 141 ∧ d < 2 ∧ (modGet m s).state = .active ∧ dirGet m d s = y ∧ y.noRecord = false ∧ s.faults.poisonNext = [] ∧ slotCrc x = x.crc ∧ x.v = true ∧ x.k = false ∧ y.nak = false ∧ y.left = 0 ∧ retryRoom m d s = true ∧ y.seq = y.expect) ∧
    (∃ (m : Nat) (d : Nat) (x : D2dSlot) (s : State), m < 141 ∧ d < 2 ∧ (modGet m s).state = .active ∧ (dirGet m d s).noRecord = false ∧ s.faults.poisonNext = [] ∧ slotCrc x ≠ x.crc) ∧
    (∃ (m : Nat) (d : Nat) (w : BitVec 16) (s : State), m < 141 ∧ d < 2 ∧ (modGet m s).state = .active ∧ crc8 8 (w.toNat % 256) = w.toNat / 256 ∧ w.getLsbD 7 = false ∧ (dirGet m d s).retry ≠ [] ∧ (dirGet m d s).retry.length < 128 ∧ w.setWidth 7 = (dirGet m d s).seq - 1) ∧
    (∃ (m : Nat) (d : Nat) (s : State), m < 141 ∧ d < 2 ∧ (modGet m s).state = .active ∧ (dirGet m d s).retry ≠ [] ∧ (dirGet m d s).ackAt + (if (dirGet m d s).half then 64 else 32) ≤ s.clock.now ∧ (dirGet m d s).replays < 7) ∧
    (∃ (m : Nat) (w : BitVec 64) (s : State), m < 141 ∧ modPowered m s = true ∧ (modGet m s).state = .active ∧ crc8 56 (w.toNat % 2 ^ 56) = w.toNat / 2 ^ 56 ∧ w.toNat % 256 = 6) ∧
    (∃ (m : Nat) (w : BitVec 64) (s : State), m < 141 ∧ modPowered m s = true ∧ crc8 56 (w.toNat % 2 ^ 56) = w.toNat / 2 ^ 56 ∧ w.toNat % 256 = 0) ∧
    (∃ (m : Nat) (seq : BitVec 8) (w : SbWait) (s : State), m < 141 ∧ ((modGet m s).sbWait.find? fun y => y.seq = seq) = some w ∧ w.sentAt + 10000 ≤ s.clock.now ∧ w.attempts < 8) ∧
    (∃ (m : Nat) (seq : BitVec 8) (w : SbWait) (s : State), m < 141 ∧ ((modGet m s).sbWait.find? fun y => y.seq = seq) = some w ∧ w.sentAt + 10000 ≤ s.clock.now ∧ 8 ≤ w.attempts) ∧
    (∃ (m : Nat) (x : LinkUpInput) (s : State), m < 141 ∧ (moduleGroup m = 18 → s.part.guest ≠ none) ∧ modPowered m s = true ∧ (modGet m s).state = .down ∧ s.dev.state ≠ .haltedThermal ∧ flanksStopped m s = false ∧ x.design = requiredDesign m x.from_ s ∧ bitOf (capField x.caps 2 0 0) 0 = true ∧ 16 ≤ capField x.caps 3 15 8 ∧ x.goodWires = [] ∧ x.badWires = [] ∧ (modGet m s).rx.repair.length ≤ 38 ∧ (modGet m s).tx.repair.length ≤ 38) ∧
    (∃ (m : Nat) (x : LinkUpInput) (s : State), moduleGroup m < 8 ∧ m < 141 ∧ (modGet m s).state = .down ∧ s.dev.state ≠ .haltedThermal ∧ flanksStopped m s = false ∧ x.design ≠ requiredDesign m x.from_ s ∧ flankPhase x.from_ s = .inService) ∧
    (∃ (m : Nat) (x : LinkUpInput) (s : State), m < 141 ∧ moduleGroup m < 18 ∧ (s.boot.error = 0x82 ∨ s.boot.error = 0x83)) ∧
    (∃ (m : Nat) (d : Nat) (s : State), 128 ≤ m ∧ m < 141 ∧ d < 2 ∧ (modGet m s).state = .retrain ∧ (∀ x, (modGet m s).retrainTill = some x → x ≤ s.clock.now) ∧ retrainReady (modGet m s) = true ∧ (modGet m s).rx.repair.length ≤ 38 ∧ (modGet m s).tx.repair.length ≤ 38 ∧ (modGet m s).rx.noRecord = false ∧ (modGet m s).tx.noRecord = false) ∧
    (∃ (m : Nat) (s : State), m < 141 ∧ (modGet m s).state = .active ∧ (modGet m s).recalAt + 1000000000 ≤ s.clock.now ∧ s.clock.now < (modGet m s).recalAt + 4000000000 ∧ retrainShort m s = false ∧ s.dev.state ≠ .haltedThermal) ∧
    (∃ (m : Nat) (s : State), m < 141 ∧ (modGet m s).state = .active ∧ (modGet m s).recalAt + 4000000000 ≤ s.clock.now ∧ s.dev.state ≠ .haltedThermal ∧ s.cairn.frozen = true) ∧
    (∃ (m : Nat) (s : State), m < 141 ∧ moduleGroup m ≠ 18 ∧ (modGet m s).state = .active) ∧
    (∃ (g : Nat) (n : Nat) (s : State), tget none s.d2d.changeAt g = some n ∧ n ≤ tget 0 s.d2d.flits g) ∧
    (∃ (m : Nat) (d : Nat) (t0 : Nat) (s : State), m < 141 ∧ d < 2 ∧ (modGet m s).state = .active ∧ (dirGet m d s).emptyDue = some t0 ∧ t0 + 1000 ≤ s.clock.now) :=
  ⟨⟨(3), (1), (sealD dsl), ({ seq := 127, expect := 127, emptyDue := some 4 }), (md 3 { state := .active, tx := { seq := 127, expect := 127, emptyDue := some 4 } }), by decide +kernel, by decide +kernel, by decide +kernel, by decide +kernel, by decide +kernel, by decide +kernel, by decide +kernel, by decide +kernel, by decide +kernel, by decide +kernel, by decide +kernel, by decide +kernel, by decide +kernel⟩,
   ⟨(3), (1), ({ dsl with crc := slotCrc dsl + 1 }), (md 3 { state := .active, tx := { seq := 127, expect := 127 } }), by decide +kernel, by decide +kernel, by decide +kernel, by decide +kernel, by decide +kernel, by decide +kernel⟩,
   ⟨(3), (1), (BitVec.ofNat 16 (5 + 256 * crc8 8 5)), (md 3 { state := .active, tx := { seq := 6, retry := [(4, false), (5, true)], replays := 3 } }), by decide +kernel, by decide +kernel, by decide +kernel, by decide +kernel, by decide +kernel, by decide +kernel, by decide +kernel, by decide +kernel⟩,
   ⟨(3), (1), (md 3 { state := .active, tx := { seq := 6, retry := [(4, false), (5, true)], replays := 3 } }), by decide +kernel, by decide +kernel, by decide +kernel, by decide +kernel, by decide +kernel, by decide +kernel⟩,
   ⟨(3), (sbw 6), (md 3 { state := .active }), by decide +kernel, by decide +kernel, by decide +kernel, by decide +kernel, by decide +kernel⟩,
   ⟨(3), (sbw 0x900), (md 3 { state := .active, sbWait := [⟨6, 9, 4, 3⟩] }), by decide +kernel, by decide +kernel, by decide +kernel, by decide +kernel⟩,
   ⟨(3), (9), (⟨6, 9, 4, 3⟩), (md 3 { state := .active, sbWait := [⟨6, 9, 4, 3⟩] }), by decide +kernel, by decide +kernel, by decide +kernel, by decide +kernel⟩,
   ⟨(3), (9), (⟨6, 9, 4, 8⟩), (md 3 { state := .active, sbWait := [⟨6, 9, 4, 8⟩] }), by decide +kernel, by decide +kernel, by decide +kernel, by decide +kernel⟩,
   ⟨(129), (lux), (md 129 {}), by decide +kernel, by decide +kernel, by decide +kernel, by decide +kernel, by decide +kernel, by decide +kernel, rfl, by decide +kernel, by decide +kernel, by decide +kernel, by decide +kernel, by decide +kernel, by decide +kernel⟩,
   ⟨(0), ({ lu with design := requiredDesign 0 .north late + 1 }), (late), by decide +kernel, by decide +kernel, by decide +kernel, by decide +kernel, by decide +kernel, (ne_succ16 (requiredDesign 0 .north late)), by decide +kernel⟩,
   ⟨(3), (lu), ({ late with boot := { late.boot with error := 0x82 } }), by decide +kernel, by decide +kernel, by decide +kernel⟩,
   ⟨(129), (0), (md 129 { state := .retrain, rx := { repair := [4], slot := 6 } }), by decide +kernel, by decide +kernel, by decide +kernel, by decide +kernel, by decide +kernel, by decide +kernel, by decide +kernel, by decide +kernel, by decide +kernel, by decide +kernel⟩,
   ⟨(3), (md 3 { state := .active, recalAt := 60000000000 - 1500000000 }), by decide +kernel, by decide +kernel, by decide +kernel, by decide +kernel, by decide +kernel, by decide +kernel⟩,
   ⟨(3), ({ md 3 { state := .active, recalAt := 60000000000 - 4000000000 } with cairn := { state := .taking, frozen := true } }), by decide +kernel, by decide +kernel, by decide +kernel, by decide +kernel, by decide +kernel⟩,
   ⟨(3), (md 3 { state := .active, rx := { retry := [(4, false)] } }), by decide +kernel, by decide +kernel, by decide +kernel⟩,
   ⟨(0), (5), ({ md 3 { state := .active } with d2d := { modu := [(3, { state := .active })], changeAt := [(0, some 5)], flits := [(0, 7)] } }), by decide +kernel, by decide +kernel⟩,
   ⟨(3), (1), (5), (md 3 { state := .active, tx := { emptyDue := some 5 } }), by decide +kernel, by decide +kernel, by decide +kernel, by decide +kernel, by decide +kernel⟩⟩

/-- The hypotheses of each clause of MemoryLines can be met together. -/
theorem witness_MemoryLines :
    (∃ (a : Nat) (r : Requester) (b : BadSymbols) (s : State), a < topOfDram s ∧ stackDown a s = false ∧ b.count = 0 ∧ b.pattern = false ∧ s.faults.poisonNext = [] ∧ (s.mem.home = false ∨ dirOf a s ≠ 2) ∧ rowsBehind (stackOf a s).1 (channelOf (stackOf a s).2) b.bank s = false) ∧
    (∃ (a : Nat) (r : Requester) (b : BadSymbols) (s : State), a < topOfDram s ∧ stackDown a s = false ∧ badLine b = true ∧ s.faults.poisonNext = [] ∧ rowsBehind (stackOf a s).1 (channelOf (stackOf a s).2) b.bank s = false) ∧
    (∃ (a : Nat) (r : Requester) (b : BadSymbols) (x : RlcLine) (s : State), a < topOfDram s ∧ stackDown a s = false ∧ s.mem.home = true ∧ dirOf a s = 2 ∧ cacheGet a s = some x ∧ rowsBehind (stackOf a s).1 (channelOf (stackOf a s).2) b.bank s = false) ∧
    (∃ (a : Nat) (r : Requester) (b : BadSymbols) (s : State), a < topOfDram s ∧ stackDown a s = false ∧ rowsBehind (stackOf a s).1 (channelOf (stackOf a s).2) b.bank s = true) ∧
    (∃ (a : Nat) (data : List (Option (BitVec 8))) (s : State), a < topOfDram s ∧ DramOpen (a / 64 * 64) 64 s) ∧
    (∃ (a : Nat) (data : List (Option (BitVec 8))) (poison : BitVec 8) (s : State), a < topOfDram s ∧ stackDown a s = false ∧ s.mem.home = true ∧ (dirOf a s ≠ 0 ∨ cacheGet a s ≠ none)) ∧
    (∃ (a : Nat) (s : State), s.mem.home = true ∧ a < topOfDram s ∧ stackDown a s = false ∧ dirHead a s = none ∧ dirOf a s ≠ 2) ∧
    (∃ (a : Nat) (s : State), s.mem.home = true ∧ a < topOfDram s ∧ stackDown a s = false ∧ dirHead a s = none ∧ dirOf a s ≠ 2) ∧
    (∃ (a : Nat) (data : List (BitVec 8)) (poison : BitVec 8) (h : Recall) (s : State), s.mem.home = true ∧ s.mem.recalls = [h] ∧ h.line = a / 64 ∧ h.answered = false ∧ h.req = .localRead ∧ dirOf a s = 2) ∧
    (∃ (a : Nat) (data : List (Option (BitVec 8))) (poison : BitVec 8) (h : Recall) (s : State), s.mem.home = true ∧ s.mem.recalls = [h] ∧ h.line = a / 64 ∧ h.answered = false ∧ h.inval = true ∧ h.req = .localWrite data poison ∧ dirOf a s = 1) ∧
    (∃ (a : Nat) (inval : Bool) (x : RlcLine) (s : State), s.mem.home = true ∧ a < topOfDram s ∧ cacheGet a s = some x) ∧
    (∃ (stack : Nat) (ch : Nat) (bank : Nat) (n : Nat) (s : State), ch < 32 ∧ bank < 1024 ∧ refreshRuns stack s = true ∧ rowsBehind stack ch bank s = false ∧ bankKey stack ch bank ∉ s.stk.refreshUrgent ∧ tget 0 s.stk.postponed (bankKey stack ch bank) = n ∧ n < 8) ∧
    (∃ (stack : Nat) (ch : Nat) (bank : Nat) (s : State), ch < 32 ∧ bank < 1024 ∧ refreshRuns stack s = true) ∧
    (∃ (stack : Nat) (ch : Nat) (bank : Nat) (postpone : Bool) (s : State), refreshRuns stack s = false) ∧
    (∃ (stack : Nat) (s : State), stack < 8) ∧
    (∃ (stack : Nat) (b : BadSymbols) (row : Nat × Nat × Nat) (s : State), stack ∈ s.mem.inService ∧ stack ∉ s.mem.failed ∧ stack ∉ s.mem.lost ∧ refreshRuns stack s = true ∧ s.dev.state ≠ .haltedThermal ∧ b.count = 0 ∧ b.pattern = false ∧ tget 0 s.stk.scrubAt stack + 1 < stackLines) ∧
    (∃ (stack : Nat) (ch : Nat) (bank : Nat) (row : Nat) (n : Nat) (s : State), ch < 32 ∧ bank < 1024 ∧ refreshRuns stack s = true ∧ (stack, ch, bank, row) ∈ s.stk.repairDue ∧ tget 0 s.stk.spares (bankKey stack ch bank) = n ∧ n < 8) ∧
    (∃ (stack : Nat) (ch : Nat) (bank : Nat) (row : Nat) (s : State), (stack, ch, bank, row) ∉ s.stk.repairDue) ∧
    (∃ (stack : Nat) (ch : Nat) (s : State), stack < 8 ∧ ch < 32 ∧ chanKey stack ch ∉ s.stk.channelsFailed) ∧
    (∃ (s : State), Memory.wf s.mem = true ∧ s.mem.lost ≠ [] ∧ s.mem.swept = false ∧ (∀ k ∈ s.mem.lost, stackBack k s = true)) ∧
    (∃ (s : State), (∀ k ∈ s.mem.lost, stackBack k s = false)) :=
  ⟨⟨(0x1020), (.host), (⟨0, 0, 0, false, 0, 0⟩), (putDram 0x1000 [5,6,7] late), by decide +kernel, by decide +kernel, by decide +kernel, by decide +kernel, by decide +kernel, by decide +kernel, by decide +kernel⟩,
   ⟨(0x1020), (.host), (⟨3, 0, 0, false, 0, 0⟩), (putDram 0x1000 [5,6,7] late), by decide +kernel, by decide +kernel, by decide +kernel, by decide +kernel, by decide +kernel⟩,
   ⟨(0x1020), (.host), (⟨0, 0, 0, false, 0, 0⟩), (rlx), ({ putDram 0x1000 [5,6,7] late with mem := { (putDram 0x1000 [5,6,7] late).mem with home := true, dir := [(0x40, 2)], rlc := [(0x40, some rlx)] } }), by decide +kernel, by decide +kernel, by decide +kernel, by decide +kernel, by decide +kernel, by decide +kernel⟩,
   ⟨(0x1020), (.host), (⟨0, 0, 0, false, 0, 0⟩), ({ late with stk := { rise := (List.range 8).map fun k => (k, some (5, [])) } }), by decide +kernel, by decide +kernel, by decide +kernel⟩,
   ⟨(0x1020), ([some 9, none, some 0]), (putDram 0x1000 [5,6,7] late), by decide +kernel, by unfold DramOpen; decide +kernel⟩,
   ⟨(0x1020), ([some 9]), (0), ({ putDram 0x1000 [5,6,7] late with mem := { (putDram 0x1000 [5,6,7] late).mem with home := true, dir := [(0x40, 2)], rlc := [(0x40, some rlx)] } }), by decide +kernel, by decide +kernel, by decide +kernel, by decide +kernel⟩,
   ⟨(0x1020), ({ putDram 0x1000 [5,6,7] late with mem := { (putDram 0x1000 [5,6,7] late).mem with home := true, dir := [(0x40, 1)] } }), by decide +kernel, by decide +kernel, by decide +kernel, by decide +kernel, by decide +kernel⟩,
   ⟨(0x1020), ({ putDram 0x1000 [5,6,7] late with mem := { (putDram 0x1000 [5,6,7] late).mem with home := true, dir := [(0x40, 1)] } }), by decide +kernel, by decide +kernel, by decide +kernel, by decide +kernel, by decide +kernel⟩,
   ⟨(0x1020), (List.replicate 64 9), (0), (⟨0x40, false, .localRead, false, false⟩), ({ putDram 0x1000 [5,6,7] late with mem := { (putDram 0x1000 [5,6,7] late).mem with home := true, dir := [(0x40, 2)], rlc := [(0x40, some rlx)], recalls := [⟨0x40, false, .localRead, false, false⟩] } }), by decide +kernel, by decide +kernel, by decide +kernel, by decide +kernel, by decide +kernel, by decide +kernel⟩,
   ⟨(0x1020), ([some 4]), (0), (⟨0x40, true, .localWrite [some 4] 0, false, false⟩), ({ putDram 0x1000 [5,6,7] late with mem := { (putDram 0x1000 [5,6,7] late).mem with home := true, dir := [(0x40, 1)], rlc := [(0x40, some { rlx with dirty := false })], recalls := [⟨0x40, true, .localWrite [some 4] 0, false, false⟩] } }), by decide +kernel, by decide +kernel, by decide +kernel, by decide +kernel, by decide +kernel, by decide +kernel, by decide +kernel⟩,
   ⟨(0x1020), (true), (rlx), ({ putDram 0x1000 [5,6,7] late with mem := { (putDram 0x1000 [5,6,7] late).mem with home := true, dir := [(0x40, 2)], rlc := [(0x40, some rlx)] } }), by decide +kernel, by decide +kernel, by decide +kernel⟩,
   ⟨(7), (31), (3), (7), ({ late with stk := { postponed := [(bankKey 7 31 3, 7)] } }), by decide +kernel, by decide +kernel, by decide +kernel, by decide +kernel, by decide +kernel, by decide +kernel, by decide +kernel⟩,
   ⟨(7), (31), (3), ({ late with stk := { postponed := [(bankKey 7 31 3, 7)] } }), by decide +kernel, by decide +kernel, by decide +kernel⟩,
   ⟨(7), (31), (3), (true), ({ late with pins := { late.pins with pgLow := [.mem] } }), by decide +kernel⟩,
   ⟨(7), ({ late with therm := { bands := [(7, 3)] } }), by decide +kernel⟩,
   ⟨(7), (⟨0, 0, 0, false, 0, 0⟩), ((0, 0, 0)), (late), by decide +kernel, by decide +kernel, by decide +kernel, by decide +kernel, by decide +kernel, by decide +kernel, by decide +kernel, by decide +kernel⟩,
   ⟨(7), (31), (3), (5), (7), ({ late with stk := { spares := [(bankKey 7 31 3, 7)], repairDue := [(7, 31, 3, 5)] } }), by decide +kernel, by decide +kernel, by decide +kernel, by decide +kernel, by decide +kernel, by decide +kernel⟩,
   ⟨(7), (31), (3), (5), (late), by decide +kernel⟩,
   ⟨(7), (31), (late), by decide +kernel, by decide +kernel, by decide +kernel⟩,
   ⟨(lostSt), by decide +kernel, by decide +kernel, by decide +kernel, by decide +kernel⟩,
   ⟨({ lostSt with pins := { late.pins with pgLow := [.mem] } }), by decide +kernel⟩⟩

/-- The hypotheses of each clause of ThermalAndPower can be met together. -/
theorem witness_ThermalAndPower :
    (∃ (j : Nat) (reading : Int) (s : State), j < 1024 ∧ (sensorGet j s).excluded = false ∧ s.dev.state ≠ .haltedThermal ∧ implausible (sensorGet j s) reading = false) ∧
    (∃ (j : Nat) (reading : Int) (s : State), j < 1024 ∧ (sensorGet j s).excluded = false ∧ s.dev.state ≠ .haltedThermal ∧ implausible (sensorGet j s) reading = true) ∧
    (∃ (dom : Domain) (s : State), (reqOf dom s).opened = true ∧ (reqOf dom s).graceOver = false ∧ (reqOf dom s).openedAt + (reqOf dom s).grace * 1000000 ≤ s.clock.now ∧ domainHot dom s = false) ∧
    (∃ (dom : Domain) (s : State), (reqOf dom s).opened = true ∧ (reqOf dom s).graceOver = false ∧ (reqOf dom s).openedAt + (reqOf dom s).grace * 1000000 ≤ s.clock.now ∧ domainHot dom s = true) ∧
    (∃ (dom : Domain) (s : State), (reqOf dom s).enforcing = true ∧ (reqOf dom s).gridAt + ((reqOf dom s).gridN + 1) * 5000000 ≤ s.clock.now ∧ domainHot dom s = true) ∧
    (∃ (dom : Domain) (s : State), (reqOf dom s).enforcing = true ∧ (reqOf dom s).gridAt + ((reqOf dom s).gridN + 1) * 5000000 ≤ s.clock.now ∧ domainHot dom s = false) ∧
    (∃ (dom : Domain) (t0 : Nat) (s : State), (reqOf dom s).coolSince = some t0 ∧ (reqOf dom s).opened = true ∧ t0 + 100000000 ≤ s.clock.now) ∧
    (∃ (s : State), s.therm.north.ramp ≠ none ∧ s.therm.north.rampAt + 10000000 ≤ s.clock.now) ∧
    (∃ (f : Flank) (t0 : Nat) (s : State), (flankPower f s).band4At = some t0 ∧ t0 + 1000000000 ≤ s.clock.now) ∧
    (∃ (j : Nat) (r1 : Int) (r2 : Int) (s : State), s.therm.tripDue = some (j, r1, r2) ∧ s.dev.state ≠ .haltedThermal) ∧
    (∃ (compute : Nat) (rest : Nat) (s : State), compute + rest + 120 ≤ s.dev.limitW ∧ s.dev.limitW < compute + rest + 220) ∧
    (∃ (compute : Nat) (rest : Nat) (s : State), s.dev.limitW < compute + rest + 120 ∧ topPoint s = .low) ∧
    (∃ (compute : Nat) (rest : Nat) (s : State), s.dev.limitW < compute + rest + 120 ∧ topPoint s ≠ .low ∧ s.therm.limPoint ≠ .low ∧ mayLower s = true) ∧
    (∃ (compute : Nat) (rest : Nat) (s : State), compute + rest + 220 ≤ s.dev.limitW ∧ mayRaise s = true ∧ s.therm.limRate < 16) ∧
    (∃ (t0 : Nat) (s : State), s.therm.lowSince = some t0 ∧ t0 + 1000000000 ≤ s.clock.now ∧ s.therm.lowHeld = false ∧ fwRuns s = true) ∧
    (∃ (f : Flank) (p : Point) (s : State), (flankPower f s).moving = some p) ∧
    (∃ (f : Flank) (p : Point) (s : State), (flankPower f s).moving = some p ∧ s.therm.railHeld = false ∧ (s.therm.railFails.filter fun x => s.clock.now < x + 1000000000).length < 2) :=
  ⟨⟨(1023), (-160), (late), by decide +kernel, by decide +kernel, by decide +kernel, by decide +kernel⟩,
   ⟨(1023), (9000), (late), by decide +kernel, by decide +kernel, by decide +kernel, by decide +kernel⟩,
   ⟨(.north), (rqc { opened := true, id := 3, openedAt := 5, grace := 20 }), by decide +kernel, by decide +kernel, by decide +kernel, by decide +kernel⟩,
   ⟨(.north), (rq { opened := true, id := 3, openedAt := 5, grace := 20, reading := 118 * 16 }), by decide +kernel, by decide +kernel, by decide +kernel, by decide +kernel⟩,
   ⟨(.north), (rq { opened := true, id := 3, openedAt := 5, enforcing := true, gridAt := 8, gridN := 4, stepN := 3 }), by decide +kernel, by decide +kernel, by decide +kernel⟩,
   ⟨(.north), (rqc { opened := true, id := 3, openedAt := 5, enforcing := true, gridAt := 8, gridN := 4, stepN := 3 }), by decide +kernel, by decide +kernel, by decide +kernel⟩,
   ⟨(.package), (5), ({ late with therm := { reqP := { opened := true, id := 3, openedAt := 5, enforcing := true, coolSince := some 5, stepN := 3, stepS := 2 } } }), by decide +kernel, by decide +kernel, by decide +kernel⟩,
   ⟨({ late with therm := { north := { point := .low, rate := 8, ramp := some (.low, 8) } } }), by decide +kernel, by decide +kernel⟩,
   ⟨(.south), (6), ({ late with therm := { south := { band := 3, band4At := some 6 } } }), by decide +kernel, by decide +kernel⟩,
   ⟨(5), (2000), (2001), ({ late with therm := { tripDue := some (5, 2000, 2001) } }), by decide +kernel, by decide +kernel⟩,
   ⟨(2000), (200), (late), by decide +kernel, by decide +kernel⟩,
   ⟨(2200), (200), ({ late with therm := { limRate := 2, north := { point := .low }, south := { point := .low } } }), by decide +kernel, by decide +kernel⟩,
   ⟨(2200), (200), (late), by decide +kernel, by decide +kernel, by decide +kernel, by decide +kernel⟩,
   ⟨(100), (200), ({ late with therm := { limPoint := .low, limRate := 4 } }), by decide +kernel, by decide +kernel, by decide +kernel⟩,
   ⟨(5), ({ late with therm := { limPoint := .low, limRate := 2, lowSince := some 5, meanW := 2399 } }), by decide +kernel, by decide +kernel, by decide +kernel, by decide +kernel⟩,
   ⟨(.south), (.low), ({ late with therm := { south := { moving := some .low } } }), by decide +kernel⟩,
   ⟨(.south), (.low), ({ late with therm := { south := { moving := some .low } } }), by decide +kernel, by decide +kernel, by decide +kernel⟩⟩

/-- The hypotheses of each clause of ResetsAndLosses can be met together. -/
theorem witness_ResetsAndLosses :
    (∃ (low : Nat) (pins : ResetPins) (s : State), low < 1000) ∧
    (∃ (low : Nat) (pins : ResetPins) (s : State), 1000 ≤ low) ∧
    (∃ (s : State), s.boot.colHeld = false ∧ s.boot.colRestart = false ∧ s.boot.running ≠ none ∧ s.dev.state ≠ .haltedThermal) ∧
    (∃ (f : Flank) (s : State), s.dev.state ≠ .haltedThermal ∧ flankPhase f s = .inService ∧ flankPhase (otherFlank f) s = .inService) ∧
    (∃ (f : Flank) (s : State), s.dev.state ≠ .haltedThermal ∧ flankPhase f s = .softReset ∧ s.dev.resetWait = []) ∧
    (∃ (f : Flank) (s : State), s.dev.state ≠ .haltedThermal ∧ flankPhase f s = .inService ∧ flankPhase (otherFlank f) s = .inService) ∧
    (∃ (f : Flank) (s : State), s.dev.state ≠ .haltedThermal ∧ flankPhase f s = .hardReset ∧ s.dev.resetWait = [] ∧ (∀ m ∈ flankModules f, wrongDesign m (modGet m s).id s = false)) ∧
    (∃ (f : Flank) (s : State), flankPhase f s = .inService) ∧
    (∃ (f : Flank) (s : State), flankPhase f s = .inService) ∧
    (∃ (s : State), s.pins.refclk = true ∧ s.pins.rstN = true) ∧
    (∃ (pg : PowerGood) (s : State), s.pins.rstN = true ∧ pg ∉ s.pins.pgLow ∧ (pg = .gst → s.part.guest ≠ none)) :=
  ⟨⟨(999), (⟨true, true, false⟩), (run1), by decide +kernel⟩,
   ⟨(1000), (⟨true, true, true⟩), ({ run1 with pending := [.dbgChallenge], sec := { reserved := 5, nextLeaf := 3 }, las := { worn := [4] } }), by decide +kernel⟩,
   ⟨({ ringSt with sec := { reserved := 5, nextLeaf := 3 } }), by decide +kernel, by decide +kernel, by decide +kernel, by decide +kernel⟩,
   ⟨(.south), ({ run1 with dev := { run1.dev with south := .inService } }), by decide +kernel, by decide +kernel, by decide +kernel⟩,
   ⟨(.south), ({ run1 with dev := { run1.dev with south := .softReset } }), by decide +kernel, by decide +kernel, by decide +kernel⟩,
   ⟨(.south), ({ run1 with dev := { run1.dev with south := .inService } }), by decide +kernel, by decide +kernel, by decide +kernel⟩,
   ⟨(.south), ({ run1 with dev := { run1.dev with south := .hardReset } }), by decide +kernel, by decide +kernel, by decide +kernel, by decide +kernel⟩,
   ⟨(.south), ({ run1 with dev := { run1.dev with south := .inService } }), by decide +kernel⟩,
   ⟨(.south), ({ run1 with dev := { run1.dev with south := .inService } }), by decide +kernel⟩,
   ⟨(run1), by decide +kernel, by decide +kernel⟩,
   ⟨(.aon), (run1), by decide +kernel, by decide +kernel, by decide +kernel⟩⟩

/-- The hypotheses of each clause of ResetRowsComplete can be met together. -/
theorem witness_ResetRowsComplete :
    (∃ (low : Nat) (pins : ResetPins) (s : State), 1000 ≤ low) ∧
    (∃ (s : State), s.boot.colHeld = false ∧ s.boot.colRestart = false ∧ s.boot.running ≠ none ∧ s.dev.state ≠ .haltedThermal) ∧
    (∃ (f : Flank) (s : State), s.dev.state ≠ .haltedThermal ∧ flankPhase f s = .inService ∧ flankPhase (otherFlank f) s = .inService) ∧
    (∃ (f : Flank) (s : State), s.dev.state ≠ .haltedThermal ∧ flankPhase f s = .inService ∧ flankPhase (otherFlank f) s = .inService) ∧
    (∃ (f : Flank) (s : State), flankPhase f s ≠ .lost ∧ flankPhase f s ≠ .fenced) ∧
    (∃ (f : Flank) (s : State), flankPhase f s ≠ .fenced) ∧
    (∃ (s : State), s.pins.refclk = true ∧ s.pins.rstN = true) ∧
    (∃ (pg : PowerGood) (s : State), s.pins.rstN = true ∧ pg ∉ s.pins.pgLow ∧ (pg = .gst → s.part.guest ≠ none)) :=
  ⟨⟨(1000), (⟨true, true, true⟩), (run1), by decide +kernel⟩,
   ⟨({ ringSt with sec := { reserved := 5, nextLeaf := 3 } }), by decide +kernel, by decide +kernel, by decide +kernel, by decide +kernel⟩,
   ⟨(.south), (run1), by decide +kernel, by decide +kernel, by decide +kernel⟩,
   ⟨(.south), (run1), by decide +kernel, by decide +kernel, by decide +kernel⟩,
   ⟨(.south), (run1), by decide +kernel, by decide +kernel⟩,
   ⟨(.south), (run1), by decide +kernel⟩,
   ⟨({ run1 with mem := { run1.mem with inService := [3, 7] } }), by decide +kernel, by decide +kernel⟩,
   ⟨(.aon), (run1), by decide +kernel, by decide +kernel, by decide +kernel⟩⟩

/-- The hypotheses of each clause of BringUp can be met together. -/
theorem witness_BringUp :
    (∃ (x : BootImages) (k : Nat) (rest : List Nat) (s : State), s.boot.step ≤ 1 ∧ s.boot.running = none ∧ s.therm.latched = none ∧ s.dev.state ≠ .haltedThermal ∧ bootOrder s = k :: rest ∧ slotPasses k (slotImage k x) s = true) ∧
    (∃ (x : BootImages) (s : State), s.boot.step ≤ 1 ∧ s.boot.running = none ∧ s.therm.latched = none ∧ s.dev.state ≠ .haltedThermal ∧ (∀ k ∈ bootOrder s, slotPasses k (slotImage k x) s = false)) ∧
    (∃ (s : State), s.boot.step = 3 ∧ s.boot.running ≠ none ∧ s.dev.state ≠ .haltedThermal ∧ s.boot.colRestart = false) ∧
    (∃ (readings : List (Nat × Int)) (s : State), stepDue 4 s = true ∧ (∀ e ∈ readings, 0 ≤ e.2)) ∧
    (∃ (readings : List (Nat × Int)) (e : Nat × Int) (s : State), stepDue 4 s = true ∧ s.part.gradeX = false ∧ e ∈ readings ∧ e.1 < 1024 ∧ e.2 < 0) ∧
    (∃ (s : State), stepDue 5 s = true ∧ s.boot.preheat = false ∧ s.part.gradeX = true ∧ coldChiplets s ≠ []) ∧
    (∃ (s : State), s.boot.preheat = true ∧ s.boot.cold = []) ∧
    (∃ (pos : BitVec 8) (s : State), s.boot.preheat = true ∧ pos.toNat ∈ s.boot.cold ∧ s.boot.step ≤ 7) ∧
    (∃ (s : State), s.boot.preheat = true ∧ s.clock.released + 120000000000 ≤ s.clock.now) ∧
    (∃ (ids : List ModuleId) (s : State), stepDue 5 s = true ∧ s.part.strapN = 0 ∧ s.part.strapS = 1) ∧
    (∃ (id : ModuleId) (s : State), stepDue 5 s = true ∧ s.part.strapN = 0 ∧ s.part.strapS = 1 ∧ id.mod = 128 ∧ (modGet 128 s).state = .down ∧ id.design ≠ requiredDesign 128 id.from_ s) ∧
    (∃ (ids : List ModuleId) (s : State), stepDue 5 s = true) ∧
    (∃ (n : Bool) (so : Bool) (ids : List ModuleId) (s : State), stepDue 5 s = true ∧ (n = true ∧ s.part.strapN ≠ 0 ∨ so = true ∧ s.part.strapS ≠ 1)) ∧
    (∃ (failed : List Nat) (s : State), stepDue 6 s = true) ∧
    (∃ (s : State), stepDue 6 s = true ∧ flankPhase .north s = .inService ∧ flankPhase .south s = .inService ∧ s.mem.dropped = []) ∧
    (∃ (bad : List LaserCheck) (s : State), stepDue 7 s = true ∧ s.dev.waking = none ∧ preHeating s = false) ∧
    (∃ (bad : List RingCheck) (s : State), stepDue 8 s = true ∧ s.dev.waking = none) ∧
    (∃ (bad : List (Nat × Option Nat)) (s : State), stepDue 9 s = true ∧ s.dev.waking = none) ∧
    (∃ (s : State), stepDue 0xA s = true ∧ s.dev.state = .booting) :=
  ⟨⟨(⟨badSlot, okSlot, okSlot⟩), (1), ([0, 2]), ({ bt 1 with boot := { selector := true }, sec := {} }), by decide +kernel, by decide +kernel, by decide +kernel, by decide +kernel, by decide +kernel, by decide +kernel⟩,
   ⟨(⟨badSlot, badSlot, badSlot⟩), ({ bt 1 with boot := {}, sec := {} }), by decide +kernel, by decide +kernel, by decide +kernel, by decide +kernel, by decide +kernel⟩,
   ⟨(bt 3), by decide +kernel, by decide +kernel, by decide +kernel, by decide +kernel⟩,
   ⟨([(5, 0), (6, 300)]), (bt 4), by decide +kernel, by decide +kernel⟩,
   ⟨([(5, 0), (6, -1)]), ((6, -1)), (bt 4), by decide +kernel, by decide +kernel, by decide +kernel, by decide +kernel, by decide +kernel⟩,
   ⟨({ bt 5 with part := { gradeX := true }, therm := { sensor := coldSens } }), by decide +kernel, by decide +kernel, by decide +kernel, by decide +kernel⟩,
   ⟨({ bt 6 with boot := { (bt 6).boot with preheat := true } }), by decide +kernel, by decide +kernel⟩,
   ⟨(0x20), ({ bt 6 with boot := { (bt 6).boot with preheat := true, cold := [0x20, 0x30] } }), by decide +kernel, by decide +kernel, by decide +kernel⟩,
   ⟨({ bt 6 with clock := { now := 120000000000 }, boot := { (bt 6).boot with preheat := true, cold := [0x20, 0x30] } }), by decide +kernel, by decide +kernel⟩,
   ⟨([]), (bt 5), by decide +kernel, by decide +kernel, by decide +kernel⟩,
   ⟨(⟨128, .north, requiredDesign 128 .north (bt 5) + 1, 0⟩), (bt 5), by decide +kernel, by decide +kernel, by decide +kernel, by decide +kernel, by decide +kernel, (ne_succ16 (requiredDesign 128 .north (bt 5)))⟩,
   ⟨([]), (bt 5), by decide +kernel⟩,
   ⟨(true), (true), ([]), ({ bt 5 with part := { strapN := 1 } }), by decide +kernel, by decide +kernel⟩,
   ⟨([2]), ({ bt 6 with mem := { dropped := [5] } }), by decide +kernel⟩,
   ⟨({ bt 6 with mem := { homeNext := true } }), by decide +kernel, by decide +kernel, by decide +kernel, by decide +kernel⟩,
   ⟨([]), (bt 7), by decide +kernel, by decide +kernel, by decide +kernel⟩,
   ⟨([]), (bt 8), by decide +kernel, by decide +kernel⟩,
   ⟨([]), (bt 9), by decide +kernel, by decide +kernel⟩,
   ⟨(bt 10), by decide +kernel, by decide +kernel⟩⟩

/-- The hypotheses of each clause of SecurityEvents can be met together. -/
theorem witness_SecurityEvents :
    (∃ (s : State), s.sec.trees < 1024 ∧ s.sec.trees * treeLeaves ≤ s.sec.nextLeaf + 4096 ∧ s.boot.colHeld = false) ∧
    (∃ (x : DebugToken) (s : State), s.sec.refused < 8 ∧ s.boot.colHeld = false ∧ x.version = 0x0100 ∧ x.kind = 1 ∧ x.serial = s.part.serial ∧ x.challenge = s.sec.challenge ∧ x.sigOk = true ∧ (s.sec.ownerKey = none ∨ s.sec.policy.getLsbD 1 = true)) ∧
    (∃ (x : DebugToken) (s : State), s.sec.refused < 8 ∧ s.boot.colHeld = false ∧ (x.challenge ≠ s.sec.challenge ∨ x.serial ≠ s.part.serial ∨ x.sigOk = false)) ∧
    (∃ (slot : Nat) (x : SlotCheck) (a : Accepted) (s : State), s.boot.update = some (slot, x, a) ∧ fwRuns s = true ∧ s.cairn.frozen = false ∧ slot ≠ 2) :=
  ⟨⟨({ late with sec := { nextLeaf := 30000 } }), by decide +kernel, by decide +kernel, by decide +kernel⟩,
   ⟨(tok), (late), by decide +kernel, by decide +kernel, by decide +kernel, by decide +kernel, by decide +kernel, by decide +kernel, by decide +kernel, by decide +kernel⟩,
   ⟨({ tok with challenge := 8 }), (late), by decide +kernel, by decide +kernel, by decide +kernel⟩,
   ⟨(1), (okSlot), (acc1), ({ late with boot := { late.boot with update := some (1, okSlot, acc1), slotFailed := [1] } }), by decide +kernel, by decide +kernel, by decide +kernel, by decide +kernel⟩⟩

/-- The hypotheses of each clause of MemoryStaysCanonical can be met together. -/
theorem witness_MemoryStaysCanonical :
    ∃ (s : State) (t : State), Memory.wf s.mem = true ∧ step s = .next t :=
  ⟨(({} : State)), (idleTick ({} : State)), by decide +kernel, rfl⟩

/-- The hypotheses of each clause of LeavesAreNeverReused can be met together. -/
theorem witness_LeavesAreNeverReused :
    ∃ (s : State) (t : State), Leaves.ok s.sec ∧ step s = .next t :=
  ⟨(({} : State)), (idleTick ({} : State)), by unfold Leaves.ok; decide +kernel, rfl⟩

end Sys2Proof.Tests
end

/-!
PROOFS. What answering a host frame leaves (R210, R213, R214, R216), and register accesses that are not of an aligned
64-bit word (R7).
-/

namespace Sys2Proof.Machine

/-! ## The receive side of the ports: slots, last SEQ acted on, grant and kept responses -/

@[simp] theorem outFrame_receiveSide (f : Frame) (s : State) :
    (outFrame f s).ports.slots = s.ports.slots ∧ (outFrame f s).ports.acted = s.ports.acted ∧
      (outFrame f s).ports.credit = s.ports.credit ∧ (outFrame f s).ports.kept = s.ports.kept := by
  unfold outFrame
  split <;> exact ⟨rfl, rfl, rfl, rfl⟩

@[simp] theorem sendFrame_receiveSide (f : Frame) (s : State) :
    (sendFrame f s).ports.slots = s.ports.slots ∧ (sendFrame f s).ports.acted = s.ports.acted ∧
      (sendFrame f s).ports.credit = s.ports.credit ∧ (sendFrame f s).ports.kept = s.ports.kept :=
  outFrame_receiveSide _ _

@[simp] theorem acted_receiveSide (f : Frame) (s : State) :
    (acted f s).ports.slots = s.ports.slots.filter (fun h => h.frame.seq != f.seq) ∧
      (acted f s).ports.acted = f.seq ∧ (acted f s).ports.credit = s.ports.credit ∧
      (acted f s).ports.kept = s.ports.kept :=
  ⟨rfl, rfl, rfl, rfl⟩

/-! ## The answer to a request -/

theorem exists_held_of_isNext {f : Frame} {s : State} (hn : isNext f s ≠ none) :
    ∃ h, isNext f s = some h ∧ h.frame = f := by
  obtain ⟨h, hh⟩ := Option.ne_none_iff_exists'.mp hn
  refine ⟨h, hh, ?_⟩
  unfold isNext at hh
  split at hh
  · split at hh
    · next hf => exact Option.some.inj hh ▸ hf
    · cases hh
  · cases hh

theorem answered_answer (h : HeldFrame) (st : Status) (payload : List Byte) (s : State) :
    Answered h.frame st payload s (answer h st payload s) := by
  refine ⟨?_, ?_, fun x hx => ?_, _, _, rfl, rfl, rfl, rfl, rfl, rfl, rfl⟩
  · simp [answer]
  · simp [answer]
  · have hx' : x ∈ s.ports.slots ∧ x.frame.seq ≠ h.frame.seq := by simpa [answer] using hx
    exact hx'.2

theorem answer_onlyChanges (h : HeldFrame) (st : Status) (payload : List Byte) (s : State) :
    OnlyChanges [.ports, .out] s (answer h st payload s) :=
  (answer_keeps h st payload rfl (Keeps.refl s)).frame

/-! ## Register frames that break the limits of their type (R206, Table 8-2) -/

theorem regRead_aligned_of_wellFormed {f : Frame} (hf : f.type = 0x01) (hw : frameWellFormed f = true) :
    f.address.toNat % 8 = 0 := by
  simp only [frameWellFormed, hf, if_true, Bool.and_eq_true, decide_eq_true_eq] at hw
  omega

theorem regWrite_aligned_of_wellFormed {f : Frame} (hf : f.type = 0x02) (hw : frameWellFormed f = true) :
    f.address.toNat % 8 = 0 ∧ f.payload.length = 8 := by
  simp only [frameWellFormed, hf, BitVec.reduceEq, if_true, if_false, Bool.and_eq_true, decide_eq_true_eq] at hw
  omega

theorem execRegRead_malformed (p : Port) {f : Frame} {s : State} {h : HeldFrame} (hn : isNext f s = some h)
    (hf : f.type = 0x01) (hw : ¬ frameWellFormed f = true) :
    execRegRead p f s = .next (answer h .badArgument [] s) := by
  simp [execRegRead, hn, hf, hw]

theorem execRegWrite_malformed (p : Port) {f : Frame} {s : State} {h : HeldFrame} (hn : isNext f s = some h)
    (hf : f.type = 0x02) (hw : ¬ frameWellFormed f = true) :
    execRegWrite p f s = .next (answer h .badArgument [] s) := by
  simp [execRegWrite, hn, hf, hw]

/-! ## Register writes without a frame (R8) -/

theorem badRegAddr_of_unaligned {addr : Nat} (h : addr % 8 ≠ 0) : badRegAddr addr = true := by
  simp [badRegAddr, h]

theorem hostRegWrite_badAddr {addr : Nat} (h : badRegAddr addr = true) (type : Nat) (v : BitVec 64) (a : Access)
    (s : State) : hostRegWrite addr type v a s = (.badArgument, s) := by
  simp [hostRegWrite, h]

/-- Settles O22: a frame that asks for anything but an aligned 64-bit word breaks the limits of its type, so its row only
answers it; the row without a frame turns the address away itself. -/
theorem unalignedRegisterAccess : Obligations.UnalignedRegisterAccess := by
  refine ⟨fun p f s hn hf ha => ?_, fun p f s hn hf ha => ?_, fun addr v a s ha => ?_⟩
  · obtain ⟨h, hh, rfl⟩ := exists_held_of_isNext hn
    exact ⟨_, [], execRegRead_malformed p hh hf fun hw => ha (regRead_aligned_of_wellFormed hf hw),
      answered_answer h _ _ s, answer_onlyChanges h _ _ s⟩
  · obtain ⟨h, hh, rfl⟩ := exists_held_of_isNext hn
    have hw : ¬ frameWellFormed h.frame = true := fun hw => by
      obtain ⟨haddr, hlen⟩ := regWrite_aligned_of_wellFormed hf hw
      exact ha.elim (· haddr) (· hlen)
    exact ⟨_, [], execRegWrite_malformed p hh hf hw, answered_answer h _ _ s, answer_onlyChanges h _ _ s⟩
  · have hr := hostRegWrite_badAddr (badRegAddr_of_unaligned ha) 2 v a s
    change execRegisterWrite addr v a s = _
    rw [execRegisterWrite, hr]

end Sys2Proof.Machine

/-!
PROOFS. What the command of a row leaves when it begins and ends at once (R251–R254), what a write to DRAM leaves where
no cache holds a line of it and its stacks are in service (R180, R187), and CAIRN_READ (R476).
-/

namespace Sys2Proof.Machine

/-! ## The end of a command: one more completion entry, nothing but the command interface touched (R254) -/

theorem finish_held (a : Accepted) (r : Res) (s : State) :
    (finish a r s).cmds.held = s.cmds.held ++ [{ completionOf a r s with dseq := s.cmds.made + 1 }] := by
  unfold finish
  cases a.desc.queue <;> dsimp only <;> split <;> rfl

theorem finish_mem (a : Accepted) (r : Res) (s : State) : (finish a r s).mem = s.mem := by
  unfold finish
  cases a.desc.queue <;> dsimp only <;> split <;> rfl

/-- The end may come in any state that still holds the entries held when the command was accepted. -/
theorem completed_finish (op : BitVec 16) (d : Descriptor) (r : Res) {s e : State}
    (he : e.cmds.held = s.cmds.held) : Completed op d r.st s (finish (rowAccepted op d s) r e) :=
  ⟨{ completionOf (rowAccepted op d s) r e with dseq := e.cmds.made + 1 }, by simp [finish_held, he],
    rfl, rfl, rfl, rfl⟩

/-! ## The command of a row that can begin (R251, R253, R266) -/

/-- The state in which the command of a row begins: accepted, and among those begun. -/
def rowStart (op : BitVec 16) (d : Descriptor) (s : State) : State := rowBegun (rowAccepted op d s) (acceptRow d s)

/-- Accepting a command and letting it begin touches the command interface alone, and makes no entry. -/
theorem rowStart_cmdsOnly (op : BitVec 16) (d : Descriptor) (s : State) :
    ∃ c, rowStart op d s = { s with cmds := c } ∧ c.held = s.cmds.held := by
  refine ⟨(rowStart op d s).cmds, ?_, ?_⟩ <;> unfold rowStart rowBegun acceptRow rowAccepted <;>
    cases d.queue <;> rfl

theorem rowStart_held (op : BitVec 16) (d : Descriptor) (s : State) :
    (rowStart op d s).cmds.held = s.cmds.held := by
  obtain ⟨c, hstart, hheld⟩ := rowStart_cmdsOnly op d s
  rw [hstart, hheld]

theorem rowStart_mem (op : BitVec 16) (d : Descriptor) (s : State) : (rowStart op d s).mem = s.mem := by
  obtain ⟨c, hstart, -⟩ := rowStart_cmdsOnly op d s
  rw [hstart]

theorem rowStart_cairn (op : BitVec 16) (d : Descriptor) (s : State) : (rowStart op d s).cairn = s.cairn := by
  obtain ⟨c, hstart, -⟩ := rowStart_cmdsOnly op d s
  rw [hstart]

theorem topOfDram_rowStart (op : BitVec 16) (d : Descriptor) (s : State) :
    topOfDram (rowStart op d s) = topOfDram s := by
  rw [topOfDram, rowStart_mem, topOfDram]

theorem cairnBase_rowStart (op : BitVec 16) (d : Descriptor) (s : State) :
    cairnBase (rowStart op d s) = cairnBase s := by
  unfold cairnBase
  rw [topOfDram_rowStart]

theorem viewBytes_length (a n : Nat) (s : State) : (viewBytes a n s).length = n := by
  simp [viewBytes]

theorem viewBytes_rowStart (a n : Nat) (op : BitVec 16) (d : Descriptor) (s : State) :
    viewBytes a n (rowStart op d s) = viewBytes a n s := by
  obtain ⟨c, hstart, -⟩ := rowStart_cmdsOnly op d s
  rw [hstart]
  rfl

theorem dramOpen_rowStart {a n : Nat} {s : State} (h : DramOpen a n s) (op : BitVec 16) (d : Descriptor) :
    DramOpen a n (rowStart op d s) := by
  obtain ⟨c, hstart, -⟩ := rowStart_cmdsOnly op d s
  rw [hstart]
  exact h

theorem rowStart_keeps (op : BitVec 16) (d : Descriptor) {T : List Area} {s0 s : State} (hT : within [.cmds] T = true)
    (h : Keeps T s0 s) : Keeps T s0 (rowStart op d s) :=
  rowBegun_keeps _ hT (acceptRow_keeps _ hT h)

theorem rowCommand_of_canBegin {op : BitVec 16} {d : Descriptor} {s : State} (h : CanBegin op d s)
    (run : Accepted → State → State) : rowCommand op run d s = run (rowAccepted op d s) (rowStart op d s) := by
  obtain ⟨hacts, hchecks, hwaiting, hfence, hheld, hlegal⟩ := h
  obtain ⟨c, hstart, -⟩ := rowStart_cmdsOnly op d s
  have hroom : ¬ 4096 ≤ s.cmds.held.length := by omega
  have hlegal' : legalNow (rowAccepted op d s).desc (rowStart op d s) = true := by rw [hstart]; exact hlegal
  have hnone : checks345 (rowAccepted op d s).desc s = none := hchecks
  have hmet : fenceMet (rowAccepted op d s) s = true := by simp [fenceMet, rowAccepted, hfence]
  calc rowCommand op run d s
      = beginWith run (rowAccepted op d s) (rowStart op d s) := by
        simp [rowCommand, rowStart, hacts, hroom, hwaiting, hmet, hnone]
    _ = run (rowAccepted op d s) (rowStart op d s) := by rw [beginWith, if_pos hlegal']

/-- A command that, once begun, only ends leaves its completion and touches nothing but the command interface. -/
theorem rowCommand_finishes {op : BitVec 16} {d : Descriptor} {s : State} {run : Accepted → State → State}
    {r : Res} (h : CanBegin op d s)
    (hrun : run (rowAccepted op d s) (rowStart op d s) = finish (rowAccepted op d s) r (rowStart op d s)) :
    Completed op d r.st s (rowCommand op run d s) ∧ OnlyChanges [.cmds] s (rowCommand op run d s) := by
  rw [rowCommand_of_canBegin h, hrun]
  exact ⟨completed_finish op d r (rowStart_held op d s),
    (finish_keeps _ _ rfl (rowStart_keeps op d rfl (Keeps.refl s))).frame⟩

/-! ## Writes to DRAM whose lines no cache holds and whose stacks are in service (R180, R187) -/

theorem stackDown_dramPut (x a : Nat) (b : Byte) (s : State) : stackDown x (dramPut a b s) = stackDown x s := by
  unfold dramPut
  split <;> rfl

theorem dramByte_dramPut_self {a : Nat} {s : State} (h : stackDown a s = false) (b : Byte) :
    dramByte a (dramPut a b s) = b := by
  simp [dramPut, h, dramByte]

theorem dramByte_dramPut_ne {x a : Nat} (h : x ≠ a) (b : Byte) (s : State) :
    dramByte x (dramPut a b s) = dramByte x s := by
  unfold dramPut
  split
  · rfl
  · exact tget_tset_ne 0 s.mem.dram a x b h

theorem dramByte_dramPutAll_outside {x a : Nat} {bs : List Byte} (h : x < a ∨ a + bs.length ≤ x) (s : State) :
    dramByte x (dramPutAll a bs s) = dramByte x s := by
  induction bs generalizing a s with
  | nil => rfl
  | cons b bs ih =>
    rw [List.length_cons] at h
    rw [dramPutAll, ih (by omega), dramByte_dramPut_ne (by omega)]

theorem dramByte_dramPutAll_inside {a i : Nat} {bs : List Byte} {s : State} (hi : i < bs.length)
    (h : ∀ x, a ≤ x → x < a + bs.length → stackDown x s = false) :
    dramByte (a + i) (dramPutAll a bs s) = bs.getD i 0 := by
  induction bs generalizing a i s with
  | nil => cases hi
  | cons b bs ih =>
    rw [List.length_cons] at h hi
    rw [dramPutAll]
    cases i with
    | zero =>
      rw [dramByte_dramPutAll_outside (by omega)]
      exact dramByte_dramPut_self (h a (by omega) (by omega)) b
    | succ i =>
      rw [show a + (i + 1) = a + 1 + i by omega, List.getD_cons_succ]
      exact ih (by omega) fun x hl hr => (stackDown_dramPut x a b s).trans (h x (by omega) (by omega))

theorem stored_dramPutAll {a : Nat} {bs : List Byte} {s : State}
    (h : ∀ x, a ≤ x → x < a + bs.length → stackDown x s = false) : Stored a bs s (dramPutAll a bs s) :=
  ⟨fun _ hi => dramByte_dramPutAll_inside hi h, fun _ hx => dramByte_dramPutAll_outside hx s⟩

theorem Stored.congr {a : Nat} {bs : List Byte} {s s' t t' : State} (h : Stored a bs s t) (hs : s.mem = s'.mem)
    (ht : t'.mem = t.mem) : Stored a bs s' t' := by
  simpa only [Stored, dramByte, hs, ht] using h

theorem claimLine_of_uncached {l : Nat} {s : State} (h : s.mem.home = false ∨ dirOf l s = 0 ∧ cacheGet l s = none) :
    claimLine l s = s := by
  rcases h with hhome | ⟨hdir, hcache⟩
  · simp [claimLine, hhome]
  · simp [claimLine, hdir, hcache]

theorem claimLines_of_dramOpen {a n : Nat} {s : State} (h : DramOpen a n s) : claimLines a n s = s := by
  obtain ⟨-, -, hlines⟩ := h
  unfold claimLines
  split
  · refine List.foldlRecOn (motive := (· = s)) _ _ rfl fun t ht l hl => ?_
    rw [ht]
    exact claimLine_of_uncached (hlines.imp_right fun hopen => hopen l hl)
  · rfl

theorem dramWriteBytes_of_dramOpen {a : Nat} {bs : List Byte} {s : State} (h : DramOpen a bs.length s) :
    dramWriteBytes a bs s = dramClean a bs.length (dramPutAll a bs s) := by
  rw [dramWriteBytes, claimLines_of_dramOpen h]

theorem stored_dramWriteBytes {a : Nat} {bs : List Byte} {s : State} (h : DramOpen a bs.length s) :
    Stored a bs s (dramWriteBytes a bs s) := by
  have ⟨_, hup, _⟩ := h
  rw [dramWriteBytes_of_dramOpen h]
  exact stored_dramPutAll hup

theorem dramWriteBytes_keeps_of_dramOpen {a : Nat} {bs : List Byte} {s : State} (h : DramOpen a bs.length s)
    {T : List Area} {s0 : State} (hT : within [.bytes] T = true) (hs : Keeps T s0 s) :
    Keeps T s0 (dramWriteBytes a bs s) := by
  rw [dramWriteBytes_of_dramOpen h]
  exact dramClean_keeps _ _ hT (dramPutAll_keeps _ _ hT hs)

/-! ## Results in DRAM (R259) -/

theorem fwWrite_dram {a : Nat} {s : State} (h : a < topOfDram s) (bs : List Byte) :
    fwWrite a bs s = dramWriteBytes a bs s := by
  simp [fwWrite, place, h]

theorem finishWith_dram {a : Accepted} {bytes : List Byte} {s : State} (hlen : bytes.length ≤ a.desc.resLen.toNat)
    (haddr : a.desc.resAddr.toNat < topOfDram s) (r : Res) :
    finishWith a r bytes s = finish a { r with written := BitVec.ofNat 32 bytes.length }
      (dramWriteBytes a.desc.resAddr.toNat bytes s) := by
  rw [finishWith, if_neg (by omega), fwWrite_dram haddr]

/-- A command that, once begun, ends with a result that fits in open DRAM: the result is stored, its completion made,
and nothing else touched. -/
theorem rowCommand_finishesWith {op : BitVec 16} {d : Descriptor} {s : State} {run : Accepted → State → State}
    {r : Res} {bytes : List Byte} (h : CanBegin op d s)
    (hrun : run (rowAccepted op d s) (rowStart op d s) = finishWith (rowAccepted op d s) r bytes (rowStart op d s))
    (hlen : bytes.length ≤ d.resLen.toNat) (haddr : d.resAddr.toNat < topOfDram s)
    (hopen : DramOpen d.resAddr.toNat bytes.length s) :
    Completed op d r.st s (rowCommand op run d s) ∧ Stored d.resAddr.toNat bytes s (rowCommand op run d s) ∧
      OnlyChanges [.bytes, .cmds] s (rowCommand op run d s) := by
  have hopen' := dramOpen_rowStart hopen op d
  have haddr' : d.resAddr.toNat < topOfDram (rowStart op d s) := by rwa [topOfDram_rowStart]
  have hcmds := (dramWriteBytes_keeps_of_dramOpen hopen' (T := [.bytes]) rfl (Keeps.refl _)).frame .cmds (by decide)
  rw [rowCommand_of_canBegin h, hrun, finishWith_dram (a := rowAccepted op d s) hlen haddr']
  exact ⟨completed_finish op d { r with written := _ } ((congrArg Cmds.held hcmds).trans (rowStart_held op d s)),
    (stored_dramWriteBytes hopen').congr (rowStart_mem op d s) (finish_mem _ _ _),
    (finish_keeps _ _ rfl (dramWriteBytes_keeps_of_dramOpen hopen' rfl
      (rowStart_keeps op d rfl (Keeps.refl s)))).frame⟩

/-! ## CAIRN_READ (R476) -/

theorem exec_cairnRead (d : Descriptor) (s : State) :
    exec (.cairnRead d) s = .next (rowCommand 0x0505 beginCairnRead d s) := rfl

theorem beginCairnRead_taking {s : State} (h : s.cairn.state = .taking) (a : Accepted) :
    beginCairnRead a s = finish a { st := .busy } s := by
  simp [beginCairnRead, h]

theorem beginCairnRead_noSnapshot {s : State} (h : s.cairn.state = .disarmed ∨ s.cairn.state = .armed) (a : Accepted) :
    beginCairnRead a s = finish a { st := .badArgument } s := by
  rcases h with h | h <;> simp [beginCairnRead, h]

theorem beginCairnRead_pastEnd {a : Accepted} {s : State} (h : s.cairn.state = .taken)
    (hend : cairnEnd < a.desc.imm0.toNat + a.desc.resLen.toNat) :
    beginCairnRead a s = finish a { st := .badArgument } s := by
  simp [beginCairnRead, h, hend]

theorem beginCairnRead_taken {a : Accepted} {s : State} (h : s.cairn.state = .taken)
    (hend : a.desc.imm0.toNat + a.desc.resLen.toNat ≤ cairnEnd) :
    beginCairnRead a s =
      finishWith a {} (viewBytes (cairnBase s + a.desc.imm0.toNat) a.desc.resLen.toNat s) s := by
  simp [beginCairnRead, h, Nat.not_lt.mpr hend]

/-- Settles O19: a CAIRN_READ that begins either only ends, by the state of Cairn and the span, or ends with the bytes
of the area as its result. -/
theorem cairnReadCopiesTheSnapshot : Obligations.CairnReadCopiesTheSnapshot := by
  refine ⟨fun d s hb hst hend haddr hopen => ?_, fun d s hb hst => ?_, fun d s hb hst => ?_, fun d s hb hst hend => ?_⟩
  all_goals
    refine ⟨_, exec_cairnRead d s, ?_⟩
    rw [← rowStart_cairn 0x0505 d s] at hst
  · have hlen := viewBytes_length (cairnBase s + d.imm0.toNat) d.resLen.toNat s
    have hrun := beginCairnRead_taken (a := rowAccepted 0x0505 d s) hst hend
    rw [viewBytes_rowStart, cairnBase_rowStart] at hrun
    exact rowCommand_finishesWith hb hrun hlen.le haddr (hlen.symm ▸ hopen)
  · exact rowCommand_finishes hb (beginCairnRead_taking hst _)
  · exact rowCommand_finishes hb (beginCairnRead_noSnapshot hst _)
  · exact rowCommand_finishes hb (beginCairnRead_pastEnd hst hend)

end Sys2Proof.Machine

/-!
PROOFS. Register writes that their sender may make and those that are turned away (R7, R12, R506), and CP_SKEW_LIMIT with
the end of the wait of a first copy (R513, R218).
-/

namespace Sys2Proof.Machine

/-! ## Host accesses of a good register address, by what turns them away -/

theorem hostRegWrite_allowed {addr : Nat} {a : Access} (hb : badRegAddr addr = false)
    (hd : hostDenied (regOff addr) a.secure = none) (type : Nat) (v : BitVec 64) (s : State) :
    hostRegWrite addr type v a s = regWriteAt (regOff addr) v (portMaster a.port) a.secure s := by
  simp [hostRegWrite, hb, hd]

theorem hostRegWrite_denied {addr : Nat} {a : Access} (hb : badRegAddr addr = false)
    (hd : hostDenied (regOff addr) a.secure = some false) (type : Nat) (v : BitVec 64) (s : State) :
    hostRegWrite addr type v a s = (.denied, s) := by
  simp [hostRegWrite, hb, hd]

theorem hostRegRead_denied {addr : Nat} {a : Access} (hb : badRegAddr addr = false)
    (hd : hostDenied (regOff addr) a.secure = some false) (type : Nat) (s : State) :
    hostRegRead addr type a s = (.denied, 0, s) := by
  rw [hostRegRead, hb, if_neg Bool.false_ne_true, hostRegReadAt, hd]
  rfl

/-! ## CP_SKEW_LIMIT (R513) -/

theorem cpSkewWrite_outOfRange {v : BitVec 64} (h : v.toNat % 16384 < 100 ∨ 10000 < v.toNat % 16384) (s : State) :
    cpSkewWrite v s = (.badArgument, s) := by
  simp [cpSkewWrite, h]

theorem cpSkewWrite_inRange {v : BitVec 64} (hlo : 100 ≤ v.toNat % 16384) (hhi : v.toNat % 16384 ≤ 10000) (s : State) :
    cpSkewWrite v s = (.ok, { s with ports := { s.ports with skew := v.toNat % 16384 } }) := by
  simp [cpSkewWrite, Nat.not_lt.mpr hlo, Nat.not_lt.mpr hhi]

theorem exec_cpSkewLimitWrite (v : BitVec 64) {a : Access} (ha : a.secure = true) (s : State) :
    exec (.cpSkewLimitWrite v a) s = .next (emit (.reply (cpSkewWrite v s).1 0) (cpSkewWrite v s).2) := by
  have hd : hostDenied (regOff (regBase + 0x70008)) a.secure = none := by rw [ha]; decide
  change execCpSkewLimitWrite v a s = _
  rw [execCpSkewLimitWrite, namedWrite, hostRegWrite_allowed (by decide) hd]
  rfl

/-! ## What the first copy of a frame is held by: sending frames does not touch it (R215, R218) -/

@[simp] theorem onPort_phase (f : Frame) (x : PortState) : (onPort f x).phase = x.phase := by
  unfold onPort
  split <;> rfl

@[simp] theorem firstCopy_outFrame (p : Port) (f g : Frame) (s : State) :
    firstCopy p f (outFrame g s) = firstCopy p f s := by
  unfold outFrame
  split
  · simp [firstCopy, copyHeld, emit]
  · rfl

@[simp] theorem firstCopy_hwinIssue (p : Port) (f : Frame) (q : HwinReq) (s : State) :
    firstCopy p f (hwinIssue q s) = firstCopy p f s :=
  firstCopy_outFrame _ _ _ _

@[simp] theorem hwinIssue_slots (q : HwinReq) (s : State) : (hwinIssue q s).ports.slots = s.ports.slots :=
  (sendFrame_receiveSide _ _).1

theorem hwinPump_copySide (p : Port) (f : Frame) (n : Nat) (s : State) :
    (hwinPump n s).ports.slots = s.ports.slots ∧ firstCopy p f (hwinPump n s) = firstCopy p f s := by
  induction n generalizing s with
  | zero => exact ⟨rfl, rfl⟩
  | succ n ih =>
    unfold hwinPump
    split
    · next q rest _ =>
      split
      · obtain ⟨hslots, hcopy⟩ := ih (hwinIssue q { s with ports := { s.ports with hwinWait := rest } })
        exact ⟨hslots.trans (hwinIssue_slots _ _), hcopy.trans (firstCopy_hwinIssue _ _ _ _)⟩
      · exact ⟨rfl, rfl⟩
    · exact ⟨rfl, rfl⟩

theorem takeHostCredit_copySide (p : Port) (f g : Frame) (s : State) :
    (takeHostCredit g s).ports.slots = s.ports.slots ∧ firstCopy p f (takeHostCredit g s) = firstCopy p f s := by
  unfold takeHostCredit
  split
  · exact hwinPump_copySide p f _ _
  · exact ⟨rfl, rfl⟩

/-! ## The acceptance of a frame with a fresh SEQ (R212, R214) -/

theorem classify_above {seq h : BitVec 32} {s : State} (hh : s.ports.highest = some h) (ha : above seq h = true)
    (hd : (seq - h).toNat ≤ 4096) : classify seq s = .fresh := by
  rw [classify, hh]
  simp only [ha, hd, if_true]

theorem hostFrame_fresh {p : Port} {f : Frame} {s : State} (hcrc : f.crc = frameCrc f)
    (hlen : f.length.toNat = f.payload.length) (h7 : f.type ≠ 0x07) (h8 : f.type ≠ 0x08)
    (hhigh : s.ports.highest ≠ none) (hclass : classify f.seq s = .fresh) (hroom : slotsUsed s < 512) :
    hostFrame p f s = acceptFrame p f (takeHostCredit f s) := by
  have hgood : ¬ (f.crc ≠ frameCrc f ∨ f.length.toNat ≠ f.payload.length) := by simp [← hcrc, hlen]
  have hslot : ¬ (!isHwinResp f && decide (512 ≤ slotsUsed s)) = true := by simp [Nat.not_le.mpr hroom]
  rw [hostFrame, if_neg hgood, if_neg h7, if_neg hhigh, if_neg h8, hclass]
  exact if_neg hslot

theorem acceptFrame_slots (p : Port) (f : Frame) (s : State) :
    (acceptFrame p f s).ports.slots = s.ports.slots ++ [firstCopy p f s] := rfl

theorem firstCopy_skewUntil {p : Port} {s : State} (h0 : s.ports.cp0.phase = .active) (h1 : s.ports.cp1.phase = .active)
    (hp : s.ports.preferred ≠ some p) (f : Frame) :
    (firstCopy p f s).skewUntil = some (s.clock.now + s.ports.skew) := by
  simp [firstCopy, copyHeld, h0, h1, hp]

/-- Settles O25: the limit stands in the port state alone, and a first copy takes the end of its wait from it as it
arrives, into a slot of its own. -/
theorem skewLimitAppliesToLaterFrames : Obligations.SkewLimitAppliesToLaterFrames := by
  refine ⟨fun v a s ha hout => ?_, fun v a s ha hlo hhi => ?_,
    fun p f h s hears hcrc hlen h7 h8 _ hhigh habove hnear hroom h0 h1 hp => ?_⟩
  · rw [exec_cpSkewLimitWrite v ha, cpSkewWrite_outOfRange hout]
  · refine ⟨_, exec_cpSkewLimitWrite v ha s, ?_⟩
    have hkeeps := emit_keeps (.reply (cpSkewWrite v s).1 0) (T := [.ports, .out]) rfl
      (cpSkewWrite_keeps v rfl (Keeps.refl s))
    rw [cpSkewWrite_inRange hlo hhi] at hkeeps ⊢
    exact ⟨rfl, rfl, rfl, hkeeps.frame⟩
  · obtain ⟨hslots, hcopy⟩ := takeHostCredit_copySide p f f s
    refine ⟨_, firstCopy p f s, if_pos hears, ?_, firstCopy_skewUntil h0 h1 hp f⟩
    rw [hostFrame_fresh hcrc hlen h7 h8 (by simp [hhigh]) (classify_above hhigh habove hnear) hroom, acceptFrame_slots,
      hslots, hcopy]

end Sys2Proof.Machine

/-!
PROOFS. DB_FW_RING written without SECURE, and the firmware's handling of HOST_EPOCH (R233, R235, R508).
-/

namespace Sys2Proof.Machine

/-! ## DB_FW_RING (R508) -/

theorem getLsbD_fwSecureBits : ∀ i, i < 26 → fwSecureBits.getLsbD i = decide (12 ≤ i ∧ i ≤ 23 ∨ i = 25) := by
  decide

theorem fwRingWrite_insecure {v : BitVec 64} (h : v >>> 26 = 0) (s : State) :
    fwRingWrite v false s = (.ok, ringFw ((v &&& ~~~ fwSecureBits).setWidth 32) s) := by
  simp [fwRingWrite, h]

theorem getLsbD_fwStatus_ringFw (bits : BitVec 32) (s : State) (i : Nat) :
    (ringFw bits s).db.fwStatus.getLsbD i = (s.db.fwStatus.getLsbD i || bits.getLsbD i) := by
  simp [ringFw]

theorem getLsbD_insecureBits (v : BitVec 64) {i : Nat} (hi : i < 26) :
    ((v &&& ~~~ fwSecureBits).setWidth 32).getLsbD i = (v.getLsbD i && !decide (12 ≤ i ∧ i ≤ 23 ∨ i = 25)) := by
  rw [← getLsbD_fwSecureBits i hi]
  simp [show i < 32 by omega, show i < 64 by omega]

theorem exec_registerWrite_fwRing (v : BitVec 64) {a : Access} (ha : a.secure = false) (s : State) :
    exec (.registerWrite 0xFF00020010 v a) s =
      .next (emit (.reply (fwRingWrite v false s).1 0) (fwRingWrite v false s).2) := by
  have hoff : regOff (0xFF00020010 : BitVec 40).toNat = 0x20010 := by decide
  have hd : hostDenied (regOff (0xFF00020010 : BitVec 40).toNat) a.secure = none := by rw [ha]; decide
  change execRegisterWrite 0xFF00020010 v a s = _
  rw [execRegisterWrite, hostRegWrite_allowed (by decide) hd, ha, hoff]
  rfl

/-! ## The firmware's doorbell (R235) -/

theorem onlyChanges_db (s : State) (x : Doorbells) : OnlyChanges [.db] s { s with db := x } := by
  intro a ha
  cases a with
  | db => exact absurd (List.mem_singleton.mpr rfl) ha
  | bytes => exact Area.same_refl .bytes s
  | _ => exact rfl

/-- What the firmware does about one bit of its doorbell: it handles the bit where it is set and not masked. -/
def fwBitStep (t : State) (i : Nat) : State :=
  if t.db.fwStatus.getLsbD i && !t.db.fwMask.getLsbD i then fwBitHandle i t else t

theorem exec_firmwareDoorbellHandle {s : State} (h : fwActs s = true) :
    exec .firmwareDoorbellHandle s = .next (fwOrder.foldl fwBitStep s) := by
  change execFirmwareDoorbellHandle s = _
  rw [execFirmwareDoorbellHandle, h]
  rfl

theorem foldl_fwBitStep_noneSet {s : State} (h : s.db.fwStatus = 0) (l : List Nat) : l.foldl fwBitStep s = s := by
  induction l with
  | nil => rfl
  | cons i l ih =>
    have hstep : fwBitStep s i = s := by simp [fwBitStep, h]
    rw [List.foldl_cons, hstep, ih]

/-- HOST_EPOCH alone is set: handling it clears the bit and notes the epoch (R508). -/
theorem fwBitStep_hostEpoch {s : State} (hbit : s.db.fwStatus = 1 <<< 25) (hmask : s.db.fwMask = 0) :
    fwBitStep s 25 = { s with db := { s.db with fwStatus := 0, epochSeen := s.db.epoch } } := by
  simp [fwBitStep, fwBitHandle, fwBitDone, hbit, hmask]

/-- Settles O24: without SECURE the secure bits are masked out of the write before the rest is set, and the handling of
HOST_EPOCH, first in the order of R235, leaves no bit for the rest of that order. -/
theorem secureDoorbellBitsAreSilentlyLeftOut : Obligations.SecureDoorbellBitsAreSilentlyLeftOut := by
  refine ⟨fun addr v a s haddr ha hv => ?_, fun s hacts hbit hmask hseen => ?_⟩
  · subst haddr
    refine ⟨_, exec_registerWrite_fwRing v ha s, ?_⟩
    have hkeeps := emit_keeps (.reply (fwRingWrite v false s).1 0) (T := [.db, .out]) rfl
      (fwRingWrite_keeps v false rfl (Keeps.refl s))
    rw [fwRingWrite_insecure hv] at hkeeps ⊢
    have hbits : ∀ i, i < 26 → (ringFw ((v &&& ~~~ fwSecureBits).setWidth 32) s).db.fwStatus.getLsbD i =
        (s.db.fwStatus.getLsbD i || (v.getLsbD i && !decide (12 ≤ i ∧ i ≤ 23 ∨ i = 25))) := fun i hi => by
      rw [getLsbD_fwStatus_ringFw, getLsbD_insecureBits v hi]
    refine ⟨fun i hi hsec => (hbits i hi).trans ?_, fun i hi hopen => (hbits i hi).trans ?_, rfl, hkeeps.frame⟩
    · simp [hsec]
    · simp [show ¬ (12 ≤ i ∧ i ≤ 23 ∨ i = 25) by omega]
  · refine ⟨{ s with db := { s.db with fwStatus := 0, epochSeen := s.db.epoch } }, ?_, rfl, rfl, onlyChanges_db s _⟩
    rw [exec_firmwareDoorbellHandle hacts, show fwOrder = 25 :: fwOrder.tail from rfl, List.foldl_cons,
      fwBitStep_hostEpoch hbit hmask, foldl_fwBitStep_noneSet rfl]

end Sys2Proof.Machine

/-!
PROOFS. Ring configuration: what a write of each register leaves, and what the firmware takes at COMMAND_RING (R244, R245,
R515).
-/

namespace Sys2Proof.Machine

/-! ## Writes of the ring configuration registers (R515) -/

theorem exec_ringConfigWrite (q : RingReg) (v : BitVec 64) {a : Access} (ha : a.secure = true) (s : State) :
    exec (.ringConfigWrite q v a) s = .next (emit (.reply .ok 0) (ringConfigWrite q v s)) := if_pos ha

theorem ringConfigWrite_reply_onlyChanges (q : RingReg) (v : BitVec 64) (s : State) :
    OnlyChanges [.cmds, .out] s (emit (.reply .ok 0) (ringConfigWrite q v s)) :=
  (emit_keeps _ rfl (ringConfigWrite_keeps q v rfl (Keeps.refl s))).frame

theorem ringConfigWrite_reply_out (q : RingReg) (v : BitVec 64) (s : State) :
    (emit (.reply .ok 0) (ringConfigWrite q v s)).out = s.out ++ [.reply .ok 0] := by
  have hout := (ringConfigWrite_keeps q v (T := [.cmds]) rfl (Keeps.refl s)).frame .out (by decide)
  exact congrArg (· ++ [Output.reply .ok 0]) hout

theorem ringConfigWrite_nqBase (v : BitVec 64) (s : State) : (ringConfigWrite .nqBase v s).cmds.nq.base =
    if s.cmds.ctrl.getLsbD 0 then s.cmds.nq.base else baseField v :=
  apply_ite (fun t : State => t.cmds.nq.base) _ _ _

theorem ringConfigWrite_cqSize (v : BitVec 64) (s : State) : (ringConfigWrite .cqSize v s).cmds.cqSize =
    if s.cmds.ctrl.getLsbD 2 then s.cmds.cqSize else sizeField v :=
  apply_ite (fun t : State => t.cmds.cqSize) _ _ _

/-- The enable bits change by a write of SYN_RING_CTRL alone. -/
theorem ringConfigWrite_keeps_ctrl {q : RingReg} (h : q ≠ .ctrl) (v : BitVec 64) (s : State) :
    (ringConfigWrite q v s).cmds.ctrl = s.cmds.ctrl := by
  cases q with
  | ctrl => exact absurd rfl h
  | _ => exact (apply_ite (fun t : State => t.cmds.ctrl) _ _ _).trans (ite_self _)

/-- No write reaches the configuration of a ring whose enable bit reads 1. -/
theorem ringConfigWrite_keeps_enabled (q : RingReg) (v : BitVec 64) (s : State) :
    (s.cmds.ctrl.getLsbD 0 = true → (ringConfigWrite q v s).cmds.nq = s.cmds.nq) ∧
      (s.cmds.ctrl.getLsbD 1 = true → (ringConfigWrite q v s).cmds.uq = s.cmds.uq) ∧
      (s.cmds.ctrl.getLsbD 2 = true → (ringConfigWrite q v s).cmds.cqBase = s.cmds.cqBase ∧
        (ringConfigWrite q v s).cmds.cqSize = s.cmds.cqSize) := by
  cases q with
  | ctrl => exact ⟨fun _ => rfl, fun _ => rfl, fun _ => ⟨rfl, rfl⟩⟩
  | _ =>
    refine ⟨fun h => ?_, fun h => ?_, fun h => ?_⟩
    all_goals
      dsimp only [ringConfigWrite]
      split
      · simp only [and_self]
      · next hoff => simp_all [ringBitSet, RingName.code]

/-! ## What the checks of the rings read, and the entries held, from one ring to the next (R245) -/

/-- What the firmware reads to check the rings is as it was, and the entries held are still held. -/
structure RingsStand (s t : State) : Prop where
  ctrl : t.cmds.ctrl = s.cmds.ctrl
  conf : ∀ r, ringConf r t = ringConf r s
  inService : t.mem.inService = s.mem.inService
  windows : t.mem.windows = s.mem.windows
  graphs : t.graphs = s.graphs
  runs : fwRuns t = fwRuns s
  held : s.cmds.held <+: t.cmds.held

theorem RingsStand.trans {s t u : State} (h : RingsStand s t) (k : RingsStand t u) : RingsStand s u where
  ctrl := k.ctrl.trans h.ctrl
  conf r := (k.conf r).trans (h.conf r)
  inService := k.inService.trans h.inService
  windows := k.windows.trans h.windows
  graphs := k.graphs.trans h.graphs
  runs := k.runs.trans h.runs
  held := h.held.trans k.held

theorem mem_eq_of_same {s t : State} (hb : Area.bytes.same s t) (hc : Area.memCtl.same s t) : t.mem = s.mem := by
  obtain ⟨hdram, hpoison, hcm, hcmPoison, hls, hlsPoison⟩ := hb
  cases hs : s.mem
  cases ht : t.mem
  simp_all [Area.same, memRest]

theorem ringsStand_of_onlyChanges {s t : State} (h : OnlyChanges [.db, .ports, .out] s t) : RingsStand s t where
  ctrl := congrArg Cmds.ctrl (h .cmds (by decide))
  conf r := by
    have hc : t.cmds = s.cmds := h .cmds (by decide)
    cases r <;> simp only [ringConf, hc]
  inService := congrArg MemSys.inService (mem_eq_of_same (h .bytes (by decide)) (h .memCtl (by decide)))
  windows := congrArg MemSys.windows (mem_eq_of_same (h .bytes (by decide)) (h .memCtl (by decide)))
  graphs := h .graphs (by decide)
  runs := by
    have hb : t.boot = s.boot := h .boot (by decide)
    have hd : t.dev = s.dev := h .dev (by decide)
    simp only [fwRuns, hb, hd]
  held := by
    have hc : t.cmds = s.cmds := h .cmds (by decide)
    rw [hc]

theorem RingsStand.ringSpan {s t : State} (h : RingsStand s t) (r : RingName) : ringSpan r t = ringSpan r s := by
  simp only [Machine.ringSpan, h.conf]

theorem RingsStand.ringBitSet {s t : State} (h : RingsStand s t) (r : RingName) :
    ringBitSet r t = ringBitSet r s := by
  simp only [Machine.ringBitSet, h.ctrl]

theorem RingsStand.ringFault {s t : State} (h : RingsStand s t) (r : RingName) : ringFault r t = ringFault r s := by
  unfold Machine.ringFault
  simp only [h.conf, h.ringSpan, h.ringBitSet]
  unfold ringChannelOk cairnBase topOfDram graphSpans loanSpans
  rw [h.ctrl, h.inService, h.graphs, h.windows]

/-! ## The notice of a failing ring (R273) -/

/-- A notice that the firmware posts is one more entry held, and nothing else of the command interface changes but the
number of entries made. -/
theorem notice_cmds {s : State} (h : fwRuns s = true) (code : Nat) (detail : BitVec 32) (detail2 : BitVec 64) :
    ∃ m e, (notice code detail detail2 s).cmds = { s.cmds with made := m, held := s.cmds.held ++ [e] } ∧
      e.notice = true ∧ e.code = BitVec.ofNat 16 code ∧ e.detail = detail ∧ e.detail2 = detail2 := by
  rw [notice, if_pos h]
  exact ⟨_, _, (ringBit_keeps _ (T := [.db, .ports, .out]) rfl (Keeps.refl _)).frame .cmds (by decide),
    rfl, rfl, rfl, rfl⟩

theorem noticed_notice {s : State} (h : fwRuns s = true) (code : Nat) (detail : BitVec 32) (detail2 : BitVec 64) :
    Noticed code detail detail2 s (notice code detail detail2 s) := by
  obtain ⟨m, e, hc, hnotice⟩ := notice_cmds h code detail detail2
  exact ⟨e, by simp [hc], hnotice⟩

theorem Noticed.mono {code : Nat} {detail : BitVec 32} {detail2 : BitVec 64} {s0 s t u : State}
    (h : Noticed code detail detail2 s t) (hs : s0.cmds.held <+: s.cmds.held) (ht : t.cmds.held <+: u.cmds.held) :
    Noticed code detail detail2 s0 u := by
  obtain ⟨e, he, hnotice⟩ := h
  refine ⟨e, ?_, hnotice⟩
  exact (ht.drop _).subset (List.drop_subset_drop_left _ hs.length_le he)

theorem notice_mem (code : Nat) (detail : BitVec 32) (detail2 : BitVec 64) (s : State) :
    (notice code detail detail2 s).mem = s.mem := by
  have hframe := (notice_keeps code detail detail2 (T := [.db, .ports, .cmds, .out]) rfl (Keeps.refl s)).frame
  exact mem_eq_of_same (hframe .bytes (by decide)) (hframe .memCtl (by decide))

theorem ringsStand_notice {s : State} (h : fwRuns s = true) (code : Nat) (detail : BitVec 32) (detail2 : BitVec 64) :
    RingsStand s (notice code detail detail2 s) := by
  obtain ⟨m, e, hc, -⟩ := notice_cmds h code detail detail2
  have hmem := notice_mem code detail detail2 s
  have hframe := (notice_keeps code detail detail2 (T := [.db, .ports, .cmds, .out]) rfl (Keeps.refl s)).frame
  have hboot : (notice code detail detail2 s).boot = s.boot := hframe .boot (by decide)
  have hdev : (notice code detail detail2 s).dev = s.dev := hframe .dev (by decide)
  exact {
    ctrl := by rw [hc]
    conf := fun r => by cases r <;> simp only [ringConf, hc]
    inService := congrArg MemSys.inService hmem
    windows := congrArg MemSys.windows hmem
    graphs := hframe .graphs (by decide)
    runs := by simp only [fwRuns, hboot, hdev]
    held := by rw [hc]; exact List.prefix_append _ _ }

/-! ## One ring is taken (R245) -/

theorem ringsStand_ringEnable (r : RingName) (on : Bool) (s : State) : RingsStand s (ringEnable r on s) := by
  cases r <;> exact ⟨rfl, fun o => by cases o <;> rfl, rfl, rfl, rfl, rfl, List.prefix_rfl⟩

theorem ringOn_ringEnable (o r : RingName) (on : Bool) (s : State) :
    ringOn o (ringEnable r on s) = if o = r then on else ringOn o s := by
  cases r <;> cases o <;> rfl

theorem ringEnable_mem (r : RingName) (on : Bool) (s : State) : (ringEnable r on s).mem = s.mem := by
  cases r <;> rfl

theorem ringEnable_cmds_held (r : RingName) (on : Bool) (s : State) :
    (ringEnable r on s).cmds.held = s.cmds.held := by
  cases r <;> rfl

theorem ringOn_notice {s : State} (h : fwRuns s = true) (o : RingName) (code : Nat) (detail : BitVec 32)
    (detail2 : BitVec 64) : ringOn o (notice code detail detail2 s) = ringOn o s := by
  obtain ⟨m, e, hc, -⟩ := notice_cmds h code detail detail2
  cases o <;> simp only [ringOn, hc]

theorem ringTake_unset {r : RingName} {s : State} (h : ringBitSet r s = false) : ringTake r s = ringEnable r false s := by
  simp [ringTake, h]

theorem ringTake_passing {r : RingName} {s : State} (h : ringBitSet r s = true) (hf : ringFault r s = none) :
    ringTake r s = ringEnable r true { s with mem := { s.mem with ringHeld := s.mem.ringHeld ++ [ringSpan r s] } } := by
  simp [ringTake, h, hf]

theorem ringTake_failing {r : RingName} {s : State} {k : Nat} (h : ringBitSet r s = true)
    (hf : ringFault r s = some k) : ringTake r s = ringError r k (ringEnable r false s) := by
  simp [ringTake, h, hf]

/-- What the firmware leaves of one ring that it takes: on exactly when its bit is set and it passes, its span then
reserved, and its failure noticed. -/
def RingTaken (r : RingName) (s t : State) : Prop :=
  ringOn r t = (ringBitSet r s && (ringFault r s).isNone) ∧ (ringOn r t = true → ringSpan r s ∈ t.mem.ringHeld) ∧
    ∀ k, ringBitSet r s = true → ringFault r s = some k →
      Noticed 0xA (BitVec.ofNat 32 r.code) (BitVec.ofNat 64 k) s t

/-- What taking one ring leaves alone: the checks of the others, their enables, and the spans reserved for them. -/
structure RingStep (r : RingName) (s t : State) : Prop where
  stand : RingsStand s t
  others : ∀ o, o ≠ r → ringOn o t = ringOn o s
  reserved : ∀ p ∈ s.mem.ringHeld, p ∈ t.mem.ringHeld

theorem ringTake_spec (r : RingName) {s : State} (hruns : fwRuns s = true) :
    RingTaken r s (ringTake r s) ∧ RingStep r s (ringTake r s) := by
  have hon : ∀ on t, ringOn r (ringEnable r on t) = on := fun on t => by simp [ringOn_ringEnable]
  have hoff : ∀ o, o ≠ r → ∀ on t, ringOn o (ringEnable r on t) = ringOn o t := fun o ho on t => by
    simp [ringOn_ringEnable, ho]
  cases hbit : ringBitSet r s with
  | false =>
    rw [ringTake_unset hbit]
    exact ⟨⟨by simp [hon, hbit], by simp [hon], by simp [hbit]⟩, ringsStand_ringEnable r false s,
      fun o ho => hoff o ho _ _, fun p hp => by rwa [ringEnable_mem]⟩
  | true =>
    cases hfault : ringFault r s with
    | none =>
      rw [ringTake_passing hbit hfault]
      refine ⟨⟨by simp [hon, hbit, hfault], fun _ => by simp [ringEnable_mem], by simp [hfault]⟩, ?_,
        fun o ho => (hoff o ho _ _).trans (by cases o <;> rfl), fun p hp => by simp [ringEnable_mem, hp]⟩
      have hreserve : RingsStand s { s with mem := { s.mem with ringHeld := s.mem.ringHeld ++ [ringSpan r s] } } :=
        ⟨rfl, fun o => by cases o <;> rfl, rfl, rfl, rfl, rfl, List.prefix_rfl⟩
      exact hreserve.trans (ringsStand_ringEnable r true _)
    | some k =>
      have hstand := ringsStand_ringEnable r false s
      have hruns' := hstand.runs.trans hruns
      rw [ringTake_failing hbit hfault, ringError]
      refine ⟨⟨?_, ?_, fun k' _ hk => ?_⟩, hstand.trans (ringsStand_notice hruns' _ _ _), fun o ho => ?_, fun p hp => ?_⟩
      · simp [ringOn_notice hruns', hon, hbit, hfault]
      · simp [ringOn_notice hruns', hon]
      · cases hfault.symm.trans hk
        exact (noticed_notice hruns' _ _ _).mono hstand.held List.prefix_rfl
      · rw [ringOn_notice hruns', hoff o ho]
      · rwa [notice_mem, ringEnable_mem]

/-! ## The three rings are taken (R245) -/

theorem RingTaken.step {r o : RingName} {s t u : State} (h : RingTaken r s t) (k : RingStep o t u) (ho : r ≠ o) :
    RingTaken r s u := by
  obtain ⟨hon, hspan, hnotice⟩ := h
  have hsame := k.others r ho
  exact ⟨hsame.trans hon, fun hr => k.reserved _ (hspan (hsame ▸ hr)), fun n hbit hfault =>
    (hnotice n hbit hfault).mono List.prefix_rfl k.stand.held⟩

theorem RingTaken.of_stand {r : RingName} {s0 s t : State} (hst : RingsStand s0 s) (h : RingTaken r s t) :
    RingTaken r s0 t := by
  obtain ⟨hon, hspan, hnotice⟩ := h
  rw [hst.ringBitSet, hst.ringFault] at hon
  rw [hst.ringSpan] at hspan
  rw [hst.ringBitSet, hst.ringFault] at hnotice
  exact ⟨hon, hspan, fun n hbit hfault => (hnotice n hbit hfault).mono hst.held List.prefix_rfl⟩

/-- The state in which the firmware takes the first ring: it holds the registers as they stand, and no ring's span. -/
def ringsLatched (s : State) : State :=
  { s with mem := { s.mem with ringHeld := [] }, cmds := { s.cmds with taken := ringSetup s } }

theorem ringsStand_ringsLatched (s : State) : RingsStand s (ringsLatched s) :=
  ⟨rfl, fun o => by cases o <;> rfl, rfl, rfl, rfl, rfl, List.prefix_rfl⟩

theorem takeRings_spec {s : State} (hruns : fwRuns s = true) :
    RingsStand s (takeRings s) ∧ ∀ r, RingTaken r s (takeRings s) := by
  have h0 := ringsStand_ringsLatched s
  obtain ⟨hn, kn⟩ := ringTake_spec .normal (h0.runs.trans hruns)
  have h1 := h0.trans kn.stand
  obtain ⟨hu, ku⟩ := ringTake_spec .urgent (h1.runs.trans hruns)
  have h2 := h1.trans ku.stand
  obtain ⟨hc, kc⟩ := ringTake_spec .completion (h2.runs.trans hruns)
  refine ⟨h2.trans kc.stand, fun r => ?_⟩
  cases r with
  | normal => exact ((hn.step ku (by decide)).step kc (by decide)).of_stand h0
  | urgent => exact (hu.step kc (by decide)).of_stand h1
  | completion => exact hc.of_stand h2

/-- The state in which the firmware takes the rings at COMMAND_RING: the doorbell is rung and cleared, the write
answered. -/
def commandRingRung (a : Access) (s : State) : State :=
  let r := fwRingWrite (BitVec.ofNat 64 (2 ^ 24)) a.secure s
  let s1 := emit (.reply r.1 0) r.2
  { s1 with db := { s1.db with fwStatus := s1.db.fwStatus &&& ~~~ (0x1000000 : BitVec 32) } }

theorem exec_commandRing {s : State} (h : fwActs s = true) (a : Access) :
    exec (.commandRing a) s = .next (takeRings (commandRingRung a s)) := if_pos h

theorem ringsStand_commandRingRung (a : Access) (s : State) : RingsStand s (commandRingRung a s) :=
  (ringsStand_of_onlyChanges (emit_keeps _ rfl (fwRingWrite_keeps (BitVec.ofNat 64 (2 ^ 24)) a.secure rfl
    (Keeps.refl s))).frame).trans (ringsStand_of_onlyChanges ((onlyChanges_db _ _).weaken rfl))

theorem fwRuns_of_fwActs {s : State} (h : fwActs s = true) : fwRuns s = true := by
  simp only [fwActs, Bool.and_eq_true] at h
  exact h.1.1

/-- Settles O10: a write of a register reaches its own field alone, behind the enable bit, and COMMAND_RING takes the
rings one after the other, where taking one leaves what the checks of the others read. -/
theorem ringConfigurationIsCheckedAtTheDoorbell : Obligations.RingConfigurationIsCheckedAtTheDoorbell := by
  refine ⟨fun v a s ha => ?_, fun v a s ha => ?_, fun v a s ha => ?_, fun q v a s ha => ?_, fun a s hacts => ?_⟩
  · exact ⟨_, exec_ringConfigWrite .ctrl v ha s, rfl, rfl, ringConfigWrite_reply_onlyChanges _ v s⟩
  · exact ⟨_, exec_ringConfigWrite .nqBase v ha s, ringConfigWrite_nqBase v s,
      ringConfigWrite_keeps_ctrl (by decide) v s, ringConfigWrite_reply_out _ v s,
      ringConfigWrite_reply_onlyChanges _ v s⟩
  · exact ⟨_, exec_ringConfigWrite .cqSize v ha s, ringConfigWrite_cqSize v s,
      ringConfigWrite_keeps_ctrl (by decide) v s, ringConfigWrite_reply_out _ v s,
      ringConfigWrite_reply_onlyChanges _ v s⟩
  · exact ⟨_, exec_ringConfigWrite q v ha s, ringConfigWrite_reply_out q v s,
      fun hq => ringConfigWrite_keeps_ctrl hq v s, ringConfigWrite_keeps_enabled q v s⟩
  · have hrung := ringsStand_commandRingRung a s
    obtain ⟨hstand, htaken⟩ := takeRings_spec (hrung.runs.trans (fwRuns_of_fwActs hacts))
    exact ⟨_, exec_commandRing hacts a, (hrung.trans hstand).ctrl, fun r => (htaken r).of_stand hrung⟩

end Sys2Proof.Machine

/-!
PROOFS. What the G2 sends is only ever added to, by faults and by the fencing of the guest (log 2); accesses to the counter
block by the host, peers and the guest; and COUNTERS_READ (R405, R406, R467, R506).
-/

namespace Sys2Proof.Machine

/-! ## Host and peer accesses (R367, R506) -/

theorem hostDenied_counterBlock {off : Nat} (h : regBlock off = 8) (secure : Bool) :
    hostDenied off secure = some false := by
  simp [hostDenied, h]

/-- A register of the window lies above the DRAM of the eight stacks that a package can hold. -/
theorem place_register {a : Nat} {s : State} (hstacks : s.mem.inService.length ≤ 8) (hlo : regBase ≤ a)
    (hhi : a < 0xFF000D0000) : place a s = .reg a := by
  have htop : topOfDram s ≤ 96 * 2 ^ 30 * 8 := Nat.mul_le_mul_left _ hstacks
  have hbase : 0xFF00000000 ≤ a := hlo
  unfold place
  rw [if_neg (by omega), if_neg (by omega), if_neg (by omega), if_neg (by omega), if_pos ⟨hbase, hhi⟩]

theorem peerCheck_counterBlock {a : Nat} {s : State} (hstacks : s.mem.inService.length ≤ 8) (hlo : 0xFF00080000 ≤ a)
    (hhi : a < 0xFF00090000) (pkg n : Nat) (write : Bool) : peerCheck pkg a n write s = .denied := by
  have hbase : regBase ≤ a := by unfold regBase; omega
  have hblock : regBlock (regOff a) = 8 := by unfold regBlock regOff regBase; omega
  unfold peerCheck
  rw [place_register hstacks hbase (by omega)]
  simp [hblock]

theorem peerRead_denied {pkg a n : Nat} {s : State} (hn : 0 < n ∧ n ≤ 192 ∧ n % 8 = 0)
    (h : peerCheck pkg a n false s = .denied) (tag : BitVec 32) (found : List (Nat × BadSymbols)) :
    peerRead pkg tag a n found s = respond 0x18 pkg tag .denied false [] s := by
  obtain ⟨hpos, hmax, h8⟩ := hn
  have hform : ¬ (decide (n = 0) || decide (192 < n) || n % 8 != 0) = true := by simp [h8]; omega
  rw [peerRead, if_neg hform, h]

theorem peerWrite_denied {pkg a : Nat} {data : List Byte} {s : State} (hn : 0 < data.length ∧ data.length ≤ 192)
    (h : peerCheck pkg a data.length true s = .denied) (tag : BitVec 32) (poison : Bool) :
    peerWrite pkg tag a data poison s = respond 0x19 pkg tag .denied false [] s := by
  have hform : ¬ (decide (data.length = 0) || decide (192 < data.length)) = true := by
    simp only [Bool.or_eq_true, decide_eq_true_eq]
    omega
  rw [peerWrite, if_neg hform, h]

/-! ## Outputs are only added to (log 2) -/

section

variable {s0 s : State}

theorem emit_extends_out (o : Output) (h : s0.out <+: s.out) : s0.out <+: (emit o s).out :=
  h.trans (List.prefix_append _ _)

/-- An operation that does not touch the outputs. -/
theorem extends_out_of_keeps {T : List Area} {t : State} (hk : Keeps T s t) (hT : Area.out ∉ T) (h : s0.out <+: s.out) :
    s0.out <+: t.out := by
  have hout : t.out = s.out := hk.frame .out hT
  rwa [hout]

theorem outFrame_extends_out (f : Frame) (h : s0.out <+: s.out) : s0.out <+: (outFrame f s).out := by
  unfold outFrame
  split
  · exact emit_extends_out _ h
  · exact h

theorem ringHost_extends_out (bits : BitVec 32) (h : s0.out <+: s.out) : s0.out <+: (ringHost bits s).out := by
  dsimp only [ringHost]
  split
  · exact h
  · unfold sendDoorbellEvent sendFrame
    exact outFrame_extends_out _ h

theorem notice_extends_out (code : Nat) (detail : BitVec 32) (detail2 : BitVec 64) (h : s0.out <+: s.out) :
    s0.out <+: (notice code detail detail2 s).out := by
  unfold notice
  split
  · exact ringHost_extends_out _ h
  · exact h

theorem setDev_extends_out (d : DevState) (h : s0.out <+: s.out) : s0.out <+: (setDev d s).out := by
  unfold setDev
  split
  · exact h
  · exact notice_extends_out _ _ _ h

theorem refreshDegraded_extends_out (h : s0.out <+: s.out) : s0.out <+: (refreshDegraded s).out := by
  unfold refreshDegraded
  dsimp only
  split
  · exact h
  · exact notice_extends_out _ _ _ h

theorem faultNotice_extends_out (e : FaultInput) (i : Nat) (first : Bool) (h : s0.out <+: s.out) :
    s0.out <+: (faultNotice e i first s).out := by
  have hring : s0.out <+: (ringBit 25 s).out := ringHost_extends_out _ h
  dsimp only [faultNotice]
  split
  · exact hring
  · exact hring

theorem faultTriggers_extends_out (e : FaultInput) (rep : Bool) (h : s0.out <+: s.out) :
    s0.out <+: (faultTriggers e rep s).out :=
  extends_out_of_keeps (faultTriggers_keeps e rep (T := [.cairn]) rfl (Keeps.refl s)) (by decide) h

theorem enterFaulted_extends_out (h : s0.out <+: s.out) : s0.out <+: (enterFaulted s).out := by
  unfold enterFaulted
  split
  · exact h
  · split
    · exact h
    · dsimp only
      refine setDev_extends_out _ ?_
      split
      · exact List.foldlRecOn (motive := fun t : State => s0.out <+: t.out) _ _ h fun t ht a _ =>
          extends_out_of_keeps (finish_keeps a _ (T := [.cmds]) rfl (Keeps.refl t)) (by decide) ht
      · exact h

theorem report_extends_out (e : FaultInput) (h : s0.out <+: s.out) : s0.out <+: (report e s).out := by
  have hnoticed (i : Nat) : s0.out <+:
      (if reports e s then faultNotice e i s.faults.first.isNone (collect e s) else collect e s).out := by
    split
    · exact faultNotice_extends_out e i _ h
    · exact h
  have hfired := faultTriggers_extends_out e (reports e s) (hnoticed (recordFor (groupKey e.source.toNat) s).1)
  unfold report
  dsimp only
  split
  · exact hfired
  · exact hfired
  · exact refreshDegraded_extends_out hfired
  · exact enterFaulted_extends_out hfired

theorem faultCOpen_extends_out (src : Nat) (h : s0.out <+: s.out) : s0.out <+: (faultCOpen src s).out :=
  report_extends_out _ h

theorem guestOut_extends_out (h : s0.out <+: s.out) : s0.out <+: (guestOut s).out := by
  unfold guestOut
  split
  · exact h
  · dsimp only
    refine extends_out_of_keeps (releaseLocks_keeps _ (T := [.locks]) rfl (Keeps.refl _)) (by decide) ?_
    refine extends_out_of_keeps (mbxGuestResetEnd_keeps (T := [.mbx, .db]) rfl (Keeps.refl _)) (by decide) ?_
    refine extends_out_of_keeps (mbxGuestResetBegin_keeps (T := [.mbx]) rfl (Keeps.refl _)) (by decide) ?_
    exact List.foldlRecOn (motive := fun t : State => s0.out <+: t.out) _ _ (emit_extends_out _ h) fun _ hu _ _ => hu

theorem fenceGuest_extends_out (h : s0.out <+: s.out) : s0.out <+: (fenceGuest s).out := by
  unfold fenceGuest
  split
  · exact h
  · exact report_extends_out _ (guestOut_extends_out h)

end

/-! ## The guest's accesses to the counter block (R404, R405) -/

theorem guestOpen_counterBlock {r : GuestReq} {off : Nat} (hat : guestRegAt r = some off) (h : regBlock off = 8) :
    guestOpen r = false := by
  simp [guestOpen, guestOnly, hat, h]

theorem guestBlocked_counterBlock {r : GuestReq} {off : Nat} (hreg : guestReg r.addr.toNat = true)
    (hat : guestRegAt r = some off) (h : regBlock off = 8) : guestBlocked r = true := by
  simp [guestBlocked, guestSpan, regBlocked, regOff, hreg, hat, h]

/-- The counter block is a blocked target: whatever the windows grant, the firewall has a reason. -/
theorem firewall_counterBlock {r : GuestReq} {off : Nat} (hreg : guestReg r.addr.toNat = true)
    (hat : guestRegAt r = some off) (h : regBlock off = 8) (s : State) : ∃ reason, firewall r s = some reason := by
  unfold firewall
  rw [if_neg (by simp [guestOpen_counterBlock hat h])]
  dsimp only
  split
  · exact ⟨1, rfl⟩
  · next ps _ =>
    rw [if_pos (guestBlocked_counterBlock hreg hat h)]
    exact (em _).elim (fun hall => ⟨2, if_pos hall⟩) fun hall => ⟨3, if_neg hall⟩

/-- A violation answers DENIED, and neither the fault nor the fence that follows takes the answer back or counts. -/
theorem violation_denied (r : GuestReq) (reason : Nat) (s : State) :
    .guest (r.opcode ||| 0x80) r.tag .denied [] (if guestWrites r then [] else List.replicate r.len.toNat true) ∈
        (violation r reason s).out ∧ (violation r reason s).counts = s.counts := by
  refine ⟨?_, (violation_keeps r reason (T := faultAreas ++ [.pins, .mbx, .locks, .d2d, .guest]) rfl
    (Keeps.refl s)).frame .counts (by decide)⟩
  have hanswer (u : State) : .guest (r.opcode ||| 0x80) r.tag .denied []
      (if guestWrites r then [] else List.replicate r.len.toNat true) ∈ (guestTurned r .denied u).out := by
    simp [guestTurned, guestAnswer, emit]
  unfold violation
  dsimp only
  split
  · exact (fenceGuest_extends_out List.prefix_rfl).subset (hanswer _)
  · exact (faultCOpen_extends_out _ List.prefix_rfl).subset (hanswer _)

theorem guestWellFormed_opcode {op : Nat} {r : GuestReq} (h : guestWellFormed op r = true) : r.opcode.toNat = op := by
  simp only [guestWellFormed, Bool.and_eq_true, decide_eq_true_eq] at h
  tauto

theorem guestWrites_of_wellFormed {op : Nat} {r : GuestReq} (h : guestWellFormed op r = true) :
    guestWrites r = decide (op = 2) := by
  have hop := guestWellFormed_opcode h
  simp [guestWrites, ← hop, ← BitVec.toNat_inj]

theorem execGuestRead_violation {r : GuestReq} {reason : Nat} {s : State} (hup : guestUp s = true)
    (hwell : guestWellFormed 1 r = true) (hat : (guestRegAt r).isSome = true) (hf : firewall r s = some reason)
    (found : List (Nat × BadSymbols)) : execGuestRead ⟨r, found⟩ s = .next (violation r reason s) := by
  simp [execGuestRead, hup, hwell, Option.isNone_eq_false_iff.mpr hat, hf]

theorem execGuestWrite_violation {r : GuestReq} {data : List Byte} {bad : BitVec 8} {reason : Nat} {s : State}
    (hup : guestUp s = true) (hwell : guestWellFormed 2 r = true) (hlen : data.length = 32 * r.len.toNat)
    (hat : (guestRegAt r).isSome = true) (hf : firewall r (guestForced bad s).2 = some reason) :
    execGuestWrite r data bad s = .next (violation r reason (guestForced bad s).2) := by
  simp [execGuestWrite, hup, hwell, hlen, Option.isNone_eq_false_iff.mpr hat, hf]

/-! ## COUNTERS_READ of a link (R467) -/

theorem DramOpen.congr {a n : Nat} {s e : State} (h : DramOpen a n s) (hmem : e.mem = s.mem) : DramOpen a n e := by
  cases s
  cases e
  cases hmem
  exact h

/-- A command that ends with a result that fits in open DRAM, whatever it changed before but memory and the entries
held: the result is stored and its completion made. -/
theorem completed_stored_finishWith {op : BitVec 16} {d : Descriptor} {r : Res} {bytes : List Byte} {s e : State}
    (hmem : e.mem = s.mem) (hheld : e.cmds.held = s.cmds.held) (hlen : bytes.length ≤ d.resLen.toNat)
    (haddr : d.resAddr.toNat < topOfDram s) (hopen : DramOpen d.resAddr.toNat bytes.length s) :
    Completed op d r.st s (finishWith (rowAccepted op d s) r bytes e) ∧
      Stored d.resAddr.toNat bytes s (finishWith (rowAccepted op d s) r bytes e) := by
  have hopen' := hopen.congr hmem
  have haddr' : d.resAddr.toNat < topOfDram e := by rwa [topOfDram, hmem]
  have hcmds := (dramWriteBytes_keeps_of_dramOpen hopen' (T := [.bytes]) rfl (Keeps.refl _)).frame .cmds (by decide)
  rw [finishWith_dram (a := rowAccepted op d s) hlen haddr']
  exact ⟨completed_finish op d { r with written := _ } ((congrArg Cmds.held hcmds).trans hheld),
    (stored_dramWriteBytes hopen').congr hmem (finish_mem _ _ _)⟩

/-- The pauses of the links sampled are forgotten by the sample (R467). -/
def pausesRead (srcs : List Nat) (s : State) : State :=
  { s with counts := { s.counts with paused := tclear s.counts.paused fun k => srcs.contains k } }

theorem beginCountersRead_link {a : Accepted} {i : Nat} {s : State} (hi : i < 32) (ht : a.desc.target.toNat = 0x8000 + i)
    (hlen : (sampleUnit (0x8000 + i) s).length ≤ a.desc.resLen.toNat) :
    beginCountersRead a s = finishWith a {} (sampleUnit (0x8000 + i) s) (pausesRead [0x8000 + i] s) := by
  have hty : (0x8000 + i) / 4096 = 8 := by omega
  have hin : (0x8000 + i) % 4096 = i := by omega
  have hguest : namesGuest (0x8000 + i) = false := by simp [namesGuest]; omega
  have hexists : sourceExists (0x8000 + i) = true := by simp [sourceExists, hty, hin, hi]
  have hsampled : sampled (0x8000 + i) = [0x8000 + i] := by
    rw [sampled, hin, if_neg (by omega)]
  unfold beginCountersRead
  rw [ht]
  simp only [hguest, hty, hin, hexists, hsampled, List.flatMap_singleton]
  rw [if_neg (by omega), if_neg (by simp), if_neg (by simp), if_neg (by omega), pausesRead]

theorem sampleUnit_link_rowStart (i : Nat) (op : BitVec 16) (d : Descriptor) (s : State) :
    sampleUnit (0x8000 + i) (rowStart op d s) = sampleUnit (0x8000 + i) s := by
  obtain ⟨c, hstart, -⟩ := rowStart_cmdsOnly op d s
  rw [hstart]
  rfl

/-- Settles O23: the counter block is turned away before any register is looked at: from the host and from peers with
nothing else, and from the guest as a violation, whichever reason the firewall finds first. -/
theorem counterBlockIsTheFirmwaresAlone : Obligations.CounterBlockIsTheFirmwaresAlone := by
  refine ⟨fun p f s ⟨hwell, hn⟩ hf hgood hblock => ?_, fun p f s ⟨hwell, hn⟩ hf hgood hblock => ?_,
    fun addr v a s hgood hblock => ?_, fun pkg tag addr found s hstacks hlo hhi => ?_,
    fun pkg tag addr data s hstacks hlo hhi hlen => ?_, fun r found off s hup hwell hreg hat hblock => ?_,
    fun d i s hb hi ht haddr hlen hopen => ?_, fun r data bad off s hup hwell hlen hreg hat hblock => ?_⟩
  · obtain ⟨h, hh, rfl⟩ := exists_held_of_isNext hn
    refine ⟨answer h .denied (leBytes 8 0) s, leBytes 8 0, ?_, answered_answer h _ _ s, answer_onlyChanges h _ _ s⟩
    have hread := hostRegRead_denied (a := accessOf h) hgood (hostDenied_counterBlock hblock _) 1 s
    change execRegRead p h.frame s = _
    simp [execRegRead, hh, hf, hwell, hread]
  · obtain ⟨h, hh, rfl⟩ := exists_held_of_isNext hn
    refine ⟨answer h .denied [] s, ?_, answered_answer h _ _ s, answer_onlyChanges h _ _ s⟩
    have hwrite := hostRegWrite_denied (a := accessOf h) hgood (hostDenied_counterBlock hblock _) 2
      (BitVec.ofNat 64 (leNat h.frame.payload)) s
    change execRegWrite p h.frame s = _
    simp [execRegWrite, hh, hf, hwell, hwrite]
  · have hwrite := hostRegWrite_denied (a := a) hgood (hostDenied_counterBlock hblock _) 2 v s
    change execRegisterWrite addr v a s = _
    rw [execRegisterWrite, hwrite]
  · exact congrArg _ (peerRead_denied (by simp) (peerCheck_counterBlock hstacks hlo hhi _ _ _) tag found)
  · exact congrArg _ (peerWrite_denied (by omega) (peerCheck_counterBlock hstacks hlo hhi _ _ _) tag false)
  · obtain ⟨reason, hfire⟩ := firewall_counterBlock hreg hat hblock s
    obtain ⟨hanswer, hcounts⟩ := violation_denied r reason s
    rw [guestWrites_of_wellFormed hwell] at hanswer
    exact ⟨_, execGuestRead_violation hup hwell (by simp [hat]) hfire found, hanswer, hcounts⟩
  · have hsample := sampleUnit_link_rowStart i 0x0502 d s
    have hrun := beginCountersRead_link (a := rowAccepted 0x0502 d s) hi ht (hsample ▸ hlen)
    rw [hsample] at hrun
    refine ⟨rowCommand 0x0502 beginCountersRead d s, rfl, ?_⟩
    rw [rowCommand_of_canBegin hb, hrun]
    exact completed_stored_finishWith (rowStart_mem _ _ _) (rowStart_held _ _ _) hlen haddr hopen
  · obtain ⟨reason, hfire⟩ := firewall_counterBlock hreg hat hblock (guestForced bad s).2
    obtain ⟨hanswer, hcounts⟩ := violation_denied r reason (guestForced bad s).2
    rw [guestWrites_of_wellFormed hwell] at hanswer
    have hforced := (guestForced_keeps bad (T := [.faults]) rfl (Keeps.refl s)).frame .counts (by decide)
    exact ⟨_, execGuestWrite_violation hup hwell hlen (by simp [hat]) hfire, hanswer, hcounts.trans hforced⟩

end Sys2Proof.Machine

/-!
PROOFS. One step: no row stops, and what every row keeps (log 1); the state after reset.
-/

namespace Sys2Proof.Machine

/-- What each row of the table keeps, gathered: its list is `mayChange`. -/
theorem exec_keeps (c : Instr) (s : State) : KeepsNext (mayChange c) s (exec c s) := by
  cases c with
  | deviceInfo d => exact execDeviceInfo_keeps d rfl (Keeps.refl s)
  | deviceStandby d => exact execDeviceStandby_keeps d rfl (Keeps.refl s)
  | deviceWake d w => exact execDeviceWake_keeps d w rfl (Keeps.refl s)
  | deviceReset d => exact execDeviceReset_keeps d rfl (Keeps.refl s)
  | deviceLimit d => exact execDeviceLimit_keeps d rfl (Keeps.refl s)
  | deviceWatchdog d => exact execDeviceWatchdog_keeps d rfl (Keeps.refl s)
  | memSetMode d => exact execMemSetMode_keeps d rfl (Keeps.refl s)
  | memLend d => exact execMemLend_keeps d rfl (Keeps.refl s)
  | memLendLimit d => exact execMemLendLimit_keeps d rfl (Keeps.refl s)
  | memReclaim d => exact execMemReclaim_keeps d rfl (Keeps.refl s)
  | loadBundle d => exact execLoadBundle_keeps d rfl (Keeps.refl s)
  | verifyBundle d => exact execVerifyBundle_keeps d rfl (Keeps.refl s)
  | place d => exact execPlace_keeps d rfl (Keeps.refl s)
  | start d => exact execStart_keeps d rfl (Keeps.refl s)
  | pause d => exact execPause_keeps d rfl (Keeps.refl s)
  | resume d => exact execResume_keeps d rfl (Keeps.refl s)
  | abort d => exact execAbort_keeps d rfl (Keeps.refl s)
  | unload d => exact execUnload_keeps d rfl (Keeps.refl s)
  | fabStatus d => exact execFabStatus_keeps d rfl (Keeps.refl s)
  | fabConfig d => exact execFabConfig_keeps d rfl (Keeps.refl s)
  | fabLinkCtrl d => exact execFabLinkCtrl_keeps d rfl (Keeps.refl s)
  | countersEnable d => exact execCountersEnable_keeps d rfl (Keeps.refl s)
  | countersRead d => exact execCountersRead_keeps d rfl (Keeps.refl s)
  | cairnArm d => exact execCairnArm_keeps d rfl (Keeps.refl s)
  | cairnTake d => exact execCairnTake_keeps d rfl (Keeps.refl s)
  | cairnRead d => exact execCairnRead_keeps d rfl (Keeps.refl s)
  | faultRead d => exact execFaultRead_keeps d rfl (Keeps.refl s)
  | faultClear d => exact execFaultClear_keeps d rfl (Keeps.refl s)
  | faultForce d => exact execFaultForce_keeps d rfl (Keeps.refl s)
  | ackSlowdown d => exact execAckSlowdown_keeps d rfl (Keeps.refl s)
  | attest d => exact execAttest_keeps d rfl (Keeps.refl s)
  | claimOwner d => exact execClaimOwner_keeps d rfl (Keeps.refl s)
  | fwUpdate d => exact execFwUpdate_keeps d rfl (Keeps.refl s)
  | hostFrameReceive p f => exact execHostFrameReceive_keeps p f rfl (Keeps.refl s)
  | skewLimitExpiry seq => exact execSkewLimitExpiry_keeps seq rfl (Keeps.refl s)
  | regRead p f => exact execRegRead_keeps p f rfl (Keeps.refl s)
  | regWrite p f => exact execRegWrite_keeps p f rfl (Keeps.refl s)
  | bulkWrite p f => exact execBulkWrite_keeps p f rfl (Keeps.refl s)
  | bulkRead p r => exact execBulkRead_keeps p r rfl (Keeps.refl s)
  | mboxPost p f => exact execMboxPost_keeps p f rfl (Keeps.refl s)
  | resync p f => exact execResync_keeps p f rfl (Keeps.refl s)
  | hostCreditFrame p f => exact execHostCreditFrame_keeps p f rfl (Keeps.refl s)
  | gapTimerExpiry => exact execGapTimerExpiry_keeps rfl (Keeps.refl s)
  | creditFrameTimer => exact execCreditFrameTimer_keeps rfl (Keeps.refl s)
  | hostWindowAccess cluster write off data => exact execHostWindowAccess_keeps cluster write off data rfl (Keeps.refl s)
  | hwinResponse p f => exact execHwinResponse_keeps p f rfl (Keeps.refl s)
  | hwinRetryTimer seq => exact execHwinRetryTimer_keeps seq rfl (Keeps.refl s)
  | portLockLoss p => exact execPortLockLoss_keeps p rfl (Keeps.refl s)
  | portActive p => exact execPortActive_keeps p rfl (Keeps.refl s)
  | portStableTimer p => exact execPortStableTimer_keeps p rfl (Keeps.refl s)
  | mailboxWrite m ch w => exact execMailboxWrite_keeps m ch w rfl (Keeps.refl s)
  | mailboxDrain m ch => exact execMailboxDrain_keeps m ch rfl (Keeps.refl s)
  | firmwareMailboxPost ch w => exact execFirmwareMailboxPost_keeps ch w rfl (Keeps.refl s)
  | dbFwRingChannel n a => exact execDbFwRingChannel_keeps n a rfl (Keeps.refl s)
  | commandRing a => exact execCommandRing_keeps a rfl (Keeps.refl s)
  | dbFwRingHostEpoch a => exact execDbFwRingHostEpoch_keeps a rfl (Keeps.refl s)
  | dbHostEpochWrite v a => exact execDbHostEpochWrite_keeps v a rfl (Keeps.refl s)
  | dbHostMaskWrite v a => exact execDbHostMaskWrite_keeps v a rfl (Keeps.refl s)
  | dbGuestRing v => exact execDbGuestRing_keeps v rfl (Keeps.refl s)
  | firmwareDoorbellHandle => exact execFirmwareDoorbellHandle_keeps rfl (Keeps.refl s)
  | lkLockRead m k secure => exact execLkLockRead_keeps m k secure rfl (Keeps.refl s)
  | lkLockWrite m k v secure => exact execLkLockWrite_keeps m k v secure rfl (Keeps.refl s)
  | fltForceWrite v a => exact execFltForceWrite_keeps v a rfl (Keeps.refl s)
  | fenceNow a => exact execFenceNow_keeps a rfl (Keeps.refl s)
  | crnCtrlTake a => exact execCrnCtrlTake_keeps a rfl (Keeps.refl s)
  | synCqConsumedWrite v => exact execSynCqConsumedWrite_keeps v rfl (Keeps.refl s)
  | ringConfigWrite r v a => exact execRingConfigWrite_keeps r v a rfl (Keeps.refl s)
  | thThrottleWrite v a => exact execThThrottleWrite_keeps v a rfl (Keeps.refl s)
  | thGraceWrite v a => exact execThGraceWrite_keeps v a rfl (Keeps.refl s)
  | cpSkewLimitWrite v a => exact execCpSkewLimitWrite_keeps v a rfl (Keeps.refl s)
  | registerWrite addr v a => exact execRegisterWrite_keeps addr v a rfl (Keeps.refl s)
  | managementRead addr => exact execManagementRead_keeps addr rfl (Keeps.refl s)
  | announcement ch => exact execAnnouncement_keeps ch rfl (Keeps.refl s)
  | descriptorTake q => exact execDescriptorTake_keeps q rfl (Keeps.refl s)
  | commandBegin q => exact execCommandBegin_keeps q rfl (Keeps.refl s)
  | completionPost => exact execCompletionPost_keeps rfl (Keeps.refl s)
  | watchdogExpiry => exact execWatchdogExpiry_keeps rfl (Keeps.refl s)
  | executionBegin h => exact execExecutionBegin_keeps h rfl (Keeps.refl s)
  | executionEnd h => exact execExecutionEnd_keeps h rfl (Keeps.refl s)
  | pauseComplete h => exact execPauseComplete_keeps h rfl (Keeps.refl s)
  | abortComplete h => exact execAbortComplete_keeps h rfl (Keeps.refl s)
  | deadlineExpiry h => exact execDeadlineExpiry_keeps h rfl (Keeps.refl s)
  | peerStartTimeout h peer => exact execPeerStartTimeout_keeps h peer rfl (Keeps.refl s)
  | recvTimeout h op => exact execRecvTimeout_keeps h op rfl (Keeps.refl s)
  | lenderTimeout pkg => exact execLenderTimeout_keeps pkg rfl (Keeps.refl s)
  | thermalNoticeRepeat dom => exact execThermalNoticeRepeat_keeps dom rfl (Keeps.refl s)
  | faultEvent e => exact execFaultEvent_keeps e rfl (Keeps.refl s)
  | cairnTrigger code detail => exact execCairnTrigger_keeps code detail rfl (Keeps.refl s)
  | stallTimer p => exact execStallTimer_keeps p rfl (Keeps.refl s)
  | cairnHoldComplete => exact execCairnHoldComplete_keeps rfl (Keeps.refl s)
  | cairnRelease => exact execCairnRelease_keeps rfl (Keeps.refl s)
  | workItemPlace x w => exact execWorkItemPlace_keeps x w rfl (Keeps.refl s)
  | workItemTake p => exact execWorkItemTake_keeps p rfl (Keeps.refl s)
  | engineOpIssue p c e op => exact execEngineOpIssue_keeps p c e op rfl (Keeps.refl s)
  | engineOpStart p c e => exact execEngineOpStart_keeps p c e rfl (Keeps.refl s)
  | engineOpRetire p c e => exact execEngineOpRetire_keeps p c e rfl (Keeps.refl s)
  | workItemComplete p seq => exact execWorkItemComplete_keeps p seq rfl (Keeps.refl s)
  | remoteSyncIncrement p => exact execRemoteSyncIncrement_keeps p rfl (Keeps.refl s)
  | creditUpdate q => exact execCreditUpdate_keeps q rfl (Keeps.refl s)
  | clusterPowerGate p => exact execClusterPowerGate_keeps p rfl (Keeps.refl s)
  | clusterWake p => exact execClusterWake_keeps p rfl (Keeps.refl s)
  | coreFailure p c => exact execCoreFailure_keeps p c rfl (Keeps.refl s)
  | clusterFailure p => exact execClusterFailure_keeps p rfl (Keeps.refl s)
  | pFillComplete p c => exact execPFillComplete_keeps p c rfl (Keeps.refl s)
  | pRunRetire p c => exact execPRunRetire_keeps p c rfl (Keeps.refl s)
  | bankPitchCheckStart p c => exact execBankPitchCheckStart_keeps p c rfl (Keeps.refl s)
  | bankCheckUrgent p c => exact execBankCheckUrgent_keeps p c rfl (Keeps.refl s)
  | bankPitchCheckEnd p c r => exact execBankPitchCheckEnd_keeps p c r rfl (Keeps.refl s)
  | bankRetuneWave f => exact execBankRetuneWave_keeps f rfl (Keeps.refl s)
  | bankRetuneDone p c ok => exact execBankRetuneDone_keeps p c ok rfl (Keeps.refl s)
  | bankOutOfRange p c => exact execBankOutOfRange_keeps p c rfl (Keeps.refl s)
  | bankBackInRange p c => exact execBankBackInRange_keeps p c rfl (Keeps.refl s)
  | bankOverheat p c => exact execBankOverheat_keeps p c rfl (Keeps.refl s)
  | bankWalkIdentify p c r strongest => exact execBankWalkIdentify_keeps p c r strongest rfl (Keeps.refl s)
  | bankWalkOrder p c r => exact execBankWalkOrder_keeps p c r rfl (Keeps.refl s)
  | bankWalkStep p c r => exact execBankWalkStep_keeps p c r rfl (Keeps.refl s)
  | bankWalkVerify p c r pass => exact execBankWalkVerify_keeps p c r pass rfl (Keeps.refl s)
  | bankWalkTimeout p c r => exact execBankWalkTimeout_keeps p c r rfl (Keeps.refl s)
  | combSparePoint inst => exact execCombSparePoint_keeps inst rfl (Keeps.refl s)
  | combPauseRequest chip k => exact execCombPauseRequest_keeps chip k rfl (Keeps.refl s)
  | combHandoverPause chip k failing => exact execCombHandoverPause_keeps chip k failing rfl (Keeps.refl s)
  | combLineFailure inst => exact execCombLineFailure_keeps inst rfl (Keeps.refl s)
  | combChipletFailure chip => exact execCombChipletFailure_keeps chip rfl (Keeps.refl s)
  | laserSample inst bias output => exact execLaserSample_keeps inst bias output rfl (Keeps.refl s)
  | laserFailure inst => exact execLaserFailure_keeps inst rfl (Keeps.refl s)
  | laserBandChange chip => exact execLaserBandChange_keeps chip rfl (Keeps.refl s)
  | linkLaserSparePoint inst => exact execLinkLaserSparePoint_keeps inst rfl (Keeps.refl s)
  | linkSpareSwitch n k => exact execLinkSpareSwitch_keeps n k rfl (Keeps.refl s)
  | linkSpareVerified link k ok => exact execLinkSpareVerified_keeps link k ok rfl (Keeps.refl s)
  | portLaserSwitch p => exact execPortLaserSwitch_keeps p rfl (Keeps.refl s)
  | laneMove link lane a b slot => exact execLaneMove_keeps link lane a b slot rfl (Keeps.refl s)
  | laneMoveAck link lane slot => exact execLaneMoveAck_keeps link lane slot rfl (Keeps.refl s)
  | laneMoveTimeout link lane => exact execLaneMoveTimeout_keeps link lane rfl (Keeps.refl s)
  | laneLossTimeout link lane => exact execLaneLossTimeout_keeps link lane rfl (Keeps.refl s)
  | laneRetire link ch dark => exact execLaneRetire_keeps link ch dark rfl (Keeps.refl s)
  | channelErrorInterval inst e => exact execChannelErrorInterval_keeps inst e rfl (Keeps.refl s)
  | laneCheckDue inst => exact execLaneCheckDue_keeps inst rfl (Keeps.refl s)
  | checkStart link ch => exact execCheckStart_keeps link ch rfl (Keeps.refl s)
  | checkReport link r => exact execCheckReport_keeps link r rfl (Keeps.refl s)
  | checkResult inst r => exact execCheckResult_keeps inst r rfl (Keeps.refl s)
  | chipletWalkIdentify inst strongest => exact execChipletWalkIdentify_keeps inst strongest rfl (Keeps.refl s)
  | chipletWalkOrder inst => exact execChipletWalkOrder_keeps inst rfl (Keeps.refl s)
  | chipletWalkStep inst => exact execChipletWalkStep_keeps inst rfl (Keeps.refl s)
  | chipletWalkVerify inst pass => exact execChipletWalkVerify_keeps inst pass rfl (Keeps.refl s)
  | chipletWalkTimeout inst => exact execChipletWalkTimeout_keeps inst rfl (Keeps.refl s)
  | codewordSlot link => exact execCodewordSlot_keeps link rfl (Keeps.refl s)
  | codewordReceive inst gap w => exact execCodewordReceive_keeps inst gap w rfl (Keeps.refl s)
  | channelLock inst inverted => exact execChannelLock_keeps inst inverted rfl (Keeps.refl s)
  | channelLockLoss inst => exact execChannelLockLoss_keeps inst rfl (Keeps.refl s)
  | trainingAdvance link x => exact execTrainingAdvance_keeps link x rfl (Keeps.refl s)
  | trainingTimeout link => exact execTrainingTimeout_keeps link rfl (Keeps.refl s)
  | bivouacExitTimer link => exact execBivouacExitTimer_keeps link rfl (Keeps.refl s)
  | activeAtReached link tx => exact execActiveAtReached_keeps link tx rfl (Keeps.refl s)
  | noPeerTimer link => exact execNoPeerTimer_keeps link rfl (Keeps.refl s)
  | laneRetrain link slot => exact execLaneRetrain_keeps link slot rfl (Keeps.refl s)
  | sleep link tx slot => exact execSleep_keeps link tx slot rfl (Keeps.refl s)
  | wake link tx slot => exact execWake_keeps link tx slot rfl (Keeps.refl s)
  | beacon link ch slot => exact execBeacon_keeps link ch slot rfl (Keeps.refl s)
  | beaconMiss link ch => exact execBeaconMiss_keeps link ch rfl (Keeps.refl s)
  | testStart inst pattern => exact execTestStart_keeps inst pattern rfl (Keeps.refl s)
  | testEnd inst => exact execTestEnd_keeps inst rfl (Keeps.refl s)
  | laneTestDurationEnd link => exact execLaneTestDurationEnd_keeps link rfl (Keeps.refl s)
  | flitReceive link f => exact execFlitReceive_keeps link f rfl (Keeps.refl s)
  | idleAckTimer link => exact execIdleAckTimer_keeps link rfl (Keeps.refl s)
  | replayTimer link => exact execReplayTimer_keeps link rfl (Keeps.refl s)
  | e2eCredit pkg vc close total => exact execE2eCredit_keeps pkg vc close total rfl (Keeps.refl s)
  | e2eCreditTimer pkg vc => exact execE2eCreditTimer_keeps pkg vc rfl (Keeps.refl s)
  | creditReq pkg vc => exact execCreditReq_keeps pkg vc rfl (Keeps.refl s)
  | creditRetryTimer pkg vc => exact execCreditRetryTimer_keeps pkg vc rfl (Keeps.refl s)
  | entryIdleClose pkg vc => exact execEntryIdleClose_keeps pkg vc rfl (Keeps.refl s)
  | closeAck pkg vc total => exact execCloseAck_keeps pkg vc total rfl (Keeps.refl s)
  | peerReadReq pkg tag addr r => exact execPeerReadReq_keeps pkg tag addr r rfl (Keeps.refl s)
  | peerWriteReq pkg tag addr data => exact execPeerWriteReq_keeps pkg tag addr data rfl (Keeps.refl s)
  | sendData pkg tag off data poison => exact execSendData_keeps pkg tag off data poison rfl (Keeps.refl s)
  | fabricResponse tag status data poison => exact execFabricResponse_keeps tag status data poison rfl (Keeps.refl s)
  | sysMessage pkg tag m => exact execSysMessage_keeps pkg tag m rfl (Keeps.refl s)
  | fabricRequestTimeout tag => exact execFabricRequestTimeout_keeps tag rfl (Keeps.refl s)
  | widthReq link r => exact execWidthReq_keeps link r rfl (Keeps.refl s)
  | widthAck link r => exact execWidthAck_keeps link r rfl (Keeps.refl s)
  | widthSwitch link => exact execWidthSwitch_keeps link rfl (Keeps.refl s)
  | linkLeavesActive link => exact execLinkLeavesActive_keeps link rfl (Keeps.refl s)
  | collContrib f g m => exact execCollContrib_keeps f g m rfl (Keeps.refl s)
  | collResult f m => exact execCollResult_keeps f m rfl (Keeps.refl s)
  | reductionSlotTimeout f coll chunk => exact execReductionSlotTimeout_keeps f coll chunk rfl (Keeps.refl s)
  | timeSyncSend => exact execTimeSyncSend_keeps rfl (Keeps.refl s)
  | timeSync link m => exact execTimeSync_keeps link m rfl (Keeps.refl s)
  | timeHoldover => exact execTimeHoldover_keeps rfl (Keeps.refl s)
  | timebaseUpdate elapsed => exact execTimebaseUpdate_keeps elapsed rfl (Keeps.refl s)
  | d2dSlotReceive m d x => exact execD2dSlotReceive_keeps m d x rfl (Keeps.refl s)
  | d2dAckWord m d w => exact execD2dAckWord_keeps m d w rfl (Keeps.refl s)
  | d2dRetryTimer m d => exact execD2dRetryTimer_keeps m d rfl (Keeps.refl s)
  | sidebandMessage m w => exact execSidebandMessage_keeps m w rfl (Keeps.refl s)
  | sidebandRetryTimer m seq => exact execSidebandRetryTimer_keeps m seq rfl (Keeps.refl s)
  | moduleLinkUp m x => exact execModuleLinkUp_keeps m x rfl (Keeps.refl s)
  | moduleRetrain m d errs => exact execModuleRetrain_keeps m d errs rfl (Keeps.refl s)
  | recalibrationTimer m => exact execRecalibrationTimer_keeps m rfl (Keeps.refl s)
  | clockLost m => exact execClockLost_keeps m rfl (Keeps.refl s)
  | weightChange g => exact execWeightChange_keeps g rfl (Keeps.refl s)
  | emptySlotInsert m d => exact execEmptySlotInsert_keeps m d rfl (Keeps.refl s)
  | guestRead r => exact execGuestRead_keeps r rfl (Keeps.refl s)
  | guestWrite r data bad => exact execGuestWrite_keeps r data bad rfl (Keeps.refl s)
  | resetReq => exact execResetReq_keeps rfl (Keeps.refl s)
  | temp temp power => exact execTemp_keeps temp power rfl (Keeps.refl s)
  | guestTempTimeout => exact execGuestTempTimeout_keeps rfl (Keeps.refl s)
  | guestFence => exact execGuestFence_keeps rfl (Keeps.refl s)
  | dramRead a r b => exact execDramRead_keeps a r b rfl (Keeps.refl s)
  | dramWrite a data poison => exact execDramWrite_keeps a data poison rfl (Keeps.refl s)
  | directoryRequest a r => exact execDirectoryRequest_keeps a r rfl (Keeps.refl s)
  | recallAnswer a held data poison => exact execRecallAnswer_keeps a held data poison rfl (Keeps.refl s)
  | refresh stack ch bank postpone => exact execRefresh_keeps stack ch bank postpone rfl (Keeps.refl s)
  | refreshBandChange stack => exact execRefreshBandChange_keeps stack rfl (Keeps.refl s)
  | scrubRead stack b row => exact execScrubRead_keeps stack b row rfl (Keeps.refl s)
  | rowRepair stack ch bank row => exact execRowRepair_keeps stack ch bank row rfl (Keeps.refl s)
  | channelFailure stack ch phy => exact execChannelFailure_keeps stack ch phy rfl (Keeps.refl s)
  | lostMemoryRewrite => exact execLostMemoryRewrite_keeps rfl (Keeps.refl s)
  | sensorSample j reading => exact execSensorSample_keeps j reading rfl (Keeps.refl s)
  | graceExpiry dom => exact execGraceExpiry_keeps dom rfl (Keeps.refl s)
  | enforcementGrid dom => exact execEnforcementGrid_keeps dom rfl (Keeps.refl s)
  | thermalRelease dom => exact execThermalRelease_keeps dom rfl (Keeps.refl s)
  | releaseRampTimer => exact execReleaseRampTimer_keeps rfl (Keeps.refl s)
  | band4NomHoldEnd f => exact execBand4NomHoldEnd_keeps f rfl (Keeps.refl s)
  | thermalShutdown => exact execThermalShutdown_keeps rfl (Keeps.refl s)
  | powerLimiterTick x => exact execPowerLimiterTick_keeps x rfl (Keeps.refl s)
  | limiterHeld => exact execLimiterHeld_keeps rfl (Keeps.refl s)
  | railMoveDone f => exact execRailMoveDone_keeps f rfl (Keeps.refl s)
  | railMoveFailure f => exact execRailMoveFailure_keeps f rfl (Keeps.refl s)
  | rctlAlert => exact execRctlAlert_keeps rfl (Keeps.refl s)
  | flankRailOutOfRange f => exact execFlankRailOutOfRange_keeps f rfl (Keeps.refl s)
  | refclkLoss => exact execRefclkLoss_keeps rfl (Keeps.refl s)
  | powerGoodLoss pg => exact execPowerGoodLoss_keeps pg rfl (Keeps.refl s)
  | packageReset low pins => exact execPackageReset_keeps low pins rfl (Keeps.refl s)
  | colReset => exact execColReset_keeps rfl (Keeps.refl s)
  | flankSoftReset f => exact execFlankSoftReset_keeps f rfl (Keeps.refl s)
  | flankHardReset f => exact execFlankHardReset_keeps f rfl (Keeps.refl s)
  | flankLoss f => exact execFlankLoss_keeps f rfl (Keeps.refl s)
  | colBoot x => exact execColBoot_keeps x rfl (Keeps.refl s)
  | nvmLoad bad => exact execNvmLoad_keeps bad rfl (Keeps.refl s)
  | agreementCheck readings => exact execAgreementCheck_keeps readings rfl (Keeps.refl s)
  | verweustLinksStep straps => exact execVerweustLinksStep_keeps straps rfl (Keeps.refl s)
  | memoryTraining failed => exact execMemoryTraining_keeps failed rfl (Keeps.refl s)
  | laserWarmUp bad => exact execLaserWarmUp_keeps bad rfl (Keeps.refl s)
  | preHeat => exact execPreHeat_keeps rfl (Keeps.refl s)
  | preHeatChipletReady pos => exact execPreHeatChipletReady_keeps pos rfl (Keeps.refl s)
  | preHeatTimeout => exact execPreHeatTimeout_keeps rfl (Keeps.refl s)
  | ringLock bad => exact execRingLock_keeps bad rfl (Keeps.refl s)
  | clusterSelfTest bad => exact execClusterSelfTest_keeps bad rfl (Keeps.refl s)
  | fabricTraining => exact execFabricTraining_keeps rfl (Keeps.refl s)
  | bottomTreeReady => exact execBottomTreeReady_keeps rfl (Keeps.refl s)
  | dbgChallenge => exact execDbgChallenge_keeps rfl (Keeps.refl s)
  | dbgToken t => exact execDbgToken_keeps t rfl (Keeps.refl s)
  | boundaryScan ins pins => exact execBoundaryScan_keeps ins pins rfl (Keeps.refl s)
  | sysResp pkg tag status => exact execSysResp_keeps pkg tag status rfl (Keeps.refl s)
  | invalidateAck a => exact execInvalidateAck_keeps a rfl (Keeps.refl s)
  | recallRequest a inval => exact execRecallRequest_keeps a inval rfl (Keeps.refl s)
  | fwStaged => exact execFwStaged_keeps rfl (Keeps.refl s)
  | lightArrival who => exact execLightArrival_keeps who rfl (Keeps.refl s)
  | ringLockLoss inst verified => exact execRingLockLoss_keeps inst verified rfl (Keeps.refl s)

theorem otherType_next (h : HeldFrame) (s : State) : ∃ t, otherType h s = .next t := by
  simp only [otherType]
  split <;> exact ⟨_, rfl⟩

theorem namedWrite_next (off : Nat) (v : BitVec 64) (a : Access) (s : State) : ∃ t, namedWrite off v a s = .next t := by
  simp only [namedWrite]
  exact ⟨_, rfl⟩

theorem execEngineOpIssue_next (p c : Nat) (e : Engine) (op : EngOp) (s : State) :
    ∃ t, execEngineOpIssue p c e op s = .next t := by
  unfold execEngineOpIssue
  split
  · exact ⟨_, rfl⟩
  · cases e <;> dsimp only <;> (repeat' split) <;> exact ⟨_, rfl⟩

theorem execSensorSample_next (j : Nat) (reading : Int) (s : State) : ∃ t, execSensorSample j reading s = .next t := by
  unfold execSensorSample
  dsimp only
  split
  · exact ⟨_, rfl⟩
  · split <;> exact ⟨_, rfl⟩

/-- No row stops: every branch of every row's meaning ends in a next state. -/
theorem exec_next (c : Instr) (s : State) : ∃ t, exec c s = .next t := by
  cases c with
  | hostFrameReceive => simp only [exec, execHostFrameReceive]; (repeat' split) <;> exact ⟨_, rfl⟩
  | skewLimitExpiry => simp only [exec, execSkewLimitExpiry]; exact ⟨_, rfl⟩
  | regRead => simp only [exec, execRegRead]; (repeat' split) <;> simp [otherType_next]
  | regWrite => simp only [exec, execRegWrite]; (repeat' split) <;> simp [otherType_next]
  | bulkWrite => simp only [exec, execBulkWrite]; (repeat' split) <;> simp [otherType_next]
  | bulkRead => simp only [exec, execBulkRead]; (repeat' split) <;> simp [otherType_next]
  | mboxPost => simp only [exec, execMboxPost]; (repeat' split) <;> simp [otherType_next]
  | resync => simp only [exec, execResync]; (repeat' split) <;> exact ⟨_, rfl⟩
  | hostCreditFrame => simp only [exec, execHostCreditFrame]; (repeat' split) <;> exact ⟨_, rfl⟩
  | gapTimerExpiry => simp only [exec, execGapTimerExpiry]; (repeat' split) <;> exact ⟨_, rfl⟩
  | creditFrameTimer => simp only [exec, execCreditFrameTimer]; (repeat' split) <;> exact ⟨_, rfl⟩
  | hostWindowAccess => simp only [exec, execHostWindowAccess]; (repeat' split) <;> exact ⟨_, rfl⟩
  | hwinResponse => simp only [exec, execHwinResponse]; (repeat' split) <;> exact ⟨_, rfl⟩
  | hwinRetryTimer => simp only [exec, execHwinRetryTimer]; (repeat' split) <;> exact ⟨_, rfl⟩
  | portLockLoss => simp only [exec, execPortLockLoss]; (repeat' split) <;> exact ⟨_, rfl⟩
  | portActive => simp only [exec, execPortActive]; (repeat' split) <;> exact ⟨_, rfl⟩
  | portStableTimer => simp only [exec, execPortStableTimer]; (repeat' split) <;> exact ⟨_, rfl⟩
  | mailboxWrite => simp only [exec, execMailboxWrite]; (repeat' split) <;> exact ⟨_, rfl⟩
  | mailboxDrain => simp only [exec, execMailboxDrain]; (repeat' split) <;> exact ⟨_, rfl⟩
  | firmwareMailboxPost => simp only [exec, execFirmwareMailboxPost]; (repeat' split) <;> exact ⟨_, rfl⟩
  | dbFwRingChannel => simp only [exec, execDbFwRingChannel]; exact ⟨_, rfl⟩
  | commandRing => simp only [exec, execCommandRing]; (repeat' split) <;> exact ⟨_, rfl⟩
  | dbFwRingHostEpoch => simp only [exec, execDbFwRingHostEpoch]; exact ⟨_, rfl⟩
  | dbHostEpochWrite => simp only [exec, execDbHostEpochWrite]; (repeat' split) <;> exact ⟨_, rfl⟩
  | dbHostMaskWrite => simp only [exec, execDbHostMaskWrite]; exact ⟨_, rfl⟩
  | dbGuestRing => simp only [exec, execDbGuestRing]; (repeat' split) <;> exact ⟨_, rfl⟩
  | firmwareDoorbellHandle => simp only [exec, execFirmwareDoorbellHandle]; (repeat' split) <;> exact ⟨_, rfl⟩
  | lkLockRead => simp only [exec, execLkLockRead]; (repeat' split) <;> exact ⟨_, rfl⟩
  | lkLockWrite => simp only [exec, execLkLockWrite]; (repeat' split) <;> exact ⟨_, rfl⟩
  | fltForceWrite => simp only [exec, execFltForceWrite]; (repeat' split) <;> exact ⟨_, rfl⟩
  | fenceNow => simp only [exec, execFenceNow]; exact ⟨_, rfl⟩
  | ringConfigWrite => simp only [exec, execRingConfigWrite]; (repeat' split) <;> exact ⟨_, rfl⟩
  | thThrottleWrite => simp only [exec, execThThrottleWrite]; exact ⟨_, rfl⟩
  | managementRead => simp only [exec, execManagementRead]; (repeat' split) <;> exact ⟨_, rfl⟩
  | announcement => simp only [exec, execAnnouncement]; (repeat' split) <;> exact ⟨_, rfl⟩
  | descriptorTake => simp only [exec, execDescriptorTake]; (repeat' split) <;> exact ⟨_, rfl⟩
  | commandBegin => simp only [exec, execCommandBegin]; (repeat' split) <;> exact ⟨_, rfl⟩
  | completionPost => simp only [exec, execCompletionPost]; (repeat' split) <;> exact ⟨_, rfl⟩
  | watchdogExpiry => simp only [exec, execWatchdogExpiry]; (repeat' split) <;> exact ⟨_, rfl⟩
  | executionBegin => simp only [exec, execExecutionBegin]; (repeat' split) <;> exact ⟨_, rfl⟩
  | executionEnd => simp only [exec, execExecutionEnd]; (repeat' split) <;> exact ⟨_, rfl⟩
  | pauseComplete => simp only [exec, execPauseComplete]; (repeat' split) <;> exact ⟨_, rfl⟩
  | abortComplete => simp only [exec, execAbortComplete]; (repeat' split) <;> exact ⟨_, rfl⟩
  | deadlineExpiry => simp only [exec, execDeadlineExpiry]; (repeat' split) <;> exact ⟨_, rfl⟩
  | peerStartTimeout => simp only [exec, execPeerStartTimeout]; (repeat' split) <;> exact ⟨_, rfl⟩
  | recvTimeout => simp only [exec, execRecvTimeout]; (repeat' split) <;> exact ⟨_, rfl⟩
  | lenderTimeout => simp only [exec, execLenderTimeout]; (repeat' split) <;> exact ⟨_, rfl⟩
  | thermalNoticeRepeat => simp only [exec, execThermalNoticeRepeat]; (repeat' split) <;> exact ⟨_, rfl⟩
  | faultEvent => simp only [exec, execFaultEvent]; (repeat' split) <;> exact ⟨_, rfl⟩
  | cairnTrigger => simp only [exec, execCairnTrigger]; exact ⟨_, rfl⟩
  | stallTimer => simp only [exec, execStallTimer]; (repeat' split) <;> exact ⟨_, rfl⟩
  | cairnHoldComplete => simp only [exec, execCairnHoldComplete]; (repeat' split) <;> exact ⟨_, rfl⟩
  | cairnRelease => simp only [exec, execCairnRelease]; (repeat' split) <;> exact ⟨_, rfl⟩
  | workItemPlace => simp only [exec, execWorkItemPlace]; (repeat' split) <;> exact ⟨_, rfl⟩
  | workItemTake => simp only [exec, execWorkItemTake]; (repeat' split) <;> exact ⟨_, rfl⟩
  | engineOpIssue p c e op => exact execEngineOpIssue_next p c e op s
  | engineOpStart => simp only [exec, execEngineOpStart]; (repeat' split) <;> exact ⟨_, rfl⟩
  | engineOpRetire => simp only [exec, execEngineOpRetire]; (repeat' split) <;> exact ⟨_, rfl⟩
  | workItemComplete => simp only [exec, execWorkItemComplete]; (repeat' split) <;> exact ⟨_, rfl⟩
  | remoteSyncIncrement => simp only [exec, execRemoteSyncIncrement]; (repeat' split) <;> exact ⟨_, rfl⟩
  | creditUpdate => simp only [exec, execCreditUpdate]; (repeat' split) <;> exact ⟨_, rfl⟩
  | clusterPowerGate => simp only [exec, execClusterPowerGate]; (repeat' split) <;> exact ⟨_, rfl⟩
  | clusterWake => simp only [exec, execClusterWake]; (repeat' split) <;> exact ⟨_, rfl⟩
  | coreFailure => simp only [exec, execCoreFailure]; (repeat' split) <;> exact ⟨_, rfl⟩
  | clusterFailure => simp only [exec, execClusterFailure]; (repeat' split) <;> exact ⟨_, rfl⟩
  | pFillComplete => simp only [exec, execPFillComplete]; (repeat' split) <;> exact ⟨_, rfl⟩
  | pRunRetire => simp only [exec, execPRunRetire]; (repeat' split) <;> exact ⟨_, rfl⟩
  | bankPitchCheckStart => simp only [exec, execBankPitchCheckStart]; (repeat' split) <;> exact ⟨_, rfl⟩
  | bankCheckUrgent => simp only [exec, execBankCheckUrgent]; (repeat' split) <;> exact ⟨_, rfl⟩
  | bankPitchCheckEnd => simp only [exec, execBankPitchCheckEnd]; (repeat' split) <;> exact ⟨_, rfl⟩
  | bankRetuneWave => simp only [exec, execBankRetuneWave]; (repeat' split) <;> exact ⟨_, rfl⟩
  | bankRetuneDone => simp only [exec, execBankRetuneDone]; (repeat' split) <;> exact ⟨_, rfl⟩
  | bankOutOfRange => simp only [exec, execBankOutOfRange]; (repeat' split) <;> exact ⟨_, rfl⟩
  | bankBackInRange => simp only [exec, execBankBackInRange]; (repeat' split) <;> exact ⟨_, rfl⟩
  | bankOverheat => simp only [exec, execBankOverheat]; (repeat' split) <;> exact ⟨_, rfl⟩
  | bankWalkIdentify => simp only [exec, execBankWalkIdentify]; (repeat' split) <;> exact ⟨_, rfl⟩
  | bankWalkOrder => simp only [exec, execBankWalkOrder]; (repeat' split) <;> exact ⟨_, rfl⟩
  | bankWalkStep => simp only [exec, execBankWalkStep]; (repeat' split) <;> exact ⟨_, rfl⟩
  | bankWalkVerify => simp only [exec, execBankWalkVerify]; (repeat' split) <;> exact ⟨_, rfl⟩
  | bankWalkTimeout => simp only [exec, execBankWalkTimeout]; (repeat' split) <;> exact ⟨_, rfl⟩
  | combSparePoint => simp only [exec, execCombSparePoint]; (repeat' split) <;> exact ⟨_, rfl⟩
  | combPauseRequest => simp only [exec, execCombPauseRequest]; (repeat' split) <;> exact ⟨_, rfl⟩
  | combHandoverPause => simp only [exec, execCombHandoverPause]; (repeat' split) <;> exact ⟨_, rfl⟩
  | combLineFailure => simp only [exec, execCombLineFailure]; (repeat' split) <;> exact ⟨_, rfl⟩
  | combChipletFailure => simp only [exec, execCombChipletFailure]; (repeat' split) <;> exact ⟨_, rfl⟩
  | laserSample => simp only [exec, execLaserSample]; (repeat' split) <;> exact ⟨_, rfl⟩
  | laserFailure => simp only [exec, execLaserFailure]; (repeat' split) <;> exact ⟨_, rfl⟩
  | laserBandChange => simp only [exec, execLaserBandChange]; (repeat' split) <;> exact ⟨_, rfl⟩
  | linkLaserSparePoint => simp only [exec, execLinkLaserSparePoint]; (repeat' split) <;> exact ⟨_, rfl⟩
  | linkSpareSwitch => simp only [exec, execLinkSpareSwitch]; (repeat' split) <;> exact ⟨_, rfl⟩
  | linkSpareVerified => simp only [exec, execLinkSpareVerified]; (repeat' split) <;> exact ⟨_, rfl⟩
  | portLaserSwitch => simp only [exec, execPortLaserSwitch]; (repeat' split) <;> exact ⟨_, rfl⟩
  | laneMove => simp only [exec, execLaneMove]; (repeat' split) <;> exact ⟨_, rfl⟩
  | laneMoveAck => simp only [exec, execLaneMoveAck]; (repeat' split) <;> exact ⟨_, rfl⟩
  | laneMoveTimeout => simp only [exec, execLaneMoveTimeout]; (repeat' split) <;> exact ⟨_, rfl⟩
  | laneLossTimeout => simp only [exec, execLaneLossTimeout]; (repeat' split) <;> exact ⟨_, rfl⟩
  | laneRetire => simp only [exec, execLaneRetire]; (repeat' split) <;> exact ⟨_, rfl⟩
  | channelErrorInterval => simp only [exec, execChannelErrorInterval]; (repeat' split) <;> exact ⟨_, rfl⟩
  | laneCheckDue => simp only [exec, execLaneCheckDue]; (repeat' split) <;> exact ⟨_, rfl⟩
  | checkStart => simp only [exec, execCheckStart]; (repeat' split) <;> exact ⟨_, rfl⟩
  | checkReport => simp only [exec, execCheckReport]; (repeat' split) <;> exact ⟨_, rfl⟩
  | checkResult => simp only [exec, execCheckResult]; (repeat' split) <;> exact ⟨_, rfl⟩
  | chipletWalkIdentify => simp only [exec, execChipletWalkIdentify]; (repeat' split) <;> exact ⟨_, rfl⟩
  | chipletWalkOrder => simp only [exec, execChipletWalkOrder]; (repeat' split) <;> exact ⟨_, rfl⟩
  | chipletWalkStep => simp only [exec, execChipletWalkStep]; (repeat' split) <;> exact ⟨_, rfl⟩
  | chipletWalkVerify => simp only [exec, execChipletWalkVerify]; (repeat' split) <;> exact ⟨_, rfl⟩
  | chipletWalkTimeout => simp only [exec, execChipletWalkTimeout]; (repeat' split) <;> exact ⟨_, rfl⟩
  | codewordSlot => simp only [exec, execCodewordSlot]; (repeat' split) <;> exact ⟨_, rfl⟩
  | codewordReceive => simp only [exec, execCodewordReceive]; (repeat' split) <;> exact ⟨_, rfl⟩
  | channelLock => simp only [exec, execChannelLock]; (repeat' split) <;> exact ⟨_, rfl⟩
  | channelLockLoss => simp only [exec, execChannelLockLoss]; (repeat' split) <;> exact ⟨_, rfl⟩
  | trainingAdvance => simp only [exec, execTrainingAdvance]; (repeat' split) <;> exact ⟨_, rfl⟩
  | trainingTimeout => simp only [exec, execTrainingTimeout]; (repeat' split) <;> exact ⟨_, rfl⟩
  | bivouacExitTimer => simp only [exec, execBivouacExitTimer]; (repeat' split) <;> exact ⟨_, rfl⟩
  | activeAtReached => simp only [exec, execActiveAtReached]; (repeat' split) <;> exact ⟨_, rfl⟩
  | noPeerTimer => simp only [exec, execNoPeerTimer]; (repeat' split) <;> exact ⟨_, rfl⟩
  | laneRetrain => simp only [exec, execLaneRetrain]; (repeat' split) <;> exact ⟨_, rfl⟩
  | sleep => simp only [exec, execSleep]; (repeat' split) <;> exact ⟨_, rfl⟩
  | wake => simp only [exec, execWake]; (repeat' split) <;> exact ⟨_, rfl⟩
  | beacon => simp only [exec, execBeacon]; (repeat' split) <;> exact ⟨_, rfl⟩
  | beaconMiss => simp only [exec, execBeaconMiss]; (repeat' split) <;> exact ⟨_, rfl⟩
  | testStart => simp only [exec, execTestStart]; (repeat' split) <;> exact ⟨_, rfl⟩
  | testEnd => simp only [exec, execTestEnd]; (repeat' split) <;> exact ⟨_, rfl⟩
  | laneTestDurationEnd => simp only [exec, execLaneTestDurationEnd]; (repeat' split) <;> exact ⟨_, rfl⟩
  | flitReceive => simp only [exec, execFlitReceive]; (repeat' split) <;> exact ⟨_, rfl⟩
  | idleAckTimer => simp only [exec, execIdleAckTimer]; (repeat' split) <;> exact ⟨_, rfl⟩
  | replayTimer => simp only [exec, execReplayTimer]; (repeat' split) <;> exact ⟨_, rfl⟩
  | e2eCreditTimer => simp only [exec, execE2eCreditTimer]; (repeat' split) <;> exact ⟨_, rfl⟩
  | creditRetryTimer => simp only [exec, execCreditRetryTimer]; (repeat' split) <;> exact ⟨_, rfl⟩
  | entryIdleClose => simp only [exec, execEntryIdleClose]; (repeat' split) <;> exact ⟨_, rfl⟩
  | fabricRequestTimeout => simp only [exec, execFabricRequestTimeout]; (repeat' split) <;> exact ⟨_, rfl⟩
  | widthReq => simp only [exec, execWidthReq]; (repeat' split) <;> exact ⟨_, rfl⟩
  | widthAck => simp only [exec, execWidthAck]; (repeat' split) <;> exact ⟨_, rfl⟩
  | widthSwitch => simp only [exec, execWidthSwitch]; (repeat' split) <;> exact ⟨_, rfl⟩
  | linkLeavesActive => simp only [exec, execLinkLeavesActive]; (repeat' split) <;> exact ⟨_, rfl⟩
  | reductionSlotTimeout => simp only [exec, execReductionSlotTimeout]; (repeat' split) <;> exact ⟨_, rfl⟩
  | timeSyncSend => simp only [exec, execTimeSyncSend]; (repeat' split) <;> exact ⟨_, rfl⟩
  | timeSync => simp only [exec, execTimeSync]; (repeat' split) <;> exact ⟨_, rfl⟩
  | timeHoldover => simp only [exec, execTimeHoldover]; (repeat' split) <;> exact ⟨_, rfl⟩
  | d2dSlotReceive => simp only [exec, execD2dSlotReceive]; (repeat' split) <;> exact ⟨_, rfl⟩
  | d2dAckWord => simp only [exec, execD2dAckWord]; (repeat' split) <;> exact ⟨_, rfl⟩
  | d2dRetryTimer => simp only [exec, execD2dRetryTimer]; (repeat' split) <;> exact ⟨_, rfl⟩
  | sidebandMessage => simp only [exec, execSidebandMessage]; (repeat' split) <;> exact ⟨_, rfl⟩
  | sidebandRetryTimer => simp only [exec, execSidebandRetryTimer]; (repeat' split) <;> exact ⟨_, rfl⟩
  | moduleLinkUp => simp only [exec, execModuleLinkUp]; (repeat' split) <;> exact ⟨_, rfl⟩
  | moduleRetrain => simp only [exec, execModuleRetrain]; (repeat' split) <;> exact ⟨_, rfl⟩
  | recalibrationTimer => simp only [exec, execRecalibrationTimer]; (repeat' split) <;> exact ⟨_, rfl⟩
  | clockLost => simp only [exec, execClockLost]; (repeat' split) <;> exact ⟨_, rfl⟩
  | weightChange => simp only [exec, execWeightChange]; (repeat' split) <;> exact ⟨_, rfl⟩
  | emptySlotInsert => simp only [exec, execEmptySlotInsert]; (repeat' split) <;> exact ⟨_, rfl⟩
  | guestRead => simp only [exec, execGuestRead]; (repeat' split) <;> exact ⟨_, rfl⟩
  | guestWrite => simp only [exec, execGuestWrite]; (repeat' split) <;> exact ⟨_, rfl⟩
  | guestTempTimeout => simp only [exec, execGuestTempTimeout]; (repeat' split) <;> exact ⟨_, rfl⟩
  | dramRead => simp only [exec, execDramRead]; (repeat' split) <;> exact ⟨_, rfl⟩
  | dramWrite => simp only [exec, execDramWrite]; (repeat' split) <;> exact ⟨_, rfl⟩
  | directoryRequest => simp only [exec, execDirectoryRequest]; (repeat' split) <;> exact ⟨_, rfl⟩
  | recallAnswer => simp only [exec, execRecallAnswer]; (repeat' split) <;> exact ⟨_, rfl⟩
  | refresh => simp only [exec, execRefresh]; (repeat' split) <;> exact ⟨_, rfl⟩
  | refreshBandChange => simp only [exec, execRefreshBandChange]; (repeat' split) <;> exact ⟨_, rfl⟩
  | scrubRead => simp only [exec, execScrubRead]; (repeat' split) <;> exact ⟨_, rfl⟩
  | rowRepair => simp only [exec, execRowRepair]; (repeat' split) <;> exact ⟨_, rfl⟩
  | channelFailure => simp only [exec, execChannelFailure]; (repeat' split) <;> exact ⟨_, rfl⟩
  | lostMemoryRewrite => simp only [exec, execLostMemoryRewrite]; (repeat' split) <;> exact ⟨_, rfl⟩
  | sensorSample j reading => exact execSensorSample_next j reading s
  | graceExpiry => simp only [exec, execGraceExpiry]; (repeat' split) <;> exact ⟨_, rfl⟩
  | enforcementGrid => simp only [exec, execEnforcementGrid]; (repeat' split) <;> exact ⟨_, rfl⟩
  | thermalRelease => simp only [exec, execThermalRelease]; (repeat' split) <;> exact ⟨_, rfl⟩
  | band4NomHoldEnd => simp only [exec, execBand4NomHoldEnd]; (repeat' split) <;> exact ⟨_, rfl⟩
  | thermalShutdown => simp only [exec, execThermalShutdown]; (repeat' split) <;> exact ⟨_, rfl⟩
  | limiterHeld => simp only [exec, execLimiterHeld]; (repeat' split) <;> exact ⟨_, rfl⟩
  | railMoveDone => simp only [exec, execRailMoveDone]; (repeat' split) <;> exact ⟨_, rfl⟩
  | railMoveFailure => simp only [exec, execRailMoveFailure]; (repeat' split) <;> exact ⟨_, rfl⟩
  | refclkLoss => simp only [exec, execRefclkLoss]; (repeat' split) <;> exact ⟨_, rfl⟩
  | powerGoodLoss => simp only [exec, execPowerGoodLoss]; (repeat' split) <;> exact ⟨_, rfl⟩
  | packageReset => simp only [exec, execPackageReset]; (repeat' split) <;> exact ⟨_, rfl⟩
  | colReset => simp only [exec, execColReset]; (repeat' split) <;> exact ⟨_, rfl⟩
  | flankSoftReset => simp only [exec, execFlankSoftReset]; (repeat' split) <;> exact ⟨_, rfl⟩
  | flankHardReset => simp only [exec, execFlankHardReset]; (repeat' split) <;> exact ⟨_, rfl⟩
  | flankLoss => simp only [exec, execFlankLoss]; (repeat' split) <;> exact ⟨_, rfl⟩
  | colBoot => simp only [exec, execColBoot]; (repeat' split) <;> exact ⟨_, rfl⟩
  | nvmLoad => simp only [exec, execNvmLoad]; (repeat' split) <;> exact ⟨_, rfl⟩
  | agreementCheck => simp only [exec, execAgreementCheck]; (repeat' split) <;> exact ⟨_, rfl⟩
  | verweustLinksStep => simp only [exec, execVerweustLinksStep]; (repeat' split) <;> exact ⟨_, rfl⟩
  | memoryTraining => simp only [exec, execMemoryTraining]; (repeat' split) <;> exact ⟨_, rfl⟩
  | laserWarmUp => simp only [exec, execLaserWarmUp]; (repeat' split) <;> exact ⟨_, rfl⟩
  | preHeat => simp only [exec, execPreHeat]; (repeat' split) <;> exact ⟨_, rfl⟩
  | preHeatChipletReady => simp only [exec, execPreHeatChipletReady]; (repeat' split) <;> exact ⟨_, rfl⟩
  | preHeatTimeout => simp only [exec, execPreHeatTimeout]; (repeat' split) <;> exact ⟨_, rfl⟩
  | ringLock => simp only [exec, execRingLock]; (repeat' split) <;> exact ⟨_, rfl⟩
  | clusterSelfTest => simp only [exec, execClusterSelfTest]; (repeat' split) <;> exact ⟨_, rfl⟩
  | fabricTraining => simp only [exec, execFabricTraining]; (repeat' split) <;> exact ⟨_, rfl⟩
  | bottomTreeReady => simp only [exec, execBottomTreeReady]; (repeat' split) <;> exact ⟨_, rfl⟩
  | dbgToken => simp only [exec, execDbgToken]; (repeat' split) <;> exact ⟨_, rfl⟩
  | boundaryScan => simp only [exec, execBoundaryScan]; (repeat' split) <;> exact ⟨_, rfl⟩
  | invalidateAck => simp only [exec, execInvalidateAck]; (repeat' split) <;> exact ⟨_, rfl⟩
  | recallRequest => simp only [exec, execRecallRequest]; (repeat' split) <;> exact ⟨_, rfl⟩
  | fwStaged => simp only [exec, execFwStaged]; (repeat' split) <;> exact ⟨_, rfl⟩
  | lightArrival => simp only [exec, execLightArrival]; (repeat' split) <;> exact ⟨_, rfl⟩
  | ringLockLoss => simp only [exec, execRingLockLoss]; (repeat' split) <;> exact ⟨_, rfl⟩
  | _ => exact ⟨_, rfl⟩

/-- A step is a tick of the idle clock or the front command's meaning on the rest of the queue. -/
theorem step_keeps {s t : State} (h : step s = .next t) :
    (Memory.wf s.mem = true → Memory.wf t.mem = true) ∧
      (Leaves.ok s.sec → Leaves.ok t.sec ∧ s.sec.nextLeaf ≤ t.sec.nextLeaf) := by
  unfold step at h
  split at h
  · injection h with h
    subst h
    exact ⟨id, leaf_same rfl⟩
  · next c rest _ =>
    have hk := (exec_keeps c { s with pending := rest }).out t h
    exact ⟨hk.mem, hk.leaf⟩

/-- Settles O57: every row ends in a next state (`exec_next`), and that state keeps the queue and every area outside the
row's list (`exec_keeps`). -/
theorem everyRowAnswersAndKeepsItsFrame : Obligations.EveryRowAnswersAndKeepsItsFrame := by
  intro c s
  obtain ⟨t, ht⟩ := exec_next c s
  have hk := (exec_keeps c s).out t ht
  exact ⟨t, ht, hk.pending, hk.frame⟩

/-- Settles O58: an idle tick leaves memory alone, and what every row keeps includes the canonical form of memory. -/
theorem memoryStaysCanonical : Obligations.MemoryStaysCanonical :=
  fun _ _ hw hstep => (step_keeps hstep).1 hw

/-- Settles O59: an idle tick leaves the leaves alone, and what every row keeps includes their order. -/
theorem leavesAreNeverReused : Obligations.LeavesAreNeverReused :=
  fun _ _ hok hstep => (step_keeps hstep).2 hok

theorem step_cons (c : Instr) (rest : List Instr) (s : State) :
    step { s with pending := c :: rest } = exec c { s with pending := rest } := rfl

theorem step_nil {s : State} (h : s.pending = []) : step s = .next (idleTick s) := by
  unfold step
  rw [h]

/-- Settles O1: the front of the queue is what a step runs. -/
theorem stepRunsFrontCommand : Obligations.StepRunsFrontCommand := step_cons

/-- Settles O2: with nothing waiting a step is a tick. -/
theorem emptyQueueLetsTimePass : Obligations.EmptyQueueLetsTimePass := fun s h =>
  ⟨idleTick s, step_nil h, rfl, (idleTick_keeps rfl (Keeps.refl s)).frame, h⟩

/-- Settles O3: the decoder gives no word a command, so none is put in front of the queue. -/
theorem noWordSpellsACommand : Obligations.NoWordSpellsACommand := fun n w s => by
  have hnone : Sys2Proof.decodeTableWord n w = none := rfl
  exact ⟨hnone, by rw [State.withFetchWord, hnone]⟩

/-- Settles O60: the fields of the reset state, read one by one. -/
theorem resetState : Obligations.ResetState := by
  refine ⟨rfl, rfl, rfl, rfl, rfl, rfl, rfl, rfl, rfl, rfl, rfl, rfl, rfl, rfl, rfl, rfl, rfl, rfl, ?_⟩
  decide

end Sys2Proof.Machine

/-!
PROOFS. The layer that the proofs below share: the frame of an update of one field, what ringing a doorbell and entering
a fault leave, and the fields of the state that a list of areas does not reach.
-/

namespace Sys2Proof.Machine

/-! ## The frame of an update of one field -/

section
variable {T : List Area} {s0 s : State}

theorem keeps_setBoot (hT : within [.boot] T = true) (h : Keeps T s0 s) (x) : Keeps T s0 { s with boot := x } :=
  keeps_mk h fun y hy => by cases y <;> first
    | exact absurd (within_mem hT rfl) hy
    | exact rfl
    | exact ⟨rfl, rfl, rfl, rfl, rfl, rfl⟩

theorem keeps_setClock (hT : within [.clock] T = true) (h : Keeps T s0 s) (x) : Keeps T s0 { s with clock := x } :=
  keeps_mk h fun y hy => by cases y <;> first
    | exact absurd (within_mem hT rfl) hy
    | exact rfl
    | exact ⟨rfl, rfl, rfl, rfl, rfl, rfl⟩

theorem keeps_setDev (hT : within [.dev] T = true) (h : Keeps T s0 s) (x) : Keeps T s0 { s with dev := x } :=
  keeps_mk h fun y hy => by cases y <;> first
    | exact absurd (within_mem hT rfl) hy
    | exact rfl
    | exact ⟨rfl, rfl, rfl, rfl, rfl, rfl⟩

theorem keeps_setFaults (hT : within [.faults] T = true) (h : Keeps T s0 s) (x) : Keeps T s0 { s with faults := x } :=
  keeps_mk h fun y hy => by cases y <;> first
    | exact absurd (within_mem hT rfl) hy
    | exact rfl
    | exact ⟨rfl, rfl, rfl, rfl, rfl, rfl⟩

theorem keeps_setDb (hT : within [.db] T = true) (h : Keeps T s0 s) (x) : Keeps T s0 { s with db := x } :=
  keeps_mk h fun y hy => by cases y <;> first
    | exact absurd (within_mem hT rfl) hy
    | exact rfl
    | exact ⟨rfl, rfl, rfl, rfl, rfl, rfl⟩

theorem keeps_setPorts (hT : within [.ports] T = true) (h : Keeps T s0 s) (x) : Keeps T s0 { s with ports := x } :=
  keeps_mk h fun y hy => by cases y <;> first
    | exact absurd (within_mem hT rfl) hy
    | exact rfl
    | exact ⟨rfl, rfl, rfl, rfl, rfl, rfl⟩

theorem keeps_setCmds (hT : within [.cmds] T = true) (h : Keeps T s0 s) (x) : Keeps T s0 { s with cmds := x } :=
  keeps_mk h fun y hy => by cases y <;> first
    | exact absurd (within_mem hT rfl) hy
    | exact rfl
    | exact ⟨rfl, rfl, rfl, rfl, rfl, rfl⟩

theorem keeps_setGraphs (hT : within [.graphs] T = true) (h : Keeps T s0 s) (x) : Keeps T s0 { s with graphs := x } :=
  keeps_mk h fun y hy => by cases y <;> first
    | exact absurd (within_mem hT rfl) hy
    | exact rfl
    | exact ⟨rfl, rfl, rfl, rfl, rfl, rfl⟩

theorem keeps_setCounts (hT : within [.counts] T = true) (h : Keeps T s0 s) (x) : Keeps T s0 { s with counts := x } :=
  keeps_mk h fun y hy => by cases y <;> first
    | exact absurd (within_mem hT rfl) hy
    | exact rfl
    | exact ⟨rfl, rfl, rfl, rfl, rfl, rfl⟩

theorem keeps_setComp (hT : within [.comp] T = true) (h : Keeps T s0 s) (x) : Keeps T s0 { s with comp := x } :=
  keeps_mk h fun y hy => by cases y <;> first
    | exact absurd (within_mem hT rfl) hy
    | exact rfl
    | exact ⟨rfl, rfl, rfl, rfl, rfl, rfl⟩

theorem keeps_setCairn (hT : within [.cairn] T = true) (h : Keeps T s0 s) (x) : Keeps T s0 { s with cairn := x } :=
  keeps_mk h fun y hy => by cases y <;> first
    | exact absurd (within_mem hT rfl) hy
    | exact rfl
    | exact ⟨rfl, rfl, rfl, rfl, rfl, rfl⟩

theorem keeps_setTherm (hT : within [.therm] T = true) (h : Keeps T s0 s) (x) : Keeps T s0 { s with therm := x } :=
  keeps_mk h fun y hy => by cases y <;> first
    | exact absurd (within_mem hT rfl) hy
    | exact rfl
    | exact ⟨rfl, rfl, rfl, rfl, rfl, rfl⟩

theorem keeps_setLocks (hT : within [.locks] T = true) (h : Keeps T s0 s) (x) : Keeps T s0 { s with locks := x } :=
  keeps_mk h fun y hy => by cases y <;> first
    | exact absurd (within_mem hT rfl) hy
    | exact rfl
    | exact ⟨rfl, rfl, rfl, rfl, rfl, rfl⟩

end

/-- An area that a list does not name is the same after an operation that keeps to the list. -/
theorem Keeps.same {T : List Area} {s t : State} (h : Keeps T s t) (x : Area) (hx : x ∉ T) : x.same s t := h.frame x hx

/-! ## Doorbells (R233, R209) -/

@[simp] theorem sendFrame_db (f : Frame) (s : State) : (sendFrame f s).db = s.db :=
  (sendFrame_keeps f (T := [.ports, .out]) rfl (Keeps.refl s)).same .db (by decide)

@[simp] theorem ringHost_db (bits : BitVec 32) (s : State) :
    (ringHost bits s).db = { s.db with hostStatus := s.db.hostStatus ||| bits } := by
  unfold ringHost sendDoorbellEvent
  dsimp only
  split
  · rfl
  · rw [sendFrame_db]

@[simp] theorem ringBit_db (i : Nat) (s : State) :
    (ringBit i s).db = { s.db with hostStatus := s.db.hostStatus ||| (1 <<< i) } := ringHost_db _ _

theorem ringBit_hostStatus_same (i : Nat) (hi : i < 32) (s : State) : (ringBit i s).db.hostStatus.getLsbD i = true := by
  have hpow : 2 ^ i < 4294967296 := Nat.pow_lt_pow_right (by omega) hi
  simp [hi, BitVec.getElem_eq_testBit_toNat, Nat.shiftLeft_eq, Nat.mod_eq_of_lt hpow]

/-! ## Faults (R450–R455) -/

@[simp] theorem collect_faults_entered (e : FaultInput) (s : State) :
    (collect e s).faults.entered = s.faults.entered + 1 := rfl

@[simp] theorem collect_faults_classes (e : FaultInput) (s : State) :
    (collect e s).faults.classes = tmod 0 s.faults.classes (classCode e.cls) (satInc 32) := rfl

theorem collect_faults_hist (e : FaultInput) (s : State) :
    (tget {} (collect e s).faults.hist (s.faults.entered % 16)).source = e.source := by
  simp [collect]

/-- The collector after a report: the event entered, and for class U the unit fenced. -/
theorem report_faults (e : FaultInput) (s : State) : (report e s).faults =
    { (collect e s).faults with fenced := match e.cls with
      | .u => setInsert (fenceKey e.source.toNat (coreOf e.source.toNat e.syndrome)) s.faults.fenced
      | _ => s.faults.fenced } := by
  have hnotice : ∀ (i : Nat) (first : Bool) (t : State), (faultNotice e i first t).faults = t.faults := fun i first t =>
    (faultNotice_keeps e i first (T := [.db, .ports, .cmds, .out]) rfl (Keeps.refl t)).same .faults (by decide)
  have htrig : ∀ (rep : Bool) (t : State), (faultTriggers e rep t).faults = t.faults := fun rep t =>
    (faultTriggers_keeps e rep (T := [.cairn]) rfl (Keeps.refl t)).same .faults (by decide)
  have hdeg : ∀ t : State, (refreshDegraded t).faults = t.faults := fun t =>
    (refreshDegraded_keeps (T := [.dev, .db, .ports, .cmds, .out]) rfl (Keeps.refl t)).same .faults (by decide)
  have henter : ∀ t : State, (enterFaulted t).faults = t.faults := fun t =>
    (enterFaulted_keeps (T := [.boot, .dev, .db, .ports, .cmds, .graphs, .cairn, .out]) rfl (Keeps.refl t)).same .faults
      (by decide)
  have hin : ∀ (c : Prop) [Decidable c] (i : Nat) (first : Bool),
      (if c then faultNotice e i first (collect e s) else collect e s).faults = (collect e s).faults := fun c _ i first => by
    split
    · exact hnotice i first _
    · rfl
  unfold report
  cases hcls : e.cls <;> simp only [hdeg, henter, fenceAdd, htrig, hin] <;> rfl

theorem report_entered (e : FaultInput) (s : State) : (report e s).faults.entered = s.faults.entered + 1 := by
  rw [report_faults, collect_faults_entered]

theorem report_classes (e : FaultInput) (s : State) :
    (report e s).faults.classes = tmod 0 s.faults.classes (classCode e.cls) (satInc 32) := by
  rw [report_faults, collect_faults_classes]

/-- Every report enters its event (R452–R454). -/
theorem faulted_report (src : Nat) (cls : FClass) (syn : BitVec 64) (resumed : Option (BitVec 32)) (forced : Bool) (s : State) :
    Faulted src cls s (report ⟨BitVec.ofNat 16 src, cls, syn, resumed, forced⟩ s) := by
  refine ⟨report_entered _ s, ?_, ?_⟩
  · rw [report_faults]
    exact collect_faults_hist _ s
  · rw [report_classes, tmod, tget_tset_self]

end Sys2Proof.Machine

/-!
PROOFS. Mailboxes, doorbells and locks (R223–R243).
-/

namespace Sys2Proof.Machine

/-! ## Channels -/

@[simp] theorem chanGet_chanSet_self (ch : MbxChan) (c : Channel) (s : State) : chanGet ch (chanSet ch c s) = c := by
  cases ch <;> simp [chanGet, chanSet]

theorem chanGet_chanSet_ne {ch other : MbxChan} (h : other ≠ ch) (c : Channel) (s : State) :
    chanGet other (chanSet ch c s) = chanGet other s := by
  cases ch <;> cases other <;> simp_all [chanGet, chanSet, tget_tset_ne]

theorem chanGet_congr {s t : State} (h : t.mbx = s.mbx) (ch : MbxChan) : chanGet ch t = chanGet ch s := by
  cases ch <;> simp [chanGet, h]

@[simp] theorem chanGet_emit (ch : MbxChan) (o : Output) (s : State) : chanGet ch (emit o s) = chanGet ch s :=
  chanGet_congr rfl ch

@[simp] theorem chanGet_ringBit (ch : MbxChan) (i : Nat) (s : State) : chanGet ch (ringBit i s) = chanGet ch s :=
  chanGet_congr ((ringBit_keeps i (T := [.db, .ports, .out]) rfl (Keeps.refl s)).same .mbx (by decide)) ch

@[simp] theorem chanSet_db (ch : MbxChan) (c : Channel) (s : State) : (chanSet ch c s).db = s.db := by
  cases ch <;> rfl

@[simp] theorem chanGet_ringParty (ch other : MbxChan) (s : State) : chanGet other (ringParty ch s) = chanGet other s :=
  chanGet_congr ((ringParty_keeps ch (T := [.db, .ports, .d2d, .out]) rfl (Keeps.refl s)).same .mbx (by decide)) other

/-- A stored word stands in the outbound mailbox, FULL, and is told as CROSS where the inbound one is FULL too. -/
theorem storeOut_spec (w : BitVec 64) (c : Channel) :
    (storeOut w c).outWord = w ∧ (storeOut w c).outFull = true ∧ (storeOut w c).innWord = c.innWord ∧
      (storeOut w c).innFull = c.innFull ∧
      (c.innFull = true → (storeOut w c).party.cross = true ∧ (storeOut w c).fw.cross = true) := by
  cases hfull : c.innFull <;> simp [storeOut, markCross, hfull]

theorem storeInn_spec (w : BitVec 64) (c : Channel) :
    (storeInn w c).innWord = w ∧ (storeInn w c).innFull = true := by
  cases hfull : c.outFull <;> simp [storeInn, markCross, hfull]

/-! ## Mailbox rows -/

theorem exec_mailboxWrite_party {m : Master} {ch : MbxChan} {secure : Bool} {s : State}
    (h : mbxOpen m ch secure s = true) (hm : m ≠ .firmware) (w : BitVec 64) :
    exec (.mailboxWrite ⟨m, secure⟩ ch w) s = .next (emit (.reply (partyPost ch w s).1 0) (partyPost ch w s).2) := by
  simp [exec, execMailboxWrite, h, hm]

theorem mbxOpen_secureHost {m : Master} {n : Nat} (h12 : 12 ≤ n) (h24 : n < 24) (hm : m = .cp0 ∨ m = .cp1) (s : State) :
    mbxOpen m (.host n) false s = false := by
  rcases hm with rfl | rfl <;> simp [mbxOpen, chanSecure, isPort, h12, h24]

theorem fwStatusWrite_drains {ch : MbxChan} {s : State} (h : (chanGet ch s).outFull = true) (v : BitVec 64) :
    let t := fwStatusWrite ch (v ||| 2) s
    (chanGet ch t).outFull = false ∧ (chanGet ch t).party.acked = true ∧ (chanGet ch t).outWord = (chanGet ch s).outWord ∧
      t.db = (fwDrain ch s).db := by
  cases ch <;> simp [fwStatusWrite, fwDrain, h]

theorem partyStatusWrite_drains {ch : MbxChan} {s : State} (h : (chanGet ch s).innFull = true) (v : BitVec 64) :
    let t := partyStatusWrite ch (v ||| 2) s
    (chanGet ch t).innFull = false ∧ (chanGet ch t).fw.acked = true ∧ (chanGet ch t).innWord = (chanGet ch s).innWord := by
  simp [partyStatusWrite, partyDrain, h]

theorem fwDrain_hostStatus {n : Nat} {s : State} (h : (chanGet (.host n) s).outFull = true) :
    (fwDrain (.host n) s).db.hostStatus = s.db.hostStatus ||| (1 <<< n) := by
  simp [fwDrain, h]

theorem exec_firmwareMailboxPost_empty {ch : MbxChan} {s : State} (hch : chanExists ch s = true) (hruns : fwRuns s = true)
    (hfrozen : s.cairn.frozen = false) (hfull : fwOutFull ch s = false) (hqueue : (chanGet ch s).queue = [])
    (w : BitVec 64) : exec (.firmwareMailboxPost ch (some w)) s =
      .next (ringParty ch (chanSet ch (storeInn w (chanGet ch s)) s)) := by
  simp [exec, execFirmwareMailboxPost, hch, hruns, hfrozen, hfull, hqueue, fwPost]

theorem exec_firmwareMailboxPost_full {ch : MbxChan} {s : State} (hch : chanExists ch s = true) (hruns : fwRuns s = true)
    (hfrozen : s.cairn.frozen = false) (hfull : fwOutFull ch s = true) (hroom : (chanGet ch s).queue.length < 16)
    (w : BitVec 64) : exec (.firmwareMailboxPost ch (some w)) s =
      .next (chanSet ch { chanGet ch s with queue := (chanGet ch s).queue ++ [w] } s) := by
  simp [exec, execFirmwareMailboxPost, hch, hruns, hfrozen, hfull, hroom]

/-- Settles O4: each row reaches its branch, and what the branch leaves of the channel is one update of it. -/
theorem mailboxRows : Obligations.MailboxRows := by
  refine ⟨fun m ch w secure s hopen hm hfull => ?_, fun m ch w secure s hopen hm hfull => ?_,
    fun n m w s h12 h24 hm => ?_, fun ch v secure s hch hfw hfull => ?_, fun m ch v secure s hopen hm hfull => ?_,
    fun n w s hn hruns hfrozen hfull hqueue => ?_, fun ch w s hch hruns hfrozen hfull hroom => ?_⟩
  · refine ⟨_, exec_mailboxWrite_party hopen hm w, ?_⟩
    have hframe := (emit_keeps (.reply (partyPost ch w s).1 0) (T := [.mbx, .out]) rfl
      (partyPost_keeps ch w rfl (Keeps.refl s))).frame
    rw [partyPost, if_neg (by simp [hfull])] at hframe ⊢
    obtain ⟨hword, hout, hinn, hinnFull, hcross⟩ := storeOut_spec w (chanGet ch s)
    simp only [chanGet_emit, chanGet_chanSet_self]
    refine ⟨hword, hout, hinn, hinnFull, hcross, ?_, hframe, fun other ho => chanGet_chanSet_ne ho _ _⟩
    cases ch <;> rfl
  · rw [exec_mailboxWrite_party hopen hm w, partyPost, if_pos hfull]
  · have hshut := mbxOpen_secureHost h12 h24 hm s
    have hfw : m ≠ .firmware := by rcases hm with rfl | rfl <;> decide
    have hport : isPort m = true := by rcases hm with rfl | rfl <;> rfl
    simp [exec, execMailboxWrite, hshut, hfw, mbxRefuse, chanSecure, h12, h24, hport, mbxAddr]
  · have hopen : mbxOpen .firmware ch secure s = true := by simp [mbxOpen, hch, masterReaches, isPort]
    obtain ⟨hout, hacked, hword, hdb⟩ := fwStatusWrite_drains hfull v
    refine ⟨fwStatusWrite ch (v ||| 2) s, by simp [exec, execMailboxDrain, hfw, hopen], hout, hacked, hword, fun n hn => ?_⟩
    subst hn
    rw [hdb, fwDrain_hostStatus hfull]
  · obtain ⟨hinn, hacked, hword⟩ := partyStatusWrite_drains hfull v
    exact ⟨partyStatusWrite ch (v ||| 2) s, by simp [exec, execMailboxDrain, hm, hopen], hinn, hacked, hword,
      (partyStatusWrite_keeps ch _ rfl (Keeps.refl s)).frame⟩
  · refine ⟨_, exec_firmwareMailboxPost_empty (by simp [chanExists, hn]) hruns hfrozen hfull hqueue w, ?_⟩
    obtain ⟨hword, hinn⟩ := storeInn_spec w (chanGet (.host n) s)
    rw [chanGet_ringParty, chanGet_chanSet_self]
    exact ⟨hword, hinn, by simp [ringParty], (ringBit_keeps n rfl (chanSet_keeps _ _ rfl (Keeps.refl s))).frame⟩
  · refine ⟨_, exec_firmwareMailboxPost_full hch hruns hfrozen hfull hroom w, ?_⟩
    rw [chanGet_chanSet_self]
    exact ⟨rfl, rfl, (chanSet_keeps _ _ rfl (Keeps.refl s)).frame⟩

/-! ## Doorbell rows (R233, R234, R508) -/

/-- One bit of DB_FW_RING as a frame with SECURE, or without it at an open bit, rings it. -/
theorem fwRingWrite_open {n : Nat} {secure : Bool} (hn : n < 26) (h : secure = true ∨ n < 12 ∨ n = 24) (s : State) :
    fwRingWrite (BitVec.ofNat 64 (2 ^ n)) secure s = (.ok, ringFw (1 <<< n) s) := by
  have hbit : ∀ n, n < 26 → (BitVec.ofNat 64 (2 ^ n)) >>> 26 = 0 ∧ (BitVec.ofNat 64 (2 ^ n)).setWidth 32 = 1 <<< n := by
    decide
  have hopen : ∀ n, n < 26 → n < 12 ∨ n = 24 → BitVec.ofNat 64 (2 ^ n) &&& ~~~ fwSecureBits = BitVec.ofNat 64 (2 ^ n) := by
    decide
  obtain ⟨hreserved, hwidth⟩ := hbit n hn
  have hbits : (if secure then BitVec.ofNat 64 (2 ^ n) else BitVec.ofNat 64 (2 ^ n) &&& ~~~ fwSecureBits) =
      BitVec.ofNat 64 (2 ^ n) := by
    cases secure with
    | true => rfl
    | false => exact hopen n hn (h.resolve_left (by decide))
  simp only [fwRingWrite, hreserved, hbits, hwidth]
  rfl

theorem ringFw_zero (s : State) : ringFw 0 s = s := by
  simp [ringFw]

theorem fwRingWrite_shut {n : Nat} (h12 : 12 ≤ n) (h24 : n < 24) (s : State) :
    fwRingWrite (BitVec.ofNat 64 (2 ^ n)) false s = (.ok, s) := by
  have hbit : ∀ n, n < 24 → 12 ≤ n → (BitVec.ofNat 64 (2 ^ n)) >>> 26 = 0 ∧
      (BitVec.ofNat 64 (2 ^ n) &&& ~~~ fwSecureBits).setWidth 32 = (0 : BitVec 32) := by
    decide
  obtain ⟨hreserved, hwidth⟩ := hbit n h24 h12
  simp only [fwRingWrite, hreserved, hwidth, ringFw_zero, Bool.false_eq_true, if_false]
  rfl

theorem hostEpochWrite_new {v : BitVec 64} {s : State} (h : v ≠ s.db.epoch) :
    let t := hostEpochWrite v s
    t.db.epoch = v ∧ t.db.fwStatus = s.db.fwStatus ||| (1 <<< 25) ∧ t.mbx.host = mapChans clearInn s.mbx.host ∧
      ∀ e ∈ t.locks, e.2.owner ≠ 2 ∧ e.2.owner ≠ 3 := by
  simp only [hostEpochWrite, h, if_false]
  refine ⟨rfl, rfl, rfl, fun e he => ?_⟩
  simp only [releaseLocks, List.mem_map] at he
  obtain ⟨x, -, rfl⟩ := he
  split
  · exact ⟨(by decide : (0 : BitVec 8) ≠ 2), (by decide : (0 : BitVec 8) ≠ 3)⟩
  · next hx => simpa using hx

theorem hostMaskWrite_mask (v : BitVec 64) (secure : Bool) (s : State) : (hostMaskWrite v secure s).db.hostMask =
    if secure then v.setWidth 32 else (v.setWidth 32 &&& ~~~ secureBits) ||| (s.db.hostMask &&& secureBits) := by
  have hsend : ∀ (c : Prop) [Decidable c] (b : BitVec 32) (t : State),
      (if c then t else sendDoorbellEvent b t).db = t.db := fun c _ b t => by
    split
    · rfl
    · exact sendFrame_db _ t
  exact congrArg Doorbells.hostMask (hsend _ _ _)

/-- The mask keeps the bits of a mask that a write leaves out. -/
theorem and_of_masked (a m b : BitVec 32) : ((a &&& ~~~ b) ||| (m &&& b)) &&& b = m &&& b := by
  ext i
  simp
  grind

/-! ## Locks (R240–R243) -/

theorem exec_lkLockRead {m : Master} {k : Nat} {secure : Bool} {s : State} (hk : k < 64)
    (h : lockDenied m k false secure s = false) :
    exec (.lkLockRead m k secure) s = .next (emit (.lock m k (lockRead m k s).1) (lockRead m k s).2) := by
  simp [exec, execLkLockRead, h, Nat.not_le.mpr hk]

theorem exec_lkLockWrite {m : Master} {k : Nat} {secure : Bool} {s : State} (hk : k < 64)
    (h : lockDenied m k true secure s = false) (v : BitVec 64) :
    exec (.lkLockWrite m k v secure) s = .next (emit (.reply .ok 0) (lockWrite m k v s)) := by
  simp [exec, execLkLockWrite, h, Nat.not_le.mpr hk]

theorem exec_lkLockRead_denied {m : Master} {k : Nat} {secure : Bool} {s : State} (hk : k < 64)
    (h : lockDenied m k false secure s = true) :
    exec (.lkLockRead m k secure) s = .next (emit (.reply .denied 0)
      (if isPort m then secureFault (masterPort m) (lockAddr k) 1 0 s else s)) := by
  simp [exec, execLkLockRead, h, Nat.not_le.mpr hk]

theorem lockWrite_ignored {m : Master} {k : Nat} {v : BitVec 64} {s : State}
    (h : (tget {} s.locks k).owner = 0 ∨ v.setWidth 8 ≠ (tget {} s.locks k).owner) :
    lockWrite m k v s = faultC 0xE004 (lockSyndrome k v (tget {} s.locks k).owner m) s := by
  unfold lockWrite
  exact if_neg (by tauto)

/-- The areas that a report may reach leave out the locks. -/
theorem faultC_locks (src syn : Nat) (s : State) : (faultC src syn s).locks = s.locks :=
  (faultC_keeps src syn (T := [.boot, .dev, .faults, .db, .ports, .cmds, .graphs, .cairn, .out]) rfl
    (Keeps.refl s)).same .locks (by decide)

/-- Settles O5: every write and read here is one update of the doorbells or of one lock, behind the check of who asks. -/
theorem doorbellAndLockRows : Obligations.DoorbellAndLockRows := by
  refine ⟨fun n a s hn hopen => ?_, fun n a s h12 h24 ha => ?_, fun a s ha => ?_, fun v a s ha hv => ?_, fun a s ha => ?_,
    fun v a s ha hstatus => ?_, fun v a s ha => ?_, fun v s hguest hv => ?_, fun m k secure s hk hd hfree => ?_,
    fun m k secure s hk hd hheld => ?_, fun m k v secure s hk hd hheld hown => ?_, fun m k v secure s hk hd hother => ?_,
    fun k s h48 hk => ?_, fun k secure s hk hgrant => ?_⟩
  · refine ⟨emit (.reply .ok 0) (ringFw (1 <<< n) s), ?_, rfl, rfl, (emit_keeps _ rfl (ringFw_keeps _ rfl
      (Keeps.refl s))).frame⟩
    simp only [exec, execDbFwRingChannel, fwRingWrite_open hn hopen]
  · refine ⟨emit (.reply .ok 0) s, ?_, rfl, (emit_keeps _ rfl (Keeps.refl s)).frame⟩
    simp only [exec, execDbFwRingChannel, ha, fwRingWrite_shut h12 h24]
  · refine ⟨emit (.reply .ok 0) (ringFw (1 <<< 25) s), ?_, rfl, (emit_keeps _ rfl (ringFw_keeps _ rfl
      (Keeps.refl s))).frame⟩
    simp only [exec, execDbFwRingHostEpoch, fwRingWrite_open (n := 25) (by decide) (Or.inl ha)]
  · obtain ⟨hepoch, hring, hmbx, hlocks⟩ := hostEpochWrite_new hv
    exact ⟨emit (.reply .ok 0) (hostEpochWrite v s), by simp [exec, execDbHostEpochWrite, ha], hepoch, hring, hmbx, hlocks,
      (emit_keeps _ rfl (hostEpochWrite_keeps v rfl (Keeps.refl s))).frame⟩
  · refine ⟨emit (.reply .ok 0) { s with cmds := { s.cmds with wdSince := s.clock.now, wdFired := false } }, ?_, rfl,
      (emit_keeps _ rfl (keeps_setCmds rfl (Keeps.refl s) _)).frame⟩
    simp [exec, execDbHostEpochWrite, ha, hostEpochWrite]
  · refine ⟨emit (.reply .ok 0) { s with db := { s.db with hostMask := v.setWidth 32 } }, ?_, rfl, rfl,
      (emit_keeps _ rfl (keeps_setDb rfl (Keeps.refl s) _)).frame⟩
    simp [exec, execDbHostMaskWrite, hostMaskWrite, ha, hstatus]
  · refine ⟨_, rfl, ?_, (emit_keeps _ rfl (hostMaskWrite_keeps v a.secure rfl (Keeps.refl s))).frame⟩
    change (hostMaskWrite v a.secure s).db.hostMask &&& secureBits = _
    rw [hostMaskWrite_mask, ha]
    exact and_of_masked _ _ _
  · exact ⟨ringFw (1 <<< 26) s, by simp [exec, execDbGuestRing, hguest, hv], rfl, (ringFw_keeps _ rfl (Keeps.refl s)).frame⟩
  · have hread : lockRead m k s = (lockWord 0 m (tget {} s.locks k).releasedByReset,
        { s with locks := tset {} s.locks k ⟨masterId m, false⟩ }) := if_pos hfree
    refine ⟨_, exec_lkLockRead hk hd, ?_⟩
    rw [hread]
    exact ⟨by simp [emit], rfl, fun j hj => tget_tset_ne _ _ _ _ _ hj,
      (emit_keeps _ rfl (keeps_setLocks rfl (Keeps.refl s) _)).frame⟩
  · have hread : lockRead m k s = (lockWord (tget {} s.locks k).owner m (tget {} s.locks k).releasedByReset, s) :=
      if_neg hheld
    refine ⟨_, exec_lkLockRead hk hd, ?_⟩
    rw [hread]
    exact ⟨rfl, (emit_keeps _ rfl (Keeps.refl s)).frame⟩
  · have hwrite : lockWrite m k v s = { s with locks := tset {} s.locks k {} } := if_pos ⟨hheld, hown⟩
    refine ⟨_, exec_lkLockWrite hk hd v, ?_⟩
    rw [hwrite]
    exact ⟨rfl, fun j hj => tget_tset_ne {} s.locks k j {} hj, (emit_keeps _ rfl (keeps_setLocks rfl (Keeps.refl s) _)).frame⟩
  · refine ⟨_, exec_lkLockWrite hk hd v, ?_⟩
    rw [lockWrite_ignored hother]
    refine ⟨faultC_locks _ _ s, report_entered _ s, ?_⟩
    change tget 0 (report _ s).faults.classes 0 = _
    rw [report_classes]
    exact tget_tset_self _ _ _ _
  · refine ⟨_, exec_lkLockRead_denied hk (by simp [lockDenied, isPort, h48]), ?_⟩
    rw [if_pos (show isPort .cp0 = true from rfl)]
    exact ⟨faultC_locks _ _ s, by simp [emit], report_entered _ s⟩
  · exact exec_lkLockRead_denied hk (by simp [lockDenied, hgrant])

end Sys2Proof.Machine

/-!
PROOFS. Control ports: the arrival of host frames (R206, R212–R220), the timers of the ports (R213, R214, R218), and the
states of a port (R204, R217).
-/

namespace Sys2Proof.Machine

/-! ## What sending leaves alone: everything of the ports but the sending side and the streams -/

/-- The ports with what a frame sent changes taken away: the streams of the lanes, the G2's own SEQ and the grant told. -/
def sentPorts (p : Ports) : Ports :=
  { p with cp0 := { p.cp0 with stream := [] }, cp1 := { p.cp1 with stream := [] }, devSeq := 0, creditSent := 0 }

theorem sentPorts_outFrame (f : Frame) (s : State) : sentPorts (outFrame f s).ports = sentPorts s.ports := by
  have hport : ∀ x : PortState, { onPort f x with stream := [] } = { x with stream := [] } := fun x => by
    unfold onPort
    split <;> rfl
  unfold outFrame
  split
  · simp only [sentPorts, emit, hport]
  · rfl

theorem sentPorts_sendFrame (f : Frame) (s : State) : sentPorts (sendFrame f s).ports = sentPorts s.ports :=
  sentPorts_outFrame _ _

theorem sentPorts_sendCredit (s : State) : sentPorts (sendCredit s).ports = sentPorts s.ports := sentPorts_outFrame _ _

theorem sentPorts_ringHost (bits : BitVec 32) (s : State) : sentPorts (ringHost bits s).ports = sentPorts s.ports := by
  unfold ringHost
  dsimp only
  split
  · rfl
  · exact sentPorts_sendFrame _ _

theorem sentPorts_ringBit (i : Nat) (s : State) : sentPorts (ringBit i s).ports = sentPorts s.ports := sentPorts_ringHost _ _

theorem sentPorts_notice (code : Nat) (detail : BitVec 32) (detail2 : BitVec 64) (s : State) :
    sentPorts (notice code detail detail2 s).ports = sentPorts s.ports := by
  unfold notice
  split
  · exact sentPorts_ringBit _ _
  · rfl

theorem sentPorts_setDev (d : DevState) (s : State) : sentPorts (setDev d s).ports = sentPorts s.ports := by
  unfold setDev
  split
  · rfl
  · exact sentPorts_notice _ _ _ _

theorem sentPorts_refreshDegraded (s : State) : sentPorts (refreshDegraded s).ports = sentPorts s.ports := by
  unfold refreshDegraded
  dsimp only
  split
  · rfl
  · exact sentPorts_notice _ _ _ _

theorem sentPorts_faultNotice (e : FaultInput) (i : Nat) (first : Bool) (s : State) :
    sentPorts (faultNotice e i first s).ports = sentPorts s.ports := by
  unfold faultNotice
  dsimp only
  split
  · exact sentPorts_ringBit _ _
  · exact sentPorts_ringBit _ _

theorem finish_ports (a : Accepted) (r : Res) (s : State) : (finish a r s).ports = s.ports :=
  (finish_keeps a r (T := [.cmds]) rfl (Keeps.refl s)).same .ports (by decide)

theorem sentPorts_enterFaulted (s : State) : sentPorts (enterFaulted s).ports = sentPorts s.ports := by
  have hfold : ∀ (l : List Accepted) (t : State),
      (l.foldl (fun t a => finish a { st := .aborted } t) t).ports = t.ports := fun l t =>
    (Keeps.foldl (T := [.cmds]) (Keeps.refl t) fun u a h => finish_keeps a _ rfl h).same .ports (by decide)
  unfold enterFaulted
  split
  · rfl
  · split
    · rfl
    · dsimp only
      rw [sentPorts_setDev]
      split
      · rw [hfold]
      · rfl

theorem sentPorts_report (e : FaultInput) (s : State) : sentPorts (report e s).ports = sentPorts s.ports := by
  have htrig : ∀ (rep : Bool) (t : State), (faultTriggers e rep t).ports = t.ports := fun rep t =>
    (faultTriggers_keeps e rep (T := [.cairn]) rfl (Keeps.refl t)).same .ports (by decide)
  have hin : ∀ (c : Prop) [Decidable c] (i : Nat) (first : Bool),
      sentPorts (if c then faultNotice e i first (collect e s) else collect e s).ports = sentPorts s.ports :=
    fun c _ i first => by
      split
      · exact sentPorts_faultNotice _ _ _ _
      · rfl
  unfold report
  cases e.cls <;> simp only [sentPorts_refreshDegraded, sentPorts_enterFaulted, fenceAdd, htrig, hin]

theorem sentPorts_faultC (src syn : Nat) (s : State) : sentPorts (faultC src syn s).ports = sentPorts s.ports :=
  sentPorts_report _ _

theorem sentPorts_faultCOpen (src : Nat) (s : State) : sentPorts (faultCOpen src s).ports = sentPorts s.ports :=
  sentPorts_report _ _

/-- The ports with the sending side taken away: what a frame sent changes, and the HWIN requests with the host's grant for
them. -/
def rxPorts (p : Ports) : Ports :=
  { sentPorts p with hwin := [], hwinWait := [], hwinSent := 0, hostCredit := 0 }

theorem rxPorts_of_sentPorts {p q : Ports} (h : sentPorts p = sentPorts q) : rxPorts p = rxPorts q := by
  rw [rxPorts, h, rxPorts]

theorem rxPorts_outFrame (f : Frame) (s : State) : rxPorts (outFrame f s).ports = rxPorts s.ports :=
  rxPorts_of_sentPorts (sentPorts_outFrame _ _)

theorem rxPorts_sendFrame (f : Frame) (s : State) : rxPorts (sendFrame f s).ports = rxPorts s.ports :=
  rxPorts_of_sentPorts (sentPorts_sendFrame _ _)

theorem rxPorts_sendCredit (s : State) : rxPorts (sendCredit s).ports = rxPorts s.ports :=
  rxPorts_of_sentPorts (sentPorts_sendCredit _)

theorem rxPorts_ringHost (bits : BitVec 32) (s : State) : rxPorts (ringHost bits s).ports = rxPorts s.ports :=
  rxPorts_of_sentPorts (sentPorts_ringHost _ _)

theorem rxPorts_ringBit (i : Nat) (s : State) : rxPorts (ringBit i s).ports = rxPorts s.ports :=
  rxPorts_of_sentPorts (sentPorts_ringBit _ _)

theorem rxPorts_notice (code : Nat) (detail : BitVec 32) (detail2 : BitVec 64) (s : State) :
    rxPorts (notice code detail detail2 s).ports = rxPorts s.ports :=
  rxPorts_of_sentPorts (sentPorts_notice _ _ _ _)

theorem rxPorts_setDev (d : DevState) (s : State) : rxPorts (setDev d s).ports = rxPorts s.ports :=
  rxPorts_of_sentPorts (sentPorts_setDev _ _)

theorem rxPorts_refreshDegraded (s : State) : rxPorts (refreshDegraded s).ports = rxPorts s.ports :=
  rxPorts_of_sentPorts (sentPorts_refreshDegraded _)

theorem rxPorts_faultNotice (e : FaultInput) (i : Nat) (first : Bool) (s : State) :
    rxPorts (faultNotice e i first s).ports = rxPorts s.ports :=
  rxPorts_of_sentPorts (sentPorts_faultNotice _ _ _ _)

theorem rxPorts_enterFaulted (s : State) : rxPorts (enterFaulted s).ports = rxPorts s.ports :=
  rxPorts_of_sentPorts (sentPorts_enterFaulted _)

theorem rxPorts_report (e : FaultInput) (s : State) : rxPorts (report e s).ports = rxPorts s.ports :=
  rxPorts_of_sentPorts (sentPorts_report _ _)

theorem rxPorts_faultC (src syn : Nat) (s : State) : rxPorts (faultC src syn s).ports = rxPorts s.ports :=
  rxPorts_of_sentPorts (sentPorts_faultC _ _ _)

theorem rxPorts_faultCOpen (src : Nat) (s : State) : rxPorts (faultCOpen src s).ports = rxPorts s.ports :=
  rxPorts_of_sentPorts (sentPorts_faultCOpen _ _)

theorem rxPorts_hwinIssue (q : HwinReq) (s : State) : rxPorts (hwinIssue q s).ports = rxPorts s.ports :=
  rxPorts_sendFrame _ _

theorem rxPorts_hwinPump (n : Nat) (s : State) : rxPorts (hwinPump n s).ports = rxPorts s.ports := by
  induction n generalizing s with
  | zero => rfl
  | succ n ih =>
    unfold hwinPump
    split
    · split
      · rw [ih, rxPorts_hwinIssue]
        rfl
      · rfl
    · rfl

theorem rxPorts_takeHostCredit (f : Frame) (s : State) : rxPorts (takeHostCredit f s).ports = rxPorts s.ports := by
  unfold takeHostCredit
  split
  · exact rxPorts_hwinPump _ _
  · rfl

/-- The fields that the sending side leaves out are the same where the rest of the ports is. -/
theorem portFields_of_rxPorts {p q : Ports} (h : rxPorts p = rxPorts q) :
    p.slots = q.slots ∧ p.highest = q.highest ∧ p.accepted = q.accepted ∧ p.acted = q.acted ∧ p.kept = q.kept ∧
      p.resync = q.resync ∧ p.credit = q.credit ∧ p.gap = q.gap ∧ p.requests = q.requests ∧ p.events = q.events ∧ p.skew = q.skew := by
  simp only [rxPorts, sentPorts, Ports.mk.injEq] at h
  tauto

/-- The HWIN requests and the host's grant for them are the same where nothing but frames was sent. -/
theorem hwinSide_of_sentPorts {p q : Ports} (h : sentPorts p = sentPorts q) :
    p.hwin = q.hwin ∧ p.hwinWait = q.hwinWait ∧ p.hwinSent = q.hwinSent ∧ p.hwinTag = q.hwinTag ∧
      p.hostCredit = q.hostCredit := by
  simp only [sentPorts, Ports.mk.injEq] at h
  tauto

/-- Which phase each port is in, whether it is stable, and which one is preferred. -/
def portLife (p : Ports) : (PortPhase × Bool) × (PortPhase × Bool) × Option Port :=
  ((p.cp0.phase, p.cp0.stable), (p.cp1.phase, p.cp1.stable), p.preferred)

theorem portLife_of_rxPorts {p q : Ports} (h : rxPorts p = rxPorts q) : portLife p = portLife q := by
  simp only [rxPorts, sentPorts, Ports.mk.injEq, PortState.mk.injEq] at h
  obtain ⟨⟨h0, -, h0s, -⟩, ⟨h1, -, h1s, -⟩, hpref, -⟩ := h
  simp only [portLife, h0, h0s, h1, h1s, hpref]

theorem copyHeld_of_portLife {s t : State} (h : portLife t.ports = portLife s.ports) (p : Port) :
    copyHeld p t = copyHeld p s := by
  simp only [portLife, Prod.mk.injEq] at h
  obtain ⟨⟨h0, -⟩, ⟨h1, -⟩, hpref⟩ := h
  simp only [copyHeld, h0, h1, hpref]

/-! ## The host's grant for HWIN requests (R215) -/

theorem hwinPump_hostCredit (n : Nat) (s : State) : (hwinPump n s).ports.hostCredit = s.ports.hostCredit := by
  have hout : ∀ f t, (outFrame f t).ports.hostCredit = t.ports.hostCredit := fun f t => by
    unfold outFrame
    split <;> rfl
  induction n generalizing s with
  | zero => rfl
  | succ n ih =>
    unfold hwinPump
    split
    · split
      · rw [ih]
        exact hout _ _
      · rfl
    · rfl

theorem takeHostCredit_grant {f : Frame} {s : State} (h : above f.credit s.ports.hostCredit = true) :
    (takeHostCredit f s).ports.hostCredit = f.credit := by
  rw [takeHostCredit, if_pos h, hwinPump_hostCredit]

theorem takeHostCredit_none_wait {f : Frame} {s : State} (h : s.ports.hwinWait = []) :
    takeHostCredit f s = if above f.credit s.ports.hostCredit then
      { s with ports := { s.ports with hostCredit := f.credit } } else s := by
  unfold takeHostCredit
  simp only [h]
  rfl

theorem takeHostCredit_devSeq {f : Frame} {s : State} (h : s.ports.hwinWait = []) :
    (takeHostCredit f s).ports.devSeq = s.ports.devSeq := by
  rw [takeHostCredit_none_wait h]
  split <;> rfl

theorem takeHostCredit_clock (f : Frame) (s : State) : (takeHostCredit f s).clock = s.clock :=
  (takeHostCredit_keeps f (T := [.ports, .out]) rfl (Keeps.refl s)).same .clock (by decide)

/-! ## Host frames as they arrive (R206, R212, R214) -/

theorem exec_hostFrameReceive {p : Port} {s : State} (h : hears p s = true) (f : Frame) :
    exec (.hostFrameReceive p f) s = .next (hostFrame p f s) := if_pos h

theorem exec_resync {p : Port} {f : Frame} {s : State} (h : hears p s = true) (h7 : f.type = 0x07) :
    exec (.resync p f) s = .next (hostFrame p f s) := by
  simp [exec, execResync, h, h7]

theorem exec_hostCreditFrame {p : Port} {f : Frame} {s : State} (h : hears p s = true) (h8 : f.type = 0x08) :
    exec (.hostCreditFrame p f) s = .next (hostFrame p f s) := by
  simp [exec, execHostCreditFrame, h, h8]

theorem hostFrame_badCrc {p : Port} {f : Frame} {s : State}
    (h : f.crc ≠ frameCrc f ∨ f.length.toNat ≠ f.payload.length) : hostFrame p f s = discard 0 s := if_pos h

theorem not_badCrc {f : Frame} (hcrc : f.crc = frameCrc f) (hlen : f.length.toNat = f.payload.length) :
    ¬ (f.crc ≠ frameCrc f ∨ f.length.toNat ≠ f.payload.length) := by simp [← hcrc, hlen]

theorem hostFrame_noSequence {p : Port} {f : Frame} {s : State} (hcrc : f.crc = frameCrc f)
    (hlen : f.length.toNat = f.payload.length) (h7 : f.type ≠ 0x07) (hhigh : s.ports.highest = none) :
    hostFrame p f s = discard 2 s := by
  rw [hostFrame, if_neg (not_badCrc hcrc hlen), if_neg h7, if_pos hhigh]

theorem hostFrame_noSlot {p : Port} {f : Frame} {s : State} (hcrc : f.crc = frameCrc f)
    (hlen : f.length.toNat = f.payload.length) (h7 : f.type ≠ 0x07) (h8 : f.type ≠ 0x08) (hresp : isHwinResp f = false)
    (hhigh : s.ports.highest ≠ none) (hclass : classify f.seq s = .fresh) (hfull : 512 ≤ slotsUsed s) :
    hostFrame p f s = portEvent 3 s := by
  rw [hostFrame, if_neg (not_badCrc hcrc hlen), if_neg h7, if_neg hhigh, if_neg h8, hclass]
  exact if_pos (by simp [hresp, hfull])

/-- Acceptance of a SEQ above the highest: it is recorded, and the first copy takes a slot. -/
theorem acceptFrame_above {p : Port} {f : Frame} {h : BitVec 32} {s : State} (hhigh : s.ports.highest = some h)
    (habove : above f.seq h = true) (hresp : isHwinResp f = false) :
    let t := acceptFrame p f s
    t.ports.highest = some f.seq ∧ (∃ x ∈ t.ports.accepted, x.seq = f.seq ∧ x.crc = f.crc ∧ x.port = p) ∧
      t.ports.requests = s.ports.requests + 1 := by
  refine ⟨?_, ⟨⟨f.seq, s.clock.now, f.crc, p⟩, ?_, rfl, rfl, rfl⟩, ?_⟩
  · simp [acceptFrame, recordSeq, trackGap, hhigh, habove]
  · simp [acceptFrame, recordSeq, trackGap, hhigh, habove]
    have := f.seq.isLt
    omega
  · simp [acceptFrame, recordSeq, trackGap, hresp]

/-! ## RESYNC (R218, R220) -/

theorem length_of_wellFormed {f : Frame} (h : frameWellFormed f = true) : f.length.toNat = f.payload.length := by
  simp only [frameWellFormed, Bool.and_eq_true, decide_eq_true_eq] at h
  tauto

theorem sendFrame_devSeq (f : Frame) (s : State) : (sendFrame f s).ports.devSeq = s.ports.devSeq + 1 := by
  unfold sendFrame outFrame
  dsimp only
  split <;> rfl

theorem doResync_spec (h : HeldFrame) (s : State) :
    let t := doResync h s
    t.ports.slots = [] ∧ t.ports.highest = some h.frame.seq ∧ t.ports.accepted.map (·.seq) = [h.frame.seq] ∧
      t.ports.acted = h.frame.seq ∧ t.ports.gap = none ∧ t.ports.resync = none ∧
      t.ports.credit = s.ports.credit + BitVec.ofNat 32 (slotsUsed s) + 1 ∧ t.ports.devSeq = s.ports.devSeq + 1 := by
  unfold doResync
  dsimp only
  obtain ⟨hslots, hhigh, hacc, hacted, -, hresync, hcredit, hgap, -⟩ := portFields_of_rxPorts (rxPorts_sendFrame _ _)
  exact ⟨hslots, hhigh, congrArg (List.map (·.seq)) hacc, hacted, hgap, hresync, hcredit, sendFrame_devSeq _ _⟩

/-- A RESYNC that is new as it arrives: its first copy is held, or acted on at once. -/
theorem hostFrame_newResync {p : Port} {f : Frame} {s : State} (h7 : f.type = 0x07) (hcrc : f.crc = frameCrc f)
    (hwell : frameWellFormed f = true) (hseen : resyncSeen f s = false)
    (hheld : ∀ h, s.ports.resync = some h → h.frame.seq ≠ f.seq) :
    let u := takeHostCredit f s
    hostFrame p f s = settleResync { u with ports := { u.ports with resync := some (firstCopy p f u) } } := by
  obtain ⟨-, -, -, -, hkept, hresync, -⟩ := portFields_of_rxPorts (rxPorts_takeHostCredit f s)
  have hseen' : resyncSeen f (takeHostCredit f s) = false := by rw [← hseen]; simp only [resyncSeen, keptOf, hkept]
  have hnone : ((takeHostCredit f s).ports.resync.filter fun h => h.frame.seq = f.seq) = none := by
    rw [hresync]
    cases hr : s.ports.resync with
    | none => rfl
    | some h => simp [hheld h hr]
  rw [hostFrame, if_neg (not_badCrc hcrc (length_of_wellFormed hwell)), if_pos h7, resyncArrives, hwell, hseen', hnone]
  rfl

theorem settleResync_waiting {h : HeldFrame} {s : State} (hr : s.ports.resync = some h) (hw : h.skewUntil ≠ none) :
    settleResync s = s := by
  simp [settleResync, hr, hw]

theorem settleResync_acts {h : HeldFrame} {s : State} (hr : s.ports.resync = some h) (hw : h.skewUntil = none) :
    settleResync s = doResync h s := by
  simp [settleResync, hr, hw]

/-- Settles O6: each arrival ends in its branch of `hostFrame`; what the host's grant for HWIN requests sends first is of
the sending side alone (`rxPorts_takeHostCredit`). -/
theorem hostFrames : Obligations.HostFrames := by
  refine ⟨fun p f s hh hbad => ?_, fun p f s hh hcrc hlen h7 hhigh => ?_,
    fun p f h s hh hcrc hlen h7 h8 hresp hhigh habove hnear hroom => ?_,
    fun p f h s hh hcrc hlen h7 h8 hresp hhigh habove hnear hfull => ?_,
    fun p f s hh h7 hcrc hwell hseen hfree hheld => ?_, fun p f s hh h7 hcrc hwell hseen hcopy hheld => ?_,
    fun p f s hh h8 hcrc hwell hhigh habove => ?_⟩
  · rw [exec_hostFrameReceive hh, hostFrame_badCrc hbad]
    rfl
  · refine ⟨_, exec_hostFrameReceive hh f, ?_⟩
    rw [hostFrame_noSequence hcrc hlen h7 hhigh]
    exact ⟨rfl, hhigh, rfl, (keeps_setPorts rfl (Keeps.refl s) _).frame⟩
  · have hrx := rxPorts_takeHostCredit f s
    obtain ⟨hslots, hhigh', -, -, -, -, -, -, hreq, -⟩ := portFields_of_rxPorts hrx
    obtain ⟨hhighest, haccepted, hrequests⟩ :=
      acceptFrame_above (p := p) (s := takeHostCredit f s) (hhigh'.trans hhigh) habove hresp
    refine ⟨_, exec_hostFrameReceive hh f, ?_⟩
    rw [hostFrame_fresh hcrc hlen h7 h8 (by simp [hhigh]) (classify_above hhigh habove hnear) hroom]
    refine ⟨hhighest, haccepted, ⟨firstCopy p f s, ?_, rfl, rfl, rfl⟩, hrequests.trans (by rw [hreq]),
      (acceptFrame_keeps p f rfl (takeHostCredit_keeps f rfl (Keeps.refl s))).frame⟩
    rw [acceptFrame_slots, hslots, (takeHostCredit_copySide p f f s).2]
  · refine ⟨_, exec_hostFrameReceive hh f, ?_⟩
    rw [hostFrame_noSlot hcrc hlen h7 h8 hresp (by simp [hhigh]) (classify_above hhigh habove hnear) hfull]
    exact ⟨hhigh, rfl, rfl, (keeps_setPorts rfl (Keeps.refl s) _).frame⟩
  · have hrx := rxPorts_takeHostCredit f s
    obtain ⟨hslots, -, -, -, -, -, hcredit, -⟩ := portFields_of_rxPorts hrx
    have hfree' := (copyHeld_of_portLife (portLife_of_rxPorts hrx) p).trans hfree
    have hfirst : (firstCopy p f (takeHostCredit f s)).skewUntil = none := by simp [firstCopy, hfree']
    refine ⟨_, exec_resync hh h7, ?_⟩
    rw [hostFrame_newResync h7 hcrc hwell hseen hheld, settleResync_acts rfl hfirst]
    obtain ⟨hs, hhigh, hacc, hact, hgap, hres, hcr, hdev⟩ := doResync_spec (firstCopy p f (takeHostCredit f s))
      { takeHostCredit f s with ports := { (takeHostCredit f s).ports with
          resync := some (firstCopy p f (takeHostCredit f s)) } }
    refine ⟨hs, hhigh, hacc, hact, hgap, hres, hcr.trans ?_, fun hw => hdev.trans ?_,
      (doResync_keeps _ rfl (keeps_setPorts rfl (takeHostCredit_keeps f rfl (Keeps.refl s)) _)).frame⟩
    · simp only [slotsUsed, hslots, hcredit]
    · exact congrArg (· + 1) (takeHostCredit_devSeq hw)
  · have hrx := rxPorts_takeHostCredit f s
    obtain ⟨hslots, hhigh, -, -, -, -, hcredit, -, -, -, hskew⟩ := portFields_of_rxPorts hrx
    have hcopy' := (copyHeld_of_portLife (portLife_of_rxPorts hrx) p).trans hcopy
    have hfirst : (firstCopy p f (takeHostCredit f s)).skewUntil = some (s.clock.now + s.ports.skew) := by
      simp [firstCopy, hcopy', hskew, takeHostCredit_clock]
    refine ⟨_, exec_resync hh h7, ?_⟩
    rw [hostFrame_newResync h7 hcrc hwell hseen hheld, settleResync_waiting rfl (by simp [hfirst])]
    exact ⟨hslots, hhigh, ⟨_, rfl, rfl, rfl, hfirst⟩, hcredit,
      (keeps_setPorts rfl (takeHostCredit_keeps f rfl (Keeps.refl s)) _).frame⟩
  · have hframe : hostFrame p f s = takeHostCredit f s := by
      rw [hostFrame, if_neg (not_badCrc hcrc (length_of_wellFormed hwell)), if_neg (by simp [h8]), if_neg hhigh, if_pos h8,
        if_pos hwell]
    refine ⟨_, exec_hostCreditFrame hh h8, ?_⟩
    rw [hframe]
    refine ⟨takeHostCredit_grant habove, (takeHostCredit_keeps f rfl (Keeps.refl s)).frame, fun hw => ?_⟩
    rw [takeHostCredit_none_wait hw, if_pos habove]

end Sys2Proof.Machine

/-!
PROOFS. The timers of the control ports (R213, R214, R218) and the states of a port (R204, R217).
-/

namespace Sys2Proof.Machine

/-! ## What leaves the phases of the ports alone -/

theorem portLife_doResync (h : HeldFrame) (s : State) : portLife (doResync h s).ports = portLife s.ports := by
  unfold doResync
  extract_lets f n ports s1 resp
  have hlife := portLife_of_rxPorts (rxPorts_sendFrame resp s1)
  exact hlife

theorem portLife_settleResync (s : State) : portLife (settleResync s).ports = portLife s.ports := by
  unfold settleResync
  split
  · split
    · exact portLife_doResync _ _
    · rfl
  · rfl

theorem portLife_settleHeld (s : State) : portLife (settleHeld s).ports = portLife s.ports := portLife_settleResync _

theorem portLife_ringBit (i : Nat) (s : State) : portLife (ringBit i s).ports = portLife s.ports :=
  portLife_of_rxPorts (rxPorts_ringBit i s)

/-- A move of preference leaves the phases, and the port preferred is the one R217 names. -/
theorem portLife_repref (s : State) :
    portLife (repref s).ports = ((portLife s.ports).1, (portLife s.ports).2.1, preferredNow s) := by
  unfold repref
  dsimp only
  split
  · next h => rw [h]; rfl
  · rw [portLife_settleHeld, portLife_ringBit]
    rfl

theorem portSt_of_portLife {s t : State} (h0 : (portLife t.ports).1 = (portLife s.ports).1)
    (h1 : (portLife t.ports).2.1 = (portLife s.ports).2.1) (p : Port) :
    (portSt p t).phase = (portSt p s).phase ∧ (portSt p t).stable = (portSt p s).stable := by
  simp only [portLife, Prod.mk.injEq] at h0 h1
  cases p
  · exact h0
  · exact h1

theorem portSt_of_rxPorts {s t : State} (h : rxPorts t.ports = rxPorts s.ports) (p : Port) :
    (portSt p t).phase = (portSt p s).phase ∧ (portSt p t).stable = (portSt p s).stable := by
  have hlife := portLife_of_rxPorts h
  exact portSt_of_portLife (by rw [hlife]) (by rw [hlife]) p

theorem portSt_repref (s : State) (p : Port) :
    (portSt p (repref s)).phase = (portSt p s).phase ∧ (portSt p (repref s)).stable = (portSt p s).stable := by
  have hlife := portLife_repref s
  exact portSt_of_portLife (by rw [hlife]) (by rw [hlife]) p

@[simp] theorem portSt_setPort_self (p : Port) (x : PortState) (s : State) : portSt p (setPort p x s) = x := by
  cases p <;> rfl

/-- The end of a change of state of a port: preference moves, the change is reported, and host doorbell bit 29 rings. -/
def portTold (p : Port) (s : State) : State := ringBit 29 (faultCOpen (portSource p) (repref s))

theorem portTold_spec (p : Port) (s : State) :
    (portSt p (portTold p s)).phase = (portSt p s).phase ∧ (portSt p (portTold p s)).stable = (portSt p s).stable ∧
      (portTold p s).faults.entered = s.faults.entered + 1 ∧ (portTold p s).db.hostStatus.getLsbD 29 = true := by
  obtain ⟨hphase, hstable⟩ := portSt_of_rxPorts (s := repref s) (t := portTold p s)
    ((rxPorts_ringBit _ _).trans (rxPorts_faultCOpen _ _)) p
  obtain ⟨hphase', hstable'⟩ := portSt_repref s p
  have hbell : ∀ (i : Nat) (t : State), (ringBit i t).faults = t.faults := fun i t =>
    (ringBit_keeps i (T := [.db, .ports, .out]) rfl (Keeps.refl t)).same .faults (by decide)
  have hrepref : (repref s).faults = s.faults :=
    (repref_keeps (T := [.db, .ports, .out]) rfl (Keeps.refl s)).same .faults (by decide)
  refine ⟨hphase.trans hphase', hstable.trans hstable', ?_, ringBit_hostStatus_same 29 (by decide) _⟩
  rw [portTold, hbell]
  refine (report_entered _ _).trans ?_
  exact congrArg (·.entered + 1) hrepref

theorem portDown_active {p : Port} {s : State} (h : (portSt p s).phase = .active) : portDown p s =
    portTold p (setPort p { portSt p s with phase := .down, stable := false, stream := [], received := [] } s) :=
  if_pos h

/-- A port that comes up is ACTIVE and not yet stable before it is told. -/
theorem portUp_told (p : Port) (s : State) : ∃ t, portUp p s = portTold p t ∧ (portSt p t).phase = .active ∧
    (portSt p t).stable = false := by
  have hcredit : ∀ t : State, rxPorts (sendCredit t).ports = rxPorts t.ports := rxPorts_sendCredit
  have hreturn : ∀ t : State, rxPorts (returnEvent t).ports = rxPorts t.ports := fun t => by
    unfold returnEvent
    dsimp only
    split
    · rfl
    · exact rxPorts_sendFrame _ _
  refine ⟨_, rfl, ?_⟩
  split
  · unfold firstCredit
    split
    · simp
    · obtain ⟨hphase, hstable⟩ := portSt_of_rxPorts (hcredit _) p
      rw [hphase, hstable]
      cases p <;> exact ⟨rfl, rfl⟩
  · split
    · obtain ⟨hphase, hstable⟩ := portSt_of_rxPorts (hreturn _) p
      rw [hphase, hstable]
      cases p <;> exact ⟨rfl, rfl⟩
    · simp

/-! ## Timers -/

theorem skewOver_waits {seq : BitVec 32} {now u : Nat} {h : HeldFrame} (hseq : (skewOver seq now h).frame.seq = seq)
    (hu : (skewOver seq now h).skewUntil = some u) : now < u := by
  cases hs : h.skewUntil with
  | none => simp [skewOver, hs] at hu
  | some t =>
    by_cases hc : h.frame.seq = seq ∧ t ≤ now
    · simp [skewOver, hs, hc] at hu
    · simp only [skewOver, hs, hc, if_false] at hseq hu
      cases hu
      exact Nat.lt_of_not_le fun hle => hc ⟨hseq, hle⟩

theorem outFrame_out_active {f : Frame} {s : State} (h : anyActive s = true) :
    (outFrame f s).out.length = s.out.length + 1 := by
  simp [outFrame, h, emit]

/-- Settles O8: the timers act on one field each and send at most one frame, and a port that changes its state is told by
`portTold`, which leaves the phases alone. -/
theorem controlPorts : Obligations.ControlPorts := by
  refine ⟨fun seq s hres => ?_, fun h u s hres hu hover => ?_, fun began s hgap hdue hopen => ?_,
    fun s hchanged hdue hactive => ?_, fun p s htrain hfenced hhalt hneg => ?_, fun p s hactive => ?_,
    fun p s hactive hstable hdue => ?_⟩
  · have hsettle : ∀ t : State, t.ports.resync = none → settleResync t = t := fun t ht => by simp [settleResync, ht]
    refine ⟨_, rfl, ?_⟩
    rw [hsettle _ (by simp [hres])]
    refine ⟨by simp, fun h hh hseq u hu => ?_, (keeps_setPorts rfl (Keeps.refl s) _).frame⟩
    obtain ⟨x, -, rfl⟩ := List.mem_map.mp hh
    exact skewOver_waits hseq hu
  · have hskew : skewOver h.frame.seq s.clock.now h = { h with skewUntil := none } := by simp [skewOver, hu, hover]
    refine ⟨_, rfl, ?_⟩
    rw [settleResync_acts (h := { h with skewUntil := none }) (by simp [hres, hskew]) rfl]
    obtain ⟨hslots, hhigh, -, hacted, -, hresync, -⟩ := doResync_spec { h with skewUntil := none }
      { s with ports := { s.ports with
          slots := s.ports.slots.map (skewOver h.frame.seq s.clock.now)
          resync := s.ports.resync.map (skewOver h.frame.seq s.clock.now) } }
    exact ⟨hslots, hresync, hhigh, hacted, (doResync_keeps _ rfl (keeps_setPorts rfl (Keeps.refl s) _)).frame⟩
  · have hexec : exec .gapTimerExpiry s = .next (sendGapEvent (s.ports.acted + 1)
        (portEvent 0 { s with ports := { s.ports with gap := some (began, some s.clock.now) } })) := by
      simp [exec, execGapTimerExpiry, hgap, hdue, hopen]
    refine ⟨_, hexec, ?_⟩
    obtain ⟨-, -, -, -, -, -, -, hg, -, hevents, -⟩ := portFields_of_rxPorts
      (rxPorts_sendFrame _ (portEvent 0 { s with ports := { s.ports with gap := some (began, some s.clock.now) } }))
    exact ⟨hg, hevents, sendFrame_devSeq _ _,
      (sendGapEvent_keeps _ rfl (portEvent_keeps 0 rfl (keeps_setPorts rfl (Keeps.refl s) _))).frame⟩
  · refine ⟨sendCredit s, if_pos ⟨hchanged, hdue, hactive⟩, ?_, ?_, outFrame_out_active hactive,
      (sendCredit_keeps rfl (Keeps.refl s)).frame⟩
    · simp [sendCredit, outFrame, carried, anyActive, emit] at hactive ⊢
      simp [hactive]
    · unfold sendCredit outFrame
      dsimp only
      split <;> rfl
  · refine ⟨portJoins p s, ?_, ?_⟩
    · simp [exec, execPortActive, htrain, hfenced, hhalt, hneg]
    · obtain ⟨t, htold, hphase, hstable⟩ := portUp_told p (portCarries (portChan p true) (portCarries (portChan p false)
        (linkSet (portLink p) { linkGet (portLink p) s with
          st := .active, stAt := s.clock.now, txActive := true, rxActive := true, txAt := none, rxAt := none
          returns := 0, bivouacs := 0, rxStripe := 0 } s)))
      obtain ⟨hp, hs, -, hbell⟩ := portTold_spec p t
      rw [portJoins, htold]
      exact ⟨hp.trans hphase, hs.trans hstable, hbell⟩
  · refine ⟨portDown p s, by simp [exec, execPortLockLoss, hactive], ?_⟩
    rw [portDown_active hactive]
    obtain ⟨hp, hs, hentered, hbell⟩ := portTold_spec p
      (setPort p { portSt p s with phase := .down, stable := false, stream := [], received := [] } s)
    rw [portSt_setPort_self] at hp hs
    exact ⟨hp, hs, hentered.trans (by cases p <;> rfl), hbell⟩
  · have hexec : exec (.portStableTimer p) s = .next (repref (setPort p { portSt p s with stable := true } s)) := by
      simp [exec, execPortStableTimer, hactive, hstable, hdue]
    refine ⟨_, hexec, ?_, fun hp => ?_, ((execPortStableTimer_keeps p rfl (Keeps.refl s)).out _ hexec).frame⟩
    · rw [(portSt_repref _ p).2, portSt_setPort_self]
    · subst hp
      have hpref := congrArg (fun x => x.2.2) (portLife_repref (setPort .cp0 { portSt .cp0 s with stable := true } s))
      refine hpref.trans ?_
      exact if_pos ⟨hactive, rfl⟩

end Sys2Proof.Machine

/-!
PROOFS. The requests of host frames, each answered once when its frame is the next to act on (R207, R208, R210, R213).
-/

namespace Sys2Proof.Machine

/-! ## The answer after an operation that leaves the receive side of the ports -/

theorem answered_of_rxPorts {s u : State} (hrx : rxPorts u.ports = rxPorts s.ports) (h : HeldFrame) (st : Status)
    (payload : List Byte) : Answered h.frame st payload s (answer h st payload u) := by
  obtain ⟨hacted, hcredit, hslots, hkept⟩ := answered_answer h st payload u
  obtain ⟨-, -, -, -, -, -, hsame, -⟩ := portFields_of_rxPorts hrx
  exact ⟨hacted, hsame ▸ hcredit, hslots, hkept⟩

theorem answer_same {x : Area} (hx : x ∉ [Area.ports, .out]) (h : HeldFrame) (st : Status) (payload : List Byte)
    (s : State) : x.same s (answer h st payload s) := (answer_keeps h st payload rfl (Keeps.refl s)).same x hx

theorem answer_mem (h : HeldFrame) (st : Status) (payload : List Byte) (s : State) : (answer h st payload s).mem = s.mem :=
  mem_eq_of_same (answer_same (by decide) h st payload s) (answer_same (by decide) h st payload s)

/-! ## Memory that is only read -/

theorem stackOf_congr {s t : State} (h : t.mem = s.mem) (a : Nat) : stackOf a t = stackOf a s := by
  change stackOf a { s with mem := t.mem } = _
  rw [h]

theorem stackDown_congr {s t : State} (h : t.mem = s.mem) (a : Nat) : stackDown a t = stackDown a s := by
  change stackDown a { s with mem := t.mem } = _
  rw [h]

theorem viewByte_congr {s t : State} (h : t.mem = s.mem) (a : Nat) : viewByte a t = viewByte a s := by
  change viewByte a { s with mem := t.mem } = _
  rw [h]

theorem viewBad_congr {s t : State} (h : t.mem = s.mem) (a : Nat) : viewBad a t = viewBad a s := by
  change viewBad a { s with mem := t.mem } = _
  rw [h]

theorem topOfDram_congr {s t : State} (h : t.mem = s.mem) : topOfDram t = topOfDram s := by
  simp only [topOfDram, h]

theorem peekByte_dram {a : Nat} {s : State} (h : a < topOfDram s) : peekByte a s = (viewByte a s, viewBad a s) := by
  simp [peekByte, place, h]

theorem report_mem (e : FaultInput) (s : State) : (report e s).mem = s.mem := by
  have hk := report_keeps e (T := [.boot, .dev, .faults, .db, .ports, .cmds, .graphs, .cairn, .out]) rfl (Keeps.refl s)
  exact mem_eq_of_same (hk.same .bytes (by decide)) (hk.same .memCtl (by decide))

theorem report_poisonNext (e : FaultInput) (s : State) : (report e s).faults.poisonNext = s.faults.poisonNext := by
  rw [report_faults]
  rfl

/-- What a read of lines that the decoder corrects leaves: memory, the forced events that wait, and the receive side of
the ports. -/
structure ReadQuiet (s t : State) : Prop where
  mem : t.mem = s.mem
  forced : t.faults.poisonNext = s.faults.poisonNext
  ports : rxPorts t.ports = rxPorts s.ports

theorem ReadQuiet.refl (s : State) : ReadQuiet s s := ⟨rfl, rfl, rfl⟩

theorem ReadQuiet.trans {s t u : State} (h : ReadQuiet s t) (k : ReadQuiet t u) : ReadQuiet s u :=
  ⟨k.mem.trans h.mem, k.forced.trans h.forced, k.ports.trans h.ports⟩

theorem readQuiet_of_keeps {s t : State} (h : Keeps [.counts] s t) : ReadQuiet s t where
  mem := mem_eq_of_same (h.same .bytes (by decide)) (h.same .memCtl (by decide))
  forced := congrArg Faults.poisonNext (h.same .faults (by decide))
  ports := congrArg rxPorts (h.same .ports (by decide))

theorem readQuiet_countStack (k i n : Nat) (s : State) : ReadQuiet s (countStack k i n s) :=
  readQuiet_of_keeps (countStack_keeps k i n rfl (Keeps.refl s))

theorem readQuiet_countLineRead (k : Nat) (r : Requester) (s : State) : ReadQuiet s (countLineRead k r s) :=
  readQuiet_of_keeps (countLineRead_keeps k r rfl (Keeps.refl s))

theorem readQuiet_report (e : FaultInput) (s : State) : ReadQuiet s (report e s) :=
  ⟨report_mem e s, report_poisonNext e s, rxPorts_report e s⟩

theorem readQuiet_decodeLine {b : BadSymbols} (hb : badLine b = false) (a k l kind : Nat) (s : State) :
    ReadQuiet s (decodeLine a k l kind b s) := by
  unfold decodeLine
  simp only [hb]
  split
  · contradiction
  · split
    · exact (readQuiet_report _ _).trans (readQuiet_countStack _ _ _ _)
    · exact .refl s

theorem foundIn_mem {a : Nat} {found : List (Nat × BadSymbols)} {b : BadSymbols} (h : foundIn a found = some b) :
    ∃ e ∈ found, e.2 = b := by
  obtain ⟨e, he, rfl⟩ := Option.map_eq_some_iff.mp h
  exact ⟨e, List.mem_of_find?_eq_some he, rfl⟩

theorem readQuiet_readLine {found : List (Nat × BadSymbols)} (hb : ∀ e ∈ found, badLine e.2 = false) (a : Nat)
    (r : Requester) (s : State) : ReadQuiet s (readLine a r found s) := by
  unfold readLine
  dsimp only
  split
  · next b hfound =>
    obtain ⟨e, he, rfl⟩ := foundIn_mem hfound
    split
    · exact readQuiet_countLineRead _ _ _
    · exact (readQuiet_countLineRead _ _ _).trans (readQuiet_decodeLine (hb e he) _ _ _ _ _)
  · exact readQuiet_countLineRead _ _ _

theorem recallLines_none {s : State} (h : s.mem.home = false ∨ s.mem.dir = []) (a n : Nat) : recallLines a n s = s := by
  rcases h with h | h <;> simp [recallLines, h]

theorem readQuiet_readLines {found : List (Nat × BadSymbols)} (hb : ∀ e ∈ found, badLine e.2 = false) {s : State}
    (h : s.mem.home = false ∨ s.mem.dir = []) (a n : Nat) (r : Requester) : ReadQuiet s (readLines a n r found s) := by
  unfold readLines
  rw [recallLines_none h]
  exact List.foldlRecOn (motive := ReadQuiet s) _ _ (.refl s) fun t ht l _ => ht.trans (readQuiet_readLine hb l r t)

/-- A read of lines of which none is named bad only counts. -/
theorem readLines_good_keeps {s : State} (h : s.mem.home = false ∨ s.mem.dir = []) (a n : Nat) (r : Requester)
    {T : List Area} (hT : within [.counts] T = true) : Keeps T s (readLines a n r [] s) := by
  unfold readLines
  rw [recallLines_none h]
  exact Keeps.foldl (Keeps.refl s) fun t l ht => countLineRead_keeps _ r hT ht

theorem forcedLines_none {s : State} (h : s.faults.poisonNext = []) (a n : Nat) : forcedLines a n s = ([], s) := by
  have hno : ∀ src, forcedD src 0 s = false := fun src => by simp [forcedD, h]
  have hchan : ∀ k ch, forcedChan k ch s = none := fun k ch => by simp [forcedChan, hno]
  unfold forcedLines
  refine List.foldlRecOn (motive := (· = ([], s))) _ _ rfl fun p hp l _ => ?_
  subst hp
  dsimp only
  rw [hchan]

/-- A bulk read of DRAM of which nothing is poisoned gives the bytes as a read finds them. -/
theorem bulkGet_clean {a n : Nat} {found : List (Nat × BadSymbols)} {s : State} (ha : a < topOfDram s)
    (hend : a + n ≤ topOfDram s) (hq : ReadQuiet s (readLines a n .host found s)) (hforced : s.faults.poisonNext = [])
    (hgood : ∀ x, a ≤ x → x < a + n → viewBad x s = false) :
    bulkGet a n found s = (viewBytes a n s, false, readLines a n .host found s) := by
  have hcells : ((List.range n).map fun i => peekByte (a + i) (readLines a n .host found s)) =
      (List.range n).map fun i => (viewByte (a + i) s, false) := by
    refine List.map_congr_left fun i hi => ?_
    have hi' := List.mem_range.mp hi
    rw [peekByte_dram (by rw [topOfDram_congr hq.mem]; omega), viewByte_congr hq.mem, viewBad_congr hq.mem,
      hgood _ (by omega) (by omega)]
  have hbad : ∀ g, ((((List.range n).map fun i => (viewByte (a + i) s, false)).drop (8 * g)).take 8).any (·.2) = false := by
    intro g
    rw [List.any_eq_false]
    intro q hq'
    obtain ⟨i, -, rfl⟩ := List.mem_map.mp (List.mem_of_mem_drop (List.mem_of_mem_take hq'))
    simp
  unfold bulkGet
  simp only [ha, if_true, forcedLines_none (hq.forced.trans hforced), hcells, hbad, viewBytes]
  refine Prod.ext ?_ (Prod.ext ?_ rfl)
  · rw [List.zip_map_right, List.map_map]
    refine List.ext_getElem (by simp) fun i hi hi' => ?_
    simp
  · simp

/-! ## Rows of requests -/

theorem bulkCheck_dram_end {a n : Nat} {write : Bool} {s : State} (ha : a < topOfDram s)
    (h : bulkCheck a n write s = none) : a + n ≤ topOfDram s := by
  by_contra hno
  simp [bulkCheck, place, ha, Nat.not_le.mp hno] at h

theorem bulkPut_dram {a : Nat} {s : State} (ha : a < topOfDram s) (bs : List Byte) : bulkPut a bs s =
    (spanLines a bs.length).foldl (fun t l => countStack (stackOf l t).1 1 1 t) (dramWriteBytes a bs s) := by
  simp [bulkPut, place, ha]

theorem foldl_countStack_keeps {T : List Area} {s0 s : State} (hT : within [.counts] T = true) (h : Keeps T s0 s)
    (l : List Nat) : Keeps T s0 (l.foldl (fun t l => countStack (stackOf l t).1 1 1 t) s) :=
  Keeps.foldl h fun _ _ ht => countStack_keeps _ 1 1 hT ht

theorem bulkPut_keeps_of_dramOpen {a : Nat} {bs : List Byte} {s : State} (ha : a < topOfDram s)
    (hopen : DramOpen a bs.length s) {T : List Area} (hT : within [.bytes, .counts] T = true) :
    Keeps T s (bulkPut a bs s) := by
  rw [bulkPut_dram ha]
  exact foldl_countStack_keeps (within_trans rfl hT)
    (dramWriteBytes_keeps_of_dramOpen hopen (within_trans rfl hT) (Keeps.refl s)) _

theorem stored_bulkPut {a : Nat} {bs : List Byte} {s : State} (ha : a < topOfDram s) (hopen : DramOpen a bs.length s) :
    Stored a bs s (bulkPut a bs s) := by
  rw [bulkPut_dram ha]
  have hk := foldl_countStack_keeps (T := [.counts]) rfl (Keeps.refl (dramWriteBytes a bs s)) (spanLines a bs.length)
  exact (stored_dramWriteBytes hopen).congr rfl (mem_eq_of_same (hk.same .bytes (by decide)) (hk.same .memCtl (by decide)))

theorem mboxPost_open {h : HeldFrame} {s : State} (hn : field h.frame.payload 0 1 < 12)
    (hflag : field h.frame.payload 1 1 = 1) (hzero : field h.frame.payload 2 6 = 0)
    (hfull : partyOutFull (.host (field h.frame.payload 0 1)) s = false) :
    mboxPost h s = (.ok, ringFw (1 <<< field h.frame.payload 0 1) (chanSet (.host (field h.frame.payload 0 1))
      (storeOut (BitVec.ofNat 64 (field h.frame.payload 8 8)) (chanGet (.host (field h.frame.payload 0 1)) s)) s)) := by
  have hchan : ¬ (24 ≤ field h.frame.payload 0 1 ∨ 1 < field h.frame.payload 1 1 ∨ field h.frame.payload 2 6 ≠ 0) := by
    omega
  have hsecure : ¬ (12 ≤ field h.frame.payload 0 1 ∧ (!(accessOf h).secure) = true) := by omega
  have hpost : ∀ w, partyPost (.host (field h.frame.payload 0 1)) w s = (.ok, chanSet (.host (field h.frame.payload 0 1))
      (storeOut w (chanGet (.host (field h.frame.payload 0 1)) s)) s) := fun w => if_neg (by simp [hfull])
  unfold mboxPost
  dsimp only
  rw [if_neg hchan, if_neg hsecure, hpost, if_pos ⟨rfl, hflag⟩]

theorem regWriteAt_hostEpoch (v : BitVec 64) (m : Master) (secure : Bool) (s : State) :
    regWriteAt 0x20020 v m secure s = (.ok, hostEpochWrite v s) := rfl

@[simp] theorem chanGet_ringFw (ch : MbxChan) (bits : BitVec 32) (s : State) : chanGet ch (ringFw bits s) = chanGet ch s :=
  chanGet_congr rfl ch

theorem hostRegRead_open {addr : Nat} {a : Access} (hb : badRegAddr addr = false)
    (hd : hostDenied (regOff addr) a.secure = none) (hblock : regBlock (regOff addr) ≠ 3) (type : Nat) (s : State) :
    hostRegRead addr type a s = (.ok, BitVec.ofNat 64 (regValue (regOff addr) a.secure s), s) := by
  rw [hostRegRead, hb, if_neg Bool.false_ne_true, hostRegReadAt, hd]
  dsimp only
  rw [if_neg (by simp [hblock]), if_neg (by simp [hblock])]

theorem execRegRead_answers (p : Port) {h : HeldFrame} {s t : State} {st : Status} {v : BitVec 64}
    (hh : isNext h.frame s = some h) (hf : h.frame.type = 0x01) (hwell : frameWellFormed h.frame = true)
    (hread : hostRegRead h.frame.address.toNat 1 (accessOf h) s = (st, v, t)) :
    execRegRead p h.frame s = .next (answer h st (leBytes 8 v.toNat) t) := by
  simp [execRegRead, hh, hf, hwell, hread]

/-- Settles O7: the frame that is next runs its row's effect and is answered, and none of these effects reaches the
receive side of the ports. -/
theorem hostRequestsAnswered : Obligations.HostRequestsAnswered := by
  refine ⟨fun p f s hf ⟨hwell, hn⟩ haddr hopen hblock => ?_, fun p f s hf ⟨hwell, hn⟩ haddr hopen hreg hsec => ?_,
    fun p f s hf ⟨hwell, hn⟩ hcheck haddr hring hdram => ?_, fun p f s hf ⟨hwell, hn⟩ hsec hring => ?_,
    fun p f s hf ⟨hwell, hn⟩ hcheck haddr hforced hhome hgood => ?_,
    fun p f found s hf ⟨hwell, hn⟩ hcheck haddr hforced hhome hgood hfound => ?_,
    fun p f s hf ⟨hwell, hn⟩ hchan hflag hzero hfull => ?_, fun p f s ⟨hwell, hn⟩ hf haddr => ?_⟩
  all_goals obtain ⟨h, hh, rfl⟩ := exists_held_of_isNext hn
  · have hread := hostRegRead_open (a := accessOf h) haddr hopen hblock 1 s
    refine ⟨_, ?_, answered_answer h .ok _ s, answer_onlyChanges h _ _ s⟩
    exact execRegRead_answers p hh hf hwell hread
  · have hwrite : hostRegWrite h.frame.address.toNat 2 (BitVec.ofNat 64 (leNat h.frame.payload)) (accessOf h) s =
        (.ok, hostEpochWrite (BitVec.ofNat 64 (leNat h.frame.payload)) s) := by
      rw [hostRegWrite_allowed haddr hopen, hreg, regWriteAt_hostEpoch]
    have hports : (hostEpochWrite (BitVec.ofNat 64 (leNat h.frame.payload)) s).ports = s.ports :=
      (hostEpochWrite_keeps _ (T := [.mbx, .db, .locks, .cmds]) rfl (Keeps.refl s)).same .ports (by decide)
    refine ⟨_, ?_, answered_of_rxPorts (congrArg rxPorts hports) h .ok [], ?_⟩
    · change execRegWrite p h.frame s = _
      simp [execRegWrite, hh, hf, hwell, hwrite]
    · have hdb := answer_same (x := .db) (by decide) h .ok [] (hostEpochWrite (BitVec.ofNat 64 (leNat h.frame.payload)) s)
      refine (congrArg Doorbells.epoch hdb).trans ?_
      by_cases hv : BitVec.ofNat 64 (leNat h.frame.payload) = s.db.epoch
      · simp [hostEpochWrite, hv]
      · exact (hostEpochWrite_new hv).1
  · have hk := bulkPut_keeps_of_dramOpen haddr hdram (T := [.bytes, .counts]) rfl
    have hno : ¬ ((!h.frame.fflags.getLsbD 0) && touchesSecureRing h.frame.address.toNat h.frame.payload.length s) = true := by
      rcases hring with hr | hr <;> simp [hr]
    refine ⟨answer h .ok [] (bulkPut h.frame.address.toNat h.frame.payload s), ?_,
      answered_of_rxPorts (congrArg rxPorts (hk.same .ports (by decide))) h .ok [],
      (stored_bulkPut haddr hdram).congr rfl (answer_mem _ _ _ _),
      (answer_keeps h .ok [] rfl (bulkPut_keeps_of_dramOpen haddr hdram rfl)).frame⟩
    change execBulkWrite p h.frame s = _
    simp only [execBulkWrite, hh, hf, hwell, if_neg hno, hcheck]
    rfl
  · refine ⟨answer h .denied [] (secureFault h.port h.frame.address.toNat 3 0 s), ?_,
      answered_of_rxPorts (rxPorts_report _ _) h .denied [], (answer_mem _ _ _ _).trans (report_mem _ _), ?_⟩
    · change execBulkWrite p h.frame s = _
      simp only [execBulkWrite, hh, hf, hwell, hsec, hring]
      rfl
    · exact (congrArg Faults.entered (answer_same (x := .faults) (by decide) h .denied [] _)).trans (report_entered _ s)
  · have hq := readQuiet_readLines (found := []) (by simp) hhome h.frame.address.toNat h.frame.arg.toNat .host
    have hget := bulkGet_clean haddr (bulkCheck_dram_end haddr hcheck) hq hforced hgood
    refine ⟨_, ?_, answered_of_rxPorts hq.ports h .ok _, (answer_keeps h .ok _ rfl
      (readLines_good_keeps hhome h.frame.address.toNat h.frame.arg.toNat .host rfl)).frame⟩
    change execBulkRead p ⟨h.frame, []⟩ s = _
    simp [execBulkRead, hh, hf, hwell, hcheck, hget]
  · have hq := readQuiet_readLines hfound hhome h.frame.address.toNat h.frame.arg.toNat .host
    have hget := bulkGet_clean haddr (bulkCheck_dram_end haddr hcheck) hq hforced hgood
    refine ⟨_, ?_, answered_of_rxPorts hq.ports h .ok _⟩
    change execBulkRead p ⟨h.frame, found⟩ s = _
    simp [execBulkRead, hh, hf, hwell, hcheck, hget]
  · have hpost := mboxPost_open hchan hflag hzero hfull
    have hk : Keeps [.mbx, .db, .ports, .out] s (mboxPost h s).2 := by
      rw [hpost]
      exact ringFw_keeps _ rfl (chanSet_keeps _ _ rfl (Keeps.refl s))
    have hports : (mboxPost h s).2.ports = s.ports := by
      rw [hpost]
      exact (ringFw_keeps _ (T := [.mbx, .db]) rfl (chanSet_keeps _ _ rfl (Keeps.refl s))).same .ports (by decide)
    have hmbx := answer_same (x := .mbx) (by decide) h .ok [] (mboxPost h s).2
    have hdb := answer_same (x := .db) (by decide) h .ok [] (mboxPost h s).2
    obtain ⟨hword, hout, -⟩ := storeOut_spec (BitVec.ofNat 64 (field h.frame.payload 8 8))
      (chanGet (.host (field h.frame.payload 0 1)) s)
    have hget : chanGet (.host (field h.frame.payload 0 1)) (answer h .ok [] (mboxPost h s).2) =
        storeOut (BitVec.ofNat 64 (field h.frame.payload 8 8)) (chanGet (.host (field h.frame.payload 0 1)) s) := by
      rw [chanGet_congr hmbx, hpost]
      dsimp only
      rw [chanGet_ringFw, chanGet_chanSet_self]
    refine ⟨answer h .ok [] (mboxPost h s).2, ?_, answered_of_rxPorts (congrArg rxPorts hports) h .ok [], ?_, ?_, ?_,
      (answer_keeps h .ok [] rfl hk).frame⟩
    · change execMboxPost p h.frame s = _
      simp [execMboxPost, hh, hf, hwell, hpost]
    · rw [hget, hword]
    · rw [hget, hout]
    · refine (congrArg Doorbells.fwStatus hdb).trans ?_
      rw [hpost]
      rfl
  · refine ⟨_, ?_, answered_answer h .badArgument _ s, answer_onlyChanges h _ _ s⟩
    have hread : hostRegRead h.frame.address.toNat 1 (accessOf h) s = (.badArgument, 0, s) := by
      simp [hostRegRead, haddr]
    change execRegRead p h.frame s = _
    simp [execRegRead, hh, hf, hwell, hread]

end Sys2Proof.Machine

/-!
PROOFS. Announcements and the taking of descriptors (R250–R252).
-/

namespace Sys2Proof.Machine

/-! ## The rings of the command interface -/

@[simp] theorem ringOf_setRing (q o : Queue) (r : CmdRing) (s : State) :
    ringOf o (setRing q r s) = if o = q then r else ringOf o s := by
  cases q <;> cases o <;> rfl

@[simp] theorem ringOf_touchSync (q : Queue) (s : State) : ringOf q (touchSync s) = ringOf q s := by
  cases q <;> rfl

@[simp] theorem setRing_held (q : Queue) (r : CmdRing) (s : State) : (setRing q r s).cmds.held = s.cmds.held := by
  cases q <;> rfl

@[simp] theorem touchSync_held (s : State) : (touchSync s).cmds.held = s.cmds.held := rfl

theorem ringOf_congr {s t : State} (h : t.cmds = s.cmds) (q : Queue) : ringOf q t = ringOf q s := by
  cases q <;> simp [ringOf, h]

/-- The end of a command takes it from its ring and leaves everything else of the rings. -/
theorem ringOf_finish (q : Queue) (a : Accepted) (r : Res) (s : State) : ringOf q (finish a r s) =
    if q = a.desc.queue then
      { ringOf q s with begun := dropCmd a (ringOf q s).begun, waiting := dropCmd a (ringOf q s).waiting }
    else ringOf q s := by
  unfold finish
  cases hq : a.desc.queue <;> cases q <;> dsimp only <;> split <;> rfl

theorem ringOf_finish_accepted (q : Queue) (a : Accepted) (r : Res) (s : State) :
    (ringOf q (finish a r s)).accepted = (ringOf q s).accepted := by
  rw [ringOf_finish]
  split <;> rfl

theorem ringOf_finish_ctotal (q : Queue) (a : Accepted) (r : Res) (s : State) :
    (ringOf q (finish a r s)).ctotal = (ringOf q s).ctotal := by
  rw [ringOf_finish]
  split <;> rfl

/-- The entry that ends a command is the last one held. -/
theorem finish_ends (a : Accepted) (r : Res) {s e : State} (he : e.cmds.held = s.cmds.held) :
    ∃ x ∈ (finish a r e).cmds.held.drop s.cmds.held.length, x.status = r.st :=
  ⟨{ completionOf a r e with dseq := e.cmds.made + 1 }, by simp [finish_held, he], rfl⟩

/-! ## Announcements (R250) -/

/-- The firmware has drained the word of a host channel; the command interface stands as it did. -/
theorem fwDrain_host_spec {ch : Nat} {s : State} (h : (tget {} s.mbx.host ch).outFull = true) :
    (tget {} (fwDrain (.host ch) s).mbx.host ch).outFull = false ∧ (fwDrain (.host ch) s).cmds = s.cmds ∧
      (fwDrain (.host ch) s).clock = s.clock ∧ fwRuns (fwDrain (.host ch) s) = fwRuns s := by
  have hk := fwDrain_keeps (.host ch) (T := [.mbx, .db, .ports, .out]) rfl (Keeps.refl s)
  have hboot : (fwDrain (.host ch) s).boot = s.boot := hk.same .boot (by decide)
  have hdev : (fwDrain (.host ch) s).dev = s.dev := hk.same .dev (by decide)
  have hfull : (chanGet (.host ch) s).outFull = true := h
  refine ⟨?_, hk.same .cmds (by decide), hk.same .clock (by decide), by simp only [fwRuns, hboot, hdev]⟩
  change (chanGet (.host ch) (fwDrain (.host ch) s)).outFull = false
  simp [fwDrain, hfull]

/-- The state in which an announcement is acted on: the word drained and the watchdog started again. -/
def announceStart (ch : Nat) (s : State) : State :=
  { fwDrain (.host ch) s with
    cmds := { (fwDrain (.host ch) s).cmds with wdSince := (fwDrain (.host ch) s).clock.now, wdFired := false } }

theorem exec_announcement {ch : Nat} {w : BitVec 64} {s : State} {q : Queue} {rest : List Queue} (hch : ch < 24)
    (hacts : fwActs s = true) (hfull : (tget {} s.mbx.host ch).outFull = true) (hw : (tget {} s.mbx.host ch).outWord = w)
    (hrings : ringsOn ch s = q :: rest) :
    exec (.announcement ch) s = .next (announce q ch w (fwDrain (.host ch) s)) := by
  have htake : takeAnnouncement ch s = announce q ch w (fwDrain (.host ch) s) := by
    unfold takeAnnouncement
    dsimp only
    rw [hfull, hw, hrings]
    rfl
  rw [← htake]
  exact if_pos (by simp [hch, hacts])

theorem ringsOn_congr {s t : State} (hq : ∀ q, (ringOf q t).enabled = (ringOf q s).enabled)
    (htaken : t.cmds.taken = s.cmds.taken) (ch : Nat) : ringsOn ch t = ringsOn ch s := by
  unfold ringsOn ringChannel
  simp only [hq, htaken]

/-- A word without a bit above 31 names the normal ring. -/
theorem announcement_plain {w : BitVec 64} (h : w >>> 32 = 0) : w >>> 33 = 0 ∧ w.getLsbD 32 = false := by
  have hn : w.toNat / 2 ^ 32 = 0 := by simpa [Nat.shiftRight_eq_div_pow] using congrArg BitVec.toNat h
  have hlt : w.toNat < 2 ^ 32 := by omega
  refine ⟨BitVec.eq_of_toNat_eq ?_, Nat.testBit_lt_two_pow hlt⟩
  simp [Nat.shiftRight_eq_div_pow]
  omega

/-- What a total that a channel may announce does to its ring. -/
def announceTotal (q : Queue) (total : BitVec 32) (s : State) : State :=
  if above (ringOf q s).ctotal total then s
  else if (ringTaken (queueRing q) s).2 < (total - (ringOf q s).ctotal).toNat then ringError (queueRing q) 5 s
  else setRing q { ringOf q s with ptotal := total } s

/-- The drained word names the normal ring, which the channel announces. -/
theorem announce_normal {ch : Nat} {w : BitVec 64} {s : State} (hw : w >>> 32 = 0)
    (hrings : (ringsOn ch s).contains .normal = true) (hnew : above s.cmds.nq.ctotal (w.setWidth 32) = false)
    (q : Queue) : announce q ch w (fwDrain (.host ch) s) =
      if (ringTaken .normal s).2 < (w.setWidth 32 - s.cmds.nq.ctotal).toNat then
        ringError .normal 5 (announceStart ch s)
      else setRing .normal { s.cmds.nq with ptotal := w.setWidth 32 } (announceStart ch s) := by
  have hcmds : (fwDrain (.host ch) s).cmds = s.cmds :=
    (fwDrain_keeps (.host ch) (T := [.mbx, .db, .ports, .out]) rfl (Keeps.refl s)).same .cmds (by decide)
  obtain ⟨h33, hbit⟩ := announcement_plain hw
  have hon : ringsOn ch (announceStart ch s) = ringsOn ch s :=
    ringsOn_congr (fun q => by cases q <;> simp [ringOf, announceStart, hcmds]) (by simp [announceStart, hcmds]) ch
  have hnq : ringOf .normal (announceStart ch s) = s.cmds.nq := by simp [ringOf, announceStart, hcmds]
  have htaken : ringTaken .normal (announceStart ch s) = ringTaken .normal s := by
    simp [ringTaken, announceStart, hcmds]
  have hgo : announce q ch w (fwDrain (.host ch) s) =
      if w >>> 33 != 0 then ringError (queueRing q) 7 (announceStart ch s)
      else if !(ringsOn ch (announceStart ch s)).contains (if w.getLsbD 32 then .urgent else .normal) then
        ringError (queueRing q) 6 (announceStart ch s)
      else announceTotal (if w.getLsbD 32 then .urgent else .normal) (w.setWidth 32) (announceStart ch s) := rfl
  rw [hgo, hbit, hon, if_neg (by simp [h33]), if_neg (by simpa using hrings), announceTotal, if_neg Bool.false_ne_true, hnq, hnew,
    if_neg Bool.false_ne_true]
  exact congrArg (fun n : Nat × Nat => ite (n.2 < _) _ _) htaken

theorem announceStart_spec {ch : Nat} {s : State} (h : (tget {} s.mbx.host ch).outFull = true) :
    (tget {} (announceStart ch s).mbx.host ch).outFull = false ∧
      (announceStart ch s).cmds = { s.cmds with wdSince := s.clock.now, wdFired := false } ∧
      fwRuns (announceStart ch s) = fwRuns s := by
  obtain ⟨hout, hcmds, hclock, hruns⟩ := fwDrain_host_spec h
  exact ⟨hout, by simp [announceStart, hcmds, hclock], hruns⟩

/-! ## Descriptors (R251, R252) -/

theorem exec_descriptorTake {q : Queue} {s : State} (hacts : fwActs s = true) (havail : available q s = true)
    (hurgent : q = .normal → available .urgent s = false) (hroom : s.cmds.held.length < 4096) :
    exec (.descriptorTake q) s = .next (takeDescriptor q (nextDescriptor q s) s) := by
  refine if_neg ?_
  cases q <;> simp [hacts, havail, hroom]
  exact hurgent rfl

/-- The firmware has read the descriptor at CTOTAL. -/
def descriptorRead (q : Queue) (s : State) : State :=
  touchSync (setRing q { ringOf q s with ctotal := (ringOf q s).ctotal + 1 } s)

/-- The descriptor read as the command that it spells. -/
def descriptorCommand (q : Queue) (s : State) : Accepted :=
  ⟨parseDescriptor q (ringSecure q s) (nextDescriptor q s), s.clock.now, s.cmds.orders⟩

@[simp] theorem descriptorRead_ring (q : Queue) (s : State) :
    ringOf q (descriptorRead q s) = { ringOf q s with ctotal := (ringOf q s).ctotal + 1 } := by
  simp [descriptorRead]

theorem descriptorRead_held (q : Queue) (s : State) : (descriptorRead q s).cmds.held = s.cmds.held := by
  simp [descriptorRead]

theorem takeDescriptor_badCrc {q : Queue} {s : State}
    (h : crc32c ((nextDescriptor q s).take 60) ≠ BitVec.ofNat 32 (field (nextDescriptor q s) 60 4)) :
    takeDescriptor q (nextDescriptor q s) s =
      finish (descriptorCommand q s) { st := .integrity } (descriptorRead q s) := if_pos h

theorem takeDescriptor_again {q : Queue} {s : State}
    (h : crc32c ((nextDescriptor q s).take 60) = BitVec.ofNat 32 (field (nextDescriptor q s) 60 4))
    (hseq : above (BitVec.ofNat 32 (field (nextDescriptor q s) 0 4)) (ringOf q s).accepted = false) :
    takeDescriptor q (nextDescriptor q s) s =
      finish (descriptorCommand q s) { st := .duplicate } (descriptorRead q s) := by
  have hdup : (!above (parseDescriptor q (ringSecure q s) (nextDescriptor q s)).hseq (ringOf q s).accepted) = true :=
    congrArg (!·) hseq
  exact (if_neg (not_not_intro h)).trans (if_pos hdup)

/-- The ring of a queue once the descriptor read has been accepted. -/
def acceptedRing (q : Queue) (s : State) : CmdRing :=
  { ringOf q s with
    ctotal := (ringOf q s).ctotal + 1, accepted := (descriptorCommand q s).desc.hseq,
    waiting := (ringOf q s).waiting ++ [descriptorCommand q s] }

/-- The descriptor read, accepted and waiting. -/
def descriptorWaits (q : Queue) (s : State) : State :=
  touchSync (setRing q (acceptedRing q s) (descriptorRead q s))

theorem takeDescriptor_accepted {q : Queue} {s : State}
    (h : crc32c ((nextDescriptor q s).take 60) = BitVec.ofNat 32 (field (nextDescriptor q s) 60 4))
    (hseq : above (BitVec.ofNat 32 (field (nextDescriptor q s) 0 4)) (ringOf q s).accepted = true)
    (hchecks : checks345 (parseDescriptor q (ringSecure q s) (nextDescriptor q s)) s = none) :
    takeDescriptor q (nextDescriptor q s) s =
      { descriptorWaits q s with
        cmds := { (descriptorWaits q s).cmds with orders := (descriptorWaits q s).cmds.orders + 1 } } := by
  have hnew : ¬ (!above (parseDescriptor q (ringSecure q s) (nextDescriptor q s)).hseq (ringOf q s).accepted) = true := by
    rw [show above (parseDescriptor q (ringSecure q s) (nextDescriptor q s)).hseq (ringOf q s).accepted = true from hseq]
    exact Bool.false_ne_true
  unfold takeDescriptor
  dsimp only
  rw [if_neg (not_not_intro h), if_neg hnew, hchecks]
  cases q <;> rfl

/-- Settles O11: the word names the normal ring and its total is held against the ring; a descriptor fails check 1 or 2,
which ends it without acceptance, or passes them all and waits. -/
theorem announcementAndDescriptorTake : Obligations.AnnouncementAndDescriptorTake := by
  refine ⟨fun ch w s hch hacts hfull hw h32 hrings hnew hfits => ?_,
    fun ch w s hch hacts hfull hw h32 hrings hnew hbig => ?_,
    fun q s hacts havail hurgent hroom hcrc hseq hchecks => ?_, fun q s hacts havail hurgent hroom hcrc => ?_,
    fun q s hacts havail hurgent hroom hcrc hseq => ?_⟩
  · cases hon : ringsOn ch s with
    | nil => simp [hon] at hrings
    | cons q rest =>
      have hgo := announce_normal h32 hrings hnew q
      rw [if_neg (by omega)] at hgo
      obtain ⟨hout, hcmds, -⟩ := announceStart_spec hfull
      have hrow := exec_announcement hch hacts hfull hw hon
      rw [hgo] at hrow
      exact ⟨_, hrow, rfl, rfl, hout, congrArg Cmds.wdSince hcmds, congrArg Cmds.wdFired hcmds,
        ((execAnnouncement_keeps ch rfl (Keeps.refl s)).out _ hrow).frame⟩
  · have hgo := announce_normal h32 (by rw [hrings]; rfl) hnew .normal
    rw [if_pos hbig] at hgo
    obtain ⟨-, hcmds, hruns⟩ := announceStart_spec hfull
    have hruns' := hruns.trans (fwRuns_of_fwActs hacts)
    obtain ⟨m, e, hc, -⟩ := notice_cmds hruns' 0xA (BitVec.ofNat 32 RingName.normal.code) (BitVec.ofNat 64 5)
    have hheld : s.cmds.held = (announceStart ch s).cmds.held := by rw [hcmds]
    have hrow := exec_announcement hch hacts hfull hw hrings
    rw [hgo] at hrow
    refine ⟨_, hrow, ?_, ?_⟩
    · rw [ringError, hc, hcmds]
    · exact (noticed_notice hruns' _ _ _).mono (hheld ▸ List.prefix_rfl) List.prefix_rfl
  all_goals have hrow := exec_descriptorTake hacts havail hurgent hroom
  · rw [takeDescriptor_accepted hcrc hseq hchecks] at hrow
    have hring : ringOf q (descriptorWaits q s) = acceptedRing q s := by simp [descriptorWaits]
    have hsame : ∀ n, ringOf q { descriptorWaits q s with cmds := { (descriptorWaits q s).cmds with orders := n } } =
        acceptedRing q s := fun n => by rw [← hring]; cases q <;> rfl
    refine ⟨_, hrow, ?_, ?_, ⟨descriptorCommand q s, ?_, rfl, rfl⟩, ?_,
      ((execDescriptorTake_keeps q rfl (Keeps.refl s)).out _ hrow).frame⟩
    · rw [hsame]; rfl
    · rw [hsame]; rfl
    · rw [hsame]; rfl
    · simp [descriptorWaits, descriptorRead_held]
  · rw [takeDescriptor_badCrc hcrc] at hrow
    exact ⟨_, hrow, by simp [ringOf_finish_ctotal], by simp [ringOf_finish_accepted],
      finish_ends _ _ (descriptorRead_held q s), ((execDescriptorTake_keeps q rfl (Keeps.refl s)).out _ hrow).frame⟩
  · rw [takeDescriptor_again hcrc hseq] at hrow
    exact ⟨_, hrow, by simp [ringOf_finish_accepted],
      finish_ends _ _ (descriptorRead_held q s), ((execDescriptorTake_keeps q rfl (Keeps.refl s)).out _ hrow).frame⟩

end Sys2Proof.Machine

/-!
PROOFS. The flow of commands: begin, completions, consumed counts, the watchdog, and the firmware's doorbell (R235, R247,
R253, R255, R256, R275, R516).
-/

namespace Sys2Proof.Machine

theorem Keeps.weaken {T U : List Area} {s t : State} (h : Keeps T s t) (hw : within T U = true) : Keeps U s t :=
  ⟨h.pending, h.mem, h.leaf, h.frame.weaken hw⟩

/-! ## The oldest waiting command begins (R247, R253) -/

theorem exec_commandBegin {q : Queue} {a : Accepted} {rest : List Accepted} {s : State} (hacts : fwActs s = true)
    (hwait : (ringOf q s).waiting = a :: rest) (hfence : fenceMet a s = true) :
    exec (.commandBegin q) s = .next (beginWith beginOf a (moveBegun q a s)) := by
  change execCommandBegin q s = _
  simp only [execCommandBegin, hacts, hwait, hfence]
  rfl

theorem exec_commandBegin_fenced {q : Queue} {a : Accepted} {rest : List Accepted} {s : State}
    (hwait : (ringOf q s).waiting = a :: rest) (hfence : fenceMet a s = false) :
    exec (.commandBegin q) s = .next s := by
  change execCommandBegin q s = _
  simp only [execCommandBegin, hwait, hfence]
  exact ite_self _

theorem legalNow_moveBegun (d : Descriptor) (q : Queue) (a : Accepted) (s : State) :
    legalNow d (moveBegun q a s) = legalNow d s := by
  cases q <;> rfl

@[simp] theorem ringOf_moveBegun (q : Queue) (a : Accepted) (s : State) : ringOf q (moveBegun q a s) =
    { ringOf q s with waiting := (ringOf q s).waiting.tail, begun := (ringOf q s).begun ++ [a] } := by
  simp [moveBegun]

@[simp] theorem moveBegun_held (q : Queue) (a : Accepted) (s : State) : (moveBegun q a s).cmds.held = s.cmds.held :=
  setRing_held _ _ _

/-- A command that has ended, in a state that held the same entries. -/
theorem completed_finish_command (a : Accepted) (r : Res) {s e : State} (he : e.cmds.held = s.cmds.held) :
    Completed a.desc.opcode a.desc r.st s (finish a r e) :=
  ⟨{ completionOf a r e with dseq := e.cmds.made + 1 }, by simp [finish_held, he], rfl, rfl, rfl, rfl⟩

theorem beginOf_watchdog {a : Accepted} (h : a.desc.opcode = 0x0106) (s : State) : beginOf a s = beginWatchdog a s := by
  unfold beginOf
  rw [h]
  rfl

theorem beginWatchdog_waiting (a : Accepted) (s : State) :
    (ringOf a.desc.queue (beginWatchdog a s)).waiting = dropCmd a (ringOf a.desc.queue s).waiting := by
  rw [beginWatchdog, ringOf_finish, if_pos rfl]
  cases a.desc.queue <;> rfl

theorem finish_watchdog (a : Accepted) (r : Res) (s : State) : (finish a r s).cmds.wdInterval = s.cmds.wdInterval ∧
    (finish a r s).cmds.wdPause = s.cmds.wdPause ∧ (finish a r s).cmds.wdSince = s.cmds.wdSince ∧
    (finish a r s).cmds.wdFired = s.cmds.wdFired := by
  unfold finish
  cases a.desc.queue <;> dsimp only <;> split <;> exact ⟨rfl, rfl, rfl, rfl⟩

/-! ## The oldest entry is posted (R254–R256) -/

@[simp] theorem leBytes_length (n v : Nat) : (leBytes n v).length = n := by
  induction n generalizing v with
  | zero => rfl
  | succ n ih => simp [leBytes, ih]

theorem entryBytes_length (e : Entry) : (entryBytes e).length = 64 := by
  simp [entryBytes, zeros]

/-- Where the completion ring holds an entry. -/
def entryAddr (e : Entry) (s : State) : Nat :=
  (ringTaken .completion s).1 + 64 * (e.dseq.toNat % (ringTaken .completion s).2)

theorem exec_completionPost {e : Entry} {rest : List Entry} {s : State} (hruns : fwRuns s = true)
    (hfrozen : s.cairn.frozen = false) (hheld : s.cmds.held = e :: rest) (hroom : ringRoom e s = true) :
    exec .completionPost s = .next (postEntry e rest s) := by
  change execCompletionPost s = _
  simp only [execCompletionPost, hruns, hfrozen, hheld, hroom]
  rfl

/-- The entry's bytes are in the ring and the entry is posted; its doorbell bit has not rung. -/
def entryPosted (e : Entry) (rest : List Entry) (s : State) : State :=
  touchSync { dramWriteBytes (entryAddr e s) (entryBytes e) s with
    cmds := { (dramWriteBytes (entryAddr e s) (entryBytes e) s).cmds with held := rest, posted := e.dseq } }

theorem postEntry_dram {e : Entry} (rest : List Entry) {s : State} (h : entryAddr e s < topOfDram s) :
    postEntry e rest s = if e.notice || e.silent then entryPosted e rest s else ringBit 27 (entryPosted e rest s) := by
  unfold postEntry entryPosted
  rw [← fwWrite_dram h]
  rfl

theorem entryPosted_keeps {e : Entry} (rest : List Entry) {s : State} (h : DramOpen (entryAddr e s) 64 s) :
    Keeps [.bytes, .cmds] s (entryPosted e rest s) :=
  touchSync_keeps rfl (keeps_setCmds rfl
    (dramWriteBytes_keeps_of_dramOpen (entryBytes_length e ▸ h) rfl (Keeps.refl s)) _)

theorem ringBit_mem (i : Nat) (s : State) : (ringBit i s).mem = s.mem := by
  have hframe := ringBit_keeps i (T := [.db, .ports, .out]) rfl (Keeps.refl s)
  exact mem_eq_of_same (hframe.same .bytes (by decide)) (hframe.same .memCtl (by decide))

theorem ringBit_cmds (i : Nat) (s : State) : (ringBit i s).cmds = s.cmds :=
  (ringBit_keeps i (T := [.db, .ports, .out]) rfl (Keeps.refl s)).same .cmds (by decide)

theorem stored_entryPosted {e : Entry} (rest : List Entry) {s : State} (h : DramOpen (entryAddr e s) 64 s) :
    Stored (entryAddr e s) (entryBytes e) s (entryPosted e rest s) :=
  (stored_dramWriteBytes (entryBytes_length e ▸ h)).congr rfl rfl

/-! ## The watchdog (R275, R516) -/

theorem exec_watchdogExpiry {s : State} (hacts : fwActs s = true) (hout : watchOut s = true) :
    exec .watchdogExpiry s =
      let s2 := cairnFire 2 0 (notice 9 (s.cmds.wdInterval.setWidth 32) (BitVec.ofNat 64 (bit s.cmds.wdPause))
        { s with cmds := { s.cmds with wdFired := true } })
      .next (if s.cmds.wdPause then pauseAll s2 else s2) := by
  change execWatchdogExpiry s = _
  simp only [execWatchdogExpiry, hacts, hout]
  rfl

theorem exec_watchdogExpiry_fired {s : State} (h : s.cmds.wdFired = true) : exec .watchdogExpiry s = .next s := by
  change execWatchdogExpiry s = _
  simp [execWatchdogExpiry, watchOut, h]

/-- The silent spell has been told: a notice is held, the watchdog has fired, and Cairn's trigger has been given. -/
def watchdogTold (s : State) : State :=
  cairnFire 2 0 (notice 9 (s.cmds.wdInterval.setWidth 32) (BitVec.ofNat 64 (bit s.cmds.wdPause))
    { s with cmds := { s.cmds with wdFired := true } })

theorem watchdogTold_spec {s : State} (h : fwRuns s = true) : (watchdogTold s).cmds.wdFired = true ∧
    Noticed 9 (s.cmds.wdInterval.setWidth 32) (BitVec.ofNat 64 (bit s.cmds.wdPause)) s (watchdogTold s) ∧
    (watchdogTold s).graphs = s.graphs := by
  have hfire : ∀ t : State, (cairnFire 2 0 t).cmds = t.cmds := fun t =>
    (cairnFire_keeps 2 0 (T := [.cairn]) rfl (Keeps.refl t)).same .cmds (by decide)
  have hruns : fwRuns { s with cmds := { s.cmds with wdFired := true } } = true := h
  obtain ⟨m, e, hc, hnotice⟩ := notice_cmds hruns 9 (s.cmds.wdInterval.setWidth 32) (BitVec.ofNat 64 (bit s.cmds.wdPause))
  have hcmds := (hfire _).trans hc
  refine ⟨congrArg Cmds.wdFired hcmds, ⟨e, ?_, hnotice⟩, ?_⟩
  · rw [watchdogTold, hcmds]
    simp
  · exact (cairnFire_keeps 2 0 (T := [.db, .ports, .cmds, .cairn, .out]) rfl
      (notice_keeps _ _ _ rfl (keeps_setCmds rfl (Keeps.refl s) _))).same .graphs (by decide)

/-! ## Every running graph pauses (R269, R275) -/

theorem slotGet_slotSet_self (i : Nat) (g : Graph) (s : State) : slotGet i (slotSet i g s) = g := by
  simp [slotGet, slotSet]

theorem slotGet_slotSet_ne {i j : Nat} (h : j ≠ i) (g : Graph) (s : State) : slotGet j (slotSet i g s) = slotGet j s :=
  tget_tset_ne _ _ _ _ _ h

/-- The handle of a graph names its slot. -/
theorem graphAt_eq_some {h : BitVec 32} {s : State} {i : Nat} {g : Graph} (hg : graphAt h s = some (i, g)) :
    i = h.toNat % 64 ∧ g = slotGet i s := by
  unfold graphAt at hg
  dsimp only at hg
  split at hg
  · cases hg; exact ⟨rfl, rfl⟩
  · cases hg

/-- A PAUSE or ABORT that begins is noted at the graph that its handle names, behind those noted before. -/
theorem slotGet_startEnding (a : Option Accepted) (abort : Bool) (h : BitVec 32) (i : Nat) (s : State) :
    ∃ l, slotGet i (startEnding a abort h s) = { slotGet i s with ending := (slotGet i s).ending ++ l } ∧
      (graphAt h s = some (i, slotGet i s) → l = [(a, abort)]) := by
  unfold startEnding
  split
  · next j g hg =>
    obtain ⟨-, hslot⟩ := graphAt_eq_some hg
    by_cases hi : i = j
    · subst hi hslot
      exact ⟨_, slotGet_slotSet_self _ _ _, fun _ => rfl⟩
    · refine ⟨[], by simp [slotGet_slotSet_ne hi], fun hh => ?_⟩
      rw [hg, Option.some.injEq, Prod.mk.injEq] at hh
      exact absurd hh.1.symm hi
  · next hg => exact ⟨[], by simp, fun hh => absurd (hg.symm.trans hh) (by simp)⟩

/-- A handle finds its graph again where only the endings of its slot have grown. -/
theorem graphAt_of_ending {h : BitVec 32} {s t : State} {i : Nat} {g : Graph} (hg : graphAt h s = some (i, g))
    (hslot : ∃ l, slotGet i t = { slotGet i s with ending := l }) : graphAt h t = some (i, slotGet i t) := by
  obtain ⟨l, hl⟩ := hslot
  obtain ⟨rfl, -⟩ := graphAt_eq_some hg
  unfold graphAt at hg ⊢
  dsimp only at hg ⊢
  rw [hl]
  split at hg
  · next hc => exact if_pos hc
  · cases hg

/-- PAUSE of every handle of a list begins. -/
theorem pause_foldl_ending {i : Nat} {g : Graph} (hs : List (BitVec 32)) (s : State) :
    ∃ l, slotGet i (hs.foldl (fun t h => startEnding none false h t) s) =
        { slotGet i s with ending := (slotGet i s).ending ++ l } ∧
      ∀ h ∈ hs, graphAt h s = some (i, g) → (none, false) ∈ l := by
  induction hs generalizing s g with
  | nil => exact ⟨[], by simp, by simp⟩
  | cons h hs ih =>
    obtain ⟨l1, hl1, hmine⟩ := slotGet_startEnding none false h i s
    obtain ⟨l2, hl2, hrest⟩ := ih (g := slotGet i (startEnding none false h s)) (startEnding none false h s)
    refine ⟨l1 ++ l2, by simp [hl2, hl1], fun k hk hg => ?_⟩
    obtain ⟨-, rfl⟩ := graphAt_eq_some hg
    rcases List.mem_cons.mp hk with rfl | hk
    · exact List.mem_append_left _ (by simp [hmine hg])
    · exact List.mem_append_right _ (hrest k hk (graphAt_of_ending hg ⟨_, hl1⟩))

theorem pauseAll_ending {h : BitVec 32} {s : State} {i : Nat} {g : Graph} (hh : h ∈ handlesIn (· = .running) s)
    (hg : graphAt h s = some (i, g)) : (none, false) ∈ (slotGet i (pauseAll s)).ending := by
  obtain ⟨l, hl, hin⟩ := pause_foldl_ending (handlesIn (· = .running) s) s
  rw [pauseAll, hl]
  exact List.mem_append_right _ (hin h hh hg)

/-! ## The firmware's doorbell (R235) -/

/-- What stands in the firmware's side of the doorbells. -/
def fwSide (s : State) : Doorbells := { s.db with hostStatus := 0 }

@[simp] theorem fwSide_ringBit (i : Nat) (s : State) : fwSide (ringBit i s) = fwSide s := by
  simp only [fwSide, ringBit_db]

theorem fwSide_of_db {s t : State} (h : t.db = s.db) : fwSide t = fwSide s := by
  rw [fwSide, h, fwSide]

theorem fwSide_notice (code : Nat) (detail : BitVec 32) (detail2 : BitVec 64) (s : State) :
    fwSide (notice code detail detail2 s) = fwSide s := by
  have hentry : fwSide (noticeEntry code detail detail2 s) = fwSide s :=
    fwSide_of_db ((noticeEntry_keeps code detail detail2 (T := [.cmds]) rfl (Keeps.refl s)).same .db (by decide))
  unfold notice
  split
  · rw [fwSide_ringBit, hentry]
  · rfl

theorem fwSide_fwDrain (ch : MbxChan) (s : State) : fwSide (fwDrain ch s) = fwSide s := by
  unfold fwDrain
  cases ch <;> dsimp only <;> split
  · rw [fwSide_ringBit, fwSide_of_db (chanSet_db _ _ _)]
  · rfl
  · exact fwSide_of_db (chanSet_db _ _ _)
  · rfl

theorem fwSide_announce (q : Queue) (ch : Nat) (w : BitVec 64) (s : State) : fwSide (announce q ch w s) = fwSide s := by
  have hset : ∀ (o : Queue) (r : CmdRing) (t : State), fwSide (setRing o r t) = fwSide t := fun o r t =>
    fwSide_of_db ((setRing_keeps o r (T := [.cmds]) rfl (Keeps.refl t)).same .db (by decide))
  have herr : ∀ (r : RingName) (n : Nat) (t : State), fwSide (ringError r n t) = fwSide t := fun r n t =>
    fwSide_notice _ _ _ t
  unfold announce
  extract_lets c s0 named total r
  change _ = fwSide s0
  split
  · exact herr _ _ _
  split
  · exact herr _ _ _
  split
  · rfl
  split
  · exact herr _ _ _
  · exact hset _ _ _

theorem fwSide_takeAnnouncement (ch : Nat) (s : State) : fwSide (takeAnnouncement ch s) = fwSide s := by
  unfold takeAnnouncement
  dsimp only
  split
  · rfl
  · split
    · exact fwSide_fwDrain _ s
    · rw [fwSide_announce, fwSide_fwDrain]

theorem fwSide_ringTake (r : RingName) (s : State) : fwSide (ringTake r s) = fwSide s := by
  have hon : ∀ (on : Bool) (t : State), fwSide (ringEnable r on t) = fwSide t := fun on t => by cases r <;> rfl
  unfold ringTake
  split
  · exact hon _ _
  · split
    · rw [hon]; rfl
    · rw [ringError, fwSide_notice, hon]

theorem fwSide_takeRings (s : State) : fwSide (takeRings s) = fwSide s := by
  simp only [takeRings, fwSide_ringTake]
  rfl

/-- The firmware's side of the doorbells once a bit is handled: the bit is cleared, and HOST_EPOCH has noted the epoch. -/
theorem fwSide_fwBitHandle (i : Nat) (s : State) : fwSide (fwBitHandle i s) =
    { fwSide s with
      fwStatus := s.db.fwStatus &&& ~~~ ((1 : BitVec 32) <<< i)
      epochSeen := if i = 25 then s.db.epoch else s.db.epochSeen } := by
  have hguest : ∀ t : State, fwSide ((List.range 4).foldl (fun t g => fwDrain (.guest g) t) t) = fwSide t := fun t =>
    List.foldlRecOn (motive := (fwSide · = fwSide t)) _ _ rfl fun u hu g _ => (fwSide_fwDrain _ u).trans hu
  unfold fwBitHandle
  dsimp only
  by_cases h24 : i < 24
  · rw [if_pos h24, fwSide_takeAnnouncement, if_neg (by omega)]
    rfl
  by_cases h24' : i = 24
  · rw [if_neg h24, if_pos h24', fwSide_takeRings, if_neg (by omega)]
    rfl
  by_cases h25 : i = 25
  · rw [if_neg h24, if_neg h24', if_pos h25, if_pos h25]
    rfl
  · rw [if_neg h24, if_neg h24', if_neg h25, if_neg h25]
    split
    · rw [hguest]; rfl
    · rfl

/-- What one bit's turn does to the doorbell. -/
theorem fwBitStep_spec (i : Nat) (s : State) :
    (fwBitStep s i).db.fwMask = s.db.fwMask ∧ (fwBitStep s i).db.epoch = s.db.epoch ∧
      (∀ j, (fwBitStep s i).db.fwStatus.getLsbD j = (s.db.fwStatus.getLsbD j && !(j == i && !s.db.fwMask.getLsbD i))) ∧
      (fwBitStep s i).db.epochSeen =
        if i = 25 ∧ s.db.fwStatus.getLsbD 25 = true ∧ s.db.fwMask.getLsbD 25 = false then s.db.epoch
        else s.db.epochSeen := by
  unfold fwBitStep
  split
  · next h =>
    obtain ⟨hset, hmask⟩ : s.db.fwStatus.getLsbD i = true ∧ s.db.fwMask.getLsbD i = false := by simpa using h
    have hside := fwSide_fwBitHandle i s
    have hstatus := congrArg Doorbells.fwStatus hside
    refine ⟨(congrArg Doorbells.fwMask hside :), (congrArg Doorbells.epoch hside :), fun j => ?_,
      (congrArg Doorbells.epochSeen hside :).trans ?_⟩
    · rw [show (fwBitHandle i s).db.fwStatus = s.db.fwStatus &&& ~~~ ((1 : BitVec 32) <<< i) from hstatus, hmask]
      by_cases hj : j < 32
      · by_cases hji : j = i
        · subst hji; simp [hj]
        · have hlow : (1 : BitVec 32).getLsbD (j - i) = decide (j - i = 0) := by
            simp [BitVec.getLsbD_one]
          simp only [BitVec.getLsbD_and, BitVec.getLsbD_not, hj, decide_true, Bool.true_and, BitVec.getLsbD_shiftLeft, hlow]
          by_cases hlt : j < i
          · simp [hlt, hji]
          · simp [hlt, hji, show ¬ j - i = 0 by omega]
      · simp [BitVec.getLsbD_of_ge _ j (by omega : 32 ≤ j)]
    · change (if i = 25 then s.db.epoch else s.db.epochSeen) = _
      by_cases h25 : i = 25
      · subst h25
        rw [if_pos rfl, if_pos ⟨rfl, hset, hmask⟩]
      · rw [if_neg h25, if_neg fun h => h25 h.1]
  · next h =>
    refine ⟨rfl, rfl, fun j => ?_, ?_⟩
    · by_cases hji : j = i
      · subst hji
        revert h
        cases s.db.fwStatus.getLsbD j <;> cases s.db.fwMask.getLsbD j <;> simp
      · simp [hji]
    · rw [if_neg]
      rintro ⟨rfl, hset, hmask⟩
      exact h (by rw [hset, hmask]; rfl)

/-- The turns of a list of bits, one after the other. -/
theorem foldl_fwBitStep_spec (l : List Nat) (s : State) :
    (l.foldl fwBitStep s).db.fwMask = s.db.fwMask ∧ (l.foldl fwBitStep s).db.epoch = s.db.epoch ∧
      (∀ j, (l.foldl fwBitStep s).db.fwStatus.getLsbD j =
        (s.db.fwStatus.getLsbD j && !(l.contains j && !s.db.fwMask.getLsbD j))) ∧
      (25 ∉ l → (l.foldl fwBitStep s).db.epochSeen = s.db.epochSeen) := by
  induction l generalizing s with
  | nil => simp
  | cons i l ih =>
    obtain ⟨hmask, hepoch, hstatus, hseen⟩ := fwBitStep_spec i s
    obtain ⟨kmask, kepoch, kstatus, kseen⟩ := ih (fwBitStep s i)
    refine ⟨kmask.trans hmask, kepoch.trans hepoch, fun j => ?_, fun h25 => ?_⟩
    · rw [List.foldl_cons, kstatus j, hstatus j, hmask, List.contains_cons]
      by_cases hji : j = i
      · subst hji
        cases s.db.fwMask.getLsbD j <;> simp
      · rw [beq_eq_false_iff_ne.mpr hji]
        simp
    · obtain ⟨h25i, h25l⟩ := List.ne_and_not_mem_of_not_mem_cons h25
      rw [List.foldl_cons, kseen h25l, hseen, if_neg fun h => h25i h.1.symm]

/-- Settles O12: a command begins or is held back by its FENCE, an entry is posted by one write and one step of the ring,
a silent spell is told once, and the firmware's bits take their turns in the order of R235. -/
theorem commandFlow : Obligations.CommandFlow := by
  refine ⟨fun q a rest s hacts hwait hfence hlegal hq hop hrest hbegun => ?_,
    fun q a rest s hacts hwait hfence hlegal => ?_, fun q a rest s hwait hfence => exec_commandBegin_fenced hwait hfence,
    fun e rest s hruns hfrozen hheld hroom hopen haddr => ?_, fun v s habove => ?_, fun v s habove => ?_,
    fun s hacts hout hpause => ?_, fun s hacts hout hpause => ?_, fun s hacts => ?_⟩
  · have hrow := exec_commandBegin hacts hwait hfence
    rw [beginWith, legalNow_moveBegun, if_pos hlegal, beginOf_watchdog hop] at hrow
    obtain ⟨hinterval, -⟩ := finish_watchdog a {} { moveBegun q a s with cmds := { (moveBegun q a s).cmds with
      wdInterval := a.desc.imm0, wdPause := a.desc.imm1.getLsbD 0, wdSince := (moveBegun q a s).clock.now, wdFired := false } }
    refine ⟨_, hrow, ?_, hinterval, ?_, ?_⟩
    · subst hq
      rw [beginWatchdog_waiting, ringOf_moveBegun, hwait]
      exact List.erase_of_not_mem hrest
    · rw [← hop]
      exact completed_finish_command a {} (moveBegun_held q a s)
    · exact (beginWatchdog_keeps a rfl (moveBegun_keeps q a rfl (Keeps.refl s))).frame
  · have hrow := exec_commandBegin hacts hwait hfence
    rw [beginWith, legalNow_moveBegun, if_neg (by rw [hlegal]; exact Bool.false_ne_true)] at hrow
    exact ⟨_, hrow, completed_finish_command a _ (moveBegun_held q a s),
      (finish_keeps a _ rfl (moveBegun_keeps q a rfl (Keeps.refl s))).frame⟩
  · have hkeeps := entryPosted_keeps rest hopen
    have hdb : (entryPosted e rest s).db = s.db := hkeeps.same .db (by decide)
    refine ⟨_, exec_completionPost hruns hfrozen hheld hroom, ?_⟩
    rw [postEntry_dram rest haddr]
    cases hquiet : e.notice || e.silent with
    | true =>
      refine ⟨rfl, rfl, stored_entryPosted rest hopen, ?_, hkeeps.frame.weaken rfl⟩
      rw [if_pos rfl, hdb]
      cases hn : e.notice <;> simp_all
    | false =>
      rw [if_neg Bool.false_ne_true]
      obtain ⟨hn, hs⟩ : e.notice = false ∧ e.silent = false := by simpa using hquiet
      refine ⟨?_, ?_, (stored_entryPosted rest hopen).congr rfl (ringBit_mem 27 _), ?_,
        (ringBit_keeps 27 rfl (hkeeps.weaken rfl)).frame⟩
      · rw [ringBit_cmds]; rfl
      · rw [ringBit_cmds]; rfl
      · rw [ringBit_hostStatus_same 27 (by decide), hn, hs]
        simp
  · change execSynCqConsumedWrite v s = _
    simp only [execSynCqConsumedWrite, cqConsumedWrite, habove]
    rfl
  · have hrow : exec (.synCqConsumedWrite v) s = .next (emit (.reply .ok 0) { s with cmds := { s.cmds with
        consumed := v.setWidth 32, wdSince := s.clock.now, wdFired := false } }) := by
      change execSynCqConsumedWrite v s = _
      simp only [execSynCqConsumedWrite, cqConsumedWrite, habove]
      rfl
    exact ⟨_, hrow, rfl, rfl, rfl, rfl, rfl, (emit_keeps _ rfl (keeps_setCmds rfl (Keeps.refl s) _)).frame⟩
  · obtain ⟨hfired, hnoticed, hgraphs⟩ := watchdogTold_spec (fwRuns_of_fwActs hacts)
    have hrow : exec .watchdogExpiry s = .next (watchdogTold s) := by
      rw [exec_watchdogExpiry hacts hout, hpause]
      rw [watchdogTold, hpause]
      rfl
    rw [hpause] at hnoticed
    exact ⟨_, hrow, hfired, hgraphs, hnoticed, exec_watchdogExpiry_fired hfired⟩
  · obtain ⟨hfired, hnoticed, hgraphs⟩ := watchdogTold_spec (fwRuns_of_fwActs hacts)
    have hrow : exec .watchdogExpiry s = .next (pauseAll (watchdogTold s)) := by
      rw [exec_watchdogExpiry hacts hout, hpause]
      rw [watchdogTold, hpause]
      rfl
    have hcmds : (pauseAll (watchdogTold s)).cmds = (watchdogTold s).cmds :=
      (pauseAll_keeps (T := [.graphs]) rfl (Keeps.refl _)).same .cmds (by decide)
    rw [hpause] at hnoticed
    refine ⟨_, hrow, by rw [hcmds, hfired], hnoticed.mono List.prefix_rfl (by rw [hcmds]), fun h hh i g hg => ?_⟩
    refine pauseAll_ending (h := h) (g := g) ?_ ?_
    · rw [handlesIn, hgraphs]
      exact hh
    · rw [graphAt, slotGet, hgraphs]
      exact hg
  · obtain ⟨hmask, hepoch, hstatus, -⟩ := foldl_fwBitStep_spec fwOrder s
    refine ⟨_, exec_firmwareDoorbellHandle hacts, fun i hi hclear => ?_, fun i hmasked => ?_, fun hset hclear => ?_⟩
    · have hin : ∀ j, j < 27 → fwOrder.contains j = true := by decide
      rw [hstatus, hin i hi, hclear]
      simp
    · rw [hstatus, hmasked]
      simp
    · obtain ⟨-, kepoch, -, kseen⟩ := fwBitStep_spec 25 s
      obtain ⟨-, -, -, hseen⟩ := foldl_fwBitStep_spec fwOrder.tail (fwBitStep s 25)
      rw [show fwOrder = 25 :: fwOrder.tail from rfl, List.foldl_cons, hseen (by decide), kseen,
        if_pos ⟨rfl, hset, hclear⟩, ← kepoch]

end Sys2Proof.Machine

/-!
PROOFS. What an operation only adds to: the entries that the firmware holds, the fault events entered, and the units on the
fence list. One lemma per operation that reaches the command interface or the fault collector; every other operation keeps
both as they are.
-/

namespace Sys2Proof.Machine

/-- The entries held are still held, in order; no fault event entered is forgotten; no fenced unit is back in service. -/
structure Grows (s t : State) : Prop where
  held : s.cmds.held <+: t.cmds.held
  entered : s.faults.entered ≤ t.faults.entered
  fenced : ∀ k ∈ s.faults.fenced, k ∈ t.faults.fenced

/-- The areas of an operation that reaches neither the command interface nor the fault collector. -/
def quietAreas : List Area :=
  [.part, .pins, .clock, .boot, .dev, .mbx, .db, .locks, .ports, .graphs, .bytes, .memCtl, .stk, .counts, .comp, .banks, .cairn,
    .therm, .las, .chans, .links, .fab, .d2d, .guest, .sec, .out, .free]

section
variable {s0 s e t : State}

theorem Grows.refl (s : State) : Grows s s := ⟨List.prefix_rfl, le_rfl, fun _ => id⟩

theorem Grows.trans (h : Grows s0 s) (k : Grows s t) : Grows s0 t :=
  ⟨h.held.trans k.held, h.entered.trans k.entered, fun x hx => k.fenced x (h.fenced x hx)⟩

theorem Grows.foldl {α : Type} {f : State → α → State} {l : List α} {p : State} (hp : Grows s0 p)
    (hf : ∀ t a, Grows s0 t → Grows s0 (f t a)) : Grows s0 (l.foldl f p) :=
  List.foldlRecOn (motive := fun t => Grows s0 t) _ _ hp fun t ht a _ => hf t a ht

theorem grows_of_same (hc : t.cmds = s.cmds) (hf : t.faults = s.faults) : Grows s t :=
  ⟨by rw [hc], by rw [hf], fun _ hk => by rwa [hf]⟩

theorem Grows.quiet (h : Grows s0 s) (k : Keeps quietAreas s t) : Grows s0 t :=
  h.trans (grows_of_same (k.same .cmds (by decide)) (k.same .faults (by decide)))

theorem Grows.app {f : State → State} (h : Grows s0 e) (hk : ∀ t, Keeps quietAreas t (f t)) : Grows s0 (f e) :=
  h.quiet (hk e)

theorem grows_mk (h : Grows s0 e)
    {_part _pins _clock _boot _dev _mbx _db _locks _ports _graphs _mem _stk _counts _comp _banks _cairn _therm _las _chans _links
      _fab _d2d _guest _sec _out _free _pending} :
    Grows s0 (State.mk _part _pins _clock _boot _dev e.faults _mbx _db _locks _ports e.cmds _graphs _mem _stk _counts _comp
      _banks _cairn _therm _las _chans _links _fab _d2d _guest _sec _out _free _pending) :=
  h.trans (grows_of_same rfl rfl)

theorem grows_mkCmds (h : Grows s0 e)
    {_part _pins _clock _boot _dev _mbx _db _locks _ports _cmds _graphs _mem _stk _counts _comp _banks _cairn _therm _las _chans
      _links _fab _d2d _guest _sec _out _free _pending} (hc : _cmds.held = e.cmds.held) :
    Grows s0 (State.mk _part _pins _clock _boot _dev e.faults _mbx _db _locks _ports _cmds _graphs _mem _stk _counts _comp
      _banks _cairn _therm _las _chans _links _fab _d2d _guest _sec _out _free _pending) :=
  h.trans ⟨hc ▸ List.prefix_rfl, le_rfl, fun _ => id⟩

theorem grows_mkFaults (h : Grows s0 e)
    {_part _pins _clock _boot _dev _faults _mbx _db _locks _ports _graphs _mem _stk _counts _comp _banks _cairn _therm _las
      _chans _links _fab _d2d _guest _sec _out _free _pending} (he : _faults.entered = e.faults.entered)
    (hf : _faults.fenced = e.faults.fenced) :
    Grows s0 (State.mk _part _pins _clock _boot _dev _faults _mbx _db _locks _ports e.cmds _graphs _mem _stk _counts _comp
      _banks _cairn _therm _las _chans _links _fab _d2d _guest _sec _out _free _pending) :=
  h.trans ⟨List.prefix_rfl, he ▸ le_rfl, fun _ hk => hf ▸ hk⟩

/-! ## The operations that add -/

theorem pushEntry_grows (x : Entry) (h : Grows s0 s) : Grows s0 (pushEntry x s) :=
  h.trans ⟨List.prefix_append _ _, le_rfl, fun _ => id⟩

theorem collect_grows (x : FaultInput) (h : Grows s0 s) : Grows s0 (collect x s) :=
  h.trans ⟨List.prefix_rfl, Nat.le_succ _, fun _ => id⟩

theorem mem_setInsert {k n : Nat} {l : List Nat} : k ∈ setInsert n l ↔ k = n ∨ k ∈ l := by
  induction l with
  | nil => simp [setInsert]
  | cons m l ih =>
    unfold setInsert
    split
    · simp
    · split
      · next h => subst h; simp
      · simp only [List.mem_cons, ih]; tauto

theorem fenceAdd_grows (src core : Nat) (h : Grows s0 s) : Grows s0 (fenceAdd src core s) :=
  h.trans ⟨List.prefix_rfl, le_rfl, fun _ hk => mem_setInsert.mpr (.inr hk)⟩

theorem useFree_grows (h : Grows s0 s) : Grows s0 (useFree s).2 := grows_mk h

/-! ## What is built on them -/

theorem setRing_grows (q : Queue) (r : CmdRing) (h : Grows s0 s) : Grows s0 (setRing q r s) := by
  unfold setRing
  repeat' (first
    | with_reducible assumption | with_reducible apply Grows.foldl | intro _ | dsimp only | split
    | (fail_if_no_progress (with_reducible apply grows_mk))
    | (fail_if_no_progress (with_reducible refine grows_mkCmds ?_ rfl)))

theorem touchSync_grows (h : Grows s0 s) : Grows s0 (touchSync s) := by
  unfold touchSync
  repeat' (first
    | with_reducible assumption | with_reducible apply Grows.foldl | intro _ | dsimp only | split
    | (fail_if_no_progress (with_reducible apply grows_mk))
    | (fail_if_no_progress (with_reducible refine grows_mkCmds ?_ rfl)))

theorem finish_grows (a : Accepted) (r : Res) (h : Grows s0 s) : Grows s0 (finish a r s) := by
  unfold finish
  repeat' (first
    | with_reducible assumption | with_reducible apply pushEntry_grows
    | with_reducible apply setRing_grows | with_reducible apply touchSync_grows | with_reducible apply Grows.foldl
    | intro _ | dsimp only | split)

theorem noticeEntry_grows (code : Nat) (detail : BitVec 32) (detail2 : BitVec 64) (h : Grows s0 s) :
    Grows s0 (noticeEntry code detail detail2 s) := by
  unfold noticeEntry
  repeat' (first
    | with_reducible assumption
    | with_reducible apply pushEntry_grows)

theorem notice_grows (code : Nat) (detail : BitVec 32) (detail2 : BitVec 64) (h : Grows s0 s) :
    Grows s0 (notice code detail detail2 s) := by
  unfold notice
  repeat' (first
    | with_reducible assumption | with_reducible apply noticeEntry_grows
    | with_reducible refine Grows.app (f := ringBit _) ?_ (fun _ => ringBit_keeps _ rfl (Keeps.refl _))
    | with_reducible apply Grows.foldl | intro _ | dsimp only | split)

theorem refreshDegraded_grows (h : Grows s0 s) : Grows s0 (refreshDegraded s) := by
  unfold refreshDegraded
  repeat' (first
    | with_reducible assumption | with_reducible apply notice_grows
    | with_reducible apply touchSync_grows | with_reducible apply Grows.foldl | intro _ | dsimp only | split
    | (fail_if_no_progress (with_reducible apply grows_mk)))

theorem fenceCluster_grows (p : Nat) (h : Grows s0 s) : Grows s0 (fenceCluster p s) := by
  unfold fenceCluster
  repeat' (first
    | with_reducible assumption
    | with_reducible refine Grows.app (f := dropCluster _) ?_ (fun _ => dropCluster_keeps _ rfl (Keeps.refl _))
    | with_reducible apply refreshDegraded_grows | with_reducible apply Grows.foldl | intro _ | dsimp only | split
    | (fail_if_no_progress (with_reducible apply grows_mk)))

theorem setDev_grows (d : DevState) (h : Grows s0 s) : Grows s0 (setDev d s) := by
  unfold setDev
  repeat' (first
    | with_reducible assumption | with_reducible apply notice_grows
    | with_reducible apply touchSync_grows | with_reducible apply Grows.foldl | intro _ | dsimp only | split
    | (fail_if_no_progress (with_reducible apply grows_mk)))

theorem enterFaulted_grows (h : Grows s0 s) : Grows s0 (enterFaulted s) := by
  unfold enterFaulted
  repeat' (first
    | with_reducible assumption | with_reducible apply finish_grows | with_reducible apply setDev_grows
    | with_reducible apply Grows.foldl | intro _ | dsimp only | split
    | (fail_if_no_progress (with_reducible apply grows_mk)))

theorem faultNotice_grows (e : FaultInput) (i : Nat) (first : Bool) (h : Grows s0 s) :
    Grows s0 (faultNotice e i first s) := by
  unfold faultNotice
  repeat' (first
    | with_reducible assumption | with_reducible apply noticeEntry_grows
    | with_reducible refine Grows.app (f := ringBit _) ?_ (fun _ => ringBit_keeps _ rfl (Keeps.refl _))
    | with_reducible apply Grows.foldl | intro _ | dsimp only | split)

theorem report_grows (e : FaultInput) (h : Grows s0 s) : Grows s0 (report e s) := by
  unfold report
  repeat' (first
    | with_reducible assumption | with_reducible apply collect_grows
    | with_reducible apply enterFaulted_grows | with_reducible apply faultNotice_grows
    | with_reducible refine Grows.app (f := faultTriggers _ _) ?_ (fun _ => faultTriggers_keeps _ _ rfl (Keeps.refl _))
    | with_reducible apply fenceAdd_grows | with_reducible apply refreshDegraded_grows
    | with_reducible apply Grows.foldl | intro _ | dsimp only | split)

theorem reportFrom_grows (p : Nat) (e : FaultInput) (h : Grows s0 s) : Grows s0 (reportFrom p e s) :=
  report_grows _ (h.quiet (takeResumed_keeps p rfl (Keeps.refl s)))

theorem failClusterWith_grows (p : Nat) (syn : Nat) (h : Grows s0 s) : Grows s0 (failClusterWith p syn s) := by
  unfold failClusterWith
  repeat' (first
    | with_reducible assumption | with_reducible apply fenceCluster_grows
    | with_reducible apply reportFrom_grows
    | with_reducible refine Grows.app (f := wakeCluster _) ?_ (fun _ => wakeCluster_keeps _ rfl (Keeps.refl _))
    | with_reducible apply Grows.foldl | intro _ | dsimp only | split)

theorem failCluster_grows (p : Nat) (h : Grows s0 s) : Grows s0 (failCluster p s) :=
  failClusterWith_grows _ _ (useFree_grows h)

theorem fenceCore_grows (p : Nat) (c : Nat) (h : Grows s0 s) : Grows s0 (fenceCore p c s) := by
  unfold fenceCore
  repeat' (first
    | with_reducible assumption
    | with_reducible refine Grows.app (f := dropCore _ _) ?_ (fun _ => dropCore_keeps _ _ rfl (Keeps.refl _))
    | with_reducible apply failCluster_grows | with_reducible apply Grows.foldl | intro _ | dsimp only | split)

theorem selfTestFail_grows (b : Nat × Option Nat) (h : Grows s0 s) : Grows s0 (selfTestFail b s) := by
  unfold selfTestFail
  repeat' (first
    | with_reducible assumption | with_reducible apply failCluster_grows
    | with_reducible apply fenceCore_grows | with_reducible apply reportFrom_grows | with_reducible apply Grows.foldl
    | intro _ | dsimp only | split)

theorem selfTest_grows (bad : List (Nat × Option Nat)) (h : Grows s0 s) : Grows s0 (selfTest bad s) := by
  unfold selfTest
  repeat' (first
    | with_reducible assumption
    | with_reducible refine Grows.app (f := bindSpare _) ?_ (fun _ => bindSpare_keeps _ rfl (Keeps.refl _))
    | with_reducible apply refreshDegraded_grows | with_reducible apply selfTestFail_grows
    | with_reducible apply Grows.foldl | intro _)

theorem failBank_grows (p : Nat) (c : Nat) (h : Grows s0 s) : Grows s0 (failBank p c s) := by
  unfold failBank
  repeat' (first
    | with_reducible assumption
    | with_reducible refine Grows.app (f := fenceBank _ _) ?_ (fun _ => fenceBank_keeps _ _ rfl (Keeps.refl _))
    | with_reducible apply reportFrom_grows | with_reducible apply Grows.foldl | intro _ | dsimp only | split)

theorem mapArray_grows (chip a : Nat) {f : Nat → Nat → State → State}
    (hf : ∀ p c t, Grows s0 t → Grows s0 (f p c t)) (h : Grows s0 s) : Grows s0 (mapArray chip a f s) :=
  Grows.foldl h fun _ _ ht => Grows.foldl ht fun _ _ hu => hf _ _ _ hu

theorem enterDark_grows (chip a k : Nat) (spare : Bool) (h : Grows s0 s) : Grows s0 (enterDark chip a k spare s) := by
  unfold enterDark
  dsimp only
  split
  · exact h
  split
  · exact mapArray_grows _ _ (fun p c _ ht => failBank_grows p c ht) h
  · refine refreshDegraded_grows (mapArray_grows _ _ (fun p c t ht => ?_) (grows_mk h))
    split
    · exact ht.quiet (bankSet_keeps _ _ _ rfl (Keeps.refl t))
    · exact ht

theorem combLineLost_grows (inst : Nat) (h : Grows s0 s) : Grows s0 (combLineLost inst s) := by
  unfold combLineLost
  repeat' (first
    | with_reducible assumption
    | with_reducible refine Grows.app (f := discardRuns _ _) ?_ (fun _ => discardRuns_keeps _ _ rfl (Keeps.refl _))
    | with_reducible apply enterDark_grows
    | with_reducible refine Grows.app (f := laserOff _) ?_ (fun _ => laserOff_keeps _ rfl (Keeps.refl _))
    | with_reducible refine Grows.app (f := laserWorn _ _) ?_ (fun _ => laserWorn_keeps _ _ rfl (Keeps.refl _))
    | with_reducible refine Grows.app (f := startHandover _ _ _) ?_ (fun _ => startHandover_keeps _ _ _ rfl (Keeps.refl _))
    | with_reducible apply Grows.foldl | intro _ | dsimp only | split)

theorem faultU_grows (src : Nat) (syn : Nat) (h : Grows s0 s) : Grows s0 (faultU src syn s) := by
  unfold faultU
  repeat' (first
    | with_reducible assumption | with_reducible apply report_grows)

theorem faultUOpen_grows (src : Nat) (h : Grows s0 s) : Grows s0 (faultUOpen src s) :=
  faultU_grows _ _ (useFree_grows h)

theorem combLineFail_grows (inst : Nat) (h : Grows s0 s) : Grows s0 (combLineFail inst s) := by
  unfold combLineFail
  repeat' (first
    | with_reducible assumption | with_reducible apply combLineLost_grows
    | with_reducible apply faultUOpen_grows)

theorem faultD_grows (src : Nat) (syn : Nat) (h : Grows s0 s) : Grows s0 (faultD src syn s) := by
  unfold faultD
  repeat' (first
    | with_reducible assumption | with_reducible apply report_grows)

theorem faultDOpen_grows (src : Nat) (h : Grows s0 s) : Grows s0 (faultDOpen src s) :=
  faultD_grows _ _ (useFree_grows h)

theorem forcedDone_grows (src : Nat) (core : Nat) (h : Grows s0 s) : Grows s0 (forcedDone src core s) := by
  unfold forcedDone
  repeat' (first
    | with_reducible assumption | with_reducible apply Grows.foldl | intro _ | dsimp only | split
    | (fail_if_no_progress (with_reducible apply grows_mk))
    | (fail_if_no_progress (with_reducible refine grows_mkCmds ?_ rfl))
    | (fail_if_no_progress (with_reducible refine grows_mkFaults ?_ rfl rfl)))

theorem forcedFlit_grows (srcs : List Nat) (f : Flit) (h : Grows s0 s) : Grows s0 (forcedFlit srcs f s).2 := by
  unfold forcedFlit
  repeat' (first
    | with_reducible assumption | with_reducible apply forcedDone_grows
    | with_reducible apply Grows.foldl | intro _ | dsimp only | split)

theorem placeFlit_grows (n : Nat) (f0 : Flit) (h : Grows s0 s) : Grows s0 (placeFlit n f0 s) := by
  unfold placeFlit
  repeat' (first
    | with_reducible assumption
    | with_reducible refine Grows.app (f := countLink _ _ _) ?_ (fun _ => countLink_keeps _ _ _ rfl (Keeps.refl _))
    | with_reducible refine Grows.app (f := emit _) ?_ (fun _ => emit_keeps _ rfl (Keeps.refl _))
    | with_reducible apply forcedFlit_grows
    | with_reducible refine Grows.app (f := linkSet _ _) ?_ (fun _ => linkSet_keeps _ _ rfl (Keeps.refl _))
    | with_reducible refine Grows.app (f := replay _ _) ?_ (fun _ => replay_keeps _ _ rfl (Keeps.refl _))
    | with_reducible apply Grows.foldl | intro _ | dsimp only | split)

theorem outPump_grows (g v k : Nat) (h : Grows s0 s) : Grows s0 (outPump g v k s) := by
  induction k generalizing s with
  | zero => exact h
  | succ k ih =>
    unfold outPump
    split
    · split
      · exact ih (placeFlit_grows _ _ ((grows_mk h).quiet (outSet_keeps _ _ _ rfl (Keeps.refl _))))
      · exact h
    · exact h

theorem groupPump_grows (g : Nat) (h : Grows s0 s) : Grows s0 (groupPump g s) :=
  Grows.foldl h fun _ _ ht => outPump_grows _ _ _ ht

theorem grows_of_full_or_gone {c : Prop} [Decidable c] {t u : State} (h : Grows s0 u)
    (hr : (if c then Routed.full else .gone u) = .gone t ∨ (if c then Routed.full else .gone u) = .refused t) :
    Grows s0 t := by
  split at hr
  · rcases hr with hr | hr <;> cases hr
  · rcases hr with hr | hr <;> cases hr
    exact h

theorem routeFlit_grows {ring : Option Nat} {f : Flit} {t : State} (h : Grows s0 s)
    (hr : routeFlit ring f s = .gone t ∨ routeFlit ring f s = .refused t) : Grows s0 t := by
  unfold routeFlit at hr
  split at hr
  · rcases hr with hr | hr <;> cases hr
  · rcases hr with hr | hr <;> cases hr
    exact h.quiet (fabCount_keeps 2 rfl (Keeps.refl s))
  · rcases hr with hr | hr <;> cases hr
    exact faultDOpen_grows _ (h.quiet (fabCount_keeps 3 rfl (Keeps.refl s)))
  · refine grows_of_full_or_gone (groupPump_grows _ (Grows.quiet ?_ (outSet_keeps _ _ _ rfl (Keeps.refl _)))) hr
    split
    · exact grows_mk (grows_mk h)
    · exact grows_mk h

theorem launch_grows (f : Flit) (h : Grows s0 s) : Grows s0 (launch f s) := by
  unfold launch
  split
  · next hr => exact routeFlit_grows h (.inl hr)
  · next hr => exact routeFlit_grows h (.inr hr)
  · exact h
  · exact grows_mk h

theorem groupEscape_grows (g : Nat) (h : Grows s0 s) : Grows s0 (groupEscape g s) := by
  unfold groupEscape
  repeat' (first
    | with_reducible assumption | with_reducible apply launch_grows
    | with_reducible refine Grows.app (f := outSet _ _ _) ?_ (fun _ => outSet_keeps _ _ _ rfl (Keeps.refl _))
    | with_reducible apply Grows.foldl | intro _)

theorem transfer_grows (n : Nat) (fs : List Flit) (h : Grows s0 s) : Grows s0 (transfer n fs s) := by
  unfold transfer
  repeat' (first
    | with_reducible assumption
    | with_reducible refine Grows.app (f := countLink _ _ _) ?_ (fun _ => countLink_keeps _ _ _ rfl (Keeps.refl _))
    | with_reducible apply placeFlit_grows | with_reducible apply Grows.foldl | intro _ | dsimp only | split)

theorem linkLeaves_grows (n : Nat) (h : Grows s0 s) : Grows s0 (linkLeaves n s) := by
  unfold linkLeaves
  repeat' (first
    | with_reducible assumption | with_reducible apply groupEscape_grows
    | with_reducible refine Grows.app (f := groupRestart _) ?_ (fun _ => groupRestart_keeps _ rfl (Keeps.refl _))
    | with_reducible refine Grows.app (f := linkSet _ _) ?_ (fun _ => linkSet_keeps _ _ rfl (Keeps.refl _))
    | with_reducible apply refreshDegraded_grows
    | with_reducible refine Grows.app (f := replay _ _) ?_ (fun _ => replay_keeps _ _ rfl (Keeps.refl _))
    | with_reducible apply transfer_grows | with_reducible apply Grows.foldl | intro _ | dsimp only | split)

theorem leaveLink_grows (n : Nat) (h : Grows s0 s) : Grows s0 (leaveLink n s) := by
  unfold leaveLink
  repeat' (first
    | with_reducible assumption
    | with_reducible refine Grows.app (f := linkFreed _ _) ?_ (fun _ => linkFreed_keeps _ _ rfl (Keeps.refl _))
    | with_reducible apply linkLeaves_grows | with_reducible apply Grows.foldl | intro _ | dsimp only | split)

theorem linkDark_grows (n : Nat) (h : Grows s0 s) : Grows s0 (linkDark n s) := by
  unfold linkDark
  repeat' (first
    | with_reducible assumption | with_reducible apply faultUOpen_grows
    | with_reducible apply leaveLink_grows
    | with_reducible refine Grows.app (f := lightChiplet _) ?_ (fun _ => lightChiplet_keeps _ rfl (Keeps.refl _))
    | with_reducible refine Grows.app (f := linkSet _ _) ?_ (fun _ => linkSet_keeps _ _ rfl (Keeps.refl _))
    | with_reducible apply refreshDegraded_grows)

theorem askWidth_grows (n : Nat) (k : Nat) (h : Grows s0 s) : Grows s0 (askWidth n k s) := by
  unfold askWidth
  repeat' (first
    | with_reducible assumption | with_reducible apply linkDark_grows
    | with_reducible refine Grows.app (f := linkSet _ _) ?_ (fun _ => linkSet_keeps _ _ rfl (Keeps.refl _))
    | with_reducible apply placeFlit_grows
    | with_reducible refine Grows.app (f := wakeTx _) ?_ (fun _ => wakeTx_keeps _ rfl (Keeps.refl _))
    | with_reducible apply Grows.foldl | intro _ | dsimp only | split)

theorem coverChannel_grows (n : Nat) (k : Nat) (immediate : Bool) (why : Nat) (h : Grows s0 s) :
    Grows s0 (coverChannel n k immediate why s) := by
  unfold coverChannel
  repeat' (first
    | with_reducible assumption | with_reducible apply askWidth_grows
    | with_reducible refine Grows.app (f := setChan _ _) ?_ (fun _ => setChan_keeps _ _ rfl (Keeps.refl _))
    | with_reducible refine Grows.app (f := startMove _ _ _ _ _ _) ?_ (fun _ => startMove_keeps _ _ _ _ _ _ rfl (Keeps.refl _))
    | with_reducible apply Grows.foldl | intro _ | dsimp only | split)

theorem freeOn_grows (n : Nat) (k : Nat) (immediate : Bool) (h : Grows s0 s) : Grows s0 (freeOn n k immediate s) := by
  unfold freeOn
  repeat' (first
    | with_reducible assumption | with_reducible apply coverChannel_grows
    | with_reducible refine Grows.app (f := putOut _ _) ?_ (fun _ => putOut_keeps _ _ rfl (Keeps.refl _))
    | with_reducible apply Grows.foldl | intro _ | dsimp only | split)

theorem beginHandover_grows (ll : Nat) (k : Nat) (failed : Bool) (h : Grows s0 s) :
    Grows s0 (beginHandover ll k failed s) := by
  unfold beginHandover
  repeat' (first
    | with_reducible assumption | with_reducible apply freeOn_grows
    | with_reducible refine Grows.app (f := laserOn _) ?_ (fun _ => laserOn_keeps _ rfl (Keeps.refl _))
    | with_reducible refine Grows.app (f := setHandover _ _ _) ?_ (fun _ => setHandover_keeps _ _ _ rfl (Keeps.refl _))
    | with_reducible refine Grows.app (f := settleHandover _ _) ?_ (fun _ => settleHandover_keeps _ _ rfl (Keeps.refl _))
    | with_reducible apply Grows.foldl | intro _ | dsimp only | split)

theorem wantHandover_grows (ll : Nat) (k : Nat) (failed : Bool) (h : Grows s0 s) :
    Grows s0 (wantHandover ll k failed s) := by
  unfold wantHandover
  repeat' (first
    | with_reducible assumption | with_reducible apply beginHandover_grows
    | with_reducible apply Grows.foldl | intro _ | dsimp only | split
    | (fail_if_no_progress (with_reducible apply grows_mk)))

theorem linkLaserLost_grows (inst : Nat) (h : Grows s0 s) : Grows s0 (linkLaserLost inst s) := by
  unfold linkLaserLost
  repeat' (first
    | with_reducible assumption | with_reducible apply beginHandover_grows
    | with_reducible refine Grows.app (f := laserOff _) ?_ (fun _ => laserOff_keeps _ rfl (Keeps.refl _))
    | with_reducible refine Grows.app (f := laserWorn _ _) ?_ (fun _ => laserWorn_keeps _ _ rfl (Keeps.refl _))
    | with_reducible refine Grows.app (f := markGone _ _) ?_ (fun _ => markGone_keeps _ _ rfl (Keeps.refl _))
    | with_reducible refine Grows.app (f := spareLost _ _ _) ?_ (fun _ => spareLost_keeps _ _ _ rfl (Keeps.refl _))
    | with_reducible apply wantHandover_grows | with_reducible apply Grows.foldl | intro _ | dsimp only | split)

theorem linkLaserFail_grows (inst : Nat) (h : Grows s0 s) : Grows s0 (linkLaserFail inst s) := by
  unfold linkLaserFail
  repeat' (first
    | with_reducible assumption | with_reducible apply faultUOpen_grows
    | with_reducible apply linkLaserLost_grows)

theorem faultC_grows (src : Nat) (syn : Nat) (h : Grows s0 s) : Grows s0 (faultC src syn s) := by
  unfold faultC
  repeat' (first
    | with_reducible assumption | with_reducible apply report_grows)

theorem faultCOpen_grows (src : Nat) (h : Grows s0 s) : Grows s0 (faultCOpen src s) :=
  faultC_grows _ _ (useFree_grows h)

theorem portDown_grows (p : Port) (h : Grows s0 s) : Grows s0 (portDown p s) := by
  unfold portDown
  repeat' (first
    | with_reducible assumption | with_reducible apply faultCOpen_grows
    | with_reducible apply portSt_grows
    | with_reducible refine Grows.app (f := repref) ?_ (fun _ => repref_keeps rfl (Keeps.refl _))
    | with_reducible refine Grows.app (f := ringBit _) ?_ (fun _ => ringBit_keeps _ rfl (Keeps.refl _))
    | with_reducible refine Grows.app (f := setPort _ _) ?_ (fun _ => setPort_keeps _ _ rfl (Keeps.refl _))
    | with_reducible apply Grows.foldl | intro _ | dsimp only | split)

theorem portOut_grows (p : Port) (h : Grows s0 s) : Grows s0 (portOut p s) := by
  unfold portOut
  repeat' (first
    | with_reducible assumption | with_reducible apply portDown_grows
    | with_reducible apply portSt_grows
    | with_reducible refine Grows.app (f := setPort _ _) ?_ (fun _ => setPort_keeps _ _ rfl (Keeps.refl _)))

theorem portDead_grows (p : Port) (h : Grows s0 s) : Grows s0 (portDead p s) := by
  unfold portDead
  repeat' (first
    | with_reducible assumption | with_reducible apply faultUOpen_grows
    | with_reducible apply portOut_grows)

theorem portLaserLost_grows (inst : Nat) (h : Grows s0 s) : Grows s0 (portLaserLost inst s) := by
  unfold portLaserLost
  repeat' (first
    | with_reducible assumption
    | with_reducible refine Grows.app (f := laserOff _) ?_ (fun _ => laserOff_keeps _ rfl (Keeps.refl _))
    | with_reducible refine Grows.app (f := laserOn _) ?_ (fun _ => laserOn_keeps _ rfl (Keeps.refl _))
    | with_reducible refine Grows.app (f := laserWorn _ _) ?_ (fun _ => laserWorn_keeps _ _ rfl (Keeps.refl _))
    | with_reducible apply portDead_grows | with_reducible apply portDown_grows | with_reducible apply portSt_grows
    | with_reducible refine Grows.app (f := portTrains _) ?_ (fun _ => portTrains_keeps _ rfl (Keeps.refl _))
    | with_reducible refine Grows.app (f := setPort _ _) ?_ (fun _ => setPort_keeps _ _ rfl (Keeps.refl _))
    | with_reducible apply Grows.foldl | intro _ | dsimp only | split)

theorem portLaserFail_grows (inst : Nat) (h : Grows s0 s) : Grows s0 (portLaserFail inst s) := by
  unfold portLaserFail
  repeat' (first
    | with_reducible assumption | with_reducible apply faultUOpen_grows
    | with_reducible apply portLaserLost_grows)

theorem laserFail_grows (inst : Nat) (h : Grows s0 s) : Grows s0 (laserFail inst s) := by
  unfold laserFail
  repeat' (first
    | with_reducible assumption | with_reducible apply combLineFail_grows
    | with_reducible apply linkLaserFail_grows | with_reducible apply portLaserFail_grows
    | with_reducible apply Grows.foldl | intro _ | dsimp only | split)

theorem mem_sortPut {α : Type} {le : α → α → Bool} {x y : α} {l : List α} : y ∈ sortPut le x l ↔ y = x ∨ y ∈ l := by
  induction l with
  | nil => simp [sortPut]
  | cons z l ih =>
    unfold sortPut
    split
    · simp
    · simp only [List.mem_cons, ih]; tauto

theorem mem_sortBy {α : Type} {le : α → α → Bool} {y : α} {l : List α} : y ∈ sortBy le l ↔ y ∈ l := by
  induction l with
  | nil => rfl
  | cons x l ih => rw [sortBy, List.foldr_cons, mem_sortPut, List.mem_cons, ← ih, sortBy]

theorem fenceChipBanks_grows (chip : Nat) (h : Grows s0 s) : Grows s0 (fenceChipBanks chip s) := by
  unfold fenceChipBanks
  refine grows_mk (Grows.foldl ?_ fun t k ht => ht.quiet (dropBank_keeps _ _ rfl (Keeps.refl t)))
  exact h.trans ⟨List.prefix_rfl, le_rfl, fun k hk => mem_sortBy.mpr (List.mem_append_left _ hk)⟩

theorem combChipFail_grows (chip : Nat) (h : Grows s0 s) : Grows s0 (combChipFail chip s) := by
  unfold combChipFail
  repeat' (first
    | with_reducible assumption | with_reducible apply faultUOpen_grows
    | with_reducible apply fenceChipBanks_grows
    | with_reducible refine Grows.app (f := laserOff _) ?_ (fun _ => laserOff_keeps _ rfl (Keeps.refl _))
    | with_reducible apply refreshDegraded_grows | with_reducible apply Grows.foldl | intro _ | dsimp only | split)

theorem linkChipletOut_grows (ll : Nat) (h : Grows s0 s) : Grows s0 (linkChipletOut ll s) := by
  unfold linkChipletOut
  repeat' (first
    | with_reducible assumption | with_reducible apply faultUOpen_grows
    | with_reducible refine Grows.app (f := laserOff _) ?_ (fun _ => laserOff_keeps _ rfl (Keeps.refl _))
    | with_reducible apply leaveLink_grows
    | with_reducible refine Grows.app (f := linkSet _ _) ?_ (fun _ => linkSet_keeps _ _ rfl (Keeps.refl _))
    | with_reducible apply refreshDegraded_grows | with_reducible apply Grows.foldl | intro _ | dsimp only | split)

theorem chipletOff_grows (chip : Nat) (h : Grows s0 s) : Grows s0 (chipletOff chip s) := by
  unfold chipletOff
  repeat' (first
    | with_reducible assumption | with_reducible apply combChipFail_grows
    | with_reducible apply faultUOpen_grows | with_reducible apply linkChipletOut_grows
    | with_reducible apply refreshDegraded_grows | with_reducible apply Grows.foldl | intro _ | dsimp only | split
    | (fail_if_no_progress (with_reducible apply grows_mk)))

theorem faultX_grows (src : Nat) (syn : Nat) (h : Grows s0 s) : Grows s0 (faultX src syn s) := by
  unfold faultX
  repeat' (first
    | with_reducible assumption | with_reducible apply report_grows)

theorem faultXOpen_grows (src : Nat) (h : Grows s0 s) : Grows s0 (faultXOpen src s) :=
  faultX_grows _ _ (useFree_grows h)

theorem linkDown_grows (n : Nat) (h : Grows s0 s) : Grows s0 (linkDown n s) := by
  unfold linkDown
  repeat' (first
    | with_reducible assumption | with_reducible apply leaveLink_grows
    | with_reducible refine Grows.app (f := lightChiplet _) ?_ (fun _ => lightChiplet_keeps _ rfl (Keeps.refl _))
    | with_reducible refine Grows.app (f := linkSet _ _) ?_ (fun _ => linkSet_keeps _ _ rfl (Keeps.refl _))
    | with_reducible apply refreshDegraded_grows)

theorem flankOut_grows (f : Flank) (ph : FlankPhase) (h : Grows s0 s) : Grows s0 (flankOut f ph s) := by
  unfold flankOut
  repeat' (first
    | with_reducible assumption | with_reducible apply enterFaulted_grows
    | with_reducible apply linkDown_grows
    | with_reducible refine Grows.app (f := loseMemory _) ?_ (fun _ => loseMemory_keeps _ rfl (Keeps.refl _))
    | with_reducible refine Grows.app (f := mapRunning _) ?_ (fun _ => mapRunning_keeps _ rfl (Keeps.refl _))
    | with_reducible refine Grows.app (f := moduleClockLost _) ?_ (fun _ => moduleClockLost_keeps _ rfl (Keeps.refl _))
    | with_reducible apply refreshDegraded_grows
    | with_reducible refine Grows.app (f := releaseLocks _) ?_ (fun _ => releaseLocks_keeps _ rfl (Keeps.refl _))
    | with_reducible refine Grows.app (f := restartCompute _) ?_ (fun _ => restartCompute_keeps _ rfl (Keeps.refl _))
    | with_reducible refine Grows.app (f := setFlank _ _) ?_ (fun _ => setFlank_keeps _ _ rfl (Keeps.refl _))
    | with_reducible apply Grows.foldl | intro _ | dsimp only | split)

theorem fenceFlank_grows (f : Flank) (h : Grows s0 s) : Grows s0 (fenceFlank f s) := by
  unfold fenceFlank
  repeat' (first
    | with_reducible assumption | with_reducible apply faultUOpen_grows
    | with_reducible apply flankOut_grows | with_reducible apply Grows.foldl | intro _ | dsimp only | split)

theorem fencePart_grows (src : Nat) (h : Grows s0 s) : Grows s0 (fencePart src s) := by
  unfold fencePart
  repeat' (first
    | with_reducible assumption | with_reducible apply chipletOff_grows
    | with_reducible apply faultUOpen_grows | with_reducible apply faultXOpen_grows
    | with_reducible apply fenceFlank_grows | with_reducible apply linkDown_grows
    | with_reducible apply refreshDegraded_grows
    | with_reducible refine Grows.app (f := stackGone _) ?_ (fun _ => stackGone_keeps _ rfl (Keeps.refl _))
    | with_reducible apply Grows.foldl | intro _ | dsimp only | split
    | (fail_if_no_progress (with_reducible apply grows_mk)))

theorem excludeSensor_grows (j : Nat) (reading : ℤ) (h : Grows s0 s) : Grows s0 (excludeSensor j reading s) := by
  unfold excludeSensor
  repeat' (first
    | with_reducible assumption | with_reducible apply failCluster_grows
    | with_reducible apply faultC_grows | with_reducible apply fencePart_grows
    | with_reducible refine Grows.app (f := sensorSet _ _) ?_ (fun _ => sensorSet_keeps _ _ rfl (Keeps.refl _))
    | with_reducible apply Grows.foldl | intro _ | dsimp only | split)

theorem fenceGuest_grows (h : Grows s0 s) : Grows s0 (fenceGuest s) := by
  unfold fenceGuest
  repeat' (first
    | with_reducible assumption | with_reducible apply faultUOpen_grows
    | with_reducible refine Grows.app (f := guestOut) ?_ (fun _ => guestOut_keeps rfl (Keeps.refl _))
    | with_reducible apply Grows.foldl | intro _ | dsimp only | split)

theorem fenceOptical_grows (n : Nat) (h : Grows s0 s) : Grows s0 (fenceOptical n s) := by
  unfold fenceOptical
  repeat' (first
    | with_reducible assumption | with_reducible apply faultUOpen_grows
    | with_reducible apply linkDown_grows | with_reducible apply Grows.foldl | intro _ | dsimp only | split)

theorem portsOut_grows (h : Grows s0 s) : Grows s0 (portsOut s) := by
  unfold portsOut
  repeat' (first
    | with_reducible assumption | with_reducible apply portOut_grows)

theorem fencePorts_grows (h : Grows s0 s) : Grows s0 (fencePorts s) := by
  unfold fencePorts
  repeat' (first
    | with_reducible assumption | with_reducible apply faultUOpen_grows
    | with_reducible apply portsOut_grows | with_reducible apply Grows.foldl | intro _ | dsimp only | split)

theorem narrowLink_grows (n : Nat) (w : Nat) (h : Grows s0 s) : Grows s0 (narrowLink n w s) := by
  unfold narrowLink
  repeat' (first
    | with_reducible assumption
    | with_reducible refine Grows.app (f := linkSet _ _) ?_ (fun _ => linkSet_keeps _ _ rfl (Keeps.refl _))
    | with_reducible apply placeFlit_grows
    | with_reducible refine Grows.app (f := wakeTx _) ?_ (fun _ => wakeTx_keeps _ rfl (Keeps.refl _))
    | with_reducible apply Grows.foldl | intro _ | dsimp only | split)

theorem narrowOptical_grows (n : Nat) (h : Grows s0 s) : Grows s0 (narrowOptical n s) := by
  unfold narrowOptical
  repeat' (first
    | with_reducible assumption | with_reducible apply narrowLink_grows
    | with_reducible apply Grows.foldl | intro _)

theorem judgeGroup_grows (g : Nat) (h : Grows s0 s) : Grows s0 (judgeGroup g s) := by
  unfold judgeGroup
  repeat' (first
    | with_reducible assumption | with_reducible apply fenceFlank_grows
    | with_reducible apply fenceGuest_grows | with_reducible apply fenceOptical_grows
    | with_reducible apply fencePorts_grows | with_reducible apply narrowOptical_grows
    | with_reducible apply Grows.foldl | intro _ | dsimp only | split)

theorem moduleChanged_grows (m : Nat) (h : Grows s0 s) : Grows s0 (moduleChanged m s) := by
  unfold moduleChanged
  repeat' (first
    | with_reducible assumption | with_reducible apply judgeGroup_grows
    | with_reducible apply refreshDegraded_grows
    | with_reducible refine Grows.app (f := restripe _) ?_ (fun _ => restripe_keeps _ rfl (Keeps.refl _)))

theorem recordFault_grows (src core : Nat) (h : Grows s0 s) : Grows s0 (recordFault src core s) :=
  faultU_grows _ _ (useFree_grows h)

theorem fenceRecord_grows (kind : Nat) (inst : Nat) (h : Grows s0 s) : Grows s0 (fenceRecord kind inst s) := by
  unfold fenceRecord
  repeat' (first
    | with_reducible assumption | with_reducible apply enterDark_grows
    | with_reducible apply excludeSensor_grows
    | with_reducible refine Grows.app (f := fenceBank _ _) ?_ (fun _ => fenceBank_keeps _ _ rfl (Keeps.refl _))
    | with_reducible refine Grows.app (f := laserOff _) ?_ (fun _ => laserOff_keeps _ rfl (Keeps.refl _))
    | with_reducible refine Grows.app (f := markGone _ _) ?_ (fun _ => markGone_keeps _ _ rfl (Keeps.refl _))
    | with_reducible apply moduleChanged_grows | with_reducible apply portOut_grows
    | with_reducible refine Grows.app (f := putDir _ _ _) ?_ (fun _ => putDir_keeps _ _ _ rfl (Keeps.refl _))
    | with_reducible refine Grows.app (f := putOut _ _) ?_ (fun _ => putOut_keeps _ _ rfl (Keeps.refl _))
    | with_reducible apply recordFault_grows
    | with_reducible refine Grows.app (f := setChan _ _) ?_ (fun _ => setChan_keeps _ _ rfl (Keeps.refl _))
    | with_reducible apply Grows.foldl | intro _ | dsimp only | split)

theorem suspectRecord_grows (kind : Nat) (inst : Nat) (h : Grows s0 s) : Grows s0 (suspectRecord kind inst s) := by
  unfold suspectRecord
  repeat' (first
    | with_reducible assumption | with_reducible apply fenceRecord_grows
    | with_reducible apply Grows.foldl | intro _ | dsimp only | split
    | (fail_if_no_progress (with_reducible apply grows_mk)))

theorem judgeWarm_grows (recheckToo : Bool) (c : LaserCheck) (h : Grows s0 s) :
    Grows s0 (judgeWarm recheckToo c s) := by
  unfold judgeWarm
  repeat' (first
    | with_reducible assumption | with_reducible apply laserFail_grows
    | with_reducible apply suspectRecord_grows | with_reducible apply Grows.foldl | intro _ | dsimp only | split)

theorem selectCombLasers_grows (chip : Nat) (h : Grows s0 s) : Grows s0 (selectCombLasers chip s) := by
  unfold selectCombLasers
  repeat' (first
    | with_reducible assumption | with_reducible apply enterDark_grows
    | with_reducible apply Grows.foldl | intro _ | dsimp only | split
    | (fail_if_no_progress (with_reducible apply grows_mk)))

theorem wakeLasers_grows (bad : List LaserCheck) (h : Grows s0 s) : Grows s0 (wakeLasers bad s) := by
  unfold wakeLasers
  repeat' (first
    | with_reducible assumption | with_reducible apply judgeWarm_grows
    | with_reducible refine Grows.app (f := lightComb _) ?_ (fun _ => lightComb_keeps _ rfl (Keeps.refl _))
    | with_reducible apply selectCombLasers_grows | with_reducible apply Grows.foldl | intro _ | dsimp only | split)

theorem laneFault_grows (cls : FClass) (i : Nat) (h : Grows s0 s) : Grows s0 (laneFault cls i s) :=
  report_grows _ (useFree_grows h)

theorem fenceChan_grows (i : Nat) (h : Grows s0 s) : Grows s0 (fenceChan i s) := by
  unfold fenceChan
  repeat' (first
    | with_reducible assumption | with_reducible apply laneFault_grows
    | with_reducible refine Grows.app (f := setChan _ _) ?_ (fun _ => setChan_keeps _ _ rfl (Keeps.refl _)))

theorem ringFailed_grows (c : RingCheck) (h : Grows s0 s) : Grows s0 (ringFailed c s) := by
  unfold ringFailed
  repeat' (first
    | with_reducible assumption | with_reducible apply failBank_grows
    | with_reducible apply fenceChan_grows | with_reducible apply Grows.foldl | intro _ | dsimp only | split)

theorem wakeRings_grows (bad : List RingCheck) (h : Grows s0 s) : Grows s0 (wakeRings bad s) := by
  unfold wakeRings
  repeat' (first
    | with_reducible assumption | with_reducible apply ringFailed_grows
    | with_reducible apply Grows.foldl | intro _ | dsimp only | split)

theorem wakeNow_grows (w : WakeReport) (a : Accepted) (h : Grows s0 s) : Grows s0 (wakeNow w a s) := by
  unfold wakeNow
  repeat' (first
    | with_reducible assumption | with_reducible apply finish_grows
    | with_reducible apply selfTest_grows | with_reducible apply setDev_grows | with_reducible apply wakeLasers_grows
    | with_reducible apply wakeRings_grows | with_reducible apply Grows.foldl | intro _ | dsimp only | split)

theorem hwinFail_grows (h : Grows s0 s) : Grows s0 (hwinFail s) := by
  unfold hwinFail
  repeat' (first
    | with_reducible assumption | with_reducible apply faultDOpen_grows
    | with_reducible refine Grows.app (f := portEvent _) ?_ (fun _ => portEvent_keeps _ rfl (Keeps.refl _)))

theorem askCredit_grows (pkg : Nat) (vc : Nat) (h : Grows s0 s) : Grows s0 (askCredit pkg vc s) := by
  unfold askCredit
  repeat' (first
    | with_reducible assumption | with_reducible apply launch_grows | with_reducible apply Grows.foldl
    | intro _ | dsimp only | split | (fail_if_no_progress (with_reducible apply grows_mk)))

theorem sendFlit_grows (f : Flit) (h : Grows s0 s) : Grows s0 (sendFlit f s) := by
  unfold sendFlit
  repeat' (first
    | with_reducible assumption | with_reducible apply askCredit_grows
    | with_reducible apply launch_grows
    | with_reducible refine Grows.app (f := spendCredit _ _) ?_ (fun _ => spendCredit_keeps _ _ rfl (Keeps.refl _))
    | with_reducible apply Grows.foldl | intro _ | dsimp only | split
    | (fail_if_no_progress (with_reducible apply grows_mk)))

theorem sendReq_grows (r : FabReq) (f : Flit) (h : Grows s0 s) : Grows s0 (sendReq r f s) := by
  unfold sendReq
  repeat' (first
    | with_reducible assumption | with_reducible apply sendFlit_grows | with_reducible apply Grows.foldl
    | intro _ | dsimp only | split | (fail_if_no_progress (with_reducible apply grows_mk)))

theorem peerWrites_grows (p : Nat) (c : Nat) (g : Nat) (a : Nat) (bs : List (Byte × Bool)) (h : Grows s0 s) :
    Grows s0 (peerWrites p c g a bs s) := by
  unfold peerWrites
  repeat' (first
    | with_reducible assumption
    | with_reducible refine Grows.app (f := addMReq _ _ _) ?_ (fun _ => addMReq_keeps _ _ _ rfl (Keeps.refl _))
    | with_reducible refine Grows.app (f := countPeer _ _ _ _) ?_ (fun _ => countPeer_keeps _ _ _ _ rfl (Keeps.refl _))
    | with_reducible apply sendReq_grows | with_reducible apply Grows.foldl | intro _)

theorem mWritePiece_grows (p : Nat) (c : Nat) (dst : Loc) (bs : List (Byte × Bool)) (h : Grows s0 s) :
    Grows s0 (mWritePiece p c dst bs s) := by
  unfold mWritePiece
  repeat' (first
    | with_reducible assumption
    | with_reducible refine Grows.app (f := countWrite _ _ _) ?_ (fun _ => countWrite_keeps _ _ _ rfl (Keeps.refl _))
    | with_reducible refine Grows.app (f := fabCount _) ?_ (fun _ => fabCount_keeps _ rfl (Keeps.refl _))
    | with_reducible apply faultDOpen_grows | with_reducible apply hwinFail_grows
    | with_reducible refine Grows.app (f := hwinPieces _ _ _ _ _ _) ?_ (fun _ => hwinPieces_keeps _ _ _ _ _ _ rfl (Keeps.refl _))
    | with_reducible refine Grows.app (f := locWrite _ _ _ _) ?_ (fun _ => locWrite_keeps _ _ _ _ rfl (Keeps.refl _))
    | with_reducible apply peerWrites_grows | with_reducible apply Grows.foldl | intro _ | dsimp only | split)

theorem mWrite_grows (p : Nat) (c : Nat) (dst : Loc) (bs : List (Byte × Bool)) (h : Grows s0 s) :
    Grows s0 (mWrite p c dst bs s) := by
  unfold mWrite
  repeat' (first
    | with_reducible assumption | with_reducible apply mWritePiece_grows
    | with_reducible apply Grows.foldl | intro _)

theorem mreqEnd_grows (remote : Bool) (tag : BitVec 32) (data : List Byte) (bad : Bool) (h : Grows s0 s) :
    Grows s0 (mreqEnd remote tag data bad s) := by
  unfold mreqEnd
  repeat' (first
    | with_reducible assumption
    | with_reducible refine Grows.app (f := engSet _ _ _ _) ?_ (fun _ => engSet_keeps _ _ _ _ rfl (Keeps.refl _))
    | with_reducible apply mWrite_grows | with_reducible apply Grows.foldl | intro _ | dsimp only | split)

theorem failWaiting_grows (h : Grows s0 s) : Grows s0 (failWaiting s) := by
  unfold failWaiting
  repeat' (first
    | with_reducible assumption | with_reducible apply hwinFail_grows
    | with_reducible apply mreqEnd_grows | with_reducible apply Grows.foldl | intro _ | dsimp only | split
    | (fail_if_no_progress (with_reducible apply grows_mk)))

end

end Sys2Proof.Machine

/-!
PROOFS. The commands of the device and memory groups (R186, R196, R197, R270–R275, R493).
-/

namespace Sys2Proof.Machine

/-! ## Commands that do something before they end -/

/-- A command ends in a state that still holds every entry held when it was accepted. -/
theorem completed_finish_grown (op : BitVec 16) (d : Descriptor) (r : Res) {s e : State} (he : s.cmds.held <+: e.cmds.held) :
    Completed op d r.st s (finish (rowAccepted op d s) r e) := by
  refine ⟨{ completionOf (rowAccepted op d s) r e with dseq := e.cmds.made + 1 }, ?_, rfl, rfl, rfl, rfl⟩
  rw [finish_held, List.drop_append_of_le_length he.length_le]
  simp

/-- What a command does once it has begun keeps the entries held when it was accepted. -/
theorem held_of_rowStart {op : BitVec 16} {d : Descriptor} {s e : State} (h : Grows (rowStart op d s) e) :
    s.cmds.held <+: e.cmds.held := by
  rw [← rowStart_held op d s]
  exact h.held

theorem rowCommand_completes {op : BitVec 16} {d : Descriptor} {s e : State} {run : Accepted → State → State} {r : Res}
    (h : CanBegin op d s) (hrun : run (rowAccepted op d s) (rowStart op d s) = finish (rowAccepted op d s) r e)
    (he : Grows (rowStart op d s) e) : Completed op d r.st s (rowCommand op run d s) := by
  rw [rowCommand_of_canBegin h, hrun]
  exact completed_finish_grown op d r (held_of_rowStart he)

/-- The end of a command touches the command interface alone. -/
theorem finish_quiet (a : Accepted) (r : Res) (s : State) : Keeps [.cmds] s (finish a r s) :=
  finish_keeps a r rfl (Keeps.refl s)

theorem finish_dev (a : Accepted) (r : Res) (s : State) : (finish a r s).dev = s.dev :=
  (finish_quiet a r s).same .dev (by decide)

theorem finish_therm (a : Accepted) (r : Res) (s : State) : (finish a r s).therm = s.therm :=
  (finish_quiet a r s).same .therm (by decide)

theorem setDev_state (d : DevState) (s : State) : (setDev d s).dev.state = d := by
  unfold setDev
  split
  · assumption
  · exact congrArg Dev.state ((notice_keeps _ _ _ (T := [.db, .ports, .cmds, .out]) rfl (Keeps.refl _)).same .dev
      (by decide))

/-- Telling that units serve again or no longer changes the DEGRADED flag alone. -/
theorem refreshDegraded_dev (s : State) : ∃ b, (refreshDegraded s).dev = { s.dev with degraded := b } := by
  unfold refreshDegraded
  dsimp only
  split
  · exact ⟨_, rfl⟩
  · exact ⟨_, (notice_keeps _ _ _ (T := [.db, .ports, .cmds, .out]) rfl (Keeps.refl _)).same .dev (by decide)⟩

theorem flankPhase_refreshDegraded (f : Flank) (s : State) : flankPhase f (refreshDegraded s) = flankPhase f s := by
  obtain ⟨b, hb⟩ := refreshDegraded_dev s
  cases f <;> simp [flankPhase, hb]

theorem flankPhase_congr {s t : State} (h : t.dev = s.dev) (f : Flank) : flankPhase f t = flankPhase f s := by
  cases f <;> simp [flankPhase, h]

@[simp] theorem flankPhase_setFlank (f : Flank) (x : FlankPhase) (s : State) : flankPhase f (setFlank f x s) = x := by
  cases f <;> rfl

/-! ## DEVICE_INFO (R272) -/

theorem rowStart_fwEpoch (op : BitVec 16) (d : Descriptor) (s : State) :
    (rowStart op d s).cmds.fwEpoch = s.cmds.fwEpoch := by
  unfold rowStart rowBegun acceptRow rowAccepted
  cases d.queue <;> rfl

theorem infoBytes_rowStart (op : BitVec 16) (d : Descriptor) (s : State) :
    infoBytes (rowStart op d s) = infoBytes s := by
  obtain ⟨c, hstart, -⟩ := rowStart_cmdsOnly op d s
  have hepoch := rowStart_fwEpoch op d s
  rw [hstart] at hepoch ⊢
  unfold infoBytes
  rw [show c.fwEpoch = s.cmds.fwEpoch from hepoch]
  rfl

/-! ## DEVICE_RESET (R493) -/

theorem flankPhase_softBegin (f : Flank) (s : State) : flankPhase f (softBegin f s) = .softReset := by
  unfold softBegin
  rw [flankPhase_refreshDegraded, flankPhase_congr ((softClear_keeps f (T :=
    [.locks, .ports, .bytes, .memCtl, .counts, .comp, .fab]) rfl (Keeps.refl _)).same .dev (by decide)),
    flankPhase_congr ((mapRunning_keeps _ (T := [.graphs]) rfl (Keeps.refl _)).same .dev (by decide)),
    flankPhase_setFlank]

theorem flankBusy_rowStart (f : Flank) (op : BitVec 16) (d : Descriptor) (s : State) :
    flankBusy f (rowStart op d s) = flankBusy f s := by
  obtain ⟨c, hstart, -⟩ := rowStart_cmdsOnly op d s
  rw [hstart]
  rfl

theorem beginReset_col {a : Accepted} (h : a.desc.imm0.toNat % 16 = 1) (s : State) :
    beginReset a s = colReset (some a) s := if_pos h

theorem beginReset_busy {a : Accepted} {s : State} (hkind : a.desc.imm0.toNat % 16 = 2 ∨ a.desc.imm0.toNat % 16 = 3)
    (hbusy : flankBusy (flankOfNum (bitsOf a.desc.imm0.toNat 8 8)) s = true) :
    beginReset a s = finish a { st := .busy } s := by
  have h1 : ¬ a.desc.imm0.toNat % 16 = 1 := by omega
  have h23 : ¬ (a.desc.imm0.toNat % 16 != 2 && a.desc.imm0.toNat % 16 != 3) = true := by
    rcases hkind with h | h <;> simp [h]
  unfold beginReset
  dsimp only
  rw [if_neg h1, if_neg h23, if_pos hbusy]

theorem beginReset_soft {a : Accepted} {s : State} (hkind : a.desc.imm0.toNat % 16 = 2)
    (hbusy : flankBusy (flankOfNum (bitsOf a.desc.imm0.toNat 8 8)) s = false) :
    beginReset a s = softBegin (flankOfNum (bitsOf a.desc.imm0.toNat 8 8))
      { s with dev := { s.dev with
        resetWait := s.dev.resetWait ++ [(flankOfNum (bitsOf a.desc.imm0.toNat 8 8), a)] } } := by
  have h1 : ¬ a.desc.imm0.toNat % 16 = 1 := by omega
  have h23 : ¬ (a.desc.imm0.toNat % 16 != 2 && a.desc.imm0.toNat % 16 != 3) = true := by simp [hkind]
  unfold beginReset
  dsimp only
  rw [if_neg h1, if_neg h23, if_neg (by simp [hbusy]), if_pos hkind]

/-- After a Col reset the firmware is gone, and the command that asked for it is kept for the next boot. -/
theorem colReset_spec (wait : Option Accepted) (s : State) :
    (colReset wait s).boot.colRestart = true ∧ (colReset wait s).boot.step = 1 ∧
      (colReset wait s).dev.state = .booting ∧ (colReset wait s).dev.colWait = wait :=
  ⟨rfl, rfl, rfl, rfl⟩

/-! ## DEVICE_LIMIT and ACK_SLOWDOWN (R271, R274) -/

theorem beginLimit_inRange {a : Accepted} (hp : a.desc.imm0.toNat % 4 ≠ 3) (hw : 1000 ≤ a.desc.imm1.toNat) (s : State) :
    beginLimit a s = finish a {} (applyBoth { s with dev := { s.dev with
      maxPoint := Point.ofCode (a.desc.imm0.toNat % 4), limitW := min 2400 a.desc.imm1.toNat } }) := by
  have hlimit : (if a.desc.imm1.toNat = 0 || 2400 < a.desc.imm1.toNat then 2400 else a.desc.imm1.toNat) =
      min 2400 a.desc.imm1.toNat := by
    split
    · next h =>
      simp only [Bool.or_eq_true, decide_eq_true_eq] at h
      omega
    · next h =>
      simp only [Bool.or_eq_true, decide_eq_true_eq] at h
      omega
  unfold beginLimit
  dsimp only
  rw [hlimit, if_neg]
  simp only [Bool.or_eq_true, decide_eq_true_eq]
  omega

theorem beginLimit_low {a : Accepted} (h0 : a.desc.imm1.toNat ≠ 0) (hw : a.desc.imm1.toNat < 1000) (s : State) :
    beginLimit a s = finish a { st := .badArgument } s := by
  have hsame : (if a.desc.imm1.toNat = 0 || 2400 < a.desc.imm1.toNat then 2400 else a.desc.imm1.toNat) =
      a.desc.imm1.toNat := if_neg (by simp only [Bool.or_eq_true, decide_eq_true_eq]; omega)
  unfold beginLimit
  dsimp only
  rw [hsame, if_pos]
  simp only [Bool.or_eq_true, decide_eq_true_eq]
  omega

theorem reqOf_congr {s t : State} (h : t.therm = s.therm) (x : Domain) : reqOf x t = reqOf x s := by
  cases x <;> simp [reqOf, h]

theorem rowStart_therm (op : BitVec 16) (d : Descriptor) (s : State) : (rowStart op d s).therm = s.therm := by
  obtain ⟨c, hstart, -⟩ := rowStart_cmdsOnly op d s
  rw [hstart]

@[simp] theorem reqOf_setReq (x : Domain) (r : Request) (s : State) : reqOf x (setReq x r s) = r := by
  cases x <;> rfl

theorem beginAck_open {a : Accepted} {s : State} {x : Domain} (hx : requestDomain a.desc.target s = some x)
    (henf : (reqOf x s).enforcing = false) (hnow : a.desc.imm0.getLsbD 0 = false) :
    beginAck a s = finish a {} (setReq x { reqOf x s with acked := true } s) := by
  unfold beginAck
  rw [hx]
  dsimp only
  rw [if_neg (by simp [henf]), if_neg (by rw [hnow]; exact Bool.false_ne_true)]

/-- Settles O13: each command is accepted, begins and either only ends, or does its one thing and ends. -/
theorem deviceCommands : Obligations.DeviceCommands := by
  refine ⟨fun d s hb haddr hlen hopen => ?_, fun d s hb => ?_, fun d w s hb hwake => ?_, fun d s hb hkind => ?_,
    fun d s hb hkind hbusy => ?_, fun d s hb hkind hbusy => ?_, fun d s hb hp hw => ?_, fun d s hb h0 hw => ?_,
    fun d s hb => ?_, fun d x s hb hx henf hnow => ?_⟩
  · refine ⟨_, rfl, ?_⟩
    have hrun : beginDeviceInfo (rowAccepted 0x0101 d s) (rowStart 0x0101 d s) =
        finishWith (rowAccepted 0x0101 d s) {} (infoBytes s) (rowStart 0x0101 d s) := by
      rw [beginDeviceInfo, infoBytes_rowStart]
    exact rowCommand_finishesWith hb hrun hlen haddr hopen
  · refine ⟨_, rfl, rowCommand_completes (r := {}) (run := beginStandby) hb rfl ?_, ?_⟩
    · exact setDev_grows _ ((Grows.refl _).quiet (standDown_keeps rfl (Keeps.refl _)))
    · rw [rowCommand_of_canBegin hb, beginStandby, finish_dev, setDev_state]
  · have hnone : ¬ (rowStart 0x0103 d s).dev.waking.isSome = true := by
      obtain ⟨c, hstart, -⟩ := rowStart_cmdsOnly 0x0103 d s
      rw [hstart]
      simp [hwake]
    have hrun : wakeNow w (rowAccepted 0x0103 d s) (rowStart 0x0103 d s) = finish (rowAccepted 0x0103 d s) {}
        (setDev .ready (selfTest w.selfTest (wakeRings w.rings (wakeLasers [] (rowStart 0x0103 d s))))) := if_neg hnone
    refine ⟨_, rfl, rowCommand_completes hb hrun ?_, ?_⟩
    · exact setDev_grows _ (selfTest_grows _ (wakeRings_grows _ (wakeLasers_grows _ (Grows.refl _))))
    · rw [rowCommand_of_canBegin hb, hrun, finish_dev, setDev_state]
  · refine ⟨_, rfl, ?_⟩
    rw [rowCommand_of_canBegin hb, beginReset_col (a := rowAccepted 0x0104 d s) hkind]
    obtain ⟨hrestart, hstep, hstate, hwait⟩ := colReset_spec (some (rowAccepted 0x0104 d s)) (rowStart 0x0104 d s)
    exact ⟨hrestart, hstate, hwait, hstep⟩
  · have hbusy' := (flankBusy_rowStart (flankOfNum (bitsOf d.imm0.toNat 8 8)) 0x0104 d s).trans hbusy
    refine ⟨_, rfl, ?_⟩
    rw [rowCommand_of_canBegin hb, beginReset_soft (a := rowAccepted 0x0104 d s) hkind hbusy']
    exact flankPhase_softBegin _ _
  · have hbusy' := (flankBusy_rowStart (flankOfNum (bitsOf d.imm0.toNat 8 8)) 0x0104 d s).trans hbusy
    exact ⟨_, rfl, rowCommand_finishes hb (beginReset_busy (a := rowAccepted 0x0104 d s) hkind hbusy')⟩
  · have hrun := beginLimit_inRange (a := rowAccepted 0x0105 d s) hp hw (rowStart 0x0105 d s)
    refine ⟨_, rfl, rowCommand_completes hb hrun ?_, ?_⟩
    · exact (grows_mk (Grows.refl _)).quiet (applyBoth_keeps rfl (Keeps.refl _))
    · rw [rowCommand_of_canBegin hb, hrun, finish_dev, (applyBoth_keeps (T := [.counts, .comp, .therm, .out]) rfl
        (Keeps.refl _)).same .dev (by decide)]
      exact ⟨rfl, rfl⟩
  · exact ⟨_, rfl, rowCommand_finishes hb (beginLimit_low (a := rowAccepted 0x0105 d s) h0 hw _)⟩
  · refine ⟨_, rfl, rowCommand_completes (r := {}) (run := beginWatchdog) hb rfl
      (grows_mkCmds (Grows.refl _) rfl), ?_⟩
    obtain ⟨hinterval, hpause, hsince, hfired⟩ := finish_watchdog (rowAccepted 0x0106 d s) {}
      { rowStart 0x0106 d s with cmds := { (rowStart 0x0106 d s).cmds with
        wdInterval := d.imm0, wdPause := d.imm1.getLsbD 0, wdSince := (rowStart 0x0106 d s).clock.now, wdFired := false } }
    obtain ⟨c, hstart, -⟩ := rowStart_cmdsOnly 0x0106 d s
    have hclock : (rowStart 0x0106 d s).clock = s.clock := by rw [hstart]
    rw [rowCommand_of_canBegin hb]
    refine ⟨hinterval, hpause, hsince.trans (congrArg Clock.now hclock), hfired, ?_⟩
    exact (beginWatchdog_keeps _ rfl (rowStart_keeps 0x0106 d rfl (Keeps.refl s))).frame
  · have hreq := reqOf_congr (rowStart_therm 0x0701 d s)
    have hx' : requestDomain d.target (rowStart 0x0701 d s) = some x := by
      unfold requestDomain
      simp only [hreq]
      exact hx
    have hrun := beginAck_open (a := rowAccepted 0x0701 d s) hx' (by rw [hreq]; exact henf) hnow
    refine ⟨_, rfl, rowCommand_completes hb hrun ?_, ?_, ?_⟩
    · exact (Grows.refl _).quiet (setReq_keeps _ _ rfl (Keeps.refl _))
    · rw [rowCommand_of_canBegin hb, hrun, reqOf_congr (finish_therm _ _ _), reqOf_setReq, hreq]
    · rw [rowCommand_of_canBegin hb, hrun]
      exact (finish_keeps _ _ rfl (setReq_keeps _ _ rfl (rowStart_keeps _ _ rfl (Keeps.refl s)))).frame

/-! ## MEM_SET_MODE (R186) -/

theorem bitOf_zero {n : Nat} (v : BitVec n) : bitOf v.toNat 0 = v.getLsbD 0 := by
  simp [bitOf, BitVec.getLsbD]

/-! ## Loan windows (R195–R197) -/

theorem loanNotice_grows (i : Nat) (w : Loan) (opened : Bool) {s0 s : State} (h : Grows s0 s) :
    Grows s0 (loanNotice i w opened s) := by
  unfold loanNotice
  refine notice_grows _ _ _ ?_
  split
  · exact useFree_grows h
  · exact h

theorem loanNotice_mem (i : Nat) (w : Loan) (opened : Bool) (s : State) : (loanNotice i w opened s).mem = s.mem := by
  have hk := loanNotice_keeps i w opened (T := [.db, .ports, .cmds, .out, .free]) rfl (Keeps.refl s)
  exact mem_eq_of_same (hk.same .bytes (by decide)) (hk.same .memCtl (by decide))

theorem openWindow_grows (i : Nat) (w : Loan) {s0 s : State} (h : Grows s0 s) : Grows s0 (openWindow i w s) :=
  loanNotice_grows _ _ _ (grows_mk h)

theorem closeWindow_grows (i : Nat) (w : Loan) {s0 s : State} (h : Grows s0 s) : Grows s0 (closeWindow i w s) :=
  loanNotice_grows _ _ _ (grows_mk h)

theorem openWindow_windows (i : Nat) (w : Loan) (s : State) :
    (openWindow i w s).mem.windows = tset none s.mem.windows i (some w) :=
  congrArg MemSys.windows (loanNotice_mem i w true _)

theorem closeWindow_windows (i : Nat) (w : Loan) (s : State) :
    (closeWindow i w s).mem.windows = tset none s.mem.windows i none :=
  congrArg MemSys.windows (loanNotice_mem i w false _)

/-- The window that a MEM_LEND opens. -/
def lentWindow (d : Descriptor) : Loan :=
  ⟨d.imm0.toNat, d.imm1.toNat, if bitOf d.target.toNat 31 then none else some (d.target.toNat % 2 ^ 20),
    bitOf d.target.toNat 30, false, false⟩

theorem beginLend_open {a : Accepted} {i : Nat} {s : State} (hbase : a.desc.imm0.toNat % 2 ^ 21 = 0)
    (hsize : a.desc.imm1.toNat % 2 ^ 21 = 0) (hpos : a.desc.imm1.toNat ≠ 0)
    (htop : a.desc.imm0.toNat + a.desc.imm1.toNat ≤ topOfDram s)
    (hfree : (heldSpans s).any (overlaps (a.desc.imm0.toNat, a.desc.imm1.toNat)) = false) (hi : freeWindow s = some i) :
    beginLend a s = finish a { detail := BitVec.ofNat 32 i } (openWindow i (lentWindow a.desc) s) := by
  unfold beginLend
  dsimp only
  rw [if_neg, if_neg, hi]
  · rfl
  · rw [hfree]; exact Bool.false_ne_true
  · rw [hbase, hsize, bne_self_eq_false]
    simp only [Bool.false_or, Bool.or_eq_true, decide_eq_true_eq]
    omega

theorem beginLend_unaligned {a : Accepted} (hbase : a.desc.imm0.toNat % 2 ^ 21 ≠ 0) (s : State) :
    beginLend a s = finish a { st := .badArgument } s := by
  refine if_pos ?_
  have hne : (a.desc.imm0.toNat % 2 ^ 21 != 0) = true := bne_iff_ne.mpr hbase
  rw [hne]
  rfl

theorem beginReclaim_eq {a : Accepted} {w : Loan} {s : State} (hi : a.desc.target.toNat < 64)
    (hw : tget none s.mem.windows a.desc.target.toNat = some w) : beginReclaim a s =
      if w.inUse && !a.desc.imm0.getLsbD 0 then finish a { st := .busy } s
      else finish a {} (closeWindow a.desc.target.toNat w s) := by
  unfold beginReclaim
  dsimp only
  rw [if_pos hi, hw]

/-- Settles O14: each command is accepted, begins and either only ends, or changes its one record or window and ends. -/
theorem memoryCommands : Obligations.MemoryCommands := by
  refine ⟨fun d s hb => ?_, fun d i s hb hbase hsize hpos htop hfree hi => ?_, fun d s hb hbase => ?_, fun d s hb => ?_,
    fun d w s hb hi hw huse => ?_, fun d w s hb hi hw huse hforce => ?_⟩
  · have hmem := finish_mem (rowAccepted 0x0201 d s) {} { rowStart 0x0201 d s with mem := { (rowStart 0x0201 d s).mem with
      homeNext := bitOf d.imm0.toNat 0, cacheNext := bitsOf d.imm0.toNat 3 2 } }
    refine ⟨_, rfl, rowCommand_completes (r := {}) (run := beginSetMode) hb rfl (grows_mk (Grows.refl _)), ?_⟩
    rw [rowCommand_of_canBegin hb]
    have hsame := rowStart_mem 0x0201 d s
    refine ⟨(congrArg MemSys.homeNext hmem :).trans (bitOf_zero d.imm0), (congrArg MemSys.cacheNext hmem :),
      (congrArg MemSys.home hmem :).trans (congrArg MemSys.home hsame :),
      (congrArg MemSys.cache hmem :).trans (congrArg MemSys.cache hsame :),
      (beginSetMode_keeps _ rfl (rowStart_keeps 0x0201 d rfl (Keeps.refl s))).frame⟩
  · obtain ⟨c, hstart, -⟩ := rowStart_cmdsOnly 0x0202 d s
    have hrun := beginLend_open (a := rowAccepted 0x0202 d s) (s := rowStart 0x0202 d s) hbase hsize hpos
      (by rw [hstart]; exact htop) (by rw [hstart]; exact hfree) (by rw [hstart]; exact hi)
    refine ⟨_, lentWindow d, rfl, rowCommand_completes hb hrun (openWindow_grows _ _ (Grows.refl _)), ?_, rfl, rfl⟩
    rw [rowCommand_of_canBegin hb, hrun, finish_mem, openWindow_windows, tget_tset_self]
    rfl
  · exact ⟨_, rfl, rowCommand_finishes hb (beginLend_unaligned (a := rowAccepted 0x0202 d s) hbase _)⟩
  · have hmem := finish_mem (rowAccepted 0x0203 d s) {} { rowStart 0x0203 d s with mem := { (rowStart 0x0203 d s).mem with
      lendLimit := d.imm0.toNat } }
    refine ⟨_, rfl, rowCommand_completes (r := {}) (run := beginLendLimit) hb rfl (grows_mk (Grows.refl _)), ?_⟩
    rw [rowCommand_of_canBegin hb]
    exact ⟨congrArg MemSys.lendLimit hmem,
      (beginLendLimit_keeps _ rfl (rowStart_keeps 0x0203 d rfl (Keeps.refl s))).frame⟩
  · have hw' : tget none (rowStart 0x0204 d s).mem.windows d.target.toNat = some w := by rw [rowStart_mem]; exact hw
    have hrun := beginReclaim_eq (a := rowAccepted 0x0204 d s) hi hw'
    rw [if_neg] at hrun
    · refine ⟨_, rfl, rowCommand_completes hb hrun (closeWindow_grows _ _ (Grows.refl _)), ?_⟩
      rw [rowCommand_of_canBegin hb, hrun, finish_mem, closeWindow_windows, rowStart_mem]
      rfl
    · rcases huse with h | h
      · rw [h]; exact Bool.false_ne_true
      · rw [show (rowAccepted 0x0204 d s).desc.imm0.getLsbD 0 = true from h, Bool.not_true, Bool.and_false]
        exact Bool.false_ne_true
  · have hw' : tget none (rowStart 0x0204 d s).mem.windows d.target.toNat = some w := by rw [rowStart_mem]; exact hw
    have hrun := beginReclaim_eq (a := rowAccepted 0x0204 d s) hi hw'
    rw [if_pos] at hrun
    · exact ⟨_, rfl, rowCommand_finishes hb hrun⟩
    · rw [huse, show (rowAccepted 0x0204 d s).desc.imm0.getLsbD 0 = false from hforce]
      rfl

end Sys2Proof.Machine

/-!
PROOFS. The host window: accesses, the host's answers, repeats and failure (R215, R221).
-/

namespace Sys2Proof.Machine

/-! ## What sending to the fabric and the host leaves of the ports: the last host SEQ acted on -/

theorem acted_of_keeps {T : List Area} {s t : State} (hk : Keeps T s t) (hT : Area.ports ∉ T) :
    t.ports.acted = s.ports.acted := congrArg Ports.acted (hk.same .ports hT)

theorem acted_of_sentPorts {p q : Ports} (h : sentPorts p = sentPorts q) : p.acted = q.acted := by
  obtain ⟨-, -, -, hacted, -⟩ := portFields_of_rxPorts (rxPorts_of_sentPorts h)
  exact hacted

theorem acted_foldl {α : Type} {f : State → α → State} (hf : ∀ t a, (f t a).ports.acted = t.ports.acted) (l : List α)
    (s : State) : (l.foldl f s).ports.acted = s.ports.acted :=
  List.foldlRecOn (motive := fun t => t.ports.acted = s.ports.acted) _ _ rfl fun t ht a _ => (hf t a).trans ht

theorem acted_faultDOpen (src : Nat) (s : State) : (faultDOpen src s).ports.acted = s.ports.acted :=
  acted_of_sentPorts (sentPorts_report _ (useFree s).2)

theorem acted_hwinTry (q : HwinReq) (s : State) : (hwinTry q s).ports.acted = s.ports.acted := by
  unfold hwinTry
  split
  · obtain ⟨-, -, -, hacted, -⟩ := portFields_of_rxPorts (rxPorts_hwinIssue q s)
    exact hacted
  · rfl

theorem acted_hwinFail (s : State) : (hwinFail s).ports.acted = s.ports.acted := acted_faultDOpen _ (portEvent 2 s)

theorem acted_of_full_or_gone {c : Prop} [Decidable c] {s t u : State} (h : u.ports.acted = s.ports.acted)
    (hr : (if c then Routed.full else .gone u) = .gone t ∨ (if c then Routed.full else .gone u) = .refused t) :
    t.ports.acted = s.ports.acted := by
  split at hr
  · rcases hr with hr | hr <;> cases hr
  · rcases hr with hr | hr <;> cases hr
    exact h

theorem acted_launch (f : Flit) (s : State) : (launch f s).ports.acted = s.ports.acted := by
  have hroute : ∀ t, (routeFlit none f s = .gone t ∨ routeFlit none f s = .refused t) → t.ports.acted = s.ports.acted :=
    fun t hr => by
      unfold routeFlit at hr
      split at hr
      · rcases hr with hr | hr <;> cases hr
      · rcases hr with hr | hr <;> cases hr
        rfl
      · rcases hr with hr | hr <;> cases hr
        exact acted_faultDOpen _ _
      · refine acted_of_full_or_gone ((acted_of_keeps (groupPump_keeps _ (T := [.faults, .counts, .links, .fab, .out]) rfl
          (Keeps.refl _)) (by decide)).trans ?_) hr
        split <;> rfl
  unfold launch
  split
  · next hr => exact hroute _ (.inl hr)
  · next hr => exact hroute _ (.inr hr)
  · rfl
  · rfl

theorem acted_askCredit (pkg vc : Nat) (s : State) : (askCredit pkg vc s).ports.acted = s.ports.acted :=
  acted_launch _ _

theorem acted_sendFlit (f : Flit) (s : State) : (sendFlit f s).ports.acted = s.ports.acted := by
  unfold sendFlit
  dsimp only
  split
  · split
    · split
      · rfl
      · rw [acted_launch, acted_of_keeps (spendCredit_keeps _ _ (T := [.fab]) rfl (Keeps.refl s)) (by decide)]
    · split
      · exact acted_askCredit _ _ _
      · rfl
  · exact acted_launch _ _

theorem acted_sendReq (r : FabReq) (f : Flit) (s : State) : (sendReq r f s).ports.acted = s.ports.acted :=
  acted_sendFlit _ _

theorem acted_hwinSend (cluster : Nat) (write : Bool) (off : Nat) (data : List Byte) (s : State) :
    (hwinSend cluster write off data s).ports.acted = s.ports.acted := acted_hwinTry _ _

theorem acted_peerWrites (p c g a : Nat) (bs : List (Byte × Bool)) (s : State) :
    (peerWrites p c g a bs s).ports.acted = s.ports.acted := by
  refine acted_foldl (fun t q => ?_) _ s
  refine (acted_sendReq _ _ _).trans ?_
  exact acted_of_keeps (T := [.counts, .comp]) (countPeer_keeps _ _ _ _ rfl
    (addMReq_keeps _ _ _ rfl (Keeps.refl t))) (by decide)

theorem acted_hwinPieces (p c : Nat) (write : Bool) (off : Nat) (bs : List Byte) (dst : Loc) (s : State) :
    (hwinPieces p c write off bs dst s).ports.acted = s.ports.acted := by
  refine acted_foldl (fun t i => ?_) _ s
  refine (acted_hwinSend _ _ _ _ _).trans ?_
  exact acted_of_keeps (T := [.counts, .comp]) (countCluster_keeps _ _ _ rfl
    (addMReq_keeps _ _ _ rfl (Keeps.refl t))) (by decide)

theorem acted_mWritePiece (p c : Nat) (dst : Loc) (bs : List (Byte × Bool)) (s : State) :
    (mWritePiece p c dst bs s).ports.acted = s.ports.acted := by
  unfold mWritePiece
  split
  · split
    · exact acted_peerWrites _ _ _ _ _ s
    · exact acted_faultDOpen _ (fabCount 2 s)
  · split
    · split
      · exact acted_hwinPieces _ _ _ _ _ _ s
      · exact acted_hwinFail s
    · split
      · exact acted_faultDOpen _ s
      · exact acted_of_keeps (countWrite_keeps _ _ _ (T := [.bytes, .memCtl, .counts]) rfl
          (locWrite_keeps _ _ _ _ rfl (Keeps.refl s))) (by decide)

/-- The end of a request of an M engine acts on no frame of the host. -/
theorem acted_mreqEnd (remote : Bool) (tag : BitVec 32) (data : List Byte) (bad : Bool) (s : State) :
    (mreqEnd remote tag data bad s).ports.acted = s.ports.acted := by
  unfold mreqEnd
  split
  · rfl
  · dsimp only
    split
    · rfl
    · exact acted_foldl (fun t q => acted_mWritePiece _ _ _ _ t) _ _

/-! ## Accesses (R221) -/

theorem exec_hostWindowAccess {cluster off : Nat} {data : List (BitVec 8)} {s : State} (hloan : hostLoan s = true)
    (hfit : off + data.length ≤ 2 ^ 36) (hactive : anyActive s = true) (write : Bool) :
    exec (.hostWindowAccess cluster write off data) s = .next (hwinSend cluster write off data s) := by
  change execHostWindowAccess cluster write off data s = _
  unfold execHostWindowAccess
  rw [if_neg, if_neg]
  · simp [hactive]
  · simp only [hloan, Bool.not_true, Bool.false_or, decide_eq_true_eq]
    omega

theorem exec_hostWindowAccess_noPort {cluster off : Nat} {data : List (BitVec 8)} {s : State} (hloan : hostLoan s = true)
    (hfit : off + data.length ≤ 2 ^ 36) (hactive : anyActive s = false) (write : Bool) :
    exec (.hostWindowAccess cluster write off data) s = .next (hwinFail s) := by
  change execHostWindowAccess cluster write off data s = _
  unfold execHostWindowAccess
  rw [if_neg, if_pos]
  · simp [hactive]
  · simp only [hloan, Bool.not_true, Bool.false_or, decide_eq_true_eq]
    omega

theorem hwinTry_issues {q : HwinReq} {s : State} (hc : hwinCredit s = true) (hw : s.ports.hwinWait = []) :
    hwinTry q s = hwinIssue q s := if_pos (by simp [hc, hw])

theorem hwinTry_waits {q : HwinReq} {s : State} (h : hwinCredit s = false ∨ s.ports.hwinWait ≠ []) :
    hwinTry q s = { s with ports := { s.ports with hwinWait := s.ports.hwinWait ++ [q] } } := if_neg (by
  rcases h with h | h <;> simp [h])

/-- The request of a new access of an engine. -/
def hwinNew (cluster : Nat) (write : Bool) (off : Nat) (data : List Byte) (s : State) : HwinReq :=
  ⟨s.ports.hwinTag, 0, cluster, write, off, fillEight off data s, s.clock.now, 0⟩

theorem hwinSend_issues {s : State} (hc : hwinCredit s = true) (hw : s.ports.hwinWait = []) (cluster : Nat) (write : Bool)
    (off : Nat) (data : List Byte) : hwinSend cluster write off data s =
      hwinIssue (hwinNew cluster write off data s) { s with ports := { s.ports with hwinTag := s.ports.hwinTag + 1 } } :=
  hwinTry_issues (s := { s with ports := { s.ports with hwinTag := s.ports.hwinTag + 1 } }) hc hw

theorem hwinSend_waits {s : State} (h : hwinCredit s = false ∨ s.ports.hwinWait ≠ []) (cluster : Nat) (write : Bool)
    (off : Nat) (data : List Byte) : hwinSend cluster write off data s =
      { s with ports := { s.ports with
        hwinTag := s.ports.hwinTag + 1, hwinWait := s.ports.hwinWait ++ [hwinNew cluster write off data s] } } :=
  hwinTry_waits (s := { s with ports := { s.ports with hwinTag := s.ports.hwinTag + 1 } }) h

/-- A request issued stands last among those outstanding, with the next SEQ of the G2, one attempt more. -/
theorem hwinIssue_spec (q : HwinReq) (s : State) :
    (hwinIssue q s).ports.hwin =
        s.ports.hwin ++ [{ q with seq := s.ports.devSeq, sentAt := s.clock.now, attempts := q.attempts + 1 }] ∧
      (hwinIssue q s).ports.hwinSent = s.ports.hwinSent + 1 ∧ (hwinIssue q s).ports.devSeq = s.ports.devSeq + 1 := by
  obtain ⟨hhwin, -, hsent, -⟩ := hwinSide_of_sentPorts (sentPorts_sendFrame
    (if q.write then mkFrame 0x0A false 0 0 q.off q.data else mkFrame 0x09 false 0 q.data.length q.off [])
    { s with ports := { s.ports with
      hwin := s.ports.hwin ++ [{ q with seq := s.ports.devSeq, sentAt := s.clock.now, attempts := q.attempts + 1 }]
      hwinSent := s.ports.hwinSent + 1 } })
  exact ⟨hhwin, hsent, sendFrame_devSeq _ _⟩

/-! ## Failure (R221) -/

/-- A failed access enters a class D fault and is counted; the requests outstanding stand. -/
theorem hwinFail_spec (s : State) : (hwinFail s).ports.hwin = s.ports.hwin ∧
    (hwinFail s).ports.events = bump16 s.ports.events 2 ∧ (hwinFail s).faults.entered = s.faults.entered + 1 := by
  have hsent : sentPorts (hwinFail s).ports = sentPorts (portEvent 2 s).ports :=
    sentPorts_report _ (useFree (portEvent 2 s)).2
  obtain ⟨hhwin, -⟩ := hwinSide_of_sentPorts hsent
  obtain ⟨-, -, -, -, -, -, -, -, -, hevents, -⟩ := portFields_of_rxPorts (rxPorts_of_sentPorts hsent)
  exact ⟨hhwin, hevents, report_entered _ _⟩

theorem mreqCore_congr {s t : State} (h : t.comp = s.comp) (remote : Bool) (tag : BitVec 32) :
    mreqCore remote tag t = mreqCore remote tag s := by
  rw [mreqCore, h, mreqCore]

theorem mreqEnd_none {remote : Bool} {tag : BitVec 32} {s : State} (h : mreqCore remote tag s = none) (data : List Byte)
    (bad : Bool) : mreqEnd remote tag data bad s = s := by
  rw [mreqEnd, h]

theorem mem_dropHwin {x : HwinReq} {seq : BitVec 32} {s : State} (h : x ∈ (dropHwin seq s).ports.hwin) : x.seq ≠ seq := by
  have hx := (List.mem_filter.mp h).2
  simpa using hx

/-- The request that a SEQ finds carries it. -/
theorem seq_of_find {l : List HwinReq} {seq : BitVec 32} {q : HwinReq} (h : l.find? (fun x => x.seq = seq) = some q) :
    q.seq = seq := by
  simpa using List.find?_some h

/-! ## Answers and repeats (R210, R215, R221) -/

theorem exec_hwinResponse_ok {p : Port} {f : Frame} {q : HwinReq} {s : State} (hn : isNext f s ≠ none)
    (hf : isHwinResp f = true) (hq : s.ports.hwin.find? (fun x => x.seq = f.refSeq) = some q)
    (hok : f.arg.toNat % 256 = 0) : exec (.hwinResponse p f) s =
      .next (mreqEnd false q.tag f.payload false (dropHwin q.seq (acted f s))) := by
  obtain ⟨h, hh, -⟩ := exists_held_of_isNext hn
  have hq' : (acted f s).ports.hwin.find? (fun x => x.seq = f.refSeq) = some q := hq
  change execHwinResponse p f s = _
  unfold execHwinResponse
  rw [hh]
  dsimp only
  rw [hf, hq', if_neg (by decide)]
  exact if_pos hok

theorem exec_hwinRetryTimer_again {q : HwinReq} {s : State}
    (hq : s.ports.hwin.find? (fun x => x.seq = q.seq) = some q) (hleft : q.attempts < 4) (hactive : anyActive s = true)
    (hdue : q.sentAt + 100000 ≤ s.clock.now) :
    exec (.hwinRetryTimer q.seq) s = .next (hwinTry q (dropHwin q.seq s)) := by
  change execHwinRetryTimer q.seq s = _
  unfold execHwinRetryTimer
  dsimp only
  rw [if_pos hactive, hq]
  exact (if_neg (by omega)).trans (if_pos ⟨hleft, hactive⟩)

/-- The state in which an HWIN request is looked at: with no port ACTIVE the ones that wait have failed. -/
def hwinLooked (s : State) : State := if anyActive s then s else failWaiting s

theorem hwinLooked_eq {s : State} (h : anyActive s = true ∨ s.ports.hwinWait = []) :
    (hwinLooked s).ports.hwin = s.ports.hwin ∧ (hwinLooked s).clock = s.clock ∧ (hwinLooked s).faults = s.faults ∧
      (hwinLooked s).comp = s.comp := by
  unfold hwinLooked
  split
  · exact ⟨rfl, rfl, rfl, rfl⟩
  · next hn =>
    have hw : s.ports.hwinWait = [] := h.resolve_left hn
    rw [failWaiting, hw]
    exact ⟨rfl, rfl, rfl, rfl⟩

theorem exec_hwinRetryTimer_fails {q : HwinReq} {s : State}
    (hq : (hwinLooked s).ports.hwin.find? (fun x => x.seq = q.seq) = some q) (hleft : 4 ≤ q.attempts)
    (hdue : q.sentAt + 100000 ≤ (hwinLooked s).clock.now) :
    exec (.hwinRetryTimer q.seq) s =
      .next (hwinFail (mreqEnd false q.tag [] true (dropHwin q.seq (hwinLooked s)))) := by
  change execHwinRetryTimer q.seq s = _
  unfold execHwinRetryTimer
  dsimp only
  rw [show (if anyActive s = true then s else failWaiting s) = hwinLooked s from rfl, hq]
  exact (if_neg (by omega)).trans (if_neg (by omega))

/-- Settles O9: an access is issued, waits or fails; an answer takes its request off; a repeat is a new issue of the
request; and a failure is entered behind everything that its request still did. -/
theorem hostWindowRows : Obligations.HostWindowRows := by
  refine ⟨fun cluster off write data s hloan hfit hactive hcredit hwait => ?_,
    fun cluster off write data s hloan hfit hactive hwait => ?_, fun cluster off write data s hloan hfit hactive => ?_,
    fun p f q s hn hf hq hok => ?_, fun q s hq hleft hactive hcredit hwait hdue => ?_,
    fun q s hq hleft hwait hdue => ?_⟩
  · have hrow := exec_hostWindowAccess hloan hfit hactive (cluster := cluster) write
    rw [hwinSend_issues hcredit hwait] at hrow
    obtain ⟨hhwin, hsent, hseq⟩ := hwinIssue_spec (hwinNew cluster write off data s)
      { s with ports := { s.ports with hwinTag := s.ports.hwinTag + 1 } }
    refine ⟨_, hrow, ⟨_, hhwin, rfl, rfl, rfl, rfl, rfl⟩, hsent, hseq, ?_⟩
    exact (hwinIssue_keeps _ rfl (keeps_setPorts rfl (Keeps.refl s) _)).frame
  · have hrow := exec_hostWindowAccess hloan hfit hactive (cluster := cluster) write
    rw [hwinSend_waits hwait] at hrow
    exact ⟨_, hrow, rfl, ⟨_, rfl, rfl, rfl, rfl, rfl⟩, (keeps_setPorts rfl (Keeps.refl s) _).frame⟩
  · obtain ⟨hhwin, hevents, hentered⟩ := hwinFail_spec s
    exact ⟨_, exec_hostWindowAccess_noPort hloan hfit hactive write, hhwin, hevents, hentered⟩
  · refine ⟨_, exec_hwinResponse_ok hn hf hq hok, acted_mreqEnd _ _ _ _ _, fun hnone x hx => ?_⟩
    have hnone' := (mreqCore_congr (s := s) (t := dropHwin q.seq (acted f s)) rfl false q.tag).trans hnone
    rw [mreqEnd_none hnone'] at hx
    rw [← seq_of_find hq]
    exact mem_dropHwin hx
  · have hrow := exec_hwinRetryTimer_again hq hleft hactive hdue
    rw [hwinTry_issues (s := dropHwin q.seq s) hcredit hwait] at hrow
    obtain ⟨hhwin, -⟩ := hwinIssue_spec q (dropHwin q.seq s)
    refine ⟨_, hrow, { q with seq := s.ports.devSeq, sentAt := s.clock.now, attempts := q.attempts + 1 }, ?_, rfl, rfl, rfl,
      rfl, rfl⟩
    rw [hhwin]
    exact List.mem_append_right _ (List.mem_singleton.mpr rfl)
  · obtain ⟨hhwin, hclock, hfaults, hcomp⟩ := hwinLooked_eq hwait
    have hrow := exec_hwinRetryTimer_fails (q := q) (s := s) (by rw [hhwin]; exact hq) hleft (by rw [hclock]; exact hdue)
    obtain ⟨hstand, -, hentered⟩ := hwinFail_spec (mreqEnd false q.tag [] true (dropHwin q.seq (hwinLooked s)))
    refine ⟨_, hrow, ?_, fun hnone x hx => ?_⟩
    · have hgrows := mreqEnd_grows false q.tag [] true (Grows.refl (dropHwin q.seq (hwinLooked s)))
      have hle : s.faults.entered ≤ _ := hfaults ▸ hgrows.entered
      rw [hentered]
      exact Nat.lt_succ_of_le hle
    · have hnone' := (mreqCore_congr (t := dropHwin q.seq (hwinLooked s)) hcomp false q.tag).trans hnone
      rw [hstand, mreqEnd_none hnone'] at hx
      exact mem_dropHwin hx

end Sys2Proof.Machine

/-!
PROOFS. The frame of fault events of classes C and D, which touch neither the device state, the boot state nor the graphs, and
of what is sent into the fabric, which can fail with a class D event at worst (R367, R455).
-/

namespace Sys2Proof.Machine

section
variable {T : List Area} {s0 s : State}

/-! ## The frame of an update of one field -/

theorem keeps_setPins (hT : within [.pins] T = true) (h : Keeps T s0 s) (x) : Keeps T s0 { s with pins := x } :=
  keeps_mk h fun y hy => by cases y <;> first
    | exact absurd (within_mem hT rfl) hy
    | exact rfl
    | exact ⟨rfl, rfl, rfl, rfl, rfl, rfl⟩

theorem keeps_setMbx (hT : within [.mbx] T = true) (h : Keeps T s0 s) (x) : Keeps T s0 { s with mbx := x } :=
  keeps_mk h fun y hy => by cases y <;> first
    | exact absurd (within_mem hT rfl) hy
    | exact rfl
    | exact ⟨rfl, rfl, rfl, rfl, rfl, rfl⟩

theorem keeps_setBanks (hT : within [.banks] T = true) (h : Keeps T s0 s) (x) : Keeps T s0 { s with banks := x } :=
  keeps_mk h fun y hy => by cases y <;> first
    | exact absurd (within_mem hT rfl) hy
    | exact rfl
    | exact ⟨rfl, rfl, rfl, rfl, rfl, rfl⟩

theorem keeps_setLas (hT : within [.las] T = true) (h : Keeps T s0 s) (x) : Keeps T s0 { s with las := x } :=
  keeps_mk h fun y hy => by cases y <;> first
    | exact absurd (within_mem hT rfl) hy
    | exact rfl
    | exact ⟨rfl, rfl, rfl, rfl, rfl, rfl⟩

theorem keeps_setChans (hT : within [.chans] T = true) (h : Keeps T s0 s) (x) : Keeps T s0 { s with chans := x } :=
  keeps_mk h fun y hy => by cases y <;> first
    | exact absurd (within_mem hT rfl) hy
    | exact rfl
    | exact ⟨rfl, rfl, rfl, rfl, rfl, rfl⟩

theorem keeps_setLinks (hT : within [.links] T = true) (h : Keeps T s0 s) (x) : Keeps T s0 { s with links := x } :=
  keeps_mk h fun y hy => by cases y <;> first
    | exact absurd (within_mem hT rfl) hy
    | exact rfl
    | exact ⟨rfl, rfl, rfl, rfl, rfl, rfl⟩

theorem keeps_setFab (hT : within [.fab] T = true) (h : Keeps T s0 s) (x) : Keeps T s0 { s with fab := x } :=
  keeps_mk h fun y hy => by cases y <;> first
    | exact absurd (within_mem hT rfl) hy
    | exact rfl
    | exact ⟨rfl, rfl, rfl, rfl, rfl, rfl⟩

theorem keeps_setD2d (hT : within [.d2d] T = true) (h : Keeps T s0 s) (x) : Keeps T s0 { s with d2d := x } :=
  keeps_mk h fun y hy => by cases y <;> first
    | exact absurd (within_mem hT rfl) hy
    | exact rfl
    | exact ⟨rfl, rfl, rfl, rfl, rfl, rfl⟩

theorem keeps_setGuest (hT : within [.guest] T = true) (h : Keeps T s0 s) (x) : Keeps T s0 { s with guest := x } :=
  keeps_mk h fun y hy => by cases y <;> first
    | exact absurd (within_mem hT rfl) hy
    | exact rfl
    | exact ⟨rfl, rfl, rfl, rfl, rfl, rfl⟩

theorem keeps_setStk (hT : within [.stk] T = true) (h : Keeps T s0 s) (x) : Keeps T s0 { s with stk := x } :=
  keeps_mk h fun y hy => by cases y <;> first
    | exact absurd (within_mem hT rfl) hy
    | exact rfl
    | exact ⟨rfl, rfl, rfl, rfl, rfl, rfl⟩

theorem keeps_setFree (hT : within [.free] T = true) (h : Keeps T s0 s) (x) : Keeps T s0 { s with free := x } :=
  keeps_mk h fun y hy => by cases y <;> first
    | exact absurd (within_mem hT rfl) hy
    | exact rfl
    | exact ⟨rfl, rfl, rfl, rfl, rfl, rfl⟩

theorem keeps_setFabComp (hT : within [.comp, .fab] T = true) (h : Keeps T s0 s) (x y) :
    Keeps T s0 { s with comp := x, fab := y } :=
  keeps_setFab (within_trans rfl hT) (keeps_setComp (within_trans rfl hT) h x) y

/-! ## Events of classes C and D -/

theorem report_keepsMinor {e : FaultInput} (he : e.cls = .c ∨ e.cls = .d)
    (hT : within [.faults, .db, .ports, .cmds, .cairn, .out] T = true) (h : Keeps T s0 s) : Keeps T s0 (report e s) := by
  have hnoticed : ∀ (c : Prop) [Decidable c] (i : Nat) (first : Bool),
      Keeps T s0 (if c then faultNotice e i first (collect e s) else collect e s) := fun c _ i first => by
    have hcollect := collect_keeps e (within_trans rfl hT) h
    split
    · exact faultNotice_keeps _ _ _ (within_trans rfl hT) hcollect
    · exact hcollect
  unfold report
  rcases he with he | he <;> rw [he] <;> exact faultTriggers_keeps _ _ (within_trans rfl hT) (hnoticed _ _ _)

theorem faultC_keepsMinor (src syn : Nat) (hT : within [.faults, .db, .ports, .cmds, .cairn, .out] T = true)
    (h : Keeps T s0 s) : Keeps T s0 (faultC src syn s) := report_keepsMinor (.inl rfl) hT h

theorem faultD_keepsMinor (src syn : Nat) (hT : within [.faults, .db, .ports, .cmds, .cairn, .out] T = true)
    (h : Keeps T s0 s) : Keeps T s0 (faultD src syn s) := report_keepsMinor (.inr rfl) hT h

theorem faultCOpen_keepsMinor (src : Nat) (hT : within [.faults, .db, .ports, .cmds, .cairn, .out, .free] T = true)
    (h : Keeps T s0 s) : Keeps T s0 (faultCOpen src s) :=
  faultC_keepsMinor _ _ (within_trans rfl hT) (useFree_keeps (within_trans rfl hT) h)

theorem faultDOpen_keepsMinor (src : Nat) (hT : within [.faults, .db, .ports, .cmds, .cairn, .out, .free] T = true)
    (h : Keeps T s0 s) : Keeps T s0 (faultDOpen src s) :=
  faultD_keepsMinor _ _ (within_trans rfl hT) (useFree_keeps (within_trans rfl hT) h)

theorem hwinFail_keepsMinor (hT : within [.faults, .db, .ports, .cmds, .cairn, .out, .free] T = true)
    (h : Keeps T s0 s) : Keeps T s0 (hwinFail s) :=
  faultDOpen_keepsMinor _ hT (portEvent_keeps _ (within_trans rfl hT) h)

/-! ## What is sent into the fabric -/

theorem keeps_of_full_or_gone {c : Prop} [Decidable c] {t u : State} (h : Keeps T s0 u)
    (hr : (if c then Routed.full else .gone u) = .gone t ∨ (if c then Routed.full else .gone u) = .refused t) :
    Keeps T s0 t := by
  split at hr
  · rcases hr with hr | hr <;> cases hr
  · rcases hr with hr | hr <;> cases hr
    exact h

theorem routeFlit_keepsMinor {ring : Option Nat} {f : Flit} {t : State}
    (hT : within [.faults, .db, .ports, .cmds, .counts, .cairn, .links, .fab, .out, .free] T = true) (h : Keeps T s0 s)
    (hr : routeFlit ring f s = .gone t ∨ routeFlit ring f s = .refused t) : Keeps T s0 t := by
  unfold routeFlit at hr
  split at hr
  · rcases hr with hr | hr <;> cases hr
  · rcases hr with hr | hr <;> cases hr
    exact fabCount_keeps _ (within_trans rfl hT) h
  · rcases hr with hr | hr <;> cases hr
    exact faultDOpen_keepsMinor _ (within_trans rfl hT) (fabCount_keeps _ (within_trans rfl hT) h)
  · refine keeps_of_full_or_gone (groupPump_keeps _ (within_trans rfl hT) (outSet_keeps _ _ _ (within_trans rfl hT)
      (keeps_setFab (within_trans rfl hT) ?_ _))) hr
    split
    · exact keeps_setFree (within_trans rfl hT) h _
    · exact h

theorem launch_keepsMinor (f : Flit)
    (hT : within [.faults, .db, .ports, .cmds, .counts, .cairn, .links, .fab, .out, .free] T = true) (h : Keeps T s0 s) :
    Keeps T s0 (launch f s) := by
  unfold launch
  split
  · next hr => exact routeFlit_keepsMinor hT h (.inl hr)
  · next hr => exact routeFlit_keepsMinor hT h (.inr hr)
  · exact h
  · exact keeps_setFab (within_trans rfl hT) h _

theorem askCredit_keepsMinor (pkg vc : Nat)
    (hT : within [.faults, .db, .ports, .cmds, .counts, .comp, .cairn, .links, .fab, .out, .free] T = true)
    (h : Keeps T s0 s) : Keeps T s0 (askCredit pkg vc s) :=
  launch_keepsMinor _ (within_trans rfl hT)
    (keeps_setFabComp (within_trans rfl hT) h _ _)

theorem sendFlit_keepsMinor (f : Flit)
    (hT : within [.faults, .db, .ports, .cmds, .counts, .comp, .cairn, .links, .fab, .out, .free] T = true)
    (h : Keeps T s0 s) : Keeps T s0 (sendFlit f s) := by
  unfold sendFlit
  dsimp only
  split
  · split
    · split
      · exact keeps_setFab (within_trans rfl hT) h _
      · exact launch_keepsMinor _ (within_trans rfl hT) (spendCredit_keeps _ _ (within_trans rfl hT) h)
    · have hwait := keeps_setFab (within_trans rfl hT) h { s.fab with waiting := s.fab.waiting ++ [f] }
      split
      · exact askCredit_keepsMinor _ _ hT hwait
      · exact hwait
  · exact launch_keepsMinor _ (within_trans rfl hT) h

theorem sendReq_keepsMinor (r : FabReq) (f : Flit)
    (hT : within [.faults, .db, .ports, .cmds, .counts, .comp, .cairn, .links, .fab, .out, .free] T = true)
    (h : Keeps T s0 s) : Keeps T s0 (sendReq r f s) :=
  sendFlit_keepsMinor _ hT (keeps_setFabComp (within_trans rfl hT) h _ _)

theorem sendSys_keepsMinor (pkg purpose slot : Nat) (payload : List Byte)
    (hT : within [.faults, .db, .ports, .cmds, .counts, .comp, .cairn, .links, .fab, .out, .free] T = true)
    (h : Keeps T s0 s) : Keeps T s0 (sendSys pkg purpose slot payload s) := by
  unfold sendSys
  dsimp only
  split
  · exact sendReq_keepsMinor _ _ hT h
  · exact keeps_setFabComp (within_trans rfl hT) h _ _

theorem returnLoans_keepsMinor (l : List (Nat × Nat × Nat))
    (hT : within [.faults, .db, .ports, .cmds, .counts, .comp, .cairn, .links, .fab, .out, .free] T = true)
    (h : Keeps T s0 s) : Keeps T s0 (returnLoans l s) :=
  Keeps.foldl h fun _ _ ht => sendSys_keepsMinor _ _ _ _ hT ht

end

end Sys2Proof.Machine

/-!
PROOFS. The commands of bundles: LOAD_BUNDLE, VERIFY_BUNDLE, PLACE and UNLOAD (R144, R161, R164, R166).
-/

namespace Sys2Proof.Machine

/-! ## What is sent, and the device state that follows the graphs, only add entries and events -/

section
variable {s0 s : State}

theorem sendSys_grows (pkg purpose slot : Nat) (payload : List Byte) (h : Grows s0 s) :
    Grows s0 (sendSys pkg purpose slot payload s) := by
  unfold sendSys
  dsimp only
  split
  · exact sendReq_grows _ _ h
  · exact grows_mk h

theorem returnLoans_grows (l : List (Nat × Nat × Nat)) (h : Grows s0 s) : Grows s0 (returnLoans l s) :=
  Grows.foldl h fun _ _ ht => sendSys_grows _ _ _ _ ht

theorem deriveDev_grows (h : Grows s0 s) : Grows s0 (deriveDev s) := by
  unfold deriveDev
  split
  · exact h
  · refine setDev_grows _ ?_
    split
    · exact h
    · exact touchSync_grows h

end

/-! ## A slot read after what does not touch graphs -/

theorem slotGet_congr {s t : State} (h : t.graphs = s.graphs) (i : Nat) : slotGet i t = slotGet i s := by
  rw [slotGet, h, slotGet]

theorem graphs_of_keeps {T : List Area} {s t : State} (hk : Keeps T s t) (hT : Area.graphs ∉ T) : t.graphs = s.graphs :=
  hk.same .graphs hT

theorem finish_graphs (a : Accepted) (r : Res) (s : State) : (finish a r s).graphs = s.graphs :=
  graphs_of_keeps (finish_quiet a r s) (by decide)

theorem finishWith_graphs (a : Accepted) (r : Res) (bytes : List Byte) (s : State) :
    (finishWith a r bytes s).graphs = s.graphs :=
  graphs_of_keeps (finishWith_keeps a r bytes (T := [.ports, .cmds, .bytes, .memCtl, .counts, .out]) rfl (Keeps.refl s))
    (by decide)

theorem deriveDev_graphs (s : State) : (deriveDev s).graphs = s.graphs :=
  graphs_of_keeps (deriveDev_keeps (T := [.dev, .db, .ports, .cmds, .out]) rfl (Keeps.refl s)) (by decide)

theorem returnLoans_graphs (l : List (Nat × Nat × Nat)) (s : State) : (returnLoans l s).graphs = s.graphs :=
  graphs_of_keeps (returnLoans_keepsMinor l
    (T := [.faults, .db, .ports, .cmds, .counts, .comp, .cairn, .links, .fab, .out, .free]) rfl (Keeps.refl s)) (by decide)

/-! ## A result that fits (R259) -/

/-- The entry that ends a command carries its DETAIL. -/
theorem finish_detail (a : Accepted) (r : Res) {s e : State} (he : s.cmds.held <+: e.cmds.held) :
    ∃ x ∈ (finish a r e).cmds.held.drop s.cmds.held.length, x.detail = r.detail := by
  refine ⟨{ completionOf a r e with dseq := e.cmds.made + 1 }, ?_, rfl⟩
  rw [finish_held, List.drop_append_of_le_length he.length_le]
  simp

theorem completed_finishWith_grown (op : BitVec 16) (d : Descriptor) (r : Res) {bytes : List Byte} {s e : State}
    (hlen : bytes.length ≤ d.resLen.toNat) (he : s.cmds.held <+: e.cmds.held) :
    Completed op d r.st s (finishWith (rowAccepted op d s) r bytes e) := by
  have hshort : ¬ (rowAccepted op d s).desc.resLen.toNat < bytes.length := Nat.not_lt.mpr hlen
  rw [finishWith, if_neg hshort]
  exact completed_finish_grown op d { r with written := _ }
    (he.trans ((Grows.refl e).quiet (fwWrite_keeps _ _ rfl (Keeps.refl e))).held)

theorem fitBytes_length {f : Fit} (h : f.cm = []) : (fitBytes f).length = 64 := by
  simp [fitBytes, h, zeros]

/-! ## LOAD_BUNDLE (R144, R164) -/

theorem judgeFit_fits {w : FitWait} {needed free : Nat} (h : needed ≤ free) : judgeFit w needed free = .fits ⟨0, 0, []⟩ := by
  have hshort : needed - free = 0 := by omega
  simp [judgeFit, hshort]

theorem verifyFit_fits {w : FitWait} {needed free : Nat} (h : needed ≤ free) : verifyFit w needed free = .fits ⟨0, 0, []⟩ :=
  judgeFit_fits h

theorem sourceBytes_dram {d : Descriptor} {s : State} (h40 : d.argAddr.toNat < 2 ^ 40) (htop : d.argAddr.toNat < topOfDram s) :
    sourceBytes d s = (viewBytes d.argAddr.toNat d.argLen.toNat s, s) := by
  have hplace : place (d.argAddr.toNat % 2 ^ 40) s = .dram d.argAddr.toNat := by
    rw [Nat.mod_eq_of_lt h40, place, if_pos htop]
  unfold sourceBytes
  dsimp only
  rw [if_pos (by rw [Nat.div_eq_of_lt h40]; rfl), hplace]

theorem spillAddrs_nil (w : FitWait) (s : State) : spillAddrs w [] s = [] := by
  unfold spillAddrs
  dsimp only
  split <;> rfl

/-- The memory of a load that needs no spill is written. -/
def loadWritten (w : FitWait) (s : State) : State :=
  let total := loadNeed w.b w.adopted.isSome
  let r := splitSpans (constCut w.b [] w.consts).length (takeSpans total (freeRanges s))
  zeroStates (splitSpans (total - (constCut w.b [] w.consts).length - w.b.kernelBytes) r.2).1
    (writeSpans r.1 (constCut w.b [] w.consts) s)

theorem loadWritten_keeps (w : FitWait) {T : List Area} {s0 s : State} (hT : within [.bytes, .memCtl, .counts] T = true)
    (h : Keeps T s0 s) : Keeps T s0 (loadWritten w s) :=
  zeroStates_keeps _ hT (writeSpans_keeps _ _ hT h)

/-- A load that fits without a spill puts its graph in the slot. -/
theorem keepLoad_fits (w : FitWait) (i : Nat) (s : State) : ∃ g, keepLoad w i ⟨0, 0, []⟩ s = slotSet i g (loadWritten w s) ∧
    g.state = some .loaded ∧ g.b = w.b ∧ g.gen = (slotGet i s).gen := by
  unfold keepLoad
  dsimp only
  rw [spillAddrs_nil]
  exact ⟨_, rfl, rfl, rfl, rfl⟩

/-- The fit of a load in slot `i`. -/
theorem tryLoad_fits {w : FitWait} {i : Nat} {s : State} (hslot : freeSlot s = some i) (hlen : w.cmd.desc.resLen = 0)
    (hfit : loadNeed w.b w.adopted.isSome ≤ rangeBytes (freeRanges s)) : ∃ warn,
    tryLoad w s = finish w.cmd
      { detail := handleOf i (slotGet i (deriveDev (keepLoad w i ⟨0, 0, []⟩ s))), graph := 1, warn := warn }
      (deriveDev (keepLoad w i ⟨0, 0, []⟩ s)) := by
  unfold tryLoad
  rw [hslot]
  dsimp only
  rw [judgeFit_fits hfit]
  dsimp only
  rw [if_neg (by simp [hlen]), endLoad, if_pos hlen]
  exact ⟨_, rfl⟩

/-- The fit that a LOAD_BUNDLE makes of a bundle. -/
def loadWait (a : Accepted) (b : Bundle) (s : State) : FitWait :=
  ⟨a, true, b, if (adoptedAt a.desc b s).isSome then []
    else ((viewBytes a.desc.argAddr.toNat a.desc.argLen.toNat s).drop b.constOff).take b.constSize,
    adoptedAt a.desc b s, [], [], b.lenders, none, false, [], []⟩

theorem beginLoad_ok {a : Accepted} {b : Bundle} {s : State} (h40 : a.desc.argAddr.toNat < 2 ^ 40)
    (htop : a.desc.argAddr.toNat < topOfDram s)
    (hcheck : checkBundle (viewBytes a.desc.argAddr.toNat a.desc.argLen.toNat s) s = .ok b) :
    beginLoad a s = tryLoad (loadWait a b s) s := by
  unfold beginLoad
  rw [sourceBytes_dram h40 htop]
  dsimp only
  rw [hcheck]
  rfl

/-! ## VERIFY_BUNDLE (R144, R168) -/

theorem beginVerify_fits {a : Accepted} {b : Bundle} {s : State} (h40 : a.desc.argAddr.toNat < 2 ^ 40)
    (htop : a.desc.argAddr.toNat < topOfDram s)
    (hcheck : checkBundle (viewBytes a.desc.argAddr.toNat a.desc.argLen.toNat s) s = .ok b)
    (hfit : loadNeed b (adoptedAt a.desc b s).isSome ≤ rangeBytes (freeRanges s)) :
    ∃ f : Fit, f.cm = [] ∧ beginVerify a s = finishWith a {} (fitBytes f) s := by
  unfold beginVerify
  rw [sourceBytes_dram h40 htop]
  dsimp only
  rw [hcheck]
  dsimp only
  rw [verifyFit_fits hfit]
  exact ⟨_, rfl, rfl⟩

/-! ## PLACE (R161, R167) -/

theorem keepPlace_slot (w : FitWait) (i : Nat) (x : Spill) (p : Plan) (kept : List Photonic) (s : State) :
    (slotGet i (keepPlace w i x p kept s)).state = some .placed ∧
      (slotGet i (keepPlace w i x p kept s)).placed = p.placed := by
  unfold keepPlace
  rw [slotGet_congr (graphs_of_keeps (writeSpans_keeps _ _ (T := [.bytes, .memCtl, .counts]) rfl (Keeps.refl _)) (by decide)),
    slotGet_slotSet_self]
  exact ⟨rfl, rfl⟩

/-- The placement in slot `i` of a graph that fits without a spill. -/
def placeDone (w : FitWait) (i : Nat) (g : Graph) (s : State) : State :=
  let s0 := slotSet i (unplaced g) s
  let p := planOf w i w.cmd.desc.target s0
  returnLoans (g.loans.drop g.loadSpill.2) (keepPlace w i ⟨0, 0, []⟩ p (keptPhotonic w i p s0) s0)

theorem placeDone_slot (w : FitWait) (i : Nat) (g : Graph) (s : State) :
    (slotGet i (placeDone w i g s)).state = some .placed ∧
      (slotGet i (placeDone w i g s)).placed = (planOf w i w.cmd.desc.target (slotSet i (unplaced g) s)).placed := by
  unfold placeDone
  rw [slotGet_congr (returnLoans_graphs _ _)]
  exact keepPlace_slot _ _ _ _ _ _

theorem placeDone_grows (w : FitWait) (i : Nat) (g : Graph) (s : State) : Grows s (placeDone w i g s) :=
  returnLoans_grows _ (((Grows.refl s).quiet (slotSet_keeps _ _ rfl (Keeps.refl s))).quiet
    (keepPlace_keeps _ _ _ _ _ rfl (Keeps.refl _)))

theorem tryPlace_fits {w : FitWait} {i : Nat} {g : Graph} {s : State}
    (hg : graphAt w.cmd.desc.target s = some (i, g)) (hstate : g.state = some .loaded)
    (hfit : placeNeed w.b (keptPhotonic w i (planOf w i w.cmd.desc.target (slotSet i (unplaced g) s))
      (slotSet i (unplaced g) s)) ≤ rangeBytes (freeRanges (slotSet i (unplaced g) s)))
    (hsets : setsOf (planOf w i w.cmd.desc.target (slotSet i (unplaced g) s)).photonic ≤
      pFreeOf i (planOf w i w.cmd.desc.target (slotSet i (unplaced g) s)) (slotSet i (unplaced g) s))
    (hcm : cmShorts i (planOf w i w.cmd.desc.target (slotSet i (unplaced g) s)) (slotSet i (unplaced g) s) = [])
    (hlen : 64 ≤ w.cmd.desc.resLen.toNat) :
    ∃ (r : Res) (f : Fit), r.st = .ok ∧ f.cm = [] ∧
      tryPlace w s = finishWith w.cmd r (fitBytes f) (placeDone w i g s) := by
  have hpbad : (!w.b.pShort && decide (pFreeOf i (planOf w i w.cmd.desc.target (slotSet i (unplaced g) s))
      (slotSet i (unplaced g) s) < setsOf (planOf w i w.cmd.desc.target (slotSet i (unplaced g) s)).photonic)) = false := by
    rw [decide_eq_false (Nat.not_lt.mpr hsets), Bool.and_false]
  unfold tryPlace
  rw [hg]
  dsimp only
  rw [if_neg (by simp [hstate]), judgeFit_fits hfit]
  dsimp only
  rw [hpbad, hcm, if_neg]
  · exact ⟨_, _, rfl, rfl, rfl⟩
  · rw [fitBytes_length rfl]
    simp only [bne_self_eq_false, Bool.or_self, Bool.false_or, decide_eq_true_eq]
    omega

theorem argBytes_withCmds (d : Descriptor) (c : Cmds) (s : State) :
    argBytes d { s with cmds := c } = ((argBytes d s).1, { (argBytes d s).2 with cmds := c }) := by
  have hplace : place d.argAddr.toNat { s with cmds := c } = place d.argAddr.toNat s := rfl
  unfold argBytes
  rw [hplace]
  cases place d.argAddr.toNat s <;> rfl

/-- A PLACE whose placement fits comes to its fit. -/
theorem beginPlace_fits {d : Descriptor} {i : Nat} {g : Graph} {w : FitWait} {s : State}
    (hg : graphAt d.target s = some (i, g)) (hstate : g.state = some .loaded) (h : PlaceFits d i g w s) :
    beginPlace (rowAccepted 0x0303 d s) (rowStart 0x0303 d s) = tryPlace w (rowStart 0x0303 d s) := by
  obtain ⟨groups, hints, fenced, harg, hparse, rfl, hfence, -⟩ := h
  obtain ⟨c, hstart, -⟩ := rowStart_cmdsOnly 0x0303 d s
  have hg' : graphAt d.target { s with cmds := c } = some (i, g) := hg
  have harg' : argBytes (rowAccepted 0x0303 d s).desc { s with cmds := c } = ((argBytes d s).1, { s with cmds := c }) := by
    rw [argBytes_withCmds]
    exact congrArg (fun t : State => ((argBytes d s).1, { t with cmds := c })) harg
  have hfence' : fencedHint (groups ++ g.b.groups) ((List.range g.b.operators.length).filterMap (hintOf
      ⟨rowAccepted 0x0303 d s, false, g.b, [], none, hints, groups, g.b.lenders, none, false, [], []⟩))
      { s with cmds := c } = .ok fenced := hfence
  rw [hstart]
  unfold beginPlace
  rw [show (rowAccepted 0x0303 d s).desc.target = d.target from rfl, hg']
  dsimp only
  rw [if_neg (by simp [hstate]), harg']
  dsimp only
  rw [hparse]
  dsimp only
  rw [hfence']

/-! The fit of a placement reads nothing of the command interface. -/

theorem freeRanges_withCmds (c : Cmds) (s : State) : freeRanges { s with cmds := c } = freeRanges s := rfl

theorem planOf_withCmds (w : FitWait) (i : Nat) (h : BitVec 32) (c : Cmds) (s : State) :
    planOf w i h { s with cmds := c } = planOf w i h s := rfl

theorem keptPhotonic_withCmds (w : FitWait) (i : Nat) (p : Plan) (c : Cmds) (s : State) :
    keptPhotonic w i p { s with cmds := c } = keptPhotonic w i p s := rfl

theorem pFreeOf_withCmds (i : Nat) (p : Plan) (c : Cmds) (s : State) :
    pFreeOf i p { s with cmds := c } = pFreeOf i p s := rfl

theorem cmShorts_withCmds (i : Nat) (p : Plan) (c : Cmds) (s : State) :
    cmShorts i p { s with cmds := c } = cmShorts i p s := rfl

/-! ## UNLOAD (R166) -/

theorem beginUnload_eq {a : Accepted} {i : Nat} {g : Graph} {s : State} (hg : graphAt a.desc.target s = some (i, g))
    (hr : g.state ≠ some .running) (hp : g.state ≠ some .paused) :
    beginUnload a s = finish a { warn := spillWarn g }
      (deriveDev (returnLoans g.loans (slotSet i { gen := (g.gen + 1) % 2 ^ 26 } s))) := by
  unfold beginUnload
  rw [hg]
  dsimp only
  rw [if_neg (by simp [hr, hp])]

/-- Settles O15: a command whose checks pass comes to its one end: the slot taken, the report given, the placement kept, or
the slot freed. -/
theorem bundleCommands : Obligations.BundleCommands := by
  refine ⟨fun d b i s hb h40 htop hlen hcheck _ hslot hfit => ?_, fun d b s hb h40 htop hlen hcheck _ hfit => ?_,
    fun d i g w s hb hg hstate hfits => ?_, fun d i g s hb hg hrun hpaused => ?_⟩
  · obtain ⟨c, hstart, -⟩ := rowStart_cmdsOnly 0x0301 d s
    have hbegin := beginLoad_ok (a := rowAccepted 0x0301 d s) (b := b) (s := rowStart 0x0301 d s) h40
      (by rw [hstart]; exact htop) (by rw [hstart]; exact hcheck)
    obtain ⟨warn, htry⟩ := tryLoad_fits (w := loadWait (rowAccepted 0x0301 d s) b (rowStart 0x0301 d s))
      (i := i) (s := rowStart 0x0301 d s) (by rw [hstart]; exact hslot) hlen (by rw [hstart]; exact hfit)
    obtain ⟨g, hkeep, hstate, hbundle, hgen⟩ :=
      keepLoad_fits (loadWait (rowAccepted 0x0301 d s) b (rowStart 0x0301 d s)) i (rowStart 0x0301 d s)
    have hrun := hbegin.trans htry
    have hgrows : Grows (rowStart 0x0301 d s) (deriveDev (keepLoad (loadWait (rowAccepted 0x0301 d s) b
        (rowStart 0x0301 d s)) i ⟨0, 0, []⟩ (rowStart 0x0301 d s))) := by
      rw [hkeep]
      exact deriveDev_grows (((Grows.refl _).quiet (loadWritten_keeps _ rfl (Keeps.refl _))).quiet
        (slotSet_keeps _ _ rfl (Keeps.refl _)))
    have hslotIs : ∀ (a : Accepted) (r : Res), slotGet i (finish a r (deriveDev (keepLoad (loadWait
        (rowAccepted 0x0301 d s) b (rowStart 0x0301 d s)) i ⟨0, 0, []⟩ (rowStart 0x0301 d s)))) = g := fun a r => by
      rw [slotGet_congr (finish_graphs _ _ _), slotGet_congr (deriveDev_graphs _), hkeep, slotGet_slotSet_self]
    refine ⟨_, rfl, rowCommand_completes hb hrun hgrows, ?_⟩
    rw [rowCommand_of_canBegin hb, hrun, hslotIs]
    obtain ⟨e, he, hdetail⟩ := finish_detail (loadWait (rowAccepted 0x0301 d s) b (rowStart 0x0301 d s)).cmd
      { detail := handleOf i (slotGet i (deriveDev (keepLoad (loadWait (rowAccepted 0x0301 d s) b (rowStart 0x0301 d s)) i
        ⟨0, 0, []⟩ (rowStart 0x0301 d s)))), graph := 1, warn := warn } (held_of_rowStart hgrows)
    refine ⟨hstate, hbundle, hgen.trans (by rw [hstart]; rfl), e, he, hdetail.trans ?_⟩
    exact congrArg (handleOf i) ((slotGet_congr (finish_graphs _ _ _) i).symm.trans (hslotIs (rowAccepted 0x0301 d s) {}))
  · obtain ⟨c, hstart, -⟩ := rowStart_cmdsOnly 0x0302 d s
    obtain ⟨f, hcm, hrun⟩ := beginVerify_fits (a := rowAccepted 0x0302 d s) (b := b) (s := rowStart 0x0302 d s) h40
      (by rw [hstart]; exact htop) (by rw [hstart]; exact hcheck) (by rw [hstart]; exact hfit)
    refine ⟨_, rfl, ?_⟩
    rw [rowCommand_of_canBegin hb, hrun, finishWith_graphs]
    refine ⟨completed_finishWith_grown _ _ _ (by rw [fitBytes_length hcm]; exact hlen) (by rw [rowStart_held]), ?_⟩
    rw [hstart]
  · obtain ⟨c, hstart, -⟩ := rowStart_cmdsOnly 0x0303 d s
    have hbegin := beginPlace_fits hg hstate hfits
    have hs0 : slotSet i (unplaced g) (rowStart 0x0303 d s) = { slotSet i (unplaced g) s with cmds := c } := by
      rw [hstart]
      rfl
    obtain ⟨groups, hints, fenced, -, -, rfl, -, hneed, -, hsets, hcm, hlen⟩ := hfits
    obtain ⟨r, f, hok, hfcm, htry⟩ := tryPlace_fits (i := i) (g := g) (s := rowStart 0x0303 d s)
      (w := ⟨rowAccepted 0x0303 d s, false, g.b, [], none, hints, groups, g.b.lenders, none, false, [], []⟩)
      (by rw [hstart]; exact hg) hstate (by rw [hs0, planOf_withCmds, keptPhotonic_withCmds, freeRanges_withCmds]; exact hneed)
      (by rw [hs0, planOf_withCmds, pFreeOf_withCmds]; exact hsets)
      (by rw [hs0, planOf_withCmds, cmShorts_withCmds]; exact hcm) hlen
    refine ⟨_, rfl, ?_⟩
    rw [rowCommand_of_canBegin hb, hbegin, htry, slotGet_congr (finishWith_graphs _ _ _ _)]
    obtain ⟨hplaced, hplan⟩ := placeDone_slot
      ⟨rowAccepted 0x0303 d s, false, g.b, [], none, hints, groups, g.b.lenders, none, false, [], []⟩ i g (rowStart 0x0303 d s)
    refine ⟨hok ▸ completed_finishWith_grown _ d r ?_ ?_, hplaced, hplan.trans ?_⟩
    · rw [fitBytes_length hfcm]
      exact hlen
    · exact held_of_rowStart (placeDone_grows _ i g (rowStart 0x0303 d s))
    · rw [hs0, planOf_withCmds]
      rfl
  · obtain ⟨c, hstart, -⟩ := rowStart_cmdsOnly 0x0308 d s
    have hrun := beginUnload_eq (a := rowAccepted 0x0308 d s) (s := rowStart 0x0308 d s) (by rw [hstart]; exact hg) hrun hpaused
    refine ⟨_, rfl, rowCommand_completes hb hrun ?_, ?_⟩
    · exact deriveDev_grows (returnLoans_grows _ ((Grows.refl _).quiet (slotSet_keeps _ _ rfl (Keeps.refl _))))
    · rw [rowCommand_of_canBegin hb, hrun, finish_graphs, deriveDev_graphs, returnLoans_graphs, hstart]
      rfl

end Sys2Proof.Machine

/-!
PROOFS. The commands of graphs: START, PAUSE, RESUME and ABORT (R159, R162, R264, R268, R269).
-/

namespace Sys2Proof.Machine

/-! ## START -/

/-- With every id of the placement bound, no spare is taken. -/
theorem bindPlaced_eq_self {g : Graph} {s : State} (h : (placedIds g).all (fun x => !exposedFenced x s) = true) :
    bindPlaced g s = s := by
  unfold bindPlaced
  generalize placedIds g = ids at h ⊢
  induction ids with
  | nil => rfl
  | cons x xs ih =>
    rw [List.all_cons, Bool.and_eq_true] at h
    have hbound : s.comp.unbound.contains x = false := by
      have hx := h.1
      simp only [exposedFenced, Bool.not_or, Bool.and_eq_true, Bool.not_eq_true'] at hx
      exact hx.1
    have hkeep : bindSpare x s = s := by
      unfold bindSpare
      rw [hbound]
      rfl
    rw [List.foldl_cons, hkeep]
    exact ih h.2

theorem confirmPeers_graphs (g : Graph) (i : Nat) (s : State) : (confirmPeers g i s).graphs = s.graphs := by
  unfold confirmPeers
  generalize g.peers = l
  induction l generalizing s with
  | nil => rfl
  | cons p ps ih =>
    rw [List.foldl_cons, ih]
    exact graphs_of_keeps (sendSys_keepsMinor _ _ _ _
      (T := [.faults, .db, .ports, .cmds, .counts, .comp, .cairn, .links, .fab, .out, .free]) rfl (Keeps.refl s)) (by decide)

/-- A START whose checks pass adds its execution, and the graph is RUNNING. -/
theorem beginStart_runs {a : Accepted} {i : Nat} {g : Graph} {binds : List (Nat × Nat × Nat)} {rows : List (List Nat)}
    {s : State} (hg : graphAt a.desc.target s = some (i, g)) (hstate : g.state = some .placed) (hlost : g.lost = false)
    (hargs : startArgs a.desc g.b s = some (binds, rows))
    (hin : (placedIds g).all (fun x => !exposedFenced x s) = true) (hroom : startRoom g = true) :
    ∃ x : Execution, (slotGet i (beginStart a s)).state = some .running ∧
      (slotGet i (beginStart a s)).pending = g.pending ++ [x] ∧ x.cmd = a ∧ x.bindings = binds ∧ x.begun = false := by
  have hbind : bindPlaced g { s with free := s.free + 1 } = { s with free := s.free + 1 } := bindPlaced_eq_self hin
  have hnone : (placedIds g).any (fun x => exposedFenced x { s with free := s.free + 1 }) = false := by
    rw [List.any_eq_false]
    intro x hx
    have hxin := List.all_eq_true.mp hin x hx
    rw [Bool.not_eq_true'] at hxin
    exact Bool.eq_false_iff.mp hxin
  unfold beginStart
  rw [hg]
  dsimp only
  rw [if_neg (by simp [hstate, hlost]), if_neg (by simp [hstate]), hargs]
  dsimp only
  rw [hbind, hnone, hroom, if_neg Bool.false_ne_true, if_neg (by simp)]
  rw [slotGet_congr (deriveDev_graphs _), slotGet_congr (confirmPeers_graphs _ _ _), slotGet_slotSet_self]
  exact ⟨_, rfl, rfl, rfl, rfl, rfl⟩

/-! ## RESUME -/

/-- With nothing waiting on the fabric, a retry sends nothing. -/
theorem fabricRetry_quiet {s : State} (h : FabricQuiet s) : fabricRetry s = s := by
  obtain ⟨-, hwait, hsys, -⟩ := h
  unfold fabricRetry retryWaiting
  rw [hsys]
  dsimp only [List.foldl_nil]
  rw [hwait]
  dsimp only [List.foldl_nil]
  rw [← hwait]

theorem resumeGraph_eq {h : BitVec 32} {i : Nat} {g : Graph} {s : State} (hg : graphAt h s = some (i, g)) :
    resumeGraph h s = slotSet i { g with state := some .running } s := by
  unfold resumeGraph
  rw [hg]

theorem beginResume_eq {a : Accepted} {i : Nat} {g : Graph} {s : State} (hall : targetAll a.desc = false)
    (hg : graphAt a.desc.target s = some (i, g)) (hstate : g.state = some .paused) (hquiet : FabricQuiet s) :
    beginResume a s = finish a { graph := 3 } (deriveDev (slotSet i { g with state := some .running } s)) := by
  have hq : FabricQuiet (slotSet i { g with state := some .running } s) := hquiet
  unfold beginResume
  rw [hall, if_neg Bool.false_ne_true, hg]
  dsimp only
  rw [if_pos hstate, resumeGraph_eq hg, fabricRetry_quiet hq]

/-! ## PAUSE and ABORT -/

theorem startEnding_eq {a : Option Accepted} {abort : Bool} {h : BitVec 32} {i : Nat} {g : Graph} {s : State}
    (hg : graphAt h s = some (i, g)) : startEnding a abort h s = slotSet i { g with ending := g.ending ++ [(a, abort)] } s := by
  unfold startEnding
  rw [hg]

theorem beginPause_eq {a : Accepted} {i : Nat} {g : Graph} {s : State} (hall : targetAll a.desc = false)
    (hg : graphAt a.desc.target s = some (i, g)) (hstate : g.state = some .running) :
    beginPause a s = slotSet i { g with ending := g.ending ++ [(some a, false)] } s := by
  unfold beginPause
  rw [hall, if_neg Bool.false_ne_true, hg]
  dsimp only
  rw [if_pos hstate, startEnding_eq hg]

theorem beginPause_wrongState {a : Accepted} {i : Nat} {g : Graph} {s : State} (hall : targetAll a.desc = false)
    (hg : graphAt a.desc.target s = some (i, g)) (hstate : g.state ≠ some .running) :
    beginPause a s = finish a { st := .wrongState, graph := graphCode g } s := by
  unfold beginPause
  rw [hall, if_neg Bool.false_ne_true, hg]
  dsimp only
  rw [if_neg hstate]

theorem beginAbort_eq {a : Accepted} {i : Nat} {g : Graph} {s : State} (hall : targetAll a.desc = false)
    (hg : graphAt a.desc.target s = some (i, g)) (hstate : g.state = some .running ∨ g.state = some .paused) :
    beginAbort a s = discardWork a.desc.target (slotSet i { g with ending := g.ending ++ [(some a, true)] } s) := by
  unfold beginAbort
  rw [hall, if_neg Bool.false_ne_true, hg]
  dsimp only
  rw [if_pos (by simpa using hstate), startEnding_eq hg]

theorem discardWork_graphs (h : BitVec 32) (s : State) : (discardWork h s).graphs = s.graphs :=
  graphs_of_keeps (discardWork_keeps h (T := [.comp]) rfl (Keeps.refl s)) (by decide)

/-- Settles O16: a graph in the state that a command asks for takes its effect in its slot; in another the command ends with
its status. -/
theorem graphCommands : Obligations.GraphCommands := by
  refine ⟨fun d i g binds rows s hb hg hstate hlost hargs hin hroom => ?_, fun d i g s hb hall hg hstate => ?_,
    fun d i g s hb hall hg hstate hquiet => ?_, fun d i g s hb hall hg hstate => ?_,
    fun d i g s hb hall hg hstate => ?_, fun d i g s hb hg hstate => ?_⟩
  · obtain ⟨c, hstart, -⟩ := rowStart_cmdsOnly 0x0304 d s
    obtain ⟨x, hx⟩ := beginStart_runs (a := rowAccepted 0x0304 d s) (s := rowStart 0x0304 d s) (i := i) (g := g)
      (binds := binds) (rows := rows) (by rw [hstart]; exact hg) hstate hlost (by rw [hstart]; exact hargs)
      (by rw [hstart]; exact hin) hroom
    refine ⟨_, x, rfl, ?_⟩
    rw [rowCommand_of_canBegin hb]
    exact hx
  · obtain ⟨c, hstart, -⟩ := rowStart_cmdsOnly 0x0305 d s
    have hrun := beginPause_eq (a := rowAccepted 0x0305 d s) (s := rowStart 0x0305 d s) hall
      (by rw [hstart]; exact hg) hstate
    refine ⟨_, rfl, ?_, ?_⟩
    · rw [rowCommand_of_canBegin hb, hrun, slotGet_slotSet_self]
    · rw [rowCommand_of_canBegin hb, hrun]
      exact (slotSet_keeps _ _ rfl (rowStart_keeps _ d rfl (Keeps.refl s))).frame
  · obtain ⟨c, hstart, -⟩ := rowStart_cmdsOnly 0x0306 d s
    have hrun := beginResume_eq (a := rowAccepted 0x0306 d s) (s := rowStart 0x0306 d s) hall
      (by rw [hstart]; exact hg) hstate (by rw [hstart]; exact hquiet)
    refine ⟨_, rfl, rowCommand_completes hb hrun
      (deriveDev_grows ((Grows.refl _).quiet (slotSet_keeps _ _ rfl (Keeps.refl _)))), ?_⟩
    rw [rowCommand_of_canBegin hb, hrun, slotGet_congr (finish_graphs _ _ _), slotGet_congr (deriveDev_graphs _),
      slotGet_slotSet_self]
  · obtain ⟨c, hstart, -⟩ := rowStart_cmdsOnly 0x0307 d s
    have hrun := beginAbort_eq (a := rowAccepted 0x0307 d s) (s := rowStart 0x0307 d s) hall
      (by rw [hstart]; exact hg) hstate
    refine ⟨_, rfl, ?_, ?_⟩
    · rw [rowCommand_of_canBegin hb, hrun, slotGet_congr (discardWork_graphs _ _), slotGet_slotSet_self]
    · rw [rowCommand_of_canBegin hb, hrun]
      exact (discardWork_keeps _ rfl (slotSet_keeps _ _ rfl (rowStart_keeps _ d rfl (Keeps.refl s)))).frame
  · obtain ⟨c, hstart, -⟩ := rowStart_cmdsOnly 0x0305 d s
    exact ⟨_, rfl, rowCommand_finishes hb (beginPause_wrongState hall (by rw [hstart]; exact hg) hstate)⟩
  · obtain ⟨c, hstart, -⟩ := rowStart_cmdsOnly 0x0304 d s
    refine ⟨_, rfl, rowCommand_finishes hb (r := { st := .integrity, graph := graphCode g }) ?_⟩
    unfold beginStart
    rw [show graphAt (rowAccepted 0x0304 d s).desc.target (rowStart 0x0304 d s) = some (i, g) by rw [hstart]; exact hg]
    dsimp only
    rw [if_pos (by simp [hstate])]

end Sys2Proof.Machine

/-!
PROOFS. What sending flits changes of the links and of the fabric record: the sending side of each link and the queues,
and nothing else of either (R346, R348, R351).
-/

namespace Sys2Proof.Machine

/-- A link but for what the flits it sends move: its sequence, replay buffer, acknowledgement times and stream. -/
def linkCore (x : LinkSt) : LinkSt :=
  { x with lseq := 0, replay := [], lackAt := 0, ackAt := 0, replayReq := false, stream := [] }

/-- The fabric but for what flits sent move: the queues, the counts and the tables of the source side. -/
def fabCore (x : Fab) : Fab :=
  { x with gseq := [], outIn := [], outq := [], src := [], asks := [], waiting := [], reqs := [], sysWaiting := []
           counts := [] }

section
variable {x y : LinkSt}

theorem st_of_linkCore (h : linkCore x = linkCore y) : x.st = y.st := (congrArg LinkSt.st h :)

theorem disabled_of_linkCore (h : linkCore x = linkCore y) : x.disabled = y.disabled := (congrArg LinkSt.disabled h :)

end

/-- Only flits have been sent between two states, as far as links and fabric tell. -/
structure SendsOnly (s t : State) : Prop where
  links : ∀ n, linkCore (linkGet n t) = linkCore (linkGet n s)
  fab : fabCore t.fab = fabCore s.fab

section
variable {s0 s t : State}

theorem SendsOnly.refl (s : State) : SendsOnly s s := ⟨fun _ => rfl, rfl⟩

theorem SendsOnly.trans (h : SendsOnly s0 s) (h' : SendsOnly s t) : SendsOnly s0 t :=
  ⟨fun n => (h'.links n).trans (h.links n), h'.fab.trans h.fab⟩

theorem SendsOnly.foldl {α : Type} {l : List α} {f : State → α → State} (h : SendsOnly s0 s)
    (hf : ∀ u x, SendsOnly s0 u → SendsOnly s0 (f u x)) : SendsOnly s0 (l.foldl f s) :=
  List.foldlRecOn (motive := SendsOnly s0) l f h fun u hu x _ => hf u x hu

theorem SendsOnly.of_eq (hl : t.links = s.links) (hf : fabCore t.fab = fabCore s.fab) : SendsOnly s t :=
  ⟨fun n => by rw [linkGet, hl, linkGet], hf⟩

/-- What leaves links and fabric alone sends nothing. -/
theorem SendsOnly.quiet {T : List Area} (h : SendsOnly s0 s) (hk : Keeps T s t) (hl : Area.links ∉ T) (hf : Area.fab ∉ T) :
    SendsOnly s0 t :=
  h.trans (.of_eq (hk.same .links hl) (congrArg fabCore (hk.same .fab hf :)))

theorem sendsOnly_setFab (h : SendsOnly s0 s) {x : Fab} (hx : fabCore x = fabCore s.fab) :
    SendsOnly s0 { s with fab := x } := h.trans (.of_eq rfl hx)

theorem linkGet_linkSet_self (n : Nat) (x : LinkSt) (s : State) : linkGet n (linkSet n x s) = x := by
  simp [linkGet, linkSet]

theorem linkGet_linkSet_ne {n m : Nat} (h : m ≠ n) (x : LinkSt) (s : State) : linkGet m (linkSet n x s) = linkGet m s :=
  tget_tset_ne _ _ _ _ _ h

theorem linkGet_congr (h : t.links = s.links) (n : Nat) : linkGet n t = linkGet n s := by rw [linkGet, h, linkGet]

theorem sendsOnly_linkSet (h : SendsOnly s0 s) {n : Nat} {x : LinkSt} (hx : linkCore x = linkCore (linkGet n s)) :
    SendsOnly s0 (linkSet n x s) := by
  refine h.trans ⟨fun m => ?_, rfl⟩
  by_cases hm : m = n
  · rw [hm, linkGet_linkSet_self, hx]
  · rw [linkGet_linkSet_ne hm]

theorem placeFlit_sendsOnly (n : Nat) (f : Flit) (h : SendsOnly s0 s) : SendsOnly s0 (placeFlit n f s) := by
  have hforced := h.quiet (forcedFlit_keeps ((0x8000 + n) :: (List.range 18).map (0x7000 + n * 36 + ·)) f
    (T := [.faults]) rfl (Keeps.refl s)) (by decide) (by decide)
  unfold placeFlit
  dsimp only
  generalize hu : forcedFlit ((0x8000 + n) :: (List.range 18).map (0x7000 + n * 36 + ·)) f s = u at hforced ⊢
  have hset := fun x hx => (sendsOnly_linkSet (n := n) (x := x) hforced hx)
  have hcounted : ∀ v, SendsOnly s0 v → ∀ i, SendsOnly s0 (countLink n i 1 v) := fun v hv i =>
    hv.quiet (countLink_keeps n i 1 (T := [.counts]) rfl (Keeps.refl v)) (by decide) (by decide)
  have hsent : ∀ v, SendsOnly s0 v → ∀ g, SendsOnly s0 (emit (.flit n g) v) := fun v hv g =>
    hv.quiet (emit_keeps _ (T := [.out]) rfl (Keeps.refl v)) (by decide) (by decide)
  split
  · split
    · refine hcounted _ (hcounted _ (hsent _ (hset _ ?_) _) _) _
      rfl
    · refine hcounted _ (hsent _ (hset _ ?_) _) _
      rfl
  · refine hsent _ (hset _ ?_) _
    rfl

theorem outSet_sendsOnly (g v : Nat) (q : List Flit) (h : SendsOnly s0 s) : SendsOnly s0 (outSet g v q s) :=
  sendsOnly_setFab h rfl

theorem outPump_sendsOnly (g v k : Nat) (h : SendsOnly s0 s) : SendsOnly s0 (outPump g v k s) := by
  induction k generalizing s with
  | zero => exact h
  | succ k ih =>
    unfold outPump
    split
    · split
      · exact ih (placeFlit_sendsOnly _ _ (outSet_sendsOnly _ _ _ (sendsOnly_setFab h rfl)))
      · exact h
    · exact h

theorem groupPump_sendsOnly (g : Nat) (h : SendsOnly s0 s) : SendsOnly s0 (groupPump g s) :=
  SendsOnly.foldl h fun _ _ hu => outPump_sendsOnly _ _ _ hu

theorem fabCount_sendsOnly (i : Nat) (h : SendsOnly s0 s) : SendsOnly s0 (fabCount i s) := sendsOnly_setFab h rfl

theorem faultDOpen_sendsOnly (src : Nat) (h : SendsOnly s0 s) : SendsOnly s0 (faultDOpen src s) :=
  h.quiet (faultDOpen_keepsMinor src (T := [.faults, .db, .ports, .cmds, .cairn, .out, .free]) rfl (Keeps.refl s))
    (by decide) (by decide)

theorem faultD_sendsOnly (src syn : Nat) (h : SendsOnly s0 s) : SendsOnly s0 (faultD src syn s) :=
  h.quiet (faultD_keepsMinor src syn (T := [.faults, .db, .ports, .cmds, .cairn, .out]) rfl (Keeps.refl s))
    (by decide) (by decide)

theorem faultCOpen_sendsOnly (src : Nat) (h : SendsOnly s0 s) : SendsOnly s0 (faultCOpen src s) :=
  h.quiet (faultCOpen_keepsMinor src (T := [.faults, .db, .ports, .cmds, .cairn, .out, .free]) rfl (Keeps.refl s))
    (by decide) (by decide)

theorem faultC_sendsOnly (src syn : Nat) (h : SendsOnly s0 s) : SendsOnly s0 (faultC src syn s) :=
  h.quiet (faultC_keepsMinor src syn (T := [.faults, .db, .ports, .cmds, .cairn, .out]) rfl (Keeps.refl s))
    (by decide) (by decide)

theorem sendsOnly_of_full_or_gone {c : Prop} [Decidable c] {u : State} (h : SendsOnly s0 u)
    (hr : (if c then Routed.full else .gone u) = .gone t ∨ (if c then Routed.full else .gone u) = .refused t) :
    SendsOnly s0 t := by
  split at hr
  · rcases hr with hr | hr <;> cases hr
  · rcases hr with hr | hr <;> cases hr
    exact h

/-- A flit that the router disposed of was sent or counted. -/
theorem routeFlit_sendsOnly {ring : Option Nat} {f : Flit} (h : SendsOnly s0 s)
    (hr : routeFlit ring f s = .gone t ∨ routeFlit ring f s = .refused t) : SendsOnly s0 t := by
  unfold routeFlit at hr
  split at hr
  · rcases hr with hr | hr <;> cases hr
  · rcases hr with hr | hr <;> cases hr
    exact fabCount_sendsOnly _ h
  · rcases hr with hr | hr <;> cases hr
    exact faultDOpen_sendsOnly _ (fabCount_sendsOnly _ h)
  · refine sendsOnly_of_full_or_gone (groupPump_sendsOnly _ (outSet_sendsOnly _ _ _ ?_)) hr
    split
    · exact sendsOnly_setFab (s := { s with free := s.free + 1 }) (h.trans (.of_eq rfl rfl)) rfl
    · exact sendsOnly_setFab h rfl

theorem launch_sendsOnly (f : Flit) (h : SendsOnly s0 s) : SendsOnly s0 (launch f s) := by
  unfold launch
  split
  · next hr => exact routeFlit_sendsOnly h (.inl hr)
  · next hr => exact routeFlit_sendsOnly h (.inr hr)
  · exact h
  · exact sendsOnly_setFab h rfl

theorem spendCredit_sendsOnly (pkg vc : Nat) (h : SendsOnly s0 s) : SendsOnly s0 (spendCredit pkg vc s) := by
  unfold spendCredit
  split
  · exact sendsOnly_setFab h rfl
  · exact h

theorem askCredit_sendsOnly (pkg vc : Nat) (h : SendsOnly s0 s) : SendsOnly s0 (askCredit pkg vc s) :=
  launch_sendsOnly _ (h.trans (.of_eq rfl rfl))

theorem sendFlit_sendsOnly (f : Flit) (h : SendsOnly s0 s) : SendsOnly s0 (sendFlit f s) := by
  have hwait : SendsOnly s0 { s with fab := { s.fab with waiting := s.fab.waiting ++ [f] } } := sendsOnly_setFab h rfl
  unfold sendFlit
  dsimp only
  split
  · split
    · split
      · exact hwait
      · exact launch_sendsOnly _ (spendCredit_sendsOnly _ _ h)
    · split
      · exact askCredit_sendsOnly _ _ hwait
      · exact hwait
  · exact launch_sendsOnly _ h

theorem sendReq_sendsOnly (r : FabReq) (f : Flit) (h : SendsOnly s0 s) : SendsOnly s0 (sendReq r f s) :=
  sendFlit_sendsOnly _ (h.trans (.of_eq rfl rfl))

theorem sendSys_sendsOnly (pkg purpose slot : Nat) (payload : List Byte) (h : SendsOnly s0 s) :
    SendsOnly s0 (sendSys pkg purpose slot payload s) := by
  unfold sendSys
  dsimp only
  split
  · exact sendReq_sendsOnly _ _ h
  · exact h.trans (.of_eq rfl rfl)

theorem retryWaiting_sendsOnly (h : SendsOnly s0 s) : SendsOnly s0 (retryWaiting s) := by
  refine SendsOnly.foldl (sendsOnly_setFab h rfl) fun u f hu => ?_
  split
  · exact sendsOnly_setFab hu rfl
  · exact sendFlit_sendsOnly _ hu

theorem fabricRetry_sendsOnly (h : SendsOnly s0 s) : SendsOnly s0 (fabricRetry s) := by
  refine retryWaiting_sendsOnly (SendsOnly.foldl h fun u f hu => ?_)
  split
  · exact launch_sendsOnly _ (sendsOnly_setFab hu rfl)
  · exact hu

theorem transfer_sendsOnly (n : Nat) (fs : List Flit) (h : SendsOnly s0 s) : SendsOnly s0 (transfer n fs s) := by
  refine SendsOnly.foldl h fun u f hu => ?_
  split
  · exact hu
  · split
    · exact (placeFlit_sendsOnly _ _ hu).quiet (countLink_keeps n 6 1 (T := [.counts]) rfl (Keeps.refl _))
        (by decide) (by decide)
    · exact hu

theorem groupEscape_sendsOnly (g : Nat) (h : SendsOnly s0 s) : SendsOnly s0 (groupEscape g s) :=
  SendsOnly.foldl h fun _ _ hu => SendsOnly.foldl (outSet_sendsOnly _ _ _ hu) fun _ _ hv => launch_sendsOnly _ hv

theorem refreshDegraded_sendsOnly (h : SendsOnly s0 s) : SendsOnly s0 (refreshDegraded s) :=
  h.quiet (refreshDegraded_keeps (T := [.dev, .db, .ports, .cmds, .out]) rfl (Keeps.refl s)) (by decide) (by decide)

end

end Sys2Proof.Machine

/-!
PROOFS. A link end that leaves what it did and enters a training state: its own record, the others, the fabric record
(R327, R328).
-/

namespace Sys2Proof.Machine

/-- The record of a link end that has left the group it was in. -/
def linkLeft (l : LinkSt) : LinkSt :=
  { l with
    txActive := false, rxActive := false, txAt := none, rxAt := none, lseq := 0, expect := 0, replay := []
    replays := 0, replayReq := false, gapAt := none, pauseIn := 0, stream := [], stripe := 0, rxBlocks := []
    change := none, txSleep := false, rxSleep := false, sleepAt := none, wakeAt := none, moves := [], rxMoves := []
    rxLaneAt := [], lost := [] }

/-- The record of a link end that has entered a training state other than ACTIVE. -/
def linkTrains (st : Train) (now : Nat) (l : LinkSt) : LinkSt :=
  { linkLeft l with st := st, stAt := now, width := none, retrainAt := none, retrainMine := false, test := none }

/-- The fabric record but for what moves as a link leaves its group. -/
def fabSetup (x : Fab) : Fab := { fabCore x with gnext := [], window := [] }

/-- Between two states one link end was written, flits were sent, and groups began afresh. -/
structure LinkBecomes (n : Nat) (x : LinkSt) (s t : State) : Prop where
  mine : linkCore (linkGet n t) = linkCore x
  others : ∀ m, m ≠ n → linkCore (linkGet m t) = linkCore (linkGet m s)
  fab : fabSetup t.fab = fabSetup s.fab

section
variable {n : Nat} {x : LinkSt} {s0 s t : State}

theorem fabSetup_of_fabCore {x y : Fab} (h : fabCore x = fabCore y) : fabSetup x = fabSetup y := by
  rw [fabSetup, h, fabSetup]

theorem LinkBecomes.refl (n : Nat) (s : State) : LinkBecomes n (linkGet n s) s s := ⟨rfl, fun _ _ => rfl, rfl⟩

theorem LinkBecomes.sends (h : LinkBecomes n x s0 s) (hs : SendsOnly s t) : LinkBecomes n x s0 t :=
  ⟨(hs.links n).trans h.mine, fun m hm => (hs.links m).trans (h.others m hm), (fabSetup_of_fabCore hs.fab).trans h.fab⟩

/-- What leaves links and fabric alone adds nothing. -/
theorem LinkBecomes.quiet {T : List Area} (h : LinkBecomes n x s0 s) (hk : Keeps T s t) (hl : Area.links ∉ T)
    (hf : Area.fab ∉ T) : LinkBecomes n x s0 t := h.sends ((SendsOnly.refl s).quiet hk hl hf)

theorem LinkBecomes.set {y z : LinkSt} (h : LinkBecomes n x s0 s) (hz : linkCore z = linkCore y) :
    LinkBecomes n y s0 (linkSet n z s) :=
  ⟨by rw [linkGet_linkSet_self, hz], fun m hm => by rw [linkGet_linkSet_ne hm, h.others m hm], h.fab⟩

theorem LinkBecomes.core {y : LinkSt} (h : LinkBecomes n x s0 s) (hy : linkCore x = linkCore y) : LinkBecomes n y s0 s :=
  ⟨h.mine.trans hy, h.others, h.fab⟩

theorem groupRestart_becomes (g : Nat) (h : LinkBecomes n x s0 s) : LinkBecomes n x s0 (groupRestart g s) :=
  ⟨h.mine, h.others, h.fab⟩

theorem linkLeaves_becomes (n : Nat) (s : State) : LinkBecomes n (linkLeft (linkGet n s)) s (linkLeaves n s) := by
  have hset : LinkBecomes n (linkLeft (linkGet n s)) s (linkSet n (linkLeft (linkGet n s)) s) :=
    (LinkBecomes.refl n s).set rfl
  unfold linkLeaves
  dsimp only
  split
  · exact hset
  · split
    · exact hset.sends (refreshDegraded_sendsOnly (transfer_sendsOnly _ _ (SendsOnly.refl _)))
    · exact (groupRestart_becomes _ hset).sends (refreshDegraded_sendsOnly (groupEscape_sendsOnly _ (SendsOnly.refl _)))

theorem leaveLink_becomes (n : Nat) (s : State) : LinkBecomes n (linkLeft (linkGet n s)) s (leaveLink n s) := by
  unfold leaveLink
  refine List.foldlRecOn (motive := LinkBecomes n (linkLeft (linkGet n s)) s) _ _ (linkLeaves_becomes n s)
    fun u hu k _ => ?_
  split
  · split
    · exact hu.quiet (linkFreed_keeps n k (T := [.las, .chans]) rfl (Keeps.refl u)) (by decide) (by decide)
    · exact hu
  · exact hu

theorem lightChiplet_becomes (ll : Nat) (h : LinkBecomes n x s0 s) : LinkBecomes n x s0 (lightChiplet ll s) :=
  h.quiet (lightChiplet_keeps ll (T := [.las, .chans]) rfl (Keeps.refl s)) (by decide) (by decide)

theorem leaveLink_now (n : Nat) (s : State) : (leaveLink n s).clock.now = s.clock.now :=
  congrArg Clock.now ((leaveLink_keeps n (T := [.dev, .faults, .db, .ports, .cmds, .counts, .las, .chans, .links, .fab,
    .out, .boot, .graphs, .cairn, .free, .d2d]) rfl (Keeps.refl s)).same .clock (by decide) :)

/-- A link end that enters a training state but ACTIVE starts it with the record of a link that left its group. -/
theorem enterTrain_becomes {st : Train} (hst : st ≠ .active) (n : Nat) (s : State) :
    LinkBecomes n (linkTrains st s.clock.now (linkGet n s)) s (enterTrain n st s) := by
  have hleft := leaveLink_becomes n s
  unfold enterTrain
  rw [if_neg hst]
  dsimp only
  rw [if_neg hst]
  refine lightChiplet_becomes _ (hleft.set ?_)
  have hmine := hleft.mine
  rw [leaveLink_now]
  generalize linkGet n (leaveLink n s) = l at hmine ⊢
  exact congrArg (fun y : LinkSt =>
    { y with st := st, stAt := s.clock.now, width := none, retrainAt := none, retrainMine := false, test := none }) hmine

theorem linkOff_becomes (n : Nat) (s : State) :
    LinkBecomes n (linkTrains .dark s.clock.now (linkGet n s)) s (linkOff n s) :=
  (enterTrain_becomes (by decide) n s).sends (refreshDegraded_sendsOnly (SendsOnly.refl _))

end

end Sys2Proof.Machine

/-!
PROOFS. Fabric commands and counter commands (R362, R376, R377, R463, R467).
-/

namespace Sys2Proof.Machine

/-! ## Links that train and tests that start only add entries and events -/

section
variable {s0 s : State}

theorem enterTrain_grows (n : Nat) (st : Train) (h : Grows s0 s) : Grows s0 (enterTrain n st s) := by
  have hset : ∀ u, Grows s0 u → ∀ x ll, Grows s0 (lightChiplet ll (linkSet n x u)) := fun u hu x ll =>
    (hu.quiet (linkSet_keeps n x rfl (Keeps.refl _))).quiet (lightChiplet_keeps ll rfl (Keeps.refl _))
  unfold enterTrain
  dsimp only
  split
  · exact hset _ h _ _
  · exact hset _ (leaveLink_grows _ h) _ _

theorem linkOff_grows (n : Nat) (h : Grows s0 s) : Grows s0 (linkOff n s) := refreshDegraded_grows (enterTrain_grows _ _ h)

theorem enterSend_grows (n : Nat) (h : Grows s0 s) : Grows s0 (enterSend n s) :=
  ((enterTrain_grows n .send h).quiet (freshNonce_keeps n rfl (Keeps.refl _))).quiet
    (linkSet_keeps _ _ rfl (Keeps.refl _))

theorem linkRelease_grows (n : Nat) (h : Grows s0 s) : Grows s0 (linkRelease n s) := by
  unfold linkRelease
  dsimp only
  split
  · exact h
  · exact (enterTrain_grows _ _ h).quiet (linkSet_keeps _ _ rfl (Keeps.refl _))

/-- What FAB_CONFIG does to a link: nothing, or one of the four ways to train it anew. -/
theorem reLink_cases (old : State) (n : Nat) (s : State) : reLink old n s = s ∨ reLink old n s = linkOff n s ∨
    reLink old n s = linkRelease n s ∨ reLink old n s = askRetrain n s ∨ reLink old n s = enterSend n s := by
  unfold reLink
  dsimp only
  repeat' split
  all_goals simp only [true_or, or_true]

theorem reLink_grows (old : State) (n : Nat) (h : Grows s0 s) : Grows s0 (reLink old n s) := by
  rcases reLink_cases old n s with e | e | e | e | e <;> rw [e]
  · exact h
  · exact linkOff_grows _ h
  · exact linkRelease_grows _ h
  · exact h.quiet (askRetrain_keeps n rfl (Keeps.refl _))
  · exact enterSend_grows _ h

theorem startTest_grows (n pattern half mask till : Nat) (h : Grows s0 s) :
    Grows s0 (startTest n pattern half mask till s) := by
  unfold startTest
  dsimp only
  refine Grows.app (f := sendBlocks _ _ _ _) ?_ fun _ => sendBlocks_keeps _ _ _ _ rfl (Keeps.refl _)
  refine Grows.app (f := lightChiplet _) ?_ fun _ => lightChiplet_keeps _ rfl (Keeps.refl _)
  refine Grows.foldl ?_ fun u k hu => ?_
  · exact (enterTrain_grows n .light h).quiet (linkSet_keeps n _ rfl (Keeps.refl _))
  · refine Grows.app (f := setChan _ _) ?_ fun _ => setChan_keeps _ _ rfl (Keeps.refl _)
    refine Grows.app (f := testStarts _ _) ?_ fun _ => testStarts_keeps _ _ rfl (Keeps.refl _)
    exact Grows.app (f := testStarts _ _) hu fun _ => testStarts_keeps _ _ rfl (Keeps.refl _)

theorem testApply_grows (r : TestRec) (h : Grows s0 s) : Grows s0 (testApply r s) := by
  have hinject := Grows.foldl (l := bitsSet r.mask 18) h fun u k hu =>
    hu.quiet (setChan_keeps (txi r.link k) { chanSide (txi r.link k) u with checker :=
      { (chanSide (txi r.link k) u).checker with inject := if r.mode = 0 then (0, 0, 0) else (r.mode, r.n, r.start) } }
      rfl (Keeps.refl _))
  unfold testApply
  dsimp only
  split
  · exact hinject
  · exact startTest_grows _ _ _ _ _ hinject

end

/-! ## The fabric record stays as FAB_CONFIG puts it while links train (R376) -/

theorem fields_of_fabSetup {x y : Fab} (h : fabSetup x = fabSetup y) : x.configured = y.configured ∧ x.id = y.id ∧
    x.extent = y.extent ∧ x.timeoutUs = y.timeoutUs :=
  ⟨(congrArg Fab.configured h :), (congrArg Fab.id h :), (congrArg Fab.extent h :), (congrArg Fab.timeoutUs h :)⟩

theorem fab_of_keeps {T : List Area} {s t : State} (hk : Keeps T s t) (hT : Area.fab ∉ T) :
    fabSetup t.fab = fabSetup s.fab := congrArg fabSetup (hk.same .fab hT :)

theorem linkSet_fab (n : Nat) (x : LinkSt) (s : State) : (linkSet n x s).fab = s.fab := rfl

theorem fabSetup_enterTrain {st : Train} (hst : st ≠ .active) (n : Nat) (s : State) :
    fabSetup (enterTrain n st s).fab = fabSetup s.fab := (enterTrain_becomes hst n s).fab

theorem fabSetup_linkOff (n : Nat) (s : State) : fabSetup (linkOff n s).fab = fabSetup s.fab := (linkOff_becomes n s).fab

theorem fabSetup_enterSend (n : Nat) (s : State) : fabSetup (enterSend n s).fab = fabSetup s.fab := by
  unfold enterSend
  dsimp only
  rw [linkSet_fab, fab_of_keeps (freshNonce_keeps n (T := [.links, .free]) rfl (Keeps.refl _)) (by decide)]
  exact fabSetup_enterTrain (by decide) n s

theorem fabSetup_linkRelease (n : Nat) (s : State) : fabSetup (linkRelease n s).fab = fabSetup s.fab := by
  unfold linkRelease
  dsimp only
  split
  · rfl
  · rw [linkSet_fab]
    exact fabSetup_enterTrain (by decide) n s

theorem fabSetup_reLink (old : State) (n : Nat) (s : State) : fabSetup (reLink old n s).fab = fabSetup s.fab := by
  rcases reLink_cases old n s with e | e | e | e | e <;> rw [e]
  · exact fabSetup_linkOff n s
  · exact fabSetup_linkRelease n s
  · exact fab_of_keeps (askRetrain_keeps n (T := [.chans, .links]) rfl (Keeps.refl s)) (by decide)
  · exact fabSetup_enterSend n s

theorem fabSetup_startTest (n pattern half mask till : Nat) (s : State) :
    fabSetup (startTest n pattern half mask till s).fab = fabSetup s.fab := by
  have hkeeps : Keeps [.chans, .las, .links] (enterTrain n .light s) (startTest n pattern half mask till s) := by
    unfold startTest
    dsimp only
    refine sendBlocks_keeps _ _ _ _ rfl (lightChiplet_keeps _ rfl (Keeps.foldl ?_ fun u k hu => ?_))
    · exact linkSet_keeps n _ rfl (Keeps.refl _)
    · exact setChan_keeps _ _ rfl (testStarts_keeps _ _ rfl (testStarts_keeps _ _ rfl hu))
  exact (fab_of_keeps hkeeps (by decide)).trans (fabSetup_enterTrain (by decide) n s)

theorem fabSetup_testApply (r : TestRec) (s : State) : fabSetup (testApply r s).fab = fabSetup s.fab := by
  have hinject : fabSetup ((bitsSet r.mask 18).foldl (fun t k => setChan (txi r.link k) { chanSide (txi r.link k) t with
      checker := { (chanSide (txi r.link k) t).checker with
        inject := if r.mode = 0 then (0, 0, 0) else (r.mode, r.n, r.start) } } t) s).fab = fabSetup s.fab :=
    fab_of_keeps (T := [.chans]) (Keeps.foldl (Keeps.refl s) fun _ _ hu => setChan_keeps _ _ rfl hu) (by decide)
  unfold testApply
  dsimp only
  split
  · exact hinject
  · exact (fabSetup_startTest _ _ _ _ _ _).trans hinject

/-- A fold of steps that each leave the fabric record as set up leaves it so. -/
theorem fabSetup_foldl {α : Type} {f : State → α → State} (hf : ∀ t x, fabSetup (f t x).fab = fabSetup t.fab) (l : List α)
    (s : State) : fabSetup (l.foldl f s).fab = fabSetup s.fab :=
  List.foldlRecOn (motive := fun t => fabSetup t.fab = fabSetup s.fab) l f rfl fun t ht x _ => (hf t x).trans ht

/-! ## FAB_CONFIG -/

/-- The state a good FAB_CONFIG ends in, before its completion. -/
def fabConfigured (x : FabArg) (s : State) : State :=
  refreshDegraded (x.tests.foldl (fun t r => testApply r t) (electAfresh ((List.range 32).foldl (fun t n => reLink s n t)
    { s with fab := fabWanted x s, clock := { s.clock with priority := (fabWanted x s).timePriority } })))

theorem beginFabConfig_ok {a : Accepted} {bs : List Byte} {s : State} (harg : argBytes a.desc s = (bs, s))
    (hok : fabOk (fabArg bs) s = true) : beginFabConfig a s = finish a {} (fabConfigured (fabArg bs) s) := by
  unfold beginFabConfig
  rw [harg]
  dsimp only
  rw [hok, if_neg (by simp)]
  rfl

theorem beginFabConfig_bad {a : Accepted} {bs : List Byte} {s : State} (harg : argBytes a.desc s = (bs, s))
    (hok : fabOk (fabArg bs) s = false) : beginFabConfig a s = finish a { st := .badArgument } s := by
  unfold beginFabConfig
  rw [harg]
  dsimp only
  rw [hok, if_pos (by simp)]

theorem fabConfigured_grows (x : FabArg) (s : State) : Grows s (fabConfigured x s) := by
  unfold fabConfigured
  refine refreshDegraded_grows (Grows.foldl ?_ fun _ _ hu => testApply_grows _ hu)
  refine Grows.app (f := electAfresh) ?_ fun u => electAfresh_keeps rfl (Keeps.refl u)
  refine Grows.foldl ?_ fun _ _ hu => reLink_grows _ _ hu
  exact grows_mk (Grows.refl s)

theorem electAfresh_fab (s : State) : (electAfresh s).fab = s.fab := rfl

theorem fabSetup_fabConfigured (x : FabArg) (s : State) :
    fabSetup (fabConfigured x s).fab = fabSetup (fabWanted x s) := by
  unfold fabConfigured
  rw [fab_of_keeps (refreshDegraded_keeps (T := [.dev, .db, .ports, .cmds, .out]) rfl (Keeps.refl _)) (by decide),
    fabSetup_foldl (fun t r => fabSetup_testApply r t), electAfresh_fab, fabSetup_foldl (fun t n => fabSetup_reLink s n t)]

theorem argBytes_rowStart {op : BitVec 16} {d : Descriptor} {s : State} (h : (argBytes d s).2 = s) :
    argBytes d (rowStart op d s) = ((argBytes d s).1, rowStart op d s) := by
  obtain ⟨c, hstart, -⟩ := rowStart_cmdsOnly op d s
  rw [hstart, argBytes_withCmds]
  exact congrArg (fun t : State => ((argBytes d s).1, { t with cmds := c })) h

/-! ## COUNTERS_ENABLE and COUNTERS_READ -/

theorem zeroKind_eq (k : Nat) (s : State) : ∃ c : Counts, zeroKind k s = { s with counts := c } ∧
    c.clusters = if k = 0 then [] else s.counts.clusters := by
  refine ⟨_, rfl, ?_⟩
  dsimp only
  repeat' split
  all_goals rfl

/-- The kinds zeroed lose their counts, and only the clusters' kind those of clusters. -/
theorem zeroKinds_eq (ks : List Nat) (s : State) : ∃ c : Counts,
    ks.foldl (fun t k => zeroKind k t) s = { s with counts := c } ∧
      c.clusters = if 0 ∈ ks then [] else s.counts.clusters := by
  induction ks generalizing s with
  | nil => exact ⟨s.counts, rfl, rfl⟩
  | cons k ks ih =>
    obtain ⟨c1, h1, hc1⟩ := zeroKind_eq k s
    obtain ⟨c2, h2, hc2⟩ := ih { s with counts := c1 }
    refine ⟨c2, by rw [List.foldl_cons, h1, h2], hc2.trans ?_⟩
    by_cases hk : k = 0
    · rw [if_pos (show (0 : Nat) ∈ k :: ks by simp [hk])]
      split
      · rfl
      · exact hc1.trans (if_pos hk)
    · have hmem : (0 ∈ k :: ks) ↔ 0 ∈ ks := by
        rw [List.mem_cons, or_iff_right (Ne.symm hk)]
      simp only [hmem]
      split
      · rfl
      · exact hc1.trans (if_neg hk)

theorem bitOf_toNat (v : BitVec 64) (k : Nat) : bitOf v.toNat k = v.getLsbD k := by
  simp [bitOf, BitVec.getLsbD, Nat.testBit_eq_decide_div_mod_eq]

theorem mem_bitsSet {m n k : Nat} : k ∈ bitsSet m n ↔ k < n ∧ bitOf m k = true := by
  simp [bitsSet]

theorem flankNum_lt (f : Flank) : flankNum f < 2 := by cases f <;> decide

/-- A kind is enabled on both flanks or on neither. -/
theorem contains_kinds (ks : List Nat) (k : Nat) (f : Flank) :
    (ks.flatMap fun k => [2 * k, 2 * k + 1]).contains (k * 2 + flankNum f) = ks.contains k := by
  have hf := flankNum_lt f
  rw [Bool.eq_iff_iff]
  simp only [List.contains_iff_mem, List.mem_flatMap, List.mem_cons, List.not_mem_nil, or_false]
  constructor
  · rintro ⟨j, hj, h⟩
    have : j = k := by omega
    exact this ▸ hj
  · intro h
    exact ⟨k, h, by omega⟩

theorem beginCountersEnable_ok {a : Accepted} {s : State} (h0 : a.desc.imm0.toNat < 16) (h1 : a.desc.imm1.toNat < 2) :
    ∃ c : Counts, beginCountersEnable a s = finish a {} { s with counts := c } ∧
      c.enabled = (bitsSet a.desc.imm0.toNat 4).flatMap (fun k => [2 * k, 2 * k + 1]) ∧
      c.autoReset = decide (a.desc.imm1.toNat = 1) ∧
      c.clusters = if a.desc.imm0.getLsbD 0 = true then [] else s.counts.clusters := by
  obtain ⟨c, hc, hclusters⟩ := zeroKinds_eq (bitsSet a.desc.imm0.toNat 4) s
  have hzero : (0 ∈ bitsSet a.desc.imm0.toNat 4) ↔ a.desc.imm0.getLsbD 0 = true := by
    rw [mem_bitsSet, bitOf_toNat]
    exact and_iff_right (by decide)
  unfold beginCountersEnable
  dsimp only
  rw [if_neg (by simp; omega), hc]
  exact ⟨_, rfl, rfl, rfl, hclusters.trans (by simp only [hzero])⟩

theorem beginCountersRead_stack {a : Accepted} {s : State} (hty : a.desc.target.toNat / 4096 = 5)
    (hin : a.desc.target.toNat % 4096 < 8) (hlen : (sampleUnit a.desc.target.toNat s).length ≤ a.desc.resLen.toNat) :
    beginCountersRead a s = finishWith a {} (sampleUnit a.desc.target.toNat s) (pausesRead [a.desc.target.toNat] s) := by
  have hguest : namesGuest a.desc.target.toNat = false := by simp [namesGuest]; omega
  have hexists : sourceExists a.desc.target.toNat = true := by simp [sourceExists, hty, hin]
  have hsampled : sampled a.desc.target.toNat = [a.desc.target.toNat] := by
    rw [sampled, if_neg (by omega)]
  unfold beginCountersRead
  dsimp only
  rw [if_neg (by omega), hguest, hty, hexists, hsampled, if_neg (by simp), if_neg (by simp), List.flatMap_singleton,
    if_neg (by omega), pausesRead]

theorem pausesRead_keeps (srcs : List Nat) {T : List Area} {s0 s : State} (hT : within [.counts] T = true)
    (h : Keeps T s0 s) : Keeps T s0 (pausesRead srcs s) := keeps_setCounts hT h _

/-! ## FAB_LINK_CTRL -/

theorem beginLinkCtrl_disable {a : Accepted} {s : State} (hn : a.desc.target.toNat < 32) (hk : a.desc.imm0 = 1)
    (hin : linkFenced a.desc.target.toNat s = false) :
    beginLinkCtrl a s = finish a {} (refreshDegraded (linkOff a.desc.target.toNat
      (linkSet a.desc.target.toNat { linkGet a.desc.target.toNat s with disabled := true } s))) := by
  unfold beginLinkCtrl
  dsimp only
  rw [hk, if_neg (by simp; omega), hin, if_neg Bool.false_ne_true, if_pos (by decide)]

/-- A link disabled and turned off stays disabled, and is DARK. -/
theorem linkOff_disabled (n : Nat) (s : State) :
    (linkGet n (refreshDegraded (linkOff n (linkSet n { linkGet n s with disabled := true } s)))).disabled = true ∧
      (linkGet n (refreshDegraded (linkOff n (linkSet n { linkGet n s with disabled := true } s)))).st = .dark := by
  have hoff := (linkOff_becomes n (linkSet n { linkGet n s with disabled := true } s)).sends
    (refreshDegraded_sendsOnly (SendsOnly.refl _))
  have hmine := hoff.mine
  rw [linkGet_linkSet_self] at hmine
  exact ⟨disabled_of_linkCore hmine, st_of_linkCore hmine⟩

theorem linkOff_disabled_grows (n : Nat) (s : State) :
    Grows s (refreshDegraded (linkOff n (linkSet n { linkGet n s with disabled := true } s))) := by
  refine refreshDegraded_grows (linkOff_grows _ ?_)
  exact (Grows.refl s).quiet (linkSet_keeps n _ rfl (Keeps.refl s))

theorem fab_finish (a : Accepted) (r : Res) (s : State) : (finish a r s).fab = s.fab :=
  (finish_quiet a r s).same .fab (by decide)

theorem links_finish (a : Accepted) (r : Res) (s : State) : (finish a r s).links = s.links :=
  (finish_quiet a r s).same .links (by decide)

theorem counts_finish (a : Accepted) (r : Res) (s : State) : (finish a r s).counts = s.counts :=
  (finish_quiet a r s).same .counts (by decide)

/-- Settles O17: the reports are stored as their functions give them, a configuration takes the record it asks for and no
training link takes it back, and a link disabled goes DARK. -/
theorem fabricAndCounterCommands : Obligations.FabricAndCounterCommands := by
  refine ⟨fun d s hb hin hlen hopen => ?_, fun d s hb harg hok => ?_, fun d s hb harg hok => ?_,
    fun d s hb hn hk hin => ?_, fun d s hb h0 h1 => ?_, fun d s hb hty hi hin hlen hopen => ?_⟩
  · obtain ⟨c, hstart, -⟩ := rowStart_cmdsOnly 0x0401 d s
    exact ⟨_, rfl, rowCommand_finishesWith (r := {}) (run := beginFabStatus) hb (by rw [hstart]; rfl) hlen hin hopen⟩
  · obtain ⟨c, hstart, -⟩ := rowStart_cmdsOnly 0x0402 d s
    have harg' : argBytes (rowAccepted 0x0402 d s).desc (rowStart 0x0402 d s) = ((argBytes d s).1, rowStart 0x0402 d s) :=
      argBytes_rowStart harg
    have hrun := beginFabConfig_ok harg'
      (by rw [hstart]; exact hok)
    refine ⟨_, rfl, rowCommand_completes hb hrun (fabConfigured_grows _ _), ?_⟩
    rw [rowCommand_of_canBegin hb, hrun, fab_finish]
    have hset := fabSetup_fabConfigured (fabArg (argBytes d s).1) (rowStart 0x0402 d s)
    have hwant : fabWanted (fabArg (argBytes d s).1) (rowStart 0x0402 d s) = fabWanted (fabArg (argBytes d s).1) s := by
      rw [hstart]
      rfl
    rw [hwant] at hset
    exact fields_of_fabSetup hset
  · obtain ⟨c, hstart, -⟩ := rowStart_cmdsOnly 0x0402 d s
    have harg' : argBytes (rowAccepted 0x0402 d s).desc (rowStart 0x0402 d s) = ((argBytes d s).1, rowStart 0x0402 d s) :=
      argBytes_rowStart harg
    exact ⟨_, rfl, rowCommand_finishes (run := beginFabConfig) hb
      (beginFabConfig_bad harg' (by rw [hstart]; exact hok))⟩
  · obtain ⟨c, hstart, -⟩ := rowStart_cmdsOnly 0x0403 d s
    have hrun := beginLinkCtrl_disable (a := rowAccepted 0x0403 d s) (s := rowStart 0x0403 d s) hn hk
      (by rw [hstart]; exact hin)
    refine ⟨_, rfl, rowCommand_completes hb hrun (linkOff_disabled_grows _ _), ?_⟩
    rw [rowCommand_of_canBegin hb, hrun, linkGet_congr (links_finish _ _ _)]
    exact linkOff_disabled _ _
  · obtain ⟨c, hrun, henabled, hauto, hclusters⟩ :=
      beginCountersEnable_ok (a := rowAccepted 0x0501 d s) (s := rowStart 0x0501 d s) h0 h1
    have hcounts : (rowStart 0x0501 d s).counts = s.counts :=
      (rowStart_keeps 0x0501 d (T := [.cmds]) rfl (Keeps.refl s)).same .counts (by decide)
    refine ⟨_, rfl, rowCommand_completes hb hrun ((Grows.refl _).quiet (keeps_setCounts rfl (Keeps.refl _) c)), ?_⟩
    rw [rowCommand_of_canBegin hb, hrun, counts_finish]
    refine ⟨fun k f hk => ?_, hauto, fun h => hclusters.trans (if_pos h), fun h => ?_, ?_⟩
    · rw [counting, counts_finish]
      dsimp only
      rw [henabled, contains_kinds, ← bitOf_toNat, Bool.eq_iff_iff, List.contains_iff_mem, mem_bitsSet]
      exact and_iff_right hk
    · exact hclusters.trans ((if_neg (ne_true_of_eq_false h)).trans (congrArg Counts.clusters hcounts :))
    · exact (finish_keeps _ _ rfl (keeps_setCounts rfl (rowStart_keeps _ d rfl (Keeps.refl s)) c)).frame
  · obtain ⟨c, hstart, -⟩ := rowStart_cmdsOnly 0x0502 d s
    have hsample : sampleUnit d.target.toNat (rowStart 0x0502 d s) = sampleUnit d.target.toNat s := by
      rw [hstart]
      rfl
    have hrun := beginCountersRead_stack (a := rowAccepted 0x0502 d s) (s := rowStart 0x0502 d s) hty hi
      (by rw [show (rowAccepted 0x0502 d s).desc.target = d.target from rfl, hsample]; exact hlen)
    rw [show (rowAccepted 0x0502 d s).desc.target = d.target from rfl, hsample] at hrun
    obtain ⟨hdone, hstored⟩ := completed_stored_finishWith (op := 0x0502) (d := d) (r := {})
      (e := pausesRead [d.target.toNat] (rowStart 0x0502 d s)) (rowStart_mem _ _ _) (rowStart_held _ _ _) hlen hin hopen
    refine ⟨_, rfl, ?_⟩
    rw [rowCommand_of_canBegin hb, hrun]
    refine ⟨hdone, hstored, ?_⟩
    have hin' : d.resAddr.toNat < topOfDram (pausesRead [d.target.toNat] (rowStart 0x0502 d s)) := by
      rw [hstart]
      exact hin
    rw [finishWith_dram (a := rowAccepted 0x0502 d s) hlen hin']
    refine (finish_keeps _ _ rfl (dramWriteBytes_keeps_of_dramOpen ?_ rfl (pausesRead_keeps _ rfl
      (rowStart_keeps _ d rfl (Keeps.refl s))))).frame
    exact hopen.congr (rowStart_mem 0x0502 d s)

end Sys2Proof.Machine

/-!
PROOFS. CAIRN_ARM and CAIRN_TAKE (R468, R469).
-/

namespace Sys2Proof.Machine

theorem beginCairnArm_arms {a : Accepted} {s : State} (hs : s.cairn.state ≠ .taking) (hv : a.desc.imm0.toNat ≠ 0)
    (hzero : bitsOf a.desc.imm0.toNat 15 5 = 0) (hhigh : a.desc.imm0.toNat < 2 ^ 32)
    (hstall : a.desc.imm0.getLsbD 4 = true → bitsOf a.desc.imm0.toNat 31 16 ≠ 0) (harea : areaHeld s = false) :
    beginCairnArm a s = finish a {} { s with cairn := { s.cairn with
      state := .armed, armed := a.desc.imm0.toNat % 32, stallMs := bitsOf a.desc.imm0.toNat 31 16, area := true } } := by
  have hbit : (bitOf a.desc.imm0.toNat 4 && decide (bitsOf a.desc.imm0.toNat 31 16 = 0)) = false := by
    rw [bitOf_toNat, Bool.and_eq_false_iff, decide_eq_false_iff_not]
    exact (Bool.eq_false_or_eq_true _).symm.imp_right hstall
  unfold beginCairnArm
  dsimp only
  rw [if_neg hs, if_neg hv, hzero, Nat.div_eq_of_lt hhigh, hbit, harea]
  rfl

theorem beginCairnArm_disarms {a : Accepted} {s : State} (hs : s.cairn.state ≠ .taking) (hv : a.desc.imm0 = 0) :
    beginCairnArm a s = finish a {} { s with cairn := { s.cairn with
      state := .disarmed, armed := 0, stallMs := 0, area := false } } := by
  unfold beginCairnArm
  dsimp only
  rw [if_neg hs, hv, if_pos (by rfl)]

theorem beginCairnArm_noTime {a : Accepted} {s : State} (hs : s.cairn.state ≠ .taking)
    (hbit : a.desc.imm0.getLsbD 4 = true) (htime : bitsOf a.desc.imm0.toNat 31 16 = 0) :
    beginCairnArm a s = finish a { st := .badArgument } s := by
  have hv : a.desc.imm0.toNat ≠ 0 := fun h0 => by
    rw [← bitOf_toNat, h0] at hbit
    exact absurd hbit (by decide)
  unfold beginCairnArm
  dsimp only
  rw [if_neg hs, if_neg hv, bitOf_toNat, hbit, htime, if_pos]
  simp

theorem beginCairnTake_armed {s : State} (hs : s.cairn.state = .armed) (a : Accepted) :
    beginCairnTake a s = joinTake a (cairnStart 0 0 s) := by
  unfold beginCairnTake
  rw [hs]

theorem beginCairnTake_taken {s : State} (hs : s.cairn.state = .taken) (a : Accepted) :
    beginCairnTake a s = finish a { st := .busy } s := by
  unfold beginCairnTake
  rw [hs]

theorem cairn_finish (a : Accepted) (r : Res) (s : State) : (finish a r s).cairn = s.cairn :=
  (finish_quiet a r s).same .cairn (by decide)

/-- What a command that changed the Cairn controller and ended leaves. -/
theorem finish_cairn_onlyChanges (op : BitVec 16) (d : Descriptor) (r : Res) (c : Cairn) (s : State) :
    OnlyChanges [.cairn, .cmds] s (finish (rowAccepted op d s) r { rowStart op d s with cairn := c }) :=
  (finish_keeps _ _ rfl (keeps_setCairn rfl (rowStart_keeps op d rfl (Keeps.refl s)) c)).frame

theorem completed_finish_cairn {op : BitVec 16} {d : Descriptor} {r : Res} {s : State}
    {run : Accepted → State → State} {c : Cairn} (hb : CanBegin op d s)
    (hrun : run (rowAccepted op d s) (rowStart op d s) = finish (rowAccepted op d s) r { rowStart op d s with cairn := c }) :
    Completed op d r.st s (rowCommand op run d s) :=
  rowCommand_completes hb hrun ((Grows.refl _).quiet (keeps_setCairn rfl (Keeps.refl _) c))

/-- Settles O18: the controller's state decides what the two commands do. -/
theorem cairnArmAndTake : Obligations.CairnArmAndTake := by
  refine ⟨fun d s hb hs hv hzero hhigh hstall harea => ?_, fun d s hb hs hv => ?_, fun d s hb hs hbit htime => ?_,
    fun d s hb hs => ?_, fun d s hb hs => ?_⟩
  · have harea' : areaHeld (rowStart 0x0503 d s) = false := by
      obtain ⟨c, hstart, -⟩ := rowStart_cmdsOnly 0x0503 d s
      rw [hstart]
      exact harea
    have hrun := beginCairnArm_arms (a := rowAccepted 0x0503 d s) (s := rowStart 0x0503 d s)
      (by rw [rowStart_cairn]; exact hs) hv hzero hhigh hstall harea'
    refine ⟨_, rfl, completed_finish_cairn hb hrun, ?_⟩
    rw [rowCommand_of_canBegin hb, hrun, cairn_finish]
    exact ⟨rfl, rfl, rfl, rfl, finish_cairn_onlyChanges _ d _ _ s⟩
  · have hrun := beginCairnArm_disarms (a := rowAccepted 0x0503 d s) (s := rowStart 0x0503 d s)
      (by rw [rowStart_cairn]; exact hs) hv
    refine ⟨_, rfl, completed_finish_cairn hb hrun, ?_⟩
    rw [rowCommand_of_canBegin hb, hrun, cairn_finish]
    exact ⟨rfl, rfl, rfl, finish_cairn_onlyChanges _ d _ _ s⟩
  · exact ⟨_, rfl, rowCommand_finishes hb (beginCairnArm_noTime (by rw [rowStart_cairn]; exact hs) hbit htime)⟩
  · have hrun := beginCairnTake_armed (s := rowStart 0x0504 d s) (by rw [rowStart_cairn]; exact hs) (rowAccepted 0x0504 d s)
    obtain ⟨c, hstart, -⟩ := rowStart_cmdsOnly 0x0504 d s
    refine ⟨_, rfl, ?_⟩
    rw [rowCommand_of_canBegin hb, hrun]
    refine ⟨rfl, rfl, rfl, rfl, ?_, ?_, ?_⟩
    · rw [hstart]
      rfl
    · rw [hstart]
      rfl
    · exact (joinTake_keeps _ rfl (cairnStart_keeps _ _ rfl (rowStart_keeps _ d rfl (Keeps.refl s)))).frame
  · exact ⟨_, rfl, rowCommand_finishes hb (beginCairnTake_taken (by rw [rowStart_cairn]; exact hs) _)⟩

end Sys2Proof.Machine

/-!
PROOFS. Events of sources, detected and forced, and the commands of faults (R450–R460).
-/

namespace Sys2Proof.Machine

/-! ## The newest entry of the history (R457, R460) -/

theorem classCode_lt (k : FClass) : classCode k < 4 := by cases k <;> decide

theorem bit_le_one (b : Bool) : bit b ≤ 1 := by cases b <;> decide

theorem histFlags_forced (e : FaultInput) (merged escalated : Bool) :
    (histFlags e merged escalated).getLsbD 4 = e.forced := by
  have hc := classCode_lt e.cls
  have h1 := bit_le_one (merged && !escalated)
  have h2 := bit_le_one escalated
  have h3 := bit_le_one e.resumed.isSome
  rw [histFlags, BitVec.getLsbD_ofNat, Nat.testBit_eq_decide_div_mod_eq]
  generalize bit (merged && !escalated) = m at h1 ⊢
  generalize bit escalated = x at h2 ⊢
  generalize bit e.resumed.isSome = y at h3 ⊢
  cases e.forced
  · rw [show bit false = 0 from rfl, decide_eq_true (by omega : 4 < 8), Bool.true_and, decide_eq_false]
    omega
  · rw [show bit true = 1 from rfl, decide_eq_true (by omega : 4 < 8), Bool.true_and, decide_eq_true]
    omega

theorem report_hist_forced (e : FaultInput) (s : State) :
    (tget {} (report e s).faults.hist (s.faults.entered % 16)).flags.getLsbD 4 = e.forced := by
  rw [report_faults]
  have hhist : (tget {} (collect e s).faults.hist (s.faults.entered % 16)).flags =
      histFlags e (recordFor (groupKey e.source.toNat) s).2.2.isSome
        (escalates e (recordFor (groupKey e.source.toNat) s).2.2) := by
    simp [collect]
  exact (congrArg (fun f : BitVec 8 => f.getLsbD 4) hhist).trans (histFlags_forced _ _ _)

theorem Faulted.congr {src : Nat} {cls : FClass} {s s' t t' : State} (h : Faulted src cls s t) (hs : s'.faults = s.faults)
    (ht : t'.faults = t.faults) : Faulted src cls s' t' := by
  rw [Faulted, hs, ht]
  exact h

theorem faulted_report_source (e : FaultInput) (s : State) : Faulted e.source.toNat e.cls s (report e s) := by
  have h := faulted_report e.source.toNat e.cls e.syndrome e.resumed e.forced s
  rwa [BitVec.ofNat_toNat, BitVec.setWidth_eq] at h

theorem report_fenced_of_ne {e : FaultInput} (h : e.cls ≠ .u) (s : State) : (report e s).faults.fenced = s.faults.fenced := by
  rw [report_faults]
  cases hc : e.cls <;> first
    | rfl
    | exact absurd hc h

theorem fenced_report {e : FaultInput} (h : e.cls = .u) (s : State) :
    Fenced e.source.toNat (coreOf e.source.toNat e.syndrome) (report e s) := by
  rw [Fenced, isFenced, report_faults, h]
  exact List.contains_iff_mem.mpr (mem_setInsert.mpr (.inl rfl))

theorem Fenced.grows {src core : Nat} {s t : State} (h : Fenced src core s) (hg : Grows s t) : Fenced src core t :=
  List.contains_iff_mem.mpr (hg.fenced _ (List.contains_iff_mem.mp h))

/-! ## An event of a source is a report (R35, R452) -/

/-- The record of an event is a report of it, with RESUMED where its cluster had paused. -/
theorem sourceEvent_reports (e : FaultInput) (s : State) : ∃ r u, Keeps [.comp] s u ∧
    sourceEvent e s = (if e.cls = .u && !alreadyOut e.source.toNat (coreOf e.source.toNat e.syndrome) s
      then unitOut e.source.toNat (coreOf e.source.toNat e.syndrome) (report { e with resumed := r } u)
      else report { e with resumed := r } u) := by
  unfold sourceEvent
  dsimp only
  by_cases h : (e.resumed.isNone && (e.source.toNat / 4096 = 1 || e.source.toNat / 4096 = 2 || e.source.toNat / 4096 = 3)) = true
  · rw [if_pos h]
    exact ⟨_, _, takeResumed_keeps _ rfl (Keeps.refl s), rfl⟩
  · rw [if_neg h]
    exact ⟨e.resumed, s, Keeps.refl s, rfl⟩

/-- Outside class U an event is its report and nothing more. -/
theorem sourceEvent_of_ne {e : FaultInput} (h : e.cls ≠ .u) (s : State) : ∃ r u, Keeps [.comp] s u ∧
    sourceEvent e s = report { e with resumed := r } u := by
  obtain ⟨r, u, hu, hev⟩ := sourceEvent_reports e s
  exact ⟨r, u, hu, hev.trans (if_neg (by simp [h]))⟩

theorem faults_of_keepsComp {s u : State} (h : Keeps [.comp] s u) : u.faults = s.faults := h.same .faults (by decide)

/-- What an event outside class U enters. -/
theorem faulted_sourceEvent {e : FaultInput} (h : e.cls ≠ .u) (s : State) :
    Faulted e.source.toNat e.cls s (sourceEvent e s) ∧ (sourceEvent e s).faults.fenced = s.faults.fenced ∧
      (tget {} (sourceEvent e s).faults.hist (s.faults.entered % 16)).flags.getLsbD 4 = e.forced := by
  obtain ⟨r, u, hu, hev⟩ := sourceEvent_of_ne h s
  have hfaults := faults_of_keepsComp hu
  rw [hev]
  refine ⟨(faulted_report_source { e with resumed := r } u).congr hfaults.symm rfl,
    (report_fenced_of_ne (e := { e with resumed := r }) h u).trans (congrArg Faults.fenced hfaults :), ?_⟩
  rw [← hfaults]
  exact report_hist_forced { e with resumed := r } u

theorem keepsComp_quiet {s u : State} (h : Keeps [.comp] s u) : Grows s u := (Grows.refl s).quiet (h.weaken rfl)

theorem sourceEvent_grows_of_ne {e : FaultInput} (h : e.cls ≠ .u) (s : State) : Grows s (sourceEvent e s) := by
  obtain ⟨r, u, hu, hev⟩ := sourceEvent_of_ne h s
  rw [hev]
  exact report_grows _ (keepsComp_quiet hu)

theorem forceEvent_c (src : Nat) (syn : BitVec 64) (s : State) :
    forceEvent src .c syn s = sourceEvent ⟨BitVec.ofNat 16 src, .c, syn, none, true⟩ s := rfl

/-! ## A forced event of class U of a control port (R460) -/

theorem unitOut_port {src : Nat} (core : Nat) (h : src / 4096 = 13) (s : State) :
    unitOut src core s = portOut (portOfSource src) s := by
  unfold unitOut
  rw [h]
  rfl

theorem coreOf_port {src : Nat} (h : src / 4096 = 13) (syn : BitVec 64) : coreOf src syn = 0 := by
  have hcore : perCore src = false := by
    rw [perCore, h]
    rfl
  rw [coreOf, hcore]
  rfl

theorem sourceEvent_port {e : FaultInput} (h : e.cls = .u) (hsrc : e.source.toNat / 4096 = 13) (s : State) :
    Grows s (sourceEvent e s) ∧ Fenced e.source.toNat 0 (sourceEvent e s) := by
  obtain ⟨r, u, hu, hev⟩ := sourceEvent_reports e s
  have hreport := report_grows { e with resumed := r } (keepsComp_quiet hu)
  have hfenced := fenced_report (e := { e with resumed := r }) h u
  rw [show ({ e with resumed := r } : FaultInput).source = e.source from rfl, coreOf_port hsrc] at hfenced
  rw [hev]
  split
  · rw [unitOut_port _ hsrc]
    exact ⟨portOut_grows _ hreport, hfenced.grows (portOut_grows _ (Grows.refl _))⟩
  · exact ⟨hreport, hfenced⟩

theorem toNat_ofNat_16 {src : Nat} (h : src < 65536) : (BitVec.ofNat 16 src).toNat = src := by
  rw [BitVec.toNat_ofNat]
  omega

/-- A class U event fences its unit. -/
theorem fenced_faultU {src : Nat} (h : src < 65536) (hc : perCore src = false) (syn : Nat) (s : State) :
    Fenced src 0 (faultU src syn s) := by
  have hfenced := fenced_report (e := evt src .u syn) rfl s
  rwa [show (evt src .u syn).source.toNat = src from toNat_ofNat_16 h, coreOf, hc, if_neg Bool.false_ne_true] at hfenced

theorem fenced_faultUOpen {src : Nat} (h : src < 65536) (hc : perCore src = false) (s : State) :
    Fenced src 0 (faultUOpen src s) := fenced_faultU h hc _ _

theorem forceEvent_port {src : Nat} (hsrc : src / 4096 = 13) (syn : BitVec 64) (s : State) :
    Grows s (forceEvent src .u syn s) ∧ Fenced src 0 (forceEvent src .u syn s) := by
  have hnat := toNat_ofNat_16 (src := src) (by omega)
  have hev := fun u => sourceEvent_port (e := ⟨BitVec.ofNat 16 src, .u, syn, none, true⟩) rfl
    (show (BitVec.ofNat 16 src).toNat / 4096 = 13 by rw [hnat]; exact hsrc) u
  have hsource : ∀ u, Fenced src 0 (sourceEvent ⟨BitVec.ofNat 16 src, .u, syn, none, true⟩ u) := fun u => by
    have h := (hev u).2
    rwa [show (⟨BitVec.ofNat 16 src, .u, syn, none, true⟩ : FaultInput).source.toNat = src from hnat] at h
  unfold forceEvent
  dsimp only
  split
  · exact ⟨(hev s).1, hsource s⟩
  · refine ⟨Grows.trans ?_ (hev _).1, hsource _⟩
    exact grows_mkFaults (Grows.refl s) rfl rfl

/-! ## The commands of faults -/

theorem beginFaultClear_removes {a : Accepted} {i : Nat} {r : FaultRec} {s : State} (hsrc : a.desc.target.toNat < 65536)
    (hcheck : sourceCheck a.desc.target.toNat s = none) (hrec : recordOf (groupKey a.desc.target.toNat) s = some (i, r))
    (hcount : a.desc.imm0.toNat % 2 ^ 32 = r.count) (hcause : causePersists (groupKey a.desc.target.toNat) r.cls s = false) :
    beginFaultClear a s = finish a { detail := 1 } (removeRecord i r s) := by
  unfold beginFaultClear
  rw [if_pos hsrc, hcheck]
  dsimp only
  rw [hrec]
  dsimp only
  rw [hcount, hcause, if_neg (by simp)]

theorem beginFaultClear_stillActive {a : Accepted} {i : Nat} {r : FaultRec} {s : State} (hsrc : a.desc.target.toNat < 65536)
    (hcheck : sourceCheck a.desc.target.toNat s = none) (hrec : recordOf (groupKey a.desc.target.toNat) s = some (i, r))
    (hcause : causePersists (groupKey a.desc.target.toNat) r.cls s = true) :
    beginFaultClear a s = finish a { st := .stillActive } s := by
  unfold beginFaultClear
  rw [if_pos hsrc, hcheck]
  dsimp only
  rw [hrec]
  dsimp only
  rw [hcause, Bool.or_true, if_pos rfl]

theorem beginForce_event {a : Accepted} {k : FClass} {s : State} (hsrc : a.desc.target.toNat < 65536)
    (hcheck : sourceCheck a.desc.target.toNat s = none) (hc : classOfCode a.desc.imm0.toNat = k) (hx : k ≠ .x) :
    beginForce a s = finish a {} (forceEvent a.desc.target.toNat k a.desc.imm1 s) := by
  unfold beginForce
  rw [if_pos hsrc, hcheck]
  dsimp only
  rw [hc, if_neg hx]

theorem faults_finish (a : Accepted) (r : Res) (s : State) : (finish a r s).faults = s.faults :=
  (finish_keeps a r (T := [.cmds]) rfl (Keeps.refl s)).same .faults (by decide)

theorem rowStart_faults (op : BitVec 16) (d : Descriptor) (s : State) : (rowStart op d s).faults = s.faults :=
  (rowStart_keeps op d (T := [.cmds]) rfl (Keeps.refl s)).same .faults (by decide)

/-- Settles O20: the dump is stored, a record goes or stays by its cause, and a forced event is entered like a detected one. -/
theorem faultCommands : Obligations.FaultCommands := by
  refine ⟨fun d s hb ht hin hlen hopen => ?_, fun d i r s hb hsrc hcheck hrec hcount hcause => ?_,
    fun d i r s hb hsrc hcheck hrec hcause => ?_, fun d s hb hsrc hcheck hc => ?_, fun d s hb hty hi hc => ?_⟩
  · refine ⟨_, rfl, rowCommand_finishesWith (r := {}) (run := beginFaultRead) hb ?_ hlen hin hopen⟩
    obtain ⟨c, hstart, -⟩ := rowStart_cmdsOnly 0x0601 d s
    unfold beginFaultRead
    rw [if_pos (show (rowAccepted 0x0601 d s).desc.target = 0xFFFFFFFF from ht), hstart]
    rfl
  · obtain ⟨c, hstart, -⟩ := rowStart_cmdsOnly 0x0602 d s
    have hrun := beginFaultClear_removes (a := rowAccepted 0x0602 d s) (s := rowStart 0x0602 d s) (i := i) (r := r) hsrc
      (by rw [hstart]; exact hcheck) (by rw [hstart]; exact hrec) hcount (by rw [hstart]; exact hcause)
    have hfaults := rowStart_faults 0x0602 d s
    refine ⟨_, rfl, rowCommand_completes hb hrun (grows_mkFaults (Grows.refl _) rfl rfl), ?_⟩
    rw [rowCommand_of_canBegin hb, hrun, faults_finish]
    unfold removeRecord
    dsimp only
    rw [hfaults]
    refine ⟨rfl, rfl, rfl, fun h => if_pos h, ?_⟩
    have hkeeps := removeRecord_keeps i r (T := [.faults, .cmds]) rfl
      (rowStart_keeps 0x0602 d rfl (Keeps.refl s))
    unfold removeRecord at hkeeps
    rw [hfaults] at hkeeps
    exact (finish_keeps _ _ rfl hkeeps).frame
  · obtain ⟨c, hstart, -⟩ := rowStart_cmdsOnly 0x0602 d s
    exact ⟨_, rfl, rowCommand_finishes hb (beginFaultClear_stillActive hsrc (by rw [hstart]; exact hcheck)
      (by rw [hstart]; exact hrec) (by rw [hstart]; exact hcause))⟩
  · obtain ⟨c, hstart, -⟩ := rowStart_cmdsOnly 0x0603 d s
    have hclass : classOfCode d.imm0.toNat = .c := if_pos hc
    have hrun := beginForce_event (a := rowAccepted 0x0603 d s) (s := rowStart 0x0603 d s) hsrc
      (by rw [hstart]; exact hcheck) hclass (by decide)
    rw [forceEvent_c] at hrun
    have hfaults := rowStart_faults 0x0603 d s
    obtain ⟨hfaulted, hfenced, hforced⟩ := faulted_sourceEvent
      (e := ⟨BitVec.ofNat 16 d.target.toNat, .c, d.imm1, none, true⟩) (show FClass.c ≠ FClass.u by decide) (rowStart 0x0603 d s)
    refine ⟨_, rfl, rowCommand_completes hb hrun (sourceEvent_grows_of_ne (show FClass.c ≠ FClass.u by decide) _), ?_⟩
    rw [rowCommand_of_canBegin hb, hrun, faults_finish]
    refine ⟨?_, ?_, hfenced.trans (congrArg Faults.fenced hfaults :)⟩
    · have h := hfaulted.congr hfaults.symm (faults_finish (rowAccepted 0x0603 d s) {} _)
      rwa [show (⟨BitVec.ofNat 16 d.target.toNat, .c, d.imm1, none, true⟩ : FaultInput).source.toNat = d.target.toNat
        from toNat_ofNat_16 hsrc] at h
    · rw [← hfaults]
      exact hforced
  · obtain ⟨c, hstart, -⟩ := rowStart_cmdsOnly 0x0603 d s
    have hclass : classOfCode d.imm0.toNat = .u := by
      rw [classOfCode, if_neg (by omega), if_neg (by omega), if_pos hc]
    have hexists : sourceExists d.target.toNat = true := by
      rw [sourceExists, hty]
      exact decide_eq_true hi
    have hguest : namesGuest d.target.toNat = false := by
      simp [namesGuest]
      omega
    have hcheck : sourceCheck d.target.toNat (rowStart 0x0603 d s) = none := by
      rw [sourceCheck, hexists, hguest]
      rfl
    have hrun := beginForce_event (a := rowAccepted 0x0603 d s) (s := rowStart 0x0603 d s)
      (show d.target.toNat < 65536 by omega) hcheck hclass (by decide)
    obtain ⟨hgrows, hfenced⟩ := forceEvent_port hty d.imm1 (rowStart 0x0603 d s)
    refine ⟨_, rfl, rowCommand_completes hb hrun hgrows, ?_⟩
    rw [rowCommand_of_canBegin hb, hrun]
    exact hfenced.grows (finish_grows _ _ (Grows.refl _))

end Sys2Proof.Machine

/-!
PROOFS. ATTEST, CLAIM_OWNER and FW_UPDATE (R480, R483–R486).
-/

namespace Sys2Proof.Machine

/-! ## Security events only add (R489) -/

section
variable {s0 s : State}

theorem securityEvent_grows (reason : Nat) (h : Grows s0 s) : Grows s0 (securityEvent reason s) :=
  (faultC_grows _ _ h).quiet (ringBit_keeps 30 rfl (Keeps.refl _))

theorem watchLeaves_grows (h : Grows s0 s) : Grows s0 (watchLeaves s) := by
  unfold watchLeaves
  split
  · exact securityEvent_grows 7 (grows_mk h)
  · exact h

end

theorem securityEvent_sec (reason : Nat) (s : State) : (securityEvent reason s).sec = s.sec :=
  (securityEvent_keeps reason (T := [.boot, .dev, .faults, .db, .ports, .cmds, .graphs, .cairn, .out]) rfl
    (Keeps.refl s)).same .sec (by decide)

/-- The low mark is reported once; nothing else of the leaves moves. -/
theorem watchLeaves_sec (s : State) : ∃ b, (watchLeaves s).sec = { s.sec with leavesLow := b } := by
  unfold watchLeaves
  split
  · exact ⟨true, securityEvent_sec 7 _⟩
  · exact ⟨s.sec.leavesLow, rfl⟩

theorem finishWith_sec (a : Accepted) (r : Res) (bytes : List Byte) (s : State) : (finishWith a r bytes s).sec = s.sec :=
  (finishWith_keeps a r bytes (T := [.ports, .cmds, .bytes, .memCtl, .counts, .out]) rfl (Keeps.refl s)).same .sec
    (by decide)

theorem finish_sec (a : Accepted) (r : Res) (s : State) : (finish a r s).sec = s.sec :=
  (finish_quiet a r s).same .sec (by decide)

/-! ## ATTEST (R483–R485) -/

theorem padTo_length (n : Nat) (bs : List Byte) : (padTo n bs).length = n := by
  simp only [padTo, zeros, List.length_append, List.length_take, List.length_replicate]
  omega

theorem identityBytes_length (s : State) : (identityBytes s).length = 7284 := by
  rw [identityBytes, List.length_append, padTo_length, factoryBytes, List.length_map, List.length_range]

theorem argBytes_effect (d : Descriptor) (s : State) : ∃ k, (argBytes d s).2 = { s with free := k } := by
  unfold argBytes
  dsimp only
  split
  · exact ⟨_, rfl⟩
  · exact ⟨s.free, rfl⟩

/-- Between two states one leaf was taken for a quote, and only entries and events were added. -/
structure QuoteTaken (s t : State) : Prop where
  grows : Grows s t
  leaf : t.sec.nextLeaf = s.sec.nextLeaf + 1
  reserved : t.sec.reserved = if s.sec.nextLeaf < s.sec.reserved then s.sec.reserved else min keyLeaves (s.sec.reserved + 16)
  time : t.sec.quotedAt = some s.clock.now

theorem QuoteTaken.event {s t : State} (h : QuoteTaken s t) (reason : Nat) : QuoteTaken s (securityEvent reason t) :=
  ⟨securityEvent_grows _ h.grows, (congrArg Sec.nextLeaf (securityEvent_sec reason t) :).trans h.leaf,
    (congrArg Sec.reserved (securityEvent_sec reason t) :).trans h.reserved,
    (congrArg Sec.quotedAt (securityEvent_sec reason t) :).trans h.time⟩

theorem QuoteTaken.watch {s t : State} (h : QuoteTaken s t) : QuoteTaken s (watchLeaves t) := by
  obtain ⟨b, hsec⟩ := watchLeaves_sec t
  exact ⟨watchLeaves_grows h.grows, (congrArg Sec.nextLeaf hsec :).trans h.leaf,
    (congrArg Sec.reserved hsec :).trans h.reserved, (congrArg Sec.quotedAt hsec :).trans h.time⟩

theorem takeLeaf_quote {s e : State} (hg : Grows s e) (hsec : e.sec = s.sec) (hnow : e.clock = s.clock) :
    QuoteTaken s { (takeLeaf e).2 with sec := { (takeLeaf e).2.sec with quotedAt := some (takeLeaf e).2.clock.now } } := by
  refine ⟨grows_mk hg, ?_, ?_, ?_⟩
  · simp only [takeLeaf, hsec]
  · simp only [takeLeaf, hsec]
  · simp only [takeLeaf, hnow]

/-- A signed quote has the length that its flag names. -/
theorem signQuote_eq (a : Accepted) (s : State) : ∃ quote e, quote.length = quoteSize a.desc ∧ QuoteTaken s e ∧
    signQuote a s = finishWith a {} quote e := by
  obtain ⟨k, hk⟩ := argBytes_effect a.desc s
  have hquote := (takeLeaf_quote (s := s) (e := (argBytes a.desc s).2) (hk ▸ grows_mk (Grows.refl s))
    (hk ▸ rfl) (hk ▸ rfl)).watch
  unfold signQuote
  dsimp only
  generalize hw : watchLeaves _ = w at hquote
  refine ⟨_, if leavesLeft w = 0 then securityEvent 8 w else w, ?_, ?_, rfl⟩
  · have hid := identityBytes_length s
    simp only [List.length_append, quoteBody, padTo_length, quoteSize]
    split
    · rw [hid]
    · rfl
  · split
    · exact hquote.event 8
    · exact hquote

theorem beginAttest_signs {a : Accepted} {s : State} (hlen : a.desc.argLen = 32) (hid : s.part.identityBad = false)
    (hleaf : s.sec.nextLeaf < 2 ^ 25) (hwait : quoteWait s = 0) (htree : s.sec.nextLeaf < s.sec.trees * 2 ^ 15)
    (hroom : quoteSize a.desc ≤ a.desc.resLen.toNat) : beginAttest a s = signQuote a s := by
  unfold beginAttest
  rw [hlen, if_neg (by decide), hid, if_neg Bool.false_ne_true, leavesLeft, if_neg (by omega), hwait, if_neg (by decide),
    treeLeaves, if_neg (by omega), if_neg (by omega)]

theorem beginAttest_exhausted {a : Accepted} {s : State} (hlen : a.desc.argLen = 32) (hid : s.part.identityBad = false)
    (hleaf : s.sec.nextLeaf = 2 ^ 25) : beginAttest a s = finish a { st := .keyExhausted } s := by
  unfold beginAttest
  rw [hlen, if_neg (by decide), hid, if_neg Bool.false_ne_true, leavesLeft, hleaf, Nat.sub_self, if_pos rfl]

/-! ## CLAIM_OWNER (R486) -/

/-- The four checks of a claim, all of them. -/
def claimPasses (bs : List Byte) (s : State) : Prop :=
  claimForm bs.length (claimOf bs) = true ∧ (claimOf bs).serial = s.part.serial.toNat ∧
    BitVec.ofNat 32 (claimOf bs).counter = s.sec.ownerCounter + 1 ∧ claimAllowed (claimOf bs) s = true ∧
    hssLength (claimOf bs).signature = some (claimOf bs).sigLen ∧
    Config.hssVerify (claimKey (claimOf bs) s) (claimOf bs).message (claimOf bs).signature = true

theorem beginClaimOwner_cases {a : Accepted} {bs : List Byte} {s : State} (harg : argBytes a.desc s = (bs, s)) :
    (claimPasses bs s ∧
      beginClaimOwner a s = finish a {} (securityEvent 4 { s with sec := claimEffect (claimOf bs) s.sec })) ∨
    (¬ claimPasses bs s ∧ ∃ r, beginClaimOwner a s = finish a r s) := by
  unfold beginClaimOwner claimPasses
  rw [harg]
  dsimp only
  split
  · next h => exact .inr ⟨fun hp => by simp [hp.1] at h, _, rfl⟩
  · next h1 =>
    split
    · next h =>
      refine .inr ⟨fun hp => ?_, _, rfl⟩
      obtain ⟨-, hserial, hcounter, -⟩ := hp
      simp [hserial, hcounter] at h
    · next h2 =>
      split
      · next h =>
        refine .inr ⟨fun hp => ?_, _, rfl⟩
        obtain ⟨-, -, -, hallowed, -⟩ := hp
        simp [hallowed] at h
      · next h3 =>
        split
        · next h =>
          refine .inr ⟨fun hp => ?_, _, rfl⟩
          obtain ⟨-, -, -, -, hlen, hverify⟩ := hp
          simp [hlen, hverify] at h
        · next h4 =>
          simp only [Bool.or_eq_true, bne_iff_ne, not_or, not_not, Bool.not_eq_true', Bool.not_eq_false] at h1 h2 h3 h4
          exact .inl ⟨⟨h1, h2.1, h2.2, h3, h4.1, h4.2⟩, rfl⟩

/-! ## FW_UPDATE (R480) -/

theorem beginFwUpdate_checked {a : Accepted} {bs : List Byte} {s : State} (harg : argBytes a.desc s = (bs, s))
    (hidle : s.boot.update = none) (hlen : a.desc.argLen ≠ 0) (hmax : a.desc.argLen.toNat ≤ 2 ^ 24) :
    beginFwUpdate a s = if imagePasses (imageCheck bs) s = true
      then { s with boot := { s.boot with update := some (updateSlot a.desc s, imageCheck bs, a) } }
      else finish a { st := .integrity } s := by
  unfold beginFwUpdate
  rw [hidle, Option.isSome_none, if_neg Bool.false_ne_true, if_neg (by
    rw [decide_eq_false hlen, Bool.false_or, decide_eq_true_eq]
    omega), harg]
  dsimp only
  cases imagePasses (imageCheck bs) s <;> rfl

theorem beginFwUpdate_busy {s : State} (h : s.boot.update.isSome = true) (a : Accepted) :
    beginFwUpdate a s = finish a { st := .busy } s := by
  unfold beginFwUpdate
  rw [h, if_pos rfl]

/-- Settles O21: a quote takes the next leaf, a claim its four checks, and an update starts with an image that passes. -/
theorem securityCommands : Obligations.SecurityCommands := by
  refine ⟨fun d s hb hlen hid hleaf hwait htree hroom hok => ?_, fun d s hb hlen hid hleaf => ?_, fun d s hb harg => ?_,
    fun d s hb harg hidle hlen hmax => ?_, fun d s hb hbusy => ?_⟩
  · obtain ⟨c, hstart, -⟩ := rowStart_cmdsOnly 0x0801 d s
    have hrun := beginAttest_signs (a := rowAccepted 0x0801 d s) (s := rowStart 0x0801 d s) hlen (by rw [hstart]; exact hid)
      (by rw [hstart]; exact hleaf) (by rw [hstart]; exact hwait) (by rw [hstart]; exact htree) hroom
    obtain ⟨quote, e, hsize, hquote, hsign⟩ := signQuote_eq (rowAccepted 0x0801 d s) (rowStart 0x0801 d s)
    have hsec : (rowStart 0x0801 d s).sec = s.sec := by rw [hstart]
    have hnow : (rowStart 0x0801 d s).clock.now = s.clock.now := by rw [hstart]
    obtain ⟨hgrows, hnext, hres, htime⟩ := hquote
    rw [hsec] at hnext hres
    refine ⟨_, rfl, ?_⟩
    rw [rowCommand_of_canBegin hb, hrun, hsign, finishWith_sec]
    refine ⟨completed_finishWith_grown _ d {} (hsize.le.trans hroom) (held_of_rowStart hgrows), hnext, ?_,
      htime.trans (congrArg some hnow)⟩
    obtain ⟨hle, -⟩ := hok
    rw [hres, keyLeaves]
    split <;> omega
  · obtain ⟨c, hstart, -⟩ := rowStart_cmdsOnly 0x0801 d s
    exact ⟨_, rfl, rowCommand_finishes hb (beginAttest_exhausted hlen (by rw [hstart]; exact hid) (by rw [hstart]; exact hleaf))⟩
  · obtain ⟨c, hstart, -⟩ := rowStart_cmdsOnly 0x0802 d s
    have harg' : argBytes (rowAccepted 0x0802 d s).desc (rowStart 0x0802 d s) = ((argBytes d s).1, rowStart 0x0802 d s) :=
      argBytes_rowStart harg
    have hiff : claimPasses (argBytes d s).1 (rowStart 0x0802 d s) ↔ claimPasses (argBytes d s).1 s := by
      rw [hstart]
      exact Iff.rfl
    refine ⟨_, rfl, ?_⟩
    rcases beginClaimOwner_cases harg' with ⟨hpass, hrun⟩ | ⟨hfail, r, hrun⟩
    · refine (if_pos (hiff.mp hpass)).mpr ⟨rowCommand_completes hb hrun (securityEvent_grows 4 (grows_mk (Grows.refl _))), ?_⟩
      rw [rowCommand_of_canBegin hb, hrun, finish_sec, securityEvent_sec]
      rw [hstart]
    · exact (if_neg (mt hiff.mpr hfail)).mpr (rowCommand_finishes hb hrun).2
  · obtain ⟨c, hstart, -⟩ := rowStart_cmdsOnly 0x0803 d s
    have harg' : argBytes (rowAccepted 0x0803 d s).desc (rowStart 0x0803 d s) = ((argBytes d s).1, rowStart 0x0803 d s) :=
      argBytes_rowStart harg
    have hrun := beginFwUpdate_checked (a := rowAccepted 0x0803 d s) harg' (by rw [hstart]; exact hidle) hlen hmax
    have hpass : imagePasses (imageCheck (argBytes d s).1) (rowStart 0x0803 d s) =
        imagePasses (imageCheck (argBytes d s).1) s := by
      rw [hstart]
      rfl
    rw [hpass] at hrun
    refine ⟨_, rfl, ?_⟩
    split
    · next h =>
      rw [if_pos h] at hrun
      rw [rowCommand_of_canBegin hb, hrun]
      refine ⟨?_, ?_⟩
      · rw [hstart]
        rfl
      · exact (keeps_setBoot rfl (rowStart_keeps 0x0803 d rfl (Keeps.refl s)) _).frame
    · next h =>
      rw [if_neg h] at hrun
      exact rowCommand_finishes hb hrun
  · obtain ⟨c, hstart, -⟩ := rowStart_cmdsOnly 0x0803 d s
    exact ⟨_, rfl, rowCommand_finishes hb (beginFwUpdate_busy (by rw [hstart]; exact hbusy) _)⟩

end Sys2Proof.Machine

/-!
PROOFS. The registers that have rows of their own, and reads over the management interface (R406, R460, R504, R511, R514,
R530).
-/

namespace Sys2Proof.Machine

/-! ## A row of a register is its host write (R7, R8) -/

/-- A secure write to a register that the host may write is the write itself, and its answer. -/
theorem namedWrite_secure {off : Nat} {a : Access} (ha : a.secure = true) (hreg : badRegAddr (regBase + off) = false)
    (hopen : hostDenied (regOff (regBase + off)) true = none) (v : BitVec 64) (s : State) :
    namedWrite off v a s = .next (emit (.reply (regWriteAt (regOff (regBase + off)) v (portMaster a.port) a.secure s).1 0)
      (regWriteAt (regOff (regBase + off)) v (portMaster a.port) a.secure s).2) := by
  rw [namedWrite, hostRegWrite_allowed hreg (by rw [ha]; exact hopen)]

theorem exec_thThrottleWrite {a : Access} (ha : a.secure = true) (v : BitVec 64) (s : State) :
    exec (.thThrottleWrite v a) s = .next (emit (.reply (thThrottleWrite v s).1 0) (thThrottleWrite v s).2) :=
  namedWrite_secure (off := 0x50000) ha (by decide) (by decide) v s

theorem exec_thGraceWrite {a : Access} (ha : a.secure = true) (v : BitVec 64) (s : State) :
    exec (.thGraceWrite v a) s = .next (emit (.reply (thGraceWrite v s).1 0) (thGraceWrite v s).2) :=
  namedWrite_secure (off := 0x50008) ha (by decide) (by decide) v s

theorem exec_crnCtrlTake {a : Access} (ha : a.secure = true) (s : State) :
    exec (.crnCtrlTake a) s = .next (emit (.reply (crnTake s).1 0) (crnTake s).2) :=
  namedWrite_secure (off := 0xB0000) ha (by decide) (by decide) 1 s

theorem exec_fenceNow {a : Access} (ha : a.secure = true) (s : State) :
    exec (.fenceNow a) s = .next (emit (.reply .ok 0) (gfwWrite 0 (BitVec.ofNat 64 (2 + bit s.guest.fenceOn)) s)) :=
  namedWrite_secure (off := 0xA0000) ha (by decide) (by decide) _ s

theorem exec_consumedWrite {a : Access} (ha : a.secure = true) (v : BitVec 64) (s : State) :
    exec (.registerWrite 0xFF000C0140 v a) s = .next (emit (.reply (cqConsumedWrite v s).1 0) (cqConsumedWrite v s).2) :=
  namedWrite_secure (off := 0xC0140) ha (by decide) (by decide) v s

theorem thThrottleWrite_inRange {v : BitVec 64} (hlo : 85 ≤ v.toNat % 256) (hhi : v.toNat % 256 ≤ 115) (s : State) :
    thThrottleWrite v s = (.ok, { s with therm := { s.therm with threshold := v.toNat % 256 } }) := by
  unfold thThrottleWrite
  dsimp only
  rw [if_neg (by simp; omega)]

theorem thThrottleWrite_outOfRange {v : BitVec 64} (h : v.toNat % 256 < 85 ∨ 115 < v.toNat % 256) (s : State) :
    thThrottleWrite v s = (.badArgument, s) := by
  unfold thThrottleWrite
  dsimp only
  rw [if_pos (by simpa using h)]

theorem thGraceWrite_inRange {v : BitVec 64} (hlo : 1 ≤ v.toNat % 1024) (hhi : v.toNat % 1024 ≤ 1000) (s : State) :
    thGraceWrite v s = (.ok, { s with therm := { s.therm with graceMs := v.toNat % 1024 } }) := by
  unfold thGraceWrite
  dsimp only
  rw [if_neg (by simp; omega)]

theorem thGraceWrite_outOfRange {v : BitVec 64} (h : v.toNat % 1024 < 1 ∨ 1000 < v.toNat % 1024) (s : State) :
    thGraceWrite v s = (.badArgument, s) := by
  unfold thGraceWrite
  dsimp only
  rw [if_pos (by simp; omega)]

/-! ## FLT_FORCE and FENCE_NOW -/

theorem faulted_emit {src : Nat} {cls : FClass} {o : Output} {s t : State} (h : Faulted src cls s t) :
    Faulted src cls s (emit o t) := h

theorem forceEvent_d_faulted {src : Nat} (hsrc : src < 65536) (syn : BitVec 64) (s : State) :
    Faulted src .d s (forceEvent src .d syn s) ∧
      (tget {} (forceEvent src .d syn s).faults.hist (s.faults.entered % 16)).flags.getLsbD 4 = true := by
  have hev := fun u => faulted_sourceEvent (e := ⟨BitVec.ofNat 16 src, .d, syn, none, true⟩)
    (show FClass.d ≠ FClass.u by decide) u
  have hsource : (⟨BitVec.ofNat 16 src, .d, syn, none, true⟩ : FaultInput).source.toNat = src := toNat_ofNat_16 hsrc
  rw [hsource] at hev
  unfold forceEvent
  dsimp only
  split
  · exact ⟨(hev _).1, (hev _).2.2⟩
  · exact ⟨(hev s).1, (hev s).2.2⟩

theorem guestOut_out {s : State} (hg : s.part.guest.isSome = true) (hf : s.guest.fenced = false) :
    (guestOut s).guest.fenced = true ∧ (guestOut s).pins.gstRstN = false := by
  unfold guestOut
  rw [if_neg (by simp [Option.isNone_eq_false_iff.mpr hg, hf])]
  dsimp only
  have hmods : ∀ (l : List Nat) (u : State), u.guest.fenced = true ∧ u.pins.gstRstN = false →
      (l.foldl (fun t m => modSet m { modGet m t with state := .down } t) u).guest.fenced = true ∧
        (l.foldl (fun t m => modSet m { modGet m t with state := .down } t) u).pins.gstRstN = false := fun l u hu =>
    List.foldlRecOn (motive := fun t : State => t.guest.fenced = true ∧ t.pins.gstRstN = false) l _ hu fun t ht m _ => ht
  exact hmods (groupModules 18) _ ⟨rfl, rfl⟩

theorem fenceGuest_fences {s : State} (hg : s.part.guest.isSome = true) (hf : s.guest.fenced = false) :
    (fenceGuest s).guest.fenced = true ∧ (fenceGuest s).pins.gstRstN = false ∧ Fenced 0xC000 0 (fenceGuest s) := by
  obtain ⟨hfenced, hpin⟩ := guestOut_out hg hf
  have hkeeps := faultUOpen_keeps 0xC000 (T := [.boot, .dev, .faults, .db, .ports, .cmds, .graphs, .cairn, .out, .free]) rfl
    (Keeps.refl (guestOut s))
  have hguest : (faultUOpen 0xC000 (guestOut s)).guest = (guestOut s).guest := hkeeps.same .guest (by decide)
  have hpins : (faultUOpen 0xC000 (guestOut s)).pins = (guestOut s).pins := hkeeps.same .pins (by decide)
  unfold fenceGuest
  rw [if_neg (by simp [Option.isNone_eq_false_iff.mpr hg, hf])]
  refine ⟨(congrArg Guest.fenced hguest :).trans hfenced, (congrArg Pins.gstRstN hpins :).trans hpin, ?_⟩
  exact fenced_faultUOpen (by decide) rfl _

theorem gfwWrite_fenceNow (b : Bool) (s : State) :
    gfwWrite 0 (BitVec.ofNat 64 (2 + bit b)) s = fenceNow { s with guest := { s.guest with fenceOn := b } } := by
  cases b <;> rfl

/-- Settles O26: each register's row is the write of that register, and the write says what it does. -/
theorem namedRegisterWrites : Obligations.NamedRegisterWrites := by
  refine ⟨fun v a s ha hlo hhi => ?_, fun v a s ha h => ?_, fun v a s ha hlo hhi => ?_, fun v a s ha h => ?_,
    fun v a s ha hcheck hc => ?_, fun a s ha hs => ?_, fun a s ha hs => ?_, fun a s ha hg hf => ?_, fun v a s ha => ?_⟩
  · rw [exec_thThrottleWrite ha, thThrottleWrite_inRange hlo hhi]
    exact ⟨_, rfl, rfl, rfl, (emit_keeps _ rfl (keeps_setTherm rfl (Keeps.refl s) _)).frame⟩
  · rw [exec_thThrottleWrite ha, thThrottleWrite_outOfRange h]
  · rw [exec_thGraceWrite ha, thGraceWrite_inRange hlo hhi]
    exact ⟨_, rfl, rfl, rfl, (emit_keeps _ rfl (keeps_setTherm rfl (Keeps.refl s) _)).frame⟩
  · rw [exec_thGraceWrite ha, thGraceWrite_outOfRange h]
  · have hwrite : fltForceWrite v s = (.ok, forceEvent (v.toNat % 65536) .d 0 s) := by
      have hclass : classOfCode (v.toNat / 65536) = .d := by rw [classOfCode, if_neg (by omega), if_pos hc]
      rw [fltForceWrite, hcheck, hclass]
    have hexec : exec (.fltForceWrite v a) s =
        .next (emit (.reply (fltForceWrite v s).1 0) (fltForceWrite v s).2) := if_pos ha
    rw [hexec, hwrite]
    exact ⟨_, rfl, forceEvent_d_faulted (by omega) 0 s⟩
  · have htake : crnTake s = (.ok, cairnStart 1 0 s) := by
      unfold crnTake
      rw [hs]
    rw [exec_crnCtrlTake ha, htake]
    exact ⟨_, rfl, rfl, rfl, rfl, rfl, (emit_keeps _ rfl (cairnStart_keeps _ _ rfl (Keeps.refl s))).frame⟩
  · have htake : crnTake s = (.busy, s) := by
      unfold crnTake
      rcases hs with hs | hs <;> rw [hs]
    rw [exec_crnCtrlTake ha, htake]
  · rw [exec_fenceNow ha, gfwWrite_fenceNow]
    refine ⟨_, rfl, ?_⟩
    rw [fenceNow, if_pos hg]
    exact fenceGuest_fences hg hf
  · rw [exec_consumedWrite ha]
    refine ⟨_, rfl, fun h => ?_, ?_⟩
    · simp only [cqConsumedWrite, h]
      rfl
    · unfold cqConsumedWrite
      dsimp only
      split
      · exact (emit_keeps _ rfl (Keeps.refl s)).frame
      · exact (emit_keeps _ rfl (keeps_setCmds rfl (Keeps.refl s) _)).frame

/-! ## The management interface (R504, R530) -/

/-- The status that a read over the management interface is answered with. -/
def mgmtStatus (addr : Nat) (s : State) : Nat :=
  if addr % 8 != 0 then 3
  else if addr < regBase || !(mgmtA (regOff addr) || mgmtM (regOff addr)) then 2
  else if mgmtM (regOff addr) && !mgmtA (regOff addr) && !colReadable s then 1 else 0

theorem exec_managementRead {s : State} (hp : s.pins.pgLow = []) (addr : BitVec 40) : ∃ pec,
    exec (.managementRead addr) s = .next (emit (.management (BitVec.ofNat 8 (mgmtStatus addr.toNat s))
      (BitVec.ofNat 64 (if mgmtStatus addr.toNat s = 0 then regValue (regOff addr.toNat) false s else 0)) pec) s) := by
  have hpg : ¬ (s.pins.pgLow.contains .aon || s.pins.pgLow.contains .io) = true := by
    rw [hp]
    decide
  exact ⟨_, if_neg hpg⟩

theorem emit_onlyChanges (o : Output) (s : State) : OnlyChanges [.out] s (emit o s) :=
  (emit_keeps o rfl (Keeps.refl s)).frame

/-- Settles O27: the status decides the value, and only the answer leaves. -/
theorem managementReads : Obligations.ManagementReads := by
  refine ⟨fun addr s hp hcol hal hbase hreg => ?_, fun addr s hp hal => ?_, fun addr s hp hal hreg => ?_⟩
  · have hst : mgmtStatus addr.toNat s = 0 := by
      rw [mgmtStatus, hal, if_neg (by decide), if_neg (by rcases hreg with h | h <;> simp [h, hbase]), hcol,
        if_neg (by simp)]
    obtain ⟨pec, hexec⟩ := exec_managementRead hp addr
    rw [hst, if_pos rfl] at hexec
    exact ⟨_, pec, hexec, rfl, emit_onlyChanges _ s⟩
  · have hst : mgmtStatus addr.toNat s = 3 := if_pos (by simp [hal])
    obtain ⟨pec, hexec⟩ := exec_managementRead hp addr
    rw [hst, if_neg (by decide)] at hexec
    exact ⟨_, pec, hexec, rfl, emit_onlyChanges _ s⟩
  · have hst : mgmtStatus addr.toNat s = 2 := by
      rw [mgmtStatus, hal, if_neg (by decide), hreg, if_pos (by simp)]
    obtain ⟨pec, hexec⟩ := exec_managementRead hp addr
    rw [hst, if_neg (by decide)] at hexec
    exact ⟨_, pec, hexec, rfl, emit_onlyChanges _ s⟩

end Sys2Proof.Machine

/-!
PROOFS. Fault events of the classes, and the repeated notice of a slow-down request (R263, R274, R450–R455).
-/

namespace Sys2Proof.Machine

theorem exec_faultEvent {e : FaultInput} {s : State} (hex : sourceExists e.source.toNat = true)
    (hg : namesGuest e.source.toNat = false) : exec (.faultEvent e) s =
      .next (wordError { e with forced := false } (sourceEvent { e with forced := false } s)) := by
  have h : ¬ (!sourceExists e.source.toNat || (namesGuest e.source.toNat && s.part.guest.isNone)) = true := by
    rw [hex, hg]
    simp
  exact if_neg h

/-- What a corrected word does beside its record reaches the counters alone. -/
theorem wordError_c_keeps {e : FaultInput} (h : e.cls = .c) {T : List Area} {s0 s : State}
    (hT : within [.counts] T = true) (hs : Keeps T s0 s) : Keeps T s0 (wordError e s) := by
  unfold wordError
  dsimp only
  split
  · exact hs
  · rw [h]
    dsimp only
    split
    · exact countCore_keeps _ _ _ _ hT hs
    · exact countCluster_keeps _ _ _ hT hs

theorem wordError_of_ne {e : FaultInput} (hc : e.cls ≠ .c) (hd : e.cls ≠ .d) (s : State) : wordError e s = s := by
  unfold wordError
  dsimp only
  split
  · rfl
  · split
    · next h => exact absurd h hc
    · next h => exact absurd h hd
    · rfl

theorem sourceEvent_c_keeps {e : FaultInput} (h : e.cls = .c) (s : State) :
    Keeps [.comp, .faults, .db, .ports, .cmds, .cairn, .out] s (sourceEvent e s) := by
  obtain ⟨r, u, hu, hev⟩ := sourceEvent_of_ne (by rw [h]; decide) s
  rw [hev]
  exact report_keepsMinor (e := { e with resumed := r }) (.inl h) rfl (hu.weaken rfl)

/-! ## Class X (R263) -/

theorem enterFaulted_faulted {s : State} (hd : s.dev.state ≠ .haltedThermal) (hc : s.cairn.state ≠ .taking) :
    (enterFaulted s).dev.state = .faulted := by
  unfold enterFaulted
  split
  · next h => exact h.resolve_right hd
  · exact setDev_state _ _

theorem cairnFire_disarmed {code : Nat} {detail : BitVec 32} {s : State} (h : s.cairn.state = .disarmed) :
    cairnFire code detail s = s := by
  unfold cairnFire
  split
  · rw [h]
  · rfl

theorem report_x {e : FaultInput} (he : e.cls = .x) {s : State} (hd : s.dev.state ≠ .haltedThermal)
    (hc : s.cairn.state = .disarmed) : (report e s).dev.state = .faulted := by
  have hnotice : ∀ i first u, (faultNotice e i first u).dev = u.dev ∧ (faultNotice e i first u).cairn = u.cairn :=
    fun i first u =>
      have hk := faultNotice_keeps e i first (T := [.db, .ports, .cmds, .out]) rfl (Keeps.refl u)
      ⟨hk.same .dev (by decide), hk.same .cairn (by decide)⟩
  have hboth : ∀ (p : Prop) [Decidable p] (i : Nat) (first : Bool),
      (if p then faultNotice e i first (collect e s) else collect e s).dev = s.dev ∧
        (if p then faultNotice e i first (collect e s) else collect e s).cairn = s.cairn := fun p _ i first => by
    split
    · exact hnotice i first (collect e s)
    · exact ⟨rfl, rfl⟩
  unfold report
  dsimp only
  rw [he]
  dsimp only
  have hfire : ∀ rep u, u.cairn = s.cairn → faultTriggers e rep u = u := fun rep u hu => by
    rw [faultTriggers, he]
    exact cairnFire_disarmed (by rw [hu]; exact hc)
  obtain ⟨hdev, hcairn⟩ := hboth (reports e s = true) (recordFor (groupKey e.source.toNat) s).1 s.faults.first.isNone
  rw [hfire _ _ hcairn]
  exact enterFaulted_faulted (by rw [hdev]; exact hd) (by rw [hcairn, hc]; decide)

/-! ## The notice of an event that opens a record (R455) -/

theorem reports_fresh {e : FaultInput} {s : State} (hrec : recordOf (groupKey e.source.toNat) s = none)
    (hfree : ∃ i, i < 255 ∧ recordAt i s = none) : reports e s = true := by
  obtain ⟨i, hi, hnone⟩ := hfree
  have hsome : (firstIdx (fun i => (recordAt i s).isNone) 255).isSome = true := by
    rw [firstIdx, List.find?_isSome]
    exact ⟨i, List.mem_range.mpr hi, by rw [hnone]; rfl⟩
  obtain ⟨j, hj⟩ := Option.isSome_iff_exists.mp hsome
  unfold reports recordFor
  rw [hrec, hj]
  rfl

theorem faultNotice_posted (e : FaultInput) (i : Nat) (first : Bool) {s : State} (hfw : fwRuns s = true)
    (hd : s.dev.state ≠ .faulted) : (faultNotice e i first s).db.hostStatus.getLsbD 25 = true ∧
      ∃ n, (faultNotice e i first s).cmds.held = s.cmds.held ++ [n] ∧ n.notice = true ∧ n.code = 3 := by
  have hring := ringBit_keeps 25 (T := [.db, .ports, .out]) rfl (Keeps.refl s)
  have hruns : (fwRuns s && s.dev.state != .faulted) = true := by simp [hfw, hd]
  unfold faultNotice
  dsimp only
  rw [if_pos hruns]
  refine ⟨ringBit_hostStatus_same 25 (by decide) s, _, congrArg (· ++ _) (congrArg Cmds.held (hring.same .cmds (by decide)) :),
    rfl, rfl⟩

theorem faultTriggers_keepsCairn (e : FaultInput) (rep : Bool) (s : State) : Keeps [.cairn] s (faultTriggers e rep s) :=
  faultTriggers_keeps e rep rfl (Keeps.refl s)

theorem report_c_noticed {e : FaultInput} (he : e.cls = .c) {s : State} (hrep : reports e s = true) (hfw : fwRuns s = true)
    (hd : s.dev.state ≠ .faulted) : (report e s).db.hostStatus.getLsbD 25 = true ∧
      ∃ n, (report e s).cmds.held = s.cmds.held ++ [n] ∧ n.notice = true ∧ n.code = 3 := by
  unfold report
  rw [he]
  dsimp only
  rw [hrep, if_pos rfl]
  have hkeeps := faultTriggers_keepsCairn e true (faultNotice e (recordFor (groupKey e.source.toNat) s).1
    s.faults.first.isNone (collect e s))
  rw [hkeeps.same .db (by decide), hkeeps.same .cmds (by decide)]
  exact faultNotice_posted e _ _ (s := collect e s) hfw hd

theorem recordOf_congr {s t : State} (h : t.faults = s.faults) (key : Nat) : recordOf key t = recordOf key s := by
  rw [recordOf, h, recordOf]

theorem recordAt_congr {s t : State} (h : t.faults = s.faults) (i : Nat) : recordAt i t = recordAt i s := by
  rw [recordAt, h, recordAt]

/-! ## The repeated notice (R274) -/

theorem exec_thermalNoticeRepeat {d : Domain} {s : State} (ho : (reqOf d s).opened = true) (ha : (reqOf d s).acked = false)
    (ht : (reqOf d s).noticeAt + 100000000 ≤ s.clock.now) :
    exec (.thermalNoticeRepeat d) s = .next (requestNotice d s) :=
  if_pos (by simp [ho, ha, ht])

theorem requestNotice_req (d : Domain) (s : State) :
    reqOf d (requestNotice d s) = { reqOf d s with noticeAt := s.clock.now } := by
  unfold requestNotice
  dsimp only
  have hkeeps := notice_keeps 1 (reqOf d s).id (BitVec.ofNat 64 ((reqOf d s).sensor + 65536 * signed 16 (reqOf d s).reading +
    2 ^ 32 * (reqOf d s).grace)) (T := [.db, .ports, .cmds, .out]) rfl (Keeps.refl s)
  rw [reqOf_setReq, reqOf_congr (hkeeps.same .therm (by decide)), hkeeps.same .clock (by decide)]

/-- Settles O30: an event is entered by its report, and what more it does goes by its class. -/
theorem faultEvents : Obligations.FaultEvents := by
  refine ⟨fun e s hex hg hc => ?_, fun e s hex hsrc hne hc => ?_, fun e s hex hg hc hd hcairn => ?_,
    fun e s hex hg hc hrec hfree hfw hd => ?_, fun d s ho ha ht => ?_⟩
  · have hword := wordError_c_keeps (e := { e with forced := false }) hc (T := [.counts]) rfl
      (Keeps.refl (sourceEvent { e with forced := false } s))
    obtain ⟨hfaulted, hfenced, -⟩ := faulted_sourceEvent (e := { e with forced := false }) (by rw [hc]; decide) s
    have hfaults := hword.same .faults (by decide)
    refine ⟨_, exec_faultEvent hex hg, ?_, (congrArg Faults.fenced hfaults :).trans hfenced, ?_⟩
    · rw [← hc]
      exact hfaulted.congr rfl hfaults
    · exact congrArg Dev.state ((hword.same .dev (by decide)).trans
        ((sourceEvent_c_keeps (e := { e with forced := false }) hc s).same .dev (by decide)))
  · have hguest : namesGuest e.source.toNat = false := by
      simp [namesGuest]
      omega
    obtain ⟨r, u, hu, hev⟩ := sourceEvent_reports { e with forced := false } s
    have hcore : coreOf e.source.toNat e.syndrome = 0 := by
      rw [coreOf, perCore, hsrc]
      rfl
    have hunit : ∀ core v, unitOut e.source.toNat core v = v := fun core v => by
      unfold unitOut
      rw [hsrc]
      exact if_neg (by omega)
    rw [hunit, ite_self] at hev
    have hfaulted := (faulted_report_source { e with forced := false, resumed := r } u).congr
      (faults_of_keepsComp hu).symm rfl
    have hfenced := fenced_report (e := { e with forced := false, resumed := r }) hc u
    refine ⟨_, exec_faultEvent hex hguest, ?_⟩
    rw [wordError_of_ne (by rw [hc]; decide) (by rw [hc]; decide), hev]
    refine ⟨?_, ?_⟩
    · rw [← hc]
      exact hfaulted
    · rw [← hcore]
      exact hfenced
  · obtain ⟨r, u, hu, hev⟩ := sourceEvent_of_ne (e := { e with forced := false }) (by rw [hc]; decide) s
    refine ⟨_, exec_faultEvent hex hg, ?_⟩
    rw [wordError_of_ne (by rw [hc]; decide) (by rw [hc]; decide), hev]
    refine ⟨report_x (e := { e with forced := false, resumed := r }) hc ?_ ?_, ?_⟩
    · rw [hu.same .dev (by decide)]
      exact hd
    · rw [hu.same .cairn (by decide)]
      exact hcairn
    · rw [← hc]
      exact (faulted_report_source { e with forced := false, resumed := r } u).congr (faults_of_keepsComp hu).symm rfl
  · obtain ⟨r, u, hu, hev⟩ := sourceEvent_of_ne (e := { e with forced := false }) (by rw [hc]; decide) s
    have hfaults := faults_of_keepsComp hu
    have hdev := hu.same .dev (by decide)
    have hboot := hu.same .boot (by decide)
    have hrep : reports { e with forced := false, resumed := r } u = true := reports_fresh
      ((recordOf_congr hfaults _).trans hrec) (hfree.imp fun i hi => ⟨hi.1, (recordAt_congr hfaults i).trans hi.2⟩)
    obtain ⟨hbit, n, hheld, hn⟩ := report_c_noticed (e := { e with forced := false, resumed := r }) hc hrep
      (by rw [fwRuns, hboot, hdev]; exact hfw) (by rw [hdev]; exact hd)
    have hword := wordError_c_keeps (e := { e with forced := false }) hc (T := [.counts]) rfl
      (Keeps.refl (sourceEvent { e with forced := false } s))
    refine ⟨_, exec_faultEvent hex hg, ?_⟩
    rw [hword.same .db (by decide), hword.same .cmds (by decide), hev]
    refine ⟨hbit, n, ?_, hn⟩
    rw [hheld, hu.same .cmds (by decide)]
    simp
  · refine ⟨_, exec_thermalNoticeRepeat ho ha ht, ?_⟩
    rw [requestNotice_req]
    exact ⟨rfl, rfl, ho⟩

end Sys2Proof.Machine

/-!
PROOFS. A Cairn take from its trigger to its release (R468–R473).
-/

namespace Sys2Proof.Machine

/-! ## Triggers -/

theorem cairnFire_armed {code : Nat} {detail : BitVec 32} {s : State} (hsel : cairnSelected code s = true)
    (h : s.cairn.state = .armed) : cairnFire code detail s = cairnStart code detail s := by
  unfold cairnFire
  rw [if_pos hsel, h]

theorem cairnFire_unselected {code : Nat} {detail : BitVec 32} {s : State} (hsel : cairnSelected code s = false) :
    cairnFire code detail s = s := if_neg (by rw [hsel]; decide)

theorem cairnFire_taken {code : Nat} {detail : BitVec 32} {s : State} (hsel : cairnSelected code s = true)
    (h : s.cairn.state = .taken) : cairnFire code detail s =
      { s with cairn := { s.cairn with missed := satInc 32 s.cairn.missed } } := by
  unfold cairnFire
  rw [if_pos hsel, h]

theorem cairnStart_onlyChanges (code : Nat) (detail : BitVec 32) (s : State) :
    OnlyChanges [.cairn] s (cairnStart code detail s) := (cairnStart_keeps code detail rfl (Keeps.refl s)).frame

theorem exec_stallTimer {p : Nat} {s : State} (hp : clusterIdx p = true) (hsel : cairnSelected 6 s = true)
    (hwork : (clusterGet p s).q ≠ [] ∨ (clusterGet p s).set ≠ [])
    (hstill : (clusterGet p s).retiredAt + s.cairn.stallMs * 1000000 ≤ s.clock.now) :
    exec (.stallTimer p) s = .next (cairnFire 6 (BitVec.ofNat 32 p) s) := by
  refine if_pos ?_
  rw [hp, hsel, decide_eq_true hstill, Bool.true_and, Bool.true_and, Bool.and_true, Bool.or_eq_true]
  exact hwork.imp bne_iff_ne.mpr bne_iff_ne.mpr

/-! ## The release -/

theorem Completed.of_prefix {op : BitVec 16} {d : Descriptor} {st : Status} {s t u : State} (h : Completed op d st s t)
    (ht : t.cmds.held <+: u.cmds.held) : Completed op d st s u := by
  obtain ⟨e, he, hrest⟩ := h
  exact ⟨e, (ht.drop _).subset he, hrest⟩

theorem Completed.of_start {op : BitVec 16} {d : Descriptor} {st : Status} {s s' t : State} (h : Completed op d st s' t)
    (hs : s.cmds.held <+: s'.cmds.held) : Completed op d st s t := by
  obtain ⟨e, he, hrest⟩ := h
  exact ⟨e, List.drop_subset_drop_left t.cmds.held hs.length_le he, hrest⟩

/-- A list of commands that end one after the other: each has its completion. -/
theorem completed_foldl_finish {l : List Accepted} (r : Res) {s e : State} (he : s.cmds.held <+: e.cmds.held)
    {a : Accepted} (ha : a ∈ l) :
    Completed a.desc.opcode a.desc r.st s (l.foldl (fun t a => finish a r t) e) := by
  induction l generalizing e with
  | nil => cases ha
  | cons b l ih =>
    have hb : e.cmds.held <+: (finish b r e).cmds.held := (finish_grows b r (Grows.refl e)).held
    rw [List.foldl_cons]
    rcases List.mem_cons.mp ha with rfl | ha
    · refine ((completed_finish_command a r (s := e) rfl).of_start he).of_prefix ?_
      exact (Grows.foldl (Grows.refl _) fun t b ht => finish_grows b r ht).held
    · exact ih (he.trans hb) ha

/-- What a release leaves, before the commands that joined end. -/
def cairnReleased (s : State) : State :=
  let s1 := fillsResume (s.clock.now - s.cairn.tTrigger) (writeCairn s)
  { s1 with cairn := { s1.cairn with state := .taken, frozen := false, bytes := cairnBytes } }

theorem cairnReleased_keeps (s : State) : Keeps [.bytes, .free, .comp, .cairn] s (cairnReleased s) :=
  keeps_setCairn rfl (fillsResume_keeps _ rfl (writeCairn_keeps rfl (Keeps.refl s))) _

theorem cairnReleased_cairn (s : State) :
    (cairnReleased s).cairn = { s.cairn with state := .taken, frozen := false, bytes := cairnBytes } := by
  have h : (fillsResume (s.clock.now - s.cairn.tTrigger) (writeCairn s)).cairn = s.cairn :=
    (fillsResume_keeps _ (T := [.bytes, .free, .comp]) rfl (writeCairn_keeps rfl (Keeps.refl s))).same .cairn (by decide)
  exact congrArg (fun x : Cairn => { x with state := .taken, frozen := false, bytes := cairnBytes }) h

theorem exec_cairnRelease {s : State} (hs : s.cairn.state = .taking) (hf : s.cairn.tFrozen.isSome = true)
    (hquiet : FabricQuiet s) : exec .cairnRelease s = .next (afterTake (cairnReleased s)) := by
  have hq : FabricQuiet (cairnReleased s) := by
    have hk := cairnReleased_keeps s
    unfold FabricQuiet
    rw [hk.same .fab (by decide), hk.same .links (by decide)]
    exact hquiet
  have hexec : exec .cairnRelease s = .next (afterTake (fabricRetry (cairnReleased s))) := if_pos (by simp [hs, hf])
  rw [hexec, fabricRetry_quiet hq]

/-- The commands that joined a take end with it, after CAIRN_DONE. -/
theorem afterTake_eq {s : State} (h : s.cairn.xDue = false) : afterTake s =
    s.cairn.waiting.foldl (fun t a => finish a {} t)
      (let s1 := notice 8 (BitVec.ofNat 32 cairnBytes) (BitVec.ofNat 64 s.cairn.trigger) s
       { s1 with cairn := { s1.cairn with waiting := [] } }) :=
  if_neg (by rw [h]; decide)

theorem afterTake_done {s : State} (h : s.cairn.xDue = false) (hfw : fwRuns s = true) :
    (afterTake s).cairn = { s.cairn with waiting := [] } ∧
      Noticed 8 (BitVec.ofNat 32 cairnBytes) (BitVec.ofNat 64 s.cairn.trigger) s (afterTake s) ∧
      ∀ a ∈ s.cairn.waiting, Completed a.desc.opcode a.desc .ok s (afterTake s) := by
  have hnoticed := noticed_notice hfw 8 (BitVec.ofNat 32 cairnBytes) (BitVec.ofNat 64 s.cairn.trigger)
  have hnotice := notice_keeps 8 (BitVec.ofNat 32 cairnBytes) (BitVec.ofNat 64 s.cairn.trigger)
    (T := [.db, .ports, .cmds, .out]) rfl (Keeps.refl s)
  have hgrows := notice_grows 8 (BitVec.ofNat 32 cairnBytes) (BitVec.ofNat 64 s.cairn.trigger) (Grows.refl s)
  rw [afterTake_eq h]
  dsimp only
  generalize notice 8 (BitVec.ofNat 32 cairnBytes) (BitVec.ofNat 64 s.cairn.trigger) s = n at hnoticed hnotice hgrows ⊢
  have hcairn := hnotice.same .cairn (by decide)
  refine ⟨?_, hnoticed.mono List.prefix_rfl ?_, fun a ha =>
    completed_foldl_finish (e := { n with cairn := { n.cairn with waiting := [] } }) {} hgrows.held ha⟩
  · refine List.foldlRecOn (motive := fun t : State => t.cairn = { s.cairn with waiting := [] }) _ _ ?_
      fun t ht a _ => (cairn_finish a {} t).trans ht
    exact congrArg (fun x : Cairn => { x with waiting := [] }) hcairn
  · exact (Grows.foldl (Grows.refl { n with cairn := { n.cairn with waiting := [] } })
      fun t b ht => finish_grows b {} ht).held

/-- Settles O31: the controller's state decides what a trigger does; a hold over gives T_FROZEN, and a release the snapshot. -/
theorem cairnTakes : Obligations.CairnTakes := by
  refine ⟨fun code detail s hsel hs => ?_, fun code detail s h => ?_, fun code detail s hsel hs => ?_,
    fun p s hp hsel hs hwork hstill => ?_, fun s hs hf hcheck => ?_, fun s hs hf hx hfw hquiet => ?_⟩
  · refine ⟨_, congrArg Host.Outcome.next (cairnFire_armed hsel hs), rfl, rfl, rfl, rfl, rfl, rfl,
      cairnStart_onlyChanges code detail s⟩
  · refine congrArg Host.Outcome.next ?_
    rcases h with h | h
    · exact cairnFire_unselected h
    · exact cairnFire_disarmed h
  · exact ⟨_, congrArg Host.Outcome.next (cairnFire_taken hsel hs), rfl, (keeps_setCairn rfl (Keeps.refl s) _).frame⟩
  · have hsel' : cairnSelected 6 s = true := by
      rw [cairnSelected, hsel]
      rfl
    refine ⟨_, exec_stallTimer hp hsel' hwork hstill, ?_⟩
    rw [cairnFire_armed hsel' hs]
    exact ⟨rfl, rfl, rfl, cairnStart_onlyChanges 6 _ s⟩
  · have hexec : exec .cairnHoldComplete s =
        .next { s with cairn := { s.cairn with tFrozen := some s.clock.now, waits := latchWaits s } } :=
      if_pos (by simp [hs, hf, hcheck])
    exact ⟨_, hexec, rfl, hs, (keeps_setCairn rfl (Keeps.refl s) _).frame⟩
  · have hk := cairnReleased_keeps s
    have hcairn := cairnReleased_cairn s
    have hdue : (cairnReleased s).cairn.xDue = false := (congrArg Cairn.xDue hcairn :).trans hx
    have hruns : fwRuns (cairnReleased s) = true := by
      rw [fwRuns, hk.same .boot (by decide), hk.same .dev (by decide)]
      exact hfw
    have hheld : (cairnReleased s).cmds = s.cmds := hk.same .cmds (by decide)
    have hwaiting : (cairnReleased s).cairn.waiting = s.cairn.waiting := (congrArg Cairn.waiting hcairn :)
    have htrigger : (cairnReleased s).cairn.trigger = s.cairn.trigger := (congrArg Cairn.trigger hcairn :)
    obtain ⟨hafter, hnoticed, hdone⟩ := afterTake_done hdue hruns
    rw [htrigger] at hnoticed
    rw [hwaiting] at hdone
    refine ⟨_, exec_cairnRelease hs hf hquiet, ?_⟩
    rw [hafter, hcairn]
    exact ⟨rfl, rfl, rfl, rfl, hnoticed.mono (by rw [hheld]) List.prefix_rfl,
      fun a ha => (hdone a ha).of_start (by rw [hheld])⟩

end Sys2Proof.Machine

/-!
PROOFS. Clusters and cores: what is read after a write, and the rows of work items and engine operations (R29, R64–R71,
R99).
-/

namespace Sys2Proof.Machine

/-! ## Reads after writes -/

@[simp] theorem clusterGet_clusterSet_self (p : Nat) (x : ClusterSt) (s : State) : clusterGet p (clusterSet p x s) = x := by
  simp [clusterGet, clusterSet]

theorem clusterGet_clusterSet_ne {p q : Nat} (h : q ≠ p) (x : ClusterSt) (s : State) :
    clusterGet q (clusterSet p x s) = clusterGet q s := tget_tset_ne _ _ _ _ _ h

theorem clusterGet_congr {s t : State} (h : t.comp = s.comp) (p : Nat) : clusterGet p t = clusterGet p s := by
  rw [clusterGet, h, clusterGet]

@[simp] theorem coreGet_coreSet_self (p c : Nat) (x : CoreSt) (s : State) : coreGet p c (coreSet p c x s) = x := by
  simp [coreGet, coreSet]

theorem coreGet_congr {s t : State} (h : t.comp.cores = s.comp.cores) (p c : Nat) : coreGet p c t = coreGet p c s := by
  rw [coreGet, h, coreGet]

theorem engGet_congr {s t : State} (h : t.comp.cores = s.comp.cores) (p c : Nat) (e : Engine) :
    engGet p c e t = engGet p c e s := by
  rw [engGet, coreGet_congr h, engGet]

theorem eng_setEng_self (x : CoreSt) (e : Engine) (y : EngineSt) : (x.setEng e y).eng e = y := by
  cases e <;> rfl

@[simp] theorem engGet_engSet_self (p c : Nat) (e : Engine) (y : EngineSt) (s : State) :
    engGet p c e (engSet p c e y s) = y := by
  rw [engGet, engSet, coreGet_coreSet_self, eng_setEng_self]

theorem clusterGet_engSet (p c q : Nat) (e : Engine) (y : EngineSt) (s : State) :
    clusterGet q (engSet p c e y s) = clusterGet q s := rfl

theorem cores_clusterSet (p : Nat) (x : ClusterSt) (s : State) : (clusterSet p x s).comp.cores = s.comp.cores := rfl

theorem cores_modItem (p : Nat) (seq : BitVec 32) (f : WorkSt → WorkSt) (s : State) :
    (modItem p seq f s).comp.cores = s.comp.cores := rfl

theorem comp_of_keeps {T : List Area} {s t : State} (hk : Keeps T s t) (hT : Area.comp ∉ T) : t.comp = s.comp :=
  hk.same .comp hT

theorem countCluster_comp (p i n : Nat) (s : State) : (countCluster p i n s).comp = s.comp :=
  comp_of_keeps (countCluster_keeps p i n (T := [.counts]) rfl (Keeps.refl s)) (by decide)

theorem countCore_comp (p c i n : Nat) (s : State) : (countCore p c i n s).comp = s.comp :=
  comp_of_keeps (countCore_keeps p c i n (T := [.counts]) rfl (Keeps.refl s)) (by decide)

theorem slotSet_comp (i : Nat) (g : Graph) (s : State) : (slotSet i g s).comp = s.comp := rfl

theorem clusterSet_onlyChanges {p : Nat} {x : ClusterSt} {s : State} : OnlyChanges [.comp] s (clusterSet p x s) :=
  (clusterSet_keeps p x rfl (Keeps.refl s)).frame

/-! ## Work items (R29, R64, R66, R69) -/

/-- The entry that a placement adds to a cluster's queue. -/
def placedItem (g : Graph) (p : Nat) (w : WorkItem) (s : State) : WorkSt :=
  ⟨(clusterGet p s).qc.pSent, sealItem g w, 0, false, false, 0, false, 0, []⟩

theorem exec_workItemPlace {x : Nat} {w : WorkItem} {s : State} (h : mayPlace x w s = true) : ∃ i g g',
    exec (.workItemPlace x w) s = .next (slotSet i g' (clusterSet (physOf x s)
      { clusterGet (physOf x s) s with
        q := (clusterGet (physOf x s) s).q ++ [placedItem g (physOf x s) w s], qc := (clusterGet (physOf x s) s).qc.send } s)) := by
  have hg : ∃ y, graphAt w.graph s = some y := by
    cases hgraph : graphAt w.graph s with
    | some y => exact ⟨y, rfl⟩
    | none =>
      simp only [mayPlace, hgraph, Bool.and_false] at h
      exact absurd h (by decide)
  obtain ⟨⟨i, g⟩, hg⟩ := hg
  refine ⟨i, g, ?_⟩
  change ∃ g', execWorkItemPlace x w s = _
  unfold execWorkItemPlace
  rw [h, if_neg (by decide), hg]
  exact ⟨_, rfl⟩

theorem exec_workItemTake {p : Nat} {w : WorkSt} {rest : List WorkSt} {s : State} (hlive : clusterLive p s = true)
    (hq : (clusterGet p s).q = w :: rest) (hheld : graphHeld w.item.graph s = false) :
    exec (.workItemTake p) s = .next (clusterSet p { clusterGet p s with
      q := rest, set := (clusterGet p s).set ++ [w], qc := (clusterGet p s).qc.grant 1 } s) := by
  change execWorkItemTake p s = _
  unfold execWorkItemTake
  dsimp only
  rw [hlive, if_neg (by decide), hq]
  dsimp only
  rw [hheld, if_neg (by decide)]

/-- A work item of an operator that neither sends nor reduces sends nothing when it completes. -/
theorem sendOut_quiet {w : WorkItem} {s : State} (h : ∀ y o, graphAt w.graph s = some y →
    y.2.b.operators[w.opIndex.toNat]? = some o → o.opcode ≠ 0x65) : sendOut w s = s := by
  unfold sendOut
  split
  · next g hg =>
    split
    · next o hx ho => exact if_pos (by simpa using h _ o hg ho)
    · rfl
  · rfl

theorem collOut_quiet {p : Nat} {w : WorkItem} {seq : BitVec 32} {s : State} (h : ∀ y o, graphAt w.graph s = some y →
    y.2.b.operators[w.opIndex.toNat]? = some o → o.opcode ≠ 0x60 ∧ o.opcode ≠ 0x62) : collOut p w seq s = s := by
  unfold collOut
  split
  · next i g hg =>
    split
    · next o hx ho => exact if_pos (by simp [h _ o hg ho])
    · rfl
  · rfl

theorem graphAt_congr {s t : State} (h : t.graphs = s.graphs) (x : BitVec 32) : graphAt x t = graphAt x s := by
  rw [graphAt, slotGet_congr h, graphAt]

/-- The completion of a work item: it leaves its set, and its record goes to its flank's queue. -/
def itemDone (p : Nat) (seq : BitVec 32) (w : WorkSt) (s : State) : State :=
  countCluster p 0 1 (postDone ⟨p, seq, w.item.graph, w.item.opIndex, w.item.tag, w.poisoned, w.warn⟩
    (clusterSet p { clusterGet p s with
      set := (clusterGet p s).set.filter fun y => y.seq != seq, idleAt := s.clock.now } s))

theorem itemDone_keeps (p : Nat) (seq : BitVec 32) (w : WorkSt) (s : State) :
    Keeps [.comp, .counts] s (itemDone p seq w s) :=
  countCluster_keeps _ _ _ rfl (postDone_keeps _ rfl (clusterSet_keeps _ _ rfl (Keeps.refl s)))

theorem exec_workItemComplete {p : Nat} {seq : BitVec 32} {w : WorkSt} {s : State} (hitem : itemOf p seq s = some w)
    (hissued : w.issued = true) (hpending : w.pending = 0) (howed : w.owed = 0) (hfall : w.fall = [])
    (hidx : clusterIdx p = true) (hout : clusterOut p s = false) (hfrozen : s.cairn.frozen = false)
    (hsome : (doneCtr (flankOf p) s).avail ≠ 0) (hroom : (doneCtr (flankOf p) s).avail ≤ 4096) :
    exec (.workItemComplete p seq) s = .next (collOut p w.item seq (sendOut w.item (itemDone p seq w s))) := by
  change execWorkItemComplete p seq s = _
  unfold execWorkItemComplete
  rw [hitem]
  dsimp only
  rw [hissued, hpending, howed, hfall, hidx, hout, hfrozen, if_neg]
  · rfl
  · simp only [Bool.not_true, Bool.false_or, bne_self_eq_false, Bool.or_false, Bool.or_eq_true, decide_eq_true_eq, not_or]
    exact ⟨hsome, by omega⟩

/-- Settles O32: a placement, a taking and a completion each move one entry and one credit. -/
theorem workItemsMoveAgainstCredits : Obligations.WorkItemsMoveAgainstCredits := by
  refine ⟨fun x w s h => ?_, fun x w s h => ?_, fun p w rest s hlive hq hheld => ?_,
    fun p seq w s hitem hissued hpending howed hfall hidx hp hout hfrozen hsome hroom hop => ?_⟩
  · obtain ⟨i, g, g', hexec⟩ := exec_workItemPlace h
    refine ⟨_, placedItem g (physOf x s) w s, hexec, ?_⟩
    rw [clusterGet_congr (slotSet_comp _ _ _), clusterGet_clusterSet_self]
    exact ⟨rfl, rfl, rfl, rfl, (slotSet_keeps _ _ rfl (clusterSet_keeps _ _ rfl (Keeps.refl s))).frame⟩
  · refine if_pos ?_
    rw [Bool.not_eq_true', Bool.eq_false_iff]
    intro hmay
    simp only [mayPlace, Bool.and_eq_true, decide_eq_true_eq] at hmay
    omega
  · refine ⟨_, exec_workItemTake hlive hq hheld, ?_⟩
    rw [clusterGet_clusterSet_self]
    exact ⟨rfl, rfl, rfl, clusterSet_onlyChanges⟩
  · have hflank : flankOf p = .north := if_pos hp
    have hkeeps := itemDone_keeps p seq w s
    have hgraphs : ∀ y, graphAt w.item.graph (itemDone p seq w s) = some y → graphAt w.item.graph s = some y :=
      fun y hy => by rwa [graphAt_congr (hkeeps.same .graphs (by decide))] at hy
    have hexec := exec_workItemComplete hitem hissued hpending howed hfall hidx hout hfrozen
      (by rw [hflank]; exact hsome) (by rw [hflank]; exact hroom)
    rw [sendOut_quiet fun y o hy ho => (hop y o (hgraphs y hy) ho).2.2,
      collOut_quiet fun y o hy ho => ⟨(hop y o (hgraphs y hy) ho).1, (hop y o (hgraphs y hy) ho).2.1⟩] at hexec
    refine ⟨_, hexec, ?_⟩
    have hcomp : (itemDone p seq w s).comp = (postDone ⟨p, seq, w.item.graph, w.item.opIndex, w.item.tag, w.poisoned, w.warn⟩
        (clusterSet p { clusterGet p s with
          set := (clusterGet p s).set.filter fun y => y.seq != seq, idleAt := s.clock.now } s)).comp :=
      countCluster_comp _ _ _ _
    rw [hcomp, postDone, hflank]
    exact ⟨rfl, rfl, rfl, hkeeps.frame⟩

end Sys2Proof.Machine

/-!
PROOFS. Engine operations: issue, start and retirement (R64, R70, R71, R79).
-/

namespace Sys2Proof.Machine

/-! ## Issue -/

/-- The state after an operation was put in an engine queue, before it is counted. -/
def issuedTo (p c : Nat) (e : Engine) (op : EngOp) (s : State) : State :=
  let s1 := engSet p c e { engGet p c e s with
    q := (engGet p c e s).q ++ [op], ctr := (engGet p c e s).ctr.send, throttled := false } s
  modItem p op.wi (issued op (isSend op s)) s1

theorem issueTo_credit {p c : Nat} {e : Engine} {op : EngOp} {s : State} (hsome : (engGet p c e s).ctr.avail ≠ 0)
    (hroom : (engGet p c e s).ctr.avail ≤ 32) : issueTo p c e op s = countCluster p 1 1 (issuedTo p c e op s) :=
  if_neg (by simp only [Bool.or_eq_true, decide_eq_true_eq, not_or]; omega)

theorem issueTo_stalls {p c : Nat} {e : Engine} {op : EngOp} {s : State} (hnone : (engGet p c e s).ctr.avail = 0) :
    issueTo p c e op s = countCluster p 2 1 s :=
  if_pos (by simp [hnone])

theorem engGet_issuedTo (p c : Nat) (e : Engine) (op : EngOp) (s : State) : engGet p c e (issuedTo p c e op s) =
    { engGet p c e s with q := (engGet p c e s).q ++ [op], ctr := (engGet p c e s).ctr.send, throttled := false } := by
  unfold issuedTo
  dsimp only
  rw [engGet_congr (cores_modItem _ _ _ _), engGet_engSet_self]

theorem issuedTo_keeps (p c : Nat) (e : Engine) (op : EngOp) (s : State) : Keeps [.comp] s (issuedTo p c e op s) :=
  modItem_keeps _ _ _ rfl (engSet_keeps _ _ _ _ rfl (Keeps.refl s))

theorem engGet_counted {p c q i n : Nat} {e : Engine} {s : State} : engGet p c e (countCluster q i n s) = engGet p c e s :=
  engGet_congr (congrArg Compute.cores (countCluster_comp q i n s) :) p c e

theorem exec_issue_m {p c : Nat} {op : EngOp} {s : State} (h : mayIssue p c .m op s = true) :
    exec (.engineOpIssue p c .m op) s = .next (issueTo p c .m op s) := by
  change execEngineOpIssue p c .m op s = _
  unfold execEngineOpIssue
  rw [h, if_neg (by decide)]

theorem exec_issue_p_other {p c k : Nat} {op : EngOp} {s : State} (h : mayIssue p c .p op s = true)
    (hserves : bankServes p c s = false) (hk : otherBank p c op.wi s = some k) :
    exec (.engineOpIssue p c .p op) s = .next (countCluster p 11 1 (issueTo p k .p op s)) := by
  change execEngineOpIssue p c .p op s = _
  unfold execEngineOpIssue
  rw [h, if_neg (by decide)]
  dsimp only
  rw [hserves, if_neg (by decide), hk]

/-! ## Start of a T_STORE -/

theorem forcedOut_comp (p c : Nat) (b : OpBody) (e : Eff) : (forcedOut p c b e).s.comp = e.s.comp :=
  comp_of_keeps (forcedOut_keeps p c b (T := [.faults, .bytes]) rfl (Keeps.refl e.s)) (by decide)

/-- The state in which a T, V or M engine has its head in progress. -/
def headBegun (p c : Nat) (e : Engine) (s : State) : State :=
  engSet p c e { engGet p c e s with run := some (running s), waited := false } s

/-- A head whose wait is met starts, and its effect is noted with it. -/
theorem startHead_eq {p c : Nat} {e : Engine} {op : EngOp} {rest : List EngOp} {found : List (Nat × BadSymbols)} {s : State}
    (hq : (engGet p c e s).q = op :: rest) (hidle : (engGet p c e s).run = none) (hheld : opHeld p op s = false)
    (hwait : waitMet p c op.wait s = true) : startHead p c e found s =
      (let eff := forcedOut p c op.body (opEffect p c op.body found (headBegun p c e s))
       let y := engGet p c e eff.s
       engSet p c e { y with run := y.run.map fun r =>
         { r with poisonIn := r.poisonIn || eff.inBad, poisonOut := r.poisonOut || eff.outBad,
                  warn := r.warn ||| eff.warn } } eff.s) := by
  unfold startHead
  dsimp only
  split
  · next op' rest' hq' hidle' =>
    obtain ⟨rfl, rfl⟩ := List.cons.inj (hq'.symm.trans hq)
    rw [hheld, if_neg (by decide), hwait, if_neg (by decide)]
    rfl
  · next h => exact absurd hidle (h op rest hq)

/-- The head of a T queue that stores a tile is in progress once it starts. -/
theorem startHead_tStore {p c tile dst : Nat} {op : EngOp} {rest : List EngOp} {found : List (Nat × BadSymbols)} {s : State}
    (hq : (engGet p c .t s).q = op :: rest) (hidle : (engGet p c .t s).run = none) (hbody : op.body = .tStore tile dst)
    (hheld : opHeld p op s = false) (hwait : waitMet p c op.wait s = true) :
    (engGet p c .t (startHead p c .t found s)).run.isSome = true ∧ (engGet p c .t (startHead p c .t found s)).q = op :: rest := by
  rw [startHead_eq hq hidle hheld hwait]
  dsimp only
  rw [engGet_engSet_self]
  have heff : (forcedOut p c op.body (opEffect p c op.body found (headBegun p c .t s))).s.comp = (headBegun p c .t s).comp := by
    rw [forcedOut_comp, hbody]
    exact comp_of_keeps (tStore_keeps p c tile dst (T := [.bytes]) rfl (Keeps.refl _)) (by decide)
  have hy := engGet_congr (congrArg Compute.cores heff :) p c .t
  rw [headBegun, engGet_engSet_self] at hy
  rw [headBegun, hy]
  exact ⟨rfl, hq⟩

/-! ## Retirement -/

theorem gateCluster_spec (p : Nat) (s : State) : (gateCluster p s).comp.cores = s.comp.cores ∧
    (clusterGet p (gateCluster p s)).retiredAt = (clusterGet p s).retiredAt := by
  have hcomp : (gateCluster p s).comp = (clusterSet p { clusterGet p s with gated := true, idleAt := s.clock.now } s).comp := by
    unfold gateCluster
    exact comp_of_keeps (T := [.counts]) (Keeps.foldl (Keeps.refl _) fun t c ht => countCore_keeps _ _ _ _ rfl ht) (by decide)
  exact ⟨(congrArg Compute.cores hcomp :).trans (cores_clusterSet _ _ _), by rw [clusterGet_congr hcomp, clusterGet_clusterSet_self]⟩

theorem stopGate_spec (p : Nat) (s : State) : (stopGate p s).comp.cores = s.comp.cores ∧
    (clusterGet p (stopGate p s)).retiredAt = (clusterGet p s).retiredAt := by
  unfold stopGate
  split
  · exact gateCluster_spec p s
  · exact ⟨rfl, rfl⟩

theorem countRetired_comp (p c : Nat) (e : Engine) (op : EngOp) (s : State) : (countRetired p c e op s).comp = s.comp :=
  comp_of_keeps (countRetired_keeps p c e op (T := [.counts]) rfl (Keeps.refl s)) (by decide)

/-- An operation without a signal retires within its cluster, and dates its last retirement. -/
theorem retire_spec (p c : Nat) (e : Engine) {op : EngOp} (hsignal : op.signal = .none) (r : Running) (s : State) :
    (retire p c e op r s).comp.cores = s.comp.cores ∧ (clusterGet p (retire p c e op r s)).retiredAt = s.clock.now ∧
      Keeps [.comp, .counts] s (retire p c e op r s) := by
  have hcounted : (if r.poisonIn then countCluster p 13 1 (countRetired p c e op s) else countRetired p c e op s).comp = s.comp := by
    split
    · rw [countCluster_comp, countRetired_comp]
    · rw [countRetired_comp]
  have hkeeps : Keeps [.comp, .counts] s
      (if r.poisonIn then countCluster p 13 1 (countRetired p c e op s) else countRetired p c e op s) := by
    have hretired := countRetired_keeps p c e op (T := [.comp, .counts]) rfl (Keeps.refl s)
    split
    · exact countCluster_keeps _ _ _ rfl hretired
    · exact hretired
  unfold retire
  rw [hsignal]
  dsimp only [signal]
  generalize (if r.poisonIn then countCluster p 13 1 (countRetired p c e op s) else countRetired p c e op s) = u at hcounted hkeeps ⊢
  refine ⟨(stopGate_spec _ _).1.trans (congrArg Compute.cores hcounted :), (stopGate_spec _ _).2.trans ?_,
    stopGate_keeps _ rfl (clusterSet_keeps _ _ rfl (modItem_keeps _ _ _ rfl hkeeps))⟩
  rw [clusterGet_clusterSet_self]

theorem exec_retire {p c : Nat} {e : Engine} {s : State} (hidx : clusterIdx p = true) (hc : c < 16)
    (hout : clusterOut p s = false) (hfrozen : s.cairn.frozen = false) (he : e ≠ .p) :
    exec (.engineOpRetire p c e) s = .next (retireHead p c e s) := by
  change execEngineOpRetire p c e s = _
  unfold execEngineOpRetire
  rw [hidx, hout, hfrozen, if_neg (by simp; omega), if_neg he]

theorem retireHead_done {p c : Nat} {e : Engine} {op : EngOp} {rest : List EngOp} {r : Running} {s : State}
    (hq : (engGet p c e s).q = op :: rest) (hrun : (engGet p c e s).run = some r) (hreq : r.requests = [])
    (hsignal : op.signal = .none) : retireHead p c e s = retire p c e op r (engSet p c e
      { engGet p c e s with q := rest, run := none, ctr := (engGet p c e s).ctr.grant 1 } s) := by
  unfold retireHead
  dsimp only
  rw [hq, hrun]
  dsimp only
  rw [hreq, if_neg (by decide), hsignal, show signalReady .none s = true from rfl, if_neg (by decide)]

/-- Settles O33: each row moves one operation along its queue, and the credit with it. -/
theorem engineOperations : Obligations.EngineOperations := by
  refine ⟨fun p c op s h hsome hroom => ?_, fun p c op s h hnone => ?_, fun p c k op s h hserves hk hsome hroom => ?_,
    fun p c tile dst op rest found s hmay hq hidle hbody hheld hwait => ?_,
    fun p c e op rest r s hidx hc hout hfrozen he hq hrun hreq hsignal _ => ?_,
    fun p c e op rest r s he hq hrun hreq => ?_⟩
  · have hexec := exec_issue_m h
    rw [issueTo_credit hsome hroom] at hexec
    refine ⟨_, hexec, ?_⟩
    rw [engGet_counted, engGet_issuedTo]
    exact ⟨rfl, rfl, (countCluster_keeps _ _ _ rfl ((issuedTo_keeps p c .m op s).weaken rfl)).frame⟩
  · rw [exec_issue_m h, issueTo_stalls hnone]
  · have hexec := exec_issue_p_other h hserves hk
    rw [issueTo_credit hsome hroom] at hexec
    refine ⟨_, hexec, ?_⟩
    rw [engGet_counted, engGet_counted, engGet_issuedTo]
  · have hexec : exec (.engineOpStart p c ⟨.t, found⟩) s = .next (startHead p c .t found s) := by
      change execEngineOpStart p c ⟨.t, found⟩ s = _
      unfold execEngineOpStart
      rw [hmay, if_neg (by decide), if_neg (show ¬ Engine.t = Engine.p by decide)]
    exact ⟨_, hexec, startHead_tStore hq hidle hbody hheld hwait⟩
  · have hexec := exec_retire hidx hc hout hfrozen he
    rw [retireHead_done hq hrun hreq hsignal] at hexec
    obtain ⟨hcores, hat, hkeeps⟩ := retire_spec p c e hsignal r (engSet p c e
      { engGet p c e s with q := rest, run := none, ctr := (engGet p c e s).ctr.grant 1 } s)
    exact ⟨_, hexec, hcores, hat, ((engSet_keeps p c e _ (T := [.comp, .counts]) rfl (Keeps.refl s)).trans hkeeps).frame⟩
  · have hstays : retireHead p c e s = s := by
      unfold retireHead
      dsimp only
      rw [hq, hrun]
      exact if_pos (by simpa using hreq)
    change execEngineOpRetire p c e s = _
    unfold execEngineOpRetire
    rw [if_neg he, hstays, ite_self]

end Sys2Proof.Machine

/-!
PROOFS. Clusters: remote increments, credit updates, power gating, and failed cores and clusters (R64–R66, R74, R77, R80).
-/

namespace Sys2Proof.Machine

theorem toNat_lt_of_clusterIdx {p : Nat} (h : clusterIdx p = true) : p < 660 := by
  simpa [clusterIdx] using h

/-! ## Events of clusters and cores -/

theorem reportFrom_eq (p : Nat) (e : FaultInput) (s : State) : ∃ r u, Keeps [.comp] s u ∧
    reportFrom p e s = report { e with resumed := r } u :=
  ⟨_, _, takeResumed_keeps p rfl (Keeps.refl s), rfl⟩

theorem reportFrom_fences {e : FaultInput} (h : e.cls = .u) (p : Nat) (s : State) :
    Fenced e.source.toNat (coreOf e.source.toNat e.syndrome) (reportFrom p e s) ∧
      (reportFrom p e s).faults.entered = s.faults.entered + 1 := by
  obtain ⟨r, u, hu, hreport⟩ := reportFrom_eq p e s
  rw [hreport]
  exact ⟨fenced_report (e := { e with resumed := r }) h u, (report_entered _ u).trans
    (congrArg (fun f : Faults => f.entered + 1) (faults_of_keepsComp hu))⟩

theorem coreOf_cluster {p : Nat} (hp : p < 660) (syn : BitVec 64) : coreOf (0x2000 + p) syn = 0 := by
  have hcore : perCore (0x2000 + p) = false := by
    simp only [perCore, Bool.or_eq_false_iff, decide_eq_false_iff_not]
    omega
  rw [coreOf, hcore]
  rfl

theorem coreOf_core {p c : Nat} (hp : p < 660) (hc : c < 16) : coreOf (0x1000 + p) (BitVec.ofNat 64 c) = c := by
  have hcore : perCore (0x1000 + p) = true := by
    simp only [perCore, Bool.or_eq_true, decide_eq_true_eq]
    omega
  rw [coreOf, hcore, if_pos rfl, BitVec.toNat_ofNat]
  omega

theorem sparesGone_discardCores (p : Nat) (l : List Nat) (s : State) :
    (l.foldl (fun t c => coreSet p c (discardCore (coreGet p c t)) t) s).comp.sparesGone = s.comp.sparesGone :=
  List.foldlRecOn (motive := fun t : State => t.comp.sparesGone = s.comp.sparesGone) l _ rfl fun _ ht _ _ => ht

/-- What a fenced cluster means for the exposed id it served. -/
def unbindOf (p : Nat) (s u : State) : State := match exposedOf p s with
  | none => u
  | some e =>
    mapRunning (fun g x => failPart g e (Status.unitFenced.code) x)
      { u with comp := { u.comp with unbound := setInsert e u.comp.unbound } }

theorem sparesGone_unbindOf (p : Nat) (s u : State) : (unbindOf p s u).comp.sparesGone = u.comp.sparesGone := by
  unfold unbindOf
  split
  · rfl
  · rfl

theorem dropCluster_eq (p : Nat) (s : State) : dropCluster p s = unbindOf p s
    ((List.range 16).foldl (fun t c => coreSet p c (discardCore (coreGet p c t)) t) (clusterSet p { clusterGet p s with
      q := [], qc := (clusterGet p s).qc.grant (clusterGet p s).q.length, set := [], rq := []
      rc := (clusterGet p s).rc.grant (clusterGet p s).rq.length } s)) := by
  unfold dropCluster unbindOf
  cases exposedOf p s <;> dsimp only

theorem sparesGone_dropCluster (p : Nat) (s : State) : (dropCluster p s).comp.sparesGone = s.comp.sparesGone := by
  rw [dropCluster_eq, sparesGone_unbindOf, sparesGone_discardCores]
  rfl

theorem fenceCluster_sparesGone (p : Nat) (s : State) : p ∈ (fenceCluster p s).comp.sparesGone := by
  unfold fenceCluster
  rw [comp_of_keeps (refreshDegraded_keeps (T := [.dev, .db, .ports, .cmds, .out]) rfl (Keeps.refl _)) (by decide),
    sparesGone_dropCluster]
  exact mem_setInsert.mpr (.inl rfl)

theorem faults_wakeCluster (p : Nat) (s : State) : (wakeCluster p s).faults = s.faults :=
  (wakeCluster_keeps p (T := [.comp, .counts]) rfl (Keeps.refl s)).same .faults (by decide)

/-- A cluster that fails is fenced, with its event, and is no spare any more. -/
theorem failClusterWith_fences {p : Nat} (hp : p < 660) (syn : Nat) {s : State} (hin : isFenced (0x2000 + p) 0 s = false) :
    Fenced (0x2000 + p) 0 (failClusterWith p syn s) ∧ s.faults.entered < (failClusterWith p syn s).faults.entered ∧
      p ∈ (failClusterWith p syn s).comp.sparesGone := by
  obtain ⟨hfenced, hentered⟩ := reportFrom_fences (e := evt (0x2000 + p) .u syn) rfl p (wakeCluster p s)
  rw [show (evt (0x2000 + p) .u syn).source.toNat = 0x2000 + p from toNat_ofNat_16 (by omega), coreOf_cluster hp] at hfenced
  rw [faults_wakeCluster] at hentered
  have hgrows := fenceCluster_grows p (Grows.refl (reportFrom p (evt (0x2000 + p) .u syn) (wakeCluster p s)))
  unfold failClusterWith
  rw [hin, if_neg (by decide)]
  exact ⟨hfenced.grows hgrows, by have := hgrows.entered; omega, fenceCluster_sparesGone p _⟩

/-! ## Power gating -/

theorem gateCluster_gates (p : Nat) (s : State) : (clusterGet p (gateCluster p s)).gated = true ∧
    (clusterGet p (gateCluster p s)).idleAt = s.clock.now := by
  have hcomp : (gateCluster p s).comp = (clusterSet p { clusterGet p s with gated := true, idleAt := s.clock.now } s).comp := by
    unfold gateCluster
    exact comp_of_keeps (T := [.counts]) (Keeps.foldl (Keeps.refl _) fun t c ht => countCore_keeps _ _ _ _ rfl ht) (by decide)
  rw [clusterGet_congr hcomp, clusterGet_clusterSet_self]
  exact ⟨rfl, rfl⟩

theorem wakeCluster_wakes {p : Nat} {s : State} (h : (clusterGet p s).gated = true) :
    (clusterGet p (wakeCluster p s)).gated = false ∧
      (clusterGet p (wakeCluster p s)).resumed = some (pauseUs (clusterGet p s).idleAt s.clock.now) := by
  have hcomp : (wakeCluster p s).comp = (clusterSet p { clusterGet p s with
      gated := false, resumed := some (pauseUs (clusterGet p s).idleAt s.clock.now), idleAt := s.clock.now } s).comp := by
    unfold wakeCluster
    dsimp only
    rw [if_pos h]
  rw [clusterGet_congr hcomp, clusterGet_clusterSet_self]
  exact ⟨rfl, rfl⟩

/-- Settles O35: each event of a cluster does its one thing, and a failure fences its unit. -/
theorem clusterEvents : Obligations.ClusterEvents := by
  refine ⟨fun p i rest s hidx hout hfrozen hq => ?_, fun p s hidx hfw hroom => ?_, fun p s hidx hfw hroom hin => ?_,
    fun p s hidx hout hgated hidle ht => ?_, fun p s hidx hout hgated hwant hstop hdev => ?_,
    fun p c s hidx hc hcore hin => ?_, fun p s hidx hin => ?_⟩
  · change execRemoteSyncIncrement p s = _
    unfold execRemoteSyncIncrement
    dsimp only
    rw [hq]
    dsimp only
    rw [hidx, hout, hfrozen, if_neg (by decide)]
  · change execCreditUpdate (.cluster p) s = _
    unfold execCreditUpdate
    dsimp only
    rw [hidx, hfw, if_neg (by decide), if_neg (by omega)]
  · have hexec : exec (.creditUpdate (.cluster p)) s = .next (creditFault p (.cluster p) (clusterGet p s).qc.update
        (clusterSet p { clusterGet p s with qc := (clusterGet p s).qc.update } s)) := by
      change execCreditUpdate (.cluster p) s = _
      unfold execCreditUpdate
      dsimp only
      rw [hidx, hfw, if_neg (by decide), if_pos hroom]
    obtain ⟨hfenced, hentered, -⟩ := failClusterWith_fences (toNat_lt_of_clusterIdx hidx)
      (Config.creditSyndrome (.cluster p) (clusterGet p s).qc.update.pGranted (clusterGet p s).qc.update.pSent).toNat
      (s := clusterSet p { clusterGet p (clusterSet p { clusterGet p s with qc := (clusterGet p s).qc.update } s) with
        creditFaults := (clusterGet p (clusterSet p { clusterGet p s with qc := (clusterGet p s).qc.update } s)).creditFaults ++
          [.cluster p] } (clusterSet p { clusterGet p s with qc := (clusterGet p s).qc.update } s)) hin
    exact ⟨_, hexec, hfenced, hentered⟩
  · have hexec : exec (.clusterPowerGate p) s = .next (gateCluster p s) := by
      change execClusterPowerGate p s = _
      unfold execClusterPowerGate
      dsimp only
      rw [hidx, hout, hgated, hidle, if_neg (by simp; omega)]
    obtain ⟨hg, hat⟩ := gateCluster_gates p s
    exact ⟨_, hexec, hg, hat, (gateCluster_keeps p rfl (Keeps.refl s)).frame⟩
  · have hexec : exec (.clusterWake p) s = .next (wakeCluster p s) :=
      if_pos (by simp [hidx, hout, hwant, hstop, hdev])
    obtain ⟨hg, hr⟩ := wakeCluster_wakes hgated
    exact ⟨_, hexec, hg, hr, (wakeCluster_keeps p rfl (Keeps.refl s)).frame⟩
  · have hp := toNat_lt_of_clusterIdx hidx
    have hexec : exec (.coreFailure p c) s =
        .next (fenceCore p c (reportFrom p (evt (0x1000 + p) .u c) (wakeCluster p s))) :=
      if_neg (by rw [hidx, hcore, hin, decide_eq_false (by omega)]; decide)
    obtain ⟨hfenced, -⟩ := reportFrom_fences (e := evt (0x1000 + p) .u c) rfl p (wakeCluster p s)
    rw [show (evt (0x1000 + p) .u c).source.toNat = 0x1000 + p from toNat_ofNat_16 (by omega),
      show (evt (0x1000 + p) .u c).syndrome = BitVec.ofNat 64 c from rfl, coreOf_core hp hc] at hfenced
    exact ⟨_, hexec, hfenced.grows (fenceCore_grows p c (Grows.refl _))⟩
  · have hexec : exec (.clusterFailure p) s = .next (failCluster p s) := if_pos hidx
    obtain ⟨hfenced, -, hgone⟩ := failClusterWith_fences (toNat_lt_of_clusterIdx hidx) (Config.free64 s.free).toNat
      (s := (useFree s).2) hin
    exact ⟨_, hexec, hfenced, hgone⟩

end Sys2Proof.Machine

/-!
PROOFS. Pitch checks of a P bank: a check that passes on a stopped flank also gates the cluster again (R107, R427).
-/

namespace Sys2Proof.Machine

/-! ## A cluster at STOP gates again after its check (R427) -/

theorem stopGate_gates {p : Nat} {s : State} (hstop : (flankPower (flankOf p) s).stopped = true) (hout : clusterOut p s = false)
    (hawake : (clusterGet p s).gated = false) (hidle : clusterBusy p s = false) : stopGate p s = gateCluster p s :=
  if_pos (by rw [hstop, hout, hawake, hidle]; rfl)

theorem execBankPitchCheckEnd_passes {p c : Nat} {r : BankCheck} {s : State} (hidx : clusterIdx p = true) (hc : c < 16)
    (hout : clusterOut p s = false) (hin : bankFenced p c s = false) (hst : (bankGet p c s).state = .check)
    (hbegan : (bankGet p c s).began + 25000 ≤ s.clock.now) (hrings : r.failedRings = []) (href : r.referenceOk = true) :
    exec (.bankPitchCheckEnd p c r) s = .next (checkPass p c s) := by
  change execBankPitchCheckEnd p c r s = _
  unfold execBankPitchCheckEnd
  dsimp only
  rw [hidx, hout, hin, decide_eq_false (by omega), if_neg (by decide), if_neg (by rw [hst]; decide),
    if_neg (by simp [hst]; omega), hrings, if_neg (by decide), if_pos href]

/-- The P bank of cluster 0 and core 0 ends its check while the north flank stands at STOP. -/
def stoppedInCheck : State :=
  { State.reset with
    clock := { State.reset.clock with now := 25000 }
    banks := { State.reset.banks with bank := [(0, { state := .check })] }
    therm := { State.reset.therm with north := { State.reset.therm.north with stopped := true } } }

/-- What a check without failing rings finds. -/
def cleanCheck : BankCheck := { failedRings := [], referenceOk := true, relockTimeout := false }

/-- The bank after its check, before the cluster gates. -/
def afterCheck : State :=
  bankSet 0 0 (walksOver 0 stoppedInCheck { bankGet 0 0 stoppedInCheck with
    checkedAt := 25000, checks := 1, urgent := false, relocked := false, trims := stoppedInCheck.free + 1 })
    { stoppedInCheck with free := stoppedInCheck.free + 1 }

theorem clusterBusy_afterCheck : clusterBusy 0 afterCheck = false := by decide

theorem checkPass_gates : checkPass 0 0 stoppedInCheck = gateCluster 0 afterCheck :=
  stopGate_gates (s := afterCheck) rfl rfl rfl clusterBusy_afterCheck

/-- Refutes O36: a check that passes on a flank at STOP gates the cluster again (R427), so that more changes than the banks
and the free values. -/
theorem not_bankService : ¬ Obligations.BankService := by
  rintro ⟨-, -, hpass, -⟩
  obtain ⟨t, b, hexec, -, -, -, -, -, -, honly⟩ := hpass 0 0 cleanCheck stoppedInCheck rfl (by decide) rfl rfl rfl
    (by decide) rfl rfl rfl
  rw [execBankPitchCheckEnd_passes rfl (by decide) rfl rfl rfl (by decide) rfl rfl, checkPass_gates] at hexec
  cases hexec
  have hcomp : (gateCluster 0 afterCheck).comp = stoppedInCheck.comp := honly .comp (by decide)
  have hgated := (gateCluster_gates 0 afterCheck).1
  rw [clusterGet_congr hcomp] at hgated
  exact absurd hgated (by decide)

end Sys2Proof.Machine

/-!
PROOFS. The wrong-lock walks of bank rings and of chiplet rings (R104, R109, R112, R113, R290, R291, R304, R305).
-/

namespace Sys2Proof.Machine

/-! ## Banks and channel sides: a read after a write -/

theorem coreKey_inj {p c q d : Nat} (hc : c < 16) (hd : d < 16) (h : coreKey p c = coreKey q d) : p = q ∧ c = d := by
  simp only [coreKey] at h
  omega

theorem bankGet_bankSet_self (p c : Nat) (b : Bank) (s : State) : bankGet p c (bankSet p c b s) = b := tget_tset_self _ _ _ _

theorem bankGet_bankSet_ne {p c q d : Nat} (h : coreKey q d ≠ coreKey p c) (b : Bank) (s : State) :
    bankGet q d (bankSet p c b s) = bankGet q d s := tget_tset_ne _ _ _ _ _ h

theorem chanSide_setChan_self (i : Nat) (c : Chan) (s : State) : chanSide i (setChan i c s) = c := tget_tset_self _ _ _ _

theorem chanSide_setChan_ne {i k : Nat} (h : k ≠ i) (c : Chan) (s : State) : chanSide k (setChan i c s) = chanSide k s :=
  tget_tset_ne _ _ _ _ _ h

theorem chanSide_congr {s t : State} (h : t.chans = s.chans) (i : Nat) : chanSide i t = chanSide i s := by
  rw [chanSide, h, chanSide]

theorem Fenced.congr {src core : Nat} {s t : State} (h : Fenced src core s) (ht : t.faults = s.faults) : Fenced src core t := by
  rw [Fenced, isFenced, ht]
  exact h

/-! ## A bank that fails (R109) -/

theorem coreOf_bank {p c : Nat} (hp : p < 660) (hc : c < 16) : coreOf (0x3000 + p) (BitVec.ofNat 64 c) = c := by
  have hcore : perCore (0x3000 + p) = true := by
    simp only [perCore, Bool.or_eq_true, decide_eq_true_eq]
    omega
  rw [coreOf, hcore, if_pos rfl, BitVec.toNat_ofNat]
  omega

theorem fenceBank_state (p c : Nat) (s : State) : (bankGet p c (fenceBank p c s)).state = .fenced := by
  unfold fenceBank
  dsimp only
  rw [bankGet_bankSet_self]

theorem failBank_fences {p c : Nat} (hp : p < 660) (hc : c < 16) {s : State} (hin : bankFenced p c s = false) :
    Fenced (0x3000 + p) c (failBank p c s) ∧ (bankGet p c (failBank p c s)).state = .fenced := by
  obtain ⟨hfenced, -⟩ := reportFrom_fences (e := evt (0x3000 + p) .u c) rfl p s
  rw [show (evt (0x3000 + p) .u c).source.toNat = 0x3000 + p from toNat_ofNat_16 (by omega),
    show (evt (0x3000 + p) .u c).syndrome = BitVec.ofNat 64 c from rfl, coreOf_bank hp hc] at hfenced
  have hfaults : (fenceBank p c (reportFrom p (evt (0x3000 + p) .u c) s)).faults
      = (reportFrom p (evt (0x3000 + p) .u c) s).faults :=
    (fenceBank_keeps p c (T := [.counts, .comp, .banks]) rfl (Keeps.refl _)).same .faults (by decide)
  rw [failBank, hin, if_neg (by decide)]
  exact ⟨hfenced.congr hfaults, fenceBank_state p c _⟩

/-! ## What ends a state of a walk (Tables 4-8, 11-5) -/

section
variable {rule : WalkRule} {now : Nat} {w : Walk} {ring band i j : Nat}

theorem walkEvent_over (f : Walk → Walk) (h : walkOver rule now w = true) :
    walkEvent rule now f w = { w with state := .failed } := if_pos h

theorem walkEvent_within (f : Walk → Walk) (h : walkOver rule now w = false) : walkEvent rule now f w = f w :=
  if_neg (by rw [h]; decide)

theorem state_of_walkOver (h : walkOver rule now w = true) : w.state ≠ .idle := fun hidle => by
  simp [walkOver, hidle] at h

theorem walkIdentify_found (h : w.state = .identify) : (walkIdentify rule ring band i j w).found = j ∧
    ((walkIdentify rule ring band i j w).state = .order ∨ (walkIdentify rule ring band i j w).state = .step ∨
      ((walkIdentify rule ring band i j w).state = .lockedOk ∧ j = i)) := by
  unfold walkIdentify
  rw [h, if_neg (by decide)]
  dsimp only
  split
  · exact ⟨rfl, .inl rfl⟩
  · split
    case isTrue hline => exact ⟨rfl, .inr (.inr ⟨rfl, hline⟩)⟩
    case isFalse => exact ⟨rfl, .inr (.inl rfl)⟩

/-- A heater that is moved stays in its range, or the walk fails. -/
theorem walkHeat_moves (w : Walk) (x : Int) (next : WalkState) : (walkHeat w x next).state = .failed ∨
    ((walkHeat w x next).state = next ∧ (walkHeat w x next).orders = w.orders ∧ (walkHeat w x next).steps = w.steps) := by
  unfold walkHeat
  split
  · exact .inl rfl
  · exact .inr ⟨rfl, rfl, rfl⟩

theorem walkOrder_moves (h : w.state = .order) : (walkOrder rule ring band i w).state = .failed ∨
    ((walkOrder rule ring band i w).state = .identify ∧ (walkOrder rule ring band i w).orders = w.orders + 1) := by
  unfold walkOrder
  rw [h, if_neg (by decide)]
  exact (walkHeat_moves _ _ .identify).imp id fun ⟨hstate, horders, _⟩ => ⟨hstate, horders⟩

theorem walkStep_moves (h : w.state = .step) : (walkStep ring band i w).state = .failed ∨
    ((walkStep ring band i w).state = .verify ∧ (walkStep ring band i w).steps = w.steps + 1) := by
  unfold walkStep
  rw [h, if_neg (by decide)]
  exact (walkHeat_moves _ _ .verify).imp id fun ⟨hstate, _, hsteps⟩ => ⟨hstate, hsteps⟩

theorem walkVerify_state (pass : Bool) (h : w.state = .verify) :
    (walkVerify pass w).state = if pass then .lockedOk else .identify := by
  rw [walkVerify, h, if_neg (by decide)]

end

/-! ## A bank after a ring's walk has moved on -/

section
variable {p c r : Nat} {s : State} {w : Walk}

theorem of_walking (h : walking p c r s = true) : p < 660 ∧ c < 16 ∧ bankFenced p c s = false := by
  simp only [walking, Bool.and_eq_true, decide_eq_true_eq, Bool.not_eq_true'] at h
  obtain ⟨⟨⟨hidx, hc⟩, hin⟩, -⟩ := h
  exact ⟨toNat_lt_of_clusterIdx hidx, hc, hin⟩

/-- The bank with the new state of a ring's walk. -/
def walked (p c r : Nat) (w : Walk) (s : State) : Bank :=
  { bankGet p c s with walks := tset {} (bankGet p c s).walks r w, heat := tset none (bankGet p c s).heat r (some w.heater) }

theorem walkDone_of_failed (h : w.state = .failed) : walkDone p c r w s = failBank p c (bankSet p c (walked p c r w s) s) := if_pos h

theorem walkDone_fences (hwalk : walking p c r s = true) (h : w.state = .failed) :
    Fenced (0x3000 + p) c (walkDone p c r w s) ∧ (bankGet p c (walkDone p c r w s)).state = .fenced := by
  obtain ⟨hp, hc, hin⟩ := of_walking hwalk
  rw [walkDone_of_failed h]
  refine failBank_fences hp hc ?_
  rw [bankFenced, bankGet_bankSet_self]
  exact hin

/-- A bank back in service once its walks are over serves in one of the two ways. -/
theorem serving_state (p : Nat) (s : State) (b : Bank) : (serving p s b).walks = b.walks ∧
    ((serving p s b).state = .inService ∨ (serving p s b).state = .darkLine) := by
  unfold serving
  split
  · exact ⟨rfl, .inr rfl⟩
  · exact ⟨rfl, .inl rfl⟩

/-- Without a failed ring the walk's new state stands in the bank, or the bank's relock is over and it serves again. -/
theorem walkDone_goesOn (hfail : w.state ≠ .failed) : OnlyChanges [.banks] s (walkDone p c r w s) ∧
    (tget {} (bankGet p c (walkDone p c r w s)).walks r = w ∨
      ((walked p c r w s).walks.all (fun e => e.2.state = .lockedOk) = true ∧ (bankGet p c s).relockFor ≠ .check ∧
        (bankGet p c (walkDone p c r w s)).walks = [] ∧
        ((bankGet p c (walkDone p c r w s)).state = .inService ∨ (bankGet p c (walkDone p c r w s)).state = .darkLine))) := by
  have hset : ∀ b t, Keeps [.banks] s t → Keeps [.banks] s (bankSet p c b t) := fun b t ht => bankSet_keeps p c b rfl ht
  have hread : ∀ t, tget {} (bankGet p c (bankSet p c (walked p c r w s) t)).walks r = w := fun t => by
    rw [bankGet_bankSet_self]
    exact tget_tset_self _ _ _ _
  unfold walkDone
  rw [if_neg hfail]
  dsimp only
  split
  case isFalse => exact ⟨(hset _ _ (Keeps.refl s)).frame, .inl (hread s)⟩
  case isTrue hover =>
    have hall := (Bool.and_eq_true_iff.mp hover).1
    split
    case h_1 =>
      refine ⟨(hset _ _ (Keeps.refl s)).frame, .inl ?_⟩
      rw [bankGet_bankSet_self]
      exact tget_tset_self _ _ _ _
    case h_2 hwhy =>
      refine ⟨(hset _ _ (hset _ _ (Keeps.refl s))).frame, .inr ⟨hall, by rw [hwhy]; decide, ?_⟩⟩
      unfold retuned walksOver
      dsimp only
      rw [bankGet_bankSet_self]
      exact serving_state _ _ _
    case h_3 hwhy =>
      refine ⟨(hset _ _ (hset _ _ (Keeps.refl s))).frame, .inr ⟨hall, by rw [hwhy]; decide, ?_⟩⟩
      unfold walksOver
      rw [bankGet_bankSet_self]
      exact serving_state _ _ _

theorem tget_of_all {α : Type} {d : α} {l : Tab α} {k : Nat} {q : α → Bool} (h : l.all (fun e => q e.2) = true) :
    q (tget d l k) = true ∨ tget d l k = d := by
  induction l with
  | nil => exact .inr rfl
  | cons e l ih =>
    obtain ⟨he, hl⟩ := Bool.and_eq_true_iff.mp h
    unfold tget
    split
    · exact .inl he
    · exact ih hl

/-- A ring that is not locked keeps its bank's walks going. -/
theorem walkDone_unlocked (hfail : w.state ≠ .failed) (hlock : w.state ≠ .lockedOk) (hidle : w.state ≠ .idle) :
    OnlyChanges [.banks] s (walkDone p c r w s) ∧ tget {} (bankGet p c (walkDone p c r w s)).walks r = w := by
  obtain ⟨hframe, hread | ⟨hall, -⟩⟩ := walkDone_goesOn (p := p) (c := c) (r := r) (s := s) hfail
  · exact ⟨hframe, hread⟩
  · have hw : tget {} (walked p c r w s).walks r = w := tget_tset_self _ _ _ _
    rcases tget_of_all (d := {}) (k := r) (q := fun x : Walk => decide (x.state = .lockedOk)) hall with h | h
    · rw [hw] at h
      exact absurd (of_decide_eq_true h) hlock
    · exact absurd (congrArg Walk.state (hw.symm.trans h)) hidle

end

/-! ## A channel side after its ring's walk has moved on -/

theorem coreOf_lane {i : Nat} (hi : i < 1154) (syn : BitVec 64) : coreOf (0x7000 + i) syn = 0 := by
  have hcore : perCore (0x7000 + i) = false := by
    simp only [perCore, Bool.or_eq_false_iff, decide_eq_false_iff_not]
    omega
  rw [coreOf, hcore]
  rfl

theorem laneFault_eq (cls : FClass) (i : Nat) (s : State) : ∃ syn, laneFault cls i s = report (evt (0x7000 + i) cls syn) (useFree s).2 :=
  ⟨_, rfl⟩

theorem faulted_laneFault (cls : FClass) (i : Nat) (s : State) : Faulted (0x7000 + i) cls s (laneFault cls i s) := by
  obtain ⟨syn, heq⟩ := laneFault_eq cls i s
  rw [heq]
  exact faulted_report _ _ _ _ _ (useFree s).2

theorem fenceChan_fences {i : Nat} (hi : i < 1154) (s : State) :
    Fenced (0x7000 + i) 0 (fenceChan i s) ∧ (chanSide i (fenceChan i s)).state = .fenced := by
  obtain ⟨syn, heq⟩ := laneFault_eq .u i s
  have hfenced : Fenced (0x7000 + i) 0 (laneFault .u i s) := by
    have hreport := fenced_report (e := evt (0x7000 + i) .u syn) rfl (useFree s).2
    rw [show (evt (0x7000 + i) .u syn).source.toNat = 0x7000 + i from toNat_ofNat_16 (by omega), coreOf_lane hi] at hreport
    rw [heq]
    exact hreport
  unfold fenceChan
  dsimp only
  rw [chanSide_setChan_self]
  exact ⟨hfenced, rfl⟩

section
variable {i : Nat} {s : State} {w : Walk}

theorem chipWalking_of_state (hi : i < 1152) (h : (chanSide i s).walk.state ≠ .idle) : chipWalking i s = true := by
  simp [chipWalking, hi, h]

theorem chipWalkDone_fences (hi : i < 1152) (h : w.state = .failed) :
    Fenced (0x7000 + i) 0 (chipWalkDone i w s) ∧ (chanSide i (chipWalkDone i w s)).state = .fenced := by
  unfold chipWalkDone
  dsimp only
  rw [if_pos h]
  exact fenceChan_fences (by omega) _

/-- Without a failed ring the walk's new state stands at the channel side, which is checked again when a relock has locked its
ring, and whose walk is over when a ring locked in service. -/
theorem chipWalkDone_goesOn (hfail : w.state ≠ .failed) : OnlyChanges [.chans] s (chipWalkDone i w s) ∧
    ((chanSide i (chipWalkDone i w s)).walk = w ∧ (w.state = .lockedOk → (chanSide i s).state = .relock →
        (chanSide i (chipWalkDone i w s)).state = .check ∧ (chanSide i (chipWalkDone i w s)).began = s.clock.now) ∨
      (w.state = .lockedOk ∧ (chanSide i s).state ≠ .relock ∧ (chanSide i (chipWalkDone i w s)).walk = {} ∧
        (chanSide i (chipWalkDone i w s)).state = (chanSide i s).state)) := by
  have hset : ∀ c t, Keeps [.chans] s t → Keeps [.chans] s (setChan i c t) := fun c t ht => setChan_keeps i c rfl ht
  unfold chipWalkDone
  dsimp only
  rw [if_neg hfail]
  split
  case isTrue hboth =>
    rw [chanSide_setChan_self]
    exact ⟨(hset _ _ (hset _ _ (Keeps.refl s))).frame, .inl ⟨rfl, fun _ _ => ⟨rfl, rfl⟩⟩⟩
  case isFalse hboth =>
    have hrelock : w.state = .lockedOk → (chanSide i s).state ≠ .relock := fun hl hr => hboth (by simp [hl, hr])
    split
    case isTrue hlock =>
      rw [chanSide_setChan_self]
      exact ⟨(hset _ _ (hset _ _ (Keeps.refl s))).frame, .inr ⟨hlock, hrelock hlock, rfl, rfl⟩⟩
    case isFalse hlock =>
      rw [chanSide_setChan_self]
      exact ⟨(hset _ _ (Keeps.refl s)).frame, .inl ⟨rfl, fun hl => absurd hl hlock⟩⟩

theorem chipWalkDone_unlocked (hfail : w.state ≠ .failed) (hlock : w.state ≠ .lockedOk) :
    OnlyChanges [.chans] s (chipWalkDone i w s) ∧ (chanSide i (chipWalkDone i w s)).walk = w := by
  obtain ⟨hframe, ⟨hwalk, -⟩ | ⟨hl, -⟩⟩ := chipWalkDone_goesOn (i := i) (s := s) hfail
  · exact ⟨hframe, hwalk⟩
  · exact absurd hl hlock

end

/-! ## The rows -/

section
variable {p c r j i : Nat} {pass : Bool} {s : State}

theorem exec_bankWalkIdentify (h : walking p c r s = true) : exec (.bankWalkIdentify p c r j) s =
    .next (walkDone p c r (walkEvent bankRule s.clock.now (walkIdentify bankRule (bankRing p c r) (bankGet p c s).band (ringLine r) j)
      (tget {} (bankGet p c s).walks r)) s) := if_neg (by rw [h]; decide)

theorem exec_bankWalkOrder (h : walking p c r s = true) : exec (.bankWalkOrder p c r) s =
    .next (walkDone p c r (walkEvent bankRule s.clock.now (walkOrder bankRule (bankRing p c r) (bankGet p c s).band (ringLine r))
      (tget {} (bankGet p c s).walks r)) s) := if_neg (by rw [h]; decide)

theorem exec_bankWalkStep (h : walking p c r s = true) : exec (.bankWalkStep p c r) s =
    .next (walkDone p c r (walkEvent bankRule s.clock.now (walkStep (bankRing p c r) (bankGet p c s).band (ringLine r))
      (tget {} (bankGet p c s).walks r)) s) := if_neg (by rw [h]; decide)

theorem exec_bankWalkVerify (h : walking p c r s = true) : exec (.bankWalkVerify p c r pass) s =
    .next (walkDone p c r (walkEvent bankRule s.clock.now (walkVerify pass) (tget {} (bankGet p c s).walks r)) s) :=
  if_neg (by rw [h]; decide)

theorem exec_chipletWalkIdentify (h : chipWalking i s = true) : exec (.chipletWalkIdentify i j) s =
    .next (chipWalkDone i (walkEvent chipletRule s.clock.now (walkIdentify chipletRule (chipRing i) (chipBandOf i s) (instCh i) j)
      (chanSide i s).walk) s) := if_neg (by rw [h]; decide)

theorem exec_chipletWalkOrder (h : chipWalking i s = true) : exec (.chipletWalkOrder i) s =
    .next (chipWalkDone i (walkEvent chipletRule s.clock.now (walkOrder chipletRule (chipRing i) (chipBandOf i s) (instCh i))
      (chanSide i s).walk) s) := if_neg (by rw [h]; decide)

theorem exec_chipletWalkStep (h : chipWalking i s = true) : exec (.chipletWalkStep i) s =
    .next (chipWalkDone i (walkEvent chipletRule s.clock.now (walkStep (chipRing i) (chipBandOf i s) (instCh i))
      (chanSide i s).walk) s) := if_neg (by rw [h]; decide)

theorem exec_chipletWalkVerify (h : chipWalking i s = true) : exec (.chipletWalkVerify i pass) s =
    .next (chipWalkDone i (walkEvent chipletRule s.clock.now (walkVerify pass) (chanSide i s).walk) s) :=
  if_neg (by rw [h]; decide)

end

/-- Settles O37: a row ends a state of a ring's walk as its table says; past the limits, or out of the heater's range, the bank
or the channel is fenced. -/
theorem ringWalks : Obligations.RingWalks := by
  refine ⟨fun p c r j s hwalk hstate hin => ⟨_, exec_bankWalkIdentify hwalk, ?_⟩,
    fun p c r s hwalk hstate hin => ⟨_, exec_bankWalkOrder hwalk, ?_⟩,
    fun p c r s hwalk hstate hin => ⟨_, exec_bankWalkStep hwalk, ?_⟩,
    fun p c r pass s hwalk hstate hin => ⟨_, exec_bankWalkVerify hwalk, ?_⟩,
    fun p c r s hwalk hover => ⟨_, if_pos (by rw [hwalk, hover]; rfl), walkDone_fences hwalk rfl⟩,
    fun p c r j s hwalk hover => ⟨_, exec_bankWalkIdentify hwalk, (walkDone_fences hwalk (by rw [walkEvent_over _ hover])).1⟩,
    fun p c r s hwalk hover => ⟨_, exec_bankWalkOrder hwalk, (walkDone_fences hwalk (by rw [walkEvent_over _ hover])).1⟩,
    fun p c r s hwalk hover => ⟨_, exec_bankWalkStep hwalk, (walkDone_fences hwalk (by rw [walkEvent_over _ hover])).1⟩,
    fun p c r pass s hwalk hover => ⟨_, exec_bankWalkVerify hwalk,
      (walkDone_fences hwalk (by rw [walkEvent_over _ hover])).1⟩,
    fun i j s hi hstate hin => ?_, fun i s hi hstate hin => ?_, fun i s hi hstate hin => ?_, fun i s hi hstate hin => ?_,
    fun i s hi hstate hrelock hin => ?_, fun i s hi hover => ?_, fun i j s hi hover => ?_, fun i s hi hover => ?_,
    fun i s hi hover => ?_, fun i pass s hi hover => ?_, fun i s hi htx hspare => ?_, fun i s hi hrx hdata hclean => ?_⟩
  · rw [walkEvent_within _ hin]
    obtain ⟨hfound, hnext⟩ := walkIdentify_found (rule := bankRule) (ring := bankRing p c r) (band := (bankGet p c s).band)
      (i := ringLine r) (j := j) hstate
    generalize walkIdentify bankRule (bankRing p c r) (bankGet p c s).band (ringLine r) j (tget {} (bankGet p c s).walks r) = w at *
    have hfail : w.state ≠ .failed := by rcases hnext with h | h | ⟨h, -⟩ <;> rw [h] <;> decide
    obtain ⟨hframe, hread | ⟨hall, hwhy, hover, hserves⟩⟩ := walkDone_goesOn (p := p) (c := c) (r := r) (s := s) hfail
    · rw [hread]
      exact ⟨hframe, .inl ⟨hfound, hnext.imp id (Or.imp id And.left)⟩⟩
    · refine ⟨hframe, ?_⟩
      rcases hnext with h | h | ⟨-, hline⟩
      · exact .inl (by rw [(walkDone_unlocked hfail (by rw [h]; decide) (by rw [h]; decide)).2]; exact ⟨hfound, .inl h⟩)
      · exact .inl (by rw [(walkDone_unlocked hfail (by rw [h]; decide) (by rw [h]; decide)).2]; exact ⟨hfound, .inr (.inl h)⟩)
      · exact .inr ⟨hwhy, hline, hover, hserves⟩
  · rw [walkEvent_within _ hin]
    rcases walkOrder_moves (rule := bankRule) (ring := bankRing p c r) (band := (bankGet p c s).band) (i := ringLine r) hstate
      with h | ⟨h, horders⟩
    · exact .inl (walkDone_fences hwalk h).1
    · obtain ⟨hframe, hread⟩ := walkDone_unlocked (p := p) (c := c) (r := r) (s := s) (by rw [h]; decide) (by rw [h]; decide)
        (by rw [h]; decide)
      rw [hread]
      exact .inr ⟨h, horders, hframe⟩
  · rw [walkEvent_within _ hin]
    rcases walkStep_moves (ring := bankRing p c r) (band := (bankGet p c s).band) (i := ringLine r) hstate with h | ⟨h, hsteps⟩
    · exact .inl (walkDone_fences hwalk h).1
    · obtain ⟨hframe, hread⟩ := walkDone_unlocked (p := p) (c := c) (r := r) (s := s) (by rw [h]; decide) (by rw [h]; decide)
        (by rw [h]; decide)
      rw [hread]
      exact .inr ⟨h, hsteps, hframe⟩
  · rw [walkEvent_within _ hin]
    have hnext := walkVerify_state pass hstate
    have hfail : (walkVerify pass (tget {} (bankGet p c s).walks r)).state ≠ .failed := by rw [hnext]; cases pass <;> decide
    obtain ⟨hframe, hread | ⟨hall, hwhy, hover, hserves⟩⟩ := walkDone_goesOn (p := p) (c := c) (r := r) (s := s) hfail
    · rw [hread]
      exact ⟨hframe, .inl hnext⟩
    · refine ⟨hframe, ?_⟩
      cases pass with
      | true => exact .inr ⟨rfl, hwhy, hover, hserves⟩
      | false =>
        rw [(walkDone_unlocked hfail (by rw [hnext]; decide) (by rw [hnext]; decide)).2]
        exact .inl hnext
  · have hexec := exec_chipletWalkIdentify (j := j) (chipWalking_of_state hi (by rw [hstate]; decide))
    rw [walkEvent_within _ hin] at hexec
    refine ⟨_, hexec, ?_⟩
    obtain ⟨hfound, hnext⟩ := walkIdentify_found (rule := chipletRule) (ring := chipRing i) (band := chipBandOf i s)
      (i := instCh i) (j := j) hstate
    have hfail : (walkIdentify chipletRule (chipRing i) (chipBandOf i s) (instCh i) j (chanSide i s).walk).state ≠ .failed := by
      rcases hnext with h | h | ⟨h, -⟩ <;> rw [h] <;> decide
    obtain ⟨hframe, ⟨hread, -⟩ | ⟨hlock, hrelock, hover, hsame⟩⟩ := chipWalkDone_goesOn (i := i) (s := s) hfail
    · rw [hread]
      exact ⟨hframe, .inl ⟨hfound, hnext.imp id (Or.imp id And.left)⟩⟩
    · rcases hnext with h | h | ⟨-, hline⟩
      · exact absurd (h.symm.trans hlock) (by decide)
      · exact absurd (h.symm.trans hlock) (by decide)
      · exact ⟨hframe, .inr ⟨hline, hover, hsame, hrelock⟩⟩
  · have hexec := exec_chipletWalkOrder (chipWalking_of_state hi (by rw [hstate]; decide))
    rw [walkEvent_within _ hin] at hexec
    refine ⟨_, hexec, ?_⟩
    rcases walkOrder_moves (rule := chipletRule) (ring := chipRing i) (band := chipBandOf i s) (i := instCh i) hstate
      with h | ⟨h, horders⟩
    · exact .inl (chipWalkDone_fences hi h).1
    · obtain ⟨hframe, hread⟩ := chipWalkDone_unlocked (i := i) (s := s) (by rw [h]; decide) (by rw [h]; decide)
      rw [hread]
      exact .inr ⟨h, horders, hframe⟩
  · have hexec := exec_chipletWalkStep (chipWalking_of_state hi (by rw [hstate]; decide))
    rw [walkEvent_within _ hin] at hexec
    refine ⟨_, hexec, ?_⟩
    rcases walkStep_moves (ring := chipRing i) (band := chipBandOf i s) (i := instCh i) hstate with h | ⟨h, hsteps⟩
    · exact .inl (chipWalkDone_fences hi h).1
    · obtain ⟨hframe, hread⟩ := chipWalkDone_unlocked (i := i) (s := s) (by rw [h]; decide) (by rw [h]; decide)
      rw [hread]
      exact .inr ⟨h, hsteps, hframe⟩
  · have hexec := exec_chipletWalkVerify (pass := false) (chipWalking_of_state hi (by rw [hstate]; decide))
    rw [walkEvent_within _ hin] at hexec
    have hnext := walkVerify_state false hstate
    obtain ⟨hframe, hread⟩ := chipWalkDone_unlocked (i := i) (s := s) (by rw [hnext]; decide) (by rw [hnext]; decide)
    exact ⟨_, hexec, by rw [hread]; exact hnext, hframe⟩
  · have hexec := exec_chipletWalkVerify (pass := true) (chipWalking_of_state hi (by rw [hstate]; decide))
    rw [walkEvent_within _ hin] at hexec
    have hnext := walkVerify_state true hstate
    obtain ⟨hframe, ⟨hread, hcheck⟩ | ⟨-, hnot, -⟩⟩ := chipWalkDone_goesOn (i := i) (s := s)
      (show (walkVerify true (chanSide i s).walk).state ≠ .failed by rw [hnext]; decide)
    · obtain ⟨hst, hbegan⟩ := hcheck hnext hrelock
      exact ⟨_, hexec, hst, hbegan, by rw [hread]; exact hnext, hframe⟩
    · exact absurd hrelock hnot
  · have hexec : exec (.chipletWalkTimeout i) s = .next (chipWalkDone i { (chanSide i s).walk with state := .failed } s) :=
      if_pos (by rw [chipWalking_of_state hi (state_of_walkOver hover), hover]; rfl)
    obtain ⟨hfenced, hst⟩ := chipWalkDone_fences (s := s) hi (w := { (chanSide i s).walk with state := .failed }) rfl
    exact ⟨_, hexec, hst, hfenced⟩
  · exact ⟨_, exec_chipletWalkIdentify (chipWalking_of_state hi (state_of_walkOver hover)),
      (chipWalkDone_fences hi (by rw [walkEvent_over _ hover])).1⟩
  · exact ⟨_, exec_chipletWalkOrder (chipWalking_of_state hi (state_of_walkOver hover)),
      (chipWalkDone_fences hi (by rw [walkEvent_over _ hover])).1⟩
  · exact ⟨_, exec_chipletWalkStep (chipWalking_of_state hi (state_of_walkOver hover)),
      (chipWalkDone_fences hi (by rw [walkEvent_over _ hover])).1⟩
  · exact ⟨_, exec_chipletWalkVerify (chipWalking_of_state hi (state_of_walkOver hover)),
      (chipWalkDone_fences hi (by rw [walkEvent_over _ hover])).1⟩
  · have hexec : exec (.ringLockLoss i false) s =
        .next (setChan i { chanSide i s with walk := chipWalk i s, state := .relock } s) := by
      change execRingLockLoss i false s = _
      unfold execRingLockLoss
      dsimp only
      rw [hspare, htx, if_neg (by simp; omega)]
      rfl
    exact ⟨_, hexec, chanSide_setChan_self _ _ _, (setChan_keeps i _ rfl (Keeps.refl s)).frame⟩
  · have hexec : exec (.ringLockLoss i false) s = .next (setChan i { chanSide i (judgeUnfit i false s) with
        walk := chipWalk i s, state := (chanSide i (judgeUnfit i false s)).state } (judgeUnfit i false s)) := by
      change execRingLockLoss i false s = _
      unfold execRingLockLoss
      dsimp only
      rw [hdata, hrx, if_neg (by simp; omega)]
      rfl
    refine ⟨_, hexec, (faulted_laneFault .c i s).congr rfl ?_, by rw [chanSide_setChan_self]⟩
    unfold judgeUnfit
    dsimp only
    rw [hclean, if_neg (by decide)]
    exact (sendBlocks_keeps _ _ _ _ (T := [.chans]) rfl (Keeps.refl _)).same .faults (by decide)

end Sys2Proof.Machine

/-!
PROOFS. Comb lasers: hand-over to the spare, a failed line, a lost chiplet (R113–R116).
-/

namespace Sys2Proof.Machine

/-! ## Lasers: a read after a write -/

theorem laserGet_laserSet_self (i : Nat) (x : Laser) (s : State) : laserGet i (laserSet i x s) = x := tget_tset_self _ _ _ _

theorem laserGet_laserSet_ne {i j : Nat} (h : j ≠ i) (x : Laser) (s : State) : laserGet j (laserSet i x s) = laserGet j s :=
  tget_tset_ne _ _ _ _ _ h

theorem laserGet_congr {s t : State} (h : t.las = s.las) (i : Nat) : laserGet i t = laserGet i s := by
  rw [laserGet, h, laserGet]

theorem laserOn_lit (i : Nat) (s : State) : (laserGet i (laserOn i s)).lit = true := by
  unfold laserOn
  dsimp only
  split
  case isTrue h => exact h
  case isFalse => rw [laserGet_laserSet_self]

theorem laserGet_laserOn_ne {i j : Nat} (h : j ≠ i) (s : State) : laserGet j (laserOn i s) = laserGet j s := by
  unfold laserOn
  dsimp only
  split
  · rfl
  · exact laserGet_laserSet_ne h _ s

theorem banks_laserOn (i : Nat) (s : State) : (laserOn i s).banks = s.banks :=
  (laserOn_keeps i (T := [.las]) rfl (Keeps.refl s)).same .banks (by decide)

theorem worn_laserOn (i : Nat) (s : State) : (laserOn i s).las.worn = s.las.worn := by
  unfold laserOn
  dsimp only
  split <;> rfl

theorem laserHours_fade (now : Nat) (x : Laser) : (laserHours now x).fade = x.fade := by
  unfold laserHours
  split <;> rfl

theorem laserOff_off (i : Nat) (s : State) : (laserGet i (laserOff i s)).lit = false ∧
    (laserGet i (laserOff i s)).fade = (laserGet i s).fade := by
  unfold laserOff
  dsimp only
  rw [laserGet_laserSet_self]
  exact ⟨rfl, laserHours_fade _ _⟩

theorem laserGet_laserOff_ne {i j : Nat} (h : j ≠ i) (s : State) : laserGet j (laserOff i s) = laserGet j s :=
  laserGet_laserSet_ne h _ s

theorem laserWorn_wears (i : Nat) (f : Fade) (s : State) :
    (laserGet i (laserWorn i f s)).fade = f ∧ i ∈ (laserWorn i f s).las.worn := by
  refine ⟨?_, mem_setInsert.mpr (.inl rfl)⟩
  exact congrArg Laser.fade (laserGet_laserSet_self i { laserGet i s with fade := f } s)

/-! ## Lasers of a comb -/

section
variable {chip a k : Nat}

theorem combOf_combPrimary (ha : a < 5) (hk : k < 32) : combOf (combPrimary chip a k) = (chip, a, k) := by
  simp only [combOf, combPrimary, Prod.mk.injEq]
  omega

theorem isComb_combPrimary (hchip : chip < 4) (ha : a < 4) (hk : k < 32) : isComb (combPrimary chip a k) = true := by
  have hlow : 0x200 ≤ combPrimary chip a k := by simp only [combPrimary]; omega
  have hhigh : combPrimary chip a k < 0x480 := by simp only [combPrimary]; omega
  rw [isComb, decide_eq_true hlow, decide_eq_true hhigh]
  rfl

theorem combPrimary_ne_combSpare (ha : a < 4) : combPrimary chip a k ≠ combSpare chip k := by
  simp only [combPrimary, combSpare]
  omega

theorem combLights_congr {s t : State} (h : t.banks = s.banks) (i : Nat) : combLights i t = combLights i s := by
  unfold combLights
  rw [h]

end

/-! ## What a walk through an array does to one of its banks -/

/-- An operation done on every bank of an array reaches what it does on one of them, when the others leave that standing. -/
theorem mapArray_reaches {I R : State → Prop} {chip a p c : Nat} {f : Nat → Nat → State → State} {s : State}
    (hI : ∀ q d t, d < 16 → I t → I (f q d t)) (hR : ∀ q d t, d < 16 → I t → R t → R (f q d t)) (hx : ∀ t, I t → R (f p c t))
    (hp : p ∈ arrayClusters chip a) (hc : c < 16) (hs : I s) : R (mapArray chip a f s) := by
  have hcore : ∀ (l : List Nat) (q : Nat) (t : State), (∀ d ∈ l, d < 16) → I t →
      I (l.foldl (fun u d => f q d u) t) ∧ (R t → R (l.foldl (fun u d => f q d u) t)) ∧
        (q = p → c ∈ l → R (l.foldl (fun u d => f q d u) t)) := by
    intro l
    induction l with
    | nil => exact fun q t _ ht => ⟨ht, id, fun _ hmem => absurd hmem (List.not_mem_nil)⟩
    | cons d l ih =>
      intro q t hl ht
      have hd := hl d List.mem_cons_self
      obtain ⟨hi, hr, hm⟩ := ih q (f q d t) (fun e he => hl e (List.mem_cons_of_mem _ he)) (hI q d t hd ht)
      refine ⟨hi, fun hrt => hr (hR q d t hd ht hrt), fun hq hmem => ?_⟩
      rcases List.mem_cons.mp hmem with rfl | hmem
      · subst hq
        exact hr (hx t ht)
      · exact hm hq hmem
  have hsmall : ∀ d ∈ List.range 16, d < 16 := fun d hd => List.mem_range.mp hd
  have houter : ∀ (l : List Nat) (t : State), I t →
      (R t → R (l.foldl (fun u q => (List.range 16).foldl (fun v d => f q d v) u) t)) ∧
        (p ∈ l → R (l.foldl (fun u q => (List.range 16).foldl (fun v d => f q d v) u) t)) := by
    intro l
    induction l with
    | nil => exact fun t _ => ⟨id, fun hmem => absurd hmem List.not_mem_nil⟩
    | cons q l ih =>
      intro t ht
      obtain ⟨hi, hr, hm⟩ := hcore (List.range 16) q t hsmall ht
      obtain ⟨hr', hm'⟩ := ih _ hi
      refine ⟨fun hrt => hr' (hr hrt), fun hmem => ?_⟩
      rcases List.mem_cons.mp hmem with rfl | hmem
      · exact hr' (hm rfl (List.mem_range.mpr hc))
      · exact hm' hmem
  exact (houter _ s hs).2 hp

/-- An invariant of an operation on banks is one of the operation done on every bank of an array. -/
theorem mapArray_invariant {I : State → Prop} {chip a : Nat} {f : Nat → Nat → State → State} {s : State}
    (hI : ∀ q d t, I t → I (f q d t)) (hs : I s) : I (mapArray chip a f s) :=
  List.foldlRecOn (motive := I) _ _ hs fun _ ht _ _ => List.foldlRecOn (motive := I) _ _ ht fun _ hu _ _ => hI _ _ _ hu

/-! ## The pause of an array's engines (R113) -/

section
variable {p c : Nat} {s t : State}

/-- Asking the engine of a bank in service to pause, as COMB_PAUSE_REQUEST does. -/
def askPause (p c : Nat) (t : State) : State :=
  if !bankFenced p c t && ((bankGet p c t).state = .inService || (bankGet p c t).state = .darkLine ||
      (bankGet p c t).state = .check || (bankGet p c t).state = .relock) then bankClaim p c .lightPause t else t

theorem atBoundary_congr (h : t.comp = s.comp) (p c : Nat) : atBoundary p c t = atBoundary p c s := by
  rw [atBoundary, engGet_congr (congrArg Compute.cores h), atBoundary]

theorem bankClaim_at {st : BankState} (h : atBoundary p c s = true) : bankClaim p c st s = bankEnter p c st
    (bankSet p c { bankGet p c s with claim := some st } s) := by
  have hrun : (engGet p c .p (bankSet p c { bankGet p c s with claim := some st } s)).run.isSome = false := by
    rw [Option.isSome_eq_false_iff]
    exact h
  unfold bankClaim bankBoundary
  rw [hrun, if_neg (by decide), bankGet_bankSet_self]

theorem bankClaim_off {st : BankState} (h : atBoundary p c s = false) : bankClaim p c st s =
    bankSet p c { bankGet p c s with claim := some st } s := by
  have hrun : (engGet p c .p (bankSet p c { bankGet p c s with claim := some st } s)).run.isSome = true := by
    rw [← Option.not_isNone]
    exact Bool.not_eq_true' _ ▸ h
  unfold bankClaim bankBoundary
  rw [hrun, if_pos rfl]

theorem bankGet_bankClaim_ne {q d : Nat} (h : coreKey q d ≠ coreKey p c) (st : BankState) (s : State) :
    bankGet q d (bankClaim p c st s) = bankGet q d s := by
  cases hb : atBoundary p c s with
  | true =>
    rw [bankClaim_at hb]
    unfold bankEnter
    rw [bankGet_bankSet_ne h, bankGet_bankSet_ne h]
  | false => rw [bankClaim_off hb, bankGet_bankSet_ne h]

/-- A bank whose engine pauses for its light: paused at its boundary, or to pause there. -/
def Pausing (p c : Nat) (s : State) : Prop :=
  (atBoundary p c s = true → (bankGet p c s).state = .lightPause) ∧
    (atBoundary p c s = false → (bankGet p c s).claim = some .lightPause)

theorem bankClaim_pausing (p c : Nat) (s : State) : Pausing p c (bankClaim p c .lightPause s) := by
  have hcomp : atBoundary p c (bankClaim p c .lightPause s) = atBoundary p c s :=
    atBoundary_congr ((bankClaim_keeps p c .lightPause (T := [.banks]) rfl (Keeps.refl s)).same .comp (by decide)) p c
  rw [Pausing, hcomp]
  refine ⟨fun h => ?_, fun h => ?_⟩
  · rw [bankClaim_at h]
    unfold bankEnter
    rw [bankGet_bankSet_self]
  · rw [bankClaim_off h, bankGet_bankSet_self]

theorem Pausing.congr (h : Pausing p c s) (hcomp : t.comp = s.comp) (hbank : bankGet p c t = bankGet p c s) : Pausing p c t := by
  rw [Pausing, atBoundary_congr hcomp, hbank]
  exact h

theorem askPause_cases (p c : Nat) (s : State) : askPause p c s = s ∨ askPause p c s = bankClaim p c .lightPause s := by
  unfold askPause
  split
  · exact .inr rfl
  · exact .inl rfl

theorem askPause_keeps (p c : Nat) (h : Keeps [.banks] s t) : Keeps [.banks] s (askPause p c t) := by
  rcases askPause_cases p c t with heq | heq <;> rw [heq]
  · exact h
  · exact bankClaim_keeps p c _ rfl h

theorem askPause_pausing {q d : Nat} (h : Pausing p c s) : Pausing p c (askPause q d s) := by
  rcases askPause_cases q d s with heq | heq <;> rw [heq]
  · exact h
  · by_cases hkey : coreKey p c = coreKey q d
    · have hsame := bankClaim_pausing q d s
      rw [Pausing, atBoundary, bankGet, engGet, coreGet, ← hkey] at hsame
      exact hsame
    · exact h.congr ((bankClaim_keeps q d .lightPause (T := [.banks]) rfl (Keeps.refl s)).same .comp (by decide))
        (bankGet_bankClaim_ne hkey _ s)

/-- The line's pause is asked for. -/
def wantPause (line : Nat) (t : State) : State :=
  { t with banks := { t.banks with pauseWanted := setInsert line t.banks.pauseWanted } }

theorem mem_wantPause (line : Nat) (t : State) : line ∈ (wantPause line t).banks.pauseWanted := mem_setInsert.mpr (.inl rfl)

theorem keeps_wantPause (line : Nat) (h : Keeps [.banks] s t) : Keeps [.banks] s (wantPause line t) := keeps_setBanks rfl h _

theorem wantPause_pausing (line : Nat) (h : Pausing p c s) : Pausing p c (wantPause line s) := h

theorem execCombPauseRequest_pauses {chip a k t0 : Nat} (hk : k < 32) (hchip : chip < 4)
    (hover : tget none s.banks.handover (lineKey chip k) = some (a, t0)) (ht : t0 + 30000000 ≤ s.clock.now)
    (hnew : lineKey chip k ∉ s.banks.pauseWanted) (hwave : waveOver (flankOfNum (chip / 2)) s = true) :
    execCombPauseRequest chip k s = .next (wantPause (lineKey chip k) (mapArray chip a askPause s)) := by
  unfold execCombPauseRequest askPause
  rw [hover]
  dsimp only
  rw [if_neg (by simp [hnew, hwave]; omega), wantPause]

theorem askPause_of_inService (hin : bankFenced p c s = false) (hstate : (bankGet p c s).state = .inService) :
    askPause p c s = bankClaim p c .lightPause s := if_pos (by rw [hin, hstate]; rfl)

/-- Every bank in service of the array pauses. -/
theorem mapArray_askPause {chip a : Nat} (hp : p ∈ arrayClusters chip a) (hc : c < 16) (hin : bankFenced p c s = false)
    (hstate : (bankGet p c s).state = .inService) : Pausing p c (mapArray chip a askPause s) := by
  refine mapArray_reaches (I := fun t => t.faults = s.faults ∧ (bankGet p c t = bankGet p c s ∨ Pausing p c t))
    (R := Pausing p c) (fun q d t hd hI => ?_) (fun q d t hd hI hR => askPause_pausing hR) (fun t hI => ?_) hp hc
    ⟨rfl, .inl rfl⟩
  · refine ⟨((askPause_keeps q d (Keeps.refl t)).same .faults (by decide)).trans hI.1, ?_⟩
    rcases hI.2 with hsame | hpause
    · rcases askPause_cases q d t with heq | heq <;> rw [heq]
      · exact .inl hsame
      · by_cases hkey : coreKey p c = coreKey q d
        · obtain ⟨rfl, rfl⟩ := coreKey_inj hc hd hkey
          exact .inr (bankClaim_pausing _ _ t)
        · exact .inl ((bankGet_bankClaim_ne hkey _ t).trans hsame)
    · exact .inr (askPause_pausing hpause)
  · rcases hI.2 with hsame | hpause
    · rw [askPause_of_inService (by rw [bankFenced, isFenced, hI.1, hsame]; exact hin) (by rw [hsame]; exact hstate)]
      exact bankClaim_pausing p c t
    · exact askPause_pausing hpause

end

/-! ## The pause is over -/

section
variable {p c : Nat} {s : State}

/-- A bank that paused for its light, or serves without a line, goes back to service. -/
def endPause (p c : Nat) (t : State) : State :=
  if (bankGet p c t).state = .lightPause || (bankGet p c t).state = .darkLine then bankSet p c (serving p t (bankGet p c t)) t
  else t

/-- A bank that takes work. -/
def Serves (p c : Nat) (s : State) : Prop := (bankGet p c s).state = .inService ∨ (bankGet p c s).state = .darkLine

theorem endPause_cases (p c : Nat) (s : State) :
    endPause p c s = s ∨ endPause p c s = bankSet p c (serving p s (bankGet p c s)) s := by
  unfold endPause
  split
  · exact .inr rfl
  · exact .inl rfl

theorem bankSet_serving_serves (p c : Nat) (b : Bank) (s : State) : Serves p c (bankSet p c (serving p s b) s) := by
  rw [Serves, bankGet_bankSet_self]
  exact (serving_state p s b).2

theorem endPause_serves {q d : Nat} (h : Serves p c s) : Serves p c (endPause q d s) := by
  rcases endPause_cases q d s with heq | heq <;> rw [heq]
  · exact h
  · by_cases hkey : coreKey p c = coreKey q d
    · have hsame := bankSet_serving_serves q d (bankGet q d s) s
      rw [Serves, bankGet, ← hkey] at hsame
      exact hsame
    · rw [Serves, bankGet_bankSet_ne hkey]
      exact h

theorem mapArray_endPause {chip a : Nat} (hp : p ∈ arrayClusters chip a) (hc : c < 16)
    (hstate : (bankGet p c s).state = .lightPause) : Serves p c (mapArray chip a endPause s) := by
  refine mapArray_reaches (I := fun t => (bankGet p c t).state = .lightPause ∨ Serves p c t) (R := Serves p c)
    (fun q d t hd hI => ?_) (fun q d t hd hI hR => endPause_serves hR) (fun t hI => ?_) hp hc (.inl hstate)
  · rcases hI with hsame | hserves
    · rcases endPause_cases q d t with heq | heq <;> rw [heq]
      · exact .inl hsame
      · by_cases hkey : coreKey p c = coreKey q d
        · obtain ⟨rfl, rfl⟩ := coreKey_inj hc hd hkey
          exact .inr (bankSet_serving_serves _ _ _ t)
        · exact .inl (by rw [bankGet_bankSet_ne hkey]; exact hsame)
    · exact .inr (endPause_serves hserves)
  · rcases hI with hsame | hserves
    · rw [endPause, if_pos (by rw [hsame]; rfl)]
      exact bankSet_serving_serves p c _ t
    · exact endPause_serves hserves

/-- The hand-over of a line is over and its pause asked for no more. -/
def unpaused (chip k : Nat) (s : State) : State := { s with banks := { s.banks with
  handover := tset none s.banks.handover (lineKey chip k) none
  paused := tset none s.banks.paused (lineKey chip k) none
  pauseWanted := setErase (lineKey chip k) s.banks.pauseWanted } }

theorem pauseOver_nil (chip a k : Nat) (s : State) :
    pauseOver chip a k [] s = refreshDegraded (mapArray chip a endPause (unpaused chip k s)) := by
  unfold pauseOver endPause unpaused
  dsimp only
  rw [List.filter_nil, List.foldl_nil]

/-- What the end of a pause leaves of the hand-overs. -/
theorem mapArray_endPause_handovers (chip a : Nat) (s : State) :
    (mapArray chip a endPause s).banks.handover = s.banks.handover ∧
      (mapArray chip a endPause s).banks.pauseWanted = s.banks.pauseWanted :=
  mapArray_invariant (I := fun t => t.banks.handover = s.banks.handover ∧ t.banks.pauseWanted = s.banks.pauseWanted)
    (fun q d t ht => by rcases endPause_cases q d t with heq | heq <;> rw [heq] <;> exact ht) ⟨rfl, rfl⟩

end

/-! ## A line goes dark (R114, R115) -/

section
variable {s : State}

theorem bankBoundary_dark (p c : Nat) (s : State) : (bankBoundary p c s).banks.dark = s.banks.dark := by
  unfold bankBoundary
  split
  · rfl
  · split <;> rfl

theorem dropPOps_dark (p c : Nat) (keep : EngOp → Bool) (back : Bool) (s : State) :
    (dropPOps p c keep back s).banks.dark = s.banks.dark := by
  have hgone : ∀ (l : List EngOp) (u : State), Keeps [.counts, .comp] s u → Keeps [.counts, .comp] s (l.foldl (fun t o =>
      let u := modItem p o.wi (fun w => { w with pending := w.pending - 1 }) t
      if back then fallBack p o u else modItem p o.wi (fun w => { w with fall := w.fall ++ [o] }) u) u) := fun l u hu =>
    Keeps.foldl hu fun t o ht => by
      dsimp only
      split
      · exact fallBack_keeps p o rfl (modItem_keeps _ _ _ rfl ht)
      · exact modItem_keeps _ _ _ rfl (modItem_keeps _ _ _ rfl ht)
  unfold dropPOps
  dsimp only
  rw [bankBoundary_dark]
  exact congrArg Banks.dark ((hgone _ _ (engSet_keeps p c .p _ rfl (Keeps.refl s))).same .banks (by decide))

theorem discardRuns_dark (chip a : Nat) (s : State) : (discardRuns chip a s).banks.dark = s.banks.dark :=
  List.foldlRecOn (motive := fun t : State => t.banks.dark = s.banks.dark) _ _ rfl
    fun _ ht _ _ => (dropPOps_dark _ _ _ _ _).trans ht

theorem refreshDegraded_banks (s : State) : (refreshDegraded s).banks = s.banks :=
  (refreshDegraded_keeps (T := [.dev, .db, .ports, .cmds, .out]) rfl (Keeps.refl s)).same .banks (by decide)

theorem refreshDegraded_las (s : State) : (refreshDegraded s).las = s.las :=
  (refreshDegraded_keeps (T := [.dev, .db, .ports, .cmds, .out]) rfl (Keeps.refl s)).same .las (by decide)

theorem serves_refreshDegraded {p c : Nat} (h : Serves p c s) : Serves p c (refreshDegraded s) := by
  rw [Serves, bankGet, refreshDegraded_banks]
  exact h

theorem enterDark_dark {chip a : Nat} (k : Nat) (spare : Bool) (h : tget [] s.banks.dark (chip * 4 + a) = []) :
    tget [] (enterDark chip a k spare s).banks.dark (chip * 4 + a) = [k] := by
  unfold enterDark
  dsimp only
  rw [h, if_neg (by simp), if_neg (by simp), refreshDegraded_banks]
  refine mapArray_invariant (I := fun t : State => tget [] t.banks.dark (chip * 4 + a) = [k]) (fun q d t ht => ?_) ?_
  · split
    · exact ht
    · exact ht
  · exact tget_tset_self [] s.banks.dark (chip * 4 + a) [k]

theorem startHandover_dark (chip a k : Nat) (s : State) : (startHandover chip a k s).banks.dark = s.banks.dark := by
  unfold startHandover
  dsimp only
  rw [banks_laserOn]

end

/-! ## The rows -/

section
variable {chip a k : Nat} {s : State}

theorem startHandover_starts (chip a k : Nat) (s : State) : (laserGet (combSpare chip k) (startHandover chip a k s)).lit = true ∧
    tget none (startHandover chip a k s).banks.handover (lineKey chip k) = some (a, s.clock.now) ∧
    (startHandover chip a k s).las.worn = s.las.worn ∧ (startHandover chip a k s).faults = s.faults := by
  unfold startHandover
  rw [banks_laserOn, worn_laserOn,
    (laserOn_keeps (combSpare chip k) (T := [.las]) rfl (Keeps.refl _)).same .faults (by decide)]
  exact ⟨laserOn_lit _ _, tget_tset_self none s.banks.handover (lineKey chip k) (some (a, s.clock.now)), rfl, rfl⟩

theorem laserGet_startHandover_ne {i : Nat} (h : i ≠ combSpare chip k) : laserGet i (startHandover chip a k s) = laserGet i s :=
  laserGet_laserOn_ne h _

theorem combSparePoint_warms (ha : a < 4) (hk : k < 32) (hfree : spareFree chip k s = true)
    (hlights : combLights (combPrimary chip a k) s = some a) : combSparePoint (combPrimary chip a k) s =
      startHandover chip a k (faultCOpen (0xA000 + combPrimary chip a k) (laserWorn (combPrimary chip a k) .sparePoint s)) := by
  unfold combSparePoint
  dsimp only
  rw [hlights, combOf_combPrimary (by omega) hk]
  exact if_pos (by simp [ha, hfree])

theorem faultCOpen_frame (src : Nat) (s : State) : (faultCOpen src s).las = s.las ∧ (faultCOpen src s).clock = s.clock ∧
    (faultCOpen src s).faults.entered = s.faults.entered + 1 := by
  have hkeeps := faultCOpen_keepsMinor src (T := [.faults, .db, .ports, .cmds, .cairn, .out, .free]) rfl (Keeps.refl s)
  exact ⟨hkeeps.same .las (by decide), hkeeps.same .clock (by decide), report_entered _ _⟩

theorem perCore_laser {i : Nat} (h : i < 0x480) : perCore (0xA000 + i) = false := by
  simp only [perCore, Bool.or_eq_false_iff, decide_eq_false_iff_not]
  omega

theorem faultUOpen_frame (src : Nat) (s : State) : (faultUOpen src s).las = s.las ∧ (faultUOpen src s).banks = s.banks := by
  have hkeeps := faultUOpen_keeps src
    (T := [.boot, .dev, .faults, .db, .ports, .cmds, .graphs, .cairn, .out, .free]) rfl (Keeps.refl s)
  exact ⟨hkeeps.same .las (by decide), hkeeps.same .banks (by decide)⟩

theorem discardRuns_las (chip a : Nat) (s : State) : (discardRuns chip a s).las = s.las :=
  (discardRuns_keeps chip a (T := [.counts, .comp, .banks]) rfl (Keeps.refl s)).same .las (by decide)

theorem enterDark_las (chip a k : Nat) (spare : Bool) (s : State) : (enterDark chip a k spare s).las = s.las :=
  (enterDark_keeps chip a k spare (T := [.boot, .dev, .faults, .db, .ports, .cmds, .graphs, .counts, .comp, .banks, .cairn, .out])
    rfl (Keeps.refl s)).same .las (by decide)

/-- A primary line that is lost is off for good and leaves its array in dark-line mode. -/
theorem combLineLost_darkens (ha : a < 4) (hk : k < 32) (hlights : combLights (combPrimary chip a k) s = some a)
    (hdark : tget [] s.banks.dark (chip * 4 + a) = []) :
    (laserGet (combPrimary chip a k) (combLineLost (combPrimary chip a k) s)).fade = .failed ∧
      (laserGet (combPrimary chip a k) (combLineLost (combPrimary chip a k) s)).lit = false ∧
      tget [] (combLineLost (combPrimary chip a k) s).banks.dark (chip * 4 + a) = [k] := by
  have hoff := laserOff_off (combPrimary chip a k) (laserWorn (combPrimary chip a k) .failed s)
  have hwear := (laserWorn_wears (combPrimary chip a k) .failed s).1
  have hline : ∀ spare, (laserGet (combPrimary chip a k) (enterDark chip a k spare (discardRuns chip a
        (laserOff (combPrimary chip a k) (laserWorn (combPrimary chip a k) .failed s))))).fade = .failed ∧
      (laserGet (combPrimary chip a k) (enterDark chip a k spare (discardRuns chip a
        (laserOff (combPrimary chip a k) (laserWorn (combPrimary chip a k) .failed s))))).lit = false ∧
      tget [] (enterDark chip a k spare (discardRuns chip a
        (laserOff (combPrimary chip a k) (laserWorn (combPrimary chip a k) .failed s)))).banks.dark (chip * 4 + a) = [k] :=
    fun spare => by
      rw [laserGet_congr ((enterDark_las chip a k spare _).trans (discardRuns_las chip a _))]
      refine ⟨hoff.2.trans hwear, hoff.1, enterDark_dark k spare ?_⟩
      rw [discardRuns_dark]
      exact hdark
  unfold combLineLost
  dsimp only
  rw [hlights, combOf_combPrimary (by omega) hk]
  dsimp only
  split
  · rw [laserGet_startHandover_ne (combPrimary_ne_combSpare ha), startHandover_dark]
    exact hline _
  · exact hline _

theorem clusters_of_combChip {p : Nat} (hchip : chip < 4) (h : combChip p = chip) : p < 660 := by
  unfold combChip at h
  split at h <;> omega

theorem fenceChipBanks_fences {p c : Nat} (hchip : chip < 4) (hp : combChip p = chip) (hc : c < 16) (s : State) :
    Fenced (0x3000 + p) c (fenceChipBanks chip s) ∧ chip ∈ (fenceChipBanks chip s).banks.chipFenced := by
  have hlt := clusters_of_combChip hchip hp
  have hkey : fenceKey (0x3000 + p) c ∈ chipBankKeys chip := by
    refine List.mem_filterMap.mpr ⟨p * 16 + c, List.mem_range.mpr (by omega), ?_⟩
    rw [show (p * 16 + c) / 16 = p by omega, show (p * 16 + c) % 16 = c by omega, if_pos hp]
  have hmem : fenceKey (0x3000 + p) c ∈ sortBy (fun a b => decide (a ≤ b)) (s.faults.fenced ++
      (chipBankKeys chip).filter fun k => !s.faults.fenced.contains k) := by
    refine mem_sortBy.mpr (List.mem_append.mpr ?_)
    by_cases hin : fenceKey (0x3000 + p) c ∈ s.faults.fenced
    · exact .inl hin
    · exact .inr (List.mem_filter.mpr ⟨hkey, by simp [hin]⟩)
  have hdrop : ∀ (l : List Nat) (u : State), (l.foldl (fun t k => dropBank (k / 16) (k % 16) t) u).faults = u.faults :=
    fun l u => (Keeps.foldl (T := [.counts, .comp, .banks]) (l := l) (Keeps.refl u)
      fun t k ht => dropBank_keeps (k / 16) (k % 16) rfl ht).same .faults (by decide)
  unfold fenceChipBanks
  dsimp only
  refine ⟨?_, mem_setInsert.mpr (.inl rfl)⟩
  rw [Fenced, isFenced]
  dsimp only
  rw [hdrop]
  exact List.contains_iff_mem.mpr hmem

/-- A bank on the fence list takes no work. -/
theorem bankServes_of_fenced {p c : Nat} (h : Fenced (0x3000 + p) c s) : bankServes p c s = false := by
  unfold bankServes bankFenced
  rw [show isFenced (0x3000 + p) c s = true from h]
  simp

end

/-- Settles O38: each row of the comb lasers brings its spare in, pauses the array or takes the light out of service. -/
theorem combLasers : Obligations.CombLasers := by
  refine ⟨fun chip a k s hchip ha hk hok hfree hlights => ?_, fun chip a k t0 s hchip hk hover ht hnew hwave => ?_,
    fun chip a k t0 failing s hover hwant hnone hall => ?_, fun chip a k t0 t1 failing s hover hwant hpaused hsoon => ?_,
    fun chip a k t0 t1 s hover hwant hpaused ht => ?_, fun chip a k s hchip ha hk hok hlights hdark => ?_,
    fun chip s hchip hnew => ?_⟩
  · have hexec : exec (.combSparePoint (combPrimary chip a k)) s = .next (startHandover chip a k
        (faultCOpen (0xA000 + combPrimary chip a k) (laserWorn (combPrimary chip a k) .sparePoint s))) := by
      rw [← combSparePoint_warms ha hk hfree hlights]
      exact if_pos (by rw [isComb_combPrimary hchip ha hk, hok]; rfl)
    obtain ⟨hlit, hhand, hworn, hfaults⟩ := startHandover_starts chip a k
      (faultCOpen (0xA000 + combPrimary chip a k) (laserWorn (combPrimary chip a k) .sparePoint s))
    obtain ⟨hlas, hclock, hentered⟩ := faultCOpen_frame (0xA000 + combPrimary chip a k)
      (laserWorn (combPrimary chip a k) .sparePoint s)
    obtain ⟨hfade, hmem⟩ := laserWorn_wears (combPrimary chip a k) .sparePoint s
    refine ⟨_, hexec, ?_, hlit, hhand.trans (by rw [hclock]; rfl), ?_, ?_⟩
    · rw [laserGet_startHandover_ne (combPrimary_ne_combSpare ha), laserGet_congr hlas]
      exact hfade
    · rw [hworn, hlas]
      exact hmem
    · rw [hfaults, hentered]
      exact Nat.lt_succ_self _
  · refine ⟨_, execCombPauseRequest_pauses hk hchip hover ht hnew hwave, mem_wantPause _ _, fun p hp c hc hin hstate => ?_, ?_⟩
    · obtain ⟨hat, hoff⟩ := wantPause_pausing (lineKey chip k) (mapArray_askPause hp hc hin hstate)
      have hkeeps := keeps_wantPause (lineKey chip k) (mapArray_keeps (T := [.banks]) chip a
        (fun p c t ht => askPause_keeps p c ht) (Keeps.refl s))
      rw [atBoundary_congr (hkeeps.same .comp (by decide))] at hat hoff
      exact ⟨hat, hoff⟩
    · exact (keeps_wantPause _ (mapArray_keeps (T := [.banks]) chip a (fun p c t ht => askPause_keeps p c ht)
        (Keeps.refl s))).frame
  · have hexec : exec (.combHandoverPause chip k failing) s = .next (refreshDegraded (spareIn chip a k s)) := by
      change execCombHandoverPause chip k failing s = _
      unfold execCombHandoverPause
      rw [hover]
      dsimp only
      rw [hnone, if_neg (by simp [hwant])]
      refine if_neg fun hany => ?_
      obtain ⟨x, hx, hbusy⟩ := List.any_eq_true.mp hany
      rw [hall x hx] at hbusy
      exact absurd hbusy (by decide)
    refine ⟨_, hexec, ?_, ?_, ?_, ?_⟩
    · rw [refreshDegraded_banks]
      exact tget_tset_self 0 s.banks.spare (lineKey chip k) (a + 1)
    · rw [refreshDegraded_banks]
      exact tget_tset_self none s.banks.paused (lineKey chip k) (some s.clock.now)
    · rw [laserGet_congr (refreshDegraded_las _)]
      exact (laserOff_off _ _).1
    · rw [refreshDegraded_banks]
      rfl
  · change execCombHandoverPause chip k failing s = _
    unfold execCombHandoverPause
    rw [hover]
    dsimp only
    rw [hpaused, if_neg (by simp [hwant])]
    exact if_pos hsoon
  · have hexec : exec (.combHandoverPause chip k []) s = .next (pauseOver chip a k [] s) := by
      change execCombHandoverPause chip k [] s = _
      unfold execCombHandoverPause
      rw [hover]
      dsimp only
      rw [hpaused, if_neg (by simp [hwant])]
      exact if_neg (by omega)
    obtain ⟨hhand, hwanted⟩ := mapArray_endPause_handovers chip a (unpaused chip k s)
    rw [pauseOver_nil] at hexec
    refine ⟨_, hexec, ?_, ?_, fun p hp c hc hstate => ?_⟩
    · rw [refreshDegraded_banks, hwanted]
      simp [unpaused, setErase]
    · rw [refreshDegraded_banks, hhand, unpaused]
    · have hpaused' : (bankGet p c (unpaused chip k s)).state = .lightPause := hstate
      exact serves_refreshDegraded (mapArray_endPause hp hc hpaused')
  · have hexec : exec (.combLineFailure (combPrimary chip a k)) s = .next (combLineFail (combPrimary chip a k) s) :=
      if_pos (by rw [isComb_combPrimary hchip ha hk]; simpa using hok)
    obtain ⟨hlas, hbanks⟩ := faultUOpen_frame (0xA000 + combPrimary chip a k) s
    have hsmall : combPrimary chip a k < 0x480 := by simp only [combPrimary]; omega
    obtain ⟨hfade, hlit, hline⟩ := combLineLost_darkens (s := faultUOpen (0xA000 + combPrimary chip a k) s) ha hk
      (by rw [combLights_congr hbanks]; exact hlights) (by rw [hbanks]; exact hdark)
    exact ⟨_, hexec, hfade, hlit, hline, (fenced_faultUOpen (by omega) (perCore_laser hsmall) s).grows
      (combLineLost_grows _ (Grows.refl _))⟩
  · have hexec : exec (.combChipletFailure chip) s = .next (combChipFail chip s) := if_pos hchip
    have hnew' : s.banks.chipFenced.contains chip = false := by simpa using hnew
    refine ⟨_, hexec, ?_⟩
    unfold combChipFail
    dsimp only
    rw [hnew', if_neg (by decide), refreshDegraded_banks]
    refine ⟨(fenceChipBanks_fences (p := 2 * (chip / 2) * 165 + chip % 2 * 11) (c := 0) hchip ?_ (by decide) _).2, fun p c hp hc => ?_⟩
    · unfold combChip
      split <;> omega
    · exact bankServes_of_fenced ((fenceChipBanks_fences hchip hp hc _).1.grows (refreshDegraded_grows (Grows.refl _)))

end Sys2Proof.Machine

/-!
PROOFS. Link and port lasers (R301–R303): a spare that fails during a hand-over of its own wavelength.
-/

namespace Sys2Proof.Machine

/-- The spare of wavelength 0 of the first chiplet lights it, a hand-over of the same wavelength has its primary still on. -/
def spareHandedOver : State := { State.reset with las := { State.reset.las with
  spareIn := [0]
  handover := [(0, some { began := 0, primaryOff := false, waiting := [], switched := false })]
  laser := [(18, { lit := true })] } }

/-- Whether a laser is lit in the next state. -/
def litNext (i : Nat) : Step → Bool
  | .next t => (laserGet i t).lit
  | _ => false

theorem laserFailure_relights : litNext 18 (exec (.laserFailure 18) spareHandedOver) = true := by decide

/-- Refutes O39: a spare that fails while it lights its wavelength, in a hand-over whose primary is still on, is lit again as
the spare of the hand-over that its failure begins (R303). -/
theorem not_linkAndPortLasers : ¬ Obligations.LinkAndPortLasers := by
  rintro ⟨-, -, -, hfailure, -⟩
  obtain ⟨t, hexec, -, hlit, -⟩ := hfailure 18 spareHandedOver rfl rfl (by decide)
  have hrelit := laserFailure_relights
  rw [hexec] at hrelit
  exact absurd (hrelit.symm.trans hlit) (by decide)

end Sys2Proof.Machine

/-!
PROOFS. In-network collectives (R368, R370–R372).
-/

namespace Sys2Proof.Machine

section
variable {e : RedEntry} {m : CollMsg} {x : RedSlot} {s : State}

/-- A slot that has not reached its count is only stored. -/
theorem collStore_held {f : Flank} {coll chunk : Nat} (h : x.weight < expectedHere e chunk s) :
    collStore e f coll chunk x s = putSlot f coll chunk (some x) s := if_neg (by omega)

theorem collTakes_free {f : Flank} (he : tget none s.fab.tables m.coll = some e) (hslots : slotsOn f s < 4096) :
    collTakes f m false s = true := by
  simp [collTakes, he, hslots]

/-- A result that only this package's own members wait for, with no execution of the graph, is named and goes no
further. -/
theorem collDeliver_own (hrun : (slotGet e.graph s).running = none) :
    collDeliver e m [ownBranch] s = emit (.message s.fab.id 0x21 0 [m.coll, m.chunk, m.op, m.weight, bit m.poison]
      (m.elems.flatMap fun w => leBytes 4 w.toNat)) s := by
  have hrun' : ∀ o, (slotGet e.graph (emit o s)).running = none := fun _ => hrun
  change collLocal e m s = _
  unfold collLocal
  simp only [hrun']

theorem tget_putSlot_self {f : Flank} {coll chunk : Nat} {y : Option RedSlot} :
    tget none (putSlot f coll chunk y s).fab.slots (slotKey f coll chunk) = y := by
  simp [putSlot]

theorem sendColl_slots (type dst : Nat) : (sendColl type dst m s).fab.slots = s.fab.slots :=
  (congrArg Fab.slots (sendFlit_sendsOnly (collFlit type dst m s) (.refl s)).fab :)

end

/-- Settles O48: a slot short of its count is only stored, and one whose time has passed is freed or goes on poisoned. -/
theorem collectives : Obligations.Collectives := by
  refine ⟨fun f g m e s he hfind hslots hweight => ?_, fun f k m e x s he hfind hfwd hweight => ?_,
    fun f k m e x s he hfind hbranches hrun => ?_, fun f coll chunk x e s hslot he hdue hfwd => ?_,
    fun f coll chunk x e s hslot he hdue hfwd hroot => ?_⟩
  · refine congrArg Host.Outcome.next (?_ : collContrib f g m s = _)
    simp only [collContrib, he, hfind, collTakes_free he hslots, if_true]
    exact collStore_held hweight
  · refine congrArg Host.Outcome.next (?_ : collContrib f ownBranch m s = _)
    simp only [collContrib, he, hfind]
    rw [if_neg (by simp [hfwd]), if_neg (by decide)]
    exact collStore_held (x := combine ownBranch m x) hweight
  · have hexec : exec (.collResult f m) s = .next (collDeliver e m [ownBranch] (putSlot k m.coll m.chunk none s)) := by
      refine congrArg Host.Outcome.next (?_ : collResult m s = _)
      simp only [collResult, he, hfind, hbranches]
    rw [collDeliver_own (s := putSlot k m.coll m.chunk none s) hrun] at hexec
    exact ⟨_, hexec, rfl, rfl, (emit_keeps _ rfl (putSlot_keeps _ _ _ _ rfl (Keeps.refl s))).frame⟩
  · change execReductionSlotTimeout f coll chunk s = _
    simp only [execReductionSlotTimeout, hslot, he, hfwd, if_true]
    exact if_neg (by omega)
  · have hexec : exec (.reductionSlotTimeout f coll chunk) s =
        .next (collWhole e f coll chunk { x with poison := true } s) := by
      change execReductionSlotTimeout f coll chunk s = _
      simp only [execReductionSlotTimeout, hslot, he]
      rw [if_neg (by omega), if_neg (by simp [hfwd]), if_neg hroot]
    refine ⟨_, hexec, ?_⟩
    rw [collWhole, if_neg hroot, sendColl_slots]
    exact tget_putSlot_self

end Sys2Proof.Machine

/-!
PROOFS. The time of the fabric and the timebase (R373–R375, R408, R409).
-/

namespace Sys2Proof.Machine

section
variable {s : State}

theorem forcedFlit_type (srcs : List Nat) (f : Flit) (s : State) : (forcedFlit srcs f s).1.type = f.type := by
  unfold forcedFlit
  split
  · rfl
  · split <;> rfl

/-- A flit placed is the newest output. -/
theorem placeFlit_out (n : Nat) (f : Flit) (s : State) :
    ∃ g, (placeFlit n f s).out = s.out ++ [.flit n g] ∧ g.type = f.type := by
  have hcount : ∀ i u, (countLink n i 1 u).out = u.out := fun i u =>
    (countLink_keeps n i 1 (T := [.counts]) rfl (Keeps.refl u)).same .out (by decide)
  have hforced := (forcedFlit_keeps ((0x8000 + n) :: (List.range 18).map (0x7000 + n * 36 + ·)) f
    (T := [.faults]) rfl (Keeps.refl s)).same .out (by decide)
  have htype := forcedFlit_type ((0x8000 + n) :: (List.range 18).map (0x7000 + n * 36 + ·)) f s
  unfold placeFlit
  dsimp only
  generalize forcedFlit ((0x8000 + n) :: (List.range 18).map (0x7000 + n * 36 + ·)) f s = u at hforced htype ⊢
  obtain ⟨f', u⟩ := u
  change u.out = s.out at hforced
  refine ⟨linkFlit n f' u, ?_, htype⟩
  dsimp only
  split
  · split
    · rw [hcount, hcount, ← hforced]; rfl
    · rw [hcount, ← hforced]; rfl
  · rw [← hforced]; rfl

/-- Flits placed on every link of a list stand among the outputs, whatever else is sent in between. -/
theorem placeFlit_foldl_out (l : List Nat) (f : Nat → State → Flit) (ty : BitVec 8) (hf : ∀ n u, (f n u).type = ty) :
    ∀ u : State, ∃ a, (l.foldl (fun t n => placeFlit n (f n t) t) u).out = u.out ++ a ∧
      ∀ n ∈ l, ∃ g, .flit n g ∈ a ∧ g.type = ty := by
  induction l with
  | nil => exact fun u => ⟨[], (List.append_nil _).symm, fun n hn => absurd hn List.not_mem_nil⟩
  | cons k l ih =>
    intro u
    obtain ⟨g, hout, hg⟩ := placeFlit_out k (f k u) u
    obtain ⟨a, ha, hall⟩ := ih (placeFlit k (f k u) u)
    refine ⟨.flit k g :: a, by rw [List.foldl_cons, ha, hout, List.append_assoc]; rfl, fun n hn => ?_⟩
    rcases List.mem_cons.mp hn with rfl | hn
    · exact ⟨g, List.mem_cons_self, hg.trans (hf _ u)⟩
    · obtain ⟨g', hmem, hg'⟩ := hall n hn
      exact ⟨g', List.mem_cons_of_mem _ hmem, hg'⟩

/-- Becoming the master moves neither the time nor the date of the last TIME_SYNC. -/
theorem becomeMaster_times (s : State) :
    (becomeMaster s).clock.now = s.clock.now ∧ (becomeMaster s).clock.sentAt = s.clock.sentAt := by
  unfold becomeMaster
  split <;> exact ⟨rfl, rfl⟩

/-- What every TIME_SYNC puts into the clock: its stamps. -/
def stamped (n : Nat) (m : TimeMsg) (s : State) : State :=
  { s with clock := { s.clock with stamps := tset (0, 0) s.clock.stamps n (m.sent, m.received) } }

/-- What adopting a parent puts into the clock before the exchange's offset is used. -/
def parentTaken (n : Nat) (m : TimeMsg) (s : State) : State :=
  { s with clock := { s.clock with
    stamps := tset (0, 0) s.clock.stamps n (m.sent, m.received), parent := some n, master := m.master
    masterPriority := m.priority, hops := m.hops + 1, heard := s.clock.now } }

/-- A package of priority 255 offers no candidate (R373). -/
theorem ownCandidate_none (hown : s.clock.priority = 255) : ownCandidate s = none := by
  simp [ownCandidate, hown]

theorem adopts_of_parent {n : Nat} {m : TimeMsg} (hown : s.clock.priority = 255) (hp : m.priority < 255)
    (hm : m.master ≠ s.fab.id) (hparent : s.clock.parent = none ∨ s.clock.parent = some n) : adopts n m s = true := by
  rcases hparent with hparent | hparent
  · simp [adopts, bestCandidate, ownCandidate_none hown, hparent, hp, hm]
  · simp [adopts, bestCandidate, hparent, hp, hm]

/-- A package that offers no candidate of its own takes a TIME_SYNC it adopts as its parent's. -/
theorem timeArrives_of_adopts {n : Nat} {m : TimeMsg} (hown : s.clock.priority = 255) (hp : m.priority < 255)
    (hm : m.master ≠ s.fab.id) (hparent : s.clock.parent = none ∨ s.clock.parent = some n) :
    timeArrives n m s = match offsetOf m with
      | some off => discipline off (parentTaken n m s)
      | none => parentTaken n m s := by
  have hadopts : adopts n m (stamped n m s) = true := adopts_of_parent hown hp hm hparent
  have hcand : (ownCandidate (stamped n m s)).any (fun o => candLess o (m.priority, m.master)) = false := by
    rw [ownCandidate_none (s := stamped n m s) hown, Option.any_none]
  exact (if_neg (by rw [stamped] at hadopts; rw [hadopts]; decide)).trans
    (if_neg (by rw [stamped] at hcand; rw [hcand]; decide))

theorem parentTaken_keeps (n : Nat) (m : TimeMsg) (s : State) : Keeps [.clock] s (parentTaken n m s) :=
  keeps_setClock rfl (Keeps.refl s) _

theorem exec_timeSync {link : Nat} (m : TimeMsg) (hlink : link < 32) (hrx : (linkGet link s).rxActive = true) :
    exec (.timeSync link m) s = .next (timeArrives link m s) := if_pos (by simp [hlink, hrx])

/-- The slew of an interval stays within 100 ppm of it. -/
theorem slewIn_bounds (elapsed : Nat) (slew : Int) :
    -((elapsed / 10000 : Nat) : Int) ≤ slewIn elapsed slew ∧ slewIn elapsed slew ≤ ((elapsed / 10000 : Nat) : Int) := by
  unfold slewIn
  dsimp only
  omega

theorem slewIn_zero (elapsed : Nat) : slewIn elapsed 0 = 0 := by
  unfold slewIn
  rw [Int.zero_tdiv]
  dsimp only
  omega

end

/-- Settles O49: each row changes the clock's record as its rule says; the slew of an interval is a ten-thousandth of it at
most. -/
theorem timeDiscipline : Obligations.TimeDiscipline := by
  refine ⟨fun s hdue => ?_, fun link m s hlink hrx hp hm hparent hown hlocked hsent hrecv => ?_,
    fun link m off s hlink hrx hp hm hparent hown hlocked hoff hpos => ?_,
    fun link m off s hlink hrx hp hm hparent hown hlocked hoff hsmall => ?_,
    fun s hparent hheard => ?_, fun elapsed s => ?_⟩
  · let s1 := becomeMaster { s with clock := { s.clock with sentAt := s.clock.now } }
    have hs1 : Keeps [.clock] s s1 := becomeMaster_keeps rfl (keeps_setClock rfl (Keeps.refl s) _)
    obtain ⟨a, hout, hall⟩ := placeFlit_foldl_out ((List.range 32).filter fun n => linkUp n s1)
      (fun n t => mkFlit 0x03 0 0 t.fab.id 0 false (timeBytes n t)) 3 (fun _ _ => rfl) s1
    have hclock : ((((List.range 32).filter fun n => linkUp n s1).foldl (fun t n =>
        placeFlit n (mkFlit 0x03 0 0 t.fab.id 0 false (timeBytes n t)) t) s1)).clock = s1.clock :=
      (Keeps.foldl (T := [.faults, .counts, .links, .out]) (Keeps.refl s1) fun t n ht => placeFlit_keeps n _ rfl ht).same
        .clock (by decide)
    obtain ⟨hnow, hsent⟩ := becomeMaster_times { s with clock := { s.clock with sentAt := s.clock.now } }
    refine ⟨_, if_neg (by omega), by rw [hclock]; exact hsent, by rw [hclock]; exact hnow, fun n hn hup => ?_⟩
    obtain ⟨g, hmem, hg⟩ := hall n (List.mem_filter.mpr ⟨List.mem_range.mpr hn, by
      rw [linkUp, linkGet_congr (hs1.same .links (by decide))]
      simpa [linkUp] using hup⟩)
    refine ⟨g, ?_, hg⟩
    rw [hout, show s1.out = s.out from hs1.same .out (by decide), List.drop_left]
    exact hmem
  · have hoff : offsetOf m = none := by simp [offsetOf, hsent, hrecv]
    refine ⟨_, exec_timeSync m hlink hrx, ?_⟩
    rw [timeArrives_of_adopts hown hp hm (.inl hparent), hoff]
    exact ⟨rfl, rfl, rfl, rfl, hlocked, (parentTaken_keeps link m s).frame⟩
  · refine ⟨_, exec_timeSync m hlink hrx, ?_⟩
    rw [timeArrives_of_adopts hown hp hm (.inr hparent), hoff]
    dsimp only
    rw [discipline, if_pos (by simp [parentTaken, hlocked]), if_pos hpos]
    exact ⟨rfl, rfl, rfl, rfl, (keeps_setClock rfl (parentTaken_keeps link m s) _).frame⟩
  · refine ⟨_, exec_timeSync m hlink hrx, ?_⟩
    rw [timeArrives_of_adopts hown hp hm (.inr hparent), hoff]
    dsimp only
    rw [discipline, if_neg (by simp [parentTaken, hlocked]), if_neg (by omega)]
    exact ⟨rfl, rfl, rfl, rfl, (keeps_setClock rfl (parentTaken_keeps link m s) _).frame⟩
  · exact if_pos (by simp [hheard, Option.isSome_iff_ne_none, hparent])
  · obtain ⟨hlow, hhigh⟩ := slewIn_bounds elapsed s.clock.slew
    refine ⟨_, rfl, ?_, ?_, ?_, fun hslew => ?_, rfl, (keeps_setClock rfl (Keeps.refl s) _).frame⟩
    · exact Nat.le_add_right _ _
    · change s.clock.now + ((elapsed : Int) + slewIn elapsed s.clock.slew).toNat ≤ _
      omega
    · change _ ≤ s.clock.now + ((elapsed : Int) + slewIn elapsed s.clock.slew).toNat + _
      omega
    · change s.clock.now + ((elapsed : Int) + slewIn elapsed s.clock.slew).toNat = _
      rw [hslew, slewIn_zero]
      omega

end Sys2Proof.Machine

/-!
PROOFS. Sleep, lane tests and width changes of a link (R334, R335, R337, R339, R359).
-/

namespace Sys2Proof.Machine

section
variable {s t : State} {n : Nat} {x : LinkSt}

theorem width_of_linkCore {y : LinkSt} (h : linkCore x = linkCore y) : x.width = y.width := (congrArg LinkSt.width h :)

theorem change_of_linkCore {y : LinkSt} (h : linkCore x = linkCore y) : x.change = y.change :=
  (congrArg LinkSt.change h :)

theorem slot_of_linkCore {y : LinkSt} (h : linkCore x = linkCore y) : x.slot = y.slot := (congrArg LinkSt.slot h :)

theorem test_of_linkCore {y : LinkSt} (h : linkCore x = linkCore y) : x.test = y.test := (congrArg LinkSt.test h :)

/-- What a link end holds apart from what its flits move, after flits were sent or other areas written. -/
theorem linkCore_of_keeps {T : List Area} (h : linkCore (linkGet n s) = linkCore x) (hk : Keeps T s t)
    (hl : Area.links ∉ T) : linkCore (linkGet n t) = linkCore x := by
  rw [linkGet_congr (hk.same .links hl), h]

theorem linkCore_of_sendsOnly (h : linkCore (linkGet n s) = linkCore x) (hs : SendsOnly s t) :
    linkCore (linkGet n t) = linkCore x := (hs.links n).trans h

theorem exec_sleep_tx {link : Nat} {slot : BitVec 48} (hlink : link < 32) (htx : (linkGet link s).txActive = true)
    (hsleep : (linkGet link s).txSleep = false) : exec (.sleep link true slot) s =
      match (linkGet link s).sleepAt with
      | none => if (linkGet link s).stream = [] && (linkGet link s).moves = [] && (linkGet link s).slot + 16 ≤ slot.toNat
        then .next (announceSleep link slot.toNat s) else .next s
      | some a => if slot.toNat != a || (linkGet link s).wakeAt.isSome then .next s
        else if (linkGet link s).stream != [] then .next (wakeTx link s)
        else .next (linkSet link { linkGet link s with txSleep := true, slot := max (linkGet link s).slot a } s) := by
  change execSleep link true slot s = _
  unfold execSleep
  dsimp only
  rw [if_neg (by omega), if_pos rfl, if_neg (by simp [htx, hsleep])] <;> rfl

/-- A lane test whose run is closed on every channel that carried it. -/
def testClosed (link mask : Nat) (s : State) : State :=
  (bitsSet mask 18).foldl (fun u k => sendFiller link k (scrSlot (linkGet link s).slot) (sendBlocks link [k] 0x21 [] u))
    ((bitsSet mask 18).foldl (fun u k => testEnds (txi link k) (testEnds (rxi link k) u)) s)

theorem exec_laneTestDurationEnd {link pattern half mask until_ : Nat} (hlink : link < 32)
    (htest : (linkGet link s).test = some (pattern, half, mask, until_)) (hdue : until_ ≤ s.clock.now) :
    exec (.laneTestDurationEnd link) s = .next (enterTrain link .bivouac (nextSlot link (testClosed link mask s))) := by
  change execLaneTestDurationEnd link s = _
  unfold execLaneTestDurationEnd testClosed
  rw [htest]
  dsimp only
  rw [if_pos (by simp [hlink, hdue])]

/-- After the switch slot the link has its new width, and the change is over. -/
theorem switchWidth_links (n : Nat) (w : WidthChange) (s : State) :
    linkCore (linkGet n (switchWidth n w s)) = linkCore { linkGet n s with
      slot := max (linkGet n s).slot w.slot, width := some w.width, change := none
      excluded := w.exclude.foldl (fun acc k => setInsert k acc) (linkGet n s).excluded
      rxUsable := (linkGet n s).rxUsable.filter fun k => !w.far.contains k, stripe := 0
      stream := (linkGet n s).stream ++ [endBlock, startBlock (linkGet n s).lseq], moves := [], rxLanes := [], rxStripe := 0
      rxBlocks := [], rxLaneAt := [] } := by
  unfold switchWidth
  dsimp only
  refine linkCore_of_sendsOnly (linkCore_of_sendsOnly (linkCore_of_keeps (T := [.counts]) ?_
    (countLink_keeps n 11 1 rfl (Keeps.refl _)) (by decide)) (refreshDegraded_sendsOnly (SendsOnly.refl _)))
    (groupPump_sendsOnly _ (SendsOnly.refl _))
  refine linkCore_of_keeps (T := [.las, .chans]) (congrArg linkCore (linkGet_linkSet_self ..))
    (settleStates_keeps _ _ rfl (settleStates_keeps _ _ rfl (Keeps.foldl (bindLanes_keeps _ _ rfl
      (bindLanes_keeps _ _ rfl (Keeps.refl _))) fun u k hu => afterExclusion_keeps n k rfl hu))) (by decide)

end

/-- Settles O44: each row writes the link's or the channel's record as its rule says. -/
theorem sleepTestsAndWidth : Obligations.SleepTestsAndWidth := by
  refine ⟨fun link slot s hlink htx hsleep hat hstream hmoves hslot => ?_,
    fun link slot s hlink htx hsleep hat hwake hstream => ?_, fun link slot s hlink hrx => ?_,
    fun link slot s hlink hwake => ?_, fun link ch slot s hlink hch hsleep hslot => ?_,
    fun link ch s hlink hch hsleep hlocked => ?_, fun inst pattern s hinst hone hfour => ?_, fun inst s hinst => ?_,
    fun link pattern half mask until_ s hlink htest hdue => ?_, fun link own r s hlink hup hchange hown => ?_,
    fun link r m s hlink hchange hmine hagreed => ?_, fun link w s hlink hchange hagreed => ?_⟩
  · refine ⟨announceSleep link slot.toNat s, ?_, ?_⟩
    · rw [exec_sleep_tx hlink htx hsleep, hat]
      exact if_pos (by simp [hstream, hmoves, hslot])
    · have hkeeps : Keeps [.chans] (linkSet link { linkGet link s with sleepAt := some slot.toNat, stream := [endBlock] } s)
          (announceSleep link slot.toNat s) := sendBlocks_keeps _ _ _ _ rfl (Keeps.refl _)
      have hlink := (linkGet_congr (hkeeps.same .links (by decide)) link).trans (linkGet_linkSet_self ..)
      exact ⟨by rw [hlink], by rw [hlink],
        (sendBlocks_keeps link _ _ _ rfl (keeps_setLinks rfl (Keeps.refl s) _)).frame⟩
  · rw [exec_sleep_tx hlink htx hsleep, hat]
    dsimp only
    rw [if_neg (by simp [hwake]), if_neg (by simp [hstream])]
  · change execSleep link false slot s = _
    unfold execSleep
    dsimp only
    rw [if_neg (by omega), if_neg (by decide), if_pos hrx]
  · change execWake link true slot s = _
    unfold execWake
    dsimp only
    rw [if_neg (by omega), if_pos rfl, hwake]
    exact if_pos rfl
  · refine (if_pos (by simp [hlink, hch])).trans (congrArg Host.Outcome.next (?_ : beaconSeen link ch slot.toNat s = _))
    exact if_pos (by simp [hsleep, hslot])
  · exact if_pos (by simp [hlink, hch, hsleep, hlocked])
  · refine (if_pos hinst).trans (congrArg Host.Outcome.next (?_ : testStarts inst pattern s = _))
    exact if_neg (by simp; omega)
  · exact if_pos hinst
  · have hmine := (enterTrain_becomes (st := .bivouac) (by decide) link (nextSlot link (testClosed link mask s))).mine
    exact ⟨_, exec_laneTestDurationEnd hlink htest hdue, st_of_linkCore hmine, test_of_linkCore hmine⟩
  · refine ⟨widthAsked link r s, if_pos (by simp [hlink, hup]), ?_⟩
    have hout : widthOutcome link r s =
        some ⟨min (min r.width own) (widthOf link s), heldBack link s, r.slot.toNat, false, true, r.exclude⟩ := by
      unfold widthOutcome
      dsimp only
      rw [hchange]
      dsimp only
      rw [hown]
      rfl
    unfold widthAsked
    rw [hout]
    exact (congrArg LinkSt.change (linkCore_of_sendsOnly (congrArg linkCore (linkGet_linkSet_self ..))
      (placeFlit_sendsOnly _ _ (SendsOnly.refl _))) :)
  · refine (if_pos hlink).trans (congrArg Host.Outcome.next (?_ : widthAnswered link r s = _))
    unfold widthAnswered
    dsimp only
    rw [hchange]
    exact if_pos (by simp [hmine, hagreed])
  · refine ⟨switchWidth link w s, ?_, ?_⟩
    · change execWidthSwitch link s = _
      unfold execWidthSwitch
      rw [hchange]
      exact if_pos (by simp [hlink, hagreed])
    · have hmine := switchWidth_links link w s
      exact ⟨width_of_linkCore hmine, change_of_linkCore hmine, slot_of_linkCore hmine⟩

end Sys2Proof.Machine

/-!
PROOFS. Flits in sequence, their acknowledgement and replay, and a fabric in which nothing can move (R346–R348, R356).
-/

namespace Sys2Proof.Machine

/-- Nothing stands in an output queue, waits for a credit or has landed. -/
structure FabricStill (s : State) : Prop where
  outq : s.fab.outq = []
  waiting : s.fab.waiting = []
  sysWaiting : s.fab.sysWaiting = []
  landing : ∀ n, (linkGet n s).landing = []

section
variable {s s0 t : State} {n : Nat} {f : Flit}

theorem FabricQuiet.still (h : FabricQuiet s) : FabricStill s := by
  obtain ⟨hq, hw, hs, hl⟩ := h
  refine ⟨hq, hw, hs, fun n => ?_⟩
  rcases tget_of_all (d := ({} : LinkSt)) (l := s.links) (k := n) (q := fun x => x.landing.isEmpty) (List.all_eq_true.mpr fun e he =>
    List.isEmpty_iff.mpr (hl e he)) with hempty | hdefault
  · exact List.isEmpty_iff.mp hempty
  · rw [linkGet, hdefault]

theorem FabricStill.linkSet (h : FabricStill s) {x : LinkSt} (hx : x.landing = (linkGet n s).landing) :
    FabricStill (linkSet n x s) := by
  refine ⟨h.outq, h.waiting, h.sysWaiting, fun m => ?_⟩
  by_cases hm : m = n
  · rw [hm, linkGet_linkSet_self, hx, h.landing]
  · rw [linkGet_linkSet_ne hm, h.landing]

/-- With nothing that waits, a retry sends nothing. -/
theorem fabricRetry_none (hw : s.fab.waiting = []) (hs : s.fab.sysWaiting = []) : fabricRetry s = s := by
  unfold fabricRetry retryWaiting
  rw [hs]
  dsimp only [List.foldl_nil]
  rw [hw]
  dsimp only [List.foldl_nil]
  rw [← hw]

/-- With nothing to move, the fabric's pump moves nothing. -/
theorem fabricPump_still (h : FabricStill s) : fabricPump s = s := by
  have hfold : ∀ (l : List Nat) (p : Nat → State → State), (∀ k, p k s = s) → l.foldl (fun t k => p k t) s = s := by
    intro l p hp
    induction l with
    | nil => rfl
    | cons k l ih => rw [List.foldl_cons, hp, ih]
  have hgroup : ∀ g, groupPump g s = s := fun g =>
    hfold _ (fun v t => outPump g v (tget [] t.fab.outq (outKey g v)).length t) fun v => by rw [h.outq]; rfl
  have hland : ∀ n, landPump n s = s := fun n => if_pos (h.landing n)
  unfold fabricPump
  dsimp only
  rw [hfold _ groupPump hgroup, hfold _ landPump hland]
  exact fabricRetry_none h.waiting h.sysWaiting

/-! ## Flits of the link itself -/

/-- The record of a link end after it sent one of its own flits, outside the sequence. -/
def ownFlitSent (g : Flit) (now : Nat) (l : LinkSt) : LinkSt :=
  { l with ackAt := now, replayReq := false, stream := l.stream ++ flitBlocks g }

/-- IDLE_ACK goes out at once with the acknowledgement of the link, and takes no place in the sequence. -/
theorem sendIdleAck_eq (n : Nat) (s : State) : ∃ g, g.type = 0 ∧ g.lack = (linkGet n s).expect - 1 ∧
    sendIdleAck n s = emit (.flit n g) (linkSet n (ownFlitSent g s.clock.now (linkGet n s)) s) :=
  ⟨linkFlit n (mkFlit 0x00 0 0 s.fab.id 0 false []) s, rfl, rfl, rfl⟩

theorem exec_flitReceive (hlink : n < 32) (hrx : (linkGet n s).rxActive = true) :
    exec (.flitReceive n f) s = .next (flitArrives n f s) := if_pos (by simp [hlink, hrx])

/-- A link's first gap is named at once. -/
theorem noteGap_first (hgap : (linkGet n s).gapAt = none) :
    noteGap n s = (fun s1 : State => if (linkGet n s).txActive then sendIdleAck n s1 else s1)
      (linkSet n { linkGet n s with gapAt := some s.clock.now, replayReq := true } s) := by
  unfold noteGap
  dsimp only
  rw [hgap]
  exact if_neg Bool.false_ne_true

theorem noteGap_first_frame (hgap : (linkGet n s).gapAt = none) :
    (linkGet n (noteGap n s)).expect = (linkGet n s).expect ∧
      (linkGet n (noteGap n s)).gapAt = some s.clock.now ∧
      (linkGet n (noteGap n s)).landing = (linkGet n s).landing ∧ Keeps [.links, .out] s (noteGap n s) := by
  rw [noteGap_first hgap]
  dsimp only
  have hset : Keeps [.links, .out] s
      (linkSet n { linkGet n s with gapAt := some s.clock.now, replayReq := true } s) :=
    keeps_setLinks rfl (Keeps.refl s) _
  have hget := linkGet_linkSet_self n { linkGet n s with gapAt := some s.clock.now, replayReq := true } s
  generalize linkSet n { linkGet n s with gapAt := some s.clock.now, replayReq := true } s = u at hset hget ⊢
  split
  · obtain ⟨g, -, -, hg⟩ := sendIdleAck_eq n u
    have hafter : linkGet n (sendIdleAck n u) = ownFlitSent g u.clock.now (linkGet n u) := by
      rw [hg]
      exact linkGet_linkSet_self n _ u
    rw [hafter, hget]
    refine ⟨rfl, rfl, rfl, ?_⟩
    rw [hg]
    exact emit_keeps _ rfl (keeps_setLinks rfl hset _)
  · rw [hget]
    exact ⟨rfl, rfl, rfl, hset⟩

/-! ## What a good flit tells the link -/

theorem linkGet_takeLack (n : Nat) (lack : BitVec 32) (s : State) :
    (linkGet n (takeLack n lack s)).replay = (linkGet n s).replay.filter (fun x => above x.lseq lack) ∧
      (linkGet n (takeLack n lack s)).expect = (linkGet n s).expect ∧
      (linkGet n (takeLack n lack s)).pauseIn = (linkGet n s).pauseIn := by
  unfold takeLack
  dsimp only
  split
  case isTrue hall =>
    exact ⟨(List.filter_eq_self.mpr fun x hx => List.length_filter_eq_length_iff.mp hall x hx).symm, rfl, rfl⟩
  case isFalse =>
    rw [linkGet_linkSet_self]
    exact ⟨rfl, rfl, rfl⟩

theorem takeLack_still (lack : BitVec 32) (h : FabricStill s) : FabricStill (takeLack n lack s) := by
  unfold takeLack
  dsimp only
  split
  · exact h
  · exact h.linkSet rfl

/-- A flit without PAUSE on a link that no far end paused only notes it. -/
theorem takePause_none (hpause : (linkGet n s).pauseIn = 0) :
    takePause n 0 s = linkSet n { linkGet n s with pauseIn := 0, pausedAt := s.clock.now } s := by
  unfold takePause
  dsimp only
  rw [if_neg (by simp [hpause]), if_pos hpause]

/-- A good flit without PAUSE and REPLAY_REQ frees the replay buffer and moves nothing else. -/
theorem takeLinkFields_frame (hp : f.pause = 0) (hreq : f.lflags.getLsbD 4 = false) (hpause : (linkGet n s).pauseIn = 0) :
    (linkGet n (takeLinkFields n f s)).replay = (linkGet n s).replay.filter (fun x => above x.lseq f.lack) ∧
      (linkGet n (takeLinkFields n f s)).expect = (linkGet n s).expect ∧ Keeps [.links] s (takeLinkFields n f s) ∧
      (FabricStill s → FabricStill (takeLinkFields n f s)) := by
  obtain ⟨hreplay, hexpect, hpauseIn⟩ := linkGet_takeLack n f.lack s
  have hfields : takeLinkFields n f s = linkSet n { linkGet n (takeLack n f.lack s) with
      pauseIn := 0, pausedAt := (takeLack n f.lack s).clock.now } (takeLack n f.lack s) := by
    rw [← takePause_none (hpauseIn.trans hpause)]
    unfold takeLinkFields
    rw [hp, hreq]
    rfl
  rw [hfields, linkGet_linkSet_self]
  exact ⟨hreplay, hexpect, keeps_setLinks rfl (takeLack_keeps n f.lack rfl (Keeps.refl s)) _,
    fun h => (takeLack_still f.lack h).linkSet rfl⟩

/-! ## A flit in sequence -/

/-- With no poison forced, a flit comes through as it is. -/
theorem forcedFlit_none (srcs : List Nat) (h : s.faults.poisonNext = []) : forcedFlit srcs f s = (f, s) := by
  have hfind : (srcs.find? fun src => forcedD src 0 s) = none :=
    List.find?_eq_none.mpr fun x _ => by simp [forcedD, h]
  unfold forcedFlit
  rw [hfind, ite_self]

/-- A flit ahead of what its group's window delivers next is only held. -/
theorem windowTake_held
    (hnext : f.gseq.toNat ≠ tget 0 s.fab.gnext (linkGroup n))
    (hwindow : (f.gseq.toNat + 2 ^ 32 - tget 0 s.fab.gnext (linkGroup n)) % 2 ^ 32 < 32768)
    (hheld : ∀ h ∈ tget [] s.fab.window (linkGroup n), h.gseq ≠ f.gseq ∧
      h.gseq.toNat ≠ tget 0 s.fab.gnext (linkGroup n)) :
    windowTake n f s = { s with fab := { s.fab with
      window := tset [] s.fab.window (linkGroup n) (tget [] s.fab.window (linkGroup n) ++ [f]) } } := by
  have hnone : ((tget [] s.fab.window (linkGroup n) ++ [f]).find? fun h =>
      h.gseq.toNat = tget 0 s.fab.gnext (linkGroup n)) = none := by
    rw [List.find?_eq_none]
    intro x hx
    rcases List.mem_append.mp hx with hx | hx
    · simpa using (hheld x hx).2
    · rw [List.mem_singleton.mp hx]
      simpa using hnext
  unfold windowTake
  dsimp only
  rw [if_pos (by
    simp only [Bool.and_eq_true, decide_eq_true_eq, Bool.not_eq_true', List.any_eq_false]
    exact ⟨hwindow, fun x hx => (hheld x hx).1⟩)]
  unfold windowDrain
  simp only [tget_tset_self, hnone]

/-! ## Replay -/

/-- What a flit sent again leaves: the link's replay buffer and its dates, with one more output. -/
theorem resend_frame (n : Nat) (f : Flit) (s : State) : (linkGet n (resend n f s)).replay = (linkGet n s).replay ∧
    (linkGet n (resend n f s)).replays = (linkGet n s).replays ∧
    (linkGet n (resend n f s)).lackAt = (linkGet n s).lackAt ∧ (resend n f s).out.length = s.out.length + 1 := by
  have hget : linkGet n (resend n f s) = ownFlitSent (againFlit n f s) s.clock.now (linkGet n s) :=
    linkGet_linkSet_self n _ s
  rw [hget]
  exact ⟨rfl, rfl, rfl, List.length_append⟩

theorem resend_foldl_frame (n : Nat) (l : List Flit) :
    ∀ s : State, (linkGet n (l.foldl (fun t f => resend n f t) s)).replay = (linkGet n s).replay ∧
      (linkGet n (l.foldl (fun t f => resend n f t) s)).replays = (linkGet n s).replays ∧
      (linkGet n (l.foldl (fun t f => resend n f t) s)).lackAt = (linkGet n s).lackAt ∧
      (l.foldl (fun t f => resend n f t) s).out.length = s.out.length + l.length := by
  induction l with
  | nil => exact fun s => ⟨rfl, rfl, rfl, rfl⟩
  | cons f l ih =>
    intro s
    obtain ⟨hreplay, hreplays, hlack, hout⟩ := resend_frame n f s
    obtain ⟨h1, h2, h3, h4⟩ := ih (resend n f s)
    refine ⟨h1.trans hreplay, h2.trans hreplays, h3.trans hlack, ?_⟩
    rw [List.foldl_cons, h4, hout, List.length_cons]
    omega

/-- A replay short of the eighth in a row sends every kept flit once more. -/
theorem goBack_frame (hkept : (linkGet n s).replay ≠ []) (htx : (linkGet n s).txActive = true)
    (hfew : (linkGet n s).replays < 7) :
    (linkGet n (goBack n s)).replays = (linkGet n s).replays + 1 ∧
      (linkGet n (goBack n s)).replay = (linkGet n s).replay ∧ (linkGet n (goBack n s)).lackAt = s.clock.now ∧
      (goBack n s).out.length = s.out.length + (linkGet n s).replay.length ∧
      Keeps [.counts, .links, .out] s (goBack n s) := by
  let s1 := linkSet n { linkGet n s with replays := (linkGet n s).replays + 1, lackAt := s.clock.now } s
  let s2 := (linkGet n s).replay.foldl (fun t f => resend n f t) s1
  have hback : goBack n s = countLink n 4 (linkGet n s).replay.length (countLink n 3 1 s2) := by
    unfold goBack
    dsimp only
    rw [if_neg (by simp [hkept, htx]), if_neg (by omega)]
  have hcounts : Keeps [.counts] s2 (goBack n s) := by
    rw [hback]
    exact countLink_keeps _ _ _ rfl (countLink_keeps _ _ _ rfl (Keeps.refl s2))
  obtain ⟨hreplay, hreplays, hlack, hout⟩ := resend_foldl_frame n (linkGet n s).replay s1
  have hget : linkGet n s1 = { linkGet n s with replays := (linkGet n s).replays + 1, lackAt := s.clock.now } :=
    linkGet_linkSet_self n _ s
  rw [hget] at hreplay hreplays hlack
  rw [linkGet_congr (hcounts.same .links (by decide)), show (goBack n s).out = s2.out from hcounts.same .out (by decide)]
  have hs1 : Keeps [.counts, .links, .out] s s1 := keeps_setLinks rfl (Keeps.refl s) _
  refine ⟨hreplays, hreplay, hlack, hout, ?_⟩
  rw [hback]
  exact countLink_keeps _ _ _ rfl (countLink_keeps _ _ _ rfl (Keeps.foldl hs1 fun t f ht => resend_keeps n f rfl ht))

end

/-- Settles O45: the link's record moves as the flit's fields say, and with nothing else to move the pump does nothing. -/
theorem flitsAndReplay : Obligations.FlitsAndReplay := by
  refine ⟨fun link f s hlink hrx hcrc hgap => ?_, fun link f s hlink hrx hcrc htype hpause hflags hquiet hin => ?_,
    fun link f s hlink hrx hcrc hseq hne1 hne2 hknown hpause hreq hquiet hin hlseq hpoison hnext hwindow hheld => ?_,
    fun link s hlink htx hsleep hdue => ?_, fun link s hlink htx hkept hdue hfew => ?_⟩
  · refine ⟨_, exec_flitReceive hlink hrx, ?_⟩
    have harrives : flitArrives link f s = noteGap link (countLink link 5 1 s) := if_pos (by simpa using hcrc)
    have hcount : Keeps [.counts, .links, .out] s (countLink link 5 1 s) := countLink_keeps _ _ _ rfl (Keeps.refl s)
    have hlinks := linkGet_congr ((countLink_keeps link 5 1 (T := [.counts]) rfl (Keeps.refl s)).same .links (by decide)) link
    obtain ⟨hexpect, hnoted, hlanding, hkeeps⟩ := noteGap_first_frame (s := countLink link 5 1 s) (hlinks ▸ hgap)
    rw [harrives, hexpect, hnoted, hlanding, hlinks]
    refine ⟨rfl, ?_, rfl, (hcount.trans (hkeeps.weaken (by decide))).frame⟩
    rw [show (countLink link 5 1 s).clock = s.clock from hcount.same .clock (by decide)]
  · refine ⟨_, exec_flitReceive hlink hrx, ?_⟩
    obtain ⟨hreplay, hexpect, hkeeps, hstill⟩ := takeLinkFields_frame (f := f) hpause (by rw [hflags]; decide) hin
    have harrives : flitArrives link f s = takeLinkFields link f s := by
      unfold flitArrives
      rw [if_neg (by simpa using hcrc)]
      dsimp only
      rw [if_pos (by simp [flitUnsequenced, htype]), fabricPump_still (hstill hquiet.still)]
    rw [harrives]
    exact ⟨hreplay, hexpect, hkeeps.frame⟩
  · refine ⟨_, exec_flitReceive hlink hrx, ?_⟩
    obtain ⟨-, hexpect, hkeeps, hstill⟩ := takeLinkFields_frame (f := f) hpause hreq hin
    have hfab := hkeeps.same .fab (by decide)
    have hfaults := hkeeps.same .faults (by decide)
    have hstill := hstill hquiet.still
    have harrives : flitArrives link f s = fabricPump (acceptFlit link f (takeLinkFields link f s)) := by
      unfold flitArrives
      rw [if_neg (by simpa using hcrc)]
      dsimp only
      rw [if_neg (by simp [hseq]), if_pos (hlseq.trans hexpect.symm)]
    generalize takeLinkFields link f s = u at hexpect hkeeps hfab hfaults hstill harrives
    let v := countLink link 1 1 (linkSet link { linkGet link u with expect := (linkGet link u).expect + 1, gapAt := none } u)
    have hcount : Keeps [.counts] (linkSet link { linkGet link u with expect := (linkGet link u).expect + 1, gapAt := none } u) v :=
      countLink_keeps _ _ _ rfl (Keeps.refl _)
    have hvfab : v.fab = s.fab := (hcount.same .fab (by decide)).trans hfab
    have hvlinks := hcount.same .links (by decide)
    have hvstill : FabricStill v := by
      have hset : FabricStill (linkSet link { linkGet link u with expect := (linkGet link u).expect + 1, gapAt := none } u) :=
        hstill.linkSet rfl
      have hvu := hcount.same .fab (by decide)
      exact ⟨(congrArg Fab.outq hvu).trans hset.outq, (congrArg Fab.waiting hvu).trans hset.waiting,
        (congrArg Fab.sysWaiting hvu).trans hset.sysWaiting, fun n => (congrArg LinkSt.landing (linkGet_congr hvlinks n)).trans
          (hset.landing n)⟩
    have haccept : acceptFlit link f u = { v with fab := { v.fab with
        window := tset [] v.fab.window (linkGroup link) (tget [] v.fab.window (linkGroup link) ++ [f]) } } := by
      rw [← windowTake_held (n := link) (f := f) (s := v) (hvfab ▸ hnext) (hvfab ▸ hwindow) (hvfab ▸ hheld)]
      unfold acceptFlit
      dsimp only
      rw [if_neg hne1, if_neg hne2, if_neg (by simp [hknown]), forcedFlit_none _ (by
        rw [show v.faults = u.faults from hcount.same .faults (by decide), hfaults, hpoison])]
    have hend : flitArrives link f s = { v with fab := { v.fab with
        window := tset [] v.fab.window (linkGroup link) (tget [] v.fab.window (linkGroup link) ++ [f]) } } := by
      rw [harrives, haccept]
      exact fabricPump_still ⟨hvstill.outq, hvstill.waiting, hvstill.sysWaiting, hvstill.landing⟩
    rw [hend]
    refine ⟨?_, ?_, ?_⟩
    · change (linkGet link v).expect = _
      rw [linkGet_congr hvlinks, linkGet_linkSet_self, hlseq, hexpect]
    · change tget [] (tset [] v.fab.window (linkGroup link) _) (linkGroup link) = _
      rw [tget_tset_self, hvfab]
    · exact (keeps_setFab rfl (countLink_keeps link 1 1 rfl (keeps_setLinks rfl (hkeeps.weaken (by decide)) _)) _).frame
  · obtain ⟨g, htype, hlack, hsent⟩ := sendIdleAck_eq link s
    refine ⟨_, g, if_pos (by simp [hlink, htx, hsleep, hdue]), ?_⟩
    rw [hsent]
    refine ⟨rfl, htype, hlack, ?_, (emit_keeps _ rfl (keeps_setLinks rfl (Keeps.refl s) _)).frame⟩
    exact congrArg LinkSt.ackAt (linkGet_linkSet_self link (ownFlitSent g s.clock.now (linkGet link s)) s)
  · obtain ⟨hreplays, hreplay, hlack, hout, hkeeps⟩ := goBack_frame hkept htx hfew
    exact ⟨_, if_pos (by simp [hlink, hdue]), hreplays, hreplay, hlack, hout, hkeeps.frame⟩

end Sys2Proof.Machine

/-!
PROOFS. End-to-end credits of source and destination (R352–R354, R368).
-/

namespace Sys2Proof.Machine

section
variable {s s0 t : State} {pkg vc : Nat} {e : CreditEntry} {f : Flit}

theorem tget_tset_none_self {α : Type} [DecidableEq α] (tab : Tab (Option α)) (k : Nat) (v : Option α) :
    tget none (tset none tab k v) k = v := tget_tset_self none tab k v

theorem dstEntry_dstSet_self (x : Option CreditEntry) (s : State) : dstEntry pkg vc (dstSet pkg vc x s) = x :=
  tget_tset_none_self ..

theorem tget_askSet_self (x : Option CreditAsk) (s : State) :
    tget none (askSet pkg vc x s).fab.asks (entryKey pkg vc) = x := tget_tset_none_self ..

/-! ## Routing leaves the destination side and the credit requests alone -/

theorem dst_of_sendsOnly (h : SendsOnly s t) : t.fab.dst = s.fab.dst := (congrArg Fab.dst h.fab :)

theorem placeFlit_fab (n : Nat) (f : Flit) (s : State) : (placeFlit n f s).fab = s.fab :=
  (placeFlit_keeps n f (T := [.faults, .counts, .links, .out]) rfl (Keeps.refl s)).same .fab (by decide)

theorem outPump_asks (g v k : Nat) : ∀ s : State, (outPump g v k s).fab.asks = s.fab.asks := by
  induction k with
  | zero => exact fun _ => rfl
  | succ k ih =>
    intro s
    unfold outPump
    split
    · split
      · dsimp only
        rw [ih, placeFlit_fab]
        rfl
      · rfl
    · rfl

theorem groupPump_asks (g : Nat) (s : State) : (groupPump g s).fab.asks = s.fab.asks := by
  unfold groupPump
  generalize List.range 8 = l
  exact List.foldlRecOn (motive := fun u : State => u.fab.asks = s.fab.asks) l _ rfl
    fun u hu v _ => (outPump_asks g v _ u).trans hu

theorem faultDOpen_fab (src : Nat) (s : State) : (faultDOpen src s).fab = s.fab :=
  (faultDOpen_keepsMinor src (T := [.faults, .db, .ports, .cmds, .cairn, .out, .free]) rfl (Keeps.refl s)).same .fab
    (by decide)

theorem asks_of_full_or_gone {c : Prop} [Decidable c] {u : State} (hu : u.fab.asks = s.fab.asks)
    (hr : (if c then Routed.full else .gone u) = .gone t ∨ (if c then Routed.full else .gone u) = .refused t) :
    t.fab.asks = s.fab.asks := by
  split at hr
  · rcases hr with hr | hr <;> cases hr
  · rcases hr with hr | hr <;> cases hr
    exact hu

theorem routeFlit_asks {ring : Option Nat} (hr : routeFlit ring f s = .gone t ∨ routeFlit ring f s = .refused t) :
    t.fab.asks = s.fab.asks := by
  unfold routeFlit at hr
  split at hr
  · rcases hr with hr | hr <;> cases hr
  · rcases hr with hr | hr <;> cases hr
    rfl
  · rcases hr with hr | hr <;> cases hr
    rw [faultDOpen_fab]
    rfl
  · refine asks_of_full_or_gone ((groupPump_asks _ _).trans ?_) hr
    split <;> rfl

/-- A flit of this package that goes into the fabric is no credit request answered. -/
theorem launch_asks (f : Flit) (s : State) : (launch f s).fab.asks = s.fab.asks := by
  unfold launch
  split
  case h_1 u hu => exact routeFlit_asks (.inl hu)
  case h_2 u hu => exact routeFlit_asks (.inr hu)
  case h_3 => rfl
  case h_4 => rfl

/-! ## The destination -/

/-- A total that the fabric took is the total told. -/
theorem tellCredit_told (he : dstEntry pkg vc s = some e)
    (hr : ∃ t, routeFlit none (mkFlit 0x1A 1 pkg s.fab.id 0 false
      (leBytes 1 vc ++ leBytes 1 (bit e.closing) ++ zeros 2 ++ leBytes 4 e.granted.toNat)) s = .gone t) :
    dstEntry pkg vc (tellCredit pkg vc s) = some { e with told := e.granted, toldAt := s.clock.now } := by
  obtain ⟨t, ht⟩ := hr
  unfold tellCredit
  rw [he]
  dsimp only
  rw [ht]
  exact dstEntry_dstSet_self _ t

/-- Telling a total changes neither the total nor whether the entry closes. -/
theorem tellCredit_entry (he : dstEntry pkg vc s = some e) :
    ∃ x, dstEntry pkg vc (tellCredit pkg vc s) = some x ∧ x.granted = e.granted ∧ x.closing = e.closing := by
  unfold tellCredit
  rw [he]
  dsimp only
  split
  · exact ⟨e, he, rfl, rfl⟩
  · exact ⟨e, he, rfl, rfl⟩
  · exact ⟨_, dstEntry_dstSet_self _ _, rfl, rfl⟩
  · exact ⟨_, dstEntry_dstSet_self _ _, rfl, rfl⟩

/-- With its queues empty, a package that the fabric reaches takes a CREDIT flit at once. -/
theorem routeFlit_reaches (hq : s.fab.outq = []) (hvc : flitVc f < 4) (hdst : f.dst.toNat % 2 ^ 20 = pkg)
    (hleads : LeadsTo pkg s) : ∃ t, routeFlit none f s = .gone t := by
  obtain ⟨g, h, hroute⟩ := hleads f hdst hvc
  have hstart : escapeStart f s = 0 := if_neg (by omega)
  have hroom : ∀ v, outRoom g v s = 256 := fun v => by
    unfold outRoom
    rw [hq]
    rfl
  unfold routeFlit
  rw [hstart, hroute]
  dsimp only
  rw [hroom, if_neg (by split <;> omega)]
  exact ⟨_, rfl⟩

theorem freeClosed_open (he : dstEntry pkg vc s = some e) (hopen : e.closeAt ≠ some e.consumed) :
    freeClosed pkg vc s = s := by
  unfold freeClosed
  rw [he]
  exact if_neg (by simp [hopen])

theorem freeClosed_whole (he : dstEntry pkg vc s = some e) (hclosing : e.closing = true)
    (hwhole : e.closeAt = some e.consumed) : freeClosed pkg vc s = dstSet pkg vc none s := by
  unfold freeClosed
  rw [he]
  exact if_pos (by simp [hclosing, hwhole])

theorem closeAcked_closing {total : BitVec 32} (he : dstEntry pkg vc s = some e) (hclosing : e.closing = true) :
    closeAcked pkg vc total s = freeClosed pkg vc (dstSet pkg vc (some { e with closeAt := some total }) s) := by
  unfold closeAcked
  rw [he]
  exact if_pos hclosing

/-! ## The source -/

/-- A CREDIT_REQ sent is remembered with a tag of its own and not refused. -/
theorem askCredit_ask (pkg vc : Nat) (s : State) : tget none (askCredit pkg vc s).fab.asks (entryKey pkg vc) =
    some ⟨s.comp.nextTag, s.clock.now, s.clock.now, 10, false⟩ := by
  unfold askCredit
  dsimp only
  rw [launch_asks]
  dsimp only
  rw [tget_tset_none_self]

theorem exec_creditRetryTimer {a : CreditAsk} (ha : tget none s.fab.asks (entryKey pkg vc) = some a)
    (hrefused : a.refused = true) (hdue : a.askedAt + 1000 * a.waitUs ≤ s.clock.now) :
    exec (.creditRetryTimer pkg vc) s =
      if a.began + 1000 * s.fab.timeoutUs ≤ s.clock.now then .next (askSet pkg vc none s)
      else if 4 ≤ sysOut pkg s then .next s
      else .next (match tget none (askCredit pkg vc s).fab.asks (entryKey pkg vc) with
        | some b => askSet pkg vc (some { b with began := a.began, waitUs := min (2 * a.waitUs) 1000 }) (askCredit pkg vc s)
        | none => askCredit pkg vc s) := by
  change execCreditRetryTimer pkg vc s = _
  unfold execCreditRetryTimer
  rw [ha]
  dsimp only
  rw [if_neg (by simp [hrefused, hdue])] <;> rfl

end

/-- Settles O46: the entries move as CREDIT, CREDIT_REQ and CLOSE_ACK say, and flits sent on the way leave them alone. -/
theorem endToEndCredits : Obligations.EndToEndCredits := by
  refine ⟨fun pkg vc total e s hvc hw hs he habove => ?_, fun pkg vc total a s hvc hw hs he ha => ?_,
    fun pkg vc e s he htold hdue hpkg hq hleads => ?_, fun pkg vc s hvc he hfew => ?_,
    fun pkg vc a s ha hrefused hdue htime hout => ?_, fun pkg vc a s ha hrefused hdue hover => ?_,
    fun pkg vc e s he hopen hidle => ?_, fun pkg vc total e s he hclosing hne => ?_, fun pkg vc e s he hclosing => ?_,
    fun pkg k tag status a s hw hs hreqs hasks => ?_⟩
  · refine congrArg Host.Outcome.next ((if_pos hvc).trans ?_)
    unfold creditArrives
    dsimp only
    rw [he]
    dsimp only
    rw [if_neg Bool.false_ne_true, habove, if_pos rfl]
    exact fabricRetry_none hw hs
  · refine congrArg Host.Outcome.next ((if_pos hvc).trans ?_)
    unfold creditArrives
    dsimp only
    rw [he, ha]
    dsimp only
    rw [if_neg Bool.false_ne_true]
    exact fabricRetry_none hw hs
  · refine ⟨tellCredit pkg vc s, ?_, tellCredit_told he (routeFlit_reaches hq (by simp [flitVc, mkFlit, bit]) ?_ hleads)⟩
    · change execE2eCreditTimer pkg vc s = _
      unfold execE2eCreditTimer
      rw [he]
      exact if_pos (by simp [htold, hdue])
    · change (BitVec.ofNat 32 pkg).toNat % 2 ^ 20 = pkg
      rw [BitVec.toNat_ofNat]
      omega
  · have hreq : creditReq (pkg % 2 ^ 20) vc 0 s =
        tellCredit (pkg % 2 ^ 20) vc (dstSet (pkg % 2 ^ 20) vc (some { granted := 64, usedAt := s.clock.now }) s) := by
      unfold creditReq
      rw [if_neg (by simp [hvc]), he]
      exact if_neg (by omega)
    obtain ⟨x, hx, hgranted, hclosing⟩ := tellCredit_entry (dstEntry_dstSet_self (pkg := pkg % 2 ^ 20) (vc := vc)
      (some { granted := 64, usedAt := s.clock.now }) s)
    exact ⟨_, x, congrArg Host.Outcome.next hreq, hx, hgranted, hclosing⟩
  · refine ⟨askSet pkg vc (some ⟨s.comp.nextTag, a.began, s.clock.now, min (2 * a.waitUs) 1000, false⟩) (askCredit pkg vc s),
      ⟨s.comp.nextTag, a.began, s.clock.now, min (2 * a.waitUs) 1000, false⟩, ?_, tget_askSet_self _ _, rfl, rfl, rfl, rfl⟩
    rw [exec_creditRetryTimer ha hrefused hdue, if_neg (by omega), if_neg (by omega), askCredit_ask]
  · rw [exec_creditRetryTimer ha hrefused hdue, if_pos hover]
    rfl
  · obtain ⟨x, hx, hgranted, hclosing⟩ := tellCredit_entry (dstEntry_dstSet_self (pkg := pkg) (vc := vc)
      (some { e with closing := true }) s)
    refine ⟨_, x, ?_, hx, hclosing, hgranted⟩
    change execEntryIdleClose pkg vc s = _
    unfold execEntryIdleClose
    rw [he]
    exact if_neg (by simp [hopen, hidle])
  · refine congrArg Host.Outcome.next ((closeAcked_closing he hclosing).trans ?_)
    exact freeClosed_open (dstEntry_dstSet_self _ s) fun h => hne (Option.some.inj h).symm
  · refine congrArg Host.Outcome.next ((closeAcked_closing he hclosing).trans ?_)
    exact freeClosed_whole (dstEntry_dstSet_self _ s) hclosing rfl
  · refine congrArg Host.Outcome.next (?_ : sysRespArrives tag status.toNat none s = _)
    have hkey : entryKey (k / 8) (k % 8) = k := Nat.div_add_mod' k 8
    unfold sysRespArrives
    rw [hreqs, hasks]
    dsimp only
    refine (fabricRetry_none (s := askAnswered k a _ s) hw hs).trans ?_
    unfold askAnswered askSet
    rw [hkey]
    simp only [decide_eq_true_eq]

end Sys2Proof.Machine

/-!
PROOFS. A line of DRAM that the decoder finds uncorrectable: its bytes read zero and its words are poisoned (R180, R201).
-/

namespace Sys2Proof.Machine

/-! ## Ranges -/

/-- What is added to a range set is in it, and nothing leaves it. -/
theorem rmem_radd (x : Nat) (r : RangeSet) :
    ∀ lo hi : Nat, (lo ≤ x ∧ x < hi) ∨ rmem x r = true → rmem x (radd lo hi r) = true := by
  induction r with
  | nil =>
    intro lo hi h
    have hin : lo ≤ x ∧ x < hi := h.resolve_right (by simp [rmem])
    rw [radd, if_pos (by omega)]
    simp [rmem, hin]
  | cons p t ih =>
    intro lo hi h
    obtain ⟨a, b⟩ := p
    have hmem : ∀ u : RangeSet, rmem x ((a, b) :: u) = true ↔ (a ≤ x ∧ x < b) ∨ rmem x u = true := fun u => by
      simp [rmem]
    rw [hmem] at h
    unfold radd
    split
    · rw [hmem]
      exact h.resolve_left (by omega)
    · split
      · have hcons : rmem x ((lo, hi) :: (a, b) :: t) = true ↔ (lo ≤ x ∧ x < hi) ∨ (a ≤ x ∧ x < b) ∨ rmem x t = true := by
          simp [rmem]
        exact hcons.mpr h
      · split
        · rw [hmem]
          rcases h with h | h | h
          · exact .inr (ih lo hi (.inl h))
          · exact .inl h
          · exact .inr (ih lo hi (.inr h))
        · refine ih _ _ ?_
          rcases h with h | h | h
          · exact .inl (by omega)
          · exact .inl (by omega)
          · exact .inr h

section
variable {s t : State} {a k ch syn l x n : Nat} {b : BadSymbols}

/-! ## A line written as lost -/

/-- A line as it is written when its data is lost: every byte zero, every word poisoned. -/
structure LineLost (a : Nat) (t : State) : Prop where
  zero : dramByte a t = 0
  poison : ∀ g, g < 8 → rmem (a / 8 + g) t.mem.poison = true

theorem LineLost.congr (h : LineLost a s) (hm : t.mem = s.mem) : LineLost a t where
  zero := by rw [dramByte, hm]; exact h.zero
  poison := by rw [hm]; exact h.poison

theorem dramByte_dramPut_zero (h : dramByte a s = 0) (x : Nat) : dramByte a (dramPut x 0 s) = 0 := by
  by_cases hx : a = x
  · subst hx
    unfold dramPut
    split
    · exact h
    · exact tget_tset_self 0 s.mem.dram a 0
  · rw [dramByte_dramPut_ne hx, h]

/-- Bytes of a line put to zero, its first among them. -/
theorem dramByte_zeros (hup : stackDown a s = false) (hn : 0 < n) :
    dramByte a ((List.range n).foldl (fun t i => dramPut (a + i) 0 t) s) = 0 := by
  obtain ⟨n, rfl⟩ := Nat.exists_eq_succ_of_ne_zero hn.ne'
  rw [List.range_succ_eq_map, List.foldl_cons]
  exact List.foldlRecOn (motive := fun t => dramByte a t = 0) _ _ (dramByte_dramPut_self hup 0) fun _ ht i _ =>
    dramByte_dramPut_zero ht (a + i)

theorem dramTaint_words (a g : Nat) (ha : a % 64 = 0) (s : State) :
    dramTaint (a + 8 * g) 8 s = { s with mem := { s.mem with poison := radd (a / 8 + g) (a / 8 + g + 1) s.mem.poison } } := by
  unfold dramTaint
  rw [if_neg (by decide), show (a + 8 * g) / 8 = a / 8 + g by omega, show (a + 8 * g + 8 + 7) / 8 = a / 8 + g + 1 by omega]

/-- Words of a line that are poisoned one after another are all poisoned, and the bytes are as they were. -/
theorem dramTaint_foldl (ha : a % 64 = 0) (gs : List Nat) :
    ∀ s : State, (gs.foldl (fun t g => dramTaint (a + 8 * g) 8 t) s).mem.dram = s.mem.dram ∧
      (∀ w, rmem w s.mem.poison = true → rmem w (gs.foldl (fun t g => dramTaint (a + 8 * g) 8 t) s).mem.poison = true) ∧
      ∀ g ∈ gs, rmem (a / 8 + g) (gs.foldl (fun t g => dramTaint (a + 8 * g) 8 t) s).mem.poison = true := by
  induction gs with
  | nil => exact fun s => ⟨rfl, fun _ => id, fun g hg => absurd hg List.not_mem_nil⟩
  | cons g gs ih =>
    intro s
    obtain ⟨hdram, hkept, hnew⟩ := ih (dramTaint (a + 8 * g) 8 s)
    rw [dramTaint_words a g ha] at hdram hkept hnew
    rw [List.foldl_cons, dramTaint_words a g ha]
    refine ⟨hdram, fun w hw => hkept w (rmem_radd _ _ _ _ (.inr hw)), fun j hj => ?_⟩
    rcases List.mem_cons.mp hj with rfl | hj
    · exact hkept _ (rmem_radd _ _ _ _ (.inl ⟨le_rfl, Nat.lt_succ_self _⟩))
    · exact hnew j hj

/-- A line whose every byte is known to be zero and bad is lost. -/
theorem writeLine_lost (ha : a % 64 = 0) (hup : stackDown a s = false) :
    LineLost a (writeLine a (List.replicate 64 (some 0)) 0xFF s) := by
  have hbase : a / 64 * 64 = a := by omega
  have hputs : ∀ u : State, (List.range 64).foldl (fun t i => match (List.replicate 64 (some (0 : Byte))).getD i none with
      | some v => dramPut (a + i) v t
      | none => t) u = (List.range 64).foldl (fun t i => dramPut (a + i) 0 t) u := fun u =>
    List.foldl_ext _ _ u fun t i hi => by
      rw [List.getD_eq_getElem _ _ (by simpa using hi), List.getElem_replicate]
  have hwords : writeLine a (List.replicate 64 (some 0)) 0xFF s = (List.range 8).foldl (fun t g => dramTaint (a + 8 * g) 8 t)
      ((List.range 64).foldl (fun t i => dramPut (a + i) 0 t) s) := by
    unfold writeLine
    dsimp only
    rw [hbase, ← hputs s]
    refine List.foldl_ext _ _ _ fun t g hg => if_pos ?_
    have hg8 := List.mem_range.mp hg
    interval_cases g <;> decide
  obtain ⟨hdram, -, hpoison⟩ := dramTaint_foldl ha (List.range 8) ((List.range 64).foldl (fun t i => dramPut (a + i) 0 t) s)
  rw [hwords]
  refine ⟨?_, fun g hg => hpoison g (List.mem_range.mpr hg)⟩
  have hzero := dramByte_zeros hup (n := 64) (by decide)
  rw [dramByte] at hzero ⊢
  rw [hdram, hzero]

theorem writeLine_memCtl (data : List (Option Byte)) (poison : Byte) :
    memRest (writeLine a data poison s).mem = memRest s.mem :=
  (writeLine_keeps a data poison (T := [.bytes]) rfl (Keeps.refl s)).same .memCtl (by decide)

theorem rlc_of_memRest {m m' : MemSys} (h : memRest m = memRest m') : m.rlc = m'.rlc := (congrArg MemSys.rlc h :)

theorem rowDue_frame (k ch bank row : Nat) (s : State) :
    (rowDue k ch bank row s).mem = s.mem ∧ (rowDue k ch bank row s).faults = s.faults := by
  unfold rowDue
  split <;> exact ⟨rfl, rfl⟩

theorem countStack_frame (k i n : Nat) (s : State) :
    (countStack k i n s).mem = s.mem ∧ (countStack k i n s).faults = s.faults :=
  ⟨(readQuiet_countStack k i n s).mem, (countStack_keeps k i n (T := [.counts]) rfl (Keeps.refl s)).same .faults (by decide)⟩

/-- A line found uncorrectable is lost, with a fault event of class D. -/
theorem decodeLine_lost {kind : Nat} (hb : badLine b = true) (ha : a % 64 = 0) (hup : stackDown a s = false) :
    LineLost a (decodeLine a k l kind b s) ∧ s.faults.entered < (decodeLine a k l kind b s).faults.entered ∧
      (decodeLine a k l kind b s).mem.rlc = s.mem.rlc := by
  have hdecode : decodeLine a k l kind b s = lineLost a k (channelOf l) (stackSyndrome l b true kind) b s := by
    unfold decodeLine
    dsimp only
    exact if_pos hb
  rw [hdecode]
  have hlost := writeLine_lost ha hup
  have hrlc := rlc_of_memRest (writeLine_memCtl (s := s) (a := a) (List.replicate 64 (some 0)) 0xFF)
  have hfaults : (writeLine a (List.replicate 64 (some 0)) 0xFF s).faults = s.faults :=
    (writeLine_keeps a _ _ (T := [.bytes]) rfl (Keeps.refl s)).same .faults (by decide)
  unfold lineLost
  generalize writeLine a (List.replicate 64 (some 0)) 0xFF s = w at hlost hrlc hfaults ⊢
  have hrow := rowDue_frame k (channelOf l) b.bank b.row w
  generalize rowDue k (channelOf l) b.bank b.row w = v at hrow ⊢
  obtain ⟨hvmem, hvfaults⟩ := hrow
  dsimp only
  generalize hv : State.mk v.part v.pins v.clock v.boot v.dev v.faults v.mbx v.db v.locks v.ports v.cmds v.graphs v.mem _
    v.counts v.comp v.banks v.cairn v.therm v.las v.chans v.links v.fab v.d2d v.guest v.sec v.out v.free v.pending = u
  have hmem : u.mem = w.mem := by rw [← hv]; exact hvmem
  have hufaults : u.faults = s.faults := by rw [← hv]; exact hvfaults.trans hfaults
  rw [(countStack_frame k 5 1 _).2]
  have hend : (countStack k 5 1 (faultD (0x4000 + chanKey k (channelOf l)) (stackSyndrome l b true kind) u)).mem = w.mem := by
    rw [(countStack_frame k 5 1 _).1, faultD, report_mem, hmem]
  refine ⟨hlost.congr hend, ?_, by rw [hend, hrlc]⟩
  rw [faultD, report_entered, hufaults]
  exact Nat.lt_succ_self _

/-! ## A read that meets one such line -/

theorem mem_spanLines (h : l ∈ spanLines x n) : l % 64 = 0 ∧ ∃ i, i < n ∧ (x + i) / 64 = l / 64 := by
  unfold spanLines at h
  obtain ⟨j, hj, rfl⟩ := List.mem_map.mp h
  have hj' := List.mem_range.mp hj
  split at hj'
  · omega
  · refine ⟨by omega, if j = 0 then 0 else (x / 64 + j) * 64 - x, ?_, ?_⟩
    · split <;> omega
    · split
      · omega
      · rw [Nat.add_sub_cancel' (by omega)]

theorem spanLines_nodup (x n : Nat) : (spanLines x n).Nodup := by
  unfold spanLines
  exact List.nodup_range.map fun i j h => by omega

theorem foundIn_singleton_self (l : Nat) (b : BadSymbols) : foundIn l [(l, b)] = some b := by simp [foundIn]

theorem foundIn_singleton_ne {m : Nat} (h : m / 64 ≠ l / 64) : foundIn m [(l, b)] = none := by
  have h' : ¬ l / 64 = m / 64 := fun hl => h hl.symm
  simp [foundIn, h']

theorem readLine_other {m : Nat} (r : Requester) (h : m / 64 ≠ l / 64) (s : State) :
    Keeps [.counts] s (readLine m r [(l, b)] s) := by
  unfold readLine
  dsimp only
  rw [foundIn_singleton_ne h]
  exact countLineRead_keeps _ _ rfl (Keeps.refl s)

theorem readLine_bad (r : Requester) (hb : badLine b = true) (ha : l % 64 = 0) (hup : stackDown l s = false) :
    LineLost l (readLine l r [(l, b)] s) ∧ s.faults.entered < (readLine l r [(l, b)] s).faults.entered ∧
      (readLine l r [(l, b)] s).mem.rlc = s.mem.rlc := by
  have hcount := readQuiet_countLineRead (stackOf l s).1 r s
  have hfaults := (countLineRead_keeps (stackOf l s).1 r (T := [.counts]) rfl (Keeps.refl s)).same .faults (by decide)
  have hread : readLine l r [(l, b)] s =
      decodeLine l (stackOf l s).1 (stackOf l s).2 0 b (countLineRead (stackOf l s).1 r s) := by
    unfold readLine
    dsimp only
    rw [foundIn_singleton_self]
    exact if_neg (by simp [hup])
  obtain ⟨hlost, hentered, hrlc⟩ := decodeLine_lost (k := (stackOf l s).1) (l := (stackOf l s).2) (kind := 0) hb ha
    (s := countLineRead (stackOf l s).1 r s) ((stackDown_congr hcount.mem l).trans hup)
  rw [hread]
  exact ⟨hlost, hfaults ▸ hentered, hrlc.trans (by rw [hcount.mem])⟩

theorem readLine_foldl_other (r : Requester) (ls : List Nat) (h : ∀ m ∈ ls, m / 64 ≠ l / 64) (s : State) :
    Keeps [.counts] s (ls.foldl (fun t m => readLine m r [(l, b)] t) s) :=
  List.foldlRecOn (motive := Keeps [.counts] s) ls _ (Keeps.refl s) fun t ht m hm => ht.trans (readLine_other r (h m hm) t)

theorem mem_of_keepsCounts (h : Keeps [.counts] s t) : t.mem = s.mem :=
  mem_eq_of_same (h.same .bytes (by decide)) (h.same .memCtl (by decide))

/-- A read over a span of which one line is uncorrectable loses that line. -/
theorem readLines_bad (r : Requester) (hhome : s.mem.home = false ∨ s.mem.dir = []) (hl : l ∈ spanLines x n)
    (hup : stackDown l s = false) (hb : badLine b = true) :
    LineLost l (readLines x n r [(l, b)] s) ∧ s.faults.entered < (readLines x n r [(l, b)] s).faults.entered ∧
      (readLines x n r [(l, b)] s).mem.rlc = s.mem.rlc := by
  obtain ⟨ls, ms, hsplit⟩ := List.append_of_mem hl
  have hnodup := spanLines_nodup x n
  have haligned : ∀ m ∈ spanLines x n, m % 64 = 0 := fun m hm => (mem_spanLines hm).1
  rw [hsplit] at hnodup haligned
  have hl64 := haligned l (by simp)
  have hother : ∀ m ∈ ls ++ ms, m / 64 ≠ l / 64 := by
    intro m hm hml
    have hm64 := haligned m (by simp at hm ⊢; tauto)
    have hne : m ≠ l := fun he => by
      subst he
      have := List.nodup_middle.mp hnodup
      exact (List.nodup_cons.mp this).1 hm
    omega
  unfold readLines
  rw [recallLines_none hhome, hsplit, List.foldl_append, List.foldl_cons]
  have hbefore := readLine_foldl_other (b := b) r ls (fun m hm => hother m (List.mem_append_left _ hm)) s
  generalize ls.foldl (fun t m => readLine m r [(l, b)] t) s = u at hbefore ⊢
  have humem := mem_of_keepsCounts hbefore
  obtain ⟨hlost, hentered, hrlc⟩ := readLine_bad r hb hl64 ((stackDown_congr humem l).trans hup)
  rw [hbefore.same .faults (by decide)] at hentered
  generalize readLine l r [(l, b)] u = v at hlost hentered hrlc ⊢
  have hafter := readLine_foldl_other (b := b) r ms (fun m hm => hother m (List.mem_append_right _ hm)) v
  have hvmem := mem_of_keepsCounts hafter
  refine ⟨hlost.congr hvmem, ?_, by rw [hvmem, hrlc, humem]⟩
  rw [hafter.same .faults (by decide)]
  exact hentered

theorem forcedLines_mem (x n : Nat) (s : State) : (forcedLines x n s).2.mem = s.mem :=
  mem_eq_of_same ((forcedLines_keeps x n (T := [.faults]) rfl (Keeps.refl s)).same .bytes (by decide))
    ((forcedLines_keeps x n (T := [.faults]) rfl (Keeps.refl s)).same .memCtl (by decide))

theorem forcedLines_entered (x n : Nat) (s : State) : (forcedLines x n s).2.faults.entered = s.faults.entered := by
  unfold forcedLines
  refine List.foldlRecOn (motive := fun p : List Nat × State => p.2.faults.entered = s.faults.entered) _ _ rfl
    fun p hp m _ => ?_
  dsimp only
  split <;> exact hp

/-- With no line in a cache, a word of a lost line reads as poisoned. -/
theorem LineLost.viewBad (h : LineLost l s) (hrlc : s.mem.rlc = []) (hx : x / 64 = l / 64) (hl : l % 64 = 0) :
    Sys2Proof.Machine.viewBad x s = true := by
  have hcache : cacheGet x s = none := by
    unfold cacheGet
    rw [hrlc]
    rfl
  have hpoison := h.poison (x / 8 - l / 8) (by omega)
  rw [show l / 8 + (x / 8 - l / 8) = x / 8 by omega] at hpoison
  unfold Machine.viewBad
  rw [hcache]
  simp [dramBad, hpoison]

theorem LineLost.dramBad (h : LineLost l s) : Sys2Proof.Machine.dramBad l s = true := by
  have hpoison := h.poison 0 (by decide)
  rw [Nat.add_zero] at hpoison
  simp [Machine.dramBad, hpoison]

end

end Sys2Proof.Machine

/-!
PROOFS. Requests of peers, responses to this package's requests, and loans (R150, R188, R195, R196, R367, R368).
-/

namespace Sys2Proof.Machine

section
variable {s t : State} {pkg n x : Nat} {tag : BitVec 32} {a : Nat} {found : List (Nat × BadSymbols)}

/-! ## Requests from peers -/

theorem peerCheck_dram {write : Bool} (hplace : place a s = .dram x) (hloan : loanCovers pkg a n write s = true) :
    peerCheck pkg a n write s = .ok := by
  unfold peerCheck
  rw [hplace]
  exact if_pos hloan

theorem peerCheck_reg {r : Nat} (hplace : place a s = .reg r) (hblock : [0, 6, 9].contains (regBlock (regOff r)) = true)
    (hsec : regSecure (regOff r) = false) (halign : regOff r % 8 = 0) : peerCheck pkg a 8 false s = .ok := by
  unfold peerCheck
  rw [hplace]
  dsimp only
  rw [hblock, hsec, if_pos (by decide), if_pos (by simp [halign])]

theorem peerRead_ok (hn : 0 < n) (hmax : n ≤ 192) (halign : n % 8 = 0) (hcheck : peerCheck pkg a n false s = .ok) :
    peerRead pkg tag a n found s = respond 0x18 pkg tag .ok (peerData pkg a n found s).2.1 (peerData pkg a n found s).1
      (peerData pkg a n found s).2.2 := by
  unfold peerRead
  rw [if_neg (by simp; omega), hcheck]

theorem peerData_reg {r : Nat} (hplace : place a s = .reg r) :
    peerData pkg a n found s = (leBytes 8 (regValue (regOff r) false s), false, s) := by
  unfold peerData
  rw [hplace]

theorem peerData_dram (hplace : place a s = .dram x) : peerData pkg a n found s =
    (fun p : List Nat × State => (viewBytes x n p.2, p.1 != [] || (List.range n).any fun i => viewBad (x + i) p.2, p.2))
      (forcedLines x n (readLines x n (.peer pkg) found s)) := by
  unfold peerData
  rw [hplace]

theorem respond_mem (type pkg : Nat) (tag : BitVec 32) (st : Status) (poison : Bool) (data : List Byte) (s : State) :
    (respond type pkg tag st poison data s).mem = s.mem :=
  mem_eq_of_same ((respond_keeps type pkg tag st poison data
      (T := [.boot, .dev, .faults, .db, .ports, .cmds, .graphs, .counts, .cairn, .links, .fab, .out, .free]) rfl
      (Keeps.refl s)).same .bytes (by decide))
    ((respond_keeps type pkg tag st poison data
      (T := [.boot, .dev, .faults, .db, .ports, .cmds, .graphs, .counts, .cairn, .links, .fab, .out, .free]) rfl
      (Keeps.refl s)).same .memCtl (by decide))

/-- Lines of which none is named bad are counted, and no more. -/
theorem readLines_good (hhome : s.mem.home = false ∨ s.mem.dir = []) (r : Requester) : readLines x n r [] s =
    (spanLines x n).foldl (fun t l => countLineRead (stackOf l t).1 r t) s := by
  unfold readLines
  rw [recallLines_none hhome]
  rfl

/-- A peer's write inside its loan window stores its bytes and no others. -/
theorem peerWrite_stored {data : List Byte} (hplace : place a s = .dram a)
    (hloan : loanCovers pkg a data.length true s = true) (hne : data ≠ []) (hmax : data.length ≤ 192)
    (hopen : DramOpen a data.length s) : Stored a data s (peerWrite pkg tag a data false s) := by
  have hlen := List.length_pos_iff.mpr hne
  have hwrite : peerWrite pkg tag a data false s = respond 0x19 pkg tag .ok false []
      ((spanLines a data.length).foldl (fun t l => countStack (stackOf l t).1 1 1 t) (dramWriteBytes a data s)) := by
    unfold peerWrite
    dsimp only
    rw [if_neg (by simp [hne, hmax]), peerCheck_dram hplace hloan]
    dsimp only
    rw [if_neg Bool.false_ne_true]
  rw [hwrite]
  exact (stored_dramWriteBytes hopen).congr rfl ((respond_mem ..).trans
    (mem_of_keepsCounts (foldl_countStack_keeps rfl (Keeps.refl _) _)))

theorem place_dram (hplace : place a s = .dram x) : x = a := by
  unfold place at hplace
  split at hplace
  · exact (Place.dram.inj hplace).symm
  · split at hplace
    · cases hplace
    · split at hplace
      · cases hplace
      · split at hplace
        · split at hplace <;> cases hplace
        · split at hplace <;> cases hplace

/-- With no execution running, SEND data wakes no RECV. -/
theorem matchRecv_idle {i : Nat} {key : Option Nat} (h : (slotGet i s).running = none) : matchRecv i key s = s := by
  unfold matchRecv
  dsimp only
  rw [h]

theorem matchRecv_foldl_idle {key : Option Nat} (is : List Nat) (h : ∀ i ∈ is, (slotGet i s).running = none) :
    is.foldl (fun t i => matchRecv i key t) s = s :=
  List.foldlRecOn (motive := (· = s)) is _ rfl fun t ht i hi => by rw [ht, matchRecv_idle (h i hi)]

theorem takeSend_idle {off : Nat} {data : List Byte} {poison : Bool} {tag : Nat}
    (h : ∀ i, i < 64 → (slotGet i s).running = none) : takeSend pkg tag off data poison s = { s with fab := { s.fab with
      received := tset [] s.fab.received (pkg * 2 ^ 32 + tag)
        (((List.range data.length).zip data).foldl (fun t e => tset none t (off + e.1) (some e.2))
          (tget [] s.fab.received (pkg * 2 ^ 32 + tag)))
      receivedBad := if poison then setInsert (pkg * 2 ^ 32 + tag) s.fab.receivedBad else s.fab.receivedBad } } := by
  unfold takeSend
  dsimp only
  exact matchRecv_foldl_idle _ fun i hi => h i (List.mem_range.mp hi)

/-! ## Responses and timeouts -/

theorem responseArrives_firmware {st : Nat} {data : List Byte} {poison : Bool} {q : FabReq}
    (hq : (s.fab.reqs.find? fun x => x.tag = tag && (x.engine.isSome || x.purpose = 3)) = some q) (he : q.engine = none) :
    responseArrives tag st data poison s = dropReq tag s := by
  unfold responseArrives
  rw [hq]
  dsimp only
  rw [he]

theorem responseArrives_engine {st : Nat} {data : List Byte} {poison : Bool} {q : FabReq} {e : Nat × Nat}
    (hq : (s.fab.reqs.find? fun x => x.tag = tag && (x.engine.isSome || x.purpose = 3)) = some q) (he : q.engine = some e) :
    responseArrives tag st data poison s =
      if st = 0 then countPeer e.1 data.length 7 q.link (mreqEnd true tag data (poison || st != 0) (dropReq tag s))
      else faultDOpen (0x2000 + e.1) (countPeer e.1 data.length 7 q.link
        (mreqEnd true tag data (poison || st != 0) (dropReq tag (peerPartFails e.1 e.2 q.dst 0 s)))) := by
  unfold responseArrives
  rw [hq]
  dsimp only
  rw [he]
  dsimp only
  split <;> rfl

/-- The end of a write request takes it off its engine and leaves everything else of the package. -/
theorem mreqEnd_write {data : List Byte} {bad : Bool} {p c : Nat} {r : MReq} (hcore : mreqCore true tag s = some (p, c, r))
    (hwrite : r.write = true) : mreqEnd true tag data bad s = engSet p c .m { engGet p c .m s with
      run := (engGet p c .m s).run.map fun q => { q with
        requests := q.requests.filter fun y => !mreqIs true tag y, poisonIn := q.poisonIn || (bad && !r.write)
        poisonOut := q.poisonOut || (bad && !r.write) } } s := by
  unfold mreqEnd
  rw [hcore]
  exact if_pos hwrite

theorem countPeer_same (p n ctr : Nat) (link : Option Nat) (s : State) : Keeps [.counts] s (countPeer p n ctr link s) :=
  countPeer_keeps p n ctr link rfl (Keeps.refl s)

theorem dropReq_grows (tag : BitVec 32) (s : State) : Grows s (dropReq tag s) := grows_of_same rfl rfl

theorem peerPartFails_grows (p c pkg cause : Nat) (s : State) : Grows s (peerPartFails p c pkg cause s) := by
  unfold peerPartFails
  split
  · exact grows_of_same rfl rfl
  · exact .refl s

/-- A class D fault after what only adds is an event more. -/
theorem entered_faultDOpen {u : State} (src : Nat) (h : Grows s u) :
    s.faults.entered < (faultDOpen src u).faults.entered := by
  refine lt_of_le_of_lt h.entered ?_
  unfold faultDOpen useFree faultD
  dsimp only
  rw [report_entered]
  exact Nat.lt_succ_self _

/-- A request of an engine that is given up is a class D fault. -/
theorem requestOver_entered {q : FabReq} {e : Nat × Nat} (he : q.engine = some e) :
    s.faults.entered < (requestOver q s).faults.entered := by
  obtain ⟨p, c⟩ := e
  unfold requestOver
  rw [he]
  dsimp only
  have hgrows := mreqEnd_grows true q.tag [] true ((grows_of_same rfl rfl : Grows s (dropWaiting q.tag (dropReq q.tag s))).trans
    (peerPartFails_grows p c q.dst Status.timeout.code _))
  split
  · exact entered_faultDOpen _ hgrows
  · exact entered_faultDOpen _ hgrows

theorem exec_fabricRequestTimeout {q : FabReq} (hq : (s.fab.reqs.find? fun x => x.tag = tag) = some q)
    (hover : q.sentAt + 1000 * s.fab.timeoutUs ≤ s.clock.now) :
    exec (.fabricRequestTimeout tag) s = .next (requestOver q s) := by
  change execFabricRequestTimeout tag s = _
  unfold execFabricRequestTimeout
  rw [hq]
  exact if_neg (by omega)

theorem tag_of_find {q : FabReq} (hq : (s.fab.reqs.find? fun x => x.tag = tag) = some q) : q.tag = tag := by
  simpa using List.find?_some hq

/-! ## Loans -/

theorem sysAnswer_mem (pkg : Nat) (tag : BitVec 32) (st : Status) (fields : List Byte) (s : State) :
    (sysAnswer pkg tag st fields s).mem = s.mem :=
  mem_eq_of_same ((sysAnswer_keeps pkg tag st fields
      (T := [.boot, .dev, .faults, .db, .ports, .cmds, .graphs, .counts, .cairn, .links, .fab, .out, .free]) rfl
      (Keeps.refl s)).same .bytes (by decide))
    ((sysAnswer_keeps pkg tag st fields
      (T := [.boot, .dev, .faults, .db, .ports, .cmds, .graphs, .counts, .cairn, .links, .fab, .out, .free]) rfl
      (Keeps.refl s)).same .memCtl (by decide))

theorem dramByte_zeroSpan {base size y : Nat} (hlow : base ≤ y) (hhigh : y < base + size) :
    dramByte y (zeroSpan base size s) = 0 := by
  have hcleared : ∀ d : Tab Byte, tget 0 (tclear d fun k => base ≤ k && k < base + size) y = 0 := fun d => by
    simp [tget_tclear, hlow, hhigh]
  exact hcleared s.mem.dram

theorem openLoan_window (i base size pkg : Nat) (s : State) :
    tget none (openLoan i base size pkg s).mem.windows i = some ⟨base, size, some pkg, true, true, true⟩ := by
  unfold openLoan openWindow
  rw [loanNotice_mem]
  dsimp only
  rw [tget_tset_none_self]

theorem dramByte_openLoan {i base size y : Nat} (hlow : base ≤ y) (hhigh : y < base + size) :
    dramByte y (openLoan i base size pkg s) = 0 := by
  unfold openLoan openWindow
  rw [dramByte, loanNotice_mem]
  exact dramByte_zeroSpan hlow hhigh

theorem exec_sysMessage (m : SysMsg) (hfw : fwActs s = true) : exec (.sysMessage pkg tag m) s = .next (match m with
    | .loanRequest n => loanReply (pkg % 2 ^ 20) tag (loanAnswer n s) s
    | .loanReturn w => (match tget none s.mem.windows w with
      | some x =>
        if x.granted && x.borrower = some (pkg % 2 ^ 20) then
          sysAnswer (pkg % 2 ^ 20) tag .ok [] (closeWindow w x s)
        else sysAnswer (pkg % 2 ^ 20) tag .badArgument [] s
      | none => sysAnswer (pkg % 2 ^ 20) tag .badArgument [] s)
    | .startConfirm b c => startConfirmed (pkg % 2 ^ 20) tag b c s
    | .other _ => sysAnswer (pkg % 2 ^ 20) tag .ok [] s) :=
  congrArg Host.Outcome.next (if_neg (by simp [hfw]))

end

/-- Settles O47: each request is answered by what its place and its window allow, and each response ends its request. -/
theorem peersAndRequests : Obligations.PeersAndRequests := by
  refine ⟨fun pkg r tag addr found s hplace hblock hsec halign => ?_,
    fun pkg x n tag addr s hplace hloan hn hmax halign hpoison hhome => ?_,
    fun pkg x n l tag addr b s _ hplace hloan hn hmax halign hpoison hhome hrlc hl hup hb => ?_,
    fun pkg x tag addr data s hplace hloan hne hmax hopen => ?_, fun pkg off tag data poison s hidle => ?_,
    fun tag data poison q e p c r s hq he hcore hwrite hrun => ?_, fun tag status data poison q e s hq he hstatus => ?_,
    fun tag status data poison q s hq he => ?_, fun tag status data poison s hnone => ?_,
    fun tag q s hq he hover hw hs => ?_, fun tag q e s hq he hover => ?_, fun pkg bytes i a n tag s hfw hanswer => ?_,
    fun pkg i w tag s hfw hw hgranted hborrower => ?_, fun pkg tag w s hfw => ?_⟩
  · refine congrArg Host.Outcome.next ((peerRead_ok (by decide) (by decide) (by decide)
      (peerCheck_reg hplace hblock hsec halign)).trans ?_)
    rw [peerData_reg hplace]
  · refine congrArg Host.Outcome.next ((peerRead_ok hn hmax halign (peerCheck_dram hplace hloan)).trans ?_)
    have hquiet := readQuiet_readLines (found := []) (fun e he => absurd he List.not_mem_nil) hhome x n (.peer (pkg % 2 ^ 20))
    rw [peerData_dram hplace, forcedLines_none (hquiet.forced.trans hpoison)]
    dsimp only
    simp only [viewBytes, viewByte_congr hquiet.mem, viewBad_congr hquiet.mem]
    rw [readLines_good hhome]
    rfl
  · obtain ⟨hlost, hentered, hrlcR⟩ := readLines_bad (b := b) (.peer (pkg % 2 ^ 20)) hhome hl hup hb
    obtain ⟨hl64, i, hi, hline⟩ := mem_spanLines hl
    have hmem := forcedLines_mem x n (readLines x n (.peer (pkg % 2 ^ 20)) [(l, b)] s)
    have hforced := forcedLines_entered x n (readLines x n (.peer (pkg % 2 ^ 20)) [(l, b)] s)
    have hdata := peerData_dram (pkg := pkg % 2 ^ 20) (n := n) (found := [(l, b)]) hplace
    generalize hp : forcedLines x n (readLines x n (.peer (pkg % 2 ^ 20)) [(l, b)] s) = p at hmem hforced hdata
    have hlostp := hlost.congr hmem
    have hbad : (p.1 != [] || (List.range n).any fun i => viewBad (x + i) p.2) = true := by
      rw [Bool.or_eq_true, List.any_eq_true]
      exact .inr ⟨i, List.mem_range.mpr hi, hlostp.viewBad (by rw [hmem, hrlcR, hrlc]) hline hl64⟩
    refine ⟨_, p.2, congrArg Host.Outcome.next (peerRead_ok hn hmax halign (peerCheck_dram hplace hloan)), ?_, ?_,
      hlostp.dramBad, hlostp.zero⟩
    · rw [hdata]
      dsimp only
      rw [hbad]
    · rw [hforced]
      exact hentered
  · have hx := place_dram hplace
    subst hx
    exact ⟨_, rfl, peerWrite_stored hplace hloan hne hmax hopen⟩
  · exact congrArg Host.Outcome.next (takeSend_idle hidle)
  · have hexec : responseArrives tag 0 data poison s =
        countPeer e.1 data.length 7 q.link (mreqEnd true tag data (poison || 0 != 0) (dropReq tag s)) := by
      rw [responseArrives_engine hq he]
      exact if_pos rfl
    have hend := mreqEnd_write (s := dropReq tag s) (data := data) (bad := poison || 0 != 0) hcore hwrite
    rw [hend] at hexec
    have hcount := countPeer_same e.1 data.length 7 q.link (engSet p c .m { engGet p c .m (dropReq tag s) with
      run := (engGet p c .m (dropReq tag s)).run.map fun q => { q with
        requests := q.requests.filter fun y => !mreqIs true tag y, poisonIn := q.poisonIn || ((poison || 0 != 0) && !r.write)
        poisonOut := q.poisonOut || ((poison || 0 != 0) && !r.write) } } (dropReq tag s))
    refine ⟨_, congrArg Host.Outcome.next hexec, ?_, fun run hafter y hy hremote => ?_, ?_⟩
    · rw [show (countPeer _ _ _ _ _).fab = _ from hcount.same .fab (by decide)]
      rfl
    · rw [engGet_congr (congrArg Compute.cores (hcount.same .comp (by decide)) :), engGet_engSet_self] at hafter
      obtain ⟨run0, -, rfl⟩ := Option.map_eq_some_iff.mp hafter
      have hkept := (List.mem_filter.mp hy).2
      simp only [mreqIs, hremote, decide_true, Bool.true_and, Bool.not_eq_true', decide_eq_false_iff_not] at hkept
      exact hkept
    · exact ((keeps_setComp rfl (keeps_setFab rfl (Keeps.refl s) _) _).trans (hcount.weaken (by decide))).frame
  · obtain ⟨p, c⟩ := e
    have hne : status.toNat ≠ 0 := fun h => hstatus (BitVec.eq_of_toNat_eq h)
    refine ⟨_, congrArg Host.Outcome.next (responseArrives_engine hq he), ?_⟩
    rw [if_neg hne]
    exact entered_faultDOpen _ ((mreqEnd_grows true tag data _ ((peerPartFails_grows p c q.dst 0 s).trans
      (dropReq_grows tag _))).trans (grows_of_same ((countPeer_same ..).same .cmds (by decide))
        ((countPeer_same ..).same .faults (by decide))))
  · exact congrArg Host.Outcome.next (responseArrives_firmware hq he)
  · refine ⟨fabCount 0 s, congrArg Host.Outcome.next ?_, (keeps_setFab rfl (Keeps.refl s) _).frame⟩
    have hfind : (s.fab.reqs.find? fun x => x.tag = tag && (x.engine.isSome || x.purpose = 3)) = none :=
      List.find?_eq_none.mpr fun x hx => by simp [hnone x hx]
    unfold responseArrives
    rw [hfind]
  · have htag := tag_of_find hq
    rw [exec_fabricRequestTimeout hq hover]
    unfold requestOver
    rw [he, htag]
    dsimp only
    rw [fabricRetry_none (by simp [dropWaiting, dropReq, hw]) (by simp [dropWaiting, dropReq, hs])]
    unfold dropWaiting dropReq
    dsimp only
    rw [hw, hs]
    rw [List.filter_nil, List.filter_nil]
  · exact ⟨_, exec_fabricRequestTimeout hq hover, requestOver_entered he⟩
  · refine ⟨_, exec_sysMessage _ hfw, ?_⟩
    dsimp only
    rw [hanswer]
    unfold loanReply
    rw [if_pos rfl, sysAnswer_mem]
    refine ⟨openLoan_window .., fun x hlow hhigh => ?_⟩
    rw [dramByte, sysAnswer_mem]
    exact dramByte_openLoan hlow hhigh
  · refine ⟨_, exec_sysMessage _ hfw, ?_⟩
    dsimp only
    rw [hw]
    dsimp only
    rw [if_pos (by simp [hgranted, hborrower]), sysAnswer_mem]
    unfold closeWindow
    rw [loanNotice_mem]
  · exact exec_sysMessage (.other w) hfw

end Sys2Proof.Machine

/-!
PROOFS. Codeword slots, locks and hunting of the lanes (R304, R316, R322, R326, R338).
-/

namespace Sys2Proof.Machine

/-- What sending the codewords of a slot leaves of its link: the slot counter, the slot of a retrain and the training
state. -/
structure SlotKept (n : Nat) (s t : State) : Prop where
  slot : (linkGet n t).slot = (linkGet n s).slot
  retrainAt : (linkGet n t).retrainAt = (linkGet n s).retrainAt
  st : (linkGet n t).st = (linkGet n s).st

section
variable {s s0 t : State} {n k : Nat}

theorem SlotKept.refl (n : Nat) (s : State) : SlotKept n s s := ⟨rfl, rfl, rfl⟩

theorem SlotKept.trans (h : SlotKept n s0 s) (k : SlotKept n s t) : SlotKept n s0 t :=
  ⟨k.slot.trans h.slot, k.retrainAt.trans h.retrainAt, k.st.trans h.st⟩

theorem SlotKept.of_links (h : t.links = s.links) : SlotKept n s t := by
  have hget := linkGet_congr h n
  exact ⟨by rw [hget], by rw [hget], by rw [hget]⟩

theorem SlotKept.quiet {T : List Area} (h : Keeps T s t) (hl : Area.links ∉ T) : SlotKept n s t := .of_links (h.same .links hl)

theorem SlotKept.linkSet {x : LinkSt} (hslot : x.slot = (linkGet n s).slot) (hretrain : x.retrainAt = (linkGet n s).retrainAt)
    (hst : x.st = (linkGet n s).st) : SlotKept n s (linkSet n x s) := by
  have hget := linkGet_linkSet_self n x s
  exact ⟨by rw [hget, hslot], by rw [hget, hretrain], by rw [hget, hst]⟩

theorem SlotKept.foldl {α : Type} {l : List α} {f : State → α → State} (h : SlotKept n s0 s)
    (hf : ∀ u x, SlotKept n u (f u x)) : SlotKept n s0 (l.foldl f s) :=
  List.foldlRecOn (motive := SlotKept n s0) l f h fun u hu x _ => hu.trans (hf u x)

theorem slotKept_setChan (i : Nat) (c : Chan) (s : State) : SlotKept n s (setChan i c s) := .of_links rfl

theorem SlotKept.emit (h : SlotKept n s t) (o : Output) : SlotKept n s (emit o t) := ⟨h.slot, h.retrainAt, h.st⟩

theorem SlotKept.sendBlocks (h : SlotKept n s t) (m : Nat) (ks : List Nat) (ty : Nat) (body : List Byte) :
    SlotKept n s (sendBlocks m ks ty body t) :=
  h.trans (.quiet (T := [.chans]) (sendBlocks_keeps m ks ty body rfl (Keeps.refl t)) (by decide))

theorem SlotKept.immediateOwed (h : SlotKept n s t) (u : State) : SlotKept n s (immediateOwed n u t) :=
  h.trans (.quiet (T := [.chans]) (immediateOwed_keeps n u rfl (Keeps.refl t)) (by decide))

theorem SlotKept.ite {c : Prop} [Decidable c] {a b : State} (ha : SlotKept n s a) (hb : SlotKept n s b) :
    SlotKept n s (if c then a else b) := by
  split
  · exact ha
  · exact hb

theorem slotKept_sendWord (w : List Nat) (s : State) : SlotKept n s (sendWord n k w s) := by
  unfold sendWord
  exact .emit (.linkSet (by rfl) (by rfl) (by rfl)) _

theorem slotKept_sendFiller (scr : List Bool) (s : State) : SlotKept n s (sendFiller n k scr s) :=
  (slotKept_setChan _ _ s).trans (slotKept_sendWord _ _)

theorem slotKept_sendData (bs : List Block) (scr : List Bool) (s : State) : SlotKept n s (sendData n k bs scr s) := by
  unfold sendData
  dsimp only
  split
  · exact slotKept_sendWord _ s
  · exact slotKept_sendFiller scr s

theorem slotKept_sendTest (pattern half : Nat) (s : State) : SlotKept n s (sendTest n k pattern half s) := by
  have hfree : SlotKept n s (useFree s).2 := .of_links rfl
  unfold sendTest
  dsimp only
  split
  · exact (slotKept_setChan _ _ s).trans (slotKept_sendWord _ _)
  · split
    · exact (hfree.trans (slotKept_setChan _ _ _)).trans (slotKept_sendWord _ _)
    · exact hfree.trans (slotKept_sendFiller _ _)

theorem slotKept_checkSlot (scr : List Bool) (sched : Bool) (s : State) : SlotKept n s (checkSlot n k scr sched s) := by
  unfold checkSlot
  dsimp only
  split
  · exact (slotKept_setChan _ _ s).trans (slotKept_sendFiller _ _)
  · split
    · exact slotKept_sendFiller _ s
    · split
      · exact slotKept_sendTest _ _ s
      · exact slotKept_sendData _ _ s

theorem slotKept_chanSlot (scr : List Bool) (u s : State) : SlotKept n s (chanSlot n scr u s k) := by
  unfold chanSlot
  dsimp only
  split
  · exact .refl n s
  · split
    · exact slotKept_checkSlot _ _ s
    · split
      · split
        · exact slotKept_sendFiller _ s
        · split
          · exact (slotKept_setChan _ _ s).trans (slotKept_sendWord _ _)
          · exact slotKept_sendFiller _ s
      · split
        · split
          · split
            · exact slotKept_sendData _ _ s
            · exact slotKept_sendFiller _ s
          · exact slotKept_sendFiller _ s
        · split
          · exact slotKept_sendFiller _ s
          · exact slotKept_sendData _ _ s

theorem slotKept_addShares (n : Nat) (s : State) : SlotKept n s (addShares n s) := by
  unfold addShares
  dsimp only
  split
  · exact .refl n s
  · exact SlotKept.foldl (.linkSet rfl rfl rfl) fun u k => slotKept_setChan _ _ u

theorem slotKept_wakeTx (n : Nat) (s : State) : SlotKept n s (wakeTx n s) := by
  unfold wakeTx
  dsimp only
  split
  · exact .sendBlocks (.linkSet (by rfl) (by rfl) (by rfl)) _ _ _ _
  · exact .refl n s

/-- The codewords of an ACTIVE direction move no slot counter. -/
theorem slotKept_activeSlot (n : Nat) (s : State) : SlotKept n s (activeSlot n s) := by
  unfold activeSlot
  dsimp only
  have hwoken : SlotKept n s (if ((linkGet n s).txSleep || (linkGet n s).sleepAt.isSome) && (linkGet n s).stream != [] then
      wakeTx n s else s) := .ite (slotKept_wakeTx n s) (.refl n s)
  generalize (if ((linkGet n s).txSleep || (linkGet n s).sleepAt.isSome) && (linkGet n s).stream != [] then
      wakeTx n s else s) = u at hwoken ⊢
  refine .ite ?_ (.ite (SlotKept.foldl hwoken fun w k => ?_) hwoken)
  · have hawake : SlotKept n u (if (linkGet n u).txSleep then
        linkSet n { linkGet n u with txSleep := false, sleepAt := none, wakeAt := none } u else u) :=
      .ite (.linkSet rfl rfl rfl) (.refl n u)
    exact SlotKept.immediateOwed (SlotKept.foldl ((hwoken.trans hawake).trans (slotKept_addShares n _))
      fun w k => slotKept_chanSlot _ _ w) _
  · split
    · exact (slotKept_setChan _ _ w).trans (slotKept_sendFiller _ _)
    · exact slotKept_sendFiller _ w

theorem slotKept_trainSlot (n : Nat) (s : State) : SlotKept n s (trainSlot n s) :=
  SlotKept.foldl (.refl n s) fun u _ => slotKept_sendWord _ u

theorem trainSlot_quiet (n : Nat) (s : State) : Keeps [.chans, .links, .out, .free] s (trainSlot n s) :=
  trainSlot_keeps n rfl (Keeps.refl s)

/-- With no retrain of this end named, the slot ends with the counter one higher. -/
theorem nextSlot_plain (h : (linkGet n s).retrainAt = none) :
    nextSlot n s = linkSet n { linkGet n s with slot := ((linkGet n s).slot + 1) % 2 ^ 48 } s := by
  unfold nextSlot
  dsimp only
  rw [h]

/-- A link end that trains ends its slot with the counter one higher. -/
theorem nextSlot_training (h : (linkGet n s).st ≠ .active) :
    nextSlot n s = linkSet n { linkGet n s with slot := ((linkGet n s).slot + 1) % 2 ^ 48 } s := by
  unfold nextSlot
  dsimp only
  split
  · exact if_neg (by simp [h])
  · rfl

theorem nextSlot_after (hk : SlotKept n s t) (hframe : Keeps [.chans, .links, .out, .free] s t)
    (hnone : (linkGet n s).retrainAt = none) :
    (linkGet n (nextSlot n t)).slot = ((linkGet n s).slot + 1) % 2 ^ 48 ∧
      Keeps [.chans, .links, .out, .free] s (nextSlot n t) := by
  rw [nextSlot_plain (hk.retrainAt.trans hnone), linkGet_linkSet_self, hk.slot]
  exact ⟨rfl, keeps_setLinks rfl hframe _⟩

theorem sendWord_out (n k : Nat) (w : List Nat) (s : State) : ∃ v, (sendWord n k w s).out = s.out ++ [.codeword n k v] :=
  ⟨_, rfl⟩

/-- Codewords sent on one channel after another all stand among the outputs made since. -/
theorem sendWord_foldl_out (n : Nat) (w : Nat → List Nat) (ks : List Nat) :
    ∀ s : State, ∃ a, (ks.foldl (fun t k => sendWord n k (w k) t) s).out = s.out ++ a ∧ ∀ k ∈ ks, ∃ v, .codeword n k v ∈ a := by
  induction ks with
  | nil => exact fun s => ⟨[], (List.append_nil _).symm, fun k hk => absurd hk List.not_mem_nil⟩
  | cons j ks ih =>
    intro s
    obtain ⟨v, hv⟩ := sendWord_out n j (w j) s
    obtain ⟨a, ha, hall⟩ := ih (sendWord n j (w j) s)
    refine ⟨.codeword n j v :: a, by rw [List.foldl_cons, ha, hv, List.append_assoc]; rfl, fun k hk => ?_⟩
    rcases List.mem_cons.mp hk with rfl | hk
    · exact ⟨v, List.mem_cons_self⟩
    · obtain ⟨x, hx⟩ := hall k hk
      exact ⟨x, List.mem_cons_of_mem _ hx⟩

/-! ## Reception -/

/-- A receive channel side is the one of its link and its channel. -/
theorem rxi_inst {inst : Nat} (hinst : inst < 1156) (hrx : instRx inst = true) : rxi (instLink inst) (instCh inst) = inst := by
  by_cases hlow : inst < 1152
  · have hodd : inst / 18 % 2 = 1 := by simpa [instRx, hlow] using hrx
    simp only [rxi, instLink, instCh, hlow, if_true]
    rw [if_pos (by omega)]
    omega
  · have hodd : inst % 2 = 1 := by simpa [instRx, hlow] using hrx
    simp only [rxi, instLink, instCh, hlow, if_false]
    rw [if_neg (by omega)]
    omega

theorem instLink_lt {inst : Nat} (h : inst < 1152) : instLink inst < 32 := by
  simp only [instLink, h, if_true]
  omega

theorem exec_codewordReceive {inst gap : Nat} {w : List (BitVec 10)} {bad : List Bool} (hinst : inst < 1156)
    (hrx : instRx inst = true) (hlocked : (chanSide inst s).locked = true) (hplain : (chanSide inst s).inverted = false)
    (hlen : w.length = 272) (hbad : bad = (badCw (dataBits (w.map BitVec.toNat)) :: (chanSide inst s).bad).take 64) :
    exec (.codewordReceive inst gap w) s =
      if 16 ≤ (bad.filter id).length && !(linkGet (instLink inst) s).rxSleep then
        .next (lockLost inst (setChan inst { chanSide inst s with bad := bad } s))
      else .next (cwDecoded (instLink inst) (instCh inst) gap (w.map BitVec.toNat)
        (setChan inst { chanSide inst s with bad := bad } s)) := by
  have hwords : (w.map fun x => if (chanSide inst s).inverted then (x ^^^ 0x2AA).toNat else x.toNat) = w.map BitVec.toNat :=
    List.map_congr_left fun x _ => if_neg (by simp [hplain])
  change execCodewordReceive inst gap w s = _
  unfold execCodewordReceive
  dsimp only
  rw [if_neg (by simp [hrx, hlocked, hlen]; omega), hwords, ← hbad]

theorem cwTraining_idle {tw : TrainWords} (h : (linkGet n s).rxActive = false) : cwTraining n k tw s =
    setChan (rxi n k) { chanSide (rxi n k) s with heard := (tw.slot, (linkGet n s).slot), training := true } s :=
  if_neg (by simp [h])

/-- A codeword on a direction that is neither ACTIVE nor under test is only counted and dated. -/
theorem cwDecoded_idle {gap : Nat} {w : List Nat} (hrx : (linkGet n s).rxActive = false)
    (htest : (linkGet n s).test = none) :
    (chanSide (rxi n k) (cwDecoded n k gap w s)).bad = (chanSide (rxi n k) s).bad ∧
      (chanSide (rxi n k) (cwDecoded n k gap w s)).locked = (chanSide (rxi n k) s).locked ∧
      Keeps [.chans, .links] s (cwDecoded n k gap w s) := by
  unfold cwDecoded
  dsimp only
  split
  · rw [cwTraining_idle hrx, chanSide_setChan_self]
    exact ⟨rfl, rfl, keeps_setChans rfl (Keeps.refl s) _⟩
  · rw [if_pos (by simp [hrx, htest]), if_neg (by simp [hrx]), chanSide_setChan_self]
    exact ⟨rfl, rfl, keeps_setChans rfl (keeps_setLinks rfl (Keeps.refl s) _) _⟩

theorem linkGet_setChan (m i : Nat) (c : Chan) (s : State) : linkGet m (setChan i c s) = linkGet m s := rfl

theorem lockLost_idle {inst : Nat} (hinst : inst < 1152) (hrx : (linkGet (instLink inst) s).rxActive = false) :
    lockLost inst s = setChan inst { chanSide inst s with locked := false, bad := [] } s := by
  have hlow := instLink_lt hinst
  unfold lockLost
  dsimp only
  rw [if_neg (by omega)]
  exact if_pos (by simp [linkGet_setChan, hrx])

theorem exec_channelLockLoss {inst : Nat} (hinst : inst < 1156) (hlocked : (chanSide inst s).locked = true)
    (hsleep : (linkGet (instLink inst) s).rxSleep = false) : exec (.channelLockLoss inst) s = .next (lockLost inst s) :=
  if_neg (by simp [hlocked, hsleep]; omega)

theorem judgeUnfit_faulted {i : Nat} {dark : Bool} (h : (chanSide i s).checker.inject.1 = 0) :
    Faulted (0x7000 + i) .c s (judgeUnfit i dark s) := by
  unfold judgeUnfit
  dsimp only
  rw [if_neg (by simp [h])]
  exact (faulted_laneFault .c i s).congr rfl
    ((sendBlocks_keeps _ _ _ _ (T := [.chans]) rfl (Keeps.refl _)).same .faults (by decide))

theorem Faulted.retrain {src : Nat} {cls : FClass} {c : Prop} [Decidable c] (h : Faulted src cls s t) :
    Faulted src cls s (if c then askRetrain n t else t) := by
  split
  · exact h.congr rfl ((askRetrain_keeps n (T := [.chans, .links]) rfl (Keeps.refl t)).same .faults (by decide))
  · exact h

/-- A lane of an ACTIVE direction that loses lock is a fault event of class C. -/
theorem lockLost_faulted {inst : Nat} (hinst : inst < 1152) (hst : (linkGet (instLink inst) s).st = .active)
    (hrx : (linkGet (instLink inst) s).rxActive = true) (hinject : (chanSide inst s).checker.inject.1 = 0) :
    Faulted (0x7000 + inst) .c s (lockLost inst s) := by
  have hlow := instLink_lt hinst
  have hjudged : ∀ u : State, u.faults = s.faults →
      chanSide inst u = { chanSide inst s with locked := false, bad := [] } →
      Faulted (0x7000 + inst) .c s (judgeUnfit inst false u) := fun u hf hc =>
    (judgeUnfit_faulted (by rw [hc]; exact hinject)).congr hf.symm rfl
  unfold lockLost
  dsimp only
  rw [if_neg (by omega), if_neg (by simp [linkGet_setChan, hst, hrx])]
  refine Faulted.retrain (hjudged _ ?_ ?_)
  · split
    · split <;> rfl
    · rfl
  · split
    · split <;> exact chanSide_setChan_self ..
    · exact chanSide_setChan_self ..

/-- A port that falls is told as a fault event of class C. -/
theorem portDown_faulted {p : Port} (h : (portSt p s).phase = .active) :
    Faulted (portSource p) .c s (portDown p s) ∧ (portSt p (portDown p s)).phase = .down := by
  rw [portDown_active h]
  refine ⟨?_, by rw [(portTold_spec p _).1, portSt_setPort_self]⟩
  have hset : (setPort p { portSt p s with phase := .down, stable := false, stream := [], received := [] } s).faults =
      s.faults := by cases p <;> rfl
  generalize setPort p { portSt p s with phase := .down, stable := false, stream := [], received := [] } s = u at hset
  have hrepref : (repref u).faults = u.faults :=
    (repref_keeps (T := [.db, .ports, .out]) rfl (Keeps.refl u)).same .faults (by decide)
  have hring : (portTold p u).faults = (faultCOpen (portSource p) (repref u)).faults :=
    (ringBit_keeps 29 (T := [.db, .ports, .out]) rfl (Keeps.refl _)).same .faults (by decide)
  refine Faulted.congr (s := (useFree (repref u)).2) (t := faultCOpen (portSource p) (repref u)) ?_
    (hset.symm.trans hrepref.symm) hring
  exact faulted_report _ _ _ _ _ _

end

/-- Settles O43: sending a slot's codewords moves no counter, and a codeword of an idle direction changes its channel's
record alone. -/
theorem slotsAndLocks : Obligations.SlotsAndLocks := by
  refine ⟨fun link s hlink hsent htest hretrain => ?_, fun link s hlink hsent htest htx hst => ?_,
    fun s hsent hdown hretrain => ?_, fun inst gap w bad s hinst hrx hlocked hplain hlen hbad hfew hrxa htest => ?_,
    fun inst gap w bad s hinst hrx hlocked hplain hlen hbad hmany hsleep hrxa => ?_,
    fun inst inverted s hinst hrx hlocked hst hdark hfenced => ?_, fun inst s hinst hlocked hsleep hrxa => ?_,
    fun inst s hinst hlocked hsleep hst hrxa hinject => ?_, fun s hlocked hsleep hactive => ?_⟩
  · have hexec : ∃ u, SlotKept link s u ∧ Keeps [.chans, .links, .out, .free] s u ∧
        exec (.codewordSlot link) s = .next (nextSlot link u) := by
      change ∃ u, _ ∧ _ ∧ execCodewordSlot link s = _
      unfold execCodewordSlot
      dsimp only
      rw [if_neg (by omega), if_neg (by omega), htest]
      dsimp only
      rw [hsent, if_neg (by decide)]
      split
      · exact ⟨_, slotKept_activeSlot link s, activeSlot_keeps link rfl (Keeps.refl s), rfl⟩
      · split
        · exact ⟨_, slotKept_trainSlot link s, trainSlot_quiet link s, rfl⟩
        · exact ⟨s, .refl link s, Keeps.refl s, rfl⟩
    obtain ⟨u, hkept, hframe, hexec⟩ := hexec
    obtain ⟨hslot, hkeeps⟩ := nextSlot_after hkept hframe hretrain
    exact ⟨_, hexec, hslot, hkeeps.frame⟩
  · refine ⟨nextSlot link (trainSlot link s), ?_, ?_⟩
    · change execCodewordSlot link s = _
      unfold execCodewordSlot
      dsimp only
      rw [if_neg (by omega), if_neg (by omega), htest]
      dsimp only
      rw [hsent, htx, hst, if_neg (by decide), if_neg (by decide), if_pos (by decide)]
    · rw [nextSlot_training (by rw [(slotKept_trainSlot link s).st, hst]; decide)]
      obtain ⟨a, hout, hall⟩ := sendWord_foldl_out link (fun k => encodeCw (trainBlocks (trainOf link k s)) plain)
        (linkGet link s).txWorking s
      intro k hk
      change ∃ w, _ ∈ List.drop _ (trainSlot link s).out
      unfold trainSlot
      rw [hout, List.drop_left]
      exact hall k hk
  · refine congrArg Host.Outcome.next (?_ : portSlot 32 s = _)
    have hdown' : (portSt (lanePort 32) s).phase = .down := hdown
    unfold portSlot
    dsimp only
    rw [hdown', if_neg (by simp [hsent]), if_neg (by simp), if_neg (by simp)]
    exact nextSlot_plain hretrain
  · obtain ⟨hbadkept, hlockkept, hkeeps⟩ := cwDecoded_idle (k := instCh inst) (gap := gap) (w := w.map BitVec.toNat)
      (n := instLink inst) (s := setChan inst { chanSide inst s with bad := bad } s) hrxa htest
    rw [rxi_inst hinst hrx, chanSide_setChan_self] at hbadkept hlockkept
    refine ⟨_, (exec_codewordReceive hinst hrx hlocked hplain hlen hbad).trans (if_neg (by simp; omega)), hbadkept,
      hlockkept.trans hlocked, ?_⟩
    exact ((keeps_setChans rfl (Keeps.refl s) _).trans hkeeps).frame
  · refine ⟨_, (exec_codewordReceive (by omega) hrx hlocked hplain hlen hbad).trans (if_pos (by simp [hmany, hsleep])), ?_⟩
    rw [lockLost_idle (s := setChan inst { chanSide inst s with bad := bad } s) hinst hrxa, chanSide_setChan_self]
    exact ⟨rfl, rfl, (keeps_setChans rfl (keeps_setChans rfl (Keeps.refl s) _) _).frame⟩
  · change execChannelLock inst inverted s = _
    unfold execChannelLock
    dsimp only
    rw [if_neg]
    rcases hst with hst | hst | hst | hst <;> simp [hrx, hlocked, hst, hdark, hfenced] <;> omega
  · rw [exec_channelLockLoss (by omega) hlocked hsleep, lockLost_idle hinst hrxa]
  · exact ⟨_, exec_channelLockLoss (by omega) hlocked hsleep, lockLost_faulted hinst hst hrxa hinject⟩
  · have hlost : lockLost 1153 s =
        portDown .cp0 (setChan 1153 { chanSide 1153 s with locked := false, bad := [] } s) := by
      unfold lockLost
      exact (if_pos (by decide)).trans (if_pos hactive)
    obtain ⟨hfault, hphase⟩ := portDown_faulted (p := .cp0)
      (s := setChan 1153 { chanSide 1153 s with locked := false, bad := [] } s) hactive
    refine ⟨_, exec_channelLockLoss (by decide) hlocked hsleep, ?_⟩
    rw [hlost]
    refine ⟨?_, hphase, hfault.congr rfl rfl⟩
    rw [chanSide_congr ((portDown_keeps .cp0 (T := [.boot, .dev, .faults, .db, .ports, .cmds, .graphs, .cairn, .out, .free]) rfl
      (Keeps.refl _)).same .chans (by decide)), chanSide_setChan_self]

end Sys2Proof.Machine

/-!
PROOFS. Moves of lanes between channels, their acknowledgement and retirement (R287, R297–R300, R304).
-/

namespace Sys2Proof.Machine

/-- A channel side but for the lane blocks that wait on it. -/
def chanCore (c : Chan) : Chan := { c with blocks := [] }

section
variable {s s0 t : State} {n i k : Nat} {x y : Chan}

theorem lane_of_chanCore (h : chanCore x = chanCore y) : x.lane = y.lane := (congrArg Chan.lane h :)

theorem state_of_chanCore (h : chanCore x = chanCore y) : x.state = y.state := (congrArg Chan.state h :)

theorem began_of_chanCore (h : chanCore x = chanCore y) : x.began = y.began := (congrArg Chan.began h :)

/-! ## Channel sides -/

theorem txi_lt {j : Nat} (hn : n < 32) (hj : j < 18) : txi n j = n * 36 + j ∧ txi n j < 1152 := by
  rw [txi, if_pos hn]
  omega

theorem rxi_lt {j : Nat} (hn : n < 32) (hj : j < 18) : rxi n j = n * 36 + 18 + j ∧ rxi n j < 1152 := by
  rw [rxi, if_pos hn]
  omega

theorem txi_ne {j m : Nat} (hn : n < 32) (h : j ≠ m) : txi n j ≠ txi n m := by
  rw [txi, txi, if_pos hn, if_pos hn]
  omega

theorem rxi_ne {j m : Nat} (hn : n < 32) (h : j ≠ m) : rxi n j ≠ rxi n m := by
  rw [rxi, rxi, if_pos hn, if_pos hn]
  omega

/-- Lane blocks sent change nothing of a channel side but what waits on it. -/
theorem chanCore_sendBlocks (m : Nat) (ks : List Nat) (ty : Nat) (body : List Byte) (i : Nat) (s : State) :
    chanCore (chanSide i (sendBlocks m ks ty body s)) = chanCore (chanSide i s) := by
  unfold sendBlocks
  refine List.foldlRecOn (motive := fun t => chanCore (chanSide i t) = chanCore (chanSide i s)) ks _ rfl fun t ht k _ => ?_
  by_cases hi : i = txi m k
  · rw [hi] at ht ⊢
    dsimp only
    rw [chanSide_setChan_self, ← ht]
    rfl
  · dsimp only
    rw [chanSide_setChan_ne hi, ht]

theorem chanSide_linkSet (i m : Nat) (x : LinkSt) (s : State) : chanSide i (linkSet m x s) = chanSide i s := rfl

/-- Counting a move on a side leaves the lane and the state of every side. -/
theorem countMove_frame (j i : Nat) (s : State) :
    (chanSide i (countMove j s)).lane = (chanSide i s).lane ∧ (chanSide i (countMove j s)).state = (chanSide i s).state := by
  unfold countMove
  by_cases hi : i = j
  · subst hi
    rw [chanSide_setChan_self]
    exact ⟨rfl, rfl⟩
  · rw [chanSide_setChan_ne hi]
    exact ⟨rfl, rfl⟩

/-! ## A move at the receiving end -/

/-- The two receive channels of a move have swapped their lane map entries. -/
theorem laneMoves_swaps {lane a b slot : Nat} (hn : n < 32) (hab : a ≠ b) :
    (chanSide (rxi n b) (laneMoves n lane a b slot s)).lane = some lane ∧
      (chanSide (rxi n a) (laneMoves n lane a b slot s)).lane = (chanSide (rxi n b) s).lane ∧
      (chanSide (rxi n a) (laneMoves n lane a b slot s)).state = .spare ∧
      (chanSide (rxi n b) (laneMoves n lane a b slot s)).state = (if lane < widthOf n s then .data else .spare) := by
  have hne := rxi_ne hn hab
  unfold laneMoves
  dsimp only
  generalize hs1 : setChan (rxi n a) _ s = s1
  generalize hs2 : setChan (rxi n b) _ s1 = s2
  have hb2 : chanSide (rxi n b) s2 = { chanSide (rxi n b) s1 with
      lane := some lane, state := if lane < widthOf n s then .data else .spare } := by
    rw [← hs2, chanSide_setChan_self]
  have ha2 : chanSide (rxi n a) s2 = { chanSide (rxi n a) s with lane := (chanSide (rxi n b) s).lane, state := .spare } := by
    rw [← hs2, chanSide_setChan_ne hne, ← hs1, chanSide_setChan_self]
  have hcore : ∀ i, chanCore (chanSide i (sendBlocks n (txBound n (countMove (rxi n a) (countMove (rxi n b) s2))) 0x11
      (leBytes 1 lane ++ zeros 2 ++ leBytes 6 slot) (linkSet n { linkGet n (countMove (rxi n a) (countMove (rxi n b) s2)) with
        rxMoves := (linkGet n (countMove (rxi n a) (countMove (rxi n b) s2))).rxMoves.filter fun m => m.1 != lane
        lost := tset none (linkGet n (countMove (rxi n a) (countMove (rxi n b) s2))).lost lane none }
          (countMove (rxi n a) (countMove (rxi n b) s2))))) =
      chanCore (chanSide i (countMove (rxi n a) (countMove (rxi n b) s2))) := fun i => chanCore_sendBlocks _ _ _ _ i _
  have hcount : ∀ i, (chanSide i (countMove (rxi n a) (countMove (rxi n b) s2))).lane = (chanSide i s2).lane ∧
      (chanSide i (countMove (rxi n a) (countMove (rxi n b) s2))).state = (chanSide i s2).state := fun i =>
    ⟨(countMove_frame _ i _).1.trans (countMove_frame _ i _).1, (countMove_frame _ i _).2.trans (countMove_frame _ i _).2⟩
  refine ⟨(lane_of_chanCore (hcore _)).trans ((hcount _).1.trans (by rw [hb2])),
    (lane_of_chanCore (hcore _)).trans ((hcount _).1.trans (by rw [ha2])),
    (state_of_chanCore (hcore _)).trans ((hcount _).2.trans (by rw [ha2])),
    (state_of_chanCore (hcore _)).trans ((hcount _).2.trans (by rw [hb2]))⟩

/-! ## What a move leaves behind at the transmitting end -/

theorem startCheck_frame (n k : Nat) (s : State) :
    (chanSide (txi n k) (startCheck n k s)).state = .check ∧ (chanSide (txi n k) (startCheck n k s)).began = s.clock.now ∧
      ∀ i, (chanSide i (startCheck n k s)).lane = (chanSide i s).lane ∧
        (i ≠ txi n k → (chanSide i (startCheck n k s)).state = (chanSide i s).state) := by
  have hcore : ∀ i, chanCore (chanSide i (startCheck n k s)) = chanCore (chanSide i (enterCheck (txi n k) s)) := fun i =>
    chanCore_sendBlocks _ _ _ _ i _
  have hself : chanSide (txi n k) (enterCheck (txi n k) s) =
      { chanSide (txi n k) s with state := .check, began := s.clock.now } := chanSide_setChan_self ..
  refine ⟨(state_of_chanCore (hcore _)).trans (by rw [hself]), (began_of_chanCore (hcore _)).trans (by rw [hself]),
    fun i => ⟨(lane_of_chanCore (hcore i)).trans ?_, fun hi => (state_of_chanCore (hcore i)).trans ?_⟩⟩
  · by_cases hi : i = txi n k
    · rw [hi, hself]
    · rw [enterCheck, chanSide_setChan_ne hi]
  · rw [enterCheck, chanSide_setChan_ne hi]

/-- A link that is done with a wavelength puts its own channel out, and no other. -/
theorem linkFreed_frame (n k : Nat) (s : State) (i : Nat) :
    (chanSide i (linkFreed n k s)).lane = (chanSide i s).lane ∧
      (i ≠ txi n k → (chanSide i (linkFreed n k s)).state = (chanSide i s).state) := by
  have hput : (chanSide i (putOut n k s)).lane = (chanSide i s).lane ∧
      (i ≠ txi n k → (chanSide i (putOut n k s)).state = (chanSide i s).state) := by
    unfold putOut
    dsimp only
    split
    · exact ⟨rfl, fun _ => rfl⟩
    · by_cases hi : i = txi n k
      · subst hi
        rw [chanSide_setChan_self]
        exact ⟨rfl, fun h => absurd rfl h⟩
      · rw [chanSide_setChan_ne hi]
        exact ⟨rfl, fun _ => rfl⟩
  unfold linkFreed
  dsimp only
  split
  · exact ⟨rfl, fun _ => rfl⟩
  · rw [chanSide_congr ((settleHandover_keeps _ _ (T := [.las]) rfl (Keeps.refl _)).same .chans (by decide))]
    exact hput

theorem afterMove_frame (n : Nat) (m : LaneMove) (s : State) (i : Nat) :
    (chanSide i (afterMove n m s)).lane = (chanSide i s).lane ∧
      (i ≠ txi n m.a → (chanSide i (afterMove n m s)).state = (chanSide i s).state) := by
  have hcheck := (startCheck_frame n m.a s).2.2 i
  unfold afterMove
  split
  · exact linkFreed_frame n m.a s i
  · split
    · exact hcheck
    · exact hcheck

/-- An acknowledged move is over: the two lane map entries have swapped. -/
theorem moveAcked_swaps {m : LaneMove} (hn : n < 32) (hab : m.a ≠ m.b) :
    (moveAcked n m s).links = tset {} s.links n { linkGet n s with moves := (linkGet n s).moves.erase m } ∧
      (chanSide (txi n m.b) (moveAcked n m s)).lane = some m.lane ∧
      (chanSide (txi n m.b) (moveAcked n m s)).state = .data ∧
      (chanSide (txi n m.a) (moveAcked n m s)).lane = (chanSide (txi n m.b) s).lane := by
  have hne := txi_ne hn hab
  unfold moveAcked
  dsimp only
  generalize hs1 : linkSet n _ s = s1
  have hs1links : s1.links = tset {} s.links n { linkGet n s with moves := (linkGet n s).moves.erase m } := by rw [← hs1]; rfl
  have hs1chan : ∀ i, chanSide i s1 = chanSide i s := fun i => by rw [← hs1]; rfl
  generalize hs2 : setChan (txi n m.a) _ s1 = s2
  have ha2 : (chanSide (txi n m.a) s2).lane = (chanSide (txi n m.b) s).lane := by
    rw [← hs2, chanSide_setChan_self, hs1chan]
  generalize hs3 : setChan (txi n m.b) _ s2 = s3
  have ha3 : chanSide (txi n m.a) s3 = chanSide (txi n m.a) s2 := by rw [← hs3, chanSide_setChan_ne hne]
  have hb3 : (chanSide (txi n m.b) s3).lane = some m.lane ∧ (chanSide (txi n m.b) s3).state = .data := by
    rw [← hs3, chanSide_setChan_self]
    exact ⟨rfl, rfl⟩
  have hafter := afterMove_frame n m (countMove (txi n m.a) (countMove (txi n m.b) s3))
  have hcount : ∀ i, (chanSide i (countMove (txi n m.a) (countMove (txi n m.b) s3))).lane = (chanSide i s3).lane ∧
      (chanSide i (countMove (txi n m.a) (countMove (txi n m.b) s3))).state = (chanSide i s3).state := fun i =>
    ⟨(countMove_frame _ i _).1.trans (countMove_frame _ i _).1, (countMove_frame _ i _).2.trans (countMove_frame _ i _).2⟩
  have hlinks2 : s2.links = s1.links := by rw [← hs2]; rfl
  have hlinks3 : s3.links = s2.links := by rw [← hs3]; rfl
  have hlinks : (afterMove n m (countMove (txi n m.a) (countMove (txi n m.b) s3))).links = s1.links :=
    ((afterMove_keeps n m (T := [.las, .chans]) rfl (countMove_keeps _ rfl (countMove_keeps _ rfl (Keeps.refl s3)))).same
      .links (by decide)).trans (hlinks3.trans hlinks2)
  exact ⟨hlinks.trans hs1links, (hafter _).1.trans ((hcount _).1.trans hb3.1),
    ((hafter _).2 hne.symm).trans ((hcount _).2.trans hb3.2),
    (hafter _).1.trans ((hcount _).1.trans ((congrArg Chan.lane ha3).trans ha2))⟩

/-! ## A move begins -/

theorem wakeTx_frame (n : Nat) (s : State) : (linkGet n (wakeTx n s)).moves = (linkGet n s).moves ∧
    ∀ i, chanCore (chanSide i (wakeTx n s)) = chanCore (chanSide i s) := by
  unfold wakeTx
  dsimp only
  split
  · refine ⟨?_, fun i => chanCore_sendBlocks _ _ _ _ i _⟩
    rw [linkGet_congr ((sendBlocks_keeps _ _ _ _ (T := [.chans]) rfl (Keeps.refl _)).same .links (by decide)),
      linkGet_linkSet_self]
  · exact ⟨rfl, fun _ => rfl⟩

/-- A move begins: it stands among the moves of the link, and a channel that carried data is moving. -/
theorem startMove_begins {lane a b why : Nat} {immediate : Bool} (hdata : (chanSide (txi n a) s).state = .data) :
    (∃ m ∈ (linkGet n (startMove n lane a b immediate why s)).moves, m.lane = lane ∧ m.a = a ∧ m.b = b ∧ m.attempts = 1 ∧
        m.immediate = immediate) ∧ (chanSide (txi n a) (startMove n lane a b immediate why s)).state = .moving := by
  have hwake := state_of_chanCore ((wakeTx_frame n s).2 (txi n a))
  unfold startMove
  dsimp only
  generalize wakeTx n s = u at hwake ⊢
  constructor
  · rw [linkGet_congr ((sendBlocks_keeps _ _ _ _ (T := [.chans]) rfl (Keeps.refl _)).same .links (by decide)),
      linkGet_setChan, linkGet_setChan, linkGet_linkSet_self]
    exact ⟨_, List.mem_append_right _ (List.mem_singleton_self _), rfl, rfl, rfl, rfl, rfl⟩
  · rw [state_of_chanCore (chanCore_sendBlocks _ _ _ _ _ _)]
    by_cases hab : txi n a = txi n b
    · rw [hab, chanSide_setChan_self]
    · rw [chanSide_setChan_ne hab, chanSide_setChan_self]
      exact if_pos (hwake.trans hdata)

theorem askRetrain_asks (hst : (linkGet n s).st = .active) (hnone : (linkGet n s).retrainAt = none) :
    (linkGet n (askRetrain n s)).retrainAt = some ((linkGet n s).slot + 128) ∧
      (linkGet n (askRetrain n s)).retrainMine = true := by
  unfold askRetrain
  dsimp only
  rw [if_neg (by simp [hst, hnone]),
    linkGet_congr ((sendBlocks_keeps _ _ _ _ (T := [.chans]) rfl (Keeps.refl _)).same .links (by decide)), linkGet_linkSet_self]
  exact ⟨rfl, rfl⟩

theorem exec_laneRetire {ch : Nat} {dark : Bool} (hn : n < 32) (hch : ch < 18) (hup : linkUp n s = true) :
    exec (.laneRetire n ch dark) s = .next (retireChan n ch dark s) := if_pos (by simp [hn, hch, hup])

/-! ## Error intervals -/

/-- The channel record as an error interval leaves it. -/
def intervalEnded (e : ErrorInterval) (c : Chan) : Chan :=
  { c with corrected := min 65535 (e.corrected + c.counted.2.1)
           badIntervals := if 0 < e.uncorrectable + c.counted.2.2 then c.badIntervals + 1 else 0, counted := (0, 0, 0) }

theorem exec_channelErrorInterval {inst : Nat} {e : ErrorInterval} (hinst : inst < 1152) (hrx : instRx inst = true)
    (hup : (linkGet (instLink inst) s).rxActive = true) : exec (.channelErrorInterval inst e) s =
      .next (if ((e.symbols + 272 * (chanSide inst s).counted.1) * 24 <
            (e.symbolErrors + (chanSide inst s).counted.2.1 + 8 * (chanSide inst s).counted.2.2) * 10000 ||
            3 ≤ (intervalEnded e (chanSide inst s)).badIntervals || e.toneFailed) &&
          ((chanSide inst s).state = .data || (chanSide inst s).state = .spare)
        then judgeUnfit inst false (setChan inst (intervalEnded e (chanSide inst s)) s)
        else setChan inst (intervalEnded e (chanSide inst s)) s) :=
  if_neg (by simp [hrx, hup]; omega)

end

/-- Settles O40: the ends of a move swap two lane map entries, and every other row writes what its rule names. -/
theorem laneMoves_rows : Obligations.LaneMoves := by
  refine ⟨fun link lane a b old slot s hlink hlane ha hb hab hrx hlane_a hlane_b hslot => ?_,
    fun link lane old slot m s hlink hfind ha hb hab hold => ?_, fun link lane m s hlink hfind hdue hfew => ?_,
    fun link lane t0 s hlink hlost hdue hst hnone => ?_, fun link ch dark s hlink hch hup hspare => ?_,
    fun link ch lane b dark s hlink hch hup hdata hlane hfree => ?_,
    fun inst e s hinst hrx hup hcounted hgood hclean htone => ?_, fun inst e s hinst hrx hup hbad hinject hstate => ?_⟩
  · obtain ⟨hb', ha', hspare, hstate⟩ := laneMoves_swaps (s := s) (lane := lane) (slot := slot.toNat) hlink hab
    refine ⟨laneMoves link lane a b slot.toNat s, if_neg ?_, hb', ha'.trans hlane_b, hspare, hstate,
      (laneMoves_keeps _ _ _ _ _ rfl (Keeps.refl s)).frame⟩
    simp [hab, hrx, hlane_a]
    omega
  · have hm := List.find?_some hfind
    simp only [Bool.and_eq_true, decide_eq_true_eq] at hm
    obtain ⟨hlinks, hb', hstate, ha'⟩ := moveAcked_swaps (s := s) hlink hab
    refine ⟨moveAcked link m s, ?_, hlinks, hb'.trans (congrArg some hm.1), hstate, ha'.trans hold,
      (moveAcked_keeps _ _ rfl (Keeps.refl s)).frame⟩
    change execLaneMoveAck link lane slot s = _
    unfold execLaneMoveAck
    rw [hfind]
    exact if_pos hlink
  · let m2 : LaneMove := { m with slot := (linkGet link s).slot + (if m.immediate then 8 else 1024), attempts := m.attempts + 1 }
    let s1 := linkSet link { linkGet link s with moves := (linkGet link s).moves.map fun x => if x = m then m2 else x } s
    refine ⟨sendBlocks link ((txBound link s1).filter fun k => !(m.immediate && k = m.a)) 0x10
      (leBytes 1 m.lane ++ leBytes 1 m.a ++ leBytes 1 m.b ++ leBytes 6 m2.slot) s1, ?_, ?_,
      (sendBlocks_keeps _ _ _ _ rfl (keeps_setLinks rfl (Keeps.refl s) _)).frame⟩
    · change execLaneMoveTimeout link lane s = _
      unfold execLaneMoveTimeout
      dsimp only
      rw [hfind]
      exact (if_neg (by simp; omega)).trans (if_neg (by omega))
    · rw [linkGet_congr ((sendBlocks_keeps _ _ _ _ (T := [.chans]) rfl (Keeps.refl _)).same .links (by decide)),
        linkGet_linkSet_self]
      exact List.mem_map.mpr ⟨m, List.mem_of_find?_eq_some hfind, if_pos rfl⟩
  · obtain ⟨hat, hmine⟩ := askRetrain_asks (n := link)
      (s := linkSet link { linkGet link s with lost := tset none (linkGet link s).lost lane none } s)
      (by rw [linkGet_linkSet_self]; exact hst) (by rw [linkGet_linkSet_self]; exact hnone)
    rw [linkGet_linkSet_self] at hat
    refine ⟨_, ?_, hat, hmine, (askRetrain_keeps _ rfl (keeps_setLinks rfl (Keeps.refl s) _)).frame⟩
    change execLaneLossTimeout link lane s = _
    unfold execLaneLossTimeout
    rw [hlost]
    exact if_pos (by simp [hlink, hdue])
  · obtain ⟨hstate, hbegan, -⟩ := startCheck_frame link ch s
    have hretire : retireChan link ch dark s = startCheck link ch s := by
      unfold retireChan
      dsimp only
      rw [hspare, if_neg (by decide), if_pos rfl]
    refine ⟨_, exec_laneRetire hlink hch hup, ?_⟩
    rw [hretire]
    exact ⟨hstate, hbegan, (startCheck_keeps _ _ rfl (Keeps.refl s)).frame⟩
  · obtain ⟨⟨m, hm, hmlane, hma, hmb, hattempts, himm⟩, hmoving⟩ := startMove_begins (s := s) (lane := lane) (b := b) (why := 2)
      (immediate := dark) hdata
    have hretire : retireChan link ch dark s = startMove link lane ch b dark 2 s := by
      unfold retireChan
      dsimp only
      rw [if_pos hdata]
      unfold coverChannel
      rw [hlane, hfree]
    refine ⟨_, m, exec_laneRetire hlink hch hup, ?_⟩
    rw [hretire]
    exact ⟨hm, hmlane, hma, hmb, hattempts, himm, hmoving, (startMove_keeps _ _ _ _ _ _ rfl (Keeps.refl s)).frame⟩
  · refine ⟨_, exec_channelErrorInterval hinst hrx hup, ?_⟩
    have hruns : (intervalEnded e (chanSide inst s)).badIntervals = 0 := if_neg (by omega)
    rw [if_neg (by simp [hruns, htone, hcounted]; omega)]
    refine ⟨?_, (keeps_setChans rfl (Keeps.refl s) _).frame⟩
    change tset {} s.chans inst (intervalEnded e (chanSide inst s)) = _
    unfold intervalEnded
    rw [if_neg (by omega)]
  · refine ⟨_, exec_channelErrorInterval hinst hrx hup, ?_⟩
    rw [if_pos (by simp [hbad, hstate])]
    exact (judgeUnfit_faulted (s := setChan inst (intervalEnded e (chanSide inst s)) s)
      (by rw [chanSide_setChan_self]; exact hinject)).congr rfl rfl

end Sys2Proof.Machine

/-!
PROOFS. Pitch checks of lanes, and a fenced channel that stays fenced while hand-overs go on (R302, R305, R307–R310).
-/

namespace Sys2Proof.Machine

/-- A channel side fenced in one state is fenced in the other. -/
def StaysFenced (i : Nat) (s t : State) : Prop := (chanSide i s).state = .fenced → (chanSide i t).state = .fenced

section
variable {s s0 t : State} {i n k : Nat}

theorem StaysFenced.refl (i : Nat) (s : State) : StaysFenced i s s := id

theorem StaysFenced.trans (h : StaysFenced i s0 s) (h' : StaysFenced i s t) : StaysFenced i s0 t := h' ∘ h

theorem StaysFenced.of_state (h : (chanSide i t).state = (chanSide i s).state) : StaysFenced i s t := fun hs => h.trans hs

theorem StaysFenced.quiet {T : List Area} (h : Keeps T s t) (hc : Area.chans ∉ T) : StaysFenced i s t :=
  .of_state (by rw [chanSide_congr (h.same .chans hc)])

theorem StaysFenced.foldl {α : Type} {l : List α} {f : State → α → State} (h : StaysFenced i s0 s)
    (hf : ∀ u x, StaysFenced i u (f u x)) : StaysFenced i s0 (l.foldl f s) :=
  List.foldlRecOn (motive := StaysFenced i s0) l f h fun u hu x _ => hu.trans (hf u x)

theorem staysFenced_wakeTx (i n : Nat) (s : State) : StaysFenced i s (wakeTx n s) :=
  .of_state (state_of_chanCore ((wakeTx_frame n s).2 i))

theorem staysFenced_putOut (i n k : Nat) (s : State) : StaysFenced i s (putOut n k s) := by
  intro hs
  unfold putOut
  dsimp only
  split
  · exact hs
  · next hopen =>
    have hne : i ≠ txi n k := fun hi => hopen (by rw [← hi]; exact hs)
    rw [chanSide_setChan_ne hne, hs]

theorem staysFenced_linkFreed (i n k : Nat) (s : State) : StaysFenced i s (linkFreed n k s) := by
  unfold linkFreed
  dsimp only
  split
  · exact .refl i s
  · refine (staysFenced_putOut i n k s).trans (.of_state ?_)
    rw [chanSide_congr ((settleHandover_keeps _ _ (T := [.las]) rfl (Keeps.refl _)).same .chans (by decide))]
    rfl

theorem staysFenced_leaveLink (i n : Nat) (s : State) : StaysFenced i s (leaveLink n s) := by
  unfold leaveLink
  refine StaysFenced.foldl (.quiet (linkLeaves_keeps n
    (T := [.boot, .dev, .faults, .db, .ports, .cmds, .graphs, .counts, .cairn, .links, .fab, .out, .free]) rfl (Keeps.refl s))
    (by decide)) fun u k => ?_
  split
  · split
    · exact staysFenced_linkFreed i n k u
    · exact .refl i u
  · exact .refl i u

theorem lightChiplet_chans (ll : Nat) (s : State) : (lightChiplet ll s).chans = s.chans := by
  unfold lightChiplet
  refine List.foldlRecOn (motive := fun t : State => t.chans = s.chans) _ _ rfl fun t ht k _ => ?_
  split
  · split
    · exact ((laserOn_keeps _ (T := [.las]) rfl (Keeps.refl t)).same .chans (by decide)).trans ht
    · exact ht
  · exact ((laserOff_keeps _ (T := [.las]) rfl (Keeps.refl t)).same .chans (by decide)).trans ht

theorem staysFenced_linkDark (i n : Nat) (s : State) : StaysFenced i s (linkDark n s) := by
  have hleft := staysFenced_leaveLink i n s
  unfold linkDark
  dsimp only
  generalize leaveLink n s = u at hleft ⊢
  refine hleft.trans (.of_state ?_)
  have hfault := (faultUOpen_keeps (0x8000 + n) (T := [.boot, .dev, .faults, .db, .ports, .cmds, .graphs, .cairn, .out, .free])
    rfl (Keeps.refl (linkSet n { linkGet n u with st := .dark, stAt := u.clock.now, width := none, test := none } u))).same
    .chans (by decide)
  rw [chanSide_congr (lightChiplet_chans _ _), chanSide_congr ((refreshDegraded_keeps (T := [.dev, .db, .ports, .cmds, .out]) rfl
    (Keeps.refl _)).same .chans (by decide)), chanSide_congr hfault]
  rfl

theorem staysFenced_askWidth (i n k : Nat) (s : State) : StaysFenced i s (askWidth n k s) := by
  have hwoken := staysFenced_wakeTx i n s
  unfold askWidth
  dsimp only
  generalize wakeTx n s = u at hwoken ⊢
  split
  · exact hwoken
  · split
    · exact hwoken.trans (staysFenced_linkDark i n u)
    · refine hwoken.trans (.of_state ?_)
      rw [chanSide_congr ((placeFlit_keeps n _ (T := [.faults, .counts, .links, .out]) rfl (Keeps.refl _)).same .chans
        (by decide))]
      rfl

/-- A move takes a spare lane, which no fenced channel holds. -/
theorem staysFenced_startMove {lane a b why : Nat} {immediate : Bool} (i : Nat)
    (hb : (chanSide (txi n b) s).state ≠ .fenced) : StaysFenced i s (startMove n lane a b immediate why s) := by
  intro hs
  have hne : i ≠ txi n b := fun hi => hb (by rw [← hi]; exact hs)
  have hwoken := staysFenced_wakeTx i n s hs
  unfold startMove
  dsimp only
  generalize wakeTx n s = u at hwoken ⊢
  rw [state_of_chanCore (chanCore_sendBlocks _ _ _ _ _ _), chanSide_setChan_ne hne]
  by_cases ha : i = txi n a
  · rw [ha] at hwoken ⊢
    rw [chanSide_setChan_self]
    exact (if_neg (by rw [chanSide_linkSet, hwoken]; decide)).trans hwoken
  · rw [chanSide_setChan_ne ha, chanSide_linkSet, hwoken]

theorem freeSpare_spare {b : Nat} (h : freeSpare n s = some b) : (chanSide (txi n b) s).state = .spare := by
  have hb := List.find?_some h
  simp only [Bool.and_eq_true, decide_eq_true_eq] at hb
  exact hb.1

theorem staysFenced_coverChannel (i n k why : Nat) (s : State) : StaysFenced i s (coverChannel n k false why s) := by
  unfold coverChannel
  split
  · exact .refl i s
  · split
    · next hfree => exact staysFenced_startMove i (by rw [freeSpare_spare hfree]; decide)
    · split
      · exact staysFenced_askWidth i n k s
      · exact .refl i s

/-- Hand-overs that go on leave a fenced channel fenced. -/
theorem staysFenced_resumeHandovers (i n : Nat) (s : State) : StaysFenced i s (resumeHandovers n s) := by
  unfold resumeHandovers
  refine StaysFenced.foldl (.refl i s) fun u e => ?_
  split
  · split
    · exact staysFenced_coverChannel i n _ 0 u
    · exact .refl i u
  · exact .refl i u

theorem resumeHandovers_grows (n : Nat) (s : State) : Grows s (resumeHandovers n s) := by
  unfold resumeHandovers
  refine Grows.foldl (.refl s) fun u e hu => ?_
  split
  · split
    · exact coverChannel_grows _ _ _ _ hu
    · exact hu
  · exact hu

/-- With no hand-over of its chiplet, a check's end starts nothing. -/
theorem resumeHandovers_none (h : (s.las.handover.filter fun e => e.1 / 18 = n / 4) = []) : resumeHandovers n s = s := by
  unfold resumeHandovers
  dsimp only
  rw [h]
  rfl

/-! ## The ends of a check -/

/-- A transmit channel side is the one of its link and its channel. -/
theorem txi_inst {inst : Nat} (hinst : inst < 1152) (htx : instRx inst = false) : txi (instLink inst) (instCh inst) = inst := by
  have heven : inst / 18 % 2 ≠ 1 := by simpa [instRx, hinst] using htx
  simp only [txi, instLink, instCh, hinst, if_true]
  rw [if_pos (by omega)]
  omega

/-- What a check's end tells the far end changes no channel but for its lane blocks, and no part but these and the free
values. -/
theorem tellCheck_frame (j : Nat) (r : LaneCheck) (s : State) :
    Keeps [.chans, .free] s (tellCheck j r s) ∧ ∀ i, chanCore (chanSide i (tellCheck j r s)) = chanCore (chanSide i s) := by
  refine ⟨tellCheck_keeps j r rfl (Keeps.refl s), fun i => ?_⟩
  unfold tellCheck
  dsimp only
  split
  · rw [chanCore_sendBlocks]
    split
    · rfl
    · exact chanCore_sendBlocks _ _ _ _ i _
  · rfl

/-- A ring that failed its tone is told with no measurement. -/
theorem tellCheck_tone {j : Nat} {r : LaneCheck} (h : r.toneFailed = true) : Keeps [.chans] s (tellCheck j r s) := by
  unfold tellCheck
  dsimp only
  split
  · rw [if_pos (by simp [h])]
    exact sendBlocks_keeps _ _ _ _ rfl (Keeps.refl s)
  · exact Keeps.refl s

theorem exec_checkResult {inst : Nat} {r : LaneCheck} (hinst : inst < 1152) (hstate : (chanSide inst s).state = .check)
    (hdue : (chanSide inst s).began + 60000 ≤ s.clock.now) :
    exec (.checkResult inst r) s = .next (checkEnds inst r (tellCheck inst r s)) :=
  if_neg (by simp [hstate]; omega)

theorem correctTrims_walk (i : Nat) (s : State) : (chanSide i (correctTrims i s)).walk = (chanSide i s).walk ∧
    (correctTrims i s).clock = s.clock := by
  unfold correctTrims
  split
  · exact ⟨rfl, rfl⟩
  · refine ⟨?_, rfl⟩
    dsimp only
    rw [chanSide_setChan_self]
    rfl

/-- A check that passes without a walk leaves a spare lane whose age begins anew. -/
theorem checkPassed_clean (hwalk : (chanSide i s).walk.state = .idle) :
    (chanSide i (checkPassed i false s)).state = .spare ∧ (chanSide i (checkPassed i false s)).checkedAt = s.clock.now ∧
      (chanSide i (checkPassed i false s)).urgent = false ∧ (chanSide i (checkPassed i false s)).marginal = false ∧
      Keeps [.chans, .free] s (checkPassed i false s) := by
  obtain ⟨hkept, hclock⟩ := correctTrims_walk i s
  have hkeeps : Keeps [.chans, .free] s (correctTrims i s) := correctTrims_keeps i rfl (Keeps.refl s)
  unfold checkPassed
  dsimp only
  generalize correctTrims i s = u at hkept hclock hkeeps ⊢
  rw [if_neg (by rw [hkept, hwalk]; decide), chanSide_setChan_self]
  exact ⟨rfl, congrArg Clock.now hclock, rfl, rfl, keeps_setChans rfl hkeeps _⟩

theorem walk_of_chanCore {x y : Chan} (h : chanCore x = chanCore y) : x.walk = y.walk := (congrArg Chan.walk h :)

theorem heat_of_chanCore {x y : Chan} (h : chanCore x = chanCore y) : x.heat = y.heat := (congrArg Chan.heat h :)

theorem chipWalk_congr (hchan : chanCore (chanSide i t) = chanCore (chanSide i s)) (hk : Keeps [.chans] s t) :
    chipWalk i t = chipWalk i s := by
  have hheat := heat_of_chanCore hchan
  have hclock := hk.same .clock (by decide)
  have htherm := hk.same .therm (by decide)
  unfold chipWalk chipHeater chipBandOf
  rw [hheat, show t.clock = s.clock from hclock, show t.therm = s.therm from htherm]

end

/-- Settles O41: a check writes its own channel, and the hand-overs that go on after it leave a fenced one fenced. -/
theorem laneChecks : Obligations.LaneChecks := by
  refine ⟨fun inst lane s hinst htx hup hdue hyoung hspare hlane hwidth hchecking hmoves hchange hhand hsleep => ?_,
    fun link ch s hlink hch hrx hfenced hdark => ?_, fun link r s hlink hch hstate => ?_,
    fun inst r s hinst hstate hdue hwalk htone hclean hidle hnone hlane => ?_,
    fun inst r s hinst hstate hdue hwalk htone hnone => ?_, fun inst r s hinst hstate hdue hfail => ?_⟩
  · have htxi := txi_inst hinst htx
    obtain ⟨hcheck, hbegan, -⟩ := startCheck_frame (instLink inst) (instCh inst) s
    have hbegin : beginCheck (instLink inst) (instCh inst) false s = startCheck (instLink inst) (instCh inst) s := by
      unfold beginCheck
      dsimp only
      rw [if_neg Bool.false_ne_true, htxi, hlane]
      dsimp only
      rw [if_pos hwidth, if_pos hspare]
    have hexec : exec (.laneCheckDue inst) s = .next (startCheck (instLink inst) (instCh inst) s) := by
      rw [← hbegin]
      change execLaneCheckDue inst s = _
      unfold execLaneCheckDue
      dsimp only
      have hnot : ¬ (chanSide inst s).checkedAt + 40000000000 ≤ s.clock.now := by omega
      rw [if_neg (by simp [hspare, htx, hup]; omega), if_neg (by simp [hnot, hchecking, hmoves, hchange, hhand, hsleep]),
        if_neg (by simp [hnot])]
      simp only [hnot, decide_false]
    rw [htxi] at hcheck hbegan
    refine ⟨_, hexec, hcheck, hbegan, ?_, (startCheck_keeps _ _ rfl (Keeps.refl s)).frame⟩
    unfold startCheck sendBlocks
    dsimp only [List.foldl_cons, List.foldl_nil]
    rw [htxi, chanSide_setChan_self]
    exact List.mem_append_right _ (List.mem_singleton_self _)
  · have hstarts : checkStarts link ch s = enterCheck (rxi link ch) s := if_neg (by simp [hfenced, hdark])
    refine ⟨_, if_pos (by simp [hlink, hch, hrx]), ?_⟩
    rw [hstarts, enterCheck, chanSide_setChan_self]
    exact ⟨rfl, (keeps_setChans rfl (Keeps.refl s) _).frame⟩
  · have hreports : checkReports link r s = setChan (txi link r.ch) { chanSide (txi link r.ch) s with
        bias := (chanSide (txi link r.ch) s).bias + r.bias, drive := (chanSide (txi link r.ch) s).drive + r.drive } s :=
      if_pos hstate
    refine ⟨_, if_pos (by simp [hlink, hch]), ?_⟩
    rw [hreports, chanSide_setChan_self]
    exact ⟨rfl, (keeps_setChans rfl (Keeps.refl s) _).frame⟩
  · obtain ⟨htell, hcore⟩ := tellCheck_frame inst r s
    generalize htold : tellCheck inst r s = u at htell hcore
    have hend : checkEnds inst r u = checkPassed inst false u := by
      unfold checkEnds
      rw [if_neg (by simp [hwalk]), if_neg (by simp [htone]), if_pos hclean]
      refine resumeHandovers_none ?_
      rw [show (checkPassed inst false u).las = u.las from ((checkPassed_keeps inst false
        (T := [.boot, .dev, .faults, .db, .ports, .cmds, .graphs, .cairn, .chans, .out, .free]) rfl (Keeps.refl u)).same .las
          (by decide)), show u.las = s.las from htell.same .las (by decide)]
      exact hnone
    obtain ⟨hspare, hchecked, hurgent, hmarginal, hkeeps⟩ := checkPassed_clean (i := inst) (s := u)
      (by rw [walk_of_chanCore (hcore inst)]; exact hidle)
    refine ⟨_, exec_checkResult hinst hstate hdue, ?_⟩
    rw [htold, hend]
    refine ⟨hspare, hchecked.trans (congrArg Clock.now (htell.same .clock (by decide))), hurgent, hmarginal,
      (htell.trans hkeeps).frame⟩
  · obtain ⟨-, hcore⟩ := tellCheck_frame inst r s
    have htell := tellCheck_tone (s := s) (j := inst) htone
    generalize htold : tellCheck inst r s = u at htell hcore
    have hend : checkEnds inst r u = setChan inst { chanSide inst u with state := .relock, walk := chipWalk inst u } u := by
      unfold checkEnds
      rw [if_neg (by simp [hwalk]), if_pos htone]
      refine resumeHandovers_none ?_
      change (u.las.handover.filter _) = []
      rw [show u.las = s.las from htell.same .las (by decide)]
      exact hnone
    refine ⟨_, exec_checkResult hinst hstate hdue, ?_⟩
    rw [htold, hend, chanSide_setChan_self]
    exact ⟨rfl, chipWalk_congr (hcore inst) htell, (keeps_setChans rfl htell _).frame⟩
  · have hend : ∀ u, checkEnds inst r u = resumeHandovers (instLink inst) (fenceChan inst u) := fun u => by
      unfold checkEnds
      rcases hfail with hwalk | ⟨htone, hbad⟩
      · rw [if_pos hwalk]
      · split
        · rfl
        · rw [if_neg (by simp [htone]), if_neg (by omega), if_neg (by omega)]
    obtain ⟨hfences, hfenced⟩ := fenceChan_fences (i := inst) (by omega) (tellCheck inst r s)
    refine ⟨_, exec_checkResult hinst hstate hdue, ?_⟩
    rw [hend]
    exact ⟨staysFenced_resumeHandovers inst _ _ hfenced, hfences.grows (resumeHandovers_grows _ _)⟩

end Sys2Proof.Machine

/-!
PROOFS. Lines of DRAM at the stack controllers (R184, R188, R190–R194, R199).
-/

namespace Sys2Proof.Machine

section
variable {s t : State} {a k ch l x n : Nat} {b : BadSymbols}

/-! ## The directory's record -/

theorem dir_of_memRest {m m' : MemSys} (h : memRest m = memRest m') : m.dir = m'.dir := (congrArg MemSys.dir h :)

theorem recalls_of_memRest {m m' : MemSys} (h : memRest m = memRest m') : m.recalls = m'.recalls :=
  (congrArg MemSys.recalls h :)

/-- What leaves the directory's area leaves the directory and the other flank's cache. -/
theorem dirFrame_of_keeps {T : List Area} (h : Keeps T s t) (hm : Area.memCtl ∉ T) :
    (∀ a, dirOf a t = dirOf a s) ∧ (∀ a, cacheGet a t = cacheGet a s) ∧ t.mem.recalls = s.mem.recalls := by
  have hrest := h.same .memCtl hm
  refine ⟨fun a => ?_, fun a => ?_, recalls_of_memRest hrest⟩
  · rw [dirOf, dir_of_memRest hrest, dirOf]
  · rw [cacheGet, rlc_of_memRest hrest, cacheGet]

theorem dirOf_dirSet_self (a d : Nat) (s : State) : dirOf a (dirSet a d s) = d := tget_tset_self 0 s.mem.dir (a / 64) d

theorem cacheGet_cacheSet_self (a : Nat) (v : Option RlcLine) (s : State) : cacheGet a (cacheSet a v s) = v :=
  tget_tset_self none s.mem.rlc (a / 64) v

theorem dirOf_cacheSet (a : Nat) (v : Option RlcLine) (a' : Nat) (s : State) : dirOf a' (cacheSet a v s) = dirOf a' s := rfl

theorem recallLine_none (h : s.mem.home = false ∨ dirOf a s ≠ 2) : recallLine a s = s := by
  rcases h with h | h <;> simp [recallLine, h]

/-- A line in M comes home before a local read: the other flank keeps a clean copy. -/
theorem recallLine_home {v : RlcLine} (hhome : s.mem.home = true) (hdir : dirOf a s = 2) (hcache : cacheGet a s = some v) :
    dirOf a (recallLine a s) = 1 ∧ cacheGet a (recallLine a s) = some { v with dirty := false } := by
  have hrecall : recallLine a s = cacheSet a ((cacheGet a s).map RlcLine.clean) (dirSet a 1 (writeBack a s)) :=
    if_pos (by simp [hhome, hdir])
  rw [hrecall, dirOf_cacheSet, dirOf_dirSet_self, cacheGet_cacheSet_self, hcache]
  exact ⟨rfl, rfl⟩

/-- A write leaves no copy of its line on the other flank. -/
theorem claimLine_claims (hhome : s.mem.home = true) (h : dirOf a s ≠ 0 ∨ cacheGet a s ≠ none) :
    dirOf a (claimLine a s) = 0 ∧ cacheGet a (claimLine a s) = none := by
  have hclaim : claimLine a s = cacheSet a none (dirSet a 0 (writeBack a s)) := by
    refine if_pos ?_
    rcases h with h | h <;> simp [hhome, h, Option.isSome_iff_ne_none]
  rw [hclaim, dirOf_cacheSet, dirOf_dirSet_self, cacheGet_cacheSet_self]
  exact ⟨rfl, rfl⟩

/-! ## Reads -/

theorem forcedChan_none (h : s.faults.poisonNext = []) (k ch : Nat) : forcedChan k ch s = none := by
  simp [forcedChan, forcedD, h]

theorem deliverLine_plain (h : s.faults.poisonNext = []) : deliverLine a k ch s = sendLine a 0 s := by
  unfold deliverLine
  rw [forcedChan_none h]

/-- Delivering a line leaves memory. -/
theorem deliverLine_keepsMem (a k ch : Nat) (s : State) : Keeps [.faults, .out] s (deliverLine a k ch s) :=
  deliverLine_keeps a k ch rfl (Keeps.refl s)

theorem exec_dramRead {r : Requester} (ha : a < topOfDram s) (hup : stackDown a s = false)
    (hbehind : rowsBehind (stackOf a s).1 (channelOf (stackOf a s).2) b.bank s = false) :
    exec (.dramRead a r b) s = .next (deliverLine a (stackOf a s).1 (channelOf (stackOf a s).2)
      (decodeLine a (stackOf a s).1 (stackOf a s).2 0 b (countLineRead (stackOf a s).1 r (recallLine a s)))) := by
  change execDramRead a r b s = _
  unfold execDramRead
  rw [if_neg (by omega), if_neg (by simp [hup])]
  dsimp only
  rw [hbehind, if_neg (by decide)]

theorem decodeLine_clean {kind : Nat} (hcount : b.count = 0) (hpattern : b.pattern = false) : decodeLine a k l kind b s = s := by
  unfold decodeLine
  dsimp only
  rw [if_neg (by simp [badLine, hcount, hpattern]), if_neg (by omega)]

theorem lineData_congr (h : t.mem = s.mem) : lineData a t = lineData a s := by
  simp only [lineData, dramReadBytes, dramByte, h]

theorem linePoison_congr (h : t.mem = s.mem) : linePoison a t = linePoison a s := by
  simp only [linePoison, dramBad, stackDown_congr h, h]

theorem sendLine_out {kind : Nat} (h : t.mem = s.mem) : (sendLine a kind t).out =
    t.out ++ [.line (a / 64 * 64) kind (lineData a s) (linePoison a s)] := by
  unfold sendLine
  rw [lineData_congr h, linePoison_congr h]
  rfl

/-- An uncorrectable line is a fault event of class D of its stack channel. -/
theorem decodeLine_faulted {kind : Nat} (hb : badLine b = true) :
    Faulted (0x4000 + chanKey k (channelOf l)) .d s (decodeLine a k l kind b s) ∧
      (decodeLine a k l kind b s).faults.poisonNext = s.faults.poisonNext := by
  have hwrite : (writeLine a (List.replicate 64 (some 0)) 0xFF s).faults = s.faults :=
    (writeLine_keeps a _ _ (T := [.bytes]) rfl (Keeps.refl s)).same .faults (by decide)
  unfold decodeLine
  dsimp only
  rw [if_pos hb]
  unfold lineLost
  generalize writeLine a (List.replicate 64 (some 0)) 0xFF s = w at hwrite ⊢
  have hrow := (rowDue_frame k (channelOf l) b.bank b.row w).2
  generalize rowDue k (channelOf l) b.bank b.row w = v at hrow ⊢
  have hv := hrow.trans hwrite
  constructor
  · refine Faulted.congr (s := v) (t := _) ?_ hv.symm (countStack_frame k 5 1 _).2
    exact faulted_report _ _ _ _ _ _
  · rw [(countStack_frame k 5 1 _).2, faultD, report_poisonNext]
    exact congrArg Faults.poisonNext hv

/-! ## Writes -/

/-- The byte that a partly known line puts at a place, if any. -/
def cellAt (data : List (Option Byte)) (i : Nat) : Option Byte := data.getD i none

/-- A line's known bytes put one after another, up to a place. -/
def putCells (a : Nat) (data : List (Option Byte)) (is : List Nat) (s : State) : State :=
  is.foldl (fun t i => match cellAt data i with
    | some v => dramPut (a + i) v t
    | none => t) s

theorem putCells_range_succ (data : List (Option Byte)) (n : Nat) : putCells a data (List.range (n + 1)) s =
    (match cellAt data n with
      | some v => dramPut (a + n) v (putCells a data (List.range n) s)
      | none => putCells a data (List.range n) s) := by
  rw [putCells, List.range_succ, List.foldl_append]
  rfl

theorem stackDown_putCells (data : List (Option Byte)) (is : List Nat) (y : Nat) :
    stackDown y (putCells a data is s) = stackDown y s := by
  unfold putCells
  refine List.foldlRecOn (motive := fun t => stackDown y t = stackDown y s) is _ rfl fun t ht i _ => ?_
  split
  · rw [stackDown_dramPut, ht]
  · exact ht

/-- After the first cells of a line are put, a byte among them that is known reads as put, and any other as before. -/
theorem dramByte_putCells (data : List (Option Byte)) (hup : ∀ y, a ≤ y → y < a + n → stackDown y s = false) :
    (∀ i v, i < n → cellAt data i = some v → dramByte (a + i) (putCells a data (List.range n) s) = v) ∧
      (∀ i, i < n → cellAt data i = none → dramByte (a + i) (putCells a data (List.range n) s) = dramByte (a + i) s) ∧
      ∀ y, (y < a ∨ a + n ≤ y) → dramByte y (putCells a data (List.range n) s) = dramByte y s := by
  induction n with
  | zero => exact ⟨fun i v h => absurd h (Nat.not_lt_zero i), fun i h => absurd h (Nat.not_lt_zero i), fun _ _ => rfl⟩
  | succ n ih =>
    obtain ⟨hknown, hopen, hout⟩ := ih fun y hl hr => hup y hl (by omega)
    rw [putCells_range_succ]
    cases hcell : cellAt data n with
    | none =>
      refine ⟨fun i v hi hv => ?_, fun i hi hv => ?_, fun y hy => hout y (by omega)⟩
      · refine hknown i v (Nat.lt_of_le_of_ne (Nat.le_of_lt_succ hi) fun h => ?_) hv
        rw [h, hcell] at hv
        cases hv
      · by_cases h : i = n
        · rw [h]
          exact hout (a + n) (by omega)
        · exact hopen i (by omega) hv
    | some v =>
      have hput : stackDown (a + n) (putCells a data (List.range n) s) = false := by
        rw [stackDown_putCells, hup (a + n) (by omega) (by omega)]
      refine ⟨fun i w hi hw => ?_, fun i hi hw => ?_, fun y hy => ?_⟩
      · by_cases h : i = n
        · subst h
          rw [hcell] at hw
          cases hw
          exact dramByte_dramPut_self hput v
        · dsimp only
          rw [dramByte_dramPut_ne (by omega)]
          exact hknown i w (by omega) hw
      · have h : i ≠ n := fun h => by
          rw [h, hcell] at hw
          cases hw
        dsimp only
        rw [dramByte_dramPut_ne (by omega)]
        exact hopen i (by omega) hw
      · dsimp only
        rw [dramByte_dramPut_ne (by omega)]
        exact hout y (by omega)

/-- Writing a line's POISON leaves its bytes as they were put. -/
theorem dramByte_writeLine (data : List (Option Byte)) (poison : Byte) (y : Nat) :
    dramByte y (writeLine a data poison s) = dramByte y (putCells (a / 64 * 64) data (List.range 64) s) := by
  unfold writeLine
  dsimp only
  refine List.foldlRecOn (motive := fun t => dramByte y t = dramByte y (putCells (a / 64 * 64) data (List.range 64) s)) _ _ rfl
    fun t ht g _ => ?_
  split
  · unfold dramTaint
    rw [if_neg (by decide)]
    exact ht
  · split
    · exact ht
    · exact ht

theorem exec_dramWrite {data : List (Option (BitVec 8))} {poison : BitVec 8} (ha : a < topOfDram s)
    (hup : stackDown a s = false) : exec (.dramWrite a data poison) s =
      .next (countStack (stackOf a s).1 1 1 (writeLine a data poison (claimLine a s))) := if_neg (by simp [hup, ha])

/-! ## Requests to the directory -/

theorem exec_directoryRequest_first {q : DirReq} (hhome : s.mem.home = true) (ha : a < topOfDram s)
    (hup : stackDown a s = false) (hnone : dirHead a s = none) : exec (.directoryRequest a q) s = .next (dirHandle a q s) := by
  refine (if_neg (by simp [hhome, ha, hup])).trans ?_
  rw [hnone]

theorem mem_countSeam (a : Nat) (s : State) : Keeps [.counts] s (countSeam a s) :=
  countStack_keeps _ _ _ rfl (countStack_keeps _ _ _ rfl (Keeps.refl s))

/-- With nothing cached, no line leaves a cache to make room. -/
theorem makeRoom_empty {f : Flank} (h : s.mem.rlc = []) : makeRoom f s = s := by
  unfold makeRoom cachedOn
  rw [h]
  rfl

/-- A line fetched for writing is in M, its copy dirty on the other flank. -/
theorem fetchLine_forWrite {f : Flank} (hf : f = if homeFlank a s = .north then .south else .north) (u : State)
    (hu : makeRoom f s = u) : dirOf a (fetchLine a true s) = 2 ∧
      cacheGet a (fetchLine a true s) = some ⟨true, lineData a u, linePoison a u⟩ ∧
      Keeps [.memCtl] u (fetchLine a true s) := by
  have hfetch : fetchLine a true s = cacheSet a (some ⟨true, lineData a u, linePoison a u⟩) (dirSet a 2 u) := by
    rw [← hu, hf]
    rfl
  rw [hfetch, dirOf_cacheSet, dirOf_dirSet_self, cacheGet_cacheSet_self]
  exact ⟨rfl, rfl, cacheSet_keeps _ _ rfl (dirSet_keeps _ _ rfl (Keeps.refl u))⟩

/-- A read for writing from the other flank of a line not in M moves it to M there. -/
theorem readForWrite_serves (hdir : dirOf a s ≠ 2) : ∃ t x, dirHandle a .remoteReadForWrite s = t ∧ dirOf a t = 2 ∧
      cacheGet a t = some x ∧ x.dirty = true ∧
      (s.mem.rlc = [] → x.data = lineData a s ∧ x.poison = linePoison a s ∧ OnlyChanges [.memCtl, .counts, .out] s t) := by
  have hhandle : dirHandle a .remoteReadForWrite s = sendLine a 0 (fetchLine a true (countSeam a s)) := if_neg hdir
  have hseam := mem_countSeam a s
  have hmem := mem_of_keepsCounts hseam
  generalize countSeam a s = c at hhandle hseam hmem
  obtain ⟨hd, hc, hkeeps⟩ := fetchLine_forWrite rfl (makeRoom _ c) (s := c) (a := a) rfl
  refine ⟨_, _, hhandle, hd, hc, rfl, fun hempty => ?_⟩
  rw [makeRoom_empty (by rw [hmem, hempty])] at hkeeps ⊢
  exact ⟨lineData_congr hmem, linePoison_congr hmem,
    (emit_keeps _ rfl ((hseam.weaken (by decide)).trans (hkeeps.weaken (by decide)))).frame⟩

/-- The first request of a line that is the only one waiting. -/
theorem dirHead_single {h : Recall} (hlist : s.mem.recalls = [h]) (hline : h.line = a / 64) : dirHead a s = some h := by
  unfold dirHead
  rw [hlist]
  simp [hline]

/-- The list of requests without the first of a line. -/
def dropRecall (a : Nat) (s : State) : State :=
  { s with mem := { s.mem with recalls := dropHead (a / 64) s.mem.recalls } }

theorem dropRecall_keeps {T : List Area} (a : Nat) (hT : within [.memCtl] T = true) (h : Keeps T s t) :
    Keeps T s (dropRecall a t) :=
  keeps_mkMem h fun y hy => by cases y <;> first
    | exact absurd (within_mem hT rfl) hy
    | exact rfl
    | exact ⟨rfl, rfl, rfl, rfl, rfl, rfl⟩

theorem dropRecall_single {h : Recall} (hlist : s.mem.recalls = [h]) (hline : h.line = a / 64) :
    (dropRecall a s).mem.recalls = [] := by
  unfold dropRecall
  rw [hlist]
  exact if_pos hline

/-- A read served from the answer to its recall leaves DIR S and a clean copy on the other flank. -/
theorem dirServe_read {h : Recall} (hreq : h.req = .localRead) : ∃ v : RlcLine, v.dirty = false ∧
    dirOf a (dirServe a h s) = 1 ∧ cacheGet a (dirServe a h s) = some v ∧
    (dirServe a h s).out.length = s.out.length + 1 ∧ (dirServe a h s).mem.recalls = s.mem.recalls ∧
    Keeps [.memCtl, .counts, .out] s (dirServe a h s) := by
  have hserve : dirServe a h s = sendLine a 0 (countStack (stackOf a s).1 0 1
      (cacheSet a (some ⟨false, lineData a s, linePoison a s⟩) (dirSet a 1 s))) := by
    unfold dirServe
    rw [hreq]
  have hset : Keeps [.memCtl, .counts, .out] s (cacheSet a (some ⟨false, lineData a s, linePoison a s⟩) (dirSet a 1 s)) :=
    cacheSet_keeps _ _ rfl (dirSet_keeps _ _ rfl (Keeps.refl s))
  generalize hu : cacheSet a (some ⟨false, lineData a s, linePoison a s⟩) (dirSet a 1 s) = u at hserve hset
  have hcount : Keeps [.counts] u (countStack (stackOf a s).1 0 1 u) := countStack_keeps _ _ _ rfl (Keeps.refl u)
  obtain ⟨hdir, hcache, hrecalls⟩ := dirFrame_of_keeps hcount (by decide)
  rw [hserve]
  refine ⟨⟨false, lineData a s, linePoison a s⟩, rfl, (hdir a).trans ?_, (hcache a).trans ?_, ?_, hrecalls.trans ?_, ?_⟩
  · rw [← hu, dirOf_cacheSet, dirOf_dirSet_self]
  · rw [← hu, cacheGet_cacheSet_self]
  · rw [sendLine_out rfl, List.length_append, show (countStack (stackOf a s).1 0 1 u).out = u.out from
      hcount.same .out (by decide), ← hu]
    rfl
  · rw [← hu]
    rfl
  · exact emit_keeps _ rfl (hset.trans (hcount.weaken (by decide)))

/-- A write served from an invalidation leaves DIR I and no copy on the other flank. -/
theorem dirServe_write {h : Recall} {data : List (Option (BitVec 8))} {poison : BitVec 8}
    (hreq : h.req = .localWrite data poison) : (dirServe a h s).mem.dir = tset 0 s.mem.dir (a / 64) 0 ∧
      (dirServe a h s).mem.rlc = tset none s.mem.rlc (a / 64) none ∧ (dirServe a h s).mem.recalls = s.mem.recalls ∧
      Keeps [.bytes, .memCtl, .counts] s (dirServe a h s) := by
  have hserve : dirServe a h s = cacheSet a none (dirSet a 0 (countStack (stackOf a s).1 1 1 (writeLine a data poison s))) := by
    unfold dirServe
    rw [hreq]
    rfl
  have hu : Keeps [.bytes, .counts] s (countStack (stackOf a s).1 1 1 (writeLine a data poison s)) :=
    countStack_keeps _ _ _ rfl (writeLine_keeps _ _ _ rfl (Keeps.refl s))
  rw [hserve]
  generalize countStack (stackOf a s).1 1 1 (writeLine a data poison s) = u at hu ⊢
  have hrest := hu.same .memCtl (by decide)
  refine ⟨?_, ?_, recalls_of_memRest (m := u.mem) hrest, cacheSet_keeps _ _ rfl (dirSet_keeps _ _ rfl (hu.weaken (by decide)))⟩
  · rw [← dir_of_memRest hrest]
    rfl
  · rw [← rlc_of_memRest hrest]
    rfl

theorem dirResume_none {j : Nat} (h : s.mem.recalls = []) : dirResume a j s = s := by
  cases j with
  | zero => rfl
  | succ j =>
    unfold dirResume dirHead
    rw [h]
    rfl

/-! ## Refresh, scrub and failure -/

theorem rowsBehind_caughtUp (k ch bank : Nat) (s : State) : rowsBehind k ch bank (caughtUp k (bankKey k ch bank) s) = false := by
  unfold caughtUp
  split
  case h_1 t l _ =>
    unfold rowsBehind
    dsimp only
    rw [tget_tset_none_self]
    simp [mem_setInsert]
  case h_2 hnone =>
    unfold rowsBehind
    rw [hnone]

theorem caughtUp_postponed (k key : Nat) (s : State) : (caughtUp k key s).stk.postponed = s.stk.postponed := by
  unfold caughtUp
  split <;> rfl

theorem scrubAt_ite {c : Prop} [Decidable c] {u v : State} (hu : u.stk.scrubAt = s.stk.scrubAt)
    (hv : v.stk.scrubAt = s.stk.scrubAt) : (if c then u else v).stk.scrubAt = s.stk.scrubAt := by
  split
  · exact hu
  · exact hv

theorem scrubPromote_scrubAt (k : Nat) (s : State) : (scrubPromote k s).stk.scrubAt = s.stk.scrubAt := by
  have hcount : ∀ u : State, (promote 3 (countStack k 7 1 u)).stk = u.stk := fun u =>
    (promote_keeps 3 rfl (countStack_keeps k 7 1 (T := [.counts, .therm]) rfl (Keeps.refl u))).same .stk (by decide)
  unfold scrubPromote
  exact scrubAt_ite (by rw [hcount]) (scrubAt_ite rfl rfl)

theorem perCore_stack {c : Nat} (hc : c < 256) : perCore (0x4000 + c) = false := by
  simp only [perCore, Bool.or_eq_false_iff, decide_eq_false_iff_not]
  omega

/-! ## Rows -/

/-- The answer to a recall that a local read waits for serves the read. -/
theorem recallAnswer_serves {h : Recall} (hhome : s.mem.home = true) (hlist : s.mem.recalls = [h]) (hline : h.line = a / 64)
    (hopen : h.answered = false) (hreq : h.req = .localRead) (hdir : dirOf a s = 2) (data : List (BitVec 8))
    (poison : BitVec 8) : ∃ t v, exec (.recallAnswer a true data poison) s = .next t ∧ v.dirty = false ∧ dirOf a t = 1 ∧
      cacheGet a t = some v ∧ t.out.length = s.out.length + 1 ∧ t.mem.recalls = [] ∧
      Keeps [.bytes, .memCtl, .counts, .out] s t := by
  have hwrite : Keeps [.bytes, .counts] s (countStack (stackOf a s).1 1 1 (writeLine a (data.map some) poison s)) :=
    countStack_keeps _ _ _ rfl (writeLine_keeps _ _ _ rfl (Keeps.refl s))
  have hexec : exec (.recallAnswer a true data poison) s = (fun u : State =>
      .next (dirResume a (dirServe a h u).mem.recalls.length (dirServe a h u)))
        (dropRecall a (countStack (stackOf a s).1 1 1 (writeLine a (data.map some) poison s))) := by
    change execRecallAnswer a true data poison s = _
    unfold execRecallAnswer
    rw [dirHead_single hlist hline]
    dsimp only
    rw [if_neg (by simp [hhome]), if_neg (by simp [hopen]), if_neg (by simp [hdir]), if_neg (by decide)]
    rfl
  generalize countStack (stackOf a s).1 1 1 (writeLine a (data.map some) poison s) = u at hwrite hexec
  obtain ⟨-, -, hrecalls⟩ := dirFrame_of_keeps hwrite (by decide)
  have hempty := dropRecall_single (s := u) (hrecalls.trans hlist) hline
  obtain ⟨v, hclean, hd, hc, hout, hkept, hkeeps⟩ := dirServe_read (a := a) (s := dropRecall a u) hreq
  dsimp only at hexec
  rw [dirResume_none (hkept.trans hempty)] at hexec
  have houtu : (dropRecall a u).out = s.out := hwrite.same .out (by decide)
  exact ⟨_, v, hexec, hclean, hd, hc, hout.trans (by rw [houtu]), hkept.trans hempty,
    (dropRecall_keeps a rfl (hwrite.weaken (by decide))).trans (hkeeps.weaken (by decide))⟩

/-- The acknowledgement of an invalidation that a local write waits for serves the write. -/
theorem invalidateAck_serves {h : Recall} {data : List (Option (BitVec 8))} {poison : BitVec 8} (hhome : s.mem.home = true)
    (hlist : s.mem.recalls = [h]) (hline : h.line = a / 64) (hopen : h.answered = false) (hinval : h.inval = true)
    (hreq : h.req = .localWrite data poison) (hdir : dirOf a s = 1) : ∃ t, exec (.invalidateAck a) s = .next t ∧
      t.mem.recalls = [] ∧ t.mem.dir = tset 0 s.mem.dir (a / 64) 0 ∧ t.mem.rlc = tset none s.mem.rlc (a / 64) none ∧
      Keeps [.bytes, .memCtl, .counts] s t := by
  have hexec : exec (.invalidateAck a) s =
      .next (dirResume a (dirServe a h (dropRecall a s)).mem.recalls.length (dirServe a h (dropRecall a s))) := by
    change execInvalidateAck a s = _
    unfold execInvalidateAck
    rw [dirHead_single hlist hline]
    exact if_neg (by simp [hhome, hopen, hinval, hdir])
  obtain ⟨hd, hc, hkept, hkeeps⟩ := dirServe_write (a := a) (s := dropRecall a s) hreq
  have hempty := hkept.trans (dropRecall_single hlist hline)
  rw [dirResume_none hempty] at hexec
  exact ⟨_, hexec, hempty, hd, hc, (dropRecall_keeps a rfl (Keeps.refl s)).trans hkeeps⟩

/-- A bank with one refresh more postponed. -/
def oncePostponed (k ch bank : Nat) (s : State) : State :=
  { s with stk := { s.stk with
      postponed := tset 0 s.stk.postponed (bankKey k ch bank) (tget 0 s.stk.postponed (bankKey k ch bank) + 1) } }

/-- A bank marked urgent, and told so. -/
def madeUrgent (k key : Nat) (s : State) : State :=
  promote 4 (countStack k 7 1 { s with stk := { s.stk with refreshUrgent := setInsert key s.stk.refreshUrgent } })

theorem madeUrgent_stk (k key : Nat) (s : State) : (madeUrgent k key s).stk =
    { s.stk with refreshUrgent := setInsert key s.stk.refreshUrgent } ∧ Keeps [.counts, .stk, .therm] s (madeUrgent k key s) :=
  ⟨(promote_keeps 4 (T := [.counts, .therm]) rfl (countStack_keeps k 7 1 rfl (Keeps.refl _))).same .stk (by decide),
    promote_keeps 4 rfl (countStack_keeps k 7 1 rfl (keeps_setStk rfl (Keeps.refl s) _))⟩

/-- A refresh is postponed; the eighth makes its bank urgent. -/
theorem refresh_postponed {bank : Nat} (hch : ch < 32) (hbank : bank < 1024) (hruns : refreshRuns k s = true)
    (hbehind : rowsBehind k ch bank s = false) (hurgent : bankKey k ch bank ∉ s.stk.refreshUrgent)
    (hn : tget 0 s.stk.postponed (bankKey k ch bank) = n) :
    ∃ t, exec (.refresh k ch bank true) s = .next t ∧ tget 0 t.stk.postponed (bankKey k ch bank) = n + 1 ∧
      (bankKey k ch bank ∈ t.stk.refreshUrgent ↔ n = 7) ∧ OnlyChanges [.counts, .stk, .therm] s t := by
  have hexec : exec (.refresh k ch bank true) s = if n + 1 = 8
      then .next (madeUrgent k (bankKey k ch bank) (countStack k 6 1 (oncePostponed k ch bank s)))
      else .next (countStack k 6 1 (oncePostponed k ch bank s)) := by
    rw [← hn]
    exact (if_neg (by simp [hruns]; omega)).trans (if_pos (by simp [hbehind, hurgent]))
  have hcount : Keeps [.counts] (oncePostponed k ch bank s) (countStack k 6 1 (oncePostponed k ch bank s)) :=
    countStack_keeps _ _ _ rfl (Keeps.refl _)
  have hframe : Keeps [.counts, .stk, .therm] s (countStack k 6 1 (oncePostponed k ch bank s)) :=
    countStack_keeps _ _ _ rfl (keeps_setStk rfl (Keeps.refl s) _)
  have hstk : (countStack k 6 1 (oncePostponed k ch bank s)).stk = (oncePostponed k ch bank s).stk := hcount.same .stk (by decide)
  have hpost : tget 0 (oncePostponed k ch bank s).stk.postponed (bankKey k ch bank) = n + 1 := by
    unfold oncePostponed
    dsimp only
    rw [tget_tset_self, hn]
  generalize countStack k 6 1 (oncePostponed k ch bank s) = u at hexec hstk hframe
  split at hexec
  · next h7 =>
    obtain ⟨hmade, hkeeps⟩ := madeUrgent_stk k (bankKey k ch bank) u
    refine ⟨_, hexec, ?_, ?_, (hframe.trans hkeeps).frame⟩
    · rw [hmade, ← hpost, hstk]
    · rw [hmade]
      exact ⟨fun _ => by omega, fun _ => mem_setInsert.mpr (.inl rfl)⟩
  · next h7 =>
    refine ⟨_, hexec, by rw [hstk, hpost], ?_, hframe.frame⟩
    rw [hstk]
    exact ⟨fun h => absurd h hurgent, fun h => absurd (by omega) h7⟩

/-- A refresh issued counts down what was postponed, and its bank is behind no longer. -/
theorem refresh_issued {bank : Nat} (hch : ch < 32) (hbank : bank < 1024) (hruns : refreshRuns k s = true) :
    ∃ t, exec (.refresh k ch bank false) s = .next t ∧
      t.stk.postponed = tset 0 s.stk.postponed (bankKey k ch bank) (tget 0 s.stk.postponed (bankKey k ch bank) - 1) ∧
      rowsBehind k ch bank t = false ∧ OnlyChanges [.stk] s t := by
  refine ⟨_, (if_neg (by simp [hruns]; omega)).trans (if_neg (by simp)), caughtUp_postponed _ _ _, rowsBehind_caughtUp _ _ _ _,
    (caughtUp_keeps _ _ rfl (keeps_setStk rfl (Keeps.refl s) _)).frame⟩

/-- A stack whose band rose to a shorter interval has every bank behind. -/
theorem refreshBandChange_rise (hk : k < 8) : ∃ t, exec (.refreshBandChange k) s = .next t ∧
      t.stk.band = tset 0 s.stk.band k (tget 0 s.therm.bands k) ∧
      (rowInterval (tget 0 s.therm.bands k) < rowInterval (tget 0 s.stk.band k) → ∀ ch bank, rowsBehind k ch bank t = true) ∧
      OnlyChanges [.stk] s t := by
  refine ⟨_, if_pos hk, rfl, fun hshort ch bank => ?_, (keeps_setStk rfl (Keeps.refl s) _).frame⟩
  unfold rowsBehind
  dsimp only
  rw [if_pos hshort, tget_tset_none_self]
  rfl

theorem scrubNext_within (h : tget 0 s.stk.scrubAt k + 1 < stackLines) :
    tget 0 (scrubNext k s).stk.scrubAt k = tget 0 s.stk.scrubAt k + 1 := by
  have hnext : scrubNext k s =
      { s with stk := { s.stk with scrubAt := tset 0 s.stk.scrubAt k (tget 0 s.stk.scrubAt k + 1) } } := if_pos h
  rw [hnext]
  exact tget_tset_self 0 s.stk.scrubAt k (tget 0 s.stk.scrubAt k + 1)

/-- A scrub read of a clean line moves on by one. -/
theorem scrubRead_clean {row : Nat × Nat × Nat} (hin : k ∈ s.mem.inService) (hfailed : k ∉ s.mem.failed)
    (hlost : k ∉ s.mem.lost) (hruns : refreshRuns k s = true) (hhot : s.dev.state ≠ .haltedThermal) (hcount : b.count = 0)
    (hpattern : b.pattern = false) (hnext : tget 0 s.stk.scrubAt k + 1 < stackLines) :
    ∃ t, exec (.scrubRead k b row) s = .next t ∧ tget 0 t.stk.scrubAt k = tget 0 s.stk.scrubAt k + 1 ∧
      OnlyChanges [.counts, .stk, .therm] s t := by
  have hdecode : ∀ u, scrubDecode k b u = u := fun u => by
    unfold scrubDecode
    split
    · exact decodeLine_clean hcount hpattern
    · rfl
  have hmark : ∀ u, scrubMark k b row u = u := fun u => by
    unfold scrubMark
    rw [if_neg (by simp [badLine, hcount, hpattern]), if_neg (by omega)]
  have hat := scrubPromote_scrubAt k s
  have hexec : exec (.scrubRead k b row) s = .next (scrubNext k (scrubPromote k s)) := by
    refine (if_neg (by simp [hin, hfailed, hlost, hruns, hhot])).trans ?_
    rw [hdecode, hmark]
  have hframe : Keeps [.counts, .stk, .therm] s (scrubPromote k s) := scrubPromote_keeps k rfl (Keeps.refl s)
  generalize scrubPromote k s = u at hat hexec hframe
  refine ⟨_, hexec, ?_, (scrubNext_keeps k rfl hframe).frame⟩
  rw [← hat] at hnext ⊢
  exact scrubNext_within hnext

/-- A stack and its channel on the lists of what has failed. -/
def stackLeft (k ch : Nat) (s : State) : State :=
  { s with
    mem := { s.mem with failed := setInsert k s.mem.failed, dropped := setInsert k s.mem.dropped }
    stk := { s.stk with channelsFailed := setInsert (chanKey k ch) s.stk.channelsFailed } }

/-- A stack fails with one of its channels, as a fault event of class U. -/
theorem failStack_fails (hk : k < 8) (hch : ch < 32) (phy : Bool) : k ∈ (failStack k ch phy s).mem.failed ∧
      k ∈ (failStack k ch phy s).mem.dropped ∧ chanKey k ch ∈ (failStack k ch phy s).stk.channelsFailed ∧
      Fenced (0x4000 + chanKey k ch) 0 (failStack k ch phy s) ∧ Faulted (0x4000 + chanKey k ch) .u s (failStack k ch phy s) := by
  have hkey : chanKey k ch < 256 := by
    unfold chanKey
    omega
  have hu : Keeps [.memCtl, .stk] s (stackLeft k ch s) := keeps_mkMem (Keeps.refl s) fun y hy => by cases y <;> first
    | exact absurd (within_mem (a := [.memCtl, .stk]) rfl rfl) hy
    | exact rfl
    | exact ⟨rfl, rfl, rfl, rfl, rfl, rfl⟩
  have hfaults := hu.same .faults (by decide)
  have hfail : failStack k ch phy s = refreshDegraded (faultU (0x4000 + chanKey k ch) ((if phy then 3 else 2) * 2 ^ 55)
      (stackLeft k ch s)) := rfl
  have hlist : k ∈ (stackLeft k ch s).mem.failed ∧ k ∈ (stackLeft k ch s).mem.dropped ∧
      chanKey k ch ∈ (stackLeft k ch s).stk.channelsFailed :=
    ⟨mem_setInsert.mpr (.inl rfl), mem_setInsert.mpr (.inl rfl), mem_setInsert.mpr (.inl rfl)⟩
  rw [hfail]
  generalize stackLeft k ch s = u at hfaults hlist
  have hfenced := fenced_faultU (src := 0x4000 + chanKey k ch) (by omega) (perCore_stack hkey)
    ((if phy then 3 else 2) * 2 ^ 55) u
  have hfaulted : Faulted (0x4000 + chanKey k ch) .u s (faultU (0x4000 + chanKey k ch) ((if phy then 3 else 2) * 2 ^ 55) u) :=
    (faulted_report _ _ _ _ _ u).congr hfaults.symm rfl
  have hmem : (faultU (0x4000 + chanKey k ch) ((if phy then 3 else 2) * 2 ^ 55) u).mem = u.mem := report_mem _ u
  have hstk : (faultU (0x4000 + chanKey k ch) ((if phy then 3 else 2) * 2 ^ 55) u).stk = u.stk :=
    (faultU_keeps _ _ (T := [.boot, .dev, .faults, .db, .ports, .cmds, .graphs, .cairn, .out]) rfl (Keeps.refl u)).same .stk
      (by decide)
  generalize faultU (0x4000 + chanKey k ch) ((if phy then 3 else 2) * 2 ^ 55) u = v at hfenced hfaulted hmem hstk
  have hdeg : Keeps [.dev, .db, .ports, .cmds, .out] v (refreshDegraded v) := refreshDegraded_keeps rfl (Keeps.refl v)
  have hdmem := (mem_eq_of_same (hdeg.same .bytes (by decide)) (hdeg.same .memCtl (by decide))).trans hmem
  have hdstk : (refreshDegraded v).stk = u.stk := (hdeg.same .stk (by decide)).trans hstk
  rw [hdmem, hdstk]
  exact ⟨hlist.1, hlist.2.1, hlist.2.2, hfenced.grows (refreshDegraded_grows (Grows.refl v)),
    hfaulted.congr rfl (hdeg.same .faults (by decide))⟩

/-! ## Repair and rewriting -/

/-- The rewriting of lost memory zeroes its bytes and leaves them poisoned. -/
theorem sweepLost_zeroes (hswept : s.mem.swept = false) : ∀ x, (lostRange s).1 ≤ x → x < (lostRange s).2 / 8 * 8 →
    tget 0 (sweepLost s).mem.dram x = 0 ∧ rmem (x / 8) (sweepLost s).mem.poison = true := by
  intro x hlo hhi
  have hsweep : sweepLost s = { s with mem := { s.mem with
      dram := tclear s.mem.dram fun a => (lostRange s).1 ≤ a && a < (lostRange s).2
      poison := radd ((lostRange s).1 / 8) ((lostRange s).2 / 8) s.mem.poison
      dir := tclear s.mem.dir fun x => (lostRange s).1 ≤ x * 64 && x * 64 < (lostRange s).2 } } := if_neg (by simp [hswept])
  rw [hsweep]
  have hin : (lostRange s).1 ≤ x ∧ x < (lostRange s).2 := ⟨hlo, by omega⟩
  constructor
  · dsimp only
    rw [tget_tclear]
    simp [hin]
  · exact rmem_radd _ _ _ _ (.inl ⟨by omega, by omega⟩)

/-- Lost memory whose flanks are all back is rewritten and lost no longer. -/
theorem lostMemoryRewrite_all (hlost : s.mem.lost ≠ []) (hswept : s.mem.swept = false)
    (hback : ∀ k ∈ s.mem.lost, stackBack k s = true) : ∃ t, exec .lostMemoryRewrite s = .next t ∧ t.mem.lost = [] ∧
      (∀ x, (lostRange s).1 ≤ x → x < (lostRange s).2 / 8 * 8 → dramByte x t = 0 ∧ rmem (x / 8) t.mem.poison = true) ∧
      OnlyChanges [.bytes, .memCtl] s t := by
  have hnone : (s.mem.lost.filter fun k => !stackBack k s) = [] :=
    List.filter_eq_nil_iff.mpr fun k hk => by simp [hback k hk]
  have hexec : exec .lostMemoryRewrite s =
      .next { sweepLost s with mem := { (sweepLost s).mem with lost := [], swept := false } } := by
    change execLostMemoryRewrite s = _
    unfold execLostMemoryRewrite
    rw [hnone]
    exact if_neg fun h => hlost h.symm
  have hkeeps := sweepLost_keeps (T := [.bytes, .memCtl]) rfl (Keeps.refl s)
  refine ⟨_, hexec, rfl, sweepLost_zeroes hswept, Keeps.frame (keeps_mkMem hkeeps fun y hy => ?_)⟩
  cases y <;> first
    | exact absurd (within_mem (a := [.bytes, .memCtl]) rfl rfl) hy
    | exact rfl

end

/-- Settles O51: each row of a line, of the directory, of refresh, scrub and repair writes what its rule names. -/
theorem memoryLines : Obligations.MemoryLines := by
  refine ⟨fun a r b s ha hup hcount hpattern hpoison hdir hbehind => ?_,
    fun a r b s ha hup hb hpoison hbehind => ?_, fun a r b x s ha hup hhome hdir hcache hbehind => ?_,
    fun a r b s ha hup hbehind => ?_, fun a data s ha hopen => ?_, fun a data poison s ha hup hhome hheld => ?_,
    fun a s hhome ha hup hnone hdir => ?_, fun a s hhome ha hup hnone hdir => ?_,
    fun a data poison h s hhome hlist hline hopen hreq hdir => ?_,
    fun a data poison h s hhome hlist hline hopen hinval hreq hdir => ?_, fun a inval x s hhome ha hcache => ?_,
    fun stack ch bank n s hch hbank hruns hbehind hurgent hn hfew => ?_, fun stack ch bank s hch hbank hruns => ?_,
    fun stack ch bank postpone s hruns => ?_, fun stack s hstack => ?_,
    fun stack b row s hin hfailed hlost hruns hhot hcount hpattern hnext => ?_,
    fun stack ch bank row n s hch hbank hruns hdue hn hfew => ?_, fun stack ch bank row s hdue => ?_,
    fun stack ch s hstack hch hfresh => ?_, fun s _ hlost hswept hback => ?_, fun s hout => ?_⟩
  · have hcounted := countLineRead_keeps (stackOf a s).1 r (T := [.counts]) rfl (Keeps.refl s)
    have hmem := mem_of_keepsCounts hcounted
    refine ⟨_, exec_dramRead ha hup hbehind, ?_⟩
    rw [recallLine_none hdir, decodeLine_clean hcount hpattern, deliverLine_plain (by
      rw [show (countLineRead (stackOf a s).1 r s).faults = s.faults from hcounted.same .faults (by decide), hpoison]),
      sendLine_out hmem, show (countLineRead (stackOf a s).1 r s).out = s.out from hcounted.same .out (by decide)]
    exact ⟨rfl, (emit_keeps _ rfl (hcounted.weaken (by decide))).frame⟩
  · have hrecall := recallLine_keeps a (T := [.bytes, .memCtl, .counts]) rfl (Keeps.refl s)
    have hcounted := countLineRead_keeps (stackOf a s).1 r (T := [.bytes, .memCtl, .counts]) rfl hrecall
    obtain ⟨hfault, hforced⟩ := decodeLine_faulted (a := a) (k := (stackOf a s).1) (l := (stackOf a s).2) (kind := 0)
      (s := countLineRead (stackOf a s).1 r (recallLine a s)) hb
    have hfaults : (countLineRead (stackOf a s).1 r (recallLine a s)).faults = s.faults := hcounted.same .faults (by decide)
    refine ⟨_, exec_dramRead ha hup hbehind, ?_⟩
    rw [deliverLine_plain (by rw [hforced, hfaults, hpoison])]
    exact hfault.congr hfaults.symm rfl
  · obtain ⟨hdir', hcache'⟩ := recallLine_home hhome hdir hcache
    have hcounted := countLineRead_keeps (stackOf a s).1 r (T := [.counts]) rfl (Keeps.refl (recallLine a s))
    have hdecoded := decodeLine_keeps a (stackOf a s).1 (stackOf a s).2 0 b
      (T := [.boot, .dev, .faults, .db, .ports, .cmds, .graphs, .bytes, .stk, .counts, .cairn, .out]) rfl
      (hcounted.weaken (by decide))
    have hkeeps := hdecoded.trans ((deliverLine_keepsMem a (stackOf a s).1 (channelOf (stackOf a s).2) _).weaken (by decide))
    obtain ⟨hd, hc, -⟩ := dirFrame_of_keeps hkeeps (by decide)
    exact ⟨_, exec_dramRead ha hup hbehind, (hd a).trans hdir', (hc a).trans hcache'⟩
  · change execDramRead a r b s = _
    unfold execDramRead
    rw [if_neg (by omega), if_neg (by simp [hup])]
    exact if_pos hbehind
  · obtain ⟨-, hup, hfree⟩ := hopen
    have hline : a / 64 * 64 ∈ spanLines (a / 64 * 64) 64 := by
      unfold spanLines
      rw [if_neg (by decide)]
      exact List.mem_map.mpr ⟨0, List.mem_range.mpr (by omega), by omega⟩
    have hclaim : claimLine a s = s := by
      refine claimLine_of_uncached (hfree.imp_right fun h => ?_)
      obtain ⟨hd, hc⟩ := h _ hline
      have hsame : a / 64 * 64 / 64 = a / 64 := by omega
      rw [dirOf, hsame] at hd
      rw [cacheGet, hsame] at hc
      exact ⟨hd, hc⟩
    have hbytes : ∀ y, dramByte y (countStack (stackOf a s).1 1 1 (writeLine a data 0 s)) =
        dramByte y (putCells (a / 64 * 64) data (List.range 64) s) := fun y => by
      rw [← dramByte_writeLine data 0 y, dramByte, (countStack_frame _ _ _ _).1, dramByte]
    obtain ⟨hknown, hopen, hout⟩ := dramByte_putCells (a := a / 64 * 64) (n := 64) (s := s) data hup
    refine ⟨_, exec_dramWrite ha (hup a (by omega) (by omega)), ?_⟩
    rw [hclaim]
    exact ⟨fun i v hi hv => (hbytes _).trans (hknown i v hi hv), fun i hi hv => (hbytes _).trans (hopen i hi hv),
      fun y hy => (hbytes y).trans (hout y hy), (countStack_keeps _ _ _ rfl (writeLine_keeps _ _ _ rfl (Keeps.refl s))).frame⟩
  · obtain ⟨hd, hc⟩ := claimLine_claims hhome hheld
    obtain ⟨hdir, hcache, -⟩ := dirFrame_of_keeps (T := [.bytes, .counts]) (countStack_keeps (stackOf a s).1 1 1 rfl
      (writeLine_keeps a data poison rfl (Keeps.refl (claimLine a s)))) (by decide)
    exact ⟨_, exec_dramWrite ha hup, (hdir a).trans hd, (hcache a).trans hc⟩
  · rw [exec_directoryRequest_first hhome ha hup hnone]
    exact congrArg Host.Outcome.next (if_neg hdir)
  · obtain ⟨t, x, hhandle, hd, hc, hdirty, hempty⟩ := readForWrite_serves hdir
    exact ⟨t, x, (exec_directoryRequest_first hhome ha hup hnone).trans (congrArg Host.Outcome.next hhandle), hd, hc, hdirty,
      hempty⟩
  · obtain ⟨t, v, hexec, hclean, hd, hc, hout, hrecalls, hkeeps⟩ := recallAnswer_serves hhome hlist hline hopen hreq hdir data poison
    exact ⟨t, v, hexec, hrecalls, hd, hc, hclean, hout, hkeeps.frame⟩
  · obtain ⟨t, hexec, hrecalls, hd, hc, hkeeps⟩ := invalidateAck_serves hhome hlist hline hopen hinval hreq hdir
    exact ⟨t, hexec, hrecalls, hd, hc, hkeeps.frame⟩
  · change execRecallRequest a inval s = _
    unfold execRecallRequest
    rw [if_neg (by simp [hhome, ha]), hcache]
    rfl
  · exact refresh_postponed hch hbank hruns hbehind hurgent hn
  · exact refresh_issued hch hbank hruns
  · exact if_pos (by simp [hruns])
  · exact refreshBandChange_rise hstack
  · exact scrubRead_clean hin hfailed hlost hruns hhot hcount hpattern hnext
  · subst hn
    exact (if_neg (by simp [hruns, hdue]; omega)).trans (if_neg (by omega))
  · exact if_pos (by simp [hdue])
  · obtain ⟨hfailed, hdropped, hchan, hfenced, hfaulted⟩ := failStack_fails (s := s) hstack hch true
    exact ⟨_, if_neg (by simp [hfresh]; omega), hfailed, hdropped, hchan, hfenced, hfaulted⟩
  · exact lostMemoryRewrite_all hlost hswept hback
  · exact if_pos (List.filter_eq_self.mpr fun k hk => by simp [hout k hk])

end Sys2Proof.Machine

/-!
PROOFS. What lets the units serve as before: the operations that leave the device record, but for DEGRADED, and the fence
list alone, and what a flank, a chiplet or a port that is fenced changes in them (R39, R394, R462).
-/

namespace Sys2Proof.Machine

/-- The device record without DEGRADED. -/
def devCore (d : Dev) : Dev := { d with degraded := false }

/-- The device record, but for DEGRADED, and the fence list are the same. -/
structure ServiceKept (s t : State) : Prop where
  dev : devCore t.dev = devCore s.dev
  fenced : t.faults.fenced = s.faults.fenced

section
variable {s0 s t u : State} {f g : Flank}

theorem ServiceKept.refl (s : State) : ServiceKept s s := ⟨rfl, rfl⟩

theorem ServiceKept.trans (h : ServiceKept s t) (k : ServiceKept t u) : ServiceKept s u :=
  ⟨k.dev.trans h.dev, k.fenced.trans h.fenced⟩

theorem ServiceKept.of_keeps {T : List Area} (h : Keeps T s t) (hd : Area.dev ∉ T) (hf : Area.faults ∉ T) : ServiceKept s t :=
  ⟨by rw [h.same .dev hd], by rw [h.same .faults hf]⟩

theorem ServiceKept.state (h : ServiceKept s t) : t.dev.state = s.dev.state := (congrArg Dev.state h.dev :)

theorem flankPhase_of_devCore (h : devCore t.dev = devCore s.dev) (f : Flank) : flankPhase f t = flankPhase f s := by
  cases f
  · exact (congrArg Dev.north h :)
  · exact (congrArg Dev.south h :)

/-! ## Fault events and DEGRADED -/

theorem ServiceKept.quiet {T : List Area} (h : ServiceKept s0 s) (k : Keeps T s t) (hd : Area.dev ∉ T) (hf : Area.faults ∉ T) :
    ServiceKept s0 t := h.trans (.of_keeps k hd hf)

theorem ServiceKept.same (h : ServiceKept s0 s) (hd : t.dev = s.dev) (hf : t.faults.fenced = s.faults.fenced) :
    ServiceKept s0 t := h.trans ⟨by rw [hd], hf⟩

theorem ServiceKept.fold {α : Type} {l : List α} {x : State → α → State} (h : ServiceKept s0 s)
    (hx : ∀ t a, ServiceKept s0 t → ServiceKept s0 (x t a)) : ServiceKept s0 (l.foldl x s) :=
  List.foldlRecOn (motive := ServiceKept s0) l x h fun t ht a _ => hx t a ht

theorem serviceKept_refreshDegraded (h : ServiceKept s0 s) : ServiceKept s0 (refreshDegraded s) := by
  obtain ⟨b, hb⟩ := refreshDegraded_dev s
  refine h.trans ⟨by rw [hb]; rfl, ?_⟩
  rw [(refreshDegraded_keeps (T := [.dev, .db, .ports, .cmds, .out]) rfl (Keeps.refl s)).same .faults (by decide)]

/-- An event of class C or D takes no unit out of service. -/
theorem serviceKept_report {e : FaultInput} (he : e.cls = .c ∨ e.cls = .d) (h : ServiceKept s0 s) :
    ServiceKept s0 (report e s) := by
  refine h.same ((report_keepsMinor he (T := [.faults, .db, .ports, .cmds, .cairn, .out]) rfl (Keeps.refl s)).same .dev
    (by decide)) (report_fenced_of_ne (fun h => ?_) s)
  rw [h] at he
  rcases he with he | he <;> cases he

theorem serviceKept_faultC (src syn : Nat) (h : ServiceKept s0 s) : ServiceKept s0 (faultC src syn s) :=
  serviceKept_report (.inl rfl) h

theorem serviceKept_faultD (src syn : Nat) (h : ServiceKept s0 s) : ServiceKept s0 (faultD src syn s) :=
  serviceKept_report (.inr rfl) h

theorem serviceKept_useFree (h : ServiceKept s0 s) : ServiceKept s0 (useFree s).2 := h.same rfl rfl

theorem serviceKept_faultCOpen (src : Nat) (h : ServiceKept s0 s) : ServiceKept s0 (faultCOpen src s) :=
  serviceKept_faultC _ _ (serviceKept_useFree h)

theorem serviceKept_faultDOpen (src : Nat) (h : ServiceKept s0 s) : ServiceKept s0 (faultDOpen src s) :=
  serviceKept_faultD _ _ (serviceKept_useFree h)

/-! ## What links send and how they go down -/

theorem serviceKept_linkSet (n : Nat) (x : LinkSt) (h : ServiceKept s0 s) : ServiceKept s0 (linkSet n x s) := h.same rfl rfl

theorem serviceKept_emit (o : Output) (h : ServiceKept s0 s) : ServiceKept s0 (emit o s) := h.same rfl rfl

theorem serviceKept_setFab (x : Fab) (h : ServiceKept s0 s) : ServiceKept s0 { s with fab := x } := h.same rfl rfl

theorem serviceKept_outSet (g v : Nat) (q : List Flit) (h : ServiceKept s0 s) : ServiceKept s0 (outSet g v q s) := h.same rfl rfl

theorem serviceKept_countLink (n i k : Nat) (h : ServiceKept s0 s) : ServiceKept s0 (countLink n i k s) :=
  h.quiet (countLink_keeps n i k (T := [.counts]) rfl (Keeps.refl s)) (by decide) (by decide)

theorem serviceKept_forcedFlit (srcs : List Nat) (x : Flit) (h : ServiceKept s0 s) :
    ServiceKept s0 (forcedFlit srcs x s).2 := by
  unfold forcedFlit
  split
  · exact h
  · split
    · exact h.same rfl rfl
    · exact h

theorem serviceKept_placeFlit (n : Nat) (x : Flit) (h : ServiceKept s0 s) : ServiceKept s0 (placeFlit n x s) := by
  have hforced := serviceKept_forcedFlit ((0x8000 + n) :: (List.range 18).map (0x7000 + n * 36 + ·)) x h
  unfold placeFlit
  dsimp only
  generalize forcedFlit ((0x8000 + n) :: (List.range 18).map (0x7000 + n * 36 + ·)) x s = v at hforced ⊢
  have hsent := fun y z => serviceKept_emit y (serviceKept_linkSet n z hforced)
  split
  · split
    · exact serviceKept_countLink _ _ _ (serviceKept_countLink _ _ _ (hsent _ _))
    · exact serviceKept_countLink _ _ _ (hsent _ _)
  · exact hsent _ _

theorem serviceKept_outPump (g v k : Nat) (h : ServiceKept s0 s) : ServiceKept s0 (outPump g v k s) := by
  induction k generalizing s with
  | zero => exact h
  | succ k ih =>
    unfold outPump
    split
    · split
      · exact ih (serviceKept_placeFlit _ _ (serviceKept_outSet _ _ _ (serviceKept_setFab _ h)))
      · exact h
    · exact h

theorem serviceKept_groupPump (g : Nat) (h : ServiceKept s0 s) : ServiceKept s0 (groupPump g s) :=
  h.fold fun _ _ hu => serviceKept_outPump _ _ _ hu

theorem serviceKept_of_full_or_gone {c : Prop} [Decidable c] (h : ServiceKept s0 u)
    (hr : (if c then Routed.full else .gone u) = .gone t ∨ (if c then Routed.full else .gone u) = .refused t) :
    ServiceKept s0 t := by
  split at hr
  · rcases hr with hr | hr <;> cases hr
  · rcases hr with hr | hr <;> cases hr
    exact h

/-- A flit that the router disposed of took no unit out of service. -/
theorem serviceKept_routeFlit {ring : Option Nat} {x : Flit} (h : ServiceKept s0 s)
    (hr : routeFlit ring x s = .gone t ∨ routeFlit ring x s = .refused t) : ServiceKept s0 t := by
  unfold routeFlit at hr
  split at hr
  · rcases hr with hr | hr <;> cases hr
  · rcases hr with hr | hr <;> cases hr
    exact serviceKept_setFab _ h
  · rcases hr with hr | hr <;> cases hr
    exact serviceKept_faultDOpen _ (serviceKept_setFab _ h)
  · refine serviceKept_of_full_or_gone (serviceKept_groupPump _ (serviceKept_outSet _ _ _ (serviceKept_setFab _ ?_))) hr
    split
    · exact h.same rfl rfl
    · exact h

theorem serviceKept_launch (x : Flit) (h : ServiceKept s0 s) : ServiceKept s0 (launch x s) := by
  unfold launch
  split
  · next hr => exact serviceKept_routeFlit h (.inl hr)
  · next hr => exact serviceKept_routeFlit h (.inr hr)
  · exact h
  · exact serviceKept_setFab _ h

theorem serviceKept_transfer (n : Nat) (l : List Flit) (h : ServiceKept s0 s) : ServiceKept s0 (transfer n l s) := by
  refine h.fold fun t x ht => ?_
  split
  · exact ht
  · split
    · exact serviceKept_countLink _ _ _ (serviceKept_placeFlit _ _ ht)
    · exact ht

theorem serviceKept_groupEscape (g : Nat) (h : ServiceKept s0 s) : ServiceKept s0 (groupEscape g s) :=
  h.fold fun _ _ ht => (serviceKept_outSet _ _ _ ht).fold fun _ x hu => serviceKept_launch x hu

theorem serviceKept_linkLeaves (n : Nat) (h : ServiceKept s0 s) : ServiceKept s0 (linkLeaves n s) := by
  unfold linkLeaves
  dsimp only
  split
  · exact serviceKept_linkSet _ _ h
  · split
    · exact serviceKept_refreshDegraded (serviceKept_transfer _ _ (serviceKept_linkSet _ _ h))
    · exact serviceKept_refreshDegraded (serviceKept_groupEscape _ (serviceKept_setFab _ (serviceKept_linkSet _ _ h)))

theorem serviceKept_leaveLink (n : Nat) (h : ServiceKept s0 s) : ServiceKept s0 (leaveLink n s) := by
  refine (serviceKept_linkLeaves n h).fold fun t k ht => ?_
  split
  · split
    · exact ht.quiet (linkFreed_keeps n k (T := [.las, .chans]) rfl (Keeps.refl t)) (by decide) (by decide)
    · exact ht
  · exact ht

theorem serviceKept_linkDown (n : Nat) (h : ServiceKept s0 s) : ServiceKept s0 (linkDown n s) := by
  unfold linkDown
  exact (serviceKept_refreshDegraded (serviceKept_linkSet _ _ (serviceKept_leaveLink n h))).quiet
    (lightChiplet_keeps _ (T := [.las]) rfl (Keeps.refl _)) (by decide) (by decide)

theorem serviceKept_narrowLink (n w : Nat) (h : ServiceKept s0 s) : ServiceKept s0 (narrowLink n w s) := by
  unfold narrowLink
  split
  · exact h
  · have hwake : ServiceKept s0 (wakeTx n s) :=
      h.quiet (wakeTx_keeps n (T := [.chans, .links]) rfl (Keeps.refl s)) (by decide) (by decide)
    generalize wakeTx n s = v at hwake ⊢
    dsimp only
    split
    · exact hwake
    · exact serviceKept_placeFlit n _ (serviceKept_linkSet n _ hwake)

theorem serviceKept_narrowOptical (n : Nat) (h : ServiceKept s0 s) : ServiceKept s0 (narrowOptical n s) :=
  h.fold fun _ _ ht => serviceKept_narrowLink _ _ ht

/-! ## Control ports -/

theorem serviceKept_setPort (p : Port) (x : PortState) (h : ServiceKept s0 s) : ServiceKept s0 (setPort p x s) :=
  h.quiet (setPort_keeps p x (T := [.ports]) rfl (Keeps.refl s)) (by decide) (by decide)

theorem serviceKept_portDown (p : Port) (h : ServiceKept s0 s) : ServiceKept s0 (portDown p s) := by
  unfold portDown
  dsimp only
  have hset := fun x => serviceKept_setPort p x h
  split
  · exact (serviceKept_faultCOpen _ ((hset _).quiet (repref_keeps (T := [.db, .ports, .out]) rfl (Keeps.refl _)) (by decide)
      (by decide))).quiet (ringBit_keeps 29 (T := [.db, .ports, .out]) rfl (Keeps.refl _)) (by decide) (by decide)
  · exact hset _

theorem serviceKept_portOut (p : Port) (h : ServiceKept s0 s) : ServiceKept s0 (portOut p s) :=
  serviceKept_setPort p _ (serviceKept_portDown p h)

/-- A port taken down is DOWN, and the other keeps its state. -/
theorem portDown_phase (p q : Port) (s : State) :
    (portSt q (portDown p s)).phase = if q = p then .down else (portSt q s).phase := by
  have hset : ∀ x : PortState, x.phase = .down → (portSt q (setPort p x s)).phase = if q = p then .down else (portSt q s).phase :=
    fun x hx => by cases p <;> cases q <;> simp [portSt, setPort, hx]
  unfold portDown
  dsimp only
  split
  · refine ((portSt_of_rxPorts ((rxPorts_ringBit _ _).trans (rxPorts_faultCOpen _ _)) q).1.trans (portSt_repref _ q).1).trans ?_
    exact hset _ rfl
  · exact hset _ rfl

/-! ## Flanks -/

/-- The device record without its state, DEGRADED and what waits for a reset or a wake. -/
def flanksOf (s : State) : FlankPhase × FlankPhase := (s.dev.north, s.dev.south)

theorem flankPhase_of_flanks (h : flanksOf t = flanksOf s) (f : Flank) : flankPhase f t = flankPhase f s := by
  cases f
  · exact (congrArg Prod.fst h :)
  · exact (congrArg Prod.snd h :)

theorem ServiceKept.flanks (h : ServiceKept s t) : flanksOf t = flanksOf s := by
  unfold flanksOf
  exact congrArg₂ Prod.mk (flankPhase_of_devCore h.dev .north) (flankPhase_of_devCore h.dev .south)

theorem flanksOf_setDev (d : DevState) (s : State) : flanksOf (setDev d s) = flanksOf s := by
  unfold setDev
  split
  · rfl
  · unfold flanksOf
    dsimp only
    rw [(notice_keeps _ _ _ (T := [.db, .ports, .cmds, .out]) rfl (Keeps.refl _)).same .dev (by decide)]
    rfl

/-- FAULTED leaves the phases of the flanks. -/
theorem flanksOf_enterFaulted (s : State) : flanksOf (enterFaulted s) = flanksOf s := by
  have hfinish : ∀ (l : List Accepted) (v : State), (l.foldl (fun t a => finish a { st := .aborted } t) v).dev = v.dev :=
    fun l v => (Keeps.foldl (T := [.cmds]) (Keeps.refl v) fun t a ht => finish_keeps a _ rfl ht).same .dev (by decide)
  unfold enterFaulted
  split
  · rfl
  · split
    · rfl
    · dsimp only
      rw [flanksOf_setDev]
      split
      · unfold flanksOf
        rw [hfinish]
      · rfl

theorem flanksOf_report (e : FaultInput) (s : State) : flanksOf (report e s) = flanksOf s := by
  have hnoticed : ∀ (c : Bool) (i : Nat) (first : Bool),
      flanksOf (faultTriggers e c (if c then faultNotice e i first (collect e s) else collect e s)) = flanksOf s :=
    fun c i first => by
      have hk : Keeps [.faults, .db, .ports, .cmds, .cairn, .out] s
          (if c then faultNotice e i first (collect e s) else collect e s) := by
        split
        · exact faultNotice_keeps _ _ _ rfl (collect_keeps e rfl (Keeps.refl s))
        · exact collect_keeps e rfl (Keeps.refl s)
      unfold flanksOf
      rw [(faultTriggers_keeps e c (T := [.faults, .db, .ports, .cmds, .cairn, .out]) rfl hk).same .dev (by decide)]
  unfold report
  dsimp only
  split
  · exact hnoticed _ _ _
  · exact hnoticed _ _ _
  · exact (serviceKept_refreshDegraded (.refl _)).flanks.trans (hnoticed _ _ _)
  · exact (flanksOf_enterFaulted _).trans (hnoticed _ _ _)

/-- A flank that goes out changes its own phase in the device record; with the other out as well the device is FAULTED. -/
theorem flankOut_service (f : Flank) (ph : FlankPhase) (s : State) : ∃ w, ServiceKept (setFlank f ph s) w ∧
    (flankOut f ph s = w ∨ flankOut f ph s = enterFaulted w) := by
  have hset : ServiceKept (setFlank f ph s) (setFlank f ph s) := .refl _
  unfold flankOut
  extract_lets was s1 s2 s3 s4 s5 o
  have h1 : ServiceKept (setFlank f ph s) s1 :=
    hset.quiet (mapRunning_keeps _ (T := [.graphs]) rfl (Keeps.refl _)) (by decide) (by decide)
  have h2 : ServiceKept (setFlank f ph s) s2 := h1.quiet
    (loseMemory_keeps f (T := [.ports, .graphs, .bytes, .memCtl, .counts, .comp, .fab, .out]) rfl
      (restartCompute_keeps f rfl (Keeps.refl s1))) (by decide) (by decide)
  have h3 : ServiceKept (setFlank f ph s) s3 := h2.fold fun _ n ht => serviceKept_linkDown n ht
  have h4 : ServiceKept (setFlank f ph s) s4 := h3.fold fun t m ht =>
    ht.quiet (moduleClockLost_keeps m (T := [.d2d]) rfl (Keeps.refl t)) (by decide) (by decide)
  have h5 : ServiceKept (setFlank f ph s) s5 := serviceKept_refreshDegraded
    (h4.quiet (releaseLocks_keeps _ (T := [.locks]) rfl (Keeps.refl s4)) (by decide) (by decide))
  split
  · exact ⟨_, serviceKept_refreshDegraded hset, .inl rfl⟩
  · split
    · exact ⟨s5, h5, .inr rfl⟩
    · exact ⟨s5, h5, .inl rfl⟩

theorem faults_enterFaulted (s : State) : (enterFaulted s).faults = s.faults :=
  (enterFaulted_keeps (T := [.boot, .dev, .db, .ports, .cmds, .graphs, .cairn, .out]) rfl (Keeps.refl s)).same .faults (by decide)

theorem flanksOf_flankOut (f : Flank) (ph : FlankPhase) (s : State) :
    flanksOf (flankOut f ph s) = flanksOf (setFlank f ph s) := by
  obtain ⟨w, hw, h | h⟩ := flankOut_service f ph s
  · rw [h, hw.flanks]
  · rw [h, flanksOf_enterFaulted, hw.flanks]

theorem fenced_flankOut (f : Flank) (ph : FlankPhase) (s : State) : (flankOut f ph s).faults.fenced = s.faults.fenced := by
  have hset : (setFlank f ph s).faults = s.faults := by cases f <;> rfl
  obtain ⟨w, hw, h | h⟩ := flankOut_service f ph s
  · rw [h, hw.fenced, hset]
  · rw [h, faults_enterFaulted, hw.fenced, hset]

theorem flankPhase_flankOut_self (f : Flank) (ph : FlankPhase) (s : State) : flankPhase f (flankOut f ph s) = ph := by
  rw [flankPhase_of_flanks (flanksOf_flankOut f ph s), flankPhase_setFlank]

/-! ## The fence list -/

/-- The modules on the fence list are the same. -/
def ModulesFencedAs (s t : State) : Prop := ∀ m < 141, isFenced (0x6000 + m) 0 t = isFenced (0x6000 + m) 0 s

theorem ModulesFencedAs.refl (s : State) : ModulesFencedAs s s := fun _ _ => rfl

theorem ModulesFencedAs.trans (h : ModulesFencedAs s t) (k : ModulesFencedAs t u) : ModulesFencedAs s u :=
  fun m hm => (k m hm).trans (h m hm)

theorem ModulesFencedAs.of_fenced (h : t.faults.fenced = s.faults.fenced) : ModulesFencedAs s t := fun m _ => by
  unfold isFenced
  rw [h]

/-- A fault event of class U of another unit fences no module. -/
theorem modulesFencedAs_report {e : FaultInput} (he : e.source.toNat < 0x6000 ∨ 0x6000 + 141 ≤ e.source.toNat) (s : State) :
    ModulesFencedAs s (report e s) := by
  by_cases hu : e.cls = .u
  · intro m hm
    have hne : fenceKey (0x6000 + m) 0 ≠ fenceKey e.source.toNat (coreOf e.source.toNat e.syndrome) := by
      unfold fenceKey coreOf
      split <;> omega
    unfold isFenced
    rw [report_faults, hu]
    refine Bool.eq_iff_iff.mpr ?_
    rw [List.contains_iff_mem, List.contains_iff_mem]
    exact mem_setInsert.trans (or_iff_right hne)
  · exact .of_fenced (report_fenced_of_ne hu s)

theorem modulesFencedAs_faultUOpen {src : Nat} (h : 0x6000 + 141 ≤ src) (hs : src < 65536) (s : State) :
    ModulesFencedAs s (faultUOpen src s) := by
  have hsrc : (BitVec.ofNat 16 src).toNat = src := toNat_ofNat_16 hs
  exact (ModulesFencedAs.of_fenced rfl : ModulesFencedAs s (useFree s).2).trans
    (modulesFencedAs_report (e := evt src .u _) (.inr (by rw [show (evt src .u _).source.toNat = src from hsrc]; exact h)) _)

theorem modulesFencedAs_fenceFlank (f : Flank) (s : State) : ModulesFencedAs s (fenceFlank f s) := by
  unfold fenceFlank
  split
  · exact .refl s
  · exact (modulesFencedAs_faultUOpen (by unfold flankSource; omega) (by cases f <;> decide) s).trans
      (.of_fenced (fenced_flankOut f .fenced _))

/-- What a group's judgement fences is never a module. -/
theorem modulesFencedAs_judgeGroup (g : Nat) (s : State) : ModulesFencedAs s (judgeGroup g s) := by
  unfold judgeGroup
  extract_lets c
  split
  · split
    · exact modulesFencedAs_fenceFlank _ s
    · exact .refl s
  · split
    · split
      · unfold fenceOptical
        split
        · exact .refl s
        · refine (modulesFencedAs_faultUOpen (src := 0x9000 + (g - 8)) (by omega) (by omega) s).trans (.of_fenced ?_)
          exact (ServiceKept.refl _ |>.fold fun t i ht => serviceKept_linkDown _ ht).fenced
      · split
        · exact .of_fenced (serviceKept_narrowOptical _ (.refl s)).fenced
        · exact .refl s
    · split
      · split
        · exact modulesFencedAs_fenceFlank _ s
        · exact .refl s
      · split
        · split
          · unfold fenceGuest
            split
            · exact .refl s
            · refine .trans (.of_fenced ?_) (modulesFencedAs_faultUOpen (by decide) (by decide) (guestOut s))
              rw [(guestOut_keeps (T := [.pins, .mbx, .db, .locks, .ports, .guest, .d2d, .out]) rfl (Keeps.refl s)).same .faults
                (by decide)]
          · exact .refl s
        · split
          · unfold fencePorts
            split
            · exact .refl s
            · exact (modulesFencedAs_faultUOpen (by decide) (by decide) s).trans
                (.of_fenced (serviceKept_portOut .cp1 (serviceKept_portOut .cp0 (.refl _))).fenced)
          · exact .refl s

theorem modulesFencedAs_moduleChanged (m : Nat) (s : State) : ModulesFencedAs s (moduleChanged m s) := by
  have hrestripe : (restripe (moduleGroup m) s).faults = s.faults :=
    (restripe_keeps _ (T := [.d2d]) rfl (Keeps.refl s)).same .faults (by decide)
  exact ((ModulesFencedAs.of_fenced (by rw [hrestripe])).trans (modulesFencedAs_judgeGroup _ _)).trans
    (.of_fenced (serviceKept_refreshDegraded (.refl _)).fenced)

end

end Sys2Proof.Machine

/-!
PROOFS. Operating limits of the flanks, slow-down requests and enforcement: what each step leaves alone (R418, R419,
R424–R427).
-/

namespace Sys2Proof.Machine

section
variable {s t u : State} {f g : Flank} {d : Domain}

/-! ## What taking a flank's limits leaves alone -/

/-- The thermal record without its two flanks. -/
def thermCore (m : Thermal) : Thermal := { m with north := {}, south := {} }

/-- A flank's power record without its rate, its rail move and STOP. -/
def powerCore (x : FlankPower) : FlankPower :=
  { x with moving := none, movedAt := 0, rate := 0, stopped := false, stoppedAt := 0 }

theorem flankPower_setFlankPower_self (f : Flank) (x : FlankPower) (s : State) : flankPower f (setFlankPower f x s) = x := by
  have h : ∀ u v : State, (settleTokens u v).therm = v.therm := fun u v =>
    (settleTokens_keeps u (T := [.comp]) rfl (Keeps.refl v)).same .therm (by decide)
  cases f <;> simp [flankPower, setFlankPower, h]

theorem flankPower_setFlankPower_ne (h : g ≠ f) (x : FlankPower) (s : State) :
    flankPower g (setFlankPower f x s) = flankPower g s := by
  have hkept : ∀ u v : State, (settleTokens u v).therm = v.therm := fun u v =>
    (settleTokens_keeps u (T := [.comp]) rfl (Keeps.refl v)).same .therm (by decide)
  cases f <;> cases g <;> first | exact absurd rfl h | simp [flankPower, setFlankPower, hkept]

theorem thermCore_setFlankPower (f : Flank) (x : FlankPower) (s : State) :
    thermCore (setFlankPower f x s).therm = thermCore s.therm := by
  have h : ∀ u v : State, (settleTokens u v).therm = v.therm := fun u v =>
    (settleTokens_keeps u (T := [.comp]) rfl (Keeps.refl v)).same .therm (by decide)
  cases f <;> simp [thermCore, setFlankPower, h]

theorem flankPower_congr (h : t.therm = s.therm) (f : Flank) : flankPower f t = flankPower f s := by
  cases f <;> simp [flankPower, h]

/-- Of the thermal record, only the rates, the rail moves and STOP of the flanks differ. -/
structure LimitsOnly (s t : State) : Prop where
  core : thermCore t.therm = thermCore s.therm
  power : ∀ g, powerCore (flankPower g t) = powerCore (flankPower g s)

theorem LimitsOnly.refl (s : State) : LimitsOnly s s := ⟨rfl, fun _ => rfl⟩

theorem LimitsOnly.trans (h : LimitsOnly s t) (k : LimitsOnly t u) : LimitsOnly s u :=
  ⟨k.core.trans h.core, fun g => (k.power g).trans (h.power g)⟩

theorem LimitsOnly.of_therm (h : t.therm = s.therm) : LimitsOnly s t :=
  ⟨by rw [h], fun g => by rw [flankPower_congr h]⟩

theorem limitsOnly_setFlankPower {x : FlankPower} (h : powerCore x = powerCore (flankPower f s)) :
    LimitsOnly s (setFlankPower f x s) := by
  refine ⟨thermCore_setFlankPower f x s, fun g => ?_⟩
  by_cases hg : g = f
  · rw [hg, flankPower_setFlankPower_self, h]
  · rw [flankPower_setFlankPower_ne hg]

theorem limitsOnly_moveRail (f : Flank) (s : State) : LimitsOnly s (moveRail f s) := by
  unfold moveRail
  extract_lets x want next
  split
  · exact .refl s
  · exact (limitsOnly_setFlankPower (by rfl)).trans (.of_therm rfl)

theorem foldl_therm {α : Type} {l : List α} {h : State → α → State} (hh : ∀ t a, (h t a).therm = t.therm) (s : State) :
    (l.foldl h s).therm = s.therm :=
  List.foldlRecOn (motive := fun t => t.therm = s.therm) l h rfl fun t ht a _ => (hh t a).trans ht

theorem limitsOnly_applyStop (f : Flank) (s : State) : LimitsOnly s (applyStop f s) := by
  unfold applyStop
  extract_lets x stop
  split
  · exact .refl s
  · split
    · exact .trans (limitsOnly_setFlankPower (by rfl)) (.of_therm (foldl_therm (fun t p =>
        (stopGate_keeps p (T := [.counts, .comp]) rfl (Keeps.refl t)).same .therm (by decide)) _))
    · refine .trans (limitsOnly_setFlankPower (by rfl)) (.of_therm (foldl_therm (fun t p => ?_) _))
      split
      · rfl
      · exact (wakeCluster_keeps p (T := [.counts, .comp]) rfl (Keeps.refl t)).same .therm (by decide)

theorem limitsOnly_applyLimits (f : Flank) (s : State) : LimitsOnly s (applyLimits f s) :=
  ((limitsOnly_applyStop f s).trans (limitsOnly_setFlankPower (by rfl))).trans (limitsOnly_moveRail f _)

theorem limitsOnly_applyBoth (s : State) : LimitsOnly s (applyBoth s) :=
  (limitsOnly_applyLimits .north s).trans (limitsOnly_applyLimits .south _)

/-! ## Requests and their steps -/

theorem reqOf_of_core (h : thermCore t.therm = thermCore s.therm) (d : Domain) : reqOf d t = reqOf d s := by
  cases d
  · exact (congrArg Thermal.reqN h :)
  · exact (congrArg Thermal.reqS h :)
  · exact (congrArg Thermal.reqP h :)

theorem stepUnder_of_req (h : reqOf d t = reqOf d s) (f : Flank) : stepUnder d f t = stepUnder d f s := by
  cases f <;> simp [stepUnder, h]

/-- A request without the steps of its flanks. -/
def reqPlan (r : Request) : Request := { r with stepN := 0, stepS := 0 }

theorem stepUnder_setStep_self (d : Domain) (f : Flank) (n : Nat) (s : State) : stepUnder d f (setStep d f n s) = n := by
  cases f <;> simp [stepUnder, setStep]

theorem stepUnder_setStep_ne (h : g ≠ f) (n : Nat) (s : State) : stepUnder d g (setStep d f n s) = stepUnder d g s := by
  cases f <;> cases g <;> first | exact absurd rfl h | simp [stepUnder, setStep]

theorem reqPlan_setStep (d : Domain) (f : Flank) (n : Nat) (s : State) :
    reqPlan (reqOf d (setStep d f n s)) = reqPlan (reqOf d s) := by
  cases f <;> simp [setStep, reqPlan]

/-- The next step of a flank is above the one it is at. -/
theorem lt_nextStep {n : Nat} (h : n < 8) (f : Flank) (s : State) : n < nextStep f n s := by
  unfold nextStep
  extract_lets x p sat
  cases hfind : (List.range 9).find? fun k => n < k && !sat k with
  | none => exact h
  | some k =>
    have hk := List.find?_some hfind
    simp only [Bool.and_eq_true, decide_eq_true_eq] at hk
    exact hk.1

/-- A flank takes its next step under a domain. -/
def stepFlank (d : Domain) (s : State) (f : Flank) : State :=
  applyLimits f (setStep d f (nextStep f (stepUnder d f (setFlankPower f { flankPower f s with ramp := none } s))
    (setFlankPower f { flankPower f s with ramp := none } s)) (setFlankPower f { flankPower f s with ramp := none } s))

theorem stepDown_eq (d : Domain) (s : State) : stepDown d s = (domFlanks d).foldl (stepFlank d) s := rfl

theorem stepFlank_steps (d : Domain) (f : Flank) (s : State) : reqPlan (reqOf d (stepFlank d s f)) = reqPlan (reqOf d s) ∧
    (stepUnder d f s < 8 → stepUnder d f s < stepUnder d f (stepFlank d s f)) ∧
    ∀ g, g ≠ f → stepUnder d g (stepFlank d s f) = stepUnder d g s := by
  unfold stepFlank
  have hu := reqOf_of_core (thermCore_setFlankPower f { flankPower f s with ramp := none } s) d
  generalize setFlankPower f { flankPower f s with ramp := none } s = u at hu ⊢
  generalize hn : nextStep f (stepUnder d f u) u = n
  have hreq := reqOf_of_core (limitsOnly_applyLimits f (setStep d f n u)).core d
  refine ⟨by rw [hreq, reqPlan_setStep, hu], fun hlt => ?_, fun g hg => ?_⟩
  · rw [stepUnder_of_req hreq, stepUnder_setStep_self, ← hn, ← stepUnder_of_req hu]
    exact lt_nextStep (by rwa [stepUnder_of_req hu]) f u
  · rw [stepUnder_of_req hreq, stepUnder_setStep_ne hg, stepUnder_of_req hu]

/-- Every flank of a domain goes a step further, its request else as before. -/
theorem stepDown_steps (d : Domain) (s : State) : reqPlan (reqOf d (stepDown d s)) = reqPlan (reqOf d s) ∧
    ∀ f ∈ domFlanks d, stepUnder d f s < 8 → stepUnder d f s < stepUnder d f (stepDown d s) := by
  rw [stepDown_eq]
  cases d with
  | north =>
    obtain ⟨hplan, hstep, -⟩ := stepFlank_steps .north .north s
    refine ⟨hplan, fun f hf => ?_⟩
    cases List.mem_singleton.mp hf
    exact hstep
  | south =>
    obtain ⟨hplan, hstep, -⟩ := stepFlank_steps .south .south s
    refine ⟨hplan, fun f hf => ?_⟩
    cases List.mem_singleton.mp hf
    exact hstep
  | package =>
    have hfold : (domFlanks .package).foldl (stepFlank .package) s =
        stepFlank .package (stepFlank .package s .north) .south := by
      simp only [domFlanks, List.foldl_cons, List.foldl_nil]
    rw [hfold]
    obtain ⟨hplan, hnorth, hkept⟩ := stepFlank_steps .package .north s
    have hsouth := hkept .south (by decide)
    generalize stepFlank .package s .north = u at *
    obtain ⟨hplan', hstep', hkept'⟩ := stepFlank_steps .package .south u
    refine ⟨hplan'.trans hplan, fun f _ hlt => ?_⟩
    cases f with
    | north =>
      rw [hkept' .north (by decide)]
      exact hnorth hlt
    | south =>
      rw [← hsouth] at hlt ⊢
      exact hstep' hlt

/-- A step further after a change of the request that keeps its steps. -/
theorem stepDown_setReq {r : Request} (hn : r.stepN = (reqOf d s).stepN) (hs : r.stepS = (reqOf d s).stepS) :
    reqPlan (reqOf d (stepDown d (setReq d r s))) = reqPlan r ∧
      ∀ f ∈ domFlanks d, stepUnder d f s < 8 → stepUnder d f s < stepUnder d f (stepDown d (setReq d r s)) := by
  obtain ⟨hplan, hsteps⟩ := stepDown_steps d (setReq d r s)
  have hsame : ∀ f, stepUnder d f (setReq d r s) = stepUnder d f s := fun f => by
    cases f
    · simp [stepUnder, hn]
    · simp [stepUnder, hs]
  refine ⟨by rw [hplan, reqOf_setReq], fun f hf => ?_⟩
  have hf' := hsteps f hf
  rw [hsame] at hf'
  exact hf'

theorem domainHot_setReq (d : Domain) (r : Request) (s : State) : domainHot d (setReq d r s) = domainHot d s := by
  cases d <;> rfl

theorem setReq_setReq (d : Domain) (r r' : Request) (s : State) : setReq d r' (setReq d r s) = setReq d r' s := by
  cases d <;> rfl

/-! ## Releases -/

/-- A flank being raised takes one step of its ramp now; any other stays. -/
theorem rampStep_eq (f : Flank) (s : State) : ((flankPower f s).ramp = none ∧ rampStep f s = s) ∨
    ∃ x : FlankPower, x.rampAt = s.clock.now ∧ rampStep f s = applyLimits f (setFlankPower f x s) := by
  unfold rampStep
  extract_lets x
  cases hr : x.ramp with
  | none => exact .inl ⟨rfl, rfl⟩
  | some p => exact .inr ⟨_, rfl, rfl⟩

theorem thermCore_rampStep (f : Flank) (s : State) : thermCore (rampStep f s).therm = thermCore s.therm := by
  obtain ⟨-, hstep⟩ | ⟨x, -, hstep⟩ := rampStep_eq f s
  · rw [hstep]
  · rw [hstep, (limitsOnly_applyLimits f _).core, thermCore_setFlankPower]

theorem foldl_core {α : Type} {l : List α} {h : State → α → State} (hh : ∀ t a, thermCore (h t a).therm = thermCore t.therm)
    (s : State) : thermCore (l.foldl h s).therm = thermCore s.therm :=
  List.foldlRecOn (motive := fun t => thermCore t.therm = thermCore s.therm) l h rfl fun t ht a _ => (hh t a).trans ht

theorem released_of_core (h : thermCore t.therm = thermCore s.therm) : t.therm.released = s.therm.released :=
  (congrArg Thermal.released h :)

theorem released_setReq (d : Domain) (r : Request) (s : State) : (setReq d r s).therm.released = s.therm.released := by
  cases d <;> rfl

/-- A request released is over: no enforcement, no step, and its id is kept. -/
theorem thermalRelease_ends {t0 : Nat} (hcool : (reqOf d s).coolSince = some t0) (hopen : (reqOf d s).opened = true)
    (hdue : t0 + 100000000 ≤ s.clock.now) : ∃ t, exec (.thermalRelease d) s = .next t ∧ (reqOf d t).opened = false ∧
      (reqOf d t).enforcing = false ∧ t.therm.released = s.therm.released ++ [(reqOf d s).id] ∧
      ∀ f ∈ domFlanks d, stepUnder d f t = 0 := by
  have hnotice : (notice 2 (reqOf d s).id 0 s).therm = s.therm :=
    (notice_keeps _ _ _ (T := [.db, .ports, .cmds, .out]) rfl (Keeps.refl s)).same .therm (by decide)
  change ∃ t, execThermalRelease d s = .next t ∧ _
  unfold execThermalRelease
  dsimp only
  rw [hcool]
  dsimp only
  rw [if_neg (by simp [hopen]; omega)]
  generalize notice 2 (reqOf d s).id 0 s = v at hnotice
  generalize hu : ({ v with therm := { v.therm with released := v.therm.released ++ [(reqOf d s).id] } } : State) = u
  generalize (domFlanks d).filter (fun f => stepUnder d f u != 0) = held
  have hreleased : u.therm.released = s.therm.released ++ [(reqOf d s).id] := by rw [← hu, ← hnotice]
  have hramp := foldl_core (l := held) (h := fun u f =>
    setFlankPower f { flankPower f u with ramp := some ((flankPower f u).point, (flankPower f u).rate) } u)
    (fun t f => thermCore_setFlankPower f _ t) u
  generalize held.foldl (fun u f =>
    setFlankPower f { flankPower f u with ramp := some ((flankPower f u).point, (flankPower f u).rate) } u) u = w at hramp ⊢
  have hend := foldl_core (l := held) (h := fun u f => rampStep f u) (fun t f => thermCore_rampStep f t)
    (setReq d { reqOf d w with opened := false, enforcing := false, stepN := 0, stepS := 0 } w)
  have hreq := (reqOf_of_core hend d).trans (reqOf_setReq d _ w)
  refine ⟨_, rfl, by rw [hreq], by rw [hreq], ?_, fun f _ => ?_⟩
  · rw [released_of_core hend, released_setReq, released_of_core hramp, hreleased]
  · cases f <;> simp [stepUnder, hreq]

theorem rampAt_applyLimits (f g : Flank) (s : State) :
    (flankPower g (applyLimits f s)).rampAt = (flankPower g s).rampAt :=
  (congrArg FlankPower.rampAt ((limitsOnly_applyLimits f s).power g) :)

theorem rampAt_rampStep_self (h : (flankPower f s).ramp ≠ none) : (flankPower f (rampStep f s)).rampAt = s.clock.now := by
  obtain ⟨hnone, -⟩ | ⟨x, hx, hstep⟩ := rampStep_eq f s
  · exact absurd hnone h
  · rw [hstep, rampAt_applyLimits, flankPower_setFlankPower_self, hx]

theorem rampAt_rampStep_ne (hg : g ≠ f) : (flankPower g (rampStep f s)).rampAt = (flankPower g s).rampAt := by
  obtain ⟨-, hstep⟩ | ⟨x, -, hstep⟩ := rampStep_eq f s
  · rw [hstep]
  · rw [hstep, rampAt_applyLimits, flankPower_setFlankPower_ne hg]

end

end Sys2Proof.Machine

/-!
PROOFS. Sensors, slow-down requests, the power limiter, rails and the thermal shutdown (R413, R414, R419–R430, R526).
-/

namespace Sys2Proof.Machine

section
variable {s t u : State} {f g : Flank} {d : Domain} {j : Nat} {reading : Int}

/-! ## Sensors -/

/-- The sensors of a state are those of another. -/
def SensorsKept (s t : State) : Prop := t.therm.sensor = s.therm.sensor

theorem SensorsKept.trans (h : SensorsKept s t) (k : SensorsKept t u) : SensorsKept s u := Eq.trans k h

theorem SensorsKept.of_core (h : thermCore t.therm = thermCore s.therm) : SensorsKept s t := (congrArg Thermal.sensor h :)

theorem SensorsKept.of_therm (h : t.therm = s.therm) : SensorsKept s t := congrArg Thermal.sensor h

theorem SensorsKept.foldl {α : Type} {l : List α} {h : State → α → State} (hh : ∀ t a, SensorsKept t (h t a)) (s : State) :
    SensorsKept s (l.foldl h s) :=
  List.foldlRecOn (motive := SensorsKept s) l h rfl fun t ht a _ => ht.trans (hh t a)

theorem sensorGet_of_kept (h : SensorsKept s t) (j : Nat) : sensorGet j t = sensorGet j s := by
  unfold sensorGet
  rw [h]

theorem sensorGet_sensorSet_self (j : Nat) (x : Sensor) (s : State) : sensorGet j (sensorSet j x s) = x := by
  have h : (sensorSet j x s).therm.sensor = tset {} s.therm.sensor j x :=
    congrArg Thermal.sensor ((settleTokens_keeps s (T := [.comp]) rfl (Keeps.refl _)).same .therm (by decide))
  rw [sensorGet, h]
  exact tget_tset_self {} s.therm.sensor j x

theorem sensorsKept_setReq (d : Domain) (r : Request) (s : State) : SensorsKept s (setReq d r s) := by
  cases d <;> rfl

theorem sensorsKept_stepDown (d : Domain) (s : State) : SensorsKept s (stepDown d s) := by
  rw [stepDown_eq]
  refine SensorsKept.foldl (fun t f => ?_) s
  exact ((SensorsKept.of_core (thermCore_setFlankPower _ _ t)).trans (sensorsKept_setReq _ _ _)).trans
    (.of_core (limitsOnly_applyLimits f _).core)

theorem sensorsKept_requestNotice (d : Domain) (s : State) : SensorsKept s (requestNotice d s) := by
  unfold requestNotice
  extract_lets r v
  have hnotice : SensorsKept s v := .of_therm
    ((notice_keeps _ _ _ (T := [.db, .ports, .cmds, .out]) rfl (Keeps.refl s)).same .therm (by decide))
  exact hnotice.trans (sensorsKept_setReq d _ v)

theorem sensorsKept_openRequest (d : Domain) (j : Nat) (reading : Int) (s : State) :
    SensorsKept s (openRequest d j reading s) := by
  unfold openRequest
  extract_lets id m v
  have hv : SensorsKept s v := rfl
  exact (hv.trans (sensorsKept_setReq d _ v)).trans (sensorsKept_requestNotice d _)

theorem sensorsKept_judgeDomain (d : Domain) (j : Nat) (reading : Int) (s : State) :
    SensorsKept s (judgeDomain d j reading s) := by
  unfold judgeDomain
  extract_lets r s1 q cool
  refine SensorsKept.trans (t := s1) ?_ (sensorsKept_setReq _ _ _)
  unfold s1
  split
  · rfl
  · split
    · exact sensorsKept_openRequest d j reading s
    · split
      · exact (sensorsKept_setReq _ _ _).trans (sensorsKept_stepDown d _)
      · rfl

theorem sensorsKept_lightBand (f : Flank) (s : State) : SensorsKept s (lightBand f s) := by
  unfold lightBand
  extract_lets x
  split
  · rfl
  · extract_lets b s1
    split
    · rfl
    · exact (SensorsKept.of_core (thermCore_setFlankPower f _ s)).trans (.of_core (limitsOnly_applyLimits f _).core)

theorem sensorsKept_evalBands (j : Nat) (s : State) : SensorsKept s (evalBands j s) := by
  unfold evalBands
  extract_lets s1
  refine SensorsKept.trans (t := s1) ?_ (SensorsKept.foldl (fun t e => ?_) s1)
  · unfold s1
    split
    · exact sensorsKept_lightBand _ s
    · rfl
  · split
    · rfl
    · extract_lets was now m v
      split
      · exact .trans (t := v) rfl (.of_therm ((emptyWanted_keeps _ (T := [.d2d]) rfl (Keeps.refl v)).same .therm (by decide)))
      · rfl

theorem therm_faultUOpen (src : Nat) (s : State) : (faultUOpen src s).therm = s.therm :=
  (faultUOpen_keeps src (T := [.boot, .dev, .faults, .db, .ports, .cmds, .graphs, .cairn, .out, .free]) rfl
    (Keeps.refl s)).same .therm (by decide)

theorem therm_refreshDegraded (s : State) : (refreshDegraded s).therm = s.therm :=
  (refreshDegraded_keeps (T := [.dev, .db, .ports, .cmds, .out]) rfl (Keeps.refl s)).same .therm (by decide)

theorem sensorsKept_chipletOff (chip : Nat) (s : State) : SensorsKept s (chipletOff chip s) := by
  unfold chipletOff
  split
  · rfl
  · extract_lets first lit s1 s2
    have h1 : s1.therm = s.therm := by
      unfold s1
      split
      · rfl
      · exact therm_faultUOpen _ s
    have h2 : s2.therm = s1.therm := by
      unfold s2
      split
      · exact (linkChipletOut_keeps chip (T := [.boot, .dev, .faults, .db, .ports, .cmds, .graphs, .counts, .cairn, .las,
          .chans, .links, .fab, .out, .free]) rfl (Keeps.refl s1)).same .therm (by decide)
      · exact (combChipFail_keeps _ (T := [.boot, .dev, .faults, .db, .ports, .cmds, .graphs, .counts, .comp, .banks, .cairn,
          .las, .out, .free]) rfl (Keeps.refl s1)).same .therm (by decide)
    have hkept : SensorsKept s s2 := .of_therm (h2.trans h1)
    rw [SensorsKept, therm_refreshDegraded]
    exact hkept

theorem sensorsKept_fencePart (src : Nat) (s : State) : SensorsKept s (fencePart src s) := by
  unfold fencePart
  extract_lets m s1
  refine SensorsKept.trans (t := s1) rfl ?_
  split
  · exact .of_therm ((therm_refreshDegraded _).trans (therm_faultUOpen src s1))
  · split
    · refine .of_therm ((foldl_therm (fun t i => ?_) _).trans (therm_faultUOpen src s1))
      exact (linkDown_keeps _ (T := [.boot, .dev, .faults, .db, .ports, .cmds, .graphs, .counts, .cairn, .las, .chans, .links,
        .fab, .out, .free]) rfl (Keeps.refl t)).same .therm (by decide)
    · split
      · exact (SensorsKept.of_therm (therm_faultUOpen src s1)).trans (sensorsKept_chipletOff _ _)
      · split
        · exact .of_therm ((fenceFlank_keeps _ (T := [.boot, .dev, .faults, .db, .locks, .ports, .cmds, .graphs, .bytes,
            .memCtl, .counts, .comp, .cairn, .las, .chans, .links, .fab, .d2d, .out, .free]) rfl (Keeps.refl s1)).same .therm
            (by decide))
        · exact .of_therm ((faultXOpen_keeps src (T := [.boot, .dev, .faults, .db, .ports, .cmds, .graphs, .cairn, .out,
            .free]) rfl (Keeps.refl s1)).same .therm (by decide))

/-- A plausible sample of a sensor in use is kept with its time. -/
theorem sensorSample_kept (hj : j < 1024) (hin : (sensorGet j s).excluded = false) (hrun : s.dev.state ≠ .haltedThermal)
    (hok : implausible (sensorGet j s) reading = false) : ∃ t, exec (.sensorSample j reading) s = .next t ∧
      (sensorGet j t).reading = reading ∧ (sensorGet j t).sampled = true ∧ (sensorGet j t).at_ = s.clock.now ∧
      (sensorGet j t).excluded = false := by
  change ∃ t, execSensorSample j reading s = .next t ∧ _
  unfold execSensorSample
  extract_lets x fast hot y s1 m s2 s3 s4
  have h2 : SensorsKept s1 s2 := by
    unfold s2
    split
    · split <;> rfl
    · rfl
  have h4 : SensorsKept s3 s4 := by
    unfold s4
    split
    · exact sensorsKept_chipletOff _ s3
    · rfl
  have hkept : SensorsKept s1 s4 := (h2.trans (sensorsKept_evalBands j s2)).trans h4
  have hexec : ∃ t, (match sensorDomain j with | some d => judgeDomain d j reading s4 | none => s4) = t ∧ SensorsKept s4 t := by
    split
    · exact ⟨_, rfl, sensorsKept_judgeDomain _ j reading s4⟩
    · exact ⟨_, rfl, rfl⟩
  obtain ⟨t, ht, hlast⟩ := hexec
  have hget : sensorGet j t = y := (sensorGet_of_kept (hkept.trans hlast) j).trans (sensorGet_sensorSet_self j y s)
  refine ⟨t, ?_, by rw [hget], by rw [hget], by rw [hget], by rw [hget]; exact hin⟩
  rw [if_neg (by simp [x, hin, hrun]; omega), if_neg (by simp [x, hok]), ← ht] <;> rfl

/-- An implausible sample excludes its sensor. -/
theorem sensorSample_excluded (hj : j < 1024) (hin : (sensorGet j s).excluded = false) (hrun : s.dev.state ≠ .haltedThermal)
    (hbad : implausible (sensorGet j s) reading = true) : ∃ t, exec (.sensorSample j reading) s = .next t ∧
      (sensorGet j t).excluded = true := by
  refine ⟨excludeSensor j reading s, (if_neg (by simp [hin, hrun]; omega)).trans (if_pos hbad), ?_⟩
  unfold excludeSensor
  generalize hx : ({ sensorGet j s with excluded := true, reading := reading, sampled := true, at_ := s.clock.now } : Sensor) = x
  have hset := sensorGet_sensorSet_self j x s
  have hexcluded : (sensorGet j (sensorSet j x s)).excluded = true := by rw [hset, ← hx]
  generalize sensorSet j x s = v at hexcluded ⊢
  have hkept : ∀ t, SensorsKept v t → (sensorGet j t).excluded = true := fun t h => by rw [sensorGet_of_kept h, hexcluded]
  dsimp only
  split
  · exact hkept _ (.of_therm ((failCluster_keeps j (T := [.boot, .dev, .faults, .db, .ports, .cmds, .graphs, .counts, .comp,
      .cairn, .out, .free]) rfl (Keeps.refl v)).same .therm (by decide)))
  · have hc : SensorsKept v (faultC (partOf j).1 j v) := .of_therm ((faultC_keeps _ _ (T := [.boot, .dev, .faults, .db, .ports,
      .cmds, .graphs, .cairn, .out]) rfl (Keeps.refl v)).same .therm (by decide))
    split
    · exact hkept _ (hc.trans (sensorsKept_fencePart _ _))
    · exact hkept _ hc

/-! ## Grace and enforcement -/

/-- A request whose grace ends hot is enforced at once, a step further on each of its flanks. -/
theorem graceExpiry_enforces (hopen : (reqOf d s).opened = true) (hgrace : (reqOf d s).graceOver = false)
    (hdue : (reqOf d s).openedAt + (reqOf d s).grace * 1000000 ≤ s.clock.now) (hhot : domainHot d s = true) :
    ∃ t, exec (.graceExpiry d) s = .next t ∧ (reqOf d t).graceOver = true ∧ (reqOf d t).enforcing = true ∧
      (reqOf d t).gridAt = s.clock.now ∧ (reqOf d t).gridN = 0 ∧
      ∀ f ∈ domFlanks d, stepUnder d f s < 8 → stepUnder d f s < stepUnder d f t := by
  have hclock : ∀ r, (setReq d r s).clock = s.clock := fun r => by cases d <;> rfl
  have hexec : exec (.graceExpiry d) s = .next (stepDown d (setReq d
      { reqOf d s with enforcing := true, graceOver := true, gridAt := s.clock.now, gridN := 0 } s)) := by
    refine (if_neg (by simp [hopen, hgrace]; omega)).trans (congrArg Host.Outcome.next ?_)
    rw [if_pos (by rw [domainHot_setReq, hhot]), startEnforce, reqOf_setReq, setReq_setReq, hclock]
  obtain ⟨hplan, hsteps⟩ := stepDown_setReq (d := d) (s := s)
    (r := { reqOf d s with enforcing := true, graceOver := true, gridAt := s.clock.now, gridN := 0 }) rfl rfl
  exact ⟨_, hexec, (congrArg Request.graceOver hplan :), (congrArg Request.enforcing hplan :),
    (congrArg Request.gridAt hplan :), (congrArg Request.gridN hplan :), hsteps⟩

/-- A domain still hot at a grid point goes a step further on each of its flanks. -/
theorem enforcementGrid_steps (henf : (reqOf d s).enforcing = true)
    (hdue : (reqOf d s).gridAt + ((reqOf d s).gridN + 1) * 5000000 ≤ s.clock.now) (hhot : domainHot d s = true) :
    ∃ t, exec (.enforcementGrid d) s = .next t ∧ (reqOf d t).gridN = (reqOf d s).gridN + 1 ∧
      ∀ f ∈ domFlanks d, stepUnder d f s < 8 → stepUnder d f s < stepUnder d f t := by
  have hexec : exec (.enforcementGrid d) s =
      .next (stepDown d (setReq d { reqOf d s with gridN := (reqOf d s).gridN + 1 } s)) := by
    refine (if_neg (by simp [henf]; omega)).trans (congrArg Host.Outcome.next ?_)
    rw [if_pos (by rw [domainHot_setReq, hhot])]
  obtain ⟨hplan, hsteps⟩ := stepDown_setReq (d := d) (s := s) (r := { reqOf d s with gridN := (reqOf d s).gridN + 1 }) rfl rfl
  exact ⟨_, hexec, (congrArg Request.gridN hplan :), hsteps⟩

/-- What the ramp timer does about one flank. -/
def rampTick (s : State) (f : Flank) : State :=
  if (flankPower f s).ramp.isSome && (flankPower f s).rampAt + 10000000 ≤ s.clock.now then rampStep f s else s

theorem rampAt_rampTick_ne (hg : g ≠ f) : (flankPower g (rampTick s f)).rampAt = (flankPower g s).rampAt := by
  unfold rampTick
  split
  · exact rampAt_rampStep_ne hg
  · rfl

/-- The North flank being raised takes a step of its ramp at its time, whatever the South flank does. -/
theorem releaseRampTimer_north (hramp : s.therm.north.ramp ≠ none) (hdue : s.therm.north.rampAt + 10000000 ≤ s.clock.now) :
    ∃ t, exec .releaseRampTimer s = .next t ∧ t.therm.north.rampAt = s.clock.now := by
  have hexec : exec .releaseRampTimer s = .next ([Flank.north, .south].foldl rampTick s) := rfl
  have hfirst : rampTick s .north = rampStep .north s :=
    if_pos (Bool.and_eq_true_iff.mpr ⟨Option.isSome_iff_ne_none.mpr hramp, decide_eq_true hdue⟩)
  refine ⟨_, hexec, ?_⟩
  rw [List.foldl_cons, List.foldl_cons, List.foldl_nil, hfirst]
  exact (rampAt_rampTick_ne (g := .north) (f := .south) (by decide)).trans (rampAt_rampStep_self hramp)

/-- A flank's hold at NOM ends. -/
theorem band4NomHoldEnd_ends {t0 : Nat} (hheld : (flankPower f s).band4At = some t0) (hdue : t0 + 1000000000 ≤ s.clock.now) :
    ∃ t, exec (.band4NomHoldEnd f) s = .next t ∧ (flankPower f t).band4At = none := by
  have hexec : exec (.band4NomHoldEnd f) s =
      .next (applyLimits f (setFlankPower f { flankPower f s with band4At := none } s)) := by
    change execBand4NomHoldEnd f s = _
    unfold execBand4NomHoldEnd
    dsimp only
    rw [hheld]
    exact if_pos hdue
  refine ⟨_, hexec, (congrArg FlankPower.band4At ((limitsOnly_applyLimits f _).power f) : _ = _).trans ?_⟩
  exact congrArg FlankPower.band4At (flankPower_setFlankPower_self f _ s)

/-! ## The power limiter -/

/-- The mean power is measured. -/
def measured (watts : Nat) (s : State) : State := { s with therm := { s.therm with meanW := watts } }

theorem exec_powerLimiterTick (compute rest : Nat) (s : State) : exec (.powerLimiterTick ⟨compute, rest⟩) s =
    .next (trackLow (limiterMove compute rest (measured (compute + rest + 60) s))) := rfl

/-- Noting how long LOW is held leaves the limiter's values. -/
theorem trackLow_therm (s : State) : ∃ a b, (trackLow s).therm = { s.therm with lowSince := a, lowHeld := b } := by
  unfold trackLow
  split
  · exact ⟨_, _, rfl⟩
  · exact ⟨_, _, rfl⟩

/-- A change of the limiter's point and rate is what it then holds, with its time. -/
theorem limChange_core (p : Point) (r : Nat) (s : State) : (limChange p r s).therm.meanW = s.therm.meanW ∧
    (limChange p r s).therm.limPoint = p ∧ (limChange p r s).therm.limRate = r ∧
    (limChange p r s).therm.limAt = some s.clock.now := by
  have h := (limitsOnly_applyBoth { s with therm := { s.therm with limPoint := p, limRate := r, limAt := some s.clock.now } }).core
  rw [limChange]
  generalize applyBoth { s with therm := { s.therm with limPoint := p, limRate := r, limAt := some s.clock.now } } = t at h ⊢
  exact ⟨(congrArg Thermal.meanW h :), (congrArg Thermal.limPoint h :), (congrArg Thermal.limRate h :),
    (congrArg Thermal.limAt h :)⟩

/-- Within its band the limiter does nothing. -/
theorem limiterMove_within {compute rest : Nat} (hlow : compute + rest + 120 ≤ s.dev.limitW)
    (hhigh : s.dev.limitW < compute + rest + 220) : limiterMove compute rest s = s :=
  (if_neg (by omega)).trans (if_neg (by simp; omega))

/-- Over the limit at LOW, the rate goes down by two. -/
theorem limiterMove_rateDown {compute rest : Nat} (hover : s.dev.limitW < compute + rest + 120) (htop : topPoint s = .low) :
    limiterMove compute rest s = limChange s.therm.limPoint (max 1 (s.therm.limRate - 2)) s :=
  (if_pos (by omega)).trans (if_neg (by simp [htop, Point.code]))

/-- The limiter's last lowering of a point is now. -/
def loweredNow (n : Nat) (s : State) : State := { s with therm := { s.therm with lowerAt := some n } }

/-- Over the limit above LOW, the point goes down by one. -/
theorem limiterMove_pointDown {compute rest : Nat} (hover : s.dev.limitW < compute + rest + 120) (htop : topPoint s ≠ .low)
    (hpoint : s.therm.limPoint ≠ .low) (hmay : mayLower s = true) : ∃ t, limiterMove compute rest s = t ∧
      t.therm.meanW = s.therm.meanW ∧ t.therm.limPoint = (Point.lower s.therm.limPoint (topPoint s)).down ∧
      t.therm.limRate = s.therm.limRate ∧ t.therm.lowerAt = some s.clock.now := by
  have hcode : (topPoint s).code ≠ 0 := by
    cases h : topPoint s with
    | low => exact absurd h htop
    | nom => decide
    | high => decide
  obtain ⟨hmean, hp, hr, -⟩ := limChange_core (Point.lower s.therm.limPoint (topPoint s)).down s.therm.limRate s
  have hmove : limiterMove compute rest s =
      loweredNow s.clock.now (limChange (Point.lower s.therm.limPoint (topPoint s)).down s.therm.limRate s) :=
    (if_pos (by omega)).trans ((if_pos (by simp [hcode])).trans (if_pos (by simp [hpoint, hmay])))
  generalize limChange (Point.lower s.therm.limPoint (topPoint s)).down s.therm.limRate s = t at hmean hp hr hmove
  exact ⟨_, hmove, hmean, hp, hr, rfl⟩

/-- With 100 W to spare, the rate comes back by two. -/
theorem limiterMove_rateUp {compute rest : Nat} (hspare : compute + rest + 220 ≤ s.dev.limitW) (hmay : mayRaise s = true)
    (hrate : s.therm.limRate < 16) :
    limiterMove compute rest s = limChange s.therm.limPoint (min 16 (s.therm.limRate + 2)) s :=
  (if_neg (by omega)).trans ((if_pos (by simp [hmay]; omega)).trans (if_pos hrate))

/-- A tick leaves the limiter's values where its move put them. -/
theorem powerLimiterTick_moves {compute rest : Nat} (hmove : limiterMove compute rest (measured (compute + rest + 60) s) = u) :
    ∃ t, exec (.powerLimiterTick ⟨compute, rest⟩) s = .next t ∧ t.therm.meanW = u.therm.meanW ∧
      t.therm.limPoint = u.therm.limPoint ∧ t.therm.limRate = u.therm.limRate ∧ t.therm.limAt = u.therm.limAt ∧
      t.therm.lowerAt = u.therm.lowerAt ∧ Keeps [.therm] u t := by
  obtain ⟨a, b, h⟩ := trackLow_therm u
  rw [exec_powerLimiterTick, hmove]
  exact ⟨_, rfl, by rw [h], by rw [h], by rw [h], by rw [h], by rw [h], trackLow_keeps rfl (Keeps.refl u)⟩

/-- A limiter that is held at LOW below rate 16 for 1 s says so once. -/
theorem limiterHeld_noticed {t0 : Nat} (hsince : s.therm.lowSince = some t0) (hdue : t0 + 1000000000 ≤ s.clock.now)
    (hheld : s.therm.lowHeld = false) (hfw : fwRuns s = true) : ∃ t, exec .limiterHeld s = .next t ∧ t.therm.lowHeld = true ∧
      Noticed 0xB (BitVec.ofNat 32 s.therm.meanW) (BitVec.ofNat 64 s.dev.limitW) s t := by
  generalize hu : ({ s with therm := { s.therm with lowHeld := true } } : State) = u
  have hexec : exec .limiterHeld s = .next (notice 0xB (BitVec.ofNat 32 s.therm.meanW) (BitVec.ofNat 64 s.dev.limitW) u) := by
    change execLimiterHeld s = _
    unfold execLimiterHeld
    rw [hsince, ← hu]
    exact if_pos (by simp [hdue, hheld])
  have hnotice := noticed_notice (s := u) (by rw [← hu]; exact hfw) 0xB (BitVec.ofNat 32 s.therm.meanW)
    (BitVec.ofNat 64 s.dev.limitW)
  refine ⟨_, hexec, ?_, hnotice.mono (by rw [← hu]) List.prefix_rfl⟩
  rw [(notice_keeps _ _ _ (T := [.db, .ports, .cmds, .out]) rfl (Keeps.refl u)).same .therm (by decide), ← hu]

/-! ## Rails -/

/-- A rail move that is done leaves its flank at the point it moved to. -/
theorem railMoveDone_point {p : Point} (hmove : (flankPower f s).moving = some p) : ∃ t, exec (.railMoveDone f) s = .next t ∧
    (flankPower f t).point = p ∧ OnlyChanges [.comp, .therm, .out] s t := by
  have hexec : exec (.railMoveDone f) s =
      .next (moveRail f (setFlankPower f { flankPower f s with point := p, moving := none } s)) := by
    change execRailMoveDone f s = _
    unfold execRailMoveDone
    dsimp only
    rw [hmove]
  refine ⟨_, hexec, (congrArg FlankPower.point ((limitsOnly_moveRail f _).power f) : _ = _).trans ?_,
    (moveRail_keeps f rfl (setFlankPower_keeps f _ rfl (Keeps.refl s))).frame⟩
  exact congrArg FlankPower.point (flankPower_setFlankPower_self f _ s)

theorem therm_faultCOpen (src : Nat) (s : State) : (faultCOpen src s).therm = s.therm :=
  (faultCOpen_keeps src (T := [.boot, .dev, .faults, .db, .ports, .cmds, .graphs, .cairn, .out, .free]) rfl
    (Keeps.refl s)).same .therm (by decide)

theorem setFlankPower_faults (f : Flank) (x : FlankPower) (s : State) : (setFlankPower f x s).faults = s.faults :=
  (setFlankPower_keeps f x (T := [.comp, .therm]) rfl (Keeps.refl s)).same .faults (by decide)

theorem faulted_faultCOpen (src : Nat) (s : State) : Faulted src .c s (faultCOpen src s) := by
  obtain ⟨syn, u, hfault, hu⟩ : ∃ syn u, faultCOpen src s = faultC src syn u ∧ u.faults = s.faults := ⟨_, _, rfl, rfl⟩
  rw [hfault]
  exact (faulted_report src .c _ none false u).congr hu.symm rfl

/-- A rail move that fails, with fewer than two others in the last second, goes back to its point. -/
theorem railMoveFailure_back {p : Point} (hmove : (flankPower f s).moving = some p) (hheld : s.therm.railHeld = false)
    (hfew : (s.therm.railFails.filter fun x => s.clock.now < x + 1000000000).length < 2) :
    ∃ t, exec (.railMoveFailure f) s = .next t ∧ Faulted 0xE007 .c s t ∧
      (flankPower f t).moving = some (flankPower f s).point ∧ (flankPower f t).point = (flankPower f s).point ∧
      t.therm.railHeld = false := by
  change ∃ t, execRailMoveFailure f s = .next t ∧ _
  unfold execRailMoveFailure
  dsimp only
  rw [hmove]
  dsimp only
  generalize hfails : (s.therm.railFails.filter fun x => s.clock.now < x + 1000000000) = fails at hfew
  have hlen : ¬3 ≤ (s.clock.now :: fails).length := by
    rw [List.length_cons]
    omega
  rw [if_neg hlen]
  generalize hu : ({ s with therm := { s.therm with
    railFails := s.clock.now :: fails, railHeld := s.therm.railHeld || decide (3 ≤ (s.clock.now :: fails).length) } } : State) = u
  have hrail : u.therm.railHeld = false := by
    rw [← hu]
    simp only [hheld, Bool.false_or, decide_eq_false_iff_not]
    exact hlen
  have hfaults : u.faults = s.faults := by rw [← hu]
  have hfault := faulted_faultCOpen 0xE007 u
  have hkept := therm_faultCOpen 0xE007 u
  generalize faultCOpen 0xE007 u = v at hfault hkept ⊢
  refine ⟨_, rfl, hfault.congr hfaults.symm (setFlankPower_faults f _ v), ?_, ?_, ?_⟩
  · exact (congrArg FlankPower.moving (flankPower_setFlankPower_self f _ v) :)
  · exact (congrArg FlankPower.point (flankPower_setFlankPower_self f _ v) :)
  · refine (congrArg Thermal.railHeld (thermCore_setFlankPower f _ v) : _ = _).trans ?_
    exact (congrArg Thermal.railHeld hkept).trans hrail

/-- RCTL_ALERT is on record as a rail move that failed. -/
theorem rctlAlert_faults (s : State) : ∃ t, exec .rctlAlert s = .next t ∧ Faulted 0xE007 .c s t ∧ t.pins.rctlAlertN = false := by
  generalize hu : ({ s with pins := { s.pins with rctlAlertN := false } } : State) = u
  have hexec : exec .rctlAlert s = .next (faultCOpen 0xE007 u) := by
    rw [← hu]
    rfl
  have hpins : (faultCOpen 0xE007 u).pins = u.pins :=
    (faultCOpen_keeps 0xE007 (T := [.boot, .dev, .faults, .db, .ports, .cmds, .graphs, .cairn, .out, .free]) rfl
      (Keeps.refl u)).same .pins (by decide)
  refine ⟨_, hexec, (faulted_faultCOpen 0xE007 u).congr (by rw [← hu]) rfl, ?_⟩
  rw [hpins, ← hu]

/-! ## Thermal shutdown -/

/-- Turning every laser off leaves the device record, but for DEGRADED. -/
theorem serviceKept_allDark (s : State) : ServiceKept s (allDark s) := by
  unfold allDark
  extract_lets s0 s1 s2
  have h0 : ServiceKept s s0 := (ServiceKept.refl s).fold fun t i ht =>
    ht.quiet (discardRuns_keeps _ _ (T := [.counts, .comp, .banks]) rfl (Keeps.refl t)) (by decide) (by decide)
  have h1 : ServiceKept s s1 := h0.fold fun t i ht =>
    ht.quiet (laserOff_keeps i (T := [.las]) rfl (Keeps.refl t)) (by decide) (by decide)
  have h2 : ServiceKept s s2 := h1.fold fun t n ht => by
    split
    · exact ht
    · exact serviceKept_linkDown n ht
  exact serviceKept_portDown .cp1 (serviceKept_portDown .cp0 h2)

/-- The second sample at 125 °C or more halts the device, its record latched, the guest in reset and both ports DOWN. -/
theorem thermalShutdown_halts {r1 r2 : Int} (hdue : s.therm.tripDue = some (j, r1, r2)) (hrun : s.dev.state ≠ .haltedThermal) :
    ∃ t, exec .thermalShutdown s = .next t ∧ t.dev.state = .haltedThermal ∧ t.pins.gstRstN = false ∧
      t.therm.latched = some (j, r1, r2, s.clock.now) ∧ t.therm.tripDue = none ∧ (portSt .cp0 t).phase = .down ∧
      (portSt .cp1 t).phase = .down := by
  have hexec : ∃ u, exec .thermalShutdown s = .next (allDark u) ∧ u.dev.state = .haltedThermal ∧ u.pins.gstRstN = false ∧
      u.therm.latched = some (j, r1, r2, s.clock.now) ∧ u.therm.tripDue = none := by
    change ∃ u, execThermalShutdown s = .next (allDark u) ∧ _
    unfold execThermalShutdown
    rw [hdue]
    dsimp only
    rw [if_neg hrun]
    exact ⟨_, rfl, rfl, rfl, rfl, rfl⟩
  obtain ⟨u, hexec, hhalted, hguest, hlatched, htrip⟩ := hexec
  have hkeeps := allDark_keeps (T := [.boot, .dev, .faults, .db, .ports, .cmds, .graphs, .counts, .comp, .banks, .cairn, .las,
    .chans, .links, .fab, .out, .free]) rfl (Keeps.refl u)
  have htherm := hkeeps.same .therm (by decide)
  have hports : ∀ q, (portSt q (allDark u)).phase = .down := fun q => by
    unfold allDark
    rw [portDown_phase, portDown_phase]
    cases q <;> simp
  refine ⟨_, hexec, (serviceKept_allDark u).state.trans hhalted, ?_, ?_, ?_, hports .cp0, hports .cp1⟩
  · exact (congrArg Pins.gstRstN (hkeeps.same .pins (by decide))).trans hguest
  · exact (congrArg Thermal.latched htherm).trans hlatched
  · exact (congrArg Thermal.tripDue htherm).trans htrip

end

/-- Settles O52: each row writes what its rule names, and what else it does leaves those values alone. -/
theorem thermalAndPower : Obligations.ThermalAndPower := by
  refine ⟨fun j reading s hj hin hrun hok => sensorSample_kept hj hin hrun hok,
    fun j reading s hj hin hrun hbad => sensorSample_excluded hj hin hrun hbad,
    fun d s hopen hgrace hdue hcool => ?_, fun d s hopen hgrace hdue hhot => graceExpiry_enforces hopen hgrace hdue hhot,
    fun d s henf hdue hhot => enforcementGrid_steps henf hdue hhot, fun d s henf hdue hcool => ?_,
    fun d t0 s hcool hopen hdue => thermalRelease_ends hcool hopen hdue, fun s hramp hdue => releaseRampTimer_north hramp hdue,
    fun f t0 s hheld hdue => band4NomHoldEnd_ends hheld hdue, fun j r1 r2 s hdue hrun => thermalShutdown_halts hdue hrun,
    fun compute rest s hlow hhigh => ?_, fun compute rest s hover htop => ?_,
    fun compute rest s hover htop hpoint hmay => ?_, fun compute rest s hspare hmay hrate => ?_,
    fun t0 s hsince hdue hheld hfw => ?_, fun f p s hmove => railMoveDone_point hmove,
    fun f p s hmove hheld hfew => railMoveFailure_back hmove hheld hfew, fun s => rctlAlert_faults s⟩
  · refine (if_neg (by simp [hopen, hgrace]; omega)).trans (congrArg Host.Outcome.next ?_)
    exact if_neg (by rw [domainHot_setReq, hcool]; decide)
  · refine (if_neg (by simp [henf]; omega)).trans (congrArg Host.Outcome.next ?_)
    exact if_neg (by rw [domainHot_setReq, hcool]; decide)
  · obtain ⟨t, hexec, hmean, hp, hr, -, -, hkeeps⟩ := powerLimiterTick_moves
      (limiterMove_within (s := measured (compute + rest + 60) s) hlow hhigh)
    exact ⟨t, hexec, hmean, hp, hr, ((keeps_setTherm rfl (Keeps.refl s) _).trans hkeeps).frame⟩
  · obtain ⟨hmean, hp, hr, hat⟩ := limChange_core (measured (compute + rest + 60) s).therm.limPoint
      (max 1 ((measured (compute + rest + 60) s).therm.limRate - 2)) (measured (compute + rest + 60) s)
    obtain ⟨t, hexec, hmean', hp', hr', hat', -, -⟩ := powerLimiterTick_moves
      (limiterMove_rateDown (s := measured (compute + rest + 60) s) hover htop)
    exact ⟨t, hexec, hmean'.trans hmean, hp'.trans hp, hr'.trans hr, hat'.trans hat⟩
  · obtain ⟨u, hmove, -, hp, hr, hat⟩ := limiterMove_pointDown (s := measured (compute + rest + 60) s) hover htop hpoint hmay
    obtain ⟨t, hexec, -, hp', hr', -, hat', -⟩ := powerLimiterTick_moves hmove
    exact ⟨t, hexec, hp'.trans hp, hr'.trans hr, hat'.trans hat⟩
  · obtain ⟨-, hp, hr, hat⟩ := limChange_core (measured (compute + rest + 60) s).therm.limPoint
      (min 16 ((measured (compute + rest + 60) s).therm.limRate + 2)) (measured (compute + rest + 60) s)
    obtain ⟨t, hexec, -, hp', hr', hat', -, -⟩ := powerLimiterTick_moves
      (limiterMove_rateUp (s := measured (compute + rest + 60) s) hspare hmay hrate)
    exact ⟨t, hexec, hp'.trans hp, hr'.trans hr, hat'.trans hat⟩
  · exact limiterHeld_noticed hsince hdue hheld hfw

end Sys2Proof.Machine

/-!
PROOFS. Modules: what changes one module's record, and what the judgement of its group leaves of it (R387, R393–R397).
-/

namespace Sys2Proof.Machine

section
variable {s t u : State} {m n d g : Nat}

/-! ## Records of modules and of their directions -/

theorem modGet_modSet_self (m : Nat) (x : Module) (s : State) : modGet m (modSet m x s) = x :=
  tget_tset_self ({} : Module) s.d2d.modu m x

theorem modGet_modSet_ne (h : n ≠ m) (x : Module) (s : State) : modGet n (modSet m x s) = modGet n s :=
  tget_tset_ne ({} : Module) s.d2d.modu m n x h

theorem modGet_congr (h : t.d2d.modu = s.d2d.modu) (m : Nat) : modGet m t = modGet m s := by
  rw [modGet, h, modGet]

theorem modGet_of_keeps {T : List Area} (h : Keeps T s t) (hT : Area.d2d ∉ T) (m : Nat) : modGet m t = modGet m s :=
  modGet_congr (congrArg D2d.modu (h.same .d2d hT)) m

theorem dir_setDir_self (x : Module) (y : D2dDir) (d : Nat) : (x.setDir d y).dir d = y := by
  unfold Module.setDir Module.dir
  by_cases h : d = 0 <;> simp [h]

theorem dirGet_putDir_self (m d : Nat) (y : D2dDir) (s : State) : dirGet m d (putDir m d y s) = y := by
  rw [dirGet, putDir, modGet_modSet_self, dir_setDir_self]

theorem modGet_putDir (m d : Nat) (y : D2dDir) (s : State) : modGet m (putDir m d y s) = (modGet m s).setDir d y :=
  modGet_modSet_self m _ s

theorem state_setDir (x : Module) (d : Nat) (y : D2dDir) : (x.setDir d y).state = x.state := by
  unfold Module.setDir
  split <;> rfl

theorem clock_putDir (m d : Nat) (y : D2dDir) (s : State) : (putDir m d y s).clock = s.clock := rfl

/-! ## Weights -/

/-- A module takes the weight it should have. -/
def weigh (s : State) (m : Nat) : State :=
  { s with d2d := { s.d2d with weight := tset 0 s.d2d.weight m (wantedWeight m s) } }

theorem setWeights_eq (g : Nat) (s : State) : setWeights g s = (groupModules g).foldl weigh s := rfl

theorem wantedWeight_congr (h : t.d2d.modu = s.d2d.modu) (m : Nat) : wantedWeight m t = wantedWeight m s := by
  unfold wantedWeight
  rw [modGet_congr h]

/-- Modules weighed one after another have the weights they should have, and nothing else has changed. -/
theorem weigh_all (l : List Nat) (s : State) : (l.foldl weigh s).d2d.modu = s.d2d.modu ∧
    (l.foldl weigh s).d2d.changeAt = s.d2d.changeAt ∧
    ∀ m, tget 0 (l.foldl weigh s).d2d.weight m = if m ∈ l then wantedWeight m s else tget 0 s.d2d.weight m := by
  induction l generalizing s with
  | nil => exact ⟨rfl, rfl, fun m => rfl⟩
  | cons a l ih =>
    obtain ⟨hmodu, hchange, hweight⟩ := ih (weigh s a)
    refine ⟨hmodu, hchange, fun m => (hweight m).trans ?_⟩
    rw [wantedWeight_congr (s := s) (t := weigh s a) rfl]
    by_cases hl : m ∈ l
    · simp [hl]
    · by_cases hm : m = a
      · subst hm
        simp [hl, weigh, tget_tset_self]
      · simp [hl, hm, weigh, tget_tset_ne]

theorem restripe_modu (g : Nat) (s : State) : (restripe g s).d2d.modu = s.d2d.modu := by
  unfold restripe
  extract_lets ms
  split
  · rfl
  · split
    · exact (weigh_all _ s).1
    · rfl

/-! ## What a loss of its clock leaves of a module -/

/-- A module that sees no clock any more. -/
def lostModule (x : Module) : Module :=
  { x with
    state := .clockLost, rx := { x.rx with retry := [], nak := false, replays := 0 }
    tx := { x.tx with retry := [], nak := false, replays := 0 }, retrainTill := none }

/-- A module's record is as before, or its clock has been lost since. -/
def MaybeLost (m : Nat) (s t : State) : Prop := modGet m t = modGet m s ∨ modGet m t = lostModule (modGet m s)

theorem MaybeLost.refl (m : Nat) (s : State) : MaybeLost m s s := .inl rfl

theorem MaybeLost.trans (h : MaybeLost m s t) (k : MaybeLost m t u) : MaybeLost m s u := by
  rcases h with h | h
  · rcases k with k | k
    · exact .inl (k.trans h)
    · exact .inr (by rw [k, h])
  · rcases k with k | k
    · exact .inr (k.trans h)
    · exact .inr (by rw [k, h]; rfl)

theorem MaybeLost.fold {α : Type} {l : List α} {x : State → α → State} (h : MaybeLost m s t)
    (hx : ∀ u a, MaybeLost m u (x u a)) : MaybeLost m s (l.foldl x t) :=
  List.foldlRecOn (motive := MaybeLost m s) l x h fun u hu a _ => hu.trans (hx u a)

theorem MaybeLost.of_keeps {T : List Area} (h : Keeps T s t) (hT : Area.d2d ∉ T) : MaybeLost m s t :=
  .inl (modGet_of_keeps h hT m)

theorem maybeLost_moduleClockLost (m n : Nat) (s : State) : MaybeLost m s (moduleClockLost n s) := by
  unfold moduleClockLost
  extract_lets x
  split
  · exact .inl rfl
  · by_cases h : m = n
    · subst h
      exact .inr (modGet_modSet_self m _ s)
    · exact .inl (modGet_modSet_ne h _ s)

theorem maybeLost_flankOut (m : Nat) (f : Flank) (ph : FlankPhase) (s : State) : MaybeLost m s (flankOut f ph s) := by
  have hset : Keeps [.dev] s (setFlank f ph s) := setFlank_keeps f ph rfl (Keeps.refl s)
  unfold flankOut
  extract_lets was s1 s2 s3 s4 s5 o
  have h3 : Keeps [.boot, .dev, .faults, .db, .ports, .cmds, .graphs, .bytes, .memCtl, .counts, .comp, .cairn, .las, .chans,
      .links, .fab, .out, .free] s s3 := Keeps.foldl (loseMemory_keeps f rfl (restartCompute_keeps f rfl
        (mapRunning_keeps _ rfl (setFlank_keeps f ph rfl (Keeps.refl s))))) fun t n ht => linkDown_keeps n rfl ht
  have h4 : MaybeLost m s s4 := (MaybeLost.of_keeps h3 (by decide)).fold fun t n => maybeLost_moduleClockLost m n t
  have h5 : MaybeLost m s s5 := h4.trans (.of_keeps (T := [.locks, .dev, .db, .ports, .cmds, .out])
    (refreshDegraded_keeps rfl (releaseLocks_keeps _ rfl (Keeps.refl s4))) (by decide))
  split
  · exact .of_keeps (refreshDegraded_keeps (T := [.dev, .db, .ports, .cmds, .out]) rfl
      (setFlank_keeps f ph rfl (Keeps.refl s))) (by decide)
  · split
    · exact h5.trans (.of_keeps (enterFaulted_keeps (T := [.boot, .dev, .db, .ports, .cmds, .graphs, .cairn, .out]) rfl
        (Keeps.refl s5)) (by decide))
    · exact h5

theorem maybeLost_faultUOpen (m src : Nat) (s : State) : MaybeLost m s (faultUOpen src s) :=
  .of_keeps (faultUOpen_keeps src (T := [.boot, .dev, .faults, .db, .ports, .cmds, .graphs, .cairn, .out, .free]) rfl
    (Keeps.refl s)) (by decide)

theorem maybeLost_faultU (m src syn : Nat) (s : State) : MaybeLost m s (faultU src syn s) :=
  .of_keeps (faultU_keeps src syn (T := [.boot, .dev, .faults, .db, .ports, .cmds, .graphs, .cairn, .out]) rfl
    (Keeps.refl s)) (by decide)

theorem maybeLost_fenceFlank (m : Nat) (f : Flank) (s : State) : MaybeLost m s (fenceFlank f s) := by
  unfold fenceFlank
  split
  · exact .refl m s
  · exact (maybeLost_faultUOpen m _ s).trans (maybeLost_flankOut m f .fenced _)

/-- The judgement of any group but the guest's leaves a module's record, or takes its clock. -/
theorem maybeLost_judgeGroup (m : Nat) (hg : g ≠ 18) (s : State) : MaybeLost m s (judgeGroup g s) := by
  unfold judgeGroup
  extract_lets c
  split
  · split
    · exact maybeLost_fenceFlank m _ s
    · exact .refl m s
  · split
    · split
      · exact .of_keeps (fenceOptical_keeps _ (T := [.boot, .dev, .faults, .db, .ports, .cmds, .graphs, .counts, .cairn, .las,
          .chans, .links, .fab, .out, .free]) rfl (Keeps.refl s)) (by decide)
      · split
        · exact .of_keeps (narrowOptical_keeps _ (T := [.faults, .counts, .chans, .links, .out]) rfl (Keeps.refl s)) (by decide)
        · exact .refl m s
    · split
      · split
        · exact maybeLost_fenceFlank m _ s
        · exact .refl m s
      · split
        · exact .of_keeps (fencePorts_keeps (T := [.boot, .dev, .faults, .db, .ports, .cmds, .graphs, .cairn, .out, .free]) rfl
            (Keeps.refl s)) (by decide)
        · exact .refl m s

theorem maybeLost_restripe (m g : Nat) (s : State) : MaybeLost m s (restripe g s) := .inl (modGet_congr (restripe_modu g s) m)

theorem maybeLost_refreshDegraded (m : Nat) (s : State) : MaybeLost m s (refreshDegraded s) :=
  .of_keeps (refreshDegraded_keeps (T := [.dev, .db, .ports, .cmds, .out]) rfl (Keeps.refl s)) (by decide)

theorem maybeLost_moduleChanged (m : Nat) (hn : moduleGroup n ≠ 18) (s : State) : MaybeLost m s (moduleChanged n s) :=
  ((maybeLost_restripe m _ s).trans (maybeLost_judgeGroup m hn _)).trans (maybeLost_refreshDegraded m _)

/-! ## Groups that carry enough -/

theorem mem_groupModules (hm : m < 141) : m ∈ groupModules (moduleGroup m) :=
  List.mem_filter.mpr ⟨List.mem_range.mpr hm, by simp⟩

theorem le_sum_of_mem {l : List Nat} {f : Nat → Nat} (h : m ∈ l) : f m ≤ (l.map f).sum :=
  List.single_le_sum (fun _ _ => Nat.zero_le _) _ (List.mem_map.mpr ⟨m, h, rfl⟩)

/-- A module in service with its records carries half the rate at least. -/
theorem le_dirCapacity (hstate : (modGet m s).state = .active) (hrec : ((modGet m s).dir d).noRecord = false) :
    128 ≤ dirCapacity m d s := by
  unfold dirCapacity
  dsimp only
  rw [if_neg (by simp [hstate, hrec])]
  split <;> decide

/-- A group with a module in service has the capacity of one that needs a single module. -/
theorem le_groupCapacity (hm : m < 141) (hstate : (modGet m s).state = .active) (hrx : (modGet m s).rx.noRecord = false)
    (htx : (modGet m s).tx.noRecord = false) : 128 ≤ groupCapacity (moduleGroup m) s :=
  le_min ((le_dirCapacity (d := 0) hstate hrx).trans (le_sum_of_mem (f := fun m => dirCapacity m 0 s) (mem_groupModules hm)))
    ((le_dirCapacity (d := 1) hstate htx).trans (le_sum_of_mem (f := fun m => dirCapacity m 1 s) (mem_groupModules hm)))

theorem moduleGroup_ge (h : 128 ≤ m) : 16 ≤ moduleGroup m := by
  unfold moduleGroup
  repeat' split
  all_goals omega

/-- A group of the Col, the guest or the ports that carries enough stays as it is. -/
theorem judgeGroup_enough (hg : 16 ≤ g) (hc : 128 ≤ groupCapacity g s) : judgeGroup g s = s := by
  unfold judgeGroup
  dsimp only
  rw [if_neg (by omega), if_neg (by omega)]
  split
  · exact if_neg (by omega)
  · split
    · exact if_neg (by omega)
    · exact if_neg (by omega)

/-- A module of those groups that is in service stays so when its group is judged. -/
theorem modGet_moduleChanged_enough (hm : 128 ≤ m) (hmt : m < 141) (hstate : (modGet m s).state = .active)
    (hrx : (modGet m s).rx.noRecord = false) (htx : (modGet m s).tx.noRecord = false) :
    modGet m (moduleChanged m s) = modGet m s := by
  have hget : modGet m (restripe (moduleGroup m) s) = modGet m s := modGet_congr (restripe_modu _ s) m
  have hcap := le_groupCapacity (s := restripe (moduleGroup m) s) hmt (by rw [hget, hstate]) (by rw [hget, hrx])
    (by rw [hget, htx])
  unfold moduleChanged
  rw [judgeGroup_enough (moduleGroup_ge hm) hcap]
  exact (modGet_of_keeps (refreshDegraded_keeps (T := [.dev, .db, .ports, .cmds, .out]) rfl (Keeps.refl _)) (by decide) m).trans
    hget

end

end Sys2Proof.Machine

/-!
PROOFS. Verweust modules: slots, retry, the sideband, link-up, retrain, clocks and weights (R53, R54, R381–R397, R433, R447).
-/

namespace Sys2Proof.Machine

section
variable {s t u : State} {m n d g : Nat} {y : D2dDir} {x : D2dSlot}

/-! ## Slots -/

theorem dirGet_of_keeps {T : List Area} (h : Keeps T s t) (hT : Area.d2d ∉ T) (m d : Nat) : dirGet m d t = dirGet m d s := by
  rw [dirGet, modGet_of_keeps h hT, dirGet]

theorem forcedD_none (h : s.faults.poisonNext = []) (src core : Nat) : forcedD src core s = false := by
  simp [forcedD, h]

/-- A direction whose flit has been sent and received in order. -/
def passed (now : Nat) (x : D2dSlot) (y : D2dDir) : D2dDir :=
  { y with
    seq := y.seq + 1, retry := y.retry ++ [(x.flit, x.p)], ackAt := if y.retry = [] then now else y.ackAt
    slot := y.slot + 1, expect := y.expect + 1, merged := y.merged + 1 }

/-- A good slot in sequence is taken: the transmitter keeps its flit, and the receiver expects the next. -/
theorem slotTaken_good (hstate : (modGet m s).state = .active) (hy : dirGet m d s = y) (hpoison : s.faults.poisonNext = [])
    (hcrc : slotCrc x = x.crc) (hv : x.v = true) (hk : x.k = false) (hnak : y.nak = false) (hleft : y.left = 0)
    (hroom : retryRoom m d s = true) (hseq : y.seq = y.expect) :
    slotTaken m d x s = groupFlit m (putDir m d (passed s.clock.now x y) s) := by
  have hforced : forcedD (modSource m) 0 s = false := forcedD_none hpoison _ _
  have hslot : slotSeq y = y.expect := by simp [slotSeq, hleft, hseq]
  have hsent : ∀ z : D2dSlot, z.flit = x.flit → z.p = x.p → flitSent s.clock.now z y = { y with
      seq := y.seq + 1, retry := y.retry ++ [(x.flit, x.p)], ackAt := if y.retry = [] then s.clock.now else y.ackAt } :=
    fun z hflit hp => by
      rw [← hflit, ← hp]
      exact if_neg (by omega)
  unfold slotTaken
  rw [hforced]
  simp only [Bool.false_and, Bool.or_false, Bool.false_eq_true, if_false]
  rw [hy, hsent _ rfl rfl]
  simp only [hv, hcrc, hk, hnak, hstate, hroom, hslot, passed, decide_true, Bool.or_true, Bool.not_false, Bool.not_true,
    Bool.and_self, if_true, Bool.false_eq_true, if_false]

/-- A bad slot is answered with NAK; the receiver goes on expecting what it expected. -/
theorem slotTaken_bad (hpoison : s.faults.poisonNext = []) (hcrc : slotCrc x ≠ x.crc) : ∃ z : D2dDir,
    slotTaken m d x s = putDir m d z s ∧ z.nak = true ∧ z.expect = (dirGet m d s).expect := by
  have hforced : forcedD (modSource m) 0 s = false := forcedD_none hpoison _ _
  have hsent : ∀ n v z, (flitSent n v z).expect = z.expect := fun n v z => by
    unfold flitSent
    split <;> rfl
  have hempty : ∀ z, (emptyPasses m z s).expect = z.expect := fun z => by
    unfold emptyPasses
    split <;> rfl
  unfold slotTaken
  rw [hforced]
  simp only [Bool.false_and, Bool.false_eq_true, if_false]
  rw [if_pos (by simp [hcrc])]
  refine ⟨_, rfl, rfl, ?_⟩
  dsimp only
  repeat' split
  all_goals simp only [hsent, hempty]

theorem exec_d2dSlotReceive (hm : m < 141) (hd : d < 2) (hstate : (modGet m s).state = .active)
    (hrec : (dirGet m d s).noRecord = false) :
    exec (.d2dSlotReceive m d x) s = .next (slotTaken m d x (ackBegins m d s)) :=
  if_neg (by simp [carriesSlots, hstate, hrec]; omega)

/-! ## Acknowledgement and replay -/

theorem toNat_acked {q w : BitVec 7} {n : Nat} (hw : w = q - 1) (hn : n < 128) : (w - (q - BitVec.ofNat 7 n) + 1).toNat = n := by
  subst hw
  bv_omega

/-- An acknowledgement of the last flit sent empties the retry buffer. -/
theorem d2dAckWord_frees {w : BitVec 16} (hm : m < 141) (hd : d < 2) (hstate : (modGet m s).state = .active)
    (hcrc : crc8 8 (w.toNat % 256) = w.toNat / 256) (hnak : w.getLsbD 7 = false) (hheld : (dirGet m d s).retry ≠ [])
    (hlen : (dirGet m d s).retry.length < 128) (hw : w.setWidth 7 = (dirGet m d s).seq - 1) :
    ∃ t, exec (.d2dAckWord m d w) s = .next t ∧ (dirGet m d t).retry = [] ∧ (dirGet m d t).replays = 0 ∧
      (dirGet m d t).ackAt = s.clock.now ∧ OnlyChanges [.d2d] s t := by
  have hpos : (dirGet m d s).retry.length ≠ 0 := fun h => hheld (List.eq_nil_of_length_eq_zero h)
  have hexec : exec (.d2dAckWord m d w) s = .next (putDir m d { dirGet m d s with
      retry := (dirGet m d s).retry.drop (dirGet m d s).retry.length
      left := min (dirGet m d s).left ((dirGet m d s).retry.length - (dirGet m d s).retry.length)
      ackAt := s.clock.now, replays := 0 } s) := by
    refine (if_neg (by simp [carriesSlots, hstate, hcrc]; omega)).trans (congrArg Host.Outcome.next ?_)
    rw [if_neg (by rw [hnak]; exact Bool.false_ne_true), toNat_acked hw hlen, if_pos le_rfl, if_neg hpos]
  refine ⟨_, hexec, ?_, ?_, ?_, (putDir_keeps m d _ rfl (Keeps.refl s)).frame⟩
  · rw [dirGet_putDir_self]
    exact List.drop_length
  · rw [dirGet_putDir_self]
  · rw [dirGet_putDir_self]

/-- Without an advance of ACK_SEQ in time, the transmitter replays what it holds. -/
theorem d2dRetryTimer_replays (hm : m < 141) (hd : d < 2) (hstate : (modGet m s).state = .active)
    (hheld : (dirGet m d s).retry ≠ [])
    (hdue : (dirGet m d s).ackAt + (if (dirGet m d s).half then 64 else 32) ≤ s.clock.now)
    (hfew : (dirGet m d s).replays < 7) :
    ∃ t, exec (.d2dRetryTimer m d) s = .next t ∧ (dirGet m d t).left = (dirGet m d s).retry.length ∧
      (dirGet m d t).replays = (dirGet m d s).replays + 1 ∧ (dirGet m d t).retry = (dirGet m d s).retry ∧
      OnlyChanges [.d2d] s t := by
  have hreplay : replay m d s = putDir m d { dirGet m d s with
      left := (dirGet m d s).retry.length, replays := (dirGet m d s).replays + 1, nak := false, ackAt := s.clock.now } s :=
    if_neg (by omega)
  have hexec : exec (.d2dRetryTimer m d) s = .next (replay m d s) :=
    if_neg (by simp [carriesSlots, hstate, hheld]; omega)
  refine ⟨_, hexec.trans (congrArg Host.Outcome.next hreplay), ?_, ?_, ?_, (putDir_keeps m d _ rfl (Keeps.refl s)).frame⟩
  · rw [dirGet_putDir_self]
  · rw [dirGet_putDir_self]
  · rw [dirGet_putDir_self]

/-! ## The sideband -/

/-- A sideband message that goes out leaves what its module is doing. -/
theorem sbSend_module (m type index data : Nat) (s : State) : ∃ w q a, sbSend m type index data s =
    { modSet m { modGet m s with sbSeq := q, sbWait := w } s with out := s.out ++ [.sideband m a] } := ⟨_, _, _, rfl⟩

/-- A retrain starts: its module no longer carries slots for 2 µs. -/
theorem startRetrain_starts (h : (modGet m s).state = .active) : (modGet m (startRetrain m s)).state = .retrain ∧
    (modGet m (startRetrain m s)).retrainTill = some (s.clock.now + 2000) ∧ Keeps [.d2d] s (startRetrain m s) := by
  have hstart : startRetrain m s = restripe (moduleGroup m)
      (modSet m { modGet m s with state := .retrain, retrainTill := some (s.clock.now + 2000) } s) := if_neg (by simp [h])
  have hget : modGet m (startRetrain m s) = { modGet m s with state := .retrain, retrainTill := some (s.clock.now + 2000) } := by
    rw [hstart, modGet_congr (restripe_modu _ _), modGet_modSet_self]
  rw [hget]
  exact ⟨rfl, rfl, hstart ▸ restripe_keeps _ rfl (modSet_keeps _ _ rfl (Keeps.refl s))⟩

/-- A message and then a retrain of its module. -/
theorem startRetrain_sbSend (h : (modGet m s).state = .active) (type index data : Nat) : ∃ t a,
    startRetrain m (sbSend m type index data s) = t ∧ (modGet m t).state = .retrain ∧
      (modGet m t).retrainTill = some (s.clock.now + 2000) ∧ t.out = s.out ++ [.sideband m a] ∧ Keeps [.d2d, .out] s t := by
  obtain ⟨w, q, a, hsend⟩ := sbSend_module m type index data s
  have hkeeps := sbSend_keeps m type index data (T := [.d2d, .out]) rfl (Keeps.refl s)
  have hstate : (modGet m (sbSend m type index data s)).state = .active := by
    rw [hsend]
    exact (congrArg Module.state (modGet_modSet_self m _ s)).trans h
  have hout : (sbSend m type index data s).out = s.out ++ [.sideband m a] := by rw [hsend]
  have hclock : (sbSend m type index data s).clock = s.clock := hkeeps.same .clock (by decide)
  obtain ⟨hretrain, htill, hstart⟩ := startRetrain_starts hstate
  refine ⟨_, a, rfl, hretrain, by rw [htill, hclock], ?_, hkeeps.trans (hstart.weaken (by decide))⟩
  rw [hstart.same .out (by decide), hout]

theorem exec_sidebandMessage {w : BitVec 64} (hm : m < 141) (hpow : modPowered m s = true)
    (hcrc : crc8 56 (w.toNat % 2 ^ 56) = w.toNat / 2 ^ 56) : exec (.sidebandMessage m w) s =
      if w.toNat % 256 = 0 then .next (modSet m { modGet m s with
        sbWait := (modGet m s).sbWait.filter fun y => y.seq.toNat != bitsOf w.toNat 15 8 } s)
      else .next (sbActs m (w.toNat % 256) (bitsOf w.toNat 47 16) (sbSend m 0 (bitsOf w.toNat 55 48) 0 s)) := by
  refine if_neg ?_
  rw [hpow, hcrc, bne_self_eq_false, decide_eq_false (by omega)]
  exact Bool.false_ne_true

/-- A sideband message still unanswered after 10 µs is sent again. -/
theorem sidebandRetryTimer_repeats {seq : BitVec 8} {w : SbWait} (hm : m < 141)
    (hw : ((modGet m s).sbWait.find? fun y => y.seq = seq) = some w) (hdue : w.sentAt + 10000 ≤ s.clock.now)
    (hfew : w.attempts < 8) : ∃ t, exec (.sidebandRetryTimer m seq) s = .next t ∧ t.out = s.out ++ [.sideband m w.word] ∧
      (∀ y ∈ (modGet m t).sbWait, y.seq = seq → y.sentAt = s.clock.now) ∧ OnlyChanges [.d2d, .out] s t := by
  have hexec : exec (.sidebandRetryTimer m seq) s = .next (emit (.sideband m w.word) (modSet m { modGet m s with
      sbWait := (modGet m s).sbWait.map fun y =>
        if y.seq = seq then { y with sentAt := s.clock.now, attempts := y.attempts + 1 } else y } s)) := by
    change execSidebandRetryTimer m seq s = _
    unfold execSidebandRetryTimer
    dsimp only
    rw [hw]
    exact (if_neg (by simp; omega)).trans (if_pos hfew)
  refine ⟨_, hexec, rfl, fun y hy hseq => ?_, (emit_keeps _ rfl (modSet_keeps _ _ rfl (Keeps.refl s))).frame⟩
  have hget := modGet_modSet_self m { modGet m s with sbWait := (modGet m s).sbWait.map fun y =>
    if y.seq = seq then { y with sentAt := s.clock.now, attempts := y.attempts + 1 } else y } s
  have hy' : y ∈ (modGet m (modSet m { modGet m s with sbWait := (modGet m s).sbWait.map fun y =>
    if y.seq = seq then { y with sentAt := s.clock.now, attempts := y.attempts + 1 } else y } s)).sbWait := hy
  rw [hget] at hy'
  obtain ⟨z, -, rfl⟩ := List.mem_map.mp hy'
  split at hseq
  · rw [if_pos ‹_›]
  · exact absurd hseq ‹_›

theorem fenced_moduleOut (hm : m < 141) (d wire : Nat) (s : State) : Fenced (0x6000 + m) 0 (moduleOut m d wire s) := by
  have hsrc : perCore (0x6000 + m) = false := by
    simp only [perCore, Bool.or_eq_false_iff, decide_eq_false_iff_not]
    omega
  exact (fenced_faultU (src := 0x6000 + m) (by omega) hsrc _ _).grows (moduleChanged_grows m (Grows.refl _))

/-- After eight attempts a message unanswered takes its module out. -/
theorem sidebandRetryTimer_fences {seq : BitVec 8} {w : SbWait} (hm : m < 141)
    (hw : ((modGet m s).sbWait.find? fun y => y.seq = seq) = some w) (hdue : w.sentAt + 10000 ≤ s.clock.now)
    (hmany : 8 ≤ w.attempts) : ∃ t, exec (.sidebandRetryTimer m seq) s = .next t ∧ Fenced (0x6000 + m) 0 t := by
  refine ⟨_, ?_, fenced_moduleOut hm 0 0x7F (modSet m { modGet m s with
    sbWait := (modGet m s).sbWait.filter fun y => y.seq != seq } s)⟩
  change execSidebandRetryTimer m seq s = _
  unfold execSidebandRetryTimer
  dsimp only
  rw [hw]
  exact (if_neg (by simp; omega)).trans (if_neg (by omega))

/-! ## Link-up -/

/-- What a module tells its far end at link-up leaves all but its next sequence number. -/
theorem tellCaps_module (m : Nat) (s : State) : ∃ q, modGet m (tellCaps m s) = { modGet m s with sbSeq := q } ∧
    Keeps [.d2d, .out] s (tellCaps m s) := by
  refine ⟨if moduleGroup m != 18 then (modGet m s).sbSeq else (modGet m s).sbSeq + 9, ?_,
    tellCaps_keeps m rfl (Keeps.refl s)⟩
  unfold tellCaps
  extract_lets q words
  split
  · rfl
  · have hemit : Keeps [.out] (modSet m { modGet m s with sbSeq := (modGet m s).sbSeq + 9 } s)
        (words.foldl (fun t w => emit (.sideband m w) t) (modSet m { modGet m s with sbSeq := (modGet m s).sbSeq + 9 } s)) :=
      Keeps.foldl (Keeps.refl _) fun t w ht => emit_keeps _ rfl ht
    rw [modGet_of_keeps hemit (by decide), modGet_modSet_self]

/-- A module with enough wires and capabilities at both ends links up. -/
theorem linkUpWith_links {x : LinkUpInput} (hfull : bitOf (capField x.caps 2 0 0) 0 = true)
    (hdepth : 16 ≤ capField x.caps 3 15 8) (hgood : x.goodWires = []) (hbad : x.badWires = [])
    (hrx : (modGet m s).rx.repair.length ≤ 38) (htx : (modGet m s).tx.repair.length ≤ 38) :
    ∃ z u, linkUpWith m x s = moduleChanged m (fenceDrop (modSource m) 0 (modSet m z u)) ∧ z.state = .active ∧
      z.depth = min 128 (capField x.caps 3 15 8) ∧ z.tags = min 256 (capField x.caps 6 8 0) ∧ z.recalAt = s.clock.now ∧
      z.id = (modGet m s).id ∧ z.rx.noRecord = (modGet m s).rx.noRecord ∧ z.tx.noRecord = (modGet m s).tx.noRecord := by
  unfold linkUpWith
  extract_lets full half depth y rx tx s1 s2 s3 z
  have h3 : s3 = s1 := by
    simp only [s3, s2, hgood, hbad, List.foldl_nil]
  have hget : modGet m s1 = _ := modGet_modSet_self m _ s
  have hfew : ∀ d, tooFewWires m d s1 = false := fun d => by
    rw [tooFewWires, dirGet, hget, decide_eq_false_iff_not, Module.dir]
    split
    · exact Nat.not_lt.mpr hrx
    · exact Nat.not_lt.mpr htx
  have hz : z = modGet m s1 := congrArg (modGet m) h3
  have hdep : depth = min 128 (capField x.caps 3 15 8) := rfl
  rw [if_neg (by simp [full, hfull, hdep]; omega), h3, if_neg (by simp [hfew]), hz, hget]
  exact ⟨_, s1, rfl, rfl, rfl, rfl, rfl, rfl, rfl, rfl⟩

theorem isFenced_fenceDrop (src core : Nat) (s : State) : isFenced src core (fenceDrop src core s) = false := by
  unfold isFenced fenceDrop setErase
  simp

theorem exec_moduleLinkUp {x : LinkUpInput} (hm : m < 141) (hguest : moduleGroup m = 18 → s.part.guest ≠ none)
    (hpow : modPowered m s = true) (hdown : (modGet m s).state = .down) (hrun : s.dev.state ≠ .haltedThermal)
    (hflanks : flanksStopped m s = false) : exec (.moduleLinkUp m x) s =
      if x.design != requiredDesign m x.from_ s
      then .next (fenceDesign m x.from_ (tellCaps m (modSet m { modGet m s with id := some (x.from_, x.design, x.stepping) } s)))
      else .next (linkUpWith m x (tellCaps m (modSet m { modGet m s with id := some (x.from_, x.design, x.stepping) } s))) := by
  have hg : ¬(moduleGroup m = 18 && s.part.guest.isNone) = true := by
    simp only [Bool.and_eq_true, decide_eq_true_eq, Option.isNone_iff_eq_none, not_and]
    exact hguest
  exact (if_neg (by omega)).trans ((if_neg hg).trans (if_neg (by simp [hpow, hdown, hrun, hflanks])))

/-- What a module's link-up is called on: its ID is known, and what it told the far end is out. -/
theorem tellCaps_id (m : Nat) (x : LinkUpInput) (s : State) : ∃ q v,
    tellCaps m (modSet m { modGet m s with id := some (x.from_, x.design, x.stepping) } s) = v ∧
      modGet m v = { modGet m s with id := some (x.from_, x.design, x.stepping), sbSeq := q } ∧ Keeps [.d2d, .out] s v := by
  obtain ⟨q, hq, hkeeps⟩ := tellCaps_module m (modSet m { modGet m s with id := some (x.from_, x.design, x.stepping) } s)
  rw [modGet_modSet_self] at hq
  exact ⟨q, _, rfl, hq, (modSet_keeps m _ rfl (Keeps.refl s)).trans hkeeps⟩

/-- A module's record without its state, its directions and the retrain in progress. -/
def moduleCore (x : Module) : Module := { x with state := .down, rx := {}, tx := {}, retrainTill := none }

theorem MaybeLost.core (h : MaybeLost m s t) : moduleCore (modGet m t) = moduleCore (modGet m s) := by
  rcases h with h | h
  · rw [h]
  · rw [h]
    rfl

theorem moduleCore_guestOut (m : Nat) (s : State) : moduleCore (modGet m (guestOut s)) = moduleCore (modGet m s) := by
  have hdown : ∀ (l : List Nat) (v : State),
      moduleCore (modGet m (l.foldl (fun t n => modSet n { modGet n t with state := .down } t) v)) = moduleCore (modGet m v) :=
    fun l v => List.foldlRecOn (motive := fun t => moduleCore (modGet m t) = moduleCore (modGet m v)) l _ rfl
      fun t ht n _ => by
        refine Eq.trans ?_ ht
        by_cases hn : m = n
        · subst hn
          rw [modGet_modSet_self]
          rfl
        · rw [modGet_modSet_ne hn]
  unfold guestOut
  split
  · rfl
  · extract_lets g p s1 s2 s3
    have h3 : moduleCore (modGet m s3) = moduleCore (modGet m s) := hdown _ s2
    rw [modGet_of_keeps (releaseLocks_keeps [4] (T := [.mbx, .db, .ports, .out, .locks]) rfl
      (mbxGuestResetEnd_keeps rfl (mbxGuestResetBegin_keeps rfl (Keeps.refl s3)))) (by decide), h3]

/-- The judgement of a module's group leaves what its ends agreed on. -/
theorem moduleCore_moduleChanged (m n : Nat) (s : State) :
    moduleCore (modGet m (moduleChanged n s)) = moduleCore (modGet m s) := by
  by_cases hn : moduleGroup n = 18
  · have hjudge : ∀ v, moduleCore (modGet m (judgeGroup 18 v)) = moduleCore (modGet m v) := fun v => by
      unfold judgeGroup
      dsimp only
      rw [if_neg (by decide), if_neg (by decide), if_neg (by decide), if_pos rfl]
      split
      · unfold fenceGuest
        split
        · rfl
        · rw [(maybeLost_faultUOpen m 0xC000 _).core, moduleCore_guestOut]
      · rfl
    unfold moduleChanged
    rw [(maybeLost_refreshDegraded m _).core, hn, hjudge, (maybeLost_restripe m 18 s).core]
  · exact (maybeLost_moduleChanged m hn s).core

/-- A module of the design required links up with what both ends can do. -/
theorem moduleLinkUp_links {x : LinkUpInput} (hm : m < 141) (hguest : moduleGroup m = 18 → s.part.guest ≠ none)
    (hpow : modPowered m s = true) (hdown : (modGet m s).state = .down) (hrun : s.dev.state ≠ .haltedThermal)
    (hflanks : flanksStopped m s = false) (hdesign : x.design = requiredDesign m x.from_ s)
    (hfull : bitOf (capField x.caps 2 0 0) 0 = true) (hdepth : 16 ≤ capField x.caps 3 15 8) (hgood : x.goodWires = [])
    (hbad : x.badWires = []) (hrx : (modGet m s).rx.repair.length ≤ 38) (htx : (modGet m s).tx.repair.length ≤ 38) :
    ∃ t, exec (.moduleLinkUp m x) s = .next t ∧ (modGet m t).depth = min 128 (capField x.caps 3 15 8) ∧
      (modGet m t).id = some (x.from_, x.design, x.stepping) ∧ (modGet m t).tags = min 256 (capField x.caps 6 8 0) ∧
      (modGet m t).recalAt = s.clock.now ∧ isFenced (0x6000 + m) 0 t = false ∧
      (128 ≤ m → (modGet m s).rx.noRecord = false → (modGet m s).tx.noRecord = false → (modGet m t).state = .active) := by
  obtain ⟨q, v, hv, hget, hkeeps⟩ := tellCaps_id m x s
  have hexec := exec_moduleLinkUp (x := x) hm hguest hpow hdown hrun hflanks
  rw [if_neg (by simp [hdesign]), hv] at hexec
  obtain ⟨z, u, hlink, hactive, hdep, htags, hrecal, hid, hzrx, hztx⟩ := linkUpWith_links (m := m) (s := v) hfull hdepth hgood
    hbad (by rw [hget]; exact hrx) (by rw [hget]; exact htx)
  rw [hget] at hid hzrx hztx
  rw [hlink] at hexec
  generalize hw : fenceDrop (modSource m) 0 (modSet m z u) = w at hexec
  have hwget : modGet m w = z := by
    rw [← hw]
    exact modGet_modSet_self m z u
  have hfenced : isFenced (0x6000 + m) 0 w = false := by
    rw [← hw]
    exact isFenced_fenceDrop _ _ _
  have hclock : v.clock = s.clock := hkeeps.same .clock (by decide)
  have hcore : moduleCore (modGet m (moduleChanged m w)) = moduleCore z := (moduleCore_moduleChanged m m w).trans (by rw [hwget])
  refine ⟨_, hexec, (congrArg Module.depth hcore :).trans hdep, (congrArg Module.id hcore :).trans hid,
    (congrArg Module.tags hcore :).trans htags, ((congrArg Module.recalAt hcore :).trans hrecal).trans (by rw [hclock]),
    (modulesFencedAs_moduleChanged m w m hm).trans hfenced, fun hge hrec htrec => ?_⟩
  rw [modGet_moduleChanged_enough hge hm (by rw [hwget, hactive]) (by rw [hwget, hzrx]; exact hrec)
    (by rw [hwget, hztx]; exact htrec), hwget, hactive]

/-- A seam module whose far end reports another design than required fences the flank that reports it. -/
theorem moduleLinkUp_fences {x : LinkUpInput} (hg : moduleGroup m < 8) (hm : m < 141) (hdown : (modGet m s).state = .down)
    (hrun : s.dev.state ≠ .haltedThermal) (hflanks : flanksStopped m s = false) (hdesign : x.design ≠ requiredDesign m x.from_ s)
    (hin : flankPhase x.from_ s = .inService) : ∃ t, exec (.moduleLinkUp m x) s = .next t ∧ flankPhase x.from_ t = .fenced ∧
      s.faults.entered < t.faults.entered := by
  obtain ⟨q, v, hv, hget, hkeeps⟩ := tellCaps_id m x s
  have hpow : modPowered m s = true := by
    unfold modPowered
    rw [Bool.or_eq_true, bne_iff_ne]
    exact .inl (by omega)
  have hexec := exec_moduleLinkUp (x := x) hm (by omega) hpow hdown hrun hflanks
  rw [if_pos (by simp [hdesign]), hv] at hexec
  have hphase : flankPhase x.from_ v = .inService := (flankPhase_congr (hkeeps.same .dev (by decide)) x.from_).trans hin
  have hfence : fenceDesign m x.from_ v =
      flankOut x.from_ .fenced (faultU (flankSource x.from_) (positionOf m x.from_) v) :=
    (if_pos hg).trans (if_neg (by rw [hphase]; decide))
  rw [hfence] at hexec
  refine ⟨_, hexec, flankPhase_flankOut_self _ _ _, ?_⟩
  have hgrow := (flankOut_grows x.from_ .fenced (Grows.refl (faultU (flankSource x.from_) (positionOf m x.from_) v))).entered
  have hentered : (faultU (flankSource x.from_) (positionOf m x.from_) v).faults.entered = v.faults.entered + 1 :=
    report_entered _ v
  have hsame : v.faults = s.faults := hkeeps.same .faults (by decide)
  rw [hentered, hsame] at hgrow
  exact hgrow

/-! ## Retrain and clocks -/

/-- Whether the directions of a module have their calibration records. -/
def recordsOf (x : Module) : Bool × Bool := (x.rx.noRecord, x.tx.noRecord)

theorem recordsOf_setDir {x : Module} {y : D2dDir} (h : y.noRecord = (x.dir d).noRecord) :
    recordsOf (x.setDir d y) = recordsOf x := by
  unfold Module.setDir Module.dir at *
  split at h
  · simp [recordsOf, ‹d = 0›, h]
  · simp [recordsOf, ‹¬d = 0›, h]

theorem recordsOf_putDir {v : State} {z : D2dDir} (hv : modGet m v = modGet m s) (h : z.noRecord = (dirGet m d s).noRecord) :
    recordsOf (modGet m (putDir m d z v)) = recordsOf (modGet m s) := by
  rw [modGet_putDir, hv]
  exact recordsOf_setDir h

theorem recordsOf_retrainTrims (m d : Nat) (s : State) :
    recordsOf (modGet m (retrainTrims m d s)) = recordsOf (modGet m s) :=
  recordsOf_putDir (v := { s with free := s.free + 1 }) rfl rfl

/-- A module of the Col, the guest or the ports is in service after its retrain, its slots begun anew. -/
theorem moduleRetrain_back (hge : 128 ≤ m) (hm : m < 141) (hd : d < 2) (hstate : (modGet m s).state = .retrain)
    (hdue : ∀ x, (modGet m s).retrainTill = some x → x ≤ s.clock.now) (hready : retrainReady (modGet m s) = true)
    (hrx : (modGet m s).rx.repair.length ≤ 38) (htx : (modGet m s).tx.repair.length ≤ 38)
    (hrrec : (modGet m s).rx.noRecord = false) (htrec : (modGet m s).tx.noRecord = false) :
    ∃ t, exec (.moduleRetrain m d []) s = .next t ∧ (modGet m t).state = .active ∧ (modGet m t).retrainTill = none ∧
      (modGet m t).recalAt = s.clock.now ∧ (dirGet m d t).slot = 0 ∧ (dirGet m d t).expect = 0 := by
  have hexec : exec (.moduleRetrain m d []) s = .next (moduleRetrained m d [] s) := by
    refine if_neg ?_
    rw [hstate, hready]
    cases htill : (modGet m s).retrainTill with
    | none =>
      dsimp only
      simp
      omega
    | some x =>
      have hx := hdue x htill
      dsimp only
      simp
      omega
  refine ⟨_, hexec, ?_⟩
  unfold moduleRetrained
  extract_lets y new s1 s2 s3 x
  have h2 : s2 = s1 := rfl
  have hsuspect : dirGet m d s1 = { y with suspect := [] } := dirGet_putDir_self m d _ s
  have hfew : tooFewWires m d s2 = false := by
    rw [h2, tooFewWires, hsuspect, decide_eq_false_iff_not]
    have hlen : (dirGet m d s).repair.length ≤ 38 := by
      unfold dirGet Module.dir
      split
      · exact hrx
      · exact htx
    exact Nat.not_lt.mpr hlen
  have hrecs : recordsOf x = (false, false) := by
    refine (recordsOf_retrainTrims m 1 _).trans ((recordsOf_retrainTrims m 0 s2).trans ?_)
    have h1 : recordsOf (modGet m s1) = recordsOf (modGet m s) := recordsOf_putDir (s := s) (v := s) rfl (by rfl)
    rw [h2, h1, recordsOf, hrrec, htrec]
  rw [if_neg (by rw [hfew]; exact Bool.false_ne_true)]
  generalize hz : ({ x with
    state := .active, retrainTill := none, recalAt := s.clock.now, urgent := false
    rx := restartDir x.rx, tx := restartDir x.tx } : Module) = z
  have hget : modGet m (modSet m z s3) = z := modGet_modSet_self m z s3
  have hlast := modGet_moduleChanged_enough (s := modSet m z s3) hge hm (by rw [hget, ← hz])
    (by rw [hget, ← hz]; exact congrArg Prod.fst hrecs) (by rw [hget, ← hz]; exact congrArg Prod.snd hrecs)
  rw [dirGet, hlast, hget, ← hz]
  refine ⟨rfl, rfl, rfl, ?_⟩
  unfold Module.dir
  split
  · exact ⟨rfl, rfl⟩
  · exact ⟨rfl, rfl⟩

theorem exec_recalibrationTimer (hm : m < 141) (hstate : (modGet m s).state = .active)
    (hdue : (modGet m s).recalAt + 1000000000 ≤ s.clock.now) (hrun : s.dev.state ≠ .haltedThermal) :
    exec (.recalibrationTimer m) s =
      if (modGet m s).recalAt + 4000000000 ≤ s.clock.now then
        .next (if s.cairn.frozen
          then (if (modGet m s).urgent then s else promote 2 (modSet m { modGet m s with urgent := true } s))
          else callRetrain m (if (modGet m s).urgent then s else promote 2 (modSet m { modGet m s with urgent := true } s)))
      else if retrainShort m s then .next s else .next (callRetrain m s) :=
  if_neg (by simp [hstate, hrun]; omega)

/-- A module whose clock is lost is out of service, its retry state gone, whatever goes out with it. -/
theorem clockLost_loses (hm : m < 141) (hg : moduleGroup m ≠ 18) (hstate : (modGet m s).state = .active) :
    ∃ t, exec (.clockLost m) s = .next t ∧ (modGet m t).state = .clockLost ∧ (modGet m t).rx.retry = [] ∧
      (modGet m t).tx.retry = [] := by
  have hlost : moduleClockLost m s = modSet m (lostModule (modGet m s)) s := if_neg (by simp [hstate])
  have hget : modGet m (moduleClockLost m s) = lostModule (modGet m s) := by rw [hlost, modGet_modSet_self]
  have hexec : ∃ t, exec (.clockLost m) s = .next t ∧ MaybeLost m (moduleClockLost m s) t := by
    change ∃ t, execClockLost m s = .next t ∧ _
    unfold execClockLost
    dsimp only
    rw [if_neg (by simp [hstate]; omega)]
    generalize moduleClockLost m s = v
    split
    · exact ⟨_, rfl, maybeLost_flankOut m _ .lost v⟩
    · rw [if_neg (by simp [hg])]
      exact ⟨_, rfl, (maybeLost_faultU m _ _ v).trans (maybeLost_moduleChanged m hg _)⟩
  obtain ⟨t, hexec, h⟩ := hexec
  refine ⟨t, hexec, ?_⟩
  rcases h with h | h <;> rw [h, hget] <;> exact ⟨rfl, rfl, rfl⟩

/-! ## Weights and empty slots -/

/-- At the named flit count, a group takes the weights its modules should have. -/
theorem weightChange_takes (hat : tget none s.d2d.changeAt g = some n) (hdue : n ≤ tget 0 s.d2d.flits g) :
    ∃ t, exec (.weightChange g) s = .next t ∧ t.d2d.changeAt = tset none s.d2d.changeAt g none ∧
      (∀ m ∈ groupModules g, wantedWeight m s ≠ 0 → tget 0 t.d2d.weight m = wantedWeight m s) ∧ OnlyChanges [.d2d] s t := by
  generalize hu : ({ s with d2d := { s.d2d with changeAt := tset none s.d2d.changeAt g none } } : State) = u
  have hexec : exec (.weightChange g) s = .next (setWeights g u) := by
    change execWeightChange g s = _
    unfold execWeightChange
    rw [hat, ← hu]
    exact if_neg (by omega)
  have hkeeps : Keeps [.d2d] s u := by
    rw [← hu]
    exact keeps_setD2d rfl (Keeps.refl s) _
  obtain ⟨-, hchange, hweight⟩ := weigh_all (groupModules g) u
  refine ⟨_, hexec, ?_, fun m hm _ => ?_, (setWeights_keeps g rfl hkeeps).frame⟩
  · rw [setWeights_eq, hchange, ← hu]
  · rw [setWeights_eq, hweight, if_pos hm, wantedWeight_congr (s := s) (by rw [← hu])]

/-- A correction that has waited 1 µs goes in with an empty slot. -/
theorem emptySlotInsert_inserts {t0 : Nat} (hm : m < 141) (hd : d < 2) (hstate : (modGet m s).state = .active)
    (hdue : (dirGet m d s).emptyDue = some t0) (hat : t0 + 1000 ≤ s.clock.now) :
    ∃ t, exec (.emptySlotInsert m d) s = .next t ∧ t.out = s.out ++ [.slot m d true] ∧ (dirGet m d t).emptyDue = none ∧
      OnlyChanges [.d2d, .out] s t := by
  have hpass : emptyPasses m { dirGet m d s with slot := (dirGet m d s).slot + 1 } s =
      { dirGet m d s with slot := (dirGet m d s).slot + 1, emptyDue := none, sampling := (moduleBand m s, none) } :=
    if_pos (by simp [hdue])
  have hexec : exec (.emptySlotInsert m d) s = .next (emit (.slot m d true) (putDir m d
      (emptyPasses m { dirGet m d s with slot := (dirGet m d s).slot + 1 } s) s)) := by
    change execEmptySlotInsert m d s = _
    unfold execEmptySlotInsert
    dsimp only
    rw [hdue]
    exact if_neg (by simp [hstate]; omega)
  rw [hpass] at hexec
  refine ⟨_, hexec, rfl, ?_, (emit_keeps _ rfl (putDir_keeps m d _ rfl (Keeps.refl s))).frame⟩
  exact congrArg D2dDir.emptyDue (dirGet_putDir_self m d _ s)

end

/-- Settles O50: each row of a module writes its own record, and what its group then does leaves that. -/
theorem verweustModules : Obligations.VerweustModules := by
  refine ⟨fun m d x y s hm hd hstate hy hrec hpoison hcrc hv hk hnak hleft hroom hseq => ?_,
    fun m d x s hm hd hstate hrec hpoison hcrc => ?_,
    fun m d w s hm hd hstate hcrc hnak hheld hlen hw => d2dAckWord_frees hm hd hstate hcrc hnak hheld hlen hw,
    fun m d s hm hd hstate hheld hdue hfew => d2dRetryTimer_replays hm hd hstate hheld hdue hfew,
    fun m w s hm hpow hstate hcrc htype => ?_, fun m w s hm hpow hcrc htype => ?_,
    fun m seq w s hm hw hdue hfew => sidebandRetryTimer_repeats hm hw hdue hfew,
    fun m seq w s hm hw hdue hmany => sidebandRetryTimer_fences hm hw hdue hmany,
    fun m x s hm hguest hpow hdown hrun hflanks hdesign hfull hdepth hgood hbad hrx htx =>
      moduleLinkUp_links hm hguest hpow hdown hrun hflanks hdesign hfull hdepth hgood hbad hrx htx,
    fun m x s hg hm hdown hrun hflanks hdesign hin => moduleLinkUp_fences hg hm hdown hrun hflanks hdesign hin,
    fun m x s hm hg herror => ?_,
    fun m d s hge hm hd hstate hdue hready hrx htx hrrec htrec =>
      moduleRetrain_back hge hm hd hstate hdue hready hrx htx hrrec htrec,
    fun m s hm hstate hdue hearly hshort hrun => ?_, fun m s hm hstate hdue hrun hfrozen => ?_,
    fun m s hm hg hstate => clockLost_loses hm hg hstate, fun g n s hat hdue => weightChange_takes hat hdue,
    fun m d t0 s hm hd hstate hdue hat => emptySlotInsert_inserts hm hd hstate hdue hat⟩
  · have hkeeps := ackBegins_keeps m d (T := [.out]) rfl (Keeps.refl s)
    have hclock : (ackBegins m d s).clock = s.clock := hkeeps.same .clock (by decide)
    have hmod := modGet_of_keeps hkeeps (by decide) m
    have hdir := dirGet_of_keeps hkeeps (by decide) m d
    have htaken := slotTaken_good (s := ackBegins m d s) (m := m) (d := d) (x := x) (by rw [hmod, hstate]) (hdir.trans hy)
      (by rw [hkeeps.same .faults (by decide), hpoison]) hcrc hv hk hnak hleft
      (by rw [retryRoom, hdir, hmod]; exact hroom) hseq
    rw [hclock] at htaken
    refine ⟨_, (exec_d2dSlotReceive hm hd hstate (by rw [hy, hrec])).trans (congrArg Host.Outcome.next htaken),
      dirGet_putDir_self m d _ _, (groupFlit_keeps m rfl (putDir_keeps m d _ rfl (hkeeps.weaken (by decide)))).frame⟩
  · have hkeeps := ackBegins_keeps m d (T := [.out]) rfl (Keeps.refl s)
    obtain ⟨z, htaken, hnak, hexpect⟩ := slotTaken_bad (s := ackBegins m d s) (m := m) (d := d) (x := x)
      (by rw [hkeeps.same .faults (by decide), hpoison]) hcrc
    rw [dirGet_of_keeps hkeeps (by decide)] at hexpect
    refine ⟨_, (exec_d2dSlotReceive hm hd hstate hrec).trans (congrArg Host.Outcome.next htaken), ?_, ?_,
      (putDir_keeps m d _ rfl (hkeeps.weaken (by decide))).frame⟩
    · rw [dirGet_putDir_self, hnak]
    · rw [dirGet_putDir_self, hexpect]
  · obtain ⟨t, a, hstart, hretrain, htill, hout, hkeeps⟩ := startRetrain_sbSend hstate 0 (bitsOf w.toNat 55 48) 0
    refine ⟨t, a, ?_, hretrain, htill, hout, hkeeps.frame⟩
    rw [exec_sidebandMessage hm hpow hcrc, htype, ← hstart]
    rfl
  · rw [exec_sidebandMessage hm hpow hcrc, if_pos htype]
  · have hstopped : flanksStopped m s = true := by
      rcases herror with h | h <;> simp [flanksStopped, hg, h]
    exact (if_neg (by omega)).trans ((if_neg (by simp; omega)).trans (if_pos (by simp [hstopped])))
  · obtain ⟨t, a, hstart, hretrain, htill, hout, hkeeps⟩ := startRetrain_sbSend hstate 0x06 0 0
    refine ⟨t, ?_, hretrain, htill, hkeeps.frame⟩
    rw [exec_recalibrationTimer hm hstate hdue hrun, if_neg (by omega), if_neg (by rw [hshort]; exact Bool.false_ne_true),
      callRetrain, if_pos hstate, hstart]
  · refine ⟨_, (exec_recalibrationTimer hm hstate (by omega) hrun).trans (if_pos hdue), ?_⟩
    rw [if_pos hfrozen]
    split
    · exact ⟨‹_›, hstate⟩
    · have hget : modGet m (promote 2 (modSet m { modGet m s with urgent := true } s)) = { modGet m s with urgent := true } :=
        modGet_modSet_self m _ s
      rw [hget]
      exact ⟨rfl, hstate⟩

end Sys2Proof.Machine

/-!
PROOFS. A flank that comes back from a hard reset may be fenced as its modules come up: with too few healthy wires its Col
group carries too little (R380, R394, R496).
-/

namespace Sys2Proof.Machine

/-- The South flank in its hard reset. Three modules of its Col group have gone out of service, and the fourth has 39 wires on
its repair map, more than half width can spare. -/
def wornSouth : State :=
  { State.reset with
    dev := { State.reset.dev with south := .hardReset }
    d2d := { State.reset.d2d with
      modu := [(132, { rx := { repair := List.range 39 } }), (133, { state := .out }), (134, { state := .out }),
        (135, { state := .out })] } }

/-- The phase of the South flank after a step. -/
def southAfter : Step → Option FlankPhase
  | .next t => some (flankPhase .south t)
  | _ => none

theorem wornSouth_designs : ∀ m ∈ flankModules .south, wrongDesign m (modGet m wornSouth).id wornSouth = false := by
  decide +kernel

/-- As its last Col module stays out, the group carries nothing, and the flank is fenced. -/
theorem wornSouth_fenced : southAfter (exec (.flankHardReset .south) wornSouth) = some .fenced := by decide +kernel

/-- Refutes O53: a flank at the end of its hard reset whose modules may not come up is fenced and not in service (R394). -/
theorem not_resetsAndLosses : ¬ Obligations.ResetsAndLosses := by
  rintro ⟨-, -, -, -, -, -, hback, -⟩
  obtain ⟨t, hexec, hphase⟩ := hback .south wornSouth (by decide) rfl rfl wornSouth_designs
  have hfenced := wornSouth_fenced
  rw [hexec, southAfter, hphase] at hfenced
  exact absurd hfenced (by decide)

end Sys2Proof.Machine

/-!
PROOFS. The agreement check of bring-up: a reading below 0 °C of a sensor that is excluded stops nothing (R441, R502).
-/

namespace Sys2Proof.Machine

/-- A part that is not X-grade at the agreement check, with sensor 700 excluded before. -/
def excludedSensor : State :=
  { State.reset with
    boot := { State.reset.boot with step := 4, running := some 0 }
    therm := { State.reset.therm with sensor := [(700, { excluded := true })] } }

/-- The bring-up step after a step of the machine. -/
def bootStepAfter : Step → Option Nat
  | .next t => some t.boot.step
  | _ => none

/-- The excluded sensor's reading of −1/16 °C is disregarded, and bring-up goes on. -/
theorem excludedSensor_goesOn : bootStepAfter (exec (.agreementCheck [(700, -1)]) excludedSensor) = some 5 := by decide

/-- Refutes O55: a reading below 0 °C of a sensor that is excluded does not stop the bring-up of a D-grade part (R441). -/
theorem not_bringUp : ¬ Obligations.BringUp := by
  rintro ⟨-, -, -, -, hcold, -⟩
  obtain ⟨t, hexec, hstep, -⟩ := hcold [(700, -1)] (700, -1) excludedSensor (by decide) rfl (List.mem_singleton.mpr rfl)
    (by decide) (by decide)
  have hgoes := excludedSensor_goesOn
  rw [hexec, bootStepAfter, hstep] at hgoes
  exact absurd hgoes (by decide)

end Sys2Proof.Machine

/-!
PROOFS. Security events outside commands: the identity key's trees, the debug interface and a staged image (R480,
R483, R487, R488).
-/

namespace Sys2Proof.Machine

/-! ## What a security event leaves (R489) -/

theorem securityEvent_boot (reason : Nat) (s : State) : (securityEvent reason s).boot = s.boot :=
  (ringBit_keeps 30 (T := [.faults, .db, .ports, .cmds, .cairn, .out]) rfl
    (faultC_keepsMinor 0xE003 reason rfl (Keeps.refl s))).same .boot (by decide)

theorem ringBit_faults (i : Nat) (s : State) : (ringBit i s).faults = s.faults :=
  (ringBit_keeps i (T := [.db, .ports, .out]) rfl (Keeps.refl s)).same .faults (by decide)

/-- A security event is a class C fault of the security unit. -/
theorem faulted_securityEvent (reason : Nat) {s0 s : State} (h : s.faults = s0.faults) :
    Faulted 0xE003 .c s0 (securityEvent reason s) :=
  (faulted_report 0xE003 .c (BitVec.ofNat 64 reason) none false s).congr h.symm
    (ringBit_faults 30 (faultC 0xE003 reason s))

/-! ## Debug tokens (R488) -/

section
variable {x : DebugToken} {s : State}

theorem not_tokensClosed (hfew : s.sec.refused < 8) (hcol : s.boot.colHeld = false) :
    ¬ ((decide (8 ≤ s.sec.refused) || s.boot.colHeld) = true) := by
  simp [hcol, hfew]

theorem dbgToken_accepted (hfew : s.sec.refused < 8) (hcol : s.boot.colHeld = false) (hok : tokenOk x s = true) :
    exec (.dbgToken x) s = .next
      (securityEvent 5 { s with sec := { s.sec with unlocked := s.sec.unlocked ||| x.scope, debug := true } }) :=
  (if_neg (not_tokensClosed hfew hcol)).trans (if_pos hok)

theorem dbgToken_refused (hfew : s.sec.refused < 8) (hcol : s.boot.colHeld = false) (hok : tokenOk x s = false) :
    exec (.dbgToken x) s = .next
      (drawChallenge (securityEvent 6 { s with sec := { s.sec with refused := s.sec.refused + 1 } })) :=
  (if_neg (not_tokensClosed hfew hcol)).trans (if_neg (by rw [hok]; decide))

theorem tokenOk_of_bad (hbad : x.challenge ≠ s.sec.challenge ∨ x.serial ≠ s.part.serial ∨ x.sigOk = false) :
    tokenOk x s = false := by
  unfold tokenOk
  rcases hbad with h | h | h <;> simp [h]

end

/-- A drawn challenge changes nothing of the security record but the challenge. -/
theorem drawChallenge_sec (s : State) : ∃ c, (drawChallenge s).sec = { s.sec with challenge := c } := ⟨_, rfl⟩

theorem faulted_drawChallenge {src : Nat} {cls : FClass} {s t : State} (h : Faulted src cls s t) :
    Faulted src cls s (drawChallenge t) := h.congr rfl rfl

/-! ## Boundary scan (R487) -/

/-- What a standard instruction leaves, before the sender's cells are shifted in. -/
def jtagRun (i : JtagInstr) (s : State) : State :=
  emit (.jtag (jtagNum i) (jtagOut i s)) { s with sec := { s.sec with jtag := i } }

theorem exec_boundaryScan (i : JtagInstr) (pins : BitVec 32) (s : State) : exec (.boundaryScan i pins) s =
    if boundary i then
      .next { jtagRun i s with sec := { (jtagRun i s).sec with scan := pins }, free := (jtagRun i s).free + 1 }
    else .next (jtagRun i s) := rfl

theorem boundaryScan_onlyChanges {i : JtagInstr} {pins : BitVec 32} {s t : State}
    (ht : exec (.boundaryScan i pins) s = .next t) : OnlyChanges [.sec, .out, .free] s t := by
  obtain ⟨u, hu, -, honly⟩ := everyRowAnswersAndKeepsItsFrame (.boundaryScan i pins) s
  cases ht.symm.trans hu
  exact honly

theorem boundaryScan_runs (i : JtagInstr) (pins : BitVec 32) (s : State) : ∃ t b, exec (.boundaryScan i pins) s = .next t ∧
    t.sec.jtag = i ∧ t.out = s.out ++ [.jtag (jtagNum i) b] ∧ t.sec.scan = (if boundary i then pins else s.sec.scan) ∧
    OnlyChanges [.sec, .out, .free] s t := by
  have hexec := exec_boundaryScan i pins s
  by_cases hb : boundary i = true
  · rw [if_pos hb] at hexec ⊢
    exact ⟨_, jtagOut i s, hexec, rfl, rfl, rfl, boundaryScan_onlyChanges hexec⟩
  · rw [if_neg hb] at hexec ⊢
    exact ⟨_, jtagOut i s, hexec, rfl, rfl, rfl, boundaryScan_onlyChanges hexec⟩

/-! ## A staged image (R480) -/

theorem completed_finish_of_grows (a : Accepted) (r : Res) {s e : State} (h : Grows s e) :
    Completed a.desc.opcode a.desc r.st s (finish a r e) := by
  refine ⟨{ completionOf a r e with dseq := e.cmds.made + 1 }, ?_, rfl, rfl, rfl, rfl⟩
  rw [finish_held, List.drop_append_of_le_length h.held.length_le]
  simp

theorem finish_boot (a : Accepted) (r : Res) (s : State) : (finish a r s).boot = s.boot :=
  (finish_quiet a r s).same .boot (by decide)

/-- An image staged for a working slot: the boot record of the next boot, an event and a completion. -/
theorem fwStaged_working {slot : Nat} {x : SlotCheck} {a : Accepted} {s : State} (hup : s.boot.update = some (slot, x, a))
    (hrun : fwRuns s = true) (hfree : s.cairn.frozen = false) (hslot : slot ≠ 2) : exec .fwStaged s =
      .next (finish a { detail := BitVec.ofNat 32 slot } (securityEvent 0xA { s with boot := staged slot x s.boot })) := by
  change execFwStaged s = _
  unfold execFwStaged
  rw [hup]
  dsimp only
  rw [hrun, hfree, if_neg (by decide), if_neg hslot, if_neg hslot]

theorem staged_working {slot : Nat} (hslot : slot ≠ 2) (x : SlotCheck) (b : Boot) : staged slot x b =
    { b with update := none, slotFailed := setErase slot b.slotFailed, selector := slot = 1, nextHash := x.hash } :=
  if_neg hslot

theorem not_mem_setErase (n : Nat) (l : List Nat) : n ∉ setErase n l := by simp [setErase]

/-- Settles O56: each event is one branch of its row, and a security event keeps the records it is raised over. -/
theorem securityEvents : Obligations.SecurityEvents := by
  refine ⟨fun s htrees hfew hcol => ?_, fun s => rfl, fun x s hfew hcol hver hkind hser hch hsig hown => ?_,
    fun x s hfew hcol hbad => ?_, fun i pins s => ?_, fun slot x a s hup hrun hfree hslot => ?_⟩
  · exact if_pos (by simp [htrees, hfew, hcol])
  · have hok : tokenOk x s = true := by
      unfold tokenOk
      rcases hown with h | h <;> simp [hver, hkind, hser, hch, hsig, h]
    have hsec := securityEvent_sec 5 { s with sec := { s.sec with unlocked := s.sec.unlocked ||| x.scope, debug := true } }
    exact ⟨_, dbgToken_accepted hfew hcol hok, (congrArg Sec.unlocked hsec :), (congrArg Sec.debug hsec :),
      (congrArg Sec.refused hsec :), faulted_securityEvent 5 rfl⟩
  · have hsec := securityEvent_sec 6 { s with sec := { s.sec with refused := s.sec.refused + 1 } }
    obtain ⟨c, hdraw⟩ := drawChallenge_sec (securityEvent 6 { s with sec := { s.sec with refused := s.sec.refused + 1 } })
    rw [hsec] at hdraw
    exact ⟨_, dbgToken_refused hfew hcol (tokenOk_of_bad hbad), (congrArg Sec.unlocked hdraw :),
      (congrArg Sec.refused hdraw :), faulted_drawChallenge (faulted_securityEvent 6 rfl)⟩
  · exact boundaryScan_runs i pins s
  · have hboot := (finish_boot a { detail := BitVec.ofNat 32 slot }
      (securityEvent 0xA { s with boot := staged slot x s.boot })).trans (securityEvent_boot _ _)
    rw [staged_working hslot] at hboot
    refine ⟨_, fwStaged_working hup hrun hfree hslot, ?_⟩
    rw [staged_working hslot]
    refine ⟨(congrArg Boot.update hboot :), (congrArg Boot.selector hboot :), (congrArg Boot.nextHash hboot :), ?_,
      completed_finish_of_grows a _ (securityEvent_grows _ (grows_mk (Grows.refl s)))⟩
    rw [(congrArg Boot.slotFailed hboot :)]
    exact not_mem_setErase _ _

end Sys2Proof.Machine

/-!
PROOFS. Executions: their beginning and end, their peers and deadlines, PAUSE and ABORT, and lenders that do not
answer (R162, R165, R170, R268, R269).
-/

namespace Sys2Proof.Machine

/-! ## The slot of a handle -/

section
variable {h : BitVec 32} {i : Nat} {g : Graph} {s : State}

/-- What a slot holds after it is set and after what leaves graphs alone. -/
theorem slotGet_of_set {t : State} {g' : Graph} (ht : t.graphs = (slotSet i g' s).graphs) : slotGet i t = g' :=
  (slotGet_congr ht i).trans (slotGet_slotSet_self i g' s)

theorem slotGet_deriveDev_slotSet (i : Nat) (g : Graph) (s : State) : slotGet i (deriveDev (slotSet i g s)) = g :=
  slotGet_of_set (deriveDev_graphs _)

theorem deriveDev_slotSet_grows (i : Nat) (g : Graph) (s : State) : Grows s (deriveDev (slotSet i g s)) :=
  deriveDev_grows ((Grows.refl s).quiet (slotSet_keeps i g rfl (Keeps.refl s)))

/-! ## The beginning of an execution (R162, R268) -/

/-- A graph without RECV operators matches nothing at its start. -/
theorem matchRecv_noRecv {g : Graph} (hg : slotGet i s = g) (hrecv : recvOps g = []) :
    slotGet i (matchRecv i none s) = slotGet i s := by
  unfold matchRecv
  dsimp only
  split
  · rfl
  · next x hx =>
    rw [recvsOf, hg, hrecv, List.filter_nil, List.foldl_nil, List.foldl_nil, slotGet_slotSet_self, ← hg, ← hx]

/-- What the firmware readies for an execution before its RECVs are matched. -/
def readied (i : Nat) (g g' : Graph) (s : State) : State := deriveDev (programTables i g (autoReset g (slotSet i g' s)))

theorem slotGet_readied (i : Nat) (g g' : Graph) (s : State) : slotGet i (readied i g g' s) = g' :=
  slotGet_of_set ((deriveDev_graphs _).trans
    (graphs_of_keeps (programTables_keeps i g (T := [.counts, .fab]) rfl (autoReset_keeps g rfl (Keeps.refl _)))
      (by decide)))

theorem executionBegin_runs {x : Execution} {rest : List Execution} (hg : graphAt h s = some (i, g))
    (hrun : g.running = none) (hpend : g.pending = x :: rest) (hst : g.state = some .running) (hopen : x.peersOpen = [])
    (hbad : x.peersBad = []) (hact : fwActs s = true) (hheld : graphHeld h s = false) (hrecv : recvOps g = []) :
    ∃ t, exec (.executionBegin h) s = .next t ∧
      slotGet i t = { g with running := some { x with begun := true }, pending := rest } := by
  have hslot := slotGet_readied i g { g with running := some { x with begun := true }, pending := rest } s
  refine ⟨matchRecv i none (readied i g { g with running := some { x with begun := true }, pending := rest } s), ?_,
    (matchRecv_noRecv hslot hrecv).trans hslot⟩
  change execExecutionBegin h s = _
  unfold execExecutionBegin
  rw [hg]
  dsimp only
  rw [hrun, hpend]
  dsimp only
  rw [hst, hopen, hbad, hact, hheld, if_neg (by decide)]
  rfl

/-! ## The end of an execution (R148, R165, R260) -/

/-- With nothing in the flanks' queues the firmware only notes that it looked. -/
theorem fwReadDone_empty (hN : s.comp.doneN = []) (hS : s.comp.doneS = []) :
    ∃ c, fwReadDone .south (fwReadDone .north s) = { s with comp := c } := by
  unfold fwReadDone
  dsimp only
  rw [hN, List.foldl_nil, hS, List.foldl_nil]
  exact ⟨_, rfl⟩

/-- Without RECV operators the state has no say in whether the operators have finished. -/
theorem opsFinished_noRecv (hrecv : recvOps g = []) (x y : Execution) (hy : y.items = x.items ∧ y.work = x.work ∧ y.failed = x.failed)
    (s t : State) : opsFinished g y t = opsFinished g x s := by
  obtain ⟨hi, hw, hf⟩ := hy
  simp [opsFinished, opFinished, hrecv, hi, hw, hf]

/-- A bound address below 2^40 is poisoned in this package's memory. -/
theorem boundTaint_local {a n : Nat} (ha : a < 2 ^ 40) {s0 : State} (hk : Keeps [.bytes] s0 s) :
    Keeps [.bytes] s0 (boundTaint a n s) := by
  unfold boundTaint boundLoc
  rw [if_pos ha]
  exact Keeps.foldl hk fun t q ht => taintPiece_keeps _ _ rfl ht

theorem taintOutputs_local {x : Execution} (hx : ∀ b ∈ x.bindings, b.1 ∈ x.poisoned → b.2.1 < 2 ^ 40) (s : State) :
    Keeps [.bytes] s (taintOutputs x s) := by
  unfold taintOutputs
  generalize x.poisoned = p at hx ⊢
  have hfold : ∀ (l : List (Nat × Nat × Nat)) (t : State), (∀ b ∈ l, b.1 ∈ p → b.2.1 < 2 ^ 40) → Keeps [.bytes] s t →
      Keeps [.bytes] s (l.foldl (fun t b => if p.contains b.1 then boundTaint b.2.1 b.2.2 t else t) t) := by
    intro l
    induction l with
    | nil => exact fun t _ ht => ht
    | cons b l ih =>
      intro t hl ht
      refine ih _ (fun c hc => hl c (List.mem_cons_of_mem _ hc)) ?_
      dsimp only
      split
      · next hb => exact boundTaint_local (hl b List.mem_cons_self (by simpa using hb)) ht
      · exact ht
  exact hfold _ _ hx (Keeps.refl s)

theorem endStale_kept (hlost : (slotGet i s).lost = false) : endStale i s = s := by
  unfold endStale
  dsimp only
  rw [hlost, if_neg Bool.false_ne_true]

theorem afterRun_placed (hlost : g.lost = false) (hpend : g.pending = []) : afterRun g = .placed := by
  rw [afterRun, hlost, hpend, if_neg Bool.false_ne_true, if_pos rfl]

/-- The graph as the end of its last execution leaves it. -/
def endedGraph (g : Graph) : Graph := { g with running := none, state := some .placed }

theorem endStale_ended (hlost : g.lost = false) (s : State) :
    endStale i (slotSet i { g with running := none, state := some .placed } s) =
      slotSet i { g with running := none, state := some .placed } s :=
  endStale_kept ((congrArg Graph.lost (slotGet_slotSet_self i _ _) :).trans hlost)

/-- The machine once the slot of an ended execution is set. -/
def endedState (i : Nat) (g : Graph) (x : Execution) (s : State) : State :=
  deriveDev (slotSet i (endedGraph g) (taintOutputs x s))

theorem slotGet_endedState (i : Nat) (g : Graph) (x : Execution) (s : State) :
    slotGet i (endedState i g x s) = endedGraph g := slotGet_deriveDev_slotSet i _ _

theorem endedState_grows {x : Execution} (hx : ∀ b ∈ x.bindings, b.1 ∈ x.poisoned → b.2.1 < 2 ^ 40) :
    Grows s (endedState i g x s) :=
  ((Grows.refl s).quiet ((taintOutputs_local hx s).weaken rfl)).trans (deriveDev_slotSet_grows i _ _)

theorem endExecution_ok {x : Execution} (hlost : g.lost = false) (hpend : g.pending = []) (hfail : x.failed = [])
    (hpois : x.poisoned = []) : ∃ r, r.st = .ok ∧ endExecution i g x s = finish x.cmd r (endedState i g x s) := by
  unfold endExecution
  rw [afterRun_placed hlost hpend]
  dsimp only
  rw [endStale_ended hlost, hfail, hpois, if_pos (by simp)]
  exact ⟨_, rfl, rfl⟩

theorem endExecution_partial {x : Execution} (hlost : g.lost = false) (hpend : g.pending = []) (hfail : x.failed ≠ [])
    (hres : x.cmd.desc.resAddr = 0) : ∃ r, r.st = .partialDone ∧
      endExecution i g x s = finish x.cmd r (fwWrite 0 [] (endedState i g x s)) := by
  have hbad : ¬ ((x.failed = [] : Bool) && (x.poisoned = [] : Bool)) = true := by simp [hfail]
  unfold endExecution
  rw [afterRun_placed hlost hpend]
  dsimp only
  rw [endStale_ended hlost, if_neg hbad, if_pos hres, hres]
  exact ⟨_, rfl, rfl⟩

/-- An execution with its work done ends; without RECV operators nothing is taken up from its peers first. -/
theorem executionEnd_ends {x : Execution} (hg : graphAt h s = some (i, g)) (hrun : g.running = some x)
    (hst : g.state = some .running) (hbegun : x.begun = true) (hwork : x.work = []) (hrecv : recvOps g = [])
    (hops : opsFinished g x s = true) (hcoll : collWaits i g s = false) (hact : fwActs s = true) (hN : s.comp.doneN = [])
(hS : s.comp.doneS = []) : ∃ late u, Grows s u ∧
      exec (.executionEnd h) s = .next (endExecution i g { x with deadlinePassed := late } u) := by
  obtain ⟨c, hc⟩ := fwReadDone_empty hN hS
  suffices hexec : ∃ late, execExecutionEnd h s =
      .next (endExecution i g { x with deadlinePassed := late } (dropReceived g { s with comp := c })) by
    obtain ⟨late, hlate⟩ := hexec
    exact ⟨late, _, grows_mk (Grows.refl s), hlate⟩
  unfold execExecutionEnd
  rw [hact, if_pos rfl, hc]
  dsimp only
  rw [graphAt_congr (t := { s with comp := c }) (s := s) rfl, hg]
  dsimp only
  rw [hrun]
  dsimp only
  rw [opsFinished_noRecv hrecv x x ⟨rfl, rfl, rfl⟩ s, hops, show fwActs { s with comp := c } = true from hact,
    show collWaits i g { s with comp := c } = false from hcoll, hst, hbegun, hwork, if_neg (by decide), lateRecvs, hrecv,
    List.foldl_nil]
  exact ⟨_, rfl⟩

/-! ## Peers and deadlines (R162, R163) -/

theorem peerStartTimeout_ends {x : Execution} {peer : Nat} (hg : graphAt h s = some (i, g)) (hpend : g.pending = [x])
    (hopen : x.peersOpen.contains peer = true) (hwait : g.b.peerWaitMs = 0)
    (hdue : x.cmd.tAccept + 100000000 ≤ s.clock.now) (hact : fwActs s = true) :
    exec (.peerStartTimeout h peer) s = .next (endPending i x .timeout s) := by
  change execPeerStartTimeout h peer s = _
  unfold execPeerStartTimeout
  rw [hg]
  dsimp only
  rw [hpend, List.find?_cons_of_pos (by simp only [hopen, hwait, if_pos, Bool.true_and, decide_eq_true_eq]; omega)]
  exact if_pos hact

theorem endPending_last {x : Execution} (st : Status) (hpend : (slotGet i s).pending = [x]) : 
    (slotGet i (endPending i x st s)).pending = [] ∧ Completed x.cmd.desc.opcode x.cmd.desc st s (endPending i x st s) := by
  unfold endPending
  dsimp only
  refine ⟨?_, completed_finish_of_grows x.cmd _ (deriveDev_slotSet_grows i _ s)⟩
  rw [slotGet_congr (finish_graphs _ _ _), slotGet_deriveDev_slotSet]
  simp [hpend]

theorem deadlineExpiry_fires {x : Execution} (hg : graphAt h s = some (i, g)) (hrun : g.running = some x)
    (hdead : g.b.deadline ≠ 0) (hnot : x.deadlinePassed = false) (hdue : x.cmd.tAccept + g.b.deadline < s.clock.now)
    (hfw : fwRuns s = true) : exec (.deadlineExpiry h) s =
      .next (cairnFire 5 h (slotSet i { g with running := some { x with deadlinePassed := true } } s)) := by
  change execDeadlineExpiry h s = _
  unfold execDeadlineExpiry
  rw [hg]
  dsimp only
  rw [hrun]
  dsimp only
  rw [hnot, hfw, if_neg (by simp [hdead]; omega)]

theorem recvTimeout_taints {x : Execution} {op : Nat} (hg : graphAt h s = some (i, g)) (hrun : g.running = some x)
    (hop : op ∈ recvOps g) (hlate : recvLate g x s = true) (hwhole : recvWhole g x op s = false) :
    exec (.recvTimeout h op) s = .next (slotSet i { g with running := some (taintOp op g x) } s) := by
  change execRecvTimeout h op s = _
  unfold execRecvTimeout
  rw [hg]
  dsimp only
  rw [hrun]
  dsimp only
  rw [hlate, hwhole, List.contains_iff_mem.2 hop, if_neg (by decide)]

/-! ## PAUSE and ABORT (R269) -/

theorem pauseComplete_pauses {a : Accepted} (hg : graphAt h s = some (i, g)) (hst : g.state = some .running)
    (hend : g.ending = [(some a, false)]) (hall : targetAll a.desc = false) (hstill : graphStill h false s = true)
    (hact : fwActs s = true) : exec (.pauseComplete h) s = .next (finish a { graph := 4 }
      (deriveDev (slotSet i { g with state := some .paused, ending := [] } s))) := by
  change execPauseComplete h s = _
  unfold execPauseComplete
  rw [hg]
  dsimp only
  rw [hst, hend, hstill, hact, if_pos (by simp), pauseDone, hg]
  dsimp only
  rw [hend]
  simp [endingDone, hall]

/-- The commands of executions that end one after the other; each has its completion. -/
def endAborted (l : List Execution) (code : Nat) (s : State) : State :=
  l.foldl (fun t x => finish x.cmd { st := .aborted, warn := x.warn, graph := code } t) s

theorem endAborted_grows (l : List Execution) (code : Nat) {s0 : State} (hs : Grows s0 s) :
    Grows s0 (endAborted l code s) := Grows.foldl hs fun _ _ ht => finish_grows _ _ ht

theorem endAborted_graphs (l : List Execution) (code : Nat) (s : State) : (endAborted l code s).graphs = s.graphs := by
  induction l generalizing s with
  | nil => rfl
  | cons x l ih => exact (ih _).trans (finish_graphs _ _ _)

theorem completed_endAborted (x : Execution) (l : List Execution) (code : Nat) {s0 : State} (hs : Grows s0 s) :
    Completed x.cmd.desc.opcode x.cmd.desc .aborted s0 (endAborted (x :: l) code s) :=
  (completed_finish_of_grows x.cmd _ hs).of_prefix (endAborted_grows l code (Grows.refl _)).held

theorem abortComplete_aborts {a : Accepted} {x : Execution} (hg : graphAt h s = some (i, g)) (hrun : g.running = some x)
    (hlost : g.lost = false) (hend : g.ending = [(some a, true)]) (hall : targetAll a.desc = false)
    (hstill : graphStill h true s = true) (hact : fwActs s = true) : exec (.abortComplete h) s =
      .next (finish a { graph := 2 } (endAborted (x :: g.pending) 2 (deriveDev (slotSet i
        { g with running := none, pending := [], ending := [], state := some .placed } (dropItems h s))))) := by
  have hdrop : graphAt h (dropItems h s) = some (i, g) := (graphAt_congr
    (graphs_of_keeps (dropItems_keeps h (T := [.comp]) rfl (Keeps.refl s)) (by decide)) h).trans hg
  change execAbortComplete h s = _
  unfold execAbortComplete
  rw [hg]
  dsimp only
  rw [hend, hstill, hact, if_pos (by simp), abortDone, hdrop]
  dsimp only
  rw [hend, hrun, hlost]
  simp [endingDone, hall, endAborted, GraphState.code]

end

end Sys2Proof.Machine

/-!
PROOFS. A lender that has not answered is skipped: what waits for a lender afterwards was asked at that time (R170).
-/

namespace Sys2Proof.Machine

/-! ## The fits that wait, after what leaves graphs alone -/

/-- The areas that a load, a placement and their completion may touch beside the graphs. -/
def fitAreas : List Area :=
  [.dev, .faults, .db, .ports, .cmds, .bytes, .memCtl, .counts, .comp, .cairn, .links, .fab, .out, .free]

section
variable {s0 s : State}

theorem fwPeerWrites_keepsMinor (pkg a : Nat) (bs : List (Byte × Bool)) (h : Keeps fitAreas s0 s) :
    Keeps fitAreas s0 (fwPeerWrites pkg a bs s) :=
  Keeps.foldl h fun _ _ ht => sendReq_keepsMinor _ _ rfl ht

theorem writeLent_keepsMinor (l : List (Nat × Nat)) (bs : List Byte) (h : Keeps fitAreas s0 s) :
    Keeps fitAreas s0 (writeLent l bs s) := by
  induction l generalizing bs s with
  | nil => exact h
  | cons p l ih => exact ih _ (fwPeerWrites_keepsMinor _ _ _ h)

theorem spillData_keepsMinor (w : FitWait) (consts : List Byte) (e : Nat × Nat) (h : Keeps fitAreas s0 s) :
    Keeps fitAreas s0 (spillData w consts e s) := by
  unfold spillData
  split
  · exact h
  · dsimp only
    split
    · exact hostWrite_keeps _ _ rfl h
    · split
      · exact writeLent_keepsMinor _ _ h
      · exact h

/-- The fits that wait are those of another state. -/
def FitsKept (s t : State) : Prop := t.graphs.fits = s.graphs.fits

theorem FitsKept.keeps {t : State} (h : FitsKept s0 s) (hk : Keeps fitAreas s t) : FitsKept s0 t :=
  (congrArg Graphs.fits (graphs_of_keeps hk (by decide)) :).trans h

theorem FitsKept.slotSet (h : FitsKept s0 s) (i : Nat) (g : Graph) : FitsKept s0 (slotSet i g s) := h

theorem fitsKept_keepLoad (w : FitWait) (i : Nat) (x : Spill) (h : FitsKept s0 s) : FitsKept s0 (keepLoad w i x s) :=
  FitsKept.slotSet (h.keeps (zeroStates_keeps _ rfl (writeSpans_keeps _ _ rfl
    (Keeps.foldl (Keeps.refl s) fun _ _ ht => spillData_keepsMinor _ _ _ ht)))) _ _

theorem fitsKept_keepPlace (w : FitWait) (i : Nat) (x : Spill) (p : Plan) (kept : List Photonic) (h : FitsKept s0 s) :
    FitsKept s0 (keepPlace w i x p kept s) :=
  FitsKept.keeps (FitsKept.slotSet h i _) (writeSpans_keeps _ _ rfl (Keeps.refl _))

theorem fitsKept_returnLoans (l : List (Nat × Nat × Nat)) (h : FitsKept s0 s) : FitsKept s0 (returnLoans l s) :=
  h.keeps (returnLoans_keepsMinor l rfl (Keeps.refl s))

theorem fitsKept_finish (a : Accepted) (r : Res) (h : FitsKept s0 s) : FitsKept s0 (finish a r s) :=
  h.keeps ((finish_quiet a r s).weaken rfl)

theorem fitsKept_finishWith (a : Accepted) (r : Res) (bs : List Byte) (h : FitsKept s0 s) :
    FitsKept s0 (finishWith a r bs s) := h.keeps (finishWith_keeps a r bs rfl (Keeps.refl s))

theorem fitsKept_endLoad (a : Accepted) (r : Res) (f : Fit) (h : FitsKept s0 s) : FitsKept s0 (endLoad a r f s) :=
  h.keeps (endLoad_keeps a r f rfl (Keeps.refl s))

theorem fitsKept_deriveDev (h : FitsKept s0 s) : FitsKept s0 (deriveDev s) :=
  h.keeps (deriveDev_keeps rfl (Keeps.refl s))

end

/-! ## A fit taken up again -/

/-- What waits for a lender waited before or was asked at the present time. -/
def AskedNow (s t : State) : Prop :=
  ∀ y ∈ t.graphs.fits, y ∈ s.graphs.fits ∨ ∃ pkg n tag, y.asked = some (pkg, n, s.clock.now, tag)

section
variable {s t : State}

theorem FitsKept.asked (h : FitsKept s t) : AskedNow s t := fun _ hy => .inl (h ▸ hy)

theorem askedNow_askLender (w : FitWait) (n : Nat) (s : State) : AskedNow s (askLender w n s) := by
  unfold askLender
  split
  · exact FitsKept.asked rfl
  · next pkg mib rest _ =>
    intro y hy
    dsimp only at hy
    rw [graphs_of_keeps (sendSys_keepsMinor _ _ _ _ (T := fitAreas) rfl (Keeps.refl _)) (by decide)] at hy
    rcases List.mem_append.1 hy with hy | hy
    · exact .inl hy
    · exact .inr ⟨_, _, _, congrArg FitWait.asked (List.mem_singleton.1 hy)⟩

theorem askedNow_tryLoad (w : FitWait) (s : State) : AskedNow s (tryLoad w s) := by
  unfold tryLoad
  split
  · exact (fitsKept_returnLoans _ (fitsKept_finish _ _ rfl)).asked
  · split
    · exact askedNow_askLender w _ s
    · exact (fitsKept_returnLoans _ (fitsKept_endLoad _ _ _ rfl)).asked
    · dsimp only
      split
      · exact (fitsKept_returnLoans _ (fitsKept_endLoad _ _ _ rfl)).asked
      · exact (fitsKept_endLoad _ _ _ (fitsKept_deriveDev (fitsKept_keepLoad _ _ _ rfl))).asked

theorem askedNow_tryPlace (w : FitWait) (s : State) : AskedNow s (tryPlace w s) := by
  have hno : ∀ r bs, AskedNow s (returnLoans w.loans (finishWith w.cmd r bs s)) := fun r bs =>
    (fitsKept_returnLoans _ (fitsKept_finishWith _ _ _ rfl)).asked
  unfold tryPlace
  split
  · exact (fitsKept_returnLoans _ (fitsKept_finish _ _ rfl)).asked
  · next i g _ =>
    dsimp only
    split
    · exact (fitsKept_returnLoans _ (fitsKept_finish _ _ rfl)).asked
    · split
      · exact hno _ _
      · split
        · exact hno _ _
        · exact askedNow_askLender w _ s
      · split
        · exact hno _ _
        · exact (fitsKept_finishWith _ _ _
            (fitsKept_returnLoans _ (fitsKept_keepPlace _ _ _ _ _ (FitsKept.slotSet rfl i _)))).asked

theorem askedNow_resumeFit (w : FitWait) (s : State) : AskedNow s (resumeFit w s) := by
  unfold resumeFit
  split
  · exact askedNow_tryLoad w s
  · exact askedNow_tryPlace w s

theorem lenderTimeout_resumes {pkg bytes asked : Nat} {tag : BitVec 32} {w : FitWait} (hfits : s.graphs.fits = [w])
    (hask : w.asked = some (pkg, bytes, asked, tag)) (hdue : asked + 10000000 ≤ s.clock.now) (hact : fwActs s = true) :
    exec (.lenderTimeout pkg) s = .next (resumeFit { w with asked := none, refused := true } (dropFit w s)) := by
  change execLenderTimeout pkg s = _
  unfold execLenderTimeout
  rw [hfits, List.find?_cons_of_pos (by rw [hask]; simp [hdue])]
  exact if_pos hact

theorem lenderTimeout_skips {pkg bytes asked : Nat} {tag : BitVec 32} {w : FitWait} (hfits : s.graphs.fits = [w])
    (hask : w.asked = some (pkg, bytes, asked, tag)) (hdue : asked + 10000000 ≤ s.clock.now) (hact : fwActs s = true) :
    ∃ t, exec (.lenderTimeout pkg) s = .next t ∧ ∀ y ∈ t.graphs.fits, y.asked ≠ w.asked := by
  refine ⟨_, lenderTimeout_resumes hfits hask hdue hact, fun y hy => ?_⟩
  rcases askedNow_resumeFit _ _ y hy with hold | ⟨p, n, g, hy'⟩
  · simp [dropFit, hfits] at hold
  · rw [hy', hask]
    intro heq
    have hnow : s.clock.now = asked := by simpa using (congrArg (fun o => (o.map (·.2.2.1)).getD 0) heq)
    omega

end

/-- Settles O29: each row is one branch of its definition, and a slot set once is read back through what leaves the
graphs alone. -/
theorem executionRows : Obligations.ExecutionRows := by
  refine ⟨fun h i g x rest s hg hrun hpend hst hopen hbad hact hheld hrecv =>
      executionBegin_runs hg hrun hpend hst hopen hbad hact hheld hrecv,
    fun h i g x s hg hrun hst hpend hlost hbegun hwork hfail hpois hrecv hops hcoll hact hN hS => ?_,
    fun h i g x s hg hrun hst hpend hlost hbegun hwork hfail hres hrecv hops hcoll hact hbound hN hS => ?_,
    fun h i peer g x s hg hpend hopen hwait hdue hact => ?_, fun h i g x s hg hrun hdead hnot hdue hfw => ?_,
    fun h i op g x s hg hrun hop hlate hwhole => ?_, fun h i g a s hg hst hend hall hstill hact => ?_,
    fun h i g a x s hg hrun hlost hend hall hstill hact => ?_,
    fun pkg bytes asked tag w s hfits hask hdue hact => lenderTimeout_skips hfits hask hdue hact⟩
  · obtain ⟨late, u, hgrow, hexec⟩ := executionEnd_ends hg hrun hst hbegun hwork hrecv hops hcoll hact hN hS
    obtain ⟨r, hr, hend⟩ := endExecution_ok (i := i) (s := u) (x := { x with deadlinePassed := late }) hlost hpend hfail hpois
    have hlocal : ∀ b ∈ x.bindings, b.1 ∈ x.poisoned → b.2.1 < 2 ^ 40 := fun b _ hb => by simp [hpois] at hb
    have hslot := (slotGet_congr (finish_graphs x.cmd r (endedState i g { x with deadlinePassed := late } u)) i).trans
      (slotGet_endedState i g _ u)
    refine ⟨_, hexec, ?_⟩
    rw [hend, hslot]
    exact ⟨rfl, rfl, hr ▸ completed_finish_of_grows x.cmd r
      (hgrow.trans (endedState_grows (x := { x with deadlinePassed := late }) hlocal))⟩
  · obtain ⟨late, u, hgrow, hexec⟩ := executionEnd_ends hg hrun hst hbegun hwork hrecv hops hcoll hact hN hS
    obtain ⟨r, hr, hend⟩ :=
      endExecution_partial (i := i) (s := u) (x := { x with deadlinePassed := late }) hlost hpend hfail hres
    have hwrite := fwWrite_keeps 0 [] (T := [.ports, .bytes, .memCtl, .counts, .out]) rfl
      (Keeps.refl (endedState i g { x with deadlinePassed := late } u))
    have hslot := (slotGet_congr ((finish_graphs x.cmd r _).trans (graphs_of_keeps hwrite (by decide))) i).trans
      (slotGet_endedState i g _ u)
    refine ⟨_, hexec, ?_⟩
    rw [hend, hslot]
    exact ⟨rfl, hr ▸ completed_finish_of_grows x.cmd r
      ((hgrow.trans (endedState_grows (x := { x with deadlinePassed := late }) hbound)).quiet (hwrite.weaken rfl))⟩
  · obtain ⟨-, rfl⟩ := graphAt_eq_some hg
    exact ⟨_, peerStartTimeout_ends hg hpend hopen hwait hdue hact, endPending_last .timeout hpend⟩
  · have hfire := cairnFire_keeps 5 h (T := [.graphs, .cairn]) rfl (slotSet_keeps i
      { g with running := some { x with deadlinePassed := true } } rfl (Keeps.refl s))
    refine ⟨_, deadlineExpiry_fires hg hrun hdead hnot hdue hfw, ?_, hfire.frame⟩
    exact slotGet_of_set (graphs_of_keeps (cairnFire_keeps 5 h (T := [.cairn]) rfl (Keeps.refl _)) (by decide))
  · exact ⟨_, recvTimeout_taints hg hrun hop hlate hwhole, slotGet_slotSet_self _ _ _,
      (slotSet_keeps _ _ rfl (Keeps.refl s)).frame⟩
  · exact ⟨_, pauseComplete_pauses hg hst hend hall hstill hact,
      (slotGet_congr (finish_graphs _ _ _) i).trans (slotGet_deriveDev_slotSet _ _ _),
      completed_finish_of_grows a _ (deriveDev_slotSet_grows _ _ _)⟩
  · have hgrow : Grows s (deriveDev (slotSet i { g with running := none, pending := [], ending := [], state := some .placed }
        (dropItems h s))) :=
      ((Grows.refl s).quiet (dropItems_keeps h rfl (Keeps.refl s))).trans (deriveDev_slotSet_grows _ _ _)
    refine ⟨_, abortComplete_aborts hg hrun hlost hend hall hstill hact, ?_, ?_,
      completed_finish_of_grows a _ (endAborted_grows _ _ hgrow)⟩
    · exact (slotGet_congr ((finish_graphs _ _ _).trans (endAborted_graphs _ _ _)) i).trans
        (slotGet_deriveDev_slotSet _ _ _)
    · exact (completed_endAborted x g.pending 2 hgrow).of_prefix (finish_grows a _ (Grows.refl _)).held

end Sys2Proof.Machine

/-!
PROOFS. What the machine holds right after a reset, or after the loss of a flank, a rail, a clock or a power good
(R39, R490–R497, R505, R526, R528).
-/

namespace Sys2Proof.Machine

/-! ## The package reset (R491) -/

section
variable {s t u : State} {f : Flank}

theorem leaveReset_keepsAll (supplied : Bool) (s : State) : ∃ sec boot free, leaveReset supplied s =
    { s with sec := sec, boot := boot, free := free } ∧ boot.running = s.boot.running := by
  unfold leaveReset
  dsimp only
  split
  · exact ⟨_, _, _, rfl, rfl⟩
  · exact ⟨_, _, _, rfl, rfl⟩

theorem exec_packageReset {low : Nat} (pins : ResetPins) (hlow : 1000 ≤ low) (s : State) :
    ∃ p, exec (.packageReset low pins) s =
      .next (leaveReset (pins.powerGood && pins.refclkOk) { afterReset s with pins := p }) :=
  ⟨_, if_neg (by omega)⟩

/-! ## The Col reset (R278, R494) -/

/-- No slot of the table that the restarted firmware finds holds a graph. -/
theorem slotGet_firmwareLost (i : Nat) (s : State) :
    (slotGet i (firmwareLost s)).state = none ∧ (slotGet i (firmwareLost s)).running = none := by
  have hall : ((s.graphs.slot.map fun e => (e.1, slotEmptied e.2)).filter fun e => e.2 != {}).all
      (fun e => e.2.state.isNone && e.2.running.isNone) = true :=
    List.all_eq_true.2 fun e he => by
      obtain ⟨x, -, rfl⟩ := List.mem_map.1 (List.mem_filter.1 he).1
      rfl
  rcases tget_of_all (d := ({} : Graph)) (k := i) (q := fun g => g.state.isNone && g.running.isNone) hall with h | h
  · simpa [slotGet, firmwareLost] using h
  · exact ⟨(congrArg Graph.state h :), (congrArg Graph.running h :)⟩

/-- The state as the Col reset leaves it but for the waiting command. -/
theorem colReset_effect (wait : Option Accepted) (s : State) : ∃ u, Keeps [.mbx, .locks] s u ∧
    (colReset wait s).boot = (firmwareLost u).boot ∧ (colReset wait s).graphs = (firmwareLost u).graphs ∧
    (colReset wait s).dev = { (firmwareLost u).dev with colWait := wait } :=
  ⟨releaseLocks [1] (mbxFwResetBegin s), releaseLocks_keeps _ rfl (mbxFwResetBegin_keeps rfl (Keeps.refl s)), rfl, rfl,
    rfl⟩

theorem colReset_restarts (hheld : s.boot.colHeld = false) (hidle : s.boot.colRestart = false)
    (hrun : s.boot.running ≠ none) (hhot : s.dev.state ≠ .haltedThermal) :
    ∃ t, exec .colReset s = .next t ∧ t.boot.running = none ∧ t.dev.state = .booting ∧
      (∀ i, (slotGet i t).state = none ∧ (slotGet i t).running = none) ∧ flankPhase .north t = flankPhase .north s ∧
      flankPhase .south t = flankPhase .south s := by
  have hexec : exec .colReset s = .next (colReset none s) := if_neg (by simp [hheld, hidle, hrun, hhot])
  obtain ⟨u, hu, hboot, hgraphs, hdev⟩ := colReset_effect none s
  have hsame : u.dev = s.dev := hu.same .dev (by decide)
  refine ⟨_, hexec, ?_, ?_, fun i => ?_, ?_, ?_⟩
  · rw [hboot, firmwareLost]
  · rw [hdev, firmwareLost]
  · rw [slotGet_congr hgraphs]
    exact slotGet_firmwareLost i u
  · rw [flankPhase, hdev, flankPhase, ← hsame, firmwareLost]
  · rw [flankPhase, hdev, flankPhase, ← hsame, firmwareLost]

/-! ## Flank resets (R495, R496) -/

theorem clusterGet_restartCompute {p : Nat} (hp : flankOf p = f) (s : State) : clusterGet p (restartCompute f s) = {} := by
  have hon : onFlank f 1 p = true := by simp [onFlank, hp]
  exact (tget_tclear _ _ _ _).trans (if_pos hon)

/-- Nothing of its clusters is left on a flank whose compute has restarted. -/
theorem clusterGet_of_restart {T : List Area} {p : Nat} (hp : flankOf p = f) (h : Keeps T (restartCompute f u) t)
    (hT : Area.comp ∉ T) : clusterGet p t = {} :=
  (clusterGet_congr (h.same .comp hT) p).trans (clusterGet_restartCompute hp u)

theorem clusterGet_softBegin {p : Nat} (hp : flankOf p = f) (s : State) : clusterGet p (softBegin f s) = {} :=
  clusterGet_of_restart hp (T := [.dev, .db, .locks, .ports, .cmds, .out])
    (refreshDegraded_keeps rfl (releaseLocks_keeps _ rfl (Keeps.refl _))) (by decide)

theorem clusterGet_flankOut {p : Nat} {ph : FlankPhase} (hp : flankOf p = f) (hwas : flankPhase f s = .inService) :
    clusterGet p (flankOut f ph s) = {} := by
  have hin : ¬ (((flankPhase f s = .lost : Bool) || (flankPhase f s = .fenced : Bool) ||
      (flankPhase f s = .hardReset : Bool)) = true) := by
    rw [hwas]
    decide
  unfold flankOut
  extract_lets was s1 s2 s3 s4 s5 o
  have h5 : Keeps [.boot, .dev, .faults, .db, .locks, .ports, .cmds, .graphs, .bytes, .memCtl, .counts, .cairn, .las, .chans,
      .links, .fab, .d2d, .out, .free] (restartCompute f s1) s5 :=
    refreshDegraded_keeps rfl (releaseLocks_keeps _ rfl (Keeps.foldl (Keeps.foldl (loseMemory_keeps f rfl (Keeps.refl _))
      fun _ n ht => linkDown_keeps n rfl ht) fun _ m ht => moduleClockLost_keeps m rfl ht))
  rw [if_neg hin]
  split
  · exact clusterGet_of_restart hp (enterFaulted_keeps rfl h5) (by decide)
  · exact clusterGet_of_restart hp h5 (by decide)

theorem flankSoftReset_begins (hhot : s.dev.state ≠ .haltedThermal) (hin : flankPhase f s = .inService)
    (hother : flankPhase (otherFlank f) s = .inService) : exec (.flankSoftReset f) s = .next (softBegin f s) := by
  change execFlankSoftReset f s = _
  unfold execFlankSoftReset
  rw [if_neg hhot, hin, hother, if_neg (by decide), if_pos (by decide)]

theorem flankHardReset_begins (hhot : s.dev.state ≠ .haltedThermal) (hin : flankPhase f s = .inService)
    (hother : flankPhase (otherFlank f) s = .inService) : exec (.flankHardReset f) s = .next (hardBegin f s) := by
  change execFlankHardReset f s = _
  unfold execFlankHardReset
  rw [if_neg hhot, hin, hother, if_neg (by decide), if_pos (by decide)]

theorem clusterGet_hardBegin {p : Nat} (hp : flankOf p = f) (hin : flankPhase f s = .inService) :
    clusterGet p (hardBegin f s) = {} := by
  have hk : Keeps [.graphs, .counts, .d2d, .out] s
      (countersOff f (mapRunning (fun g x => failFlank g f Status.aborted.code x) (noticeReset f true s))) :=
    countersOff_keeps f rfl (mapRunning_keeps _ rfl (noticeReset_keeps f true rfl (Keeps.refl s)))
  exact clusterGet_flankOut hp ((flankPhase_congr (hk.same .dev (by decide)) f).trans hin)

/-! ## A fenced flank (R526) -/

theorem fenceFlank_fences (hin : flankPhase f s ≠ .fenced) : flankPhase f (fenceFlank f s) = .fenced ∧
    isFenced (0xB000 + flankNum f) 0 (fenceFlank f s) = true := by
  have hfence : Fenced (0xB000 + flankNum f) 0 (faultUOpen (flankSource f) s) := by
    cases f <;> exact fenced_faultUOpen (by decide) (by decide) s
  unfold fenceFlank
  rw [if_neg hin]
  refine ⟨flankPhase_flankOut_self _ _ _, ?_⟩
  rw [isFenced, fenced_flankOut]
  exact hfence

/-! ## Lost memory (R200, R528) -/

/-- The stacks lost, those in service and the mode are the same. -/
def LossKept (s t : State) : Prop := t.mem.lost = s.mem.lost ∧ t.mem.inService = s.mem.inService ∧ t.mem.home = s.mem.home

theorem LossKept.keeps {T : List Area} (h : LossKept s t) (k : Keeps T t u) (hT : Area.memCtl ∉ T) : LossKept s u := by
  have hrest : memRest u.mem = memRest t.mem := k.same .memCtl hT
  obtain ⟨hlost, hin, hhome⟩ := h
  exact ⟨(congrArg MemSys.lost hrest :).trans hlost, (congrArg MemSys.inService hrest :).trans hin,
    (congrArg MemSys.home hrest :).trans hhome⟩

theorem LossKept.refl (s : State) : LossKept s s := ⟨rfl, rfl, rfl⟩

theorem LossKept.trans (h : LossKept s t) (k : LossKept t u) : LossKept s u :=
  ⟨k.1.trans h.1, k.2.1.trans h.2.1, k.2.2.trans h.2.2⟩

/-- A waiting request of a recall is answered with what the flank's loss leaves. -/
theorem answerWaiting_lossKept (f : Flank) (s : State) : LossKept s (answerWaiting f s) := by
  have hstart : LossKept s { s with mem := { s.mem with recalls := [] } } := ⟨rfl, rfl, rfl⟩
  unfold answerWaiting
  refine hstart.keeps (T := [.bytes, .counts, .out]) (Keeps.foldl (Keeps.refl _) fun v r hv => ?_) (by decide)
  have hanswer : ∀ c : Prop, [Decidable c] →
      Keeps [.bytes, .counts, .out] _ (if c then emit (.line (r.line * 64) 0 (zeros 64) 0xFF) v else v) := fun c _ => by
    split
    · exact emit_keeps _ rfl hv
    · exact hv
  dsimp only
  split
  · exact hv
  · split
    · split
      · exact emit_keeps _ rfl hv
      · exact sendLine_keeps _ _ rfl hv
    · split
      · exact hv
      · exact dirWrite_keeps _ _ rfl hv
    · exact hv
    · exact hanswer _

/-- The stacks that the loss of a flank's memory takes: its own in home mode, else all. -/
def stacksOf (f : Flank) (s : State) : List Nat := if s.mem.home then flankStacks f s else s.mem.inService

theorem mem_foldl_setInsert {k : Nat} {ks l : List Nat} :
    k ∈ ks.foldl (fun acc n => setInsert n acc) l ↔ k ∈ ks ∨ k ∈ l := by
  induction ks generalizing l with
  | nil => simp
  | cons n ks ih => rw [List.foldl_cons, ih, mem_setInsert, List.mem_cons]; tauto

theorem loseMemory_lost (f : Flank) (s : State) : (∀ k, k ∈ stacksOf f s ∨ k ∈ s.mem.lost → k ∈ (loseMemory f s).mem.lost) ∧
    (loseMemory f s).mem.inService = s.mem.inService ∧ (loseMemory f s).mem.home = s.mem.home := by
  unfold loseMemory
  extract_lets ks m1 s1 held s2 s3
  have h2 : LossKept s1 s2 :=
    List.foldlRecOn (motive := LossKept s1) held _ (LossKept.refl s1) fun t ht e _ =>
      LossKept.keeps (t := dirSet (e.1 * 64) 0 t) ht (dramTaint_keeps _ _ (T := [.bytes]) rfl (Keeps.refl _)) (by decide)
  have h3 : LossKept s1 (markStale (lostRange s3).1 (lostRange s3).2 s3) := h2.trans (answerWaiting_lossKept f s2)
  obtain ⟨hlost, hin, hhome⟩ := h3
  rw [hlost, hin, hhome]
  exact ⟨fun k hk => mem_foldl_setInsert.2 hk, rfl, rfl⟩

/-- With both flanks' memory every stack in service is lost. -/
theorem loseMemory_both (s : State) : ∀ k ∈ s.mem.inService, k ∈ (loseMemory .south (loseMemory .north s)).mem.lost := by
  intro k hk
  obtain ⟨hlostN, hinN, hhomeN⟩ := loseMemory_lost .north s
  obtain ⟨hlostS, -, -⟩ := loseMemory_lost .south (loseMemory .north s)
  by_cases hhome : s.mem.home = true
  · by_cases h4 : k < 4
    · refine hlostS k (.inr (hlostN k (.inl ?_)))
      rw [stacksOf, if_pos hhome, flankStacks]
      exact List.mem_filter.2 ⟨hk, by simpa using h4⟩
    · refine hlostS k (.inl ?_)
      rw [stacksOf, hhomeN, if_pos hhome, flankStacks, hinN]
      exact List.mem_filter.2 ⟨hk, by simpa using h4⟩
  · refine hlostS k (.inr (hlostN k (.inl ?_)))
    rw [stacksOf, if_neg hhome]
    exact hk

/-! ## The reference clock (R528) -/

theorem pins_of_keeps {T : List Area} (h : Keeps T s t) (hT : Area.pins ∉ T) : t.pins = s.pins := h.same .pins hT

/-- What the loss of the reference leaves before the memory goes: all light out. -/
def referenceGone (s : State) : State :=
  allDark (faultXOpen 0xE006 { s with pins := { s.pins with refclk := false } })

theorem referenceGone_keeps (s : State) : Keeps [.boot, .dev, .faults, .db, .ports, .cmds, .graphs, .counts, .comp, .banks,
    .cairn, .las, .chans, .links, .fab, .out, .free] { s with pins := { s.pins with refclk := false } } (referenceGone s) :=
  allDark_keeps rfl (faultXOpen_keeps _ rfl (Keeps.refl _))

theorem loseMemory_pins (f : Flank) (s : State) : (loseMemory f s).pins = s.pins :=
  (loseMemory_keeps f (T := [.graphs, .bytes, .memCtl, .counts, .out]) rfl (Keeps.refl s)).same .pins (by decide)

theorem refclkLoss_loses (hclk : s.pins.refclk = true) (hrst : s.pins.rstN = true) :
    ∃ t, exec .refclkLoss s = .next t ∧ t.pins.refclk = false ∧ ∀ k ∈ s.mem.inService, k ∈ t.mem.lost := by
  have hexec : exec .refclkLoss s = .next (loseMemory .south (loseMemory .north (referenceGone s))) :=
    if_neg (by simp [hclk, hrst])
  have hk := referenceGone_keeps s
  obtain ⟨-, hin, -⟩ := (LossKept.refl _).keeps hk (by simp)
  refine ⟨_, hexec, ?_, fun k hmem => loseMemory_both _ k (by rw [hin]; exact hmem)⟩
  rw [loseMemory_pins, loseMemory_pins, pins_of_keeps hk (by simp)]

/-! ## Power goods (R492) -/

theorem pgLow_guestOut (s : State) : (guestOut s).pins.pgLow = s.pins.pgLow := by
  unfold guestOut
  split
  · rfl
  · extract_lets p1 g1 s1 s2 s3
    have hk : Keeps [.out, .d2d, .mbx, .db, .locks] s1 (releaseLocks [4] (mbxGuestResetEnd (mbxGuestResetBegin s3))) :=
      releaseLocks_keeps _ rfl (mbxGuestResetEnd_keeps rfl (mbxGuestResetBegin_keeps rfl
        (Keeps.foldl (emit_keeps _ rfl (Keeps.refl s1)) fun _ m ht => modSet_keeps m _ rfl ht)))
    exact (congrArg Pins.pgLow (hk.same .pins (by decide)) :)

theorem pgLow_fenceGuest (s : State) : (fenceGuest s).pins.pgLow = s.pins.pgLow := by
  unfold fenceGuest
  split
  · rfl
  · exact (congrArg Pins.pgLow ((faultUOpen_keeps 0xC000 (T := [.boot, .dev, .faults, .db, .ports, .cmds, .graphs, .cairn,
      .out, .free]) rfl (Keeps.refl (guestOut s))).same .pins (by decide)) :).trans (pgLow_guestOut s)

/-- A lost power good stays on record through what its loss brings. -/
theorem pgLow_powerLost (pg : PowerGood) (s : State) : (powerLost pg s).pins.pgLow = s.pins.pgLow := by
  have hkeep : ∀ {T : List Area} {t : State}, Keeps T s t → Area.pins ∉ T → t.pins.pgLow = s.pins.pgLow :=
    fun hk hT => (congrArg Pins.pgLow (hk.same .pins hT) :)
  have hreset : ∀ {u : State}, u.pins.pgLow = s.pins.pgLow → (leaveReset false u).pins.pgLow = s.pins.pgLow := by
    intro u hu
    obtain ⟨_, _, _, hleave, -⟩ := leaveReset_keepsAll false u
    rw [hleave]
    exact hu
  cases pg with
  | aon => exact hreset rfl
  | io => exact hreset rfl
  | col => exact hreset rfl
  | mem =>
    refine hkeep (T := [.boot, .dev, .faults, .db, .ports, .cmds, .graphs, .bytes, .memCtl, .counts, .cairn, .out, .free]) ?_
      (by decide)
    exact loseMemory_keeps _ rfl (loseMemory_keeps _ rfl (faultXOpen_keeps _ rfl (Keeps.refl s)))
  | core =>
    refine hkeep (T := [.boot, .dev, .faults, .db, .locks, .ports, .cmds, .graphs, .bytes, .memCtl, .counts, .comp, .cairn,
      .las, .chans, .links, .fab, .d2d, .out, .free]) ?_ (by decide)
    exact flankOut_keeps _ _ rfl (flankOut_keeps _ _ rfl (faultXOpen_keeps _ rfl (Keeps.refl s)))
  | ll => exact hkeep (banksUnpowered_keeps (T := [.boot, .dev, .faults, .db, .ports, .cmds, .graphs, .counts, .comp, .banks,
      .cairn, .out]) rfl (Keeps.refl s)) (by decide)
  | las =>
    have hk : Keeps [.boot, .dev, .faults, .db, .ports, .cmds, .graphs, .counts, .comp, .banks, .cairn, .las, .chans, .links,
      .fab, .out, .free] s (lasersUnpowered s) := lasersUnpowered_keeps rfl (Keeps.refl s)
    exact hkeep hk (by simp)
  | gst => exact pgLow_fenceGuest s

theorem powerGoodLoss_loses {pg : PowerGood} (hrst : s.pins.rstN = true) (hpg : pg ∉ s.pins.pgLow)
    (hguest : pg = .gst → s.part.guest ≠ none) : exec (.powerGoodLoss pg) s =
      .next (powerLost pg { s with pins := { s.pins with pgLow := s.pins.pgLow ++ [pg] } }) :=
  if_neg (by
    have hpart : pg = .gst → s.part.guest.isNone = false := fun h =>
      Option.isNone_eq_false_iff.2 (Option.isSome_iff_ne_none.2 (hguest h))
    simp only [hrst, List.contains_iff_mem, hpg, Bool.not_true, Bool.false_or, Bool.or_eq_true, decide_eq_true_eq,
      Bool.and_eq_true, false_or, not_and]
    exact fun h => by rw [hpart h]; decide)

end

/-- Settles O54: each reset or loss is the first branch of its row, and what it leaves is read back through the steps
that follow. -/
theorem resetRowsComplete : Obligations.ResetRowsComplete := by
  refine ⟨fun low pins s hlow => ?_, fun s hheld hidle hrun hhot => colReset_restarts hheld hidle hrun hhot,
    fun f s hhot hin hother => ⟨_, flankSoftReset_begins hhot hin hother, flankPhase_softBegin f s,
      fun p hp => clusterGet_softBegin hp s⟩,
    fun f s hhot hin hother => ⟨_, flankHardReset_begins hhot hin hother, flankPhase_flankOut_self f _ _,
      fun p hp => clusterGet_hardBegin hp hin⟩,
    fun f s hlost hfence => ⟨_, if_neg (by simp [hlost, hfence]), flankPhase_flankOut_self f _ _⟩,
    fun f s hfence => ⟨_, rfl, fenceFlank_fences hfence⟩, fun s hclk hrst => refclkLoss_loses hclk hrst,
    fun pg s hrst hpg hguest => ⟨_, powerGoodLoss_loses hrst hpg hguest, ?_⟩⟩
  · obtain ⟨p, hexec⟩ := exec_packageReset pins hlow s
    obtain ⟨_, _, _, hleave, hrun⟩ := leaveReset_keepsAll (pins.powerGood && pins.refclkOk) { afterReset s with pins := p }
    rw [hleave] at hexec
    exact ⟨_, hexec, rfl, hrun, rfl, rfl, rfl⟩
  · rw [pgLow_powerLost]
    exact List.mem_append_right _ (List.mem_singleton_self pg)

end Sys2Proof.Machine

/-!
PROOFS. The guest fenced and reset: what stays in the log of outputs, and what the guest's record holds (R400, R401,
R405, R406).
-/

namespace Sys2Proof.Machine

/-! ## What has gone out stays in the log of outputs -/

/-- Everything that one state has sent, another has sent too, in the same order. -/
def SentKept (s t : State) : Prop := s.out <+: t.out

section
variable {s0 s t : State}

theorem SentKept.refl (s : State) : SentKept s s := List.prefix_rfl

theorem SentKept.quiet {T : List Area} (h : SentKept s0 s) (hk : Keeps T s t) (hT : Area.out ∉ T) : SentKept s0 t := by
  have hout : t.out = s.out := hk.same .out hT
  rw [SentKept, hout]
  exact h

theorem SentKept.mem {o : Output} (h : SentKept s t) (ho : o ∈ s.out) : o ∈ t.out := h.subset ho

theorem sentKept_emit (o : Output) (h : SentKept s0 s) : SentKept s0 (emit o s) := h.trans (List.prefix_append _ _)

theorem sentKept_sendFrame (f : Frame) (h : SentKept s0 s) : SentKept s0 (sendFrame f s) := by
  unfold sendFrame outFrame
  dsimp only
  split
  · exact sentKept_emit (s := { s with ports := _ }) _ h
  · exact h

theorem sentKept_ringBit (i : Nat) (h : SentKept s0 s) : SentKept s0 (ringBit i s) := by
  unfold ringBit ringHost
  dsimp only
  split
  · exact h
  · exact sentKept_sendFrame _ h

theorem sentKept_notice (code : Nat) (detail : BitVec 32) (detail2 : BitVec 64) (h : SentKept s0 s) :
    SentKept s0 (notice code detail detail2 s) := by
  unfold notice
  split
  · exact sentKept_ringBit _ (h.quiet (noticeEntry_keeps _ _ _ (T := [.cmds]) rfl (Keeps.refl s)) (by decide))
  · exact h

theorem sentKept_refreshDegraded (h : SentKept s0 s) : SentKept s0 (refreshDegraded s) := by
  unfold refreshDegraded
  dsimp only
  split
  · exact h
  · exact sentKept_notice _ _ _ h

theorem sentKept_faultNotice (e : FaultInput) (i : Nat) (first : Bool) (h : SentKept s0 s) :
    SentKept s0 (faultNotice e i first s) := by
  unfold faultNotice
  dsimp only
  split
  · exact (sentKept_ringBit 25 h).quiet (noticeEntry_keeps _ _ _ (T := [.cmds]) rfl (Keeps.refl _)) (by decide)
  · exact sentKept_ringBit 25 h

/-- The report of an event of class U. -/
theorem sentKept_faultU (src syn : Nat) (h : SentKept s0 s) : SentKept s0 (faultU src syn s) := by
  have hcollect : SentKept s0 (collect (evt src .u syn) s) := h.quiet (collect_keeps _ (T := [.faults]) rfl (Keeps.refl s))
    (by decide)
  unfold faultU report
  dsimp only
  refine sentKept_refreshDegraded (SentKept.quiet (SentKept.quiet ?_ (faultTriggers_keeps _ _ (T := [.cairn]) rfl (Keeps.refl _))
    (by decide)) (fenceAdd_keeps _ _ (T := [.faults]) rfl (Keeps.refl _)) (by decide))
  split
  · exact sentKept_faultNotice _ _ _ hcollect
  · exact hcollect

theorem sentKept_faultUOpen (src : Nat) (h : SentKept s0 s) : SentKept s0 (faultUOpen src s) := sentKept_faultU _ _ h

/-! ## The guest is fenced (R406) -/

theorem owner_releaseLocks (id : BitVec 8) (hid : id ≠ 0) (s : State) : ∀ e ∈ (releaseLocks [id] s).locks, e.2.owner ≠ id := by
  intro e he
  obtain ⟨x, -, rfl⟩ := List.mem_map.1 he
  split
  · exact hid.symm
  · next hno => simpa using hno

/-- The guest's record as its fencing leaves it. -/
theorem guestOut_effect (hg : s.part.guest.isSome = true) (hf : s.guest.fenced = false) :
    (guestOut s).guest = { s.guest with fenced := true } ∧ SentKept s (guestOut s) ∧
      ∀ e ∈ (guestOut s).locks, e.2.owner ≠ 4 := by
  unfold guestOut
  rw [if_neg (by simp [Option.isNone_eq_false_iff.mpr hg, hf])]
  extract_lets p1 g1 s1 s2 s3
  have hdown : Keeps [.d2d] s2 s3 := Keeps.foldl (Keeps.refl s2) fun _ m ht => modSet_keeps m _ rfl ht
  have hreset : Keeps [.mbx, .db, .locks] s3 (releaseLocks [4] (mbxGuestResetEnd (mbxGuestResetBegin s3))) :=
    releaseLocks_keeps _ rfl (mbxGuestResetEnd_keeps rfl (mbxGuestResetBegin_keeps rfl (Keeps.refl s3)))
  have hguest : (releaseLocks [4] (mbxGuestResetEnd (mbxGuestResetBegin s3))).guest = s1.guest :=
    (hreset.same .guest (by decide)).trans (hdown.same .guest (by decide))
  have hsent : SentKept s s2 := sentKept_emit (s := s1) _ (SentKept.refl s)
  exact ⟨hguest, (hsent.quiet hdown (by decide)).quiet hreset (by decide), owner_releaseLocks 4 (by decide) _⟩

theorem fenceGuest_eq (hg : s.part.guest.isSome = true) (hf : s.guest.fenced = false) :
    fenceGuest s = faultUOpen 0xC000 (guestOut s) := by
  unfold fenceGuest
  rw [if_neg (by simp [Option.isNone_eq_false_iff.mpr hg, hf])]

theorem fenceGuest_effect (hg : s.part.guest.isSome = true) (hf : s.guest.fenced = false) :
    (fenceGuest s).guest = { s.guest with fenced := true } ∧ SentKept s (fenceGuest s) ∧
      ∀ e ∈ (fenceGuest s).locks, e.2.owner ≠ 4 := by
  obtain ⟨hguest, hsent, hlocks⟩ := guestOut_effect hg hf
  have hk := faultUOpen_keeps 0xC000 (T := [.boot, .dev, .faults, .db, .ports, .cmds, .graphs, .cairn, .out, .free]) rfl
    (Keeps.refl (guestOut s))
  have hlocks' : (faultUOpen 0xC000 (guestOut s)).locks = (guestOut s).locks := hk.same .locks (by decide)
  have hguest' : (faultUOpen 0xC000 (guestOut s)).guest = (guestOut s).guest := hk.same .guest (by decide)
  rw [fenceGuest_eq hg hf, hlocks', hguest']
  exact ⟨hguest, sentKept_faultUOpen 0xC000 hsent, hlocks⟩

theorem mem_of_keeps {T : List Area} (h : Keeps T s t) (hb : Area.bytes ∉ T) (hc : Area.memCtl ∉ T) : t.mem = s.mem :=
  mem_eq_of_same (h.same .bytes hb) (h.same .memCtl hc)

theorem fenceGuest_mem (s : State) : (fenceGuest s).mem = s.mem :=
  mem_of_keeps (fenceGuest_keeps (T := [.pins, .boot, .dev, .faults, .mbx, .db, .locks, .ports, .cmds, .graphs, .cairn, .d2d,
    .guest, .out, .free]) rfl (Keeps.refl s)) (by decide) (by decide)

/-! ## The guest's own events (R400, R401, R406) -/

/-- What RESET_REQ has reset before the guest's counts begin anew. -/
theorem resetReq_resets (hg : s.part.guest.isSome = true) (hf : s.guest.fenced = false) (hpin : s.pins.gstRstN = true) :
    ∃ t, exec .resetReq s = .next t ∧ t.guest.fenced = false ∧ t.guest.overRuns = 0 ∧ t.guest.tempAt = s.clock.now ∧
      (∀ e ∈ t.locks, e.2.owner ≠ 4) ∧ t.db.fwStatus.getLsbD 26 = true := by
  refine ⟨resetGuest s, rfl, ?_⟩
  unfold resetGuest
  rw [if_neg (by simp [Option.isNone_eq_false_iff.mpr hg, hf, hpin])]
  extract_lets s1 s2 g2
  have hdown : Keeps [.d2d] s1 s2 := Keeps.foldl (Keeps.refl s1) fun t m ht => by
    dsimp only
    split
    · exact ht
    · exact modSet_keeps m _ rfl ht
  have hstart : Keeps [.mbx, .db, .locks] s s1 :=
    releaseLocks_keeps _ rfl (mbxGuestResetEnd_keeps rfl (mbxGuestResetBegin_keeps rfl (Keeps.refl s)))
  have hown : ∀ e ∈ s1.locks, e.2.owner ≠ 4 := owner_releaseLocks 4 (by decide) _
  have hbit : s1.db.fwStatus.getLsbD 26 = true := by
    change ((mbxGuestResetEnd (mbxGuestResetBegin s)).db.fwStatus).getLsbD 26 = true
    simp [mbxGuestResetEnd, ringFw]
  clear_value s2 s1
  have hweights := setWeights_keeps 18 (T := [.d2d]) rfl
    (Keeps.refl { s2 with guest := { g2 with overRuns := 0, tempAt := s2.clock.now } })
  generalize setWeights 18 _ = u at hweights ⊢
  have hguest : u.guest = { s2.guest with overRuns := 0, tempAt := s2.clock.now } := hweights.same .guest (by decide)
  have hguest2 : s2.guest = s.guest := (hdown.same .guest (by decide)).trans (hstart.same .guest (by decide))
  have hclock2 : s2.clock = s.clock := (hdown.same .clock (by decide)).trans (hstart.same .clock (by decide))
  have hlocks : u.locks = s1.locks := (hweights.same .locks (by decide)).trans (hdown.same .locks (by decide))
  have hdb : u.db = s1.db := (hweights.same .db (by decide)).trans (hdown.same .db (by decide))
  rw [hguest, hguest2, hclock2, hlocks, hdb]
  exact ⟨hf, rfl, rfl, hown, hbit⟩

/-- A reading of the guest that is neither hot nor the tenth above 60 W is kept. -/
theorem guestTemp_kept {temp : Int} {power : Nat} (hg : s.part.guest.isSome = true) (hf : s.guest.fenced = false)
    (htemp : temp < 2000) (hpow : power ≤ 240) : guestTemp temp power s =
      { s with guest := { s.guest with temp := temp, power := power, tempAt := s.clock.now, overRuns := 0 } } := by
  unfold guestTemp
  rw [if_neg (by simp [Option.isNone_eq_false_iff.mpr hg, hf])]
  dsimp only
  rw [if_neg (by omega : ¬ 240 < power), if_neg (by simp; omega)]

/-- A reading of the guest that is hot, or the tenth above 60 W, fences it. -/
theorem guestTemp_fences {temp : Int} {power : Nat} (hg : s.part.guest.isSome = true) (hf : s.guest.fenced = false)
    (hout : 2000 ≤ temp ∨ (240 < power ∧ 9 ≤ s.guest.overRuns)) : ∃ n, guestTemp temp power s = fenceGuest
      { s with guest := { s.guest with temp := temp, power := power, tempAt := s.clock.now, overRuns := n } } := by
  have hdue : (decide (2000 ≤ temp) || decide (10 ≤ if 240 < power then s.guest.overRuns + 1 else 0)) = true := by
    rcases hout with h | ⟨hp, hn⟩
    · simp [h]
    · rw [if_pos hp]
      simp
      omega
  unfold guestTemp
  rw [if_neg (by simp [Option.isNone_eq_false_iff.mpr hg, hf])]
  dsimp only
  rw [if_pos hdue]
  exact ⟨_, rfl⟩

/-! ## Violations (R404–R406) -/

/-- The guest's record once a violation is logged. -/
def violated (r : GuestReq) (reason : Nat) (g : Guest) : Guest :=
  { g with violations := min (2 ^ 32 - 1) (g.violations + 1), violAddr := r.addr.toNat
           violInfo := r.opcode.toNat + r.tag.toNat * 2 ^ 8 + reason * 2 ^ 16 }

theorem violation_fences {r : GuestReq} {reason : Nat} (hf : s.guest.fenceOn = true) :
    violation r reason s = fenceGuest (guestTurned r .denied { s with guest := violated r reason s.guest }) := if_pos hf

theorem violation_records {r : GuestReq} {reason : Nat} (hf : s.guest.fenceOn = false) :
    violation r reason s = faultCOpen 0xC000 (guestTurned r .denied { s with guest := violated r reason s.guest }) :=
  if_neg (by simp [hf])

end

end Sys2Proof.Machine

/-!
PROOFS. The guest's requests, served or refused (R402–R406).
-/

namespace Sys2Proof.Machine

section
variable {r : GuestReq} {s : State}

/-! ## Reads -/

/-- A well-formed request of memory from a guest that is up is served where the firewall admits it. -/
theorem guestRead_serves {found : List (Nat × BadSymbols)} (hup : guestUp s = true) (hform : guestWellFormed 1 r = true)
    (hmem : guestReg r.addr.toNat = false) (hwall : firewall r s = none) :
    exec (.guestRead ⟨r, found⟩) s = .next (guestServeRead r found s) := by
  change execGuestRead ⟨r, found⟩ s = _
  unfold execGuestRead
  dsimp only
  rw [hup, hform, hmem, hwall, if_neg (by decide), if_neg (by decide), if_neg (by simp)]

theorem guestRead_violates {found : List (Nat × BadSymbols)} {k : Nat} (hup : guestUp s = true)
    (hform : guestWellFormed 1 r = true) (hmem : guestReg r.addr.toNat = false) (hwall : firewall r s = some k) :
    exec (.guestRead ⟨r, found⟩) s = .next (violation r k s) := by
  change execGuestRead ⟨r, found⟩ s = _
  unfold execGuestRead
  dsimp only
  rw [hup, hform, hmem, hwall, if_neg (by decide), if_neg (by decide), if_neg (by simp)]

/-- The state from which an admitted read of memory takes its bytes. -/
def guestFetched (r : GuestReq) (found : List (Nat × BadSymbols)) (s : State) : State :=
  let n := 32 * r.len.toNat
  let s0 := if r.addr.toNat < topOfDram s then readLines r.addr.toNat n .guest found s else s
  if r.addr.toNat < topOfDram s then (forcedLines r.addr.toNat n s0).2 else s0

theorem guestServeRead_memory {found : List (Nat × BadSymbols)} (hmem : guestReg r.addr.toNat = false)
    (hcheck : bulkCheck r.addr.toNat (32 * r.len.toNat) false s = none) : ∃ data poison,
    guestServeRead r found s = guestAnswer r .ok data poison (guestFetched r found s) := by
  unfold guestServeRead guestFetched
  dsimp only
  rw [hmem, if_neg (by decide), hcheck]
  dsimp only
  by_cases htop : r.addr.toNat < topOfDram s
  · simp only [if_pos htop]
    exact ⟨_, _, rfl⟩
  · simp only [if_neg htop]
    exact ⟨_, _, rfl⟩

/-- With no line found bad and nothing to recall, a read only counts and serves forced events. -/
theorem guestFetched_keeps (hhome : s.mem.home = false ∨ s.mem.dir = []) :
    Keeps [.faults, .counts] s (guestFetched r [] s) := by
  have hread : Keeps [.faults, .counts] s (if r.addr.toNat < topOfDram s then
      readLines r.addr.toNat (32 * r.len.toNat) .guest [] s else s) := by
    split
    · exact readLines_good_keeps hhome _ _ _ rfl
    · exact Keeps.refl s
  unfold guestFetched
  dsimp only
  split
  · exact forcedLines_keeps _ _ rfl (by simpa only [*, if_pos] using hread)
  · next h => simpa only [if_neg h] using hread

/-! ## Writes -/

/-- BYTE_MASK enables every byte of a write whose mask is all ones. -/
theorem enabledAt_full (hmask : r.mask = 0xFFFFFFFF) {i : Nat} (hi : i < 32 * r.len.toNat) : enabledAt r i = true := by
  unfold enabledAt
  rw [hmask]
  by_cases hlen : r.len = 1
  · have h32 : i < 32 := by simpa [hlen] using hi
    interval_cases i <;> simp
  · rw [show (r.len != 1) = true from bne_iff_ne.2 hlen, Bool.true_or]

theorem topOfDram_dramPut (x : Nat) (b : Byte) (s : State) : topOfDram (dramPut x b s) = topOfDram s := by
  unfold dramPut
  split <;> rfl

theorem pokeByte_dram {a : Nat} (h : a < topOfDram s) (b : Byte) : pokeByte a b s = dramPut a b s := by
  simp [pokeByte, place, h]

/-- A full write of DRAM stores its bytes one after the other. -/
theorem guestPokes_full (hmask : r.mask = 0xFFFFFFFF) {i : Nat} {data : List Byte}
    (hlen : i + data.length ≤ 32 * r.len.toNat) (htop : r.addr.toNat + 32 * r.len.toNat ≤ topOfDram s) :
    guestPokes r i data s = dramPutAll (r.addr.toNat + i) data s := by
  induction data generalizing i s with
  | nil => rfl
  | cons b data ih =>
    rw [List.length_cons] at hlen
    rw [guestPokes, enabledAt_full hmask (by omega), if_pos rfl, pokeByte_dram (by omega),
      ih (by omega) (by rw [topOfDram_dramPut]; exact htop), dramPutAll, Nat.add_assoc]

theorem dram_markGranule (a : Nat) (bad : Bool) (s : State) : (markGranule a bad s).mem.dram = s.mem.dram := by
  have htaint : ∀ x, (dramTaint x 8 s).mem.dram = s.mem.dram := fun x => rfl
  unfold markGranule
  split
  · split
    · exact htaint _
    · rfl
  · rfl
  · rfl
  · rfl

theorem dram_guestMark (bad : BitVec 8) (g : Nat) (s : State) : (guestMark r bad g s).mem.dram = s.mem.dram := by
  unfold guestMark
  dsimp only
  split
  · exact dram_markGranule _ _ s
  · split
    · exact dram_markGranule _ _ s
    · rfl

theorem dram_guestMarks (bad : BitVec 8) (l : List Nat) (s : State) :
    (l.foldl (fun t g => guestMark r bad g t) s).mem.dram = s.mem.dram :=
  List.foldlRecOn (motive := fun t : State => t.mem.dram = s.mem.dram) l _ rfl fun t ht g _ =>
    (dram_guestMark bad g t).trans ht

/-- Lines written are counted and nothing else. -/
theorem countLines_keeps (l : List Nat) {T : List Area} {s0 : State} (hT : within [.counts] T = true) (h : Keeps T s0 s) :
    Keeps T s0 (l.foldl (fun t x => countStack (stackOf x t).1 1 1 t) s) :=
  Keeps.foldl h fun _ _ ht => countStack_keeps _ _ _ hT ht

theorem Stored.of_dram {a : Nat} {bs : List Byte} {t u : State} (h : Stored a bs s t) (hu : u.mem.dram = t.mem.dram) :
    Stored a bs s u := by simpa only [Stored, dramByte, hu] using h

/-- A full write of open DRAM, as stored and counted. -/
theorem guestStore_full {data : List Byte} (hmask : r.mask = 0xFFFFFFFF) (hlen : data.length = 32 * r.len.toNat)
    (htop : r.addr.toNat + 32 * r.len.toNat ≤ topOfDram s) (hin : r.addr.toNat < topOfDram s)
    (hopen : DramOpen r.addr.toNat data.length s) :
    Stored r.addr.toNat data s (guestStore r data 0 s) ∧ Keeps [.bytes, .counts] s (guestStore r data 0 s) := by
  have hpokes : guestPokes r 0 data s = dramPutAll r.addr.toNat data s := guestPokes_full hmask (by omega) htop
  have ⟨_, hup, _⟩ := hopen
  unfold guestStore
  dsimp only
  simp only [if_pos hin]
  rw [claimLines_of_dramOpen hopen, hpokes]
  have hmarks : Keeps [.bytes, .counts] s ((List.range (data.length / 8)).foldl (fun t g => guestMark r 0 g t)
      (dramPutAll r.addr.toNat data s)) :=
    Keeps.foldl (dramPutAll_keeps _ _ rfl (Keeps.refl s)) fun t g ht => guestMark_keeps r 0 g rfl ht
  refine ⟨(stored_dramPutAll hup).of_dram ?_, countLines_keeps _ rfl hmarks⟩
  rw [mem_of_keeps (countLines_keeps _ (T := [.counts]) rfl (Keeps.refl _)) (by decide) (by decide)]
  exact dram_guestMarks 0 _ _

/-- A span that passes the check of a write of DRAM ends below the top of DRAM. -/
theorem span_of_bulkCheck {a n : Nat} (hin : a < topOfDram s) (hcheck : bulkCheck a n true s = none) :
    a + n ≤ topOfDram s := by
  by_contra hno
  rw [bulkCheck, place, if_pos hin] at hcheck
  dsimp only at hcheck
  rw [if_pos (by omega)] at hcheck
  cases hcheck

theorem guestWrite_serves {data : List (BitVec 8)} (hup : guestUp s = true) (hform : guestWellFormed 2 r = true)
    (hlen : data.length = 32 * r.len.toNat) (hmem : guestReg r.addr.toNat = false) (hforced : forcedD 0xC000 0 s = false)
    (hwall : firewall r s = none) (hcheck : bulkCheck r.addr.toNat (32 * r.len.toNat) true s = none) :
    exec (.guestWrite r data 0) s = .next (guestAnswer r .ok [] [] (guestStore r data 0 s)) := by
  change execGuestWrite r data 0 s = _
  unfold execGuestWrite guestForced
  rw [hforced, if_neg (by decide : ¬ false = true)]
  dsimp only
  rw [hup, hform, hmem, hwall, hlen, if_neg (by decide), if_neg (by simp), if_neg (by simp), guestServeWrite]
  dsimp only
  rw [hmem, if_neg (by decide), hcheck]

end

/-- What a guest that is up is: fitted and not fenced. -/
theorem of_guestUp {s : State} (h : guestUp s = true) : s.part.guest.isSome = true ∧ s.guest.fenced = false := by
  simp only [guestUp, Bool.and_eq_true, Bool.not_eq_true'] at h
  exact ⟨h.1.1.1, h.1.2⟩

/-- A violation where FENCE_ON_VIOLATION is set: answered, logged, and the guest fenced. -/
theorem violation_fence_effect {r : GuestReq} {k : Nat} {s : State} (hup : guestUp s = true)
    (hform : guestWellFormed 1 r = true) (hfence : s.guest.fenceOn = true) :
    (violation r k s).guest = { violated r k s.guest with fenced := true } ∧
      .guest (r.opcode ||| 0x80) r.tag .denied [] (List.replicate r.len.toNat true) ∈ (violation r k s).out ∧
      Fenced 0xC000 0 (violation r k s) ∧ (violation r k s).mem = s.mem := by
  obtain ⟨hpart, hin⟩ := of_guestUp hup
  have hread : guestWrites r = false := by
    simp only [guestWellFormed, Bool.and_eq_true, decide_eq_true_eq] at hform
    have hop : r.opcode.toNat = 1 := hform.1.1.1.1.1
    simp only [guestWrites, decide_eq_false_iff_not]
    exact fun h => by rw [h] at hop; simp at hop
  obtain ⟨hguest, hsent, -⟩ := fenceGuest_effect
    (s := guestTurned r .denied { s with guest := violated r k s.guest }) hpart hin
  obtain ⟨-, -, hfenced⟩ := fenceGuest_fences (s := guestTurned r .denied { s with guest := violated r k s.guest }) hpart hin
  rw [violation_fences hfence]
  refine ⟨hguest, hsent.mem ?_, hfenced, fenceGuest_mem _⟩
  rw [guestTurned, hread]
  exact List.mem_append_right _ (List.mem_singleton_self _)

theorem violation_record_effect {r : GuestReq} {k : Nat} {s : State} (hfence : s.guest.fenceOn = false) :
    (violation r k s).guest = violated r k s.guest ∧ Faulted 0xC000 .c s (violation r k s) ∧
      (violation r k s).mem = s.mem := by
  rw [violation_records hfence]
  obtain ⟨u, hu⟩ : ∃ u, u = guestTurned r .denied { s with guest := violated r k s.guest } := ⟨_, rfl⟩
  have hguest : u.guest = violated r k s.guest := (congrArg State.guest hu :)
  have hfaults : u.faults = s.faults := (congrArg State.faults hu :)
  have hmem : u.mem = s.mem := (congrArg State.mem hu :)
  have hk : Keeps [.faults, .db, .ports, .cmds, .cairn, .out, .free] u (faultCOpen 0xC000 u) :=
    faultCOpen_keepsMinor 0xC000 rfl (Keeps.refl u)
  rw [← hu]
  exact ⟨(hk.same .guest (by decide)).trans hguest, (faulted_faultCOpen 0xC000 u).congr hfaults.symm rfl,
    (mem_of_keeps hk (by decide) (by decide)).trans hmem⟩

/-- Settles O28: an admitted request of memory is served by the memory's own rules, and a fence is `fenceGuest`. -/
theorem guestRows : Obligations.GuestRows := by
  refine ⟨fun r s hup hform hmem hwall hcheck hhome => ?_, fun r found s hup hform hmem hwall hcheck => ?_,
    fun r data s hup hform hlen hmem hforced hwall hcheck hin hmask hopen => ?_,
    fun r found k s hup hform hmem hwall hfence => ?_, fun r found k s hup hform hmem hwall hfence => ?_,
    fun s hg hf hpin => resetReq_resets hg hf hpin, fun temp power s hg hf htemp hpow => ?_,
    fun temp power s hg hf htemp => ?_, fun temp power s hg hf hpow hruns => ?_,
    fun m s hg hf hm hact hdue => ?_, fun s hg hf => ?_⟩
  · obtain ⟨data, poison, hserve⟩ := guestServeRead_memory (found := []) hmem hcheck
    have hk := guestFetched_keeps (r := r) hhome
    have hout : (guestFetched r [] s).out = s.out := hk.same .out (by decide)
    refine ⟨_, data, poison, (guestRead_serves hup hform hmem hwall).trans (congrArg Host.Outcome.next hserve), ?_,
      (emit_keeps (T := [.faults, .counts, .out]) _ rfl (hk.weaken rfl)).frame⟩
    rw [guestAnswer, emit, hout]
  · obtain ⟨data, poison, hserve⟩ := guestServeRead_memory (found := found) hmem hcheck
    exact ⟨_, data, poison, (guestRead_serves hup hform hmem hwall).trans (congrArg Host.Outcome.next hserve),
      List.mem_append_right _ (List.mem_singleton_self _)⟩
  · obtain ⟨hstored, hk⟩ := guestStore_full hmask hlen (span_of_bulkCheck hin hcheck) hin hopen
    have hout : (guestStore r data 0 s).out = s.out := hk.same .out (by decide)
    refine ⟨_, guestWrite_serves hup hform hlen hmem hforced hwall hcheck, ?_, hstored.congr rfl rfl,
      (emit_keeps (T := [.bytes, .counts, .out]) _ rfl (hk.weaken rfl)).frame⟩
    rw [guestAnswer, emit, hout]
  · obtain ⟨hguest, hsent, hfenced, hsame⟩ := violation_fence_effect (k := k) hup hform hfence
    exact ⟨_, guestRead_violates hup hform hmem hwall, (congrArg Guest.fenced hguest :),
      (congrArg Guest.violations hguest :), (congrArg Guest.violAddr hguest :), hsent, hfenced, hsame⟩
  · obtain ⟨-, hin⟩ := of_guestUp hup
    obtain ⟨hguest, hfault, hsame⟩ := violation_record_effect (r := r) (k := k) hfence
    exact ⟨_, guestRead_violates hup hform hmem hwall, (congrArg Guest.fenced hguest :).trans hin, hfault,
      (congrArg Guest.violations hguest :), hsame⟩
  · have hkept := guestTemp_kept hg hf htemp hpow
    refine ⟨_, congrArg Host.Outcome.next hkept, rfl, rfl, rfl, rfl, hf, ?_⟩
    exact (keeps_setGuest rfl (Keeps.refl s) _).frame
  · obtain ⟨n, hfence⟩ := guestTemp_fences (power := power) hg hf (.inl htemp)
    obtain ⟨hguest, -, -⟩ := fenceGuest_effect
      (s := { s with guest := { s.guest with temp := temp, power := power, tempAt := s.clock.now, overRuns := n } }) hg hf
    obtain ⟨hout, -, hfenced⟩ := fenceGuest_fences
      (s := { s with guest := { s.guest with temp := temp, power := power, tempAt := s.clock.now, overRuns := n } }) hg hf
    exact ⟨_, congrArg Host.Outcome.next hfence, (congrArg Guest.temp hguest :), hout, hfenced⟩
  · obtain ⟨n, hfence⟩ := guestTemp_fences (temp := temp) hg hf (.inr ⟨hpow, hruns⟩)
    obtain ⟨hout, hpin, -⟩ := fenceGuest_fences
      (s := { s with guest := { s.guest with temp := temp, power := power, tempAt := s.clock.now, overRuns := n } }) hg hf
    exact ⟨_, congrArg Host.Outcome.next hfence, hout, hpin⟩
  · obtain ⟨hout, -, hfenced⟩ := fenceGuest_fences hg hf
    have hany : (groupModules 18).any (fun m => (modGet m s).state = .active) = true :=
      List.any_eq_true.2 ⟨m, hm, by simpa using hact⟩
    exact ⟨_, if_pos (by rw [hany]; simpa using hdue), hout, hfenced⟩
  · obtain ⟨hout, hpin, hfenced⟩ := fenceGuest_fences hg hf
    obtain ⟨-, -, hlocks⟩ := fenceGuest_effect hg hf
    exact ⟨_, rfl, hout, hpin, hfenced, hlocks⟩

end Sys2Proof.Machine

/-!
PROOFS. Training of a link end, Table 12-4 (R306, R327, R328, R330, R331, R342).
-/

namespace Sys2Proof.Machine

section
variable {n i j : Nat} {s t : State}

/-! ## Receive channels while a link end trains -/

/-- The receive channels of a link end have numbers of their own. -/
theorem rxi_link {n : Nat} (hn : n < 32) (k : Nat) : rxi n k = n * 36 + 18 + k := if_pos hn

theorem rxi_inj {n : Nat} (hn : n < 32) {a b : Nat} (h : rxi n a = rxi n b) : a = b := by
  rw [rxi_link hn, rxi_link hn] at h
  omega

/-- A property of a channel side that a step writes or leaves alone stands after a run of such steps. -/
theorem chanSide_foldl_of_mem {P : Chan → Prop} {i k : Nat} {l : List Nat} {h : State → Nat → State} (hk : k ∈ l)
    (hset : ∀ u, P (chanSide i (h u k))) (hkeep : ∀ u a, P (chanSide i u) → P (chanSide i (h u a))) (s : State) :
    P (chanSide i (l.foldl h s)) := by
  obtain ⟨l1, l2, rfl⟩ := List.append_of_mem hk
  rw [List.foldl_append, List.foldl_cons]
  exact List.foldlRecOn (motive := fun u => P (chanSide i u)) l2 h (hset _) fun u hu a _ => hkeep u a hu

theorem chanSide_setChan_eq_or (i j : Nat) (c : Chan) (s : State) :
    (i = j ∧ chanSide i (setChan j c s) = c) ∨ chanSide i (setChan j c s) = chanSide i s := by
  by_cases h : i = j
  · exact .inl ⟨h, h ▸ chanSide_setChan_self i c s⟩
  · exact .inr (chanSide_setChan_ne h c s)

/-- A channel set that leaves a channel's property as it is, or gives it. -/
theorem chanSide_setChan_of {P : Chan → Prop} {c : Chan} (h : P (chanSide i s)) (hc : P (chanSide j s) → P c) :
    P (chanSide i (setChan j c s)) := by
  rcases chanSide_setChan_eq_or i j c s with ⟨rfl, heq⟩ | heq
  · rw [heq]
    exact hc h
  · rw [heq]
    exact h

/-- Entering a training state writes no receive channel: what a link leaves writes are transmit channels. -/
theorem chanSide_linkFreed_rx (hn : n < 32) {k : Nat} (hk : k < 18) (s : State) :
    chanSide (rxi n j) (linkFreed n k s) = chanSide (rxi n j) s := by
  have hne : rxi n j ≠ txi n k := by
    rw [rxi_link hn, txi, if_pos hn]
    omega
  have hput : chanSide (rxi n j) (putOut n k s) = chanSide (rxi n j) s := by
    unfold putOut
    dsimp only
    split
    · rfl
    · exact chanSide_setChan_ne hne _ s
  unfold linkFreed
  dsimp only
  split
  · rfl
  · exact (chanSide_congr ((settleHandover_keeps _ _ (T := [.las]) rfl (Keeps.refl _)).same .chans (by decide)) _).trans hput

theorem chanSide_leaveLink_rx (hn : n < 32) (j : Nat) (s : State) :
    chanSide (rxi n j) (leaveLink n s) = chanSide (rxi n j) s := by
  have hleft : chanSide (rxi n j) (linkLeaves n s) = chanSide (rxi n j) s := chanSide_congr ((linkLeaves_keeps n
    (T := [.boot, .dev, .faults, .db, .ports, .cmds, .graphs, .counts, .cairn, .links, .fab, .out, .free]) rfl
    (Keeps.refl s)).same .chans (by decide)) _
  unfold leaveLink
  refine List.foldlRecOn (motive := fun u => chanSide (rxi n j) u = chanSide (rxi n j) s) _ _ hleft fun u hu k hk => ?_
  split
  · split
    · exact (chanSide_linkFreed_rx hn (List.mem_range.1 hk) u).trans hu
    · exact hu
  · exact hu

theorem chanSide_lightChiplet (i ll : Nat) (s : State) : chanSide i (lightChiplet ll s) = chanSide i s :=
  chanSide_congr ((lightChiplet_keeps ll (T := [.las]) rfl (Keeps.refl s)).same .chans (by decide)) i

theorem chanSide_enterTrain_rx {st : Train} (hst : st ≠ .active) (hn : n < 32) (j : Nat) (s : State) :
    chanSide (rxi n j) (enterTrain n st s) = chanSide (rxi n j) s := by
  unfold enterTrain
  rw [if_neg hst]
  dsimp only
  rw [chanSide_lightChiplet, chanSide_linkSet, chanSide_leaveLink_rx hn]

/-! ## A training state entered -/

theorem enterTrain_st {st : Train} (hst : st ≠ .active) (n : Nat) (s : State) :
    (linkGet n (enterTrain n st s)).st = st ∧ (linkGet n (enterTrain n st s)).stAt = s.clock.now := by
  have hmine := (enterTrain_becomes hst n s).mine
  generalize linkGet n (enterTrain n st s) = l at hmine ⊢
  exact ⟨(congrArg LinkSt.st hmine :), (congrArg LinkSt.stAt hmine :)⟩

theorem leaveOut_links (kept : List Nat) (n : Nat) (s : State) : (leaveOut n kept s).links = s.links ∧
    (leaveOut n kept s).chans = s.chans := by
  have hk := leaveOut_keeps n kept (T := [.boot, .dev, .faults, .db, .ports, .cmds, .graphs, .cairn, .out, .free]) rfl
    (Keeps.refl s)
  exact ⟨hk.same .links (by decide), hk.same .chans (by decide)⟩

theorem bindLanes_links (side : Nat → Nat) (ks : List Nat) (s : State) : (bindLanes side ks s).links = s.links :=
  (bindLanes_keeps side ks (T := [.chans]) rfl (Keeps.refl s)).same .links (by decide)

theorem locked_bindLanes (side : Nat → Nat) (ks : List Nat) (h : (chanSide i s).locked = true) :
    (chanSide i (bindLanes side ks s)).locked = true :=
  List.foldlRecOn (motive := fun u => (chanSide i u).locked = true) chNums _ h fun _ hu _ _ =>
    chanSide_setChan_of (P := fun c => c.locked = true) hu id

/-- Locks the receive channels of a link end. -/
def lockAll (n : Nat) (l : List Nat) (s : State) : State :=
  l.foldl (fun t k => setChan (rxi n k) { chanSide (rxi n k) t with locked := true } t) s

theorem locked_lockAll {k : Nat} {l : List Nat} (hk : k ∈ l) (s : State) :
    (chanSide (rxi n k) (lockAll n l s)).locked = true :=
  chanSide_foldl_of_mem (P := fun c => c.locked = true) hk
    (fun _ => (congrArg Chan.locked (chanSide_setChan_self _ _ _) :))
    (fun _ _ hu => chanSide_setChan_of (P := fun c => c.locked = true) hu fun _ => rfl) s

theorem lockAll_links (l : List Nat) (s : State) : (lockAll n l s).links = s.links :=
  (Keeps.foldl (T := [.chans]) (Keeps.refl s) fun _ _ ht => setChan_keeps _ _ rfl ht).same .links (by decide)

/-! ## BIVOUAC, SEND and ALIGN -/

theorem exec_trainingAdvance {x : TrainInput} (hn : n < 32) (hhot : s.dev.state ≠ .haltedThermal) :
    exec (.trainingAdvance n x) s = .next (advance n x s) := (if_neg hhot).trans (if_pos hn)

theorem advance_bivouac {x : TrainInput} (hst : (linkGet n s).st = .bivouac) (htill : (linkGet n s).bivouacTill = none)
    (hloop : (linkGet n s).looped = false) (hwire : (linkGet n s).miswired = false) (hconf : linkConfigured n s = true) :
    advance n x s = enterTrain n .light s := by
  unfold advance
  dsimp only
  rw [hst]
  dsimp only
  rw [htill, hloop, hwire, hconf, if_neg (by decide)]

theorem advance_send {x : TrainInput} (hst : (linkGet n s).st = .send) (hver : 8 ≤ x.verified.length) :
    advance n x s = enterTrain n .align (linkSet n { linkGet n s with light := true } s) := by
  unfold advance
  dsimp only
  rw [hst]
  exact if_pos hver

theorem advance_send_align {x : TrainInput} (hst : (linkGet n s).st = .send) (hver : 8 ≤ x.verified.length) :
    (linkGet n (advance n x s)).st = .align ∧ (linkGet n (advance n x s)).light = true ∧
      (linkGet n (advance n x s)).stAt = s.clock.now := by
  rw [advance_send hst hver]
  have hmine := (enterTrain_becomes (st := .align) (by decide) n (linkSet n { linkGet n s with light := true } s)).mine
  rw [linkGet_linkSet_self] at hmine
  generalize linkGet n (enterTrain n .align _) = l at hmine ⊢
  exact ⟨(congrArg LinkSt.st hmine :), (congrArg LinkSt.light hmine :), (congrArg LinkSt.stAt hmine :)⟩

/-- The receive channels locked as ALIGN ends. -/
def alignLocked (n : Nat) (x : TrainInput) (s : State) : List Nat :=
  chNums.filter fun k => x.locked.contains k || (chanSide (rxi n k) s).locked

/-- The state as ALIGN ends, before the lanes are bound. -/
def aligned (n : Nat) (x : TrainInput) (s : State) : State :=
  lockAll n (alignLocked n x s) (leaveOut n (alignLocked n x s) (enterTrain n .map s))

theorem advance_align {x : TrainInput} (hst : (linkGet n s).st = .align) (hlock : 8 ≤ (alignLocked n x s).length) :
    advance n x s = bindLanes (txi n) (linkGet n (aligned n x s)).txWorking (aligned n x s) := by
  unfold advance
  dsimp only
  rw [hst]
  exact if_pos hlock

theorem advance_align_map {x : TrainInput} (hst : (linkGet n s).st = .align) (hlock : 8 ≤ (alignLocked n x s).length) :
    (linkGet n (advance n x s)).st = .map ∧ (linkGet n (advance n x s)).stAt = s.clock.now ∧
      ∀ k ∈ x.locked, k < 18 → (chanSide (rxi n k) (advance n x s)).locked = true := by
  have hlinks : (advance n x s).links = (enterTrain n .map s).links := by
    rw [advance_align hst hlock]
    exact (bindLanes_links _ _ _).trans ((lockAll_links _ _).trans (leaveOut_links _ _ _).1)
  have hget := linkGet_congr hlinks n
  obtain ⟨hmap, hat⟩ := enterTrain_st (st := .map) (by decide) n s
  refine ⟨(congrArg LinkSt.st hget :).trans hmap, (congrArg LinkSt.stAt hget :).trans hat, fun k hk h18 => ?_⟩
  rw [advance_align hst hlock]
  refine locked_bindLanes _ _ (locked_lockAll ?_ _)
  exact List.mem_filter.2 ⟨List.mem_range.2 h18, by simp [hk]⟩

/-! ## MAP (R306, R330) -/

/-- Restores the fenced receive channels whose check has passed. -/
def restoreAll (n : Nat) (x : TrainInput) (l : List Nat) (s : State) : State :=
  l.foldl (fun t k => if x.checked.contains k then restoreChan (rxi n k) t else t) s

theorem restoreAll_keeps (x : TrainInput) (l : List Nat) (s : State) : Keeps [.faults, .chans] s (restoreAll n x l s) :=
  Keeps.foldl (Keeps.refl s) fun u k hu => by
    split
    · exact restoreChan_keeps _ rfl hu
    · exact hu

theorem state_restoreChan (i j : Nat) (s : State) : (chanSide i (restoreChan j s)).state =
    if i = j ∧ (chanSide i s).state = .fenced then .spare else (chanSide i s).state := by
  unfold restoreChan
  dsimp only
  by_cases hj : (chanSide j s).state = .fenced
  · rw [if_pos hj]
    by_cases hij : i = j
    · subst hij
      rw [if_pos ⟨rfl, hj⟩]
      exact (congrArg Chan.state (chanSide_setChan_self i _ s) :)
    · rw [if_neg (fun h => hij h.1)]
      exact (congrArg Chan.state (chanSide_setChan_ne hij _ s) :)
  · rw [if_neg hj, if_neg]
    rintro ⟨rfl, hi⟩
    exact hj hi

/-- A fenced receive channel that was checked is spare; every other keeps its state. -/
theorem state_restoreAll (hn : n < 32) (x : TrainInput) (k : Nat) (l : List Nat) (s : State) :
    (chanSide (rxi n k) (restoreAll n x l s)).state =
      if (chanSide (rxi n k) s).state = .fenced ∧ k ∈ l ∧ k ∈ x.checked then .spare else (chanSide (rxi n k) s).state := by
  induction l generalizing s with
  | nil => simp [restoreAll]
  | cons a l ih =>
    rw [restoreAll, List.foldl_cons, ← restoreAll, ih]
    by_cases ha : x.checked.contains a = true
    · rw [if_pos ha, state_restoreChan]
      by_cases hka : k = a
      · subst hka
        by_cases hf : (chanSide (rxi n k) s).state = .fenced
        · have hk : k ∈ x.checked := List.contains_iff_mem.1 ha
          simp [hf, hk]
        · simp [hf]
      · have hne : rxi n k ≠ rxi n a := fun h => hka (rxi_inj hn h)
        simp [hne, hka]
    · rw [if_neg ha]
      by_cases hka : k = a
      · subst hka
        have hk : k ∉ x.checked := fun h => ha (List.contains_iff_mem.2 h)
        simp [hk]
      · simp [hka]

end

end Sys2Proof.Machine

/-!
PROOFS. MAP and NEGOTIATE of a link end (R306, R328, R330, R331, R342).
-/

namespace Sys2Proof.Machine

section
variable {n : Nat} {s : State}

/-! ## MAP (R306, R330) -/

/-- The channels mapped, those still fenced left out. -/
def mappedFit (n : Nat) (x : TrainInput) (s : State) : List (Nat × Nat) :=
  (mappedOf x).filter fun p => (chanSide (rxi n p.1) (restoreAll n x chNums s)).state != .fenced

/-- Gives each receive channel the lane that it was mapped to. -/
def mapLanes (n : Nat) (m : List (Nat × Nat)) (s : State) : State :=
  chNums.foldl (fun t k =>
    setChan (rxi n k) { chanSide (rxi n k) t with lane := (m.find? fun p => p.1 = k).map (·.2) } t) s

theorem mapLanes_lane (hn : n < 32) (m : List (Nat × Nat)) {k : Nat} (hk : k < 18) (s : State) :
    (chanSide (rxi n k) (mapLanes n m s)).lane = (m.find? fun p => p.1 = k).map (·.2) := by
  refine chanSide_foldl_of_mem (P := fun c => c.lane = (m.find? fun p => p.1 = k).map (·.2)) (List.mem_range.2 hk)
    (fun _ => (congrArg Chan.lane (chanSide_setChan_self _ _ _) :)) (fun u a hu => ?_) s
  rcases chanSide_setChan_eq_or (rxi n k) (rxi n a)
    { chanSide (rxi n a) u with lane := (m.find? fun p => p.1 = a).map (·.2) } u with ⟨hka, heq⟩ | heq
  · rw [heq, rxi_inj hn hka]
  · rw [heq]
    exact hu

theorem mapLanes_state (i : Nat) (m : List (Nat × Nat)) (s : State) :
    (chanSide i (mapLanes n m s)).state = (chanSide i s).state :=
  List.foldlRecOn (motive := fun u => (chanSide i u).state = (chanSide i s).state) chNums _ rfl fun u hu k _ => by
    rcases chanSide_setChan_eq_or i (rxi n k)
      { chanSide (rxi n k) u with lane := (m.find? fun p => p.1 = k).map (·.2) } u with ⟨rfl, heq⟩ | heq
    · exact (congrArg Chan.state heq :).trans hu
    · exact (congrArg Chan.state heq :).trans hu

theorem mapLanes_links (m : List (Nat × Nat)) (s : State) : (mapLanes n m s).links = s.links :=
  (Keeps.foldl (T := [.chans]) (Keeps.refl s) fun _ _ ht => setChan_keeps _ _ rfl ht).same .links (by decide)

/-- The channels that hold a lane after MAP. -/
def mapKept (m : List (Nat × Nat)) : List Nat := chNums.filter fun k => m.any fun p => p.1 = k

/-- The state as MAP ends, before the end notes what it can use. -/
def mapDone (n : Nat) (x : TrainInput) (m : List (Nat × Nat)) (s : State) : State :=
  mapLanes n m (leaveOut n (mapKept m) (enterTrain n .negotiate (restoreAll n x chNums s)))

theorem advance_map {x : TrainInput} (hst : (linkGet n s).st = .map) (hfit : 8 ≤ (mappedFit n x s).length) :
    advance n x s = linkSet n { linkGet n (mapDone n x (mappedFit n x s) s) with
      rxUsable := mapKept (mappedFit n x s), reversed := isReversed (mappedFit n x s) }
      (mapDone n x (mappedFit n x s) s) := by
  unfold advance
  dsimp only
  rw [hst]
  exact if_pos hfit

theorem mapDone_link (x : TrainInput) (m : List (Nat × Nat)) (s : State) :
    (linkGet n (mapDone n x m s)).st = .negotiate ∧ (linkGet n (mapDone n x m s)).stAt = s.clock.now := by
  have hlinks : (mapDone n x m s).links = (enterTrain n .negotiate (restoreAll n x chNums s)).links :=
    (mapLanes_links _ _).trans (leaveOut_links _ _ _).1
  have hclock : (restoreAll n x chNums s).clock = s.clock := (restoreAll_keeps x chNums s).same .clock (by decide)
  have hget := linkGet_congr hlinks n
  obtain ⟨hneg, hat⟩ := enterTrain_st (st := .negotiate) (by decide) n (restoreAll n x chNums s)
  rw [hclock] at hat
  exact ⟨(congrArg LinkSt.st hget :).trans hneg, (congrArg LinkSt.stAt hget :).trans hat⟩

theorem mapDone_state (hn : n < 32) (x : TrainInput) (m : List (Nat × Nat)) (k : Nat) (s : State) :
    (chanSide (rxi n k) (mapDone n x m s)).state = (chanSide (rxi n k) (restoreAll n x chNums s)).state := by
  rw [mapDone, mapLanes_state, chanSide_congr (leaveOut_links _ _ _).2, chanSide_enterTrain_rx (by decide) hn]

theorem mem_chNums {k : Nat} : k ∈ chNums ↔ k < 18 := List.mem_range

/-- What MAP takes of the channels heard, said of the state before the restored ones are. -/
theorem mappedFit_eq (hn : n < 32) (x : TrainInput) (s : State) : mappedFit n x s = (mappedOf x).filter fun p =>
    (chanSide (rxi n p.1) s).state ≠ .fenced || (x.checked.contains p.1 && p.1 < 18) := by
  refine List.filter_congr fun p _ => ?_
  rw [state_restoreAll hn]
  simp only [mem_chNums]
  by_cases hf : (chanSide (rxi n p.1) s).state = .fenced
  · by_cases h18 : p.1 < 18
    · by_cases hc : p.1 ∈ x.checked
      · simp [hf, h18, hc]
      · simp [hf, h18, hc]
    · simp [hf, h18]
  · simp [hf]

/-- What the end of MAP leaves of the receive channels. -/
structure Mapped (n : Nat) (x : TrainInput) (m : List (Nat × Nat)) (s t : State) : Prop where
  restored : ∀ k ∈ x.checked, k < 18 → (chanSide (rxi n k) s).state = .fenced → (chanSide (rxi n k) t).state = .spare
  lane : ∀ k, k < 18 → (chanSide (rxi n k) t).lane = (m.find? fun p => p.1 = k).map (·.2)

theorem mapDone_mapped (hn : n < 32) (x : TrainInput) (m : List (Nat × Nat)) (s : State) :
    Mapped n x m s (mapDone n x m s) where
  restored k hk h18 hf := by
    rw [mapDone_state hn, state_restoreAll hn]
    exact if_pos ⟨hf, mem_chNums.2 h18, hk⟩
  lane k h18 := by
    rw [mapDone]
    exact mapLanes_lane hn m h18 _

theorem Mapped.linkSet {x : TrainInput} {m : List (Nat × Nat)} {t : State} (h : Mapped n x m s t) (y : LinkSt) :
    Mapped n x m s (linkSet n y t) := ⟨h.restored, h.lane⟩

theorem advance_map_negotiate {x : TrainInput} {m : List (Nat × Nat)} (hn : n < 32) (hst : (linkGet n s).st = .map)
    (hm : m = mappedFit n x s) (hfit : 8 ≤ m.length) :
    (linkGet n (advance n x s)).st = .negotiate ∧ (linkGet n (advance n x s)).stAt = s.clock.now ∧
      (linkGet n (advance n x s)).reversed = isReversed m ∧ (linkGet n (advance n x s)).rxUsable = mapKept m ∧
      Mapped n x m s (advance n x s) := by
  have hadvance := advance_map (x := x) hst (hm ▸ hfit)
  rw [← hm] at hadvance
  obtain ⟨hneg, hat⟩ := mapDone_link (n := n) x m s
  have hmapped := mapDone_mapped hn x m s
  generalize mapDone n x m s = u at hadvance hneg hat hmapped
  rw [hadvance, linkGet_linkSet_self]
  exact ⟨hneg, hat, rfl, rfl, hmapped.linkSet _⟩

/-! ## NEGOTIATE (R328, R331, R342) -/

theorem advance_negotiate {x : TrainInput} (hst : (linkGet n s).st = .negotiate) :
    advance n x s = nameActive n x (if (linkGet n s).negDone then s else negotiate n x s) := by
  unfold advance
  dsimp only
  rw [hst]

/-- ACTIVE_AT is not named before both ends have set NEG_DONE. -/
theorem nameActive_waits {x : TrainInput} (h : (linkGet n s).negDone = false ∨ x.farNegDone = false) :
    nameActive n x s = s := if_pos (by rcases h with h | h <;> simp [h])

/-- What ACTIVE_AT names does not touch the rest of the link's record. -/
theorem nameActive_frame (x : TrainInput) (s : State) : ∃ a b,
    linkGet n (nameActive n x s) = { linkGet n s with txAt := a, rxAt := b } ∧ Keeps [.links] s (nameActive n x s) := by
  unfold nameActive
  dsimp only
  split
  · exact ⟨_, _, rfl, Keeps.refl s⟩
  · exact ⟨_, _, linkGet_linkSet_self _ _ _, linkSet_keeps _ _ rfl (Keeps.refl s)⟩

theorem nameActive_names {x : TrainInput} (hdone : (linkGet n s).negDone = true) (hfar : x.farNegDone = true)
    (htx : (linkGet n s).txActive = false) (hrx : (linkGet n s).rxActive = false) (htxAt : (linkGet n s).txAt = none)
    (hrxAt : (linkGet n s).rxAt = none) : nameActive n x s = linkSet n { linkGet n s with
      txAt := some ((linkGet n s).slot + 256)
      rxAt := if x.farActiveAt ≠ 0 then some x.farActiveAt.toNat else none } s := by
  unfold nameActive
  dsimp only
  rw [hdone, hfar, htx, hrx, htxAt, hrxAt, if_neg (by decide), if_pos (by decide)]
  simp

/-- What a link's record holds once both ends have agreed on the width `w`. -/
def agreed (n w : Nat) (x : TrainInput) (s : State) : LinkSt :=
  { linkGet n s with
    farNonce := x.farNonce, farCap := x.farCap, negDone := true, width := some w
    rtt := roundTrip (linkGet n s).slot x, rttKnown := true
    leader := x.farNonce.toNat < (linkGet n s).nonce.toNat ||
      (x.farNonce = (linkGet n s).nonce && bitsOf x.farCap.toNat 51 32 < s.fab.id) }

theorem negotiate_agrees {w : Nat} {x : TrainInput}
    (hloop : ¬ (x.farNonce = (linkGet n s).nonce ∧ bitsOf x.farCap.toNat 51 32 = s.fab.id))
    (hneigh : neighbourOk n x.farCap s = true)
    (hw : ((proposal n s).bind fun v => agreeWidth v (codeWidth x.farWidth) x.farCap) = some w) :
    negotiate n x s = linkSet n (agreed n w x s)
      (linkSet n { linkGet n s with farNonce := x.farNonce, farCap := x.farCap } s) := by
  have hprop : proposal n (linkSet n { linkGet n s with farNonce := x.farNonce, farCap := x.farCap } s) = proposal n s := by
    rw [proposal, linkGet_linkSet_self, proposal]
  unfold negotiate
  dsimp only
  rw [if_neg (by simpa using hloop), hneigh, if_neg (by decide), hprop, hw, linkGet_linkSet_self, agreed]

theorem negotiate_loops {x : TrainInput} (hnonce : x.farNonce = (linkGet n s).nonce)
    (hid : bitsOf x.farCap.toNat 51 32 = s.fab.id) : ∃ u,
    u = holdBivouac n (faultCOpen (0x8000 + n) (linkSet n { linkGet n s with farNonce := x.farNonce, farCap := x.farCap } s)) ∧
      negotiate n x s = linkSet n { linkGet n u with looped := true } u :=
  ⟨_, rfl, if_pos (by simp [hnonce, hid])⟩

theorem holdBivouac_bivouacs (n : Nat) (s : State) : (linkGet n (holdBivouac n s)).st = .bivouac ∧
    (linkGet n (holdBivouac n s)).negDone = (linkGet n s).negDone ∧ Grows s (holdBivouac n s) := by
  have hmine := (enterTrain_becomes (st := .bivouac) (by decide) n s).mine
  have hgrow : Grows s (holdBivouac n s) := grows_mk (enterTrain_grows n .bivouac (Grows.refl s))
  unfold holdBivouac at hgrow ⊢
  dsimp only at hgrow ⊢
  rw [linkGet_linkSet_self]
  generalize linkGet n (enterTrain n .bivouac s) = l at hmine hgrow ⊢
  exact ⟨(congrArg LinkSt.st hmine :), (congrArg LinkSt.negDone hmine :), hgrow⟩

/-- A loopback: the end bivouacs with LOOPED and a class C fault. -/
theorem advance_loops {x : TrainInput} (hst : (linkGet n s).st = .negotiate) (hdone : (linkGet n s).negDone = false)
    (hnonce : x.farNonce = (linkGet n s).nonce) (hid : bitsOf x.farCap.toNat 51 32 = s.fab.id) :
    (linkGet n (advance n x s)).st = .bivouac ∧ (linkGet n (advance n x s)).looped = true ∧
      s.faults.entered < (advance n x s).faults.entered := by
  obtain ⟨v, hv⟩ : ∃ v, v = linkSet n { linkGet n s with farNonce := x.farNonce, farCap := x.farCap } s := ⟨_, rfl⟩
  obtain ⟨u, hu, hneg⟩ := negotiate_loops hnonce hid
  rw [← hv] at hu
  have hvlink : (linkGet n v).negDone = false := by rw [hv, linkGet_linkSet_self]; exact hdone
  have hvfault : v.faults = s.faults := by rw [hv]; rfl
  have hlinks : linkGet n (faultCOpen (0x8000 + n) v) = linkGet n v := linkGet_congr ((faultCOpen_keepsMinor _
    (T := [.faults, .db, .ports, .cmds, .cairn, .out, .free]) rfl (Keeps.refl v)).same .links (by decide)) n
  obtain ⟨hbiv, hnd, hgrow⟩ := holdBivouac_bivouacs n (faultCOpen (0x8000 + n) v)
  obtain ⟨henter, -⟩ := faulted_faultCOpen (0x8000 + n) v
  rw [← hu] at hbiv hnd hgrow
  rw [hlinks, hvlink] at hnd
  rw [advance_negotiate hst, hdone, if_neg (by decide), hneg,
    nameActive_waits (.inl (by rw [linkGet_linkSet_self]; exact hnd)), linkGet_linkSet_self]
  refine ⟨hbiv, rfl, ?_⟩
  have hgrown := hgrow.entered
  rw [henter, hvfault] at hgrown
  exact hgrown

/-- The end agrees with its neighbour; it names ACTIVE_AT only where the far end has set NEG_DONE too. -/
theorem advance_agrees {w : Nat} {x : TrainInput} (hst : (linkGet n s).st = .negotiate) (hdone : (linkGet n s).negDone = false)
    (hloop : ¬ (x.farNonce = (linkGet n s).nonce ∧ bitsOf x.farCap.toNat 51 32 = s.fab.id))
    (hneigh : neighbourOk n x.farCap s = true)
    (hw : ((proposal n s).bind fun v => agreeWidth v (codeWidth x.farWidth) x.farCap) = some w) :
    (∃ a b, linkGet n (advance n x s) = { agreed n w x s with txAt := a, rxAt := b }) ∧
      (x.farNegDone = false → linkGet n (advance n x s) = agreed n w x s) ∧ Keeps [.links] s (advance n x s) := by
  have hset : Keeps [.links] s (linkSet n (agreed n w x s)
      (linkSet n { linkGet n s with farNonce := x.farNonce, farCap := x.farCap } s)) :=
    linkSet_keeps _ _ rfl (linkSet_keeps _ _ rfl (Keeps.refl s))
  rw [advance_negotiate hst, hdone, if_neg (by decide), negotiate_agrees hloop hneigh hw]
  obtain ⟨a, b, hget, hk⟩ := nameActive_frame (n := n) x (linkSet n (agreed n w x s)
    (linkSet n { linkGet n s with farNonce := x.farNonce, farCap := x.farCap } s))
  rw [linkGet_linkSet_self] at hget
  refine ⟨⟨a, b, hget⟩, fun hfar => ?_, hset.trans hk⟩
  rw [nameActive_waits (.inr hfar), linkGet_linkSet_self]

end

end Sys2Proof.Machine

/-!
PROOFS. The timers of training, the joining of a group and the return to SEND of a link end (R327, R328, R332, R333,
R355).
-/

namespace Sys2Proof.Machine

section
variable {n : Nat} {s0 s t : State}

/-! ## SEND (R327) -/

theorem enterSend_link (n : Nat) (s : State) : ∃ k, linkGet n (enterSend n s) =
    { linkGet n (enterTrain n .send s) with nonce := k, sent := true, noPeer := false, light := false, negDone := false } := by
  refine ⟨Config.free64 (enterTrain n .send s).free, ?_⟩
  unfold enterSend freshNonce useFree
  dsimp only
  generalize enterTrain n .send s = u
  rw [linkGet_linkSet_self, linkGet_linkSet_self, linkGet_congr (t := { u with free := u.free + 1 }) (s := u) rfl]

/-- A link end in SEND has left its group. -/
theorem enterSend_sends (n : Nat) (s : State) : (linkGet n (enterSend n s)).st = .send ∧
    (linkGet n (enterSend n s)).stAt = s.clock.now ∧ (linkGet n (enterSend n s)).sent = true ∧
      linkUp n (enterSend n s) = false := by
  obtain ⟨k, hk⟩ := enterSend_link n s
  have hmine := (enterTrain_becomes (st := .send) (by decide) n s).mine
  generalize linkGet n (enterTrain n .send s) = l at hmine hk
  have htx : l.txActive = false := (congrArg LinkSt.txActive hmine :)
  rw [linkUp, hk]
  refine ⟨(congrArg LinkSt.st hmine :), (congrArg LinkSt.stAt hmine :), rfl, ?_⟩
  rw [htx, Bool.false_and]

/-! ## Timeouts (R332) -/

theorem linkDark_down (hn : n < 32) (s : State) : linkUp n (linkDark n s) = false ∧ Fenced (0x8000 + n) 0 (linkDark n s) := by
  have hmine := (leaveLink_becomes n s).mine
  unfold linkDark
  dsimp only
  generalize hv : linkSet n { linkGet n (leaveLink n s) with
    st := .dark, stAt := (leaveLink n s).clock.now, width := none, test := none } (leaveLink n s) = v
  have hup : linkUp n v = false := by
    rw [linkUp, ← hv, linkGet_linkSet_self]
    generalize linkGet n (leaveLink n s) = l at hmine
    have htx : l.txActive = false := (congrArg LinkSt.txActive hmine :)
    dsimp only
    rw [htx, Bool.false_and]
  have hfence : Fenced (0x8000 + n) 0 (faultUOpen (0x8000 + n) v) := by
    refine fenced_faultUOpen (by omega) ?_ v
    simp only [perCore, Bool.or_eq_false_iff, decide_eq_false_iff_not]
    omega
  have hk : Keeps [.boot, .dev, .faults, .db, .ports, .cmds, .graphs, .cairn, .las, .out, .free] v
      (lightChiplet (n / 4) (refreshDegraded (faultUOpen (0x8000 + n) v))) :=
    lightChiplet_keeps _ rfl (refreshDegraded_keeps rfl (faultUOpen_keeps _ rfl (Keeps.refl v)))
  have hgrow : Grows (faultUOpen (0x8000 + n) v) (lightChiplet (n / 4) (refreshDegraded (faultUOpen (0x8000 + n) v))) :=
    (refreshDegraded_grows (Grows.refl _)).quiet (lightChiplet_keeps _ rfl (Keeps.refl _))
  refine ⟨?_, hfence.grows hgrow⟩
  rw [linkUp, linkGet_congr (hk.same .links (by decide))]
  exact hup

theorem trainingTimeout_light (hn : n < 32) (hst : (linkGet n s).st = .light) (hdue : (linkGet n s).stAt + 10000000 ≤ s.clock.now) :
    exec (.trainingTimeout n) s = .next (linkDark n s) := by
  change execTrainingTimeout n s = _
  unfold execTrainingTimeout
  dsimp only
  rw [if_neg (by simp; omega), if_neg (by omega), if_pos hst]

theorem trainingTimeout_returns (hn : n < 32) (hst : (linkGet n s).st = .align ∨ (linkGet n s).st = .map)
    (hdue : (linkGet n s).stAt + 10000000 ≤ s.clock.now) (hfew : (linkGet n s).returns < 3) :
    exec (.trainingTimeout n) s = .next (linkSet n { linkGet n (enterSend n s) with returns := (linkGet n s).returns + 1 }
      (enterSend n s)) := by
  have hlight : (linkGet n s).st ≠ .light := by rcases hst with h | h <;> simp [h]
  change execTrainingTimeout n s = _
  unfold execTrainingTimeout
  dsimp only
  rw [if_neg (by simp; omega), if_neg (by omega), if_neg hlight, if_pos (by rcases hst with h | h <;> simp [h]), if_pos hfew]

theorem trainingTimeout_bivouacs (hn : n < 32) (hst : (linkGet n s).st = .align ∨ (linkGet n s).st = .map)
    (hdue : (linkGet n s).stAt + 10000000 ≤ s.clock.now) (hmany : 3 ≤ (linkGet n s).returns) (hfew : (linkGet n s).bivouacs < 3) :
    exec (.trainingTimeout n) s = .next (linkSet n { linkGet n (enterTrain n .bivouac s) with
      returns := 0, bivouacs := (linkGet n s).bivouacs + 1, bivouacTill := some (s.clock.now + 100000000) }
      (enterTrain n .bivouac s)) := by
  have hlight : (linkGet n s).st ≠ .light := by rcases hst with h | h <;> simp [h]
  change execTrainingTimeout n s = _
  unfold execTrainingTimeout
  dsimp only
  rw [if_neg (by simp; omega), if_neg (by omega), if_neg hlight, if_pos (by rcases hst with h | h <;> simp [h]),
    if_neg (by omega), if_pos hfew]

theorem bivouacExit_lights {b : Nat} (hn : n < 32) (hst : (linkGet n s).st = .bivouac) (htill : (linkGet n s).bivouacTill = some b)
    (hdue : b ≤ s.clock.now) : exec (.bivouacExitTimer n) s =
      .next (enterTrain n .light (linkSet n { linkGet n s with bivouacTill := none } s)) := by
  change execBivouacExitTimer n s = _
  unfold execBivouacExitTimer
  dsimp only
  rw [if_neg (by simp; omega), htill]
  exact if_pos (by simp [hn, hst, hdue])

theorem bivouacExit_link (n : Nat) (s : State) :
    (linkGet n (enterTrain n .light (linkSet n { linkGet n s with bivouacTill := none } s))).st = .light ∧
      (linkGet n (enterTrain n .light (linkSet n { linkGet n s with bivouacTill := none } s))).bivouacTill = none := by
  have hmine := (enterTrain_becomes (st := .light) (by decide) n (linkSet n { linkGet n s with bivouacTill := none } s)).mine
  rw [linkGet_linkSet_self] at hmine
  generalize linkGet n (enterTrain n .light _) = l at hmine ⊢
  exact ⟨(congrArg LinkSt.st hmine :), (congrArg LinkSt.bivouacTill hmine :)⟩

/-! ## A direction becomes ACTIVE (R328, R355) -/

/-- What a link end says of its two directions. -/
def endCore (x : LinkSt) : Train × Bool × Bool × Option Nat × Option Nat × Nat × Nat × BitVec 32 :=
  (x.st, x.txActive, x.rxActive, x.txAt, x.rxAt, x.slot, x.rxSlot, x.expect)

/-- A link end's directions stand as they were. -/
def EndKept (n : Nat) (s t : State) : Prop := endCore (linkGet n t) = endCore (linkGet n s)

theorem EndKept.refl (n : Nat) (s : State) : EndKept n s s := rfl

theorem EndKept.sends (h : EndKept n s0 s) (hs : SendsOnly s t) : EndKept n s0 t :=
  (congrArg endCore (hs.links n) :).trans h

theorem EndKept.quiet {T : List Area} (h : EndKept n s0 s) (hk : Keeps T s t) (hl : Area.links ∉ T) : EndKept n s0 t :=
  (congrArg endCore (linkGet_congr (hk.same .links hl) n)).trans h

theorem EndKept.linkSet {m : Nat} {x : LinkSt} (h : EndKept n s0 s) (hx : endCore x = endCore (linkGet m s)) :
    EndKept n s0 (linkSet m x s) := by
  by_cases hm : n = m
  · subst hm
    rw [EndKept, linkGet_linkSet_self, hx]
    exact h
  · rw [EndKept, linkGet_linkSet_ne hm]
    exact h

theorem endKept_wakeTx (m : Nat) (h : EndKept n s0 s) : EndKept n s0 (wakeTx m s) := by
  unfold wakeTx
  dsimp only
  split
  · refine (h.linkSet (m := m) ?_).quiet (sendBlocks_keeps _ _ _ _ (T := [.chans]) rfl (Keeps.refl _)) (by decide)
    rfl
  · exact h

theorem endKept_narrowLink (m w : Nat) (h : EndKept n s0 s) : EndKept n s0 (narrowLink m w s) := by
  unfold narrowLink
  dsimp only
  split
  · exact h
  · split
    · exact endKept_wakeTx m h
    · refine ((endKept_wakeTx m h).linkSet (m := m) ?_).sends (placeFlit_sendsOnly _ _ (SendsOnly.refl _))
      rfl

theorem endKept_narrowOptical (m : Nat) (h : EndKept n s0 s) : EndKept n s0 (narrowOptical m s) :=
  List.foldlRecOn (motive := EndKept n s0) _ _ h fun _ hu _ _ => endKept_narrowLink _ _ hu

/-- The link as it joins its group, before flits go out. -/
def joined (n : Nat) (wasUp : Bool) (s : State) : State :=
  let s1 := linkSet n { linkGet n s with st := .active, stAt := s.clock.now, returns := 0, bivouacs := 0 } s
  fenceDrop (0x8000 + n) 0 (if wasUp then s1 else groupRestart (linkGroup n) s1)

theorem joined_link (n : Nat) (wasUp : Bool) (s : State) : linkGet n (joined n wasUp s) =
    { linkGet n s with st := .active, stAt := s.clock.now, returns := 0, bivouacs := 0 } := by
  have hlinks : (joined n wasUp s).links =
      (linkSet n { linkGet n s with st := .active, stAt := s.clock.now, returns := 0, bivouacs := 0 } s).links := by
    cases wasUp <;> rfl
  rw [linkGet_congr hlinks, linkGet_linkSet_self]

theorem joined_fence (n : Nat) (wasUp : Bool) (s : State) : isFenced (0x8000 + n) 0 (joined n wasUp s) = false := by
  unfold joined isFenced fenceDrop
  simp [setErase]

theorem joinGroup_up (wasUp : Bool) (hup : linkUp n s = true) : joinGroup n wasUp s =
    if groupCapacity (8 + n / 4) (groupPump (linkGroup n) (refreshDegraded (joined n wasUp s))) < 1600 then
      narrowOptical (n / 4) (groupPump (linkGroup n) (refreshDegraded (joined n wasUp s)))
    else groupPump (linkGroup n) (refreshDegraded (joined n wasUp s)) := if_neg (by simp [hup])

theorem joinGroup_joins (wasUp : Bool) (hup : linkUp n s = true) :
    ∃ u, joinGroup n wasUp s = u ∧ EndKept n (joined n wasUp s) u ∧ ServiceKept (joined n wasUp s) u := by
  have hpump : SendsOnly (joined n wasUp s) (groupPump (linkGroup n) (refreshDegraded (joined n wasUp s))) :=
    groupPump_sendsOnly _ (refreshDegraded_sendsOnly (SendsOnly.refl _))
  have hserve : ServiceKept (joined n wasUp s) (groupPump (linkGroup n) (refreshDegraded (joined n wasUp s))) :=
    serviceKept_groupPump _ (serviceKept_refreshDegraded (ServiceKept.refl _))
  have hend := (EndKept.refl n (joined n wasUp s)).sends hpump
  have hjoin := joinGroup_up wasUp hup
  generalize groupPump (linkGroup n) (refreshDegraded (joined n wasUp s)) = v at hend hserve hjoin
  refine ⟨_, hjoin, ?_⟩
  split
  · exact ⟨endKept_narrowOptical _ hend, serviceKept_narrowOptical _ hserve⟩
  · exact ⟨hend, hserve⟩

/-- A link with both directions ACTIVE is in service once it has joined its group. -/
theorem joinGroup_effect (wasUp : Bool) (s : State) :
    ((linkGet n (joinGroup n wasUp s)).txActive, (linkGet n (joinGroup n wasUp s)).rxActive,
      (linkGet n (joinGroup n wasUp s)).txAt, (linkGet n (joinGroup n wasUp s)).rxAt,
      (linkGet n (joinGroup n wasUp s)).slot, (linkGet n (joinGroup n wasUp s)).rxSlot,
      (linkGet n (joinGroup n wasUp s)).expect) = ((linkGet n s).txActive, (linkGet n s).rxActive, (linkGet n s).txAt,
      (linkGet n s).rxAt, (linkGet n s).slot, (linkGet n s).rxSlot, (linkGet n s).expect) ∧
    (linkUp n s = true → (linkGet n (joinGroup n wasUp s)).st = .active ∧
      isFenced (0x8000 + n) 0 (joinGroup n wasUp s) = false) := by
  by_cases hup : linkUp n s = true
  · obtain ⟨u, hu, hend, hserve⟩ := joinGroup_joins wasUp hup
    rw [EndKept, joined_link] at hend
    rw [hu]
    generalize linkGet n u = l at hend ⊢
    refine ⟨congrArg Prod.snd hend, fun _ => ⟨congrArg Prod.fst hend, ?_⟩⟩
    rw [isFenced, hserve.fenced]
    exact joined_fence n wasUp s
  · have hno : joinGroup n wasUp s = s := if_pos (by simpa using hup)
    rw [hno]
    exact ⟨rfl, fun h => absurd h hup⟩

/-- The record of a link end whose transmit direction becomes ACTIVE. -/
def txStarted (a now : Nat) (l : LinkSt) : LinkSt :=
  { l with txActive := true, txAt := none, slot := max l.slot a, lseq := 0, replay := [], lackAt := now, ackAt := now
           stream := [startBlock 0], stripe := 0 }

/-- The record of a link end whose receive direction becomes ACTIVE. -/
def rxStarted (a : Nat) (l : LinkSt) : LinkSt :=
  { l with rxActive := true, rxAt := none, rxSlot := max l.rxSlot a, expect := 0, rxLanes := [], rxStripe := 0
           rxBlocks := [], rxLaneAt := [], lost := [] }

theorem linkGet_settleStates (side : Nat → Nat) (w m : Nat) (s : State) : linkGet m (settleStates side w s) = linkGet m s :=
  linkGet_congr ((settleStates_keeps side w (T := [.chans]) rfl (Keeps.refl s)).same .links (by decide)) m

/-- The slot has come at which the transmit direction was to be ACTIVE. -/
theorem activeAtReached_tx {a : Nat} (hn : n < 32) (htx : (linkGet n s).txAt = some a) : ∃ u wasUp,
    exec (.activeAtReached n true) s = .next (joinGroup n wasUp u) ∧
      linkGet n u = txStarted a s.clock.now (linkGet n s) := by
  have hexec : exec (.activeAtReached n true) s = .next (joinGroup n (groupUp (linkGroup n) s) (settleStates (txi n)
      (widthOf n (linkSet n (txStarted a s.clock.now (linkGet n s)) s))
      (linkSet n (txStarted a s.clock.now (linkGet n s)) s))) := by
    change execActiveAtReached n true s = _
    unfold execActiveAtReached
    dsimp only
    rw [if_neg (by omega), if_neg (by omega), if_pos rfl, htx]
    rfl
  exact ⟨_, _, hexec, (linkGet_settleStates _ _ _ _).trans (linkGet_linkSet_self _ _ _)⟩

/-- The slot has come at which the receive direction was to be ACTIVE. -/
theorem activeAtReached_rx {a : Nat} (hn : n < 32) (hrx : (linkGet n s).rxAt = some a) : ∃ u wasUp,
    exec (.activeAtReached n false) s = .next (joinGroup n wasUp u) ∧ linkGet n u = rxStarted a (linkGet n s) := by
  have hexec : exec (.activeAtReached n false) s = .next (joinGroup n (groupUp (linkGroup n) s) (settleStates (rxi n)
      (widthOf n (linkSet n (rxStarted a (linkGet n s)) s)) (linkSet n (rxStarted a (linkGet n s)) s))) := by
    change execActiveAtReached n false s = _
    unfold execActiveAtReached
    dsimp only
    rw [if_neg (by omega), if_neg (by omega), if_neg (by decide), hrx]
    rfl
  exact ⟨_, _, hexec, (linkGet_settleStates _ _ _ _).trans (linkGet_linkSet_self _ _ _)⟩

end

end Sys2Proof.Machine

/-!
PROOFS. The lane of a control port in training: its states, its timers and its retrains (R202, R203, R204, R328, R332).
-/

namespace Sys2Proof.Machine

section
variable {s t : State}

/-! ## Tables and ports -/

theorem tput_tput {α : Type} (t : Tab α) (k : Nat) (v w : α) : tput (tput t k v) k w = tput t k w := by
  induction t with
  | nil => simp [tput]
  | cons e t ih =>
    by_cases h1 : k < e.1
    · simp [tput, h1]
    · by_cases h2 : k = e.1
      · subst h2
        simp [tput]
      · simp only [tput, h1, h2, if_false, ih]

/-- Of two records of a link end set one after the other the second stands, where neither is the reset record. -/
theorem linkSet_linkSet {n : Nat} {x y : LinkSt} (hx : x ≠ {}) (hy : y ≠ {}) (s : State) :
    linkSet n y (linkSet n x s) = linkSet n y s := by
  simp only [linkSet, tset, if_neg hx, if_neg hy, tput_tput]

theorem portSt_linkSet (p : Port) (n : Nat) (x : LinkSt) (s : State) : portSt p (linkSet n x s) = portSt p s := by
  cases p <;> rfl

theorem linkGet_setPort (n : Nat) (p : Port) (x : PortState) (s : State) : linkGet n (setPort p x s) = linkGet n s := by
  cases p <;> rfl

theorem ports_of_keeps {T : List Area} (h : Keeps T s t) (hT : Area.ports ∉ T) (p : Port) : portSt p t = portSt p s := by
  have hports : t.ports = s.ports := h.same .ports hT
  cases p <;> simp [portSt, hports]

/-! ## SEND of a port (R202, R327) -/

theorem txi_cp0 : txi 32 0 = 1152 := by decide

theorem rxi_cp0 : rxi 32 0 = 1153 := by decide

theorem freshNonce_link (n : Nat) (s : State) :
    linkGet n (freshNonce n s) = { linkGet n s with nonce := Config.free64 s.free } := by
  unfold freshNonce useFree
  dsimp only
  rw [linkGet_linkSet_self, linkGet_congr (t := { s with free := s.free + 1 }) (s := s) rfl]

theorem portState_link (n : Nat) (st : Train) (s : State) :
    linkGet n (portState n st s) = { linkGet n s with st := st, stAt := s.clock.now } := linkGet_linkSet_self _ _ _

/-- The lane of CP0 in SEND: a fresh nonce, lane map entry 0. -/
theorem portSend_cp0 (s : State) : (∃ k, linkGet 32 (portSend 32 s) = { linkGet 32 s with
      st := .send, stAt := s.clock.now, nonce := k, sent := true, light := false, negDone := false, txWorking := [0]
      rxUsable := [] }) ∧
    (chanSide 1152 (portSend 32 s)).lane = some 0 ∧ Keeps [.chans, .links, .free] s (portSend 32 s) := by
  refine ⟨⟨Config.free64 (portState 32 .send s).free, ?_⟩, ?_, portSend_keeps 32 rfl (Keeps.refl s)⟩
  · unfold portSend
    dsimp only
    rw [linkGet_setChan, linkGet_linkSet_self, freshNonce_link, portState_link]
  · unfold portSend
    dsimp only
    rw [txi_cp0, chanSide_setChan_self]

/-! ## Training states of a port (R202, R203) -/

/-- A training of CP0 that goes on: its lane, and the state it is in. -/
theorem exec_trainingAdvance_cp0 (x : TrainInput) (hhot : s.dev.state ≠ .haltedThermal) :
    exec (.trainingAdvance 32 x) s = .next (portAdvance 32 x s) :=
  (if_neg hhot).trans ((if_neg (by decide)).trans (if_pos (by decide)))

section
variable {x : TrainInput} (hphase : (portSt .cp0 s).phase = .training) (hin : (portSt .cp0 s).fenced = false)
include hphase hin

theorem portAdvance_light (hst : (linkGet 32 s).st = .light) (hver : 0 ∈ x.verified) : portAdvance 32 x s = portSend 32 s := by
  unfold portAdvance
  dsimp only
  rw [show lanePort 32 = .cp0 from rfl, hphase, hin, if_neg (by decide), hst]
  exact if_pos (List.contains_iff_mem.2 hver)

theorem portAdvance_send (hst : (linkGet 32 s).st = .send) (hver : 0 ∈ x.verified) : portAdvance 32 x s =
    linkSet 32 { linkGet 32 s with light := true, st := .align, stAt := s.clock.now } s := by
  unfold portAdvance
  dsimp only
  rw [show lanePort 32 = .cp0 from rfl, hphase, hin, if_neg (by decide), hst]
  refine (if_pos (List.contains_iff_mem.2 hver)).trans ?_
  rw [portState, linkGet_linkSet_self]
  refine linkSet_linkSet (fun h => ?_) (fun h => ?_) s
  · cases (congrArg LinkSt.st h :)
  · cases (congrArg LinkSt.st h :)

theorem portAdvance_align (hst : (linkGet 32 s).st = .align) (hlock : 0 ∈ x.locked) : portAdvance 32 x s =
    portState 32 .map (setChan 1153 { chanSide 1153 s with locked := true } s) := by
  unfold portAdvance
  dsimp only
  rw [show lanePort 32 = .cp0 from rfl, hphase, hin, if_neg (by decide), hst, rxi_cp0]
  exact if_pos (by simp [hlock])

theorem portAdvance_map {slot : BitVec 48} (hst : (linkGet 32 s).st = .map)
    (hheard : (⟨0, true, 0, 0, slot, 0⟩ : Heard) ∈ x.heard) : portAdvance 32 x s =
    portState 32 .negotiate (setChan 1153 { chanSide 1153 s with lane := some 0 }
      (linkSet 32 { linkGet 32 s with rxUsable := [0] } s)) := by
  unfold portAdvance
  dsimp only
  rw [show lanePort 32 = .cp0 from rfl, hphase, hin, if_neg (by decide), hst, rxi_cp0]
  exact if_pos (List.any_eq_true.2 ⟨_, hheard, by simp⟩)

theorem portAdvance_negotiate (hst : (linkGet 32 s).st = .negotiate) : portAdvance 32 x s =
    nameActive 32 x (if (linkGet 32 s).negDone then s else portNegotiate 32 x s) := by
  unfold portAdvance
  dsimp only
  rw [show lanePort 32 = .cp0 from rfl, hphase, hin, if_neg (by decide), hst]

end

/-- The lane of either port names ACTIVE_AT as a link end does. -/
theorem portAdvance_negDone {n : Nat} {x : TrainInput} (hphase : (portSt (lanePort n) s).phase = .training)
    (hin : (portSt (lanePort n) s).fenced = false) (hst : (linkGet n s).st = .negotiate) (hdone : (linkGet n s).negDone = true) :
    portAdvance n x s = nameActive n x s := by
  unfold portAdvance
  dsimp only
  rw [hphase, hin, if_neg (by decide), hst]
  dsimp only
  rw [hdone, if_pos rfl]

/-- A port meets a host of ROLE 3 and frame version 1. -/
theorem portNegotiate_host {x : TrainInput} (hrole : bitsOf x.farCap.toNat 7 4 = 3) (hver : bitsOf x.farCap.toNat 23 16 = 1) :
    portNegotiate 32 x s =
      linkSet 32 { linkGet 32 s with farNonce := x.farNonce, farCap := x.farCap, negDone := true } s :=
  if_pos (by simp [hrole, hver])

theorem portNegotiate_other {x : TrainInput} (hbad : bitsOf x.farCap.toNat 7 4 ≠ 3 ∨ bitsOf x.farCap.toNat 23 16 ≠ 1) :
    portNegotiate 32 x s = portReturns 32 (faultC 0xD000 x.farCap.toNat s) :=
  if_neg (by rcases hbad with h | h <;> simp [h])

theorem portReturns_few (hfew : (linkGet 32 s).returns < 3) : portReturns 32 s =
    portSend 32 (linkSet 32 { linkGet 32 s with returns := (linkGet 32 s).returns + 1 } s) := if_pos hfew

theorem portReturns_many (hmany : 3 ≤ (linkGet 32 s).returns) : portReturns 32 s =
    setPort .cp0 { portSt .cp0 s with phase := .down } (linkSet 32 { linkGet 32 s with
      st := .bivouac, stAt := s.clock.now, returns := 0, negDone := false
      bivouacTill := some (s.clock.now + 100000000) } s) := if_neg (by omega)

/-- A return to SEND of CP0 is counted. -/
theorem portReturns_sends (hfew : (linkGet 32 s).returns < 3) : (linkGet 32 (portReturns 32 s)).st = .send ∧
    (linkGet 32 (portReturns 32 s)).negDone = false ∧
      (linkGet 32 (portReturns 32 s)).returns = (linkGet 32 s).returns + 1 ∧
      Keeps [.chans, .links, .free] s (portReturns 32 s) := by
  rw [portReturns_few hfew]
  obtain ⟨⟨k, hk⟩, -, hkeep⟩ := portSend_cp0 (linkSet 32 { linkGet 32 s with returns := (linkGet 32 s).returns + 1 } s)
  rw [linkGet_linkSet_self] at hk
  rw [hk]
  exact ⟨rfl, rfl, rfl, (linkSet_keeps 32 _ rfl (Keeps.refl s)).trans hkeep⟩

/-- Any other word than a host's is a class C fault and a return to SEND. -/
theorem portNegotiate_returns {x : TrainInput} (hbad : bitsOf x.farCap.toNat 7 4 ≠ 3 ∨ bitsOf x.farCap.toNat 23 16 ≠ 1)
    (hfew : (linkGet 32 s).returns < 3) : Faulted 0xD000 .c s (portNegotiate 32 x s) ∧
      (linkGet 32 (portNegotiate 32 x s)).st = .send ∧ (linkGet 32 (portNegotiate 32 x s)).negDone = false ∧
      (linkGet 32 (portNegotiate 32 x s)).returns = (linkGet 32 s).returns + 1 := by
  have hlink : linkGet 32 (faultC 0xD000 x.farCap.toNat s) = linkGet 32 s := linkGet_congr ((faultC_keepsMinor _ _
    (T := [.faults, .db, .ports, .cmds, .cairn, .out]) rfl (Keeps.refl s)).same .links (by decide)) 32
  have hfault : Faulted 0xD000 .c s (faultC 0xD000 x.farCap.toNat s) := faulted_report 0xD000 .c _ none false s
  rw [portNegotiate_other hbad]
  obtain ⟨hst, hneg, hret, hk⟩ := portReturns_sends (s := faultC 0xD000 x.farCap.toNat s) (by rw [hlink]; exact hfew)
  rw [hlink] at hret
  exact ⟨hfault.congr rfl (hk.same .faults (by decide)), hst, hneg, hret⟩

/-! ## Timers of a port (R332) -/

theorem trainingTimeout_cp0 (hdue : (linkGet 32 s).stAt + 10000000 ≤ s.clock.now) :
    exec (.trainingTimeout 32) s = .next (portTimeout 32 s) := by
  change execTrainingTimeout 32 s = _
  unfold execTrainingTimeout
  dsimp only
  rw [if_neg (by simp; omega), if_pos (by decide)]

theorem portTimeout_light (hphase : (portSt .cp0 s).phase = .training) (hst : (linkGet 32 s).st = .light) :
    portTimeout 32 s = portDead .cp0 s := by
  unfold portTimeout
  dsimp only
  rw [show lanePort 32 = .cp0 from rfl, hphase, if_neg (by decide), if_pos hst]

theorem portTimeout_returns (hphase : (portSt .cp0 s).phase = .training)
    (hst : (linkGet 32 s).st = .align ∨ (linkGet 32 s).st = .map) : portTimeout 32 s = portReturns 32 s := by
  have hlight : (linkGet 32 s).st ≠ .light := by rcases hst with h | h <;> simp [h]
  unfold portTimeout
  dsimp only
  rw [show lanePort 32 = .cp0 from rfl, hphase, if_neg (by decide), if_neg hlight,
    if_pos (by rcases hst with h | h <;> simp [h])]

/-- A port without its lane is DOWN and fenced. -/
theorem portDead_fences (s : State) : (portSt .cp0 (portDead .cp0 s)).phase = .down ∧
    (portSt .cp0 (portDead .cp0 s)).fenced = true ∧ Fenced 0xD000 0 (portDead .cp0 s) := by
  have hfence : Fenced 0xD000 0 (faultUOpen 0xD000 s) := fenced_faultUOpen (by decide) (by decide) s
  exact ⟨rfl, rfl, hfence.grows (portOut_grows .cp0 (Grows.refl _))⟩

/-- What a port that trains afresh holds. -/
theorem portTrains_effect (p : Port) (s : State) : portSt p (portTrains p s) = { portSt p s with phase := .training } ∧
    (linkGet (portLink p) (portTrains p s)).st = .light ∧ (linkGet (portLink p) (portTrains p s)).stAt = s.clock.now ∧
      (linkGet (portLink p) (portTrains p s)).bivouacTill = (linkGet (portLink p) s).bivouacTill := by
  unfold portTrains
  dsimp only
  rw [portSt_setPort_self, linkGet_setPort, linkGet_linkSet_self]
  exact ⟨rfl, rfl, rfl, rfl⟩

theorem bivouacExit_cp0 {b : Nat} (hin : (portSt .cp0 s).fenced = false) (hst : (linkGet 32 s).st = .bivouac)
    (htill : (linkGet 32 s).bivouacTill = some b) (hdue : b ≤ s.clock.now) : exec (.bivouacExitTimer 32) s =
      .next (portTrains .cp0 (linkSet 32 { linkGet 32 s with bivouacTill := none } s)) := by
  change execBivouacExitTimer 32 s = _
  unfold execBivouacExitTimer portLeavesBivouac
  dsimp only
  rw [if_pos (by decide)]
  rw [htill]
  dsimp only
  rw [show lanePort 32 = .cp0 from rfl, if_pos (by simp [hin, hst, hdue])]

/-! ## A port becomes ACTIVE, and retrains (R204, R333) -/

/-- When each port became ACTIVE. -/
def activeSince (p : Ports) : Nat × Nat := (p.cp0.activeAt, p.cp1.activeAt)

theorem activeSince_of_rxPorts (h : rxPorts t.ports = rxPorts s.ports) : activeSince t.ports = activeSince s.ports := by
  have h0 : (rxPorts t.ports).cp0.activeAt = (rxPorts s.ports).cp0.activeAt := by rw [h]
  have h1 : (rxPorts t.ports).cp1.activeAt = (rxPorts s.ports).cp1.activeAt := by rw [h]
  exact Prod.ext h0 h1

theorem activeSince_settleHeld (s : State) : activeSince (settleHeld s).ports = activeSince s.ports := by
  have hresync : ∀ (h : HeldFrame) (u : State), activeSince (doResync h u).ports = activeSince u.ports := fun h u => by
    unfold doResync
    extract_lets f n ports s1 resp
    have hsent := activeSince_of_rxPorts (rxPorts_sendFrame resp s1)
    exact hsent
  unfold settleHeld settleResync
  split
  · split
    · exact hresync _ _
    · rfl
  · rfl

theorem activeSince_repref (s : State) : activeSince (repref s).ports = activeSince s.ports := by
  unfold repref
  dsimp only
  split
  · rfl
  · rw [activeSince_settleHeld, activeSince_of_rxPorts (rxPorts_ringBit 29 _)]
    rfl

theorem activeSince_portTold (p : Port) (s : State) : activeSince (portTold p s).ports = activeSince s.ports :=
  (activeSince_of_rxPorts ((rxPorts_ringBit _ _).trans (rxPorts_faultCOpen _ _))).trans (activeSince_repref s)

theorem portUp_since (s : State) : (portSt .cp0 (portUp .cp0 s)).activeAt = s.clock.now := by
  obtain ⟨v, hv⟩ : ∃ v, v = setPort .cp0 { portSt .cp0 s with phase := .active, activeAt := s.clock.now, stable := false } s :=
    ⟨_, rfl⟩
  have hreturn : rxPorts (returnEvent v).ports = rxPorts v.ports := by
    unfold returnEvent
    dsimp only
    split
    · rfl
    · exact rxPorts_sendFrame _ _
  have hcredit : activeSince (firstCredit v).ports = activeSince v.ports := by
    unfold firstCredit
    split
    · rfl
    · refine (activeSince_of_rxPorts (rxPorts_sendCredit _)).trans ?_
      rfl
  have hup : activeSince (portUp .cp0 s).ports = activeSince v.ports := by
    unfold portUp
    dsimp only
    rw [← hv]
    refine (activeSince_portTold .cp0 _).trans ?_
    split
    · exact hcredit
    · split
      · exact activeSince_of_rxPorts hreturn
      · rfl
  refine (congrArg Prod.fst hup).trans ?_
  rw [hv]
  rfl

/-- CP0 with its lane carrying data, before it is up. -/
def carrying (s : State) : State :=
  portCarries (portChan .cp0 true) (portCarries (portChan .cp0 false) (linkSet 32 { linkGet 32 s with
    st := .active, stAt := s.clock.now, txActive := true, rxActive := true, txAt := none, rxAt := none
    returns := 0, bivouacs := 0, rxStripe := 0 } s))

theorem carrying_st (s : State) : (linkGet 32 (carrying s)).st = .active := by
  unfold carrying portCarries
  rw [linkGet_setChan, linkGet_setChan, linkGet_linkSet_self]

theorem portJoins_cp0 (s : State) : (portSt .cp0 (portJoins .cp0 s)).phase = .active ∧
    (portSt .cp0 (portJoins .cp0 s)).activeAt = s.clock.now ∧ (linkGet 32 (portJoins .cp0 s)).st = .active := by
  obtain ⟨v, hv, hlink, hclock⟩ : ∃ v, portJoins .cp0 s = portUp .cp0 v ∧ (linkGet 32 v).st = .active ∧ v.clock = s.clock :=
    ⟨carrying s, rfl, carrying_st s, rfl⟩
  obtain ⟨u, hu, hphase, -⟩ := portUp_told .cp0 v
  have hkeep := portUp_keeps .cp0 (T := [.boot, .dev, .faults, .db, .ports, .cmds, .graphs, .cairn, .out, .free]) rfl
    (Keeps.refl v)
  obtain ⟨htold, -⟩ := portTold_spec .cp0 u
  have hsince := portUp_since v
  rw [hclock] at hsince
  rw [hv]
  refine ⟨?_, hsince, (congrArg LinkSt.st (linkGet_congr (hkeep.same .links (by decide)) 32) :).trans hlink⟩
  rw [hu, htold]
  exact hphase

theorem portDirection_joins {a : Nat} (hphase : (portSt .cp0 s).phase = .training) (hrx : (linkGet 32 s).rxAt = some a)
    (htx : (linkGet 32 s).txActive = true) : portDirection 32 false s = portJoins .cp0
      (linkSet 32 { linkGet 32 s with rxActive := true, rxAt := none, rxSlot := max (linkGet 32 s).rxSlot a } s) := by
  unfold portDirection
  dsimp only
  rw [if_neg Bool.false_ne_true, hrx, show lanePort 32 = .cp0 from rfl, hphase]
  refine if_pos ?_
  rw [linkUp, linkGet_linkSet_self]
  simp [htx]

theorem activeAtReached_cp0 {a : Nat} (hphase : (portSt .cp0 s).phase = .training) (hrx : (linkGet 32 s).rxAt = some a)
    (htx : (linkGet 32 s).txActive = true) : exec (.activeAtReached 32 false) s = .next (portJoins .cp0
      (linkSet 32 { linkGet 32 s with rxActive := true, rxAt := none, rxSlot := max (linkGet 32 s).rxSlot a } s)) := by
  change execActiveAtReached 32 false s = _
  unfold execActiveAtReached
  dsimp only
  rw [if_neg (by decide), if_pos (by decide), if_neg Bool.false_ne_true, hrx, Option.isSome_some, if_pos rfl,
    portDirection_joins hphase hrx htx]

theorem retrainSeen_cp0 (block : Bool) (hphase : (portSt .cp0 s).phase = .active) :
    retrainSeen 32 block s = portSend 32 (portTrains .cp0 (portDown .cp0 s)) := by
  unfold retrainSeen portRetrains
  dsimp only
  rw [if_pos (by decide), show lanePort 32 = .cp0 from rfl, if_pos hphase]

theorem laneRetrain_cp0 (sl : Option (BitVec 48)) (hphase : (portSt .cp0 s).phase = .active) (hst : (linkGet 32 s).st = .active) :
    ∃ t, exec (.laneRetrain 32 sl) s = .next t ∧ (portSt .cp0 t).phase = .training ∧ (linkGet 32 t).st = .send := by
  have hexec : exec (.laneRetrain 32 sl) s = .next (retrainSeen 32 sl.isSome s) := by
    change execLaneRetrain 32 sl s = _
    unfold execLaneRetrain
    rw [if_pos (by simp [hst])]
  rw [retrainSeen_cp0 _ hphase] at hexec
  obtain ⟨hport, -⟩ := portTrains_effect .cp0 (portDown .cp0 s)
  generalize portTrains .cp0 (portDown .cp0 s) = u at hexec hport
  obtain ⟨⟨k, hk⟩, -, hkeep⟩ := portSend_cp0 u
  refine ⟨_, hexec, ?_⟩
  rw [hk, ports_of_keeps hkeep (by decide), hport]
  exact ⟨rfl, rfl⟩

end

end Sys2Proof.Machine

/-!
PROOFS. Training of link ends and of the lanes of the control ports, put together (R202–R204, R327–R333).
-/

namespace Sys2Proof.Machine

section
variable {n : Nat} {s : State}

theorem laneRetrain_link (hn : n < 32) (hst : (linkGet n s).st = .active) (sl : Option (BitVec 48)) :
    exec (.laneRetrain n sl) s = .next
      (if sl.isSome && (linkGet n s).retrainMine && (linkGet n s).leader then s else enterSend n s) := by
  change execLaneRetrain n sl s = _
  unfold execLaneRetrain retrainSeen
  dsimp only
  rw [if_pos (by simp [hst]; omega), if_neg (by omega)]

theorem lightArrival_port {p : Port} (hphase : (portSt p s).phase = .down) (hin : (portSt p s).fenced = false)
    (hhot : s.dev.state ≠ .haltedThermal) (hlaser : (laserGet (portLaser p s) s).fade ≠ .failed)
    (hst : (linkGet (portLink p) s).st ≠ .bivouac) : exec (.lightArrival (.port p)) s = .next (portTrains p s) :=
  if_pos (by simp [hphase, hin, hhot, hlaser, hst])

/-- CP0 in NEGOTIATE meets a host. -/
theorem negotiate_cp0_host {x : TrainInput} (hphase : (portSt .cp0 s).phase = .training)
    (hin : (portSt .cp0 s).fenced = false) (hst : (linkGet 32 s).st = .negotiate) (hdone : (linkGet 32 s).negDone = false)
    (hrole : bitsOf x.farCap.toNat 7 4 = 3) (hver : bitsOf x.farCap.toNat 23 16 = 1) :
    (linkGet 32 (portAdvance 32 x s)).negDone = true ∧ (linkGet 32 (portAdvance 32 x s)).farCap = x.farCap ∧
      Keeps [.links] s (portAdvance 32 x s) := by
  rw [portAdvance_negotiate hphase hin hst, hdone, if_neg Bool.false_ne_true, portNegotiate_host hrole hver]
  obtain ⟨a, b, hget, hk⟩ := nameActive_frame (n := 32) x
    (linkSet 32 { linkGet 32 s with farNonce := x.farNonce, farCap := x.farCap, negDone := true } s)
  rw [linkGet_linkSet_self] at hget
  rw [hget]
  exact ⟨rfl, rfl, (linkSet_keeps 32 _ rfl (Keeps.refl s)).trans hk⟩

/-- CP0 in NEGOTIATE meets another end than a host. -/
theorem negotiate_cp0_other {x : TrainInput} (hphase : (portSt .cp0 s).phase = .training)
    (hin : (portSt .cp0 s).fenced = false) (hst : (linkGet 32 s).st = .negotiate) (hdone : (linkGet 32 s).negDone = false)
    (hbad : bitsOf x.farCap.toNat 7 4 ≠ 3 ∨ bitsOf x.farCap.toNat 23 16 ≠ 1) (hfew : (linkGet 32 s).returns < 3) :
    Faulted 0xD000 .c s (portAdvance 32 x s) ∧ (linkGet 32 (portAdvance 32 x s)).st = .send ∧
      (linkGet 32 (portAdvance 32 x s)).negDone = false ∧
      (linkGet 32 (portAdvance 32 x s)).returns = (linkGet 32 s).returns + 1 := by
  have hreturns := portNegotiate_returns hbad hfew
  have ⟨_, _, hneg, _⟩ := hreturns
  rw [portAdvance_negotiate hphase hin hst, hdone, if_neg Bool.false_ne_true, nameActive_waits (.inl hneg)]
  exact hreturns

end

/-- Settles O42: each state of training ends in one branch of its row; a link end that enters a state has the record of one
that left its group, and what is sent on the way leaves that record alone. -/
theorem linkTraining : Obligations.LinkTraining := by
  refine ⟨fun n x s hn hhot hst htill hloop hwire hconf => ?_, fun n x s hn hhot hst hver => ?_,
    fun n x s hn hhot hst hlock => ?_, fun n x m s hn hhot hst hm hfit => ?_,
    fun n w x s hn hhot hst hdone hloop hneigh hw => ?_,
    fun n x s hn hhot hport hst hdone hfar htx hrx htxAt hrxAt => ?_,
    fun n x s hn hhot hst hdone hnonce hid => ?_, fun x s hhot hphase hin hst hver => ?_,
    fun x s hhot hphase hin hst hver => ?_, fun x s hhot hphase hin hst hlock => ?_,
    fun x slot s hhot hphase hin hst hheard => ?_, fun x s hhot hphase hin hst hdone hrole hver => ?_,
    fun x s hhot hphase hin hst hdone hbad hfew => ?_, fun n s hn hst hdue => ?_, fun n s hn hst hdue hfew => ?_,
    fun n s hn hst hdue hmany hfew => ?_, fun n b s hn hst htill hdue => ?_, fun n a s hn htx => ?_,
    fun n a s hn hrx => ?_, fun n s hn hst hlight hdue => ?_, fun n s hn hst => ?_,
    fun p s hphase hin hhot hlaser hst => ?_, fun s hphase hst hdue => ?_, fun s hphase hst hdue hfew => ?_,
    fun s hphase hst hdue hmany => ?_, fun b s hin hst htill hdue => ?_, fun a s hphase hrx htx => ?_,
    fun sl s hphase hst => laneRetrain_cp0 sl hphase hst, fun n sl s hn hmine hlead => ?_, fun n s hn hst => ?_,
    fun n s hn hact => ?_⟩
  · obtain ⟨hlight, hat⟩ := enterTrain_st (st := .light) (by decide) n s
    exact ⟨_, (exec_trainingAdvance hn hhot).trans
      (congrArg Host.Outcome.next (advance_bivouac hst htill hloop hwire hconf)), hlight, hat⟩
  · exact ⟨_, exec_trainingAdvance hn hhot, advance_send_align hst hver⟩
  · exact ⟨_, exec_trainingAdvance hn hhot, advance_align_map hst hlock⟩
  · obtain ⟨hneg, hat, hrev, huse, hmapped⟩ := advance_map_negotiate hn hst (hm.trans (mappedFit_eq hn x s).symm) hfit
    exact ⟨_, exec_trainingAdvance hn hhot, hneg, hat, hrev, huse, hmapped.restored, hmapped.lane⟩
  · obtain ⟨⟨a, b, hget⟩, hwait, hk⟩ := advance_agrees hst hdone hloop hneigh hw
    refine ⟨_, exec_trainingAdvance hn hhot, ?_, ?_, ?_, ?_, fun hfar => ?_, hk.frame⟩
    · rw [hget]; rfl
    · rw [hget]; rfl
    · rw [hget]; rfl
    · rw [hget]; rfl
    · rw [hwait hfar]
      exact ⟨rfl, rfl⟩
  · by_cases h32 : n < 32
    · rw [exec_trainingAdvance h32 hhot, advance_negotiate hst, hdone, if_pos rfl,
        nameActive_names hdone hfar htx hrx htxAt hrxAt]
    · obtain ⟨hphase, hin⟩ := hport (by omega)
      have hexec : exec (.trainingAdvance n x) s = .next (portAdvance n x s) :=
        (if_neg hhot).trans ((if_neg h32).trans (if_pos hn))
      rw [hexec, portAdvance_negDone hphase hin hst hdone, nameActive_names hdone hfar htx hrx htxAt hrxAt]
  · exact ⟨_, exec_trainingAdvance hn hhot, advance_loops hst hdone hnonce hid⟩
  · obtain ⟨⟨k, hk⟩, hlane, hkeep⟩ := portSend_cp0 s
    refine ⟨_, (exec_trainingAdvance_cp0 x hhot).trans
      (congrArg Host.Outcome.next (portAdvance_light hphase hin hst hver)), ?_⟩
    rw [hk]
    exact ⟨rfl, rfl, rfl, hlane, hkeep.frame⟩
  · rw [exec_trainingAdvance_cp0 x hhot, portAdvance_send hphase hin hst hver]
  · refine ⟨_, (exec_trainingAdvance_cp0 x hhot).trans
      (congrArg Host.Outcome.next (portAdvance_align hphase hin hst hlock)), ?_, ?_,
      (linkSet_keeps 32 _ rfl (setChan_keeps _ _ rfl (Keeps.refl s))).frame⟩
    · rw [portState_link]
    · rw [portState, chanSide_linkSet, chanSide_setChan_self]
  · refine ⟨_, (exec_trainingAdvance_cp0 x hhot).trans
      (congrArg Host.Outcome.next (portAdvance_map hphase hin hst hheard)), ?_, ?_, ?_,
      (linkSet_keeps 32 _ rfl (setChan_keeps _ _ rfl (linkSet_keeps 32 _ rfl (Keeps.refl s)))).frame⟩
    · rw [portState_link]
    · rw [portState_link, linkGet_setChan, linkGet_linkSet_self]
    · rw [portState, chanSide_linkSet, chanSide_setChan_self]
  · obtain ⟨hneg, hcap, hk⟩ := negotiate_cp0_host hphase hin hst hdone hrole hver
    exact ⟨_, exec_trainingAdvance_cp0 x hhot, hneg, hcap, hk.frame⟩
  · exact ⟨_, exec_trainingAdvance_cp0 x hhot, negotiate_cp0_other hphase hin hst hdone hbad hfew⟩
  · exact ⟨_, trainingTimeout_light hn hst hdue, linkDark_down hn s⟩
  · obtain ⟨hsend, hat, -, -⟩ := enterSend_sends n s
    refine ⟨_, trainingTimeout_returns hn hst hdue hfew, ?_⟩
    generalize enterSend n s = u at hsend hat ⊢
    rw [linkGet_linkSet_self]
    exact ⟨hsend, hat, rfl⟩
  · obtain ⟨hbiv, -⟩ := enterTrain_st (st := .bivouac) (by decide) n s
    refine ⟨_, trainingTimeout_bivouacs hn hst hdue hmany hfew, ?_⟩
    generalize enterTrain n .bivouac s = u at hbiv ⊢
    rw [linkGet_linkSet_self]
    exact ⟨hbiv, rfl, rfl, rfl⟩
  · exact ⟨_, bivouacExit_lights hn hst htill hdue, bivouacExit_link n s⟩
  · obtain ⟨u, wasUp, hexec, hu⟩ := activeAtReached_tx hn htx
    obtain ⟨hends, hup⟩ := joinGroup_effect (n := n) wasUp u
    simp only [Prod.mk.injEq, hu] at hends
    obtain ⟨htxA, hrxA, htxAt, -, hslot, -, -⟩ := hends
    refine ⟨_, hexec, htxA, htxAt, hslot, fun hrx => ?_⟩
    obtain ⟨hactive, hfence⟩ := hup (by rw [linkUp, hu]; simp [txStarted, hrx])
    refine ⟨?_, hactive, hfence⟩
    rw [linkUp, htxA, hrxA]
    simp [txStarted, hrx]
  · obtain ⟨u, wasUp, hexec, hu⟩ := activeAtReached_rx hn hrx
    obtain ⟨hends, -⟩ := joinGroup_effect (n := n) wasUp u
    simp only [Prod.mk.injEq, hu] at hends
    obtain ⟨-, hrxA, -, hrxAt, -, hslot, hexpect⟩ := hends
    exact ⟨_, hexec, hrxA, hrxAt, hexpect, hslot⟩
  · exact if_pos (by simp [hn, hst, hlight, hdue])
  · exact if_pos (by simp [hn, hst])
  · obtain ⟨hport, hlight, hat, -⟩ := portTrains_effect p s
    exact ⟨_, lightArrival_port hphase hin hhot hlaser hst, hport, hlight, hat,
      (portTrains_keeps p (T := [.links, .ports]) rfl (Keeps.refl s)).frame⟩
  · exact ⟨_, (trainingTimeout_cp0 hdue).trans (congrArg Host.Outcome.next (portTimeout_light hphase hst)),
      portDead_fences s⟩
  · obtain ⟨hsend, -, hret, hk⟩ := portReturns_sends hfew
    exact ⟨_, (trainingTimeout_cp0 hdue).trans (congrArg Host.Outcome.next (portTimeout_returns hphase hst)), hsend, hret,
      hk.frame⟩
  · refine ⟨_, (trainingTimeout_cp0 hdue).trans (congrArg Host.Outcome.next
      ((portTimeout_returns hphase hst).trans (portReturns_many hmany))), ?_, ?_, ?_,
      (setPort_keeps _ _ (T := [.links, .ports]) rfl (linkSet_keeps 32 _ rfl (Keeps.refl s))).frame⟩
    · rw [portSt_setPort_self]
    · rw [linkGet_setPort, linkGet_linkSet_self]
    · rw [linkGet_setPort, linkGet_linkSet_self]
  · obtain ⟨hport, hlight, -, hnone⟩ := portTrains_effect .cp0 (linkSet 32 { linkGet 32 s with bivouacTill := none } s)
    refine ⟨_, bivouacExit_cp0 hin hst htill hdue, (congrArg PortState.phase hport :), hlight, ?_⟩
    exact hnone.trans (congrArg LinkSt.bivouacTill (linkGet_linkSet_self 32 _ s) :)
  · exact ⟨_, activeAtReached_cp0 hphase hrx htx, portJoins_cp0 _⟩
  · by_cases hst : (linkGet n s).st = .active
    · rw [laneRetrain_link hn hst, if_pos (by simp [hmine, hlead])]
    · exact if_neg (by simp [hst])
  · obtain ⟨hsend, -, hsent, hup⟩ := enterSend_sends n s
    exact ⟨_, (laneRetrain_link hn hst none).trans (congrArg Host.Outcome.next (if_neg (by simp))), hsend, hsent, hup⟩
  · obtain ⟨hsend, hat, -, hup⟩ := enterSend_sends n s
    have hexec : exec (.linkLeavesActive n) s = .next (enterSend n s) := if_pos (by simp only [hn, hact]; rfl)
    exact ⟨_, hexec, hsend, hup, hat⟩

end Sys2Proof.Machine
